-- ==== Sys2Proof/Word.lean ====
section
/-!
DEFINITION. Word.lean: the words of the machine and the plain tables its state is made of.
Sizes follow 00 R10 (little-endian, bit 0 least significant).
-/
namespace Sys2Proof

/-- A byte of a memory, a payload or a record. -/
abbrev Byte := BitVec 8

/-- A 64-bit register (18 R378). -/
abbrev Word := BitVec 64

/-- A 16-bit fabric address (01 R21). -/
abbrev FA := BitVec 16

/-- The largest value of a 64-bit counter (00 R13), also "no generation" (05 R137). -/
def maxWord : Nat := 18446744073709551615

/-- Looks a key up in a table of pairs. -/
def Assoc.find {κ α : Type} [DecidableEq κ] (k : κ) : List (κ × α) → Option α
  | [] => none
  | (a, v) :: t => if a = k then some v else Assoc.find k t

/-- Looks a key up, with the value an unlisted key has. -/
def Assoc.get {κ α : Type} [DecidableEq κ] (d : α) (k : κ) (l : List (κ × α)) : α :=
  (Assoc.find k l).getD d

/-- Takes every entry of a key out. -/
def Assoc.del {κ α : Type} [DecidableEq κ] (k : κ) (l : List (κ × α)) : List (κ × α) :=
  l.filter fun e => decide (e.1 ≠ k)

/-- Writes one entry: in place where the key is listed, at the end where it is not. -/
def Assoc.set {κ α : Type} [DecidableEq κ] (k : κ) (v : α) : List (κ × α) → List (κ × α)
  | [] => [(k, v)]
  | (a, w) :: t => if a = k then (k, v) :: t else (a, w) :: Assoc.set k v t

end Sys2Proof
end

