-- ==== Sys2Proof/Syntax.lean ====
section
/-!
DEFINITION. Syntax.lean: the commands of the block, one constructor per row of spec/opcode_table.json,
and the operands they carry. A command carries what comes to the block from outside: bytes, a port, an index,
a measured value.
-/
namespace Sys2Proof

/-- A fetched submission entry (18 R384): the submission ring it came from and the entry's fields. -/
structure Req where
  sq      : Nat
  opc     : Byte
  flags   : Byte
  rid     : BitVec 32
  param   : Word
  pbytes  : Nat
  result  : Word
  rbytes  : Nat
  args    : List Byte
  deriving DecidableEq, Repr

/-- The head of a collective message (04 R82). -/
structure Head where
  sig    : Word
  step   : Nat
  chunk  : Nat
  elems  : Nat
  msg    : Byte
  flags  : Byte
  status : Byte
  tree   : Byte
  lastFa : FA
  late   : Nat
  layer  : Nat
  deriving DecidableEq, Repr

/-- A collective message: its stream (04 R83), its head and the data bytes after it (04 R81). -/
structure Msg where
  src  : FA
  hdl  : BitVec 20
  head : Head
  data : List Byte
  deriving DecidableEq, Repr

/-- A MIRROR message (05 R115): its head and the folded gradient in FP32. -/
structure MirrorMsg where
  src    : FA
  hdl    : BitVec 20
  sig    : Word
  step   : Nat
  chunk  : Nat
  elems  : Nat
  lr     : BitVec 32
  offset : Nat
  data   : List Byte
  deriving DecidableEq, Repr

/-- A write message (08 R201): its stream, its head and its data. -/
structure WriteMsg where
  src    : FA
  hdl    : BitVec 20
  handle : Nat
  elems  : Nat
  step   : Nat
  start  : Nat
  data   : List Byte
  deriving DecidableEq, Repr

/-- Position of a granule as transfer heads and heal requests name it (12 R283, R284). -/
structure GranuleRef where
  gen    : Nat
  role   : Byte
  offset : Nat
  deriving DecidableEq, Repr

/-- What asks for a module reset (21 R430): MOD_RESET_N, a write of PWR_RESET_CTL, or recovery after a trip. -/
inductive ResetCause where
  | pin
  | ctl (value : Word)
  | recovery
  deriving DecidableEq, Repr

/-- What causes a cold reset (21 R430): input applied, after a fall below 34 V or not, or PWR_EN falling and rising. -/
inductive ColdCause where
  | input (below34 : Bool)
  | pwrEn
  deriving DecidableEq, Repr

/-- What the two signature verifications of Lapis answer for one header (20 R407 checks 4 and 5, log 6). -/
structure SigAnswer where
  rsa : Bool
  slh : Bool
  deriving DecidableEq, Repr

/-- What the world gives a bring-up stage (21 R431): straps and clocks (stages 1 and 3), memory training (stage 5, 11 R263: the identity
registers of the populated packages, the channels at which the verify pass of the training record fails, and the first channel that
fails full training), the UCIe modules that trained (stage 7), and what Lapis's key and signature engines
answer (stage 4, log 6). -/
structure StageReport where
  geo         : BitVec 6
  sysClock    : Bool
  linkClocks  : BitVec 4
  pkgIds      : List (BitVec 64)
  verifyFails : List Nat
  failChannel : Option Nat
  m0          : Bool
  m1          : Bool
  unwrapOk    : Bool
  activeSig   : SigAnswer
  standbySig  : SigAnswer
  deriving DecidableEq, Repr

/-- What training found at the far end of a port (01 R19, 12 R268): the peer's address and role byte
(as 12 R271 lays ROLE out), the width and lane reversal. -/
structure PeerReport where
  fa      : FA
  role    : Byte
  width   : BitVec 2
  laneRev : Bool
  deriving DecidableEq, Repr

/-- A health measurement (17 R371): the ratio of a fabric port in 1/1,024, a deviation or a margin. -/
inductive Measure where
  | eye (heightMv width : Nat)
  | rail (deviationPm : Nat)
  | optical (marginCdb : Nat)
  | errors
  deriving DecidableEq, Repr

/-- Errors that the memory array holds in a data block (11 R255): the block's number in the usable space and
the symbols in error with the value by which they differ. -/
structure Upset where
  block   : Nat
  symbols : List (Nat × BitVec 16)
  deriving DecidableEq, Repr

/-- The commands: one constructor per row of spec/opcode_table.json. -/
inductive Instr where
  -- steward rings
  | sqDoorbell (ring : Nat) (value : Word)
  | cqDoorbell (ring : Nat) (value : Word)
  | ringConfigWrite (ring : Nat) (value : Word)
  | msiUnmask (vec : Nat) (value : Word)
  | sqEntryFetch (ring : Nat) (entry : List Byte)
  -- service requests
  | planInstall (rq : Req) (binary : List Byte)
  | planRemove (rq : Req)
  | membershipSet (rq : Req) (record : List Byte)
  | stateDefine (rq : Req) (param : List Byte)
  | stateImport (rq : Req) (param : List Byte)
  | stateExport (rq : Req)
  | stateExportDone (rid : BitVec 32)
  | ledgerQuery (rq : Req)
  | rollback (rq : Req)
  | fence (rq : Req)
  | resilver (rq : Req) (peerOk : Bool)
  | resilverCopyDone
  | fwUpdate (rq : Req) (image : List Byte) (sig : SigAnswer)
  | fwImageWritten
  | fwHandoff (recordOk : Bool)
  | attest (rq : Req)
  | telemetrySnapshot (rq : Req)
  | portConfig (rq : Req)
  | gateConfig (rq : Req) (entries : List Byte)
  | meterConfig (rq : Req)
  | logConfig (rq : Req) (mask : List Byte)
  | wipe (rq : Req)
  | wipeDone
  | lifecycle (rq : Req) (record : List Byte) (sig : SigAnswer)
  | abort (rq : Req)
  -- register accesses
  | stewardRd (header : List Byte)
  | bmcRead (offset : Nat) (count : Nat)
  | registerWrite (header : List Byte) (data : List Byte)
  | fabricPosWrite (torusDim : Bool) (value : Word)
  | memRegionSizeWrite (value : Word)
  | counterOvfClear (addr : Nat) (value : Word)
  | veTrapClear (value : Word)
  | memUeLogClear (value : Word)
  | alertClear (value : Word)
  | lockstepRequest (value : Word)
  | lockstepEnter
  | gateCtlWrite (port : Nat) (value : Word)
  | gateListActivate (port : Nat)
  | gateEntryBoundary (port : Nat)
  | cmConfigWrite (cls : Option Nat) (value : Word)
  | evtRingWrite (value : Word)
  | fwCtlRestart (value : Word)
  -- resets, power, clocks
  | engineReset (value : Word)
  | moduleReset (cause : ResetCause)
  | coldReset (cause : ColdCause)
  | bringUpStageDone (report : StageReport)
  | supplyTrip
  | moonstoneSaveDone
  | supplyRestored
  | vinHigh (vinCv : BitVec 16)
  | thermalTrip (leak : Bool)
  | thermWarn (tj : Byte)
  | clkLockLost (plls : BitVec 3)
  | linkRefclkLost (quadrant : Nat)
  | xtalLost
  | uciDegraded (second : Bool)
  -- links
  | dataFrameReceive (port : Nat) (frame : List Byte)
  | controlFrameReceive (port : Nat) (frame : List Byte)
  | linkAckTimeout (port : Nat)
  | controlSlotLoss (port : Nat)
  | laneFail (phys : Nat) (lane : Nat)
  | portUp (port : Nat) (peer : PeerReport)
  | linkTrainFail (port : Nat)
  | portDown (port : Nat)
  | portRetrainTimer (port : Nat)
  -- ingress, cell memory, scheduling
  | cellReceive (port : Nat) (bytes : List Byte)
  | adaptiveEgressChoice (ptr : Nat)
  | schedulerSelect (port : Nat)
  | rateWheelWake (port : Nat) (cls : Nat)
  | cellTransmit (port : Nat) (overrun : Nat)
  | localCellDeliver (ep : Nat) (cls : Nat)
  | nakTimer (src : FA) (hdl : BitVec 20)
  | probeTimer (dst : FA) (hdl : BitVec 20)
  | ackReceive (src : FA) (hdl : BitVec 20) (ackSeq : BitVec 24) (credits : Nat) (step : Nat)
  | nakReceive (src : FA) (hdl : BitVec 20) (step : Nat) (ranges : List (Nat × Nat))
  -- endpoint protocol
  | launch (src : FA) (hdl : BitVec 20) (step : Nat) (sig : Word) (scalar : BitVec 32)
  | heartbeatSend (port : Nat)
  | heartbeat (port : Nat) (step : Nat) (count : Nat) (flags : Byte)
  | heartbeatMiss (port : Nat)
  | stepEnd (port : Nat) (step : Nat) (verdict : Byte)
  -- twin, fencing, recovery
  | twinHbSend (port : Nat)
  | twinHb (port : Nat) (step : Nat) (count : Nat) (silent : BitVec 48)
  | twinSilent
  | twinBWaitEnd
  | silence (step : Nat) (silent : BitVec 48)
  | fenceNotice (src : FA) (party : FA) (epoch : BitVec 4) (deferred : Bool) (beat : Nat)
  | fenceBumpDeferred (party : FA)
  | admitNotice (src : FA) (party : FA) (epoch : BitVec 4) (gen : Nat)
  | linkNotice (src : FA) (reporter : FA) (dim : Nat) (minus : Bool) (restored : Bool) (beat : Nat)
  | digest (step : Nat) (d : Word) (word : BitVec 32)
  | digestSend (step : Nat)
  | commitNotice (step : Nat) (record : List Byte)
  | normResult (hdl : BitVec 20) (sum : BitVec 32) (step : Nat)
  | healRequest (src : FA) (tag : Nat) (ref : GranuleRef)
  | healRequestTimeout
  | healFail (ref : GranuleRef) (reason : Byte)
  | healData (ref : GranuleRef) (data : List Byte)
  | granuleReceive (ref : GranuleRef) (data : List Byte)
  | controlRecordReceive (gen : Nat) (record : List Byte)
  -- fold collectives
  | contribReceive (m : Msg)
  | expsReceive (m : Msg)
  | expsSend (hdl : BitVec 20) (chunk : Nat)
  | maxeReceive (m : Msg)
  | psumReceive (m : Msg)
  | psumSend (hdl : BitVec 20) (chunk : Nat)
  | foldResultForm (hdl : BitVec 20) (chunk : Nat)
  | resultReceive (m : Msg)
  | gatherReceive (m : Msg)
  | exchReceive (m : Msg) (src dst : Nat)
  | endReceive (m : Msg)
  -- training
  | mirrorReceive (m : MirrorMsg)
  | rugUpdate (hdl : BitVec 20) (chunk : Nat) (upsets : List Upset)
  | normPassStart (normPlan : Nat) (step : Nat)
  | carry
  | commitOnReady
  -- plan programs
  | writeMessageReceive (m : WriteMsg)
  | queueContextStart
  | opIssue (hdl : BitVec 20) (qid : Nat)
  | opIterationDone (hdl : BitVec 20) (qid : Nat)
  | waitCycle (hdl : BitVec 20)
  | spaccPass2 (hdl : BitVec 20)
  -- memory upkeep, firmware, events, health
  | healStart
  | refresh (channel : Nat)
  | refreshStatusRead (package : Nat) (above95 : Bool)
  | memHotClear
  | patrolScrub (channel : Nat) (symbols : List (Nat × BitVec 16))
  | watchdogExpire (cores : Byte)
  | fwRestartDone
  | eventRingEntryWrite
  | healthSample (component : Nat) (measure : Measure)
  | stateImportDone (rid : BitVec 32)
  | pwrEnLow
  | linkRefclkRestored (quadrant : Nat)
  | inputFuseOpen
  | thermWarnClear (tj : Byte)
  | updateWaitTimeout
  deriving DecidableEq, Repr

end Sys2Proof
end

