-- ==== Sys2Proof/Decode.lean ====
section
/-!
DEFINITION. Decode.lean: words of the command table. The table gives its rows no bits, so no word spells a command.
-/
namespace Sys2Proof

/-- The command that a word spells by the table's bits: none of the 141 rows has any (log 11). -/
def decodeTableWord (_nbits _w : Nat) : Option Instr := none

end Sys2Proof
end

