-- ==== Sys2Proof/Config.lean ====
section
/-!
DEFINITION. Config.lean: what manufacture or an implementation fixes, and the free values.
Each opaque constant has no body, so nothing can be proved of its value; the log entry named at each says why it is open.
-/
namespace Sys2Proof

/-- A fresh value that the spec leaves open, drawn by number (log 5). -/
opaque Config.free : Nat → Nat

/-- METAL and BASE of ID_PART, set at manufacture (22 R438, log 4). -/
opaque Config.stepping : BitVec 8

/-- Adaptive routing allowed for a destination: the spec gives the bit, not the policy (13 R288, log 8). -/
opaque Config.adaptAllowed : Nat → Bool

/-- AR bit of the stream cells that this module originates (12 R274, log 8). -/
opaque Config.originAdaptive : Bool

/-- Group table that firmware writes for a plan set and a membership generation: the spec gives the table, not which group
address serves which tree (13 R290, log 13). -/
opaque Config.groupTable : List Nat → Nat → List (Nat × Word)

/-- Addresses of the modules that a group reaches, by group address and membership generation (13 R300, log 13). -/
opaque Config.groupMembers : Nat → Nat → List Nat

/-- Phase of a port's superframes against the core clock, in 1/1,799 of a cycle: training sets it (12 R267, log 14). -/
opaque Config.framePhase : Nat → Nat

/-- Width d of the o rows of the LSE folds with a plan signature: no field of a plan or a message states it (03 R69, 07 R178,
log 19). -/
opaque Config.lseWidth : Word → Nat

/-- Engine port of a plan: firmware's mapping (14 R312, log 7). -/
opaque Config.enginePort : Nat → Nat

/-- Vector engine that runs a piece of work: firmware's mapping (08 R189, log 7). -/
opaque Config.vectorEngine : Nat → Nat

/-- Which slot of a bundle counts as issued later when both write one register in the same cycle (09 R218, log 32). -/
opaque Config.slotMLater : Bool

/-- Working memory in KiB that a plan binary reserves (22 R441, log 9). -/
opaque Config.workKib : List Byte → Nat

/-- SPILL bytes that a plan binary reserves (13 R298, 13 R304, log 9). -/
opaque Config.spillBytes : List Byte → Nat

/-- RSASSA-PSS signature with the RSA device key, 384 bytes by number (20 R410, log 6). -/
opaque Config.rsaSign : List Byte → List Byte → Nat → List Byte

/-- SLH-DSA-SHA2-128f signature with the seed of the device key (20 R410, log 6). -/
opaque Config.slhSign : List Byte → List Byte → List Byte

/-- SLH-DSA public key of a seed (20 R403, log 6). -/
opaque Config.slhPublic : List Byte → List Byte

/-- A byte of Lapis noise: seeds, wrap keys, RSA key pairs, salts (20 R403, log 6). -/
opaque Config.noise : Nat → Nat → Byte

/-- The RSA public modulus and exponent of a wrapped key, 388 bytes (20 R411, log 6). -/
opaque Config.rsaPublic : List Byte → List Byte

/-- SHA-384 of the Lapis ROM, measurement M0 (20 R409, log 4). -/
opaque Config.romMeasure : List Byte

/-- Whether a granule of the usable space holds part of an object that firmware placed there: kind 1 = route records of a plan, 2 = straggler records, 3 = WAIT_CYCLE snapshot, 4 = other content of a plan, 5 = a
stored key/value block (context, then producer and block), 6 = SPILL data of an instance (11 R258, log 21). -/
opaque Config.inGranule : Nat → List Nat → Nat → Bool

/-- Place of a shard's learning-rate table in the PLAN region, in units of one FP32 entry (05 R106, 11 R258, log 21). -/
opaque Config.tableAt : Nat → Nat

/-- Version of the training records that a firmware version reads (11 R263, log 116). -/
opaque Config.trainVersion : Nat → Nat

/-- Place of the handoff record in the FW region, in granules (19 R399, log 117). -/
opaque Config.handoffAt : Nat

/-- What a handoff record holds beyond its header, by FW_VERSION and a fresh number (19 R399, log 117). -/
opaque Config.handoffBody : Nat → Nat → List Byte

/-- Sections of that content (19 R399, log 117). -/
opaque Config.handoffSections : Nat → Nat → Nat

end Sys2Proof
end

