-- ==== Sys2Proof/Machine/State.lean ====
section
/-!
DEFINITION. Machine/State.lean: the state of one module, as plain data, and its value right after reset.
Queues and tables are lists; a table lists only the entries that differ from their reset value.
-/
namespace Sys2Proof.Machine

open Sys2Proof

/-- Why the machine stops with a fault. No command of this block ends so: the spec gives every command an effect,
or none at all, and both are next states. -/
inductive Fault where
  /-- Raised by no meaning; kept so that the type names what a hole in the address space would be. Safe. -/
  | addressHole (addr : Nat)
  deriving DecidableEq, Repr

/-- Why a command has no meaning. -/
inductive Refusal where
  /-- Raised by an arm of exec whose command is not modelled yet. Safe. -/
  | notModelled (mnemonic : String)
  deriving DecidableEq, Repr

/-! ### Cells, frames, links -/

/-- A cell: its header fields (12 R274, without HCRC, which each transmitter recomputes) and LEN payload bytes. -/
structure Cell where
  dst     : FA
  src     : FA
  tc      : Nat
  kind    : Nat
  fl      : Bool
  ar      : Bool
  clr     : Nat
  len     : Nat
  age     : Nat
  hdl     : BitVec 20
  seq     : Nat
  epo     : BitVec 4
  payload : List Byte
  deriving DecidableEq, Repr

/-- What left the module at its boundary, oldest first (log 3). A data frame stands with the number of its frame slot (12 R267). -/
inductive Out where
  | wr (addr : Nat) (data : List Byte)
  | cpl (tag : Nat) (bad : Bool) (data : List Byte)
  | msi (addr : Nat) (data : BitVec 16)
  | bmc (data : List Byte)
  | dataFrame (port : Nat) (slot : Nat) (frame : List Byte)
  | controlFrame (port : Nat) (frame : List Byte)
  | trainPort (port : Nat)
  deriving DecidableEq, Repr

/-- Configured role of a port (01 R18). -/
inductive Role where
  | unused
  | endpoint
  | torus (dim : Nat) (minus : Bool)
  | twin
  deriving DecidableEq, Repr

/-- LP_PORT_STATUS.STATE (12). -/
inductive PortState where
  | down
  | training
  | up
  | roleMismatch
  deriving DecidableEq, Repr

/-- One logical port: configuration, status and link state (12 R267 to R273, 17 R349 to R352). `half` is the half that a
degraded x8 port uses until PORT_CONFIG (12 R269), `lastSlot` the frame slot of the last data frame. -/
structure Port where
  role       : Role
  split      : Bool
  state      : PortState
  width      : BitVec 2
  laneBad    : Byte
  peerFa     : FA
  peerPlane  : Bool
  peerRole   : Byte
  laneRev    : Bool
  refclkLost : Bool
  rxFseq     : Nat
  txFseq     : Nat
  replay     : List (Nat × Cell)
  nak        : Bool
  lastNak    : Option (Nat × Nat)
  resendFrom : Nat
  resends    : Nat
  sent       : List Nat
  cred       : List Nat
  limit      : List Nat
  freed      : List Nat
  grant      : List Nat
  failed     : Bool
  degrading  : Bool
  half       : BitVec 2
  lastSlot   : Nat
  rxCells    : List (List Byte)
  misses     : Nat
  silent     : Bool
  hbSent     : Nat
  retrains   : Nat
  otherUp    : Bool
  hbHeard    : Bool
  twinHbSent : Nat
  epStep     : Word
  deriving DecidableEq, Repr

/-- A logical port right after module reset (12). -/
def Port.reset : Port where
  role := .unused
  split := false
  state := .down
  width := 0
  laneBad := 0
  peerFa := 0
  peerPlane := false
  peerRole := 0
  laneRev := false
  refclkLost := false
  rxFseq := 0
  txFseq := 0
  replay := []
  nak := false
  lastNak := none
  resendFrom := 0
  resends := 0
  sent := []
  cred := []
  limit := []
  freed := []
  grant := []
  failed := false
  degrading := false
  half := 0
  lastSlot := 0
  rxCells := []
  misses := 0
  silent := false
  hbSent := 0
  retrains := 0
  otherUp := false
  hbHeard := false
  twinHbSent := 0
  epStep := 0x7FFFFFFFFFFFFFFF#64

/-! ### Registers -/

/-- The read/write registers that hold what is written to them (22), each under its own name. -/
inductive Reg where
  | idScratch
  | lpHbCfg
  | rtFabricPos
  | rtTorusDim
  | rtCtl
  | rtPortGroup (n : Nat)
  | cmPoolCfg
  | cmClassCfg (n : Nat)
  | schPortCfg (n : Nat)
  | schGateCtl (n : Nat)
  | schRate (n : Nat)
  | polRate (n : Nat)
  | polBurst (n : Nat)
  | veCtl
  | veTrap
  | memRegionSize
  | memCtl
  | tokWaitLimit
  | uciWindow (n : Nat)
  | uciMsi (n : Nat)
  | pwrCfg
  | telHealthCfg
  | telMarginRef
  | evtRing
  deriving DecidableEq, Repr

/-! ### Cell memory and scheduling -/

/-- What a cell slot is charged to (14 R309, R313). -/
inductive Charge where
  | grant (port : Nat) (tc : Nat)
  | shared
  | escape
  | ended
  deriving DecidableEq, Repr

/-- A queue of cell pointers (14 R311): an egress queue of a logical port, or a local queue of an engine port. -/
inductive QKey where
  | egress (port : Nat) (tc : Nat)
  | toEngine (ep : Nat) (tc : Nat)
  deriving DecidableEq, Repr

/-- A cell slot in use and its record (14 R309). `entered` is how many queue entries made at arrival still stand
(14 R314); `port` is where the cell arrived, none where the module originated it; `heads` gives queue entries of a relayed cell
the DST and SEQ of their copies (07 R173). -/
structure CellSlot where
  ptr      : Nat
  cell     : Cell
  refs     : Nat
  tIn      : Nat
  charge   : Charge
  entered  : Nat
  retained : Bool
  port     : Option Nat
  heads    : List (QKey × FA × Nat)
  deriving DecidableEq, Repr

/-- Cell memory: slots in use, queues, adaptive cells that wait for a candidate with their candidates (13 R289), the read
windows of the port clients with logical port, pointer, selected copy and the cycle in which its last slice is read (14 R307,
R308), the cycle from which each client's lane is free (14 R307), and engine outputs that wait for room with whether they are
retained (14 R313). `ends` gives selected entries (port, pointer) the grid end of the gate window they were selected in (15 R331),
`inForce` the values that configuration registers keep until the next cell is admitted (14 R318). -/
structure CellMem where
  slots   : List CellSlot
  queues  : List (QKey × List Nat)
  waiting : List (Nat × List Nat)
  windows : List (Nat × List (Nat × Nat × Cell × Nat))
  ends    : List ((Nat × Nat) × Nat)
  inForce : List (Reg × Word)
  lanes   : List ((Nat × Nat) × Nat)
  blocked : List (Cell × Bool)
  deriving DecidableEq, Repr

/-- A gate list entry (15 R328). -/
structure GateEntry where
  dur   : Nat
  opens : BitVec 5
  deriving DecidableEq, Repr

/-- A gate list that waits for its first grid start (15 R328). -/
structure GateLoad where
  entries : List GateEntry
  last    : Nat
  en      : Bool
  start   : Nat
  deriving DecidableEq, Repr

/-- Scheduler, gate and meter state of a logical port (15). `frameEnd` is the end of the frame slot last predicted, in 1/1,799 of
a core cycle. `entry` is the open gate entry and [gFrom, gTill) the slots it
runs; `late` is the grid end of the last window that ended late with the overrun counted for it, and `frames` gives unacknowledged
FSEQs the grid end of the window they were selected in (15 R331); `held` lists the classes that the gate holds, `parked` those on the rate wheel. Weighted classes stand in the order UP, EXCH, BULK, MIRROR; limited classes TC1 to TC5; metered classes TC1 to TC4. -/
structure Sched where
  vtime     : Nat
  stags     : List Nat
  held      : List Nat
  tr        : List Nat
  parked    : List Nat
  gates     : List GateEntry
  load      : Option GateLoad
  entry     : Option Nat
  gFrom     : Nat
  gTill     : Nat
  delay     : Nat
  late      : Option (Nat × Nat)
  frames    : List (Nat × Nat)
  frameEnd  : Nat
  tc        : List Nat
  tp        : List Nat
  meterSlot : List Nat
  deriving DecidableEq, Repr

/-- Scheduler state after module reset (15 R329): gate entries DUR 1 and open; buckets full (their sizes are 0). -/
def Sched.reset : Sched where
  vtime := 0
  stags := [0, 0, 0, 0]
  held := []
  tr := [0, 0, 0, 0, 0]
  parked := []
  gates := List.replicate 64 ⟨1, 0x1F#5⟩
  load := none
  entry := none
  gFrom := 0
  gTill := 0
  delay := 0
  late := none
  frames := []
  frameEnd := 0
  tc := [0, 0, 0, 0]
  tp := [0, 0, 0, 0]
  meterSlot := [0, 0, 0, 0]

/-! ### Routing, epochs, streams, membership -/

/-- Epoch table entry of a party (13 R303, 17 R356). `last` keeps the notices already applied since the FENCED state
last changed (12 R282): whether it was a fence, the epoch and DEFERRED. -/
structure Party where
  epoch    : Nat
  fenced   : Bool
  lastBump : Option Nat
  deferred : Bool
  applied  : List (Bool × Nat × Bool)
  deriving DecidableEq, Repr

/-- Epoch table entry after module reset (17). -/
def Party.reset : Party := ⟨0, false, none, false, []⟩

/-- A membership entry (18 R386). -/
structure Member where
  fa     : FA
  isMod  : Bool
  admits  : Bool
  plane  : Bool
  port   : Nat
  twinA  : FA
  x      : Nat
  y      : Nat
  z      : Nat
  deriving DecidableEq, Repr

/-- A receive stream (13 R294 to R299): every SEQ below `base` has arrived, and those in `above`; `done` is the first
SEQ of the next message; `cells` are the cells of unfinished messages; `held` are held flagged cells. -/
structure RxStream where
  step    : Option Nat
  base    : Nat
  above   : List Nat
  done    : Nat
  cells   : List (Nat × Cell)
  held    : List Nat
  lastAck : Nat
  naks    : Nat
  deriving DecidableEq, Repr

/-- A receive stream before its first cell. -/
def RxStream.new (step : Option Nat) : RxStream := ⟨step, 0, [], 0, [], [], 0, 0⟩

/-- A retained cell (13 R298): with the receivers that have acknowledged it, whether it belongs to a credited
message, and the cell slot that holds it, none once it has moved to SPILL (14 R316). -/
structure Retained where
  cell     : Cell
  credited : Bool
  acked    : List FA
  ptr      : Option Nat
  deriving DecidableEq, Repr

/-- A transmit stream (13 R298). -/
structure TxStream where
  step     : Nat
  nextSeq  : Nat
  unsent   : List (Cell × Bool)
  retained : List Retained
  probes   : Nat
  deriving DecidableEq, Repr

/-- A transmit stream before its first cell. -/
def TxStream.new (step : Nat) : TxStream := ⟨step, 0, [], [], 0⟩

/-- Route, group and epoch tables, membership, streams (13, 17, 18 R387). -/
structure Routing where
  routes    : List ((Nat × Nat) × BitVec 32)
  groups    : List (Nat × Word)
  parties   : List (FA × Party)
  dimord    : Nat
  unreach   : Bool
  badRaised : Bool
  placed    : Bool
  gen       : Nat
  members   : List Member
  broken    : List (FA × Nat × Bool)
  lastFa    : FA
  lastEpoch : Nat
  rx        : List ((FA × BitVec 20) × RxStream)
  tx        : List ((FA × BitVec 20) × TxStream)
  inbox     : List (FA × BitVec 20 × List Cell)
  deriving DecidableEq, Repr

/-! ### Plans -/

/-- COLLECTIVE section (08 R187). -/
structure Coll where
  kind     : Nat
  cfmt     : Nat
  rfmt     : Nat
  trees    : Nat
  foldctl  : BitVec 16
  depth    : Nat
  commit   : Bool
  skipNf   : Bool
  count    : Nat
  root     : Nat
  normPlan : Nat
  clip     : BitVec 32
  resH     : Nat
  deriving DecidableEq, Repr

/-- Owner table entry (05 R111). -/
structure Owner where
  a      : FA
  b      : FA
  shard  : Nat
  offset : Nat
  deriving DecidableEq, Repr

/-- Dispatch section (06 R144). -/
structure DispatchSec where
  nexp    : Nat
  k       : Nat
  role    : Nat
  epm     : Nat
  gate    : Nat
  flags   : Byte
  cap     : Nat
  tmax    : Nat
  hid     : Nat
  tfmt    : Nat
  ofmt    : Nat
  rfmt    : Nat
  lscale  : BitVec 32
  router  : Nat
  fwdPlan : Nat
  deriving DecidableEq, Repr

/-- Sparse section (06 R158, 08). -/
structure SparseSec where
  fmt     : Nat
  rfmt    : Nat
  satsel  : Nat
  predict : Bool
  deliver : Bool
  outform : Nat
  out     : Nat
  bpm     : Nat
  deriving DecidableEq, Repr

/-- Sequence section (07 R168). -/
structure SeqSec where
  ctx       : Nat
  role      : Nat
  view      : Nat
  order     : Nat
  seqlen    : Nat
  tokb      : Nat
  btok      : Nat
  layers    : Nat
  freeAfter : Bool
  deriving DecidableEq, Repr

/-- Tensor descriptor (08 R191). Dimensions are (SIZE, STRIDE) of the NDIM dimensions. -/
structure Descr where
  space   : Nat
  fmt     : Nat
  scaled  : Bool
  land    : Bool
  base    : Nat
  toFa    : FA
  toH     : Nat
  region  : Nat
  landQ   : Nat
  landC   : Nat
  scales  : Nat
  dims    : List (Nat × Int)
  raw     : List Byte
  deriving DecidableEq, Repr

/-- A signal entry (08 R199). -/
structure Signal where
  queue : Nat
  ctr   : Nat
  slvl  : Nat
  deriving DecidableEq, Repr

/-- A level word (08 R195): how often the level runs, and the dimension of H0 to H3 that it advances. -/
structure Level where
  trip : Nat
  dsel : List Nat
  deriving DecidableEq, Repr

/-- An op (08 R194). -/
structure Op where
  opc     : Nat
  pred    : Nat
  pen     : Bool
  pneg    : Bool
  wlvl    : Nat
  h       : List Nat
  wait    : BitVec 32
  signals : List Signal
  levels  : List Level
  imm     : List Byte
  deriving DecidableEq, Repr

/-- A QUEUE section (08 R188). -/
structure PQueue where
  qid   : Nat
  cls   : Nat
  bind  : Option Nat
  tinit : List Nat
  ops   : List Op
  deriving DecidableEq, Repr

/-- A kernel (09 R214): FOLLOW bytes, extra handles, constants, and bundles as their slot A and slot M words. -/
structure Kernel where
  entry   : Nat
  carry   : Bool
  follow  : List Byte
  extra   : List Nat
  consts  : List (BitVec 32)
  bundles : List (Word × Word)
  raw     : List Byte
  deriving DecidableEq, Repr

/-- An installed plan (04 R74, 08 R183). -/
structure Plan where
  num      : Nat
  sig      : Word
  planVer  : Nat
  coll     : Option Coll
  members  : List FA
  owners   : List Owner
  dispatch : Option DispatchSec
  sparse   : Option SparseSec
  seqn     : Option SeqSec
  descs    : List (Nat × Descr)
  queues   : List PQueue
  kernels  : List Kernel
  workKib  : Nat
  spill    : Nat
  deriving DecidableEq, Repr

/-! ### Instances -/

/-- Slot state (04 R79). -/
inductive SlotState where
  | free
  | opened
  | closed
  deriving DecidableEq, Repr

/-- Fold state of one chunk at this module (04 R89). `contribs` and the lists after it hold what each input sent;
a contribution is none for a presence message or a member lost before alignment (04 R91, R101). `arrived` lists the
inputs whose message completed, with the time, and the LAST_FA and LATE that a child's head carried; `arrived2` those of the
second phase-A round of LSE (04 R105, 07 R179). -/
structure Chunk where
  contribs : List (FA × Option (List Byte))
  exps     : List (FA × List Byte)
  exps2    : List (FA × List Byte)
  expsSent : Nat
  maxe     : Option (List Byte)
  maxe2    : Option (List Byte)
  psums    : List (FA × List Byte)
  psumSent : Bool
  arrived  : List (FA × Nat × FA × Nat)
  arrived2 : List (FA × Nat × FA × Nat)
  formed   : Bool
  sentDown : Bool
  deriving DecidableEq, Repr

/-- A chunk before its first message. -/
def Chunk.new : Chunk := ⟨[], [], [], 0, none, none, [], false, [], [], false, false⟩

/-- RUG state of one chunk this node owns (05 R114): the folded gradient in FP32, η, and how far the chunk has come. -/
structure RugChunk where
  grad     : List Byte
  lr       : BitVec 32
  parked   : Bool
  applied  : Bool
  mirrored : Bool
  fromTwin : Bool
  deriving DecidableEq, Repr

/-- The last message of a pair of a plain exchange that the sender's leaf let pass (04 R93, R98): source and destination, chunk and
ELEMS, the bytes it holds, FLAGS.LAST, and whether its last cell has passed. -/
structure Passing where
  src   : FA
  dst   : FA
  chunk : Nat
  bytes : Nat
  last  : Bool
  gone  : Bool
  deriving DecidableEq, Repr

/-- A slot record and the instance that holds it (04 R79, R99). `ends` counts the ENDs of each tree (TREE byte), own ones
included; `credits` lists the (input, chunk) pairs that hold a staging credit here, `credOut` those this module holds at
others, and `waitOut` the messages that wait for one; `trees` holds the member modules of planes A and B with their
positions and `locals` the members this module serves, as they stood when the slot opened (18 R388); `absent` lists
members lost to fences; `relayed` is the next SEQ of each (source, receiver) whose messages this module passes on, `passing` the last
message of each pair of a plain exchange that passed here (04 R93), and `missing` tells that a REPLAY found a block missing
(07 R175). -/
structure Slot where
  state     : SlotState
  step      : Nat
  pmask     : Nat
  status    : Nat
  scalar    : Option (BitVec 32)
  joined    : List FA
  offenders : List FA
  absent    : List FA
  ends      : List (Nat × Nat)
  rootDone  : List Nat
  refused   : List FA
  credits   : List (FA × Nat)
  credOut   : List (FA × Nat)
  waitOut   : List (FA × Head × List Byte)
  chunks    : List (Nat × Chunk)
  rug       : List (Nat × RugChunk)
  sentDown  : List (Nat × FA)
  lasts     : List FA
  lseD      : Nat
  openedAt  : Nat
  order     : Nat
  treesA    : List (FA × Nat × Nat × Nat)
  treesB    : List (FA × Nat × Nat × Nat)
  locals    : List FA
  relayed   : List ((FA × FA) × Nat)
  passing   : List Passing
  missing   : Bool
  deriving DecidableEq, Repr

/-- A slot record in state FREE. -/
def Slot.fresh : Slot where
  state := .free
  step := 0
  pmask := 0
  status := 0
  scalar := none
  joined := []
  offenders := []
  absent := []
  ends := []
  rootDone := []
  refused := []
  credits := []
  credOut := []
  waitOut := []
  chunks := []
  rug := []
  sentDown := []
  lasts := []
  lseD := 0
  openedAt := 0
  order := 0
  treesA := []
  treesB := []
  locals := []
  relayed := []
  passing := []
  missing := false

/-- An op in progress in a queue (08 R199, R200): the flat index of the next iteration, whether the wait of the
coming iteration is met, whether the op is skipped, VE_CTL.DEBUG as the op started (09 R219), the vector registers and
the results in flight that a CARRY kernel keeps (09 R213), the codes that a message or a fold block under way has taken up
(R201, 03 R54), the source bank as the op issued (08 R191), and the target blocks that a VCONVERT has formed and not yet written
whole: first iteration, scale code and element codes (02 R45). -/
structure OpRun where
  iter    : Nat
  waited  : Bool
  skipped : Bool
  debug   : Bool
  regs    : List (List (BitVec 32))
  flight  : List (Nat × Nat × List (BitVec 32))
  acc     : List Nat
  bankB   : Bool
  blocks  : List (Nat × Nat × List Nat)
  deriving DecidableEq, Repr

/-- A queue context (08 R189). -/
structure QCtx where
  qid    : Nat
  cls    : Nat
  tcs    : List Nat
  qcs    : List Nat
  preds  : List Bool
  next   : Nat
  run    : Option OpRun
  deriving DecidableEq, Repr

/-- The program of an instance (08 R189, R190): its queue contexts, and the cycle of its last change, from which all-wait
is timed (R207). -/
structure Prog where
  queues  : List QCtx
  quiet   : Nat
  deriving DecidableEq, Repr

/-- A staged write message (08 R202). -/
structure StagedWrite where
  msg : WriteMsg
  deriving DecidableEq, Repr

/-! ### Sieve and sequence state -/

/-- One routed choice (06 R150): token, choice rank, expert, weight, position and kept flag. -/
structure Choice where
  token  : Nat
  rank   : Nat
  expert : Nat
  weight : BitVec 32
  pos    : Nat
  kept   : Bool
  deriving DecidableEq, Repr

/-- What the leaf keeps for one member it serves in a dispatch-section instance (06 R147 to R153). -/
structure DispSrc where
  rank     : Nat
  tokens   : Nat
  mask     : List Byte
  logits   : List Byte
  rows     : List Byte
  fed      : List Nat
  complete : Bool
  choices  : List Choice
  poisoned : List Nat
  skipped  : List Nat
  grants   : List (Nat × List Nat)
  routed   : Bool
  rowsSent : Bool
  returns  : List (Nat × List Byte)
  done     : Bool
  deriving DecidableEq, Repr

/-- What the leaf keeps for one host it serves (06 R151): counts by source, loads and bases, rows received by source,
the expert input buffer, and the expert outputs the host feeds back. -/
structure DispHost where
  rank    : Nat
  counts  : List (Nat × List Nat)
  granted : Bool
  loads   : List Nat
  drops   : List Nat
  rowsIn  : List (Nat × List Byte)
  buffer  : List Byte
  done    : Bool
  deriving DecidableEq, Repr

/-- A dispatch-section instance at this leaf, and the route records it leaves (06 R153); `ended` lists the (source, host)
pairs whose rows have all come. -/
structure Disp where
  step  : Nat
  srcs  : List DispSrc
  hosts : List DispHost
  ended : List (Nat × Nat)
  deriving DecidableEq, Repr

/-- An entry of a spill log (06 R163): block index, rank, and the staged literal: the owner whose stream of the rank holds it, and its
place among that stream's literals. -/
structure SpillEntry where
  blk   : Nat
  rank  : Nat
  owner : Nat
  place : Nat
  deriving DecidableEq, Repr

/-- A sparse fold at this leaf (06 R161): staged streams by owner rank and source rank, with the bytes received, and
the sources whose LAST has arrived. -/
structure Sparse where
  step    : Nat
  streams : List ((Nat × Nat) × List Byte)
  lasts   : List (Nat × Nat)
  folded  : List (Nat × Nat)
  started : Bool
  spill   : List SpillEntry
  deriving DecidableEq, Repr

/-- A hash accumulator bucket (06 R162); `slab` is the index of its 256-byte slab once it is LIVE. The lanes of a slab are zero until
pass 2, which fills, rounds and releases them in one command (log 112). -/
structure Bucket where
  blk      : Nat
  exp      : Byte
  live     : Bool
  pred     : Bool
  holder   : FA
  epoch    : Nat
  slab     : Nat
  ncontrib : Nat
  deriving DecidableEq, Repr

/-- A stored key/value block (07 R173, R177). -/
structure KvBlock where
  layer  : Nat
  rank   : Nat
  block  : Nat
  step   : Nat
  chunks : List (Nat × List Byte)
  deriving DecidableEq, Repr

/-- A sequence context (07 R172, R182). -/
structure SeqCtx where
  reserved : Nat
  plane    : Option Bool
  blocks   : List KvBlock
  deriving DecidableEq, Repr

/-- Everything plans and instances hold. -/
structure Plans where
  plans     : List (Nat × Plan)
  slots     : List ((Nat × Nat) × Slot)
  stragglers : List ((Nat × FA) × (Nat × Nat))
  experts   : List ((Nat × Nat) × (Nat × Nat))
  progs     : List (BitVec 20 × Prog)
  waiting   : List (BitVec 20)
  staged    : List StagedWrite
  snapshots : List (Nat × List Byte)
  disp      : List ((Nat × Nat) × Disp)
  sparse    : List ((Nat × Nat) × Sparse)
  buckets   : List ((Nat × Nat) × Bucket)
  ctxs      : List (Nat × SeqCtx)
  opened    : Nat
  deriving DecidableEq, Repr

/-! ### Training state -/

/-- A defined shard (05 R106): its descriptor fields and its learning-rate table. Header values T, P1, P2 and the arrays
lie in STATE_A and STATE_B of module memory. -/
structure Shard where
  num   : Nat
  opt   : Nat
  flags : Byte
  count : Nat
  rows  : Nat
  cols  : Nat
  b1    : BitVec 32
  b2    : BitVec 32
  eps   : BitVec 32
  wd    : BitVec 32
  aux   : BitVec 32
  start : Nat
  table : List (BitVec 32)
  raw   : List Byte
  deriving DecidableEq, Repr

/-- An export or import in progress (05 R137). -/
structure Transfer where
  rq    : Req
  shard : Nat
  first : Nat
  elems : Nat
  bankB : Bool
  data  : List Byte
  deriving DecidableEq, Repr

/-- A norm pass (05 R117 to R119): its step, this module's partial, the sum, and whether it skips its group. -/
structure Norm where
  plan    : Nat
  step    : Nat
  partialSum : Option (BitVec 32)
  total   : Option (BitVec 32)
  skips   : Bool
  deriving DecidableEq, Repr

/-- The ledger, the step in progress and the seed registry (05). `marked` are written (shard, segment) pairs, `updated` the
shards updated in the step, `words` the INSTANCE and STATE bits noted per step (R129), `opened` the steps whose commit is
pending (R113), `norm` and `skipped` what the passes of the step in progress leave for its record, `sentDig` and `twinDig` the two halves of the digest exchange, `final` the exchanged word, `notice` a kept
commit notice, `chain0` that the next record chains from zeros. -/
structure Ledger where
  step     : Nat
  srcB     : Bool
  solo     : Bool
  planset  : BitVec 32
  shards   : List Shard
  marked   : List (Nat × Nat)
  updated  : List Nat
  elems    : Nat
  skipped  : Bool
  words    : List (Nat × Nat)
  opened   : List Nat
  norm     : BitVec 32
  norms    : List Norm
  held     : List MirrorMsg
  carried  : Bool
  sentDig  : Option (Nat × Word × BitVec 32)
  twinDig  : Option (Nat × Word × BitVec 32)
  final    : Option (Nat × BitVec 32)
  notice   : Option (Nat × List Byte)
  ring     : List (List Byte)
  chain0   : Bool
  seeds    : List Byte
  exports  : List Transfer
  imports  : List Transfer
  deriving DecidableEq, Repr

/-! ### Module memory -/

/-- A heal in progress or waiting (11 R259): the granule's address, and the tag of its request. -/
structure Heal where
  granule : Nat
  ref     : GranuleRef
  tag     : Nat
  sent    : Bool
  deriving DecidableEq, Repr

/-- A resilver at this module (17 R366 to R368): carrying or receiving, the twin, the request, the copy cursor. -/
structure Resilver where
  carrying : Bool
  twin     : FA
  rq       : Option Req
  control  : Bool
  copied   : Nat
  copyDone : Bool
  deriving DecidableEq, Repr

/-- The training record in the module flash (11 R263): what it has to match to be used. -/
structure TrainRecord where
  ids     : List Word
  serial  : List Byte
  version : Nat
  deriving DecidableEq, Repr

/-- The three addressed RAMs and the memory controller (11, 08 R191). `ram` is the data of module memory by usable address, each block
the data of its codeword; `flaws` lists the blocks whose stored symbols differ from their codeword, with the differences (R255), and
`used` the SPARE granules that are handed out or bad (R260). -/
structure Mem where
  ram       : List Host.Cell
  work      : List Host.Cell
  cells     : List Host.Cell
  crcs      : List (Nat × Word)
  flaws     : List (Nat × List (Nat × BitVec 16))
  bad       : List Nat
  heals     : List Heal
  remap     : List (Nat × Nat)
  used      : List Nat
  layoutOk  : Bool
  layoutBad : Bool
  trained   : Bool
  cached    : Bool
  hot       : Bool
  hotPkg    : Nat
  hotPkgs   : List Nat
  wiping    : Option (Option Req)
  ueLog     : Word
  banks     : List (Nat × Nat)
  errs      : List (Nat × Nat)
  scrub     : List (Nat × Nat)
  record    : Option TrainRecord
  resilver  : Option Resilver
  deriving DecidableEq, Repr

/-! ### Steward interface, firmware, security, power -/

/-- A ring (18 R380 to R382). For a CQ: `used` counts entries written and not consumed, `reserved` those reserved for requests
and not yet written, `heldBack` the completions that wait to be written. -/
structure Ring where
  cfg      : Word
  head     : Nat
  tail     : Nat
  phase    : Bool
  error    : Bool
  used     : Nat
  reserved : Nat
  heldBack : List (List Byte)
  deriving DecidableEq, Repr

/-- A ring after module reset. -/
def Ring.reset : Ring := ⟨0, 0, 0, false, false, 0, 0, []⟩

/-- The steward attachment (18); `started` holds the requests that have started, with the CQ that each completes on. -/
structure Uci where
  m0      : Bool
  m1      : Bool
  trying  : Bool
  rings   : List (Nat × Ring)
  started : List (Req × Nat)
  deriving DecidableEq, Repr

/-- FW_STATUS.STATE (19). -/
inductive FwState where
  | boot
  | running
  | restarting
  | halted
  deriving DecidableEq, Repr

/-- A flash image slot (19 R397): the image and its valid mark. -/
structure ImageSlot where
  image : List Byte
  valid : Bool
  deriving DecidableEq, Repr

/-- A live update in progress (19 R397). -/
structure Update where
  rq    : Req
  image : List Byte
  stage : Nat
  deriving DecidableEq, Repr

/-- The firmware complex (19). -/
structure Firmware where
  state    : FwState
  active   : Bool
  slots    : List ImageSlot
  cores    : Byte
  lastWdog : Nat
  cause    : Nat
  restarts : List Nat
  version  : Word
  update   : Option Update
  logBase  : Nat
  logLog2  : Nat
  logMask  : List Byte
  logSeq   : Nat
  deriving DecidableEq, Repr

/-- OTP, device keys, measurements (20). `wrapped` is the wrapped RSA key in flash, empty where there is none, and `stuck` lists OTP
bytes that do not take a burn (R401). -/
structure Security where
  serial   : List Byte
  lc       : List Byte
  cfg      : List (List Byte)
  cfgUsed  : List Byte
  keySlots : List (List Byte)
  revoke   : List Byte
  devSeed  : List Byte
  wrapKey  : List Byte
  svn      : BitVec 256
  cfgGen   : Option Nat
  devkeyOk : Bool
  bootSlot : Bool
  fallback : Bool
  loaded   : Bool
  m1       : List Byte
  m7       : List Byte
  wrapped  : List Byte
  certs    : List Byte
  stuck    : List Nat
  deriving DecidableEq, Repr

/-- Power, reset, pins and the Moonstone save (21). `supply` tells that the supply tripped, `cause` is CAUSE of the save under way. -/
structure Power where
  stage     : Nat
  ready     : Bool
  failed    : Bool
  good      : Bool
  thermWarn : Bool
  alert     : Bool
  lastReset : Nat
  geo       : BitVec 6
  pwrEn     : Bool
  unpowered : Bool
  tripped   : Bool
  saving    : Bool
  supply    : Bool
  cause     : Bool
  thermTrip : Bool
  vinCv     : BitVec 16
  pinW      : BitVec 16
  tj        : Byte
  tmem      : Byte
  tstw      : Byte
  saves     : List (List Byte)
  current   : Option Nat
  torn      : Bool
  saveLc    : Nat
  tripBeat  : Nat
  deriving DecidableEq, Repr

/-- Clocks and timing mode (16). `cycle` counts core cycles since beat 0, `aon` the always-on count before it. The holds NOT_READY
and HOT are PWR_STATUS.READY and MEM_STATUS.HOT (16 R343). -/
structure Clock where
  cycle      : Nat
  aon        : Nat
  aligned    : Bool
  req        : Bool
  active     : Bool
  train      : Bool
  test       : Bool
  unaligned  : Bool
  sysPresent : Bool
  links      : BitVec 4
  locks      : BitVec 3
  xtal       : Bool
  xtalLost   : Bool
  deriving DecidableEq, Repr

/-- The event unit (23 R447): the buffer newest last, the entries that still wait for the ring, the next SEQ. -/
structure Events where
  buffer : List (List Byte)
  toRing : List (List Byte)
  next   : Nat
  deriving DecidableEq, Repr

/-- A health component (17 R370). `base` holds the counter values at the last sample. -/
structure Health where
  score   : Nat
  warn    : Bool
  fault   : Bool
  last    : Nat
  base    : Nat
  present : Bool
  deriving DecidableEq, Repr

/-- A health component after module reset (17 R370). -/
def Health.reset : Health := ⟨1000, false, false, 1000, 0, false⟩

/-- The twin and this module's place beside it (17 R351, 05 R450). -/
structure Twin where
  fa       : FA
  present  : Bool
  fenced   : Bool
  silent   : Bool
  bWait    : Bool
  ports    : BitVec 48
  stopped  : Bool
  hbStopped : Bool
  deriving DecidableEq, Repr

/-! ### Counters -/

/-- The 64-bit event counters (23 R445). -/
inductive Ctr where
  | lpFrameCrc (n : Nat)
  | lpHdrDrop (n : Nat)
  | lpCreditOverrun (n : Nat)
  | lpDegrade (n : Nat)
  | rtUnassignedDrop
  | rtNoRoute
  | rtDrop
  | rtStaleDrop
  | rtDup
  | rtNak
  | rtHoldFull
  | rtStreamLost
  | cmAgeDrop (n : Nat)
  | cmYellowDrop
  | cmRetainSpill
  | cmEscapeEntry
  | schGateLate (n : Nat)
  | polYellow (n : Nat)
  | polRed (n : Nat)
  | polRedDrop (n : Nat)
  | feAlignLoss
  | feSpecialBlock
  | feFoldRange
  | feLseEmpty
  | veConvertRange (n : Nat)
  | veT2Reserved (n : Nat)
  | veEarlyRead (n : Nat)
  | veWriteClash (n : Nat)
  | seDrop
  | seHostLost
  | seRoutePoison
  | seTokenSkip
  | seZeroExpert
  | sePredictMiss
  | seSpill
  | seFormatError
  | seScanRange
  | mxT2Reserved
  | mxIntRange
  | mxEmptyGroup
  | mxFormatError
  | memCe
  | memUe
  | memHeal
  | memHealFail
  | memRetire
  | memScrubPass
  | ledCommit
  | ledRefused
  | ledSkip
  | ledCarry
  | ledRollback
  | ledDigestMismatch
  | plnUnlaunchedDrop
  | plnCreditDrop
  | plnLateDrop
  | plnSigMismatch
  | plnDetour
  | plnAbort
  | plnKvStore
  | plnKvMissing
  | tokWaitCycle
  | tokSkip
  | tokLandDrop
  | tokQcSat
  | uciBadAccess
  | fwRestart
  | fwLogDrop
  | secAuthFail
  | pwrTrip
  | pwrThermTrip
  | evtDrop
  | ndAdapt
  | ndRetry
  | ndRefreshSlip
  | ndReplay
  | ndRelaxed
  deriving DecidableEq, Repr

/-- The state of the module. -/
structure State where
  pending   : List Instr
  out       : List Out
  freeCount : Nat
  regs      : List (Reg × Word)
  locked    : List Reg
  ctrs      : List (Ctr × Nat)
  ovf       : List Ctr
  clk       : Clock
  pwr       : Power
  sec       : Security
  fw        : Firmware
  evt       : Events
  uci       : Uci
  ports     : List (Nat × Port)
  scheds    : List (Nat × Sched)
  rt        : Routing
  cm        : CellMem
  pl        : Plans
  led       : Ledger
  mem       : Mem
  health    : List (Nat × Health)
  twin      : Twin
  deriving DecidableEq, Repr

/-! ### Reset -/

/-- What a register of the register file reads right after reset (the Reset columns of the register tables). -/
def Reg.resetVal : Reg → Word
  | .lpHbCfg => BitVec.ofNat 64 (0x0A + 0x05DC * 2 ^ 8)
  | .rtCtl => BitVec.ofNat 64 (0xC8 + 0x190 * 2 ^ 16 + 0x400 * 2 ^ 32 + 2 ^ 44 + 0x2000 * 2 ^ 45)
  | .cmPoolCfg => BitVec.ofNat 64 (0x4000 + 0x70000 * 2 ^ 20 + 0x60000 * 2 ^ 40)
  | .cmClassCfg n => BitVec.ofNat 64
      (match n with
       | 0 => 64
       | 1 => 1024 + 3906 * 2 ^ 16
       | 2 => 1024 + 3906 * 2 ^ 16
       | 3 => 512 + 3906 * 2 ^ 16
       | 4 => 512 + 3906 * 2 ^ 16
       | 5 => 512 + 3906 * 2 ^ 16
       | _ => 16)
  | .schPortCfg _ => BitVec.ofNat 64 (0x18 + 0x40 * 2 ^ 8 + 0x20 * 2 ^ 16 + 0x10 * 2 ^ 24 + 0x40 * 2 ^ 32)
  | .memCtl => 0x18#64
  | .tokWaitLimit => 0x3E8#64
  | .uciMsi _ => 1#64
  | .pwrCfg => BitVec.ofNat 64 (0x190 + 0x64 * 2 ^ 16)
  | .telHealthCfg => BitVec.ofNat 64
      (0x3E8 + 3 * 2 ^ 10 + 0x258 * 2 ^ 14 + 0x12C * 2 ^ 24 + 0x64 * 2 ^ 34 + 4 * 2 ^ 44 + 8 * 2 ^ 52)
  | .telMarginRef => BitVec.ofNat 64 (0xF + 0x66 * 2 ^ 16 + 0x12C * 2 ^ 32 + 0x32 * 2 ^ 48)
  | .evtRing => BitVec.ofNat 64 (2 * 2 ^ 49)
  | _ => 0#64

/-- Bytes from a number, least significant first (00 R10). -/
def leBytes : Nat → Nat → List Byte
  | 0, _ => []
  | n + 1, v => BitVec.ofNat 8 v :: leBytes n (v / 256)

/-- Configuration generation 0 of the specimen part (20 R402, log 4): OV-PD24M-A, every unit, every key slot. -/
def specimenConfig : List Byte :=
  [1, 0, 0x0F, 0, 0, 0, 0xFF, 0xFF, 0xFF, 0, 0xFF, 0xFF] ++ List.replicate 108 0 ++ leBytes 8 0x984f98a0b7609eda

/-- A key slot of the specimen part (log 4): the hashes of an all-zero RSA modulus and exponent and of an all-zero
SLH-DSA public key. -/
def specimenKeySlot : List Byte :=
  leBytes 48 0xe94dc5c6bb5a7ad5a625a58e367b46680a476d9c3c0a0bdd727f5ba7d1fe25d5f43c5fd8664e32b558e2c8b7d7e9b01c
  ++ leBytes 48 0x404a0ae50e1ba7e25ff787315c4d3ad07bab9e7292f1c84694de5f5447fd8090c83a10038cde9cace4156ca24bff8fa3

/-- The image in both flash slots of the specimen part (20 R406, log 4): version 2.4.1, build 0x0107, handoff version 5,
no body, all-zero keys and signatures. -/
def specimenImage : List Byte :=
  [0x4F, 0x56, 0x46, 0x57, 0, 0, 0, 0] ++ leBytes 8 0x0107000500020401 ++ List.replicate 8 0
  ++ leBytes 48 0x5bb99848f1d21ad5fb656fe7bfde4e27dae1f663bfc70c4c4307be1411b7fd216ae3b1b17e32d94c3896ac51a760b038
  ++ List.replicate 8760 0

/-- OTP and keys of the specimen part in FIELD, before the always-on domain has read them (20, log 4). -/
def Security.reset : Security where
  serial := [1, 0, 0, 0, 0, 0, 0, 0]
  lc := [0xFF, 0xFF, 0, 0]
  cfg := specimenConfig :: List.replicate 3 (List.replicate 128 0)
  cfgUsed := [0xFF, 0, 0, 0]
  keySlots := List.replicate 4 specimenKeySlot
  revoke := [0, 0, 0, 0]
  devSeed := List.replicate 48 1
  wrapKey := List.replicate 32 1
  svn := 0
  cfgGen := none
  devkeyOk := false
  bootSlot := false
  fallback := false
  loaded := false
  m1 := List.replicate 48 0
  m7 := List.replicate 48 0
  wrapped := List.replicate 32 1
  certs := [1]
  stuck := []

/-- Firmware and flash after module reset (19, log 4). -/
def Firmware.reset : Firmware where
  state := .boot
  active := false
  slots := [⟨specimenImage, true⟩, ⟨specimenImage, true⟩]
  cores := 0
  lastWdog := 0
  cause := 0
  restarts := []
  version := 0
  update := none
  logBase := 0
  logLog2 := 0
  logMask := List.replicate 128 0
  logSeq := 1

/-- Power state after a cold reset (21): bring-up stage 1, PWR_EN high (log 4). -/
def Power.reset : Power where
  stage := 1
  ready := false
  failed := false
  good := false
  thermWarn := false
  alert := false
  lastReset := 0
  geo := 0
  pwrEn := true
  unpowered := false
  tripped := false
  saving := false
  supply := false
  cause := false
  thermTrip := false
  vinCv := 0
  pinW := 0
  tj := 0
  tmem := 0
  tstw := 0
  saves := [[], []]
  current := none
  torn := false
  saveLc := 2
  tripBeat := 0

/-- Clocks after module reset (16, 21). -/
def Clock.reset : Clock where
  cycle := 0
  aon := 0
  aligned := false
  req := false
  active := false
  train := false
  test := false
  unaligned := false
  sysPresent := false
  links := 0
  locks := 0
  xtal := false
  xtalLost := false

/-- Routing state after module reset (13, 17). -/
def Routing.reset : Routing where
  routes := []
  groups := []
  parties := []
  dimord := 0
  unreach := false
  badRaised := false
  placed := false
  gen := 0
  members := []
  broken := []
  lastFa := 0
  lastEpoch := 0
  rx := []
  tx := []
  inbox := []

/-- Cell memory after a reset (14 R321): every slot free. -/
def CellMem.reset : CellMem := ⟨[], [], [], [], [], [], [], []⟩

/-- Plans and instances after module reset. -/
def Plans.reset : Plans := ⟨[], [], [], [], [], [], [], [], [], [], [], [], 0⟩

/-- The ledger after module reset (05, 11 R264): no generation, no shard, seeds 0, ring empty. -/
def Ledger.reset : Ledger where
  step := maxWord
  srcB := false
  solo := false
  planset := 0
  shards := []
  marked := []
  updated := []
  elems := 0
  skipped := false
  words := []
  opened := []
  norm := 0
  norms := []
  held := []
  carried := false
  sentDig := none
  twinDig := none
  final := none
  notice := none
  ring := []
  chain0 := true
  seeds := List.replicate 256 0
  exports := []
  imports := []

/-- Memories after module reset (20 R416: wiped). The remap table and the training record stand in flash (log 4). -/
def Mem.reset : Mem where
  ram := []
  work := []
  cells := []
  crcs := []
  flaws := []
  bad := []
  heals := []
  remap := []
  used := []
  layoutOk := false
  layoutBad := false
  trained := false
  cached := false
  hot := false
  hotPkg := 0
  hotPkgs := []
  wiping := none
  ueLog := 0
  banks := []
  errs := []
  scrub := []
  record := none
  resilver := none

/-- The twin before membership names one. -/
def Twin.reset : Twin := ⟨0, false, false, false, false, 0, false, false⟩

/-- The module right after reset: input has been applied and bring-up stands at stage 1 (21 R431). -/
def State.reset : State where
  pending := []
  out := []
  freeCount := 0
  regs := []
  locked := []
  ctrs := []
  ovf := []
  clk := Clock.reset
  pwr := Power.reset
  sec := Security.reset
  fw := Firmware.reset
  evt := ⟨[], [], 1⟩
  uci := ⟨false, false, false, [], []⟩
  ports := []
  scheds := []
  rt := Routing.reset
  cm := CellMem.reset
  pl := Plans.reset
  led := Ledger.reset
  mem := Mem.reset
  health := []
  twin := Twin.reset

end Sys2Proof.Machine
end

