-- ==== Sys2Proof/Machine/Ops.lean ====
section
/-!
DEFINITION. Machine/Ops.lean: the shared operations over the state: bit fields, bytes, memories, registers, counters,
events, clock, and the table updates the meanings are built from.
-/
namespace Sys2Proof.Machine

open Sys2Proof

/-! ### Bits and bytes (00 R10) -/

/-- Bits [lo + n - 1 : lo] of a number. -/
def bits (v lo n : Nat) : Nat := v / 2 ^ lo % 2 ^ n

/-- One bit of a number. -/
def bitOf (v i : Nat) : Bool := v / 2 ^ i % 2 == 1

/-- A field of a register word. -/
def fld (w : Word) (lo n : Nat) : Nat := bits w.toNat lo n

/-- A Boolean as a bit. -/
def b2n (b : Bool) : Nat := if b then 1 else 0

/-- The little-endian value of bytes. -/
def leNat : List Byte → Nat
  | [] => 0
  | b :: t => b.toNat + 256 * leNat t

/-- Bytes [off, off + n) of a record. -/
def slice (l : List Byte) (off n : Nat) : List Byte := (l.drop off).take n

/-- A little-endian field of a record. -/
def leAt (l : List Byte) (off n : Nat) : Nat := leNat (slice l off n)

/-- One byte of a record as a number, 0 past its end. -/
def byteAt (l : List Byte) (off : Nat) : Nat := (l.getD off 0).toNat

/-- Zero bytes. -/
def zeros (n : Nat) : List Byte := List.replicate n 0

/-- Every byte is 0. -/
def allZero (l : List Byte) : Bool := l.all (· == 0)

/-- Pads a record with zeros to a length. -/
def padTo (n : Nat) (l : List Byte) : List Byte := l ++ zeros (n - l.length)

/-- Rounds up to a multiple of 2 or more. -/
def roundUp (n m : Nat) : Nat := (n + m - 1) / m * m

/-- Ceiling of a quotient. -/
def ceilDiv (n m : Nat) : Nat := (n + m - 1) / m

/-- Cuts a list into pieces of n, at most `fuel` of them. -/
def piecesAux {α : Type} (n : Nat) : Nat → List α → List (List α)
  | 0, _ => []
  | _, [] => []
  | f + 1, l => l.take n :: piecesAux n f (l.drop n)

/-- Cuts a list into pieces of n elements, the last one shorter. -/
def pieces {α : Type} (n : Nat) (l : List α) : List (List α) := piecesAux n l.length l

/-- Replaces the entry at an index. -/
def setAt {α : Type} (l : List α) (i : Nat) (v : α) : List α := l.set i v

/-- Reads an entry of a list of numbers, 0 past its end. -/
def natAt (l : List Nat) (i : Nat) : Nat := l.getD i 0

/-- Writes an entry of a list of numbers, lengthening it with zeros. -/
def natSet (l : List Nat) (i v : Nat) : List Nat :=
  (l ++ List.replicate (i + 1 - l.length) 0).set i v

/-! ### Addressed memory (11 R250, 08 R191): an unlisted address reads 0, as every wipe leaves it -/

/-- Reads one byte. -/
def Ram.read (a : Nat) : List Host.Cell → Byte
  | [] => 0
  | (b, v) :: t => if b = a then v else if a < b then 0 else Ram.read a t

/-- Writes one byte and keeps the list rising and free of zero entries. -/
def Ram.write (a : Nat) (v : Byte) : List Host.Cell → List Host.Cell
  | [] => if v = 0 then [] else [(a, v)]
  | (b, w) :: t =>
    if a < b then (if v = 0 then (b, w) :: t else (a, v) :: (b, w) :: t)
    else if a = b then (if v = 0 then t else (a, v) :: t)
    else (b, w) :: Ram.write a v t

/-- Every entry lies above `lo`, addresses rise strictly and no entry is 0. -/
def Ram.wfAbove : Option Nat → List Host.Cell → Bool
  | _, [] => true
  | lo, (a, v) :: t =>
    (match lo with
     | none => true
     | some b => decide (b < a)) && decide (v ≠ 0) && Ram.wfAbove (some a) t

/-- The canonical form of a memory. -/
def Ram.wf (m : List Host.Cell) : Bool := Ram.wfAbove none m

/-- Reads n bytes upward from an address. -/
def Ram.readN : Nat → Nat → List Host.Cell → List Byte
  | 0, _, _ => []
  | n + 1, a, m =>
    let r := m.dropWhile fun c => decide (c.1 < a)
    match r with
    | (b, v) :: t => if b = a then v :: Ram.readN n (a + 1) t else 0 :: Ram.readN n (a + 1) r
    | [] => 0 :: Ram.readN n (a + 1) []

/-- Writes bytes upward from an address. -/
def Ram.writeN : Nat → List Byte → List Host.Cell → List Host.Cell
  | _, [], m => m
  | a, v :: t, m => Ram.writeN (a + 1) t (Ram.write a v m)

/-- Clears the bytes [lo, hi). -/
def Ram.clear (lo hi : Nat) (m : List Host.Cell) : List Host.Cell :=
  m.filter fun c => decide (c.1 < lo) || decide (hi ≤ c.1)

/-- The granule size of module memory (11 R250). -/
def granuleBytes : Nat := 4096

/-- Where an address of module memory lies once retired granules are replaced by their stand-ins (11 R260). -/
def Mem.phys (m : Mem) (a : Nat) : Nat :=
  match Assoc.find (a / granuleBytes) m.remap with
  | some g => g * granuleBytes + a % granuleBytes
  | none => a

/-- Reads n bytes of module memory. -/
def Mem.read (m : Mem) (a n : Nat) : List Byte :=
  if m.remap.isEmpty then Ram.readN n a m.ram
  else (List.range n).map fun i => Ram.read (m.phys (a + i)) m.ram

/-- Writes bytes of module memory. -/
def Mem.write (m : Mem) (a : Nat) (l : List Byte) : Mem :=
  { m with ram := (l.zipIdx).foldl (fun r (v, i) => Ram.write (m.phys (a + i)) v r) m.ram }

/-- Clears [lo, hi) of module memory, stand-ins of retired granules included. -/
def Mem.clear (m : Mem) (lo hi : Nat) : Mem :=
  let r := Ram.clear lo hi m.ram
  { m with ram := m.remap.foldl (fun r (g, t) =>
      if lo ≤ g * granuleBytes ∧ g * granuleBytes < hi
      then Ram.clear (t * granuleBytes) ((t + 1) * granuleBytes) r else r) r }

/-! ### Registers of the register file -/

/-- Reads a register. -/
def State.rd (s : State) (r : Reg) : Word := Assoc.get r.resetVal r s.regs

/-- Writes a register; one that holds its reset value is not listed. -/
def State.wr (s : State) (r : Reg) (v : Word) : State :=
  { s with regs := if v = r.resetVal then Assoc.del r s.regs else Assoc.set r v s.regs }

/-- A field of a register. -/
def State.rdf (s : State) (r : Reg) (lo n : Nat) : Nat := fld (s.rd r) lo n

/-! ### Clock (16 R339, R340) -/

/-- CLK_BEAT: 12 core cycles to a beat. -/
def State.beat (s : State) : Nat := s.clk.cycle / 12

/-- The 64 ns slot that is running (15 R327, 16 R340): 128 core cycles. -/
def State.slotNow (s : State) : Nat := s.clk.cycle / 128

/-- Core cycles in a millisecond at 2.0 GHz. -/
def cyclesPerMs : Nat := 2000000

/-- One core cycle passes: the beat count runs once it has started, the always-on count before (16 R340, log 1). -/
def State.tick (s : State) : State :=
  if s.pwr.unpowered then s
  else if s.clk.aligned then { s with clk := { s.clk with cycle := s.clk.cycle + 1 } }
  else { s with clk := { s.clk with aon := s.clk.aon + 1 } }

/-! ### Outward transactions -/

/-- Puts a transaction on the boundary. -/
def State.emit (s : State) (o : Out) : State := { s with out := s.out ++ [o] }

/-- Draws a fresh free value (log 5). -/
def State.draw (s : State) : Nat × State :=
  (Config.free s.freeCount, { s with freeCount := s.freeCount + 1 })

/-! ### Counters and events (00 R13, 23 R444 to R448) -/

/-- Register-space address of a counter, and its array index (22, register index). -/
def Ctr.addr : Ctr → Nat × Nat
  | .lpFrameCrc n => (0x21000 + 8 * n, n)
  | .lpHdrDrop n => (0x21200 + 8 * n, n)
  | .lpCreditOverrun n => (0x21400 + 8 * n, n)
  | .lpDegrade n => (0x21600 + 8 * n, n)
  | .rtUnassignedDrop => (0x31000, 0)
  | .rtNoRoute => (0x31008, 0)
  | .rtDrop => (0x31010, 0)
  | .rtStaleDrop => (0x31018, 0)
  | .rtDup => (0x31020, 0)
  | .rtNak => (0x31028, 0)
  | .rtHoldFull => (0x31030, 0)
  | .rtStreamLost => (0x31038, 0)
  | .cmAgeDrop n => (0x41000 + 8 * n, n)
  | .cmYellowDrop => (0x41040, 0)
  | .cmRetainSpill => (0x41048, 0)
  | .cmEscapeEntry => (0x41050, 0)
  | .schGateLate n => (0x51000 + 8 * n, n)
  | .polYellow n => (0x61000 + 8 * n, n)
  | .polRed n => (0x61200 + 8 * n, n)
  | .polRedDrop n => (0x61400 + 8 * n, n)
  | .feAlignLoss => (0x71000, 0)
  | .feSpecialBlock => (0x71008, 0)
  | .feFoldRange => (0x71010, 0)
  | .feLseEmpty => (0x71018, 0)
  | .veConvertRange n => (0x81000 + 8 * n, n)
  | .veT2Reserved n => (0x81040 + 8 * n, n)
  | .veEarlyRead n => (0x81080 + 8 * n, n)
  | .veWriteClash n => (0x810C0 + 8 * n, n)
  | .seDrop => (0x91000, 0)
  | .seHostLost => (0x91008, 0)
  | .seRoutePoison => (0x91010, 0)
  | .seTokenSkip => (0x91018, 0)
  | .seZeroExpert => (0x91020, 0)
  | .sePredictMiss => (0x91028, 0)
  | .seSpill => (0x91030, 0)
  | .seFormatError => (0x91038, 0)
  | .seScanRange => (0x91040, 0)
  | .mxT2Reserved => (0xA1000, 0)
  | .mxIntRange => (0xA1008, 0)
  | .mxEmptyGroup => (0xA1010, 0)
  | .mxFormatError => (0xA1018, 0)
  | .memCe => (0xD1000, 0)
  | .memUe => (0xD1008, 0)
  | .memHeal => (0xD1010, 0)
  | .memHealFail => (0xD1018, 0)
  | .memRetire => (0xD1020, 0)
  | .memScrubPass => (0xD1028, 0)
  | .ledCommit => (0xE1000, 0)
  | .ledRefused => (0xE1008, 0)
  | .ledSkip => (0xE1010, 0)
  | .ledCarry => (0xE1018, 0)
  | .ledRollback => (0xE1020, 0)
  | .ledDigestMismatch => (0xE1028, 0)
  | .plnUnlaunchedDrop => (0xF1000, 0)
  | .plnCreditDrop => (0xF1008, 0)
  | .plnLateDrop => (0xF1010, 0)
  | .plnSigMismatch => (0xF1018, 0)
  | .plnDetour => (0xF1020, 0)
  | .plnAbort => (0xF1028, 0)
  | .plnKvStore => (0xF1040, 0)
  | .plnKvMissing => (0xF1048, 0)
  | .tokWaitCycle => (0x101000, 0)
  | .tokSkip => (0x101008, 0)
  | .tokLandDrop => (0x101010, 0)
  | .tokQcSat => (0x101018, 0)
  | .uciBadAccess => (0x111000, 0)
  | .fwRestart => (0x121000, 0)
  | .fwLogDrop => (0x121008, 0)
  | .secAuthFail => (0x131000, 0)
  | .pwrTrip => (0x141000, 0)
  | .pwrThermTrip => (0x141008, 0)
  | .evtDrop => (0x171000, 0)
  | .ndAdapt => (0x181000, 0)
  | .ndRetry => (0x181008, 0)
  | .ndRefreshSlip => (0x181010, 0)
  | .ndReplay => (0x181018, 0)
  | .ndRelaxed => (0x181020, 0)

/-- The count a counter holds. -/
def State.ctr (s : State) (c : Ctr) : Nat := Assoc.get 0 c s.ctrs

/-- Sets a count; a counter at 0 is not listed. -/
def State.setCtr (s : State) (c : Ctr) (v : Nat) : State :=
  { s with ctrs := if v = 0 then Assoc.del c s.ctrs else Assoc.set c v s.ctrs }

/-- Adds to a counter: it saturates and sets OVF (00 R13, 23 R444). -/
def State.count (s : State) (c : Ctr) (n : Nat) : State :=
  let v := s.ctr c + n
  if n = 0 then s
  else if v < maxWord then s.setCtr c v
  else
    let t := s.setCtr c maxWord
    if c ∈ s.ovf then t else { t with ovf := s.ovf ++ [c] }

/-- Clears a counter and its OVF bit (00 R13). -/
def State.clearCtr (s : State) (c : Ctr) : State :=
  { s.setCtr c 0 with ovf := s.ovf.filter fun d => decide (d ≠ c) }

/-- Clears the counters that a test names. -/
def State.clearCtrs (s : State) (p : Ctr → Bool) : State :=
  { s with ctrs := s.ctrs.filter (fun e => !p e.1), ovf := s.ovf.filter (fun c => !p c) }

/-- An event entry (23 R448). -/
def eventEntry (s : State) (code sev ctx arg0 arg1 : Nat) : List Byte :=
  leBytes 8 s.evt.next ++ leBytes 8 (if s.clk.aligned then s.beat else s.clk.aon)
  ++ leBytes 2 code ++ leBytes 1 sev ++ [0] ++ leBytes 4 ctx ++ leBytes 8 s.led.step
  ++ leBytes 8 arg0 ++ leBytes 8 arg1 ++ zeros 16

/-- How many entries the event unit keeps (23 R447). -/
def eventBuffer : Nat := 1024

/-- Puts one event into the unit: it is numbered, buffered, and queued for the ring while EVT_RING.EN is 1
(23 R447, R448); FAULT and FATAL set ALERT (23 R446). -/
def State.push (s : State) (code sev ctx arg0 arg1 : Nat) : State :=
  let e := eventEntry s code sev ctx arg0 arg1
  let buf := s.evt.buffer ++ [e]
  let q := if s.rdf .evtRing 41 1 = 1 then s.evt.toRing ++ [e] else s.evt.toRing
  { s with
    evt := { buffer := buf.drop (buf.length - eventBuffer), toRing := q, next := s.evt.next + 1 }
    pwr := if 2 ≤ sev then { s.pwr with alert := true } else s.pwr }

/-- Drops the ring entry that has left the buffer, and counts it (23 R448). -/
def State.dropLost (s : State) : State :=
  if s.evt.toRing.length ≤ eventBuffer then s
  else { s with evt := { s.evt with toRing := s.evt.toRing.drop 1 } }.count .evtDrop 1

/-- The event CTR_SATURATED of a counter (23 R444). -/
def State.pushSat (s : State) (c : Ctr) : State := s.push 0x0002 0 0 c.addr.1 c.addr.2

/-- Adds to a counter, with CTR_SATURATED where SAT_EN is 1 and the OVF bit becomes set (23 R444). -/
def State.bump (s : State) (c : Ctr) (n : Nat := 1) : State :=
  let t := s.count c n
  if c ∈ t.ovf ∧ c ∉ s.ovf ∧ s.rdf .evtRing 51 1 = 1 then (t.pushSat c).dropLost else t

/-- Raises an event: code, severity, CTX, ARG0. -/
def State.raise (s : State) (ev : Nat × Nat) (ctx arg0 : Nat := 0) : State :=
  let t := (s.push ev.1 ev.2 ctx arg0 0).dropLost
  if Ctr.evtDrop ∈ t.ovf ∧ Ctr.evtDrop ∉ s.ovf ∧ s.rdf .evtRing 51 1 = 1 then t.pushSat .evtDrop else t

def evRwlWriteIgnored : Nat × Nat := (0x0001, 1)
def evPortRoleMismatch : Nat × Nat := (0x0201, 1)
def evLinkTrainFail : Nat × Nat := (0x0202, 1)
def evCreditOverrun : Nat × Nat := (0x0203, 1)
def evPortDown : Nat × Nat := (0x0204, 1)
def evEpPortSilent : Nat × Nat := (0x0205, 1)
def evEpDead : Nat × Nat := (0x0206, 2)
def evTwinLinkLost : Nat × Nat := (0x0207, 2)
def evTwinLost : Nat × Nat := (0x0208, 2)
def evFabricConfigBad : Nat × Nat := (0x0301, 2)
def evRtUnreachable : Nat × Nat := (0x0302, 2)
def evStreamLost : Nat × Nat := (0x0303, 2)
def evFenceApplied : Nat × Nat := (0x0304, 0)
def evCmCfgBad : Nat × Nat := (0x0401, 1)
def evGateCfgBad : Nat × Nat := (0x0501, 1)
def evEarlyReadTrap : Nat × Nat := (0x0801, 1)
def evRouteMissing : Nat × Nat := (0x0901, 1)
def evMemLayoutBad : Nat × Nat := (0x0D01, 2)
def evMemUe : Nat × Nat := (0x0D02, 2)
def evMemHealFailed : Nat × Nat := (0x0D03, 2)
def evMemHot : Nat × Nat := (0x0D04, 1)
def evMemHotClear : Nat × Nat := (0x0D05, 0)
def evMemTrainFail : Nat × Nat := (0x0D06, 3)
def evStateStepBad : Nat × Nat := (0x0E01, 1)
def evStateOverlap : Nat × Nat := (0x0E02, 1)
def evGradSkipped : Nat × Nat := (0x0E03, 0)
def evStateDigestMismatch : Nat × Nat := (0x0E04, 2)
def evCommitRefused : Nat × Nat := (0x0E05, 1)
def evResilverDone : Nat × Nat := (0x0E06, 0)
def evResilverFailed : Nat × Nat := (0x0E07, 2)
def evStateShardMissing : Nat × Nat := (0x0E08, 1)
def evSigMismatch : Nat × Nat := (0x0F01, 1)
def evKvMissing : Nat × Nat := (0x0F02, 1)
def evWaitCycle : Nat × Nat := (0x1001, 2)
def evUciDegraded : Nat × Nat := (0x1101, 1)
def evUciRingCfgBad : Nat × Nat := (0x1102, 1)
def evUciRingError : Nat × Nat := (0x1103, 1)
def evFwWatchdog : Nat × Nat := (0x1201, 1)
def evFwUnstable : Nat × Nat := (0x1202, 3)
def evOtpBurnFail : Nat × Nat := (0x1301, 3)
def evCfgFallback : Nat × Nat := (0x1302, 1)
def evConfigBad : Nat × Nat := (0x1303, 3)
def evDevkeyBad : Nat × Nat := (0x1304, 2)
def evAuthFail : Nat × Nat := (0x1305, 1)
def evBootFallback : Nat × Nat := (0x1306, 1)
def evBootFail : Nat × Nat := (0x1307, 3)
def evLcChanged : Nat × Nat := (0x1308, 0)
def evVinHigh : Nat × Nat := (0x1401, 1)
def evSaveTorn : Nat × Nat := (0x1402, 1)
def evThermWarn : Nat × Nat := (0x1403, 1)
def evThermalTrip : Nat × Nat := (0x1404, 3)
def evModuleReady : Nat × Nat := (0x1405, 0)
def evResetKeyBad : Nat × Nat := (0x1406, 1)
def evClkLockLost : Nat × Nat := (0x1501, 3)
def evLockstepEnter : Nat × Nat := (0x1502, 0)
def evLockstepExitWarn : Nat × Nat := (0x1503, 1)
def evLockstepExitInfo : Nat × Nat := (0x1503, 0)
def evXtalLost : Nat × Nat := (0x1504, 2)
def evWearWarn : Nat × Nat := (0x1601, 1)
def evWearFault : Nat × Nat := (0x1602, 2)

/-! ### Updates of one table entry -/

/-- A logical port. -/
def State.port (s : State) (p : Nat) : Port := Assoc.get Port.reset p s.ports

/-- Writes a logical port. -/
def State.setPort (s : State) (p : Nat) (v : Port) : State := { s with ports := Assoc.set p v s.ports }

/-- Changes a logical port. -/
def State.modPort (s : State) (p : Nat) (f : Port → Port) : State := s.setPort p (f (s.port p))

/-- The scheduler of a logical port. -/
def State.sched (s : State) (p : Nat) : Sched := Assoc.get Sched.reset p s.scheds

/-- Changes the scheduler of a logical port. -/
def State.modSched (s : State) (p : Nat) (f : Sched → Sched) : State :=
  { s with scheds := Assoc.set p (f (s.sched p)) s.scheds }

/-- The epoch table entry of a party. -/
def State.party (s : State) (a : FA) : Party := Assoc.get Party.reset a s.rt.parties

/-- Changes the epoch table entry of a party. -/
def State.modParty (s : State) (a : FA) (f : Party → Party) : State :=
  { s with rt := { s.rt with parties := Assoc.set a (f (s.party a)) s.rt.parties } }

/-- The plan number and the slot that a handle names (04 R74). -/
def planOf (hdl : BitVec 20) : Nat := hdl.toNat / 256

/-- The slot that a handle names. -/
def slotOf (hdl : BitVec 20) : Nat := hdl.toNat % 256

/-- A handle from a plan number and a slot. -/
def mkHdl (plan slot : Nat) : BitVec 20 := BitVec.ofNat 20 (plan * 256 + slot)

/-- An installed plan. -/
def State.plan (s : State) (n : Nat) : Option Plan := Assoc.find n s.pl.plans

/-- The slot record of a handle. -/
def State.slot (s : State) (h : BitVec 20) : Slot := Assoc.get Slot.fresh (planOf h, slotOf h) s.pl.slots

/-- Writes the slot record of a handle. -/
def State.setSlot (s : State) (h : BitVec 20) (v : Slot) : State :=
  { s with pl := { s.pl with slots := Assoc.set (planOf h, slotOf h) v s.pl.slots } }

/-- Changes the slot record of a handle. -/
def State.modSlot (s : State) (h : BitVec 20) (f : Slot → Slot) : State := s.setSlot h (f (s.slot h))

/-- Fold state of a chunk of an instance. -/
def Slot.chunk (v : Slot) (c : Nat) : Chunk := Assoc.get Chunk.new c v.chunks

/-- Changes the fold state of a chunk. -/
def Slot.modChunk (v : Slot) (c : Nat) (f : Chunk → Chunk) : Slot :=
  { v with chunks := Assoc.set c (f (v.chunk c)) v.chunks }

/-- Handles of the slots in state OPEN. -/
def State.openHdls (s : State) : List (BitVec 20) :=
  s.pl.slots.filterMap fun e => if e.2.state = .opened then some (mkHdl e.1.1 e.1.2) else none

/-! ### Identity of this module (01 R24, 13 R288) -/

/-- This module's unicast address. -/
def State.selfFa (s : State) : FA := BitVec.ofNat 16 (s.rdf .rtFabricPos 0 16)

/-- This module's plane: true for B. -/
def State.planeB (s : State) : Bool := s.rdf .rtFabricPos 16 1 = 1

/-- A coordinate of this module. -/
def State.coord (s : State) (d : Nat) : Nat := s.rdf .rtFabricPos (24 + 11 * d) 11

/-- A ring size. -/
def State.ringSize (s : State) (d : Nat) : Nat := s.rdf .rtTorusDim (16 * d) 12

/-- A marker byte counts as burned with at least 5 of its bits set (20 R401). -/
def burned (b : Byte) : Bool := decide (5 ≤ ((List.range 8).filter fun i => b.getLsbD i).length)

/-- Life-cycle state: burned markers from byte 0 on (20 R401). -/
def State.lifeCycle (s : State) : Nat := (s.sec.lc.takeWhile burned).length

/-- The values of RT_FABRIC_POS and RT_TORUS_DIM leave the module unplaced (01 R25). -/
def State.placeBad (s : State) : Bool :=
  let fa := s.rdf .rtFabricPos 0 16
  let x := s.ringSize 0
  let y := s.ringSize 1
  let z := s.ringSize 2
  fa == 0 || decide (0xEFFF < fa) || x == 0 || y == 0 || z == 0 || decide (2048 < x * y * z)
  || decide (x ≤ s.coord 0) || decide (y ≤ s.coord 1) || decide (z ≤ s.coord 2)

/-- The module is unplaced: by its place, or in BLANK and RETIRED (01 R25, 20 R415). -/
def State.unplaced (s : State) : Bool := s.placeBad || s.lifeCycle == 0 || decide (4 ≤ s.lifeCycle)

/-! ### What runs -/

/-- The main rails are on and nothing has halted the engines (16 R341, 21 R422, R429, 17 R351). -/
def State.engines (s : State) : Bool :=
  s.clk.aligned && !s.pwr.unpowered && s.pwr.pwrEn && !s.pwr.tripped && !s.clk.unaligned && !s.twin.stopped

/-- The module has power at all. -/
def State.powered (s : State) : Bool := !s.pwr.unpowered

/-- Firmware serves (19 R395): its cores run, and bring-up has not stopped (21 R432). -/
def State.firmware (s : State) : Bool := s.engines && s.fw.state == .running && !s.pwr.failed

/-! ### The canonical form of the three memories (11 R250, 08 R191) -/

/-- Module, working and cell memory list rising addresses and no byte that reads as an unlisted one. -/
def Memory.wf (m : Mem) : Bool := Ram.wf m.ram && Ram.wf m.work && Ram.wf m.cells

end Sys2Proof.Machine
end

