-- ==== Sys2Proof/Machine/Fec.lean ====
section
/-!
DEFINITION. Machine/Fec.lean: forward error correction of the links, RS(544,514) over GF(2^10) (12 R267). Frames come in and go out of
the model above this layer; what it makes of a superframe is defined here (log 118).
-/
namespace Sys2Proof.Machine

open Sys2Proof

/-- A symbol of the link code. -/
abbrev Symbol := BitVec 10

/-- Multiplies by x in the field with polynomial x^10 + x^3 + 1, that of IEEE 802.3 (PRESUMED, log 118). -/
def fecX (a : Symbol) : Symbol := if a.getLsbD 9 then (a <<< 1) ^^^ 9#10 else a <<< 1

/-- Product in that field. -/
def fecMulAux : Nat → Symbol → Symbol → Symbol
  | 0, _, _ => 0
  | n + 1, a, b => (if b.getLsbD 0 then a else 0) ^^^ fecMulAux n (fecX a) (b >>> 1)

def fecMul (a b : Symbol) : Symbol := fecMulAux 10 a b

/-- α^n. -/
def fecPow : Nat → Symbol
  | 0 => 1
  | n + 1 => fecX (fecPow n)

/-- Generator polynomial with the roots α^0 to α^29, the coefficient of x^30 first. -/
def fecGenerator : List Symbol :=
  (List.range 30).foldl (fun g i => List.zipWith (· ^^^ ·) (g ++ [0]) (0 :: g.map (fecMul (fecPow i)))) [1]

/-- One symbol more of the division by the generator. -/
def fecDivide (r : List Symbol) (x : Symbol) : List Symbol :=
  List.zipWith (· ^^^ ·) (r.drop 1 ++ [0]) ((fecGenerator.drop 1).map (fecMul (x ^^^ r.headD 0)))

/-- A codeword: 514 message symbols and 30 check symbols. -/
def fecEncode (m : List Symbol) : List Symbol := m ++ m.foldl fecDivide (List.replicate 30 0)

/-- Symbols of a byte stream, each byte and each symbol least significant bit first (12 R267). Five bytes hold four symbols. -/
def fecSymbols (l : List Byte) : List Symbol :=
  (pieces 5 l).flatMap fun p => (List.range 4).map fun i => BitVec.ofNat 10 (bits (leNat p) (10 * i) 10)

/-- The 104 codewords of a superframe of 257 frames of 260 bytes (12 R267). -/
def superframe (frames : List (List Byte)) : List (List Symbol) := (pieces 514 (fecSymbols frames.flatten)).map fecEncode

/-- Symbol i of a codeword goes to lane i mod W (12 R267). -/
def laneSymbols (width lane : Nat) (codeword : List Symbol) : List Symbol :=
  ((codeword.zipIdx).filter fun e => e.2 % width == lane).map (·.1)

/-- The frame slots of a superframe that a codeword holds part of: they fail their CRC where it is discarded (12 R267). -/
def slotsIn (codeword : Nat) : List Nat :=
  let first := 5140 * codeword
  (List.range 257).filter fun s => decide (2080 * s < first + 5140) && decide (first < 2080 * s + 2080)

/-- A received word is corrected to a codeword: they differ in at most 15 symbols. A word with no such codeword is discarded. -/
def fecCorrects (received codeword : List Symbol) : Bool :=
  received.length == 544 && codeword == fecEncode (codeword.take 514)
  && decide (((received.zip codeword).filter fun e => e.1 != e.2).length ≤ 15)

end Sys2Proof.Machine
end

