-- ==== Sys2Proof/Machine/Hash.lean ====
section
/-!
DEFINITION. Machine/Hash.lean: CRC-16, CRC-32, CRC-64, SHA-256 and SHA-384 over bytes.
-/
namespace Sys2Proof.Machine

open Sys2Proof

/-! ### CRCs -/

/-- One bit of a reflected CRC. -/
def crcStepR {w : Nat} (poly c : BitVec w) : BitVec w :=
  if c.getLsbD 0 then (c >>> 1) ^^^ poly else c >>> 1

/-- One byte of a reflected CRC. -/
def crcByteR {w : Nat} (poly c : BitVec w) (b : Byte) : BitVec w :=
  let x := c ^^^ b.setWidth w
  crcStepR poly (crcStepR poly (crcStepR poly (crcStepR poly
    (crcStepR poly (crcStepR poly (crcStepR poly (crcStepR poly x)))))))

/-- CRC-32 of IEEE 802.3 (12 R270). -/
def crc32 (l : List Byte) : BitVec 32 := ~~~ (l.foldl (crcByteR 0xEDB88320#32) (~~~ 0#32))

/-- CRC-64 (05 R126): polynomial 0x42F0E1EBA9EA3693 reflected, initial value and final XOR all ones. -/
def crc64 (l : List Byte) : BitVec 64 := ~~~ (l.foldl (crcByteR 0xC96C5795D7870F42#64) (~~~ 0#64))

/-- One bit of CRC-16. -/
def crc16Step (c : BitVec 16) : BitVec 16 :=
  if c.getLsbD 15 then (c <<< 1) ^^^ 0x1021#16 else c <<< 1

/-- CRC-16 of a cell header (12 R274): most significant bit first, initial value 0xFFFF. -/
def crc16 (l : List Byte) : BitVec 16 :=
  l.foldl (fun c b =>
    let x := c ^^^ ((b.setWidth 16 : BitVec 16) <<< (8 : Nat))
    crc16Step (crc16Step (crc16Step (crc16Step (crc16Step (crc16Step (crc16Step (crc16Step x)))))))) 0xFFFF#16

/-! ### SHA-2 -/

/-- Round constants of SHA-256. -/
def sha256K : List Nat :=
  [0x428A2F98, 0x71374491, 0xB5C0FBCF, 0xE9B5DBA5, 0x3956C25B, 0x59F111F1, 0x923F82A4, 0xAB1C5ED5,
   0xD807AA98, 0x12835B01, 0x243185BE, 0x550C7DC3, 0x72BE5D74, 0x80DEB1FE, 0x9BDC06A7, 0xC19BF174]
  ++ [0xE49B69C1, 0xEFBE4786, 0x0FC19DC6, 0x240CA1CC, 0x2DE92C6F, 0x4A7484AA, 0x5CB0A9DC, 0x76F988DA,
   0x983E5152, 0xA831C66D, 0xB00327C8, 0xBF597FC7, 0xC6E00BF3, 0xD5A79147, 0x06CA6351, 0x14292967]
  ++ [0x27B70A85, 0x2E1B2138, 0x4D2C6DFC, 0x53380D13, 0x650A7354, 0x766A0ABB, 0x81C2C92E, 0x92722C85,
   0xA2BFE8A1, 0xA81A664B, 0xC24B8B70, 0xC76C51A3, 0xD192E819, 0xD6990624, 0xF40E3585, 0x106AA070]
  ++ [0x19A4C116, 0x1E376C08, 0x2748774C, 0x34B0BCB5, 0x391C0CB3, 0x4ED8AA4A, 0x5B9CCA4F, 0x682E6FF3,
   0x748F82EE, 0x78A5636F, 0x84C87814, 0x8CC70208, 0x90BEFFFA, 0xA4506CEB, 0xBEF9A3F7, 0xC67178F2]

/-- Initial words of SHA-256. -/
def sha256H : List Nat :=
  [0x6A09E667, 0xBB67AE85, 0x3C6EF372, 0xA54FF53A, 0x510E527F, 0x9B05688C, 0x1F83D9AB, 0x5BE0CD19]

/-- Round constants of SHA-384. -/
def sha512K : List Nat :=
  [0x428A2F98D728AE22, 0x7137449123EF65CD, 0xB5C0FBCFEC4D3B2F, 0xE9B5DBA58189DBBC,
   0x3956C25BF348B538, 0x59F111F1B605D019, 0x923F82A4AF194F9B, 0xAB1C5ED5DA6D8118,
   0xD807AA98A3030242, 0x12835B0145706FBE, 0x243185BE4EE4B28C, 0x550C7DC3D5FFB4E2,
   0x72BE5D74F27B896F, 0x80DEB1FE3B1696B1, 0x9BDC06A725C71235, 0xC19BF174CF692694]
  ++ [0xE49B69C19EF14AD2, 0xEFBE4786384F25E3, 0x0FC19DC68B8CD5B5, 0x240CA1CC77AC9C65,
   0x2DE92C6F592B0275, 0x4A7484AA6EA6E483, 0x5CB0A9DCBD41FBD4, 0x76F988DA831153B5,
   0x983E5152EE66DFAB, 0xA831C66D2DB43210, 0xB00327C898FB213F, 0xBF597FC7BEEF0EE4,
   0xC6E00BF33DA88FC2, 0xD5A79147930AA725, 0x06CA6351E003826F, 0x142929670A0E6E70]
  ++ [0x27B70A8546D22FFC, 0x2E1B21385C26C926, 0x4D2C6DFC5AC42AED, 0x53380D139D95B3DF,
   0x650A73548BAF63DE, 0x766A0ABB3C77B2A8, 0x81C2C92E47EDAEE6, 0x92722C851482353B,
   0xA2BFE8A14CF10364, 0xA81A664BBC423001, 0xC24B8B70D0F89791, 0xC76C51A30654BE30,
   0xD192E819D6EF5218, 0xD69906245565A910, 0xF40E35855771202A, 0x106AA07032BBD1B8]
  ++ [0x19A4C116B8D2D0C8, 0x1E376C085141AB53, 0x2748774CDF8EEB99, 0x34B0BCB5E19B48A8,
   0x391C0CB3C5C95A63, 0x4ED8AA4AE3418ACB, 0x5B9CCA4F7763E373, 0x682E6FF3D6B2B8A3,
   0x748F82EE5DEFB2FC, 0x78A5636F43172F60, 0x84C87814A1F0AB72, 0x8CC702081A6439EC,
   0x90BEFFFA23631E28, 0xA4506CEBDE82BDE9, 0xBEF9A3F7B2C67915, 0xC67178F2E372532B]
  ++ [0xCA273ECEEA26619C, 0xD186B8C721C0C207, 0xEADA7DD6CDE0EB1E, 0xF57D4F7FEE6ED178,
   0x06F067AA72176FBA, 0x0A637DC5A2C898A6, 0x113F9804BEF90DAE, 0x1B710B35131C471B,
   0x28DB77F523047D84, 0x32CAAB7B40C72493, 0x3C9EBE0A15C9BEBC, 0x431D67C49C100D4C,
   0x4CC5D4BECB3E42B6, 0x597F299CFC657E2A, 0x5FCB6FAB3AD6FAEC, 0x6C44198C4A475817]

/-- Initial words of SHA-384. -/
def sha384H : List Nat :=
  [0xCBBB9D5DC1059ED8, 0x629A292A367CD507, 0x9159015A3070DD17, 0x152FECD8F70E5939,
   0x67332667FFC00B31, 0x8EB44A8768581511, 0xDB0C2E0D64F98FA7, 0x47B5481DBEFA4FA4]
/-- The big-endian value of bytes. -/
def beNat (l : List Byte) : Nat := l.foldl (fun a b => a * 256 + b.toNat) 0

/-- Bytes of a number, most significant first. -/
def beBytes (n v : Nat) : List Byte := (leBytes n v).reverse

/-- A message padded to whole blocks of 4·wb bytes times 4: wb is the word size in bytes. -/
def shaPad (wb : Nat) (l : List Byte) : List Byte :=
  let blk := 16 * wb
  let body := l ++ [0x80]
  let used := (body.length + 2 * wb) % blk
  body ++ zeros (if used = 0 then 0 else blk - used) ++ beBytes (2 * wb) (8 * l.length)

/-- The rotation and shift amounts of one SHA-2 width. -/
structure ShaSig where
  s0 : Nat × Nat × Nat
  s1 : Nat × Nat × Nat
  b0 : Nat × Nat × Nat
  b1 : Nat × Nat × Nat

/-- One round: the eight working words, the window of 16 schedule words, and a round constant. -/
def shaRound {w : Nat} (g : ShaSig) (st : List (BitVec w) × List (BitVec w)) (k : Nat) :
    List (BitVec w) × List (BitVec w) :=
  match st with
  | ([a, b, c, d, e, f, h, i], win) =>
    let wt := win.getD 0 0
    let t1 := i + (e.rotateRight g.b1.1 ^^^ e.rotateRight g.b1.2.1 ^^^ e.rotateRight g.b1.2.2)
      + ((e &&& f) ^^^ (~~~ e &&& h)) + BitVec.ofNat w k + wt
    let t2 := (a.rotateRight g.b0.1 ^^^ a.rotateRight g.b0.2.1 ^^^ a.rotateRight g.b0.2.2)
      + ((a &&& b) ^^^ (a &&& c) ^^^ (b &&& c))
    let x := win.getD 1 0
    let y := win.getD 14 0
    let new := (y.rotateRight g.s1.1 ^^^ y.rotateRight g.s1.2.1 ^^^ (y >>> g.s1.2.2)) + win.getD 9 0
      + (x.rotateRight g.s0.1 ^^^ x.rotateRight g.s0.2.1 ^^^ (x >>> g.s0.2.2)) + wt
    ([t1 + t2, a, b, c, d + t1, e, f, h], win.drop 1 ++ [new])
  | other => other

/-- One block. -/
def shaBlock {w : Nat} (g : ShaSig) (ks : List Nat) (h : List (BitVec w)) (blk : List Byte) : List (BitVec w) :=
  let win := (pieces (w / 8) blk).map fun p => BitVec.ofNat w (beNat p)
  let r := ks.foldl (shaRound g) (h, win)
  List.zipWith (· + ·) h r.1

/-- The hash words of a message. -/
def sha (w : Nat) (g : ShaSig) (ks hs : List Nat) (l : List Byte) : List (BitVec w) :=
  (pieces (2 * w) (shaPad (w / 8) l)).foldl (shaBlock g ks) (hs.map (BitVec.ofNat w))

/-- SHA-256, 32 bytes. -/
def sha256 (l : List Byte) : List Byte :=
  (sha 32 ⟨(7, 18, 3), (17, 19, 10), (2, 13, 22), (6, 11, 25)⟩ sha256K sha256H l).flatMap fun x => beBytes 4 x.toNat

/-- SHA-384, 48 bytes. -/
def sha384 (l : List Byte) : List Byte :=
  ((sha 64 ⟨(1, 8, 7), (19, 61, 6), (28, 34, 39), (14, 18, 41)⟩ sha512K sha384H l).take 6).flatMap
    fun x => beBytes 8 x.toNat

/-- Bytes 0 to 7 of a SHA-256 digest as a little-endian value (04 R96). -/
def sig64 (l : List Byte) : Word := BitVec.ofNat 64 (leAt (sha256 l) 0 8)

end Sys2Proof.Machine
end

