-- ==== Sys2Proof/Machine/Operands.lean ====
section
/-!
DEFINITION. Machine/Operands.lean: the operand forms: cells, control frames, CTRL cells, message heads and the records
that module-to-module cells carry, read from bytes and written to bytes.
-/
namespace Sys2Proof.Machine

open Sys2Proof

/-! ### Traffic classes and kinds (12 R276) -/

def tcMgmt : Nat := 0
def tcUp : Nat := 1
def tcDown : Nat := 2
def tcExch : Nat := 3
def tcBulk : Nat := 4
def tcMirror : Nat := 5
def tcLink : Nat := 6

def kData : Nat := 0
def kFold : Nat := 1
def kResult : Nat := 2
def kExch : Nat := 3
def kCtrl : Nat := 4
def kRead : Nat := 5
def kResp : Nat := 6
def kMirror : Nat := 7

/-- The classes a kind may travel in (12 R276). -/
def kindTcOk (kind tc : Nat) : Bool :=
  match kind with
  | 0 => tc == 4
  | 1 => tc == 1 || tc == 2
  | 2 => tc == 1 || tc == 2
  | 3 => tc == 3
  | 4 => tc == 0 || tc == 6
  | 5 => tc == 0
  | 6 => tc == 0
  | 7 => tc == 5
  | _ => false

/-! ### Cells (12 R274) -/

/-- Bytes 0 to 13 of the header. -/
def Cell.head14 (c : Cell) : List Byte :=
  leBytes 14
    (c.dst.toNat + c.src.toNat * 2 ^ 16 + c.tc * 2 ^ 32 + c.kind * 2 ^ 35 + b2n c.fl * 2 ^ 38 + b2n c.ar * 2 ^ 39
      + c.clr * 2 ^ 40 + c.len * 2 ^ 42 + c.age * 2 ^ 50 + c.hdl.toNat * 2 ^ 64 + c.seq * 2 ^ 84
      + c.epo.toNat * 2 ^ 108)

/-- The 256 bytes of a cell: header with HCRC, payload, zeros. -/
def Cell.bytes (c : Cell) : List Byte :=
  c.head14 ++ leBytes 2 (crc16 c.head14).toNat ++ padTo 240 c.payload

/-- The cell that 256 bytes spell, its payload cut to LEN. -/
def Cell.ofBytes (b : List Byte) : Cell :=
  let v := leAt b 0 16
  let len := bits v 42 8
  { dst := BitVec.ofNat 16 v, src := BitVec.ofNat 16 (bits v 16 16), tc := bits v 32 3, kind := bits v 35 3,
    fl := bitOf v 38, ar := bitOf v 39, clr := bits v 40 2, len := len, age := bits v 50 14,
    hdl := BitVec.ofNat 20 (bits v 64 20), seq := bits v 84 24, epo := BitVec.ofNat 4 (bits v 108 4),
    payload := slice b 16 len }

/-! ### CTRL cells (12 R277 to R282) -/

/-- Bytes [lo, hi) of a payload are 0. -/
def zeroAt (p : List Byte) (lo hi : Nat) : Bool := allZero (slice p lo (hi - lo))

/-- A CTRL type keeps its layout: LEN and reserved bytes; for types between modules also class and handle. -/
def ctrlFields (c : Cell) (p : List Byte) : Bool :=
  let mod := fun (tc len : Nat) => c.tc == tc && c.len == len && c.hdl == 0
  match byteAt p 0 with
  | 0x01 => c.len == 32 && zeroAt p 28 32
  | 0x02 => c.len == 24 && (byteAt p 17 == byteAt p 17 / 2 % 4 * 2) && decide (byteAt p 18 < 16)
      && decide (byteAt p 19 < 16) && zeroAt p 20 24
  | 0x03 => c.len == 24 && (byteAt p 20 / 2 % 8 == 0) && zeroAt p 21 24
  | 0x04 => c.len == 24 && zeroAt p 17 24
  | 0x05 => c.len == 24 && decide (byteAt p 11 ≤ 16) && zeroAt p 12 16
  | 0x06 =>
    let n := byteAt p 16
    decide (1 ≤ n) && decide (n ≤ 8) && c.len == 24 + 8 * n && zeroAt p 17 24
      && (List.range n).all fun i => zeroAt p (30 + 8 * i) (32 + 8 * i) && decide (1 ≤ leAt p (27 + 8 * i) 3)
        && decide (leAt p (27 + 8 * i) 3 ≤ 2 ^ 23)
  | 0x80 => mod 6 32 && zeroAt p 20 24 && zeroAt p 30 32
  | 0x81 => mod 0 32 && zeroAt p 16 24 && zeroAt p 30 32
  | 0x82 => mod 0 24 && decide (byteAt p 10 < 32) && zeroAt p 11 16
  | 0x83 => mod 0 24 && decide (byteAt p 10 < 16) && zeroAt p 11 12 && zeroAt p 16 24
  | 0x84 => mod 0 24 && decide (byteAt p 10 < 16) && decide (byteAt p 10 % 4 < 3) && zeroAt p 11 16
  | 0x85 => mod 0 32 && zeroAt p 28 32
  | 0x86 => mod 0 80
  | 0x87 => mod 0 24 && decide (leAt p 8 4 < 2 ^ 20)
  | 0x88 => mod 0 40 && decide (byteAt p 16 < 8) && (byteAt p 17 == 1 || byteAt p 17 == 2) && zeroAt p 18 24
      && zeroAt p 32 40
  | _ => false

/-- Check 2 of R275 for a CTRL cell (12 R277). -/
def ctrlOk (c : Cell) : Bool :=
  c.seq == 0 && !c.fl && byteAt c.payload 1 == 1 && zeroAt c.payload 2 8 && ctrlFields c c.payload

/-- Check 2 of R275 for a READ cell (12 R284). -/
def readOk (c : Cell) : Bool :=
  let p := c.payload
  c.len == 40 && byteAt p 0 == 1 && zeroAt p 4 8 && decide (byteAt p 16 < 8) && zeroAt p 17 24 && zeroAt p 32 40

/-- CTRL types an endpoint may send (12 R277). -/
def endpointMaySend (ctype : Nat) : Bool :=
  ctype == 0x01 || ctype == 0x03 || ctype == 0x04 || ctype == 0x05 || ctype == 0x06

/-- Check 2 of R275: HCRC, class, colour and kind, LEN, CTRL and READ layouts, and what an ENDPOINT port carries. -/
def checkTwo (endpoint : Bool) (b : List Byte) : Bool :=
  let c := Cell.ofBytes b
  leAt b 14 2 == (crc16 (b.take 14)).toNat && kindTcOk c.kind c.tc && decide (c.clr < 3) && decide (c.len ≤ 240)
  && (c.kind != kCtrl || ctrlOk c) && (c.kind != kRead || readOk c)
  && !(endpoint && (c.kind == kRead || c.kind == kResp || (c.kind == kCtrl && !endpointMaySend (byteAt c.payload 0))))

/-- The 8-byte prefix of a CTRL payload. -/
def ctrlHead (ctype : Nat) : List Byte := leBytes 1 ctype ++ [1, 0, 0, 0, 0, 0, 0]

def payLaunch (step : Nat) (sig : Word) (scalar : BitVec 32) : List Byte :=
  ctrlHead 0x01 ++ leBytes 8 step ++ leBytes 8 sig.toNat ++ leBytes 4 scalar.toNat ++ zeros 4

def payLaunchReply (step status pmask trees epoch : Nat) : List Byte :=
  ctrlHead 0x02 ++ leBytes 8 step ++ leBytes 1 status ++ leBytes 1 (2 * pmask) ++ leBytes 1 trees ++ leBytes 1 epoch
  ++ zeros 4

def payHeartbeat (step count flags : Nat) : List Byte :=
  ctrlHead 0x03 ++ leBytes 8 step ++ leBytes 4 count ++ leBytes 1 flags ++ zeros 3

def payStepEnd (step verdict : Nat) : List Byte :=
  ctrlHead 0x04 ++ leBytes 8 step ++ leBytes 1 verdict ++ zeros 7

def payAck (ackSeq credits step : Nat) : List Byte :=
  ctrlHead 0x05 ++ leBytes 3 ackSeq ++ leBytes 1 credits ++ zeros 4 ++ leBytes 8 step

def payNak (step : Nat) (ranges : List (Nat × Nat)) : List Byte :=
  ctrlHead 0x06 ++ leBytes 8 step ++ leBytes 1 ranges.length ++ zeros 7
  ++ ranges.flatMap fun r => leBytes 3 r.1 ++ leBytes 3 r.2 ++ zeros 2

def payTwinHb (ledStep count : Nat) (silent : BitVec 48) : List Byte :=
  ctrlHead 0x80 ++ leBytes 8 ledStep ++ leBytes 4 count ++ zeros 4 ++ leBytes 6 silent.toNat ++ zeros 2

def paySilence (ledStep : Nat) (silent : BitVec 48) : List Byte :=
  ctrlHead 0x81 ++ leBytes 8 ledStep ++ zeros 8 ++ leBytes 6 silent.toNat ++ zeros 2

def payFence (party : FA) (epoch : Nat) (deferred : Bool) (beat : Nat) : List Byte :=
  ctrlHead 0x82 ++ leBytes 2 party.toNat ++ leBytes 1 (epoch + 16 * b2n deferred) ++ zeros 5 ++ leBytes 8 beat

def payAdmit (party : FA) (epoch gen : Nat) : List Byte :=
  ctrlHead 0x83 ++ leBytes 2 party.toNat ++ leBytes 1 epoch ++ zeros 1 ++ leBytes 4 gen ++ zeros 8

def payLink (reporter : FA) (dim : Nat) (minus restored : Bool) (beat : Nat) : List Byte :=
  ctrlHead 0x84 ++ leBytes 2 reporter.toNat ++ leBytes 1 (dim + 4 * b2n minus + 8 * b2n restored) ++ zeros 5
  ++ leBytes 8 beat

def payDigest (step : Nat) (d : Word) (word : BitVec 32) : List Byte :=
  ctrlHead 0x85 ++ leBytes 8 step ++ leBytes 8 d.toNat ++ leBytes 4 word.toNat ++ zeros 4

def payCommit (step : Nat) (record : List Byte) : List Byte := ctrlHead 0x86 ++ leBytes 8 step ++ record

def payNorm (hdl : BitVec 20) (s : BitVec 32) (step : Nat) : List Byte :=
  ctrlHead 0x87 ++ leBytes 4 hdl.toNat ++ leBytes 4 s.toNat ++ leBytes 8 step

def payHealFail (r : GranuleRef) (reason : Byte) : List Byte :=
  ctrlHead 0x88 ++ leBytes 8 r.gen ++ [r.role, reason] ++ zeros 6 ++ leBytes 8 r.offset ++ zeros 8

/-- Payload of a heal request (12 R284). -/
def payHealRequest (tag : Nat) (r : GranuleRef) : List Byte :=
  [1, 1] ++ leBytes 2 tag ++ zeros 4 ++ leBytes 8 r.gen ++ [r.role] ++ zeros 7 ++ leBytes 8 r.offset ++ zeros 8

/-- A transfer head (12 R283). -/
def transferHead (ttype : Nat) (r : GranuleRef) (n : Nat) : List Byte :=
  leBytes 1 ttype ++ [1] ++ zeros 6 ++ leBytes 8 r.gen ++ [r.role] ++ zeros 7 ++ leBytes 8 r.offset ++ leBytes 4 n
  ++ zeros 4

/-- A transfer head keeps its table (12 R283), and the data has the length it names. -/
def transferOk (h data : List Byte) : Bool :=
  h.length == 40 && decide (1 ≤ byteAt h 0) && decide (byteAt h 0 ≤ 3) && byteAt h 1 == 1 && zeroAt h 2 8
  && decide (byteAt h 16 < 8) && zeroAt h 17 24 && zeroAt h 36 40 && leAt h 32 4 == data.length
  && (if byteAt h 0 == 2 then zeroAt h 24 32 else data.length == 4096)

/-! ### Control frames (12 R271) -/

/-- A frame's bytes and CRC agree; a data frame's CRC starts with its FSEQ (12 R270). -/
def frameCrcOk (lead frame : List Byte) : Bool :=
  frame.length == 260 && leAt frame 256 4 == (crc32 (lead ++ frame.take 256)).toNat

/-- A frame with its CRC-32 (12 R270). -/
def frameBytes (lead body : List Byte) : List Byte := body ++ leBytes 4 (crc32 (lead ++ body)).toNat

/-- A data frame: a cell with its HCRC, and the CRC over FSEQ and the cell (12 R270, R275). -/
def dataFrameBytes (fseq : Nat) (c : Cell) : List Byte := frameBytes (leBytes 2 fseq) c.bytes

/-- A control frame holds no reserved value. -/
def controlOk (f : List Byte) : Bool :=
  zeroAt f 0 2 && decide (byteAt f 2 < 2) && decide (byteAt f 3 < 2) && zeroAt f 6 8 && decide (byteAt f 52 < 64)
  && decide (byteAt f 52 / 4 % 4 < 3) && decide (byteAt f 53 < 64) && zeroAt f 55 256

end Sys2Proof.Machine

namespace Sys2Proof

open Sys2Proof.Machine

/-! ### Heads (04 R82) -/

/-- The 40 bytes of a head. -/
def Head.bytes (h : Head) : List Byte :=
  leBytes 8 h.sig.toNat ++ leBytes 8 h.step ++ leBytes 4 h.chunk ++ leBytes 4 h.elems ++ [h.msg, h.flags, h.status, h.tree]
  ++ leBytes 2 h.lastFa.toNat ++ zeros 2 ++ leBytes 4 h.late ++ leBytes 4 h.layer

/-- The head that 40 bytes spell. -/
def Head.ofBytes (p : List Byte) : Head :=
  { sig := BitVec.ofNat 64 (leAt p 0 8), step := leAt p 8 8, chunk := leAt p 16 4, elems := leAt p 20 4,
    msg := BitVec.ofNat 8 (byteAt p 24), flags := BitVec.ofNat 8 (byteAt p 25), status := BitVec.ofNat 8 (byteAt p 26),
    tree := BitVec.ofNat 8 (byteAt p 27), lastFa := BitVec.ofNat 16 (leAt p 28 2), late := leAt p 32 4,
    layer := leAt p 36 4 }

/-- MSG and the reserved fields lie inside the table (04 R82). -/
def Head.ok (h : Head) : Bool :=
  decide (h.msg.toNat < 8) && decide (h.flags.toNat < 16) && decide (h.flags.toNat / 2 % 4 ≠ 0)
  && decide (h.tree.toNat < 16)

def Head.presence (h : Head) : Bool := h.flags.toNat % 2 == 1
def Head.pmask (h : Head) : Nat := h.flags.toNat / 2 % 4
def Head.last (h : Head) : Bool := h.flags.toNat / 8 % 2 == 1
def Head.treeIx (h : Head) : Nat := h.tree.toNat % 8
def Head.planeB (h : Head) : Bool := h.tree.toNat / 8 % 2 == 1

end Sys2Proof

namespace Sys2Proof.Machine

open Sys2Proof

def msgContrib : Nat := 0
def msgExps : Nat := 1
def msgMaxe : Nat := 2
def msgPsum : Nat := 3
def msgResult : Nat := 4
def msgGather : Nat := 5
def msgExch : Nat := 6
def msgEnd : Nat := 7

/-- KIND and TC of a message (04 R81); `toRoot` for an END sent to a root. -/
def msgKindTc (msg : Nat) (toRoot : Bool) : Nat × Nat :=
  match msg with
  | 0 => (kFold, tcUp)
  | 1 => (kFold, tcUp)
  | 2 => (kFold, tcDown)
  | 3 => (kFold, tcUp)
  | 6 => (kExch, tcExch)
  | 7 => (kResult, if toRoot then tcUp else tcDown)
  | _ => (kResult, tcDown)

/-- Instance status codes (04 R99). -/
def stOk : Nat := 0x00
def stMemberLost : Nat := 0x01
def stSigMismatch : Nat := 0x02
def stFormatError : Nat := 0x03
def stPlaneChange : Nat := 0x04
def stTreeLost : Nat := 0x05
def stWaitCycle : Nat := 0x06
def stAborted : Nat := 0x07
def stSlotBusy : Nat := 0x10
def stNotInstalled : Nat := 0x11
def stPlaneSplit : Nat := 0x12

/-- A reserved code in an END ranks as ABORTED (04 R99). -/
def endStatus (b : Nat) : Nat := if b ≤ stAborted then b else stAborted

/-! ### MIRROR and write heads (05 R115, 08 R201) -/

end Sys2Proof.Machine
end

