-- ==== Sys2Proof/Machine/Fabric.lean ====
section
/-!
DEFINITION. Machine/Fabric.lean: membership, torus routing and the route tables that firmware writes (13 R287 to R292).
-/
namespace Sys2Proof.Machine

open Sys2Proof

/-! ### Membership (18 R386) -/

/-- The membership entry of a party. -/
def State.member (s : State) (fa : FA) : Option Member := s.rt.members.find? fun m => m.fa == fa

/-- A party is fenced (17 R355). -/
def State.isFenced (s : State) (fa : FA) : Bool := (s.party fa).fenced

/-- This module's own entry. -/
def State.selfMember (s : State) : Option Member := s.member s.selfFa

/-- The address of twin A of this module's node. -/
def State.nodeA (s : State) : FA :=
  match s.selfMember with
  | some m => m.twinA
  | none => s.selfFa

/-- The entry serves this module's node. -/
def State.ownNode (s : State) (m : Member) : Bool := m.twinA == s.nodeA

/-- The other module of a node on a plane. -/
def State.moduleOf (s : State) (twinA : FA) (planeB : Bool) : Option Member :=
  s.rt.members.find? fun m => m.isMod && m.twinA == twinA && m.plane == planeB

/-- The leaf of an endpoint on a plane (04 R76). -/
def State.leafOf (s : State) (fa : FA) (planeB : Bool) : Option FA :=
  match s.member fa with
  | some m => (s.moduleOf m.twinA planeB).map (·.fa)
  | none => none

/-- This module is the leaf of an endpoint on its own plane. -/
def State.isLeafOf (s : State) (fa : FA) : Bool :=
  match s.member fa with
  | some m => !m.isMod && s.ownNode m
  | none => false

/-- The endpoint that a logical ENDPOINT port reaches. -/
def State.endpointOn (s : State) (p : Nat) : Option Member :=
  s.rt.members.find? fun m => !m.isMod && s.ownNode m && m.port == p

/-- Modules of both planes but this one. -/
def State.otherModules (s : State) : List FA :=
  (s.rt.members.filter fun m => m.isMod && m.fa != s.selfFa).map (·.fa)

/-- Modules of this module's plane but this one. -/
def State.planeModules (s : State) : List FA :=
  (s.rt.members.filter fun m => m.isMod && m.fa != s.selfFa && m.plane == s.planeB).map (·.fa)

/-! ### Positions and ring walks (13 R291) -/

/-- A position. -/
abbrev Pos := Nat × Nat × Nat

def Pos.at (p : Pos) : Nat → Nat
  | 0 => p.1
  | 1 => p.2.1
  | _ => p.2.2

def Pos.set (p : Pos) (d v : Nat) : Pos :=
  match d with
  | 0 => (v, p.2)
  | 1 => (p.1, v, p.2.2)
  | _ => (p.1, p.2.1, v)

def Member.pos (m : Member) : Pos := (m.x, m.y, m.z)

/-- The address at each populated position of this module's plane; a fenced module's position is missing (01 R17, R20). -/
def State.populated (s : State) : List (Pos × FA) :=
  (s.rt.members.filter fun m => m.isMod && m.plane == s.planeB && !s.isFenced m.fa).map fun m => (m.pos, m.fa)

/-- The dimension orders by number (13, RT_STATUS.DIMORD). -/
def dimOrders : List (List Nat) := [[0, 1, 2], [0, 2, 1], [1, 0, 2], [1, 2, 0], [2, 0, 1], [2, 1, 0]]

/-- One position onward in a ring. -/
def ringNext (size v : Nat) (minus : Bool) : Nat :=
  if minus then (if v = 0 then size - 1 else v - 1) else (if v + 1 < size then v + 1 else 0)

/-- What routing knows: populated positions, ring sizes and broken links. -/
structure RouteView where
  pop    : List (Pos × FA)
  sizes  : Nat × Nat × Nat
  broken : List (FA × Nat × Bool)

/-- The hop from one populated position to the next may be used. -/
def RouteView.hopOk (v : RouteView) (a b : Pos) (d : Nat) (minus : Bool) : Bool :=
  match Assoc.find a v.pop, Assoc.find b v.pop with
  | some fa, some fb => !(v.broken.contains (fa, d, minus)) && !(v.broken.contains (fb, d, !minus))
  | _, _ => false

/-- Every hop of a ring walk may be used, for n hops. -/
def RouteView.walkOk (v : RouteView) (d : Nat) (minus : Bool) : Nat → Pos → Bool
  | 0, _ => true
  | n + 1, a =>
    let b := Pos.set a d (ringNext (Pos.at v.sizes d) (a.at d) minus)
    v.hopOk a b d minus && v.walkOk d minus n b

/-- The way around the ring: the shorter one, + on a tie, the other where it crosses a missing position (13 R291). -/
def RouteView.way (v : RouteView) (a : Pos) (d dst : Nat) : Option Bool :=
  let size := Pos.at v.sizes d
  let f := (dst + size - a.at d) % size
  let b := size - f
  let plusOk := v.walkOk d false f a
  let minusOk := v.walkOk d true b a
  if f ≤ b then (if plusOk then some false else if minusOk then some true else none)
  else (if minusOk then some true else if plusOk then some false else none)

/-- The first hop from a position toward another in a dimension order. -/
def RouteView.firstHop (v : RouteView) (a b : Pos) : List Nat → Option (Nat × Option Bool)
  | [] => none
  | d :: ds => if a.at d = b.at d then v.firstHop a b ds else some (d, v.way a d (b.at d))

/-- A position reaches another in a dimension order. -/
def RouteView.reaches (v : RouteView) : List Nat → Pos → Pos → Bool
  | [], _, _ => true
  | d :: ds, a, b =>
    if a.at d = b.at d then v.reaches ds a b
    else (v.way a d (b.at d)).isSome && v.reaches ds (Pos.set a d (b.at d)) b

/-- Every populated position reaches every other. -/
def RouteView.complete (v : RouteView) (o : List Nat) : Bool :=
  v.pop.all fun a => v.pop.all fun b => v.reaches o a.1 b.1

def State.routeView (s : State) : RouteView :=
  { pop := s.populated, sizes := (s.ringSize 0, s.ringSize 1, s.ringSize 2), broken := s.rt.broken }

/-- The first dimension order that connects every pair (13 R291). -/
def RouteView.order (v : RouteView) : Option Nat := dimOrders.findIdx? v.complete

/-! ### Route entries (13 R288) -/

/-- The DROP entry. -/
def dropEntry : BitVec 32 := 0x08000000#32

/-- Logical ports, lowest number first. -/
def allPorts : List Nat := List.range 48

/-- Ports of a role: those UP, or where none is UP those configured. -/
def State.rolePorts (s : State) (r : Role) : List Nat :=
  let conf := allPorts.filter fun p => (s.port p).role == r
  let up := conf.filter fun p => (s.port p).state == .up
  if up.isEmpty then conf else up

/-- An entry with up to four candidates. -/
def packEntry (cands : List Nat) (adapt : Bool) : BitVec 32 :=
  match cands.take 4 with
  | [] => dropEntry
  | cs => BitVec.ofNat 32 ((cs.zipIdx).foldl (fun a (p, i) => a + p * 2 ^ (6 * i)) 0 + (cs.length - 1) * 2 ^ 24
      + b2n adapt * 2 ^ 28)

/-- The ports toward a position of this plane, none where it cannot be reached. -/
def State.torusPorts (s : State) (v : RouteView) (o : List Nat) (dst : Pos) : List Nat :=
  let here : Pos := (s.coord 0, s.coord 1, s.coord 2)
  if v.reaches o here dst then
    match v.firstHop here dst o with
    | some (d, some minus) => s.rolePorts (.torus d minus)
    | _ => []
  else []

/-- Candidate ports for a party (13 R288, R291, 04 R87, log 13): an endpoint of this node on its port, or over the twin link
while that port is out of service; the twin over the twin link; others around the torus to their node, or over the twin
link where their node has no module on this plane. -/
def State.candidates (s : State) (v : RouteView) (o : List Nat) (m : Member) : List Nat :=
  let twinPorts := s.rolePorts .twin
  if s.ownNode m then
    if m.isMod then twinPorts
    else if s.isFenced m.fa then []
    else if (s.port m.port).state == .up || s.twin.fenced || !s.twin.present then [m.port]
    else twinPorts
  else if (v.pop.any fun e => e.1 == m.pos) then s.torusPorts v o m.pos
  else if m.isMod && m.plane == s.planeB then []
  else twinPorts

/-- The route table that firmware writes into every group, with DIMORD and whether some destination is unreachable
(13 R291, R292). -/
def State.rebuildRoutes (s : State) : State :=
  let v := s.routeView
  let found := v.order
  let n := found.getD 0
  let o := dimOrders.getD n []
  let others := s.rt.members.filter fun m => m.fa != s.selfFa
  let rows := others.map fun m => (m.fa.toNat, packEntry (s.candidates v o m) (Config.adaptAllowed m.fa.toNat))
  let kept := rows.filter fun r => r.2 != dropEntry
  let t := { s with rt := { s.rt with
    routes := (List.range 8).flatMap fun g => kept.map fun r => ((g, r.1), r.2)
    dimord := n
    unreach := found.isNone } }
  if found.isNone && !s.rt.unreach then
    t.raise evRtUnreachable 0 ((rows.filter fun r => r.2 == dropEntry).length)
  else t

/-- The group table of the plan set and membership in force (13 R290, log 13). -/
def State.rebuildGroups (s : State) : State :=
  { s with rt := { s.rt with groups := Config.groupTable (s.pl.plans.map (·.1)) s.rt.gen } }

/-- A route table entry. -/
def State.routeEntry (s : State) (group dst : Nat) : BitVec 32 := Assoc.get dropEntry (group, dst) s.rt.routes

end Sys2Proof.Machine
end

