-- ==== Sys2Proof/Machine/Cells.lean ====
section
/-!
DEFINITION. Machine/Cells.lean: cell memory, its pools and queues (14), the egress choice (13 R289) and what the module
originates.
-/
namespace Sys2Proof.Machine

open Sys2Proof

/-! ### Pools (14 R313) -/

/-- PORT_GRANT of a class. -/
def State.portGrant (s : State) (tc : Nat) : Nat := s.rdf (.cmClassCfg tc) 0 16

/-- Cell slots in all. -/
def cellSlots : Nat := 524288

/-- Slots of the shared pool. -/
def State.sharedSize (s : State) : Nat :=
  cellSlots - 48 * ((List.range 7).map s.portGrant).sum - s.rdf .cmPoolCfg 0 20

def State.usedBy (s : State) (c : Charge) : Nat := (s.cm.slots.filter fun x => x.charge == c).length

/-- Occupancy of cell memory. -/
def State.cellsUsed (s : State) : Nat := s.cm.slots.length

/-- The pool an engine output is charged to: shared, else escape, none where neither has room (14 R313). -/
def State.outputPool (s : State) : Option Charge :=
  if s.usedBy .shared + s.usedBy .ended < s.sharedSize then some .shared
  else if s.usedBy .escape < s.rdf .cmPoolCfg 0 20 then some .escape
  else none

/-! ### Slots, banks and lanes (14 R305 to R308) -/

/-- Column and row of a cell pointer. -/
def ptrColumn (ptr : Nat) : Nat := ptr % 32
def ptrRow (ptr : Nat) : Nat := ptr / 32

/-- The bank of slice j of a cell in column q, and the group of a bank. -/
def sliceBank (q j : Nat) : Nat := q + 32 * j
def bankGroup (b : Nat) : Nat := b / 4

/-- Slice j of a stored cell: bytes 32j to 32j + 31. -/
def CellSlot.slice (x : CellSlot) (j : Nat) : List Byte := Machine.slice x.cell.bytes (32 * j) 32

/-- The word that a bank holds at a row, none where no cell is stored there. -/
def State.bankWord (s : State) (bank row : Nat) : Option (List Byte) :=
  (s.cm.slots.find? fun x => ptrColumn x.ptr == bank % 32 && ptrRow x.ptr == row).map fun x => x.slice (bank / 32)

/-- The bank group that a client holds in a cycle (14 R306). -/
def heldGroup (k c : Nat) : Nat := (k + c) % 64

/-- The slice of its cell that lane q of a client reaches in a cycle (14 R307). -/
def laneSlice (k q c : Nat) : Option Nat :=
  if heldGroup k c % 8 = bankGroup (sliceBank q 0) then some (heldGroup k c / 8) else none

/-- The cycle of a lane's next slot after a cycle: the first in which it reaches a slice. -/
def laneSlot (k q after : Nat) : Nat := after + 1 + (bankGroup (sliceBank q 0) + 8 - heldGroup k (after + 1) % 8) % 8

/-- Cycles from the first slice of a transfer to its last. -/
def transferCycles : Nat := 56

/-- A lane moves a cell of its column as soon as it is free: the cycles of the first slice and of the last (14 R307). -/
def State.laneRun (s : State) (client q : Nat) : Nat × Nat :=
  let t := laneSlot client q (max s.clk.cycle (Assoc.get 0 (client, q) s.cm.lanes))
  (t, t + transferCycles)

/-- A read of a cell is given to the lane of its column: the cycle in which its last slice is read. -/
def State.bookRead (s : State) (client ptr : Nat) : Nat × State :=
  let e := (s.laneRun client (ptrColumn ptr)).2
  (e, { s with cm := { s.cm with lanes := Assoc.set (client, ptrColumn ptr) e s.cm.lanes } })

/-- The lane a client writes by: among the columns with a free row, the one whose next slot comes first, ties to the lower
(14 R308). The row is the lowest free one. Answers column, row and the cycle of the first slice. -/
def State.pickSlot (s : State) (client : Nat) : Option (Nat × Nat × Nat) :=
  let free := (List.range 32).filter fun q =>
    decide ((s.cm.slots.filter fun x => ptrColumn x.ptr == q).length < 16384)
  let cand := free.map fun q => (q, (s.laneRun client q).1)
  let best := cand.foldl (fun (b : Option (Nat × Nat)) c =>
    match b with
    | none => some c
    | some d => if c.2 < d.2 then some c else some d) none
  match best with
  | none => none
  | some (q, t) =>
    let rows := (s.cm.slots.filter fun x => ptrColumn x.ptr == q).map fun x => ptrRow x.ptr
    match (List.range (rows.length + 1)).find? fun r => !(rows.contains r) with
    | some r => some (q, r, t)
    | none => none

/-- Client that writes for a logical port. -/
def ingressClient (port : Nat) : Nat := port / 2

/-- Client that reads for a logical port. -/
def egressClient (port : Nat) : Nat := 24 + port / 2

/-- Client of an engine port, for reads and writes. -/
def engineClient (ep : Nat) : Nat := 48 + ep

/-- Engine port of a cell delivered locally (14 R312): CTRL, READ and RESP cells go to EP15. -/
def enginePortOf (c : Cell) : Nat :=
  if c.kind = kCtrl ∨ c.kind = kRead ∨ c.kind = kResp then 15 else Config.enginePort (planOf c.hdl) % 16

/-! ### Queues (14 R311, 15 R326) -/

def State.queue (s : State) (k : QKey) : List Nat := Assoc.get [] k s.cm.queues

def State.setQueue (s : State) (k : QKey) (l : List Nat) : State :=
  { s with cm := { s.cm with queues := if l.isEmpty then Assoc.del k s.cm.queues else Assoc.set k l s.cm.queues } }

/-- Place of a weighted class among UP, EXCH, BULK, MIRROR. -/
def weightedIx (tc : Nat) : Option Nat :=
  if tc = 1 then some 0 else if tc = 3 then some 1 else if tc = 4 then some 2 else if tc = 5 then some 3 else none

/-- A weighted queue wakes: S := V (15 R326). -/
def Sched.wake (x : Sched) (tc : Nat) : Sched :=
  match weightedIx tc with
  | some i => { x with stags := natSet x.stags i x.vtime }
  | none => x

/-! ### Read windows (14 R308) -/

/-- Read windows by client. -/
def State.readWindow (s : State) (client : Nat) : List (Nat × Nat × Cell × Nat) := Assoc.get [] client s.cm.windows

def State.setWindow (s : State) (client : Nat) (l : List (Nat × Nat × Cell × Nat)) : State :=
  { s with cm := { s.cm with windows := if l.isEmpty then Assoc.del client s.cm.windows else Assoc.set client l s.cm.windows } }

/-- Entries of a read window. -/
def windowRoom : Nat := 32

def State.cellSlot (s : State) (ptr : Nat) : Option CellSlot := s.cm.slots.find? fun x => x.ptr == ptr

def State.modCellSlot (s : State) (ptr : Nat) (f : CellSlot → CellSlot) : State :=
  { s with cm := { s.cm with slots := s.cm.slots.map fun x => if x.ptr = ptr then f x else x } }

/-- The copy of a cell that a queue entry stands for: a relayed cell has a DST and a SEQ of its own for each (07 R173). -/
def CellSlot.copy (x : CellSlot) (k : QKey) : Cell :=
  match x.heads.find? fun e => e.1 == k with
  | some (_, d, n) => { x.cell with dst := d, seq := n }
  | none => x.cell

/-- A queue entry of a relayed cell has been taken. -/
def State.tookCopy (s : State) (ptr : Nat) (k : QKey) : State :=
  s.modCellSlot ptr fun x => { x with heads := x.heads.eraseP fun e => e.1 == k }

/-- A client selects a cell for a port or class: it joins the read window, and the lane of its column reads it. -/
def State.select (s : State) (client tag ptr : Nat) (c : Cell) : State :=
  let (e, t) := s.bookRead client ptr
  t.setWindow client (t.readWindow client ++ [(tag, ptr, c, e)])

/-- An engine client takes the heads of its local queues into its window, lower classes first (log 101). -/
def State.fillWindow (s : State) (ep : Nat) : State :=
  let k := engineClient ep
  (List.range 7).foldl (fun t tc =>
    ((t.queue (.toEngine ep tc)).drop ((t.readWindow k).filter fun e => e.1 == tc).length).foldl (fun t ptr =>
      match t.cellSlot ptr with
      | some x => if (t.readWindow k).length < windowRoom then
          (t.select k tc ptr (x.copy (.toEngine ep tc))).tookCopy ptr (.toEngine ep tc) else t
      | none => t) t) s

/-- A pointer joins the tail of a queue; an empty weighted queue wakes. -/
def State.enqueue (s : State) (k : QKey) (ptr : Nat) : State :=
  let q := s.queue k
  let t := s.setQueue k (q ++ [ptr])
  match k with
  | .egress p tc => if q.isEmpty then t.modSched p (·.wake tc) else t
  | .toEngine ep _ => t.fillWindow ep

/-! ### Credit (12 R272, 13 R293) -/

/-- Cells of a class that the peer's grant still allows. -/
def Port.room (p : Port) (tc : Nat) : Nat :=
  natAt p.limit tc - (natAt p.sent tc + 2 ^ 32 - natAt p.cred tc) % 2 ^ 32

/-- A cell enters a ring (13 R292): it leaves on a TORUS port and did not arrive on one of the same dimension and sign. -/
def State.entersRing (s : State) (arrived : Option Nat) (out : Nat) : Bool :=
  match (s.port out).role with
  | .torus d m =>
    match arrived with
    | some a => (s.port a).role != .torus d m
    | none => true
  | _ => false

/-- The grant allows a cell on a port (12 R272, 13 R293). -/
def State.grantOk (s : State) (arrived : Option Nat) (out tc : Nat) : Bool :=
  decide ((if s.entersRing arrived out then 2 else 1) ≤ (s.port out).room tc)

/-! ### Freeing (14 R309, R314) -/

/-- One credit goes back to the peer that sent a cell: CRED gains 1 (14 R314). -/
def State.returnCredit (s : State) (port tc : Nat) : State :=
  s.modPort port fun p => { p with freed := natSet p.freed tc ((natAt p.freed tc + 1) % 2 ^ 32) }

/-- Frees a slot that nothing names (14 R309). -/
def State.freeIfDone (s : State) (ptr : Nat) : State :=
  { s with cm := { s.cm with slots := s.cm.slots.filter fun x => x.ptr != ptr || x.refs != 0 || x.retained } }

/-- A queue entry of a cell is dequeued or discarded: the count falls, and the ingress charge ends with the last entry
made at arrival (14 R309, R314). -/
def State.dropRef (s : State) (ptr : Nat) : State :=
  match s.cellSlot ptr with
  | none => s
  | some x =>
    let left := x.entered - 1
    let t := s.modCellSlot ptr fun y => { y with refs := y.refs - 1, entered := left,
                                                  charge := if left = 0 then (match y.charge with
                                                    | .grant _ _ => .ended
                                                    | c => c) else y.charge }
    let t := match x.charge with
      | .grant p tc => if left = 0 then t.returnCredit p tc else t
      | _ => t
    t.freeIfDone ptr

/-- The retention reference of a cell slot is released (14 R309). -/
def State.dropRetention (s : State) (ptr : Nat) : State :=
  (s.modCellSlot ptr fun y => { y with retained := false }).freeIfDone ptr

/-! ### Spilling retained cells (14 R316) -/

/-- A field of a cell memory register as it is in force: a valid change applies from the next cell admitted (14 R318). -/
def State.cmf (s : State) (r : Reg) (lo n : Nat) : Nat := fld ((Assoc.find r s.cm.inForce).getD (s.rd r)) lo n

def CellSlot.retainedOnly (x : CellSlot) : Bool := x.retained && x.refs == 0

/-- Moves one retained-only cell to SPILL. -/
def State.spillOne (s : State) (ptr : Nat) : State :=
  let t := { s with
    cm := { s.cm with slots := s.cm.slots.filter fun x => x.ptr != ptr }
    rt := { s.rt with tx := s.rt.tx.map fun ((k, v) : (FA × BitVec 20) × TxStream) =>
      (k, { v with retained := v.retained.map fun (r : Retained) => if r.ptr = some ptr then { r with ptr := none } else r }) } }
  t.bump .cmRetainSpill

/-- The retained-only cell that spills next: one in the escape pool, else the oldest while occupancy is at SPILL_MARK. -/
def State.spillNext (s : State) : Option Nat :=
  let ro := s.cm.slots.filter CellSlot.retainedOnly
  match ro.find? fun x => x.charge == .escape with
  | some x => some x.ptr
  | none =>
    if s.cmf .cmPoolCfg 40 20 ≤ s.cellsUsed then
      (ro.foldl (fun (b : Option CellSlot) x =>
        match b with
        | none => some x
        | some y => if x.tIn < y.tIn then some x else some y) none).map (·.ptr)
    else none

/-- Spills until nothing has to, n times at most. -/
def State.spillAll : Nat → State → State
  | 0, s => s
  | n + 1, s =>
    match s.spillNext with
    | some p => State.spillAll n (s.spillOne p)
    | none => s

def State.spill (s : State) : State := State.spillAll s.cm.slots.length s

/-! ### Routing one cell (13 R289, R290; 01 R23) -/

/-- Where a cell goes. -/
inductive Way where
  | queues (l : List QKey)
  | wait (cands : List Nat)
  | noRoute
  | dropped
  deriving DecidableEq, Repr

/-- The port of a local endpoint here is in service. -/
def State.epPortUp (s : State) (m : Member) : Bool := (s.port m.port).state == .up && !(s.port m.port).silent

/-- A cell that crosses the twin link because a port or twin is out of service (04 R87): an endpoint's cell for its lost leaf, or
a cell for an endpoint of this node whose port here is out of service. -/
def State.detours (s : State) (arrived : Option Nat) (c : Cell) : Bool :=
  decide (c.kind ≤ 3) &&
  (match s.member c.dst with
   | none => false
   | some d =>
     if d.isMod then
       c.dst == s.twin.fa && (arrived.any fun p => (s.port p).role == .endpoint) &&
       (match s.member c.src with
        | some e => !e.isMod && (s.twin.ports.getLsbD e.port || s.twin.silent)
        | none => false)
     else s.ownNode d && !s.epPortUp d)

/-- The way of a cell that arrived on a port, or was originated, in a port group (13 R289, R290). -/
def State.wayOf (s : State) (group : Nat) (arrived : Option Nat) (c : Cell) : Way :=
  let d := c.dst.toNat
  if c.dst = s.selfFa ∨ d = 0xFFFF then .queues [.toEngine (enginePortOf c) c.tc]
  else if 0xF000 ≤ d then
    let g := Assoc.get 0 d s.rt.groups
    if g.getLsbD 49 then
      let ports := allPorts.filter fun p => g.getLsbD p && some p != arrived
      .queues ((ports.map fun p => QKey.egress p c.tc) ++ (if g.getLsbD 48 then [.toEngine (enginePortOf c) c.tc] else []))
    else .dropped
  else
    let e := s.routeEntry group d
    if e.getLsbD 27 then .dropped
    else if e.getLsbD 26 then .queues [.toEngine (enginePortOf c) c.tc]
    else
      let n := (bits e.toNat 24 2) + 1
      let cands := ((List.range n).map fun i => bits e.toNat (6 * i) 6).filter fun p => (s.port p).state == .up
      match cands with
      | [] => .noRoute
      | p :: _ =>
        if e.getLsbD 28 && s.rdf .rtCtl 44 1 == 1 && c.ar then
          match cands.find? fun q => s.grantOk arrived q c.tc with
          | some q => .queues [.egress q c.tc]
          | none => .wait cands
        else .queues [.egress p c.tc]

/-- The port group of a cell (13 R287). -/
def State.groupOf (s : State) (arrived : Option Nat) : Nat :=
  match arrived with
  | some p => s.rdf (.rtPortGroup p) 0 3
  | none => s.rdf .rtCtl 59 3

/-- CAND0 of the entry that routed a cell. -/
def State.cand0 (s : State) (group : Nat) (c : Cell) : Nat := bits (s.routeEntry group c.dst.toNat).toNat 0 6

/-- Counts ND_ADAPT and PLN_DETOUR for a unicast cell that leaves on a port (13 R289, 04 R87). -/
def State.countEgress (s : State) (arrived : Option Nat) (c : Cell) (p : Nat) : State :=
  let t := if s.cand0 (s.groupOf arrived) c ≠ p then s.bump .ndAdapt else s
  if (s.port p).role = .twin ∧ s.detours arrived c then t.bump .plnDetour else t

/-- Stores a cell and makes its queue entries (14 R308, R309, R310). -/
def State.store (s : State) (c : Cell) (charge : Charge) (port : Option Nat) (retain : Bool) (client : Nat)
    (keys : List QKey) (cands : List Nat) : Option Nat × State :=
  match s.pickSlot client with
  | none => (none, s)
  | some (q, r, t) =>
    let ptr := r * 32 + q
    let waits := if cands.isEmpty then 0 else 1
    let slot : CellSlot := { ptr := ptr, cell := c, refs := keys.length + waits, tIn := t, charge := charge,
                             entered := keys.length + waits, retained := retain, port := port, heads := [] }
    let s := { s with cm := { s.cm with
      slots := s.cm.slots ++ [slot]
      inForce := []
      lanes := Assoc.set (client, q) (t + transferCycles) s.cm.lanes
      waiting := if cands.isEmpty then s.cm.waiting else s.cm.waiting ++ [(ptr, cands)] } }
    (some ptr, keys.foldl (fun s k => s.enqueue k ptr) s)

/-- The counters of a routing outcome: a discard, or a unicast egress choice. -/
def State.countWay (s : State) (arrived : Option Nat) (c : Cell) : Way → State
  | .dropped => s.bump .rtDrop
  | .noRoute => s.bump .rtNoRoute
  | .wait _ => s
  | .queues [.egress p _] => if c.dst.toNat < 0xF000 then s.countEgress arrived c p else s
  | .queues _ => s

/-- Queue keys and waiting candidates of a way. -/
def Way.keys : Way → List QKey × List Nat
  | .queues l => (l, [])
  | .wait l => ([], l)
  | _ => ([], [])

/-! ### What the module originates (14 R312, R313) -/

/-- Client that writes an engine output. -/
def outputClient (c : Cell) : Nat := engineClient (enginePortOf c)

/-- An output waits for room (14 R308, R313). -/
def State.block (s : State) (c : Cell) (retain : Bool) : State :=
  { s with cm := { s.cm with blocked := s.cm.blocked ++ [(c, retain)] } }

/-- An output enters a pool: its cell slot, none where no column has a free row. -/
def State.storeOutput (s : State) (c : Cell) (pool : Charge) (retain : Bool) (keys : List QKey) (cands : List Nat) :
    Option Nat × State :=
  let t := if pool = .escape then s.bump .cmEscapeEntry else s
  let r := t.store c pool none retain (outputClient c) keys cands
  if r.1.isSome then r else (none, s.block c retain)

/-- What an unplaced module may send (01 R25): MGMT cells to 0xFFFF. -/
def State.mayOriginate (s : State) (c : Cell) : Bool := !s.unplaced || (c.tc == tcMgmt && c.dst == 0xFFFF#16)

/-- Writes an engine output into cell memory, or leaves it waiting for room; answers the slot that retains it. -/
def State.output (s : State) (c : Cell) (retain : Bool) : Option Nat × State :=
  if !s.mayOriginate c then (none, s.bump .rtUnassignedDrop)
  else
    let way := s.wayOf (s.groupOf none) none c
    let kc := way.keys
    if kc.1.isEmpty && kc.2.isEmpty && !retain then (none, s.countWay none c way)
    else
      match s.outputPool with
      | none => (none, s.block c retain)
      | some pool => (s.countWay none c way).storeOutput c pool retain kc.1 kc.2

/-- Lease epoch that this module stamps on its cells (13 R303). -/
def State.ownEpoch (s : State) : BitVec 4 := BitVec.ofNat 4 (s.party s.selfFa).epoch

/-- A cell of this module with AGE and CLR 0 and the current epoch. -/
def State.mkCell (s : State) (dst : FA) (kind tc : Nat) (hdl : BitVec 20) (seq : Nat) (fl ar : Bool) (p : List Byte) : Cell :=
  { dst := dst, src := s.selfFa, tc := tc, kind := kind, fl := fl, ar := ar, clr := 0, len := p.length, age := 0, hdl := hdl,
    seq := seq, epo := s.ownEpoch, payload := p }

/-- Sends a CTRL or READ cell outside every stream (12 R277). -/
def State.sendCtrl (s : State) (dst : FA) (kind tc : Nat) (hdl : BitVec 20) (p : List Byte) : State :=
  (s.output (s.mkCell dst kind tc hdl 0 false false p) false).2.spill

/-- Sends a cell straight onto one logical port: heartbeats (12 R279, 17 R351). -/
def State.sendOnPort (s : State) (port : Nat) (dst : FA) (p : List Byte) : State :=
  let c := s.mkCell dst kCtrl tcLink 0 0 false false p
  match s.outputPool with
  | none => s.block c false
  | some pool => (s.storeOutput c pool false [.egress port tcLink] []).2.spill

/-! ### What the module relays (07 R173, R174) -/

/-- Relays one cell to several receivers, each with its DST and SEQ: one copy in cell memory, named once by each egress queue.
A copy that no queue takes at once goes by itself (log 102). -/
def State.relayCell (s : State) (c : Cell) (dests : List (FA × Nat)) : State :=
  let copies := dests.map fun (d, n) => { c with dst := d, seq := n }
  let ways := copies.map fun x => (x, s.wayOf (s.groupOf none) none x)
  let one := fun (w : Cell × Way) => w.2.keys.1.length == 1
  let heads := (ways.filter one).flatMap fun (x, w) => w.keys.1.map fun q => (q, x.dst, x.seq)
  let rest := (ways.filter fun w => !one w).map (·.1)
  let s := rest.foldl (fun t x => (t.output x false).2) s
  match heads, s.outputPool with
  | [], _ => s.spill
  | _ :: _, none => copies.foldl (fun t x => if rest.contains x then t else t.block x false) s
  | _ :: _, some pool =>
    let t := (ways.filter one).foldl (fun t w => t.countWay none w.1 w.2) s
    let r := t.storeOutput c pool false [] []
    match r.1 with
    | some p =>
      let u := r.2.modCellSlot p fun x => { x with heads := heads, refs := heads.length, entered := heads.length }
      (heads.foldl (fun t h => t.enqueue h.1 p) u).spill
    | none => r.2

/-- Relays a message of another source: its cells keep SRC, and each receiver has SEQs of its own (log 102). -/
def State.relayMessage (s : State) (hdl : BitVec 20) (src : FA) (kind tc : Nat) (head data : List Byte) (dests : List FA) : State :=
  let v := s.slot hdl
  let parts := head :: pieces 240 data
  let at' := fun d => Assoc.get 0 (src, d) v.relayed
  let s := s.setSlot hdl { v with
    relayed := dests.foldl (fun l d => Assoc.set (src, d) ((at' d + parts.length) % 2 ^ 24) l) v.relayed }
  (parts.zipIdx).foldl (fun t (p, i) =>
    let c := { t.mkCell 0 kind tc hdl 0 (decide (i + 1 = parts.length)) Config.originAdaptive p with
      src := src, epo := BitVec.ofNat 4 (t.party src).epoch }
    t.relayCell c (dests.map fun d => (d, (at' d + i) % 2 ^ 24))) s

/-! ### Transmit streams (13 R298, 04 R83) -/

abbrev StreamKey := FA × BitVec 20

def State.tx (s : State) (k : StreamKey) : Option TxStream := Assoc.find k s.rt.tx

def State.setTx (s : State) (k : StreamKey) (v : TxStream) : State := { s with rt := { s.rt with tx := Assoc.set k v s.rt.tx } }

/-- RETAIN_WINDOW; 0 acts as 1. -/
def State.retainWindow (s : State) : Nat := max 1 (s.rdf .rtCtl 45 14)

/-- Counted unacknowledged cells of a stream (13 R298). -/
def TxStream.counted (t : TxStream) : Nat := (t.retained.filter fun r => !r.credited).length

/-- Sends one cell of a stream and retains it. -/
def State.transmit (s : State) (k : StreamKey) (c : Cell) (credited : Bool) : State :=
  let c := { c with epo := s.ownEpoch }
  let (ptr, t) := s.output c true
  match t.tx k with
  | none => t
  | some v => (t.setTx k { v with retained := v.retained ++ [⟨c, credited, [], ptr⟩] }).spill

/-- Sends what the retention window lets through, in order: a counted cell that has to wait holds the counted cells behind
it, credited cells pass (13 R298). -/
def State.pumpAux (k : StreamKey) : Nat → State → State
  | 0, s => s
  | n + 1, s =>
    match s.tx k with
    | none => s
    | some v =>
      let full := decide (s.retainWindow ≤ v.counted)
      match v.unsent.find? fun e => e.2 || !full with
      | none => s
      | some e =>
        let t := s.setTx k { v with unsent := v.unsent.erase e }
        State.pumpAux k n (t.transmit k e.1 e.2)

def State.pump (s : State) (k : StreamKey) : State :=
  match s.tx k with
  | none => s
  | some v => State.pumpAux k v.unsent.length s

/-- Appends the cells of a message to a stream: a head and data cells of 240 bytes, FL in the last (04 R81, R83). -/
def State.sendMessage (s : State) (dst : FA) (hdl : BitVec 20) (kind tc step : Nat) (credited : Bool)
    (head data : List Byte) : State :=
  let k : StreamKey := (dst, hdl)
  let v := match s.tx k with
    | some v => if v.step = step then v else TxStream.new step
    | none => TxStream.new step
  let parts := head :: pieces 240 data
  let cells := (parts.zipIdx).map fun (p, i) =>
    (s.mkCell dst kind tc hdl ((v.nextSeq + i) % 2 ^ 24) (decide (i + 1 = parts.length)) Config.originAdaptive p, credited)
  (s.setTx k { v with nextSeq := (v.nextSeq + parts.length) % 2 ^ 24, unsent := v.unsent ++ cells }).pump k

/-- Every receiver of a stream has acknowledged a cell: the one receiver, or all modules of the group (13 R300). -/
def State.allAcked (s : State) (dst : FA) (acked : List FA) : Bool :=
  if dst.toNat < 0xF000 then !acked.isEmpty
  else (Config.groupMembers dst.toNat s.rt.gen).all fun n => s.isFenced (BitVec.ofNat 16 n) || acked.any fun a => a.toNat == n

/-- Releases retained cells that a test names (13 R298, R301). -/
def State.release (s : State) (k : StreamKey) (p : Retained → Bool) : State :=
  match s.tx k with
  | none => s
  | some v =>
    let gone := v.retained.filter p
    let t := s.setTx k { v with retained := v.retained.filter fun r => !p r }
    gone.foldl (fun t r => match r.ptr with
      | some q => t.dropRetention q
      | none => t) t

/-- Outputs of a stream that wait for room enter cell memory without retention (13 R301). -/
def State.unretain (s : State) (k : StreamKey) : State :=
  { s with cm := { s.cm with blocked := s.cm.blocked.map fun e =>
    if e.1.dst = k.1 ∧ e.1.hdl = k.2 ∧ e.1.kind ≠ kCtrl then (e.1, false) else e } }

/-- Releases the whole retention of a stream (13 R301). -/
def State.releaseTx (s : State) (k : StreamKey) : State := (s.release k fun _ => true).unretain k

/-- The transfer tag of a stream may be used again: every cell of the earlier transfer has been acknowledged (12 R283). -/
def State.tagFree (s : State) (k : StreamKey) : Bool :=
  match s.tx k with
  | some v => v.unsent.isEmpty && v.retained.isEmpty
  | none => true

/-- A transfer starts its stream anew. -/
def State.freshTx (s : State) (k : StreamKey) : State := { s with rt := { s.rt with tx := Assoc.del k s.rt.tx } }

/-- Drops a transmit stream with its retention. -/
def State.dropTx (s : State) (k : StreamKey) : State :=
  let t := s.releaseTx k
  { t with rt := { t.rt with tx := Assoc.del k t.rt.tx } }

/-- The END of an instance has come or gone: its streams hold no retention, and what waited for the window goes out (13 R301). -/
def State.releaseStreams (s : State) (hdl : BitVec 20) : State :=
  ((s.rt.tx.filter fun e => e.1.2 == hdl).map (·.1)).foldl (fun t k => (t.releaseTx k).pump k) s

/-- Drops the streams of an instance, of both directions: its slot closed (13 R301). -/
def State.dropStreams (s : State) (hdl : BitVec 20) : State :=
  let t := ((s.rt.tx.filter fun e => e.1.2 == hdl).map (·.1)).foldl State.dropTx s
  { t with rt := { t.rt with rx := t.rt.rx.filter fun e => e.1.2 != hdl } }

/-- What still waits to be sent leaves, and the streams of both directions go with their retention: the instance's END
has been sent and its slot closes (13 R301). Write messages stop where `writes` is false (08 R204). -/
def State.closeStreams (s : State) (hdl : BitVec 20) (writes : Bool) : State :=
  let keys := (s.rt.tx.filter fun e => e.1.2 == hdl).map (·.1)
  let t := keys.foldl (fun t k => match t.tx k with
    | some v => (v.unsent.filter fun e => writes || e.1.kind != kData).foldl (fun t e => (t.output { e.1 with epo := t.ownEpoch } false).2) t
    | none => t) s
  t.dropStreams hdl

/-! ### Room for waiting outputs -/

/-- Lets waiting engine outputs in while a pool has room (14 R313). -/
def State.admitAux : Nat → State → State
  | 0, s => s
  | n + 1, s =>
    match s.cm.blocked, s.outputPool with
    | (c, r) :: rest, some _ =>
      let t := { s with cm := { s.cm with blocked := rest } }
      let (ptr, t) := t.output c r
      let k : StreamKey := (c.dst, c.hdl)
      let t := match r, t.tx k with
        | true, some v => t.setTx k { v with retained := v.retained.map fun x =>
            if x.cell.seq = c.seq ∧ x.ptr = none then { x with ptr := ptr } else x }
        | _, _ => t
      State.admitAux n t
    | _, _ => s

def State.admitBlocked (s : State) : State := (State.admitAux s.cm.blocked.length s).spill

end Sys2Proof.Machine
end

