-- ==== Sys2Proof/Machine/Num.lean ====
section
/-!
DEFINITION. Machine/Num.lean: number formats (02), FP32 arithmetic and the elementary functions (09), the Facet generator.
-/
namespace Sys2Proof.Machine

open Sys2Proof

/-- An FP32 code. -/
abbrev F32 := BitVec 32

/-- A value that an element can hold: NaN, an infinity, or ±m × 2^e exactly (02 R31). -/
inductive Val where
  | nan
  | inf (neg : Bool)
  | fin (neg : Bool) (m : Nat) (e : Int)
  deriving DecidableEq, Repr

/-! ### Format codes (02 R29) -/

/-- Width in bits of a format code; 0 for the reserved codes and NONE. -/
def fmtBits : Nat → Nat
  | 0x00 => 32 | 0x01 => 16 | 0x02 => 16 | 0x03 => 8 | 0x04 => 8 | 0x05 => 6 | 0x06 => 6 | 0x07 => 4
  | 0x08 => 8 | 0x09 => 32 | 0x0A => 8 | 0x0B => 4 | 0x0C => 2 | 0x0D => 1 | 0x0E => 64 | 0x0F => 32
  | _ => 0

/-- The code names a format. -/
def fmtValid (f : Nat) : Bool := decide (f ≤ 0x0F)

/-- NONE (02 R29). -/
def fmtNone : Nat := 0x1F

/-- Element formats with E8M0 block scales: E2M3, E3M2, E2M1, T2, S1. -/
def fmtBlock (f : Nat) : Bool := f == 5 || f == 6 || f == 7 || f == 12 || f == 13

/-- INT32, INT8, INT4. -/
def fmtInt (f : Nat) : Bool := f == 9 || f == 10 || f == 11

/-- AIF64, AIF32. -/
def fmtInternal (f : Nat) : Bool := f == 14 || f == 15

/-- A floating-point layout (02 R31): exponent and mantissa bits, bias, long class, the largest finite magnitude
code, the infinity and the canonical NaN where the format has them. -/
structure Flt where
  eb    : Nat
  mb    : Nat
  bias  : Int
  long  : Bool
  maxC  : Nat
  inf   : Option Nat
  nan   : Option Nat
  deriving DecidableEq, Repr

/-- The table Floating-point layouts (02 R31). -/
def fltOf : Nat → Option Flt
  | 0x00 => some ⟨8, 23, 127, true, 0x7F7FFFFF, some 0x7F800000, some 0x7FC00000⟩
  | 0x01 => some ⟨8, 7, 127, true, 0x7F7F, some 0x7F80, some 0x7FC0⟩
  | 0x02 => some ⟨5, 10, 15, true, 0x7BFF, some 0x7C00, some 0x7E00⟩
  | 0x03 => some ⟨4, 3, 7, false, 0x7E, none, some 0x7F⟩
  | 0x04 => some ⟨5, 2, 15, false, 0x7B, some 0x7C, some 0x7E⟩
  | 0x05 => some ⟨2, 3, 1, false, 0x1F, none, none⟩
  | 0x06 => some ⟨3, 2, 3, false, 0x1F, none, none⟩
  | 0x07 => some ⟨2, 1, 1, false, 0x7, none, none⟩
  | _ => none

/-! ### Reading elements -/

/-- Reads a code of a floating-point layout (02 R31 to R34). -/
def Flt.dec (f : Flt) (c : Nat) : Val :=
  let neg := c / 2 ^ (f.eb + f.mb) % 2 == 1
  let mag := c % 2 ^ (f.eb + f.mb)
  let ef := mag / 2 ^ f.mb
  let mf := mag % 2 ^ f.mb
  if f.inf = some mag then .inf neg
  else if f.nan.isSome ∧ f.maxC < mag then .nan
  else if ef = 0 then
    if f.long then .fin neg 0 0 else .fin neg mf (1 - f.bias - f.mb)
  else .fin neg (2 ^ f.mb + mf) ((ef : Int) - f.bias - f.mb)

/-- A two's-complement code of w bits as an integer. -/
def sgnOf (w c : Nat) : Int := if c % 2 ^ w < 2 ^ (w - 1) then ((c % 2 ^ w : Nat) : Int) else ((c % 2 ^ w : Nat) : Int) - 2 ^ w

/-- An integer as a value. -/
def Val.ofInt (i : Int) : Val := .fin (decide (i < 0)) i.natAbs 0

/-- Reads an element code of a format (02 R31 to R39), without its block scale. -/
def readElem (f c : Nat) : Val :=
  match fltOf f with
  | some l => l.dec c
  | none =>
    match f with
    | 0x08 => if c % 256 = 0xFF then .nan else .fin false 1 ((c % 256 : Nat) - 127)
    | 0x0C =>
      match c % 4 with
      | 1 => .fin false 1 0
      | 3 => .fin true 1 0
      | _ => .fin false 0 0
    | 0x0D => .fin (c % 2 == 1) 1 0
    | _ => Val.ofInt (sgnOf (fmtBits f) c)

/-- Multiplies a value by its block's scale (02 R35). -/
def Val.scale (v : Val) (c : Nat) : Val :=
  if c = 0xFF then .nan
  else match v with
    | .fin n m e => .fin n m (e + c - 127)
    | w => w

/-! ### Rounding (02 R42 to R44) -/

/-- m × 2^e as a multiple of 2^ulp: RND 0 = RNE, 1 = RTZ, 2 = SR with the 24 bits u. -/
def roundAt (m : Nat) (e ulp : Int) (rnd u : Nat) : Nat :=
  if ulp ≤ e then m * 2 ^ (e - ulp).toNat
  else
    let d := 2 ^ (ulp - e).toNat
    let q := m / d
    let r := m % d
    let up := match rnd with
      | 0 => decide (d < 2 * r) || (decide (d = 2 * r) && decide (q % 2 = 1))
      | 2 => decide (u < r * 2 ^ 24 / d)
      | _ => false
    if up then q + 1 else q

/-- Compares m1 × 2^e1 with m2 × 2^e2: the first is larger. -/
def magLt (m1 : Nat) (e1 : Int) (m2 : Nat) (e2 : Int) : Bool :=
  if e1 ≤ e2 then decide (m1 < m2 * 2 ^ (e2 - e1).toNat) else decide (m1 * 2 ^ (e1 - e2).toNat < m2)

/-- floor(log2 (m × 2^e)) for m ≠ 0. -/
def floorLog (m : Nat) (e : Int) : Int := e + Nat.log2 m

/-- The magnitude code of q × 2^ulp, a value of the format's range; a long-class value below the smallest normal
is flushed (02 R32). -/
def Flt.encMag (f : Flt) (q : Nat) (ulp : Int) : Nat :=
  if q = 0 then 0
  else
    let e := floorLog q ulp
    if e < 1 - f.bias then
      if f.long then 0 else roundAt q ulp (1 - f.bias - f.mb) 1 0
    else
      let mant := roundAt q ulp (e - f.mb) 1 0 - 2 ^ f.mb
      (e + f.bias).toNat * 2 ^ f.mb + mant

/-- The sign bit of the format's codes. -/
def Flt.sign (f : Flt) (neg : Bool) : Nat := if neg then 2 ^ (f.eb + f.mb) else 0

/-- The largest finite magnitude as m × 2^e. -/
def Flt.maxFin (f : Flt) : Nat × Int :=
  match f.dec f.maxC with
  | .fin _ m e => (m, e)
  | _ => (0, 0)

/-- Rounds a finite magnitude onto the format's grid (02 R42): the multiple and its unit. -/
def Flt.round (f : Flt) (m : Nat) (e : Int) (rnd u : Nat) : Nat × Int :=
  if m = 0 then (0, 0)
  else
    let top := floorLog m e
    let ulp := (if f.long then top else max top (1 - f.bias)) - f.mb
    (roundAt m e ulp rnd u, ulp)

/-- What R43 and R46 write for one element, and whether it counts as an overflow. -/
def Flt.write (f : Flt) (sat : Bool) (rnd u : Nat) : Val → Nat × Bool
  | .nan => (f.nan.getD 0, false)
  | .inf neg =>
    if sat then (f.sign neg + f.maxC, true)
    else match f.inf with
      | some i => (f.sign neg + i, false)
      | none => (f.nan.getD 0, true)
  | .fin neg m e =>
    let r := f.round m e rnd u
    if magLt f.maxFin.1 f.maxFin.2 r.1 r.2 then
      if sat then (f.sign neg + f.maxC, true)
      else match f.inf with
        | some i => (f.sign neg + i, true)
        | none => (f.nan.getD 0, true)
    else (f.sign neg + f.encMag r.1 r.2, false)

/-- What R43 and R46 write for an integer target of w bits. -/
def intWrite (w : Nat) (sat : Bool) (rnd u : Nat) : Val → Nat × Bool
  | .nan => (if sat then 0 else 2 ^ (w - 1), true)
  | .inf neg => (if sat ∧ !neg then 2 ^ (w - 1) - 1 else 2 ^ (w - 1), true)
  | .fin neg m e =>
    let q := roundAt m e 0 rnd u
    if neg then
      if q ≤ 2 ^ (w - 1) then ((2 ^ w - q) % 2 ^ w, false) else (2 ^ (w - 1), true)
    else if q < 2 ^ (w - 1) then (q, false)
    else (if sat then 2 ^ (w - 1) - 1 else 2 ^ (w - 1), true)

/-- The convert control half-word holds no reserved value (02 R40). -/
def convctlOk (w : Nat) : Bool := decide (w % 4 < 3) && decide (w / 4 % 4 < 3) && decide (w < 32)

/-- The default SAT of a target (02 R41), 1 for S1, of which the rule says nothing (DESIGN CHOICE, log 85). -/
def satDefault (f : Nat) : Bool := !(f == 0 || f == 1 || f == 2)

/-- SAT from SATSEL (02 R40, 03 R50). -/
def satOf (sel f : Nat) : Bool :=
  match sel with
  | 1 => false
  | 2 => true
  | _ => satDefault f

/-- Writes one element in a format without block scales (02 R42 to R46). -/
def writeElem (f : Nat) (sat : Bool) (rnd u : Nat) (v : Val) : Nat × Bool :=
  match fltOf f with
  | some l => l.write sat rnd u v
  | none => intWrite (fmtBits f) sat rnd u v

/-- Element constants emax and maxfin (as m × 2^e) of the block formats (02 R45). -/
def blockConst : Nat → Int × Nat × Int
  | 5 => (2, 15, -1)
  | 6 => (4, 28, 0)
  | 7 => (2, 6, 0)
  | _ => (0, 1, 0)

/-- The larger of two finite magnitudes. -/
def magMax (a b : Nat × Int) : Nat × Int := if magLt a.1 a.2 b.1 b.2 then b else a

/-- The smallest X with m × 2^e ≤ maxfin × 2^X, for m ≠ 0. -/
def ceilScale (m : Nat) (e : Int) (mf : Nat) (ef : Int) : Int :=
  let x := floorLog m e - floorLog mf ef
  if magLt mf (ef + x) m e then x + 1 else x

/-- The code of one element of a block target, divided by 2^x, and whether it counts. Overflow saturates (log 12); the grid of T2
goes on above 1 as the integers (DESIGN CHOICE, log 86). -/
def blockElem (f : Nat) (rnd u : Nat) (x : Int) (v : Val) : Nat × Bool :=
  match f, v with
  | 13, .fin neg _ _ => (b2n' neg, false)
  | 13, .inf neg => (b2n' neg, true)
  | 12, .fin neg m e =>
    let q := roundAt m (e - x) 0 rnd u
    (if q = 0 then 0 else if neg then 3 else 1, decide (1 < q))
  | 12, .inf neg => (if neg then 3 else 1, true)
  | _, .nan => (0, false)
  | f, .fin neg m e =>
    match fltOf f with
    | some l => l.write true rnd u (.fin neg m (e - x))
    | none => (0, false)
  | f, .inf neg =>
    match fltOf f with
    | some l => l.write true rnd u (.inf neg)
    | none => (0, false)
where b2n' (b : Bool) : Nat := if b then 1 else 0

/-- Converts one block of 32 elements to a block format (02 R45): scale code, element codes, and how many count. -/
def convBlock (f : Nat) (sat : Bool) (ceil : Bool) (rnd : Nat) (us : List Nat) (vs : List Val) : Nat × List Nat × Nat :=
  let infs := (vs.filter fun v => match v with | .inf _ => true | _ => false).length
  if vs.any (· == .nan) || (!sat && decide (0 < infs)) then
    (0xFF, vs.map fun _ => 0, infs)
  else
    let amax := vs.foldl (fun a v => match v with | .fin _ m e => magMax a (m, e) | _ => a) (0, 0)
    let k := blockConst f
    let x : Int :=
      if amax.1 = 0 then -127
      else
        let y := if ceil then ceilScale amax.1 amax.2 k.2.1 k.2.2 else floorLog amax.1 amax.2 - k.1
        max (-127) (min 127 y)
    let rs := (vs.zipIdx).map fun (v, i) => blockElem f rnd (us.getD i 0) x v
    ((x + 127).toNat, rs.map (·.1), (rs.filter (·.2)).length)

/-! ### FP32 arithmetic (02 R32, 09 R217) -/

/-- The layout of FP32. -/
def fmtF32 : Flt := ⟨8, 23, 127, true, 0x7F7FFFFF, some 0x7F800000, some 0x7FC00000⟩

/-- Reads an FP32 code. -/
def F32.val (x : F32) : Val := fmtF32.dec x.toNat

/-- Rounds a value to FP32: RNE, overflow to infinity, flush, canonical NaN. -/
def Val.f32 (v : Val) : F32 := BitVec.ofNat 32 (fmtF32.write false 0 0 v).1

/-- IEEE 754 sum, exact. -/
def Val.add : Val → Val → Val
  | .nan, _ => .nan
  | _, .nan => .nan
  | .inf a, .inf b => if a = b then .inf a else .nan
  | .inf a, _ => .inf a
  | _, .inf b => .inf b
  | .fin na ma ea, .fin nb mb eb =>
    let e := min ea eb
    let a := ma * 2 ^ (ea - e).toNat
    let b := mb * 2 ^ (eb - e).toNat
    if na = nb then .fin na (a + b) e
    else if b < a then .fin na (a - b) e
    else if a < b then .fin nb (b - a) e
    else .fin false 0 0

/-- Changes the sign. -/
def Val.neg : Val → Val
  | .nan => .nan
  | .inf n => .inf (!n)
  | .fin n m e => .fin (!n) m e

/-- IEEE 754 product, exact. -/
def Val.mul : Val → Val → Val
  | .nan, _ => .nan
  | _, .nan => .nan
  | .inf a, .inf b => .inf (a != b)
  | .inf a, .fin b m _ => if m = 0 then .nan else .inf (a != b)
  | .fin a m _, .inf b => if m = 0 then .nan else .inf (a != b)
  | .fin na ma ea, .fin nb mb eb => .fin (na != nb) (ma * mb) (ea + eb)

/-- Scales by a power of two. -/
def Val.shift (v : Val) (k : Int) : Val :=
  match v with
  | .fin n m e => .fin n m (e + k)
  | w => w

/-- FP32 addition. -/
def F32.add (a b : F32) : F32 := (a.val.add b.val).f32

/-- FP32 subtraction. -/
def F32.sub (a b : F32) : F32 := (a.val.add b.val.neg).f32

/-- FP32 multiplication. -/
def F32.mul (a b : F32) : F32 := (a.val.mul b.val).f32

/-- a × b + c rounded once. -/
def F32.fma (a b c : F32) : F32 := ((a.val.mul b.val).add c.val).f32

/-- The negated code; NaN stays canonical. -/
def F32.neg (a : F32) : F32 := a.val.neg.f32

/-- NaN test. -/
def F32.isNan (a : F32) : Bool := a.val == .nan

/-- Infinity or NaN. -/
def F32.special (a : F32) : Bool :=
  match a.val with
  | .fin _ _ _ => false
  | _ => true

def F32.one : F32 := 0x3F800000#32
def F32.qnan : F32 := 0x7FC00000#32
def F32.negInf : F32 := 0xFF800000#32
def F32.posInf : F32 := 0x7F800000#32

/-- Whether a finite or infinite value is below another, with −0 below +0 (03 R66). -/
def Val.below : Val → Val → Bool
  | .nan, _ => false
  | _, .nan => false
  | .inf a, .inf b => a && !b
  | .inf a, _ => a
  | _, .inf b => !b
  | .fin na ma ea, .fin nb mb eb =>
    match na, nb with
    | true, false => true
    | false, true => false
    | false, false => magLt ma ea mb eb
    | true, true => magLt mb eb ma ea

/-- Maximum of IEEE 754-2019 (03 R66). -/
def Val.max (a b : Val) : Val := if a = .nan ∨ b = .nan then .nan else if a.below b then b else a

/-- Minimum of IEEE 754-2019 (03 R66). -/
def Val.min (a b : Val) : Val := if a = .nan ∨ b = .nan then .nan else if b.below a then b else a

def F32.max (a b : F32) : F32 := (a.val.max b.val).f32
def F32.min (a b : F32) : F32 := (a.val.min b.val).f32

/-- The number is 0 of either sign. -/
def F32.isZero (a : F32) : Bool :=
  match a.val with
  | .fin _ m _ => m == 0
  | _ => false

/-! ### Elementary functions (09 R223 to R228) -/

/-- EXP[j], nearest 2^(j/64) (09 R224). -/
def tabExp : List Nat :=
  [0x3F800000, 0x3F8164D2, 0x3F82CD87, 0x3F843A29, 0x3F85AAC3, 0x3F871F62, 0x3F88980F, 0x3F8A14D5,
   0x3F8B95C2, 0x3F8D1ADF, 0x3F8EA43A, 0x3F9031DC, 0x3F91C3D3, 0x3F935A2B, 0x3F94F4F0, 0x3F96942D]
  ++ [0x3F9837F0, 0x3F99E046, 0x3F9B8D3A, 0x3F9D3EDA, 0x3F9EF532, 0x3FA0B051, 0x3FA27043, 0x3FA43516,
   0x3FA5FED7, 0x3FA7CD94, 0x3FA9A15B, 0x3FAB7A3A, 0x3FAD583F, 0x3FAF3B79, 0x3FB123F6, 0x3FB311C4]
  ++ [0x3FB504F3, 0x3FB6FD92, 0x3FB8FBAF, 0x3FBAFF5B, 0x3FBD08A4, 0x3FBF179A, 0x3FC12C4D, 0x3FC346CD,
   0x3FC5672A, 0x3FC78D75, 0x3FC9B9BE, 0x3FCBEC15, 0x3FCE248C, 0x3FD06334, 0x3FD2A81E, 0x3FD4F35B]
  ++ [0x3FD744FD, 0x3FD99D16, 0x3FDBFBB8, 0x3FDE60F5, 0x3FE0CCDF, 0x3FE33F89, 0x3FE5B907, 0x3FE8396A,
   0x3FEAC0C7, 0x3FED4F30, 0x3FEFE4BA, 0x3FF28177, 0x3FF5257D, 0x3FF7D0DF, 0x3FFA83B3, 0x3FFD3E0C]

/-- Q[j], nearest 64/(64 + j) (09 R225). -/
def tabQ : List Nat :=
  [0x3F800000, 0x3F7C0FC1, 0x3F783E10, 0x3F74898D, 0x3F70F0F1, 0x3F6D7304, 0x3F6A0EA1, 0x3F66C2B4,
   0x3F638E39, 0x3F607038, 0x3F5D67C9, 0x3F5A740E, 0x3F579436, 0x3F54C77B, 0x3F520D21, 0x3F4F6475]
  ++ [0x3F4CCCCD, 0x3F4A4588, 0x3F47CE0C, 0x3F4565C8, 0x3F430C31, 0x3F40C0C1, 0x3F3E82FA, 0x3F3C5264,
   0x3F3A2E8C, 0x3F381703, 0x3F360B61, 0x3F340B41, 0x3F321643, 0x3F302C0B, 0x3F2E4C41, 0x3F2C7692]
  ++ [0x3F2AAAAB, 0x3F28E83F, 0x3F272F05, 0x3F257EB5, 0x3F23D70A, 0x3F2237C3, 0x3F20A0A1, 0x3F1F1166,
   0x3F1D89D9, 0x3F1C09C1, 0x3F1A90E8, 0x3F191F1A, 0x3F17B426, 0x3F164FDA, 0x3F14F209, 0x3F139A86]
  ++ [0x3F124925, 0x3F10FDBC, 0x3F0FB824, 0x3F0E7835, 0x3F0D3DCB, 0x3F0C08C1, 0x3F0AD8F3, 0x3F09AE41,
   0x3F088889, 0x3F0767AB, 0x3F064B8A, 0x3F053408, 0x3F042108, 0x3F03126F, 0x3F020821, 0x3F010204]

/-- L[j], nearest log2(1 + j/64) (09 R225). -/
def tabL : List Nat :=
  [0x00000000, 0x3CB73CB4, 0x3D35D69C, 0x3D8759C5, 0x3DB31FB8, 0x3DDE4212, 0x3E0462C4, 0x3E19574F,
   0x3E2E00D2, 0x3E42615F, 0x3E567AF1, 0x3E6A4F72, 0x3E7DE0B6, 0x3E88983F, 0x3E92203D, 0x3E9B8926]
  ++ [0x3EA4D3C2, 0x3EAE00D2, 0x3EB7110E, 0x3EC0052B, 0x3EC8DDD4, 0x3ED19BB0, 0x3EDA3F60, 0x3EE2C97D,
   0x3EEB3A9F, 0x3EF39355, 0x3EFBD42B, 0x3F01FED4, 0x3F060828, 0x3F0A0650, 0x3F0DF989, 0x3F11E20F]
  ++ [0x3F15C01A, 0x3F1993E3, 0x3F1D5DA0, 0x3F211D84, 0x3F24D3C2, 0x3F28808C, 0x3F2C2411, 0x3F2FBE80,
   0x3F335004, 0x3F36D8CB, 0x3F3A58FF, 0x3F3DD0C8, 0x3F41404F, 0x3F44A7BA, 0x3F480731, 0x3F4B5ED7]
  ++ [0x3F4EAED0, 0x3F51F740, 0x3F553848, 0x3F587209, 0x3F5BA4A4, 0x3F5ED039, 0x3F61F4E5, 0x3F6512C7,
   0x3F6829FB, 0x3F6B3A9F, 0x3F6E44CD, 0x3F7148A1, 0x3F744636, 0x3F773DA4, 0x3F7A2F04, 0x3F7D1A71]

/-- RC[j], nearest 128/(129 + 2j) (09 R226). -/
def tabRc : List Nat :=
  [0x3F7E03F8, 0x3F7A232D, 0x3F76603E, 0x3F72B9D6, 0x3F6F2EB7, 0x3F6BBDB3, 0x3F6865AC, 0x3F652598,
   0x3F61FC78, 0x3F5EE95C, 0x3F5BEB62, 0x3F5901B2, 0x3F562B81, 0x3F53680D, 0x3F50B6A0, 0x3F4E168A]
  ++ [0x3F4B8728, 0x3F4907DA, 0x3F46980C, 0x3F443730, 0x3F41E4BC, 0x3F3FA030, 0x3F3D6910, 0x3F3B3EE7,
   0x3F392144, 0x3F370FBB, 0x3F3509E7, 0x3F330F63, 0x3F311FD4, 0x3F2F3ADE, 0x3F2D602B, 0x3F2B8F6A]
  ++ [0x3F29C84A, 0x3F280A81, 0x3F2655C4, 0x3F24A9CF, 0x3F23065E, 0x3F216B31, 0x3F1FD80A, 0x3F1E4CAD,
   0x3F1CC8E1, 0x3F1B4C70, 0x3F19D723, 0x3F1868C8, 0x3F17012E, 0x3F15A025, 0x3F144581, 0x3F12F114]
  ++ [0x3F11A2B4, 0x3F105A38, 0x3F0F177A, 0x3F0DDA52, 0x3F0CA29C, 0x3F0B7034, 0x3F0A42F8, 0x3F091AC7,
   0x3F07F781, 0x3F06D905, 0x3F05BF37, 0x3F04A9FA, 0x3F039930, 0x3F028CC0, 0x3F01848E, 0x3F008081]

/-- RS[j], nearest the inverse square root of c_j (09 R227). -/
def tabRs : List Nat :=
  [0x3F7E05EC, 0x3F7A33F9, 0x3F768CDC, 0x3F730D8A, 0x3F6FB345, 0x3F6C7B90, 0x3F69642A, 0x3F666B02,
   0x3F638E39, 0x3F60CC16, 0x3F5E2305, 0x3F5B9193, 0x3F59166B, 0x3F56B051, 0x3F545E22, 0x3F521ED0]
  ++ [0x3F4FF162, 0x3F4DD4ED, 0x3F4BC89B, 0x3F49CBA2, 0x3F47DD45, 0x3F45FCD6, 0x3F4429AF, 0x3F426337,
   0x3F40A8DE, 0x3F3EFA1C, 0x3F3D5671, 0x3F3BBD67, 0x3F3A2E8C, 0x3F38A975, 0x3F372DBF, 0x3F35BB09]
  ++ [0x3F339F19, 0x3F30EB96, 0x3F2E565C, 0x3F2BDD46, 0x3F297E62, 0x3F2737F0, 0x3F250855, 0x3F22EE1D,
   0x3F20E7F5, 0x3F1EF4A4, 0x3F1D130E, 0x3F1B422C, 0x3F19810C, 0x3F17CED0, 0x3F162AA9, 0x3F1493D9]
  ++ [0x3F1309AF, 0x3F118B87, 0x3F1018C6, 0x3F0EB0E0, 0x3F0D534F, 0x3F0BFF97, 0x3F0AB544, 0x3F0973E8,
   0x3F083B1E, 0x3F070A87, 0x3F05E1C7, 0x3F04C08B, 0x3F03A682, 0x3F029362, 0x3F0186E2, 0x3F0080C1]

/-- A table entry. -/
def tabAt (t : List Nat) (j : Nat) : F32 := BitVec.ofNat 32 (t.getD j 0)

def cC1 : F32 := 0x3F317218#32
def cC2 : F32 := 0x3E75FDF0#32
def cC3 : F32 := 0x3D635847#32
def cD1 : F32 := 0x3FB8AA3B#32
def cD2 : F32 := 0xBF38AA3B#32
def cD3 : F32 := 0x3EF6384F#32

/-- exp2 (09 R223, R224); r is kept exact (log 12). -/
def F32.exp2 (x : F32) : F32 :=
  match x.val with
  | .nan => F32.qnan
  | .inf neg => if neg then 0#32 else F32.posInf
  | .fin neg m e =>
    if m = 0 then F32.one
    else if !neg && !magLt m e 128 0 then F32.posInf
    else if neg && magLt 160 0 m e then 0#32
    else
      let s : Int := if neg then -(m : Int) else m
      let n : Int := if 0 ≤ e + 6 then s * 2 ^ (e + 6).toNat else s / 2 ^ (-(e + 6)).toNat
      let j := n % 64
      let k := (n - j) / 64
      let r := Val.add (.fin neg m e) ((Val.ofInt n).shift (-6)).neg
      let p := ((cC3.val.mul r).add cC2.val).f32
      let p := ((p.val.mul r).add cC1.val).f32
      let p := (p.val.mul r).f32
      let t := tabAt tabExp j.toNat
      let y := F32.fma t p t
      (y.val.shift k).f32

/-- Exponent, mantissa field and the value m in [1, 2) of a finite non-zero operand. -/
def F32.parts (x : F32) : Int × Nat × F32 :=
  let f := x.toNat % 2 ^ 23
  ((x.toNat / 2 ^ 23 % 256 : Nat) - 127, f, BitVec.ofNat 32 (0x3F800000 + f))

/-- log2 (09 R225). -/
def F32.log2 (x : F32) : F32 :=
  match x.val with
  | .nan => F32.qnan
  | .inf neg => if neg then F32.qnan else F32.posInf
  | .fin neg m _ =>
    if m = 0 then F32.negInf
    else if neg then F32.qnan
    else
      let (e, f, mm) := x.parts
      let j := f / 2 ^ 17
      let c : Val := .fin false (64 + j) (-6)
      let u := ((mm.val.add c.neg).mul (tabAt tabQ j).val).f32
      let p := F32.fma cD3 u cD2
      let p := F32.fma p u cD1
      let q := F32.mul u p
      let s := ((Val.ofInt e).add (tabAt tabL j).val).f32
      F32.add s q

/-- rcp (09 R226). -/
def F32.rcp (x : F32) : F32 :=
  match x.val with
  | .nan => F32.qnan
  | .inf neg => if neg then 0x80000000#32 else 0#32
  | .fin neg m _ =>
    if m = 0 then (if neg then F32.negInf else F32.posInf)
    else
      let (e, f, mm) := x.parts
      let y := tabAt tabRc (f / 2 ^ 17)
      let once := fun y : F32 => let t := F32.fma mm.neg y F32.one; F32.fma y t y
      let y := once (once y)
      let r := y.val.shift (-e)
      (if neg then r.neg else r).f32

/-- rsqrt (09 R227). -/
def F32.rsqrt (x : F32) : F32 :=
  match x.val with
  | .nan => F32.qnan
  | .inf neg => if neg then F32.qnan else 0#32
  | .fin neg m _ =>
    if m = 0 then (if neg then F32.negInf else F32.posInf)
    else if neg then F32.qnan
    else
      let (e, f, mm) := x.parts
      let odd := e % 2 = 1
      let ee := if odd then e - 1 else e
      let j := (if odd then 32 else 0) + f / 2 ^ 18
      let w : F32 := if odd then (mm.val.shift 1).f32 else mm
      if w = F32.one then (Val.fin false 1 (-(ee / 2))).f32
      else
        let once := fun y : F32 =>
          let t := F32.mul y y
          let g := F32.fma t.neg w F32.one
          F32.fma (F32.mul 0x3F000000#32 y) g y
        let y := once (once (tabAt tabRs j))
        (y.val.shift (-(ee / 2))).f32

/-- sgn as SIGNM and SGN use it (05 R122): ±1 for a non-zero number, else the operand's zero; NaN stays NaN. -/
def F32.sgn (x : F32) : F32 :=
  match x.val with
  | .nan => F32.qnan
  | .inf neg => if neg then 0xBF800000#32 else F32.one
  | .fin neg m _ => if m = 0 then 0#32 else if neg then 0xBF800000#32 else F32.one

/-! ### Facet (09 R229) -/

/-- Four 32-bit words. -/
abbrev Quad := BitVec 32 × BitVec 32 × BitVec 32 × BitVec 32

/-- A word of a quad by number. -/
def Quad.at (k : Quad) : Nat → BitVec 32
  | 0 => k.1
  | 1 => k.2.1
  | 2 => k.2.2.1
  | _ => k.2.2.2

/-- One round of perm. -/
def facetRound (k : Quad) (x : Quad) (i : Nat) : Quad :=
  let x0 := x.1 + k.at (i % 4) + BitVec.ofNat 32 ((i + 1) * 0x9E3779B9)
  let x1 := (x.2.1 ^^^ x0).rotateLeft 7
  let x2 := x.2.2.1 + x1
  let x3 := (x.2.2.2 ^^^ x2).rotateLeft 13
  (x1, x2, x3, x0 + x3)

/-- perm(k, x). -/
def facetPerm (k x : Quad) : Quad :=
  let y := (List.range 10).foldl (facetRound k) x
  (y.1 + k.1, y.2.1 + k.2.1, y.2.2.1 + k.2.2.1, y.2.2.2 + k.2.2.2)

/-- The Facet output for a seed, step, tensor, domain, element and draw. -/
def facet (seed : Quad) (step t dom n d : Nat) : BitVec 32 :=
  let k := facetPerm seed
    (BitVec.ofNat 32 (t + dom * 2 ^ 16), 0, BitVec.ofNat 32 step, BitVec.ofNat 32 (step / 2 ^ 32))
  (facetPerm k (BitVec.ofNat 32 n, BitVec.ofNat 32 (n / 2 ^ 32 % 256 + d * 256), 0, 0)).1

end Sys2Proof.Machine
end

