-- ==== Sys2Proof/Machine/Instances.lean ====
section
/-!
DEFINITION. Machine/Instances.lean: plan geometry, trees, slots, and how instances open, end and close (04).
-/
namespace Sys2Proof.Machine

open Sys2Proof

/-! ### Kinds and geometry (04 R76, R80) -/

def kAllReduce : Nat := 0
def kReduceScatter : Nat := 1
def kReduce : Nat := 2
def kAllGather : Nat := 3
def kBroadcast : Nat := 4
def kAllToAll : Nat := 5
def kAllToAllV : Nat := 6
def kBarrier : Nat := 7
def kRug : Nat := 8

/-- Fold operations (03 R50). -/
def fopSum : Nat := 0
def fopSum32 : Nat := 1
def fopOrdered : Nat := 2
def fopMax : Nat := 3
def fopMin : Nat := 4
def fopAnd : Nat := 5
def fopOr : Nat := 6
def fopXor : Nat := 7
def fopLse : Nat := 8
def fopIsum : Nat := 9

def Coll.fop (c : Coll) : Nat := c.foldctl.toNat % 16
def Coll.satsel (c : Coll) : Nat := c.foldctl.toNat / 16 % 4
def Coll.lseFinal (c : Coll) : Bool := c.foldctl.toNat / 64 % 2 == 1

/-- A kind with a fold operation. -/
def Coll.folds (c : Coll) : Bool := c.kind == 0 || c.kind == 1 || c.kind == 2 || c.kind == 8

/-- The fold has phase A (04 R88). -/
def Coll.phaseA (c : Coll) : Bool := c.folds && (c.fop == 0 || c.fop == 1 || c.fop == 8)

/-- Element width in bits (04 R80): 8 for a kind without a fold. -/
def Coll.w (c : Coll) : Nat := if c.cfmt = fmtNone then 8 else fmtBits c.cfmt

/-- Staging credits of an input (04 R102). -/
def Coll.credits (c : Coll) : Nat := if c.depth = 0 then 4 else c.depth

/-- Rows of an LSE chunk for an output width d (07 R178). -/
def lseRows (d : Nat) : Nat := 32 * (61440 / (128 * (d + 2)))

/-- Elements of a full chunk; for LSE the rows at width d. -/
def Coll.perChunk (c : Coll) (d : Nat) : Nat :=
  if c.folds ∧ c.fop = fopLse then lseRows d else 491520 / c.w

/-- A fold of FOP LSE (03 R69). -/
def Coll.isLse (c : Coll) : Bool := c.folds && c.fop == fopLse

/-- The width d of a plan's LSE fold (log 19); 0 for other plans. -/
def Plan.lseD (p : Plan) : Nat :=
  match p.coll with
  | some k => if k.isLse then Config.lseWidth p.sig else 0
  | none => 0

/-- Bytes of a sequence block, and the chunks it takes (07 R170). -/
def SeqSec.blockBytes (q : SeqSec) : Nat := q.btok * q.tokb
def SeqSec.cpb (q : SeqSec) : Nat := ceilDiv q.blockBytes 61440

/-- Blocks of one member. -/
def SeqSec.bpr (q : SeqSec) (m : Nat) : Nat := q.seqlen / (m * q.btok)

/-- Chunks of a member's data (04 R80, 07 R170). -/
def Plan.nChunks (p : Plan) (d : Nat) : Nat :=
  match p.seqn, p.coll with
  | some q, some _ => q.bpr p.members.length * q.cpb
  | none, some c => if c.kind = kBarrier then 1 else ceilDiv c.count (c.perChunk d)
  | _, none => 0

/-- Elements of a chunk. -/
def Plan.chunkElems (p : Plan) (d c : Nat) : Nat :=
  match p.seqn, p.coll with
  | some q, some _ => if (c + 1) % q.cpb = 0 then q.blockBytes - (q.cpb - 1) * 61440 else 61440
  | none, some k => if k.kind = kBarrier then 0 else min (k.perChunk d) (k.count - c * k.perChunk d)
  | _, none => 0

/-! ### Trees (04 R84, R85) -/

/-- Inserts by a strict order, after equal entries. -/
def insertBy {α : Type} (lt : α → α → Bool) (a : α) : List α → List α
  | [] => [a]
  | b :: t => if lt a b then a :: b :: t else b :: insertBy lt a t

/-- Sorts by a strict order. -/
def sortBy {α : Type} (lt : α → α → Bool) (l : List α) : List α := l.foldl (fun r a => insertBy lt a r) []

/-- A member module and its position. -/
abbrev Node := FA × Nat × Nat × Nat

/-- Distance on one ring. -/
def ringHop (size a b : Nat) : Nat :=
  let d := if a ≤ b then b - a else a - b
  min d (size - d)

/-- hop(a, b). -/
def hop (z : Nat × Nat × Nat) (a b : Node) : Nat :=
  ringHop z.1 a.2.1 b.2.1 + ringHop z.2.1 a.2.2.1 b.2.2.1 + ringHop z.2.2 a.2.2.2 b.2.2.2

/-- The order by distance, then address. -/
def nearer (z : Nat × Nat × Nat) (s : Node) (a b : Node) : Bool :=
  let x := hop z s a
  let y := hop z s b
  decide (x < y) || (x == y && decide (a.1.toNat < b.1.toNat))

/-- How many trees a plane has. -/
def treeCount (trees : Nat) (mods : List Node) : Nat := min trees mods.length

/-- The default root of tree t. -/
def treeSeed (trees : Nat) (mods : List Node) (t : Nat) : Option Node :=
  mods[t * mods.length / max 1 (treeCount trees mods)]?

/-- The links of tree t, each from a module to the one it joined (04 R84). -/
def treeLinks (z : Nat × Nat × Nat) (trees : Nat) (mods : List Node) (t : Nat) : List (FA × FA) :=
  match treeSeed trees mods t with
  | none => []
  | some seed =>
    let order := sortBy (nearer z seed) mods
    ((order.drop 1).foldl (fun (st : List Node × List (FA × FA)) m =>
      match sortBy (nearer z m) st.1 with
      | near :: _ => (st.1 ++ [m], st.2 ++ [(m.1, near.1)])
      | [] => (st.1 ++ [m], st.2)) (order.take 1, [])).2

/-- Neighbours of a module in a tree. -/
def treeNear (links : List (FA × FA)) (a : FA) : List FA :=
  (links.filter fun l => l.2 == a).map (·.1) ++ (links.filter fun l => l.1 == a).map (·.2)

/-- The way from a module toward the default root. -/
def treePath (links : List (FA × FA)) : Nat → FA → List FA
  | 0, a => [a]
  | n + 1, a =>
    match links.find? fun l => l.1 == a with
    | some l => a :: treePath links n l.2
    | none => [a]

/-- The parent of a module in a tree rooted at another (04 R84). -/
def treeParent (links : List (FA × FA)) (root a : FA) : Option FA :=
  if root = a then none
  else
    let path := treePath links links.length root
    match path.findIdx? (· == a) with
    | some (i + 1) => path[i]?
    | _ => (links.find? fun l => l.1 == a).map (·.2)

/-- The modules from a module's parent up to the root of a tree. -/
def treeWay (links : List (FA × FA)) (root : FA) : Nat → FA → List FA
  | 0, _ => []
  | n + 1, a =>
    match treeParent links root a with
    | some b => b :: treeWay links root n b
    | none => []

/-- The children of a module in a tree rooted at another. -/
def treeChildren (links : List (FA × FA)) (root a : FA) : List FA :=
  (treeNear links a).filter fun b => treeParent links root a != some b

/-! ### The trees of an instance -/

/-- Member modules of a plane (04 R75), lowest address first; a fenced module is not one (04 R101). -/
def State.memberModules (s : State) (members : List FA) (planeB : Bool) : List Node :=
  let nodes := (members.filterMap fun a => (s.member a).map (·.twinA)).eraseDups
  let ms := nodes.filterMap fun a => s.moduleOf a planeB
  sortBy (fun a b => decide (a.1.toNat < b.1.toNat))
    ((ms.filter fun m => !s.isFenced m.fa).map fun m => (m.fa, m.x, m.y, m.z))

def State.sizes (s : State) : Nat × Nat × Nat := (s.ringSize 0, s.ringSize 1, s.ringSize 2)

/-- Member modules of a plane as the slot recorded them. -/
def Slot.nodes (v : Slot) (planeB : Bool) : List Node := if planeB then v.treesB else v.treesA

/-- Links of tree t on a plane. -/
def State.links (s : State) (v : Slot) (trees : Nat) (planeB : Bool) (t : Nat) : List (FA × FA) :=
  treeLinks s.sizes trees (v.nodes planeB) t

/-- p(c) (04 R85). -/
def chunkPlaneB (pmask c : Nat) : Bool := if pmask = 3 then c % 2 == 1 else pmask == 2

/-- t(c) (04 R85). -/
def chunkTree (pmask c t : Nat) : Nat := (if pmask = 3 then c / 2 else c) % max 1 t

/-- The plane of a sequence context (07 R172). -/
def seqPlaneB (pmask ctx : Nat) : Bool := if pmask = 3 then ctx % 2 == 1 else pmask == 2

/-- The plane that a plan's chunk travels on. -/
def State.planeOfChunk (s : State) (p : Plan) (v : Slot) (c : Nat) : Bool :=
  match p.seqn with
  | some q => match (Assoc.find q.ctx s.pl.ctxs).bind (·.plane) with
    | some b => b
    | none => seqPlaneB v.pmask q.ctx
  | none => chunkPlaneB v.pmask c

/-- The tree that a plan's chunk travels on. -/
def State.treeOfChunk (s : State) (p : Plan) (v : Slot) (c : Nat) : Nat :=
  match p.seqn, p.coll with
  | some _, _ => 0
  | none, some k =>
    if k.kind = kBarrier then 0
    else chunkTree v.pmask c (treeCount k.trees (v.nodes (s.planeOfChunk p v c)))
  | none, none => 0

/-- The root of chunk c (04 R76); `sender` is the member whose chunk it is, for ALL_GATHER. -/
def State.rootOf (s : State) (p : Plan) (v : Slot) (c : Nat) (sender : FA) : Option FA :=
  let b := s.planeOfChunk p v c
  match p.coll with
  | none => none
  | some k =>
    let def' := (treeSeed k.trees (v.nodes b) (s.treeOfChunk p v c)).map (·.1)
    match k.kind with
    | 0 => def'
    | 7 => def'
    | 1 => match p.owners[c]? with
      | some o => s.leafOf o.a b
      | none => none
    | 2 => match p.members[k.root]? with
      | some m => s.leafOf m b
      | none => none
    | 4 => match p.members[k.root]? with
      | some m => s.leafOf m b
      | none => none
    | 3 => s.leafOf sender b
    | 8 => match p.owners[c]? with
      | some o => some (if b then o.b else o.a)
      | none => none
    | _ => none

/-- The TREE byte of a tree on a plane. -/
def treeByte (t : Nat) (planeB : Bool) : Nat := t + 8 * b2n planeB

/-- The (tree, root) pairs of an instance on this module's plane (log 16). -/
def State.rootPairs (s : State) (p : Plan) (v : Slot) (planeB : Bool) : List (Nat × FA) :=
  match p.coll with
  | none => []
  | some k =>
    let chunks := (List.range (p.nChunks v.lseD)).filter fun c => s.planeOfChunk p v c == planeB
    match p.seqn with
    | some q =>
      if q.role = 2 then []
      else if s.planeOfChunk p v 0 == planeB then
        ((p.members.filterMap fun m => s.leafOf m planeB).eraseDups).map fun r => (0, r)
      else []
    | none =>
      if k.kind = kAllGather then
        (chunks.flatMap fun c => (p.members.filterMap fun m => s.leafOf m planeB).map fun r =>
          (s.treeOfChunk p v c, r)).eraseDups
      else
        (chunks.filterMap fun c => (s.rootOf p v c 0).map fun r => (s.treeOfChunk p v c, r)).eraseDups

/-! ### PMASK (04 R86) -/

/-- An endpoint reaches a plane, as far as this module knows (log 20): its node has that module in service, and where the
endpoint is local, its port there is in service. -/
def State.reachesPlane (s : State) (fa : FA) (planeB : Bool) : Bool :=
  match s.member fa with
  | none => false
  | some m =>
    match s.moduleOf m.twinA planeB with
    | none => false
    | some n =>
      !s.isFenced n.fa &&
      (if s.ownNode m then
        (if planeB == s.planeB then s.epPortUp m
         else !(s.twin.ports.getLsbD m.port) && !s.twin.silent)
       else true)

/-- PMASK of a new instance; 0 when no plane reaches every member. -/
def State.pmaskFor (s : State) (members : List FA) : Nat :=
  let ms := members.filter fun m => !s.isFenced m
  let a := ms.all fun m => s.reachesPlane m false
  let b := ms.all fun m => s.reachesPlane m true
  if a && b then 3 else if a then 1 else if b then 2 else 0

/-! ### Opening (04 R79, 08 R189, R190) -/

/-- A queue context as an instance opens (08 R190). -/
def PQueue.context (q : PQueue) (scalar : BitVec 32) (step : Nat) : QCtx :=
  { qid := q.qid, cls := q.cls, tcs := q.tinit, qcs := List.replicate 14 0 ++ [scalar.toNat, step],
    preds := List.replicate 8 false, next := 0, run := none }

/-- Queue contexts in use; a module holds 1,024 (08 R189). -/
def State.contextsUsed (s : State) : Nat := (s.pl.progs.map fun e => e.2.queues.length).sum

/-- Starts the queues of an instance, or leaves it waiting for contexts (08 R189). -/
def State.startQueues (s : State) (hdl : BitVec 20) (p : Plan) : State :=
  if p.queues.isEmpty then s
  else if s.pl.waiting.isEmpty ∧ s.contextsUsed + p.queues.length ≤ 1024 then
    let v := s.slot hdl
    let qs := p.queues.map fun q => q.context (v.scalar.getD 0) v.step
    { s with pl := { s.pl with progs := Assoc.set hdl ⟨qs, s.clk.cycle⟩ s.pl.progs } }
  else { s with pl := { s.pl with waiting := s.pl.waiting ++ [hdl] } }

/-- Opens a slot at a step (04 R79): PMASK, trees and local members are fixed, and members already fenced are absent
(04 R101). -/
def State.openSlot (s : State) (hdl : BitVec 20) (p : Plan) (step pmask : Nat) (scalar : Option (BitVec 32)) : State :=
  let gone := p.members.filter s.isFenced
  let v : Slot := { Slot.fresh with
    state := .opened, step := step, pmask := pmask, scalar := scalar, openedAt := s.clk.cycle, order := s.pl.opened, lseD := p.lseD
    treesA := s.memberModules p.members false, treesB := s.memberModules p.members true
    locals := p.members.filter s.isLeafOf
    absent := gone, offenders := gone, status := if gone.isEmpty then stOk else stMemberLost }
  let t := s.setSlot hdl v
  let t := { t with
    pl := { t.pl with opened := t.pl.opened + 1 }
    led := { t.led with opened := if t.led.opened.contains step then t.led.opened else t.led.opened ++ [step] } }
  t.startQueues hdl p

/-! ### Sending along the trees -/

/-- A message of an instance as its head spells it. -/
def mkHead (p : Plan) (v : Slot) (msg chunk elems : Nat) (presence : Bool) (tree : Nat) : Head :=
  { sig := p.sig, step := v.step, chunk := chunk, elems := elems, msg := BitVec.ofNat 8 msg,
    flags := BitVec.ofNat 8 (b2n presence + 2 * v.pmask), status := 0, tree := BitVec.ofNat 8 tree, lastFa := 0, late := 0,
    layer := match p.seqn with
      | some _ => (v.scalar.getD 0).toNat
      | none => 0 }

/-- Sends a message of an instance; `credited` where a staging credit covers it (04 R102, 13 R298). -/
def State.sendMsg (s : State) (hdl : BitVec 20) (dst : FA) (h : Head) (data : List Byte) (credited toRoot : Bool) : State :=
  let kt := msgKindTc h.msg.toNat toRoot
  s.sendMessage dst hdl kt.1 kt.2 h.step credited h.bytes data

/-- Sends the first head of a chunk to an input's parent: it waits while no credit is left there (04 R102). -/
def State.sendFirst (s : State) (hdl : BitVec 20) (depth : Nat) (dst : FA) (h : Head) (data : List Byte) : State :=
  let v := s.slot hdl
  if (v.credOut.filter fun e => e.1 == dst).length < depth ∧ (v.waitOut.all fun e => e.1 != dst) then
    (s.setSlot hdl { v with credOut := v.credOut ++ [(dst, h.chunk)] }).sendMsg hdl dst h data true false
  else s.setSlot hdl { v with waitOut := v.waitOut ++ [(dst, h, data)] }

/-- Credits come back from a receiver, and messages that waited for them go out (04 R102). -/
def State.creditBackAux (hdl : BitVec 20) (depth : Nat) (dst : FA) : Nat → State → State
  | 0, s => s
  | n + 1, s =>
    let v := s.slot hdl
    match v.waitOut.find? fun e => e.1 == dst with
    | none => s
    | some e =>
      if (v.credOut.filter fun x => x.1 == dst).length < depth then
        State.creditBackAux hdl depth dst n
          ((s.setSlot hdl { v with waitOut := v.waitOut.erase e, credOut := v.credOut ++ [(dst, e.2.1.chunk)] }).sendMsg
            hdl dst e.2.1 e.2.2 true false)
      else s

/-- Takes the n oldest credits held at a receiver back (04 R102). -/
def dropCredits (dst : FA) : Nat → List (FA × Nat) → List (FA × Nat)
  | _, [] => []
  | 0, l => l
  | n + 1, e :: t => if e.1 = dst then dropCredits dst n t else e :: dropCredits dst (n + 1) t

/-- Staging credits that an ACK returns come back, and messages that waited for one go (04 R102; every ACK's CREDITS count, log 119). -/
def State.creditBack (s : State) (hdl : BitVec 20) (depth : Nat) (dst : FA) (n : Nat) : State :=
  let v := s.slot hdl
  State.creditBackAux hdl depth dst v.waitOut.length
    (s.setSlot hdl { v with credOut := dropCredits dst n v.credOut })

/-- Queue of ACKs to a source: ACK_SEQ, credits, step (12 R281). -/
def State.sendAck (s : State) (k : StreamKey) (ackSeq credits step : Nat) : State :=
  s.sendCtrl k.1 kCtrl tcMgmt k.2 (payAck (ackSeq % 2 ^ 24) credits step)

/-- Returns one staging credit of an input for a chunk, in an ACK (04 R89 step 4, R102). -/
def State.returnStaging (s : State) (hdl : BitVec 20) (input : FA) (chunk : Nat) : State :=
  let v := s.slot hdl
  if v.credits.contains (input, chunk) then
    let t := s.setSlot hdl { v with credits := v.credits.erase (input, chunk) }
    match Assoc.find (input, hdl) t.rt.rx with
    | some r =>
      let t := { t with rt := { t.rt with rx := Assoc.set (input, hdl) { r with lastAck := r.base } t.rt.rx } }
      t.sendAck (input, hdl) r.base 1 v.step
    | none => t.sendAck (input, hdl) 0 1 v.step
  else s

/-! ### Ends (04 R97, R99) -/

/-- The head and data of an END with the status and offenders the slot holds. -/
def endParts (p : Plan) (v : Slot) (tree : Nat) : Head × List Byte :=
  ({ mkHead p v msgEnd 0 v.offenders.length false tree with status := BitVec.ofNat 8 v.status },
   v.offenders.flatMap fun a => leBytes 2 a.toNat)

/-- Sends an END down a tree to all neighbours but one. -/
def State.endDown (s : State) (hdl : BitVec 20) (p : Plan) (tree : Nat) (except : Option FA) : State :=
  let v := s.slot hdl
  match p.coll with
  | none => s
  | some k =>
    let near := (treeNear (s.links v k.trees s.planeB tree) s.selfFa).filter fun b => some b != except
    let e := endParts p v (treeByte tree s.planeB)
    near.foldl (fun t b => t.sendMsg hdl b e.1 e.2 false false) s

/-- The most severe status stands; offenders add up (04 R99). -/
def Slot.merge (v : Slot) (status : Nat) (off : List FA) : Slot :=
  { v with status := max v.status status, offenders := v.offenders ++ off.filter fun a => !(v.offenders.contains a) }

/-- An installed RUG plan names this plan for its norm pass (05 R118). -/
def State.isNormPlan (s : State) (n : Nat) : Bool :=
  s.pl.plans.any fun e => match e.2.coll with
    | some k => k.kind == kRug && k.normPlan == n && n != 0
    | none => false

/-- INSTANCE of the commit word (05 R129): a RUG or norm instance closed with a status other than OK. -/
def State.noteStatus (s : State) (p : Plan) (v : Slot) : State :=
  let rug := match p.coll with
    | some k => k.kind == kRug
    | none => false
  if (rug || s.isNormPlan p.num) && v.status != stOk then
    { s with led := { s.led with words := Assoc.set v.step (Assoc.get 0 v.step s.led.words ||| 2) s.led.words } }
  else s

/-- A sequence context. -/
def State.seqCtx (s : State) (c : Nat) : SeqCtx := Assoc.get ⟨0, none, []⟩ c s.pl.ctxs

def State.modCtx (s : State) (c : Nat) (f : SeqCtx → SeqCtx) : State :=
  { s with pl := { s.pl with ctxs := Assoc.set c (f (s.seqCtx c)) s.pl.ctxs } }

/-- A home releases the blocks of the layer as it sends the END of a REPLAY with FREE_AFTER (07 R175). -/
def State.freeAfter (s : State) (p : Plan) (v : Slot) : State :=
  match p.seqn with
  | some q => if q.role = 1 ∧ q.freeAfter ∧ (Assoc.find q.ctx s.pl.ctxs).isSome then
      s.modCtx q.ctx fun x => { x with blocks := x.blocks.filter fun b => b.layer != (v.scalar.getD 0).toNat }
    else s
  | none => s

/-- Closes a slot (04 R99): END to the local members, staging and streams dropped, queue contexts released (08 R204), and the hash
accumulators where a sparse fold held them (06 R162). -/
def State.closeSlot (s : State) (hdl : BitVec 20) (p : Plan) : State :=
  let v := s.slot hdl
  if v.state ≠ .opened then s
  else
    let dest := (if p.coll.isSome then v.locals else v.joined).filter fun a => !(v.absent.contains a)
    let e := endParts p v (treeByte 0 s.planeB)
    let t := dest.foldl (fun t a => t.sendMsg hdl a e.1 e.2 false false) (s.freeAfter p v)
    let t := t.closeStreams hdl (decide (v.status < stSigMismatch))
    let t := t.setSlot hdl { v with
      state := .closed, chunks := [], rug := [], waitOut := [], credits := [], credOut := [], refused := [], missing := false }
    let holds := (Assoc.find (planOf hdl, slotOf hdl) t.pl.sparse).any fun x => !x.folded.isEmpty
    let t := { t with pl := { t.pl with
      progs := Assoc.del hdl t.pl.progs
      buckets := if p.sparse.isSome && holds then [] else t.pl.buckets
      waiting := t.pl.waiting.filter fun h => h != hdl
      staged := t.pl.staged.filter fun w => w.msg.hdl != hdl } }
    (if stSigMismatch ≤ v.status then t.bump .plnAbort else t).noteStatus p v

/-- Roots of every tree of an instance, this module aside: for an exchange every member's leaf, for a plan without a
COLLECTIVE section the leaf of every member (04 R97, 08 R207). -/
def State.endTargets (s : State) (p : Plan) (v : Slot) : List (FA × Nat) :=
  let leaves := (p.members.flatMap fun m => [false, true].filterMap fun b => (s.leafOf m b).map fun a => (a, treeByte 0 b))
  let roots : List (FA × Nat) := match p.coll with
    | none => leaves
    | some k =>
      if k.kind = kAllToAll ∨ k.kind = kAllToAllV then leaves
      else [false, true].flatMap fun b => (s.rootPairs p v b).map fun x => (x.2, treeByte x.1 b)
  (roots.filter fun x => x.1 != s.selfFa && !s.isFenced x.1).eraseDups

/-- The instance has a failure status here: it ends with the END of a root (04 R97, R99). -/
def Slot.failing (v : Slot) : Bool := decide (stSigMismatch ≤ v.status)

/-- An END of a root will come down to this module: it roots no tree itself, and on the tree way to some root of its plane stands
no module that is fenced or whose messages it refuses (04 R97, R99; log 98). Exchanges and plans without trees have no root. -/
def State.awaitsRoot (s : State) (p : Plan) (v : Slot) : Bool :=
  match p.coll with
  | none => false
  | some k =>
    let pairs := s.rootPairs p v s.planeB
    k.kind != kAllToAll && k.kind != kAllToAllV && (v.nodes s.planeB).any (fun n => n.1 == s.selfFa)
      && pairs.all (fun x => x.2 != s.selfFa) && pairs.any fun x =>
        let links := s.links v k.trees s.planeB x.1
        let way := treeWay links x.2 links.length s.selfFa
        way.getLast? == some x.2 && way.all fun a => !s.isFenced a && !(v.refused.contains a)

/-- What this module sends as it ends an instance: END down its own trees where it is a root, and to the other roots (04 R97). -/
def State.sendEnds (s : State) (hdl : BitVec 20) (p : Plan) (v : Slot) : State :=
  let own := ((s.rootPairs p v s.planeB).filter fun x => x.2 == s.selfFa).map (·.1)
  let s := (own.filter fun t => !(v.rootDone.contains t)).foldl (fun t x => t.endDown hdl p x none) s
  (s.endTargets p v).foldl (fun t x =>
    let e := endParts p v x.2
    t.sendMsg hdl x.1 e.1 e.2 false true) s

/-- The queues of an instance issue nothing more: its contexts and staged write messages go (08 R204, log 98). -/
def State.stopQueues (s : State) (hdl : BitVec 20) : State :=
  { s with pl := { s.pl with
    progs := Assoc.del hdl s.pl.progs
    waiting := s.pl.waiting.filter fun h => h != hdl
    staged := s.pl.staged.filter fun w => w.msg.hdl != hdl } }

/-- This module ends an instance with a failure status (04 R97, R99, R101): END to the roots and down its own trees; the slot
closes at once, or with the END of a root where one will come. -/
def State.failInstance (s : State) (hdl : BitVec 20) (status : Nat) (off : List FA) : State :=
  match s.plan (planOf hdl) with
  | none => s
  | some p =>
    let v := s.slot hdl
    let w := v.merge status off
    if v.state ≠ .opened then s
    else
      let s := if v.failing && w == v then s else ((s.setSlot hdl w).stopQueues hdl).sendEnds hdl p w
      if s.awaitsRoot p w then s else s.closeSlot hdl p

/-- Ends an instance and closes its slot without waiting for a root: its plan, its step or the module's state goes. -/
def State.endNow (s : State) (hdl : BitVec 20) (status : Nat) (off : List FA) : State :=
  let t := s.failInstance hdl status off
  match t.plan (planOf hdl) with
  | none => t
  | some p => t.closeSlot hdl p

/-- The queues of an instance have finished at this module (08 R190). -/
def State.queuesFinished (s : State) (hdl : BitVec 20) (p : Plan) : Bool :=
  if p.queues.isEmpty then true
  else
    match Assoc.find hdl s.pl.progs with
    | none => false
    | some g =>
      (g.queues.all fun q => q.run.isNone &&
        decide ((p.queues.find? fun x => x.qid == q.qid).elim 0 (fun x => x.ops.length) ≤ q.next)) &&
      (s.rt.tx.all fun e => e.1.2 != hdl ||
        ((e.2.unsent.all fun c => c.1.kind != kData) && e.2.retained.all fun r => r.cell.kind != kData))

/-- How many ENDs of a tree have come, own ones included. -/
def Slot.endsOf (v : Slot) (t : Nat) : Nat := Assoc.get 0 t v.ends

/-- Every MIRROR message that a RUG slot is owed has been applied: the slot stays OPEN until then (05 R115, R130, log 22). -/
def State.mirrorsDone (s : State) (p : Plan) (v : Slot) : Bool :=
  match p.coll with
  | none => true
  | some k =>
    if k.kind ≠ kRug ∨ stMemberLost < v.status ∨ !s.twin.present ∨ s.twin.fenced then true
    else (p.owners.zipIdx).all fun (o, c) =>
      !((o.a == s.selfFa || o.b == s.selfFa) && chunkPlaneB v.pmask c != s.planeB)
      || (match Assoc.find c v.rug with
          | some r => r.applied
          | none => false)

/-- Closes an instance whose ENDs have all come (04 R99) and whose queues have finished (08 R190). Exchange kinds and
plans without a COLLECTIVE section have no roots and end by rules of their own. -/
def State.maybeClose (s : State) (hdl : BitVec 20) : State :=
  match s.plan (planOf hdl) with
  | none => s
  | some p =>
    let v := s.slot hdl
    let ready := s.queuesFinished hdl p && s.mirrorsDone p v
    if v.state ≠ .opened then s
    else
      match p.coll with
      | none => if ready then s.closeSlot hdl p else s
      | some k =>
        if k.kind = kAllToAll ∨ k.kind = kAllToAllV then s
        else
          let pairs := s.rootPairs p v s.planeB
          let trees := (pairs.map (·.1)).eraseDups
          let ended := trees.all fun t => decide ((pairs.filter fun x => x.1 == t).length ≤ v.endsOf t)
          if !ended then s else if ready then s.closeSlot hdl p else s.releaseStreams hdl

/-- A root has sent the last message of every chunk it roots on a tree: it sends END down (04 R99), once its queues have
finished (08 R190). -/
def State.rootEnd (s : State) (hdl : BitVec 20) (t : Nat) : State :=
  match s.plan (planOf hdl) with
  | none => s
  | some p =>
    let v := s.slot hdl
    if v.state ≠ .opened || v.rootDone.contains t || !s.queuesFinished hdl p then s
    else
      let s := s.setSlot hdl { v with rootDone := v.rootDone ++ [t], ends := Assoc.set t (v.endsOf t + 1) v.ends }
      (s.endDown hdl p t none).maybeClose hdl

/-- A differing head (04 R97): the stream is refused, counted once and reported, and the instance ends. -/
def State.mismatch (s : State) (hdl : BitVec 20) (sender : FA) : State :=
  let v := s.slot hdl
  if v.refused.contains sender then s
  else
    let t := (s.setSlot hdl { v with refused := v.refused ++ [sender] }).bump .plnSigMismatch
    let t := t.raise evSigMismatch hdl.toNat sender.toNat
    if v.state = .opened then t.failInstance hdl stSigMismatch [t.selfFa, sender] else t

end Sys2Proof.Machine
end

