-- ==== Sys2Proof/Machine/Memory.lean ====
section
/-!
DEFINITION. Machine/Memory.lean: the active configuration (00, 20, 22), the module memory map (11 R247 to R253), its
Reed-Solomon code (R255, R256), bad granules, healing and retirement (R258 to R260).
-/
namespace Sys2Proof.Machine

open Sys2Proof

/-! ### The active configuration (20 R402, 22 R440) -/

/-- Configuration block of the active generation, all zero where there is none. -/
def State.config (s : State) : List Byte :=
  match s.sec.cfgGen with
  | some g => s.sec.cfg.getD g []
  | none => zeros 128

/-- VARIANT: 0 = OV-PD24M, 1 = OV-PD24N, 2 = OV-PD12N. -/
def State.variant (s : State) : Nat := byteAt s.config 4
def State.grade (s : State) : Nat := byteAt s.config 5
def State.feMask (s : State) : Nat := leAt s.config 6 2
def State.veMask (s : State) : Nat := byteAt s.config 8
def State.mtMask (s : State) : Nat := leAt s.config 10 2

/-- The matrix engine is present (00 R2). -/
def State.hasMatrix (s : State) : Bool := s.variant == 0

/-! ### Sizes and regions (11 R250 to R253) -/

/-- NCH of a variant. -/
def State.nch (s : State) : Nat := if s.variant = 2 then 96 else 192

/-- Populated packages of a variant (00 R2, R4). -/
def State.packages (s : State) : List Nat :=
  if s.variant = 2 then (List.range 24).filter fun p => p % 6 < 3 else List.range 24

/-- Usable bytes of one channel: 1,016,800 stripes of 8 KiB. -/
def channelBytes : Nat := 8329625600

/-- Usable granules. -/
def State.granules (s : State) : Nat := s.nch * channelBytes / granuleBytes

/-- Whole GiB of usable space. -/
def State.wholeGib (s : State) : Nat := s.nch * channelBytes / 2 ^ 30

/-- Granules in a GiB. -/
def gibGranules : Nat := 262144

/-- The regions in address order. -/
inductive Region where
  | fw
  | plan
  | spill
  | kv
  | stateA
  | stateB
  | spare
  deriving DecidableEq, Repr

/-- REGION of MEM_UE_LOG. -/
def Region.code : Region → Nat
  | .fw => 0
  | .plan => 1
  | .spill => 2
  | .kv => 3
  | .stateA => 4
  | .stateB => 5
  | .spare => 6

/-- Size of a region in granules, 0 for all but FW until the layout is valid. -/
def State.regionSize (s : State) (r : Region) : Nat :=
  let f := fun lo => if s.mem.layoutOk then s.rdf .memRegionSize lo 12 * gibGranules else 0
  match r with
  | .fw => gibGranules
  | .plan => f 0
  | .spill => f 12
  | .kv => f 24
  | .stateA => f 36
  | .stateB => f 36
  | .spare => if s.mem.layoutOk then s.granules - (gibGranules + f 0 + f 12 + f 24 + 2 * f 36) else 0

/-- First granule of a region. -/
def State.regionBase (s : State) (r : Region) : Nat :=
  let z := s.regionSize
  match r with
  | .fw => 0
  | .plan => z .fw
  | .spill => z .fw + z .plan
  | .kv => z .fw + z .plan + z .spill
  | .stateA => z .fw + z .plan + z .spill + z .kv
  | .stateB => z .fw + z .plan + z .spill + z .kv + z .stateA
  | .spare => z .fw + z .plan + z .spill + z .kv + z .stateA + z .stateB

/-- Byte address at which a region begins. -/
def State.regionAddr (s : State) (r : Region) : Nat := s.regionBase r * granuleBytes

/-- The region of a granule; without a valid layout everything beyond FW counts as SPARE. -/
def State.regionOf (s : State) (g : Nat) : Region :=
  let inR := fun r => decide (s.regionBase r ≤ g) && decide (g < s.regionBase r + s.regionSize r)
  ([Region.fw, .plan, .spill, .kv, .stateA, .stateB].find? inR).getD .spare

/-- The layout conditions of R253 for a value of MEM_REGION_SIZE. -/
def State.layoutFits (s : State) (w : Word) : Bool :=
  decide (1 ≤ fld w 0 12) && decide (16 ≤ fld w 12 12)
  && decide (1 + fld w 0 12 + fld w 12 12 + fld w 24 12 + 2 * fld w 36 12 ≤ s.wholeGib)

/-- The region that holds a bank: false for STATE_A. -/
def bankRegion (b : Bool) : Region := if b then .stateB else .stateA

/-- Byte address of a bank. -/
def State.bankAddr (s : State) (b : Bool) : Nat := s.regionAddr (bankRegion b)

/-! ### The address map (11 R251) -/

/-- Package, channel, raw unit and byte of an address. -/
def State.locate (s : State) (a : Nat) : Nat × Nat × Nat × Nat :=
  let st := a / 8192
  let slot := st % s.nch
  let i := st / s.nch
  let tile := slot % 4
  let n := if s.nch = 192 then 6 else 3
  let package := 6 * tile + slot / 4 % n
  (package, 8 * package + slot / (4 * n), 33 * i + a % 8192 / 256, a % 256)

/-- The data stripe of stripe i on a channel, none for a channel that is not populated. -/
def State.stripeOf (s : State) (channel i : Nat) : Option Nat :=
  let package := channel / 8
  let n := if s.nch = 192 then 6 else 3
  if package % 6 < n ∧ channel < 192 then some (i * s.nch + (channel % 8) * (4 * n) + (package % 6) * 4 + package / 6) else none

/-! ### GF(2^16) (11 R255) -/

/-- Multiplies by x. -/
def gfX (a : BitVec 16) : BitVec 16 := if a.getLsbD 15 then (a <<< 1) ^^^ 0x100B#16 else a <<< 1

/-- Product in the field with polynomial x^16 + x^12 + x^3 + x + 1. -/
def gfMulAux : Nat → BitVec 16 → BitVec 16 → BitVec 16
  | 0, _, _ => 0
  | n + 1, a, b => (if b.getLsbD 0 then a else 0) ^^^ gfMulAux n (gfX a) (b >>> 1)

def gfMul (a b : BitVec 16) : BitVec 16 := gfMulAux 16 a b

/-- Inverse: the power 2^16 − 2. -/
def gfInvAux : Nat → BitVec 16 → BitVec 16 → BitVec 16
  | 0, _, r => r
  | n + 1, a, r => let q := gfMul a a; gfInvAux n q (gfMul r q)

def gfInv (a : BitVec 16) : BitVec 16 := gfInvAux 15 a 1

/-- α^n. -/
def gfPow : Nat → BitVec 16
  | 0 => 1
  | n + 1 => gfX (gfPow n)

/-- Locator of symbol k: symbol 131 stands at x^0 (log 10). -/
def rsLoc (k : Nat) : BitVec 16 := gfPow (131 - k)

/-- Syndrome j of an error vector. -/
def rsSyndrome (errs : List (Nat × BitVec 16)) (j : Nat) : BitVec 16 :=
  errs.foldl (fun a e => a ^^^ gfMul e.2 (gfPow (j * (131 - e.1)))) 0

/-- Coefficients of the generator polynomial (x − α⁰)(x − α¹)(x − α²)(x − α³), that of x⁴ first (11 R255). -/
def rsGenerator : List (BitVec 16) :=
  (List.range 4).foldl (fun g i => List.zipWith (· ^^^ ·) (g ++ [0]) (0 :: g.map (gfMul (gfPow i)))) [1]

/-- One symbol more of the division by the generator. -/
def rsDivide (r : List (BitVec 16)) (x : BitVec 16) : List (BitVec 16) :=
  List.zipWith (· ^^^ ·) (r.drop 1 ++ [0]) ((rsGenerator.drop 1).map (gfMul (x ^^^ r.headD 0)))

/-- Symbols of bytes: two to a symbol, the low one first (11 R255). -/
def symbolsOf (l : List Byte) : List (BitVec 16) := (pieces 2 l).map fun p => BitVec.ofNat 16 (leNat p)

/-- The eight check bytes of a data block: symbols 128 to 131 of the systematic code (11 R255). -/
def rsCheck (data : List Byte) : List Byte :=
  ((symbolsOf data).foldl rsDivide [0, 0, 0, 0]).flatMap fun x => leBytes 2 x.toNat

/-- What the decoder does with a block (11 R256). -/
inductive Decode where
  | clean
  | corrected (fix : List (Nat × BitVec 16))
  | bad
  deriving DecidableEq, Repr

/-- The decode of a block whose stored symbols differ from its codeword by `errs`: within two symbols (11 R256). -/
def rsDecode (errs : List (Nat × BitVec 16)) : Decode :=
  let s0 := rsSyndrome errs 0
  let s1 := rsSyndrome errs 1
  let s2 := rsSyndrome errs 2
  let s3 := rsSyndrome errs 3
  if s0 = 0 ∧ s1 = 0 ∧ s2 = 0 ∧ s3 = 0 then .clean
  else
    let ks := List.range 132
    match ks.find? fun k => s0 != 0 && gfMul s0 (rsLoc k) == s1 && gfMul s1 (rsLoc k) == s2 && gfMul s2 (rsLoc k) == s3 with
    | some k => .corrected [(k, s0)]
    | none =>
      let det := gfMul s0 s2 ^^^ gfMul s1 s1
      if det = 0 then .bad
      else
        let di := gfInv det
        let a := gfMul di (gfMul s0 s3 ^^^ gfMul s1 s2)
        let b := gfMul di (gfMul s1 s3 ^^^ gfMul s2 s2)
        match ks.filter fun k => let x := rsLoc k; (gfMul x x ^^^ gfMul a x ^^^ b) == 0 with
        | [k, l] =>
          let x := rsLoc k
          let y := rsLoc l
          let v := gfMul (s1 ^^^ gfMul s0 y) (gfInv (x ^^^ y))
          .corrected [(k, v), (l, v ^^^ s0)]
        | _ => .bad

/-! ### Retirement and outcomes (11 R258, R260) -/

/-- Entries of the remap table. -/
def remapEntries : Nat := 4096

/-- The next free SPARE granule in address order, none where SPARE is exhausted (11 R260). -/
def State.nextSpare (s : State) : Option Nat :=
  ((List.range (min (s.regionSize .spare) (s.mem.used.length + 1))).map (s.regionBase .spare + ·)).find? fun g => !s.mem.used.contains g

/-- Retires a granule: the next free SPARE granule takes its place. Where SPARE or the table is exhausted the granule stays. A bad
granule of SPARE is handed out no more (11 R260). -/
def State.retire (s : State) (g : Nat) : State :=
  let s := if s.regionOf g = .spare then { s with mem := { s.mem with used := s.mem.used ++ [g] } } else s
  if s.mem.remap.length < remapEntries ∨ (Assoc.find g s.mem.remap).isSome then
    match s.nextSpare with
    | some x => { s with mem := { s.mem with remap := Assoc.set g x s.mem.remap, used := s.mem.used ++ [x] } }.bump .memRetire
    | none => s
  else s

/-- The granule that stands in for a granule, itself where it is not retired (11 R260). -/
def State.homeOf (s : State) (g : Nat) : Nat := (Assoc.find g s.mem.remap).getD g

/-- Bytes of a granule. -/
def State.granule (s : State) (g : Nat) : List Byte := s.mem.read (g * granuleBytes) granuleBytes

/-- The block lies whole in [a, a + n). -/
def blockIn (a n block : Nat) : Bool := decide (a ≤ 256 * block) && decide (256 * block + 256 ≤ a + n)

/-- What the array holds differs from a block's codeword (11 R255). -/
def State.flawsOf (s : State) (block : Nat) : List (Nat × BitVec 16) := Assoc.get [] block s.mem.flaws

/-- Writes module memory; a block that is written whole gets a new codeword (11 R255, R257). -/
def State.memWrite (s : State) (a : Nat) (l : List Byte) : State :=
  let m := s.mem.write a l
  { s with mem := { m with flaws := m.flaws.filter fun e => !blockIn a l.length e.1 } }

/-- Zeroes [lo, hi) of module memory: every block in it is clean (11 R255, R264). -/
def State.memClear (s : State) (lo hi : Nat) : State :=
  let m := s.mem.clear lo hi
  { s with mem := { m with flaws := m.flaws.filter fun e => !blockIn lo (hi - lo) e.1 } }

/-! ### Raw units (11 R248, R249, R251, R255) -/

/-- Page byte, bank and row of a raw byte offset of a channel (11 R248). -/
def rawPlace (b : Nat) : Nat × Nat × Nat := (bits b 0 11, bits b 11 4, bits b 15 18)

/-- Raw unit of a channel and byte in it where the check bytes of the block at an address begin (11 R251). -/
def State.checkPlace (s : State) (a : Nat) : Nat × Nat :=
  let u := (s.locate a).2.2.1
  (33 * (u / 33) + 32, 8 * (u % 33))

/-- The data block that a raw unit of a channel holds now: none for check bytes, for the units past the last stripe, and for a
granule that a stand-in has replaced; a stand-in's blocks are those of the granule it stands for (11 R251, R260). -/
def State.blockAt (s : State) (channel unit : Nat) : Option Nat :=
  if unit % 33 = 32 ∨ 1016800 ≤ unit / 33 then none
  else
    match s.stripeOf channel (unit / 33) with
    | none => none
    | some st =>
      let b := 32 * st + unit % 33
      let g := b / 16
      if (Assoc.find g s.mem.remap).isSome then none
      else match s.mem.remap.find? fun e => e.2 == g with
        | some e => some (16 * e.1 + b % 16)
        | none => some b

/-- Data of a block's codeword. -/
def State.blockData (s : State) (block : Nat) : List Byte := s.mem.read (256 * block) 256

/-- The stored codeword of a block, 264 bytes: data and check bytes, with what the array holds wrong (11 R255). -/
def State.stored (s : State) (block : Nat) : List Byte :=
  let d := s.blockData block
  let errs := s.flawsOf block
  ((symbolsOf (d ++ rsCheck d)).zipIdx).flatMap fun (x, k) =>
    leBytes 2 ((errs.filter fun e => e.1 == k).foldl (fun y e => y ^^^ e.2) x).toNat

/-- The 256 bytes of a raw unit: data, the check bytes of its stripe, or zeros (11 R249). Zeros also stand for the units of a retired
granule, which nothing reads (log 10). -/
def State.rawUnit (s : State) (channel unit : Nat) : List Byte :=
  let of := fun u => ((s.blockAt channel u).map s.stored).getD (zeros 264)
  if 1016800 ≤ unit / 33 then zeros 256
  else if unit % 33 = 32 then (List.range 32).flatMap fun j => (of (unit - 32 + j)).drop 256
  else (of unit).take 256

/-- CRC-64 term of a state granule (05 R126): o is its byte offset from the bank base. -/
def granuleTerm (o : Nat) (g : List Byte) : Word := crc64 (leBytes 8 o ++ g)

/-- Bank and byte offset of a state granule. -/
def State.bankOf (s : State) (g : Nat) : Option (Bool × Nat) :=
  match s.regionOf g with
  | .stateA => some (false, (g - s.regionBase .stateA) * granuleBytes)
  | .stateB => some (true, (g - s.regionBase .stateB) * granuleBytes)
  | _ => none

/-- Records the term of a granule as it is written (05 R126). -/
def State.noteTerm (s : State) (g : Nat) : State :=
  match s.bankOf g with
  | some (_, o) => { s with mem := { s.mem with crcs := Assoc.set g (granuleTerm o (s.granule g)) s.mem.crcs } }
  | none => s

/-- The recorded term of a state granule, or the term of what it holds where none is recorded. -/
def State.termOf (s : State) (g : Nat) : Word :=
  match Assoc.find g s.mem.crcs with
  | some t => t
  | none => match s.bankOf g with
    | some (_, o) => granuleTerm o (s.granule g)
    | none => 0

/-- Granules that bytes [a, a + n) touch. -/
def granulesOf (a n : Nat) : List Nat :=
  if n = 0 then [] else (List.range ((a + n - 1) / granuleBytes + 1 - a / granuleBytes)).map fun i => a / granuleBytes + i

/-- Sends one state granule to the twin in the resilver's transfer stream (12 R283). -/
def State.sendGranule (s : State) (twin : FA) (bankB : Bool) (o : Nat) : State :=
  let ref : GranuleRef := { gen := s.led.step, role := BitVec.ofNat 8 (b2n (bankB != s.led.srcB) + 4 * b2n bankB), offset := o }
  let g := s.granule (s.bankAddr bankB / granuleBytes + o / granuleBytes)
  s.sendMessage twin 1#20 kResp tcMgmt 0 false (transferHead 3 ref granuleBytes) g

/-- A write behind the copy cursor goes to the resilvering twin again (17 R367). -/
def State.resend (s : State) (g : Nat) : State :=
  match s.mem.resilver, s.bankOf g with
  | some r, some (b, o) =>
    let ix := (if b then s.regionSize .stateA else 0) + o / granuleBytes
    if r.carrying && decide (ix < r.copied) then s.sendGranule r.twin b o else s
  | _, _ => s

/-- Movers write into a state bank: bytes, terms, and what a resilver copy has to send again (05 R126, 17 R367). -/
def State.stateWrite (s : State) (a : Nat) (l : List Byte) : State :=
  (granulesOf a l.length).foldl (fun t g => (t.noteTerm g).resend g) (s.memWrite a l)

/-- A granule waits for its heal, or heals. -/
def State.healing (s : State) (g : Nat) : Bool := s.mem.heals.any fun h => h.granule == g

/-- No granule in [a, a + n) is being healed, and no wipe runs: else an access waits (11 R259, R264). -/
def State.memReady (s : State) (a n : Nat) : Bool :=
  s.mem.wiping.isNone && s.mem.heals.all fun h => n == 0 || decide (h.granule < a / granuleBytes) || decide ((a + n - 1) / granuleBytes < h.granule)

/-! ### Removing a plan (18 R386 PLAN_REMOVE; 04 R105, 06 R153, R167, 07 R182) -/

/-- OPEN handles of a plan. -/
def State.openOf (s : State) (n : Nat) : List (BitVec 20) := s.openHdls.filter fun h => planOf h == n

/-- Sequence contexts that no installed plan names are freed with their reservation (07 R182). -/
def State.freeContexts (s : State) : State :=
  let named := s.pl.plans.filterMap fun e => e.2.seqn.map (·.ctx)
  { s with pl := { s.pl with ctxs := s.pl.ctxs.filter fun e => named.contains e.1 } }

/-- Removes a plan with everything kept under its number. -/
def State.removePlan (s : State) (n : Nat) : State :=
  let t := (s.openOf n).foldl (fun t h => t.endNow h stAborted []) s
  let keep := fun (h : BitVec 20) => planOf h != n
  let u := { t with pl := { t.pl with
    plans := Assoc.del n t.pl.plans
    slots := t.pl.slots.filter fun e => e.1.1 != n
    stragglers := t.pl.stragglers.filter fun e => e.1.1 != n
    experts := t.pl.experts.filter fun e => e.1.1 != n
    progs := t.pl.progs.filter fun e => keep e.1
    waiting := t.pl.waiting.filter keep
    snapshots := Assoc.del n t.pl.snapshots
    disp := t.pl.disp.filter fun e => e.1.1 != n
    sparse := t.pl.sparse.filter fun e => e.1.1 != n } }
  u.freeContexts.rebuildGroups

/-- Zeroes a granule and retires it (11 R258). -/
def State.zeroRetire (s : State) (g : Nat) : State := (s.memClear (g * granuleBytes) ((g + 1) * granuleBytes)).retire g

/-! ### Learning-rate tables (05 R106, R116; 11 R258, R259) -/

/-- Address of entry i of a shard's learning-rate table (log 21). -/
def State.entryAddr (s : State) (d : Shard) (i : Nat) : Nat := s.regionAddr .plan + 4 * (Config.tableAt d.num + i)

/-- Part of a shard's learning-rate table lies in a granule. -/
def State.tableIn (s : State) (g : Nat) : Bool :=
  s.led.shards.any fun d => (List.range d.table.length).any fun i => s.entryAddr d i / granuleBytes == g

/-- A shard's learning-rate table with the entries that lie in a granule taken from the granule's new bytes. -/
def State.tableWith (s : State) (g : Nat) (data : List Byte) (d : Shard) : List (BitVec 32) :=
  (d.table.zipIdx).map fun (x, i) =>
    let a := s.entryAddr d i
    if a / granuleBytes = g then BitVec.ofNat 32 (leAt data (a % granuleBytes) 4) else x

/-- Replaces the learning-rate entries that lie in a granule by those of its new bytes. -/
def State.putTables (s : State) (g : Nat) (data : List Byte) : State :=
  { s with led := { s.led with shards := s.led.shards.map fun d => { d with table := s.tableWith g data d } } }

/-- The 4 KiB of a granule, learning-rate entries among them. -/
def State.granuleData (s : State) (g : Nat) : List Byte :=
  let entries := s.led.shards.flatMap fun d => (d.table.zipIdx).filterMap fun (x, i) =>
    let a := s.entryAddr d i
    if a / granuleBytes = g then some (a % granuleBytes / 4, x) else none
  ((pieces 4 (s.granule g)).zipIdx).flatMap fun (w, i) => ((Assoc.find i entries).map fun x => leBytes 4 x.toNat).getD w

/-- A bad granule joins the heal queue (11 R259). -/
def State.queueHeal (s : State) (g : Nat) (ref : GranuleRef) : State :=
  { s with mem := { s.mem with
    bad := if s.mem.bad.contains g then s.mem.bad else s.mem.bad ++ [g]
    heals := s.mem.heals ++ [{ granule := g, ref := ref, tag := 0, sent := false }] } }

/-- A bad PLAN granule (11 R258): tables heal; route records go missing; stragglers and snapshots read zero; every plan with
other content in it is removed. -/
def State.planGranuleBad (s : State) (g : Nat) : State :=
  if s.tableIn g then s.queueHeal g { gen := s.led.step, role := 2, offset := (g - s.regionBase .plan) * granuleBytes }
  else
    let hit := fun (k n : Nat) => Config.inGranule k [n] g
    let nums := s.pl.plans.map (·.1)
    let t := { s with pl := { s.pl with
      disp := s.pl.disp.filter fun e => !hit 1 e.1.1
      stragglers := s.pl.stragglers.filter fun e => !hit 2 e.1.1
      snapshots := s.pl.snapshots.map fun e => if hit 3 e.1 then (e.1, e.2.map fun _ => 0) else e } }
    ((nums.filter (hit 4)).foldl State.removePlan t).zeroRetire g

/-- A bad KV granule: the blocks in it are not stored any more. -/
def State.kvGranuleBad (s : State) (g : Nat) : State :=
  let t := { s with pl := { s.pl with ctxs := s.pl.ctxs.map fun (e : Nat × SeqCtx) =>
    (e.1, { e.2 with blocks := e.2.blocks.filter fun b => !Config.inGranule 5 [e.1, b.layer, b.rank, b.block] g }) } }
  t.zeroRetire g

/-- A bad SPILL granule: instances with data in it end ABORTED. -/
def State.spillGranuleBad (s : State) (g : Nat) : State :=
  ((s.openHdls.filter fun h => Config.inGranule 6 [h.toNat] g).foldl (fun t h => t.failInstance h stAborted []) s).zeroRetire g

/-- Value of MEM_UE_LOG for a granule (11, MEM_UE_LOG). -/
def State.ueRecord (s : State) (g : Nat) : Word :=
  BitVec.ofNat 64 (g % 2 ^ 29 + (s.locate (s.homeOf g * granuleBytes)).2.1 * 2 ^ 29 + (s.regionOf g).code * 2 ^ 37 + 2 ^ 63)

/-- Detection of an uncorrectable block: MEM_UE, MEM_UE_LOG, the event (11 R256). -/
def State.logUe (s : State) (g : Nat) : State :=
  let t := s.bump .memUe
  let t := if t.mem.ueLog.getLsbD 63 then t else { t with mem := { t.mem with ueLog := t.ueRecord g } }
  t.raise evMemUe 0 t.mem.ueLog.toNat

/-- The bank role byte of a state granule (12 R283). -/
def State.roleOf (s : State) (bankB : Bool) : Byte := BitVec.ofNat 8 (b2n (bankB != s.led.srcB))

/-- Changes data symbols of a stored block, none for check symbols. -/
def State.xorBlock (s : State) (block : Nat) (errs : List (Nat × BitVec 16)) : State :=
  errs.foldl (fun t e =>
    if e.1 < 128 then
      let a := block * 256 + 2 * e.1
      t.memWrite a (leBytes 2 ((BitVec.ofNat 16 (leNat (t.mem.read a 2))) ^^^ e.2).toNat)
    else t) s

/-- What an uncorrectable block costs its granule (11 R258). That firmware restarts for a granule of FW is the scrub's, which alone
meets one: no other command reads FW. -/
def State.badGranule (s : State) (g : Nat) : State :=
  match s.regionOf g with
  | .stateA => s.queueHeal g { gen := s.led.step, role := s.roleOf false, offset := (g - s.regionBase .stateA) * granuleBytes }
  | .stateB => s.queueHeal g { gen := s.led.step, role := s.roleOf true, offset := (g - s.regionBase .stateB) * granuleBytes }
  | .plan => s.planGranuleBad g
  | .kv => s.kvGranuleBad g
  | .spill => s.spillGranuleBad g
  | .fw => s.zeroRetire g
  | .spare => s.zeroRetire g

/-- Adds to the errors counted on a granule's channel: 1 for a correction, 64 for an uncorrectable block (17 R371). -/
def State.chargeChannel (s : State) (g n : Nat) : State :=
  let c := (s.locate (s.homeOf g * granuleBytes)).2.1
  { s with mem := { s.mem with errs := Assoc.set c (Assoc.get 0 c s.mem.errs + n) s.mem.errs } }

/-- The array comes to hold symbols of a block wrong (log 10). -/
def State.upset (s : State) (block : Nat) (errs : List (Nat × BitVec 16)) : State :=
  let errs := errs.filter fun e => decide (e.1 < 132) && e.2 != 0
  if errs.isEmpty then s
  else { s with mem := { s.mem with flaws := Assoc.set block (s.flawsOf block ++ errs) s.mem.flaws } }

/-- The block and its check bytes are written again (11 R256). -/
def State.rewrite (s : State) (block : Nat) : State := { s with mem := { s.mem with flaws := Assoc.del block s.mem.flaws } }

/-- A read of a data block: its codeword is decoded (11 R256). A granule that heals already is handled. -/
def State.readBlock (s : State) (block : Nat) : State :=
  let errs := s.flawsOf block
  let g := block / 16
  if errs.isEmpty then s
  else
    match rsDecode errs with
    | .clean => (s.xorBlock block errs).rewrite block
    | .corrected fix => (((s.xorBlock block (errs ++ fix)).rewrite block).bump .memCe).chargeChannel g 1
    | .bad => if s.healing g then s else ((s.logUe g).chargeChannel g 64).badGranule g

/-- A read of [a, a + n): every block that it touches is decoded (11 R256). -/
def State.fetchRange (s : State) (a n : Nat) : State :=
  let hit := s.mem.flaws.filter fun e => n != 0 && decide (256 * e.1 < a + n) && decide (a < 256 * e.1 + 256)
  hit.foldl (fun t e => t.readBlock e.1) s

/-- A write of [a, a + n) first reads the blocks that it fills only in part (11 R257). -/
def State.fetchEdges (s : State) (a n : Nat) : State :=
  let hit := s.mem.flaws.filter fun e =>
    n != 0 && decide (256 * e.1 < a + n) && decide (a < 256 * e.1 + 256) && !blockIn a n e.1
  hit.foldl (fun t e => t.readBlock e.1) s

/-- A read of an object that firmware placed: the blocks of its granules are decoded (11 R256, log 21). -/
def State.fetchObject (s : State) (kind : Nat) (key : List Nat) : State :=
  (s.mem.flaws.filter fun e => Config.inGranule kind key (e.1 / 16)).foldl (fun t e => t.readBlock e.1) s

/-- The reads and writes of module memory that a command is about to do: reads decode, and a write decodes what it fills in part. -/
def State.fetchAll (s : State) (reads writes : List (Nat × Nat)) : State :=
  writes.foldl (fun t e => t.fetchEdges e.1 e.2) (reads.foldl (fun t e => t.fetchRange e.1 e.2) s)

/-- None of these accesses has to wait (11 R259, R264). -/
def State.allReady (s : State) (l : List (Nat × Nat)) : Bool := l.all fun e => s.memReady e.1 e.2

end Sys2Proof.Machine
end

