-- ==== Sys2Proof/Machine/Fold.lean ====
section
/-!
DEFINITION. Machine/Fold.lean: fold arithmetic (03 R50 to R71) over the bytes of chunks.
-/
namespace Sys2Proof.Machine

open Sys2Proof

/-- The fold control half-word holds no reserved value (03 R50). -/
def foldctlOk (w : Nat) : Bool :=
  decide (bits w 0 4 ≤ 9) && decide (bits w 4 2 < 3) && (bits w 6 1 == 0 || bits w 0 4 == fopLse) && decide (w < 128)

/-! ### Packed elements (02 R36) -/

/-- Bytes that hold a whole number of w-bit codes. -/
def groupBytes (w : Nat) : Nat := if 8 ≤ w then w / 8 else if w = 6 then 3 else 1

/-- The first n codes of w bits in a little-endian stream. -/
def unpack (w n : Nat) (l : List Byte) : List Nat :=
  let g := groupBytes w
  ((pieces g l).flatMap fun p => let v := leNat p; (List.range (8 * g / w)).map fun i => bits v (i * w) w).take n

/-- Codes of w bits as a little-endian stream, rounded up to whole bytes. -/
def pack (w : Nat) (cs : List Nat) : List Byte :=
  let g := groupBytes w
  (((pieces (8 * g / w) cs).flatMap fun p =>
    leBytes g ((p.zipIdx).foldl (fun a (c, i) => a + c % 2 ^ w * 2 ^ (i * w)) 0))).take (ceilDiv (cs.length * w) 8)

/-- FP32 values of bytes. -/
def f32s (l : List Byte) : List F32 := (pieces 4 l).map fun p => BitVec.ofNat 32 (leNat p)

/-- Bytes of FP32 values. -/
def f32Bytes (l : List F32) : List Byte := l.flatMap fun x => leBytes 4 x.toNat

/-- The element values of a chunk in a format, completed with +0 to whole fold blocks (03 R54). -/
def chunkVals (f n : Nat) (l : List Byte) : List Val :=
  let vs := (unpack (fmtBits f) n l).map (readElem f)
  vs ++ List.replicate (32 * ceilDiv n 32 - vs.length) (.fin false 0 0)

/-! ### Block exponents and alignment (03 R55, R56, R59, R61) -/

/-- Block exponent byte of 32 elements. -/
def blockByte (vs : List Val) : Nat :=
  if vs.any fun v => match v with | .fin _ _ _ => false | _ => true then 0xFF
  else
    let a := vs.foldl (fun a v => match v with | .fin _ m e => magMax a (m, e) | _ => a) (0, 0)
    if a.1 = 0 then 0 else (floorLog a.1 a.2 + 127).toNat

/-- Block exponent bytes of values. -/
def blockBytes (vs : List Val) : List Byte := (pieces 32 vs).map fun b => BitVec.ofNat 8 (blockByte b)

/-- Unsigned maximum of two exponent lists; absence counts as 0x00. -/
def maxBytes (a b : List Byte) : List Byte :=
  if a.length < b.length then List.zipWith (fun x y => if x.toNat < y.toNat then y else x) (padTo b.length a) b
  else List.zipWith (fun x y => if x.toNat < y.toNat then y else x) a (padTo a.length b)

/-- trunc_toward_zero(x × 2^k), and whether non-zero bits were dropped. -/
def alignElem (k : Int) : Val → Int × Bool
  | .fin n m e =>
    let sh := e + k
    let q := if 0 ≤ sh then m * 2 ^ sh.toNat else m / 2 ^ (-sh).toNat
    let lost := if 0 ≤ sh then false else decide (m % 2 ^ (-sh).toNat ≠ 0)
    (if n then -(q : Int) else q, lost)
  | _ => (0, false)

/-- Special summary of a block (03 R61). -/
def summary (vs : List Val) : Nat :=
  let has := fun p => b2n (vs.any p)
  has (· == .nan) + 2 * has (· == .inf false) + 4 * has (· == .inf true)

/-- Lanes of one block for its merged byte, with the count of lossy elements; `top` is 46, or 30 − h for SUM32. -/
def alignBlock (top : Int) (b : Nat) (vs : List Val) : List Int × Nat :=
  if b = 0 then (vs.map fun _ => 0, 0)
  else if b = 0xFF then ((summary vs : Int) :: (vs.drop 1).map fun _ => 0, 0)
  else
    let r := vs.map (alignElem (top - ((b : Int) - 127)))
    (r.map (·.1), (r.filter (·.2)).length)

/-- Lanes of a contribution for the merged bytes. -/
def alignVals (top : Int) (merged : List Byte) (vs : List Val) : List Int × Nat :=
  let r := List.zipWith (fun b v => alignBlock top b.toNat v) merged (pieces 32 vs)
  (r.flatMap (·.1), (r.map (·.2)).sum)

/-- Adds two partial sums lane by lane; summaries of special blocks merge by OR (03 R57, R61). -/
def addLanes (merged : List Byte) (a b : List Int) : List Int :=
  (List.zipWith (fun (m : Byte) (p : List Int × List Int) =>
    if m = 0xFF then
      List.zipWith (fun x y => (((x.toNat ||| y.toNat : Nat)) : Int)) p.1 p.2
    else List.zipWith (· + ·) p.1 p.2) merged ((pieces 32 a).zip (pieces 32 b))).flatten

/-- Lanes on the wire: two's complement of n bytes. -/
def laneBytes (n : Nat) (l : List Int) : List Byte := l.flatMap fun x => leBytes n (x % (2 : Int) ^ (8 * n)).toNat

/-- Lanes from the wire. -/
def lanesOf (n : Nat) (l : List Byte) : List Int := (pieces n l).map fun p => sgnOf (8 * n) (leNat p)

/-- h of SUM32 (03 R59). -/
def sum32h (n : Nat) : Nat := if n ≤ 1 then 0 else Nat.log2 (n - 1) + 1

/-- The bit position that 2^E takes: 46, or 30 − h. -/
def topOf (fop n : Nat) : Int := if fop = fopSum32 then 30 - (sum32h n : Int) else 46

/-- Writes one value in the result format and counts FE_FOLD_RANGE (03 R58, R61). -/
def writeResult (f : Nat) (sat : Bool) (v : Val) : Nat × Nat :=
  let r := writeElem f sat 0 0 v
  (r.1, b2n r.2)

/-- One value for a special block (03 R61). -/
def specialVal (sum : Nat) : Val :=
  if sum % 2 = 1 ∨ sum / 2 % 4 = 3 ∨ sum = 0 then .nan else if sum / 2 % 2 = 1 then .inf false else .inf true

/-- Results of one block: the element values and whether it was special. -/
def blockResults (top : Int) (b : Nat) (lanes : List Int) : List Val × Bool :=
  if b = 0xFF then
    let v := specialVal ((lanes.headD 0).toNat % 8)
    (lanes.map fun _ => v, true)
  else (lanes.map fun s => if b = 0 then .fin false 0 0 else (Val.ofInt s).shift ((b : Int) - 127 - top), false)

/-- Result values of a chunk (03 R58), and the number of special blocks. -/
def sumResults (top : Int) (merged : List Byte) (lanes : List Int) : List Val × Nat :=
  let r := List.zipWith (fun (b : Byte) p => blockResults top b.toNat p) merged (pieces 32 lanes)
  (r.flatMap (·.1), (r.filter (·.2)).length)

/-- Codes of result values and how many overflowed. -/
def writeVals (f : Nat) (sat : Bool) (vs : List Val) : List Nat × Nat :=
  let r := vs.map (writeResult f sat)
  (r.map (·.1), (r.map (·.2)).sum)

/-! ### Maximum, minimum, bitwise and integer sums (03 R53, R66 to R68) -/

/-- Identity code of MAX, MIN and the bitwise operations. -/
def identityCode (fop f : Nat) : Nat :=
  match fop with
  | 3 => if fmtInt f then 2 ^ (fmtBits f - 1) else (writeElem f false 0 0 (if f = 3 then .fin true 448 0 else .inf true)).1
  | 4 => if fmtInt f then 2 ^ (fmtBits f - 1) - 1 else (writeElem f false 0 0 (if f = 3 then .fin false 448 0 else .inf false)).1
  | 5 => 2 ^ fmtBits f - 1
  | _ => 0

/-- One element of MAX, MIN, AND, OR or XOR. -/
def combine (fop f a b : Nat) : Nat :=
  match fop with
  | 3 => if fmtInt f then (if sgnOf (fmtBits f) a < sgnOf (fmtBits f) b then b else a)
         else (writeElem f false 0 0 ((readElem f a).max (readElem f b))).1
  | 4 => if fmtInt f then (if sgnOf (fmtBits f) b < sgnOf (fmtBits f) a then b else a)
         else (writeElem f false 0 0 ((readElem f a).min (readElem f b))).1
  | 5 => a &&& b
  | 6 => a ||| b
  | _ => a ^^^ b

/-- The element as a single contribution leaves it: MAX and MIN write the value read. -/
def settle (fop f a : Nat) : Nat :=
  if (fop = fopMax ∨ fop = fopMin) ∧ !fmtInt f then (writeElem f false 0 0 (readElem f a)).1 else a

/-- Folds codes of several inputs. -/
def combineAll (fop f n : Nat) (ins : List (List Nat)) : List Nat :=
  match ins with
  | [] => List.replicate n (identityCode fop f)
  | a :: t => t.foldl (List.zipWith (combine fop f)) (a.map (settle fop f))

/-- Sums of INT contributions. -/
def intLanes (f n : Nat) (l : List Byte) : List Int := (unpack (fmtBits f) n l).map (sgnOf (fmtBits f))

/-- Adds plain lanes. -/
def addPlain (a b : List Int) : List Int := List.zipWith (· + ·) a b

/-! ### Ordered fold (03 R64) -/

/-- The ordered fold of one element over its present slots. -/
def orderedVal (l : List F32) : F32 :=
  match l with
  | [] => 0#32
  | a :: t => t.foldl F32.add a

/-- A long-class contribution read under R32 as FP32. -/
def toF32 (f c : Nat) : F32 := (readElem f c).f32

/-- Transposes equally long lists. -/
def columns {α : Type} (d : α) (n : Nat) (l : List (List α)) : List (List α) :=
  (List.range n).map fun i => l.map fun r => r.getD i d

/-- The ordered fold of chunks whose present slots stand in slot order. -/
def orderedVals (f n : Nat) (ins : List (List Byte)) : List Val :=
  let rows := ins.map fun l => (unpack (fmtBits f) n l).map (toF32 f)
  (columns 0#32 n rows).map fun c => (orderedVal c).val

/-! ### Log-sum-exp (03 R69 to R71, 07 R178, R179) -/

/-- A group of 32 rows of a contribution: m, l, and o by row. -/
structure LseGroup where
  m : List F32
  l : List F32
  o : List (List F32)
  deriving DecidableEq, Repr

/-- Bytes of one group at width d. -/
def lseGroupBytes (d : Nat) : Nat := 128 * (d + 2)

/-- The groups of a contribution or of a MERGED result. -/
def lseGroups (d : Nat) (l : List Byte) : List LseGroup :=
  (pieces (lseGroupBytes d) l).map fun g =>
    let x := f32s g
    { m := x.take 32, l := (x.drop 32).take 32, o := pieces d (x.drop 64) }

/-- A group of empty rows. -/
def lseEmpty (d : Nat) : LseGroup :=
  { m := List.replicate 32 F32.negInf, l := List.replicate 32 0#32, o := List.replicate 32 (List.replicate d 0#32) }

/-- Scales a group by the merged maxima (R70 step 3); a row with m = −Inf is absent. -/
def LseGroup.scale (g : LseGroup) (mx : List F32) : LseGroup :=
  let w := List.zipWith (fun m x => if F32.val m == .inf true then none else some (F32.exp2 (F32.sub m x))) g.m mx
  { m := mx
    l := List.zipWith (fun (w : Option F32) l => match w with | some w => F32.mul l w | none => 0#32) w g.l
    o := List.zipWith (fun (w : Option F32) r => r.map fun o => match w with | some w => F32.mul o w | none => 0#32) w g.o }

/-- Round 1 of a contribution: its m values. -/
def lseRound1 (gs : List LseGroup) : List Byte := gs.flatMap fun g => f32Bytes g.m

/-- MAX of two round-1 lists (R66). -/
def lseMax (a b : List Byte) : List Byte := f32Bytes (List.zipWith F32.max (f32s a) (f32s b))

/-- The values of a scaled group in lane order: l, then o row by row. -/
def LseGroup.vals (g : LseGroup) : List Val := (g.l ++ g.o.flatten).map F32.val

/-- Lane values of a contribution once the maxima are known. -/
def lseVals (d : Nat) (maxe : List Byte) (data : List Byte) : List Val :=
  let mx := pieces 32 (f32s maxe)
  (List.zipWith LseGroup.scale (lseGroups d data) mx).flatMap LseGroup.vals

/-- One row of the result (R70 step 6, R71): m or lse, l, o, whether it counts as empty. `nan` tells that its l or o holds a NaN
among the present contributions; an empty row has none. -/
def lseRow (final : Bool) (m l : F32) (o : List F32) (nan : Bool) : F32 × F32 × List F32 × Bool :=
  let poisoned := F32.isNan m || F32.val m == .inf false || nan
  if F32.val m == .inf true then (F32.negInf, 0#32, o.map fun _ => 0#32, true)
  else if poisoned then (F32.qnan, F32.qnan, o.map fun _ => F32.qnan, false)
  else if final && l == 0#32 then (F32.negInf, 0#32, o.map fun _ => 0#32, true)
  else if final then
    let q := F32.rcp l
    (F32.add m (F32.log2 l), l, o.map fun x => F32.mul x q, false)
  else (m, l, o, false)

/-- Results of one group from its maxima, its L and O values under a SAT (R70 step 5), and the NaN flags of its rows' l and of its
blocks; with each row, how many of its L and O overflow. -/
def lseGroupRows (final sat : Bool) (d : Nat) (mx : List F32) (vals : List Val) (lnan blocks : List Bool) :
    List ((F32 × F32 × List F32 × Bool) × Nat) :=
  let ws := vals.map (writeElem 0 sat 0 0)
  let per := d / 32
  (List.range 32).map fun r =>
    let lo := (ws.drop r).take 1 ++ (ws.drop (32 + r * d)).take d
    let fs : List F32 := lo.map fun w => BitVec.ofNat 32 w.1
    let row := lseRow final (mx.getD r 0) (fs.headD 0) fs.tail (lnan.getD r false || ((blocks.drop (1 + r * per)).take per).any id)
    (row, if row.2.2.2 then 0 else (lo.filter (·.2)).length)

end Sys2Proof.Machine
end

