-- ==== Sys2Proof/Machine/Optim.lean ====
section
/-!
DEFINITION. Machine/Optim.lean: dot products of the matrix engine (02 R47, R48) and the optimizers' arithmetic (05 R122 to
R125).
-/
namespace Sys2Proof.Machine

open Sys2Proof

/-! ### Dot products (02 R47, R48) -/

/-- The value of one group of exact products, none where every product is zero. -/
def dotGroup (ps : List Val) : Option Val :=
  if ps.any (· == .nan) then some .nan
  else
    let infs := ps.filter fun p => match p with | .inf _ => true | _ => false
    match infs with
    | a :: t => some (t.foldl Val.add a)
    | [] =>
      let top := ps.foldl (fun a p => match p with | .fin _ m e => magMax a (m, e) | _ => a) (0, 0)
      if top.1 = 0 then none
      else
        let k := 26 - floorLog top.1 top.2
        some ((Val.ofInt ((ps.map fun p => (alignElem k p).1).sum)).shift (-k))

/-- Runs an accumulator over products in groups of 32 (02 R47, R48); opposite infinities give NaN (DESIGN CHOICE, log 88). -/
def dotAcc (acc : F32) (ps : List Val) : F32 :=
  (pieces 32 ps).foldl (fun a g =>
    match dotGroup g with
    | some v => (a.val.add v).f32
    | none => a) acc

/-- A matrix by rows. -/
abbrev Mat := List (List F32)

/-- The transpose of a matrix with n columns. -/
def Mat.transpose (n : Nat) (a : Mat) : Mat := columns 0#32 n a

/-- A · Bᵀ with B by rows: every row of A with every row of B. -/
def Mat.mulT (a b : Mat) : Mat :=
  a.map fun r => b.map fun c => dotAcc 0#32 (List.zipWith (fun x y => Val.mul (F32.val x) (F32.val y)) r c)

/-- Rounds to BF16 and reads back as FP32; nothing counts (DESIGN CHOICE, log 93). -/
def toBf16 (x : F32) : F32 := (readElem 1 (writeElem 1 false 0 0 x.val).1).f32

def Mat.each (f : F32 → F32) (a : Mat) : Mat := List.map (List.map f) a

def Mat.zip (f : F32 → F32 → F32) (a b : Mat) : Mat := List.zipWith (List.zipWith f) a b

/-! ### Helpers (05 R122) -/

/-- sqrtz. -/
def F32.sqrtz (x : F32) : F32 := if F32.isZero x then 0#32 else F32.mul x (F32.rsqrt x)

/-- Halves the lanes: lane j := lane j + lane j + h. -/
def laneHalve : Nat → List F32 → List F32
  | 0, l => l
  | n + 1, l =>
    let h := 2 ^ n
    laneHalve n (List.zipWith F32.add (l.take h) ((l.drop h).take h))

/-- lanesum. -/
def laneSum (xs : List F32) : F32 :=
  let lanes := (pieces 128 xs).foldl (fun acc p =>
    List.zipWith (fun a (b : Option F32) => match b with | some b => F32.add a b | none => a) acc
      (p.map some ++ List.replicate (128 - p.length) none)) (List.replicate 128 0#32)
  (laneHalve 7 lanes).headD 0#32

/-- Sum of squares. -/
def sumSquares (xs : List F32) : F32 := laneSum (xs.map fun x => F32.mul x x)

/-! ### Shard flags (05 R106) -/

def Shard.flag (d : Shard) (i : Nat) : Bool := bitOf d.flags.toNat i
def Shard.nesterov (d : Shard) : Bool := d.flag 0
def Shard.momBf16 (d : Shard) : Bool := d.flag 1
def Shard.momSr (d : Shard) : Bool := d.flag 2
def Shard.lrTable (d : Shard) : Bool := d.flag 3
def Shard.noM1 (d : Shard) : Bool := d.flag 4

/-- The shard is updated as a whole once every chunk is parked (05 R116). -/
def Shard.whole (d : Shard) : Bool := d.opt == 3 || d.opt == 4

/-! ### Updates (05 R123) -/

/-- The hyperparameters of one update: β1, β2, ε, λ, η, and rcp(1 − P1), rcp(1 − P2). -/
structure Hyper where
  opt  : Nat
  nest : Bool
  noM1 : Bool
  b1   : F32
  b2   : F32
  eps  : F32
  wd   : F32
  lr   : F32
  a1   : F32
  a2   : F32

/-- The hyperparameters of a shard for a step, P1 and P2 after R125. -/
def Shard.hyper (d : Shard) (lr p1 p2 : F32) : Hyper where
  opt := d.opt
  nest := d.nesterov
  noM1 := d.noM1
  b1 := d.b1
  b2 := d.b2
  eps := d.eps
  wd := d.wd
  lr := lr
  a1 := F32.rcp (F32.sub F32.one p1)
  a2 := F32.rcp (F32.sub F32.one p2)

/-- w − η × fma(WD, w, d). -/
def Hyper.step (h : Hyper) (w d : F32) : F32 := F32.sub w (F32.mul h.lr (F32.fma h.wd w d))

/-- One element under SGD, ADAMW or SIGNM: the new w, m and v. -/
def Hyper.elem (h : Hyper) (g w m v : F32) : F32 × F32 × F32 :=
  let c1 := F32.sub F32.one h.b1
  let c2 := F32.sub F32.one h.b2
  match h.opt with
  | 0 =>
    if h.noM1 then (h.step w g, m, v)
    else
      let m := F32.fma h.b1 m g
      (h.step w (if h.nest then F32.add g (F32.mul h.b1 m) else m), m, v)
  | 1 =>
    let m := F32.fma h.b1 m (F32.mul c1 g)
    let v := F32.fma h.b2 v (F32.mul c2 (F32.mul g g))
    let u := F32.mul (F32.mul m h.a1) (F32.rcp (F32.add (F32.sqrtz (F32.mul v h.a2)) h.eps))
    (h.step w u, m, v)
  | _ =>
    let d := F32.sgn (F32.fma h.b1 m (F32.mul c1 g))
    (h.step w d, F32.fma h.b2 m (F32.mul c2 g), v)

/-- FACTORED over a whole matrix: new w, m, and the row and column accumulators (05 R123); a lanesum is formed before it is
multiplied (DEDUCED, log 92). -/
def factored (h : Hyper) (aux : F32) (rows cols : Nat) (g w m : Mat) (r s : List F32) : Mat × Mat × List F32 × List F32 :=
  let c2 := F32.sub F32.one h.b2
  let q := g.map fun row => row.map fun x => F32.fma x x aux
  let rc := F32.rcp (Val.ofInt cols).f32
  let rr := F32.rcp (Val.ofInt rows).f32
  let r := List.zipWith (fun x row => F32.fma h.b2 x (F32.mul c2 (F32.mul (laneSum row) rc))) r q
  let s := List.zipWith (fun x col => F32.fma h.b2 x (F32.mul c2 (F32.mul (laneSum col) rr))) s (Mat.transpose cols q)
  let inv := F32.rcp (laneSum r)
  let u := List.zipWith (fun ri row => List.zipWith (fun sj x => F32.mul x (F32.rsqrt (F32.mul (F32.mul ri sj) inv))) s row) r g
  let c1 := F32.sub F32.one h.b1
  let m' := if h.noM1 then m else Mat.zip (fun a b => F32.fma h.b1 a (F32.mul c1 b)) m u
  let d := if h.noM1 then u else m'
  (Mat.zip h.step w d, m', r, s)

/-- ns5 (05 R124): five rounds on BF16 operands. -/
def ns5Round (x : Mat) : Mat :=
  let a := Mat.each toBf16 (Mat.mulT x x)
  let b := Mat.each toBf16 (Mat.zip (fun p q => F32.add (F32.mul 0xC0980000#32 p) (F32.mul 0x40000000#32 q)) a (Mat.mulT a a))
  let cols := (x.headD []).length
  Mat.each toBf16 (Mat.zip (fun p q => F32.add (F32.mul 0x405C0000#32 p) q) x (Mat.mulT b (Mat.transpose cols x)))

def ns5Loop : Nat → Mat → Mat
  | 0, x => x
  | n + 1, x => ns5Loop n (ns5Round x)

def ns5 (rows cols : Nat) (x : Mat) : Mat :=
  let f := F32.add (F32.sqrtz (sumSquares x.flatten)) 0x33800000#32
  let k := F32.rcp f
  let y := Mat.each (fun v => toBf16 (F32.mul v k)) x
  if cols < rows then Mat.transpose rows (ns5Loop 5 (Mat.transpose cols y)) else ns5Loop 5 y

/-- ORTHO over a whole matrix: new w and m. -/
def ortho (h : Hyper) (aux : F32) (rows cols : Nat) (g w m : Mat) : Mat × Mat :=
  let m' := Mat.zip (fun a b => F32.fma h.b1 a b) m g
  let x := if h.nest then Mat.zip (fun a b => F32.fma h.b1 a b) m' g else m'
  let y := ns5 rows cols x
  (Mat.zip (fun w d => h.step w (F32.mul aux d)) w y, m')

end Sys2Proof.Machine
end

