-- ==== Sys2Proof/Machine/Ledger.lean ====
section
/-!
DEFINITION. Machine/Ledger.lean: state shards and their banks, carry, digests, the commit word, commit and refusal (05 R106 to
R137).
-/
namespace Sys2Proof.Machine

open Sys2Proof

/-! ### Layout of a bank (05 R108) -/

/-- Rounds up to whole granules. -/
def padGranule (n : Nat) : Nat := roundUp n granuleBytes

/-- Bytes of one moment. -/
def Shard.momBytes (d : Shard) : Nat := if d.momBf16 then 2 else 4

/-- The shard has a first moment. -/
def Shard.hasM (d : Shard) : Bool := !d.noM1

/-- Offset of each array within the shard: master, first moment, second moment or accumulators, end. -/
def Shard.offW (_d : Shard) : Nat := granuleBytes
def Shard.offM (d : Shard) : Nat := d.offW + padGranule (4 * d.count)
def Shard.offV (d : Shard) : Nat := d.offM + (if d.hasM then padGranule (d.momBytes * d.count) else 0)
def Shard.bytes (d : Shard) : Nat :=
  d.offV + (if d.opt = 1 then padGranule (d.momBytes * d.count) else if d.opt = 3 then padGranule (4 * (d.rows + d.cols)) else 0)

/-- Offsets of shards in increasing number, from a base. -/
def layoutFrom : Nat → List Shard → List (Shard × Nat)
  | _, [] => []
  | o, d :: t => (d, o) :: layoutFrom (o + d.bytes) t

/-- Shards with their offsets in a bank. -/
def State.layout (s : State) : List (Shard × Nat) := layoutFrom 0 s.led.shards

/-- Bytes of all shards. -/
def bankBytes (l : List Shard) : Nat := (l.map Shard.bytes).sum

/-- A shard and its offset. -/
def State.shardAt (s : State) (n : Nat) : Option (Shard × Nat) := s.layout.find? fun e => e.1.num == n

/-- The target bank. -/
def State.tgtB (s : State) : Bool := !s.led.srcB

/-- Segments of a shard. -/
def Shard.segments (d : Shard) : Nat := ceilDiv d.count 1024

/-! ### Reading and writing arrays -/

/-- FP32 values [first, first + n) of the array at an address. -/
def State.readF32 (s : State) (a first n : Nat) : List F32 := f32s (s.mem.read (a + 4 * first) (4 * n))

/-- Moments of a shard as FP32. -/
def State.readMom (s : State) (d : Shard) (a first n : Nat) : List F32 :=
  if d.momBf16 then (unpack 16 n (s.mem.read (a + 2 * first) (2 * n))).map (toF32 1)
  else s.readF32 a first n

/-- Seed registry entry q as four words (05 R136). -/
def State.seed (s : State) (q : Nat) : Quad :=
  let w := fun i => BitVec.ofNat 32 (leAt s.led.seeds (16 * q + 4 * i) 4)
  (w 0, w 1, w 2, w 3)

/-- Bytes of moments as stored: BF16 with RNE or SR, or FP32 (05 R122); nothing counts (DESIGN CHOICE, log 93). -/
def State.momBytesOf (s : State) (d : Shard) (step first draw : Nat) (xs : List F32) : List Byte :=
  if d.momBf16 then
    pack 16 ((xs.zipIdx).map fun (x, i) =>
      (writeElem 1 false (if d.momSr then 2 else 0)
        (if d.momSr then (facet (s.seed 0) step d.num 1 (first + i) draw).toNat % 2 ^ 24 else 0) (F32.val x)).1)
  else f32Bytes xs

/-- T, P1 and P2 of a shard in a bank (05 R108). -/
def State.header (s : State) (bankB : Bool) (o : Nat) : Nat × F32 × F32 :=
  let h := s.mem.read (s.bankAddr bankB + o + 64) 16
  (leAt h 0 8, BitVec.ofNat 32 (leAt h 8 4), BitVec.ofNat 32 (leAt h 12 4))

/-- The first 80 bytes of a header granule. -/
def headerBytes (d : Shard) (t : Nat) (p1 p2 : F32) : List Byte :=
  padTo 64 d.raw ++ leBytes 8 t ++ leBytes 4 p1.toNat ++ leBytes 4 p2.toNat

/-- Writes a header granule. -/
def State.setHeader (s : State) (bankB : Bool) (o : Nat) (d : Shard) (t : Nat) (p1 p2 : F32) : State :=
  s.stateWrite (s.bankAddr bankB + o) (padTo granuleBytes (headerBytes d t p1 p2))

/-- The first update of a shard in a step advances T, P1 and P2 in the target header (05 R125). -/
def State.firstUpdate (s : State) (d : Shard) (o : Nat) : State :=
  if s.led.updated.contains d.num then s
  else
    let (t, p1, p2) := s.header s.led.srcB o
    let u := s.setHeader s.tgtB o d (if t < maxWord then t + 1 else maxWord) (F32.mul p1 d.b1) (F32.mul p2 d.b2)
    { u with led := { u.led with updated := u.led.updated ++ [d.num] } }

/-- Segments that elements [first, first + n) of a shard touch. -/
def segmentsOf (first n : Nat) : List Nat :=
  if n = 0 then [] else (List.range ((first + n - 1) / 1024 + 1 - first / 1024)).map fun i => first / 1024 + i

/-- Marks segments written (05 R110). -/
def State.markSegments (s : State) (d : Shard) (segs : List Nat) (elems : Nat) : State :=
  { s with led := { s.led with marked := s.led.marked ++ segs.map (fun g => (d.num, g)), elems := s.led.elems + elems } }

/-- A segment of these is already marked (05 R114). -/
def State.overlaps (s : State) (d : Shard) (segs : List Nat) : Bool := segs.any fun g => s.led.marked.contains (d.num, g)

/-- Updates elements [first, first + g.length) of a shard from its source bank (05 R114 step 4); answers the new weights. -/
def State.applyElems (s : State) (d : Shard) (o first step : Nat) (lr : F32) (g : List F32) : List F32 × State :=
  let n := g.length
  let s := s.firstUpdate d o
  let (_, p1, p2) := s.header s.tgtB o
  let h := d.hyper lr p1 p2
  let src := s.bankAddr s.led.srcB + o
  let dst := s.bankAddr s.tgtB + o
  let w := s.readF32 (src + d.offW) first n
  let m := if d.hasM then s.readMom d (src + d.offM) first n else List.replicate n 0#32
  let v := if d.opt = 1 then s.readMom d (src + d.offV) first n else List.replicate n 0#32
  let r := (g.zip (w.zip (m.zip v))).map fun (g, w, m, v) => h.elem g w m v
  let w' := r.map (·.1)
  let s := s.stateWrite (dst + d.offW + 4 * first) (f32Bytes w')
  let s := if d.hasM then s.stateWrite (dst + d.offM + d.momBytes * first) (s.momBytesOf d step first 1 (r.map (·.2.1))) else s
  let s := if d.opt = 1 then s.stateWrite (dst + d.offV + d.momBytes * first) (s.momBytesOf d step first 2 (r.map (·.2.2))) else s
  (w', s.markSegments d (segmentsOf first n) n)

/-- Updates a whole FACTORED or ORTHO shard with its whole gradient (05 R116, R123). -/
def State.applyWhole (s : State) (d : Shard) (o step : Nat) (lr : F32) (g : List F32) : State :=
  let s := s.firstUpdate d o
  let (_, p1, p2) := s.header s.tgtB o
  let h := d.hyper lr p1 p2
  let src := s.bankAddr s.led.srcB + o
  let dst := s.bankAddr s.tgtB + o
  let mat := fun (l : List F32) => pieces d.cols l
  let w := mat (s.readF32 (src + d.offW) 0 d.count)
  let m := mat (if d.hasM then s.readMom d (src + d.offM) 0 d.count else List.replicate d.count 0#32)
  let putM := fun (s : State) (m : Mat) =>
    if d.hasM then s.stateWrite (dst + d.offM) (s.momBytesOf d step 0 1 m.flatten) else s
  let s :=
    if d.opt = 3 then
      let acc := s.readF32 (src + d.offV) 0 (d.rows + d.cols)
      let (w', m', r, c) := factored h d.aux d.rows d.cols (mat g) w m (acc.take d.rows) (acc.drop d.rows)
      let s := putM (s.stateWrite (dst + d.offW) (f32Bytes w'.flatten)) m'
      s.stateWrite (dst + d.offV) (f32Bytes (r ++ c))
    else
      let (w', m') := ortho h d.aux d.rows d.cols (mat g) w m
      putM (s.stateWrite (dst + d.offW) (f32Bytes w'.flatten)) m'
  s.markSegments d (List.range d.segments) d.count

/-! ### Carry (05 R110) -/

/-- Copies bytes between the banks. -/
def State.copyBank (s : State) (off n : Nat) : State :=
  if n = 0 then s else s.stateWrite (s.bankAddr s.tgtB + off) (s.mem.read (s.bankAddr s.led.srcB + off) n)

/-- Segments of a shard that the running step has not marked. -/
def State.unmarked (s : State) (d : Shard) : List Nat :=
  (List.range d.segments).filter fun g => !(s.led.marked.contains (d.num, g))

/-- What the carry copies of a shard at an offset, as ranges of the bank: its unmarked segments, and header and accumulators where the
step has not updated it. -/
def State.carryParts (s : State) (d : Shard) (o : Nat) : List (Nat × Nat) :=
  ((s.unmarked d).flatMap fun g =>
    let first := 1024 * g
    let n := min 1024 (d.count - first)
    [(o + d.offW + 4 * first, 4 * n)]
    ++ (if d.hasM then [(o + d.offM + d.momBytes * first, d.momBytes * n)] else [])
    ++ (if d.opt = 1 then [(o + d.offV + d.momBytes * first, d.momBytes * n)] else []))
  ++ (if s.led.updated.contains d.num then []
      else [(o, granuleBytes)] ++ (if d.opt = 3 then [(o + d.offV, 4 * (d.rows + d.cols))] else []))

/-- Carries one shard. -/
def State.carryShard (s : State) (d : Shard) (o : Nat) : State :=
  ((s.carryParts d o).foldl (fun t e => t.copyBank e.1 e.2) s).bump .ledCarry (s.unmarked d).length

/-- The ranges of a bank that the carry of the running step copies. -/
def State.carryRanges (s : State) (bankB : Bool) : List (Nat × Nat) :=
  (s.layout.flatMap fun e => s.carryParts e.1 e.2).map fun e => (s.bankAddr bankB + e.1, e.2)

/-- The carry of the running step. -/
def State.carryAll (s : State) : State :=
  let t := s.layout.foldl (fun t e => t.carryShard e.1 e.2) s
  { t with led := { t.led with carried := true } }

/-! ### Digest and commit word (05 R126 to R130) -/

/-- D: the sum of the terms of every granule of every shard in the target bank. -/
def State.digest (s : State) : Word :=
  let base := s.bankAddr s.tgtB / granuleBytes
  (List.range (bankBytes s.led.shards / granuleBytes)).foldl (fun a i => a + s.termOf (base + i)) 0

/-- The module has no generation (05 R129). -/
def State.noGen (s : State) : Bool := s.led.step == maxWord

/-- Step g is behind the module: LED_STEP ≥ g. -/
def State.stepDone (s : State) (g : Nat) : Bool := !s.noGen && decide (g ≤ s.led.step)

/-- LED_STEP < g − 1. -/
def State.stepLags (s : State) (g : Nat) : Bool := !s.noGen && decide (s.led.step + 1 < g)

/-- The plan of a slot has the COMMIT bit. -/
def State.isCommitPlan (s : State) (n : Nat) : Bool :=
  match (s.plan n).bind (·.coll) with
  | some k => k.commit
  | none => false

/-- The commit of a step is pending (05 R113). -/
def State.commitPending (s : State) (g : Nat) : Bool := s.led.opened.contains g && !s.stepDone g

/-- The RUG instances of a norm plan's clip group at a step. -/
def State.groupOpen (s : State) (normPlan step : Nat) : List (BitVec 20) :=
  s.openHdls.filter fun h => (s.slot h).step == step && (match (s.plan (planOf h)).bind (·.coll) with
    | some k => k.kind == kRug && k.normPlan == normPlan
    | none => false)

/-- Everything R130 asks but the exchange: slots closed, mirrors applied, norm passes done, g − 1 settled, the carry
complete. A norm pass is done with its sum, or once no instance of its group is OPEN: they ended with it (R120). -/
def State.preReady (s : State) (g : Nat) : Bool :=
  (s.pl.slots.all fun e => e.2.step != g || e.2.state != .opened || s.isCommitPlan e.1.1)
  && (s.led.held.all fun m => m.step != g)
  && (s.led.norms.all fun n => n.step != g || n.total.isSome || (s.groupOpen n.plan g).isEmpty)
  && !(decide (0 < g) && s.commitPending (g - 1))
  && s.mem.heals.isEmpty
  && (s.led.carried || s.led.shards.isEmpty)

/-- The commit of g has begun here: a commit instance of g is OPEN, or the twin's DIGEST or notice for g has come (log 23). -/
def State.commitBegun (s : State) (g : Nat) : Bool :=
  (s.pl.slots.any fun e => e.2.step == g && e.2.state == .opened && s.isCommitPlan e.1.1)
  || (match s.led.twinDig with
      | some x => x.1 == g
      | none => false)
  || (match s.led.notice with
      | some x => x.1 == g
      | none => false)

/-- An uncorrectable state granule, or one of a learning-rate table, is still unhealed (05 R129, 11 R258). -/
def State.unhealed (s : State) : Bool := s.mem.bad.any fun g => (s.bankOf g).isSome || (s.regionOf g == .plan && s.tableIn g)

/-- This module's commit word for step g (05 R129). -/
def State.ownWord (s : State) (g : Nat) : BitVec 32 :=
  if s.stepDone g then 0
  else BitVec.ofNat 32 (Assoc.get 0 g s.led.words ||| (if s.stepLags g || s.unhealed then 4 else 0))

/-- The node runs with both twins (05 R127). -/
def State.paired (s : State) : Bool := s.twin.present && !s.twin.fenced

/-- Completes the exchange of step g once both halves are there (05 R127). -/
def State.exchange (s : State) (g : Nat) : State :=
  match s.led.sentDig with
  | none => s
  | some (h, d, w) =>
    if h ≠ g ∨ (s.led.final.map (·.1)) = some g then s
    else if !s.paired then { s with led := { s.led with final := some (g, w) } }
    else
      match s.led.twinDig with
      | none => s
      | some (k, td, tw) =>
        if k ≠ g then s
        else
          let t := { s with led := { s.led with final := some (g, w ||| tw ||| (if td = d then 0 else 1)) } }
          if td = d then t
          else (t.bump .ledDigestMismatch).raise evStateDigestMismatch s.twin.fa.toNat d.toNat

/-- The exchanged commit word of step g: the module is READY. -/
def State.readyWord (s : State) (g : Nat) : Option (BitVec 32) :=
  match s.led.final with
  | some (h, w) => if h = g then some w else none
  | none => none

/-- The word a commit instance takes from this module as one more input (05 R129, R130). -/
def State.commitInput (s : State) (g : Nat) : Option (BitVec 32) := if s.stepDone g then some 0 else s.readyWord g

/-! ### Commit and refusal (05 R131 to R133) -/

/-- The ledger record of step g; the new source bank is the present target bank. -/
def State.record (s : State) (g : Nat) (d : Word) : List Byte :=
  let prev := if s.led.chain0 then zeros 64 else s.led.ring.getLastD (zeros 64)
  let head := leBytes 8 g ++ (sha256 s.led.seeds).take 8 ++ leBytes 4 s.led.planset.toNat
    ++ leBytes 4 (b2n s.led.skipped + 2 * b2n s.tgtB) ++ leBytes 8 d.toNat ++ leBytes 4 s.led.norm.toNat
    ++ leBytes 4 s.led.updated.length ++ leBytes 8 s.led.elems
  let body := head ++ (sha256 (prev ++ head)).take 8
  body ++ leBytes 8 (crc64 body).toNat

/-- Clears what belongs to the steps up to g: bitmaps, updated shards, the carry and the exchange. What norm passes of a later step
have left goes into that step's record (05 R133). -/
def Ledger.endStep (l : Ledger) (g : Nat) : Ledger :=
  let later := l.norms.filter fun n => decide (g < n.step)
  { l with marked := [], updated := [], elems := 0, skipped := later.any (·.skips),
           norm := (later.filterMap (·.total)).getLastD 0, norms := later, carried := false, sentDig := none
           twinDig := l.twinDig.filter (fun x => decide (g < x.1)), final := none
           notice := l.notice.filter fun x => decide (g < x.1) }

/-- Appends a record to the ring of the last 256 (05 R134). -/
def Ledger.push (l : Ledger) (r : List Byte) : Ledger :=
  let ring := l.ring ++ [r]
  { l with ring := ring.drop (ring.length - 256), chain0 := false }

/-- Commits step g (05 R131): record, LED_STEP, SRC_BANK, bitmaps, LED_COMMIT, notice to the twin. -/
def State.commit (s : State) (g : Nat) : State :=
  let d := match s.led.sentDig with
    | some (h, d, _) => if h = g then d else s.digest
    | none => s.digest
  let rec' := s.record g d
  let t := { s with led :=
    { (s.led.push rec').endStep g with
      step := g, srcB := !s.led.srcB
      words := s.led.words.filter fun e => decide (g < e.1)
      opened := s.led.opened.filter fun x => decide (g < x) } }
  let t := t.bump .ledCommit
  let back := match s.mem.resilver with
    | some r => r.carrying && r.copyDone
    | none => false
  if s.twin.present && (!s.twin.fenced || back) then
    t.sendCtrl s.twin.fa kCtrl tcMgmt 0 (payCommit g rec')
  else t

/-- Ends every OPEN instance but the commit plan's where asked, ABORTED (05 R135). -/
def State.abortAll (s : State) (keepCommit : Bool) : State :=
  (s.openHdls.filter fun h => !(keepCommit && s.isCommitPlan (planOf h))).foldl (fun t h => t.endNow h stAborted []) s

/-- Clears slot records to FREE (05 R131, 04 R79), with what instances hold. -/
def State.clearSlots (s : State) (keepCommit : Bool) : State :=
  let keep := fun (n : Nat) => keepCommit && s.isCommitPlan n
  let gone := (s.pl.slots.filter fun e => !keep e.1.1).map fun e => mkHdl e.1.1 e.1.2
  let t := gone.foldl State.dropStreams s
  { t with pl := { t.pl with
    slots := t.pl.slots.filter fun e => keep e.1.1
    progs := t.pl.progs.filter fun e => keep (planOf e.1)
    waiting := t.pl.waiting.filter fun h => keep (planOf h)
    staged := t.pl.staged.filter fun w => keep (planOf w.msg.hdl)
    sparse := t.pl.sparse.filter fun e => keep e.1.1
    buckets := t.pl.buckets.filter fun e => keep e.1.1 } }

/-- Discards the running step (05 R131, R135). -/
def State.discardStep (s : State) : State :=
  { s with led := { s.led.endStep maxWord with words := [], opened := [], held := [] } }

/-- Refuses step g with the merged word (05 R131). -/
def State.refuse (s : State) (w : BitVec 32) : State :=
  let t := ((s.abortAll true).clearSlots true).discardStep
  (t.bump .ledRefused).raise evCommitRefused 0 w.toNat

/-- A barrier result for step g (05 R131). -/
def State.barrierResult (s : State) (g : Nat) (w : BitVec 32) : State :=
  if s.stepDone g || (s.readyWord g).isNone then s
  else if w = 0 then s.commit g
  else s.refuse w

/-! ### Opening RUG instances (05 R113) -/

/-- This node owns a chunk. -/
def State.owns (s : State) (o : Owner) : Bool := o.a == s.selfFa || o.b == s.selfFa

/-- Chunks of a RUG plan that this node owns. -/
def State.ownedChunks (s : State) (p : Plan) : List (Nat × Owner) :=
  ((p.owners.zipIdx).filter fun e => s.owns e.1).map fun e => (e.2, e.1)

/-- How a step stands for an owner: none refuses it, false runs now, true waits for the commit of C + 1. -/
def State.stepWaits (s : State) (g : Nat) : Option Bool :=
  if s.noGen || g == maxWord then none
  else if g = s.led.step + 1 then some false
  else if g = s.led.step + 2 ∧ s.commitPending (s.led.step + 1) then some true
  else none

/-- An owner accepts a RUG instance, or ends it ABORTED (05 R113). -/
def State.acceptRug (s : State) (hdl : BitVec 20) (p : Plan) : State :=
  let own := s.ownedChunks p
  if own.isEmpty then s
  else
    let v := s.slot hdl
    match s.stepWaits v.step with
    | none => (s.raise evStateStepBad hdl.toNat v.step).failInstance hdl stAborted []
    | some _ =>
      match own.find? fun e => match s.shardAt e.2.shard with
        | some d => decide (d.1.count < e.2.offset + p.chunkElems 0 e.1)
        | none => true with
      | some e => (s.raise evStateShardMissing hdl.toNat e.2.shard).failInstance hdl stAborted []
      | none => s

/-! ### Learning rate and conversion (05 R112, R116) -/

/-- η of a step for a shard: its table, or the launch scalar of the root's slot. -/
def learnRate (d : Shard) (v : Slot) : Option F32 :=
  if d.lrTable then d.table[min (v.step - d.start - 1) (d.table.length - 1)]? else v.scalar

/-- The vector engine that firmware gives a piece of work: one of those present (08 R189, log 7). -/
def State.engineFor (s : State) (hdl : BitVec 20) : Nat :=
  let here := (List.range 8).filter fun n => bitOf s.veMask n
  here.getD (Config.vectorEngine hdl.toNat % max 1 here.length) 0

/-- New weights in the gather format, overflows counted (05 R112). -/
def State.gatherBytes (s : State) (hdl : BitVec 20) (k : Coll) (w : List F32) : List Byte × State :=
  let r := w.map fun x => writeElem k.rfmt (satOf k.satsel k.rfmt) 0 0 (F32.val x)
  (pack (fmtBits k.rfmt) (r.map (·.1)), s.bump (.veConvertRange (s.engineFor hdl)) (r.filter (·.2)).length)

end Sys2Proof.Machine
end

