-- ==== Sys2Proof/Machine/Tensor.lean ====
section
/-!
DEFINITION. Machine/Tensor.lean: tensor descriptors, walks and element accesses (08 R191 to R193, R195).
-/
namespace Sys2Proof.Machine

open Sys2Proof

/-! ### Descriptors and walks (08 R191, R192) -/

def spCell : Nat := 0
def spWork : Nat := 1
def spModule : Nat := 2
def spRemote : Nat := 3

/-- REGION of a MODULE descriptor. -/
def rgSrc : Nat := 0
def rgTgt : Nat := 1

/-- Bytes of cell memory and of working memory (00, 08 R191). -/
def cellSpace : Nat := 134217728
def workSpace : Nat := 268435456

/-- The descriptor at a handle, of any installed plan (08 R192). -/
def State.descr (s : State) (h : Nat) : Option Descr :=
  (s.pl.plans.flatMap fun e => e.2.descs).findSome? fun d => if d.1 = h then some d.2 else none

/-- How many index tuples the walk visits. -/
def Descr.count (d : Descr) : Nat := d.dims.foldl (fun a x => a * x.1) 1

/-- The index tuple at a walk index: dimension 0 innermost. -/
def tupleOf : List (Nat × Int) → Nat → List Nat
  | [], _ => []
  | (n, _) :: t, i => i % max 1 n :: tupleOf t (i / max 1 n)

/-- The walk index of an index tuple. -/
def walkOf : List (Nat × Int) → List Nat → Nat
  | [], _ => 0
  | (n, _) :: t, ix => ix.headD 0 + n * walkOf t (ix.drop 1)

/-- The element offset of an index tuple (08 R193). -/
def offsetOf : List (Nat × Int) → List Nat → Int
  | [], _ => 0
  | (_, st) :: t, ix => (ix.headD 0 : Int) * st + offsetOf t (ix.drop 1)

/-- Every index lies below its SIZE. -/
def insideDims : List (Nat × Int) → List Nat → Bool
  | [], _ => true
  | (n, _) :: t, ix => decide (ix.headD 0 < n) && insideDims t (ix.drop 1)

/-! ### Addresses (08 R193) -/

/-- A place in one of the three spaces: the byte address and the bit within it at which an element of `w` bits begins. -/
structure Place where
  space : Nat
  addr  : Nat
  bit   : Nat
  w     : Nat
  deriving DecidableEq, Repr

/-- Bytes that an element touches. -/
def Place.bytes (p : Place) : Nat := ceilDiv (p.bit + p.w) 8

/-- First byte and length of the space or region that a descriptor lies in. -/
def State.windowOf (s : State) (d : Descr) : Nat × Nat :=
  let of := fun r => (s.regionAddr r, s.regionSize r * granuleBytes)
  if d.space = spCell then (0, cellSpace)
  else if d.space = spWork then (0, workSpace)
  else match d.region with
    | 0 => of (bankRegion s.led.srcB)
    | 1 => of (bankRegion s.tgtB)
    | 2 => of .kv
    | _ => of .plan

/-- Where an element of a descriptor lies, none where the access stops the op (08 R193). -/
def State.placeOf (s : State) (d : Descr) (ix : List Nat) (write : Bool) : Option Place :=
  let e := offsetOf d.dims ix
  let w := fmtBits d.fmt
  let win := s.windowOf d
  let lo := d.base * 8 + e.toNat * w
  if !insideDims d.dims ix || decide (e < 0) || decide (win.2 * 8 < lo + w) || d.space == spRemote
      || (write && d.space == spModule && d.region == rgSrc) then none
  else some { space := d.space, addr := win.1 + lo / 8, bit := lo % 8, w := w }

/-- Reads bytes of a space. -/
def State.spaceRead (s : State) (space a n : Nat) : List Byte :=
  if space = spCell then Ram.readN n a s.mem.cells
  else if space = spWork then Ram.readN n a s.mem.work
  else s.mem.read a n

/-- Writes bytes of a space; in a state bank as a mover does. -/
def State.spaceWrite (s : State) (space a : Nat) (l : List Byte) : State :=
  if space = spCell then { s with mem := { s.mem with cells := Ram.writeN a l s.mem.cells } }
  else if space = spWork then { s with mem := { s.mem with work := Ram.writeN a l s.mem.work } }
  else s.stateWrite a l

/-- Reads the code at a place. -/
def State.getCode (s : State) (p : Place) : Nat := bits (leNat (s.spaceRead p.space p.addr p.bytes)) p.bit p.w

/-- Writes the code at a place and keeps the bits around it (02 R36). -/
def State.putCode (s : State) (p : Place) (c : Nat) : State :=
  if p.bit = 0 ∧ p.w % 8 = 0 then s.spaceWrite p.space p.addr (leBytes (p.w / 8) c)
  else
    let v := leNat (s.spaceRead p.space p.addr p.bytes)
    let v' := v - bits v p.bit p.w * 2 ^ p.bit + c % 2 ^ p.w * 2 ^ p.bit
    s.spaceWrite p.space p.addr (leBytes p.bytes v')

/-- An element of module memory whose granule is bad waits for the heal (11 R259). -/
def State.placeReady (s : State) (p : Place) : Bool := p.space != spModule || s.memReady p.addr p.bytes

/-- An access to an element of module memory decodes its blocks (11 R256, R257). -/
def State.fetchPlace (s : State) (p : Place) : State := if p.space = spModule then s.fetchRange p.addr p.bytes else s

/-- Reads the raw code of an element. -/
def State.codeAt (s : State) (d : Descr) (ix : List Nat) : Option Nat := (s.placeOf d ix false).map s.getCode

/-- Where the scale of an element lies (08 R193). -/
def State.scalePlace (s : State) (d : Descr) (ix : List Nat) (write : Bool) : Option Place :=
  match s.descr d.scales with
  | none => none
  | some sc =>
    let i := (offsetOf d.dims ix).toNat / 32
    if i < sc.count then s.placeOf sc (tupleOf sc.dims i) write else none

/-- All of a list's values, none where one is missing. -/
def allOf {α : Type} (l : List (Option α)) : Option (List α) :=
  l.foldr (fun a r => match a, r with
    | some x, some xs => some (x :: xs)
    | _, _ => none) (some [])

/-- Reads the value of an element, its block scale included, and whether the code was T2's reserved one (02 R37). -/
def State.valAt (s : State) (d : Descr) (ix : List Nat) : Option (Val × Bool) :=
  match s.codeAt d ix with
  | none => none
  | some c =>
    let t2 := d.fmt == 0x0C && c == 2
    if d.scaled then (s.scalePlace d ix false).map fun p => ((readElem d.fmt c).scale (s.getCode p), t2)
    else some (readElem d.fmt c, t2)

/-- Writes the raw code of an element. -/
def State.putAt (s : State) (d : Descr) (ix : List Nat) (c : Nat) : Option State :=
  (s.placeOf d ix true).map fun p => s.putCode p c

/-- Writes codes at walk indices upward from one (08 R202), those inside the walk. -/
def State.putWalk (s : State) (d : Descr) (start : Nat) (cs : List Nat) : State :=
  (cs.zipIdx).foldl (fun t (c, i) => (t.putAt d (tupleOf d.dims (start + i)) c).getD t) s

/-- Least and greatest element offset of a descriptor. -/
def Descr.span (d : Descr) : Int × Int :=
  d.dims.foldl (fun (a : Int × Int) (x : Nat × Int) =>
    let k := ((x.1 : Int) - 1) * x.2
    if k < 0 then (a.1 + k, a.2) else (a.1, a.2 + k)) (0, 0)

/-- The bytes [lo, hi) that a descriptor spans, in its space or region. -/
def Descr.extent (d : Descr) : Int × Int :=
  let w : Int := fmtBits d.fmt
  let sp := d.span
  ((d.base : Int) + sp.1 * w / 8, (d.base : Int) + ((sp.2 + 1) * w + 7) / 8)

/-- Bytes [lo, hi) of one space or region. -/
structure Extent where
  space  : Nat
  region : Nat
  lo     : Int
  hi     : Int
  deriving DecidableEq, Repr

/-- Two extents overlap. -/
def Extent.meets (a b : Extent) : Bool :=
  a.space == b.space && (a.space != spModule || a.region == b.region) && decide (a.lo < b.hi) && decide (b.lo < a.hi)

/-- The bytes of a descriptor between two element offsets, both included. -/
def Descr.bytesAt (d : Descr) (sp : Int × Int) : Extent :=
  let w : Int := fmtBits d.fmt
  { space := d.space, region := d.region, lo := (d.base : Int) + sp.1 * w / 8, hi := (d.base : Int) + ((sp.2 + 1) * w + 7) / 8 }

/-- Least and greatest element offset among the walk indices a to b (08 R192). -/
def walkSpan : List (Nat × Int) → Nat → Nat → Int × Int
  | [], _, _ => (0, 0)
  | (n, st) :: t, a, b =>
    let m := max 1 n
    let row := fun (q lo hi : Nat) =>
      let at' := offsetOf t (tupleOf t q)
      (at' + min ((lo : Int) * st) ((hi : Int) * st), at' + max ((lo : Int) * st) ((hi : Int) * st))
    let join := fun (x y : Int × Int) => (min x.1 y.1, max x.2 y.2)
    if a / m = b / m then row (a / m) (a % m) (b % m)
    else
      let ends := join (row (a / m) (a % m) (m - 1)) (row (b / m) 0 (b % m))
      if a / m + 1 < b / m then
        let mid := walkSpan t (a / m + 1) (b / m - 1)
        let whole : Int := ((m : Int) - 1) * st
        join ends (mid.1 + min 0 whole, mid.2 + max 0 whole)
      else ends

/-- Two descriptors lie in the same space or region and overlap. -/
def Descr.meets (a b : Descr) : Bool :=
  a.space == b.space && (a.space != spModule || a.region == b.region)
  && decide (a.extent.1 < b.extent.2) && decide (b.extent.1 < a.extent.2)

/-! ### Loop nests (08 R195) -/

/-- Iterations of the nest. -/
def Op.total (o : Op) : Nat := o.levels.foldl (fun a l => a * l.trip) 1

/-- Iterations of the nest in one iteration of level l. -/
def Op.span (o : Op) (l : Nat) : Nat := (o.levels.take l).foldl (fun a x => a * x.trip) 1

/-- The indices of the levels at an iteration. -/
def levelIx : List Level → Nat → List Nat
  | [], _ => []
  | l :: t, i => i % max 1 l.trip :: levelIx t (i / max 1 l.trip)

def Op.indices (o : Op) (i : Nat) : List Nat := levelIx o.levels i

/-- The index tuple of handle j for the indices of the levels. -/
def Op.tupleAt (o : Op) (j ndim : Nat) (ixs : List Nat) : List Nat :=
  (List.range ndim).map fun k =>
    ((o.levels.zip ixs).find? fun (l, _) => natAt l.dsel j == k).elim 0 (·.2)

/-- The index tuple of handle j at an iteration. -/
def Op.tuple (o : Op) (j : Nat) (d : Descr) (i : Nat) : List Nat := o.tupleAt j d.dims.length (o.indices i)

/-- Some level advances dimension k of handle j. -/
def Op.drives (o : Op) (j k : Nat) : Bool := o.levels.any fun l => natAt l.dsel j == k

/-- The handle of an op, none for 0xFFFF. -/
def State.opDescr (s : State) (o : Op) (j : Nat) : Option Descr :=
  let h := natAt o.h j
  if h = 0xFFFF then none else s.descr h

/-- The tuples of a handle at an iteration of an op that takes whole tensors (log 33): the dimensions that no level drives
are walked, dimension 0 innermost. -/
def Op.free (o : Op) (j : Nat) (d : Descr) (i : Nat) : List (List Nat) :=
  let base := o.tuple j d i
  let dims := (d.dims.zipIdx).map fun (x, k) => if o.drives j k then (1, x.2) else x
  let n := dims.foldl (fun a (x : Nat × Int) => a * x.1) 1
  (List.range n).map fun m => List.zipWith (fun a b => a + b) base (tupleOf dims m)

/-- How many elements of a handle an iteration of an op that takes whole tensors goes through. -/
def Op.freeCount (o : Op) (j : Nat) (d : Descr) : Nat :=
  ((d.dims.zipIdx).filter fun (_, k) => !(o.drives j k)).foldl (fun a x => a * x.1.1) 1

/-- Dimensions of a handle as far as an op's addresses reach: a level's trip, 0 for a dimension that no level drives, or all of
it where `all` says that the op takes the dimension whole. -/
def Op.reachDims (o : Op) (j : Nat) (all : Nat → Bool) (d : Descr) : List (Nat × Int) :=
  (d.dims.zipIdx).map fun ((n, st), k) =>
    match o.levels.find? fun l => natAt l.dsel j == k with
    | some l => (min n l.trip, st)
    | none => if all k then (n, st) else (1, st)

/-- Reads the codes at tuples; stops where an access does (none at that place). -/
def State.codes (s : State) (d : Descr) (l : List (List Nat)) : List (Option Nat) := l.map (s.codeAt d)

/-- Writes codes at tuples in order; false where an access stopped it. -/
def State.putCodes : State → Descr → List (List Nat) → List Nat → State × Bool
  | s, _, _, [] => (s, true)
  | s, _, [], _ :: _ => (s, false)
  | s, d, ix :: t, c :: cs =>
    match s.putAt d ix c with
    | some u => State.putCodes u d t cs
    | none => (s, false)

end Sys2Proof.Machine
end

