-- ==== Sys2Proof/Machine/Sequence.lean ====
section
/-!
DEFINITION. Machine/Sequence.lean: sequence contexts: storing, replaying and releasing key/value blocks (07 R168 to R182).
-/
namespace Sys2Proof.Machine

open Sys2Proof

/-! ### Blocks, producers and receivers (07 R170, R171) -/

/-- Segments of a sequence. -/
def SeqSec.nSegs (q : SeqSec) (m : Nat) : Nat := if q.order = 0 then m else 2 * m

/-- The segment that block b of rank r's slice lies in. -/
def SeqSec.segOf (q : SeqSec) (m r b : Nat) : Nat :=
  if q.order = 0 then r
  else if b < q.seqlen / (q.nSegs m * q.btok) then r else 2 * m - 1 - r

/-- The last segment that a rank produces. -/
def SeqSec.lastSeg (q : SeqSec) (m r : Nat) : Nat := if q.order = 0 then r else 2 * m - 1 - r

/-- A rank is a receiver of block b of rank r (07 R171). -/
def SeqSec.receives (q : SeqSec) (m r b x : Nat) : Bool :=
  x != r && (q.view == 0 || decide (q.segOf m r b ≤ q.lastSeg m x))

/-- The receivers of a block that are not lost. -/
def Plan.blockTo (p : Plan) (q : SeqSec) (v : Slot) (r b : Nat) : List FA :=
  ((p.members.zipIdx).filter fun (a, x) => q.receives p.members.length r b x && !(v.absent.contains a)).map (·.1)

/-! ### Contexts (07 R172, R176, R177) -/

/-- A sequence instance of a role, context and layer is OPEN here at a step that a test accepts. -/
def State.seqOpenAt (s : State) (role ctx layer : Nat) (step : Nat → Bool) : Bool :=
  s.openHdls.any fun h => match (s.plan (planOf h)).bind (·.seqn) with
    | some q => q.role == role && q.ctx == ctx && ((s.slot h).scalar.getD 0).toNat == layer && step (s.slot h).step
    | none => false

/-- The chunks of a STORE stay staged: a REPLAY of the layer at another step is OPEN (07 R177). -/
def State.storeHeld (s : State) (q : SeqSec) (v : Slot) : Bool :=
  s.seqOpenAt 1 q.ctx (v.scalar.getD 0).toNat (· != v.step)

/-- A STORE of a later step replaces the blocks of its layer. -/
def State.replaceLayer (s : State) (ctx layer step : Nat) : State :=
  s.modCtx ctx fun x => { x with blocks := x.blocks.filter fun b => b.layer != layer || decide (step ≤ b.step) }

/-- What the opening of a sequence slot does. -/
def State.seqOpen (s : State) (q : SeqSec) (v : Slot) : State :=
  let layer := (v.scalar.getD 0).toNat
  match q.role with
  | 0 =>
    let t := s.modCtx q.ctx fun x =>
      { x with plane := some (match x.plane with
        | some b => b
        | none => seqPlaneB v.pmask q.ctx) }
    if t.storeHeld q v then t else t.replaceLayer q.ctx layer v.step
  | 2 =>
    let all := layer == 0xFFFFFFFF
    s.modCtx q.ctx fun x => { x with
      blocks := if all then [] else x.blocks.filter fun b => b.layer != layer
      plane := if all then none else x.plane }
  | _ => s

/-- A stored block of a context. -/
def State.kvBlock (s : State) (ctx layer rank block step : Nat) : Option KvBlock :=
  (s.seqCtx ctx).blocks.find? fun b => b.layer == layer && b.rank == rank && b.block == block && b.step == step

/-- Writes one chunk into the context's KV space; the last chunk of a block counts it (07 R173 step 3). -/
def State.storeChunk (s : State) (q : SeqSec) (v : Slot) (rank c : Nat) (data : List Byte) : State :=
  let layer := (v.scalar.getD 0).toNat
  let b := c / q.cpb
  let old := (s.kvBlock q.ctx layer rank b v.step).getD { layer := layer, rank := rank, block := b, step := v.step, chunks := [] }
  let new := { old with chunks := Assoc.set (c % q.cpb) data old.chunks }
  let t := s.modCtx q.ctx fun x =>
    { x with blocks := x.blocks.filter (fun y => !(y.layer == layer && y.rank == rank && y.block == b)) ++ [new] }
  if old.chunks.length < q.cpb ∧ new.chunks.length = q.cpb then t.bump .plnKvStore else t

/-! ### Sending blocks (07 R173 steps 4 and 5) -/

/-- Modules of the subtree behind a neighbour. -/
def subtree (links : List (FA × FA)) : Nat → FA → FA → List FA
  | 0, _, a => [a]
  | n + 1, from', a => a :: ((treeNear links a).filter (· != from')).flatMap fun b => subtree links n a b

/-- Neighbours on tree 0 but one, those whose subtrees hold no receiver's leaf pruned. -/
def State.seqNear (s : State) (p : Plan) (v : Slot) (except : Option FA) (dest : List FA) : List FA :=
  let links := s.links v (p.coll.elim 1 (·.trees)) s.planeB 0
  let leaves := dest.filterMap fun a => s.leafOf a s.planeB
  ((treeNear links s.selfFa).filter fun b => some b != except).filter fun b =>
    (subtree links links.length s.selfFa b).any fun x => leaves.contains x

/-- Sends a GATHER of a home on, down tree 0 rooted there, and to the local receivers. SRC is the home everywhere: the home sends
messages of its own, and a module on the way relays one copy of each cell (07 R173 steps 4 and 5, R174, log 102). -/
def State.seqDown (s : State) (hdl : BitVec 20) (p : Plan) (q : SeqSec) (h : Head) (data : List Byte) (home : FA) : State :=
  let v := s.slot hdl
  let dest := p.blockTo q v h.lastFa.toNat (h.chunk / q.cpb)
  let up := treeParent (s.links v (p.coll.elim 1 (·.trees)) s.planeB 0) home s.selfFa
  let next := s.seqNear p v up dest ++ dest.filter fun a => v.locals.contains a
  if home = s.selfFa then next.foldl (fun t a => t.sendMsg hdl a h data false false) s
  else
    let kt := msgKindTc h.msg.toNat false
    s.relayMessage hdl home kt.1 kt.2 h.bytes data next

/-- The head of a block's chunk. -/
def seqHead (p : Plan) (v : Slot) (planeB : Bool) (rank c : Nat) (presence : Bool) : Head :=
  { mkHead p v msgGather c (p.chunkElems 0 c) presence (treeByte 0 planeB) with lastFa := BitVec.ofNat 16 rank }

/-- Sends one block: its chunks, or one presence message. -/
def State.sendBlock (s : State) (hdl : BitVec 20) (p : Plan) (q : SeqSec) (rank b : Nat) (data : Option KvBlock) : State :=
  let v := s.slot hdl
  let t := match data with
    | some k => (List.range q.cpb).foldl (fun (t : State) i =>
        t.seqDown hdl p q (seqHead p v s.planeB rank (b * q.cpb + i) false) (Assoc.get [] i k.chunks) s.selfFa) s
    | none => s.seqDown hdl p q (seqHead p v s.planeB rank (b * q.cpb) true) [] s.selfFa
  t.modSlot hdl fun v => { v with sentDown := v.sentDown ++ [(b, p.members.getD rank 0)] }

/-- A block that REPLAY finds missing: sent as a presence message, counted and reported; the instance ends ABORTED after the last
block (07 R175). -/
def State.blockMissing (s : State) (hdl : BitVec 20) (p : Plan) (q : SeqSec) (rank b : Nat) : State :=
  let t := (s.bump .plnKvMissing).raise evKvMissing hdl.toNat (b * q.cpb)
  (t.sendBlock hdl p q rank b none).modSlot hdl fun v => { v with missing := true }

/-- Sends the blocks of one producer that can go now, in block order, from block b on. -/
def State.blocksFrom (hdl : BitVec 20) (p : Plan) (q : SeqSec) (rank : Nat) : Nat → Nat → State → State
  | 0, _, s => s
  | n + 1, b, s =>
    let who := p.members.getD rank 0
    let layer := ((s.slot hdl).scalar.getD 0).toNat
    let s := s.fetchObject 5 [q.ctx, layer, rank, b]
    let v := s.slot hdl
    let lost := v.absent.contains who
    if v.state ≠ .opened then s
    else if v.sentDown.contains (b, who) then State.blocksFrom hdl p q rank n (b + 1) s
    else
      let whole := (s.kvBlock q.ctx layer rank b v.step).bind fun k => if k.chunks.length = q.cpb then some k else none
      match whole with
      | some k => State.blocksFrom hdl p q rank n (b + 1) (s.sendBlock hdl p q rank b (some k))
      | none =>
        if q.role = 1 then
          if s.seqOpenAt 0 q.ctx layer (· == v.step) then s
          else State.blocksFrom hdl p q rank n (b + 1) (s.blockMissing hdl p q rank b)
        else if lost then State.blocksFrom hdl p q rank n (b + 1) (s.sendBlock hdl p q rank b none)
        else s

/-- Once no REPLAY holds them, a STORE replaces the blocks of its layer, and chunks that were held are stored (07 R177). -/
def State.storeStaged (s : State) (hdl : BitVec 20) (p : Plan) (q : SeqSec) : State :=
  let v := s.slot hdl
  if q.role ≠ 0 ∨ s.storeHeld q v then s
  else
    let t := s.replaceLayer q.ctx (v.scalar.getD 0).toNat v.step
    let t := t.setSlot hdl { v with chunks := [] }
    v.chunks.foldl (fun t e => e.2.contribs.foldl (fun t x =>
      match p.members.findIdx? (· == x.1) with
      | some r => (t.storeChunk q v r e.1 (x.2.getD [])).returnStaging hdl x.1 e.1
      | none => t) t) t

/-- Every block of the producers served here has been sent. -/
def State.seqSent (_s : State) (p : Plan) (q : SeqSec) (v : Slot) : Bool :=
  v.locals.all fun a => (List.range (q.bpr p.members.length)).all fun b => v.sentDown.contains (b, a)

/-- A home stores and sends what it can, and ends tree 0 after its last block (07 R173 to R175). -/
def State.seqAdvance (s : State) (hdl : BitVec 20) : State :=
  match s.plan (planOf hdl) with
  | none => s
  | some p =>
    match p.seqn with
    | none => s
    | some q =>
      let v := s.slot hdl
      if v.state ≠ .opened ∨ q.role = 2 ∨ s.planeOfChunk p v 0 ≠ s.planeB then s
      else
        let s := s.storeStaged hdl p q
        let ranks := (List.range p.members.length).filter fun r => v.locals.contains (p.members.getD r 0)
          && (q.role == 0 || v.joined.contains (p.members.getD r 0) || v.absent.contains (p.members.getD r 0))
        let s := ranks.foldl (fun t r => State.blocksFrom hdl p q r (q.bpr p.members.length) 0 t) s
        let v := s.slot hdl
        if v.state = .opened ∧ !v.locals.isEmpty ∧ s.seqSent p q v ∧ !(v.rootDone.contains 0) then
          if v.missing then s.failInstance hdl stAborted [] else
          let s := s.rootEnd hdl 0
          if (s.slot hdl).rootDone.contains 0 then s.freeAfter p v else s
        else s

end Sys2Proof.Machine
end

