-- ==== Sys2Proof/Machine/Collective.lean ====
section
/-!
DEFINITION. Machine/Collective.lean: how instances open and advance, what every received message is checked for, chunk
geometry at this module, straggler records and deliveries (04 R78 to R105).
-/
namespace Sys2Proof.Machine

open Sys2Proof

/-! ### MIRROR messages (05 R115) -/

/-- RUG state of a chunk. -/
def Slot.rugOf (v : Slot) (c : Nat) : Option RugChunk := Assoc.find c v.rug

def Slot.setRug (v : Slot) (c : Nat) (r : RugChunk) : Slot := { v with rug := Assoc.set c r v.rug }

/-- The slot closes with SIG_MISMATCH for a MIRROR message that differs (05 R115). -/
def State.mirrorBad (s : State) (m : MirrorMsg) : State :=
  let t := s.bump .plnSigMismatch
  if (t.slot m.hdl).state = .opened then t.failInstance m.hdl stSigMismatch [t.selfFa, m.src] else t

/-- Whether the message fits plan and slot. -/
def State.mirrorFits (s : State) (p : Plan) (v : Slot) (m : MirrorMsg) : Bool :=
  m.sig == p.sig && m.step == v.step &&
  (match p.owners[m.chunk]? with
   | none => false
   | some o => s.owns o && m.offset == o.offset && m.elems == p.chunkElems 0 m.chunk && m.data.length == 4 * m.elems
       && chunkPlaneB v.pmask m.chunk != s.planeB && (v.rugOf m.chunk).isNone)

/-- An open slot takes a MIRROR message: its gradient waits for the update. -/
def State.mirrorAccept (s : State) (m : MirrorMsg) : State :=
  match s.plan (planOf m.hdl) with
  | none => s
  | some p =>
    let v := s.slot m.hdl
    if s.mirrorFits p v m then
      s.setSlot m.hdl (v.setRug m.chunk { grad := m.data, lr := m.lr, parked := false, applied := false, mirrored := true,
                                          fromTwin := true })
    else s.mirrorBad m

/-- Held MIRROR messages of a slot that has opened are compared now. -/
def State.releaseMirrors (s : State) (hdl : BitVec 20) : State :=
  let mine := s.led.held.filter fun m => m.hdl == hdl
  let t := { s with led := { s.led with held := s.led.held.filter fun m => m.hdl != hdl } }
  mine.foldl State.mirrorAccept t

/-! ### Opening (04 R79, R86, R101; 05 R113; 06 R153; 07 R172, R177) -/

/-- A home of a STORE or REPLAY is no member module of the context plane (04 R101, 07 R180). -/
def State.homeMissing (s : State) (p : Plan) (v : Slot) : Bool :=
  let b := s.planeOfChunk p v 0
  p.seqn.any fun q => q.role != 2 && p.members.any fun m => !(v.absent.contains m) &&
    match s.leafOf m b with
    | some r => !((v.nodes b).any fun n => n.1 == r)
    | none => true

/-- A chunk's root is no member module of its plane. -/
def State.rootMissing (s : State) (p : Plan) (v : Slot) : Bool :=
  match p.coll with
  | none => false
  | some k =>
    if p.seqn.isSome then s.homeMissing p v
    else if k.kind = kAllToAll ∨ k.kind = kAllToAllV then false
    else
      (List.range (p.nChunks v.lseD)).any fun c =>
        let nodes := (v.nodes (s.planeOfChunk p v c)).map (·.1)
        if k.kind = kAllGather then
          p.members.any fun m => match s.leafOf m (s.planeOfChunk p v c) with
            | some r => !(nodes.contains r)
            | none => true
        else match s.rootOf p v c 0 with
          | some r => !(nodes.contains r)
          | none => true

/-- A tree on this module's plane needs a hop that no dimension order reaches (13 R292). -/
def State.hopMissing (s : State) (p : Plan) (v : Slot) : Bool :=
  match p.coll with
  | none => false
  | some k =>
    s.rt.unreach && decide (k.kind ≠ kAllToAll) && decide (k.kind ≠ kAllToAllV)
      && (((s.rootPairs p v s.planeB).map (·.1)).eraseDups).any fun t =>
        (treeNear (s.links v k.trees s.planeB t) s.selfFa).any fun b =>
          (s.routeEntry (s.groupOf none) b.toNat).getLsbD 27

/-- The plane of a dispatch-section or sparse instance's leaves (06 R147). -/
def dispPlaneB (pmask slot : Nat) : Bool := !(pmask == 1 || (pmask == 3 && slot % 2 == 0))

/-- The DISPATCH records of a plan and slot at a step. -/
def State.dispOf (s : State) (plan slot step : Nat) : Option Disp :=
  match Assoc.find (plan, slot) s.pl.disp with
  | some d => if d.step = step then some d else none
  | none => none

/-- Routing state of one member that this leaf serves, before anything has come. -/
def DispSrc.new (rank : Nat) : DispSrc where
  rank := rank
  tokens := 0
  mask := []
  logits := []
  rows := []
  fed := []
  complete := false
  choices := []
  poisoned := []
  skipped := []
  grants := []
  routed := false
  rowsSent := false
  returns := []
  done := false

/-- State of one host that this leaf serves, before anything has come. -/
def DispHost.new (rank : Nat) : DispHost := ⟨rank, [], false, [], [], [], [], false⟩

/-- Ranks of the members that this module serves. -/
def Plan.localRanks (p : Plan) (v : Slot) : List Nat :=
  (List.range p.members.length).filter fun r => v.locals.contains (p.members.getD r 0)

/-- What the opening of a dispatch-section slot does: new records for ROLE 0, a check of them for ROLE 1 to 3 (06 R153), whose blocks
decode first (11 R258). -/
def State.dispOpen (s : State) (hdl : BitVec 20) (p : Plan) (d : DispatchSec) : State :=
  let v := s.slot hdl
  let ranks := p.localRanks v
  if ranks.isEmpty || dispPlaneB v.pmask (slotOf hdl) != s.planeB then s
  else
    let fresh : Disp := { step := v.step, srcs := ranks.map DispSrc.new, hosts := ranks.map DispHost.new, ended := [] }
    if d.role = 0 then { s with pl := { s.pl with disp := Assoc.set (planOf hdl, slotOf hdl) fresh s.pl.disp } }
    else
      let s := s.fetchObject 1 [d.fwdPlan]
      match s.dispOf d.fwdPlan (slotOf hdl) v.step with
      | some _ => { s with pl := { s.pl with disp := Assoc.set (planOf hdl, slotOf hdl) fresh s.pl.disp } }
      | none => (s.raise evRouteMissing hdl.toNat d.fwdPlan).failInstance hdl stAborted []

/-- The fixed plane of a sequence's context is not in the instance's PMASK (07 R172, R180). -/
def State.planeGone (s : State) (p : Plan) (v : Slot) : Bool :=
  p.seqn.any fun q => q.role != 2 && (s.seqCtx q.ctx).plane.any fun b => v.pmask / (if b then 2 else 1) % 2 == 0

/-- Opens an instance with everything its opening brings about. An LSE fold whose d is not a multiple of 32 stops before any
output (03 R69). -/
def State.openInstance (s : State) (hdl : BitVec 20) (p : Plan) (step pmask : Nat) (scalar : Option (BitVec 32)) : State :=
  let t := s.openSlot hdl p step pmask scalar
  let v := t.slot hdl
  if !v.absent.isEmpty && !p.queues.isEmpty then t.failInstance hdl stAborted v.absent
  else if v.lseD % 32 ≠ 0 then t.failInstance hdl stFormatError []
  else if t.planeGone p v then t.failInstance hdl stPlaneChange []
  else if t.rootMissing p v || t.hopMissing p v then t.failInstance hdl stTreeLost []
  else
    let t := t.acceptRug hdl p
    let t := match p.seqn with
      | some q => t.seqOpen q v
      | none => t
    let t := match p.dispatch with
      | some d => t.dispOpen hdl p d
      | none => t
    let t := match p.sparse with
      | some _ => { t with pl := { t.pl with sparse := Assoc.set (planOf hdl, slotOf hdl) ⟨step, [], [], [], false, []⟩ t.pl.sparse } }
      | none => t
    t.releaseMirrors hdl

/-! ### The checks of every message (04 R78, R82, R86, R90, R97, R99) -/

/-- Cells of a message. -/
def msgCells (data : List Byte) : Nat := 1 + ceilDiv data.length 240

/-- A message leaves the messages that wait for their engine (log 3). -/
def State.takeInbox (s : State) (src : FA) (hdl : BitVec 20) : State :=
  { s with rt := { s.rt with inbox := s.rt.inbox.eraseP fun e => e.1 == src && e.2.1 == hdl } }

/-- A CTRL cell of a type leaves the cells that wait for firmware or the link hardware (log 3). -/
def State.takeCtrl (s : State) (src : FA) (ctype : Nat) : State :=
  { s with rt := { s.rt with inbox := s.rt.inbox.eraseP fun e => e.1 == src &&
      (match e.2.2 with
       | [c] => c.kind == kCtrl && byteAt c.payload 0 == ctype
       | _ => false) } }

/-- The sender is a module of the fabric. -/
def State.isModule (s : State) (fa : FA) : Bool :=
  match s.member fa with
  | some m => m.isMod
  | none => false

/-- A sender that has not launched the instance here (04 R78). -/
def Slot.unlaunched (v : Slot) (fromModule : Bool) (src : FA) (step : Nat) : Bool :=
  !fromModule && (v.state == .free || !(v.joined.contains src) || (v.state == .closed && v.step != step))

/-! ### Geometry of a chunk here (04 R84, R85) -/

/-- Where a chunk's fold stands: the links of its tree, its root, this module's parent and children. -/
structure Place4 where
  tree     : Nat
  root     : FA
  parent   : Option FA
  children : List FA
  deriving DecidableEq, Repr

/-- This module's place in the rooted tree of a chunk, none where the chunk does not run here. -/
def State.chunkPlace (s : State) (p : Plan) (v : Slot) (k : Coll) (c : Nat) (sender : FA) : Option Place4 :=
  let b := s.planeOfChunk p v c
  if b ≠ s.planeB then none
  else
    let t := s.treeOfChunk p v c
    match s.rootOf p v c sender with
    | none => none
    | some r =>
      let links := s.links v k.trees b t
      if (v.nodes b).any (fun n => n.1 == s.selfFa) then
        some { tree := t, root := r, parent := treeParent links r s.selfFa, children := treeChildren links r s.selfFa }
      else none

/-- Bytes of a chunk in a format. -/
def bytesFor (f n : Nat) : Nat := ceilDiv (n * (if f = fmtNone then 8 else fmtBits f)) 8

/-- Groups of 32 rows of an LSE chunk. -/
def lseCount (e : Nat) : Nat := ceilDiv e 32

/-- Bytes of a CONTRIB; for LSE at width d. -/
def Coll.contribBytes (k : Coll) (d e : Nat) : Nat :=
  if k.folds ∧ k.fop = fopLse then lseCount e * lseGroupBytes d
  else if k.kind = kBarrier then 0 else bytesFor k.cfmt e

/-- Blocks of 32 lanes of a chunk. -/
def Coll.blocks (k : Coll) (d e : Nat) : Nat :=
  if k.fop = fopLse then lseCount e * (1 + d) else ceilDiv e 32

/-- Bytes of an EXPS or MAXE of a round (04 R81, 07 R179). -/
def Coll.expsBytes (k : Coll) (d e round : Nat) : Nat :=
  if k.kind = kBarrier then 0
  else if k.fop = fopLse then (if round = 0 then lseCount e * 128 else k.blocks d e) else ceilDiv e 32

/-- Bytes of a PSUM (04 R88). -/
def Coll.psumBytes (k : Coll) (d e : Nat) : Nat :=
  if k.fop = fopSum ∨ k.fop = fopLse then k.blocks d e * 256
  else if k.fop = fopSum32 then k.blocks d e * 128
  else if k.fop = fopIsum then 8 * e
  else bytesFor k.cfmt e

/-- Phase-A rounds (04 R90). -/
def Coll.rounds (k : Coll) : Nat :=
  if k.kind = kBarrier then 1 else if !k.phaseA then 0 else if k.fop = fopLse then 2 else 1

/-- The format of a result (05 R112). -/
def Coll.resultFmt (k : Coll) : Nat := k.rfmt

/-- Bytes of a RESULT or GATHER (04 R81, 07 R179). -/
def Coll.resultBytes (k : Coll) (d e : Nat) : Nat :=
  if k.folds ∧ k.fop = fopLse then
    (if k.lseFinal then lseCount e * (128 + 32 * d * fmtBits k.rfmt / 8) else lseCount e * lseGroupBytes d)
  else if k.kind = kBarrier then 0
  else bytesFor k.rfmt e

/-! ### Inputs of a chunk (04 R89, R101) -/

/-- A norm plan takes no contribution of its members (05 R118). -/
def State.localInputs (s : State) (p : Plan) (v : Slot) : List FA := if s.isNormPlan p.num then [] else v.locals

/-- Local members whose contribution is in, or that are lost. -/
def Slot.hasLocal (v : Slot) (ch : Chunk) (a : FA) : Bool := v.absent.contains a || ch.contribs.any fun e => e.1 == a

/-- Contributions that are data. -/
def Chunk.given (ch : Chunk) : List (List Byte) := ch.contribs.filterMap (·.2)

/-- Records that an input's message completed (04 R105). -/
def Chunk.arrive (ch : Chunk) (src : FA) (now : Nat) (lastFa : FA) (late : Nat) : Chunk :=
  { ch with arrived := ch.arrived ++ [(src, now, lastFa, late)] }

/-- Records that a child's message of the second phase-A round completed (04 R105, 07 R179). -/
def Chunk.arriveAgain (ch : Chunk) (src : FA) (now : Nat) (lastFa : FA) (late : Nat) : Chunk :=
  { ch with arrived2 := ch.arrived2 ++ [(src, now, lastFa, late)] }

/-- The inputs of a phase-A round as they completed: CONTRIB messages are inputs of both rounds. -/
def Chunk.arrivals (ch : Chunk) (round : Nat) : List (FA × Nat × FA × Nat) :=
  if round = 0 then ch.arrived else (ch.arrived.filter fun a => ch.contribs.any fun c => c.1 == a.1) ++ ch.arrived2

/-- LAST_FA and LATE of a module whose inputs arrived so (04 R105): 2 core cycles to a nanosecond. -/
def lastOf (l : List (FA × Nat × FA × Nat)) : FA × Nat :=
  match (sortBy (fun (a b : FA × Nat × FA × Nat) => decide (a.2.1 < b.2.1)) l).reverse with
  | [] => (0, 0)
  | [a] => (a.2.2.1, a.2.2.2)
  | a :: b :: _ => (a.2.2.1, min (2 ^ 32 - 1) ((a.2.1 - b.2.1) / 2 + a.2.2.2))

/-- The straggler record of the plan and of the member that arrived last gains 1 and LATE (04 R105). -/
def State.straggle (s : State) (p : Plan) (arrived : List (FA × Nat × FA × Nat)) : State :=
  if (lastOf arrived).1 = 0 then s
  else
    let (fa, late) := lastOf arrived
    let s := s.fetchObject 2 [p.num]
    let r := Assoc.get (0, 0) (p.num, fa) s.pl.stragglers
    { s with pl := { s.pl with
      stragglers := Assoc.set (p.num, fa) (min maxWord (r.1 + 1), min maxWord (r.2 + late)) s.pl.stragglers } }

/-- An input takes a staging credit; none where it holds STAGE_DEPTH of them already (04 R102). -/
def State.takeCredit (s : State) (hdl : BitVec 20) (k : Coll) (src : FA) (c : Nat) : Option State :=
  let v := s.slot hdl
  if (v.credits.filter fun e => e.1 == src).length < k.credits then
    some (s.setSlot hdl { v with credits := v.credits ++ [(src, c)] })
  else none

/-- Frees a chunk's staging: one credit back to every input that holds one for it (04 R89 step 4). -/
def State.freeChunk (s : State) (hdl : BitVec 20) (c : Nat) : State :=
  ((s.slot hdl).credits.filter fun e => e.2 == c).foldl (fun t e => t.returnStaging hdl e.1 c) s

/-! ### Down the tree (04 R89 step 5, R92) -/

/-- Local members that a result goes to (04 R76, table Collective kinds). -/
def Plan.receivers (p : Plan) (k : Coll) (v : Slot) (c : Nat) : List FA :=
  let here := v.locals.filter fun a => !(v.absent.contains a)
  match k.kind with
  | 1 => match p.owners[c]? with
    | some o => here.filter (· == o.a)
    | none => []
  | 2 => here.filter (· == p.members.getD k.root 0)
  | _ => here

/-- Sends a RESULT or GATHER to modules and delivers it to local members. -/
def State.sendDown (s : State) (hdl : BitVec 20) (p : Plan) (k : Coll) (h : Head) (data : List Byte) (dest : List FA) : State :=
  let v := s.slot hdl
  (dest ++ p.receivers k v h.chunk).foldl (fun t a => t.sendMsg hdl a h data false false) s

/-- A root's chunk has gone down. -/
def State.markDown (s : State) (hdl : BitVec 20) (c : Nat) : State :=
  s.modSlot hdl fun v => v.modChunk c fun ch => { ch with sentDown := true }

/-! ### Ends of roots and instances -/

/-- The trees that this module roots, with the chunks it has on each all sent (04 R99). -/
def State.rootReady (s : State) (p : Plan) (k : Coll) (v : Slot) (t : Nat) : Bool :=
  (List.range (p.nChunks v.lseD)).all fun c =>
    s.planeOfChunk p v c != s.planeB || s.treeOfChunk p v c != t ||
    (if k.kind = kAllGather ∧ p.seqn.isNone then
      v.locals.all fun a => v.sentDown.contains (c, a)
     else s.rootOf p v c 0 != some s.selfFa || (v.chunk c).sentDown)

/-- Sends the ENDs that are due at a root, and closes the slot when everything has ended. -/
def State.advance (s : State) (hdl : BitVec 20) : State :=
  match s.plan (planOf hdl) with
  | none => s
  | some p =>
    match p.coll with
    | none => s.maybeClose hdl
    | some k =>
      let v := s.slot hdl
      if v.state ≠ .opened then s
      else
        let mine := ((s.rootPairs p v s.planeB).filter fun x => x.2 == s.selfFa && p.seqn.isNone).map (·.1)
        if s.hopMissing p v then s.failInstance hdl stTreeLost [] else
        let due := mine.filter fun t => s.rootReady p k v t
        (due.foldl (fun u t => u.rootEnd hdl t) s).maybeClose hdl

/-- PMASK of a clip group's instances at a step (05 R118), where one is OPEN here. -/
def State.groupMask (s : State) (normPlan step : Nat) : Option Nat :=
  ((s.groupOpen normPlan step).head?).map fun h => (s.slot h).pmask

/-- A norm instance that closed with any status but OK ends the group's instances with it (05 R120). -/
def State.settleNorm (s : State) : State :=
  (s.pl.slots.filter fun e => e.2.state == .closed && e.2.status != stOk && s.isNormPlan e.1.1).foldl (fun t e =>
    (t.groupOpen e.1.1 e.2.step).foldl (fun u h => u.failInstance h e.2.status e.2.offenders) t) s

/-- Lets every OPEN sequence instance send what it can, and settles the clip groups. -/
def State.settle (s : State) : State :=
  ((s.openHdls.filter fun h => ((s.plan (planOf h)).bind (·.seqn)).isSome).foldl State.seqAdvance s).settleNorm

/-- What follows every command that moves an instance on. -/
def State.after (s : State) (hdl : BitVec 20) : State := (s.advance hdl).settle

/-! ### Presence in place of a lost member's data (04 R92, R101; log 34) -/

/-- The leaf of a lost ALL_GATHER or BROADCAST sender sends presence GATHERs for the chunks it has not sent. -/
def State.absentDown (s : State) (hdl : BitVec 20) : State :=
  match s.plan (planOf hdl) with
  | none => s
  | some p =>
    match p.coll with
    | none => s
    | some k =>
      let v := s.slot hdl
      let gone := v.absent.filter fun a => v.locals.contains a
      if v.state ≠ .opened || p.seqn.isSome then s
      else if k.kind = kAllGather ∨ k.kind = kBroadcast then
        gone.foldl (fun s a =>
          if k.kind = kBroadcast ∧ p.members.getD k.root 0 ≠ a then s
          else (List.range (p.nChunks 0)).foldl (fun s c =>
            let v := s.slot hdl
            match s.chunkPlace p v k c a with
            | some pl =>
              let sent := if k.kind = kAllGather then v.sentDown.contains (c, a) else (v.chunk c).sentDown
              if sent || pl.root != s.selfFa then s
              else
                let h := mkHead p v msgGather c (p.chunkElems 0 c) true (treeByte pl.tree s.planeB)
                let t := s.sendDown hdl p k h [] pl.children
                if k.kind = kAllGather then t.modSlot hdl fun v => { v with sentDown := v.sentDown ++ [(c, a)] }
                else t.markDown hdl c
            | none => s) s) s
      else s

/-! ### Tokens (08 R199) -/

/-- Adds a token to a counter of a queue, saturating. -/
def State.addToken (s : State) (hdl : BitVec 20) (queue ctr : Nat) : State :=
  match Assoc.find hdl s.pl.progs with
  | none => s
  | some g =>
    match g.queues.find? fun q => q.qid == queue with
    | none => s
    | some q =>
      let n := natAt q.tcs ctr + 1
      let q' := { q with tcs := natSet q.tcs ctr (min maxWord n) }
      let g' : Prog := { queues := g.queues.map fun x => if x.qid = queue then q' else x, quiet := s.clk.cycle }
      let t := { s with pl := { s.pl with progs := Assoc.set hdl g' s.pl.progs } }
      if maxWord ≤ n then t.bump .tokQcSat else t

/-- Router tensors of the DISPATCH instances that are OPEN, with their scales (10 R244). -/
def State.routers (s : State) : List Descr :=
  (s.openHdls.filterMap fun h => match (s.plan (planOf h)).bind (·.dispatch) with
    | some d => if d.role = 0 ∧ d.flags.getLsbD 1 then s.descr d.router else none
    | none => none).flatMap fun r => r :: (if r.scaled then (s.descr r.scales).toList else [])

/-- A place lies in the bytes of a descriptor. -/
def State.placeIn (s : State) (p : Place) (d : Descr) : Bool :=
  let win := s.windowOf d
  let x := d.extent
  p.space == d.space && decide (((p.addr : Nat) : Int) < win.1 + x.2) && decide ((win.1 : Int) + x.1 < (p.addr + p.bytes : Nat))

/-- An element may be written now: its granule is readable and no router tensor holds it (11 R259, 10 R244). -/
def State.writeReady (s : State) (p : Place) : Bool := s.placeReady p && s.routers.all fun d => !s.placeIn p d

/-- Byte offsets and lengths of what a chunk's result holds: for LSE its rows without those that complete the last group, which are
never written (07 R178, R179). -/
def Coll.resultParts (k : Coll) (d e : Nat) : List (Nat × Nat) :=
  if k.isLse then
    (List.range (lseCount e)).flatMap fun g =>
      let at' := g * k.resultBytes d 32
      let n := min 32 (e - 32 * g)
      if k.lseFinal then [(at', 4 * n), (at' + 128, n * d * fmtBits k.rfmt / 8)]
      else [(at', 4 * n), (at' + 128, 4 * n), (at' + 256, 4 * n * d)]
  else [(0, k.resultBytes d e)]

/-- The walk indices of RES_H that a chunk's result fills, by part: first index, byte offset in the result, elements. An LSE result
fills them in the order of the RESULT layout (08 R187, log 110). -/
def Coll.resWalk (k : Coll) (c d e w : Nat) : List (Nat × Nat × Nat) :=
  let start := c * (if k.isLse then k.resultBytes d (k.perChunk d) * 8 / w else k.perChunk d)
  (k.resultParts d e).map fun x => (start + x.1 * 8 / w, x.1, x.2 * 8 / w)

/-- The elements of RES_H that a chunk's result fills. -/
def State.resPlaces (s : State) (k : Coll) (c d e : Nat) : List Place :=
  if k.resH = 0xFFFF then []
  else match s.descr k.resH with
    | none => []
    | some r => (k.resWalk c d e (max 1 (fmtBits r.fmt))).flatMap fun x =>
        (List.range x.2.2).filterMap fun i => s.placeOf r (tupleOf r.dims (x.1 + i)) true

/-- The elements of RES_H that a chunk's result fills may be written now (10 R244, 11 R259). -/
def State.resReady (s : State) (k : Coll) (c d e : Nat) : Bool := (s.resPlaces k c d e).all s.writeReady

/-- The blocks that a chunk's result fills in part are read (11 R257). -/
def State.resFetch (s : State) (k : Coll) (c d e : Nat) : State := (s.resPlaces k c d e).foldl State.fetchPlace s

/-- Writes a chunk's result into RES_H and gives the BIND tokens (08 R187, R188). -/
def State.writeResH (s : State) (hdl : BitVec 20) (p : Plan) (k : Coll) (c d e : Nat) (data : List Byte) : State :=
  if k.resH = 0xFFFF then s
  else
    match s.descr k.resH with
    | none => s
    | some r =>
      let w := max 1 (fmtBits r.fmt)
      let t := (k.resWalk c d e w).foldl (fun t x =>
        t.putWalk r x.1 (unpack w x.2.2 (slice data x.2.1 (ceilDiv (x.2.2 * w) 8)))) s
      p.queues.foldl (fun t q => match q.bind with
        | some i => t.addToken hdl q.qid i
        | none => t) t

/-! ### The entry of a message -/

/-- Opens the slot for the first head of an instance that reaches a module which is not the sender's leaf (04 R79, R99), a norm
instance with its group's PMASK (05 R118);
`fromModule` is false for the endpoints that this module serves. -/
def State.openFor (s : State) (p : Plan) (hdl : BitVec 20) (fromModule : Bool) (step layer : Nat) : State :=
  let v := s.slot hdl
  let scalar := if p.seqn.isSome then some (BitVec.ofNat 32 layer) else none
  if fromModule && (v.state == .free || (v.state == .closed && v.step != step)) then
    let own := if s.isNormPlan p.num then s.groupMask p.num step else none
    (s.openInstance hdl p step (own.getD (s.pmaskFor p.members)) scalar).absentDown hdl
  else s

/-- Runs `k` where a message passes the checks that all messages but END share; else does what the failing check says. A message of
an instance that waits for queue contexts stays where it waits (08 R189, log 107); one that reaches a tree with an unreachable hop ends
the instance (13 R292, log 106). -/
def State.enter (s0 : State) (m : Msg) (k : Plan → Slot → State → State) : State :=
  let s := s0.takeInbox m.src m.hdl
  let n := msgCells m.data
  if !s.engines then s
  else
    match s.plan (planOf m.hdl) with
    | none => s.bump .plnUnlaunchedDrop n
    | some p =>
      let fm := !(s.isLeafOf m.src)
      if (s.slot m.hdl).unlaunched fm m.src m.head.step then s.bump .plnUnlaunchedDrop n
      else if !m.head.ok then
        (if (s.slot m.hdl).state = .opened then s.mismatch m.hdl m.src else s.bump .plnSigMismatch)
      else
        let t := s.openFor p m.hdl fm m.head.step m.head.layer
        let v := t.slot m.hdl
        if v.state ≠ .opened then t.bump .plnLateDrop n
        else if t.pl.waiting.contains m.hdl then { t with rt := { t.rt with inbox := s0.rt.inbox } }
        else if v.refused.contains m.src then t
        else if m.head.sig ≠ p.sig ∨ m.head.step ≠ v.step then t.mismatch m.hdl m.src
        else if p.seqn.isSome ∧ m.head.layer ≠ (v.scalar.getD 0).toNat then t.mismatch m.hdl m.src
        else if m.head.pmask ≠ v.pmask then t.failInstance m.hdl stPlaneChange []
        else if t.hopMissing p v then t.failInstance m.hdl stTreeLost []
        else k p v t

end Sys2Proof.Machine
end

