-- ==== Sys2Proof/Machine/FoldFlow.lean ====
section
/-!
DEFINITION. Machine/FoldFlow.lean: the commands of a fold's chunk: contributions, exponents, partial sums and results (04 R89
to R95, R105, R451; 05 R112, R114, R118, R130; 07 R179).
-/
namespace Sys2Proof.Machine

open Sys2Proof

/-! ### Norm passes and module contributions (05 R118, R119, R130) -/

/-- The norm pass of a plan at a step. -/
def State.norm (s : State) (plan step : Nat) : Option Norm := s.led.norms.find? fun n => n.plan == plan && n.step == step

/-- Changes or creates a norm pass. -/
def State.modNorm (s : State) (plan step : Nat) (f : Norm → Norm) : State :=
  let rest := s.led.norms.filter fun n => !(n.plan == plan && n.step == step)
  let n := f ((s.norm plan step).getD { plan := plan, step := step, partialSum := none, total := none, skips := false })
  { s with led := { s.led with norms := rest ++ [n] } }

/-- The installed RUG plans of a clip group, in order of plan number. -/
def State.group (s : State) (normPlan : Nat) : List Plan :=
  sortBy (fun a b => decide (a.num < b.num))
    ((s.pl.plans.map (·.2)).filter fun p => match p.coll with
      | some k => k.kind == kRug && k.normPlan == normPlan
      | none => false)

/-- This module owns a chunk of the group. -/
def State.ownsGroup (s : State) (normPlan : Nat) : Bool :=
  (s.group normPlan).any fun p => !(s.ownedChunks p).isEmpty

/-- What the module itself contributes to a fold, as data; none while that is not ready: its norm partial, or its commit
word (05 R118, R130). -/
def State.moduleData (s : State) (p : Plan) (v : Slot) : Option (List (List Byte)) :=
  if s.isNormPlan p.num then
    if s.ownsGroup p.num then ((s.norm p.num v.step).bind (·.partialSum)).map fun x => [f32Bytes [x]] else some []
  else if s.isCommitPlan p.num then (s.commitInput v.step).map fun w => [leBytes 4 w.toNat]
  else some []

/-- The sum of squares of a group is known: a non-finite one skips it where the group says so (05 R119). The record of the step in
progress takes the sum; that of the step after it waits with the pass (05 R133). -/
def State.normKnown (s : State) (normPlan step : Nat) (sum : F32) : State :=
  if ((s.norm normPlan step).bind (·.total)).isSome then s
  else
    let skips := F32.special sum && (s.group normPlan).any fun p => match p.coll with
      | some k => k.skipNf
      | none => false
    let t := s.modNorm normPlan step fun n => { n with total := some sum, skips := skips }
    let t := if s.stepLags step then t
      else { t with led := { t.led with norm := sum, skipped := t.led.skipped || skips } }
    if skips then
      (t.bump .ledSkip).raise evGradSkipped (mkHdl normPlan (step % 256)).toNat sum.toNat
    else t

/-- A module of the norm instance's plane passes the sum on to its twin (05 R118). -/
def State.normForward (s : State) (hdl : BitVec 20) (sum : F32) (step : Nat) : State :=
  if s.paired then s.sendCtrl s.twin.fa kCtrl tcMgmt 0 (payNorm hdl sum step) else s

/-- What a result means to the module itself: a barrier result, or a norm (05 R131, R119). -/
def State.resultEffect (s : State) (p : Plan) (hdl : BitVec 20) (step : Nat) (data : List Byte) : State :=
  if s.isCommitPlan p.num then s.barrierResult step (BitVec.ofNat 32 (leNat data))
  else if s.isNormPlan p.num then
    let x : F32 := BitVec.ofNat 32 (leNat data)
    (s.normKnown p.num step x).normForward hdl x step
  else s

/-! ### Phase A (03 R55; 04 R89; 07 R179) -/

/-- Phase-A bytes of a round over contributions held here. -/
def Coll.phaseBytes (k : Coll) (d e round : Nat) (maxe : List Byte) (given : List (List Byte)) : List Byte :=
  if k.kind = kBarrier then []
  else if k.fop = fopLse then
    if round = 0 then
      given.foldl (fun a x => lseMax a (lseRound1 (lseGroups d x))) (f32Bytes (List.replicate (32 * lseCount e) F32.negInf))
    else given.foldl (fun a x => maxBytes a (blockBytes (lseVals d maxe x))) (zeros (k.blocks d e))
  else given.foldl (fun a x => maxBytes a (blockBytes (chunkVals k.cfmt e x))) (zeros (ceilDiv e 32))

/-- Merges the children's bytes into them. -/
def Coll.mergeRound (k : Coll) (round : Nat) (own : List Byte) (kids : List (List Byte)) : List Byte :=
  if k.kind = kBarrier then []
  else if k.fop = fopLse ∧ round = 0 then kids.foldl lseMax own else kids.foldl maxBytes own

/-! ### Phase B (03 R56 to R59, R64 to R68) -/

/-- Partial lanes of SUM, SUM32 or LSE, and how many elements lost bits (R56). -/
def Coll.aifLanes (k : Coll) (n d e : Nat) (ch : Chunk) (given : List (List Byte)) : List Int × Nat :=
  let merged := ((if k.fop = fopLse then ch.maxe2 else ch.maxe).getD [])
  let top := topOf k.fop n
  let rows := given.map fun x =>
    alignVals top merged (if k.fop = fopLse then lseVals d (ch.maxe.getD []) x else chunkVals k.cfmt e x)
  let w := if k.fop = fopSum32 then 4 else 8
  let parts := rows.map (·.1) ++ ch.psums.map fun x => lanesOf w x.2
  (parts.foldl (addLanes merged) (List.replicate (32 * k.blocks d e) 0), (rows.map (·.2)).sum)

/-- Partial sums of ISUM. -/
def Coll.isumLanes (k : Coll) (e : Nat) (ch : Chunk) (given : List (List Byte)) : List Int :=
  (given.map (intLanes k.cfmt e) ++ ch.psums.map fun x => lanesOf 8 x.2).foldl addPlain (List.replicate e 0)

/-- Partial codes of MAX, MIN and the bitwise operations. -/
def Coll.partialCodes (k : Coll) (e : Nat) (ch : Chunk) (given : List (List Byte)) : List Nat :=
  combineAll k.fop k.cfmt e ((given ++ ch.psums.map (·.2)).map (unpack (fmtBits k.cfmt) e))

/-- The PSUM of a module, and how many elements lost bits. -/
def Coll.psumOf (k : Coll) (n d e : Nat) (ch : Chunk) (given : List (List Byte)) : List Byte × Nat :=
  if k.fop = fopSum ∨ k.fop = fopLse then
    let r := k.aifLanes n d e ch given
    (laneBytes 8 r.1, r.2)
  else if k.fop = fopSum32 then
    let r := k.aifLanes n d e ch given
    (laneBytes 4 r.1, r.2)
  else if k.fop = fopIsum then (laneBytes 8 (k.isumLanes e ch given), 0)
  else (pack (fmtBits k.cfmt) (k.partialCodes e ch given), 0)

/-- A formed result: its bytes, elements that lost bits, overflows, special blocks and empty rows. -/
structure FoldOut where
  data    : List Byte
  lost    : Nat
  range   : Nat
  special : Nat
  empty   : Nat
  deriving DecidableEq, Repr

/-- The LSE result of a chunk (07 R179, 03 R70, R71). A NaN in an l that a child's PSUM sums up is known by its block alone: every
row of the block that is not empty is taken to hold it (03 R63, log 108). -/
def Coll.lseOut (k : Coll) (n d e : Nat) (ch : Chunk) (given : List (List Byte)) : FoldOut :=
  let lanes := k.aifLanes n d e ch given
  let merged := ch.maxe2.getD []
  let res := sumResults 46 merged lanes.1
  let flags := fun (l : List Int) => List.zipWith (fun (b : Byte) x => b == 0xFF && (x.headD 0) % 2 == 1) merged (pieces 32 l)
  let nans := flags lanes.1
  let mx := pieces 32 (f32s (ch.maxe.getD []))
  let per := 1 + d
  let own := given.map fun x => List.zipWith LseGroup.scale (lseGroups d x) mx
  let below := ch.psums.map fun x => flags (lanesOf 8 x.2)
  let lnan := fun (g : Nat) => (List.range 32).map fun r =>
    own.any (fun x => F32.isNan (((x[g]?).elim [] (·.l)).getD r 0)) || below.any fun f => f.getD (per * g) false
  let formed := (mx.zipIdx).map fun (m, g) => lseGroupRows k.lseFinal (satOf k.satsel 0) d m
    ((res.1.drop (32 * per * g)).take (32 * per)) (lnan g) ((nans.drop (per * g)).take per)
  let over' := (((formed.flatten).take e).map (·.2)).sum
  let groups := formed.map fun g => g.map (·.1)
  let live := (groups.flatten).take e
  let o := fun (r : F32 × F32 × List F32 × Bool) => r.2.2.1.map fun x => writeElem k.rfmt (satOf k.satsel k.rfmt) 0 0 (F32.val x)
  let data := groups.flatMap fun g =>
    if k.lseFinal then f32Bytes (g.map (·.1)) ++ pack (fmtBits k.rfmt) ((g.flatMap o).map (·.1))
    else f32Bytes (g.map (·.1)) ++ f32Bytes (g.map (·.2.1)) ++ f32Bytes (g.flatMap (·.2.2.1))
  { data := data, lost := lanes.2, special := res.2, empty := (live.filter (·.2.2.2)).length
    range := over' + if k.lseFinal then ((live.flatMap o).filter (·.2)).length else 0 }

/-- The result of a chunk at its root (03 R58, R61, R64, R66 to R68); for RUG in FP32 with SAT 0 (05 R112). `slots` are the
ORDERED contributions in slot order. -/
def Coll.resultOf (k : Coll) (n d e : Nat) (ch : Chunk) (given slots : List (List Byte)) : FoldOut :=
  let rug := k.kind == kRug
  let f := if rug then 0 else k.rfmt
  let sat := if rug then false else satOf k.satsel k.rfmt
  let write := fun (vs : List Val) => writeVals f sat vs
  if k.kind = kBarrier then ⟨[], 0, 0, 0, 0⟩
  else if k.fop = fopLse then k.lseOut n d e ch given
  else if k.fop = fopSum ∨ k.fop = fopSum32 then
    let lanes := k.aifLanes n d e ch given
    let res := sumResults (topOf k.fop n) (ch.maxe.getD []) lanes.1
    let w := write (res.1.take e)
    ⟨pack (fmtBits f) w.1, lanes.2, w.2, res.2, 0⟩
  else if k.fop = fopOrdered then
    let w := write (if slots.isEmpty then List.replicate e (.fin false 0 0) else orderedVals k.cfmt e slots)
    ⟨pack (fmtBits f) w.1, 0, w.2, 0, 0⟩
  else if k.fop = fopIsum then
    let w := write ((k.isumLanes e ch given).map Val.ofInt)
    ⟨pack (fmtBits f) w.1, 0, w.2, 0, 0⟩
  else ⟨pack (fmtBits f) (k.partialCodes e ch given), 0, 0, 0, 0⟩

/-! ### What a chunk waits for -/

/-- A chunk of an OPEN fold or BARRIER that runs on this module. -/
structure ChunkView where
  plan  : Plan
  coll  : Coll
  slot  : Slot
  place : Place4
  ch    : Chunk
  elems : Nat

/-- The chunk as commands on it find it. -/
def State.chunkView (s : State) (hdl : BitVec 20) (c : Nat) : Option ChunkView :=
  match s.plan (planOf hdl) with
  | none => none
  | some p =>
    match p.coll with
    | none => none
    | some k =>
      let v := s.slot hdl
      if !s.engines || v.state != .opened || !(k.folds || k.kind == kBarrier) || decide (p.nChunks v.lseD ≤ c)
          || s.pl.waiting.contains hdl then none
      else (s.chunkPlace p v k c 0).map fun pl =>
        { plan := p, coll := k, slot := v, place := pl, ch := v.chunk c, elems := p.chunkElems v.lseD c }

/-- Every local member's contribution is in. -/
def State.localsIn (s : State) (w : ChunkView) : Bool := (s.localInputs w.plan w.slot).all (w.slot.hasLocal w.ch)

/-- Every child's EXPS of a round is in. -/
def ChunkView.kidsIn (w : ChunkView) (round : Nat) : Bool :=
  w.place.children.all fun x => (if round = 0 then w.ch.exps else w.ch.exps2).any fun e => e.1 == x

/-- Every child's PSUM is in. -/
def ChunkView.psumsIn (w : ChunkView) : Bool := w.place.children.all fun x => w.ch.psums.any fun e => e.1 == x

/-- Phase A of the chunk is behind it here: the merged bytes of its last round are known. -/
def ChunkView.merged (w : ChunkView) : Bool :=
  if w.coll.rounds = 0 then true
  else if w.coll.fop = fopLse ∧ w.coll.kind ≠ kBarrier then w.ch.maxe.isSome && w.ch.maxe2.isSome else w.ch.maxe.isSome

/-- Present ORDERED contributions in slot order. -/
def ChunkView.ordered (w : ChunkView) : List (List Byte) :=
  w.plan.members.filterMap fun m => (Assoc.find m w.ch.contribs).bind id

/-- Everything that the last stage of a chunk needs is in, module contribution included. -/
def State.allIn (s : State) (w : ChunkView) : Option (List (List Byte)) :=
  match s.moduleData w.plan w.slot with
  | none => none
  | some own =>
    let ok :=
      if w.coll.kind = kBarrier then s.localsIn w && w.kidsIn 0
      else if w.coll.fop = fopOrdered then w.plan.members.all (w.slot.hasLocal w.ch)
      else s.localsIn w && w.psumsIn && w.merged
    if ok then some (w.ch.given ++ own) else none

/-! ### Contributions (04 R89 to R92, R102) -/

/-- A presence message or data of the right length. -/
def lenOk (h : Head) (data : List Byte) (n : Nat) : Bool := if h.presence then data.isEmpty else data.length == n

/-- ELEMS and CHUNK of a fold or gather message fit the plan (04 R95). -/
def geometryOk (p : Plan) (v : Slot) (h : Head) : Bool :=
  decide (h.chunk < p.nChunks v.lseD) && h.elems == p.chunkElems v.lseD h.chunk

/-- The tree byte of a message fits its chunk. -/
def State.treeOk (s : State) (pl : Place4) (h : Head) : Bool := h.tree.toNat == treeByte pl.tree s.planeB

/-- The root's leaf of a gather passes its member's chunk on as GATHER (04 R92). -/
def State.gatherFrom (s : State) (m : Msg) (p : Plan) (k : Coll) (pl : Place4) : State :=
  let v := s.slot m.hdl
  let c := m.head.chunk
  let h := mkHead p v msgGather c m.head.elems m.head.presence (treeByte pl.tree s.planeB)
  let t := s.sendDown m.hdl p k h m.data pl.children
  let t := if k.kind = kAllGather then t.modSlot m.hdl fun v => { v with sentDown := v.sentDown ++ [(c, m.src)] }
    else t.markDown m.hdl c
  t.returnStaging m.hdl m.src c

/-- An ORDERED contribution below the root goes on to the parent unchanged (03 R65, log 18). -/
def State.orderedUp (s : State) (m : Msg) (p : Plan) (k : Coll) (pl : Place4) (who parent : FA) : State :=
  let v := s.slot m.hdl
  let h := { mkHead p v msgContrib m.head.chunk m.head.elems m.head.presence (treeByte pl.tree s.planeB) with lastFa := who }
  (s.sendFirst m.hdl k.credits parent h m.data).returnStaging m.hdl m.src m.head.chunk

/-- A contribution that passed every check is staged, and goes on where nothing has to wait for it. -/
def State.stageContrib (s : State) (m : Msg) (p : Plan) (k : Coll) (pl : Place4) (who : FA) : State :=
  match s.takeCredit m.hdl k m.src m.head.chunk with
  | none => s.bump .plnCreditDrop
  | some t =>
    if k.kind = kAllGather ∨ k.kind = kBroadcast then (t.gatherFrom m p k pl).after m.hdl
    else
      let data := if m.head.presence then none else some m.data
      let up := k.folds && k.fop == fopOrdered && pl.parent.isSome
      let t := t.modSlot m.hdl fun v => v.modChunk m.head.chunk fun ch =>
        { ch.arrive m.src t.clk.cycle (if who = m.src then m.src else m.head.lastFa) m.head.late with
          contribs := ch.contribs ++ [(who, if up then none else data)] }
      match up, pl.parent with
      | true, some q => t.orderedUp m p k pl who q
      | _, _ => t

/-- A CONTRIB message (04 R89 step 1, R90 to R95). -/
def execContribReceive (m : Msg) (s : State) : Host.Outcome State Fault Refusal :=
  .next (s.enter m fun p v t =>
    match p.coll with
    | none => t.mismatch m.hdl m.src
    | some k =>
      let c := m.head.chunk
      let ordered := k.folds && k.fop == fopOrdered
      let who := if ordered && t.isModule m.src then m.head.lastFa else m.src
      let gathers := k.kind == kAllGather || k.kind == kBroadcast
      match t.chunkPlace p v k c m.src with
      | none => t.mismatch m.hdl m.src
      | some pl =>
        let party :=
          if gathers then v.locals.contains m.src && pl.root == t.selfFa
            && (k.kind == kAllGather || p.members.getD k.root 0 == m.src)
          else if t.isModule m.src then ordered && pl.children.contains m.src && p.members.contains who
          else (t.localInputs p v).contains m.src
        let twice :=
          if k.kind = kAllGather then v.sentDown.contains (c, m.src)
          else (v.chunk c).sentDown || (v.chunk c).contribs.any fun e => e.1 == who
        let known := k.folds || gathers || k.kind == kBarrier
        if m.head.msg.toNat = msgContrib ∧ known ∧ p.seqn.isNone ∧ party ∧ !twice ∧ t.treeOk pl m.head
            ∧ geometryOk p v m.head ∧ lenOk m.head m.data (k.contribBytes v.lseD m.head.elems) then
          t.stageContrib m p k pl who
        else t.mismatch m.hdl m.src)

/-- An EXPS message of a child (04 R89 step 2, R90; 07 R179). -/
def execExpsReceive (m : Msg) (s : State) : Host.Outcome State Fault Refusal :=
  .next (s.enter m fun p v t =>
    match p.coll with
    | none => t.mismatch m.hdl m.src
    | some k =>
      let c := m.head.chunk
      let ch := v.chunk c
      let round := if ch.exps.any (fun e => e.1 == m.src) then 1 else 0
      let twice := ch.exps2.any fun e => e.1 == m.src
      match t.chunkPlace p v k c 0 with
      | none => t.mismatch m.hdl m.src
      | some pl =>
        if m.head.msg.toNat = msgExps ∧ round < k.rounds ∧ !twice ∧ (round = 0 ∨ ch.maxe.isSome) ∧ pl.children.contains m.src
            ∧ t.treeOk pl m.head ∧ geometryOk p v m.head ∧ m.data.length = k.expsBytes v.lseD m.head.elems round then
          if round = 1 then
            t.setSlot m.hdl (v.modChunk c fun ch =>
              { ch.arriveAgain m.src t.clk.cycle m.head.lastFa m.head.late with exps2 := ch.exps2 ++ [(m.src, m.data)] })
          else
            match t.takeCredit m.hdl k m.src c with
            | none => t.bump .plnCreditDrop
            | some t => t.modSlot m.hdl fun v => v.modChunk c fun ch =>
                { ch.arrive m.src t.clk.cycle m.head.lastFa m.head.late with exps := ch.exps ++ [(m.src, m.data)] }
        else t.mismatch m.hdl m.src)

/-- Sends one phase-A round up, or from the root down as MAXE (04 R89 steps 2 and 3). -/
def State.expsRound (s : State) (hdl : BitVec 20) (c : Nat) (w : ChunkView) (given : List (List Byte)) (round : Nat) : State :=
  let d := w.slot.lseD
  let own := w.coll.phaseBytes d w.elems round (w.ch.maxe.getD []) given
  let merged := w.coll.mergeRound round own ((if round = 0 then w.ch.exps else w.ch.exps2).map (·.2))
  let head := mkHead w.plan w.slot (if w.place.parent.isSome then msgExps else msgMaxe) c w.elems false
    (treeByte w.place.tree s.planeB)
  let s := s.modSlot hdl fun v => v.modChunk c fun ch => { ch with expsSent := round + 1 }
  match w.place.parent with
  | some q =>
    let l := lastOf (w.ch.arrivals round)
    let h := { head with lastFa := l.1, late := l.2 }
    if round = 0 then s.sendFirst hdl w.coll.credits q h merged else s.sendMsg hdl q h merged true false
  | none =>
    let s := s.modSlot hdl fun v => v.modChunk c fun ch =>
      if round = 0 then { ch with maxe := some merged } else { ch with maxe2 := some merged }
    let s := w.place.children.foldl (fun t x => t.sendMsg hdl x head merged false false) s
    if round + 1 = w.coll.rounds then s.straggle w.plan (w.ch.arrivals round) else s

/-- Every lower chunk of the same tree and root has gone through a stage: a stream keeps increasing chunk order within a phase
(04 R83, log 109). -/
def State.inTurn (s : State) (w : ChunkView) (chunk : Nat) (past : Chunk → Bool) : Bool :=
  (List.range chunk).all fun c => past (w.slot.chunk c) ||
    match s.chunkPlace w.plan w.slot w.coll c 0 with
    | some pl => pl.tree != w.place.tree || pl.root != w.place.root
    | none => true

/-- Phase A at this module, once it holds all its inputs of the round. -/
def execExpsSend (hdl : BitVec 20) (chunk : Nat) (s : State) : Host.Outcome State Fault Refusal :=
  .next (match s.chunkView hdl chunk with
  | none => s
  | some w =>
    let round := w.ch.expsSent
    let barrierRoot := w.coll.kind == kBarrier && w.place.parent.isNone
    match s.moduleData w.plan w.slot with
    | none => s
    | some own =>
      if round < w.coll.rounds ∧ !barrierRoot ∧ s.localsIn w ∧ w.kidsIn round ∧ (round = 0 ∨ w.ch.maxe.isSome)
          ∧ s.inTurn w chunk (fun x => decide (round < x.expsSent)) then
        s.expsRound hdl chunk w (w.ch.given ++ own) round
      else s)

/-- A MAXE message of the parent: kept, and forwarded to the children (04 R89 step 3). -/
def execMaxeReceive (m : Msg) (s : State) : Host.Outcome State Fault Refusal :=
  .next (s.enter m fun p v t =>
    match p.coll with
    | none => t.mismatch m.hdl m.src
    | some k =>
      let c := m.head.chunk
      let ch := v.chunk c
      let round := if ch.maxe.isSome then 1 else 0
      match t.chunkPlace p v k c 0 with
      | none => t.mismatch m.hdl m.src
      | some pl =>
        if m.head.msg.toNat = msgMaxe ∧ k.kind ≠ kBarrier ∧ round < k.rounds ∧ round < ch.expsSent ∧ ch.maxe2.isNone
            ∧ pl.parent = some m.src ∧ t.treeOk pl m.head ∧ geometryOk p v m.head
            ∧ m.data.length = k.expsBytes v.lseD m.head.elems round then
          let t := t.modSlot m.hdl fun v => v.modChunk c fun ch =>
            if round = 0 then { ch with maxe := some m.data } else { ch with maxe2 := some m.data }
          let h := mkHead p v msgMaxe c m.head.elems false (treeByte pl.tree t.planeB)
          pl.children.foldl (fun t x => t.sendMsg m.hdl x h m.data false false) t
        else t.mismatch m.hdl m.src)

/-- A PSUM message of a child (04 R89 step 4, R90). -/
def execPsumReceive (m : Msg) (s : State) : Host.Outcome State Fault Refusal :=
  .next (s.enter m fun p v t =>
    match p.coll with
    | none => t.mismatch m.hdl m.src
    | some k =>
      let c := m.head.chunk
      let ch := v.chunk c
      match t.chunkPlace p v k c 0 with
      | none => t.mismatch m.hdl m.src
      | some pl =>
        if m.head.msg.toNat = msgPsum ∧ k.folds ∧ k.fop ≠ fopOrdered ∧ pl.children.contains m.src
            ∧ (ch.psums.all fun e => e.1 != m.src) ∧ (k.rounds = 0 ∨ ch.exps.any fun e => e.1 == m.src)
            ∧ t.treeOk pl m.head ∧ geometryOk p v m.head
            ∧ m.data.length = k.psumBytes v.lseD m.head.elems then
          let put := fun (t : State) => t.modSlot m.hdl fun v => v.modChunk c fun ch =>
            let ch := if k.rounds = 0 then ch.arrive m.src t.clk.cycle m.head.lastFa m.head.late else ch
            { ch with psums := ch.psums ++ [(m.src, m.data)] }
          if k.rounds = 0 then
            match t.takeCredit m.hdl k m.src c with
            | none => t.bump .plnCreditDrop
            | some t => put t
          else put t
        else t.mismatch m.hdl m.src)

/-- A module below the root sends its partial sum up, once every input is added, and frees the chunk (04 R89 step 4). -/
def execPsumSend (hdl : BitVec 20) (chunk : Nat) (s : State) : Host.Outcome State Fault Refusal :=
  .next (match s.chunkView hdl chunk with
  | none => s
  | some w =>
    match w.place.parent, s.allIn w with
    | some q, some given =>
      if w.coll.kind = kBarrier ∨ w.coll.fop = fopOrdered ∨ w.ch.psumSent ∨ !(s.inTurn w chunk (·.psumSent)) then s
      else
        let r := w.coll.psumOf w.plan.members.length w.slot.lseD w.elems w.ch given
        let l := if w.coll.rounds = 0 then lastOf w.ch.arrived else (0, 0)
        let h := { mkHead w.plan w.slot msgPsum chunk w.elems false (treeByte w.place.tree s.planeB) with
          lastFa := l.1, late := l.2 }
        let t := (s.bump .feAlignLoss r.2).modSlot hdl fun v => v.modChunk chunk fun ch => { ch with psumSent := true }
        let t := if w.coll.rounds = 0 then t.sendFirst hdl w.coll.credits q h r.1 else t.sendMsg hdl q h r.1 true false
        t.freeChunk hdl chunk
    | _, _ => s)

/-! ### Results (04 R89 step 5; 05 R114) -/

/-- Byte address of a chunk's master elements in a bank. -/
def State.masterAddr (s : State) (bankB : Bool) (d : Shard) (o first : Nat) : Nat :=
  s.bankAddr bankB + o + d.offW + 4 * first

/-- An update may write the target bank now: the step is the next one, and no export reads the bank (05 R113, R137). -/
def State.updatesRun (s : State) (step : Nat) : Bool :=
  s.stepWaits step == some false && s.led.exports.all fun e => e.bankB != s.tgtB

/-- The chunk waits for its norm pass or for the whole shard (05 R116). -/
def Coll.defers (k : Coll) (d : Shard) : Bool := k.normPlan != 0 || d.whole

/-- Parks a deferred gradient in the target bank's master array (05 R114 step 3); where a granule there heals it stays staged. -/
def State.park (s : State) (hdl : BitVec 20) (p : Plan) (k : Coll) (c : Nat) : State :=
  let v := s.slot hdl
  match p.owners[c]?, v.rugOf c with
  | some o, some r =>
    match s.shardAt o.shard with
    | some (d, off) =>
      if k.defers d && !r.parked && !r.applied && s.updatesRun v.step then
        let a := s.masterAddr s.tgtB d off o.offset
        let t := s.fetchEdges a r.grad.length
        if t.memReady a r.grad.length then (t.stateWrite a r.grad).modSlot hdl fun v => v.setRug c { r with parked := true }
        else t
      else s
    | none => s
  | _, _ => s

/-- Payload head of a MIRROR message (05 R115). -/
def mirrorHead (p : Plan) (v : Slot) (c : Nat) (o : Owner) (lr : F32) : List Byte :=
  leBytes 8 p.sig.toNat ++ leBytes 8 v.step ++ leBytes 4 c ++ leBytes 4 (p.chunkElems 0 c) ++ leBytes 4 lr.toNat ++ zeros 4
  ++ leBytes 8 o.offset

/-- The folded gradient at the root of a RUG chunk: MIRROR to the twin, and parking (05 R114 steps 1 to 3). -/
def State.rugFormed (s : State) (hdl : BitVec 20) (p : Plan) (k : Coll) (c : Nat) (g : List Byte) : State :=
  let v := s.slot hdl
  match p.owners[c]? with
  | none => s
  | some o =>
    match (s.shardAt o.shard).bind fun d => learnRate d.1 v with
    | none => s.failInstance hdl stAborted []
    | some lr =>
      let mirror := s.paired
      let t := s.setSlot hdl (v.setRug c { grad := g, lr := lr, parked := false, applied := false, mirrored := mirror,
                                           fromTwin := false })
      let t := if mirror then
          t.sendMessage t.twin.fa hdl kMirror tcMirror v.step false (mirrorHead p v c o lr) g
        else t
      t.park hdl p k c

/-- The learning-rate entry that the root of a RUG chunk reads (05 R116). -/
def State.rateRange (s : State) (w : ChunkView) (c : Nat) : List (Nat × Nat) :=
  if w.coll.kind ≠ kRug then []
  else match (w.plan.owners[c]?).bind fun o => s.shardAt o.shard with
    | some (d, _) => if d.lrTable then [(s.entryAddr d (min (w.slot.step - d.start - 1) (d.table.length - 1)), 4)] else []
    | none => []

/-- What forming a chunk's result reads and writes in module memory meets the memory code (11 R256, R257). -/
def State.formFetch (s : State) (w : ChunkView) (c : Nat) : State :=
  (s.fetchAll (s.rateRange w c) []).resFetch w.coll c w.slot.lseD w.elems

/-- Forming a chunk's result need not wait for a heal or a router tensor (11 R259, 10 R244). -/
def State.formReady (s : State) (w : ChunkView) (c : Nat) : Bool :=
  s.allReady (s.rateRange w c) && s.resReady w.coll c w.slot.lseD w.elems

/-- The root forms the result (04 R89 step 5), or for RUG the folded gradient. -/
def execFoldResultForm (hdl : BitVec 20) (chunk : Nat) (s : State) : Host.Outcome State Fault Refusal :=
  .next (match s.chunkView hdl chunk with
  | none => s
  | some w =>
    match w.place.parent, s.allIn w with
    | none, some given =>
      if w.ch.formed ∨ !(s.inTurn w chunk (·.formed)) then s
      else
        let s := s.formFetch w chunk
        if (s.slot hdl).state ≠ .opened ∨ !(s.formReady w chunk) then s.settle
        else
        let r := w.coll.resultOf w.plan.members.length w.slot.lseD w.elems w.ch given w.ordered
        let t := ((s.bump .feAlignLoss r.lost).bump .feSpecialBlock r.special).bump .feFoldRange r.range
        let t := t.bump .feLseEmpty r.empty
        let t := t.modSlot hdl fun v => v.modChunk chunk fun ch => { ch with formed := true }
        let t := if w.coll.rounds = 0 ∨ w.coll.kind = kBarrier then t.straggle w.plan w.ch.arrived else t
        if w.coll.kind = kRug then ((t.freeChunk hdl chunk).rugFormed hdl w.plan w.coll chunk r.data).after hdl
        else
          let t := t.writeResH hdl w.plan w.coll chunk w.slot.lseD w.elems r.data
          let h := mkHead w.plan w.slot msgResult chunk w.elems false (treeByte w.place.tree t.planeB)
          let t := t.sendDown hdl w.plan w.coll h r.data w.place.children
          let t := (t.markDown hdl chunk).freeChunk hdl chunk
          (t.resultEffect w.plan hdl w.slot.step r.data).after hdl
    | _, _ => s)

/-- A RESULT message of the parent: forwarded, delivered, and acted on (04 R89 step 5, R90; 05 R131, R119). -/
def execResultReceive (m : Msg) (s : State) : Host.Outcome State Fault Refusal :=
  .next (s.enter m fun p v t =>
    match p.coll with
    | none => t.mismatch m.hdl m.src
    | some k =>
      let c := m.head.chunk
      match t.chunkPlace p v k c 0 with
      | none => t.mismatch m.hdl m.src
      | some pl =>
        if m.head.msg.toNat = msgResult ∧ (k.folds ∨ k.kind = kBarrier) ∧ k.kind ≠ kRug ∧ pl.parent = some m.src
            ∧ !(v.chunk c).sentDown ∧ t.treeOk pl m.head ∧ geometryOk p v m.head
            ∧ m.data.length = k.resultBytes v.lseD m.head.elems then
          let t := (t.sendDown m.hdl p k m.head m.data pl.children).markDown m.hdl c
          (t.resultEffect p m.hdl v.step m.data).after m.hdl
        else t.mismatch m.hdl m.src)

/-! ### Ends (04 R99, R451) -/

/-- Passes an END on down the tree it names: to the neighbours but its sender, with the most severe status held. -/
def State.endOn (s : State) (hdl : BitVec 20) (p : Plan) (tree : Nat) (planeB : Bool) (src : FA) : State :=
  if planeB = s.planeB then s.endDown hdl p tree (some src) else s

/-- An END with a failure status: as root the module sends END to all of its own trees, else it passes it on, and it closes. -/
def State.endFail (s : State) (hdl : BitVec 20) (p : Plan) (tree : Nat) (planeB : Bool) (src : FA) : State :=
  let v := s.slot hdl
  let own := (((s.rootPairs p v s.planeB).filter fun x => x.2 == s.selfFa).map (·.1)).filter fun t => !(v.rootDone.contains t)
  let t := if planeB == s.planeB && own.contains tree then s else s.endOn hdl p tree planeB src
  (own.foldl (fun t x => t.endDown hdl p x none) t).closeSlot hdl p

/-- An END at an OPEN slot of its step. -/
def State.endOpen (s : State) (m : Msg) (p : Plan) (status : Nat) (off : List FA) : State :=
  let tree := m.head.treeIx
  let s := s.modSlot m.hdl fun v => v.merge status off
  if (s.slot m.hdl).failing then s.endFail m.hdl p tree m.head.planeB m.src
  else
    let s := if m.head.planeB = s.planeB then
        s.modSlot m.hdl fun v => { v with ends := Assoc.set tree (v.endsOf tree + 1) v.ends }
      else s
    (s.endOn m.hdl p tree m.head.planeB m.src).maybeClose m.hdl

/-- An END at a FREE slot, or above the step of a CLOSED one: the slot opens and closes at once (04 R451). -/
def State.endFresh (s : State) (m : Msg) (p : Plan) (status : Nat) (off : List FA) : State :=
  let pm := s.pmaskFor p.members
  let t := s.openSlot m.hdl p m.head.step pm (if p.seqn.isSome then some (BitVec.ofNat 32 m.head.layer) else none)
  let t := t.modSlot m.hdl fun v => v.merge (if m.head.pmask = pm then status else max status stPlaneChange) off
  t.endFail m.hdl p m.head.treeIx m.head.planeB m.src

/-- An END at a CLOSED slot of its step is recorded. -/
def State.endNoted (s : State) (m : Msg) (p : Plan) (status : Nat) (off : List FA) : State :=
  let t := s.modSlot m.hdl fun v =>
    { v.merge status off with ends := Assoc.set m.head.treeIx (v.endsOf m.head.treeIx + 1) v.ends }
  t.noteStatus p (t.slot m.hdl)

/-- An END at an OPEN slot of its step, with its PMASK compared (04 R86). -/
def State.endMatched (s : State) (m : Msg) (p : Plan) (status : Nat) (off : List FA) : State :=
  let t := if m.head.pmask = (s.slot m.hdl).pmask then s else s.failInstance m.hdl stPlaneChange []
  if (t.slot m.hdl).state = .opened then t.endOpen m p status off else t.endNoted m p status off

/-- An END message (04 R451). -/
def execEndReceive (m : Msg) (s : State) : Host.Outcome State Fault Refusal :=
  let s := s.takeInbox m.src m.hdl
  let n := msgCells m.data
  .next (
    if !s.engines then s
    else
      match s.plan (planOf m.hdl) with
      | none => s.bump .plnUnlaunchedDrop n
      | some p =>
        let v := s.slot m.hdl
        if v.unlaunched (!(s.isLeafOf m.src)) m.src m.head.step then s.bump .plnUnlaunchedDrop n
        else if !m.head.ok then
          (if v.state = .opened then s.mismatch m.hdl m.src else s.bump .plnSigMismatch)
        else if v.state = .opened ∧ v.refused.contains m.src then s
        else if v.state = .opened ∧ m.head.step = v.step
            ∧ (m.head.sig ≠ p.sig ∨ m.data.length ≠ 2 * m.head.elems ∨ !(s.isModule m.src)
              ∨ (p.seqn.isSome ∧ m.head.layer ≠ (v.scalar.getD 0).toNat)) then s.mismatch m.hdl m.src
        else
          let status := endStatus m.head.status.toNat
          let off := (pieces 2 m.data).map fun x => BitVec.ofNat 16 (leNat x)
          match v.state with
          | .opened => if m.head.step = v.step then (s.endMatched m p status off).settle else s.bump .plnLateDrop n
          | .free => (s.endFresh m p status off).settle
          | .closed =>
            if m.head.step = v.step then (s.endNoted m p status off).settle
            else if v.step < m.head.step then (s.endFresh m p status off).settle
            else s.bump .plnLateDrop n)

end Sys2Proof.Machine
end

