-- ==== Sys2Proof/Machine/SieveOps.lean ====
section
/-!
DEFINITION. Machine/SieveOps.lean: the arithmetic of the sieve engines (06 R140 to R143, R159 to R161, R165).
-/
namespace Sys2Proof.Machine

open Sys2Proof

/-! ### Key order (06 R141) -/

/-- The key order: −0 below +0, NaN above +Inf. -/
def keyLt (a b : Val) : Bool := a != .nan && (b == .nan || a.below b)

/-- A relation as CMP_SET codes it (08 R197), from the order of two keys. -/
def relOf (rel : Nat) (lt gt : Bool) : Bool :=
  match rel with
  | 0 => !lt && !gt
  | 1 => lt || gt
  | 2 => lt
  | 3 => !gt
  | 4 => gt
  | _ => !lt

/-- Positions of keys in sorted order; equal keys keep their input order. -/
def sortedIx (desc : Bool) (keys : List Val) : List Nat :=
  (sortBy (fun a b => if desc then keyLt b.1 a.1 else keyLt a.1 b.1) (keys.zipIdx)).map (·.2)

/-- Positions of the k best keys of a row, best first. -/
def topIx (k : Nat) (keys : List Val) : List Nat := (sortedIx true keys).take k

/-! ### SCAN (06 R142) -/

/-- Prefix sums in INT32 codes, and how many saturated. -/
def scanSums (exclusive : Bool) (xs : List Int) : List Nat × Nat :=
  let r := (xs.foldl (fun (st : Int × List (Nat × Bool)) x =>
    let after := st.1 + x
    (after, st.2 ++ [intWrite 32 true 0 0 (Val.ofInt (if exclusive then st.1 else after))])) (0, [])).2
  (r.map (·.1), (r.filter (·.2)).length)

/-! ### RLZ streams (06 R159 to R161) -/

/-- One record: ZB zero blocks and LB literal blocks. -/
def rlzRecord (zb : Nat) (lits : List (List Byte)) : List Byte :=
  leBytes 4 (zb + lits.length * 2 ^ 24) ++ lits.flatten

/-- Records of one run of zero blocks and the literal blocks after it: split at 2^24 − 1 and at 255. -/
def rlzRun (zb : Nat) (lits : List (List Byte)) : List Byte :=
  let m := 2 ^ 24 - 1
  let full := if zb = 0 then 0 else (zb - 1) / m
  let zrecs := (List.replicate full (rlzRecord m [])).flatten
  match pieces 255 lits with
  | [] => zrecs ++ (if zb = 0 then [] else rlzRecord (zb - full * m) [])
  | p :: ps => zrecs ++ rlzRecord (zb - full * m) p ++ ps.flatMap (rlzRecord 0)

/-- Records of blocks: none codes a zero block. -/
def rlzRecords (bs : List (Option (List Byte))) : List Byte :=
  let fin := bs.foldl (fun (st : List Byte × Nat × List (List Byte)) b =>
    match b, st with
    | some l, (out, z, ls) => (out, z, ls ++ [l])
    | none, (out, z, []) => (out, z + 1, [])
    | none, (out, z, ls) => (out ++ rlzRun z ls, 1, [])) ([], 0, [])
  fin.1 ++ rlzRun fin.2.1 fin.2.2

/-- The header of a stream. -/
def rlzHeader (fmt nblk : Nat) : List Byte := leBytes 1 fmt ++ [1, 0, 0] ++ leBytes 4 nblk

/-- A stream without a mask. -/
def rlzStream (fmt : Nat) (bs : List (Option (List Byte))) : List Byte := rlzHeader fmt bs.length ++ rlzRecords bs

/-- A block of codes with no element other than ±0. -/
def zeroBlock (f : Nat) (cs : List Nat) : Bool :=
  cs.all fun c => match readElem f c with
    | .fin _ m _ => m == 0
    | _ => false

/-- The blocks of dense codes as a stream codes them; the last is completed with +0. -/
def denseBlocks (f : Nat) (cs : List Nat) : List (Option (List Byte)) :=
  (pieces 32 cs).map fun b => if zeroBlock f b then none else some (pack (fmtBits f) (b ++ List.replicate (32 - b.length) 0))

/-- What a decode found: predicted blocks, the blocks decoded, and whether the whole stream decoded. -/
structure RlzOut where
  mask   : List Bool
  blocks : List (Option (List Byte))
  ok     : Bool
  deriving DecidableEq, Repr

/-- Decodes records; stops at a decode error (06 R160). -/
def rlzDecodeAux (lit nblk : Nat) : Nat → List Byte → List (Option (List Byte)) → List (Option (List Byte)) × Bool
  | 0, _, acc => (acc, false)
  | n + 1, l, acc =>
    if acc.length = nblk then (acc, l.isEmpty)
    else if l.length < 4 then (acc, false)
    else
      let w := leAt l 0 4
      let zb := w % 2 ^ 24
      let lb := w / 2 ^ 24
      let body := l.drop 4
      let lits := ((pieces lit body).take lb).filter fun p => p.length == lit
      if w = 0 then (acc, false)
      else if nblk < acc.length + zb then (acc ++ List.replicate (nblk - acc.length) none, false)
      else
        let acc1 := acc ++ List.replicate zb none
        if nblk < acc1.length + lb then (acc1 ++ (lits.take (nblk - acc1.length)).map some, false)
        else if lits.length < lb then (acc1 ++ lits.map some, false)
        else rlzDecodeAux lit nblk n (body.drop (lb * lit)) (acc1 ++ lits.map some)

/-- Decodes a stream against the format and block count that are expected (06 R159, R160). -/
def rlzDecode (fmt nblk : Nat) (predict : Bool) (l : List Byte) : RlzOut :=
  let mb := ceilDiv nblk 8
  let ml := if predict then roundUp mb 4 else 0
  let mask := slice l 8 mb
  let bitsOf := if predict then (List.range nblk).map fun b => bitOf (byteAt mask (b / 8)) (b % 8) else []
  let tail := (List.range (8 * ml)).any fun b => decide (nblk ≤ b) && bitOf (byteAt l (8 + b / 8)) (b % 8)
  if l.length < 8 ∨ l.take 8 ≠ rlzHeader fmt nblk then ⟨[], [], false⟩
  else if l.length < 8 + ml then ⟨[], [], false⟩
  else if tail then ⟨bitsOf, [], false⟩
  else
    let r := rlzDecodeAux (4 * fmtBits fmt) nblk (l.length + 1) (l.drop (8 + ml)) []
    ⟨bitsOf, r.1, r.2⟩

/-! ### PACK28 (06 R165) -/

/-- A code that is not ±0. -/
def codeNonZero (f c : Nat) : Bool :=
  match readElem f c with
  | .fin _ m _ => m != 0
  | _ => true

/-- The two values and the index byte of a group of 8, none with three or more non-zero elements. -/
def pack28 (f : Nat) (g : List Nat) : Option (Nat × Nat × Nat) :=
  let nz := (List.range 8).filter fun i => codeNonZero f (natAt g i)
  let free := (List.range 8).filter fun i => !(nz.contains i)
  let v := fun i => if nz.contains i then natAt g i else 0
  let mk := fun i j => some (v i, v j, i + 8 * j)
  match nz, free with
  | [i, j], _ => mk i j
  | [i], f0 :: _ => if i < f0 then mk i f0 else mk f0 i
  | [], f0 :: f1 :: _ => mk f0 f1
  | _, _ => none

/-! ### Routing (06 R148, R149) -/

/-- The gate weights of a token's selected experts, in rank order. -/
def gateWeights (gate : Nat) (lscale : F32) (zs : List F32) (sel : List Nat) : List F32 :=
  let y := fun e => F32.mul (zs.getD e 0#32) lscale
  let ys := sel.map y
  let y0 := ys.headD 0#32
  match gate with
  | 0 =>
    let es := ys.map fun v => F32.exp2 (F32.sub v y0)
    let s := match es with
      | [] => 0#32
      | a :: t => t.foldl F32.add a
    let r := F32.rcp s
    es.map fun e => F32.mul e r
  | 1 =>
    let all := (List.range zs.length).map y
    let m := match all with
      | [] => 0#32
      | a :: t => t.foldl F32.max a
    let r := F32.rcp (laneSum (all.map fun v => F32.exp2 (F32.sub v m)))
    ys.map fun v => F32.mul (F32.exp2 (F32.sub v m)) r
  | _ => ys.map fun v => F32.rcp (F32.add F32.one (F32.exp2 (F32.neg v)))

/-- RENORM over the kept weights of one token (06 R150). -/
def renorm (ws : List (F32 × Bool)) : List F32 :=
  match (ws.filter (·.2)).map (·.1) with
  | [] => ws.map (·.1)
  | a :: t =>
    let r := F32.rcp (t.foldl F32.add a)
    ws.map fun e => if e.2 then F32.mul e.1 r else e.1

end Sys2Proof.Machine
end

