-- ==== Sys2Proof/Machine/Experts.lean ====
section
/-!
DEFINITION. Machine/Experts.lean: exchanges at their leaves: expert dispatch and combine (06 R144 to R157), sparse folds (R158 to
R164), STORE chunks (07 R173) and plain exchanges (04 R93).
-/
namespace Sys2Proof.Machine

open Sys2Proof

/-! ### Messages of exchanges (04 R93; 06 R147) -/

/-- One part of a pair: its number, element width and data. -/
structure Part where
  num  : Nat
  w    : Nat
  data : List Byte

/-- The messages of a part: chunks of 61,440 bytes, or one presence message. -/
def Part.messages (a : Part) : List (Nat × Nat × List Byte) :=
  match pieces 61440 a.data with
  | [] => [(a.num * 2 ^ 28, 0, [])]
  | ps => (ps.zipIdx).map fun (d, i) => (a.num * 2 ^ 28 + i, d.length * 8 / max 1 a.w, d)

/-- Sends parts to a party; the last message carries LAST where asked. -/
def State.sendParts (s : State) (hdl : BitVec 20) (p : Plan) (dst : FA) (msg : Nat) (parts : List Part) (last : Bool) : State :=
  let v := s.slot hdl
  let ms := parts.flatMap Part.messages
  (ms.zipIdx).foldl (fun (t : State) (e, i) =>
    let (c, n, d) := e
    let h := mkHead p v msg c n d.isEmpty (treeByte 0 s.planeB)
    let h := if last && i + 1 == ms.length then { h with flags := h.flags ||| 8 } else h
    t.sendMsg hdl dst h d false false) s

/-- The leaf of a rank on an instance's plane. -/
def State.rankLeaf (s : State) (p : Plan) (r : Nat) : Option FA := s.leafOf (p.members.getD r 0) s.planeB

/-- INT32 elements. -/
def int32Bytes (l : List Nat) : List Byte := l.flatMap (leBytes 4)
def int32s (l : List Byte) : List Nat := (pieces 4 l).map leNat

/-! ### Routing records (06 R150 to R153) -/

/-- Bytes of one row of HID elements. -/
def DispatchSec.row (d : DispatchSec) (f : Nat) : Nat := d.hid * fmtBits f / 8

/-- A member's routing state by rank. -/
def Disp.src (x : Disp) (r : Nat) : Option DispSrc := x.srcs.find? fun a => a.rank == r
def Disp.host (x : Disp) (r : Nat) : Option DispHost := x.hosts.find? fun a => a.rank == r
def Disp.setSrc (x : Disp) (a : DispSrc) : Disp := { x with srcs := x.srcs.map fun b => if b.rank = a.rank then a else b }
def Disp.setHost (x : Disp) (a : DispHost) : Disp := { x with hosts := x.hosts.map fun b => if b.rank = a.rank then a else b }

def State.setDisp (s : State) (hdl : BitVec 20) (x : Disp) : State :=
  { s with pl := { s.pl with disp := Assoc.set (planOf hdl, slotOf hdl) x s.pl.disp } }

/-- Choices of the experts that rank d hosts, in expert order and position order. -/
def DispSrc.toHost (a : DispSrc) (epm d : Nat) : List Choice :=
  sortBy (fun (x y : Choice) => decide (x.expert < y.expert) || (x.expert == y.expert && decide (x.pos < y.pos)))
    (a.choices.filter fun c => c.kept && c.expert / epm == d)

/-- Choices of one expert. -/
def DispSrc.countOf (a : DispSrc) (e : Nat) : Nat := (a.choices.filter fun c => c.expert == e).length

/-- Routes the tokens of one member (06 R148, R149, R156). -/
def DispSrc.route (a : DispSrc) (d : DispatchSec) (logits : List (List F32)) : DispSrc :=
  let skipped := if d.flags.toNat / 4 % 2 = 1 then
      (List.range a.tokens).filter fun t => bitOf (byteAt a.mask (t / 8)) (t % 8) else []
  let live := (logits.zipIdx).filter fun e => !(skipped.contains e.2)
  let poisoned := (live.filter fun e => e.1.any F32.special).map (·.2)
  let choices := live.flatMap fun (zs, t) =>
    if poisoned.contains t then []
    else
      let sel := topIx d.k (zs.map F32.val)
      let ws := gateWeights d.gate d.lscale zs sel
      (sel.zipIdx).map fun (e, i) => { token := t, rank := i, expert := e, weight := ws.getD i 0#32, pos := 0, kept := false }
  { a with choices := choices, poisoned := poisoned, skipped := skipped, routed := true }

/-- Gives the choices their positions from the grants of every host, and RENORM (06 R150, R151); choices of a lost host's
experts count as dropped (06 R154). -/
def DispSrc.place (a : DispSrc) (d : DispatchSec) (lost : List Nat) : DispSrc :=
  let base := fun e => natAt (Assoc.get [] (e / d.epm) a.grants) (e % d.epm)
  let placed := (a.choices.foldl (fun (st : List Choice × List (Nat × Nat)) c =>
    let n := Assoc.get 0 c.expert st.2
    let pos := base c.expert + n
    let granted := (Assoc.find (c.expert / d.epm) a.grants).isSome
    (st.1 ++ [{ c with pos := pos, kept := granted && !(lost.contains (c.expert / d.epm)) && decide (pos < d.cap) }], Assoc.set c.expert (n + 1) st.2)) ([], [])).1
  let renormed := if d.flags.toNat % 2 = 1 then
      placed.map fun c =>
        let row := placed.filter fun x => x.token == c.token
        { c with weight := (renorm (row.map fun x => (x.weight, x.kept))).getD c.rank c.weight }
    else placed
  { a with choices := renormed, rowsSent := true }

/-- Rows that source s keeps at an expert of a host, from its counts (06 R151 step 3). -/
def DispHost.keptOf (h : DispHost) (cap s j : Nat) : Nat :=
  let base := ((h.counts.filter fun e => decide (e.1 < s)).map fun e => natAt e.2 j).sum
  min (natAt (Assoc.get [] s h.counts) j) (cap - base)

/-- First position of source s at an expert of a host. -/
def DispHost.baseOf (h : DispHost) (s j : Nat) : Nat :=
  ((h.counts.filter fun e => decide (e.1 < s)).map fun e => natAt e.2 j).sum

/-- The expert input buffer: rows of every source, expert-major, in position order; an absent row is zeros. -/
def DispHost.buildBuffer (h : DispHost) (m epm cap row : Nat) : List Byte :=
  (List.range epm).flatMap fun j => (List.range m).flatMap fun s =>
    let before := ((List.range j).map (h.keptOf cap s)).sum
    padTo (h.keptOf cap s j * row) (slice (Assoc.get [] s h.rowsIn) (before * row) (h.keptOf cap s j * row))

/-- Rows of source s in a buffer laid out by the host's loads. -/
def DispHost.rowsOf (h : DispHost) (epm cap row s : Nat) (buf : List Byte) : List Byte :=
  (List.range epm).flatMap fun j =>
    let off := ((List.range j).map (natAt h.loads)).sum + h.baseOf s j
    slice buf (off * row) (h.keptOf cap s j * row)

/-! ### The ROLE 0 flow (06 R148 to R151) -/

/-- The elements of a router tensor, with their scales. -/
def State.routerPlaces (s : State) (d : DispatchSec) : List Place :=
  if d.flags.toNat / 2 % 2 = 1 then
    match s.descr d.router with
    | none => []
    | some r => (List.range d.nexp).flatMap fun e => (List.range d.hid).flatMap fun k =>
        (s.placeOf r [k, e] false).toList ++ (if r.scaled then (s.scalePlace r [k, e] false).toList else [])
  else []

/-- The reads of the router tensor decode their blocks (11 R256). -/
def State.routerFetch (s : State) (d : DispatchSec) : State := (s.routerPlaces d).foldl State.fetchPlace s

/-- No element of the router tensor waits for a heal (11 R259). -/
def State.routerReady (s : State) (d : DispatchSec) : Bool := (s.routerPlaces d).all s.placeReady

/-- Logits of every token of a member: FEED part 1, or products with the router weights; with them how many reserved T2 codes
the product reads (02 R37, 06 R148, 10 R243). None: an element of the router tensor cannot be read (10 R238). The tokens of
one FEED are one product (log 103). -/
def State.logitsOf (s : State) (d : DispatchSec) (a : DispSrc) : Option (List (List F32) × Nat) :=
  if d.flags.toNat / 2 % 2 = 1 then
    match s.descr d.router with
    | none => none
    | some r =>
      (allOf ((List.range d.nexp).map fun e => allOf ((List.range d.hid).map fun k => s.valAt r [k, e]))).map fun ws =>
        let rows := pieces (d.row d.tfmt) (slice a.rows 0 (a.tokens * d.row d.tfmt))
        (rows.map fun row =>
          let xs := (unpack (fmtBits d.tfmt) d.hid row).map (readElem d.tfmt)
          ws.map fun w => dotAcc 0#32 (List.zipWith Val.mul xs (w.map (·.1))),
         if rows.isEmpty then 0 else ((ws.flatten).filter (·.2)).length)
  else some ((pieces d.nexp (f32s a.logits)).take a.tokens, 0)

/-- Members that are lost, by rank. -/
def Plan.lostRanks (p : Plan) (v : Slot) : List Nat :=
  (List.range p.members.length).filter fun r => v.absent.contains (p.members.getD r 0)

/-- Stage 1: members whose FEED is complete are routed, and their COUNTS go out. -/
def State.dispCounts (s : State) (hdl : BitVec 20) (p : Plan) (d : DispatchSec) (r : Nat) : State :=
  match s.dispOf (planOf hdl) (slotOf hdl) (s.slot hdl).step with
  | none => s
  | some x =>
    match x.src r with
    | none => s
    | some a =>
      let lost := (p.lostRanks (s.slot hdl)).contains r
      if a.routed ∨ (!a.complete ∧ !lost) then s
      else
        let s := if a.complete then s.routerFetch d else s
        if (s.slot hdl).state ≠ .opened ∨ (a.complete && !s.routerReady d) then s else
        match if a.complete then s.logitsOf d a else some ([], 0) with
        | none => (s.bump .mxFormatError).failInstance hdl stFormatError []
        | some (logits, t2) =>
        let a := if a.complete then a.route d logits else { a with routed := true }
        let s := (((s.bump .mxT2Reserved t2).bump .seRoutePoison a.poisoned.length).bump .seTokenSkip a.skipped.length)
        let s := s.setDisp hdl (x.setSrc a)
        (List.range p.members.length).foldl (fun (s : State) h =>
          let counts := (List.range d.epm).map fun j => a.countOf (h * d.epm + j)
          match s.dispOf (planOf hdl) (slotOf hdl) x.step, s.rankLeaf p h with
          | some x, some leaf =>
            if leaf = s.selfFa then
              match x.host h with
              | some b => s.setDisp hdl (x.setHost { b with counts := Assoc.set r counts b.counts })
              | none => s
            else s.sendParts hdl p leaf msgExch [⟨0, 32, int32Bytes counts⟩] false
          | _, _ => s) s

/-- Loads and drops of a host from all counts (06 R151 step 4, R155, R167). -/
def State.dispLoads (s : State) (hdl : BitVec 20) (d : DispatchSec) (h : DispHost) : DispHost × State :=
  let totals := (List.range d.epm).map fun j => (h.counts.map fun e => natAt e.2 j).sum
  let loads := totals.map (min d.cap)
  let drops := totals.map (· - d.cap)
  let s := (s.bump .seDrop drops.sum).bump .seZeroExpert (loads.filter (· == 0)).length
  let s := (List.range d.epm).foldl (fun (s : State) j =>
    let k := (planOf hdl, h.rank * d.epm + j)
    let r := Assoc.get (0, 0) k s.pl.experts
    { s with pl := { s.pl with experts := Assoc.set k (min maxWord (r.1 + natAt loads j), min maxWord (r.2 + natAt drops j)) s.pl.experts } }) s
  ({ h with loads := loads, drops := drops, granted := true }, s)

/-- Stage 2: hosts with every source's COUNTS send GRANTS. -/
def State.dispGrants (s : State) (hdl : BitVec 20) (p : Plan) (d : DispatchSec) (r : Nat) : State :=
  match s.dispOf (planOf hdl) (slotOf hdl) (s.slot hdl).step with
  | none => s
  | some x =>
    match x.host r with
    | none => s
    | some h =>
      let lost := p.lostRanks (s.slot hdl)
      let have' := (List.range p.members.length).all fun m => lost.contains m || h.counts.any fun e => e.1 == m
      if h.granted ∨ !have' then s
      else
        let (h, s) := s.dispLoads hdl d h
        let s := s.setDisp hdl (x.setHost h)
        (List.range p.members.length).foldl (fun (s : State) m =>
          let grant := (List.range d.epm).map fun j => min (h.baseOf m j) d.cap
          match s.dispOf (planOf hdl) (slotOf hdl) x.step, s.rankLeaf p m with
          | some x, some leaf =>
            if leaf = s.selfFa then
              match x.src m with
              | some a => s.setDisp hdl (x.setSrc { a with grants := Assoc.set r grant a.grants })
              | none => s
            else s.sendParts hdl p leaf msgExch [⟨0, 32, int32Bytes grant⟩] false
          | _, _ => s) s

/-- Sends one source's rows to a host, or puts them where they belong when the host is served here. -/
def State.dispRowsTo (s : State) (hdl : BitVec 20) (p : Plan) (r h w : Nat) (rows : List Byte) : State :=
  match s.dispOf (planOf hdl) (slotOf hdl) (s.slot hdl).step, s.rankLeaf p h with
  | some x, some leaf =>
    if leaf = s.selfFa then
      match x.host h with
      | some b => s.setDisp hdl { x.setHost { b with rowsIn := Assoc.set r rows b.rowsIn } with ended := x.ended ++ [(r, h)] }
      | none => s
    else s.sendParts hdl p leaf msgExch [⟨2, w, rows⟩] true
  | _, _ => s

/-- Stage 3: members with every host's GRANTS place their choices and send ROWS. -/
def State.dispRows (s : State) (hdl : BitVec 20) (p : Plan) (d : DispatchSec) (r : Nat) : State :=
  match s.dispOf (planOf hdl) (slotOf hdl) (s.slot hdl).step with
  | none => s
  | some x =>
    match x.src r with
    | none => s
    | some a =>
      let lost := p.lostRanks (s.slot hdl)
      let have' := (List.range p.members.length).all fun h => lost.contains h || a.grants.any fun e => e.1 == h
      if !a.routed ∨ a.rowsSent ∨ !have' then s
      else
        let a := a.place d lost
        let s := s.bump .seHostLost (a.choices.filter fun c => lost.contains (c.expert / d.epm)).length
        let s := s.setDisp hdl (x.setSrc { a with done := true })
        (List.range p.members.length).foldl (fun (s : State) h =>
          let rows := (a.toHost d.epm h).flatMap fun c => slice a.rows (c.token * d.row d.tfmt) (d.row d.tfmt)
          s.dispRowsTo hdl p r h (fmtBits d.tfmt) rows) s

/-- Every source's rows for a host are in. -/
def Disp.rowsAllIn (x : Disp) (p : Plan) (v : Slot) (h : Nat) : Bool :=
  (List.range p.members.length).all fun m => (p.lostRanks v).contains m || x.ended.contains (m, h)

/-- Stage 4: a host with every source's rows fills its buffer and delivers (06 R151). -/
def State.dispDeliver (s : State) (hdl : BitVec 20) (p : Plan) (d : DispatchSec) (r : Nat) (loads : DispHost → List Nat)
    (buffer : DispHost → List Byte) (w : Nat) : State :=
  let v := s.slot hdl
  match s.dispOf (planOf hdl) (slotOf hdl) v.step with
  | none => s
  | some x =>
    match x.host r with
    | none => s
    | some h =>
      if h.done ∨ (d.role = 0 ∧ !h.granted) ∨ !(x.rowsAllIn p v r) then s
      else
        let h := { h with buffer := buffer h, done := true }
        let s := s.setDisp hdl (x.setHost h)
        let who := p.members.getD r 0
        if v.absent.contains who then s
        else s.sendParts hdl p who msgGather [⟨0, 32, int32Bytes (loads h)⟩, ⟨2, w, h.buffer⟩] true

/-! ### ROLES 1 to 3 (06 R152) -/

/-- The forward records of a member as a source, and as a host. -/
def State.fwdSrc (s : State) (d : DispatchSec) (hdl : BitVec 20) (r : Nat) : Option DispSrc :=
  (s.dispOf d.fwdPlan (slotOf hdl) (s.slot hdl).step).bind fun x => x.src r

def State.fwdHost (s : State) (d : DispatchSec) (hdl : BitVec 20) (r : Nat) : Option DispHost :=
  (s.dispOf d.fwdPlan (slotOf hdl) (s.slot hdl).step).bind fun x => x.host r

/-- ROLE 2: the weighted gradients of a member's kept choices go to the hosts. -/
def State.bwdRows (s : State) (hdl : BitVec 20) (p : Plan) (d : DispatchSec) (r : Nat) : State :=
  match s.dispOf (planOf hdl) (slotOf hdl) (s.slot hdl).step with
  | none => s
  | some x =>
    match x.src r, s.fwdSrc d hdl r with
    | some a, some f =>
      let lost := (p.lostRanks (s.slot hdl)).contains r
      if a.rowsSent ∨ (!a.complete ∧ !lost) then s
      else
        let s := s.setDisp hdl (x.setSrc { a with rowsSent := true, done := true })
        (List.range p.members.length).foldl (fun (s : State) h =>
          let rows := (f.toHost d.epm h).map fun c =>
            ((unpack (fmtBits d.rfmt) d.hid (slice a.rows (c.token * d.row d.rfmt) (d.row d.rfmt))).map (toF32 d.rfmt)).map fun g =>
              writeElem d.ofmt (satOf 0 d.ofmt) 0 0 (F32.val (F32.mul c.weight g))
          let s := s.bump (.veConvertRange (s.engineFor hdl)) ((rows.flatten).filter (·.2)).length
          s.dispRowsTo hdl p r h (fmtBits d.ofmt)
            (if lost then [] else pack (fmtBits d.ofmt) ((rows.flatten).map (·.1)))) s
    | _, _ => s

/-- ROLES 1 and 3: a host's rows go back to the leaves of their sources. -/
def State.returnRows (s : State) (hdl : BitVec 20) (p : Plan) (d : DispatchSec) (r : Nat) : State :=
  match s.dispOf (planOf hdl) (slotOf hdl) (s.slot hdl).step with
  | none => s
  | some x =>
    match x.host r, s.fwdHost d hdl r with
    | some h, some f =>
      if h.done ∨ !h.granted then s
      else
        let s := s.setDisp hdl (x.setHost { h with done := true })
        (List.range p.members.length).foldl (fun (s : State) m =>
          let rows := f.rowsOf d.epm d.cap (d.row d.ofmt) m h.buffer
          match s.dispOf (planOf hdl) (slotOf hdl) x.step, s.rankLeaf p m with
          | some x, some leaf =>
            if leaf = s.selfFa then
              match x.src m with
              | some a => s.setDisp hdl { x.setSrc { a with returns := Assoc.set r rows a.returns } with ended := x.ended ++ [(m, r)] }
              | none => s
            else s.sendParts hdl p leaf msgExch [⟨2, fmtBits d.ofmt, rows⟩] true
          | _, _ => s) s
    | _, _ => s

/-- The row that came back for a choice, as FP32. -/
def returnedRow (d : DispatchSec) (f a : DispSrc) (c : Choice) : Option (List Byte) :=
  let h := c.expert / d.epm
  match (f.toHost d.epm h).findIdx? (fun x => x.token == c.token && x.rank == c.rank), Assoc.find h a.returns with
  | some i, some rows =>
    let r := slice rows (i * d.row d.ofmt) (d.row d.ofmt)
    if r.length = d.row d.ofmt then some r else none
  | _, _ => none

/-- The combined row of a token: codes and overflows (06 R152). -/
def combineRow (d : DispatchSec) (f a : DispSrc) (t : Nat) : List (Nat × Bool) :=
  let put := fun (v : Val) => writeElem d.rfmt (satOf 0 d.rfmt) 0 0 v
  if f.poisoned.contains t then List.replicate d.hid (put .nan)
  else
    let rows := (f.choices.filter fun c => c.token == t && c.kept).filterMap fun c => (returnedRow d f a c).map fun r =>
      let y := (unpack (fmtBits d.ofmt) d.hid r).map (toF32 d.ofmt)
      if d.role = 1 then y.map (F32.mul c.weight) else y
    (columns 0#32 d.hid rows).map fun col => put (F32.val (orderedVal col))

/-- ROLES 1 and 3: a member whose rows have all come back gets its combined rows. -/
def State.combine (s : State) (hdl : BitVec 20) (p : Plan) (d : DispatchSec) (r : Nat) : State :=
  let v := s.slot hdl
  match s.dispOf (planOf hdl) (slotOf hdl) v.step with
  | none => s
  | some x =>
    match x.src r, s.fwdSrc d hdl r with
    | some a, some f =>
      let who := p.members.getD r 0
      let all := (List.range p.members.length).all fun h => (p.lostRanks v).contains h || x.ended.contains (r, h)
      if a.done ∨ !all ∨ (!(v.joined.contains who) ∧ !(v.absent.contains who)) then s
      else
        let out := (List.range f.tokens).map (combineRow d f a)
        let s := (s.setDisp hdl (x.setSrc { a with done := true })).bump .feFoldRange ((out.flatten).filter (·.2)).length
        let keepY := d.role == 1 && d.flags.toNat / 8 % 2 == 1
        if v.absent.contains who then s
        else
          let s := s.sendParts hdl p who msgResult [⟨2, fmtBits d.rfmt, pack (fmtBits d.rfmt) ((out.flatten).map (·.1))⟩] (!keepY)
          if keepY then
            let ys := (List.range f.tokens).flatMap fun t => (List.range d.k).flatMap fun i =>
              match f.choices.find? fun c => c.token == t && c.rank == i && c.kept with
              | some c => (returnedRow d f a c).getD (zeros (d.row d.ofmt))
              | none => zeros (d.row d.ofmt)
            s.sendParts hdl p who msgGather [⟨3, fmtBits d.ofmt, ys⟩] true
          else s
    | _, _ => s

/-- Choices of a member whose rows a lost host will not get or send back: the kept ones of the member's route records. Rows that
the leaf itself delivered to the host in ROLE 0 or 2, and rows that came back in ROLE 1 or 3, are delivered (06 R154). -/
def Disp.lostChoices (x : Disp) (d : DispatchSec) (lost : List Nat) (a : DispSrc) (kept : List Choice) : List Choice :=
  kept.filter fun c =>
    let h := c.expert / d.epm
    c.kept && lost.contains h && !(a.choices.contains { c with kept := false })
      && (if d.role = 0 ∨ d.role = 2 then !((x.host h).any (·.done)) else !(x.ended.contains (a.rank, h)) && !a.done)

/-- Choices of a host that was fenced after they were placed are dropped and counted, once (06 R154). ROLE 0 clears their kept
flags in the route records; a later role lists them with the member, its records staying as they are (log 104). -/
def State.dispHostLost (s : State) (hdl : BitVec 20) (p : Plan) (d : DispatchSec) (r : Nat) : State :=
  match s.dispOf (planOf hdl) (slotOf hdl) (s.slot hdl).step with
  | none => s
  | some x =>
    match x.src r with
    | none => s
    | some a =>
      let kept := if d.role = 0 then a.choices else ((s.fwdSrc d hdl r).map (·.choices)).getD []
      let gone := x.lostChoices d (p.lostRanks (s.slot hdl)) a kept
      if gone.isEmpty ∨ (d.role = 0 ∧ !a.done) then s
      else
        let cs := if d.role = 0 then a.choices.map fun c => if gone.contains c then { c with kept := false } else c
          else a.choices ++ gone.map fun c => { c with kept := false }
        (s.setDisp hdl (x.setSrc { a with choices := cs })).bump .seHostLost gone.length

/-- Everything a dispatch-section instance can do now. -/
def State.dispAdvance (s : State) (hdl : BitVec 20) (p : Plan) (d : DispatchSec) : State :=
  let v := s.slot hdl
  if v.state ≠ .opened then s
  else
    let ranks := p.localRanks v
    let m := p.members.length
    let s := ranks.foldl (fun s r => s.dispHostLost hdl p d r) s
    match d.role with
    | 0 =>
      let s := ranks.foldl (fun s r => s.dispCounts hdl p d r) s
      let s := ranks.foldl (fun s r => s.dispGrants hdl p d r) s
      let s := ranks.foldl (fun s r => s.dispRows hdl p d r) s
      ranks.foldl (fun s r => s.dispDeliver hdl p d r (·.loads) (fun h => h.buildBuffer m d.epm d.cap (d.row d.tfmt)) (fmtBits d.tfmt)) s
    | 2 =>
      let s := ranks.foldl (fun s r => s.bwdRows hdl p d r) s
      ranks.foldl (fun s r =>
        match s.fwdHost d hdl r with
        | some f => s.dispDeliver hdl p d r (fun _ => f.loads)
            (fun h => { f with rowsIn := h.rowsIn }.buildBuffer m d.epm d.cap (d.row d.ofmt)) (fmtBits d.ofmt)
        | none => s) s
    | _ =>
      let s := ranks.foldl (fun s r => s.returnRows hdl p d r) s
      ranks.foldl (fun s r => s.combine hdl p d r) s

/-- A dispatch-section instance has done everything at this leaf. -/
def State.dispDone (s : State) (hdl : BitVec 20) (p : Plan) : Bool :=
  let v := s.slot hdl
  if dispPlaneB v.pmask (slotOf hdl) ≠ s.planeB then true
  else
    match s.dispOf (planOf hdl) (slotOf hdl) v.step with
    | none => (p.localRanks v).isEmpty
    | some x =>
      let lost := p.lostRanks v
      x.srcs.all (fun a => a.done || lost.contains a.rank) && x.hosts.all (fun h => h.done || lost.contains h.rank)

/-! ### Sparse folds (06 R158 to R164) -/

def State.sparseOf (s : State) (hdl : BitVec 20) : Option Sparse := Assoc.find (planOf hdl, slotOf hdl) s.pl.sparse

def State.setSparse (s : State) (hdl : BitVec 20) (x : Sparse) : State :=
  { s with pl := { s.pl with sparse := Assoc.set (planOf hdl, slotOf hdl) x s.pl.sparse } }

/-- The sparse instance whose turn it is with the accumulators: the OPEN one whose slot opened first (06 R162). -/
def State.sparseTurn (s : State) (hdl : BitVec 20) : Bool :=
  s.openHdls.all fun h => (s.sparseOf h).isNone || ((s.plan (planOf h)).bind (·.sparse)).isNone
    || decide ((s.slot hdl).order ≤ (s.slot h).order)

/-- Engine and home bucket of a block. -/
def bucketHome (b : Nat) : Nat × Nat := (b % 4, b * 0x9E3779B97F4A7C15 % 2 ^ 64 / 2 ^ 44)

/-- The bucket of a block within 32 probes: its own, or else a free one. -/
def bucketFor (bs : List ((Nat × Nat) × Bucket)) (b : Nat) : Option (Nat × Nat) :=
  let (e, h) := bucketHome b
  let keys := (List.range 32).map fun i => (e, (h + i) % 2 ^ 20)
  match keys.find? fun k => match Assoc.find k bs with
    | some x => x.blk == b
    | none => false with
  | some k => some k
  | none => keys.find? fun k => (Assoc.find k bs).isNone

/-- The bucket that holds a block. -/
def bucketOf (bs : List ((Nat × Nat) × Bucket)) (b : Nat) : Option ((Nat × Nat) × Bucket) :=
  (bucketFor bs b).bind fun k => (Assoc.find k bs).map fun x => (k, x)

/-- A bucket takes a literal's exponent byte; one that comes LIVE takes the next slab (06 R161, R162). -/
def Bucket.take (x : Bucket) (bs : List ((Nat × Nat) × Bucket)) (exp : Nat) : Bucket :=
  { x with live := true, exp := if x.exp.toNat < exp then BitVec.ofNat 8 exp else x.exp, ncontrib := min 65535 (x.ncontrib + 1)
           slab := if x.live then x.slab else (bs.filter (·.2.live)).length }

/-- Pass 1 over one decoded stream: buckets, spill log, and how many blocks missed a prediction or a bucket (06 R161, R163). -/
structure Pass1 where
  buckets : List ((Nat × Nat) × Bucket)
  spill   : List SpillEntry
  miss    : Nat
  spilled : Nat

def Pass1.reserve (a : Pass1) (b : Nat) (holder : FA) (epoch : Nat) : Pass1 :=
  match bucketFor a.buckets b with
  | none => a
  | some k =>
    if (Assoc.find k a.buckets).isSome then a
    else { a with buckets := Assoc.set k { blk := b, exp := 0, live := false, pred := true, holder := holder, epoch := epoch, slab := 0, ncontrib := 0 } a.buckets }

def Pass1.literal (a : Pass1) (predict : Bool) (predicted : Bool) (e : SpillEntry) (exp : Nat) : Pass1 :=
  let log := fun (a : Pass1) => { a with spill := a.spill ++ [e] }
  if predict && !predicted then log { a with miss := a.miss + 1 }
  else if !predict then log { a with spilled := a.spilled + 1 }
  else
    match bucketOf a.buckets e.blk with
    | some (k, x) => { a with buckets := Assoc.set k (x.take a.buckets exp) a.buckets }
    | none => log { a with spilled := a.spilled + 1 }

/-- Pass 1 of the stream from rank s to owner rank d. -/
def Pass1.stream (a : Pass1) (sec : SparseSec) (holder : FA) (epoch s d : Nat) (o : RlzOut) : Pass1 :=
  let a := (o.mask.zipIdx).foldl (fun (a : Pass1) (m, b) => if m then a.reserve (d * sec.bpm + b) holder epoch else a) a
  ((o.blocks.zipIdx).foldl (fun (st : Pass1 × Nat) (l, b) =>
    match l with
    | some lit => (st.1.literal sec.predict (o.mask.getD b false) ⟨d * sec.bpm + b, s, d, st.2⟩ (blockByte (chunkVals sec.fmt 32 lit)),
        st.2 + 1)
    | none => st) (a, 0)).1

/-- Decodes a complete stream; an empty pair is all zero blocks. -/
def SparseSec.decode (sec : SparseSec) (l : List Byte) : RlzOut :=
  if l.isEmpty then ⟨[], List.replicate sec.bpm none, true⟩ else rlzDecode sec.fmt sec.bpm sec.predict l

/-- Runs pass 1 over one pair; `counts` is false where R164 recomputes it. -/
def State.pass1 (s : State) (hdl : BitVec 20) (p : Plan) (sec : SparseSec) (pair : Nat × Nat) (counts : Bool) : State :=
  match s.sparseOf hdl with
  | none => s
  | some x =>
    if x.folded.contains pair then s
    else
      let o := sec.decode (Assoc.get [] pair x.streams)
      if !o.ok then (s.bump .seFormatError).failInstance hdl stFormatError []
      else
        let fa := p.members.getD pair.2 0
        let r := Pass1.stream ⟨s.pl.buckets, x.spill, 0, 0⟩ sec fa (s.party fa).epoch pair.2 pair.1 o
        let t := s.setSparse hdl { x with spill := r.spill, folded := x.folded ++ [pair] }
        let t := { t with pl := { t.pl with buckets := r.buckets } }
        if counts then (t.bump .sePredictMiss r.miss).bump .seSpill r.spilled else t

/-- Pass 1 of every complete pair, where it is this instance's turn. -/
def State.pass1All (s : State) (hdl : BitVec 20) (p : Plan) (sec : SparseSec) (counts : Bool) : State :=
  match s.sparseOf hdl with
  | none => s
  | some x => if s.sparseTurn hdl then x.lasts.foldl (fun t pr => if (t.slot hdl).state = .opened then t.pass1 hdl p sec pr counts else t) s else s

/-- A LAST message has come for an owner from every member. -/
def Sparse.ownerIn (x : Sparse) (p : Plan) (v : Slot) (d : Nat) : Bool :=
  (List.range p.members.length).all fun r => (p.lostRanks v).contains r || x.lasts.contains (d, r)

/-- An accumulator as pass 2 uses it: block, merged exponent byte, slab index, and the slab's AIF64 lanes. -/
structure SparseAcc where
  blk   : Nat
  exp   : Byte
  slab  : Nat
  lanes : List Int

/-- The spill merge (06 R163): the log in block order, then rank order; each entry's exponent byte goes into the block's bucket, or into
a spill slab where no bucket holds the block. `byte` reads an entry's staged literal. -/
def spillMerge (bs : List ((Nat × Nat) × Bucket)) (log : List SpillEntry) (byte : SpillEntry → Nat) :
    List ((Nat × Nat) × Bucket) × List (Nat × Nat) :=
  (sortBy (fun (a b : SpillEntry) => decide (a.blk < b.blk) || (a.blk == b.blk && decide (a.rank < b.rank))) log).foldl
    (fun st e => match bucketOf st.1 e.blk with
      | some (k, x) => (Assoc.set k (x.take st.1 (byte e)) st.1, st.2)
      | none => (st.1, Assoc.set e.blk (max (Assoc.get 0 e.blk st.2) (byte e)) st.2)) (bs, [])

/-- The accumulators of pass 2: LIVE buckets, then spill slabs. -/
def sparseAccs (bs : List ((Nat × Nat) × Bucket)) (slabs : List (Nat × Nat)) : List SparseAcc :=
  let live := bs.filter (·.2.live)
  let zero := List.replicate 32 (0 : Int)
  live.map (fun e => ⟨e.2.blk, e.2.exp, e.2.slab, zero⟩)
    ++ (slabs.zipIdx).map fun (x, i) => ⟨x.1, BitVec.ofNat 8 x.2, live.length + i, zero⟩

/-- An accumulator takes a literal: its lanes, and how many elements lost bits (03 R56, R57). -/
def SparseAcc.add (a : SparseAcc) (vs : List Val) : SparseAcc × Nat :=
  let al := alignVals 46 [a.exp] vs
  ({ a with lanes := addLanes [a.exp] a.lanes al.1 }, al.2)

/-- The fold of the range of owner d: result codes by block (none for a block without a literal) and the counts of the fold
engines (06 R161). -/
def SparseSec.fold (sec : SparseSec) (accs : List SparseAcc) (d : Nat) (outs : List RlzOut) :
    List (Option (List Nat)) × Nat × Nat × Nat :=
  let blocks := (List.range sec.bpm).map fun b =>
    let vs := outs.filterMap fun o => ((o.blocks.getD b none).map (chunkVals sec.fmt 32))
    match vs, accs.find? fun a => a.blk == d * sec.bpm + b with
    | _ :: _, some a =>
      let sum := vs.foldl (fun (st : SparseAcc × Nat) v => let r := st.1.add v; (r.1, st.2 + r.2)) (a, 0)
      let r := sumResults 46 [a.exp] sum.1.lanes
      let w := writeVals sec.rfmt (satOf sec.satsel sec.rfmt) r.1
      (some w.1, sum.2, r.2, w.2)
    | _, _ => (none, 0, 0, 0)
  (blocks.map (·.1), (blocks.map (·.2.1)).sum, (blocks.map (·.2.2.1)).sum, (blocks.map (·.2.2.2)).sum)

/-- The output of one owner's range as its tensor takes it: element codes, and the same as bytes. -/
def SparseSec.output (sec : SparseSec) (bs : List (Option (List Nat))) : List Nat × List Byte :=
  let w := fmtBits sec.rfmt
  if sec.outform = 1 then
    let l := rlzStream sec.rfmt (bs.map fun b => b.map (pack w))
    (l.map (·.toNat), l)
  else
    let cs := bs.flatMap fun b => b.getD (List.replicate 32 0)
    (cs, pack w cs)

/-- Pass 2 for every owner served here: spill merge, fold, output tensor, DELIVER (06 R158, R161, R163). -/
def State.pass2 (s : State) (hdl : BitVec 20) (p : Plan) (sec : SparseSec) (x : Sparse) : State :=
  let v := s.slot hdl
  let lost := p.lostRanks v
  let staged := fun d r => sec.decode (Assoc.get [] (d, r) x.streams)
  let byte := fun (e : SpillEntry) =>
    (((staged e.owner e.rank).blocks.filterMap id)[e.place]?).elim 0 fun lit => blockByte (chunkVals sec.fmt 32 lit)
  let merged := spillMerge s.pl.buckets x.spill byte
  let accs := sparseAccs merged.1 merged.2
  let res := (p.localRanks v).foldl (fun (st : State × Nat) d =>
    let outs := ((List.range p.members.length).filter fun r => !(lost.contains r) || x.lasts.contains (d, r)).map (staged d)
    let f := sec.fold accs d outs
    let o := sec.output f.1
    let t := ((st.1.bump .feAlignLoss f.2.1).bump .feSpecialBlock f.2.2.1).bump .feFoldRange f.2.2.2
    let t := match t.descr sec.out with
      | some r => t.putWalk r st.2 o.1
      | none => t
    let who := p.members.getD d 0
    let t := if sec.deliver && !(v.absent.contains who) then t.sendParts hdl p who msgGather [⟨0, 8, o.2⟩] true else t
    (t, st.2 + o.1.length)) (s, 0)
  let t := res.1.setSparse hdl { x with started := true }
  { t with pl := { t.pl with buckets := [] } }

/-- Pass 2 of a sparse fold (06 R161). -/
def execSpaccPass2 (hdl : BitVec 20) (s : State) : Host.Outcome State Fault Refusal :=
  .next (
    match (s.plan (planOf hdl)).bind fun p => p.sparse.map fun sec => (p, sec) with
    | none => s
    | some (p, sec) =>
      let v := s.slot hdl
      match s.sparseOf hdl with
      | none => s
      | some x =>
        if !s.engines ∨ v.state ≠ .opened ∨ x.started ∨ !(s.sparseTurn hdl) ∨ !((p.localRanks v).all (x.ownerIn p v)) then s
        else
          let t := (s.fetchObject 6 [hdl.toNat]).pass1All hdl p sec true
          match t.sparseOf hdl with
          | some x => if (t.slot hdl).state = .opened then
              let u := t.pass2 hdl p sec x
              (if u.queuesFinished hdl p then u.closeSlot hdl p else u).settle
            else t.settle
          | none => t.settle)

/-! ### Exchanges end (04 R93, R99; log 17) -/

/-- An exchange between endpoints, with no sieve engine and no sequence (04 R93). -/
def Plan.isPlain (p : Plan) : Bool :=
  p.coll.any (fun k => k.kind == kAllToAll || k.kind == kAllToAllV) && p.seqn.isNone && p.dispatch.isNone && p.sparse.isNone

/-- The last message that passed of a pair. -/
def Slot.passed (v : Slot) (src dst : FA) : Option Passing := v.passing.find? fun x => x.src == src && x.dst == dst

/-- Everything that a pair sends through this leaf has passed: of ALL_TO_ALL its last chunk on this plane, of ALL_TO_ALL_V its LAST
message; where LAST may go by the other plane, the pair is over while none of its messages is passing and every member served here has
joined (log 105). -/
def State.pairOver (s : State) (p : Plan) (k : Coll) (v : Slot) (src dst : FA) : Bool :=
  let e := v.passed src dst
  let stride := if v.pmask = 3 then 2 else 1
  if k.kind = kAllToAll then
    decide (p.nChunks 0 ≤ (if s.planeB then stride - 1 else 0)) || e.any fun x => x.gone && decide (p.nChunks 0 ≤ x.chunk + stride)
  else e.any (fun x => x.gone && x.last)
    || (v.pmask == 3 && v.locals.all (fun a => v.joined.contains a || v.absent.contains a) && e.all (·.gone))

/-- Every pair whose source this module serves is over here (log 17). -/
def State.plainDone (s : State) (hdl : BitVec 20) (p : Plan) (k : Coll) : Bool :=
  let v := s.slot hdl
  v.locals.all fun a => v.absent.contains a ||
    p.members.all fun d => d == a || v.absent.contains d || s.pairOver p k v a d

/-- Moves an exchange on and closes it when it has ended here. -/
def State.exchAdvance (s : State) (hdl : BitVec 20) : State :=
  match s.plan (planOf hdl) with
  | none => s
  | some p =>
    match p.coll with
    | none => s
    | some k =>
      if (s.slot hdl).state ≠ .opened ∨ !(k.kind == kAllToAll || k.kind == kAllToAllV) then s
      else
        match p.dispatch, p.sparse with
        | some d, _ =>
          let t := s.dispAdvance hdl p d
          if t.dispDone hdl p && t.queuesFinished hdl p then t.closeSlot hdl p else t
        | none, some _ =>
          match s.sparseOf hdl with
          | some x => if (x.started || (p.localRanks (s.slot hdl)).isEmpty || dispPlaneB (s.slot hdl).pmask (slotOf hdl) != s.planeB)
              && s.queuesFinished hdl p then s.closeSlot hdl p else s
          | none => s
        | none, none => if s.plainDone hdl p k && s.queuesFinished hdl p then s.closeSlot hdl p else s

/-- What follows every command that moves an instance on, exchanges included. -/
def State.progress (s : State) (hdl : BitVec 20) : State := ((s.advance hdl).exchAdvance hdl).settle

/-! ### Holdings of drain rank 5 (04 R103, R104; 06 R163, R166; 07 R181; 08 R209; 13 R304) -/

/-- Bytes that a chunk holds staged. -/
def Chunk.heldBytes (c : Chunk) : Nat :=
  (c.contribs.map fun e => (e.2.getD []).length).sum + ((c.exps ++ c.exps2 ++ c.psums).map fun e => e.2.length).sum

/-- Bytes that a member and a host of a dispatch-section instance hold staged: FEED, rows that wait for GRANTS, rows in and returned. -/
def Disp.heldBytes (x : Disp) : Nat :=
  (x.srcs.map fun a => a.mask.length + a.logits.length + a.rows.length + (a.returns.map fun e => e.2.length).sum).sum
  + (x.hosts.map fun h => h.buffer.length + (h.rowsIn.map fun e => e.2.length).sum).sum

/-- Bytes of a plan's holdings of drain rank 5. Admission never waits: they stand in the working memory that the plan has reserved, and
past that in its part of SPILL, at places that no rule gives (log 113). -/
def State.heldBytes (s : State) (n : Nat) : Nat :=
  let mine := fun (k : Nat × Nat) => k.1 == n
  ((s.pl.slots.filter fun e => mine e.1).map fun e => ((e.2.chunks.map fun c => c.2.heldBytes) ++ e.2.waitOut.map fun w => w.2.2.length).sum).sum
  + ((s.pl.disp.filter fun e => mine e.1).map fun e => e.2.heldBytes).sum
  + ((s.pl.sparse.filter fun e => mine e.1).map fun e => (e.2.streams.map fun x => x.2.length).sum + 16 * e.2.spill.length).sum
  + ((s.pl.staged.filter fun w => planOf w.msg.hdl == n).map fun w => w.msg.data.length).sum

/-- Where they stand: bytes in working memory and bytes in SPILL. -/
def State.heldPlaces (s : State) (p : Plan) : Nat × Nat :=
  let n := s.heldBytes p.num
  (min n (1024 * p.workKib), n - 1024 * p.workKib)

/-! ### EXCH messages -/

/-- A STORE chunk of a producer served here (07 R173). -/
def State.storeReceive (s : State) (m : Msg) (p : Plan) (k : Coll) (q : SeqSec) : State :=
  let v := s.slot m.hdl
  let c := m.head.chunk
  let dup := v.chunks.any (fun e => e.1 == c && e.2.contribs.any fun x => x.1 == m.src)
  match p.members.findIdx? (· == m.src) with
  | none => s.mismatch m.hdl m.src
  | some r =>
    let had := match s.kvBlock q.ctx (v.scalar.getD 0).toNat r (c / q.cpb) v.step with
      | some b => b.chunks.any fun e => e.1 == c % q.cpb
      | none => false
    if q.role = 0 ∧ s.planeOfChunk p v c = s.planeB ∧ v.locals.contains m.src ∧ c < p.nChunks 0 ∧ m.head.elems = p.chunkElems 0 c
        ∧ !m.head.presence ∧ m.data.length = m.head.elems ∧ !dup ∧ !had then
      match s.takeCredit m.hdl k m.src c with
      | none => s.bump .plnCreditDrop
      | some t =>
        if t.storeHeld q v then
          t.modSlot m.hdl fun v => v.modChunk c fun ch => { ch with contribs := ch.contribs ++ [(m.src, some m.data)] }
        else (t.storeChunk q v r c m.data).returnStaging m.hdl m.src c
    else s.mismatch m.hdl m.src

/-- A message holds the next chunk of a part whose earlier chunks are whole (04 R80, R83, R95; 06 R147). -/
def nextInPart (m : Msg) (had : List Byte) : Bool :=
  had.length == m.head.chunk % 2 ^ 28 * 61440 && decide (m.data.length ≤ 61440)

/-- FEED of a dispatch-section instance from an endpoint served here (06 R147); ELEMS is at most COUNT (04 R95). -/
def State.feedReceive (s : State) (m : Msg) (k : Coll) (d : DispatchSec) (r : Nat) : State :=
  let v := s.slot m.hdl
  let part := m.head.chunk / 2 ^ 28
  let router := d.flags.toNat / 2 % 2 == 1
  let w := if part = 0 then 8 else if part = 1 then 32
    else fmtBits (if d.role = 0 then d.tfmt else if d.role = 2 then d.rfmt else d.ofmt)
  let allowed := part == 2 || (d.role == 0 && ((part == 0 && d.flags.toNat / 4 % 2 == 1) || (part == 1 && !router)))
  match s.dispOf (planOf m.hdl) (slotOf m.hdl) v.step with
  | none => s.mismatch m.hdl m.src
  | some x =>
    if !allowed ∨ m.data.length ≠ ceilDiv (m.head.elems * w) 8 ∨ (m.head.presence ∧ m.head.elems ≠ 0) ∨ k.count < m.head.elems then
      s.mismatch m.hdl m.src
    else if d.role = 1 ∨ d.role = 3 then
      match x.host r, s.fwdHost d m.hdl r with
      | some h, some f =>
        if h.granted ∨ !(nextInPart m h.buffer) then s.mismatch m.hdl m.src else
        let h := { h with buffer := h.buffer ++ m.data, granted := m.head.last }
        if m.head.last ∧ h.buffer.length ≠ f.loads.sum * d.row d.ofmt then s.mismatch m.hdl m.src
        else (s.setDisp m.hdl (x.setHost h)).progress m.hdl
      | _, _ => s.mismatch m.hdl m.src
    else
      match x.src r with
      | none => s.mismatch m.hdl m.src
      | some a =>
        let had := if part = 0 then a.mask else if part = 1 then a.logits else a.rows
        if a.complete ∨ a.fed.contains m.head.chunk ∨ !(nextInPart m had) then s.mismatch m.hdl m.src
        else
          let a := { a with fed := a.fed ++ [m.head.chunk], complete := m.head.last }
          let a := if part = 0 then { a with mask := a.mask ++ m.data } else if part = 1 then { a with logits := a.logits ++ m.data }
            else { a with rows := a.rows ++ m.data }
          let want := a.rows.length == a.tokens * d.row (if d.role = 0 then d.tfmt else d.rfmt)
            && (d.role != 0 || ((router || a.logits.length == a.tokens * d.nexp * 4)
              && (d.flags.toNat / 4 % 2 == 0 || a.mask.length == ceilDiv a.tokens 8)))
          if m.head.last ∧ !want then s.mismatch m.hdl m.src
          else (s.setDisp m.hdl (x.setSrc a)).progress m.hdl

/-- COUNTS, GRANTS and ROWS between leaves (06 R147), for source rank `src` and host rank `dst`; ELEMS is at most COUNT and fits the
data (04 R90, R95). -/
def State.sieveReceive (s : State) (m : Msg) (p : Plan) (k : Coll) (d : DispatchSec) (src dst : Nat) : State :=
  let v := s.slot m.hdl
  let part := m.head.chunk / 2 ^ 28
  let ranks := p.localRanks v
  match s.dispOf (planOf m.hdl) (slotOf m.hdl) v.step with
  | none => s.mismatch m.hdl m.src
  | some x =>
    let fromSrc := some m.src == s.rankLeaf p src && ranks.contains dst
    let fromHost := some m.src == s.rankLeaf p dst && ranks.contains src
    let back := d.role == 1 || d.role == 3
    let w := if part = 0 then 32 else fmtBits (if d.role = 0 then d.tfmt else d.ofmt)
    let even := decide (m.head.elems ≤ k.count) && m.data.length == ceilDiv (m.head.elems * w) 8
    match x.src src, x.host dst with
    | _, some h =>
      if !even then s.mismatch m.hdl m.src
      else if fromSrc ∧ m.head.chunk = 0 ∧ d.role = 0 ∧ m.data.length = 4 * d.epm ∧ h.counts.all (fun e => e.1 != src) then
        (s.setDisp m.hdl (x.setHost { h with counts := h.counts ++ [(src, int32s m.data)] })).progress m.hdl
      else if fromSrc ∧ part = 2 ∧ !back ∧ !(x.ended.contains (src, dst)) ∧ nextInPart m (Assoc.get [] src h.rowsIn) then
        let h := { h with rowsIn := Assoc.set src (Assoc.get [] src h.rowsIn ++ m.data) h.rowsIn }
        let y := x.setHost h
        (s.setDisp m.hdl (if m.head.last then { y with ended := y.ended ++ [(src, dst)] } else y)).progress m.hdl
      else s.mismatch m.hdl m.src
    | some a, none =>
      if !even then s.mismatch m.hdl m.src
      else if fromHost ∧ m.head.chunk = 0 ∧ d.role = 0 ∧ m.data.length = 4 * d.epm ∧ a.grants.all (fun e => e.1 != dst) then
        (s.setDisp m.hdl (x.setSrc { a with grants := a.grants ++ [(dst, int32s m.data)] })).progress m.hdl
      else if fromHost ∧ part = 2 ∧ back ∧ !(x.ended.contains (src, dst)) ∧ nextInPart m (Assoc.get [] dst a.returns) then
        let a := { a with returns := Assoc.set dst (Assoc.get [] dst a.returns ++ m.data) a.returns }
        let y := x.setSrc a
        (s.setDisp m.hdl (if m.head.last then { y with ended := y.ended ++ [(src, dst)] } else y)).progress m.hdl
      else s.mismatch m.hdl m.src
    | none, none => s.mismatch m.hdl m.src

/-- An RLZ stream of a sparse fold from rank `src` to owner rank `dst` (06 R158). -/
def State.rlzReceive (s : State) (m : Msg) (p : Plan) (k : Coll) (sec : SparseSec) (src dst : Nat) : State :=
  let v := s.slot m.hdl
  match s.sparseOf m.hdl with
  | none => s.mismatch m.hdl m.src
  | some x =>
    let had := Assoc.get [] (dst, src) x.streams
    if p.members.getD src 0 = m.src ∧ (p.localRanks v).contains dst ∧ m.data.length = m.head.elems
        ∧ m.head.chunk * 61440 = had.length ∧ had.length + m.data.length ≤ k.count ∧ !(x.lasts.contains (dst, src)) ∧ !x.started then
      let x := { x with streams := Assoc.set (dst, src) (had ++ m.data) x.streams
                        lasts := if m.head.last then x.lasts ++ [(dst, src)] else x.lasts }
      ((s.setSparse m.hdl x).pass1All m.hdl p sec true).settle
    else s.mismatch m.hdl m.src

/-- The head of a plain exchange fits the plan: two members, the plane that its chunk has, CHUNK and ELEMS (04 R85, R93, R95). -/
def State.exchFits (s : State) (p : Plan) (k : Coll) (v : Slot) (src dst : FA) (h : Head) : Bool :=
  p.members.contains src && p.members.contains dst && src != dst && chunkPlaneB v.pmask h.chunk == s.planeB
    && (if k.kind = kAllToAll then decide (h.chunk < p.nChunks 0) && h.elems == p.chunkElems 0 h.chunk
        else decide (h.elems ≤ k.count) && (decide (h.chunk < p.nChunks 0) || (h.presence && h.chunk == 0)))

/-- Records the message of a pair that passes. -/
def Slot.letPass (v : Slot) (e : Passing) : Slot :=
  { v with passing := (v.passing.filter fun x => !(x.src == e.src && x.dst == e.dst)) ++ [e] }

/-- Bytes that a message of a plain exchange holds: its elements are bytes (04 R80, R81). -/
def exchBytes (h : Head) : Nat := if h.presence then 0 else h.elems

/-- A message of a plain exchange at the leaf of its source: checked, and passed on to the destination as the cells of the pair, whose
chunk c begins at SEQ 257 c (04 R80, R83, R93, R95, R98). -/
def State.plainReceive (s : State) (m : Msg) (p : Plan) (k : Coll) (dst : Nat) : State :=
  let v := s.slot m.hdl
  let c := m.head.chunk
  let dest := p.members.getD dst 0
  if s.exchFits p k v m.src dest m.head ∧ v.locals.contains m.src ∧ m.data.length = exchBytes m.head
      ∧ (v.passed m.src dest).all (fun e => decide (e.chunk < c) && !e.last) then
    let t := s.modSlot m.hdl fun v =>
      { v.letPass ⟨m.src, dest, c, exchBytes m.head, m.head.last, true⟩ with relayed := Assoc.set (m.src, dest) (257 * c) v.relayed }
    let kt := msgKindTc m.head.msg.toNat false
    (t.relayMessage m.hdl m.src kt.1 kt.2 m.head.bytes m.data [dest]).progress m.hdl
  else s.mismatch m.hdl m.src

/-- STEP that a head's payload holds. -/
def Cell.stepAt (c : Cell) : Nat := leAt c.payload 8 8

/-- A cell of a message that holds some bytes, at its place in the message (04 R81, R90). -/
def cellFits (bytes i : Nat) (c : Cell) : Bool :=
  let n := ceilDiv bytes 240
  decide (i ≤ n) && c.fl == (i == n) && c.len == (if i = 0 then 40 else min 240 (bytes - 240 * (i - 1)))

/-- A cell of an exchange that an endpoint served here sends to an endpoint: it passes through this leaf by the route tables, and the
leaf checks it on the way (04 R93, R98). -/
def State.inPassing (s : State) (c : Cell) : Bool :=
  c.kind == kExch && s.isLeafOf c.src && c.dst != s.selfFa && decide (c.dst.toNat < 0xF000) && !s.isModule c.dst

/-- The check of a cell in passing (04 R78, R85, R86, R90, R93, R95, R97, R98): what it does, and whether the cell goes on. Cells of
pairs that are over go on at a CLOSED slot as well (log 105). -/
def State.exchPassing (s : State) (c : Cell) : State × Bool :=
  match (s.plan (planOf c.hdl)).bind fun p => p.coll.map fun k => (p, k) with
  | none => (s.bump .plnUnlaunchedDrop, false)
  | some (p, k) =>
    let v := s.slot c.hdl
    let n := c.seq / 257
    let i := c.seq % 257
    let fresh := v.state == .closed && c.seq == 0 && c.stepAt != v.step
    if !p.isPlain then (s, true)
    else if v.state = .free ∨ !(v.joined.contains c.src) ∨ fresh then (s.bump .plnUnlaunchedDrop, false)
    else if v.refused.contains c.src then (s, false)
    else if i = 0 then
      let h := Head.ofBytes c.payload
      if !h.ok ∨ !(zeroAt c.payload 30 32) ∨ h.sig ≠ p.sig ∨ h.step ≠ v.step then (s.mismatch c.hdl c.src, false)
      else if h.pmask ≠ v.pmask then (s.failInstance c.hdl stPlaneChange [], false)
      else if h.msg.toNat ≠ msgExch ∨ h.chunk ≠ n ∨ !(s.exchFits p k v c.src c.dst h) ∨ !(cellFits (exchBytes h) 0 c) then
        (s.mismatch c.hdl c.src, false)
      else if (v.passed c.src c.dst).all fun e => decide (e.chunk < n) then
        let t := s.modSlot c.hdl fun v => v.letPass ⟨c.src, c.dst, n, exchBytes h, h.last, c.fl⟩
        (if c.fl then t.progress c.hdl else t, true)
      else (s, true)
    else
      match v.passed c.src c.dst with
      | none => (s, true)
      | some e =>
        if e.chunk ≠ n then (s, true)
        else if !(cellFits e.bytes i c) then (s.mismatch c.hdl c.src, false)
        else if c.fl then ((s.modSlot c.hdl fun v => v.letPass { e with gone := true }).progress c.hdl, true)
        else (s, true)

/-- An EXCH message (04 R93, 06 R147, R158, 07 R173). -/
def execExchReceive (m : Msg) (src dst : Nat) (s : State) : Host.Outcome State Fault Refusal :=
  .next (s.enter m fun p v t =>
    match p.coll with
    | none => t.mismatch m.hdl m.src
    | some k =>
      if m.head.msg.toNat ≠ msgExch then t.mismatch m.hdl m.src
      else
        match p.seqn, p.dispatch, p.sparse with
        | some q, _, _ => (t.storeReceive m p k q).settle
        | none, some d, _ =>
          if t.isModule m.src then t.sieveReceive m p k d src dst
          else match p.members.findIdx? (· == m.src) with
            | some r => if v.locals.contains m.src then t.feedReceive m k d r else t.mismatch m.hdl m.src
            | none => t.mismatch m.hdl m.src
        | none, none, some sec => t.rlzReceive m p k sec src dst
        | none, none, none =>
          if p.isPlain ∧ p.members.getD src 0 = m.src ∧ dst < p.members.length then t.plainReceive m p k dst
          else t.mismatch m.hdl m.src)

/-! ### GATHER messages (04 R92, 05 R114, 07 R173) -/

/-- Members whose leaf stands behind a neighbour in a tree (04 R84). -/
def State.leavesBehind (s : State) (p : Plan) (links : List (FA × FA)) (src : FA) : Nat :=
  let mods := subtree links links.length s.selfFa src
  (p.members.filter fun m => (s.leafOf m s.planeB).any mods.contains).length

/-- A GATHER message: forwarded on its tree and delivered. A neighbour sends one GATHER of a chunk for each member behind it
(04 R90); the blocks of a sequence come from their home (07 R174). -/
def execGatherReceive (m : Msg) (s : State) : Host.Outcome State Fault Refusal :=
  .next (s.enter m fun p v t =>
    match p.coll with
    | none => t.mismatch m.hdl m.src
    | some k =>
      let c := m.head.chunk
      let shape := m.head.msg.toNat == msgGather && decide (c < p.nChunks 0) && m.head.elems == p.chunkElems 0 c
        && m.head.planeB == t.planeB && t.planeOfChunk p v c == t.planeB && m.head.treeIx == t.treeOfChunk p v c
      let links := t.links v k.trees t.planeB m.head.treeIx
      let near := treeNear links t.selfFa
      match p.seqn with
      | some q =>
        let b := c / q.cpb
        let who := p.members.getD m.head.lastFa.toNat 0
        if shape ∧ t.leafOf who t.planeB = some m.src ∧ m.src ≠ t.selfFa ∧ q.role ≠ 2 ∧ m.head.lastFa.toNat < p.members.length
            ∧ !(v.sentDown.contains (c, who)) ∧ lenOk m.head m.data m.head.elems ∧ b < q.bpr p.members.length then
          (t.seqDown m.hdl p q m.head m.data m.src).modSlot m.hdl fun v => { v with sentDown := v.sentDown ++ [(c, who)] }
        else t.mismatch m.hdl m.src
      | none =>
        if k.kind = kAllGather then
          if shape ∧ near.contains m.src ∧ (v.sentDown.filter (· == (c, m.src))).length < t.leavesBehind p links m.src
              ∧ lenOk m.head m.data (k.resultBytes 0 m.head.elems) then
            (t.sendDown m.hdl p k m.head m.data (near.filter (· != m.src))).modSlot m.hdl fun v =>
              { v with sentDown := v.sentDown ++ [(c, m.src)] }
          else t.mismatch m.hdl m.src
        else
          match t.chunkPlace p v k c 0 with
          | none => t.mismatch m.hdl m.src
          | some pl =>
            if shape ∧ (k.kind = kBroadcast ∨ (k.kind = kRug ∧ !m.head.presence)) ∧ pl.parent = some m.src
                ∧ !(v.chunk c).sentDown ∧ lenOk m.head m.data (k.resultBytes 0 m.head.elems) then
              ((t.sendDown m.hdl p k m.head m.data pl.children).markDown m.hdl c).after m.hdl
            else t.mismatch m.hdl m.src)

/-! ### LAUNCH (04 R78, R79; 05 R116; 06 R146; 07 R169) -/

/-- Answers a launch. -/
def State.launchReply (s : State) (src : FA) (hdl : BitVec 20) (step status pmask trees : Nat) : State :=
  s.sendCtrl src kCtrl tcMgmt hdl (payLaunchReply step status pmask trees ((s.party src).epoch % 16))

/-- The launch scalar fits the plan's sections. -/
def State.scalarOk (s : State) (p : Plan) (hdl : BitVec 20) (step : Nat) (src : FA) (x : Nat) : Bool :=
  (match p.dispatch with
   | some d => decide (x ≤ d.tmax) && (d.role == 0 || (match s.dispOf d.fwdPlan (slotOf hdl) step with
       | some y => (match (p.members.findIdx? (· == src)).bind y.src with
         | some a => a.tokens == x
         | none => true)
       | none => true))
   | none => true)
  && (match p.seqn with
   | some q => decide (x < q.layers) || (q.role == 2 && x == 0xFFFFFFFF)
   | none => true)

/-- The scalar of a launch of an OPEN slot agrees with the one recorded (05 R116). -/
def scalarAgrees (p : Plan) (v : Slot) (step : Nat) (x : BitVec 32) : Bool :=
  match p.coll, v.scalar with
  | some k, some y => k.kind != kRug || v.state != .opened || v.step != step || y == x
  | _, _ => true

/-- The first launch at a slot that a write head opened gives its scalar to QC14 of the queues that have started (08 R190, log 111). -/
def State.scalarToQueues (s : State) (hdl : BitVec 20) (x : BitVec 32) : State :=
  match Assoc.find hdl s.pl.progs with
  | none => s
  | some g =>
    let g' := { g with queues := g.queues.map fun q => { q with qcs := natSet q.qcs 14 x.toNat } }
    { s with pl := { s.pl with progs := Assoc.set hdl g' s.pl.progs } }

/-- A sender joins an OPEN instance. -/
def State.join (s : State) (hdl : BitVec 20) (p : Plan) (src : FA) (scalar : BitVec 32) : State :=
  let v := s.slot hdl
  let s := s.setSlot hdl { v with joined := if v.joined.contains src then v.joined else v.joined ++ [src]
                                  scalar := some (v.scalar.getD scalar) }
  let s := if v.scalar.isNone then s.scalarToQueues hdl scalar else s
  match p.dispatch, s.dispOf (planOf hdl) (slotOf hdl) v.step, p.members.findIdx? (· == src) with
  | some _, some x, some r =>
    match x.src r with
    | some a => s.setDisp hdl (x.setSrc { a with tokens := if a.complete then a.tokens else scalar.toNat })
    | none => s
  | _, _, _ => s

/-- A LAUNCH cell. -/
def execLaunch (src : FA) (hdl : BitVec 20) (step : Nat) (sig : Word) (scalar : BitVec 32) (s : State) :
    Host.Outcome State Fault Refusal :=
  .next (
    if !s.engines then s
    else
      match s.plan (planOf hdl) with
      | none => s.launchReply src hdl step stNotInstalled 0 0
      | some p =>
        let v := s.slot hdl
        let trees := match p.coll with
          | some k => k.trees
          | none => 0
        let reply := fun (t : State) st pm => t.launchReply src hdl step st pm trees
        if sig ≠ p.sig ∨ !(p.members.contains src) ∨ !(s.scalarOk p hdl step src scalar.toNat) ∨ !(scalarAgrees p v step scalar)
          then reply s stSigMismatch 0
        else if v.state = .opened then
          (if v.step = step then (reply (s.join hdl p src scalar) stOk v.pmask).progress hdl else reply s stSlotBusy v.pmask)
        else if v.state = .closed ∧ v.step = step then reply s v.status v.pmask
        else
          let pm := s.pmaskFor p.members
          if pm = 0 then reply s stPlaneSplit 0
          else
            let t := s.openInstance hdl p step pm (some scalar)
            let t := if (t.slot hdl).state = .opened then t.join hdl p src scalar
              else t.modSlot hdl fun v => { v with joined := [src] }
            ((reply t stOk pm).absentDown hdl).progress hdl)

end Sys2Proof.Machine
end

