-- ==== Sys2Proof/Machine/Vector.lean ====
section
/-!
DEFINITION. Machine/Vector.lean: the vector engines: kernels run bundle by bundle, and VCONVERT (09 R210 to R222, R229).
-/
namespace Sys2Proof.Machine

open Sys2Proof

/-! ### Results of one iteration -/

/-- What one iteration of an op does: it completes, stops with FORMAT_ERROR, or traps. `run` is the op in progress. -/
inductive Iter where
  | done (s : State) (run : OpRun)
  | formatError (s : State)
  | trap (s : State)

/-! ### Kernels (09 R213 to R216) -/

/-- The installed kernel at an entry. -/
def State.kernel (s : State) (entry : Nat) : Option Kernel :=
  (s.pl.plans.flatMap fun e => e.2.kernels).find? fun k => k.entry == entry

/-- Lanes of a vector register. -/
def lanes : Nat := 128

/-- One value in every lane. -/
def splat (x : BitVec 32) : List (BitVec 32) := List.replicate lanes x

/-- The registers as a run starts (09 R213). -/
def kernelStart (k : Kernel) (imm : List Byte) : List (List (BitVec 32)) :=
  List.replicate 53 (splat 0)
  ++ (List.range 3).map (fun i => splat (BitVec.ofNat 32 (leAt imm (4 + 4 * i) 4)))
  ++ (List.range 8).map fun i => splat (k.consts.getD i 0)

/-- Latency of a slot-A micro-op (09 R217). -/
def latencyA : Nat → Nat
  | 0x01 | 0x02 | 0x03 | 0x05 | 0x06 | 0x13 => 4
  | 0x04 => 6
  | 0x14 => 3
  | 0x18 => 10
  | 0x19 | 0x1A | 0x1B => 12
  | _ => 2

/-- Source registers of a slot-A micro-op; CVT reads C in SR mode. -/
def sourcesA (op a b c ctl : Nat) : List Nat :=
  if op = 0 then []
  else if op = 0x04 ∨ op = 0x09 then [a, b, c]
  else if op = 0x14 then (if ctl % 4 = 2 then [a, c] else [a])
  else if op = 0x07 ∨ op = 0x12 ∨ op = 0x13 ∨ 0x18 ≤ op then [a]
  else [a, b]

/-- CVT of one lane: the code and whether it counts (09 R221). -/
def cvtLane (ctl sf tf : Nat) (x c : BitVec 32) : BitVec 32 × Bool :=
  let r := writeElem tf (satOf (ctl / 4 % 4) tf) (ctl % 4) (c.toNat % 2 ^ 24) (readElem sf (x.toNat % 2 ^ fmtBits sf))
  (BitVec.ofNat 32 r.1, r.2)

/-- A slot-A micro-op other than HADD and CVT on one lane (09 R217). -/
def aluLane (op ctl : Nat) (x y z : BitVec 32) : BitVec 32 :=
  match op with
  | 0x01 => F32.add x y
  | 0x02 => F32.sub x y
  | 0x03 => F32.mul x y
  | 0x04 => F32.fma x y z
  | 0x05 => F32.max x y
  | 0x06 => F32.min x y
  | 0x07 => F32.sgn x
  | 0x08 => if relOf (ctl % 16) (keyLt (F32.val x) (F32.val y)) (keyLt (F32.val y) (F32.val x)) then BitVec.allOnes 32 else 0
  | 0x09 => if z ≠ 0 then x else y
  | 0x0A => x &&& y
  | 0x0B => x ||| y
  | 0x0C => x ^^^ y
  | 0x0D => x + y
  | 0x0E => x - y
  | 0x0F => x <<< (y.toNat % 32)
  | 0x10 => x >>> (y.toNat % 32)
  | 0x11 => x.sshiftRight (y.toNat % 32)
  | 0x18 => F32.exp2 x
  | 0x19 => F32.log2 x
  | 0x1A => F32.rcp x
  | 0x1B => F32.rsqrt x
  | _ => x

/-- A slot-A micro-op on all lanes, and how many active lanes count in VE_CONVERT_RANGE. -/
def aluOp (op ctl sf tf active : Nat) (x y z : List (BitVec 32)) : List (BitVec 32) × Nat :=
  if op = 0x13 then
    ((List.range lanes).map fun j => if j < ctl then F32.add (x.getD j 0) (x.getD (j + ctl) 0) else x.getD j 0, 0)
  else if op = 0x14 then
    let r := List.zipWith (cvtLane ctl sf tf) x z
    (r.map (·.1), ((r.take active).filter (·.2)).length)
  else ((x.zip (y.zip z)).map fun (x, y, z) => aluLane op ctl x y z, 0)

/-! ### A body run (09 R211, R217 to R220) -/

/-- A body run under way: state, registers, results in flight with their cycles in the order they were issued, the counts,
the lowest lane whose access stops the op, and a trap (bundle and register). -/
structure Body where
  s     : State
  regs  : List (List (BitVec 32))
  fly   : List (Nat × Nat × List (BitVec 32))
  early : Nat
  clash : Nat
  conv  : Nat
  bad   : Option Nat
  trap  : Option (Nat × Nat)

/-- Two results for one register in one cycle: each further one counts (09 R218). -/
def clashes (l : List (Nat × Nat × List (BitVec 32))) : Nat :=
  l.length - ((l.map fun e => (e.1, e.2.1)).eraseDups).length

/-- Lets the results of a cycle land; a later issued one stands. -/
def Body.land (b : Body) (c : Nat) : Body :=
  let now := b.fly.filter fun e => decide (e.2.1 ≤ c)
  { b with regs := now.foldl (fun r e => r.set e.1 e.2.2) b.regs, fly := b.fly.filter fun e => decide (c < e.2.1)
           clash := b.clash + clashes now }

/-- Reads source registers: early ones are counted, or trap where DEBUG was set (09 R219). -/
def Body.sources (b : Body) (debug : Bool) (bundle : Nat) (rs : List Nat) (before : List (Nat × Nat × List (BitVec 32))) : Body :=
  let hit := rs.filter fun r => before.any fun e => e.1 == r
  match hit with
  | [] => b
  | r :: _ => if debug then { b with trap := some (bundle, r) } else { b with early := b.early + hit.length }

/-- What a kernel needs of its op: the descriptors of the streams with the handle whose tuple each takes, and the op's place. -/
structure KernelCtx where
  op      : Op
  streams : List (Option (Nat × Nat × Descr))
  iter    : Nat
  active  : Nat
  limit   : Nat
  step    : Nat
  debug   : Bool

/-- The tuple of a stream in a lane. -/
def KernelCtx.tuple (x : KernelCtx) (h : Nat) (d : Descr) (lane : Nat) : List Nat := x.op.tuple h d (x.iter + lane)

/-- The lowest of two failing lanes. -/
def lowest (a : Option Nat) (n : Nat) : Option Nat :=
  match a with
  | some m => some (min m n)
  | none => some n

/-- LD: raw codes, zero-extended; inactive lanes get 0. -/
def Body.load (b : Body) (x : KernelCtx) (st : Nat) : Body × List (BitVec 32) :=
  match x.streams.getD st none with
  | none => (b, splat 0)
  | some (h, _, d) =>
    let codes := (List.range x.active).map fun i => b.s.codeAt d (x.tuple h d i)
    let bad := match (codes.zipIdx).find? fun e => e.1.isNone with
      | some e => lowest b.bad e.2
      | none => b.bad
    ({ b with bad := bad }, (codes.map fun c => BitVec.ofNat 32 (c.getD 0)) ++ List.replicate (lanes - x.active) 0)

/-- ST: the low bits of every active lane. -/
def Body.stored (b : Body) (x : KernelCtx) (st : Nat) (vals : List (BitVec 32)) : Body :=
  match x.streams.getD st none with
  | none => b
  | some (h, _, d) =>
    (List.range x.active).foldl (fun (b : Body) i =>
      match b.s.placeOf d (x.tuple h d i) true with
      | none => { b with bad := lowest b.bad i }
      | some p => if i < x.limit then { b with s := b.s.putCode p ((vals.getD i 0).toNat % 2 ^ p.w) } else b) b

/-- RND: Facet outputs (09 R229). -/
def State.rndLanes (s : State) (x : KernelCtx) (st seed draw : Nat) : List (BitVec 32) :=
  match x.streams.getD st none with
  | none => splat 0
  | some (h, handle, d) =>
    (List.range lanes).map fun i =>
      if i < x.active then facet (s.seed seed) x.step handle 0 (walkOf d.dims (x.tuple h d i)) draw else 0

/-- IDX: walk indices. -/
def KernelCtx.idxLanes (x : KernelCtx) (st : Nat) : List (BitVec 32) :=
  match x.streams.getD st none with
  | none => splat 0
  | some (h, _, d) => (List.range lanes).map fun i => BitVec.ofNat 32 (walkOf d.dims (x.tuple h d i))

/-- Slot A of a bundle: its result in flight. -/
def Body.slotA (b : Body) (x : KernelCtx) (bundle : Nat) (w : Word) (before : List (Nat × Nat × List (BitVec 32))) :
    Body × List (Nat × Nat × List (BitVec 32)) :=
  let op := fld w 0 8
  let ctl := fld w 32 16
  if op = 0 ∨ b.trap.isSome then (b, [])
  else
    let r := fun lo => b.regs.getD (fld w lo 6) []
    let b := b.sources x.debug bundle (sourcesA op (fld w 14 6) (fld w 20 6) (fld w 26 6) ctl) before
    if b.trap.isSome then (b, [])
    else
      let o := aluOp op ctl (fld w 48 5) (fld w 53 5) x.active (r 14) (r 20) (r 26)
      ({ b with conv := b.conv + o.2 }, [(fld w 8 6, bundle + latencyA op, o.1)])

/-- Slot M of a bundle. -/
def Body.slotM (b : Body) (x : KernelCtx) (bundle : Nat) (w : Word) (before : List (Nat × Nat × List (BitVec 32))) :
    Body × List (Nat × Nat × List (BitVec 32)) :=
  let v := fld w 8 6
  let st := fld w 14 4
  if b.trap.isSome then (b, [])
  else
    match fld w 0 8 with
    | 1 => let r := b.load x st; (r.1, [(v, bundle + 8, r.2)])
    | 2 =>
      let b := b.sources x.debug bundle [v] before
      (if b.trap.isSome then b else b.stored x st (b.regs.getD v []), [])
    | 3 => (b, [(v, bundle + 10, b.s.rndLanes x st (fld w 18 4) (fld w 22 7))])
    | 4 => (b, [(v, bundle + 2, splat (BitVec.ofNat 32 (fld w 32 32)))])
    | 5 => (b, [(v, bundle + 2, x.idxLanes st)])
    | _ => (b, [])

/-- One bundle, in the cycle of its number. -/
def Body.bundle (b : Body) (x : KernelCtx) (i : Nat) (w : Word × Word) : Body :=
  if b.trap.isSome then b
  else
    let b := b.land i
    let before := b.fly
    let (b, fa) := b.slotA x i w.1 before
    let (b, fm) := b.slotM x i w.2 before
    { b with fly := b.fly ++ (if Config.slotMLater then fa ++ fm else fm ++ fa) }

/-- A whole body run. -/
def runBody (k : Kernel) (x : KernelCtx) (s : State) (regs : List (List (BitVec 32))) (fly : List (Nat × Nat × List (BitVec 32))) :
    Body :=
  (k.bundles.zipIdx).foldl (fun b (w, i) => Body.bundle b x i w)
    { s := s, regs := regs, fly := fly, early := 0, clash := 0, conv := 0, bad := none, trap := none }

/-- The streams of a kernel's op: S0 to S3 are H0 to H3, S4 to S11 the extra handles (09 R212). -/
def State.kernelStreams (s : State) (o : Op) (k : Kernel) : List (Option (Nat × Nat × Descr)) :=
  (List.range 4).map (fun j => (s.opDescr o j).map fun d => (j, natAt o.h j, d))
  ++ (List.range 8).map fun j =>
    let f := byteAt k.follow j
    if f / 8 % 2 = 1 then (s.descr (natAt k.extra j)).map fun d => (f % 4, natAt k.extra j, d) else none

/-- VE_TRAP of a trap (09 R219). -/
def trapWord (engine entry bundle reg : Nat) : Word :=
  BitVec.ofNat 64 (engine + entry * 2 ^ 4 + bundle * 2 ^ 14 + reg * 2 ^ 26 + 2 ^ 63)

/-- Level-0 iterations of the body run that starts at an iteration. -/
def Op.groupLen (o : Op) (i : Nat) : Nat :=
  let t := o.span 1
  min lanes (t - i % max 1 t)

/-- One body run of a VKERNEL op. -/
def State.kernelIter (s : State) (hdl : BitVec 20) (o : Op) (run : OpRun) : Iter :=
  match s.kernel (leAt o.imm 2 2) with
  | none => .formatError s
  | some k =>
    let n := o.groupLen run.iter
    let x : KernelCtx := { op := o, streams := s.kernelStreams o k, iter := run.iter, active := n, limit := n
                           step := (s.slot hdl).step, debug := run.debug }
    let fresh := !k.carry || run.iter == 0
    let regs := if fresh then kernelStart k o.imm else run.regs
    let fly := if fresh then [] else run.flight
    let b0 := runBody k x s regs fly
    let b := match b0.bad with
      | none => b0
      | some l => runBody k { x with limit := l } s regs fly
    let e := s.engineFor hdl
    let last := decide (o.total ≤ run.iter + n)
    let nb := k.bundles.length
    let left := b.fly.filter fun f => !k.carry || last || decide (f.2.1 < nb)
    let t := ((b.s.bump (.veConvertRange e) b.conv).bump (.veEarlyRead e) b.early).bump (.veWriteClash e) (b.clash + clashes left)
    match b.trap with
    | some (bundle, reg) =>
      let w := trapWord e k.entry bundle reg
      let t := if (t.rd .veTrap).getLsbD 63 then t else t.wr .veTrap w
      .trap (t.raise evEarlyReadTrap hdl.toNat (t.rd .veTrap).toNat)
    | none =>
      if b.bad.isSome then .formatError t
      else .done t { run with
        iter := run.iter + n
        regs := if k.carry && !last then b.regs else []
        flight := if k.carry && !last then (b.fly.filter fun f => decide (nb ≤ f.2.1)).map fun f => (f.1, f.2.1 - nb, f.2.2) else [] }

/-! ### VCONVERT (09 R222) -/

/-- The Facet draw of an element of H0. -/
def State.convDraw (s : State) (hdl : BitVec 20) (h0 : Nat) (d : Descr) (ix : List Nat) : Nat :=
  (facet (s.seed 0) (s.slot hdl).step h0 0 (walkOf d.dims ix) 0).toNat % 2 ^ 24

/-- Iterations of the nest that visit the block of H0 in which an iteration lies, and its place among them: the level that
drives dimension 0 of H0 runs through them (09 R222). A block visited in part has only these (DESIGN CHOICE, log 87). -/
def Op.blockIters (o : Op) (i : Nat) : List Nat × Nat :=
  match o.levels.findIdx? fun l => natAt l.dsel 0 == 0 with
  | none => ([i], 0)
  | some l =>
    let stride := o.span l
    let trip := (o.levels.getD l ⟨1, []⟩).trip
    let j := i / stride % max 1 trip
    let first := j / 32 * 32
    ((List.range (min 32 (trip - first))).map fun q => i - j * stride + (first + q) * stride, j - first)

/-- One target block of VCONVERT from its source elements: scale code, element codes, what counts in VE_CONVERT_RANGE, and the T2
codes read (02 R37, R45); none where an access to a source element stops the op. -/
def State.convertBlock (s : State) (hdl : BitVec 20) (o : Op) (d0 d1 : Descr) (its : List Nat) : Option (Nat × List Nat × Nat × Nat) :=
  let ctl := leAt o.imm 0 2
  (allOf (its.map fun i => s.valAt d1 (o.tuple 1 d1 i))).map fun vals =>
    let us := its.map fun i => s.convDraw hdl (natAt o.h 0) d0 (o.tuple 0 d0 i)
    let r := convBlock d0.fmt (satOf (ctl / 4 % 4) d0.fmt) (ctl / 16 % 2 == 1) (ctl % 4) us (vals.map (·.1))
    (r.1, r.2.1, r.2.2, (vals.filter (·.2)).length)

/-- An iteration of VCONVERT to a block-scaled target: the first one of a block forms it and writes its scale; each writes its own
element code (02 R45). -/
def State.convertScaled (s : State) (hdl : BitVec 20) (o : Op) (run : OpRun) (d0 d1 : Descr) (p sp : Place) : Iter :=
  let e := s.engineFor hdl
  let (its, place) := o.blockIters run.iter
  let key := its.headD run.iter
  let rest := run.blocks.filter fun b => b.1 != key
  let next := fun (t : State) (scale : Nat) (codes : List Nat) =>
    Iter.done (t.putCode p (natAt codes place)) { run with
      iter := run.iter + 1, blocks := if place + 1 = its.length then rest else rest ++ [(key, scale, codes)] }
  match run.blocks.find? fun b => b.1 == key with
  | some (_, scale, codes) => next s scale codes
  | none =>
    match s.convertBlock hdl o d0 d1 its with
    | some (scale, codes, range, t2) =>
      next (((s.bump (.veT2Reserved e) t2).bump (.veConvertRange e) range).putCode sp scale) scale codes
    | none => .formatError s

/-- One iteration of VCONVERT. -/
def State.convertIter (s : State) (hdl : BitVec 20) (o : Op) (run : OpRun) : Iter :=
  let ctl := leAt o.imm 0 2
  let rnd := ctl % 4
  let e := s.engineFor hdl
  match s.opDescr o 0, s.opDescr o 1 with
  | some d0, some d1 =>
    let ix0 := o.tuple 0 d0 run.iter
    match s.valAt d1 (o.tuple 1 d1 run.iter), s.placeOf d0 ix0 true with
    | some (v, t2), some p =>
      if d0.scaled then
        match s.scalePlace d0 ix0 true with
        | some sp => s.convertScaled hdl o run d0 d1 p sp
        | none => .formatError s
      else
        let r := writeElem d0.fmt (satOf (ctl / 4 % 4) d0.fmt) rnd (if rnd = 2 then s.convDraw hdl (natAt o.h 0) d0 ix0 else 0) v
        .done (((s.bump (.veT2Reserved e) (b2n t2)).putCode p r.1).bump (.veConvertRange e) (b2n r.2)) { run with iter := run.iter + 1 }
    | _, _ => .formatError s
  | _, _ => .formatError s

end Sys2Proof.Machine
end

