-- ==== Sys2Proof/Machine/Matrix.lean ====
section
/-!
DEFINITION. Machine/Matrix.lean: the matrix engine's ops MMUL and MGROUP (10 R232 to R242).
-/
namespace Sys2Proof.Machine

open Sys2Proof

/-- The integer path: INT8 activations with INT8 or INT4 weights (10 R232). -/
def mxInteger (fa fw : Nat) : Bool := fa == 10 && (fw == 10 || fw == 11)

/-- One whole product: its sizes, where its elements lie, how it starts (10 R234, R236). `aVal` reads the activation of a
row and reduction index; the other functions give index tuples. -/
structure Product where
  m    : Nat
  n    : Nat
  k    : Nat
  fa   : Nat
  w    : Descr
  c    : Descr
  aVal : Nat → Nat → Option Val
  wIx  : Nat → Nat → List Nat
  cIx  : Nat → Nat → List Nat
  acc  : Bool
  idx  : Option (Descr × (Nat → Nat → List Nat))

/-- The weight at (k, n), with whether it was a reserved T2 code; none where an access or an index byte stops the op (10 R242). -/
def State.mxWeight (s : State) (x : Product) (k n : Nat) : Option (Val × Bool) :=
  match x.idx with
  | none => s.valAt x.w (x.wIx k n)
  | some (d, ix) =>
    match s.codeAt d (ix (k / 8) n), s.valAt x.w (x.wIx (2 * (k / 8)) n), s.valAt x.w (x.wIx (2 * (k / 8) + 1) n) with
    | some b, some v0, some v1 =>
      let i0 := b % 8
      let i1 := b / 8 % 8
      if 64 ≤ b ∨ i1 ≤ i0 then none
      else if k % 8 = i0 then some v0 else if k % 8 = i1 then some v1 else some (.fin false 0 0, false)
    | _, _, _ => none

/-- One output element: its code, and whether it saturated (10 R236, R237). -/
def Product.elem (x : Product) (start : Nat) (a : List Val) (w : List Val) : Nat × Bool :=
  let ps := List.zipWith Val.mul a w
  if mxInteger x.fa x.w.fmt then
    let sum := ps.foldl Val.add (if x.acc then Val.ofInt (sgnOf 32 start) else .fin false 0 0)
    intWrite 32 true 0 0 sum
  else ((dotAcc (if x.acc then (F32.val (BitVec.ofNat 32 start)).f32 else 0#32) ps).toNat, false)

/-- Runs a product after checking every address and index byte; none writes nothing (10 R238). -/
def State.mxProduct (s : State) (x : Product) : Option State :=
  let rows := List.range x.m
  let cols := List.range x.n
  let ks := List.range x.k
  match allOf (rows.map fun i => allOf (ks.map fun k => x.aVal i k)), allOf (cols.map fun n => allOf (ks.map fun k => s.mxWeight x k n)),
      allOf (rows.flatMap fun i => cols.map fun n => s.placeOf x.c (x.cIx i n) true) with
  | some a, some w, some places =>
    let wv := w.map fun col => col.map (·.1)
    let cells := (rows.zip a).flatMap fun (_, r) => wv.map fun col => (r, col)
    let outs := List.zipWith (fun (p : Place) (rc : List Val × List Val) => (p, x.elem (s.getCode p) rc.1 rc.2)) places cells
    let t := outs.foldl (fun t e => t.putCode e.1 e.2.1) s
    some ((t.bump .mxT2Reserved ((w.flatten).filter (·.2)).length).bump .mxIntRange (outs.filter (·.2.2)).length)
  | _, _, _ => none

/-- Dimensions 2 to 5 of a handle's tuple at an iteration. -/
def Op.batch (o : Op) (j : Nat) (d : Descr) (i : Nat) : List Nat := (o.tuple j d i).drop 2

/-- MXCTL (10 R235). -/
def Op.mxAcc (o : Op) : Bool := bitOf (leAt o.imm 0 2) 0
def Op.mxSp28 (o : Op) : Bool := bitOf (leAt o.imm 0 2) 1
def Op.mxTrans (o : Op) : Bool := bitOf (leAt o.imm 0 2) 2

/-- Size of a dimension, 1 where the descriptor has none. -/
def Descr.size (d : Descr) (k : Nat) : Nat := (d.dims.getD k (1, 0)).1

/-- The product of given rows, columns and reduction length (10 R234, R240, R242). -/
def State.mxSpec (s : State) (o : Op) (i m n k ar wr cr : Nat) (d1 : Option Descr) (fa : Nat) (buf : Nat → Nat → Option Val)
    (d2 d0 : Descr) : Product :=
  let b2 := o.batch 2 d2 i
  let b0 := o.batch 0 d0 i
  { m := m, n := n, k := k, fa := fa, w := d2, c := d0, acc := o.mxAcc
    aVal := match d1 with
      | some d1 => fun r kk => (s.valAt d1 ([kk, ar + r] ++ o.batch 1 d1 i)).map (·.1)
      | none => buf
    wIx := fun kk c => (if o.mxTrans then [wr + c, kk] else [kk, wr + c]) ++ b2
    cIx := fun r c => [c, cr + r] ++ b0
    idx := if o.mxSp28 then (s.descr (leAt o.imm 2 2)).map fun d => (d, fun q c => [q, wr + c] ++ b2) else none }

/-- An op that stops with FORMAT_ERROR counts once (10 R238). -/
def State.mxStop (s : State) : Iter := .formatError (s.bump .mxFormatError)

/-- One iteration of MMUL: one whole product. -/
def State.mmulIter (s : State) (o : Op) (run : OpRun) : Iter :=
  match s.opDescr o 0, s.opDescr o 1, s.opDescr o 2 with
  | some d0, some d1, some d2 =>
    match s.mxProduct (s.mxSpec o run.iter (d1.size 1) (d0.size 0) (d1.size 0) 0 0 0 (some d1) d1.fmt (fun _ _ => none) d2 d0) with
    | some t => .done t { run with iter := run.iter + 1 }
    | none => s.mxStop
  | _, _, _ => s.mxStop

/-- A grouped-table entry: M, N, K, AROW, WROW, CROW (10 R239). -/
abbrev GEntry := Nat × Nat × Nat × Nat × Nat × Nat

/-- Reads entry g of the table in H3; none where an access stops, or the entry is malformed (10 R240). -/
def State.gEntry (s : State) (d3 : Descr) (g : Nat) (base : List Nat) : Option (List Byte) :=
  allOf ((List.range 32).map fun i =>
    (s.codeAt d3 (List.zipWith (· + ·) (tupleOf d3.dims (32 * g + i)) base)).map (BitVec.ofNat 8))

/-- Runs one entry; none stops the op. -/
def State.mxEntry (s : State) (o : Op) (i : Nat) (e : GEntry) (d1 : Option Descr) (fa : Nat) (buf : Nat → Nat → Option Val)
    (d2 d0 : Descr) : Option State :=
  let (m, n, k, ar, wr, cr) := e
  if m = 0 ∨ n = 0 then some (s.bump .mxEmptyGroup)
  else if o.mxSp28 ∧ k % 8 ≠ 0 then none
  else s.mxProduct (s.mxSpec o i m n k ar wr cr d1 fa (fun r kk => buf (ar + r) kk) d2 d0)

/-- An entry as the walk takes it: skipped without rows or columns, none where a size is above its limit (10 R239, R240). -/
def GEntry.checked (e : GEntry) : Option GEntry :=
  let (m, n, k, _, _, _) := e
  if m = 0 ∨ n = 0 then some (m, n, 0, 0, 0, 0)
  else if 2 ^ 20 < m ∨ 65536 < n ∨ 65536 < k then none
  else some e

/-- The entry that 32 bytes spell; none where a reserved byte is set, or a size is above its limit. -/
def entryOf (b : List Byte) : Option GEntry :=
  let f := fun o => leAt b o 4
  let e : GEntry := (f 0, f 4, f 8, f 12, f 16, f 20)
  if f 0 = 0 ∨ f 4 = 0 ∨ zeroAt b 24 32 then e.checked else none

/-- Walks a table in entry order. -/
def State.walkTable (o : Op) (i : Nat) (d1 : Option Descr) (fa : Nat) (buf : Nat → Nat → Option Val) (d2 d0 : Descr)
    (entry : State → Nat → Option GEntry) : Nat → Nat → State → State × Bool
  | 0, _, s => (s, true)
  | n + 1, g, s =>
    match (entry s g).bind fun e => s.mxEntry o i e d1 fa buf d2 d0 with
    | some t => State.walkTable o i d1 fa buf d2 d0 entry n (g + 1) t
    | none => (s, false)

/-- The grouped table that this leaf wrote for a host, with the expert input buffer (10 R241); none where the records are
missing, the table is not yet written (06 R151) or the host is not served here. -/
def State.gtSource (s : State) (hdl : BitVec 20) (plan rank : Nat) : Option (DispatchSec × DispHost) :=
  match (s.plan plan).bind (·.dispatch), s.dispOf plan (slotOf hdl) (s.slot hdl).step with
  | some d, some x => (x.host rank).bind fun h => if h.granted && h.done then some (d, h) else none
  | _, _ => none

/-- One iteration of MGROUP: one whole walk of the table. ROUTE_MISSING ends the instance ABORTED (10 R239 to R241). -/
def State.mgroupIter (s : State) (hdl : BitVec 20) (o : Op) (run : OpRun) : Iter :=
  let gt := leAt o.imm 4 2
  let finish := fun (r : State × Bool) => if r.2 then Iter.done r.1 { run with iter := run.iter + 1 } else r.1.mxStop
  match s.opDescr o 0, s.opDescr o 2 with
  | some d0, some d2 =>
    if gt = 0 then
      match s.opDescr o 1, s.opDescr o 3 with
      | some d1, some d3 =>
        finish (State.walkTable o run.iter (some d1) d1.fmt (fun _ _ => none) d2 d0
          (fun t g => (t.gEntry d3 g (d3.dims.map fun _ => 0)).bind entryOf) (leAt o.imm 8 4) 0 s)
      | _, _ => s.mxStop
    else
      match s.gtSource hdl gt (leAt o.imm 6 2) with
      | none => .trap (s.raise evRouteMissing hdl.toNat gt)
      | some (d, h) =>
        let row := d.row d.tfmt
        let buf := fun r kk => some (readElem d.tfmt ((unpack (fmtBits d.tfmt) d.hid (slice h.buffer (r * row) row)).getD kk 0))
        let gn := leAt o.imm 12 4
        let entry := fun (_ : State) j =>
          let off := ((h.loads).take j).sum
          GEntry.checked (natAt h.loads j, gn, d.hid, off, j * gn, off)
        finish (State.walkTable o run.iter none d.tfmt buf d2 d0 entry h.loads.length 0 s)
  | _, _ => s.mxStop

end Sys2Proof.Machine
end

