-- ==== Sys2Proof/Machine/Program.lean ====
section
/-!
DEFINITION. Machine/Program.lean: plan programs: queues, ops, tokens, write messages and the all-wait detector (08 R188 to R209;
06 R140 to R143, R165; 10 R244).
-/
namespace Sys2Proof.Machine

open Sys2Proof

/-! ### Queues (08 R189, R199) -/

/-- A queue of a plan. -/
def Plan.queue (p : Plan) (qid : Nat) : Option PQueue := p.queues.find? fun q => q.qid == qid

/-- A queue context of an instance. -/
def State.qctx (s : State) (hdl : BitVec 20) (qid : Nat) : Option QCtx :=
  (Assoc.find hdl s.pl.progs).bind fun g => g.queues.find? fun q => q.qid == qid

/-- Changes a queue context; all-wait is timed from here (08 R207). -/
def State.modQ (s : State) (hdl : BitVec 20) (qid : Nat) (f : QCtx → QCtx) : State :=
  match Assoc.find hdl s.pl.progs with
  | none => s
  | some g =>
    let g' : Prog := { queues := g.queues.map fun q => if q.qid = qid then f q else q, quiet := s.clk.cycle }
    { s with pl := { s.pl with progs := Assoc.set hdl g' s.pl.progs } }

/-- The counters that a wait names. -/
def waitCtrs (w : BitVec 32) : List Nat := (List.range 32).filter fun i => w.getLsbD i

/-- The wait is met. -/
def QCtx.met (q : QCtx) (w : BitVec 32) : Bool := (waitCtrs w).all fun i => decide (1 ≤ natAt q.tcs i)

/-- Takes a token from every counter of a wait. -/
def QCtx.take (q : QCtx) (w : BitVec 32) : QCtx :=
  { q with tcs := (waitCtrs w).foldl (fun l i => natSet l i (natAt l i - 1)) q.tcs }

/-- An op's wait comes before iteration i (08 R200). -/
def Op.waitsAt (o : Op) (i : Nat) : Bool := o.wlvl != 7 && i % max 1 (o.span o.wlvl) == 0

/-! ### Sieve ops (06 R140 to R143, R165) -/

/-- How an iteration of an op that takes whole tensors ends: it ran, it stopped at an element or group after what it wrote before
(06 R143), or an access stopped it and it wrote nothing (08 R193, R195). -/
inductive Whole where
  | ran (s : State)
  | stopped (s : State)
  | denied

/-- Writes codes to a handle; an access that stops writes nothing. -/
def State.writeOut (s : State) (d : Descr) (dest : List (List Nat)) (cs : List Nat) : Whole :=
  let r := s.putCodes d dest cs
  if r.2 then .ran r.1 else .denied

/-- Keys of codes. -/
def keysOf (d : Descr) (cs : List Nat) : List Val := cs.map (readElem d.fmt)

/-- Goes on with the codes at tuples where every one can be read. -/
def State.reading (s : State) (d : Descr) (l : List (List Nat)) (f : List Nat → Whole) : Whole :=
  match allOf (s.codes d l) with
  | some cs => f cs
  | none => .denied

/-- Runs a second write after a first one that ran to its end. -/
def Whole.andThen (w : Whole) (f : State → Whole) : Whole :=
  match w with
  | .ran s => f s
  | _ => w

/-- An op that ran stops there unless its operands were good to the end (06 R143). -/
def Whole.goodIf (w : Whole) (ok : Bool) : Whole :=
  match w with
  | .ran s => if ok then w else .stopped s
  | _ => w

/-- SORT: keys in order to H0; the payload in H2 is put in the same order (log 33). -/
def State.sortOp (s : State) (o : Op) (d0 d1 : Descr) (d2 : Option Descr) (i : Nat) : Whole :=
  s.reading d1 (o.free 1 d1 i) fun k =>
    let ix := sortedIx (bitOf (byteAt o.imm 0) 0) (keysOf d1 k)
    let keys := s.writeOut d0 (o.free 0 d0 i) (ix.map (natAt k))
    match bitOf (byteAt o.imm 0) 1, d2 with
    | true, some d => s.reading d (o.free 2 d i) fun c =>
        if c.length < ix.length then .denied else keys.andThen fun t => t.writeOut d (o.free 2 d i) (ix.map (natAt c))
    | _, _ => keys

/-- TOPK: the best keys of every row to H0, their indices in the row to H2. -/
def State.topkOp (s : State) (o : Op) (d0 d1 d2 : Descr) (i : Nat) : Whole :=
  s.reading d1 (o.free 1 d1 i) fun k =>
    let best := (pieces (leAt o.imm 2 2) k).flatMap fun r => (topIx (byteAt o.imm 0) (keysOf d1 r)).map fun j => (natAt r j, j)
    (s.writeOut d0 (o.free 0 d0 i) (best.map (·.1))).andThen fun t => t.writeOut d2 (o.free 2 d2 i) (best.map (·.2))

/-- FILTER: kept elements to H0, their indices to H2. -/
def State.filterOp (s : State) (o : Op) (d0 d1 d2 : Descr) (i : Nat) : Whole :=
  s.reading d1 (o.free 1 d1 i) fun k =>
    let c := readElem d1.fmt (leAt o.imm 8 8 % 2 ^ fmtBits d1.fmt)
    let kept := (k.zipIdx).filter fun (x, _) =>
      let v := readElem d1.fmt x
      relOf (byteAt o.imm 0) (keyLt v c) (keyLt c v)
    (s.writeOut d0 (o.free 0 d0 i) (kept.map (·.1))).andThen fun t => t.writeOut d2 (o.free 2 d2 i) (kept.map (·.2))

/-- COMPACT: the elements of H1 at the indices in H2, up to an index that lies outside H1. -/
def State.compactOp (s : State) (o : Op) (d0 d1 d2 : Descr) (i : Nat) : Whole :=
  s.reading d2 (o.free 2 d2 i) fun c =>
    let from' := o.free 1 d1 i
    let ix := c.map (sgnOf 32)
    let good := ix.takeWhile fun (n : Int) => decide (0 ≤ n) && decide (n < (from'.length : Int))
    s.reading d1 (good.map fun (n : Int) => from'.getD n.toNat []) fun cs =>
      (s.writeOut d0 (o.free 0 d0 i) cs).goodIf (good.length == ix.length)

/-- Integers of codes. -/
def intsOf (d : Descr) (cs : List Nat) : List Int := cs.map (sgnOf (fmtBits d.fmt))

/-- SCAN: prefix sums, saturated outputs counted. -/
def State.scanOp (s : State) (o : Op) (d0 d1 : Descr) (i : Nat) : Whole :=
  s.reading d1 (o.free 1 d1 i) fun k =>
    let r := scanSums (bitOf (byteAt o.imm 0) 0) (intsOf d1 k)
    (s.writeOut d0 (o.free 0 d0 i) r.1).andThen fun t => .ran (t.bump .seScanRange r.2)

/-- HIST: counts per bin; a bin outside the operand leaves every count unwritten (log 33). -/
def State.histOp (s : State) (o : Op) (d0 d1 : Descr) (i : Nat) : Whole :=
  s.reading d1 (o.free 1 d1 i) fun k =>
    let n := leAt o.imm 4 4
    let bins := intsOf d1 k
    if bins.any fun b => decide (b < 0) || decide ((n : Int) ≤ b) then .stopped s
    else s.writeOut d0 (o.free 0 d0 i) ((List.range n).map fun (b : Nat) => (bins.filter fun x => x == (b : Int)).length)

/-- RLZ_ENC: H1's blocks as a stream of bytes. -/
def State.rlzEncOp (s : State) (o : Op) (d0 d1 : Descr) (i : Nat) : Whole :=
  s.reading d1 (o.free 1 d1 i) fun k =>
    s.writeOut d0 (o.free 0 d0 i) ((rlzStream d1.fmt (denseBlocks d1.fmt k)).map BitVec.toNat)

/-- RLZ_DEC: the stream in H1 as dense blocks; those before a decode error are written. -/
def State.rlzDecOp (s : State) (o : Op) (d0 d1 : Descr) (i : Nat) : Whole :=
  s.reading d1 (o.free 1 d1 i) fun k =>
    let dest := o.free 0 d0 i
    let r := rlzDecode d0.fmt (ceilDiv dest.length 32) false (k.map (BitVec.ofNat 8))
    let cs := r.blocks.flatMap fun b => match b with
      | some l => unpack (fmtBits d0.fmt) 32 l
      | none => List.replicate 32 0
    (s.writeOut d0 dest (cs.take dest.length)).goodIf r.ok

/-- PACK28: two values of every group of 8 along a row to H0, the index byte to H2 (log 33). -/
def State.pack28Op (s : State) (o : Op) (d0 d1 d2 : Descr) (i : Nat) : Whole :=
  let row := if o.drives 1 0 then 1 else d1.size 0
  s.reading d1 (o.free 1 d1 i) fun k =>
    let groups := (pieces row k).flatMap fun r => (pieces 8 r).map (pack28 d1.fmt)
    let good := (groups.takeWhile Option.isSome).filterMap id
    ((s.writeOut d0 (o.free 0 d0 i) (good.flatMap fun g => [g.1, g.2.1])).andThen fun t =>
      t.writeOut d2 (o.free 2 d2 i) (good.map (·.2.2))).goodIf (good.length == groups.length)

/-- An iteration of a sieve op. ROUTE writes nothing: its bookkeeping is the dispatch instance's (log 33). -/
def State.sieveOp (s : State) (o : Op) (i : Nat) : Whole :=
  match o.opc, s.opDescr o 0, s.opDescr o 1, s.opDescr o 2 with
  | 0x20, some d0, some d1, d2 => s.sortOp o d0 d1 d2 i
  | 0x21, some d0, some d1, some d2 => s.topkOp o d0 d1 d2 i
  | 0x22, some d0, some d1, some d2 => s.filterOp o d0 d1 d2 i
  | 0x23, some d0, some d1, some d2 => s.compactOp o d0 d1 d2 i
  | 0x24, some d0, some d1, _ => s.scanOp o d0 d1 i
  | 0x25, some d0, some d1, _ => s.histOp o d0 d1 i
  | 0x26, some d0, some d1, _ => s.rlzEncOp o d0 d1 i
  | 0x27, some d0, some d1, _ => s.rlzDecOp o d0 d1 i
  | 0x28, some d0, some d1, some d2 => s.pack28Op o d0 d1 d2 i
  | 0x29, _, _, _ => .ran s
  | _, _, _, _ => .denied

/-- One iteration of a sieve op: a stop under 06 R143 counts in SE_FORMAT_ERROR, one under 08 R193 writes nothing. -/
def State.sieveIter (s : State) (o : Op) (run : OpRun) : Iter :=
  match s.sieveOp o run.iter with
  | .ran t => .done t { run with iter := run.iter + 1 }
  | .stopped t => .formatError (t.bump .seFormatError)
  | .denied => .formatError s

/-! ### Ops FOLD and BLKEXP (08 R196, 03 R50 to R68) -/

/-- The collective that stands for a FOLD op: its formats and fold control. -/
def foldColl (o : Op) (cfmt rfmt : Nat) : Coll where
  kind := kAllReduce
  cfmt := cfmt
  rfmt := rfmt
  trees := 1
  foldctl := BitVec.ofNat 16 (leAt o.imm 0 2)
  depth := 0
  commit := false
  skipNf := false
  count := 32
  root := 0
  normPlan := 0
  clip := 0
  resH := 0xFFFF

/-- The fold block that begins at an iteration: 32 iterations in nest order (03 R54, log 33); N is the number of named inputs
(DESIGN CHOICE, log 89). -/
def State.foldBlock (s : State) (o : Op) (d0 : Descr) (ins : List (Nat × Descr)) (i : Nat) : FoldOut :=
  let e := min 32 (o.total - i)
  match ins with
  | [] => ⟨[], 0, 0, 0, 0⟩
  | (_, a) :: _ =>
    let k := foldColl o a.fmt d0.fmt
    let given := ins.map fun (j, d) => pack (fmtBits d.fmt)
      ((List.range e).map fun x => (s.codeAt d (o.tuple j d (i + x))).getD 0)
    let merged := given.foldl (fun m x => maxBytes m (blockBytes (chunkVals a.fmt e x))) (zeros (ceilDiv e 32))
    let ch := { Chunk.new with maxe := if k.phaseA then some merged else none }
    k.resultOf ins.length 0 e ch given given

/-- The named inputs of an op. -/
def State.opInputs (s : State) (o : Op) : List (Nat × Descr) :=
  [1, 2, 3].filterMap fun j => (s.opDescr o j).map fun d => (j, d)

/-- The fold control half-word of an op (03 R50); an op may not name LSE (08 R196). -/
def foldOpOk (o : Op) : Bool := foldctlOk (leAt o.imm 0 2) && byteAt o.imm 0 % 16 != fopLse

/-- An iteration of FOLD. -/
def State.foldIter (s : State) (o : Op) (run : OpRun) : Iter :=
  match s.opDescr o 0 with
  | none => .formatError s
  | some d0 =>
    let ins := s.opInputs o
    let i := run.iter
    let first := i % 32 == 0
    let out := if first then s.foldBlock o d0 ins i else ⟨[], 0, 0, 0, 0⟩
    let s := ((s.bump .feAlignLoss out.lost).bump .feSpecialBlock out.special).bump .feFoldRange out.range
    let acc := if first then unpack (fmtBits d0.fmt) 32 out.data else run.acc
    match s.placeOf d0 (o.tuple 0 d0 i) true with
    | some p =>
      if ins.isEmpty || ins.any fun (j, d) => (s.codeAt d (o.tuple j d i)).isNone then .formatError s
      else .done (s.putCode p (natAt acc (i % 32))) { run with iter := i + 1, acc := acc }
    | none => .formatError s

/-- An iteration of BLKEXP: the exponent byte of the block of H1 that holds its element, by walk index. -/
def State.blkexpIter (s : State) (o : Op) (run : OpRun) : Iter :=
  match s.opDescr o 0, s.opDescr o 1 with
  | some d0, some d1 =>
    let ix := o.tuple 1 d1 run.iter
    let b := walkOf d1.dims ix / 32
    let vs := (List.range 32).map fun k =>
      if 32 * b + k < d1.count then ((s.codeAt d1 (tupleOf d1.dims (32 * b + k))).map (readElem d1.fmt)).getD (.fin false 0 0)
      else .fin false 0 0
    match s.codeAt d1 ix, s.placeOf d0 (o.tuple 0 d0 run.iter) true with
    | some _, some p => .done (s.putCode p (blockByte vs)) { run with iter := run.iter + 1 }
    | _, _ => .formatError s
  | _, _ => .formatError s

/-! ### COPY, FILL and control ops (08 R196, R197, R201) -/

/-- Bytes of a write head (08 R201). -/
def writeHead (handle elems step start : Nat) : List Byte :=
  leBytes 2 handle ++ [0, 0] ++ leBytes 4 elems ++ leBytes 8 step ++ leBytes 4 start ++ zeros 4

/-- Iterations of one write message of a COPY to REMOTE. -/
def Op.msgSpan (o : Op) : Nat := if byteAt o.imm 0 = 7 then o.total else o.span (byteAt o.imm 0)

/-- Sends the write message whose last iteration is i, with the codes taken up for it. -/
def State.sendWrite (s : State) (hdl : BitVec 20) (o : Op) (d0 : Descr) (i : Nat) (cs : List Nat) : State :=
  let first := i + 1 - o.msgSpan
  s.sendMessage d0.toFa hdl kData tcBulk (s.slot hdl).step false
    (writeHead d0.toH cs.length (s.slot hdl).step (walkOf d0.dims (o.tuple 0 d0 first))) (pack (fmtBits d0.fmt) cs)

/-- An iteration of COPY. -/
def State.copyIter (s : State) (hdl : BitVec 20) (o : Op) (run : OpRun) : Iter :=
  match s.opDescr o 0, s.opDescr o 1 with
  | some d0, some d1 =>
    let i := run.iter
    match s.codeAt d1 (o.tuple 1 d1 i) with
    | none => .formatError s
    | some c =>
      if d0.space = spRemote then
        let ix := o.tuple 0 d0 i
        let acc := run.acc ++ [c]
        let run := { run with iter := i + 1 }
        if !insideDims d0.dims ix || decide (offsetOf d0.dims ix < 0) then .formatError s
        else if (i + 1) % max 1 o.msgSpan = 0 then .done (s.sendWrite hdl o d0 i acc) { run with acc := [] }
        else .done s { run with acc := acc }
      else
        match s.placeOf d0 (o.tuple 0 d0 i) true with
        | some p => .done (s.putCode p c) { run with iter := i + 1 }
        | none => .formatError s
  | _, _ => .formatError s

/-- An iteration of FILL. -/
def State.fillIter (s : State) (o : Op) (run : OpRun) : Iter :=
  match s.opDescr o 0 with
  | some d0 =>
    match s.placeOf d0 (o.tuple 0 d0 run.iter) true with
    | some p => .done (s.putCode p (leAt o.imm 8 8 % 2 ^ fmtBits d0.fmt)) { run with iter := run.iter + 1 }
    | none => .formatError s
  | none => .formatError s

/-- CMP_SET on a queue context (08 R197). -/
def QCtx.cmpSet (q : QCtx) (imm : List Byte) : QCtx :=
  let a := natAt q.qcs (byteAt imm 1)
  let b := if bitOf (byteAt imm 2) 4 then natAt q.qcs (byteAt imm 3) else leAt imm 8 8
  { q with preds := q.preds.set (byteAt imm 0) (relOf (byteAt imm 2 % 16) (decide (a < b)) (decide (b < a))) }

/-- CTR_ADD: the sum, and whether it clamped. -/
def ctrAdd (v : Nat) (imm : List Byte) : Nat × Bool :=
  let x : Int := (v : Int) + sgnOf 64 (leAt imm 8 8)
  if x < 0 then (0, true) else if (maxWord : Int) < x then (maxWord, true) else (x.toNat, false)

/-- A control op. -/
def State.controlOp (s : State) (hdl : BitVec 20) (qid : Nat) (o : Op) (run : OpRun) : Iter :=
  let n := byteAt o.imm 0
  let done := fun (t : State) => Iter.done t { run with iter := run.iter + 1 }
  let setQ := fun (t : State) (v : Nat) => t.modQ hdl qid fun q => { q with qcs := natSet q.qcs n v }
  match o.opc with
  | 0x01 => done (setQ s (leAt o.imm 8 8))
  | 0x02 =>
    let r := ctrAdd (natAt ((s.qctx hdl qid).elim [] (·.qcs)) n) o.imm
    done ((setQ s r.1).bump .tokQcSat (b2n r.2))
  | 0x03 =>
    match s.opDescr o 1 with
    | none => .formatError s
    | some d1 =>
      let w := leAt o.imm 8 8
      match (if w < d1.count then s.codeAt d1 (tupleOf d1.dims w) else none) with
      | some c => done (setQ s (sgnOf (fmtBits d1.fmt) c).toNat)
      | none => .formatError s
  | 0x04 => done (s.modQ hdl qid fun q => q.cmpSet o.imm)
  | _ => done s

/-! ### What an iteration touches -/

/-- Opcodes whose iteration is one element of each handle. -/
def Op.elementwise (o : Op) : Bool := o.opc == 0x10 || o.opc == 0x11 || o.opc == 0x41 || o.opc == 0x80 || o.opc == 0x81

/-- The handles that an op writes besides H0. -/
def Op.writesH2 (o : Op) : Bool := o.opc == 0x20 || o.opc == 0x21 || o.opc == 0x22 || o.opc == 0x28

/-- The element places of a handle, with those of their scales. -/
def State.placesOf (s : State) (d : Descr) (write : Bool) (l : List (List Nat)) : List (Place × Bool) :=
  l.flatMap fun ix => (s.placeOf d ix write).toList.map (fun p => (p, write))
    ++ (if d.scaled then (s.scalePlace d ix write).toList.map (fun p => (p, write)) else [])

/-- Iterations whose elements an iteration of an element-wise op reads: those of the target block or fold block that it begins. -/
def State.readsAt (s : State) (o : Op) (i : Nat) : List Nat :=
  if o.opc = 0x41 ∧ (s.opDescr o 0).any (·.scaled) then (o.blockIters i).1
  else if o.opc = 0x10 ∧ i % 32 = 0 then (List.range (min 32 (o.total - i))).map (i + ·)
  else [i]

/-- The places that the coming iteration touches, and whether it writes there. -/
def State.touched (s : State) (o : Op) (run : OpRun) : List (Place × Bool) :=
  if o.opc = 0x40 then
    match s.kernel (leAt o.imm 2 2) with
    | none => []
    | some k =>
      ((s.kernelStreams o k).zipIdx).flatMap fun (st, n) => match st with
        | none => []
        | some (h, _, d) =>
          let out := n == 0 || (decide (4 ≤ n) && byteAt k.follow (n - 4) / 4 % 2 == 1)
          s.placesOf d out ((List.range (o.groupLen run.iter)).map fun i => o.tuple h d (run.iter + i))
  else
    (List.range 4).flatMap fun j => match s.opDescr o j with
      | none => []
      | some d =>
        let w := j == 0 || (j == 2 && o.writesH2)
        s.placesOf d w (if !o.elementwise then o.free j d run.iter else if w then [o.tuple j d run.iter]
          else (s.readsAt o run.iter).map (o.tuple j d))

/-- The coming iteration need not wait for a heal, nor for a router tensor (11 R259, 10 R244). -/
def State.iterReady (s : State) (o : Op) (run : OpRun) : Bool :=
  (s.touched o run).all fun p => if p.2 then s.writeReady p.1 else s.placeReady p.1

/-! ### Iterations and signals (08 R195, R198, R199) -/

/-- A descriptor as an engine takes it: no reserved format code, and whole blocks where it is block-scaled (02 R29, R36). -/
def State.descrSound (s : State) (d : Descr) : Bool :=
  fmtValid d.fmt && (!(d.scaled || fmtBlock d.fmt) || (d.count % 32 == 0 && (s.descr d.scales).all fun e => fmtValid e.fmt))

/-- Every CVT of a kernel holds a convert control without a reserved value (02 R40). -/
def Kernel.cvtOk (k : Kernel) : Bool := k.bundles.all fun w => fld w.1 0 8 != 0x14 || convctlOk (fld w.1 32 16)

/-- The descriptors that an op names. -/
def State.opDescrs (s : State) (o : Op) : List Descr :=
  (List.range 4).filterMap (s.opDescr o)
  ++ (if o.opc = 0x40 then ((s.kernel (leAt o.imm 2 2)).elim [] fun k => (s.kernelStreams o k).filterMap fun x => x.map (·.2.2)) else [])
  ++ (if (o.opc = 0x60 ∨ o.opc = 0x61) ∧ o.mxSp28 then (s.descr (leAt o.imm 2 2)).toList else [])

/-- No reserved value reaches an engine with an op: else it stops before it writes an element (02 R29, R36, R40; 03 R50). -/
def State.opSound (s : State) (o : Op) : Bool :=
  (s.opDescrs o).all s.descrSound
  && (match o.opc with
    | 0x10 => foldOpOk o
    | 0x40 => (s.kernel (leAt o.imm 2 2)).all Kernel.cvtOk
    | 0x41 => convctlOk (leAt o.imm 0 2)
    | _ => true)

/-- The stop of an op that is not sound. -/
def State.unsound (s : State) (o : Op) : Iter := if o.opc = 0x60 ∨ o.opc = 0x61 then s.mxStop else .formatError s

/-- One iteration of a sound op. -/
def State.soundIter (s : State) (hdl : BitVec 20) (qid : Nat) (o : Op) (run : OpRun) : Iter :=
  match o.opc with
  | 0x10 => s.foldIter o run
  | 0x11 => s.blkexpIter o run
  | 0x40 => s.kernelIter hdl o run
  | 0x41 => s.convertIter hdl o run
  | 0x60 => s.mmulIter o run
  | 0x61 => s.mgroupIter hdl o run
  | 0x80 => s.copyIter hdl o run
  | 0x81 => s.fillIter o run
  | n => if n < 0x10 then s.controlOp hdl qid o run else s.sieveIter o run

/-- One iteration of an op that is not skipped. -/
def State.runIter (s : State) (hdl : BitVec 20) (qid : Nat) (o : Op) (run : OpRun) : Iter :=
  if s.opSound o then s.soundIter hdl qid o run else s.unsound o

/-- Iterations that a skipped op passes at once. -/
def Op.stride (o : Op) (i : Nat) : Nat := if o.opc = 0x40 then o.groupLen i else 1

/-- One iteration of a skipped op: nothing is written; a COPY to REMOTE sends its message without elements. -/
def State.skipIter (s : State) (hdl : BitVec 20) (o : Op) (run : OpRun) : Iter :=
  let n := run.iter + o.stride run.iter
  let t := match o.opc, s.opDescr o 0 with
    | 0x80, some d0 => if d0.space = spRemote ∧ n % max 1 o.msgSpan = 0 then s.sendWrite hdl o d0 run.iter [] else s
    | _, _ => s
  .done t { run with iter := n }

/-- The bank names mean what they meant as the op issued (08 R191). -/
def State.withBank (s : State) (b : Bool) : State := { s with led := { s.led with srcB := b } }

def Iter.restore (b : Bool) : Iter → Iter
  | .done s r => .done (s.withBank b) r
  | .formatError s => .formatError (s.withBank b)
  | .trap s => .trap (s.withBank b)

/-- Signals that iteration count n of an op raises; at its end those of level 7 too (08 R199). -/
def Op.due (o : Op) (n : Nat) : List Signal :=
  o.signals.filter fun g => if g.slvl = 7 then decide (o.total ≤ n) else n % max 1 (o.span g.slvl) == 0

/-- The op moves on after an iteration: its signals, the wait of the next one, its end. -/
def State.iterated (s : State) (hdl : BitVec 20) (qid : Nat) (o : Op) (run : OpRun) : State :=
  let last := decide (o.total ≤ run.iter)
  let t := s.modQ hdl qid fun q =>
    if last then { q with run := none, next := q.next + 1 } else { q with run := some { run with waited := !o.waitsAt run.iter } }
  (o.due run.iter).foldl (fun t g => t.addToken hdl g.queue g.ctr) t

/-! ### Write messages (08 R201, R202) -/

/-- The descriptor that a write message names, where the message passes the checks of R202. -/
def State.landing (s : State) (p : Plan) (v : Slot) (m : WriteMsg) : Option Descr :=
  if m.step ≠ v.step ∨ !(p.descs.any fun e => e.1 == m.handle) then none
  else
    match s.descr m.handle with
    | some d => if d.land && decide (m.start + m.elems ≤ d.count) then some d else none
    | none => none

/-- Places that a write message is to fill. -/
def State.landPlaces (s : State) (d : Descr) (m : WriteMsg) : List Place :=
  (List.range m.elems).filterMap fun i => s.placeOf d (tupleOf d.dims (m.start + i)) true

/-- Lands a write message: its elements, then its token; one that breaks R202 ends the instance. -/
def State.landWrite (s : State) (m : WriteMsg) : State :=
  match s.plan (planOf m.hdl) with
  | none => s
  | some p =>
    match s.landing p (s.slot m.hdl) m with
    | none => (s.bump .tokLandDrop).failInstance m.hdl stFormatError []
    | some d => (s.putWalk d m.start (unpack (fmtBits d.fmt) m.elems m.data)).addToken m.hdl d.landQ d.landC

/-- The blocks that a write message fills in part are read (11 R257). -/
def State.landFetch (s : State) (m : WriteMsg) : State :=
  match (s.plan (planOf m.hdl)).bind fun p => s.landing p (s.slot m.hdl) m with
  | some d => (s.landPlaces d m).foldl State.fetchPlace s
  | none => s

/-- Every element that a write message fills may be written now (11 R259, 10 R244). -/
def State.landReady (s : State) (p : Plan) (v : Slot) (m : WriteMsg) : Bool :=
  match s.landing p v m with
  | some d => (s.landPlaces d m).all s.writeReady
  | none => true

/-- A write message, delivered whole. -/
def execWriteMessageReceive (m : WriteMsg) (s : State) : Host.Outcome State Fault Refusal :=
  .next (
    let u := s.takeInbox m.src m.hdl
    let n := msgCells m.data
    if !s.engines then u
    else
      match s.plan (planOf m.hdl) with
      | none => u.bump .plnUnlaunchedDrop n
      | some p =>
        let fm := !(s.isLeafOf m.src)
        if (s.slot m.hdl).unlaunched fm m.src m.step then u.bump .plnUnlaunchedDrop n
        else
          let t := u.openFor p m.hdl fm m.step 0
          let v := t.slot m.hdl
          if v.state ≠ .opened then t.bump .plnLateDrop n
          else if t.pl.waiting.contains m.hdl then { t with pl := { t.pl with staged := t.pl.staged ++ [⟨m⟩] } }
          else if (t.landFetch m).landReady p v m then
            (if ((t.landFetch m).slot m.hdl).state = .opened then (t.landFetch m).landWrite m else t.landFetch m).progress m.hdl
          else s.landFetch m)

/-- An instance that waits for queue contexts starts its queues, in order of slot opening, and its staged write messages
land (08 R189). -/
def execQueueContextStart (s : State) : Host.Outcome State Fault Refusal :=
  .next (
    match s.pl.waiting with
    | [] => s
    | hdl :: rest =>
      match s.plan (planOf hdl) with
      | none => s
      | some p =>
        let mine := s.pl.staged.filter fun w => w.msg.hdl == hdl
        let v := s.slot hdl
        if !s.engines ∨ 1024 < s.contextsUsed + p.queues.length then s
        else
        let s := mine.foldl (fun t w => t.landFetch w.msg) s
        if !(s.pl.waiting.contains hdl) ∨ !(mine.all fun w => s.landReady p v w.msg) then s
        else
          let qs := p.queues.map fun q => q.context (v.scalar.getD 0) v.step
          let t := { s with pl := { s.pl with
            waiting := rest
            staged := s.pl.staged.filter fun w => w.msg.hdl != hdl
            progs := Assoc.set hdl ⟨qs, s.clk.cycle⟩ s.pl.progs } }
          (mine.foldl (fun t w => if (t.slot hdl).state = .opened then t.landWrite w.msg else t) t).progress hdl)

/-! ### Issue and completion (08 R197 to R200, R205) -/

/-- The next op of a queue, where none is in progress. -/
def State.nextOp (s : State) (hdl : BitVec 20) (qid : Nat) : Option (QCtx × Op) :=
  match s.qctx hdl qid, (s.plan (planOf hdl)).bind (·.queue qid) with
  | some q, some pq => if q.run.isNone then (pq.ops[q.next]?).map fun o => (q, o) else none
  | _, _ => none

/-- The op in progress of a queue. -/
def State.curOp (s : State) (hdl : BitVec 20) (qid : Nat) : Option (QCtx × Op × OpRun) :=
  match s.qctx hdl qid, (s.plan (planOf hdl)).bind (·.queue qid) with
  | some q, some pq => match q.run, pq.ops[q.next]? with
    | some r, some o => some (q, o, r)
    | _, _ => none
  | _, _ => none

/-- An op is skipped (08 R197). -/
def Op.skips (o : Op) (q : QCtx) : Bool := o.pen && (q.preds.getD o.pred false == o.pneg)

/-- The next op of a queue issues. -/
def execOpIssue (hdl : BitVec 20) (qid : Nat) (s : State) : Host.Outcome State Fault Refusal :=
  .next (
    match s.nextOp hdl qid with
    | none => s
    | some (q, o) =>
      if !s.engines ∨ (s.slot hdl).state ≠ .opened ∨ !(q.met o.wait) then s
      else
        let run : OpRun := { iter := 0, waited := true, skipped := o.skips q, debug := s.rdf .veCtl 0 1 == 1, regs := [],
                             flight := [], acc := [], bankB := s.led.srcB, blocks := [] }
        (s.modQ hdl qid fun q => { q.take o.wait with run := some run }).bump .tokSkip (b2n (o.skips q)))

/-- The accesses of an op's coming iteration decode their blocks, in the bank roles it started with (11 R256, R257). -/
def State.opFetch (s : State) (o : Op) (run : OpRun) : State :=
  let t := s.withBank run.bankB
  (((t.touched o run).map (·.1)).foldl State.fetchPlace t).withBank s.led.srcB

/-- An iteration of an op runs and its signals are applied; an op whose wait before the iteration is unmet stays. -/
def execOpIterationDone (hdl : BitVec 20) (qid : Nat) (s : State) : Host.Outcome State Fault Refusal :=
  .next (
    match s.curOp hdl qid with
    | none => s
    | some (q, o, run) =>
      if !s.engines ∨ (s.slot hdl).state ≠ .opened ∨ (!run.waited && !(q.met o.wait)) then s
      else
        let now := s.led.srcB
        let s := if run.skipped then s else s.opFetch o run
        if (s.slot hdl).state ≠ .opened then s.settle
        else
        let t := (if run.waited then s else s.modQ hdl qid fun q => q.take o.wait).withBank run.bankB
        if !run.skipped ∧ !(t.iterReady o run) then s
        else
          match ((if run.skipped then t.skipIter hdl o run else t.runIter hdl qid o run).restore now) with
          | .done u r => (u.iterated hdl qid o r).progress hdl
          | .formatError u => (u.failInstance hdl stFormatError []).settle
          | .trap u => (u.failInstance hdl stAborted []).settle)

/-! ### The all-wait detector (08 R207, R208) -/

/-- Counters of a queue that land data: the detector judges no wait on them. -/
def State.landCtrs (s : State) (p : Plan) (qid : Nat) : List Nat :=
  (p.descs.filterMap fun e => (s.descr e.1).bind fun d => if d.land && d.landQ == qid then some d.landC else none)
  ++ ((p.queue qid).bind (·.bind)).toList

/-- The wait that a queue stands at: the op's, unless that op is in progress. -/
def QCtx.standing (q : QCtx) (pq : PQueue) : Option Op :=
  match q.run, pq.ops[q.next]? with
  | some r, some o => if r.waited then none else some o
  | none, o => o
  | _, none => none

/-- A queue has finished. -/
def QCtx.finished (q : QCtx) (pq : PQueue) : Bool := q.run.isNone && decide (pq.ops.length ≤ q.next)

/-- A queue is stalled (08 R207). -/
def State.stalled (s : State) (p : Plan) (q : QCtx) (pq : PQueue) : Bool :=
  match q.standing pq with
  | none => false
  | some o => !(q.met o.wait) && ((waitCtrs o.wait).filter fun i => natAt q.tcs i == 0).all fun i =>
      !((s.landCtrs p q.qid).contains i)

/-- An instance is in all-wait. -/
def State.allWait (s : State) (hdl : BitVec 20) (p : Plan) (g : Prog) : Bool :=
  let qs := g.queues.filterMap fun q => (p.queue q.qid).map fun pq => (q, pq)
  (s.slot hdl).state == .opened && (qs.all fun (q, pq) => s.stalled p q pq || q.finished pq)
    && qs.any fun (q, pq) => s.stalled p q pq

/-- The snapshot of an instance (08 R208). -/
def snapshotOf (hdl : BitVec 20) (step : Nat) (p : Plan) (g : Prog) : List Byte :=
  let qs := sortBy (fun (a b : QCtx) => decide (a.qid < b.qid)) g.queues
  leBytes 4 hdl.toNat ++ leBytes 8 step ++ leBytes 4 qs.length
  ++ qs.flatMap fun q => match p.queue q.qid with
    | none => []
    | some pq =>
      let empty := (List.range 32).foldl (fun a i => a + (if natAt q.tcs i = 0 then 2 ^ i else 0)) 0
      let at' := match q.standing pq with
        | some o => (q.next, o.wait.toNat)
        | none => (0xFFFFFFFF, 0)
      leBytes 1 q.qid ++ leBytes 1 q.cls ++ [0, 0] ++ leBytes 4 at'.1 ++ leBytes 4 at'.2 ++ leBytes 4 empty

/-- All-wait has lasted for TOK_WAIT_LIMIT: the instance ends WAIT_CYCLE. -/
def execWaitCycle (hdl : BitVec 20) (s : State) : Host.Outcome State Fault Refusal :=
  .next (
    match s.plan (planOf hdl), Assoc.find hdl s.pl.progs with
    | some p, some g =>
      let limit := s.rdf .tokWaitLimit 0 24
      if !s.engines ∨ limit = 0 ∨ !(s.allWait hdl p g) ∨ s.clk.cycle < g.quiet + limit * 2000 then s
      else
        let t := (s.raise evWaitCycle hdl.toNat g.queues.length).bump .tokWaitCycle
        let t := { t with pl := { t.pl with
          snapshots := Assoc.set p.num (snapshotOf hdl (s.slot hdl).step p g) t.pl.snapshots } }
        (t.failInstance hdl stWaitCycle []).settle
    | _, _ => s)

end Sys2Proof.Machine
end

