-- ==== Sys2Proof/Machine/PlanParse.lean ====
section
/-!
DEFINITION. Machine/PlanParse.lean: a plan binary read into a plan (08 R183 to R194, 06 R144, R158, 07 R168, 09 R214), and
its signature (04 R96, 08 R186). Reading is total; what may be read is judged in PlanCheck.
-/
namespace Sys2Proof.Machine

open Sys2Proof

/-! ### Sections (08 R184) -/

/-- A section table entry and the offset at which it stands. -/
structure Sect where
  at'   : Nat
  typ   : Nat
  count : Nat
  off   : Nat
  len   : Nat
  deriving DecidableEq, Repr

def secColl : Nat := 1
def secMembers : Nat := 2
def secOwners : Nat := 3
def secDispatch : Nat := 4
def secSparse : Nat := 5
def secSequence : Nat := 6
def secDescr : Nat := 7
def secQueue : Nat := 8
def secKernel : Nat := 9

/-- The section table. -/
def sections (b : List Byte) : List Sect :=
  (List.range (leAt b 24 2)).map fun i =>
    let e := 64 + 16 * i
    { at' := e, typ := leAt b e 2, count := leAt b (e + 4) 4, off := leAt b (e + 8) 4, len := leAt b (e + 12) 4 }

/-- The first section of a type. -/
def sectOf (b : List Byte) (typ : Nat) : Option Sect := (sections b).find? fun x => x.typ == typ

/-- A section's bytes. -/
def Sect.body (b : List Byte) (x : Sect) : List Byte := slice b x.off x.len

/-! ### What sections hold -/

/-- A COLLECTIVE section (08 R187). -/
def collOf (x : List Byte) : Coll where
  kind := byteAt x 0
  cfmt := byteAt x 1
  rfmt := byteAt x 2
  trees := byteAt x 3 % 16
  foldctl := BitVec.ofNat 16 (leAt x 4 2)
  depth := byteAt x 6 % 32
  commit := bitOf (byteAt x 7) 0
  skipNf := bitOf (byteAt x 7) 1
  count := leAt x 8 8
  root := leAt x 16 2
  normPlan := leAt x 18 2
  clip := BitVec.ofNat 32 (leAt x 20 4)
  resH := leAt x 28 2

/-- Member addresses in rank order. -/
def membersOf (n : Nat) (x : List Byte) : List FA := (List.range n).map fun i => BitVec.ofNat 16 (leAt x (2 * i) 2)

/-- Owner table entries (05 R111). -/
def ownersOf (n : Nat) (x : List Byte) : List Owner :=
  (List.range n).map fun i =>
    let e := 16 * i
    { a := BitVec.ofNat 16 (leAt x e 2), b := BitVec.ofNat 16 (leAt x (e + 2) 2), shard := leAt x (e + 4) 2,
      offset := leAt x (e + 8) 8 }

/-- A dispatch section (06 R144). -/
def dispatchOf (x : List Byte) : DispatchSec where
  nexp := leAt x 0 2
  k := byteAt x 2
  role := byteAt x 3
  epm := leAt x 4 2
  gate := byteAt x 6
  flags := BitVec.ofNat 8 (byteAt x 7)
  cap := leAt x 8 4
  tmax := leAt x 12 4
  hid := leAt x 16 4
  tfmt := byteAt x 20
  ofmt := byteAt x 21
  rfmt := byteAt x 22
  lscale := BitVec.ofNat 32 (leAt x 24 4)
  router := leAt x 28 2
  fwdPlan := leAt x 30 2

/-- A sparse section (08 R184). -/
def sparseSecOf (x : List Byte) : SparseSec where
  fmt := byteAt x 0
  rfmt := byteAt x 1
  satsel := byteAt x 2 % 4
  predict := bitOf (byteAt x 3) 0
  deliver := bitOf (byteAt x 3) 1
  outform := byteAt x 4
  out := leAt x 6 2
  bpm := leAt x 8 4

/-- A sequence section (07 R168). -/
def seqSecOf (x : List Byte) : SeqSec where
  ctx := byteAt x 0
  role := byteAt x 1
  view := byteAt x 2
  order := byteAt x 3
  seqlen := leAt x 4 4
  tokb := leAt x 8 4
  btok := leAt x 12 2
  layers := leAt x 14 2
  freeAfter := bitOf (byteAt x 16) 0

/-- A tensor descriptor (08 R191). -/
def descrOf (x : List Byte) : Descr where
  space := byteAt x 0 % 8
  fmt := byteAt x 0 / 8
  scaled := bitOf (byteAt x 1) 3
  land := bitOf (byteAt x 1) 4
  base := leAt x 2 6
  toFa := BitVec.ofNat 16 (leAt x 2 2)
  toH := leAt x 4 2
  region := byteAt x 8
  landQ := leAt x 9 2 % 16
  landC := leAt x 9 2 / 16 % 32
  scales := leAt x 12 2
  dims := (List.range (byteAt x 1 % 8 + 1)).map fun k => (leAt x (16 + 8 * k) 4, sgnOf 32 (leAt x (20 + 8 * k) 4))
  raw := x

/-- Handles with their descriptors: the handles stand first, padded to a multiple of 64 bytes (08 R184). -/
def descrsOf (n : Nat) (x : List Byte) : List (Nat × Descr) :=
  (List.range n).map fun i => (leAt x (2 * i) 2, descrOf (slice x (roundUp (2 * n) 64 + 64 * i) 64))

/-- A signal entry (08 R199). -/
def signalOf (w : Nat) : Signal := { queue := bits w 2 4, ctr := bits w 6 5, slvl := bits w 11 3 }

/-- A level word (08 R195). -/
def levelOf (w : Nat) : Level :=
  { trip := bits w 0 20 + 1, dsel := [bits w 20 3, bits w 23 3, bits w 26 3, bits w 29 3] }

/-- An op (08 R194). -/
def opOf (x : List Byte) : Op where
  opc := byteAt x 0
  pred := byteAt x 1 % 8
  pen := bitOf (byteAt x 1) 3
  pneg := bitOf (byteAt x 1) 4
  wlvl := byteAt x 2 % 8
  h := (List.range 4).map fun j => leAt x (4 + 2 * j) 2
  wait := BitVec.ofNat 32 (leAt x 12 4)
  signals := (([16, 20].map (leAt x · 4)).filter fun w => w % 4 == 1).map signalOf
  levels := (List.range 6).map fun l => levelOf (leAt x (24 + 4 * l) 4)
  imm := slice x 48 16

/-- A QUEUE section (08 R188). -/
def queueOf (n : Nat) (x : List Byte) : PQueue where
  qid := byteAt x 0
  cls := byteAt x 1
  bind := if bitOf (byteAt x 2) 5 then some (byteAt x 2 % 32) else none
  tinit := (List.range 32).map fun i => bits (leAt x 4 16) (4 * i) 4
  ops := (List.range n).map fun i => opOf (slice x (32 + 64 * i) 64)

/-- A KERNEL section (09 R214). -/
def kernelOf (n : Nat) (x : List Byte) : Kernel where
  entry := leAt x 0 2
  carry := bitOf (byteAt x 4) 0
  follow := slice x 8 8
  extra := (List.range 8).map fun k => leAt x (16 + 2 * k) 2
  consts := (List.range 8).map fun k => BitVec.ofNat 32 (leAt x (32 + 4 * k) 4)
  bundles := (List.range n).map fun i => (BitVec.ofNat 64 (leAt x (64 + 16 * i) 8), BitVec.ofNat 64 (leAt x (72 + 16 * i) 8))
  raw := x

/-- The sections of a type, read. -/
def readSects {α : Type} (b : List Byte) (typ : Nat) (f : Nat → List Byte → α) : List α :=
  ((sections b).filter fun x => x.typ == typ).map fun x => f x.count (x.body b)

/-- A BARRIER without queues: it stages no data, holds no accumulator slab and has no queue, so that it needs nothing of what 22
R441 reserves in working memory (log 9). -/
def bareBarrier (b : List Byte) : Bool :=
  (readSects b secColl fun _ x => (collOf x).kind).head? == some kBarrier && (readSects b secQueue fun _ _ => ()).isEmpty

/-- What such a plan with m members can retain at most: in each of its 256 slots, for each member and for each module beside this
one, a window and the credits of one stream in cells of 256 bytes (04 R102, 13 R298, R304; log 9). -/
def barrierSpill (m : Nat) : Nat := 256 * (m + 8) * (2 ^ 14 + 16) * 256

/-- A plan binary as a plan. -/
def planOfBinary (b : List Byte) : Plan where
  num := leAt b 6 2
  sig := BitVec.ofNat 64 (leAt b 8 8)
  planVer := leAt b 16 4
  coll := (readSects b secColl fun _ => collOf).head?
  members := ((readSects b secMembers membersOf).head?).getD []
  owners := ((readSects b secOwners ownersOf).head?).getD []
  dispatch := (readSects b secDispatch fun _ => dispatchOf).head?
  sparse := (readSects b secSparse fun _ => sparseSecOf).head?
  seqn := (readSects b secSequence fun _ => seqSecOf).head?
  descs := ((readSects b secDescr descrsOf).head?).getD []
  queues := readSects b secQueue queueOf
  kernels := readSects b secKernel kernelOf
  workKib := if bareBarrier b then 0 else Config.workKib b
  spill := if bareBarrier b then min (Config.spillBytes b) (barrierSpill (((readSects b secMembers membersOf).head?).getD []).length)
    else Config.spillBytes b

/-! ### The signature (04 R96, 08 R186) -/

/-- The bytes of the first section of a type, empty where the plan has none. -/
def bodyOf (b : List Byte) (typ : Nat) : List Byte := ((sectOf b typ).map fun x => x.body b).getD []

/-- XDIG: the sections with their handle fields read as 0. -/
def xdig (b : List Byte) : List Byte :=
  let c := bodyOf b secColl
  let blank := fun (l : List Byte) at' => if l.isEmpty then l else l.take at' ++ [0, 0] ++ l.drop (at' + 2)
  (sha256 ([BitVec.ofNat 8 (byteAt c 3), BitVec.ofNat 8 (byteAt c 7)] ++ slice c 16 8 ++ bodyOf b secOwners
    ++ blank (bodyOf b secDispatch) 28 ++ blank (bodyOf b secSparse) 6 ++ bodyOf b secSequence)).take 4

/-- MSET of a member list. -/
def mset (members : List FA) : List Byte := (sha256 (members.flatMap fun a => leBytes 2 a.toNat)).take 8

/-- The signature record of a plan binary. -/
def sigRecord (b : List Byte) : List Byte :=
  let c := bodyOf b secColl
  let ms := mset (((readSects b secMembers membersOf).head?).getD [])
  let ver := slice b 16 4
  if c.isEmpty then [0xFF, 0x1F, 0x1F] ++ zeros 13 ++ ms ++ ver ++ zeros 4
  else c.take 3 ++ [0] ++ slice c 4 2 ++ [0, 0] ++ slice c 8 8 ++ ms ++ ver ++ xdig b

/-- The signature that a plan binary must state. -/
def signatureOf (b : List Byte) : Word := BitVec.ofNat 64 (leNat ((sha256 (sigRecord b)).take 8))

end Sys2Proof.Machine
end

