-- ==== Sys2Proof/Machine/PlanCheck.lean ====
section
/-!
DEFINITION. Machine/PlanCheck.lean: what PLAN_INSTALL refuses (08 R183 to R203; 02 R29, R40; 03 R50, R51; 04 R74 to R77, R96;
05 R111; 06 R144, R158; 07 R168, R182; 09 R211 to R222; 10 R232 to R243) and the offset that names each offending field
(18 R385). A check answers the offsets of the fields that break it.
-/
namespace Sys2Proof.Machine

open Sys2Proof

/-- A field offends where a condition fails. -/
def need (ok : Bool) (at' : Nat) : List Nat := if ok then [] else [at']

/-! ### Header and section table (08 R183 to R185) -/

/-- The length rules on BYTES, and the header fields. -/
def headBad (b : List Byte) (pbytes : Nat) : List Nat :=
  let n := leAt b 20 4
  need (b.take 4 == [0x44, 0x58, 0x50, 0x4C]) 0
  ++ (if byteAt b 4 = 1 then need (byteAt b 5 == 0) 5 else [4])
  ++ need (decide (1 ≤ leAt b 6 2) && decide (leAt b 6 2 ≤ 4095)) 6
  ++ need (n == pbytes && n % 64 == 0 && decide (128 ≤ n) && decide (n ≤ 2 ^ 26)) 20
  ++ need (decide (1 ≤ leAt b 24 2) && decide (leAt b 24 2 ≤ 64) && decide (64 + 16 * leAt b 24 2 ≤ b.length)) 24
  ++ need (zeroAt b 26 56) 26
  ++ need ((crc64 (b.take 56 ++ zeros 8 ++ b.drop 64)).toNat == leAt b 56 8) 56

/-- COUNT limits and the BYTES that a COUNT gives; none where COUNT is outside its limits. -/
def sectLen (typ n : Nat) : Option Nat :=
  let lim := fun (hi len : Nat) => if 1 ≤ n ∧ n ≤ hi then some len else none
  match typ with
  | 1 => lim 1 32
  | 2 => lim 16384 (roundUp (2 * n) 64)
  | 3 => lim 4096 (16 * n)
  | 4 => lim 1 48
  | 5 => lim 1 16
  | 6 => lim 1 32
  | 7 => lim 65535 (roundUp (2 * n) 64 + 64 * n)
  | 8 => lim 65536 (32 + 64 * n)
  | 9 => lim 4096 (64 + 16 * n)
  | _ => none

/-- How often a type may stand in a plan. -/
def sectMax (typ : Nat) : Nat := if typ = secQueue then 16 else if typ = secKernel then 64 else 1

/-- Two sections overlap. -/
def Sect.meets (x y : Sect) : Bool := decide (x.off < y.off + y.len) && decide (y.off < x.off + x.len)

/-- A type may stand in a plan of this kind. -/
def typeFits (kind : Option Nat) (types : List Nat) (typ : Nat) : Bool :=
  match typ with
  | 3 => kind == some kRug || kind == some kReduceScatter
  | 4 => kind == some kAllToAllV
  | 5 => kind == some kAllToAllV && !(types.contains secDispatch)
  | 6 => kind == some kAllGather
  | _ => true

/-- The section table's fields (08 R184). -/
def tableBad (b : List Byte) : List Nat :=
  let l := sections b
  let kind := (readSects b secColl fun _ x => byteAt x 0).head?
  let types := l.map (·.typ)
  let each := (l.zipIdx).flatMap fun (x, i) =>
    let before := l.take i
    let known := decide (1 ≤ x.typ) && decide (x.typ ≤ 9)
    need (known && decide ((before.filter fun y => y.typ == x.typ).length < sectMax x.typ) && typeFits kind types x.typ) x.at'
    ++ need (leAt b (x.at' + 2) 2 == 0) (x.at' + 2)
    ++ (if known then match sectLen x.typ x.count with
        | none => [x.at' + 4]
        | some n => need (n == x.len) (x.at' + 12)
        else [])
    ++ need (x.off % 64 == 0 && decide (64 + 16 * l.length ≤ x.off)) (x.at' + 8)
    ++ need (decide (x.off + x.len ≤ b.length) && before.all fun y => !(y.meets x)) (x.at' + 12)
  let owners := kind == some kRug || kind == some kReduceScatter
  each ++ need (types.contains secMembers && (types.contains secColl || types.contains secQueue)
    && (!owners || types.contains secOwners)) 24

/-! ### COLLECTIVE (08 R187, 03 R50, R51, 04 R76, R77) -/

/-- Formats that an operation takes as contributions. -/
def contribFmts (fop : Nat) : List Nat :=
  match fop with
  | 0 | 1 | 2 => [0, 1, 2, 3, 4]
  | 3 | 4 => [0, 1, 2, 3, 4, 9, 10]
  | 8 => [0]
  | 9 => [9, 10]
  | _ => [0, 1, 2, 3, 4, 9, 10, 11]

/-- Formats that an operation writes. -/
def resultFmts (fop cfmt : Nat) (final : Bool) : List Nat :=
  match fop with
  | 0 | 1 => [0, 1, 2, 3, 4]
  | 2 => [0, 1, 2]
  | 8 => if final then [0, 1, 2] else [0]
  | 9 => [9]
  | _ => [cfmt]

/-- Chunks of a member's data as the limit of R77 counts them; an LSE chunk at its narrowest width. -/
def Coll.limitChunks (c : Coll) : Nat := if c.kind = kBarrier then 1 else ceilDiv c.count (c.perChunk 32)

/-- Fields of a COLLECTIVE section at an offset. -/
def collBad (at' : Nat) (x : List Byte) (m : Nat) (seqn : Bool) : List Nat :=
  let c := collOf x
  let fc := c.foldctl.toNat
  let fmtOk := fun f => if c.folds then fmtValid f else f == fmtNone
  let pairing := decide (c.kind != kReduceScatter || c.fop != fopLse) && (c.kind != kRug || c.fop == fopSum || c.fop == fopSum32)
  let commitFits := c.kind == kAllReduce && c.fop == fopOr && c.cfmt == 9 && c.rfmt == 9 && c.count == 1
  let rooted := c.kind == kReduce || c.kind == kBroadcast
  let countOk := if c.kind = kBarrier then c.count == 0 else if c.kind = kAllToAllV then true else decide (1 ≤ c.count)
  need (decide (c.kind ≤ 8)) at'
  ++ need (fmtOk c.cfmt && (!c.folds || decide (9 < c.fop) || (contribFmts c.fop).contains c.cfmt)) (at' + 1)
  ++ need (fmtOk c.rfmt && (!c.folds || decide (9 < c.fop) || !((contribFmts c.fop).contains c.cfmt)
      || (resultFmts c.fop c.cfmt c.lseFinal).contains c.rfmt)) (at' + 2)
  ++ need (decide (byteAt x 3 < 16) && decide (1 ≤ c.trees) && decide (c.trees ≤ 8)) (at' + 3)
  ++ need (if c.folds then foldctlOk fc && pairing else fc == 0) (at' + 4)
  ++ need (decide (byteAt x 6 ≤ 16)) (at' + 6)
  ++ need (decide (byteAt x 7 < 4) && (!c.skipNf || c.kind == kRug) && (!c.commit || commitFits)) (at' + 7)
  ++ need (countOk && (seqn || decide (c.limitChunks ≤ 4096))) (at' + 8)
  ++ need (if rooted then decide (c.root < m) else c.root == 0) (at' + 16)
  ++ need (if c.kind = kRug then decide (c.normPlan ≤ 4095) else c.normPlan == 0) (at' + 18)
  ++ need (c.kind == kRug || c.clip == 0) (at' + 20)
  ++ need (zeroAt x 24 28) (at' + 24)
  ++ need (c.resH == 0xFFFF || c.kind == kAllReduce || c.kind == kReduce || c.kind == kReduceScatter) (at' + 28)
  ++ need (zeroAt x 30 32) (at' + 30)

/-! ### MEMBERS and OWNERS (04 R75, 05 R111, 08 R184) -/

/-- Member entries outside the unicast range, and the later of two equal ones; the padding. -/
def membersBad (at' : Nat) (x : List Byte) (ms : List FA) : List Nat :=
  ((ms.zipIdx).flatMap fun (a, i) =>
    need (decide (1 ≤ a.toNat) && decide (a.toNat ≤ 0xEFFF) && !((ms.take i).contains a)) (at' + 2 * i))
  ++ need (allZero (x.drop (2 * ms.length))) (at' + 2 * ms.length)

/-- Owner entries that the binary alone shows to be wrong. -/
def ownersBad (at' : Nat) (x : List Byte) (p : Plan) (c : Coll) : List Nat :=
  let os := p.owners
  if c.kind = kReduceScatter then
    (os.zipIdx).flatMap fun (o, i) =>
      if o.a ≠ o.b then [at' + 16 * i + 2] else need (p.members.contains o.a) (at' + 16 * i)
  else
    let span := fun (o : Owner) (i : Nat) => (o.offset, o.offset + p.chunkElems 0 i)
    (os.zipIdx).flatMap fun (o, i) =>
      let e := at' + 16 * i
      let me := span o i
      let clash := ((os.take i).zipIdx).any fun (q, j) =>
        let you := span q j
        q.a == o.a && q.b == o.b && q.shard == o.shard && decide (me.1 < you.2) && decide (you.1 < me.2)
      need (zeroAt x (16 * i + 6) (16 * i + 8)) (e + 6)
      ++ need (decide (o.offset < 2 ^ 40) && o.offset % 1024 == 0 && !clash) (e + 8)

/-- An owning node that serves no member (05 R111). -/
def State.ownerServes (s : State) (p : Plan) (at' : Nat) : List Nat :=
  (p.owners.zipIdx).flatMap fun (o, i) =>
    let node := ((s.member o.a).orElse fun _ => s.member o.b).map (·.twinA)
    match node with
    | none => []
    | some n => need (p.members.any fun m => (s.member m).any fun x => x.twinA == n) (at' + 16 * i)

/-! ### DISPATCH, SPARSE, SEQUENCE (06 R144, R158, 07 R168, 10 R243) -/

/-- Weight formats that pair with an activation format (10 R232). -/
def pairsWith (act w : Nat) : Bool :=
  match act with
  | 1 => [1, 3, 4, 10, 5, 6, 7, 11, 12, 13].contains w
  | 2 => [2, 3, 4, 10, 5, 6, 7, 11, 12, 13].contains w
  | 3 | 4 => [3, 4, 10, 5, 6, 7, 11, 12, 13].contains w
  | 10 => [3, 4, 5, 6, 10, 7, 11, 12, 13].contains w
  | _ => false

/-- A ROLE 0 plan that is installed. -/
def State.fwdPlanOf (s : State) (n : Nat) : Option (Plan × DispatchSec) :=
  (s.plan n).bind fun p => p.dispatch.bind fun d => if d.role = 0 then some (p, d) else none

/-- Fields of a DISPATCH section. -/
def State.dispatchBad (s : State) (at' : Nat) (x : List Byte) (p : Plan) : List Nat :=
  let d := dispatchOf x
  let router := d.flags.getLsbD 1
  let fwdOk := match s.fwdPlanOf d.fwdPlan with
    | some (q, f) => q.members == p.members && f.nexp == d.nexp && f.k == d.k && f.epm == d.epm && f.cap == d.cap
        && f.tmax == d.tmax && f.hid == d.hid
    | none => false
  let routerOk := match Assoc.find d.router p.descs with
    | some r => (r.space == spWork || r.space == spModule) && (r.dims.getD 0 (0, 0)).1 == d.hid && (r.dims.getD 1 (0, 0)).1 == d.nexp
        && decide (2 ≤ r.dims.length) && pairsWith d.tfmt r.fmt
    | none => false
  let lscaleOk := match F32.val d.lscale with
    | .fin neg m _ => !neg && m != 0
    | _ => false
  need (decide (1 ≤ d.nexp) && decide (d.nexp ≤ 1024)) at'
  ++ need (decide (1 ≤ d.k) && decide (d.k ≤ 8) && decide (d.k ≤ d.nexp)) (at' + 2)
  ++ need (decide (d.role ≤ 3)) (at' + 3)
  ++ need (decide (1 ≤ d.epm) && d.nexp == d.epm * p.members.length) (at' + 4)
  ++ need (decide (d.gate ≤ 2)) (at' + 6)
  ++ need (decide (d.flags.toNat < 16)) (at' + 7)
  ++ need (decide (1 ≤ d.cap) && decide (d.cap ≤ 2 ^ 24)) (at' + 8)
  ++ need (decide (1 ≤ d.tmax) && decide (d.tmax ≤ 2 ^ 20)) (at' + 12)
  ++ need (d.hid % 32 == 0 && decide (32 ≤ d.hid) && decide (d.hid ≤ 65536)) (at' + 16)
  ++ need (decide (d.tfmt ≤ 4) && !(router && d.tfmt == 0)) (at' + 20)
  ++ need (decide (d.ofmt ≤ 2)) (at' + 21)
  ++ need (decide (d.rfmt ≤ 2)) (at' + 22)
  ++ need (byteAt x 23 == 0) (at' + 23)
  ++ need lscaleOk (at' + 24)
  ++ need (if router then routerOk else d.router == 0) (at' + 28)
  ++ need (if d.role = 0 then d.fwdPlan == 0 else fwdOk) (at' + 30)
  ++ need (zeroAt x 32 48) (at' + 32)

/-- Fields of a SPARSE section. -/
def sparseBad (at' : Nat) (x : List Byte) : List Nat :=
  let d := sparseSecOf x
  need (decide (d.fmt ≤ 4)) at'
  ++ need (decide (d.rfmt ≤ 4)) (at' + 1)
  ++ need (decide (byteAt x 2 < 3)) (at' + 2)
  ++ need (decide (byteAt x 3 < 4)) (at' + 3)
  ++ need (decide (d.outform ≤ 1)) (at' + 4)
  ++ need (byteAt x 5 == 0) (at' + 5)
  ++ need (decide (1 ≤ d.bpm)) (at' + 8)
  ++ need (zeroAt x 12 16) (at' + 12)

/-- Fields of a SEQUENCE section; `collAt` is where the COLLECTIVE section stands. -/
def seqBad (at' collAt : Nat) (x : List Byte) (m count : Nat) : List Nat :=
  let q := seqSecOf x
  let pow := [64, 128, 256, 512, 1024, 2048, 4096, 8192].contains q.btok
  let unit := q.nSegs m * q.btok
  let divides := unit != 0 && q.seqlen % unit == 0
  need (decide (q.ctx ≤ 15)) at'
  ++ need (decide (q.role ≤ 2)) (at' + 1)
  ++ need (decide (q.view ≤ 1)) (at' + 2)
  ++ need (decide (q.order ≤ 1)) (at' + 3)
  ++ need (decide (1 ≤ q.seqlen) && decide (q.seqlen ≤ 1048576)) (at' + 4)
  ++ need (q.tokb % 64 == 0 && decide (64 ≤ q.tokb) && decide (q.tokb ≤ 65536)) (at' + 8)
  ++ need (pow && divides && decide (q.bpr m * q.cpb ≤ 4096)) (at' + 12)
  ++ need (decide (1 ≤ q.layers) && decide (q.layers ≤ 256)) (at' + 14)
  ++ need (decide (byteAt x 16 < 2)) (at' + 16)
  ++ need (zeroAt x 17 32) (at' + 17)
  ++ need (!divides || count == q.seqlen / max 1 m * q.tokb) (max (collAt + 8) (at' + 8))

/-! ### Descriptors (08 R191, R192) -/

/-- A descriptor as PLAN_INSTALL sees it: the plan's own, else an installed one. -/
def State.descrFor (s : State) (p : Plan) (h : Nat) : Option Descr :=
  if h = 0xFFFF then none
  else match Assoc.find h p.descs with
    | some d => some d
    | none => s.descr h

/-- Fields of one descriptor at an offset. -/
def State.descrBad (s : State) (p : Plan) (at' : Nat) (d : Descr) : List Nat :=
  let x := d.raw
  let nd := byteAt x 1 % 8 + 1
  let remote := d.space == spRemote
  let scaleOk := match s.descrFor p d.scales with
    | some e => e.fmt == 8
    | none => false
  need (decide (d.space ≤ 3) && fmtValid d.fmt) at'
  ++ need (decide (nd ≤ 6) && decide (byteAt x 1 < 32) && d.scaled == fmtBlock d.fmt && !(remote && (d.scaled || d.land))) (at' + 1)
  ++ need (!remote || zeroAt x 6 8) (at' + 6)
  ++ need (if d.space = spModule then decide (d.region ≤ 3) else d.region == 0) (at' + 8)
  ++ need (decide (leAt x 9 2 < 512)) (at' + 9)
  ++ need (byteAt x 11 == 0) (at' + 11)
  ++ need (if d.scaled then scaleOk else d.scales == 0xFFFF) (at' + 12)
  ++ need (zeroAt x 14 16) (at' + 14)
  ++ (List.range 6).flatMap fun k =>
    let size := leAt x (16 + 8 * k) 4
    let stride := leAt x (20 + 8 * k) 4
    if k < nd then
      need (size != 0 && !(k == 0 && d.scaled && size % 32 != 0)) (at' + 16 + 8 * k)
      ++ need (!(k == 0 && d.scaled) || stride == 1) (at' + 20 + 8 * k)
    else need (size == 0) (at' + 16 + 8 * k) ++ need (stride == 0) (at' + 20 + 8 * k)

/-- A DESCRIPTORS section. -/
def State.descrsBad (s : State) (p : Plan) (x : Sect) (b : List Byte) : List Nat :=
  let n := p.descs.length
  let pad := roundUp (2 * n) 64
  ((p.descs.zipIdx).flatMap fun (e, i) =>
    need (e.1 != 0xFFFF) (x.off + 2 * i) ++ s.descrBad p (x.off + pad + 64 * i) e.2)
  ++ need (zeroAt (x.body b) (2 * n) pad) (x.off + 2 * n)

/-! ### Ops (08 R194 to R200; 09 R211, R222; 10 R234, R235, R239 to R242) -/

/-- Opcodes of a class. -/
def opcOk (cls opc : Nat) : Bool :=
  decide (opc ≤ 4) ||
  (match cls with
   | 0 => opc == 0x10 || opc == 0x11
   | 1 => opc == 0x40 || opc == 0x41
   | 2 => decide (0x20 ≤ opc) && decide (opc ≤ 0x29)
   | 3 => opc == 0x60 || opc == 0x61
   | _ => opc == 0x80 || opc == 0x81)

/-- Handles that an op requires. -/
def Op.required (o : Op) : List Nat :=
  match o.opc with
  | 0x03 => [1]
  | 0x10 => [0]
  | 0x11 => [0, 1]
  | 0x20 => if bitOf (byteAt o.imm 0) 1 then [0, 1, 2] else [0, 1]
  | 0x21 => [0, 1, 2]
  | 0x22 => [0, 1, 2]
  | 0x23 => [0, 1, 2]
  | 0x24 => [0, 1]
  | 0x25 => [0, 1]
  | 0x26 => [0, 1]
  | 0x27 => [0, 1]
  | 0x28 => [0, 1, 2]
  | 0x41 => [0, 1]
  | 0x60 => [0, 1, 2]
  | 0x61 => if leAt o.imm 4 2 = 0 then [0, 1, 2, 3] else [0, 2]
  | 0x80 => [0, 1]
  | 0x81 => [0]
  | _ => []

/-- Immediates that are reserved, by their offsets in the op. -/
def immBad (o : Op) : List Nat :=
  let i := o.imm
  match o.opc with
  | 0x01 => need (decide (byteAt i 0 < 16)) 48
  | 0x02 => need (decide (byteAt i 0 < 16)) 48
  | 0x03 => need (decide (byteAt i 0 < 16)) 48
  | 0x04 => need (decide (byteAt i 0 < 8)) 48 ++ need (decide (byteAt i 1 < 16)) 49
      ++ need (decide (byteAt i 2 < 32) && decide (byteAt i 2 % 16 ≤ 5)) 50 ++ need (decide (byteAt i 3 < 16)) 51
  | 0x10 => need (foldctlOk (leAt i 0 2) && byteAt i 0 % 16 != fopLse) 48
      ++ need ([1, 2, 3].any fun j => natAt o.h j != 0xFFFF) 10
  | 0x20 => need (decide (byteAt i 0 < 4)) 48
  | 0x21 => need (decide (1 ≤ byteAt i 0) && decide (byteAt i 0 ≤ 8)) 48
      ++ need (decide (1 ≤ leAt i 2 2) && decide (leAt i 2 2 ≤ 1024)) 50
  | 0x22 => need (decide (byteAt i 0 ≤ 5)) 48
  | 0x24 => need (decide (byteAt i 0 < 2)) 48
  | 0x25 => need (decide (1 ≤ leAt i 4 4) && decide (leAt i 4 4 ≤ 65536)) 52
  | 0x23 => need (allZero i) 48
  | 0x26 => need (allZero i) 48
  | 0x27 => need (allZero i) 48
  | 0x28 => need (allZero i) 48
  | 0x29 => need (allZero i) 48
  | 0x40 => need (leAt i 0 2 == 0) 48 ++ need (decide (leAt i 2 2 < 1024)) 50
  | 0x41 => need (convctlOk (leAt i 0 2)) 48
  | _ => []

/-- Integer or floating path of a product's result. -/
def mxOut (fa fw : Nat) : Nat := if mxInteger fa fw then 9 else 0

/-- Products' own conditions, by their offsets in the op. -/
def State.mxBad (s : State) (p : Plan) (o : Op) : List Nat :=
  let h := fun j => s.descrFor p (natAt o.h j)
  let i := o.imm
  let grouped := o.opc == 0x61
  let gt := leAt i 4 2
  let trans := o.mxTrans
  let sp := o.mxSp28
  let idx := if sp then s.descrFor p (leAt i 2 2) else none
  let imms :=
    need (decide (leAt i 0 2 < 8) && !(sp && trans)) 48
    ++ need (if sp then idx.any fun d => d.fmt == 10 && d.space != spRemote else leAt i 2 2 == 0xFFFF) 50
    ++ need (if grouped then gt == 0 || (s.fwdPlanOf gt).isSome else gt == 0) 52
    ++ need (gt != 0 || leAt i 6 2 == 0) 54
    ++ need (if grouped && gt == 0 then decide (1 ≤ leAt i 8 4) && decide (leAt i 8 4 ≤ 16384) else leAt i 8 4 == 0) 56
    ++ need (if gt = 0 then leAt i 12 4 == 0 else decide (1 ≤ leAt i 12 4) && decide (leAt i 12 4 ≤ 65536)) 60
  let lv := (List.range 6).flatMap fun l =>
    let w := (o.levels.getD l ⟨1, []⟩).dsel
    need (([0, 1, 2].all fun j => decide (2 ≤ natAt w j)) && natAt w 3 == 7) (24 + 4 * l)
  let act := match h 1, s.fwdPlanOf gt with
    | some d, _ => some d.fmt
    | none, some (_, f) => some f.tfmt
    | _, _ => none
  let third := if grouped && gt == 0 then
      (match h 3 with
       | some d => need (d.fmt == 10 && decide (32 * leAt i 8 4 ≤ d.size 0)) 10
       | none => [])
    else need (natAt o.h 3 == 0xFFFF) 10
  let first := if grouped && gt != 0 then need (natAt o.h 1 == 0xFFFF) 6 else []
  let shapes := match h 0, h 2 with
    | some c, some w =>
      let k := if sp then 4 * w.size 0 else if trans then w.size 1 else w.size 0
      let n := if trans then w.size 0 else w.size 1
      need (act.all fun a => pairsWith a w.fmt && c.fmt == mxOut a w.fmt) 4
      ++ need (!(w.scaled && (trans || (w.dims.getD 1 (0, 0)).2 % 32 != 0)) && (!sp || [1, 2, 3, 4, 10].contains w.fmt)) 8
      ++ need (!(c.meets w) && !(idx.any c.meets)) 8
      ++ (match h 1 with
          | some a => need (!a.scaled && !(c.meets a)) 6
              ++ (if grouped then [] else
                  need (a.size 0 == k && c.size 1 == a.size 1 && c.size 0 == n && decide (k ≤ 65536) && decide (n ≤ 65536)
                    && decide (a.size 1 ≤ 2 ^ 20) && (!sp || k % 8 == 0)) 8)
          | none => [])
      ++ (match s.fwdPlanOf gt with
          | some (_, f) => if grouped then need (w.size 0 == f.hid) 8 else []
          | none => [])
      ++ (match idx with
          | some d => need (d.size 1 == w.size 1 && 2 * d.size 0 == w.size 0) 50
          | none => [])
    | _, _ => []
  imms ++ lv ++ third ++ first ++ shapes

/-- Formats that SORT, TOPK and FILTER take as keys (06 R140, log 96). -/
def keyFmt (f : Nat) : Bool := [0, 1, 2, 3, 4, 9, 10].contains f

/-- Formats and amounts of a sieve op's operands, by their offsets in the op (06 R140, R165; log 96). -/
def sieveBad (o : Op) (h : Nat → Option Descr) : List Nat :=
  let is := fun (j : Nat) (ok : Descr → Bool) => need ((h j).all ok) (4 + 2 * j)
  let same := match h 0, h 1 with
    | some c, some a => need (c.fmt == a.fmt) 6
    | _, _ => []
  let index := is 2 fun d => d.fmt == 9
  let reads := fun j => is j fun d => decide (o.freeCount j d ≤ 2 ^ 24)
  reads 1 ++ (if o.opc = 0x23 then reads 2 else [])
  ++ (match o.opc with
    | 0x20 => is 1 (fun d => keyFmt d.fmt) ++ same ++ (if bitOf (byteAt o.imm 0) 1 then is 2 fun d => fmtBits d.fmt == 32 else [])
    | 0x21 => is 1 (fun d => keyFmt d.fmt) ++ same ++ index
    | 0x22 => is 1 (fun d => keyFmt d.fmt) ++ same ++ index
    | 0x23 => same ++ index
    | 0x24 => is 0 (fun d => d.fmt == 9) ++ is 1 fun d => d.fmt == 9 || d.fmt == 10
    | 0x25 => is 0 (fun d => d.fmt == 9) ++ is 1 fun d => d.fmt == 9 || d.fmt == 10
    | 0x26 => is 0 fun d => fmtBits d.fmt == 8
    | 0x27 => is 1 fun d => fmtBits d.fmt == 8
    | 0x28 => is 1 (fun d => [0, 1, 2, 3, 4, 10].contains d.fmt) ++ same ++ is 2 fun d => d.fmt == 10
    | _ => [])

/-- Formats and shapes that an op's handles must have, by their offsets in the op. -/
def State.handlesBad (s : State) (p : Plan) (o : Op) : List Nat :=
  let h := fun j => s.descrFor p (natAt o.h j)
  match o.opc with
  | 0x10 =>
    let fop := byteAt o.imm 0 % 16
    let ins := [1, 2, 3].filterMap fun j => (h j).map fun d => (j, d)
    let cfmt := (ins.head?).elim 0 fun e => e.2.fmt
    if 9 < fop ∨ fop = fopLse then [] else (ins.flatMap fun (j, d) => need ((contribFmts fop).contains d.fmt && d.fmt == cfmt) (4 + 2 * j))
    ++ (match h 0 with
        | some d => need ((resultFmts fop cfmt false).contains d.fmt) 4
        | none => [])
  | 0x11 => (match h 0 with
      | some d => need (d.fmt == 10) 4
      | none => []) ++ (match h 1 with
      | some d => need (decide (d.fmt ≤ 4)) 6
      | none => [])
  | 0x41 => (match h 0 with
      | some d => need (!(fmtInternal d.fmt || d.fmt == 8)) 4
      | none => []) ++ (match h 1 with
      | some d => need (!fmtInternal d.fmt) 6
      | none => [])
  | 0x80 => match h 0, h 1 with
      | some d, some e => need (fmtBits d.fmt == fmtBits e.fmt) 6
          ++ need (d.space != spRemote || byteAt o.imm 0 == 7 || decide (byteAt o.imm 0 ≤ 5)) 48
      | _, _ => []
  | 0x60 => s.mxBad p o
  | 0x61 => s.mxBad p o
  | 0x40 => ((List.range 4).flatMap fun j => match h j with
      | some d => need (!(d.space == spRemote || d.scaled || fmtBlock d.fmt || d.fmt == 8 || fmtInternal d.fmt)) (4 + 2 * j)
      | none => [])
  | n => if 0x20 ≤ n ∧ n ≤ 0x28 then sieveBad o h else []

/-- The level words of an op (08 R195). -/
def State.levelsBad (s : State) (p : Plan) (o : Op) : List Nat :=
  let nd := fun j => (s.descrFor p (natAt o.h j)).map fun d => d.dims.length
  (List.range 6).flatMap fun l =>
    let w := o.levels.getD l ⟨1, []⟩
    let idle := w.trip == 1 && w.dsel == [7, 7, 7, 7]
    need ((List.range 4).all fun j =>
      let k := natAt w.dsel j
      k == 7 || (k != 6 && ((o.levels.take l).all fun u => natAt u.dsel j != k) && (nd j).all fun n => decide (k < n))) (24 + 4 * l)
    ++ need (idle || decide (5 ≤ o.opc)) (24 + 4 * l)

/-- The signal entries of an op; `w` is the raw word. -/
def signalBad (p : Plan) (o : Op) (at' w : Nat) : List Nat :=
  let g := signalOf w
  need (decide (w % 4 < 2) && decide (w < 2 ^ 14)
    && (w % 4 == 0 || (g.slvl != 6 && (p.queues.any fun q => q.qid == g.queue) && !(o.opc == 0x40 && g.slvl == 0)))) at'

/-- The fields of one op at an offset. -/
def State.opBad (s : State) (p : Plan) (cls at' : Nat) (x : List Byte) : List Nat :=
  let o := opOf x
  let remoteOk := fun j => match s.descrFor p (natAt o.h j) with
    | some d => d.space != spRemote || (o.opc == 0x80 && j == 0)
    | none => true
  (need (opcOk cls o.opc) 0
  ++ need (decide (byteAt x 1 < 32)) 1
  ++ need (decide (byteAt x 2 < 8) && o.wlvl != 6 && !(o.opc == 0x40 && o.wlvl == 0)) 2
  ++ need (byteAt x 3 == 0) 3
  ++ ((List.range 4).flatMap fun j => need (remoteOk j && !(o.required.contains j && natAt o.h j == 0xFFFF)) (4 + 2 * j))
  ++ signalBad p o 16 (leAt x 16 4) ++ signalBad p o 20 (leAt x 20 4)
  ++ s.levelsBad p o ++ immBad o ++ s.handlesBad p o).map (at' + ·)

/-- A QUEUE section (08 R188). -/
def State.queueBad (s : State) (p : Plan) (b : List Byte) (x : Sect) (earlier : List Nat) : List Nat :=
  let y := x.body b
  let resH := p.coll.any fun c => c.resH != 0xFFFF
  need (decide (byteAt y 0 < 16) && !(earlier.contains (byteAt y 0))) x.off
  ++ need (decide (byteAt y 1 < 5)) (x.off + 1)
  ++ need (decide (byteAt y 2 < 64) && (!(bitOf (byteAt y 2) 5) || resH)) (x.off + 2)
  ++ need (byteAt y 3 == 0) (x.off + 3)
  ++ need (zeroAt y 20 32) (x.off + 20)
  ++ (List.range x.count).flatMap fun i => s.opBad p (byteAt y 1) (x.off + 32 + 64 * i) (slice y (32 + 64 * i) 64)

/-! ### Kernels (09 R212, R214, R216) -/

/-- Formats of CVT. -/
def cvtFmt (f : Nat) : Bool := decide (f ≤ 4) || f == 9 || f == 10 || f == 11

/-- Slot A of a bundle holds no reserved code and no unused field. -/
def slotAOk (w : Word) : Bool :=
  let op := fld w 0 8
  let ctl := fld w 32 16
  let known := decide (op ≤ 0x14) || (decide (0x18 ≤ op) && decide (op ≤ 0x1B))
  let useB := op != 0 && !(op == 0x07 || op == 0x12 || op == 0x13 || op == 0x14 || decide (0x18 ≤ op))
  let useC := op == 0x04 || op == 0x09 || (op == 0x14 && ctl % 4 == 2)
  let ctlOk := if op = 0x14 then convctlOk ctl else if op = 0x08 then decide (ctl ≤ 5)
    else if op = 0x13 then [1, 2, 4, 8, 16, 32, 64].contains ctl else ctl == 0
  let fmts := if op = 0x14 then cvtFmt (fld w 48 5) && cvtFmt (fld w 53 5) else fld w 48 10 == 0
  known && ctlOk && fmts && fld w 58 6 == 0 && (op != 0 || fld w 8 12 == 0) && (useB || fld w 20 6 == 0) && (useC || fld w 26 6 == 0)

/-- Slot M of a bundle holds no reserved code and no unused field. -/
def slotMOk (w : Word) : Bool :=
  let op := fld w 0 8
  let stream := op == 1 || op == 2 || op == 3 || op == 5
  decide (op ≤ 5) && (op != 0 || fld w 8 6 == 0) && (if stream then decide (fld w 14 4 < 12) else fld w 14 4 == 0)
  && (op == 3 || fld w 18 11 == 0) && fld w 29 3 == 0 && (op == 4 || fld w 32 32 == 0)

/-- Streams that a kernel's micro-ops name, and whether they write them. -/
def Kernel.uses (k : Kernel) : List (Nat × Nat × Bool) :=
  ((k.bundles.zipIdx).filterMap fun (w, i) =>
    let op := fld w.2 0 8
    if op = 1 ∨ op = 2 ∨ op = 3 ∨ op = 5 then some (i, fld w.2 14 4, op == 2) else none)

/-- A KERNEL section. -/
def State.kernelBad (s : State) (p : Plan) (b : List Byte) (x : Sect) : List Nat :=
  let y := x.body b
  let k := kernelOf x.count y
  let used := fun j => bitOf (byteAt k.follow j) 3
  let out := fun j => bitOf (byteAt k.follow j) 2
  let there := fun j => (s.descrFor p (natAt k.extra j)).isSome
  need (decide (k.entry < 1024)) x.off
  ++ need (leAt y 2 2 == x.count) (x.off + 2)
  ++ need (decide (byteAt y 4 < 2)) (x.off + 4)
  ++ need (zeroAt y 5 8) (x.off + 5)
  ++ ((List.range 8).flatMap fun j =>
    let h := natAt k.extra j
    let fine := match s.descrFor p h with
      | some d => !(d.space == spRemote || d.scaled || fmtBlock d.fmt || d.fmt == 8 || fmtInternal d.fmt)
      | none => true
    need (decide (byteAt k.follow j < 16)) (x.off + 8 + j) ++ need (if used j then h != 0xFFFF && fine else h == 0xFFFF) (x.off + 16 + 2 * j))
  ++ ((k.bundles.zipIdx).flatMap fun (w, i) =>
    need (slotAOk w.1) (x.off + 64 + 16 * i) ++ need (slotMOk w.2) (x.off + 72 + 16 * i))
  ++ (k.uses.flatMap fun (i, st, w) =>
    need (if st < 4 then !w || st == 0 else used (st - 4) && there (st - 4) && (!w || out (st - 4))) (x.off + 72 + 16 * i))

/-- Streams S0 to S3 of a kernel that are missing in its op: no handle, or none that names a descriptor; by op offset. -/
def State.streamsBad (s : State) (p : Plan) (at' : Nat) (o : Op) : List Nat :=
  if o.opc ≠ 0x40 then []
  else
    match (p.kernels.find? fun k => k.entry == leAt o.imm 2 2).orElse fun _ => s.kernel (leAt o.imm 2 2) with
    | none => []
    | some k => k.uses.flatMap fun (_, st, _) =>
        need (decide (4 ≤ st) || (s.descrFor p (natAt o.h st)).isSome) (at' + 4 + 2 * st)

/-! ### Overlaps and tokens (08 R203) -/

/-- An op with its place: offset, queue, index in the queue. -/
structure OpAt where
  at'   : Nat
  qid   : Nat
  ix    : Nat
  op    : Op
  deriving DecidableEq, Repr

/-- The ops of a plan binary. -/
def opsAt (b : List Byte) : List OpAt :=
  ((sections b).filter fun x => x.typ == secQueue).flatMap fun x =>
    let q := queueOf x.count (x.body b)
    (q.ops.zipIdx).map fun (o, i) => { at' := x.off + 32 + 64 * i, qid := q.qid, ix := i, op := o }

/-- The element offsets that an op's own addresses span in the descriptor of handle j (08 R203): walk indices of a table or of
one element where the op names them so, else its levels' reach; `all` tells the dimensions that the op takes whole. -/
def Op.reachSpan (o : Op) (j : Nat) (d : Descr) : Int × Int :=
  let whole : Nat → Bool := fun k => if o.opc = 0x60 ∨ o.opc = 0x61 then decide (k < 2) else decide (0x20 ≤ o.opc) && decide (o.opc ≤ 0x29)
  let dims := o.reachDims j whole d
  if o.opc = 0x03 then walkSpan d.dims (leAt o.imm 8 8) (leAt o.imm 8 8)
  else if o.opc = 0x61 ∧ j = 3 then walkSpan d.dims 0 (32 * leAt o.imm 8 4 - 1)
  else if o.opc = 0x11 ∧ j = 1 then
    walkSpan d.dims 0 (min (d.count - 1) (walkOf d.dims (dims.map fun x => x.1 - 1) / 32 * 32 + 31))
  else ({ d with dims := dims } : Descr).span

/-- A touched descriptor with the offsets touched in it, and those of its scales (08 R193). -/
def State.withScales (s : State) (p : Plan) (d : Descr) (sp : Int × Int) : List Extent :=
  d.bytesAt sp :: (if d.scaled then
    (s.descrFor p d.scales).toList.map fun e => e.bytesAt (walkSpan e.dims (sp.1.toNat / 32) (sp.2.toNat / 32)) else [])

/-- The bytes that an op touches here, with the offset of the field that names each and whether it writes there. -/
def State.opTouches (s : State) (p : Plan) (x : OpAt) : List (Extent × Nat × Bool) :=
  let o := x.op
  let at' := fun (d : Descr) (sp : Int × Int) (off : Nat) (w : Bool) => (s.withScales p d sp).map fun e => (e, off, w)
  let own := (List.range 4).flatMap fun j => match s.descrFor p (natAt o.h j) with
    | some d => at' d (o.reachSpan j d) (x.at' + 4 + 2 * j) (j == 0 || (j == 2 && o.writesH2))
    | none => []
  let kern := if o.opc = 0x40 then
      match (p.kernels.find? fun k => k.entry == leAt o.imm 2 2).orElse fun _ => s.kernel (leAt o.imm 2 2) with
      | none => []
      | some k => (List.range 8).flatMap fun j =>
          let f := byteAt k.follow j
          if bitOf f 3 then (s.descrFor p (natAt k.extra j)).elim [] fun d => at' d (o.reachSpan (f % 4) d) (x.at' + 50) (bitOf f 2)
          else []
    else []
  let spidx := if (o.opc = 0x60 ∨ o.opc = 0x61) ∧ o.mxSp28 then
      (s.descrFor p (leAt o.imm 2 2)).elim [] fun d => at' d (o.reachSpan 2 d) (x.at' + 50) false
    else []
  (own ++ kern ++ spidx).filter fun e => e.1.space != spRemote

/-- Edges of the token graph (08 R203): a signal to every op of its target queue that names its counter, in its own queue to the
later ones (log 35). -/
def tokenEdge (x y : OpAt) : Bool :=
  (x.op.signals.any fun g => g.queue == y.qid && y.op.wait.getLsbD g.ctr && (x.qid != y.qid || decide (x.ix < y.ix)))

/-- Ops that can be reached from some, n rounds at most. -/
def reach (ops : List OpAt) : Nat → List OpAt → List OpAt
  | 0, l => l
  | n + 1, l => reach ops n (ops.filter fun y => l.contains y || l.any fun x => tokenEdge x y)

/-- The op offsets that break R203. -/
def State.tokensBad (s : State) (b : List Byte) (p : Plan) : List Nat :=
  let ops := opsAt b
  let touch := ops.map fun x => (x, s.opTouches p x)
  let n := ops.length
  let pairs := (touch.zipIdx).flatMap fun (x, i) => (touch.drop (i + 1)).flatMap fun y =>
    if x.1.qid = y.1.qid then []
    else
      let hits := x.2.flatMap fun d => (y.2.filter fun e => (d.2.2 || e.2.2) && d.1.meets e.1).map fun e => max d.2.1 e.2.1
      if hits.isEmpty || (reach ops n [x.1]).contains y.1 || (reach ops n [y.1]).contains x.1 then [] else hits
  let lands := touch.flatMap fun (x, l) => (p.descs.filter fun e => e.2.land).flatMap fun e =>
    need (!(l.any fun d => d.1.meets (e.2.bytesAt e.2.span)) || (e.2.landQ == x.qid && x.op.wait.getLsbD e.2.landC)) (x.at' + 12)
  pairs ++ lands

/-! ### MALFORMED as a whole (18 R385) -/

/-- Every field of a plan binary that an encoding or limit rule names. -/
def State.malformed (s : State) (b : List Byte) (pbytes : Nat) : List Nat :=
  if b.length < 64 then [20]
  else
    let head := headBad b pbytes
    if head.contains 20 ∨ head.contains 24 then head
    else
      let table := tableBad b
      if !table.isEmpty then head ++ table
      else
        let p := planOfBinary b
        let m := p.members.length
        let sec := fun (t : Nat) (f : Sect → List Byte → List Nat) => match sectOf b t with
          | some x => f x (x.body b)
          | none => []
        let collAt := (sectOf b secColl).elim 0 (·.off)
        let chunksOff := match p.coll, sectOf b secOwners with
          | some _, some x => need (x.count == p.nChunks p.lseD) (max (x.at' + 4) (collAt + 8))
          | _, _ => []
        head
        ++ need (p.sig == signatureOf b) 8
        ++ sec secColl (fun x y => collBad x.off y m p.seqn.isSome)
        ++ sec secMembers (fun x y => membersBad x.off y p.members)
        ++ (match p.coll with
            | some c => need (!c.isLse || decide (p.lseD ≤ 448)) (collAt + 4)
              ++ need (!c.isLse || decide (ceilDiv c.count (lseRows p.lseD) ≤ 4096)) (collAt + 8)
              ++ chunksOff ++ sec secOwners (fun x y => ownersBad x.off y p c ++
                (if c.kind = kRug then s.ownerServes p x.off else []))
            | none => [])
        ++ sec secDispatch (fun x y => s.dispatchBad x.off y p)
        ++ sec secSparse (fun x y => sparseBad x.off y)
        ++ sec secSequence (fun x y => seqBad x.off collAt y m (p.coll.elim 0 (·.count)))
        ++ sec secDescr (fun x _ => s.descrsBad p x b)
        ++ ((((sections b).filter fun x => x.typ == secQueue).zipIdx).flatMap fun (x, i) =>
            s.queueBad p b x ((p.queues.take i).map (·.qid)))
        ++ ((sections b).filter fun x => x.typ == secKernel).flatMap (s.kernelBad p b)
        ++ (opsAt b).flatMap (fun x => s.streamsBad p x.at' x.op)
        ++ s.tokensBad b p

/-! ### NO_UNIT, CONFIG, BUSY, CAPACITY (18 R385) -/

/-- The plan needs the matrix engine where there is none (10 R246). -/
def State.unitMissing (s : State) (p : Plan) : Bool :=
  !s.hasMatrix && ((p.queues.any fun q => q.cls == 3) || p.dispatch.any fun d => d.flags.getLsbD 1)

/-- The installed plans but the one that is replaced. -/
def State.otherPlans (s : State) (p : Plan) : List Plan := (s.pl.plans.map (·.2)).filter fun q => q.num != p.num

/-- The owner table against the membership and the defined shards (05 R111). -/
def State.ownersConfig (s : State) (p : Plan) (at' : Nat) : List Nat :=
  (p.owners.zipIdx).flatMap fun (o, i) =>
    let e := at' + 16 * i
    let node := ((s.member o.a).filter (·.isMod)).orElse fun _ => (s.member o.b).filter (·.isMod)
    let pair := match node with
      | none => [e]
      | some m =>
        let want := fun b => ((s.moduleOf m.twinA b).map (·.fa)).getD 0
        if o.a ≠ want false then [e] else need (o.b == want true) (e + 2)
    let mine := if s.owns o then
        match s.led.shards.find? fun d => d.num == o.shard with
        | none => [e + 4]
        | some d =>
          let n := p.chunkElems 0 i
          need (decide (o.offset + n ≤ d.count) && (n % 1024 == 0 || o.offset + n == d.count)) (e + 8)
      else []
    pair ++ mine

/-- The clip group of a RUG plan (05 R111). -/
def State.clipConfig (s : State) (p : Plan) (at' : Nat) : List Nat :=
  match p.coll with
  | none => []
  | some c =>
    if c.kind ≠ kRug ∨ c.normPlan = 0 then []
    else (s.otherPlans p).flatMap fun q => match q.coll with
      | some k => if k.kind = kRug ∧ k.normPlan = c.normPlan then
          need (k.skipNf == c.skipNf) (at' + 7) ++ need (k.clip == c.clip) (at' + 20) else []
      | none => []

/-- A context that installed plans use otherwise (07 R168). -/
def State.contextConfig (s : State) (p : Plan) (at' membersAt : Nat) : List Nat :=
  match p.seqn with
  | none => []
  | some q => (s.otherPlans p).flatMap fun o => match o.seqn with
    | some r => if r.ctx ≠ q.ctx then [] else
        need (o.members == p.members) membersAt ++ need (r.view == q.view) (at' + 2) ++ need (r.order == q.order) (at' + 3)
        ++ need (r.seqlen == q.seqlen) (at' + 4) ++ need (r.tokb == q.tokb) (at' + 8) ++ need (r.btok == q.btok) (at' + 12)
        ++ need (r.layers == q.layers) (at' + 14)
    | none => []

/-- Handles that other installed plans hold with other contents, and kernel numbers that other plans or an earlier section of
this one hold so (08 R192, 09 R215). -/
def State.sharedConfig (s : State) (b : List Byte) (p : Plan) : List Nat :=
  let others := s.otherPlans p
  let hs := match sectOf b secDescr with
    | none => []
    | some x => (p.descs.zipIdx).flatMap fun (e, i) =>
        need ((others.flatMap (·.descs)).all fun f => f.1 != e.1 || f.2.raw == e.2.raw) (x.off + 2 * i)
  let ks := ((sections b).filter fun x => x.typ == secKernel).zip p.kernels
  let own := (ks.zipIdx).flatMap fun ((x, k), i) =>
    let before := ks.take i
    need ((others.flatMap (·.kernels) ++ before.map (·.2)).all fun f => f.entry != k.entry || f.raw == k.raw) x.off
  hs ++ own

/-- The fields that contradict the module's configuration or state; 0 where no field is named. -/
def State.planConfig (s : State) (b : List Byte) (p : Plan) : List Nat :=
  let off := fun t => (sectOf b t).elim 0 (·.off)
  if s.unplaced || !s.mem.layoutOk then [0]
  else
    ((p.members.zipIdx).flatMap fun (a, i) => need ((s.member a).any fun m => !m.isMod) (off secMembers + 2 * i))
    ++ (if p.coll.any (fun c => c.kind == kRug) then s.ownersConfig p (off secOwners) else [])
    ++ s.clipConfig p (off secColl) ++ s.contextConfig p (off secSequence) (off secMembers) ++ s.sharedConfig b p

/-- Bytes of the KV region that a STORE plan reserves here (07 R182): on the context's fixed plane, else on the home's plane as it
stands now (log 36). -/
def State.kvNeed (s : State) (p : Plan) : Nat :=
  match p.seqn with
  | none => 0
  | some q =>
    let here := (p.members.filter s.isLeafOf).length
    let plane := (s.seqCtx q.ctx).plane.getD (seqPlaneB (s.pmaskFor p.members) q.ctx)
    if q.role ≠ 0 ∨ plane ≠ s.planeB then 0
    else q.layers * here * q.bpr p.members.length * roundUp q.blockBytes 4096

/-- Working memory that plans may reserve, in KiB (22 R441). -/
def workFree : Nat := (256 - 92) * 1024

/-- Bytes that a plan would be short of: KV, working memory, SPILL and kernel memory (00 R7). Records that live in the PLAN
region are never short of it (DESIGN CHOICE, log 95). -/
def State.shortage (s : State) (p : Plan) : Nat :=
  let others := s.otherPlans p
  let beyond := fun (want have' : Nat) => want - have'
  let ctx := p.seqn.elim 0 (·.ctx)
  let kvOthers := ((s.pl.ctxs.filter fun e => e.1 != ctx).map (·.2.reserved)).sum
  let kvMine := max (s.seqCtx ctx).reserved (s.kvNeed p)
  let spill := ((others.map (·.spill)).sum + p.spill)
  let work := 1024 * ((others.map (·.workKib)).sum + p.workKib)
  let entries := ((others ++ [p]).flatMap (·.kernels)).map fun k => (k.entry, k.bundles.length)
  let bundles := ((entries.eraseDups).map (·.2)).sum
  beyond (kvOthers + kvMine) (s.regionSize .kv * granuleBytes) + beyond spill (s.regionSize .spill * granuleBytes)
  + beyond work (workFree * 1024) + beyond (16 * bundles) (16 * 4096)

end Sys2Proof.Machine
end

