-- ==== Sys2Proof/Machine/Rings.lean ====
section
/-!
DEFINITION. Machine/Rings.lean: the steward's windows, rings, doorbells and interrupts (18 R376 to R385), and the log ring (19
R392 to R394).
-/
namespace Sys2Proof.Machine

open Sys2Proof

/-! ### Windows (18 R379) -/

/-- First address, end and enable of a window. -/
def State.window (s : State) (i : Nat) : Nat × Nat × Bool :=
  let w := s.rd (.uciWindow i)
  (fld w 0 36 * 4096, (fld w 0 36 + fld w 36 24) * 4096, w.getLsbD 60)

/-- Bytes [a, e) lie in enabled windows; each round passes one window. -/
def State.covered (s : State) : Nat → Nat → Nat → Bool
  | 0, a, e => decide (e ≤ a)
  | n + 1, a, e =>
    if e ≤ a then true
    else
      match (List.range 8).find? fun i => (s.window i).2.2 && decide ((s.window i).1 ≤ a) && decide (a < (s.window i).2.1) with
      | some i => State.covered s n (s.window i).2.1 e
      | none => false

/-- A buffer lies wholly inside enabled windows. -/
def State.inWindows (s : State) (a n : Nat) : Bool := s.covered 8 a (a + n)

/-- The attachment carries transactions (18 R375). -/
def State.attached (s : State) : Bool := s.powered && (s.uci.m0 || s.uci.m1)

/-- A write of the module into steward memory, inside the windows only. -/
def State.busWrite (s : State) (a : Nat) (l : List Byte) : State := if s.inWindows a l.length then s.emit (.wr a l) else s

/-! ### Rings (18 R380 to R382) -/

def State.ring (s : State) (n : Nat) : Ring := Assoc.get Ring.reset n s.uci.rings

def State.setRing (s : State) (n : Nat) (r : Ring) : State := { s with uci := { s.uci with rings := Assoc.set n r s.uci.rings } }

def Ring.base (r : Ring) : Nat := fld r.cfg 0 36 * 4096
def Ring.size (r : Ring) : Nat := 2 ^ fld r.cfg 36 4
def Ring.en (r : Ring) : Bool := r.cfg.getLsbD 40
def Ring.cq (r : Ring) : Nat := 16 + fld r.cfg 41 4
def Ring.vec (r : Ring) : Nat := fld r.cfg 45 6
def Ring.ien (r : Ring) : Bool := r.cfg.getLsbD 51

/-- The ring runs. -/
def Ring.runs (r : Ring) : Bool := r.en

/-- Bits of UCI_RING_CFG that are fields. -/
def ringBits : Word := 0x000FFFFFFFFFFFFF#64

/-- An index the ring does not have stops it (18 R381). -/
def State.ringError (s : State) (n : Nat) : State :=
  let r := s.ring n
  (s.setRing n { r with error := true, cfg := r.cfg &&& ~~~(1#64 <<< 40) }).raise evUciRingError 0 n

/-! ### Interrupts (18 R383) -/

/-- Sends the message of a vector, or sets PENDING while it is masked. -/
def State.interrupt (s : State) (vec : Nat) : State :=
  let w := s.rd (.uciMsi vec)
  if w.getLsbD 0 then s.wr (.uciMsi vec) (w ||| 2#64)
  else
    let a := fld w 2 46 * 4
    let t := s.wr (.uciMsi vec) (w &&& ~~~2#64)
    if s.inWindows a 4 then t.emit (.msi a (BitVec.ofNat 16 (fld w 48 16))) else t

/-- A write of UCI_MSI: PENDING stays, and a pending message goes out once MASK is clear. -/
def State.msiWrite (s : State) (vec : Nat) (v : Word) : State :=
  let pend := (s.rd (.uciMsi vec)).getLsbD 1
  let t := s.wr (.uciMsi vec) ((v &&& ~~~2#64) ||| (if pend then 2#64 else 0))
  if pend && !v.getLsbD 0 then t.interrupt vec else t

/-! ### Completions (18 R382, R384) -/

/-- A completion entry is ready to be written: SQ_HEAD and PHASE are set as it is. -/
def completionBytes (e : List Byte) (sqHead : Nat) (phase : Bool) : List Byte :=
  e.take 4 ++ leBytes 2 sqHead ++ slice e 6 1 ++ leBytes 1 (b2n phase) ++ e.drop 8

/-- Writes the first completion that a CQ holds, where the ring runs and has a free entry; answers whether it did. -/
def State.writeHeld (s : State) (cq : Nat) : State × Bool :=
  let r := s.ring cq
  match r.heldBack with
  | [] => (s, false)
  | e :: rest =>
    let a := r.base + 64 * r.tail
    if !r.runs || decide (r.size ≤ r.used) || !s.inWindows a 64 then (s, false)
    else
      let head := (s.ring (byteAt e 6 % 16)).head
      let wraps := r.tail + 1 == r.size
      let r' := { r with heldBack := rest, used := r.used + 1, reserved := r.reserved - 1
                         tail := if wraps then 0 else r.tail + 1, phase := if wraps then !r.phase else r.phase }
      ((s.setRing cq r').emit (.wr a (completionBytes e head r.phase)), true)

/-- Writes the completions that a CQ holds. -/
def State.flushAux (cq : Nat) : Nat → State × Bool → State × Bool
  | 0, r => r
  | n + 1, (s, any) =>
    let (t, did) := s.writeHeld cq
    if did then State.flushAux cq n (t, true) else (s, any)

/-- Writes what a CQ holds and sends one message where it may interrupt. -/
def State.flushCq (s : State) (cq : Nat) : State :=
  let (t, any) := State.flushAux cq (s.ring cq).heldBack.length (s, false)
  if any && (t.ring cq).ien then t.interrupt (t.ring cq).vec else t

/-- Completion statuses (18 R385). -/
def csOk : Nat := 0x0000
def csMalformed : Nat := 0x0001
def csConfig : Nat := 0x0002
def csCapacity : Nat := 0x0003
def csNoUnit : Nat := 0x0004
def csBusy : Nat := 0x0005
def csBadAddr : Nat := 0x0006
def csBadOpcode : Nat := 0x0007
def csAuth : Nat := 0x0008
def csLifecycle : Nat := 0x0009
def csAborted : Nat := 0x000A
def csNotFound : Nat := 0x000B

/-! ### The log ring (19 R392 to R394) -/

/-- A log entry; the core that writes it is the firmware's choice (log 5). -/
def logEntry (s : State) (core tpid level ctx : Nat) (args : List Nat) : List Byte :=
  leBytes 8 s.fw.logSeq ++ leBytes 8 s.beat ++ leBytes 2 tpid ++ leBytes 1 (core % 8) ++ leBytes 1 level ++ leBytes 4 ctx
  ++ leBytes 8 s.led.step ++ (padTo 32 (args.flatMap (leBytes 8))).take 32

/-- A trace point fires: with its bit set and the ring enabled, one entry in two writes. -/
def State.trace (s : State) (tpid level ctx : Nat) (args : List Nat) : State :=
  if s.fw.logLog2 = 0 ∨ !bitOf (byteAt s.fw.logMask (tpid / 8)) (tpid % 8) then s
  else
    let (core, t) := s.draw
    let e := logEntry s core tpid level ctx args
    let a := s.fw.logBase + 64 * (s.fw.logSeq % 2 ^ s.fw.logLog2)
    let t := { t with fw := { t.fw with logSeq := t.fw.logSeq + 1 } }
    if s.attached && s.inWindows a 64 then (t.emit (.wr (a + 8) (e.drop 8))).emit (.wr a (e.take 8)) else t.bump .fwLogDrop

def tpFwStart : Nat := 0x000
def tpWdogExpire : Nat := 0x001
def tpUpdateStage : Nat := 0x002
def tpReqStart : Nat := 0x380
def tpReqDone : Nat := 0x381

/-- Completes a request: its entry goes to its CQ. -/
def State.complete (s : State) (rq : Req) (status detail written : Nat) (out : List Byte) : State :=
  match s.uci.started.find? fun e => e.1 == rq with
  | none => s
  | some (_, cq) =>
    let e := leBytes 4 rq.rid.toNat ++ [0, 0] ++ leBytes 1 rq.sq ++ [0] ++ leBytes 2 status ++ [0, 0] ++ leBytes 4 detail
      ++ leBytes 8 written ++ (padTo 40 out).take 40
    let t := { s with uci := { s.uci with started := s.uci.started.eraseP fun e => e.1 == rq } }
    let t := t.trace tpReqDone 0 rq.rid.toNat [status, detail]
    let r := t.ring cq
    (t.setRing cq { r with heldBack := r.heldBack ++ [e] }).flushCq cq

/-- Completes with a status and DETAIL alone. -/
def State.fail (s : State) (rq : Req) (status detail : Nat) : State := s.complete rq status detail 0 []

/-- Completes OK. -/
def State.ok (s : State) (rq : Req) (out : List Byte := []) (written : Nat := 0) : State := s.complete rq csOk 0 written out

/-! ### Doorbells and ring configuration (18 R380 to R382) -/

/-- A write of a submission ring's doorbell; a stopped ring takes none (log 37). -/
def State.sqBell (s : State) (n : Nat) (v : Word) : State :=
  let r := s.ring n
  let ix := fld v 0 12
  if !r.runs then s else if r.size ≤ ix then s.ringError n else s.setRing n { r with tail := ix }

/-- A write of a completion ring's doorbell. -/
def State.cqBell (s : State) (n : Nat) (v : Word) : State :=
  let r := s.ring n
  let ix := fld v 0 12
  if !r.runs then s
  else if r.size ≤ ix then s.ringError n
  else
    let took := (ix + r.size - r.head) % r.size
    if r.used < took then s.ringError n else (s.setRing n { r with head := ix, used := r.used - took }).flushCq n

/-- A write of UCI_RING_CFG. -/
def State.ringWrite (s : State) (n : Nat) (v : Word) : State :=
  let r := s.ring n
  let v := v &&& ringBits
  let v := if n < 16 then v &&& 0x00001FFFFFFFFFFF#64 else v &&& ~~~(0xF#64 <<< 41)
  if !v.getLsbD 40 then s.setRing n { r with cfg := v, error := false }
  else if r.en then s
  else
    let log2 := fld v 36 4
    let base := fld v 0 36 * 4096
    if log2 = 0 ∨ 12 < log2 ∨ !s.inWindows base (64 * 2 ^ log2) then s.raise evUciRingCfgBad 0 n
    else (s.setRing n { r with cfg := v, head := 0, tail := 0, used := 0, phase := decide (16 ≤ n) }).flushCq n

/-- SQ_DOORBELL: a write of UCI_DB entries 0 to 15. -/
def execSqDoorbell (ring : Nat) (value : Word) (s : State) : Host.Outcome State Fault Refusal :=
  .next (if s.attached ∧ ring < 16 then s.sqBell ring value else s)

/-- CQ_DOORBELL: a write of UCI_DB entries 16 to 31. -/
def execCqDoorbell (ring : Nat) (value : Word) (s : State) : Host.Outcome State Fault Refusal :=
  .next (if s.attached ∧ 16 ≤ ring ∧ ring < 32 then s.cqBell ring value else s)

/-- RING_CONFIG_WRITE: a write of UCI_RING_CFG. -/
def execRingConfigWrite (ring : Nat) (value : Word) (s : State) : Host.Outcome State Fault Refusal :=
  .next (if s.attached ∧ ring < 32 then s.ringWrite ring value else s)

/-- MSI_UNMASK: a write of UCI_MSI. -/
def execMsiUnmask (vec : Nat) (value : Word) (s : State) : Host.Outcome State Fault Refusal :=
  .next (if s.attached ∧ vec < 64 then s.msiWrite vec value else s)

/-! ### Fetching an entry (18 R381, R382, R384, R388) -/

/-- The fields of a submission entry. -/
def reqOf (sq : Nat) (e : List Byte) : Req :=
  { sq := sq, opc := BitVec.ofNat 8 (byteAt e 0), flags := BitVec.ofNat 8 (byteAt e 1), rid := BitVec.ofNat 32 (leAt e 4 4),
    param := BitVec.ofNat 64 (leAt e 8 8), pbytes := leAt e 16 4, result := BitVec.ofNat 64 (leAt e 24 8),
    rbytes := leAt e 32 4, args := slice e 36 28 }

/-- ARGS bytes that an opcode uses, as (first, end) pairs of entry bytes (18 R386). -/
def argsUsed (opc : Nat) : List (Nat × Nat) :=
  match opc with
  | 0x01 => [(36, 40)]
  | 0x02 => [(36, 38), (40, 44)]
  | 0x05 => [(36, 38), (40, 56)]
  | 0x06 => [(36, 38), (40, 56)]
  | 0x07 => [(40, 52)]
  | 0x08 => [(40, 48)]
  | 0x09 => [(36, 38)]
  | 0x0A => [(36, 38)]
  | 0x0C => [(40, 56)]
  | 0x0D => [(36, 37), (38, 40)]
  | 0x0E => [(36, 38), (40, 48)]
  | 0x0F => [(36, 39), (40, 48)]
  | 0x10 => [(36, 38), (40, 56)]
  | 0x11 => [(40, 49)]
  | 0x13 => [(36, 37)]
  | 0x14 => [(36, 48)]
  | _ => []

/-- R384: the opcode is known, no FLAGS bit is reserved, reserved and unused bytes are 0; FORCE belongs to PLAN_REMOVE and SEEDS
to STATE_DEFINE. -/
def entryOk (e : List Byte) : Bool :=
  let opc := byteAt e 0
  let fl := byteAt e 1
  decide (1 ≤ opc) && decide (opc ≤ 0x14) && decide (fl < 8) && (fl / 2 % 2 == 0 || opc == 0x02) && (fl / 4 % 2 == 0 || opc == 0x04)
  && zeroAt e 2 4 && zeroAt e 20 24
  && (List.range 28).all fun i => byteAt e (36 + i) == 0 || (argsUsed opc).any fun r => decide (r.1 ≤ 36 + i) && decide (36 + i < r.2)

/-- Requests that a state refuses (20 R415). -/
def lcRefuses (lc opc : Nat) : Bool :=
  if lc = 0 then !([0x13, 0x0B, 0x0D, 0x11].contains opc) else if 4 ≤ lc then !([0x0D, 0x11].contains opc) else false

/-- Result bytes that lie outside the windows make a request fail before anything else (18 R379). -/
def State.buffersOk (s : State) (rq : Req) : Bool :=
  s.inWindows rq.param.toNat rq.pbytes && s.inWindows rq.result.toNat rq.rbytes

/-- The next entry is fetched: the CQ's entry is reserved, HEAD advances, and what no request may pass is refused at once
(18 R385, steps 1 to 3). -/
def execSqEntryFetch (ring : Nat) (entry : List Byte) (s : State) : Host.Outcome State Fault Refusal :=
  .next (
    let r := s.ring ring
    let cq := r.cq
    let c := s.ring cq
    let updating := s.fw.update.any fun u => decide (5 ≤ u.stage)
    if !s.attached ∨ !s.firmware ∨ 16 ≤ ring ∨ entry.length ≠ 64 ∨ !r.runs ∨ r.head = r.tail ∨ updating then s
    else if !c.runs ∨ c.size ≤ c.used + c.reserved then s
    else
      let rq := reqOf ring entry
      let t := s.setRing ring { r with head := if r.head + 1 = r.size then 0 else r.head + 1 }
      let t := t.setRing cq { c with reserved := c.reserved + 1 }
      let t := { t with uci := { t.uci with started := t.uci.started ++ [(rq, cq)] } }
      let t := t.trace tpReqStart 0 rq.rid.toNat [rq.opc.toNat, ring]
      if !entryOk entry then t.fail rq csBadOpcode 0
      else if lcRefuses s.lifeCycle rq.opc.toNat then t.fail rq csLifecycle s.lifeCycle
      else if !s.buffersOk rq then t.fail rq csBadAddr (if s.inWindows rq.param.toNat rq.pbytes then rq.rbytes else rq.pbytes)
      else if 2 ^ 30 < rq.pbytes then t.fail rq csMalformed 16
      else t)

/-! ### Serving a request (18 R385, R388) -/

/-- The request has been acted on and lasts. -/
def State.begun (s : State) (rq : Req) : Bool :=
  (s.led.exports.any fun e => e.rq == rq) || (s.led.imports.any fun e => e.rq == rq)
  || (s.mem.wiping == some (some rq)) || (s.mem.resilver.any fun r => r.rq == some rq) || (s.fw.update.any fun u => u.rq == rq)

/-- Requests that use module memory or wipe it: they wait while a wipe runs (11 R264, log 115). -/
def memoryOps : List Nat := [0x01, 0x04, 0x05, 0x06, 0x0A, 0x12, 0x13]

/-- A request of an opcode may be carried out now: it has started, it is not under way, and its SQ's order lets it. -/
def State.mayServe (s : State) (rq : Req) (opc : Nat) : Bool :=
  let before := (s.uci.started.map (·.1)).takeWhile fun q => q != rq
  let mine := before.filter fun q => q.sq == rq.sq
  s.attached && s.firmware && (s.mem.wiping.isNone || !memoryOps.contains opc) && (s.uci.started.any fun e => e.1 == rq) && rq.opc.toNat == opc && !s.begun rq
  && (if rq.flags.getLsbD 0 then mine.isEmpty else mine.all s.begun)

/-- An inline argument by its offset in the submission entry. -/
def argOf (rq : Req) (off n : Nat) : Nat := leAt rq.args (off - 36) n

/-- Completes with the smallest of some offending offsets. -/
def State.refuseAt (s : State) (rq : Req) (status : Nat) (l : List Nat) : State := s.fail rq status (l.foldl min (l.headD 0))

/-- Bytes needed as DETAIL names them. -/
def gibMissing (n : Nat) : Nat := ceilDiv n (2 ^ 30)

/-- Writes a result buffer and completes OK; a buffer that is too small is refused with the bytes needed. -/
def State.answer (s : State) (rq : Req) (data : List Byte) (out : List Byte) : State :=
  if rq.rbytes < data.length then s.fail rq csBadAddr data.length
  else (if data.isEmpty then s else s.emit (.wr rq.result.toNat data)).ok rq out data.length

end Sys2Proof.Machine
end

