-- ==== Sys2Proof/Machine/Train.lean ====
section
/-!
DEFINITION. Machine/Train.lean: updates, the norm pass, carry, digest exchange and commit notices (05 R110, R114 to R119, R127,
R130, R131).
-/
namespace Sys2Proof.Machine

open Sys2Proof

/-! ### MIRROR (05 R115) -/

/-- A MIRROR message of the twin. -/
def execMirrorReceive (m : MirrorMsg) (s : State) : Host.Outcome State Fault Refusal :=
  let s := s.takeInbox m.src m.hdl
  let n := msgCells m.data
  .next (
    if !s.engines then s
    else
      match s.plan (planOf m.hdl) with
      | none => s.bump .plnUnlaunchedDrop n
      | some p =>
        let v := s.slot m.hdl
        match v.state with
        | .opened =>
          let t := s.mirrorAccept m
          (match p.coll with
            | some k => t.park m.hdl p k m.chunk
            | none => t).settle
        | .free => { s with led := { s.led with held := s.led.held ++ [m] } }
        | .closed =>
          if v.step < m.step then { s with led := { s.led with held := s.led.held ++ [m] } } else s.bump .plnLateDrop n)

/-! ### Updates (05 R114 steps 4 and 5, R116, R119) -/

/-- What the norm pass makes of a plan's gradients: nothing yet, a skip, or the factor k (05 R119). -/
inductive Clip where
  | waits
  | skips
  | scale (k : F32)
  deriving DecidableEq, Repr

/-- The outcome of the norm pass for a plan at a step. -/
def State.clipOf (s : State) (k : Coll) (step : Nat) : Clip :=
  if k.normPlan = 0 then .scale F32.one
  else
    match (s.norm k.normPlan step).bind (·.total) with
    | none => .waits
    | some sum =>
      if k.skipNf && F32.special sum then .skips
      else
        let n := F32.sqrtz sum
        if (F32.val 0#32).below (F32.val k.clip) && (F32.val k.clip).below (F32.val n) then .scale (F32.mul k.clip (F32.rcp n))
        else .scale F32.one

/-- G × k; k = 1.0 leaves G unchanged. -/
def scaleGrad (k : F32) (g : List F32) : List F32 := if k = F32.one then g else g.map (F32.mul k)

/-- A chunk is done at this module: the root sends GATHER with the weights given (05 R114 step 5). -/
def State.rugDone (s : State) (hdl : BitVec 20) (p : Plan) (k : Coll) (c : Nat) (w : List F32) : State :=
  let s := s.modSlot hdl fun v => match v.rugOf c with
    | some r => v.setRug c { r with applied := true }
    | none => v
  let v := s.slot hdl
  match s.chunkPlace p v k c 0 with
  | none => s
  | some pl =>
    if pl.root ≠ s.selfFa then s
    else
      let (data, t) := s.gatherBytes hdl k w
      let h := mkHead p v msgGather c (p.chunkElems 0 c) false (treeByte pl.tree t.planeB)
      (t.sendDown hdl p k h data pl.children).markDown hdl c

/-- An overlap: the chunk is not applied and the instance ends ABORTED (05 R114, R129). -/
def State.overlap (s : State) (hdl : BitVec 20) (shard : Nat) : State :=
  let g := (s.slot hdl).step
  let t := { s with led := { s.led with words := Assoc.set g (Assoc.get 0 g s.led.words ||| 4) s.led.words } }
  (t.raise evStateOverlap hdl.toNat shard).failInstance hdl stAborted []

/-- The chunks of OPEN RUG instances of a step that map to a shard here (05 R116). -/
def State.shardChunks (s : State) (step shard : Nat) : List (BitVec 20 × Plan × Coll × Nat × Owner) :=
  (s.openHdls.filter fun h => (s.slot h).step == step).flatMap fun h =>
    match (s.plan (planOf h)).bind fun p => p.coll.map fun k => (p, k) with
    | some (p, k) => if k.kind = kRug then
        ((s.ownedChunks p).filter fun e => e.2.shard == shard).map fun e => (h, p, k, e.1, e.2) else []
    | none => []

/-- Applies the optimizer to a whole FACTORED or ORTHO shard and finishes every chunk that maps to it (05 R116); chunks of a
skipped group count as gradient +0 (DESIGN CHOICE, log 91). -/
def State.rugWhole (s : State) (hdl : BitVec 20) (d : Shard) (o step : Nat) (lr : F32) : State :=
  let cs := s.shardChunks step d.num
  let ready := cs.all fun (h, _, k, c, _) => ((s.slot h).rugOf c).isSome && s.clipOf k step != .waits
  if !ready then s
  else if s.overlaps d (List.range d.segments) then s.overlap hdl d.num
  else
    let live := cs.filter fun (_, _, k, _, _) => s.clipOf k step != .skips
    let g := live.foldl (fun (g : List F32) e =>
      let (h, _, k, c, ow) := e
      match (s.slot h).rugOf c, s.clipOf k step with
      | some r, .scale x => let xs := scaleGrad x (f32s r.grad); g.take ow.offset ++ xs ++ g.drop (ow.offset + xs.length)
      | _, _ => g) (List.replicate d.count 0#32)
    let t := s.applyWhole d o step lr g
    live.foldl (fun (t : State) e =>
      let (h, p, k, c, ow) := e
      (t.rugDone h p k c (t.readF32 (t.masterAddr t.tgtB d o 0) ow.offset (p.chunkElems 0 c))).after h) t

/-- The ranges of a bank that an update of elements of a shard reads or writes. -/
def State.shardRanges (s : State) (d : Shard) (o first n : Nat) (bankB : Bool) : List (Nat × Nat) :=
  let a := s.bankAddr bankB + o
  if d.whole then [(a, d.bytes)]
  else [(a, granuleBytes), (a + d.offW + 4 * first, 4 * n)]
    ++ (if d.hasM then [(a + d.offM + d.momBytes * first, d.momBytes * n)] else [])
    ++ (if d.opt = 1 then [(a + d.offV + d.momBytes * first, d.momBytes * n)] else [])

/-- The reads and writes of an update meet the memory code (11 R256, R257). -/
def State.fetchShard (s : State) (d : Shard) (o first n : Nat) : State :=
  s.fetchAll (s.shardRanges d o first n s.led.srcB) (s.shardRanges d o first n s.tgtB)

/-- No state granule that an update of elements of a shard reads or writes waits for its heal (11 R259). -/
def State.shardReady (s : State) (d : Shard) (o first n : Nat) : Bool :=
  s.allReady (s.shardRanges d o first n s.led.srcB ++ s.shardRanges d o first n s.tgtB)

/-- The update of one chunk that is ready for it (05 R114); a whole shard takes this chunk's learning rate (DESIGN CHOICE, log 90). -/
def State.rugApply (s : State) (hdl : BitVec 20) (p : Plan) (k : Coll) (c : Nat) (o : Owner) (r : RugChunk) (d : Shard) (off : Nat) :
    State :=
  let step := (s.slot hdl).step
  match s.clipOf k step with
  | .waits => s
  | .skips => (s.rugDone hdl p k c (s.readF32 (s.masterAddr s.led.srcB d off 0) o.offset (p.chunkElems 0 c))).after hdl
  | .scale x =>
    if d.whole then s.rugWhole hdl d off step r.lr
    else
      let g := scaleGrad x (f32s r.grad)
      if s.overlaps d (segmentsOf o.offset g.length) then s.overlap hdl d.num
      else
        let (w, t) := s.applyElems d off o.offset step r.lr g
        (t.rugDone hdl p k c w).after hdl

/-- The array comes to hold errors: each shows at the next read of its block (11 R256, log 10). -/
def State.meetUpsets (s : State) (l : List Upset) : State := l.foldl (fun t u => t.upset u.block u.symbols) s

/-- RUG_UPDATE: the optimizer step of a chunk on this twin. -/
def execRugUpdate (hdl : BitVec 20) (chunk : Nat) (upsets : List Upset) (s : State) : Host.Outcome State Fault Refusal :=
  .next (
    match (s.plan (planOf hdl)).bind fun p => p.coll.map fun k => (p, k) with
    | none => s
    | some (p, k) =>
      let v := s.slot hdl
      match p.owners[chunk]?, v.rugOf chunk with
      | some o, some r =>
        match s.shardAt o.shard with
        | none => s
        | some (d, off) =>
          if !s.engines ∨ v.state ≠ .opened ∨ k.kind ≠ kRug ∨ r.applied ∨ !(s.owns o) ∨ !(s.updatesRun v.step) then s
          else
            let s := (s.meetUpsets upsets).fetchShard d off o.offset (p.chunkElems 0 chunk)
            if s.shardReady d off o.offset (p.chunkElems 0 chunk) then (s.rugApply hdl p k chunk o r d off).settle else s
      | _, _ => s)

/-! ### The norm pass (05 R117, R118) -/

/-- The OPEN instance of a plan at a step. -/
def State.instanceAt (s : State) (plan step : Nat) : Option (BitVec 20) :=
  s.openHdls.find? fun h => planOf h == plan && (s.slot h).step == step

/-- The gradients of the node's chunks of a group, in order of plan number, chunk and element. -/
def State.groupGrads (s : State) (normPlan step : Nat) : List F32 :=
  (s.group normPlan).flatMap fun p =>
    match s.instanceAt p.num step with
    | some h => (s.ownedChunks p).flatMap fun e => match (s.slot h).rugOf e.1 with
      | some r => f32s r.grad
      | none => []
    | none => []

/-- Every plan of the group runs the step here and every chunk the node owns is there (05 R117, log 26). -/
def State.normReady (s : State) (normPlan step : Nat) : Bool :=
  let g := s.group normPlan
  !g.isEmpty && s.updatesRun step && g.all fun p =>
    match s.instanceAt p.num step with
    | some h => (s.ownedChunks p).all fun e => ((s.slot h).rugOf e.1).isSome
    | none => false

/-- Opens the norm instance where this module is a member module of its plane. -/
def State.openNorm (s : State) (normPlan step pmask : Nat) : State :=
  let hdl := mkHdl normPlan (step % 256)
  let v := s.slot hdl
  match s.plan normPlan with
  | none => s
  | some p =>
    let here := chunkPlaneB pmask 0 == s.planeB && (s.memberModules p.members s.planeB).any fun n => n.1 == s.selfFa
    if here ∧ (v.state = .free ∨ (v.state = .closed ∧ v.step ≠ step)) then s.openInstance hdl p step pmask none else s

/-- NORM_PASS_START: parks what is left, sums the squares, opens the norm instance. -/
def execNormPassStart (normPlan : Nat) (step : Nat) (s : State) : Host.Outcome State Fault Refusal :=
  .next (
    if !s.engines ∨ !(s.normReady normPlan step) ∨ ((s.norm normPlan step).bind (·.partialSum)).isSome then s
    else
      let t := (s.group normPlan).foldl (fun (t : State) p =>
        match t.instanceAt p.num step, p.coll with
        | some h, some k => (t.ownedChunks p).foldl (fun (t : State) e => t.park h p k e.1) t
        | _, _ => t) s
      let t := t.modNorm normPlan step fun n => { n with partialSum := some (sumSquares (t.groupGrads normPlan step)) }
      (t.openNorm normPlan step ((t.groupMask normPlan step).getD 0)).settle)

/-- NORM_RESULT: the sum that the twin forwards. -/
def execNormResult (hdl : BitVec 20) (sum : BitVec 32) (step : Nat) (s : State) : Host.Outcome State Fault Refusal :=
  let s := s.takeCtrl s.twin.fa 0x87
  .next (if s.engines && s.isNormPlan (planOf hdl) && !(s.stepDone step) then s.normKnown (planOf hdl) step sum else s)

/-! ### Carry, digest, commit (05 R110, R127, R130, R131) -/

/-- The step that the module may commit next: the one after LED_STEP, or without a generation the one a commit has begun
for. -/
def State.nextStep (s : State) : Option Nat :=
  if s.noGen then
    match (s.openHdls.filter fun h => s.isCommitPlan (planOf h)) with
    | h :: _ => some (s.slot h).step
    | [] => match s.led.twinDig, s.led.notice with
      | some x, _ => some x.1
      | none, some x => some x.1
      | none, none => none
  else some (s.led.step + 1)

/-- The target bank may be written: no export reads it. -/
def State.targetFree (s : State) : Bool := s.led.exports.all fun e => e.bankB != s.tgtB

/-- Everything but the carry is done for step g. -/
def State.carryDue (s : State) (g : Nat) : Bool :=
  !s.led.carried && s.commitBegun g && s.targetFree && { s with led := { s.led with carried := true } }.preReady g

/-- The steps that the module carries for: the one it may commit next, and every one that a commit instance is OPEN for, at which the
module contributes even where its LED_STEP lags (05 R110, R130). -/
def State.carrySteps (s : State) : List Nat :=
  s.nextStep.toList ++ ((s.openHdls.filter fun h => s.isCommitPlan (planOf h)).map fun h => (s.slot h).step)

/-- CARRY: unwritten parts go from the source bank to the target bank, once no granule among them heals (11 R256, R259). -/
def execCarry (s : State) : Host.Outcome State Fault Refusal :=
  .next (
    if !(s.engines && s.carrySteps.any s.carryDue) then s
    else
      let t := s.fetchAll (s.carryRanges s.led.srcB) (s.carryRanges s.tgtB)
      if t.allReady (t.carryRanges t.led.srcB ++ t.carryRanges t.tgtB) then t.carryAll else t)

/-- DIGEST_SEND: the word and D of a step are final, and go to the twin. -/
def execDigestSend (step : Nat) (s : State) : Host.Outcome State Fault Refusal :=
  .next (
    let sent : Bool := match s.led.sentDig with
      | some x => x.1 == step
      | none => false
    if !s.engines ∨ s.stepDone step ∨ sent ∨ !(s.commitBegun step) ∨ !(s.preReady step) then s
    else
      let d := s.digest
      let w := s.ownWord step
      let t := { s with led := { s.led with sentDig := some (step, d, w) } }
      let t := if t.paired then t.sendCtrl t.twin.fa kCtrl tcMgmt 0 (payDigest step d w) else t
      t.exchange step)

/-- A kept notice commits as soon as the module is READY; it is dropped once LED_STEP has passed it. -/
def State.keptNotice (s : State) : State :=
  match s.led.notice with
  | none => s
  | some (g, _) =>
    if s.stepDone g then { s with led := { s.led with notice := none } }
    else if (s.readyWord g).isSome then s.commit g
    else s

/-- The resilver at this module ends: it stays as it is, with RESILVER_FAILED (17 R368). -/
def State.resilverFails (s : State) : State :=
  match s.mem.resilver with
  | none => s
  | some r => { s with mem := { s.mem with resilver := none } }.raise evResilverFailed r.twin.toNat r.copied

/-- The commit notice that ends a resilver at the receiving module: it takes the record, toggles its banks, answers with its own
D and compares (17 R368, log 25). -/
def State.resilverNotice (s : State) (r : Resilver) (step : Nat) (record : List Byte) : State :=
  let d := s.digest
  let t := { s with led := { (s.led.push record).endStep step with step := step, srcB := !s.led.srcB } }
  let t := t.sendCtrl r.twin kCtrl tcMgmt 0 (payDigest step d 0)
  if leAt record 24 8 = d.toNat then
    { t with mem := { t.mem with resilver := none } }.raise evResilverDone r.twin.toNat r.copied
  else t.resilverFails

/-- COMMIT_NOTICE of the twin. -/
def execCommitNotice (step : Nat) (record : List Byte) (s : State) : Host.Outcome State Fault Refusal :=
  let s := s.takeCtrl s.twin.fa 0x86
  .next (
    if !s.engines ∨ s.stepDone step then s
    else if s.mem.resilver.any (fun r => !r.carrying) then
      match s.mem.resilver with
      | some r => s.resilverNotice r step record
      | none => s
    else if (s.readyWord step).isSome then s.commit step
    else { s with led := { s.led with notice := some (step, record) } })

/-- COMMIT_ON_READY. -/
def execCommitOnReady (s : State) : Host.Outcome State Fault Refusal := .next (if s.engines then s.keptNotice else s)

end Sys2Proof.Machine
end

