-- ==== Sys2Proof/Machine/Faults.lean ====
section
/-!
DEFINITION. Machine/Faults.lean: heartbeats, silence, twins, fences, sweeps, admission and link notices (12 R279, R280, R282; 17
R349 to R359).
-/
namespace Sys2Proof.Machine

open Sys2Proof

/-! ### Sweeps (17 R354) -/

/-- A lost member leaves a slot: it is absent, its join and credits are gone, and what it has staged in chunks that are not
yet folded here goes with it (04 R101, 17 R354). -/
def Slot.forget (v : Slot) (fa : FA) : Slot :=
  { v.merge stMemberLost [fa] with
    absent := v.absent ++ [fa]
    joined := v.joined.filter (· != fa)
    credits := v.credits.filter fun e => e.1 != fa
    chunks := v.chunks.map fun (e : Nat × Chunk) =>
      if e.2.psumSent || e.2.formed then e else (e.1, { e.2 with contribs := e.2.contribs.filter fun c => c.1 != fa }) }

/-- A sparse fold that has not begun pass 2 loses the literals and reservations of a member, and pass 1 runs again over the
rest; only the first pass counts (06 R164). -/
def State.sparseForget (s : State) (hdl : BitVec 20) (p : Plan) (fa : FA) : State :=
  match p.sparse, s.sparseOf hdl, p.members.findIdx? (· == fa) with
  | some sec, some x, some r =>
    if x.started then s
    else
      let had := x.folded
      let x' := { x with streams := x.streams.filter (fun e => e.1.2 != r), lasts := x.lasts.filter (fun e => e.2 != r)
                         folded := [], spill := [] }
      let t := s.setSparse hdl x'
      if had.isEmpty then t
      else
        let t := { t with pl := { t.pl with buckets := [] } }
        (had.filter fun e => e.2 != r).foldl (fun t pr => t.pass1 hdl p sec pr false) t
  | _, _, _ => s

/-- A member of an OPEN instance is lost (04 R101, 08 R206). -/
def State.memberLost (s : State) (hdl : BitVec 20) (fa : FA) : State :=
  match s.plan (planOf hdl) with
  | none => s
  | some p =>
    let v := s.slot hdl
    if v.state ≠ .opened ∨ !(p.members.contains fa) ∨ v.absent.contains fa then s
    else
      let t := s.setSlot hdl (v.forget fa)
      if !p.queues.isEmpty then t.failInstance hdl stAborted [fa]
      else (t.sparseForget hdl p fa).absentDown hdl

/-- A module that an OPEN instance's trees or leaves use is lost (04 R101, 07 R180). -/
def State.treeLost (s : State) (hdl : BitVec 20) (fa : FA) : State :=
  let v := s.slot hdl
  let has := fun (l : List Node) => l.any fun n => n.1 == fa
  match s.plan (planOf hdl) with
  | none => s
  | some p =>
    let planes := fun b => if p.seqn.isSome then s.planeOfChunk p v 0 == b else v.pmask / (if b then 2 else 1) % 2 == 1
    let used := (planes false && has v.treesA) || (planes true && has v.treesB)
    if p.coll.isSome ∧ v.state = .opened ∧ used then s.failInstance hdl stTreeLost [] else s

/-- Takes a queue entry of a fenced party out of its queue. -/
def State.dequeue (s : State) (k : QKey) (ptr : Nat) : State := (s.setQueue k ((s.queue k).erase ptr)).dropRef ptr

/-- Cells that wait for delivery to a fenced endpoint are dequeued (17 R354): those addressed to it, and the copies queued on
its port. -/
def State.sweepQueues (s : State) (fa : FA) : State :=
  let port := match s.member fa with
    | some m => if !m.isMod && s.ownNode m then some m.port else none
    | none => none
  let bad := fun (k : QKey) (ptr : Nat) => match s.cellSlot ptr with
    | some x => x.cell.dst == fa || (match k with
      | .egress p _ => some p == port
      | .toEngine _ _ => false)
    | none => false
  let t := (s.cm.queues.flatMap fun e => (e.2.filter (bad e.1)).map fun ptr => (e.1, ptr)).foldl
    (fun t (e : QKey × Nat) => t.dequeue e.1 e.2) s
  let gone := (t.cm.waiting.filter fun e => match t.cellSlot e.1 with
    | some x => x.cell.dst == fa
    | none => false).map (·.1)
  let t := { t with cm := { t.cm with waiting := t.cm.waiting.filter (fun e => !(gone.contains e.1))
                                      blocked := t.cm.blocked.filter (fun e => e.1.dst != fa) } }
  gone.foldl State.dropRef t

/-- Streams and staged messages of a fenced party go, and cells sent to a group that only it had yet to acknowledge are released
(17 R354, 13 R300, R301). -/
def State.sweepStreams (s : State) (fa : FA) : State :=
  let t := ((s.rt.tx.filter fun e => e.1.1 == fa).map (·.1)).foldl State.dropTx s
  let groups := (t.rt.tx.filter fun e => decide (0xF000 ≤ e.1.1.toNat)).map (·.1)
  let t := groups.foldl (fun t k => t.release k fun r => t.allAcked k.1 r.acked) t
  { t with
    rt := { t.rt with rx := t.rt.rx.filter (fun e => e.1.1 != fa), inbox := t.rt.inbox.filter (fun e => e.1 != fa) }
    pl := { t.pl with staged := t.pl.staged.filter fun w => w.msg.src != fa } }

/-- A heal fails: the granule reads zeros from its stand-in, learning-rate entries in it too, and stays unhealed (11 R258, R259;
17 R369). -/
def State.healFails (s : State) (h : Heal) : State :=
  let t := { s with mem := { s.mem with heals := s.mem.heals.filter fun x => x.granule != h.granule } }
  let t := if s.regionOf h.granule = .plan then t.putTables h.granule (zeros granuleBytes) else t
  ((t.bump .memHealFail).raise evMemHealFailed 0 h.granule).zeroRetire h.granule

/-- The twin is fenced: the node runs SOLO, an exchange under way is complete, and heals fail (05 R127, 11 R259). -/
def State.twinFenced (s : State) : State :=
  let t := { s with
    twin := { s.twin with fenced := true }
    led := { s.led with solo := true, held := s.led.held.filter fun m => m.src != s.twin.fa } }
  let t := match t.led.sentDig with
    | some (g, _) => t.exchange g
    | none => t
  t.mem.heals.foldl State.healFails t

/-- What the fence of a party does at this module once its table entry is set: the sweep, lost members or modules, and the
route tables (17 R354, R359, R362). -/
def State.sweep (s : State) (fa : FA) : State :=
  let t := (s.sweepStreams fa).sweepQueues fa
  let t := if fa = t.twin.fa ∧ t.twin.present then t.twinFenced else t
  let mod := t.isModule fa
  let t := t.openHdls.foldl (fun t h => if mod then t.treeLost h fa else t.memberLost h fa) t
  let t := t.rebuildRoutes
  t.openHdls.foldl State.progress t.settle

/-! ### Fences (17 R355, R356) -/

/-- Core cycles of 2 ms, the least distance of two bumps. -/
def bumpGap : Nat := 2 * cyclesPerMs

/-- A bump has to wait. -/
def State.bumpWaits (s : State) (fa : FA) : Bool :=
  match (s.party fa).lastBump with
  | some t => decide (s.clk.cycle < t + bumpGap)
  | none => false

/-- Sets a party FENCED with an epoch, or with its bump deferred. -/
def State.setFenced (s : State) (fa : FA) (epoch : Nat) (deferred : Bool) (seen : List (Bool × Nat × Bool)) : State :=
  let t := s.modParty fa fun q =>
    { epoch := epoch % 16, fenced := true, lastBump := if deferred then q.lastBump else some s.clk.cycle, deferred := deferred,
      applied := seen }
  { t with rt := { t.rt with lastFa := fa, lastEpoch := epoch % 16 } }

/-- Sends a notice to every other module of both planes (12 R282). -/
def State.notify (s : State) (dest : List FA) (p : List Byte) : State := dest.foldl (fun t a => t.sendCtrl a kCtrl tcMgmt 0 p) s

/-- This module fences a party (17 R355): the entry, the notices, its own sweep, FENCE_APPLIED. -/
def State.fenceParty (s : State) (fa : FA) : State :=
  if s.isFenced fa then s
  else
    let wait := s.bumpWaits fa
    let next := ((s.party fa).epoch + 1) % 16
    let e := if wait then (s.party fa).epoch else next
    let t := (s.setFenced fa e wait []).notify s.otherModules (payFence fa e wait s.beat)
    (t.sweep fa).raise evFenceApplied fa.toNat next

/-- FENCE_NOTICE. -/
def execFenceNotice (src : FA) (party : FA) (epoch : BitVec 4) (deferred : Bool) (beat : Nat) (s : State) :
    Host.Outcome State Fault Refusal :=
  let _ := beat
  .next (
    if !s.firmware then s
    else
      let s := s.takeCtrl src 0x82
      let q := s.party party
      let key := (true, epoch.toNat, deferred)
      if !q.fenced then (s.setFenced party epoch.toNat deferred [key]).sweep party
      else if q.applied.contains key ∨ deferred ∨ !q.deferred then s
      else s.setFenced party epoch.toNat false (q.applied ++ [key]))

/-- FENCE_BUMP_DEFERRED: the fencing module, which has applied no notice, bumps and tells the others (12 R282, 17 R356). -/
def execFenceBumpDeferred (party : FA) (s : State) : Host.Outcome State Fault Refusal :=
  .next (
    let q := s.party party
    if !s.firmware ∨ !q.deferred ∨ !q.fenced ∨ !q.applied.isEmpty ∨ s.bumpWaits party then s
    else
      let e := (q.epoch + 1) % 16
      (s.setFenced party e false []).notify s.otherModules (payFence party e false s.beat))

/-! ### Silence and twins (17 R349 to R351) -/

/-- Ports of a role that are UP. -/
def State.portsUp (s : State) (r : Role) : List Nat :=
  allPorts.filter fun p => (s.port p).role == r && (s.port p).state == .up

/-- SILENT: the ENDPOINT ports that are silent (12 R282). -/
def State.silentMask (s : State) : BitVec 48 :=
  BitVec.ofNat 48 ((allPorts.filter fun p => (s.port p).role == .endpoint && (s.port p).silent).foldl (fun a p => a + 2 ^ p) 0)

/-- The twin is in service. -/
def State.twinServes (s : State) : Bool := s.paired && !s.twin.silent

/-- Twin B reports a change of its mask to twin A (17 R350). -/
def State.reportSilence (s : State) : State :=
  if s.planeB && s.paired && s.engines then s.sendCtrl s.twin.fa kCtrl tcMgmt 0 (paySilence s.led.step s.silentMask) else s

/-- Endpoints of this node that are dead: silent here, and at the twin where it is in service (17 R350). -/
def State.deadEndpoints (s : State) : List Member :=
  s.rt.members.filter fun m => !m.isMod && s.ownNode m && !s.isFenced m.fa && (s.port m.port).silent
    && (!s.paired || s.twin.ports.getLsbD m.port)

/-- The deciding twin fences the endpoints that are dead (17 R350). -/
def State.decideDead (s : State) : State :=
  if !s.firmware ∨ (s.paired ∧ s.planeB) then s
  else s.deadEndpoints.foldl (fun t m => (t.raise evEpDead m.fa.toNat m.port).fenceParty m.fa) s

/-- This module carries the node: it fences its twin (17 R351). -/
def State.carryNode (s : State) : State :=
  ((s.raise evTwinLost s.twin.fa.toNat 0).fenceParty s.twin.fa).decideDead

/-- The endpoint that a port names in events: the member on it, else the peer. -/
def State.peerOn (s : State) (port : Nat) : FA :=
  match s.endpointOn port with
  | some m => m.fa
  | none => (s.port port).peerFa

/-- An ENDPOINT port becomes silent (17 R349). -/
def State.goSilent (s : State) (port : Nat) : State :=
  if (s.port port).silent then s
  else
    let t := (s.modPort port fun p => { p with silent := true }).raise evEpPortSilent (s.peerOn port).toNat port
    t.reportSilence.decideDead

/-- MISS_LIMIT; 0 acts as 1. -/
def State.missLimit (s : State) : Nat := max 1 (s.rdf .lpHbCfg 0 8)

/-- HEARTBEAT_SEND: the link hardware's heartbeat on an ENDPOINT port, none for a fenced endpoint (12 R279, 17 R356). -/
def execHeartbeatSend (port : Nat) (s : State) : Host.Outcome State Fault Refusal :=
  .next (
    let p := s.port port
    let fa := s.peerOn port
    if !s.engines ∨ s.unplaced ∨ p.role ≠ .endpoint ∨ p.state ≠ .up ∨ s.isFenced fa then s
    else
      let n := (p.hbSent + 1) % 2 ^ 32
      (s.modPort port fun p => { p with hbSent := n }).sendOnPort port fa
        (payHeartbeat s.led.step n (b2n s.twinServes + 16 * (s.party fa).epoch)))

/-- HEARTBEAT of an endpoint: its port is heard again (17 R349, R350). -/
def execHeartbeat (port : Nat) (step : Nat) (count : Nat) (flags : Byte) (s : State) : Host.Outcome State Fault Refusal :=
  let _ := (step, count)
  .next (
    let fa := s.peerOn port
    let s := s.takeCtrl fa 0x03
    let p := s.port port
    if !s.engines ∨ p.role ≠ .endpoint ∨ p.state ≠ .up ∨ s.isFenced fa then s
    else
      let up := flags.getLsbD 0
      let t := s.modPort port fun p => { p with misses := 0, silent := false, hbHeard := true
                                                otherUp := up || (s.twin.bWait && p.hbHeard && p.otherUp) }
      if p.silent then t.reportSilence else t)

/-- HEARTBEAT_MISS: 500 µs without a heartbeat (17 R349). -/
def execHeartbeatMiss (port : Nat) (s : State) : Host.Outcome State Fault Refusal :=
  .next (
    let p := s.port port
    if !s.engines ∨ p.role ≠ .endpoint ∨ p.state ≠ .up ∨ p.silent then s
    else
      let t := s.modPort port fun p => { p with misses := p.misses + 1 }
      if s.missLimit ≤ p.misses + 1 then t.goSilent port else t)

/-- STEP_END: LP_EP_STEP of the port (12 R280). -/
def execStepEnd (port : Nat) (step : Nat) (verdict : Byte) (s : State) : Host.Outcome State Fault Refusal :=
  .next (
    let s := s.takeCtrl (s.peerOn port) 0x04
    if !s.engines ∨ (s.port port).role ≠ .endpoint then s
    else s.modPort port fun p => { p with epStep := BitVec.ofNat 64 (step % 2 ^ 63 + 2 ^ 63 * (verdict.toNat % 2)) })

/-- TWIN_HB_SEND: the link hardware's heartbeat on a TWIN port (12 R282, 17 R351, R363). -/
def execTwinHbSend (port : Nat) (s : State) : Host.Outcome State Fault Refusal :=
  .next (
    let p := s.port port
    if !s.engines ∨ s.unplaced ∨ s.twin.hbStopped ∨ p.role ≠ .twin ∨ p.state ≠ .up then s
    else
      let n := (p.twinHbSent + 1) % 2 ^ 32
      (s.modPort port fun p => { p with twinHbSent := n }).sendOnPort port (if s.twin.present then s.twin.fa else p.peerFa)
        (payTwinHb s.led.step n s.silentMask))

/-- TWIN_HB: the twin is heard, with its silent ports (17 R350, R351); once found silent it is not heard again. -/
def execTwinHb (port : Nat) (step : Nat) (count : Nat) (silent : BitVec 48) (s : State) : Host.Outcome State Fault Refusal :=
  let _ := (step, count)
  .next (
    let s := s.takeCtrl s.twin.fa 0x80
    if !s.engines ∨ (s.port port).role ≠ .twin ∨ !s.twinServes then s
    else { s with twin := { s.twin with ports := silent } }.decideDead)

/-- ENDPOINT ports in service. -/
def State.endpointsUp (s : State) : List Nat := s.portsUp .endpoint

/-- TWIN_SILENT: twin A carries the node; twin B waits for its endpoints, where it has any in service (17 R351). -/
def execTwinSilent (s : State) : Host.Outcome State Fault Refusal :=
  .next (
    if !s.firmware ∨ !s.twinServes then s
    else
      let t := { s with twin := { s.twin with silent := true } }
      if !t.planeB ∨ t.endpointsUp.isEmpty then t.carryNode
      else
        t.endpointsUp.foldl (fun t p => t.modPort p fun x => { x with hbHeard := false, otherUp := false })
          { t with twin := { t.twin with bWait := true } })

/-- Twin B stops (17 R351): OPEN instances end ABORTED, TWIN_LINK_LOST, and its datapath halts. -/
def State.stopTwinB (s : State) : State :=
  let t := (s.abortAll false).raise evTwinLinkLost s.twin.fa.toNat 0
  { t with twin := { t.twin with stopped := true } }

/-- TWIN_B_WAIT_END. -/
def execTwinBWaitEnd (s : State) : Host.Outcome State Fault Refusal :=
  .next (
    if !s.firmware ∨ !s.twin.bWait then s
    else
      let alive := s.endpointsUp.any fun p => (s.port p).hbHeard && (s.port p).otherUp
      let t := { s with twin := { s.twin with bWait := false } }
      if alive then t.stopTwinB else t.carryNode)

/-- SILENCE: twin B's report to twin A (17 R350). -/
def execSilence (step : Nat) (silent : BitVec 48) (s : State) : Host.Outcome State Fault Refusal :=
  let _ := step
  .next (
    if !s.firmware ∨ !s.paired then s
    else { s.takeCtrl s.twin.fa 0x81 with twin := { s.twin with ports := silent } }.decideDead)

/-! ### Admission (17 R357) -/

/-- A party is no longer FENCED here (17 R350, R357): an endpoint's silence is cleared, and the twin is back. -/
def State.admits (s : State) (fa : FA) (epoch : Nat) (seen : List (Bool × Nat × Bool)) : State :=
  let t := s.modParty fa fun q => { q with epoch := epoch % 16, fenced := false, deferred := false, applied := seen }
  let t := match t.member fa with
    | some m =>
      if !m.isMod ∧ t.ownNode m then
        let was := (t.port m.port).silent
        let t := t.modPort m.port fun p => { p with misses := 0, silent := false }
        let t := { t with twin := { t.twin with ports := t.twin.ports &&& ~~~(1#48 <<< m.port) } }
        if was then t.reportSilence else t
      else if fa = t.twin.fa ∧ t.twin.present then
        { t with twin := { t.twin with fenced := false, silent := false, bWait := false }, led := { t.led with solo := false } }
      else t
    | none => t
  t.rebuildRoutes

/-- ADMIT_NOTICE. -/
def execAdmitNotice (src : FA) (party : FA) (epoch : BitVec 4) (gen : Nat) (s : State) : Host.Outcome State Fault Refusal :=
  let _ := gen
  .next (
    if !s.firmware then s
    else
      let s := s.takeCtrl src 0x83
      let q := s.party party
      let key := (false, epoch.toNat, false)
      if q.applied.contains key ∧ !q.fenced then s
      else s.admits party epoch.toNat (if q.fenced then [key] else q.applied ++ [key]))

/-- This module admits a party and tells the others (12 R282, 17 R357). -/
def State.admitParty (s : State) (fa : FA) (gen : Nat) : State :=
  let e := (s.party fa).epoch
  (s.admits fa e []).notify s.otherModules (payAdmit fa e gen)

/-! ### Torus links (17 R359) -/

/-- A torus link is lost or back, as its reporter names it; the tables follow. -/
def State.linkChanged (s : State) (reporter : FA) (dim : Nat) (minus restored : Bool) : State :=
  let k := (reporter, dim, minus)
  let rest := s.rt.broken.filter (· != k)
  { s with rt := { s.rt with broken := if restored then rest else rest ++ [k] } }.rebuildRoutes

/-- LINK_NOTICE. -/
def execLinkNotice (src : FA) (reporter : FA) (dim : Nat) (minus : Bool) (restored : Bool) (beat : Nat) (s : State) :
    Host.Outcome State Fault Refusal :=
  let _ := beat
  .next (if !s.firmware then s else (s.takeCtrl src 0x84).linkChanged reporter dim minus restored)

/-! ### Digests (05 R127; 17 R368) -/

/-- The D of the ledger record of a step. -/
def State.recordDigest (s : State) (step : Nat) : Option Nat :=
  (s.led.ring.find? fun r => leAt r 0 8 == step).map fun r => leAt r 24 8

/-- A resilver fails at this module, and its request completes (17 R368, 18 R386). -/
def State.resilverOver (s : State) : State :=
  let t := s.resilverFails
  match s.mem.resilver with
  | some r => match r.rq with
    | some rq => t.complete rq csAborted 0 0 (leBytes 8 r.copied)
    | none => t
  | none => s

/-- The resilvered twin's D has come: the carrying twin admits it, or the resilver fails (17 R368, log 25). -/
def State.resilverAnswer (s : State) (r : Resilver) (step : Nat) (d : Word) : State :=
  if s.recordDigest step = some d.toNat then
    let t := { s with mem := { s.mem with resilver := none } }.admitParty r.twin 0
    let t := t.raise evResilverDone r.twin.toNat r.copied
    match r.rq with
    | some rq => t.ok rq (leBytes 8 r.copied)
    | none => t
  else s.resilverOver

/-- DIGEST of the twin. -/
def execDigest (step : Nat) (d : Word) (word : BitVec 32) (s : State) : Host.Outcome State Fault Refusal :=
  .next (
    let s := s.takeCtrl s.twin.fa 0x85
    if !s.engines then s
    else
      match s.mem.resilver with
      | some r =>
        if r.carrying && r.copyDone then s.resilverAnswer r step d
        else s
      | none =>
        if s.stepDone step ∨ !s.paired then s
        else { s with led := { s.led with twinDig := some (step, d, word) } }.exchange step)

end Sys2Proof.Machine
end

