-- ==== Sys2Proof/Machine/Heal.lean ====
section
/-!
DEFINITION. Machine/Heal.lean: healing granules from the twin (11 R259, 12 R283, R284) and resilvering (17 R366 to R368).
-/
namespace Sys2Proof.Machine

open Sys2Proof

/-! ### Shard descriptors and LED_STATUS (05) -/

/-- A shard from its 64-byte descriptor and its learning-rate table (05 R106). -/
def shardOf (x : List Byte) (table : List (BitVec 32)) : Shard where
  num := leAt x 0 2
  opt := byteAt x 2
  flags := BitVec.ofNat 8 (byteAt x 3)
  count := leAt x 4 8
  rows := leAt x 12 4
  cols := leAt x 16 4
  b1 := BitVec.ofNat 32 (leAt x 20 4)
  b2 := BitVec.ofNat 32 (leAt x 24 4)
  eps := BitVec.ofNat 32 (leAt x 28 4)
  wd := BitVec.ofNat 32 (leAt x 32 4)
  aux := BitVec.ofNat 32 (leAt x 36 4)
  start := leAt x 48 8
  table := table
  raw := x.take 64

/-- An update waits for an export of the target bank (05 R137). -/
def State.held (s : State) : Bool :=
  !s.targetFree && s.openHdls.any fun h => (s.slot h).rug.any fun e => !e.2.applied

/-- PHASE (05 R137): READY for the next step, RUNNING while a step has opened, else IDLE (DESIGN CHOICE, log 94). -/
def State.phase (s : State) : Nat :=
  match s.nextStep with
  | some g => if (s.readyWord g).isSome then 2 else if s.openHdls.isEmpty && s.led.opened.isEmpty then 0 else 1
  | none => if s.openHdls.isEmpty then 0 else 1

/-- LED_STATUS. -/
def State.ledStatus (s : State) : Nat :=
  s.phase + 4 * b2n s.led.srcB + 8 * b2n s.led.solo + 16 * b2n s.held + 2 ^ 16 * s.led.shards.length

/-! ### Requests of the healing module (11 R259, 12 R284) -/

/-- The transfer tag of the next heal: tag 1 is the resilver's, and neighbouring heals take different ones. -/
def State.nextTag (s : State) : Nat := 2 + (s.ctr .memHeal + s.ctr .memHealFail) % 254

/-- Sends the heal request of a granule. -/
def State.sendHeal (s : State) (h : Heal) : State :=
  s.sendCtrl s.twin.fa kRead tcMgmt 0 (payHealRequest h.tag h.ref)

/-- Changes the heal at the head of the queue. -/
def State.setHeal (s : State) (h : Heal) : State :=
  { s with mem := { s.mem with heals := h :: s.mem.heals.drop 1 } }

/-- HEAL_START: the oldest bad granule asks the twin, or fails where the node runs SOLO. -/
def execHealStart (s : State) : Host.Outcome State Fault Refusal :=
  .next (match s.mem.heals with
  | [] => s
  | h :: _ =>
    if !s.engines ∨ h.sent then s
    else if !s.paired then s.healFails h
    else
      let h := { h with tag := s.nextTag, sent := true }
      let k : StreamKey := (s.twin.fa, BitVec.ofNat 20 h.tag)
      let t := s.setHeal h
      let t := { t with rt := { t.rt with rx := Assoc.del k t.rt.rx } }
      t.sendHeal h)

/-- HEAL_REQUEST_TIMEOUT. -/
def execHealRequestTimeout (s : State) : Host.Outcome State Fault Refusal :=
  .next (match s.mem.heals with
  | [] => s
  | h :: _ => if s.engines ∧ h.sent ∧ s.paired then s.sendHeal h else s)

/-- HEAL_FAIL of the twin. -/
def execHealFail (ref : GranuleRef) (reason : Byte) (s : State) : Host.Outcome State Fault Refusal :=
  let _ := reason
  .next (
    let s := s.takeCtrl s.twin.fa 0x88
    match s.mem.heals with
    | [] => s
    | h :: _ => if s.engines ∧ h.sent ∧ h.ref = ref then s.healFails h else s)

/-- The healed granule agrees with the term recorded when it was written (11 R259). -/
def State.healAgrees (s : State) (g : Nat) (data : List Byte) : Bool :=
  match s.bankOf g, Assoc.find g s.mem.crcs with
  | some (_, o), some t => granuleTerm o data == t
  | _, _ => true

/-- A transfer message leaves those that wait. -/
def State.takeTransfer (s : State) (tag : Nat) : State := s.takeInbox s.twin.fa (BitVec.ofNat 20 tag)

/-- HEAL_DATA of the twin: the granule is retired, and its stand-in written (11 R259, R260). -/
def execHealData (ref : GranuleRef) (data : List Byte) (s : State) : Host.Outcome State Fault Refusal :=
  .next (match s.mem.heals with
  | [] => s
  | h :: _ =>
    if s.mem.wiping.isSome then s else
    let s := s.takeTransfer h.tag
    if !s.engines ∨ !h.sent then s
    else if data.length ≠ granuleBytes then (s.bump .plnSigMismatch).healFails h
    else if h.ref ≠ ref then s
    else if !s.healAgrees h.granule data then s.healFails h
    else
      let t := { s with mem := { s.mem with
        heals := s.mem.heals.drop 1, bad := s.mem.bad.filter fun g => g != h.granule } }.retire h.granule
      let t := if (t.bankOf h.granule).isSome then t.stateWrite (h.granule * granuleBytes) data
        else (t.memWrite (h.granule * granuleBytes) data).putTables h.granule data
      t.bump .memHeal)

/-! ### Answers of the twin -/

/-- Whether the target bank's granule at an offset has been written for the step in progress (11 R259). -/
def State.targetWritten (s : State) (o : Nat) : Bool :=
  s.led.carried ||
  match s.layout.find? fun e => decide (e.2 ≤ o) && decide (o < e.2 + e.1.bytes) with
  | none => true
  | some (d, base) =>
    let r := o - base
    let done := fun (from' size : Nat) =>
      (segmentsOf ((r - from') / size) (min d.count ((r - from' + granuleBytes) / size) - (r - from') / size)).all fun g =>
        s.led.marked.contains (d.num, g)
    if r < d.offW then s.led.updated.contains d.num
    else if r < d.offM then done d.offW 4
    else if r < d.offV then done d.offM d.momBytes
    else if d.opt = 3 then s.led.updated.contains d.num
    else done d.offV d.momBytes

/-- Where a role and an offset lie here, none where they lie nowhere: the granule, and its bank. -/
def State.granuleAt (s : State) (ref : GranuleRef) : Option Nat :=
  let r := if ref.role.getLsbD 1 then Region.plan else bankRegion (if ref.role.getLsbD 0 then s.tgtB else s.led.srcB)
  let g := ref.offset / granuleBytes
  if g < s.regionSize r ∧ ref.offset % granuleBytes = 0 then some (s.regionBase r + g) else none

/-- Sends HEAL_FAIL. -/
def State.refuseHeal (s : State) (dest : FA) (ref : GranuleRef) (reason : Byte) : State :=
  s.sendCtrl dest kCtrl tcMgmt 0 (payHealFail ref reason)

/-- HEAL_REQUEST of the twin: HEAL_DATA once the granule is there, or HEAL_FAIL. It waits while its tag is in use (12 R283) and while
memory is wiped. -/
def execHealRequest (src : FA) (tag : Nat) (ref : GranuleRef) (s0 : State) : Host.Outcome State Fault Refusal :=
  .next (
    if s0.mem.wiping.isSome then s0 else
    let s := s0.takeInbox src 0
    if !s.engines ∨ src ≠ s.twin.fa then s
    else if ref.gen ≠ s.led.step then s.refuseHeal src ref 2
    else
      match s.granuleAt ref with
      | none => s.refuseHeal src ref 2
      | some g =>
        if ref.role.getLsbD 0 && !ref.role.getLsbD 1 && !s.targetWritten ref.offset && !s.mem.bad.contains g then s0
        else if !s.tagFree (src, BitVec.ofNat 20 tag) then s0
        else
          let s := s.fetchRange (g * granuleBytes) granuleBytes
          if s.mem.bad.contains g then s.refuseHeal src ref 1
          else
            (s.freshTx (src, BitVec.ofNat 20 tag)).sendMessage src (BitVec.ofNat 20 tag) kResp tcMgmt 0 false (transferHead 1 ref granuleBytes)
              (s.granuleData g))

/-! ### Resilvering at the carrying twin (17 R366, R367) -/

/-- The control record (12 R283). -/
def State.controlRecord (s : State) : List Byte :=
  leBytes 8 s.led.step ++ leBytes 8 s.ledStatus ++ leBytes 4 s.led.shards.length ++ zeros 4
  ++ s.led.shards.flatMap (fun d => padTo 64 d.raw) ++ s.led.shards.flatMap (fun d => f32Bytes d.table) ++ s.led.seeds
  ++ padTo (256 * 64) s.led.ring.flatten

/-- RESILVER: the checks of R366; then the control record goes first. `peerOk` tells that the named module is READY, has the
same MEM_REGION_SIZE and LED_PLANSET, and has no shard. -/
def execResilver (rq : Req) (peerOk : Bool) (s : State) : Host.Outcome State Fault Refusal :=
  .next (
    if !s.mayServe rq 0x0A then s
    else
      let fa := BitVec.ofNat 16 (argOf rq 36 2)
      let place := match s.moduleOf s.nodeA (!s.planeB) with
        | some m => m.fa == fa
        | none => false
      if !s.led.solo ∨ !place ∨ !peerOk ∨ s.mem.resilver.isSome then s.fail rq csConfig 36
      else if !s.tagFree (fa, 1#20) then s
      else
        let t := { s with mem := { s.mem with
          resilver := some { carrying := true, twin := fa, rq := some rq, control := true, copied := 0, copyDone := false } } }
        let c := t.controlRecord
        (t.freshTx (fa, 1#20)).sendMessage fa 1#20 kResp tcMgmt 0 false
          (transferHead 2 { gen := t.led.step, role := 0, offset := 0 } c.length) c)

/-- RESILVER_COPY_DONE: every granule of STATE_A and then of STATE_B has been sent. -/
def execResilverCopyDone (s : State) : Host.Outcome State Fault Refusal :=
  .next (match s.mem.resilver with
  | none => s
  | some r =>
    if !s.engines ∨ !r.carrying ∨ r.copyDone then s
    else
      let n := s.regionSize .stateA
      let banks := [(s.bankAddr false, n * granuleBytes), (s.bankAddr true, n * granuleBytes)]
      let s := s.fetchAll banks []
      if s.mem.resilver ≠ some r ∨ !(s.allReady banks) then s
      else
      let t := [false, true].foldl (fun t b => (List.range n).foldl (fun t i => t.sendGranule r.twin b (i * granuleBytes)) t) s
      { t with mem := { t.mem with resilver := some { r with copied := 2 * n, copyDone := true } } })

/-! ### Resilvering at the receiving module (12 R283, 17 R367) -/

/-- Cuts the learning-rate tables of descriptors out of a control record. -/
def tablesFrom : List (List Byte) → List Byte → List Shard
  | [], _ => []
  | x :: t, l =>
    let n := leAt x 40 4
    shardOf x (f32s (l.take (4 * n))) :: tablesFrom t (l.drop (4 * n))

/-- Length of the tables that descriptors name. -/
def tableBytes (l : List (List Byte)) : Nat := (l.map fun x => 4 * leAt x 40 4).sum


/-- The transfer fails: a message whose head breaks its table (12 R283). -/
def State.transferBad (s : State) : State := (s.bump .plnSigMismatch).resilverOver

/-- CONTROL_RECORD_RECEIVE: generation, bank, shards with their tables, seeds and ledger ring. -/
def execControlRecordReceive (gen : Nat) (record : List Byte) (s : State) : Host.Outcome State Fault Refusal :=
  let _ := gen
  .next (
    if s.mem.wiping.isSome then s else
    let s := s.takeTransfer 1
    if !s.engines ∨ !s.pwr.ready ∨ !s.led.shards.isEmpty ∨ !s.twin.present ∨ s.mem.resilver.isSome then s
    else
      let n := leAt record 16 4
      let descs := (List.range n).map fun i => slice record (24 + 64 * i) 64
      let o := 24 + 64 * n
      let e := o + tableBytes descs
      let t := { s with mem := { s.mem with
        resilver := some { carrying := false, twin := s.twin.fa, rq := none, control := true, copied := 0, copyDone := false } } }
      if record.length ≠ e + 256 + 256 * 64 then t.transferBad
      else
        let ring := ((List.range 256).map fun i => slice record (e + 256 + 64 * i) 64).filter fun r => !allZero r
        { t with led := { t.led with
          step := leAt record 0 8, srcB := bitOf (leAt record 8 8) 2, shards := tablesFrom descs (record.drop o)
          seeds := slice record e 256, ring := ring, chain0 := ring.isEmpty } })

/-- GRANULE_RECEIVE: a state granule is written into the bank that its head names. -/
def execGranuleReceive (ref : GranuleRef) (data : List Byte) (s : State) : Host.Outcome State Fault Refusal :=
  .next (
    if s.mem.wiping.isSome then s else
    let s := s.takeTransfer 1
    match s.mem.resilver with
    | none => s
    | some r =>
      let b := ref.role.getLsbD 2
      let reg := bankRegion b
      let ix := ref.offset / granuleBytes
      if !s.engines ∨ r.carrying then s
      else if data.length ≠ granuleBytes ∨ s.regionSize reg ≤ ix ∨ ref.offset % granuleBytes ≠ 0 then s.transferBad
      else
        let t := s.stateWrite ((s.regionBase reg + ix) * granuleBytes) data
        let n := (if b then s.regionSize .stateA else 0) + ix + 1
        { t with mem := { t.mem with
          bad := t.mem.bad.filter (fun g => g != s.regionBase reg + ix)
          resilver := some { r with copied := max r.copied n } } })

end Sys2Proof.Machine
end

