-- ==== Sys2Proof/Machine/Requests.lean ====
section
/-!
DEFINITION. Machine/Requests.lean: the service requests for plans, membership, state, the ledger, fences, gates, meters, the log
and the wipe (18 R385 to R388).
-/
namespace Sys2Proof.Machine

open Sys2Proof

/-- The number of a handle as DETAIL gives it. -/
def hdlDetail (l : List (BitVec 20)) : Nat := ((l.head?).map BitVec.toNat).getD 0

/-! ### Plans (08 R183, 18 R386) -/

/-- Reserves a sequence context's KV space (07 R182). -/
def State.reserveKv (s : State) (p : Plan) : State :=
  match p.seqn with
  | some q => s.modCtx q.ctx fun x => { x with reserved := max x.reserved (s.kvNeed p) }
  | none => s

/-- Installs a plan in place of one of the same number. -/
def State.install (s : State) (p : Plan) (ver : BitVec 32) : State :=
  let t := if (s.plan p.num).isSome then s.removePlan p.num else s
  let t := { t with pl := { t.pl with plans := Assoc.set p.num p t.pl.plans }, led := { t.led with planset := ver } }
  (t.reserveKv p).rebuildGroups

/-- PLAN_INSTALL. -/
def execPlanInstall (rq : Req) (binary : List Byte) (s : State) : Host.Outcome State Fault Refusal :=
  .next (
    if !s.mayServe rq 0x01 then s
    else
      let p := planOfBinary binary
      let bad := s.malformed binary rq.pbytes
      if !bad.isEmpty then s.refuseAt rq csMalformed bad
      else if s.unitMissing p then s.fail rq csNoUnit 0
      else
        let cfg := s.planConfig binary p
        if !cfg.isEmpty then s.refuseAt rq csConfig cfg
        else if !(s.openOf p.num).isEmpty then s.fail rq csBusy (hdlDetail (s.openOf p.num))
        else if 0 < s.shortage p then s.fail rq csCapacity (gibMissing (s.shortage p))
        else (s.install p (BitVec.ofNat 32 (argOf rq 36 4))).ok rq (leBytes 2 p.num ++ zeros 6 ++ leBytes 8 p.sig.toNat))

/-- PLAN_REMOVE. -/
def execPlanRemove (rq : Req) (s : State) : Host.Outcome State Fault Refusal :=
  .next (
    if !s.mayServe rq 0x02 then s
    else
      let n := argOf rq 36 2
      if (s.plan n).isNone then s.fail rq csNotFound 0
      else if !(s.openOf n).isEmpty ∧ !rq.flags.getLsbD 1 then s.fail rq csBusy (hdlDetail (s.openOf n))
      else
        let t := s.removePlan n
        { t with led := { t.led with planset := BitVec.ofNat 32 (argOf rq 40 4) } }.settle.ok rq)

/-! ### Membership (01 R24, R25; 18 R386, R387; 05 R450) -/

/-- Writable bits of RT_FABRIC_POS and RT_TORUS_DIM. -/
def posBits : Word := 0x01FFFFFFFF01FFFF#64
def dimBits : Word := 0x00000FFF0FFF0FFF#64

/-- A write of RT_FABRIC_POS or RT_TORUS_DIM: the first one locks; a later one is ignored (00 R11, 01 R25). -/
def State.placeWrite (s : State) (dim : Bool) (v : Word) : State :=
  let r := if dim then Reg.rtTorusDim else Reg.rtFabricPos
  if s.locked.contains r = true then s.raise evRwlWriteIgnored 0 (if dim then 0x30008 else 0x30000)
  else
    let t : State := { s.wr r (v &&& (if dim then dimBits else posBits)) with locked := s.locked ++ [r] }
    if t.locked.contains Reg.rtFabricPos ∧ t.locked.contains Reg.rtTorusDim ∧ t.placeBad ∧ !t.rt.badRaised then
      ({ t with rt := { t.rt with badRaised := true } } : State).raise evFabricConfigBad 0 0
    else t

/-- An entry of a membership record. -/
def memberOf (e : List Byte) : Member where
  fa := BitVec.ofNat 16 (leAt e 0 2)
  isMod := bitOf (byteAt e 2) 0
  admits := bitOf (byteAt e 2) 1
  plane := bitOf (byteAt e 2) 2
  port := byteAt e 3
  twinA := BitVec.ofNat 16 (leAt e 4 2)
  x := leAt e 8 2
  y := leAt e 10 2
  z := leAt e 12 2

/-- KIND of the last entry of a kind, where a record has more of them than a fabric holds (01 R16). -/
def crowdBad (r : List Byte) (n kind limit : Nat) : List Nat :=
  let es := (List.range n).filter fun i => byteAt r (34 + 16 * i) % 2 == kind
  need (decide (es.length ≤ limit)) (34 + 16 * es.getLastD 0)

/-- Offending fields of a membership record (01 R16, R21, 18 R385, R386). A reserved byte other than 0 is refused, which no rule
asks (DESIGN CHOICE, log 84). -/
def membershipBad (r : List Byte) (pbytes : Nat) : List Nat :=
  let n := leAt r 20 4
  if r.length < 32 then [20]
  else if n < 1 ∨ 20480 < n ∨ pbytes ≠ 32 + 16 * n then [20]
  else
    let fas := (List.range n).map fun i => leAt r (32 + 16 * i) 2
    need (zeroAt r 24 32) 24 ++ crowdBad r n 0 16384 ++ crowdBad r n 1 4096 ++ (List.range n).flatMap fun i =>
    let o := 32 + 16 * i
    let e := slice r o 16
    let fa := natAt fas i
    need (decide (1 ≤ fa) && decide (fa ≤ 0xEFFF) && !(fas.take i).contains fa) o
    ++ need (decide (byteAt e 2 < 8)) (o + 2) ++ need (decide (byteAt e 3 < 48) && (byteAt e 2 % 2 == 0 || byteAt e 3 == 0)) (o + 3)
    ++ need (zeroAt e 6 8) (o + 6) ++ need (zeroAt e 14 16) (o + 14)

/-- The module of the other plane at this module's coordinates. -/
def State.findTwin (s : State) : Option Member :=
  s.rt.members.find? fun m => m.isMod && m.plane != s.planeB && m.pos == (s.coord 0, s.coord 1, s.coord 2)

/-- The twin that a membership names; without one in the first membership the node runs SOLO (05 R450). -/
def State.nameTwin (s : State) (first : Bool) : State :=
  match s.findTwin with
  | some m =>
    let fenced := s.isFenced m.fa || (!first && (s.twin.fenced || !s.twin.present))
    let t := { s with twin := { s.twin with fa := m.fa, present := true, fenced := fenced }, led := { s.led with solo := fenced } }
    if fenced then t.modParty m.fa fun q => { q with fenced := true } else t
  | none =>
    if first then { s with twin := { s.twin with present := false, fenced := true }, led := { s.led with solo := true } }
    else { s with twin := { s.twin with present := false } }

/-- A membership takes effect: positions, entries, twin, tables, admissions (18 R387, 17 R357). -/
def State.takeMembership (s : State) (r : List Byte) : State :=
  let first := !s.rt.placed
  let gen := leAt r 16 4
  let ms := (List.range (leAt r 20 4)).map fun i => memberOf (slice r (32 + 16 * i) 16)
  let t := if first then (s.placeWrite false (BitVec.ofNat 64 (leAt r 0 8))).placeWrite true (BitVec.ofNat 64 (leAt r 8 8)) else s
  let t := { t with rt := { t.rt with members := ms, gen := gen, placed := true } }.nameTwin first
  let t := t.rebuildRoutes.rebuildGroups
  let due := ms.filter fun m => m.admits && !(m.fa == t.twin.fa && t.twin.present && t.twin.fenced)
  due.foldl (fun t m => t.admitParty m.fa gen) t

/-- MEMBERSHIP_SET. -/
def execMembershipSet (rq : Req) (record : List Byte) (s : State) : Host.Outcome State Fault Refusal :=
  .next (
    if !s.mayServe rq 0x03 then s
    else
      let bad := membershipBad record rq.pbytes
      if !bad.isEmpty then s.refuseAt rq csMalformed bad
      else
        let later := s.rt.placed
        let cfg := need (BitVec.ofNat 64 (leAt record 0 8) &&& posBits == s.rd .rtFabricPos) 0
          ++ need (BitVec.ofNat 64 (leAt record 8 8) &&& dimBits == s.rd .rtTorusDim) 8
          ++ need (decide (s.rt.gen < leAt record 16 4)) 16
        if later ∧ !cfg.isEmpty then s.refuseAt rq csConfig cfg
        else (s.takeMembership record).settle.ok rq)

/-! ### Shards (05 R106 to R108, R136) -/

/-- A RUG instance is OPEN here, of any shard or of one (05 R107, R137). -/
def State.openRug (s : State) (shard : Option Nat) : List (BitVec 20) :=
  s.openHdls.filter fun h => match (s.plan (planOf h)).bind fun p => p.coll.map fun k => (p, k) with
    | some (p, k) => k.kind == kRug && (match shard with
      | none => true
      | some n => (s.ownedChunks p).any fun e => e.2.shard == n)
    | none => false

/-- A finite FP32 hyperparameter. -/
def finite32 (w : Nat) : Bool := w / 2 ^ 23 % 256 != 255

/-- Offending fields of a shard descriptor (05 R106, R107). -/
def shardBad (x : List Byte) (pbytes : Nat) : List Nat :=
  let opt := byteAt x 2
  let fl := byteAt x 3
  let count := leAt x 4 8
  let rows := leAt x 12 4
  let cols := leAt x 16 4
  let n := leAt x 40 4
  let mat := opt == 3 || opt == 4
  need (decide (1 ≤ leAt x 0 2) && decide (leAt x 0 2 ≤ 4095)) 0 ++ need (decide (opt < 5)) 2
  ++ need (decide (fl < 32) && (!bitOf fl 0 || opt == 0 || opt == 4) && (!bitOf fl 4 || opt == 0 || opt == 3)) 3
  ++ need (decide (count ≤ 2 ^ 40)) 4
  ++ (if mat then
        need (decide (rows ≠ 0)) 12 ++ need (decide (cols ≠ 0) && decide (rows * cols = count)) 16
        ++ (if opt = 4 then need (decide (min rows cols ≤ 4096) && decide (max rows cols ≤ 65536)) 16 else [])
      else need (decide (rows = 0)) 12 ++ need (decide (cols = 0)) 16)
  ++ [20, 24, 28, 32, 36].filter (fun o => !finite32 (leAt x o 4))
  ++ need (mat || decide (leAt x 36 4 = 0)) 36
  ++ need (if bitOf fl 3 then decide (1 ≤ n) && decide (n ≤ 65536) && decide (pbytes = 64 + 4 * n) else decide (n = 0) && decide (pbytes = 64)) 40
  ++ need (zeroAt x 44 48) 44 ++ need (decide (leAt x 48 8 ≠ maxWord)) 48 ++ need (zeroAt x 56 64) 56

/-- Shards with one more, in increasing number. -/
def insertShard (d : Shard) : List Shard → List Shard
  | [] => [d]
  | e :: t => if d.num < e.num then d :: e :: t else e :: insertShard d t

/-- The laid-out parts of both banks. -/
def State.bankRanges (s : State) : List (Nat × Nat) := [false, true].map fun b => (s.bankAddr b, bankBytes s.led.shards)

/-- Lays both banks out for a new list of shards: those that stay are moved with their contents (05 R108). -/
def State.relayout (s : State) (shards : List Shard) : State :=
  let old := s.layout
  let new := layoutFrom 0 shards
  let size := s.regionSize .stateA * granuleBytes
  let moved := fun (b : Bool) => new.filterMap fun (d, o) =>
    (old.find? fun e => e.1.num == d.num).map fun e => (s.bankAddr b + o, s.mem.read (s.bankAddr b + e.2) d.bytes)
  let clear := fun (t : State) (b : Bool) => t.memClear (s.bankAddr b) (s.bankAddr b + size)
  let t := clear (clear { s with led := { s.led with shards := shards } } false) true
  let t := { t with mem := { t.mem with crcs := t.mem.crcs.filter fun e => (s.bankOf e.1).isNone } }
  (moved false ++ moved true).foldl (fun t e => t.stateWrite e.1 e.2) t

/-- Defines a shard: layout, headers with T = 0 and P1 = P2 = 1.0 in both banks, and for the first one the generation (05 R108). -/
def State.defineShard (s : State) (d : Shard) : State :=
  let first := s.led.shards.isEmpty
  let t := s.relayout (insertShard d s.led.shards)
  let t := match t.shardAt d.num with
    | some (_, o) => (t.setHeader false o d 0 F32.one F32.one).setHeader true o d 0 F32.one F32.one
    | none => t
  if first then { t with led := { t.led with step := d.start, chain0 := true } } else t

/-- STATE_DEFINE with SEEDS. -/
def State.defineSeeds (s : State) (rq : Req) (param : List Byte) : State :=
  if rq.pbytes ≠ 256 then s.fail rq csMalformed 16
  else if !s.mem.layoutOk then s.fail rq csConfig 0
  else if !s.openHdls.isEmpty then s.fail rq csBusy (hdlDetail s.openHdls)
  else { s with led := { s.led with seeds := padTo 256 (param.take 256) } }.ok rq

/-- STATE_DEFINE with COUNT = 0. -/
def State.removeShard (s : State) (rq : Req) (n : Nat) : State :=
  if n < 1 ∨ 4095 < n then s.fail rq csMalformed 0
  else if !s.mem.layoutOk then s.fail rq csConfig 0
  else if s.led.shards.all fun d => d.num != n then s.fail rq csNotFound 0
  else if !(s.openRug none).isEmpty then s.fail rq csConfig 0
  else
    let s := s.fetchAll s.bankRanges []
    if s.allReady s.bankRanges then (s.relayout (s.led.shards.filter fun d => d.num != n)).ok rq else s

/-- STATE_DEFINE. -/
def execStateDefine (rq : Req) (param : List Byte) (s : State) : Host.Outcome State Fault Refusal :=
  .next (
    if !s.mayServe rq 0x04 then s
    else if rq.flags.getLsbD 2 then s.defineSeeds rq param
    else if rq.pbytes < 64 then s.fail rq csMalformed 16
    else if leAt param 4 8 = 0 then s.removeShard rq (leAt param 0 2)
    else
      let bad := shardBad param rq.pbytes
      let d := shardOf param (f32s (slice param 64 (4 * leAt param 40 4)))
      let cfg := need s.mem.layoutOk 0 ++ need (s.led.shards.all fun e => e.num != d.num) 0 ++ need (s.led.shards.all fun e => e.start == d.start) 48
        ++ need (s.openRug none).isEmpty 0
      let beyond := bankBytes (d :: s.led.shards) - s.regionSize .stateA * granuleBytes
      if !bad.isEmpty then s.refuseAt rq csMalformed bad
      else if d.opt = 4 ∧ !s.hasMatrix then s.fail rq csNoUnit 0
      else if !cfg.isEmpty then s.refuseAt rq csConfig cfg
      else if 0 < beyond then s.fail rq csCapacity (gibMissing beyond)
      else
        let s := s.fetchAll s.bankRanges []
        if s.allReady s.bankRanges then (s.defineShard d).ok rq else s)

/-! ### Import and export (05 R137) -/

/-- Bytes of a range as STATE_IMPORT and STATE_EXPORT lay it out: T, P1, P2, arrays, and for a whole FACTORED shard its
accumulators. -/
def Shard.whole? (d : Shard) (first n : Nat) : Bool := d.opt == 3 && first == 0 && n == d.count

def Shard.rangeBytes (d : Shard) (first n : Nat) : Nat :=
  16 + 4 * n + (if d.hasM then d.momBytes * n else 0) + (if d.opt = 1 then d.momBytes * n else 0)
  + (if d.whole? first n then 4 * (d.rows + d.cols) else 0)

/-- Where the parts of a range lie in a shard: offset from the shard and bytes, in order. -/
def Shard.rangeParts (d : Shard) (first n : Nat) : List (Nat × Nat) :=
  [(64, 16), (d.offW + 4 * first, 4 * n)] ++ (if d.hasM then [(d.offM + d.momBytes * first, d.momBytes * n)] else [])
  ++ (if d.opt = 1 then [(d.offV + d.momBytes * first, d.momBytes * n)] else [])
  ++ (if d.whole? first n then [(d.offV, 4 * (d.rows + d.cols))] else [])

/-- What STATE_IMPORT and STATE_EXPORT refuse of a range. -/
def State.rangeRefuse (s : State) (rq : Req) (importing : Bool) : Option State :=
  let n := argOf rq 48 8
  let first := argOf rq 40 8
  let short : Bool := match s.shardAt (argOf rq 36 2) with
    | some (d, _) => importing && rq.pbytes != d.rangeBytes first n
    | none => false
  if first % 1024 ≠ 0 ∨ short then some (s.refuseAt rq csMalformed (need (first % 1024 == 0) 40 ++ need (!short) 16))
  else
    match s.shardAt (argOf rq 36 2) with
    | none => some (s.fail rq csNotFound 0)
    | some (d, _) => if d.count < first + n then some (s.fail rq csConfig 48) else none

/-- The transfer that a request begins. -/
def State.transferOf (s : State) (rq : Req) (data : List Byte) : Transfer where
  rq := rq
  shard := argOf rq 36 2
  first := argOf rq 40 8
  elems := argOf rq 48 8
  bankB := s.led.srcB
  data := data

/-- STATE_IMPORT: the range is checked and its transfer starts. -/
def execStateImport (rq : Req) (param : List Byte) (s : State) : Host.Outcome State Fault Refusal :=
  .next (
    if !s.mayServe rq 0x05 then s
    else
      match s.rangeRefuse rq true with
      | some t => t
      | none =>
        let busy := s.openRug (some (argOf rq 36 2))
        if !busy.isEmpty then s.fail rq csBusy (hdlDetail busy)
        else { s with led := { s.led with imports := s.led.imports ++ [s.transferOf rq param] } })

/-- Writes the parts of a range into a bank. -/
def State.putRange (s : State) (base : Nat) : List (Nat × Nat) → List Byte → State
  | [], _ => s
  | (o, n) :: t, l => (s.stateWrite (base + o) (l.take n)).putRange base t (l.drop n)

/-- STATE_IMPORT_DONE: the range stands in the source bank; granules that it wrote are whole again (05 R137, 17 R364). -/
def execStateImportDone (rid : BitVec 32) (s : State) : Host.Outcome State Fault Refusal :=
  .next (match s.led.imports.find? fun x => x.rq.rid == rid with
  | none => s
  | some x =>
    let t := { s with led := { s.led with imports := s.led.imports.erase x } }
    match s.shardAt x.shard with
    | none => if s.firmware then t.fail x.rq csNotFound 0 else s
    | some (d, o) =>
      if !s.firmware then s
      else
        let base := s.bankAddr s.led.srcB + o
        let parts := d.rangeParts x.first x.elems
        let writes := parts.map fun e => (base + e.1, e.2)
        let s := s.fetchAll [] writes
        if !(s.allReady writes) then s
        else
        let t := { s with led := { s.led with imports := s.led.imports.erase x } }
        let hit := parts.flatMap fun e => granulesOf (base + e.1) e.2
        let t := t.putRange base parts x.data
        { t with mem := { t.mem with bad := t.mem.bad.filter fun g => !(hit.contains g) || t.healing g } }.ok x.rq)

/-- STATE_EXPORT: its range is checked, and it is in progress from then on. -/
def execStateExport (rq : Req) (s : State) : Host.Outcome State Fault Refusal :=
  .next (
    if !s.mayServe rq 0x06 then s
    else
      match s.rangeRefuse rq false with
      | some t => t
      | none =>
        let need' := ((s.shardAt (argOf rq 36 2)).map fun e => e.1.rangeBytes (argOf rq 40 8) (argOf rq 48 8)).getD 0
        if rq.rbytes < need' then s.fail rq csBadAddr need'
        else { s with led := { s.led with exports := s.led.exports ++ [s.transferOf rq []] } })

/-- STATE_EXPORT_DONE: the range is in the result buffer. -/
def execStateExportDone (rid : BitVec 32) (s : State) : Host.Outcome State Fault Refusal :=
  .next (match s.led.exports.find? fun x => x.rq.rid == rid with
  | none => s
  | some x =>
    if !s.firmware then s
    else
      let reads := match s.shardAt x.shard with
        | none => []
        | some (d, o) => (d.rangeParts x.first x.elems).map fun e => (s.bankAddr x.bankB + o + e.1, e.2)
      let s := s.fetchAll reads []
      if !(s.allReady reads) then s
      else
      let t := { s with led := { s.led with exports := s.led.exports.erase x } }
      match s.shardAt x.shard with
      | none => t.fail x.rq csNotFound 0
      | some (d, o) => t.answer x.rq ((d.rangeParts x.first x.elems).flatMap fun e => s.mem.read (s.bankAddr x.bankB + o + e.1) e.2) [])

/-! ### The ledger (05 R134, R135) -/

/-- LEDGER_QUERY. -/
def execLedgerQuery (rq : Req) (s : State) : Host.Outcome State Fault Refusal :=
  .next (
    if !s.mayServe rq 0x07 then s
    else
      let n := argOf rq 48 4
      let rs := sortBy (fun (a b : List Byte) => decide (leAt a 0 8 < leAt b 0 8)) (s.led.ring.filter fun r => decide (argOf rq 40 8 ≤ leAt r 0 8))
      let got := rs.take n
      if n < 1 ∨ 256 < n then s.fail rq csMalformed 48
      else if got.isEmpty then s.fail rq csNotFound 0
      else s.answer rq got.flatten (leBytes 8 s.led.step ++ leBytes 4 got.length))

/-- Releases the route records and every stored block of every sequence context (07 R176, 17 R365). -/
def State.releaseStored (s : State) : State :=
  { s with pl := { s.pl with
    disp := [], ctxs := s.pl.ctxs.map fun (e : Nat × SeqCtx) => (e.1, { e.2 with blocks := [] }) } }

/-- Rolls back to the last committed generation: the target bank is discarded, instances end, slot records, route records and stored
blocks go (05 R135, 17 R365). -/
def State.rollBack (s : State) : State :=
  ((((s.abortAll false).clearSlots false).discardStep).releaseStored).bump .ledRollback

/-- ROLLBACK. -/
def execRollback (rq : Req) (s : State) : Host.Outcome State Fault Refusal :=
  .next (
    if !s.mayServe rq 0x08 then s
    else
      let c := argOf rq 40 8
      if s.led.step = c then s.rollBack.ok rq
      else if s.led.step + 1 = c ∧ (s.readyWord c).isSome then (s.releaseStored.commit c).settle.ok rq
      else s.fail rq csConfig 40)

/-! ### Fences and instances -/

/-- FENCE. -/
def execFence (rq : Req) (s : State) : Host.Outcome State Fault Refusal :=
  .next (
    if !s.mayServe rq 0x09 then s
    else
      let fa := BitVec.ofNat 16 (argOf rq 36 2)
      if fa = s.selfFa ∨ fa = 0 ∨ 0xF000 ≤ fa.toNat then s.fail rq csConfig 36
      else (s.fenceParty fa).ok rq)

/-- ABORT. -/
def execAbort (rq : Req) (s : State) : Host.Outcome State Fault Refusal :=
  .next (
    if !s.mayServe rq 0x14 then s
    else
      let hdl := BitVec.ofNat 20 (argOf rq 36 4)
      let v := s.slot hdl
      if v.state ≠ .opened ∨ v.step ≠ argOf rq 40 8 then s.fail rq csNotFound 0
      else (s.failInstance hdl stAborted []).settle.ok rq)

/-! ### Gates, meters, log (15 R328, R334; 19 R392) -/

/-- Entries of a gate list. -/
def gateEntries (l : List Byte) (n : Nat) : List GateEntry :=
  (List.range n).map fun i => ⟨leAt l (4 * i) 2, BitVec.ofNat 5 (byteAt l (4 * i + 2))⟩

/-- A list meets R328: every DUR at least 1, a cycle of at most 65,536 slots, every class open somewhere. -/
def gateListOk (l : List GateEntry) : Bool :=
  l.all (fun e => decide (1 ≤ e.dur)) && decide ((l.map (·.dur)).sum ≤ 65536)
  && (List.range 5).all fun i => l.any fun e => e.opens.getLsbD i

/-- GATE_CONFIG. -/
def execGateConfig (rq : Req) (entries : List Byte) (s : State) : Host.Outcome State Fault Refusal :=
  .next (
    if !s.mayServe rq 0x0F then s
    else
      let port := argOf rq 36 1
      let last := argOf rq 37 1
      let en := argOf rq 38 1
      let start := argOf rq 40 8
      let n := last + 1
      let bad := need (decide (port < 48)) 36 ++ need (decide (last < 64)) 37 ++ need (decide (en < 2)) 38
        ++ need (decide (start < 2 ^ 48)) 40 ++ need (rq.pbytes == 4 * n) 16
      let l := gateEntries entries n
      let cfg := (List.range n).flatMap (fun i => need (decide (leAt entries (4 * i) 2 ≠ 0)) (4 * i)
          ++ need (decide (byteAt entries (4 * i + 2) < 32) && byteAt entries (4 * i + 3) == 0) (4 * i + 2))
        ++ need (decide ((l.map (·.dur)).sum ≤ 65536)) (4 * last)
        ++ need ((List.range 5).all fun i => l.any fun e => e.opens.getLsbD i) (4 * last + 2)
      if !bad.isEmpty then s.refuseAt rq csMalformed bad
      else if !cfg.isEmpty then s.refuseAt rq csConfig cfg
      else (s.modSched port fun x => { x with load := some ⟨l, last, en == 1, start⟩ }).ok rq)

/-- Writes a meter's registers; the buckets start full (15 R334). -/
def State.setMeter (s : State) (port cls : Nat) (rate burst : Word) : State :=
  let t := (s.wr (.polRate (4 * port + cls - 1)) (rate &&& 0x000001FFFFFFFFFF#64)).wr (.polBurst (4 * port + cls - 1)) (burst &&& 0x0000FFFFFFFFFFFF#64)
  t.modSched port fun x => { x with
    tc := natSet x.tc (cls - 1) (64 * fld burst 0 24), tp := natSet x.tp (cls - 1) (64 * fld burst 24 24)
    meterSlot := natSet x.meterSlot (cls - 1) s.slotNow }

/-- METER_CONFIG. -/
def execMeterConfig (rq : Req) (s : State) : Host.Outcome State Fault Refusal :=
  .next (
    if !s.mayServe rq 0x10 then s
    else
      let port := argOf rq 36 1
      let cls := argOf rq 37 1
      let rate : Word := BitVec.ofNat 64 (argOf rq 40 8)
      let burst : Word := BitVec.ofNat 64 (argOf rq 48 8)
      let bad := need (decide (port < 48)) 36 ++ need (decide (1 ≤ cls) && decide (cls ≤ 4)) 37
      let cfg := if rate.getLsbD 40 then
          need (decide (fld rate 0 20 ≠ 0) && decide (fld rate 0 20 ≤ fld rate 20 20)) 40
          ++ need (decide (256 ≤ fld burst 0 24) && decide (256 ≤ fld burst 24 24)) 48 else []
      if !bad.isEmpty then s.refuseAt rq csMalformed bad
      else if !cfg.isEmpty then s.refuseAt rq csConfig cfg
      else (s.setMeter port cls rate burst).ok rq)

/-- LOG_CONFIG. -/
def execLogConfig (rq : Req) (mask : List Byte) (s : State) : Host.Outcome State Fault Refusal :=
  .next (
    if !s.mayServe rq 0x11 then s
    else
      let base := argOf rq 40 8
      let k := argOf rq 48 1
      let sized := k == 0 || (decide (4 ≤ k) && decide (k ≤ 16))
      let bad := need (base % 4096 == 0) 40 ++ need sized 48 ++ need (rq.pbytes == 128) 16
      if sized ∧ k ≠ 0 ∧ !s.inWindows base (64 * 2 ^ k) then (s.raise evUciRingCfgBad 0 33).fail rq csBadAddr (64 * 2 ^ k)
      else if !bad.isEmpty then s.refuseAt rq csMalformed bad
      else
        let t := s.ok rq
        { t with fw := { t.fw with logBase := base, logLog2 := k, logMask := padTo 128 (mask.take 128) } })

/-! ### Wipe (11 R264) -/

/-- Starts a wipe. -/
def State.startWipe (s : State) (rq : Option Req) : State := { s with mem := { s.mem with wiping := some rq } }

/-- What a finished wipe leaves: memory zero, no shard, no plan, no stored block, no spilled cell, no generation. -/
def State.wiped (s : State) : State :=
  let t := (s.pl.plans.map (·.1)).foldl State.removePlan s
  { t with
    rt := { t.rt with tx := t.rt.tx.map fun (e : StreamKey × TxStream) =>
      (e.1, { e.2 with retained := e.2.retained.filter fun r => r.ptr.isSome }) }
    mem := { t.mem with ram := [], crcs := [], flaws := [], bad := [], heals := [], wiping := none }
    pl := { t.pl with ctxs := [] }
    led := { Ledger.reset with solo := false } }

/-- WIPE. -/
def execWipe (rq : Req) (s : State) : Host.Outcome State Fault Refusal :=
  .next (
    if !s.mayServe rq 0x12 then s
    else if !s.openHdls.isEmpty then s.fail rq csBusy (hdlDetail s.openHdls)
    else s.startWipe (some rq))

/-- WIPE_DONE. -/
def execWipeDone (s : State) : Host.Outcome State Fault Refusal :=
  .next (match s.mem.wiping with
  | none => s
  | some q =>
    let t := s.wiped
    match q with
    | some rq => t.ok rq
    | none => t)

end Sys2Proof.Machine
end

