-- ==== Sys2Proof/Machine/Links.lean ====
section
/-!
DEFINITION. Machine/Links.lean: link frames, retry, lanes, training and port failures (12 R267 to R273; 01 R18, R19; 17 R352,
R358, R359).
-/
namespace Sys2Proof.Machine

open Sys2Proof

/-! ### Torus links as the fabric sees them (17 R359) -/

/-- Configured (dimension, sign) pairs of TORUS ports. -/
def State.torusDirs (s : State) : List (Nat × Bool) :=
  [(0, false), (0, true), (1, false), (1, true), (2, false), (2, true)].filter fun e =>
    allPorts.any fun p => (s.port p).role == .torus e.1 e.2

/-- A direction has lost its last port: one has failed, and none is UP. -/
def State.dirLost (s : State) (e : Nat × Bool) : Bool :=
  let ps := allPorts.filter fun p => (s.port p).role == .torus e.1 e.2
  (ps.any fun p => (s.port p).failed) && ps.all fun p => (s.port p).state != .up

/-- Firmware rewrites the tables after a port change, and tells the plane of torus links that are gone or back. -/
def State.reportLinks (s : State) : State :=
  if !s.firmware then s
  else
    let t := s.torusDirs.foldl (fun (t : State) e =>
      let known := t.rt.broken.contains (t.selfFa, e.1, e.2)
      let lost := t.dirLost e
      if known = lost then t
      else
        (t.linkChanged t.selfFa e.1 e.2 (!lost)).notify t.planeModules (payLink t.selfFa e.1 e.2 (!lost) t.beat)) s
    t.rebuildRoutes

/-! ### Ports that leave service (17 R349, R352) -/

/-- The charges of a port's cells end with its service: grants and CRED count from when it comes up (12 R271, log 38). -/
def State.endCharges (s : State) (port : Nat) : State :=
  { s with cm := { s.cm with slots := s.cm.slots.map fun x =>
      match x.charge with
      | .grant p _ => if p = port then { x with charge := .ended } else x
      | _ => x } }

/-- STATE leaves UP: an ENDPOINT port is silent at once; with the twin link gone a resilver ends (17 R349, R368). -/
def State.leaveUp (s : State) (port : Nat) (dest : PortState) : State :=
  let p := s.port port
  let t := (s.endCharges port).modPort port fun p => { p with
    state := dest, width := 0, replay := [], rxCells := [], nak := false, lastNak := none, resends := 0, degrading := false }
  let t := if p.role = .endpoint ∧ p.state = .up then t.goSilent port else t
  if p.role = .twin ∧ (t.portsUp .twin).isEmpty then t.resilverOver else t

/-- A port in service fails: PORT_DOWN and the handling of its role (17 R352). -/
def State.portFails (s : State) (port : Nat) (dest : PortState) : State :=
  let p := s.port port
  if p.state ≠ .up then s
  else
    let t := (s.modPort port fun p => { p with failed := true }).raise evPortDown p.peerFa.toNat port
    (t.leaveUp port dest).reportLinks

/-! ### Control frames of this end (12 R271; log 100) -/

/-- ROLE as control frames carry it. -/
def roleByte (planeB : Bool) (r : Role) : Nat :=
  (match r with
   | .unused => 0
   | .endpoint => 1
   | .torus d minus => 2 + 4 * d + 16 * b2n minus
   | .twin => 3) + 32 * b2n planeB

/-- Own receive health of the lanes, 1 = healthy. -/
def Port.health (p : Port) : Byte := ~~~p.laneBad

/-- The control frame of a type that this end sends on a port. -/
def State.controlBytes (s : State) (port ctype : Nat) : List Byte :=
  let p := s.port port
  frameBytes [] (padTo 256 ([0, 0] ++ leBytes 1 ctype ++ leBytes 1 (b2n p.nak) ++ leBytes 2 p.rxFseq ++ [0, 0]
    ++ ((List.range 7).flatMap fun i => leBytes 4 (natAt p.freed i)) ++ ((List.range 7).flatMap fun i => leBytes 2 (natAt p.grant i))
    ++ leBytes 2 (if s.unplaced then 0 else s.selfFa.toNat) ++ leBytes 1 (roleByte s.planeB p.role) ++ leBytes 1 port
    ++ (if ctype = 1 then [p.health] else [])))

/-- Sends a control frame. -/
def State.sendControl (s : State) (port ctype : Nat) : State := s.emit (.controlFrame port (s.controlBytes port ctype))

/-- A port begins training: both ends exchange address, plane and role in control frames (01 R19). -/
def State.train (s : State) (port : Nat) : State :=
  ((s.modPort port fun p => { p with state := .training }).emit (.trainPort port)).sendControl port 0

/-- A port retrains. -/
def State.retrain (s : State) (port : Nat) : State :=
  (s.train port).modPort port fun p => { p with retrains := p.retrains + 1 }

/-- A port in service fails and retrains. -/
def State.failAndTrain (s : State) (port : Nat) : State :=
  if (s.port port).state ≠ .up then s else (s.portFails port .training).retrain port

/-! ### Frames (12 R270 to R273) -/

/-- A port that carries cells: it is UP, the link runs, and no degrade has stopped its framing (12 R269). -/
def State.linkUp (s : State) (port : Nat) : Bool := s.engines && (s.port port).state == .up && !(s.port port).degrading

/-- DATA_FRAME_RECEIVE: the CRC covers the expected FSEQ; after a failed check the next control frame has NAK set. -/
def execDataFrameReceive (port : Nat) (frame : List Byte) (s : State) : Host.Outcome State Fault Refusal :=
  .next (
    let p := s.port port
    if !s.linkUp port ∨ frame.length ≠ 260 ∨ zeroAt frame 0 2 then s
    else if frameCrcOk (leBytes 2 p.rxFseq) frame then
      s.modPort port fun p => { p with rxFseq := (p.rxFseq + 1) % 2 ^ 16, nak := false, rxCells := p.rxCells ++ [frame.take 256] }
    else ((s.modPort port fun p => { p with nak := true }).bump (.lpFrameCrc port)).sendControl port 0)

/-! ### Frame slots (12 R267, 15 R330; log 14) -/

/-- Frame time of a port in 1/1,799 of a core cycle: 104 codewords carry 257 frames. -/
def Port.frameTime (p : Port) : Nat := if p.width = 3 then 4420 else 8840

/-- Frame slots of a superframe that carry control frames only. -/
def controlSlot (n : Nat) : Bool := n % 257 == 63 || n % 257 == 127 || n % 257 == 191 || n % 257 == 255

/-- First data slot from a slot on. -/
def dataSlotFrom (n : Nat) : Nat := if controlSlot n then n + 1 else n

/-- Where a port's superframes begin. -/
def State.framePhase (s : State) (port : Nat) : Nat := Config.framePhase port % (257 * (s.port port).frameTime)

/-- First frame slot at or after a time. -/
def State.slotFrom (s : State) (port time : Nat) : Nat := ceilDiv (time - s.framePhase port) (s.port port).frameTime

/-- Sends a data frame in the port's next free data slot (12 R270). -/
def State.sendData (s : State) (port fseq : Nat) (c : Cell) : State :=
  let n := dataSlotFrom (max (s.slotFrom port (s.clk.cycle * 1799)) ((s.port port).lastSlot + 1))
  (s.modPort port fun p => { p with lastSlot := n }).emit (.dataFrame port n (dataFrameBytes fseq c))

/-- A slot of 64 ns in 1/1,799 of a core cycle. -/
def slotUnits : Nat := 128 * 1799

/-- SCH_GATE_CTL.EN. -/
def State.gateOn (s : State) (port : Nat) : Bool := s.rdf (.schGateCtl port) 0 1 == 1

/-- A frame ends after the grid end of the window it was selected in: the window counts once, and the delay takes what its
overrun grows by (15 R331). -/
def State.endsLate (s : State) (port grid overrun : Nat) : State :=
  let x := s.sched port
  if !s.gateOn port ∨ overrun = 0 ∨ grid = 0 then s
  else
    match x.late with
    | some (g, d) =>
      if g = grid then s.modSched port fun x => { x with delay := x.delay + (overrun - d), late := some (grid, max overrun d) }
      else (s.modSched port fun x => { x with delay := x.delay + overrun, late := some (grid, overrun) }).bump (.schGateLate port)
    | none => (s.modSched port fun x => { x with delay := x.delay + overrun, late := some (grid, overrun) }).bump (.schGateLate port)

/-- Slots by which the frame that a port sent last ends after a grid end. -/
def State.overrunOf (s : State) (port grid : Nat) : Nat :=
  ceilDiv (s.framePhase port + ((s.port port).lastSlot + 1) * (s.port port).frameTime) slotUnits - grid

/-- Sends a held frame again, which may end its window late. -/
def State.resendFrame (s : State) (port : Nat) (e : Nat × Cell) : State :=
  let t := s.sendData port e.1 e.2
  match (t.sched port).frames.find? fun f => f.1 == e.1 with
  | some f => t.endsLate port f.2 (t.overrunOf port f.2)
  | none => t

/-- Resends the held frames from an FSEQ on; after 16 sequences in a row from the same one the port fails (12 R273). -/
def State.resendFrom (s : State) (port n : Nat) : State :=
  let p := s.port port
  let frames := p.replay.dropWhile fun e => e.1 != n
  let k := if p.resendFrom = n then p.resends + 1 else 1
  let t := (s.modPort port fun p => { p with resendFrom := n, resends := k }).bump .ndRetry
  let t := frames.foldl (fun t e => t.resendFrame port e) t
  if 16 ≤ k then t.failAndTrain port else t

/-- ACK_FSEQ: every held frame before it has arrived. -/
def Port.acked (p : Port) (n : Nat) : Port :=
  match p.replay with
  | [] => p
  | (f, _) :: _ =>
    let k := (n + 2 ^ 16 - f) % 2 ^ 16
    if 0 < k ∧ k ≤ p.replay.length then { p with replay := p.replay.drop k, resends := 0 } else p

/-- Core cycles in 1 µs. -/
def cyclesPerUs : Nat := 2000

/-- A NAK for FSEQ n: acted on, and repeated only after 1 µs. -/
def State.linkNak (s : State) (port n : Nat) : State :=
  let again : Bool := match (s.port port).lastNak with
    | some (m, t) => m == n && decide (s.clk.cycle < t + cyclesPerUs)
    | none => false
  if again ∨ !((s.port port).replay.any fun e => e.1 == n) then s
  else (s.modPort port fun p => { p with lastNak := some (n, s.clk.cycle) }).resendFrom port n

/-! ### The peer (01 R19, 12 R271) -/

/-- A role byte meets a configured role (01 R19). -/
def roleMeets (planeB : Bool) (r : Role) (b : Nat) : Bool :=
  match r with
  | .endpoint => b % 4 == 1
  | .torus d minus => b % 4 == 2 && b / 4 % 4 == d && bitOf b 4 != minus && bitOf b 5 == planeB
  | .twin => b % 4 == 3 && bitOf b 5 != planeB
  | .unused => false

/-- The peer fields of a port. -/
def Port.setPeer (p : Port) (fa : FA) (role : Byte) : Port :=
  { p with peerFa := fa, peerRole := role, peerPlane := role.getLsbD 5 }

/-! ### Degrade (12 R269) -/

/-- Stops x8 framing and sends DEGRADE frames. -/
def State.startDegrade (s : State) (port : Nat) : State :=
  (s.modPort port fun p => { p with degrading := true }).sendControl port 1

/-- The peer's health has come: half A, else half B, else the port fails. -/
def State.finishDegrade (s : State) (port : Nat) (peer : Byte) : State :=
  let both := (s.port port).health.toNat &&& peer.toNat
  if both % 16 ≠ 15 ∧ both / 16 ≠ 15 then s.portFails port .down
  else
    let half : BitVec 2 := if both % 16 = 15 then 1 else 2
    (s.modPort port fun p => { p with degrading := false, width := half, half := half }).bump (.lpDegrade port)

/-- A DEGRADE frame. -/
def State.degradeFrame (s : State) (port : Nat) (peer : Byte) : State :=
  let p := s.port port
  if p.state ≠ .up then s
  else if p.degrading then s.finishDegrade port peer
  else if p.width = 3 then (s.startDegrade port).finishDegrade port peer
  else s

/-- CONTROL_FRAME_RECEIVE: CRC and reserved values, then credits, acknowledgement, NAK, peer, degrade (12 R271 to R273). -/
def execControlFrameReceive (port : Nat) (frame : List Byte) (s : State) : Host.Outcome State Fault Refusal :=
  .next (
    let p := s.port port
    if !s.engines ∨ !(p.state == .up || p.state == .roleMismatch) then s
    else if !frameCrcOk [] frame ∨ !controlOk frame then s.bump (.lpFrameCrc port)
    else
      let fa := BitVec.ofNat 16 (leAt frame 50 2)
      let role := BitVec.ofNat 8 (byteAt frame 52)
      let t := s.modPort port fun p => (p.acked (leAt frame 4 2)).setPeer fa role
      let t := t.modPort port fun p => { p with
        cred := (List.range 7).map fun i => leAt frame (8 + 4 * i) 4, limit := (List.range 7).map fun i => leAt frame (36 + 2 * i) 2 }
      if p.state = .up ∧ !roleMeets s.planeB p.role role.toNat then
        (t.raise evPortRoleMismatch fa.toNat port).portFails port .roleMismatch
      else
        let t := if bitOf (byteAt frame 3) 0 ∧ p.state = .up then t.linkNak port (leAt frame 4 2) else t
        if byteAt frame 2 = 1 then t.degradeFrame port (BitVec.ofNat 8 (byteAt frame 54)) else t)

/-- LINK_ACK_TIMEOUT: resend from the oldest held frame (12 R273). -/
def execLinkAckTimeout (port : Nat) (s : State) : Host.Outcome State Fault Refusal :=
  .next (
    if !s.linkUp port then s
    else match (s.port port).replay with
      | [] => s
      | e :: _ => s.resendFrom port e.1)

/-- CONTROL_SLOT_LOSS: the port loses alignment. An x8 port takes that as its peer's degrade and does the same (12 R269 step 2);
any other port, and one that still finds no alignment, retrains (12 R267; log 100). -/
def execControlSlotLoss (port : Nat) (s : State) : Host.Outcome State Fault Refusal :=
  .next (
    let p := s.port port
    if !s.engines ∨ p.state ≠ .up then s
    else if p.width = 3 ∧ !p.degrading then s.startDegrade port
    else s.failAndTrain port)

/-- LANE_FAIL: an x8 port degrades, a half in use fails (12 R269). -/
def execLaneFail (phys : Nat) (lane : Nat) (s : State) : Host.Outcome State Fault Refusal :=
  .next (
    let split := (s.port (2 * phys)).split
    let port := if split && decide (4 ≤ lane) then 2 * phys + 1 else 2 * phys
    if !s.engines ∨ 24 ≤ phys ∨ 8 ≤ lane then s
    else
      let t := s.modPort port fun p => { p with laneBad := p.laneBad ||| (1#8 <<< lane) }
      let p := t.port port
      if p.state ≠ .up then t
      else if p.split then t.portFails port .down
      else if p.width = 3 then t.startDegrade port
      else if (p.width = 1) = (lane < 4) then t.portFails port .down
      else t)

/-! ### Training (01 R19, 12 R268) -/

/-- Cells of each class that stand selected in the read window of a port: they count in SENT (15 R322). -/
def State.selected (s : State) (port : Nat) : List Nat :=
  (List.range 7).map fun tc =>
    ((s.readWindow (egressClient port)).filter fun e => e.1 == port && e.2.2.1.tc == tc).length

/-- The widths that training of a port may end in (12 R268, R269): both halves of a split port keep their lanes, and an x8 port
has eight lanes, or four where a lane does not train. -/
def Port.widthOk (p : Port) (port : Nat) (w : BitVec 2) : Bool := if p.split then w == (if port % 2 = 0 then 1 else 2) else w != 0

/-- Width of a port as it comes into service: a degraded port keeps its half until PORT_CONFIG (12 R269). -/
def Port.widthFor (p : Port) (w : BitVec 2) : BitVec 2 := if p.split || p.half == 0 || w != 3 then w else p.half

/-- Training has left lanes of an x8 port behind: that is a degrade (12 R269). -/
def Port.trainedHalf (p : Port) (w : BitVec 2) : Bool := !p.split && p.half == 0 && w != 3

/-- A port as it comes into service. -/
def Port.enter (p : Port) (r : PeerReport) (grant sent : List Nat) : Port :=
  { p with
    state := .up, width := p.widthFor r.width, laneRev := r.laneRev, failed := false, degrading := false, rxFseq := 0, txFseq := 0, replay := []
    nak := false, lastNak := none, resendFrom := 0, resends := 0, sent := sent, cred := [], limit := [], freed := [], grant := grant
    rxCells := [], misses := 0, hbSent := 0, twinHbSent := 0 }

/-- PORT_UP: training completes; the peer is judged (01 R19). -/
def execPortUp (port : Nat) (peer : PeerReport) (s : State) : Host.Outcome State Fault Refusal :=
  .next (
    let p := s.port port
    if !s.engines ∨ p.state ≠ .training ∨ p.role = .unused ∨ !p.widthOk port peer.width then s
    else
      let t := s.modPort port fun p => p.setPeer peer.fa peer.role
      if roleMeets s.planeB p.role peer.role.toNat then
        let t := if p.trainedHalf peer.width then
            (t.modPort port fun p => { p with half := peer.width }).bump (.lpDegrade port) else t
        (t.modPort port fun p => p.enter peer ((List.range 7).map s.portGrant) (t.selected port)).reportLinks
      else (t.modPort port fun p => { p with state := .roleMismatch }).raise evPortRoleMismatch peer.fa.toNat port)

/-- LINK_TRAIN_FAIL: 100 ms of training without an end; STATE stays TRAINING (12 R268). -/
def execLinkTrainFail (port : Nat) (s : State) : Host.Outcome State Fault Refusal :=
  .next (if s.engines ∧ (s.port port).state = .training then s.raise evLinkTrainFail 0 port else s)

/-- PORT_DOWN: loss of signal on every lane, or whatever else takes the port out of service (17 R352). -/
def execPortDown (port : Nat) (s : State) : Host.Outcome State Fault Refusal :=
  .next (if s.engines then s.portFails port .down else s)

/-- PORT_RETRAIN_TIMER: firmware retrains an out-of-service port (17 R359). -/
def execPortRetrainTimer (port : Nat) (s : State) : Host.Outcome State Fault Refusal :=
  .next (
    let p := s.port port
    if !s.firmware ∨ p.role = .unused ∨ p.refclkLost ∨ !(p.state == .down || p.state == .training) then s else s.retrain port)

/-! ### PORT_CONFIG (01 R18, 12 R268, 18 R386) -/

/-- The role that a byte of PORT_CONFIG names. -/
def roleOfByte (b : Nat) : Role :=
  match b % 4 with
  | 1 => .endpoint
  | 2 => .torus (b / 4 % 4) (bitOf b 4)
  | 3 => .twin
  | _ => .unused

/-- Configures one logical port: it leaves service with its old role and retrains in the new one; a changed mask of silent ports is
reported (12 R282). -/
def State.configPort (s : State) (port : Nat) (r : Role) (split : Bool) (sch : Word) : State :=
  let t := if (s.port port).state = .up then s.leaveUp port .down else s
  let p := t.port port
  let same := p.role == r
  let q := { Port.reset with
    role := r, split := split, refclkLost := p.refclkLost, silent := same && p.silent
    epStep := if same then p.epStep else Port.reset.epStep }
  let t := (t.setPort port q).wr (.schPortCfg port) (sch &&& 0x000000FFFFFFFFFF#64)
  let u := if r = .unused then t else t.train port
  if u.silentMask = s.silentMask then u else u.reportSilence

/-- PORT_CONFIG. -/
def execPortConfig (rq : Req) (s : State) : Host.Outcome State Fault Refusal :=
  .next (
    if !s.mayServe rq 0x0E then s
    else
      let n := argOf rq 36 1
      let b := argOf rq 37 1
      let split := bitOf b 5
      let sch : Word := BitVec.ofNat 64 (argOf rq 40 8)
      let bad := need (decide (n < 24)) 36 ++ need (decide (b < 64) && (b % 4 != 2 || b / 4 % 4 != 3)) 37
      if !bad.isEmpty then s.refuseAt rq csMalformed bad
      else
        let r := roleOfByte b
        let t := s.configPort (2 * n) r split sch
        let t := if split then t.configPort (2 * n + 1) r true sch
          else
            let u := if (t.port (2 * n + 1)).state = .up then t.leaveUp (2 * n + 1) .down else t
            u.setPort (2 * n + 1) Port.reset
        t.reportLinks.ok rq)

end Sys2Proof.Machine
end

