-- ==== Sys2Proof/Machine/Ingress.lean ====
section
/-!
DEFINITION. Machine/Ingress.lean: the ingress checks of a received cell and its way into cell memory (12 R275, 13 R289, 14 R313
to R317, 15 R332, R333; 01 R22, R25), and local delivery with streams, ACKs, NAKs, replay and probes (13 R294 to R301).
-/
namespace Sys2Proof.Machine

open Sys2Proof

/-! ### Ingress checks (12 R275) -/

/-- Check 3: the address rules of R22, and what an unplaced module carries (01 R25). -/
def State.addressBad (s : State) (port : Nat) (c : Cell) : Bool :=
  let d := c.dst.toNat
  let a := c.src.toNat
  let r := (s.port port).role
  d == 0 || a == 0 || decide (0xF000 ≤ a) || (d == 0xFFFF && !(r == .endpoint || r == .twin))
  || (s.unplaced && !(c.tc == tcMgmt && d == 0xFFFF))

/-- Check 4: the cell is of a FENCED source or carries another epoch than the table holds (13 R303, 17 R355). -/
def State.epochBad (s : State) (c : Cell) : Bool :=
  let q := s.party c.src
  q.fenced || c.epo.toNat != q.epoch

/-- Colour that a two-rate meter gives a cell: whether it is colour-aware, the colour it came with, 64 × its size, and the
buckets; with the buckets after it (15 R332). -/
def meterColour (aware : Bool) (clr b tc tp : Nat) : Nat × Nat × Nat :=
  if (aware && clr == 2) || decide (tp < b) then (2, tc, tp)
  else if (aware && clr == 1) || decide (tc < b) then (1, tc, tp - b)
  else (0, tc - b, tp - b)

/-- Check 5: the meter of the port and class writes CLR and counts (15 R332). -/
def State.meterCell (s : State) (port : Nat) (c : Cell) : Nat × State :=
  if c.tc = 0 ∨ 4 < c.tc then (c.clr, s)
  else
    let i := c.tc - 1
    let rate := s.rd (.polRate (4 * port + i))
    let burst := s.rd (.polBurst (4 * port + i))
    let aware := (s.port port).role != .endpoint
    if !rate.getLsbD 40 then (if aware then c.clr else 0, s)
    else
      let x := s.sched port
      let n := s.slotNow - natAt x.meterSlot i
      let r := meterColour aware c.clr (64 * (16 + c.len))
        (min (natAt x.tc i + n * fld rate 0 20) (64 * fld burst 0 24)) (min (natAt x.tp i + n * fld rate 20 20) (64 * fld burst 24 24))
      let t := s.modSched port fun x => { x with tc := natSet x.tc i r.2.1, tp := natSet x.tp i r.2.2,
                                                 meterSlot := natSet x.meterSlot i s.slotNow }
      (r.1, if r.1 = 1 then t.bump (.polYellow port) else if r.1 = 2 then t.bump (.polRed port) else t)

/-- What becomes of a metered cell before it is routed (14 R317, 15 R333); none where it goes on. -/
def State.colourFate (s : State) (port : Nat) (c : Cell) : Option State :=
  let full := decide (s.rdf .cmPoolCfg 20 20 ≤ s.cellsUsed)
  let policed := decide (1 ≤ c.tc) && decide (c.tc ≤ 4)
  if policed && c.clr == 2 && (c.tc == tcExch || c.tc == tcBulk || full) then some (s.bump (.polRedDrop port))
  else if policed && c.clr == 1 && full then some (s.bump .cmYellowDrop)
  else none

/-- A checked cell is routed and written into cell memory; one that nothing takes ends its charge (14 R314), as does a cell of an exchange
that the leaf it passes through discards (04 R98). -/
def State.admitCell (s : State) (port : Nat) (c : Cell) : Option State :=
  let r := if s.inPassing c then s.exchPassing c else (s, true)
  let way := r.1.wayOf (r.1.groupOf (some port)) (some port) c
  let kc := way.keys
  let t := r.1.countWay (some port) c way
  if !r.2 then some (r.1.returnCredit port c.tc)
  else if kc.1.isEmpty && kc.2.isEmpty then some (t.returnCredit port c.tc)
  else
    let u := t.store c (.grant port c.tc) (some port) false (ingressClient port) kc.1 kc.2
    if u.1.isSome then some u.2.spill else none

/-- The ingress checks in their order, then colour, route and cell memory; none while no column has room (14 R308). -/
def State.ingress (s : State) (port : Nat) (b : List Byte) : Option State :=
  let p := s.port port
  let c := Cell.ofBytes b
  if !checkTwo (p.role == .endpoint) b then some (s.bump (.lpHdrDrop port))
  else if natAt p.grant c.tc ≤ s.usedBy (.grant port c.tc) then
    some ((s.bump (.lpCreditOverrun port)).raise evCreditOverrun 0 port)
  else if s.addressBad port c then some ((s.bump .rtUnassignedDrop).returnCredit port c.tc)
  else if s.epochBad c then some ((s.bump .rtStaleDrop).returnCredit port c.tc)
  else
    let m := s.meterCell port c
    let c := { c with clr := m.1 }
    match m.2.colourFate port c with
    | some t => some (t.returnCredit port c.tc)
    | none => m.2.admitCell port c

/-- CELL_RECEIVE. -/
def execCellReceive (port : Nat) (bytes : List Byte) (s : State) : Host.Outcome State Fault Refusal :=
  .next (
    if !s.linkUp port ∨ bytes.length ≠ 256 then s
    else
      match (s.modPort port fun p => { p with rxCells := p.rxCells.erase bytes }).ingress port bytes with
      | some t => t
      | none => s)

/-- ADAPTIVE_EGRESS_CHOICE: a waiting cell takes the first candidate that can send it; without a candidate in service it is
discarded (13 R289). -/
def execAdaptiveEgressChoice (ptr : Nat) (s : State) : Host.Outcome State Fault Refusal :=
  .next (
    match s.cm.waiting.find? (fun e => e.1 == ptr), s.cellSlot ptr with
    | some e, some x =>
      let off := fun (t : State) => { t with cm := { t.cm with waiting := t.cm.waiting.filter fun w => w.1 != ptr } }
      let up := e.2.filter fun p => (s.port p).state == .up
      match up with
      | [] => (((off s).bump .rtNoRoute).dropRef ptr).spill
      | _ :: _ =>
        match up.find? fun q => s.grantOk x.port q x.cell.tc with
        | none => s
        | some q => ((off s).countEgress x.port x.cell q).enqueue (.egress q x.cell.tc) ptr
    | _, _ => s)

/-! ### Receive streams (13 R294 to R297) -/

/-- Distance of a SEQ ahead of another, modulo 2²⁴. -/
def seqAhead (a b : Nat) : Nat := (a + 2 ^ 24 - b) % 2 ^ 24

/-- A stream has this SEQ already. -/
def RxStream.has (r : RxStream) (n : Nat) : Bool := decide (2 ^ 23 ≤ seqAhead n r.base) || r.above.contains n

/-- Advances past the SEQs that have arrived. -/
def RxStream.advanceAux : Nat → RxStream → RxStream
  | 0, r => r
  | f + 1, r =>
    if r.above.contains r.base then
      RxStream.advanceAux f { r with above := r.above.erase r.base, base := (r.base + 1) % 2 ^ 24 }
    else r

/-- Entries in the hold table (13 R296). -/
def State.holdUsed (s : State) : Nat := (s.rt.rx.map fun e => e.2.held.length).sum

/-- Entries of the hold table. -/
def holdEntries : Nat := 16384

/-- ACK_STRIDE; 0 acts as 1. -/
def State.ackStride (s : State) : Nat := max 1 (s.rdf .rtCtl 32 12)

/-- STEP for an ACK or NAK of a stream: that of its head, else of the open slot; where neither is known, and for a transfer,
a free value (log 5). -/
def State.streamStep (s : State) (k : StreamKey) : Nat × State :=
  match Assoc.find k s.rt.rx with
  | some ⟨some g, _, _, _, _, _, _, _⟩ => (g, s)
  | _ =>
    let v := s.slot k.2
    if v.state = .opened then (v.step, s)
    else ((s.draw.1 % 2 ^ 64), s.draw.2)

/-- Sends an ACK of a receive stream. -/
def State.ackStream (s : State) (k : StreamKey) : State :=
  let (g, t) := s.streamStep k
  match Assoc.find k t.rt.rx with
  | none => t
  | some r =>
    let t := { t with rt := { t.rt with rx := Assoc.set k { r with lastAck := r.base } t.rt.rx } }
    t.sendAck k r.base 0 g

/-- The messages that are complete: each runs up to a flagged cell whose earlier cells have all arrived (13 R295, 04 R81). -/
def RxStream.completeAux : Nat → RxStream → List (List Cell) → RxStream × List (List Cell)
  | 0, r, out => (r, out)
  | f + 1, r, out =>
    match r.held.find? (fun n => decide (2 ^ 23 ≤ seqAhead n r.base) && (r.held.all fun m => decide (seqAhead n r.done ≤ seqAhead m r.done))) with
    | none => (r, out)
    | some n =>
      let count := seqAhead n r.done + 1
      let msg := (List.range count).filterMap fun i =>
        (r.cells.find? fun e => e.1 == (r.done + i) % 2 ^ 24).map (·.2)
      let keep := r.cells.filter fun e => decide (count ≤ seqAhead e.1 r.done)
      RxStream.completeAux f { r with held := r.held.erase n, cells := keep, done := (n + 1) % 2 ^ 24 } (out ++ [msg])

/-- The stream record that a cell belongs to: a write head whose STEP is another than its stream's begins a stream of another
instance (13 R294). -/
def State.streamFor (s : State) (c : Cell) : RxStream :=
  let r := Assoc.get (RxStream.new none) (c.src, c.hdl) s.rt.rx
  if c.kind = kData ∧ c.len = 24 ∧ c.seq = 0 ∧ r.step.isSome ∧ r.step ≠ some c.stepAt then RxStream.new none else r

/-- Every data cell of a message but its last holds 240 bytes (04 R81, R90). -/
def cellsEven (msg : List Cell) : Bool := ((msg.drop 1).dropLast).all fun c => c.len == 240

/-- The head cell has LEN 40 and its reserved bytes are 0 (04 R82, 05 R115). -/
def headEven (msg : List Cell) : Bool :=
  match msg with
  | [] => true
  | c :: _ => c.len == 40 && (if c.kind = kMirror then zeroAt c.payload 28 32 else zeroAt c.payload 30 32)

/-- A transfer message whose head keeps its table (12 R283). -/
def transferEven (msg : List Cell) : Bool :=
  cellsEven msg && transferOk (((msg.head?).map fun c => c.payload.take c.len).getD []) ((msg.drop 1).flatMap fun c => c.payload.take c.len)

/-- A transfer message that breaks its table is discarded and counts, and its transfer fails: the heal with its tag, or the resilver
that this module receives (12 R283). -/
def State.transferDrop (s : State) (k : StreamKey) : State :=
  let t := s.bump .plnSigMismatch
  if k.2 = 1#20 then (if t.mem.resilver.any fun r => !r.carrying then t.resilverFails else t)
  else
    match t.mem.heals with
    | h :: _ => if h.sent ∧ k.1 = t.twin.fa ∧ BitVec.ofNat 20 h.tag = k.2 then t.healFails h else t
    | [] => t

/-- A message whose head or cells break their form is a mismatch (04 R82, R90, R97; 05 R115). -/
def State.messageIn (s : State) (k : StreamKey) (msg : List Cell) : State :=
  if (msg.head?).any (fun c => c.kind == kResp) && !transferEven msg then s.transferDrop k
  else
  let judged := (msg.head?).any fun c => c.kind != kData && c.kind != kResp
  if !judged || (cellsEven msg && headEven msg) then { s with rt := { s.rt with inbox := s.rt.inbox ++ [(k.1, k.2, msg)] } }
  else if (s.slot k.2).state ≠ .opened then s.bump .plnSigMismatch
  else s.mismatch k.2 k.1

/-- The first head that an input sends for a chunk (04 R102): CONTRIB, a STORE chunk, the first EXPS, or the PSUM of a fold without
phase A. -/
def firstHead (k : Coll) (v : Slot) (src : FA) (h : Head) : Bool :=
  let m := h.msg.toNat
  m == msgContrib || m == msgExch || (m == msgExps && !(v.credits.contains (src, h.chunk))) || (m == msgPsum && k.rounds == 0)

/-- A head of an instance as a cell spells it: LEN 40, with the plan's signature. -/
def Cell.headOf (p : Plan) (c : Cell) : Option Head :=
  if c.len = 40 ∧ c.kind ≠ kMirror ∧ leAt c.payload 0 8 = p.sig.toNat then some (Head.ofBytes c.payload) else none

/-- Staging credits of an input in use: those that hold a chunk, and first heads that have come and are not yet acted on. -/
def State.creditsUsed (s : State) (p : Plan) (k : Coll) (v : Slot) (src : FA) (hdl : BitVec 20) : Nat :=
  let first := fun (c : Cell) => (c.headOf p).any (firstHead k v src)
  let waiting := (s.rt.inbox.filter fun e => e.1 == src && e.2.1 == hdl).flatMap (·.2.2)
  let under := (Assoc.get (RxStream.new none) (src, hdl) s.rt.rx).cells.map (·.2)
  (v.credits.filter fun e => e.1 == src).length + ((waiting ++ under).filter first).length

/-- A first head comes without a credit (04 R102): it is discarded as it arrives, so that its replay can be taken. -/
def State.uncredited (s : State) (c : Cell) : Bool :=
  match s.plan (planOf c.hdl) with
  | none => false
  | some p =>
    match p.coll, c.headOf p with
    | some k, some h =>
      let v := s.slot c.hdl
      let takes := k.folds || k.kind == kBarrier || k.kind == kAllGather || k.kind == kBroadcast || p.seqn.isSome
      takes && v.state == .opened && firstHead k v c.src h && decide (k.credits ≤ s.creditsUsed p k v c.src c.hdl)
    | _, _ => false

/-- A cell joins its stream (13 R294 to R297). -/
def State.joinStream (s : State) (c : Cell) : State :=
  let k : StreamKey := (c.src, c.hdl)
  let r := s.streamFor c
  if r.has c.seq then
    ({ s with rt := { s.rt with rx := Assoc.set k r s.rt.rx } }.bump .rtDup).ackStream k
  else if c.fl ∧ holdEntries ≤ s.holdUsed then s.bump .rtHoldFull
  else if s.uncredited c then s.bump .plnCreditDrop
  else
    let step := if c.seq = r.done ∧ c.kind ≠ kResp ∧ 16 ≤ c.len then some c.stepAt else r.step
    let r := { r with step := step, above := c.seq :: r.above, cells := r.cells ++ [(c.seq, c)],
                      held := if c.fl then r.held ++ [c.seq] else r.held, naks := 0 }
    let r := RxStream.advanceAux r.above.length r
    let (r, msgs) := RxStream.completeAux r.held.length r []
    let t := msgs.foldl (fun t m => t.messageIn k m) { s with rt := { s.rt with rx := Assoc.set k r s.rt.rx } }
    if !msgs.isEmpty ∨ s.ackStride ≤ seqAhead r.base r.lastAck then t.ackStream k else t

/-! ### What a stream cell meets at this module (04 R78, R99; 05 R115) -/

/-- Where a stream cell goes. -/
inductive Fate where
  | stream
  | alone
  | unlaunched
  | late
  deriving DecidableEq, Repr

/-- At a CLOSED slot (04 R99, R451; 05 R115; 08 R201): an END is taken by its head, a MIRROR head or a head of another step
begins a stream, cells of such a stream follow, and the rest is late. A cell where a message begins is a head whatever its
signature, which is compared with the message (R97). -/
def State.closedFate (s : State) (p : Plan) (v : Slot) (c : Cell) : Fate :=
  let g := c.stepAt
  let signed := leAt c.payload 0 8 == p.sig.toNat
  let head := c.len == 40 && (signed || c.seq == (s.streamFor c).done)
  let isEnd := c.kind == kResult && head && signed && byteAt c.payload 24 == msgEnd
  let opens :=
    if c.kind = kData then c.len == 24 && c.seq == 0 && g != v.step
    else head && g != v.step
  if isEnd then .alone
  else if opens then .stream
  else if (Assoc.find (c.src, c.hdl) s.rt.rx).isSome && !(head && c.kind != kMirror) then .stream
  else .late

/-- The fate of a cell of a stream. -/
def State.cellFate (s : State) (c : Cell) : Fate :=
  if c.kind = kResp then .stream
  else
    match s.plan (planOf c.hdl) with
    | none => .unlaunched
    | some p =>
      let v := s.slot c.hdl
      let own := s.isLeafOf c.src
      let fresh := v.state == .closed && (if c.kind = kData then c.len == 24 && c.seq == 0 else c.len == 40) && c.stepAt != v.step
      if own && (!(v.joined.contains c.src && v.state != .free) || fresh) then .unlaunched
      else if v.state = .closed then s.closedFate p v c
      else .stream

/-- LOCAL_CELL_DELIVER: the head of an engine port's queue is delivered once the engine client has read its last slice (14 R308).
CTRL and READ cells wait for firmware or the link hardware, other cells join their stream. -/
def execLocalCellDeliver (ep : Nat) (cls : Nat) (s : State) : Host.Outcome State Fault Refusal :=
  .next (
    if !s.engines then s
    else
      match (s.readWindow (engineClient ep)).find? fun e => e.1 == cls with
      | none => s
      | some e =>
        let ptr := e.2.1
        if s.clk.cycle < e.2.2.2 then s
        else
          let c := e.2.2.1
          let t := s.setWindow (engineClient ep) ((s.readWindow (engineClient ep)).erase e)
          let t := t.setQueue (.toEngine ep cls) ((t.queue (.toEngine ep cls)).drop 1)
          let t := ((t.dropRef ptr).fillWindow ep).admitBlocked
          let alone := { t with rt := { t.rt with inbox := t.rt.inbox ++ [(c.src, c.hdl, [c])] } }
          if c.kind = kCtrl ∨ c.kind = kRead then alone
          else
            match t.cellFate c with
            | .stream => t.joinStream c
            | .alone => alone
            | .unlaunched => t.bump .plnUnlaunchedDrop
            | .late => t.bump .plnLateDrop)

/-! ### NAK, probe, ACK, replay (13 R298 to R300) -/

/-- Firmware treats the silent party of a lost stream as failed: an endpoint of this node is fenced by the twin that decides for
the node, a module other than the twin ends the instances whose trees use it (13 R299, 17 R350, 04 R101). -/
def State.partyFailed (s : State) (fa : FA) : State :=
  if !s.firmware then s
  else
    match s.member fa with
    | none => s
    | some m =>
      if m.isMod then
        if fa = s.twin.fa then s else s.openHdls.foldl (fun t h => t.treeLost h fa) s
      else if s.ownNode m && (!s.planeB || s.led.solo) then s.fenceParty fa
      else s

/-- Runs of NAKs or probes that end a stream. -/
def giveUp : Nat := 16

/-- STREAM_LOST (13 R299). -/
def State.streamLost (s : State) (fa : FA) (hdl : BitVec 20) : State :=
  ((s.raise evStreamLost hdl.toNat fa.toNat).bump .rtStreamLost).partyFailed fa

/-- The ranges missing in a stream below a SEQ, lowest first: scans n SEQs from the base. -/
def missingAux (r : RxStream) : Nat → Nat → List (Nat × Nat) → List (Nat × Nat)
  | 0, _, out => out.reverse
  | f + 1, i, out =>
    let n := (r.base + i) % 2 ^ 24
    if r.above.contains n then missingAux r f (i + 1) out
    else
      match out with
      | (a, k) :: t =>
        if (a + k) % 2 ^ 24 = n then missingAux r f (i + 1) ((a, k + 1) :: t)
        else if t.length < 7 then missingAux r f (i + 1) ((n, 1) :: out)
        else out.reverse
      | [] => missingAux r f (i + 1) [(n, 1)]

/-- Up to eight missing ranges below the highest held flagged cell (13 R299 step 1). -/
def RxStream.missing (r : RxStream) : List (Nat × Nat) :=
  missingAux r ((r.held.map fun n => seqAhead n r.base).foldl max 0) 0 []

/-- NAK_TIMER: one NAK each time for as long as the stream holds a flagged cell; the sixteenth in a row gives up (13 R299). -/
def execNakTimer (src : FA) (hdl : BitVec 20) (s : State) : Host.Outcome State Fault Refusal :=
  .next (
    match Assoc.find (src, hdl) s.rt.rx with
    | none => s
    | some r =>
      if !s.engines ∨ r.held.isEmpty then s
      else
        let (g, t) := s.streamStep (src, hdl)
        let t := { t with rt := { t.rt with rx := Assoc.set (src, hdl) { r with naks := r.naks + 1 } t.rt.rx } }
        let t := (t.sendCtrl src kCtrl tcMgmt hdl (payNak g r.missing)).bump .rtNak
        if r.naks + 1 = giveUp then t.streamLost src hdl else t)

/-- Sends a retained cell again: AGE and CLR 0, the current epoch (13 R299 step 2, R300). -/
def State.replayCell (s : State) (dst : FA) (c : Cell) : State :=
  ((s.output { c with dst := dst, age := 0, clr := 0, epo := s.ownEpoch } false).2.bump .ndReplay).spill

/-- A resend of a cell still waits to leave: a NAK for it is satisfied by that resend (13 R299 step 2). -/
def State.resending (s : State) (dst : FA) (c : Cell) : Bool :=
  let same := fun (x : Cell) => x.src == c.src && x.dst == dst && x.hdl == c.hdl && x.seq == c.seq && x.kind == c.kind
  (s.cm.slots.any fun x => !x.retained && x.refs != 0 && same x.cell) || s.cm.blocked.any fun e => !e.2 && same e.1

/-- The retained cell of the highest SEQ among those a test names. -/
def TxStream.top (v : TxStream) (p : Retained → Bool) : Option Retained :=
  (v.retained.filter p).foldl (fun (b : Option Retained) r =>
    match b with
    | none => some r
    | some x => if seqAhead x.cell.seq v.nextSeq < seqAhead r.cell.seq v.nextSeq then some r else some x) none

/-- Cells of a stream that stand in SPILL are read there (13 R298, 14 R316; 11 R258). -/
def State.fetchSpilled (s : State) (v : TxStream) (hdl : BitVec 20) : State :=
  if v.retained.any fun r => r.ptr.isNone then s.fetchObject 6 [hdl.toNat] else s

/-- PROBE_TIMER. -/
def execProbeTimer (dst : FA) (hdl : BitVec 20) (s : State) : Host.Outcome State Fault Refusal :=
  .next (
    match s.tx (dst, hdl) with
    | none => s
    | some v =>
      let pick := match v.top fun r => r.cell.fl with
        | some r => some r
        | none => v.top fun _ => true
      match pick with
      | none => s
      | some r =>
        if !s.engines then s
        else
          let s := s.fetchSpilled v hdl
          if (s.tx (dst, hdl)) ≠ some v then s
          else
          let t := (s.setTx (dst, hdl) { v with probes := v.probes + 1 }).replayCell dst r.cell
          if v.probes + 1 = giveUp then t.streamLost dst hdl else t)

/-- The stream that a receiver's ACK or NAK is about: the one sent to it, or to a group it belongs to. -/
def State.streamTo (s : State) (src : FA) (hdl : BitVec 20) : Option StreamKey :=
  match s.tx (src, hdl) with
  | some _ => some (src, hdl)
  | none => (s.rt.tx.find? fun e => e.1.2 == hdl && decide (0xF000 ≤ e.1.1.toNat) &&
      (Config.groupMembers e.1.1.toNat s.rt.gen).contains src.toNat).map (·.1)

/-- The STEP of an ACK or NAK names the stream's instance; a transfer has none. -/
def TxStream.names (v : TxStream) (hdl : BitVec 20) (step : Nat) : Bool := decide (hdl.toNat < 256) || v.step == step

/-- ACK_RECEIVE: covered cells are released, credits come back, and what waited goes out (13 R298, 04 R102). -/
def execAckReceive (src : FA) (hdl : BitVec 20) (ackSeq : BitVec 24) (credits : Nat) (step : Nat) (s : State) :
    Host.Outcome State Fault Refusal :=
  .next (
    if !s.engines then s
    else
      let s := s.takeCtrl src 0x05
      let t : State := match s.streamTo src hdl with
        | none => s
        | some k =>
          match s.tx k with
          | none => s
          | some v =>
            if !v.names hdl step then s
            else
              let marked := v.retained.map fun (r : Retained) =>
                if 2 ^ 23 ≤ seqAhead r.cell.seq ackSeq.toNat ∧ !(r.acked.contains src) then { r with acked := r.acked ++ [src] } else r
              let t := (s.setTx k { v with retained := marked, probes := 0 }).release k fun r => s.allAcked k.1 r.acked
              (t.pump k).admitBlocked
      match t.plan (planOf hdl) with
      | none => t
      | some p =>
        let v := t.slot hdl
        let t := match p.coll with
          | some k => if v.state = .opened ∧ v.step = step ∧ 0 < credits then t.creditBack hdl k.credits src credits else t
          | none => t
        if v.state = .opened ∧ !p.queues.isEmpty ∧ t.queuesFinished hdl p then t.progress hdl else t)

/-- The ranges of a NAK list a SEQ. -/
def inRanges (ranges : List (Nat × Nat)) (n : Nat) : Bool := ranges.any fun r => decide (seqAhead n r.1 < r.2)

/-- NAK_RECEIVE: every listed cell still retained goes to the receiver again, in SEQ order (13 R299 step 2, R300). -/
def execNakReceive (src : FA) (hdl : BitVec 20) (step : Nat) (ranges : List (Nat × Nat)) (s : State) :
    Host.Outcome State Fault Refusal :=
  .next (
    if !s.engines then s
    else
      let s := s.takeCtrl src 0x06
      match s.streamTo src hdl with
      | none => s
      | some k =>
        match s.tx k with
        | none => s
        | some v =>
          if !v.names hdl step then s
          else
            let s := s.fetchSpilled v hdl
            let v := (s.tx k).getD { v with retained := [] }
            let cells := sortBy (fun (a b : Cell) => decide (seqAhead a.seq v.nextSeq < seqAhead b.seq v.nextSeq))
              ((v.retained.map (·.cell)).filter fun c => inRanges ranges c.seq)
            (cells.filter fun c => !s.resending src c).foldl (fun t c => t.replayCell src c) s)

end Sys2Proof.Machine
end

