-- ==== Sys2Proof/Machine/Egress.lean ====
section
/-!
DEFINITION. Machine/Egress.lean: the egress scheduler, ageing, rate limits and time gates (14 R319, R320; 15 R322 to R331).
-/
namespace Sys2Proof.Machine

open Sys2Proof

/-! ### Ageing (14 R319, R320) -/

/-- AGE of a copy that leaves cell memory. -/
def agedTo (age tOut tIn : Nat) : Nat := min 0x3FFF (age + (tOut - tIn + 1024) / 2048)

/-- A copy is too old for its class, or for any class. -/
def State.tooOld (s : State) (tc age : Nat) : Bool :=
  let lim := s.cmf (.cmClassCfg tc) 16 14
  (lim != 0 && decide (min lim 15625 < age)) || decide (15625 < age)

/-- End of the first data slot at or after 64 cycles from now and after the frame slot predicted last (15 R330). -/
def State.predictEnd (s : State) (port : Nat) : Nat :=
  let n := s.slotFrom port (max ((s.clk.cycle + 64) * 1799) (s.sched port).frameEnd)
  s.framePhase port + (dataSlotFrom n + 1) * (s.port port).frameTime

/-! ### Gates (15 R328 to R331) -/

/-- The gate is open for a class: TC0 and TC6 always, the others as the entry says once it runs; before the grid starts every
class is open (log 15). -/
def State.gateOpen (s : State) (port tc : Nat) : Bool :=
  let x := s.sched port
  !s.gateOn port || tc == 0 || tc == 6 ||
  (match x.entry with
   | none => true
   | some i => decide (x.gFrom ≤ s.slotNow) && (x.gates.getD i ⟨1, 0x1F#5⟩).opens.getLsbD (tc - 1))

/-- The predicted frame ends before the entry does (15 R330). -/
def State.gateFits (s : State) (port : Nat) : Bool :=
  let x := s.sched port
  !s.gateOn port || x.entry.isNone || decide (s.predictEnd port ≤ x.gTill * slotUnits)

/-- Classes that an entry closes. -/
def GateEntry.closed (e : GateEntry) : List Nat := [1, 2, 3, 4, 5].filter fun tc => !e.opens.getLsbD (tc - 1)

/-- An entry begins: classes it opens that the gate held wake (15 R326), those it closes are held. -/
def Sched.begin (x : Sched) (i gFrom gTill delay : Nat) : Sched :=
  let closed := (x.gates.getD i ⟨1, 0x1F#5⟩).closed
  let y := (x.held.filter fun tc => !(closed.contains tc)).foldl Sched.wake x
  { y with entry := some i, gFrom := gFrom, gTill := gTill, delay := delay, held := closed }

/-- The gate is off or its grid has not begun: what it held wakes. -/
def Sched.open (x : Sched) : Sched :=
  { x.held.foldl Sched.wake x with entry := none, gFrom := 0, gTill := 0, delay := 0, held := [] }

/-- Slots of a cycle of entries 0 to LAST. -/
def gateCycle (l : List GateEntry) (last : Nat) : Nat := ((l.take (last + 1)).map (·.dur)).sum

/-- The entry that runs at an offset within a cycle, with the offset of its beginning. -/
def gateAt : List GateEntry → Nat → Nat → Nat → Option (Nat × Nat × Nat)
  | [], _, _, _ => none
  | e :: t, i, start, off => if off < start + e.dur then some (i, start, start + e.dur) else gateAt t (i + 1) (start + e.dur) off

/-- Puts the gate on its grid at the slot that is running (15 R328). -/
def Sched.onGrid (x : Sched) (last start now : Nat) : Sched :=
  let c := gateCycle x.gates last
  if now < start ∨ c = 0 then x.open
  else
    let base := start + (now - start) / c * c
    match gateAt (x.gates.take (last + 1)) 0 0 (now - base) with
    | some (i, a, b) => x.begin i (base + a) (base + b) 0
    | none => x.open

/-- A write of SCH_GATE_CTL (15 R329). -/
def State.gateCtl (s : State) (port : Nat) (value : Word) : State :=
  let v := value &&& 0xFFFFFFFFFFFF007F#64
  let last := fld v 1 6
  if v.getLsbD 0 ∧ !gateListOk ((s.sched port).gates.take (last + 1)) then s.raise evGateCfgBad 0 port
  else
    let was := s.gateOn port
    let same := was && v.getLsbD 0 && s.rd (.schGateCtl port) == v
    let t := s.wr (.schGateCtl port) v
    if same then t
    else t.modSched port fun x =>
      let d := if was = v.getLsbD 0 then x.delay else 0
      let y := if v.getLsbD 0 then x.onGrid last (fld v 16 48) s.slotNow else x.open
      { y with delay := d, late := if was = v.getLsbD 0 then x.late else none }

/-- GATE_CTL_WRITE. -/
def execGateCtlWrite (port : Nat) (value : Word) (s : State) : Host.Outcome State Fault Refusal :=
  .next (if s.pwr.unpowered ∨ 48 ≤ port then s else s.gateCtl port value)

/-- A slot begins a cycle of a gate list (15 R328). -/
def GateLoad.starts (g : GateLoad) (now : Nat) : Bool :=
  decide (g.start ≤ now) && (now - g.start) % max 1 (gateCycle g.entries g.last) == 0

/-- GATE_LIST_ACTIVATE: the list that GATE_CONFIG left takes effect at a grid start (15 R328). -/
def execGateListActivate (port : Nat) (s : State) : Host.Outcome State Fault Refusal :=
  .next (
    match (s.sched port).load with
    | none => s
    | some g =>
      if !s.engines ∨ (g.en ∧ !g.starts s.slotNow) then s
      else
        let t := s.wr (.schGateCtl port) (BitVec.ofNat 64 (b2n g.en + 2 * g.last + 2 ^ 16 * g.start))
        t.modSched port fun x =>
          let y := { x with gates := g.entries ++ x.gates.drop (g.last + 1), load := none }
          if g.en then
            let z := y.onGrid g.last g.start s.slotNow
            { z with delay := 0, late := none }
          else y.open)

/-- GATE_ENTRY_BOUNDARY: the next entry begins where this one ends, later by what the delay takes of it (15 R330, R331). -/
def execGateEntryBoundary (port : Nat) (s : State) : Host.Outcome State Fault Refusal :=
  .next (
    let x := s.sched port
    let last := s.rdf (.schGateCtl port) 1 6
    if !s.engines ∨ !s.gateOn port then s
    else
      match x.entry with
      | none => s.modSched port fun x => x.onGrid last (s.rdf (.schGateCtl port) 16 48) s.slotNow
      | some i =>
        if s.slotNow < x.gTill then s
        else
          let j := if i < last then i + 1 else 0
          let dur := (x.gates.getD j ⟨1, 0x1F#5⟩).dur
          let take := min x.delay (dur / 2)
          s.modSched port fun x => x.begin j (x.gTill + take) (x.gTill + dur) (x.delay - take))

/-! ### Eligible queues (15 R322 to R327) -/

/-- Charged length of a cell (15 R324). -/
def State.charged (s : State) (port : Nat) (c : Cell) : Nat := 16 + c.len + s.rdf (.schPortCfg port) 0 8

/-- Weight of a weighted class; 0 acts as 1 (15 R325). -/
def State.weight (s : State) (port tc : Nat) : Nat :=
  max 1 (s.rdf (.schPortCfg port) (if tc = 1 then 8 else if tc = 3 then 16 else if tc = 4 then 24 else 32) 8)

/-- RATE of a class in effect: 0 for none, 1 to 7 as 8 (15 R327). -/
def State.rate (s : State) (port tc : Nat) : Nat :=
  if tc = 0 ∨ 5 < tc then 0
  else
    let r := s.rdf (.schRate (5 * port + tc - 1)) 0 20
    if r = 0 then 0 else max 8 r

/-- The class is within its rate limit: not limited, or not parked. -/
def State.inRate (s : State) (port tc : Nat) : Bool :=
  s.rate port tc == 0 || !((s.sched port).parked.contains tc)

/-- The head cell of an egress queue. -/
def State.headCell (s : State) (port tc : Nat) : Option (Nat × CellSlot) :=
  match s.queue (.egress port tc) with
  | [] => none
  | ptr :: _ => (s.cellSlot ptr).map fun x => (ptr, x)

/-- A queue may send its head now (15 R322). -/
def State.eligible (s : State) (port tc : Nat) : Bool :=
  match s.headCell port tc with
  | none => false
  | some (_, x) =>
    s.grantOk x.port port tc && s.gateOpen port tc && !((s.sched port).held.contains tc) && s.gateFits port && s.inRate port tc

/-- A virtual time lies before another: their 64-bit difference is negative (15 R325). -/
def tagBefore (a b : Nat) : Bool := decide (2 ^ 63 ≤ (a + 2 ^ 64 - b) % 2 ^ 64)

/-- Finish tag of a weighted queue's head. -/
def State.finishTag (s : State) (port tc : Nat) (c : Cell) : Nat :=
  (natAt (s.sched port).stags ((weightedIx tc).getD 0) + s.charged port c * 65536 / s.weight port tc) % 2 ^ 64

/-- The class that the scheduler takes (15 R323, R325). -/
def State.pickClass (s : State) (port : Nat) : Option Nat :=
  match [6, 0, 2].find? (s.eligible port) with
  | some tc => some tc
  | none =>
    (([1, 3, 4, 5].filter (s.eligible port)).foldl (fun (b : Option (Nat × Nat)) tc =>
      match s.headCell port tc with
      | none => b
      | some (_, x) =>
        let f := s.finishTag port tc x.cell
        match b with
        | none => some (tc, f)
        | some (_, g) => if tagBefore f g then some (tc, f) else b) none).map (·.1)

/-- What a selection charges: tags of the weighted group, rate time and wheel, predicted frame (15 R325, R327, R330). -/
def State.chargeSelect (s : State) (port tc : Nat) (c : Cell) : State :=
  let fin := s.finishTag port tc c
  let r := s.rate port tc
  let stop := s.predictEnd port
  let len := s.charged port c
  s.modSched port fun x =>
    let x := match weightedIx tc with
      | some i => { x with vtime := fin, stags := natSet x.stags i fin }
      | none => x
    let x := if r = 0 then x
      else
        let tr := max (natAt x.tr (tc - 1)) (s.slotNow * 65536) + len * 64 * 65536 / r
        { x with tr := natSet x.tr (tc - 1) tr
                 parked := if s.slotNow < tr / 65536 ∧ !(x.parked.contains tc) then x.parked ++ [tc] else x.parked }
    { x with frameEnd := stop }

/-- One selection; aged entries are discarded on the way (14 R319, R320). -/
def State.selectAux (port : Nat) : Nat → State → State
  | 0, s => s
  | n + 1, s =>
    match s.pickClass port with
    | none => s
    | some tc =>
      match s.headCell port tc with
      | none => s
      | some (ptr, x) =>
        let t := s.setQueue (.egress port tc) ((s.queue (.egress port tc)).drop 1)
        let age := agedTo x.cell.age s.clk.cycle x.tIn
        if s.tooOld tc age then State.selectAux port n ((t.dropRef ptr).bump (.cmAgeDrop tc))
        else
          let u := (t.chargeSelect port tc x.cell).modPort port fun p => { p with sent := natSet p.sent tc ((natAt p.sent tc + 1) % 2 ^ 32) }
          let u := { u with cm := { u.cm with ends := Assoc.set (port, ptr) (u.sched port).gTill u.cm.ends } }
          (u.select (egressClient port) port ptr { x.copy (.egress port tc) with age := age }).tookCopy ptr (.egress port tc)

/-- Queues whose cell does not fit before the entry ends wait for an entry that opens their class (15 R330). -/
def State.holdMisfits (s : State) (port : Nat) : State :=
  if s.gateFits port then s
  else
    let l := (List.range 7).filter fun tc => (s.headCell port tc).isSome && s.gateOpen port tc && !((s.sched port).held.contains tc)
    s.modSched port fun x => { x with held := x.held ++ l }

/-- SCHEDULER_SELECT. -/
def execSchedulerSelect (port : Nat) (s : State) : Host.Outcome State Fault Refusal :=
  .next (
    if !s.linkUp port ∨ windowRoom ≤ (s.readWindow (egressClient port)).length then s
    else
      let t := s.holdMisfits port
      (State.selectAux port (((List.range 7).map fun tc => (t.queue (.egress port tc)).length).sum) t).admitBlocked)

/-- RATE_WHEEL_WAKE: the wheel slot of a parked class comes round (15 R327). -/
def execRateWheelWake (port : Nat) (cls : Nat) (s : State) : Host.Outcome State Fault Refusal :=
  .next (
    let x := s.sched port
    if s.engines ∧ x.parked.contains cls ∧ natAt x.tr (cls - 1) / 65536 ≤ s.slotNow then
      s.modSched port fun x => { x.wake cls with parked := x.parked.filter fun c => c != cls }
    else s)

/-- Frames that a port may hold unacknowledged (12 R273). -/
def replayFrames : Nat := 256

/-- CELL_TRANSMIT: the oldest selected cell of a port leaves in a data frame once its last slice is read; `overrun` is by how many
slots its frame ends after the entry it was selected in (14 R308, 12 R273, 15 R331). -/
def execCellTransmit (port : Nat) (overrun : Nat) (s : State) : Host.Outcome State Fault Refusal :=
  .next (
    let p := s.port port
    let w := s.readWindow (egressClient port)
    match w.find? fun e => e.1 == port with
    | none => s
    | some e =>
      if !s.linkUp port ∨ replayFrames ≤ p.replay.length ∨ s.clk.cycle < e.2.2.2 then s
      else
        let grid := Assoc.get 0 (port, e.2.1) s.cm.ends
        let t := s.setWindow (egressClient port) (w.erase e)
        let t := { t with cm := { t.cm with ends := Assoc.del (port, e.2.1) t.cm.ends } }
        let t := (t.modPort port fun p => { p with
          replay := p.replay ++ [(p.txFseq, e.2.2.1)], txFseq := (p.txFseq + 1) % 2 ^ 16 }).sendData port p.txFseq e.2.2.1
        let t := t.modSched port fun x => { x with
          frames := (x.frames.drop (x.frames.length + 1 - replayFrames)) ++ [(p.txFseq, grid)] }
        ((t.dropRef e.2.1).admitBlocked).endsLate port grid overrun)

end Sys2Proof.Machine
end

