-- ==== Sys2Proof/Machine/Resets.lean ====
section
/-!
DEFINITION. Machine/Resets.lean: engine, module and cold resets and what each wipes (21 R430, 20 R416, 14 R321).
-/
namespace Sys2Proof.Machine

open Sys2Proof

/-! ### Engine reset -/

/-- Frees every cell slot; a cell still charged to a grant counts in CRED (14 R321). -/
def State.wipeCells (s : State) : State :=
  let t := s.cm.slots.foldl (fun t x => match x.charge with
    | .grant p tc => t.returnCredit p tc
    | _ => t) s
  { t with cm := CellMem.reset }

/-- Clears the hold table, stream records and retained cells; numbering stays for the ENDs still to be sent (13, 21 R430). -/
def State.emptyStreams (s : State) : State :=
  { s with rt := { s.rt with
    rx := []
    inbox := []
    tx := s.rt.tx.map fun ((k, v) : (FA × BitVec 20) × TxStream) => (k, { v with unsent := [], retained := [] }) } }

/-- Counters of the engines: CM, FE, VE, SE, MX, PLN and TOK. -/
def Ctr.ofEngine (c : Ctr) : Bool := [4, 7, 8, 9, 10, 15, 16].contains (c.addr.1 / 0x10000)

/-- What an engine reset leaves of plans and instances: the descriptor table, kernel memory, queue contexts, route records,
buckets, staging and sequence reservations are gone (06, 07, 08, 09 R215; log 39). -/
def Plans.engineReset (p : Plans) : Plans :=
  { p with
    plans := p.plans.map fun (e : Nat × Plan) =>
      (e.1, { e.2 with descs := [], queues := e.2.queues, kernels := [], workKib := 0 })
    progs := [], waiting := [], staged := [], disp := [], sparse := [], buckets := [], ctxs := [] }

/-- An engine reset (21 R430): OPEN instances end ABORTED with END, then engines, cell and working memory are wiped. -/
def State.engineReset (s : State) : State :=
  let t := s.wipeCells.emptyStreams
  let t := t.openHdls.foldl (fun t h => t.endNow h stAborted []) t
  let t := t.clearCtrs Ctr.ofEngine
  let t := ((t.wr .veCtl 0).wr .veTrap 0).wr .tokWaitLimit Reg.tokWaitLimit.resetVal
  { t with
    rt := { t.rt with tx := [], inbox := [] }
    pl := t.pl.engineReset
    led := { t.led with held := [] }
    mem := { t.mem with work := [], cells := [] } }

/-! ### Module and cold resets -/

/-- Counters of the always-on domain. -/
def Ctr.ofPower (c : Ctr) : Bool := c == .pwrTrip || c == .pwrThermTrip

/-- Firmware and flash after a reset: images, valid marks and the boot choice stay. -/
def Firmware.afterReset (f : Firmware) : Firmware := { Firmware.reset with active := f.active, slots := f.slots }

/-- Lapis after a reset: OTP, keys and certificates stay. -/
def Security.afterReset (x : Security) : Security :=
  { x with cfgGen := none, devkeyOk := false, bootSlot := false, fallback := false, loaded := false
           m1 := zeros 48, m7 := zeros 48 }

/-- Module memory after a reset: wiped; the remap table and the training record stay (20 R416). -/
def Mem.afterReset (m : Mem) : Mem := { Mem.reset with remap := m.remap, used := m.used, record := m.record }

/-- A module reset with its LAST_RESET code: everything but the always-on domain (21 R430). -/
def State.moduleReset (s : State) (code : Nat) : State :=
  { State.reset with
    pending := s.pending
    out := s.out
    freeCount := s.freeCount
    ctrs := s.ctrs.filter fun e => e.1.ofPower || e.1 == .evtDrop
    ovf := s.ovf.filter fun c => c.ofPower || c == .evtDrop
    sec := s.sec.afterReset
    fw := s.fw.afterReset
    evt := { s.evt with toRing := [] }
    clk := { Clock.reset with aon := s.clk.aon, xtal := s.clk.xtal, xtalLost := s.clk.xtalLost, links := s.clk.links, sysPresent := s.clk.sysPresent }
    pwr := { s.pwr with
      stage := 1, ready := false, failed := false, alert := false, lastReset := code, tripped := false, saving := false, supply := false
      current := none, torn := false }
    mem := s.mem.afterReset }

/-- A cold reset with its LAST_RESET code: every domain (21 R430). -/
def State.coldReset (s : State) (code : Nat) (below34 : Bool) : State :=
  let t := s.moduleReset code
  { t with
    ctrs := if below34 then [] else s.ctrs.filter fun e => e.1.ofPower
    ovf := if below34 then [] else s.ovf.filter fun c => c.ofPower
    evt := ⟨[], [], 1⟩
    clk := Clock.reset
    pwr := { t.pwr with
      good := false, thermWarn := false, unpowered := false, cause := false, thermTrip := false, geo := 0, vinCv := 0, pinW := 0
      tj := 0, tmem := 0, tstw := 0, pwrEn := code == 1 || s.pwr.pwrEn } }

/-- A write of PWR_RESET_CTL: KEY 0xA5 lets it act, MODULE before ENGINE (21, PWR_RESET_CTL). -/
def State.resetCtl (s : State) (v : Word) : State :=
  if fld v 8 8 ≠ 0xA5 then s.raise evResetKeyBad 0 (fld v 8 8)
  else if v.getLsbD 1 then s.moduleReset 3
  else if v.getLsbD 0 then s.engineReset
  else s

/-- ENGINE_RESET: a write of PWR_RESET_CTL. -/
def execEngineReset (value : Word) (s : State) : Host.Outcome State Fault Refusal :=
  .next (if s.attached then s.resetCtl value else s)

/-- MODULE_RESET: MOD_RESET_N counts for nothing from a trip until the module starts again (21 R425, R429). -/
def execModuleReset (cause : ResetCause) (s : State) : Host.Outcome State Fault Refusal :=
  .next (match cause with
    | .pin => if s.pwr.unpowered ∨ s.pwr.tripped then s else s.moduleReset 2
    | .ctl v => if s.attached then s.resetCtl v else s
    | .recovery => if s.pwr.unpowered ∨ !s.pwr.tripped ∨ s.pwr.saving ∨ s.pwr.thermTrip then s else s.moduleReset 4)

end Sys2Proof.Machine
end

