-- ==== Sys2Proof/Machine/Secure.lean ====
section
/-!
DEFINITION. Machine/Secure.lean: Lapis: OTP, configuration generations, header checks, life-cycle requests, measurements and
attestation (20).
-/
namespace Sys2Proof.Machine

open Sys2Proof

/-! ### OTP (20 R400 to R402) -/

/-- OTP as it may be read: DEV_SEED and WRAP_KEY read 0. -/
def Security.otp (x : Security) : List Byte :=
  padTo 16 x.serial ++ padTo 16 x.lc ++ x.cfg.flatten ++ padTo 32 x.cfgUsed ++ x.keySlots.flatten ++ padTo 64 x.revoke
  ++ zeros 80 ++ leBytes 32 x.svn.toNat ++ zeros 7056

/-- A configuration block's masks agree with its VARIANT and GRADE (22 R440, 00 R2). -/
def masksOk (c : List Byte) : Bool :=
  let ones := fun (v n : Nat) => ((List.range n).filter (bitOf v)).length
  let v := byteAt c 4
  let g := byteAt c 5
  let half := decide (g = 1)
  decide (v < 3) && decide (g < 2)
  && ones (leAt c 6 2) 16 == (if half then 14 else 16)
  && ones (byteAt c 8) 8 == (if half then 7 else 8)
  && ones (leAt c 10 2) 16 == (if v = 0 then (if half then 14 else 16) else 0)

/-- A generation is valid: burned, CRC-64 over bytes 0 to 119, consistent masks. -/
def Security.genOk (x : Security) (g : Nat) : Bool :=
  let c := x.cfg.getD g []
  leAt c 120 8 == (crc64 (c.take 120)).toNat && masksOk c

/-- Burned generations, highest first. -/
def Security.gens (x : Security) : List Nat := [3, 2, 1, 0].filter fun g => burned (x.cfgUsed.getD g 0)

/-- The active generation. -/
def Security.active (x : Security) : Option Nat := x.gens.find? x.genOk

/-- Key slots that are revoked. -/
def Security.revoked (x : Security) : Nat := ((List.range 4).filter fun i => burned (x.revoke.getD i 0)).foldl (fun a i => a + 2 ^ i) 0

/-- 1 bits of SVN. -/
def Security.svnCount (x : Security) : Nat := ((List.range 256).filter fun i => x.svn.getLsbD i).length

/-- Burns the lowest bits of SVN until it counts n (20 R401, log 40). -/
def svnRaise : Nat → Nat → BitVec 256 → BitVec 256
  | 0, _, v => v
  | f + 1, n, v =>
    if ((List.range 256).filter fun i => v.getLsbD i).length < n then
      match (List.range 256).find? fun i => !v.getLsbD i with
      | some i => svnRaise f n (v ||| (1#256 <<< i))
      | none => v
    else v

/-- Burns marker bytes of a field; answers the first that does not read back as burned, by its index (20 R401). -/
def burnBytes (stuck : List Nat) (base : Nat) (idx : List Nat) (l : List Byte) : List Byte × Option Nat :=
  idx.foldl (fun (r : List Byte × Option Nat) i =>
    match r.2 with
    | some _ => r
    | none => if stuck.contains (base + i) then (r.1, some (base + i)) else (r.1.set i 0xFF, none)) (l, none)

/-- Burns bytes over those that stand: a burned bit never returns to 0 (20 R400). -/
def burnOver (old new : List Byte) : List Byte := (new.zipIdx).map fun e => e.1 ||| old.getD e.2 0

/-- SEC_STATUS; 0 before stage 1 has read OTP. -/
def State.secStatus (s : State) : Nat :=
  let x := s.sec
  if !x.loaded then 0
  else s.lifeCycle + x.cfgGen.getD 0 * 2 ^ 4 + b2n x.cfgGen.isSome * 2 ^ 6 + b2n x.devkeyOk * 2 ^ 7 + x.revoked * 2 ^ 8
    + x.svnCount * 2 ^ 16 + b2n x.bootSlot * 2 ^ 25 + b2n x.fallback * 2 ^ 26

/-! ### Header checks (20 R406, R407) -/

/-- KEY_MASK in force: that of the active generation, every slot while there is none. -/
def State.keyMask (s : State) : Nat :=
  match s.sec.cfgGen with
  | some g => byteAt (s.sec.cfg.getD g []) 2 % 16
  | none => 15

/-- Checks 1 to 3 and the signatures, which image and record share; none where they pass, else DETAIL. -/
def State.signedCheck (s : State) (b : List Byte) (slot : Nat) (formOk : Bool) (sig : SigAnswer) : Option Nat :=
  let k := s.sec.keySlots.getD slot []
  let form := formOk && zeroAt b 72 128 && zeroAt b 548 576 && zeroAt b 8816 8832 && decide (8832 ≤ b.length)
  if !form then some 1
  else if 4 ≤ slot ∨ !bitOf s.keyMask slot ∨ bitOf s.sec.revoked slot then some 2
  else if sha384 (slice b 128 388) ≠ k.take 48 ∨ sha384 (slice b 516 32) ≠ slice k 48 48 then some 3
  else if !sig.rsa then some 4
  else if !sig.slh then some 5
  else none

/-- The checks of a firmware image; DETAIL of the first that fails. -/
def State.imageCheck (s : State) (b : List Byte) (sig : SigAnswer) : Option Nat :=
  let body := leAt b 20 4
  let form := b.take 4 == [0x4F, 0x56, 0x46, 0x57] && zeroAt b 5 8 && zeroAt b 17 20 && decide (body ≤ 2 ^ 25 - 8832)
    && decide (8832 + body ≤ b.length)
  match s.signedCheck b (byteAt b 4) form sig with
  | some d => some d
  | none =>
    if leAt b 16 2 < s.sec.svnCount then some 6
    else if sha384 (slice b 8832 body) ≠ slice b 24 48 then some 7
    else none

/-- An authorisation record. -/
structure Record where
  target : Nat
  slot   : Nat
  config : Bool
  revoke : Bool
  slots  : Nat
  serial : List Byte
  certs  : List Byte
  block  : List Byte
  deriving DecidableEq, Repr

def recordOf (b : List Byte) : Record :=
  let n := leAt b 16 4
  { target := byteAt b 4, slot := byteAt b 5, config := bitOf (byteAt b 6) 0, revoke := bitOf (byteAt b 6) 1, slots := byteAt b 7 % 16,
    serial := slice b 8 8, certs := slice b 8832 n, block := slice b (8832 + n) 128 }

/-- Fields of a record header keep their layout. -/
def recordForm (b : List Byte) : Bool :=
  b.take 4 == [0x4F, 0x56, 0x4C, 0x43] && decide (byteAt b 6 < 4) && decide (byteAt b 7 < 16) && zeroAt b 20 24

/-- The checks of a signed record. -/
def State.recordCheck (s : State) (b : List Byte) (sig : SigAnswer) : Option Nat :=
  let r := recordOf b
  let n := leAt b 16 4
  let form := recordForm b && decide (8832 + n + (if r.config then 128 else 0) ≤ b.length)
  match s.signedCheck b r.slot form sig with
  | some d => some d
  | none =>
    if !allZero r.serial ∧ r.serial ≠ s.sec.serial then some 6
    else if (if n = 0 then zeros 48 else sha384 r.certs) ≠ slice b 24 48 then some 7
    else none

/-- A refused header: AUTH with its DETAIL, SEC_AUTH_FAIL and the event (20 R407). -/
def State.authFail (s : State) (rq : Req) (detail : Nat) : State :=
  ((s.bump .secAuthFail).raise evAuthFail 0 detail).fail rq csAuth detail

/-- FW_UPDATE, ATTEST and LIFECYCLE run one at a time, in the order in which they start (20 R414). -/
def State.lapisTurn (s : State) (rq : Req) : Bool :=
  let before := (s.uci.started.map (·.1)).takeWhile fun q => q != rq
  before.all fun q => q.opc != 0x0B && q.opc != 0x0C && q.opc != 0x13

/-! ### Life cycle (20 R411 to R414) -/

/-- Transitions of the table Life-cycle transitions. -/
def transitionOk (a b : Nat) : Bool :=
  (a, b) == (0, 1) || (a, b) == (1, 2) || (a, b) == (2, 3) || (a, b) == (3, 4) || (a, b) == (0, 4) || (a, b) == (1, 4)

/-- Bytes of Lapis noise. -/
def noiseBytes (draw n : Nat) : List Byte := (List.range n).map (Config.noise draw)

/-- Step 5: cell, working and module memory are wiped and the ledger save area is erased. -/
def State.lapisWipe (s : State) : State :=
  let t := s.wipeCells.emptyStreams.wiped
  { t with
    rt := { t.rt with tx := [] }
    mem := { t.mem with work := [], cells := [] }
    pwr := { t.pwr with saves := [[], []], current := none, torn := false, saveLc := t.lifeCycle } }

/-- Burns configuration generation g. -/
def State.burnConfig (s : State) (g : Nat) (block : List Byte) : State × Option Nat :=
  let r := burnBytes s.sec.stuck 0x220 [g] s.sec.cfgUsed
  ({ s with sec := { s.sec with cfg := s.sec.cfg.set g (burnOver (s.sec.cfg.getD g []) block), cfgUsed := r.1 } }, r.2)

/-- A burn that does not read back (20 R401). -/
def State.burnFail (s : State) (rq : Req) (off : Nat) : State := (s.raise evOtpBurnFail 0 off).fail rq csConfig 0xB

/-- The actions of a transition before the LC burn; the OTP byte that failed, if any. -/
def State.beforeBurn (s : State) (a b : Nat) (r : Record) : State × Option Nat :=
  if a = 0 ∧ b = 1 then
    let (n, t) := s.draw
    let t := { t with sec := { t.sec with
      devSeed := burnOver t.sec.devSeed (noiseBytes n 48), wrapKey := burnOver t.sec.wrapKey ((noiseBytes n 80).drop 48), wrapped := (noiseBytes n 144).drop 80 } }
    t.burnConfig 0 r.block
  else if a = 1 ∧ b = 2 then ({ s with sec := { s.sec with certs := r.certs } }, none)
  else (s, none)

/-- The actions of a transition after the LC burn. -/
def State.afterBurn (s : State) (b : Nat) : State :=
  if b = 4 then { s with sec := { s.sec with
    devSeed := List.replicate 48 0xFF, wrapKey := List.replicate 32 0xFF, wrapped := [], certs := [] } }
  else s

/-- Steps 2 to 6 of a transition. -/
def State.transition (s : State) (rq : Req) (a b : Nat) (r : Record) : State :=
  match s.beforeBurn a b r with
  | (t, some off) => t.burnFail rq off
  | (t, none) =>
    match burnBytes t.sec.stuck 0x10 ((List.range (b - a)).map (a + ·)) t.sec.lc with
    | (lc, some off) => ({ t with sec := { t.sec with lc := lc } } : State).burnFail rq off
    | (lc, none) =>
      let t := (({ t with sec := { t.sec with lc := lc } } : State).afterBurn b).lapisWipe
      let result := if a = 0 ∧ b = 1 then
          (padTo 32 (Config.slhPublic t.sec.devSeed)).take 32 ++ (padTo 388 (Config.rsaPublic t.sec.wrapped)).take 388 else []
      (t.answer rq result []).raise evLcChanged 0 b

/-- A maintenance record (20 R412). -/
def State.maintain (s : State) (rq : Req) (r : Record) : State :=
  let left := (List.range 4).filter fun i => bitOf s.keyMask i && !bitOf s.sec.revoked i && !bitOf r.slots i
  let next := (List.range 4).find? fun g => !burned (s.sec.cfgUsed.getD g 0)
  if r.revoke ∧ (bitOf r.slots r.slot ∨ left.isEmpty) then s.fail rq csConfig 0
  else if r.config ∧ s.lifeCycle ≠ 3 then s.fail rq csLifecycle s.lifeCycle
  else if r.config ∧ next.isNone then s.fail rq csConfig 0xC
  else if r.config ∧ leAt r.block 120 8 ≠ (crc64 (r.block.take 120)).toNat then s.fail rq csMalformed (8832 + r.certs.length + 120)
  else
    match burnBytes s.sec.stuck 0x3C0 (if r.revoke then (List.range 4).filter (bitOf r.slots) else []) s.sec.revoke with
    | (rv, some off) => ({ s with sec := { s.sec with revoke := rv } } : State).burnFail rq off
    | (rv, none) =>
      let t : State := { s with sec := { s.sec with revoke := rv } }
      match r.config, next with
      | true, some g =>
        match t.burnConfig g r.block with
        | (u, some off) => u.burnFail rq off
        | (u, none) => u.lapisWipe.ok rq
      | _, _ => t.ok rq

/-- A signed request past its header checks. -/
def State.signedRequest (s : State) (rq : Req) (a b : Nat) (r : Record) : State :=
  if a = b then s.maintain rq r
  else if r.serial ≠ s.sec.serial then s.fail rq csAuth 6
  else if a = 0 ∧ b = 1 then
    if !r.config then s.fail rq csMalformed 6
    else if leAt r.block 120 8 ≠ (crc64 (r.block.take 120)).toNat then s.fail rq csMalformed (8832 + r.certs.length + 120)
    else if !allZero s.sec.devSeed then s.fail rq csConfig 1
    else if rq.rbytes < 420 then s.fail rq csBadAddr 420
    else s.transition rq a b r
  else if a = 1 ∧ b = 2 ∧ r.certs.isEmpty then s.fail rq csMalformed 16
  else s.transition rq a b r

/-- LIFECYCLE. -/
def execLifecycle (rq : Req) (record : List Byte) (sig : SigAnswer) (s : State) : Host.Outcome State Fault Refusal :=
  .next (
    if !s.mayServe rq 0x13 ∨ !s.lapisTurn rq then s
    else
      let a := s.lifeCycle
      let b := argOf rq 36 1
      let record := record.take rq.pbytes
      let r := recordOf record
      if !s.openHdls.isEmpty then s.fail rq csBusy (hdlDetail s.openHdls)
      else if a ≠ b ∧ !transitionOk a b then s.fail rq csLifecycle a
      else if a = 2 ∧ b = 3 then
        if !(recordForm record && zeroAt record 72 128 && decide (128 ≤ record.length)) then s.fail rq csAuth 1
        else if r.target ≠ b then s.fail rq csMalformed 4
        else if r.serial ≠ s.sec.serial then s.fail rq csAuth 6
        else s.transition rq a b r
      else
        match s.recordCheck record sig with
        | some d => s.authFail rq d
        | none => if r.target ≠ b then s.fail rq csMalformed 4 else s.signedRequest rq a b r)

/-! ### Measurements and attestation (20 R409, R410) -/

/-- M0 to M7 as they stand. -/
def State.measures (s : State) : List (List Byte) :=
  [ (padTo 48 Config.romMeasure).take 48,
    s.sec.m1,
    sha384 s.config,
    sha384 (s.sec.otp.take 0x400 ++ slice s.sec.otp 0x450 32),
    sha384 (leBytes 8 s.secStatus),
    sha384 ((sortBy (fun (a b : Nat × Plan) => decide (a.1 < b.1)) s.pl.plans).flatMap fun e => leBytes 8 e.2.sig.toNat),
    zeros 48,
    s.sec.m7 ]

/-- M7 takes M1 in: at each boot, restart and end of a live update (20 R409). -/
def Security.remember (x : Security) : Security := { x with m7 := sha384 (x.m7 ++ x.m1) }

/-- The report body. -/
def State.report (s : State) (nonce : List Byte) : List Byte :=
  [0x4F, 0x56, 0x41, 0x54, 1, 0] ++ leBytes 1 s.lifeCycle ++ leBytes 1 (s.sec.cfgGen.getD 0) ++ s.sec.serial ++ nonce
  ++ leBytes 8 s.beat ++ leBytes 8 s.led.step ++ leBytes 8 s.fw.version.toNat ++ leBytes 2 s.sec.svnCount ++ zeros 6
  ++ s.measures.flatten ++ (padTo 32 (Config.slhPublic s.sec.devSeed)).take 32
  ++ sha384 ((padTo 388 (Config.rsaPublic s.sec.wrapped)).take 388) ++ zeros 48

/-- ATTEST. -/
def execAttest (rq : Req) (s : State) : Host.Outcome State Fault Refusal :=
  .next (
    if !s.mayServe rq 0x0C ∨ !s.lapisTurn rq then s
    else if !s.sec.devkeyOk then s.fail rq csAuth 8
    else
      let (n, t) := s.draw
      let body := t.report (slice rq.args 4 16)
      let out := body ++ (padTo 384 (Config.rsaSign t.sec.wrapped body n)).take 384
        ++ (padTo 17088 (Config.slhSign t.sec.devSeed body)).take 17088
        ++ leBytes 4 t.sec.certs.length ++ t.sec.certs
      t.answer rq out [])

end Sys2Proof.Machine
end

