-- ==== Sys2Proof/Machine/Firmware.lean ====
section
/-!
DEFINITION. Machine/Firmware.lean: the firmware complex: watchdogs, restarts, live updates (19; 17 R353, R363; 18 R388).
-/
namespace Sys2Proof.Machine

open Sys2Proof

/-! ### Restart (19 R395, R396) -/

/-- Core cycles of the 60 s over which restarts count (17 R363). -/
def restartWindow : Nat := 60000 * cyclesPerMs

/-- Restarts of causes 1 and 2 in the last 60 s. -/
def State.recentRestarts (s : State) : Nat := (s.fw.restarts.filter fun t => decide (s.clk.cycle < t + restartWindow)).length

/-- Restarts in the 60 s up to the latest one. -/
def Firmware.window (f : Firmware) : Nat :=
  let last := f.restarts.foldl max 0
  (f.restarts.filter fun t => decide (last < t + restartWindow)).length

/-- A firmware restart begins: the cores are held, and it counts (19 R395). -/
def State.fwRestart (s : State) (cause : Nat) : State :=
  if !s.firmware then s
  else
    { s with fw := { s.fw with
      state := .restarting, cores := 0, cause := cause
      restarts := if cause = 1 ∨ cause = 2 then s.fw.restarts ++ [s.clk.cycle] else s.fw.restarts } }.bump .fwRestart

/-- The lowest core of a mask. -/
def lowestCore (m : Byte) : Nat := ((List.range 8).find? fun i => m.getLsbD i).getD 0

/-- WATCHDOG_EXPIRE. -/
def execWatchdogExpire (cores : Byte) (s : State) : Host.Outcome State Fault Refusal :=
  .next (
    if !s.firmware ∨ cores = 0 then s
    else
      let t := s.raise evFwWatchdog 0 cores.toNat
      let t := { t with fw := { t.fw with lastWdog := lowestCore cores } }
      (t.trace tpWdogExpire 2 0 [cores.toNat]).fwRestart 1)

/-- A write of FW_CTL. -/
def State.fwCtl (s : State) (v : Word) : State := if v.getLsbD 0 then s.fwRestart 4 else s

/-- FW_CTL_RESTART. -/
def execFwCtlRestart (value : Word) (s : State) : Host.Outcome State Fault Refusal :=
  .next (if s.attached then s.fwCtl value else s)

/-- FW_START. -/
def State.traceStart (s : State) (cause hver : Nat) : State :=
  s.trace tpFwStart 1 0 [s.fw.version.toNat, b2n s.fw.active, cause, hver]

/-- What a restart leaves of an import under way: its range has to be imported again (18 R388), so what stands in it is open. -/
def State.dropImport (s : State) (x : Transfer) : State :=
  let t := { s with led := { s.led with imports := s.led.imports.erase x } }
  match s.shardAt x.shard with
  | none => t
  | some (d, o) =>
    let (n, t) := t.draw
    t.putRange (s.bankAddr s.led.srcB + o) (d.rangeParts x.first x.elems) (x.data.take n)

/-- What a restart leaves of a wipe under way: the steward issues it again, so how far it came is open. -/
def State.dropWipe (s : State) : State :=
  let (n, t) := s.draw
  let u := t.memClear 0 n
  { u with mem := { u.mem with wiping := none } }

/-- Ends one request that was in progress as firmware restarted (18 R388). -/
def State.abortRequest (s : State) (rq : Req) : State :=
  let t := { s with
    led := { s.led with exports := s.led.exports.filter fun e => e.rq != rq }
    fw := { s.fw with update := s.fw.update.filter fun u => u.rq != rq } }
  let t := (t.led.imports.filter fun e => e.rq == rq).foldl State.dropImport t
  let t : State := if t.mem.wiping == some (some rq) then t.dropWipe else t
  if t.mem.resilver.any (fun r => r.rq == some rq) then t.resilverOver else t.fail rq csAborted 0

/-- Decisions that waited for firmware are taken (17 R353): ports that changed, streams that ended, dead endpoints. -/
def State.catchUp (s : State) : State :=
  let lost := (s.rt.rx.filter fun e => decide (giveUp ≤ e.2.naks)).map (·.1.1)
    ++ (s.rt.tx.filter fun e => decide (giveUp ≤ e.2.probes)).map (·.1.1)
  (lost.foldl State.partyFailed s.reportLinks).decideDead

/-- FW_RESTART_DONE: the complex runs again, or halts at the third restart in 60 s (19 R396, 17 R363). -/
def execFwRestartDone (s : State) : Host.Outcome State Fault Refusal :=
  .next (
    if !s.engines ∨ s.fw.state ≠ .restarting then s
    else if (s.fw.cause = 1 ∨ s.fw.cause = 2) ∧ 3 ≤ s.fw.window then
      ({ s with fw := { s.fw with state := .halted }, twin := { s.twin with hbStopped := true } } : State).raise evFwUnstable 0 s.fw.window
    else
      let t : State := { s with fw := { s.fw with state := .running, cores := 0xFF }, sec := s.sec.remember }
      let t := t.traceStart s.fw.cause 0
      ((t.uci.started.map (·.1)).foldl State.abortRequest t).catchUp)

/-! ### Live update (19 R397, R398) -/

/-- The slot that does not boot. -/
def Firmware.standby (f : Firmware) : Nat := b2n (!f.active)

/-- Writes the standby slot. -/
def Firmware.setStandby (f : Firmware) (x : ImageSlot) : Firmware := { f with slots := f.slots.set f.standby x }

/-- Marks the standby slot invalid. -/
def Firmware.voidStandby (f : Firmware) : Firmware :=
  f.setStandby ⟨((f.slots[f.standby]?).map (·.image)).getD [], false⟩

/-- FW_VERSION and HVER of an image. -/
def imageVersion (b : List Byte) : Nat := leAt b 8 8
def hverOf (v : Nat) : Nat := bits v 32 16

/-- UPDATE_STAGE, passed. -/
def State.stagePassed (s : State) (n : Nat) : State := s.trace tpUpdateStage 1 0 [n, 0]

/-- UPDATE_STAGE, failed: the spec gives no code for the result (log 5). -/
def State.stageFailed (s : State) (n : Nat) : State :=
  let (r, t) := s.draw
  t.trace tpUpdateStage 1 0 [n, r + 1]

/-- What stage 3 waits for. -/
def State.quiet (s : State) : Bool :=
  s.mem.resilver.isNone && s.mem.wiping.isNone && s.led.imports.isEmpty && s.led.exports.isEmpty && s.mem.heals.isEmpty

/-- Stage 4 begins: the standby slot is written and is not valid meanwhile. -/
def State.beginWrite (s : State) (u : Update) : State :=
  let t := s.stagePassed 3
  { t with fw := { t.fw.voidStandby with update := some { u with stage := 4 } } }

/-- FW_UPDATE: stages 1 and 2, and stage 3 where nothing is in progress. -/
def execFwUpdate (rq : Req) (image : List Byte) (sig : SigAnswer) (s : State) : Host.Outcome State Fault Refusal :=
  .next (
    if !s.mayServe rq 0x0B ∨ !s.lapisTurn rq then s
    else
      let b := image.take rq.pbytes
      match s.imageCheck b sig with
      | some d => (s.stageFailed 1).authFail rq d
      | none =>
        let t := s.stagePassed 1
        let run := hverOf s.fw.version.toNat
        let new := hverOf (imageVersion b)
        if new < run ∨ run + 2 < new then (t.stageFailed 2).fail rq csConfig run
        else
          let t := t.stagePassed 2
          let u : Update := { rq := rq, image := b, stage := 3 }
          if s.quiet then t.beginWrite u else { t with fw := { t.fw with update := some u } })

/-- FW_IMAGE_WRITTEN: the image stands in the standby slot, marked valid; no new request starts (stages 4 and 5). -/
def execFwImageWritten (s : State) : Host.Outcome State Fault Refusal :=
  .next (match s.fw.update with
  | none => s
  | some u =>
    if !s.firmware then s
    else
      let t := if u.stage = 3 ∧ s.quiet then s.beginWrite u else s
      if (t.fw.update.map (·.stage)) ≠ some 4 then s
      else
        let t := t.stagePassed 4
        { t with fw := { t.fw.setStandby ⟨u.image, true⟩ with update := some { u with stage := 5 } } })

/-- UPDATE_WAIT_TIMEOUT: 10 s of stage 3 have passed. -/
def execUpdateWaitTimeout (s : State) : Host.Outcome State Fault Refusal :=
  .next (match s.fw.update with
  | none => s
  | some u =>
    if !s.firmware ∨ u.stage ≠ 3 ∨ s.quiet then s
    else ({ s.stageFailed 3 with fw := { (s.stageFailed 3).fw with update := none } } : State).fail u.rq csBusy 0)

/-- A started request that cannot be carried out before the update ends. -/
def State.waitsForUpdate (s : State) (u : Update) (q : Req) : Bool :=
  let opc := q.opc.toNat
  q == u.rq || (!s.begun q && (!s.mayServe q opc || ([0x0B, 0x0C, 0x13].contains opc && !s.lapisTurn q)))

/-- The new image has taken over (stages 6 and 7). -/
def State.takeOver (s : State) (u : Update) : State :=
  let h := u.image
  let t := { s with
    fw := { s.fw with active := !s.fw.active, version := BitVec.ofNat 64 (imageVersion h), cause := 3, update := none }
    sec := ({ s.sec with m1 := sha384 (h.take 576), svn := svnRaise 256 (leAt h 16 2) s.sec.svn } : Security).remember }
  let t := (t.traceStart 3 (hverOf s.fw.version.toNat)).stagePassed 7
  t.ok u.rq (leBytes 8 (imageVersion h))

/-- Content of the handoff record beyond its header, in whole units of 64 bytes, at most 4 MiB with the header (19 R399, log 117). -/
def State.handoffBody (s : State) : List Byte :=
  let b := (Config.handoffBody s.fw.version.toNat s.freeCount).take (2 ^ 22 - 64)
  padTo (64 * ceilDiv b.length 64) b

/-- The handoff record of the running image (19 R399). -/
def State.handoffRecord (s : State) : List Byte :=
  let body := s.handoffBody
  let h := [0x48, 0x4F, 0x46, 0x46] ++ leBytes 2 (hverOf s.fw.version.toNat) ++ zeros 2 ++ leBytes 4 (64 + body.length)
    ++ leBytes 4 (Config.handoffSections s.fw.version.toNat s.freeCount) ++ leBytes 8 s.fw.version.toNat ++ leBytes 8 s.beat
    ++ leBytes 8 s.fw.logSeq ++ leBytes 8 s.led.step ++ zeros 8
  h ++ leBytes 8 (crc64 (h ++ zeros 8 ++ body)).toNat ++ body

/-- A new image accepts a record: its CRC agrees, and its version is the image's own or one of the two before it (19 R397, R398). -/
def handoffOk (image record : List Byte) : Bool :=
  let v := leAt record 4 2
  let own := hverOf (imageVersion image)
  record.take 4 == [0x48, 0x4F, 0x46, 0x46] && leAt record 8 4 == record.length && record.length % 64 == 0
  && leAt record 56 8 == (crc64 (record.take 56 ++ zeros 8 ++ record.drop 64)).toNat && decide (v ≤ own) && decide (own ≤ v + 2)

/-- Stage 6: the old image writes the handoff record into the FW region (19 R397, R399). -/
def State.writeHandoff (s : State) : State :=
  { s.memWrite (Config.handoffAt % gibGranules * granuleBytes) s.handoffRecord with freeCount := s.freeCount + 1 }

/-- FW_HANDOFF: the new image accepts the handoff record, or the old one goes on (19 R398). `recordOk` tells that the new image reads
the record as it was written. -/
def execFwHandoff (recordOk : Bool) (s : State) : Host.Outcome State Fault Refusal :=
  .next (match s.fw.update with
  | none => s
  | some u =>
    if !s.firmware ∨ u.stage ≠ 5 ∨ !(s.uci.started.all fun e => s.waitsForUpdate u e.1) then s
    else
      let record := (s.stagePassed 5).handoffRecord
      let t := (s.stagePassed 5).writeHandoff
      if recordOk && handoffOk u.image record then (t.stagePassed 6).takeOver u
      else
        let t := t.stageFailed 6
        ({ t with fw := { t.fw.voidStandby with update := none } } : State).fail u.rq csConfig (hverOf s.fw.version.toNat))

end Sys2Proof.Machine
end

