-- ==== Sys2Proof/Machine/Power.lean ====
section
/-!
DEFINITION. Machine/Power.lean: timing mode, reference clocks, supply and thermal trips, the Moonstone save, and bring-up
(16 R340 to R343; 21 R418 to R432; 20 R402, R404, R408, R413; 11 R263).
-/
namespace Sys2Proof.Machine

open Sys2Proof

/-! ### Status registers that events carry -/

/-- HOLD bits of CLK_MODE are set (16 R343). -/
def State.anyHold (s : State) : Bool := !s.pwr.ready || s.mem.hot || s.clk.train || s.clk.test || s.clk.unaligned

/-- CLK_MODE. -/
def State.clkMode (s : State) : Nat :=
  b2n s.clk.req + 2 * b2n s.clk.active + 2 ^ 8 * b2n (!s.pwr.ready) + 2 ^ 9 * b2n s.mem.hot + 2 ^ 10 * b2n s.clk.train
  + 2 ^ 11 * b2n s.clk.test + 2 ^ 12 * b2n s.clk.unaligned

/-- CLK_STATUS. -/
def State.clkStatus (s : State) : Nat :=
  b2n s.clk.sysPresent + 2 * s.clk.links.toNat + 2 ^ 5 * s.clk.locks.toNat + 2 ^ 8 * b2n s.clk.xtal

/-- UCI_STATUS. -/
def State.uciStatus (s : State) : Nat :=
  let u := s.uci
  (if u.m0 && u.m1 then 2 else if u.m0 || u.m1 then 3 else b2n u.trying) + 4 * b2n u.m0 + 8 * b2n u.m1

/-! ### LOCKSTEP and RELAXED (16 R343) -/

/-- The module leaves LOCKSTEP: by a hold with WARN, by a write of REQ = 0 with INFO. -/
def State.leaveLockstep (s : State) (hold : Bool) : State :=
  if !s.clk.active then s
  else
    let t := { s with clk := { s.clk with active := false } }.bump .ndRelaxed
    t.raise (if hold then evLockstepExitWarn else evLockstepExitInfo) 0 t.clkMode

/-- A write of CLK_MODE. -/
def State.modeWrite (s : State) (v : Word) : State :=
  let t := { s with clk := { s.clk with req := v.getLsbD 0 } }
  if v.getLsbD 0 then t else t.leaveLockstep false

/-- LOCKSTEP_REQUEST. -/
def execLockstepRequest (value : Word) (s : State) : Host.Outcome State Fault Refusal :=
  .next (if s.attached then s.modeWrite value else s)

/-- LOCKSTEP_ENTER: REQ is 1, no hold is set, and a beat that is a multiple of 16,384 begins. -/
def execLockstepEnter (s : State) : Host.Outcome State Fault Refusal :=
  .next (
    if !s.engines ∨ !s.clk.req ∨ s.clk.active ∨ s.anyHold ∨ s.clk.cycle % (12 * 16384) ≠ 0 then s
    else { s with clk := { s.clk with active := true } }.raise evLockstepEnter 0 s.beat)

/-! ### Clocks (16 R341, 21 R427) -/

/-- CLK_LOCK_LOST: the locked PLLs `plls` lose lock. -/
def execClkLockLost (plls : BitVec 3) (s : State) : Host.Outcome State Fault Refusal :=
  .next (
    if !s.powered ∨ !s.clk.aligned ∨ plls &&& s.clk.locks = 0 then s
    else
      let first := !s.clk.unaligned
      let t := { s with clk := { s.clk with locks := s.clk.locks &&& ~~~plls, unaligned := true } }
      if first then (t.raise evClkLockLost 0 t.clkStatus).leaveLockstep true else t)

/-- Logical ports of a quadrant: LP(6q) to LP(6q + 5) (21 R417). -/
def quadrantPorts (q : Nat) : List Nat := (List.range 12).map fun i => 12 * q + i

/-- A port loses its transmit clock. -/
def State.refclkGone (s : State) (port : Nat) : State :=
  let p := s.port port
  let t := s.modPort port fun p => { p with refclkLost := true }
  match p.state with
  | .up => t.portFails port .down
  | .training => t.modPort port fun p => { p with state := .down }
  | .roleMismatch => t.modPort port fun p => { p with state := .down }
  | .down => t

/-- LINK_REFCLK_LOST. -/
def execLinkRefclkLost (quadrant : Nat) (s : State) : Host.Outcome State Fault Refusal :=
  .next (
    if !s.powered ∨ 4 ≤ quadrant ∨ !s.clk.links.getLsbD quadrant then s
    else
      let t := { s with clk := { s.clk with links := s.clk.links &&& ~~~(1#4 <<< quadrant) } }
      (quadrantPorts quadrant).foldl State.refclkGone t)

/-- A port's transmit clock is back, and it retrains. -/
def State.refclkBack (s : State) (port : Nat) : State :=
  let t := s.modPort port fun p => { p with refclkLost := false }
  let p := t.port port
  if s.firmware ∧ p.role ≠ .unused ∧ p.state = .down then t.retrain port else t

/-- LINK_REFCLK_RESTORED. -/
def execLinkRefclkRestored (quadrant : Nat) (s : State) : Host.Outcome State Fault Refusal :=
  .next (
    if !s.powered ∨ 4 ≤ quadrant ∨ s.clk.links.getLsbD quadrant then s
    else
      let t := { s with clk := { s.clk with links := s.clk.links ||| (1#4 <<< quadrant) } }
      (quadrantPorts quadrant).foldl State.refclkBack t)

/-- XTAL_LOST. -/
def execXtalLost (s : State) : Host.Outcome State Fault Refusal :=
  .next (
    if !s.powered ∨ s.clk.xtalLost then s
    else { s with clk := { s.clk with xtal := false, xtalLost := true } }.raise evXtalLost 0 0)

/-! ### The steward attachment (18 R375) -/

/-- The attachment is gone. -/
def State.dropUci (s : State) : State := { s with uci := { s.uci with m0 := false, m1 := false, trying := false } }

/-- The outcome of training the attachment. -/
def State.setUci (s : State) (m0 m1 : Bool) : State :=
  let t := { s with uci := { s.uci with m0 := m0, m1 := m1, trying := false } }
  if m0 != m1 then t.raise evUciDegraded 0 t.uciStatus else t

/-- UCI_DEGRADED: UCIe module 1 or 0 loses its link; the attachment goes on with the other. -/
def execUciDegraded (second : Bool) (s : State) : Host.Outcome State Fault Refusal :=
  .next (
    if !s.powered ∨ !(if second then s.uci.m1 else s.uci.m0) then s
    else if second then s.setUci s.uci.m0 false
    else s.setUci false s.uci.m1)

/-! ### Temperatures and the input (21 R419, R428) -/

/-- WARN_C, 85 to 105. -/
def State.warnC (s : State) : Nat := min 105 (max 85 (s.rdf .pwrCfg 16 7))

/-- THERM_WARN. -/
def execThermWarn (tj : Byte) (s : State) : Host.Outcome State Fault Refusal :=
  .next (
    if !s.powered ∨ tj.toNat ≤ s.warnC then s
    else
      let t := { s with pwr := { s.pwr with thermWarn := true, tj := tj } }
      if s.pwr.thermWarn then t else t.raise evThermWarn 0 tj.toNat)

/-- THERM_WARN_CLEAR. -/
def execThermWarnClear (tj : Byte) (s : State) : Host.Outcome State Fault Refusal :=
  .next (
    if !s.powered ∨ s.warnC < tj.toNat then s
    else { s with pwr := { s.pwr with thermWarn := false, tj := tj } })

/-- VIN_HIGH: the input passes 56 V. -/
def execVinHigh (vinCv : BitVec 16) (s : State) : Host.Outcome State Fault Refusal :=
  .next (
    if !s.powered ∨ vinCv.toNat ≤ 5600 then s
    else { s with pwr := { s.pwr with vinCv := vinCv } }.raise evVinHigh 0 vinCv.toNat)

/-! ### The Moonstone save (21 R423, R424) -/

/-- PORT_CONFIG byte 37 of a physical port. -/
def State.portByte (s : State) (phys : Nat) : Nat :=
  let p := s.port (2 * phys)
  (match p.role with
   | .unused => 0
   | .endpoint => 1
   | .torus d m => 2 + 4 * d + 16 * b2n m
   | .twin => 3) + 32 * b2n p.split

/-- SAVE_SEQ of a slot. -/
def saveSeq (x : List Byte) : Nat := leAt x 8 8

/-- The slot holds a whole save. -/
def saveOk (x : List Byte) : Bool :=
  x.length == 65536 && x.take 4 == [0x4D, 0x4F, 0x4F, 0x4E]
  && leAt x 56 8 == (crc64 (x.take 56 ++ zeros 8 ++ x.drop 64)).toNat

/-- A slot of the save area. -/
def State.saveSlot (s : State) (i : Nat) : List Byte := s.pwr.saves.getD i []

/-- Number of the next save: one more than that of the current save, 1 where there is none (log 41). -/
def State.nextSave (s : State) : Nat :=
  match s.pwr.current with
  | some i => saveSeq (s.saveSlot i) + 1
  | none => 1

/-- Bytes 0x0040 onward of a save. -/
def State.saveBody (s : State) : List Byte :=
  padTo 64 (leBytes 8 s.led.step ++ leBytes 8 s.ledStatus ++ leBytes 8 s.led.planset.toNat)
  ++ padTo 256 (s.led.seeds.take 256)
  ++ padTo 640 (leBytes 8 (s.rd .rtFabricPos).toNat ++ leBytes 8 (s.rd .rtTorusDim).toNat ++ leBytes 8 (s.rd .memRegionSize).toNat
      ++ leBytes 8 s.rt.gen
      ++ (List.range 24).flatMap fun p => leBytes 8 (s.portByte p) ++ leBytes 8 (s.rd (.schPortCfg (2 * p))).toNat)
  ++ padTo 16384 (s.led.ring.flatten.take 16384)
  ++ padTo 48128 ((s.evt.buffer.reverse.take 752).flatten)

/-- The header of save n, its CRC over the whole save. -/
def State.saveHeader (s : State) (n : Nat) (body : List Byte) : List Byte :=
  let h := [0x4D, 0x4F, 0x4F, 0x4E, 1, 0] ++ leBytes 1 s.lifeCycle ++ leBytes 1 (b2n s.pwr.cause) ++ leBytes 8 n ++ s.sec.serial
    ++ leBytes 8 s.pwr.tripBeat ++ zeros 24
  h ++ leBytes 8 (crc64 (h ++ zeros 8 ++ body)).toNat

/-- A save that is cut short: its header stays unwritten, and how much of the rest stands is open (21 R421, R424). -/
def State.tearSave (s : State) : State :=
  if !s.pwr.saving then s
  else
    let (n, t) := s.draw
    let torn := List.replicate 64 0xFF ++ (s.saveBody.take n ++ List.replicate 65472 0xFF).take 65472
    { t with pwr := { t.pwr with saves := t.pwr.saves.set (s.nextSave % 2) torn, saving := false } }

/-- Bring-up reads both slots: the newest valid one is the current save, and the slot of the next save is erased (21 R424). -/
def State.readSaves (s : State) : State :=
  let a := s.saveSlot 0
  let b := s.saveSlot 1
  let cur : Option Nat :=
    if saveOk a && saveOk b then some (if saveSeq a < saveSeq b then 1 else 0)
    else if saveOk a then some 0 else if saveOk b then some 1 else none
  let bad : Option Nat :=
    if !a.isEmpty && !saveOk a && (b.isEmpty || decide (saveSeq b ≤ saveSeq a)) then some 0
    else if !b.isEmpty && !saveOk b && (a.isEmpty || decide (saveSeq a < saveSeq b)) then some 1 else none
  let t := { s with pwr := { s.pwr with current := cur, torn := bad.isSome } }
  let t := match bad with
    | some i => t.raise evSaveTorn 0 i
    | none => t
  { t with pwr := { t.pwr with saves := t.pwr.saves.set (t.nextSave % 2) [] } }

/-! ### Trips (21 R422, R425, R429) -/

/-- Step 1 of a trip: engines and transmitters stop, and the steward die is held in reset. -/
def State.trip (s : State) : State :=
  let t := s.dropUci
  { t with pwr := { t.pwr with tripped := true, tripBeat := s.beat } }

/-- A trip begins its save where the module has reached READY; before, its rails turn off at once. -/
def State.tripOff (s : State) : State :=
  if s.pwr.ready then { s with pwr := { s.pwr with saving := true } }
  else
    let t := { s with pwr := { s.pwr with good := false } }
    if s.pwr.supply then t.bump .pwrTrip else t

/-- SUPPLY_TRIP. -/
def execSupplyTrip (s : State) : Host.Outcome State Fault Refusal :=
  .next (
    if !s.powered ∨ s.pwr.tripped ∨ !s.pwr.good then s
    else ({ s.trip with pwr := { s.trip.pwr with supply := true, cause := false } } : State).tripOff)

/-- THERMAL_TRIP: a temperature, or a leak. One save serves it and a supply trip under way, with CAUSE 1. -/
def execThermalTrip (leak : Bool) (s : State) : Host.Outcome State Fault Refusal :=
  .next (
    if !s.powered ∨ s.pwr.thermTrip then s
    else
      let t := (s.raise evThermalTrip 0 (b2n leak)).bump .pwrThermTrip
      let t := { t with pwr := { t.pwr with thermTrip := true, cause := true } }
      if s.pwr.tripped then t else t.trip.tripOff)

/-- MOONSTONE_SAVE_DONE: the save stands, the main rails turn off, and a supply trip counts. -/
def execMoonstoneSaveDone (s : State) : Host.Outcome State Fault Refusal :=
  .next (
    if !s.powered ∨ !s.pwr.saving then s
    else
      let n := s.nextSave
      let body := s.saveBody
      let t := { s with pwr := { s.pwr with
        saves := s.pwr.saves.set (n % 2) (s.saveHeader n body ++ body), saveLc := s.lifeCycle, saving := false, good := false } }
      if s.pwr.supply then t.bump .pwrTrip else t)

/-- SUPPLY_RESTORED: a module reset; none after a thermal or leak trip (21 R429). -/
def execSupplyRestored (s : State) : Host.Outcome State Fault Refusal :=
  .next (if !s.powered ∨ !s.pwr.tripped ∨ s.pwr.saving ∨ s.pwr.thermTrip then s else s.moduleReset 4)

/-- PWR_EN_LOW: the main rails turn off. -/
def execPwrEnLow (s : State) : Host.Outcome State Fault Refusal :=
  .next (
    if !s.powered ∨ !s.pwr.pwrEn then s
    else { s.dropUci with pwr := { s.pwr with pwrEn := false, good := false } })

/-- INPUT_FUSE_OPEN: the module is unpowered, and a save under way is cut short. -/
def execInputFuseOpen (s : State) : Host.Outcome State Fault Refusal :=
  .next (
    if !s.powered then s
    else ({ s.tearSave.dropUci with pwr := { s.tearSave.pwr with unpowered := true, good := false } } : State))

/-- COLD_RESET; it cuts a save under way short. -/
def execColdReset (cause : ColdCause) (s : State) : Host.Outcome State Fault Refusal :=
  .next (match cause with
    | .input below34 => s.tearSave.coldReset 0 below34
    | .pwrEn => if s.pwr.pwrEn ∨ s.pwr.unpowered then s else s.tearSave.coldReset 1 false)

/-! ### Bring-up (21 R431, R432) -/

/-- The next stage begins. -/
def State.stageTo (s : State) (n : Nat) : State := { s with pwr := { s.pwr with stage := n } }

/-- Bring-up stops, and the steward attachment trains at once. -/
def State.bringUpFails (s : State) (r : StageReport) : State :=
  ({ s with pwr := { s.pwr with failed := true } } : State).setUci r.m0 r.m1

/-- Stage 1: straps, crystal, OTP; the configuration generation is chosen, and a save area of another state is erased. -/
def State.stageAon (s : State) (r : StageReport) : State :=
  let g := s.sec.active
  let t := { s with
    sec := { s.sec with loaded := true, cfgGen := g }
    clk := { s.clk with xtal := !s.clk.xtalLost, sysPresent := r.sysClock, links := r.linkClocks }
    pwr := { s.pwr with
      geo := r.geo, saveLc := s.lifeCycle
      saves := if s.pwr.saveLc = s.lifeCycle then s.pwr.saves else [[], []] } }
  let t := if g.isSome && s.sec.gens.head? != g then t.raise evCfgFallback 0 (g.getD 0) else t
  if g.isNone ∧ s.lifeCycle ≠ 0 then (t.raise evConfigBad 0 0).bringUpFails r else t.stageTo 2

/-- Stage 3: every PLL is locked, and beat 0 begins (16 R340). -/
def State.stageAlign (s : State) (r : StageReport) : State :=
  ({ s with clk := { s.clk with
    sysPresent := true, links := r.linkClocks, locks := 7, aligned := true, cycle := 0 } } : State).stageTo 4

/-- Firmware starts with the image of the active slot. -/
def State.startFw (s : State) (image : List Byte) : State :=
  let t := { s with
    fw := { s.fw with state := .running, cores := 0xFF, cause := 0, version := BitVec.ofNat 64 (imageVersion image) }
    sec := ({ s.sec with m1 := sha384 (image.take 576), bootSlot := s.fw.active } : Security).remember }
  (t.traceStart 0 0).stageTo 5

/-- A flash slot. -/
def State.slotImage (s : State) (b : Bool) : ImageSlot := s.fw.slots.getD (b2n b) ⟨[], false⟩

/-- Device keys: burns that an interrupted retirement left are completed, and the RSA key is unwrapped (20 R404, R413). -/
def State.bootKeys (s : State) (r : StageReport) : State :=
  let t := s.afterBurn s.lifeCycle
  let ok := r.unwrapOk && !t.sec.wrapped.isEmpty
  let t := { t with sec := { t.sec with devkeyOk := ok } }
  if !ok && !t.sec.wrapped.isEmpty then t.raise evDevkeyBad 0 0 else t

/-- Stage 4: the image in the active slot is checked, else that in the standby slot (20 R408). -/
def State.stageBoot (s : State) (r : StageReport) : State :=
  let t := s.bootKeys r
  let a := t.slotImage t.fw.active
  let b := t.slotImage (!t.fw.active)
  match t.imageCheck a.image r.activeSig with
  | none => t.startFw a.image
  | some d =>
    let t := t.bump .secAuthFail
    if !b.valid then (t.raise evBootFail 0 d).bringUpFails r
    else
      match t.imageCheck b.image r.standbySig with
      | some e => ((t.bump .secAuthFail).raise evBootFail 0 e).bringUpFails r
      | none =>
        let t := { t with fw := { t.fw with active := !t.fw.active }, sec := { t.sec with fallback := true } }
        (t.raise evBootFallback 0 (b2n t.fw.active)).startFw b.image

/-- The training record that this module, its packages and its firmware go with (11 R263). -/
def State.trainRecord (s : State) (r : StageReport) : TrainRecord :=
  { ids := r.pkgIds, serial := s.sec.serial, version := Config.trainVersion s.fw.version.toNat }

/-- Channels that are trained in full: all where the record does not match, else those that fail its verify pass (11 R263). -/
def State.fullyTrained (s : State) (r : StageReport) (channel : Nat) : Bool :=
  s.mem.record != some (s.trainRecord r) || r.verifyFails.contains channel

/-- Stage 5: memory training, and beside it the save (11 R263, 21 R424). A full training writes the record. -/
def State.stageTrain (s : State) (r : StageReport) : State :=
  let t := s.readSaves
  let cached := t.mem.record == some (t.trainRecord r) && r.verifyFails.isEmpty
  match r.failChannel.filter (t.fullyTrained r) with
  | some c => (t.raise evMemTrainFail 0 c).bringUpFails r
  | none =>
    ({ t with mem := { t.mem with trained := true, cached := cached, record := some (t.trainRecord r) } } : State).stageTo 6

/-- Stage 7: the attachment has trained, or its time is over; the wipe begins. -/
def State.stageUcie (s : State) (r : StageReport) : State := ((s.setUci r.m0 r.m1).startWipe none).stageTo 8

/-- Stage 9. -/
def State.stageReady (s : State) : State :=
  let t := if s.mem.wiping = some none then s.wiped else s
  ({ t with pwr := { t.pwr with ready := true, stage := 9 } } : State).raise evModuleReady 0 s.pwr.lastReset

/-- BRING_UP_STAGE_DONE: the stage that PWR_STATUS.STAGE shows ends. -/
def execBringUpStageDone (report : StageReport) (s : State) : Host.Outcome State Fault Refusal :=
  .next (
    if !s.powered ∨ s.pwr.failed ∨ s.pwr.tripped ∨ s.clk.unaligned ∨ (3 ≤ s.pwr.stage ∧ !s.pwr.good) then s
    else
      match s.pwr.stage with
      | 1 => s.stageAon report
      | 2 => if s.pwr.pwrEn then ({ s with pwr := { s.pwr with good := true } } : State).stageTo 3 else s
      | 3 => if report.sysClock then s.stageAlign report else s
      | 4 => s.stageBoot report
      | 5 => s.stageTrain report
      | 6 => ({ s with uci := { s.uci with trying := true } } : State).stageTo 7
      | 7 => s.stageUcie report
      | 8 => s.stageReady
      | _ => s)

end Sys2Proof.Machine
end

