-- ==== Sys2Proof/Machine/Registers.lean ====
section
/-!
DEFINITION. Machine/Registers.lean: the register space as the steward and the management controller see it (00 R11, R12; 18 R376,
R378; 22; 23 R444).
-/
namespace Sys2Proof.Machine

open Sys2Proof

/-! ### Counters and OVF registers (22, register index) -/

/-- Logical port that R268 leaves unused: the second half of a port that is not split. -/
def State.portUnused (s : State) (p : Nat) : Bool := p % 2 == 1 && !(s.port p).split

/-- Arrays of counters by their first element's address, their length and constructor. -/
def counterArrays : List (Nat × (Nat → Ctr)) :=
  [(48, .lpFrameCrc), (48, .lpHdrDrop), (48, .lpCreditOverrun), (48, .lpDegrade), (7, .cmAgeDrop), (48, .schGateLate),
   (48, .polYellow), (48, .polRed), (48, .polRedDrop), (8, .veConvertRange), (8, .veT2Reserved), (8, .veEarlyRead),
   (8, .veWriteClash)]

/-- Counters that are single registers. -/
def singleCounters : List Ctr :=
  [.rtUnassignedDrop, .rtNoRoute, .rtDrop, .rtStaleDrop, .rtDup, .rtNak, .rtHoldFull, .rtStreamLost, .cmYellowDrop, .cmRetainSpill,
   .cmEscapeEntry, .feAlignLoss, .feSpecialBlock, .feFoldRange, .feLseEmpty, .seDrop, .seHostLost, .seRoutePoison, .seTokenSkip,
   .seZeroExpert, .sePredictMiss, .seSpill, .seFormatError, .seScanRange, .mxT2Reserved, .mxIntRange, .mxEmptyGroup, .mxFormatError]
  ++ [.memCe, .memUe, .memHeal, .memHealFail, .memRetire, .memScrubPass, .ledCommit, .ledRefused, .ledSkip, .ledCarry, .ledRollback,
   .ledDigestMismatch, .plnUnlaunchedDrop, .plnCreditDrop, .plnLateDrop, .plnSigMismatch, .plnDetour, .plnAbort, .plnKvStore,
   .plnKvMissing, .tokWaitCycle, .tokSkip, .tokLandDrop, .tokQcSat, .uciBadAccess, .fwRestart, .fwLogDrop, .secAuthFail, .pwrTrip,
   .pwrThermTrip, .evtDrop, .ndAdapt, .ndRetry, .ndRefreshSlip, .ndReplay, .ndRelaxed]

/-- The element of an array of n registers that lies at an address. -/
def element (base n addr : Nat) : Option Nat :=
  if base ≤ addr ∧ addr < base + 8 * n ∧ addr % 8 = 0 then some ((addr - base) / 8) else none

/-- The counter at an address. -/
def ctrAt (addr : Nat) : Option Ctr :=
  match singleCounters.find? fun c => c.addr.1 == addr with
  | some c => some c
  | none => counterArrays.findSome? fun e => (element (e.2 0).addr.1 e.1 addr).map e.2

/-- Counters of the OVF register at an address, by bit. -/
def ovfAt (addr : Nat) : List Ctr :=
  let arr := fun (base n : Nat) (f : Nat → List Ctr) => ((element base n addr).map f).getD []
  match addr with
  | 0x31040 => [.rtUnassignedDrop, .rtNoRoute, .rtDrop, .rtStaleDrop, .rtDup, .rtNak, .rtHoldFull, .rtStreamLost]
  | 0x41058 => (List.range 7).map Ctr.cmAgeDrop ++ [.cmYellowDrop, .cmRetainSpill, .cmEscapeEntry]
  | 0x71020 => [.feAlignLoss, .feSpecialBlock, .feFoldRange, .feLseEmpty]
  | 0x91048 => [.seDrop, .seHostLost, .seRoutePoison, .seTokenSkip, .seZeroExpert, .sePredictMiss, .seSpill, .seFormatError, .seScanRange]
  | 0xA1020 => [.mxT2Reserved, .mxIntRange, .mxEmptyGroup, .mxFormatError]
  | 0xD1030 => [.memCe, .memUe, .memHeal, .memHealFail, .memRetire, .memScrubPass]
  | 0xE1030 => [.ledCommit, .ledRefused, .ledSkip, .ledCarry, .ledRollback, .ledDigestMismatch]
  | 0xF1030 => [.plnUnlaunchedDrop, .plnCreditDrop, .plnLateDrop, .plnSigMismatch, .plnDetour, .plnAbort]
  | 0xF1050 => [.plnKvStore, .plnKvMissing]
  | 0x101020 => [.tokWaitCycle, .tokSkip, .tokLandDrop, .tokQcSat]
  | 0x111008 => [.uciBadAccess]
  | 0x121010 => [.fwRestart, .fwLogDrop]
  | 0x131008 => [.secAuthFail]
  | 0x141010 => [.pwrTrip, .pwrThermTrip]
  | 0x171008 => [.evtDrop]
  | 0x181028 => [.ndAdapt, .ndRetry, .ndRefreshSlip, .ndReplay, .ndRelaxed]
  | _ =>
    arr 0x21800 48 (fun n => [.lpFrameCrc n, .lpHdrDrop n, .lpCreditOverrun n, .lpDegrade n])
    ++ arr 0x51200 48 (fun n => [.schGateLate n])
    ++ arr 0x61600 48 (fun n => [.polYellow n, .polRed n, .polRedDrop n])
    ++ arr 0x81100 8 (fun n => [.veConvertRange n, .veT2Reserved n, .veEarlyRead n, .veWriteClash n])

/-- The unit of a counter is absent, or its logical port unused: it reads 0 (22 R437, 15). -/
def State.ctrAbsent (s : State) (c : Ctr) : Bool :=
  let n := c.addr.2
  match c.addr.1 / 0x10000 with
  | 2 => s.portUnused n
  | 5 => s.portUnused n
  | 6 => s.portUnused n
  | 8 => !bitOf s.veMask n
  | 10 => !s.hasMatrix
  | _ => false

/-- The value of an OVF register. -/
def State.ovfValue (s : State) (l : List Ctr) : Nat :=
  (l.zipIdx).foldl (fun a e => if e.1 ∈ s.ovf ∧ !s.ctrAbsent e.1 then a + 2 ^ e.2 else a) 0

/-- A write of an OVF register: each 1 clears that bit and its counter (00 R13). -/
def State.ovfWrite (s : State) (l : List Ctr) (v : Word) : State :=
  (l.zipIdx).foldl (fun t e => if v.getLsbD e.2 ∧ !s.ctrAbsent e.1 then t.clearCtr e.1 else t) s

/-- The value of a counter register or OVF register, none where there is none at the address. -/
def State.counterRead (s : State) (addr : Nat) : Option Nat :=
  match ctrAt addr with
  | some c => some (if s.ctrAbsent c then 0 else s.ctr c)
  | none => if (ovfAt addr).isEmpty then none else some (s.ovfValue (ovfAt addr))

/-! ### Register values (the register tables) -/

/-- ASCII of an ordering code (22 R439). -/
def State.orderText (s : State) : List Byte :=
  if s.sec.cfgGen.isNone then []
  else [0x4F, 0x56, 0x2D, 0x50, 0x44] ++ (if s.variant = 2 then [0x31, 0x32] else [0x32, 0x34])
    ++ [if s.variant = 0 then 0x4D else 0x4E, 0x2D, if s.grade = 0 then 0x41 else 0x48]

def State.readId (s : State) (off : Nat) : Nat :=
  let v := s.sec.loaded
  match off with
  | 0x00 => if v then 0x01010A70 + s.variant * 2 ^ 32 + s.grade % 2 * 2 ^ 36 + Config.stepping.toNat * 2 ^ 40 else 0
  | 0x08 => if v then leNat s.sec.serial else 0
  | 0x10 => if v then leAt s.orderText 0 8 else 0
  | 0x18 => if v then leAt s.orderText 8 8 else 0
  | 0x20 => (s.rd .idScratch).toNat
  | _ => 0

/-- Mask of populated packages. -/
def State.pkgMask (s : State) : Nat := s.packages.foldl (fun a p => a + 2 ^ p) 0

def State.readCap (s : State) (off : Nat) : Nat :=
  match off with
  | 0x00 => s.feMask + s.veMask * 2 ^ 16 + 0xF * 2 ^ 24 + 0xFF * 2 ^ 32 + s.mtMask * 2 ^ 40
  | 0x08 => if s.sec.cfgGen.isSome then s.pkgMask + s.nch * 2 ^ 24 + s.wholeGib * 2 ^ 32 else 0
  | 0x10 => 0x7000083018
  | 0x18 => 0x1000_0400_0FFF_0001
  | 0x20 => 0x10 + 0xFFF * 2 ^ 8 + 0x4000 * 2 ^ 20 + 0x4000 * 2 ^ 36
  | _ => 0

/-- STATE and ROLE codes of LP_PORT_STATUS. -/
def PortState.code : PortState → Nat
  | .down => 0
  | .training => 1
  | .up => 2
  | .roleMismatch => 3

def Role.code : Role → Nat
  | .unused => 0
  | .endpoint => 1
  | .torus _ _ => 2
  | .twin => 3

/-- LP_PORT_STATUS. -/
def Port.status (p : Port) : Nat :=
  p.state.code + 4 * p.width.toNat + 2 ^ 4 * p.laneBad.toNat + 2 ^ 12 * p.role.code + 2 ^ 16 * p.peerFa.toNat
  + 2 ^ 32 * b2n p.peerPlane + 2 ^ 33 * b2n p.laneRev

def State.readLp (s : State) (off : Nat) : Nat :=
  if off = 0 then (s.rd .lpHbCfg).toNat
  else
    match element 0x100 48 off, element 0x300 48 off with
    | some n, _ => if s.portUnused n then 0 else (s.port n).status
    | _, some n => if s.portUnused n then 0 else (if (s.port n).role = .endpoint then (s.port n).epStep else Port.reset.epStep).toNat
    | _, _ => 0

/-- RT_FENCE_STATUS. A sweep is over within its command. -/
def State.fenceStatus (s : State) : Nat :=
  let fenced := (s.rt.parties.filter fun e => e.2.fenced).length
  s.rt.lastFa.toNat + s.rt.lastEpoch % 16 * 2 ^ 16 + b2n (s.rt.parties.any fun e => e.2.deferred) * 2 ^ 21 + fenced % 2 ^ 16 * 2 ^ 32

def State.readRt (s : State) (off : Nat) : Nat :=
  match off with
  | 0x00 => (s.rd .rtFabricPos).toNat
  | 0x08 => (s.rd .rtTorusDim).toNat
  | 0x10 => (s.rd .rtCtl).toNat
  | 0x18 => s.rt.dimord % 8 + 8 * b2n s.rt.unreach + s.holdUsed % 2 ^ 15 * 2 ^ 16
  | 0x20 => s.fenceStatus
  | _ => match element 0x100 48 off with
    | some n => (s.rd (.rtPortGroup n)).toNat
    | none => 0

def State.readCm (s : State) (off : Nat) : Nat :=
  match off with
  | 0x00 => (s.rd .cmPoolCfg).toNat
  | 0x08 => s.cellsUsed % 2 ^ 20 + s.usedBy .escape % 2 ^ 20 * 2 ^ 20
      + (s.cm.slots.filter CellSlot.retainedOnly).length % 2 ^ 20 * 2 ^ 40
  | _ => match element 0x100 7 off with
    | some n => (s.rd (.cmClassCfg n)).toNat
    | none => 0

/-- A register of a port array, 0 where the port is unused (15). -/
def State.portReg (s : State) (n port : Nat) (f : Nat → Reg) : Nat := if s.portUnused port then 0 else (s.rd (f n)).toNat

def State.readSch (s : State) (off : Nat) : Nat :=
  match element 0 48 off, element 0x200 48 off, element 0x400 240 off with
  | some n, _, _ => s.portReg n n .schPortCfg
  | _, some n, _ => s.portReg n n .schGateCtl
  | _, _, some n => s.portReg n (n / 5) .schRate
  | _, _, _ => 0

def State.readPol (s : State) (off : Nat) : Nat :=
  match element 0 192 off, element 0x800 192 off with
  | some n, _ => s.portReg n (n / 4) .polRate
  | _, some n => s.portReg n (n / 4) .polBurst
  | _, _ => 0

/-- KiB of working memory that installed plans reserve. -/
def State.reservedKib (s : State) : Nat := (s.pl.plans.map fun e => e.2.workKib).sum

/-- WM_STATUS (22 R441). -/
def State.wmStatus (s : State) : Nat :=
  s.reservedKib % 2 ^ 19 + (167936 - s.reservedKib) * 2 ^ 19 + (s.pl.plans.map fun e => e.2.descs.length).sum % 2 ^ 17 * 2 ^ 38

/-- MEM_STATUS. -/
def State.memStatus (s : State) : Nat :=
  let m := s.mem
  b2n m.trained + 2 * b2n m.cached + 4 * b2n m.layoutOk + 8 * b2n m.layoutBad + 2 ^ 4 * b2n m.hot + 2 ^ 5 * b2n m.wiping.isSome
  + 2 ^ 6 * b2n (!m.heals.isEmpty) + m.hotPkg % 2 ^ 8 * 2 ^ 16 + (remapEntries - m.remap.length) * 2 ^ 24

/-- MEM_REGION of a region; firmware has set that of FW once it has started (11 R252). -/
def State.regionReg (s : State) (r : Region) : Nat :=
  if s.mem.layoutOk || (r == .fw && s.fw.state != .boot) then s.regionBase r + s.regionSize r * 2 ^ 32 else 0

def State.readMem (s : State) (off : Nat) : Nat :=
  match off with
  | 0x00 => (s.rd .memRegionSize).toNat
  | 0x08 => (s.rd .memCtl).toNat
  | 0x10 => s.memStatus
  | 0x18 => s.mem.ueLog.toNat
  | 0x100 => s.regionReg .fw
  | 0x108 => s.regionReg .plan
  | 0x110 => s.regionReg .spill
  | 0x118 => s.regionReg .kv
  | 0x120 => s.regionReg .stateA
  | 0x128 => s.regionReg .stateB
  | 0x130 => s.regionReg .spare
  | _ => 0

def State.readLed (s : State) (off : Nat) : Nat :=
  match off with
  | 0x00 => s.ledStatus
  | 0x08 => s.led.step
  | 0x10 => s.led.planset.toNat
  | _ => 0

/-- PLN_SEQ_STATUS (07). -/
def State.seqStatus (s : State) : Nat :=
  s.pl.ctxs.foldl (fun a e =>
    if e.1 < 16 ∧ e.2.reserved ≠ 0 then a + 2 ^ e.1 + (if e.2.plane = some true then 2 ^ (16 + e.1) else 0) else a) 0

/-- UCI_RING_STATUS. -/
def Ring.status (r : Ring) : Nat := r.head % 2 ^ 12 + r.tail % 2 ^ 12 * 2 ^ 16 + b2n r.phase * 2 ^ 32 + b2n r.error * 2 ^ 33

def State.readUci (s : State) (off : Nat) : Nat :=
  if off = 0 then s.uciStatus
  else
    match element 0x100 8 off, element 0x200 32 off, element 0x400 32 off, element 0x800 64 off with
    | some n, _, _, _ => (s.rd (.uciWindow n)).toNat
    | _, some n, _, _ => (s.ring n).cfg.toNat
    | _, _, some n, _ => (s.ring n).status
    | _, _, _, some n => (s.rd (.uciMsi n)).toNat
    | _, _, _, _ => 0

/-- FW_STATUS.STATE. -/
def FwState.code : FwState → Nat
  | .boot => 0
  | .running => 1
  | .restarting => 2
  | .halted => 3

/-- FW_STATUS. -/
def State.fwStatus (s : State) : Nat :=
  let f := s.fw
  f.state.code + 4 * b2n f.active + 8 * b2n (s.slotImage (!f.active)).valid + 2 ^ 4 * b2n f.update.isSome + 2 ^ 8 * f.cores.toNat
  + f.lastWdog % 8 * 2 ^ 16 + min 15 s.recentRestarts * 2 ^ 20

def State.readFw (s : State) (off : Nat) : Nat :=
  match off with
  | 0x00 => s.fwStatus
  | 0x08 => s.fw.version.toNat
  | 0x18 => s.fw.logSeq
  | _ => 0

/-- SEC_STATUS and SEC_OTP, which bring-up reads from OTP (20, 22 R442). -/
def State.readSec (s : State) (off : Nat) : Nat :=
  if off = 0 then s.secStatus
  else match element 0x2000 1024 off with
    | some n => if s.sec.loaded then leAt s.sec.otp (8 * n) 8 else 0
    | none => 0

/-- PWR_STATUS. -/
def State.pwrStatus (s : State) : Nat :=
  let p := s.pwr
  p.stage % 16 + 2 ^ 4 * b2n p.ready + 2 ^ 5 * b2n p.failed + 2 ^ 6 * b2n p.good + 2 ^ 7 * b2n p.thermWarn + 2 ^ 8 * b2n p.alert
  + p.lastReset % 16 * 2 ^ 16 + p.geo.toNat * 2 ^ 20

/-- PWR_SAVE_STATUS. -/
def State.saveStatus (s : State) : Nat :=
  2 ^ 2 * b2n s.pwr.torn + match s.pwr.current with
    | some i => 1 + 2 * i + 2 ^ 3 * (byteAt (s.saveSlot i) 7 % 2) + saveSeq (s.saveSlot i) % 2 ^ 32 * 2 ^ 32
    | none => 0

def State.readPwr (s : State) (off : Nat) : Nat :=
  let p := s.pwr
  match off with
  | 0x00 => (s.rd .pwrCfg).toNat
  | 0x08 => s.pwrStatus
  | 0x10 => p.vinCv.toNat + p.pinW.toNat * 2 ^ 16 + p.tj.toNat * 2 ^ 32 + p.tmem.toNat * 2 ^ 40 + p.tstw.toNat * 2 ^ 48
  | 0x20 => s.saveStatus
  | _ => 0

def State.readClk (s : State) (off : Nat) : Nat :=
  match off with
  | 0x00 => s.clkMode
  | 0x08 => s.beat
  | 0x10 => s.clkStatus
  | _ => 0

/-- A health component whose unit is absent: a channel of a package that is not populated (22 R437). -/
def State.healthAbsent (s : State) (n : Nat) : Bool := decide (24 ≤ n) && decide (n < 216) && !(s.packages.contains ((n - 24) / 8))

/-- TEL_HEALTH. -/
def Health.value (h : Health) : Nat :=
  h.score % 2 ^ 10 + 2 ^ 10 * b2n h.present + 2 ^ 11 * b2n h.warn + 2 ^ 12 * b2n h.fault + h.last % 2 ^ 10 * 2 ^ 13

def State.healthOf (s : State) (n : Nat) : Health := Assoc.get Health.reset n s.health

/-- A component of a port that is unused: PRESENT is clear (17 R370). -/
def State.healthUnused (s : State) (n : Nat) : Bool :=
  let p := if n < 24 then n else n - 232
  (decide (n < 24) || decide (232 ≤ n)) && (s.port (2 * p)).role == .unused && (s.port (2 * p + 1)).role == .unused

def State.readTel (s : State) (off : Nat) : Nat :=
  match off with
  | 0x00 => (s.rd .telHealthCfg).toNat
  | 0x08 => (s.rd .telMarginRef).toNat
  | _ => match element 0x100 256 off with
    | some n => if s.healthAbsent n then 0 else { s.healthOf n with present := (s.healthOf n).present && !s.healthUnused n }.value
    | none => 0

/-- The value of the register at an address, 0 where there is none (22 R435). -/
def State.readReg (s : State) (addr : Nat) : Nat :=
  match s.counterRead addr with
  | some v => v
  | none =>
    let off := addr % 0x10000
    match addr / 0x10000 with
    | 0x00 => s.readId off
    | 0x01 => s.readCap off
    | 0x02 => s.readLp off
    | 0x03 => s.readRt off
    | 0x04 => s.readCm off
    | 0x05 => s.readSch off
    | 0x06 => s.readPol off
    | 0x08 => if off = 0 then (s.rd .veCtl).toNat else if off = 8 then (s.rd .veTrap).toNat else 0
    | 0x0C => if off = 0 then s.wmStatus else 0
    | 0x0D => s.readMem off
    | 0x0E => s.readLed off
    | 0x0F => if off = 0 then s.seqStatus else 0
    | 0x10 => if off = 0 then (s.rd .tokWaitLimit).toNat else 0
    | 0x11 => s.readUci off
    | 0x12 => s.readFw off
    | 0x13 => s.readSec off
    | 0x14 => s.readPwr off
    | 0x15 => s.readClk off
    | 0x16 => s.readTel off
    | 0x17 => if off = 0 then (s.rd .evtRing).toNat else if off = 8 then s.evt.next else 0
    | _ => 0

/-! ### Writes with a behaviour of their own -/

/-- The first write locks an RWL register; a later one is ignored (00 R11). -/
def State.lockOr (s : State) (r : Reg) (addr : Nat) (first : State → State) : State :=
  if s.locked.contains r then s.raise evRwlWriteIgnored 0 addr
  else first { s with locked := s.locked ++ [r] }

/-- A write of MEM_REGION_SIZE (11 R253). -/
def State.regionWrite (s : State) (v : Word) : State :=
  let v := v &&& 0x0000FFFFFFFFFFFF#64
  s.lockOr .memRegionSize 0xD0000 fun t =>
    let t := t.wr .memRegionSize v
    if t.layoutFits v then { t with mem := { t.mem with layoutOk := true } }
    else { t with mem := { t.mem with layoutBad := true } }.raise evMemLayoutBad 0 v.toNat

/-- A write of PWR_CFG: WARN_C is RW, TRIP_DV is RWL (21). -/
def State.pwrCfgWrite (s : State) (v : Word) : State :=
  let warn := v &&& 0x00000000007F0000#64
  if s.locked.contains Reg.pwrCfg then
    (s.wr .pwrCfg (warn ||| (s.rd .pwrCfg &&& 0x1FF#64))).raise evRwlWriteIgnored 0 0x140000
  else ({ s with locked := s.locked ++ [Reg.pwrCfg] } : State).wr .pwrCfg (warn ||| (v &&& 0x1FF#64))

/-- The limits of R318 for a configuration of cell memory. -/
def State.poolOk (s : State) : Bool :=
  decide (48 * ((List.range 7).map s.portGrant).sum + s.rdf .cmPoolCfg 0 20 ≤ 458752)
  && decide (s.rdf .cmPoolCfg 40 20 ≤ s.rdf .cmPoolCfg 20 20)

/-- A write of CM_POOL_CFG, or of CM_CLASS_CFG of a class (14 R318). -/
def State.cmWrite (s : State) (cls : Option Nat) (v : Word) : State :=
  let t := match cls with
    | none => s.wr .cmPoolCfg (v &&& 0x0FFFFFFFFFFFFFFF#64)
    | some c => s.wr (.cmClassCfg c) (v &&& 0x3FFFFFFF#64)
  let r : Reg := match cls with
    | none => .cmPoolCfg
    | some c => .cmClassCfg c
  if t.poolOk then { t with cm := { t.cm with
    inForce := if (Assoc.find r t.cm.inForce).isSome then t.cm.inForce else Assoc.set r (s.rd r) t.cm.inForce } }
  else s.raise evCmCfgBad 0 (match cls with
    | none => 0x40000
    | some c => 0x40100 + 8 * c)

/-- A write of EVT_RING (23, EVT_RING). -/
def State.evtRingReg (s : State) (v : Word) : State :=
  let v := v &&& 0x000FFFFFFFFFFFFF#64
  let cur := s.rd .evtRing
  let late := 0x000F000000000000#64
  if !v.getLsbD 41 then { s.wr .evtRing v with evt := { s.evt with toRing := [] } }
  else if cur.getLsbD 41 then s.wr .evtRing ((cur &&& ~~~late) ||| (v &&& late))
  else
    let k := fld v 36 5
    if k < 4 ∨ 16 < k ∨ !s.inWindows (fld v 0 36 * 4096) (64 * 2 ^ k) then s.raise evUciRingCfgBad 0 32
    else s.wr .evtRing v

/-- A write of VE_TRAP. -/
def State.trapWrite (s : State) (v : Word) : State := if v.getLsbD 63 then s.wr .veTrap 0 else s

/-- A write of MEM_UE_LOG. -/
def State.ueLogWrite (s : State) (v : Word) : State :=
  if v.getLsbD 63 then { s with mem := { s.mem with ueLog := 0 } } else s

/-- A write of PWR_STATUS. -/
def State.alertWrite (s : State) (v : Word) : State :=
  if v.getLsbD 8 then { s with pwr := { s.pwr with alert := false } } else s

/-- The registers that only hold what is written, with their address and the bits that are fields. -/
def plainReg (addr : Nat) : Option (Reg × Word) :=
  let arr := fun (base n : Nat) (f : Nat → Reg) (m : Word) => (element base n addr).map fun i => (f i, m)
  match addr with
  | 0x00020 => some (.idScratch, 0xFFFFFFFFFFFFFFFF#64)
  | 0x20000 => some (.lpHbCfg, 0xFFFFFF#64)
  | 0x30010 => some (.rtCtl, 0x3FFFFFFFFFFFFFFF#64)
  | 0x80000 => some (.veCtl, 1#64)
  | 0xD0008 => some (.memCtl, 0xFF#64)
  | 0x100000 => some (.tokWaitLimit, 0xFFFFFF#64)
  | 0x160000 => some (.telHealthCfg, 0x0FFFFFFFFFFFFFFF#64)
  | 0x160008 => some (.telMarginRef, 0x00FFFFFFFFFFFFFF#64)
  | _ => [arr 0x30100 48 .rtPortGroup 7#64, arr 0x50000 48 .schPortCfg 0xFFFFFFFFFF#64, arr 0x50400 240 .schRate 0xFFFFF#64,
      arr 0x60000 192 .polRate 0x1FFFFFFFFFF#64, arr 0x60800 192 .polBurst 0xFFFFFFFFFFFF#64,
      arr 0x110100 8 .uciWindow 0x1FFFFFFFFFFFFFFF#64].findSome? id

/-- A rate limit of a parked class is lifted: the class is eligible again, and wakes (15 R326, R327). -/
def State.rateLifted (s : State) (r : Reg) : State :=
  match r with
  | .schRate n =>
    let tc := n % 5 + 1
    if s.rate (n / 5) tc = 0 ∧ (s.sched (n / 5)).parked.contains tc then
      s.modSched (n / 5) fun x => { x.wake tc with parked := x.parked.filter fun c => c != tc }
    else s
  | _ => s

/-- A steward write of the register at an address (22 R435, R436). -/
def State.writeReg (s : State) (addr : Nat) (v : Word) : State :=
  match plainReg addr with
  | some (r, m) => (s.wr r (v &&& m)).rateLifted r
  | none =>
    match element 0x50200 48 addr, element 0x40100 7 addr, element 0x110200 32 addr, element 0x110300 32 addr, element 0x110800 64 addr with
    | some n, _, _, _, _ => s.gateCtl n v
    | _, some c, _, _, _ => s.cmWrite (some c) v
    | _, _, some n, _, _ => s.ringWrite n v
    | _, _, _, some n, _ => if n < 16 then s.sqBell n v else s.cqBell n v
    | _, _, _, _, some n => s.msiWrite n v
    | _, _, _, _, _ =>
      match addr with
      | 0x30000 => s.placeWrite false v
      | 0x30008 => s.placeWrite true v
      | 0x40000 => s.cmWrite none v
      | 0x80008 => s.trapWrite v
      | 0xD0000 => s.regionWrite v
      | 0xD0018 => s.ueLogWrite v
      | 0x120010 => s.fwCtl v
      | 0x140000 => s.pwrCfgWrite v
      | 0x140008 => s.alertWrite v
      | 0x140018 => s.resetCtl v
      | 0x150000 => s.modeWrite v
      | 0x170000 => s.evtRingReg v
      | _ => s.ovfWrite (ovfAt addr) v

/-! ### Steward transactions (18 R376, R378) -/

/-- Reserved bits of a transaction header are 0. -/
def headerOk (h : List Byte) : Bool :=
  decide (byteAt h 0 < 3) && byteAt h 1 == 0 && decide (leAt h 2 2 < 4096) && leAt h 6 2 == 0 && decide (leAt h 8 8 < 2 ^ 48)
  && (byteAt h 0 == 0 || leAt h 2 2 == 0)

/-- An access that the register space takes: one aligned register. -/
def accessOk (h : List Byte) : Bool := leAt h 4 2 == 8 && leAt h 8 8 % 8 == 0 && decide (leAt h 8 8 < 2 ^ 24)

/-- STEWARD_RD: a read transaction and its completion. -/
def execStewardRd (header : List Byte) (s : State) : Host.Outcome State Fault Refusal :=
  .next (
    if !s.attached ∨ header.length ≠ 16 ∨ byteAt header 0 = 1 ∨ byteAt header 0 = 2 then s
    else if 3 ≤ byteAt header 0 then s.bump .uciBadAccess
    else
      let tag := leAt header 2 2 % 4096
      if headerOk header && accessOk header then s.emit (.cpl tag false (leBytes 8 (s.readReg (leAt header 8 8))))
      else (s.bump .uciBadAccess).emit (.cpl tag true []))

/-- REGISTER_WRITE: a write transaction. -/
def execRegisterWrite (header : List Byte) (data : List Byte) (s : State) : Host.Outcome State Fault Refusal :=
  .next (
    if !s.attached ∨ header.length ≠ 16 ∨ byteAt header 0 = 0 ∨ byteAt header 0 = 2 then s
    else if headerOk header && accessOk header && decide (8 ≤ data.length) then
      s.writeReg (leAt header 8 8) (BitVec.ofNat 64 (leAt data 0 8))
    else s.bump .uciBadAccess)

/-- FABRIC_POS_WRITE. -/
def execFabricPosWrite (torusDim : Bool) (value : Word) (s : State) : Host.Outcome State Fault Refusal :=
  .next (if s.attached then s.placeWrite torusDim value else s)

/-- MEM_REGION_SIZE_WRITE. -/
def execMemRegionSizeWrite (value : Word) (s : State) : Host.Outcome State Fault Refusal :=
  .next (if s.attached then s.regionWrite value else s)

/-- COUNTER_OVF_CLEAR: a write of the OVF register at an address. -/
def execCounterOvfClear (addr : Nat) (value : Word) (s : State) : Host.Outcome State Fault Refusal :=
  .next (if s.attached then s.ovfWrite (ovfAt addr) value else s)

/-- VE_TRAP_CLEAR. -/
def execVeTrapClear (value : Word) (s : State) : Host.Outcome State Fault Refusal :=
  .next (if s.attached then s.trapWrite value else s)

/-- MEM_UE_LOG_CLEAR. -/
def execMemUeLogClear (value : Word) (s : State) : Host.Outcome State Fault Refusal :=
  .next (if s.attached then s.ueLogWrite value else s)

/-- ALERT_CLEAR. -/
def execAlertClear (value : Word) (s : State) : Host.Outcome State Fault Refusal :=
  .next (if s.attached then s.alertWrite value else s)

/-- CM_CONFIG_WRITE. -/
def execCmConfigWrite (cls : Option Nat) (value : Word) (s : State) : Host.Outcome State Fault Refusal :=
  .next (if s.attached ∧ cls.getD 0 < 7 then s.cmWrite cls value else s)

/-- EVT_RING_WRITE. -/
def execEvtRingWrite (value : Word) (s : State) : Host.Outcome State Fault Refusal :=
  .next (if s.attached then s.evtRingReg value else s)

/-! ### The management controller (22 R443) -/

/-- What the management controller reads at an offset. -/
def State.bmcReg (s : State) (addr : Nat) : Nat :=
  if addr % 8 = 0 ∧ ([0x00, 0x14, 0x15].contains (addr / 0x10000) ∨ addr = 0x130000) then s.readReg addr else 0

/-- BMC_READ: `count` bytes from an offset on. -/
def execBmcRead (offset : Nat) (count : Nat) (s : State) : Host.Outcome State Fault Refusal :=
  .next (
    if !s.powered ∨ 2 ^ 24 ≤ offset then s
    else s.emit (.bmc (((List.range (ceilDiv count 8)).flatMap fun i => leBytes 8 (s.bmcReg ((offset + 8 * i) % 2 ^ 24))).take count)))

/-! ### Telemetry snapshots (23 R449) -/

/-- Addresses of every register at offsets 0x1000 to 0x1FFF, in order: counters and their OVF registers. -/
def counterAddrs : List Nat :=
  (List.range 0x19).flatMap fun b => (List.range 512).filterMap fun i =>
    let a := b * 0x10000 + 0x1000 + 8 * i
    if (ctrAt a).isSome || !(ovfAt a).isEmpty then some a else none

/-- The body and the entry count of a snapshot that needs no plan. -/
def State.globalBody (s : State) (sel : Nat) : Option (List Byte × Nat) :=
  match sel with
  | 0 => some (counterAddrs.flatMap (fun a => leBytes 4 a ++ zeros 4 ++ leBytes 8 (s.readReg a)), counterAddrs.length)
  | 4 => some ((List.range 8).flatMap (fun g => (List.range 65536).flatMap fun d => leBytes 4 (s.routeEntry g d).toNat), 524288)
  | 5 => some ((List.range 4095).flatMap (fun i => leBytes 8 (Assoc.get 0 (0xF000 + i) s.rt.groups).toNat), 4095)
  | 6 => some ((List.range 65536).map (fun a =>
      let q := s.party (BitVec.ofNat 16 a)
      BitVec.ofNat 8 (q.epoch % 16 + 16 * b2n q.fenced)), 65536)
  | 7 => s.pwr.current.map fun i => (s.saveSlot i, 1)
  | 8 => some (s.evt.buffer.reverse.flatten, s.evt.buffer.length)
  | _ => none

/-- The body and the entry count of a snapshot of a plan. -/
def State.planBody (s : State) (sel : Nat) (p : Plan) : Option (List Byte × Nat) :=
  match sel with
  | 1 => if p.coll.any Coll.folds then
      some (p.members.flatMap (fun m =>
        let r := Assoc.get (0, 0) (p.num, m) s.pl.stragglers
        leBytes 8 m.toNat ++ leBytes 8 r.1 ++ leBytes 8 r.2), p.members.length) else none
  | 2 => p.dispatch.map fun d =>
      let mine := (List.range p.members.length).filter fun r => s.rankLeaf p r == some s.selfFa
      let es := mine.flatMap fun r => (List.range d.epm).map fun j => r * d.epm + j
      (es.flatMap (fun e =>
        let r := Assoc.get (0, 0) (p.num, e) s.pl.experts
        leBytes 8 r.1 ++ leBytes 8 r.2), es.length)
  | 3 => (Assoc.find p.num s.pl.snapshots).map fun b => (b, leAt b 12 4)
  | _ => none

/-- Header of a snapshot. -/
def State.snapshotHead (s : State) (sel n : Nat) : List Byte :=
  [0x54, 0x45, 0x4C, 0x53] ++ leBytes 1 sel ++ zeros 3 ++ leBytes 8 s.beat ++ leBytes 4 n ++ zeros 12

/-- TELEMETRY_SNAPSHOT. -/
def execTelemetrySnapshot (rq : Req) (s : State) : Host.Outcome State Fault Refusal :=
  .next (
    if !s.mayServe rq 0x0D then s
    else
      let sel := argOf rq 36 1
      let n := argOf rq 38 2
      let ofPlan := sel == 1 || sel == 2 || sel == 3
      if 8 < sel ∨ (!ofPlan ∧ n ≠ 0) then s.fail rq csMalformed 36
      else
        let s := if sel = 1 then s.fetchObject 2 [n] else if sel = 3 then s.fetchObject 3 [n] else s
        match (if ofPlan then (s.plan n).bind (s.planBody sel) else s.globalBody sel) with
        | none => s.fail rq csNotFound 0
        | some (b, k) => s.answer rq (s.snapshotHead sel k ++ b) [])

end Sys2Proof.Machine
end

