-- ==== Sys2Proof/Machine/Upkeep.lean ====
section
/-!
DEFINITION. Machine/Upkeep.lean: refresh, patrol scrub and temperature bands of module memory (11 R261, R262), the event ring
(23 R448), and health scores (17 R370 to R372).
-/
namespace Sys2Proof.Machine

open Sys2Proof

/-! ### Refresh (11 R261, R262; 16 R343, R344) -/

/-- A channel is populated. -/
def State.hasChannel (s : State) (c : Nat) : Bool := s.packages.contains (c / 8)

/-- The memory controller runs. -/
def State.memRuns (s : State) : Bool := s.engines && s.mem.trained

/-- The beat is one of a channel's calendar. -/
def State.onCalendar (s : State) (channel : Nat) : Bool := s.beat % 20 == channel % 20

/-- The first calendar beat of a channel in an interval of so many beats: where its status read or scrub read stands (log 114). -/
def State.turnIn (s : State) (channel interval : Nat) : Bool := s.onCalendar channel && decide (s.beat % interval < 20)

/-- Beats between two scrub reads of a channel (11 R261). -/
def State.scrubBeats (s : State) : Nat := s.rdf .memCtl 0 8 * 3600000000000 / (33554432 * 6)

/-- REFRESH: the next bank of a channel. Off the calendar a refresh falls only in RELAXED, and counts. -/
def execRefresh (channel : Nat) (s : State) : Host.Outcome State Fault Refusal :=
  .next (
    if !s.memRuns ∨ !s.hasChannel channel ∨ (s.clk.active ∧ !s.onCalendar channel) then s
    else
      let b := Assoc.get 0 channel s.mem.banks
      let t := { s with mem := { s.mem with banks := Assoc.set channel ((b + 1) % 16) s.mem.banks } }
      if s.onCalendar channel then t else t.bump .ndRefreshSlip)

/-- REFRESH_STATUS_READ: the refresh-rate band of a package. -/
def execRefreshStatusRead (package : Nat) (above95 : Bool) (s : State) : Host.Outcome State Fault Refusal :=
  .next (
    if !s.memRuns ∨ !(s.packages.contains package) ∨ (s.clk.active ∧ !s.turnIn (8 * package) 16384) then s
    else if !above95 then { s with mem := { s.mem with hotPkgs := s.mem.hotPkgs.filter (· != package) } }
    else if s.mem.hotPkgs.contains package then { s with mem := { s.mem with hotPkg := package } }
    else
      let t := { s with mem := { s.mem with hot := true, hotPkg := package, hotPkgs := s.mem.hotPkgs ++ [package] } }
      (t.raise evMemHot 0 package).leaveLockstep true)

/-- MEM_HOT_CLEAR: every package has kept at or below 95 °C for 100 ms. -/
def execMemHotClear (s : State) : Host.Outcome State Fault Refusal :=
  .next (
    if !s.memRuns ∨ !s.mem.hot ∨ !s.mem.hotPkgs.isEmpty then s
    else { s with mem := { s.mem with hot := false } }.raise evMemHotClear 0 0)

/-! ### Patrol scrub (11 R261) -/

/-- Raw units of a channel. -/
def rawUnits : Nat := 33554432

/-- Whole passes of a channel. -/
def State.scrubPasses (s : State) (channel : Nat) : Nat := Assoc.get 0 channel s.mem.scrub / rawUnits

/-- Populated channels. -/
def State.channels (s : State) : List Nat := s.packages.flatMap fun p => (List.range 8).map fun i => 8 * p + i

/-- Whole passes over all channels. -/
def State.allPasses (s : State) : Nat := (s.channels.map s.scrubPasses).foldl min (s.scrubPasses (s.channels.headD 0))

/-- A block is read by the scrub; an uncorrectable one in FW restarts firmware (11 R258, 19 R395). -/
def State.scrubBlock (s : State) (block : Nat) : State :=
  let t := s.readBlock block
  if s.regionOf (block / 16) = .fw ∧ rsDecode (s.flawsOf block) = .bad then t.fwRestart 2 else t

/-- The scrub read of a raw unit (11 R261): a data unit decodes its block, a check unit the 32 blocks of its stripe; `symbols` are the
errors that the array comes to hold in the unit, those of a check unit by its 128 symbols. -/
def State.scrubUnit (s : State) (channel unit : Nat) (symbols : List (Nat × BitVec 16)) : State :=
  if unit % 33 = 32 then
    (List.range 32).foldl (fun t j => match t.blockAt channel (unit - 32 + j) with
      | some b => (t.upset b ((symbols.filter fun e => e.1 / 4 == j).map fun e => (128 + e.1 % 4, e.2))).scrubBlock b
      | none => t) s
  else match s.blockAt channel unit with
    | some b => (s.upset b symbols).scrubBlock b
    | none => s

/-- PATROL_SCRUB: the next raw unit of a channel is read and decoded. -/
def execPatrolScrub (channel : Nat) (symbols : List (Nat × BitVec 16)) (s : State) : Host.Outcome State Fault Refusal :=
  .next (
    if !s.memRuns ∨ !s.hasChannel channel ∨ s.rdf .memCtl 0 8 = 0 ∨ s.mem.wiping.isSome
        ∨ (s.clk.active ∧ !s.turnIn channel s.scrubBeats) then s
    else
      let n := Assoc.get 0 channel s.mem.scrub
      let t := { s with mem := { s.mem with scrub := Assoc.set channel (n + 1) s.mem.scrub } }
      let t := if (n + 1) % rawUnits = 0 ∧ s.allPasses < t.allPasses then t.bump .memScrubPass else t
      t.scrubUnit channel (n % rawUnits) symbols)

/-! ### The event ring (23 R448) -/

/-- EVENT_RING_ENTRY_WRITE: the oldest entry that waits goes to the ring, bytes 8 to 63 first. -/
def execEventRingEntryWrite (s : State) : Host.Outcome State Fault Refusal :=
  .next (match s.evt.toRing with
  | [] => s
  | e :: rest =>
    let r := s.rd .evtRing
    if !s.attached ∨ !r.getLsbD 41 then s
    else
      let a := fld r 0 36 * 4096 + 64 * (leAt e 0 8 % 2 ^ fld r 36 5)
      let t := { s with evt := { s.evt with toRing := rest } }
      let t := (t.busWrite (a + 8) (e.drop 8)).busWrite a (e.take 8)
      if r.getLsbD 48 ∧ fld r 49 2 ≤ byteAt e 18 then t.interrupt (fld r 42 6) else t)

/-! ### Health (17 R370 to R372) -/

/-- Errors that count against an endpoint port so far: frames that failed CRC, and 16 for each retrain or degrade. -/
def State.portErrors (s : State) (phys : Nat) : Nat :=
  ([2 * phys, 2 * phys + 1].map fun p => s.ctr (.lpFrameCrc p) + 16 * ((s.port p).retrains + s.ctr (.lpDegrade p))).sum

/-- A number clamped to 0 to 1,000. -/
def clampScore (x : Int) : Nat := min 1000 x.toNat

/-- A reference field; 0 acts as 1. -/
def State.marginRef (s : State) (lo n : Nat) : Nat := max 1 (s.rdf .telMarginRef lo n)

/-- Errors in the interval: the count at the last sample is `base`; a count below it has been cleared since. -/
def sinceBase (now base : Nat) : Nat := if now < base then now else now - base

/-- The sample of a component, none where the measurement does not belong to it; with the error count it leaves as base. -/
def State.sample (s : State) (n : Nat) (m : Measure) : Option (Nat × Nat) :=
  let h := s.healthOf n
  let role := (s.port (2 * n)).role
  let weigh := fun (lo now : Nat) =>
    some (clampScore (1000 - (s.rdf .telHealthCfg lo 8 * sinceBase now h.base : Nat)), now)
  if n < 24 then
    match m with
    | .eye eh ew =>
      let r := min (1000 * eh / s.marginRef 0 16) (1000 * ew / s.marginRef 16 16)
      if role.code = 2 ∨ role.code = 3 then some (clampScore ((r : Int) - 1000), h.base) else none
    | .errors => if role = .endpoint then weigh 44 (s.portErrors n) else none
    | _ => none
  else if n < 216 then
    match m with
    | .errors => weigh 52 (Assoc.get 0 (n - 24) s.mem.errs)
    | _ => none
  else if n < 232 then
    match m with
    | .rail d => some (clampScore (1000 - (1000 * d / s.marginRef 48 8 : Nat)), 0)
    | _ => none
  else
    match m with
    | .optical c => some (clampScore (1000 * c / s.marginRef 32 16 : Nat), 0)
    | _ => none

/-- The score after a sample: an arithmetic shift rounds toward minus infinity. -/
def nextScore (score sample shift : Nat) : Nat := ((score : Int) + ((sample : Int) - score) / 2 ^ shift).toNat

/-- A flag: set below its threshold, cleared at the threshold plus HYST. -/
def flagAfter (was : Bool) (score limit hyst : Nat) : Bool := if was then decide (score < limit + hyst) else decide (score < limit)

/-- HEALTH_SAMPLE. -/
def execHealthSample (component : Nat) (measure : Measure) (s : State) : Host.Outcome State Fault Refusal :=
  .next (
    if !s.firmware ∨ 256 ≤ component ∨ s.rdf .telHealthCfg 0 10 = 0 ∨ s.healthAbsent component ∨ s.healthUnused component then s
    else
      match s.sample component measure with
      | none => s
      | some (x, base) =>
        let h := s.healthOf component
        let sc := nextScore h.score x (s.rdf .telHealthCfg 10 4)
        let hyst := s.rdf .telHealthCfg 34 10
        let w := flagAfter h.warn sc (s.rdf .telHealthCfg 14 10) hyst
        let f := flagAfter h.fault sc (s.rdf .telHealthCfg 24 10) hyst
        let h' : Health := { score := sc, warn := w, fault := f, last := x, base := base, present := true }
        let t := { s with health := Assoc.set component h' s.health }
        let t := if w && !h.warn then t.raise evWearWarn 0 component else t
        if f && !h.fault then t.raise evWearFault 0 component else t)

end Sys2Proof.Machine
end

