-- ==== Sys2Proof/Machine/Dispatch.lean ====
section
/-!
DEFINITION. Machine/Dispatch.lean: one arm per command, each a direct call of that command's meaning.
-/
namespace Sys2Proof.Machine

open Sys2Proof

/-- The effect of a command on everything but the queue. -/
def exec (i : Instr) (s : State) : Host.Outcome State Fault Refusal :=
  match i with
  | .sqDoorbell ring value => Sys2Proof.Machine.execSqDoorbell ring value s
  | .cqDoorbell ring value => Sys2Proof.Machine.execCqDoorbell ring value s
  | .ringConfigWrite ring value => Sys2Proof.Machine.execRingConfigWrite ring value s
  | .msiUnmask vec value => Sys2Proof.Machine.execMsiUnmask vec value s
  | .sqEntryFetch ring entry => Sys2Proof.Machine.execSqEntryFetch ring entry s
  | .planInstall rq binary => Sys2Proof.Machine.execPlanInstall rq binary s
  | .planRemove rq => Sys2Proof.Machine.execPlanRemove rq s
  | .membershipSet rq record => Sys2Proof.Machine.execMembershipSet rq record s
  | .stateDefine rq param => Sys2Proof.Machine.execStateDefine rq param s
  | .stateImport rq param => Sys2Proof.Machine.execStateImport rq param s
  | .stateExport rq => Sys2Proof.Machine.execStateExport rq s
  | .stateExportDone rid => Sys2Proof.Machine.execStateExportDone rid s
  | .ledgerQuery rq => Sys2Proof.Machine.execLedgerQuery rq s
  | .rollback rq => Sys2Proof.Machine.execRollback rq s
  | .fence rq => Sys2Proof.Machine.execFence rq s
  | .resilver rq peerOk => Sys2Proof.Machine.execResilver rq peerOk s
  | .resilverCopyDone => Sys2Proof.Machine.execResilverCopyDone s
  | .fwUpdate rq image sig => Sys2Proof.Machine.execFwUpdate rq image sig s
  | .fwImageWritten => Sys2Proof.Machine.execFwImageWritten s
  | .fwHandoff recordOk => Sys2Proof.Machine.execFwHandoff recordOk s
  | .attest rq => Sys2Proof.Machine.execAttest rq s
  | .telemetrySnapshot rq => Sys2Proof.Machine.execTelemetrySnapshot rq s
  | .portConfig rq => Sys2Proof.Machine.execPortConfig rq s
  | .gateConfig rq entries => Sys2Proof.Machine.execGateConfig rq entries s
  | .meterConfig rq => Sys2Proof.Machine.execMeterConfig rq s
  | .logConfig rq mask => Sys2Proof.Machine.execLogConfig rq mask s
  | .wipe rq => Sys2Proof.Machine.execWipe rq s
  | .wipeDone => Sys2Proof.Machine.execWipeDone s
  | .lifecycle rq record sig => Sys2Proof.Machine.execLifecycle rq record sig s
  | .abort rq => Sys2Proof.Machine.execAbort rq s
  | .stewardRd header => Sys2Proof.Machine.execStewardRd header s
  | .bmcRead offset count => Sys2Proof.Machine.execBmcRead offset count s
  | .registerWrite header data => Sys2Proof.Machine.execRegisterWrite header data s
  | .fabricPosWrite torusDim value => Sys2Proof.Machine.execFabricPosWrite torusDim value s
  | .memRegionSizeWrite value => Sys2Proof.Machine.execMemRegionSizeWrite value s
  | .counterOvfClear addr value => Sys2Proof.Machine.execCounterOvfClear addr value s
  | .veTrapClear value => Sys2Proof.Machine.execVeTrapClear value s
  | .memUeLogClear value => Sys2Proof.Machine.execMemUeLogClear value s
  | .alertClear value => Sys2Proof.Machine.execAlertClear value s
  | .lockstepRequest value => Sys2Proof.Machine.execLockstepRequest value s
  | .lockstepEnter => Sys2Proof.Machine.execLockstepEnter s
  | .gateCtlWrite port value => Sys2Proof.Machine.execGateCtlWrite port value s
  | .gateListActivate port => Sys2Proof.Machine.execGateListActivate port s
  | .gateEntryBoundary port => Sys2Proof.Machine.execGateEntryBoundary port s
  | .cmConfigWrite cls value => Sys2Proof.Machine.execCmConfigWrite cls value s
  | .evtRingWrite value => Sys2Proof.Machine.execEvtRingWrite value s
  | .fwCtlRestart value => Sys2Proof.Machine.execFwCtlRestart value s
  | .engineReset value => Sys2Proof.Machine.execEngineReset value s
  | .moduleReset cause => Sys2Proof.Machine.execModuleReset cause s
  | .coldReset cause => Sys2Proof.Machine.execColdReset cause s
  | .bringUpStageDone report => Sys2Proof.Machine.execBringUpStageDone report s
  | .supplyTrip => Sys2Proof.Machine.execSupplyTrip s
  | .moonstoneSaveDone => Sys2Proof.Machine.execMoonstoneSaveDone s
  | .supplyRestored => Sys2Proof.Machine.execSupplyRestored s
  | .vinHigh vinCv => Sys2Proof.Machine.execVinHigh vinCv s
  | .thermalTrip leak => Sys2Proof.Machine.execThermalTrip leak s
  | .thermWarn tj => Sys2Proof.Machine.execThermWarn tj s
  | .clkLockLost plls => Sys2Proof.Machine.execClkLockLost plls s
  | .linkRefclkLost quadrant => Sys2Proof.Machine.execLinkRefclkLost quadrant s
  | .xtalLost => Sys2Proof.Machine.execXtalLost s
  | .uciDegraded second => Sys2Proof.Machine.execUciDegraded second s
  | .dataFrameReceive port frame => Sys2Proof.Machine.execDataFrameReceive port frame s
  | .controlFrameReceive port frame => Sys2Proof.Machine.execControlFrameReceive port frame s
  | .linkAckTimeout port => Sys2Proof.Machine.execLinkAckTimeout port s
  | .controlSlotLoss port => Sys2Proof.Machine.execControlSlotLoss port s
  | .laneFail phys lane => Sys2Proof.Machine.execLaneFail phys lane s
  | .portUp port peer => Sys2Proof.Machine.execPortUp port peer s
  | .linkTrainFail port => Sys2Proof.Machine.execLinkTrainFail port s
  | .portDown port => Sys2Proof.Machine.execPortDown port s
  | .portRetrainTimer port => Sys2Proof.Machine.execPortRetrainTimer port s
  | .cellReceive port bytes => Sys2Proof.Machine.execCellReceive port bytes s
  | .adaptiveEgressChoice ptr => Sys2Proof.Machine.execAdaptiveEgressChoice ptr s
  | .schedulerSelect port => Sys2Proof.Machine.execSchedulerSelect port s
  | .rateWheelWake port cls => Sys2Proof.Machine.execRateWheelWake port cls s
  | .cellTransmit port overrun => Sys2Proof.Machine.execCellTransmit port overrun s
  | .localCellDeliver ep cls => Sys2Proof.Machine.execLocalCellDeliver ep cls s
  | .nakTimer src hdl => Sys2Proof.Machine.execNakTimer src hdl s
  | .probeTimer dst hdl => Sys2Proof.Machine.execProbeTimer dst hdl s
  | .ackReceive src hdl ackSeq credits step => Sys2Proof.Machine.execAckReceive src hdl ackSeq credits step s
  | .nakReceive src hdl step ranges => Sys2Proof.Machine.execNakReceive src hdl step ranges s
  | .launch src hdl step sig scalar => Sys2Proof.Machine.execLaunch src hdl step sig scalar s
  | .heartbeatSend port => Sys2Proof.Machine.execHeartbeatSend port s
  | .heartbeat port step count flags => Sys2Proof.Machine.execHeartbeat port step count flags s
  | .heartbeatMiss port => Sys2Proof.Machine.execHeartbeatMiss port s
  | .stepEnd port step verdict => Sys2Proof.Machine.execStepEnd port step verdict s
  | .twinHbSend port => Sys2Proof.Machine.execTwinHbSend port s
  | .twinHb port step count silent => Sys2Proof.Machine.execTwinHb port step count silent s
  | .twinSilent => Sys2Proof.Machine.execTwinSilent s
  | .twinBWaitEnd => Sys2Proof.Machine.execTwinBWaitEnd s
  | .silence step silent => Sys2Proof.Machine.execSilence step silent s
  | .fenceNotice src party epoch deferred beat => Sys2Proof.Machine.execFenceNotice src party epoch deferred beat s
  | .fenceBumpDeferred party => Sys2Proof.Machine.execFenceBumpDeferred party s
  | .admitNotice src party epoch gen => Sys2Proof.Machine.execAdmitNotice src party epoch gen s
  | .linkNotice src reporter dim minus restored beat => Sys2Proof.Machine.execLinkNotice src reporter dim minus restored beat s
  | .digest step d word => Sys2Proof.Machine.execDigest step d word s
  | .digestSend step => Sys2Proof.Machine.execDigestSend step s
  | .commitNotice step record => Sys2Proof.Machine.execCommitNotice step record s
  | .normResult hdl sum step => Sys2Proof.Machine.execNormResult hdl sum step s
  | .healRequest src tag ref => Sys2Proof.Machine.execHealRequest src tag ref s
  | .healRequestTimeout => Sys2Proof.Machine.execHealRequestTimeout s
  | .healFail ref reason => Sys2Proof.Machine.execHealFail ref reason s
  | .healData ref data => Sys2Proof.Machine.execHealData ref data s
  | .granuleReceive ref data => Sys2Proof.Machine.execGranuleReceive ref data s
  | .controlRecordReceive gen record => Sys2Proof.Machine.execControlRecordReceive gen record s
  | .contribReceive m => Sys2Proof.Machine.execContribReceive m s
  | .expsReceive m => Sys2Proof.Machine.execExpsReceive m s
  | .expsSend hdl chunk => Sys2Proof.Machine.execExpsSend hdl chunk s
  | .maxeReceive m => Sys2Proof.Machine.execMaxeReceive m s
  | .psumReceive m => Sys2Proof.Machine.execPsumReceive m s
  | .psumSend hdl chunk => Sys2Proof.Machine.execPsumSend hdl chunk s
  | .foldResultForm hdl chunk => Sys2Proof.Machine.execFoldResultForm hdl chunk s
  | .resultReceive m => Sys2Proof.Machine.execResultReceive m s
  | .gatherReceive m => Sys2Proof.Machine.execGatherReceive m s
  | .exchReceive m src dst => Sys2Proof.Machine.execExchReceive m src dst s
  | .endReceive m => Sys2Proof.Machine.execEndReceive m s
  | .mirrorReceive m => Sys2Proof.Machine.execMirrorReceive m s
  | .rugUpdate hdl chunk upsets => Sys2Proof.Machine.execRugUpdate hdl chunk upsets s
  | .normPassStart normPlan step => Sys2Proof.Machine.execNormPassStart normPlan step s
  | .carry => Sys2Proof.Machine.execCarry s
  | .commitOnReady => Sys2Proof.Machine.execCommitOnReady s
  | .writeMessageReceive m => Sys2Proof.Machine.execWriteMessageReceive m s
  | .queueContextStart => Sys2Proof.Machine.execQueueContextStart s
  | .opIssue hdl qid => Sys2Proof.Machine.execOpIssue hdl qid s
  | .opIterationDone hdl qid => Sys2Proof.Machine.execOpIterationDone hdl qid s
  | .waitCycle hdl => Sys2Proof.Machine.execWaitCycle hdl s
  | .spaccPass2 hdl => Sys2Proof.Machine.execSpaccPass2 hdl s
  | .healStart => Sys2Proof.Machine.execHealStart s
  | .refresh channel => Sys2Proof.Machine.execRefresh channel s
  | .refreshStatusRead package above95 => Sys2Proof.Machine.execRefreshStatusRead package above95 s
  | .memHotClear => Sys2Proof.Machine.execMemHotClear s
  | .patrolScrub channel symbols => Sys2Proof.Machine.execPatrolScrub channel symbols s
  | .watchdogExpire cores => Sys2Proof.Machine.execWatchdogExpire cores s
  | .fwRestartDone => Sys2Proof.Machine.execFwRestartDone s
  | .eventRingEntryWrite => Sys2Proof.Machine.execEventRingEntryWrite s
  | .healthSample component measure => Sys2Proof.Machine.execHealthSample component measure s
  | .stateImportDone rid => Sys2Proof.Machine.execStateImportDone rid s
  | .pwrEnLow => Sys2Proof.Machine.execPwrEnLow s
  | .linkRefclkRestored quadrant => Sys2Proof.Machine.execLinkRefclkRestored quadrant s
  | .inputFuseOpen => Sys2Proof.Machine.execInputFuseOpen s
  | .thermWarnClear tj => Sys2Proof.Machine.execThermWarnClear tj s
  | .updateWaitTimeout => Sys2Proof.Machine.execUpdateWaitTimeout s

end Sys2Proof.Machine
end

