-- ==== Sys2Proof/Safety.lean ====
section
/-!
DEFINITION. Safety.lean: the notions that statements about the module are made of.
-/
namespace Sys2Proof.Machine

open Sys2Proof

/-! ### OTP (20 R400) -/

/-- Every bit that is 1 in a field is 1 in its later value. -/
def bitsKept (a b : List Byte) : Prop := ∀ i k : Nat, (a.getD i 0).getLsbD k = true → (b.getD i 0).getLsbD k = true

/-- The sizes of the OTP fields that burns overwrite whole (20, OTP layout). -/
def otpSized (x : Security) : Prop :=
  x.cfg.length = 4 ∧ (∀ b ∈ x.cfg, b.length = 128) ∧ x.devSeed.length = 48 ∧ x.wrapKey.length = 32

/-- No OTP bit returns from 1 to 0, and the fields set at manufacture stay. -/
def otpKept (x y : Security) : Prop :=
  y.serial = x.serial ∧ y.keySlots = x.keySlots ∧ bitsKept x.lc y.lc ∧ bitsKept x.cfgUsed y.cfgUsed ∧ bitsKept x.revoke y.revoke
  ∧ (∀ g : Nat, bitsKept (x.cfg.getD g []) (y.cfg.getD g [])) ∧ bitsKept x.devSeed y.devSeed ∧ bitsKept x.wrapKey y.wrapKey
  ∧ ∀ k : Nat, x.svn.getLsbD k = true → y.svn.getLsbD k = true

/-! ### Which commands write what -/

/-- The commands that can reset the module: MODULE_RESET, the two ways of writing PWR_RESET_CTL, COLD_RESET and
SUPPLY_RESTORED (21 R430). -/
def resetsModule : Instr → Bool
  | .moduleReset _ | .engineReset _ | .registerWrite _ _ | .coldReset _ | .supplyRestored => true
  | _ => false

/-- The commands that write OTP or the keys and configuration that Lapis holds. -/
def writesSecurity : Instr → Bool
  | .bringUpStageDone _ | .fwHandoff _ | .fwRestartDone | .lifecycle _ _ _ => true
  | i => resetsModule i

/-- The commands that write the clock unit: reference, locks, holds and operating mode. -/
def writesClocks : Instr → Bool
  | .bringUpStageDone _ | .clkLockLost _ | .linkRefclkLost _ | .linkRefclkRestored _ | .lockstepEnter | .lockstepRequest _
  | .refreshStatusRead _ _ | .xtalLost => true
  | i => resetsModule i

/-- The commands that lock a write-once register. -/
def locksRegisters : Instr → Bool
  | .fabricPosWrite _ _ | .memRegionSizeWrite _ | .membershipSet _ _ => true
  | i => resetsModule i

/-- The commands that write health scores. -/
def writesHealth : Instr → Bool
  | .healthSample _ _ => true
  | i => resetsModule i

/-- The service requests of a submission ring (18 R386), which also complete. -/
def isRequest : Instr → Bool
  | .planInstall _ _ | .planRemove _ | .membershipSet _ _ | .stateDefine _ _ | .stateImport _ _ | .stateExport _ | .ledgerQuery _
  | .rollback _ | .fence _ | .resilver _ _ | .fwUpdate _ _ _ | .attest _ | .telemetrySnapshot _ | .portConfig _ | .gateConfig _ _
  | .meterConfig _ | .logConfig _ _ | .wipe _ | .lifecycle _ _ _ | .abort _ => true
  | _ => false

/-- The commands at whose end a request can complete, or that take one. -/
def completesRequests : Instr → Bool
  | .sqEntryFetch _ _ | .stateImportDone _ | .stateExportDone _ | .wipeDone | .fwHandoff _ | .fwRestartDone | .updateWaitTimeout
  | .digest _ _ _ | .controlRecordReceive _ _ | .granuleReceive _ _ | .controlFrameReceive _ _ | .controlSlotLoss _ | .laneFail _ _
  | .linkAckTimeout _ | .linkRefclkLost _ | .portDown _ => true
  | i => isRequest i || resetsModule i

/-- The commands that write the register file: the steward's register writes, and those that complete a request, since the
interrupt of its completion may set UCI_MSI. -/
def writesRegisters : Instr → Bool
  | .cmConfigWrite _ _ | .cqDoorbell _ _ | .eventRingEntryWrite | .evtRingWrite _ | .fabricPosWrite _ _ | .gateCtlWrite _ _
  | .gateListActivate _ | .memRegionSizeWrite _ | .msiUnmask _ _ | .opIterationDone _ _ | .ringConfigWrite _ _ | .veTrapClear _ => true
  | i => completesRequests i

/-- The commands that write what firmware holds: its state, image slots, update, logs and error records. -/
def writesFirmware : Instr → Bool
  | .bringUpStageDone _ | .fwCtlRestart _ | .fwImageWritten | .patrolScrub _ _ | .watchdogExpire _ => true
  | i => completesRequests i

/-- The commands that write the rings, the started requests or the attachment of the steward. -/
def writesAttachment : Instr → Bool
  | .bringUpStageDone _ | .cqDoorbell _ _ | .inputFuseOpen | .pwrEnLow | .ringConfigWrite _ _ | .sqDoorbell _ _ | .supplyTrip
  | .thermalTrip _ | .uciDegraded _ => true
  | i => completesRequests i

/-- The commands at which a party, a stream or a port may be lost, so that instances end and the node is left to one twin
(17 R348 to R356). -/
def losesParties : Instr → Bool
  | .controlFrameReceive _ _ | .controlSlotLoss _ | .laneFail _ _ | .linkAckTimeout _ | .linkRefclkLost _ | .portConfig _
  | .portDown _ | .nakTimer _ _ | .probeTimer _ _ | .heartbeatMiss _ | .silence _ _ | .twinHb _ _ _ _ | .twinSilent
  | .twinBWaitEnd | .fence _ | .fenceNotice _ _ _ _ _ | .fwRestartDone => true
  | i => resetsModule i

/-- The commands that open, advance or end instances, so that parked results reach the ledger. -/
def endsInstances : Instr → Bool
  | .abort _ | .bringUpStageDone _ | .contribReceive _ | .endReceive _ | .exchReceive _ _ _ | .expsReceive _
  | .foldResultForm _ _ | .gatherReceive _ | .launch _ _ _ _ _ | .lifecycle _ _ _ | .maxeReceive _ | .membershipSet _ _
  | .mirrorReceive _ | .normPassStart _ _ | .opIterationDone _ _ | .patrolScrub _ _ | .planInstall _ _ | .planRemove _
  | .psumReceive _ | .queueContextStart | .resultReceive _ | .rollback _ | .rugUpdate _ _ _ | .spaccPass2 _ | .waitCycle _
  | .wipeDone | .writeMessageReceive _ => true
  | i => losesParties i

/-- The commands that end instances, or whose reads of module memory can meet an uncorrectable block, which costs plans and instances
(11 R256 to R258). -/
def meetsMemoryErrors : Instr → Bool
  | .carry | .healRequest _ _ _ | .nakReceive _ _ _ _ | .resilverCopyDone | .stateDefine _ _ | .stateExportDone _
  | .stateImportDone _ | .telemetrySnapshot _ => true
  | i => endsInstances i

/-- The commands that write the plan tables: plans, slots, queues of programs, sequence contexts, write messages. -/
def writesPlans : Instr → Bool
  | .ackReceive _ _ _ _ _ | .cellReceive _ _ | .expsSend _ _ | .localCellDeliver _ _ | .opIssue _ _ | .psumSend _ _ => true
  | i => meetsMemoryErrors i

/-- The commands that write the ledger: generation, banks, shards, norms, digests, transfers. -/
def writesLedger : Instr → Bool
  | .ackReceive _ _ _ _ _ | .admitNotice _ _ _ _ | .cellReceive _ _ | .commitNotice _ _ | .commitOnReady
  | .controlRecordReceive _ _ | .digest _ _ _ | .digestSend _ | .expsSend _ _ | .healData _ _ | .healFail _ _ | .healStart
  | .localCellDeliver _ _ | .normResult _ _ _ | .stateExport _ | .stateImport _ _ => true
  | i => meetsMemoryErrors i

/-- The commands that may store into module memory, working memory or cell memory: by their own effect, by what a read error that
they meet makes of a granule, or by what they set going in an instance. -/
def writesMemory : Instr → Bool
  | .ackReceive _ _ _ _ _ | .cellReceive _ _ | .expsSend _ _ | .fwHandoff _ | .granuleReceive _ _ | .healData _ _ | .healFail _ _
  | .healStart | .localCellDeliver _ _ => true
  | .planInstall _ _ => false
  | i => meetsMemoryErrors i

/-- The commands that write the link state of ports. -/
def writesPorts : Instr → Bool
  | .adaptiveEgressChoice _ | .admitNotice _ _ _ _ | .cellReceive _ _ | .cellTransmit _ _ | .dataFrameReceive _ _
  | .digest _ _ _ | .heartbeat _ _ _ _ | .heartbeatSend _ | .lifecycle _ _ _ | .linkRefclkRestored _ | .localCellDeliver _ _
  | .membershipSet _ _ | .portRetrainTimer _ | .portUp _ _ | .schedulerSelect _ | .stepEnd _ _ _ | .twinHbSend _ => true
  | i => losesParties i

/-- The commands that write what the module knows of its twin. -/
def writesTwin : Instr → Bool
  | .admitNotice _ _ _ _ | .digest _ _ _ | .membershipSet _ _ => true
  | i => losesParties i

/-! ### A message that passes the checks which all messages but END share (04 R79, R83, R99) -/

/-- Message m of an installed plan p enters: from `s` the slot stands open, as `t`, with the message's STEP, LAYER and plane
mask, its instance does not wait for queue contexts (08 R189), its sender is not refused, and no hop of its tree is missing
(13 R292). -/
def accepted (s : State) (m : Msg) (p : Plan) (t : State) : Prop :=
  let u := s.takeInbox m.src m.hdl
  let fm := !(u.isLeafOf m.src)
  u.engines = true ∧ u.plan (planOf m.hdl) = some p ∧ (u.slot m.hdl).unlaunched fm m.src m.head.step = false ∧ m.head.ok = true
  ∧ t = u.openFor p m.hdl fm m.head.step m.head.layer ∧ (t.slot m.hdl).state = .opened ∧ t.pl.waiting.contains m.hdl = false
  ∧ (t.slot m.hdl).refused.contains m.src = false ∧ m.head.sig = p.sig ∧ m.head.step = (t.slot m.hdl).step
  ∧ (p.seqn.isSome = true → m.head.layer = ((t.slot m.hdl).scalar.getD 0).toNat) ∧ m.head.pmask = (t.slot m.hdl).pmask
  ∧ t.hopMissing p (t.slot m.hdl) = false

end Sys2Proof.Machine
end

