-- ==== Sys2Proof/Certificates/Slice0/Obligations.lean ====
section
/-!
DEFINITION. Certificates/Slice0/Obligations.lean: the statements of this model for its provers. Where a statement rests on a
choice of the model, the docstring or the title names the log entry of notes/assumptions.
-/
set_option linter.unusedVariables false

open Sys2Proof Sys2Proof.Machine

/-- A step runs the command at the front of the queue with the queue's rest (00_scope.md, 95_what_each_step_holds.md).
Choices of the model that it rests on: log 1. -/
def Obligations.StepTakesTheFrontCommand : Prop :=
  ∀ (c : Instr) (rest : List Instr) (s : State), s.pending = c :: rest → step s = exec c { s with pending := rest }

/-- On an empty queue one core cycle passes, and nothing passes in an unpowered module (16_determinism.md R340,
23_counters_events.md R448). Choices of the model that it rests on: log 1. -/
def Obligations.EmptyQueueLetsACyclePass : Prop :=
  ∀ s : State, s.pending = [] →
    (s.pwr.unpowered = true → step s = .next s) ∧
    (s.pwr.unpowered = false → s.clk.aligned = true →
      step s = .next { s with clk := { s.clk with cycle := s.clk.cycle + 1 } }) ∧
    (s.pwr.unpowered = false → s.clk.aligned = false →
      step s = .next { s with clk := { s.clk with aon := s.clk.aon + 1 } })

/-- Every command answers a next state: none faults and none is refused (opcode_table.json, 23_counters_events.md R446). -/
def Obligations.EveryCommandAnswersANextState : Prop :=
  ∀ (c : Instr) (s : State), ∃ t : State, exec c s = .next t

/-- No command changes the queue of waiting commands, so the queue is served first in, first out
(95_what_each_step_holds.md, opcode_table.json). -/
def Obligations.CommandsLeaveTheQueue : Prop :=
  ∀ (c : Instr) (s t : State), exec c s = .next t → t.pending = s.pending

/-- What reset leaves: register values, bring-up stage 1, empty queues, health 1,000, no generation (22_registers.md,
16_determinism.md R343, 17_faults_recovery.md R370, 12_links_cells.md R280, 21_module_power_clocks.md R431,
05_training_state.md R137). -/
def Obligations.ResetHoldsTheStatedValues : Prop :=
  State.reset.pending = [] ∧
  State.reset.rd .lpHbCfg = 0x5DC0A#64 ∧ State.reset.rdf .rtCtl 0 16 = 0xC8 ∧ State.reset.rdf .rtCtl 16 16 = 0x190 ∧
  State.reset.rdf .rtCtl 32 12 = 0x400 ∧ State.reset.rdf .rtCtl 44 1 = 1 ∧ State.reset.rdf .rtCtl 45 14 = 0x2000 ∧
  State.reset.rd .cmPoolCfg = BitVec.ofNat 64 (0x4000 + 0x70000 * 2 ^ 20 + 0x60000 * 2 ^ 40) ∧
  (∀ p : Nat, State.reset.rd (.schPortCfg p) = 0x4010204018#64) ∧
  State.reset.rd .memCtl = 0x18#64 ∧ State.reset.rd .tokWaitLimit = 0x3E8#64 ∧ (∀ v : Nat, State.reset.rd (.uciMsi v) = 1#64) ∧
  State.reset.rd .pwrCfg = 0x640190#64 ∧ State.reset.rdf .evtRing 49 2 = 2 ∧
  State.reset.rd .idScratch = 0#64 ∧ State.reset.rd .rtFabricPos = 0#64 ∧ State.reset.rd .rtTorusDim = 0#64 ∧
  State.reset.clk.cycle = 0 ∧ (∀ c : Ctr, State.reset.ctr c = 0) ∧
  State.reset.pwr.stage = 1 ∧ State.reset.pwr.ready = false ∧ State.reset.pwr.failed = false ∧
  State.reset.fw.state = .boot ∧ (∀ c : Nat, (State.reset.healthOf c).score = 1000) ∧
  State.reset.led.step = 2 ^ 64 - 1 ∧ (∀ p : Nat, (State.reset.port p).epStep = 0x7FFFFFFFFFFFFFFF#64)

/-- The three memories of the reset state list nothing and have the canonical form (11_module_memory.md R264,
20_security.md R416). Choices of the model that it rests on: log 80. -/
def Obligations.MemoryIsCanonicalAtReset : Prop :=
  Memory.wf State.reset.mem = true ∧ (∀ a : Nat, Ram.read a State.reset.mem.ram = 0 ∧ Ram.read a State.reset.mem.work = 0 ∧
    Ram.read a State.reset.mem.cells = 0)

/-- Every step keeps the canonical form of module memory, working memory and cell memory (11_module_memory.md R250,
08_plan_programs.md R191, 20_security.md R416). Choices of the model that it rests on: log 80. -/
def Obligations.MemoryStaysCanonical : Prop :=
  ∀ s t : State, Memory.wf s.mem = true → step s = .next t → Memory.wf t.mem = true

/-- No step turns a burned OTP bit back to 0, and no step changes the serial number or the key slots (20_security.md R400,
20_security.md R401). -/
def Obligations.BurnedOtpBitsStay : Prop :=
  ∀ s t : State, otpSized s.sec → step s = .next t → otpSized t.sec ∧ otpKept s.sec t.sec

/-- The OTP of the reset state has the layout's sizes (20_security.md R400, 20_security.md R401). Choices of the model
that it rests on: log 4. -/
def Obligations.OtpLayoutHoldsAtReset : Prop :=
  otpSized State.reset.sec

/-- Once a locked PLL has lost lock, UNALIGNED stays until a reset (16_determinism.md R341). Choices of the model that it
rests on: log 54. -/
def Obligations.LockLossLastsUntilAReset : Prop :=
  ∀ (c : Instr) (s t : State), exec c s = .next t → s.clk.unaligned = true → resetsModule c = false → t.clk.unaligned = true

/-- Health scores and samples stay between 0 and 1,000 over every step (17_faults_recovery.md R370, 17_faults_recovery.md
R371, 17_faults_recovery.md R372). -/
def Obligations.HealthScoresStayInRange : Prop :=
  ∀ s t : State, (∀ n : Nat, (s.healthOf n).score ≤ 1000 ∧ (s.healthOf n).last ≤ 1000) → step s = .next t →
    ∀ n : Nat, (t.healthOf n).score ≤ 1000 ∧ (t.healthOf n).last ≤ 1000

/-- What writes OTP and keys, the clock unit, the register locks and the health scores (20_security.md R400,
16_determinism.md R341, 22_registers.md R436, 17_faults_recovery.md R372). Choices of the model that it rests on: log
54. -/
def Obligations.OnlyTheseWriteKeysClocksLocksAndHealth : Prop :=
  ∀ (c : Instr) (s t : State), exec c s = .next t →
    (writesSecurity c = false → t.sec = s.sec) ∧
    (writesClocks c = false → t.clk = s.clk) ∧
    (locksRegisters c = false → t.locked = s.locked) ∧
    (writesHealth c = false → t.health = s.health)

/-- What writes the register file, the firmware's state and the steward's rings (22_registers.md R435,
18_steward_interface.md R385, 19_firmware.md R395). -/
def Obligations.OnlyTheseWriteRegistersFirmwareAndRings : Prop :=
  ∀ (c : Instr) (s t : State), exec c s = .next t →
    (writesRegisters c = false → t.regs = s.regs) ∧
    (writesFirmware c = false → t.fw = s.fw) ∧
    (writesAttachment c = false → t.uci = s.uci)

/-- What writes the link state of the ports and what the module knows of its twin (12_links_cells.md R268,
17_faults_recovery.md R351). -/
def Obligations.OnlyTheseWritePortsAndTheTwin : Prop :=
  ∀ (c : Instr) (s t : State), exec c s = .next t →
    (writesPorts c = false → t.ports = s.ports) ∧
    (writesTwin c = false → t.twin = s.twin)

/-- What writes the plan tables and the ledger (04_collective_plans.md R79, 05_training_state.md R109, 08_plan_programs.md
R189). Choices of the model that it rests on: log 10. -/
def Obligations.OnlyTheseWritePlansAndTheLedger : Prop :=
  ∀ (c : Instr) (s t : State), exec c s = .next t →
    (writesPlans c = false → t.pl = s.pl) ∧
    (writesLedger c = false → t.led = s.led)

/-- What may store into memory: every other command leaves every byte as it was (11_module_memory.md R250,
08_plan_programs.md R191). Choices of the model that it rests on: log 10. -/
def Obligations.OnlyTheseStoreIntoMemory : Prop :=
  ∀ (c : Instr) (s t : State), exec c s = .next t →
    (writesMemory c = false → ∀ a : Nat, Ram.read a t.mem.ram = Ram.read a s.mem.ram ∧
      Ram.read a t.mem.work = Ram.read a s.mem.work ∧ Ram.read a t.mem.cells = Ram.read a s.mem.cells)

/-- GRANULE_RECEIVE stores at most the granule that its head names, and every other byte of memory stays
(11_module_memory.md R250, 11_module_memory.md R260, 17_faults_recovery.md R366). Choices of the model that it rests
on: log 10. -/
def Obligations.ATransferredGranuleIsTheOnlyStore : Prop :=
  ∀ (ref : GranuleRef) (data : List Byte) (s t : State) (a : Nat), Memory.wf s.mem = true → exec (.granuleReceive ref data) s = .next t →
    ((∀ i < granuleBytes, s.mem.phys ((s.regionBase (bankRegion (ref.role.getLsbD 2)) + ref.offset / granuleBytes) * granuleBytes + i) ≠ a) →
        Ram.read a t.mem.ram = Ram.read a s.mem.ram) ∧
    Ram.read a t.mem.work = Ram.read a s.mem.work ∧ Ram.read a t.mem.cells = Ram.read a s.mem.cells

/-- S1 code 0 reads as +1 and S1 code 1 as −1: S1 has no zero (02_number_formats.md R38). -/
def Obligations.SignCodesReadAsPlusAndMinusOne : Prop :=
  readElem 0x0D 0 = .fin false 1 0 ∧ readElem 0x0D 1 = .fin true 1 0 ∧
  ∀ (c : Nat) (n : Bool) (e : Int), readElem 0x0D c ≠ .fin n 0 e

/-- INT32, INT8 and INT4 are two's complement over their whole ranges, with no negative zero, infinity or NaN
(02_number_formats.md R39). -/
def Obligations.IntegerFormatsAreTwosComplement : Prop :=
  (fmtBits 0x09 = 32 ∧ fmtBits 0x0A = 8 ∧ fmtBits 0x0B = 4) ∧
  ∀ f : Nat, f = 0x09 ∨ f = 0x0A ∨ f = 0x0B →
    (∀ c : Nat, ∃ i : Int, readElem f c = Val.ofInt i ∧ -2 ^ (fmtBits f - 1) ≤ i ∧ i ≤ 2 ^ (fmtBits f - 1) - 1 ∧
      i % 2 ^ fmtBits f = (c : Int) % 2 ^ fmtBits f) ∧
    (∀ i : Int, -2 ^ (fmtBits f - 1) ≤ i → i ≤ 2 ^ (fmtBits f - 1) - 1 → ∃ c : Nat, c < 2 ^ fmtBits f ∧ readElem f c = Val.ofInt i) ∧
    (∀ (c : Nat) (n : Bool) (m : Nat) (e : Int), readElem f c = .fin n m e → m = 0 → n = false) ∧
    (∀ (c : Nat) (n : Bool), readElem f c ≠ .nan ∧ readElem f c ≠ .inf n)

/-- A fold's partial sums and merged exponents are the same whatever the order of the contributions (03_fold_arithmetic.md
R57, 03_fold_arithmetic.md R61, 03_fold_arithmetic.md R62). -/
def Obligations.PartialSumsAddInAnyOrder : Prop :=
  (∀ (merged : List Byte) (n : Nat) (z : List Int) (l k : List (List Int)), z.length = n → (∀ x ∈ l, x.length = n) → l.Perm k →
    l.foldl (addLanes merged) z = k.foldl (addLanes merged) z) ∧
  (∀ (z : List Byte) (l k : List (List Byte)), l.Perm k → l.foldl maxBytes z = k.foldl maxBytes z)

/-- A counter counts exactly below 2^64 − 1, and at 2^64 − 1 it stops and sets its OVF bit (00_scope.md R13,
23_counters_events.md R444). -/
def Obligations.CountersSaturateAndStick : Prop :=
  ∀ (s : State) (c : Ctr) (n : Nat), 0 < n →
    (s.ctr c + n < 2 ^ 64 - 1 → (s.count c n).ctr c = s.ctr c + n ∧ (s.count c n).ovf = s.ovf) ∧
    (2 ^ 64 - 1 ≤ s.ctr c + n → (s.count c n).ctr c = 2 ^ 64 - 1 ∧ c ∈ (s.count c n).ovf) ∧
    (∀ d : Ctr, (d ≠ c → (s.count c n).ctr d = s.ctr d) ∧ (d ∈ s.ovf → d ∈ (s.count c n).ovf)) ∧
    (s.clearCtr c).ctr c = 0 ∧ c ∉ (s.clearCtr c).ovf

/-- SQ_DOORBELL sets a running ring's tail; CQ_DOORBELL frees the completion entries it passes (18_steward_interface.md
R380, 18_steward_interface.md R381). -/
def Obligations.DoorbellsMoveTailAndHead : Prop :=
  (∀ (n : Nat) (v : Word) (s : State), s.attached = true → n < 16 → (s.ring n).runs = true → fld v 0 12 < (s.ring n).size →
      exec (.sqDoorbell n v) s = .next (s.setRing n { s.ring n with tail := fld v 0 12 })) ∧
  (∀ (n : Nat) (v : Word) (s : State), s.attached = true → 16 ≤ n → n < 32 → (s.ring n).runs = true → fld v 0 12 < (s.ring n).size →
      (fld v 0 12 + (s.ring n).size - (s.ring n).head) % (s.ring n).size ≤ (s.ring n).used →
      exec (.cqDoorbell n v) s = .next ((s.setRing n { s.ring n with head := fld v 0 12, used := (s.ring n).used - (fld v 0 12 + (s.ring n).size - (s.ring n).head) % (s.ring n).size }).flushCq n))

/-- RING_CONFIG_WRITE starts or stops a ring; MSI_UNMASK writes a vector and sends what is pending
(18_steward_interface.md R380, 18_steward_interface.md R383). -/
def Obligations.RingAndVectorWritesTakeEffect : Prop :=
  (∀ (n : Nat) (v : Word) (s : State), s.attached = true → n < 16 → v.getLsbD 40 = false →
      exec (.ringConfigWrite n v) s = .next (s.setRing n { s.ring n with cfg := v &&& ringBits &&& 0x00001FFFFFFFFFFF#64, error := false })) ∧
  (∀ (n : Nat) (v : Word) (s : State), s.attached = true → 16 ≤ n → n < 32 →
      (v &&& ringBits &&& ~~~(0xF#64 <<< 41)).getLsbD 40 = true → (s.ring n).en = false →
      fld (v &&& ringBits &&& ~~~(0xF#64 <<< 41)) 36 4 ≠ 0 → fld (v &&& ringBits &&& ~~~(0xF#64 <<< 41)) 36 4 ≤ 12 →
      s.inWindows (fld (v &&& ringBits &&& ~~~(0xF#64 <<< 41)) 0 36 * 4096) (64 * 2 ^ fld (v &&& ringBits &&& ~~~(0xF#64 <<< 41)) 36 4) = true →
      exec (.ringConfigWrite n v) s = .next ((s.setRing n { s.ring n with cfg := v &&& ringBits &&& ~~~(0xF#64 <<< 41), head := 0, tail := 0, used := 0, phase := true }).flushCq n)) ∧
  (∀ (n : Nat) (v : Word) (s : State), s.attached = true → n < 64 → (s.rd (.uciMsi n)).getLsbD 1 = true → v.getLsbD 0 = false →
      exec (.msiUnmask n v) s = .next ((s.wr (.uciMsi n) ((v &&& ~~~2#64) ||| 2#64)).interrupt n))

/-- SQ_ENTRY_FETCH advances the head, reserves a completion entry and starts the request (18_steward_interface.md R381,
18_steward_interface.md R382, 18_steward_interface.md R385). Choices of the model that it rests on: log 3. -/
def Obligations.FetchReservesAnEntryAndStarts : Prop :=
  (∀ (n : Nat) (e : List Byte) (s : State), s.attached = true → s.firmware = true → n < 16 → e.length = 64 → (s.ring n).runs = true →
    (s.ring n).head ≠ (s.ring n).tail → (s.fw.update.any fun u => decide (5 ≤ u.stage)) = false → (s.ring (s.ring n).cq).runs = true →
    (s.ring (s.ring n).cq).used + (s.ring (s.ring n).cq).reserved < (s.ring (s.ring n).cq).size → entryOk e = true →
    lcRefuses s.lifeCycle (reqOf n e).opc.toNat = false → s.buffersOk (reqOf n e) = true → (reqOf n e).pbytes ≤ 2 ^ 30 →
      exec (.sqEntryFetch n e) s = .next (let r := s.ring n
        let c := s.ring r.cq
        let t := (s.setRing n { r with head := if r.head + 1 = r.size then 0 else r.head + 1 }).setRing r.cq { c with reserved := c.reserved + 1 }
        ({ t with uci := { t.uci with started := t.uci.started ++ [(reqOf n e, r.cq)] } } : State).trace tpReqStart 0 (reqOf n e).rid.toNat
          [(reqOf n e).opc.toNat, n]))

/-- PLAN_INSTALL keeps a plan that passes every check and completes OK with its signature; PLAN_REMOVE removes one
(18_steward_interface.md R386, 04_collective_plans.md R105, 08_plan_programs.md R183). Choices of the model that it
rests on: log 9, 95. -/
def Obligations.PlansInstallAndAreRemoved : Prop :=
  (∀ (rq : Req) (b : List Byte) (s : State), s.mayServe rq 0x01 = true → s.malformed b rq.pbytes = [] →
    s.unitMissing (planOfBinary b) = false → s.planConfig b (planOfBinary b) = [] → s.openOf (planOfBinary b).num = [] →
    s.shortage (planOfBinary b) = 0 →
      exec (.planInstall rq b) s = .next ((s.install (planOfBinary b) (BitVec.ofNat 32 (argOf rq 36 4))).ok rq (leBytes 2 (planOfBinary b).num ++ zeros 6 ++ leBytes 8 (planOfBinary b).sig.toNat))) ∧
  (∀ (rq : Req) (s : State), s.mayServe rq 0x02 = true → (s.plan (argOf rq 36 2)).isSome = true → s.openOf (argOf rq 36 2) = [] →
      exec (.planRemove rq) s = .next (State.ok (State.settle { s.removePlan (argOf rq 36 2) with led := { (s.removePlan (argOf rq 36 2)).led with planset := BitVec.ofNat 32 (argOf rq 40 4) } }) rq))

/-- MEMBERSHIP_SET, STATE_DEFINE of a shard, of seeds and of a removal complete OK where their checks pass
(18_steward_interface.md R387, 05_training_state.md R106, 05_training_state.md R107, 05_training_state.md R136).
Choices of the model that it rests on: log 69, 82, 84. -/
def Obligations.MembershipAndShardsAreDefined : Prop :=
  (∀ (rq : Req) (r : List Byte) (s : State), s.mayServe rq 0x03 = true → membershipBad r rq.pbytes = [] → s.rt.placed = false →
      exec (.membershipSet rq r) s = .next ((s.takeMembership r).settle.ok rq)) ∧
  (∀ (rq : Req) (b : List Byte) (d : Shard) (u : State) (s : State), d = shardOf b (f32s (slice b 64 (4 * leAt b 40 4))) →
      s.mayServe rq 0x04 = true → rq.flags.getLsbD 2 = false → 64 ≤ rq.pbytes → leAt b 4 8 ≠ 0 → shardBad b rq.pbytes = [] →
      (d.opt = 4 → s.hasMatrix = true) → (∀ e ∈ s.led.shards, e.num ≠ d.num ∧ e.start = d.start) → s.openRug none = [] →
      s.mem.layoutOk = true → bankBytes (d :: s.led.shards) ≤ s.regionSize .stateA * granuleBytes → u = s.fetchAll s.bankRanges [] →
      u.allReady u.bankRanges = true →
      exec (.stateDefine rq b) s = .next ((u.defineShard d).ok rq)) ∧
  (∀ (rq : Req) (b : List Byte) (s : State), s.mayServe rq 0x04 = true → rq.flags.getLsbD 2 = true → rq.pbytes = 256 →
      s.mem.layoutOk = true → s.openHdls = [] →
      exec (.stateDefine rq b) s = .next (State.ok { s with led := { s.led with seeds := padTo 256 (b.take 256) } } rq)) ∧
  (∀ (rq : Req) (b : List Byte) (u : State) (s : State), s.mayServe rq 0x04 = true → rq.flags.getLsbD 2 = false → 64 ≤ rq.pbytes →
      leAt b 4 8 = 0 → 1 ≤ leAt b 0 2 → leAt b 0 2 ≤ 4095 → (∃ d ∈ s.led.shards, d.num = leAt b 0 2) → s.mem.layoutOk = true →
      s.openRug none = [] → u = s.fetchAll s.bankRanges [] → u.allReady u.bankRanges = true →
      exec (.stateDefine rq b) s = .next ((u.relayout (u.led.shards.filter fun d => d.num != leAt b 0 2)).ok rq))

/-- STATE_IMPORT and STATE_EXPORT start a transfer; its end writes or answers the range (05_training_state.md R137,
18_steward_interface.md R386, 17_faults_recovery.md R364). Choices of the model that it rests on: log 68, 115. -/
def Obligations.StateTransfersRun : Prop :=
  (∀ (rq : Req) (b : List Byte) (s : State), s.mayServe rq 0x05 = true → s.rangeRefuse rq true = none →
    s.openRug (some (argOf rq 36 2)) = [] →
      exec (.stateImport rq b) s = .next ({ s with led := { s.led with imports := s.led.imports ++ [s.transferOf rq b] } })) ∧
  (∀ (rid : BitVec 32) (x : Transfer) (d : Shard) (a : Nat) (w : List (Nat × Nat)) (u : State) (s : State), (s.led.imports.find? fun x => x.rq.rid == rid) = some x → s.shardAt x.shard = some (d, a) → s.firmware = true → (w = (d.rangeParts x.first x.elems).map (fun e => (s.bankAddr s.led.srcB + a + e.1, e.2))) → u = s.fetchAll [] w → u.allReady w = true →
      exec (.stateImportDone rid) s = .next (let t := State.putRange { u with led := { u.led with imports := u.led.imports.erase x } } (s.bankAddr s.led.srcB + a) (d.rangeParts x.first x.elems) x.data
        State.ok { t with mem := { t.mem with bad := t.mem.bad.filter fun g =>
          !(((d.rangeParts x.first x.elems).flatMap fun e => granulesOf (s.bankAddr s.led.srcB + a + e.1) e.2).contains g) || t.healing g } } x.rq)) ∧
  (∀ (rq : Req) (d : Shard) (a : Nat) (s : State), s.mayServe rq 0x06 = true → s.rangeRefuse rq false = none →
      s.shardAt (argOf rq 36 2) = some (d, a) → d.rangeBytes (argOf rq 40 8) (argOf rq 48 8) ≤ rq.rbytes →
      exec (.stateExport rq) s = .next ({ s with led := { s.led with exports := s.led.exports ++ [s.transferOf rq []] } })) ∧
  (∀ (rid : BitVec 32) (x : Transfer) (d : Shard) (a : Nat) (w : List (Nat × Nat)) (u : State) (s : State), (s.led.exports.find? fun x => x.rq.rid == rid) = some x → s.firmware = true → s.shardAt x.shard = some (d, a) → (w = (d.rangeParts x.first x.elems).map (fun e => (s.bankAddr x.bankB + a + e.1, e.2))) → u = s.fetchAll w [] → u.shardAt x.shard = some (d, a) → u.allReady w = true →
      exec (.stateExportDone rid) s = .next (State.answer { u with led := { u.led with exports := u.led.exports.erase x } } x.rq
        ((d.rangeParts x.first x.elems).flatMap fun e => u.mem.read (u.bankAddr x.bankB + a + e.1) e.2) []))

/-- LEDGER_QUERY, ROLLBACK, FENCE and ABORT complete OK (05_training_state.md R134, 05_training_state.md R135,
17_faults_recovery.md R355, 18_steward_interface.md R386). Choices of the model that it rests on: log 71. -/
def Obligations.LedgerFenceAndAbortRequestsComplete : Prop :=
  (∀ (rq : Req) (l : List (List Byte)) (s : State), s.mayServe rq 0x07 = true → 1 ≤ argOf rq 48 4 → argOf rq 48 4 ≤ 256 →
    (l = (sortBy (fun (a b : List Byte) => decide (leAt a 0 8 < leAt b 0 8)) (s.led.ring.filter fun r => decide (argOf rq 40 8 ≤ leAt r 0 8))).take (argOf rq 48 4)) → l ≠ [] →
      exec (.ledgerQuery rq) s = .next (s.answer rq l.flatten (leBytes 8 s.led.step ++ leBytes 4 l.length))) ∧
  (∀ (rq : Req) (s : State), s.mayServe rq 0x08 = true → s.led.step = argOf rq 40 8 →
      exec (.rollback rq) s = .next (s.rollBack.ok rq)) ∧
  (∀ (rq : Req) (s : State), s.mayServe rq 0x08 = true → s.led.step + 1 = argOf rq 40 8 → (s.readyWord (argOf rq 40 8)).isSome = true →
      exec (.rollback rq) s = .next ((s.releaseStored.commit (argOf rq 40 8)).settle.ok rq)) ∧
  (∀ (rq : Req) (s : State), s.mayServe rq 0x09 = true → BitVec.ofNat 16 (argOf rq 36 2) ≠ s.selfFa →
      BitVec.ofNat 16 (argOf rq 36 2) ≠ 0 → (BitVec.ofNat 16 (argOf rq 36 2)).toNat < 0xF000 →
      exec (.fence rq) s = .next ((s.fenceParty (BitVec.ofNat 16 (argOf rq 36 2))).ok rq)) ∧
  (∀ (rq : Req) (s : State), s.mayServe rq 0x14 = true → (s.slot (BitVec.ofNat 20 (argOf rq 36 4))).state = .opened →
      (s.slot (BitVec.ofNat 20 (argOf rq 36 4))).step = argOf rq 40 8 →
      exec (.abort rq) s = .next ((s.failInstance (BitVec.ofNat 20 (argOf rq 36 4)) stAborted []).settle.ok rq))

/-- RESILVER, its copy, and the control record and granules at the new twin (17_faults_recovery.md R366,
17_faults_recovery.md R367, 12_links_cells.md R283). Choices of the model that it rests on: log 25, 67. -/
def Obligations.ResilverCopiesTheNode : Prop :=
  (∀ (rq : Req) (m : Member) (s : State), s.mayServe rq 0x0A = true → s.led.solo = true → s.moduleOf s.nodeA (!s.planeB) = some m →
    m.fa = BitVec.ofNat 16 (argOf rq 36 2) → s.mem.resilver = none → s.tagFree (m.fa, 1#20) = true →
      exec (.resilver rq true) s = .next (let fa := BitVec.ofNat 16 (argOf rq 36 2)
        let t : State := { s with mem := { s.mem with
          resilver := some { carrying := true, twin := fa, rq := some rq, control := true, copied := 0, copyDone := false } } }
        (t.freshTx (fa, 1#20)).sendMessage fa 1#20 kResp tcMgmt 0 false
          (transferHead 2 { gen := t.led.step, role := 0, offset := 0 } t.controlRecord.length) t.controlRecord)) ∧
  (∀ (r : Resilver) (w : List (Nat × Nat)) (u : State) (s : State), s.mem.resilver = some r → s.engines = true → r.carrying = true →
      r.copyDone = false → w = [(s.bankAddr false, s.regionSize .stateA * granuleBytes), (s.bankAddr true, s.regionSize .stateA * granuleBytes)] → u = s.fetchAll w [] → u.mem.resilver = some r → u.allReady w = true →
      exec (.resilverCopyDone) s = .next (let t := [false, true].foldl (fun t b => (List.range (s.regionSize .stateA)).foldl (fun t i => t.sendGranule r.twin b (i * granuleBytes)) t) u
        { t with mem := { t.mem with resilver := some { r with copied := 2 * s.regionSize .stateA, copyDone := true } } })) ∧
  (∀ (g : Nat) (b : List Byte) (u : State) (s : State), s.mem.wiping = none → u = s.takeTransfer 1 → u.engines = true →
      u.pwr.ready = true → u.led.shards = [] → u.twin.present = true → u.mem.resilver = none →
      (b.length = 24 + 64 * leAt b 16 4 + tableBytes ((List.range (leAt b 16 4)).map fun i => slice b (24 + 64 * i) 64) + 256 + 256 * 64) →
      exec (.controlRecordReceive g b) s = .next (let o := 24 + 64 * leAt b 16 4
        let descs := (List.range (leAt b 16 4)).map fun i => slice b (24 + 64 * i) 64
        let ring := ((List.range 256).map fun i => slice b (o + tableBytes descs + 256 + 64 * i) 64).filter fun r => !allZero r
        { u with
          mem := { u.mem with resilver := some { carrying := false, twin := u.twin.fa, rq := none, control := true, copied := 0, copyDone := false } }
          led := { u.led with
            step := leAt b 0 8, srcB := bitOf (leAt b 8 8) 2, shards := tablesFrom descs (b.drop o)
            seeds := slice b (o + tableBytes descs) 256, ring := ring, chain0 := ring.isEmpty } })) ∧
  (∀ (ref : GranuleRef) (b : List Byte) (u : State) (r : Resilver) (s : State), s.mem.wiping = none → u = s.takeTransfer 1 →
      u.mem.resilver = some r → u.engines = true → r.carrying = false → b.length = granuleBytes →
      ref.offset / granuleBytes < u.regionSize (bankRegion (ref.role.getLsbD 2)) → ref.offset % granuleBytes = 0 →
      exec (.granuleReceive ref b) s = .next (let g := u.regionBase (bankRegion (ref.role.getLsbD 2)) + ref.offset / granuleBytes
        let t := u.stateWrite (g * granuleBytes) b
        { t with mem := { t.mem with
          bad := t.mem.bad.filter (fun h => h != g)
          resilver := some { r with copied := max r.copied ((if ref.role.getLsbD 2 then u.regionSize .stateA else 0) + ref.offset / granuleBytes + 1) } } }))

/-- FW_UPDATE, FW_IMAGE_WRITTEN, FW_HANDOFF and UPDATE_WAIT_TIMEOUT move a live update through its stages (19_firmware.md
R397, 19_firmware.md R398). Choices of the model that it rests on: log 5, 59, 117. -/
def Obligations.LiveUpdateRunsItsStages : Prop :=
  (∀ (rq : Req) (b : List Byte) (g : SigAnswer) (s : State), s.mayServe rq 0x0B = true → s.lapisTurn rq = true →
    s.imageCheck (b.take rq.pbytes) g = none → hverOf s.fw.version.toNat ≤ hverOf (imageVersion (b.take rq.pbytes)) →
    hverOf (imageVersion (b.take rq.pbytes)) ≤ hverOf s.fw.version.toNat + 2 → s.quiet = true →
      exec (.fwUpdate rq b g) s = .next (((s.stagePassed 1).stagePassed 2).beginWrite { rq := rq, image := b.take rq.pbytes, stage := 3 })) ∧
  (∀ (u : Update) (s : State), s.fw.update = some u → s.firmware = true → u.stage = 4 →
      exec (.fwImageWritten) s = .next ({ s.stagePassed 4 with fw := { (s.stagePassed 4).fw.setStandby ⟨u.image, true⟩ with update := some { u with stage := 5 } } })) ∧
  (∀ (u : Update) (s : State), s.fw.update = some u → s.firmware = true → u.stage = 5 →
      (s.uci.started.all fun e => s.waitsForUpdate u e.1) = true → handoffOk u.image (s.stagePassed 5).handoffRecord = true →
      exec (.fwHandoff true) s = .next (((s.stagePassed 5).writeHandoff.stagePassed 6).takeOver u)) ∧
  (∀ (u : Update) (s : State), s.fw.update = some u → s.firmware = true → u.stage = 5 →
      (s.uci.started.all fun e => s.waitsForUpdate u e.1) = true →
      exec (.fwHandoff false) s = .next (State.fail { (s.stagePassed 5).writeHandoff.stageFailed 6 with fw := { ((s.stagePassed 5).writeHandoff.stageFailed 6).fw.voidStandby with update := none } } u.rq csConfig (hverOf s.fw.version.toNat))) ∧
  (∀ (u : Update) (s : State), s.fw.update = some u → s.firmware = true → u.stage = 3 → s.quiet = false →
      exec (.updateWaitTimeout) s = .next (State.fail { s.stageFailed 3 with fw := { (s.stageFailed 3).fw with update := none } } u.rq csBusy 0))

/-- ATTEST and TELEMETRY_SNAPSHOT answer their reports; PORT_, GATE_, METER_ and LOG_CONFIG apply what they carry
(20_security.md R410, 23_counters_events.md R449, 15_egress_scheduling.md R328, 15_egress_scheduling.md R334,
19_firmware.md R392, 18_steward_interface.md R386). Choices of the model that it rests on: log 48, 50, 61, 71. -/
def Obligations.ReportsAnswerAndSettingsApply : Prop :=
  (∀ (rq : Req) (n : Nat) (t : State) (s : State), s.mayServe rq 0x0C = true → s.lapisTurn rq = true → s.sec.devkeyOk = true →
    s.draw = (n, t) →
      exec (.attest rq) s = .next (t.answer rq (t.report (slice rq.args 4 16) ++ (padTo 384 (Config.rsaSign t.sec.wrapped (t.report (slice rq.args 4 16)) n)).take 384
          ++ (padTo 17088 (Config.slhSign t.sec.devSeed (t.report (slice rq.args 4 16)))).take 17088 ++ leBytes 4 t.sec.certs.length ++ t.sec.certs) [])) ∧
  (∀ (rq : Req) (b : List Byte) (k : Nat) (s : State), s.mayServe rq 0x0D = true →
      argOf rq 36 1 = 0 ∨ (4 ≤ argOf rq 36 1 ∧ argOf rq 36 1 ≤ 8) → argOf rq 38 2 = 0 → s.globalBody (argOf rq 36 1) = some (b, k) →
      exec (.telemetrySnapshot rq) s = .next (s.answer rq (s.snapshotHead (argOf rq 36 1) k ++ b) [])) ∧
  (∀ (rq : Req) (s : State), s.mayServe rq 0x0E = true → argOf rq 36 1 < 24 → argOf rq 37 1 < 64 →
      (argOf rq 37 1 % 4 ≠ 2 ∨ argOf rq 37 1 / 4 % 4 ≠ 3) → bitOf (argOf rq 37 1) 5 = true →
      exec (.portConfig rq) s = .next (((s.configPort (2 * argOf rq 36 1) (roleOfByte (argOf rq 37 1)) true (BitVec.ofNat 64 (argOf rq 40 8))).configPort (2 * argOf rq 36 1 + 1)
          (roleOfByte (argOf rq 37 1)) true (BitVec.ofNat 64 (argOf rq 40 8))).reportLinks.ok rq)) ∧
  (∀ (rq : Req) (s : State), s.mayServe rq 0x10 = true → argOf rq 36 1 < 48 → 1 ≤ argOf rq 37 1 → argOf rq 37 1 ≤ 4 →
      (BitVec.ofNat 64 (argOf rq 40 8) : Word).getLsbD 40 = false →
      exec (.meterConfig rq) s = .next ((s.setMeter (argOf rq 36 1) (argOf rq 37 1) (BitVec.ofNat 64 (argOf rq 40 8)) (BitVec.ofNat 64 (argOf rq 48 8))).ok rq)) ∧
  (∀ (rq : Req) (m : List Byte) (s : State), s.mayServe rq 0x11 = true → argOf rq 40 8 % 4096 = 0 → argOf rq 48 1 = 0 → rq.pbytes = 128 →
      exec (.logConfig rq m) s = .next ({ s.ok rq with fw := { (s.ok rq).fw with logBase := argOf rq 40 8, logLog2 := 0, logMask := padTo 128 (m.take 128) } })) ∧
  (∀ (rq : Req) (e : List Byte) (s : State), s.mayServe rq 0x0F = true → argOf rq 36 1 < 48 → argOf rq 37 1 < 64 → argOf rq 38 1 < 2 →
      argOf rq 40 8 < 2 ^ 48 → rq.pbytes = 4 * (argOf rq 37 1 + 1) → (∀ i, i < argOf rq 37 1 + 1 →
      leAt e (4 * i) 2 ≠ 0 ∧ byteAt e (4 * i + 2) < 32 ∧ byteAt e (4 * i + 3) = 0) →
      ((gateEntries e (argOf rq 37 1 + 1)).map (·.dur)).sum ≤ 65536 →
      ((List.range 5).all fun i => (gateEntries e (argOf rq 37 1 + 1)).any fun g => g.opens.getLsbD i) = true →
      exec (.gateConfig rq e) s = .next ((s.modSched (argOf rq 36 1) fun x => { x with load := some ⟨gateEntries e (argOf rq 37 1 + 1), argOf rq 37 1, argOf rq 38 1 == 1, argOf rq 40 8⟩ }).ok rq))

/-- WIPE starts, WIPE_DONE leaves no shard, plan or byte; LIFECYCLE makes the allowed transition (11_module_memory.md
R264, 20_security.md R411, 20_security.md R412, 20_security.md R414). Choices of the model that it rests on: log 47,
70, 115. -/
def Obligations.WipeAndLifeCycleRun : Prop :=
  (∀ (rq : Req) (s : State), s.mayServe rq 0x12 = true → s.openHdls = [] →
      exec (.wipe rq) s = .next ({ s with mem := { s.mem with wiping := some (some rq) } })) ∧
  (∀ (rq : Req) (s : State), s.mem.wiping = some (some rq) →
      exec (.wipeDone) s = .next (s.wiped.ok rq)) ∧
  (∀ (rq : Req) (b : List Byte) (g : SigAnswer) (s : State), s.mayServe rq 0x13 = true → s.lapisTurn rq = true → s.openHdls = [] →
      s.lifeCycle = 2 → argOf rq 36 1 = 3 → recordForm (b.take rq.pbytes) = true → zeroAt (b.take rq.pbytes) 72 128 = true →
      128 ≤ (b.take rq.pbytes).length → (recordOf (b.take rq.pbytes)).target = 3 → (recordOf (b.take rq.pbytes)).serial = s.sec.serial →
      exec (.lifecycle rq b g) s = .next (s.transition rq 2 3 (recordOf (b.take rq.pbytes)))) ∧
  (∀ (rq : Req) (b : List Byte) (g : SigAnswer) (s : State), s.mayServe rq 0x13 = true → s.lapisTurn rq = true → s.openHdls = [] →
      (s.lifeCycle = argOf rq 36 1 ∨ transitionOk s.lifeCycle (argOf rq 36 1) = true) → (s.lifeCycle ≠ 2 ∨ argOf rq 36 1 ≠ 3) →
      s.recordCheck (b.take rq.pbytes) g = none → (recordOf (b.take rq.pbytes)).target = argOf rq 36 1 →
      exec (.lifecycle rq b g) s = .next (s.signedRequest rq s.lifeCycle (argOf rq 36 1) (recordOf (b.take rq.pbytes))))

/-- STEWARD_RD and BMC_READ answer register values; REGISTER_WRITE writes the register at its address
(18_steward_interface.md R376, 18_steward_interface.md R378, 22_registers.md R435, 22_registers.md R443). Choices of
the model that it rests on: log 74. -/
def Obligations.TransactionsReadAndWriteRegisters : Prop :=
  (∀ (h : List Byte) (s : State), s.attached = true → h.length = 16 → byteAt h 0 = 0 → headerOk h = true → accessOk h = true →
      exec (.stewardRd h) s = .next (s.emit (.cpl (leAt h 2 2 % 4096) false (leBytes 8 (s.readReg (leAt h 8 8)))))) ∧
  (∀ (h b : List Byte) (s : State), s.attached = true → h.length = 16 → byteAt h 0 = 1 → headerOk h = true → accessOk h = true →
      8 ≤ b.length →
      exec (.registerWrite h b) s = .next (s.writeReg (leAt h 8 8) (BitVec.ofNat 64 (leAt b 0 8)))) ∧
  (∀ (a n : Nat) (s : State), s.powered = true → a < 2 ^ 24 →
      exec (.bmcRead a n) s = .next (s.emit (.bmc (((List.range (ceilDiv n 8)).flatMap fun i => leBytes 8 (s.bmcReg ((a + 8 * i) % 2 ^ 24))).take n))))

/-- MEM_REGION_SIZE_WRITE, FABRIC_POS_WRITE, CM_CONFIG_WRITE and EVT_RING_WRITE write their registers (22_registers.md
R436, 11_module_memory.md R253, 14_cell_memory.md R318, 01_fabric.md R14). Choices of the model that it rests on: log
58. -/
def Obligations.ConfigurationRegistersTakeTheirValues : Prop :=
  (∀ (v : Word) (s : State), s.attached = true → s.locked.contains Reg.memRegionSize = false →
    (State.wr { s with locked := s.locked ++ [Reg.memRegionSize] } .memRegionSize (v &&& 0x0000FFFFFFFFFFFF#64)).layoutFits (v &&& 0x0000FFFFFFFFFFFF#64) = true →
      exec (.memRegionSizeWrite v) s = .next (let t := State.wr { s with locked := s.locked ++ [Reg.memRegionSize] } .memRegionSize (v &&& 0x0000FFFFFFFFFFFF#64)
        { t with mem := { t.mem with layoutOk := true } })) ∧
  (∀ (v : Word) (s : State), s.attached = true → s.locked.contains Reg.rtFabricPos = false → s.locked.contains Reg.rtTorusDim = false →
      exec (.fabricPosWrite false v) s = .next ({ s.wr .rtFabricPos (v &&& posBits) with locked := s.locked ++ [Reg.rtFabricPos] })) ∧
  (∀ (k : Nat) (v : Word) (s : State), s.attached = true → k < 7 → (s.wr (.cmClassCfg k) (v &&& 0x3FFFFFFF#64)).poolOk = true →
      exec (.cmConfigWrite (some k) v) s = .next (let t := s.wr (.cmClassCfg k) (v &&& 0x3FFFFFFF#64)
        { t with cm := { t.cm with inForce :=
          if (Assoc.find (Reg.cmClassCfg k) t.cm.inForce).isSome then t.cm.inForce else Assoc.set (Reg.cmClassCfg k) (s.rd (.cmClassCfg k)) t.cm.inForce } })) ∧
  (∀ (v : Word) (s : State), s.attached = true → (v &&& 0x000FFFFFFFFFFFFF#64).getLsbD 41 = false →
      exec (.evtRingWrite v) s = .next ({ s.wr .evtRing (v &&& 0x000FFFFFFFFFFFFF#64) with evt := { s.evt with toRing := [] } }))

/-- COUNTER_OVF_CLEAR, VE_TRAP_CLEAR, MEM_UE_LOG_CLEAR and ALERT_CLEAR clear what a 1 names (22_registers.md R436,
00_scope.md R13, 11_module_memory.md R258, 09_vector_engine.md R219). Choices of the model that it rests on: log 53. -/
def Obligations.WriteOneClearsWhatItNames : Prop :=
  (∀ (a : Nat) (k : Ctr) (v : Word) (s : State), s.attached = true → ovfAt a = [k] → s.ctrAbsent k = false → v.getLsbD 0 = true →
      exec (.counterOvfClear a v) s = .next (s.clearCtr k)) ∧
  (∀ (v : Word) (s : State), s.attached = true → v.getLsbD 63 = true →
      exec (.veTrapClear v) s = .next (s.wr .veTrap 0)) ∧
  (∀ (v : Word) (s : State), s.attached = true → v.getLsbD 63 = true →
      exec (.memUeLogClear v) s = .next ({ s with mem := { s.mem with ueLog := 0 } })) ∧
  (∀ (v : Word) (s : State), s.attached = true → v.getLsbD 8 = true →
      exec (.alertClear v) s = .next ({ s with pwr := { s.pwr with alert := false } }))

/-- Lockstep is requested and entered; clocks are lost and come back (16_determinism.md R341, 16_determinism.md R343,
21_module_power_clocks.md R427). Choices of the model that it rests on: log 54, 56. -/
def Obligations.ClocksAndLockstepChange : Prop :=
  (∀ (v : Word) (s : State), s.attached = true → v.getLsbD 0 = true →
      exec (.lockstepRequest v) s = .next ({ s with clk := { s.clk with req := true } })) ∧
  (∀ s : State, s.engines = true → s.clk.req = true → s.clk.active = false → s.anyHold = false → s.clk.cycle % (12 * 16384) = 0 →
      exec (.lockstepEnter) s = .next (State.raise { s with clk := { s.clk with active := true } } evLockstepEnter 0 s.beat)) ∧
  (∀ (l : BitVec 3) (s : State), s.powered = true → s.clk.aligned = true → l &&& s.clk.locks ≠ 0 → s.clk.unaligned = false →
      exec (.clkLockLost l) s = .next (let t : State := { s with clk := { s.clk with locks := s.clk.locks &&& ~~~l, unaligned := true } }
        (t.raise evClkLockLost 0 t.clkStatus).leaveLockstep true)) ∧
  (∀ (q : Nat) (s : State), s.powered = true → q < 4 → s.clk.links.getLsbD q = true →
      exec (.linkRefclkLost q) s = .next ((quadrantPorts q).foldl State.refclkGone { s with clk := { s.clk with links := s.clk.links &&& ~~~(1#4 <<< q) } })) ∧
  (∀ (q : Nat) (s : State), s.powered = true → q < 4 → s.clk.links.getLsbD q = false →
      exec (.linkRefclkRestored q) s = .next ((quadrantPorts q).foldl State.refclkBack { s with clk := { s.clk with links := s.clk.links ||| (1#4 <<< q) } })) ∧
  (∀ s : State, s.powered = true → s.clk.xtalLost = false →
      exec (.xtalLost) s = .next (State.raise { s with clk := { s.clk with xtal := false, xtalLost := true } } evXtalLost 0 0))

/-- GATE_CTL_WRITE, GATE_LIST_ACTIVATE, GATE_ENTRY_BOUNDARY and RATE_WHEEL_WAKE move a port's gates
(15_egress_scheduling.md R327, 15_egress_scheduling.md R328, 15_egress_scheduling.md R330, 15_egress_scheduling.md
R331). Choices of the model that it rests on: log 15, 45. -/
def Obligations.GatesAndRateWheelsMove : Prop :=
  (∀ (n : Nat) (v : Word) (s : State), s.pwr.unpowered = false → n < 48 → (v &&& 0xFFFFFFFFFFFF007F#64).getLsbD 0 = false →
    s.gateOn n = true →
      exec (.gateCtlWrite n v) s = .next ((s.wr (.schGateCtl n) (v &&& 0xFFFFFFFFFFFF007F#64)).modSched n fun x => { x.open with delay := 0, late := none })) ∧
  (∀ (n : Nat) (g : GateLoad) (s : State), (s.sched n).load = some g → s.engines = true → g.en = true → g.starts s.slotNow = true →
      exec (.gateListActivate n) s = .next ((s.wr (.schGateCtl n) (BitVec.ofNat 64 (1 + 2 * g.last + 2 ^ 16 * g.start))).modSched n fun x =>
        { Sched.onGrid { x with gates := g.entries ++ x.gates.drop (g.last + 1), load := none } g.last g.start s.slotNow with delay := 0, late := none })) ∧
  (∀ (n i : Nat) (s : State), s.engines = true → s.gateOn n = true → (s.sched n).entry = some i → (s.sched n).gTill ≤ s.slotNow →
      exec (.gateEntryBoundary n) s = .next (let x := s.sched n
        let j := if i < s.rdf (.schGateCtl n) 1 6 then i + 1 else 0
        let dur := (x.gates.getD j ⟨1, 0x1F#5⟩).dur
        s.modSched n fun x => x.begin j ((s.sched n).gTill + min (s.sched n).delay (dur / 2)) ((s.sched n).gTill + dur)
          ((s.sched n).delay - min (s.sched n).delay (dur / 2)))) ∧
  (∀ (n k : Nat) (s : State), s.engines = true → (s.sched n).parked.contains k = true → natAt (s.sched n).tr (k - 1) / 65536 ≤ s.slotNow →
      exec (.rateWheelWake n k) s = .next (s.modSched n fun x => { x.wake k with parked := x.parked.filter fun c => c != k }))

/-- FW_CTL_RESTART and WATCHDOG_EXPIRE restart the firmware; FW_RESTART_DONE runs or halts it (19_firmware.md R395,
19_firmware.md R396, 17_faults_recovery.md R363). Choices of the model that it rests on: log 60. -/
def Obligations.FirmwareRestarts : Prop :=
  (∀ (v : Word) (s : State), s.attached = true → v.getLsbD 0 = true →
      exec (.fwCtlRestart v) s = .next (s.fwRestart 4)) ∧
  (∀ (k : Byte) (s : State), s.firmware = true → k ≠ 0 →
      exec (.watchdogExpire k) s = .next ((State.trace { s.raise evFwWatchdog 0 k.toNat with fw := { (s.raise evFwWatchdog 0 k.toNat).fw with lastWdog := lowestCore k } } tpWdogExpire 2 0 [k.toNat]).fwRestart 1)) ∧
  (∀ s : State, s.engines = true → s.fw.state = .restarting → (s.fw.cause = 1 ∨ s.fw.cause = 2) → 3 ≤ s.fw.window →
      exec (.fwRestartDone) s = .next (State.raise { s with fw := { s.fw with state := .halted }, twin := { s.twin with hbStopped := true } } evFwUnstable 0 s.fw.window)) ∧
  (∀ s : State, s.engines = true → s.fw.state = .restarting → s.fw.window < 3 →
      exec (.fwRestartDone) s = .next (let t : State := { s with fw := { s.fw with state := .running, cores := 0xFF }, sec := s.sec.remember }
        (((t.traceStart s.fw.cause 0).uci.started.map (·.1)).foldl State.abortRequest (t.traceStart s.fw.cause 0)).catchUp))

/-- ENGINE_RESET, MODULE_RESET, COLD_RESET, SUPPLY_RESTORED reset by class; BRING_UP_STAGE_DONE advances a stage
(21_module_power_clocks.md R429, 21_module_power_clocks.md R430, 21_module_power_clocks.md R431). Choices of the model
that it rests on: log 4, 39, 54, 116. -/
def Obligations.ResetsAndBringUpRun : Prop :=
  (∀ (v : Word) (s : State), s.attached = true → fld v 8 8 = 0xA5 → v.getLsbD 1 = false → v.getLsbD 0 = true →
      exec (.engineReset v) s = .next (s.engineReset)) ∧
  (∀ s : State, s.pwr.unpowered = false → s.pwr.tripped = false →
      exec (.moduleReset .pin) s = .next (s.moduleReset 2)) ∧
  (∀ (b : Bool) (s : State),
      exec (.coldReset (.input b)) s = .next (s.tearSave.coldReset 0 b)) ∧
  (∀ s : State, s.powered = true → s.pwr.tripped = true → s.pwr.saving = false → s.pwr.thermTrip = false →
      exec (.supplyRestored) s = .next (s.moduleReset 4)) ∧
  (∀ (r : StageReport) (s : State), s.powered = true → s.pwr.failed = false → s.pwr.tripped = false → s.clk.unaligned = false →
      s.pwr.stage = 1 →
      exec (.bringUpStageDone r) s = .next (s.stageAon r)) ∧
  (∀ (r : StageReport) (s : State), s.powered = true → s.pwr.failed = false → s.pwr.tripped = false → s.clk.unaligned = false →
      s.pwr.good = true → s.pwr.stage = 3 → r.sysClock = true →
      exec (.bringUpStageDone r) s = .next (State.stageTo { s with clk := { s.clk with sysPresent := true, links := r.linkClocks, locks := 7, aligned := true, cycle := 0 } } 4)) ∧
  (∀ (r : StageReport) (s : State), s.powered = true → s.pwr.failed = false → s.pwr.tripped = false → s.clk.unaligned = false →
      s.pwr.good = true → s.pwr.stage = 8 → s.mem.wiping = some none →
      exec (.bringUpStageDone r) s = .next (State.raise { s.wiped with pwr := { s.wiped.pwr with ready := true, stage := 9 } } evModuleReady 0 s.pwr.lastReset))

/-- SUPPLY_TRIP, THERMAL_TRIP, MOONSTONE_SAVE_DONE, PWR_EN_LOW and INPUT_FUSE_OPEN take the module down
(21_module_power_clocks.md R422, 21_module_power_clocks.md R423, 21_module_power_clocks.md R429). Choices of the model
that it rests on: log 50, 55. -/
def Obligations.TripsAndSavesRun : Prop :=
  (∀ s : State, s.powered = true → s.pwr.tripped = false → s.pwr.good = true →
      exec (.supplyTrip) s = .next (State.tripOff { s.trip with pwr := { s.trip.pwr with supply := true, cause := false } })) ∧
  (∀ (l : Bool) (s : State), s.powered = true → s.pwr.thermTrip = false → s.pwr.tripped = false →
      exec (.thermalTrip l) s = .next (let t := (s.raise evThermalTrip 0 (b2n l)).bump .pwrThermTrip
        (State.trip { t with pwr := { t.pwr with thermTrip := true, cause := true } }).tripOff)) ∧
  (∀ s : State, s.powered = true → s.pwr.saving = true → s.pwr.supply = true →
      exec (.moonstoneSaveDone) s = .next (State.bump { s with pwr := { s.pwr with
          saves := s.pwr.saves.set (s.nextSave % 2) (s.saveHeader s.nextSave s.saveBody ++ s.saveBody), saveLc := s.lifeCycle
          saving := false, good := false } } .pwrTrip)) ∧
  (∀ s : State, s.powered = true → s.pwr.pwrEn = true →
      exec (.pwrEnLow) s = .next ({ s with uci := { s.uci with m0 := false, m1 := false, trying := false }, pwr := { s.pwr with pwrEn := false, good := false } })) ∧
  (∀ s : State, s.powered = true →
      exec (.inputFuseOpen) s = .next ({ s.tearSave.dropUci with pwr := { s.tearSave.pwr with unpowered := true, good := false } }))

/-- VIN_HIGH, THERM_WARN, THERM_WARN_CLEAR and UCI_DEGRADED record and report (21_module_power_clocks.md R419,
21_module_power_clocks.md R428, 18_steward_interface.md R375). Choices of the model that it rests on: log 52. -/
def Obligations.WarningsAndDegradesAreReported : Prop :=
  (∀ (v : BitVec 16) (s : State), s.powered = true → 5600 < v.toNat →
      exec (.vinHigh v) s = .next (State.raise { s with pwr := { s.pwr with vinCv := v } } evVinHigh 0 v.toNat)) ∧
  (∀ (x : Byte) (s : State), s.powered = true → s.warnC < x.toNat → s.pwr.thermWarn = false →
      exec (.thermWarn x) s = .next (State.raise { s with pwr := { s.pwr with thermWarn := true, tj := x } } evThermWarn 0 x.toNat)) ∧
  (∀ (x : Byte) (s : State), s.powered = true → x.toNat ≤ s.warnC →
      exec (.thermWarnClear x) s = .next ({ s with pwr := { s.pwr with thermWarn := false, tj := x } })) ∧
  (∀ s : State, s.powered = true → s.uci.m1 = true →
      exec (.uciDegraded true) s = .next (s.setUci s.uci.m0 false)) ∧
  (∀ s : State, s.powered = true → s.uci.m0 = true →
      exec (.uciDegraded false) s = .next (s.setUci false s.uci.m1))

/-- Data and control frames, an ACK timeout, a lost control slot and a failed lane act on an UP port (12_links_cells.md
R267, 12_links_cells.md R269, 12_links_cells.md R271, 12_links_cells.md R273). Choices of the model that it rests on:
log 72, 100, 118. -/
def Obligations.FramesAndLanesAct : Prop :=
  (∀ (n : Nat) (f : List Byte) (s : State), s.linkUp n = true → f.length = 260 → zeroAt f 0 2 = false →
    frameCrcOk (leBytes 2 (s.port n).rxFseq) f = true →
      exec (.dataFrameReceive n f) s = .next (s.modPort n fun p => { p with rxFseq := ((s.port n).rxFseq + 1) % 2 ^ 16, nak := false, rxCells := p.rxCells ++ [f.take 256] })) ∧
  (∀ (n : Nat) (f : List Byte) (s : State), s.engines = true → (s.port n).state = .up → frameCrcOk [] f = true → controlOk f = true →
      roleMeets s.planeB (s.port n).role (BitVec.ofNat 8 (byteAt f 52)).toNat = true → bitOf (byteAt f 3) 0 = false → byteAt f 2 ≠ 1 →
      exec (.controlFrameReceive n f) s = .next ((s.modPort n fun p => (p.acked (leAt f 4 2)).setPeer (BitVec.ofNat 16 (leAt f 50 2)) (BitVec.ofNat 8 (byteAt f 52))).modPort n fun p => { p with
          cred := (List.range 7).map fun i => leAt f (8 + 4 * i) 4, limit := (List.range 7).map fun i => leAt f (36 + 2 * i) 2 })) ∧
  (∀ (n : Nat) (e : Nat × Cell) (l : List (Nat × Cell)) (s : State), s.linkUp n = true → (s.port n).replay = e :: l →
      exec (.linkAckTimeout n) s = .next (s.resendFrom n e.1)) ∧
  (∀ (n : Nat) (s : State), s.engines = true → (s.port n).state = .up → (s.port n).width = 3 → (s.port n).degrading = false →
      exec (.controlSlotLoss n) s = .next (s.startDegrade n)) ∧
  (∀ (n : Nat) (s : State), s.engines = true → (s.port n).state = .up → ((s.port n).width ≠ 3 ∨ (s.port n).degrading = true) →
      exec (.controlSlotLoss n) s = .next ((s.portFails n .training).retrain n)) ∧
  (∀ (n l : Nat) (s : State), s.engines = true → n < 24 → l < 8 → (s.port (2 * n)).split = false →
      ((s.modPort (2 * n) fun p => { p with laneBad := p.laneBad ||| (1#8 <<< l) }).port (2 * n)).state ≠ .up →
      exec (.laneFail n l) s = .next (s.modPort (2 * n) fun p => { p with laneBad := p.laneBad ||| (1#8 <<< l) })) ∧
  (∀ (n l : Nat) (q : Port) (s : State), s.engines = true → n < 24 → l < 8 → (s.port (2 * n)).split = false →
      (q = (s.modPort (2 * n) fun p => { p with laneBad := p.laneBad ||| (1#8 <<< l) }).port (2 * n)) → q.state = .up →
      q.split = false → q.width = 3 →
      exec (.laneFail n l) s = .next ((s.modPort (2 * n) fun p => { p with laneBad := p.laneBad ||| (1#8 <<< l) }).startDegrade (2 * n)))

/-- PORT_UP, LINK_TRAIN_FAIL, PORT_DOWN and PORT_RETRAIN_TIMER change a port's state (01_fabric.md R19, 12_links_cells.md
R268, 17_faults_recovery.md R352, 17_faults_recovery.md R359). Choices of the model that it rests on: log 20, 38, 72. -/
def Obligations.PortsGoUpAndDown : Prop :=
  (∀ (n : Nat) (r : PeerReport) (t : State) (s : State), s.engines = true → (s.port n).state = .training → (s.port n).role ≠ .unused →
    (s.port n).widthOk n r.width = true → roleMeets s.planeB (s.port n).role r.role.toNat = true →
    (t = (if (s.port n).trainedHalf r.width = true then ((s.modPort n fun p => p.setPeer r.fa r.role).modPort n fun p => { p with half := r.width }).bump (.lpDegrade n) else s.modPort n fun p => p.setPeer r.fa r.role)) →
      exec (.portUp n r) s = .next ((t.modPort n fun p => p.enter r ((List.range 7).map s.portGrant) (t.selected n)).reportLinks)) ∧
  (∀ (n : Nat) (s : State), s.engines = true → (s.port n).state = .training →
      exec (.linkTrainFail n) s = .next (s.raise evLinkTrainFail 0 n)) ∧
  (∀ (n : Nat) (s : State), s.engines = true → (s.port n).state = .up →
      exec (.portDown n) s = .next ((((s.modPort n fun p => { p with failed := true }).raise evPortDown (s.port n).peerFa.toNat n).leaveUp n .down).reportLinks)) ∧
  (∀ (n : Nat) (s : State), s.firmware = true → (s.port n).role ≠ .unused → (s.port n).refclkLost = false → (s.port n).state = .down →
      exec (.portRetrainTimer n) s = .next (s.retrain n))

/-- Cells are received, delivered, given an egress, selected and sent (12_links_cells.md R275, 13_routing_ordering.md
R289, 13_routing_ordering.md R294, 14_cell_memory.md R308, 15_egress_scheduling.md R322). Choices of the model that it
rests on: log 8, 15, 42, 79, 101. -/
def Obligations.CellsMoveThroughTheModule : Prop :=
  (∀ (n : Nat) (b : List Byte) (t : State) (s : State), s.linkUp n = true → b.length = 256 →
    (s.modPort n fun p => { p with rxCells := p.rxCells.erase b }).ingress n b = some t →
      exec (.cellReceive n b) s = .next (t)) ∧
  (∀ (e k : Nat) (w : Nat × Nat × Cell × Nat) (u : State) (s : State), s.engines = true →
      (s.readWindow (engineClient e)).find? (fun e => e.1 == k) = some w → w.2.2.2 ≤ s.clk.cycle →
      u = s.setWindow (engineClient e) ((s.readWindow (engineClient e)).erase w) → (w.2.2.1.kind = kCtrl ∨ w.2.2.1.kind = kRead) →
      exec (.localCellDeliver e k) s = .next (let t := (((u.setQueue (.toEngine e k) ((u.queue (.toEngine e k)).drop 1)).dropRef w.2.1).fillWindow e).admitBlocked
        { t with rt := { t.rt with inbox := t.rt.inbox ++ [(w.2.2.1.src, w.2.2.1.hdl, [w.2.2.1])] } })) ∧
  (∀ (e k : Nat) (w : Nat × Nat × Cell × Nat) (u t : State) (s : State), s.engines = true →
      (s.readWindow (engineClient e)).find? (fun e => e.1 == k) = some w → w.2.2.2 ≤ s.clk.cycle → w.2.2.1.kind ≠ kCtrl →
      w.2.2.1.kind ≠ kRead → u = s.setWindow (engineClient e) ((s.readWindow (engineClient e)).erase w) →
      t = (((u.setQueue (.toEngine e k) ((u.queue (.toEngine e k)).drop 1)).dropRef w.2.1).fillWindow e).admitBlocked →
      t.cellFate w.2.2.1 = .stream →
      exec (.localCellDeliver e k) s = .next (t.joinStream w.2.2.1)) ∧
  (∀ (q : Nat) (e : Nat × List Nat) (x : CellSlot) (n : Nat) (s : State), (s.cm.waiting.find? fun w => w.1 == q) = some e →
      s.cellSlot q = some x → ((e.2.filter fun p => (s.port p).state == .up).find? fun p => s.grantOk x.port p x.cell.tc) = some n →
      exec (.adaptiveEgressChoice q) s = .next ((State.countEgress { s with cm := { s.cm with waiting := s.cm.waiting.filter fun w => w.1 != q } } x.port x.cell n).enqueue (.egress n x.cell.tc) q)) ∧
  (∀ (n : Nat) (s : State), s.linkUp n = true → (s.readWindow (egressClient n)).length < windowRoom →
      exec (.schedulerSelect n) s = .next ((State.selectAux n (((List.range 7).map fun tc => ((s.holdMisfits n).queue (.egress n tc)).length).sum) (s.holdMisfits n)).admitBlocked)) ∧
  (∀ (n o : Nat) (e : Nat × Nat × Cell × Nat) (t u : State) (s : State), (s.readWindow (egressClient n)).find? (fun e => e.1 == n) = some e → s.linkUp n = true → (s.port n).replay.length < replayFrames → e.2.2.2 ≤ s.clk.cycle → t = s.setWindow (egressClient n) ((s.readWindow (egressClient n)).erase e) → u = { t with cm := { t.cm with ends := Assoc.del (n, e.2.1) t.cm.ends } } →
      exec (.cellTransmit n o) s = .next (let v := (u.modPort n fun p => { p with
            replay := p.replay ++ [((s.port n).txFseq, e.2.2.1)], txFseq := ((s.port n).txFseq + 1) % 2 ^ 16 }).sendData n (s.port n).txFseq e.2.2.1
        let x := v.modSched n fun x => { x with
            frames := (x.frames.drop (x.frames.length + 1 - replayFrames)) ++ [((s.port n).txFseq, Assoc.get 0 (n, e.2.1) s.cm.ends)] }
        ((x.dropRef e.2.1).admitBlocked).endsLate n (Assoc.get 0 (n, e.2.1) s.cm.ends) o))

/-- NAK_TIMER, PROBE_TIMER, ACK_RECEIVE and NAK_RECEIVE repair and release streams (13_routing_ordering.md R297,
13_routing_ordering.md R298, 13_routing_ordering.md R299, 13_routing_ordering.md R300). Choices of the model that it
rests on: log 5, 43, 44, 119. -/
def Obligations.StreamsRepairThemselves : Prop :=
  (∀ (a : FA) (h : BitVec 20) (r : RxStream) (g : Nat) (t : State) (s : State), Assoc.find (a, h) s.rt.rx = some r → s.engines = true →
    r.held ≠ [] → r.naks + 1 < giveUp → s.streamStep (a, h) = (g, t) →
      exec (.nakTimer a h) s = .next ((State.sendCtrl { t with rt := { t.rt with rx := Assoc.set (a, h) { r with naks := r.naks + 1 } t.rt.rx } } a kCtrl tcMgmt h (payNak g r.missing)).bump .rtNak)) ∧
  (∀ (a : FA) (h : BitVec 20) (v : TxStream) (r : Retained) (u : State) (s : State), s.tx (a, h) = some v →
      (v.top fun r => r.cell.fl) = some r ∨ ((v.top fun r => r.cell.fl) = none ∧ (v.top fun _ => true) = some r) → s.engines = true →
      v.probes + 1 < giveUp → u = s.fetchSpilled v h → u.tx (a, h) = some v →
      exec (.probeTimer a h) s = .next ((u.setTx (a, h) { v with probes := v.probes + 1 }).replayCell a r.cell)) ∧
  (∀ (a : FA) (h : BitVec 20) (q : BitVec 24) (k g : Nat) (u : State) (s : State), s.engines = true → u = s.takeCtrl a 0x05 →
      u.streamTo a h = none → u.plan (planOf h) = none →
      exec (.ackReceive a h q k g) s = .next (u)) ∧
  (∀ (a : FA) (h : BitVec 20) (q : BitVec 24) (k g : Nat) (u : State) (x : StreamKey) (v : TxStream) (t : State) (s : State), s.engines = true → u = s.takeCtrl a 0x05 → u.streamTo a h = some x → u.tx x = some v → v.names h g = true → (t = ((((u.setTx x { v with retained := v.retained.map (fun (r : Retained) => if 2 ^ 23 ≤ seqAhead r.cell.seq q.toNat ∧ !(r.acked.contains a) then { r with acked := r.acked ++ [a] } else r), probes := 0 }).release x fun r => u.allAcked x.1 r.acked).pump x).admitBlocked)) → t.plan (planOf h) = none →
      exec (.ackReceive a h q k g) s = .next (t)) ∧
  (∀ (a : FA) (h : BitVec 20) (g : Nat) (l : List (Nat × Nat)) (u : State) (x : StreamKey) (v y : TxStream) (w : State) (s : State), s.engines = true → u = s.takeCtrl a 0x06 → u.streamTo a h = some x → u.tx x = some v → v.names h g = true → w = u.fetchSpilled v h → y = (w.tx x).getD { v with retained := [] } →
      exec (.nakReceive a h g l) s = .next (((sortBy (fun (a b : Cell) => decide (seqAhead a.seq y.nextSeq < seqAhead b.seq y.nextSeq))
          ((y.retained.map (·.cell)).filter fun c => inRanges l c.seq)).filter fun c => !w.resending a c).foldl (fun t c => t.replayCell a c) w))

/-- LAUNCH, the heartbeats of endpoints and STEP_END act (04_collective_plans.md R78, 12_links_cells.md R279,
12_links_cells.md R280, 17_faults_recovery.md R349). Choices of the model that it rests on: log 3. -/
def Obligations.LaunchesAndHeartbeatsAct : Prop :=
  (∀ (a : FA) (h : BitVec 20) (g : Nat) (w : Word) (x : BitVec 32) (p : Plan) (k : Coll) (t : State) (s : State), s.engines = true →
    s.plan (planOf h) = some p → p.coll = some k → w = p.sig → p.members.contains a = true → s.scalarOk p h g a x.toNat = true →
    scalarAgrees p (s.slot h) g x = true → (s.slot h).state = .free → s.pmaskFor p.members ≠ 0 →
    t = s.openInstance h p g (s.pmaskFor p.members) (some x) → (t.slot h).state = .opened →
      exec (.launch a h g w x) s = .next (((((t.join h p a x).launchReply a h g stOk (s.pmaskFor p.members) k.trees).absentDown h).progress h))) ∧
  (∀ (a : FA) (h : BitVec 20) (g : Nat) (w : Word) (x : BitVec 32) (s : State), s.engines = true → s.plan (planOf h) = none →
      exec (.launch a h g w x) s = .next (s.launchReply a h g stNotInstalled 0 0)) ∧
  (∀ (n : Nat) (s : State), s.engines = true → s.unplaced = false → (s.port n).role = .endpoint → (s.port n).state = .up →
      s.isFenced (s.peerOn n) = false →
      exec (.heartbeatSend n) s = .next ((s.modPort n fun p => { p with hbSent := ((s.port n).hbSent + 1) % 2 ^ 32 }).sendOnPort n (s.peerOn n) (payHeartbeat s.led.step (((s.port n).hbSent + 1) % 2 ^ 32) (b2n s.twinServes + 16 * (s.party (s.peerOn n)).epoch)))) ∧
  (∀ (n g k : Nat) (f : Byte) (u : State) (s : State), u = s.takeCtrl (s.peerOn n) 0x03 → u.engines = true →
      (u.port n).role = .endpoint → (u.port n).state = .up → u.isFenced (s.peerOn n) = false → (u.port n).silent = false →
      exec (.heartbeat n g k f) s = .next (u.modPort n fun p => { p with misses := 0, silent := false, hbHeard := true, otherUp := f.getLsbD 0 || (u.twin.bWait && p.hbHeard && p.otherUp) })) ∧
  (∀ (n : Nat) (s : State), s.engines = true → (s.port n).role = .endpoint → (s.port n).state = .up → (s.port n).silent = false →
      (s.port n).misses + 1 < s.missLimit →
      exec (.heartbeatMiss n) s = .next (s.modPort n fun p => { p with misses := p.misses + 1 })) ∧
  (∀ (n : Nat) (s : State), s.engines = true → (s.port n).role = .endpoint → (s.port n).state = .up → (s.port n).silent = false →
      s.missLimit ≤ (s.port n).misses + 1 →
      exec (.heartbeatMiss n) s = .next ((s.modPort n fun p => { p with misses := p.misses + 1 }).goSilent n)) ∧
  (∀ (n g : Nat) (v : Byte) (u : State) (s : State), u = s.takeCtrl (s.peerOn n) 0x04 → u.engines = true → (u.port n).role = .endpoint →
      exec (.stepEnd n g v) s = .next (u.modPort n fun p => { p with epStep := BitVec.ofNat 64 (g % 2 ^ 63 + 2 ^ 63 * (v.toNat % 2)) }))

/-- TWIN_HB_SEND, TWIN_HB, TWIN_SILENT, TWIN_B_WAIT_END and SILENCE (12_links_cells.md R282, 17_faults_recovery.md R350,
17_faults_recovery.md R351). Choices of the model that it rests on: log 65. -/
def Obligations.TwinsWatchEachOther : Prop :=
  (∀ (n : Nat) (s : State), s.engines = true → s.unplaced = false → s.twin.hbStopped = false → (s.port n).role = .twin →
    (s.port n).state = .up → s.twin.present = true →
      exec (.twinHbSend n) s = .next ((s.modPort n fun p => { p with twinHbSent := ((s.port n).twinHbSent + 1) % 2 ^ 32 }).sendOnPort n s.twin.fa (payTwinHb s.led.step (((s.port n).twinHbSent + 1) % 2 ^ 32) s.silentMask))) ∧
  (∀ (n g k : Nat) (b : BitVec 48) (u : State) (s : State), u = s.takeCtrl s.twin.fa 0x80 → u.engines = true →
      (u.port n).role = .twin → u.twinServes = true →
      exec (.twinHb n g k b) s = .next (State.decideDead { u with twin := { u.twin with ports := b } })) ∧
  (∀ s : State, s.firmware = true → s.twinServes = true → (State.planeB { s with twin := { s.twin with silent := true } }) = false →
      exec (.twinSilent) s = .next (State.carryNode { s with twin := { s.twin with silent := true } })) ∧
  (∀ s : State, s.firmware = true → s.twin.bWait = true → (s.endpointsUp.any fun p => (s.port p).hbHeard && (s.port p).otherUp) = true →
      exec (.twinBWaitEnd) s = .next (State.stopTwinB { s with twin := { s.twin with bWait := false } })) ∧
  (∀ s : State, s.firmware = true → s.twin.bWait = true → (s.endpointsUp.any fun p => (s.port p).hbHeard && (s.port p).otherUp) = false →
      exec (.twinBWaitEnd) s = .next (State.carryNode { s with twin := { s.twin with bWait := false } })) ∧
  (∀ (g : Nat) (b : BitVec 48) (s : State), s.firmware = true → s.paired = true →
      exec (.silence g b) s = .next (State.decideDead { s.takeCtrl s.twin.fa 0x81 with twin := { (s.takeCtrl s.twin.fa 0x81).twin with ports := b } }))

/-- FENCE_NOTICE, FENCE_BUMP_DEFERRED, ADMIT_NOTICE and LINK_NOTICE (17_faults_recovery.md R355, 17_faults_recovery.md
R356, 17_faults_recovery.md R357, 12_links_cells.md R282, 13_routing_ordering.md R303). Choices of the model that it
rests on: log 27, 64. -/
def Obligations.NoticesChangeTheEpochTable : Prop :=
  (∀ (a f : FA) (e : BitVec 4) (d : Bool) (b : Nat) (u : State) (s : State), s.firmware = true → u = s.takeCtrl a 0x82 →
    (u.party f).fenced = false →
      exec (.fenceNotice a f e d b) s = .next ((u.setFenced f e.toNat d [(true, e.toNat, d)]).sweep f)) ∧
  (∀ (f : FA) (s : State), s.firmware = true → (s.party f).deferred = true → (s.party f).fenced = true → (s.party f).applied = [] →
      s.bumpWaits f = false →
      exec (.fenceBumpDeferred f) s = .next ((s.setFenced f (((s.party f).epoch + 1) % 16) false []).notify s.otherModules (payFence f (((s.party f).epoch + 1) % 16) false s.beat))) ∧
  (∀ (a f : FA) (e : BitVec 4) (g : Nat) (u : State) (s : State), s.firmware = true → u = s.takeCtrl a 0x83 → (u.party f).fenced = true →
      exec (.admitNotice a f e g) s = .next (u.admits f e.toNat [(false, e.toNat, false)])) ∧
  (∀ (a r : FA) (d : Nat) (m x : Bool) (b : Nat) (s : State), s.firmware = true →
      exec (.linkNotice a r d m x b) s = .next ((s.takeCtrl a 0x84).linkChanged r d m x))

/-- DIGEST_SEND, DIGEST, NORM_RESULT, CARRY, COMMIT_NOTICE and COMMIT_ON_READY (05_training_state.md R119,
05_training_state.md R127, 05_training_state.md R130, 05_training_state.md R131). Choices of the model that it rests
on: log 22, 23, 26. -/
def Obligations.StepsAreExchangedAndCommitted : Prop :=
  (∀ (g : Nat) (d : Word) (w : BitVec 32) (s : State), s.engines = true → s.stepDone g = false → s.led.sentDig = none →
    s.commitBegun g = true → s.preReady g = true → d = s.digest → w = s.ownWord g →
    (State.paired { s with led := { s.led with sentDig := some (g, d, w) } }) = true →
      exec (.digestSend g) s = .next ((State.sendCtrl { s with led := { s.led with sentDig := some (g, d, w) } } s.twin.fa kCtrl tcMgmt 0 (payDigest g d w)).exchange g)) ∧
  (∀ (g : Nat) (d : Word) (w : BitVec 32) (u : State) (s : State), u = s.takeCtrl s.twin.fa 0x85 → u.engines = true →
      u.mem.resilver = none → u.stepDone g = false → u.paired = true →
      exec (.digest g d w) s = .next (State.exchange { u with led := { u.led with twinDig := some (g, d, w) } } g)) ∧
  (∀ (h : BitVec 20) (x : BitVec 32) (g : Nat) (u : State) (s : State), u = s.takeCtrl s.twin.fa 0x87 → u.engines = true →
      u.isNormPlan (planOf h) = true → u.stepDone g = false →
      exec (.normResult h x g) s = .next (u.normKnown (planOf h) g x)) ∧
  (∀ (u : State) (s : State), s.engines = true → (s.carrySteps.any s.carryDue) = true →
      u = s.fetchAll (s.carryRanges s.led.srcB) (s.carryRanges s.tgtB) →
      u.allReady (u.carryRanges u.led.srcB ++ u.carryRanges u.tgtB) = true →
      exec (.carry) s = .next (u.carryAll)) ∧
  (∀ (g : Nat) (r : List Byte) (u : State) (s : State), u = s.takeCtrl s.twin.fa 0x86 → u.engines = true → u.stepDone g = false →
      u.mem.resilver = none → (u.readyWord g).isSome = true →
      exec (.commitNotice g r) s = .next (u.commit g)) ∧
  (∀ (g : Nat) (r : List Byte) (u : State) (s : State), u = s.takeCtrl s.twin.fa 0x86 → u.engines = true → u.stepDone g = false →
      u.mem.resilver = none → u.readyWord g = none →
      exec (.commitNotice g r) s = .next ({ u with led := { u.led with notice := some (g, r) } })) ∧
  (∀ (g : Nat) (r : List Byte) (s : State), s.engines = true → s.led.notice = some (g, r) → s.stepDone g = false →
      (s.readyWord g).isSome = true →
      exec (.commitOnReady) s = .next (s.commit g))

/-- HEAL_START, HEAL_REQUEST, HEAL_REQUEST_TIMEOUT, HEAL_FAIL and HEAL_DATA (11_module_memory.md R259, 11_module_memory.md
R260, 12_links_cells.md R283, 12_links_cells.md R284). Choices of the model that it rests on: log 21, 66. -/
def Obligations.GranulesHeal : Prop :=
  (∀ (h : Heal) (l : List Heal) (t : State) (s : State), s.mem.heals = h :: l → s.engines = true → h.sent = false → s.paired = true →
    t = s.setHeal { h with tag := s.nextTag, sent := true } →
      exec (.healStart) s = .next (State.sendHeal { t with rt := { t.rt with rx := Assoc.del (s.twin.fa, BitVec.ofNat 20 s.nextTag) t.rt.rx } } { h with tag := s.nextTag, sent := true })) ∧
  (∀ (a : FA) (x : Nat) (r : GranuleRef) (g : Nat) (u w : State) (s : State), s.mem.wiping = none → u = s.takeInbox a 0 →
      u.engines = true → a = u.twin.fa → r.gen = u.led.step → u.granuleAt r = some g →
      (r.role.getLsbD 0 = false ∨ r.role.getLsbD 1 = true ∨ u.targetWritten r.offset = true) →
      u.tagFree (a, BitVec.ofNat 20 x) = true → w = u.fetchRange (g * granuleBytes) granuleBytes → w.mem.bad.contains g = false →
      exec (.healRequest a x r) s = .next ((w.freshTx (a, BitVec.ofNat 20 x)).sendMessage a (BitVec.ofNat 20 x) kResp tcMgmt 0 false (transferHead 1 r granuleBytes) (w.granuleData g))) ∧
  (∀ (h : Heal) (l : List Heal) (s : State), s.mem.heals = h :: l → s.engines = true → h.sent = true → s.paired = true →
      exec (.healRequestTimeout) s = .next (s.sendHeal h)) ∧
  (∀ (r : GranuleRef) (x : Byte) (h : Heal) (l : List Heal) (u : State) (s : State), u = s.takeCtrl s.twin.fa 0x88 →
      u.mem.heals = h :: l → u.engines = true → h.sent = true → h.ref = r →
      exec (.healFail r x) s = .next (u.healFails h)) ∧
  (∀ (r : GranuleRef) (b : List Byte) (h : Heal) (l : List Heal) (u t : State) (s : State), s.mem.heals = h :: l →
      s.mem.wiping = none → u = s.takeTransfer h.tag → u.engines = true → h.sent = true → b.length = granuleBytes → h.ref = r →
      u.healAgrees h.granule b = true → (t = State.retire { u with mem := { u.mem with heals := u.mem.heals.drop 1, bad := u.mem.bad.filter fun g => g != h.granule } } h.granule) →
      exec (.healData r b) s = .next ((if (t.bankOf h.granule).isSome = true then t.stateWrite (h.granule * granuleBytes) b else (t.memWrite (h.granule * granuleBytes) b).putTables h.granule b).bump .memHeal))

/-- CONTRIB, EXPS, MAXE and PSUM messages that fit are staged and passed on (04_collective_plans.md R89,
04_collective_plans.md R90, 04_collective_plans.md R102). Choices of the model that it rests on: log 16, 18, 19, 29,
30. -/
def Obligations.FoldInputsAreStaged : Prop :=
  (∀ (m : Msg) (p : Plan) (t : State) (k : Coll) (pl : Place4) (v : Slot) (s : State), accepted s m p t → p.coll = some k →
    v = t.slot m.hdl → t.chunkPlace p v k m.head.chunk m.src = some pl → m.head.msg.toNat = msgContrib → k.folds = true →
    k.kind ≠ kAllGather → k.kind ≠ kBroadcast → p.seqn = none → t.isModule m.src = false → (t.localInputs p v).contains m.src = true →
    (v.chunk m.head.chunk).sentDown = false → ((v.chunk m.head.chunk).contribs.any fun e => e.1 == m.src) = false →
    t.treeOk pl m.head = true → geometryOk p v m.head = true → lenOk m.head m.data (k.contribBytes v.lseD m.head.elems) = true →
      exec (.contribReceive m) s = .next (t.stageContrib m p k pl m.src)) ∧
  (∀ (m : Msg) (p : Plan) (t : State) (k : Coll) (pl : Place4) (v : Slot) (u : State) (s : State), accepted s m p t → p.coll = some k →
      v = t.slot m.hdl → t.chunkPlace p v k m.head.chunk 0 = some pl → m.head.msg.toNat = msgExps →
      ((v.chunk m.head.chunk).exps.any fun e => e.1 == m.src) = false →
      ((v.chunk m.head.chunk).exps2.any fun e => e.1 == m.src) = false → 0 < k.rounds → pl.children.contains m.src = true →
      t.treeOk pl m.head = true → geometryOk p v m.head = true → m.data.length = k.expsBytes v.lseD m.head.elems 0 →
      t.takeCredit m.hdl k m.src m.head.chunk = some u →
      exec (.expsReceive m) s = .next (u.modSlot m.hdl fun v => v.modChunk m.head.chunk fun ch => { ch.arrive m.src u.clk.cycle m.head.lastFa m.head.late with exps := ch.exps ++ [(m.src, m.data)] })) ∧
  (∀ (m : Msg) (p : Plan) (t : State) (k : Coll) (pl : Place4) (v : Slot) (s : State), accepted s m p t → p.coll = some k →
      v = t.slot m.hdl → t.chunkPlace p v k m.head.chunk 0 = some pl → m.head.msg.toNat = msgExps →
      ((v.chunk m.head.chunk).exps.any fun e => e.1 == m.src) = true →
      ((v.chunk m.head.chunk).exps2.any fun e => e.1 == m.src) = false → 1 < k.rounds → (v.chunk m.head.chunk).maxe.isSome = true →
      pl.children.contains m.src = true → t.treeOk pl m.head = true → geometryOk p v m.head = true →
      m.data.length = k.expsBytes v.lseD m.head.elems 1 →
      exec (.expsReceive m) s = .next (t.setSlot m.hdl (v.modChunk m.head.chunk fun ch => { ch.arriveAgain m.src t.clk.cycle m.head.lastFa m.head.late with exps2 := ch.exps2 ++ [(m.src, m.data)] }))) ∧
  (∀ (m : Msg) (p : Plan) (t : State) (k : Coll) (pl : Place4) (v : Slot) (s : State), accepted s m p t → p.coll = some k →
      v = t.slot m.hdl → t.chunkPlace p v k m.head.chunk 0 = some pl → m.head.msg.toNat = msgMaxe → k.kind ≠ kBarrier →
      (v.chunk m.head.chunk).maxe = none → (v.chunk m.head.chunk).maxe2 = none → 0 < k.rounds → 0 < (v.chunk m.head.chunk).expsSent →
      pl.parent = some m.src → t.treeOk pl m.head = true → geometryOk p v m.head = true →
      m.data.length = k.expsBytes v.lseD m.head.elems 0 →
      exec (.maxeReceive m) s = .next (pl.children.foldl (fun u x => u.sendMsg m.hdl x (mkHead p v msgMaxe m.head.chunk m.head.elems false (treeByte pl.tree t.planeB)) m.data false false)
        (t.modSlot m.hdl fun v => v.modChunk m.head.chunk fun ch => { ch with maxe := some m.data }))) ∧
  (∀ (m : Msg) (p : Plan) (t : State) (k : Coll) (pl : Place4) (v : Slot) (s : State), accepted s m p t → p.coll = some k →
      v = t.slot m.hdl → t.chunkPlace p v k m.head.chunk 0 = some pl → m.head.msg.toNat = msgPsum → k.folds = true →
      k.fop ≠ fopOrdered → pl.children.contains m.src = true → ((v.chunk m.head.chunk).psums.all fun e => e.1 != m.src) = true →
      k.rounds ≠ 0 → ((v.chunk m.head.chunk).exps.any fun e => e.1 == m.src) = true → t.treeOk pl m.head = true →
      geometryOk p v m.head = true → m.data.length = k.psumBytes v.lseD m.head.elems →
      exec (.psumReceive m) s = .next (t.modSlot m.hdl fun v => v.modChunk m.head.chunk fun ch => { ch with psums := ch.psums ++ [(m.src, m.data)] })) ∧
  (∀ (m : Msg) (p : Plan) (t : State) (k : Coll) (pl : Place4) (v : Slot) (u : State) (s : State), accepted s m p t → p.coll = some k →
      v = t.slot m.hdl → t.chunkPlace p v k m.head.chunk 0 = some pl → m.head.msg.toNat = msgPsum → k.folds = true →
      k.fop ≠ fopOrdered → pl.children.contains m.src = true → ((v.chunk m.head.chunk).psums.all fun e => e.1 != m.src) = true →
      k.rounds = 0 → t.treeOk pl m.head = true → geometryOk p v m.head = true → m.data.length = k.psumBytes v.lseD m.head.elems →
      t.takeCredit m.hdl k m.src m.head.chunk = some u →
      exec (.psumReceive m) s = .next (u.modSlot m.hdl fun v => v.modChunk m.head.chunk fun ch => { ch.arrive m.src u.clk.cycle m.head.lastFa m.head.late with psums := ch.psums ++ [(m.src, m.data)] }))

/-- RESULT, GATHER, EXCH and END messages that fit are delivered, passed on and acted on (04_collective_plans.md R89,
04_collective_plans.md R92, 04_collective_plans.md R93, 04_collective_plans.md R451). Choices of the model that it
rests on: log 17, 24, 34, 98, 99, 102, 106. -/
def Obligations.ResultsAndExchangesAreDelivered : Prop :=
  (∀ (m : Msg) (p : Plan) (t : State) (k : Coll) (pl : Place4) (v : Slot) (s : State), accepted s m p t → p.coll = some k →
    v = t.slot m.hdl → t.chunkPlace p v k m.head.chunk 0 = some pl → m.head.msg.toNat = msgResult →
    (k.folds = true ∨ k.kind = kBarrier) → k.kind ≠ kRug → pl.parent = some m.src → (v.chunk m.head.chunk).sentDown = false →
    t.treeOk pl m.head = true → geometryOk p v m.head = true → m.data.length = k.resultBytes v.lseD m.head.elems →
      exec (.resultReceive m) s = .next ((((t.sendDown m.hdl p k m.head m.data pl.children).markDown m.hdl m.head.chunk).resultEffect p m.hdl v.step m.data).after m.hdl)) ∧
  (∀ (m : Msg) (p : Plan) (t : State) (k : Coll) (v : Slot) (near : List FA) (s : State), accepted s m p t → p.coll = some k →
      v = t.slot m.hdl → near = treeNear (t.links v k.trees t.planeB m.head.treeIx) t.selfFa → p.seqn = none → k.kind = kAllGather →
      m.head.msg.toNat = msgGather → m.head.chunk < p.nChunks 0 → m.head.elems = p.chunkElems 0 m.head.chunk →
      m.head.planeB = t.planeB → t.planeOfChunk p v m.head.chunk = t.planeB → m.head.treeIx = t.treeOfChunk p v m.head.chunk →
      near.contains m.src = true → (v.sentDown.filter (· == (m.head.chunk, m.src))).length < t.leavesBehind p (t.links v k.trees t.planeB m.head.treeIx) m.src → lenOk m.head m.data (k.resultBytes 0 m.head.elems) = true →
      exec (.gatherReceive m) s = .next ((t.sendDown m.hdl p k m.head m.data (near.filter (· != m.src))).modSlot m.hdl fun v => { v with sentDown := v.sentDown ++ [(m.head.chunk, m.src)] })) ∧
  (∀ (m : Msg) (p : Plan) (t : State) (k : Coll) (v : Slot) (q : SeqSec) (w : FA) (s : State), accepted s m p t → p.coll = some k →
      v = t.slot m.hdl → p.seqn = some q → w = p.members.getD m.head.lastFa.toNat 0 → m.head.msg.toNat = msgGather →
      m.head.chunk < p.nChunks 0 → m.head.elems = p.chunkElems 0 m.head.chunk → m.head.planeB = t.planeB →
      t.planeOfChunk p v m.head.chunk = t.planeB → m.head.treeIx = t.treeOfChunk p v m.head.chunk → t.leafOf w t.planeB = some m.src →
      m.src ≠ t.selfFa → q.role ≠ 2 → m.head.lastFa.toNat < p.members.length → v.sentDown.contains (m.head.chunk, w) = false →
      lenOk m.head m.data m.head.elems = true → m.head.chunk / q.cpb < q.bpr p.members.length →
      exec (.gatherReceive m) s = .next ((t.seqDown m.hdl p q m.head m.data m.src).modSlot m.hdl fun v => { v with sentDown := v.sentDown ++ [(m.head.chunk, w)] })) ∧
  (∀ (m : Msg) (p : Plan) (t : State) (k : Coll) (v : Slot) (pl : Place4) (s : State), accepted s m p t → p.coll = some k →
      v = t.slot m.hdl → p.seqn = none → (k.kind = kBroadcast ∨ (k.kind = kRug ∧ m.head.presence = false)) →
      m.head.msg.toNat = msgGather → m.head.chunk < p.nChunks 0 → m.head.elems = p.chunkElems 0 m.head.chunk →
      m.head.planeB = t.planeB → t.planeOfChunk p v m.head.chunk = t.planeB → m.head.treeIx = t.treeOfChunk p v m.head.chunk →
      t.chunkPlace p v k m.head.chunk 0 = some pl → pl.parent = some m.src → (v.chunk m.head.chunk).sentDown = false →
      lenOk m.head m.data (k.resultBytes 0 m.head.elems) = true →
      exec (.gatherReceive m) s = .next (((t.sendDown m.hdl p k m.head m.data pl.children).markDown m.hdl m.head.chunk).after m.hdl)) ∧
  (∀ (m : Msg) (p : Plan) (t : State) (k : Coll) (a b : Nat) (s : State), accepted s m p t → p.coll = some k →
      m.head.msg.toNat = msgExch → p.seqn = none → p.dispatch = none → p.sparse = none → p.isPlain = true →
      p.members.getD a 0 = m.src → b < p.members.length →
      exec (.exchReceive m a b) s = .next (t.plainReceive m p k b)) ∧
  (∀ (m : Msg) (p : Plan) (t : State) (k : Coll) (a b : Nat) (q : SeqSec) (s : State), accepted s m p t → p.coll = some k →
      m.head.msg.toNat = msgExch → p.seqn = some q →
      exec (.exchReceive m a b) s = .next ((t.storeReceive m p k q).settle)) ∧
  (∀ (m : Msg) (p : Plan) (t : State) (k : Coll) (a b : Nat) (x : SparseSec) (s : State), accepted s m p t → p.coll = some k →
      m.head.msg.toNat = msgExch → p.seqn = none → p.dispatch = none → p.sparse = some x →
      exec (.exchReceive m a b) s = .next (t.rlzReceive m p k x a b)) ∧
  (∀ (m : Msg) (p : Plan) (t : State) (k : Coll) (a b : Nat) (x : DispatchSec) (s : State), accepted s m p t → p.coll = some k →
      m.head.msg.toNat = msgExch → p.seqn = none → p.dispatch = some x → t.isModule m.src = true →
      exec (.exchReceive m a b) s = .next (t.sieveReceive m p k x a b)) ∧
  (∀ (m : Msg) (p : Plan) (t : State) (k : Coll) (a b r : Nat) (x : DispatchSec) (s : State), accepted s m p t → p.coll = some k →
      m.head.msg.toNat = msgExch → p.seqn = none → p.dispatch = some x → t.isModule m.src = false →
      (p.members.findIdx? fun z => z == m.src) = some r → (t.slot m.hdl).locals.contains m.src = true →
      exec (.exchReceive m a b) s = .next (t.feedReceive m k x r)) ∧
  (∀ (m : Msg) (p : Plan) (u : State) (s : State), u = s.takeInbox m.src m.hdl → u.engines = true → u.plan (planOf m.hdl) = some p →
      (u.slot m.hdl).unlaunched (!(u.isLeafOf m.src)) m.src m.head.step = false → m.head.ok = true → (u.slot m.hdl).state = .opened →
      (u.slot m.hdl).refused.contains m.src = false → m.head.step = (u.slot m.hdl).step → m.head.sig = p.sig →
      m.data.length = 2 * m.head.elems → u.isModule m.src = true → (p.seqn.isSome = true →
      m.head.layer = ((u.slot m.hdl).scalar.getD 0).toNat) →
      exec (.endReceive m) s = .next ((u.endMatched m p (endStatus m.head.status.toNat) ((pieces 2 m.data).map fun x => BitVec.ofNat 16 (leNat x))).settle))

/-- EXPS_SEND, PSUM_SEND and FOLD_RESULT_FORM act once all inputs of a chunk are there (03_fold_arithmetic.md R57,
04_collective_plans.md R89, 04_collective_plans.md R99). Choices of the model that it rests on: log 15, 28, 108, 109,
110. -/
def Obligations.FoldsAreFormedAndSent : Prop :=
  (∀ (h : BitVec 20) (c : Nat) (w : ChunkView) (own : List (List Byte)) (s : State), s.chunkView h c = some w →
    s.moduleData w.plan w.slot = some own → w.ch.expsSent < w.coll.rounds → (w.coll.kind ≠ kBarrier ∨ w.place.parent.isSome = true) →
    s.localsIn w = true → w.kidsIn w.ch.expsSent = true → (w.ch.expsSent = 0 ∨ w.ch.maxe.isSome = true) →
    (s.inTurn w c fun x => decide (w.ch.expsSent < x.expsSent)) = true →
      exec (.expsSend h c) s = .next (s.expsRound h c w (w.ch.given ++ own) w.ch.expsSent)) ∧
  (∀ (h : BitVec 20) (c : Nat) (w : ChunkView) (q : FA) (given : List (List Byte)) (t : State) (z : FA × Nat) (s : State), s.chunkView h c = some w → w.place.parent = some q → s.allIn w = some given → w.coll.kind ≠ kBarrier → w.coll.fop ≠ fopOrdered → w.ch.psumSent = false → (s.inTurn w c fun x => x.psumSent) = true → z = (if w.coll.rounds = 0 then lastOf w.ch.arrived else (0, 0)) → (t = ((s.bump .feAlignLoss (w.coll.psumOf w.plan.members.length w.slot.lseD w.elems w.ch given).2).modSlot h fun v => v.modChunk c fun ch => { ch with psumSent := true })) →
      exec (.psumSend h c) s = .next (let d := (w.coll.psumOf w.plan.members.length w.slot.lseD w.elems w.ch given).1
        let e : Head := { mkHead w.plan w.slot msgPsum c w.elems false (treeByte w.place.tree s.planeB) with lastFa := z.1, late := z.2 }
        (if w.coll.rounds = 0 then t.sendFirst h w.coll.credits q e d else t.sendMsg h q e d true false).freeChunk h c)) ∧
  (∀ (h : BitVec 20) (c : Nat) (w : ChunkView) (given : List (List Byte)) (r : FoldOut) (u t x : State) (s : State), s.chunkView h c = some w → w.place.parent = none → s.allIn w = some given → w.ch.formed = false → (s.inTurn w c fun x => x.formed) = true → u = s.formFetch w c → (u.slot h).state = .opened → u.formReady w c = true → r = w.coll.resultOf w.plan.members.length w.slot.lseD w.elems w.ch given w.ordered → (t = ((((u.bump .feAlignLoss r.lost).bump .feSpecialBlock r.special).bump .feFoldRange r.range).bump .feLseEmpty r.empty).modSlot h fun v => v.modChunk c fun ch => { ch with formed := true }) → x = (if w.coll.rounds = 0 ∨ w.coll.kind = kBarrier then t.straggle w.plan w.ch.arrived else t) →
      exec (.foldResultForm h c) s = .next (if w.coll.kind = kRug then ((x.freeChunk h c).rugFormed h w.plan w.coll c r.data).after h
        else
          let y := x.writeResH h w.plan w.coll c w.slot.lseD w.elems r.data
          (((((y.sendDown h w.plan w.coll (mkHead w.plan w.slot msgResult c w.elems false (treeByte w.place.tree y.planeB)) r.data w.place.children).markDown h
            c).freeChunk h c).resultEffect w.plan h w.slot.step r.data).after h)))

/-- MIRROR_RECEIVE, RUG_UPDATE and NORM_PASS_START run the update of a step (05_training_state.md R114,
05_training_state.md R115, 05_training_state.md R117, 05_training_state.md R118). Choices of the model that it rests
on: log 10, 22, 90, 91. -/
def Obligations.UpdatesAndNormsRun : Prop :=
  (∀ (m : MirrorMsg) (p : Plan) (k : Coll) (u : State) (s : State), u = s.takeInbox m.src m.hdl → u.engines = true →
    u.plan (planOf m.hdl) = some p → p.coll = some k → (u.slot m.hdl).state = .opened →
      exec (.mirrorReceive m) s = .next (((u.mirrorAccept m).park m.hdl p k m.chunk).settle)) ∧
  (∀ (m : MirrorMsg) (p : Plan) (u : State) (s : State), u = s.takeInbox m.src m.hdl → u.engines = true →
      u.plan (planOf m.hdl) = some p → (u.slot m.hdl).state = .free →
      exec (.mirrorReceive m) s = .next ({ u with led := { u.led with held := u.led.held ++ [m] } })) ∧
  (∀ (h : BitVec 20) (c : Nat) (l : List Upset) (p : Plan) (k : Coll) (o : Owner) (r : RugChunk) (d : Shard) (a : Nat) (u : State) (s : State), s.plan (planOf h) = some p → p.coll = some k → p.owners[c]? = some o → (s.slot h).rugOf c = some r → s.shardAt o.shard = some (d, a) → s.engines = true → (s.slot h).state = .opened → k.kind = kRug → r.applied = false → s.owns o = true → s.updatesRun (s.slot h).step = true → u = (s.meetUpsets l).fetchShard d a o.offset (p.chunkElems 0 c) → u.shardReady d a o.offset (p.chunkElems 0 c) = true →
      exec (.rugUpdate h c l) s = .next ((u.rugApply h p k c o r d a).settle)) ∧
  (∀ (n g : Nat) (t : State) (s : State), s.engines = true → s.normReady n g = true → ((s.norm n g).bind (·.partialSum)) = none →
      (t = (s.group n).foldl (fun (t : State) p => match t.instanceAt p.num g, p.coll with | some h, some k => (t.ownedChunks p).foldl (fun (t : State) e => t.park h p k e.1) t | _, _ => t) s) →
      exec (.normPassStart n g) s = .next (let u := t.modNorm n g fun x => { x with partialSum := some (sumSquares (t.groupGrads n g)) }
        (u.openNorm n g ((u.groupMask n g).getD 0)).settle))

/-- Write messages land, queues start, ops issue and run, all-wait ends, and SPACC makes its second pass
(08_plan_programs.md R189, 08_plan_programs.md R199, 08_plan_programs.md R200, 08_plan_programs.md R201,
08_plan_programs.md R207, 06_experts_sparse.md R161). Choices of the model that it rests on: log 33, 75, 76, 107, 112. -/
def Obligations.ProgramsRun : Prop :=
  (∀ (m : WriteMsg) (p : Plan) (t : State) (s : State), s.engines = true → s.plan (planOf m.hdl) = some p →
    (s.slot m.hdl).unlaunched (!(s.isLeafOf m.src)) m.src m.step = false →
    t = (s.takeInbox m.src m.hdl).openFor p m.hdl (!(s.isLeafOf m.src)) m.step 0 → (t.slot m.hdl).state = .opened →
    t.pl.waiting.contains m.hdl = false → (t.landFetch m).landReady p (t.slot m.hdl) m = true →
    ((t.landFetch m).slot m.hdl).state = .opened →
      exec (.writeMessageReceive m) s = .next (((t.landFetch m).landWrite m).progress m.hdl)) ∧
  (∀ (m : WriteMsg) (p : Plan) (t : State) (s : State), s.engines = true → s.plan (planOf m.hdl) = some p →
      (s.slot m.hdl).unlaunched (!(s.isLeafOf m.src)) m.src m.step = false →
      t = (s.takeInbox m.src m.hdl).openFor p m.hdl (!(s.isLeafOf m.src)) m.step 0 → (t.slot m.hdl).state = .opened →
      t.pl.waiting.contains m.hdl = true →
      exec (.writeMessageReceive m) s = .next ({ t with pl := { t.pl with staged := t.pl.staged ++ [⟨m⟩] } })) ∧
  (∀ (h : BitVec 20) (l : List (BitVec 20)) (p : Plan) (w : List StagedWrite) (u : State) (s : State), s.pl.waiting = h :: l →
      s.plan (planOf h) = some p → s.engines = true → s.contextsUsed + p.queues.length ≤ 1024 →
      (w = s.pl.staged.filter (fun w => w.msg.hdl == h)) → (u = w.foldl (fun t w => t.landFetch w.msg) s) →
      u.pl.waiting.contains h = true → (w.all fun w => u.landReady p (s.slot h) w.msg) = true →
      exec (.queueContextStart) s = .next (let t : State := { u with pl := { u.pl with
          waiting := l
          staged := u.pl.staged.filter fun w => w.msg.hdl != h
          progs := Assoc.set h ⟨p.queues.map fun q => q.context ((s.slot h).scalar.getD 0) (s.slot h).step, u.clk.cycle⟩ u.pl.progs } }
        (w.foldl (fun t w => if (t.slot h).state = .opened then t.landWrite w.msg else t) t).progress h)) ∧
  (∀ (h : BitVec 20) (n : Nat) (q : QCtx) (o : Op) (s : State), s.nextOp h n = some (q, o) → s.engines = true →
      (s.slot h).state = .opened → q.met o.wait = true →
      exec (.opIssue h n) s = .next (let run : OpRun := { iter := 0, waited := true, skipped := o.skips q, debug := s.rdf .veCtl 0 1 == 1, regs := [], flight := [], acc := [], bankB := s.led.srcB, blocks := [] }
        (s.modQ h n fun q => { q.take o.wait with run := some run }).bump .tokSkip (b2n (o.skips q)))) ∧
  (∀ (h : BitVec 20) (n : Nat) (q : QCtx) (o : Op) (r x : OpRun) (t u : State) (s : State), s.curOp h n = some (q, o, r) →
      s.engines = true → (s.slot h).state = .opened → (r.waited = true ∨ q.met o.wait = true) → r.skipped = true →
      (t = (if r.waited = true then s else s.modQ h n fun q => q.take o.wait)) →
      (((t.withBank r.bankB).skipIter h o r).restore s.led.srcB) = .done u x →
      exec (.opIterationDone h n) s = .next ((u.iterated h n o x).progress h)) ∧
  (∀ (h : BitVec 20) (n : Nat) (q : QCtx) (o : Op) (r x : OpRun) (w t u : State) (s : State), s.curOp h n = some (q, o, r) →
      s.engines = true → (s.slot h).state = .opened → (r.waited = true ∨ q.met o.wait = true) → r.skipped = false → w = s.opFetch o r →
      (w.slot h).state = .opened → (t = (if r.waited = true then w else w.modQ h n fun q => q.take o.wait)) →
      (t.withBank r.bankB).iterReady o r = true → (((t.withBank r.bankB).runIter h n o r).restore s.led.srcB) = .done u x →
      exec (.opIterationDone h n) s = .next ((u.iterated h n o x).progress h)) ∧
  (∀ (h : BitVec 20) (p : Plan) (g : Prog) (s : State), s.plan (planOf h) = some p → Assoc.find h s.pl.progs = some g →
      s.engines = true → s.rdf .tokWaitLimit 0 24 ≠ 0 → s.allWait h p g = true → g.quiet + s.rdf .tokWaitLimit 0 24 * 2000 ≤ s.clk.cycle →
      exec (.waitCycle h) s = .next (let t := (s.raise evWaitCycle h.toNat g.queues.length).bump .tokWaitCycle
        (State.failInstance { t with pl := { t.pl with
          snapshots := Assoc.set p.num (snapshotOf h (s.slot h).step p g) t.pl.snapshots } } h stWaitCycle []).settle)) ∧
  (∀ (h : BitVec 20) (p : Plan) (c : SparseSec) (x y : Sparse) (t u : State) (s : State), s.plan (planOf h) = some p →
      p.sparse = some c → s.sparseOf h = some x → s.engines = true → (s.slot h).state = .opened → x.started = false →
      s.sparseTurn h = true → ((p.localRanks (s.slot h)).all (x.ownerIn p (s.slot h))) = true →
      t = (s.fetchObject 6 [h.toNat]).pass1All h p c true → t.sparseOf h = some y → (t.slot h).state = .opened → u = t.pass2 h p c y →
      exec (.spaccPass2 h) s = .next ((if u.queuesFinished h p = true then u.closeSlot h p else u).settle))

/-- REFRESH, REFRESH_STATUS_READ, MEM_HOT_CLEAR and PATROL_SCRUB (11_module_memory.md R256, 11_module_memory.md R261,
11_module_memory.md R262). Choices of the model that it rests on: log 10, 62, 114. -/
def Obligations.MemoryIsKeptUp : Prop :=
  (∀ (c : Nat) (s : State), s.memRuns = true → s.hasChannel c = true → s.onCalendar c = true →
      exec (.refresh c) s = .next ({ s with mem := { s.mem with banks := Assoc.set c ((Assoc.get 0 c s.mem.banks + 1) % 16) s.mem.banks } })) ∧
  (∀ (c : Nat) (s : State), s.memRuns = true → s.hasChannel c = true → s.clk.active = false → s.onCalendar c = false →
      exec (.refresh c) s = .next (State.bump { s with mem := { s.mem with banks := Assoc.set c ((Assoc.get 0 c s.mem.banks + 1) % 16) s.mem.banks } } .ndRefreshSlip)) ∧
  (∀ (n : Nat) (s : State), s.memRuns = true → s.packages.contains n = true → (s.clk.active = false ∨ s.turnIn (8 * n) 16384 = true) →
      s.mem.hotPkgs.contains n = false →
      exec (.refreshStatusRead n true) s = .next ((State.raise { s with mem := { s.mem with hot := true, hotPkg := n, hotPkgs := s.mem.hotPkgs ++ [n] } } evMemHot 0 n).leaveLockstep true)) ∧
  (∀ (n : Nat) (s : State), s.memRuns = true → s.packages.contains n = true → (s.clk.active = false ∨ s.turnIn (8 * n) 16384 = true) →
      exec (.refreshStatusRead n false) s = .next ({ s with mem := { s.mem with hotPkgs := s.mem.hotPkgs.filter (· != n) } })) ∧
  (∀ s : State, s.memRuns = true → s.mem.hot = true → s.mem.hotPkgs = [] →
      exec (.memHotClear) s = .next (State.raise { s with mem := { s.mem with hot := false } } evMemHotClear 0 0)) ∧
  (∀ (c b n : Nat) (l : List (Nat × BitVec 16)) (u t : State) (s : State), s.memRuns = true → s.hasChannel c = true →
      s.rdf .memCtl 0 8 ≠ 0 → s.mem.wiping = none → (s.clk.active = false ∨ s.turnIn c s.scrubBeats = true) →
      n = Assoc.get 0 c s.mem.scrub → n % rawUnits % 33 ≠ 32 →
      u = { s with mem := { s.mem with scrub := Assoc.set c (n + 1) s.mem.scrub } } →
      t = (if (n + 1) % rawUnits = 0 ∧ s.allPasses < u.allPasses then u.bump .memScrubPass else u) → t.blockAt c (n % rawUnits) = some b →
      exec (.patrolScrub c l) s = .next ((t.upset b l).scrubBlock b)) ∧
  (∀ (c n : Nat) (l : List (Nat × BitVec 16)) (u t : State) (s : State), s.memRuns = true → s.hasChannel c = true →
      s.rdf .memCtl 0 8 ≠ 0 → s.mem.wiping = none → (s.clk.active = false ∨ s.turnIn c s.scrubBeats = true) →
      n = Assoc.get 0 c s.mem.scrub → n % rawUnits % 33 = 32 →
      u = { s with mem := { s.mem with scrub := Assoc.set c (n + 1) s.mem.scrub } } →
      t = (if (n + 1) % rawUnits = 0 ∧ s.allPasses < u.allPasses then u.bump .memScrubPass else u) →
      exec (.patrolScrub c l) s = .next ((List.range 32).foldl (fun t j => match t.blockAt c (n % rawUnits - 32 + j) with
          | some b => (t.upset b ((l.filter fun e => e.1 / 4 == j).map fun e => (128 + e.1 % 4, e.2))).scrubBlock b
          | none => t) t))

/-- EVENT_RING_ENTRY_WRITE writes an entry to its place; HEALTH_SAMPLE moves score and flags and raises their events
(17_faults_recovery.md R371, 17_faults_recovery.md R372, 23_counters_events.md R448). Choices of the model that it
rests on: log 52, 61. -/
def Obligations.EventsAndHealthAreWritten : Prop :=
  (∀ (e : List Byte) (l : List (List Byte)) (a : Nat) (t : State) (s : State), s.evt.toRing = e :: l → s.attached = true →
    (s.rd .evtRing).getLsbD 41 = true → a = fld (s.rd .evtRing) 0 36 * 4096 + 64 * (leAt e 0 8 % 2 ^ fld (s.rd .evtRing) 36 5) →
    t = (State.busWrite { s with evt := { s.evt with toRing := l } } (a + 8) (e.drop 8)).busWrite a (e.take 8) →
      exec (.eventRingEntryWrite) s = .next (if (s.rd .evtRing).getLsbD 48 = true ∧ fld (s.rd .evtRing) 49 2 ≤ byteAt e 18 then t.interrupt (fld (s.rd .evtRing) 42 6) else t)) ∧
  (∀ (n x b : Nat) (m : Measure) (y : Health) (w f : Bool) (t : State) (s : State), s.firmware = true → n < 256 →
      s.rdf .telHealthCfg 0 10 ≠ 0 → s.healthAbsent n = false → s.healthUnused n = false → s.sample n m = some (x, b) →
      y.score = (((s.healthOf n).score : Int) + ((x : Int) - (s.healthOf n).score) / 2 ^ s.rdf .telHealthCfg 10 4).toNat →
      w = (if (s.healthOf n).warn = true then decide (y.score < s.rdf .telHealthCfg 14 10 + s.rdf .telHealthCfg 34 10) else decide (y.score < s.rdf .telHealthCfg 14 10)) → f = (if (s.healthOf n).fault = true then decide (y.score < s.rdf .telHealthCfg 24 10 + s.rdf .telHealthCfg 34 10) else decide (y.score < s.rdf .telHealthCfg 24 10)) → y.warn = w → y.fault = f → y.last = x → y.base = b → y.present = true → t = (if w = true ∧ (s.healthOf n).warn = false then State.raise { s with health := Assoc.set n y s.health } evWearWarn 0 n else { s with health := Assoc.set n y s.health }) →
      exec (.healthSample n m) s = .next (if f = true ∧ (s.healthOf n).fault = false then t.raise evWearFault 0 n else t))

/-- Completing a request with an error changes no plan, ledger entry, memory byte, port, clock, key or health score
(18_steward_interface.md R385). -/
def Obligations.ARefusedRequestTakesNoEffect : Prop :=
  ∀ (s t : State) (rq : Req) (st d : Nat) (l : List Nat), t = s.fail rq st d ∨ t = s.refuseAt rq st l →
    t.pl = s.pl ∧ t.led = s.led ∧ (t.mem.ram = s.mem.ram ∧ t.mem.work = s.mem.work ∧ t.mem.cells = s.mem.cells) ∧
    t.ports = s.ports ∧ t.twin = s.twin ∧ t.clk = s.clk ∧ t.sec = s.sec ∧ t.locked = s.locked ∧ t.health = s.health ∧
    t.pending = s.pending

/-- RNE rounds to a nearest grid point with ties to even, RTZ to the one below, and a value on the grid stays
(02_number_formats.md R42). -/
def Obligations.RoundingGoesToTheGridAsItsModeSays : Prop :=
  ∀ (m : Nat) (e u : Int) (rnd k : Nat),
    (u ≤ e → roundAt m e u rnd k = m * 2 ^ (e - u).toNat) ∧
    (e < u → ∀ d : Nat, d = 2 ^ (u - e).toNat →
      (2 * m ≤ 2 * (roundAt m e u 0 k * d) + d ∧ 2 * (roundAt m e u 0 k * d) ≤ 2 * m + d) ∧
      (2 * (m % d) = d → roundAt m e u 0 k % 2 = 0) ∧
      (roundAt m e u 1 k * d ≤ m ∧ m < (roundAt m e u 1 k + 1) * d) ∧
      (roundAt m e u 2 k = m / d ∨ roundAt m e u 2 k = m / d + 1) ∧
      (m % d = 0 → roundAt m e u 2 k = m / d))

/-- No conversion to T2 writes the reserved code 0b10 (02_number_formats.md R37, 02_number_formats.md R45). -/
def Obligations.TernaryCodeTwoIsNeverWritten : Prop :=
  ∀ (sat ceil : Bool) (rnd : Nat) (us : List Nat) (vs : List Val) (c : Nat),
    c ∈ (convBlock 0x0C sat ceil rnd us vs).2.1 → c = 0 ∨ c = 1 ∨ c = 3
end

