-- ==== Sys2Proof/Laws/State.lean ====
section
/-!
SUPPORT. Laws/State.lean: tables read after they are written, and registers, counters, ports, rings and slots through them.
-/
namespace Sys2Proof

/-! ### Tables -/

@[simp] theorem Assoc.find_nil {κ α : Type} [DecidableEq κ] (k : κ) : Assoc.find k ([] : List (κ × α)) = none := (rfl)

@[simp] theorem Assoc.find_set_self {κ α : Type} [DecidableEq κ] (k : κ) (v : α) (l : List (κ × α)) :
    Assoc.find k (Assoc.set k v l) = some v := by
  induction l with
  | nil => simp [Assoc.set, Assoc.find]
  | cons e t ih =>
    obtain ⟨a, w⟩ := e
    by_cases h : a = k
    · simp [Assoc.set, Assoc.find, h]
    · simp [Assoc.set, Assoc.find, h, ih]

theorem Assoc.find_set_ne {κ α : Type} [DecidableEq κ] {j k : κ} (h : j ≠ k) (v : α) (l : List (κ × α)) :
    Assoc.find j (Assoc.set k v l) = Assoc.find j l := by
  induction l with
  | nil => simp [Assoc.set, Assoc.find, h.symm]
  | cons e t ih =>
    obtain ⟨a, w⟩ := e
    by_cases hk : a = k
    · subst hk
      simp [Assoc.set, Assoc.find, h.symm]
    · by_cases hj : a = j
      · subst hj
        simp [Assoc.set, Assoc.find, hk]
      · simp [Assoc.set, Assoc.find, hk, hj, ih]

@[simp] theorem Assoc.find_del_self {κ α : Type} [DecidableEq κ] (k : κ) (l : List (κ × α)) :
    Assoc.find k (Assoc.del k l) = none := by
  induction l with
  | nil => rfl
  | cons e t ih =>
    obtain ⟨a, w⟩ := e
    unfold Assoc.del at ih ⊢
    simp only [ne_eq, decide_not] at ih
    by_cases h : a = k
    · simp [h, ih]
    · simp [h, Assoc.find, ih]

theorem Assoc.find_del_ne {κ α : Type} [DecidableEq κ] {j k : κ} (h : j ≠ k) (l : List (κ × α)) :
    Assoc.find j (Assoc.del k l) = Assoc.find j l := by
  induction l with
  | nil => rfl
  | cons e t ih =>
    obtain ⟨a, w⟩ := e
    unfold Assoc.del at ih ⊢
    simp only [ne_eq, decide_not] at ih
    by_cases hk : a = k
    · subst hk
      simp [Assoc.find, h.symm, ih]
    · by_cases hj : a = j
      · subst hj
        simp [hk, Assoc.find]
      · simp [hk, hj, Assoc.find, ih]

@[simp] theorem Assoc.get_nil {κ α : Type} [DecidableEq κ] (d : α) (k : κ) : Assoc.get d k [] = d := (rfl)

@[simp] theorem Assoc.get_set_self {κ α : Type} [DecidableEq κ] (d : α) (k : κ) (v : α) (l : List (κ × α)) :
    Assoc.get d k (Assoc.set k v l) = v := by simp [Assoc.get]

theorem Assoc.get_set_ne {κ α : Type} [DecidableEq κ] (d : α) {j k : κ} (h : j ≠ k) (v : α) (l : List (κ × α)) :
    Assoc.get d j (Assoc.set k v l) = Assoc.get d j l := by simp [Assoc.get, Assoc.find_set_ne h]

@[simp] theorem Assoc.get_del_self {κ α : Type} [DecidableEq κ] (d : α) (k : κ) (l : List (κ × α)) :
    Assoc.get d k (Assoc.del k l) = d := by simp [Assoc.get]

theorem Assoc.get_del_ne {κ α : Type} [DecidableEq κ] (d : α) {j k : κ} (h : j ≠ k) (l : List (κ × α)) :
    Assoc.get d j (Assoc.del k l) = Assoc.get d j l := by simp [Assoc.get, Assoc.find_del_ne h]

end Sys2Proof

namespace Sys2Proof.Machine

open Sys2Proof

/-! ### Registers and counters -/

@[simp] theorem State.rd_wr_self (s : State) (r : Reg) (v : Word) : (s.wr r v).rd r = v := by
  unfold State.rd State.wr
  split <;> simp_all

theorem State.rd_wr_ne (s : State) {q r : Reg} (h : q ≠ r) (v : Word) : (s.wr r v).rd q = s.rd q := by
  unfold State.rd State.wr
  split
  · exact Assoc.get_del_ne _ h _
  · exact Assoc.get_set_ne _ h _ _

@[simp] theorem State.ctr_setCtr_self (s : State) (c : Ctr) (v : Nat) : (s.setCtr c v).ctr c = v := by
  unfold State.ctr State.setCtr
  split <;> simp_all

theorem State.ctr_setCtr_ne (s : State) {c d : Ctr} (h : d ≠ c) (v : Nat) : (s.setCtr c v).ctr d = s.ctr d := by
  unfold State.ctr State.setCtr
  split
  · exact Assoc.get_del_ne _ h _
  · exact Assoc.get_set_ne _ h _ _

/-- A counter takes the sum while it fits, and stays at the largest value otherwise (00 R13). -/
theorem State.ctr_count_self (s : State) (c : Ctr) (n : Nat) (h : s.ctr c ≤ maxWord) :
    (s.count c n).ctr c = min (s.ctr c + n) maxWord := by
  unfold State.count
  by_cases hn : n = 0
  · simp only [hn, ↓reduceIte, Nat.add_zero]
    omega
  · simp only [hn, ↓reduceIte]
    split
    · rw [State.ctr_setCtr_self]; omega
    · split
      · rw [State.ctr_setCtr_self]; omega
      · show (s.setCtr c maxWord).ctr c = _
        rw [State.ctr_setCtr_self]; omega

theorem State.ctr_count_ne (s : State) {c d : Ctr} (h : d ≠ c) (n : Nat) : (s.count c n).ctr d = s.ctr d := by
  unfold State.count
  dsimp only
  split
  · rfl
  · split
    · exact s.ctr_setCtr_ne h _
    · split
      · exact s.ctr_setCtr_ne h _
      · show (s.setCtr c maxWord).ctr d = _
        exact s.ctr_setCtr_ne h _

/-! ### Ports, schedulers, parties, slots, rings -/

@[simp] theorem State.port_setPort_self (s : State) (p : Nat) (v : Port) : (s.setPort p v).port p = v := by
  simp [State.port, State.setPort]

theorem State.port_setPort_ne (s : State) {p q : Nat} (h : q ≠ p) (v : Port) : (s.setPort p v).port q = s.port q :=
  Assoc.get_set_ne _ h _ _

@[simp] theorem State.sched_modSched_self (s : State) (p : Nat) (f : Sched → Sched) : (s.modSched p f).sched p = f (s.sched p) := by
  simp [State.sched, State.modSched]

theorem State.sched_modSched_ne (s : State) {p q : Nat} (h : q ≠ p) (f : Sched → Sched) : (s.modSched p f).sched q = s.sched q :=
  Assoc.get_set_ne _ h _ _

@[simp] theorem State.party_modParty_self (s : State) (a : FA) (f : Party → Party) : (s.modParty a f).party a = f (s.party a) := by
  simp [State.party, State.modParty]

theorem State.party_modParty_ne (s : State) {a b : FA} (h : b ≠ a) (f : Party → Party) : (s.modParty a f).party b = s.party b :=
  Assoc.get_set_ne _ h _ _

@[simp] theorem State.slot_setSlot_self (s : State) (h : BitVec 20) (v : Slot) : (s.setSlot h v).slot h = v := by
  simp [State.slot, State.setSlot]

/-- A handle is its plan number and its slot (04 R74). -/
theorem mkHdl_planOf_slotOf (h : BitVec 20) : mkHdl (planOf h) (slotOf h) = h := by
  apply BitVec.eq_of_toNat_eq
  have := h.isLt
  simp only [mkHdl, planOf, slotOf, BitVec.toNat_ofNat]
  omega

theorem State.slot_setSlot_ne (s : State) {h g : BitVec 20} (ne : g ≠ h) (v : Slot) : (s.setSlot h v).slot g = s.slot g := by
  refine Assoc.get_set_ne _ ?_ _ _
  intro e
  apply ne
  rw [← mkHdl_planOf_slotOf g, ← mkHdl_planOf_slotOf h]
  simp only [Prod.mk.injEq] at e
  rw [e.1, e.2]

@[simp] theorem State.ring_setRing_self (s : State) (n : Nat) (r : Ring) : (s.setRing n r).ring n = r := by
  simp [State.ring, State.setRing]

theorem State.ring_setRing_ne (s : State) {m n : Nat} (h : m ≠ n) (r : Ring) : (s.setRing n r).ring m = s.ring m :=
  Assoc.get_set_ne _ h _ _

@[simp] theorem State.ring_emit (s : State) (o : Out) (n : Nat) : (s.emit o).ring n = s.ring n := (rfl)

@[simp] theorem State.rd_emit (s : State) (o : Out) (r : Reg) : (s.emit o).rd r = s.rd r := (rfl)

@[simp] theorem State.out_emit (s : State) (o : Out) : (s.emit o).out = s.out ++ [o] := (rfl)

@[simp] theorem State.out_sendControl (s : State) (p c : Nat) : (s.sendControl p c).out = s.out ++ [.controlFrame p (s.controlBytes p c)] := (rfl)

@[simp] theorem State.port_sendControl (s : State) (p c q : Nat) : (s.sendControl p c).port q = s.port q := (rfl)

/-! ### Stored symbols and read windows -/

@[simp] theorem State.flawsOf_rewrite_self (s : State) (b : Nat) : (s.rewrite b).flawsOf b = [] := by
  simp [State.rewrite, State.flawsOf]

theorem State.flawsOf_rewrite_ne (s : State) {a b : Nat} (h : a ≠ b) : (s.rewrite b).flawsOf a = s.flawsOf a := by
  simp [State.rewrite, State.flawsOf, Assoc.get_del_ne _ h]

/-- A block without flaws reads as it stands. -/
theorem State.readBlock_clean (s : State) (b : Nat) (h : s.flawsOf b = []) : s.readBlock b = s := by
  simp [State.readBlock, h]

/-- Where no block has a flaw, no access changes the state. -/
theorem State.fetchAll_clean (s : State) (h : s.mem.flaws = []) (r w : List (Nat × Nat)) : s.fetchAll r w = s := by
  have one : ∀ a n, s.fetchRange a n = s := fun a n => by simp [State.fetchRange, h]
  have two : ∀ a n, s.fetchEdges a n = s := fun a n => by simp [State.fetchEdges, h]
  have fr : ∀ l : List (Nat × Nat), l.foldl (fun t e => t.fetchRange e.1 e.2) s = s := fun l => by
    induction l with
    | nil => rfl
    | cons e l ih => rw [List.foldl_cons, one, ih]
  have fw : ∀ l : List (Nat × Nat), l.foldl (fun t e => t.fetchEdges e.1 e.2) s = s := fun l => by
    induction l with
    | nil => rfl
    | cons e l ih => rw [List.foldl_cons, two, ih]
  rw [State.fetchAll, fr, fw]

@[simp] theorem State.readWindow_setWindow_self (s : State) (k : Nat) (w : List (Nat × Nat × Cell × Nat)) :
    (s.setWindow k w).readWindow k = w := by
  by_cases h : w = [] <;> simp [State.setWindow, State.readWindow, h]

/-! ### Iterations -/

/-- The state that an iteration leaves. -/
def Iter.state : Iter → State
  | .done s _ => s
  | .formatError s => s
  | .trap s => s

@[simp] theorem Iter.state_done (s : State) (r : OpRun) : (Iter.done s r).state = s := (rfl)

@[simp] theorem Iter.state_fmt (s : State) : (Iter.formatError s).state = s := (rfl)

@[simp] theorem Iter.state_trap (s : State) : (Iter.trap s).state = s := (rfl)

/-- The state that an iteration of a whole-tensor op leaves, started in s. -/
def Whole.state (w : Whole) (s : State) : State :=
  match w with
  | .ran t => t
  | .stopped t => t
  | .denied => s

@[simp] theorem Whole.state_ran (s t : State) : (Whole.ran t).state s = t := (rfl)

@[simp] theorem Whole.state_stopped (s t : State) : (Whole.stopped t).state s = t := (rfl)

@[simp] theorem Whole.state_denied (s : State) : Whole.denied.state s = s := (rfl)

@[simp] theorem Whole.goodIf_state (w : Whole) (b : Bool) (s : State) : (w.goodIf b).state s = w.state s := by
  cases w <;> simp only [Whole.goodIf]
  split <;> rfl

end Sys2Proof.Machine
end

