-- ==== Sys2Proof/Laws/FrameDesk.lean ====
section
/-!
SUPPORT. Laws/FrameDesk.lean: what leaves the register file, the firmware complex and the steward attachment alone.
-/
set_option linter.unusedSimpArgs false

namespace Sys2Proof.Machine

open Sys2Proof

/-- The register file, the firmware complex, the steward attachment. -/
def State.desk (s : State) : List (Reg × Word) × Firmware × Uci := (s.regs, s.fw, s.uci)

@[simp] theorem desk_eta (s : State) : (s.regs, s.fw, s.uci) = s.desk := (rfl)

@[simp] theorem desk_mk (a b c d e f g h i j k l m n o p q r t u v w) :
    (State.mk a b c d e f g h i j k l m n o p q r t u v w).desk = (d, k, m) := (rfl)

theorem foldl_desk {α : Type} (f : State → α → State) (h : ∀ t a, (f t a).desk = t.desk) (l : List α) (b : State) :
    (l.foldl f b).desk = b.desk := by
  induction l generalizing b with
  | nil => rfl
  | cons a l ih => rw [List.foldl_cons, ih, h]

theorem foldlB_desk {α : Type} (f : Body → α → Body) (h : ∀ t a, (f t a).s.desk = t.s.desk) (l : List α) (b : Body) :
    (l.foldl f b).s.desk = b.s.desk := by
  induction l generalizing b with
  | nil => rfl
  | cons a l ih => rw [List.foldl_cons, ih, h]

theorem foldl1_desk {α β : Type} (f : State × β → α → State × β) (h : ∀ t a, (f t a).1.desk = t.1.desk) (l : List α) (b : State × β) :
    (l.foldl f b).1.desk = b.1.desk := by
  induction l generalizing b with
  | nil => rfl
  | cons a l ih => rw [List.foldl_cons, ih, h]

theorem foldl2_desk {α β : Type} (f : β × State → α → β × State) (h : ∀ t a, (f t a).2.desk = t.2.desk) (l : List α) (b : β × State) :
    (l.foldl f b).2.desk = b.2.desk := by
  induction l generalizing b with
  | nil => rfl
  | cons a l ih => rw [List.foldl_cons, ih, h]

@[simp] theorem State.tick_desk (s : State) : (State.tick s).desk = s.desk := by
  unfold State.tick
  repeat' first | with_reducible rfl | with_reducible assumption | intro _ | simp only [desk_mk, desk_eta, Iter.state_done, Iter.state_fmt, Iter.state_trap, Whole.state_ran, Whole.state_stopped, Whole.state_denied] | split | with_reducible refine (foldl_desk _ ?_ _ _).trans ?_

@[simp] theorem State.emit_desk (s : State) (x1 : _) : (State.emit s x1).desk = s.desk := by
  unfold State.emit
  repeat' first | with_reducible rfl | with_reducible assumption | intro _ | simp only [desk_mk, desk_eta, Iter.state_done, Iter.state_fmt, Iter.state_trap, Whole.state_ran, Whole.state_stopped, Whole.state_denied] | split | with_reducible refine (foldl_desk _ ?_ _ _).trans ?_

@[simp] theorem State.draw_desk (s : State) : (State.draw s).2.desk = s.desk := by
  unfold State.draw
  repeat' first | with_reducible rfl | with_reducible assumption | intro _ | simp only [desk_mk, desk_eta, Iter.state_done, Iter.state_fmt, Iter.state_trap, Whole.state_ran, Whole.state_stopped, Whole.state_denied] | split | with_reducible refine (foldl_desk _ ?_ _ _).trans ?_

@[simp] theorem State.setCtr_desk (s : State) (x1 : _) (x2 : _) : (State.setCtr s x1 x2).desk = s.desk := by
  unfold State.setCtr
  repeat' first | with_reducible rfl | with_reducible assumption | intro _ | simp only [desk_mk, desk_eta, Iter.state_done, Iter.state_fmt, Iter.state_trap, Whole.state_ran, Whole.state_stopped, Whole.state_denied] | split | with_reducible refine (foldl_desk _ ?_ _ _).trans ?_

@[simp] theorem State.count_desk (s : State) (x1 : _) (x2 : _) : (State.count s x1 x2).desk = s.desk := by
  unfold State.count
  repeat' first | with_reducible rfl | with_reducible assumption | intro _ | simp only [State.setCtr_desk, desk_mk, desk_eta, Iter.state_done, Iter.state_fmt, Iter.state_trap, Whole.state_ran, Whole.state_stopped, Whole.state_denied] | split | with_reducible refine (foldl_desk _ ?_ _ _).trans ?_

@[simp] theorem State.clearCtr_desk (s : State) (x1 : _) : (State.clearCtr s x1).desk = s.desk := by
  unfold State.clearCtr
  repeat' first | with_reducible rfl | with_reducible assumption | intro _ | simp only [State.setCtr_desk, desk_mk, desk_eta, Iter.state_done, Iter.state_fmt, Iter.state_trap, Whole.state_ran, Whole.state_stopped, Whole.state_denied] | split | with_reducible refine (foldl_desk _ ?_ _ _).trans ?_

@[simp] theorem State.clearCtrs_desk (s : State) (x1 : _) : (State.clearCtrs s x1).desk = s.desk := by
  unfold State.clearCtrs
  repeat' first | with_reducible rfl | with_reducible assumption | intro _ | simp only [desk_mk, desk_eta, Iter.state_done, Iter.state_fmt, Iter.state_trap, Whole.state_ran, Whole.state_stopped, Whole.state_denied] | split | with_reducible refine (foldl_desk _ ?_ _ _).trans ?_

@[simp] theorem State.push_desk (s : State) (x1 : _) (x2 : _) (x3 : _) (x4 : _) (x5 : _) : (State.push s x1 x2 x3 x4 x5).desk = s.desk := by
  unfold State.push
  repeat' first | with_reducible rfl | with_reducible assumption | intro _ | simp only [desk_mk, desk_eta, Iter.state_done, Iter.state_fmt, Iter.state_trap, Whole.state_ran, Whole.state_stopped, Whole.state_denied] | split | with_reducible refine (foldl_desk _ ?_ _ _).trans ?_

@[simp] theorem State.dropLost_desk (s : State) : (State.dropLost s).desk = s.desk := by
  unfold State.dropLost
  repeat' first | with_reducible rfl | with_reducible assumption | intro _ | simp only [State.count_desk, desk_mk, desk_eta, Iter.state_done, Iter.state_fmt, Iter.state_trap, Whole.state_ran, Whole.state_stopped, Whole.state_denied] | split | with_reducible refine (foldl_desk _ ?_ _ _).trans ?_

@[simp] theorem State.pushSat_desk (s : State) (x1 : _) : (State.pushSat s x1).desk = s.desk := by
  unfold State.pushSat
  repeat' first | with_reducible rfl | with_reducible assumption | intro _ | simp only [State.push_desk, desk_mk, desk_eta, Iter.state_done, Iter.state_fmt, Iter.state_trap, Whole.state_ran, Whole.state_stopped, Whole.state_denied] | split | with_reducible refine (foldl_desk _ ?_ _ _).trans ?_

@[simp] theorem State.bump_desk (s : State) (x1 : _) (x2 : _) : (State.bump s x1 x2).desk = s.desk := by
  unfold State.bump
  repeat' first | with_reducible rfl | with_reducible assumption | intro _ | simp only [State.count_desk, State.dropLost_desk, State.pushSat_desk, desk_mk, desk_eta, Iter.state_done, Iter.state_fmt, Iter.state_trap, Whole.state_ran, Whole.state_stopped, Whole.state_denied] | split | with_reducible refine (foldl_desk _ ?_ _ _).trans ?_

@[simp] theorem State.raise_desk (s : State) (x1 : _) (x2 : _) (x3 : _) : (State.raise s x1 x2 x3).desk = s.desk := by
  unfold State.raise
  repeat' first | with_reducible rfl | with_reducible assumption | intro _ | simp only [State.dropLost_desk, State.push_desk, State.pushSat_desk, desk_mk, desk_eta, Iter.state_done, Iter.state_fmt, Iter.state_trap, Whole.state_ran, Whole.state_stopped, Whole.state_denied] | split | with_reducible refine (foldl_desk _ ?_ _ _).trans ?_

@[simp] theorem State.setPort_desk (s : State) (x1 : _) (x2 : _) : (State.setPort s x1 x2).desk = s.desk := by
  unfold State.setPort
  repeat' first | with_reducible rfl | with_reducible assumption | intro _ | simp only [desk_mk, desk_eta, Iter.state_done, Iter.state_fmt, Iter.state_trap, Whole.state_ran, Whole.state_stopped, Whole.state_denied] | split | with_reducible refine (foldl_desk _ ?_ _ _).trans ?_

@[simp] theorem State.modPort_desk (s : State) (x1 : _) (x2 : _) : (State.modPort s x1 x2).desk = s.desk := by
  unfold State.modPort
  repeat' first | with_reducible rfl | with_reducible assumption | intro _ | simp only [State.setPort_desk, desk_mk, desk_eta, Iter.state_done, Iter.state_fmt, Iter.state_trap, Whole.state_ran, Whole.state_stopped, Whole.state_denied] | split | with_reducible refine (foldl_desk _ ?_ _ _).trans ?_

@[simp] theorem State.modSched_desk (s : State) (x1 : _) (x2 : _) : (State.modSched s x1 x2).desk = s.desk := by
  unfold State.modSched
  repeat' first | with_reducible rfl | with_reducible assumption | intro _ | simp only [desk_mk, desk_eta, Iter.state_done, Iter.state_fmt, Iter.state_trap, Whole.state_ran, Whole.state_stopped, Whole.state_denied] | split | with_reducible refine (foldl_desk _ ?_ _ _).trans ?_

@[simp] theorem State.modParty_desk (s : State) (x1 : _) (x2 : _) : (State.modParty s x1 x2).desk = s.desk := by
  unfold State.modParty
  repeat' first | with_reducible rfl | with_reducible assumption | intro _ | simp only [desk_mk, desk_eta, Iter.state_done, Iter.state_fmt, Iter.state_trap, Whole.state_ran, Whole.state_stopped, Whole.state_denied] | split | with_reducible refine (foldl_desk _ ?_ _ _).trans ?_

@[simp] theorem State.setSlot_desk (s : State) (x1 : _) (x2 : _) : (State.setSlot s x1 x2).desk = s.desk := by
  unfold State.setSlot
  repeat' first | with_reducible rfl | with_reducible assumption | intro _ | simp only [desk_mk, desk_eta, Iter.state_done, Iter.state_fmt, Iter.state_trap, Whole.state_ran, Whole.state_stopped, Whole.state_denied] | split | with_reducible refine (foldl_desk _ ?_ _ _).trans ?_

@[simp] theorem State.modSlot_desk (s : State) (x1 : _) (x2 : _) : (State.modSlot s x1 x2).desk = s.desk := by
  unfold State.modSlot
  repeat' first | with_reducible rfl | with_reducible assumption | intro _ | simp only [State.setSlot_desk, desk_mk, desk_eta, Iter.state_done, Iter.state_fmt, Iter.state_trap, Whole.state_ran, Whole.state_stopped, Whole.state_denied] | split | with_reducible refine (foldl_desk _ ?_ _ _).trans ?_

@[simp] theorem State.rebuildRoutes_desk (s : State) : (State.rebuildRoutes s).desk = s.desk := by
  unfold State.rebuildRoutes
  repeat' first | with_reducible rfl | with_reducible assumption | intro _ | simp only [State.raise_desk, desk_mk, desk_eta, Iter.state_done, Iter.state_fmt, Iter.state_trap, Whole.state_ran, Whole.state_stopped, Whole.state_denied] | split | with_reducible refine (foldl_desk _ ?_ _ _).trans ?_

@[simp] theorem State.rebuildGroups_desk (s : State) : (State.rebuildGroups s).desk = s.desk := by
  unfold State.rebuildGroups
  repeat' first | with_reducible rfl | with_reducible assumption | intro _ | simp only [desk_mk, desk_eta, Iter.state_done, Iter.state_fmt, Iter.state_trap, Whole.state_ran, Whole.state_stopped, Whole.state_denied] | split | with_reducible refine (foldl_desk _ ?_ _ _).trans ?_

@[simp] theorem State.bookRead_desk (s : State) (x1 : _) (x2 : _) : (State.bookRead s x1 x2).2.desk = s.desk := by
  unfold State.bookRead
  repeat' first | with_reducible rfl | with_reducible assumption | intro _ | simp only [desk_mk, desk_eta, Iter.state_done, Iter.state_fmt, Iter.state_trap, Whole.state_ran, Whole.state_stopped, Whole.state_denied] | split | with_reducible refine (foldl_desk _ ?_ _ _).trans ?_

@[simp] theorem State.setQueue_desk (s : State) (x1 : _) (x2 : _) : (State.setQueue s x1 x2).desk = s.desk := by
  unfold State.setQueue
  repeat' first | with_reducible rfl | with_reducible assumption | intro _ | simp only [desk_mk, desk_eta, Iter.state_done, Iter.state_fmt, Iter.state_trap, Whole.state_ran, Whole.state_stopped, Whole.state_denied] | split | with_reducible refine (foldl_desk _ ?_ _ _).trans ?_

@[simp] theorem State.setWindow_desk (s : State) (x1 : _) (x2 : _) : (State.setWindow s x1 x2).desk = s.desk := by
  unfold State.setWindow
  repeat' first | with_reducible rfl | with_reducible assumption | intro _ | simp only [desk_mk, desk_eta, Iter.state_done, Iter.state_fmt, Iter.state_trap, Whole.state_ran, Whole.state_stopped, Whole.state_denied] | split | with_reducible refine (foldl_desk _ ?_ _ _).trans ?_

@[simp] theorem State.modCellSlot_desk (s : State) (x1 : _) (x2 : _) : (State.modCellSlot s x1 x2).desk = s.desk := by
  unfold State.modCellSlot
  repeat' first | with_reducible rfl | with_reducible assumption | intro _ | simp only [desk_mk, desk_eta, Iter.state_done, Iter.state_fmt, Iter.state_trap, Whole.state_ran, Whole.state_stopped, Whole.state_denied] | split | with_reducible refine (foldl_desk _ ?_ _ _).trans ?_

@[simp] theorem State.tookCopy_desk (s : State) (x1 : _) (x2 : _) : (State.tookCopy s x1 x2).desk = s.desk := by
  unfold State.tookCopy
  repeat' first | with_reducible rfl | with_reducible assumption | intro _ | simp only [State.modCellSlot_desk, desk_mk, desk_eta, Iter.state_done, Iter.state_fmt, Iter.state_trap, Whole.state_ran, Whole.state_stopped, Whole.state_denied] | split | with_reducible refine (foldl_desk _ ?_ _ _).trans ?_

@[simp] theorem State.select_desk (s : State) (x1 : _) (x2 : _) (x3 : _) (x4 : _) : (State.select s x1 x2 x3 x4).desk = s.desk := by
  unfold State.select
  repeat' first | with_reducible rfl | with_reducible assumption | intro _ | simp only [State.bookRead_desk, State.setWindow_desk, desk_mk, desk_eta, Iter.state_done, Iter.state_fmt, Iter.state_trap, Whole.state_ran, Whole.state_stopped, Whole.state_denied] | split | with_reducible refine (foldl_desk _ ?_ _ _).trans ?_

@[simp] theorem State.fillWindow_desk (s : State) (x1 : _) : (State.fillWindow s x1).desk = s.desk := by
  unfold State.fillWindow
  repeat' first | with_reducible rfl | with_reducible assumption | intro _ | simp only [State.select_desk, State.tookCopy_desk, desk_mk, desk_eta, Iter.state_done, Iter.state_fmt, Iter.state_trap, Whole.state_ran, Whole.state_stopped, Whole.state_denied] | split | with_reducible refine (foldl_desk _ ?_ _ _).trans ?_ | with_reducible refine (foldlB_desk _ ?_ _ _).trans ?_ | with_reducible refine (foldl1_desk _ ?_ _ _).trans ?_ | with_reducible refine (foldl2_desk _ ?_ _ _).trans ?_

@[simp] theorem State.enqueue_desk (s : State) (x1 : _) (x2 : _) : (State.enqueue s x1 x2).desk = s.desk := by
  unfold State.enqueue
  repeat' first | with_reducible rfl | with_reducible assumption | intro _ | simp only [State.fillWindow_desk, State.modSched_desk, State.setQueue_desk, desk_mk, desk_eta, Iter.state_done, Iter.state_fmt, Iter.state_trap, Whole.state_ran, Whole.state_stopped, Whole.state_denied] | split | with_reducible refine (foldl_desk _ ?_ _ _).trans ?_

@[simp] theorem State.returnCredit_desk (s : State) (x1 : _) (x2 : _) : (State.returnCredit s x1 x2).desk = s.desk := by
  unfold State.returnCredit
  repeat' first | with_reducible rfl | with_reducible assumption | intro _ | simp only [State.modPort_desk, desk_mk, desk_eta, Iter.state_done, Iter.state_fmt, Iter.state_trap, Whole.state_ran, Whole.state_stopped, Whole.state_denied] | split | with_reducible refine (foldl_desk _ ?_ _ _).trans ?_

@[simp] theorem State.freeIfDone_desk (s : State) (x1 : _) : (State.freeIfDone s x1).desk = s.desk := by
  unfold State.freeIfDone
  repeat' first | with_reducible rfl | with_reducible assumption | intro _ | simp only [desk_mk, desk_eta, Iter.state_done, Iter.state_fmt, Iter.state_trap, Whole.state_ran, Whole.state_stopped, Whole.state_denied] | split | with_reducible refine (foldl_desk _ ?_ _ _).trans ?_

@[simp] theorem State.dropRef_desk (s : State) (x1 : _) : (State.dropRef s x1).desk = s.desk := by
  unfold State.dropRef
  repeat' first | with_reducible rfl | with_reducible assumption | intro _ | simp only [State.freeIfDone_desk, State.modCellSlot_desk, State.returnCredit_desk, desk_mk, desk_eta, Iter.state_done, Iter.state_fmt, Iter.state_trap, Whole.state_ran, Whole.state_stopped, Whole.state_denied] | split | with_reducible refine (foldl_desk _ ?_ _ _).trans ?_

@[simp] theorem State.dropRetention_desk (s : State) (x1 : _) : (State.dropRetention s x1).desk = s.desk := by
  unfold State.dropRetention
  repeat' first | with_reducible rfl | with_reducible assumption | intro _ | simp only [State.freeIfDone_desk, State.modCellSlot_desk, desk_mk, desk_eta, Iter.state_done, Iter.state_fmt, Iter.state_trap, Whole.state_ran, Whole.state_stopped, Whole.state_denied] | split | with_reducible refine (foldl_desk _ ?_ _ _).trans ?_

@[simp] theorem State.spillOne_desk (s : State) (x1 : _) : (State.spillOne s x1).desk = s.desk := by
  unfold State.spillOne
  repeat' first | with_reducible rfl | with_reducible assumption | intro _ | simp only [State.bump_desk, desk_mk, desk_eta, Iter.state_done, Iter.state_fmt, Iter.state_trap, Whole.state_ran, Whole.state_stopped, Whole.state_denied] | split | with_reducible refine (foldl_desk _ ?_ _ _).trans ?_

@[simp] theorem State.spillAll_desk (s : State) (x0 : _) : (State.spillAll x0 s).desk = s.desk := by
  induction x0 generalizing s with
  | zero => unfold State.spillAll; repeat' first | with_reducible rfl | with_reducible assumption | intro _ | simp only [State.spillOne_desk, desk_mk, desk_eta, Iter.state_done, Iter.state_fmt, Iter.state_trap, Whole.state_ran, Whole.state_stopped, Whole.state_denied] | split | with_reducible refine (foldl_desk _ ?_ _ _).trans ?_
  | succ n ih =>
    unfold State.spillAll
    repeat' first | with_reducible rfl | with_reducible assumption | intro _ | simp only [ih, State.spillOne_desk, desk_mk, desk_eta, Iter.state_done, Iter.state_fmt, Iter.state_trap, Whole.state_ran, Whole.state_stopped, Whole.state_denied] | split | with_reducible refine (foldl_desk _ ?_ _ _).trans ?_

@[simp] theorem State.spill_desk (s : State) : (State.spill s).desk = s.desk := by
  unfold State.spill
  repeat' first | with_reducible rfl | with_reducible assumption | intro _ | simp only [State.spillAll_desk, desk_mk, desk_eta, Iter.state_done, Iter.state_fmt, Iter.state_trap, Whole.state_ran, Whole.state_stopped, Whole.state_denied] | split | with_reducible refine (foldl_desk _ ?_ _ _).trans ?_

@[simp] theorem State.countEgress_desk (s : State) (x1 : _) (x2 : _) (x3 : _) : (State.countEgress s x1 x2 x3).desk = s.desk := by
  unfold State.countEgress
  repeat' first | with_reducible rfl | with_reducible assumption | intro _ | simp only [State.bump_desk, desk_mk, desk_eta, Iter.state_done, Iter.state_fmt, Iter.state_trap, Whole.state_ran, Whole.state_stopped, Whole.state_denied] | split | with_reducible refine (foldl_desk _ ?_ _ _).trans ?_

@[simp] theorem State.store_desk (s : State) (x1 : _) (x2 : _) (x3 : _) (x4 : _) (x5 : _) (x6 : _) (x7 : _) : (State.store s x1 x2 x3 x4 x5 x6 x7).2.desk = s.desk := by
  unfold State.store
  repeat' first | with_reducible rfl | with_reducible assumption | intro _ | simp only [State.enqueue_desk, desk_mk, desk_eta, Iter.state_done, Iter.state_fmt, Iter.state_trap, Whole.state_ran, Whole.state_stopped, Whole.state_denied] | split | with_reducible refine (foldl_desk _ ?_ _ _).trans ?_ | with_reducible refine (foldlB_desk _ ?_ _ _).trans ?_ | with_reducible refine (foldl1_desk _ ?_ _ _).trans ?_ | with_reducible refine (foldl2_desk _ ?_ _ _).trans ?_

@[simp] theorem State.countWay_desk (s : State) (x1 : _) (x2 : _) (x3 : _) : (State.countWay s x1 x2 x3).desk = s.desk := by
  unfold State.countWay
  repeat' first | with_reducible rfl | with_reducible assumption | intro _ | simp only [State.bump_desk, State.countEgress_desk, desk_mk, desk_eta, Iter.state_done, Iter.state_fmt, Iter.state_trap, Whole.state_ran, Whole.state_stopped, Whole.state_denied] | split | with_reducible refine (foldl_desk _ ?_ _ _).trans ?_

@[simp] theorem State.block_desk (s : State) (x1 : _) (x2 : _) : (State.block s x1 x2).desk = s.desk := by
  unfold State.block
  repeat' first | with_reducible rfl | with_reducible assumption | intro _ | simp only [desk_mk, desk_eta, Iter.state_done, Iter.state_fmt, Iter.state_trap, Whole.state_ran, Whole.state_stopped, Whole.state_denied] | split | with_reducible refine (foldl_desk _ ?_ _ _).trans ?_

@[simp] theorem State.storeOutput_desk (s : State) (x1 : _) (x2 : _) (x3 : _) (x4 : _) (x5 : _) : (State.storeOutput s x1 x2 x3 x4 x5).2.desk = s.desk := by
  unfold State.storeOutput
  repeat' first | with_reducible rfl | with_reducible assumption | intro _ | simp only [State.block_desk, State.bump_desk, State.store_desk, desk_mk, desk_eta, Iter.state_done, Iter.state_fmt, Iter.state_trap, Whole.state_ran, Whole.state_stopped, Whole.state_denied] | split | with_reducible refine (foldl_desk _ ?_ _ _).trans ?_

@[simp] theorem State.output_desk (s : State) (x1 : _) (x2 : _) : (State.output s x1 x2).2.desk = s.desk := by
  unfold State.output
  repeat' first | with_reducible rfl | with_reducible assumption | intro _ | simp only [State.block_desk, State.bump_desk, State.countWay_desk, State.storeOutput_desk, desk_mk, desk_eta, Iter.state_done, Iter.state_fmt, Iter.state_trap, Whole.state_ran, Whole.state_stopped, Whole.state_denied] | split | with_reducible refine (foldl_desk _ ?_ _ _).trans ?_

@[simp] theorem State.sendCtrl_desk (s : State) (x1 : _) (x2 : _) (x3 : _) (x4 : _) (x5 : _) : (State.sendCtrl s x1 x2 x3 x4 x5).desk = s.desk := by
  unfold State.sendCtrl
  repeat' first | with_reducible rfl | with_reducible assumption | intro _ | simp only [State.output_desk, State.spill_desk, desk_mk, desk_eta, Iter.state_done, Iter.state_fmt, Iter.state_trap, Whole.state_ran, Whole.state_stopped, Whole.state_denied] | split | with_reducible refine (foldl_desk _ ?_ _ _).trans ?_

@[simp] theorem State.sendOnPort_desk (s : State) (x1 : _) (x2 : _) (x3 : _) : (State.sendOnPort s x1 x2 x3).desk = s.desk := by
  unfold State.sendOnPort
  repeat' first | with_reducible rfl | with_reducible assumption | intro _ | simp only [State.block_desk, State.spill_desk, State.storeOutput_desk, desk_mk, desk_eta, Iter.state_done, Iter.state_fmt, Iter.state_trap, Whole.state_ran, Whole.state_stopped, Whole.state_denied] | split | with_reducible refine (foldl_desk _ ?_ _ _).trans ?_

@[simp] theorem State.relayCell_desk (s : State) (x1 : _) (x2 : _) : (State.relayCell s x1 x2).desk = s.desk := by
  unfold State.relayCell
  repeat' first | with_reducible rfl | with_reducible assumption | intro _ | simp only [State.block_desk, State.countWay_desk, State.enqueue_desk, State.modCellSlot_desk, State.output_desk, State.spill_desk, State.storeOutput_desk, desk_mk, desk_eta, Iter.state_done, Iter.state_fmt, Iter.state_trap, Whole.state_ran, Whole.state_stopped, Whole.state_denied] | split | with_reducible refine (foldl_desk _ ?_ _ _).trans ?_ | with_reducible refine (foldlB_desk _ ?_ _ _).trans ?_ | with_reducible refine (foldl1_desk _ ?_ _ _).trans ?_ | with_reducible refine (foldl2_desk _ ?_ _ _).trans ?_

@[simp] theorem State.relayMessage_desk (s : State) (x1 : _) (x2 : _) (x3 : _) (x4 : _) (x5 : _) (x6 : _) (x7 : _) : (State.relayMessage s x1 x2 x3 x4 x5 x6 x7).desk = s.desk := by
  unfold State.relayMessage
  repeat' first | with_reducible rfl | with_reducible assumption | intro _ | simp only [State.relayCell_desk, State.setSlot_desk, desk_mk, desk_eta, Iter.state_done, Iter.state_fmt, Iter.state_trap, Whole.state_ran, Whole.state_stopped, Whole.state_denied] | split | with_reducible refine (foldl_desk _ ?_ _ _).trans ?_ | with_reducible refine (foldlB_desk _ ?_ _ _).trans ?_ | with_reducible refine (foldl1_desk _ ?_ _ _).trans ?_ | with_reducible refine (foldl2_desk _ ?_ _ _).trans ?_

@[simp] theorem State.setTx_desk (s : State) (x1 : _) (x2 : _) : (State.setTx s x1 x2).desk = s.desk := by
  unfold State.setTx
  repeat' first | with_reducible rfl | with_reducible assumption | intro _ | simp only [desk_mk, desk_eta, Iter.state_done, Iter.state_fmt, Iter.state_trap, Whole.state_ran, Whole.state_stopped, Whole.state_denied] | split | with_reducible refine (foldl_desk _ ?_ _ _).trans ?_

@[simp] theorem State.transmit_desk (s : State) (x1 : _) (x2 : _) (x3 : _) : (State.transmit s x1 x2 x3).desk = s.desk := by
  unfold State.transmit
  repeat' first | with_reducible rfl | with_reducible assumption | intro _ | simp only [State.output_desk, State.setTx_desk, State.spill_desk, desk_mk, desk_eta, Iter.state_done, Iter.state_fmt, Iter.state_trap, Whole.state_ran, Whole.state_stopped, Whole.state_denied] | split | with_reducible refine (foldl_desk _ ?_ _ _).trans ?_

@[simp] theorem State.pumpAux_desk (s : State) (x0 : _) (x1 : _) : (State.pumpAux x0 x1 s).desk = s.desk := by
  induction x1 generalizing s with
  | zero => unfold State.pumpAux; repeat' first | with_reducible rfl | with_reducible assumption | intro _ | simp only [State.setTx_desk, State.transmit_desk, desk_mk, desk_eta, Iter.state_done, Iter.state_fmt, Iter.state_trap, Whole.state_ran, Whole.state_stopped, Whole.state_denied] | split | with_reducible refine (foldl_desk _ ?_ _ _).trans ?_
  | succ n ih =>
    unfold State.pumpAux
    repeat' first | with_reducible rfl | with_reducible assumption | intro _ | simp only [ih, State.setTx_desk, State.transmit_desk, desk_mk, desk_eta, Iter.state_done, Iter.state_fmt, Iter.state_trap, Whole.state_ran, Whole.state_stopped, Whole.state_denied] | split | with_reducible refine (foldl_desk _ ?_ _ _).trans ?_

@[simp] theorem State.pump_desk (s : State) (x1 : _) : (State.pump s x1).desk = s.desk := by
  unfold State.pump
  repeat' first | with_reducible rfl | with_reducible assumption | intro _ | simp only [State.pumpAux_desk, desk_mk, desk_eta, Iter.state_done, Iter.state_fmt, Iter.state_trap, Whole.state_ran, Whole.state_stopped, Whole.state_denied] | split | with_reducible refine (foldl_desk _ ?_ _ _).trans ?_

@[simp] theorem State.sendMessage_desk (s : State) (x1 : _) (x2 : _) (x3 : _) (x4 : _) (x5 : _) (x6 : _) (x7 : _) (x8 : _) : (State.sendMessage s x1 x2 x3 x4 x5 x6 x7 x8).desk = s.desk := by
  unfold State.sendMessage
  repeat' first | with_reducible rfl | with_reducible assumption | intro _ | simp only [State.pump_desk, State.setTx_desk, desk_mk, desk_eta, Iter.state_done, Iter.state_fmt, Iter.state_trap, Whole.state_ran, Whole.state_stopped, Whole.state_denied] | split | with_reducible refine (foldl_desk _ ?_ _ _).trans ?_

@[simp] theorem State.release_desk (s : State) (x1 : _) (x2 : _) : (State.release s x1 x2).desk = s.desk := by
  unfold State.release
  repeat' first | with_reducible rfl | with_reducible assumption | intro _ | simp only [State.dropRetention_desk, State.setTx_desk, desk_mk, desk_eta, Iter.state_done, Iter.state_fmt, Iter.state_trap, Whole.state_ran, Whole.state_stopped, Whole.state_denied] | split | with_reducible refine (foldl_desk _ ?_ _ _).trans ?_ | with_reducible refine (foldlB_desk _ ?_ _ _).trans ?_ | with_reducible refine (foldl1_desk _ ?_ _ _).trans ?_ | with_reducible refine (foldl2_desk _ ?_ _ _).trans ?_

@[simp] theorem State.unretain_desk (s : State) (x1 : _) : (State.unretain s x1).desk = s.desk := by
  unfold State.unretain
  repeat' first | with_reducible rfl | with_reducible assumption | intro _ | simp only [desk_mk, desk_eta, Iter.state_done, Iter.state_fmt, Iter.state_trap, Whole.state_ran, Whole.state_stopped, Whole.state_denied] | split | with_reducible refine (foldl_desk _ ?_ _ _).trans ?_

@[simp] theorem State.releaseTx_desk (s : State) (x1 : _) : (State.releaseTx s x1).desk = s.desk := by
  unfold State.releaseTx
  repeat' first | with_reducible rfl | with_reducible assumption | intro _ | simp only [State.release_desk, State.unretain_desk, desk_mk, desk_eta, Iter.state_done, Iter.state_fmt, Iter.state_trap, Whole.state_ran, Whole.state_stopped, Whole.state_denied] | split | with_reducible refine (foldl_desk _ ?_ _ _).trans ?_

@[simp] theorem State.freshTx_desk (s : State) (x1 : _) : (State.freshTx s x1).desk = s.desk := by
  unfold State.freshTx
  repeat' first | with_reducible rfl | with_reducible assumption | intro _ | simp only [desk_mk, desk_eta, Iter.state_done, Iter.state_fmt, Iter.state_trap, Whole.state_ran, Whole.state_stopped, Whole.state_denied] | split | with_reducible refine (foldl_desk _ ?_ _ _).trans ?_

@[simp] theorem State.dropTx_desk (s : State) (x1 : _) : (State.dropTx s x1).desk = s.desk := by
  unfold State.dropTx
  repeat' first | with_reducible rfl | with_reducible assumption | intro _ | simp only [State.releaseTx_desk, desk_mk, desk_eta, Iter.state_done, Iter.state_fmt, Iter.state_trap, Whole.state_ran, Whole.state_stopped, Whole.state_denied] | split | with_reducible refine (foldl_desk _ ?_ _ _).trans ?_

@[simp] theorem State.releaseStreams_desk (s : State) (x1 : _) : (State.releaseStreams s x1).desk = s.desk := by
  unfold State.releaseStreams
  repeat' first | with_reducible rfl | with_reducible assumption | intro _ | simp only [State.pump_desk, State.releaseTx_desk, desk_mk, desk_eta, Iter.state_done, Iter.state_fmt, Iter.state_trap, Whole.state_ran, Whole.state_stopped, Whole.state_denied] | split | with_reducible refine (foldl_desk _ ?_ _ _).trans ?_ | with_reducible refine (foldlB_desk _ ?_ _ _).trans ?_ | with_reducible refine (foldl1_desk _ ?_ _ _).trans ?_ | with_reducible refine (foldl2_desk _ ?_ _ _).trans ?_

@[simp] theorem State.dropStreams_desk (s : State) (x1 : _) : (State.dropStreams s x1).desk = s.desk := by
  unfold State.dropStreams
  repeat' first | with_reducible rfl | with_reducible assumption | intro _ | simp only [State.dropTx_desk, desk_mk, desk_eta, Iter.state_done, Iter.state_fmt, Iter.state_trap, Whole.state_ran, Whole.state_stopped, Whole.state_denied] | split | with_reducible refine (foldl_desk _ ?_ _ _).trans ?_ | with_reducible refine (foldlB_desk _ ?_ _ _).trans ?_ | with_reducible refine (foldl1_desk _ ?_ _ _).trans ?_ | with_reducible refine (foldl2_desk _ ?_ _ _).trans ?_

@[simp] theorem State.closeStreams_desk (s : State) (x1 : _) (x2 : _) : (State.closeStreams s x1 x2).desk = s.desk := by
  unfold State.closeStreams
  repeat' first | with_reducible rfl | with_reducible assumption | intro _ | simp only [State.dropStreams_desk, State.output_desk, desk_mk, desk_eta, Iter.state_done, Iter.state_fmt, Iter.state_trap, Whole.state_ran, Whole.state_stopped, Whole.state_denied] | split | with_reducible refine (foldl_desk _ ?_ _ _).trans ?_ | with_reducible refine (foldlB_desk _ ?_ _ _).trans ?_ | with_reducible refine (foldl1_desk _ ?_ _ _).trans ?_ | with_reducible refine (foldl2_desk _ ?_ _ _).trans ?_

@[simp] theorem State.admitAux_desk (s : State) (x0 : _) : (State.admitAux x0 s).desk = s.desk := by
  induction x0 generalizing s with
  | zero => unfold State.admitAux; repeat' first | with_reducible rfl | with_reducible assumption | intro _ | simp only [State.output_desk, State.setTx_desk, desk_mk, desk_eta, Iter.state_done, Iter.state_fmt, Iter.state_trap, Whole.state_ran, Whole.state_stopped, Whole.state_denied] | split | with_reducible refine (foldl_desk _ ?_ _ _).trans ?_
  | succ n ih =>
    unfold State.admitAux
    repeat' first | with_reducible rfl | with_reducible assumption | intro _ | simp only [ih, State.output_desk, State.setTx_desk, desk_mk, desk_eta, Iter.state_done, Iter.state_fmt, Iter.state_trap, Whole.state_ran, Whole.state_stopped, Whole.state_denied] | split | with_reducible refine (foldl_desk _ ?_ _ _).trans ?_

@[simp] theorem State.admitBlocked_desk (s : State) : (State.admitBlocked s).desk = s.desk := by
  unfold State.admitBlocked
  repeat' first | with_reducible rfl | with_reducible assumption | intro _ | simp only [State.admitAux_desk, State.spill_desk, desk_mk, desk_eta, Iter.state_done, Iter.state_fmt, Iter.state_trap, Whole.state_ran, Whole.state_stopped, Whole.state_denied] | split | with_reducible refine (foldl_desk _ ?_ _ _).trans ?_

@[simp] theorem State.startQueues_desk (s : State) (x1 : _) (x2 : _) : (State.startQueues s x1 x2).desk = s.desk := by
  unfold State.startQueues
  repeat' first | with_reducible rfl | with_reducible assumption | intro _ | simp only [desk_mk, desk_eta, Iter.state_done, Iter.state_fmt, Iter.state_trap, Whole.state_ran, Whole.state_stopped, Whole.state_denied] | split | with_reducible refine (foldl_desk _ ?_ _ _).trans ?_

@[simp] theorem State.openSlot_desk (s : State) (x1 : _) (x2 : _) (x3 : _) (x4 : _) (x5 : _) : (State.openSlot s x1 x2 x3 x4 x5).desk = s.desk := by
  unfold State.openSlot
  repeat' first | with_reducible rfl | with_reducible assumption | intro _ | simp only [State.setSlot_desk, State.startQueues_desk, desk_mk, desk_eta, Iter.state_done, Iter.state_fmt, Iter.state_trap, Whole.state_ran, Whole.state_stopped, Whole.state_denied] | split | with_reducible refine (foldl_desk _ ?_ _ _).trans ?_

@[simp] theorem State.sendMsg_desk (s : State) (x1 : _) (x2 : _) (x3 : _) (x4 : _) (x5 : _) (x6 : _) : (State.sendMsg s x1 x2 x3 x4 x5 x6).desk = s.desk := by
  unfold State.sendMsg
  repeat' first | with_reducible rfl | with_reducible assumption | intro _ | simp only [State.sendMessage_desk, desk_mk, desk_eta, Iter.state_done, Iter.state_fmt, Iter.state_trap, Whole.state_ran, Whole.state_stopped, Whole.state_denied] | split | with_reducible refine (foldl_desk _ ?_ _ _).trans ?_

@[simp] theorem State.sendFirst_desk (s : State) (x1 : _) (x2 : _) (x3 : _) (x4 : _) (x5 : _) : (State.sendFirst s x1 x2 x3 x4 x5).desk = s.desk := by
  unfold State.sendFirst
  repeat' first | with_reducible rfl | with_reducible assumption | intro _ | simp only [State.sendMsg_desk, State.setSlot_desk, desk_mk, desk_eta, Iter.state_done, Iter.state_fmt, Iter.state_trap, Whole.state_ran, Whole.state_stopped, Whole.state_denied] | split | with_reducible refine (foldl_desk _ ?_ _ _).trans ?_

@[simp] theorem State.creditBackAux_desk (s : State) (x0 : _) (x1 : _) (x2 : _) (x3 : _) : (State.creditBackAux x0 x1 x2 x3 s).desk = s.desk := by
  induction x3 generalizing s with
  | zero => unfold State.creditBackAux; repeat' first | with_reducible rfl | with_reducible assumption | intro _ | simp only [State.sendMsg_desk, State.setSlot_desk, desk_mk, desk_eta, Iter.state_done, Iter.state_fmt, Iter.state_trap, Whole.state_ran, Whole.state_stopped, Whole.state_denied] | split | with_reducible refine (foldl_desk _ ?_ _ _).trans ?_
  | succ n ih =>
    unfold State.creditBackAux
    repeat' first | with_reducible rfl | with_reducible assumption | intro _ | simp only [ih, State.sendMsg_desk, State.setSlot_desk, desk_mk, desk_eta, Iter.state_done, Iter.state_fmt, Iter.state_trap, Whole.state_ran, Whole.state_stopped, Whole.state_denied] | split | with_reducible refine (foldl_desk _ ?_ _ _).trans ?_

@[simp] theorem State.creditBack_desk (s : State) (x1 : _) (x2 : _) (x3 : _) (x4 : _) : (State.creditBack s x1 x2 x3 x4).desk = s.desk := by
  unfold State.creditBack
  repeat' first | with_reducible rfl | with_reducible assumption | intro _ | simp only [State.creditBackAux_desk, State.setSlot_desk, desk_mk, desk_eta, Iter.state_done, Iter.state_fmt, Iter.state_trap, Whole.state_ran, Whole.state_stopped, Whole.state_denied] | split | with_reducible refine (foldl_desk _ ?_ _ _).trans ?_

@[simp] theorem State.sendAck_desk (s : State) (x1 : _) (x2 : _) (x3 : _) (x4 : _) : (State.sendAck s x1 x2 x3 x4).desk = s.desk := by
  unfold State.sendAck
  repeat' first | with_reducible rfl | with_reducible assumption | intro _ | simp only [State.sendCtrl_desk, desk_mk, desk_eta, Iter.state_done, Iter.state_fmt, Iter.state_trap, Whole.state_ran, Whole.state_stopped, Whole.state_denied] | split | with_reducible refine (foldl_desk _ ?_ _ _).trans ?_

@[simp] theorem State.returnStaging_desk (s : State) (x1 : _) (x2 : _) (x3 : _) : (State.returnStaging s x1 x2 x3).desk = s.desk := by
  unfold State.returnStaging
  repeat' first | with_reducible rfl | with_reducible assumption | intro _ | simp only [State.sendAck_desk, State.setSlot_desk, desk_mk, desk_eta, Iter.state_done, Iter.state_fmt, Iter.state_trap, Whole.state_ran, Whole.state_stopped, Whole.state_denied] | split | with_reducible refine (foldl_desk _ ?_ _ _).trans ?_

@[simp] theorem State.endDown_desk (s : State) (x1 : _) (x2 : _) (x3 : _) (x4 : _) : (State.endDown s x1 x2 x3 x4).desk = s.desk := by
  unfold State.endDown
  repeat' first | with_reducible rfl | with_reducible assumption | intro _ | simp only [State.sendMsg_desk, desk_mk, desk_eta, Iter.state_done, Iter.state_fmt, Iter.state_trap, Whole.state_ran, Whole.state_stopped, Whole.state_denied] | split | with_reducible refine (foldl_desk _ ?_ _ _).trans ?_ | with_reducible refine (foldlB_desk _ ?_ _ _).trans ?_ | with_reducible refine (foldl1_desk _ ?_ _ _).trans ?_ | with_reducible refine (foldl2_desk _ ?_ _ _).trans ?_

@[simp] theorem State.noteStatus_desk (s : State) (x1 : _) (x2 : _) : (State.noteStatus s x1 x2).desk = s.desk := by
  unfold State.noteStatus
  repeat' first | with_reducible rfl | with_reducible assumption | intro _ | simp only [desk_mk, desk_eta, Iter.state_done, Iter.state_fmt, Iter.state_trap, Whole.state_ran, Whole.state_stopped, Whole.state_denied] | split | with_reducible refine (foldl_desk _ ?_ _ _).trans ?_

@[simp] theorem State.modCtx_desk (s : State) (x1 : _) (x2 : _) : (State.modCtx s x1 x2).desk = s.desk := by
  unfold State.modCtx
  repeat' first | with_reducible rfl | with_reducible assumption | intro _ | simp only [desk_mk, desk_eta, Iter.state_done, Iter.state_fmt, Iter.state_trap, Whole.state_ran, Whole.state_stopped, Whole.state_denied] | split | with_reducible refine (foldl_desk _ ?_ _ _).trans ?_

@[simp] theorem State.freeAfter_desk (s : State) (x1 : _) (x2 : _) : (State.freeAfter s x1 x2).desk = s.desk := by
  unfold State.freeAfter
  repeat' first | with_reducible rfl | with_reducible assumption | intro _ | simp only [State.modCtx_desk, desk_mk, desk_eta, Iter.state_done, Iter.state_fmt, Iter.state_trap, Whole.state_ran, Whole.state_stopped, Whole.state_denied] | split | with_reducible refine (foldl_desk _ ?_ _ _).trans ?_

@[simp] theorem State.closeSlot_desk (s : State) (x1 : _) (x2 : _) : (State.closeSlot s x1 x2).desk = s.desk := by
  unfold State.closeSlot
  repeat' first | with_reducible rfl | with_reducible assumption | intro _ | simp only [State.bump_desk, State.closeStreams_desk, State.freeAfter_desk, State.noteStatus_desk, State.sendMsg_desk, State.setSlot_desk, desk_mk, desk_eta, Iter.state_done, Iter.state_fmt, Iter.state_trap, Whole.state_ran, Whole.state_stopped, Whole.state_denied] | split | with_reducible refine (foldl_desk _ ?_ _ _).trans ?_ | with_reducible refine (foldlB_desk _ ?_ _ _).trans ?_ | with_reducible refine (foldl1_desk _ ?_ _ _).trans ?_ | with_reducible refine (foldl2_desk _ ?_ _ _).trans ?_

@[simp] theorem State.sendEnds_desk (s : State) (x1 : _) (x2 : _) (x3 : _) : (State.sendEnds s x1 x2 x3).desk = s.desk := by
  unfold State.sendEnds
  repeat' first | with_reducible rfl | with_reducible assumption | intro _ | simp only [State.endDown_desk, State.sendMsg_desk, desk_mk, desk_eta, Iter.state_done, Iter.state_fmt, Iter.state_trap, Whole.state_ran, Whole.state_stopped, Whole.state_denied] | split | with_reducible refine (foldl_desk _ ?_ _ _).trans ?_ | with_reducible refine (foldlB_desk _ ?_ _ _).trans ?_ | with_reducible refine (foldl1_desk _ ?_ _ _).trans ?_ | with_reducible refine (foldl2_desk _ ?_ _ _).trans ?_

@[simp] theorem State.stopQueues_desk (s : State) (x1 : _) : (State.stopQueues s x1).desk = s.desk := by
  unfold State.stopQueues
  repeat' first | with_reducible rfl | with_reducible assumption | intro _ | simp only [desk_mk, desk_eta, Iter.state_done, Iter.state_fmt, Iter.state_trap, Whole.state_ran, Whole.state_stopped, Whole.state_denied] | split | with_reducible refine (foldl_desk _ ?_ _ _).trans ?_

@[simp] theorem State.failInstance_desk (s : State) (x1 : _) (x2 : _) (x3 : _) : (State.failInstance s x1 x2 x3).desk = s.desk := by
  unfold State.failInstance
  repeat' first | with_reducible rfl | with_reducible assumption | intro _ | simp only [State.closeSlot_desk, State.sendEnds_desk, State.setSlot_desk, State.stopQueues_desk, desk_mk, desk_eta, Iter.state_done, Iter.state_fmt, Iter.state_trap, Whole.state_ran, Whole.state_stopped, Whole.state_denied] | split | with_reducible refine (foldl_desk _ ?_ _ _).trans ?_

@[simp] theorem State.endNow_desk (s : State) (x1 : _) (x2 : _) (x3 : _) : (State.endNow s x1 x2 x3).desk = s.desk := by
  unfold State.endNow
  repeat' first | with_reducible rfl | with_reducible assumption | intro _ | simp only [State.closeSlot_desk, State.failInstance_desk, desk_mk, desk_eta, Iter.state_done, Iter.state_fmt, Iter.state_trap, Whole.state_ran, Whole.state_stopped, Whole.state_denied] | split | with_reducible refine (foldl_desk _ ?_ _ _).trans ?_

@[simp] theorem State.maybeClose_desk (s : State) (x1 : _) : (State.maybeClose s x1).desk = s.desk := by
  unfold State.maybeClose
  repeat' first | with_reducible rfl | with_reducible assumption | intro _ | simp only [State.closeSlot_desk, State.releaseStreams_desk, desk_mk, desk_eta, Iter.state_done, Iter.state_fmt, Iter.state_trap, Whole.state_ran, Whole.state_stopped, Whole.state_denied] | split | with_reducible refine (foldl_desk _ ?_ _ _).trans ?_

@[simp] theorem State.rootEnd_desk (s : State) (x1 : _) (x2 : _) : (State.rootEnd s x1 x2).desk = s.desk := by
  unfold State.rootEnd
  repeat' first | with_reducible rfl | with_reducible assumption | intro _ | simp only [State.endDown_desk, State.maybeClose_desk, State.setSlot_desk, desk_mk, desk_eta, Iter.state_done, Iter.state_fmt, Iter.state_trap, Whole.state_ran, Whole.state_stopped, Whole.state_denied] | split | with_reducible refine (foldl_desk _ ?_ _ _).trans ?_

@[simp] theorem State.mismatch_desk (s : State) (x1 : _) (x2 : _) : (State.mismatch s x1 x2).desk = s.desk := by
  unfold State.mismatch
  repeat' first | with_reducible rfl | with_reducible assumption | intro _ | simp only [State.bump_desk, State.failInstance_desk, State.raise_desk, State.setSlot_desk, desk_mk, desk_eta, Iter.state_done, Iter.state_fmt, Iter.state_trap, Whole.state_ran, Whole.state_stopped, Whole.state_denied] | split | with_reducible refine (foldl_desk _ ?_ _ _).trans ?_

@[simp] theorem State.retire_desk (s : State) (x1 : _) : (State.retire s x1).desk = s.desk := by
  unfold State.retire
  repeat' first | with_reducible rfl | with_reducible assumption | intro _ | simp only [State.bump_desk, desk_mk, desk_eta, Iter.state_done, Iter.state_fmt, Iter.state_trap, Whole.state_ran, Whole.state_stopped, Whole.state_denied] | split | with_reducible refine (foldl_desk _ ?_ _ _).trans ?_

@[simp] theorem State.memWrite_desk (s : State) (x1 : _) (x2 : _) : (State.memWrite s x1 x2).desk = s.desk := by
  unfold State.memWrite
  repeat' first | with_reducible rfl | with_reducible assumption | intro _ | simp only [desk_mk, desk_eta, Iter.state_done, Iter.state_fmt, Iter.state_trap, Whole.state_ran, Whole.state_stopped, Whole.state_denied] | split | with_reducible refine (foldl_desk _ ?_ _ _).trans ?_

@[simp] theorem State.memClear_desk (s : State) (x1 : _) (x2 : _) : (State.memClear s x1 x2).desk = s.desk := by
  unfold State.memClear
  repeat' first | with_reducible rfl | with_reducible assumption | intro _ | simp only [desk_mk, desk_eta, Iter.state_done, Iter.state_fmt, Iter.state_trap, Whole.state_ran, Whole.state_stopped, Whole.state_denied] | split | with_reducible refine (foldl_desk _ ?_ _ _).trans ?_

@[simp] theorem State.noteTerm_desk (s : State) (x1 : _) : (State.noteTerm s x1).desk = s.desk := by
  unfold State.noteTerm
  repeat' first | with_reducible rfl | with_reducible assumption | intro _ | simp only [desk_mk, desk_eta, Iter.state_done, Iter.state_fmt, Iter.state_trap, Whole.state_ran, Whole.state_stopped, Whole.state_denied] | split | with_reducible refine (foldl_desk _ ?_ _ _).trans ?_

@[simp] theorem State.sendGranule_desk (s : State) (x1 : _) (x2 : _) (x3 : _) : (State.sendGranule s x1 x2 x3).desk = s.desk := by
  unfold State.sendGranule
  repeat' first | with_reducible rfl | with_reducible assumption | intro _ | simp only [State.sendMessage_desk, desk_mk, desk_eta, Iter.state_done, Iter.state_fmt, Iter.state_trap, Whole.state_ran, Whole.state_stopped, Whole.state_denied] | split | with_reducible refine (foldl_desk _ ?_ _ _).trans ?_

@[simp] theorem State.resend_desk (s : State) (x1 : _) : (State.resend s x1).desk = s.desk := by
  unfold State.resend
  repeat' first | with_reducible rfl | with_reducible assumption | intro _ | simp only [State.sendGranule_desk, desk_mk, desk_eta, Iter.state_done, Iter.state_fmt, Iter.state_trap, Whole.state_ran, Whole.state_stopped, Whole.state_denied] | split | with_reducible refine (foldl_desk _ ?_ _ _).trans ?_

@[simp] theorem State.stateWrite_desk (s : State) (x1 : _) (x2 : _) : (State.stateWrite s x1 x2).desk = s.desk := by
  unfold State.stateWrite
  repeat' first | with_reducible rfl | with_reducible assumption | intro _ | simp only [State.memWrite_desk, State.noteTerm_desk, State.resend_desk, desk_mk, desk_eta, Iter.state_done, Iter.state_fmt, Iter.state_trap, Whole.state_ran, Whole.state_stopped, Whole.state_denied] | split | with_reducible refine (foldl_desk _ ?_ _ _).trans ?_ | with_reducible refine (foldlB_desk _ ?_ _ _).trans ?_ | with_reducible refine (foldl1_desk _ ?_ _ _).trans ?_ | with_reducible refine (foldl2_desk _ ?_ _ _).trans ?_

@[simp] theorem State.freeContexts_desk (s : State) : (State.freeContexts s).desk = s.desk := by
  unfold State.freeContexts
  repeat' first | with_reducible rfl | with_reducible assumption | intro _ | simp only [desk_mk, desk_eta, Iter.state_done, Iter.state_fmt, Iter.state_trap, Whole.state_ran, Whole.state_stopped, Whole.state_denied] | split | with_reducible refine (foldl_desk _ ?_ _ _).trans ?_

@[simp] theorem State.removePlan_desk (s : State) (x1 : _) : (State.removePlan s x1).desk = s.desk := by
  unfold State.removePlan
  repeat' first | with_reducible rfl | with_reducible assumption | intro _ | simp only [State.endNow_desk, State.freeContexts_desk, State.rebuildGroups_desk, desk_mk, desk_eta, Iter.state_done, Iter.state_fmt, Iter.state_trap, Whole.state_ran, Whole.state_stopped, Whole.state_denied] | split | with_reducible refine (foldl_desk _ ?_ _ _).trans ?_ | with_reducible refine (foldlB_desk _ ?_ _ _).trans ?_ | with_reducible refine (foldl1_desk _ ?_ _ _).trans ?_ | with_reducible refine (foldl2_desk _ ?_ _ _).trans ?_

@[simp] theorem State.zeroRetire_desk (s : State) (x1 : _) : (State.zeroRetire s x1).desk = s.desk := by
  unfold State.zeroRetire
  repeat' first | with_reducible rfl | with_reducible assumption | intro _ | simp only [State.memClear_desk, State.retire_desk, desk_mk, desk_eta, Iter.state_done, Iter.state_fmt, Iter.state_trap, Whole.state_ran, Whole.state_stopped, Whole.state_denied] | split | with_reducible refine (foldl_desk _ ?_ _ _).trans ?_

@[simp] theorem State.putTables_desk (s : State) (x1 : _) (x2 : _) : (State.putTables s x1 x2).desk = s.desk := by
  unfold State.putTables
  repeat' first | with_reducible rfl | with_reducible assumption | intro _ | simp only [desk_mk, desk_eta, Iter.state_done, Iter.state_fmt, Iter.state_trap, Whole.state_ran, Whole.state_stopped, Whole.state_denied] | split | with_reducible refine (foldl_desk _ ?_ _ _).trans ?_

@[simp] theorem State.queueHeal_desk (s : State) (x1 : _) (x2 : _) : (State.queueHeal s x1 x2).desk = s.desk := by
  unfold State.queueHeal
  repeat' first | with_reducible rfl | with_reducible assumption | intro _ | simp only [desk_mk, desk_eta, Iter.state_done, Iter.state_fmt, Iter.state_trap, Whole.state_ran, Whole.state_stopped, Whole.state_denied] | split | with_reducible refine (foldl_desk _ ?_ _ _).trans ?_

@[simp] theorem State.planGranuleBad_desk (s : State) (x1 : _) : (State.planGranuleBad s x1).desk = s.desk := by
  unfold State.planGranuleBad
  repeat' first | with_reducible rfl | with_reducible assumption | intro _ | simp only [State.queueHeal_desk, State.removePlan_desk, State.zeroRetire_desk, desk_mk, desk_eta, Iter.state_done, Iter.state_fmt, Iter.state_trap, Whole.state_ran, Whole.state_stopped, Whole.state_denied] | split | with_reducible refine (foldl_desk _ ?_ _ _).trans ?_ | with_reducible refine (foldlB_desk _ ?_ _ _).trans ?_ | with_reducible refine (foldl1_desk _ ?_ _ _).trans ?_ | with_reducible refine (foldl2_desk _ ?_ _ _).trans ?_

@[simp] theorem State.kvGranuleBad_desk (s : State) (x1 : _) : (State.kvGranuleBad s x1).desk = s.desk := by
  unfold State.kvGranuleBad
  repeat' first | with_reducible rfl | with_reducible assumption | intro _ | simp only [State.zeroRetire_desk, desk_mk, desk_eta, Iter.state_done, Iter.state_fmt, Iter.state_trap, Whole.state_ran, Whole.state_stopped, Whole.state_denied] | split | with_reducible refine (foldl_desk _ ?_ _ _).trans ?_

@[simp] theorem State.spillGranuleBad_desk (s : State) (x1 : _) : (State.spillGranuleBad s x1).desk = s.desk := by
  unfold State.spillGranuleBad
  repeat' first | with_reducible rfl | with_reducible assumption | intro _ | simp only [State.failInstance_desk, State.zeroRetire_desk, desk_mk, desk_eta, Iter.state_done, Iter.state_fmt, Iter.state_trap, Whole.state_ran, Whole.state_stopped, Whole.state_denied] | split | with_reducible refine (foldl_desk _ ?_ _ _).trans ?_ | with_reducible refine (foldlB_desk _ ?_ _ _).trans ?_ | with_reducible refine (foldl1_desk _ ?_ _ _).trans ?_ | with_reducible refine (foldl2_desk _ ?_ _ _).trans ?_

@[simp] theorem State.logUe_desk (s : State) (x1 : _) : (State.logUe s x1).desk = s.desk := by
  unfold State.logUe
  repeat' first | with_reducible rfl | with_reducible assumption | intro _ | simp only [State.bump_desk, State.raise_desk, desk_mk, desk_eta, Iter.state_done, Iter.state_fmt, Iter.state_trap, Whole.state_ran, Whole.state_stopped, Whole.state_denied] | split | with_reducible refine (foldl_desk _ ?_ _ _).trans ?_

@[simp] theorem State.xorBlock_desk (s : State) (x1 : _) (x2 : _) : (State.xorBlock s x1 x2).desk = s.desk := by
  unfold State.xorBlock
  repeat' first | with_reducible rfl | with_reducible assumption | intro _ | simp only [State.memWrite_desk, desk_mk, desk_eta, Iter.state_done, Iter.state_fmt, Iter.state_trap, Whole.state_ran, Whole.state_stopped, Whole.state_denied] | split | with_reducible refine (foldl_desk _ ?_ _ _).trans ?_ | with_reducible refine (foldlB_desk _ ?_ _ _).trans ?_ | with_reducible refine (foldl1_desk _ ?_ _ _).trans ?_ | with_reducible refine (foldl2_desk _ ?_ _ _).trans ?_

@[simp] theorem State.badGranule_desk (s : State) (x1 : _) : (State.badGranule s x1).desk = s.desk := by
  unfold State.badGranule
  repeat' first | with_reducible rfl | with_reducible assumption | intro _ | simp only [State.kvGranuleBad_desk, State.planGranuleBad_desk, State.queueHeal_desk, State.spillGranuleBad_desk, State.zeroRetire_desk, desk_mk, desk_eta, Iter.state_done, Iter.state_fmt, Iter.state_trap, Whole.state_ran, Whole.state_stopped, Whole.state_denied] | split | with_reducible refine (foldl_desk _ ?_ _ _).trans ?_

@[simp] theorem State.chargeChannel_desk (s : State) (x1 : _) (x2 : _) : (State.chargeChannel s x1 x2).desk = s.desk := by
  unfold State.chargeChannel
  repeat' first | with_reducible rfl | with_reducible assumption | intro _ | simp only [desk_mk, desk_eta, Iter.state_done, Iter.state_fmt, Iter.state_trap, Whole.state_ran, Whole.state_stopped, Whole.state_denied] | split | with_reducible refine (foldl_desk _ ?_ _ _).trans ?_

@[simp] theorem State.upset_desk (s : State) (x1 : _) (x2 : _) : (State.upset s x1 x2).desk = s.desk := by
  unfold State.upset
  repeat' first | with_reducible rfl | with_reducible assumption | intro _ | simp only [desk_mk, desk_eta, Iter.state_done, Iter.state_fmt, Iter.state_trap, Whole.state_ran, Whole.state_stopped, Whole.state_denied] | split | with_reducible refine (foldl_desk _ ?_ _ _).trans ?_

@[simp] theorem State.rewrite_desk (s : State) (x1 : _) : (State.rewrite s x1).desk = s.desk := by
  unfold State.rewrite
  repeat' first | with_reducible rfl | with_reducible assumption | intro _ | simp only [desk_mk, desk_eta, Iter.state_done, Iter.state_fmt, Iter.state_trap, Whole.state_ran, Whole.state_stopped, Whole.state_denied] | split | with_reducible refine (foldl_desk _ ?_ _ _).trans ?_

@[simp] theorem State.readBlock_desk (s : State) (x1 : _) : (State.readBlock s x1).desk = s.desk := by
  unfold State.readBlock
  repeat' first | with_reducible rfl | with_reducible assumption | intro _ | simp only [State.badGranule_desk, State.bump_desk, State.chargeChannel_desk, State.logUe_desk, State.rewrite_desk, State.xorBlock_desk, desk_mk, desk_eta, Iter.state_done, Iter.state_fmt, Iter.state_trap, Whole.state_ran, Whole.state_stopped, Whole.state_denied] | split | with_reducible refine (foldl_desk _ ?_ _ _).trans ?_

@[simp] theorem State.fetchRange_desk (s : State) (x1 : _) (x2 : _) : (State.fetchRange s x1 x2).desk = s.desk := by
  unfold State.fetchRange
  repeat' first | with_reducible rfl | with_reducible assumption | intro _ | simp only [State.readBlock_desk, desk_mk, desk_eta, Iter.state_done, Iter.state_fmt, Iter.state_trap, Whole.state_ran, Whole.state_stopped, Whole.state_denied] | split | with_reducible refine (foldl_desk _ ?_ _ _).trans ?_ | with_reducible refine (foldlB_desk _ ?_ _ _).trans ?_ | with_reducible refine (foldl1_desk _ ?_ _ _).trans ?_ | with_reducible refine (foldl2_desk _ ?_ _ _).trans ?_

@[simp] theorem State.fetchEdges_desk (s : State) (x1 : _) (x2 : _) : (State.fetchEdges s x1 x2).desk = s.desk := by
  unfold State.fetchEdges
  repeat' first | with_reducible rfl | with_reducible assumption | intro _ | simp only [State.readBlock_desk, desk_mk, desk_eta, Iter.state_done, Iter.state_fmt, Iter.state_trap, Whole.state_ran, Whole.state_stopped, Whole.state_denied] | split | with_reducible refine (foldl_desk _ ?_ _ _).trans ?_ | with_reducible refine (foldlB_desk _ ?_ _ _).trans ?_ | with_reducible refine (foldl1_desk _ ?_ _ _).trans ?_ | with_reducible refine (foldl2_desk _ ?_ _ _).trans ?_

@[simp] theorem State.fetchObject_desk (s : State) (x1 : _) (x2 : _) : (State.fetchObject s x1 x2).desk = s.desk := by
  unfold State.fetchObject
  repeat' first | with_reducible rfl | with_reducible assumption | intro _ | simp only [State.readBlock_desk, desk_mk, desk_eta, Iter.state_done, Iter.state_fmt, Iter.state_trap, Whole.state_ran, Whole.state_stopped, Whole.state_denied] | split | with_reducible refine (foldl_desk _ ?_ _ _).trans ?_ | with_reducible refine (foldlB_desk _ ?_ _ _).trans ?_ | with_reducible refine (foldl1_desk _ ?_ _ _).trans ?_ | with_reducible refine (foldl2_desk _ ?_ _ _).trans ?_

@[simp] theorem State.fetchAll_desk (s : State) (x1 : _) (x2 : _) : (State.fetchAll s x1 x2).desk = s.desk := by
  unfold State.fetchAll
  repeat' first | with_reducible rfl | with_reducible assumption | intro _ | simp only [State.fetchEdges_desk, State.fetchRange_desk, desk_mk, desk_eta, Iter.state_done, Iter.state_fmt, Iter.state_trap, Whole.state_ran, Whole.state_stopped, Whole.state_denied] | split | with_reducible refine (foldl_desk _ ?_ _ _).trans ?_ | with_reducible refine (foldlB_desk _ ?_ _ _).trans ?_ | with_reducible refine (foldl1_desk _ ?_ _ _).trans ?_ | with_reducible refine (foldl2_desk _ ?_ _ _).trans ?_

@[simp] theorem State.setHeader_desk (s : State) (x1 : _) (x2 : _) (x3 : _) (x4 : _) (x5 : _) (x6 : _) : (State.setHeader s x1 x2 x3 x4 x5 x6).desk = s.desk := by
  unfold State.setHeader
  repeat' first | with_reducible rfl | with_reducible assumption | intro _ | simp only [State.stateWrite_desk, desk_mk, desk_eta, Iter.state_done, Iter.state_fmt, Iter.state_trap, Whole.state_ran, Whole.state_stopped, Whole.state_denied] | split | with_reducible refine (foldl_desk _ ?_ _ _).trans ?_

@[simp] theorem State.firstUpdate_desk (s : State) (x1 : _) (x2 : _) : (State.firstUpdate s x1 x2).desk = s.desk := by
  unfold State.firstUpdate
  repeat' first | with_reducible rfl | with_reducible assumption | intro _ | simp only [State.setHeader_desk, desk_mk, desk_eta, Iter.state_done, Iter.state_fmt, Iter.state_trap, Whole.state_ran, Whole.state_stopped, Whole.state_denied] | split | with_reducible refine (foldl_desk _ ?_ _ _).trans ?_

@[simp] theorem State.markSegments_desk (s : State) (x1 : _) (x2 : _) (x3 : _) : (State.markSegments s x1 x2 x3).desk = s.desk := by
  unfold State.markSegments
  repeat' first | with_reducible rfl | with_reducible assumption | intro _ | simp only [desk_mk, desk_eta, Iter.state_done, Iter.state_fmt, Iter.state_trap, Whole.state_ran, Whole.state_stopped, Whole.state_denied] | split | with_reducible refine (foldl_desk _ ?_ _ _).trans ?_

@[simp] theorem State.applyElems_desk (s : State) (x1 : _) (x2 : _) (x3 : _) (x4 : _) (x5 : _) (x6 : _) : (State.applyElems s x1 x2 x3 x4 x5 x6).2.desk = s.desk := by
  unfold State.applyElems
  repeat' first | with_reducible rfl | with_reducible assumption | intro _ | simp only [State.firstUpdate_desk, State.markSegments_desk, State.stateWrite_desk, desk_mk, desk_eta, Iter.state_done, Iter.state_fmt, Iter.state_trap, Whole.state_ran, Whole.state_stopped, Whole.state_denied] | split | with_reducible refine (foldl_desk _ ?_ _ _).trans ?_

@[simp] theorem State.applyWhole_desk (s : State) (x1 : _) (x2 : _) (x3 : _) (x4 : _) (x5 : _) : (State.applyWhole s x1 x2 x3 x4 x5).desk = s.desk := by
  unfold State.applyWhole
  repeat' first | with_reducible rfl | with_reducible assumption | intro _ | simp only [State.firstUpdate_desk, State.markSegments_desk, State.stateWrite_desk, desk_mk, desk_eta, Iter.state_done, Iter.state_fmt, Iter.state_trap, Whole.state_ran, Whole.state_stopped, Whole.state_denied] | split | with_reducible refine (foldl_desk _ ?_ _ _).trans ?_

@[simp] theorem State.copyBank_desk (s : State) (x1 : _) (x2 : _) : (State.copyBank s x1 x2).desk = s.desk := by
  unfold State.copyBank
  repeat' first | with_reducible rfl | with_reducible assumption | intro _ | simp only [State.stateWrite_desk, desk_mk, desk_eta, Iter.state_done, Iter.state_fmt, Iter.state_trap, Whole.state_ran, Whole.state_stopped, Whole.state_denied] | split | with_reducible refine (foldl_desk _ ?_ _ _).trans ?_

@[simp] theorem State.carryShard_desk (s : State) (x1 : _) (x2 : _) : (State.carryShard s x1 x2).desk = s.desk := by
  unfold State.carryShard
  repeat' first | with_reducible rfl | with_reducible assumption | intro _ | simp only [State.bump_desk, State.copyBank_desk, desk_mk, desk_eta, Iter.state_done, Iter.state_fmt, Iter.state_trap, Whole.state_ran, Whole.state_stopped, Whole.state_denied] | split | with_reducible refine (foldl_desk _ ?_ _ _).trans ?_ | with_reducible refine (foldlB_desk _ ?_ _ _).trans ?_ | with_reducible refine (foldl1_desk _ ?_ _ _).trans ?_ | with_reducible refine (foldl2_desk _ ?_ _ _).trans ?_

@[simp] theorem State.carryAll_desk (s : State) : (State.carryAll s).desk = s.desk := by
  unfold State.carryAll
  repeat' first | with_reducible rfl | with_reducible assumption | intro _ | simp only [State.carryShard_desk, desk_mk, desk_eta, Iter.state_done, Iter.state_fmt, Iter.state_trap, Whole.state_ran, Whole.state_stopped, Whole.state_denied] | split | with_reducible refine (foldl_desk _ ?_ _ _).trans ?_ | with_reducible refine (foldlB_desk _ ?_ _ _).trans ?_ | with_reducible refine (foldl1_desk _ ?_ _ _).trans ?_ | with_reducible refine (foldl2_desk _ ?_ _ _).trans ?_

@[simp] theorem State.exchange_desk (s : State) (x1 : _) : (State.exchange s x1).desk = s.desk := by
  unfold State.exchange
  repeat' first | with_reducible rfl | with_reducible assumption | intro _ | simp only [State.bump_desk, State.raise_desk, desk_mk, desk_eta, Iter.state_done, Iter.state_fmt, Iter.state_trap, Whole.state_ran, Whole.state_stopped, Whole.state_denied] | split | with_reducible refine (foldl_desk _ ?_ _ _).trans ?_

@[simp] theorem State.commit_desk (s : State) (x1 : _) : (State.commit s x1).desk = s.desk := by
  unfold State.commit
  repeat' first | with_reducible rfl | with_reducible assumption | intro _ | simp only [State.bump_desk, State.sendCtrl_desk, desk_mk, desk_eta, Iter.state_done, Iter.state_fmt, Iter.state_trap, Whole.state_ran, Whole.state_stopped, Whole.state_denied] | split | with_reducible refine (foldl_desk _ ?_ _ _).trans ?_

@[simp] theorem State.abortAll_desk (s : State) (x1 : _) : (State.abortAll s x1).desk = s.desk := by
  unfold State.abortAll
  repeat' first | with_reducible rfl | with_reducible assumption | intro _ | simp only [State.endNow_desk, desk_mk, desk_eta, Iter.state_done, Iter.state_fmt, Iter.state_trap, Whole.state_ran, Whole.state_stopped, Whole.state_denied] | split | with_reducible refine (foldl_desk _ ?_ _ _).trans ?_ | with_reducible refine (foldlB_desk _ ?_ _ _).trans ?_ | with_reducible refine (foldl1_desk _ ?_ _ _).trans ?_ | with_reducible refine (foldl2_desk _ ?_ _ _).trans ?_

@[simp] theorem State.clearSlots_desk (s : State) (x1 : _) : (State.clearSlots s x1).desk = s.desk := by
  unfold State.clearSlots
  repeat' first | with_reducible rfl | with_reducible assumption | intro _ | simp only [State.dropStreams_desk, desk_mk, desk_eta, Iter.state_done, Iter.state_fmt, Iter.state_trap, Whole.state_ran, Whole.state_stopped, Whole.state_denied] | split | with_reducible refine (foldl_desk _ ?_ _ _).trans ?_ | with_reducible refine (foldlB_desk _ ?_ _ _).trans ?_ | with_reducible refine (foldl1_desk _ ?_ _ _).trans ?_ | with_reducible refine (foldl2_desk _ ?_ _ _).trans ?_

@[simp] theorem State.discardStep_desk (s : State) : (State.discardStep s).desk = s.desk := by
  unfold State.discardStep
  repeat' first | with_reducible rfl | with_reducible assumption | intro _ | simp only [desk_mk, desk_eta, Iter.state_done, Iter.state_fmt, Iter.state_trap, Whole.state_ran, Whole.state_stopped, Whole.state_denied] | split | with_reducible refine (foldl_desk _ ?_ _ _).trans ?_

@[simp] theorem State.refuse_desk (s : State) (x1 : _) : (State.refuse s x1).desk = s.desk := by
  unfold State.refuse
  repeat' first | with_reducible rfl | with_reducible assumption | intro _ | simp only [State.abortAll_desk, State.bump_desk, State.clearSlots_desk, State.discardStep_desk, State.raise_desk, desk_mk, desk_eta, Iter.state_done, Iter.state_fmt, Iter.state_trap, Whole.state_ran, Whole.state_stopped, Whole.state_denied] | split | with_reducible refine (foldl_desk _ ?_ _ _).trans ?_

@[simp] theorem State.barrierResult_desk (s : State) (x1 : _) (x2 : _) : (State.barrierResult s x1 x2).desk = s.desk := by
  unfold State.barrierResult
  repeat' first | with_reducible rfl | with_reducible assumption | intro _ | simp only [State.commit_desk, State.refuse_desk, desk_mk, desk_eta, Iter.state_done, Iter.state_fmt, Iter.state_trap, Whole.state_ran, Whole.state_stopped, Whole.state_denied] | split | with_reducible refine (foldl_desk _ ?_ _ _).trans ?_

@[simp] theorem State.acceptRug_desk (s : State) (x1 : _) (x2 : _) : (State.acceptRug s x1 x2).desk = s.desk := by
  unfold State.acceptRug
  repeat' first | with_reducible rfl | with_reducible assumption | intro _ | simp only [State.failInstance_desk, State.raise_desk, desk_mk, desk_eta, Iter.state_done, Iter.state_fmt, Iter.state_trap, Whole.state_ran, Whole.state_stopped, Whole.state_denied] | split | with_reducible refine (foldl_desk _ ?_ _ _).trans ?_

@[simp] theorem State.gatherBytes_desk (s : State) (x1 : _) (x2 : _) (x3 : _) : (State.gatherBytes s x1 x2 x3).2.desk = s.desk := by
  unfold State.gatherBytes
  repeat' first | with_reducible rfl | with_reducible assumption | intro _ | simp only [State.bump_desk, desk_mk, desk_eta, Iter.state_done, Iter.state_fmt, Iter.state_trap, Whole.state_ran, Whole.state_stopped, Whole.state_denied] | split | with_reducible refine (foldl_desk _ ?_ _ _).trans ?_

@[simp] theorem State.spaceWrite_desk (s : State) (x1 : _) (x2 : _) (x3 : _) : (State.spaceWrite s x1 x2 x3).desk = s.desk := by
  unfold State.spaceWrite
  repeat' first | with_reducible rfl | with_reducible assumption | intro _ | simp only [State.stateWrite_desk, desk_mk, desk_eta, Iter.state_done, Iter.state_fmt, Iter.state_trap, Whole.state_ran, Whole.state_stopped, Whole.state_denied] | split | with_reducible refine (foldl_desk _ ?_ _ _).trans ?_

@[simp] theorem State.putCode_desk (s : State) (x1 : _) (x2 : _) : (State.putCode s x1 x2).desk = s.desk := by
  unfold State.putCode
  repeat' first | with_reducible rfl | with_reducible assumption | intro _ | simp only [State.spaceWrite_desk, desk_mk, desk_eta, Iter.state_done, Iter.state_fmt, Iter.state_trap, Whole.state_ran, Whole.state_stopped, Whole.state_denied] | split | with_reducible refine (foldl_desk _ ?_ _ _).trans ?_

@[simp] theorem State.fetchPlace_desk (s : State) (x1 : _) : (State.fetchPlace s x1).desk = s.desk := by
  unfold State.fetchPlace
  repeat' first | with_reducible rfl | with_reducible assumption | intro _ | simp only [State.fetchRange_desk, desk_mk, desk_eta, Iter.state_done, Iter.state_fmt, Iter.state_trap, Whole.state_ran, Whole.state_stopped, Whole.state_denied] | split | with_reducible refine (foldl_desk _ ?_ _ _).trans ?_

theorem State.putAt_desk {s t : State} {d : Descr} {ix : List Nat} {c : Nat} (h : s.putAt d ix c = some t) : t.desk = s.desk := by
  unfold State.putAt at h
  obtain ⟨p, _, rfl⟩ := Option.map_eq_some_iff.mp h
  exact State.putCode_desk s p c

theorem State.putAt_getD_desk (s : State) (d : Descr) (ix : List Nat) (c : Nat) : ((s.putAt d ix c).getD s).desk = s.desk := by
  cases h : s.putAt d ix c with
  | none => rfl
  | some t => exact State.putAt_desk h

@[simp] theorem State.putWalk_desk (s : State) (d : Descr) (n : Nat) (l : List Nat) : (s.putWalk d n l).desk = s.desk := by
  unfold State.putWalk
  refine foldl_desk _ ?_ _ _
  intro t a
  rw [State.putAt_getD_desk]

@[simp] theorem State.putCodes_desk (s : State) (d : Descr) (l : List (List Nat)) (cs : List Nat) : (s.putCodes d l cs).1.desk = s.desk := by
  induction cs generalizing s l with
  | nil => simp only [State.putCodes]
  | cons c cs ih =>
    cases l with
    | nil => simp only [State.putCodes]
    | cons ix t =>
      rw [State.putCodes]
      split
      · rename_i u hu
        rw [ih, State.putAt_desk hu]
      · rfl

@[simp] theorem State.replaceLayer_desk (s : State) (x1 : _) (x2 : _) (x3 : _) : (State.replaceLayer s x1 x2 x3).desk = s.desk := by
  unfold State.replaceLayer
  repeat' first | with_reducible rfl | with_reducible assumption | intro _ | simp only [State.modCtx_desk, desk_mk, desk_eta, Iter.state_done, Iter.state_fmt, Iter.state_trap, Whole.state_ran, Whole.state_stopped, Whole.state_denied] | split | with_reducible refine (foldl_desk _ ?_ _ _).trans ?_

@[simp] theorem State.seqOpen_desk (s : State) (x1 : _) (x2 : _) : (State.seqOpen s x1 x2).desk = s.desk := by
  unfold State.seqOpen
  repeat' first | with_reducible rfl | with_reducible assumption | intro _ | simp only [State.modCtx_desk, State.replaceLayer_desk, desk_mk, desk_eta, Iter.state_done, Iter.state_fmt, Iter.state_trap, Whole.state_ran, Whole.state_stopped, Whole.state_denied] | split | with_reducible refine (foldl_desk _ ?_ _ _).trans ?_

@[simp] theorem State.storeChunk_desk (s : State) (x1 : _) (x2 : _) (x3 : _) (x4 : _) (x5 : _) : (State.storeChunk s x1 x2 x3 x4 x5).desk = s.desk := by
  unfold State.storeChunk
  repeat' first | with_reducible rfl | with_reducible assumption | intro _ | simp only [State.bump_desk, State.modCtx_desk, desk_mk, desk_eta, Iter.state_done, Iter.state_fmt, Iter.state_trap, Whole.state_ran, Whole.state_stopped, Whole.state_denied] | split | with_reducible refine (foldl_desk _ ?_ _ _).trans ?_

@[simp] theorem State.seqDown_desk (s : State) (x1 : _) (x2 : _) (x3 : _) (x4 : _) (x5 : _) (x6 : _) : (State.seqDown s x1 x2 x3 x4 x5 x6).desk = s.desk := by
  unfold State.seqDown
  repeat' first | with_reducible rfl | with_reducible assumption | intro _ | simp only [State.relayMessage_desk, State.sendMsg_desk, desk_mk, desk_eta, Iter.state_done, Iter.state_fmt, Iter.state_trap, Whole.state_ran, Whole.state_stopped, Whole.state_denied] | split | with_reducible refine (foldl_desk _ ?_ _ _).trans ?_ | with_reducible refine (foldlB_desk _ ?_ _ _).trans ?_ | with_reducible refine (foldl1_desk _ ?_ _ _).trans ?_ | with_reducible refine (foldl2_desk _ ?_ _ _).trans ?_

@[simp] theorem State.sendBlock_desk (s : State) (x1 : _) (x2 : _) (x3 : _) (x4 : _) (x5 : _) (x6 : _) : (State.sendBlock s x1 x2 x3 x4 x5 x6).desk = s.desk := by
  unfold State.sendBlock
  repeat' first | with_reducible rfl | with_reducible assumption | intro _ | simp only [State.modSlot_desk, State.seqDown_desk, desk_mk, desk_eta, Iter.state_done, Iter.state_fmt, Iter.state_trap, Whole.state_ran, Whole.state_stopped, Whole.state_denied] | split | with_reducible refine (foldl_desk _ ?_ _ _).trans ?_ | with_reducible refine (foldlB_desk _ ?_ _ _).trans ?_ | with_reducible refine (foldl1_desk _ ?_ _ _).trans ?_ | with_reducible refine (foldl2_desk _ ?_ _ _).trans ?_

@[simp] theorem State.blockMissing_desk (s : State) (x1 : _) (x2 : _) (x3 : _) (x4 : _) (x5 : _) : (State.blockMissing s x1 x2 x3 x4 x5).desk = s.desk := by
  unfold State.blockMissing
  repeat' first | with_reducible rfl | with_reducible assumption | intro _ | simp only [State.bump_desk, State.modSlot_desk, State.raise_desk, State.sendBlock_desk, desk_mk, desk_eta, Iter.state_done, Iter.state_fmt, Iter.state_trap, Whole.state_ran, Whole.state_stopped, Whole.state_denied] | split | with_reducible refine (foldl_desk _ ?_ _ _).trans ?_

@[simp] theorem State.blocksFrom_desk (s : State) (x0 : _) (x1 : _) (x2 : _) (x3 : _) (x4 : _) (x5 : _) : (State.blocksFrom x0 x1 x2 x3 x4 x5 s).desk = s.desk := by
  induction x4 generalizing x5 s with
  | zero => unfold State.blocksFrom; repeat' first | with_reducible rfl | with_reducible assumption | intro _ | simp only [State.blockMissing_desk, State.fetchObject_desk, State.sendBlock_desk, desk_mk, desk_eta, Iter.state_done, Iter.state_fmt, Iter.state_trap, Whole.state_ran, Whole.state_stopped, Whole.state_denied] | split | with_reducible refine (foldl_desk _ ?_ _ _).trans ?_
  | succ n ih =>
    unfold State.blocksFrom
    repeat' first | with_reducible rfl | with_reducible assumption | intro _ | simp only [ih, State.blockMissing_desk, State.fetchObject_desk, State.sendBlock_desk, desk_mk, desk_eta, Iter.state_done, Iter.state_fmt, Iter.state_trap, Whole.state_ran, Whole.state_stopped, Whole.state_denied] | split | with_reducible refine (foldl_desk _ ?_ _ _).trans ?_

@[simp] theorem State.storeStaged_desk (s : State) (x1 : _) (x2 : _) (x3 : _) : (State.storeStaged s x1 x2 x3).desk = s.desk := by
  unfold State.storeStaged
  repeat' first | with_reducible rfl | with_reducible assumption | intro _ | simp only [State.replaceLayer_desk, State.returnStaging_desk, State.setSlot_desk, State.storeChunk_desk, desk_mk, desk_eta, Iter.state_done, Iter.state_fmt, Iter.state_trap, Whole.state_ran, Whole.state_stopped, Whole.state_denied] | split | with_reducible refine (foldl_desk _ ?_ _ _).trans ?_ | with_reducible refine (foldlB_desk _ ?_ _ _).trans ?_ | with_reducible refine (foldl1_desk _ ?_ _ _).trans ?_ | with_reducible refine (foldl2_desk _ ?_ _ _).trans ?_

@[simp] theorem State.seqAdvance_desk (s : State) (x1 : _) : (State.seqAdvance s x1).desk = s.desk := by
  unfold State.seqAdvance
  repeat' first | with_reducible rfl | with_reducible assumption | intro _ | simp only [State.blocksFrom_desk, State.failInstance_desk, State.freeAfter_desk, State.rootEnd_desk, State.storeStaged_desk, desk_mk, desk_eta, Iter.state_done, Iter.state_fmt, Iter.state_trap, Whole.state_ran, Whole.state_stopped, Whole.state_denied] | split | with_reducible refine (foldl_desk _ ?_ _ _).trans ?_ | with_reducible refine (foldlB_desk _ ?_ _ _).trans ?_ | with_reducible refine (foldl1_desk _ ?_ _ _).trans ?_ | with_reducible refine (foldl2_desk _ ?_ _ _).trans ?_

@[simp] theorem State.mirrorBad_desk (s : State) (x1 : _) : (State.mirrorBad s x1).desk = s.desk := by
  unfold State.mirrorBad
  repeat' first | with_reducible rfl | with_reducible assumption | intro _ | simp only [State.bump_desk, State.failInstance_desk, desk_mk, desk_eta, Iter.state_done, Iter.state_fmt, Iter.state_trap, Whole.state_ran, Whole.state_stopped, Whole.state_denied] | split | with_reducible refine (foldl_desk _ ?_ _ _).trans ?_

@[simp] theorem State.mirrorAccept_desk (s : State) (x1 : _) : (State.mirrorAccept s x1).desk = s.desk := by
  unfold State.mirrorAccept
  repeat' first | with_reducible rfl | with_reducible assumption | intro _ | simp only [State.mirrorBad_desk, State.setSlot_desk, desk_mk, desk_eta, Iter.state_done, Iter.state_fmt, Iter.state_trap, Whole.state_ran, Whole.state_stopped, Whole.state_denied] | split | with_reducible refine (foldl_desk _ ?_ _ _).trans ?_

@[simp] theorem State.releaseMirrors_desk (s : State) (x1 : _) : (State.releaseMirrors s x1).desk = s.desk := by
  unfold State.releaseMirrors
  repeat' first | with_reducible rfl | with_reducible assumption | intro _ | simp only [State.mirrorAccept_desk, desk_mk, desk_eta, Iter.state_done, Iter.state_fmt, Iter.state_trap, Whole.state_ran, Whole.state_stopped, Whole.state_denied] | split | with_reducible refine (foldl_desk _ ?_ _ _).trans ?_ | with_reducible refine (foldlB_desk _ ?_ _ _).trans ?_ | with_reducible refine (foldl1_desk _ ?_ _ _).trans ?_ | with_reducible refine (foldl2_desk _ ?_ _ _).trans ?_

@[simp] theorem State.dispOpen_desk (s : State) (x1 : _) (x2 : _) (x3 : _) : (State.dispOpen s x1 x2 x3).desk = s.desk := by
  unfold State.dispOpen
  repeat' first | with_reducible rfl | with_reducible assumption | intro _ | simp only [State.failInstance_desk, State.fetchObject_desk, State.raise_desk, desk_mk, desk_eta, Iter.state_done, Iter.state_fmt, Iter.state_trap, Whole.state_ran, Whole.state_stopped, Whole.state_denied] | split | with_reducible refine (foldl_desk _ ?_ _ _).trans ?_

@[simp] theorem State.openInstance_desk (s : State) (x1 : _) (x2 : _) (x3 : _) (x4 : _) (x5 : _) : (State.openInstance s x1 x2 x3 x4 x5).desk = s.desk := by
  unfold State.openInstance
  repeat' first | with_reducible rfl | with_reducible assumption | intro _ | simp only [State.acceptRug_desk, State.dispOpen_desk, State.failInstance_desk, State.openSlot_desk, State.releaseMirrors_desk, State.seqOpen_desk, desk_mk, desk_eta, Iter.state_done, Iter.state_fmt, Iter.state_trap, Whole.state_ran, Whole.state_stopped, Whole.state_denied] | split | with_reducible refine (foldl_desk _ ?_ _ _).trans ?_

@[simp] theorem State.takeInbox_desk (s : State) (x1 : _) (x2 : _) : (State.takeInbox s x1 x2).desk = s.desk := by
  unfold State.takeInbox
  repeat' first | with_reducible rfl | with_reducible assumption | intro _ | simp only [desk_mk, desk_eta, Iter.state_done, Iter.state_fmt, Iter.state_trap, Whole.state_ran, Whole.state_stopped, Whole.state_denied] | split | with_reducible refine (foldl_desk _ ?_ _ _).trans ?_

@[simp] theorem State.takeCtrl_desk (s : State) (x1 : _) (x2 : _) : (State.takeCtrl s x1 x2).desk = s.desk := by
  unfold State.takeCtrl
  repeat' first | with_reducible rfl | with_reducible assumption | intro _ | simp only [desk_mk, desk_eta, Iter.state_done, Iter.state_fmt, Iter.state_trap, Whole.state_ran, Whole.state_stopped, Whole.state_denied] | split | with_reducible refine (foldl_desk _ ?_ _ _).trans ?_

@[simp] theorem State.straggle_desk (s : State) (x1 : _) (x2 : _) : (State.straggle s x1 x2).desk = s.desk := by
  unfold State.straggle
  repeat' first | with_reducible rfl | with_reducible assumption | intro _ | simp only [State.fetchObject_desk, desk_mk, desk_eta, Iter.state_done, Iter.state_fmt, Iter.state_trap, Whole.state_ran, Whole.state_stopped, Whole.state_denied] | split | with_reducible refine (foldl_desk _ ?_ _ _).trans ?_

theorem State.takeCredit_desk {s t : State} {h : BitVec 20} {k : Coll} {a : FA} {c : Nat} (e : s.takeCredit h k a c = some t) :
    t.desk = s.desk := by
  simp only [State.takeCredit] at e
  split at e
  · cases e; rfl
  · cases e

@[simp] theorem State.freeChunk_desk (s : State) (x1 : _) (x2 : _) : (State.freeChunk s x1 x2).desk = s.desk := by
  unfold State.freeChunk
  repeat' first | with_reducible rfl | with_reducible assumption | intro _ | simp only [State.returnStaging_desk, desk_mk, desk_eta, Iter.state_done, Iter.state_fmt, Iter.state_trap, Whole.state_ran, Whole.state_stopped, Whole.state_denied] | split | with_reducible refine (foldl_desk _ ?_ _ _).trans ?_ | with_reducible refine (foldlB_desk _ ?_ _ _).trans ?_ | with_reducible refine (foldl1_desk _ ?_ _ _).trans ?_ | with_reducible refine (foldl2_desk _ ?_ _ _).trans ?_

@[simp] theorem State.sendDown_desk (s : State) (x1 : _) (x2 : _) (x3 : _) (x4 : _) (x5 : _) (x6 : _) : (State.sendDown s x1 x2 x3 x4 x5 x6).desk = s.desk := by
  unfold State.sendDown
  repeat' first | with_reducible rfl | with_reducible assumption | intro _ | simp only [State.sendMsg_desk, desk_mk, desk_eta, Iter.state_done, Iter.state_fmt, Iter.state_trap, Whole.state_ran, Whole.state_stopped, Whole.state_denied] | split | with_reducible refine (foldl_desk _ ?_ _ _).trans ?_ | with_reducible refine (foldlB_desk _ ?_ _ _).trans ?_ | with_reducible refine (foldl1_desk _ ?_ _ _).trans ?_ | with_reducible refine (foldl2_desk _ ?_ _ _).trans ?_

@[simp] theorem State.markDown_desk (s : State) (x1 : _) (x2 : _) : (State.markDown s x1 x2).desk = s.desk := by
  unfold State.markDown
  repeat' first | with_reducible rfl | with_reducible assumption | intro _ | simp only [State.modSlot_desk, desk_mk, desk_eta, Iter.state_done, Iter.state_fmt, Iter.state_trap, Whole.state_ran, Whole.state_stopped, Whole.state_denied] | split | with_reducible refine (foldl_desk _ ?_ _ _).trans ?_

@[simp] theorem State.advance_desk (s : State) (x1 : _) : (State.advance s x1).desk = s.desk := by
  unfold State.advance
  repeat' first | with_reducible rfl | with_reducible assumption | intro _ | simp only [State.failInstance_desk, State.maybeClose_desk, State.rootEnd_desk, desk_mk, desk_eta, Iter.state_done, Iter.state_fmt, Iter.state_trap, Whole.state_ran, Whole.state_stopped, Whole.state_denied] | split | with_reducible refine (foldl_desk _ ?_ _ _).trans ?_ | with_reducible refine (foldlB_desk _ ?_ _ _).trans ?_ | with_reducible refine (foldl1_desk _ ?_ _ _).trans ?_ | with_reducible refine (foldl2_desk _ ?_ _ _).trans ?_

@[simp] theorem State.settleNorm_desk (s : State) : (State.settleNorm s).desk = s.desk := by
  unfold State.settleNorm
  repeat' first | with_reducible rfl | with_reducible assumption | intro _ | simp only [State.failInstance_desk, desk_mk, desk_eta, Iter.state_done, Iter.state_fmt, Iter.state_trap, Whole.state_ran, Whole.state_stopped, Whole.state_denied] | split | with_reducible refine (foldl_desk _ ?_ _ _).trans ?_ | with_reducible refine (foldlB_desk _ ?_ _ _).trans ?_ | with_reducible refine (foldl1_desk _ ?_ _ _).trans ?_ | with_reducible refine (foldl2_desk _ ?_ _ _).trans ?_

@[simp] theorem State.settle_desk (s : State) : (State.settle s).desk = s.desk := by
  unfold State.settle
  repeat' first | with_reducible rfl | with_reducible assumption | intro _ | simp only [State.seqAdvance_desk, State.settleNorm_desk, desk_mk, desk_eta, Iter.state_done, Iter.state_fmt, Iter.state_trap, Whole.state_ran, Whole.state_stopped, Whole.state_denied] | split | with_reducible refine (foldl_desk _ ?_ _ _).trans ?_ | with_reducible refine (foldlB_desk _ ?_ _ _).trans ?_ | with_reducible refine (foldl1_desk _ ?_ _ _).trans ?_ | with_reducible refine (foldl2_desk _ ?_ _ _).trans ?_

@[simp] theorem State.after_desk (s : State) (x1 : _) : (State.after s x1).desk = s.desk := by
  unfold State.after
  repeat' first | with_reducible rfl | with_reducible assumption | intro _ | simp only [State.advance_desk, State.settle_desk, desk_mk, desk_eta, Iter.state_done, Iter.state_fmt, Iter.state_trap, Whole.state_ran, Whole.state_stopped, Whole.state_denied] | split | with_reducible refine (foldl_desk _ ?_ _ _).trans ?_

@[simp] theorem State.absentDown_desk (s : State) (x1 : _) : (State.absentDown s x1).desk = s.desk := by
  unfold State.absentDown
  repeat' first | with_reducible rfl | with_reducible assumption | intro _ | simp only [State.markDown_desk, State.modSlot_desk, State.sendDown_desk, desk_mk, desk_eta, Iter.state_done, Iter.state_fmt, Iter.state_trap, Whole.state_ran, Whole.state_stopped, Whole.state_denied] | split | with_reducible refine (foldl_desk _ ?_ _ _).trans ?_ | with_reducible refine (foldlB_desk _ ?_ _ _).trans ?_ | with_reducible refine (foldl1_desk _ ?_ _ _).trans ?_ | with_reducible refine (foldl2_desk _ ?_ _ _).trans ?_

@[simp] theorem State.addToken_desk (s : State) (x1 : _) (x2 : _) (x3 : _) : (State.addToken s x1 x2 x3).desk = s.desk := by
  unfold State.addToken
  repeat' first | with_reducible rfl | with_reducible assumption | intro _ | simp only [State.bump_desk, desk_mk, desk_eta, Iter.state_done, Iter.state_fmt, Iter.state_trap, Whole.state_ran, Whole.state_stopped, Whole.state_denied] | split | with_reducible refine (foldl_desk _ ?_ _ _).trans ?_

@[simp] theorem State.resFetch_desk (s : State) (x1 : _) (x2 : _) (x3 : _) (x4 : _) : (State.resFetch s x1 x2 x3 x4).desk = s.desk := by
  unfold State.resFetch
  repeat' first | with_reducible rfl | with_reducible assumption | intro _ | simp only [State.fetchPlace_desk, desk_mk, desk_eta, Iter.state_done, Iter.state_fmt, Iter.state_trap, Whole.state_ran, Whole.state_stopped, Whole.state_denied] | split | with_reducible refine (foldl_desk _ ?_ _ _).trans ?_ | with_reducible refine (foldlB_desk _ ?_ _ _).trans ?_ | with_reducible refine (foldl1_desk _ ?_ _ _).trans ?_ | with_reducible refine (foldl2_desk _ ?_ _ _).trans ?_

@[simp] theorem State.writeResH_desk (s : State) (x1 : _) (x2 : _) (x3 : _) (x4 : _) (x5 : _) (x6 : _) (x7 : _) : (State.writeResH s x1 x2 x3 x4 x5 x6 x7).desk = s.desk := by
  unfold State.writeResH
  repeat' first | with_reducible rfl | with_reducible assumption | intro _ | simp only [State.addToken_desk, State.putWalk_desk, desk_mk, desk_eta, Iter.state_done, Iter.state_fmt, Iter.state_trap, Whole.state_ran, Whole.state_stopped, Whole.state_denied] | split | with_reducible refine (foldl_desk _ ?_ _ _).trans ?_ | with_reducible refine (foldlB_desk _ ?_ _ _).trans ?_ | with_reducible refine (foldl1_desk _ ?_ _ _).trans ?_ | with_reducible refine (foldl2_desk _ ?_ _ _).trans ?_

@[simp] theorem State.openFor_desk (s : State) (x1 : _) (x2 : _) (x3 : _) (x4 : _) (x5 : _) : (State.openFor s x1 x2 x3 x4 x5).desk = s.desk := by
  unfold State.openFor
  repeat' first | with_reducible rfl | with_reducible assumption | intro _ | simp only [State.absentDown_desk, State.openInstance_desk, desk_mk, desk_eta, Iter.state_done, Iter.state_fmt, Iter.state_trap, Whole.state_ran, Whole.state_stopped, Whole.state_denied] | split | with_reducible refine (foldl_desk _ ?_ _ _).trans ?_

theorem enter_desk (s : State) (m : Msg) (k : Plan → Slot → State → State) (h : ∀ p v t, (k p v t).desk = t.desk) :
    (s.enter m k).desk = s.desk := by
  unfold State.enter
  repeat' first | with_reducible rfl | simp only [h, State.takeInbox_desk, State.bump_desk, State.mismatch_desk, State.openFor_desk, State.failInstance_desk, desk_mk, desk_eta] | split

@[simp] theorem State.modNorm_desk (s : State) (x1 : _) (x2 : _) (x3 : _) : (State.modNorm s x1 x2 x3).desk = s.desk := by
  unfold State.modNorm
  repeat' first | with_reducible rfl | with_reducible assumption | intro _ | simp only [desk_mk, desk_eta, Iter.state_done, Iter.state_fmt, Iter.state_trap, Whole.state_ran, Whole.state_stopped, Whole.state_denied] | split | with_reducible refine (foldl_desk _ ?_ _ _).trans ?_

@[simp] theorem State.normKnown_desk (s : State) (x1 : _) (x2 : _) (x3 : _) : (State.normKnown s x1 x2 x3).desk = s.desk := by
  unfold State.normKnown
  repeat' first | with_reducible rfl | with_reducible assumption | intro _ | simp only [State.bump_desk, State.modNorm_desk, State.raise_desk, desk_mk, desk_eta, Iter.state_done, Iter.state_fmt, Iter.state_trap, Whole.state_ran, Whole.state_stopped, Whole.state_denied] | split | with_reducible refine (foldl_desk _ ?_ _ _).trans ?_

@[simp] theorem State.normForward_desk (s : State) (x1 : _) (x2 : _) (x3 : _) : (State.normForward s x1 x2 x3).desk = s.desk := by
  unfold State.normForward
  repeat' first | with_reducible rfl | with_reducible assumption | intro _ | simp only [State.sendCtrl_desk, desk_mk, desk_eta, Iter.state_done, Iter.state_fmt, Iter.state_trap, Whole.state_ran, Whole.state_stopped, Whole.state_denied] | split | with_reducible refine (foldl_desk _ ?_ _ _).trans ?_

@[simp] theorem State.resultEffect_desk (s : State) (x1 : _) (x2 : _) (x3 : _) (x4 : _) : (State.resultEffect s x1 x2 x3 x4).desk = s.desk := by
  unfold State.resultEffect
  repeat' first | with_reducible rfl | with_reducible assumption | intro _ | simp only [State.barrierResult_desk, State.normForward_desk, State.normKnown_desk, desk_mk, desk_eta, Iter.state_done, Iter.state_fmt, Iter.state_trap, Whole.state_ran, Whole.state_stopped, Whole.state_denied] | split | with_reducible refine (foldl_desk _ ?_ _ _).trans ?_

@[simp] theorem State.gatherFrom_desk (s : State) (x1 : _) (x2 : _) (x3 : _) (x4 : _) : (State.gatherFrom s x1 x2 x3 x4).desk = s.desk := by
  unfold State.gatherFrom
  repeat' first | with_reducible rfl | with_reducible assumption | intro _ | simp only [State.markDown_desk, State.modSlot_desk, State.returnStaging_desk, State.sendDown_desk, desk_mk, desk_eta, Iter.state_done, Iter.state_fmt, Iter.state_trap, Whole.state_ran, Whole.state_stopped, Whole.state_denied] | split | with_reducible refine (foldl_desk _ ?_ _ _).trans ?_

@[simp] theorem State.orderedUp_desk (s : State) (x1 : _) (x2 : _) (x3 : _) (x4 : _) (x5 : _) (x6 : _) : (State.orderedUp s x1 x2 x3 x4 x5 x6).desk = s.desk := by
  unfold State.orderedUp
  repeat' first | with_reducible rfl | with_reducible assumption | intro _ | simp only [State.returnStaging_desk, State.sendFirst_desk, desk_mk, desk_eta, Iter.state_done, Iter.state_fmt, Iter.state_trap, Whole.state_ran, Whole.state_stopped, Whole.state_denied] | split | with_reducible refine (foldl_desk _ ?_ _ _).trans ?_

@[simp] theorem State.stageContrib_desk (s : State) (x1 : _) (x2 : _) (x3 : _) (x4 : _) (x5 : _) : (State.stageContrib s x1 x2 x3 x4 x5).desk = s.desk := by
  unfold State.stageContrib
  repeat' first | with_reducible rfl | with_reducible assumption | intro _ | simp only [State.after_desk, State.bump_desk, State.gatherFrom_desk, State.modSlot_desk, State.orderedUp_desk, desk_mk, desk_eta, Iter.state_done, Iter.state_fmt, Iter.state_trap, Whole.state_ran, Whole.state_stopped, Whole.state_denied] | with_reducible refine (State.takeCredit_desk (by assumption)).trans ?_ | split | with_reducible refine (foldl_desk _ ?_ _ _).trans ?_

theorem execContribReceive_desk {s t : State} {x0 : Sys2Proof.Msg} (h : execContribReceive x0 s = .next t) : t.desk = s.desk := by
  simp only [execContribReceive, Host.Outcome.next.injEq] at h
  subst h
  repeat' first | with_reducible rfl | with_reducible assumption | intro _ | simp only [State.mismatch_desk, State.stageContrib_desk, desk_mk, desk_eta, Iter.state_done, Iter.state_fmt, Iter.state_trap, Whole.state_ran, Whole.state_stopped, Whole.state_denied] | split | with_reducible refine (foldl_desk _ ?_ _ _).trans ?_ | with_reducible refine (enter_desk _ _ _ ?_).trans ?_

theorem execExpsReceive_desk {s t : State} {x0 : Sys2Proof.Msg} (h : execExpsReceive x0 s = .next t) : t.desk = s.desk := by
  simp only [execExpsReceive, Host.Outcome.next.injEq] at h
  subst h
  repeat' first | with_reducible rfl | with_reducible assumption | intro _ | simp only [State.bump_desk, State.mismatch_desk, State.modSlot_desk, State.setSlot_desk, desk_mk, desk_eta, Iter.state_done, Iter.state_fmt, Iter.state_trap, Whole.state_ran, Whole.state_stopped, Whole.state_denied] | with_reducible refine (State.takeCredit_desk (by assumption)).trans ?_ | split | with_reducible refine (foldl_desk _ ?_ _ _).trans ?_ | with_reducible refine (enter_desk _ _ _ ?_).trans ?_

@[simp] theorem State.expsRound_desk (s : State) (x1 : _) (x2 : _) (x3 : _) (x4 : _) (x5 : _) : (State.expsRound s x1 x2 x3 x4 x5).desk = s.desk := by
  unfold State.expsRound
  repeat' first | with_reducible rfl | with_reducible assumption | intro _ | simp only [State.modSlot_desk, State.sendFirst_desk, State.sendMsg_desk, State.straggle_desk, desk_mk, desk_eta, Iter.state_done, Iter.state_fmt, Iter.state_trap, Whole.state_ran, Whole.state_stopped, Whole.state_denied] | split | with_reducible refine (foldl_desk _ ?_ _ _).trans ?_ | with_reducible refine (foldlB_desk _ ?_ _ _).trans ?_ | with_reducible refine (foldl1_desk _ ?_ _ _).trans ?_ | with_reducible refine (foldl2_desk _ ?_ _ _).trans ?_

theorem execExpsSend_desk {s t : State} {x0 : BitVec 20} {x1 : Nat} (h : execExpsSend x0 x1 s = .next t) : t.desk = s.desk := by
  simp only [execExpsSend, Host.Outcome.next.injEq] at h
  subst h
  repeat' first | with_reducible rfl | with_reducible assumption | intro _ | simp only [State.expsRound_desk, desk_mk, desk_eta, Iter.state_done, Iter.state_fmt, Iter.state_trap, Whole.state_ran, Whole.state_stopped, Whole.state_denied] | split | with_reducible refine (foldl_desk _ ?_ _ _).trans ?_

theorem execMaxeReceive_desk {s t : State} {x0 : Sys2Proof.Msg} (h : execMaxeReceive x0 s = .next t) : t.desk = s.desk := by
  simp only [execMaxeReceive, Host.Outcome.next.injEq] at h
  subst h
  repeat' first | with_reducible rfl | with_reducible assumption | intro _ | simp only [State.mismatch_desk, State.modSlot_desk, State.sendMsg_desk, desk_mk, desk_eta, Iter.state_done, Iter.state_fmt, Iter.state_trap, Whole.state_ran, Whole.state_stopped, Whole.state_denied] | split | with_reducible refine (foldl_desk _ ?_ _ _).trans ?_ | with_reducible refine (enter_desk _ _ _ ?_).trans ?_ | with_reducible refine (foldlB_desk _ ?_ _ _).trans ?_ | with_reducible refine (foldl1_desk _ ?_ _ _).trans ?_ | with_reducible refine (foldl2_desk _ ?_ _ _).trans ?_

theorem execPsumReceive_desk {s t : State} {x0 : Sys2Proof.Msg} (h : execPsumReceive x0 s = .next t) : t.desk = s.desk := by
  simp only [execPsumReceive, Host.Outcome.next.injEq] at h
  subst h
  repeat' first | with_reducible rfl | with_reducible assumption | intro _ | simp only [State.bump_desk, State.mismatch_desk, State.modSlot_desk, desk_mk, desk_eta, Iter.state_done, Iter.state_fmt, Iter.state_trap, Whole.state_ran, Whole.state_stopped, Whole.state_denied] | with_reducible refine (State.takeCredit_desk (by assumption)).trans ?_ | split | with_reducible refine (foldl_desk _ ?_ _ _).trans ?_ | with_reducible refine (enter_desk _ _ _ ?_).trans ?_

theorem execPsumSend_desk {s t : State} {x0 : BitVec 20} {x1 : Nat} (h : execPsumSend x0 x1 s = .next t) : t.desk = s.desk := by
  simp only [execPsumSend, Host.Outcome.next.injEq] at h
  subst h
  repeat' first | with_reducible rfl | with_reducible assumption | intro _ | simp only [State.bump_desk, State.freeChunk_desk, State.modSlot_desk, State.sendFirst_desk, State.sendMsg_desk, desk_mk, desk_eta, Iter.state_done, Iter.state_fmt, Iter.state_trap, Whole.state_ran, Whole.state_stopped, Whole.state_denied] | split | with_reducible refine (foldl_desk _ ?_ _ _).trans ?_

@[simp] theorem State.park_desk (s : State) (x1 : _) (x2 : _) (x3 : _) (x4 : _) : (State.park s x1 x2 x3 x4).desk = s.desk := by
  unfold State.park
  repeat' first | with_reducible rfl | with_reducible assumption | intro _ | simp only [State.fetchEdges_desk, State.modSlot_desk, State.stateWrite_desk, desk_mk, desk_eta, Iter.state_done, Iter.state_fmt, Iter.state_trap, Whole.state_ran, Whole.state_stopped, Whole.state_denied] | split | with_reducible refine (foldl_desk _ ?_ _ _).trans ?_

@[simp] theorem State.rugFormed_desk (s : State) (x1 : _) (x2 : _) (x3 : _) (x4 : _) (x5 : _) : (State.rugFormed s x1 x2 x3 x4 x5).desk = s.desk := by
  unfold State.rugFormed
  repeat' first | with_reducible rfl | with_reducible assumption | intro _ | simp only [State.failInstance_desk, State.park_desk, State.sendMessage_desk, State.setSlot_desk, desk_mk, desk_eta, Iter.state_done, Iter.state_fmt, Iter.state_trap, Whole.state_ran, Whole.state_stopped, Whole.state_denied] | split | with_reducible refine (foldl_desk _ ?_ _ _).trans ?_

@[simp] theorem State.formFetch_desk (s : State) (x1 : _) (x2 : _) : (State.formFetch s x1 x2).desk = s.desk := by
  unfold State.formFetch
  repeat' first | with_reducible rfl | with_reducible assumption | intro _ | simp only [State.fetchAll_desk, State.resFetch_desk, desk_mk, desk_eta, Iter.state_done, Iter.state_fmt, Iter.state_trap, Whole.state_ran, Whole.state_stopped, Whole.state_denied] | split | with_reducible refine (foldl_desk _ ?_ _ _).trans ?_

theorem execFoldResultForm_desk {s t : State} {x0 : BitVec 20} {x1 : Nat} (h : execFoldResultForm x0 x1 s = .next t) : t.desk = s.desk := by
  simp only [execFoldResultForm, Host.Outcome.next.injEq] at h
  subst h
  repeat' first | with_reducible rfl | with_reducible assumption | intro _ | simp only [State.after_desk, State.bump_desk, State.formFetch_desk, State.freeChunk_desk, State.markDown_desk, State.modSlot_desk, State.resultEffect_desk, State.rugFormed_desk, State.sendDown_desk, State.settle_desk, State.straggle_desk, State.writeResH_desk, desk_mk, desk_eta, Iter.state_done, Iter.state_fmt, Iter.state_trap, Whole.state_ran, Whole.state_stopped, Whole.state_denied] | split | with_reducible refine (foldl_desk _ ?_ _ _).trans ?_

theorem execResultReceive_desk {s t : State} {x0 : Sys2Proof.Msg} (h : execResultReceive x0 s = .next t) : t.desk = s.desk := by
  simp only [execResultReceive, Host.Outcome.next.injEq] at h
  subst h
  repeat' first | with_reducible rfl | with_reducible assumption | intro _ | simp only [State.after_desk, State.markDown_desk, State.mismatch_desk, State.resultEffect_desk, State.sendDown_desk, desk_mk, desk_eta, Iter.state_done, Iter.state_fmt, Iter.state_trap, Whole.state_ran, Whole.state_stopped, Whole.state_denied] | split | with_reducible refine (foldl_desk _ ?_ _ _).trans ?_ | with_reducible refine (enter_desk _ _ _ ?_).trans ?_

@[simp] theorem State.endOn_desk (s : State) (x1 : _) (x2 : _) (x3 : _) (x4 : _) (x5 : _) : (State.endOn s x1 x2 x3 x4 x5).desk = s.desk := by
  unfold State.endOn
  repeat' first | with_reducible rfl | with_reducible assumption | intro _ | simp only [State.endDown_desk, desk_mk, desk_eta, Iter.state_done, Iter.state_fmt, Iter.state_trap, Whole.state_ran, Whole.state_stopped, Whole.state_denied] | split | with_reducible refine (foldl_desk _ ?_ _ _).trans ?_

@[simp] theorem State.endFail_desk (s : State) (x1 : _) (x2 : _) (x3 : _) (x4 : _) (x5 : _) : (State.endFail s x1 x2 x3 x4 x5).desk = s.desk := by
  unfold State.endFail
  repeat' first | with_reducible rfl | with_reducible assumption | intro _ | simp only [State.closeSlot_desk, State.endDown_desk, State.endOn_desk, desk_mk, desk_eta, Iter.state_done, Iter.state_fmt, Iter.state_trap, Whole.state_ran, Whole.state_stopped, Whole.state_denied] | split | with_reducible refine (foldl_desk _ ?_ _ _).trans ?_ | with_reducible refine (foldlB_desk _ ?_ _ _).trans ?_ | with_reducible refine (foldl1_desk _ ?_ _ _).trans ?_ | with_reducible refine (foldl2_desk _ ?_ _ _).trans ?_

@[simp] theorem State.endOpen_desk (s : State) (x1 : _) (x2 : _) (x3 : _) (x4 : _) : (State.endOpen s x1 x2 x3 x4).desk = s.desk := by
  unfold State.endOpen
  repeat' first | with_reducible rfl | with_reducible assumption | intro _ | simp only [State.endFail_desk, State.endOn_desk, State.maybeClose_desk, State.modSlot_desk, desk_mk, desk_eta, Iter.state_done, Iter.state_fmt, Iter.state_trap, Whole.state_ran, Whole.state_stopped, Whole.state_denied] | split | with_reducible refine (foldl_desk _ ?_ _ _).trans ?_

@[simp] theorem State.endFresh_desk (s : State) (x1 : _) (x2 : _) (x3 : _) (x4 : _) : (State.endFresh s x1 x2 x3 x4).desk = s.desk := by
  unfold State.endFresh
  repeat' first | with_reducible rfl | with_reducible assumption | intro _ | simp only [State.endFail_desk, State.modSlot_desk, State.openSlot_desk, desk_mk, desk_eta, Iter.state_done, Iter.state_fmt, Iter.state_trap, Whole.state_ran, Whole.state_stopped, Whole.state_denied] | split | with_reducible refine (foldl_desk _ ?_ _ _).trans ?_

@[simp] theorem State.endNoted_desk (s : State) (x1 : _) (x2 : _) (x3 : _) (x4 : _) : (State.endNoted s x1 x2 x3 x4).desk = s.desk := by
  unfold State.endNoted
  repeat' first | with_reducible rfl | with_reducible assumption | intro _ | simp only [State.modSlot_desk, State.noteStatus_desk, desk_mk, desk_eta, Iter.state_done, Iter.state_fmt, Iter.state_trap, Whole.state_ran, Whole.state_stopped, Whole.state_denied] | split | with_reducible refine (foldl_desk _ ?_ _ _).trans ?_

@[simp] theorem State.endMatched_desk (s : State) (x1 : _) (x2 : _) (x3 : _) (x4 : _) : (State.endMatched s x1 x2 x3 x4).desk = s.desk := by
  unfold State.endMatched
  repeat' first | with_reducible rfl | with_reducible assumption | intro _ | simp only [State.endNoted_desk, State.endOpen_desk, State.failInstance_desk, desk_mk, desk_eta, Iter.state_done, Iter.state_fmt, Iter.state_trap, Whole.state_ran, Whole.state_stopped, Whole.state_denied] | split | with_reducible refine (foldl_desk _ ?_ _ _).trans ?_

theorem execEndReceive_desk {s t : State} {x0 : Sys2Proof.Msg} (h : execEndReceive x0 s = .next t) : t.desk = s.desk := by
  simp only [execEndReceive, Host.Outcome.next.injEq] at h
  subst h
  repeat' first | with_reducible rfl | with_reducible assumption | intro _ | simp only [State.bump_desk, State.endFresh_desk, State.endMatched_desk, State.endNoted_desk, State.mismatch_desk, State.settle_desk, State.takeInbox_desk, desk_mk, desk_eta, Iter.state_done, Iter.state_fmt, Iter.state_trap, Whole.state_ran, Whole.state_stopped, Whole.state_denied] | split | with_reducible refine (foldl_desk _ ?_ _ _).trans ?_

@[simp] theorem State.sendParts_desk (s : State) (x1 : _) (x2 : _) (x3 : _) (x4 : _) (x5 : _) (x6 : _) : (State.sendParts s x1 x2 x3 x4 x5 x6).desk = s.desk := by
  unfold State.sendParts
  repeat' first | with_reducible rfl | with_reducible assumption | intro _ | simp only [State.sendMsg_desk, desk_mk, desk_eta, Iter.state_done, Iter.state_fmt, Iter.state_trap, Whole.state_ran, Whole.state_stopped, Whole.state_denied] | split | with_reducible refine (foldl_desk _ ?_ _ _).trans ?_ | with_reducible refine (foldlB_desk _ ?_ _ _).trans ?_ | with_reducible refine (foldl1_desk _ ?_ _ _).trans ?_ | with_reducible refine (foldl2_desk _ ?_ _ _).trans ?_

@[simp] theorem State.setDisp_desk (s : State) (x1 : _) (x2 : _) : (State.setDisp s x1 x2).desk = s.desk := by
  unfold State.setDisp
  repeat' first | with_reducible rfl | with_reducible assumption | intro _ | simp only [desk_mk, desk_eta, Iter.state_done, Iter.state_fmt, Iter.state_trap, Whole.state_ran, Whole.state_stopped, Whole.state_denied] | split | with_reducible refine (foldl_desk _ ?_ _ _).trans ?_

@[simp] theorem State.routerFetch_desk (s : State) (x1 : _) : (State.routerFetch s x1).desk = s.desk := by
  unfold State.routerFetch
  repeat' first | with_reducible rfl | with_reducible assumption | intro _ | simp only [State.fetchPlace_desk, desk_mk, desk_eta, Iter.state_done, Iter.state_fmt, Iter.state_trap, Whole.state_ran, Whole.state_stopped, Whole.state_denied] | split | with_reducible refine (foldl_desk _ ?_ _ _).trans ?_ | with_reducible refine (foldlB_desk _ ?_ _ _).trans ?_ | with_reducible refine (foldl1_desk _ ?_ _ _).trans ?_ | with_reducible refine (foldl2_desk _ ?_ _ _).trans ?_

@[simp] theorem State.dispCounts_desk (s : State) (x1 : _) (x2 : _) (x3 : _) (x4 : _) : (State.dispCounts s x1 x2 x3 x4).desk = s.desk := by
  unfold State.dispCounts
  repeat' first | with_reducible rfl | with_reducible assumption | intro _ | simp only [State.bump_desk, State.failInstance_desk, State.routerFetch_desk, State.sendParts_desk, State.setDisp_desk, desk_mk, desk_eta, Iter.state_done, Iter.state_fmt, Iter.state_trap, Whole.state_ran, Whole.state_stopped, Whole.state_denied] | split | with_reducible refine (foldl_desk _ ?_ _ _).trans ?_ | with_reducible refine (foldlB_desk _ ?_ _ _).trans ?_ | with_reducible refine (foldl1_desk _ ?_ _ _).trans ?_ | with_reducible refine (foldl2_desk _ ?_ _ _).trans ?_

@[simp] theorem State.dispLoads_desk (s : State) (x1 : _) (x2 : _) (x3 : _) : (State.dispLoads s x1 x2 x3).2.desk = s.desk := by
  unfold State.dispLoads
  repeat' first | with_reducible rfl | with_reducible assumption | intro _ | simp only [State.bump_desk, desk_mk, desk_eta, Iter.state_done, Iter.state_fmt, Iter.state_trap, Whole.state_ran, Whole.state_stopped, Whole.state_denied] | split | with_reducible refine (foldl_desk _ ?_ _ _).trans ?_ | with_reducible refine (foldlB_desk _ ?_ _ _).trans ?_ | with_reducible refine (foldl1_desk _ ?_ _ _).trans ?_ | with_reducible refine (foldl2_desk _ ?_ _ _).trans ?_

@[simp] theorem State.dispGrants_desk (s : State) (x1 : _) (x2 : _) (x3 : _) (x4 : _) : (State.dispGrants s x1 x2 x3 x4).desk = s.desk := by
  unfold State.dispGrants
  repeat' first | with_reducible rfl | with_reducible assumption | intro _ | simp only [State.dispLoads_desk, State.sendParts_desk, State.setDisp_desk, desk_mk, desk_eta, Iter.state_done, Iter.state_fmt, Iter.state_trap, Whole.state_ran, Whole.state_stopped, Whole.state_denied] | split | with_reducible refine (foldl_desk _ ?_ _ _).trans ?_ | with_reducible refine (foldlB_desk _ ?_ _ _).trans ?_ | with_reducible refine (foldl1_desk _ ?_ _ _).trans ?_ | with_reducible refine (foldl2_desk _ ?_ _ _).trans ?_

@[simp] theorem State.dispRowsTo_desk (s : State) (x1 : _) (x2 : _) (x3 : _) (x4 : _) (x5 : _) (x6 : _) : (State.dispRowsTo s x1 x2 x3 x4 x5 x6).desk = s.desk := by
  unfold State.dispRowsTo
  repeat' first | with_reducible rfl | with_reducible assumption | intro _ | simp only [State.sendParts_desk, State.setDisp_desk, desk_mk, desk_eta, Iter.state_done, Iter.state_fmt, Iter.state_trap, Whole.state_ran, Whole.state_stopped, Whole.state_denied] | split | with_reducible refine (foldl_desk _ ?_ _ _).trans ?_

@[simp] theorem State.dispRows_desk (s : State) (x1 : _) (x2 : _) (x3 : _) (x4 : _) : (State.dispRows s x1 x2 x3 x4).desk = s.desk := by
  unfold State.dispRows
  repeat' first | with_reducible rfl | with_reducible assumption | intro _ | simp only [State.bump_desk, State.dispRowsTo_desk, State.setDisp_desk, desk_mk, desk_eta, Iter.state_done, Iter.state_fmt, Iter.state_trap, Whole.state_ran, Whole.state_stopped, Whole.state_denied] | split | with_reducible refine (foldl_desk _ ?_ _ _).trans ?_ | with_reducible refine (foldlB_desk _ ?_ _ _).trans ?_ | with_reducible refine (foldl1_desk _ ?_ _ _).trans ?_ | with_reducible refine (foldl2_desk _ ?_ _ _).trans ?_

@[simp] theorem State.dispDeliver_desk (s : State) (x1 : _) (x2 : _) (x3 : _) (x4 : _) (x5 : _) (x6 : _) (x7 : _) : (State.dispDeliver s x1 x2 x3 x4 x5 x6 x7).desk = s.desk := by
  unfold State.dispDeliver
  repeat' first | with_reducible rfl | with_reducible assumption | intro _ | simp only [State.sendParts_desk, State.setDisp_desk, desk_mk, desk_eta, Iter.state_done, Iter.state_fmt, Iter.state_trap, Whole.state_ran, Whole.state_stopped, Whole.state_denied] | split | with_reducible refine (foldl_desk _ ?_ _ _).trans ?_

@[simp] theorem State.bwdRows_desk (s : State) (x1 : _) (x2 : _) (x3 : _) (x4 : _) : (State.bwdRows s x1 x2 x3 x4).desk = s.desk := by
  unfold State.bwdRows
  repeat' first | with_reducible rfl | with_reducible assumption | intro _ | simp only [State.bump_desk, State.dispRowsTo_desk, State.setDisp_desk, desk_mk, desk_eta, Iter.state_done, Iter.state_fmt, Iter.state_trap, Whole.state_ran, Whole.state_stopped, Whole.state_denied] | split | with_reducible refine (foldl_desk _ ?_ _ _).trans ?_ | with_reducible refine (foldlB_desk _ ?_ _ _).trans ?_ | with_reducible refine (foldl1_desk _ ?_ _ _).trans ?_ | with_reducible refine (foldl2_desk _ ?_ _ _).trans ?_

@[simp] theorem State.returnRows_desk (s : State) (x1 : _) (x2 : _) (x3 : _) (x4 : _) : (State.returnRows s x1 x2 x3 x4).desk = s.desk := by
  unfold State.returnRows
  repeat' first | with_reducible rfl | with_reducible assumption | intro _ | simp only [State.sendParts_desk, State.setDisp_desk, desk_mk, desk_eta, Iter.state_done, Iter.state_fmt, Iter.state_trap, Whole.state_ran, Whole.state_stopped, Whole.state_denied] | split | with_reducible refine (foldl_desk _ ?_ _ _).trans ?_ | with_reducible refine (foldlB_desk _ ?_ _ _).trans ?_ | with_reducible refine (foldl1_desk _ ?_ _ _).trans ?_ | with_reducible refine (foldl2_desk _ ?_ _ _).trans ?_

@[simp] theorem State.combine_desk (s : State) (x1 : _) (x2 : _) (x3 : _) (x4 : _) : (State.combine s x1 x2 x3 x4).desk = s.desk := by
  unfold State.combine
  repeat' first | with_reducible rfl | with_reducible assumption | intro _ | simp only [State.bump_desk, State.sendParts_desk, State.setDisp_desk, desk_mk, desk_eta, Iter.state_done, Iter.state_fmt, Iter.state_trap, Whole.state_ran, Whole.state_stopped, Whole.state_denied] | split | with_reducible refine (foldl_desk _ ?_ _ _).trans ?_

@[simp] theorem State.dispHostLost_desk (s : State) (x1 : _) (x2 : _) (x3 : _) (x4 : _) : (State.dispHostLost s x1 x2 x3 x4).desk = s.desk := by
  unfold State.dispHostLost
  repeat' first | with_reducible rfl | with_reducible assumption | intro _ | simp only [State.bump_desk, State.setDisp_desk, desk_mk, desk_eta, Iter.state_done, Iter.state_fmt, Iter.state_trap, Whole.state_ran, Whole.state_stopped, Whole.state_denied] | split | with_reducible refine (foldl_desk _ ?_ _ _).trans ?_

@[simp] theorem State.dispAdvance_desk (s : State) (x1 : _) (x2 : _) (x3 : _) : (State.dispAdvance s x1 x2 x3).desk = s.desk := by
  unfold State.dispAdvance
  repeat' first | with_reducible rfl | with_reducible assumption | intro _ | simp only [State.bwdRows_desk, State.combine_desk, State.dispCounts_desk, State.dispDeliver_desk, State.dispGrants_desk, State.dispHostLost_desk, State.dispRows_desk, State.returnRows_desk, desk_mk, desk_eta, Iter.state_done, Iter.state_fmt, Iter.state_trap, Whole.state_ran, Whole.state_stopped, Whole.state_denied] | split | with_reducible refine (foldl_desk _ ?_ _ _).trans ?_ | with_reducible refine (foldlB_desk _ ?_ _ _).trans ?_ | with_reducible refine (foldl1_desk _ ?_ _ _).trans ?_ | with_reducible refine (foldl2_desk _ ?_ _ _).trans ?_

@[simp] theorem State.setSparse_desk (s : State) (x1 : _) (x2 : _) : (State.setSparse s x1 x2).desk = s.desk := by
  unfold State.setSparse
  repeat' first | with_reducible rfl | with_reducible assumption | intro _ | simp only [desk_mk, desk_eta, Iter.state_done, Iter.state_fmt, Iter.state_trap, Whole.state_ran, Whole.state_stopped, Whole.state_denied] | split | with_reducible refine (foldl_desk _ ?_ _ _).trans ?_

@[simp] theorem State.pass1_desk (s : State) (x1 : _) (x2 : _) (x3 : _) (x4 : _) (x5 : _) : (State.pass1 s x1 x2 x3 x4 x5).desk = s.desk := by
  unfold State.pass1
  repeat' first | with_reducible rfl | with_reducible assumption | intro _ | simp only [State.bump_desk, State.failInstance_desk, State.setSparse_desk, desk_mk, desk_eta, Iter.state_done, Iter.state_fmt, Iter.state_trap, Whole.state_ran, Whole.state_stopped, Whole.state_denied] | split | with_reducible refine (foldl_desk _ ?_ _ _).trans ?_

@[simp] theorem State.pass1All_desk (s : State) (x1 : _) (x2 : _) (x3 : _) (x4 : _) : (State.pass1All s x1 x2 x3 x4).desk = s.desk := by
  unfold State.pass1All
  repeat' first | with_reducible rfl | with_reducible assumption | intro _ | simp only [State.pass1_desk, desk_mk, desk_eta, Iter.state_done, Iter.state_fmt, Iter.state_trap, Whole.state_ran, Whole.state_stopped, Whole.state_denied] | split | with_reducible refine (foldl_desk _ ?_ _ _).trans ?_ | with_reducible refine (foldlB_desk _ ?_ _ _).trans ?_ | with_reducible refine (foldl1_desk _ ?_ _ _).trans ?_ | with_reducible refine (foldl2_desk _ ?_ _ _).trans ?_

@[simp] theorem State.pass2_desk (s : State) (x1 : _) (x2 : _) (x3 : _) (x4 : _) : (State.pass2 s x1 x2 x3 x4).desk = s.desk := by
  unfold State.pass2
  repeat' first | with_reducible rfl | with_reducible assumption | intro _ | simp only [State.bump_desk, State.putWalk_desk, State.sendParts_desk, State.setSparse_desk, desk_mk, desk_eta, Iter.state_done, Iter.state_fmt, Iter.state_trap, Whole.state_ran, Whole.state_stopped, Whole.state_denied] | split | with_reducible refine (foldl_desk _ ?_ _ _).trans ?_ | with_reducible refine (foldlB_desk _ ?_ _ _).trans ?_ | with_reducible refine (foldl1_desk _ ?_ _ _).trans ?_ | with_reducible refine (foldl2_desk _ ?_ _ _).trans ?_

theorem execSpaccPass2_desk {s t : State} {x0 : BitVec 20} (h : execSpaccPass2 x0 s = .next t) : t.desk = s.desk := by
  simp only [execSpaccPass2, Host.Outcome.next.injEq] at h
  subst h
  repeat' first | with_reducible rfl | with_reducible assumption | intro _ | simp only [State.closeSlot_desk, State.fetchObject_desk, State.pass1All_desk, State.pass2_desk, State.settle_desk, desk_mk, desk_eta, Iter.state_done, Iter.state_fmt, Iter.state_trap, Whole.state_ran, Whole.state_stopped, Whole.state_denied] | split | with_reducible refine (foldl_desk _ ?_ _ _).trans ?_

@[simp] theorem State.exchAdvance_desk (s : State) (x1 : _) : (State.exchAdvance s x1).desk = s.desk := by
  unfold State.exchAdvance
  repeat' first | with_reducible rfl | with_reducible assumption | intro _ | simp only [State.closeSlot_desk, State.dispAdvance_desk, desk_mk, desk_eta, Iter.state_done, Iter.state_fmt, Iter.state_trap, Whole.state_ran, Whole.state_stopped, Whole.state_denied] | split | with_reducible refine (foldl_desk _ ?_ _ _).trans ?_

@[simp] theorem State.progress_desk (s : State) (x1 : _) : (State.progress s x1).desk = s.desk := by
  unfold State.progress
  repeat' first | with_reducible rfl | with_reducible assumption | intro _ | simp only [State.advance_desk, State.exchAdvance_desk, State.settle_desk, desk_mk, desk_eta, Iter.state_done, Iter.state_fmt, Iter.state_trap, Whole.state_ran, Whole.state_stopped, Whole.state_denied] | split | with_reducible refine (foldl_desk _ ?_ _ _).trans ?_

@[simp] theorem State.storeReceive_desk (s : State) (x1 : _) (x2 : _) (x3 : _) (x4 : _) : (State.storeReceive s x1 x2 x3 x4).desk = s.desk := by
  unfold State.storeReceive
  repeat' first | with_reducible rfl | with_reducible assumption | intro _ | simp only [State.bump_desk, State.mismatch_desk, State.modSlot_desk, State.returnStaging_desk, State.storeChunk_desk, desk_mk, desk_eta, Iter.state_done, Iter.state_fmt, Iter.state_trap, Whole.state_ran, Whole.state_stopped, Whole.state_denied] | with_reducible refine (State.takeCredit_desk (by assumption)).trans ?_ | split | with_reducible refine (foldl_desk _ ?_ _ _).trans ?_

@[simp] theorem State.feedReceive_desk (s : State) (x1 : _) (x2 : _) (x3 : _) (x4 : _) : (State.feedReceive s x1 x2 x3 x4).desk = s.desk := by
  unfold State.feedReceive
  repeat' first | with_reducible rfl | with_reducible assumption | intro _ | simp only [State.mismatch_desk, State.progress_desk, State.setDisp_desk, desk_mk, desk_eta, Iter.state_done, Iter.state_fmt, Iter.state_trap, Whole.state_ran, Whole.state_stopped, Whole.state_denied] | split | with_reducible refine (foldl_desk _ ?_ _ _).trans ?_

@[simp] theorem State.sieveReceive_desk (s : State) (x1 : _) (x2 : _) (x3 : _) (x4 : _) (x5 : _) (x6 : _) : (State.sieveReceive s x1 x2 x3 x4 x5 x6).desk = s.desk := by
  unfold State.sieveReceive
  repeat' first | with_reducible rfl | with_reducible assumption | intro _ | simp only [State.mismatch_desk, State.progress_desk, State.setDisp_desk, desk_mk, desk_eta, Iter.state_done, Iter.state_fmt, Iter.state_trap, Whole.state_ran, Whole.state_stopped, Whole.state_denied] | split | with_reducible refine (foldl_desk _ ?_ _ _).trans ?_

@[simp] theorem State.rlzReceive_desk (s : State) (x1 : _) (x2 : _) (x3 : _) (x4 : _) (x5 : _) (x6 : _) : (State.rlzReceive s x1 x2 x3 x4 x5 x6).desk = s.desk := by
  unfold State.rlzReceive
  repeat' first | with_reducible rfl | with_reducible assumption | intro _ | simp only [State.mismatch_desk, State.pass1All_desk, State.setSparse_desk, State.settle_desk, desk_mk, desk_eta, Iter.state_done, Iter.state_fmt, Iter.state_trap, Whole.state_ran, Whole.state_stopped, Whole.state_denied] | split | with_reducible refine (foldl_desk _ ?_ _ _).trans ?_

@[simp] theorem State.plainReceive_desk (s : State) (x1 : _) (x2 : _) (x3 : _) (x4 : _) : (State.plainReceive s x1 x2 x3 x4).desk = s.desk := by
  unfold State.plainReceive
  repeat' first | with_reducible rfl | with_reducible assumption | intro _ | simp only [State.mismatch_desk, State.modSlot_desk, State.progress_desk, State.relayMessage_desk, desk_mk, desk_eta, Iter.state_done, Iter.state_fmt, Iter.state_trap, Whole.state_ran, Whole.state_stopped, Whole.state_denied] | split | with_reducible refine (foldl_desk _ ?_ _ _).trans ?_

@[simp] theorem State.exchPassing_desk (s : State) (x1 : _) : (State.exchPassing s x1).1.desk = s.desk := by
  unfold State.exchPassing
  repeat' first | with_reducible rfl | with_reducible assumption | intro _ | simp only [State.bump_desk, State.failInstance_desk, State.mismatch_desk, State.modSlot_desk, State.progress_desk, desk_mk, desk_eta, Iter.state_done, Iter.state_fmt, Iter.state_trap, Whole.state_ran, Whole.state_stopped, Whole.state_denied] | split | with_reducible refine (foldl_desk _ ?_ _ _).trans ?_

theorem execExchReceive_desk {s t : State} {x0 : Sys2Proof.Msg} {x1 : Nat} {x2 : Nat} (h : execExchReceive x0 x1 x2 s = .next t) : t.desk = s.desk := by
  simp only [execExchReceive, Host.Outcome.next.injEq] at h
  subst h
  repeat' first | with_reducible rfl | with_reducible assumption | intro _ | simp only [State.feedReceive_desk, State.mismatch_desk, State.plainReceive_desk, State.rlzReceive_desk, State.settle_desk, State.sieveReceive_desk, State.storeReceive_desk, desk_mk, desk_eta, Iter.state_done, Iter.state_fmt, Iter.state_trap, Whole.state_ran, Whole.state_stopped, Whole.state_denied] | split | with_reducible refine (foldl_desk _ ?_ _ _).trans ?_ | with_reducible refine (enter_desk _ _ _ ?_).trans ?_

theorem execGatherReceive_desk {s t : State} {x0 : Sys2Proof.Msg} (h : execGatherReceive x0 s = .next t) : t.desk = s.desk := by
  simp only [execGatherReceive, Host.Outcome.next.injEq] at h
  subst h
  repeat' first | with_reducible rfl | with_reducible assumption | intro _ | simp only [State.after_desk, State.markDown_desk, State.mismatch_desk, State.modSlot_desk, State.sendDown_desk, State.seqDown_desk, desk_mk, desk_eta, Iter.state_done, Iter.state_fmt, Iter.state_trap, Whole.state_ran, Whole.state_stopped, Whole.state_denied] | split | with_reducible refine (foldl_desk _ ?_ _ _).trans ?_ | with_reducible refine (enter_desk _ _ _ ?_).trans ?_

@[simp] theorem State.launchReply_desk (s : State) (x1 : _) (x2 : _) (x3 : _) (x4 : _) (x5 : _) (x6 : _) : (State.launchReply s x1 x2 x3 x4 x5 x6).desk = s.desk := by
  unfold State.launchReply
  repeat' first | with_reducible rfl | with_reducible assumption | intro _ | simp only [State.sendCtrl_desk, desk_mk, desk_eta, Iter.state_done, Iter.state_fmt, Iter.state_trap, Whole.state_ran, Whole.state_stopped, Whole.state_denied] | split | with_reducible refine (foldl_desk _ ?_ _ _).trans ?_

@[simp] theorem State.scalarToQueues_desk (s : State) (x1 : _) (x2 : _) : (State.scalarToQueues s x1 x2).desk = s.desk := by
  unfold State.scalarToQueues
  repeat' first | with_reducible rfl | with_reducible assumption | intro _ | simp only [desk_mk, desk_eta, Iter.state_done, Iter.state_fmt, Iter.state_trap, Whole.state_ran, Whole.state_stopped, Whole.state_denied] | split | with_reducible refine (foldl_desk _ ?_ _ _).trans ?_

@[simp] theorem State.join_desk (s : State) (x1 : _) (x2 : _) (x3 : _) (x4 : _) : (State.join s x1 x2 x3 x4).desk = s.desk := by
  unfold State.join
  repeat' first | with_reducible rfl | with_reducible assumption | intro _ | simp only [State.scalarToQueues_desk, State.setDisp_desk, State.setSlot_desk, desk_mk, desk_eta, Iter.state_done, Iter.state_fmt, Iter.state_trap, Whole.state_ran, Whole.state_stopped, Whole.state_denied] | split | with_reducible refine (foldl_desk _ ?_ _ _).trans ?_

theorem execLaunch_desk {s t : State} {x0 : Sys2Proof.FA} {x1 : BitVec 20} {x2 : Nat} {x3 : Sys2Proof.Word} {x4 : BitVec 32} (h : execLaunch x0 x1 x2 x3 x4 s = .next t) : t.desk = s.desk := by
  simp only [execLaunch, Host.Outcome.next.injEq] at h
  subst h
  repeat' first | with_reducible rfl | with_reducible assumption | intro _ | simp only [State.absentDown_desk, State.join_desk, State.launchReply_desk, State.modSlot_desk, State.openInstance_desk, State.progress_desk, desk_mk, desk_eta, Iter.state_done, Iter.state_fmt, Iter.state_trap, Whole.state_ran, Whole.state_stopped, Whole.state_denied] | split | with_reducible refine (foldl_desk _ ?_ _ _).trans ?_

theorem execMirrorReceive_desk {s t : State} {x0 : Sys2Proof.MirrorMsg} (h : execMirrorReceive x0 s = .next t) : t.desk = s.desk := by
  simp only [execMirrorReceive, Host.Outcome.next.injEq] at h
  subst h
  repeat' first | with_reducible rfl | with_reducible assumption | intro _ | simp only [State.bump_desk, State.mirrorAccept_desk, State.park_desk, State.settle_desk, State.takeInbox_desk, desk_mk, desk_eta, Iter.state_done, Iter.state_fmt, Iter.state_trap, Whole.state_ran, Whole.state_stopped, Whole.state_denied] | split | with_reducible refine (foldl_desk _ ?_ _ _).trans ?_

@[simp] theorem State.rugDone_desk (s : State) (x1 : _) (x2 : _) (x3 : _) (x4 : _) (x5 : _) : (State.rugDone s x1 x2 x3 x4 x5).desk = s.desk := by
  unfold State.rugDone
  repeat' first | with_reducible rfl | with_reducible assumption | intro _ | simp only [State.gatherBytes_desk, State.markDown_desk, State.modSlot_desk, State.sendDown_desk, desk_mk, desk_eta, Iter.state_done, Iter.state_fmt, Iter.state_trap, Whole.state_ran, Whole.state_stopped, Whole.state_denied] | split | with_reducible refine (foldl_desk _ ?_ _ _).trans ?_

@[simp] theorem State.overlap_desk (s : State) (x1 : _) (x2 : _) : (State.overlap s x1 x2).desk = s.desk := by
  unfold State.overlap
  repeat' first | with_reducible rfl | with_reducible assumption | intro _ | simp only [State.failInstance_desk, State.raise_desk, desk_mk, desk_eta, Iter.state_done, Iter.state_fmt, Iter.state_trap, Whole.state_ran, Whole.state_stopped, Whole.state_denied] | split | with_reducible refine (foldl_desk _ ?_ _ _).trans ?_

@[simp] theorem State.rugWhole_desk (s : State) (x1 : _) (x2 : _) (x3 : _) (x4 : _) (x5 : _) : (State.rugWhole s x1 x2 x3 x4 x5).desk = s.desk := by
  unfold State.rugWhole
  repeat' first | with_reducible rfl | with_reducible assumption | intro _ | simp only [State.after_desk, State.applyWhole_desk, State.overlap_desk, State.rugDone_desk, desk_mk, desk_eta, Iter.state_done, Iter.state_fmt, Iter.state_trap, Whole.state_ran, Whole.state_stopped, Whole.state_denied] | split | with_reducible refine (foldl_desk _ ?_ _ _).trans ?_ | with_reducible refine (foldlB_desk _ ?_ _ _).trans ?_ | with_reducible refine (foldl1_desk _ ?_ _ _).trans ?_ | with_reducible refine (foldl2_desk _ ?_ _ _).trans ?_

@[simp] theorem State.fetchShard_desk (s : State) (x1 : _) (x2 : _) (x3 : _) (x4 : _) : (State.fetchShard s x1 x2 x3 x4).desk = s.desk := by
  unfold State.fetchShard
  repeat' first | with_reducible rfl | with_reducible assumption | intro _ | simp only [State.fetchAll_desk, desk_mk, desk_eta, Iter.state_done, Iter.state_fmt, Iter.state_trap, Whole.state_ran, Whole.state_stopped, Whole.state_denied] | split | with_reducible refine (foldl_desk _ ?_ _ _).trans ?_

@[simp] theorem State.rugApply_desk (s : State) (x1 : _) (x2 : _) (x3 : _) (x4 : _) (x5 : _) (x6 : _) (x7 : _) (x8 : _) : (State.rugApply s x1 x2 x3 x4 x5 x6 x7 x8).desk = s.desk := by
  unfold State.rugApply
  repeat' first | with_reducible rfl | with_reducible assumption | intro _ | simp only [State.after_desk, State.applyElems_desk, State.overlap_desk, State.rugDone_desk, State.rugWhole_desk, desk_mk, desk_eta, Iter.state_done, Iter.state_fmt, Iter.state_trap, Whole.state_ran, Whole.state_stopped, Whole.state_denied] | split | with_reducible refine (foldl_desk _ ?_ _ _).trans ?_

@[simp] theorem State.meetUpsets_desk (s : State) (x1 : _) : (State.meetUpsets s x1).desk = s.desk := by
  unfold State.meetUpsets
  repeat' first | with_reducible rfl | with_reducible assumption | intro _ | simp only [State.upset_desk, desk_mk, desk_eta, Iter.state_done, Iter.state_fmt, Iter.state_trap, Whole.state_ran, Whole.state_stopped, Whole.state_denied] | split | with_reducible refine (foldl_desk _ ?_ _ _).trans ?_ | with_reducible refine (foldlB_desk _ ?_ _ _).trans ?_ | with_reducible refine (foldl1_desk _ ?_ _ _).trans ?_ | with_reducible refine (foldl2_desk _ ?_ _ _).trans ?_

theorem execRugUpdate_desk {s t : State} {x0 : BitVec 20} {x1 : Nat} {x2 : List Sys2Proof.Upset} (h : execRugUpdate x0 x1 x2 s = .next t) : t.desk = s.desk := by
  simp only [execRugUpdate, Host.Outcome.next.injEq] at h
  subst h
  repeat' first | with_reducible rfl | with_reducible assumption | intro _ | simp only [State.fetchShard_desk, State.meetUpsets_desk, State.rugApply_desk, State.settle_desk, desk_mk, desk_eta, Iter.state_done, Iter.state_fmt, Iter.state_trap, Whole.state_ran, Whole.state_stopped, Whole.state_denied] | split | with_reducible refine (foldl_desk _ ?_ _ _).trans ?_

@[simp] theorem State.openNorm_desk (s : State) (x1 : _) (x2 : _) (x3 : _) : (State.openNorm s x1 x2 x3).desk = s.desk := by
  unfold State.openNorm
  repeat' first | with_reducible rfl | with_reducible assumption | intro _ | simp only [State.openInstance_desk, desk_mk, desk_eta, Iter.state_done, Iter.state_fmt, Iter.state_trap, Whole.state_ran, Whole.state_stopped, Whole.state_denied] | split | with_reducible refine (foldl_desk _ ?_ _ _).trans ?_

theorem execNormPassStart_desk {s t : State} {x0 : Nat} {x1 : Nat} (h : execNormPassStart x0 x1 s = .next t) : t.desk = s.desk := by
  simp only [execNormPassStart, Host.Outcome.next.injEq] at h
  subst h
  repeat' first | with_reducible rfl | with_reducible assumption | intro _ | simp only [State.modNorm_desk, State.openNorm_desk, State.park_desk, State.settle_desk, desk_mk, desk_eta, Iter.state_done, Iter.state_fmt, Iter.state_trap, Whole.state_ran, Whole.state_stopped, Whole.state_denied] | split | with_reducible refine (foldl_desk _ ?_ _ _).trans ?_ | with_reducible refine (foldlB_desk _ ?_ _ _).trans ?_ | with_reducible refine (foldl1_desk _ ?_ _ _).trans ?_ | with_reducible refine (foldl2_desk _ ?_ _ _).trans ?_

theorem execNormResult_desk {s t : State} {x0 : BitVec 20} {x1 : BitVec 32} {x2 : Nat} (h : execNormResult x0 x1 x2 s = .next t) : t.desk = s.desk := by
  simp only [execNormResult, Host.Outcome.next.injEq] at h
  subst h
  repeat' first | with_reducible rfl | with_reducible assumption | intro _ | simp only [State.normKnown_desk, State.takeCtrl_desk, desk_mk, desk_eta, Iter.state_done, Iter.state_fmt, Iter.state_trap, Whole.state_ran, Whole.state_stopped, Whole.state_denied] | split | with_reducible refine (foldl_desk _ ?_ _ _).trans ?_

theorem execCarry_desk {s t : State} (h : execCarry s = .next t) : t.desk = s.desk := by
  simp only [execCarry, Host.Outcome.next.injEq] at h
  subst h
  repeat' first | with_reducible rfl | with_reducible assumption | intro _ | simp only [State.carryAll_desk, State.fetchAll_desk, desk_mk, desk_eta, Iter.state_done, Iter.state_fmt, Iter.state_trap, Whole.state_ran, Whole.state_stopped, Whole.state_denied] | split | with_reducible refine (foldl_desk _ ?_ _ _).trans ?_

theorem execDigestSend_desk {s t : State} {x0 : Nat} (h : execDigestSend x0 s = .next t) : t.desk = s.desk := by
  simp only [execDigestSend, Host.Outcome.next.injEq] at h
  subst h
  repeat' first | with_reducible rfl | with_reducible assumption | intro _ | simp only [State.exchange_desk, State.sendCtrl_desk, desk_mk, desk_eta, Iter.state_done, Iter.state_fmt, Iter.state_trap, Whole.state_ran, Whole.state_stopped, Whole.state_denied] | split | with_reducible refine (foldl_desk _ ?_ _ _).trans ?_

@[simp] theorem State.keptNotice_desk (s : State) : (State.keptNotice s).desk = s.desk := by
  unfold State.keptNotice
  repeat' first | with_reducible rfl | with_reducible assumption | intro _ | simp only [State.commit_desk, desk_mk, desk_eta, Iter.state_done, Iter.state_fmt, Iter.state_trap, Whole.state_ran, Whole.state_stopped, Whole.state_denied] | split | with_reducible refine (foldl_desk _ ?_ _ _).trans ?_

@[simp] theorem State.resilverFails_desk (s : State) : (State.resilverFails s).desk = s.desk := by
  unfold State.resilverFails
  repeat' first | with_reducible rfl | with_reducible assumption | intro _ | simp only [State.raise_desk, desk_mk, desk_eta, Iter.state_done, Iter.state_fmt, Iter.state_trap, Whole.state_ran, Whole.state_stopped, Whole.state_denied] | split | with_reducible refine (foldl_desk _ ?_ _ _).trans ?_

@[simp] theorem State.resilverNotice_desk (s : State) (x1 : _) (x2 : _) (x3 : _) : (State.resilverNotice s x1 x2 x3).desk = s.desk := by
  unfold State.resilverNotice
  repeat' first | with_reducible rfl | with_reducible assumption | intro _ | simp only [State.raise_desk, State.resilverFails_desk, State.sendCtrl_desk, desk_mk, desk_eta, Iter.state_done, Iter.state_fmt, Iter.state_trap, Whole.state_ran, Whole.state_stopped, Whole.state_denied] | split | with_reducible refine (foldl_desk _ ?_ _ _).trans ?_

theorem execCommitNotice_desk {s t : State} {x0 : Nat} {x1 : List Sys2Proof.Byte} (h : execCommitNotice x0 x1 s = .next t) : t.desk = s.desk := by
  simp only [execCommitNotice, Host.Outcome.next.injEq] at h
  subst h
  repeat' first | with_reducible rfl | with_reducible assumption | intro _ | simp only [State.commit_desk, State.resilverNotice_desk, State.takeCtrl_desk, desk_mk, desk_eta, Iter.state_done, Iter.state_fmt, Iter.state_trap, Whole.state_ran, Whole.state_stopped, Whole.state_denied] | split | with_reducible refine (foldl_desk _ ?_ _ _).trans ?_

theorem execCommitOnReady_desk {s t : State} (h : execCommitOnReady s = .next t) : t.desk = s.desk := by
  simp only [execCommitOnReady, Host.Outcome.next.injEq] at h
  subst h
  repeat' first | with_reducible rfl | with_reducible assumption | intro _ | simp only [State.keptNotice_desk, desk_mk, desk_eta, Iter.state_done, Iter.state_fmt, Iter.state_trap, Whole.state_ran, Whole.state_stopped, Whole.state_denied] | split | with_reducible refine (foldl_desk _ ?_ _ _).trans ?_

@[simp] theorem Body.land_desk (b : Body) (x1 : _) : (Body.land b x1).s.desk = b.s.desk := by
  unfold Body.land
  repeat' first | with_reducible rfl | with_reducible assumption | intro _ | simp only [desk_mk, desk_eta, Iter.state_done, Iter.state_fmt, Iter.state_trap, Whole.state_ran, Whole.state_stopped, Whole.state_denied] | split | with_reducible refine (foldl_desk _ ?_ _ _).trans ?_ | with_reducible refine (foldlB_desk _ ?_ _ _).trans ?_ | with_reducible refine (foldl1_desk _ ?_ _ _).trans ?_ | with_reducible refine (foldl2_desk _ ?_ _ _).trans ?_

@[simp] theorem Body.sources_desk (b : Body) (x1 : _) (x2 : _) (x3 : _) (x4 : _) : (Body.sources b x1 x2 x3 x4).s.desk = b.s.desk := by
  unfold Body.sources
  repeat' first | with_reducible rfl | with_reducible assumption | intro _ | simp only [desk_mk, desk_eta, Iter.state_done, Iter.state_fmt, Iter.state_trap, Whole.state_ran, Whole.state_stopped, Whole.state_denied] | split | with_reducible refine (foldl_desk _ ?_ _ _).trans ?_

@[simp] theorem Body.load_desk (b : Body) (x1 : _) (x2 : _) : (Body.load b x1 x2).1.s.desk = b.s.desk := by
  unfold Body.load
  repeat' first | with_reducible rfl | with_reducible assumption | intro _ | simp only [desk_mk, desk_eta, Iter.state_done, Iter.state_fmt, Iter.state_trap, Whole.state_ran, Whole.state_stopped, Whole.state_denied] | split | with_reducible refine (foldl_desk _ ?_ _ _).trans ?_

@[simp] theorem Body.stored_desk (b : Body) (x1 : _) (x2 : _) (x3 : _) : (Body.stored b x1 x2 x3).s.desk = b.s.desk := by
  unfold Body.stored
  repeat' first | with_reducible rfl | with_reducible assumption | intro _ | simp only [State.putCode_desk, desk_mk, desk_eta, Iter.state_done, Iter.state_fmt, Iter.state_trap, Whole.state_ran, Whole.state_stopped, Whole.state_denied] | split | with_reducible refine (foldl_desk _ ?_ _ _).trans ?_ | with_reducible refine (foldlB_desk _ ?_ _ _).trans ?_ | with_reducible refine (foldl1_desk _ ?_ _ _).trans ?_ | with_reducible refine (foldl2_desk _ ?_ _ _).trans ?_

@[simp] theorem Body.slotA_desk (b : Body) (x1 : _) (x2 : _) (x3 : _) (x4 : _) : (Body.slotA b x1 x2 x3 x4).1.s.desk = b.s.desk := by
  unfold Body.slotA
  repeat' first | with_reducible rfl | with_reducible assumption | intro _ | simp only [Body.sources_desk, desk_mk, desk_eta, Iter.state_done, Iter.state_fmt, Iter.state_trap, Whole.state_ran, Whole.state_stopped, Whole.state_denied] | split | with_reducible refine (foldl_desk _ ?_ _ _).trans ?_

@[simp] theorem Body.slotM_desk (b : Body) (x1 : _) (x2 : _) (x3 : _) (x4 : _) : (Body.slotM b x1 x2 x3 x4).1.s.desk = b.s.desk := by
  unfold Body.slotM
  repeat' first | with_reducible rfl | with_reducible assumption | intro _ | simp only [Body.load_desk, Body.sources_desk, Body.stored_desk, desk_mk, desk_eta, Iter.state_done, Iter.state_fmt, Iter.state_trap, Whole.state_ran, Whole.state_stopped, Whole.state_denied] | split | with_reducible refine (foldl_desk _ ?_ _ _).trans ?_

@[simp] theorem Body.bundle_desk (b : Body) (x1 : _) (x2 : _) (x3 : _) : (Body.bundle b x1 x2 x3).s.desk = b.s.desk := by
  unfold Body.bundle
  repeat' first | with_reducible rfl | with_reducible assumption | intro _ | simp only [Body.land_desk, Body.slotA_desk, Body.slotM_desk, desk_mk, desk_eta, Iter.state_done, Iter.state_fmt, Iter.state_trap, Whole.state_ran, Whole.state_stopped, Whole.state_denied] | split | with_reducible refine (foldl_desk _ ?_ _ _).trans ?_

@[simp] theorem runBody_desk (s : State) (x0 : _) (x1 : _) (x3 : _) (x4 : _) : (runBody x0 x1 s x3 x4).s.desk = s.desk := by
  unfold runBody
  repeat' first | with_reducible rfl | with_reducible assumption | intro _ | simp only [Body.bundle_desk, desk_mk, desk_eta, Iter.state_done, Iter.state_fmt, Iter.state_trap, Whole.state_ran, Whole.state_stopped, Whole.state_denied] | split | with_reducible refine (foldl_desk _ ?_ _ _).trans ?_ | with_reducible refine (foldlB_desk _ ?_ _ _).trans ?_ | with_reducible refine (foldl1_desk _ ?_ _ _).trans ?_ | with_reducible refine (foldl2_desk _ ?_ _ _).trans ?_

@[simp] theorem State.convertScaled_desk (s : State) (x1 : _) (x2 : _) (x3 : _) (x4 : _) (x5 : _) (x6 : _) (x7 : _) : (State.convertScaled s x1 x2 x3 x4 x5 x6 x7).state.desk = s.desk := by
  unfold State.convertScaled
  repeat' first | with_reducible rfl | with_reducible assumption | intro _ | simp only [State.bump_desk, State.putCode_desk, desk_mk, desk_eta, Iter.state_done, Iter.state_fmt, Iter.state_trap, Whole.state_ran, Whole.state_stopped, Whole.state_denied] | split | with_reducible refine (foldl_desk _ ?_ _ _).trans ?_

@[simp] theorem State.convertIter_desk (s : State) (x1 : _) (x2 : _) (x3 : _) : (State.convertIter s x1 x2 x3).state.desk = s.desk := by
  unfold State.convertIter
  repeat' first | with_reducible rfl | with_reducible assumption | intro _ | simp only [State.bump_desk, State.convertScaled_desk, State.putCode_desk, desk_mk, desk_eta, Iter.state_done, Iter.state_fmt, Iter.state_trap, Whole.state_ran, Whole.state_stopped, Whole.state_denied] | split | with_reducible refine (foldl_desk _ ?_ _ _).trans ?_

theorem State.mxProduct_desk {s t : State} {x : Product} (h : s.mxProduct x = some t) : t.desk = s.desk := by
  simp only [State.mxProduct] at h
  split at h
  · cases h
    simp only [State.bump_desk]
    refine foldl_desk _ ?_ _ _
    intro t e
    rw [State.putCode_desk]
  · cases h

@[simp] theorem State.mxStop_desk (s : State) : (State.mxStop s).state.desk = s.desk := by
  unfold State.mxStop
  repeat' first | with_reducible rfl | with_reducible assumption | intro _ | simp only [State.bump_desk, desk_mk, desk_eta, Iter.state_done, Iter.state_fmt, Iter.state_trap, Whole.state_ran, Whole.state_stopped, Whole.state_denied] | split | with_reducible refine (foldl_desk _ ?_ _ _).trans ?_

@[simp] theorem State.mmulIter_desk (s : State) (x1 : _) (x2 : _) : (State.mmulIter s x1 x2).state.desk = s.desk := by
  unfold State.mmulIter
  repeat' first | with_reducible rfl | with_reducible assumption | intro _ | simp only [State.mxStop_desk, desk_mk, desk_eta, Iter.state_done, Iter.state_fmt, Iter.state_trap, Whole.state_ran, Whole.state_stopped, Whole.state_denied] | with_reducible refine (State.mxProduct_desk (by assumption)).trans ?_ | split | with_reducible refine (foldl_desk _ ?_ _ _).trans ?_

theorem State.mxEntry_desk {s t : State} {o : Op} {i : Nat} {e : GEntry} {d1 : Option Descr} {fa : Nat} {b : Nat → Nat → Option Val}
    {d2 d0 : Descr} (h : s.mxEntry o i e d1 fa b d2 d0 = some t) : t.desk = s.desk := by
  simp only [State.mxEntry] at h
  split at h
  · cases h; simp only [State.bump_desk]
  · split at h
    · cases h
    · exact State.mxProduct_desk h

@[simp] theorem walkTable_desk (o : Op) (i : Nat) (d1 : Option Descr) (fa : Nat) (b : Nat → Nat → Option Val) (d2 d0 : Descr)
    (en : State → Nat → Option GEntry) (n g : Nat) (s : State) : (State.walkTable o i d1 fa b d2 d0 en n g s).1.desk = s.desk := by
  induction n generalizing g s with
  | zero => rfl
  | succ n ih =>
    rw [State.walkTable]
    split
    · rename_i t ht
      obtain ⟨e, _, h⟩ := Option.bind_eq_some_iff.mp ht
      rw [ih, State.mxEntry_desk h]
    · rfl

@[simp] theorem State.mgroupIter_desk (s : State) (h : BitVec 20) (o : Op) (r : OpRun) : (s.mgroupIter h o r).state.desk = s.desk := by
  unfold State.mgroupIter
  repeat' first | with_reducible rfl | intro _ | simp only [walkTable_desk, State.mxStop_desk, State.raise_desk, Iter.state_done, Iter.state_trap] | split

@[simp] theorem State.modQ_desk (s : State) (x1 : _) (x2 : _) (x3 : _) : (State.modQ s x1 x2 x3).desk = s.desk := by
  unfold State.modQ
  repeat' first | with_reducible rfl | with_reducible assumption | intro _ | simp only [desk_mk, desk_eta, Iter.state_done, Iter.state_fmt, Iter.state_trap, Whole.state_ran, Whole.state_stopped, Whole.state_denied] | split | with_reducible refine (foldl_desk _ ?_ _ _).trans ?_

@[simp] theorem State.writeOut_desk (s : State) (x1 : _) (x2 : _) (x3 : _) : ((State.writeOut s x1 x2 x3).state s).desk = s.desk := by
  unfold State.writeOut
  repeat' first | with_reducible rfl | with_reducible assumption | intro _ | simp only [State.putCodes_desk, desk_mk, desk_eta, Iter.state_done, Iter.state_fmt, Iter.state_trap, Whole.state_ran, Whole.state_stopped, Whole.state_denied] | split | with_reducible refine (foldl_desk _ ?_ _ _).trans ?_

theorem State.reading_desk {s : State} {d : Descr} {l : List (List Nat)} {f : List Nat → Whole}
    (h : ∀ cs, ((f cs).state s).desk = s.desk) : ((s.reading d l f).state s).desk = s.desk := by
  unfold State.reading
  split
  · exact h _
  · rfl

theorem Whole.andThen_desk {s : State} {w : Whole} {f : State → Whole} (hw : (w.state s).desk = s.desk)
    (h : ∀ t, ((f t).state t).desk = t.desk) : ((w.andThen f).state s).desk = s.desk := by
  cases w with
  | ran t =>
    refine Eq.trans ?_ hw
    have e := h t
    show ((f t).state s).desk = t.desk
    cases hf : f t with
    | denied => exact hw.symm
    | ran u => rw [hf] at e; exact e
    | stopped u => rw [hf] at e; exact e
  | stopped t => exact hw
  | denied => rfl

theorem Whole.goodIf_desk {s : State} {w : Whole} {b : Bool} (hw : (w.state s).desk = s.desk) : ((w.goodIf b).state s).desk = s.desk := by
  rw [Whole.goodIf_state, hw]

@[simp] theorem State.sortOp_desk (s : State) (x1 : _) (x2 : _) (x3 : _) (x4 : _) (x5 : _) : ((State.sortOp s x1 x2 x3 x4 x5).state s).desk = s.desk := by
  unfold State.sortOp
  repeat' first | with_reducible rfl | with_reducible assumption | intro _ | simp only [State.writeOut_desk, desk_mk, desk_eta, Iter.state_done, Iter.state_fmt, Iter.state_trap, Whole.state_ran, Whole.state_stopped, Whole.state_denied] | split | with_reducible refine (foldl_desk _ ?_ _ _).trans ?_ | with_reducible refine Whole.andThen_desk ?_ fun _ => ?_ | with_reducible refine State.reading_desk fun _ => ?_

@[simp] theorem State.topkOp_desk (s : State) (x1 : _) (x2 : _) (x3 : _) (x4 : _) (x5 : _) : ((State.topkOp s x1 x2 x3 x4 x5).state s).desk = s.desk := by
  unfold State.topkOp
  repeat' first | with_reducible rfl | with_reducible assumption | intro _ | simp only [State.writeOut_desk, desk_mk, desk_eta, Iter.state_done, Iter.state_fmt, Iter.state_trap, Whole.state_ran, Whole.state_stopped, Whole.state_denied] | split | with_reducible refine (foldl_desk _ ?_ _ _).trans ?_ | with_reducible refine Whole.andThen_desk ?_ fun _ => ?_ | with_reducible refine State.reading_desk fun _ => ?_

@[simp] theorem State.filterOp_desk (s : State) (x1 : _) (x2 : _) (x3 : _) (x4 : _) (x5 : _) : ((State.filterOp s x1 x2 x3 x4 x5).state s).desk = s.desk := by
  unfold State.filterOp
  repeat' first | with_reducible rfl | with_reducible assumption | intro _ | simp only [State.writeOut_desk, desk_mk, desk_eta, Iter.state_done, Iter.state_fmt, Iter.state_trap, Whole.state_ran, Whole.state_stopped, Whole.state_denied] | split | with_reducible refine (foldl_desk _ ?_ _ _).trans ?_ | with_reducible refine Whole.andThen_desk ?_ fun _ => ?_ | with_reducible refine State.reading_desk fun _ => ?_

@[simp] theorem State.compactOp_desk (s : State) (x1 : _) (x2 : _) (x3 : _) (x4 : _) (x5 : _) : ((State.compactOp s x1 x2 x3 x4 x5).state s).desk = s.desk := by
  unfold State.compactOp
  repeat' first | with_reducible rfl | with_reducible assumption | intro _ | simp only [State.writeOut_desk, desk_mk, desk_eta, Iter.state_done, Iter.state_fmt, Iter.state_trap, Whole.state_ran, Whole.state_stopped, Whole.state_denied] | split | with_reducible refine (foldl_desk _ ?_ _ _).trans ?_ | with_reducible refine Whole.goodIf_desk ?_ | with_reducible refine State.reading_desk fun _ => ?_

@[simp] theorem State.scanOp_desk (s : State) (x1 : _) (x2 : _) (x3 : _) (x4 : _) : ((State.scanOp s x1 x2 x3 x4).state s).desk = s.desk := by
  unfold State.scanOp
  repeat' first | with_reducible rfl | with_reducible assumption | intro _ | simp only [State.bump_desk, State.writeOut_desk, desk_mk, desk_eta, Iter.state_done, Iter.state_fmt, Iter.state_trap, Whole.state_ran, Whole.state_stopped, Whole.state_denied] | split | with_reducible refine (foldl_desk _ ?_ _ _).trans ?_ | with_reducible refine Whole.andThen_desk ?_ fun _ => ?_ | with_reducible refine State.reading_desk fun _ => ?_

@[simp] theorem State.histOp_desk (s : State) (x1 : _) (x2 : _) (x3 : _) (x4 : _) : ((State.histOp s x1 x2 x3 x4).state s).desk = s.desk := by
  unfold State.histOp
  repeat' first | with_reducible rfl | with_reducible assumption | intro _ | simp only [State.writeOut_desk, desk_mk, desk_eta, Iter.state_done, Iter.state_fmt, Iter.state_trap, Whole.state_ran, Whole.state_stopped, Whole.state_denied] | split | with_reducible refine (foldl_desk _ ?_ _ _).trans ?_ | with_reducible refine State.reading_desk fun _ => ?_

@[simp] theorem State.rlzEncOp_desk (s : State) (x1 : _) (x2 : _) (x3 : _) (x4 : _) : ((State.rlzEncOp s x1 x2 x3 x4).state s).desk = s.desk := by
  unfold State.rlzEncOp
  repeat' first | with_reducible rfl | with_reducible assumption | intro _ | simp only [State.writeOut_desk, desk_mk, desk_eta, Iter.state_done, Iter.state_fmt, Iter.state_trap, Whole.state_ran, Whole.state_stopped, Whole.state_denied] | split | with_reducible refine (foldl_desk _ ?_ _ _).trans ?_ | with_reducible refine State.reading_desk fun _ => ?_

@[simp] theorem State.rlzDecOp_desk (s : State) (x1 : _) (x2 : _) (x3 : _) (x4 : _) : ((State.rlzDecOp s x1 x2 x3 x4).state s).desk = s.desk := by
  unfold State.rlzDecOp
  repeat' first | with_reducible rfl | with_reducible assumption | intro _ | simp only [State.writeOut_desk, desk_mk, desk_eta, Iter.state_done, Iter.state_fmt, Iter.state_trap, Whole.state_ran, Whole.state_stopped, Whole.state_denied] | split | with_reducible refine (foldl_desk _ ?_ _ _).trans ?_ | with_reducible refine Whole.goodIf_desk ?_ | with_reducible refine State.reading_desk fun _ => ?_

@[simp] theorem State.pack28Op_desk (s : State) (x1 : _) (x2 : _) (x3 : _) (x4 : _) (x5 : _) : ((State.pack28Op s x1 x2 x3 x4 x5).state s).desk = s.desk := by
  unfold State.pack28Op
  repeat' first | with_reducible rfl | with_reducible assumption | intro _ | simp only [State.writeOut_desk, desk_mk, desk_eta, Iter.state_done, Iter.state_fmt, Iter.state_trap, Whole.state_ran, Whole.state_stopped, Whole.state_denied] | split | with_reducible refine (foldl_desk _ ?_ _ _).trans ?_ | with_reducible refine Whole.andThen_desk ?_ fun _ => ?_ | with_reducible refine Whole.goodIf_desk ?_ | with_reducible refine State.reading_desk fun _ => ?_

@[simp] theorem State.sieveOp_desk (s : State) (x1 : _) (x2 : _) : ((State.sieveOp s x1 x2).state s).desk = s.desk := by
  unfold State.sieveOp
  repeat' first | with_reducible rfl | with_reducible assumption | intro _ | simp only [State.compactOp_desk, State.filterOp_desk, State.histOp_desk, State.pack28Op_desk, State.rlzDecOp_desk, State.rlzEncOp_desk, State.scanOp_desk, State.sortOp_desk, State.topkOp_desk, desk_mk, desk_eta, Iter.state_done, Iter.state_fmt, Iter.state_trap, Whole.state_ran, Whole.state_stopped, Whole.state_denied] | split | with_reducible refine (foldl_desk _ ?_ _ _).trans ?_

@[simp] theorem State.sieveIter_desk (s : State) (o : Op) (r : OpRun) : (s.sieveIter o r).state.desk = s.desk := by
  have h := State.sieveOp_desk s o r.iter
  unfold State.sieveIter
  split
  · rename_i t ht; rw [ht] at h; exact h
  · rename_i t ht; rw [ht] at h; simp only [Iter.state_fmt, State.bump_desk]; exact h
  · rfl

@[simp] theorem State.foldIter_desk (s : State) (x1 : _) (x2 : _) : (State.foldIter s x1 x2).state.desk = s.desk := by
  unfold State.foldIter
  repeat' first | with_reducible rfl | with_reducible assumption | intro _ | simp only [State.bump_desk, State.putCode_desk, desk_mk, desk_eta, Iter.state_done, Iter.state_fmt, Iter.state_trap, Whole.state_ran, Whole.state_stopped, Whole.state_denied] | split | with_reducible refine (foldl_desk _ ?_ _ _).trans ?_

@[simp] theorem State.blkexpIter_desk (s : State) (x1 : _) (x2 : _) : (State.blkexpIter s x1 x2).state.desk = s.desk := by
  unfold State.blkexpIter
  repeat' first | with_reducible rfl | with_reducible assumption | intro _ | simp only [State.putCode_desk, desk_mk, desk_eta, Iter.state_done, Iter.state_fmt, Iter.state_trap, Whole.state_ran, Whole.state_stopped, Whole.state_denied] | split | with_reducible refine (foldl_desk _ ?_ _ _).trans ?_

@[simp] theorem State.sendWrite_desk (s : State) (x1 : _) (x2 : _) (x3 : _) (x4 : _) (x5 : _) : (State.sendWrite s x1 x2 x3 x4 x5).desk = s.desk := by
  unfold State.sendWrite
  repeat' first | with_reducible rfl | with_reducible assumption | intro _ | simp only [State.sendMessage_desk, desk_mk, desk_eta, Iter.state_done, Iter.state_fmt, Iter.state_trap, Whole.state_ran, Whole.state_stopped, Whole.state_denied] | split | with_reducible refine (foldl_desk _ ?_ _ _).trans ?_

@[simp] theorem State.copyIter_desk (s : State) (x1 : _) (x2 : _) (x3 : _) : (State.copyIter s x1 x2 x3).state.desk = s.desk := by
  unfold State.copyIter
  repeat' first | with_reducible rfl | with_reducible assumption | intro _ | simp only [State.putCode_desk, State.sendWrite_desk, desk_mk, desk_eta, Iter.state_done, Iter.state_fmt, Iter.state_trap, Whole.state_ran, Whole.state_stopped, Whole.state_denied] | split | with_reducible refine (foldl_desk _ ?_ _ _).trans ?_

@[simp] theorem State.fillIter_desk (s : State) (x1 : _) (x2 : _) : (State.fillIter s x1 x2).state.desk = s.desk := by
  unfold State.fillIter
  repeat' first | with_reducible rfl | with_reducible assumption | intro _ | simp only [State.putCode_desk, desk_mk, desk_eta, Iter.state_done, Iter.state_fmt, Iter.state_trap, Whole.state_ran, Whole.state_stopped, Whole.state_denied] | split | with_reducible refine (foldl_desk _ ?_ _ _).trans ?_

@[simp] theorem State.controlOp_desk (s : State) (x1 : _) (x2 : _) (x3 : _) (x4 : _) : (State.controlOp s x1 x2 x3 x4).state.desk = s.desk := by
  unfold State.controlOp
  repeat' first | with_reducible rfl | with_reducible assumption | intro _ | simp only [State.bump_desk, State.modQ_desk, desk_mk, desk_eta, Iter.state_done, Iter.state_fmt, Iter.state_trap, Whole.state_ran, Whole.state_stopped, Whole.state_denied] | split | with_reducible refine (foldl_desk _ ?_ _ _).trans ?_

@[simp] theorem State.unsound_desk (s : State) (x1 : _) : (State.unsound s x1).state.desk = s.desk := by
  unfold State.unsound
  repeat' first | with_reducible rfl | with_reducible assumption | intro _ | simp only [State.mxStop_desk, desk_mk, desk_eta, Iter.state_done, Iter.state_fmt, Iter.state_trap, Whole.state_ran, Whole.state_stopped, Whole.state_denied] | split | with_reducible refine (foldl_desk _ ?_ _ _).trans ?_

@[simp] theorem State.skipIter_desk (s : State) (x1 : _) (x2 : _) (x3 : _) : (State.skipIter s x1 x2 x3).state.desk = s.desk := by
  unfold State.skipIter
  repeat' first | with_reducible rfl | with_reducible assumption | intro _ | simp only [State.sendWrite_desk, desk_mk, desk_eta, Iter.state_done, Iter.state_fmt, Iter.state_trap, Whole.state_ran, Whole.state_stopped, Whole.state_denied] | split | with_reducible refine (foldl_desk _ ?_ _ _).trans ?_

@[simp] theorem State.withBank_desk (s : State) (x1 : _) : (State.withBank s x1).desk = s.desk := by
  unfold State.withBank
  repeat' first | with_reducible rfl | with_reducible assumption | intro _ | simp only [desk_mk, desk_eta, Iter.state_done, Iter.state_fmt, Iter.state_trap, Whole.state_ran, Whole.state_stopped, Whole.state_denied] | split | with_reducible refine (foldl_desk _ ?_ _ _).trans ?_

@[simp] theorem Iter.restore_desk (b : Bool) (i : Iter) : (i.restore b).state.desk = i.state.desk := by
  cases i <;> rfl

@[simp] theorem State.iterated_desk (s : State) (x1 : _) (x2 : _) (x3 : _) (x4 : _) : (State.iterated s x1 x2 x3 x4).desk = s.desk := by
  unfold State.iterated
  repeat' first | with_reducible rfl | with_reducible assumption | intro _ | simp only [State.addToken_desk, State.modQ_desk, desk_mk, desk_eta, Iter.state_done, Iter.state_fmt, Iter.state_trap, Whole.state_ran, Whole.state_stopped, Whole.state_denied] | split | with_reducible refine (foldl_desk _ ?_ _ _).trans ?_ | with_reducible refine (foldlB_desk _ ?_ _ _).trans ?_ | with_reducible refine (foldl1_desk _ ?_ _ _).trans ?_ | with_reducible refine (foldl2_desk _ ?_ _ _).trans ?_

@[simp] theorem State.landWrite_desk (s : State) (x1 : _) : (State.landWrite s x1).desk = s.desk := by
  unfold State.landWrite
  repeat' first | with_reducible rfl | with_reducible assumption | intro _ | simp only [State.addToken_desk, State.bump_desk, State.failInstance_desk, State.putWalk_desk, desk_mk, desk_eta, Iter.state_done, Iter.state_fmt, Iter.state_trap, Whole.state_ran, Whole.state_stopped, Whole.state_denied] | split | with_reducible refine (foldl_desk _ ?_ _ _).trans ?_

@[simp] theorem State.landFetch_desk (s : State) (x1 : _) : (State.landFetch s x1).desk = s.desk := by
  unfold State.landFetch
  repeat' first | with_reducible rfl | with_reducible assumption | intro _ | simp only [State.fetchPlace_desk, desk_mk, desk_eta, Iter.state_done, Iter.state_fmt, Iter.state_trap, Whole.state_ran, Whole.state_stopped, Whole.state_denied] | split | with_reducible refine (foldl_desk _ ?_ _ _).trans ?_ | with_reducible refine (foldlB_desk _ ?_ _ _).trans ?_ | with_reducible refine (foldl1_desk _ ?_ _ _).trans ?_ | with_reducible refine (foldl2_desk _ ?_ _ _).trans ?_

theorem execWriteMessageReceive_desk {s t : State} {x0 : Sys2Proof.WriteMsg} (h : execWriteMessageReceive x0 s = .next t) : t.desk = s.desk := by
  simp only [execWriteMessageReceive, Host.Outcome.next.injEq] at h
  subst h
  repeat' first | with_reducible rfl | with_reducible assumption | intro _ | simp only [State.bump_desk, State.landFetch_desk, State.landWrite_desk, State.openFor_desk, State.progress_desk, State.takeInbox_desk, desk_mk, desk_eta, Iter.state_done, Iter.state_fmt, Iter.state_trap, Whole.state_ran, Whole.state_stopped, Whole.state_denied] | split | with_reducible refine (foldl_desk _ ?_ _ _).trans ?_

theorem execQueueContextStart_desk {s t : State} (h : execQueueContextStart s = .next t) : t.desk = s.desk := by
  simp only [execQueueContextStart, Host.Outcome.next.injEq] at h
  subst h
  repeat' first | with_reducible rfl | with_reducible assumption | intro _ | simp only [State.landFetch_desk, State.landWrite_desk, State.progress_desk, desk_mk, desk_eta, Iter.state_done, Iter.state_fmt, Iter.state_trap, Whole.state_ran, Whole.state_stopped, Whole.state_denied] | split | with_reducible refine (foldl_desk _ ?_ _ _).trans ?_ | with_reducible refine (foldlB_desk _ ?_ _ _).trans ?_ | with_reducible refine (foldl1_desk _ ?_ _ _).trans ?_ | with_reducible refine (foldl2_desk _ ?_ _ _).trans ?_

theorem execOpIssue_desk {s t : State} {x0 : BitVec 20} {x1 : Nat} (h : execOpIssue x0 x1 s = .next t) : t.desk = s.desk := by
  simp only [execOpIssue, Host.Outcome.next.injEq] at h
  subst h
  repeat' first | with_reducible rfl | with_reducible assumption | intro _ | simp only [State.bump_desk, State.modQ_desk, desk_mk, desk_eta, Iter.state_done, Iter.state_fmt, Iter.state_trap, Whole.state_ran, Whole.state_stopped, Whole.state_denied] | split | with_reducible refine (foldl_desk _ ?_ _ _).trans ?_

@[simp] theorem State.opFetch_desk (s : State) (x1 : _) (x2 : _) : (State.opFetch s x1 x2).desk = s.desk := by
  unfold State.opFetch
  repeat' first | with_reducible rfl | with_reducible assumption | intro _ | simp only [State.fetchPlace_desk, State.withBank_desk, desk_mk, desk_eta, Iter.state_done, Iter.state_fmt, Iter.state_trap, Whole.state_ran, Whole.state_stopped, Whole.state_denied] | split | with_reducible refine (foldl_desk _ ?_ _ _).trans ?_ | with_reducible refine (foldlB_desk _ ?_ _ _).trans ?_ | with_reducible refine (foldl1_desk _ ?_ _ _).trans ?_ | with_reducible refine (foldl2_desk _ ?_ _ _).trans ?_

theorem execWaitCycle_desk {s t : State} {x0 : BitVec 20} (h : execWaitCycle x0 s = .next t) : t.desk = s.desk := by
  simp only [execWaitCycle, Host.Outcome.next.injEq] at h
  subst h
  repeat' first | with_reducible rfl | with_reducible assumption | intro _ | simp only [State.bump_desk, State.failInstance_desk, State.raise_desk, State.settle_desk, desk_mk, desk_eta, Iter.state_done, Iter.state_fmt, Iter.state_trap, Whole.state_ran, Whole.state_stopped, Whole.state_denied] | split | with_reducible refine (foldl_desk _ ?_ _ _).trans ?_

@[simp] theorem State.busWrite_desk (s : State) (x1 : _) (x2 : _) : (State.busWrite s x1 x2).desk = s.desk := by
  unfold State.busWrite
  repeat' first | with_reducible rfl | with_reducible assumption | intro _ | simp only [State.emit_desk, desk_mk, desk_eta, Iter.state_done, Iter.state_fmt, Iter.state_trap, Whole.state_ran, Whole.state_stopped, Whole.state_denied] | split | with_reducible refine (foldl_desk _ ?_ _ _).trans ?_

@[simp] theorem State.sparseForget_desk (s : State) (x1 : _) (x2 : _) (x3 : _) : (State.sparseForget s x1 x2 x3).desk = s.desk := by
  unfold State.sparseForget
  repeat' first | with_reducible rfl | with_reducible assumption | intro _ | simp only [State.pass1_desk, State.setSparse_desk, desk_mk, desk_eta, Iter.state_done, Iter.state_fmt, Iter.state_trap, Whole.state_ran, Whole.state_stopped, Whole.state_denied] | split | with_reducible refine (foldl_desk _ ?_ _ _).trans ?_ | with_reducible refine (foldlB_desk _ ?_ _ _).trans ?_ | with_reducible refine (foldl1_desk _ ?_ _ _).trans ?_ | with_reducible refine (foldl2_desk _ ?_ _ _).trans ?_

@[simp] theorem State.memberLost_desk (s : State) (x1 : _) (x2 : _) : (State.memberLost s x1 x2).desk = s.desk := by
  unfold State.memberLost
  repeat' first | with_reducible rfl | with_reducible assumption | intro _ | simp only [State.absentDown_desk, State.failInstance_desk, State.setSlot_desk, State.sparseForget_desk, desk_mk, desk_eta, Iter.state_done, Iter.state_fmt, Iter.state_trap, Whole.state_ran, Whole.state_stopped, Whole.state_denied] | split | with_reducible refine (foldl_desk _ ?_ _ _).trans ?_

@[simp] theorem State.treeLost_desk (s : State) (x1 : _) (x2 : _) : (State.treeLost s x1 x2).desk = s.desk := by
  unfold State.treeLost
  repeat' first | with_reducible rfl | with_reducible assumption | intro _ | simp only [State.failInstance_desk, desk_mk, desk_eta, Iter.state_done, Iter.state_fmt, Iter.state_trap, Whole.state_ran, Whole.state_stopped, Whole.state_denied] | split | with_reducible refine (foldl_desk _ ?_ _ _).trans ?_

@[simp] theorem State.dequeue_desk (s : State) (x1 : _) (x2 : _) : (State.dequeue s x1 x2).desk = s.desk := by
  unfold State.dequeue
  repeat' first | with_reducible rfl | with_reducible assumption | intro _ | simp only [State.dropRef_desk, State.setQueue_desk, desk_mk, desk_eta, Iter.state_done, Iter.state_fmt, Iter.state_trap, Whole.state_ran, Whole.state_stopped, Whole.state_denied] | split | with_reducible refine (foldl_desk _ ?_ _ _).trans ?_

@[simp] theorem State.sweepQueues_desk (s : State) (x1 : _) : (State.sweepQueues s x1).desk = s.desk := by
  unfold State.sweepQueues
  repeat' first | with_reducible rfl | with_reducible assumption | intro _ | simp only [State.dequeue_desk, State.dropRef_desk, desk_mk, desk_eta, Iter.state_done, Iter.state_fmt, Iter.state_trap, Whole.state_ran, Whole.state_stopped, Whole.state_denied] | split | with_reducible refine (foldl_desk _ ?_ _ _).trans ?_ | with_reducible refine (foldlB_desk _ ?_ _ _).trans ?_ | with_reducible refine (foldl1_desk _ ?_ _ _).trans ?_ | with_reducible refine (foldl2_desk _ ?_ _ _).trans ?_

@[simp] theorem State.sweepStreams_desk (s : State) (x1 : _) : (State.sweepStreams s x1).desk = s.desk := by
  unfold State.sweepStreams
  repeat' first | with_reducible rfl | with_reducible assumption | intro _ | simp only [State.dropTx_desk, State.release_desk, desk_mk, desk_eta, Iter.state_done, Iter.state_fmt, Iter.state_trap, Whole.state_ran, Whole.state_stopped, Whole.state_denied] | split | with_reducible refine (foldl_desk _ ?_ _ _).trans ?_ | with_reducible refine (foldlB_desk _ ?_ _ _).trans ?_ | with_reducible refine (foldl1_desk _ ?_ _ _).trans ?_ | with_reducible refine (foldl2_desk _ ?_ _ _).trans ?_

@[simp] theorem State.healFails_desk (s : State) (x1 : _) : (State.healFails s x1).desk = s.desk := by
  unfold State.healFails
  repeat' first | with_reducible rfl | with_reducible assumption | intro _ | simp only [State.bump_desk, State.putTables_desk, State.raise_desk, State.zeroRetire_desk, desk_mk, desk_eta, Iter.state_done, Iter.state_fmt, Iter.state_trap, Whole.state_ran, Whole.state_stopped, Whole.state_denied] | split | with_reducible refine (foldl_desk _ ?_ _ _).trans ?_

@[simp] theorem State.twinFenced_desk (s : State) : (State.twinFenced s).desk = s.desk := by
  unfold State.twinFenced
  repeat' first | with_reducible rfl | with_reducible assumption | intro _ | simp only [State.exchange_desk, State.healFails_desk, desk_mk, desk_eta, Iter.state_done, Iter.state_fmt, Iter.state_trap, Whole.state_ran, Whole.state_stopped, Whole.state_denied] | split | with_reducible refine (foldl_desk _ ?_ _ _).trans ?_ | with_reducible refine (foldlB_desk _ ?_ _ _).trans ?_ | with_reducible refine (foldl1_desk _ ?_ _ _).trans ?_ | with_reducible refine (foldl2_desk _ ?_ _ _).trans ?_

@[simp] theorem State.sweep_desk (s : State) (x1 : _) : (State.sweep s x1).desk = s.desk := by
  unfold State.sweep
  repeat' first | with_reducible rfl | with_reducible assumption | intro _ | simp only [State.memberLost_desk, State.progress_desk, State.rebuildRoutes_desk, State.settle_desk, State.sweepQueues_desk, State.sweepStreams_desk, State.treeLost_desk, State.twinFenced_desk, desk_mk, desk_eta, Iter.state_done, Iter.state_fmt, Iter.state_trap, Whole.state_ran, Whole.state_stopped, Whole.state_denied] | split | with_reducible refine (foldl_desk _ ?_ _ _).trans ?_ | with_reducible refine (foldlB_desk _ ?_ _ _).trans ?_ | with_reducible refine (foldl1_desk _ ?_ _ _).trans ?_ | with_reducible refine (foldl2_desk _ ?_ _ _).trans ?_

@[simp] theorem State.setFenced_desk (s : State) (x1 : _) (x2 : _) (x3 : _) (x4 : _) : (State.setFenced s x1 x2 x3 x4).desk = s.desk := by
  unfold State.setFenced
  repeat' first | with_reducible rfl | with_reducible assumption | intro _ | simp only [State.modParty_desk, desk_mk, desk_eta, Iter.state_done, Iter.state_fmt, Iter.state_trap, Whole.state_ran, Whole.state_stopped, Whole.state_denied] | split | with_reducible refine (foldl_desk _ ?_ _ _).trans ?_

@[simp] theorem State.notify_desk (s : State) (x1 : _) (x2 : _) : (State.notify s x1 x2).desk = s.desk := by
  unfold State.notify
  repeat' first | with_reducible rfl | with_reducible assumption | intro _ | simp only [State.sendCtrl_desk, desk_mk, desk_eta, Iter.state_done, Iter.state_fmt, Iter.state_trap, Whole.state_ran, Whole.state_stopped, Whole.state_denied] | split | with_reducible refine (foldl_desk _ ?_ _ _).trans ?_ | with_reducible refine (foldlB_desk _ ?_ _ _).trans ?_ | with_reducible refine (foldl1_desk _ ?_ _ _).trans ?_ | with_reducible refine (foldl2_desk _ ?_ _ _).trans ?_

@[simp] theorem State.fenceParty_desk (s : State) (x1 : _) : (State.fenceParty s x1).desk = s.desk := by
  unfold State.fenceParty
  repeat' first | with_reducible rfl | with_reducible assumption | intro _ | simp only [State.notify_desk, State.raise_desk, State.setFenced_desk, State.sweep_desk, desk_mk, desk_eta, Iter.state_done, Iter.state_fmt, Iter.state_trap, Whole.state_ran, Whole.state_stopped, Whole.state_denied] | split | with_reducible refine (foldl_desk _ ?_ _ _).trans ?_

theorem execFenceNotice_desk {s t : State} {x0 : Sys2Proof.FA} {x1 : Sys2Proof.FA} {x2 : BitVec 4} {x3 : Bool} {x4 : Nat} (h : execFenceNotice x0 x1 x2 x3 x4 s = .next t) : t.desk = s.desk := by
  simp only [execFenceNotice, Host.Outcome.next.injEq] at h
  subst h
  repeat' first | with_reducible rfl | with_reducible assumption | intro _ | simp only [State.setFenced_desk, State.sweep_desk, State.takeCtrl_desk, desk_mk, desk_eta, Iter.state_done, Iter.state_fmt, Iter.state_trap, Whole.state_ran, Whole.state_stopped, Whole.state_denied] | split | with_reducible refine (foldl_desk _ ?_ _ _).trans ?_

theorem execFenceBumpDeferred_desk {s t : State} {x0 : Sys2Proof.FA} (h : execFenceBumpDeferred x0 s = .next t) : t.desk = s.desk := by
  simp only [execFenceBumpDeferred, Host.Outcome.next.injEq] at h
  subst h
  repeat' first | with_reducible rfl | with_reducible assumption | intro _ | simp only [State.notify_desk, State.setFenced_desk, desk_mk, desk_eta, Iter.state_done, Iter.state_fmt, Iter.state_trap, Whole.state_ran, Whole.state_stopped, Whole.state_denied] | split | with_reducible refine (foldl_desk _ ?_ _ _).trans ?_

@[simp] theorem State.reportSilence_desk (s : State) : (State.reportSilence s).desk = s.desk := by
  unfold State.reportSilence
  repeat' first | with_reducible rfl | with_reducible assumption | intro _ | simp only [State.sendCtrl_desk, desk_mk, desk_eta, Iter.state_done, Iter.state_fmt, Iter.state_trap, Whole.state_ran, Whole.state_stopped, Whole.state_denied] | split | with_reducible refine (foldl_desk _ ?_ _ _).trans ?_

@[simp] theorem State.decideDead_desk (s : State) : (State.decideDead s).desk = s.desk := by
  unfold State.decideDead
  repeat' first | with_reducible rfl | with_reducible assumption | intro _ | simp only [State.fenceParty_desk, State.raise_desk, desk_mk, desk_eta, Iter.state_done, Iter.state_fmt, Iter.state_trap, Whole.state_ran, Whole.state_stopped, Whole.state_denied] | split | with_reducible refine (foldl_desk _ ?_ _ _).trans ?_ | with_reducible refine (foldlB_desk _ ?_ _ _).trans ?_ | with_reducible refine (foldl1_desk _ ?_ _ _).trans ?_ | with_reducible refine (foldl2_desk _ ?_ _ _).trans ?_

@[simp] theorem State.carryNode_desk (s : State) : (State.carryNode s).desk = s.desk := by
  unfold State.carryNode
  repeat' first | with_reducible rfl | with_reducible assumption | intro _ | simp only [State.decideDead_desk, State.fenceParty_desk, State.raise_desk, desk_mk, desk_eta, Iter.state_done, Iter.state_fmt, Iter.state_trap, Whole.state_ran, Whole.state_stopped, Whole.state_denied] | split | with_reducible refine (foldl_desk _ ?_ _ _).trans ?_

@[simp] theorem State.goSilent_desk (s : State) (x1 : _) : (State.goSilent s x1).desk = s.desk := by
  unfold State.goSilent
  repeat' first | with_reducible rfl | with_reducible assumption | intro _ | simp only [State.decideDead_desk, State.modPort_desk, State.raise_desk, State.reportSilence_desk, desk_mk, desk_eta, Iter.state_done, Iter.state_fmt, Iter.state_trap, Whole.state_ran, Whole.state_stopped, Whole.state_denied] | split | with_reducible refine (foldl_desk _ ?_ _ _).trans ?_

theorem execHeartbeatSend_desk {s t : State} {x0 : Nat} (h : execHeartbeatSend x0 s = .next t) : t.desk = s.desk := by
  simp only [execHeartbeatSend, Host.Outcome.next.injEq] at h
  subst h
  repeat' first | with_reducible rfl | with_reducible assumption | intro _ | simp only [State.modPort_desk, State.sendOnPort_desk, desk_mk, desk_eta, Iter.state_done, Iter.state_fmt, Iter.state_trap, Whole.state_ran, Whole.state_stopped, Whole.state_denied] | split | with_reducible refine (foldl_desk _ ?_ _ _).trans ?_

theorem execHeartbeat_desk {s t : State} {x0 : Nat} {x1 : Nat} {x2 : Nat} {x3 : Sys2Proof.Byte} (h : execHeartbeat x0 x1 x2 x3 s = .next t) : t.desk = s.desk := by
  simp only [execHeartbeat, Host.Outcome.next.injEq] at h
  subst h
  repeat' first | with_reducible rfl | with_reducible assumption | intro _ | simp only [State.modPort_desk, State.reportSilence_desk, State.takeCtrl_desk, desk_mk, desk_eta, Iter.state_done, Iter.state_fmt, Iter.state_trap, Whole.state_ran, Whole.state_stopped, Whole.state_denied] | split | with_reducible refine (foldl_desk _ ?_ _ _).trans ?_

theorem execHeartbeatMiss_desk {s t : State} {x0 : Nat} (h : execHeartbeatMiss x0 s = .next t) : t.desk = s.desk := by
  simp only [execHeartbeatMiss, Host.Outcome.next.injEq] at h
  subst h
  repeat' first | with_reducible rfl | with_reducible assumption | intro _ | simp only [State.goSilent_desk, State.modPort_desk, desk_mk, desk_eta, Iter.state_done, Iter.state_fmt, Iter.state_trap, Whole.state_ran, Whole.state_stopped, Whole.state_denied] | split | with_reducible refine (foldl_desk _ ?_ _ _).trans ?_

theorem execStepEnd_desk {s t : State} {x0 : Nat} {x1 : Nat} {x2 : Sys2Proof.Byte} (h : execStepEnd x0 x1 x2 s = .next t) : t.desk = s.desk := by
  simp only [execStepEnd, Host.Outcome.next.injEq] at h
  subst h
  repeat' first | with_reducible rfl | with_reducible assumption | intro _ | simp only [State.modPort_desk, State.takeCtrl_desk, desk_mk, desk_eta, Iter.state_done, Iter.state_fmt, Iter.state_trap, Whole.state_ran, Whole.state_stopped, Whole.state_denied] | split | with_reducible refine (foldl_desk _ ?_ _ _).trans ?_

theorem execTwinHbSend_desk {s t : State} {x0 : Nat} (h : execTwinHbSend x0 s = .next t) : t.desk = s.desk := by
  simp only [execTwinHbSend, Host.Outcome.next.injEq] at h
  subst h
  repeat' first | with_reducible rfl | with_reducible assumption | intro _ | simp only [State.modPort_desk, State.sendOnPort_desk, desk_mk, desk_eta, Iter.state_done, Iter.state_fmt, Iter.state_trap, Whole.state_ran, Whole.state_stopped, Whole.state_denied] | split | with_reducible refine (foldl_desk _ ?_ _ _).trans ?_

theorem execTwinHb_desk {s t : State} {x0 : Nat} {x1 : Nat} {x2 : Nat} {x3 : BitVec 48} (h : execTwinHb x0 x1 x2 x3 s = .next t) : t.desk = s.desk := by
  simp only [execTwinHb, Host.Outcome.next.injEq] at h
  subst h
  repeat' first | with_reducible rfl | with_reducible assumption | intro _ | simp only [State.decideDead_desk, State.takeCtrl_desk, desk_mk, desk_eta, Iter.state_done, Iter.state_fmt, Iter.state_trap, Whole.state_ran, Whole.state_stopped, Whole.state_denied] | split | with_reducible refine (foldl_desk _ ?_ _ _).trans ?_

theorem execTwinSilent_desk {s t : State} (h : execTwinSilent s = .next t) : t.desk = s.desk := by
  simp only [execTwinSilent, Host.Outcome.next.injEq] at h
  subst h
  repeat' first | with_reducible rfl | with_reducible assumption | intro _ | simp only [State.carryNode_desk, State.modPort_desk, desk_mk, desk_eta, Iter.state_done, Iter.state_fmt, Iter.state_trap, Whole.state_ran, Whole.state_stopped, Whole.state_denied] | split | with_reducible refine (foldl_desk _ ?_ _ _).trans ?_ | with_reducible refine (foldlB_desk _ ?_ _ _).trans ?_ | with_reducible refine (foldl1_desk _ ?_ _ _).trans ?_ | with_reducible refine (foldl2_desk _ ?_ _ _).trans ?_

@[simp] theorem State.stopTwinB_desk (s : State) : (State.stopTwinB s).desk = s.desk := by
  unfold State.stopTwinB
  repeat' first | with_reducible rfl | with_reducible assumption | intro _ | simp only [State.abortAll_desk, State.raise_desk, desk_mk, desk_eta, Iter.state_done, Iter.state_fmt, Iter.state_trap, Whole.state_ran, Whole.state_stopped, Whole.state_denied] | split | with_reducible refine (foldl_desk _ ?_ _ _).trans ?_

theorem execTwinBWaitEnd_desk {s t : State} (h : execTwinBWaitEnd s = .next t) : t.desk = s.desk := by
  simp only [execTwinBWaitEnd, Host.Outcome.next.injEq] at h
  subst h
  repeat' first | with_reducible rfl | with_reducible assumption | intro _ | simp only [State.carryNode_desk, State.stopTwinB_desk, desk_mk, desk_eta, Iter.state_done, Iter.state_fmt, Iter.state_trap, Whole.state_ran, Whole.state_stopped, Whole.state_denied] | split | with_reducible refine (foldl_desk _ ?_ _ _).trans ?_

theorem execSilence_desk {s t : State} {x0 : Nat} {x1 : BitVec 48} (h : execSilence x0 x1 s = .next t) : t.desk = s.desk := by
  simp only [execSilence, Host.Outcome.next.injEq] at h
  subst h
  repeat' first | with_reducible rfl | with_reducible assumption | intro _ | simp only [State.decideDead_desk, State.takeCtrl_desk, desk_mk, desk_eta, Iter.state_done, Iter.state_fmt, Iter.state_trap, Whole.state_ran, Whole.state_stopped, Whole.state_denied] | split | with_reducible refine (foldl_desk _ ?_ _ _).trans ?_

@[simp] theorem State.admits_desk (s : State) (x1 : _) (x2 : _) (x3 : _) : (State.admits s x1 x2 x3).desk = s.desk := by
  unfold State.admits
  repeat' first | with_reducible rfl | with_reducible assumption | intro _ | simp only [State.modParty_desk, State.modPort_desk, State.rebuildRoutes_desk, State.reportSilence_desk, desk_mk, desk_eta, Iter.state_done, Iter.state_fmt, Iter.state_trap, Whole.state_ran, Whole.state_stopped, Whole.state_denied] | split | with_reducible refine (foldl_desk _ ?_ _ _).trans ?_

theorem execAdmitNotice_desk {s t : State} {x0 : Sys2Proof.FA} {x1 : Sys2Proof.FA} {x2 : BitVec 4} {x3 : Nat} (h : execAdmitNotice x0 x1 x2 x3 s = .next t) : t.desk = s.desk := by
  simp only [execAdmitNotice, Host.Outcome.next.injEq] at h
  subst h
  repeat' first | with_reducible rfl | with_reducible assumption | intro _ | simp only [State.admits_desk, State.takeCtrl_desk, desk_mk, desk_eta, Iter.state_done, Iter.state_fmt, Iter.state_trap, Whole.state_ran, Whole.state_stopped, Whole.state_denied] | split | with_reducible refine (foldl_desk _ ?_ _ _).trans ?_

@[simp] theorem State.admitParty_desk (s : State) (x1 : _) (x2 : _) : (State.admitParty s x1 x2).desk = s.desk := by
  unfold State.admitParty
  repeat' first | with_reducible rfl | with_reducible assumption | intro _ | simp only [State.admits_desk, State.notify_desk, desk_mk, desk_eta, Iter.state_done, Iter.state_fmt, Iter.state_trap, Whole.state_ran, Whole.state_stopped, Whole.state_denied] | split | with_reducible refine (foldl_desk _ ?_ _ _).trans ?_

@[simp] theorem State.linkChanged_desk (s : State) (x1 : _) (x2 : _) (x3 : _) (x4 : _) : (State.linkChanged s x1 x2 x3 x4).desk = s.desk := by
  unfold State.linkChanged
  repeat' first | with_reducible rfl | with_reducible assumption | intro _ | simp only [State.rebuildRoutes_desk, desk_mk, desk_eta, Iter.state_done, Iter.state_fmt, Iter.state_trap, Whole.state_ran, Whole.state_stopped, Whole.state_denied] | split | with_reducible refine (foldl_desk _ ?_ _ _).trans ?_

theorem execLinkNotice_desk {s t : State} {x0 : Sys2Proof.FA} {x1 : Sys2Proof.FA} {x2 : Nat} {x3 : Bool} {x4 : Bool} {x5 : Nat} (h : execLinkNotice x0 x1 x2 x3 x4 x5 s = .next t) : t.desk = s.desk := by
  simp only [execLinkNotice, Host.Outcome.next.injEq] at h
  subst h
  repeat' first | with_reducible rfl | with_reducible assumption | intro _ | simp only [State.linkChanged_desk, State.takeCtrl_desk, desk_mk, desk_eta, Iter.state_done, Iter.state_fmt, Iter.state_trap, Whole.state_ran, Whole.state_stopped, Whole.state_denied] | split | with_reducible refine (foldl_desk _ ?_ _ _).trans ?_

@[simp] theorem State.sendHeal_desk (s : State) (x1 : _) : (State.sendHeal s x1).desk = s.desk := by
  unfold State.sendHeal
  repeat' first | with_reducible rfl | with_reducible assumption | intro _ | simp only [State.sendCtrl_desk, desk_mk, desk_eta, Iter.state_done, Iter.state_fmt, Iter.state_trap, Whole.state_ran, Whole.state_stopped, Whole.state_denied] | split | with_reducible refine (foldl_desk _ ?_ _ _).trans ?_

@[simp] theorem State.setHeal_desk (s : State) (x1 : _) : (State.setHeal s x1).desk = s.desk := by
  unfold State.setHeal
  repeat' first | with_reducible rfl | with_reducible assumption | intro _ | simp only [desk_mk, desk_eta, Iter.state_done, Iter.state_fmt, Iter.state_trap, Whole.state_ran, Whole.state_stopped, Whole.state_denied] | split | with_reducible refine (foldl_desk _ ?_ _ _).trans ?_

theorem execHealStart_desk {s t : State} (h : execHealStart s = .next t) : t.desk = s.desk := by
  simp only [execHealStart, Host.Outcome.next.injEq] at h
  subst h
  repeat' first | with_reducible rfl | with_reducible assumption | intro _ | simp only [State.healFails_desk, State.sendHeal_desk, State.setHeal_desk, desk_mk, desk_eta, Iter.state_done, Iter.state_fmt, Iter.state_trap, Whole.state_ran, Whole.state_stopped, Whole.state_denied] | split | with_reducible refine (foldl_desk _ ?_ _ _).trans ?_

theorem execHealRequestTimeout_desk {s t : State} (h : execHealRequestTimeout s = .next t) : t.desk = s.desk := by
  simp only [execHealRequestTimeout, Host.Outcome.next.injEq] at h
  subst h
  repeat' first | with_reducible rfl | with_reducible assumption | intro _ | simp only [State.sendHeal_desk, desk_mk, desk_eta, Iter.state_done, Iter.state_fmt, Iter.state_trap, Whole.state_ran, Whole.state_stopped, Whole.state_denied] | split | with_reducible refine (foldl_desk _ ?_ _ _).trans ?_

theorem execHealFail_desk {s t : State} {x0 : Sys2Proof.GranuleRef} {x1 : Sys2Proof.Byte} (h : execHealFail x0 x1 s = .next t) : t.desk = s.desk := by
  simp only [execHealFail, Host.Outcome.next.injEq] at h
  subst h
  repeat' first | with_reducible rfl | with_reducible assumption | intro _ | simp only [State.healFails_desk, State.takeCtrl_desk, desk_mk, desk_eta, Iter.state_done, Iter.state_fmt, Iter.state_trap, Whole.state_ran, Whole.state_stopped, Whole.state_denied] | split | with_reducible refine (foldl_desk _ ?_ _ _).trans ?_

@[simp] theorem State.takeTransfer_desk (s : State) (x1 : _) : (State.takeTransfer s x1).desk = s.desk := by
  unfold State.takeTransfer
  repeat' first | with_reducible rfl | with_reducible assumption | intro _ | simp only [State.takeInbox_desk, desk_mk, desk_eta, Iter.state_done, Iter.state_fmt, Iter.state_trap, Whole.state_ran, Whole.state_stopped, Whole.state_denied] | split | with_reducible refine (foldl_desk _ ?_ _ _).trans ?_

theorem execHealData_desk {s t : State} {x0 : Sys2Proof.GranuleRef} {x1 : List Sys2Proof.Byte} (h : execHealData x0 x1 s = .next t) : t.desk = s.desk := by
  simp only [execHealData, Host.Outcome.next.injEq] at h
  subst h
  repeat' first | with_reducible rfl | with_reducible assumption | intro _ | simp only [State.bump_desk, State.healFails_desk, State.memWrite_desk, State.putTables_desk, State.retire_desk, State.stateWrite_desk, State.takeTransfer_desk, desk_mk, desk_eta, Iter.state_done, Iter.state_fmt, Iter.state_trap, Whole.state_ran, Whole.state_stopped, Whole.state_denied] | split | with_reducible refine (foldl_desk _ ?_ _ _).trans ?_

@[simp] theorem State.refuseHeal_desk (s : State) (x1 : _) (x2 : _) (x3 : _) : (State.refuseHeal s x1 x2 x3).desk = s.desk := by
  unfold State.refuseHeal
  repeat' first | with_reducible rfl | with_reducible assumption | intro _ | simp only [State.sendCtrl_desk, desk_mk, desk_eta, Iter.state_done, Iter.state_fmt, Iter.state_trap, Whole.state_ran, Whole.state_stopped, Whole.state_denied] | split | with_reducible refine (foldl_desk _ ?_ _ _).trans ?_

theorem execHealRequest_desk {s t : State} {x0 : Sys2Proof.FA} {x1 : Nat} {x2 : Sys2Proof.GranuleRef} (h : execHealRequest x0 x1 x2 s = .next t) : t.desk = s.desk := by
  simp only [execHealRequest, Host.Outcome.next.injEq] at h
  subst h
  repeat' first | with_reducible rfl | with_reducible assumption | intro _ | simp only [State.fetchRange_desk, State.freshTx_desk, State.refuseHeal_desk, State.sendMessage_desk, State.takeInbox_desk, desk_mk, desk_eta, Iter.state_done, Iter.state_fmt, Iter.state_trap, Whole.state_ran, Whole.state_stopped, Whole.state_denied] | split | with_reducible refine (foldl_desk _ ?_ _ _).trans ?_

theorem execResilverCopyDone_desk {s t : State} (h : execResilverCopyDone s = .next t) : t.desk = s.desk := by
  simp only [execResilverCopyDone, Host.Outcome.next.injEq] at h
  subst h
  repeat' first | with_reducible rfl | with_reducible assumption | intro _ | simp only [State.fetchAll_desk, State.sendGranule_desk, desk_mk, desk_eta, Iter.state_done, Iter.state_fmt, Iter.state_trap, Whole.state_ran, Whole.state_stopped, Whole.state_denied] | split | with_reducible refine (foldl_desk _ ?_ _ _).trans ?_ | with_reducible refine (foldlB_desk _ ?_ _ _).trans ?_ | with_reducible refine (foldl1_desk _ ?_ _ _).trans ?_ | with_reducible refine (foldl2_desk _ ?_ _ _).trans ?_

@[simp] theorem State.reserveKv_desk (s : State) (x1 : _) : (State.reserveKv s x1).desk = s.desk := by
  unfold State.reserveKv
  repeat' first | with_reducible rfl | with_reducible assumption | intro _ | simp only [State.modCtx_desk, desk_mk, desk_eta, Iter.state_done, Iter.state_fmt, Iter.state_trap, Whole.state_ran, Whole.state_stopped, Whole.state_denied] | split | with_reducible refine (foldl_desk _ ?_ _ _).trans ?_

@[simp] theorem State.install_desk (s : State) (x1 : _) (x2 : _) : (State.install s x1 x2).desk = s.desk := by
  unfold State.install
  repeat' first | with_reducible rfl | with_reducible assumption | intro _ | simp only [State.rebuildGroups_desk, State.removePlan_desk, State.reserveKv_desk, desk_mk, desk_eta, Iter.state_done, Iter.state_fmt, Iter.state_trap, Whole.state_ran, Whole.state_stopped, Whole.state_denied] | split | with_reducible refine (foldl_desk _ ?_ _ _).trans ?_

@[simp] theorem State.nameTwin_desk (s : State) (x1 : _) : (State.nameTwin s x1).desk = s.desk := by
  unfold State.nameTwin
  repeat' first | with_reducible rfl | with_reducible assumption | intro _ | simp only [State.modParty_desk, desk_mk, desk_eta, Iter.state_done, Iter.state_fmt, Iter.state_trap, Whole.state_ran, Whole.state_stopped, Whole.state_denied] | split | with_reducible refine (foldl_desk _ ?_ _ _).trans ?_

@[simp] theorem State.relayout_desk (s : State) (x1 : _) : (State.relayout s x1).desk = s.desk := by
  unfold State.relayout
  repeat' first | with_reducible rfl | with_reducible assumption | intro _ | simp only [State.memClear_desk, State.stateWrite_desk, desk_mk, desk_eta, Iter.state_done, Iter.state_fmt, Iter.state_trap, Whole.state_ran, Whole.state_stopped, Whole.state_denied] | split | with_reducible refine (foldl_desk _ ?_ _ _).trans ?_ | with_reducible refine (foldlB_desk _ ?_ _ _).trans ?_ | with_reducible refine (foldl1_desk _ ?_ _ _).trans ?_ | with_reducible refine (foldl2_desk _ ?_ _ _).trans ?_

@[simp] theorem State.defineShard_desk (s : State) (x1 : _) : (State.defineShard s x1).desk = s.desk := by
  unfold State.defineShard
  repeat' first | with_reducible rfl | with_reducible assumption | intro _ | simp only [State.relayout_desk, State.setHeader_desk, desk_mk, desk_eta, Iter.state_done, Iter.state_fmt, Iter.state_trap, Whole.state_ran, Whole.state_stopped, Whole.state_denied] | split | with_reducible refine (foldl_desk _ ?_ _ _).trans ?_

@[simp] theorem State.putRange_desk (s : State) (a : Nat) (l : List (Nat × Nat)) (b : List Byte) : (s.putRange a l b).desk = s.desk := by
  induction l generalizing s b with
  | nil => rfl
  | cons e t ih =>
    obtain ⟨o, n⟩ := e
    rw [State.putRange, ih, State.stateWrite_desk]

@[simp] theorem State.releaseStored_desk (s : State) : (State.releaseStored s).desk = s.desk := by
  unfold State.releaseStored
  repeat' first | with_reducible rfl | with_reducible assumption | intro _ | simp only [desk_mk, desk_eta, Iter.state_done, Iter.state_fmt, Iter.state_trap, Whole.state_ran, Whole.state_stopped, Whole.state_denied] | split | with_reducible refine (foldl_desk _ ?_ _ _).trans ?_

@[simp] theorem State.rollBack_desk (s : State) : (State.rollBack s).desk = s.desk := by
  unfold State.rollBack
  repeat' first | with_reducible rfl | with_reducible assumption | intro _ | simp only [State.abortAll_desk, State.bump_desk, State.clearSlots_desk, State.discardStep_desk, State.releaseStored_desk, desk_mk, desk_eta, Iter.state_done, Iter.state_fmt, Iter.state_trap, Whole.state_ran, Whole.state_stopped, Whole.state_denied] | split | with_reducible refine (foldl_desk _ ?_ _ _).trans ?_

@[simp] theorem State.startWipe_desk (s : State) (x1 : _) : (State.startWipe s x1).desk = s.desk := by
  unfold State.startWipe
  repeat' first | with_reducible rfl | with_reducible assumption | intro _ | simp only [desk_mk, desk_eta, Iter.state_done, Iter.state_fmt, Iter.state_trap, Whole.state_ran, Whole.state_stopped, Whole.state_denied] | split | with_reducible refine (foldl_desk _ ?_ _ _).trans ?_

@[simp] theorem State.wiped_desk (s : State) : (State.wiped s).desk = s.desk := by
  unfold State.wiped
  repeat' first | with_reducible rfl | with_reducible assumption | intro _ | simp only [State.removePlan_desk, desk_mk, desk_eta, Iter.state_done, Iter.state_fmt, Iter.state_trap, Whole.state_ran, Whole.state_stopped, Whole.state_denied] | split | with_reducible refine (foldl_desk _ ?_ _ _).trans ?_ | with_reducible refine (foldlB_desk _ ?_ _ _).trans ?_ | with_reducible refine (foldl1_desk _ ?_ _ _).trans ?_ | with_reducible refine (foldl2_desk _ ?_ _ _).trans ?_

@[simp] theorem State.reportLinks_desk (s : State) : (State.reportLinks s).desk = s.desk := by
  unfold State.reportLinks
  repeat' first | with_reducible rfl | with_reducible assumption | intro _ | simp only [State.linkChanged_desk, State.notify_desk, State.rebuildRoutes_desk, desk_mk, desk_eta, Iter.state_done, Iter.state_fmt, Iter.state_trap, Whole.state_ran, Whole.state_stopped, Whole.state_denied] | split | with_reducible refine (foldl_desk _ ?_ _ _).trans ?_ | with_reducible refine (foldlB_desk _ ?_ _ _).trans ?_ | with_reducible refine (foldl1_desk _ ?_ _ _).trans ?_ | with_reducible refine (foldl2_desk _ ?_ _ _).trans ?_

@[simp] theorem State.endCharges_desk (s : State) (x1 : _) : (State.endCharges s x1).desk = s.desk := by
  unfold State.endCharges
  repeat' first | with_reducible rfl | with_reducible assumption | intro _ | simp only [desk_mk, desk_eta, Iter.state_done, Iter.state_fmt, Iter.state_trap, Whole.state_ran, Whole.state_stopped, Whole.state_denied] | split | with_reducible refine (foldl_desk _ ?_ _ _).trans ?_

@[simp] theorem State.sendControl_desk (s : State) (x1 : _) (x2 : _) : (State.sendControl s x1 x2).desk = s.desk := by
  unfold State.sendControl
  repeat' first | with_reducible rfl | with_reducible assumption | intro _ | simp only [State.emit_desk, desk_mk, desk_eta, Iter.state_done, Iter.state_fmt, Iter.state_trap, Whole.state_ran, Whole.state_stopped, Whole.state_denied] | split | with_reducible refine (foldl_desk _ ?_ _ _).trans ?_

@[simp] theorem State.train_desk (s : State) (x1 : _) : (State.train s x1).desk = s.desk := by
  unfold State.train
  repeat' first | with_reducible rfl | with_reducible assumption | intro _ | simp only [State.emit_desk, State.modPort_desk, State.sendControl_desk, desk_mk, desk_eta, Iter.state_done, Iter.state_fmt, Iter.state_trap, Whole.state_ran, Whole.state_stopped, Whole.state_denied] | split | with_reducible refine (foldl_desk _ ?_ _ _).trans ?_

@[simp] theorem State.retrain_desk (s : State) (x1 : _) : (State.retrain s x1).desk = s.desk := by
  unfold State.retrain
  repeat' first | with_reducible rfl | with_reducible assumption | intro _ | simp only [State.modPort_desk, State.train_desk, desk_mk, desk_eta, Iter.state_done, Iter.state_fmt, Iter.state_trap, Whole.state_ran, Whole.state_stopped, Whole.state_denied] | split | with_reducible refine (foldl_desk _ ?_ _ _).trans ?_

theorem execDataFrameReceive_desk {s t : State} {x0 : Nat} {x1 : List Sys2Proof.Byte} (h : execDataFrameReceive x0 x1 s = .next t) : t.desk = s.desk := by
  simp only [execDataFrameReceive, Host.Outcome.next.injEq] at h
  subst h
  repeat' first | with_reducible rfl | with_reducible assumption | intro _ | simp only [State.bump_desk, State.modPort_desk, State.sendControl_desk, desk_mk, desk_eta, Iter.state_done, Iter.state_fmt, Iter.state_trap, Whole.state_ran, Whole.state_stopped, Whole.state_denied] | split | with_reducible refine (foldl_desk _ ?_ _ _).trans ?_

@[simp] theorem State.sendData_desk (s : State) (x1 : _) (x2 : _) (x3 : _) : (State.sendData s x1 x2 x3).desk = s.desk := by
  unfold State.sendData
  repeat' first | with_reducible rfl | with_reducible assumption | intro _ | simp only [State.emit_desk, State.modPort_desk, desk_mk, desk_eta, Iter.state_done, Iter.state_fmt, Iter.state_trap, Whole.state_ran, Whole.state_stopped, Whole.state_denied] | split | with_reducible refine (foldl_desk _ ?_ _ _).trans ?_

@[simp] theorem State.endsLate_desk (s : State) (x1 : _) (x2 : _) (x3 : _) : (State.endsLate s x1 x2 x3).desk = s.desk := by
  unfold State.endsLate
  repeat' first | with_reducible rfl | with_reducible assumption | intro _ | simp only [State.bump_desk, State.modSched_desk, desk_mk, desk_eta, Iter.state_done, Iter.state_fmt, Iter.state_trap, Whole.state_ran, Whole.state_stopped, Whole.state_denied] | split | with_reducible refine (foldl_desk _ ?_ _ _).trans ?_

@[simp] theorem State.resendFrame_desk (s : State) (x1 : _) (x2 : _) : (State.resendFrame s x1 x2).desk = s.desk := by
  unfold State.resendFrame
  repeat' first | with_reducible rfl | with_reducible assumption | intro _ | simp only [State.endsLate_desk, State.sendData_desk, desk_mk, desk_eta, Iter.state_done, Iter.state_fmt, Iter.state_trap, Whole.state_ran, Whole.state_stopped, Whole.state_denied] | split | with_reducible refine (foldl_desk _ ?_ _ _).trans ?_

@[simp] theorem State.startDegrade_desk (s : State) (x1 : _) : (State.startDegrade s x1).desk = s.desk := by
  unfold State.startDegrade
  repeat' first | with_reducible rfl | with_reducible assumption | intro _ | simp only [State.modPort_desk, State.sendControl_desk, desk_mk, desk_eta, Iter.state_done, Iter.state_fmt, Iter.state_trap, Whole.state_ran, Whole.state_stopped, Whole.state_denied] | split | with_reducible refine (foldl_desk _ ?_ _ _).trans ?_

theorem execPortUp_desk {s t : State} {x0 : Nat} {x1 : Sys2Proof.PeerReport} (h : execPortUp x0 x1 s = .next t) : t.desk = s.desk := by
  simp only [execPortUp, Host.Outcome.next.injEq] at h
  subst h
  repeat' first | with_reducible rfl | with_reducible assumption | intro _ | simp only [State.bump_desk, State.modPort_desk, State.raise_desk, State.reportLinks_desk, desk_mk, desk_eta, Iter.state_done, Iter.state_fmt, Iter.state_trap, Whole.state_ran, Whole.state_stopped, Whole.state_denied] | split | with_reducible refine (foldl_desk _ ?_ _ _).trans ?_

theorem execLinkTrainFail_desk {s t : State} {x0 : Nat} (h : execLinkTrainFail x0 s = .next t) : t.desk = s.desk := by
  simp only [execLinkTrainFail, Host.Outcome.next.injEq] at h
  subst h
  repeat' first | with_reducible rfl | with_reducible assumption | intro _ | simp only [State.raise_desk, desk_mk, desk_eta, Iter.state_done, Iter.state_fmt, Iter.state_trap, Whole.state_ran, Whole.state_stopped, Whole.state_denied] | split | with_reducible refine (foldl_desk _ ?_ _ _).trans ?_

theorem execPortRetrainTimer_desk {s t : State} {x0 : Nat} (h : execPortRetrainTimer x0 s = .next t) : t.desk = s.desk := by
  simp only [execPortRetrainTimer, Host.Outcome.next.injEq] at h
  subst h
  repeat' first | with_reducible rfl | with_reducible assumption | intro _ | simp only [State.retrain_desk, desk_mk, desk_eta, Iter.state_done, Iter.state_fmt, Iter.state_trap, Whole.state_ran, Whole.state_stopped, Whole.state_denied] | split | with_reducible refine (foldl_desk _ ?_ _ _).trans ?_

@[simp] theorem State.meterCell_desk (s : State) (x1 : _) (x2 : _) : (State.meterCell s x1 x2).2.desk = s.desk := by
  unfold State.meterCell
  repeat' first | with_reducible rfl | with_reducible assumption | intro _ | simp only [State.bump_desk, State.modSched_desk, desk_mk, desk_eta, Iter.state_done, Iter.state_fmt, Iter.state_trap, Whole.state_ran, Whole.state_stopped, Whole.state_denied] | split | with_reducible refine (foldl_desk _ ?_ _ _).trans ?_

theorem State.colourFate_desk {s t : State} {p : Nat} {c : Cell} (h : s.colourFate p c = some t) : t.desk = s.desk := by
  simp only [State.colourFate] at h
  split at h
  · cases h; simp only [State.bump_desk]
  · split at h
    · cases h; simp only [State.bump_desk]
    · cases h

theorem State.admitCell_desk {s t : State} {p : Nat} {c : Cell} (h : s.admitCell p c = some t) : t.desk = s.desk := by
  have hr : (if s.inPassing c = true then s.exchPassing c else (s, true)).1.desk = s.desk := by
    split
    · rw [State.exchPassing_desk]
    · rfl
  simp only [State.admitCell] at h
  generalize (if s.inPassing c = true then s.exchPassing c else (s, true)) = r at h hr
  repeat' split at h
  all_goals first
    | (cases h; done)
    | (cases h; simp only [State.returnCredit_desk, State.countWay_desk, State.spill_desk, State.store_desk, hr]; done)

theorem State.ingress_desk {s t : State} {p : Nat} {b : List Byte} (h : s.ingress p b = some t) : t.desk = s.desk := by
  simp only [State.ingress] at h
  repeat' split at h
  all_goals first
    | (cases h; simp only [State.returnCredit_desk, State.bump_desk, State.raise_desk]; done)
    | (cases h; rw [State.returnCredit_desk, State.colourFate_desk (by assumption), State.meterCell_desk]; done)
    | (rw [State.admitCell_desk h, State.meterCell_desk]; done)

theorem execCellReceive_desk {s t : State} {x0 : Nat} {x1 : List Sys2Proof.Byte} (h : execCellReceive x0 x1 s = .next t) : t.desk = s.desk := by
  simp only [execCellReceive, Host.Outcome.next.injEq] at h
  subst h
  repeat' first | with_reducible rfl | with_reducible assumption | intro _ | simp only [State.modPort_desk, desk_mk, desk_eta, Iter.state_done, Iter.state_fmt, Iter.state_trap, Whole.state_ran, Whole.state_stopped, Whole.state_denied] | with_reducible refine (State.ingress_desk (by assumption)).trans ?_ | split | with_reducible refine (foldl_desk _ ?_ _ _).trans ?_

theorem execAdaptiveEgressChoice_desk {s t : State} {x0 : Nat} (h : execAdaptiveEgressChoice x0 s = .next t) : t.desk = s.desk := by
  simp only [execAdaptiveEgressChoice, Host.Outcome.next.injEq] at h
  subst h
  repeat' first | with_reducible rfl | with_reducible assumption | intro _ | simp only [State.bump_desk, State.countEgress_desk, State.dropRef_desk, State.enqueue_desk, State.spill_desk, desk_mk, desk_eta, Iter.state_done, Iter.state_fmt, Iter.state_trap, Whole.state_ran, Whole.state_stopped, Whole.state_denied] | split | with_reducible refine (foldl_desk _ ?_ _ _).trans ?_

@[simp] theorem State.streamStep_desk (s : State) (x1 : _) : (State.streamStep s x1).2.desk = s.desk := by
  unfold State.streamStep
  repeat' first | with_reducible rfl | with_reducible assumption | intro _ | simp only [State.draw_desk, desk_mk, desk_eta, Iter.state_done, Iter.state_fmt, Iter.state_trap, Whole.state_ran, Whole.state_stopped, Whole.state_denied] | split | with_reducible refine (foldl_desk _ ?_ _ _).trans ?_

@[simp] theorem State.ackStream_desk (s : State) (x1 : _) : (State.ackStream s x1).desk = s.desk := by
  unfold State.ackStream
  repeat' first | with_reducible rfl | with_reducible assumption | intro _ | simp only [State.sendAck_desk, State.streamStep_desk, desk_mk, desk_eta, Iter.state_done, Iter.state_fmt, Iter.state_trap, Whole.state_ran, Whole.state_stopped, Whole.state_denied] | split | with_reducible refine (foldl_desk _ ?_ _ _).trans ?_

@[simp] theorem State.transferDrop_desk (s : State) (x1 : _) : (State.transferDrop s x1).desk = s.desk := by
  unfold State.transferDrop
  repeat' first | with_reducible rfl | with_reducible assumption | intro _ | simp only [State.bump_desk, State.healFails_desk, State.resilverFails_desk, desk_mk, desk_eta, Iter.state_done, Iter.state_fmt, Iter.state_trap, Whole.state_ran, Whole.state_stopped, Whole.state_denied] | split | with_reducible refine (foldl_desk _ ?_ _ _).trans ?_

@[simp] theorem State.messageIn_desk (s : State) (x1 : _) (x2 : _) : (State.messageIn s x1 x2).desk = s.desk := by
  unfold State.messageIn
  repeat' first | with_reducible rfl | with_reducible assumption | intro _ | simp only [State.bump_desk, State.mismatch_desk, State.transferDrop_desk, desk_mk, desk_eta, Iter.state_done, Iter.state_fmt, Iter.state_trap, Whole.state_ran, Whole.state_stopped, Whole.state_denied] | split | with_reducible refine (foldl_desk _ ?_ _ _).trans ?_

@[simp] theorem State.joinStream_desk (s : State) (x1 : _) : (State.joinStream s x1).desk = s.desk := by
  unfold State.joinStream
  repeat' first | with_reducible rfl | with_reducible assumption | intro _ | simp only [State.ackStream_desk, State.bump_desk, State.messageIn_desk, desk_mk, desk_eta, Iter.state_done, Iter.state_fmt, Iter.state_trap, Whole.state_ran, Whole.state_stopped, Whole.state_denied] | split | with_reducible refine (foldl_desk _ ?_ _ _).trans ?_ | with_reducible refine (foldlB_desk _ ?_ _ _).trans ?_ | with_reducible refine (foldl1_desk _ ?_ _ _).trans ?_ | with_reducible refine (foldl2_desk _ ?_ _ _).trans ?_

theorem execLocalCellDeliver_desk {s t : State} {x0 : Nat} {x1 : Nat} (h : execLocalCellDeliver x0 x1 s = .next t) : t.desk = s.desk := by
  simp only [execLocalCellDeliver, Host.Outcome.next.injEq] at h
  subst h
  repeat' first | with_reducible rfl | with_reducible assumption | intro _ | simp only [State.admitBlocked_desk, State.bump_desk, State.dropRef_desk, State.fillWindow_desk, State.joinStream_desk, State.setQueue_desk, State.setWindow_desk, desk_mk, desk_eta, Iter.state_done, Iter.state_fmt, Iter.state_trap, Whole.state_ran, Whole.state_stopped, Whole.state_denied] | split | with_reducible refine (foldl_desk _ ?_ _ _).trans ?_

@[simp] theorem State.partyFailed_desk (s : State) (x1 : _) : (State.partyFailed s x1).desk = s.desk := by
  unfold State.partyFailed
  repeat' first | with_reducible rfl | with_reducible assumption | intro _ | simp only [State.fenceParty_desk, State.treeLost_desk, desk_mk, desk_eta, Iter.state_done, Iter.state_fmt, Iter.state_trap, Whole.state_ran, Whole.state_stopped, Whole.state_denied] | split | with_reducible refine (foldl_desk _ ?_ _ _).trans ?_ | with_reducible refine (foldlB_desk _ ?_ _ _).trans ?_ | with_reducible refine (foldl1_desk _ ?_ _ _).trans ?_ | with_reducible refine (foldl2_desk _ ?_ _ _).trans ?_

@[simp] theorem State.streamLost_desk (s : State) (x1 : _) (x2 : _) : (State.streamLost s x1 x2).desk = s.desk := by
  unfold State.streamLost
  repeat' first | with_reducible rfl | with_reducible assumption | intro _ | simp only [State.bump_desk, State.partyFailed_desk, State.raise_desk, desk_mk, desk_eta, Iter.state_done, Iter.state_fmt, Iter.state_trap, Whole.state_ran, Whole.state_stopped, Whole.state_denied] | split | with_reducible refine (foldl_desk _ ?_ _ _).trans ?_

theorem execNakTimer_desk {s t : State} {x0 : Sys2Proof.FA} {x1 : BitVec 20} (h : execNakTimer x0 x1 s = .next t) : t.desk = s.desk := by
  simp only [execNakTimer, Host.Outcome.next.injEq] at h
  subst h
  repeat' first | with_reducible rfl | with_reducible assumption | intro _ | simp only [State.bump_desk, State.sendCtrl_desk, State.streamLost_desk, State.streamStep_desk, desk_mk, desk_eta, Iter.state_done, Iter.state_fmt, Iter.state_trap, Whole.state_ran, Whole.state_stopped, Whole.state_denied] | split | with_reducible refine (foldl_desk _ ?_ _ _).trans ?_

@[simp] theorem State.replayCell_desk (s : State) (x1 : _) (x2 : _) : (State.replayCell s x1 x2).desk = s.desk := by
  unfold State.replayCell
  repeat' first | with_reducible rfl | with_reducible assumption | intro _ | simp only [State.bump_desk, State.output_desk, State.spill_desk, desk_mk, desk_eta, Iter.state_done, Iter.state_fmt, Iter.state_trap, Whole.state_ran, Whole.state_stopped, Whole.state_denied] | split | with_reducible refine (foldl_desk _ ?_ _ _).trans ?_

@[simp] theorem State.fetchSpilled_desk (s : State) (x1 : _) (x2 : _) : (State.fetchSpilled s x1 x2).desk = s.desk := by
  unfold State.fetchSpilled
  repeat' first | with_reducible rfl | with_reducible assumption | intro _ | simp only [State.fetchObject_desk, desk_mk, desk_eta, Iter.state_done, Iter.state_fmt, Iter.state_trap, Whole.state_ran, Whole.state_stopped, Whole.state_denied] | split | with_reducible refine (foldl_desk _ ?_ _ _).trans ?_

theorem execProbeTimer_desk {s t : State} {x0 : Sys2Proof.FA} {x1 : BitVec 20} (h : execProbeTimer x0 x1 s = .next t) : t.desk = s.desk := by
  simp only [execProbeTimer, Host.Outcome.next.injEq] at h
  subst h
  repeat' first | with_reducible rfl | with_reducible assumption | intro _ | simp only [State.fetchSpilled_desk, State.replayCell_desk, State.setTx_desk, State.streamLost_desk, desk_mk, desk_eta, Iter.state_done, Iter.state_fmt, Iter.state_trap, Whole.state_ran, Whole.state_stopped, Whole.state_denied] | split | with_reducible refine (foldl_desk _ ?_ _ _).trans ?_

theorem execAckReceive_desk {s t : State} {x0 : Sys2Proof.FA} {x1 : BitVec 20} {x2 : BitVec 24} {x3 : Nat} {x4 : Nat} (h : execAckReceive x0 x1 x2 x3 x4 s = .next t) : t.desk = s.desk := by
  simp only [execAckReceive, Host.Outcome.next.injEq] at h
  subst h
  repeat' first | with_reducible rfl | with_reducible assumption | intro _ | simp only [State.admitBlocked_desk, State.creditBack_desk, State.progress_desk, State.pump_desk, State.release_desk, State.setTx_desk, State.takeCtrl_desk, desk_mk, desk_eta, Iter.state_done, Iter.state_fmt, Iter.state_trap, Whole.state_ran, Whole.state_stopped, Whole.state_denied] | split | with_reducible refine (foldl_desk _ ?_ _ _).trans ?_

theorem execNakReceive_desk {s t : State} {x0 : Sys2Proof.FA} {x1 : BitVec 20} {x2 : Nat} {x3 : List (Nat × Nat)} (h : execNakReceive x0 x1 x2 x3 s = .next t) : t.desk = s.desk := by
  simp only [execNakReceive, Host.Outcome.next.injEq] at h
  subst h
  repeat' first | with_reducible rfl | with_reducible assumption | intro _ | simp only [State.fetchSpilled_desk, State.replayCell_desk, State.takeCtrl_desk, desk_mk, desk_eta, Iter.state_done, Iter.state_fmt, Iter.state_trap, Whole.state_ran, Whole.state_stopped, Whole.state_denied] | split | with_reducible refine (foldl_desk _ ?_ _ _).trans ?_ | with_reducible refine (foldlB_desk _ ?_ _ _).trans ?_ | with_reducible refine (foldl1_desk _ ?_ _ _).trans ?_ | with_reducible refine (foldl2_desk _ ?_ _ _).trans ?_

theorem execGateEntryBoundary_desk {s t : State} {x0 : Nat} (h : execGateEntryBoundary x0 s = .next t) : t.desk = s.desk := by
  simp only [execGateEntryBoundary, Host.Outcome.next.injEq] at h
  subst h
  repeat' first | with_reducible rfl | with_reducible assumption | intro _ | simp only [State.modSched_desk, desk_mk, desk_eta, Iter.state_done, Iter.state_fmt, Iter.state_trap, Whole.state_ran, Whole.state_stopped, Whole.state_denied] | split | with_reducible refine (foldl_desk _ ?_ _ _).trans ?_

@[simp] theorem State.chargeSelect_desk (s : State) (x1 : _) (x2 : _) (x3 : _) : (State.chargeSelect s x1 x2 x3).desk = s.desk := by
  unfold State.chargeSelect
  repeat' first | with_reducible rfl | with_reducible assumption | intro _ | simp only [State.modSched_desk, desk_mk, desk_eta, Iter.state_done, Iter.state_fmt, Iter.state_trap, Whole.state_ran, Whole.state_stopped, Whole.state_denied] | split | with_reducible refine (foldl_desk _ ?_ _ _).trans ?_

@[simp] theorem State.selectAux_desk (s : State) (x0 : _) (x1 : _) : (State.selectAux x0 x1 s).desk = s.desk := by
  induction x1 generalizing s with
  | zero => unfold State.selectAux; repeat' first | with_reducible rfl | with_reducible assumption | intro _ | simp only [State.bump_desk, State.chargeSelect_desk, State.dropRef_desk, State.modPort_desk, State.select_desk, State.setQueue_desk, State.tookCopy_desk, desk_mk, desk_eta, Iter.state_done, Iter.state_fmt, Iter.state_trap, Whole.state_ran, Whole.state_stopped, Whole.state_denied] | split | with_reducible refine (foldl_desk _ ?_ _ _).trans ?_
  | succ n ih =>
    unfold State.selectAux
    repeat' first | with_reducible rfl | with_reducible assumption | intro _ | simp only [ih, State.bump_desk, State.chargeSelect_desk, State.dropRef_desk, State.modPort_desk, State.select_desk, State.setQueue_desk, State.tookCopy_desk, desk_mk, desk_eta, Iter.state_done, Iter.state_fmt, Iter.state_trap, Whole.state_ran, Whole.state_stopped, Whole.state_denied] | split | with_reducible refine (foldl_desk _ ?_ _ _).trans ?_

@[simp] theorem State.holdMisfits_desk (s : State) (x1 : _) : (State.holdMisfits s x1).desk = s.desk := by
  unfold State.holdMisfits
  repeat' first | with_reducible rfl | with_reducible assumption | intro _ | simp only [State.modSched_desk, desk_mk, desk_eta, Iter.state_done, Iter.state_fmt, Iter.state_trap, Whole.state_ran, Whole.state_stopped, Whole.state_denied] | split | with_reducible refine (foldl_desk _ ?_ _ _).trans ?_

theorem execSchedulerSelect_desk {s t : State} {x0 : Nat} (h : execSchedulerSelect x0 s = .next t) : t.desk = s.desk := by
  simp only [execSchedulerSelect, Host.Outcome.next.injEq] at h
  subst h
  repeat' first | with_reducible rfl | with_reducible assumption | intro _ | simp only [State.admitBlocked_desk, State.holdMisfits_desk, State.selectAux_desk, desk_mk, desk_eta, Iter.state_done, Iter.state_fmt, Iter.state_trap, Whole.state_ran, Whole.state_stopped, Whole.state_denied] | split | with_reducible refine (foldl_desk _ ?_ _ _).trans ?_

theorem execRateWheelWake_desk {s t : State} {x0 : Nat} {x1 : Nat} (h : execRateWheelWake x0 x1 s = .next t) : t.desk = s.desk := by
  simp only [execRateWheelWake, Host.Outcome.next.injEq] at h
  subst h
  repeat' first | with_reducible rfl | with_reducible assumption | intro _ | simp only [State.modSched_desk, desk_mk, desk_eta, Iter.state_done, Iter.state_fmt, Iter.state_trap, Whole.state_ran, Whole.state_stopped, Whole.state_denied] | split | with_reducible refine (foldl_desk _ ?_ _ _).trans ?_

theorem execCellTransmit_desk {s t : State} {x0 : Nat} {x1 : Nat} (h : execCellTransmit x0 x1 s = .next t) : t.desk = s.desk := by
  simp only [execCellTransmit, Host.Outcome.next.injEq] at h
  subst h
  repeat' first | with_reducible rfl | with_reducible assumption | intro _ | simp only [State.admitBlocked_desk, State.dropRef_desk, State.endsLate_desk, State.modPort_desk, State.modSched_desk, State.sendData_desk, State.setWindow_desk, desk_mk, desk_eta, Iter.state_done, Iter.state_fmt, Iter.state_trap, Whole.state_ran, Whole.state_stopped, Whole.state_denied] | split | with_reducible refine (foldl_desk _ ?_ _ _).trans ?_

@[simp] theorem State.wipeCells_desk (s : State) : (State.wipeCells s).desk = s.desk := by
  unfold State.wipeCells
  repeat' first | with_reducible rfl | with_reducible assumption | intro _ | simp only [State.returnCredit_desk, desk_mk, desk_eta, Iter.state_done, Iter.state_fmt, Iter.state_trap, Whole.state_ran, Whole.state_stopped, Whole.state_denied] | split | with_reducible refine (foldl_desk _ ?_ _ _).trans ?_ | with_reducible refine (foldlB_desk _ ?_ _ _).trans ?_ | with_reducible refine (foldl1_desk _ ?_ _ _).trans ?_ | with_reducible refine (foldl2_desk _ ?_ _ _).trans ?_

@[simp] theorem State.emptyStreams_desk (s : State) : (State.emptyStreams s).desk = s.desk := by
  unfold State.emptyStreams
  repeat' first | with_reducible rfl | with_reducible assumption | intro _ | simp only [desk_mk, desk_eta, Iter.state_done, Iter.state_fmt, Iter.state_trap, Whole.state_ran, Whole.state_stopped, Whole.state_denied] | split | with_reducible refine (foldl_desk _ ?_ _ _).trans ?_

@[simp] theorem State.lapisWipe_desk (s : State) : (State.lapisWipe s).desk = s.desk := by
  unfold State.lapisWipe
  repeat' first | with_reducible rfl | with_reducible assumption | intro _ | simp only [State.emptyStreams_desk, State.wipeCells_desk, State.wiped_desk, desk_mk, desk_eta, Iter.state_done, Iter.state_fmt, Iter.state_trap, Whole.state_ran, Whole.state_stopped, Whole.state_denied] | split | with_reducible refine (foldl_desk _ ?_ _ _).trans ?_

@[simp] theorem State.burnConfig_desk (s : State) (x1 : _) (x2 : _) : (State.burnConfig s x1 x2).1.desk = s.desk := by
  unfold State.burnConfig
  repeat' first | with_reducible rfl | with_reducible assumption | intro _ | simp only [desk_mk, desk_eta, Iter.state_done, Iter.state_fmt, Iter.state_trap, Whole.state_ran, Whole.state_stopped, Whole.state_denied] | split | with_reducible refine (foldl_desk _ ?_ _ _).trans ?_

@[simp] theorem State.beforeBurn_desk (s : State) (x1 : _) (x2 : _) (x3 : _) : (State.beforeBurn s x1 x2 x3).1.desk = s.desk := by
  unfold State.beforeBurn
  repeat' first | with_reducible rfl | with_reducible assumption | intro _ | simp only [State.burnConfig_desk, State.draw_desk, desk_mk, desk_eta, Iter.state_done, Iter.state_fmt, Iter.state_trap, Whole.state_ran, Whole.state_stopped, Whole.state_denied] | split | with_reducible refine (foldl_desk _ ?_ _ _).trans ?_

@[simp] theorem State.afterBurn_desk (s : State) (x1 : _) : (State.afterBurn s x1).desk = s.desk := by
  unfold State.afterBurn
  repeat' first | with_reducible rfl | with_reducible assumption | intro _ | simp only [desk_mk, desk_eta, Iter.state_done, Iter.state_fmt, Iter.state_trap, Whole.state_ran, Whole.state_stopped, Whole.state_denied] | split | with_reducible refine (foldl_desk _ ?_ _ _).trans ?_

@[simp] theorem State.dropImport_desk (s : State) (x1 : _) : (State.dropImport s x1).desk = s.desk := by
  unfold State.dropImport
  repeat' first | with_reducible rfl | with_reducible assumption | intro _ | simp only [State.draw_desk, State.putRange_desk, desk_mk, desk_eta, Iter.state_done, Iter.state_fmt, Iter.state_trap, Whole.state_ran, Whole.state_stopped, Whole.state_denied] | split | with_reducible refine (foldl_desk _ ?_ _ _).trans ?_

@[simp] theorem State.dropWipe_desk (s : State) : (State.dropWipe s).desk = s.desk := by
  unfold State.dropWipe
  repeat' first | with_reducible rfl | with_reducible assumption | intro _ | simp only [State.draw_desk, State.memClear_desk, desk_mk, desk_eta, Iter.state_done, Iter.state_fmt, Iter.state_trap, Whole.state_ran, Whole.state_stopped, Whole.state_denied] | split | with_reducible refine (foldl_desk _ ?_ _ _).trans ?_

@[simp] theorem State.catchUp_desk (s : State) : (State.catchUp s).desk = s.desk := by
  unfold State.catchUp
  repeat' first | with_reducible rfl | with_reducible assumption | intro _ | simp only [State.decideDead_desk, State.partyFailed_desk, State.reportLinks_desk, desk_mk, desk_eta, Iter.state_done, Iter.state_fmt, Iter.state_trap, Whole.state_ran, Whole.state_stopped, Whole.state_denied] | split | with_reducible refine (foldl_desk _ ?_ _ _).trans ?_ | with_reducible refine (foldlB_desk _ ?_ _ _).trans ?_ | with_reducible refine (foldl1_desk _ ?_ _ _).trans ?_ | with_reducible refine (foldl2_desk _ ?_ _ _).trans ?_

@[simp] theorem State.writeHandoff_desk (s : State) : (State.writeHandoff s).desk = s.desk := by
  unfold State.writeHandoff
  repeat' first | with_reducible rfl | with_reducible assumption | intro _ | simp only [State.memWrite_desk, desk_mk, desk_eta, Iter.state_done, Iter.state_fmt, Iter.state_trap, Whole.state_ran, Whole.state_stopped, Whole.state_denied] | split | with_reducible refine (foldl_desk _ ?_ _ _).trans ?_

@[simp] theorem State.leaveLockstep_desk (s : State) (x1 : _) : (State.leaveLockstep s x1).desk = s.desk := by
  unfold State.leaveLockstep
  repeat' first | with_reducible rfl | with_reducible assumption | intro _ | simp only [State.bump_desk, State.raise_desk, desk_mk, desk_eta, Iter.state_done, Iter.state_fmt, Iter.state_trap, Whole.state_ran, Whole.state_stopped, Whole.state_denied] | split | with_reducible refine (foldl_desk _ ?_ _ _).trans ?_

@[simp] theorem State.modeWrite_desk (s : State) (x1 : _) : (State.modeWrite s x1).desk = s.desk := by
  unfold State.modeWrite
  repeat' first | with_reducible rfl | with_reducible assumption | intro _ | simp only [State.leaveLockstep_desk, desk_mk, desk_eta, Iter.state_done, Iter.state_fmt, Iter.state_trap, Whole.state_ran, Whole.state_stopped, Whole.state_denied] | split | with_reducible refine (foldl_desk _ ?_ _ _).trans ?_

theorem execLockstepRequest_desk {s t : State} {x0 : Sys2Proof.Word} (h : execLockstepRequest x0 s = .next t) : t.desk = s.desk := by
  simp only [execLockstepRequest, Host.Outcome.next.injEq] at h
  subst h
  repeat' first | with_reducible rfl | with_reducible assumption | intro _ | simp only [State.modeWrite_desk, desk_mk, desk_eta, Iter.state_done, Iter.state_fmt, Iter.state_trap, Whole.state_ran, Whole.state_stopped, Whole.state_denied] | split | with_reducible refine (foldl_desk _ ?_ _ _).trans ?_

theorem execLockstepEnter_desk {s t : State} (h : execLockstepEnter s = .next t) : t.desk = s.desk := by
  simp only [execLockstepEnter, Host.Outcome.next.injEq] at h
  subst h
  repeat' first | with_reducible rfl | with_reducible assumption | intro _ | simp only [State.raise_desk, desk_mk, desk_eta, Iter.state_done, Iter.state_fmt, Iter.state_trap, Whole.state_ran, Whole.state_stopped, Whole.state_denied] | split | with_reducible refine (foldl_desk _ ?_ _ _).trans ?_

theorem execClkLockLost_desk {s t : State} {x0 : BitVec 3} (h : execClkLockLost x0 s = .next t) : t.desk = s.desk := by
  simp only [execClkLockLost, Host.Outcome.next.injEq] at h
  subst h
  repeat' first | with_reducible rfl | with_reducible assumption | intro _ | simp only [State.leaveLockstep_desk, State.raise_desk, desk_mk, desk_eta, Iter.state_done, Iter.state_fmt, Iter.state_trap, Whole.state_ran, Whole.state_stopped, Whole.state_denied] | split | with_reducible refine (foldl_desk _ ?_ _ _).trans ?_

@[simp] theorem State.refclkBack_desk (s : State) (x1 : _) : (State.refclkBack s x1).desk = s.desk := by
  unfold State.refclkBack
  repeat' first | with_reducible rfl | with_reducible assumption | intro _ | simp only [State.modPort_desk, State.retrain_desk, desk_mk, desk_eta, Iter.state_done, Iter.state_fmt, Iter.state_trap, Whole.state_ran, Whole.state_stopped, Whole.state_denied] | split | with_reducible refine (foldl_desk _ ?_ _ _).trans ?_

theorem execLinkRefclkRestored_desk {s t : State} {x0 : Nat} (h : execLinkRefclkRestored x0 s = .next t) : t.desk = s.desk := by
  simp only [execLinkRefclkRestored, Host.Outcome.next.injEq] at h
  subst h
  repeat' first | with_reducible rfl | with_reducible assumption | intro _ | simp only [State.refclkBack_desk, desk_mk, desk_eta, Iter.state_done, Iter.state_fmt, Iter.state_trap, Whole.state_ran, Whole.state_stopped, Whole.state_denied] | split | with_reducible refine (foldl_desk _ ?_ _ _).trans ?_ | with_reducible refine (foldlB_desk _ ?_ _ _).trans ?_ | with_reducible refine (foldl1_desk _ ?_ _ _).trans ?_ | with_reducible refine (foldl2_desk _ ?_ _ _).trans ?_

theorem execXtalLost_desk {s t : State} (h : execXtalLost s = .next t) : t.desk = s.desk := by
  simp only [execXtalLost, Host.Outcome.next.injEq] at h
  subst h
  repeat' first | with_reducible rfl | with_reducible assumption | intro _ | simp only [State.raise_desk, desk_mk, desk_eta, Iter.state_done, Iter.state_fmt, Iter.state_trap, Whole.state_ran, Whole.state_stopped, Whole.state_denied] | split | with_reducible refine (foldl_desk _ ?_ _ _).trans ?_

theorem execThermWarn_desk {s t : State} {x0 : Sys2Proof.Byte} (h : execThermWarn x0 s = .next t) : t.desk = s.desk := by
  simp only [execThermWarn, Host.Outcome.next.injEq] at h
  subst h
  repeat' first | with_reducible rfl | with_reducible assumption | intro _ | simp only [State.raise_desk, desk_mk, desk_eta, Iter.state_done, Iter.state_fmt, Iter.state_trap, Whole.state_ran, Whole.state_stopped, Whole.state_denied] | split | with_reducible refine (foldl_desk _ ?_ _ _).trans ?_

theorem execThermWarnClear_desk {s t : State} {x0 : Sys2Proof.Byte} (h : execThermWarnClear x0 s = .next t) : t.desk = s.desk := by
  simp only [execThermWarnClear, Host.Outcome.next.injEq] at h
  subst h
  repeat' first | with_reducible rfl | with_reducible assumption | intro _ | simp only [desk_mk, desk_eta, Iter.state_done, Iter.state_fmt, Iter.state_trap, Whole.state_ran, Whole.state_stopped, Whole.state_denied] | split | with_reducible refine (foldl_desk _ ?_ _ _).trans ?_

theorem execVinHigh_desk {s t : State} {x0 : BitVec 16} (h : execVinHigh x0 s = .next t) : t.desk = s.desk := by
  simp only [execVinHigh, Host.Outcome.next.injEq] at h
  subst h
  repeat' first | with_reducible rfl | with_reducible assumption | intro _ | simp only [State.raise_desk, desk_mk, desk_eta, Iter.state_done, Iter.state_fmt, Iter.state_trap, Whole.state_ran, Whole.state_stopped, Whole.state_denied] | split | with_reducible refine (foldl_desk _ ?_ _ _).trans ?_

@[simp] theorem State.tearSave_desk (s : State) : (State.tearSave s).desk = s.desk := by
  unfold State.tearSave
  repeat' first | with_reducible rfl | with_reducible assumption | intro _ | simp only [State.draw_desk, desk_mk, desk_eta, Iter.state_done, Iter.state_fmt, Iter.state_trap, Whole.state_ran, Whole.state_stopped, Whole.state_denied] | split | with_reducible refine (foldl_desk _ ?_ _ _).trans ?_

@[simp] theorem State.readSaves_desk (s : State) : (State.readSaves s).desk = s.desk := by
  unfold State.readSaves
  repeat' first | with_reducible rfl | with_reducible assumption | intro _ | simp only [State.raise_desk, desk_mk, desk_eta, Iter.state_done, Iter.state_fmt, Iter.state_trap, Whole.state_ran, Whole.state_stopped, Whole.state_denied] | split | with_reducible refine (foldl_desk _ ?_ _ _).trans ?_

@[simp] theorem State.tripOff_desk (s : State) : (State.tripOff s).desk = s.desk := by
  unfold State.tripOff
  repeat' first | with_reducible rfl | with_reducible assumption | intro _ | simp only [State.bump_desk, desk_mk, desk_eta, Iter.state_done, Iter.state_fmt, Iter.state_trap, Whole.state_ran, Whole.state_stopped, Whole.state_denied] | split | with_reducible refine (foldl_desk _ ?_ _ _).trans ?_

theorem execMoonstoneSaveDone_desk {s t : State} (h : execMoonstoneSaveDone s = .next t) : t.desk = s.desk := by
  simp only [execMoonstoneSaveDone, Host.Outcome.next.injEq] at h
  subst h
  repeat' first | with_reducible rfl | with_reducible assumption | intro _ | simp only [State.bump_desk, desk_mk, desk_eta, Iter.state_done, Iter.state_fmt, Iter.state_trap, Whole.state_ran, Whole.state_stopped, Whole.state_denied] | split | with_reducible refine (foldl_desk _ ?_ _ _).trans ?_

@[simp] theorem State.stageTo_desk (s : State) (x1 : _) : (State.stageTo s x1).desk = s.desk := by
  unfold State.stageTo
  repeat' first | with_reducible rfl | with_reducible assumption | intro _ | simp only [desk_mk, desk_eta, Iter.state_done, Iter.state_fmt, Iter.state_trap, Whole.state_ran, Whole.state_stopped, Whole.state_denied] | split | with_reducible refine (foldl_desk _ ?_ _ _).trans ?_

@[simp] theorem State.stageAlign_desk (s : State) (x1 : _) : (State.stageAlign s x1).desk = s.desk := by
  unfold State.stageAlign
  repeat' first | with_reducible rfl | with_reducible assumption | intro _ | simp only [State.stageTo_desk, desk_mk, desk_eta, Iter.state_done, Iter.state_fmt, Iter.state_trap, Whole.state_ran, Whole.state_stopped, Whole.state_denied] | split | with_reducible refine (foldl_desk _ ?_ _ _).trans ?_

@[simp] theorem State.bootKeys_desk (s : State) (x1 : _) : (State.bootKeys s x1).desk = s.desk := by
  unfold State.bootKeys
  repeat' first | with_reducible rfl | with_reducible assumption | intro _ | simp only [State.afterBurn_desk, State.raise_desk, desk_mk, desk_eta, Iter.state_done, Iter.state_fmt, Iter.state_trap, Whole.state_ran, Whole.state_stopped, Whole.state_denied] | split | with_reducible refine (foldl_desk _ ?_ _ _).trans ?_

@[simp] theorem State.stageReady_desk (s : State) : (State.stageReady s).desk = s.desk := by
  unfold State.stageReady
  repeat' first | with_reducible rfl | with_reducible assumption | intro _ | simp only [State.raise_desk, State.wiped_desk, desk_mk, desk_eta, Iter.state_done, Iter.state_fmt, Iter.state_trap, Whole.state_ran, Whole.state_stopped, Whole.state_denied] | split | with_reducible refine (foldl_desk _ ?_ _ _).trans ?_

@[simp] theorem State.ovfWrite_desk (s : State) (x1 : _) (x2 : _) : (State.ovfWrite s x1 x2).desk = s.desk := by
  unfold State.ovfWrite
  repeat' first | with_reducible rfl | with_reducible assumption | intro _ | simp only [State.clearCtr_desk, desk_mk, desk_eta, Iter.state_done, Iter.state_fmt, Iter.state_trap, Whole.state_ran, Whole.state_stopped, Whole.state_denied] | split | with_reducible refine (foldl_desk _ ?_ _ _).trans ?_ | with_reducible refine (foldlB_desk _ ?_ _ _).trans ?_ | with_reducible refine (foldl1_desk _ ?_ _ _).trans ?_ | with_reducible refine (foldl2_desk _ ?_ _ _).trans ?_

theorem State.lockOr_desk (s : State) (r : Reg) (a : Nat) (f : State → State) (h : ∀ t, (f t).desk = t.desk) : (s.lockOr r a f).desk = s.desk := by
  unfold State.lockOr
  split
  · simp only [State.raise_desk]
  · rw [h]; rfl

@[simp] theorem State.ueLogWrite_desk (s : State) (x1 : _) : (State.ueLogWrite s x1).desk = s.desk := by
  unfold State.ueLogWrite
  repeat' first | with_reducible rfl | with_reducible assumption | intro _ | simp only [desk_mk, desk_eta, Iter.state_done, Iter.state_fmt, Iter.state_trap, Whole.state_ran, Whole.state_stopped, Whole.state_denied] | split | with_reducible refine (foldl_desk _ ?_ _ _).trans ?_

@[simp] theorem State.alertWrite_desk (s : State) (x1 : _) : (State.alertWrite s x1).desk = s.desk := by
  unfold State.alertWrite
  repeat' first | with_reducible rfl | with_reducible assumption | intro _ | simp only [desk_mk, desk_eta, Iter.state_done, Iter.state_fmt, Iter.state_trap, Whole.state_ran, Whole.state_stopped, Whole.state_denied] | split | with_reducible refine (foldl_desk _ ?_ _ _).trans ?_

@[simp] theorem State.rateLifted_desk (s : State) (x1 : _) : (State.rateLifted s x1).desk = s.desk := by
  unfold State.rateLifted
  repeat' first | with_reducible rfl | with_reducible assumption | intro _ | simp only [State.modSched_desk, desk_mk, desk_eta, Iter.state_done, Iter.state_fmt, Iter.state_trap, Whole.state_ran, Whole.state_stopped, Whole.state_denied] | split | with_reducible refine (foldl_desk _ ?_ _ _).trans ?_

theorem execStewardRd_desk {s t : State} {x0 : List Sys2Proof.Byte} (h : execStewardRd x0 s = .next t) : t.desk = s.desk := by
  simp only [execStewardRd, Host.Outcome.next.injEq] at h
  subst h
  repeat' first | with_reducible rfl | with_reducible assumption | intro _ | simp only [State.bump_desk, State.emit_desk, desk_mk, desk_eta, Iter.state_done, Iter.state_fmt, Iter.state_trap, Whole.state_ran, Whole.state_stopped, Whole.state_denied] | split | with_reducible refine (foldl_desk _ ?_ _ _).trans ?_

theorem execCounterOvfClear_desk {s t : State} {x0 : Nat} {x1 : Sys2Proof.Word} (h : execCounterOvfClear x0 x1 s = .next t) : t.desk = s.desk := by
  simp only [execCounterOvfClear, Host.Outcome.next.injEq] at h
  subst h
  repeat' first | with_reducible rfl | with_reducible assumption | intro _ | simp only [State.ovfWrite_desk, desk_mk, desk_eta, Iter.state_done, Iter.state_fmt, Iter.state_trap, Whole.state_ran, Whole.state_stopped, Whole.state_denied] | split | with_reducible refine (foldl_desk _ ?_ _ _).trans ?_

theorem execMemUeLogClear_desk {s t : State} {x0 : Sys2Proof.Word} (h : execMemUeLogClear x0 s = .next t) : t.desk = s.desk := by
  simp only [execMemUeLogClear, Host.Outcome.next.injEq] at h
  subst h
  repeat' first | with_reducible rfl | with_reducible assumption | intro _ | simp only [State.ueLogWrite_desk, desk_mk, desk_eta, Iter.state_done, Iter.state_fmt, Iter.state_trap, Whole.state_ran, Whole.state_stopped, Whole.state_denied] | split | with_reducible refine (foldl_desk _ ?_ _ _).trans ?_

theorem execAlertClear_desk {s t : State} {x0 : Sys2Proof.Word} (h : execAlertClear x0 s = .next t) : t.desk = s.desk := by
  simp only [execAlertClear, Host.Outcome.next.injEq] at h
  subst h
  repeat' first | with_reducible rfl | with_reducible assumption | intro _ | simp only [State.alertWrite_desk, desk_mk, desk_eta, Iter.state_done, Iter.state_fmt, Iter.state_trap, Whole.state_ran, Whole.state_stopped, Whole.state_denied] | split | with_reducible refine (foldl_desk _ ?_ _ _).trans ?_

theorem execBmcRead_desk {s t : State} {x0 : Nat} {x1 : Nat} (h : execBmcRead x0 x1 s = .next t) : t.desk = s.desk := by
  simp only [execBmcRead, Host.Outcome.next.injEq] at h
  subst h
  repeat' first | with_reducible rfl | with_reducible assumption | intro _ | simp only [State.emit_desk, desk_mk, desk_eta, Iter.state_done, Iter.state_fmt, Iter.state_trap, Whole.state_ran, Whole.state_stopped, Whole.state_denied] | split | with_reducible refine (foldl_desk _ ?_ _ _).trans ?_

theorem execRefresh_desk {s t : State} {x0 : Nat} (h : execRefresh x0 s = .next t) : t.desk = s.desk := by
  simp only [execRefresh, Host.Outcome.next.injEq] at h
  subst h
  repeat' first | with_reducible rfl | with_reducible assumption | intro _ | simp only [State.bump_desk, desk_mk, desk_eta, Iter.state_done, Iter.state_fmt, Iter.state_trap, Whole.state_ran, Whole.state_stopped, Whole.state_denied] | split | with_reducible refine (foldl_desk _ ?_ _ _).trans ?_

theorem execRefreshStatusRead_desk {s t : State} {x0 : Nat} {x1 : Bool} (h : execRefreshStatusRead x0 x1 s = .next t) : t.desk = s.desk := by
  simp only [execRefreshStatusRead, Host.Outcome.next.injEq] at h
  subst h
  repeat' first | with_reducible rfl | with_reducible assumption | intro _ | simp only [State.leaveLockstep_desk, State.raise_desk, desk_mk, desk_eta, Iter.state_done, Iter.state_fmt, Iter.state_trap, Whole.state_ran, Whole.state_stopped, Whole.state_denied] | split | with_reducible refine (foldl_desk _ ?_ _ _).trans ?_

theorem execMemHotClear_desk {s t : State} (h : execMemHotClear s = .next t) : t.desk = s.desk := by
  simp only [execMemHotClear, Host.Outcome.next.injEq] at h
  subst h
  repeat' first | with_reducible rfl | with_reducible assumption | intro _ | simp only [State.raise_desk, desk_mk, desk_eta, Iter.state_done, Iter.state_fmt, Iter.state_trap, Whole.state_ran, Whole.state_stopped, Whole.state_denied] | split | with_reducible refine (foldl_desk _ ?_ _ _).trans ?_

theorem execHealthSample_desk {s t : State} {x0 : Nat} {x1 : Sys2Proof.Measure} (h : execHealthSample x0 x1 s = .next t) : t.desk = s.desk := by
  simp only [execHealthSample, Host.Outcome.next.injEq] at h
  subst h
  repeat' first | with_reducible rfl | with_reducible assumption | intro _ | simp only [State.raise_desk, desk_mk, desk_eta, Iter.state_done, Iter.state_fmt, Iter.state_trap, Whole.state_ran, Whole.state_stopped, Whole.state_denied] | split | with_reducible refine (foldl_desk _ ?_ _ _).trans ?_

/-! ### The register file where a function changes another of them -/

theorem desk_regs (s : State) : s.regs = s.desk.1 := (rfl)

theorem foldl_regs {α : Type} (f : State → α → State) (h : ∀ t a, (f t a).desk.1 = t.desk.1) (l : List α) (b : State) :
    (l.foldl f b).desk.1 = b.desk.1 := by
  induction l generalizing b with
  | nil => rfl
  | cons a l ih => rw [List.foldl_cons, ih, h]

theorem foldlB_regs {α : Type} (f : Body → α → Body) (h : ∀ t a, (f t a).s.desk.1 = t.s.desk.1) (l : List α) (b : Body) :
    (l.foldl f b).s.desk.1 = b.s.desk.1 := by
  induction l generalizing b with
  | nil => rfl
  | cons a l ih => rw [List.foldl_cons, ih, h]

theorem foldl1_regs {α β : Type} (f : State × β → α → State × β) (h : ∀ t a, (f t a).1.desk.1 = t.1.desk.1) (l : List α) (b : State × β) :
    (l.foldl f b).1.desk.1 = b.1.desk.1 := by
  induction l generalizing b with
  | nil => rfl
  | cons a l ih => rw [List.foldl_cons, ih, h]

theorem foldl2_regs {α β : Type} (f : β × State → α → β × State) (h : ∀ t a, (f t a).2.desk.1 = t.2.desk.1) (l : List α) (b : β × State) :
    (l.foldl f b).2.desk.1 = b.2.desk.1 := by
  induction l generalizing b with
  | nil => rfl
  | cons a l ih => rw [List.foldl_cons, ih, h]

@[simp] theorem State.setRing_regs (s : State) (x1 : _) (x2 : _) : (State.setRing s x1 x2).desk.1 = s.desk.1 := by
  unfold State.setRing
  repeat' first | with_reducible rfl | with_reducible assumption | intro _ | simp only [desk_mk, desk_eta, desk_regs, Iter.state_done, Iter.state_fmt, Iter.state_trap, Whole.state_ran, Whole.state_stopped, Whole.state_denied] | split | with_reducible refine (foldl_regs _ ?_ _ _).trans ?_

@[simp] theorem State.ringError_regs (s : State) (x1 : _) : (State.ringError s x1).desk.1 = s.desk.1 := by
  unfold State.ringError
  repeat' first | with_reducible rfl | with_reducible assumption | intro _ | simp only [State.raise_desk, State.setRing_regs, desk_mk, desk_eta, desk_regs, Iter.state_done, Iter.state_fmt, Iter.state_trap, Whole.state_ran, Whole.state_stopped, Whole.state_denied] | split | with_reducible refine (foldl_regs _ ?_ _ _).trans ?_

@[simp] theorem State.writeHeld_regs (s : State) (x1 : _) : (State.writeHeld s x1).1.desk.1 = s.desk.1 := by
  unfold State.writeHeld
  repeat' first | with_reducible rfl | with_reducible assumption | intro _ | simp only [State.emit_desk, State.setRing_regs, desk_mk, desk_eta, desk_regs, Iter.state_done, Iter.state_fmt, Iter.state_trap, Whole.state_ran, Whole.state_stopped, Whole.state_denied] | split | with_reducible refine (foldl_regs _ ?_ _ _).trans ?_

@[simp] theorem flushAux_regs (cq n : Nat) (r : State × Bool) : (State.flushAux cq n r).1.desk.1 = r.1.desk.1 := by
  induction n generalizing r with
  | zero => rfl
  | succ n ih =>
    obtain ⟨s, any⟩ := r
    have e := State.writeHeld_regs s cq
    cases hw : s.writeHeld cq with
    | mk t did =>
      rw [hw] at e
      simp only [State.flushAux, hw]
      split
      · rw [ih]; exact e
      · rfl

@[simp] theorem State.trace_regs (s : State) (x1 : _) (x2 : _) (x3 : _) (x4 : _) : (State.trace s x1 x2 x3 x4).desk.1 = s.desk.1 := by
  unfold State.trace
  repeat' first | with_reducible rfl | with_reducible assumption | intro _ | simp only [State.bump_desk, State.draw_desk, State.emit_desk, desk_mk, desk_eta, desk_regs, Iter.state_done, Iter.state_fmt, Iter.state_trap, Whole.state_ran, Whole.state_stopped, Whole.state_denied] | split | with_reducible refine (foldl_regs _ ?_ _ _).trans ?_

@[simp] theorem State.sqBell_regs (s : State) (x1 : _) (x2 : _) : (State.sqBell s x1 x2).desk.1 = s.desk.1 := by
  unfold State.sqBell
  repeat' first | with_reducible rfl | with_reducible assumption | intro _ | simp only [State.ringError_regs, State.setRing_regs, desk_mk, desk_eta, desk_regs, Iter.state_done, Iter.state_fmt, Iter.state_trap, Whole.state_ran, Whole.state_stopped, Whole.state_denied] | split | with_reducible refine (foldl_regs _ ?_ _ _).trans ?_

theorem execSqDoorbell_regs {s t : State} {x0 : Nat} {x1 : Sys2Proof.Word} (h : execSqDoorbell x0 x1 s = .next t) : t.desk.1 = s.desk.1 := by
  simp only [execSqDoorbell, Host.Outcome.next.injEq] at h
  subst h
  repeat' first | with_reducible rfl | with_reducible assumption | intro _ | simp only [State.sqBell_regs, desk_mk, desk_eta, desk_regs, Iter.state_done, Iter.state_fmt, Iter.state_trap, Whole.state_ran, Whole.state_stopped, Whole.state_denied] | split | with_reducible refine (foldl_regs _ ?_ _ _).trans ?_

@[simp] theorem State.fwRestart_regs (s : State) (x1 : _) : (State.fwRestart s x1).desk.1 = s.desk.1 := by
  unfold State.fwRestart
  repeat' first | with_reducible rfl | with_reducible assumption | intro _ | simp only [State.bump_desk, desk_mk, desk_eta, desk_regs, Iter.state_done, Iter.state_fmt, Iter.state_trap, Whole.state_ran, Whole.state_stopped, Whole.state_denied] | split | with_reducible refine (foldl_regs _ ?_ _ _).trans ?_

theorem execWatchdogExpire_regs {s t : State} {x0 : Sys2Proof.Byte} (h : execWatchdogExpire x0 s = .next t) : t.desk.1 = s.desk.1 := by
  simp only [execWatchdogExpire, Host.Outcome.next.injEq] at h
  subst h
  repeat' first | with_reducible rfl | with_reducible assumption | intro _ | simp only [State.fwRestart_regs, State.raise_desk, State.trace_regs, desk_mk, desk_eta, desk_regs, Iter.state_done, Iter.state_fmt, Iter.state_trap, Whole.state_ran, Whole.state_stopped, Whole.state_denied] | split | with_reducible refine (foldl_regs _ ?_ _ _).trans ?_

@[simp] theorem State.fwCtl_regs (s : State) (x1 : _) : (State.fwCtl s x1).desk.1 = s.desk.1 := by
  unfold State.fwCtl
  repeat' first | with_reducible rfl | with_reducible assumption | intro _ | simp only [State.fwRestart_regs, desk_mk, desk_eta, desk_regs, Iter.state_done, Iter.state_fmt, Iter.state_trap, Whole.state_ran, Whole.state_stopped, Whole.state_denied] | split | with_reducible refine (foldl_regs _ ?_ _ _).trans ?_

theorem execFwCtlRestart_regs {s t : State} {x0 : Sys2Proof.Word} (h : execFwCtlRestart x0 s = .next t) : t.desk.1 = s.desk.1 := by
  simp only [execFwCtlRestart, Host.Outcome.next.injEq] at h
  subst h
  repeat' first | with_reducible rfl | with_reducible assumption | intro _ | simp only [State.fwCtl_regs, desk_mk, desk_eta, desk_regs, Iter.state_done, Iter.state_fmt, Iter.state_trap, Whole.state_ran, Whole.state_stopped, Whole.state_denied] | split | with_reducible refine (foldl_regs _ ?_ _ _).trans ?_

@[simp] theorem State.traceStart_regs (s : State) (x1 : _) (x2 : _) : (State.traceStart s x1 x2).desk.1 = s.desk.1 := by
  unfold State.traceStart
  repeat' first | with_reducible rfl | with_reducible assumption | intro _ | simp only [State.trace_regs, desk_mk, desk_eta, desk_regs, Iter.state_done, Iter.state_fmt, Iter.state_trap, Whole.state_ran, Whole.state_stopped, Whole.state_denied] | split | with_reducible refine (foldl_regs _ ?_ _ _).trans ?_

@[simp] theorem State.stagePassed_regs (s : State) (x1 : _) : (State.stagePassed s x1).desk.1 = s.desk.1 := by
  unfold State.stagePassed
  repeat' first | with_reducible rfl | with_reducible assumption | intro _ | simp only [State.trace_regs, desk_mk, desk_eta, desk_regs, Iter.state_done, Iter.state_fmt, Iter.state_trap, Whole.state_ran, Whole.state_stopped, Whole.state_denied] | split | with_reducible refine (foldl_regs _ ?_ _ _).trans ?_

@[simp] theorem State.stageFailed_regs (s : State) (x1 : _) : (State.stageFailed s x1).desk.1 = s.desk.1 := by
  unfold State.stageFailed
  repeat' first | with_reducible rfl | with_reducible assumption | intro _ | simp only [State.draw_desk, State.trace_regs, desk_mk, desk_eta, desk_regs, Iter.state_done, Iter.state_fmt, Iter.state_trap, Whole.state_ran, Whole.state_stopped, Whole.state_denied] | split | with_reducible refine (foldl_regs _ ?_ _ _).trans ?_

@[simp] theorem State.beginWrite_regs (s : State) (x1 : _) : (State.beginWrite s x1).desk.1 = s.desk.1 := by
  unfold State.beginWrite
  repeat' first | with_reducible rfl | with_reducible assumption | intro _ | simp only [State.stagePassed_regs, desk_mk, desk_eta, desk_regs, Iter.state_done, Iter.state_fmt, Iter.state_trap, Whole.state_ran, Whole.state_stopped, Whole.state_denied] | split | with_reducible refine (foldl_regs _ ?_ _ _).trans ?_

theorem execFwImageWritten_regs {s t : State} (h : execFwImageWritten s = .next t) : t.desk.1 = s.desk.1 := by
  simp only [execFwImageWritten, Host.Outcome.next.injEq] at h
  subst h
  repeat' first | with_reducible rfl | with_reducible assumption | intro _ | simp only [State.beginWrite_regs, State.stagePassed_regs, desk_mk, desk_eta, desk_regs, Iter.state_done, Iter.state_fmt, Iter.state_trap, Whole.state_ran, Whole.state_stopped, Whole.state_denied] | split | with_reducible refine (foldl_regs _ ?_ _ _).trans ?_

@[simp] theorem State.dropUci_regs (s : State) : (State.dropUci s).desk.1 = s.desk.1 := by
  unfold State.dropUci
  repeat' first | with_reducible rfl | with_reducible assumption | intro _ | simp only [desk_mk, desk_eta, desk_regs, Iter.state_done, Iter.state_fmt, Iter.state_trap, Whole.state_ran, Whole.state_stopped, Whole.state_denied] | split | with_reducible refine (foldl_regs _ ?_ _ _).trans ?_

@[simp] theorem State.setUci_regs (s : State) (x1 : _) (x2 : _) : (State.setUci s x1 x2).desk.1 = s.desk.1 := by
  unfold State.setUci
  repeat' first | with_reducible rfl | with_reducible assumption | intro _ | simp only [State.raise_desk, desk_mk, desk_eta, desk_regs, Iter.state_done, Iter.state_fmt, Iter.state_trap, Whole.state_ran, Whole.state_stopped, Whole.state_denied] | split | with_reducible refine (foldl_regs _ ?_ _ _).trans ?_

theorem execUciDegraded_regs {s t : State} {x0 : Bool} (h : execUciDegraded x0 s = .next t) : t.desk.1 = s.desk.1 := by
  simp only [execUciDegraded, Host.Outcome.next.injEq] at h
  subst h
  repeat' first | with_reducible rfl | with_reducible assumption | intro _ | simp only [State.setUci_regs, desk_mk, desk_eta, desk_regs, Iter.state_done, Iter.state_fmt, Iter.state_trap, Whole.state_ran, Whole.state_stopped, Whole.state_denied] | split | with_reducible refine (foldl_regs _ ?_ _ _).trans ?_

@[simp] theorem State.trip_regs (s : State) : (State.trip s).desk.1 = s.desk.1 := by
  unfold State.trip
  repeat' first | with_reducible rfl | with_reducible assumption | intro _ | simp only [State.dropUci_regs, desk_mk, desk_eta, desk_regs, Iter.state_done, Iter.state_fmt, Iter.state_trap, Whole.state_ran, Whole.state_stopped, Whole.state_denied] | split | with_reducible refine (foldl_regs _ ?_ _ _).trans ?_

theorem execSupplyTrip_regs {s t : State} (h : execSupplyTrip s = .next t) : t.desk.1 = s.desk.1 := by
  simp only [execSupplyTrip, Host.Outcome.next.injEq] at h
  subst h
  repeat' first | with_reducible rfl | with_reducible assumption | intro _ | simp only [State.trip_regs, State.tripOff_desk, desk_mk, desk_eta, desk_regs, Iter.state_done, Iter.state_fmt, Iter.state_trap, Whole.state_ran, Whole.state_stopped, Whole.state_denied] | split | with_reducible refine (foldl_regs _ ?_ _ _).trans ?_

theorem execThermalTrip_regs {s t : State} {x0 : Bool} (h : execThermalTrip x0 s = .next t) : t.desk.1 = s.desk.1 := by
  simp only [execThermalTrip, Host.Outcome.next.injEq] at h
  subst h
  repeat' first | with_reducible rfl | with_reducible assumption | intro _ | simp only [State.bump_desk, State.raise_desk, State.trip_regs, State.tripOff_desk, desk_mk, desk_eta, desk_regs, Iter.state_done, Iter.state_fmt, Iter.state_trap, Whole.state_ran, Whole.state_stopped, Whole.state_denied] | split | with_reducible refine (foldl_regs _ ?_ _ _).trans ?_

theorem execPwrEnLow_regs {s t : State} (h : execPwrEnLow s = .next t) : t.desk.1 = s.desk.1 := by
  simp only [execPwrEnLow, Host.Outcome.next.injEq] at h
  subst h
  repeat' first | with_reducible rfl | with_reducible assumption | intro _ | simp only [State.dropUci_regs, desk_mk, desk_eta, desk_regs, Iter.state_done, Iter.state_fmt, Iter.state_trap, Whole.state_ran, Whole.state_stopped, Whole.state_denied] | split | with_reducible refine (foldl_regs _ ?_ _ _).trans ?_

theorem execInputFuseOpen_regs {s t : State} (h : execInputFuseOpen s = .next t) : t.desk.1 = s.desk.1 := by
  simp only [execInputFuseOpen, Host.Outcome.next.injEq] at h
  subst h
  repeat' first | with_reducible rfl | with_reducible assumption | intro _ | simp only [State.dropUci_regs, State.tearSave_desk, desk_mk, desk_eta, desk_regs, Iter.state_done, Iter.state_fmt, Iter.state_trap, Whole.state_ran, Whole.state_stopped, Whole.state_denied] | split | with_reducible refine (foldl_regs _ ?_ _ _).trans ?_

@[simp] theorem State.bringUpFails_regs (s : State) (x1 : _) : (State.bringUpFails s x1).desk.1 = s.desk.1 := by
  unfold State.bringUpFails
  repeat' first | with_reducible rfl | with_reducible assumption | intro _ | simp only [State.setUci_regs, desk_mk, desk_eta, desk_regs, Iter.state_done, Iter.state_fmt, Iter.state_trap, Whole.state_ran, Whole.state_stopped, Whole.state_denied] | split | with_reducible refine (foldl_regs _ ?_ _ _).trans ?_

@[simp] theorem State.stageAon_regs (s : State) (x1 : _) : (State.stageAon s x1).desk.1 = s.desk.1 := by
  unfold State.stageAon
  repeat' first | with_reducible rfl | with_reducible assumption | intro _ | simp only [State.bringUpFails_regs, State.raise_desk, State.stageTo_desk, desk_mk, desk_eta, desk_regs, Iter.state_done, Iter.state_fmt, Iter.state_trap, Whole.state_ran, Whole.state_stopped, Whole.state_denied] | split | with_reducible refine (foldl_regs _ ?_ _ _).trans ?_

@[simp] theorem State.startFw_regs (s : State) (x1 : _) : (State.startFw s x1).desk.1 = s.desk.1 := by
  unfold State.startFw
  repeat' first | with_reducible rfl | with_reducible assumption | intro _ | simp only [State.stageTo_desk, State.traceStart_regs, desk_mk, desk_eta, desk_regs, Iter.state_done, Iter.state_fmt, Iter.state_trap, Whole.state_ran, Whole.state_stopped, Whole.state_denied] | split | with_reducible refine (foldl_regs _ ?_ _ _).trans ?_

@[simp] theorem State.stageBoot_regs (s : State) (x1 : _) : (State.stageBoot s x1).desk.1 = s.desk.1 := by
  unfold State.stageBoot
  repeat' first | with_reducible rfl | with_reducible assumption | intro _ | simp only [State.bootKeys_desk, State.bringUpFails_regs, State.bump_desk, State.raise_desk, State.startFw_regs, desk_mk, desk_eta, desk_regs, Iter.state_done, Iter.state_fmt, Iter.state_trap, Whole.state_ran, Whole.state_stopped, Whole.state_denied] | split | with_reducible refine (foldl_regs _ ?_ _ _).trans ?_

@[simp] theorem State.stageTrain_regs (s : State) (x1 : _) : (State.stageTrain s x1).desk.1 = s.desk.1 := by
  unfold State.stageTrain
  repeat' first | with_reducible rfl | with_reducible assumption | intro _ | simp only [State.bringUpFails_regs, State.raise_desk, State.readSaves_desk, State.stageTo_desk, desk_mk, desk_eta, desk_regs, Iter.state_done, Iter.state_fmt, Iter.state_trap, Whole.state_ran, Whole.state_stopped, Whole.state_denied] | split | with_reducible refine (foldl_regs _ ?_ _ _).trans ?_

@[simp] theorem State.stageUcie_regs (s : State) (x1 : _) : (State.stageUcie s x1).desk.1 = s.desk.1 := by
  unfold State.stageUcie
  repeat' first | with_reducible rfl | with_reducible assumption | intro _ | simp only [State.setUci_regs, State.stageTo_desk, State.startWipe_desk, desk_mk, desk_eta, desk_regs, Iter.state_done, Iter.state_fmt, Iter.state_trap, Whole.state_ran, Whole.state_stopped, Whole.state_denied] | split | with_reducible refine (foldl_regs _ ?_ _ _).trans ?_

theorem execBringUpStageDone_regs {s t : State} {x0 : Sys2Proof.StageReport} (h : execBringUpStageDone x0 s = .next t) : t.desk.1 = s.desk.1 := by
  simp only [execBringUpStageDone, Host.Outcome.next.injEq] at h
  subst h
  repeat' first | with_reducible rfl | with_reducible assumption | intro _ | simp only [State.stageAlign_desk, State.stageAon_regs, State.stageBoot_regs, State.stageReady_desk, State.stageTo_desk, State.stageTrain_regs, State.stageUcie_regs, desk_mk, desk_eta, desk_regs, Iter.state_done, Iter.state_fmt, Iter.state_trap, Whole.state_ran, Whole.state_stopped, Whole.state_denied] | split | with_reducible refine (foldl_regs _ ?_ _ _).trans ?_

theorem State.lockOr_regs (s : State) (r : Reg) (a : Nat) (f : State → State) (h : ∀ t, (f t).desk.1 = t.desk.1) : (s.lockOr r a f).desk.1 = s.desk.1 := by
  unfold State.lockOr
  split
  · simp only [State.raise_desk]
  · rw [h]; rfl

@[simp] theorem State.scrubBlock_regs (s : State) (x1 : _) : (State.scrubBlock s x1).desk.1 = s.desk.1 := by
  unfold State.scrubBlock
  repeat' first | with_reducible rfl | with_reducible assumption | intro _ | simp only [State.fwRestart_regs, State.readBlock_desk, desk_mk, desk_eta, desk_regs, Iter.state_done, Iter.state_fmt, Iter.state_trap, Whole.state_ran, Whole.state_stopped, Whole.state_denied] | split | with_reducible refine (foldl_regs _ ?_ _ _).trans ?_

@[simp] theorem State.scrubUnit_regs (s : State) (x1 : _) (x2 : _) (x3 : _) : (State.scrubUnit s x1 x2 x3).desk.1 = s.desk.1 := by
  unfold State.scrubUnit
  repeat' first | with_reducible rfl | with_reducible assumption | intro _ | simp only [State.scrubBlock_regs, State.upset_desk, desk_mk, desk_eta, desk_regs, Iter.state_done, Iter.state_fmt, Iter.state_trap, Whole.state_ran, Whole.state_stopped, Whole.state_denied] | split | with_reducible refine (foldl_regs _ ?_ _ _).trans ?_ | with_reducible refine (foldlB_regs _ ?_ _ _).trans ?_ | with_reducible refine (foldl1_regs _ ?_ _ _).trans ?_ | with_reducible refine (foldl2_regs _ ?_ _ _).trans ?_

theorem execPatrolScrub_regs {s t : State} {x0 : Nat} {x1 : List (Nat × BitVec 16)} (h : execPatrolScrub x0 x1 s = .next t) : t.desk.1 = s.desk.1 := by
  simp only [execPatrolScrub, Host.Outcome.next.injEq] at h
  subst h
  repeat' first | with_reducible rfl | with_reducible assumption | intro _ | simp only [State.bump_desk, State.scrubUnit_regs, desk_mk, desk_eta, desk_regs, Iter.state_done, Iter.state_fmt, Iter.state_trap, Whole.state_ran, Whole.state_stopped, Whole.state_denied] | split | with_reducible refine (foldl_regs _ ?_ _ _).trans ?_

/-! ### The firmware complex where a function changes another of them -/

theorem desk_fw (s : State) : s.fw = s.desk.2.1 := (rfl)

theorem foldl_fw {α : Type} (f : State → α → State) (h : ∀ t a, (f t a).desk.2.1 = t.desk.2.1) (l : List α) (b : State) :
    (l.foldl f b).desk.2.1 = b.desk.2.1 := by
  induction l generalizing b with
  | nil => rfl
  | cons a l ih => rw [List.foldl_cons, ih, h]

theorem foldlB_fw {α : Type} (f : Body → α → Body) (h : ∀ t a, (f t a).s.desk.2.1 = t.s.desk.2.1) (l : List α) (b : Body) :
    (l.foldl f b).s.desk.2.1 = b.s.desk.2.1 := by
  induction l generalizing b with
  | nil => rfl
  | cons a l ih => rw [List.foldl_cons, ih, h]

theorem foldl1_fw {α β : Type} (f : State × β → α → State × β) (h : ∀ t a, (f t a).1.desk.2.1 = t.1.desk.2.1) (l : List α) (b : State × β) :
    (l.foldl f b).1.desk.2.1 = b.1.desk.2.1 := by
  induction l generalizing b with
  | nil => rfl
  | cons a l ih => rw [List.foldl_cons, ih, h]

theorem foldl2_fw {α β : Type} (f : β × State → α → β × State) (h : ∀ t a, (f t a).2.desk.2.1 = t.2.desk.2.1) (l : List α) (b : β × State) :
    (l.foldl f b).2.desk.2.1 = b.2.desk.2.1 := by
  induction l generalizing b with
  | nil => rfl
  | cons a l ih => rw [List.foldl_cons, ih, h]

@[simp] theorem State.wr_fw (s : State) (x1 : _) (x2 : _) : (State.wr s x1 x2).desk.2.1 = s.desk.2.1 := by
  unfold State.wr
  repeat' first | with_reducible rfl | with_reducible assumption | intro _ | simp only [desk_mk, desk_eta, desk_fw, Iter.state_done, Iter.state_fmt, Iter.state_trap, Whole.state_ran, Whole.state_stopped, Whole.state_denied] | split | with_reducible refine (foldl_fw _ ?_ _ _).trans ?_

@[simp] theorem State.kernelIter_fw (s : State) (h : BitVec 20) (o : Op) (r : OpRun) : (s.kernelIter h o r).state.desk.2.1 = s.desk.2.1 := by
  unfold State.kernelIter
  split
  · rfl
  · extract_lets n x fresh regs fly b0 b e last nb left t
    have hb : b.s.desk.2.1 = s.desk.2.1 := by
      unfold b b0
      split <;> simp only [runBody_desk]
    have ht : t.desk.2.1 = s.desk.2.1 := by simp only [t, State.bump_desk, hb]
    clear_value t
    split
    · simp only [Iter.state_trap, State.raise_desk]
      split
      · exact ht
      · simp only [State.wr_fw, ht]
    · split <;> exact ht

@[simp] theorem State.soundIter_fw (s : State) (x1 : _) (x2 : _) (x3 : _) (x4 : _) : (State.soundIter s x1 x2 x3 x4).state.desk.2.1 = s.desk.2.1 := by
  unfold State.soundIter
  repeat' first | with_reducible rfl | with_reducible assumption | intro _ | simp only [State.blkexpIter_desk, State.controlOp_desk, State.convertIter_desk, State.copyIter_desk, State.fillIter_desk, State.foldIter_desk, State.kernelIter_fw, State.mgroupIter_desk, State.mmulIter_desk, State.sieveIter_desk, desk_mk, desk_eta, desk_fw, Iter.state_done, Iter.state_fmt, Iter.state_trap, Whole.state_ran, Whole.state_stopped, Whole.state_denied] | split | with_reducible refine (foldl_fw _ ?_ _ _).trans ?_

@[simp] theorem State.runIter_fw (s : State) (x1 : _) (x2 : _) (x3 : _) (x4 : _) : (State.runIter s x1 x2 x3 x4).state.desk.2.1 = s.desk.2.1 := by
  unfold State.runIter
  repeat' first | with_reducible rfl | with_reducible assumption | intro _ | simp only [State.soundIter_fw, State.unsound_desk, desk_mk, desk_eta, desk_fw, Iter.state_done, Iter.state_fmt, Iter.state_trap, Whole.state_ran, Whole.state_stopped, Whole.state_denied] | split | with_reducible refine (foldl_fw _ ?_ _ _).trans ?_

theorem execOpIterationDone_fw {s t : State} {hd : BitVec 20} {qid : Nat} (h : execOpIterationDone hd qid s = .next t) : t.desk.2.1 = s.desk.2.1 := by
  simp only [execOpIterationDone, Host.Outcome.next.injEq] at h
  subst h
  split
  · rfl
  · rename_i q o run _
    split
    · rfl
    · have hw : (if run.skipped = true then s else s.opFetch o run).desk.2.1 = s.desk.2.1 := by
        split
        · rfl
        · rw [State.opFetch_desk]
      generalize (if run.skipped = true then s else s.opFetch o run) = w at hw ⊢
      split
      · rw [State.settle_desk, hw]
      · have hu : ((if run.waited = true then w else w.modQ hd qid fun q => q.take o.wait).withBank run.bankB).desk.2.1 = s.desk.2.1 := by
          rw [State.withBank_desk]
          split
          · exact hw
          · rw [State.modQ_desk, hw]
        generalize (if run.waited = true then w else w.modQ hd qid fun q => q.take o.wait).withBank run.bankB = u at hu ⊢
        split
        · exact hw
        · have hi : ((if run.skipped = true then u.skipIter hd o run else u.runIter hd qid o run).restore s.led.srcB).state.desk.2.1 = s.desk.2.1 := by
            rw [Iter.restore_desk]
            split
            · rw [State.skipIter_desk, hu]
            · rw [State.runIter_fw, hu]
          generalize (if run.skipped = true then u.skipIter hd o run else u.runIter hd qid o run).restore s.led.srcB = i at hi ⊢
          cases i with
          | done v r => simp only [State.progress_desk, State.iterated_desk]; exact hi
          | formatError v => simp only [State.settle_desk, State.failInstance_desk]; exact hi
          | trap v => simp only [State.settle_desk, State.failInstance_desk]; exact hi

@[simp] theorem State.setRing_fw (s : State) (x1 : _) (x2 : _) : (State.setRing s x1 x2).desk.2.1 = s.desk.2.1 := by
  unfold State.setRing
  repeat' first | with_reducible rfl | with_reducible assumption | intro _ | simp only [desk_mk, desk_eta, desk_fw, Iter.state_done, Iter.state_fmt, Iter.state_trap, Whole.state_ran, Whole.state_stopped, Whole.state_denied] | split | with_reducible refine (foldl_fw _ ?_ _ _).trans ?_

@[simp] theorem State.ringError_fw (s : State) (x1 : _) : (State.ringError s x1).desk.2.1 = s.desk.2.1 := by
  unfold State.ringError
  repeat' first | with_reducible rfl | with_reducible assumption | intro _ | simp only [State.raise_desk, State.setRing_fw, desk_mk, desk_eta, desk_fw, Iter.state_done, Iter.state_fmt, Iter.state_trap, Whole.state_ran, Whole.state_stopped, Whole.state_denied] | split | with_reducible refine (foldl_fw _ ?_ _ _).trans ?_

@[simp] theorem State.interrupt_fw (s : State) (x1 : _) : (State.interrupt s x1).desk.2.1 = s.desk.2.1 := by
  unfold State.interrupt
  repeat' first | with_reducible rfl | with_reducible assumption | intro _ | simp only [State.emit_desk, State.wr_fw, desk_mk, desk_eta, desk_fw, Iter.state_done, Iter.state_fmt, Iter.state_trap, Whole.state_ran, Whole.state_stopped, Whole.state_denied] | split | with_reducible refine (foldl_fw _ ?_ _ _).trans ?_

@[simp] theorem State.msiWrite_fw (s : State) (x1 : _) (x2 : _) : (State.msiWrite s x1 x2).desk.2.1 = s.desk.2.1 := by
  unfold State.msiWrite
  repeat' first | with_reducible rfl | with_reducible assumption | intro _ | simp only [State.interrupt_fw, State.wr_fw, desk_mk, desk_eta, desk_fw, Iter.state_done, Iter.state_fmt, Iter.state_trap, Whole.state_ran, Whole.state_stopped, Whole.state_denied] | split | with_reducible refine (foldl_fw _ ?_ _ _).trans ?_

@[simp] theorem State.writeHeld_fw (s : State) (x1 : _) : (State.writeHeld s x1).1.desk.2.1 = s.desk.2.1 := by
  unfold State.writeHeld
  repeat' first | with_reducible rfl | with_reducible assumption | intro _ | simp only [State.emit_desk, State.setRing_fw, desk_mk, desk_eta, desk_fw, Iter.state_done, Iter.state_fmt, Iter.state_trap, Whole.state_ran, Whole.state_stopped, Whole.state_denied] | split | with_reducible refine (foldl_fw _ ?_ _ _).trans ?_

@[simp] theorem flushAux_fw (cq n : Nat) (r : State × Bool) : (State.flushAux cq n r).1.desk.2.1 = r.1.desk.2.1 := by
  induction n generalizing r with
  | zero => rfl
  | succ n ih =>
    obtain ⟨s, any⟩ := r
    have e := State.writeHeld_fw s cq
    cases hw : s.writeHeld cq with
    | mk t did =>
      rw [hw] at e
      simp only [State.flushAux, hw]
      split
      · rw [ih]; exact e
      · rfl

@[simp] theorem State.flushCq_fw (s : State) (cq : Nat) : (s.flushCq cq).desk.2.1 = s.desk.2.1 := by
  simp only [State.flushCq]
  split <;> simp only [State.interrupt_fw, flushAux_fw]

@[simp] theorem State.sqBell_fw (s : State) (x1 : _) (x2 : _) : (State.sqBell s x1 x2).desk.2.1 = s.desk.2.1 := by
  unfold State.sqBell
  repeat' first | with_reducible rfl | with_reducible assumption | intro _ | simp only [State.ringError_fw, State.setRing_fw, desk_mk, desk_eta, desk_fw, Iter.state_done, Iter.state_fmt, Iter.state_trap, Whole.state_ran, Whole.state_stopped, Whole.state_denied] | split | with_reducible refine (foldl_fw _ ?_ _ _).trans ?_

@[simp] theorem State.cqBell_fw (s : State) (x1 : _) (x2 : _) : (State.cqBell s x1 x2).desk.2.1 = s.desk.2.1 := by
  unfold State.cqBell
  repeat' first | with_reducible rfl | with_reducible assumption | intro _ | simp only [State.flushCq_fw, State.ringError_fw, State.setRing_fw, desk_mk, desk_eta, desk_fw, Iter.state_done, Iter.state_fmt, Iter.state_trap, Whole.state_ran, Whole.state_stopped, Whole.state_denied] | split | with_reducible refine (foldl_fw _ ?_ _ _).trans ?_

@[simp] theorem State.ringWrite_fw (s : State) (x1 : _) (x2 : _) : (State.ringWrite s x1 x2).desk.2.1 = s.desk.2.1 := by
  unfold State.ringWrite
  repeat' first | with_reducible rfl | with_reducible assumption | intro _ | simp only [State.flushCq_fw, State.raise_desk, State.setRing_fw, desk_mk, desk_eta, desk_fw, Iter.state_done, Iter.state_fmt, Iter.state_trap, Whole.state_ran, Whole.state_stopped, Whole.state_denied] | split | with_reducible refine (foldl_fw _ ?_ _ _).trans ?_

theorem execSqDoorbell_fw {s t : State} {x0 : Nat} {x1 : Sys2Proof.Word} (h : execSqDoorbell x0 x1 s = .next t) : t.desk.2.1 = s.desk.2.1 := by
  simp only [execSqDoorbell, Host.Outcome.next.injEq] at h
  subst h
  repeat' first | with_reducible rfl | with_reducible assumption | intro _ | simp only [State.sqBell_fw, desk_mk, desk_eta, desk_fw, Iter.state_done, Iter.state_fmt, Iter.state_trap, Whole.state_ran, Whole.state_stopped, Whole.state_denied] | split | with_reducible refine (foldl_fw _ ?_ _ _).trans ?_

theorem execCqDoorbell_fw {s t : State} {x0 : Nat} {x1 : Sys2Proof.Word} (h : execCqDoorbell x0 x1 s = .next t) : t.desk.2.1 = s.desk.2.1 := by
  simp only [execCqDoorbell, Host.Outcome.next.injEq] at h
  subst h
  repeat' first | with_reducible rfl | with_reducible assumption | intro _ | simp only [State.cqBell_fw, desk_mk, desk_eta, desk_fw, Iter.state_done, Iter.state_fmt, Iter.state_trap, Whole.state_ran, Whole.state_stopped, Whole.state_denied] | split | with_reducible refine (foldl_fw _ ?_ _ _).trans ?_

theorem execRingConfigWrite_fw {s t : State} {x0 : Nat} {x1 : Sys2Proof.Word} (h : execRingConfigWrite x0 x1 s = .next t) : t.desk.2.1 = s.desk.2.1 := by
  simp only [execRingConfigWrite, Host.Outcome.next.injEq] at h
  subst h
  repeat' first | with_reducible rfl | with_reducible assumption | intro _ | simp only [State.ringWrite_fw, desk_mk, desk_eta, desk_fw, Iter.state_done, Iter.state_fmt, Iter.state_trap, Whole.state_ran, Whole.state_stopped, Whole.state_denied] | split | with_reducible refine (foldl_fw _ ?_ _ _).trans ?_

theorem execMsiUnmask_fw {s t : State} {x0 : Nat} {x1 : Sys2Proof.Word} (h : execMsiUnmask x0 x1 s = .next t) : t.desk.2.1 = s.desk.2.1 := by
  simp only [execMsiUnmask, Host.Outcome.next.injEq] at h
  subst h
  repeat' first | with_reducible rfl | with_reducible assumption | intro _ | simp only [State.msiWrite_fw, desk_mk, desk_eta, desk_fw, Iter.state_done, Iter.state_fmt, Iter.state_trap, Whole.state_ran, Whole.state_stopped, Whole.state_denied] | split | with_reducible refine (foldl_fw _ ?_ _ _).trans ?_

@[simp] theorem State.placeWrite_fw (s : State) (x1 : _) (x2 : _) : (State.placeWrite s x1 x2).desk.2.1 = s.desk.2.1 := by
  unfold State.placeWrite
  repeat' first | with_reducible rfl | with_reducible assumption | intro _ | simp only [State.raise_desk, State.wr_fw, desk_mk, desk_eta, desk_fw, Iter.state_done, Iter.state_fmt, Iter.state_trap, Whole.state_ran, Whole.state_stopped, Whole.state_denied] | split | with_reducible refine (foldl_fw _ ?_ _ _).trans ?_

@[simp] theorem State.takeMembership_fw (s : State) (x1 : _) : (State.takeMembership s x1).desk.2.1 = s.desk.2.1 := by
  unfold State.takeMembership
  repeat' first | with_reducible rfl | with_reducible assumption | intro _ | simp only [State.admitParty_desk, State.nameTwin_desk, State.placeWrite_fw, State.rebuildGroups_desk, State.rebuildRoutes_desk, desk_mk, desk_eta, desk_fw, Iter.state_done, Iter.state_fmt, Iter.state_trap, Whole.state_ran, Whole.state_stopped, Whole.state_denied] | split | with_reducible refine (foldl_fw _ ?_ _ _).trans ?_ | with_reducible refine (foldlB_fw _ ?_ _ _).trans ?_ | with_reducible refine (foldl1_fw _ ?_ _ _).trans ?_ | with_reducible refine (foldl2_fw _ ?_ _ _).trans ?_

@[simp] theorem State.setMeter_fw (s : State) (x1 : _) (x2 : _) (x3 : _) (x4 : _) : (State.setMeter s x1 x2 x3 x4).desk.2.1 = s.desk.2.1 := by
  unfold State.setMeter
  repeat' first | with_reducible rfl | with_reducible assumption | intro _ | simp only [State.modSched_desk, State.wr_fw, desk_mk, desk_eta, desk_fw, Iter.state_done, Iter.state_fmt, Iter.state_trap, Whole.state_ran, Whole.state_stopped, Whole.state_denied] | split | with_reducible refine (foldl_fw _ ?_ _ _).trans ?_

@[simp] theorem State.gateCtl_fw (s : State) (x1 : _) (x2 : _) : (State.gateCtl s x1 x2).desk.2.1 = s.desk.2.1 := by
  unfold State.gateCtl
  repeat' first | with_reducible rfl | with_reducible assumption | intro _ | simp only [State.modSched_desk, State.raise_desk, State.wr_fw, desk_mk, desk_eta, desk_fw, Iter.state_done, Iter.state_fmt, Iter.state_trap, Whole.state_ran, Whole.state_stopped, Whole.state_denied] | split | with_reducible refine (foldl_fw _ ?_ _ _).trans ?_

theorem execGateCtlWrite_fw {s t : State} {x0 : Nat} {x1 : Sys2Proof.Word} (h : execGateCtlWrite x0 x1 s = .next t) : t.desk.2.1 = s.desk.2.1 := by
  simp only [execGateCtlWrite, Host.Outcome.next.injEq] at h
  subst h
  repeat' first | with_reducible rfl | with_reducible assumption | intro _ | simp only [State.gateCtl_fw, desk_mk, desk_eta, desk_fw, Iter.state_done, Iter.state_fmt, Iter.state_trap, Whole.state_ran, Whole.state_stopped, Whole.state_denied] | split | with_reducible refine (foldl_fw _ ?_ _ _).trans ?_

theorem execGateListActivate_fw {s t : State} {x0 : Nat} (h : execGateListActivate x0 s = .next t) : t.desk.2.1 = s.desk.2.1 := by
  simp only [execGateListActivate, Host.Outcome.next.injEq] at h
  subst h
  repeat' first | with_reducible rfl | with_reducible assumption | intro _ | simp only [State.modSched_desk, State.wr_fw, desk_mk, desk_eta, desk_fw, Iter.state_done, Iter.state_fmt, Iter.state_trap, Whole.state_ran, Whole.state_stopped, Whole.state_denied] | split | with_reducible refine (foldl_fw _ ?_ _ _).trans ?_

@[simp] theorem State.engineReset_fw (s : State) : (State.engineReset s).desk.2.1 = s.desk.2.1 := by
  unfold State.engineReset
  repeat' first | with_reducible rfl | with_reducible assumption | intro _ | simp only [State.clearCtrs_desk, State.emptyStreams_desk, State.endNow_desk, State.wipeCells_desk, State.wr_fw, desk_mk, desk_eta, desk_fw, Iter.state_done, Iter.state_fmt, Iter.state_trap, Whole.state_ran, Whole.state_stopped, Whole.state_denied] | split | with_reducible refine (foldl_fw _ ?_ _ _).trans ?_ | with_reducible refine (foldlB_fw _ ?_ _ _).trans ?_ | with_reducible refine (foldl1_fw _ ?_ _ _).trans ?_ | with_reducible refine (foldl2_fw _ ?_ _ _).trans ?_

@[simp] theorem State.dropUci_fw (s : State) : (State.dropUci s).desk.2.1 = s.desk.2.1 := by
  unfold State.dropUci
  repeat' first | with_reducible rfl | with_reducible assumption | intro _ | simp only [desk_mk, desk_eta, desk_fw, Iter.state_done, Iter.state_fmt, Iter.state_trap, Whole.state_ran, Whole.state_stopped, Whole.state_denied] | split | with_reducible refine (foldl_fw _ ?_ _ _).trans ?_

@[simp] theorem State.setUci_fw (s : State) (x1 : _) (x2 : _) : (State.setUci s x1 x2).desk.2.1 = s.desk.2.1 := by
  unfold State.setUci
  repeat' first | with_reducible rfl | with_reducible assumption | intro _ | simp only [State.raise_desk, desk_mk, desk_eta, desk_fw, Iter.state_done, Iter.state_fmt, Iter.state_trap, Whole.state_ran, Whole.state_stopped, Whole.state_denied] | split | with_reducible refine (foldl_fw _ ?_ _ _).trans ?_

theorem execUciDegraded_fw {s t : State} {x0 : Bool} (h : execUciDegraded x0 s = .next t) : t.desk.2.1 = s.desk.2.1 := by
  simp only [execUciDegraded, Host.Outcome.next.injEq] at h
  subst h
  repeat' first | with_reducible rfl | with_reducible assumption | intro _ | simp only [State.setUci_fw, desk_mk, desk_eta, desk_fw, Iter.state_done, Iter.state_fmt, Iter.state_trap, Whole.state_ran, Whole.state_stopped, Whole.state_denied] | split | with_reducible refine (foldl_fw _ ?_ _ _).trans ?_

@[simp] theorem State.trip_fw (s : State) : (State.trip s).desk.2.1 = s.desk.2.1 := by
  unfold State.trip
  repeat' first | with_reducible rfl | with_reducible assumption | intro _ | simp only [State.dropUci_fw, desk_mk, desk_eta, desk_fw, Iter.state_done, Iter.state_fmt, Iter.state_trap, Whole.state_ran, Whole.state_stopped, Whole.state_denied] | split | with_reducible refine (foldl_fw _ ?_ _ _).trans ?_

theorem execSupplyTrip_fw {s t : State} (h : execSupplyTrip s = .next t) : t.desk.2.1 = s.desk.2.1 := by
  simp only [execSupplyTrip, Host.Outcome.next.injEq] at h
  subst h
  repeat' first | with_reducible rfl | with_reducible assumption | intro _ | simp only [State.trip_fw, State.tripOff_desk, desk_mk, desk_eta, desk_fw, Iter.state_done, Iter.state_fmt, Iter.state_trap, Whole.state_ran, Whole.state_stopped, Whole.state_denied] | split | with_reducible refine (foldl_fw _ ?_ _ _).trans ?_

theorem execThermalTrip_fw {s t : State} {x0 : Bool} (h : execThermalTrip x0 s = .next t) : t.desk.2.1 = s.desk.2.1 := by
  simp only [execThermalTrip, Host.Outcome.next.injEq] at h
  subst h
  repeat' first | with_reducible rfl | with_reducible assumption | intro _ | simp only [State.bump_desk, State.raise_desk, State.trip_fw, State.tripOff_desk, desk_mk, desk_eta, desk_fw, Iter.state_done, Iter.state_fmt, Iter.state_trap, Whole.state_ran, Whole.state_stopped, Whole.state_denied] | split | with_reducible refine (foldl_fw _ ?_ _ _).trans ?_

theorem execPwrEnLow_fw {s t : State} (h : execPwrEnLow s = .next t) : t.desk.2.1 = s.desk.2.1 := by
  simp only [execPwrEnLow, Host.Outcome.next.injEq] at h
  subst h
  repeat' first | with_reducible rfl | with_reducible assumption | intro _ | simp only [State.dropUci_fw, desk_mk, desk_eta, desk_fw, Iter.state_done, Iter.state_fmt, Iter.state_trap, Whole.state_ran, Whole.state_stopped, Whole.state_denied] | split | with_reducible refine (foldl_fw _ ?_ _ _).trans ?_

theorem execInputFuseOpen_fw {s t : State} (h : execInputFuseOpen s = .next t) : t.desk.2.1 = s.desk.2.1 := by
  simp only [execInputFuseOpen, Host.Outcome.next.injEq] at h
  subst h
  repeat' first | with_reducible rfl | with_reducible assumption | intro _ | simp only [State.dropUci_fw, State.tearSave_desk, desk_mk, desk_eta, desk_fw, Iter.state_done, Iter.state_fmt, Iter.state_trap, Whole.state_ran, Whole.state_stopped, Whole.state_denied] | split | with_reducible refine (foldl_fw _ ?_ _ _).trans ?_

@[simp] theorem State.bringUpFails_fw (s : State) (x1 : _) : (State.bringUpFails s x1).desk.2.1 = s.desk.2.1 := by
  unfold State.bringUpFails
  repeat' first | with_reducible rfl | with_reducible assumption | intro _ | simp only [State.setUci_fw, desk_mk, desk_eta, desk_fw, Iter.state_done, Iter.state_fmt, Iter.state_trap, Whole.state_ran, Whole.state_stopped, Whole.state_denied] | split | with_reducible refine (foldl_fw _ ?_ _ _).trans ?_

@[simp] theorem State.stageAon_fw (s : State) (x1 : _) : (State.stageAon s x1).desk.2.1 = s.desk.2.1 := by
  unfold State.stageAon
  repeat' first | with_reducible rfl | with_reducible assumption | intro _ | simp only [State.bringUpFails_fw, State.raise_desk, State.stageTo_desk, desk_mk, desk_eta, desk_fw, Iter.state_done, Iter.state_fmt, Iter.state_trap, Whole.state_ran, Whole.state_stopped, Whole.state_denied] | split | with_reducible refine (foldl_fw _ ?_ _ _).trans ?_

@[simp] theorem State.stageTrain_fw (s : State) (x1 : _) : (State.stageTrain s x1).desk.2.1 = s.desk.2.1 := by
  unfold State.stageTrain
  repeat' first | with_reducible rfl | with_reducible assumption | intro _ | simp only [State.bringUpFails_fw, State.raise_desk, State.readSaves_desk, State.stageTo_desk, desk_mk, desk_eta, desk_fw, Iter.state_done, Iter.state_fmt, Iter.state_trap, Whole.state_ran, Whole.state_stopped, Whole.state_denied] | split | with_reducible refine (foldl_fw _ ?_ _ _).trans ?_

@[simp] theorem State.stageUcie_fw (s : State) (x1 : _) : (State.stageUcie s x1).desk.2.1 = s.desk.2.1 := by
  unfold State.stageUcie
  repeat' first | with_reducible rfl | with_reducible assumption | intro _ | simp only [State.setUci_fw, State.stageTo_desk, State.startWipe_desk, desk_mk, desk_eta, desk_fw, Iter.state_done, Iter.state_fmt, Iter.state_trap, Whole.state_ran, Whole.state_stopped, Whole.state_denied] | split | with_reducible refine (foldl_fw _ ?_ _ _).trans ?_

theorem State.lockOr_fw (s : State) (r : Reg) (a : Nat) (f : State → State) (h : ∀ t, (f t).desk.2.1 = t.desk.2.1) : (s.lockOr r a f).desk.2.1 = s.desk.2.1 := by
  unfold State.lockOr
  split
  · simp only [State.raise_desk]
  · rw [h]; rfl

@[simp] theorem State.regionWrite_fw (s : State) (v : Word) : (s.regionWrite v).desk.2.1 = s.desk.2.1 := by
  unfold State.regionWrite
  refine State.lockOr_fw _ _ _ _ fun t => ?_
  repeat' first | with_reducible rfl | simp only [State.raise_desk, State.wr_fw, desk_mk, desk_eta, desk_fw] | split

@[simp] theorem State.pwrCfgWrite_fw (s : State) (x1 : _) : (State.pwrCfgWrite s x1).desk.2.1 = s.desk.2.1 := by
  unfold State.pwrCfgWrite
  repeat' first | with_reducible rfl | with_reducible assumption | intro _ | simp only [State.raise_desk, State.wr_fw, desk_mk, desk_eta, desk_fw, Iter.state_done, Iter.state_fmt, Iter.state_trap, Whole.state_ran, Whole.state_stopped, Whole.state_denied] | split | with_reducible refine (foldl_fw _ ?_ _ _).trans ?_

@[simp] theorem State.cmWrite_fw (s : State) (x1 : _) (x2 : _) : (State.cmWrite s x1 x2).desk.2.1 = s.desk.2.1 := by
  unfold State.cmWrite
  repeat' first | with_reducible rfl | with_reducible assumption | intro _ | simp only [State.raise_desk, State.wr_fw, desk_mk, desk_eta, desk_fw, Iter.state_done, Iter.state_fmt, Iter.state_trap, Whole.state_ran, Whole.state_stopped, Whole.state_denied] | split | with_reducible refine (foldl_fw _ ?_ _ _).trans ?_

@[simp] theorem State.evtRingReg_fw (s : State) (x1 : _) : (State.evtRingReg s x1).desk.2.1 = s.desk.2.1 := by
  unfold State.evtRingReg
  repeat' first | with_reducible rfl | with_reducible assumption | intro _ | simp only [State.raise_desk, State.wr_fw, desk_mk, desk_eta, desk_fw, Iter.state_done, Iter.state_fmt, Iter.state_trap, Whole.state_ran, Whole.state_stopped, Whole.state_denied] | split | with_reducible refine (foldl_fw _ ?_ _ _).trans ?_

@[simp] theorem State.trapWrite_fw (s : State) (x1 : _) : (State.trapWrite s x1).desk.2.1 = s.desk.2.1 := by
  unfold State.trapWrite
  repeat' first | with_reducible rfl | with_reducible assumption | intro _ | simp only [State.wr_fw, desk_mk, desk_eta, desk_fw, Iter.state_done, Iter.state_fmt, Iter.state_trap, Whole.state_ran, Whole.state_stopped, Whole.state_denied] | split | with_reducible refine (foldl_fw _ ?_ _ _).trans ?_

theorem execFabricPosWrite_fw {s t : State} {x0 : Bool} {x1 : Sys2Proof.Word} (h : execFabricPosWrite x0 x1 s = .next t) : t.desk.2.1 = s.desk.2.1 := by
  simp only [execFabricPosWrite, Host.Outcome.next.injEq] at h
  subst h
  repeat' first | with_reducible rfl | with_reducible assumption | intro _ | simp only [State.placeWrite_fw, desk_mk, desk_eta, desk_fw, Iter.state_done, Iter.state_fmt, Iter.state_trap, Whole.state_ran, Whole.state_stopped, Whole.state_denied] | split | with_reducible refine (foldl_fw _ ?_ _ _).trans ?_

theorem execMemRegionSizeWrite_fw {s t : State} {x0 : Sys2Proof.Word} (h : execMemRegionSizeWrite x0 s = .next t) : t.desk.2.1 = s.desk.2.1 := by
  simp only [execMemRegionSizeWrite, Host.Outcome.next.injEq] at h
  subst h
  repeat' first | with_reducible rfl | with_reducible assumption | intro _ | simp only [State.regionWrite_fw, desk_mk, desk_eta, desk_fw, Iter.state_done, Iter.state_fmt, Iter.state_trap, Whole.state_ran, Whole.state_stopped, Whole.state_denied] | split | with_reducible refine (foldl_fw _ ?_ _ _).trans ?_

theorem execVeTrapClear_fw {s t : State} {x0 : Sys2Proof.Word} (h : execVeTrapClear x0 s = .next t) : t.desk.2.1 = s.desk.2.1 := by
  simp only [execVeTrapClear, Host.Outcome.next.injEq] at h
  subst h
  repeat' first | with_reducible rfl | with_reducible assumption | intro _ | simp only [State.trapWrite_fw, desk_mk, desk_eta, desk_fw, Iter.state_done, Iter.state_fmt, Iter.state_trap, Whole.state_ran, Whole.state_stopped, Whole.state_denied] | split | with_reducible refine (foldl_fw _ ?_ _ _).trans ?_

theorem execCmConfigWrite_fw {s t : State} {x0 : Option Nat} {x1 : Sys2Proof.Word} (h : execCmConfigWrite x0 x1 s = .next t) : t.desk.2.1 = s.desk.2.1 := by
  simp only [execCmConfigWrite, Host.Outcome.next.injEq] at h
  subst h
  repeat' first | with_reducible rfl | with_reducible assumption | intro _ | simp only [State.cmWrite_fw, desk_mk, desk_eta, desk_fw, Iter.state_done, Iter.state_fmt, Iter.state_trap, Whole.state_ran, Whole.state_stopped, Whole.state_denied] | split | with_reducible refine (foldl_fw _ ?_ _ _).trans ?_

theorem execEvtRingWrite_fw {s t : State} {x0 : Sys2Proof.Word} (h : execEvtRingWrite x0 s = .next t) : t.desk.2.1 = s.desk.2.1 := by
  simp only [execEvtRingWrite, Host.Outcome.next.injEq] at h
  subst h
  repeat' first | with_reducible rfl | with_reducible assumption | intro _ | simp only [State.evtRingReg_fw, desk_mk, desk_eta, desk_fw, Iter.state_done, Iter.state_fmt, Iter.state_trap, Whole.state_ran, Whole.state_stopped, Whole.state_denied] | split | with_reducible refine (foldl_fw _ ?_ _ _).trans ?_

theorem execEventRingEntryWrite_fw {s t : State} (h : execEventRingEntryWrite s = .next t) : t.desk.2.1 = s.desk.2.1 := by
  simp only [execEventRingEntryWrite, Host.Outcome.next.injEq] at h
  subst h
  repeat' first | with_reducible rfl | with_reducible assumption | intro _ | simp only [State.busWrite_desk, State.interrupt_fw, desk_mk, desk_eta, desk_fw, Iter.state_done, Iter.state_fmt, Iter.state_trap, Whole.state_ran, Whole.state_stopped, Whole.state_denied] | split | with_reducible refine (foldl_fw _ ?_ _ _).trans ?_

/-! ### The attachment where a function changes another of them -/

theorem desk_uci (s : State) : s.uci = s.desk.2.2 := (rfl)

theorem foldl_uci {α : Type} (f : State → α → State) (h : ∀ t a, (f t a).desk.2.2 = t.desk.2.2) (l : List α) (b : State) :
    (l.foldl f b).desk.2.2 = b.desk.2.2 := by
  induction l generalizing b with
  | nil => rfl
  | cons a l ih => rw [List.foldl_cons, ih, h]

theorem foldlB_uci {α : Type} (f : Body → α → Body) (h : ∀ t a, (f t a).s.desk.2.2 = t.s.desk.2.2) (l : List α) (b : Body) :
    (l.foldl f b).s.desk.2.2 = b.s.desk.2.2 := by
  induction l generalizing b with
  | nil => rfl
  | cons a l ih => rw [List.foldl_cons, ih, h]

theorem foldl1_uci {α β : Type} (f : State × β → α → State × β) (h : ∀ t a, (f t a).1.desk.2.2 = t.1.desk.2.2) (l : List α) (b : State × β) :
    (l.foldl f b).1.desk.2.2 = b.1.desk.2.2 := by
  induction l generalizing b with
  | nil => rfl
  | cons a l ih => rw [List.foldl_cons, ih, h]

theorem foldl2_uci {α β : Type} (f : β × State → α → β × State) (h : ∀ t a, (f t a).2.desk.2.2 = t.2.desk.2.2) (l : List α) (b : β × State) :
    (l.foldl f b).2.desk.2.2 = b.2.desk.2.2 := by
  induction l generalizing b with
  | nil => rfl
  | cons a l ih => rw [List.foldl_cons, ih, h]

@[simp] theorem State.wr_uci (s : State) (x1 : _) (x2 : _) : (State.wr s x1 x2).desk.2.2 = s.desk.2.2 := by
  unfold State.wr
  repeat' first | with_reducible rfl | with_reducible assumption | intro _ | simp only [desk_mk, desk_eta, desk_uci, Iter.state_done, Iter.state_fmt, Iter.state_trap, Whole.state_ran, Whole.state_stopped, Whole.state_denied] | split | with_reducible refine (foldl_uci _ ?_ _ _).trans ?_

@[simp] theorem State.kernelIter_uci (s : State) (h : BitVec 20) (o : Op) (r : OpRun) : (s.kernelIter h o r).state.desk.2.2 = s.desk.2.2 := by
  unfold State.kernelIter
  split
  · rfl
  · extract_lets n x fresh regs fly b0 b e last nb left t
    have hb : b.s.desk.2.2 = s.desk.2.2 := by
      unfold b b0
      split <;> simp only [runBody_desk]
    have ht : t.desk.2.2 = s.desk.2.2 := by simp only [t, State.bump_desk, hb]
    clear_value t
    split
    · simp only [Iter.state_trap, State.raise_desk]
      split
      · exact ht
      · simp only [State.wr_uci, ht]
    · split <;> exact ht

@[simp] theorem State.soundIter_uci (s : State) (x1 : _) (x2 : _) (x3 : _) (x4 : _) : (State.soundIter s x1 x2 x3 x4).state.desk.2.2 = s.desk.2.2 := by
  unfold State.soundIter
  repeat' first | with_reducible rfl | with_reducible assumption | intro _ | simp only [State.blkexpIter_desk, State.controlOp_desk, State.convertIter_desk, State.copyIter_desk, State.fillIter_desk, State.foldIter_desk, State.kernelIter_uci, State.mgroupIter_desk, State.mmulIter_desk, State.sieveIter_desk, desk_mk, desk_eta, desk_uci, Iter.state_done, Iter.state_fmt, Iter.state_trap, Whole.state_ran, Whole.state_stopped, Whole.state_denied] | split | with_reducible refine (foldl_uci _ ?_ _ _).trans ?_

@[simp] theorem State.runIter_uci (s : State) (x1 : _) (x2 : _) (x3 : _) (x4 : _) : (State.runIter s x1 x2 x3 x4).state.desk.2.2 = s.desk.2.2 := by
  unfold State.runIter
  repeat' first | with_reducible rfl | with_reducible assumption | intro _ | simp only [State.soundIter_uci, State.unsound_desk, desk_mk, desk_eta, desk_uci, Iter.state_done, Iter.state_fmt, Iter.state_trap, Whole.state_ran, Whole.state_stopped, Whole.state_denied] | split | with_reducible refine (foldl_uci _ ?_ _ _).trans ?_

theorem execOpIterationDone_uci {s t : State} {hd : BitVec 20} {qid : Nat} (h : execOpIterationDone hd qid s = .next t) : t.desk.2.2 = s.desk.2.2 := by
  simp only [execOpIterationDone, Host.Outcome.next.injEq] at h
  subst h
  split
  · rfl
  · rename_i q o run _
    split
    · rfl
    · have hw : (if run.skipped = true then s else s.opFetch o run).desk.2.2 = s.desk.2.2 := by
        split
        · rfl
        · rw [State.opFetch_desk]
      generalize (if run.skipped = true then s else s.opFetch o run) = w at hw ⊢
      split
      · rw [State.settle_desk, hw]
      · have hu : ((if run.waited = true then w else w.modQ hd qid fun q => q.take o.wait).withBank run.bankB).desk.2.2 = s.desk.2.2 := by
          rw [State.withBank_desk]
          split
          · exact hw
          · rw [State.modQ_desk, hw]
        generalize (if run.waited = true then w else w.modQ hd qid fun q => q.take o.wait).withBank run.bankB = u at hu ⊢
        split
        · exact hw
        · have hi : ((if run.skipped = true then u.skipIter hd o run else u.runIter hd qid o run).restore s.led.srcB).state.desk.2.2 = s.desk.2.2 := by
            rw [Iter.restore_desk]
            split
            · rw [State.skipIter_desk, hu]
            · rw [State.runIter_uci, hu]
          generalize (if run.skipped = true then u.skipIter hd o run else u.runIter hd qid o run).restore s.led.srcB = i at hi ⊢
          cases i with
          | done v r => simp only [State.progress_desk, State.iterated_desk]; exact hi
          | formatError v => simp only [State.settle_desk, State.failInstance_desk]; exact hi
          | trap v => simp only [State.settle_desk, State.failInstance_desk]; exact hi

@[simp] theorem State.interrupt_uci (s : State) (x1 : _) : (State.interrupt s x1).desk.2.2 = s.desk.2.2 := by
  unfold State.interrupt
  repeat' first | with_reducible rfl | with_reducible assumption | intro _ | simp only [State.emit_desk, State.wr_uci, desk_mk, desk_eta, desk_uci, Iter.state_done, Iter.state_fmt, Iter.state_trap, Whole.state_ran, Whole.state_stopped, Whole.state_denied] | split | with_reducible refine (foldl_uci _ ?_ _ _).trans ?_

@[simp] theorem State.msiWrite_uci (s : State) (x1 : _) (x2 : _) : (State.msiWrite s x1 x2).desk.2.2 = s.desk.2.2 := by
  unfold State.msiWrite
  repeat' first | with_reducible rfl | with_reducible assumption | intro _ | simp only [State.interrupt_uci, State.wr_uci, desk_mk, desk_eta, desk_uci, Iter.state_done, Iter.state_fmt, Iter.state_trap, Whole.state_ran, Whole.state_stopped, Whole.state_denied] | split | with_reducible refine (foldl_uci _ ?_ _ _).trans ?_

@[simp] theorem State.trace_uci (s : State) (x1 : _) (x2 : _) (x3 : _) (x4 : _) : (State.trace s x1 x2 x3 x4).desk.2.2 = s.desk.2.2 := by
  unfold State.trace
  repeat' first | with_reducible rfl | with_reducible assumption | intro _ | simp only [State.bump_desk, State.draw_desk, State.emit_desk, desk_mk, desk_eta, desk_uci, Iter.state_done, Iter.state_fmt, Iter.state_trap, Whole.state_ran, Whole.state_stopped, Whole.state_denied] | split | with_reducible refine (foldl_uci _ ?_ _ _).trans ?_

theorem execMsiUnmask_uci {s t : State} {x0 : Nat} {x1 : Sys2Proof.Word} (h : execMsiUnmask x0 x1 s = .next t) : t.desk.2.2 = s.desk.2.2 := by
  simp only [execMsiUnmask, Host.Outcome.next.injEq] at h
  subst h
  repeat' first | with_reducible rfl | with_reducible assumption | intro _ | simp only [State.msiWrite_uci, desk_mk, desk_eta, desk_uci, Iter.state_done, Iter.state_fmt, Iter.state_trap, Whole.state_ran, Whole.state_stopped, Whole.state_denied] | split | with_reducible refine (foldl_uci _ ?_ _ _).trans ?_

@[simp] theorem State.placeWrite_uci (s : State) (x1 : _) (x2 : _) : (State.placeWrite s x1 x2).desk.2.2 = s.desk.2.2 := by
  unfold State.placeWrite
  repeat' first | with_reducible rfl | with_reducible assumption | intro _ | simp only [State.raise_desk, State.wr_uci, desk_mk, desk_eta, desk_uci, Iter.state_done, Iter.state_fmt, Iter.state_trap, Whole.state_ran, Whole.state_stopped, Whole.state_denied] | split | with_reducible refine (foldl_uci _ ?_ _ _).trans ?_

@[simp] theorem State.takeMembership_uci (s : State) (x1 : _) : (State.takeMembership s x1).desk.2.2 = s.desk.2.2 := by
  unfold State.takeMembership
  repeat' first | with_reducible rfl | with_reducible assumption | intro _ | simp only [State.admitParty_desk, State.nameTwin_desk, State.placeWrite_uci, State.rebuildGroups_desk, State.rebuildRoutes_desk, desk_mk, desk_eta, desk_uci, Iter.state_done, Iter.state_fmt, Iter.state_trap, Whole.state_ran, Whole.state_stopped, Whole.state_denied] | split | with_reducible refine (foldl_uci _ ?_ _ _).trans ?_ | with_reducible refine (foldlB_uci _ ?_ _ _).trans ?_ | with_reducible refine (foldl1_uci _ ?_ _ _).trans ?_ | with_reducible refine (foldl2_uci _ ?_ _ _).trans ?_

@[simp] theorem State.setMeter_uci (s : State) (x1 : _) (x2 : _) (x3 : _) (x4 : _) : (State.setMeter s x1 x2 x3 x4).desk.2.2 = s.desk.2.2 := by
  unfold State.setMeter
  repeat' first | with_reducible rfl | with_reducible assumption | intro _ | simp only [State.modSched_desk, State.wr_uci, desk_mk, desk_eta, desk_uci, Iter.state_done, Iter.state_fmt, Iter.state_trap, Whole.state_ran, Whole.state_stopped, Whole.state_denied] | split | with_reducible refine (foldl_uci _ ?_ _ _).trans ?_

@[simp] theorem State.gateCtl_uci (s : State) (x1 : _) (x2 : _) : (State.gateCtl s x1 x2).desk.2.2 = s.desk.2.2 := by
  unfold State.gateCtl
  repeat' first | with_reducible rfl | with_reducible assumption | intro _ | simp only [State.modSched_desk, State.raise_desk, State.wr_uci, desk_mk, desk_eta, desk_uci, Iter.state_done, Iter.state_fmt, Iter.state_trap, Whole.state_ran, Whole.state_stopped, Whole.state_denied] | split | with_reducible refine (foldl_uci _ ?_ _ _).trans ?_

theorem execGateCtlWrite_uci {s t : State} {x0 : Nat} {x1 : Sys2Proof.Word} (h : execGateCtlWrite x0 x1 s = .next t) : t.desk.2.2 = s.desk.2.2 := by
  simp only [execGateCtlWrite, Host.Outcome.next.injEq] at h
  subst h
  repeat' first | with_reducible rfl | with_reducible assumption | intro _ | simp only [State.gateCtl_uci, desk_mk, desk_eta, desk_uci, Iter.state_done, Iter.state_fmt, Iter.state_trap, Whole.state_ran, Whole.state_stopped, Whole.state_denied] | split | with_reducible refine (foldl_uci _ ?_ _ _).trans ?_

theorem execGateListActivate_uci {s t : State} {x0 : Nat} (h : execGateListActivate x0 s = .next t) : t.desk.2.2 = s.desk.2.2 := by
  simp only [execGateListActivate, Host.Outcome.next.injEq] at h
  subst h
  repeat' first | with_reducible rfl | with_reducible assumption | intro _ | simp only [State.modSched_desk, State.wr_uci, desk_mk, desk_eta, desk_uci, Iter.state_done, Iter.state_fmt, Iter.state_trap, Whole.state_ran, Whole.state_stopped, Whole.state_denied] | split | with_reducible refine (foldl_uci _ ?_ _ _).trans ?_

@[simp] theorem State.engineReset_uci (s : State) : (State.engineReset s).desk.2.2 = s.desk.2.2 := by
  unfold State.engineReset
  repeat' first | with_reducible rfl | with_reducible assumption | intro _ | simp only [State.clearCtrs_desk, State.emptyStreams_desk, State.endNow_desk, State.wipeCells_desk, State.wr_uci, desk_mk, desk_eta, desk_uci, Iter.state_done, Iter.state_fmt, Iter.state_trap, Whole.state_ran, Whole.state_stopped, Whole.state_denied] | split | with_reducible refine (foldl_uci _ ?_ _ _).trans ?_ | with_reducible refine (foldlB_uci _ ?_ _ _).trans ?_ | with_reducible refine (foldl1_uci _ ?_ _ _).trans ?_ | with_reducible refine (foldl2_uci _ ?_ _ _).trans ?_

@[simp] theorem State.fwRestart_uci (s : State) (x1 : _) : (State.fwRestart s x1).desk.2.2 = s.desk.2.2 := by
  unfold State.fwRestart
  repeat' first | with_reducible rfl | with_reducible assumption | intro _ | simp only [State.bump_desk, desk_mk, desk_eta, desk_uci, Iter.state_done, Iter.state_fmt, Iter.state_trap, Whole.state_ran, Whole.state_stopped, Whole.state_denied] | split | with_reducible refine (foldl_uci _ ?_ _ _).trans ?_

theorem execWatchdogExpire_uci {s t : State} {x0 : Sys2Proof.Byte} (h : execWatchdogExpire x0 s = .next t) : t.desk.2.2 = s.desk.2.2 := by
  simp only [execWatchdogExpire, Host.Outcome.next.injEq] at h
  subst h
  repeat' first | with_reducible rfl | with_reducible assumption | intro _ | simp only [State.fwRestart_uci, State.raise_desk, State.trace_uci, desk_mk, desk_eta, desk_uci, Iter.state_done, Iter.state_fmt, Iter.state_trap, Whole.state_ran, Whole.state_stopped, Whole.state_denied] | split | with_reducible refine (foldl_uci _ ?_ _ _).trans ?_

@[simp] theorem State.fwCtl_uci (s : State) (x1 : _) : (State.fwCtl s x1).desk.2.2 = s.desk.2.2 := by
  unfold State.fwCtl
  repeat' first | with_reducible rfl | with_reducible assumption | intro _ | simp only [State.fwRestart_uci, desk_mk, desk_eta, desk_uci, Iter.state_done, Iter.state_fmt, Iter.state_trap, Whole.state_ran, Whole.state_stopped, Whole.state_denied] | split | with_reducible refine (foldl_uci _ ?_ _ _).trans ?_

theorem execFwCtlRestart_uci {s t : State} {x0 : Sys2Proof.Word} (h : execFwCtlRestart x0 s = .next t) : t.desk.2.2 = s.desk.2.2 := by
  simp only [execFwCtlRestart, Host.Outcome.next.injEq] at h
  subst h
  repeat' first | with_reducible rfl | with_reducible assumption | intro _ | simp only [State.fwCtl_uci, desk_mk, desk_eta, desk_uci, Iter.state_done, Iter.state_fmt, Iter.state_trap, Whole.state_ran, Whole.state_stopped, Whole.state_denied] | split | with_reducible refine (foldl_uci _ ?_ _ _).trans ?_

@[simp] theorem State.traceStart_uci (s : State) (x1 : _) (x2 : _) : (State.traceStart s x1 x2).desk.2.2 = s.desk.2.2 := by
  unfold State.traceStart
  repeat' first | with_reducible rfl | with_reducible assumption | intro _ | simp only [State.trace_uci, desk_mk, desk_eta, desk_uci, Iter.state_done, Iter.state_fmt, Iter.state_trap, Whole.state_ran, Whole.state_stopped, Whole.state_denied] | split | with_reducible refine (foldl_uci _ ?_ _ _).trans ?_

@[simp] theorem State.stagePassed_uci (s : State) (x1 : _) : (State.stagePassed s x1).desk.2.2 = s.desk.2.2 := by
  unfold State.stagePassed
  repeat' first | with_reducible rfl | with_reducible assumption | intro _ | simp only [State.trace_uci, desk_mk, desk_eta, desk_uci, Iter.state_done, Iter.state_fmt, Iter.state_trap, Whole.state_ran, Whole.state_stopped, Whole.state_denied] | split | with_reducible refine (foldl_uci _ ?_ _ _).trans ?_

@[simp] theorem State.stageFailed_uci (s : State) (x1 : _) : (State.stageFailed s x1).desk.2.2 = s.desk.2.2 := by
  unfold State.stageFailed
  repeat' first | with_reducible rfl | with_reducible assumption | intro _ | simp only [State.draw_desk, State.trace_uci, desk_mk, desk_eta, desk_uci, Iter.state_done, Iter.state_fmt, Iter.state_trap, Whole.state_ran, Whole.state_stopped, Whole.state_denied] | split | with_reducible refine (foldl_uci _ ?_ _ _).trans ?_

@[simp] theorem State.beginWrite_uci (s : State) (x1 : _) : (State.beginWrite s x1).desk.2.2 = s.desk.2.2 := by
  unfold State.beginWrite
  repeat' first | with_reducible rfl | with_reducible assumption | intro _ | simp only [State.stagePassed_uci, desk_mk, desk_eta, desk_uci, Iter.state_done, Iter.state_fmt, Iter.state_trap, Whole.state_ran, Whole.state_stopped, Whole.state_denied] | split | with_reducible refine (foldl_uci _ ?_ _ _).trans ?_

theorem execFwImageWritten_uci {s t : State} (h : execFwImageWritten s = .next t) : t.desk.2.2 = s.desk.2.2 := by
  simp only [execFwImageWritten, Host.Outcome.next.injEq] at h
  subst h
  repeat' first | with_reducible rfl | with_reducible assumption | intro _ | simp only [State.beginWrite_uci, State.stagePassed_uci, desk_mk, desk_eta, desk_uci, Iter.state_done, Iter.state_fmt, Iter.state_trap, Whole.state_ran, Whole.state_stopped, Whole.state_denied] | split | with_reducible refine (foldl_uci _ ?_ _ _).trans ?_

@[simp] theorem State.startFw_uci (s : State) (x1 : _) : (State.startFw s x1).desk.2.2 = s.desk.2.2 := by
  unfold State.startFw
  repeat' first | with_reducible rfl | with_reducible assumption | intro _ | simp only [State.stageTo_desk, State.traceStart_uci, desk_mk, desk_eta, desk_uci, Iter.state_done, Iter.state_fmt, Iter.state_trap, Whole.state_ran, Whole.state_stopped, Whole.state_denied] | split | with_reducible refine (foldl_uci _ ?_ _ _).trans ?_

theorem State.lockOr_uci (s : State) (r : Reg) (a : Nat) (f : State → State) (h : ∀ t, (f t).desk.2.2 = t.desk.2.2) : (s.lockOr r a f).desk.2.2 = s.desk.2.2 := by
  unfold State.lockOr
  split
  · simp only [State.raise_desk]
  · rw [h]; rfl

@[simp] theorem State.regionWrite_uci (s : State) (v : Word) : (s.regionWrite v).desk.2.2 = s.desk.2.2 := by
  unfold State.regionWrite
  refine State.lockOr_uci _ _ _ _ fun t => ?_
  repeat' first | with_reducible rfl | simp only [State.raise_desk, State.wr_uci, desk_mk, desk_eta, desk_uci] | split

@[simp] theorem State.pwrCfgWrite_uci (s : State) (x1 : _) : (State.pwrCfgWrite s x1).desk.2.2 = s.desk.2.2 := by
  unfold State.pwrCfgWrite
  repeat' first | with_reducible rfl | with_reducible assumption | intro _ | simp only [State.raise_desk, State.wr_uci, desk_mk, desk_eta, desk_uci, Iter.state_done, Iter.state_fmt, Iter.state_trap, Whole.state_ran, Whole.state_stopped, Whole.state_denied] | split | with_reducible refine (foldl_uci _ ?_ _ _).trans ?_

@[simp] theorem State.cmWrite_uci (s : State) (x1 : _) (x2 : _) : (State.cmWrite s x1 x2).desk.2.2 = s.desk.2.2 := by
  unfold State.cmWrite
  repeat' first | with_reducible rfl | with_reducible assumption | intro _ | simp only [State.raise_desk, State.wr_uci, desk_mk, desk_eta, desk_uci, Iter.state_done, Iter.state_fmt, Iter.state_trap, Whole.state_ran, Whole.state_stopped, Whole.state_denied] | split | with_reducible refine (foldl_uci _ ?_ _ _).trans ?_

@[simp] theorem State.evtRingReg_uci (s : State) (x1 : _) : (State.evtRingReg s x1).desk.2.2 = s.desk.2.2 := by
  unfold State.evtRingReg
  repeat' first | with_reducible rfl | with_reducible assumption | intro _ | simp only [State.raise_desk, State.wr_uci, desk_mk, desk_eta, desk_uci, Iter.state_done, Iter.state_fmt, Iter.state_trap, Whole.state_ran, Whole.state_stopped, Whole.state_denied] | split | with_reducible refine (foldl_uci _ ?_ _ _).trans ?_

@[simp] theorem State.trapWrite_uci (s : State) (x1 : _) : (State.trapWrite s x1).desk.2.2 = s.desk.2.2 := by
  unfold State.trapWrite
  repeat' first | with_reducible rfl | with_reducible assumption | intro _ | simp only [State.wr_uci, desk_mk, desk_eta, desk_uci, Iter.state_done, Iter.state_fmt, Iter.state_trap, Whole.state_ran, Whole.state_stopped, Whole.state_denied] | split | with_reducible refine (foldl_uci _ ?_ _ _).trans ?_

theorem execFabricPosWrite_uci {s t : State} {x0 : Bool} {x1 : Sys2Proof.Word} (h : execFabricPosWrite x0 x1 s = .next t) : t.desk.2.2 = s.desk.2.2 := by
  simp only [execFabricPosWrite, Host.Outcome.next.injEq] at h
  subst h
  repeat' first | with_reducible rfl | with_reducible assumption | intro _ | simp only [State.placeWrite_uci, desk_mk, desk_eta, desk_uci, Iter.state_done, Iter.state_fmt, Iter.state_trap, Whole.state_ran, Whole.state_stopped, Whole.state_denied] | split | with_reducible refine (foldl_uci _ ?_ _ _).trans ?_

theorem execMemRegionSizeWrite_uci {s t : State} {x0 : Sys2Proof.Word} (h : execMemRegionSizeWrite x0 s = .next t) : t.desk.2.2 = s.desk.2.2 := by
  simp only [execMemRegionSizeWrite, Host.Outcome.next.injEq] at h
  subst h
  repeat' first | with_reducible rfl | with_reducible assumption | intro _ | simp only [State.regionWrite_uci, desk_mk, desk_eta, desk_uci, Iter.state_done, Iter.state_fmt, Iter.state_trap, Whole.state_ran, Whole.state_stopped, Whole.state_denied] | split | with_reducible refine (foldl_uci _ ?_ _ _).trans ?_

theorem execVeTrapClear_uci {s t : State} {x0 : Sys2Proof.Word} (h : execVeTrapClear x0 s = .next t) : t.desk.2.2 = s.desk.2.2 := by
  simp only [execVeTrapClear, Host.Outcome.next.injEq] at h
  subst h
  repeat' first | with_reducible rfl | with_reducible assumption | intro _ | simp only [State.trapWrite_uci, desk_mk, desk_eta, desk_uci, Iter.state_done, Iter.state_fmt, Iter.state_trap, Whole.state_ran, Whole.state_stopped, Whole.state_denied] | split | with_reducible refine (foldl_uci _ ?_ _ _).trans ?_

theorem execCmConfigWrite_uci {s t : State} {x0 : Option Nat} {x1 : Sys2Proof.Word} (h : execCmConfigWrite x0 x1 s = .next t) : t.desk.2.2 = s.desk.2.2 := by
  simp only [execCmConfigWrite, Host.Outcome.next.injEq] at h
  subst h
  repeat' first | with_reducible rfl | with_reducible assumption | intro _ | simp only [State.cmWrite_uci, desk_mk, desk_eta, desk_uci, Iter.state_done, Iter.state_fmt, Iter.state_trap, Whole.state_ran, Whole.state_stopped, Whole.state_denied] | split | with_reducible refine (foldl_uci _ ?_ _ _).trans ?_

theorem execEvtRingWrite_uci {s t : State} {x0 : Sys2Proof.Word} (h : execEvtRingWrite x0 s = .next t) : t.desk.2.2 = s.desk.2.2 := by
  simp only [execEvtRingWrite, Host.Outcome.next.injEq] at h
  subst h
  repeat' first | with_reducible rfl | with_reducible assumption | intro _ | simp only [State.evtRingReg_uci, desk_mk, desk_eta, desk_uci, Iter.state_done, Iter.state_fmt, Iter.state_trap, Whole.state_ran, Whole.state_stopped, Whole.state_denied] | split | with_reducible refine (foldl_uci _ ?_ _ _).trans ?_

@[simp] theorem State.scrubBlock_uci (s : State) (x1 : _) : (State.scrubBlock s x1).desk.2.2 = s.desk.2.2 := by
  unfold State.scrubBlock
  repeat' first | with_reducible rfl | with_reducible assumption | intro _ | simp only [State.fwRestart_uci, State.readBlock_desk, desk_mk, desk_eta, desk_uci, Iter.state_done, Iter.state_fmt, Iter.state_trap, Whole.state_ran, Whole.state_stopped, Whole.state_denied] | split | with_reducible refine (foldl_uci _ ?_ _ _).trans ?_

@[simp] theorem State.scrubUnit_uci (s : State) (x1 : _) (x2 : _) (x3 : _) : (State.scrubUnit s x1 x2 x3).desk.2.2 = s.desk.2.2 := by
  unfold State.scrubUnit
  repeat' first | with_reducible rfl | with_reducible assumption | intro _ | simp only [State.scrubBlock_uci, State.upset_desk, desk_mk, desk_eta, desk_uci, Iter.state_done, Iter.state_fmt, Iter.state_trap, Whole.state_ran, Whole.state_stopped, Whole.state_denied] | split | with_reducible refine (foldl_uci _ ?_ _ _).trans ?_ | with_reducible refine (foldlB_uci _ ?_ _ _).trans ?_ | with_reducible refine (foldl1_uci _ ?_ _ _).trans ?_ | with_reducible refine (foldl2_uci _ ?_ _ _).trans ?_

theorem execPatrolScrub_uci {s t : State} {x0 : Nat} {x1 : List (Nat × BitVec 16)} (h : execPatrolScrub x0 x1 s = .next t) : t.desk.2.2 = s.desk.2.2 := by
  simp only [execPatrolScrub, Host.Outcome.next.injEq] at h
  subst h
  repeat' first | with_reducible rfl | with_reducible assumption | intro _ | simp only [State.bump_desk, State.scrubUnit_uci, desk_mk, desk_eta, desk_uci, Iter.state_done, Iter.state_fmt, Iter.state_trap, Whole.state_ran, Whole.state_stopped, Whole.state_denied] | split | with_reducible refine (foldl_uci _ ?_ _ _).trans ?_

theorem execEventRingEntryWrite_uci {s t : State} (h : execEventRingEntryWrite s = .next t) : t.desk.2.2 = s.desk.2.2 := by
  simp only [execEventRingEntryWrite, Host.Outcome.next.injEq] at h
  subst h
  repeat' first | with_reducible rfl | with_reducible assumption | intro _ | simp only [State.busWrite_desk, State.interrupt_uci, desk_mk, desk_eta, desk_uci, Iter.state_done, Iter.state_fmt, Iter.state_trap, Whole.state_ran, Whole.state_stopped, Whole.state_denied] | split | with_reducible refine (foldl_uci _ ?_ _ _).trans ?_

end Sys2Proof.Machine
end

