-- ==== Sys2Proof/Laws/FrameKept.lean ====
section
/-!
SUPPORT. Laws/FrameKept.lean: what leaves the queue, OTP, the clocks, the locked registers and the health scores alone.
-/
set_option linter.unusedSimpArgs false

namespace Sys2Proof.Machine

open Sys2Proof

/-- The queue, OTP and keys, the clocks, the locked registers and the health scores. -/
def State.kept (s : State) : List Instr × Security × Clock × List Reg × List (Nat × Health) := (s.pending, s.sec, s.clk, s.locked, s.health)

@[simp] theorem kept_eta (s : State) : (s.pending, s.sec, s.clk, s.locked, s.health) = s.kept := (rfl)

@[simp] theorem kept_mk (a b c d e f g h i j k l m n o p q r t u v w) :
    (State.mk a b c d e f g h i j k l m n o p q r t u v w).kept = (a, j, h, e, v) := (rfl)

theorem foldl_kept {α : Type} (f : State → α → State) (h : ∀ t a, (f t a).kept = t.kept) (l : List α) (b : State) :
    (l.foldl f b).kept = b.kept := by
  induction l generalizing b with
  | nil => rfl
  | cons a l ih => rw [List.foldl_cons, ih, h]

theorem foldlB_kept {α : Type} (f : Body → α → Body) (h : ∀ t a, (f t a).s.kept = t.s.kept) (l : List α) (b : Body) :
    (l.foldl f b).s.kept = b.s.kept := by
  induction l generalizing b with
  | nil => rfl
  | cons a l ih => rw [List.foldl_cons, ih, h]

theorem foldl1_kept {α β : Type} (f : State × β → α → State × β) (h : ∀ t a, (f t a).1.kept = t.1.kept) (l : List α) (b : State × β) :
    (l.foldl f b).1.kept = b.1.kept := by
  induction l generalizing b with
  | nil => rfl
  | cons a l ih => rw [List.foldl_cons, ih, h]

theorem foldl2_kept {α β : Type} (f : β × State → α → β × State) (h : ∀ t a, (f t a).2.kept = t.2.kept) (l : List α) (b : β × State) :
    (l.foldl f b).2.kept = b.2.kept := by
  induction l generalizing b with
  | nil => rfl
  | cons a l ih => rw [List.foldl_cons, ih, h]

@[simp] theorem State.wr_kept (s : State) (x1 : _) (x2 : _) : (State.wr s x1 x2).kept = s.kept := by
  unfold State.wr
  repeat' first | with_reducible rfl | with_reducible assumption | intro _ | simp only [kept_mk, kept_eta, Iter.state_done, Iter.state_fmt, Iter.state_trap, Whole.state_ran, Whole.state_stopped, Whole.state_denied] | split | with_reducible refine (foldl_kept _ ?_ _ _).trans ?_

@[simp] theorem State.emit_kept (s : State) (x1 : _) : (State.emit s x1).kept = s.kept := by
  unfold State.emit
  repeat' first | with_reducible rfl | with_reducible assumption | intro _ | simp only [kept_mk, kept_eta, Iter.state_done, Iter.state_fmt, Iter.state_trap, Whole.state_ran, Whole.state_stopped, Whole.state_denied] | split | with_reducible refine (foldl_kept _ ?_ _ _).trans ?_

@[simp] theorem State.draw_kept (s : State) : (State.draw s).2.kept = s.kept := by
  unfold State.draw
  repeat' first | with_reducible rfl | with_reducible assumption | intro _ | simp only [kept_mk, kept_eta, Iter.state_done, Iter.state_fmt, Iter.state_trap, Whole.state_ran, Whole.state_stopped, Whole.state_denied] | split | with_reducible refine (foldl_kept _ ?_ _ _).trans ?_

@[simp] theorem State.setCtr_kept (s : State) (x1 : _) (x2 : _) : (State.setCtr s x1 x2).kept = s.kept := by
  unfold State.setCtr
  repeat' first | with_reducible rfl | with_reducible assumption | intro _ | simp only [kept_mk, kept_eta, Iter.state_done, Iter.state_fmt, Iter.state_trap, Whole.state_ran, Whole.state_stopped, Whole.state_denied] | split | with_reducible refine (foldl_kept _ ?_ _ _).trans ?_

@[simp] theorem State.count_kept (s : State) (x1 : _) (x2 : _) : (State.count s x1 x2).kept = s.kept := by
  unfold State.count
  repeat' first | with_reducible rfl | with_reducible assumption | intro _ | simp only [State.setCtr_kept, kept_mk, kept_eta, Iter.state_done, Iter.state_fmt, Iter.state_trap, Whole.state_ran, Whole.state_stopped, Whole.state_denied] | split | with_reducible refine (foldl_kept _ ?_ _ _).trans ?_

@[simp] theorem State.clearCtr_kept (s : State) (x1 : _) : (State.clearCtr s x1).kept = s.kept := by
  unfold State.clearCtr
  repeat' first | with_reducible rfl | with_reducible assumption | intro _ | simp only [State.setCtr_kept, kept_mk, kept_eta, Iter.state_done, Iter.state_fmt, Iter.state_trap, Whole.state_ran, Whole.state_stopped, Whole.state_denied] | split | with_reducible refine (foldl_kept _ ?_ _ _).trans ?_

@[simp] theorem State.clearCtrs_kept (s : State) (x1 : _) : (State.clearCtrs s x1).kept = s.kept := by
  unfold State.clearCtrs
  repeat' first | with_reducible rfl | with_reducible assumption | intro _ | simp only [kept_mk, kept_eta, Iter.state_done, Iter.state_fmt, Iter.state_trap, Whole.state_ran, Whole.state_stopped, Whole.state_denied] | split | with_reducible refine (foldl_kept _ ?_ _ _).trans ?_

@[simp] theorem State.push_kept (s : State) (x1 : _) (x2 : _) (x3 : _) (x4 : _) (x5 : _) : (State.push s x1 x2 x3 x4 x5).kept = s.kept := by
  unfold State.push
  repeat' first | with_reducible rfl | with_reducible assumption | intro _ | simp only [kept_mk, kept_eta, Iter.state_done, Iter.state_fmt, Iter.state_trap, Whole.state_ran, Whole.state_stopped, Whole.state_denied] | split | with_reducible refine (foldl_kept _ ?_ _ _).trans ?_

@[simp] theorem State.dropLost_kept (s : State) : (State.dropLost s).kept = s.kept := by
  unfold State.dropLost
  repeat' first | with_reducible rfl | with_reducible assumption | intro _ | simp only [State.count_kept, kept_mk, kept_eta, Iter.state_done, Iter.state_fmt, Iter.state_trap, Whole.state_ran, Whole.state_stopped, Whole.state_denied] | split | with_reducible refine (foldl_kept _ ?_ _ _).trans ?_

@[simp] theorem State.pushSat_kept (s : State) (x1 : _) : (State.pushSat s x1).kept = s.kept := by
  unfold State.pushSat
  repeat' first | with_reducible rfl | with_reducible assumption | intro _ | simp only [State.push_kept, kept_mk, kept_eta, Iter.state_done, Iter.state_fmt, Iter.state_trap, Whole.state_ran, Whole.state_stopped, Whole.state_denied] | split | with_reducible refine (foldl_kept _ ?_ _ _).trans ?_

@[simp] theorem State.bump_kept (s : State) (x1 : _) (x2 : _) : (State.bump s x1 x2).kept = s.kept := by
  unfold State.bump
  repeat' first | with_reducible rfl | with_reducible assumption | intro _ | simp only [State.count_kept, State.dropLost_kept, State.pushSat_kept, kept_mk, kept_eta, Iter.state_done, Iter.state_fmt, Iter.state_trap, Whole.state_ran, Whole.state_stopped, Whole.state_denied] | split | with_reducible refine (foldl_kept _ ?_ _ _).trans ?_

@[simp] theorem State.raise_kept (s : State) (x1 : _) (x2 : _) (x3 : _) : (State.raise s x1 x2 x3).kept = s.kept := by
  unfold State.raise
  repeat' first | with_reducible rfl | with_reducible assumption | intro _ | simp only [State.dropLost_kept, State.push_kept, State.pushSat_kept, kept_mk, kept_eta, Iter.state_done, Iter.state_fmt, Iter.state_trap, Whole.state_ran, Whole.state_stopped, Whole.state_denied] | split | with_reducible refine (foldl_kept _ ?_ _ _).trans ?_

@[simp] theorem State.setPort_kept (s : State) (x1 : _) (x2 : _) : (State.setPort s x1 x2).kept = s.kept := by
  unfold State.setPort
  repeat' first | with_reducible rfl | with_reducible assumption | intro _ | simp only [kept_mk, kept_eta, Iter.state_done, Iter.state_fmt, Iter.state_trap, Whole.state_ran, Whole.state_stopped, Whole.state_denied] | split | with_reducible refine (foldl_kept _ ?_ _ _).trans ?_

@[simp] theorem State.modPort_kept (s : State) (x1 : _) (x2 : _) : (State.modPort s x1 x2).kept = s.kept := by
  unfold State.modPort
  repeat' first | with_reducible rfl | with_reducible assumption | intro _ | simp only [State.setPort_kept, kept_mk, kept_eta, Iter.state_done, Iter.state_fmt, Iter.state_trap, Whole.state_ran, Whole.state_stopped, Whole.state_denied] | split | with_reducible refine (foldl_kept _ ?_ _ _).trans ?_

@[simp] theorem State.modSched_kept (s : State) (x1 : _) (x2 : _) : (State.modSched s x1 x2).kept = s.kept := by
  unfold State.modSched
  repeat' first | with_reducible rfl | with_reducible assumption | intro _ | simp only [kept_mk, kept_eta, Iter.state_done, Iter.state_fmt, Iter.state_trap, Whole.state_ran, Whole.state_stopped, Whole.state_denied] | split | with_reducible refine (foldl_kept _ ?_ _ _).trans ?_

@[simp] theorem State.modParty_kept (s : State) (x1 : _) (x2 : _) : (State.modParty s x1 x2).kept = s.kept := by
  unfold State.modParty
  repeat' first | with_reducible rfl | with_reducible assumption | intro _ | simp only [kept_mk, kept_eta, Iter.state_done, Iter.state_fmt, Iter.state_trap, Whole.state_ran, Whole.state_stopped, Whole.state_denied] | split | with_reducible refine (foldl_kept _ ?_ _ _).trans ?_

@[simp] theorem State.setSlot_kept (s : State) (x1 : _) (x2 : _) : (State.setSlot s x1 x2).kept = s.kept := by
  unfold State.setSlot
  repeat' first | with_reducible rfl | with_reducible assumption | intro _ | simp only [kept_mk, kept_eta, Iter.state_done, Iter.state_fmt, Iter.state_trap, Whole.state_ran, Whole.state_stopped, Whole.state_denied] | split | with_reducible refine (foldl_kept _ ?_ _ _).trans ?_

@[simp] theorem State.modSlot_kept (s : State) (x1 : _) (x2 : _) : (State.modSlot s x1 x2).kept = s.kept := by
  unfold State.modSlot
  repeat' first | with_reducible rfl | with_reducible assumption | intro _ | simp only [State.setSlot_kept, kept_mk, kept_eta, Iter.state_done, Iter.state_fmt, Iter.state_trap, Whole.state_ran, Whole.state_stopped, Whole.state_denied] | split | with_reducible refine (foldl_kept _ ?_ _ _).trans ?_

@[simp] theorem State.rebuildRoutes_kept (s : State) : (State.rebuildRoutes s).kept = s.kept := by
  unfold State.rebuildRoutes
  repeat' first | with_reducible rfl | with_reducible assumption | intro _ | simp only [State.raise_kept, kept_mk, kept_eta, Iter.state_done, Iter.state_fmt, Iter.state_trap, Whole.state_ran, Whole.state_stopped, Whole.state_denied] | split | with_reducible refine (foldl_kept _ ?_ _ _).trans ?_

@[simp] theorem State.rebuildGroups_kept (s : State) : (State.rebuildGroups s).kept = s.kept := by
  unfold State.rebuildGroups
  repeat' first | with_reducible rfl | with_reducible assumption | intro _ | simp only [kept_mk, kept_eta, Iter.state_done, Iter.state_fmt, Iter.state_trap, Whole.state_ran, Whole.state_stopped, Whole.state_denied] | split | with_reducible refine (foldl_kept _ ?_ _ _).trans ?_

@[simp] theorem State.bookRead_kept (s : State) (x1 : _) (x2 : _) : (State.bookRead s x1 x2).2.kept = s.kept := by
  unfold State.bookRead
  repeat' first | with_reducible rfl | with_reducible assumption | intro _ | simp only [kept_mk, kept_eta, Iter.state_done, Iter.state_fmt, Iter.state_trap, Whole.state_ran, Whole.state_stopped, Whole.state_denied] | split | with_reducible refine (foldl_kept _ ?_ _ _).trans ?_

@[simp] theorem State.setQueue_kept (s : State) (x1 : _) (x2 : _) : (State.setQueue s x1 x2).kept = s.kept := by
  unfold State.setQueue
  repeat' first | with_reducible rfl | with_reducible assumption | intro _ | simp only [kept_mk, kept_eta, Iter.state_done, Iter.state_fmt, Iter.state_trap, Whole.state_ran, Whole.state_stopped, Whole.state_denied] | split | with_reducible refine (foldl_kept _ ?_ _ _).trans ?_

@[simp] theorem State.setWindow_kept (s : State) (x1 : _) (x2 : _) : (State.setWindow s x1 x2).kept = s.kept := by
  unfold State.setWindow
  repeat' first | with_reducible rfl | with_reducible assumption | intro _ | simp only [kept_mk, kept_eta, Iter.state_done, Iter.state_fmt, Iter.state_trap, Whole.state_ran, Whole.state_stopped, Whole.state_denied] | split | with_reducible refine (foldl_kept _ ?_ _ _).trans ?_

@[simp] theorem State.modCellSlot_kept (s : State) (x1 : _) (x2 : _) : (State.modCellSlot s x1 x2).kept = s.kept := by
  unfold State.modCellSlot
  repeat' first | with_reducible rfl | with_reducible assumption | intro _ | simp only [kept_mk, kept_eta, Iter.state_done, Iter.state_fmt, Iter.state_trap, Whole.state_ran, Whole.state_stopped, Whole.state_denied] | split | with_reducible refine (foldl_kept _ ?_ _ _).trans ?_

@[simp] theorem State.tookCopy_kept (s : State) (x1 : _) (x2 : _) : (State.tookCopy s x1 x2).kept = s.kept := by
  unfold State.tookCopy
  repeat' first | with_reducible rfl | with_reducible assumption | intro _ | simp only [State.modCellSlot_kept, kept_mk, kept_eta, Iter.state_done, Iter.state_fmt, Iter.state_trap, Whole.state_ran, Whole.state_stopped, Whole.state_denied] | split | with_reducible refine (foldl_kept _ ?_ _ _).trans ?_

@[simp] theorem State.select_kept (s : State) (x1 : _) (x2 : _) (x3 : _) (x4 : _) : (State.select s x1 x2 x3 x4).kept = s.kept := by
  unfold State.select
  repeat' first | with_reducible rfl | with_reducible assumption | intro _ | simp only [State.bookRead_kept, State.setWindow_kept, kept_mk, kept_eta, Iter.state_done, Iter.state_fmt, Iter.state_trap, Whole.state_ran, Whole.state_stopped, Whole.state_denied] | split | with_reducible refine (foldl_kept _ ?_ _ _).trans ?_

@[simp] theorem State.fillWindow_kept (s : State) (x1 : _) : (State.fillWindow s x1).kept = s.kept := by
  unfold State.fillWindow
  repeat' first | with_reducible rfl | with_reducible assumption | intro _ | simp only [State.select_kept, State.tookCopy_kept, kept_mk, kept_eta, Iter.state_done, Iter.state_fmt, Iter.state_trap, Whole.state_ran, Whole.state_stopped, Whole.state_denied] | split | with_reducible refine (foldl_kept _ ?_ _ _).trans ?_ | with_reducible refine (foldlB_kept _ ?_ _ _).trans ?_ | with_reducible refine (foldl1_kept _ ?_ _ _).trans ?_ | with_reducible refine (foldl2_kept _ ?_ _ _).trans ?_

@[simp] theorem State.enqueue_kept (s : State) (x1 : _) (x2 : _) : (State.enqueue s x1 x2).kept = s.kept := by
  unfold State.enqueue
  repeat' first | with_reducible rfl | with_reducible assumption | intro _ | simp only [State.fillWindow_kept, State.modSched_kept, State.setQueue_kept, kept_mk, kept_eta, Iter.state_done, Iter.state_fmt, Iter.state_trap, Whole.state_ran, Whole.state_stopped, Whole.state_denied] | split | with_reducible refine (foldl_kept _ ?_ _ _).trans ?_

@[simp] theorem State.returnCredit_kept (s : State) (x1 : _) (x2 : _) : (State.returnCredit s x1 x2).kept = s.kept := by
  unfold State.returnCredit
  repeat' first | with_reducible rfl | with_reducible assumption | intro _ | simp only [State.modPort_kept, kept_mk, kept_eta, Iter.state_done, Iter.state_fmt, Iter.state_trap, Whole.state_ran, Whole.state_stopped, Whole.state_denied] | split | with_reducible refine (foldl_kept _ ?_ _ _).trans ?_

@[simp] theorem State.freeIfDone_kept (s : State) (x1 : _) : (State.freeIfDone s x1).kept = s.kept := by
  unfold State.freeIfDone
  repeat' first | with_reducible rfl | with_reducible assumption | intro _ | simp only [kept_mk, kept_eta, Iter.state_done, Iter.state_fmt, Iter.state_trap, Whole.state_ran, Whole.state_stopped, Whole.state_denied] | split | with_reducible refine (foldl_kept _ ?_ _ _).trans ?_

@[simp] theorem State.dropRef_kept (s : State) (x1 : _) : (State.dropRef s x1).kept = s.kept := by
  unfold State.dropRef
  repeat' first | with_reducible rfl | with_reducible assumption | intro _ | simp only [State.freeIfDone_kept, State.modCellSlot_kept, State.returnCredit_kept, kept_mk, kept_eta, Iter.state_done, Iter.state_fmt, Iter.state_trap, Whole.state_ran, Whole.state_stopped, Whole.state_denied] | split | with_reducible refine (foldl_kept _ ?_ _ _).trans ?_

@[simp] theorem State.dropRetention_kept (s : State) (x1 : _) : (State.dropRetention s x1).kept = s.kept := by
  unfold State.dropRetention
  repeat' first | with_reducible rfl | with_reducible assumption | intro _ | simp only [State.freeIfDone_kept, State.modCellSlot_kept, kept_mk, kept_eta, Iter.state_done, Iter.state_fmt, Iter.state_trap, Whole.state_ran, Whole.state_stopped, Whole.state_denied] | split | with_reducible refine (foldl_kept _ ?_ _ _).trans ?_

@[simp] theorem State.spillOne_kept (s : State) (x1 : _) : (State.spillOne s x1).kept = s.kept := by
  unfold State.spillOne
  repeat' first | with_reducible rfl | with_reducible assumption | intro _ | simp only [State.bump_kept, kept_mk, kept_eta, Iter.state_done, Iter.state_fmt, Iter.state_trap, Whole.state_ran, Whole.state_stopped, Whole.state_denied] | split | with_reducible refine (foldl_kept _ ?_ _ _).trans ?_

@[simp] theorem State.spillAll_kept (s : State) (x0 : _) : (State.spillAll x0 s).kept = s.kept := by
  induction x0 generalizing s with
  | zero => unfold State.spillAll; repeat' first | with_reducible rfl | with_reducible assumption | intro _ | simp only [State.spillOne_kept, kept_mk, kept_eta, Iter.state_done, Iter.state_fmt, Iter.state_trap, Whole.state_ran, Whole.state_stopped, Whole.state_denied] | split | with_reducible refine (foldl_kept _ ?_ _ _).trans ?_
  | succ n ih =>
    unfold State.spillAll
    repeat' first | with_reducible rfl | with_reducible assumption | intro _ | simp only [ih, State.spillOne_kept, kept_mk, kept_eta, Iter.state_done, Iter.state_fmt, Iter.state_trap, Whole.state_ran, Whole.state_stopped, Whole.state_denied] | split | with_reducible refine (foldl_kept _ ?_ _ _).trans ?_

@[simp] theorem State.spill_kept (s : State) : (State.spill s).kept = s.kept := by
  unfold State.spill
  repeat' first | with_reducible rfl | with_reducible assumption | intro _ | simp only [State.spillAll_kept, kept_mk, kept_eta, Iter.state_done, Iter.state_fmt, Iter.state_trap, Whole.state_ran, Whole.state_stopped, Whole.state_denied] | split | with_reducible refine (foldl_kept _ ?_ _ _).trans ?_

@[simp] theorem State.countEgress_kept (s : State) (x1 : _) (x2 : _) (x3 : _) : (State.countEgress s x1 x2 x3).kept = s.kept := by
  unfold State.countEgress
  repeat' first | with_reducible rfl | with_reducible assumption | intro _ | simp only [State.bump_kept, kept_mk, kept_eta, Iter.state_done, Iter.state_fmt, Iter.state_trap, Whole.state_ran, Whole.state_stopped, Whole.state_denied] | split | with_reducible refine (foldl_kept _ ?_ _ _).trans ?_

@[simp] theorem State.store_kept (s : State) (x1 : _) (x2 : _) (x3 : _) (x4 : _) (x5 : _) (x6 : _) (x7 : _) : (State.store s x1 x2 x3 x4 x5 x6 x7).2.kept = s.kept := by
  unfold State.store
  repeat' first | with_reducible rfl | with_reducible assumption | intro _ | simp only [State.enqueue_kept, kept_mk, kept_eta, Iter.state_done, Iter.state_fmt, Iter.state_trap, Whole.state_ran, Whole.state_stopped, Whole.state_denied] | split | with_reducible refine (foldl_kept _ ?_ _ _).trans ?_ | with_reducible refine (foldlB_kept _ ?_ _ _).trans ?_ | with_reducible refine (foldl1_kept _ ?_ _ _).trans ?_ | with_reducible refine (foldl2_kept _ ?_ _ _).trans ?_

@[simp] theorem State.countWay_kept (s : State) (x1 : _) (x2 : _) (x3 : _) : (State.countWay s x1 x2 x3).kept = s.kept := by
  unfold State.countWay
  repeat' first | with_reducible rfl | with_reducible assumption | intro _ | simp only [State.bump_kept, State.countEgress_kept, kept_mk, kept_eta, Iter.state_done, Iter.state_fmt, Iter.state_trap, Whole.state_ran, Whole.state_stopped, Whole.state_denied] | split | with_reducible refine (foldl_kept _ ?_ _ _).trans ?_

@[simp] theorem State.block_kept (s : State) (x1 : _) (x2 : _) : (State.block s x1 x2).kept = s.kept := by
  unfold State.block
  repeat' first | with_reducible rfl | with_reducible assumption | intro _ | simp only [kept_mk, kept_eta, Iter.state_done, Iter.state_fmt, Iter.state_trap, Whole.state_ran, Whole.state_stopped, Whole.state_denied] | split | with_reducible refine (foldl_kept _ ?_ _ _).trans ?_

@[simp] theorem State.storeOutput_kept (s : State) (x1 : _) (x2 : _) (x3 : _) (x4 : _) (x5 : _) : (State.storeOutput s x1 x2 x3 x4 x5).2.kept = s.kept := by
  unfold State.storeOutput
  repeat' first | with_reducible rfl | with_reducible assumption | intro _ | simp only [State.block_kept, State.bump_kept, State.store_kept, kept_mk, kept_eta, Iter.state_done, Iter.state_fmt, Iter.state_trap, Whole.state_ran, Whole.state_stopped, Whole.state_denied] | split | with_reducible refine (foldl_kept _ ?_ _ _).trans ?_

@[simp] theorem State.output_kept (s : State) (x1 : _) (x2 : _) : (State.output s x1 x2).2.kept = s.kept := by
  unfold State.output
  repeat' first | with_reducible rfl | with_reducible assumption | intro _ | simp only [State.block_kept, State.bump_kept, State.countWay_kept, State.storeOutput_kept, kept_mk, kept_eta, Iter.state_done, Iter.state_fmt, Iter.state_trap, Whole.state_ran, Whole.state_stopped, Whole.state_denied] | split | with_reducible refine (foldl_kept _ ?_ _ _).trans ?_

@[simp] theorem State.sendCtrl_kept (s : State) (x1 : _) (x2 : _) (x3 : _) (x4 : _) (x5 : _) : (State.sendCtrl s x1 x2 x3 x4 x5).kept = s.kept := by
  unfold State.sendCtrl
  repeat' first | with_reducible rfl | with_reducible assumption | intro _ | simp only [State.output_kept, State.spill_kept, kept_mk, kept_eta, Iter.state_done, Iter.state_fmt, Iter.state_trap, Whole.state_ran, Whole.state_stopped, Whole.state_denied] | split | with_reducible refine (foldl_kept _ ?_ _ _).trans ?_

@[simp] theorem State.sendOnPort_kept (s : State) (x1 : _) (x2 : _) (x3 : _) : (State.sendOnPort s x1 x2 x3).kept = s.kept := by
  unfold State.sendOnPort
  repeat' first | with_reducible rfl | with_reducible assumption | intro _ | simp only [State.block_kept, State.spill_kept, State.storeOutput_kept, kept_mk, kept_eta, Iter.state_done, Iter.state_fmt, Iter.state_trap, Whole.state_ran, Whole.state_stopped, Whole.state_denied] | split | with_reducible refine (foldl_kept _ ?_ _ _).trans ?_

@[simp] theorem State.relayCell_kept (s : State) (x1 : _) (x2 : _) : (State.relayCell s x1 x2).kept = s.kept := by
  unfold State.relayCell
  repeat' first | with_reducible rfl | with_reducible assumption | intro _ | simp only [State.block_kept, State.countWay_kept, State.enqueue_kept, State.modCellSlot_kept, State.output_kept, State.spill_kept, State.storeOutput_kept, kept_mk, kept_eta, Iter.state_done, Iter.state_fmt, Iter.state_trap, Whole.state_ran, Whole.state_stopped, Whole.state_denied] | split | with_reducible refine (foldl_kept _ ?_ _ _).trans ?_ | with_reducible refine (foldlB_kept _ ?_ _ _).trans ?_ | with_reducible refine (foldl1_kept _ ?_ _ _).trans ?_ | with_reducible refine (foldl2_kept _ ?_ _ _).trans ?_

@[simp] theorem State.relayMessage_kept (s : State) (x1 : _) (x2 : _) (x3 : _) (x4 : _) (x5 : _) (x6 : _) (x7 : _) : (State.relayMessage s x1 x2 x3 x4 x5 x6 x7).kept = s.kept := by
  unfold State.relayMessage
  repeat' first | with_reducible rfl | with_reducible assumption | intro _ | simp only [State.relayCell_kept, State.setSlot_kept, kept_mk, kept_eta, Iter.state_done, Iter.state_fmt, Iter.state_trap, Whole.state_ran, Whole.state_stopped, Whole.state_denied] | split | with_reducible refine (foldl_kept _ ?_ _ _).trans ?_ | with_reducible refine (foldlB_kept _ ?_ _ _).trans ?_ | with_reducible refine (foldl1_kept _ ?_ _ _).trans ?_ | with_reducible refine (foldl2_kept _ ?_ _ _).trans ?_

@[simp] theorem State.setTx_kept (s : State) (x1 : _) (x2 : _) : (State.setTx s x1 x2).kept = s.kept := by
  unfold State.setTx
  repeat' first | with_reducible rfl | with_reducible assumption | intro _ | simp only [kept_mk, kept_eta, Iter.state_done, Iter.state_fmt, Iter.state_trap, Whole.state_ran, Whole.state_stopped, Whole.state_denied] | split | with_reducible refine (foldl_kept _ ?_ _ _).trans ?_

@[simp] theorem State.transmit_kept (s : State) (x1 : _) (x2 : _) (x3 : _) : (State.transmit s x1 x2 x3).kept = s.kept := by
  unfold State.transmit
  repeat' first | with_reducible rfl | with_reducible assumption | intro _ | simp only [State.output_kept, State.setTx_kept, State.spill_kept, kept_mk, kept_eta, Iter.state_done, Iter.state_fmt, Iter.state_trap, Whole.state_ran, Whole.state_stopped, Whole.state_denied] | split | with_reducible refine (foldl_kept _ ?_ _ _).trans ?_

@[simp] theorem State.pumpAux_kept (s : State) (x0 : _) (x1 : _) : (State.pumpAux x0 x1 s).kept = s.kept := by
  induction x1 generalizing s with
  | zero => unfold State.pumpAux; repeat' first | with_reducible rfl | with_reducible assumption | intro _ | simp only [State.setTx_kept, State.transmit_kept, kept_mk, kept_eta, Iter.state_done, Iter.state_fmt, Iter.state_trap, Whole.state_ran, Whole.state_stopped, Whole.state_denied] | split | with_reducible refine (foldl_kept _ ?_ _ _).trans ?_
  | succ n ih =>
    unfold State.pumpAux
    repeat' first | with_reducible rfl | with_reducible assumption | intro _ | simp only [ih, State.setTx_kept, State.transmit_kept, kept_mk, kept_eta, Iter.state_done, Iter.state_fmt, Iter.state_trap, Whole.state_ran, Whole.state_stopped, Whole.state_denied] | split | with_reducible refine (foldl_kept _ ?_ _ _).trans ?_

@[simp] theorem State.pump_kept (s : State) (x1 : _) : (State.pump s x1).kept = s.kept := by
  unfold State.pump
  repeat' first | with_reducible rfl | with_reducible assumption | intro _ | simp only [State.pumpAux_kept, kept_mk, kept_eta, Iter.state_done, Iter.state_fmt, Iter.state_trap, Whole.state_ran, Whole.state_stopped, Whole.state_denied] | split | with_reducible refine (foldl_kept _ ?_ _ _).trans ?_

@[simp] theorem State.sendMessage_kept (s : State) (x1 : _) (x2 : _) (x3 : _) (x4 : _) (x5 : _) (x6 : _) (x7 : _) (x8 : _) : (State.sendMessage s x1 x2 x3 x4 x5 x6 x7 x8).kept = s.kept := by
  unfold State.sendMessage
  repeat' first | with_reducible rfl | with_reducible assumption | intro _ | simp only [State.pump_kept, State.setTx_kept, kept_mk, kept_eta, Iter.state_done, Iter.state_fmt, Iter.state_trap, Whole.state_ran, Whole.state_stopped, Whole.state_denied] | split | with_reducible refine (foldl_kept _ ?_ _ _).trans ?_

@[simp] theorem State.release_kept (s : State) (x1 : _) (x2 : _) : (State.release s x1 x2).kept = s.kept := by
  unfold State.release
  repeat' first | with_reducible rfl | with_reducible assumption | intro _ | simp only [State.dropRetention_kept, State.setTx_kept, kept_mk, kept_eta, Iter.state_done, Iter.state_fmt, Iter.state_trap, Whole.state_ran, Whole.state_stopped, Whole.state_denied] | split | with_reducible refine (foldl_kept _ ?_ _ _).trans ?_ | with_reducible refine (foldlB_kept _ ?_ _ _).trans ?_ | with_reducible refine (foldl1_kept _ ?_ _ _).trans ?_ | with_reducible refine (foldl2_kept _ ?_ _ _).trans ?_

@[simp] theorem State.unretain_kept (s : State) (x1 : _) : (State.unretain s x1).kept = s.kept := by
  unfold State.unretain
  repeat' first | with_reducible rfl | with_reducible assumption | intro _ | simp only [kept_mk, kept_eta, Iter.state_done, Iter.state_fmt, Iter.state_trap, Whole.state_ran, Whole.state_stopped, Whole.state_denied] | split | with_reducible refine (foldl_kept _ ?_ _ _).trans ?_

@[simp] theorem State.releaseTx_kept (s : State) (x1 : _) : (State.releaseTx s x1).kept = s.kept := by
  unfold State.releaseTx
  repeat' first | with_reducible rfl | with_reducible assumption | intro _ | simp only [State.release_kept, State.unretain_kept, kept_mk, kept_eta, Iter.state_done, Iter.state_fmt, Iter.state_trap, Whole.state_ran, Whole.state_stopped, Whole.state_denied] | split | with_reducible refine (foldl_kept _ ?_ _ _).trans ?_

@[simp] theorem State.freshTx_kept (s : State) (x1 : _) : (State.freshTx s x1).kept = s.kept := by
  unfold State.freshTx
  repeat' first | with_reducible rfl | with_reducible assumption | intro _ | simp only [kept_mk, kept_eta, Iter.state_done, Iter.state_fmt, Iter.state_trap, Whole.state_ran, Whole.state_stopped, Whole.state_denied] | split | with_reducible refine (foldl_kept _ ?_ _ _).trans ?_

@[simp] theorem State.dropTx_kept (s : State) (x1 : _) : (State.dropTx s x1).kept = s.kept := by
  unfold State.dropTx
  repeat' first | with_reducible rfl | with_reducible assumption | intro _ | simp only [State.releaseTx_kept, kept_mk, kept_eta, Iter.state_done, Iter.state_fmt, Iter.state_trap, Whole.state_ran, Whole.state_stopped, Whole.state_denied] | split | with_reducible refine (foldl_kept _ ?_ _ _).trans ?_

@[simp] theorem State.releaseStreams_kept (s : State) (x1 : _) : (State.releaseStreams s x1).kept = s.kept := by
  unfold State.releaseStreams
  repeat' first | with_reducible rfl | with_reducible assumption | intro _ | simp only [State.pump_kept, State.releaseTx_kept, kept_mk, kept_eta, Iter.state_done, Iter.state_fmt, Iter.state_trap, Whole.state_ran, Whole.state_stopped, Whole.state_denied] | split | with_reducible refine (foldl_kept _ ?_ _ _).trans ?_ | with_reducible refine (foldlB_kept _ ?_ _ _).trans ?_ | with_reducible refine (foldl1_kept _ ?_ _ _).trans ?_ | with_reducible refine (foldl2_kept _ ?_ _ _).trans ?_

@[simp] theorem State.dropStreams_kept (s : State) (x1 : _) : (State.dropStreams s x1).kept = s.kept := by
  unfold State.dropStreams
  repeat' first | with_reducible rfl | with_reducible assumption | intro _ | simp only [State.dropTx_kept, kept_mk, kept_eta, Iter.state_done, Iter.state_fmt, Iter.state_trap, Whole.state_ran, Whole.state_stopped, Whole.state_denied] | split | with_reducible refine (foldl_kept _ ?_ _ _).trans ?_ | with_reducible refine (foldlB_kept _ ?_ _ _).trans ?_ | with_reducible refine (foldl1_kept _ ?_ _ _).trans ?_ | with_reducible refine (foldl2_kept _ ?_ _ _).trans ?_

@[simp] theorem State.closeStreams_kept (s : State) (x1 : _) (x2 : _) : (State.closeStreams s x1 x2).kept = s.kept := by
  unfold State.closeStreams
  repeat' first | with_reducible rfl | with_reducible assumption | intro _ | simp only [State.dropStreams_kept, State.output_kept, kept_mk, kept_eta, Iter.state_done, Iter.state_fmt, Iter.state_trap, Whole.state_ran, Whole.state_stopped, Whole.state_denied] | split | with_reducible refine (foldl_kept _ ?_ _ _).trans ?_ | with_reducible refine (foldlB_kept _ ?_ _ _).trans ?_ | with_reducible refine (foldl1_kept _ ?_ _ _).trans ?_ | with_reducible refine (foldl2_kept _ ?_ _ _).trans ?_

@[simp] theorem State.admitAux_kept (s : State) (x0 : _) : (State.admitAux x0 s).kept = s.kept := by
  induction x0 generalizing s with
  | zero => unfold State.admitAux; repeat' first | with_reducible rfl | with_reducible assumption | intro _ | simp only [State.output_kept, State.setTx_kept, kept_mk, kept_eta, Iter.state_done, Iter.state_fmt, Iter.state_trap, Whole.state_ran, Whole.state_stopped, Whole.state_denied] | split | with_reducible refine (foldl_kept _ ?_ _ _).trans ?_
  | succ n ih =>
    unfold State.admitAux
    repeat' first | with_reducible rfl | with_reducible assumption | intro _ | simp only [ih, State.output_kept, State.setTx_kept, kept_mk, kept_eta, Iter.state_done, Iter.state_fmt, Iter.state_trap, Whole.state_ran, Whole.state_stopped, Whole.state_denied] | split | with_reducible refine (foldl_kept _ ?_ _ _).trans ?_

@[simp] theorem State.admitBlocked_kept (s : State) : (State.admitBlocked s).kept = s.kept := by
  unfold State.admitBlocked
  repeat' first | with_reducible rfl | with_reducible assumption | intro _ | simp only [State.admitAux_kept, State.spill_kept, kept_mk, kept_eta, Iter.state_done, Iter.state_fmt, Iter.state_trap, Whole.state_ran, Whole.state_stopped, Whole.state_denied] | split | with_reducible refine (foldl_kept _ ?_ _ _).trans ?_

@[simp] theorem State.startQueues_kept (s : State) (x1 : _) (x2 : _) : (State.startQueues s x1 x2).kept = s.kept := by
  unfold State.startQueues
  repeat' first | with_reducible rfl | with_reducible assumption | intro _ | simp only [kept_mk, kept_eta, Iter.state_done, Iter.state_fmt, Iter.state_trap, Whole.state_ran, Whole.state_stopped, Whole.state_denied] | split | with_reducible refine (foldl_kept _ ?_ _ _).trans ?_

@[simp] theorem State.openSlot_kept (s : State) (x1 : _) (x2 : _) (x3 : _) (x4 : _) (x5 : _) : (State.openSlot s x1 x2 x3 x4 x5).kept = s.kept := by
  unfold State.openSlot
  repeat' first | with_reducible rfl | with_reducible assumption | intro _ | simp only [State.setSlot_kept, State.startQueues_kept, kept_mk, kept_eta, Iter.state_done, Iter.state_fmt, Iter.state_trap, Whole.state_ran, Whole.state_stopped, Whole.state_denied] | split | with_reducible refine (foldl_kept _ ?_ _ _).trans ?_

@[simp] theorem State.sendMsg_kept (s : State) (x1 : _) (x2 : _) (x3 : _) (x4 : _) (x5 : _) (x6 : _) : (State.sendMsg s x1 x2 x3 x4 x5 x6).kept = s.kept := by
  unfold State.sendMsg
  repeat' first | with_reducible rfl | with_reducible assumption | intro _ | simp only [State.sendMessage_kept, kept_mk, kept_eta, Iter.state_done, Iter.state_fmt, Iter.state_trap, Whole.state_ran, Whole.state_stopped, Whole.state_denied] | split | with_reducible refine (foldl_kept _ ?_ _ _).trans ?_

@[simp] theorem State.sendFirst_kept (s : State) (x1 : _) (x2 : _) (x3 : _) (x4 : _) (x5 : _) : (State.sendFirst s x1 x2 x3 x4 x5).kept = s.kept := by
  unfold State.sendFirst
  repeat' first | with_reducible rfl | with_reducible assumption | intro _ | simp only [State.sendMsg_kept, State.setSlot_kept, kept_mk, kept_eta, Iter.state_done, Iter.state_fmt, Iter.state_trap, Whole.state_ran, Whole.state_stopped, Whole.state_denied] | split | with_reducible refine (foldl_kept _ ?_ _ _).trans ?_

@[simp] theorem State.creditBackAux_kept (s : State) (x0 : _) (x1 : _) (x2 : _) (x3 : _) : (State.creditBackAux x0 x1 x2 x3 s).kept = s.kept := by
  induction x3 generalizing s with
  | zero => unfold State.creditBackAux; repeat' first | with_reducible rfl | with_reducible assumption | intro _ | simp only [State.sendMsg_kept, State.setSlot_kept, kept_mk, kept_eta, Iter.state_done, Iter.state_fmt, Iter.state_trap, Whole.state_ran, Whole.state_stopped, Whole.state_denied] | split | with_reducible refine (foldl_kept _ ?_ _ _).trans ?_
  | succ n ih =>
    unfold State.creditBackAux
    repeat' first | with_reducible rfl | with_reducible assumption | intro _ | simp only [ih, State.sendMsg_kept, State.setSlot_kept, kept_mk, kept_eta, Iter.state_done, Iter.state_fmt, Iter.state_trap, Whole.state_ran, Whole.state_stopped, Whole.state_denied] | split | with_reducible refine (foldl_kept _ ?_ _ _).trans ?_

@[simp] theorem State.creditBack_kept (s : State) (x1 : _) (x2 : _) (x3 : _) (x4 : _) : (State.creditBack s x1 x2 x3 x4).kept = s.kept := by
  unfold State.creditBack
  repeat' first | with_reducible rfl | with_reducible assumption | intro _ | simp only [State.creditBackAux_kept, State.setSlot_kept, kept_mk, kept_eta, Iter.state_done, Iter.state_fmt, Iter.state_trap, Whole.state_ran, Whole.state_stopped, Whole.state_denied] | split | with_reducible refine (foldl_kept _ ?_ _ _).trans ?_

@[simp] theorem State.sendAck_kept (s : State) (x1 : _) (x2 : _) (x3 : _) (x4 : _) : (State.sendAck s x1 x2 x3 x4).kept = s.kept := by
  unfold State.sendAck
  repeat' first | with_reducible rfl | with_reducible assumption | intro _ | simp only [State.sendCtrl_kept, kept_mk, kept_eta, Iter.state_done, Iter.state_fmt, Iter.state_trap, Whole.state_ran, Whole.state_stopped, Whole.state_denied] | split | with_reducible refine (foldl_kept _ ?_ _ _).trans ?_

@[simp] theorem State.returnStaging_kept (s : State) (x1 : _) (x2 : _) (x3 : _) : (State.returnStaging s x1 x2 x3).kept = s.kept := by
  unfold State.returnStaging
  repeat' first | with_reducible rfl | with_reducible assumption | intro _ | simp only [State.sendAck_kept, State.setSlot_kept, kept_mk, kept_eta, Iter.state_done, Iter.state_fmt, Iter.state_trap, Whole.state_ran, Whole.state_stopped, Whole.state_denied] | split | with_reducible refine (foldl_kept _ ?_ _ _).trans ?_

@[simp] theorem State.endDown_kept (s : State) (x1 : _) (x2 : _) (x3 : _) (x4 : _) : (State.endDown s x1 x2 x3 x4).kept = s.kept := by
  unfold State.endDown
  repeat' first | with_reducible rfl | with_reducible assumption | intro _ | simp only [State.sendMsg_kept, kept_mk, kept_eta, Iter.state_done, Iter.state_fmt, Iter.state_trap, Whole.state_ran, Whole.state_stopped, Whole.state_denied] | split | with_reducible refine (foldl_kept _ ?_ _ _).trans ?_ | with_reducible refine (foldlB_kept _ ?_ _ _).trans ?_ | with_reducible refine (foldl1_kept _ ?_ _ _).trans ?_ | with_reducible refine (foldl2_kept _ ?_ _ _).trans ?_

@[simp] theorem State.noteStatus_kept (s : State) (x1 : _) (x2 : _) : (State.noteStatus s x1 x2).kept = s.kept := by
  unfold State.noteStatus
  repeat' first | with_reducible rfl | with_reducible assumption | intro _ | simp only [kept_mk, kept_eta, Iter.state_done, Iter.state_fmt, Iter.state_trap, Whole.state_ran, Whole.state_stopped, Whole.state_denied] | split | with_reducible refine (foldl_kept _ ?_ _ _).trans ?_

@[simp] theorem State.modCtx_kept (s : State) (x1 : _) (x2 : _) : (State.modCtx s x1 x2).kept = s.kept := by
  unfold State.modCtx
  repeat' first | with_reducible rfl | with_reducible assumption | intro _ | simp only [kept_mk, kept_eta, Iter.state_done, Iter.state_fmt, Iter.state_trap, Whole.state_ran, Whole.state_stopped, Whole.state_denied] | split | with_reducible refine (foldl_kept _ ?_ _ _).trans ?_

@[simp] theorem State.freeAfter_kept (s : State) (x1 : _) (x2 : _) : (State.freeAfter s x1 x2).kept = s.kept := by
  unfold State.freeAfter
  repeat' first | with_reducible rfl | with_reducible assumption | intro _ | simp only [State.modCtx_kept, kept_mk, kept_eta, Iter.state_done, Iter.state_fmt, Iter.state_trap, Whole.state_ran, Whole.state_stopped, Whole.state_denied] | split | with_reducible refine (foldl_kept _ ?_ _ _).trans ?_

@[simp] theorem State.closeSlot_kept (s : State) (x1 : _) (x2 : _) : (State.closeSlot s x1 x2).kept = s.kept := by
  unfold State.closeSlot
  repeat' first | with_reducible rfl | with_reducible assumption | intro _ | simp only [State.bump_kept, State.closeStreams_kept, State.freeAfter_kept, State.noteStatus_kept, State.sendMsg_kept, State.setSlot_kept, kept_mk, kept_eta, Iter.state_done, Iter.state_fmt, Iter.state_trap, Whole.state_ran, Whole.state_stopped, Whole.state_denied] | split | with_reducible refine (foldl_kept _ ?_ _ _).trans ?_ | with_reducible refine (foldlB_kept _ ?_ _ _).trans ?_ | with_reducible refine (foldl1_kept _ ?_ _ _).trans ?_ | with_reducible refine (foldl2_kept _ ?_ _ _).trans ?_

@[simp] theorem State.sendEnds_kept (s : State) (x1 : _) (x2 : _) (x3 : _) : (State.sendEnds s x1 x2 x3).kept = s.kept := by
  unfold State.sendEnds
  repeat' first | with_reducible rfl | with_reducible assumption | intro _ | simp only [State.endDown_kept, State.sendMsg_kept, kept_mk, kept_eta, Iter.state_done, Iter.state_fmt, Iter.state_trap, Whole.state_ran, Whole.state_stopped, Whole.state_denied] | split | with_reducible refine (foldl_kept _ ?_ _ _).trans ?_ | with_reducible refine (foldlB_kept _ ?_ _ _).trans ?_ | with_reducible refine (foldl1_kept _ ?_ _ _).trans ?_ | with_reducible refine (foldl2_kept _ ?_ _ _).trans ?_

@[simp] theorem State.stopQueues_kept (s : State) (x1 : _) : (State.stopQueues s x1).kept = s.kept := by
  unfold State.stopQueues
  repeat' first | with_reducible rfl | with_reducible assumption | intro _ | simp only [kept_mk, kept_eta, Iter.state_done, Iter.state_fmt, Iter.state_trap, Whole.state_ran, Whole.state_stopped, Whole.state_denied] | split | with_reducible refine (foldl_kept _ ?_ _ _).trans ?_

@[simp] theorem State.failInstance_kept (s : State) (x1 : _) (x2 : _) (x3 : _) : (State.failInstance s x1 x2 x3).kept = s.kept := by
  unfold State.failInstance
  repeat' first | with_reducible rfl | with_reducible assumption | intro _ | simp only [State.closeSlot_kept, State.sendEnds_kept, State.setSlot_kept, State.stopQueues_kept, kept_mk, kept_eta, Iter.state_done, Iter.state_fmt, Iter.state_trap, Whole.state_ran, Whole.state_stopped, Whole.state_denied] | split | with_reducible refine (foldl_kept _ ?_ _ _).trans ?_

@[simp] theorem State.endNow_kept (s : State) (x1 : _) (x2 : _) (x3 : _) : (State.endNow s x1 x2 x3).kept = s.kept := by
  unfold State.endNow
  repeat' first | with_reducible rfl | with_reducible assumption | intro _ | simp only [State.closeSlot_kept, State.failInstance_kept, kept_mk, kept_eta, Iter.state_done, Iter.state_fmt, Iter.state_trap, Whole.state_ran, Whole.state_stopped, Whole.state_denied] | split | with_reducible refine (foldl_kept _ ?_ _ _).trans ?_

@[simp] theorem State.maybeClose_kept (s : State) (x1 : _) : (State.maybeClose s x1).kept = s.kept := by
  unfold State.maybeClose
  repeat' first | with_reducible rfl | with_reducible assumption | intro _ | simp only [State.closeSlot_kept, State.releaseStreams_kept, kept_mk, kept_eta, Iter.state_done, Iter.state_fmt, Iter.state_trap, Whole.state_ran, Whole.state_stopped, Whole.state_denied] | split | with_reducible refine (foldl_kept _ ?_ _ _).trans ?_

@[simp] theorem State.rootEnd_kept (s : State) (x1 : _) (x2 : _) : (State.rootEnd s x1 x2).kept = s.kept := by
  unfold State.rootEnd
  repeat' first | with_reducible rfl | with_reducible assumption | intro _ | simp only [State.endDown_kept, State.maybeClose_kept, State.setSlot_kept, kept_mk, kept_eta, Iter.state_done, Iter.state_fmt, Iter.state_trap, Whole.state_ran, Whole.state_stopped, Whole.state_denied] | split | with_reducible refine (foldl_kept _ ?_ _ _).trans ?_

@[simp] theorem State.mismatch_kept (s : State) (x1 : _) (x2 : _) : (State.mismatch s x1 x2).kept = s.kept := by
  unfold State.mismatch
  repeat' first | with_reducible rfl | with_reducible assumption | intro _ | simp only [State.bump_kept, State.failInstance_kept, State.raise_kept, State.setSlot_kept, kept_mk, kept_eta, Iter.state_done, Iter.state_fmt, Iter.state_trap, Whole.state_ran, Whole.state_stopped, Whole.state_denied] | split | with_reducible refine (foldl_kept _ ?_ _ _).trans ?_

@[simp] theorem State.retire_kept (s : State) (x1 : _) : (State.retire s x1).kept = s.kept := by
  unfold State.retire
  repeat' first | with_reducible rfl | with_reducible assumption | intro _ | simp only [State.bump_kept, kept_mk, kept_eta, Iter.state_done, Iter.state_fmt, Iter.state_trap, Whole.state_ran, Whole.state_stopped, Whole.state_denied] | split | with_reducible refine (foldl_kept _ ?_ _ _).trans ?_

@[simp] theorem State.memWrite_kept (s : State) (x1 : _) (x2 : _) : (State.memWrite s x1 x2).kept = s.kept := by
  unfold State.memWrite
  repeat' first | with_reducible rfl | with_reducible assumption | intro _ | simp only [kept_mk, kept_eta, Iter.state_done, Iter.state_fmt, Iter.state_trap, Whole.state_ran, Whole.state_stopped, Whole.state_denied] | split | with_reducible refine (foldl_kept _ ?_ _ _).trans ?_

@[simp] theorem State.memClear_kept (s : State) (x1 : _) (x2 : _) : (State.memClear s x1 x2).kept = s.kept := by
  unfold State.memClear
  repeat' first | with_reducible rfl | with_reducible assumption | intro _ | simp only [kept_mk, kept_eta, Iter.state_done, Iter.state_fmt, Iter.state_trap, Whole.state_ran, Whole.state_stopped, Whole.state_denied] | split | with_reducible refine (foldl_kept _ ?_ _ _).trans ?_

@[simp] theorem State.noteTerm_kept (s : State) (x1 : _) : (State.noteTerm s x1).kept = s.kept := by
  unfold State.noteTerm
  repeat' first | with_reducible rfl | with_reducible assumption | intro _ | simp only [kept_mk, kept_eta, Iter.state_done, Iter.state_fmt, Iter.state_trap, Whole.state_ran, Whole.state_stopped, Whole.state_denied] | split | with_reducible refine (foldl_kept _ ?_ _ _).trans ?_

@[simp] theorem State.sendGranule_kept (s : State) (x1 : _) (x2 : _) (x3 : _) : (State.sendGranule s x1 x2 x3).kept = s.kept := by
  unfold State.sendGranule
  repeat' first | with_reducible rfl | with_reducible assumption | intro _ | simp only [State.sendMessage_kept, kept_mk, kept_eta, Iter.state_done, Iter.state_fmt, Iter.state_trap, Whole.state_ran, Whole.state_stopped, Whole.state_denied] | split | with_reducible refine (foldl_kept _ ?_ _ _).trans ?_

@[simp] theorem State.resend_kept (s : State) (x1 : _) : (State.resend s x1).kept = s.kept := by
  unfold State.resend
  repeat' first | with_reducible rfl | with_reducible assumption | intro _ | simp only [State.sendGranule_kept, kept_mk, kept_eta, Iter.state_done, Iter.state_fmt, Iter.state_trap, Whole.state_ran, Whole.state_stopped, Whole.state_denied] | split | with_reducible refine (foldl_kept _ ?_ _ _).trans ?_

@[simp] theorem State.stateWrite_kept (s : State) (x1 : _) (x2 : _) : (State.stateWrite s x1 x2).kept = s.kept := by
  unfold State.stateWrite
  repeat' first | with_reducible rfl | with_reducible assumption | intro _ | simp only [State.memWrite_kept, State.noteTerm_kept, State.resend_kept, kept_mk, kept_eta, Iter.state_done, Iter.state_fmt, Iter.state_trap, Whole.state_ran, Whole.state_stopped, Whole.state_denied] | split | with_reducible refine (foldl_kept _ ?_ _ _).trans ?_ | with_reducible refine (foldlB_kept _ ?_ _ _).trans ?_ | with_reducible refine (foldl1_kept _ ?_ _ _).trans ?_ | with_reducible refine (foldl2_kept _ ?_ _ _).trans ?_

@[simp] theorem State.freeContexts_kept (s : State) : (State.freeContexts s).kept = s.kept := by
  unfold State.freeContexts
  repeat' first | with_reducible rfl | with_reducible assumption | intro _ | simp only [kept_mk, kept_eta, Iter.state_done, Iter.state_fmt, Iter.state_trap, Whole.state_ran, Whole.state_stopped, Whole.state_denied] | split | with_reducible refine (foldl_kept _ ?_ _ _).trans ?_

@[simp] theorem State.removePlan_kept (s : State) (x1 : _) : (State.removePlan s x1).kept = s.kept := by
  unfold State.removePlan
  repeat' first | with_reducible rfl | with_reducible assumption | intro _ | simp only [State.endNow_kept, State.freeContexts_kept, State.rebuildGroups_kept, kept_mk, kept_eta, Iter.state_done, Iter.state_fmt, Iter.state_trap, Whole.state_ran, Whole.state_stopped, Whole.state_denied] | split | with_reducible refine (foldl_kept _ ?_ _ _).trans ?_ | with_reducible refine (foldlB_kept _ ?_ _ _).trans ?_ | with_reducible refine (foldl1_kept _ ?_ _ _).trans ?_ | with_reducible refine (foldl2_kept _ ?_ _ _).trans ?_

@[simp] theorem State.zeroRetire_kept (s : State) (x1 : _) : (State.zeroRetire s x1).kept = s.kept := by
  unfold State.zeroRetire
  repeat' first | with_reducible rfl | with_reducible assumption | intro _ | simp only [State.memClear_kept, State.retire_kept, kept_mk, kept_eta, Iter.state_done, Iter.state_fmt, Iter.state_trap, Whole.state_ran, Whole.state_stopped, Whole.state_denied] | split | with_reducible refine (foldl_kept _ ?_ _ _).trans ?_

@[simp] theorem State.putTables_kept (s : State) (x1 : _) (x2 : _) : (State.putTables s x1 x2).kept = s.kept := by
  unfold State.putTables
  repeat' first | with_reducible rfl | with_reducible assumption | intro _ | simp only [kept_mk, kept_eta, Iter.state_done, Iter.state_fmt, Iter.state_trap, Whole.state_ran, Whole.state_stopped, Whole.state_denied] | split | with_reducible refine (foldl_kept _ ?_ _ _).trans ?_

@[simp] theorem State.queueHeal_kept (s : State) (x1 : _) (x2 : _) : (State.queueHeal s x1 x2).kept = s.kept := by
  unfold State.queueHeal
  repeat' first | with_reducible rfl | with_reducible assumption | intro _ | simp only [kept_mk, kept_eta, Iter.state_done, Iter.state_fmt, Iter.state_trap, Whole.state_ran, Whole.state_stopped, Whole.state_denied] | split | with_reducible refine (foldl_kept _ ?_ _ _).trans ?_

@[simp] theorem State.planGranuleBad_kept (s : State) (x1 : _) : (State.planGranuleBad s x1).kept = s.kept := by
  unfold State.planGranuleBad
  repeat' first | with_reducible rfl | with_reducible assumption | intro _ | simp only [State.queueHeal_kept, State.removePlan_kept, State.zeroRetire_kept, kept_mk, kept_eta, Iter.state_done, Iter.state_fmt, Iter.state_trap, Whole.state_ran, Whole.state_stopped, Whole.state_denied] | split | with_reducible refine (foldl_kept _ ?_ _ _).trans ?_ | with_reducible refine (foldlB_kept _ ?_ _ _).trans ?_ | with_reducible refine (foldl1_kept _ ?_ _ _).trans ?_ | with_reducible refine (foldl2_kept _ ?_ _ _).trans ?_

@[simp] theorem State.kvGranuleBad_kept (s : State) (x1 : _) : (State.kvGranuleBad s x1).kept = s.kept := by
  unfold State.kvGranuleBad
  repeat' first | with_reducible rfl | with_reducible assumption | intro _ | simp only [State.zeroRetire_kept, kept_mk, kept_eta, Iter.state_done, Iter.state_fmt, Iter.state_trap, Whole.state_ran, Whole.state_stopped, Whole.state_denied] | split | with_reducible refine (foldl_kept _ ?_ _ _).trans ?_

@[simp] theorem State.spillGranuleBad_kept (s : State) (x1 : _) : (State.spillGranuleBad s x1).kept = s.kept := by
  unfold State.spillGranuleBad
  repeat' first | with_reducible rfl | with_reducible assumption | intro _ | simp only [State.failInstance_kept, State.zeroRetire_kept, kept_mk, kept_eta, Iter.state_done, Iter.state_fmt, Iter.state_trap, Whole.state_ran, Whole.state_stopped, Whole.state_denied] | split | with_reducible refine (foldl_kept _ ?_ _ _).trans ?_ | with_reducible refine (foldlB_kept _ ?_ _ _).trans ?_ | with_reducible refine (foldl1_kept _ ?_ _ _).trans ?_ | with_reducible refine (foldl2_kept _ ?_ _ _).trans ?_

@[simp] theorem State.logUe_kept (s : State) (x1 : _) : (State.logUe s x1).kept = s.kept := by
  unfold State.logUe
  repeat' first | with_reducible rfl | with_reducible assumption | intro _ | simp only [State.bump_kept, State.raise_kept, kept_mk, kept_eta, Iter.state_done, Iter.state_fmt, Iter.state_trap, Whole.state_ran, Whole.state_stopped, Whole.state_denied] | split | with_reducible refine (foldl_kept _ ?_ _ _).trans ?_

@[simp] theorem State.xorBlock_kept (s : State) (x1 : _) (x2 : _) : (State.xorBlock s x1 x2).kept = s.kept := by
  unfold State.xorBlock
  repeat' first | with_reducible rfl | with_reducible assumption | intro _ | simp only [State.memWrite_kept, kept_mk, kept_eta, Iter.state_done, Iter.state_fmt, Iter.state_trap, Whole.state_ran, Whole.state_stopped, Whole.state_denied] | split | with_reducible refine (foldl_kept _ ?_ _ _).trans ?_ | with_reducible refine (foldlB_kept _ ?_ _ _).trans ?_ | with_reducible refine (foldl1_kept _ ?_ _ _).trans ?_ | with_reducible refine (foldl2_kept _ ?_ _ _).trans ?_

@[simp] theorem State.badGranule_kept (s : State) (x1 : _) : (State.badGranule s x1).kept = s.kept := by
  unfold State.badGranule
  repeat' first | with_reducible rfl | with_reducible assumption | intro _ | simp only [State.kvGranuleBad_kept, State.planGranuleBad_kept, State.queueHeal_kept, State.spillGranuleBad_kept, State.zeroRetire_kept, kept_mk, kept_eta, Iter.state_done, Iter.state_fmt, Iter.state_trap, Whole.state_ran, Whole.state_stopped, Whole.state_denied] | split | with_reducible refine (foldl_kept _ ?_ _ _).trans ?_

@[simp] theorem State.chargeChannel_kept (s : State) (x1 : _) (x2 : _) : (State.chargeChannel s x1 x2).kept = s.kept := by
  unfold State.chargeChannel
  repeat' first | with_reducible rfl | with_reducible assumption | intro _ | simp only [kept_mk, kept_eta, Iter.state_done, Iter.state_fmt, Iter.state_trap, Whole.state_ran, Whole.state_stopped, Whole.state_denied] | split | with_reducible refine (foldl_kept _ ?_ _ _).trans ?_

@[simp] theorem State.upset_kept (s : State) (x1 : _) (x2 : _) : (State.upset s x1 x2).kept = s.kept := by
  unfold State.upset
  repeat' first | with_reducible rfl | with_reducible assumption | intro _ | simp only [kept_mk, kept_eta, Iter.state_done, Iter.state_fmt, Iter.state_trap, Whole.state_ran, Whole.state_stopped, Whole.state_denied] | split | with_reducible refine (foldl_kept _ ?_ _ _).trans ?_

@[simp] theorem State.rewrite_kept (s : State) (x1 : _) : (State.rewrite s x1).kept = s.kept := by
  unfold State.rewrite
  repeat' first | with_reducible rfl | with_reducible assumption | intro _ | simp only [kept_mk, kept_eta, Iter.state_done, Iter.state_fmt, Iter.state_trap, Whole.state_ran, Whole.state_stopped, Whole.state_denied] | split | with_reducible refine (foldl_kept _ ?_ _ _).trans ?_

@[simp] theorem State.readBlock_kept (s : State) (x1 : _) : (State.readBlock s x1).kept = s.kept := by
  unfold State.readBlock
  repeat' first | with_reducible rfl | with_reducible assumption | intro _ | simp only [State.badGranule_kept, State.bump_kept, State.chargeChannel_kept, State.logUe_kept, State.rewrite_kept, State.xorBlock_kept, kept_mk, kept_eta, Iter.state_done, Iter.state_fmt, Iter.state_trap, Whole.state_ran, Whole.state_stopped, Whole.state_denied] | split | with_reducible refine (foldl_kept _ ?_ _ _).trans ?_

@[simp] theorem State.fetchRange_kept (s : State) (x1 : _) (x2 : _) : (State.fetchRange s x1 x2).kept = s.kept := by
  unfold State.fetchRange
  repeat' first | with_reducible rfl | with_reducible assumption | intro _ | simp only [State.readBlock_kept, kept_mk, kept_eta, Iter.state_done, Iter.state_fmt, Iter.state_trap, Whole.state_ran, Whole.state_stopped, Whole.state_denied] | split | with_reducible refine (foldl_kept _ ?_ _ _).trans ?_ | with_reducible refine (foldlB_kept _ ?_ _ _).trans ?_ | with_reducible refine (foldl1_kept _ ?_ _ _).trans ?_ | with_reducible refine (foldl2_kept _ ?_ _ _).trans ?_

@[simp] theorem State.fetchEdges_kept (s : State) (x1 : _) (x2 : _) : (State.fetchEdges s x1 x2).kept = s.kept := by
  unfold State.fetchEdges
  repeat' first | with_reducible rfl | with_reducible assumption | intro _ | simp only [State.readBlock_kept, kept_mk, kept_eta, Iter.state_done, Iter.state_fmt, Iter.state_trap, Whole.state_ran, Whole.state_stopped, Whole.state_denied] | split | with_reducible refine (foldl_kept _ ?_ _ _).trans ?_ | with_reducible refine (foldlB_kept _ ?_ _ _).trans ?_ | with_reducible refine (foldl1_kept _ ?_ _ _).trans ?_ | with_reducible refine (foldl2_kept _ ?_ _ _).trans ?_

@[simp] theorem State.fetchObject_kept (s : State) (x1 : _) (x2 : _) : (State.fetchObject s x1 x2).kept = s.kept := by
  unfold State.fetchObject
  repeat' first | with_reducible rfl | with_reducible assumption | intro _ | simp only [State.readBlock_kept, kept_mk, kept_eta, Iter.state_done, Iter.state_fmt, Iter.state_trap, Whole.state_ran, Whole.state_stopped, Whole.state_denied] | split | with_reducible refine (foldl_kept _ ?_ _ _).trans ?_ | with_reducible refine (foldlB_kept _ ?_ _ _).trans ?_ | with_reducible refine (foldl1_kept _ ?_ _ _).trans ?_ | with_reducible refine (foldl2_kept _ ?_ _ _).trans ?_

@[simp] theorem State.fetchAll_kept (s : State) (x1 : _) (x2 : _) : (State.fetchAll s x1 x2).kept = s.kept := by
  unfold State.fetchAll
  repeat' first | with_reducible rfl | with_reducible assumption | intro _ | simp only [State.fetchEdges_kept, State.fetchRange_kept, kept_mk, kept_eta, Iter.state_done, Iter.state_fmt, Iter.state_trap, Whole.state_ran, Whole.state_stopped, Whole.state_denied] | split | with_reducible refine (foldl_kept _ ?_ _ _).trans ?_ | with_reducible refine (foldlB_kept _ ?_ _ _).trans ?_ | with_reducible refine (foldl1_kept _ ?_ _ _).trans ?_ | with_reducible refine (foldl2_kept _ ?_ _ _).trans ?_

@[simp] theorem State.setHeader_kept (s : State) (x1 : _) (x2 : _) (x3 : _) (x4 : _) (x5 : _) (x6 : _) : (State.setHeader s x1 x2 x3 x4 x5 x6).kept = s.kept := by
  unfold State.setHeader
  repeat' first | with_reducible rfl | with_reducible assumption | intro _ | simp only [State.stateWrite_kept, kept_mk, kept_eta, Iter.state_done, Iter.state_fmt, Iter.state_trap, Whole.state_ran, Whole.state_stopped, Whole.state_denied] | split | with_reducible refine (foldl_kept _ ?_ _ _).trans ?_

@[simp] theorem State.firstUpdate_kept (s : State) (x1 : _) (x2 : _) : (State.firstUpdate s x1 x2).kept = s.kept := by
  unfold State.firstUpdate
  repeat' first | with_reducible rfl | with_reducible assumption | intro _ | simp only [State.setHeader_kept, kept_mk, kept_eta, Iter.state_done, Iter.state_fmt, Iter.state_trap, Whole.state_ran, Whole.state_stopped, Whole.state_denied] | split | with_reducible refine (foldl_kept _ ?_ _ _).trans ?_

@[simp] theorem State.markSegments_kept (s : State) (x1 : _) (x2 : _) (x3 : _) : (State.markSegments s x1 x2 x3).kept = s.kept := by
  unfold State.markSegments
  repeat' first | with_reducible rfl | with_reducible assumption | intro _ | simp only [kept_mk, kept_eta, Iter.state_done, Iter.state_fmt, Iter.state_trap, Whole.state_ran, Whole.state_stopped, Whole.state_denied] | split | with_reducible refine (foldl_kept _ ?_ _ _).trans ?_

@[simp] theorem State.applyElems_kept (s : State) (x1 : _) (x2 : _) (x3 : _) (x4 : _) (x5 : _) (x6 : _) : (State.applyElems s x1 x2 x3 x4 x5 x6).2.kept = s.kept := by
  unfold State.applyElems
  repeat' first | with_reducible rfl | with_reducible assumption | intro _ | simp only [State.firstUpdate_kept, State.markSegments_kept, State.stateWrite_kept, kept_mk, kept_eta, Iter.state_done, Iter.state_fmt, Iter.state_trap, Whole.state_ran, Whole.state_stopped, Whole.state_denied] | split | with_reducible refine (foldl_kept _ ?_ _ _).trans ?_

@[simp] theorem State.applyWhole_kept (s : State) (x1 : _) (x2 : _) (x3 : _) (x4 : _) (x5 : _) : (State.applyWhole s x1 x2 x3 x4 x5).kept = s.kept := by
  unfold State.applyWhole
  repeat' first | with_reducible rfl | with_reducible assumption | intro _ | simp only [State.firstUpdate_kept, State.markSegments_kept, State.stateWrite_kept, kept_mk, kept_eta, Iter.state_done, Iter.state_fmt, Iter.state_trap, Whole.state_ran, Whole.state_stopped, Whole.state_denied] | split | with_reducible refine (foldl_kept _ ?_ _ _).trans ?_

@[simp] theorem State.copyBank_kept (s : State) (x1 : _) (x2 : _) : (State.copyBank s x1 x2).kept = s.kept := by
  unfold State.copyBank
  repeat' first | with_reducible rfl | with_reducible assumption | intro _ | simp only [State.stateWrite_kept, kept_mk, kept_eta, Iter.state_done, Iter.state_fmt, Iter.state_trap, Whole.state_ran, Whole.state_stopped, Whole.state_denied] | split | with_reducible refine (foldl_kept _ ?_ _ _).trans ?_

@[simp] theorem State.carryShard_kept (s : State) (x1 : _) (x2 : _) : (State.carryShard s x1 x2).kept = s.kept := by
  unfold State.carryShard
  repeat' first | with_reducible rfl | with_reducible assumption | intro _ | simp only [State.bump_kept, State.copyBank_kept, kept_mk, kept_eta, Iter.state_done, Iter.state_fmt, Iter.state_trap, Whole.state_ran, Whole.state_stopped, Whole.state_denied] | split | with_reducible refine (foldl_kept _ ?_ _ _).trans ?_ | with_reducible refine (foldlB_kept _ ?_ _ _).trans ?_ | with_reducible refine (foldl1_kept _ ?_ _ _).trans ?_ | with_reducible refine (foldl2_kept _ ?_ _ _).trans ?_

@[simp] theorem State.carryAll_kept (s : State) : (State.carryAll s).kept = s.kept := by
  unfold State.carryAll
  repeat' first | with_reducible rfl | with_reducible assumption | intro _ | simp only [State.carryShard_kept, kept_mk, kept_eta, Iter.state_done, Iter.state_fmt, Iter.state_trap, Whole.state_ran, Whole.state_stopped, Whole.state_denied] | split | with_reducible refine (foldl_kept _ ?_ _ _).trans ?_ | with_reducible refine (foldlB_kept _ ?_ _ _).trans ?_ | with_reducible refine (foldl1_kept _ ?_ _ _).trans ?_ | with_reducible refine (foldl2_kept _ ?_ _ _).trans ?_

@[simp] theorem State.exchange_kept (s : State) (x1 : _) : (State.exchange s x1).kept = s.kept := by
  unfold State.exchange
  repeat' first | with_reducible rfl | with_reducible assumption | intro _ | simp only [State.bump_kept, State.raise_kept, kept_mk, kept_eta, Iter.state_done, Iter.state_fmt, Iter.state_trap, Whole.state_ran, Whole.state_stopped, Whole.state_denied] | split | with_reducible refine (foldl_kept _ ?_ _ _).trans ?_

@[simp] theorem State.commit_kept (s : State) (x1 : _) : (State.commit s x1).kept = s.kept := by
  unfold State.commit
  repeat' first | with_reducible rfl | with_reducible assumption | intro _ | simp only [State.bump_kept, State.sendCtrl_kept, kept_mk, kept_eta, Iter.state_done, Iter.state_fmt, Iter.state_trap, Whole.state_ran, Whole.state_stopped, Whole.state_denied] | split | with_reducible refine (foldl_kept _ ?_ _ _).trans ?_

@[simp] theorem State.abortAll_kept (s : State) (x1 : _) : (State.abortAll s x1).kept = s.kept := by
  unfold State.abortAll
  repeat' first | with_reducible rfl | with_reducible assumption | intro _ | simp only [State.endNow_kept, kept_mk, kept_eta, Iter.state_done, Iter.state_fmt, Iter.state_trap, Whole.state_ran, Whole.state_stopped, Whole.state_denied] | split | with_reducible refine (foldl_kept _ ?_ _ _).trans ?_ | with_reducible refine (foldlB_kept _ ?_ _ _).trans ?_ | with_reducible refine (foldl1_kept _ ?_ _ _).trans ?_ | with_reducible refine (foldl2_kept _ ?_ _ _).trans ?_

@[simp] theorem State.clearSlots_kept (s : State) (x1 : _) : (State.clearSlots s x1).kept = s.kept := by
  unfold State.clearSlots
  repeat' first | with_reducible rfl | with_reducible assumption | intro _ | simp only [State.dropStreams_kept, kept_mk, kept_eta, Iter.state_done, Iter.state_fmt, Iter.state_trap, Whole.state_ran, Whole.state_stopped, Whole.state_denied] | split | with_reducible refine (foldl_kept _ ?_ _ _).trans ?_ | with_reducible refine (foldlB_kept _ ?_ _ _).trans ?_ | with_reducible refine (foldl1_kept _ ?_ _ _).trans ?_ | with_reducible refine (foldl2_kept _ ?_ _ _).trans ?_

@[simp] theorem State.discardStep_kept (s : State) : (State.discardStep s).kept = s.kept := by
  unfold State.discardStep
  repeat' first | with_reducible rfl | with_reducible assumption | intro _ | simp only [kept_mk, kept_eta, Iter.state_done, Iter.state_fmt, Iter.state_trap, Whole.state_ran, Whole.state_stopped, Whole.state_denied] | split | with_reducible refine (foldl_kept _ ?_ _ _).trans ?_

@[simp] theorem State.refuse_kept (s : State) (x1 : _) : (State.refuse s x1).kept = s.kept := by
  unfold State.refuse
  repeat' first | with_reducible rfl | with_reducible assumption | intro _ | simp only [State.abortAll_kept, State.bump_kept, State.clearSlots_kept, State.discardStep_kept, State.raise_kept, kept_mk, kept_eta, Iter.state_done, Iter.state_fmt, Iter.state_trap, Whole.state_ran, Whole.state_stopped, Whole.state_denied] | split | with_reducible refine (foldl_kept _ ?_ _ _).trans ?_

@[simp] theorem State.barrierResult_kept (s : State) (x1 : _) (x2 : _) : (State.barrierResult s x1 x2).kept = s.kept := by
  unfold State.barrierResult
  repeat' first | with_reducible rfl | with_reducible assumption | intro _ | simp only [State.commit_kept, State.refuse_kept, kept_mk, kept_eta, Iter.state_done, Iter.state_fmt, Iter.state_trap, Whole.state_ran, Whole.state_stopped, Whole.state_denied] | split | with_reducible refine (foldl_kept _ ?_ _ _).trans ?_

@[simp] theorem State.acceptRug_kept (s : State) (x1 : _) (x2 : _) : (State.acceptRug s x1 x2).kept = s.kept := by
  unfold State.acceptRug
  repeat' first | with_reducible rfl | with_reducible assumption | intro _ | simp only [State.failInstance_kept, State.raise_kept, kept_mk, kept_eta, Iter.state_done, Iter.state_fmt, Iter.state_trap, Whole.state_ran, Whole.state_stopped, Whole.state_denied] | split | with_reducible refine (foldl_kept _ ?_ _ _).trans ?_

@[simp] theorem State.gatherBytes_kept (s : State) (x1 : _) (x2 : _) (x3 : _) : (State.gatherBytes s x1 x2 x3).2.kept = s.kept := by
  unfold State.gatherBytes
  repeat' first | with_reducible rfl | with_reducible assumption | intro _ | simp only [State.bump_kept, kept_mk, kept_eta, Iter.state_done, Iter.state_fmt, Iter.state_trap, Whole.state_ran, Whole.state_stopped, Whole.state_denied] | split | with_reducible refine (foldl_kept _ ?_ _ _).trans ?_

@[simp] theorem State.spaceWrite_kept (s : State) (x1 : _) (x2 : _) (x3 : _) : (State.spaceWrite s x1 x2 x3).kept = s.kept := by
  unfold State.spaceWrite
  repeat' first | with_reducible rfl | with_reducible assumption | intro _ | simp only [State.stateWrite_kept, kept_mk, kept_eta, Iter.state_done, Iter.state_fmt, Iter.state_trap, Whole.state_ran, Whole.state_stopped, Whole.state_denied] | split | with_reducible refine (foldl_kept _ ?_ _ _).trans ?_

@[simp] theorem State.putCode_kept (s : State) (x1 : _) (x2 : _) : (State.putCode s x1 x2).kept = s.kept := by
  unfold State.putCode
  repeat' first | with_reducible rfl | with_reducible assumption | intro _ | simp only [State.spaceWrite_kept, kept_mk, kept_eta, Iter.state_done, Iter.state_fmt, Iter.state_trap, Whole.state_ran, Whole.state_stopped, Whole.state_denied] | split | with_reducible refine (foldl_kept _ ?_ _ _).trans ?_

@[simp] theorem State.fetchPlace_kept (s : State) (x1 : _) : (State.fetchPlace s x1).kept = s.kept := by
  unfold State.fetchPlace
  repeat' first | with_reducible rfl | with_reducible assumption | intro _ | simp only [State.fetchRange_kept, kept_mk, kept_eta, Iter.state_done, Iter.state_fmt, Iter.state_trap, Whole.state_ran, Whole.state_stopped, Whole.state_denied] | split | with_reducible refine (foldl_kept _ ?_ _ _).trans ?_

theorem State.putAt_kept {s t : State} {d : Descr} {ix : List Nat} {c : Nat} (h : s.putAt d ix c = some t) : t.kept = s.kept := by
  unfold State.putAt at h
  obtain ⟨p, _, rfl⟩ := Option.map_eq_some_iff.mp h
  exact State.putCode_kept s p c

theorem State.putAt_getD_kept (s : State) (d : Descr) (ix : List Nat) (c : Nat) : ((s.putAt d ix c).getD s).kept = s.kept := by
  cases h : s.putAt d ix c with
  | none => rfl
  | some t => exact State.putAt_kept h

@[simp] theorem State.putWalk_kept (s : State) (d : Descr) (n : Nat) (l : List Nat) : (s.putWalk d n l).kept = s.kept := by
  unfold State.putWalk
  refine foldl_kept _ ?_ _ _
  intro t a
  rw [State.putAt_getD_kept]

@[simp] theorem State.putCodes_kept (s : State) (d : Descr) (l : List (List Nat)) (cs : List Nat) : (s.putCodes d l cs).1.kept = s.kept := by
  induction cs generalizing s l with
  | nil => simp only [State.putCodes]
  | cons c cs ih =>
    cases l with
    | nil => simp only [State.putCodes]
    | cons ix t =>
      rw [State.putCodes]
      split
      · rename_i u hu
        rw [ih, State.putAt_kept hu]
      · rfl

@[simp] theorem State.replaceLayer_kept (s : State) (x1 : _) (x2 : _) (x3 : _) : (State.replaceLayer s x1 x2 x3).kept = s.kept := by
  unfold State.replaceLayer
  repeat' first | with_reducible rfl | with_reducible assumption | intro _ | simp only [State.modCtx_kept, kept_mk, kept_eta, Iter.state_done, Iter.state_fmt, Iter.state_trap, Whole.state_ran, Whole.state_stopped, Whole.state_denied] | split | with_reducible refine (foldl_kept _ ?_ _ _).trans ?_

@[simp] theorem State.seqOpen_kept (s : State) (x1 : _) (x2 : _) : (State.seqOpen s x1 x2).kept = s.kept := by
  unfold State.seqOpen
  repeat' first | with_reducible rfl | with_reducible assumption | intro _ | simp only [State.modCtx_kept, State.replaceLayer_kept, kept_mk, kept_eta, Iter.state_done, Iter.state_fmt, Iter.state_trap, Whole.state_ran, Whole.state_stopped, Whole.state_denied] | split | with_reducible refine (foldl_kept _ ?_ _ _).trans ?_

@[simp] theorem State.storeChunk_kept (s : State) (x1 : _) (x2 : _) (x3 : _) (x4 : _) (x5 : _) : (State.storeChunk s x1 x2 x3 x4 x5).kept = s.kept := by
  unfold State.storeChunk
  repeat' first | with_reducible rfl | with_reducible assumption | intro _ | simp only [State.bump_kept, State.modCtx_kept, kept_mk, kept_eta, Iter.state_done, Iter.state_fmt, Iter.state_trap, Whole.state_ran, Whole.state_stopped, Whole.state_denied] | split | with_reducible refine (foldl_kept _ ?_ _ _).trans ?_

@[simp] theorem State.seqDown_kept (s : State) (x1 : _) (x2 : _) (x3 : _) (x4 : _) (x5 : _) (x6 : _) : (State.seqDown s x1 x2 x3 x4 x5 x6).kept = s.kept := by
  unfold State.seqDown
  repeat' first | with_reducible rfl | with_reducible assumption | intro _ | simp only [State.relayMessage_kept, State.sendMsg_kept, kept_mk, kept_eta, Iter.state_done, Iter.state_fmt, Iter.state_trap, Whole.state_ran, Whole.state_stopped, Whole.state_denied] | split | with_reducible refine (foldl_kept _ ?_ _ _).trans ?_ | with_reducible refine (foldlB_kept _ ?_ _ _).trans ?_ | with_reducible refine (foldl1_kept _ ?_ _ _).trans ?_ | with_reducible refine (foldl2_kept _ ?_ _ _).trans ?_

@[simp] theorem State.sendBlock_kept (s : State) (x1 : _) (x2 : _) (x3 : _) (x4 : _) (x5 : _) (x6 : _) : (State.sendBlock s x1 x2 x3 x4 x5 x6).kept = s.kept := by
  unfold State.sendBlock
  repeat' first | with_reducible rfl | with_reducible assumption | intro _ | simp only [State.modSlot_kept, State.seqDown_kept, kept_mk, kept_eta, Iter.state_done, Iter.state_fmt, Iter.state_trap, Whole.state_ran, Whole.state_stopped, Whole.state_denied] | split | with_reducible refine (foldl_kept _ ?_ _ _).trans ?_ | with_reducible refine (foldlB_kept _ ?_ _ _).trans ?_ | with_reducible refine (foldl1_kept _ ?_ _ _).trans ?_ | with_reducible refine (foldl2_kept _ ?_ _ _).trans ?_

@[simp] theorem State.blockMissing_kept (s : State) (x1 : _) (x2 : _) (x3 : _) (x4 : _) (x5 : _) : (State.blockMissing s x1 x2 x3 x4 x5).kept = s.kept := by
  unfold State.blockMissing
  repeat' first | with_reducible rfl | with_reducible assumption | intro _ | simp only [State.bump_kept, State.modSlot_kept, State.raise_kept, State.sendBlock_kept, kept_mk, kept_eta, Iter.state_done, Iter.state_fmt, Iter.state_trap, Whole.state_ran, Whole.state_stopped, Whole.state_denied] | split | with_reducible refine (foldl_kept _ ?_ _ _).trans ?_

@[simp] theorem State.blocksFrom_kept (s : State) (x0 : _) (x1 : _) (x2 : _) (x3 : _) (x4 : _) (x5 : _) : (State.blocksFrom x0 x1 x2 x3 x4 x5 s).kept = s.kept := by
  induction x4 generalizing x5 s with
  | zero => unfold State.blocksFrom; repeat' first | with_reducible rfl | with_reducible assumption | intro _ | simp only [State.blockMissing_kept, State.fetchObject_kept, State.sendBlock_kept, kept_mk, kept_eta, Iter.state_done, Iter.state_fmt, Iter.state_trap, Whole.state_ran, Whole.state_stopped, Whole.state_denied] | split | with_reducible refine (foldl_kept _ ?_ _ _).trans ?_
  | succ n ih =>
    unfold State.blocksFrom
    repeat' first | with_reducible rfl | with_reducible assumption | intro _ | simp only [ih, State.blockMissing_kept, State.fetchObject_kept, State.sendBlock_kept, kept_mk, kept_eta, Iter.state_done, Iter.state_fmt, Iter.state_trap, Whole.state_ran, Whole.state_stopped, Whole.state_denied] | split | with_reducible refine (foldl_kept _ ?_ _ _).trans ?_

@[simp] theorem State.storeStaged_kept (s : State) (x1 : _) (x2 : _) (x3 : _) : (State.storeStaged s x1 x2 x3).kept = s.kept := by
  unfold State.storeStaged
  repeat' first | with_reducible rfl | with_reducible assumption | intro _ | simp only [State.replaceLayer_kept, State.returnStaging_kept, State.setSlot_kept, State.storeChunk_kept, kept_mk, kept_eta, Iter.state_done, Iter.state_fmt, Iter.state_trap, Whole.state_ran, Whole.state_stopped, Whole.state_denied] | split | with_reducible refine (foldl_kept _ ?_ _ _).trans ?_ | with_reducible refine (foldlB_kept _ ?_ _ _).trans ?_ | with_reducible refine (foldl1_kept _ ?_ _ _).trans ?_ | with_reducible refine (foldl2_kept _ ?_ _ _).trans ?_

@[simp] theorem State.seqAdvance_kept (s : State) (x1 : _) : (State.seqAdvance s x1).kept = s.kept := by
  unfold State.seqAdvance
  repeat' first | with_reducible rfl | with_reducible assumption | intro _ | simp only [State.blocksFrom_kept, State.failInstance_kept, State.freeAfter_kept, State.rootEnd_kept, State.storeStaged_kept, kept_mk, kept_eta, Iter.state_done, Iter.state_fmt, Iter.state_trap, Whole.state_ran, Whole.state_stopped, Whole.state_denied] | split | with_reducible refine (foldl_kept _ ?_ _ _).trans ?_ | with_reducible refine (foldlB_kept _ ?_ _ _).trans ?_ | with_reducible refine (foldl1_kept _ ?_ _ _).trans ?_ | with_reducible refine (foldl2_kept _ ?_ _ _).trans ?_

@[simp] theorem State.mirrorBad_kept (s : State) (x1 : _) : (State.mirrorBad s x1).kept = s.kept := by
  unfold State.mirrorBad
  repeat' first | with_reducible rfl | with_reducible assumption | intro _ | simp only [State.bump_kept, State.failInstance_kept, kept_mk, kept_eta, Iter.state_done, Iter.state_fmt, Iter.state_trap, Whole.state_ran, Whole.state_stopped, Whole.state_denied] | split | with_reducible refine (foldl_kept _ ?_ _ _).trans ?_

@[simp] theorem State.mirrorAccept_kept (s : State) (x1 : _) : (State.mirrorAccept s x1).kept = s.kept := by
  unfold State.mirrorAccept
  repeat' first | with_reducible rfl | with_reducible assumption | intro _ | simp only [State.mirrorBad_kept, State.setSlot_kept, kept_mk, kept_eta, Iter.state_done, Iter.state_fmt, Iter.state_trap, Whole.state_ran, Whole.state_stopped, Whole.state_denied] | split | with_reducible refine (foldl_kept _ ?_ _ _).trans ?_

@[simp] theorem State.releaseMirrors_kept (s : State) (x1 : _) : (State.releaseMirrors s x1).kept = s.kept := by
  unfold State.releaseMirrors
  repeat' first | with_reducible rfl | with_reducible assumption | intro _ | simp only [State.mirrorAccept_kept, kept_mk, kept_eta, Iter.state_done, Iter.state_fmt, Iter.state_trap, Whole.state_ran, Whole.state_stopped, Whole.state_denied] | split | with_reducible refine (foldl_kept _ ?_ _ _).trans ?_ | with_reducible refine (foldlB_kept _ ?_ _ _).trans ?_ | with_reducible refine (foldl1_kept _ ?_ _ _).trans ?_ | with_reducible refine (foldl2_kept _ ?_ _ _).trans ?_

@[simp] theorem State.dispOpen_kept (s : State) (x1 : _) (x2 : _) (x3 : _) : (State.dispOpen s x1 x2 x3).kept = s.kept := by
  unfold State.dispOpen
  repeat' first | with_reducible rfl | with_reducible assumption | intro _ | simp only [State.failInstance_kept, State.fetchObject_kept, State.raise_kept, kept_mk, kept_eta, Iter.state_done, Iter.state_fmt, Iter.state_trap, Whole.state_ran, Whole.state_stopped, Whole.state_denied] | split | with_reducible refine (foldl_kept _ ?_ _ _).trans ?_

@[simp] theorem State.openInstance_kept (s : State) (x1 : _) (x2 : _) (x3 : _) (x4 : _) (x5 : _) : (State.openInstance s x1 x2 x3 x4 x5).kept = s.kept := by
  unfold State.openInstance
  repeat' first | with_reducible rfl | with_reducible assumption | intro _ | simp only [State.acceptRug_kept, State.dispOpen_kept, State.failInstance_kept, State.openSlot_kept, State.releaseMirrors_kept, State.seqOpen_kept, kept_mk, kept_eta, Iter.state_done, Iter.state_fmt, Iter.state_trap, Whole.state_ran, Whole.state_stopped, Whole.state_denied] | split | with_reducible refine (foldl_kept _ ?_ _ _).trans ?_

@[simp] theorem State.takeInbox_kept (s : State) (x1 : _) (x2 : _) : (State.takeInbox s x1 x2).kept = s.kept := by
  unfold State.takeInbox
  repeat' first | with_reducible rfl | with_reducible assumption | intro _ | simp only [kept_mk, kept_eta, Iter.state_done, Iter.state_fmt, Iter.state_trap, Whole.state_ran, Whole.state_stopped, Whole.state_denied] | split | with_reducible refine (foldl_kept _ ?_ _ _).trans ?_

@[simp] theorem State.takeCtrl_kept (s : State) (x1 : _) (x2 : _) : (State.takeCtrl s x1 x2).kept = s.kept := by
  unfold State.takeCtrl
  repeat' first | with_reducible rfl | with_reducible assumption | intro _ | simp only [kept_mk, kept_eta, Iter.state_done, Iter.state_fmt, Iter.state_trap, Whole.state_ran, Whole.state_stopped, Whole.state_denied] | split | with_reducible refine (foldl_kept _ ?_ _ _).trans ?_

@[simp] theorem State.straggle_kept (s : State) (x1 : _) (x2 : _) : (State.straggle s x1 x2).kept = s.kept := by
  unfold State.straggle
  repeat' first | with_reducible rfl | with_reducible assumption | intro _ | simp only [State.fetchObject_kept, kept_mk, kept_eta, Iter.state_done, Iter.state_fmt, Iter.state_trap, Whole.state_ran, Whole.state_stopped, Whole.state_denied] | split | with_reducible refine (foldl_kept _ ?_ _ _).trans ?_

theorem State.takeCredit_kept {s t : State} {h : BitVec 20} {k : Coll} {a : FA} {c : Nat} (e : s.takeCredit h k a c = some t) :
    t.kept = s.kept := by
  simp only [State.takeCredit] at e
  split at e
  · cases e; rfl
  · cases e

@[simp] theorem State.freeChunk_kept (s : State) (x1 : _) (x2 : _) : (State.freeChunk s x1 x2).kept = s.kept := by
  unfold State.freeChunk
  repeat' first | with_reducible rfl | with_reducible assumption | intro _ | simp only [State.returnStaging_kept, kept_mk, kept_eta, Iter.state_done, Iter.state_fmt, Iter.state_trap, Whole.state_ran, Whole.state_stopped, Whole.state_denied] | split | with_reducible refine (foldl_kept _ ?_ _ _).trans ?_ | with_reducible refine (foldlB_kept _ ?_ _ _).trans ?_ | with_reducible refine (foldl1_kept _ ?_ _ _).trans ?_ | with_reducible refine (foldl2_kept _ ?_ _ _).trans ?_

@[simp] theorem State.sendDown_kept (s : State) (x1 : _) (x2 : _) (x3 : _) (x4 : _) (x5 : _) (x6 : _) : (State.sendDown s x1 x2 x3 x4 x5 x6).kept = s.kept := by
  unfold State.sendDown
  repeat' first | with_reducible rfl | with_reducible assumption | intro _ | simp only [State.sendMsg_kept, kept_mk, kept_eta, Iter.state_done, Iter.state_fmt, Iter.state_trap, Whole.state_ran, Whole.state_stopped, Whole.state_denied] | split | with_reducible refine (foldl_kept _ ?_ _ _).trans ?_ | with_reducible refine (foldlB_kept _ ?_ _ _).trans ?_ | with_reducible refine (foldl1_kept _ ?_ _ _).trans ?_ | with_reducible refine (foldl2_kept _ ?_ _ _).trans ?_

@[simp] theorem State.markDown_kept (s : State) (x1 : _) (x2 : _) : (State.markDown s x1 x2).kept = s.kept := by
  unfold State.markDown
  repeat' first | with_reducible rfl | with_reducible assumption | intro _ | simp only [State.modSlot_kept, kept_mk, kept_eta, Iter.state_done, Iter.state_fmt, Iter.state_trap, Whole.state_ran, Whole.state_stopped, Whole.state_denied] | split | with_reducible refine (foldl_kept _ ?_ _ _).trans ?_

@[simp] theorem State.advance_kept (s : State) (x1 : _) : (State.advance s x1).kept = s.kept := by
  unfold State.advance
  repeat' first | with_reducible rfl | with_reducible assumption | intro _ | simp only [State.failInstance_kept, State.maybeClose_kept, State.rootEnd_kept, kept_mk, kept_eta, Iter.state_done, Iter.state_fmt, Iter.state_trap, Whole.state_ran, Whole.state_stopped, Whole.state_denied] | split | with_reducible refine (foldl_kept _ ?_ _ _).trans ?_ | with_reducible refine (foldlB_kept _ ?_ _ _).trans ?_ | with_reducible refine (foldl1_kept _ ?_ _ _).trans ?_ | with_reducible refine (foldl2_kept _ ?_ _ _).trans ?_

@[simp] theorem State.settleNorm_kept (s : State) : (State.settleNorm s).kept = s.kept := by
  unfold State.settleNorm
  repeat' first | with_reducible rfl | with_reducible assumption | intro _ | simp only [State.failInstance_kept, kept_mk, kept_eta, Iter.state_done, Iter.state_fmt, Iter.state_trap, Whole.state_ran, Whole.state_stopped, Whole.state_denied] | split | with_reducible refine (foldl_kept _ ?_ _ _).trans ?_ | with_reducible refine (foldlB_kept _ ?_ _ _).trans ?_ | with_reducible refine (foldl1_kept _ ?_ _ _).trans ?_ | with_reducible refine (foldl2_kept _ ?_ _ _).trans ?_

@[simp] theorem State.settle_kept (s : State) : (State.settle s).kept = s.kept := by
  unfold State.settle
  repeat' first | with_reducible rfl | with_reducible assumption | intro _ | simp only [State.seqAdvance_kept, State.settleNorm_kept, kept_mk, kept_eta, Iter.state_done, Iter.state_fmt, Iter.state_trap, Whole.state_ran, Whole.state_stopped, Whole.state_denied] | split | with_reducible refine (foldl_kept _ ?_ _ _).trans ?_ | with_reducible refine (foldlB_kept _ ?_ _ _).trans ?_ | with_reducible refine (foldl1_kept _ ?_ _ _).trans ?_ | with_reducible refine (foldl2_kept _ ?_ _ _).trans ?_

@[simp] theorem State.after_kept (s : State) (x1 : _) : (State.after s x1).kept = s.kept := by
  unfold State.after
  repeat' first | with_reducible rfl | with_reducible assumption | intro _ | simp only [State.advance_kept, State.settle_kept, kept_mk, kept_eta, Iter.state_done, Iter.state_fmt, Iter.state_trap, Whole.state_ran, Whole.state_stopped, Whole.state_denied] | split | with_reducible refine (foldl_kept _ ?_ _ _).trans ?_

@[simp] theorem State.absentDown_kept (s : State) (x1 : _) : (State.absentDown s x1).kept = s.kept := by
  unfold State.absentDown
  repeat' first | with_reducible rfl | with_reducible assumption | intro _ | simp only [State.markDown_kept, State.modSlot_kept, State.sendDown_kept, kept_mk, kept_eta, Iter.state_done, Iter.state_fmt, Iter.state_trap, Whole.state_ran, Whole.state_stopped, Whole.state_denied] | split | with_reducible refine (foldl_kept _ ?_ _ _).trans ?_ | with_reducible refine (foldlB_kept _ ?_ _ _).trans ?_ | with_reducible refine (foldl1_kept _ ?_ _ _).trans ?_ | with_reducible refine (foldl2_kept _ ?_ _ _).trans ?_

@[simp] theorem State.addToken_kept (s : State) (x1 : _) (x2 : _) (x3 : _) : (State.addToken s x1 x2 x3).kept = s.kept := by
  unfold State.addToken
  repeat' first | with_reducible rfl | with_reducible assumption | intro _ | simp only [State.bump_kept, kept_mk, kept_eta, Iter.state_done, Iter.state_fmt, Iter.state_trap, Whole.state_ran, Whole.state_stopped, Whole.state_denied] | split | with_reducible refine (foldl_kept _ ?_ _ _).trans ?_

@[simp] theorem State.resFetch_kept (s : State) (x1 : _) (x2 : _) (x3 : _) (x4 : _) : (State.resFetch s x1 x2 x3 x4).kept = s.kept := by
  unfold State.resFetch
  repeat' first | with_reducible rfl | with_reducible assumption | intro _ | simp only [State.fetchPlace_kept, kept_mk, kept_eta, Iter.state_done, Iter.state_fmt, Iter.state_trap, Whole.state_ran, Whole.state_stopped, Whole.state_denied] | split | with_reducible refine (foldl_kept _ ?_ _ _).trans ?_ | with_reducible refine (foldlB_kept _ ?_ _ _).trans ?_ | with_reducible refine (foldl1_kept _ ?_ _ _).trans ?_ | with_reducible refine (foldl2_kept _ ?_ _ _).trans ?_

@[simp] theorem State.writeResH_kept (s : State) (x1 : _) (x2 : _) (x3 : _) (x4 : _) (x5 : _) (x6 : _) (x7 : _) : (State.writeResH s x1 x2 x3 x4 x5 x6 x7).kept = s.kept := by
  unfold State.writeResH
  repeat' first | with_reducible rfl | with_reducible assumption | intro _ | simp only [State.addToken_kept, State.putWalk_kept, kept_mk, kept_eta, Iter.state_done, Iter.state_fmt, Iter.state_trap, Whole.state_ran, Whole.state_stopped, Whole.state_denied] | split | with_reducible refine (foldl_kept _ ?_ _ _).trans ?_ | with_reducible refine (foldlB_kept _ ?_ _ _).trans ?_ | with_reducible refine (foldl1_kept _ ?_ _ _).trans ?_ | with_reducible refine (foldl2_kept _ ?_ _ _).trans ?_

@[simp] theorem State.openFor_kept (s : State) (x1 : _) (x2 : _) (x3 : _) (x4 : _) (x5 : _) : (State.openFor s x1 x2 x3 x4 x5).kept = s.kept := by
  unfold State.openFor
  repeat' first | with_reducible rfl | with_reducible assumption | intro _ | simp only [State.absentDown_kept, State.openInstance_kept, kept_mk, kept_eta, Iter.state_done, Iter.state_fmt, Iter.state_trap, Whole.state_ran, Whole.state_stopped, Whole.state_denied] | split | with_reducible refine (foldl_kept _ ?_ _ _).trans ?_

theorem enter_kept (s : State) (m : Msg) (k : Plan → Slot → State → State) (h : ∀ p v t, (k p v t).kept = t.kept) :
    (s.enter m k).kept = s.kept := by
  unfold State.enter
  repeat' first | with_reducible rfl | simp only [h, State.takeInbox_kept, State.bump_kept, State.mismatch_kept, State.openFor_kept, State.failInstance_kept, kept_mk, kept_eta] | split

@[simp] theorem State.modNorm_kept (s : State) (x1 : _) (x2 : _) (x3 : _) : (State.modNorm s x1 x2 x3).kept = s.kept := by
  unfold State.modNorm
  repeat' first | with_reducible rfl | with_reducible assumption | intro _ | simp only [kept_mk, kept_eta, Iter.state_done, Iter.state_fmt, Iter.state_trap, Whole.state_ran, Whole.state_stopped, Whole.state_denied] | split | with_reducible refine (foldl_kept _ ?_ _ _).trans ?_

@[simp] theorem State.normKnown_kept (s : State) (x1 : _) (x2 : _) (x3 : _) : (State.normKnown s x1 x2 x3).kept = s.kept := by
  unfold State.normKnown
  repeat' first | with_reducible rfl | with_reducible assumption | intro _ | simp only [State.bump_kept, State.modNorm_kept, State.raise_kept, kept_mk, kept_eta, Iter.state_done, Iter.state_fmt, Iter.state_trap, Whole.state_ran, Whole.state_stopped, Whole.state_denied] | split | with_reducible refine (foldl_kept _ ?_ _ _).trans ?_

@[simp] theorem State.normForward_kept (s : State) (x1 : _) (x2 : _) (x3 : _) : (State.normForward s x1 x2 x3).kept = s.kept := by
  unfold State.normForward
  repeat' first | with_reducible rfl | with_reducible assumption | intro _ | simp only [State.sendCtrl_kept, kept_mk, kept_eta, Iter.state_done, Iter.state_fmt, Iter.state_trap, Whole.state_ran, Whole.state_stopped, Whole.state_denied] | split | with_reducible refine (foldl_kept _ ?_ _ _).trans ?_

@[simp] theorem State.resultEffect_kept (s : State) (x1 : _) (x2 : _) (x3 : _) (x4 : _) : (State.resultEffect s x1 x2 x3 x4).kept = s.kept := by
  unfold State.resultEffect
  repeat' first | with_reducible rfl | with_reducible assumption | intro _ | simp only [State.barrierResult_kept, State.normForward_kept, State.normKnown_kept, kept_mk, kept_eta, Iter.state_done, Iter.state_fmt, Iter.state_trap, Whole.state_ran, Whole.state_stopped, Whole.state_denied] | split | with_reducible refine (foldl_kept _ ?_ _ _).trans ?_

@[simp] theorem State.gatherFrom_kept (s : State) (x1 : _) (x2 : _) (x3 : _) (x4 : _) : (State.gatherFrom s x1 x2 x3 x4).kept = s.kept := by
  unfold State.gatherFrom
  repeat' first | with_reducible rfl | with_reducible assumption | intro _ | simp only [State.markDown_kept, State.modSlot_kept, State.returnStaging_kept, State.sendDown_kept, kept_mk, kept_eta, Iter.state_done, Iter.state_fmt, Iter.state_trap, Whole.state_ran, Whole.state_stopped, Whole.state_denied] | split | with_reducible refine (foldl_kept _ ?_ _ _).trans ?_

@[simp] theorem State.orderedUp_kept (s : State) (x1 : _) (x2 : _) (x3 : _) (x4 : _) (x5 : _) (x6 : _) : (State.orderedUp s x1 x2 x3 x4 x5 x6).kept = s.kept := by
  unfold State.orderedUp
  repeat' first | with_reducible rfl | with_reducible assumption | intro _ | simp only [State.returnStaging_kept, State.sendFirst_kept, kept_mk, kept_eta, Iter.state_done, Iter.state_fmt, Iter.state_trap, Whole.state_ran, Whole.state_stopped, Whole.state_denied] | split | with_reducible refine (foldl_kept _ ?_ _ _).trans ?_

@[simp] theorem State.stageContrib_kept (s : State) (x1 : _) (x2 : _) (x3 : _) (x4 : _) (x5 : _) : (State.stageContrib s x1 x2 x3 x4 x5).kept = s.kept := by
  unfold State.stageContrib
  repeat' first | with_reducible rfl | with_reducible assumption | intro _ | simp only [State.after_kept, State.bump_kept, State.gatherFrom_kept, State.modSlot_kept, State.orderedUp_kept, kept_mk, kept_eta, Iter.state_done, Iter.state_fmt, Iter.state_trap, Whole.state_ran, Whole.state_stopped, Whole.state_denied] | with_reducible refine (State.takeCredit_kept (by assumption)).trans ?_ | split | with_reducible refine (foldl_kept _ ?_ _ _).trans ?_

theorem execContribReceive_kept {s t : State} {x0 : Sys2Proof.Msg} (h : execContribReceive x0 s = .next t) : t.kept = s.kept := by
  simp only [execContribReceive, Host.Outcome.next.injEq] at h
  subst h
  repeat' first | with_reducible rfl | with_reducible assumption | intro _ | simp only [State.mismatch_kept, State.stageContrib_kept, kept_mk, kept_eta, Iter.state_done, Iter.state_fmt, Iter.state_trap, Whole.state_ran, Whole.state_stopped, Whole.state_denied] | split | with_reducible refine (foldl_kept _ ?_ _ _).trans ?_ | with_reducible refine (enter_kept _ _ _ ?_).trans ?_

theorem execExpsReceive_kept {s t : State} {x0 : Sys2Proof.Msg} (h : execExpsReceive x0 s = .next t) : t.kept = s.kept := by
  simp only [execExpsReceive, Host.Outcome.next.injEq] at h
  subst h
  repeat' first | with_reducible rfl | with_reducible assumption | intro _ | simp only [State.bump_kept, State.mismatch_kept, State.modSlot_kept, State.setSlot_kept, kept_mk, kept_eta, Iter.state_done, Iter.state_fmt, Iter.state_trap, Whole.state_ran, Whole.state_stopped, Whole.state_denied] | with_reducible refine (State.takeCredit_kept (by assumption)).trans ?_ | split | with_reducible refine (foldl_kept _ ?_ _ _).trans ?_ | with_reducible refine (enter_kept _ _ _ ?_).trans ?_

@[simp] theorem State.expsRound_kept (s : State) (x1 : _) (x2 : _) (x3 : _) (x4 : _) (x5 : _) : (State.expsRound s x1 x2 x3 x4 x5).kept = s.kept := by
  unfold State.expsRound
  repeat' first | with_reducible rfl | with_reducible assumption | intro _ | simp only [State.modSlot_kept, State.sendFirst_kept, State.sendMsg_kept, State.straggle_kept, kept_mk, kept_eta, Iter.state_done, Iter.state_fmt, Iter.state_trap, Whole.state_ran, Whole.state_stopped, Whole.state_denied] | split | with_reducible refine (foldl_kept _ ?_ _ _).trans ?_ | with_reducible refine (foldlB_kept _ ?_ _ _).trans ?_ | with_reducible refine (foldl1_kept _ ?_ _ _).trans ?_ | with_reducible refine (foldl2_kept _ ?_ _ _).trans ?_

theorem execExpsSend_kept {s t : State} {x0 : BitVec 20} {x1 : Nat} (h : execExpsSend x0 x1 s = .next t) : t.kept = s.kept := by
  simp only [execExpsSend, Host.Outcome.next.injEq] at h
  subst h
  repeat' first | with_reducible rfl | with_reducible assumption | intro _ | simp only [State.expsRound_kept, kept_mk, kept_eta, Iter.state_done, Iter.state_fmt, Iter.state_trap, Whole.state_ran, Whole.state_stopped, Whole.state_denied] | split | with_reducible refine (foldl_kept _ ?_ _ _).trans ?_

theorem execMaxeReceive_kept {s t : State} {x0 : Sys2Proof.Msg} (h : execMaxeReceive x0 s = .next t) : t.kept = s.kept := by
  simp only [execMaxeReceive, Host.Outcome.next.injEq] at h
  subst h
  repeat' first | with_reducible rfl | with_reducible assumption | intro _ | simp only [State.mismatch_kept, State.modSlot_kept, State.sendMsg_kept, kept_mk, kept_eta, Iter.state_done, Iter.state_fmt, Iter.state_trap, Whole.state_ran, Whole.state_stopped, Whole.state_denied] | split | with_reducible refine (foldl_kept _ ?_ _ _).trans ?_ | with_reducible refine (enter_kept _ _ _ ?_).trans ?_ | with_reducible refine (foldlB_kept _ ?_ _ _).trans ?_ | with_reducible refine (foldl1_kept _ ?_ _ _).trans ?_ | with_reducible refine (foldl2_kept _ ?_ _ _).trans ?_

theorem execPsumReceive_kept {s t : State} {x0 : Sys2Proof.Msg} (h : execPsumReceive x0 s = .next t) : t.kept = s.kept := by
  simp only [execPsumReceive, Host.Outcome.next.injEq] at h
  subst h
  repeat' first | with_reducible rfl | with_reducible assumption | intro _ | simp only [State.bump_kept, State.mismatch_kept, State.modSlot_kept, kept_mk, kept_eta, Iter.state_done, Iter.state_fmt, Iter.state_trap, Whole.state_ran, Whole.state_stopped, Whole.state_denied] | with_reducible refine (State.takeCredit_kept (by assumption)).trans ?_ | split | with_reducible refine (foldl_kept _ ?_ _ _).trans ?_ | with_reducible refine (enter_kept _ _ _ ?_).trans ?_

theorem execPsumSend_kept {s t : State} {x0 : BitVec 20} {x1 : Nat} (h : execPsumSend x0 x1 s = .next t) : t.kept = s.kept := by
  simp only [execPsumSend, Host.Outcome.next.injEq] at h
  subst h
  repeat' first | with_reducible rfl | with_reducible assumption | intro _ | simp only [State.bump_kept, State.freeChunk_kept, State.modSlot_kept, State.sendFirst_kept, State.sendMsg_kept, kept_mk, kept_eta, Iter.state_done, Iter.state_fmt, Iter.state_trap, Whole.state_ran, Whole.state_stopped, Whole.state_denied] | split | with_reducible refine (foldl_kept _ ?_ _ _).trans ?_

@[simp] theorem State.park_kept (s : State) (x1 : _) (x2 : _) (x3 : _) (x4 : _) : (State.park s x1 x2 x3 x4).kept = s.kept := by
  unfold State.park
  repeat' first | with_reducible rfl | with_reducible assumption | intro _ | simp only [State.fetchEdges_kept, State.modSlot_kept, State.stateWrite_kept, kept_mk, kept_eta, Iter.state_done, Iter.state_fmt, Iter.state_trap, Whole.state_ran, Whole.state_stopped, Whole.state_denied] | split | with_reducible refine (foldl_kept _ ?_ _ _).trans ?_

@[simp] theorem State.rugFormed_kept (s : State) (x1 : _) (x2 : _) (x3 : _) (x4 : _) (x5 : _) : (State.rugFormed s x1 x2 x3 x4 x5).kept = s.kept := by
  unfold State.rugFormed
  repeat' first | with_reducible rfl | with_reducible assumption | intro _ | simp only [State.failInstance_kept, State.park_kept, State.sendMessage_kept, State.setSlot_kept, kept_mk, kept_eta, Iter.state_done, Iter.state_fmt, Iter.state_trap, Whole.state_ran, Whole.state_stopped, Whole.state_denied] | split | with_reducible refine (foldl_kept _ ?_ _ _).trans ?_

@[simp] theorem State.formFetch_kept (s : State) (x1 : _) (x2 : _) : (State.formFetch s x1 x2).kept = s.kept := by
  unfold State.formFetch
  repeat' first | with_reducible rfl | with_reducible assumption | intro _ | simp only [State.fetchAll_kept, State.resFetch_kept, kept_mk, kept_eta, Iter.state_done, Iter.state_fmt, Iter.state_trap, Whole.state_ran, Whole.state_stopped, Whole.state_denied] | split | with_reducible refine (foldl_kept _ ?_ _ _).trans ?_

theorem execFoldResultForm_kept {s t : State} {x0 : BitVec 20} {x1 : Nat} (h : execFoldResultForm x0 x1 s = .next t) : t.kept = s.kept := by
  simp only [execFoldResultForm, Host.Outcome.next.injEq] at h
  subst h
  repeat' first | with_reducible rfl | with_reducible assumption | intro _ | simp only [State.after_kept, State.bump_kept, State.formFetch_kept, State.freeChunk_kept, State.markDown_kept, State.modSlot_kept, State.resultEffect_kept, State.rugFormed_kept, State.sendDown_kept, State.settle_kept, State.straggle_kept, State.writeResH_kept, kept_mk, kept_eta, Iter.state_done, Iter.state_fmt, Iter.state_trap, Whole.state_ran, Whole.state_stopped, Whole.state_denied] | split | with_reducible refine (foldl_kept _ ?_ _ _).trans ?_

theorem execResultReceive_kept {s t : State} {x0 : Sys2Proof.Msg} (h : execResultReceive x0 s = .next t) : t.kept = s.kept := by
  simp only [execResultReceive, Host.Outcome.next.injEq] at h
  subst h
  repeat' first | with_reducible rfl | with_reducible assumption | intro _ | simp only [State.after_kept, State.markDown_kept, State.mismatch_kept, State.resultEffect_kept, State.sendDown_kept, kept_mk, kept_eta, Iter.state_done, Iter.state_fmt, Iter.state_trap, Whole.state_ran, Whole.state_stopped, Whole.state_denied] | split | with_reducible refine (foldl_kept _ ?_ _ _).trans ?_ | with_reducible refine (enter_kept _ _ _ ?_).trans ?_

@[simp] theorem State.endOn_kept (s : State) (x1 : _) (x2 : _) (x3 : _) (x4 : _) (x5 : _) : (State.endOn s x1 x2 x3 x4 x5).kept = s.kept := by
  unfold State.endOn
  repeat' first | with_reducible rfl | with_reducible assumption | intro _ | simp only [State.endDown_kept, kept_mk, kept_eta, Iter.state_done, Iter.state_fmt, Iter.state_trap, Whole.state_ran, Whole.state_stopped, Whole.state_denied] | split | with_reducible refine (foldl_kept _ ?_ _ _).trans ?_

@[simp] theorem State.endFail_kept (s : State) (x1 : _) (x2 : _) (x3 : _) (x4 : _) (x5 : _) : (State.endFail s x1 x2 x3 x4 x5).kept = s.kept := by
  unfold State.endFail
  repeat' first | with_reducible rfl | with_reducible assumption | intro _ | simp only [State.closeSlot_kept, State.endDown_kept, State.endOn_kept, kept_mk, kept_eta, Iter.state_done, Iter.state_fmt, Iter.state_trap, Whole.state_ran, Whole.state_stopped, Whole.state_denied] | split | with_reducible refine (foldl_kept _ ?_ _ _).trans ?_ | with_reducible refine (foldlB_kept _ ?_ _ _).trans ?_ | with_reducible refine (foldl1_kept _ ?_ _ _).trans ?_ | with_reducible refine (foldl2_kept _ ?_ _ _).trans ?_

@[simp] theorem State.endOpen_kept (s : State) (x1 : _) (x2 : _) (x3 : _) (x4 : _) : (State.endOpen s x1 x2 x3 x4).kept = s.kept := by
  unfold State.endOpen
  repeat' first | with_reducible rfl | with_reducible assumption | intro _ | simp only [State.endFail_kept, State.endOn_kept, State.maybeClose_kept, State.modSlot_kept, kept_mk, kept_eta, Iter.state_done, Iter.state_fmt, Iter.state_trap, Whole.state_ran, Whole.state_stopped, Whole.state_denied] | split | with_reducible refine (foldl_kept _ ?_ _ _).trans ?_

@[simp] theorem State.endFresh_kept (s : State) (x1 : _) (x2 : _) (x3 : _) (x4 : _) : (State.endFresh s x1 x2 x3 x4).kept = s.kept := by
  unfold State.endFresh
  repeat' first | with_reducible rfl | with_reducible assumption | intro _ | simp only [State.endFail_kept, State.modSlot_kept, State.openSlot_kept, kept_mk, kept_eta, Iter.state_done, Iter.state_fmt, Iter.state_trap, Whole.state_ran, Whole.state_stopped, Whole.state_denied] | split | with_reducible refine (foldl_kept _ ?_ _ _).trans ?_

@[simp] theorem State.endNoted_kept (s : State) (x1 : _) (x2 : _) (x3 : _) (x4 : _) : (State.endNoted s x1 x2 x3 x4).kept = s.kept := by
  unfold State.endNoted
  repeat' first | with_reducible rfl | with_reducible assumption | intro _ | simp only [State.modSlot_kept, State.noteStatus_kept, kept_mk, kept_eta, Iter.state_done, Iter.state_fmt, Iter.state_trap, Whole.state_ran, Whole.state_stopped, Whole.state_denied] | split | with_reducible refine (foldl_kept _ ?_ _ _).trans ?_

@[simp] theorem State.endMatched_kept (s : State) (x1 : _) (x2 : _) (x3 : _) (x4 : _) : (State.endMatched s x1 x2 x3 x4).kept = s.kept := by
  unfold State.endMatched
  repeat' first | with_reducible rfl | with_reducible assumption | intro _ | simp only [State.endNoted_kept, State.endOpen_kept, State.failInstance_kept, kept_mk, kept_eta, Iter.state_done, Iter.state_fmt, Iter.state_trap, Whole.state_ran, Whole.state_stopped, Whole.state_denied] | split | with_reducible refine (foldl_kept _ ?_ _ _).trans ?_

theorem execEndReceive_kept {s t : State} {x0 : Sys2Proof.Msg} (h : execEndReceive x0 s = .next t) : t.kept = s.kept := by
  simp only [execEndReceive, Host.Outcome.next.injEq] at h
  subst h
  repeat' first | with_reducible rfl | with_reducible assumption | intro _ | simp only [State.bump_kept, State.endFresh_kept, State.endMatched_kept, State.endNoted_kept, State.mismatch_kept, State.settle_kept, State.takeInbox_kept, kept_mk, kept_eta, Iter.state_done, Iter.state_fmt, Iter.state_trap, Whole.state_ran, Whole.state_stopped, Whole.state_denied] | split | with_reducible refine (foldl_kept _ ?_ _ _).trans ?_

@[simp] theorem State.sendParts_kept (s : State) (x1 : _) (x2 : _) (x3 : _) (x4 : _) (x5 : _) (x6 : _) : (State.sendParts s x1 x2 x3 x4 x5 x6).kept = s.kept := by
  unfold State.sendParts
  repeat' first | with_reducible rfl | with_reducible assumption | intro _ | simp only [State.sendMsg_kept, kept_mk, kept_eta, Iter.state_done, Iter.state_fmt, Iter.state_trap, Whole.state_ran, Whole.state_stopped, Whole.state_denied] | split | with_reducible refine (foldl_kept _ ?_ _ _).trans ?_ | with_reducible refine (foldlB_kept _ ?_ _ _).trans ?_ | with_reducible refine (foldl1_kept _ ?_ _ _).trans ?_ | with_reducible refine (foldl2_kept _ ?_ _ _).trans ?_

@[simp] theorem State.setDisp_kept (s : State) (x1 : _) (x2 : _) : (State.setDisp s x1 x2).kept = s.kept := by
  unfold State.setDisp
  repeat' first | with_reducible rfl | with_reducible assumption | intro _ | simp only [kept_mk, kept_eta, Iter.state_done, Iter.state_fmt, Iter.state_trap, Whole.state_ran, Whole.state_stopped, Whole.state_denied] | split | with_reducible refine (foldl_kept _ ?_ _ _).trans ?_

@[simp] theorem State.routerFetch_kept (s : State) (x1 : _) : (State.routerFetch s x1).kept = s.kept := by
  unfold State.routerFetch
  repeat' first | with_reducible rfl | with_reducible assumption | intro _ | simp only [State.fetchPlace_kept, kept_mk, kept_eta, Iter.state_done, Iter.state_fmt, Iter.state_trap, Whole.state_ran, Whole.state_stopped, Whole.state_denied] | split | with_reducible refine (foldl_kept _ ?_ _ _).trans ?_ | with_reducible refine (foldlB_kept _ ?_ _ _).trans ?_ | with_reducible refine (foldl1_kept _ ?_ _ _).trans ?_ | with_reducible refine (foldl2_kept _ ?_ _ _).trans ?_

@[simp] theorem State.dispCounts_kept (s : State) (x1 : _) (x2 : _) (x3 : _) (x4 : _) : (State.dispCounts s x1 x2 x3 x4).kept = s.kept := by
  unfold State.dispCounts
  repeat' first | with_reducible rfl | with_reducible assumption | intro _ | simp only [State.bump_kept, State.failInstance_kept, State.routerFetch_kept, State.sendParts_kept, State.setDisp_kept, kept_mk, kept_eta, Iter.state_done, Iter.state_fmt, Iter.state_trap, Whole.state_ran, Whole.state_stopped, Whole.state_denied] | split | with_reducible refine (foldl_kept _ ?_ _ _).trans ?_ | with_reducible refine (foldlB_kept _ ?_ _ _).trans ?_ | with_reducible refine (foldl1_kept _ ?_ _ _).trans ?_ | with_reducible refine (foldl2_kept _ ?_ _ _).trans ?_

@[simp] theorem State.dispLoads_kept (s : State) (x1 : _) (x2 : _) (x3 : _) : (State.dispLoads s x1 x2 x3).2.kept = s.kept := by
  unfold State.dispLoads
  repeat' first | with_reducible rfl | with_reducible assumption | intro _ | simp only [State.bump_kept, kept_mk, kept_eta, Iter.state_done, Iter.state_fmt, Iter.state_trap, Whole.state_ran, Whole.state_stopped, Whole.state_denied] | split | with_reducible refine (foldl_kept _ ?_ _ _).trans ?_ | with_reducible refine (foldlB_kept _ ?_ _ _).trans ?_ | with_reducible refine (foldl1_kept _ ?_ _ _).trans ?_ | with_reducible refine (foldl2_kept _ ?_ _ _).trans ?_

@[simp] theorem State.dispGrants_kept (s : State) (x1 : _) (x2 : _) (x3 : _) (x4 : _) : (State.dispGrants s x1 x2 x3 x4).kept = s.kept := by
  unfold State.dispGrants
  repeat' first | with_reducible rfl | with_reducible assumption | intro _ | simp only [State.dispLoads_kept, State.sendParts_kept, State.setDisp_kept, kept_mk, kept_eta, Iter.state_done, Iter.state_fmt, Iter.state_trap, Whole.state_ran, Whole.state_stopped, Whole.state_denied] | split | with_reducible refine (foldl_kept _ ?_ _ _).trans ?_ | with_reducible refine (foldlB_kept _ ?_ _ _).trans ?_ | with_reducible refine (foldl1_kept _ ?_ _ _).trans ?_ | with_reducible refine (foldl2_kept _ ?_ _ _).trans ?_

@[simp] theorem State.dispRowsTo_kept (s : State) (x1 : _) (x2 : _) (x3 : _) (x4 : _) (x5 : _) (x6 : _) : (State.dispRowsTo s x1 x2 x3 x4 x5 x6).kept = s.kept := by
  unfold State.dispRowsTo
  repeat' first | with_reducible rfl | with_reducible assumption | intro _ | simp only [State.sendParts_kept, State.setDisp_kept, kept_mk, kept_eta, Iter.state_done, Iter.state_fmt, Iter.state_trap, Whole.state_ran, Whole.state_stopped, Whole.state_denied] | split | with_reducible refine (foldl_kept _ ?_ _ _).trans ?_

@[simp] theorem State.dispRows_kept (s : State) (x1 : _) (x2 : _) (x3 : _) (x4 : _) : (State.dispRows s x1 x2 x3 x4).kept = s.kept := by
  unfold State.dispRows
  repeat' first | with_reducible rfl | with_reducible assumption | intro _ | simp only [State.bump_kept, State.dispRowsTo_kept, State.setDisp_kept, kept_mk, kept_eta, Iter.state_done, Iter.state_fmt, Iter.state_trap, Whole.state_ran, Whole.state_stopped, Whole.state_denied] | split | with_reducible refine (foldl_kept _ ?_ _ _).trans ?_ | with_reducible refine (foldlB_kept _ ?_ _ _).trans ?_ | with_reducible refine (foldl1_kept _ ?_ _ _).trans ?_ | with_reducible refine (foldl2_kept _ ?_ _ _).trans ?_

@[simp] theorem State.dispDeliver_kept (s : State) (x1 : _) (x2 : _) (x3 : _) (x4 : _) (x5 : _) (x6 : _) (x7 : _) : (State.dispDeliver s x1 x2 x3 x4 x5 x6 x7).kept = s.kept := by
  unfold State.dispDeliver
  repeat' first | with_reducible rfl | with_reducible assumption | intro _ | simp only [State.sendParts_kept, State.setDisp_kept, kept_mk, kept_eta, Iter.state_done, Iter.state_fmt, Iter.state_trap, Whole.state_ran, Whole.state_stopped, Whole.state_denied] | split | with_reducible refine (foldl_kept _ ?_ _ _).trans ?_

@[simp] theorem State.bwdRows_kept (s : State) (x1 : _) (x2 : _) (x3 : _) (x4 : _) : (State.bwdRows s x1 x2 x3 x4).kept = s.kept := by
  unfold State.bwdRows
  repeat' first | with_reducible rfl | with_reducible assumption | intro _ | simp only [State.bump_kept, State.dispRowsTo_kept, State.setDisp_kept, kept_mk, kept_eta, Iter.state_done, Iter.state_fmt, Iter.state_trap, Whole.state_ran, Whole.state_stopped, Whole.state_denied] | split | with_reducible refine (foldl_kept _ ?_ _ _).trans ?_ | with_reducible refine (foldlB_kept _ ?_ _ _).trans ?_ | with_reducible refine (foldl1_kept _ ?_ _ _).trans ?_ | with_reducible refine (foldl2_kept _ ?_ _ _).trans ?_

@[simp] theorem State.returnRows_kept (s : State) (x1 : _) (x2 : _) (x3 : _) (x4 : _) : (State.returnRows s x1 x2 x3 x4).kept = s.kept := by
  unfold State.returnRows
  repeat' first | with_reducible rfl | with_reducible assumption | intro _ | simp only [State.sendParts_kept, State.setDisp_kept, kept_mk, kept_eta, Iter.state_done, Iter.state_fmt, Iter.state_trap, Whole.state_ran, Whole.state_stopped, Whole.state_denied] | split | with_reducible refine (foldl_kept _ ?_ _ _).trans ?_ | with_reducible refine (foldlB_kept _ ?_ _ _).trans ?_ | with_reducible refine (foldl1_kept _ ?_ _ _).trans ?_ | with_reducible refine (foldl2_kept _ ?_ _ _).trans ?_

@[simp] theorem State.combine_kept (s : State) (x1 : _) (x2 : _) (x3 : _) (x4 : _) : (State.combine s x1 x2 x3 x4).kept = s.kept := by
  unfold State.combine
  repeat' first | with_reducible rfl | with_reducible assumption | intro _ | simp only [State.bump_kept, State.sendParts_kept, State.setDisp_kept, kept_mk, kept_eta, Iter.state_done, Iter.state_fmt, Iter.state_trap, Whole.state_ran, Whole.state_stopped, Whole.state_denied] | split | with_reducible refine (foldl_kept _ ?_ _ _).trans ?_

@[simp] theorem State.dispHostLost_kept (s : State) (x1 : _) (x2 : _) (x3 : _) (x4 : _) : (State.dispHostLost s x1 x2 x3 x4).kept = s.kept := by
  unfold State.dispHostLost
  repeat' first | with_reducible rfl | with_reducible assumption | intro _ | simp only [State.bump_kept, State.setDisp_kept, kept_mk, kept_eta, Iter.state_done, Iter.state_fmt, Iter.state_trap, Whole.state_ran, Whole.state_stopped, Whole.state_denied] | split | with_reducible refine (foldl_kept _ ?_ _ _).trans ?_

@[simp] theorem State.dispAdvance_kept (s : State) (x1 : _) (x2 : _) (x3 : _) : (State.dispAdvance s x1 x2 x3).kept = s.kept := by
  unfold State.dispAdvance
  repeat' first | with_reducible rfl | with_reducible assumption | intro _ | simp only [State.bwdRows_kept, State.combine_kept, State.dispCounts_kept, State.dispDeliver_kept, State.dispGrants_kept, State.dispHostLost_kept, State.dispRows_kept, State.returnRows_kept, kept_mk, kept_eta, Iter.state_done, Iter.state_fmt, Iter.state_trap, Whole.state_ran, Whole.state_stopped, Whole.state_denied] | split | with_reducible refine (foldl_kept _ ?_ _ _).trans ?_ | with_reducible refine (foldlB_kept _ ?_ _ _).trans ?_ | with_reducible refine (foldl1_kept _ ?_ _ _).trans ?_ | with_reducible refine (foldl2_kept _ ?_ _ _).trans ?_

@[simp] theorem State.setSparse_kept (s : State) (x1 : _) (x2 : _) : (State.setSparse s x1 x2).kept = s.kept := by
  unfold State.setSparse
  repeat' first | with_reducible rfl | with_reducible assumption | intro _ | simp only [kept_mk, kept_eta, Iter.state_done, Iter.state_fmt, Iter.state_trap, Whole.state_ran, Whole.state_stopped, Whole.state_denied] | split | with_reducible refine (foldl_kept _ ?_ _ _).trans ?_

@[simp] theorem State.pass1_kept (s : State) (x1 : _) (x2 : _) (x3 : _) (x4 : _) (x5 : _) : (State.pass1 s x1 x2 x3 x4 x5).kept = s.kept := by
  unfold State.pass1
  repeat' first | with_reducible rfl | with_reducible assumption | intro _ | simp only [State.bump_kept, State.failInstance_kept, State.setSparse_kept, kept_mk, kept_eta, Iter.state_done, Iter.state_fmt, Iter.state_trap, Whole.state_ran, Whole.state_stopped, Whole.state_denied] | split | with_reducible refine (foldl_kept _ ?_ _ _).trans ?_

@[simp] theorem State.pass1All_kept (s : State) (x1 : _) (x2 : _) (x3 : _) (x4 : _) : (State.pass1All s x1 x2 x3 x4).kept = s.kept := by
  unfold State.pass1All
  repeat' first | with_reducible rfl | with_reducible assumption | intro _ | simp only [State.pass1_kept, kept_mk, kept_eta, Iter.state_done, Iter.state_fmt, Iter.state_trap, Whole.state_ran, Whole.state_stopped, Whole.state_denied] | split | with_reducible refine (foldl_kept _ ?_ _ _).trans ?_ | with_reducible refine (foldlB_kept _ ?_ _ _).trans ?_ | with_reducible refine (foldl1_kept _ ?_ _ _).trans ?_ | with_reducible refine (foldl2_kept _ ?_ _ _).trans ?_

@[simp] theorem State.pass2_kept (s : State) (x1 : _) (x2 : _) (x3 : _) (x4 : _) : (State.pass2 s x1 x2 x3 x4).kept = s.kept := by
  unfold State.pass2
  repeat' first | with_reducible rfl | with_reducible assumption | intro _ | simp only [State.bump_kept, State.putWalk_kept, State.sendParts_kept, State.setSparse_kept, kept_mk, kept_eta, Iter.state_done, Iter.state_fmt, Iter.state_trap, Whole.state_ran, Whole.state_stopped, Whole.state_denied] | split | with_reducible refine (foldl_kept _ ?_ _ _).trans ?_ | with_reducible refine (foldlB_kept _ ?_ _ _).trans ?_ | with_reducible refine (foldl1_kept _ ?_ _ _).trans ?_ | with_reducible refine (foldl2_kept _ ?_ _ _).trans ?_

theorem execSpaccPass2_kept {s t : State} {x0 : BitVec 20} (h : execSpaccPass2 x0 s = .next t) : t.kept = s.kept := by
  simp only [execSpaccPass2, Host.Outcome.next.injEq] at h
  subst h
  repeat' first | with_reducible rfl | with_reducible assumption | intro _ | simp only [State.closeSlot_kept, State.fetchObject_kept, State.pass1All_kept, State.pass2_kept, State.settle_kept, kept_mk, kept_eta, Iter.state_done, Iter.state_fmt, Iter.state_trap, Whole.state_ran, Whole.state_stopped, Whole.state_denied] | split | with_reducible refine (foldl_kept _ ?_ _ _).trans ?_

@[simp] theorem State.exchAdvance_kept (s : State) (x1 : _) : (State.exchAdvance s x1).kept = s.kept := by
  unfold State.exchAdvance
  repeat' first | with_reducible rfl | with_reducible assumption | intro _ | simp only [State.closeSlot_kept, State.dispAdvance_kept, kept_mk, kept_eta, Iter.state_done, Iter.state_fmt, Iter.state_trap, Whole.state_ran, Whole.state_stopped, Whole.state_denied] | split | with_reducible refine (foldl_kept _ ?_ _ _).trans ?_

@[simp] theorem State.progress_kept (s : State) (x1 : _) : (State.progress s x1).kept = s.kept := by
  unfold State.progress
  repeat' first | with_reducible rfl | with_reducible assumption | intro _ | simp only [State.advance_kept, State.exchAdvance_kept, State.settle_kept, kept_mk, kept_eta, Iter.state_done, Iter.state_fmt, Iter.state_trap, Whole.state_ran, Whole.state_stopped, Whole.state_denied] | split | with_reducible refine (foldl_kept _ ?_ _ _).trans ?_

@[simp] theorem State.storeReceive_kept (s : State) (x1 : _) (x2 : _) (x3 : _) (x4 : _) : (State.storeReceive s x1 x2 x3 x4).kept = s.kept := by
  unfold State.storeReceive
  repeat' first | with_reducible rfl | with_reducible assumption | intro _ | simp only [State.bump_kept, State.mismatch_kept, State.modSlot_kept, State.returnStaging_kept, State.storeChunk_kept, kept_mk, kept_eta, Iter.state_done, Iter.state_fmt, Iter.state_trap, Whole.state_ran, Whole.state_stopped, Whole.state_denied] | with_reducible refine (State.takeCredit_kept (by assumption)).trans ?_ | split | with_reducible refine (foldl_kept _ ?_ _ _).trans ?_

@[simp] theorem State.feedReceive_kept (s : State) (x1 : _) (x2 : _) (x3 : _) (x4 : _) : (State.feedReceive s x1 x2 x3 x4).kept = s.kept := by
  unfold State.feedReceive
  repeat' first | with_reducible rfl | with_reducible assumption | intro _ | simp only [State.mismatch_kept, State.progress_kept, State.setDisp_kept, kept_mk, kept_eta, Iter.state_done, Iter.state_fmt, Iter.state_trap, Whole.state_ran, Whole.state_stopped, Whole.state_denied] | split | with_reducible refine (foldl_kept _ ?_ _ _).trans ?_

@[simp] theorem State.sieveReceive_kept (s : State) (x1 : _) (x2 : _) (x3 : _) (x4 : _) (x5 : _) (x6 : _) : (State.sieveReceive s x1 x2 x3 x4 x5 x6).kept = s.kept := by
  unfold State.sieveReceive
  repeat' first | with_reducible rfl | with_reducible assumption | intro _ | simp only [State.mismatch_kept, State.progress_kept, State.setDisp_kept, kept_mk, kept_eta, Iter.state_done, Iter.state_fmt, Iter.state_trap, Whole.state_ran, Whole.state_stopped, Whole.state_denied] | split | with_reducible refine (foldl_kept _ ?_ _ _).trans ?_

@[simp] theorem State.rlzReceive_kept (s : State) (x1 : _) (x2 : _) (x3 : _) (x4 : _) (x5 : _) (x6 : _) : (State.rlzReceive s x1 x2 x3 x4 x5 x6).kept = s.kept := by
  unfold State.rlzReceive
  repeat' first | with_reducible rfl | with_reducible assumption | intro _ | simp only [State.mismatch_kept, State.pass1All_kept, State.setSparse_kept, State.settle_kept, kept_mk, kept_eta, Iter.state_done, Iter.state_fmt, Iter.state_trap, Whole.state_ran, Whole.state_stopped, Whole.state_denied] | split | with_reducible refine (foldl_kept _ ?_ _ _).trans ?_

@[simp] theorem State.plainReceive_kept (s : State) (x1 : _) (x2 : _) (x3 : _) (x4 : _) : (State.plainReceive s x1 x2 x3 x4).kept = s.kept := by
  unfold State.plainReceive
  repeat' first | with_reducible rfl | with_reducible assumption | intro _ | simp only [State.mismatch_kept, State.modSlot_kept, State.progress_kept, State.relayMessage_kept, kept_mk, kept_eta, Iter.state_done, Iter.state_fmt, Iter.state_trap, Whole.state_ran, Whole.state_stopped, Whole.state_denied] | split | with_reducible refine (foldl_kept _ ?_ _ _).trans ?_

@[simp] theorem State.exchPassing_kept (s : State) (x1 : _) : (State.exchPassing s x1).1.kept = s.kept := by
  unfold State.exchPassing
  repeat' first | with_reducible rfl | with_reducible assumption | intro _ | simp only [State.bump_kept, State.failInstance_kept, State.mismatch_kept, State.modSlot_kept, State.progress_kept, kept_mk, kept_eta, Iter.state_done, Iter.state_fmt, Iter.state_trap, Whole.state_ran, Whole.state_stopped, Whole.state_denied] | split | with_reducible refine (foldl_kept _ ?_ _ _).trans ?_

theorem execExchReceive_kept {s t : State} {x0 : Sys2Proof.Msg} {x1 : Nat} {x2 : Nat} (h : execExchReceive x0 x1 x2 s = .next t) : t.kept = s.kept := by
  simp only [execExchReceive, Host.Outcome.next.injEq] at h
  subst h
  repeat' first | with_reducible rfl | with_reducible assumption | intro _ | simp only [State.feedReceive_kept, State.mismatch_kept, State.plainReceive_kept, State.rlzReceive_kept, State.settle_kept, State.sieveReceive_kept, State.storeReceive_kept, kept_mk, kept_eta, Iter.state_done, Iter.state_fmt, Iter.state_trap, Whole.state_ran, Whole.state_stopped, Whole.state_denied] | split | with_reducible refine (foldl_kept _ ?_ _ _).trans ?_ | with_reducible refine (enter_kept _ _ _ ?_).trans ?_

theorem execGatherReceive_kept {s t : State} {x0 : Sys2Proof.Msg} (h : execGatherReceive x0 s = .next t) : t.kept = s.kept := by
  simp only [execGatherReceive, Host.Outcome.next.injEq] at h
  subst h
  repeat' first | with_reducible rfl | with_reducible assumption | intro _ | simp only [State.after_kept, State.markDown_kept, State.mismatch_kept, State.modSlot_kept, State.sendDown_kept, State.seqDown_kept, kept_mk, kept_eta, Iter.state_done, Iter.state_fmt, Iter.state_trap, Whole.state_ran, Whole.state_stopped, Whole.state_denied] | split | with_reducible refine (foldl_kept _ ?_ _ _).trans ?_ | with_reducible refine (enter_kept _ _ _ ?_).trans ?_

@[simp] theorem State.launchReply_kept (s : State) (x1 : _) (x2 : _) (x3 : _) (x4 : _) (x5 : _) (x6 : _) : (State.launchReply s x1 x2 x3 x4 x5 x6).kept = s.kept := by
  unfold State.launchReply
  repeat' first | with_reducible rfl | with_reducible assumption | intro _ | simp only [State.sendCtrl_kept, kept_mk, kept_eta, Iter.state_done, Iter.state_fmt, Iter.state_trap, Whole.state_ran, Whole.state_stopped, Whole.state_denied] | split | with_reducible refine (foldl_kept _ ?_ _ _).trans ?_

@[simp] theorem State.scalarToQueues_kept (s : State) (x1 : _) (x2 : _) : (State.scalarToQueues s x1 x2).kept = s.kept := by
  unfold State.scalarToQueues
  repeat' first | with_reducible rfl | with_reducible assumption | intro _ | simp only [kept_mk, kept_eta, Iter.state_done, Iter.state_fmt, Iter.state_trap, Whole.state_ran, Whole.state_stopped, Whole.state_denied] | split | with_reducible refine (foldl_kept _ ?_ _ _).trans ?_

@[simp] theorem State.join_kept (s : State) (x1 : _) (x2 : _) (x3 : _) (x4 : _) : (State.join s x1 x2 x3 x4).kept = s.kept := by
  unfold State.join
  repeat' first | with_reducible rfl | with_reducible assumption | intro _ | simp only [State.scalarToQueues_kept, State.setDisp_kept, State.setSlot_kept, kept_mk, kept_eta, Iter.state_done, Iter.state_fmt, Iter.state_trap, Whole.state_ran, Whole.state_stopped, Whole.state_denied] | split | with_reducible refine (foldl_kept _ ?_ _ _).trans ?_

theorem execLaunch_kept {s t : State} {x0 : Sys2Proof.FA} {x1 : BitVec 20} {x2 : Nat} {x3 : Sys2Proof.Word} {x4 : BitVec 32} (h : execLaunch x0 x1 x2 x3 x4 s = .next t) : t.kept = s.kept := by
  simp only [execLaunch, Host.Outcome.next.injEq] at h
  subst h
  repeat' first | with_reducible rfl | with_reducible assumption | intro _ | simp only [State.absentDown_kept, State.join_kept, State.launchReply_kept, State.modSlot_kept, State.openInstance_kept, State.progress_kept, kept_mk, kept_eta, Iter.state_done, Iter.state_fmt, Iter.state_trap, Whole.state_ran, Whole.state_stopped, Whole.state_denied] | split | with_reducible refine (foldl_kept _ ?_ _ _).trans ?_

theorem execMirrorReceive_kept {s t : State} {x0 : Sys2Proof.MirrorMsg} (h : execMirrorReceive x0 s = .next t) : t.kept = s.kept := by
  simp only [execMirrorReceive, Host.Outcome.next.injEq] at h
  subst h
  repeat' first | with_reducible rfl | with_reducible assumption | intro _ | simp only [State.bump_kept, State.mirrorAccept_kept, State.park_kept, State.settle_kept, State.takeInbox_kept, kept_mk, kept_eta, Iter.state_done, Iter.state_fmt, Iter.state_trap, Whole.state_ran, Whole.state_stopped, Whole.state_denied] | split | with_reducible refine (foldl_kept _ ?_ _ _).trans ?_

@[simp] theorem State.rugDone_kept (s : State) (x1 : _) (x2 : _) (x3 : _) (x4 : _) (x5 : _) : (State.rugDone s x1 x2 x3 x4 x5).kept = s.kept := by
  unfold State.rugDone
  repeat' first | with_reducible rfl | with_reducible assumption | intro _ | simp only [State.gatherBytes_kept, State.markDown_kept, State.modSlot_kept, State.sendDown_kept, kept_mk, kept_eta, Iter.state_done, Iter.state_fmt, Iter.state_trap, Whole.state_ran, Whole.state_stopped, Whole.state_denied] | split | with_reducible refine (foldl_kept _ ?_ _ _).trans ?_

@[simp] theorem State.overlap_kept (s : State) (x1 : _) (x2 : _) : (State.overlap s x1 x2).kept = s.kept := by
  unfold State.overlap
  repeat' first | with_reducible rfl | with_reducible assumption | intro _ | simp only [State.failInstance_kept, State.raise_kept, kept_mk, kept_eta, Iter.state_done, Iter.state_fmt, Iter.state_trap, Whole.state_ran, Whole.state_stopped, Whole.state_denied] | split | with_reducible refine (foldl_kept _ ?_ _ _).trans ?_

@[simp] theorem State.rugWhole_kept (s : State) (x1 : _) (x2 : _) (x3 : _) (x4 : _) (x5 : _) : (State.rugWhole s x1 x2 x3 x4 x5).kept = s.kept := by
  unfold State.rugWhole
  repeat' first | with_reducible rfl | with_reducible assumption | intro _ | simp only [State.after_kept, State.applyWhole_kept, State.overlap_kept, State.rugDone_kept, kept_mk, kept_eta, Iter.state_done, Iter.state_fmt, Iter.state_trap, Whole.state_ran, Whole.state_stopped, Whole.state_denied] | split | with_reducible refine (foldl_kept _ ?_ _ _).trans ?_ | with_reducible refine (foldlB_kept _ ?_ _ _).trans ?_ | with_reducible refine (foldl1_kept _ ?_ _ _).trans ?_ | with_reducible refine (foldl2_kept _ ?_ _ _).trans ?_

@[simp] theorem State.fetchShard_kept (s : State) (x1 : _) (x2 : _) (x3 : _) (x4 : _) : (State.fetchShard s x1 x2 x3 x4).kept = s.kept := by
  unfold State.fetchShard
  repeat' first | with_reducible rfl | with_reducible assumption | intro _ | simp only [State.fetchAll_kept, kept_mk, kept_eta, Iter.state_done, Iter.state_fmt, Iter.state_trap, Whole.state_ran, Whole.state_stopped, Whole.state_denied] | split | with_reducible refine (foldl_kept _ ?_ _ _).trans ?_

@[simp] theorem State.rugApply_kept (s : State) (x1 : _) (x2 : _) (x3 : _) (x4 : _) (x5 : _) (x6 : _) (x7 : _) (x8 : _) : (State.rugApply s x1 x2 x3 x4 x5 x6 x7 x8).kept = s.kept := by
  unfold State.rugApply
  repeat' first | with_reducible rfl | with_reducible assumption | intro _ | simp only [State.after_kept, State.applyElems_kept, State.overlap_kept, State.rugDone_kept, State.rugWhole_kept, kept_mk, kept_eta, Iter.state_done, Iter.state_fmt, Iter.state_trap, Whole.state_ran, Whole.state_stopped, Whole.state_denied] | split | with_reducible refine (foldl_kept _ ?_ _ _).trans ?_

@[simp] theorem State.meetUpsets_kept (s : State) (x1 : _) : (State.meetUpsets s x1).kept = s.kept := by
  unfold State.meetUpsets
  repeat' first | with_reducible rfl | with_reducible assumption | intro _ | simp only [State.upset_kept, kept_mk, kept_eta, Iter.state_done, Iter.state_fmt, Iter.state_trap, Whole.state_ran, Whole.state_stopped, Whole.state_denied] | split | with_reducible refine (foldl_kept _ ?_ _ _).trans ?_ | with_reducible refine (foldlB_kept _ ?_ _ _).trans ?_ | with_reducible refine (foldl1_kept _ ?_ _ _).trans ?_ | with_reducible refine (foldl2_kept _ ?_ _ _).trans ?_

theorem execRugUpdate_kept {s t : State} {x0 : BitVec 20} {x1 : Nat} {x2 : List Sys2Proof.Upset} (h : execRugUpdate x0 x1 x2 s = .next t) : t.kept = s.kept := by
  simp only [execRugUpdate, Host.Outcome.next.injEq] at h
  subst h
  repeat' first | with_reducible rfl | with_reducible assumption | intro _ | simp only [State.fetchShard_kept, State.meetUpsets_kept, State.rugApply_kept, State.settle_kept, kept_mk, kept_eta, Iter.state_done, Iter.state_fmt, Iter.state_trap, Whole.state_ran, Whole.state_stopped, Whole.state_denied] | split | with_reducible refine (foldl_kept _ ?_ _ _).trans ?_

@[simp] theorem State.openNorm_kept (s : State) (x1 : _) (x2 : _) (x3 : _) : (State.openNorm s x1 x2 x3).kept = s.kept := by
  unfold State.openNorm
  repeat' first | with_reducible rfl | with_reducible assumption | intro _ | simp only [State.openInstance_kept, kept_mk, kept_eta, Iter.state_done, Iter.state_fmt, Iter.state_trap, Whole.state_ran, Whole.state_stopped, Whole.state_denied] | split | with_reducible refine (foldl_kept _ ?_ _ _).trans ?_

theorem execNormPassStart_kept {s t : State} {x0 : Nat} {x1 : Nat} (h : execNormPassStart x0 x1 s = .next t) : t.kept = s.kept := by
  simp only [execNormPassStart, Host.Outcome.next.injEq] at h
  subst h
  repeat' first | with_reducible rfl | with_reducible assumption | intro _ | simp only [State.modNorm_kept, State.openNorm_kept, State.park_kept, State.settle_kept, kept_mk, kept_eta, Iter.state_done, Iter.state_fmt, Iter.state_trap, Whole.state_ran, Whole.state_stopped, Whole.state_denied] | split | with_reducible refine (foldl_kept _ ?_ _ _).trans ?_ | with_reducible refine (foldlB_kept _ ?_ _ _).trans ?_ | with_reducible refine (foldl1_kept _ ?_ _ _).trans ?_ | with_reducible refine (foldl2_kept _ ?_ _ _).trans ?_

theorem execNormResult_kept {s t : State} {x0 : BitVec 20} {x1 : BitVec 32} {x2 : Nat} (h : execNormResult x0 x1 x2 s = .next t) : t.kept = s.kept := by
  simp only [execNormResult, Host.Outcome.next.injEq] at h
  subst h
  repeat' first | with_reducible rfl | with_reducible assumption | intro _ | simp only [State.normKnown_kept, State.takeCtrl_kept, kept_mk, kept_eta, Iter.state_done, Iter.state_fmt, Iter.state_trap, Whole.state_ran, Whole.state_stopped, Whole.state_denied] | split | with_reducible refine (foldl_kept _ ?_ _ _).trans ?_

theorem execCarry_kept {s t : State} (h : execCarry s = .next t) : t.kept = s.kept := by
  simp only [execCarry, Host.Outcome.next.injEq] at h
  subst h
  repeat' first | with_reducible rfl | with_reducible assumption | intro _ | simp only [State.carryAll_kept, State.fetchAll_kept, kept_mk, kept_eta, Iter.state_done, Iter.state_fmt, Iter.state_trap, Whole.state_ran, Whole.state_stopped, Whole.state_denied] | split | with_reducible refine (foldl_kept _ ?_ _ _).trans ?_

theorem execDigestSend_kept {s t : State} {x0 : Nat} (h : execDigestSend x0 s = .next t) : t.kept = s.kept := by
  simp only [execDigestSend, Host.Outcome.next.injEq] at h
  subst h
  repeat' first | with_reducible rfl | with_reducible assumption | intro _ | simp only [State.exchange_kept, State.sendCtrl_kept, kept_mk, kept_eta, Iter.state_done, Iter.state_fmt, Iter.state_trap, Whole.state_ran, Whole.state_stopped, Whole.state_denied] | split | with_reducible refine (foldl_kept _ ?_ _ _).trans ?_

@[simp] theorem State.keptNotice_kept (s : State) : (State.keptNotice s).kept = s.kept := by
  unfold State.keptNotice
  repeat' first | with_reducible rfl | with_reducible assumption | intro _ | simp only [State.commit_kept, kept_mk, kept_eta, Iter.state_done, Iter.state_fmt, Iter.state_trap, Whole.state_ran, Whole.state_stopped, Whole.state_denied] | split | with_reducible refine (foldl_kept _ ?_ _ _).trans ?_

@[simp] theorem State.resilverFails_kept (s : State) : (State.resilverFails s).kept = s.kept := by
  unfold State.resilverFails
  repeat' first | with_reducible rfl | with_reducible assumption | intro _ | simp only [State.raise_kept, kept_mk, kept_eta, Iter.state_done, Iter.state_fmt, Iter.state_trap, Whole.state_ran, Whole.state_stopped, Whole.state_denied] | split | with_reducible refine (foldl_kept _ ?_ _ _).trans ?_

@[simp] theorem State.resilverNotice_kept (s : State) (x1 : _) (x2 : _) (x3 : _) : (State.resilverNotice s x1 x2 x3).kept = s.kept := by
  unfold State.resilverNotice
  repeat' first | with_reducible rfl | with_reducible assumption | intro _ | simp only [State.raise_kept, State.resilverFails_kept, State.sendCtrl_kept, kept_mk, kept_eta, Iter.state_done, Iter.state_fmt, Iter.state_trap, Whole.state_ran, Whole.state_stopped, Whole.state_denied] | split | with_reducible refine (foldl_kept _ ?_ _ _).trans ?_

theorem execCommitNotice_kept {s t : State} {x0 : Nat} {x1 : List Sys2Proof.Byte} (h : execCommitNotice x0 x1 s = .next t) : t.kept = s.kept := by
  simp only [execCommitNotice, Host.Outcome.next.injEq] at h
  subst h
  repeat' first | with_reducible rfl | with_reducible assumption | intro _ | simp only [State.commit_kept, State.resilverNotice_kept, State.takeCtrl_kept, kept_mk, kept_eta, Iter.state_done, Iter.state_fmt, Iter.state_trap, Whole.state_ran, Whole.state_stopped, Whole.state_denied] | split | with_reducible refine (foldl_kept _ ?_ _ _).trans ?_

theorem execCommitOnReady_kept {s t : State} (h : execCommitOnReady s = .next t) : t.kept = s.kept := by
  simp only [execCommitOnReady, Host.Outcome.next.injEq] at h
  subst h
  repeat' first | with_reducible rfl | with_reducible assumption | intro _ | simp only [State.keptNotice_kept, kept_mk, kept_eta, Iter.state_done, Iter.state_fmt, Iter.state_trap, Whole.state_ran, Whole.state_stopped, Whole.state_denied] | split | with_reducible refine (foldl_kept _ ?_ _ _).trans ?_

@[simp] theorem Body.land_kept (b : Body) (x1 : _) : (Body.land b x1).s.kept = b.s.kept := by
  unfold Body.land
  repeat' first | with_reducible rfl | with_reducible assumption | intro _ | simp only [kept_mk, kept_eta, Iter.state_done, Iter.state_fmt, Iter.state_trap, Whole.state_ran, Whole.state_stopped, Whole.state_denied] | split | with_reducible refine (foldl_kept _ ?_ _ _).trans ?_ | with_reducible refine (foldlB_kept _ ?_ _ _).trans ?_ | with_reducible refine (foldl1_kept _ ?_ _ _).trans ?_ | with_reducible refine (foldl2_kept _ ?_ _ _).trans ?_

@[simp] theorem Body.sources_kept (b : Body) (x1 : _) (x2 : _) (x3 : _) (x4 : _) : (Body.sources b x1 x2 x3 x4).s.kept = b.s.kept := by
  unfold Body.sources
  repeat' first | with_reducible rfl | with_reducible assumption | intro _ | simp only [kept_mk, kept_eta, Iter.state_done, Iter.state_fmt, Iter.state_trap, Whole.state_ran, Whole.state_stopped, Whole.state_denied] | split | with_reducible refine (foldl_kept _ ?_ _ _).trans ?_

@[simp] theorem Body.load_kept (b : Body) (x1 : _) (x2 : _) : (Body.load b x1 x2).1.s.kept = b.s.kept := by
  unfold Body.load
  repeat' first | with_reducible rfl | with_reducible assumption | intro _ | simp only [kept_mk, kept_eta, Iter.state_done, Iter.state_fmt, Iter.state_trap, Whole.state_ran, Whole.state_stopped, Whole.state_denied] | split | with_reducible refine (foldl_kept _ ?_ _ _).trans ?_

@[simp] theorem Body.stored_kept (b : Body) (x1 : _) (x2 : _) (x3 : _) : (Body.stored b x1 x2 x3).s.kept = b.s.kept := by
  unfold Body.stored
  repeat' first | with_reducible rfl | with_reducible assumption | intro _ | simp only [State.putCode_kept, kept_mk, kept_eta, Iter.state_done, Iter.state_fmt, Iter.state_trap, Whole.state_ran, Whole.state_stopped, Whole.state_denied] | split | with_reducible refine (foldl_kept _ ?_ _ _).trans ?_ | with_reducible refine (foldlB_kept _ ?_ _ _).trans ?_ | with_reducible refine (foldl1_kept _ ?_ _ _).trans ?_ | with_reducible refine (foldl2_kept _ ?_ _ _).trans ?_

@[simp] theorem Body.slotA_kept (b : Body) (x1 : _) (x2 : _) (x3 : _) (x4 : _) : (Body.slotA b x1 x2 x3 x4).1.s.kept = b.s.kept := by
  unfold Body.slotA
  repeat' first | with_reducible rfl | with_reducible assumption | intro _ | simp only [Body.sources_kept, kept_mk, kept_eta, Iter.state_done, Iter.state_fmt, Iter.state_trap, Whole.state_ran, Whole.state_stopped, Whole.state_denied] | split | with_reducible refine (foldl_kept _ ?_ _ _).trans ?_

@[simp] theorem Body.slotM_kept (b : Body) (x1 : _) (x2 : _) (x3 : _) (x4 : _) : (Body.slotM b x1 x2 x3 x4).1.s.kept = b.s.kept := by
  unfold Body.slotM
  repeat' first | with_reducible rfl | with_reducible assumption | intro _ | simp only [Body.load_kept, Body.sources_kept, Body.stored_kept, kept_mk, kept_eta, Iter.state_done, Iter.state_fmt, Iter.state_trap, Whole.state_ran, Whole.state_stopped, Whole.state_denied] | split | with_reducible refine (foldl_kept _ ?_ _ _).trans ?_

@[simp] theorem Body.bundle_kept (b : Body) (x1 : _) (x2 : _) (x3 : _) : (Body.bundle b x1 x2 x3).s.kept = b.s.kept := by
  unfold Body.bundle
  repeat' first | with_reducible rfl | with_reducible assumption | intro _ | simp only [Body.land_kept, Body.slotA_kept, Body.slotM_kept, kept_mk, kept_eta, Iter.state_done, Iter.state_fmt, Iter.state_trap, Whole.state_ran, Whole.state_stopped, Whole.state_denied] | split | with_reducible refine (foldl_kept _ ?_ _ _).trans ?_

@[simp] theorem runBody_kept (s : State) (x0 : _) (x1 : _) (x3 : _) (x4 : _) : (runBody x0 x1 s x3 x4).s.kept = s.kept := by
  unfold runBody
  repeat' first | with_reducible rfl | with_reducible assumption | intro _ | simp only [Body.bundle_kept, kept_mk, kept_eta, Iter.state_done, Iter.state_fmt, Iter.state_trap, Whole.state_ran, Whole.state_stopped, Whole.state_denied] | split | with_reducible refine (foldl_kept _ ?_ _ _).trans ?_ | with_reducible refine (foldlB_kept _ ?_ _ _).trans ?_ | with_reducible refine (foldl1_kept _ ?_ _ _).trans ?_ | with_reducible refine (foldl2_kept _ ?_ _ _).trans ?_

@[simp] theorem State.kernelIter_kept (s : State) (h : BitVec 20) (o : Op) (r : OpRun) : (s.kernelIter h o r).state.kept = s.kept := by
  unfold State.kernelIter
  split
  · rfl
  · extract_lets n x fresh regs fly b0 b e last nb left t
    have hb : b.s.kept = s.kept := by
      unfold b b0
      split <;> simp only [runBody_kept]
    have ht : t.kept = s.kept := by simp only [t, State.bump_kept, hb]
    clear_value t
    split
    · simp only [Iter.state_trap, State.raise_kept]
      split
      · exact ht
      · simp only [State.wr_kept, ht]
    · split <;> exact ht

@[simp] theorem State.convertScaled_kept (s : State) (x1 : _) (x2 : _) (x3 : _) (x4 : _) (x5 : _) (x6 : _) (x7 : _) : (State.convertScaled s x1 x2 x3 x4 x5 x6 x7).state.kept = s.kept := by
  unfold State.convertScaled
  repeat' first | with_reducible rfl | with_reducible assumption | intro _ | simp only [State.bump_kept, State.putCode_kept, kept_mk, kept_eta, Iter.state_done, Iter.state_fmt, Iter.state_trap, Whole.state_ran, Whole.state_stopped, Whole.state_denied] | split | with_reducible refine (foldl_kept _ ?_ _ _).trans ?_

@[simp] theorem State.convertIter_kept (s : State) (x1 : _) (x2 : _) (x3 : _) : (State.convertIter s x1 x2 x3).state.kept = s.kept := by
  unfold State.convertIter
  repeat' first | with_reducible rfl | with_reducible assumption | intro _ | simp only [State.bump_kept, State.convertScaled_kept, State.putCode_kept, kept_mk, kept_eta, Iter.state_done, Iter.state_fmt, Iter.state_trap, Whole.state_ran, Whole.state_stopped, Whole.state_denied] | split | with_reducible refine (foldl_kept _ ?_ _ _).trans ?_

theorem State.mxProduct_kept {s t : State} {x : Product} (h : s.mxProduct x = some t) : t.kept = s.kept := by
  simp only [State.mxProduct] at h
  split at h
  · cases h
    simp only [State.bump_kept]
    refine foldl_kept _ ?_ _ _
    intro t e
    rw [State.putCode_kept]
  · cases h

@[simp] theorem State.mxStop_kept (s : State) : (State.mxStop s).state.kept = s.kept := by
  unfold State.mxStop
  repeat' first | with_reducible rfl | with_reducible assumption | intro _ | simp only [State.bump_kept, kept_mk, kept_eta, Iter.state_done, Iter.state_fmt, Iter.state_trap, Whole.state_ran, Whole.state_stopped, Whole.state_denied] | split | with_reducible refine (foldl_kept _ ?_ _ _).trans ?_

@[simp] theorem State.mmulIter_kept (s : State) (x1 : _) (x2 : _) : (State.mmulIter s x1 x2).state.kept = s.kept := by
  unfold State.mmulIter
  repeat' first | with_reducible rfl | with_reducible assumption | intro _ | simp only [State.mxStop_kept, kept_mk, kept_eta, Iter.state_done, Iter.state_fmt, Iter.state_trap, Whole.state_ran, Whole.state_stopped, Whole.state_denied] | with_reducible refine (State.mxProduct_kept (by assumption)).trans ?_ | split | with_reducible refine (foldl_kept _ ?_ _ _).trans ?_

theorem State.mxEntry_kept {s t : State} {o : Op} {i : Nat} {e : GEntry} {d1 : Option Descr} {fa : Nat} {b : Nat → Nat → Option Val}
    {d2 d0 : Descr} (h : s.mxEntry o i e d1 fa b d2 d0 = some t) : t.kept = s.kept := by
  simp only [State.mxEntry] at h
  split at h
  · cases h; simp only [State.bump_kept]
  · split at h
    · cases h
    · exact State.mxProduct_kept h

@[simp] theorem walkTable_kept (o : Op) (i : Nat) (d1 : Option Descr) (fa : Nat) (b : Nat → Nat → Option Val) (d2 d0 : Descr)
    (en : State → Nat → Option GEntry) (n g : Nat) (s : State) : (State.walkTable o i d1 fa b d2 d0 en n g s).1.kept = s.kept := by
  induction n generalizing g s with
  | zero => rfl
  | succ n ih =>
    rw [State.walkTable]
    split
    · rename_i t ht
      obtain ⟨e, _, h⟩ := Option.bind_eq_some_iff.mp ht
      rw [ih, State.mxEntry_kept h]
    · rfl

@[simp] theorem State.mgroupIter_kept (s : State) (h : BitVec 20) (o : Op) (r : OpRun) : (s.mgroupIter h o r).state.kept = s.kept := by
  unfold State.mgroupIter
  repeat' first | with_reducible rfl | intro _ | simp only [walkTable_kept, State.mxStop_kept, State.raise_kept, Iter.state_done, Iter.state_trap] | split

@[simp] theorem State.modQ_kept (s : State) (x1 : _) (x2 : _) (x3 : _) : (State.modQ s x1 x2 x3).kept = s.kept := by
  unfold State.modQ
  repeat' first | with_reducible rfl | with_reducible assumption | intro _ | simp only [kept_mk, kept_eta, Iter.state_done, Iter.state_fmt, Iter.state_trap, Whole.state_ran, Whole.state_stopped, Whole.state_denied] | split | with_reducible refine (foldl_kept _ ?_ _ _).trans ?_

@[simp] theorem State.writeOut_kept (s : State) (x1 : _) (x2 : _) (x3 : _) : ((State.writeOut s x1 x2 x3).state s).kept = s.kept := by
  unfold State.writeOut
  repeat' first | with_reducible rfl | with_reducible assumption | intro _ | simp only [State.putCodes_kept, kept_mk, kept_eta, Iter.state_done, Iter.state_fmt, Iter.state_trap, Whole.state_ran, Whole.state_stopped, Whole.state_denied] | split | with_reducible refine (foldl_kept _ ?_ _ _).trans ?_

theorem State.reading_kept {s : State} {d : Descr} {l : List (List Nat)} {f : List Nat → Whole}
    (h : ∀ cs, ((f cs).state s).kept = s.kept) : ((s.reading d l f).state s).kept = s.kept := by
  unfold State.reading
  split
  · exact h _
  · rfl

theorem Whole.andThen_kept {s : State} {w : Whole} {f : State → Whole} (hw : (w.state s).kept = s.kept)
    (h : ∀ t, ((f t).state t).kept = t.kept) : ((w.andThen f).state s).kept = s.kept := by
  cases w with
  | ran t =>
    refine Eq.trans ?_ hw
    have e := h t
    show ((f t).state s).kept = t.kept
    cases hf : f t with
    | denied => exact hw.symm
    | ran u => rw [hf] at e; exact e
    | stopped u => rw [hf] at e; exact e
  | stopped t => exact hw
  | denied => rfl

theorem Whole.goodIf_kept {s : State} {w : Whole} {b : Bool} (hw : (w.state s).kept = s.kept) : ((w.goodIf b).state s).kept = s.kept := by
  rw [Whole.goodIf_state, hw]

@[simp] theorem State.sortOp_kept (s : State) (x1 : _) (x2 : _) (x3 : _) (x4 : _) (x5 : _) : ((State.sortOp s x1 x2 x3 x4 x5).state s).kept = s.kept := by
  unfold State.sortOp
  repeat' first | with_reducible rfl | with_reducible assumption | intro _ | simp only [State.writeOut_kept, kept_mk, kept_eta, Iter.state_done, Iter.state_fmt, Iter.state_trap, Whole.state_ran, Whole.state_stopped, Whole.state_denied] | split | with_reducible refine (foldl_kept _ ?_ _ _).trans ?_ | with_reducible refine Whole.andThen_kept ?_ fun _ => ?_ | with_reducible refine State.reading_kept fun _ => ?_

@[simp] theorem State.topkOp_kept (s : State) (x1 : _) (x2 : _) (x3 : _) (x4 : _) (x5 : _) : ((State.topkOp s x1 x2 x3 x4 x5).state s).kept = s.kept := by
  unfold State.topkOp
  repeat' first | with_reducible rfl | with_reducible assumption | intro _ | simp only [State.writeOut_kept, kept_mk, kept_eta, Iter.state_done, Iter.state_fmt, Iter.state_trap, Whole.state_ran, Whole.state_stopped, Whole.state_denied] | split | with_reducible refine (foldl_kept _ ?_ _ _).trans ?_ | with_reducible refine Whole.andThen_kept ?_ fun _ => ?_ | with_reducible refine State.reading_kept fun _ => ?_

@[simp] theorem State.filterOp_kept (s : State) (x1 : _) (x2 : _) (x3 : _) (x4 : _) (x5 : _) : ((State.filterOp s x1 x2 x3 x4 x5).state s).kept = s.kept := by
  unfold State.filterOp
  repeat' first | with_reducible rfl | with_reducible assumption | intro _ | simp only [State.writeOut_kept, kept_mk, kept_eta, Iter.state_done, Iter.state_fmt, Iter.state_trap, Whole.state_ran, Whole.state_stopped, Whole.state_denied] | split | with_reducible refine (foldl_kept _ ?_ _ _).trans ?_ | with_reducible refine Whole.andThen_kept ?_ fun _ => ?_ | with_reducible refine State.reading_kept fun _ => ?_

@[simp] theorem State.compactOp_kept (s : State) (x1 : _) (x2 : _) (x3 : _) (x4 : _) (x5 : _) : ((State.compactOp s x1 x2 x3 x4 x5).state s).kept = s.kept := by
  unfold State.compactOp
  repeat' first | with_reducible rfl | with_reducible assumption | intro _ | simp only [State.writeOut_kept, kept_mk, kept_eta, Iter.state_done, Iter.state_fmt, Iter.state_trap, Whole.state_ran, Whole.state_stopped, Whole.state_denied] | split | with_reducible refine (foldl_kept _ ?_ _ _).trans ?_ | with_reducible refine Whole.goodIf_kept ?_ | with_reducible refine State.reading_kept fun _ => ?_

@[simp] theorem State.scanOp_kept (s : State) (x1 : _) (x2 : _) (x3 : _) (x4 : _) : ((State.scanOp s x1 x2 x3 x4).state s).kept = s.kept := by
  unfold State.scanOp
  repeat' first | with_reducible rfl | with_reducible assumption | intro _ | simp only [State.bump_kept, State.writeOut_kept, kept_mk, kept_eta, Iter.state_done, Iter.state_fmt, Iter.state_trap, Whole.state_ran, Whole.state_stopped, Whole.state_denied] | split | with_reducible refine (foldl_kept _ ?_ _ _).trans ?_ | with_reducible refine Whole.andThen_kept ?_ fun _ => ?_ | with_reducible refine State.reading_kept fun _ => ?_

@[simp] theorem State.histOp_kept (s : State) (x1 : _) (x2 : _) (x3 : _) (x4 : _) : ((State.histOp s x1 x2 x3 x4).state s).kept = s.kept := by
  unfold State.histOp
  repeat' first | with_reducible rfl | with_reducible assumption | intro _ | simp only [State.writeOut_kept, kept_mk, kept_eta, Iter.state_done, Iter.state_fmt, Iter.state_trap, Whole.state_ran, Whole.state_stopped, Whole.state_denied] | split | with_reducible refine (foldl_kept _ ?_ _ _).trans ?_ | with_reducible refine State.reading_kept fun _ => ?_

@[simp] theorem State.rlzEncOp_kept (s : State) (x1 : _) (x2 : _) (x3 : _) (x4 : _) : ((State.rlzEncOp s x1 x2 x3 x4).state s).kept = s.kept := by
  unfold State.rlzEncOp
  repeat' first | with_reducible rfl | with_reducible assumption | intro _ | simp only [State.writeOut_kept, kept_mk, kept_eta, Iter.state_done, Iter.state_fmt, Iter.state_trap, Whole.state_ran, Whole.state_stopped, Whole.state_denied] | split | with_reducible refine (foldl_kept _ ?_ _ _).trans ?_ | with_reducible refine State.reading_kept fun _ => ?_

@[simp] theorem State.rlzDecOp_kept (s : State) (x1 : _) (x2 : _) (x3 : _) (x4 : _) : ((State.rlzDecOp s x1 x2 x3 x4).state s).kept = s.kept := by
  unfold State.rlzDecOp
  repeat' first | with_reducible rfl | with_reducible assumption | intro _ | simp only [State.writeOut_kept, kept_mk, kept_eta, Iter.state_done, Iter.state_fmt, Iter.state_trap, Whole.state_ran, Whole.state_stopped, Whole.state_denied] | split | with_reducible refine (foldl_kept _ ?_ _ _).trans ?_ | with_reducible refine Whole.goodIf_kept ?_ | with_reducible refine State.reading_kept fun _ => ?_

@[simp] theorem State.pack28Op_kept (s : State) (x1 : _) (x2 : _) (x3 : _) (x4 : _) (x5 : _) : ((State.pack28Op s x1 x2 x3 x4 x5).state s).kept = s.kept := by
  unfold State.pack28Op
  repeat' first | with_reducible rfl | with_reducible assumption | intro _ | simp only [State.writeOut_kept, kept_mk, kept_eta, Iter.state_done, Iter.state_fmt, Iter.state_trap, Whole.state_ran, Whole.state_stopped, Whole.state_denied] | split | with_reducible refine (foldl_kept _ ?_ _ _).trans ?_ | with_reducible refine Whole.andThen_kept ?_ fun _ => ?_ | with_reducible refine Whole.goodIf_kept ?_ | with_reducible refine State.reading_kept fun _ => ?_

@[simp] theorem State.sieveOp_kept (s : State) (x1 : _) (x2 : _) : ((State.sieveOp s x1 x2).state s).kept = s.kept := by
  unfold State.sieveOp
  repeat' first | with_reducible rfl | with_reducible assumption | intro _ | simp only [State.compactOp_kept, State.filterOp_kept, State.histOp_kept, State.pack28Op_kept, State.rlzDecOp_kept, State.rlzEncOp_kept, State.scanOp_kept, State.sortOp_kept, State.topkOp_kept, kept_mk, kept_eta, Iter.state_done, Iter.state_fmt, Iter.state_trap, Whole.state_ran, Whole.state_stopped, Whole.state_denied] | split | with_reducible refine (foldl_kept _ ?_ _ _).trans ?_

@[simp] theorem State.sieveIter_kept (s : State) (o : Op) (r : OpRun) : (s.sieveIter o r).state.kept = s.kept := by
  have h := State.sieveOp_kept s o r.iter
  unfold State.sieveIter
  split
  · rename_i t ht; rw [ht] at h; exact h
  · rename_i t ht; rw [ht] at h; simp only [Iter.state_fmt, State.bump_kept]; exact h
  · rfl

@[simp] theorem State.foldIter_kept (s : State) (x1 : _) (x2 : _) : (State.foldIter s x1 x2).state.kept = s.kept := by
  unfold State.foldIter
  repeat' first | with_reducible rfl | with_reducible assumption | intro _ | simp only [State.bump_kept, State.putCode_kept, kept_mk, kept_eta, Iter.state_done, Iter.state_fmt, Iter.state_trap, Whole.state_ran, Whole.state_stopped, Whole.state_denied] | split | with_reducible refine (foldl_kept _ ?_ _ _).trans ?_

@[simp] theorem State.blkexpIter_kept (s : State) (x1 : _) (x2 : _) : (State.blkexpIter s x1 x2).state.kept = s.kept := by
  unfold State.blkexpIter
  repeat' first | with_reducible rfl | with_reducible assumption | intro _ | simp only [State.putCode_kept, kept_mk, kept_eta, Iter.state_done, Iter.state_fmt, Iter.state_trap, Whole.state_ran, Whole.state_stopped, Whole.state_denied] | split | with_reducible refine (foldl_kept _ ?_ _ _).trans ?_

@[simp] theorem State.sendWrite_kept (s : State) (x1 : _) (x2 : _) (x3 : _) (x4 : _) (x5 : _) : (State.sendWrite s x1 x2 x3 x4 x5).kept = s.kept := by
  unfold State.sendWrite
  repeat' first | with_reducible rfl | with_reducible assumption | intro _ | simp only [State.sendMessage_kept, kept_mk, kept_eta, Iter.state_done, Iter.state_fmt, Iter.state_trap, Whole.state_ran, Whole.state_stopped, Whole.state_denied] | split | with_reducible refine (foldl_kept _ ?_ _ _).trans ?_

@[simp] theorem State.copyIter_kept (s : State) (x1 : _) (x2 : _) (x3 : _) : (State.copyIter s x1 x2 x3).state.kept = s.kept := by
  unfold State.copyIter
  repeat' first | with_reducible rfl | with_reducible assumption | intro _ | simp only [State.putCode_kept, State.sendWrite_kept, kept_mk, kept_eta, Iter.state_done, Iter.state_fmt, Iter.state_trap, Whole.state_ran, Whole.state_stopped, Whole.state_denied] | split | with_reducible refine (foldl_kept _ ?_ _ _).trans ?_

@[simp] theorem State.fillIter_kept (s : State) (x1 : _) (x2 : _) : (State.fillIter s x1 x2).state.kept = s.kept := by
  unfold State.fillIter
  repeat' first | with_reducible rfl | with_reducible assumption | intro _ | simp only [State.putCode_kept, kept_mk, kept_eta, Iter.state_done, Iter.state_fmt, Iter.state_trap, Whole.state_ran, Whole.state_stopped, Whole.state_denied] | split | with_reducible refine (foldl_kept _ ?_ _ _).trans ?_

@[simp] theorem State.controlOp_kept (s : State) (x1 : _) (x2 : _) (x3 : _) (x4 : _) : (State.controlOp s x1 x2 x3 x4).state.kept = s.kept := by
  unfold State.controlOp
  repeat' first | with_reducible rfl | with_reducible assumption | intro _ | simp only [State.bump_kept, State.modQ_kept, kept_mk, kept_eta, Iter.state_done, Iter.state_fmt, Iter.state_trap, Whole.state_ran, Whole.state_stopped, Whole.state_denied] | split | with_reducible refine (foldl_kept _ ?_ _ _).trans ?_

@[simp] theorem State.unsound_kept (s : State) (x1 : _) : (State.unsound s x1).state.kept = s.kept := by
  unfold State.unsound
  repeat' first | with_reducible rfl | with_reducible assumption | intro _ | simp only [State.mxStop_kept, kept_mk, kept_eta, Iter.state_done, Iter.state_fmt, Iter.state_trap, Whole.state_ran, Whole.state_stopped, Whole.state_denied] | split | with_reducible refine (foldl_kept _ ?_ _ _).trans ?_

@[simp] theorem State.soundIter_kept (s : State) (x1 : _) (x2 : _) (x3 : _) (x4 : _) : (State.soundIter s x1 x2 x3 x4).state.kept = s.kept := by
  unfold State.soundIter
  repeat' first | with_reducible rfl | with_reducible assumption | intro _ | simp only [State.blkexpIter_kept, State.controlOp_kept, State.convertIter_kept, State.copyIter_kept, State.fillIter_kept, State.foldIter_kept, State.kernelIter_kept, State.mgroupIter_kept, State.mmulIter_kept, State.sieveIter_kept, kept_mk, kept_eta, Iter.state_done, Iter.state_fmt, Iter.state_trap, Whole.state_ran, Whole.state_stopped, Whole.state_denied] | split | with_reducible refine (foldl_kept _ ?_ _ _).trans ?_

@[simp] theorem State.runIter_kept (s : State) (x1 : _) (x2 : _) (x3 : _) (x4 : _) : (State.runIter s x1 x2 x3 x4).state.kept = s.kept := by
  unfold State.runIter
  repeat' first | with_reducible rfl | with_reducible assumption | intro _ | simp only [State.soundIter_kept, State.unsound_kept, kept_mk, kept_eta, Iter.state_done, Iter.state_fmt, Iter.state_trap, Whole.state_ran, Whole.state_stopped, Whole.state_denied] | split | with_reducible refine (foldl_kept _ ?_ _ _).trans ?_

@[simp] theorem State.skipIter_kept (s : State) (x1 : _) (x2 : _) (x3 : _) : (State.skipIter s x1 x2 x3).state.kept = s.kept := by
  unfold State.skipIter
  repeat' first | with_reducible rfl | with_reducible assumption | intro _ | simp only [State.sendWrite_kept, kept_mk, kept_eta, Iter.state_done, Iter.state_fmt, Iter.state_trap, Whole.state_ran, Whole.state_stopped, Whole.state_denied] | split | with_reducible refine (foldl_kept _ ?_ _ _).trans ?_

@[simp] theorem State.withBank_kept (s : State) (x1 : _) : (State.withBank s x1).kept = s.kept := by
  unfold State.withBank
  repeat' first | with_reducible rfl | with_reducible assumption | intro _ | simp only [kept_mk, kept_eta, Iter.state_done, Iter.state_fmt, Iter.state_trap, Whole.state_ran, Whole.state_stopped, Whole.state_denied] | split | with_reducible refine (foldl_kept _ ?_ _ _).trans ?_

@[simp] theorem Iter.restore_kept (b : Bool) (i : Iter) : (i.restore b).state.kept = i.state.kept := by
  cases i <;> rfl

@[simp] theorem State.iterated_kept (s : State) (x1 : _) (x2 : _) (x3 : _) (x4 : _) : (State.iterated s x1 x2 x3 x4).kept = s.kept := by
  unfold State.iterated
  repeat' first | with_reducible rfl | with_reducible assumption | intro _ | simp only [State.addToken_kept, State.modQ_kept, kept_mk, kept_eta, Iter.state_done, Iter.state_fmt, Iter.state_trap, Whole.state_ran, Whole.state_stopped, Whole.state_denied] | split | with_reducible refine (foldl_kept _ ?_ _ _).trans ?_ | with_reducible refine (foldlB_kept _ ?_ _ _).trans ?_ | with_reducible refine (foldl1_kept _ ?_ _ _).trans ?_ | with_reducible refine (foldl2_kept _ ?_ _ _).trans ?_

@[simp] theorem State.landWrite_kept (s : State) (x1 : _) : (State.landWrite s x1).kept = s.kept := by
  unfold State.landWrite
  repeat' first | with_reducible rfl | with_reducible assumption | intro _ | simp only [State.addToken_kept, State.bump_kept, State.failInstance_kept, State.putWalk_kept, kept_mk, kept_eta, Iter.state_done, Iter.state_fmt, Iter.state_trap, Whole.state_ran, Whole.state_stopped, Whole.state_denied] | split | with_reducible refine (foldl_kept _ ?_ _ _).trans ?_

@[simp] theorem State.landFetch_kept (s : State) (x1 : _) : (State.landFetch s x1).kept = s.kept := by
  unfold State.landFetch
  repeat' first | with_reducible rfl | with_reducible assumption | intro _ | simp only [State.fetchPlace_kept, kept_mk, kept_eta, Iter.state_done, Iter.state_fmt, Iter.state_trap, Whole.state_ran, Whole.state_stopped, Whole.state_denied] | split | with_reducible refine (foldl_kept _ ?_ _ _).trans ?_ | with_reducible refine (foldlB_kept _ ?_ _ _).trans ?_ | with_reducible refine (foldl1_kept _ ?_ _ _).trans ?_ | with_reducible refine (foldl2_kept _ ?_ _ _).trans ?_

theorem execWriteMessageReceive_kept {s t : State} {x0 : Sys2Proof.WriteMsg} (h : execWriteMessageReceive x0 s = .next t) : t.kept = s.kept := by
  simp only [execWriteMessageReceive, Host.Outcome.next.injEq] at h
  subst h
  repeat' first | with_reducible rfl | with_reducible assumption | intro _ | simp only [State.bump_kept, State.landFetch_kept, State.landWrite_kept, State.openFor_kept, State.progress_kept, State.takeInbox_kept, kept_mk, kept_eta, Iter.state_done, Iter.state_fmt, Iter.state_trap, Whole.state_ran, Whole.state_stopped, Whole.state_denied] | split | with_reducible refine (foldl_kept _ ?_ _ _).trans ?_

theorem execQueueContextStart_kept {s t : State} (h : execQueueContextStart s = .next t) : t.kept = s.kept := by
  simp only [execQueueContextStart, Host.Outcome.next.injEq] at h
  subst h
  repeat' first | with_reducible rfl | with_reducible assumption | intro _ | simp only [State.landFetch_kept, State.landWrite_kept, State.progress_kept, kept_mk, kept_eta, Iter.state_done, Iter.state_fmt, Iter.state_trap, Whole.state_ran, Whole.state_stopped, Whole.state_denied] | split | with_reducible refine (foldl_kept _ ?_ _ _).trans ?_ | with_reducible refine (foldlB_kept _ ?_ _ _).trans ?_ | with_reducible refine (foldl1_kept _ ?_ _ _).trans ?_ | with_reducible refine (foldl2_kept _ ?_ _ _).trans ?_

theorem execOpIssue_kept {s t : State} {x0 : BitVec 20} {x1 : Nat} (h : execOpIssue x0 x1 s = .next t) : t.kept = s.kept := by
  simp only [execOpIssue, Host.Outcome.next.injEq] at h
  subst h
  repeat' first | with_reducible rfl | with_reducible assumption | intro _ | simp only [State.bump_kept, State.modQ_kept, kept_mk, kept_eta, Iter.state_done, Iter.state_fmt, Iter.state_trap, Whole.state_ran, Whole.state_stopped, Whole.state_denied] | split | with_reducible refine (foldl_kept _ ?_ _ _).trans ?_

@[simp] theorem State.opFetch_kept (s : State) (x1 : _) (x2 : _) : (State.opFetch s x1 x2).kept = s.kept := by
  unfold State.opFetch
  repeat' first | with_reducible rfl | with_reducible assumption | intro _ | simp only [State.fetchPlace_kept, State.withBank_kept, kept_mk, kept_eta, Iter.state_done, Iter.state_fmt, Iter.state_trap, Whole.state_ran, Whole.state_stopped, Whole.state_denied] | split | with_reducible refine (foldl_kept _ ?_ _ _).trans ?_ | with_reducible refine (foldlB_kept _ ?_ _ _).trans ?_ | with_reducible refine (foldl1_kept _ ?_ _ _).trans ?_ | with_reducible refine (foldl2_kept _ ?_ _ _).trans ?_

theorem execOpIterationDone_kept {s t : State} {hd : BitVec 20} {qid : Nat} (h : execOpIterationDone hd qid s = .next t) : t.kept = s.kept := by
  simp only [execOpIterationDone, Host.Outcome.next.injEq] at h
  subst h
  split
  · rfl
  · rename_i q o run _
    split
    · rfl
    · have hw : (if run.skipped = true then s else s.opFetch o run).kept = s.kept := by
        split
        · rfl
        · rw [State.opFetch_kept]
      generalize (if run.skipped = true then s else s.opFetch o run) = w at hw ⊢
      split
      · rw [State.settle_kept, hw]
      · have hu : ((if run.waited = true then w else w.modQ hd qid fun q => q.take o.wait).withBank run.bankB).kept = s.kept := by
          rw [State.withBank_kept]
          split
          · exact hw
          · rw [State.modQ_kept, hw]
        generalize (if run.waited = true then w else w.modQ hd qid fun q => q.take o.wait).withBank run.bankB = u at hu ⊢
        split
        · exact hw
        · have hi : ((if run.skipped = true then u.skipIter hd o run else u.runIter hd qid o run).restore s.led.srcB).state.kept = s.kept := by
            rw [Iter.restore_kept]
            split
            · rw [State.skipIter_kept, hu]
            · rw [State.runIter_kept, hu]
          generalize (if run.skipped = true then u.skipIter hd o run else u.runIter hd qid o run).restore s.led.srcB = i at hi ⊢
          cases i with
          | done v r => simp only [State.progress_kept, State.iterated_kept]; exact hi
          | formatError v => simp only [State.settle_kept, State.failInstance_kept]; exact hi
          | trap v => simp only [State.settle_kept, State.failInstance_kept]; exact hi

theorem execWaitCycle_kept {s t : State} {x0 : BitVec 20} (h : execWaitCycle x0 s = .next t) : t.kept = s.kept := by
  simp only [execWaitCycle, Host.Outcome.next.injEq] at h
  subst h
  repeat' first | with_reducible rfl | with_reducible assumption | intro _ | simp only [State.bump_kept, State.failInstance_kept, State.raise_kept, State.settle_kept, kept_mk, kept_eta, Iter.state_done, Iter.state_fmt, Iter.state_trap, Whole.state_ran, Whole.state_stopped, Whole.state_denied] | split | with_reducible refine (foldl_kept _ ?_ _ _).trans ?_

@[simp] theorem State.busWrite_kept (s : State) (x1 : _) (x2 : _) : (State.busWrite s x1 x2).kept = s.kept := by
  unfold State.busWrite
  repeat' first | with_reducible rfl | with_reducible assumption | intro _ | simp only [State.emit_kept, kept_mk, kept_eta, Iter.state_done, Iter.state_fmt, Iter.state_trap, Whole.state_ran, Whole.state_stopped, Whole.state_denied] | split | with_reducible refine (foldl_kept _ ?_ _ _).trans ?_

@[simp] theorem State.setRing_kept (s : State) (x1 : _) (x2 : _) : (State.setRing s x1 x2).kept = s.kept := by
  unfold State.setRing
  repeat' first | with_reducible rfl | with_reducible assumption | intro _ | simp only [kept_mk, kept_eta, Iter.state_done, Iter.state_fmt, Iter.state_trap, Whole.state_ran, Whole.state_stopped, Whole.state_denied] | split | with_reducible refine (foldl_kept _ ?_ _ _).trans ?_

@[simp] theorem State.ringError_kept (s : State) (x1 : _) : (State.ringError s x1).kept = s.kept := by
  unfold State.ringError
  repeat' first | with_reducible rfl | with_reducible assumption | intro _ | simp only [State.raise_kept, State.setRing_kept, kept_mk, kept_eta, Iter.state_done, Iter.state_fmt, Iter.state_trap, Whole.state_ran, Whole.state_stopped, Whole.state_denied] | split | with_reducible refine (foldl_kept _ ?_ _ _).trans ?_

@[simp] theorem State.interrupt_kept (s : State) (x1 : _) : (State.interrupt s x1).kept = s.kept := by
  unfold State.interrupt
  repeat' first | with_reducible rfl | with_reducible assumption | intro _ | simp only [State.emit_kept, State.wr_kept, kept_mk, kept_eta, Iter.state_done, Iter.state_fmt, Iter.state_trap, Whole.state_ran, Whole.state_stopped, Whole.state_denied] | split | with_reducible refine (foldl_kept _ ?_ _ _).trans ?_

@[simp] theorem State.msiWrite_kept (s : State) (x1 : _) (x2 : _) : (State.msiWrite s x1 x2).kept = s.kept := by
  unfold State.msiWrite
  repeat' first | with_reducible rfl | with_reducible assumption | intro _ | simp only [State.interrupt_kept, State.wr_kept, kept_mk, kept_eta, Iter.state_done, Iter.state_fmt, Iter.state_trap, Whole.state_ran, Whole.state_stopped, Whole.state_denied] | split | with_reducible refine (foldl_kept _ ?_ _ _).trans ?_

@[simp] theorem State.writeHeld_kept (s : State) (x1 : _) : (State.writeHeld s x1).1.kept = s.kept := by
  unfold State.writeHeld
  repeat' first | with_reducible rfl | with_reducible assumption | intro _ | simp only [State.emit_kept, State.setRing_kept, kept_mk, kept_eta, Iter.state_done, Iter.state_fmt, Iter.state_trap, Whole.state_ran, Whole.state_stopped, Whole.state_denied] | split | with_reducible refine (foldl_kept _ ?_ _ _).trans ?_

@[simp] theorem flushAux_kept (cq n : Nat) (r : State × Bool) : (State.flushAux cq n r).1.kept = r.1.kept := by
  induction n generalizing r with
  | zero => rfl
  | succ n ih =>
    obtain ⟨s, any⟩ := r
    have e := State.writeHeld_kept s cq
    cases hw : s.writeHeld cq with
    | mk t did =>
      rw [hw] at e
      simp only [State.flushAux, hw]
      split
      · rw [ih]; exact e
      · rfl

@[simp] theorem State.flushCq_kept (s : State) (cq : Nat) : (s.flushCq cq).kept = s.kept := by
  simp only [State.flushCq]
  split <;> simp only [State.interrupt_kept, flushAux_kept]

@[simp] theorem State.trace_kept (s : State) (x1 : _) (x2 : _) (x3 : _) (x4 : _) : (State.trace s x1 x2 x3 x4).kept = s.kept := by
  unfold State.trace
  repeat' first | with_reducible rfl | with_reducible assumption | intro _ | simp only [State.bump_kept, State.draw_kept, State.emit_kept, kept_mk, kept_eta, Iter.state_done, Iter.state_fmt, Iter.state_trap, Whole.state_ran, Whole.state_stopped, Whole.state_denied] | split | with_reducible refine (foldl_kept _ ?_ _ _).trans ?_

@[simp] theorem State.complete_kept (s : State) (x1 : _) (x2 : _) (x3 : _) (x4 : _) (x5 : _) : (State.complete s x1 x2 x3 x4 x5).kept = s.kept := by
  unfold State.complete
  repeat' first | with_reducible rfl | with_reducible assumption | intro _ | simp only [State.flushCq_kept, State.setRing_kept, State.trace_kept, kept_mk, kept_eta, Iter.state_done, Iter.state_fmt, Iter.state_trap, Whole.state_ran, Whole.state_stopped, Whole.state_denied] | split | with_reducible refine (foldl_kept _ ?_ _ _).trans ?_

@[simp] theorem State.fail_kept (s : State) (x1 : _) (x2 : _) (x3 : _) : (State.fail s x1 x2 x3).kept = s.kept := by
  unfold State.fail
  repeat' first | with_reducible rfl | with_reducible assumption | intro _ | simp only [State.complete_kept, kept_mk, kept_eta, Iter.state_done, Iter.state_fmt, Iter.state_trap, Whole.state_ran, Whole.state_stopped, Whole.state_denied] | split | with_reducible refine (foldl_kept _ ?_ _ _).trans ?_

@[simp] theorem State.ok_kept (s : State) (x1 : _) (x2 : _) (x3 : _) : (State.ok s x1 x2 x3).kept = s.kept := by
  unfold State.ok
  repeat' first | with_reducible rfl | with_reducible assumption | intro _ | simp only [State.complete_kept, kept_mk, kept_eta, Iter.state_done, Iter.state_fmt, Iter.state_trap, Whole.state_ran, Whole.state_stopped, Whole.state_denied] | split | with_reducible refine (foldl_kept _ ?_ _ _).trans ?_

@[simp] theorem State.sqBell_kept (s : State) (x1 : _) (x2 : _) : (State.sqBell s x1 x2).kept = s.kept := by
  unfold State.sqBell
  repeat' first | with_reducible rfl | with_reducible assumption | intro _ | simp only [State.ringError_kept, State.setRing_kept, kept_mk, kept_eta, Iter.state_done, Iter.state_fmt, Iter.state_trap, Whole.state_ran, Whole.state_stopped, Whole.state_denied] | split | with_reducible refine (foldl_kept _ ?_ _ _).trans ?_

@[simp] theorem State.cqBell_kept (s : State) (x1 : _) (x2 : _) : (State.cqBell s x1 x2).kept = s.kept := by
  unfold State.cqBell
  repeat' first | with_reducible rfl | with_reducible assumption | intro _ | simp only [State.flushCq_kept, State.ringError_kept, State.setRing_kept, kept_mk, kept_eta, Iter.state_done, Iter.state_fmt, Iter.state_trap, Whole.state_ran, Whole.state_stopped, Whole.state_denied] | split | with_reducible refine (foldl_kept _ ?_ _ _).trans ?_

@[simp] theorem State.ringWrite_kept (s : State) (x1 : _) (x2 : _) : (State.ringWrite s x1 x2).kept = s.kept := by
  unfold State.ringWrite
  repeat' first | with_reducible rfl | with_reducible assumption | intro _ | simp only [State.flushCq_kept, State.raise_kept, State.setRing_kept, kept_mk, kept_eta, Iter.state_done, Iter.state_fmt, Iter.state_trap, Whole.state_ran, Whole.state_stopped, Whole.state_denied] | split | with_reducible refine (foldl_kept _ ?_ _ _).trans ?_

theorem execSqDoorbell_kept {s t : State} {x0 : Nat} {x1 : Sys2Proof.Word} (h : execSqDoorbell x0 x1 s = .next t) : t.kept = s.kept := by
  simp only [execSqDoorbell, Host.Outcome.next.injEq] at h
  subst h
  repeat' first | with_reducible rfl | with_reducible assumption | intro _ | simp only [State.sqBell_kept, kept_mk, kept_eta, Iter.state_done, Iter.state_fmt, Iter.state_trap, Whole.state_ran, Whole.state_stopped, Whole.state_denied] | split | with_reducible refine (foldl_kept _ ?_ _ _).trans ?_

theorem execCqDoorbell_kept {s t : State} {x0 : Nat} {x1 : Sys2Proof.Word} (h : execCqDoorbell x0 x1 s = .next t) : t.kept = s.kept := by
  simp only [execCqDoorbell, Host.Outcome.next.injEq] at h
  subst h
  repeat' first | with_reducible rfl | with_reducible assumption | intro _ | simp only [State.cqBell_kept, kept_mk, kept_eta, Iter.state_done, Iter.state_fmt, Iter.state_trap, Whole.state_ran, Whole.state_stopped, Whole.state_denied] | split | with_reducible refine (foldl_kept _ ?_ _ _).trans ?_

theorem execRingConfigWrite_kept {s t : State} {x0 : Nat} {x1 : Sys2Proof.Word} (h : execRingConfigWrite x0 x1 s = .next t) : t.kept = s.kept := by
  simp only [execRingConfigWrite, Host.Outcome.next.injEq] at h
  subst h
  repeat' first | with_reducible rfl | with_reducible assumption | intro _ | simp only [State.ringWrite_kept, kept_mk, kept_eta, Iter.state_done, Iter.state_fmt, Iter.state_trap, Whole.state_ran, Whole.state_stopped, Whole.state_denied] | split | with_reducible refine (foldl_kept _ ?_ _ _).trans ?_

theorem execMsiUnmask_kept {s t : State} {x0 : Nat} {x1 : Sys2Proof.Word} (h : execMsiUnmask x0 x1 s = .next t) : t.kept = s.kept := by
  simp only [execMsiUnmask, Host.Outcome.next.injEq] at h
  subst h
  repeat' first | with_reducible rfl | with_reducible assumption | intro _ | simp only [State.msiWrite_kept, kept_mk, kept_eta, Iter.state_done, Iter.state_fmt, Iter.state_trap, Whole.state_ran, Whole.state_stopped, Whole.state_denied] | split | with_reducible refine (foldl_kept _ ?_ _ _).trans ?_

theorem execSqEntryFetch_kept {s t : State} {x0 : Nat} {x1 : List Sys2Proof.Byte} (h : execSqEntryFetch x0 x1 s = .next t) : t.kept = s.kept := by
  simp only [execSqEntryFetch, Host.Outcome.next.injEq] at h
  subst h
  repeat' first | with_reducible rfl | with_reducible assumption | intro _ | simp only [State.fail_kept, State.setRing_kept, State.trace_kept, kept_mk, kept_eta, Iter.state_done, Iter.state_fmt, Iter.state_trap, Whole.state_ran, Whole.state_stopped, Whole.state_denied] | split | with_reducible refine (foldl_kept _ ?_ _ _).trans ?_

@[simp] theorem State.refuseAt_kept (s : State) (x1 : _) (x2 : _) (x3 : _) : (State.refuseAt s x1 x2 x3).kept = s.kept := by
  unfold State.refuseAt
  repeat' first | with_reducible rfl | with_reducible assumption | intro _ | simp only [State.fail_kept, kept_mk, kept_eta, Iter.state_done, Iter.state_fmt, Iter.state_trap, Whole.state_ran, Whole.state_stopped, Whole.state_denied] | split | with_reducible refine (foldl_kept _ ?_ _ _).trans ?_ | with_reducible refine (foldlB_kept _ ?_ _ _).trans ?_ | with_reducible refine (foldl1_kept _ ?_ _ _).trans ?_ | with_reducible refine (foldl2_kept _ ?_ _ _).trans ?_

@[simp] theorem State.answer_kept (s : State) (x1 : _) (x2 : _) (x3 : _) : (State.answer s x1 x2 x3).kept = s.kept := by
  unfold State.answer
  repeat' first | with_reducible rfl | with_reducible assumption | intro _ | simp only [State.emit_kept, State.fail_kept, State.ok_kept, kept_mk, kept_eta, Iter.state_done, Iter.state_fmt, Iter.state_trap, Whole.state_ran, Whole.state_stopped, Whole.state_denied] | split | with_reducible refine (foldl_kept _ ?_ _ _).trans ?_

@[simp] theorem State.sparseForget_kept (s : State) (x1 : _) (x2 : _) (x3 : _) : (State.sparseForget s x1 x2 x3).kept = s.kept := by
  unfold State.sparseForget
  repeat' first | with_reducible rfl | with_reducible assumption | intro _ | simp only [State.pass1_kept, State.setSparse_kept, kept_mk, kept_eta, Iter.state_done, Iter.state_fmt, Iter.state_trap, Whole.state_ran, Whole.state_stopped, Whole.state_denied] | split | with_reducible refine (foldl_kept _ ?_ _ _).trans ?_ | with_reducible refine (foldlB_kept _ ?_ _ _).trans ?_ | with_reducible refine (foldl1_kept _ ?_ _ _).trans ?_ | with_reducible refine (foldl2_kept _ ?_ _ _).trans ?_

@[simp] theorem State.memberLost_kept (s : State) (x1 : _) (x2 : _) : (State.memberLost s x1 x2).kept = s.kept := by
  unfold State.memberLost
  repeat' first | with_reducible rfl | with_reducible assumption | intro _ | simp only [State.absentDown_kept, State.failInstance_kept, State.setSlot_kept, State.sparseForget_kept, kept_mk, kept_eta, Iter.state_done, Iter.state_fmt, Iter.state_trap, Whole.state_ran, Whole.state_stopped, Whole.state_denied] | split | with_reducible refine (foldl_kept _ ?_ _ _).trans ?_

@[simp] theorem State.treeLost_kept (s : State) (x1 : _) (x2 : _) : (State.treeLost s x1 x2).kept = s.kept := by
  unfold State.treeLost
  repeat' first | with_reducible rfl | with_reducible assumption | intro _ | simp only [State.failInstance_kept, kept_mk, kept_eta, Iter.state_done, Iter.state_fmt, Iter.state_trap, Whole.state_ran, Whole.state_stopped, Whole.state_denied] | split | with_reducible refine (foldl_kept _ ?_ _ _).trans ?_

@[simp] theorem State.dequeue_kept (s : State) (x1 : _) (x2 : _) : (State.dequeue s x1 x2).kept = s.kept := by
  unfold State.dequeue
  repeat' first | with_reducible rfl | with_reducible assumption | intro _ | simp only [State.dropRef_kept, State.setQueue_kept, kept_mk, kept_eta, Iter.state_done, Iter.state_fmt, Iter.state_trap, Whole.state_ran, Whole.state_stopped, Whole.state_denied] | split | with_reducible refine (foldl_kept _ ?_ _ _).trans ?_

@[simp] theorem State.sweepQueues_kept (s : State) (x1 : _) : (State.sweepQueues s x1).kept = s.kept := by
  unfold State.sweepQueues
  repeat' first | with_reducible rfl | with_reducible assumption | intro _ | simp only [State.dequeue_kept, State.dropRef_kept, kept_mk, kept_eta, Iter.state_done, Iter.state_fmt, Iter.state_trap, Whole.state_ran, Whole.state_stopped, Whole.state_denied] | split | with_reducible refine (foldl_kept _ ?_ _ _).trans ?_ | with_reducible refine (foldlB_kept _ ?_ _ _).trans ?_ | with_reducible refine (foldl1_kept _ ?_ _ _).trans ?_ | with_reducible refine (foldl2_kept _ ?_ _ _).trans ?_

@[simp] theorem State.sweepStreams_kept (s : State) (x1 : _) : (State.sweepStreams s x1).kept = s.kept := by
  unfold State.sweepStreams
  repeat' first | with_reducible rfl | with_reducible assumption | intro _ | simp only [State.dropTx_kept, State.release_kept, kept_mk, kept_eta, Iter.state_done, Iter.state_fmt, Iter.state_trap, Whole.state_ran, Whole.state_stopped, Whole.state_denied] | split | with_reducible refine (foldl_kept _ ?_ _ _).trans ?_ | with_reducible refine (foldlB_kept _ ?_ _ _).trans ?_ | with_reducible refine (foldl1_kept _ ?_ _ _).trans ?_ | with_reducible refine (foldl2_kept _ ?_ _ _).trans ?_

@[simp] theorem State.healFails_kept (s : State) (x1 : _) : (State.healFails s x1).kept = s.kept := by
  unfold State.healFails
  repeat' first | with_reducible rfl | with_reducible assumption | intro _ | simp only [State.bump_kept, State.putTables_kept, State.raise_kept, State.zeroRetire_kept, kept_mk, kept_eta, Iter.state_done, Iter.state_fmt, Iter.state_trap, Whole.state_ran, Whole.state_stopped, Whole.state_denied] | split | with_reducible refine (foldl_kept _ ?_ _ _).trans ?_

@[simp] theorem State.twinFenced_kept (s : State) : (State.twinFenced s).kept = s.kept := by
  unfold State.twinFenced
  repeat' first | with_reducible rfl | with_reducible assumption | intro _ | simp only [State.exchange_kept, State.healFails_kept, kept_mk, kept_eta, Iter.state_done, Iter.state_fmt, Iter.state_trap, Whole.state_ran, Whole.state_stopped, Whole.state_denied] | split | with_reducible refine (foldl_kept _ ?_ _ _).trans ?_ | with_reducible refine (foldlB_kept _ ?_ _ _).trans ?_ | with_reducible refine (foldl1_kept _ ?_ _ _).trans ?_ | with_reducible refine (foldl2_kept _ ?_ _ _).trans ?_

@[simp] theorem State.sweep_kept (s : State) (x1 : _) : (State.sweep s x1).kept = s.kept := by
  unfold State.sweep
  repeat' first | with_reducible rfl | with_reducible assumption | intro _ | simp only [State.memberLost_kept, State.progress_kept, State.rebuildRoutes_kept, State.settle_kept, State.sweepQueues_kept, State.sweepStreams_kept, State.treeLost_kept, State.twinFenced_kept, kept_mk, kept_eta, Iter.state_done, Iter.state_fmt, Iter.state_trap, Whole.state_ran, Whole.state_stopped, Whole.state_denied] | split | with_reducible refine (foldl_kept _ ?_ _ _).trans ?_ | with_reducible refine (foldlB_kept _ ?_ _ _).trans ?_ | with_reducible refine (foldl1_kept _ ?_ _ _).trans ?_ | with_reducible refine (foldl2_kept _ ?_ _ _).trans ?_

@[simp] theorem State.setFenced_kept (s : State) (x1 : _) (x2 : _) (x3 : _) (x4 : _) : (State.setFenced s x1 x2 x3 x4).kept = s.kept := by
  unfold State.setFenced
  repeat' first | with_reducible rfl | with_reducible assumption | intro _ | simp only [State.modParty_kept, kept_mk, kept_eta, Iter.state_done, Iter.state_fmt, Iter.state_trap, Whole.state_ran, Whole.state_stopped, Whole.state_denied] | split | with_reducible refine (foldl_kept _ ?_ _ _).trans ?_

@[simp] theorem State.notify_kept (s : State) (x1 : _) (x2 : _) : (State.notify s x1 x2).kept = s.kept := by
  unfold State.notify
  repeat' first | with_reducible rfl | with_reducible assumption | intro _ | simp only [State.sendCtrl_kept, kept_mk, kept_eta, Iter.state_done, Iter.state_fmt, Iter.state_trap, Whole.state_ran, Whole.state_stopped, Whole.state_denied] | split | with_reducible refine (foldl_kept _ ?_ _ _).trans ?_ | with_reducible refine (foldlB_kept _ ?_ _ _).trans ?_ | with_reducible refine (foldl1_kept _ ?_ _ _).trans ?_ | with_reducible refine (foldl2_kept _ ?_ _ _).trans ?_

@[simp] theorem State.fenceParty_kept (s : State) (x1 : _) : (State.fenceParty s x1).kept = s.kept := by
  unfold State.fenceParty
  repeat' first | with_reducible rfl | with_reducible assumption | intro _ | simp only [State.notify_kept, State.raise_kept, State.setFenced_kept, State.sweep_kept, kept_mk, kept_eta, Iter.state_done, Iter.state_fmt, Iter.state_trap, Whole.state_ran, Whole.state_stopped, Whole.state_denied] | split | with_reducible refine (foldl_kept _ ?_ _ _).trans ?_

theorem execFenceNotice_kept {s t : State} {x0 : Sys2Proof.FA} {x1 : Sys2Proof.FA} {x2 : BitVec 4} {x3 : Bool} {x4 : Nat} (h : execFenceNotice x0 x1 x2 x3 x4 s = .next t) : t.kept = s.kept := by
  simp only [execFenceNotice, Host.Outcome.next.injEq] at h
  subst h
  repeat' first | with_reducible rfl | with_reducible assumption | intro _ | simp only [State.setFenced_kept, State.sweep_kept, State.takeCtrl_kept, kept_mk, kept_eta, Iter.state_done, Iter.state_fmt, Iter.state_trap, Whole.state_ran, Whole.state_stopped, Whole.state_denied] | split | with_reducible refine (foldl_kept _ ?_ _ _).trans ?_

theorem execFenceBumpDeferred_kept {s t : State} {x0 : Sys2Proof.FA} (h : execFenceBumpDeferred x0 s = .next t) : t.kept = s.kept := by
  simp only [execFenceBumpDeferred, Host.Outcome.next.injEq] at h
  subst h
  repeat' first | with_reducible rfl | with_reducible assumption | intro _ | simp only [State.notify_kept, State.setFenced_kept, kept_mk, kept_eta, Iter.state_done, Iter.state_fmt, Iter.state_trap, Whole.state_ran, Whole.state_stopped, Whole.state_denied] | split | with_reducible refine (foldl_kept _ ?_ _ _).trans ?_

@[simp] theorem State.reportSilence_kept (s : State) : (State.reportSilence s).kept = s.kept := by
  unfold State.reportSilence
  repeat' first | with_reducible rfl | with_reducible assumption | intro _ | simp only [State.sendCtrl_kept, kept_mk, kept_eta, Iter.state_done, Iter.state_fmt, Iter.state_trap, Whole.state_ran, Whole.state_stopped, Whole.state_denied] | split | with_reducible refine (foldl_kept _ ?_ _ _).trans ?_

@[simp] theorem State.decideDead_kept (s : State) : (State.decideDead s).kept = s.kept := by
  unfold State.decideDead
  repeat' first | with_reducible rfl | with_reducible assumption | intro _ | simp only [State.fenceParty_kept, State.raise_kept, kept_mk, kept_eta, Iter.state_done, Iter.state_fmt, Iter.state_trap, Whole.state_ran, Whole.state_stopped, Whole.state_denied] | split | with_reducible refine (foldl_kept _ ?_ _ _).trans ?_ | with_reducible refine (foldlB_kept _ ?_ _ _).trans ?_ | with_reducible refine (foldl1_kept _ ?_ _ _).trans ?_ | with_reducible refine (foldl2_kept _ ?_ _ _).trans ?_

@[simp] theorem State.carryNode_kept (s : State) : (State.carryNode s).kept = s.kept := by
  unfold State.carryNode
  repeat' first | with_reducible rfl | with_reducible assumption | intro _ | simp only [State.decideDead_kept, State.fenceParty_kept, State.raise_kept, kept_mk, kept_eta, Iter.state_done, Iter.state_fmt, Iter.state_trap, Whole.state_ran, Whole.state_stopped, Whole.state_denied] | split | with_reducible refine (foldl_kept _ ?_ _ _).trans ?_

@[simp] theorem State.goSilent_kept (s : State) (x1 : _) : (State.goSilent s x1).kept = s.kept := by
  unfold State.goSilent
  repeat' first | with_reducible rfl | with_reducible assumption | intro _ | simp only [State.decideDead_kept, State.modPort_kept, State.raise_kept, State.reportSilence_kept, kept_mk, kept_eta, Iter.state_done, Iter.state_fmt, Iter.state_trap, Whole.state_ran, Whole.state_stopped, Whole.state_denied] | split | with_reducible refine (foldl_kept _ ?_ _ _).trans ?_

theorem execHeartbeatSend_kept {s t : State} {x0 : Nat} (h : execHeartbeatSend x0 s = .next t) : t.kept = s.kept := by
  simp only [execHeartbeatSend, Host.Outcome.next.injEq] at h
  subst h
  repeat' first | with_reducible rfl | with_reducible assumption | intro _ | simp only [State.modPort_kept, State.sendOnPort_kept, kept_mk, kept_eta, Iter.state_done, Iter.state_fmt, Iter.state_trap, Whole.state_ran, Whole.state_stopped, Whole.state_denied] | split | with_reducible refine (foldl_kept _ ?_ _ _).trans ?_

theorem execHeartbeat_kept {s t : State} {x0 : Nat} {x1 : Nat} {x2 : Nat} {x3 : Sys2Proof.Byte} (h : execHeartbeat x0 x1 x2 x3 s = .next t) : t.kept = s.kept := by
  simp only [execHeartbeat, Host.Outcome.next.injEq] at h
  subst h
  repeat' first | with_reducible rfl | with_reducible assumption | intro _ | simp only [State.modPort_kept, State.reportSilence_kept, State.takeCtrl_kept, kept_mk, kept_eta, Iter.state_done, Iter.state_fmt, Iter.state_trap, Whole.state_ran, Whole.state_stopped, Whole.state_denied] | split | with_reducible refine (foldl_kept _ ?_ _ _).trans ?_

theorem execHeartbeatMiss_kept {s t : State} {x0 : Nat} (h : execHeartbeatMiss x0 s = .next t) : t.kept = s.kept := by
  simp only [execHeartbeatMiss, Host.Outcome.next.injEq] at h
  subst h
  repeat' first | with_reducible rfl | with_reducible assumption | intro _ | simp only [State.goSilent_kept, State.modPort_kept, kept_mk, kept_eta, Iter.state_done, Iter.state_fmt, Iter.state_trap, Whole.state_ran, Whole.state_stopped, Whole.state_denied] | split | with_reducible refine (foldl_kept _ ?_ _ _).trans ?_

theorem execStepEnd_kept {s t : State} {x0 : Nat} {x1 : Nat} {x2 : Sys2Proof.Byte} (h : execStepEnd x0 x1 x2 s = .next t) : t.kept = s.kept := by
  simp only [execStepEnd, Host.Outcome.next.injEq] at h
  subst h
  repeat' first | with_reducible rfl | with_reducible assumption | intro _ | simp only [State.modPort_kept, State.takeCtrl_kept, kept_mk, kept_eta, Iter.state_done, Iter.state_fmt, Iter.state_trap, Whole.state_ran, Whole.state_stopped, Whole.state_denied] | split | with_reducible refine (foldl_kept _ ?_ _ _).trans ?_

theorem execTwinHbSend_kept {s t : State} {x0 : Nat} (h : execTwinHbSend x0 s = .next t) : t.kept = s.kept := by
  simp only [execTwinHbSend, Host.Outcome.next.injEq] at h
  subst h
  repeat' first | with_reducible rfl | with_reducible assumption | intro _ | simp only [State.modPort_kept, State.sendOnPort_kept, kept_mk, kept_eta, Iter.state_done, Iter.state_fmt, Iter.state_trap, Whole.state_ran, Whole.state_stopped, Whole.state_denied] | split | with_reducible refine (foldl_kept _ ?_ _ _).trans ?_

theorem execTwinHb_kept {s t : State} {x0 : Nat} {x1 : Nat} {x2 : Nat} {x3 : BitVec 48} (h : execTwinHb x0 x1 x2 x3 s = .next t) : t.kept = s.kept := by
  simp only [execTwinHb, Host.Outcome.next.injEq] at h
  subst h
  repeat' first | with_reducible rfl | with_reducible assumption | intro _ | simp only [State.decideDead_kept, State.takeCtrl_kept, kept_mk, kept_eta, Iter.state_done, Iter.state_fmt, Iter.state_trap, Whole.state_ran, Whole.state_stopped, Whole.state_denied] | split | with_reducible refine (foldl_kept _ ?_ _ _).trans ?_

theorem execTwinSilent_kept {s t : State} (h : execTwinSilent s = .next t) : t.kept = s.kept := by
  simp only [execTwinSilent, Host.Outcome.next.injEq] at h
  subst h
  repeat' first | with_reducible rfl | with_reducible assumption | intro _ | simp only [State.carryNode_kept, State.modPort_kept, kept_mk, kept_eta, Iter.state_done, Iter.state_fmt, Iter.state_trap, Whole.state_ran, Whole.state_stopped, Whole.state_denied] | split | with_reducible refine (foldl_kept _ ?_ _ _).trans ?_ | with_reducible refine (foldlB_kept _ ?_ _ _).trans ?_ | with_reducible refine (foldl1_kept _ ?_ _ _).trans ?_ | with_reducible refine (foldl2_kept _ ?_ _ _).trans ?_

@[simp] theorem State.stopTwinB_kept (s : State) : (State.stopTwinB s).kept = s.kept := by
  unfold State.stopTwinB
  repeat' first | with_reducible rfl | with_reducible assumption | intro _ | simp only [State.abortAll_kept, State.raise_kept, kept_mk, kept_eta, Iter.state_done, Iter.state_fmt, Iter.state_trap, Whole.state_ran, Whole.state_stopped, Whole.state_denied] | split | with_reducible refine (foldl_kept _ ?_ _ _).trans ?_

theorem execTwinBWaitEnd_kept {s t : State} (h : execTwinBWaitEnd s = .next t) : t.kept = s.kept := by
  simp only [execTwinBWaitEnd, Host.Outcome.next.injEq] at h
  subst h
  repeat' first | with_reducible rfl | with_reducible assumption | intro _ | simp only [State.carryNode_kept, State.stopTwinB_kept, kept_mk, kept_eta, Iter.state_done, Iter.state_fmt, Iter.state_trap, Whole.state_ran, Whole.state_stopped, Whole.state_denied] | split | with_reducible refine (foldl_kept _ ?_ _ _).trans ?_

theorem execSilence_kept {s t : State} {x0 : Nat} {x1 : BitVec 48} (h : execSilence x0 x1 s = .next t) : t.kept = s.kept := by
  simp only [execSilence, Host.Outcome.next.injEq] at h
  subst h
  repeat' first | with_reducible rfl | with_reducible assumption | intro _ | simp only [State.decideDead_kept, State.takeCtrl_kept, kept_mk, kept_eta, Iter.state_done, Iter.state_fmt, Iter.state_trap, Whole.state_ran, Whole.state_stopped, Whole.state_denied] | split | with_reducible refine (foldl_kept _ ?_ _ _).trans ?_

@[simp] theorem State.admits_kept (s : State) (x1 : _) (x2 : _) (x3 : _) : (State.admits s x1 x2 x3).kept = s.kept := by
  unfold State.admits
  repeat' first | with_reducible rfl | with_reducible assumption | intro _ | simp only [State.modParty_kept, State.modPort_kept, State.rebuildRoutes_kept, State.reportSilence_kept, kept_mk, kept_eta, Iter.state_done, Iter.state_fmt, Iter.state_trap, Whole.state_ran, Whole.state_stopped, Whole.state_denied] | split | with_reducible refine (foldl_kept _ ?_ _ _).trans ?_

theorem execAdmitNotice_kept {s t : State} {x0 : Sys2Proof.FA} {x1 : Sys2Proof.FA} {x2 : BitVec 4} {x3 : Nat} (h : execAdmitNotice x0 x1 x2 x3 s = .next t) : t.kept = s.kept := by
  simp only [execAdmitNotice, Host.Outcome.next.injEq] at h
  subst h
  repeat' first | with_reducible rfl | with_reducible assumption | intro _ | simp only [State.admits_kept, State.takeCtrl_kept, kept_mk, kept_eta, Iter.state_done, Iter.state_fmt, Iter.state_trap, Whole.state_ran, Whole.state_stopped, Whole.state_denied] | split | with_reducible refine (foldl_kept _ ?_ _ _).trans ?_

@[simp] theorem State.admitParty_kept (s : State) (x1 : _) (x2 : _) : (State.admitParty s x1 x2).kept = s.kept := by
  unfold State.admitParty
  repeat' first | with_reducible rfl | with_reducible assumption | intro _ | simp only [State.admits_kept, State.notify_kept, kept_mk, kept_eta, Iter.state_done, Iter.state_fmt, Iter.state_trap, Whole.state_ran, Whole.state_stopped, Whole.state_denied] | split | with_reducible refine (foldl_kept _ ?_ _ _).trans ?_

@[simp] theorem State.linkChanged_kept (s : State) (x1 : _) (x2 : _) (x3 : _) (x4 : _) : (State.linkChanged s x1 x2 x3 x4).kept = s.kept := by
  unfold State.linkChanged
  repeat' first | with_reducible rfl | with_reducible assumption | intro _ | simp only [State.rebuildRoutes_kept, kept_mk, kept_eta, Iter.state_done, Iter.state_fmt, Iter.state_trap, Whole.state_ran, Whole.state_stopped, Whole.state_denied] | split | with_reducible refine (foldl_kept _ ?_ _ _).trans ?_

theorem execLinkNotice_kept {s t : State} {x0 : Sys2Proof.FA} {x1 : Sys2Proof.FA} {x2 : Nat} {x3 : Bool} {x4 : Bool} {x5 : Nat} (h : execLinkNotice x0 x1 x2 x3 x4 x5 s = .next t) : t.kept = s.kept := by
  simp only [execLinkNotice, Host.Outcome.next.injEq] at h
  subst h
  repeat' first | with_reducible rfl | with_reducible assumption | intro _ | simp only [State.linkChanged_kept, State.takeCtrl_kept, kept_mk, kept_eta, Iter.state_done, Iter.state_fmt, Iter.state_trap, Whole.state_ran, Whole.state_stopped, Whole.state_denied] | split | with_reducible refine (foldl_kept _ ?_ _ _).trans ?_

@[simp] theorem State.resilverOver_kept (s : State) : (State.resilverOver s).kept = s.kept := by
  unfold State.resilverOver
  repeat' first | with_reducible rfl | with_reducible assumption | intro _ | simp only [State.complete_kept, State.resilverFails_kept, kept_mk, kept_eta, Iter.state_done, Iter.state_fmt, Iter.state_trap, Whole.state_ran, Whole.state_stopped, Whole.state_denied] | split | with_reducible refine (foldl_kept _ ?_ _ _).trans ?_

@[simp] theorem State.resilverAnswer_kept (s : State) (x1 : _) (x2 : _) (x3 : _) : (State.resilverAnswer s x1 x2 x3).kept = s.kept := by
  unfold State.resilverAnswer
  repeat' first | with_reducible rfl | with_reducible assumption | intro _ | simp only [State.admitParty_kept, State.ok_kept, State.raise_kept, State.resilverOver_kept, kept_mk, kept_eta, Iter.state_done, Iter.state_fmt, Iter.state_trap, Whole.state_ran, Whole.state_stopped, Whole.state_denied] | split | with_reducible refine (foldl_kept _ ?_ _ _).trans ?_

theorem execDigest_kept {s t : State} {x0 : Nat} {x1 : Sys2Proof.Word} {x2 : BitVec 32} (h : execDigest x0 x1 x2 s = .next t) : t.kept = s.kept := by
  simp only [execDigest, Host.Outcome.next.injEq] at h
  subst h
  repeat' first | with_reducible rfl | with_reducible assumption | intro _ | simp only [State.exchange_kept, State.resilverAnswer_kept, State.takeCtrl_kept, kept_mk, kept_eta, Iter.state_done, Iter.state_fmt, Iter.state_trap, Whole.state_ran, Whole.state_stopped, Whole.state_denied] | split | with_reducible refine (foldl_kept _ ?_ _ _).trans ?_

@[simp] theorem State.sendHeal_kept (s : State) (x1 : _) : (State.sendHeal s x1).kept = s.kept := by
  unfold State.sendHeal
  repeat' first | with_reducible rfl | with_reducible assumption | intro _ | simp only [State.sendCtrl_kept, kept_mk, kept_eta, Iter.state_done, Iter.state_fmt, Iter.state_trap, Whole.state_ran, Whole.state_stopped, Whole.state_denied] | split | with_reducible refine (foldl_kept _ ?_ _ _).trans ?_

@[simp] theorem State.setHeal_kept (s : State) (x1 : _) : (State.setHeal s x1).kept = s.kept := by
  unfold State.setHeal
  repeat' first | with_reducible rfl | with_reducible assumption | intro _ | simp only [kept_mk, kept_eta, Iter.state_done, Iter.state_fmt, Iter.state_trap, Whole.state_ran, Whole.state_stopped, Whole.state_denied] | split | with_reducible refine (foldl_kept _ ?_ _ _).trans ?_

theorem execHealStart_kept {s t : State} (h : execHealStart s = .next t) : t.kept = s.kept := by
  simp only [execHealStart, Host.Outcome.next.injEq] at h
  subst h
  repeat' first | with_reducible rfl | with_reducible assumption | intro _ | simp only [State.healFails_kept, State.sendHeal_kept, State.setHeal_kept, kept_mk, kept_eta, Iter.state_done, Iter.state_fmt, Iter.state_trap, Whole.state_ran, Whole.state_stopped, Whole.state_denied] | split | with_reducible refine (foldl_kept _ ?_ _ _).trans ?_

theorem execHealRequestTimeout_kept {s t : State} (h : execHealRequestTimeout s = .next t) : t.kept = s.kept := by
  simp only [execHealRequestTimeout, Host.Outcome.next.injEq] at h
  subst h
  repeat' first | with_reducible rfl | with_reducible assumption | intro _ | simp only [State.sendHeal_kept, kept_mk, kept_eta, Iter.state_done, Iter.state_fmt, Iter.state_trap, Whole.state_ran, Whole.state_stopped, Whole.state_denied] | split | with_reducible refine (foldl_kept _ ?_ _ _).trans ?_

theorem execHealFail_kept {s t : State} {x0 : Sys2Proof.GranuleRef} {x1 : Sys2Proof.Byte} (h : execHealFail x0 x1 s = .next t) : t.kept = s.kept := by
  simp only [execHealFail, Host.Outcome.next.injEq] at h
  subst h
  repeat' first | with_reducible rfl | with_reducible assumption | intro _ | simp only [State.healFails_kept, State.takeCtrl_kept, kept_mk, kept_eta, Iter.state_done, Iter.state_fmt, Iter.state_trap, Whole.state_ran, Whole.state_stopped, Whole.state_denied] | split | with_reducible refine (foldl_kept _ ?_ _ _).trans ?_

@[simp] theorem State.takeTransfer_kept (s : State) (x1 : _) : (State.takeTransfer s x1).kept = s.kept := by
  unfold State.takeTransfer
  repeat' first | with_reducible rfl | with_reducible assumption | intro _ | simp only [State.takeInbox_kept, kept_mk, kept_eta, Iter.state_done, Iter.state_fmt, Iter.state_trap, Whole.state_ran, Whole.state_stopped, Whole.state_denied] | split | with_reducible refine (foldl_kept _ ?_ _ _).trans ?_

theorem execHealData_kept {s t : State} {x0 : Sys2Proof.GranuleRef} {x1 : List Sys2Proof.Byte} (h : execHealData x0 x1 s = .next t) : t.kept = s.kept := by
  simp only [execHealData, Host.Outcome.next.injEq] at h
  subst h
  repeat' first | with_reducible rfl | with_reducible assumption | intro _ | simp only [State.bump_kept, State.healFails_kept, State.memWrite_kept, State.putTables_kept, State.retire_kept, State.stateWrite_kept, State.takeTransfer_kept, kept_mk, kept_eta, Iter.state_done, Iter.state_fmt, Iter.state_trap, Whole.state_ran, Whole.state_stopped, Whole.state_denied] | split | with_reducible refine (foldl_kept _ ?_ _ _).trans ?_

@[simp] theorem State.refuseHeal_kept (s : State) (x1 : _) (x2 : _) (x3 : _) : (State.refuseHeal s x1 x2 x3).kept = s.kept := by
  unfold State.refuseHeal
  repeat' first | with_reducible rfl | with_reducible assumption | intro _ | simp only [State.sendCtrl_kept, kept_mk, kept_eta, Iter.state_done, Iter.state_fmt, Iter.state_trap, Whole.state_ran, Whole.state_stopped, Whole.state_denied] | split | with_reducible refine (foldl_kept _ ?_ _ _).trans ?_

theorem execHealRequest_kept {s t : State} {x0 : Sys2Proof.FA} {x1 : Nat} {x2 : Sys2Proof.GranuleRef} (h : execHealRequest x0 x1 x2 s = .next t) : t.kept = s.kept := by
  simp only [execHealRequest, Host.Outcome.next.injEq] at h
  subst h
  repeat' first | with_reducible rfl | with_reducible assumption | intro _ | simp only [State.fetchRange_kept, State.freshTx_kept, State.refuseHeal_kept, State.sendMessage_kept, State.takeInbox_kept, kept_mk, kept_eta, Iter.state_done, Iter.state_fmt, Iter.state_trap, Whole.state_ran, Whole.state_stopped, Whole.state_denied] | split | with_reducible refine (foldl_kept _ ?_ _ _).trans ?_

theorem execResilver_kept {s t : State} {x0 : Sys2Proof.Req} {x1 : Bool} (h : execResilver x0 x1 s = .next t) : t.kept = s.kept := by
  simp only [execResilver, Host.Outcome.next.injEq] at h
  subst h
  repeat' first | with_reducible rfl | with_reducible assumption | intro _ | simp only [State.fail_kept, State.freshTx_kept, State.sendMessage_kept, kept_mk, kept_eta, Iter.state_done, Iter.state_fmt, Iter.state_trap, Whole.state_ran, Whole.state_stopped, Whole.state_denied] | split | with_reducible refine (foldl_kept _ ?_ _ _).trans ?_

theorem execResilverCopyDone_kept {s t : State} (h : execResilverCopyDone s = .next t) : t.kept = s.kept := by
  simp only [execResilverCopyDone, Host.Outcome.next.injEq] at h
  subst h
  repeat' first | with_reducible rfl | with_reducible assumption | intro _ | simp only [State.fetchAll_kept, State.sendGranule_kept, kept_mk, kept_eta, Iter.state_done, Iter.state_fmt, Iter.state_trap, Whole.state_ran, Whole.state_stopped, Whole.state_denied] | split | with_reducible refine (foldl_kept _ ?_ _ _).trans ?_ | with_reducible refine (foldlB_kept _ ?_ _ _).trans ?_ | with_reducible refine (foldl1_kept _ ?_ _ _).trans ?_ | with_reducible refine (foldl2_kept _ ?_ _ _).trans ?_

@[simp] theorem State.transferBad_kept (s : State) : (State.transferBad s).kept = s.kept := by
  unfold State.transferBad
  repeat' first | with_reducible rfl | with_reducible assumption | intro _ | simp only [State.bump_kept, State.resilverOver_kept, kept_mk, kept_eta, Iter.state_done, Iter.state_fmt, Iter.state_trap, Whole.state_ran, Whole.state_stopped, Whole.state_denied] | split | with_reducible refine (foldl_kept _ ?_ _ _).trans ?_

theorem execControlRecordReceive_kept {s t : State} {x0 : Nat} {x1 : List Sys2Proof.Byte} (h : execControlRecordReceive x0 x1 s = .next t) : t.kept = s.kept := by
  simp only [execControlRecordReceive, Host.Outcome.next.injEq] at h
  subst h
  repeat' first | with_reducible rfl | with_reducible assumption | intro _ | simp only [State.takeTransfer_kept, State.transferBad_kept, kept_mk, kept_eta, Iter.state_done, Iter.state_fmt, Iter.state_trap, Whole.state_ran, Whole.state_stopped, Whole.state_denied] | split | with_reducible refine (foldl_kept _ ?_ _ _).trans ?_

theorem execGranuleReceive_kept {s t : State} {x0 : Sys2Proof.GranuleRef} {x1 : List Sys2Proof.Byte} (h : execGranuleReceive x0 x1 s = .next t) : t.kept = s.kept := by
  simp only [execGranuleReceive, Host.Outcome.next.injEq] at h
  subst h
  repeat' first | with_reducible rfl | with_reducible assumption | intro _ | simp only [State.stateWrite_kept, State.takeTransfer_kept, State.transferBad_kept, kept_mk, kept_eta, Iter.state_done, Iter.state_fmt, Iter.state_trap, Whole.state_ran, Whole.state_stopped, Whole.state_denied] | split | with_reducible refine (foldl_kept _ ?_ _ _).trans ?_

@[simp] theorem State.reserveKv_kept (s : State) (x1 : _) : (State.reserveKv s x1).kept = s.kept := by
  unfold State.reserveKv
  repeat' first | with_reducible rfl | with_reducible assumption | intro _ | simp only [State.modCtx_kept, kept_mk, kept_eta, Iter.state_done, Iter.state_fmt, Iter.state_trap, Whole.state_ran, Whole.state_stopped, Whole.state_denied] | split | with_reducible refine (foldl_kept _ ?_ _ _).trans ?_

@[simp] theorem State.install_kept (s : State) (x1 : _) (x2 : _) : (State.install s x1 x2).kept = s.kept := by
  unfold State.install
  repeat' first | with_reducible rfl | with_reducible assumption | intro _ | simp only [State.rebuildGroups_kept, State.removePlan_kept, State.reserveKv_kept, kept_mk, kept_eta, Iter.state_done, Iter.state_fmt, Iter.state_trap, Whole.state_ran, Whole.state_stopped, Whole.state_denied] | split | with_reducible refine (foldl_kept _ ?_ _ _).trans ?_

theorem execPlanInstall_kept {s t : State} {x0 : Sys2Proof.Req} {x1 : List Sys2Proof.Byte} (h : execPlanInstall x0 x1 s = .next t) : t.kept = s.kept := by
  simp only [execPlanInstall, Host.Outcome.next.injEq] at h
  subst h
  repeat' first | with_reducible rfl | with_reducible assumption | intro _ | simp only [State.fail_kept, State.install_kept, State.ok_kept, State.refuseAt_kept, kept_mk, kept_eta, Iter.state_done, Iter.state_fmt, Iter.state_trap, Whole.state_ran, Whole.state_stopped, Whole.state_denied] | split | with_reducible refine (foldl_kept _ ?_ _ _).trans ?_

theorem execPlanRemove_kept {s t : State} {x0 : Sys2Proof.Req} (h : execPlanRemove x0 s = .next t) : t.kept = s.kept := by
  simp only [execPlanRemove, Host.Outcome.next.injEq] at h
  subst h
  repeat' first | with_reducible rfl | with_reducible assumption | intro _ | simp only [State.fail_kept, State.ok_kept, State.removePlan_kept, State.settle_kept, kept_mk, kept_eta, Iter.state_done, Iter.state_fmt, Iter.state_trap, Whole.state_ran, Whole.state_stopped, Whole.state_denied] | split | with_reducible refine (foldl_kept _ ?_ _ _).trans ?_

@[simp] theorem State.nameTwin_kept (s : State) (x1 : _) : (State.nameTwin s x1).kept = s.kept := by
  unfold State.nameTwin
  repeat' first | with_reducible rfl | with_reducible assumption | intro _ | simp only [State.modParty_kept, kept_mk, kept_eta, Iter.state_done, Iter.state_fmt, Iter.state_trap, Whole.state_ran, Whole.state_stopped, Whole.state_denied] | split | with_reducible refine (foldl_kept _ ?_ _ _).trans ?_

@[simp] theorem State.relayout_kept (s : State) (x1 : _) : (State.relayout s x1).kept = s.kept := by
  unfold State.relayout
  repeat' first | with_reducible rfl | with_reducible assumption | intro _ | simp only [State.memClear_kept, State.stateWrite_kept, kept_mk, kept_eta, Iter.state_done, Iter.state_fmt, Iter.state_trap, Whole.state_ran, Whole.state_stopped, Whole.state_denied] | split | with_reducible refine (foldl_kept _ ?_ _ _).trans ?_ | with_reducible refine (foldlB_kept _ ?_ _ _).trans ?_ | with_reducible refine (foldl1_kept _ ?_ _ _).trans ?_ | with_reducible refine (foldl2_kept _ ?_ _ _).trans ?_

@[simp] theorem State.defineShard_kept (s : State) (x1 : _) : (State.defineShard s x1).kept = s.kept := by
  unfold State.defineShard
  repeat' first | with_reducible rfl | with_reducible assumption | intro _ | simp only [State.relayout_kept, State.setHeader_kept, kept_mk, kept_eta, Iter.state_done, Iter.state_fmt, Iter.state_trap, Whole.state_ran, Whole.state_stopped, Whole.state_denied] | split | with_reducible refine (foldl_kept _ ?_ _ _).trans ?_

@[simp] theorem State.defineSeeds_kept (s : State) (x1 : _) (x2 : _) : (State.defineSeeds s x1 x2).kept = s.kept := by
  unfold State.defineSeeds
  repeat' first | with_reducible rfl | with_reducible assumption | intro _ | simp only [State.fail_kept, State.ok_kept, kept_mk, kept_eta, Iter.state_done, Iter.state_fmt, Iter.state_trap, Whole.state_ran, Whole.state_stopped, Whole.state_denied] | split | with_reducible refine (foldl_kept _ ?_ _ _).trans ?_

@[simp] theorem State.removeShard_kept (s : State) (x1 : _) (x2 : _) : (State.removeShard s x1 x2).kept = s.kept := by
  unfold State.removeShard
  repeat' first | with_reducible rfl | with_reducible assumption | intro _ | simp only [State.fail_kept, State.fetchAll_kept, State.ok_kept, State.relayout_kept, kept_mk, kept_eta, Iter.state_done, Iter.state_fmt, Iter.state_trap, Whole.state_ran, Whole.state_stopped, Whole.state_denied] | split | with_reducible refine (foldl_kept _ ?_ _ _).trans ?_

theorem execStateDefine_kept {s t : State} {x0 : Sys2Proof.Req} {x1 : List Sys2Proof.Byte} (h : execStateDefine x0 x1 s = .next t) : t.kept = s.kept := by
  simp only [execStateDefine, Host.Outcome.next.injEq] at h
  subst h
  repeat' first | with_reducible rfl | with_reducible assumption | intro _ | simp only [State.defineSeeds_kept, State.defineShard_kept, State.fail_kept, State.fetchAll_kept, State.ok_kept, State.refuseAt_kept, State.removeShard_kept, kept_mk, kept_eta, Iter.state_done, Iter.state_fmt, Iter.state_trap, Whole.state_ran, Whole.state_stopped, Whole.state_denied] | split | with_reducible refine (foldl_kept _ ?_ _ _).trans ?_

theorem State.rangeRefuse_kept {s t : State} {rq : Req} {b : Bool} (h : s.rangeRefuse rq b = some t) : t.kept = s.kept := by
  have g : ∀ (c : Prop) [Decidable c] (x y : Option State), (∀ u, x = some u → u.kept = s.kept) → (∀ u, y = some u → u.kept = s.kept) →
      ∀ u, (if c then x else y) = some u → u.kept = s.kept := by
    intro c _ x y hx hy u hu
    split at hu
    · exact hx u hu
    · exact hy u hu
  have f : ∀ x u : State, x.kept = s.kept → some x = some u → u.kept = s.kept := by
    intro x u hx hu
    cases hu
    exact hx
  revert h
  unfold State.rangeRefuse
  refine g _ _ _ (fun u => f _ u ?_) (fun u => ?_) t
  · simp only [State.refuseAt_kept]
  · split
    · exact f _ u (by simp only [State.fail_kept])
    · exact g _ _ _ (fun u => f _ u (by simp only [State.fail_kept])) (fun u hu => by cases hu) u

theorem execStateImport_kept {s t : State} {x0 : Sys2Proof.Req} {x1 : List Sys2Proof.Byte} (h : execStateImport x0 x1 s = .next t) : t.kept = s.kept := by
  simp only [execStateImport, Host.Outcome.next.injEq] at h
  subst h
  repeat' first | with_reducible rfl | with_reducible assumption | intro _ | simp only [State.fail_kept, kept_mk, kept_eta, Iter.state_done, Iter.state_fmt, Iter.state_trap, Whole.state_ran, Whole.state_stopped, Whole.state_denied] | with_reducible refine (State.rangeRefuse_kept (by assumption)).trans ?_ | split | with_reducible refine (foldl_kept _ ?_ _ _).trans ?_

@[simp] theorem State.putRange_kept (s : State) (a : Nat) (l : List (Nat × Nat)) (b : List Byte) : (s.putRange a l b).kept = s.kept := by
  induction l generalizing s b with
  | nil => rfl
  | cons e t ih =>
    obtain ⟨o, n⟩ := e
    rw [State.putRange, ih, State.stateWrite_kept]

theorem execStateImportDone_kept {s t : State} {x0 : BitVec 32} (h : execStateImportDone x0 s = .next t) : t.kept = s.kept := by
  simp only [execStateImportDone, Host.Outcome.next.injEq] at h
  subst h
  repeat' first | with_reducible rfl | with_reducible assumption | intro _ | simp only [State.fail_kept, State.fetchAll_kept, State.ok_kept, State.putRange_kept, kept_mk, kept_eta, Iter.state_done, Iter.state_fmt, Iter.state_trap, Whole.state_ran, Whole.state_stopped, Whole.state_denied] | split | with_reducible refine (foldl_kept _ ?_ _ _).trans ?_

theorem execStateExport_kept {s t : State} {x0 : Sys2Proof.Req} (h : execStateExport x0 s = .next t) : t.kept = s.kept := by
  simp only [execStateExport, Host.Outcome.next.injEq] at h
  subst h
  repeat' first | with_reducible rfl | with_reducible assumption | intro _ | simp only [State.fail_kept, kept_mk, kept_eta, Iter.state_done, Iter.state_fmt, Iter.state_trap, Whole.state_ran, Whole.state_stopped, Whole.state_denied] | with_reducible refine (State.rangeRefuse_kept (by assumption)).trans ?_ | split | with_reducible refine (foldl_kept _ ?_ _ _).trans ?_

theorem execStateExportDone_kept {s t : State} {x0 : BitVec 32} (h : execStateExportDone x0 s = .next t) : t.kept = s.kept := by
  simp only [execStateExportDone, Host.Outcome.next.injEq] at h
  subst h
  repeat' first | with_reducible rfl | with_reducible assumption | intro _ | simp only [State.answer_kept, State.fail_kept, State.fetchAll_kept, kept_mk, kept_eta, Iter.state_done, Iter.state_fmt, Iter.state_trap, Whole.state_ran, Whole.state_stopped, Whole.state_denied] | split | with_reducible refine (foldl_kept _ ?_ _ _).trans ?_

theorem execLedgerQuery_kept {s t : State} {x0 : Sys2Proof.Req} (h : execLedgerQuery x0 s = .next t) : t.kept = s.kept := by
  simp only [execLedgerQuery, Host.Outcome.next.injEq] at h
  subst h
  repeat' first | with_reducible rfl | with_reducible assumption | intro _ | simp only [State.answer_kept, State.fail_kept, kept_mk, kept_eta, Iter.state_done, Iter.state_fmt, Iter.state_trap, Whole.state_ran, Whole.state_stopped, Whole.state_denied] | split | with_reducible refine (foldl_kept _ ?_ _ _).trans ?_

@[simp] theorem State.releaseStored_kept (s : State) : (State.releaseStored s).kept = s.kept := by
  unfold State.releaseStored
  repeat' first | with_reducible rfl | with_reducible assumption | intro _ | simp only [kept_mk, kept_eta, Iter.state_done, Iter.state_fmt, Iter.state_trap, Whole.state_ran, Whole.state_stopped, Whole.state_denied] | split | with_reducible refine (foldl_kept _ ?_ _ _).trans ?_

@[simp] theorem State.rollBack_kept (s : State) : (State.rollBack s).kept = s.kept := by
  unfold State.rollBack
  repeat' first | with_reducible rfl | with_reducible assumption | intro _ | simp only [State.abortAll_kept, State.bump_kept, State.clearSlots_kept, State.discardStep_kept, State.releaseStored_kept, kept_mk, kept_eta, Iter.state_done, Iter.state_fmt, Iter.state_trap, Whole.state_ran, Whole.state_stopped, Whole.state_denied] | split | with_reducible refine (foldl_kept _ ?_ _ _).trans ?_

theorem execRollback_kept {s t : State} {x0 : Sys2Proof.Req} (h : execRollback x0 s = .next t) : t.kept = s.kept := by
  simp only [execRollback, Host.Outcome.next.injEq] at h
  subst h
  repeat' first | with_reducible rfl | with_reducible assumption | intro _ | simp only [State.commit_kept, State.fail_kept, State.ok_kept, State.releaseStored_kept, State.rollBack_kept, State.settle_kept, kept_mk, kept_eta, Iter.state_done, Iter.state_fmt, Iter.state_trap, Whole.state_ran, Whole.state_stopped, Whole.state_denied] | split | with_reducible refine (foldl_kept _ ?_ _ _).trans ?_

theorem execFence_kept {s t : State} {x0 : Sys2Proof.Req} (h : execFence x0 s = .next t) : t.kept = s.kept := by
  simp only [execFence, Host.Outcome.next.injEq] at h
  subst h
  repeat' first | with_reducible rfl | with_reducible assumption | intro _ | simp only [State.fail_kept, State.fenceParty_kept, State.ok_kept, kept_mk, kept_eta, Iter.state_done, Iter.state_fmt, Iter.state_trap, Whole.state_ran, Whole.state_stopped, Whole.state_denied] | split | with_reducible refine (foldl_kept _ ?_ _ _).trans ?_

theorem execAbort_kept {s t : State} {x0 : Sys2Proof.Req} (h : execAbort x0 s = .next t) : t.kept = s.kept := by
  simp only [execAbort, Host.Outcome.next.injEq] at h
  subst h
  repeat' first | with_reducible rfl | with_reducible assumption | intro _ | simp only [State.fail_kept, State.failInstance_kept, State.ok_kept, State.settle_kept, kept_mk, kept_eta, Iter.state_done, Iter.state_fmt, Iter.state_trap, Whole.state_ran, Whole.state_stopped, Whole.state_denied] | split | with_reducible refine (foldl_kept _ ?_ _ _).trans ?_

theorem execGateConfig_kept {s t : State} {x0 : Sys2Proof.Req} {x1 : List Sys2Proof.Byte} (h : execGateConfig x0 x1 s = .next t) : t.kept = s.kept := by
  simp only [execGateConfig, Host.Outcome.next.injEq] at h
  subst h
  repeat' first | with_reducible rfl | with_reducible assumption | intro _ | simp only [State.modSched_kept, State.ok_kept, State.refuseAt_kept, kept_mk, kept_eta, Iter.state_done, Iter.state_fmt, Iter.state_trap, Whole.state_ran, Whole.state_stopped, Whole.state_denied] | split | with_reducible refine (foldl_kept _ ?_ _ _).trans ?_

@[simp] theorem State.setMeter_kept (s : State) (x1 : _) (x2 : _) (x3 : _) (x4 : _) : (State.setMeter s x1 x2 x3 x4).kept = s.kept := by
  unfold State.setMeter
  repeat' first | with_reducible rfl | with_reducible assumption | intro _ | simp only [State.modSched_kept, State.wr_kept, kept_mk, kept_eta, Iter.state_done, Iter.state_fmt, Iter.state_trap, Whole.state_ran, Whole.state_stopped, Whole.state_denied] | split | with_reducible refine (foldl_kept _ ?_ _ _).trans ?_

theorem execMeterConfig_kept {s t : State} {x0 : Sys2Proof.Req} (h : execMeterConfig x0 s = .next t) : t.kept = s.kept := by
  simp only [execMeterConfig, Host.Outcome.next.injEq] at h
  subst h
  repeat' first | with_reducible rfl | with_reducible assumption | intro _ | simp only [State.ok_kept, State.refuseAt_kept, State.setMeter_kept, kept_mk, kept_eta, Iter.state_done, Iter.state_fmt, Iter.state_trap, Whole.state_ran, Whole.state_stopped, Whole.state_denied] | split | with_reducible refine (foldl_kept _ ?_ _ _).trans ?_

theorem execLogConfig_kept {s t : State} {x0 : Sys2Proof.Req} {x1 : List Sys2Proof.Byte} (h : execLogConfig x0 x1 s = .next t) : t.kept = s.kept := by
  simp only [execLogConfig, Host.Outcome.next.injEq] at h
  subst h
  repeat' first | with_reducible rfl | with_reducible assumption | intro _ | simp only [State.fail_kept, State.ok_kept, State.raise_kept, State.refuseAt_kept, kept_mk, kept_eta, Iter.state_done, Iter.state_fmt, Iter.state_trap, Whole.state_ran, Whole.state_stopped, Whole.state_denied] | split | with_reducible refine (foldl_kept _ ?_ _ _).trans ?_

@[simp] theorem State.startWipe_kept (s : State) (x1 : _) : (State.startWipe s x1).kept = s.kept := by
  unfold State.startWipe
  repeat' first | with_reducible rfl | with_reducible assumption | intro _ | simp only [kept_mk, kept_eta, Iter.state_done, Iter.state_fmt, Iter.state_trap, Whole.state_ran, Whole.state_stopped, Whole.state_denied] | split | with_reducible refine (foldl_kept _ ?_ _ _).trans ?_

@[simp] theorem State.wiped_kept (s : State) : (State.wiped s).kept = s.kept := by
  unfold State.wiped
  repeat' first | with_reducible rfl | with_reducible assumption | intro _ | simp only [State.removePlan_kept, kept_mk, kept_eta, Iter.state_done, Iter.state_fmt, Iter.state_trap, Whole.state_ran, Whole.state_stopped, Whole.state_denied] | split | with_reducible refine (foldl_kept _ ?_ _ _).trans ?_ | with_reducible refine (foldlB_kept _ ?_ _ _).trans ?_ | with_reducible refine (foldl1_kept _ ?_ _ _).trans ?_ | with_reducible refine (foldl2_kept _ ?_ _ _).trans ?_

theorem execWipe_kept {s t : State} {x0 : Sys2Proof.Req} (h : execWipe x0 s = .next t) : t.kept = s.kept := by
  simp only [execWipe, Host.Outcome.next.injEq] at h
  subst h
  repeat' first | with_reducible rfl | with_reducible assumption | intro _ | simp only [State.fail_kept, State.startWipe_kept, kept_mk, kept_eta, Iter.state_done, Iter.state_fmt, Iter.state_trap, Whole.state_ran, Whole.state_stopped, Whole.state_denied] | split | with_reducible refine (foldl_kept _ ?_ _ _).trans ?_

theorem execWipeDone_kept {s t : State} (h : execWipeDone s = .next t) : t.kept = s.kept := by
  simp only [execWipeDone, Host.Outcome.next.injEq] at h
  subst h
  repeat' first | with_reducible rfl | with_reducible assumption | intro _ | simp only [State.ok_kept, State.wiped_kept, kept_mk, kept_eta, Iter.state_done, Iter.state_fmt, Iter.state_trap, Whole.state_ran, Whole.state_stopped, Whole.state_denied] | split | with_reducible refine (foldl_kept _ ?_ _ _).trans ?_

@[simp] theorem State.reportLinks_kept (s : State) : (State.reportLinks s).kept = s.kept := by
  unfold State.reportLinks
  repeat' first | with_reducible rfl | with_reducible assumption | intro _ | simp only [State.linkChanged_kept, State.notify_kept, State.rebuildRoutes_kept, kept_mk, kept_eta, Iter.state_done, Iter.state_fmt, Iter.state_trap, Whole.state_ran, Whole.state_stopped, Whole.state_denied] | split | with_reducible refine (foldl_kept _ ?_ _ _).trans ?_ | with_reducible refine (foldlB_kept _ ?_ _ _).trans ?_ | with_reducible refine (foldl1_kept _ ?_ _ _).trans ?_ | with_reducible refine (foldl2_kept _ ?_ _ _).trans ?_

@[simp] theorem State.endCharges_kept (s : State) (x1 : _) : (State.endCharges s x1).kept = s.kept := by
  unfold State.endCharges
  repeat' first | with_reducible rfl | with_reducible assumption | intro _ | simp only [kept_mk, kept_eta, Iter.state_done, Iter.state_fmt, Iter.state_trap, Whole.state_ran, Whole.state_stopped, Whole.state_denied] | split | with_reducible refine (foldl_kept _ ?_ _ _).trans ?_

@[simp] theorem State.leaveUp_kept (s : State) (x1 : _) (x2 : _) : (State.leaveUp s x1 x2).kept = s.kept := by
  unfold State.leaveUp
  repeat' first | with_reducible rfl | with_reducible assumption | intro _ | simp only [State.endCharges_kept, State.goSilent_kept, State.modPort_kept, State.resilverOver_kept, kept_mk, kept_eta, Iter.state_done, Iter.state_fmt, Iter.state_trap, Whole.state_ran, Whole.state_stopped, Whole.state_denied] | split | with_reducible refine (foldl_kept _ ?_ _ _).trans ?_

@[simp] theorem State.portFails_kept (s : State) (x1 : _) (x2 : _) : (State.portFails s x1 x2).kept = s.kept := by
  unfold State.portFails
  repeat' first | with_reducible rfl | with_reducible assumption | intro _ | simp only [State.leaveUp_kept, State.modPort_kept, State.raise_kept, State.reportLinks_kept, kept_mk, kept_eta, Iter.state_done, Iter.state_fmt, Iter.state_trap, Whole.state_ran, Whole.state_stopped, Whole.state_denied] | split | with_reducible refine (foldl_kept _ ?_ _ _).trans ?_

@[simp] theorem State.sendControl_kept (s : State) (x1 : _) (x2 : _) : (State.sendControl s x1 x2).kept = s.kept := by
  unfold State.sendControl
  repeat' first | with_reducible rfl | with_reducible assumption | intro _ | simp only [State.emit_kept, kept_mk, kept_eta, Iter.state_done, Iter.state_fmt, Iter.state_trap, Whole.state_ran, Whole.state_stopped, Whole.state_denied] | split | with_reducible refine (foldl_kept _ ?_ _ _).trans ?_

@[simp] theorem State.train_kept (s : State) (x1 : _) : (State.train s x1).kept = s.kept := by
  unfold State.train
  repeat' first | with_reducible rfl | with_reducible assumption | intro _ | simp only [State.emit_kept, State.modPort_kept, State.sendControl_kept, kept_mk, kept_eta, Iter.state_done, Iter.state_fmt, Iter.state_trap, Whole.state_ran, Whole.state_stopped, Whole.state_denied] | split | with_reducible refine (foldl_kept _ ?_ _ _).trans ?_

@[simp] theorem State.retrain_kept (s : State) (x1 : _) : (State.retrain s x1).kept = s.kept := by
  unfold State.retrain
  repeat' first | with_reducible rfl | with_reducible assumption | intro _ | simp only [State.modPort_kept, State.train_kept, kept_mk, kept_eta, Iter.state_done, Iter.state_fmt, Iter.state_trap, Whole.state_ran, Whole.state_stopped, Whole.state_denied] | split | with_reducible refine (foldl_kept _ ?_ _ _).trans ?_

@[simp] theorem State.failAndTrain_kept (s : State) (x1 : _) : (State.failAndTrain s x1).kept = s.kept := by
  unfold State.failAndTrain
  repeat' first | with_reducible rfl | with_reducible assumption | intro _ | simp only [State.portFails_kept, State.retrain_kept, kept_mk, kept_eta, Iter.state_done, Iter.state_fmt, Iter.state_trap, Whole.state_ran, Whole.state_stopped, Whole.state_denied] | split | with_reducible refine (foldl_kept _ ?_ _ _).trans ?_

theorem execDataFrameReceive_kept {s t : State} {x0 : Nat} {x1 : List Sys2Proof.Byte} (h : execDataFrameReceive x0 x1 s = .next t) : t.kept = s.kept := by
  simp only [execDataFrameReceive, Host.Outcome.next.injEq] at h
  subst h
  repeat' first | with_reducible rfl | with_reducible assumption | intro _ | simp only [State.bump_kept, State.modPort_kept, State.sendControl_kept, kept_mk, kept_eta, Iter.state_done, Iter.state_fmt, Iter.state_trap, Whole.state_ran, Whole.state_stopped, Whole.state_denied] | split | with_reducible refine (foldl_kept _ ?_ _ _).trans ?_

@[simp] theorem State.sendData_kept (s : State) (x1 : _) (x2 : _) (x3 : _) : (State.sendData s x1 x2 x3).kept = s.kept := by
  unfold State.sendData
  repeat' first | with_reducible rfl | with_reducible assumption | intro _ | simp only [State.emit_kept, State.modPort_kept, kept_mk, kept_eta, Iter.state_done, Iter.state_fmt, Iter.state_trap, Whole.state_ran, Whole.state_stopped, Whole.state_denied] | split | with_reducible refine (foldl_kept _ ?_ _ _).trans ?_

@[simp] theorem State.endsLate_kept (s : State) (x1 : _) (x2 : _) (x3 : _) : (State.endsLate s x1 x2 x3).kept = s.kept := by
  unfold State.endsLate
  repeat' first | with_reducible rfl | with_reducible assumption | intro _ | simp only [State.bump_kept, State.modSched_kept, kept_mk, kept_eta, Iter.state_done, Iter.state_fmt, Iter.state_trap, Whole.state_ran, Whole.state_stopped, Whole.state_denied] | split | with_reducible refine (foldl_kept _ ?_ _ _).trans ?_

@[simp] theorem State.resendFrame_kept (s : State) (x1 : _) (x2 : _) : (State.resendFrame s x1 x2).kept = s.kept := by
  unfold State.resendFrame
  repeat' first | with_reducible rfl | with_reducible assumption | intro _ | simp only [State.endsLate_kept, State.sendData_kept, kept_mk, kept_eta, Iter.state_done, Iter.state_fmt, Iter.state_trap, Whole.state_ran, Whole.state_stopped, Whole.state_denied] | split | with_reducible refine (foldl_kept _ ?_ _ _).trans ?_

@[simp] theorem State.resendFrom_kept (s : State) (x1 : _) (x2 : _) : (State.resendFrom s x1 x2).kept = s.kept := by
  unfold State.resendFrom
  repeat' first | with_reducible rfl | with_reducible assumption | intro _ | simp only [State.bump_kept, State.failAndTrain_kept, State.modPort_kept, State.resendFrame_kept, kept_mk, kept_eta, Iter.state_done, Iter.state_fmt, Iter.state_trap, Whole.state_ran, Whole.state_stopped, Whole.state_denied] | split | with_reducible refine (foldl_kept _ ?_ _ _).trans ?_ | with_reducible refine (foldlB_kept _ ?_ _ _).trans ?_ | with_reducible refine (foldl1_kept _ ?_ _ _).trans ?_ | with_reducible refine (foldl2_kept _ ?_ _ _).trans ?_

@[simp] theorem State.linkNak_kept (s : State) (x1 : _) (x2 : _) : (State.linkNak s x1 x2).kept = s.kept := by
  unfold State.linkNak
  repeat' first | with_reducible rfl | with_reducible assumption | intro _ | simp only [State.modPort_kept, State.resendFrom_kept, kept_mk, kept_eta, Iter.state_done, Iter.state_fmt, Iter.state_trap, Whole.state_ran, Whole.state_stopped, Whole.state_denied] | split | with_reducible refine (foldl_kept _ ?_ _ _).trans ?_

@[simp] theorem State.startDegrade_kept (s : State) (x1 : _) : (State.startDegrade s x1).kept = s.kept := by
  unfold State.startDegrade
  repeat' first | with_reducible rfl | with_reducible assumption | intro _ | simp only [State.modPort_kept, State.sendControl_kept, kept_mk, kept_eta, Iter.state_done, Iter.state_fmt, Iter.state_trap, Whole.state_ran, Whole.state_stopped, Whole.state_denied] | split | with_reducible refine (foldl_kept _ ?_ _ _).trans ?_

@[simp] theorem State.finishDegrade_kept (s : State) (x1 : _) (x2 : _) : (State.finishDegrade s x1 x2).kept = s.kept := by
  unfold State.finishDegrade
  repeat' first | with_reducible rfl | with_reducible assumption | intro _ | simp only [State.bump_kept, State.modPort_kept, State.portFails_kept, kept_mk, kept_eta, Iter.state_done, Iter.state_fmt, Iter.state_trap, Whole.state_ran, Whole.state_stopped, Whole.state_denied] | split | with_reducible refine (foldl_kept _ ?_ _ _).trans ?_

@[simp] theorem State.degradeFrame_kept (s : State) (x1 : _) (x2 : _) : (State.degradeFrame s x1 x2).kept = s.kept := by
  unfold State.degradeFrame
  repeat' first | with_reducible rfl | with_reducible assumption | intro _ | simp only [State.finishDegrade_kept, State.startDegrade_kept, kept_mk, kept_eta, Iter.state_done, Iter.state_fmt, Iter.state_trap, Whole.state_ran, Whole.state_stopped, Whole.state_denied] | split | with_reducible refine (foldl_kept _ ?_ _ _).trans ?_

theorem execControlFrameReceive_kept {s t : State} {x0 : Nat} {x1 : List Sys2Proof.Byte} (h : execControlFrameReceive x0 x1 s = .next t) : t.kept = s.kept := by
  simp only [execControlFrameReceive, Host.Outcome.next.injEq] at h
  subst h
  repeat' first | with_reducible rfl | with_reducible assumption | intro _ | simp only [State.bump_kept, State.degradeFrame_kept, State.linkNak_kept, State.modPort_kept, State.portFails_kept, State.raise_kept, kept_mk, kept_eta, Iter.state_done, Iter.state_fmt, Iter.state_trap, Whole.state_ran, Whole.state_stopped, Whole.state_denied] | split | with_reducible refine (foldl_kept _ ?_ _ _).trans ?_

theorem execLinkAckTimeout_kept {s t : State} {x0 : Nat} (h : execLinkAckTimeout x0 s = .next t) : t.kept = s.kept := by
  simp only [execLinkAckTimeout, Host.Outcome.next.injEq] at h
  subst h
  repeat' first | with_reducible rfl | with_reducible assumption | intro _ | simp only [State.resendFrom_kept, kept_mk, kept_eta, Iter.state_done, Iter.state_fmt, Iter.state_trap, Whole.state_ran, Whole.state_stopped, Whole.state_denied] | split | with_reducible refine (foldl_kept _ ?_ _ _).trans ?_

theorem execControlSlotLoss_kept {s t : State} {x0 : Nat} (h : execControlSlotLoss x0 s = .next t) : t.kept = s.kept := by
  simp only [execControlSlotLoss, Host.Outcome.next.injEq] at h
  subst h
  repeat' first | with_reducible rfl | with_reducible assumption | intro _ | simp only [State.failAndTrain_kept, State.startDegrade_kept, kept_mk, kept_eta, Iter.state_done, Iter.state_fmt, Iter.state_trap, Whole.state_ran, Whole.state_stopped, Whole.state_denied] | split | with_reducible refine (foldl_kept _ ?_ _ _).trans ?_

theorem execLaneFail_kept {s t : State} {x0 : Nat} {x1 : Nat} (h : execLaneFail x0 x1 s = .next t) : t.kept = s.kept := by
  simp only [execLaneFail, Host.Outcome.next.injEq] at h
  subst h
  repeat' first | with_reducible rfl | with_reducible assumption | intro _ | simp only [State.modPort_kept, State.portFails_kept, State.startDegrade_kept, kept_mk, kept_eta, Iter.state_done, Iter.state_fmt, Iter.state_trap, Whole.state_ran, Whole.state_stopped, Whole.state_denied] | split | with_reducible refine (foldl_kept _ ?_ _ _).trans ?_

theorem execPortUp_kept {s t : State} {x0 : Nat} {x1 : Sys2Proof.PeerReport} (h : execPortUp x0 x1 s = .next t) : t.kept = s.kept := by
  simp only [execPortUp, Host.Outcome.next.injEq] at h
  subst h
  repeat' first | with_reducible rfl | with_reducible assumption | intro _ | simp only [State.bump_kept, State.modPort_kept, State.raise_kept, State.reportLinks_kept, kept_mk, kept_eta, Iter.state_done, Iter.state_fmt, Iter.state_trap, Whole.state_ran, Whole.state_stopped, Whole.state_denied] | split | with_reducible refine (foldl_kept _ ?_ _ _).trans ?_

theorem execLinkTrainFail_kept {s t : State} {x0 : Nat} (h : execLinkTrainFail x0 s = .next t) : t.kept = s.kept := by
  simp only [execLinkTrainFail, Host.Outcome.next.injEq] at h
  subst h
  repeat' first | with_reducible rfl | with_reducible assumption | intro _ | simp only [State.raise_kept, kept_mk, kept_eta, Iter.state_done, Iter.state_fmt, Iter.state_trap, Whole.state_ran, Whole.state_stopped, Whole.state_denied] | split | with_reducible refine (foldl_kept _ ?_ _ _).trans ?_

theorem execPortDown_kept {s t : State} {x0 : Nat} (h : execPortDown x0 s = .next t) : t.kept = s.kept := by
  simp only [execPortDown, Host.Outcome.next.injEq] at h
  subst h
  repeat' first | with_reducible rfl | with_reducible assumption | intro _ | simp only [State.portFails_kept, kept_mk, kept_eta, Iter.state_done, Iter.state_fmt, Iter.state_trap, Whole.state_ran, Whole.state_stopped, Whole.state_denied] | split | with_reducible refine (foldl_kept _ ?_ _ _).trans ?_

theorem execPortRetrainTimer_kept {s t : State} {x0 : Nat} (h : execPortRetrainTimer x0 s = .next t) : t.kept = s.kept := by
  simp only [execPortRetrainTimer, Host.Outcome.next.injEq] at h
  subst h
  repeat' first | with_reducible rfl | with_reducible assumption | intro _ | simp only [State.retrain_kept, kept_mk, kept_eta, Iter.state_done, Iter.state_fmt, Iter.state_trap, Whole.state_ran, Whole.state_stopped, Whole.state_denied] | split | with_reducible refine (foldl_kept _ ?_ _ _).trans ?_

@[simp] theorem State.configPort_kept (s : State) (x1 : _) (x2 : _) (x3 : _) (x4 : _) : (State.configPort s x1 x2 x3 x4).kept = s.kept := by
  unfold State.configPort
  repeat' first | with_reducible rfl | with_reducible assumption | intro _ | simp only [State.leaveUp_kept, State.reportSilence_kept, State.setPort_kept, State.train_kept, State.wr_kept, kept_mk, kept_eta, Iter.state_done, Iter.state_fmt, Iter.state_trap, Whole.state_ran, Whole.state_stopped, Whole.state_denied] | split | with_reducible refine (foldl_kept _ ?_ _ _).trans ?_

theorem execPortConfig_kept {s t : State} {x0 : Sys2Proof.Req} (h : execPortConfig x0 s = .next t) : t.kept = s.kept := by
  simp only [execPortConfig, Host.Outcome.next.injEq] at h
  subst h
  repeat' first | with_reducible rfl | with_reducible assumption | intro _ | simp only [State.configPort_kept, State.leaveUp_kept, State.ok_kept, State.refuseAt_kept, State.reportLinks_kept, State.setPort_kept, kept_mk, kept_eta, Iter.state_done, Iter.state_fmt, Iter.state_trap, Whole.state_ran, Whole.state_stopped, Whole.state_denied] | split | with_reducible refine (foldl_kept _ ?_ _ _).trans ?_

@[simp] theorem State.meterCell_kept (s : State) (x1 : _) (x2 : _) : (State.meterCell s x1 x2).2.kept = s.kept := by
  unfold State.meterCell
  repeat' first | with_reducible rfl | with_reducible assumption | intro _ | simp only [State.bump_kept, State.modSched_kept, kept_mk, kept_eta, Iter.state_done, Iter.state_fmt, Iter.state_trap, Whole.state_ran, Whole.state_stopped, Whole.state_denied] | split | with_reducible refine (foldl_kept _ ?_ _ _).trans ?_

theorem State.colourFate_kept {s t : State} {p : Nat} {c : Cell} (h : s.colourFate p c = some t) : t.kept = s.kept := by
  simp only [State.colourFate] at h
  split at h
  · cases h; simp only [State.bump_kept]
  · split at h
    · cases h; simp only [State.bump_kept]
    · cases h

theorem State.admitCell_kept {s t : State} {p : Nat} {c : Cell} (h : s.admitCell p c = some t) : t.kept = s.kept := by
  have hr : (if s.inPassing c = true then s.exchPassing c else (s, true)).1.kept = s.kept := by
    split
    · rw [State.exchPassing_kept]
    · rfl
  simp only [State.admitCell] at h
  generalize (if s.inPassing c = true then s.exchPassing c else (s, true)) = r at h hr
  repeat' split at h
  all_goals first
    | (cases h; done)
    | (cases h; simp only [State.returnCredit_kept, State.countWay_kept, State.spill_kept, State.store_kept, hr]; done)

theorem State.ingress_kept {s t : State} {p : Nat} {b : List Byte} (h : s.ingress p b = some t) : t.kept = s.kept := by
  simp only [State.ingress] at h
  repeat' split at h
  all_goals first
    | (cases h; simp only [State.returnCredit_kept, State.bump_kept, State.raise_kept]; done)
    | (cases h; rw [State.returnCredit_kept, State.colourFate_kept (by assumption), State.meterCell_kept]; done)
    | (rw [State.admitCell_kept h, State.meterCell_kept]; done)

theorem execCellReceive_kept {s t : State} {x0 : Nat} {x1 : List Sys2Proof.Byte} (h : execCellReceive x0 x1 s = .next t) : t.kept = s.kept := by
  simp only [execCellReceive, Host.Outcome.next.injEq] at h
  subst h
  repeat' first | with_reducible rfl | with_reducible assumption | intro _ | simp only [State.modPort_kept, kept_mk, kept_eta, Iter.state_done, Iter.state_fmt, Iter.state_trap, Whole.state_ran, Whole.state_stopped, Whole.state_denied] | with_reducible refine (State.ingress_kept (by assumption)).trans ?_ | split | with_reducible refine (foldl_kept _ ?_ _ _).trans ?_

theorem execAdaptiveEgressChoice_kept {s t : State} {x0 : Nat} (h : execAdaptiveEgressChoice x0 s = .next t) : t.kept = s.kept := by
  simp only [execAdaptiveEgressChoice, Host.Outcome.next.injEq] at h
  subst h
  repeat' first | with_reducible rfl | with_reducible assumption | intro _ | simp only [State.bump_kept, State.countEgress_kept, State.dropRef_kept, State.enqueue_kept, State.spill_kept, kept_mk, kept_eta, Iter.state_done, Iter.state_fmt, Iter.state_trap, Whole.state_ran, Whole.state_stopped, Whole.state_denied] | split | with_reducible refine (foldl_kept _ ?_ _ _).trans ?_

@[simp] theorem State.streamStep_kept (s : State) (x1 : _) : (State.streamStep s x1).2.kept = s.kept := by
  unfold State.streamStep
  repeat' first | with_reducible rfl | with_reducible assumption | intro _ | simp only [State.draw_kept, kept_mk, kept_eta, Iter.state_done, Iter.state_fmt, Iter.state_trap, Whole.state_ran, Whole.state_stopped, Whole.state_denied] | split | with_reducible refine (foldl_kept _ ?_ _ _).trans ?_

@[simp] theorem State.ackStream_kept (s : State) (x1 : _) : (State.ackStream s x1).kept = s.kept := by
  unfold State.ackStream
  repeat' first | with_reducible rfl | with_reducible assumption | intro _ | simp only [State.sendAck_kept, State.streamStep_kept, kept_mk, kept_eta, Iter.state_done, Iter.state_fmt, Iter.state_trap, Whole.state_ran, Whole.state_stopped, Whole.state_denied] | split | with_reducible refine (foldl_kept _ ?_ _ _).trans ?_

@[simp] theorem State.transferDrop_kept (s : State) (x1 : _) : (State.transferDrop s x1).kept = s.kept := by
  unfold State.transferDrop
  repeat' first | with_reducible rfl | with_reducible assumption | intro _ | simp only [State.bump_kept, State.healFails_kept, State.resilverFails_kept, kept_mk, kept_eta, Iter.state_done, Iter.state_fmt, Iter.state_trap, Whole.state_ran, Whole.state_stopped, Whole.state_denied] | split | with_reducible refine (foldl_kept _ ?_ _ _).trans ?_

@[simp] theorem State.messageIn_kept (s : State) (x1 : _) (x2 : _) : (State.messageIn s x1 x2).kept = s.kept := by
  unfold State.messageIn
  repeat' first | with_reducible rfl | with_reducible assumption | intro _ | simp only [State.bump_kept, State.mismatch_kept, State.transferDrop_kept, kept_mk, kept_eta, Iter.state_done, Iter.state_fmt, Iter.state_trap, Whole.state_ran, Whole.state_stopped, Whole.state_denied] | split | with_reducible refine (foldl_kept _ ?_ _ _).trans ?_

@[simp] theorem State.joinStream_kept (s : State) (x1 : _) : (State.joinStream s x1).kept = s.kept := by
  unfold State.joinStream
  repeat' first | with_reducible rfl | with_reducible assumption | intro _ | simp only [State.ackStream_kept, State.bump_kept, State.messageIn_kept, kept_mk, kept_eta, Iter.state_done, Iter.state_fmt, Iter.state_trap, Whole.state_ran, Whole.state_stopped, Whole.state_denied] | split | with_reducible refine (foldl_kept _ ?_ _ _).trans ?_ | with_reducible refine (foldlB_kept _ ?_ _ _).trans ?_ | with_reducible refine (foldl1_kept _ ?_ _ _).trans ?_ | with_reducible refine (foldl2_kept _ ?_ _ _).trans ?_

theorem execLocalCellDeliver_kept {s t : State} {x0 : Nat} {x1 : Nat} (h : execLocalCellDeliver x0 x1 s = .next t) : t.kept = s.kept := by
  simp only [execLocalCellDeliver, Host.Outcome.next.injEq] at h
  subst h
  repeat' first | with_reducible rfl | with_reducible assumption | intro _ | simp only [State.admitBlocked_kept, State.bump_kept, State.dropRef_kept, State.fillWindow_kept, State.joinStream_kept, State.setQueue_kept, State.setWindow_kept, kept_mk, kept_eta, Iter.state_done, Iter.state_fmt, Iter.state_trap, Whole.state_ran, Whole.state_stopped, Whole.state_denied] | split | with_reducible refine (foldl_kept _ ?_ _ _).trans ?_

@[simp] theorem State.partyFailed_kept (s : State) (x1 : _) : (State.partyFailed s x1).kept = s.kept := by
  unfold State.partyFailed
  repeat' first | with_reducible rfl | with_reducible assumption | intro _ | simp only [State.fenceParty_kept, State.treeLost_kept, kept_mk, kept_eta, Iter.state_done, Iter.state_fmt, Iter.state_trap, Whole.state_ran, Whole.state_stopped, Whole.state_denied] | split | with_reducible refine (foldl_kept _ ?_ _ _).trans ?_ | with_reducible refine (foldlB_kept _ ?_ _ _).trans ?_ | with_reducible refine (foldl1_kept _ ?_ _ _).trans ?_ | with_reducible refine (foldl2_kept _ ?_ _ _).trans ?_

@[simp] theorem State.streamLost_kept (s : State) (x1 : _) (x2 : _) : (State.streamLost s x1 x2).kept = s.kept := by
  unfold State.streamLost
  repeat' first | with_reducible rfl | with_reducible assumption | intro _ | simp only [State.bump_kept, State.partyFailed_kept, State.raise_kept, kept_mk, kept_eta, Iter.state_done, Iter.state_fmt, Iter.state_trap, Whole.state_ran, Whole.state_stopped, Whole.state_denied] | split | with_reducible refine (foldl_kept _ ?_ _ _).trans ?_

theorem execNakTimer_kept {s t : State} {x0 : Sys2Proof.FA} {x1 : BitVec 20} (h : execNakTimer x0 x1 s = .next t) : t.kept = s.kept := by
  simp only [execNakTimer, Host.Outcome.next.injEq] at h
  subst h
  repeat' first | with_reducible rfl | with_reducible assumption | intro _ | simp only [State.bump_kept, State.sendCtrl_kept, State.streamLost_kept, State.streamStep_kept, kept_mk, kept_eta, Iter.state_done, Iter.state_fmt, Iter.state_trap, Whole.state_ran, Whole.state_stopped, Whole.state_denied] | split | with_reducible refine (foldl_kept _ ?_ _ _).trans ?_

@[simp] theorem State.replayCell_kept (s : State) (x1 : _) (x2 : _) : (State.replayCell s x1 x2).kept = s.kept := by
  unfold State.replayCell
  repeat' first | with_reducible rfl | with_reducible assumption | intro _ | simp only [State.bump_kept, State.output_kept, State.spill_kept, kept_mk, kept_eta, Iter.state_done, Iter.state_fmt, Iter.state_trap, Whole.state_ran, Whole.state_stopped, Whole.state_denied] | split | with_reducible refine (foldl_kept _ ?_ _ _).trans ?_

@[simp] theorem State.fetchSpilled_kept (s : State) (x1 : _) (x2 : _) : (State.fetchSpilled s x1 x2).kept = s.kept := by
  unfold State.fetchSpilled
  repeat' first | with_reducible rfl | with_reducible assumption | intro _ | simp only [State.fetchObject_kept, kept_mk, kept_eta, Iter.state_done, Iter.state_fmt, Iter.state_trap, Whole.state_ran, Whole.state_stopped, Whole.state_denied] | split | with_reducible refine (foldl_kept _ ?_ _ _).trans ?_

theorem execProbeTimer_kept {s t : State} {x0 : Sys2Proof.FA} {x1 : BitVec 20} (h : execProbeTimer x0 x1 s = .next t) : t.kept = s.kept := by
  simp only [execProbeTimer, Host.Outcome.next.injEq] at h
  subst h
  repeat' first | with_reducible rfl | with_reducible assumption | intro _ | simp only [State.fetchSpilled_kept, State.replayCell_kept, State.setTx_kept, State.streamLost_kept, kept_mk, kept_eta, Iter.state_done, Iter.state_fmt, Iter.state_trap, Whole.state_ran, Whole.state_stopped, Whole.state_denied] | split | with_reducible refine (foldl_kept _ ?_ _ _).trans ?_

theorem execAckReceive_kept {s t : State} {x0 : Sys2Proof.FA} {x1 : BitVec 20} {x2 : BitVec 24} {x3 : Nat} {x4 : Nat} (h : execAckReceive x0 x1 x2 x3 x4 s = .next t) : t.kept = s.kept := by
  simp only [execAckReceive, Host.Outcome.next.injEq] at h
  subst h
  repeat' first | with_reducible rfl | with_reducible assumption | intro _ | simp only [State.admitBlocked_kept, State.creditBack_kept, State.progress_kept, State.pump_kept, State.release_kept, State.setTx_kept, State.takeCtrl_kept, kept_mk, kept_eta, Iter.state_done, Iter.state_fmt, Iter.state_trap, Whole.state_ran, Whole.state_stopped, Whole.state_denied] | split | with_reducible refine (foldl_kept _ ?_ _ _).trans ?_

theorem execNakReceive_kept {s t : State} {x0 : Sys2Proof.FA} {x1 : BitVec 20} {x2 : Nat} {x3 : List (Nat × Nat)} (h : execNakReceive x0 x1 x2 x3 s = .next t) : t.kept = s.kept := by
  simp only [execNakReceive, Host.Outcome.next.injEq] at h
  subst h
  repeat' first | with_reducible rfl | with_reducible assumption | intro _ | simp only [State.fetchSpilled_kept, State.replayCell_kept, State.takeCtrl_kept, kept_mk, kept_eta, Iter.state_done, Iter.state_fmt, Iter.state_trap, Whole.state_ran, Whole.state_stopped, Whole.state_denied] | split | with_reducible refine (foldl_kept _ ?_ _ _).trans ?_ | with_reducible refine (foldlB_kept _ ?_ _ _).trans ?_ | with_reducible refine (foldl1_kept _ ?_ _ _).trans ?_ | with_reducible refine (foldl2_kept _ ?_ _ _).trans ?_

@[simp] theorem State.gateCtl_kept (s : State) (x1 : _) (x2 : _) : (State.gateCtl s x1 x2).kept = s.kept := by
  unfold State.gateCtl
  repeat' first | with_reducible rfl | with_reducible assumption | intro _ | simp only [State.modSched_kept, State.raise_kept, State.wr_kept, kept_mk, kept_eta, Iter.state_done, Iter.state_fmt, Iter.state_trap, Whole.state_ran, Whole.state_stopped, Whole.state_denied] | split | with_reducible refine (foldl_kept _ ?_ _ _).trans ?_

theorem execGateCtlWrite_kept {s t : State} {x0 : Nat} {x1 : Sys2Proof.Word} (h : execGateCtlWrite x0 x1 s = .next t) : t.kept = s.kept := by
  simp only [execGateCtlWrite, Host.Outcome.next.injEq] at h
  subst h
  repeat' first | with_reducible rfl | with_reducible assumption | intro _ | simp only [State.gateCtl_kept, kept_mk, kept_eta, Iter.state_done, Iter.state_fmt, Iter.state_trap, Whole.state_ran, Whole.state_stopped, Whole.state_denied] | split | with_reducible refine (foldl_kept _ ?_ _ _).trans ?_

theorem execGateListActivate_kept {s t : State} {x0 : Nat} (h : execGateListActivate x0 s = .next t) : t.kept = s.kept := by
  simp only [execGateListActivate, Host.Outcome.next.injEq] at h
  subst h
  repeat' first | with_reducible rfl | with_reducible assumption | intro _ | simp only [State.modSched_kept, State.wr_kept, kept_mk, kept_eta, Iter.state_done, Iter.state_fmt, Iter.state_trap, Whole.state_ran, Whole.state_stopped, Whole.state_denied] | split | with_reducible refine (foldl_kept _ ?_ _ _).trans ?_

theorem execGateEntryBoundary_kept {s t : State} {x0 : Nat} (h : execGateEntryBoundary x0 s = .next t) : t.kept = s.kept := by
  simp only [execGateEntryBoundary, Host.Outcome.next.injEq] at h
  subst h
  repeat' first | with_reducible rfl | with_reducible assumption | intro _ | simp only [State.modSched_kept, kept_mk, kept_eta, Iter.state_done, Iter.state_fmt, Iter.state_trap, Whole.state_ran, Whole.state_stopped, Whole.state_denied] | split | with_reducible refine (foldl_kept _ ?_ _ _).trans ?_

@[simp] theorem State.chargeSelect_kept (s : State) (x1 : _) (x2 : _) (x3 : _) : (State.chargeSelect s x1 x2 x3).kept = s.kept := by
  unfold State.chargeSelect
  repeat' first | with_reducible rfl | with_reducible assumption | intro _ | simp only [State.modSched_kept, kept_mk, kept_eta, Iter.state_done, Iter.state_fmt, Iter.state_trap, Whole.state_ran, Whole.state_stopped, Whole.state_denied] | split | with_reducible refine (foldl_kept _ ?_ _ _).trans ?_

@[simp] theorem State.selectAux_kept (s : State) (x0 : _) (x1 : _) : (State.selectAux x0 x1 s).kept = s.kept := by
  induction x1 generalizing s with
  | zero => unfold State.selectAux; repeat' first | with_reducible rfl | with_reducible assumption | intro _ | simp only [State.bump_kept, State.chargeSelect_kept, State.dropRef_kept, State.modPort_kept, State.select_kept, State.setQueue_kept, State.tookCopy_kept, kept_mk, kept_eta, Iter.state_done, Iter.state_fmt, Iter.state_trap, Whole.state_ran, Whole.state_stopped, Whole.state_denied] | split | with_reducible refine (foldl_kept _ ?_ _ _).trans ?_
  | succ n ih =>
    unfold State.selectAux
    repeat' first | with_reducible rfl | with_reducible assumption | intro _ | simp only [ih, State.bump_kept, State.chargeSelect_kept, State.dropRef_kept, State.modPort_kept, State.select_kept, State.setQueue_kept, State.tookCopy_kept, kept_mk, kept_eta, Iter.state_done, Iter.state_fmt, Iter.state_trap, Whole.state_ran, Whole.state_stopped, Whole.state_denied] | split | with_reducible refine (foldl_kept _ ?_ _ _).trans ?_

@[simp] theorem State.holdMisfits_kept (s : State) (x1 : _) : (State.holdMisfits s x1).kept = s.kept := by
  unfold State.holdMisfits
  repeat' first | with_reducible rfl | with_reducible assumption | intro _ | simp only [State.modSched_kept, kept_mk, kept_eta, Iter.state_done, Iter.state_fmt, Iter.state_trap, Whole.state_ran, Whole.state_stopped, Whole.state_denied] | split | with_reducible refine (foldl_kept _ ?_ _ _).trans ?_

theorem execSchedulerSelect_kept {s t : State} {x0 : Nat} (h : execSchedulerSelect x0 s = .next t) : t.kept = s.kept := by
  simp only [execSchedulerSelect, Host.Outcome.next.injEq] at h
  subst h
  repeat' first | with_reducible rfl | with_reducible assumption | intro _ | simp only [State.admitBlocked_kept, State.holdMisfits_kept, State.selectAux_kept, kept_mk, kept_eta, Iter.state_done, Iter.state_fmt, Iter.state_trap, Whole.state_ran, Whole.state_stopped, Whole.state_denied] | split | with_reducible refine (foldl_kept _ ?_ _ _).trans ?_

theorem execRateWheelWake_kept {s t : State} {x0 : Nat} {x1 : Nat} (h : execRateWheelWake x0 x1 s = .next t) : t.kept = s.kept := by
  simp only [execRateWheelWake, Host.Outcome.next.injEq] at h
  subst h
  repeat' first | with_reducible rfl | with_reducible assumption | intro _ | simp only [State.modSched_kept, kept_mk, kept_eta, Iter.state_done, Iter.state_fmt, Iter.state_trap, Whole.state_ran, Whole.state_stopped, Whole.state_denied] | split | with_reducible refine (foldl_kept _ ?_ _ _).trans ?_

theorem execCellTransmit_kept {s t : State} {x0 : Nat} {x1 : Nat} (h : execCellTransmit x0 x1 s = .next t) : t.kept = s.kept := by
  simp only [execCellTransmit, Host.Outcome.next.injEq] at h
  subst h
  repeat' first | with_reducible rfl | with_reducible assumption | intro _ | simp only [State.admitBlocked_kept, State.dropRef_kept, State.endsLate_kept, State.modPort_kept, State.modSched_kept, State.sendData_kept, State.setWindow_kept, kept_mk, kept_eta, Iter.state_done, Iter.state_fmt, Iter.state_trap, Whole.state_ran, Whole.state_stopped, Whole.state_denied] | split | with_reducible refine (foldl_kept _ ?_ _ _).trans ?_

@[simp] theorem State.wipeCells_kept (s : State) : (State.wipeCells s).kept = s.kept := by
  unfold State.wipeCells
  repeat' first | with_reducible rfl | with_reducible assumption | intro _ | simp only [State.returnCredit_kept, kept_mk, kept_eta, Iter.state_done, Iter.state_fmt, Iter.state_trap, Whole.state_ran, Whole.state_stopped, Whole.state_denied] | split | with_reducible refine (foldl_kept _ ?_ _ _).trans ?_ | with_reducible refine (foldlB_kept _ ?_ _ _).trans ?_ | with_reducible refine (foldl1_kept _ ?_ _ _).trans ?_ | with_reducible refine (foldl2_kept _ ?_ _ _).trans ?_

@[simp] theorem State.emptyStreams_kept (s : State) : (State.emptyStreams s).kept = s.kept := by
  unfold State.emptyStreams
  repeat' first | with_reducible rfl | with_reducible assumption | intro _ | simp only [kept_mk, kept_eta, Iter.state_done, Iter.state_fmt, Iter.state_trap, Whole.state_ran, Whole.state_stopped, Whole.state_denied] | split | with_reducible refine (foldl_kept _ ?_ _ _).trans ?_

@[simp] theorem State.engineReset_kept (s : State) : (State.engineReset s).kept = s.kept := by
  unfold State.engineReset
  repeat' first | with_reducible rfl | with_reducible assumption | intro _ | simp only [State.clearCtrs_kept, State.emptyStreams_kept, State.endNow_kept, State.wipeCells_kept, State.wr_kept, kept_mk, kept_eta, Iter.state_done, Iter.state_fmt, Iter.state_trap, Whole.state_ran, Whole.state_stopped, Whole.state_denied] | split | with_reducible refine (foldl_kept _ ?_ _ _).trans ?_ | with_reducible refine (foldlB_kept _ ?_ _ _).trans ?_ | with_reducible refine (foldl1_kept _ ?_ _ _).trans ?_ | with_reducible refine (foldl2_kept _ ?_ _ _).trans ?_

@[simp] theorem State.authFail_kept (s : State) (x1 : _) (x2 : _) : (State.authFail s x1 x2).kept = s.kept := by
  unfold State.authFail
  repeat' first | with_reducible rfl | with_reducible assumption | intro _ | simp only [State.bump_kept, State.fail_kept, State.raise_kept, kept_mk, kept_eta, Iter.state_done, Iter.state_fmt, Iter.state_trap, Whole.state_ran, Whole.state_stopped, Whole.state_denied] | split | with_reducible refine (foldl_kept _ ?_ _ _).trans ?_

@[simp] theorem State.lapisWipe_kept (s : State) : (State.lapisWipe s).kept = s.kept := by
  unfold State.lapisWipe
  repeat' first | with_reducible rfl | with_reducible assumption | intro _ | simp only [State.emptyStreams_kept, State.wipeCells_kept, State.wiped_kept, kept_mk, kept_eta, Iter.state_done, Iter.state_fmt, Iter.state_trap, Whole.state_ran, Whole.state_stopped, Whole.state_denied] | split | with_reducible refine (foldl_kept _ ?_ _ _).trans ?_

@[simp] theorem State.burnFail_kept (s : State) (x1 : _) (x2 : _) : (State.burnFail s x1 x2).kept = s.kept := by
  unfold State.burnFail
  repeat' first | with_reducible rfl | with_reducible assumption | intro _ | simp only [State.fail_kept, State.raise_kept, kept_mk, kept_eta, Iter.state_done, Iter.state_fmt, Iter.state_trap, Whole.state_ran, Whole.state_stopped, Whole.state_denied] | split | with_reducible refine (foldl_kept _ ?_ _ _).trans ?_

theorem execAttest_kept {s t : State} {x0 : Sys2Proof.Req} (h : execAttest x0 s = .next t) : t.kept = s.kept := by
  simp only [execAttest, Host.Outcome.next.injEq] at h
  subst h
  repeat' first | with_reducible rfl | with_reducible assumption | intro _ | simp only [State.answer_kept, State.draw_kept, State.fail_kept, kept_mk, kept_eta, Iter.state_done, Iter.state_fmt, Iter.state_trap, Whole.state_ran, Whole.state_stopped, Whole.state_denied] | split | with_reducible refine (foldl_kept _ ?_ _ _).trans ?_

@[simp] theorem State.fwRestart_kept (s : State) (x1 : _) : (State.fwRestart s x1).kept = s.kept := by
  unfold State.fwRestart
  repeat' first | with_reducible rfl | with_reducible assumption | intro _ | simp only [State.bump_kept, kept_mk, kept_eta, Iter.state_done, Iter.state_fmt, Iter.state_trap, Whole.state_ran, Whole.state_stopped, Whole.state_denied] | split | with_reducible refine (foldl_kept _ ?_ _ _).trans ?_

theorem execWatchdogExpire_kept {s t : State} {x0 : Sys2Proof.Byte} (h : execWatchdogExpire x0 s = .next t) : t.kept = s.kept := by
  simp only [execWatchdogExpire, Host.Outcome.next.injEq] at h
  subst h
  repeat' first | with_reducible rfl | with_reducible assumption | intro _ | simp only [State.fwRestart_kept, State.raise_kept, State.trace_kept, kept_mk, kept_eta, Iter.state_done, Iter.state_fmt, Iter.state_trap, Whole.state_ran, Whole.state_stopped, Whole.state_denied] | split | with_reducible refine (foldl_kept _ ?_ _ _).trans ?_

@[simp] theorem State.fwCtl_kept (s : State) (x1 : _) : (State.fwCtl s x1).kept = s.kept := by
  unfold State.fwCtl
  repeat' first | with_reducible rfl | with_reducible assumption | intro _ | simp only [State.fwRestart_kept, kept_mk, kept_eta, Iter.state_done, Iter.state_fmt, Iter.state_trap, Whole.state_ran, Whole.state_stopped, Whole.state_denied] | split | with_reducible refine (foldl_kept _ ?_ _ _).trans ?_

theorem execFwCtlRestart_kept {s t : State} {x0 : Sys2Proof.Word} (h : execFwCtlRestart x0 s = .next t) : t.kept = s.kept := by
  simp only [execFwCtlRestart, Host.Outcome.next.injEq] at h
  subst h
  repeat' first | with_reducible rfl | with_reducible assumption | intro _ | simp only [State.fwCtl_kept, kept_mk, kept_eta, Iter.state_done, Iter.state_fmt, Iter.state_trap, Whole.state_ran, Whole.state_stopped, Whole.state_denied] | split | with_reducible refine (foldl_kept _ ?_ _ _).trans ?_

@[simp] theorem State.traceStart_kept (s : State) (x1 : _) (x2 : _) : (State.traceStart s x1 x2).kept = s.kept := by
  unfold State.traceStart
  repeat' first | with_reducible rfl | with_reducible assumption | intro _ | simp only [State.trace_kept, kept_mk, kept_eta, Iter.state_done, Iter.state_fmt, Iter.state_trap, Whole.state_ran, Whole.state_stopped, Whole.state_denied] | split | with_reducible refine (foldl_kept _ ?_ _ _).trans ?_

@[simp] theorem State.dropImport_kept (s : State) (x1 : _) : (State.dropImport s x1).kept = s.kept := by
  unfold State.dropImport
  repeat' first | with_reducible rfl | with_reducible assumption | intro _ | simp only [State.draw_kept, State.putRange_kept, kept_mk, kept_eta, Iter.state_done, Iter.state_fmt, Iter.state_trap, Whole.state_ran, Whole.state_stopped, Whole.state_denied] | split | with_reducible refine (foldl_kept _ ?_ _ _).trans ?_

@[simp] theorem State.dropWipe_kept (s : State) : (State.dropWipe s).kept = s.kept := by
  unfold State.dropWipe
  repeat' first | with_reducible rfl | with_reducible assumption | intro _ | simp only [State.draw_kept, State.memClear_kept, kept_mk, kept_eta, Iter.state_done, Iter.state_fmt, Iter.state_trap, Whole.state_ran, Whole.state_stopped, Whole.state_denied] | split | with_reducible refine (foldl_kept _ ?_ _ _).trans ?_

@[simp] theorem State.abortRequest_kept (s : State) (x1 : _) : (State.abortRequest s x1).kept = s.kept := by
  unfold State.abortRequest
  repeat' first | with_reducible rfl | with_reducible assumption | intro _ | simp only [State.dropImport_kept, State.dropWipe_kept, State.fail_kept, State.resilverOver_kept, kept_mk, kept_eta, Iter.state_done, Iter.state_fmt, Iter.state_trap, Whole.state_ran, Whole.state_stopped, Whole.state_denied] | split | with_reducible refine (foldl_kept _ ?_ _ _).trans ?_ | with_reducible refine (foldlB_kept _ ?_ _ _).trans ?_ | with_reducible refine (foldl1_kept _ ?_ _ _).trans ?_ | with_reducible refine (foldl2_kept _ ?_ _ _).trans ?_

@[simp] theorem State.catchUp_kept (s : State) : (State.catchUp s).kept = s.kept := by
  unfold State.catchUp
  repeat' first | with_reducible rfl | with_reducible assumption | intro _ | simp only [State.decideDead_kept, State.partyFailed_kept, State.reportLinks_kept, kept_mk, kept_eta, Iter.state_done, Iter.state_fmt, Iter.state_trap, Whole.state_ran, Whole.state_stopped, Whole.state_denied] | split | with_reducible refine (foldl_kept _ ?_ _ _).trans ?_ | with_reducible refine (foldlB_kept _ ?_ _ _).trans ?_ | with_reducible refine (foldl1_kept _ ?_ _ _).trans ?_ | with_reducible refine (foldl2_kept _ ?_ _ _).trans ?_

@[simp] theorem State.stagePassed_kept (s : State) (x1 : _) : (State.stagePassed s x1).kept = s.kept := by
  unfold State.stagePassed
  repeat' first | with_reducible rfl | with_reducible assumption | intro _ | simp only [State.trace_kept, kept_mk, kept_eta, Iter.state_done, Iter.state_fmt, Iter.state_trap, Whole.state_ran, Whole.state_stopped, Whole.state_denied] | split | with_reducible refine (foldl_kept _ ?_ _ _).trans ?_

@[simp] theorem State.stageFailed_kept (s : State) (x1 : _) : (State.stageFailed s x1).kept = s.kept := by
  unfold State.stageFailed
  repeat' first | with_reducible rfl | with_reducible assumption | intro _ | simp only [State.draw_kept, State.trace_kept, kept_mk, kept_eta, Iter.state_done, Iter.state_fmt, Iter.state_trap, Whole.state_ran, Whole.state_stopped, Whole.state_denied] | split | with_reducible refine (foldl_kept _ ?_ _ _).trans ?_

@[simp] theorem State.beginWrite_kept (s : State) (x1 : _) : (State.beginWrite s x1).kept = s.kept := by
  unfold State.beginWrite
  repeat' first | with_reducible rfl | with_reducible assumption | intro _ | simp only [State.stagePassed_kept, kept_mk, kept_eta, Iter.state_done, Iter.state_fmt, Iter.state_trap, Whole.state_ran, Whole.state_stopped, Whole.state_denied] | split | with_reducible refine (foldl_kept _ ?_ _ _).trans ?_

theorem execFwUpdate_kept {s t : State} {x0 : Sys2Proof.Req} {x1 : List Sys2Proof.Byte} {x2 : Sys2Proof.SigAnswer} (h : execFwUpdate x0 x1 x2 s = .next t) : t.kept = s.kept := by
  simp only [execFwUpdate, Host.Outcome.next.injEq] at h
  subst h
  repeat' first | with_reducible rfl | with_reducible assumption | intro _ | simp only [State.authFail_kept, State.beginWrite_kept, State.fail_kept, State.stageFailed_kept, State.stagePassed_kept, kept_mk, kept_eta, Iter.state_done, Iter.state_fmt, Iter.state_trap, Whole.state_ran, Whole.state_stopped, Whole.state_denied] | split | with_reducible refine (foldl_kept _ ?_ _ _).trans ?_

theorem execFwImageWritten_kept {s t : State} (h : execFwImageWritten s = .next t) : t.kept = s.kept := by
  simp only [execFwImageWritten, Host.Outcome.next.injEq] at h
  subst h
  repeat' first | with_reducible rfl | with_reducible assumption | intro _ | simp only [State.beginWrite_kept, State.stagePassed_kept, kept_mk, kept_eta, Iter.state_done, Iter.state_fmt, Iter.state_trap, Whole.state_ran, Whole.state_stopped, Whole.state_denied] | split | with_reducible refine (foldl_kept _ ?_ _ _).trans ?_

theorem execUpdateWaitTimeout_kept {s t : State} (h : execUpdateWaitTimeout s = .next t) : t.kept = s.kept := by
  simp only [execUpdateWaitTimeout, Host.Outcome.next.injEq] at h
  subst h
  repeat' first | with_reducible rfl | with_reducible assumption | intro _ | simp only [State.fail_kept, State.stageFailed_kept, kept_mk, kept_eta, Iter.state_done, Iter.state_fmt, Iter.state_trap, Whole.state_ran, Whole.state_stopped, Whole.state_denied] | split | with_reducible refine (foldl_kept _ ?_ _ _).trans ?_

@[simp] theorem State.writeHandoff_kept (s : State) : (State.writeHandoff s).kept = s.kept := by
  unfold State.writeHandoff
  repeat' first | with_reducible rfl | with_reducible assumption | intro _ | simp only [State.memWrite_kept, kept_mk, kept_eta, Iter.state_done, Iter.state_fmt, Iter.state_trap, Whole.state_ran, Whole.state_stopped, Whole.state_denied] | split | with_reducible refine (foldl_kept _ ?_ _ _).trans ?_

@[simp] theorem State.refclkGone_kept (s : State) (x1 : _) : (State.refclkGone s x1).kept = s.kept := by
  unfold State.refclkGone
  repeat' first | with_reducible rfl | with_reducible assumption | intro _ | simp only [State.modPort_kept, State.portFails_kept, kept_mk, kept_eta, Iter.state_done, Iter.state_fmt, Iter.state_trap, Whole.state_ran, Whole.state_stopped, Whole.state_denied] | split | with_reducible refine (foldl_kept _ ?_ _ _).trans ?_

@[simp] theorem State.refclkBack_kept (s : State) (x1 : _) : (State.refclkBack s x1).kept = s.kept := by
  unfold State.refclkBack
  repeat' first | with_reducible rfl | with_reducible assumption | intro _ | simp only [State.modPort_kept, State.retrain_kept, kept_mk, kept_eta, Iter.state_done, Iter.state_fmt, Iter.state_trap, Whole.state_ran, Whole.state_stopped, Whole.state_denied] | split | with_reducible refine (foldl_kept _ ?_ _ _).trans ?_

@[simp] theorem State.dropUci_kept (s : State) : (State.dropUci s).kept = s.kept := by
  unfold State.dropUci
  repeat' first | with_reducible rfl | with_reducible assumption | intro _ | simp only [kept_mk, kept_eta, Iter.state_done, Iter.state_fmt, Iter.state_trap, Whole.state_ran, Whole.state_stopped, Whole.state_denied] | split | with_reducible refine (foldl_kept _ ?_ _ _).trans ?_

@[simp] theorem State.setUci_kept (s : State) (x1 : _) (x2 : _) : (State.setUci s x1 x2).kept = s.kept := by
  unfold State.setUci
  repeat' first | with_reducible rfl | with_reducible assumption | intro _ | simp only [State.raise_kept, kept_mk, kept_eta, Iter.state_done, Iter.state_fmt, Iter.state_trap, Whole.state_ran, Whole.state_stopped, Whole.state_denied] | split | with_reducible refine (foldl_kept _ ?_ _ _).trans ?_

theorem execUciDegraded_kept {s t : State} {x0 : Bool} (h : execUciDegraded x0 s = .next t) : t.kept = s.kept := by
  simp only [execUciDegraded, Host.Outcome.next.injEq] at h
  subst h
  repeat' first | with_reducible rfl | with_reducible assumption | intro _ | simp only [State.setUci_kept, kept_mk, kept_eta, Iter.state_done, Iter.state_fmt, Iter.state_trap, Whole.state_ran, Whole.state_stopped, Whole.state_denied] | split | with_reducible refine (foldl_kept _ ?_ _ _).trans ?_

theorem execThermWarn_kept {s t : State} {x0 : Sys2Proof.Byte} (h : execThermWarn x0 s = .next t) : t.kept = s.kept := by
  simp only [execThermWarn, Host.Outcome.next.injEq] at h
  subst h
  repeat' first | with_reducible rfl | with_reducible assumption | intro _ | simp only [State.raise_kept, kept_mk, kept_eta, Iter.state_done, Iter.state_fmt, Iter.state_trap, Whole.state_ran, Whole.state_stopped, Whole.state_denied] | split | with_reducible refine (foldl_kept _ ?_ _ _).trans ?_

theorem execThermWarnClear_kept {s t : State} {x0 : Sys2Proof.Byte} (h : execThermWarnClear x0 s = .next t) : t.kept = s.kept := by
  simp only [execThermWarnClear, Host.Outcome.next.injEq] at h
  subst h
  repeat' first | with_reducible rfl | with_reducible assumption | intro _ | simp only [kept_mk, kept_eta, Iter.state_done, Iter.state_fmt, Iter.state_trap, Whole.state_ran, Whole.state_stopped, Whole.state_denied] | split | with_reducible refine (foldl_kept _ ?_ _ _).trans ?_

theorem execVinHigh_kept {s t : State} {x0 : BitVec 16} (h : execVinHigh x0 s = .next t) : t.kept = s.kept := by
  simp only [execVinHigh, Host.Outcome.next.injEq] at h
  subst h
  repeat' first | with_reducible rfl | with_reducible assumption | intro _ | simp only [State.raise_kept, kept_mk, kept_eta, Iter.state_done, Iter.state_fmt, Iter.state_trap, Whole.state_ran, Whole.state_stopped, Whole.state_denied] | split | with_reducible refine (foldl_kept _ ?_ _ _).trans ?_

@[simp] theorem State.tearSave_kept (s : State) : (State.tearSave s).kept = s.kept := by
  unfold State.tearSave
  repeat' first | with_reducible rfl | with_reducible assumption | intro _ | simp only [State.draw_kept, kept_mk, kept_eta, Iter.state_done, Iter.state_fmt, Iter.state_trap, Whole.state_ran, Whole.state_stopped, Whole.state_denied] | split | with_reducible refine (foldl_kept _ ?_ _ _).trans ?_

@[simp] theorem State.readSaves_kept (s : State) : (State.readSaves s).kept = s.kept := by
  unfold State.readSaves
  repeat' first | with_reducible rfl | with_reducible assumption | intro _ | simp only [State.raise_kept, kept_mk, kept_eta, Iter.state_done, Iter.state_fmt, Iter.state_trap, Whole.state_ran, Whole.state_stopped, Whole.state_denied] | split | with_reducible refine (foldl_kept _ ?_ _ _).trans ?_

@[simp] theorem State.trip_kept (s : State) : (State.trip s).kept = s.kept := by
  unfold State.trip
  repeat' first | with_reducible rfl | with_reducible assumption | intro _ | simp only [State.dropUci_kept, kept_mk, kept_eta, Iter.state_done, Iter.state_fmt, Iter.state_trap, Whole.state_ran, Whole.state_stopped, Whole.state_denied] | split | with_reducible refine (foldl_kept _ ?_ _ _).trans ?_

@[simp] theorem State.tripOff_kept (s : State) : (State.tripOff s).kept = s.kept := by
  unfold State.tripOff
  repeat' first | with_reducible rfl | with_reducible assumption | intro _ | simp only [State.bump_kept, kept_mk, kept_eta, Iter.state_done, Iter.state_fmt, Iter.state_trap, Whole.state_ran, Whole.state_stopped, Whole.state_denied] | split | with_reducible refine (foldl_kept _ ?_ _ _).trans ?_

theorem execSupplyTrip_kept {s t : State} (h : execSupplyTrip s = .next t) : t.kept = s.kept := by
  simp only [execSupplyTrip, Host.Outcome.next.injEq] at h
  subst h
  repeat' first | with_reducible rfl | with_reducible assumption | intro _ | simp only [State.trip_kept, State.tripOff_kept, kept_mk, kept_eta, Iter.state_done, Iter.state_fmt, Iter.state_trap, Whole.state_ran, Whole.state_stopped, Whole.state_denied] | split | with_reducible refine (foldl_kept _ ?_ _ _).trans ?_

theorem execThermalTrip_kept {s t : State} {x0 : Bool} (h : execThermalTrip x0 s = .next t) : t.kept = s.kept := by
  simp only [execThermalTrip, Host.Outcome.next.injEq] at h
  subst h
  repeat' first | with_reducible rfl | with_reducible assumption | intro _ | simp only [State.bump_kept, State.raise_kept, State.trip_kept, State.tripOff_kept, kept_mk, kept_eta, Iter.state_done, Iter.state_fmt, Iter.state_trap, Whole.state_ran, Whole.state_stopped, Whole.state_denied] | split | with_reducible refine (foldl_kept _ ?_ _ _).trans ?_

theorem execMoonstoneSaveDone_kept {s t : State} (h : execMoonstoneSaveDone s = .next t) : t.kept = s.kept := by
  simp only [execMoonstoneSaveDone, Host.Outcome.next.injEq] at h
  subst h
  repeat' first | with_reducible rfl | with_reducible assumption | intro _ | simp only [State.bump_kept, kept_mk, kept_eta, Iter.state_done, Iter.state_fmt, Iter.state_trap, Whole.state_ran, Whole.state_stopped, Whole.state_denied] | split | with_reducible refine (foldl_kept _ ?_ _ _).trans ?_

theorem execPwrEnLow_kept {s t : State} (h : execPwrEnLow s = .next t) : t.kept = s.kept := by
  simp only [execPwrEnLow, Host.Outcome.next.injEq] at h
  subst h
  repeat' first | with_reducible rfl | with_reducible assumption | intro _ | simp only [State.dropUci_kept, kept_mk, kept_eta, Iter.state_done, Iter.state_fmt, Iter.state_trap, Whole.state_ran, Whole.state_stopped, Whole.state_denied] | split | with_reducible refine (foldl_kept _ ?_ _ _).trans ?_

theorem execInputFuseOpen_kept {s t : State} (h : execInputFuseOpen s = .next t) : t.kept = s.kept := by
  simp only [execInputFuseOpen, Host.Outcome.next.injEq] at h
  subst h
  repeat' first | with_reducible rfl | with_reducible assumption | intro _ | simp only [State.dropUci_kept, State.tearSave_kept, kept_mk, kept_eta, Iter.state_done, Iter.state_fmt, Iter.state_trap, Whole.state_ran, Whole.state_stopped, Whole.state_denied] | split | with_reducible refine (foldl_kept _ ?_ _ _).trans ?_

@[simp] theorem State.stageTo_kept (s : State) (x1 : _) : (State.stageTo s x1).kept = s.kept := by
  unfold State.stageTo
  repeat' first | with_reducible rfl | with_reducible assumption | intro _ | simp only [kept_mk, kept_eta, Iter.state_done, Iter.state_fmt, Iter.state_trap, Whole.state_ran, Whole.state_stopped, Whole.state_denied] | split | with_reducible refine (foldl_kept _ ?_ _ _).trans ?_

@[simp] theorem State.bringUpFails_kept (s : State) (x1 : _) : (State.bringUpFails s x1).kept = s.kept := by
  unfold State.bringUpFails
  repeat' first | with_reducible rfl | with_reducible assumption | intro _ | simp only [State.setUci_kept, kept_mk, kept_eta, Iter.state_done, Iter.state_fmt, Iter.state_trap, Whole.state_ran, Whole.state_stopped, Whole.state_denied] | split | with_reducible refine (foldl_kept _ ?_ _ _).trans ?_

@[simp] theorem State.stageTrain_kept (s : State) (x1 : _) : (State.stageTrain s x1).kept = s.kept := by
  unfold State.stageTrain
  repeat' first | with_reducible rfl | with_reducible assumption | intro _ | simp only [State.bringUpFails_kept, State.raise_kept, State.readSaves_kept, State.stageTo_kept, kept_mk, kept_eta, Iter.state_done, Iter.state_fmt, Iter.state_trap, Whole.state_ran, Whole.state_stopped, Whole.state_denied] | split | with_reducible refine (foldl_kept _ ?_ _ _).trans ?_

@[simp] theorem State.stageUcie_kept (s : State) (x1 : _) : (State.stageUcie s x1).kept = s.kept := by
  unfold State.stageUcie
  repeat' first | with_reducible rfl | with_reducible assumption | intro _ | simp only [State.setUci_kept, State.stageTo_kept, State.startWipe_kept, kept_mk, kept_eta, Iter.state_done, Iter.state_fmt, Iter.state_trap, Whole.state_ran, Whole.state_stopped, Whole.state_denied] | split | with_reducible refine (foldl_kept _ ?_ _ _).trans ?_

@[simp] theorem State.stageReady_kept (s : State) : (State.stageReady s).kept = s.kept := by
  unfold State.stageReady
  repeat' first | with_reducible rfl | with_reducible assumption | intro _ | simp only [State.raise_kept, State.wiped_kept, kept_mk, kept_eta, Iter.state_done, Iter.state_fmt, Iter.state_trap, Whole.state_ran, Whole.state_stopped, Whole.state_denied] | split | with_reducible refine (foldl_kept _ ?_ _ _).trans ?_

@[simp] theorem State.ovfWrite_kept (s : State) (x1 : _) (x2 : _) : (State.ovfWrite s x1 x2).kept = s.kept := by
  unfold State.ovfWrite
  repeat' first | with_reducible rfl | with_reducible assumption | intro _ | simp only [State.clearCtr_kept, kept_mk, kept_eta, Iter.state_done, Iter.state_fmt, Iter.state_trap, Whole.state_ran, Whole.state_stopped, Whole.state_denied] | split | with_reducible refine (foldl_kept _ ?_ _ _).trans ?_ | with_reducible refine (foldlB_kept _ ?_ _ _).trans ?_ | with_reducible refine (foldl1_kept _ ?_ _ _).trans ?_ | with_reducible refine (foldl2_kept _ ?_ _ _).trans ?_

@[simp] theorem State.cmWrite_kept (s : State) (x1 : _) (x2 : _) : (State.cmWrite s x1 x2).kept = s.kept := by
  unfold State.cmWrite
  repeat' first | with_reducible rfl | with_reducible assumption | intro _ | simp only [State.raise_kept, State.wr_kept, kept_mk, kept_eta, Iter.state_done, Iter.state_fmt, Iter.state_trap, Whole.state_ran, Whole.state_stopped, Whole.state_denied] | split | with_reducible refine (foldl_kept _ ?_ _ _).trans ?_

@[simp] theorem State.evtRingReg_kept (s : State) (x1 : _) : (State.evtRingReg s x1).kept = s.kept := by
  unfold State.evtRingReg
  repeat' first | with_reducible rfl | with_reducible assumption | intro _ | simp only [State.raise_kept, State.wr_kept, kept_mk, kept_eta, Iter.state_done, Iter.state_fmt, Iter.state_trap, Whole.state_ran, Whole.state_stopped, Whole.state_denied] | split | with_reducible refine (foldl_kept _ ?_ _ _).trans ?_

@[simp] theorem State.trapWrite_kept (s : State) (x1 : _) : (State.trapWrite s x1).kept = s.kept := by
  unfold State.trapWrite
  repeat' first | with_reducible rfl | with_reducible assumption | intro _ | simp only [State.wr_kept, kept_mk, kept_eta, Iter.state_done, Iter.state_fmt, Iter.state_trap, Whole.state_ran, Whole.state_stopped, Whole.state_denied] | split | with_reducible refine (foldl_kept _ ?_ _ _).trans ?_

@[simp] theorem State.ueLogWrite_kept (s : State) (x1 : _) : (State.ueLogWrite s x1).kept = s.kept := by
  unfold State.ueLogWrite
  repeat' first | with_reducible rfl | with_reducible assumption | intro _ | simp only [kept_mk, kept_eta, Iter.state_done, Iter.state_fmt, Iter.state_trap, Whole.state_ran, Whole.state_stopped, Whole.state_denied] | split | with_reducible refine (foldl_kept _ ?_ _ _).trans ?_

@[simp] theorem State.alertWrite_kept (s : State) (x1 : _) : (State.alertWrite s x1).kept = s.kept := by
  unfold State.alertWrite
  repeat' first | with_reducible rfl | with_reducible assumption | intro _ | simp only [kept_mk, kept_eta, Iter.state_done, Iter.state_fmt, Iter.state_trap, Whole.state_ran, Whole.state_stopped, Whole.state_denied] | split | with_reducible refine (foldl_kept _ ?_ _ _).trans ?_

@[simp] theorem State.rateLifted_kept (s : State) (x1 : _) : (State.rateLifted s x1).kept = s.kept := by
  unfold State.rateLifted
  repeat' first | with_reducible rfl | with_reducible assumption | intro _ | simp only [State.modSched_kept, kept_mk, kept_eta, Iter.state_done, Iter.state_fmt, Iter.state_trap, Whole.state_ran, Whole.state_stopped, Whole.state_denied] | split | with_reducible refine (foldl_kept _ ?_ _ _).trans ?_

theorem execStewardRd_kept {s t : State} {x0 : List Sys2Proof.Byte} (h : execStewardRd x0 s = .next t) : t.kept = s.kept := by
  simp only [execStewardRd, Host.Outcome.next.injEq] at h
  subst h
  repeat' first | with_reducible rfl | with_reducible assumption | intro _ | simp only [State.bump_kept, State.emit_kept, kept_mk, kept_eta, Iter.state_done, Iter.state_fmt, Iter.state_trap, Whole.state_ran, Whole.state_stopped, Whole.state_denied] | split | with_reducible refine (foldl_kept _ ?_ _ _).trans ?_

theorem execCounterOvfClear_kept {s t : State} {x0 : Nat} {x1 : Sys2Proof.Word} (h : execCounterOvfClear x0 x1 s = .next t) : t.kept = s.kept := by
  simp only [execCounterOvfClear, Host.Outcome.next.injEq] at h
  subst h
  repeat' first | with_reducible rfl | with_reducible assumption | intro _ | simp only [State.ovfWrite_kept, kept_mk, kept_eta, Iter.state_done, Iter.state_fmt, Iter.state_trap, Whole.state_ran, Whole.state_stopped, Whole.state_denied] | split | with_reducible refine (foldl_kept _ ?_ _ _).trans ?_

theorem execVeTrapClear_kept {s t : State} {x0 : Sys2Proof.Word} (h : execVeTrapClear x0 s = .next t) : t.kept = s.kept := by
  simp only [execVeTrapClear, Host.Outcome.next.injEq] at h
  subst h
  repeat' first | with_reducible rfl | with_reducible assumption | intro _ | simp only [State.trapWrite_kept, kept_mk, kept_eta, Iter.state_done, Iter.state_fmt, Iter.state_trap, Whole.state_ran, Whole.state_stopped, Whole.state_denied] | split | with_reducible refine (foldl_kept _ ?_ _ _).trans ?_

theorem execMemUeLogClear_kept {s t : State} {x0 : Sys2Proof.Word} (h : execMemUeLogClear x0 s = .next t) : t.kept = s.kept := by
  simp only [execMemUeLogClear, Host.Outcome.next.injEq] at h
  subst h
  repeat' first | with_reducible rfl | with_reducible assumption | intro _ | simp only [State.ueLogWrite_kept, kept_mk, kept_eta, Iter.state_done, Iter.state_fmt, Iter.state_trap, Whole.state_ran, Whole.state_stopped, Whole.state_denied] | split | with_reducible refine (foldl_kept _ ?_ _ _).trans ?_

theorem execAlertClear_kept {s t : State} {x0 : Sys2Proof.Word} (h : execAlertClear x0 s = .next t) : t.kept = s.kept := by
  simp only [execAlertClear, Host.Outcome.next.injEq] at h
  subst h
  repeat' first | with_reducible rfl | with_reducible assumption | intro _ | simp only [State.alertWrite_kept, kept_mk, kept_eta, Iter.state_done, Iter.state_fmt, Iter.state_trap, Whole.state_ran, Whole.state_stopped, Whole.state_denied] | split | with_reducible refine (foldl_kept _ ?_ _ _).trans ?_

theorem execCmConfigWrite_kept {s t : State} {x0 : Option Nat} {x1 : Sys2Proof.Word} (h : execCmConfigWrite x0 x1 s = .next t) : t.kept = s.kept := by
  simp only [execCmConfigWrite, Host.Outcome.next.injEq] at h
  subst h
  repeat' first | with_reducible rfl | with_reducible assumption | intro _ | simp only [State.cmWrite_kept, kept_mk, kept_eta, Iter.state_done, Iter.state_fmt, Iter.state_trap, Whole.state_ran, Whole.state_stopped, Whole.state_denied] | split | with_reducible refine (foldl_kept _ ?_ _ _).trans ?_

theorem execEvtRingWrite_kept {s t : State} {x0 : Sys2Proof.Word} (h : execEvtRingWrite x0 s = .next t) : t.kept = s.kept := by
  simp only [execEvtRingWrite, Host.Outcome.next.injEq] at h
  subst h
  repeat' first | with_reducible rfl | with_reducible assumption | intro _ | simp only [State.evtRingReg_kept, kept_mk, kept_eta, Iter.state_done, Iter.state_fmt, Iter.state_trap, Whole.state_ran, Whole.state_stopped, Whole.state_denied] | split | with_reducible refine (foldl_kept _ ?_ _ _).trans ?_

theorem execBmcRead_kept {s t : State} {x0 : Nat} {x1 : Nat} (h : execBmcRead x0 x1 s = .next t) : t.kept = s.kept := by
  simp only [execBmcRead, Host.Outcome.next.injEq] at h
  subst h
  repeat' first | with_reducible rfl | with_reducible assumption | intro _ | simp only [State.emit_kept, kept_mk, kept_eta, Iter.state_done, Iter.state_fmt, Iter.state_trap, Whole.state_ran, Whole.state_stopped, Whole.state_denied] | split | with_reducible refine (foldl_kept _ ?_ _ _).trans ?_

theorem execTelemetrySnapshot_kept {s t : State} {x0 : Sys2Proof.Req} (h : execTelemetrySnapshot x0 s = .next t) : t.kept = s.kept := by
  simp only [execTelemetrySnapshot, Host.Outcome.next.injEq] at h
  subst h
  repeat' first | with_reducible rfl | with_reducible assumption | intro _ | simp only [State.answer_kept, State.fail_kept, State.fetchObject_kept, kept_mk, kept_eta, Iter.state_done, Iter.state_fmt, Iter.state_trap, Whole.state_ran, Whole.state_stopped, Whole.state_denied] | split | with_reducible refine (foldl_kept _ ?_ _ _).trans ?_

theorem execRefresh_kept {s t : State} {x0 : Nat} (h : execRefresh x0 s = .next t) : t.kept = s.kept := by
  simp only [execRefresh, Host.Outcome.next.injEq] at h
  subst h
  repeat' first | with_reducible rfl | with_reducible assumption | intro _ | simp only [State.bump_kept, kept_mk, kept_eta, Iter.state_done, Iter.state_fmt, Iter.state_trap, Whole.state_ran, Whole.state_stopped, Whole.state_denied] | split | with_reducible refine (foldl_kept _ ?_ _ _).trans ?_

theorem execMemHotClear_kept {s t : State} (h : execMemHotClear s = .next t) : t.kept = s.kept := by
  simp only [execMemHotClear, Host.Outcome.next.injEq] at h
  subst h
  repeat' first | with_reducible rfl | with_reducible assumption | intro _ | simp only [State.raise_kept, kept_mk, kept_eta, Iter.state_done, Iter.state_fmt, Iter.state_trap, Whole.state_ran, Whole.state_stopped, Whole.state_denied] | split | with_reducible refine (foldl_kept _ ?_ _ _).trans ?_

@[simp] theorem State.scrubBlock_kept (s : State) (x1 : _) : (State.scrubBlock s x1).kept = s.kept := by
  unfold State.scrubBlock
  repeat' first | with_reducible rfl | with_reducible assumption | intro _ | simp only [State.fwRestart_kept, State.readBlock_kept, kept_mk, kept_eta, Iter.state_done, Iter.state_fmt, Iter.state_trap, Whole.state_ran, Whole.state_stopped, Whole.state_denied] | split | with_reducible refine (foldl_kept _ ?_ _ _).trans ?_

@[simp] theorem State.scrubUnit_kept (s : State) (x1 : _) (x2 : _) (x3 : _) : (State.scrubUnit s x1 x2 x3).kept = s.kept := by
  unfold State.scrubUnit
  repeat' first | with_reducible rfl | with_reducible assumption | intro _ | simp only [State.scrubBlock_kept, State.upset_kept, kept_mk, kept_eta, Iter.state_done, Iter.state_fmt, Iter.state_trap, Whole.state_ran, Whole.state_stopped, Whole.state_denied] | split | with_reducible refine (foldl_kept _ ?_ _ _).trans ?_ | with_reducible refine (foldlB_kept _ ?_ _ _).trans ?_ | with_reducible refine (foldl1_kept _ ?_ _ _).trans ?_ | with_reducible refine (foldl2_kept _ ?_ _ _).trans ?_

theorem execPatrolScrub_kept {s t : State} {x0 : Nat} {x1 : List (Nat × BitVec 16)} (h : execPatrolScrub x0 x1 s = .next t) : t.kept = s.kept := by
  simp only [execPatrolScrub, Host.Outcome.next.injEq] at h
  subst h
  repeat' first | with_reducible rfl | with_reducible assumption | intro _ | simp only [State.bump_kept, State.scrubUnit_kept, kept_mk, kept_eta, Iter.state_done, Iter.state_fmt, Iter.state_trap, Whole.state_ran, Whole.state_stopped, Whole.state_denied] | split | with_reducible refine (foldl_kept _ ?_ _ _).trans ?_

theorem execEventRingEntryWrite_kept {s t : State} (h : execEventRingEntryWrite s = .next t) : t.kept = s.kept := by
  simp only [execEventRingEntryWrite, Host.Outcome.next.injEq] at h
  subst h
  repeat' first | with_reducible rfl | with_reducible assumption | intro _ | simp only [State.busWrite_kept, State.interrupt_kept, kept_mk, kept_eta, Iter.state_done, Iter.state_fmt, Iter.state_trap, Whole.state_ran, Whole.state_stopped, Whole.state_denied] | split | with_reducible refine (foldl_kept _ ?_ _ _).trans ?_

/-! ### The queue where a function changes another of them -/

theorem kept_pending (s : State) : s.pending = s.kept.1 := (rfl)

theorem foldl_pending {α : Type} (f : State → α → State) (h : ∀ t a, (f t a).kept.1 = t.kept.1) (l : List α) (b : State) :
    (l.foldl f b).kept.1 = b.kept.1 := by
  induction l generalizing b with
  | nil => rfl
  | cons a l ih => rw [List.foldl_cons, ih, h]

theorem foldlB_pending {α : Type} (f : Body → α → Body) (h : ∀ t a, (f t a).s.kept.1 = t.s.kept.1) (l : List α) (b : Body) :
    (l.foldl f b).s.kept.1 = b.s.kept.1 := by
  induction l generalizing b with
  | nil => rfl
  | cons a l ih => rw [List.foldl_cons, ih, h]

theorem foldl1_pending {α β : Type} (f : State × β → α → State × β) (h : ∀ t a, (f t a).1.kept.1 = t.1.kept.1) (l : List α) (b : State × β) :
    (l.foldl f b).1.kept.1 = b.1.kept.1 := by
  induction l generalizing b with
  | nil => rfl
  | cons a l ih => rw [List.foldl_cons, ih, h]

theorem foldl2_pending {α β : Type} (f : β × State → α → β × State) (h : ∀ t a, (f t a).2.kept.1 = t.2.kept.1) (l : List α) (b : β × State) :
    (l.foldl f b).2.kept.1 = b.2.kept.1 := by
  induction l generalizing b with
  | nil => rfl
  | cons a l ih => rw [List.foldl_cons, ih, h]

@[simp] theorem State.tick_pending (s : State) : (State.tick s).kept.1 = s.kept.1 := by
  unfold State.tick
  repeat' first | with_reducible rfl | with_reducible assumption | intro _ | simp only [kept_mk, kept_eta, kept_pending, Iter.state_done, Iter.state_fmt, Iter.state_trap, Whole.state_ran, Whole.state_stopped, Whole.state_denied] | split | with_reducible refine (foldl_pending _ ?_ _ _).trans ?_

@[simp] theorem State.placeWrite_pending (s : State) (x1 : _) (x2 : _) : (State.placeWrite s x1 x2).kept.1 = s.kept.1 := by
  unfold State.placeWrite
  repeat' first | with_reducible rfl | with_reducible assumption | intro _ | simp only [State.raise_kept, State.wr_kept, kept_mk, kept_eta, kept_pending, Iter.state_done, Iter.state_fmt, Iter.state_trap, Whole.state_ran, Whole.state_stopped, Whole.state_denied] | split | with_reducible refine (foldl_pending _ ?_ _ _).trans ?_

@[simp] theorem State.takeMembership_pending (s : State) (x1 : _) : (State.takeMembership s x1).kept.1 = s.kept.1 := by
  unfold State.takeMembership
  repeat' first | with_reducible rfl | with_reducible assumption | intro _ | simp only [State.admitParty_kept, State.nameTwin_kept, State.placeWrite_pending, State.rebuildGroups_kept, State.rebuildRoutes_kept, kept_mk, kept_eta, kept_pending, Iter.state_done, Iter.state_fmt, Iter.state_trap, Whole.state_ran, Whole.state_stopped, Whole.state_denied] | split | with_reducible refine (foldl_pending _ ?_ _ _).trans ?_ | with_reducible refine (foldlB_pending _ ?_ _ _).trans ?_ | with_reducible refine (foldl1_pending _ ?_ _ _).trans ?_ | with_reducible refine (foldl2_pending _ ?_ _ _).trans ?_

theorem execMembershipSet_pending {s t : State} {x0 : Sys2Proof.Req} {x1 : List Sys2Proof.Byte} (h : execMembershipSet x0 x1 s = .next t) : t.kept.1 = s.kept.1 := by
  simp only [execMembershipSet, Host.Outcome.next.injEq] at h
  subst h
  repeat' first | with_reducible rfl | with_reducible assumption | intro _ | simp only [State.ok_kept, State.refuseAt_kept, State.settle_kept, State.takeMembership_pending, kept_mk, kept_eta, kept_pending, Iter.state_done, Iter.state_fmt, Iter.state_trap, Whole.state_ran, Whole.state_stopped, Whole.state_denied] | split | with_reducible refine (foldl_pending _ ?_ _ _).trans ?_

@[simp] theorem State.moduleReset_pending (s : State) (x1 : _) : (State.moduleReset s x1).kept.1 = s.kept.1 := by
  unfold State.moduleReset
  repeat' first | with_reducible rfl | with_reducible assumption | intro _ | simp only [kept_mk, kept_eta, kept_pending, Iter.state_done, Iter.state_fmt, Iter.state_trap, Whole.state_ran, Whole.state_stopped, Whole.state_denied] | split | with_reducible refine (foldl_pending _ ?_ _ _).trans ?_

@[simp] theorem State.coldReset_pending (s : State) (x1 : _) (x2 : _) : (State.coldReset s x1 x2).kept.1 = s.kept.1 := by
  unfold State.coldReset
  repeat' first | with_reducible rfl | with_reducible assumption | intro _ | simp only [State.moduleReset_pending, kept_mk, kept_eta, kept_pending, Iter.state_done, Iter.state_fmt, Iter.state_trap, Whole.state_ran, Whole.state_stopped, Whole.state_denied] | split | with_reducible refine (foldl_pending _ ?_ _ _).trans ?_

@[simp] theorem State.resetCtl_pending (s : State) (x1 : _) : (State.resetCtl s x1).kept.1 = s.kept.1 := by
  unfold State.resetCtl
  repeat' first | with_reducible rfl | with_reducible assumption | intro _ | simp only [State.engineReset_kept, State.moduleReset_pending, State.raise_kept, kept_mk, kept_eta, kept_pending, Iter.state_done, Iter.state_fmt, Iter.state_trap, Whole.state_ran, Whole.state_stopped, Whole.state_denied] | split | with_reducible refine (foldl_pending _ ?_ _ _).trans ?_

theorem execEngineReset_pending {s t : State} {x0 : Sys2Proof.Word} (h : execEngineReset x0 s = .next t) : t.kept.1 = s.kept.1 := by
  simp only [execEngineReset, Host.Outcome.next.injEq] at h
  subst h
  repeat' first | with_reducible rfl | with_reducible assumption | intro _ | simp only [State.resetCtl_pending, kept_mk, kept_eta, kept_pending, Iter.state_done, Iter.state_fmt, Iter.state_trap, Whole.state_ran, Whole.state_stopped, Whole.state_denied] | split | with_reducible refine (foldl_pending _ ?_ _ _).trans ?_

theorem execModuleReset_pending {s t : State} {x0 : Sys2Proof.ResetCause} (h : execModuleReset x0 s = .next t) : t.kept.1 = s.kept.1 := by
  simp only [execModuleReset, Host.Outcome.next.injEq] at h
  subst h
  repeat' first | with_reducible rfl | with_reducible assumption | intro _ | simp only [State.moduleReset_pending, State.resetCtl_pending, kept_mk, kept_eta, kept_pending, Iter.state_done, Iter.state_fmt, Iter.state_trap, Whole.state_ran, Whole.state_stopped, Whole.state_denied] | split | with_reducible refine (foldl_pending _ ?_ _ _).trans ?_

@[simp] theorem State.burnConfig_pending (s : State) (x1 : _) (x2 : _) : (State.burnConfig s x1 x2).1.kept.1 = s.kept.1 := by
  unfold State.burnConfig
  repeat' first | with_reducible rfl | with_reducible assumption | intro _ | simp only [kept_mk, kept_eta, kept_pending, Iter.state_done, Iter.state_fmt, Iter.state_trap, Whole.state_ran, Whole.state_stopped, Whole.state_denied] | split | with_reducible refine (foldl_pending _ ?_ _ _).trans ?_

@[simp] theorem State.beforeBurn_pending (s : State) (x1 : _) (x2 : _) (x3 : _) : (State.beforeBurn s x1 x2 x3).1.kept.1 = s.kept.1 := by
  unfold State.beforeBurn
  repeat' first | with_reducible rfl | with_reducible assumption | intro _ | simp only [State.burnConfig_pending, State.draw_kept, kept_mk, kept_eta, kept_pending, Iter.state_done, Iter.state_fmt, Iter.state_trap, Whole.state_ran, Whole.state_stopped, Whole.state_denied] | split | with_reducible refine (foldl_pending _ ?_ _ _).trans ?_

@[simp] theorem State.afterBurn_pending (s : State) (x1 : _) : (State.afterBurn s x1).kept.1 = s.kept.1 := by
  unfold State.afterBurn
  repeat' first | with_reducible rfl | with_reducible assumption | intro _ | simp only [kept_mk, kept_eta, kept_pending, Iter.state_done, Iter.state_fmt, Iter.state_trap, Whole.state_ran, Whole.state_stopped, Whole.state_denied] | split | with_reducible refine (foldl_pending _ ?_ _ _).trans ?_

@[simp] theorem State.transition_pending (s : State) (rq : Req) (a b : Nat) (r : Record) : (s.transition rq a b r).kept.1 = s.kept.1 := by
  have hb := State.beforeBurn_pending s a b r
  unfold State.transition
  split
  · rename_i t off h
    rw [h] at hb
    simp only [State.burnFail_kept]
    dsimp only at hb
    rw [hb]
  · rename_i t h
    rw [h] at hb
    dsimp only at hb
    split
    · simp only [State.burnFail_kept]
      show t.kept.1 = s.kept.1
      rw [hb]
    · simp only [State.raise_kept, State.answer_kept, State.lapisWipe_kept, State.afterBurn_pending]
      show t.kept.1 = s.kept.1
      rw [hb]

@[simp] theorem State.maintain_pending (s : State) (rq : Req) (r : Record) : (s.maintain rq r).kept.1 = s.kept.1 := by
  unfold State.maintain
  repeat' first | with_reducible rfl | simp only [State.fail_kept, State.burnFail_kept, State.ok_kept, State.lapisWipe_kept, kept_mk, kept_pending] | split
  all_goals
    rename_i h
    have e := congrArg (fun p => p.1.kept.1) h
    simp only [State.burnConfig_pending, kept_mk] at e
    exact e.symm

@[simp] theorem State.signedRequest_pending (s : State) (x1 : _) (x2 : _) (x3 : _) (x4 : _) : (State.signedRequest s x1 x2 x3 x4).kept.1 = s.kept.1 := by
  unfold State.signedRequest
  repeat' first | with_reducible rfl | with_reducible assumption | intro _ | simp only [State.fail_kept, State.maintain_pending, State.transition_pending, kept_mk, kept_eta, kept_pending, Iter.state_done, Iter.state_fmt, Iter.state_trap, Whole.state_ran, Whole.state_stopped, Whole.state_denied] | split | with_reducible refine (foldl_pending _ ?_ _ _).trans ?_

theorem execLifecycle_pending {s t : State} {x0 : Sys2Proof.Req} {x1 : List Sys2Proof.Byte} {x2 : Sys2Proof.SigAnswer} (h : execLifecycle x0 x1 x2 s = .next t) : t.kept.1 = s.kept.1 := by
  simp only [execLifecycle, Host.Outcome.next.injEq] at h
  subst h
  repeat' first | with_reducible rfl | with_reducible assumption | intro _ | simp only [State.authFail_kept, State.fail_kept, State.signedRequest_pending, State.transition_pending, kept_mk, kept_eta, kept_pending, Iter.state_done, Iter.state_fmt, Iter.state_trap, Whole.state_ran, Whole.state_stopped, Whole.state_denied] | split | with_reducible refine (foldl_pending _ ?_ _ _).trans ?_

theorem execFwRestartDone_pending {s t : State} (h : execFwRestartDone s = .next t) : t.kept.1 = s.kept.1 := by
  simp only [execFwRestartDone, Host.Outcome.next.injEq] at h
  subst h
  repeat' first | with_reducible rfl | with_reducible assumption | intro _ | simp only [State.abortRequest_kept, State.catchUp_kept, State.raise_kept, State.traceStart_kept, kept_mk, kept_eta, kept_pending, Iter.state_done, Iter.state_fmt, Iter.state_trap, Whole.state_ran, Whole.state_stopped, Whole.state_denied] | split | with_reducible refine (foldl_pending _ ?_ _ _).trans ?_ | with_reducible refine (foldlB_pending _ ?_ _ _).trans ?_ | with_reducible refine (foldl1_pending _ ?_ _ _).trans ?_ | with_reducible refine (foldl2_pending _ ?_ _ _).trans ?_

@[simp] theorem State.takeOver_pending (s : State) (x1 : _) : (State.takeOver s x1).kept.1 = s.kept.1 := by
  unfold State.takeOver
  repeat' first | with_reducible rfl | with_reducible assumption | intro _ | simp only [State.ok_kept, State.stagePassed_kept, State.traceStart_kept, kept_mk, kept_eta, kept_pending, Iter.state_done, Iter.state_fmt, Iter.state_trap, Whole.state_ran, Whole.state_stopped, Whole.state_denied] | split | with_reducible refine (foldl_pending _ ?_ _ _).trans ?_

theorem execFwHandoff_pending {s t : State} {x0 : Bool} (h : execFwHandoff x0 s = .next t) : t.kept.1 = s.kept.1 := by
  simp only [execFwHandoff, Host.Outcome.next.injEq] at h
  subst h
  repeat' first | with_reducible rfl | with_reducible assumption | intro _ | simp only [State.fail_kept, State.stageFailed_kept, State.stagePassed_kept, State.takeOver_pending, State.writeHandoff_kept, kept_mk, kept_eta, kept_pending, Iter.state_done, Iter.state_fmt, Iter.state_trap, Whole.state_ran, Whole.state_stopped, Whole.state_denied] | split | with_reducible refine (foldl_pending _ ?_ _ _).trans ?_

@[simp] theorem State.leaveLockstep_pending (s : State) (x1 : _) : (State.leaveLockstep s x1).kept.1 = s.kept.1 := by
  unfold State.leaveLockstep
  repeat' first | with_reducible rfl | with_reducible assumption | intro _ | simp only [State.bump_kept, State.raise_kept, kept_mk, kept_eta, kept_pending, Iter.state_done, Iter.state_fmt, Iter.state_trap, Whole.state_ran, Whole.state_stopped, Whole.state_denied] | split | with_reducible refine (foldl_pending _ ?_ _ _).trans ?_

@[simp] theorem State.modeWrite_pending (s : State) (x1 : _) : (State.modeWrite s x1).kept.1 = s.kept.1 := by
  unfold State.modeWrite
  repeat' first | with_reducible rfl | with_reducible assumption | intro _ | simp only [State.leaveLockstep_pending, kept_mk, kept_eta, kept_pending, Iter.state_done, Iter.state_fmt, Iter.state_trap, Whole.state_ran, Whole.state_stopped, Whole.state_denied] | split | with_reducible refine (foldl_pending _ ?_ _ _).trans ?_

theorem execLockstepRequest_pending {s t : State} {x0 : Sys2Proof.Word} (h : execLockstepRequest x0 s = .next t) : t.kept.1 = s.kept.1 := by
  simp only [execLockstepRequest, Host.Outcome.next.injEq] at h
  subst h
  repeat' first | with_reducible rfl | with_reducible assumption | intro _ | simp only [State.modeWrite_pending, kept_mk, kept_eta, kept_pending, Iter.state_done, Iter.state_fmt, Iter.state_trap, Whole.state_ran, Whole.state_stopped, Whole.state_denied] | split | with_reducible refine (foldl_pending _ ?_ _ _).trans ?_

theorem execLockstepEnter_pending {s t : State} (h : execLockstepEnter s = .next t) : t.kept.1 = s.kept.1 := by
  simp only [execLockstepEnter, Host.Outcome.next.injEq] at h
  subst h
  repeat' first | with_reducible rfl | with_reducible assumption | intro _ | simp only [State.raise_kept, kept_mk, kept_eta, kept_pending, Iter.state_done, Iter.state_fmt, Iter.state_trap, Whole.state_ran, Whole.state_stopped, Whole.state_denied] | split | with_reducible refine (foldl_pending _ ?_ _ _).trans ?_

theorem execClkLockLost_pending {s t : State} {x0 : BitVec 3} (h : execClkLockLost x0 s = .next t) : t.kept.1 = s.kept.1 := by
  simp only [execClkLockLost, Host.Outcome.next.injEq] at h
  subst h
  repeat' first | with_reducible rfl | with_reducible assumption | intro _ | simp only [State.leaveLockstep_pending, State.raise_kept, kept_mk, kept_eta, kept_pending, Iter.state_done, Iter.state_fmt, Iter.state_trap, Whole.state_ran, Whole.state_stopped, Whole.state_denied] | split | with_reducible refine (foldl_pending _ ?_ _ _).trans ?_

theorem execLinkRefclkLost_pending {s t : State} {x0 : Nat} (h : execLinkRefclkLost x0 s = .next t) : t.kept.1 = s.kept.1 := by
  simp only [execLinkRefclkLost, Host.Outcome.next.injEq] at h
  subst h
  repeat' first | with_reducible rfl | with_reducible assumption | intro _ | simp only [State.refclkGone_kept, kept_mk, kept_eta, kept_pending, Iter.state_done, Iter.state_fmt, Iter.state_trap, Whole.state_ran, Whole.state_stopped, Whole.state_denied] | split | with_reducible refine (foldl_pending _ ?_ _ _).trans ?_ | with_reducible refine (foldlB_pending _ ?_ _ _).trans ?_ | with_reducible refine (foldl1_pending _ ?_ _ _).trans ?_ | with_reducible refine (foldl2_pending _ ?_ _ _).trans ?_

theorem execLinkRefclkRestored_pending {s t : State} {x0 : Nat} (h : execLinkRefclkRestored x0 s = .next t) : t.kept.1 = s.kept.1 := by
  simp only [execLinkRefclkRestored, Host.Outcome.next.injEq] at h
  subst h
  repeat' first | with_reducible rfl | with_reducible assumption | intro _ | simp only [State.refclkBack_kept, kept_mk, kept_eta, kept_pending, Iter.state_done, Iter.state_fmt, Iter.state_trap, Whole.state_ran, Whole.state_stopped, Whole.state_denied] | split | with_reducible refine (foldl_pending _ ?_ _ _).trans ?_ | with_reducible refine (foldlB_pending _ ?_ _ _).trans ?_ | with_reducible refine (foldl1_pending _ ?_ _ _).trans ?_ | with_reducible refine (foldl2_pending _ ?_ _ _).trans ?_

theorem execXtalLost_pending {s t : State} (h : execXtalLost s = .next t) : t.kept.1 = s.kept.1 := by
  simp only [execXtalLost, Host.Outcome.next.injEq] at h
  subst h
  repeat' first | with_reducible rfl | with_reducible assumption | intro _ | simp only [State.raise_kept, kept_mk, kept_eta, kept_pending, Iter.state_done, Iter.state_fmt, Iter.state_trap, Whole.state_ran, Whole.state_stopped, Whole.state_denied] | split | with_reducible refine (foldl_pending _ ?_ _ _).trans ?_

theorem execSupplyRestored_pending {s t : State} (h : execSupplyRestored s = .next t) : t.kept.1 = s.kept.1 := by
  simp only [execSupplyRestored, Host.Outcome.next.injEq] at h
  subst h
  repeat' first | with_reducible rfl | with_reducible assumption | intro _ | simp only [State.moduleReset_pending, kept_mk, kept_eta, kept_pending, Iter.state_done, Iter.state_fmt, Iter.state_trap, Whole.state_ran, Whole.state_stopped, Whole.state_denied] | split | with_reducible refine (foldl_pending _ ?_ _ _).trans ?_

theorem execColdReset_pending {s t : State} {x0 : Sys2Proof.ColdCause} (h : execColdReset x0 s = .next t) : t.kept.1 = s.kept.1 := by
  simp only [execColdReset, Host.Outcome.next.injEq] at h
  subst h
  repeat' first | with_reducible rfl | with_reducible assumption | intro _ | simp only [State.coldReset_pending, State.tearSave_kept, kept_mk, kept_eta, kept_pending, Iter.state_done, Iter.state_fmt, Iter.state_trap, Whole.state_ran, Whole.state_stopped, Whole.state_denied] | split | with_reducible refine (foldl_pending _ ?_ _ _).trans ?_

@[simp] theorem State.stageAon_pending (s : State) (x1 : _) : (State.stageAon s x1).kept.1 = s.kept.1 := by
  unfold State.stageAon
  repeat' first | with_reducible rfl | with_reducible assumption | intro _ | simp only [State.bringUpFails_kept, State.raise_kept, State.stageTo_kept, kept_mk, kept_eta, kept_pending, Iter.state_done, Iter.state_fmt, Iter.state_trap, Whole.state_ran, Whole.state_stopped, Whole.state_denied] | split | with_reducible refine (foldl_pending _ ?_ _ _).trans ?_

@[simp] theorem State.stageAlign_pending (s : State) (x1 : _) : (State.stageAlign s x1).kept.1 = s.kept.1 := by
  unfold State.stageAlign
  repeat' first | with_reducible rfl | with_reducible assumption | intro _ | simp only [State.stageTo_kept, kept_mk, kept_eta, kept_pending, Iter.state_done, Iter.state_fmt, Iter.state_trap, Whole.state_ran, Whole.state_stopped, Whole.state_denied] | split | with_reducible refine (foldl_pending _ ?_ _ _).trans ?_

@[simp] theorem State.startFw_pending (s : State) (x1 : _) : (State.startFw s x1).kept.1 = s.kept.1 := by
  unfold State.startFw
  repeat' first | with_reducible rfl | with_reducible assumption | intro _ | simp only [State.stageTo_kept, State.traceStart_kept, kept_mk, kept_eta, kept_pending, Iter.state_done, Iter.state_fmt, Iter.state_trap, Whole.state_ran, Whole.state_stopped, Whole.state_denied] | split | with_reducible refine (foldl_pending _ ?_ _ _).trans ?_

@[simp] theorem State.bootKeys_pending (s : State) (x1 : _) : (State.bootKeys s x1).kept.1 = s.kept.1 := by
  unfold State.bootKeys
  repeat' first | with_reducible rfl | with_reducible assumption | intro _ | simp only [State.afterBurn_pending, State.raise_kept, kept_mk, kept_eta, kept_pending, Iter.state_done, Iter.state_fmt, Iter.state_trap, Whole.state_ran, Whole.state_stopped, Whole.state_denied] | split | with_reducible refine (foldl_pending _ ?_ _ _).trans ?_

@[simp] theorem State.stageBoot_pending (s : State) (x1 : _) : (State.stageBoot s x1).kept.1 = s.kept.1 := by
  unfold State.stageBoot
  repeat' first | with_reducible rfl | with_reducible assumption | intro _ | simp only [State.bootKeys_pending, State.bringUpFails_kept, State.bump_kept, State.raise_kept, State.startFw_pending, kept_mk, kept_eta, kept_pending, Iter.state_done, Iter.state_fmt, Iter.state_trap, Whole.state_ran, Whole.state_stopped, Whole.state_denied] | split | with_reducible refine (foldl_pending _ ?_ _ _).trans ?_

theorem execBringUpStageDone_pending {s t : State} {x0 : Sys2Proof.StageReport} (h : execBringUpStageDone x0 s = .next t) : t.kept.1 = s.kept.1 := by
  simp only [execBringUpStageDone, Host.Outcome.next.injEq] at h
  subst h
  repeat' first | with_reducible rfl | with_reducible assumption | intro _ | simp only [State.stageAlign_pending, State.stageAon_pending, State.stageBoot_pending, State.stageReady_kept, State.stageTo_kept, State.stageTrain_kept, State.stageUcie_kept, kept_mk, kept_eta, kept_pending, Iter.state_done, Iter.state_fmt, Iter.state_trap, Whole.state_ran, Whole.state_stopped, Whole.state_denied] | split | with_reducible refine (foldl_pending _ ?_ _ _).trans ?_

theorem State.lockOr_pending (s : State) (r : Reg) (a : Nat) (f : State → State) (h : ∀ t, (f t).kept.1 = t.kept.1) : (s.lockOr r a f).kept.1 = s.kept.1 := by
  unfold State.lockOr
  split
  · simp only [State.raise_kept]
  · rw [h]; rfl

@[simp] theorem State.regionWrite_pending (s : State) (v : Word) : (s.regionWrite v).kept.1 = s.kept.1 := by
  unfold State.regionWrite
  refine State.lockOr_pending _ _ _ _ fun t => ?_
  repeat' first | with_reducible rfl | simp only [State.raise_kept, State.wr_kept, kept_mk, kept_eta, kept_pending] | split

@[simp] theorem State.pwrCfgWrite_pending (s : State) (x1 : _) : (State.pwrCfgWrite s x1).kept.1 = s.kept.1 := by
  unfold State.pwrCfgWrite
  repeat' first | with_reducible rfl | with_reducible assumption | intro _ | simp only [State.raise_kept, State.wr_kept, kept_mk, kept_eta, kept_pending, Iter.state_done, Iter.state_fmt, Iter.state_trap, Whole.state_ran, Whole.state_stopped, Whole.state_denied] | split | with_reducible refine (foldl_pending _ ?_ _ _).trans ?_

@[simp] theorem State.writeReg_pending (s : State) (x1 : _) (x2 : _) : (State.writeReg s x1 x2).kept.1 = s.kept.1 := by
  unfold State.writeReg
  repeat' first | with_reducible rfl | with_reducible assumption | intro _ | simp only [State.alertWrite_kept, State.cmWrite_kept, State.cqBell_kept, State.evtRingReg_kept, State.fwCtl_kept, State.gateCtl_kept, State.modeWrite_pending, State.msiWrite_kept, State.ovfWrite_kept, State.placeWrite_pending, State.pwrCfgWrite_pending, State.rateLifted_kept, State.regionWrite_pending, State.resetCtl_pending, State.ringWrite_kept, State.sqBell_kept, State.trapWrite_kept, State.ueLogWrite_kept, State.wr_kept, kept_mk, kept_eta, kept_pending, Iter.state_done, Iter.state_fmt, Iter.state_trap, Whole.state_ran, Whole.state_stopped, Whole.state_denied] | split | with_reducible refine (foldl_pending _ ?_ _ _).trans ?_

theorem execRegisterWrite_pending {s t : State} {x0 : List Sys2Proof.Byte} {x1 : List Sys2Proof.Byte} (h : execRegisterWrite x0 x1 s = .next t) : t.kept.1 = s.kept.1 := by
  simp only [execRegisterWrite, Host.Outcome.next.injEq] at h
  subst h
  repeat' first | with_reducible rfl | with_reducible assumption | intro _ | simp only [State.bump_kept, State.writeReg_pending, kept_mk, kept_eta, kept_pending, Iter.state_done, Iter.state_fmt, Iter.state_trap, Whole.state_ran, Whole.state_stopped, Whole.state_denied] | split | with_reducible refine (foldl_pending _ ?_ _ _).trans ?_

theorem execFabricPosWrite_pending {s t : State} {x0 : Bool} {x1 : Sys2Proof.Word} (h : execFabricPosWrite x0 x1 s = .next t) : t.kept.1 = s.kept.1 := by
  simp only [execFabricPosWrite, Host.Outcome.next.injEq] at h
  subst h
  repeat' first | with_reducible rfl | with_reducible assumption | intro _ | simp only [State.placeWrite_pending, kept_mk, kept_eta, kept_pending, Iter.state_done, Iter.state_fmt, Iter.state_trap, Whole.state_ran, Whole.state_stopped, Whole.state_denied] | split | with_reducible refine (foldl_pending _ ?_ _ _).trans ?_

theorem execMemRegionSizeWrite_pending {s t : State} {x0 : Sys2Proof.Word} (h : execMemRegionSizeWrite x0 s = .next t) : t.kept.1 = s.kept.1 := by
  simp only [execMemRegionSizeWrite, Host.Outcome.next.injEq] at h
  subst h
  repeat' first | with_reducible rfl | with_reducible assumption | intro _ | simp only [State.regionWrite_pending, kept_mk, kept_eta, kept_pending, Iter.state_done, Iter.state_fmt, Iter.state_trap, Whole.state_ran, Whole.state_stopped, Whole.state_denied] | split | with_reducible refine (foldl_pending _ ?_ _ _).trans ?_

theorem execRefreshStatusRead_pending {s t : State} {x0 : Nat} {x1 : Bool} (h : execRefreshStatusRead x0 x1 s = .next t) : t.kept.1 = s.kept.1 := by
  simp only [execRefreshStatusRead, Host.Outcome.next.injEq] at h
  subst h
  repeat' first | with_reducible rfl | with_reducible assumption | intro _ | simp only [State.leaveLockstep_pending, State.raise_kept, kept_mk, kept_eta, kept_pending, Iter.state_done, Iter.state_fmt, Iter.state_trap, Whole.state_ran, Whole.state_stopped, Whole.state_denied] | split | with_reducible refine (foldl_pending _ ?_ _ _).trans ?_

theorem execHealthSample_pending {s t : State} {x0 : Nat} {x1 : Sys2Proof.Measure} (h : execHealthSample x0 x1 s = .next t) : t.kept.1 = s.kept.1 := by
  simp only [execHealthSample, Host.Outcome.next.injEq] at h
  subst h
  repeat' first | with_reducible rfl | with_reducible assumption | intro _ | simp only [State.raise_kept, kept_mk, kept_eta, kept_pending, Iter.state_done, Iter.state_fmt, Iter.state_trap, Whole.state_ran, Whole.state_stopped, Whole.state_denied] | split | with_reducible refine (foldl_pending _ ?_ _ _).trans ?_

/-! ### OTP and keys where a function changes another of them -/

theorem kept_sec (s : State) : s.sec = s.kept.2.1 := (rfl)

theorem foldl_sec {α : Type} (f : State → α → State) (h : ∀ t a, (f t a).kept.2.1 = t.kept.2.1) (l : List α) (b : State) :
    (l.foldl f b).kept.2.1 = b.kept.2.1 := by
  induction l generalizing b with
  | nil => rfl
  | cons a l ih => rw [List.foldl_cons, ih, h]

theorem foldlB_sec {α : Type} (f : Body → α → Body) (h : ∀ t a, (f t a).s.kept.2.1 = t.s.kept.2.1) (l : List α) (b : Body) :
    (l.foldl f b).s.kept.2.1 = b.s.kept.2.1 := by
  induction l generalizing b with
  | nil => rfl
  | cons a l ih => rw [List.foldl_cons, ih, h]

theorem foldl1_sec {α β : Type} (f : State × β → α → State × β) (h : ∀ t a, (f t a).1.kept.2.1 = t.1.kept.2.1) (l : List α) (b : State × β) :
    (l.foldl f b).1.kept.2.1 = b.1.kept.2.1 := by
  induction l generalizing b with
  | nil => rfl
  | cons a l ih => rw [List.foldl_cons, ih, h]

theorem foldl2_sec {α β : Type} (f : β × State → α → β × State) (h : ∀ t a, (f t a).2.kept.2.1 = t.2.kept.2.1) (l : List α) (b : β × State) :
    (l.foldl f b).2.kept.2.1 = b.2.kept.2.1 := by
  induction l generalizing b with
  | nil => rfl
  | cons a l ih => rw [List.foldl_cons, ih, h]

@[simp] theorem State.tick_sec (s : State) : (State.tick s).kept.2.1 = s.kept.2.1 := by
  unfold State.tick
  repeat' first | with_reducible rfl | with_reducible assumption | intro _ | simp only [kept_mk, kept_eta, kept_sec, Iter.state_done, Iter.state_fmt, Iter.state_trap, Whole.state_ran, Whole.state_stopped, Whole.state_denied] | split | with_reducible refine (foldl_sec _ ?_ _ _).trans ?_

@[simp] theorem State.placeWrite_sec (s : State) (x1 : _) (x2 : _) : (State.placeWrite s x1 x2).kept.2.1 = s.kept.2.1 := by
  unfold State.placeWrite
  repeat' first | with_reducible rfl | with_reducible assumption | intro _ | simp only [State.raise_kept, State.wr_kept, kept_mk, kept_eta, kept_sec, Iter.state_done, Iter.state_fmt, Iter.state_trap, Whole.state_ran, Whole.state_stopped, Whole.state_denied] | split | with_reducible refine (foldl_sec _ ?_ _ _).trans ?_

@[simp] theorem State.takeMembership_sec (s : State) (x1 : _) : (State.takeMembership s x1).kept.2.1 = s.kept.2.1 := by
  unfold State.takeMembership
  repeat' first | with_reducible rfl | with_reducible assumption | intro _ | simp only [State.admitParty_kept, State.nameTwin_kept, State.placeWrite_sec, State.rebuildGroups_kept, State.rebuildRoutes_kept, kept_mk, kept_eta, kept_sec, Iter.state_done, Iter.state_fmt, Iter.state_trap, Whole.state_ran, Whole.state_stopped, Whole.state_denied] | split | with_reducible refine (foldl_sec _ ?_ _ _).trans ?_ | with_reducible refine (foldlB_sec _ ?_ _ _).trans ?_ | with_reducible refine (foldl1_sec _ ?_ _ _).trans ?_ | with_reducible refine (foldl2_sec _ ?_ _ _).trans ?_

theorem execMembershipSet_sec {s t : State} {x0 : Sys2Proof.Req} {x1 : List Sys2Proof.Byte} (h : execMembershipSet x0 x1 s = .next t) : t.kept.2.1 = s.kept.2.1 := by
  simp only [execMembershipSet, Host.Outcome.next.injEq] at h
  subst h
  repeat' first | with_reducible rfl | with_reducible assumption | intro _ | simp only [State.ok_kept, State.refuseAt_kept, State.settle_kept, State.takeMembership_sec, kept_mk, kept_eta, kept_sec, Iter.state_done, Iter.state_fmt, Iter.state_trap, Whole.state_ran, Whole.state_stopped, Whole.state_denied] | split | with_reducible refine (foldl_sec _ ?_ _ _).trans ?_

@[simp] theorem State.leaveLockstep_sec (s : State) (x1 : _) : (State.leaveLockstep s x1).kept.2.1 = s.kept.2.1 := by
  unfold State.leaveLockstep
  repeat' first | with_reducible rfl | with_reducible assumption | intro _ | simp only [State.bump_kept, State.raise_kept, kept_mk, kept_eta, kept_sec, Iter.state_done, Iter.state_fmt, Iter.state_trap, Whole.state_ran, Whole.state_stopped, Whole.state_denied] | split | with_reducible refine (foldl_sec _ ?_ _ _).trans ?_

@[simp] theorem State.modeWrite_sec (s : State) (x1 : _) : (State.modeWrite s x1).kept.2.1 = s.kept.2.1 := by
  unfold State.modeWrite
  repeat' first | with_reducible rfl | with_reducible assumption | intro _ | simp only [State.leaveLockstep_sec, kept_mk, kept_eta, kept_sec, Iter.state_done, Iter.state_fmt, Iter.state_trap, Whole.state_ran, Whole.state_stopped, Whole.state_denied] | split | with_reducible refine (foldl_sec _ ?_ _ _).trans ?_

theorem execLockstepRequest_sec {s t : State} {x0 : Sys2Proof.Word} (h : execLockstepRequest x0 s = .next t) : t.kept.2.1 = s.kept.2.1 := by
  simp only [execLockstepRequest, Host.Outcome.next.injEq] at h
  subst h
  repeat' first | with_reducible rfl | with_reducible assumption | intro _ | simp only [State.modeWrite_sec, kept_mk, kept_eta, kept_sec, Iter.state_done, Iter.state_fmt, Iter.state_trap, Whole.state_ran, Whole.state_stopped, Whole.state_denied] | split | with_reducible refine (foldl_sec _ ?_ _ _).trans ?_

theorem execLockstepEnter_sec {s t : State} (h : execLockstepEnter s = .next t) : t.kept.2.1 = s.kept.2.1 := by
  simp only [execLockstepEnter, Host.Outcome.next.injEq] at h
  subst h
  repeat' first | with_reducible rfl | with_reducible assumption | intro _ | simp only [State.raise_kept, kept_mk, kept_eta, kept_sec, Iter.state_done, Iter.state_fmt, Iter.state_trap, Whole.state_ran, Whole.state_stopped, Whole.state_denied] | split | with_reducible refine (foldl_sec _ ?_ _ _).trans ?_

theorem execClkLockLost_sec {s t : State} {x0 : BitVec 3} (h : execClkLockLost x0 s = .next t) : t.kept.2.1 = s.kept.2.1 := by
  simp only [execClkLockLost, Host.Outcome.next.injEq] at h
  subst h
  repeat' first | with_reducible rfl | with_reducible assumption | intro _ | simp only [State.leaveLockstep_sec, State.raise_kept, kept_mk, kept_eta, kept_sec, Iter.state_done, Iter.state_fmt, Iter.state_trap, Whole.state_ran, Whole.state_stopped, Whole.state_denied] | split | with_reducible refine (foldl_sec _ ?_ _ _).trans ?_

theorem execLinkRefclkLost_sec {s t : State} {x0 : Nat} (h : execLinkRefclkLost x0 s = .next t) : t.kept.2.1 = s.kept.2.1 := by
  simp only [execLinkRefclkLost, Host.Outcome.next.injEq] at h
  subst h
  repeat' first | with_reducible rfl | with_reducible assumption | intro _ | simp only [State.refclkGone_kept, kept_mk, kept_eta, kept_sec, Iter.state_done, Iter.state_fmt, Iter.state_trap, Whole.state_ran, Whole.state_stopped, Whole.state_denied] | split | with_reducible refine (foldl_sec _ ?_ _ _).trans ?_ | with_reducible refine (foldlB_sec _ ?_ _ _).trans ?_ | with_reducible refine (foldl1_sec _ ?_ _ _).trans ?_ | with_reducible refine (foldl2_sec _ ?_ _ _).trans ?_

theorem execLinkRefclkRestored_sec {s t : State} {x0 : Nat} (h : execLinkRefclkRestored x0 s = .next t) : t.kept.2.1 = s.kept.2.1 := by
  simp only [execLinkRefclkRestored, Host.Outcome.next.injEq] at h
  subst h
  repeat' first | with_reducible rfl | with_reducible assumption | intro _ | simp only [State.refclkBack_kept, kept_mk, kept_eta, kept_sec, Iter.state_done, Iter.state_fmt, Iter.state_trap, Whole.state_ran, Whole.state_stopped, Whole.state_denied] | split | with_reducible refine (foldl_sec _ ?_ _ _).trans ?_ | with_reducible refine (foldlB_sec _ ?_ _ _).trans ?_ | with_reducible refine (foldl1_sec _ ?_ _ _).trans ?_ | with_reducible refine (foldl2_sec _ ?_ _ _).trans ?_

theorem execXtalLost_sec {s t : State} (h : execXtalLost s = .next t) : t.kept.2.1 = s.kept.2.1 := by
  simp only [execXtalLost, Host.Outcome.next.injEq] at h
  subst h
  repeat' first | with_reducible rfl | with_reducible assumption | intro _ | simp only [State.raise_kept, kept_mk, kept_eta, kept_sec, Iter.state_done, Iter.state_fmt, Iter.state_trap, Whole.state_ran, Whole.state_stopped, Whole.state_denied] | split | with_reducible refine (foldl_sec _ ?_ _ _).trans ?_

@[simp] theorem State.stageAlign_sec (s : State) (x1 : _) : (State.stageAlign s x1).kept.2.1 = s.kept.2.1 := by
  unfold State.stageAlign
  repeat' first | with_reducible rfl | with_reducible assumption | intro _ | simp only [State.stageTo_kept, kept_mk, kept_eta, kept_sec, Iter.state_done, Iter.state_fmt, Iter.state_trap, Whole.state_ran, Whole.state_stopped, Whole.state_denied] | split | with_reducible refine (foldl_sec _ ?_ _ _).trans ?_

theorem State.lockOr_sec (s : State) (r : Reg) (a : Nat) (f : State → State) (h : ∀ t, (f t).kept.2.1 = t.kept.2.1) : (s.lockOr r a f).kept.2.1 = s.kept.2.1 := by
  unfold State.lockOr
  split
  · simp only [State.raise_kept]
  · rw [h]; rfl

@[simp] theorem State.regionWrite_sec (s : State) (v : Word) : (s.regionWrite v).kept.2.1 = s.kept.2.1 := by
  unfold State.regionWrite
  refine State.lockOr_sec _ _ _ _ fun t => ?_
  repeat' first | with_reducible rfl | simp only [State.raise_kept, State.wr_kept, kept_mk, kept_eta, kept_sec] | split

@[simp] theorem State.pwrCfgWrite_sec (s : State) (x1 : _) : (State.pwrCfgWrite s x1).kept.2.1 = s.kept.2.1 := by
  unfold State.pwrCfgWrite
  repeat' first | with_reducible rfl | with_reducible assumption | intro _ | simp only [State.raise_kept, State.wr_kept, kept_mk, kept_eta, kept_sec, Iter.state_done, Iter.state_fmt, Iter.state_trap, Whole.state_ran, Whole.state_stopped, Whole.state_denied] | split | with_reducible refine (foldl_sec _ ?_ _ _).trans ?_

theorem execFabricPosWrite_sec {s t : State} {x0 : Bool} {x1 : Sys2Proof.Word} (h : execFabricPosWrite x0 x1 s = .next t) : t.kept.2.1 = s.kept.2.1 := by
  simp only [execFabricPosWrite, Host.Outcome.next.injEq] at h
  subst h
  repeat' first | with_reducible rfl | with_reducible assumption | intro _ | simp only [State.placeWrite_sec, kept_mk, kept_eta, kept_sec, Iter.state_done, Iter.state_fmt, Iter.state_trap, Whole.state_ran, Whole.state_stopped, Whole.state_denied] | split | with_reducible refine (foldl_sec _ ?_ _ _).trans ?_

theorem execMemRegionSizeWrite_sec {s t : State} {x0 : Sys2Proof.Word} (h : execMemRegionSizeWrite x0 s = .next t) : t.kept.2.1 = s.kept.2.1 := by
  simp only [execMemRegionSizeWrite, Host.Outcome.next.injEq] at h
  subst h
  repeat' first | with_reducible rfl | with_reducible assumption | intro _ | simp only [State.regionWrite_sec, kept_mk, kept_eta, kept_sec, Iter.state_done, Iter.state_fmt, Iter.state_trap, Whole.state_ran, Whole.state_stopped, Whole.state_denied] | split | with_reducible refine (foldl_sec _ ?_ _ _).trans ?_

theorem execRefreshStatusRead_sec {s t : State} {x0 : Nat} {x1 : Bool} (h : execRefreshStatusRead x0 x1 s = .next t) : t.kept.2.1 = s.kept.2.1 := by
  simp only [execRefreshStatusRead, Host.Outcome.next.injEq] at h
  subst h
  repeat' first | with_reducible rfl | with_reducible assumption | intro _ | simp only [State.leaveLockstep_sec, State.raise_kept, kept_mk, kept_eta, kept_sec, Iter.state_done, Iter.state_fmt, Iter.state_trap, Whole.state_ran, Whole.state_stopped, Whole.state_denied] | split | with_reducible refine (foldl_sec _ ?_ _ _).trans ?_

theorem execHealthSample_sec {s t : State} {x0 : Nat} {x1 : Sys2Proof.Measure} (h : execHealthSample x0 x1 s = .next t) : t.kept.2.1 = s.kept.2.1 := by
  simp only [execHealthSample, Host.Outcome.next.injEq] at h
  subst h
  repeat' first | with_reducible rfl | with_reducible assumption | intro _ | simp only [State.raise_kept, kept_mk, kept_eta, kept_sec, Iter.state_done, Iter.state_fmt, Iter.state_trap, Whole.state_ran, Whole.state_stopped, Whole.state_denied] | split | with_reducible refine (foldl_sec _ ?_ _ _).trans ?_

/-! ### Clocks where a function changes another of them -/

theorem kept_clk (s : State) : s.clk = s.kept.2.2.1 := (rfl)

theorem foldl_clk {α : Type} (f : State → α → State) (h : ∀ t a, (f t a).kept.2.2.1 = t.kept.2.2.1) (l : List α) (b : State) :
    (l.foldl f b).kept.2.2.1 = b.kept.2.2.1 := by
  induction l generalizing b with
  | nil => rfl
  | cons a l ih => rw [List.foldl_cons, ih, h]

theorem foldlB_clk {α : Type} (f : Body → α → Body) (h : ∀ t a, (f t a).s.kept.2.2.1 = t.s.kept.2.2.1) (l : List α) (b : Body) :
    (l.foldl f b).s.kept.2.2.1 = b.s.kept.2.2.1 := by
  induction l generalizing b with
  | nil => rfl
  | cons a l ih => rw [List.foldl_cons, ih, h]

theorem foldl1_clk {α β : Type} (f : State × β → α → State × β) (h : ∀ t a, (f t a).1.kept.2.2.1 = t.1.kept.2.2.1) (l : List α) (b : State × β) :
    (l.foldl f b).1.kept.2.2.1 = b.1.kept.2.2.1 := by
  induction l generalizing b with
  | nil => rfl
  | cons a l ih => rw [List.foldl_cons, ih, h]

theorem foldl2_clk {α β : Type} (f : β × State → α → β × State) (h : ∀ t a, (f t a).2.kept.2.2.1 = t.2.kept.2.2.1) (l : List α) (b : β × State) :
    (l.foldl f b).2.kept.2.2.1 = b.2.kept.2.2.1 := by
  induction l generalizing b with
  | nil => rfl
  | cons a l ih => rw [List.foldl_cons, ih, h]

@[simp] theorem State.placeWrite_clk (s : State) (x1 : _) (x2 : _) : (State.placeWrite s x1 x2).kept.2.2.1 = s.kept.2.2.1 := by
  unfold State.placeWrite
  repeat' first | with_reducible rfl | with_reducible assumption | intro _ | simp only [State.raise_kept, State.wr_kept, kept_mk, kept_eta, kept_clk, Iter.state_done, Iter.state_fmt, Iter.state_trap, Whole.state_ran, Whole.state_stopped, Whole.state_denied] | split | with_reducible refine (foldl_clk _ ?_ _ _).trans ?_

@[simp] theorem State.takeMembership_clk (s : State) (x1 : _) : (State.takeMembership s x1).kept.2.2.1 = s.kept.2.2.1 := by
  unfold State.takeMembership
  repeat' first | with_reducible rfl | with_reducible assumption | intro _ | simp only [State.admitParty_kept, State.nameTwin_kept, State.placeWrite_clk, State.rebuildGroups_kept, State.rebuildRoutes_kept, kept_mk, kept_eta, kept_clk, Iter.state_done, Iter.state_fmt, Iter.state_trap, Whole.state_ran, Whole.state_stopped, Whole.state_denied] | split | with_reducible refine (foldl_clk _ ?_ _ _).trans ?_ | with_reducible refine (foldlB_clk _ ?_ _ _).trans ?_ | with_reducible refine (foldl1_clk _ ?_ _ _).trans ?_ | with_reducible refine (foldl2_clk _ ?_ _ _).trans ?_

theorem execMembershipSet_clk {s t : State} {x0 : Sys2Proof.Req} {x1 : List Sys2Proof.Byte} (h : execMembershipSet x0 x1 s = .next t) : t.kept.2.2.1 = s.kept.2.2.1 := by
  simp only [execMembershipSet, Host.Outcome.next.injEq] at h
  subst h
  repeat' first | with_reducible rfl | with_reducible assumption | intro _ | simp only [State.ok_kept, State.refuseAt_kept, State.settle_kept, State.takeMembership_clk, kept_mk, kept_eta, kept_clk, Iter.state_done, Iter.state_fmt, Iter.state_trap, Whole.state_ran, Whole.state_stopped, Whole.state_denied] | split | with_reducible refine (foldl_clk _ ?_ _ _).trans ?_

@[simp] theorem State.burnConfig_clk (s : State) (x1 : _) (x2 : _) : (State.burnConfig s x1 x2).1.kept.2.2.1 = s.kept.2.2.1 := by
  unfold State.burnConfig
  repeat' first | with_reducible rfl | with_reducible assumption | intro _ | simp only [kept_mk, kept_eta, kept_clk, Iter.state_done, Iter.state_fmt, Iter.state_trap, Whole.state_ran, Whole.state_stopped, Whole.state_denied] | split | with_reducible refine (foldl_clk _ ?_ _ _).trans ?_

@[simp] theorem State.beforeBurn_clk (s : State) (x1 : _) (x2 : _) (x3 : _) : (State.beforeBurn s x1 x2 x3).1.kept.2.2.1 = s.kept.2.2.1 := by
  unfold State.beforeBurn
  repeat' first | with_reducible rfl | with_reducible assumption | intro _ | simp only [State.burnConfig_clk, State.draw_kept, kept_mk, kept_eta, kept_clk, Iter.state_done, Iter.state_fmt, Iter.state_trap, Whole.state_ran, Whole.state_stopped, Whole.state_denied] | split | with_reducible refine (foldl_clk _ ?_ _ _).trans ?_

@[simp] theorem State.afterBurn_clk (s : State) (x1 : _) : (State.afterBurn s x1).kept.2.2.1 = s.kept.2.2.1 := by
  unfold State.afterBurn
  repeat' first | with_reducible rfl | with_reducible assumption | intro _ | simp only [kept_mk, kept_eta, kept_clk, Iter.state_done, Iter.state_fmt, Iter.state_trap, Whole.state_ran, Whole.state_stopped, Whole.state_denied] | split | with_reducible refine (foldl_clk _ ?_ _ _).trans ?_

@[simp] theorem State.transition_clk (s : State) (rq : Req) (a b : Nat) (r : Record) : (s.transition rq a b r).kept.2.2.1 = s.kept.2.2.1 := by
  have hb := State.beforeBurn_clk s a b r
  unfold State.transition
  split
  · rename_i t off h
    rw [h] at hb
    simp only [State.burnFail_kept]
    dsimp only at hb
    rw [hb]
  · rename_i t h
    rw [h] at hb
    dsimp only at hb
    split
    · simp only [State.burnFail_kept]
      show t.kept.2.2.1 = s.kept.2.2.1
      rw [hb]
    · simp only [State.raise_kept, State.answer_kept, State.lapisWipe_kept, State.afterBurn_clk]
      show t.kept.2.2.1 = s.kept.2.2.1
      rw [hb]

@[simp] theorem State.maintain_clk (s : State) (rq : Req) (r : Record) : (s.maintain rq r).kept.2.2.1 = s.kept.2.2.1 := by
  unfold State.maintain
  repeat' first | with_reducible rfl | simp only [State.fail_kept, State.burnFail_kept, State.ok_kept, State.lapisWipe_kept, kept_mk, kept_clk] | split
  all_goals
    rename_i h
    have e := congrArg (fun p => p.1.kept.2.2.1) h
    simp only [State.burnConfig_clk, kept_mk] at e
    exact e.symm

@[simp] theorem State.signedRequest_clk (s : State) (x1 : _) (x2 : _) (x3 : _) (x4 : _) : (State.signedRequest s x1 x2 x3 x4).kept.2.2.1 = s.kept.2.2.1 := by
  unfold State.signedRequest
  repeat' first | with_reducible rfl | with_reducible assumption | intro _ | simp only [State.fail_kept, State.maintain_clk, State.transition_clk, kept_mk, kept_eta, kept_clk, Iter.state_done, Iter.state_fmt, Iter.state_trap, Whole.state_ran, Whole.state_stopped, Whole.state_denied] | split | with_reducible refine (foldl_clk _ ?_ _ _).trans ?_

theorem execLifecycle_clk {s t : State} {x0 : Sys2Proof.Req} {x1 : List Sys2Proof.Byte} {x2 : Sys2Proof.SigAnswer} (h : execLifecycle x0 x1 x2 s = .next t) : t.kept.2.2.1 = s.kept.2.2.1 := by
  simp only [execLifecycle, Host.Outcome.next.injEq] at h
  subst h
  repeat' first | with_reducible rfl | with_reducible assumption | intro _ | simp only [State.authFail_kept, State.fail_kept, State.signedRequest_clk, State.transition_clk, kept_mk, kept_eta, kept_clk, Iter.state_done, Iter.state_fmt, Iter.state_trap, Whole.state_ran, Whole.state_stopped, Whole.state_denied] | split | with_reducible refine (foldl_clk _ ?_ _ _).trans ?_

theorem execFwRestartDone_clk {s t : State} (h : execFwRestartDone s = .next t) : t.kept.2.2.1 = s.kept.2.2.1 := by
  simp only [execFwRestartDone, Host.Outcome.next.injEq] at h
  subst h
  repeat' first | with_reducible rfl | with_reducible assumption | intro _ | simp only [State.abortRequest_kept, State.catchUp_kept, State.raise_kept, State.traceStart_kept, kept_mk, kept_eta, kept_clk, Iter.state_done, Iter.state_fmt, Iter.state_trap, Whole.state_ran, Whole.state_stopped, Whole.state_denied] | split | with_reducible refine (foldl_clk _ ?_ _ _).trans ?_ | with_reducible refine (foldlB_clk _ ?_ _ _).trans ?_ | with_reducible refine (foldl1_clk _ ?_ _ _).trans ?_ | with_reducible refine (foldl2_clk _ ?_ _ _).trans ?_

@[simp] theorem State.takeOver_clk (s : State) (x1 : _) : (State.takeOver s x1).kept.2.2.1 = s.kept.2.2.1 := by
  unfold State.takeOver
  repeat' first | with_reducible rfl | with_reducible assumption | intro _ | simp only [State.ok_kept, State.stagePassed_kept, State.traceStart_kept, kept_mk, kept_eta, kept_clk, Iter.state_done, Iter.state_fmt, Iter.state_trap, Whole.state_ran, Whole.state_stopped, Whole.state_denied] | split | with_reducible refine (foldl_clk _ ?_ _ _).trans ?_

theorem execFwHandoff_clk {s t : State} {x0 : Bool} (h : execFwHandoff x0 s = .next t) : t.kept.2.2.1 = s.kept.2.2.1 := by
  simp only [execFwHandoff, Host.Outcome.next.injEq] at h
  subst h
  repeat' first | with_reducible rfl | with_reducible assumption | intro _ | simp only [State.fail_kept, State.stageFailed_kept, State.stagePassed_kept, State.takeOver_clk, State.writeHandoff_kept, kept_mk, kept_eta, kept_clk, Iter.state_done, Iter.state_fmt, Iter.state_trap, Whole.state_ran, Whole.state_stopped, Whole.state_denied] | split | with_reducible refine (foldl_clk _ ?_ _ _).trans ?_

@[simp] theorem State.startFw_clk (s : State) (x1 : _) : (State.startFw s x1).kept.2.2.1 = s.kept.2.2.1 := by
  unfold State.startFw
  repeat' first | with_reducible rfl | with_reducible assumption | intro _ | simp only [State.stageTo_kept, State.traceStart_kept, kept_mk, kept_eta, kept_clk, Iter.state_done, Iter.state_fmt, Iter.state_trap, Whole.state_ran, Whole.state_stopped, Whole.state_denied] | split | with_reducible refine (foldl_clk _ ?_ _ _).trans ?_

@[simp] theorem State.bootKeys_clk (s : State) (x1 : _) : (State.bootKeys s x1).kept.2.2.1 = s.kept.2.2.1 := by
  unfold State.bootKeys
  repeat' first | with_reducible rfl | with_reducible assumption | intro _ | simp only [State.afterBurn_clk, State.raise_kept, kept_mk, kept_eta, kept_clk, Iter.state_done, Iter.state_fmt, Iter.state_trap, Whole.state_ran, Whole.state_stopped, Whole.state_denied] | split | with_reducible refine (foldl_clk _ ?_ _ _).trans ?_

@[simp] theorem State.stageBoot_clk (s : State) (x1 : _) : (State.stageBoot s x1).kept.2.2.1 = s.kept.2.2.1 := by
  unfold State.stageBoot
  repeat' first | with_reducible rfl | with_reducible assumption | intro _ | simp only [State.bootKeys_clk, State.bringUpFails_kept, State.bump_kept, State.raise_kept, State.startFw_clk, kept_mk, kept_eta, kept_clk, Iter.state_done, Iter.state_fmt, Iter.state_trap, Whole.state_ran, Whole.state_stopped, Whole.state_denied] | split | with_reducible refine (foldl_clk _ ?_ _ _).trans ?_

theorem State.lockOr_clk (s : State) (r : Reg) (a : Nat) (f : State → State) (h : ∀ t, (f t).kept.2.2.1 = t.kept.2.2.1) : (s.lockOr r a f).kept.2.2.1 = s.kept.2.2.1 := by
  unfold State.lockOr
  split
  · simp only [State.raise_kept]
  · rw [h]; rfl

@[simp] theorem State.regionWrite_clk (s : State) (v : Word) : (s.regionWrite v).kept.2.2.1 = s.kept.2.2.1 := by
  unfold State.regionWrite
  refine State.lockOr_clk _ _ _ _ fun t => ?_
  repeat' first | with_reducible rfl | simp only [State.raise_kept, State.wr_kept, kept_mk, kept_eta, kept_clk] | split

@[simp] theorem State.pwrCfgWrite_clk (s : State) (x1 : _) : (State.pwrCfgWrite s x1).kept.2.2.1 = s.kept.2.2.1 := by
  unfold State.pwrCfgWrite
  repeat' first | with_reducible rfl | with_reducible assumption | intro _ | simp only [State.raise_kept, State.wr_kept, kept_mk, kept_eta, kept_clk, Iter.state_done, Iter.state_fmt, Iter.state_trap, Whole.state_ran, Whole.state_stopped, Whole.state_denied] | split | with_reducible refine (foldl_clk _ ?_ _ _).trans ?_

theorem execFabricPosWrite_clk {s t : State} {x0 : Bool} {x1 : Sys2Proof.Word} (h : execFabricPosWrite x0 x1 s = .next t) : t.kept.2.2.1 = s.kept.2.2.1 := by
  simp only [execFabricPosWrite, Host.Outcome.next.injEq] at h
  subst h
  repeat' first | with_reducible rfl | with_reducible assumption | intro _ | simp only [State.placeWrite_clk, kept_mk, kept_eta, kept_clk, Iter.state_done, Iter.state_fmt, Iter.state_trap, Whole.state_ran, Whole.state_stopped, Whole.state_denied] | split | with_reducible refine (foldl_clk _ ?_ _ _).trans ?_

theorem execMemRegionSizeWrite_clk {s t : State} {x0 : Sys2Proof.Word} (h : execMemRegionSizeWrite x0 s = .next t) : t.kept.2.2.1 = s.kept.2.2.1 := by
  simp only [execMemRegionSizeWrite, Host.Outcome.next.injEq] at h
  subst h
  repeat' first | with_reducible rfl | with_reducible assumption | intro _ | simp only [State.regionWrite_clk, kept_mk, kept_eta, kept_clk, Iter.state_done, Iter.state_fmt, Iter.state_trap, Whole.state_ran, Whole.state_stopped, Whole.state_denied] | split | with_reducible refine (foldl_clk _ ?_ _ _).trans ?_

theorem execHealthSample_clk {s t : State} {x0 : Nat} {x1 : Sys2Proof.Measure} (h : execHealthSample x0 x1 s = .next t) : t.kept.2.2.1 = s.kept.2.2.1 := by
  simp only [execHealthSample, Host.Outcome.next.injEq] at h
  subst h
  repeat' first | with_reducible rfl | with_reducible assumption | intro _ | simp only [State.raise_kept, kept_mk, kept_eta, kept_clk, Iter.state_done, Iter.state_fmt, Iter.state_trap, Whole.state_ran, Whole.state_stopped, Whole.state_denied] | split | with_reducible refine (foldl_clk _ ?_ _ _).trans ?_

/-! ### Locks where a function changes another of them -/

theorem kept_locked (s : State) : s.locked = s.kept.2.2.2.1 := (rfl)

theorem foldl_locked {α : Type} (f : State → α → State) (h : ∀ t a, (f t a).kept.2.2.2.1 = t.kept.2.2.2.1) (l : List α) (b : State) :
    (l.foldl f b).kept.2.2.2.1 = b.kept.2.2.2.1 := by
  induction l generalizing b with
  | nil => rfl
  | cons a l ih => rw [List.foldl_cons, ih, h]

theorem foldlB_locked {α : Type} (f : Body → α → Body) (h : ∀ t a, (f t a).s.kept.2.2.2.1 = t.s.kept.2.2.2.1) (l : List α) (b : Body) :
    (l.foldl f b).s.kept.2.2.2.1 = b.s.kept.2.2.2.1 := by
  induction l generalizing b with
  | nil => rfl
  | cons a l ih => rw [List.foldl_cons, ih, h]

theorem foldl1_locked {α β : Type} (f : State × β → α → State × β) (h : ∀ t a, (f t a).1.kept.2.2.2.1 = t.1.kept.2.2.2.1) (l : List α) (b : State × β) :
    (l.foldl f b).1.kept.2.2.2.1 = b.1.kept.2.2.2.1 := by
  induction l generalizing b with
  | nil => rfl
  | cons a l ih => rw [List.foldl_cons, ih, h]

theorem foldl2_locked {α β : Type} (f : β × State → α → β × State) (h : ∀ t a, (f t a).2.kept.2.2.2.1 = t.2.kept.2.2.2.1) (l : List α) (b : β × State) :
    (l.foldl f b).2.kept.2.2.2.1 = b.2.kept.2.2.2.1 := by
  induction l generalizing b with
  | nil => rfl
  | cons a l ih => rw [List.foldl_cons, ih, h]

@[simp] theorem State.tick_locked (s : State) : (State.tick s).kept.2.2.2.1 = s.kept.2.2.2.1 := by
  unfold State.tick
  repeat' first | with_reducible rfl | with_reducible assumption | intro _ | simp only [kept_mk, kept_eta, kept_locked, Iter.state_done, Iter.state_fmt, Iter.state_trap, Whole.state_ran, Whole.state_stopped, Whole.state_denied] | split | with_reducible refine (foldl_locked _ ?_ _ _).trans ?_

@[simp] theorem State.burnConfig_locked (s : State) (x1 : _) (x2 : _) : (State.burnConfig s x1 x2).1.kept.2.2.2.1 = s.kept.2.2.2.1 := by
  unfold State.burnConfig
  repeat' first | with_reducible rfl | with_reducible assumption | intro _ | simp only [kept_mk, kept_eta, kept_locked, Iter.state_done, Iter.state_fmt, Iter.state_trap, Whole.state_ran, Whole.state_stopped, Whole.state_denied] | split | with_reducible refine (foldl_locked _ ?_ _ _).trans ?_

@[simp] theorem State.beforeBurn_locked (s : State) (x1 : _) (x2 : _) (x3 : _) : (State.beforeBurn s x1 x2 x3).1.kept.2.2.2.1 = s.kept.2.2.2.1 := by
  unfold State.beforeBurn
  repeat' first | with_reducible rfl | with_reducible assumption | intro _ | simp only [State.burnConfig_locked, State.draw_kept, kept_mk, kept_eta, kept_locked, Iter.state_done, Iter.state_fmt, Iter.state_trap, Whole.state_ran, Whole.state_stopped, Whole.state_denied] | split | with_reducible refine (foldl_locked _ ?_ _ _).trans ?_

@[simp] theorem State.afterBurn_locked (s : State) (x1 : _) : (State.afterBurn s x1).kept.2.2.2.1 = s.kept.2.2.2.1 := by
  unfold State.afterBurn
  repeat' first | with_reducible rfl | with_reducible assumption | intro _ | simp only [kept_mk, kept_eta, kept_locked, Iter.state_done, Iter.state_fmt, Iter.state_trap, Whole.state_ran, Whole.state_stopped, Whole.state_denied] | split | with_reducible refine (foldl_locked _ ?_ _ _).trans ?_

@[simp] theorem State.transition_locked (s : State) (rq : Req) (a b : Nat) (r : Record) : (s.transition rq a b r).kept.2.2.2.1 = s.kept.2.2.2.1 := by
  have hb := State.beforeBurn_locked s a b r
  unfold State.transition
  split
  · rename_i t off h
    rw [h] at hb
    simp only [State.burnFail_kept]
    dsimp only at hb
    rw [hb]
  · rename_i t h
    rw [h] at hb
    dsimp only at hb
    split
    · simp only [State.burnFail_kept]
      show t.kept.2.2.2.1 = s.kept.2.2.2.1
      rw [hb]
    · simp only [State.raise_kept, State.answer_kept, State.lapisWipe_kept, State.afterBurn_locked]
      show t.kept.2.2.2.1 = s.kept.2.2.2.1
      rw [hb]

@[simp] theorem State.maintain_locked (s : State) (rq : Req) (r : Record) : (s.maintain rq r).kept.2.2.2.1 = s.kept.2.2.2.1 := by
  unfold State.maintain
  repeat' first | with_reducible rfl | simp only [State.fail_kept, State.burnFail_kept, State.ok_kept, State.lapisWipe_kept, kept_mk, kept_locked] | split
  all_goals
    rename_i h
    have e := congrArg (fun p => p.1.kept.2.2.2.1) h
    simp only [State.burnConfig_locked, kept_mk] at e
    exact e.symm

@[simp] theorem State.signedRequest_locked (s : State) (x1 : _) (x2 : _) (x3 : _) (x4 : _) : (State.signedRequest s x1 x2 x3 x4).kept.2.2.2.1 = s.kept.2.2.2.1 := by
  unfold State.signedRequest
  repeat' first | with_reducible rfl | with_reducible assumption | intro _ | simp only [State.fail_kept, State.maintain_locked, State.transition_locked, kept_mk, kept_eta, kept_locked, Iter.state_done, Iter.state_fmt, Iter.state_trap, Whole.state_ran, Whole.state_stopped, Whole.state_denied] | split | with_reducible refine (foldl_locked _ ?_ _ _).trans ?_

theorem execLifecycle_locked {s t : State} {x0 : Sys2Proof.Req} {x1 : List Sys2Proof.Byte} {x2 : Sys2Proof.SigAnswer} (h : execLifecycle x0 x1 x2 s = .next t) : t.kept.2.2.2.1 = s.kept.2.2.2.1 := by
  simp only [execLifecycle, Host.Outcome.next.injEq] at h
  subst h
  repeat' first | with_reducible rfl | with_reducible assumption | intro _ | simp only [State.authFail_kept, State.fail_kept, State.signedRequest_locked, State.transition_locked, kept_mk, kept_eta, kept_locked, Iter.state_done, Iter.state_fmt, Iter.state_trap, Whole.state_ran, Whole.state_stopped, Whole.state_denied] | split | with_reducible refine (foldl_locked _ ?_ _ _).trans ?_

theorem execFwRestartDone_locked {s t : State} (h : execFwRestartDone s = .next t) : t.kept.2.2.2.1 = s.kept.2.2.2.1 := by
  simp only [execFwRestartDone, Host.Outcome.next.injEq] at h
  subst h
  repeat' first | with_reducible rfl | with_reducible assumption | intro _ | simp only [State.abortRequest_kept, State.catchUp_kept, State.raise_kept, State.traceStart_kept, kept_mk, kept_eta, kept_locked, Iter.state_done, Iter.state_fmt, Iter.state_trap, Whole.state_ran, Whole.state_stopped, Whole.state_denied] | split | with_reducible refine (foldl_locked _ ?_ _ _).trans ?_ | with_reducible refine (foldlB_locked _ ?_ _ _).trans ?_ | with_reducible refine (foldl1_locked _ ?_ _ _).trans ?_ | with_reducible refine (foldl2_locked _ ?_ _ _).trans ?_

@[simp] theorem State.takeOver_locked (s : State) (x1 : _) : (State.takeOver s x1).kept.2.2.2.1 = s.kept.2.2.2.1 := by
  unfold State.takeOver
  repeat' first | with_reducible rfl | with_reducible assumption | intro _ | simp only [State.ok_kept, State.stagePassed_kept, State.traceStart_kept, kept_mk, kept_eta, kept_locked, Iter.state_done, Iter.state_fmt, Iter.state_trap, Whole.state_ran, Whole.state_stopped, Whole.state_denied] | split | with_reducible refine (foldl_locked _ ?_ _ _).trans ?_

theorem execFwHandoff_locked {s t : State} {x0 : Bool} (h : execFwHandoff x0 s = .next t) : t.kept.2.2.2.1 = s.kept.2.2.2.1 := by
  simp only [execFwHandoff, Host.Outcome.next.injEq] at h
  subst h
  repeat' first | with_reducible rfl | with_reducible assumption | intro _ | simp only [State.fail_kept, State.stageFailed_kept, State.stagePassed_kept, State.takeOver_locked, State.writeHandoff_kept, kept_mk, kept_eta, kept_locked, Iter.state_done, Iter.state_fmt, Iter.state_trap, Whole.state_ran, Whole.state_stopped, Whole.state_denied] | split | with_reducible refine (foldl_locked _ ?_ _ _).trans ?_

@[simp] theorem State.leaveLockstep_locked (s : State) (x1 : _) : (State.leaveLockstep s x1).kept.2.2.2.1 = s.kept.2.2.2.1 := by
  unfold State.leaveLockstep
  repeat' first | with_reducible rfl | with_reducible assumption | intro _ | simp only [State.bump_kept, State.raise_kept, kept_mk, kept_eta, kept_locked, Iter.state_done, Iter.state_fmt, Iter.state_trap, Whole.state_ran, Whole.state_stopped, Whole.state_denied] | split | with_reducible refine (foldl_locked _ ?_ _ _).trans ?_

@[simp] theorem State.modeWrite_locked (s : State) (x1 : _) : (State.modeWrite s x1).kept.2.2.2.1 = s.kept.2.2.2.1 := by
  unfold State.modeWrite
  repeat' first | with_reducible rfl | with_reducible assumption | intro _ | simp only [State.leaveLockstep_locked, kept_mk, kept_eta, kept_locked, Iter.state_done, Iter.state_fmt, Iter.state_trap, Whole.state_ran, Whole.state_stopped, Whole.state_denied] | split | with_reducible refine (foldl_locked _ ?_ _ _).trans ?_

theorem execLockstepRequest_locked {s t : State} {x0 : Sys2Proof.Word} (h : execLockstepRequest x0 s = .next t) : t.kept.2.2.2.1 = s.kept.2.2.2.1 := by
  simp only [execLockstepRequest, Host.Outcome.next.injEq] at h
  subst h
  repeat' first | with_reducible rfl | with_reducible assumption | intro _ | simp only [State.modeWrite_locked, kept_mk, kept_eta, kept_locked, Iter.state_done, Iter.state_fmt, Iter.state_trap, Whole.state_ran, Whole.state_stopped, Whole.state_denied] | split | with_reducible refine (foldl_locked _ ?_ _ _).trans ?_

theorem execLockstepEnter_locked {s t : State} (h : execLockstepEnter s = .next t) : t.kept.2.2.2.1 = s.kept.2.2.2.1 := by
  simp only [execLockstepEnter, Host.Outcome.next.injEq] at h
  subst h
  repeat' first | with_reducible rfl | with_reducible assumption | intro _ | simp only [State.raise_kept, kept_mk, kept_eta, kept_locked, Iter.state_done, Iter.state_fmt, Iter.state_trap, Whole.state_ran, Whole.state_stopped, Whole.state_denied] | split | with_reducible refine (foldl_locked _ ?_ _ _).trans ?_

theorem execClkLockLost_locked {s t : State} {x0 : BitVec 3} (h : execClkLockLost x0 s = .next t) : t.kept.2.2.2.1 = s.kept.2.2.2.1 := by
  simp only [execClkLockLost, Host.Outcome.next.injEq] at h
  subst h
  repeat' first | with_reducible rfl | with_reducible assumption | intro _ | simp only [State.leaveLockstep_locked, State.raise_kept, kept_mk, kept_eta, kept_locked, Iter.state_done, Iter.state_fmt, Iter.state_trap, Whole.state_ran, Whole.state_stopped, Whole.state_denied] | split | with_reducible refine (foldl_locked _ ?_ _ _).trans ?_

theorem execLinkRefclkLost_locked {s t : State} {x0 : Nat} (h : execLinkRefclkLost x0 s = .next t) : t.kept.2.2.2.1 = s.kept.2.2.2.1 := by
  simp only [execLinkRefclkLost, Host.Outcome.next.injEq] at h
  subst h
  repeat' first | with_reducible rfl | with_reducible assumption | intro _ | simp only [State.refclkGone_kept, kept_mk, kept_eta, kept_locked, Iter.state_done, Iter.state_fmt, Iter.state_trap, Whole.state_ran, Whole.state_stopped, Whole.state_denied] | split | with_reducible refine (foldl_locked _ ?_ _ _).trans ?_ | with_reducible refine (foldlB_locked _ ?_ _ _).trans ?_ | with_reducible refine (foldl1_locked _ ?_ _ _).trans ?_ | with_reducible refine (foldl2_locked _ ?_ _ _).trans ?_

theorem execLinkRefclkRestored_locked {s t : State} {x0 : Nat} (h : execLinkRefclkRestored x0 s = .next t) : t.kept.2.2.2.1 = s.kept.2.2.2.1 := by
  simp only [execLinkRefclkRestored, Host.Outcome.next.injEq] at h
  subst h
  repeat' first | with_reducible rfl | with_reducible assumption | intro _ | simp only [State.refclkBack_kept, kept_mk, kept_eta, kept_locked, Iter.state_done, Iter.state_fmt, Iter.state_trap, Whole.state_ran, Whole.state_stopped, Whole.state_denied] | split | with_reducible refine (foldl_locked _ ?_ _ _).trans ?_ | with_reducible refine (foldlB_locked _ ?_ _ _).trans ?_ | with_reducible refine (foldl1_locked _ ?_ _ _).trans ?_ | with_reducible refine (foldl2_locked _ ?_ _ _).trans ?_

theorem execXtalLost_locked {s t : State} (h : execXtalLost s = .next t) : t.kept.2.2.2.1 = s.kept.2.2.2.1 := by
  simp only [execXtalLost, Host.Outcome.next.injEq] at h
  subst h
  repeat' first | with_reducible rfl | with_reducible assumption | intro _ | simp only [State.raise_kept, kept_mk, kept_eta, kept_locked, Iter.state_done, Iter.state_fmt, Iter.state_trap, Whole.state_ran, Whole.state_stopped, Whole.state_denied] | split | with_reducible refine (foldl_locked _ ?_ _ _).trans ?_

@[simp] theorem State.stageAon_locked (s : State) (x1 : _) : (State.stageAon s x1).kept.2.2.2.1 = s.kept.2.2.2.1 := by
  unfold State.stageAon
  repeat' first | with_reducible rfl | with_reducible assumption | intro _ | simp only [State.bringUpFails_kept, State.raise_kept, State.stageTo_kept, kept_mk, kept_eta, kept_locked, Iter.state_done, Iter.state_fmt, Iter.state_trap, Whole.state_ran, Whole.state_stopped, Whole.state_denied] | split | with_reducible refine (foldl_locked _ ?_ _ _).trans ?_

@[simp] theorem State.stageAlign_locked (s : State) (x1 : _) : (State.stageAlign s x1).kept.2.2.2.1 = s.kept.2.2.2.1 := by
  unfold State.stageAlign
  repeat' first | with_reducible rfl | with_reducible assumption | intro _ | simp only [State.stageTo_kept, kept_mk, kept_eta, kept_locked, Iter.state_done, Iter.state_fmt, Iter.state_trap, Whole.state_ran, Whole.state_stopped, Whole.state_denied] | split | with_reducible refine (foldl_locked _ ?_ _ _).trans ?_

@[simp] theorem State.startFw_locked (s : State) (x1 : _) : (State.startFw s x1).kept.2.2.2.1 = s.kept.2.2.2.1 := by
  unfold State.startFw
  repeat' first | with_reducible rfl | with_reducible assumption | intro _ | simp only [State.stageTo_kept, State.traceStart_kept, kept_mk, kept_eta, kept_locked, Iter.state_done, Iter.state_fmt, Iter.state_trap, Whole.state_ran, Whole.state_stopped, Whole.state_denied] | split | with_reducible refine (foldl_locked _ ?_ _ _).trans ?_

@[simp] theorem State.bootKeys_locked (s : State) (x1 : _) : (State.bootKeys s x1).kept.2.2.2.1 = s.kept.2.2.2.1 := by
  unfold State.bootKeys
  repeat' first | with_reducible rfl | with_reducible assumption | intro _ | simp only [State.afterBurn_locked, State.raise_kept, kept_mk, kept_eta, kept_locked, Iter.state_done, Iter.state_fmt, Iter.state_trap, Whole.state_ran, Whole.state_stopped, Whole.state_denied] | split | with_reducible refine (foldl_locked _ ?_ _ _).trans ?_

@[simp] theorem State.stageBoot_locked (s : State) (x1 : _) : (State.stageBoot s x1).kept.2.2.2.1 = s.kept.2.2.2.1 := by
  unfold State.stageBoot
  repeat' first | with_reducible rfl | with_reducible assumption | intro _ | simp only [State.bootKeys_locked, State.bringUpFails_kept, State.bump_kept, State.raise_kept, State.startFw_locked, kept_mk, kept_eta, kept_locked, Iter.state_done, Iter.state_fmt, Iter.state_trap, Whole.state_ran, Whole.state_stopped, Whole.state_denied] | split | with_reducible refine (foldl_locked _ ?_ _ _).trans ?_

theorem execBringUpStageDone_locked {s t : State} {x0 : Sys2Proof.StageReport} (h : execBringUpStageDone x0 s = .next t) : t.kept.2.2.2.1 = s.kept.2.2.2.1 := by
  simp only [execBringUpStageDone, Host.Outcome.next.injEq] at h
  subst h
  repeat' first | with_reducible rfl | with_reducible assumption | intro _ | simp only [State.stageAlign_locked, State.stageAon_locked, State.stageBoot_locked, State.stageReady_kept, State.stageTo_kept, State.stageTrain_kept, State.stageUcie_kept, kept_mk, kept_eta, kept_locked, Iter.state_done, Iter.state_fmt, Iter.state_trap, Whole.state_ran, Whole.state_stopped, Whole.state_denied] | split | with_reducible refine (foldl_locked _ ?_ _ _).trans ?_

theorem execRefreshStatusRead_locked {s t : State} {x0 : Nat} {x1 : Bool} (h : execRefreshStatusRead x0 x1 s = .next t) : t.kept.2.2.2.1 = s.kept.2.2.2.1 := by
  simp only [execRefreshStatusRead, Host.Outcome.next.injEq] at h
  subst h
  repeat' first | with_reducible rfl | with_reducible assumption | intro _ | simp only [State.leaveLockstep_locked, State.raise_kept, kept_mk, kept_eta, kept_locked, Iter.state_done, Iter.state_fmt, Iter.state_trap, Whole.state_ran, Whole.state_stopped, Whole.state_denied] | split | with_reducible refine (foldl_locked _ ?_ _ _).trans ?_

theorem execHealthSample_locked {s t : State} {x0 : Nat} {x1 : Sys2Proof.Measure} (h : execHealthSample x0 x1 s = .next t) : t.kept.2.2.2.1 = s.kept.2.2.2.1 := by
  simp only [execHealthSample, Host.Outcome.next.injEq] at h
  subst h
  repeat' first | with_reducible rfl | with_reducible assumption | intro _ | simp only [State.raise_kept, kept_mk, kept_eta, kept_locked, Iter.state_done, Iter.state_fmt, Iter.state_trap, Whole.state_ran, Whole.state_stopped, Whole.state_denied] | split | with_reducible refine (foldl_locked _ ?_ _ _).trans ?_

/-! ### Health where a function changes another of them -/

theorem kept_health (s : State) : s.health = s.kept.2.2.2.2 := (rfl)

theorem foldl_health {α : Type} (f : State → α → State) (h : ∀ t a, (f t a).kept.2.2.2.2 = t.kept.2.2.2.2) (l : List α) (b : State) :
    (l.foldl f b).kept.2.2.2.2 = b.kept.2.2.2.2 := by
  induction l generalizing b with
  | nil => rfl
  | cons a l ih => rw [List.foldl_cons, ih, h]

theorem foldlB_health {α : Type} (f : Body → α → Body) (h : ∀ t a, (f t a).s.kept.2.2.2.2 = t.s.kept.2.2.2.2) (l : List α) (b : Body) :
    (l.foldl f b).s.kept.2.2.2.2 = b.s.kept.2.2.2.2 := by
  induction l generalizing b with
  | nil => rfl
  | cons a l ih => rw [List.foldl_cons, ih, h]

theorem foldl1_health {α β : Type} (f : State × β → α → State × β) (h : ∀ t a, (f t a).1.kept.2.2.2.2 = t.1.kept.2.2.2.2) (l : List α) (b : State × β) :
    (l.foldl f b).1.kept.2.2.2.2 = b.1.kept.2.2.2.2 := by
  induction l generalizing b with
  | nil => rfl
  | cons a l ih => rw [List.foldl_cons, ih, h]

theorem foldl2_health {α β : Type} (f : β × State → α → β × State) (h : ∀ t a, (f t a).2.kept.2.2.2.2 = t.2.kept.2.2.2.2) (l : List α) (b : β × State) :
    (l.foldl f b).2.kept.2.2.2.2 = b.2.kept.2.2.2.2 := by
  induction l generalizing b with
  | nil => rfl
  | cons a l ih => rw [List.foldl_cons, ih, h]

@[simp] theorem State.tick_health (s : State) : (State.tick s).kept.2.2.2.2 = s.kept.2.2.2.2 := by
  unfold State.tick
  repeat' first | with_reducible rfl | with_reducible assumption | intro _ | simp only [kept_mk, kept_eta, kept_health, Iter.state_done, Iter.state_fmt, Iter.state_trap, Whole.state_ran, Whole.state_stopped, Whole.state_denied] | split | with_reducible refine (foldl_health _ ?_ _ _).trans ?_

@[simp] theorem State.placeWrite_health (s : State) (x1 : _) (x2 : _) : (State.placeWrite s x1 x2).kept.2.2.2.2 = s.kept.2.2.2.2 := by
  unfold State.placeWrite
  repeat' first | with_reducible rfl | with_reducible assumption | intro _ | simp only [State.raise_kept, State.wr_kept, kept_mk, kept_eta, kept_health, Iter.state_done, Iter.state_fmt, Iter.state_trap, Whole.state_ran, Whole.state_stopped, Whole.state_denied] | split | with_reducible refine (foldl_health _ ?_ _ _).trans ?_

@[simp] theorem State.takeMembership_health (s : State) (x1 : _) : (State.takeMembership s x1).kept.2.2.2.2 = s.kept.2.2.2.2 := by
  unfold State.takeMembership
  repeat' first | with_reducible rfl | with_reducible assumption | intro _ | simp only [State.admitParty_kept, State.nameTwin_kept, State.placeWrite_health, State.rebuildGroups_kept, State.rebuildRoutes_kept, kept_mk, kept_eta, kept_health, Iter.state_done, Iter.state_fmt, Iter.state_trap, Whole.state_ran, Whole.state_stopped, Whole.state_denied] | split | with_reducible refine (foldl_health _ ?_ _ _).trans ?_ | with_reducible refine (foldlB_health _ ?_ _ _).trans ?_ | with_reducible refine (foldl1_health _ ?_ _ _).trans ?_ | with_reducible refine (foldl2_health _ ?_ _ _).trans ?_

theorem execMembershipSet_health {s t : State} {x0 : Sys2Proof.Req} {x1 : List Sys2Proof.Byte} (h : execMembershipSet x0 x1 s = .next t) : t.kept.2.2.2.2 = s.kept.2.2.2.2 := by
  simp only [execMembershipSet, Host.Outcome.next.injEq] at h
  subst h
  repeat' first | with_reducible rfl | with_reducible assumption | intro _ | simp only [State.ok_kept, State.refuseAt_kept, State.settle_kept, State.takeMembership_health, kept_mk, kept_eta, kept_health, Iter.state_done, Iter.state_fmt, Iter.state_trap, Whole.state_ran, Whole.state_stopped, Whole.state_denied] | split | with_reducible refine (foldl_health _ ?_ _ _).trans ?_

@[simp] theorem State.burnConfig_health (s : State) (x1 : _) (x2 : _) : (State.burnConfig s x1 x2).1.kept.2.2.2.2 = s.kept.2.2.2.2 := by
  unfold State.burnConfig
  repeat' first | with_reducible rfl | with_reducible assumption | intro _ | simp only [kept_mk, kept_eta, kept_health, Iter.state_done, Iter.state_fmt, Iter.state_trap, Whole.state_ran, Whole.state_stopped, Whole.state_denied] | split | with_reducible refine (foldl_health _ ?_ _ _).trans ?_

@[simp] theorem State.beforeBurn_health (s : State) (x1 : _) (x2 : _) (x3 : _) : (State.beforeBurn s x1 x2 x3).1.kept.2.2.2.2 = s.kept.2.2.2.2 := by
  unfold State.beforeBurn
  repeat' first | with_reducible rfl | with_reducible assumption | intro _ | simp only [State.burnConfig_health, State.draw_kept, kept_mk, kept_eta, kept_health, Iter.state_done, Iter.state_fmt, Iter.state_trap, Whole.state_ran, Whole.state_stopped, Whole.state_denied] | split | with_reducible refine (foldl_health _ ?_ _ _).trans ?_

@[simp] theorem State.afterBurn_health (s : State) (x1 : _) : (State.afterBurn s x1).kept.2.2.2.2 = s.kept.2.2.2.2 := by
  unfold State.afterBurn
  repeat' first | with_reducible rfl | with_reducible assumption | intro _ | simp only [kept_mk, kept_eta, kept_health, Iter.state_done, Iter.state_fmt, Iter.state_trap, Whole.state_ran, Whole.state_stopped, Whole.state_denied] | split | with_reducible refine (foldl_health _ ?_ _ _).trans ?_

@[simp] theorem State.transition_health (s : State) (rq : Req) (a b : Nat) (r : Record) : (s.transition rq a b r).kept.2.2.2.2 = s.kept.2.2.2.2 := by
  have hb := State.beforeBurn_health s a b r
  unfold State.transition
  split
  · rename_i t off h
    rw [h] at hb
    simp only [State.burnFail_kept]
    dsimp only at hb
    rw [hb]
  · rename_i t h
    rw [h] at hb
    dsimp only at hb
    split
    · simp only [State.burnFail_kept]
      show t.kept.2.2.2.2 = s.kept.2.2.2.2
      rw [hb]
    · simp only [State.raise_kept, State.answer_kept, State.lapisWipe_kept, State.afterBurn_health]
      show t.kept.2.2.2.2 = s.kept.2.2.2.2
      rw [hb]

@[simp] theorem State.maintain_health (s : State) (rq : Req) (r : Record) : (s.maintain rq r).kept.2.2.2.2 = s.kept.2.2.2.2 := by
  unfold State.maintain
  repeat' first | with_reducible rfl | simp only [State.fail_kept, State.burnFail_kept, State.ok_kept, State.lapisWipe_kept, kept_mk, kept_health] | split
  all_goals
    rename_i h
    have e := congrArg (fun p => p.1.kept.2.2.2.2) h
    simp only [State.burnConfig_health, kept_mk] at e
    exact e.symm

@[simp] theorem State.signedRequest_health (s : State) (x1 : _) (x2 : _) (x3 : _) (x4 : _) : (State.signedRequest s x1 x2 x3 x4).kept.2.2.2.2 = s.kept.2.2.2.2 := by
  unfold State.signedRequest
  repeat' first | with_reducible rfl | with_reducible assumption | intro _ | simp only [State.fail_kept, State.maintain_health, State.transition_health, kept_mk, kept_eta, kept_health, Iter.state_done, Iter.state_fmt, Iter.state_trap, Whole.state_ran, Whole.state_stopped, Whole.state_denied] | split | with_reducible refine (foldl_health _ ?_ _ _).trans ?_

theorem execLifecycle_health {s t : State} {x0 : Sys2Proof.Req} {x1 : List Sys2Proof.Byte} {x2 : Sys2Proof.SigAnswer} (h : execLifecycle x0 x1 x2 s = .next t) : t.kept.2.2.2.2 = s.kept.2.2.2.2 := by
  simp only [execLifecycle, Host.Outcome.next.injEq] at h
  subst h
  repeat' first | with_reducible rfl | with_reducible assumption | intro _ | simp only [State.authFail_kept, State.fail_kept, State.signedRequest_health, State.transition_health, kept_mk, kept_eta, kept_health, Iter.state_done, Iter.state_fmt, Iter.state_trap, Whole.state_ran, Whole.state_stopped, Whole.state_denied] | split | with_reducible refine (foldl_health _ ?_ _ _).trans ?_

theorem execFwRestartDone_health {s t : State} (h : execFwRestartDone s = .next t) : t.kept.2.2.2.2 = s.kept.2.2.2.2 := by
  simp only [execFwRestartDone, Host.Outcome.next.injEq] at h
  subst h
  repeat' first | with_reducible rfl | with_reducible assumption | intro _ | simp only [State.abortRequest_kept, State.catchUp_kept, State.raise_kept, State.traceStart_kept, kept_mk, kept_eta, kept_health, Iter.state_done, Iter.state_fmt, Iter.state_trap, Whole.state_ran, Whole.state_stopped, Whole.state_denied] | split | with_reducible refine (foldl_health _ ?_ _ _).trans ?_ | with_reducible refine (foldlB_health _ ?_ _ _).trans ?_ | with_reducible refine (foldl1_health _ ?_ _ _).trans ?_ | with_reducible refine (foldl2_health _ ?_ _ _).trans ?_

@[simp] theorem State.takeOver_health (s : State) (x1 : _) : (State.takeOver s x1).kept.2.2.2.2 = s.kept.2.2.2.2 := by
  unfold State.takeOver
  repeat' first | with_reducible rfl | with_reducible assumption | intro _ | simp only [State.ok_kept, State.stagePassed_kept, State.traceStart_kept, kept_mk, kept_eta, kept_health, Iter.state_done, Iter.state_fmt, Iter.state_trap, Whole.state_ran, Whole.state_stopped, Whole.state_denied] | split | with_reducible refine (foldl_health _ ?_ _ _).trans ?_

theorem execFwHandoff_health {s t : State} {x0 : Bool} (h : execFwHandoff x0 s = .next t) : t.kept.2.2.2.2 = s.kept.2.2.2.2 := by
  simp only [execFwHandoff, Host.Outcome.next.injEq] at h
  subst h
  repeat' first | with_reducible rfl | with_reducible assumption | intro _ | simp only [State.fail_kept, State.stageFailed_kept, State.stagePassed_kept, State.takeOver_health, State.writeHandoff_kept, kept_mk, kept_eta, kept_health, Iter.state_done, Iter.state_fmt, Iter.state_trap, Whole.state_ran, Whole.state_stopped, Whole.state_denied] | split | with_reducible refine (foldl_health _ ?_ _ _).trans ?_

@[simp] theorem State.leaveLockstep_health (s : State) (x1 : _) : (State.leaveLockstep s x1).kept.2.2.2.2 = s.kept.2.2.2.2 := by
  unfold State.leaveLockstep
  repeat' first | with_reducible rfl | with_reducible assumption | intro _ | simp only [State.bump_kept, State.raise_kept, kept_mk, kept_eta, kept_health, Iter.state_done, Iter.state_fmt, Iter.state_trap, Whole.state_ran, Whole.state_stopped, Whole.state_denied] | split | with_reducible refine (foldl_health _ ?_ _ _).trans ?_

@[simp] theorem State.modeWrite_health (s : State) (x1 : _) : (State.modeWrite s x1).kept.2.2.2.2 = s.kept.2.2.2.2 := by
  unfold State.modeWrite
  repeat' first | with_reducible rfl | with_reducible assumption | intro _ | simp only [State.leaveLockstep_health, kept_mk, kept_eta, kept_health, Iter.state_done, Iter.state_fmt, Iter.state_trap, Whole.state_ran, Whole.state_stopped, Whole.state_denied] | split | with_reducible refine (foldl_health _ ?_ _ _).trans ?_

theorem execLockstepRequest_health {s t : State} {x0 : Sys2Proof.Word} (h : execLockstepRequest x0 s = .next t) : t.kept.2.2.2.2 = s.kept.2.2.2.2 := by
  simp only [execLockstepRequest, Host.Outcome.next.injEq] at h
  subst h
  repeat' first | with_reducible rfl | with_reducible assumption | intro _ | simp only [State.modeWrite_health, kept_mk, kept_eta, kept_health, Iter.state_done, Iter.state_fmt, Iter.state_trap, Whole.state_ran, Whole.state_stopped, Whole.state_denied] | split | with_reducible refine (foldl_health _ ?_ _ _).trans ?_

theorem execLockstepEnter_health {s t : State} (h : execLockstepEnter s = .next t) : t.kept.2.2.2.2 = s.kept.2.2.2.2 := by
  simp only [execLockstepEnter, Host.Outcome.next.injEq] at h
  subst h
  repeat' first | with_reducible rfl | with_reducible assumption | intro _ | simp only [State.raise_kept, kept_mk, kept_eta, kept_health, Iter.state_done, Iter.state_fmt, Iter.state_trap, Whole.state_ran, Whole.state_stopped, Whole.state_denied] | split | with_reducible refine (foldl_health _ ?_ _ _).trans ?_

theorem execClkLockLost_health {s t : State} {x0 : BitVec 3} (h : execClkLockLost x0 s = .next t) : t.kept.2.2.2.2 = s.kept.2.2.2.2 := by
  simp only [execClkLockLost, Host.Outcome.next.injEq] at h
  subst h
  repeat' first | with_reducible rfl | with_reducible assumption | intro _ | simp only [State.leaveLockstep_health, State.raise_kept, kept_mk, kept_eta, kept_health, Iter.state_done, Iter.state_fmt, Iter.state_trap, Whole.state_ran, Whole.state_stopped, Whole.state_denied] | split | with_reducible refine (foldl_health _ ?_ _ _).trans ?_

theorem execLinkRefclkLost_health {s t : State} {x0 : Nat} (h : execLinkRefclkLost x0 s = .next t) : t.kept.2.2.2.2 = s.kept.2.2.2.2 := by
  simp only [execLinkRefclkLost, Host.Outcome.next.injEq] at h
  subst h
  repeat' first | with_reducible rfl | with_reducible assumption | intro _ | simp only [State.refclkGone_kept, kept_mk, kept_eta, kept_health, Iter.state_done, Iter.state_fmt, Iter.state_trap, Whole.state_ran, Whole.state_stopped, Whole.state_denied] | split | with_reducible refine (foldl_health _ ?_ _ _).trans ?_ | with_reducible refine (foldlB_health _ ?_ _ _).trans ?_ | with_reducible refine (foldl1_health _ ?_ _ _).trans ?_ | with_reducible refine (foldl2_health _ ?_ _ _).trans ?_

theorem execLinkRefclkRestored_health {s t : State} {x0 : Nat} (h : execLinkRefclkRestored x0 s = .next t) : t.kept.2.2.2.2 = s.kept.2.2.2.2 := by
  simp only [execLinkRefclkRestored, Host.Outcome.next.injEq] at h
  subst h
  repeat' first | with_reducible rfl | with_reducible assumption | intro _ | simp only [State.refclkBack_kept, kept_mk, kept_eta, kept_health, Iter.state_done, Iter.state_fmt, Iter.state_trap, Whole.state_ran, Whole.state_stopped, Whole.state_denied] | split | with_reducible refine (foldl_health _ ?_ _ _).trans ?_ | with_reducible refine (foldlB_health _ ?_ _ _).trans ?_ | with_reducible refine (foldl1_health _ ?_ _ _).trans ?_ | with_reducible refine (foldl2_health _ ?_ _ _).trans ?_

theorem execXtalLost_health {s t : State} (h : execXtalLost s = .next t) : t.kept.2.2.2.2 = s.kept.2.2.2.2 := by
  simp only [execXtalLost, Host.Outcome.next.injEq] at h
  subst h
  repeat' first | with_reducible rfl | with_reducible assumption | intro _ | simp only [State.raise_kept, kept_mk, kept_eta, kept_health, Iter.state_done, Iter.state_fmt, Iter.state_trap, Whole.state_ran, Whole.state_stopped, Whole.state_denied] | split | with_reducible refine (foldl_health _ ?_ _ _).trans ?_

@[simp] theorem State.stageAon_health (s : State) (x1 : _) : (State.stageAon s x1).kept.2.2.2.2 = s.kept.2.2.2.2 := by
  unfold State.stageAon
  repeat' first | with_reducible rfl | with_reducible assumption | intro _ | simp only [State.bringUpFails_kept, State.raise_kept, State.stageTo_kept, kept_mk, kept_eta, kept_health, Iter.state_done, Iter.state_fmt, Iter.state_trap, Whole.state_ran, Whole.state_stopped, Whole.state_denied] | split | with_reducible refine (foldl_health _ ?_ _ _).trans ?_

@[simp] theorem State.stageAlign_health (s : State) (x1 : _) : (State.stageAlign s x1).kept.2.2.2.2 = s.kept.2.2.2.2 := by
  unfold State.stageAlign
  repeat' first | with_reducible rfl | with_reducible assumption | intro _ | simp only [State.stageTo_kept, kept_mk, kept_eta, kept_health, Iter.state_done, Iter.state_fmt, Iter.state_trap, Whole.state_ran, Whole.state_stopped, Whole.state_denied] | split | with_reducible refine (foldl_health _ ?_ _ _).trans ?_

@[simp] theorem State.startFw_health (s : State) (x1 : _) : (State.startFw s x1).kept.2.2.2.2 = s.kept.2.2.2.2 := by
  unfold State.startFw
  repeat' first | with_reducible rfl | with_reducible assumption | intro _ | simp only [State.stageTo_kept, State.traceStart_kept, kept_mk, kept_eta, kept_health, Iter.state_done, Iter.state_fmt, Iter.state_trap, Whole.state_ran, Whole.state_stopped, Whole.state_denied] | split | with_reducible refine (foldl_health _ ?_ _ _).trans ?_

@[simp] theorem State.bootKeys_health (s : State) (x1 : _) : (State.bootKeys s x1).kept.2.2.2.2 = s.kept.2.2.2.2 := by
  unfold State.bootKeys
  repeat' first | with_reducible rfl | with_reducible assumption | intro _ | simp only [State.afterBurn_health, State.raise_kept, kept_mk, kept_eta, kept_health, Iter.state_done, Iter.state_fmt, Iter.state_trap, Whole.state_ran, Whole.state_stopped, Whole.state_denied] | split | with_reducible refine (foldl_health _ ?_ _ _).trans ?_

@[simp] theorem State.stageBoot_health (s : State) (x1 : _) : (State.stageBoot s x1).kept.2.2.2.2 = s.kept.2.2.2.2 := by
  unfold State.stageBoot
  repeat' first | with_reducible rfl | with_reducible assumption | intro _ | simp only [State.bootKeys_health, State.bringUpFails_kept, State.bump_kept, State.raise_kept, State.startFw_health, kept_mk, kept_eta, kept_health, Iter.state_done, Iter.state_fmt, Iter.state_trap, Whole.state_ran, Whole.state_stopped, Whole.state_denied] | split | with_reducible refine (foldl_health _ ?_ _ _).trans ?_

theorem execBringUpStageDone_health {s t : State} {x0 : Sys2Proof.StageReport} (h : execBringUpStageDone x0 s = .next t) : t.kept.2.2.2.2 = s.kept.2.2.2.2 := by
  simp only [execBringUpStageDone, Host.Outcome.next.injEq] at h
  subst h
  repeat' first | with_reducible rfl | with_reducible assumption | intro _ | simp only [State.stageAlign_health, State.stageAon_health, State.stageBoot_health, State.stageReady_kept, State.stageTo_kept, State.stageTrain_kept, State.stageUcie_kept, kept_mk, kept_eta, kept_health, Iter.state_done, Iter.state_fmt, Iter.state_trap, Whole.state_ran, Whole.state_stopped, Whole.state_denied] | split | with_reducible refine (foldl_health _ ?_ _ _).trans ?_

theorem State.lockOr_health (s : State) (r : Reg) (a : Nat) (f : State → State) (h : ∀ t, (f t).kept.2.2.2.2 = t.kept.2.2.2.2) : (s.lockOr r a f).kept.2.2.2.2 = s.kept.2.2.2.2 := by
  unfold State.lockOr
  split
  · simp only [State.raise_kept]
  · rw [h]; rfl

@[simp] theorem State.regionWrite_health (s : State) (v : Word) : (s.regionWrite v).kept.2.2.2.2 = s.kept.2.2.2.2 := by
  unfold State.regionWrite
  refine State.lockOr_health _ _ _ _ fun t => ?_
  repeat' first | with_reducible rfl | simp only [State.raise_kept, State.wr_kept, kept_mk, kept_eta, kept_health] | split

@[simp] theorem State.pwrCfgWrite_health (s : State) (x1 : _) : (State.pwrCfgWrite s x1).kept.2.2.2.2 = s.kept.2.2.2.2 := by
  unfold State.pwrCfgWrite
  repeat' first | with_reducible rfl | with_reducible assumption | intro _ | simp only [State.raise_kept, State.wr_kept, kept_mk, kept_eta, kept_health, Iter.state_done, Iter.state_fmt, Iter.state_trap, Whole.state_ran, Whole.state_stopped, Whole.state_denied] | split | with_reducible refine (foldl_health _ ?_ _ _).trans ?_

theorem execFabricPosWrite_health {s t : State} {x0 : Bool} {x1 : Sys2Proof.Word} (h : execFabricPosWrite x0 x1 s = .next t) : t.kept.2.2.2.2 = s.kept.2.2.2.2 := by
  simp only [execFabricPosWrite, Host.Outcome.next.injEq] at h
  subst h
  repeat' first | with_reducible rfl | with_reducible assumption | intro _ | simp only [State.placeWrite_health, kept_mk, kept_eta, kept_health, Iter.state_done, Iter.state_fmt, Iter.state_trap, Whole.state_ran, Whole.state_stopped, Whole.state_denied] | split | with_reducible refine (foldl_health _ ?_ _ _).trans ?_

theorem execMemRegionSizeWrite_health {s t : State} {x0 : Sys2Proof.Word} (h : execMemRegionSizeWrite x0 s = .next t) : t.kept.2.2.2.2 = s.kept.2.2.2.2 := by
  simp only [execMemRegionSizeWrite, Host.Outcome.next.injEq] at h
  subst h
  repeat' first | with_reducible rfl | with_reducible assumption | intro _ | simp only [State.regionWrite_health, kept_mk, kept_eta, kept_health, Iter.state_done, Iter.state_fmt, Iter.state_trap, Whole.state_ran, Whole.state_stopped, Whole.state_denied] | split | with_reducible refine (foldl_health _ ?_ _ _).trans ?_

theorem execRefreshStatusRead_health {s t : State} {x0 : Nat} {x1 : Bool} (h : execRefreshStatusRead x0 x1 s = .next t) : t.kept.2.2.2.2 = s.kept.2.2.2.2 := by
  simp only [execRefreshStatusRead, Host.Outcome.next.injEq] at h
  subst h
  repeat' first | with_reducible rfl | with_reducible assumption | intro _ | simp only [State.leaveLockstep_health, State.raise_kept, kept_mk, kept_eta, kept_health, Iter.state_done, Iter.state_fmt, Iter.state_trap, Whole.state_ran, Whole.state_stopped, Whole.state_denied] | split | with_reducible refine (foldl_health _ ?_ _ _).trans ?_

end Sys2Proof.Machine
end

