-- ==== Sys2Proof/Laws/FrameLedger.lean ====
section
/-!
SUPPORT. Laws/FrameLedger.lean: what leaves the ledger and the training state alone.
-/
set_option linter.unusedSimpArgs false

namespace Sys2Proof.Machine

open Sys2Proof

/-- The ledger and the training state. -/
def State.books (s : State) : Ledger := s.led

@[simp] theorem books_eta (s : State) : s.led = s.books := (rfl)

@[simp] theorem books_mk (a b c d e f g h i j k l m n o p q r t u v w) :
    (State.mk a b c d e f g h i j k l m n o p q r t u v w).books = t := (rfl)

theorem foldl_books {α : Type} (f : State → α → State) (h : ∀ t a, (f t a).books = t.books) (l : List α) (b : State) :
    (l.foldl f b).books = b.books := by
  induction l generalizing b with
  | nil => rfl
  | cons a l ih => rw [List.foldl_cons, ih, h]

theorem foldlB_books {α : Type} (f : Body → α → Body) (h : ∀ t a, (f t a).s.books = t.s.books) (l : List α) (b : Body) :
    (l.foldl f b).s.books = b.s.books := by
  induction l generalizing b with
  | nil => rfl
  | cons a l ih => rw [List.foldl_cons, ih, h]

theorem foldl1_books {α β : Type} (f : State × β → α → State × β) (h : ∀ t a, (f t a).1.books = t.1.books) (l : List α) (b : State × β) :
    (l.foldl f b).1.books = b.1.books := by
  induction l generalizing b with
  | nil => rfl
  | cons a l ih => rw [List.foldl_cons, ih, h]

theorem foldl2_books {α β : Type} (f : β × State → α → β × State) (h : ∀ t a, (f t a).2.books = t.2.books) (l : List α) (b : β × State) :
    (l.foldl f b).2.books = b.2.books := by
  induction l generalizing b with
  | nil => rfl
  | cons a l ih => rw [List.foldl_cons, ih, h]

@[simp] theorem State.wr_books (s : State) (x1 : _) (x2 : _) : (State.wr s x1 x2).books = s.books := by
  unfold State.wr
  repeat' first | with_reducible rfl | with_reducible assumption | intro _ | simp only [books_mk, books_eta, Iter.state_done, Iter.state_fmt, Iter.state_trap, Whole.state_ran, Whole.state_stopped, Whole.state_denied] | split | with_reducible refine (foldl_books _ ?_ _ _).trans ?_

@[simp] theorem State.tick_books (s : State) : (State.tick s).books = s.books := by
  unfold State.tick
  repeat' first | with_reducible rfl | with_reducible assumption | intro _ | simp only [books_mk, books_eta, Iter.state_done, Iter.state_fmt, Iter.state_trap, Whole.state_ran, Whole.state_stopped, Whole.state_denied] | split | with_reducible refine (foldl_books _ ?_ _ _).trans ?_

@[simp] theorem State.emit_books (s : State) (x1 : _) : (State.emit s x1).books = s.books := by
  unfold State.emit
  repeat' first | with_reducible rfl | with_reducible assumption | intro _ | simp only [books_mk, books_eta, Iter.state_done, Iter.state_fmt, Iter.state_trap, Whole.state_ran, Whole.state_stopped, Whole.state_denied] | split | with_reducible refine (foldl_books _ ?_ _ _).trans ?_

@[simp] theorem State.draw_books (s : State) : (State.draw s).2.books = s.books := by
  unfold State.draw
  repeat' first | with_reducible rfl | with_reducible assumption | intro _ | simp only [books_mk, books_eta, Iter.state_done, Iter.state_fmt, Iter.state_trap, Whole.state_ran, Whole.state_stopped, Whole.state_denied] | split | with_reducible refine (foldl_books _ ?_ _ _).trans ?_

@[simp] theorem State.setCtr_books (s : State) (x1 : _) (x2 : _) : (State.setCtr s x1 x2).books = s.books := by
  unfold State.setCtr
  repeat' first | with_reducible rfl | with_reducible assumption | intro _ | simp only [books_mk, books_eta, Iter.state_done, Iter.state_fmt, Iter.state_trap, Whole.state_ran, Whole.state_stopped, Whole.state_denied] | split | with_reducible refine (foldl_books _ ?_ _ _).trans ?_

@[simp] theorem State.count_books (s : State) (x1 : _) (x2 : _) : (State.count s x1 x2).books = s.books := by
  unfold State.count
  repeat' first | with_reducible rfl | with_reducible assumption | intro _ | simp only [State.setCtr_books, books_mk, books_eta, Iter.state_done, Iter.state_fmt, Iter.state_trap, Whole.state_ran, Whole.state_stopped, Whole.state_denied] | split | with_reducible refine (foldl_books _ ?_ _ _).trans ?_

@[simp] theorem State.clearCtr_books (s : State) (x1 : _) : (State.clearCtr s x1).books = s.books := by
  unfold State.clearCtr
  repeat' first | with_reducible rfl | with_reducible assumption | intro _ | simp only [State.setCtr_books, books_mk, books_eta, Iter.state_done, Iter.state_fmt, Iter.state_trap, Whole.state_ran, Whole.state_stopped, Whole.state_denied] | split | with_reducible refine (foldl_books _ ?_ _ _).trans ?_

@[simp] theorem State.clearCtrs_books (s : State) (x1 : _) : (State.clearCtrs s x1).books = s.books := by
  unfold State.clearCtrs
  repeat' first | with_reducible rfl | with_reducible assumption | intro _ | simp only [books_mk, books_eta, Iter.state_done, Iter.state_fmt, Iter.state_trap, Whole.state_ran, Whole.state_stopped, Whole.state_denied] | split | with_reducible refine (foldl_books _ ?_ _ _).trans ?_

@[simp] theorem State.push_books (s : State) (x1 : _) (x2 : _) (x3 : _) (x4 : _) (x5 : _) : (State.push s x1 x2 x3 x4 x5).books = s.books := by
  unfold State.push
  repeat' first | with_reducible rfl | with_reducible assumption | intro _ | simp only [books_mk, books_eta, Iter.state_done, Iter.state_fmt, Iter.state_trap, Whole.state_ran, Whole.state_stopped, Whole.state_denied] | split | with_reducible refine (foldl_books _ ?_ _ _).trans ?_

@[simp] theorem State.dropLost_books (s : State) : (State.dropLost s).books = s.books := by
  unfold State.dropLost
  repeat' first | with_reducible rfl | with_reducible assumption | intro _ | simp only [State.count_books, books_mk, books_eta, Iter.state_done, Iter.state_fmt, Iter.state_trap, Whole.state_ran, Whole.state_stopped, Whole.state_denied] | split | with_reducible refine (foldl_books _ ?_ _ _).trans ?_

@[simp] theorem State.pushSat_books (s : State) (x1 : _) : (State.pushSat s x1).books = s.books := by
  unfold State.pushSat
  repeat' first | with_reducible rfl | with_reducible assumption | intro _ | simp only [State.push_books, books_mk, books_eta, Iter.state_done, Iter.state_fmt, Iter.state_trap, Whole.state_ran, Whole.state_stopped, Whole.state_denied] | split | with_reducible refine (foldl_books _ ?_ _ _).trans ?_

@[simp] theorem State.bump_books (s : State) (x1 : _) (x2 : _) : (State.bump s x1 x2).books = s.books := by
  unfold State.bump
  repeat' first | with_reducible rfl | with_reducible assumption | intro _ | simp only [State.count_books, State.dropLost_books, State.pushSat_books, books_mk, books_eta, Iter.state_done, Iter.state_fmt, Iter.state_trap, Whole.state_ran, Whole.state_stopped, Whole.state_denied] | split | with_reducible refine (foldl_books _ ?_ _ _).trans ?_

@[simp] theorem State.raise_books (s : State) (x1 : _) (x2 : _) (x3 : _) : (State.raise s x1 x2 x3).books = s.books := by
  unfold State.raise
  repeat' first | with_reducible rfl | with_reducible assumption | intro _ | simp only [State.dropLost_books, State.push_books, State.pushSat_books, books_mk, books_eta, Iter.state_done, Iter.state_fmt, Iter.state_trap, Whole.state_ran, Whole.state_stopped, Whole.state_denied] | split | with_reducible refine (foldl_books _ ?_ _ _).trans ?_

@[simp] theorem State.setPort_books (s : State) (x1 : _) (x2 : _) : (State.setPort s x1 x2).books = s.books := by
  unfold State.setPort
  repeat' first | with_reducible rfl | with_reducible assumption | intro _ | simp only [books_mk, books_eta, Iter.state_done, Iter.state_fmt, Iter.state_trap, Whole.state_ran, Whole.state_stopped, Whole.state_denied] | split | with_reducible refine (foldl_books _ ?_ _ _).trans ?_

@[simp] theorem State.modPort_books (s : State) (x1 : _) (x2 : _) : (State.modPort s x1 x2).books = s.books := by
  unfold State.modPort
  repeat' first | with_reducible rfl | with_reducible assumption | intro _ | simp only [State.setPort_books, books_mk, books_eta, Iter.state_done, Iter.state_fmt, Iter.state_trap, Whole.state_ran, Whole.state_stopped, Whole.state_denied] | split | with_reducible refine (foldl_books _ ?_ _ _).trans ?_

@[simp] theorem State.modSched_books (s : State) (x1 : _) (x2 : _) : (State.modSched s x1 x2).books = s.books := by
  unfold State.modSched
  repeat' first | with_reducible rfl | with_reducible assumption | intro _ | simp only [books_mk, books_eta, Iter.state_done, Iter.state_fmt, Iter.state_trap, Whole.state_ran, Whole.state_stopped, Whole.state_denied] | split | with_reducible refine (foldl_books _ ?_ _ _).trans ?_

@[simp] theorem State.modParty_books (s : State) (x1 : _) (x2 : _) : (State.modParty s x1 x2).books = s.books := by
  unfold State.modParty
  repeat' first | with_reducible rfl | with_reducible assumption | intro _ | simp only [books_mk, books_eta, Iter.state_done, Iter.state_fmt, Iter.state_trap, Whole.state_ran, Whole.state_stopped, Whole.state_denied] | split | with_reducible refine (foldl_books _ ?_ _ _).trans ?_

@[simp] theorem State.setSlot_books (s : State) (x1 : _) (x2 : _) : (State.setSlot s x1 x2).books = s.books := by
  unfold State.setSlot
  repeat' first | with_reducible rfl | with_reducible assumption | intro _ | simp only [books_mk, books_eta, Iter.state_done, Iter.state_fmt, Iter.state_trap, Whole.state_ran, Whole.state_stopped, Whole.state_denied] | split | with_reducible refine (foldl_books _ ?_ _ _).trans ?_

@[simp] theorem State.modSlot_books (s : State) (x1 : _) (x2 : _) : (State.modSlot s x1 x2).books = s.books := by
  unfold State.modSlot
  repeat' first | with_reducible rfl | with_reducible assumption | intro _ | simp only [State.setSlot_books, books_mk, books_eta, Iter.state_done, Iter.state_fmt, Iter.state_trap, Whole.state_ran, Whole.state_stopped, Whole.state_denied] | split | with_reducible refine (foldl_books _ ?_ _ _).trans ?_

@[simp] theorem State.rebuildRoutes_books (s : State) : (State.rebuildRoutes s).books = s.books := by
  unfold State.rebuildRoutes
  repeat' first | with_reducible rfl | with_reducible assumption | intro _ | simp only [State.raise_books, books_mk, books_eta, Iter.state_done, Iter.state_fmt, Iter.state_trap, Whole.state_ran, Whole.state_stopped, Whole.state_denied] | split | with_reducible refine (foldl_books _ ?_ _ _).trans ?_

@[simp] theorem State.rebuildGroups_books (s : State) : (State.rebuildGroups s).books = s.books := by
  unfold State.rebuildGroups
  repeat' first | with_reducible rfl | with_reducible assumption | intro _ | simp only [books_mk, books_eta, Iter.state_done, Iter.state_fmt, Iter.state_trap, Whole.state_ran, Whole.state_stopped, Whole.state_denied] | split | with_reducible refine (foldl_books _ ?_ _ _).trans ?_

@[simp] theorem State.bookRead_books (s : State) (x1 : _) (x2 : _) : (State.bookRead s x1 x2).2.books = s.books := by
  unfold State.bookRead
  repeat' first | with_reducible rfl | with_reducible assumption | intro _ | simp only [books_mk, books_eta, Iter.state_done, Iter.state_fmt, Iter.state_trap, Whole.state_ran, Whole.state_stopped, Whole.state_denied] | split | with_reducible refine (foldl_books _ ?_ _ _).trans ?_

@[simp] theorem State.setQueue_books (s : State) (x1 : _) (x2 : _) : (State.setQueue s x1 x2).books = s.books := by
  unfold State.setQueue
  repeat' first | with_reducible rfl | with_reducible assumption | intro _ | simp only [books_mk, books_eta, Iter.state_done, Iter.state_fmt, Iter.state_trap, Whole.state_ran, Whole.state_stopped, Whole.state_denied] | split | with_reducible refine (foldl_books _ ?_ _ _).trans ?_

@[simp] theorem State.setWindow_books (s : State) (x1 : _) (x2 : _) : (State.setWindow s x1 x2).books = s.books := by
  unfold State.setWindow
  repeat' first | with_reducible rfl | with_reducible assumption | intro _ | simp only [books_mk, books_eta, Iter.state_done, Iter.state_fmt, Iter.state_trap, Whole.state_ran, Whole.state_stopped, Whole.state_denied] | split | with_reducible refine (foldl_books _ ?_ _ _).trans ?_

@[simp] theorem State.modCellSlot_books (s : State) (x1 : _) (x2 : _) : (State.modCellSlot s x1 x2).books = s.books := by
  unfold State.modCellSlot
  repeat' first | with_reducible rfl | with_reducible assumption | intro _ | simp only [books_mk, books_eta, Iter.state_done, Iter.state_fmt, Iter.state_trap, Whole.state_ran, Whole.state_stopped, Whole.state_denied] | split | with_reducible refine (foldl_books _ ?_ _ _).trans ?_

@[simp] theorem State.tookCopy_books (s : State) (x1 : _) (x2 : _) : (State.tookCopy s x1 x2).books = s.books := by
  unfold State.tookCopy
  repeat' first | with_reducible rfl | with_reducible assumption | intro _ | simp only [State.modCellSlot_books, books_mk, books_eta, Iter.state_done, Iter.state_fmt, Iter.state_trap, Whole.state_ran, Whole.state_stopped, Whole.state_denied] | split | with_reducible refine (foldl_books _ ?_ _ _).trans ?_

@[simp] theorem State.select_books (s : State) (x1 : _) (x2 : _) (x3 : _) (x4 : _) : (State.select s x1 x2 x3 x4).books = s.books := by
  unfold State.select
  repeat' first | with_reducible rfl | with_reducible assumption | intro _ | simp only [State.bookRead_books, State.setWindow_books, books_mk, books_eta, Iter.state_done, Iter.state_fmt, Iter.state_trap, Whole.state_ran, Whole.state_stopped, Whole.state_denied] | split | with_reducible refine (foldl_books _ ?_ _ _).trans ?_

@[simp] theorem State.fillWindow_books (s : State) (x1 : _) : (State.fillWindow s x1).books = s.books := by
  unfold State.fillWindow
  repeat' first | with_reducible rfl | with_reducible assumption | intro _ | simp only [State.select_books, State.tookCopy_books, books_mk, books_eta, Iter.state_done, Iter.state_fmt, Iter.state_trap, Whole.state_ran, Whole.state_stopped, Whole.state_denied] | split | with_reducible refine (foldl_books _ ?_ _ _).trans ?_ | with_reducible refine (foldlB_books _ ?_ _ _).trans ?_ | with_reducible refine (foldl1_books _ ?_ _ _).trans ?_ | with_reducible refine (foldl2_books _ ?_ _ _).trans ?_

@[simp] theorem State.enqueue_books (s : State) (x1 : _) (x2 : _) : (State.enqueue s x1 x2).books = s.books := by
  unfold State.enqueue
  repeat' first | with_reducible rfl | with_reducible assumption | intro _ | simp only [State.fillWindow_books, State.modSched_books, State.setQueue_books, books_mk, books_eta, Iter.state_done, Iter.state_fmt, Iter.state_trap, Whole.state_ran, Whole.state_stopped, Whole.state_denied] | split | with_reducible refine (foldl_books _ ?_ _ _).trans ?_

@[simp] theorem State.returnCredit_books (s : State) (x1 : _) (x2 : _) : (State.returnCredit s x1 x2).books = s.books := by
  unfold State.returnCredit
  repeat' first | with_reducible rfl | with_reducible assumption | intro _ | simp only [State.modPort_books, books_mk, books_eta, Iter.state_done, Iter.state_fmt, Iter.state_trap, Whole.state_ran, Whole.state_stopped, Whole.state_denied] | split | with_reducible refine (foldl_books _ ?_ _ _).trans ?_

@[simp] theorem State.freeIfDone_books (s : State) (x1 : _) : (State.freeIfDone s x1).books = s.books := by
  unfold State.freeIfDone
  repeat' first | with_reducible rfl | with_reducible assumption | intro _ | simp only [books_mk, books_eta, Iter.state_done, Iter.state_fmt, Iter.state_trap, Whole.state_ran, Whole.state_stopped, Whole.state_denied] | split | with_reducible refine (foldl_books _ ?_ _ _).trans ?_

@[simp] theorem State.dropRef_books (s : State) (x1 : _) : (State.dropRef s x1).books = s.books := by
  unfold State.dropRef
  repeat' first | with_reducible rfl | with_reducible assumption | intro _ | simp only [State.freeIfDone_books, State.modCellSlot_books, State.returnCredit_books, books_mk, books_eta, Iter.state_done, Iter.state_fmt, Iter.state_trap, Whole.state_ran, Whole.state_stopped, Whole.state_denied] | split | with_reducible refine (foldl_books _ ?_ _ _).trans ?_

@[simp] theorem State.dropRetention_books (s : State) (x1 : _) : (State.dropRetention s x1).books = s.books := by
  unfold State.dropRetention
  repeat' first | with_reducible rfl | with_reducible assumption | intro _ | simp only [State.freeIfDone_books, State.modCellSlot_books, books_mk, books_eta, Iter.state_done, Iter.state_fmt, Iter.state_trap, Whole.state_ran, Whole.state_stopped, Whole.state_denied] | split | with_reducible refine (foldl_books _ ?_ _ _).trans ?_

@[simp] theorem State.spillOne_books (s : State) (x1 : _) : (State.spillOne s x1).books = s.books := by
  unfold State.spillOne
  repeat' first | with_reducible rfl | with_reducible assumption | intro _ | simp only [State.bump_books, books_mk, books_eta, Iter.state_done, Iter.state_fmt, Iter.state_trap, Whole.state_ran, Whole.state_stopped, Whole.state_denied] | split | with_reducible refine (foldl_books _ ?_ _ _).trans ?_

@[simp] theorem State.spillAll_books (s : State) (x0 : _) : (State.spillAll x0 s).books = s.books := by
  induction x0 generalizing s with
  | zero => unfold State.spillAll; repeat' first | with_reducible rfl | with_reducible assumption | intro _ | simp only [State.spillOne_books, books_mk, books_eta, Iter.state_done, Iter.state_fmt, Iter.state_trap, Whole.state_ran, Whole.state_stopped, Whole.state_denied] | split | with_reducible refine (foldl_books _ ?_ _ _).trans ?_
  | succ n ih =>
    unfold State.spillAll
    repeat' first | with_reducible rfl | with_reducible assumption | intro _ | simp only [ih, State.spillOne_books, books_mk, books_eta, Iter.state_done, Iter.state_fmt, Iter.state_trap, Whole.state_ran, Whole.state_stopped, Whole.state_denied] | split | with_reducible refine (foldl_books _ ?_ _ _).trans ?_

@[simp] theorem State.spill_books (s : State) : (State.spill s).books = s.books := by
  unfold State.spill
  repeat' first | with_reducible rfl | with_reducible assumption | intro _ | simp only [State.spillAll_books, books_mk, books_eta, Iter.state_done, Iter.state_fmt, Iter.state_trap, Whole.state_ran, Whole.state_stopped, Whole.state_denied] | split | with_reducible refine (foldl_books _ ?_ _ _).trans ?_

@[simp] theorem State.countEgress_books (s : State) (x1 : _) (x2 : _) (x3 : _) : (State.countEgress s x1 x2 x3).books = s.books := by
  unfold State.countEgress
  repeat' first | with_reducible rfl | with_reducible assumption | intro _ | simp only [State.bump_books, books_mk, books_eta, Iter.state_done, Iter.state_fmt, Iter.state_trap, Whole.state_ran, Whole.state_stopped, Whole.state_denied] | split | with_reducible refine (foldl_books _ ?_ _ _).trans ?_

@[simp] theorem State.store_books (s : State) (x1 : _) (x2 : _) (x3 : _) (x4 : _) (x5 : _) (x6 : _) (x7 : _) : (State.store s x1 x2 x3 x4 x5 x6 x7).2.books = s.books := by
  unfold State.store
  repeat' first | with_reducible rfl | with_reducible assumption | intro _ | simp only [State.enqueue_books, books_mk, books_eta, Iter.state_done, Iter.state_fmt, Iter.state_trap, Whole.state_ran, Whole.state_stopped, Whole.state_denied] | split | with_reducible refine (foldl_books _ ?_ _ _).trans ?_ | with_reducible refine (foldlB_books _ ?_ _ _).trans ?_ | with_reducible refine (foldl1_books _ ?_ _ _).trans ?_ | with_reducible refine (foldl2_books _ ?_ _ _).trans ?_

@[simp] theorem State.countWay_books (s : State) (x1 : _) (x2 : _) (x3 : _) : (State.countWay s x1 x2 x3).books = s.books := by
  unfold State.countWay
  repeat' first | with_reducible rfl | with_reducible assumption | intro _ | simp only [State.bump_books, State.countEgress_books, books_mk, books_eta, Iter.state_done, Iter.state_fmt, Iter.state_trap, Whole.state_ran, Whole.state_stopped, Whole.state_denied] | split | with_reducible refine (foldl_books _ ?_ _ _).trans ?_

@[simp] theorem State.block_books (s : State) (x1 : _) (x2 : _) : (State.block s x1 x2).books = s.books := by
  unfold State.block
  repeat' first | with_reducible rfl | with_reducible assumption | intro _ | simp only [books_mk, books_eta, Iter.state_done, Iter.state_fmt, Iter.state_trap, Whole.state_ran, Whole.state_stopped, Whole.state_denied] | split | with_reducible refine (foldl_books _ ?_ _ _).trans ?_

@[simp] theorem State.storeOutput_books (s : State) (x1 : _) (x2 : _) (x3 : _) (x4 : _) (x5 : _) : (State.storeOutput s x1 x2 x3 x4 x5).2.books = s.books := by
  unfold State.storeOutput
  repeat' first | with_reducible rfl | with_reducible assumption | intro _ | simp only [State.block_books, State.bump_books, State.store_books, books_mk, books_eta, Iter.state_done, Iter.state_fmt, Iter.state_trap, Whole.state_ran, Whole.state_stopped, Whole.state_denied] | split | with_reducible refine (foldl_books _ ?_ _ _).trans ?_

@[simp] theorem State.output_books (s : State) (x1 : _) (x2 : _) : (State.output s x1 x2).2.books = s.books := by
  unfold State.output
  repeat' first | with_reducible rfl | with_reducible assumption | intro _ | simp only [State.block_books, State.bump_books, State.countWay_books, State.storeOutput_books, books_mk, books_eta, Iter.state_done, Iter.state_fmt, Iter.state_trap, Whole.state_ran, Whole.state_stopped, Whole.state_denied] | split | with_reducible refine (foldl_books _ ?_ _ _).trans ?_

@[simp] theorem State.sendCtrl_books (s : State) (x1 : _) (x2 : _) (x3 : _) (x4 : _) (x5 : _) : (State.sendCtrl s x1 x2 x3 x4 x5).books = s.books := by
  unfold State.sendCtrl
  repeat' first | with_reducible rfl | with_reducible assumption | intro _ | simp only [State.output_books, State.spill_books, books_mk, books_eta, Iter.state_done, Iter.state_fmt, Iter.state_trap, Whole.state_ran, Whole.state_stopped, Whole.state_denied] | split | with_reducible refine (foldl_books _ ?_ _ _).trans ?_

@[simp] theorem State.sendOnPort_books (s : State) (x1 : _) (x2 : _) (x3 : _) : (State.sendOnPort s x1 x2 x3).books = s.books := by
  unfold State.sendOnPort
  repeat' first | with_reducible rfl | with_reducible assumption | intro _ | simp only [State.block_books, State.spill_books, State.storeOutput_books, books_mk, books_eta, Iter.state_done, Iter.state_fmt, Iter.state_trap, Whole.state_ran, Whole.state_stopped, Whole.state_denied] | split | with_reducible refine (foldl_books _ ?_ _ _).trans ?_

@[simp] theorem State.relayCell_books (s : State) (x1 : _) (x2 : _) : (State.relayCell s x1 x2).books = s.books := by
  unfold State.relayCell
  repeat' first | with_reducible rfl | with_reducible assumption | intro _ | simp only [State.block_books, State.countWay_books, State.enqueue_books, State.modCellSlot_books, State.output_books, State.spill_books, State.storeOutput_books, books_mk, books_eta, Iter.state_done, Iter.state_fmt, Iter.state_trap, Whole.state_ran, Whole.state_stopped, Whole.state_denied] | split | with_reducible refine (foldl_books _ ?_ _ _).trans ?_ | with_reducible refine (foldlB_books _ ?_ _ _).trans ?_ | with_reducible refine (foldl1_books _ ?_ _ _).trans ?_ | with_reducible refine (foldl2_books _ ?_ _ _).trans ?_

@[simp] theorem State.relayMessage_books (s : State) (x1 : _) (x2 : _) (x3 : _) (x4 : _) (x5 : _) (x6 : _) (x7 : _) : (State.relayMessage s x1 x2 x3 x4 x5 x6 x7).books = s.books := by
  unfold State.relayMessage
  repeat' first | with_reducible rfl | with_reducible assumption | intro _ | simp only [State.relayCell_books, State.setSlot_books, books_mk, books_eta, Iter.state_done, Iter.state_fmt, Iter.state_trap, Whole.state_ran, Whole.state_stopped, Whole.state_denied] | split | with_reducible refine (foldl_books _ ?_ _ _).trans ?_ | with_reducible refine (foldlB_books _ ?_ _ _).trans ?_ | with_reducible refine (foldl1_books _ ?_ _ _).trans ?_ | with_reducible refine (foldl2_books _ ?_ _ _).trans ?_

@[simp] theorem State.setTx_books (s : State) (x1 : _) (x2 : _) : (State.setTx s x1 x2).books = s.books := by
  unfold State.setTx
  repeat' first | with_reducible rfl | with_reducible assumption | intro _ | simp only [books_mk, books_eta, Iter.state_done, Iter.state_fmt, Iter.state_trap, Whole.state_ran, Whole.state_stopped, Whole.state_denied] | split | with_reducible refine (foldl_books _ ?_ _ _).trans ?_

@[simp] theorem State.transmit_books (s : State) (x1 : _) (x2 : _) (x3 : _) : (State.transmit s x1 x2 x3).books = s.books := by
  unfold State.transmit
  repeat' first | with_reducible rfl | with_reducible assumption | intro _ | simp only [State.output_books, State.setTx_books, State.spill_books, books_mk, books_eta, Iter.state_done, Iter.state_fmt, Iter.state_trap, Whole.state_ran, Whole.state_stopped, Whole.state_denied] | split | with_reducible refine (foldl_books _ ?_ _ _).trans ?_

@[simp] theorem State.pumpAux_books (s : State) (x0 : _) (x1 : _) : (State.pumpAux x0 x1 s).books = s.books := by
  induction x1 generalizing s with
  | zero => unfold State.pumpAux; repeat' first | with_reducible rfl | with_reducible assumption | intro _ | simp only [State.setTx_books, State.transmit_books, books_mk, books_eta, Iter.state_done, Iter.state_fmt, Iter.state_trap, Whole.state_ran, Whole.state_stopped, Whole.state_denied] | split | with_reducible refine (foldl_books _ ?_ _ _).trans ?_
  | succ n ih =>
    unfold State.pumpAux
    repeat' first | with_reducible rfl | with_reducible assumption | intro _ | simp only [ih, State.setTx_books, State.transmit_books, books_mk, books_eta, Iter.state_done, Iter.state_fmt, Iter.state_trap, Whole.state_ran, Whole.state_stopped, Whole.state_denied] | split | with_reducible refine (foldl_books _ ?_ _ _).trans ?_

@[simp] theorem State.pump_books (s : State) (x1 : _) : (State.pump s x1).books = s.books := by
  unfold State.pump
  repeat' first | with_reducible rfl | with_reducible assumption | intro _ | simp only [State.pumpAux_books, books_mk, books_eta, Iter.state_done, Iter.state_fmt, Iter.state_trap, Whole.state_ran, Whole.state_stopped, Whole.state_denied] | split | with_reducible refine (foldl_books _ ?_ _ _).trans ?_

@[simp] theorem State.sendMessage_books (s : State) (x1 : _) (x2 : _) (x3 : _) (x4 : _) (x5 : _) (x6 : _) (x7 : _) (x8 : _) : (State.sendMessage s x1 x2 x3 x4 x5 x6 x7 x8).books = s.books := by
  unfold State.sendMessage
  repeat' first | with_reducible rfl | with_reducible assumption | intro _ | simp only [State.pump_books, State.setTx_books, books_mk, books_eta, Iter.state_done, Iter.state_fmt, Iter.state_trap, Whole.state_ran, Whole.state_stopped, Whole.state_denied] | split | with_reducible refine (foldl_books _ ?_ _ _).trans ?_

@[simp] theorem State.release_books (s : State) (x1 : _) (x2 : _) : (State.release s x1 x2).books = s.books := by
  unfold State.release
  repeat' first | with_reducible rfl | with_reducible assumption | intro _ | simp only [State.dropRetention_books, State.setTx_books, books_mk, books_eta, Iter.state_done, Iter.state_fmt, Iter.state_trap, Whole.state_ran, Whole.state_stopped, Whole.state_denied] | split | with_reducible refine (foldl_books _ ?_ _ _).trans ?_ | with_reducible refine (foldlB_books _ ?_ _ _).trans ?_ | with_reducible refine (foldl1_books _ ?_ _ _).trans ?_ | with_reducible refine (foldl2_books _ ?_ _ _).trans ?_

@[simp] theorem State.unretain_books (s : State) (x1 : _) : (State.unretain s x1).books = s.books := by
  unfold State.unretain
  repeat' first | with_reducible rfl | with_reducible assumption | intro _ | simp only [books_mk, books_eta, Iter.state_done, Iter.state_fmt, Iter.state_trap, Whole.state_ran, Whole.state_stopped, Whole.state_denied] | split | with_reducible refine (foldl_books _ ?_ _ _).trans ?_

@[simp] theorem State.releaseTx_books (s : State) (x1 : _) : (State.releaseTx s x1).books = s.books := by
  unfold State.releaseTx
  repeat' first | with_reducible rfl | with_reducible assumption | intro _ | simp only [State.release_books, State.unretain_books, books_mk, books_eta, Iter.state_done, Iter.state_fmt, Iter.state_trap, Whole.state_ran, Whole.state_stopped, Whole.state_denied] | split | with_reducible refine (foldl_books _ ?_ _ _).trans ?_

@[simp] theorem State.freshTx_books (s : State) (x1 : _) : (State.freshTx s x1).books = s.books := by
  unfold State.freshTx
  repeat' first | with_reducible rfl | with_reducible assumption | intro _ | simp only [books_mk, books_eta, Iter.state_done, Iter.state_fmt, Iter.state_trap, Whole.state_ran, Whole.state_stopped, Whole.state_denied] | split | with_reducible refine (foldl_books _ ?_ _ _).trans ?_

@[simp] theorem State.dropTx_books (s : State) (x1 : _) : (State.dropTx s x1).books = s.books := by
  unfold State.dropTx
  repeat' first | with_reducible rfl | with_reducible assumption | intro _ | simp only [State.releaseTx_books, books_mk, books_eta, Iter.state_done, Iter.state_fmt, Iter.state_trap, Whole.state_ran, Whole.state_stopped, Whole.state_denied] | split | with_reducible refine (foldl_books _ ?_ _ _).trans ?_

@[simp] theorem State.releaseStreams_books (s : State) (x1 : _) : (State.releaseStreams s x1).books = s.books := by
  unfold State.releaseStreams
  repeat' first | with_reducible rfl | with_reducible assumption | intro _ | simp only [State.pump_books, State.releaseTx_books, books_mk, books_eta, Iter.state_done, Iter.state_fmt, Iter.state_trap, Whole.state_ran, Whole.state_stopped, Whole.state_denied] | split | with_reducible refine (foldl_books _ ?_ _ _).trans ?_ | with_reducible refine (foldlB_books _ ?_ _ _).trans ?_ | with_reducible refine (foldl1_books _ ?_ _ _).trans ?_ | with_reducible refine (foldl2_books _ ?_ _ _).trans ?_

@[simp] theorem State.dropStreams_books (s : State) (x1 : _) : (State.dropStreams s x1).books = s.books := by
  unfold State.dropStreams
  repeat' first | with_reducible rfl | with_reducible assumption | intro _ | simp only [State.dropTx_books, books_mk, books_eta, Iter.state_done, Iter.state_fmt, Iter.state_trap, Whole.state_ran, Whole.state_stopped, Whole.state_denied] | split | with_reducible refine (foldl_books _ ?_ _ _).trans ?_ | with_reducible refine (foldlB_books _ ?_ _ _).trans ?_ | with_reducible refine (foldl1_books _ ?_ _ _).trans ?_ | with_reducible refine (foldl2_books _ ?_ _ _).trans ?_

@[simp] theorem State.closeStreams_books (s : State) (x1 : _) (x2 : _) : (State.closeStreams s x1 x2).books = s.books := by
  unfold State.closeStreams
  repeat' first | with_reducible rfl | with_reducible assumption | intro _ | simp only [State.dropStreams_books, State.output_books, books_mk, books_eta, Iter.state_done, Iter.state_fmt, Iter.state_trap, Whole.state_ran, Whole.state_stopped, Whole.state_denied] | split | with_reducible refine (foldl_books _ ?_ _ _).trans ?_ | with_reducible refine (foldlB_books _ ?_ _ _).trans ?_ | with_reducible refine (foldl1_books _ ?_ _ _).trans ?_ | with_reducible refine (foldl2_books _ ?_ _ _).trans ?_

@[simp] theorem State.admitAux_books (s : State) (x0 : _) : (State.admitAux x0 s).books = s.books := by
  induction x0 generalizing s with
  | zero => unfold State.admitAux; repeat' first | with_reducible rfl | with_reducible assumption | intro _ | simp only [State.output_books, State.setTx_books, books_mk, books_eta, Iter.state_done, Iter.state_fmt, Iter.state_trap, Whole.state_ran, Whole.state_stopped, Whole.state_denied] | split | with_reducible refine (foldl_books _ ?_ _ _).trans ?_
  | succ n ih =>
    unfold State.admitAux
    repeat' first | with_reducible rfl | with_reducible assumption | intro _ | simp only [ih, State.output_books, State.setTx_books, books_mk, books_eta, Iter.state_done, Iter.state_fmt, Iter.state_trap, Whole.state_ran, Whole.state_stopped, Whole.state_denied] | split | with_reducible refine (foldl_books _ ?_ _ _).trans ?_

@[simp] theorem State.admitBlocked_books (s : State) : (State.admitBlocked s).books = s.books := by
  unfold State.admitBlocked
  repeat' first | with_reducible rfl | with_reducible assumption | intro _ | simp only [State.admitAux_books, State.spill_books, books_mk, books_eta, Iter.state_done, Iter.state_fmt, Iter.state_trap, Whole.state_ran, Whole.state_stopped, Whole.state_denied] | split | with_reducible refine (foldl_books _ ?_ _ _).trans ?_

@[simp] theorem State.startQueues_books (s : State) (x1 : _) (x2 : _) : (State.startQueues s x1 x2).books = s.books := by
  unfold State.startQueues
  repeat' first | with_reducible rfl | with_reducible assumption | intro _ | simp only [books_mk, books_eta, Iter.state_done, Iter.state_fmt, Iter.state_trap, Whole.state_ran, Whole.state_stopped, Whole.state_denied] | split | with_reducible refine (foldl_books _ ?_ _ _).trans ?_

@[simp] theorem State.sendMsg_books (s : State) (x1 : _) (x2 : _) (x3 : _) (x4 : _) (x5 : _) (x6 : _) : (State.sendMsg s x1 x2 x3 x4 x5 x6).books = s.books := by
  unfold State.sendMsg
  repeat' first | with_reducible rfl | with_reducible assumption | intro _ | simp only [State.sendMessage_books, books_mk, books_eta, Iter.state_done, Iter.state_fmt, Iter.state_trap, Whole.state_ran, Whole.state_stopped, Whole.state_denied] | split | with_reducible refine (foldl_books _ ?_ _ _).trans ?_

@[simp] theorem State.sendFirst_books (s : State) (x1 : _) (x2 : _) (x3 : _) (x4 : _) (x5 : _) : (State.sendFirst s x1 x2 x3 x4 x5).books = s.books := by
  unfold State.sendFirst
  repeat' first | with_reducible rfl | with_reducible assumption | intro _ | simp only [State.sendMsg_books, State.setSlot_books, books_mk, books_eta, Iter.state_done, Iter.state_fmt, Iter.state_trap, Whole.state_ran, Whole.state_stopped, Whole.state_denied] | split | with_reducible refine (foldl_books _ ?_ _ _).trans ?_

@[simp] theorem State.creditBackAux_books (s : State) (x0 : _) (x1 : _) (x2 : _) (x3 : _) : (State.creditBackAux x0 x1 x2 x3 s).books = s.books := by
  induction x3 generalizing s with
  | zero => unfold State.creditBackAux; repeat' first | with_reducible rfl | with_reducible assumption | intro _ | simp only [State.sendMsg_books, State.setSlot_books, books_mk, books_eta, Iter.state_done, Iter.state_fmt, Iter.state_trap, Whole.state_ran, Whole.state_stopped, Whole.state_denied] | split | with_reducible refine (foldl_books _ ?_ _ _).trans ?_
  | succ n ih =>
    unfold State.creditBackAux
    repeat' first | with_reducible rfl | with_reducible assumption | intro _ | simp only [ih, State.sendMsg_books, State.setSlot_books, books_mk, books_eta, Iter.state_done, Iter.state_fmt, Iter.state_trap, Whole.state_ran, Whole.state_stopped, Whole.state_denied] | split | with_reducible refine (foldl_books _ ?_ _ _).trans ?_

@[simp] theorem State.creditBack_books (s : State) (x1 : _) (x2 : _) (x3 : _) (x4 : _) : (State.creditBack s x1 x2 x3 x4).books = s.books := by
  unfold State.creditBack
  repeat' first | with_reducible rfl | with_reducible assumption | intro _ | simp only [State.creditBackAux_books, State.setSlot_books, books_mk, books_eta, Iter.state_done, Iter.state_fmt, Iter.state_trap, Whole.state_ran, Whole.state_stopped, Whole.state_denied] | split | with_reducible refine (foldl_books _ ?_ _ _).trans ?_

@[simp] theorem State.sendAck_books (s : State) (x1 : _) (x2 : _) (x3 : _) (x4 : _) : (State.sendAck s x1 x2 x3 x4).books = s.books := by
  unfold State.sendAck
  repeat' first | with_reducible rfl | with_reducible assumption | intro _ | simp only [State.sendCtrl_books, books_mk, books_eta, Iter.state_done, Iter.state_fmt, Iter.state_trap, Whole.state_ran, Whole.state_stopped, Whole.state_denied] | split | with_reducible refine (foldl_books _ ?_ _ _).trans ?_

@[simp] theorem State.returnStaging_books (s : State) (x1 : _) (x2 : _) (x3 : _) : (State.returnStaging s x1 x2 x3).books = s.books := by
  unfold State.returnStaging
  repeat' first | with_reducible rfl | with_reducible assumption | intro _ | simp only [State.sendAck_books, State.setSlot_books, books_mk, books_eta, Iter.state_done, Iter.state_fmt, Iter.state_trap, Whole.state_ran, Whole.state_stopped, Whole.state_denied] | split | with_reducible refine (foldl_books _ ?_ _ _).trans ?_

@[simp] theorem State.endDown_books (s : State) (x1 : _) (x2 : _) (x3 : _) (x4 : _) : (State.endDown s x1 x2 x3 x4).books = s.books := by
  unfold State.endDown
  repeat' first | with_reducible rfl | with_reducible assumption | intro _ | simp only [State.sendMsg_books, books_mk, books_eta, Iter.state_done, Iter.state_fmt, Iter.state_trap, Whole.state_ran, Whole.state_stopped, Whole.state_denied] | split | with_reducible refine (foldl_books _ ?_ _ _).trans ?_ | with_reducible refine (foldlB_books _ ?_ _ _).trans ?_ | with_reducible refine (foldl1_books _ ?_ _ _).trans ?_ | with_reducible refine (foldl2_books _ ?_ _ _).trans ?_

@[simp] theorem State.modCtx_books (s : State) (x1 : _) (x2 : _) : (State.modCtx s x1 x2).books = s.books := by
  unfold State.modCtx
  repeat' first | with_reducible rfl | with_reducible assumption | intro _ | simp only [books_mk, books_eta, Iter.state_done, Iter.state_fmt, Iter.state_trap, Whole.state_ran, Whole.state_stopped, Whole.state_denied] | split | with_reducible refine (foldl_books _ ?_ _ _).trans ?_

@[simp] theorem State.freeAfter_books (s : State) (x1 : _) (x2 : _) : (State.freeAfter s x1 x2).books = s.books := by
  unfold State.freeAfter
  repeat' first | with_reducible rfl | with_reducible assumption | intro _ | simp only [State.modCtx_books, books_mk, books_eta, Iter.state_done, Iter.state_fmt, Iter.state_trap, Whole.state_ran, Whole.state_stopped, Whole.state_denied] | split | with_reducible refine (foldl_books _ ?_ _ _).trans ?_

@[simp] theorem State.sendEnds_books (s : State) (x1 : _) (x2 : _) (x3 : _) : (State.sendEnds s x1 x2 x3).books = s.books := by
  unfold State.sendEnds
  repeat' first | with_reducible rfl | with_reducible assumption | intro _ | simp only [State.endDown_books, State.sendMsg_books, books_mk, books_eta, Iter.state_done, Iter.state_fmt, Iter.state_trap, Whole.state_ran, Whole.state_stopped, Whole.state_denied] | split | with_reducible refine (foldl_books _ ?_ _ _).trans ?_ | with_reducible refine (foldlB_books _ ?_ _ _).trans ?_ | with_reducible refine (foldl1_books _ ?_ _ _).trans ?_ | with_reducible refine (foldl2_books _ ?_ _ _).trans ?_

@[simp] theorem State.stopQueues_books (s : State) (x1 : _) : (State.stopQueues s x1).books = s.books := by
  unfold State.stopQueues
  repeat' first | with_reducible rfl | with_reducible assumption | intro _ | simp only [books_mk, books_eta, Iter.state_done, Iter.state_fmt, Iter.state_trap, Whole.state_ran, Whole.state_stopped, Whole.state_denied] | split | with_reducible refine (foldl_books _ ?_ _ _).trans ?_

@[simp] theorem State.retire_books (s : State) (x1 : _) : (State.retire s x1).books = s.books := by
  unfold State.retire
  repeat' first | with_reducible rfl | with_reducible assumption | intro _ | simp only [State.bump_books, books_mk, books_eta, Iter.state_done, Iter.state_fmt, Iter.state_trap, Whole.state_ran, Whole.state_stopped, Whole.state_denied] | split | with_reducible refine (foldl_books _ ?_ _ _).trans ?_

@[simp] theorem State.memWrite_books (s : State) (x1 : _) (x2 : _) : (State.memWrite s x1 x2).books = s.books := by
  unfold State.memWrite
  repeat' first | with_reducible rfl | with_reducible assumption | intro _ | simp only [books_mk, books_eta, Iter.state_done, Iter.state_fmt, Iter.state_trap, Whole.state_ran, Whole.state_stopped, Whole.state_denied] | split | with_reducible refine (foldl_books _ ?_ _ _).trans ?_

@[simp] theorem State.memClear_books (s : State) (x1 : _) (x2 : _) : (State.memClear s x1 x2).books = s.books := by
  unfold State.memClear
  repeat' first | with_reducible rfl | with_reducible assumption | intro _ | simp only [books_mk, books_eta, Iter.state_done, Iter.state_fmt, Iter.state_trap, Whole.state_ran, Whole.state_stopped, Whole.state_denied] | split | with_reducible refine (foldl_books _ ?_ _ _).trans ?_

@[simp] theorem State.noteTerm_books (s : State) (x1 : _) : (State.noteTerm s x1).books = s.books := by
  unfold State.noteTerm
  repeat' first | with_reducible rfl | with_reducible assumption | intro _ | simp only [books_mk, books_eta, Iter.state_done, Iter.state_fmt, Iter.state_trap, Whole.state_ran, Whole.state_stopped, Whole.state_denied] | split | with_reducible refine (foldl_books _ ?_ _ _).trans ?_

@[simp] theorem State.sendGranule_books (s : State) (x1 : _) (x2 : _) (x3 : _) : (State.sendGranule s x1 x2 x3).books = s.books := by
  unfold State.sendGranule
  repeat' first | with_reducible rfl | with_reducible assumption | intro _ | simp only [State.sendMessage_books, books_mk, books_eta, Iter.state_done, Iter.state_fmt, Iter.state_trap, Whole.state_ran, Whole.state_stopped, Whole.state_denied] | split | with_reducible refine (foldl_books _ ?_ _ _).trans ?_

@[simp] theorem State.resend_books (s : State) (x1 : _) : (State.resend s x1).books = s.books := by
  unfold State.resend
  repeat' first | with_reducible rfl | with_reducible assumption | intro _ | simp only [State.sendGranule_books, books_mk, books_eta, Iter.state_done, Iter.state_fmt, Iter.state_trap, Whole.state_ran, Whole.state_stopped, Whole.state_denied] | split | with_reducible refine (foldl_books _ ?_ _ _).trans ?_

@[simp] theorem State.stateWrite_books (s : State) (x1 : _) (x2 : _) : (State.stateWrite s x1 x2).books = s.books := by
  unfold State.stateWrite
  repeat' first | with_reducible rfl | with_reducible assumption | intro _ | simp only [State.memWrite_books, State.noteTerm_books, State.resend_books, books_mk, books_eta, Iter.state_done, Iter.state_fmt, Iter.state_trap, Whole.state_ran, Whole.state_stopped, Whole.state_denied] | split | with_reducible refine (foldl_books _ ?_ _ _).trans ?_ | with_reducible refine (foldlB_books _ ?_ _ _).trans ?_ | with_reducible refine (foldl1_books _ ?_ _ _).trans ?_ | with_reducible refine (foldl2_books _ ?_ _ _).trans ?_

@[simp] theorem State.freeContexts_books (s : State) : (State.freeContexts s).books = s.books := by
  unfold State.freeContexts
  repeat' first | with_reducible rfl | with_reducible assumption | intro _ | simp only [books_mk, books_eta, Iter.state_done, Iter.state_fmt, Iter.state_trap, Whole.state_ran, Whole.state_stopped, Whole.state_denied] | split | with_reducible refine (foldl_books _ ?_ _ _).trans ?_

@[simp] theorem State.zeroRetire_books (s : State) (x1 : _) : (State.zeroRetire s x1).books = s.books := by
  unfold State.zeroRetire
  repeat' first | with_reducible rfl | with_reducible assumption | intro _ | simp only [State.memClear_books, State.retire_books, books_mk, books_eta, Iter.state_done, Iter.state_fmt, Iter.state_trap, Whole.state_ran, Whole.state_stopped, Whole.state_denied] | split | with_reducible refine (foldl_books _ ?_ _ _).trans ?_

@[simp] theorem State.queueHeal_books (s : State) (x1 : _) (x2 : _) : (State.queueHeal s x1 x2).books = s.books := by
  unfold State.queueHeal
  repeat' first | with_reducible rfl | with_reducible assumption | intro _ | simp only [books_mk, books_eta, Iter.state_done, Iter.state_fmt, Iter.state_trap, Whole.state_ran, Whole.state_stopped, Whole.state_denied] | split | with_reducible refine (foldl_books _ ?_ _ _).trans ?_

@[simp] theorem State.kvGranuleBad_books (s : State) (x1 : _) : (State.kvGranuleBad s x1).books = s.books := by
  unfold State.kvGranuleBad
  repeat' first | with_reducible rfl | with_reducible assumption | intro _ | simp only [State.zeroRetire_books, books_mk, books_eta, Iter.state_done, Iter.state_fmt, Iter.state_trap, Whole.state_ran, Whole.state_stopped, Whole.state_denied] | split | with_reducible refine (foldl_books _ ?_ _ _).trans ?_

@[simp] theorem State.logUe_books (s : State) (x1 : _) : (State.logUe s x1).books = s.books := by
  unfold State.logUe
  repeat' first | with_reducible rfl | with_reducible assumption | intro _ | simp only [State.bump_books, State.raise_books, books_mk, books_eta, Iter.state_done, Iter.state_fmt, Iter.state_trap, Whole.state_ran, Whole.state_stopped, Whole.state_denied] | split | with_reducible refine (foldl_books _ ?_ _ _).trans ?_

@[simp] theorem State.xorBlock_books (s : State) (x1 : _) (x2 : _) : (State.xorBlock s x1 x2).books = s.books := by
  unfold State.xorBlock
  repeat' first | with_reducible rfl | with_reducible assumption | intro _ | simp only [State.memWrite_books, books_mk, books_eta, Iter.state_done, Iter.state_fmt, Iter.state_trap, Whole.state_ran, Whole.state_stopped, Whole.state_denied] | split | with_reducible refine (foldl_books _ ?_ _ _).trans ?_ | with_reducible refine (foldlB_books _ ?_ _ _).trans ?_ | with_reducible refine (foldl1_books _ ?_ _ _).trans ?_ | with_reducible refine (foldl2_books _ ?_ _ _).trans ?_

@[simp] theorem State.chargeChannel_books (s : State) (x1 : _) (x2 : _) : (State.chargeChannel s x1 x2).books = s.books := by
  unfold State.chargeChannel
  repeat' first | with_reducible rfl | with_reducible assumption | intro _ | simp only [books_mk, books_eta, Iter.state_done, Iter.state_fmt, Iter.state_trap, Whole.state_ran, Whole.state_stopped, Whole.state_denied] | split | with_reducible refine (foldl_books _ ?_ _ _).trans ?_

@[simp] theorem State.upset_books (s : State) (x1 : _) (x2 : _) : (State.upset s x1 x2).books = s.books := by
  unfold State.upset
  repeat' first | with_reducible rfl | with_reducible assumption | intro _ | simp only [books_mk, books_eta, Iter.state_done, Iter.state_fmt, Iter.state_trap, Whole.state_ran, Whole.state_stopped, Whole.state_denied] | split | with_reducible refine (foldl_books _ ?_ _ _).trans ?_

@[simp] theorem State.rewrite_books (s : State) (x1 : _) : (State.rewrite s x1).books = s.books := by
  unfold State.rewrite
  repeat' first | with_reducible rfl | with_reducible assumption | intro _ | simp only [books_mk, books_eta, Iter.state_done, Iter.state_fmt, Iter.state_trap, Whole.state_ran, Whole.state_stopped, Whole.state_denied] | split | with_reducible refine (foldl_books _ ?_ _ _).trans ?_

@[simp] theorem State.setHeader_books (s : State) (x1 : _) (x2 : _) (x3 : _) (x4 : _) (x5 : _) (x6 : _) : (State.setHeader s x1 x2 x3 x4 x5 x6).books = s.books := by
  unfold State.setHeader
  repeat' first | with_reducible rfl | with_reducible assumption | intro _ | simp only [State.stateWrite_books, books_mk, books_eta, Iter.state_done, Iter.state_fmt, Iter.state_trap, Whole.state_ran, Whole.state_stopped, Whole.state_denied] | split | with_reducible refine (foldl_books _ ?_ _ _).trans ?_

@[simp] theorem State.copyBank_books (s : State) (x1 : _) (x2 : _) : (State.copyBank s x1 x2).books = s.books := by
  unfold State.copyBank
  repeat' first | with_reducible rfl | with_reducible assumption | intro _ | simp only [State.stateWrite_books, books_mk, books_eta, Iter.state_done, Iter.state_fmt, Iter.state_trap, Whole.state_ran, Whole.state_stopped, Whole.state_denied] | split | with_reducible refine (foldl_books _ ?_ _ _).trans ?_

@[simp] theorem State.carryShard_books (s : State) (x1 : _) (x2 : _) : (State.carryShard s x1 x2).books = s.books := by
  unfold State.carryShard
  repeat' first | with_reducible rfl | with_reducible assumption | intro _ | simp only [State.bump_books, State.copyBank_books, books_mk, books_eta, Iter.state_done, Iter.state_fmt, Iter.state_trap, Whole.state_ran, Whole.state_stopped, Whole.state_denied] | split | with_reducible refine (foldl_books _ ?_ _ _).trans ?_ | with_reducible refine (foldlB_books _ ?_ _ _).trans ?_ | with_reducible refine (foldl1_books _ ?_ _ _).trans ?_ | with_reducible refine (foldl2_books _ ?_ _ _).trans ?_

@[simp] theorem State.clearSlots_books (s : State) (x1 : _) : (State.clearSlots s x1).books = s.books := by
  unfold State.clearSlots
  repeat' first | with_reducible rfl | with_reducible assumption | intro _ | simp only [State.dropStreams_books, books_mk, books_eta, Iter.state_done, Iter.state_fmt, Iter.state_trap, Whole.state_ran, Whole.state_stopped, Whole.state_denied] | split | with_reducible refine (foldl_books _ ?_ _ _).trans ?_ | with_reducible refine (foldlB_books _ ?_ _ _).trans ?_ | with_reducible refine (foldl1_books _ ?_ _ _).trans ?_ | with_reducible refine (foldl2_books _ ?_ _ _).trans ?_

@[simp] theorem State.gatherBytes_books (s : State) (x1 : _) (x2 : _) (x3 : _) : (State.gatherBytes s x1 x2 x3).2.books = s.books := by
  unfold State.gatherBytes
  repeat' first | with_reducible rfl | with_reducible assumption | intro _ | simp only [State.bump_books, books_mk, books_eta, Iter.state_done, Iter.state_fmt, Iter.state_trap, Whole.state_ran, Whole.state_stopped, Whole.state_denied] | split | with_reducible refine (foldl_books _ ?_ _ _).trans ?_

@[simp] theorem State.spaceWrite_books (s : State) (x1 : _) (x2 : _) (x3 : _) : (State.spaceWrite s x1 x2 x3).books = s.books := by
  unfold State.spaceWrite
  repeat' first | with_reducible rfl | with_reducible assumption | intro _ | simp only [State.stateWrite_books, books_mk, books_eta, Iter.state_done, Iter.state_fmt, Iter.state_trap, Whole.state_ran, Whole.state_stopped, Whole.state_denied] | split | with_reducible refine (foldl_books _ ?_ _ _).trans ?_

@[simp] theorem State.putCode_books (s : State) (x1 : _) (x2 : _) : (State.putCode s x1 x2).books = s.books := by
  unfold State.putCode
  repeat' first | with_reducible rfl | with_reducible assumption | intro _ | simp only [State.spaceWrite_books, books_mk, books_eta, Iter.state_done, Iter.state_fmt, Iter.state_trap, Whole.state_ran, Whole.state_stopped, Whole.state_denied] | split | with_reducible refine (foldl_books _ ?_ _ _).trans ?_

theorem State.putAt_books {s t : State} {d : Descr} {ix : List Nat} {c : Nat} (h : s.putAt d ix c = some t) : t.books = s.books := by
  unfold State.putAt at h
  obtain ⟨p, _, rfl⟩ := Option.map_eq_some_iff.mp h
  exact State.putCode_books s p c

theorem State.putAt_getD_books (s : State) (d : Descr) (ix : List Nat) (c : Nat) : ((s.putAt d ix c).getD s).books = s.books := by
  cases h : s.putAt d ix c with
  | none => rfl
  | some t => exact State.putAt_books h

@[simp] theorem State.putWalk_books (s : State) (d : Descr) (n : Nat) (l : List Nat) : (s.putWalk d n l).books = s.books := by
  unfold State.putWalk
  refine foldl_books _ ?_ _ _
  intro t a
  rw [State.putAt_getD_books]

@[simp] theorem State.putCodes_books (s : State) (d : Descr) (l : List (List Nat)) (cs : List Nat) : (s.putCodes d l cs).1.books = s.books := by
  induction cs generalizing s l with
  | nil => simp only [State.putCodes]
  | cons c cs ih =>
    cases l with
    | nil => simp only [State.putCodes]
    | cons ix t =>
      rw [State.putCodes]
      split
      · rename_i u hu
        rw [ih, State.putAt_books hu]
      · rfl

@[simp] theorem State.replaceLayer_books (s : State) (x1 : _) (x2 : _) (x3 : _) : (State.replaceLayer s x1 x2 x3).books = s.books := by
  unfold State.replaceLayer
  repeat' first | with_reducible rfl | with_reducible assumption | intro _ | simp only [State.modCtx_books, books_mk, books_eta, Iter.state_done, Iter.state_fmt, Iter.state_trap, Whole.state_ran, Whole.state_stopped, Whole.state_denied] | split | with_reducible refine (foldl_books _ ?_ _ _).trans ?_

@[simp] theorem State.seqOpen_books (s : State) (x1 : _) (x2 : _) : (State.seqOpen s x1 x2).books = s.books := by
  unfold State.seqOpen
  repeat' first | with_reducible rfl | with_reducible assumption | intro _ | simp only [State.modCtx_books, State.replaceLayer_books, books_mk, books_eta, Iter.state_done, Iter.state_fmt, Iter.state_trap, Whole.state_ran, Whole.state_stopped, Whole.state_denied] | split | with_reducible refine (foldl_books _ ?_ _ _).trans ?_

@[simp] theorem State.storeChunk_books (s : State) (x1 : _) (x2 : _) (x3 : _) (x4 : _) (x5 : _) : (State.storeChunk s x1 x2 x3 x4 x5).books = s.books := by
  unfold State.storeChunk
  repeat' first | with_reducible rfl | with_reducible assumption | intro _ | simp only [State.bump_books, State.modCtx_books, books_mk, books_eta, Iter.state_done, Iter.state_fmt, Iter.state_trap, Whole.state_ran, Whole.state_stopped, Whole.state_denied] | split | with_reducible refine (foldl_books _ ?_ _ _).trans ?_

@[simp] theorem State.seqDown_books (s : State) (x1 : _) (x2 : _) (x3 : _) (x4 : _) (x5 : _) (x6 : _) : (State.seqDown s x1 x2 x3 x4 x5 x6).books = s.books := by
  unfold State.seqDown
  repeat' first | with_reducible rfl | with_reducible assumption | intro _ | simp only [State.relayMessage_books, State.sendMsg_books, books_mk, books_eta, Iter.state_done, Iter.state_fmt, Iter.state_trap, Whole.state_ran, Whole.state_stopped, Whole.state_denied] | split | with_reducible refine (foldl_books _ ?_ _ _).trans ?_ | with_reducible refine (foldlB_books _ ?_ _ _).trans ?_ | with_reducible refine (foldl1_books _ ?_ _ _).trans ?_ | with_reducible refine (foldl2_books _ ?_ _ _).trans ?_

@[simp] theorem State.sendBlock_books (s : State) (x1 : _) (x2 : _) (x3 : _) (x4 : _) (x5 : _) (x6 : _) : (State.sendBlock s x1 x2 x3 x4 x5 x6).books = s.books := by
  unfold State.sendBlock
  repeat' first | with_reducible rfl | with_reducible assumption | intro _ | simp only [State.modSlot_books, State.seqDown_books, books_mk, books_eta, Iter.state_done, Iter.state_fmt, Iter.state_trap, Whole.state_ran, Whole.state_stopped, Whole.state_denied] | split | with_reducible refine (foldl_books _ ?_ _ _).trans ?_ | with_reducible refine (foldlB_books _ ?_ _ _).trans ?_ | with_reducible refine (foldl1_books _ ?_ _ _).trans ?_ | with_reducible refine (foldl2_books _ ?_ _ _).trans ?_

@[simp] theorem State.blockMissing_books (s : State) (x1 : _) (x2 : _) (x3 : _) (x4 : _) (x5 : _) : (State.blockMissing s x1 x2 x3 x4 x5).books = s.books := by
  unfold State.blockMissing
  repeat' first | with_reducible rfl | with_reducible assumption | intro _ | simp only [State.bump_books, State.modSlot_books, State.raise_books, State.sendBlock_books, books_mk, books_eta, Iter.state_done, Iter.state_fmt, Iter.state_trap, Whole.state_ran, Whole.state_stopped, Whole.state_denied] | split | with_reducible refine (foldl_books _ ?_ _ _).trans ?_

@[simp] theorem State.storeStaged_books (s : State) (x1 : _) (x2 : _) (x3 : _) : (State.storeStaged s x1 x2 x3).books = s.books := by
  unfold State.storeStaged
  repeat' first | with_reducible rfl | with_reducible assumption | intro _ | simp only [State.replaceLayer_books, State.returnStaging_books, State.setSlot_books, State.storeChunk_books, books_mk, books_eta, Iter.state_done, Iter.state_fmt, Iter.state_trap, Whole.state_ran, Whole.state_stopped, Whole.state_denied] | split | with_reducible refine (foldl_books _ ?_ _ _).trans ?_ | with_reducible refine (foldlB_books _ ?_ _ _).trans ?_ | with_reducible refine (foldl1_books _ ?_ _ _).trans ?_ | with_reducible refine (foldl2_books _ ?_ _ _).trans ?_

@[simp] theorem State.takeInbox_books (s : State) (x1 : _) (x2 : _) : (State.takeInbox s x1 x2).books = s.books := by
  unfold State.takeInbox
  repeat' first | with_reducible rfl | with_reducible assumption | intro _ | simp only [books_mk, books_eta, Iter.state_done, Iter.state_fmt, Iter.state_trap, Whole.state_ran, Whole.state_stopped, Whole.state_denied] | split | with_reducible refine (foldl_books _ ?_ _ _).trans ?_

@[simp] theorem State.takeCtrl_books (s : State) (x1 : _) (x2 : _) : (State.takeCtrl s x1 x2).books = s.books := by
  unfold State.takeCtrl
  repeat' first | with_reducible rfl | with_reducible assumption | intro _ | simp only [books_mk, books_eta, Iter.state_done, Iter.state_fmt, Iter.state_trap, Whole.state_ran, Whole.state_stopped, Whole.state_denied] | split | with_reducible refine (foldl_books _ ?_ _ _).trans ?_

theorem State.takeCredit_books {s t : State} {h : BitVec 20} {k : Coll} {a : FA} {c : Nat} (e : s.takeCredit h k a c = some t) :
    t.books = s.books := by
  simp only [State.takeCredit] at e
  split at e
  · cases e; rfl
  · cases e

@[simp] theorem State.freeChunk_books (s : State) (x1 : _) (x2 : _) : (State.freeChunk s x1 x2).books = s.books := by
  unfold State.freeChunk
  repeat' first | with_reducible rfl | with_reducible assumption | intro _ | simp only [State.returnStaging_books, books_mk, books_eta, Iter.state_done, Iter.state_fmt, Iter.state_trap, Whole.state_ran, Whole.state_stopped, Whole.state_denied] | split | with_reducible refine (foldl_books _ ?_ _ _).trans ?_ | with_reducible refine (foldlB_books _ ?_ _ _).trans ?_ | with_reducible refine (foldl1_books _ ?_ _ _).trans ?_ | with_reducible refine (foldl2_books _ ?_ _ _).trans ?_

@[simp] theorem State.sendDown_books (s : State) (x1 : _) (x2 : _) (x3 : _) (x4 : _) (x5 : _) (x6 : _) : (State.sendDown s x1 x2 x3 x4 x5 x6).books = s.books := by
  unfold State.sendDown
  repeat' first | with_reducible rfl | with_reducible assumption | intro _ | simp only [State.sendMsg_books, books_mk, books_eta, Iter.state_done, Iter.state_fmt, Iter.state_trap, Whole.state_ran, Whole.state_stopped, Whole.state_denied] | split | with_reducible refine (foldl_books _ ?_ _ _).trans ?_ | with_reducible refine (foldlB_books _ ?_ _ _).trans ?_ | with_reducible refine (foldl1_books _ ?_ _ _).trans ?_ | with_reducible refine (foldl2_books _ ?_ _ _).trans ?_

@[simp] theorem State.markDown_books (s : State) (x1 : _) (x2 : _) : (State.markDown s x1 x2).books = s.books := by
  unfold State.markDown
  repeat' first | with_reducible rfl | with_reducible assumption | intro _ | simp only [State.modSlot_books, books_mk, books_eta, Iter.state_done, Iter.state_fmt, Iter.state_trap, Whole.state_ran, Whole.state_stopped, Whole.state_denied] | split | with_reducible refine (foldl_books _ ?_ _ _).trans ?_

@[simp] theorem State.absentDown_books (s : State) (x1 : _) : (State.absentDown s x1).books = s.books := by
  unfold State.absentDown
  repeat' first | with_reducible rfl | with_reducible assumption | intro _ | simp only [State.markDown_books, State.modSlot_books, State.sendDown_books, books_mk, books_eta, Iter.state_done, Iter.state_fmt, Iter.state_trap, Whole.state_ran, Whole.state_stopped, Whole.state_denied] | split | with_reducible refine (foldl_books _ ?_ _ _).trans ?_ | with_reducible refine (foldlB_books _ ?_ _ _).trans ?_ | with_reducible refine (foldl1_books _ ?_ _ _).trans ?_ | with_reducible refine (foldl2_books _ ?_ _ _).trans ?_

@[simp] theorem State.addToken_books (s : State) (x1 : _) (x2 : _) (x3 : _) : (State.addToken s x1 x2 x3).books = s.books := by
  unfold State.addToken
  repeat' first | with_reducible rfl | with_reducible assumption | intro _ | simp only [State.bump_books, books_mk, books_eta, Iter.state_done, Iter.state_fmt, Iter.state_trap, Whole.state_ran, Whole.state_stopped, Whole.state_denied] | split | with_reducible refine (foldl_books _ ?_ _ _).trans ?_

@[simp] theorem State.writeResH_books (s : State) (x1 : _) (x2 : _) (x3 : _) (x4 : _) (x5 : _) (x6 : _) (x7 : _) : (State.writeResH s x1 x2 x3 x4 x5 x6 x7).books = s.books := by
  unfold State.writeResH
  repeat' first | with_reducible rfl | with_reducible assumption | intro _ | simp only [State.addToken_books, State.putWalk_books, books_mk, books_eta, Iter.state_done, Iter.state_fmt, Iter.state_trap, Whole.state_ran, Whole.state_stopped, Whole.state_denied] | split | with_reducible refine (foldl_books _ ?_ _ _).trans ?_ | with_reducible refine (foldlB_books _ ?_ _ _).trans ?_ | with_reducible refine (foldl1_books _ ?_ _ _).trans ?_ | with_reducible refine (foldl2_books _ ?_ _ _).trans ?_

@[simp] theorem State.normForward_books (s : State) (x1 : _) (x2 : _) (x3 : _) : (State.normForward s x1 x2 x3).books = s.books := by
  unfold State.normForward
  repeat' first | with_reducible rfl | with_reducible assumption | intro _ | simp only [State.sendCtrl_books, books_mk, books_eta, Iter.state_done, Iter.state_fmt, Iter.state_trap, Whole.state_ran, Whole.state_stopped, Whole.state_denied] | split | with_reducible refine (foldl_books _ ?_ _ _).trans ?_

@[simp] theorem State.gatherFrom_books (s : State) (x1 : _) (x2 : _) (x3 : _) (x4 : _) : (State.gatherFrom s x1 x2 x3 x4).books = s.books := by
  unfold State.gatherFrom
  repeat' first | with_reducible rfl | with_reducible assumption | intro _ | simp only [State.markDown_books, State.modSlot_books, State.returnStaging_books, State.sendDown_books, books_mk, books_eta, Iter.state_done, Iter.state_fmt, Iter.state_trap, Whole.state_ran, Whole.state_stopped, Whole.state_denied] | split | with_reducible refine (foldl_books _ ?_ _ _).trans ?_

@[simp] theorem State.orderedUp_books (s : State) (x1 : _) (x2 : _) (x3 : _) (x4 : _) (x5 : _) (x6 : _) : (State.orderedUp s x1 x2 x3 x4 x5 x6).books = s.books := by
  unfold State.orderedUp
  repeat' first | with_reducible rfl | with_reducible assumption | intro _ | simp only [State.returnStaging_books, State.sendFirst_books, books_mk, books_eta, Iter.state_done, Iter.state_fmt, Iter.state_trap, Whole.state_ran, Whole.state_stopped, Whole.state_denied] | split | with_reducible refine (foldl_books _ ?_ _ _).trans ?_

theorem execPsumSend_books {s t : State} {x0 : BitVec 20} {x1 : Nat} (h : execPsumSend x0 x1 s = .next t) : t.books = s.books := by
  simp only [execPsumSend, Host.Outcome.next.injEq] at h
  subst h
  repeat' first | with_reducible rfl | with_reducible assumption | intro _ | simp only [State.bump_books, State.freeChunk_books, State.modSlot_books, State.sendFirst_books, State.sendMsg_books, books_mk, books_eta, Iter.state_done, Iter.state_fmt, Iter.state_trap, Whole.state_ran, Whole.state_stopped, Whole.state_denied] | split | with_reducible refine (foldl_books _ ?_ _ _).trans ?_

@[simp] theorem State.endOn_books (s : State) (x1 : _) (x2 : _) (x3 : _) (x4 : _) (x5 : _) : (State.endOn s x1 x2 x3 x4 x5).books = s.books := by
  unfold State.endOn
  repeat' first | with_reducible rfl | with_reducible assumption | intro _ | simp only [State.endDown_books, books_mk, books_eta, Iter.state_done, Iter.state_fmt, Iter.state_trap, Whole.state_ran, Whole.state_stopped, Whole.state_denied] | split | with_reducible refine (foldl_books _ ?_ _ _).trans ?_

@[simp] theorem State.sendParts_books (s : State) (x1 : _) (x2 : _) (x3 : _) (x4 : _) (x5 : _) (x6 : _) : (State.sendParts s x1 x2 x3 x4 x5 x6).books = s.books := by
  unfold State.sendParts
  repeat' first | with_reducible rfl | with_reducible assumption | intro _ | simp only [State.sendMsg_books, books_mk, books_eta, Iter.state_done, Iter.state_fmt, Iter.state_trap, Whole.state_ran, Whole.state_stopped, Whole.state_denied] | split | with_reducible refine (foldl_books _ ?_ _ _).trans ?_ | with_reducible refine (foldlB_books _ ?_ _ _).trans ?_ | with_reducible refine (foldl1_books _ ?_ _ _).trans ?_ | with_reducible refine (foldl2_books _ ?_ _ _).trans ?_

@[simp] theorem State.setDisp_books (s : State) (x1 : _) (x2 : _) : (State.setDisp s x1 x2).books = s.books := by
  unfold State.setDisp
  repeat' first | with_reducible rfl | with_reducible assumption | intro _ | simp only [books_mk, books_eta, Iter.state_done, Iter.state_fmt, Iter.state_trap, Whole.state_ran, Whole.state_stopped, Whole.state_denied] | split | with_reducible refine (foldl_books _ ?_ _ _).trans ?_

@[simp] theorem State.dispLoads_books (s : State) (x1 : _) (x2 : _) (x3 : _) : (State.dispLoads s x1 x2 x3).2.books = s.books := by
  unfold State.dispLoads
  repeat' first | with_reducible rfl | with_reducible assumption | intro _ | simp only [State.bump_books, books_mk, books_eta, Iter.state_done, Iter.state_fmt, Iter.state_trap, Whole.state_ran, Whole.state_stopped, Whole.state_denied] | split | with_reducible refine (foldl_books _ ?_ _ _).trans ?_ | with_reducible refine (foldlB_books _ ?_ _ _).trans ?_ | with_reducible refine (foldl1_books _ ?_ _ _).trans ?_ | with_reducible refine (foldl2_books _ ?_ _ _).trans ?_

@[simp] theorem State.dispGrants_books (s : State) (x1 : _) (x2 : _) (x3 : _) (x4 : _) : (State.dispGrants s x1 x2 x3 x4).books = s.books := by
  unfold State.dispGrants
  repeat' first | with_reducible rfl | with_reducible assumption | intro _ | simp only [State.dispLoads_books, State.sendParts_books, State.setDisp_books, books_mk, books_eta, Iter.state_done, Iter.state_fmt, Iter.state_trap, Whole.state_ran, Whole.state_stopped, Whole.state_denied] | split | with_reducible refine (foldl_books _ ?_ _ _).trans ?_ | with_reducible refine (foldlB_books _ ?_ _ _).trans ?_ | with_reducible refine (foldl1_books _ ?_ _ _).trans ?_ | with_reducible refine (foldl2_books _ ?_ _ _).trans ?_

@[simp] theorem State.dispRowsTo_books (s : State) (x1 : _) (x2 : _) (x3 : _) (x4 : _) (x5 : _) (x6 : _) : (State.dispRowsTo s x1 x2 x3 x4 x5 x6).books = s.books := by
  unfold State.dispRowsTo
  repeat' first | with_reducible rfl | with_reducible assumption | intro _ | simp only [State.sendParts_books, State.setDisp_books, books_mk, books_eta, Iter.state_done, Iter.state_fmt, Iter.state_trap, Whole.state_ran, Whole.state_stopped, Whole.state_denied] | split | with_reducible refine (foldl_books _ ?_ _ _).trans ?_

@[simp] theorem State.dispRows_books (s : State) (x1 : _) (x2 : _) (x3 : _) (x4 : _) : (State.dispRows s x1 x2 x3 x4).books = s.books := by
  unfold State.dispRows
  repeat' first | with_reducible rfl | with_reducible assumption | intro _ | simp only [State.bump_books, State.dispRowsTo_books, State.setDisp_books, books_mk, books_eta, Iter.state_done, Iter.state_fmt, Iter.state_trap, Whole.state_ran, Whole.state_stopped, Whole.state_denied] | split | with_reducible refine (foldl_books _ ?_ _ _).trans ?_ | with_reducible refine (foldlB_books _ ?_ _ _).trans ?_ | with_reducible refine (foldl1_books _ ?_ _ _).trans ?_ | with_reducible refine (foldl2_books _ ?_ _ _).trans ?_

@[simp] theorem State.dispDeliver_books (s : State) (x1 : _) (x2 : _) (x3 : _) (x4 : _) (x5 : _) (x6 : _) (x7 : _) : (State.dispDeliver s x1 x2 x3 x4 x5 x6 x7).books = s.books := by
  unfold State.dispDeliver
  repeat' first | with_reducible rfl | with_reducible assumption | intro _ | simp only [State.sendParts_books, State.setDisp_books, books_mk, books_eta, Iter.state_done, Iter.state_fmt, Iter.state_trap, Whole.state_ran, Whole.state_stopped, Whole.state_denied] | split | with_reducible refine (foldl_books _ ?_ _ _).trans ?_

@[simp] theorem State.bwdRows_books (s : State) (x1 : _) (x2 : _) (x3 : _) (x4 : _) : (State.bwdRows s x1 x2 x3 x4).books = s.books := by
  unfold State.bwdRows
  repeat' first | with_reducible rfl | with_reducible assumption | intro _ | simp only [State.bump_books, State.dispRowsTo_books, State.setDisp_books, books_mk, books_eta, Iter.state_done, Iter.state_fmt, Iter.state_trap, Whole.state_ran, Whole.state_stopped, Whole.state_denied] | split | with_reducible refine (foldl_books _ ?_ _ _).trans ?_ | with_reducible refine (foldlB_books _ ?_ _ _).trans ?_ | with_reducible refine (foldl1_books _ ?_ _ _).trans ?_ | with_reducible refine (foldl2_books _ ?_ _ _).trans ?_

@[simp] theorem State.returnRows_books (s : State) (x1 : _) (x2 : _) (x3 : _) (x4 : _) : (State.returnRows s x1 x2 x3 x4).books = s.books := by
  unfold State.returnRows
  repeat' first | with_reducible rfl | with_reducible assumption | intro _ | simp only [State.sendParts_books, State.setDisp_books, books_mk, books_eta, Iter.state_done, Iter.state_fmt, Iter.state_trap, Whole.state_ran, Whole.state_stopped, Whole.state_denied] | split | with_reducible refine (foldl_books _ ?_ _ _).trans ?_ | with_reducible refine (foldlB_books _ ?_ _ _).trans ?_ | with_reducible refine (foldl1_books _ ?_ _ _).trans ?_ | with_reducible refine (foldl2_books _ ?_ _ _).trans ?_

@[simp] theorem State.combine_books (s : State) (x1 : _) (x2 : _) (x3 : _) (x4 : _) : (State.combine s x1 x2 x3 x4).books = s.books := by
  unfold State.combine
  repeat' first | with_reducible rfl | with_reducible assumption | intro _ | simp only [State.bump_books, State.sendParts_books, State.setDisp_books, books_mk, books_eta, Iter.state_done, Iter.state_fmt, Iter.state_trap, Whole.state_ran, Whole.state_stopped, Whole.state_denied] | split | with_reducible refine (foldl_books _ ?_ _ _).trans ?_

@[simp] theorem State.dispHostLost_books (s : State) (x1 : _) (x2 : _) (x3 : _) (x4 : _) : (State.dispHostLost s x1 x2 x3 x4).books = s.books := by
  unfold State.dispHostLost
  repeat' first | with_reducible rfl | with_reducible assumption | intro _ | simp only [State.bump_books, State.setDisp_books, books_mk, books_eta, Iter.state_done, Iter.state_fmt, Iter.state_trap, Whole.state_ran, Whole.state_stopped, Whole.state_denied] | split | with_reducible refine (foldl_books _ ?_ _ _).trans ?_

@[simp] theorem State.setSparse_books (s : State) (x1 : _) (x2 : _) : (State.setSparse s x1 x2).books = s.books := by
  unfold State.setSparse
  repeat' first | with_reducible rfl | with_reducible assumption | intro _ | simp only [books_mk, books_eta, Iter.state_done, Iter.state_fmt, Iter.state_trap, Whole.state_ran, Whole.state_stopped, Whole.state_denied] | split | with_reducible refine (foldl_books _ ?_ _ _).trans ?_

@[simp] theorem State.pass2_books (s : State) (x1 : _) (x2 : _) (x3 : _) (x4 : _) : (State.pass2 s x1 x2 x3 x4).books = s.books := by
  unfold State.pass2
  repeat' first | with_reducible rfl | with_reducible assumption | intro _ | simp only [State.bump_books, State.putWalk_books, State.sendParts_books, State.setSparse_books, books_mk, books_eta, Iter.state_done, Iter.state_fmt, Iter.state_trap, Whole.state_ran, Whole.state_stopped, Whole.state_denied] | split | with_reducible refine (foldl_books _ ?_ _ _).trans ?_ | with_reducible refine (foldlB_books _ ?_ _ _).trans ?_ | with_reducible refine (foldl1_books _ ?_ _ _).trans ?_ | with_reducible refine (foldl2_books _ ?_ _ _).trans ?_

@[simp] theorem State.launchReply_books (s : State) (x1 : _) (x2 : _) (x3 : _) (x4 : _) (x5 : _) (x6 : _) : (State.launchReply s x1 x2 x3 x4 x5 x6).books = s.books := by
  unfold State.launchReply
  repeat' first | with_reducible rfl | with_reducible assumption | intro _ | simp only [State.sendCtrl_books, books_mk, books_eta, Iter.state_done, Iter.state_fmt, Iter.state_trap, Whole.state_ran, Whole.state_stopped, Whole.state_denied] | split | with_reducible refine (foldl_books _ ?_ _ _).trans ?_

@[simp] theorem State.scalarToQueues_books (s : State) (x1 : _) (x2 : _) : (State.scalarToQueues s x1 x2).books = s.books := by
  unfold State.scalarToQueues
  repeat' first | with_reducible rfl | with_reducible assumption | intro _ | simp only [books_mk, books_eta, Iter.state_done, Iter.state_fmt, Iter.state_trap, Whole.state_ran, Whole.state_stopped, Whole.state_denied] | split | with_reducible refine (foldl_books _ ?_ _ _).trans ?_

@[simp] theorem State.join_books (s : State) (x1 : _) (x2 : _) (x3 : _) (x4 : _) : (State.join s x1 x2 x3 x4).books = s.books := by
  unfold State.join
  repeat' first | with_reducible rfl | with_reducible assumption | intro _ | simp only [State.scalarToQueues_books, State.setDisp_books, State.setSlot_books, books_mk, books_eta, Iter.state_done, Iter.state_fmt, Iter.state_trap, Whole.state_ran, Whole.state_stopped, Whole.state_denied] | split | with_reducible refine (foldl_books _ ?_ _ _).trans ?_

@[simp] theorem State.rugDone_books (s : State) (x1 : _) (x2 : _) (x3 : _) (x4 : _) (x5 : _) : (State.rugDone s x1 x2 x3 x4 x5).books = s.books := by
  unfold State.rugDone
  repeat' first | with_reducible rfl | with_reducible assumption | intro _ | simp only [State.gatherBytes_books, State.markDown_books, State.modSlot_books, State.sendDown_books, books_mk, books_eta, Iter.state_done, Iter.state_fmt, Iter.state_trap, Whole.state_ran, Whole.state_stopped, Whole.state_denied] | split | with_reducible refine (foldl_books _ ?_ _ _).trans ?_

@[simp] theorem State.meetUpsets_books (s : State) (x1 : _) : (State.meetUpsets s x1).books = s.books := by
  unfold State.meetUpsets
  repeat' first | with_reducible rfl | with_reducible assumption | intro _ | simp only [State.upset_books, books_mk, books_eta, Iter.state_done, Iter.state_fmt, Iter.state_trap, Whole.state_ran, Whole.state_stopped, Whole.state_denied] | split | with_reducible refine (foldl_books _ ?_ _ _).trans ?_ | with_reducible refine (foldlB_books _ ?_ _ _).trans ?_ | with_reducible refine (foldl1_books _ ?_ _ _).trans ?_ | with_reducible refine (foldl2_books _ ?_ _ _).trans ?_

@[simp] theorem State.resilverFails_books (s : State) : (State.resilverFails s).books = s.books := by
  unfold State.resilverFails
  repeat' first | with_reducible rfl | with_reducible assumption | intro _ | simp only [State.raise_books, books_mk, books_eta, Iter.state_done, Iter.state_fmt, Iter.state_trap, Whole.state_ran, Whole.state_stopped, Whole.state_denied] | split | with_reducible refine (foldl_books _ ?_ _ _).trans ?_

@[simp] theorem Body.land_books (b : Body) (x1 : _) : (Body.land b x1).s.books = b.s.books := by
  unfold Body.land
  repeat' first | with_reducible rfl | with_reducible assumption | intro _ | simp only [books_mk, books_eta, Iter.state_done, Iter.state_fmt, Iter.state_trap, Whole.state_ran, Whole.state_stopped, Whole.state_denied] | split | with_reducible refine (foldl_books _ ?_ _ _).trans ?_ | with_reducible refine (foldlB_books _ ?_ _ _).trans ?_ | with_reducible refine (foldl1_books _ ?_ _ _).trans ?_ | with_reducible refine (foldl2_books _ ?_ _ _).trans ?_

@[simp] theorem Body.sources_books (b : Body) (x1 : _) (x2 : _) (x3 : _) (x4 : _) : (Body.sources b x1 x2 x3 x4).s.books = b.s.books := by
  unfold Body.sources
  repeat' first | with_reducible rfl | with_reducible assumption | intro _ | simp only [books_mk, books_eta, Iter.state_done, Iter.state_fmt, Iter.state_trap, Whole.state_ran, Whole.state_stopped, Whole.state_denied] | split | with_reducible refine (foldl_books _ ?_ _ _).trans ?_

@[simp] theorem Body.load_books (b : Body) (x1 : _) (x2 : _) : (Body.load b x1 x2).1.s.books = b.s.books := by
  unfold Body.load
  repeat' first | with_reducible rfl | with_reducible assumption | intro _ | simp only [books_mk, books_eta, Iter.state_done, Iter.state_fmt, Iter.state_trap, Whole.state_ran, Whole.state_stopped, Whole.state_denied] | split | with_reducible refine (foldl_books _ ?_ _ _).trans ?_

@[simp] theorem Body.stored_books (b : Body) (x1 : _) (x2 : _) (x3 : _) : (Body.stored b x1 x2 x3).s.books = b.s.books := by
  unfold Body.stored
  repeat' first | with_reducible rfl | with_reducible assumption | intro _ | simp only [State.putCode_books, books_mk, books_eta, Iter.state_done, Iter.state_fmt, Iter.state_trap, Whole.state_ran, Whole.state_stopped, Whole.state_denied] | split | with_reducible refine (foldl_books _ ?_ _ _).trans ?_ | with_reducible refine (foldlB_books _ ?_ _ _).trans ?_ | with_reducible refine (foldl1_books _ ?_ _ _).trans ?_ | with_reducible refine (foldl2_books _ ?_ _ _).trans ?_

@[simp] theorem Body.slotA_books (b : Body) (x1 : _) (x2 : _) (x3 : _) (x4 : _) : (Body.slotA b x1 x2 x3 x4).1.s.books = b.s.books := by
  unfold Body.slotA
  repeat' first | with_reducible rfl | with_reducible assumption | intro _ | simp only [Body.sources_books, books_mk, books_eta, Iter.state_done, Iter.state_fmt, Iter.state_trap, Whole.state_ran, Whole.state_stopped, Whole.state_denied] | split | with_reducible refine (foldl_books _ ?_ _ _).trans ?_

@[simp] theorem Body.slotM_books (b : Body) (x1 : _) (x2 : _) (x3 : _) (x4 : _) : (Body.slotM b x1 x2 x3 x4).1.s.books = b.s.books := by
  unfold Body.slotM
  repeat' first | with_reducible rfl | with_reducible assumption | intro _ | simp only [Body.load_books, Body.sources_books, Body.stored_books, books_mk, books_eta, Iter.state_done, Iter.state_fmt, Iter.state_trap, Whole.state_ran, Whole.state_stopped, Whole.state_denied] | split | with_reducible refine (foldl_books _ ?_ _ _).trans ?_

@[simp] theorem Body.bundle_books (b : Body) (x1 : _) (x2 : _) (x3 : _) : (Body.bundle b x1 x2 x3).s.books = b.s.books := by
  unfold Body.bundle
  repeat' first | with_reducible rfl | with_reducible assumption | intro _ | simp only [Body.land_books, Body.slotA_books, Body.slotM_books, books_mk, books_eta, Iter.state_done, Iter.state_fmt, Iter.state_trap, Whole.state_ran, Whole.state_stopped, Whole.state_denied] | split | with_reducible refine (foldl_books _ ?_ _ _).trans ?_

@[simp] theorem runBody_books (s : State) (x0 : _) (x1 : _) (x3 : _) (x4 : _) : (runBody x0 x1 s x3 x4).s.books = s.books := by
  unfold runBody
  repeat' first | with_reducible rfl | with_reducible assumption | intro _ | simp only [Body.bundle_books, books_mk, books_eta, Iter.state_done, Iter.state_fmt, Iter.state_trap, Whole.state_ran, Whole.state_stopped, Whole.state_denied] | split | with_reducible refine (foldl_books _ ?_ _ _).trans ?_ | with_reducible refine (foldlB_books _ ?_ _ _).trans ?_ | with_reducible refine (foldl1_books _ ?_ _ _).trans ?_ | with_reducible refine (foldl2_books _ ?_ _ _).trans ?_

@[simp] theorem State.kernelIter_books (s : State) (h : BitVec 20) (o : Op) (r : OpRun) : (s.kernelIter h o r).state.books = s.books := by
  unfold State.kernelIter
  split
  · rfl
  · extract_lets n x fresh regs fly b0 b e last nb left t
    have hb : b.s.books = s.books := by
      unfold b b0
      split <;> simp only [runBody_books]
    have ht : t.books = s.books := by simp only [t, State.bump_books, hb]
    clear_value t
    split
    · simp only [Iter.state_trap, State.raise_books]
      split
      · exact ht
      · simp only [State.wr_books, ht]
    · split <;> exact ht

@[simp] theorem State.convertScaled_books (s : State) (x1 : _) (x2 : _) (x3 : _) (x4 : _) (x5 : _) (x6 : _) (x7 : _) : (State.convertScaled s x1 x2 x3 x4 x5 x6 x7).state.books = s.books := by
  unfold State.convertScaled
  repeat' first | with_reducible rfl | with_reducible assumption | intro _ | simp only [State.bump_books, State.putCode_books, books_mk, books_eta, Iter.state_done, Iter.state_fmt, Iter.state_trap, Whole.state_ran, Whole.state_stopped, Whole.state_denied] | split | with_reducible refine (foldl_books _ ?_ _ _).trans ?_

@[simp] theorem State.convertIter_books (s : State) (x1 : _) (x2 : _) (x3 : _) : (State.convertIter s x1 x2 x3).state.books = s.books := by
  unfold State.convertIter
  repeat' first | with_reducible rfl | with_reducible assumption | intro _ | simp only [State.bump_books, State.convertScaled_books, State.putCode_books, books_mk, books_eta, Iter.state_done, Iter.state_fmt, Iter.state_trap, Whole.state_ran, Whole.state_stopped, Whole.state_denied] | split | with_reducible refine (foldl_books _ ?_ _ _).trans ?_

theorem State.mxProduct_books {s t : State} {x : Product} (h : s.mxProduct x = some t) : t.books = s.books := by
  simp only [State.mxProduct] at h
  split at h
  · cases h
    simp only [State.bump_books]
    refine foldl_books _ ?_ _ _
    intro t e
    rw [State.putCode_books]
  · cases h

@[simp] theorem State.mxStop_books (s : State) : (State.mxStop s).state.books = s.books := by
  unfold State.mxStop
  repeat' first | with_reducible rfl | with_reducible assumption | intro _ | simp only [State.bump_books, books_mk, books_eta, Iter.state_done, Iter.state_fmt, Iter.state_trap, Whole.state_ran, Whole.state_stopped, Whole.state_denied] | split | with_reducible refine (foldl_books _ ?_ _ _).trans ?_

@[simp] theorem State.mmulIter_books (s : State) (x1 : _) (x2 : _) : (State.mmulIter s x1 x2).state.books = s.books := by
  unfold State.mmulIter
  repeat' first | with_reducible rfl | with_reducible assumption | intro _ | simp only [State.mxStop_books, books_mk, books_eta, Iter.state_done, Iter.state_fmt, Iter.state_trap, Whole.state_ran, Whole.state_stopped, Whole.state_denied] | with_reducible refine (State.mxProduct_books (by assumption)).trans ?_ | split | with_reducible refine (foldl_books _ ?_ _ _).trans ?_

theorem State.mxEntry_books {s t : State} {o : Op} {i : Nat} {e : GEntry} {d1 : Option Descr} {fa : Nat} {b : Nat → Nat → Option Val}
    {d2 d0 : Descr} (h : s.mxEntry o i e d1 fa b d2 d0 = some t) : t.books = s.books := by
  simp only [State.mxEntry] at h
  split at h
  · cases h; simp only [State.bump_books]
  · split at h
    · cases h
    · exact State.mxProduct_books h

@[simp] theorem walkTable_books (o : Op) (i : Nat) (d1 : Option Descr) (fa : Nat) (b : Nat → Nat → Option Val) (d2 d0 : Descr)
    (en : State → Nat → Option GEntry) (n g : Nat) (s : State) : (State.walkTable o i d1 fa b d2 d0 en n g s).1.books = s.books := by
  induction n generalizing g s with
  | zero => rfl
  | succ n ih =>
    rw [State.walkTable]
    split
    · rename_i t ht
      obtain ⟨e, _, h⟩ := Option.bind_eq_some_iff.mp ht
      rw [ih, State.mxEntry_books h]
    · rfl

@[simp] theorem State.mgroupIter_books (s : State) (h : BitVec 20) (o : Op) (r : OpRun) : (s.mgroupIter h o r).state.books = s.books := by
  unfold State.mgroupIter
  repeat' first | with_reducible rfl | intro _ | simp only [walkTable_books, State.mxStop_books, State.raise_books, Iter.state_done, Iter.state_trap] | split

@[simp] theorem State.modQ_books (s : State) (x1 : _) (x2 : _) (x3 : _) : (State.modQ s x1 x2 x3).books = s.books := by
  unfold State.modQ
  repeat' first | with_reducible rfl | with_reducible assumption | intro _ | simp only [books_mk, books_eta, Iter.state_done, Iter.state_fmt, Iter.state_trap, Whole.state_ran, Whole.state_stopped, Whole.state_denied] | split | with_reducible refine (foldl_books _ ?_ _ _).trans ?_

@[simp] theorem State.writeOut_books (s : State) (x1 : _) (x2 : _) (x3 : _) : ((State.writeOut s x1 x2 x3).state s).books = s.books := by
  unfold State.writeOut
  repeat' first | with_reducible rfl | with_reducible assumption | intro _ | simp only [State.putCodes_books, books_mk, books_eta, Iter.state_done, Iter.state_fmt, Iter.state_trap, Whole.state_ran, Whole.state_stopped, Whole.state_denied] | split | with_reducible refine (foldl_books _ ?_ _ _).trans ?_

theorem State.reading_books {s : State} {d : Descr} {l : List (List Nat)} {f : List Nat → Whole}
    (h : ∀ cs, ((f cs).state s).books = s.books) : ((s.reading d l f).state s).books = s.books := by
  unfold State.reading
  split
  · exact h _
  · rfl

theorem Whole.andThen_books {s : State} {w : Whole} {f : State → Whole} (hw : (w.state s).books = s.books)
    (h : ∀ t, ((f t).state t).books = t.books) : ((w.andThen f).state s).books = s.books := by
  cases w with
  | ran t =>
    refine Eq.trans ?_ hw
    have e := h t
    show ((f t).state s).books = t.books
    cases hf : f t with
    | denied => exact hw.symm
    | ran u => rw [hf] at e; exact e
    | stopped u => rw [hf] at e; exact e
  | stopped t => exact hw
  | denied => rfl

theorem Whole.goodIf_books {s : State} {w : Whole} {b : Bool} (hw : (w.state s).books = s.books) : ((w.goodIf b).state s).books = s.books := by
  rw [Whole.goodIf_state, hw]

@[simp] theorem State.sortOp_books (s : State) (x1 : _) (x2 : _) (x3 : _) (x4 : _) (x5 : _) : ((State.sortOp s x1 x2 x3 x4 x5).state s).books = s.books := by
  unfold State.sortOp
  repeat' first | with_reducible rfl | with_reducible assumption | intro _ | simp only [State.writeOut_books, books_mk, books_eta, Iter.state_done, Iter.state_fmt, Iter.state_trap, Whole.state_ran, Whole.state_stopped, Whole.state_denied] | split | with_reducible refine (foldl_books _ ?_ _ _).trans ?_ | with_reducible refine Whole.andThen_books ?_ fun _ => ?_ | with_reducible refine State.reading_books fun _ => ?_

@[simp] theorem State.topkOp_books (s : State) (x1 : _) (x2 : _) (x3 : _) (x4 : _) (x5 : _) : ((State.topkOp s x1 x2 x3 x4 x5).state s).books = s.books := by
  unfold State.topkOp
  repeat' first | with_reducible rfl | with_reducible assumption | intro _ | simp only [State.writeOut_books, books_mk, books_eta, Iter.state_done, Iter.state_fmt, Iter.state_trap, Whole.state_ran, Whole.state_stopped, Whole.state_denied] | split | with_reducible refine (foldl_books _ ?_ _ _).trans ?_ | with_reducible refine Whole.andThen_books ?_ fun _ => ?_ | with_reducible refine State.reading_books fun _ => ?_

@[simp] theorem State.filterOp_books (s : State) (x1 : _) (x2 : _) (x3 : _) (x4 : _) (x5 : _) : ((State.filterOp s x1 x2 x3 x4 x5).state s).books = s.books := by
  unfold State.filterOp
  repeat' first | with_reducible rfl | with_reducible assumption | intro _ | simp only [State.writeOut_books, books_mk, books_eta, Iter.state_done, Iter.state_fmt, Iter.state_trap, Whole.state_ran, Whole.state_stopped, Whole.state_denied] | split | with_reducible refine (foldl_books _ ?_ _ _).trans ?_ | with_reducible refine Whole.andThen_books ?_ fun _ => ?_ | with_reducible refine State.reading_books fun _ => ?_

@[simp] theorem State.compactOp_books (s : State) (x1 : _) (x2 : _) (x3 : _) (x4 : _) (x5 : _) : ((State.compactOp s x1 x2 x3 x4 x5).state s).books = s.books := by
  unfold State.compactOp
  repeat' first | with_reducible rfl | with_reducible assumption | intro _ | simp only [State.writeOut_books, books_mk, books_eta, Iter.state_done, Iter.state_fmt, Iter.state_trap, Whole.state_ran, Whole.state_stopped, Whole.state_denied] | split | with_reducible refine (foldl_books _ ?_ _ _).trans ?_ | with_reducible refine Whole.goodIf_books ?_ | with_reducible refine State.reading_books fun _ => ?_

@[simp] theorem State.scanOp_books (s : State) (x1 : _) (x2 : _) (x3 : _) (x4 : _) : ((State.scanOp s x1 x2 x3 x4).state s).books = s.books := by
  unfold State.scanOp
  repeat' first | with_reducible rfl | with_reducible assumption | intro _ | simp only [State.bump_books, State.writeOut_books, books_mk, books_eta, Iter.state_done, Iter.state_fmt, Iter.state_trap, Whole.state_ran, Whole.state_stopped, Whole.state_denied] | split | with_reducible refine (foldl_books _ ?_ _ _).trans ?_ | with_reducible refine Whole.andThen_books ?_ fun _ => ?_ | with_reducible refine State.reading_books fun _ => ?_

@[simp] theorem State.histOp_books (s : State) (x1 : _) (x2 : _) (x3 : _) (x4 : _) : ((State.histOp s x1 x2 x3 x4).state s).books = s.books := by
  unfold State.histOp
  repeat' first | with_reducible rfl | with_reducible assumption | intro _ | simp only [State.writeOut_books, books_mk, books_eta, Iter.state_done, Iter.state_fmt, Iter.state_trap, Whole.state_ran, Whole.state_stopped, Whole.state_denied] | split | with_reducible refine (foldl_books _ ?_ _ _).trans ?_ | with_reducible refine State.reading_books fun _ => ?_

@[simp] theorem State.rlzEncOp_books (s : State) (x1 : _) (x2 : _) (x3 : _) (x4 : _) : ((State.rlzEncOp s x1 x2 x3 x4).state s).books = s.books := by
  unfold State.rlzEncOp
  repeat' first | with_reducible rfl | with_reducible assumption | intro _ | simp only [State.writeOut_books, books_mk, books_eta, Iter.state_done, Iter.state_fmt, Iter.state_trap, Whole.state_ran, Whole.state_stopped, Whole.state_denied] | split | with_reducible refine (foldl_books _ ?_ _ _).trans ?_ | with_reducible refine State.reading_books fun _ => ?_

@[simp] theorem State.rlzDecOp_books (s : State) (x1 : _) (x2 : _) (x3 : _) (x4 : _) : ((State.rlzDecOp s x1 x2 x3 x4).state s).books = s.books := by
  unfold State.rlzDecOp
  repeat' first | with_reducible rfl | with_reducible assumption | intro _ | simp only [State.writeOut_books, books_mk, books_eta, Iter.state_done, Iter.state_fmt, Iter.state_trap, Whole.state_ran, Whole.state_stopped, Whole.state_denied] | split | with_reducible refine (foldl_books _ ?_ _ _).trans ?_ | with_reducible refine Whole.goodIf_books ?_ | with_reducible refine State.reading_books fun _ => ?_

@[simp] theorem State.pack28Op_books (s : State) (x1 : _) (x2 : _) (x3 : _) (x4 : _) (x5 : _) : ((State.pack28Op s x1 x2 x3 x4 x5).state s).books = s.books := by
  unfold State.pack28Op
  repeat' first | with_reducible rfl | with_reducible assumption | intro _ | simp only [State.writeOut_books, books_mk, books_eta, Iter.state_done, Iter.state_fmt, Iter.state_trap, Whole.state_ran, Whole.state_stopped, Whole.state_denied] | split | with_reducible refine (foldl_books _ ?_ _ _).trans ?_ | with_reducible refine Whole.andThen_books ?_ fun _ => ?_ | with_reducible refine Whole.goodIf_books ?_ | with_reducible refine State.reading_books fun _ => ?_

@[simp] theorem State.sieveOp_books (s : State) (x1 : _) (x2 : _) : ((State.sieveOp s x1 x2).state s).books = s.books := by
  unfold State.sieveOp
  repeat' first | with_reducible rfl | with_reducible assumption | intro _ | simp only [State.compactOp_books, State.filterOp_books, State.histOp_books, State.pack28Op_books, State.rlzDecOp_books, State.rlzEncOp_books, State.scanOp_books, State.sortOp_books, State.topkOp_books, books_mk, books_eta, Iter.state_done, Iter.state_fmt, Iter.state_trap, Whole.state_ran, Whole.state_stopped, Whole.state_denied] | split | with_reducible refine (foldl_books _ ?_ _ _).trans ?_

@[simp] theorem State.sieveIter_books (s : State) (o : Op) (r : OpRun) : (s.sieveIter o r).state.books = s.books := by
  have h := State.sieveOp_books s o r.iter
  unfold State.sieveIter
  split
  · rename_i t ht; rw [ht] at h; exact h
  · rename_i t ht; rw [ht] at h; simp only [Iter.state_fmt, State.bump_books]; exact h
  · rfl

@[simp] theorem State.foldIter_books (s : State) (x1 : _) (x2 : _) : (State.foldIter s x1 x2).state.books = s.books := by
  unfold State.foldIter
  repeat' first | with_reducible rfl | with_reducible assumption | intro _ | simp only [State.bump_books, State.putCode_books, books_mk, books_eta, Iter.state_done, Iter.state_fmt, Iter.state_trap, Whole.state_ran, Whole.state_stopped, Whole.state_denied] | split | with_reducible refine (foldl_books _ ?_ _ _).trans ?_

@[simp] theorem State.blkexpIter_books (s : State) (x1 : _) (x2 : _) : (State.blkexpIter s x1 x2).state.books = s.books := by
  unfold State.blkexpIter
  repeat' first | with_reducible rfl | with_reducible assumption | intro _ | simp only [State.putCode_books, books_mk, books_eta, Iter.state_done, Iter.state_fmt, Iter.state_trap, Whole.state_ran, Whole.state_stopped, Whole.state_denied] | split | with_reducible refine (foldl_books _ ?_ _ _).trans ?_

@[simp] theorem State.sendWrite_books (s : State) (x1 : _) (x2 : _) (x3 : _) (x4 : _) (x5 : _) : (State.sendWrite s x1 x2 x3 x4 x5).books = s.books := by
  unfold State.sendWrite
  repeat' first | with_reducible rfl | with_reducible assumption | intro _ | simp only [State.sendMessage_books, books_mk, books_eta, Iter.state_done, Iter.state_fmt, Iter.state_trap, Whole.state_ran, Whole.state_stopped, Whole.state_denied] | split | with_reducible refine (foldl_books _ ?_ _ _).trans ?_

@[simp] theorem State.copyIter_books (s : State) (x1 : _) (x2 : _) (x3 : _) : (State.copyIter s x1 x2 x3).state.books = s.books := by
  unfold State.copyIter
  repeat' first | with_reducible rfl | with_reducible assumption | intro _ | simp only [State.putCode_books, State.sendWrite_books, books_mk, books_eta, Iter.state_done, Iter.state_fmt, Iter.state_trap, Whole.state_ran, Whole.state_stopped, Whole.state_denied] | split | with_reducible refine (foldl_books _ ?_ _ _).trans ?_

@[simp] theorem State.fillIter_books (s : State) (x1 : _) (x2 : _) : (State.fillIter s x1 x2).state.books = s.books := by
  unfold State.fillIter
  repeat' first | with_reducible rfl | with_reducible assumption | intro _ | simp only [State.putCode_books, books_mk, books_eta, Iter.state_done, Iter.state_fmt, Iter.state_trap, Whole.state_ran, Whole.state_stopped, Whole.state_denied] | split | with_reducible refine (foldl_books _ ?_ _ _).trans ?_

@[simp] theorem State.controlOp_books (s : State) (x1 : _) (x2 : _) (x3 : _) (x4 : _) : (State.controlOp s x1 x2 x3 x4).state.books = s.books := by
  unfold State.controlOp
  repeat' first | with_reducible rfl | with_reducible assumption | intro _ | simp only [State.bump_books, State.modQ_books, books_mk, books_eta, Iter.state_done, Iter.state_fmt, Iter.state_trap, Whole.state_ran, Whole.state_stopped, Whole.state_denied] | split | with_reducible refine (foldl_books _ ?_ _ _).trans ?_

@[simp] theorem State.unsound_books (s : State) (x1 : _) : (State.unsound s x1).state.books = s.books := by
  unfold State.unsound
  repeat' first | with_reducible rfl | with_reducible assumption | intro _ | simp only [State.mxStop_books, books_mk, books_eta, Iter.state_done, Iter.state_fmt, Iter.state_trap, Whole.state_ran, Whole.state_stopped, Whole.state_denied] | split | with_reducible refine (foldl_books _ ?_ _ _).trans ?_

@[simp] theorem State.soundIter_books (s : State) (x1 : _) (x2 : _) (x3 : _) (x4 : _) : (State.soundIter s x1 x2 x3 x4).state.books = s.books := by
  unfold State.soundIter
  repeat' first | with_reducible rfl | with_reducible assumption | intro _ | simp only [State.blkexpIter_books, State.controlOp_books, State.convertIter_books, State.copyIter_books, State.fillIter_books, State.foldIter_books, State.kernelIter_books, State.mgroupIter_books, State.mmulIter_books, State.sieveIter_books, books_mk, books_eta, Iter.state_done, Iter.state_fmt, Iter.state_trap, Whole.state_ran, Whole.state_stopped, Whole.state_denied] | split | with_reducible refine (foldl_books _ ?_ _ _).trans ?_

@[simp] theorem State.runIter_books (s : State) (x1 : _) (x2 : _) (x3 : _) (x4 : _) : (State.runIter s x1 x2 x3 x4).state.books = s.books := by
  unfold State.runIter
  repeat' first | with_reducible rfl | with_reducible assumption | intro _ | simp only [State.soundIter_books, State.unsound_books, books_mk, books_eta, Iter.state_done, Iter.state_fmt, Iter.state_trap, Whole.state_ran, Whole.state_stopped, Whole.state_denied] | split | with_reducible refine (foldl_books _ ?_ _ _).trans ?_

@[simp] theorem State.skipIter_books (s : State) (x1 : _) (x2 : _) (x3 : _) : (State.skipIter s x1 x2 x3).state.books = s.books := by
  unfold State.skipIter
  repeat' first | with_reducible rfl | with_reducible assumption | intro _ | simp only [State.sendWrite_books, books_mk, books_eta, Iter.state_done, Iter.state_fmt, Iter.state_trap, Whole.state_ran, Whole.state_stopped, Whole.state_denied] | split | with_reducible refine (foldl_books _ ?_ _ _).trans ?_

@[simp] theorem State.iterated_books (s : State) (x1 : _) (x2 : _) (x3 : _) (x4 : _) : (State.iterated s x1 x2 x3 x4).books = s.books := by
  unfold State.iterated
  repeat' first | with_reducible rfl | with_reducible assumption | intro _ | simp only [State.addToken_books, State.modQ_books, books_mk, books_eta, Iter.state_done, Iter.state_fmt, Iter.state_trap, Whole.state_ran, Whole.state_stopped, Whole.state_denied] | split | with_reducible refine (foldl_books _ ?_ _ _).trans ?_ | with_reducible refine (foldlB_books _ ?_ _ _).trans ?_ | with_reducible refine (foldl1_books _ ?_ _ _).trans ?_ | with_reducible refine (foldl2_books _ ?_ _ _).trans ?_

theorem execOpIssue_books {s t : State} {x0 : BitVec 20} {x1 : Nat} (h : execOpIssue x0 x1 s = .next t) : t.books = s.books := by
  simp only [execOpIssue, Host.Outcome.next.injEq] at h
  subst h
  repeat' first | with_reducible rfl | with_reducible assumption | intro _ | simp only [State.bump_books, State.modQ_books, books_mk, books_eta, Iter.state_done, Iter.state_fmt, Iter.state_trap, Whole.state_ran, Whole.state_stopped, Whole.state_denied] | split | with_reducible refine (foldl_books _ ?_ _ _).trans ?_

@[simp] theorem State.busWrite_books (s : State) (x1 : _) (x2 : _) : (State.busWrite s x1 x2).books = s.books := by
  unfold State.busWrite
  repeat' first | with_reducible rfl | with_reducible assumption | intro _ | simp only [State.emit_books, books_mk, books_eta, Iter.state_done, Iter.state_fmt, Iter.state_trap, Whole.state_ran, Whole.state_stopped, Whole.state_denied] | split | with_reducible refine (foldl_books _ ?_ _ _).trans ?_

@[simp] theorem State.setRing_books (s : State) (x1 : _) (x2 : _) : (State.setRing s x1 x2).books = s.books := by
  unfold State.setRing
  repeat' first | with_reducible rfl | with_reducible assumption | intro _ | simp only [books_mk, books_eta, Iter.state_done, Iter.state_fmt, Iter.state_trap, Whole.state_ran, Whole.state_stopped, Whole.state_denied] | split | with_reducible refine (foldl_books _ ?_ _ _).trans ?_

@[simp] theorem State.ringError_books (s : State) (x1 : _) : (State.ringError s x1).books = s.books := by
  unfold State.ringError
  repeat' first | with_reducible rfl | with_reducible assumption | intro _ | simp only [State.raise_books, State.setRing_books, books_mk, books_eta, Iter.state_done, Iter.state_fmt, Iter.state_trap, Whole.state_ran, Whole.state_stopped, Whole.state_denied] | split | with_reducible refine (foldl_books _ ?_ _ _).trans ?_

@[simp] theorem State.interrupt_books (s : State) (x1 : _) : (State.interrupt s x1).books = s.books := by
  unfold State.interrupt
  repeat' first | with_reducible rfl | with_reducible assumption | intro _ | simp only [State.emit_books, State.wr_books, books_mk, books_eta, Iter.state_done, Iter.state_fmt, Iter.state_trap, Whole.state_ran, Whole.state_stopped, Whole.state_denied] | split | with_reducible refine (foldl_books _ ?_ _ _).trans ?_

@[simp] theorem State.msiWrite_books (s : State) (x1 : _) (x2 : _) : (State.msiWrite s x1 x2).books = s.books := by
  unfold State.msiWrite
  repeat' first | with_reducible rfl | with_reducible assumption | intro _ | simp only [State.interrupt_books, State.wr_books, books_mk, books_eta, Iter.state_done, Iter.state_fmt, Iter.state_trap, Whole.state_ran, Whole.state_stopped, Whole.state_denied] | split | with_reducible refine (foldl_books _ ?_ _ _).trans ?_

@[simp] theorem State.writeHeld_books (s : State) (x1 : _) : (State.writeHeld s x1).1.books = s.books := by
  unfold State.writeHeld
  repeat' first | with_reducible rfl | with_reducible assumption | intro _ | simp only [State.emit_books, State.setRing_books, books_mk, books_eta, Iter.state_done, Iter.state_fmt, Iter.state_trap, Whole.state_ran, Whole.state_stopped, Whole.state_denied] | split | with_reducible refine (foldl_books _ ?_ _ _).trans ?_

@[simp] theorem flushAux_books (cq n : Nat) (r : State × Bool) : (State.flushAux cq n r).1.books = r.1.books := by
  induction n generalizing r with
  | zero => rfl
  | succ n ih =>
    obtain ⟨s, any⟩ := r
    have e := State.writeHeld_books s cq
    cases hw : s.writeHeld cq with
    | mk t did =>
      rw [hw] at e
      simp only [State.flushAux, hw]
      split
      · rw [ih]; exact e
      · rfl

@[simp] theorem State.flushCq_books (s : State) (cq : Nat) : (s.flushCq cq).books = s.books := by
  simp only [State.flushCq]
  split <;> simp only [State.interrupt_books, flushAux_books]

@[simp] theorem State.trace_books (s : State) (x1 : _) (x2 : _) (x3 : _) (x4 : _) : (State.trace s x1 x2 x3 x4).books = s.books := by
  unfold State.trace
  repeat' first | with_reducible rfl | with_reducible assumption | intro _ | simp only [State.bump_books, State.draw_books, State.emit_books, books_mk, books_eta, Iter.state_done, Iter.state_fmt, Iter.state_trap, Whole.state_ran, Whole.state_stopped, Whole.state_denied] | split | with_reducible refine (foldl_books _ ?_ _ _).trans ?_

@[simp] theorem State.complete_books (s : State) (x1 : _) (x2 : _) (x3 : _) (x4 : _) (x5 : _) : (State.complete s x1 x2 x3 x4 x5).books = s.books := by
  unfold State.complete
  repeat' first | with_reducible rfl | with_reducible assumption | intro _ | simp only [State.flushCq_books, State.setRing_books, State.trace_books, books_mk, books_eta, Iter.state_done, Iter.state_fmt, Iter.state_trap, Whole.state_ran, Whole.state_stopped, Whole.state_denied] | split | with_reducible refine (foldl_books _ ?_ _ _).trans ?_

@[simp] theorem State.fail_books (s : State) (x1 : _) (x2 : _) (x3 : _) : (State.fail s x1 x2 x3).books = s.books := by
  unfold State.fail
  repeat' first | with_reducible rfl | with_reducible assumption | intro _ | simp only [State.complete_books, books_mk, books_eta, Iter.state_done, Iter.state_fmt, Iter.state_trap, Whole.state_ran, Whole.state_stopped, Whole.state_denied] | split | with_reducible refine (foldl_books _ ?_ _ _).trans ?_

@[simp] theorem State.ok_books (s : State) (x1 : _) (x2 : _) (x3 : _) : (State.ok s x1 x2 x3).books = s.books := by
  unfold State.ok
  repeat' first | with_reducible rfl | with_reducible assumption | intro _ | simp only [State.complete_books, books_mk, books_eta, Iter.state_done, Iter.state_fmt, Iter.state_trap, Whole.state_ran, Whole.state_stopped, Whole.state_denied] | split | with_reducible refine (foldl_books _ ?_ _ _).trans ?_

@[simp] theorem State.sqBell_books (s : State) (x1 : _) (x2 : _) : (State.sqBell s x1 x2).books = s.books := by
  unfold State.sqBell
  repeat' first | with_reducible rfl | with_reducible assumption | intro _ | simp only [State.ringError_books, State.setRing_books, books_mk, books_eta, Iter.state_done, Iter.state_fmt, Iter.state_trap, Whole.state_ran, Whole.state_stopped, Whole.state_denied] | split | with_reducible refine (foldl_books _ ?_ _ _).trans ?_

@[simp] theorem State.cqBell_books (s : State) (x1 : _) (x2 : _) : (State.cqBell s x1 x2).books = s.books := by
  unfold State.cqBell
  repeat' first | with_reducible rfl | with_reducible assumption | intro _ | simp only [State.flushCq_books, State.ringError_books, State.setRing_books, books_mk, books_eta, Iter.state_done, Iter.state_fmt, Iter.state_trap, Whole.state_ran, Whole.state_stopped, Whole.state_denied] | split | with_reducible refine (foldl_books _ ?_ _ _).trans ?_

@[simp] theorem State.ringWrite_books (s : State) (x1 : _) (x2 : _) : (State.ringWrite s x1 x2).books = s.books := by
  unfold State.ringWrite
  repeat' first | with_reducible rfl | with_reducible assumption | intro _ | simp only [State.flushCq_books, State.raise_books, State.setRing_books, books_mk, books_eta, Iter.state_done, Iter.state_fmt, Iter.state_trap, Whole.state_ran, Whole.state_stopped, Whole.state_denied] | split | with_reducible refine (foldl_books _ ?_ _ _).trans ?_

theorem execSqDoorbell_books {s t : State} {x0 : Nat} {x1 : Sys2Proof.Word} (h : execSqDoorbell x0 x1 s = .next t) : t.books = s.books := by
  simp only [execSqDoorbell, Host.Outcome.next.injEq] at h
  subst h
  repeat' first | with_reducible rfl | with_reducible assumption | intro _ | simp only [State.sqBell_books, books_mk, books_eta, Iter.state_done, Iter.state_fmt, Iter.state_trap, Whole.state_ran, Whole.state_stopped, Whole.state_denied] | split | with_reducible refine (foldl_books _ ?_ _ _).trans ?_

theorem execCqDoorbell_books {s t : State} {x0 : Nat} {x1 : Sys2Proof.Word} (h : execCqDoorbell x0 x1 s = .next t) : t.books = s.books := by
  simp only [execCqDoorbell, Host.Outcome.next.injEq] at h
  subst h
  repeat' first | with_reducible rfl | with_reducible assumption | intro _ | simp only [State.cqBell_books, books_mk, books_eta, Iter.state_done, Iter.state_fmt, Iter.state_trap, Whole.state_ran, Whole.state_stopped, Whole.state_denied] | split | with_reducible refine (foldl_books _ ?_ _ _).trans ?_

theorem execRingConfigWrite_books {s t : State} {x0 : Nat} {x1 : Sys2Proof.Word} (h : execRingConfigWrite x0 x1 s = .next t) : t.books = s.books := by
  simp only [execRingConfigWrite, Host.Outcome.next.injEq] at h
  subst h
  repeat' first | with_reducible rfl | with_reducible assumption | intro _ | simp only [State.ringWrite_books, books_mk, books_eta, Iter.state_done, Iter.state_fmt, Iter.state_trap, Whole.state_ran, Whole.state_stopped, Whole.state_denied] | split | with_reducible refine (foldl_books _ ?_ _ _).trans ?_

theorem execMsiUnmask_books {s t : State} {x0 : Nat} {x1 : Sys2Proof.Word} (h : execMsiUnmask x0 x1 s = .next t) : t.books = s.books := by
  simp only [execMsiUnmask, Host.Outcome.next.injEq] at h
  subst h
  repeat' first | with_reducible rfl | with_reducible assumption | intro _ | simp only [State.msiWrite_books, books_mk, books_eta, Iter.state_done, Iter.state_fmt, Iter.state_trap, Whole.state_ran, Whole.state_stopped, Whole.state_denied] | split | with_reducible refine (foldl_books _ ?_ _ _).trans ?_

theorem execSqEntryFetch_books {s t : State} {x0 : Nat} {x1 : List Sys2Proof.Byte} (h : execSqEntryFetch x0 x1 s = .next t) : t.books = s.books := by
  simp only [execSqEntryFetch, Host.Outcome.next.injEq] at h
  subst h
  repeat' first | with_reducible rfl | with_reducible assumption | intro _ | simp only [State.fail_books, State.setRing_books, State.trace_books, books_mk, books_eta, Iter.state_done, Iter.state_fmt, Iter.state_trap, Whole.state_ran, Whole.state_stopped, Whole.state_denied] | split | with_reducible refine (foldl_books _ ?_ _ _).trans ?_

@[simp] theorem State.refuseAt_books (s : State) (x1 : _) (x2 : _) (x3 : _) : (State.refuseAt s x1 x2 x3).books = s.books := by
  unfold State.refuseAt
  repeat' first | with_reducible rfl | with_reducible assumption | intro _ | simp only [State.fail_books, books_mk, books_eta, Iter.state_done, Iter.state_fmt, Iter.state_trap, Whole.state_ran, Whole.state_stopped, Whole.state_denied] | split | with_reducible refine (foldl_books _ ?_ _ _).trans ?_ | with_reducible refine (foldlB_books _ ?_ _ _).trans ?_ | with_reducible refine (foldl1_books _ ?_ _ _).trans ?_ | with_reducible refine (foldl2_books _ ?_ _ _).trans ?_

@[simp] theorem State.answer_books (s : State) (x1 : _) (x2 : _) (x3 : _) : (State.answer s x1 x2 x3).books = s.books := by
  unfold State.answer
  repeat' first | with_reducible rfl | with_reducible assumption | intro _ | simp only [State.emit_books, State.fail_books, State.ok_books, books_mk, books_eta, Iter.state_done, Iter.state_fmt, Iter.state_trap, Whole.state_ran, Whole.state_stopped, Whole.state_denied] | split | with_reducible refine (foldl_books _ ?_ _ _).trans ?_

@[simp] theorem State.dequeue_books (s : State) (x1 : _) (x2 : _) : (State.dequeue s x1 x2).books = s.books := by
  unfold State.dequeue
  repeat' first | with_reducible rfl | with_reducible assumption | intro _ | simp only [State.dropRef_books, State.setQueue_books, books_mk, books_eta, Iter.state_done, Iter.state_fmt, Iter.state_trap, Whole.state_ran, Whole.state_stopped, Whole.state_denied] | split | with_reducible refine (foldl_books _ ?_ _ _).trans ?_

@[simp] theorem State.sweepQueues_books (s : State) (x1 : _) : (State.sweepQueues s x1).books = s.books := by
  unfold State.sweepQueues
  repeat' first | with_reducible rfl | with_reducible assumption | intro _ | simp only [State.dequeue_books, State.dropRef_books, books_mk, books_eta, Iter.state_done, Iter.state_fmt, Iter.state_trap, Whole.state_ran, Whole.state_stopped, Whole.state_denied] | split | with_reducible refine (foldl_books _ ?_ _ _).trans ?_ | with_reducible refine (foldlB_books _ ?_ _ _).trans ?_ | with_reducible refine (foldl1_books _ ?_ _ _).trans ?_ | with_reducible refine (foldl2_books _ ?_ _ _).trans ?_

@[simp] theorem State.sweepStreams_books (s : State) (x1 : _) : (State.sweepStreams s x1).books = s.books := by
  unfold State.sweepStreams
  repeat' first | with_reducible rfl | with_reducible assumption | intro _ | simp only [State.dropTx_books, State.release_books, books_mk, books_eta, Iter.state_done, Iter.state_fmt, Iter.state_trap, Whole.state_ran, Whole.state_stopped, Whole.state_denied] | split | with_reducible refine (foldl_books _ ?_ _ _).trans ?_ | with_reducible refine (foldlB_books _ ?_ _ _).trans ?_ | with_reducible refine (foldl1_books _ ?_ _ _).trans ?_ | with_reducible refine (foldl2_books _ ?_ _ _).trans ?_

@[simp] theorem State.setFenced_books (s : State) (x1 : _) (x2 : _) (x3 : _) (x4 : _) : (State.setFenced s x1 x2 x3 x4).books = s.books := by
  unfold State.setFenced
  repeat' first | with_reducible rfl | with_reducible assumption | intro _ | simp only [State.modParty_books, books_mk, books_eta, Iter.state_done, Iter.state_fmt, Iter.state_trap, Whole.state_ran, Whole.state_stopped, Whole.state_denied] | split | with_reducible refine (foldl_books _ ?_ _ _).trans ?_

@[simp] theorem State.notify_books (s : State) (x1 : _) (x2 : _) : (State.notify s x1 x2).books = s.books := by
  unfold State.notify
  repeat' first | with_reducible rfl | with_reducible assumption | intro _ | simp only [State.sendCtrl_books, books_mk, books_eta, Iter.state_done, Iter.state_fmt, Iter.state_trap, Whole.state_ran, Whole.state_stopped, Whole.state_denied] | split | with_reducible refine (foldl_books _ ?_ _ _).trans ?_ | with_reducible refine (foldlB_books _ ?_ _ _).trans ?_ | with_reducible refine (foldl1_books _ ?_ _ _).trans ?_ | with_reducible refine (foldl2_books _ ?_ _ _).trans ?_

theorem execFenceBumpDeferred_books {s t : State} {x0 : Sys2Proof.FA} (h : execFenceBumpDeferred x0 s = .next t) : t.books = s.books := by
  simp only [execFenceBumpDeferred, Host.Outcome.next.injEq] at h
  subst h
  repeat' first | with_reducible rfl | with_reducible assumption | intro _ | simp only [State.notify_books, State.setFenced_books, books_mk, books_eta, Iter.state_done, Iter.state_fmt, Iter.state_trap, Whole.state_ran, Whole.state_stopped, Whole.state_denied] | split | with_reducible refine (foldl_books _ ?_ _ _).trans ?_

@[simp] theorem State.reportSilence_books (s : State) : (State.reportSilence s).books = s.books := by
  unfold State.reportSilence
  repeat' first | with_reducible rfl | with_reducible assumption | intro _ | simp only [State.sendCtrl_books, books_mk, books_eta, Iter.state_done, Iter.state_fmt, Iter.state_trap, Whole.state_ran, Whole.state_stopped, Whole.state_denied] | split | with_reducible refine (foldl_books _ ?_ _ _).trans ?_

theorem execHeartbeatSend_books {s t : State} {x0 : Nat} (h : execHeartbeatSend x0 s = .next t) : t.books = s.books := by
  simp only [execHeartbeatSend, Host.Outcome.next.injEq] at h
  subst h
  repeat' first | with_reducible rfl | with_reducible assumption | intro _ | simp only [State.modPort_books, State.sendOnPort_books, books_mk, books_eta, Iter.state_done, Iter.state_fmt, Iter.state_trap, Whole.state_ran, Whole.state_stopped, Whole.state_denied] | split | with_reducible refine (foldl_books _ ?_ _ _).trans ?_

theorem execHeartbeat_books {s t : State} {x0 : Nat} {x1 : Nat} {x2 : Nat} {x3 : Sys2Proof.Byte} (h : execHeartbeat x0 x1 x2 x3 s = .next t) : t.books = s.books := by
  simp only [execHeartbeat, Host.Outcome.next.injEq] at h
  subst h
  repeat' first | with_reducible rfl | with_reducible assumption | intro _ | simp only [State.modPort_books, State.reportSilence_books, State.takeCtrl_books, books_mk, books_eta, Iter.state_done, Iter.state_fmt, Iter.state_trap, Whole.state_ran, Whole.state_stopped, Whole.state_denied] | split | with_reducible refine (foldl_books _ ?_ _ _).trans ?_

theorem execStepEnd_books {s t : State} {x0 : Nat} {x1 : Nat} {x2 : Sys2Proof.Byte} (h : execStepEnd x0 x1 x2 s = .next t) : t.books = s.books := by
  simp only [execStepEnd, Host.Outcome.next.injEq] at h
  subst h
  repeat' first | with_reducible rfl | with_reducible assumption | intro _ | simp only [State.modPort_books, State.takeCtrl_books, books_mk, books_eta, Iter.state_done, Iter.state_fmt, Iter.state_trap, Whole.state_ran, Whole.state_stopped, Whole.state_denied] | split | with_reducible refine (foldl_books _ ?_ _ _).trans ?_

theorem execTwinHbSend_books {s t : State} {x0 : Nat} (h : execTwinHbSend x0 s = .next t) : t.books = s.books := by
  simp only [execTwinHbSend, Host.Outcome.next.injEq] at h
  subst h
  repeat' first | with_reducible rfl | with_reducible assumption | intro _ | simp only [State.modPort_books, State.sendOnPort_books, books_mk, books_eta, Iter.state_done, Iter.state_fmt, Iter.state_trap, Whole.state_ran, Whole.state_stopped, Whole.state_denied] | split | with_reducible refine (foldl_books _ ?_ _ _).trans ?_

@[simp] theorem State.linkChanged_books (s : State) (x1 : _) (x2 : _) (x3 : _) (x4 : _) : (State.linkChanged s x1 x2 x3 x4).books = s.books := by
  unfold State.linkChanged
  repeat' first | with_reducible rfl | with_reducible assumption | intro _ | simp only [State.rebuildRoutes_books, books_mk, books_eta, Iter.state_done, Iter.state_fmt, Iter.state_trap, Whole.state_ran, Whole.state_stopped, Whole.state_denied] | split | with_reducible refine (foldl_books _ ?_ _ _).trans ?_

theorem execLinkNotice_books {s t : State} {x0 : Sys2Proof.FA} {x1 : Sys2Proof.FA} {x2 : Nat} {x3 : Bool} {x4 : Bool} {x5 : Nat} (h : execLinkNotice x0 x1 x2 x3 x4 x5 s = .next t) : t.books = s.books := by
  simp only [execLinkNotice, Host.Outcome.next.injEq] at h
  subst h
  repeat' first | with_reducible rfl | with_reducible assumption | intro _ | simp only [State.linkChanged_books, State.takeCtrl_books, books_mk, books_eta, Iter.state_done, Iter.state_fmt, Iter.state_trap, Whole.state_ran, Whole.state_stopped, Whole.state_denied] | split | with_reducible refine (foldl_books _ ?_ _ _).trans ?_

@[simp] theorem State.resilverOver_books (s : State) : (State.resilverOver s).books = s.books := by
  unfold State.resilverOver
  repeat' first | with_reducible rfl | with_reducible assumption | intro _ | simp only [State.complete_books, State.resilverFails_books, books_mk, books_eta, Iter.state_done, Iter.state_fmt, Iter.state_trap, Whole.state_ran, Whole.state_stopped, Whole.state_denied] | split | with_reducible refine (foldl_books _ ?_ _ _).trans ?_

@[simp] theorem State.sendHeal_books (s : State) (x1 : _) : (State.sendHeal s x1).books = s.books := by
  unfold State.sendHeal
  repeat' first | with_reducible rfl | with_reducible assumption | intro _ | simp only [State.sendCtrl_books, books_mk, books_eta, Iter.state_done, Iter.state_fmt, Iter.state_trap, Whole.state_ran, Whole.state_stopped, Whole.state_denied] | split | with_reducible refine (foldl_books _ ?_ _ _).trans ?_

@[simp] theorem State.setHeal_books (s : State) (x1 : _) : (State.setHeal s x1).books = s.books := by
  unfold State.setHeal
  repeat' first | with_reducible rfl | with_reducible assumption | intro _ | simp only [books_mk, books_eta, Iter.state_done, Iter.state_fmt, Iter.state_trap, Whole.state_ran, Whole.state_stopped, Whole.state_denied] | split | with_reducible refine (foldl_books _ ?_ _ _).trans ?_

theorem execHealRequestTimeout_books {s t : State} (h : execHealRequestTimeout s = .next t) : t.books = s.books := by
  simp only [execHealRequestTimeout, Host.Outcome.next.injEq] at h
  subst h
  repeat' first | with_reducible rfl | with_reducible assumption | intro _ | simp only [State.sendHeal_books, books_mk, books_eta, Iter.state_done, Iter.state_fmt, Iter.state_trap, Whole.state_ran, Whole.state_stopped, Whole.state_denied] | split | with_reducible refine (foldl_books _ ?_ _ _).trans ?_

@[simp] theorem State.takeTransfer_books (s : State) (x1 : _) : (State.takeTransfer s x1).books = s.books := by
  unfold State.takeTransfer
  repeat' first | with_reducible rfl | with_reducible assumption | intro _ | simp only [State.takeInbox_books, books_mk, books_eta, Iter.state_done, Iter.state_fmt, Iter.state_trap, Whole.state_ran, Whole.state_stopped, Whole.state_denied] | split | with_reducible refine (foldl_books _ ?_ _ _).trans ?_

@[simp] theorem State.refuseHeal_books (s : State) (x1 : _) (x2 : _) (x3 : _) : (State.refuseHeal s x1 x2 x3).books = s.books := by
  unfold State.refuseHeal
  repeat' first | with_reducible rfl | with_reducible assumption | intro _ | simp only [State.sendCtrl_books, books_mk, books_eta, Iter.state_done, Iter.state_fmt, Iter.state_trap, Whole.state_ran, Whole.state_stopped, Whole.state_denied] | split | with_reducible refine (foldl_books _ ?_ _ _).trans ?_

theorem execResilver_books {s t : State} {x0 : Sys2Proof.Req} {x1 : Bool} (h : execResilver x0 x1 s = .next t) : t.books = s.books := by
  simp only [execResilver, Host.Outcome.next.injEq] at h
  subst h
  repeat' first | with_reducible rfl | with_reducible assumption | intro _ | simp only [State.fail_books, State.freshTx_books, State.sendMessage_books, books_mk, books_eta, Iter.state_done, Iter.state_fmt, Iter.state_trap, Whole.state_ran, Whole.state_stopped, Whole.state_denied] | split | with_reducible refine (foldl_books _ ?_ _ _).trans ?_

@[simp] theorem State.transferBad_books (s : State) : (State.transferBad s).books = s.books := by
  unfold State.transferBad
  repeat' first | with_reducible rfl | with_reducible assumption | intro _ | simp only [State.bump_books, State.resilverOver_books, books_mk, books_eta, Iter.state_done, Iter.state_fmt, Iter.state_trap, Whole.state_ran, Whole.state_stopped, Whole.state_denied] | split | with_reducible refine (foldl_books _ ?_ _ _).trans ?_

theorem execGranuleReceive_books {s t : State} {x0 : Sys2Proof.GranuleRef} {x1 : List Sys2Proof.Byte} (h : execGranuleReceive x0 x1 s = .next t) : t.books = s.books := by
  simp only [execGranuleReceive, Host.Outcome.next.injEq] at h
  subst h
  repeat' first | with_reducible rfl | with_reducible assumption | intro _ | simp only [State.stateWrite_books, State.takeTransfer_books, State.transferBad_books, books_mk, books_eta, Iter.state_done, Iter.state_fmt, Iter.state_trap, Whole.state_ran, Whole.state_stopped, Whole.state_denied] | split | with_reducible refine (foldl_books _ ?_ _ _).trans ?_

@[simp] theorem State.reserveKv_books (s : State) (x1 : _) : (State.reserveKv s x1).books = s.books := by
  unfold State.reserveKv
  repeat' first | with_reducible rfl | with_reducible assumption | intro _ | simp only [State.modCtx_books, books_mk, books_eta, Iter.state_done, Iter.state_fmt, Iter.state_trap, Whole.state_ran, Whole.state_stopped, Whole.state_denied] | split | with_reducible refine (foldl_books _ ?_ _ _).trans ?_

@[simp] theorem State.placeWrite_books (s : State) (x1 : _) (x2 : _) : (State.placeWrite s x1 x2).books = s.books := by
  unfold State.placeWrite
  repeat' first | with_reducible rfl | with_reducible assumption | intro _ | simp only [State.raise_books, State.wr_books, books_mk, books_eta, Iter.state_done, Iter.state_fmt, Iter.state_trap, Whole.state_ran, Whole.state_stopped, Whole.state_denied] | split | with_reducible refine (foldl_books _ ?_ _ _).trans ?_

theorem State.rangeRefuse_books {s t : State} {rq : Req} {b : Bool} (h : s.rangeRefuse rq b = some t) : t.books = s.books := by
  have g : ∀ (c : Prop) [Decidable c] (x y : Option State), (∀ u, x = some u → u.books = s.books) → (∀ u, y = some u → u.books = s.books) →
      ∀ u, (if c then x else y) = some u → u.books = s.books := by
    intro c _ x y hx hy u hu
    split at hu
    · exact hx u hu
    · exact hy u hu
  have f : ∀ x u : State, x.books = s.books → some x = some u → u.books = s.books := by
    intro x u hx hu
    cases hu
    exact hx
  revert h
  unfold State.rangeRefuse
  refine g _ _ _ (fun u => f _ u ?_) (fun u => ?_) t
  · simp only [State.refuseAt_books]
  · split
    · exact f _ u (by simp only [State.fail_books])
    · exact g _ _ _ (fun u => f _ u (by simp only [State.fail_books])) (fun u hu => by cases hu) u

@[simp] theorem State.putRange_books (s : State) (a : Nat) (l : List (Nat × Nat)) (b : List Byte) : (s.putRange a l b).books = s.books := by
  induction l generalizing s b with
  | nil => rfl
  | cons e t ih =>
    obtain ⟨o, n⟩ := e
    rw [State.putRange, ih, State.stateWrite_books]

theorem execLedgerQuery_books {s t : State} {x0 : Sys2Proof.Req} (h : execLedgerQuery x0 s = .next t) : t.books = s.books := by
  simp only [execLedgerQuery, Host.Outcome.next.injEq] at h
  subst h
  repeat' first | with_reducible rfl | with_reducible assumption | intro _ | simp only [State.answer_books, State.fail_books, books_mk, books_eta, Iter.state_done, Iter.state_fmt, Iter.state_trap, Whole.state_ran, Whole.state_stopped, Whole.state_denied] | split | with_reducible refine (foldl_books _ ?_ _ _).trans ?_

@[simp] theorem State.releaseStored_books (s : State) : (State.releaseStored s).books = s.books := by
  unfold State.releaseStored
  repeat' first | with_reducible rfl | with_reducible assumption | intro _ | simp only [books_mk, books_eta, Iter.state_done, Iter.state_fmt, Iter.state_trap, Whole.state_ran, Whole.state_stopped, Whole.state_denied] | split | with_reducible refine (foldl_books _ ?_ _ _).trans ?_

theorem execGateConfig_books {s t : State} {x0 : Sys2Proof.Req} {x1 : List Sys2Proof.Byte} (h : execGateConfig x0 x1 s = .next t) : t.books = s.books := by
  simp only [execGateConfig, Host.Outcome.next.injEq] at h
  subst h
  repeat' first | with_reducible rfl | with_reducible assumption | intro _ | simp only [State.modSched_books, State.ok_books, State.refuseAt_books, books_mk, books_eta, Iter.state_done, Iter.state_fmt, Iter.state_trap, Whole.state_ran, Whole.state_stopped, Whole.state_denied] | split | with_reducible refine (foldl_books _ ?_ _ _).trans ?_

@[simp] theorem State.setMeter_books (s : State) (x1 : _) (x2 : _) (x3 : _) (x4 : _) : (State.setMeter s x1 x2 x3 x4).books = s.books := by
  unfold State.setMeter
  repeat' first | with_reducible rfl | with_reducible assumption | intro _ | simp only [State.modSched_books, State.wr_books, books_mk, books_eta, Iter.state_done, Iter.state_fmt, Iter.state_trap, Whole.state_ran, Whole.state_stopped, Whole.state_denied] | split | with_reducible refine (foldl_books _ ?_ _ _).trans ?_

theorem execMeterConfig_books {s t : State} {x0 : Sys2Proof.Req} (h : execMeterConfig x0 s = .next t) : t.books = s.books := by
  simp only [execMeterConfig, Host.Outcome.next.injEq] at h
  subst h
  repeat' first | with_reducible rfl | with_reducible assumption | intro _ | simp only [State.ok_books, State.refuseAt_books, State.setMeter_books, books_mk, books_eta, Iter.state_done, Iter.state_fmt, Iter.state_trap, Whole.state_ran, Whole.state_stopped, Whole.state_denied] | split | with_reducible refine (foldl_books _ ?_ _ _).trans ?_

theorem execLogConfig_books {s t : State} {x0 : Sys2Proof.Req} {x1 : List Sys2Proof.Byte} (h : execLogConfig x0 x1 s = .next t) : t.books = s.books := by
  simp only [execLogConfig, Host.Outcome.next.injEq] at h
  subst h
  repeat' first | with_reducible rfl | with_reducible assumption | intro _ | simp only [State.fail_books, State.ok_books, State.raise_books, State.refuseAt_books, books_mk, books_eta, Iter.state_done, Iter.state_fmt, Iter.state_trap, Whole.state_ran, Whole.state_stopped, Whole.state_denied] | split | with_reducible refine (foldl_books _ ?_ _ _).trans ?_

@[simp] theorem State.startWipe_books (s : State) (x1 : _) : (State.startWipe s x1).books = s.books := by
  unfold State.startWipe
  repeat' first | with_reducible rfl | with_reducible assumption | intro _ | simp only [books_mk, books_eta, Iter.state_done, Iter.state_fmt, Iter.state_trap, Whole.state_ran, Whole.state_stopped, Whole.state_denied] | split | with_reducible refine (foldl_books _ ?_ _ _).trans ?_

theorem execWipe_books {s t : State} {x0 : Sys2Proof.Req} (h : execWipe x0 s = .next t) : t.books = s.books := by
  simp only [execWipe, Host.Outcome.next.injEq] at h
  subst h
  repeat' first | with_reducible rfl | with_reducible assumption | intro _ | simp only [State.fail_books, State.startWipe_books, books_mk, books_eta, Iter.state_done, Iter.state_fmt, Iter.state_trap, Whole.state_ran, Whole.state_stopped, Whole.state_denied] | split | with_reducible refine (foldl_books _ ?_ _ _).trans ?_

@[simp] theorem State.reportLinks_books (s : State) : (State.reportLinks s).books = s.books := by
  unfold State.reportLinks
  repeat' first | with_reducible rfl | with_reducible assumption | intro _ | simp only [State.linkChanged_books, State.notify_books, State.rebuildRoutes_books, books_mk, books_eta, Iter.state_done, Iter.state_fmt, Iter.state_trap, Whole.state_ran, Whole.state_stopped, Whole.state_denied] | split | with_reducible refine (foldl_books _ ?_ _ _).trans ?_ | with_reducible refine (foldlB_books _ ?_ _ _).trans ?_ | with_reducible refine (foldl1_books _ ?_ _ _).trans ?_ | with_reducible refine (foldl2_books _ ?_ _ _).trans ?_

@[simp] theorem State.endCharges_books (s : State) (x1 : _) : (State.endCharges s x1).books = s.books := by
  unfold State.endCharges
  repeat' first | with_reducible rfl | with_reducible assumption | intro _ | simp only [books_mk, books_eta, Iter.state_done, Iter.state_fmt, Iter.state_trap, Whole.state_ran, Whole.state_stopped, Whole.state_denied] | split | with_reducible refine (foldl_books _ ?_ _ _).trans ?_

@[simp] theorem State.sendControl_books (s : State) (x1 : _) (x2 : _) : (State.sendControl s x1 x2).books = s.books := by
  unfold State.sendControl
  repeat' first | with_reducible rfl | with_reducible assumption | intro _ | simp only [State.emit_books, books_mk, books_eta, Iter.state_done, Iter.state_fmt, Iter.state_trap, Whole.state_ran, Whole.state_stopped, Whole.state_denied] | split | with_reducible refine (foldl_books _ ?_ _ _).trans ?_

@[simp] theorem State.train_books (s : State) (x1 : _) : (State.train s x1).books = s.books := by
  unfold State.train
  repeat' first | with_reducible rfl | with_reducible assumption | intro _ | simp only [State.emit_books, State.modPort_books, State.sendControl_books, books_mk, books_eta, Iter.state_done, Iter.state_fmt, Iter.state_trap, Whole.state_ran, Whole.state_stopped, Whole.state_denied] | split | with_reducible refine (foldl_books _ ?_ _ _).trans ?_

@[simp] theorem State.retrain_books (s : State) (x1 : _) : (State.retrain s x1).books = s.books := by
  unfold State.retrain
  repeat' first | with_reducible rfl | with_reducible assumption | intro _ | simp only [State.modPort_books, State.train_books, books_mk, books_eta, Iter.state_done, Iter.state_fmt, Iter.state_trap, Whole.state_ran, Whole.state_stopped, Whole.state_denied] | split | with_reducible refine (foldl_books _ ?_ _ _).trans ?_

theorem execDataFrameReceive_books {s t : State} {x0 : Nat} {x1 : List Sys2Proof.Byte} (h : execDataFrameReceive x0 x1 s = .next t) : t.books = s.books := by
  simp only [execDataFrameReceive, Host.Outcome.next.injEq] at h
  subst h
  repeat' first | with_reducible rfl | with_reducible assumption | intro _ | simp only [State.bump_books, State.modPort_books, State.sendControl_books, books_mk, books_eta, Iter.state_done, Iter.state_fmt, Iter.state_trap, Whole.state_ran, Whole.state_stopped, Whole.state_denied] | split | with_reducible refine (foldl_books _ ?_ _ _).trans ?_

@[simp] theorem State.sendData_books (s : State) (x1 : _) (x2 : _) (x3 : _) : (State.sendData s x1 x2 x3).books = s.books := by
  unfold State.sendData
  repeat' first | with_reducible rfl | with_reducible assumption | intro _ | simp only [State.emit_books, State.modPort_books, books_mk, books_eta, Iter.state_done, Iter.state_fmt, Iter.state_trap, Whole.state_ran, Whole.state_stopped, Whole.state_denied] | split | with_reducible refine (foldl_books _ ?_ _ _).trans ?_

@[simp] theorem State.endsLate_books (s : State) (x1 : _) (x2 : _) (x3 : _) : (State.endsLate s x1 x2 x3).books = s.books := by
  unfold State.endsLate
  repeat' first | with_reducible rfl | with_reducible assumption | intro _ | simp only [State.bump_books, State.modSched_books, books_mk, books_eta, Iter.state_done, Iter.state_fmt, Iter.state_trap, Whole.state_ran, Whole.state_stopped, Whole.state_denied] | split | with_reducible refine (foldl_books _ ?_ _ _).trans ?_

@[simp] theorem State.resendFrame_books (s : State) (x1 : _) (x2 : _) : (State.resendFrame s x1 x2).books = s.books := by
  unfold State.resendFrame
  repeat' first | with_reducible rfl | with_reducible assumption | intro _ | simp only [State.endsLate_books, State.sendData_books, books_mk, books_eta, Iter.state_done, Iter.state_fmt, Iter.state_trap, Whole.state_ran, Whole.state_stopped, Whole.state_denied] | split | with_reducible refine (foldl_books _ ?_ _ _).trans ?_

@[simp] theorem State.startDegrade_books (s : State) (x1 : _) : (State.startDegrade s x1).books = s.books := by
  unfold State.startDegrade
  repeat' first | with_reducible rfl | with_reducible assumption | intro _ | simp only [State.modPort_books, State.sendControl_books, books_mk, books_eta, Iter.state_done, Iter.state_fmt, Iter.state_trap, Whole.state_ran, Whole.state_stopped, Whole.state_denied] | split | with_reducible refine (foldl_books _ ?_ _ _).trans ?_

theorem execPortUp_books {s t : State} {x0 : Nat} {x1 : Sys2Proof.PeerReport} (h : execPortUp x0 x1 s = .next t) : t.books = s.books := by
  simp only [execPortUp, Host.Outcome.next.injEq] at h
  subst h
  repeat' first | with_reducible rfl | with_reducible assumption | intro _ | simp only [State.bump_books, State.modPort_books, State.raise_books, State.reportLinks_books, books_mk, books_eta, Iter.state_done, Iter.state_fmt, Iter.state_trap, Whole.state_ran, Whole.state_stopped, Whole.state_denied] | split | with_reducible refine (foldl_books _ ?_ _ _).trans ?_

theorem execLinkTrainFail_books {s t : State} {x0 : Nat} (h : execLinkTrainFail x0 s = .next t) : t.books = s.books := by
  simp only [execLinkTrainFail, Host.Outcome.next.injEq] at h
  subst h
  repeat' first | with_reducible rfl | with_reducible assumption | intro _ | simp only [State.raise_books, books_mk, books_eta, Iter.state_done, Iter.state_fmt, Iter.state_trap, Whole.state_ran, Whole.state_stopped, Whole.state_denied] | split | with_reducible refine (foldl_books _ ?_ _ _).trans ?_

theorem execPortRetrainTimer_books {s t : State} {x0 : Nat} (h : execPortRetrainTimer x0 s = .next t) : t.books = s.books := by
  simp only [execPortRetrainTimer, Host.Outcome.next.injEq] at h
  subst h
  repeat' first | with_reducible rfl | with_reducible assumption | intro _ | simp only [State.retrain_books, books_mk, books_eta, Iter.state_done, Iter.state_fmt, Iter.state_trap, Whole.state_ran, Whole.state_stopped, Whole.state_denied] | split | with_reducible refine (foldl_books _ ?_ _ _).trans ?_

@[simp] theorem State.meterCell_books (s : State) (x1 : _) (x2 : _) : (State.meterCell s x1 x2).2.books = s.books := by
  unfold State.meterCell
  repeat' first | with_reducible rfl | with_reducible assumption | intro _ | simp only [State.bump_books, State.modSched_books, books_mk, books_eta, Iter.state_done, Iter.state_fmt, Iter.state_trap, Whole.state_ran, Whole.state_stopped, Whole.state_denied] | split | with_reducible refine (foldl_books _ ?_ _ _).trans ?_

theorem State.colourFate_books {s t : State} {p : Nat} {c : Cell} (h : s.colourFate p c = some t) : t.books = s.books := by
  simp only [State.colourFate] at h
  split at h
  · cases h; simp only [State.bump_books]
  · split at h
    · cases h; simp only [State.bump_books]
    · cases h

theorem execAdaptiveEgressChoice_books {s t : State} {x0 : Nat} (h : execAdaptiveEgressChoice x0 s = .next t) : t.books = s.books := by
  simp only [execAdaptiveEgressChoice, Host.Outcome.next.injEq] at h
  subst h
  repeat' first | with_reducible rfl | with_reducible assumption | intro _ | simp only [State.bump_books, State.countEgress_books, State.dropRef_books, State.enqueue_books, State.spill_books, books_mk, books_eta, Iter.state_done, Iter.state_fmt, Iter.state_trap, Whole.state_ran, Whole.state_stopped, Whole.state_denied] | split | with_reducible refine (foldl_books _ ?_ _ _).trans ?_

@[simp] theorem State.streamStep_books (s : State) (x1 : _) : (State.streamStep s x1).2.books = s.books := by
  unfold State.streamStep
  repeat' first | with_reducible rfl | with_reducible assumption | intro _ | simp only [State.draw_books, books_mk, books_eta, Iter.state_done, Iter.state_fmt, Iter.state_trap, Whole.state_ran, Whole.state_stopped, Whole.state_denied] | split | with_reducible refine (foldl_books _ ?_ _ _).trans ?_

@[simp] theorem State.ackStream_books (s : State) (x1 : _) : (State.ackStream s x1).books = s.books := by
  unfold State.ackStream
  repeat' first | with_reducible rfl | with_reducible assumption | intro _ | simp only [State.sendAck_books, State.streamStep_books, books_mk, books_eta, Iter.state_done, Iter.state_fmt, Iter.state_trap, Whole.state_ran, Whole.state_stopped, Whole.state_denied] | split | with_reducible refine (foldl_books _ ?_ _ _).trans ?_

@[simp] theorem State.replayCell_books (s : State) (x1 : _) (x2 : _) : (State.replayCell s x1 x2).books = s.books := by
  unfold State.replayCell
  repeat' first | with_reducible rfl | with_reducible assumption | intro _ | simp only [State.bump_books, State.output_books, State.spill_books, books_mk, books_eta, Iter.state_done, Iter.state_fmt, Iter.state_trap, Whole.state_ran, Whole.state_stopped, Whole.state_denied] | split | with_reducible refine (foldl_books _ ?_ _ _).trans ?_

@[simp] theorem State.gateCtl_books (s : State) (x1 : _) (x2 : _) : (State.gateCtl s x1 x2).books = s.books := by
  unfold State.gateCtl
  repeat' first | with_reducible rfl | with_reducible assumption | intro _ | simp only [State.modSched_books, State.raise_books, State.wr_books, books_mk, books_eta, Iter.state_done, Iter.state_fmt, Iter.state_trap, Whole.state_ran, Whole.state_stopped, Whole.state_denied] | split | with_reducible refine (foldl_books _ ?_ _ _).trans ?_

theorem execGateCtlWrite_books {s t : State} {x0 : Nat} {x1 : Sys2Proof.Word} (h : execGateCtlWrite x0 x1 s = .next t) : t.books = s.books := by
  simp only [execGateCtlWrite, Host.Outcome.next.injEq] at h
  subst h
  repeat' first | with_reducible rfl | with_reducible assumption | intro _ | simp only [State.gateCtl_books, books_mk, books_eta, Iter.state_done, Iter.state_fmt, Iter.state_trap, Whole.state_ran, Whole.state_stopped, Whole.state_denied] | split | with_reducible refine (foldl_books _ ?_ _ _).trans ?_

theorem execGateListActivate_books {s t : State} {x0 : Nat} (h : execGateListActivate x0 s = .next t) : t.books = s.books := by
  simp only [execGateListActivate, Host.Outcome.next.injEq] at h
  subst h
  repeat' first | with_reducible rfl | with_reducible assumption | intro _ | simp only [State.modSched_books, State.wr_books, books_mk, books_eta, Iter.state_done, Iter.state_fmt, Iter.state_trap, Whole.state_ran, Whole.state_stopped, Whole.state_denied] | split | with_reducible refine (foldl_books _ ?_ _ _).trans ?_

theorem execGateEntryBoundary_books {s t : State} {x0 : Nat} (h : execGateEntryBoundary x0 s = .next t) : t.books = s.books := by
  simp only [execGateEntryBoundary, Host.Outcome.next.injEq] at h
  subst h
  repeat' first | with_reducible rfl | with_reducible assumption | intro _ | simp only [State.modSched_books, books_mk, books_eta, Iter.state_done, Iter.state_fmt, Iter.state_trap, Whole.state_ran, Whole.state_stopped, Whole.state_denied] | split | with_reducible refine (foldl_books _ ?_ _ _).trans ?_

@[simp] theorem State.chargeSelect_books (s : State) (x1 : _) (x2 : _) (x3 : _) : (State.chargeSelect s x1 x2 x3).books = s.books := by
  unfold State.chargeSelect
  repeat' first | with_reducible rfl | with_reducible assumption | intro _ | simp only [State.modSched_books, books_mk, books_eta, Iter.state_done, Iter.state_fmt, Iter.state_trap, Whole.state_ran, Whole.state_stopped, Whole.state_denied] | split | with_reducible refine (foldl_books _ ?_ _ _).trans ?_

@[simp] theorem State.selectAux_books (s : State) (x0 : _) (x1 : _) : (State.selectAux x0 x1 s).books = s.books := by
  induction x1 generalizing s with
  | zero => unfold State.selectAux; repeat' first | with_reducible rfl | with_reducible assumption | intro _ | simp only [State.bump_books, State.chargeSelect_books, State.dropRef_books, State.modPort_books, State.select_books, State.setQueue_books, State.tookCopy_books, books_mk, books_eta, Iter.state_done, Iter.state_fmt, Iter.state_trap, Whole.state_ran, Whole.state_stopped, Whole.state_denied] | split | with_reducible refine (foldl_books _ ?_ _ _).trans ?_
  | succ n ih =>
    unfold State.selectAux
    repeat' first | with_reducible rfl | with_reducible assumption | intro _ | simp only [ih, State.bump_books, State.chargeSelect_books, State.dropRef_books, State.modPort_books, State.select_books, State.setQueue_books, State.tookCopy_books, books_mk, books_eta, Iter.state_done, Iter.state_fmt, Iter.state_trap, Whole.state_ran, Whole.state_stopped, Whole.state_denied] | split | with_reducible refine (foldl_books _ ?_ _ _).trans ?_

@[simp] theorem State.holdMisfits_books (s : State) (x1 : _) : (State.holdMisfits s x1).books = s.books := by
  unfold State.holdMisfits
  repeat' first | with_reducible rfl | with_reducible assumption | intro _ | simp only [State.modSched_books, books_mk, books_eta, Iter.state_done, Iter.state_fmt, Iter.state_trap, Whole.state_ran, Whole.state_stopped, Whole.state_denied] | split | with_reducible refine (foldl_books _ ?_ _ _).trans ?_

theorem execSchedulerSelect_books {s t : State} {x0 : Nat} (h : execSchedulerSelect x0 s = .next t) : t.books = s.books := by
  simp only [execSchedulerSelect, Host.Outcome.next.injEq] at h
  subst h
  repeat' first | with_reducible rfl | with_reducible assumption | intro _ | simp only [State.admitBlocked_books, State.holdMisfits_books, State.selectAux_books, books_mk, books_eta, Iter.state_done, Iter.state_fmt, Iter.state_trap, Whole.state_ran, Whole.state_stopped, Whole.state_denied] | split | with_reducible refine (foldl_books _ ?_ _ _).trans ?_

theorem execRateWheelWake_books {s t : State} {x0 : Nat} {x1 : Nat} (h : execRateWheelWake x0 x1 s = .next t) : t.books = s.books := by
  simp only [execRateWheelWake, Host.Outcome.next.injEq] at h
  subst h
  repeat' first | with_reducible rfl | with_reducible assumption | intro _ | simp only [State.modSched_books, books_mk, books_eta, Iter.state_done, Iter.state_fmt, Iter.state_trap, Whole.state_ran, Whole.state_stopped, Whole.state_denied] | split | with_reducible refine (foldl_books _ ?_ _ _).trans ?_

theorem execCellTransmit_books {s t : State} {x0 : Nat} {x1 : Nat} (h : execCellTransmit x0 x1 s = .next t) : t.books = s.books := by
  simp only [execCellTransmit, Host.Outcome.next.injEq] at h
  subst h
  repeat' first | with_reducible rfl | with_reducible assumption | intro _ | simp only [State.admitBlocked_books, State.dropRef_books, State.endsLate_books, State.modPort_books, State.modSched_books, State.sendData_books, State.setWindow_books, books_mk, books_eta, Iter.state_done, Iter.state_fmt, Iter.state_trap, Whole.state_ran, Whole.state_stopped, Whole.state_denied] | split | with_reducible refine (foldl_books _ ?_ _ _).trans ?_

@[simp] theorem State.wipeCells_books (s : State) : (State.wipeCells s).books = s.books := by
  unfold State.wipeCells
  repeat' first | with_reducible rfl | with_reducible assumption | intro _ | simp only [State.returnCredit_books, books_mk, books_eta, Iter.state_done, Iter.state_fmt, Iter.state_trap, Whole.state_ran, Whole.state_stopped, Whole.state_denied] | split | with_reducible refine (foldl_books _ ?_ _ _).trans ?_ | with_reducible refine (foldlB_books _ ?_ _ _).trans ?_ | with_reducible refine (foldl1_books _ ?_ _ _).trans ?_ | with_reducible refine (foldl2_books _ ?_ _ _).trans ?_

@[simp] theorem State.emptyStreams_books (s : State) : (State.emptyStreams s).books = s.books := by
  unfold State.emptyStreams
  repeat' first | with_reducible rfl | with_reducible assumption | intro _ | simp only [books_mk, books_eta, Iter.state_done, Iter.state_fmt, Iter.state_trap, Whole.state_ran, Whole.state_stopped, Whole.state_denied] | split | with_reducible refine (foldl_books _ ?_ _ _).trans ?_

@[simp] theorem State.authFail_books (s : State) (x1 : _) (x2 : _) : (State.authFail s x1 x2).books = s.books := by
  unfold State.authFail
  repeat' first | with_reducible rfl | with_reducible assumption | intro _ | simp only [State.bump_books, State.fail_books, State.raise_books, books_mk, books_eta, Iter.state_done, Iter.state_fmt, Iter.state_trap, Whole.state_ran, Whole.state_stopped, Whole.state_denied] | split | with_reducible refine (foldl_books _ ?_ _ _).trans ?_

@[simp] theorem State.burnConfig_books (s : State) (x1 : _) (x2 : _) : (State.burnConfig s x1 x2).1.books = s.books := by
  unfold State.burnConfig
  repeat' first | with_reducible rfl | with_reducible assumption | intro _ | simp only [books_mk, books_eta, Iter.state_done, Iter.state_fmt, Iter.state_trap, Whole.state_ran, Whole.state_stopped, Whole.state_denied] | split | with_reducible refine (foldl_books _ ?_ _ _).trans ?_

@[simp] theorem State.burnFail_books (s : State) (x1 : _) (x2 : _) : (State.burnFail s x1 x2).books = s.books := by
  unfold State.burnFail
  repeat' first | with_reducible rfl | with_reducible assumption | intro _ | simp only [State.fail_books, State.raise_books, books_mk, books_eta, Iter.state_done, Iter.state_fmt, Iter.state_trap, Whole.state_ran, Whole.state_stopped, Whole.state_denied] | split | with_reducible refine (foldl_books _ ?_ _ _).trans ?_

@[simp] theorem State.beforeBurn_books (s : State) (x1 : _) (x2 : _) (x3 : _) : (State.beforeBurn s x1 x2 x3).1.books = s.books := by
  unfold State.beforeBurn
  repeat' first | with_reducible rfl | with_reducible assumption | intro _ | simp only [State.burnConfig_books, State.draw_books, books_mk, books_eta, Iter.state_done, Iter.state_fmt, Iter.state_trap, Whole.state_ran, Whole.state_stopped, Whole.state_denied] | split | with_reducible refine (foldl_books _ ?_ _ _).trans ?_

@[simp] theorem State.afterBurn_books (s : State) (x1 : _) : (State.afterBurn s x1).books = s.books := by
  unfold State.afterBurn
  repeat' first | with_reducible rfl | with_reducible assumption | intro _ | simp only [books_mk, books_eta, Iter.state_done, Iter.state_fmt, Iter.state_trap, Whole.state_ran, Whole.state_stopped, Whole.state_denied] | split | with_reducible refine (foldl_books _ ?_ _ _).trans ?_

theorem execAttest_books {s t : State} {x0 : Sys2Proof.Req} (h : execAttest x0 s = .next t) : t.books = s.books := by
  simp only [execAttest, Host.Outcome.next.injEq] at h
  subst h
  repeat' first | with_reducible rfl | with_reducible assumption | intro _ | simp only [State.answer_books, State.draw_books, State.fail_books, books_mk, books_eta, Iter.state_done, Iter.state_fmt, Iter.state_trap, Whole.state_ran, Whole.state_stopped, Whole.state_denied] | split | with_reducible refine (foldl_books _ ?_ _ _).trans ?_

@[simp] theorem State.fwRestart_books (s : State) (x1 : _) : (State.fwRestart s x1).books = s.books := by
  unfold State.fwRestart
  repeat' first | with_reducible rfl | with_reducible assumption | intro _ | simp only [State.bump_books, books_mk, books_eta, Iter.state_done, Iter.state_fmt, Iter.state_trap, Whole.state_ran, Whole.state_stopped, Whole.state_denied] | split | with_reducible refine (foldl_books _ ?_ _ _).trans ?_

theorem execWatchdogExpire_books {s t : State} {x0 : Sys2Proof.Byte} (h : execWatchdogExpire x0 s = .next t) : t.books = s.books := by
  simp only [execWatchdogExpire, Host.Outcome.next.injEq] at h
  subst h
  repeat' first | with_reducible rfl | with_reducible assumption | intro _ | simp only [State.fwRestart_books, State.raise_books, State.trace_books, books_mk, books_eta, Iter.state_done, Iter.state_fmt, Iter.state_trap, Whole.state_ran, Whole.state_stopped, Whole.state_denied] | split | with_reducible refine (foldl_books _ ?_ _ _).trans ?_

@[simp] theorem State.fwCtl_books (s : State) (x1 : _) : (State.fwCtl s x1).books = s.books := by
  unfold State.fwCtl
  repeat' first | with_reducible rfl | with_reducible assumption | intro _ | simp only [State.fwRestart_books, books_mk, books_eta, Iter.state_done, Iter.state_fmt, Iter.state_trap, Whole.state_ran, Whole.state_stopped, Whole.state_denied] | split | with_reducible refine (foldl_books _ ?_ _ _).trans ?_

theorem execFwCtlRestart_books {s t : State} {x0 : Sys2Proof.Word} (h : execFwCtlRestart x0 s = .next t) : t.books = s.books := by
  simp only [execFwCtlRestart, Host.Outcome.next.injEq] at h
  subst h
  repeat' first | with_reducible rfl | with_reducible assumption | intro _ | simp only [State.fwCtl_books, books_mk, books_eta, Iter.state_done, Iter.state_fmt, Iter.state_trap, Whole.state_ran, Whole.state_stopped, Whole.state_denied] | split | with_reducible refine (foldl_books _ ?_ _ _).trans ?_

@[simp] theorem State.traceStart_books (s : State) (x1 : _) (x2 : _) : (State.traceStart s x1 x2).books = s.books := by
  unfold State.traceStart
  repeat' first | with_reducible rfl | with_reducible assumption | intro _ | simp only [State.trace_books, books_mk, books_eta, Iter.state_done, Iter.state_fmt, Iter.state_trap, Whole.state_ran, Whole.state_stopped, Whole.state_denied] | split | with_reducible refine (foldl_books _ ?_ _ _).trans ?_

@[simp] theorem State.dropWipe_books (s : State) : (State.dropWipe s).books = s.books := by
  unfold State.dropWipe
  repeat' first | with_reducible rfl | with_reducible assumption | intro _ | simp only [State.draw_books, State.memClear_books, books_mk, books_eta, Iter.state_done, Iter.state_fmt, Iter.state_trap, Whole.state_ran, Whole.state_stopped, Whole.state_denied] | split | with_reducible refine (foldl_books _ ?_ _ _).trans ?_

@[simp] theorem State.stagePassed_books (s : State) (x1 : _) : (State.stagePassed s x1).books = s.books := by
  unfold State.stagePassed
  repeat' first | with_reducible rfl | with_reducible assumption | intro _ | simp only [State.trace_books, books_mk, books_eta, Iter.state_done, Iter.state_fmt, Iter.state_trap, Whole.state_ran, Whole.state_stopped, Whole.state_denied] | split | with_reducible refine (foldl_books _ ?_ _ _).trans ?_

@[simp] theorem State.stageFailed_books (s : State) (x1 : _) : (State.stageFailed s x1).books = s.books := by
  unfold State.stageFailed
  repeat' first | with_reducible rfl | with_reducible assumption | intro _ | simp only [State.draw_books, State.trace_books, books_mk, books_eta, Iter.state_done, Iter.state_fmt, Iter.state_trap, Whole.state_ran, Whole.state_stopped, Whole.state_denied] | split | with_reducible refine (foldl_books _ ?_ _ _).trans ?_

@[simp] theorem State.beginWrite_books (s : State) (x1 : _) : (State.beginWrite s x1).books = s.books := by
  unfold State.beginWrite
  repeat' first | with_reducible rfl | with_reducible assumption | intro _ | simp only [State.stagePassed_books, books_mk, books_eta, Iter.state_done, Iter.state_fmt, Iter.state_trap, Whole.state_ran, Whole.state_stopped, Whole.state_denied] | split | with_reducible refine (foldl_books _ ?_ _ _).trans ?_

theorem execFwUpdate_books {s t : State} {x0 : Sys2Proof.Req} {x1 : List Sys2Proof.Byte} {x2 : Sys2Proof.SigAnswer} (h : execFwUpdate x0 x1 x2 s = .next t) : t.books = s.books := by
  simp only [execFwUpdate, Host.Outcome.next.injEq] at h
  subst h
  repeat' first | with_reducible rfl | with_reducible assumption | intro _ | simp only [State.authFail_books, State.beginWrite_books, State.fail_books, State.stageFailed_books, State.stagePassed_books, books_mk, books_eta, Iter.state_done, Iter.state_fmt, Iter.state_trap, Whole.state_ran, Whole.state_stopped, Whole.state_denied] | split | with_reducible refine (foldl_books _ ?_ _ _).trans ?_

theorem execFwImageWritten_books {s t : State} (h : execFwImageWritten s = .next t) : t.books = s.books := by
  simp only [execFwImageWritten, Host.Outcome.next.injEq] at h
  subst h
  repeat' first | with_reducible rfl | with_reducible assumption | intro _ | simp only [State.beginWrite_books, State.stagePassed_books, books_mk, books_eta, Iter.state_done, Iter.state_fmt, Iter.state_trap, Whole.state_ran, Whole.state_stopped, Whole.state_denied] | split | with_reducible refine (foldl_books _ ?_ _ _).trans ?_

theorem execUpdateWaitTimeout_books {s t : State} (h : execUpdateWaitTimeout s = .next t) : t.books = s.books := by
  simp only [execUpdateWaitTimeout, Host.Outcome.next.injEq] at h
  subst h
  repeat' first | with_reducible rfl | with_reducible assumption | intro _ | simp only [State.fail_books, State.stageFailed_books, books_mk, books_eta, Iter.state_done, Iter.state_fmt, Iter.state_trap, Whole.state_ran, Whole.state_stopped, Whole.state_denied] | split | with_reducible refine (foldl_books _ ?_ _ _).trans ?_

@[simp] theorem State.takeOver_books (s : State) (x1 : _) : (State.takeOver s x1).books = s.books := by
  unfold State.takeOver
  repeat' first | with_reducible rfl | with_reducible assumption | intro _ | simp only [State.ok_books, State.stagePassed_books, State.traceStart_books, books_mk, books_eta, Iter.state_done, Iter.state_fmt, Iter.state_trap, Whole.state_ran, Whole.state_stopped, Whole.state_denied] | split | with_reducible refine (foldl_books _ ?_ _ _).trans ?_

@[simp] theorem State.writeHandoff_books (s : State) : (State.writeHandoff s).books = s.books := by
  unfold State.writeHandoff
  repeat' first | with_reducible rfl | with_reducible assumption | intro _ | simp only [State.memWrite_books, books_mk, books_eta, Iter.state_done, Iter.state_fmt, Iter.state_trap, Whole.state_ran, Whole.state_stopped, Whole.state_denied] | split | with_reducible refine (foldl_books _ ?_ _ _).trans ?_

theorem execFwHandoff_books {s t : State} {x0 : Bool} (h : execFwHandoff x0 s = .next t) : t.books = s.books := by
  simp only [execFwHandoff, Host.Outcome.next.injEq] at h
  subst h
  repeat' first | with_reducible rfl | with_reducible assumption | intro _ | simp only [State.fail_books, State.stageFailed_books, State.stagePassed_books, State.takeOver_books, State.writeHandoff_books, books_mk, books_eta, Iter.state_done, Iter.state_fmt, Iter.state_trap, Whole.state_ran, Whole.state_stopped, Whole.state_denied] | split | with_reducible refine (foldl_books _ ?_ _ _).trans ?_

@[simp] theorem State.leaveLockstep_books (s : State) (x1 : _) : (State.leaveLockstep s x1).books = s.books := by
  unfold State.leaveLockstep
  repeat' first | with_reducible rfl | with_reducible assumption | intro _ | simp only [State.bump_books, State.raise_books, books_mk, books_eta, Iter.state_done, Iter.state_fmt, Iter.state_trap, Whole.state_ran, Whole.state_stopped, Whole.state_denied] | split | with_reducible refine (foldl_books _ ?_ _ _).trans ?_

@[simp] theorem State.modeWrite_books (s : State) (x1 : _) : (State.modeWrite s x1).books = s.books := by
  unfold State.modeWrite
  repeat' first | with_reducible rfl | with_reducible assumption | intro _ | simp only [State.leaveLockstep_books, books_mk, books_eta, Iter.state_done, Iter.state_fmt, Iter.state_trap, Whole.state_ran, Whole.state_stopped, Whole.state_denied] | split | with_reducible refine (foldl_books _ ?_ _ _).trans ?_

theorem execLockstepRequest_books {s t : State} {x0 : Sys2Proof.Word} (h : execLockstepRequest x0 s = .next t) : t.books = s.books := by
  simp only [execLockstepRequest, Host.Outcome.next.injEq] at h
  subst h
  repeat' first | with_reducible rfl | with_reducible assumption | intro _ | simp only [State.modeWrite_books, books_mk, books_eta, Iter.state_done, Iter.state_fmt, Iter.state_trap, Whole.state_ran, Whole.state_stopped, Whole.state_denied] | split | with_reducible refine (foldl_books _ ?_ _ _).trans ?_

theorem execLockstepEnter_books {s t : State} (h : execLockstepEnter s = .next t) : t.books = s.books := by
  simp only [execLockstepEnter, Host.Outcome.next.injEq] at h
  subst h
  repeat' first | with_reducible rfl | with_reducible assumption | intro _ | simp only [State.raise_books, books_mk, books_eta, Iter.state_done, Iter.state_fmt, Iter.state_trap, Whole.state_ran, Whole.state_stopped, Whole.state_denied] | split | with_reducible refine (foldl_books _ ?_ _ _).trans ?_

theorem execClkLockLost_books {s t : State} {x0 : BitVec 3} (h : execClkLockLost x0 s = .next t) : t.books = s.books := by
  simp only [execClkLockLost, Host.Outcome.next.injEq] at h
  subst h
  repeat' first | with_reducible rfl | with_reducible assumption | intro _ | simp only [State.leaveLockstep_books, State.raise_books, books_mk, books_eta, Iter.state_done, Iter.state_fmt, Iter.state_trap, Whole.state_ran, Whole.state_stopped, Whole.state_denied] | split | with_reducible refine (foldl_books _ ?_ _ _).trans ?_

@[simp] theorem State.refclkBack_books (s : State) (x1 : _) : (State.refclkBack s x1).books = s.books := by
  unfold State.refclkBack
  repeat' first | with_reducible rfl | with_reducible assumption | intro _ | simp only [State.modPort_books, State.retrain_books, books_mk, books_eta, Iter.state_done, Iter.state_fmt, Iter.state_trap, Whole.state_ran, Whole.state_stopped, Whole.state_denied] | split | with_reducible refine (foldl_books _ ?_ _ _).trans ?_

theorem execLinkRefclkRestored_books {s t : State} {x0 : Nat} (h : execLinkRefclkRestored x0 s = .next t) : t.books = s.books := by
  simp only [execLinkRefclkRestored, Host.Outcome.next.injEq] at h
  subst h
  repeat' first | with_reducible rfl | with_reducible assumption | intro _ | simp only [State.refclkBack_books, books_mk, books_eta, Iter.state_done, Iter.state_fmt, Iter.state_trap, Whole.state_ran, Whole.state_stopped, Whole.state_denied] | split | with_reducible refine (foldl_books _ ?_ _ _).trans ?_ | with_reducible refine (foldlB_books _ ?_ _ _).trans ?_ | with_reducible refine (foldl1_books _ ?_ _ _).trans ?_ | with_reducible refine (foldl2_books _ ?_ _ _).trans ?_

theorem execXtalLost_books {s t : State} (h : execXtalLost s = .next t) : t.books = s.books := by
  simp only [execXtalLost, Host.Outcome.next.injEq] at h
  subst h
  repeat' first | with_reducible rfl | with_reducible assumption | intro _ | simp only [State.raise_books, books_mk, books_eta, Iter.state_done, Iter.state_fmt, Iter.state_trap, Whole.state_ran, Whole.state_stopped, Whole.state_denied] | split | with_reducible refine (foldl_books _ ?_ _ _).trans ?_

@[simp] theorem State.dropUci_books (s : State) : (State.dropUci s).books = s.books := by
  unfold State.dropUci
  repeat' first | with_reducible rfl | with_reducible assumption | intro _ | simp only [books_mk, books_eta, Iter.state_done, Iter.state_fmt, Iter.state_trap, Whole.state_ran, Whole.state_stopped, Whole.state_denied] | split | with_reducible refine (foldl_books _ ?_ _ _).trans ?_

@[simp] theorem State.setUci_books (s : State) (x1 : _) (x2 : _) : (State.setUci s x1 x2).books = s.books := by
  unfold State.setUci
  repeat' first | with_reducible rfl | with_reducible assumption | intro _ | simp only [State.raise_books, books_mk, books_eta, Iter.state_done, Iter.state_fmt, Iter.state_trap, Whole.state_ran, Whole.state_stopped, Whole.state_denied] | split | with_reducible refine (foldl_books _ ?_ _ _).trans ?_

theorem execUciDegraded_books {s t : State} {x0 : Bool} (h : execUciDegraded x0 s = .next t) : t.books = s.books := by
  simp only [execUciDegraded, Host.Outcome.next.injEq] at h
  subst h
  repeat' first | with_reducible rfl | with_reducible assumption | intro _ | simp only [State.setUci_books, books_mk, books_eta, Iter.state_done, Iter.state_fmt, Iter.state_trap, Whole.state_ran, Whole.state_stopped, Whole.state_denied] | split | with_reducible refine (foldl_books _ ?_ _ _).trans ?_

theorem execThermWarn_books {s t : State} {x0 : Sys2Proof.Byte} (h : execThermWarn x0 s = .next t) : t.books = s.books := by
  simp only [execThermWarn, Host.Outcome.next.injEq] at h
  subst h
  repeat' first | with_reducible rfl | with_reducible assumption | intro _ | simp only [State.raise_books, books_mk, books_eta, Iter.state_done, Iter.state_fmt, Iter.state_trap, Whole.state_ran, Whole.state_stopped, Whole.state_denied] | split | with_reducible refine (foldl_books _ ?_ _ _).trans ?_

theorem execThermWarnClear_books {s t : State} {x0 : Sys2Proof.Byte} (h : execThermWarnClear x0 s = .next t) : t.books = s.books := by
  simp only [execThermWarnClear, Host.Outcome.next.injEq] at h
  subst h
  repeat' first | with_reducible rfl | with_reducible assumption | intro _ | simp only [books_mk, books_eta, Iter.state_done, Iter.state_fmt, Iter.state_trap, Whole.state_ran, Whole.state_stopped, Whole.state_denied] | split | with_reducible refine (foldl_books _ ?_ _ _).trans ?_

theorem execVinHigh_books {s t : State} {x0 : BitVec 16} (h : execVinHigh x0 s = .next t) : t.books = s.books := by
  simp only [execVinHigh, Host.Outcome.next.injEq] at h
  subst h
  repeat' first | with_reducible rfl | with_reducible assumption | intro _ | simp only [State.raise_books, books_mk, books_eta, Iter.state_done, Iter.state_fmt, Iter.state_trap, Whole.state_ran, Whole.state_stopped, Whole.state_denied] | split | with_reducible refine (foldl_books _ ?_ _ _).trans ?_

@[simp] theorem State.tearSave_books (s : State) : (State.tearSave s).books = s.books := by
  unfold State.tearSave
  repeat' first | with_reducible rfl | with_reducible assumption | intro _ | simp only [State.draw_books, books_mk, books_eta, Iter.state_done, Iter.state_fmt, Iter.state_trap, Whole.state_ran, Whole.state_stopped, Whole.state_denied] | split | with_reducible refine (foldl_books _ ?_ _ _).trans ?_

@[simp] theorem State.readSaves_books (s : State) : (State.readSaves s).books = s.books := by
  unfold State.readSaves
  repeat' first | with_reducible rfl | with_reducible assumption | intro _ | simp only [State.raise_books, books_mk, books_eta, Iter.state_done, Iter.state_fmt, Iter.state_trap, Whole.state_ran, Whole.state_stopped, Whole.state_denied] | split | with_reducible refine (foldl_books _ ?_ _ _).trans ?_

@[simp] theorem State.trip_books (s : State) : (State.trip s).books = s.books := by
  unfold State.trip
  repeat' first | with_reducible rfl | with_reducible assumption | intro _ | simp only [State.dropUci_books, books_mk, books_eta, Iter.state_done, Iter.state_fmt, Iter.state_trap, Whole.state_ran, Whole.state_stopped, Whole.state_denied] | split | with_reducible refine (foldl_books _ ?_ _ _).trans ?_

@[simp] theorem State.tripOff_books (s : State) : (State.tripOff s).books = s.books := by
  unfold State.tripOff
  repeat' first | with_reducible rfl | with_reducible assumption | intro _ | simp only [State.bump_books, books_mk, books_eta, Iter.state_done, Iter.state_fmt, Iter.state_trap, Whole.state_ran, Whole.state_stopped, Whole.state_denied] | split | with_reducible refine (foldl_books _ ?_ _ _).trans ?_

theorem execSupplyTrip_books {s t : State} (h : execSupplyTrip s = .next t) : t.books = s.books := by
  simp only [execSupplyTrip, Host.Outcome.next.injEq] at h
  subst h
  repeat' first | with_reducible rfl | with_reducible assumption | intro _ | simp only [State.trip_books, State.tripOff_books, books_mk, books_eta, Iter.state_done, Iter.state_fmt, Iter.state_trap, Whole.state_ran, Whole.state_stopped, Whole.state_denied] | split | with_reducible refine (foldl_books _ ?_ _ _).trans ?_

theorem execThermalTrip_books {s t : State} {x0 : Bool} (h : execThermalTrip x0 s = .next t) : t.books = s.books := by
  simp only [execThermalTrip, Host.Outcome.next.injEq] at h
  subst h
  repeat' first | with_reducible rfl | with_reducible assumption | intro _ | simp only [State.bump_books, State.raise_books, State.trip_books, State.tripOff_books, books_mk, books_eta, Iter.state_done, Iter.state_fmt, Iter.state_trap, Whole.state_ran, Whole.state_stopped, Whole.state_denied] | split | with_reducible refine (foldl_books _ ?_ _ _).trans ?_

theorem execMoonstoneSaveDone_books {s t : State} (h : execMoonstoneSaveDone s = .next t) : t.books = s.books := by
  simp only [execMoonstoneSaveDone, Host.Outcome.next.injEq] at h
  subst h
  repeat' first | with_reducible rfl | with_reducible assumption | intro _ | simp only [State.bump_books, books_mk, books_eta, Iter.state_done, Iter.state_fmt, Iter.state_trap, Whole.state_ran, Whole.state_stopped, Whole.state_denied] | split | with_reducible refine (foldl_books _ ?_ _ _).trans ?_

theorem execPwrEnLow_books {s t : State} (h : execPwrEnLow s = .next t) : t.books = s.books := by
  simp only [execPwrEnLow, Host.Outcome.next.injEq] at h
  subst h
  repeat' first | with_reducible rfl | with_reducible assumption | intro _ | simp only [State.dropUci_books, books_mk, books_eta, Iter.state_done, Iter.state_fmt, Iter.state_trap, Whole.state_ran, Whole.state_stopped, Whole.state_denied] | split | with_reducible refine (foldl_books _ ?_ _ _).trans ?_

theorem execInputFuseOpen_books {s t : State} (h : execInputFuseOpen s = .next t) : t.books = s.books := by
  simp only [execInputFuseOpen, Host.Outcome.next.injEq] at h
  subst h
  repeat' first | with_reducible rfl | with_reducible assumption | intro _ | simp only [State.dropUci_books, State.tearSave_books, books_mk, books_eta, Iter.state_done, Iter.state_fmt, Iter.state_trap, Whole.state_ran, Whole.state_stopped, Whole.state_denied] | split | with_reducible refine (foldl_books _ ?_ _ _).trans ?_

@[simp] theorem State.stageTo_books (s : State) (x1 : _) : (State.stageTo s x1).books = s.books := by
  unfold State.stageTo
  repeat' first | with_reducible rfl | with_reducible assumption | intro _ | simp only [books_mk, books_eta, Iter.state_done, Iter.state_fmt, Iter.state_trap, Whole.state_ran, Whole.state_stopped, Whole.state_denied] | split | with_reducible refine (foldl_books _ ?_ _ _).trans ?_

@[simp] theorem State.bringUpFails_books (s : State) (x1 : _) : (State.bringUpFails s x1).books = s.books := by
  unfold State.bringUpFails
  repeat' first | with_reducible rfl | with_reducible assumption | intro _ | simp only [State.setUci_books, books_mk, books_eta, Iter.state_done, Iter.state_fmt, Iter.state_trap, Whole.state_ran, Whole.state_stopped, Whole.state_denied] | split | with_reducible refine (foldl_books _ ?_ _ _).trans ?_

@[simp] theorem State.stageAon_books (s : State) (x1 : _) : (State.stageAon s x1).books = s.books := by
  unfold State.stageAon
  repeat' first | with_reducible rfl | with_reducible assumption | intro _ | simp only [State.bringUpFails_books, State.raise_books, State.stageTo_books, books_mk, books_eta, Iter.state_done, Iter.state_fmt, Iter.state_trap, Whole.state_ran, Whole.state_stopped, Whole.state_denied] | split | with_reducible refine (foldl_books _ ?_ _ _).trans ?_

@[simp] theorem State.stageAlign_books (s : State) (x1 : _) : (State.stageAlign s x1).books = s.books := by
  unfold State.stageAlign
  repeat' first | with_reducible rfl | with_reducible assumption | intro _ | simp only [State.stageTo_books, books_mk, books_eta, Iter.state_done, Iter.state_fmt, Iter.state_trap, Whole.state_ran, Whole.state_stopped, Whole.state_denied] | split | with_reducible refine (foldl_books _ ?_ _ _).trans ?_

@[simp] theorem State.startFw_books (s : State) (x1 : _) : (State.startFw s x1).books = s.books := by
  unfold State.startFw
  repeat' first | with_reducible rfl | with_reducible assumption | intro _ | simp only [State.stageTo_books, State.traceStart_books, books_mk, books_eta, Iter.state_done, Iter.state_fmt, Iter.state_trap, Whole.state_ran, Whole.state_stopped, Whole.state_denied] | split | with_reducible refine (foldl_books _ ?_ _ _).trans ?_

@[simp] theorem State.bootKeys_books (s : State) (x1 : _) : (State.bootKeys s x1).books = s.books := by
  unfold State.bootKeys
  repeat' first | with_reducible rfl | with_reducible assumption | intro _ | simp only [State.afterBurn_books, State.raise_books, books_mk, books_eta, Iter.state_done, Iter.state_fmt, Iter.state_trap, Whole.state_ran, Whole.state_stopped, Whole.state_denied] | split | with_reducible refine (foldl_books _ ?_ _ _).trans ?_

@[simp] theorem State.stageBoot_books (s : State) (x1 : _) : (State.stageBoot s x1).books = s.books := by
  unfold State.stageBoot
  repeat' first | with_reducible rfl | with_reducible assumption | intro _ | simp only [State.bootKeys_books, State.bringUpFails_books, State.bump_books, State.raise_books, State.startFw_books, books_mk, books_eta, Iter.state_done, Iter.state_fmt, Iter.state_trap, Whole.state_ran, Whole.state_stopped, Whole.state_denied] | split | with_reducible refine (foldl_books _ ?_ _ _).trans ?_

@[simp] theorem State.stageTrain_books (s : State) (x1 : _) : (State.stageTrain s x1).books = s.books := by
  unfold State.stageTrain
  repeat' first | with_reducible rfl | with_reducible assumption | intro _ | simp only [State.bringUpFails_books, State.raise_books, State.readSaves_books, State.stageTo_books, books_mk, books_eta, Iter.state_done, Iter.state_fmt, Iter.state_trap, Whole.state_ran, Whole.state_stopped, Whole.state_denied] | split | with_reducible refine (foldl_books _ ?_ _ _).trans ?_

@[simp] theorem State.stageUcie_books (s : State) (x1 : _) : (State.stageUcie s x1).books = s.books := by
  unfold State.stageUcie
  repeat' first | with_reducible rfl | with_reducible assumption | intro _ | simp only [State.setUci_books, State.stageTo_books, State.startWipe_books, books_mk, books_eta, Iter.state_done, Iter.state_fmt, Iter.state_trap, Whole.state_ran, Whole.state_stopped, Whole.state_denied] | split | with_reducible refine (foldl_books _ ?_ _ _).trans ?_

@[simp] theorem State.ovfWrite_books (s : State) (x1 : _) (x2 : _) : (State.ovfWrite s x1 x2).books = s.books := by
  unfold State.ovfWrite
  repeat' first | with_reducible rfl | with_reducible assumption | intro _ | simp only [State.clearCtr_books, books_mk, books_eta, Iter.state_done, Iter.state_fmt, Iter.state_trap, Whole.state_ran, Whole.state_stopped, Whole.state_denied] | split | with_reducible refine (foldl_books _ ?_ _ _).trans ?_ | with_reducible refine (foldlB_books _ ?_ _ _).trans ?_ | with_reducible refine (foldl1_books _ ?_ _ _).trans ?_ | with_reducible refine (foldl2_books _ ?_ _ _).trans ?_

theorem State.lockOr_books (s : State) (r : Reg) (a : Nat) (f : State → State) (h : ∀ t, (f t).books = t.books) : (s.lockOr r a f).books = s.books := by
  unfold State.lockOr
  split
  · simp only [State.raise_books]
  · rw [h]; rfl

@[simp] theorem State.regionWrite_books (s : State) (v : Word) : (s.regionWrite v).books = s.books := by
  unfold State.regionWrite
  refine State.lockOr_books _ _ _ _ fun t => ?_
  repeat' first | with_reducible rfl | simp only [State.raise_books, State.wr_books, books_mk, books_eta] | split

@[simp] theorem State.pwrCfgWrite_books (s : State) (x1 : _) : (State.pwrCfgWrite s x1).books = s.books := by
  unfold State.pwrCfgWrite
  repeat' first | with_reducible rfl | with_reducible assumption | intro _ | simp only [State.raise_books, State.wr_books, books_mk, books_eta, Iter.state_done, Iter.state_fmt, Iter.state_trap, Whole.state_ran, Whole.state_stopped, Whole.state_denied] | split | with_reducible refine (foldl_books _ ?_ _ _).trans ?_

@[simp] theorem State.cmWrite_books (s : State) (x1 : _) (x2 : _) : (State.cmWrite s x1 x2).books = s.books := by
  unfold State.cmWrite
  repeat' first | with_reducible rfl | with_reducible assumption | intro _ | simp only [State.raise_books, State.wr_books, books_mk, books_eta, Iter.state_done, Iter.state_fmt, Iter.state_trap, Whole.state_ran, Whole.state_stopped, Whole.state_denied] | split | with_reducible refine (foldl_books _ ?_ _ _).trans ?_

@[simp] theorem State.evtRingReg_books (s : State) (x1 : _) : (State.evtRingReg s x1).books = s.books := by
  unfold State.evtRingReg
  repeat' first | with_reducible rfl | with_reducible assumption | intro _ | simp only [State.raise_books, State.wr_books, books_mk, books_eta, Iter.state_done, Iter.state_fmt, Iter.state_trap, Whole.state_ran, Whole.state_stopped, Whole.state_denied] | split | with_reducible refine (foldl_books _ ?_ _ _).trans ?_

@[simp] theorem State.trapWrite_books (s : State) (x1 : _) : (State.trapWrite s x1).books = s.books := by
  unfold State.trapWrite
  repeat' first | with_reducible rfl | with_reducible assumption | intro _ | simp only [State.wr_books, books_mk, books_eta, Iter.state_done, Iter.state_fmt, Iter.state_trap, Whole.state_ran, Whole.state_stopped, Whole.state_denied] | split | with_reducible refine (foldl_books _ ?_ _ _).trans ?_

@[simp] theorem State.ueLogWrite_books (s : State) (x1 : _) : (State.ueLogWrite s x1).books = s.books := by
  unfold State.ueLogWrite
  repeat' first | with_reducible rfl | with_reducible assumption | intro _ | simp only [books_mk, books_eta, Iter.state_done, Iter.state_fmt, Iter.state_trap, Whole.state_ran, Whole.state_stopped, Whole.state_denied] | split | with_reducible refine (foldl_books _ ?_ _ _).trans ?_

@[simp] theorem State.alertWrite_books (s : State) (x1 : _) : (State.alertWrite s x1).books = s.books := by
  unfold State.alertWrite
  repeat' first | with_reducible rfl | with_reducible assumption | intro _ | simp only [books_mk, books_eta, Iter.state_done, Iter.state_fmt, Iter.state_trap, Whole.state_ran, Whole.state_stopped, Whole.state_denied] | split | with_reducible refine (foldl_books _ ?_ _ _).trans ?_

@[simp] theorem State.rateLifted_books (s : State) (x1 : _) : (State.rateLifted s x1).books = s.books := by
  unfold State.rateLifted
  repeat' first | with_reducible rfl | with_reducible assumption | intro _ | simp only [State.modSched_books, books_mk, books_eta, Iter.state_done, Iter.state_fmt, Iter.state_trap, Whole.state_ran, Whole.state_stopped, Whole.state_denied] | split | with_reducible refine (foldl_books _ ?_ _ _).trans ?_

theorem execStewardRd_books {s t : State} {x0 : List Sys2Proof.Byte} (h : execStewardRd x0 s = .next t) : t.books = s.books := by
  simp only [execStewardRd, Host.Outcome.next.injEq] at h
  subst h
  repeat' first | with_reducible rfl | with_reducible assumption | intro _ | simp only [State.bump_books, State.emit_books, books_mk, books_eta, Iter.state_done, Iter.state_fmt, Iter.state_trap, Whole.state_ran, Whole.state_stopped, Whole.state_denied] | split | with_reducible refine (foldl_books _ ?_ _ _).trans ?_

theorem execFabricPosWrite_books {s t : State} {x0 : Bool} {x1 : Sys2Proof.Word} (h : execFabricPosWrite x0 x1 s = .next t) : t.books = s.books := by
  simp only [execFabricPosWrite, Host.Outcome.next.injEq] at h
  subst h
  repeat' first | with_reducible rfl | with_reducible assumption | intro _ | simp only [State.placeWrite_books, books_mk, books_eta, Iter.state_done, Iter.state_fmt, Iter.state_trap, Whole.state_ran, Whole.state_stopped, Whole.state_denied] | split | with_reducible refine (foldl_books _ ?_ _ _).trans ?_

theorem execMemRegionSizeWrite_books {s t : State} {x0 : Sys2Proof.Word} (h : execMemRegionSizeWrite x0 s = .next t) : t.books = s.books := by
  simp only [execMemRegionSizeWrite, Host.Outcome.next.injEq] at h
  subst h
  repeat' first | with_reducible rfl | with_reducible assumption | intro _ | simp only [State.regionWrite_books, books_mk, books_eta, Iter.state_done, Iter.state_fmt, Iter.state_trap, Whole.state_ran, Whole.state_stopped, Whole.state_denied] | split | with_reducible refine (foldl_books _ ?_ _ _).trans ?_

theorem execCounterOvfClear_books {s t : State} {x0 : Nat} {x1 : Sys2Proof.Word} (h : execCounterOvfClear x0 x1 s = .next t) : t.books = s.books := by
  simp only [execCounterOvfClear, Host.Outcome.next.injEq] at h
  subst h
  repeat' first | with_reducible rfl | with_reducible assumption | intro _ | simp only [State.ovfWrite_books, books_mk, books_eta, Iter.state_done, Iter.state_fmt, Iter.state_trap, Whole.state_ran, Whole.state_stopped, Whole.state_denied] | split | with_reducible refine (foldl_books _ ?_ _ _).trans ?_

theorem execVeTrapClear_books {s t : State} {x0 : Sys2Proof.Word} (h : execVeTrapClear x0 s = .next t) : t.books = s.books := by
  simp only [execVeTrapClear, Host.Outcome.next.injEq] at h
  subst h
  repeat' first | with_reducible rfl | with_reducible assumption | intro _ | simp only [State.trapWrite_books, books_mk, books_eta, Iter.state_done, Iter.state_fmt, Iter.state_trap, Whole.state_ran, Whole.state_stopped, Whole.state_denied] | split | with_reducible refine (foldl_books _ ?_ _ _).trans ?_

theorem execMemUeLogClear_books {s t : State} {x0 : Sys2Proof.Word} (h : execMemUeLogClear x0 s = .next t) : t.books = s.books := by
  simp only [execMemUeLogClear, Host.Outcome.next.injEq] at h
  subst h
  repeat' first | with_reducible rfl | with_reducible assumption | intro _ | simp only [State.ueLogWrite_books, books_mk, books_eta, Iter.state_done, Iter.state_fmt, Iter.state_trap, Whole.state_ran, Whole.state_stopped, Whole.state_denied] | split | with_reducible refine (foldl_books _ ?_ _ _).trans ?_

theorem execAlertClear_books {s t : State} {x0 : Sys2Proof.Word} (h : execAlertClear x0 s = .next t) : t.books = s.books := by
  simp only [execAlertClear, Host.Outcome.next.injEq] at h
  subst h
  repeat' first | with_reducible rfl | with_reducible assumption | intro _ | simp only [State.alertWrite_books, books_mk, books_eta, Iter.state_done, Iter.state_fmt, Iter.state_trap, Whole.state_ran, Whole.state_stopped, Whole.state_denied] | split | with_reducible refine (foldl_books _ ?_ _ _).trans ?_

theorem execCmConfigWrite_books {s t : State} {x0 : Option Nat} {x1 : Sys2Proof.Word} (h : execCmConfigWrite x0 x1 s = .next t) : t.books = s.books := by
  simp only [execCmConfigWrite, Host.Outcome.next.injEq] at h
  subst h
  repeat' first | with_reducible rfl | with_reducible assumption | intro _ | simp only [State.cmWrite_books, books_mk, books_eta, Iter.state_done, Iter.state_fmt, Iter.state_trap, Whole.state_ran, Whole.state_stopped, Whole.state_denied] | split | with_reducible refine (foldl_books _ ?_ _ _).trans ?_

theorem execEvtRingWrite_books {s t : State} {x0 : Sys2Proof.Word} (h : execEvtRingWrite x0 s = .next t) : t.books = s.books := by
  simp only [execEvtRingWrite, Host.Outcome.next.injEq] at h
  subst h
  repeat' first | with_reducible rfl | with_reducible assumption | intro _ | simp only [State.evtRingReg_books, books_mk, books_eta, Iter.state_done, Iter.state_fmt, Iter.state_trap, Whole.state_ran, Whole.state_stopped, Whole.state_denied] | split | with_reducible refine (foldl_books _ ?_ _ _).trans ?_

theorem execBmcRead_books {s t : State} {x0 : Nat} {x1 : Nat} (h : execBmcRead x0 x1 s = .next t) : t.books = s.books := by
  simp only [execBmcRead, Host.Outcome.next.injEq] at h
  subst h
  repeat' first | with_reducible rfl | with_reducible assumption | intro _ | simp only [State.emit_books, books_mk, books_eta, Iter.state_done, Iter.state_fmt, Iter.state_trap, Whole.state_ran, Whole.state_stopped, Whole.state_denied] | split | with_reducible refine (foldl_books _ ?_ _ _).trans ?_

theorem execRefresh_books {s t : State} {x0 : Nat} (h : execRefresh x0 s = .next t) : t.books = s.books := by
  simp only [execRefresh, Host.Outcome.next.injEq] at h
  subst h
  repeat' first | with_reducible rfl | with_reducible assumption | intro _ | simp only [State.bump_books, books_mk, books_eta, Iter.state_done, Iter.state_fmt, Iter.state_trap, Whole.state_ran, Whole.state_stopped, Whole.state_denied] | split | with_reducible refine (foldl_books _ ?_ _ _).trans ?_

theorem execRefreshStatusRead_books {s t : State} {x0 : Nat} {x1 : Bool} (h : execRefreshStatusRead x0 x1 s = .next t) : t.books = s.books := by
  simp only [execRefreshStatusRead, Host.Outcome.next.injEq] at h
  subst h
  repeat' first | with_reducible rfl | with_reducible assumption | intro _ | simp only [State.leaveLockstep_books, State.raise_books, books_mk, books_eta, Iter.state_done, Iter.state_fmt, Iter.state_trap, Whole.state_ran, Whole.state_stopped, Whole.state_denied] | split | with_reducible refine (foldl_books _ ?_ _ _).trans ?_

theorem execMemHotClear_books {s t : State} (h : execMemHotClear s = .next t) : t.books = s.books := by
  simp only [execMemHotClear, Host.Outcome.next.injEq] at h
  subst h
  repeat' first | with_reducible rfl | with_reducible assumption | intro _ | simp only [State.raise_books, books_mk, books_eta, Iter.state_done, Iter.state_fmt, Iter.state_trap, Whole.state_ran, Whole.state_stopped, Whole.state_denied] | split | with_reducible refine (foldl_books _ ?_ _ _).trans ?_

theorem execEventRingEntryWrite_books {s t : State} (h : execEventRingEntryWrite s = .next t) : t.books = s.books := by
  simp only [execEventRingEntryWrite, Host.Outcome.next.injEq] at h
  subst h
  repeat' first | with_reducible rfl | with_reducible assumption | intro _ | simp only [State.busWrite_books, State.interrupt_books, books_mk, books_eta, Iter.state_done, Iter.state_fmt, Iter.state_trap, Whole.state_ran, Whole.state_stopped, Whole.state_denied] | split | with_reducible refine (foldl_books _ ?_ _ _).trans ?_

theorem execHealthSample_books {s t : State} {x0 : Nat} {x1 : Sys2Proof.Measure} (h : execHealthSample x0 x1 s = .next t) : t.books = s.books := by
  simp only [execHealthSample, Host.Outcome.next.injEq] at h
  subst h
  repeat' first | with_reducible rfl | with_reducible assumption | intro _ | simp only [State.raise_books, books_mk, books_eta, Iter.state_done, Iter.state_fmt, Iter.state_trap, Whole.state_ran, Whole.state_stopped, Whole.state_denied] | split | with_reducible refine (foldl_books _ ?_ _ _).trans ?_

end Sys2Proof.Machine
end

