-- ==== Sys2Proof/Laws/FrameLinks.lean ====
section
/-!
SUPPORT. Laws/FrameLinks.lean: what leaves the logical ports and the twin alone.
-/
set_option linter.unusedSimpArgs false

namespace Sys2Proof.Machine

open Sys2Proof

/-- The logical ports and the twin. -/
def State.net (s : State) : List (Nat × Port) × Twin := (s.ports, s.twin)

@[simp] theorem net_eta (s : State) : (s.ports, s.twin) = s.net := (rfl)

@[simp] theorem net_mk (a b c d e f g h i j k l m n o p q r t u v w) :
    (State.mk a b c d e f g h i j k l m n o p q r t u v w).net = (n, w) := (rfl)

theorem foldl_net {α : Type} (f : State → α → State) (h : ∀ t a, (f t a).net = t.net) (l : List α) (b : State) :
    (l.foldl f b).net = b.net := by
  induction l generalizing b with
  | nil => rfl
  | cons a l ih => rw [List.foldl_cons, ih, h]

theorem foldlB_net {α : Type} (f : Body → α → Body) (h : ∀ t a, (f t a).s.net = t.s.net) (l : List α) (b : Body) :
    (l.foldl f b).s.net = b.s.net := by
  induction l generalizing b with
  | nil => rfl
  | cons a l ih => rw [List.foldl_cons, ih, h]

theorem foldl1_net {α β : Type} (f : State × β → α → State × β) (h : ∀ t a, (f t a).1.net = t.1.net) (l : List α) (b : State × β) :
    (l.foldl f b).1.net = b.1.net := by
  induction l generalizing b with
  | nil => rfl
  | cons a l ih => rw [List.foldl_cons, ih, h]

theorem foldl2_net {α β : Type} (f : β × State → α → β × State) (h : ∀ t a, (f t a).2.net = t.2.net) (l : List α) (b : β × State) :
    (l.foldl f b).2.net = b.2.net := by
  induction l generalizing b with
  | nil => rfl
  | cons a l ih => rw [List.foldl_cons, ih, h]

@[simp] theorem State.wr_net (s : State) (x1 : _) (x2 : _) : (State.wr s x1 x2).net = s.net := by
  unfold State.wr
  repeat' first | with_reducible rfl | with_reducible assumption | intro _ | simp only [net_mk, net_eta, Iter.state_done, Iter.state_fmt, Iter.state_trap, Whole.state_ran, Whole.state_stopped, Whole.state_denied] | split | with_reducible refine (foldl_net _ ?_ _ _).trans ?_

@[simp] theorem State.tick_net (s : State) : (State.tick s).net = s.net := by
  unfold State.tick
  repeat' first | with_reducible rfl | with_reducible assumption | intro _ | simp only [net_mk, net_eta, Iter.state_done, Iter.state_fmt, Iter.state_trap, Whole.state_ran, Whole.state_stopped, Whole.state_denied] | split | with_reducible refine (foldl_net _ ?_ _ _).trans ?_

@[simp] theorem State.emit_net (s : State) (x1 : _) : (State.emit s x1).net = s.net := by
  unfold State.emit
  repeat' first | with_reducible rfl | with_reducible assumption | intro _ | simp only [net_mk, net_eta, Iter.state_done, Iter.state_fmt, Iter.state_trap, Whole.state_ran, Whole.state_stopped, Whole.state_denied] | split | with_reducible refine (foldl_net _ ?_ _ _).trans ?_

@[simp] theorem State.draw_net (s : State) : (State.draw s).2.net = s.net := by
  unfold State.draw
  repeat' first | with_reducible rfl | with_reducible assumption | intro _ | simp only [net_mk, net_eta, Iter.state_done, Iter.state_fmt, Iter.state_trap, Whole.state_ran, Whole.state_stopped, Whole.state_denied] | split | with_reducible refine (foldl_net _ ?_ _ _).trans ?_

@[simp] theorem State.setCtr_net (s : State) (x1 : _) (x2 : _) : (State.setCtr s x1 x2).net = s.net := by
  unfold State.setCtr
  repeat' first | with_reducible rfl | with_reducible assumption | intro _ | simp only [net_mk, net_eta, Iter.state_done, Iter.state_fmt, Iter.state_trap, Whole.state_ran, Whole.state_stopped, Whole.state_denied] | split | with_reducible refine (foldl_net _ ?_ _ _).trans ?_

@[simp] theorem State.count_net (s : State) (x1 : _) (x2 : _) : (State.count s x1 x2).net = s.net := by
  unfold State.count
  repeat' first | with_reducible rfl | with_reducible assumption | intro _ | simp only [State.setCtr_net, net_mk, net_eta, Iter.state_done, Iter.state_fmt, Iter.state_trap, Whole.state_ran, Whole.state_stopped, Whole.state_denied] | split | with_reducible refine (foldl_net _ ?_ _ _).trans ?_

@[simp] theorem State.clearCtr_net (s : State) (x1 : _) : (State.clearCtr s x1).net = s.net := by
  unfold State.clearCtr
  repeat' first | with_reducible rfl | with_reducible assumption | intro _ | simp only [State.setCtr_net, net_mk, net_eta, Iter.state_done, Iter.state_fmt, Iter.state_trap, Whole.state_ran, Whole.state_stopped, Whole.state_denied] | split | with_reducible refine (foldl_net _ ?_ _ _).trans ?_

@[simp] theorem State.clearCtrs_net (s : State) (x1 : _) : (State.clearCtrs s x1).net = s.net := by
  unfold State.clearCtrs
  repeat' first | with_reducible rfl | with_reducible assumption | intro _ | simp only [net_mk, net_eta, Iter.state_done, Iter.state_fmt, Iter.state_trap, Whole.state_ran, Whole.state_stopped, Whole.state_denied] | split | with_reducible refine (foldl_net _ ?_ _ _).trans ?_

@[simp] theorem State.push_net (s : State) (x1 : _) (x2 : _) (x3 : _) (x4 : _) (x5 : _) : (State.push s x1 x2 x3 x4 x5).net = s.net := by
  unfold State.push
  repeat' first | with_reducible rfl | with_reducible assumption | intro _ | simp only [net_mk, net_eta, Iter.state_done, Iter.state_fmt, Iter.state_trap, Whole.state_ran, Whole.state_stopped, Whole.state_denied] | split | with_reducible refine (foldl_net _ ?_ _ _).trans ?_

@[simp] theorem State.dropLost_net (s : State) : (State.dropLost s).net = s.net := by
  unfold State.dropLost
  repeat' first | with_reducible rfl | with_reducible assumption | intro _ | simp only [State.count_net, net_mk, net_eta, Iter.state_done, Iter.state_fmt, Iter.state_trap, Whole.state_ran, Whole.state_stopped, Whole.state_denied] | split | with_reducible refine (foldl_net _ ?_ _ _).trans ?_

@[simp] theorem State.pushSat_net (s : State) (x1 : _) : (State.pushSat s x1).net = s.net := by
  unfold State.pushSat
  repeat' first | with_reducible rfl | with_reducible assumption | intro _ | simp only [State.push_net, net_mk, net_eta, Iter.state_done, Iter.state_fmt, Iter.state_trap, Whole.state_ran, Whole.state_stopped, Whole.state_denied] | split | with_reducible refine (foldl_net _ ?_ _ _).trans ?_

@[simp] theorem State.bump_net (s : State) (x1 : _) (x2 : _) : (State.bump s x1 x2).net = s.net := by
  unfold State.bump
  repeat' first | with_reducible rfl | with_reducible assumption | intro _ | simp only [State.count_net, State.dropLost_net, State.pushSat_net, net_mk, net_eta, Iter.state_done, Iter.state_fmt, Iter.state_trap, Whole.state_ran, Whole.state_stopped, Whole.state_denied] | split | with_reducible refine (foldl_net _ ?_ _ _).trans ?_

@[simp] theorem State.raise_net (s : State) (x1 : _) (x2 : _) (x3 : _) : (State.raise s x1 x2 x3).net = s.net := by
  unfold State.raise
  repeat' first | with_reducible rfl | with_reducible assumption | intro _ | simp only [State.dropLost_net, State.push_net, State.pushSat_net, net_mk, net_eta, Iter.state_done, Iter.state_fmt, Iter.state_trap, Whole.state_ran, Whole.state_stopped, Whole.state_denied] | split | with_reducible refine (foldl_net _ ?_ _ _).trans ?_

@[simp] theorem State.modSched_net (s : State) (x1 : _) (x2 : _) : (State.modSched s x1 x2).net = s.net := by
  unfold State.modSched
  repeat' first | with_reducible rfl | with_reducible assumption | intro _ | simp only [net_mk, net_eta, Iter.state_done, Iter.state_fmt, Iter.state_trap, Whole.state_ran, Whole.state_stopped, Whole.state_denied] | split | with_reducible refine (foldl_net _ ?_ _ _).trans ?_

@[simp] theorem State.modParty_net (s : State) (x1 : _) (x2 : _) : (State.modParty s x1 x2).net = s.net := by
  unfold State.modParty
  repeat' first | with_reducible rfl | with_reducible assumption | intro _ | simp only [net_mk, net_eta, Iter.state_done, Iter.state_fmt, Iter.state_trap, Whole.state_ran, Whole.state_stopped, Whole.state_denied] | split | with_reducible refine (foldl_net _ ?_ _ _).trans ?_

@[simp] theorem State.setSlot_net (s : State) (x1 : _) (x2 : _) : (State.setSlot s x1 x2).net = s.net := by
  unfold State.setSlot
  repeat' first | with_reducible rfl | with_reducible assumption | intro _ | simp only [net_mk, net_eta, Iter.state_done, Iter.state_fmt, Iter.state_trap, Whole.state_ran, Whole.state_stopped, Whole.state_denied] | split | with_reducible refine (foldl_net _ ?_ _ _).trans ?_

@[simp] theorem State.modSlot_net (s : State) (x1 : _) (x2 : _) : (State.modSlot s x1 x2).net = s.net := by
  unfold State.modSlot
  repeat' first | with_reducible rfl | with_reducible assumption | intro _ | simp only [State.setSlot_net, net_mk, net_eta, Iter.state_done, Iter.state_fmt, Iter.state_trap, Whole.state_ran, Whole.state_stopped, Whole.state_denied] | split | with_reducible refine (foldl_net _ ?_ _ _).trans ?_

@[simp] theorem State.rebuildRoutes_net (s : State) : (State.rebuildRoutes s).net = s.net := by
  unfold State.rebuildRoutes
  repeat' first | with_reducible rfl | with_reducible assumption | intro _ | simp only [State.raise_net, net_mk, net_eta, Iter.state_done, Iter.state_fmt, Iter.state_trap, Whole.state_ran, Whole.state_stopped, Whole.state_denied] | split | with_reducible refine (foldl_net _ ?_ _ _).trans ?_

@[simp] theorem State.rebuildGroups_net (s : State) : (State.rebuildGroups s).net = s.net := by
  unfold State.rebuildGroups
  repeat' first | with_reducible rfl | with_reducible assumption | intro _ | simp only [net_mk, net_eta, Iter.state_done, Iter.state_fmt, Iter.state_trap, Whole.state_ran, Whole.state_stopped, Whole.state_denied] | split | with_reducible refine (foldl_net _ ?_ _ _).trans ?_

@[simp] theorem State.bookRead_net (s : State) (x1 : _) (x2 : _) : (State.bookRead s x1 x2).2.net = s.net := by
  unfold State.bookRead
  repeat' first | with_reducible rfl | with_reducible assumption | intro _ | simp only [net_mk, net_eta, Iter.state_done, Iter.state_fmt, Iter.state_trap, Whole.state_ran, Whole.state_stopped, Whole.state_denied] | split | with_reducible refine (foldl_net _ ?_ _ _).trans ?_

@[simp] theorem State.setQueue_net (s : State) (x1 : _) (x2 : _) : (State.setQueue s x1 x2).net = s.net := by
  unfold State.setQueue
  repeat' first | with_reducible rfl | with_reducible assumption | intro _ | simp only [net_mk, net_eta, Iter.state_done, Iter.state_fmt, Iter.state_trap, Whole.state_ran, Whole.state_stopped, Whole.state_denied] | split | with_reducible refine (foldl_net _ ?_ _ _).trans ?_

@[simp] theorem State.setWindow_net (s : State) (x1 : _) (x2 : _) : (State.setWindow s x1 x2).net = s.net := by
  unfold State.setWindow
  repeat' first | with_reducible rfl | with_reducible assumption | intro _ | simp only [net_mk, net_eta, Iter.state_done, Iter.state_fmt, Iter.state_trap, Whole.state_ran, Whole.state_stopped, Whole.state_denied] | split | with_reducible refine (foldl_net _ ?_ _ _).trans ?_

@[simp] theorem State.modCellSlot_net (s : State) (x1 : _) (x2 : _) : (State.modCellSlot s x1 x2).net = s.net := by
  unfold State.modCellSlot
  repeat' first | with_reducible rfl | with_reducible assumption | intro _ | simp only [net_mk, net_eta, Iter.state_done, Iter.state_fmt, Iter.state_trap, Whole.state_ran, Whole.state_stopped, Whole.state_denied] | split | with_reducible refine (foldl_net _ ?_ _ _).trans ?_

@[simp] theorem State.tookCopy_net (s : State) (x1 : _) (x2 : _) : (State.tookCopy s x1 x2).net = s.net := by
  unfold State.tookCopy
  repeat' first | with_reducible rfl | with_reducible assumption | intro _ | simp only [State.modCellSlot_net, net_mk, net_eta, Iter.state_done, Iter.state_fmt, Iter.state_trap, Whole.state_ran, Whole.state_stopped, Whole.state_denied] | split | with_reducible refine (foldl_net _ ?_ _ _).trans ?_

@[simp] theorem State.select_net (s : State) (x1 : _) (x2 : _) (x3 : _) (x4 : _) : (State.select s x1 x2 x3 x4).net = s.net := by
  unfold State.select
  repeat' first | with_reducible rfl | with_reducible assumption | intro _ | simp only [State.bookRead_net, State.setWindow_net, net_mk, net_eta, Iter.state_done, Iter.state_fmt, Iter.state_trap, Whole.state_ran, Whole.state_stopped, Whole.state_denied] | split | with_reducible refine (foldl_net _ ?_ _ _).trans ?_

@[simp] theorem State.fillWindow_net (s : State) (x1 : _) : (State.fillWindow s x1).net = s.net := by
  unfold State.fillWindow
  repeat' first | with_reducible rfl | with_reducible assumption | intro _ | simp only [State.select_net, State.tookCopy_net, net_mk, net_eta, Iter.state_done, Iter.state_fmt, Iter.state_trap, Whole.state_ran, Whole.state_stopped, Whole.state_denied] | split | with_reducible refine (foldl_net _ ?_ _ _).trans ?_ | with_reducible refine (foldlB_net _ ?_ _ _).trans ?_ | with_reducible refine (foldl1_net _ ?_ _ _).trans ?_ | with_reducible refine (foldl2_net _ ?_ _ _).trans ?_

@[simp] theorem State.enqueue_net (s : State) (x1 : _) (x2 : _) : (State.enqueue s x1 x2).net = s.net := by
  unfold State.enqueue
  repeat' first | with_reducible rfl | with_reducible assumption | intro _ | simp only [State.fillWindow_net, State.modSched_net, State.setQueue_net, net_mk, net_eta, Iter.state_done, Iter.state_fmt, Iter.state_trap, Whole.state_ran, Whole.state_stopped, Whole.state_denied] | split | with_reducible refine (foldl_net _ ?_ _ _).trans ?_

@[simp] theorem State.freeIfDone_net (s : State) (x1 : _) : (State.freeIfDone s x1).net = s.net := by
  unfold State.freeIfDone
  repeat' first | with_reducible rfl | with_reducible assumption | intro _ | simp only [net_mk, net_eta, Iter.state_done, Iter.state_fmt, Iter.state_trap, Whole.state_ran, Whole.state_stopped, Whole.state_denied] | split | with_reducible refine (foldl_net _ ?_ _ _).trans ?_

@[simp] theorem State.dropRetention_net (s : State) (x1 : _) : (State.dropRetention s x1).net = s.net := by
  unfold State.dropRetention
  repeat' first | with_reducible rfl | with_reducible assumption | intro _ | simp only [State.freeIfDone_net, State.modCellSlot_net, net_mk, net_eta, Iter.state_done, Iter.state_fmt, Iter.state_trap, Whole.state_ran, Whole.state_stopped, Whole.state_denied] | split | with_reducible refine (foldl_net _ ?_ _ _).trans ?_

@[simp] theorem State.spillOne_net (s : State) (x1 : _) : (State.spillOne s x1).net = s.net := by
  unfold State.spillOne
  repeat' first | with_reducible rfl | with_reducible assumption | intro _ | simp only [State.bump_net, net_mk, net_eta, Iter.state_done, Iter.state_fmt, Iter.state_trap, Whole.state_ran, Whole.state_stopped, Whole.state_denied] | split | with_reducible refine (foldl_net _ ?_ _ _).trans ?_

@[simp] theorem State.spillAll_net (s : State) (x0 : _) : (State.spillAll x0 s).net = s.net := by
  induction x0 generalizing s with
  | zero => unfold State.spillAll; repeat' first | with_reducible rfl | with_reducible assumption | intro _ | simp only [State.spillOne_net, net_mk, net_eta, Iter.state_done, Iter.state_fmt, Iter.state_trap, Whole.state_ran, Whole.state_stopped, Whole.state_denied] | split | with_reducible refine (foldl_net _ ?_ _ _).trans ?_
  | succ n ih =>
    unfold State.spillAll
    repeat' first | with_reducible rfl | with_reducible assumption | intro _ | simp only [ih, State.spillOne_net, net_mk, net_eta, Iter.state_done, Iter.state_fmt, Iter.state_trap, Whole.state_ran, Whole.state_stopped, Whole.state_denied] | split | with_reducible refine (foldl_net _ ?_ _ _).trans ?_

@[simp] theorem State.spill_net (s : State) : (State.spill s).net = s.net := by
  unfold State.spill
  repeat' first | with_reducible rfl | with_reducible assumption | intro _ | simp only [State.spillAll_net, net_mk, net_eta, Iter.state_done, Iter.state_fmt, Iter.state_trap, Whole.state_ran, Whole.state_stopped, Whole.state_denied] | split | with_reducible refine (foldl_net _ ?_ _ _).trans ?_

@[simp] theorem State.countEgress_net (s : State) (x1 : _) (x2 : _) (x3 : _) : (State.countEgress s x1 x2 x3).net = s.net := by
  unfold State.countEgress
  repeat' first | with_reducible rfl | with_reducible assumption | intro _ | simp only [State.bump_net, net_mk, net_eta, Iter.state_done, Iter.state_fmt, Iter.state_trap, Whole.state_ran, Whole.state_stopped, Whole.state_denied] | split | with_reducible refine (foldl_net _ ?_ _ _).trans ?_

@[simp] theorem State.store_net (s : State) (x1 : _) (x2 : _) (x3 : _) (x4 : _) (x5 : _) (x6 : _) (x7 : _) : (State.store s x1 x2 x3 x4 x5 x6 x7).2.net = s.net := by
  unfold State.store
  repeat' first | with_reducible rfl | with_reducible assumption | intro _ | simp only [State.enqueue_net, net_mk, net_eta, Iter.state_done, Iter.state_fmt, Iter.state_trap, Whole.state_ran, Whole.state_stopped, Whole.state_denied] | split | with_reducible refine (foldl_net _ ?_ _ _).trans ?_ | with_reducible refine (foldlB_net _ ?_ _ _).trans ?_ | with_reducible refine (foldl1_net _ ?_ _ _).trans ?_ | with_reducible refine (foldl2_net _ ?_ _ _).trans ?_

@[simp] theorem State.countWay_net (s : State) (x1 : _) (x2 : _) (x3 : _) : (State.countWay s x1 x2 x3).net = s.net := by
  unfold State.countWay
  repeat' first | with_reducible rfl | with_reducible assumption | intro _ | simp only [State.bump_net, State.countEgress_net, net_mk, net_eta, Iter.state_done, Iter.state_fmt, Iter.state_trap, Whole.state_ran, Whole.state_stopped, Whole.state_denied] | split | with_reducible refine (foldl_net _ ?_ _ _).trans ?_

@[simp] theorem State.block_net (s : State) (x1 : _) (x2 : _) : (State.block s x1 x2).net = s.net := by
  unfold State.block
  repeat' first | with_reducible rfl | with_reducible assumption | intro _ | simp only [net_mk, net_eta, Iter.state_done, Iter.state_fmt, Iter.state_trap, Whole.state_ran, Whole.state_stopped, Whole.state_denied] | split | with_reducible refine (foldl_net _ ?_ _ _).trans ?_

@[simp] theorem State.storeOutput_net (s : State) (x1 : _) (x2 : _) (x3 : _) (x4 : _) (x5 : _) : (State.storeOutput s x1 x2 x3 x4 x5).2.net = s.net := by
  unfold State.storeOutput
  repeat' first | with_reducible rfl | with_reducible assumption | intro _ | simp only [State.block_net, State.bump_net, State.store_net, net_mk, net_eta, Iter.state_done, Iter.state_fmt, Iter.state_trap, Whole.state_ran, Whole.state_stopped, Whole.state_denied] | split | with_reducible refine (foldl_net _ ?_ _ _).trans ?_

@[simp] theorem State.output_net (s : State) (x1 : _) (x2 : _) : (State.output s x1 x2).2.net = s.net := by
  unfold State.output
  repeat' first | with_reducible rfl | with_reducible assumption | intro _ | simp only [State.block_net, State.bump_net, State.countWay_net, State.storeOutput_net, net_mk, net_eta, Iter.state_done, Iter.state_fmt, Iter.state_trap, Whole.state_ran, Whole.state_stopped, Whole.state_denied] | split | with_reducible refine (foldl_net _ ?_ _ _).trans ?_

@[simp] theorem State.sendCtrl_net (s : State) (x1 : _) (x2 : _) (x3 : _) (x4 : _) (x5 : _) : (State.sendCtrl s x1 x2 x3 x4 x5).net = s.net := by
  unfold State.sendCtrl
  repeat' first | with_reducible rfl | with_reducible assumption | intro _ | simp only [State.output_net, State.spill_net, net_mk, net_eta, Iter.state_done, Iter.state_fmt, Iter.state_trap, Whole.state_ran, Whole.state_stopped, Whole.state_denied] | split | with_reducible refine (foldl_net _ ?_ _ _).trans ?_

@[simp] theorem State.sendOnPort_net (s : State) (x1 : _) (x2 : _) (x3 : _) : (State.sendOnPort s x1 x2 x3).net = s.net := by
  unfold State.sendOnPort
  repeat' first | with_reducible rfl | with_reducible assumption | intro _ | simp only [State.block_net, State.spill_net, State.storeOutput_net, net_mk, net_eta, Iter.state_done, Iter.state_fmt, Iter.state_trap, Whole.state_ran, Whole.state_stopped, Whole.state_denied] | split | with_reducible refine (foldl_net _ ?_ _ _).trans ?_

@[simp] theorem State.relayCell_net (s : State) (x1 : _) (x2 : _) : (State.relayCell s x1 x2).net = s.net := by
  unfold State.relayCell
  repeat' first | with_reducible rfl | with_reducible assumption | intro _ | simp only [State.block_net, State.countWay_net, State.enqueue_net, State.modCellSlot_net, State.output_net, State.spill_net, State.storeOutput_net, net_mk, net_eta, Iter.state_done, Iter.state_fmt, Iter.state_trap, Whole.state_ran, Whole.state_stopped, Whole.state_denied] | split | with_reducible refine (foldl_net _ ?_ _ _).trans ?_ | with_reducible refine (foldlB_net _ ?_ _ _).trans ?_ | with_reducible refine (foldl1_net _ ?_ _ _).trans ?_ | with_reducible refine (foldl2_net _ ?_ _ _).trans ?_

@[simp] theorem State.relayMessage_net (s : State) (x1 : _) (x2 : _) (x3 : _) (x4 : _) (x5 : _) (x6 : _) (x7 : _) : (State.relayMessage s x1 x2 x3 x4 x5 x6 x7).net = s.net := by
  unfold State.relayMessage
  repeat' first | with_reducible rfl | with_reducible assumption | intro _ | simp only [State.relayCell_net, State.setSlot_net, net_mk, net_eta, Iter.state_done, Iter.state_fmt, Iter.state_trap, Whole.state_ran, Whole.state_stopped, Whole.state_denied] | split | with_reducible refine (foldl_net _ ?_ _ _).trans ?_ | with_reducible refine (foldlB_net _ ?_ _ _).trans ?_ | with_reducible refine (foldl1_net _ ?_ _ _).trans ?_ | with_reducible refine (foldl2_net _ ?_ _ _).trans ?_

@[simp] theorem State.setTx_net (s : State) (x1 : _) (x2 : _) : (State.setTx s x1 x2).net = s.net := by
  unfold State.setTx
  repeat' first | with_reducible rfl | with_reducible assumption | intro _ | simp only [net_mk, net_eta, Iter.state_done, Iter.state_fmt, Iter.state_trap, Whole.state_ran, Whole.state_stopped, Whole.state_denied] | split | with_reducible refine (foldl_net _ ?_ _ _).trans ?_

@[simp] theorem State.transmit_net (s : State) (x1 : _) (x2 : _) (x3 : _) : (State.transmit s x1 x2 x3).net = s.net := by
  unfold State.transmit
  repeat' first | with_reducible rfl | with_reducible assumption | intro _ | simp only [State.output_net, State.setTx_net, State.spill_net, net_mk, net_eta, Iter.state_done, Iter.state_fmt, Iter.state_trap, Whole.state_ran, Whole.state_stopped, Whole.state_denied] | split | with_reducible refine (foldl_net _ ?_ _ _).trans ?_

@[simp] theorem State.pumpAux_net (s : State) (x0 : _) (x1 : _) : (State.pumpAux x0 x1 s).net = s.net := by
  induction x1 generalizing s with
  | zero => unfold State.pumpAux; repeat' first | with_reducible rfl | with_reducible assumption | intro _ | simp only [State.setTx_net, State.transmit_net, net_mk, net_eta, Iter.state_done, Iter.state_fmt, Iter.state_trap, Whole.state_ran, Whole.state_stopped, Whole.state_denied] | split | with_reducible refine (foldl_net _ ?_ _ _).trans ?_
  | succ n ih =>
    unfold State.pumpAux
    repeat' first | with_reducible rfl | with_reducible assumption | intro _ | simp only [ih, State.setTx_net, State.transmit_net, net_mk, net_eta, Iter.state_done, Iter.state_fmt, Iter.state_trap, Whole.state_ran, Whole.state_stopped, Whole.state_denied] | split | with_reducible refine (foldl_net _ ?_ _ _).trans ?_

@[simp] theorem State.pump_net (s : State) (x1 : _) : (State.pump s x1).net = s.net := by
  unfold State.pump
  repeat' first | with_reducible rfl | with_reducible assumption | intro _ | simp only [State.pumpAux_net, net_mk, net_eta, Iter.state_done, Iter.state_fmt, Iter.state_trap, Whole.state_ran, Whole.state_stopped, Whole.state_denied] | split | with_reducible refine (foldl_net _ ?_ _ _).trans ?_

@[simp] theorem State.sendMessage_net (s : State) (x1 : _) (x2 : _) (x3 : _) (x4 : _) (x5 : _) (x6 : _) (x7 : _) (x8 : _) : (State.sendMessage s x1 x2 x3 x4 x5 x6 x7 x8).net = s.net := by
  unfold State.sendMessage
  repeat' first | with_reducible rfl | with_reducible assumption | intro _ | simp only [State.pump_net, State.setTx_net, net_mk, net_eta, Iter.state_done, Iter.state_fmt, Iter.state_trap, Whole.state_ran, Whole.state_stopped, Whole.state_denied] | split | with_reducible refine (foldl_net _ ?_ _ _).trans ?_

@[simp] theorem State.release_net (s : State) (x1 : _) (x2 : _) : (State.release s x1 x2).net = s.net := by
  unfold State.release
  repeat' first | with_reducible rfl | with_reducible assumption | intro _ | simp only [State.dropRetention_net, State.setTx_net, net_mk, net_eta, Iter.state_done, Iter.state_fmt, Iter.state_trap, Whole.state_ran, Whole.state_stopped, Whole.state_denied] | split | with_reducible refine (foldl_net _ ?_ _ _).trans ?_ | with_reducible refine (foldlB_net _ ?_ _ _).trans ?_ | with_reducible refine (foldl1_net _ ?_ _ _).trans ?_ | with_reducible refine (foldl2_net _ ?_ _ _).trans ?_

@[simp] theorem State.unretain_net (s : State) (x1 : _) : (State.unretain s x1).net = s.net := by
  unfold State.unretain
  repeat' first | with_reducible rfl | with_reducible assumption | intro _ | simp only [net_mk, net_eta, Iter.state_done, Iter.state_fmt, Iter.state_trap, Whole.state_ran, Whole.state_stopped, Whole.state_denied] | split | with_reducible refine (foldl_net _ ?_ _ _).trans ?_

@[simp] theorem State.releaseTx_net (s : State) (x1 : _) : (State.releaseTx s x1).net = s.net := by
  unfold State.releaseTx
  repeat' first | with_reducible rfl | with_reducible assumption | intro _ | simp only [State.release_net, State.unretain_net, net_mk, net_eta, Iter.state_done, Iter.state_fmt, Iter.state_trap, Whole.state_ran, Whole.state_stopped, Whole.state_denied] | split | with_reducible refine (foldl_net _ ?_ _ _).trans ?_

@[simp] theorem State.freshTx_net (s : State) (x1 : _) : (State.freshTx s x1).net = s.net := by
  unfold State.freshTx
  repeat' first | with_reducible rfl | with_reducible assumption | intro _ | simp only [net_mk, net_eta, Iter.state_done, Iter.state_fmt, Iter.state_trap, Whole.state_ran, Whole.state_stopped, Whole.state_denied] | split | with_reducible refine (foldl_net _ ?_ _ _).trans ?_

@[simp] theorem State.dropTx_net (s : State) (x1 : _) : (State.dropTx s x1).net = s.net := by
  unfold State.dropTx
  repeat' first | with_reducible rfl | with_reducible assumption | intro _ | simp only [State.releaseTx_net, net_mk, net_eta, Iter.state_done, Iter.state_fmt, Iter.state_trap, Whole.state_ran, Whole.state_stopped, Whole.state_denied] | split | with_reducible refine (foldl_net _ ?_ _ _).trans ?_

@[simp] theorem State.releaseStreams_net (s : State) (x1 : _) : (State.releaseStreams s x1).net = s.net := by
  unfold State.releaseStreams
  repeat' first | with_reducible rfl | with_reducible assumption | intro _ | simp only [State.pump_net, State.releaseTx_net, net_mk, net_eta, Iter.state_done, Iter.state_fmt, Iter.state_trap, Whole.state_ran, Whole.state_stopped, Whole.state_denied] | split | with_reducible refine (foldl_net _ ?_ _ _).trans ?_ | with_reducible refine (foldlB_net _ ?_ _ _).trans ?_ | with_reducible refine (foldl1_net _ ?_ _ _).trans ?_ | with_reducible refine (foldl2_net _ ?_ _ _).trans ?_

@[simp] theorem State.dropStreams_net (s : State) (x1 : _) : (State.dropStreams s x1).net = s.net := by
  unfold State.dropStreams
  repeat' first | with_reducible rfl | with_reducible assumption | intro _ | simp only [State.dropTx_net, net_mk, net_eta, Iter.state_done, Iter.state_fmt, Iter.state_trap, Whole.state_ran, Whole.state_stopped, Whole.state_denied] | split | with_reducible refine (foldl_net _ ?_ _ _).trans ?_ | with_reducible refine (foldlB_net _ ?_ _ _).trans ?_ | with_reducible refine (foldl1_net _ ?_ _ _).trans ?_ | with_reducible refine (foldl2_net _ ?_ _ _).trans ?_

@[simp] theorem State.closeStreams_net (s : State) (x1 : _) (x2 : _) : (State.closeStreams s x1 x2).net = s.net := by
  unfold State.closeStreams
  repeat' first | with_reducible rfl | with_reducible assumption | intro _ | simp only [State.dropStreams_net, State.output_net, net_mk, net_eta, Iter.state_done, Iter.state_fmt, Iter.state_trap, Whole.state_ran, Whole.state_stopped, Whole.state_denied] | split | with_reducible refine (foldl_net _ ?_ _ _).trans ?_ | with_reducible refine (foldlB_net _ ?_ _ _).trans ?_ | with_reducible refine (foldl1_net _ ?_ _ _).trans ?_ | with_reducible refine (foldl2_net _ ?_ _ _).trans ?_

@[simp] theorem State.admitAux_net (s : State) (x0 : _) : (State.admitAux x0 s).net = s.net := by
  induction x0 generalizing s with
  | zero => unfold State.admitAux; repeat' first | with_reducible rfl | with_reducible assumption | intro _ | simp only [State.output_net, State.setTx_net, net_mk, net_eta, Iter.state_done, Iter.state_fmt, Iter.state_trap, Whole.state_ran, Whole.state_stopped, Whole.state_denied] | split | with_reducible refine (foldl_net _ ?_ _ _).trans ?_
  | succ n ih =>
    unfold State.admitAux
    repeat' first | with_reducible rfl | with_reducible assumption | intro _ | simp only [ih, State.output_net, State.setTx_net, net_mk, net_eta, Iter.state_done, Iter.state_fmt, Iter.state_trap, Whole.state_ran, Whole.state_stopped, Whole.state_denied] | split | with_reducible refine (foldl_net _ ?_ _ _).trans ?_

@[simp] theorem State.admitBlocked_net (s : State) : (State.admitBlocked s).net = s.net := by
  unfold State.admitBlocked
  repeat' first | with_reducible rfl | with_reducible assumption | intro _ | simp only [State.admitAux_net, State.spill_net, net_mk, net_eta, Iter.state_done, Iter.state_fmt, Iter.state_trap, Whole.state_ran, Whole.state_stopped, Whole.state_denied] | split | with_reducible refine (foldl_net _ ?_ _ _).trans ?_

@[simp] theorem State.startQueues_net (s : State) (x1 : _) (x2 : _) : (State.startQueues s x1 x2).net = s.net := by
  unfold State.startQueues
  repeat' first | with_reducible rfl | with_reducible assumption | intro _ | simp only [net_mk, net_eta, Iter.state_done, Iter.state_fmt, Iter.state_trap, Whole.state_ran, Whole.state_stopped, Whole.state_denied] | split | with_reducible refine (foldl_net _ ?_ _ _).trans ?_

@[simp] theorem State.openSlot_net (s : State) (x1 : _) (x2 : _) (x3 : _) (x4 : _) (x5 : _) : (State.openSlot s x1 x2 x3 x4 x5).net = s.net := by
  unfold State.openSlot
  repeat' first | with_reducible rfl | with_reducible assumption | intro _ | simp only [State.setSlot_net, State.startQueues_net, net_mk, net_eta, Iter.state_done, Iter.state_fmt, Iter.state_trap, Whole.state_ran, Whole.state_stopped, Whole.state_denied] | split | with_reducible refine (foldl_net _ ?_ _ _).trans ?_

@[simp] theorem State.sendMsg_net (s : State) (x1 : _) (x2 : _) (x3 : _) (x4 : _) (x5 : _) (x6 : _) : (State.sendMsg s x1 x2 x3 x4 x5 x6).net = s.net := by
  unfold State.sendMsg
  repeat' first | with_reducible rfl | with_reducible assumption | intro _ | simp only [State.sendMessage_net, net_mk, net_eta, Iter.state_done, Iter.state_fmt, Iter.state_trap, Whole.state_ran, Whole.state_stopped, Whole.state_denied] | split | with_reducible refine (foldl_net _ ?_ _ _).trans ?_

@[simp] theorem State.sendFirst_net (s : State) (x1 : _) (x2 : _) (x3 : _) (x4 : _) (x5 : _) : (State.sendFirst s x1 x2 x3 x4 x5).net = s.net := by
  unfold State.sendFirst
  repeat' first | with_reducible rfl | with_reducible assumption | intro _ | simp only [State.sendMsg_net, State.setSlot_net, net_mk, net_eta, Iter.state_done, Iter.state_fmt, Iter.state_trap, Whole.state_ran, Whole.state_stopped, Whole.state_denied] | split | with_reducible refine (foldl_net _ ?_ _ _).trans ?_

@[simp] theorem State.creditBackAux_net (s : State) (x0 : _) (x1 : _) (x2 : _) (x3 : _) : (State.creditBackAux x0 x1 x2 x3 s).net = s.net := by
  induction x3 generalizing s with
  | zero => unfold State.creditBackAux; repeat' first | with_reducible rfl | with_reducible assumption | intro _ | simp only [State.sendMsg_net, State.setSlot_net, net_mk, net_eta, Iter.state_done, Iter.state_fmt, Iter.state_trap, Whole.state_ran, Whole.state_stopped, Whole.state_denied] | split | with_reducible refine (foldl_net _ ?_ _ _).trans ?_
  | succ n ih =>
    unfold State.creditBackAux
    repeat' first | with_reducible rfl | with_reducible assumption | intro _ | simp only [ih, State.sendMsg_net, State.setSlot_net, net_mk, net_eta, Iter.state_done, Iter.state_fmt, Iter.state_trap, Whole.state_ran, Whole.state_stopped, Whole.state_denied] | split | with_reducible refine (foldl_net _ ?_ _ _).trans ?_

@[simp] theorem State.creditBack_net (s : State) (x1 : _) (x2 : _) (x3 : _) (x4 : _) : (State.creditBack s x1 x2 x3 x4).net = s.net := by
  unfold State.creditBack
  repeat' first | with_reducible rfl | with_reducible assumption | intro _ | simp only [State.creditBackAux_net, State.setSlot_net, net_mk, net_eta, Iter.state_done, Iter.state_fmt, Iter.state_trap, Whole.state_ran, Whole.state_stopped, Whole.state_denied] | split | with_reducible refine (foldl_net _ ?_ _ _).trans ?_

@[simp] theorem State.sendAck_net (s : State) (x1 : _) (x2 : _) (x3 : _) (x4 : _) : (State.sendAck s x1 x2 x3 x4).net = s.net := by
  unfold State.sendAck
  repeat' first | with_reducible rfl | with_reducible assumption | intro _ | simp only [State.sendCtrl_net, net_mk, net_eta, Iter.state_done, Iter.state_fmt, Iter.state_trap, Whole.state_ran, Whole.state_stopped, Whole.state_denied] | split | with_reducible refine (foldl_net _ ?_ _ _).trans ?_

@[simp] theorem State.returnStaging_net (s : State) (x1 : _) (x2 : _) (x3 : _) : (State.returnStaging s x1 x2 x3).net = s.net := by
  unfold State.returnStaging
  repeat' first | with_reducible rfl | with_reducible assumption | intro _ | simp only [State.sendAck_net, State.setSlot_net, net_mk, net_eta, Iter.state_done, Iter.state_fmt, Iter.state_trap, Whole.state_ran, Whole.state_stopped, Whole.state_denied] | split | with_reducible refine (foldl_net _ ?_ _ _).trans ?_

@[simp] theorem State.endDown_net (s : State) (x1 : _) (x2 : _) (x3 : _) (x4 : _) : (State.endDown s x1 x2 x3 x4).net = s.net := by
  unfold State.endDown
  repeat' first | with_reducible rfl | with_reducible assumption | intro _ | simp only [State.sendMsg_net, net_mk, net_eta, Iter.state_done, Iter.state_fmt, Iter.state_trap, Whole.state_ran, Whole.state_stopped, Whole.state_denied] | split | with_reducible refine (foldl_net _ ?_ _ _).trans ?_ | with_reducible refine (foldlB_net _ ?_ _ _).trans ?_ | with_reducible refine (foldl1_net _ ?_ _ _).trans ?_ | with_reducible refine (foldl2_net _ ?_ _ _).trans ?_

@[simp] theorem State.noteStatus_net (s : State) (x1 : _) (x2 : _) : (State.noteStatus s x1 x2).net = s.net := by
  unfold State.noteStatus
  repeat' first | with_reducible rfl | with_reducible assumption | intro _ | simp only [net_mk, net_eta, Iter.state_done, Iter.state_fmt, Iter.state_trap, Whole.state_ran, Whole.state_stopped, Whole.state_denied] | split | with_reducible refine (foldl_net _ ?_ _ _).trans ?_

@[simp] theorem State.modCtx_net (s : State) (x1 : _) (x2 : _) : (State.modCtx s x1 x2).net = s.net := by
  unfold State.modCtx
  repeat' first | with_reducible rfl | with_reducible assumption | intro _ | simp only [net_mk, net_eta, Iter.state_done, Iter.state_fmt, Iter.state_trap, Whole.state_ran, Whole.state_stopped, Whole.state_denied] | split | with_reducible refine (foldl_net _ ?_ _ _).trans ?_

@[simp] theorem State.freeAfter_net (s : State) (x1 : _) (x2 : _) : (State.freeAfter s x1 x2).net = s.net := by
  unfold State.freeAfter
  repeat' first | with_reducible rfl | with_reducible assumption | intro _ | simp only [State.modCtx_net, net_mk, net_eta, Iter.state_done, Iter.state_fmt, Iter.state_trap, Whole.state_ran, Whole.state_stopped, Whole.state_denied] | split | with_reducible refine (foldl_net _ ?_ _ _).trans ?_

@[simp] theorem State.closeSlot_net (s : State) (x1 : _) (x2 : _) : (State.closeSlot s x1 x2).net = s.net := by
  unfold State.closeSlot
  repeat' first | with_reducible rfl | with_reducible assumption | intro _ | simp only [State.bump_net, State.closeStreams_net, State.freeAfter_net, State.noteStatus_net, State.sendMsg_net, State.setSlot_net, net_mk, net_eta, Iter.state_done, Iter.state_fmt, Iter.state_trap, Whole.state_ran, Whole.state_stopped, Whole.state_denied] | split | with_reducible refine (foldl_net _ ?_ _ _).trans ?_ | with_reducible refine (foldlB_net _ ?_ _ _).trans ?_ | with_reducible refine (foldl1_net _ ?_ _ _).trans ?_ | with_reducible refine (foldl2_net _ ?_ _ _).trans ?_

@[simp] theorem State.sendEnds_net (s : State) (x1 : _) (x2 : _) (x3 : _) : (State.sendEnds s x1 x2 x3).net = s.net := by
  unfold State.sendEnds
  repeat' first | with_reducible rfl | with_reducible assumption | intro _ | simp only [State.endDown_net, State.sendMsg_net, net_mk, net_eta, Iter.state_done, Iter.state_fmt, Iter.state_trap, Whole.state_ran, Whole.state_stopped, Whole.state_denied] | split | with_reducible refine (foldl_net _ ?_ _ _).trans ?_ | with_reducible refine (foldlB_net _ ?_ _ _).trans ?_ | with_reducible refine (foldl1_net _ ?_ _ _).trans ?_ | with_reducible refine (foldl2_net _ ?_ _ _).trans ?_

@[simp] theorem State.stopQueues_net (s : State) (x1 : _) : (State.stopQueues s x1).net = s.net := by
  unfold State.stopQueues
  repeat' first | with_reducible rfl | with_reducible assumption | intro _ | simp only [net_mk, net_eta, Iter.state_done, Iter.state_fmt, Iter.state_trap, Whole.state_ran, Whole.state_stopped, Whole.state_denied] | split | with_reducible refine (foldl_net _ ?_ _ _).trans ?_

@[simp] theorem State.failInstance_net (s : State) (x1 : _) (x2 : _) (x3 : _) : (State.failInstance s x1 x2 x3).net = s.net := by
  unfold State.failInstance
  repeat' first | with_reducible rfl | with_reducible assumption | intro _ | simp only [State.closeSlot_net, State.sendEnds_net, State.setSlot_net, State.stopQueues_net, net_mk, net_eta, Iter.state_done, Iter.state_fmt, Iter.state_trap, Whole.state_ran, Whole.state_stopped, Whole.state_denied] | split | with_reducible refine (foldl_net _ ?_ _ _).trans ?_

@[simp] theorem State.endNow_net (s : State) (x1 : _) (x2 : _) (x3 : _) : (State.endNow s x1 x2 x3).net = s.net := by
  unfold State.endNow
  repeat' first | with_reducible rfl | with_reducible assumption | intro _ | simp only [State.closeSlot_net, State.failInstance_net, net_mk, net_eta, Iter.state_done, Iter.state_fmt, Iter.state_trap, Whole.state_ran, Whole.state_stopped, Whole.state_denied] | split | with_reducible refine (foldl_net _ ?_ _ _).trans ?_

@[simp] theorem State.maybeClose_net (s : State) (x1 : _) : (State.maybeClose s x1).net = s.net := by
  unfold State.maybeClose
  repeat' first | with_reducible rfl | with_reducible assumption | intro _ | simp only [State.closeSlot_net, State.releaseStreams_net, net_mk, net_eta, Iter.state_done, Iter.state_fmt, Iter.state_trap, Whole.state_ran, Whole.state_stopped, Whole.state_denied] | split | with_reducible refine (foldl_net _ ?_ _ _).trans ?_

@[simp] theorem State.rootEnd_net (s : State) (x1 : _) (x2 : _) : (State.rootEnd s x1 x2).net = s.net := by
  unfold State.rootEnd
  repeat' first | with_reducible rfl | with_reducible assumption | intro _ | simp only [State.endDown_net, State.maybeClose_net, State.setSlot_net, net_mk, net_eta, Iter.state_done, Iter.state_fmt, Iter.state_trap, Whole.state_ran, Whole.state_stopped, Whole.state_denied] | split | with_reducible refine (foldl_net _ ?_ _ _).trans ?_

@[simp] theorem State.mismatch_net (s : State) (x1 : _) (x2 : _) : (State.mismatch s x1 x2).net = s.net := by
  unfold State.mismatch
  repeat' first | with_reducible rfl | with_reducible assumption | intro _ | simp only [State.bump_net, State.failInstance_net, State.raise_net, State.setSlot_net, net_mk, net_eta, Iter.state_done, Iter.state_fmt, Iter.state_trap, Whole.state_ran, Whole.state_stopped, Whole.state_denied] | split | with_reducible refine (foldl_net _ ?_ _ _).trans ?_

@[simp] theorem State.retire_net (s : State) (x1 : _) : (State.retire s x1).net = s.net := by
  unfold State.retire
  repeat' first | with_reducible rfl | with_reducible assumption | intro _ | simp only [State.bump_net, net_mk, net_eta, Iter.state_done, Iter.state_fmt, Iter.state_trap, Whole.state_ran, Whole.state_stopped, Whole.state_denied] | split | with_reducible refine (foldl_net _ ?_ _ _).trans ?_

@[simp] theorem State.memWrite_net (s : State) (x1 : _) (x2 : _) : (State.memWrite s x1 x2).net = s.net := by
  unfold State.memWrite
  repeat' first | with_reducible rfl | with_reducible assumption | intro _ | simp only [net_mk, net_eta, Iter.state_done, Iter.state_fmt, Iter.state_trap, Whole.state_ran, Whole.state_stopped, Whole.state_denied] | split | with_reducible refine (foldl_net _ ?_ _ _).trans ?_

@[simp] theorem State.memClear_net (s : State) (x1 : _) (x2 : _) : (State.memClear s x1 x2).net = s.net := by
  unfold State.memClear
  repeat' first | with_reducible rfl | with_reducible assumption | intro _ | simp only [net_mk, net_eta, Iter.state_done, Iter.state_fmt, Iter.state_trap, Whole.state_ran, Whole.state_stopped, Whole.state_denied] | split | with_reducible refine (foldl_net _ ?_ _ _).trans ?_

@[simp] theorem State.noteTerm_net (s : State) (x1 : _) : (State.noteTerm s x1).net = s.net := by
  unfold State.noteTerm
  repeat' first | with_reducible rfl | with_reducible assumption | intro _ | simp only [net_mk, net_eta, Iter.state_done, Iter.state_fmt, Iter.state_trap, Whole.state_ran, Whole.state_stopped, Whole.state_denied] | split | with_reducible refine (foldl_net _ ?_ _ _).trans ?_

@[simp] theorem State.sendGranule_net (s : State) (x1 : _) (x2 : _) (x3 : _) : (State.sendGranule s x1 x2 x3).net = s.net := by
  unfold State.sendGranule
  repeat' first | with_reducible rfl | with_reducible assumption | intro _ | simp only [State.sendMessage_net, net_mk, net_eta, Iter.state_done, Iter.state_fmt, Iter.state_trap, Whole.state_ran, Whole.state_stopped, Whole.state_denied] | split | with_reducible refine (foldl_net _ ?_ _ _).trans ?_

@[simp] theorem State.resend_net (s : State) (x1 : _) : (State.resend s x1).net = s.net := by
  unfold State.resend
  repeat' first | with_reducible rfl | with_reducible assumption | intro _ | simp only [State.sendGranule_net, net_mk, net_eta, Iter.state_done, Iter.state_fmt, Iter.state_trap, Whole.state_ran, Whole.state_stopped, Whole.state_denied] | split | with_reducible refine (foldl_net _ ?_ _ _).trans ?_

@[simp] theorem State.stateWrite_net (s : State) (x1 : _) (x2 : _) : (State.stateWrite s x1 x2).net = s.net := by
  unfold State.stateWrite
  repeat' first | with_reducible rfl | with_reducible assumption | intro _ | simp only [State.memWrite_net, State.noteTerm_net, State.resend_net, net_mk, net_eta, Iter.state_done, Iter.state_fmt, Iter.state_trap, Whole.state_ran, Whole.state_stopped, Whole.state_denied] | split | with_reducible refine (foldl_net _ ?_ _ _).trans ?_ | with_reducible refine (foldlB_net _ ?_ _ _).trans ?_ | with_reducible refine (foldl1_net _ ?_ _ _).trans ?_ | with_reducible refine (foldl2_net _ ?_ _ _).trans ?_

@[simp] theorem State.freeContexts_net (s : State) : (State.freeContexts s).net = s.net := by
  unfold State.freeContexts
  repeat' first | with_reducible rfl | with_reducible assumption | intro _ | simp only [net_mk, net_eta, Iter.state_done, Iter.state_fmt, Iter.state_trap, Whole.state_ran, Whole.state_stopped, Whole.state_denied] | split | with_reducible refine (foldl_net _ ?_ _ _).trans ?_

@[simp] theorem State.removePlan_net (s : State) (x1 : _) : (State.removePlan s x1).net = s.net := by
  unfold State.removePlan
  repeat' first | with_reducible rfl | with_reducible assumption | intro _ | simp only [State.endNow_net, State.freeContexts_net, State.rebuildGroups_net, net_mk, net_eta, Iter.state_done, Iter.state_fmt, Iter.state_trap, Whole.state_ran, Whole.state_stopped, Whole.state_denied] | split | with_reducible refine (foldl_net _ ?_ _ _).trans ?_ | with_reducible refine (foldlB_net _ ?_ _ _).trans ?_ | with_reducible refine (foldl1_net _ ?_ _ _).trans ?_ | with_reducible refine (foldl2_net _ ?_ _ _).trans ?_

@[simp] theorem State.zeroRetire_net (s : State) (x1 : _) : (State.zeroRetire s x1).net = s.net := by
  unfold State.zeroRetire
  repeat' first | with_reducible rfl | with_reducible assumption | intro _ | simp only [State.memClear_net, State.retire_net, net_mk, net_eta, Iter.state_done, Iter.state_fmt, Iter.state_trap, Whole.state_ran, Whole.state_stopped, Whole.state_denied] | split | with_reducible refine (foldl_net _ ?_ _ _).trans ?_

@[simp] theorem State.putTables_net (s : State) (x1 : _) (x2 : _) : (State.putTables s x1 x2).net = s.net := by
  unfold State.putTables
  repeat' first | with_reducible rfl | with_reducible assumption | intro _ | simp only [net_mk, net_eta, Iter.state_done, Iter.state_fmt, Iter.state_trap, Whole.state_ran, Whole.state_stopped, Whole.state_denied] | split | with_reducible refine (foldl_net _ ?_ _ _).trans ?_

@[simp] theorem State.queueHeal_net (s : State) (x1 : _) (x2 : _) : (State.queueHeal s x1 x2).net = s.net := by
  unfold State.queueHeal
  repeat' first | with_reducible rfl | with_reducible assumption | intro _ | simp only [net_mk, net_eta, Iter.state_done, Iter.state_fmt, Iter.state_trap, Whole.state_ran, Whole.state_stopped, Whole.state_denied] | split | with_reducible refine (foldl_net _ ?_ _ _).trans ?_

@[simp] theorem State.planGranuleBad_net (s : State) (x1 : _) : (State.planGranuleBad s x1).net = s.net := by
  unfold State.planGranuleBad
  repeat' first | with_reducible rfl | with_reducible assumption | intro _ | simp only [State.queueHeal_net, State.removePlan_net, State.zeroRetire_net, net_mk, net_eta, Iter.state_done, Iter.state_fmt, Iter.state_trap, Whole.state_ran, Whole.state_stopped, Whole.state_denied] | split | with_reducible refine (foldl_net _ ?_ _ _).trans ?_ | with_reducible refine (foldlB_net _ ?_ _ _).trans ?_ | with_reducible refine (foldl1_net _ ?_ _ _).trans ?_ | with_reducible refine (foldl2_net _ ?_ _ _).trans ?_

@[simp] theorem State.kvGranuleBad_net (s : State) (x1 : _) : (State.kvGranuleBad s x1).net = s.net := by
  unfold State.kvGranuleBad
  repeat' first | with_reducible rfl | with_reducible assumption | intro _ | simp only [State.zeroRetire_net, net_mk, net_eta, Iter.state_done, Iter.state_fmt, Iter.state_trap, Whole.state_ran, Whole.state_stopped, Whole.state_denied] | split | with_reducible refine (foldl_net _ ?_ _ _).trans ?_

@[simp] theorem State.spillGranuleBad_net (s : State) (x1 : _) : (State.spillGranuleBad s x1).net = s.net := by
  unfold State.spillGranuleBad
  repeat' first | with_reducible rfl | with_reducible assumption | intro _ | simp only [State.failInstance_net, State.zeroRetire_net, net_mk, net_eta, Iter.state_done, Iter.state_fmt, Iter.state_trap, Whole.state_ran, Whole.state_stopped, Whole.state_denied] | split | with_reducible refine (foldl_net _ ?_ _ _).trans ?_ | with_reducible refine (foldlB_net _ ?_ _ _).trans ?_ | with_reducible refine (foldl1_net _ ?_ _ _).trans ?_ | with_reducible refine (foldl2_net _ ?_ _ _).trans ?_

@[simp] theorem State.logUe_net (s : State) (x1 : _) : (State.logUe s x1).net = s.net := by
  unfold State.logUe
  repeat' first | with_reducible rfl | with_reducible assumption | intro _ | simp only [State.bump_net, State.raise_net, net_mk, net_eta, Iter.state_done, Iter.state_fmt, Iter.state_trap, Whole.state_ran, Whole.state_stopped, Whole.state_denied] | split | with_reducible refine (foldl_net _ ?_ _ _).trans ?_

@[simp] theorem State.xorBlock_net (s : State) (x1 : _) (x2 : _) : (State.xorBlock s x1 x2).net = s.net := by
  unfold State.xorBlock
  repeat' first | with_reducible rfl | with_reducible assumption | intro _ | simp only [State.memWrite_net, net_mk, net_eta, Iter.state_done, Iter.state_fmt, Iter.state_trap, Whole.state_ran, Whole.state_stopped, Whole.state_denied] | split | with_reducible refine (foldl_net _ ?_ _ _).trans ?_ | with_reducible refine (foldlB_net _ ?_ _ _).trans ?_ | with_reducible refine (foldl1_net _ ?_ _ _).trans ?_ | with_reducible refine (foldl2_net _ ?_ _ _).trans ?_

@[simp] theorem State.badGranule_net (s : State) (x1 : _) : (State.badGranule s x1).net = s.net := by
  unfold State.badGranule
  repeat' first | with_reducible rfl | with_reducible assumption | intro _ | simp only [State.kvGranuleBad_net, State.planGranuleBad_net, State.queueHeal_net, State.spillGranuleBad_net, State.zeroRetire_net, net_mk, net_eta, Iter.state_done, Iter.state_fmt, Iter.state_trap, Whole.state_ran, Whole.state_stopped, Whole.state_denied] | split | with_reducible refine (foldl_net _ ?_ _ _).trans ?_

@[simp] theorem State.chargeChannel_net (s : State) (x1 : _) (x2 : _) : (State.chargeChannel s x1 x2).net = s.net := by
  unfold State.chargeChannel
  repeat' first | with_reducible rfl | with_reducible assumption | intro _ | simp only [net_mk, net_eta, Iter.state_done, Iter.state_fmt, Iter.state_trap, Whole.state_ran, Whole.state_stopped, Whole.state_denied] | split | with_reducible refine (foldl_net _ ?_ _ _).trans ?_

@[simp] theorem State.upset_net (s : State) (x1 : _) (x2 : _) : (State.upset s x1 x2).net = s.net := by
  unfold State.upset
  repeat' first | with_reducible rfl | with_reducible assumption | intro _ | simp only [net_mk, net_eta, Iter.state_done, Iter.state_fmt, Iter.state_trap, Whole.state_ran, Whole.state_stopped, Whole.state_denied] | split | with_reducible refine (foldl_net _ ?_ _ _).trans ?_

@[simp] theorem State.rewrite_net (s : State) (x1 : _) : (State.rewrite s x1).net = s.net := by
  unfold State.rewrite
  repeat' first | with_reducible rfl | with_reducible assumption | intro _ | simp only [net_mk, net_eta, Iter.state_done, Iter.state_fmt, Iter.state_trap, Whole.state_ran, Whole.state_stopped, Whole.state_denied] | split | with_reducible refine (foldl_net _ ?_ _ _).trans ?_

@[simp] theorem State.readBlock_net (s : State) (x1 : _) : (State.readBlock s x1).net = s.net := by
  unfold State.readBlock
  repeat' first | with_reducible rfl | with_reducible assumption | intro _ | simp only [State.badGranule_net, State.bump_net, State.chargeChannel_net, State.logUe_net, State.rewrite_net, State.xorBlock_net, net_mk, net_eta, Iter.state_done, Iter.state_fmt, Iter.state_trap, Whole.state_ran, Whole.state_stopped, Whole.state_denied] | split | with_reducible refine (foldl_net _ ?_ _ _).trans ?_

@[simp] theorem State.fetchRange_net (s : State) (x1 : _) (x2 : _) : (State.fetchRange s x1 x2).net = s.net := by
  unfold State.fetchRange
  repeat' first | with_reducible rfl | with_reducible assumption | intro _ | simp only [State.readBlock_net, net_mk, net_eta, Iter.state_done, Iter.state_fmt, Iter.state_trap, Whole.state_ran, Whole.state_stopped, Whole.state_denied] | split | with_reducible refine (foldl_net _ ?_ _ _).trans ?_ | with_reducible refine (foldlB_net _ ?_ _ _).trans ?_ | with_reducible refine (foldl1_net _ ?_ _ _).trans ?_ | with_reducible refine (foldl2_net _ ?_ _ _).trans ?_

@[simp] theorem State.fetchEdges_net (s : State) (x1 : _) (x2 : _) : (State.fetchEdges s x1 x2).net = s.net := by
  unfold State.fetchEdges
  repeat' first | with_reducible rfl | with_reducible assumption | intro _ | simp only [State.readBlock_net, net_mk, net_eta, Iter.state_done, Iter.state_fmt, Iter.state_trap, Whole.state_ran, Whole.state_stopped, Whole.state_denied] | split | with_reducible refine (foldl_net _ ?_ _ _).trans ?_ | with_reducible refine (foldlB_net _ ?_ _ _).trans ?_ | with_reducible refine (foldl1_net _ ?_ _ _).trans ?_ | with_reducible refine (foldl2_net _ ?_ _ _).trans ?_

@[simp] theorem State.fetchObject_net (s : State) (x1 : _) (x2 : _) : (State.fetchObject s x1 x2).net = s.net := by
  unfold State.fetchObject
  repeat' first | with_reducible rfl | with_reducible assumption | intro _ | simp only [State.readBlock_net, net_mk, net_eta, Iter.state_done, Iter.state_fmt, Iter.state_trap, Whole.state_ran, Whole.state_stopped, Whole.state_denied] | split | with_reducible refine (foldl_net _ ?_ _ _).trans ?_ | with_reducible refine (foldlB_net _ ?_ _ _).trans ?_ | with_reducible refine (foldl1_net _ ?_ _ _).trans ?_ | with_reducible refine (foldl2_net _ ?_ _ _).trans ?_

@[simp] theorem State.fetchAll_net (s : State) (x1 : _) (x2 : _) : (State.fetchAll s x1 x2).net = s.net := by
  unfold State.fetchAll
  repeat' first | with_reducible rfl | with_reducible assumption | intro _ | simp only [State.fetchEdges_net, State.fetchRange_net, net_mk, net_eta, Iter.state_done, Iter.state_fmt, Iter.state_trap, Whole.state_ran, Whole.state_stopped, Whole.state_denied] | split | with_reducible refine (foldl_net _ ?_ _ _).trans ?_ | with_reducible refine (foldlB_net _ ?_ _ _).trans ?_ | with_reducible refine (foldl1_net _ ?_ _ _).trans ?_ | with_reducible refine (foldl2_net _ ?_ _ _).trans ?_

@[simp] theorem State.setHeader_net (s : State) (x1 : _) (x2 : _) (x3 : _) (x4 : _) (x5 : _) (x6 : _) : (State.setHeader s x1 x2 x3 x4 x5 x6).net = s.net := by
  unfold State.setHeader
  repeat' first | with_reducible rfl | with_reducible assumption | intro _ | simp only [State.stateWrite_net, net_mk, net_eta, Iter.state_done, Iter.state_fmt, Iter.state_trap, Whole.state_ran, Whole.state_stopped, Whole.state_denied] | split | with_reducible refine (foldl_net _ ?_ _ _).trans ?_

@[simp] theorem State.firstUpdate_net (s : State) (x1 : _) (x2 : _) : (State.firstUpdate s x1 x2).net = s.net := by
  unfold State.firstUpdate
  repeat' first | with_reducible rfl | with_reducible assumption | intro _ | simp only [State.setHeader_net, net_mk, net_eta, Iter.state_done, Iter.state_fmt, Iter.state_trap, Whole.state_ran, Whole.state_stopped, Whole.state_denied] | split | with_reducible refine (foldl_net _ ?_ _ _).trans ?_

@[simp] theorem State.markSegments_net (s : State) (x1 : _) (x2 : _) (x3 : _) : (State.markSegments s x1 x2 x3).net = s.net := by
  unfold State.markSegments
  repeat' first | with_reducible rfl | with_reducible assumption | intro _ | simp only [net_mk, net_eta, Iter.state_done, Iter.state_fmt, Iter.state_trap, Whole.state_ran, Whole.state_stopped, Whole.state_denied] | split | with_reducible refine (foldl_net _ ?_ _ _).trans ?_

@[simp] theorem State.applyElems_net (s : State) (x1 : _) (x2 : _) (x3 : _) (x4 : _) (x5 : _) (x6 : _) : (State.applyElems s x1 x2 x3 x4 x5 x6).2.net = s.net := by
  unfold State.applyElems
  repeat' first | with_reducible rfl | with_reducible assumption | intro _ | simp only [State.firstUpdate_net, State.markSegments_net, State.stateWrite_net, net_mk, net_eta, Iter.state_done, Iter.state_fmt, Iter.state_trap, Whole.state_ran, Whole.state_stopped, Whole.state_denied] | split | with_reducible refine (foldl_net _ ?_ _ _).trans ?_

@[simp] theorem State.applyWhole_net (s : State) (x1 : _) (x2 : _) (x3 : _) (x4 : _) (x5 : _) : (State.applyWhole s x1 x2 x3 x4 x5).net = s.net := by
  unfold State.applyWhole
  repeat' first | with_reducible rfl | with_reducible assumption | intro _ | simp only [State.firstUpdate_net, State.markSegments_net, State.stateWrite_net, net_mk, net_eta, Iter.state_done, Iter.state_fmt, Iter.state_trap, Whole.state_ran, Whole.state_stopped, Whole.state_denied] | split | with_reducible refine (foldl_net _ ?_ _ _).trans ?_

@[simp] theorem State.copyBank_net (s : State) (x1 : _) (x2 : _) : (State.copyBank s x1 x2).net = s.net := by
  unfold State.copyBank
  repeat' first | with_reducible rfl | with_reducible assumption | intro _ | simp only [State.stateWrite_net, net_mk, net_eta, Iter.state_done, Iter.state_fmt, Iter.state_trap, Whole.state_ran, Whole.state_stopped, Whole.state_denied] | split | with_reducible refine (foldl_net _ ?_ _ _).trans ?_

@[simp] theorem State.carryShard_net (s : State) (x1 : _) (x2 : _) : (State.carryShard s x1 x2).net = s.net := by
  unfold State.carryShard
  repeat' first | with_reducible rfl | with_reducible assumption | intro _ | simp only [State.bump_net, State.copyBank_net, net_mk, net_eta, Iter.state_done, Iter.state_fmt, Iter.state_trap, Whole.state_ran, Whole.state_stopped, Whole.state_denied] | split | with_reducible refine (foldl_net _ ?_ _ _).trans ?_ | with_reducible refine (foldlB_net _ ?_ _ _).trans ?_ | with_reducible refine (foldl1_net _ ?_ _ _).trans ?_ | with_reducible refine (foldl2_net _ ?_ _ _).trans ?_

@[simp] theorem State.carryAll_net (s : State) : (State.carryAll s).net = s.net := by
  unfold State.carryAll
  repeat' first | with_reducible rfl | with_reducible assumption | intro _ | simp only [State.carryShard_net, net_mk, net_eta, Iter.state_done, Iter.state_fmt, Iter.state_trap, Whole.state_ran, Whole.state_stopped, Whole.state_denied] | split | with_reducible refine (foldl_net _ ?_ _ _).trans ?_ | with_reducible refine (foldlB_net _ ?_ _ _).trans ?_ | with_reducible refine (foldl1_net _ ?_ _ _).trans ?_ | with_reducible refine (foldl2_net _ ?_ _ _).trans ?_

@[simp] theorem State.exchange_net (s : State) (x1 : _) : (State.exchange s x1).net = s.net := by
  unfold State.exchange
  repeat' first | with_reducible rfl | with_reducible assumption | intro _ | simp only [State.bump_net, State.raise_net, net_mk, net_eta, Iter.state_done, Iter.state_fmt, Iter.state_trap, Whole.state_ran, Whole.state_stopped, Whole.state_denied] | split | with_reducible refine (foldl_net _ ?_ _ _).trans ?_

@[simp] theorem State.commit_net (s : State) (x1 : _) : (State.commit s x1).net = s.net := by
  unfold State.commit
  repeat' first | with_reducible rfl | with_reducible assumption | intro _ | simp only [State.bump_net, State.sendCtrl_net, net_mk, net_eta, Iter.state_done, Iter.state_fmt, Iter.state_trap, Whole.state_ran, Whole.state_stopped, Whole.state_denied] | split | with_reducible refine (foldl_net _ ?_ _ _).trans ?_

@[simp] theorem State.abortAll_net (s : State) (x1 : _) : (State.abortAll s x1).net = s.net := by
  unfold State.abortAll
  repeat' first | with_reducible rfl | with_reducible assumption | intro _ | simp only [State.endNow_net, net_mk, net_eta, Iter.state_done, Iter.state_fmt, Iter.state_trap, Whole.state_ran, Whole.state_stopped, Whole.state_denied] | split | with_reducible refine (foldl_net _ ?_ _ _).trans ?_ | with_reducible refine (foldlB_net _ ?_ _ _).trans ?_ | with_reducible refine (foldl1_net _ ?_ _ _).trans ?_ | with_reducible refine (foldl2_net _ ?_ _ _).trans ?_

@[simp] theorem State.clearSlots_net (s : State) (x1 : _) : (State.clearSlots s x1).net = s.net := by
  unfold State.clearSlots
  repeat' first | with_reducible rfl | with_reducible assumption | intro _ | simp only [State.dropStreams_net, net_mk, net_eta, Iter.state_done, Iter.state_fmt, Iter.state_trap, Whole.state_ran, Whole.state_stopped, Whole.state_denied] | split | with_reducible refine (foldl_net _ ?_ _ _).trans ?_ | with_reducible refine (foldlB_net _ ?_ _ _).trans ?_ | with_reducible refine (foldl1_net _ ?_ _ _).trans ?_ | with_reducible refine (foldl2_net _ ?_ _ _).trans ?_

@[simp] theorem State.discardStep_net (s : State) : (State.discardStep s).net = s.net := by
  unfold State.discardStep
  repeat' first | with_reducible rfl | with_reducible assumption | intro _ | simp only [net_mk, net_eta, Iter.state_done, Iter.state_fmt, Iter.state_trap, Whole.state_ran, Whole.state_stopped, Whole.state_denied] | split | with_reducible refine (foldl_net _ ?_ _ _).trans ?_

@[simp] theorem State.refuse_net (s : State) (x1 : _) : (State.refuse s x1).net = s.net := by
  unfold State.refuse
  repeat' first | with_reducible rfl | with_reducible assumption | intro _ | simp only [State.abortAll_net, State.bump_net, State.clearSlots_net, State.discardStep_net, State.raise_net, net_mk, net_eta, Iter.state_done, Iter.state_fmt, Iter.state_trap, Whole.state_ran, Whole.state_stopped, Whole.state_denied] | split | with_reducible refine (foldl_net _ ?_ _ _).trans ?_

@[simp] theorem State.barrierResult_net (s : State) (x1 : _) (x2 : _) : (State.barrierResult s x1 x2).net = s.net := by
  unfold State.barrierResult
  repeat' first | with_reducible rfl | with_reducible assumption | intro _ | simp only [State.commit_net, State.refuse_net, net_mk, net_eta, Iter.state_done, Iter.state_fmt, Iter.state_trap, Whole.state_ran, Whole.state_stopped, Whole.state_denied] | split | with_reducible refine (foldl_net _ ?_ _ _).trans ?_

@[simp] theorem State.acceptRug_net (s : State) (x1 : _) (x2 : _) : (State.acceptRug s x1 x2).net = s.net := by
  unfold State.acceptRug
  repeat' first | with_reducible rfl | with_reducible assumption | intro _ | simp only [State.failInstance_net, State.raise_net, net_mk, net_eta, Iter.state_done, Iter.state_fmt, Iter.state_trap, Whole.state_ran, Whole.state_stopped, Whole.state_denied] | split | with_reducible refine (foldl_net _ ?_ _ _).trans ?_

@[simp] theorem State.gatherBytes_net (s : State) (x1 : _) (x2 : _) (x3 : _) : (State.gatherBytes s x1 x2 x3).2.net = s.net := by
  unfold State.gatherBytes
  repeat' first | with_reducible rfl | with_reducible assumption | intro _ | simp only [State.bump_net, net_mk, net_eta, Iter.state_done, Iter.state_fmt, Iter.state_trap, Whole.state_ran, Whole.state_stopped, Whole.state_denied] | split | with_reducible refine (foldl_net _ ?_ _ _).trans ?_

@[simp] theorem State.spaceWrite_net (s : State) (x1 : _) (x2 : _) (x3 : _) : (State.spaceWrite s x1 x2 x3).net = s.net := by
  unfold State.spaceWrite
  repeat' first | with_reducible rfl | with_reducible assumption | intro _ | simp only [State.stateWrite_net, net_mk, net_eta, Iter.state_done, Iter.state_fmt, Iter.state_trap, Whole.state_ran, Whole.state_stopped, Whole.state_denied] | split | with_reducible refine (foldl_net _ ?_ _ _).trans ?_

@[simp] theorem State.putCode_net (s : State) (x1 : _) (x2 : _) : (State.putCode s x1 x2).net = s.net := by
  unfold State.putCode
  repeat' first | with_reducible rfl | with_reducible assumption | intro _ | simp only [State.spaceWrite_net, net_mk, net_eta, Iter.state_done, Iter.state_fmt, Iter.state_trap, Whole.state_ran, Whole.state_stopped, Whole.state_denied] | split | with_reducible refine (foldl_net _ ?_ _ _).trans ?_

@[simp] theorem State.fetchPlace_net (s : State) (x1 : _) : (State.fetchPlace s x1).net = s.net := by
  unfold State.fetchPlace
  repeat' first | with_reducible rfl | with_reducible assumption | intro _ | simp only [State.fetchRange_net, net_mk, net_eta, Iter.state_done, Iter.state_fmt, Iter.state_trap, Whole.state_ran, Whole.state_stopped, Whole.state_denied] | split | with_reducible refine (foldl_net _ ?_ _ _).trans ?_

theorem State.putAt_net {s t : State} {d : Descr} {ix : List Nat} {c : Nat} (h : s.putAt d ix c = some t) : t.net = s.net := by
  unfold State.putAt at h
  obtain ⟨p, _, rfl⟩ := Option.map_eq_some_iff.mp h
  exact State.putCode_net s p c

theorem State.putAt_getD_net (s : State) (d : Descr) (ix : List Nat) (c : Nat) : ((s.putAt d ix c).getD s).net = s.net := by
  cases h : s.putAt d ix c with
  | none => rfl
  | some t => exact State.putAt_net h

@[simp] theorem State.putWalk_net (s : State) (d : Descr) (n : Nat) (l : List Nat) : (s.putWalk d n l).net = s.net := by
  unfold State.putWalk
  refine foldl_net _ ?_ _ _
  intro t a
  rw [State.putAt_getD_net]

@[simp] theorem State.putCodes_net (s : State) (d : Descr) (l : List (List Nat)) (cs : List Nat) : (s.putCodes d l cs).1.net = s.net := by
  induction cs generalizing s l with
  | nil => simp only [State.putCodes]
  | cons c cs ih =>
    cases l with
    | nil => simp only [State.putCodes]
    | cons ix t =>
      rw [State.putCodes]
      split
      · rename_i u hu
        rw [ih, State.putAt_net hu]
      · rfl

@[simp] theorem State.replaceLayer_net (s : State) (x1 : _) (x2 : _) (x3 : _) : (State.replaceLayer s x1 x2 x3).net = s.net := by
  unfold State.replaceLayer
  repeat' first | with_reducible rfl | with_reducible assumption | intro _ | simp only [State.modCtx_net, net_mk, net_eta, Iter.state_done, Iter.state_fmt, Iter.state_trap, Whole.state_ran, Whole.state_stopped, Whole.state_denied] | split | with_reducible refine (foldl_net _ ?_ _ _).trans ?_

@[simp] theorem State.seqOpen_net (s : State) (x1 : _) (x2 : _) : (State.seqOpen s x1 x2).net = s.net := by
  unfold State.seqOpen
  repeat' first | with_reducible rfl | with_reducible assumption | intro _ | simp only [State.modCtx_net, State.replaceLayer_net, net_mk, net_eta, Iter.state_done, Iter.state_fmt, Iter.state_trap, Whole.state_ran, Whole.state_stopped, Whole.state_denied] | split | with_reducible refine (foldl_net _ ?_ _ _).trans ?_

@[simp] theorem State.storeChunk_net (s : State) (x1 : _) (x2 : _) (x3 : _) (x4 : _) (x5 : _) : (State.storeChunk s x1 x2 x3 x4 x5).net = s.net := by
  unfold State.storeChunk
  repeat' first | with_reducible rfl | with_reducible assumption | intro _ | simp only [State.bump_net, State.modCtx_net, net_mk, net_eta, Iter.state_done, Iter.state_fmt, Iter.state_trap, Whole.state_ran, Whole.state_stopped, Whole.state_denied] | split | with_reducible refine (foldl_net _ ?_ _ _).trans ?_

@[simp] theorem State.seqDown_net (s : State) (x1 : _) (x2 : _) (x3 : _) (x4 : _) (x5 : _) (x6 : _) : (State.seqDown s x1 x2 x3 x4 x5 x6).net = s.net := by
  unfold State.seqDown
  repeat' first | with_reducible rfl | with_reducible assumption | intro _ | simp only [State.relayMessage_net, State.sendMsg_net, net_mk, net_eta, Iter.state_done, Iter.state_fmt, Iter.state_trap, Whole.state_ran, Whole.state_stopped, Whole.state_denied] | split | with_reducible refine (foldl_net _ ?_ _ _).trans ?_ | with_reducible refine (foldlB_net _ ?_ _ _).trans ?_ | with_reducible refine (foldl1_net _ ?_ _ _).trans ?_ | with_reducible refine (foldl2_net _ ?_ _ _).trans ?_

@[simp] theorem State.sendBlock_net (s : State) (x1 : _) (x2 : _) (x3 : _) (x4 : _) (x5 : _) (x6 : _) : (State.sendBlock s x1 x2 x3 x4 x5 x6).net = s.net := by
  unfold State.sendBlock
  repeat' first | with_reducible rfl | with_reducible assumption | intro _ | simp only [State.modSlot_net, State.seqDown_net, net_mk, net_eta, Iter.state_done, Iter.state_fmt, Iter.state_trap, Whole.state_ran, Whole.state_stopped, Whole.state_denied] | split | with_reducible refine (foldl_net _ ?_ _ _).trans ?_ | with_reducible refine (foldlB_net _ ?_ _ _).trans ?_ | with_reducible refine (foldl1_net _ ?_ _ _).trans ?_ | with_reducible refine (foldl2_net _ ?_ _ _).trans ?_

@[simp] theorem State.blockMissing_net (s : State) (x1 : _) (x2 : _) (x3 : _) (x4 : _) (x5 : _) : (State.blockMissing s x1 x2 x3 x4 x5).net = s.net := by
  unfold State.blockMissing
  repeat' first | with_reducible rfl | with_reducible assumption | intro _ | simp only [State.bump_net, State.modSlot_net, State.raise_net, State.sendBlock_net, net_mk, net_eta, Iter.state_done, Iter.state_fmt, Iter.state_trap, Whole.state_ran, Whole.state_stopped, Whole.state_denied] | split | with_reducible refine (foldl_net _ ?_ _ _).trans ?_

@[simp] theorem State.blocksFrom_net (s : State) (x0 : _) (x1 : _) (x2 : _) (x3 : _) (x4 : _) (x5 : _) : (State.blocksFrom x0 x1 x2 x3 x4 x5 s).net = s.net := by
  induction x4 generalizing x5 s with
  | zero => unfold State.blocksFrom; repeat' first | with_reducible rfl | with_reducible assumption | intro _ | simp only [State.blockMissing_net, State.fetchObject_net, State.sendBlock_net, net_mk, net_eta, Iter.state_done, Iter.state_fmt, Iter.state_trap, Whole.state_ran, Whole.state_stopped, Whole.state_denied] | split | with_reducible refine (foldl_net _ ?_ _ _).trans ?_
  | succ n ih =>
    unfold State.blocksFrom
    repeat' first | with_reducible rfl | with_reducible assumption | intro _ | simp only [ih, State.blockMissing_net, State.fetchObject_net, State.sendBlock_net, net_mk, net_eta, Iter.state_done, Iter.state_fmt, Iter.state_trap, Whole.state_ran, Whole.state_stopped, Whole.state_denied] | split | with_reducible refine (foldl_net _ ?_ _ _).trans ?_

@[simp] theorem State.storeStaged_net (s : State) (x1 : _) (x2 : _) (x3 : _) : (State.storeStaged s x1 x2 x3).net = s.net := by
  unfold State.storeStaged
  repeat' first | with_reducible rfl | with_reducible assumption | intro _ | simp only [State.replaceLayer_net, State.returnStaging_net, State.setSlot_net, State.storeChunk_net, net_mk, net_eta, Iter.state_done, Iter.state_fmt, Iter.state_trap, Whole.state_ran, Whole.state_stopped, Whole.state_denied] | split | with_reducible refine (foldl_net _ ?_ _ _).trans ?_ | with_reducible refine (foldlB_net _ ?_ _ _).trans ?_ | with_reducible refine (foldl1_net _ ?_ _ _).trans ?_ | with_reducible refine (foldl2_net _ ?_ _ _).trans ?_

@[simp] theorem State.seqAdvance_net (s : State) (x1 : _) : (State.seqAdvance s x1).net = s.net := by
  unfold State.seqAdvance
  repeat' first | with_reducible rfl | with_reducible assumption | intro _ | simp only [State.blocksFrom_net, State.failInstance_net, State.freeAfter_net, State.rootEnd_net, State.storeStaged_net, net_mk, net_eta, Iter.state_done, Iter.state_fmt, Iter.state_trap, Whole.state_ran, Whole.state_stopped, Whole.state_denied] | split | with_reducible refine (foldl_net _ ?_ _ _).trans ?_ | with_reducible refine (foldlB_net _ ?_ _ _).trans ?_ | with_reducible refine (foldl1_net _ ?_ _ _).trans ?_ | with_reducible refine (foldl2_net _ ?_ _ _).trans ?_

@[simp] theorem State.mirrorBad_net (s : State) (x1 : _) : (State.mirrorBad s x1).net = s.net := by
  unfold State.mirrorBad
  repeat' first | with_reducible rfl | with_reducible assumption | intro _ | simp only [State.bump_net, State.failInstance_net, net_mk, net_eta, Iter.state_done, Iter.state_fmt, Iter.state_trap, Whole.state_ran, Whole.state_stopped, Whole.state_denied] | split | with_reducible refine (foldl_net _ ?_ _ _).trans ?_

@[simp] theorem State.mirrorAccept_net (s : State) (x1 : _) : (State.mirrorAccept s x1).net = s.net := by
  unfold State.mirrorAccept
  repeat' first | with_reducible rfl | with_reducible assumption | intro _ | simp only [State.mirrorBad_net, State.setSlot_net, net_mk, net_eta, Iter.state_done, Iter.state_fmt, Iter.state_trap, Whole.state_ran, Whole.state_stopped, Whole.state_denied] | split | with_reducible refine (foldl_net _ ?_ _ _).trans ?_

@[simp] theorem State.releaseMirrors_net (s : State) (x1 : _) : (State.releaseMirrors s x1).net = s.net := by
  unfold State.releaseMirrors
  repeat' first | with_reducible rfl | with_reducible assumption | intro _ | simp only [State.mirrorAccept_net, net_mk, net_eta, Iter.state_done, Iter.state_fmt, Iter.state_trap, Whole.state_ran, Whole.state_stopped, Whole.state_denied] | split | with_reducible refine (foldl_net _ ?_ _ _).trans ?_ | with_reducible refine (foldlB_net _ ?_ _ _).trans ?_ | with_reducible refine (foldl1_net _ ?_ _ _).trans ?_ | with_reducible refine (foldl2_net _ ?_ _ _).trans ?_

@[simp] theorem State.dispOpen_net (s : State) (x1 : _) (x2 : _) (x3 : _) : (State.dispOpen s x1 x2 x3).net = s.net := by
  unfold State.dispOpen
  repeat' first | with_reducible rfl | with_reducible assumption | intro _ | simp only [State.failInstance_net, State.fetchObject_net, State.raise_net, net_mk, net_eta, Iter.state_done, Iter.state_fmt, Iter.state_trap, Whole.state_ran, Whole.state_stopped, Whole.state_denied] | split | with_reducible refine (foldl_net _ ?_ _ _).trans ?_

@[simp] theorem State.openInstance_net (s : State) (x1 : _) (x2 : _) (x3 : _) (x4 : _) (x5 : _) : (State.openInstance s x1 x2 x3 x4 x5).net = s.net := by
  unfold State.openInstance
  repeat' first | with_reducible rfl | with_reducible assumption | intro _ | simp only [State.acceptRug_net, State.dispOpen_net, State.failInstance_net, State.openSlot_net, State.releaseMirrors_net, State.seqOpen_net, net_mk, net_eta, Iter.state_done, Iter.state_fmt, Iter.state_trap, Whole.state_ran, Whole.state_stopped, Whole.state_denied] | split | with_reducible refine (foldl_net _ ?_ _ _).trans ?_

@[simp] theorem State.takeInbox_net (s : State) (x1 : _) (x2 : _) : (State.takeInbox s x1 x2).net = s.net := by
  unfold State.takeInbox
  repeat' first | with_reducible rfl | with_reducible assumption | intro _ | simp only [net_mk, net_eta, Iter.state_done, Iter.state_fmt, Iter.state_trap, Whole.state_ran, Whole.state_stopped, Whole.state_denied] | split | with_reducible refine (foldl_net _ ?_ _ _).trans ?_

@[simp] theorem State.takeCtrl_net (s : State) (x1 : _) (x2 : _) : (State.takeCtrl s x1 x2).net = s.net := by
  unfold State.takeCtrl
  repeat' first | with_reducible rfl | with_reducible assumption | intro _ | simp only [net_mk, net_eta, Iter.state_done, Iter.state_fmt, Iter.state_trap, Whole.state_ran, Whole.state_stopped, Whole.state_denied] | split | with_reducible refine (foldl_net _ ?_ _ _).trans ?_

@[simp] theorem State.straggle_net (s : State) (x1 : _) (x2 : _) : (State.straggle s x1 x2).net = s.net := by
  unfold State.straggle
  repeat' first | with_reducible rfl | with_reducible assumption | intro _ | simp only [State.fetchObject_net, net_mk, net_eta, Iter.state_done, Iter.state_fmt, Iter.state_trap, Whole.state_ran, Whole.state_stopped, Whole.state_denied] | split | with_reducible refine (foldl_net _ ?_ _ _).trans ?_

theorem State.takeCredit_net {s t : State} {h : BitVec 20} {k : Coll} {a : FA} {c : Nat} (e : s.takeCredit h k a c = some t) :
    t.net = s.net := by
  simp only [State.takeCredit] at e
  split at e
  · cases e; rfl
  · cases e

@[simp] theorem State.freeChunk_net (s : State) (x1 : _) (x2 : _) : (State.freeChunk s x1 x2).net = s.net := by
  unfold State.freeChunk
  repeat' first | with_reducible rfl | with_reducible assumption | intro _ | simp only [State.returnStaging_net, net_mk, net_eta, Iter.state_done, Iter.state_fmt, Iter.state_trap, Whole.state_ran, Whole.state_stopped, Whole.state_denied] | split | with_reducible refine (foldl_net _ ?_ _ _).trans ?_ | with_reducible refine (foldlB_net _ ?_ _ _).trans ?_ | with_reducible refine (foldl1_net _ ?_ _ _).trans ?_ | with_reducible refine (foldl2_net _ ?_ _ _).trans ?_

@[simp] theorem State.sendDown_net (s : State) (x1 : _) (x2 : _) (x3 : _) (x4 : _) (x5 : _) (x6 : _) : (State.sendDown s x1 x2 x3 x4 x5 x6).net = s.net := by
  unfold State.sendDown
  repeat' first | with_reducible rfl | with_reducible assumption | intro _ | simp only [State.sendMsg_net, net_mk, net_eta, Iter.state_done, Iter.state_fmt, Iter.state_trap, Whole.state_ran, Whole.state_stopped, Whole.state_denied] | split | with_reducible refine (foldl_net _ ?_ _ _).trans ?_ | with_reducible refine (foldlB_net _ ?_ _ _).trans ?_ | with_reducible refine (foldl1_net _ ?_ _ _).trans ?_ | with_reducible refine (foldl2_net _ ?_ _ _).trans ?_

@[simp] theorem State.markDown_net (s : State) (x1 : _) (x2 : _) : (State.markDown s x1 x2).net = s.net := by
  unfold State.markDown
  repeat' first | with_reducible rfl | with_reducible assumption | intro _ | simp only [State.modSlot_net, net_mk, net_eta, Iter.state_done, Iter.state_fmt, Iter.state_trap, Whole.state_ran, Whole.state_stopped, Whole.state_denied] | split | with_reducible refine (foldl_net _ ?_ _ _).trans ?_

@[simp] theorem State.advance_net (s : State) (x1 : _) : (State.advance s x1).net = s.net := by
  unfold State.advance
  repeat' first | with_reducible rfl | with_reducible assumption | intro _ | simp only [State.failInstance_net, State.maybeClose_net, State.rootEnd_net, net_mk, net_eta, Iter.state_done, Iter.state_fmt, Iter.state_trap, Whole.state_ran, Whole.state_stopped, Whole.state_denied] | split | with_reducible refine (foldl_net _ ?_ _ _).trans ?_ | with_reducible refine (foldlB_net _ ?_ _ _).trans ?_ | with_reducible refine (foldl1_net _ ?_ _ _).trans ?_ | with_reducible refine (foldl2_net _ ?_ _ _).trans ?_

@[simp] theorem State.settleNorm_net (s : State) : (State.settleNorm s).net = s.net := by
  unfold State.settleNorm
  repeat' first | with_reducible rfl | with_reducible assumption | intro _ | simp only [State.failInstance_net, net_mk, net_eta, Iter.state_done, Iter.state_fmt, Iter.state_trap, Whole.state_ran, Whole.state_stopped, Whole.state_denied] | split | with_reducible refine (foldl_net _ ?_ _ _).trans ?_ | with_reducible refine (foldlB_net _ ?_ _ _).trans ?_ | with_reducible refine (foldl1_net _ ?_ _ _).trans ?_ | with_reducible refine (foldl2_net _ ?_ _ _).trans ?_

@[simp] theorem State.settle_net (s : State) : (State.settle s).net = s.net := by
  unfold State.settle
  repeat' first | with_reducible rfl | with_reducible assumption | intro _ | simp only [State.seqAdvance_net, State.settleNorm_net, net_mk, net_eta, Iter.state_done, Iter.state_fmt, Iter.state_trap, Whole.state_ran, Whole.state_stopped, Whole.state_denied] | split | with_reducible refine (foldl_net _ ?_ _ _).trans ?_ | with_reducible refine (foldlB_net _ ?_ _ _).trans ?_ | with_reducible refine (foldl1_net _ ?_ _ _).trans ?_ | with_reducible refine (foldl2_net _ ?_ _ _).trans ?_

@[simp] theorem State.after_net (s : State) (x1 : _) : (State.after s x1).net = s.net := by
  unfold State.after
  repeat' first | with_reducible rfl | with_reducible assumption | intro _ | simp only [State.advance_net, State.settle_net, net_mk, net_eta, Iter.state_done, Iter.state_fmt, Iter.state_trap, Whole.state_ran, Whole.state_stopped, Whole.state_denied] | split | with_reducible refine (foldl_net _ ?_ _ _).trans ?_

@[simp] theorem State.absentDown_net (s : State) (x1 : _) : (State.absentDown s x1).net = s.net := by
  unfold State.absentDown
  repeat' first | with_reducible rfl | with_reducible assumption | intro _ | simp only [State.markDown_net, State.modSlot_net, State.sendDown_net, net_mk, net_eta, Iter.state_done, Iter.state_fmt, Iter.state_trap, Whole.state_ran, Whole.state_stopped, Whole.state_denied] | split | with_reducible refine (foldl_net _ ?_ _ _).trans ?_ | with_reducible refine (foldlB_net _ ?_ _ _).trans ?_ | with_reducible refine (foldl1_net _ ?_ _ _).trans ?_ | with_reducible refine (foldl2_net _ ?_ _ _).trans ?_

@[simp] theorem State.addToken_net (s : State) (x1 : _) (x2 : _) (x3 : _) : (State.addToken s x1 x2 x3).net = s.net := by
  unfold State.addToken
  repeat' first | with_reducible rfl | with_reducible assumption | intro _ | simp only [State.bump_net, net_mk, net_eta, Iter.state_done, Iter.state_fmt, Iter.state_trap, Whole.state_ran, Whole.state_stopped, Whole.state_denied] | split | with_reducible refine (foldl_net _ ?_ _ _).trans ?_

@[simp] theorem State.resFetch_net (s : State) (x1 : _) (x2 : _) (x3 : _) (x4 : _) : (State.resFetch s x1 x2 x3 x4).net = s.net := by
  unfold State.resFetch
  repeat' first | with_reducible rfl | with_reducible assumption | intro _ | simp only [State.fetchPlace_net, net_mk, net_eta, Iter.state_done, Iter.state_fmt, Iter.state_trap, Whole.state_ran, Whole.state_stopped, Whole.state_denied] | split | with_reducible refine (foldl_net _ ?_ _ _).trans ?_ | with_reducible refine (foldlB_net _ ?_ _ _).trans ?_ | with_reducible refine (foldl1_net _ ?_ _ _).trans ?_ | with_reducible refine (foldl2_net _ ?_ _ _).trans ?_

@[simp] theorem State.writeResH_net (s : State) (x1 : _) (x2 : _) (x3 : _) (x4 : _) (x5 : _) (x6 : _) (x7 : _) : (State.writeResH s x1 x2 x3 x4 x5 x6 x7).net = s.net := by
  unfold State.writeResH
  repeat' first | with_reducible rfl | with_reducible assumption | intro _ | simp only [State.addToken_net, State.putWalk_net, net_mk, net_eta, Iter.state_done, Iter.state_fmt, Iter.state_trap, Whole.state_ran, Whole.state_stopped, Whole.state_denied] | split | with_reducible refine (foldl_net _ ?_ _ _).trans ?_ | with_reducible refine (foldlB_net _ ?_ _ _).trans ?_ | with_reducible refine (foldl1_net _ ?_ _ _).trans ?_ | with_reducible refine (foldl2_net _ ?_ _ _).trans ?_

@[simp] theorem State.openFor_net (s : State) (x1 : _) (x2 : _) (x3 : _) (x4 : _) (x5 : _) : (State.openFor s x1 x2 x3 x4 x5).net = s.net := by
  unfold State.openFor
  repeat' first | with_reducible rfl | with_reducible assumption | intro _ | simp only [State.absentDown_net, State.openInstance_net, net_mk, net_eta, Iter.state_done, Iter.state_fmt, Iter.state_trap, Whole.state_ran, Whole.state_stopped, Whole.state_denied] | split | with_reducible refine (foldl_net _ ?_ _ _).trans ?_

theorem enter_net (s : State) (m : Msg) (k : Plan → Slot → State → State) (h : ∀ p v t, (k p v t).net = t.net) :
    (s.enter m k).net = s.net := by
  unfold State.enter
  repeat' first | with_reducible rfl | simp only [h, State.takeInbox_net, State.bump_net, State.mismatch_net, State.openFor_net, State.failInstance_net, net_mk, net_eta] | split

@[simp] theorem State.modNorm_net (s : State) (x1 : _) (x2 : _) (x3 : _) : (State.modNorm s x1 x2 x3).net = s.net := by
  unfold State.modNorm
  repeat' first | with_reducible rfl | with_reducible assumption | intro _ | simp only [net_mk, net_eta, Iter.state_done, Iter.state_fmt, Iter.state_trap, Whole.state_ran, Whole.state_stopped, Whole.state_denied] | split | with_reducible refine (foldl_net _ ?_ _ _).trans ?_

@[simp] theorem State.normKnown_net (s : State) (x1 : _) (x2 : _) (x3 : _) : (State.normKnown s x1 x2 x3).net = s.net := by
  unfold State.normKnown
  repeat' first | with_reducible rfl | with_reducible assumption | intro _ | simp only [State.bump_net, State.modNorm_net, State.raise_net, net_mk, net_eta, Iter.state_done, Iter.state_fmt, Iter.state_trap, Whole.state_ran, Whole.state_stopped, Whole.state_denied] | split | with_reducible refine (foldl_net _ ?_ _ _).trans ?_

@[simp] theorem State.normForward_net (s : State) (x1 : _) (x2 : _) (x3 : _) : (State.normForward s x1 x2 x3).net = s.net := by
  unfold State.normForward
  repeat' first | with_reducible rfl | with_reducible assumption | intro _ | simp only [State.sendCtrl_net, net_mk, net_eta, Iter.state_done, Iter.state_fmt, Iter.state_trap, Whole.state_ran, Whole.state_stopped, Whole.state_denied] | split | with_reducible refine (foldl_net _ ?_ _ _).trans ?_

@[simp] theorem State.resultEffect_net (s : State) (x1 : _) (x2 : _) (x3 : _) (x4 : _) : (State.resultEffect s x1 x2 x3 x4).net = s.net := by
  unfold State.resultEffect
  repeat' first | with_reducible rfl | with_reducible assumption | intro _ | simp only [State.barrierResult_net, State.normForward_net, State.normKnown_net, net_mk, net_eta, Iter.state_done, Iter.state_fmt, Iter.state_trap, Whole.state_ran, Whole.state_stopped, Whole.state_denied] | split | with_reducible refine (foldl_net _ ?_ _ _).trans ?_

@[simp] theorem State.gatherFrom_net (s : State) (x1 : _) (x2 : _) (x3 : _) (x4 : _) : (State.gatherFrom s x1 x2 x3 x4).net = s.net := by
  unfold State.gatherFrom
  repeat' first | with_reducible rfl | with_reducible assumption | intro _ | simp only [State.markDown_net, State.modSlot_net, State.returnStaging_net, State.sendDown_net, net_mk, net_eta, Iter.state_done, Iter.state_fmt, Iter.state_trap, Whole.state_ran, Whole.state_stopped, Whole.state_denied] | split | with_reducible refine (foldl_net _ ?_ _ _).trans ?_

@[simp] theorem State.orderedUp_net (s : State) (x1 : _) (x2 : _) (x3 : _) (x4 : _) (x5 : _) (x6 : _) : (State.orderedUp s x1 x2 x3 x4 x5 x6).net = s.net := by
  unfold State.orderedUp
  repeat' first | with_reducible rfl | with_reducible assumption | intro _ | simp only [State.returnStaging_net, State.sendFirst_net, net_mk, net_eta, Iter.state_done, Iter.state_fmt, Iter.state_trap, Whole.state_ran, Whole.state_stopped, Whole.state_denied] | split | with_reducible refine (foldl_net _ ?_ _ _).trans ?_

@[simp] theorem State.stageContrib_net (s : State) (x1 : _) (x2 : _) (x3 : _) (x4 : _) (x5 : _) : (State.stageContrib s x1 x2 x3 x4 x5).net = s.net := by
  unfold State.stageContrib
  repeat' first | with_reducible rfl | with_reducible assumption | intro _ | simp only [State.after_net, State.bump_net, State.gatherFrom_net, State.modSlot_net, State.orderedUp_net, net_mk, net_eta, Iter.state_done, Iter.state_fmt, Iter.state_trap, Whole.state_ran, Whole.state_stopped, Whole.state_denied] | with_reducible refine (State.takeCredit_net (by assumption)).trans ?_ | split | with_reducible refine (foldl_net _ ?_ _ _).trans ?_

theorem execContribReceive_net {s t : State} {x0 : Sys2Proof.Msg} (h : execContribReceive x0 s = .next t) : t.net = s.net := by
  simp only [execContribReceive, Host.Outcome.next.injEq] at h
  subst h
  repeat' first | with_reducible rfl | with_reducible assumption | intro _ | simp only [State.mismatch_net, State.stageContrib_net, net_mk, net_eta, Iter.state_done, Iter.state_fmt, Iter.state_trap, Whole.state_ran, Whole.state_stopped, Whole.state_denied] | split | with_reducible refine (foldl_net _ ?_ _ _).trans ?_ | with_reducible refine (enter_net _ _ _ ?_).trans ?_

theorem execExpsReceive_net {s t : State} {x0 : Sys2Proof.Msg} (h : execExpsReceive x0 s = .next t) : t.net = s.net := by
  simp only [execExpsReceive, Host.Outcome.next.injEq] at h
  subst h
  repeat' first | with_reducible rfl | with_reducible assumption | intro _ | simp only [State.bump_net, State.mismatch_net, State.modSlot_net, State.setSlot_net, net_mk, net_eta, Iter.state_done, Iter.state_fmt, Iter.state_trap, Whole.state_ran, Whole.state_stopped, Whole.state_denied] | with_reducible refine (State.takeCredit_net (by assumption)).trans ?_ | split | with_reducible refine (foldl_net _ ?_ _ _).trans ?_ | with_reducible refine (enter_net _ _ _ ?_).trans ?_

@[simp] theorem State.expsRound_net (s : State) (x1 : _) (x2 : _) (x3 : _) (x4 : _) (x5 : _) : (State.expsRound s x1 x2 x3 x4 x5).net = s.net := by
  unfold State.expsRound
  repeat' first | with_reducible rfl | with_reducible assumption | intro _ | simp only [State.modSlot_net, State.sendFirst_net, State.sendMsg_net, State.straggle_net, net_mk, net_eta, Iter.state_done, Iter.state_fmt, Iter.state_trap, Whole.state_ran, Whole.state_stopped, Whole.state_denied] | split | with_reducible refine (foldl_net _ ?_ _ _).trans ?_ | with_reducible refine (foldlB_net _ ?_ _ _).trans ?_ | with_reducible refine (foldl1_net _ ?_ _ _).trans ?_ | with_reducible refine (foldl2_net _ ?_ _ _).trans ?_

theorem execExpsSend_net {s t : State} {x0 : BitVec 20} {x1 : Nat} (h : execExpsSend x0 x1 s = .next t) : t.net = s.net := by
  simp only [execExpsSend, Host.Outcome.next.injEq] at h
  subst h
  repeat' first | with_reducible rfl | with_reducible assumption | intro _ | simp only [State.expsRound_net, net_mk, net_eta, Iter.state_done, Iter.state_fmt, Iter.state_trap, Whole.state_ran, Whole.state_stopped, Whole.state_denied] | split | with_reducible refine (foldl_net _ ?_ _ _).trans ?_

theorem execMaxeReceive_net {s t : State} {x0 : Sys2Proof.Msg} (h : execMaxeReceive x0 s = .next t) : t.net = s.net := by
  simp only [execMaxeReceive, Host.Outcome.next.injEq] at h
  subst h
  repeat' first | with_reducible rfl | with_reducible assumption | intro _ | simp only [State.mismatch_net, State.modSlot_net, State.sendMsg_net, net_mk, net_eta, Iter.state_done, Iter.state_fmt, Iter.state_trap, Whole.state_ran, Whole.state_stopped, Whole.state_denied] | split | with_reducible refine (foldl_net _ ?_ _ _).trans ?_ | with_reducible refine (enter_net _ _ _ ?_).trans ?_ | with_reducible refine (foldlB_net _ ?_ _ _).trans ?_ | with_reducible refine (foldl1_net _ ?_ _ _).trans ?_ | with_reducible refine (foldl2_net _ ?_ _ _).trans ?_

theorem execPsumReceive_net {s t : State} {x0 : Sys2Proof.Msg} (h : execPsumReceive x0 s = .next t) : t.net = s.net := by
  simp only [execPsumReceive, Host.Outcome.next.injEq] at h
  subst h
  repeat' first | with_reducible rfl | with_reducible assumption | intro _ | simp only [State.bump_net, State.mismatch_net, State.modSlot_net, net_mk, net_eta, Iter.state_done, Iter.state_fmt, Iter.state_trap, Whole.state_ran, Whole.state_stopped, Whole.state_denied] | with_reducible refine (State.takeCredit_net (by assumption)).trans ?_ | split | with_reducible refine (foldl_net _ ?_ _ _).trans ?_ | with_reducible refine (enter_net _ _ _ ?_).trans ?_

theorem execPsumSend_net {s t : State} {x0 : BitVec 20} {x1 : Nat} (h : execPsumSend x0 x1 s = .next t) : t.net = s.net := by
  simp only [execPsumSend, Host.Outcome.next.injEq] at h
  subst h
  repeat' first | with_reducible rfl | with_reducible assumption | intro _ | simp only [State.bump_net, State.freeChunk_net, State.modSlot_net, State.sendFirst_net, State.sendMsg_net, net_mk, net_eta, Iter.state_done, Iter.state_fmt, Iter.state_trap, Whole.state_ran, Whole.state_stopped, Whole.state_denied] | split | with_reducible refine (foldl_net _ ?_ _ _).trans ?_

@[simp] theorem State.park_net (s : State) (x1 : _) (x2 : _) (x3 : _) (x4 : _) : (State.park s x1 x2 x3 x4).net = s.net := by
  unfold State.park
  repeat' first | with_reducible rfl | with_reducible assumption | intro _ | simp only [State.fetchEdges_net, State.modSlot_net, State.stateWrite_net, net_mk, net_eta, Iter.state_done, Iter.state_fmt, Iter.state_trap, Whole.state_ran, Whole.state_stopped, Whole.state_denied] | split | with_reducible refine (foldl_net _ ?_ _ _).trans ?_

@[simp] theorem State.rugFormed_net (s : State) (x1 : _) (x2 : _) (x3 : _) (x4 : _) (x5 : _) : (State.rugFormed s x1 x2 x3 x4 x5).net = s.net := by
  unfold State.rugFormed
  repeat' first | with_reducible rfl | with_reducible assumption | intro _ | simp only [State.failInstance_net, State.park_net, State.sendMessage_net, State.setSlot_net, net_mk, net_eta, Iter.state_done, Iter.state_fmt, Iter.state_trap, Whole.state_ran, Whole.state_stopped, Whole.state_denied] | split | with_reducible refine (foldl_net _ ?_ _ _).trans ?_

@[simp] theorem State.formFetch_net (s : State) (x1 : _) (x2 : _) : (State.formFetch s x1 x2).net = s.net := by
  unfold State.formFetch
  repeat' first | with_reducible rfl | with_reducible assumption | intro _ | simp only [State.fetchAll_net, State.resFetch_net, net_mk, net_eta, Iter.state_done, Iter.state_fmt, Iter.state_trap, Whole.state_ran, Whole.state_stopped, Whole.state_denied] | split | with_reducible refine (foldl_net _ ?_ _ _).trans ?_

theorem execFoldResultForm_net {s t : State} {x0 : BitVec 20} {x1 : Nat} (h : execFoldResultForm x0 x1 s = .next t) : t.net = s.net := by
  simp only [execFoldResultForm, Host.Outcome.next.injEq] at h
  subst h
  repeat' first | with_reducible rfl | with_reducible assumption | intro _ | simp only [State.after_net, State.bump_net, State.formFetch_net, State.freeChunk_net, State.markDown_net, State.modSlot_net, State.resultEffect_net, State.rugFormed_net, State.sendDown_net, State.settle_net, State.straggle_net, State.writeResH_net, net_mk, net_eta, Iter.state_done, Iter.state_fmt, Iter.state_trap, Whole.state_ran, Whole.state_stopped, Whole.state_denied] | split | with_reducible refine (foldl_net _ ?_ _ _).trans ?_

theorem execResultReceive_net {s t : State} {x0 : Sys2Proof.Msg} (h : execResultReceive x0 s = .next t) : t.net = s.net := by
  simp only [execResultReceive, Host.Outcome.next.injEq] at h
  subst h
  repeat' first | with_reducible rfl | with_reducible assumption | intro _ | simp only [State.after_net, State.markDown_net, State.mismatch_net, State.resultEffect_net, State.sendDown_net, net_mk, net_eta, Iter.state_done, Iter.state_fmt, Iter.state_trap, Whole.state_ran, Whole.state_stopped, Whole.state_denied] | split | with_reducible refine (foldl_net _ ?_ _ _).trans ?_ | with_reducible refine (enter_net _ _ _ ?_).trans ?_

@[simp] theorem State.endOn_net (s : State) (x1 : _) (x2 : _) (x3 : _) (x4 : _) (x5 : _) : (State.endOn s x1 x2 x3 x4 x5).net = s.net := by
  unfold State.endOn
  repeat' first | with_reducible rfl | with_reducible assumption | intro _ | simp only [State.endDown_net, net_mk, net_eta, Iter.state_done, Iter.state_fmt, Iter.state_trap, Whole.state_ran, Whole.state_stopped, Whole.state_denied] | split | with_reducible refine (foldl_net _ ?_ _ _).trans ?_

@[simp] theorem State.endFail_net (s : State) (x1 : _) (x2 : _) (x3 : _) (x4 : _) (x5 : _) : (State.endFail s x1 x2 x3 x4 x5).net = s.net := by
  unfold State.endFail
  repeat' first | with_reducible rfl | with_reducible assumption | intro _ | simp only [State.closeSlot_net, State.endDown_net, State.endOn_net, net_mk, net_eta, Iter.state_done, Iter.state_fmt, Iter.state_trap, Whole.state_ran, Whole.state_stopped, Whole.state_denied] | split | with_reducible refine (foldl_net _ ?_ _ _).trans ?_ | with_reducible refine (foldlB_net _ ?_ _ _).trans ?_ | with_reducible refine (foldl1_net _ ?_ _ _).trans ?_ | with_reducible refine (foldl2_net _ ?_ _ _).trans ?_

@[simp] theorem State.endOpen_net (s : State) (x1 : _) (x2 : _) (x3 : _) (x4 : _) : (State.endOpen s x1 x2 x3 x4).net = s.net := by
  unfold State.endOpen
  repeat' first | with_reducible rfl | with_reducible assumption | intro _ | simp only [State.endFail_net, State.endOn_net, State.maybeClose_net, State.modSlot_net, net_mk, net_eta, Iter.state_done, Iter.state_fmt, Iter.state_trap, Whole.state_ran, Whole.state_stopped, Whole.state_denied] | split | with_reducible refine (foldl_net _ ?_ _ _).trans ?_

@[simp] theorem State.endFresh_net (s : State) (x1 : _) (x2 : _) (x3 : _) (x4 : _) : (State.endFresh s x1 x2 x3 x4).net = s.net := by
  unfold State.endFresh
  repeat' first | with_reducible rfl | with_reducible assumption | intro _ | simp only [State.endFail_net, State.modSlot_net, State.openSlot_net, net_mk, net_eta, Iter.state_done, Iter.state_fmt, Iter.state_trap, Whole.state_ran, Whole.state_stopped, Whole.state_denied] | split | with_reducible refine (foldl_net _ ?_ _ _).trans ?_

@[simp] theorem State.endNoted_net (s : State) (x1 : _) (x2 : _) (x3 : _) (x4 : _) : (State.endNoted s x1 x2 x3 x4).net = s.net := by
  unfold State.endNoted
  repeat' first | with_reducible rfl | with_reducible assumption | intro _ | simp only [State.modSlot_net, State.noteStatus_net, net_mk, net_eta, Iter.state_done, Iter.state_fmt, Iter.state_trap, Whole.state_ran, Whole.state_stopped, Whole.state_denied] | split | with_reducible refine (foldl_net _ ?_ _ _).trans ?_

@[simp] theorem State.endMatched_net (s : State) (x1 : _) (x2 : _) (x3 : _) (x4 : _) : (State.endMatched s x1 x2 x3 x4).net = s.net := by
  unfold State.endMatched
  repeat' first | with_reducible rfl | with_reducible assumption | intro _ | simp only [State.endNoted_net, State.endOpen_net, State.failInstance_net, net_mk, net_eta, Iter.state_done, Iter.state_fmt, Iter.state_trap, Whole.state_ran, Whole.state_stopped, Whole.state_denied] | split | with_reducible refine (foldl_net _ ?_ _ _).trans ?_

theorem execEndReceive_net {s t : State} {x0 : Sys2Proof.Msg} (h : execEndReceive x0 s = .next t) : t.net = s.net := by
  simp only [execEndReceive, Host.Outcome.next.injEq] at h
  subst h
  repeat' first | with_reducible rfl | with_reducible assumption | intro _ | simp only [State.bump_net, State.endFresh_net, State.endMatched_net, State.endNoted_net, State.mismatch_net, State.settle_net, State.takeInbox_net, net_mk, net_eta, Iter.state_done, Iter.state_fmt, Iter.state_trap, Whole.state_ran, Whole.state_stopped, Whole.state_denied] | split | with_reducible refine (foldl_net _ ?_ _ _).trans ?_

@[simp] theorem State.sendParts_net (s : State) (x1 : _) (x2 : _) (x3 : _) (x4 : _) (x5 : _) (x6 : _) : (State.sendParts s x1 x2 x3 x4 x5 x6).net = s.net := by
  unfold State.sendParts
  repeat' first | with_reducible rfl | with_reducible assumption | intro _ | simp only [State.sendMsg_net, net_mk, net_eta, Iter.state_done, Iter.state_fmt, Iter.state_trap, Whole.state_ran, Whole.state_stopped, Whole.state_denied] | split | with_reducible refine (foldl_net _ ?_ _ _).trans ?_ | with_reducible refine (foldlB_net _ ?_ _ _).trans ?_ | with_reducible refine (foldl1_net _ ?_ _ _).trans ?_ | with_reducible refine (foldl2_net _ ?_ _ _).trans ?_

@[simp] theorem State.setDisp_net (s : State) (x1 : _) (x2 : _) : (State.setDisp s x1 x2).net = s.net := by
  unfold State.setDisp
  repeat' first | with_reducible rfl | with_reducible assumption | intro _ | simp only [net_mk, net_eta, Iter.state_done, Iter.state_fmt, Iter.state_trap, Whole.state_ran, Whole.state_stopped, Whole.state_denied] | split | with_reducible refine (foldl_net _ ?_ _ _).trans ?_

@[simp] theorem State.routerFetch_net (s : State) (x1 : _) : (State.routerFetch s x1).net = s.net := by
  unfold State.routerFetch
  repeat' first | with_reducible rfl | with_reducible assumption | intro _ | simp only [State.fetchPlace_net, net_mk, net_eta, Iter.state_done, Iter.state_fmt, Iter.state_trap, Whole.state_ran, Whole.state_stopped, Whole.state_denied] | split | with_reducible refine (foldl_net _ ?_ _ _).trans ?_ | with_reducible refine (foldlB_net _ ?_ _ _).trans ?_ | with_reducible refine (foldl1_net _ ?_ _ _).trans ?_ | with_reducible refine (foldl2_net _ ?_ _ _).trans ?_

@[simp] theorem State.dispCounts_net (s : State) (x1 : _) (x2 : _) (x3 : _) (x4 : _) : (State.dispCounts s x1 x2 x3 x4).net = s.net := by
  unfold State.dispCounts
  repeat' first | with_reducible rfl | with_reducible assumption | intro _ | simp only [State.bump_net, State.failInstance_net, State.routerFetch_net, State.sendParts_net, State.setDisp_net, net_mk, net_eta, Iter.state_done, Iter.state_fmt, Iter.state_trap, Whole.state_ran, Whole.state_stopped, Whole.state_denied] | split | with_reducible refine (foldl_net _ ?_ _ _).trans ?_ | with_reducible refine (foldlB_net _ ?_ _ _).trans ?_ | with_reducible refine (foldl1_net _ ?_ _ _).trans ?_ | with_reducible refine (foldl2_net _ ?_ _ _).trans ?_

@[simp] theorem State.dispLoads_net (s : State) (x1 : _) (x2 : _) (x3 : _) : (State.dispLoads s x1 x2 x3).2.net = s.net := by
  unfold State.dispLoads
  repeat' first | with_reducible rfl | with_reducible assumption | intro _ | simp only [State.bump_net, net_mk, net_eta, Iter.state_done, Iter.state_fmt, Iter.state_trap, Whole.state_ran, Whole.state_stopped, Whole.state_denied] | split | with_reducible refine (foldl_net _ ?_ _ _).trans ?_ | with_reducible refine (foldlB_net _ ?_ _ _).trans ?_ | with_reducible refine (foldl1_net _ ?_ _ _).trans ?_ | with_reducible refine (foldl2_net _ ?_ _ _).trans ?_

@[simp] theorem State.dispGrants_net (s : State) (x1 : _) (x2 : _) (x3 : _) (x4 : _) : (State.dispGrants s x1 x2 x3 x4).net = s.net := by
  unfold State.dispGrants
  repeat' first | with_reducible rfl | with_reducible assumption | intro _ | simp only [State.dispLoads_net, State.sendParts_net, State.setDisp_net, net_mk, net_eta, Iter.state_done, Iter.state_fmt, Iter.state_trap, Whole.state_ran, Whole.state_stopped, Whole.state_denied] | split | with_reducible refine (foldl_net _ ?_ _ _).trans ?_ | with_reducible refine (foldlB_net _ ?_ _ _).trans ?_ | with_reducible refine (foldl1_net _ ?_ _ _).trans ?_ | with_reducible refine (foldl2_net _ ?_ _ _).trans ?_

@[simp] theorem State.dispRowsTo_net (s : State) (x1 : _) (x2 : _) (x3 : _) (x4 : _) (x5 : _) (x6 : _) : (State.dispRowsTo s x1 x2 x3 x4 x5 x6).net = s.net := by
  unfold State.dispRowsTo
  repeat' first | with_reducible rfl | with_reducible assumption | intro _ | simp only [State.sendParts_net, State.setDisp_net, net_mk, net_eta, Iter.state_done, Iter.state_fmt, Iter.state_trap, Whole.state_ran, Whole.state_stopped, Whole.state_denied] | split | with_reducible refine (foldl_net _ ?_ _ _).trans ?_

@[simp] theorem State.dispRows_net (s : State) (x1 : _) (x2 : _) (x3 : _) (x4 : _) : (State.dispRows s x1 x2 x3 x4).net = s.net := by
  unfold State.dispRows
  repeat' first | with_reducible rfl | with_reducible assumption | intro _ | simp only [State.bump_net, State.dispRowsTo_net, State.setDisp_net, net_mk, net_eta, Iter.state_done, Iter.state_fmt, Iter.state_trap, Whole.state_ran, Whole.state_stopped, Whole.state_denied] | split | with_reducible refine (foldl_net _ ?_ _ _).trans ?_ | with_reducible refine (foldlB_net _ ?_ _ _).trans ?_ | with_reducible refine (foldl1_net _ ?_ _ _).trans ?_ | with_reducible refine (foldl2_net _ ?_ _ _).trans ?_

@[simp] theorem State.dispDeliver_net (s : State) (x1 : _) (x2 : _) (x3 : _) (x4 : _) (x5 : _) (x6 : _) (x7 : _) : (State.dispDeliver s x1 x2 x3 x4 x5 x6 x7).net = s.net := by
  unfold State.dispDeliver
  repeat' first | with_reducible rfl | with_reducible assumption | intro _ | simp only [State.sendParts_net, State.setDisp_net, net_mk, net_eta, Iter.state_done, Iter.state_fmt, Iter.state_trap, Whole.state_ran, Whole.state_stopped, Whole.state_denied] | split | with_reducible refine (foldl_net _ ?_ _ _).trans ?_

@[simp] theorem State.bwdRows_net (s : State) (x1 : _) (x2 : _) (x3 : _) (x4 : _) : (State.bwdRows s x1 x2 x3 x4).net = s.net := by
  unfold State.bwdRows
  repeat' first | with_reducible rfl | with_reducible assumption | intro _ | simp only [State.bump_net, State.dispRowsTo_net, State.setDisp_net, net_mk, net_eta, Iter.state_done, Iter.state_fmt, Iter.state_trap, Whole.state_ran, Whole.state_stopped, Whole.state_denied] | split | with_reducible refine (foldl_net _ ?_ _ _).trans ?_ | with_reducible refine (foldlB_net _ ?_ _ _).trans ?_ | with_reducible refine (foldl1_net _ ?_ _ _).trans ?_ | with_reducible refine (foldl2_net _ ?_ _ _).trans ?_

@[simp] theorem State.returnRows_net (s : State) (x1 : _) (x2 : _) (x3 : _) (x4 : _) : (State.returnRows s x1 x2 x3 x4).net = s.net := by
  unfold State.returnRows
  repeat' first | with_reducible rfl | with_reducible assumption | intro _ | simp only [State.sendParts_net, State.setDisp_net, net_mk, net_eta, Iter.state_done, Iter.state_fmt, Iter.state_trap, Whole.state_ran, Whole.state_stopped, Whole.state_denied] | split | with_reducible refine (foldl_net _ ?_ _ _).trans ?_ | with_reducible refine (foldlB_net _ ?_ _ _).trans ?_ | with_reducible refine (foldl1_net _ ?_ _ _).trans ?_ | with_reducible refine (foldl2_net _ ?_ _ _).trans ?_

@[simp] theorem State.combine_net (s : State) (x1 : _) (x2 : _) (x3 : _) (x4 : _) : (State.combine s x1 x2 x3 x4).net = s.net := by
  unfold State.combine
  repeat' first | with_reducible rfl | with_reducible assumption | intro _ | simp only [State.bump_net, State.sendParts_net, State.setDisp_net, net_mk, net_eta, Iter.state_done, Iter.state_fmt, Iter.state_trap, Whole.state_ran, Whole.state_stopped, Whole.state_denied] | split | with_reducible refine (foldl_net _ ?_ _ _).trans ?_

@[simp] theorem State.dispHostLost_net (s : State) (x1 : _) (x2 : _) (x3 : _) (x4 : _) : (State.dispHostLost s x1 x2 x3 x4).net = s.net := by
  unfold State.dispHostLost
  repeat' first | with_reducible rfl | with_reducible assumption | intro _ | simp only [State.bump_net, State.setDisp_net, net_mk, net_eta, Iter.state_done, Iter.state_fmt, Iter.state_trap, Whole.state_ran, Whole.state_stopped, Whole.state_denied] | split | with_reducible refine (foldl_net _ ?_ _ _).trans ?_

@[simp] theorem State.dispAdvance_net (s : State) (x1 : _) (x2 : _) (x3 : _) : (State.dispAdvance s x1 x2 x3).net = s.net := by
  unfold State.dispAdvance
  repeat' first | with_reducible rfl | with_reducible assumption | intro _ | simp only [State.bwdRows_net, State.combine_net, State.dispCounts_net, State.dispDeliver_net, State.dispGrants_net, State.dispHostLost_net, State.dispRows_net, State.returnRows_net, net_mk, net_eta, Iter.state_done, Iter.state_fmt, Iter.state_trap, Whole.state_ran, Whole.state_stopped, Whole.state_denied] | split | with_reducible refine (foldl_net _ ?_ _ _).trans ?_ | with_reducible refine (foldlB_net _ ?_ _ _).trans ?_ | with_reducible refine (foldl1_net _ ?_ _ _).trans ?_ | with_reducible refine (foldl2_net _ ?_ _ _).trans ?_

@[simp] theorem State.setSparse_net (s : State) (x1 : _) (x2 : _) : (State.setSparse s x1 x2).net = s.net := by
  unfold State.setSparse
  repeat' first | with_reducible rfl | with_reducible assumption | intro _ | simp only [net_mk, net_eta, Iter.state_done, Iter.state_fmt, Iter.state_trap, Whole.state_ran, Whole.state_stopped, Whole.state_denied] | split | with_reducible refine (foldl_net _ ?_ _ _).trans ?_

@[simp] theorem State.pass1_net (s : State) (x1 : _) (x2 : _) (x3 : _) (x4 : _) (x5 : _) : (State.pass1 s x1 x2 x3 x4 x5).net = s.net := by
  unfold State.pass1
  repeat' first | with_reducible rfl | with_reducible assumption | intro _ | simp only [State.bump_net, State.failInstance_net, State.setSparse_net, net_mk, net_eta, Iter.state_done, Iter.state_fmt, Iter.state_trap, Whole.state_ran, Whole.state_stopped, Whole.state_denied] | split | with_reducible refine (foldl_net _ ?_ _ _).trans ?_

@[simp] theorem State.pass1All_net (s : State) (x1 : _) (x2 : _) (x3 : _) (x4 : _) : (State.pass1All s x1 x2 x3 x4).net = s.net := by
  unfold State.pass1All
  repeat' first | with_reducible rfl | with_reducible assumption | intro _ | simp only [State.pass1_net, net_mk, net_eta, Iter.state_done, Iter.state_fmt, Iter.state_trap, Whole.state_ran, Whole.state_stopped, Whole.state_denied] | split | with_reducible refine (foldl_net _ ?_ _ _).trans ?_ | with_reducible refine (foldlB_net _ ?_ _ _).trans ?_ | with_reducible refine (foldl1_net _ ?_ _ _).trans ?_ | with_reducible refine (foldl2_net _ ?_ _ _).trans ?_

@[simp] theorem State.pass2_net (s : State) (x1 : _) (x2 : _) (x3 : _) (x4 : _) : (State.pass2 s x1 x2 x3 x4).net = s.net := by
  unfold State.pass2
  repeat' first | with_reducible rfl | with_reducible assumption | intro _ | simp only [State.bump_net, State.putWalk_net, State.sendParts_net, State.setSparse_net, net_mk, net_eta, Iter.state_done, Iter.state_fmt, Iter.state_trap, Whole.state_ran, Whole.state_stopped, Whole.state_denied] | split | with_reducible refine (foldl_net _ ?_ _ _).trans ?_ | with_reducible refine (foldlB_net _ ?_ _ _).trans ?_ | with_reducible refine (foldl1_net _ ?_ _ _).trans ?_ | with_reducible refine (foldl2_net _ ?_ _ _).trans ?_

theorem execSpaccPass2_net {s t : State} {x0 : BitVec 20} (h : execSpaccPass2 x0 s = .next t) : t.net = s.net := by
  simp only [execSpaccPass2, Host.Outcome.next.injEq] at h
  subst h
  repeat' first | with_reducible rfl | with_reducible assumption | intro _ | simp only [State.closeSlot_net, State.fetchObject_net, State.pass1All_net, State.pass2_net, State.settle_net, net_mk, net_eta, Iter.state_done, Iter.state_fmt, Iter.state_trap, Whole.state_ran, Whole.state_stopped, Whole.state_denied] | split | with_reducible refine (foldl_net _ ?_ _ _).trans ?_

@[simp] theorem State.exchAdvance_net (s : State) (x1 : _) : (State.exchAdvance s x1).net = s.net := by
  unfold State.exchAdvance
  repeat' first | with_reducible rfl | with_reducible assumption | intro _ | simp only [State.closeSlot_net, State.dispAdvance_net, net_mk, net_eta, Iter.state_done, Iter.state_fmt, Iter.state_trap, Whole.state_ran, Whole.state_stopped, Whole.state_denied] | split | with_reducible refine (foldl_net _ ?_ _ _).trans ?_

@[simp] theorem State.progress_net (s : State) (x1 : _) : (State.progress s x1).net = s.net := by
  unfold State.progress
  repeat' first | with_reducible rfl | with_reducible assumption | intro _ | simp only [State.advance_net, State.exchAdvance_net, State.settle_net, net_mk, net_eta, Iter.state_done, Iter.state_fmt, Iter.state_trap, Whole.state_ran, Whole.state_stopped, Whole.state_denied] | split | with_reducible refine (foldl_net _ ?_ _ _).trans ?_

@[simp] theorem State.storeReceive_net (s : State) (x1 : _) (x2 : _) (x3 : _) (x4 : _) : (State.storeReceive s x1 x2 x3 x4).net = s.net := by
  unfold State.storeReceive
  repeat' first | with_reducible rfl | with_reducible assumption | intro _ | simp only [State.bump_net, State.mismatch_net, State.modSlot_net, State.returnStaging_net, State.storeChunk_net, net_mk, net_eta, Iter.state_done, Iter.state_fmt, Iter.state_trap, Whole.state_ran, Whole.state_stopped, Whole.state_denied] | with_reducible refine (State.takeCredit_net (by assumption)).trans ?_ | split | with_reducible refine (foldl_net _ ?_ _ _).trans ?_

@[simp] theorem State.feedReceive_net (s : State) (x1 : _) (x2 : _) (x3 : _) (x4 : _) : (State.feedReceive s x1 x2 x3 x4).net = s.net := by
  unfold State.feedReceive
  repeat' first | with_reducible rfl | with_reducible assumption | intro _ | simp only [State.mismatch_net, State.progress_net, State.setDisp_net, net_mk, net_eta, Iter.state_done, Iter.state_fmt, Iter.state_trap, Whole.state_ran, Whole.state_stopped, Whole.state_denied] | split | with_reducible refine (foldl_net _ ?_ _ _).trans ?_

@[simp] theorem State.sieveReceive_net (s : State) (x1 : _) (x2 : _) (x3 : _) (x4 : _) (x5 : _) (x6 : _) : (State.sieveReceive s x1 x2 x3 x4 x5 x6).net = s.net := by
  unfold State.sieveReceive
  repeat' first | with_reducible rfl | with_reducible assumption | intro _ | simp only [State.mismatch_net, State.progress_net, State.setDisp_net, net_mk, net_eta, Iter.state_done, Iter.state_fmt, Iter.state_trap, Whole.state_ran, Whole.state_stopped, Whole.state_denied] | split | with_reducible refine (foldl_net _ ?_ _ _).trans ?_

@[simp] theorem State.rlzReceive_net (s : State) (x1 : _) (x2 : _) (x3 : _) (x4 : _) (x5 : _) (x6 : _) : (State.rlzReceive s x1 x2 x3 x4 x5 x6).net = s.net := by
  unfold State.rlzReceive
  repeat' first | with_reducible rfl | with_reducible assumption | intro _ | simp only [State.mismatch_net, State.pass1All_net, State.setSparse_net, State.settle_net, net_mk, net_eta, Iter.state_done, Iter.state_fmt, Iter.state_trap, Whole.state_ran, Whole.state_stopped, Whole.state_denied] | split | with_reducible refine (foldl_net _ ?_ _ _).trans ?_

@[simp] theorem State.plainReceive_net (s : State) (x1 : _) (x2 : _) (x3 : _) (x4 : _) : (State.plainReceive s x1 x2 x3 x4).net = s.net := by
  unfold State.plainReceive
  repeat' first | with_reducible rfl | with_reducible assumption | intro _ | simp only [State.mismatch_net, State.modSlot_net, State.progress_net, State.relayMessage_net, net_mk, net_eta, Iter.state_done, Iter.state_fmt, Iter.state_trap, Whole.state_ran, Whole.state_stopped, Whole.state_denied] | split | with_reducible refine (foldl_net _ ?_ _ _).trans ?_

@[simp] theorem State.exchPassing_net (s : State) (x1 : _) : (State.exchPassing s x1).1.net = s.net := by
  unfold State.exchPassing
  repeat' first | with_reducible rfl | with_reducible assumption | intro _ | simp only [State.bump_net, State.failInstance_net, State.mismatch_net, State.modSlot_net, State.progress_net, net_mk, net_eta, Iter.state_done, Iter.state_fmt, Iter.state_trap, Whole.state_ran, Whole.state_stopped, Whole.state_denied] | split | with_reducible refine (foldl_net _ ?_ _ _).trans ?_

theorem execExchReceive_net {s t : State} {x0 : Sys2Proof.Msg} {x1 : Nat} {x2 : Nat} (h : execExchReceive x0 x1 x2 s = .next t) : t.net = s.net := by
  simp only [execExchReceive, Host.Outcome.next.injEq] at h
  subst h
  repeat' first | with_reducible rfl | with_reducible assumption | intro _ | simp only [State.feedReceive_net, State.mismatch_net, State.plainReceive_net, State.rlzReceive_net, State.settle_net, State.sieveReceive_net, State.storeReceive_net, net_mk, net_eta, Iter.state_done, Iter.state_fmt, Iter.state_trap, Whole.state_ran, Whole.state_stopped, Whole.state_denied] | split | with_reducible refine (foldl_net _ ?_ _ _).trans ?_ | with_reducible refine (enter_net _ _ _ ?_).trans ?_

theorem execGatherReceive_net {s t : State} {x0 : Sys2Proof.Msg} (h : execGatherReceive x0 s = .next t) : t.net = s.net := by
  simp only [execGatherReceive, Host.Outcome.next.injEq] at h
  subst h
  repeat' first | with_reducible rfl | with_reducible assumption | intro _ | simp only [State.after_net, State.markDown_net, State.mismatch_net, State.modSlot_net, State.sendDown_net, State.seqDown_net, net_mk, net_eta, Iter.state_done, Iter.state_fmt, Iter.state_trap, Whole.state_ran, Whole.state_stopped, Whole.state_denied] | split | with_reducible refine (foldl_net _ ?_ _ _).trans ?_ | with_reducible refine (enter_net _ _ _ ?_).trans ?_

@[simp] theorem State.launchReply_net (s : State) (x1 : _) (x2 : _) (x3 : _) (x4 : _) (x5 : _) (x6 : _) : (State.launchReply s x1 x2 x3 x4 x5 x6).net = s.net := by
  unfold State.launchReply
  repeat' first | with_reducible rfl | with_reducible assumption | intro _ | simp only [State.sendCtrl_net, net_mk, net_eta, Iter.state_done, Iter.state_fmt, Iter.state_trap, Whole.state_ran, Whole.state_stopped, Whole.state_denied] | split | with_reducible refine (foldl_net _ ?_ _ _).trans ?_

@[simp] theorem State.scalarToQueues_net (s : State) (x1 : _) (x2 : _) : (State.scalarToQueues s x1 x2).net = s.net := by
  unfold State.scalarToQueues
  repeat' first | with_reducible rfl | with_reducible assumption | intro _ | simp only [net_mk, net_eta, Iter.state_done, Iter.state_fmt, Iter.state_trap, Whole.state_ran, Whole.state_stopped, Whole.state_denied] | split | with_reducible refine (foldl_net _ ?_ _ _).trans ?_

@[simp] theorem State.join_net (s : State) (x1 : _) (x2 : _) (x3 : _) (x4 : _) : (State.join s x1 x2 x3 x4).net = s.net := by
  unfold State.join
  repeat' first | with_reducible rfl | with_reducible assumption | intro _ | simp only [State.scalarToQueues_net, State.setDisp_net, State.setSlot_net, net_mk, net_eta, Iter.state_done, Iter.state_fmt, Iter.state_trap, Whole.state_ran, Whole.state_stopped, Whole.state_denied] | split | with_reducible refine (foldl_net _ ?_ _ _).trans ?_

theorem execLaunch_net {s t : State} {x0 : Sys2Proof.FA} {x1 : BitVec 20} {x2 : Nat} {x3 : Sys2Proof.Word} {x4 : BitVec 32} (h : execLaunch x0 x1 x2 x3 x4 s = .next t) : t.net = s.net := by
  simp only [execLaunch, Host.Outcome.next.injEq] at h
  subst h
  repeat' first | with_reducible rfl | with_reducible assumption | intro _ | simp only [State.absentDown_net, State.join_net, State.launchReply_net, State.modSlot_net, State.openInstance_net, State.progress_net, net_mk, net_eta, Iter.state_done, Iter.state_fmt, Iter.state_trap, Whole.state_ran, Whole.state_stopped, Whole.state_denied] | split | with_reducible refine (foldl_net _ ?_ _ _).trans ?_

theorem execMirrorReceive_net {s t : State} {x0 : Sys2Proof.MirrorMsg} (h : execMirrorReceive x0 s = .next t) : t.net = s.net := by
  simp only [execMirrorReceive, Host.Outcome.next.injEq] at h
  subst h
  repeat' first | with_reducible rfl | with_reducible assumption | intro _ | simp only [State.bump_net, State.mirrorAccept_net, State.park_net, State.settle_net, State.takeInbox_net, net_mk, net_eta, Iter.state_done, Iter.state_fmt, Iter.state_trap, Whole.state_ran, Whole.state_stopped, Whole.state_denied] | split | with_reducible refine (foldl_net _ ?_ _ _).trans ?_

@[simp] theorem State.rugDone_net (s : State) (x1 : _) (x2 : _) (x3 : _) (x4 : _) (x5 : _) : (State.rugDone s x1 x2 x3 x4 x5).net = s.net := by
  unfold State.rugDone
  repeat' first | with_reducible rfl | with_reducible assumption | intro _ | simp only [State.gatherBytes_net, State.markDown_net, State.modSlot_net, State.sendDown_net, net_mk, net_eta, Iter.state_done, Iter.state_fmt, Iter.state_trap, Whole.state_ran, Whole.state_stopped, Whole.state_denied] | split | with_reducible refine (foldl_net _ ?_ _ _).trans ?_

@[simp] theorem State.overlap_net (s : State) (x1 : _) (x2 : _) : (State.overlap s x1 x2).net = s.net := by
  unfold State.overlap
  repeat' first | with_reducible rfl | with_reducible assumption | intro _ | simp only [State.failInstance_net, State.raise_net, net_mk, net_eta, Iter.state_done, Iter.state_fmt, Iter.state_trap, Whole.state_ran, Whole.state_stopped, Whole.state_denied] | split | with_reducible refine (foldl_net _ ?_ _ _).trans ?_

@[simp] theorem State.rugWhole_net (s : State) (x1 : _) (x2 : _) (x3 : _) (x4 : _) (x5 : _) : (State.rugWhole s x1 x2 x3 x4 x5).net = s.net := by
  unfold State.rugWhole
  repeat' first | with_reducible rfl | with_reducible assumption | intro _ | simp only [State.after_net, State.applyWhole_net, State.overlap_net, State.rugDone_net, net_mk, net_eta, Iter.state_done, Iter.state_fmt, Iter.state_trap, Whole.state_ran, Whole.state_stopped, Whole.state_denied] | split | with_reducible refine (foldl_net _ ?_ _ _).trans ?_ | with_reducible refine (foldlB_net _ ?_ _ _).trans ?_ | with_reducible refine (foldl1_net _ ?_ _ _).trans ?_ | with_reducible refine (foldl2_net _ ?_ _ _).trans ?_

@[simp] theorem State.fetchShard_net (s : State) (x1 : _) (x2 : _) (x3 : _) (x4 : _) : (State.fetchShard s x1 x2 x3 x4).net = s.net := by
  unfold State.fetchShard
  repeat' first | with_reducible rfl | with_reducible assumption | intro _ | simp only [State.fetchAll_net, net_mk, net_eta, Iter.state_done, Iter.state_fmt, Iter.state_trap, Whole.state_ran, Whole.state_stopped, Whole.state_denied] | split | with_reducible refine (foldl_net _ ?_ _ _).trans ?_

@[simp] theorem State.rugApply_net (s : State) (x1 : _) (x2 : _) (x3 : _) (x4 : _) (x5 : _) (x6 : _) (x7 : _) (x8 : _) : (State.rugApply s x1 x2 x3 x4 x5 x6 x7 x8).net = s.net := by
  unfold State.rugApply
  repeat' first | with_reducible rfl | with_reducible assumption | intro _ | simp only [State.after_net, State.applyElems_net, State.overlap_net, State.rugDone_net, State.rugWhole_net, net_mk, net_eta, Iter.state_done, Iter.state_fmt, Iter.state_trap, Whole.state_ran, Whole.state_stopped, Whole.state_denied] | split | with_reducible refine (foldl_net _ ?_ _ _).trans ?_

@[simp] theorem State.meetUpsets_net (s : State) (x1 : _) : (State.meetUpsets s x1).net = s.net := by
  unfold State.meetUpsets
  repeat' first | with_reducible rfl | with_reducible assumption | intro _ | simp only [State.upset_net, net_mk, net_eta, Iter.state_done, Iter.state_fmt, Iter.state_trap, Whole.state_ran, Whole.state_stopped, Whole.state_denied] | split | with_reducible refine (foldl_net _ ?_ _ _).trans ?_ | with_reducible refine (foldlB_net _ ?_ _ _).trans ?_ | with_reducible refine (foldl1_net _ ?_ _ _).trans ?_ | with_reducible refine (foldl2_net _ ?_ _ _).trans ?_

theorem execRugUpdate_net {s t : State} {x0 : BitVec 20} {x1 : Nat} {x2 : List Sys2Proof.Upset} (h : execRugUpdate x0 x1 x2 s = .next t) : t.net = s.net := by
  simp only [execRugUpdate, Host.Outcome.next.injEq] at h
  subst h
  repeat' first | with_reducible rfl | with_reducible assumption | intro _ | simp only [State.fetchShard_net, State.meetUpsets_net, State.rugApply_net, State.settle_net, net_mk, net_eta, Iter.state_done, Iter.state_fmt, Iter.state_trap, Whole.state_ran, Whole.state_stopped, Whole.state_denied] | split | with_reducible refine (foldl_net _ ?_ _ _).trans ?_

@[simp] theorem State.openNorm_net (s : State) (x1 : _) (x2 : _) (x3 : _) : (State.openNorm s x1 x2 x3).net = s.net := by
  unfold State.openNorm
  repeat' first | with_reducible rfl | with_reducible assumption | intro _ | simp only [State.openInstance_net, net_mk, net_eta, Iter.state_done, Iter.state_fmt, Iter.state_trap, Whole.state_ran, Whole.state_stopped, Whole.state_denied] | split | with_reducible refine (foldl_net _ ?_ _ _).trans ?_

theorem execNormPassStart_net {s t : State} {x0 : Nat} {x1 : Nat} (h : execNormPassStart x0 x1 s = .next t) : t.net = s.net := by
  simp only [execNormPassStart, Host.Outcome.next.injEq] at h
  subst h
  repeat' first | with_reducible rfl | with_reducible assumption | intro _ | simp only [State.modNorm_net, State.openNorm_net, State.park_net, State.settle_net, net_mk, net_eta, Iter.state_done, Iter.state_fmt, Iter.state_trap, Whole.state_ran, Whole.state_stopped, Whole.state_denied] | split | with_reducible refine (foldl_net _ ?_ _ _).trans ?_ | with_reducible refine (foldlB_net _ ?_ _ _).trans ?_ | with_reducible refine (foldl1_net _ ?_ _ _).trans ?_ | with_reducible refine (foldl2_net _ ?_ _ _).trans ?_

theorem execNormResult_net {s t : State} {x0 : BitVec 20} {x1 : BitVec 32} {x2 : Nat} (h : execNormResult x0 x1 x2 s = .next t) : t.net = s.net := by
  simp only [execNormResult, Host.Outcome.next.injEq] at h
  subst h
  repeat' first | with_reducible rfl | with_reducible assumption | intro _ | simp only [State.normKnown_net, State.takeCtrl_net, net_mk, net_eta, Iter.state_done, Iter.state_fmt, Iter.state_trap, Whole.state_ran, Whole.state_stopped, Whole.state_denied] | split | with_reducible refine (foldl_net _ ?_ _ _).trans ?_

theorem execCarry_net {s t : State} (h : execCarry s = .next t) : t.net = s.net := by
  simp only [execCarry, Host.Outcome.next.injEq] at h
  subst h
  repeat' first | with_reducible rfl | with_reducible assumption | intro _ | simp only [State.carryAll_net, State.fetchAll_net, net_mk, net_eta, Iter.state_done, Iter.state_fmt, Iter.state_trap, Whole.state_ran, Whole.state_stopped, Whole.state_denied] | split | with_reducible refine (foldl_net _ ?_ _ _).trans ?_

theorem execDigestSend_net {s t : State} {x0 : Nat} (h : execDigestSend x0 s = .next t) : t.net = s.net := by
  simp only [execDigestSend, Host.Outcome.next.injEq] at h
  subst h
  repeat' first | with_reducible rfl | with_reducible assumption | intro _ | simp only [State.exchange_net, State.sendCtrl_net, net_mk, net_eta, Iter.state_done, Iter.state_fmt, Iter.state_trap, Whole.state_ran, Whole.state_stopped, Whole.state_denied] | split | with_reducible refine (foldl_net _ ?_ _ _).trans ?_

@[simp] theorem State.keptNotice_net (s : State) : (State.keptNotice s).net = s.net := by
  unfold State.keptNotice
  repeat' first | with_reducible rfl | with_reducible assumption | intro _ | simp only [State.commit_net, net_mk, net_eta, Iter.state_done, Iter.state_fmt, Iter.state_trap, Whole.state_ran, Whole.state_stopped, Whole.state_denied] | split | with_reducible refine (foldl_net _ ?_ _ _).trans ?_

@[simp] theorem State.resilverFails_net (s : State) : (State.resilverFails s).net = s.net := by
  unfold State.resilverFails
  repeat' first | with_reducible rfl | with_reducible assumption | intro _ | simp only [State.raise_net, net_mk, net_eta, Iter.state_done, Iter.state_fmt, Iter.state_trap, Whole.state_ran, Whole.state_stopped, Whole.state_denied] | split | with_reducible refine (foldl_net _ ?_ _ _).trans ?_

@[simp] theorem State.resilverNotice_net (s : State) (x1 : _) (x2 : _) (x3 : _) : (State.resilverNotice s x1 x2 x3).net = s.net := by
  unfold State.resilverNotice
  repeat' first | with_reducible rfl | with_reducible assumption | intro _ | simp only [State.raise_net, State.resilverFails_net, State.sendCtrl_net, net_mk, net_eta, Iter.state_done, Iter.state_fmt, Iter.state_trap, Whole.state_ran, Whole.state_stopped, Whole.state_denied] | split | with_reducible refine (foldl_net _ ?_ _ _).trans ?_

theorem execCommitNotice_net {s t : State} {x0 : Nat} {x1 : List Sys2Proof.Byte} (h : execCommitNotice x0 x1 s = .next t) : t.net = s.net := by
  simp only [execCommitNotice, Host.Outcome.next.injEq] at h
  subst h
  repeat' first | with_reducible rfl | with_reducible assumption | intro _ | simp only [State.commit_net, State.resilverNotice_net, State.takeCtrl_net, net_mk, net_eta, Iter.state_done, Iter.state_fmt, Iter.state_trap, Whole.state_ran, Whole.state_stopped, Whole.state_denied] | split | with_reducible refine (foldl_net _ ?_ _ _).trans ?_

theorem execCommitOnReady_net {s t : State} (h : execCommitOnReady s = .next t) : t.net = s.net := by
  simp only [execCommitOnReady, Host.Outcome.next.injEq] at h
  subst h
  repeat' first | with_reducible rfl | with_reducible assumption | intro _ | simp only [State.keptNotice_net, net_mk, net_eta, Iter.state_done, Iter.state_fmt, Iter.state_trap, Whole.state_ran, Whole.state_stopped, Whole.state_denied] | split | with_reducible refine (foldl_net _ ?_ _ _).trans ?_

@[simp] theorem Body.land_net (b : Body) (x1 : _) : (Body.land b x1).s.net = b.s.net := by
  unfold Body.land
  repeat' first | with_reducible rfl | with_reducible assumption | intro _ | simp only [net_mk, net_eta, Iter.state_done, Iter.state_fmt, Iter.state_trap, Whole.state_ran, Whole.state_stopped, Whole.state_denied] | split | with_reducible refine (foldl_net _ ?_ _ _).trans ?_ | with_reducible refine (foldlB_net _ ?_ _ _).trans ?_ | with_reducible refine (foldl1_net _ ?_ _ _).trans ?_ | with_reducible refine (foldl2_net _ ?_ _ _).trans ?_

@[simp] theorem Body.sources_net (b : Body) (x1 : _) (x2 : _) (x3 : _) (x4 : _) : (Body.sources b x1 x2 x3 x4).s.net = b.s.net := by
  unfold Body.sources
  repeat' first | with_reducible rfl | with_reducible assumption | intro _ | simp only [net_mk, net_eta, Iter.state_done, Iter.state_fmt, Iter.state_trap, Whole.state_ran, Whole.state_stopped, Whole.state_denied] | split | with_reducible refine (foldl_net _ ?_ _ _).trans ?_

@[simp] theorem Body.load_net (b : Body) (x1 : _) (x2 : _) : (Body.load b x1 x2).1.s.net = b.s.net := by
  unfold Body.load
  repeat' first | with_reducible rfl | with_reducible assumption | intro _ | simp only [net_mk, net_eta, Iter.state_done, Iter.state_fmt, Iter.state_trap, Whole.state_ran, Whole.state_stopped, Whole.state_denied] | split | with_reducible refine (foldl_net _ ?_ _ _).trans ?_

@[simp] theorem Body.stored_net (b : Body) (x1 : _) (x2 : _) (x3 : _) : (Body.stored b x1 x2 x3).s.net = b.s.net := by
  unfold Body.stored
  repeat' first | with_reducible rfl | with_reducible assumption | intro _ | simp only [State.putCode_net, net_mk, net_eta, Iter.state_done, Iter.state_fmt, Iter.state_trap, Whole.state_ran, Whole.state_stopped, Whole.state_denied] | split | with_reducible refine (foldl_net _ ?_ _ _).trans ?_ | with_reducible refine (foldlB_net _ ?_ _ _).trans ?_ | with_reducible refine (foldl1_net _ ?_ _ _).trans ?_ | with_reducible refine (foldl2_net _ ?_ _ _).trans ?_

@[simp] theorem Body.slotA_net (b : Body) (x1 : _) (x2 : _) (x3 : _) (x4 : _) : (Body.slotA b x1 x2 x3 x4).1.s.net = b.s.net := by
  unfold Body.slotA
  repeat' first | with_reducible rfl | with_reducible assumption | intro _ | simp only [Body.sources_net, net_mk, net_eta, Iter.state_done, Iter.state_fmt, Iter.state_trap, Whole.state_ran, Whole.state_stopped, Whole.state_denied] | split | with_reducible refine (foldl_net _ ?_ _ _).trans ?_

@[simp] theorem Body.slotM_net (b : Body) (x1 : _) (x2 : _) (x3 : _) (x4 : _) : (Body.slotM b x1 x2 x3 x4).1.s.net = b.s.net := by
  unfold Body.slotM
  repeat' first | with_reducible rfl | with_reducible assumption | intro _ | simp only [Body.load_net, Body.sources_net, Body.stored_net, net_mk, net_eta, Iter.state_done, Iter.state_fmt, Iter.state_trap, Whole.state_ran, Whole.state_stopped, Whole.state_denied] | split | with_reducible refine (foldl_net _ ?_ _ _).trans ?_

@[simp] theorem Body.bundle_net (b : Body) (x1 : _) (x2 : _) (x3 : _) : (Body.bundle b x1 x2 x3).s.net = b.s.net := by
  unfold Body.bundle
  repeat' first | with_reducible rfl | with_reducible assumption | intro _ | simp only [Body.land_net, Body.slotA_net, Body.slotM_net, net_mk, net_eta, Iter.state_done, Iter.state_fmt, Iter.state_trap, Whole.state_ran, Whole.state_stopped, Whole.state_denied] | split | with_reducible refine (foldl_net _ ?_ _ _).trans ?_

@[simp] theorem runBody_net (s : State) (x0 : _) (x1 : _) (x3 : _) (x4 : _) : (runBody x0 x1 s x3 x4).s.net = s.net := by
  unfold runBody
  repeat' first | with_reducible rfl | with_reducible assumption | intro _ | simp only [Body.bundle_net, net_mk, net_eta, Iter.state_done, Iter.state_fmt, Iter.state_trap, Whole.state_ran, Whole.state_stopped, Whole.state_denied] | split | with_reducible refine (foldl_net _ ?_ _ _).trans ?_ | with_reducible refine (foldlB_net _ ?_ _ _).trans ?_ | with_reducible refine (foldl1_net _ ?_ _ _).trans ?_ | with_reducible refine (foldl2_net _ ?_ _ _).trans ?_

@[simp] theorem State.kernelIter_net (s : State) (h : BitVec 20) (o : Op) (r : OpRun) : (s.kernelIter h o r).state.net = s.net := by
  unfold State.kernelIter
  split
  · rfl
  · extract_lets n x fresh regs fly b0 b e last nb left t
    have hb : b.s.net = s.net := by
      unfold b b0
      split <;> simp only [runBody_net]
    have ht : t.net = s.net := by simp only [t, State.bump_net, hb]
    clear_value t
    split
    · simp only [Iter.state_trap, State.raise_net]
      split
      · exact ht
      · simp only [State.wr_net, ht]
    · split <;> exact ht

@[simp] theorem State.convertScaled_net (s : State) (x1 : _) (x2 : _) (x3 : _) (x4 : _) (x5 : _) (x6 : _) (x7 : _) : (State.convertScaled s x1 x2 x3 x4 x5 x6 x7).state.net = s.net := by
  unfold State.convertScaled
  repeat' first | with_reducible rfl | with_reducible assumption | intro _ | simp only [State.bump_net, State.putCode_net, net_mk, net_eta, Iter.state_done, Iter.state_fmt, Iter.state_trap, Whole.state_ran, Whole.state_stopped, Whole.state_denied] | split | with_reducible refine (foldl_net _ ?_ _ _).trans ?_

@[simp] theorem State.convertIter_net (s : State) (x1 : _) (x2 : _) (x3 : _) : (State.convertIter s x1 x2 x3).state.net = s.net := by
  unfold State.convertIter
  repeat' first | with_reducible rfl | with_reducible assumption | intro _ | simp only [State.bump_net, State.convertScaled_net, State.putCode_net, net_mk, net_eta, Iter.state_done, Iter.state_fmt, Iter.state_trap, Whole.state_ran, Whole.state_stopped, Whole.state_denied] | split | with_reducible refine (foldl_net _ ?_ _ _).trans ?_

theorem State.mxProduct_net {s t : State} {x : Product} (h : s.mxProduct x = some t) : t.net = s.net := by
  simp only [State.mxProduct] at h
  split at h
  · cases h
    simp only [State.bump_net]
    refine foldl_net _ ?_ _ _
    intro t e
    rw [State.putCode_net]
  · cases h

@[simp] theorem State.mxStop_net (s : State) : (State.mxStop s).state.net = s.net := by
  unfold State.mxStop
  repeat' first | with_reducible rfl | with_reducible assumption | intro _ | simp only [State.bump_net, net_mk, net_eta, Iter.state_done, Iter.state_fmt, Iter.state_trap, Whole.state_ran, Whole.state_stopped, Whole.state_denied] | split | with_reducible refine (foldl_net _ ?_ _ _).trans ?_

@[simp] theorem State.mmulIter_net (s : State) (x1 : _) (x2 : _) : (State.mmulIter s x1 x2).state.net = s.net := by
  unfold State.mmulIter
  repeat' first | with_reducible rfl | with_reducible assumption | intro _ | simp only [State.mxStop_net, net_mk, net_eta, Iter.state_done, Iter.state_fmt, Iter.state_trap, Whole.state_ran, Whole.state_stopped, Whole.state_denied] | with_reducible refine (State.mxProduct_net (by assumption)).trans ?_ | split | with_reducible refine (foldl_net _ ?_ _ _).trans ?_

theorem State.mxEntry_net {s t : State} {o : Op} {i : Nat} {e : GEntry} {d1 : Option Descr} {fa : Nat} {b : Nat → Nat → Option Val}
    {d2 d0 : Descr} (h : s.mxEntry o i e d1 fa b d2 d0 = some t) : t.net = s.net := by
  simp only [State.mxEntry] at h
  split at h
  · cases h; simp only [State.bump_net]
  · split at h
    · cases h
    · exact State.mxProduct_net h

@[simp] theorem walkTable_net (o : Op) (i : Nat) (d1 : Option Descr) (fa : Nat) (b : Nat → Nat → Option Val) (d2 d0 : Descr)
    (en : State → Nat → Option GEntry) (n g : Nat) (s : State) : (State.walkTable o i d1 fa b d2 d0 en n g s).1.net = s.net := by
  induction n generalizing g s with
  | zero => rfl
  | succ n ih =>
    rw [State.walkTable]
    split
    · rename_i t ht
      obtain ⟨e, _, h⟩ := Option.bind_eq_some_iff.mp ht
      rw [ih, State.mxEntry_net h]
    · rfl

@[simp] theorem State.mgroupIter_net (s : State) (h : BitVec 20) (o : Op) (r : OpRun) : (s.mgroupIter h o r).state.net = s.net := by
  unfold State.mgroupIter
  repeat' first | with_reducible rfl | intro _ | simp only [walkTable_net, State.mxStop_net, State.raise_net, Iter.state_done, Iter.state_trap] | split

@[simp] theorem State.modQ_net (s : State) (x1 : _) (x2 : _) (x3 : _) : (State.modQ s x1 x2 x3).net = s.net := by
  unfold State.modQ
  repeat' first | with_reducible rfl | with_reducible assumption | intro _ | simp only [net_mk, net_eta, Iter.state_done, Iter.state_fmt, Iter.state_trap, Whole.state_ran, Whole.state_stopped, Whole.state_denied] | split | with_reducible refine (foldl_net _ ?_ _ _).trans ?_

@[simp] theorem State.writeOut_net (s : State) (x1 : _) (x2 : _) (x3 : _) : ((State.writeOut s x1 x2 x3).state s).net = s.net := by
  unfold State.writeOut
  repeat' first | with_reducible rfl | with_reducible assumption | intro _ | simp only [State.putCodes_net, net_mk, net_eta, Iter.state_done, Iter.state_fmt, Iter.state_trap, Whole.state_ran, Whole.state_stopped, Whole.state_denied] | split | with_reducible refine (foldl_net _ ?_ _ _).trans ?_

theorem State.reading_net {s : State} {d : Descr} {l : List (List Nat)} {f : List Nat → Whole}
    (h : ∀ cs, ((f cs).state s).net = s.net) : ((s.reading d l f).state s).net = s.net := by
  unfold State.reading
  split
  · exact h _
  · rfl

theorem Whole.andThen_net {s : State} {w : Whole} {f : State → Whole} (hw : (w.state s).net = s.net)
    (h : ∀ t, ((f t).state t).net = t.net) : ((w.andThen f).state s).net = s.net := by
  cases w with
  | ran t =>
    refine Eq.trans ?_ hw
    have e := h t
    show ((f t).state s).net = t.net
    cases hf : f t with
    | denied => exact hw.symm
    | ran u => rw [hf] at e; exact e
    | stopped u => rw [hf] at e; exact e
  | stopped t => exact hw
  | denied => rfl

theorem Whole.goodIf_net {s : State} {w : Whole} {b : Bool} (hw : (w.state s).net = s.net) : ((w.goodIf b).state s).net = s.net := by
  rw [Whole.goodIf_state, hw]

@[simp] theorem State.sortOp_net (s : State) (x1 : _) (x2 : _) (x3 : _) (x4 : _) (x5 : _) : ((State.sortOp s x1 x2 x3 x4 x5).state s).net = s.net := by
  unfold State.sortOp
  repeat' first | with_reducible rfl | with_reducible assumption | intro _ | simp only [State.writeOut_net, net_mk, net_eta, Iter.state_done, Iter.state_fmt, Iter.state_trap, Whole.state_ran, Whole.state_stopped, Whole.state_denied] | split | with_reducible refine (foldl_net _ ?_ _ _).trans ?_ | with_reducible refine Whole.andThen_net ?_ fun _ => ?_ | with_reducible refine State.reading_net fun _ => ?_

@[simp] theorem State.topkOp_net (s : State) (x1 : _) (x2 : _) (x3 : _) (x4 : _) (x5 : _) : ((State.topkOp s x1 x2 x3 x4 x5).state s).net = s.net := by
  unfold State.topkOp
  repeat' first | with_reducible rfl | with_reducible assumption | intro _ | simp only [State.writeOut_net, net_mk, net_eta, Iter.state_done, Iter.state_fmt, Iter.state_trap, Whole.state_ran, Whole.state_stopped, Whole.state_denied] | split | with_reducible refine (foldl_net _ ?_ _ _).trans ?_ | with_reducible refine Whole.andThen_net ?_ fun _ => ?_ | with_reducible refine State.reading_net fun _ => ?_

@[simp] theorem State.filterOp_net (s : State) (x1 : _) (x2 : _) (x3 : _) (x4 : _) (x5 : _) : ((State.filterOp s x1 x2 x3 x4 x5).state s).net = s.net := by
  unfold State.filterOp
  repeat' first | with_reducible rfl | with_reducible assumption | intro _ | simp only [State.writeOut_net, net_mk, net_eta, Iter.state_done, Iter.state_fmt, Iter.state_trap, Whole.state_ran, Whole.state_stopped, Whole.state_denied] | split | with_reducible refine (foldl_net _ ?_ _ _).trans ?_ | with_reducible refine Whole.andThen_net ?_ fun _ => ?_ | with_reducible refine State.reading_net fun _ => ?_

@[simp] theorem State.compactOp_net (s : State) (x1 : _) (x2 : _) (x3 : _) (x4 : _) (x5 : _) : ((State.compactOp s x1 x2 x3 x4 x5).state s).net = s.net := by
  unfold State.compactOp
  repeat' first | with_reducible rfl | with_reducible assumption | intro _ | simp only [State.writeOut_net, net_mk, net_eta, Iter.state_done, Iter.state_fmt, Iter.state_trap, Whole.state_ran, Whole.state_stopped, Whole.state_denied] | split | with_reducible refine (foldl_net _ ?_ _ _).trans ?_ | with_reducible refine Whole.goodIf_net ?_ | with_reducible refine State.reading_net fun _ => ?_

@[simp] theorem State.scanOp_net (s : State) (x1 : _) (x2 : _) (x3 : _) (x4 : _) : ((State.scanOp s x1 x2 x3 x4).state s).net = s.net := by
  unfold State.scanOp
  repeat' first | with_reducible rfl | with_reducible assumption | intro _ | simp only [State.bump_net, State.writeOut_net, net_mk, net_eta, Iter.state_done, Iter.state_fmt, Iter.state_trap, Whole.state_ran, Whole.state_stopped, Whole.state_denied] | split | with_reducible refine (foldl_net _ ?_ _ _).trans ?_ | with_reducible refine Whole.andThen_net ?_ fun _ => ?_ | with_reducible refine State.reading_net fun _ => ?_

@[simp] theorem State.histOp_net (s : State) (x1 : _) (x2 : _) (x3 : _) (x4 : _) : ((State.histOp s x1 x2 x3 x4).state s).net = s.net := by
  unfold State.histOp
  repeat' first | with_reducible rfl | with_reducible assumption | intro _ | simp only [State.writeOut_net, net_mk, net_eta, Iter.state_done, Iter.state_fmt, Iter.state_trap, Whole.state_ran, Whole.state_stopped, Whole.state_denied] | split | with_reducible refine (foldl_net _ ?_ _ _).trans ?_ | with_reducible refine State.reading_net fun _ => ?_

@[simp] theorem State.rlzEncOp_net (s : State) (x1 : _) (x2 : _) (x3 : _) (x4 : _) : ((State.rlzEncOp s x1 x2 x3 x4).state s).net = s.net := by
  unfold State.rlzEncOp
  repeat' first | with_reducible rfl | with_reducible assumption | intro _ | simp only [State.writeOut_net, net_mk, net_eta, Iter.state_done, Iter.state_fmt, Iter.state_trap, Whole.state_ran, Whole.state_stopped, Whole.state_denied] | split | with_reducible refine (foldl_net _ ?_ _ _).trans ?_ | with_reducible refine State.reading_net fun _ => ?_

@[simp] theorem State.rlzDecOp_net (s : State) (x1 : _) (x2 : _) (x3 : _) (x4 : _) : ((State.rlzDecOp s x1 x2 x3 x4).state s).net = s.net := by
  unfold State.rlzDecOp
  repeat' first | with_reducible rfl | with_reducible assumption | intro _ | simp only [State.writeOut_net, net_mk, net_eta, Iter.state_done, Iter.state_fmt, Iter.state_trap, Whole.state_ran, Whole.state_stopped, Whole.state_denied] | split | with_reducible refine (foldl_net _ ?_ _ _).trans ?_ | with_reducible refine Whole.goodIf_net ?_ | with_reducible refine State.reading_net fun _ => ?_

@[simp] theorem State.pack28Op_net (s : State) (x1 : _) (x2 : _) (x3 : _) (x4 : _) (x5 : _) : ((State.pack28Op s x1 x2 x3 x4 x5).state s).net = s.net := by
  unfold State.pack28Op
  repeat' first | with_reducible rfl | with_reducible assumption | intro _ | simp only [State.writeOut_net, net_mk, net_eta, Iter.state_done, Iter.state_fmt, Iter.state_trap, Whole.state_ran, Whole.state_stopped, Whole.state_denied] | split | with_reducible refine (foldl_net _ ?_ _ _).trans ?_ | with_reducible refine Whole.andThen_net ?_ fun _ => ?_ | with_reducible refine Whole.goodIf_net ?_ | with_reducible refine State.reading_net fun _ => ?_

@[simp] theorem State.sieveOp_net (s : State) (x1 : _) (x2 : _) : ((State.sieveOp s x1 x2).state s).net = s.net := by
  unfold State.sieveOp
  repeat' first | with_reducible rfl | with_reducible assumption | intro _ | simp only [State.compactOp_net, State.filterOp_net, State.histOp_net, State.pack28Op_net, State.rlzDecOp_net, State.rlzEncOp_net, State.scanOp_net, State.sortOp_net, State.topkOp_net, net_mk, net_eta, Iter.state_done, Iter.state_fmt, Iter.state_trap, Whole.state_ran, Whole.state_stopped, Whole.state_denied] | split | with_reducible refine (foldl_net _ ?_ _ _).trans ?_

@[simp] theorem State.sieveIter_net (s : State) (o : Op) (r : OpRun) : (s.sieveIter o r).state.net = s.net := by
  have h := State.sieveOp_net s o r.iter
  unfold State.sieveIter
  split
  · rename_i t ht; rw [ht] at h; exact h
  · rename_i t ht; rw [ht] at h; simp only [Iter.state_fmt, State.bump_net]; exact h
  · rfl

@[simp] theorem State.foldIter_net (s : State) (x1 : _) (x2 : _) : (State.foldIter s x1 x2).state.net = s.net := by
  unfold State.foldIter
  repeat' first | with_reducible rfl | with_reducible assumption | intro _ | simp only [State.bump_net, State.putCode_net, net_mk, net_eta, Iter.state_done, Iter.state_fmt, Iter.state_trap, Whole.state_ran, Whole.state_stopped, Whole.state_denied] | split | with_reducible refine (foldl_net _ ?_ _ _).trans ?_

@[simp] theorem State.blkexpIter_net (s : State) (x1 : _) (x2 : _) : (State.blkexpIter s x1 x2).state.net = s.net := by
  unfold State.blkexpIter
  repeat' first | with_reducible rfl | with_reducible assumption | intro _ | simp only [State.putCode_net, net_mk, net_eta, Iter.state_done, Iter.state_fmt, Iter.state_trap, Whole.state_ran, Whole.state_stopped, Whole.state_denied] | split | with_reducible refine (foldl_net _ ?_ _ _).trans ?_

@[simp] theorem State.sendWrite_net (s : State) (x1 : _) (x2 : _) (x3 : _) (x4 : _) (x5 : _) : (State.sendWrite s x1 x2 x3 x4 x5).net = s.net := by
  unfold State.sendWrite
  repeat' first | with_reducible rfl | with_reducible assumption | intro _ | simp only [State.sendMessage_net, net_mk, net_eta, Iter.state_done, Iter.state_fmt, Iter.state_trap, Whole.state_ran, Whole.state_stopped, Whole.state_denied] | split | with_reducible refine (foldl_net _ ?_ _ _).trans ?_

@[simp] theorem State.copyIter_net (s : State) (x1 : _) (x2 : _) (x3 : _) : (State.copyIter s x1 x2 x3).state.net = s.net := by
  unfold State.copyIter
  repeat' first | with_reducible rfl | with_reducible assumption | intro _ | simp only [State.putCode_net, State.sendWrite_net, net_mk, net_eta, Iter.state_done, Iter.state_fmt, Iter.state_trap, Whole.state_ran, Whole.state_stopped, Whole.state_denied] | split | with_reducible refine (foldl_net _ ?_ _ _).trans ?_

@[simp] theorem State.fillIter_net (s : State) (x1 : _) (x2 : _) : (State.fillIter s x1 x2).state.net = s.net := by
  unfold State.fillIter
  repeat' first | with_reducible rfl | with_reducible assumption | intro _ | simp only [State.putCode_net, net_mk, net_eta, Iter.state_done, Iter.state_fmt, Iter.state_trap, Whole.state_ran, Whole.state_stopped, Whole.state_denied] | split | with_reducible refine (foldl_net _ ?_ _ _).trans ?_

@[simp] theorem State.controlOp_net (s : State) (x1 : _) (x2 : _) (x3 : _) (x4 : _) : (State.controlOp s x1 x2 x3 x4).state.net = s.net := by
  unfold State.controlOp
  repeat' first | with_reducible rfl | with_reducible assumption | intro _ | simp only [State.bump_net, State.modQ_net, net_mk, net_eta, Iter.state_done, Iter.state_fmt, Iter.state_trap, Whole.state_ran, Whole.state_stopped, Whole.state_denied] | split | with_reducible refine (foldl_net _ ?_ _ _).trans ?_

@[simp] theorem State.unsound_net (s : State) (x1 : _) : (State.unsound s x1).state.net = s.net := by
  unfold State.unsound
  repeat' first | with_reducible rfl | with_reducible assumption | intro _ | simp only [State.mxStop_net, net_mk, net_eta, Iter.state_done, Iter.state_fmt, Iter.state_trap, Whole.state_ran, Whole.state_stopped, Whole.state_denied] | split | with_reducible refine (foldl_net _ ?_ _ _).trans ?_

@[simp] theorem State.soundIter_net (s : State) (x1 : _) (x2 : _) (x3 : _) (x4 : _) : (State.soundIter s x1 x2 x3 x4).state.net = s.net := by
  unfold State.soundIter
  repeat' first | with_reducible rfl | with_reducible assumption | intro _ | simp only [State.blkexpIter_net, State.controlOp_net, State.convertIter_net, State.copyIter_net, State.fillIter_net, State.foldIter_net, State.kernelIter_net, State.mgroupIter_net, State.mmulIter_net, State.sieveIter_net, net_mk, net_eta, Iter.state_done, Iter.state_fmt, Iter.state_trap, Whole.state_ran, Whole.state_stopped, Whole.state_denied] | split | with_reducible refine (foldl_net _ ?_ _ _).trans ?_

@[simp] theorem State.runIter_net (s : State) (x1 : _) (x2 : _) (x3 : _) (x4 : _) : (State.runIter s x1 x2 x3 x4).state.net = s.net := by
  unfold State.runIter
  repeat' first | with_reducible rfl | with_reducible assumption | intro _ | simp only [State.soundIter_net, State.unsound_net, net_mk, net_eta, Iter.state_done, Iter.state_fmt, Iter.state_trap, Whole.state_ran, Whole.state_stopped, Whole.state_denied] | split | with_reducible refine (foldl_net _ ?_ _ _).trans ?_

@[simp] theorem State.skipIter_net (s : State) (x1 : _) (x2 : _) (x3 : _) : (State.skipIter s x1 x2 x3).state.net = s.net := by
  unfold State.skipIter
  repeat' first | with_reducible rfl | with_reducible assumption | intro _ | simp only [State.sendWrite_net, net_mk, net_eta, Iter.state_done, Iter.state_fmt, Iter.state_trap, Whole.state_ran, Whole.state_stopped, Whole.state_denied] | split | with_reducible refine (foldl_net _ ?_ _ _).trans ?_

@[simp] theorem State.withBank_net (s : State) (x1 : _) : (State.withBank s x1).net = s.net := by
  unfold State.withBank
  repeat' first | with_reducible rfl | with_reducible assumption | intro _ | simp only [net_mk, net_eta, Iter.state_done, Iter.state_fmt, Iter.state_trap, Whole.state_ran, Whole.state_stopped, Whole.state_denied] | split | with_reducible refine (foldl_net _ ?_ _ _).trans ?_

@[simp] theorem Iter.restore_net (b : Bool) (i : Iter) : (i.restore b).state.net = i.state.net := by
  cases i <;> rfl

@[simp] theorem State.iterated_net (s : State) (x1 : _) (x2 : _) (x3 : _) (x4 : _) : (State.iterated s x1 x2 x3 x4).net = s.net := by
  unfold State.iterated
  repeat' first | with_reducible rfl | with_reducible assumption | intro _ | simp only [State.addToken_net, State.modQ_net, net_mk, net_eta, Iter.state_done, Iter.state_fmt, Iter.state_trap, Whole.state_ran, Whole.state_stopped, Whole.state_denied] | split | with_reducible refine (foldl_net _ ?_ _ _).trans ?_ | with_reducible refine (foldlB_net _ ?_ _ _).trans ?_ | with_reducible refine (foldl1_net _ ?_ _ _).trans ?_ | with_reducible refine (foldl2_net _ ?_ _ _).trans ?_

@[simp] theorem State.landWrite_net (s : State) (x1 : _) : (State.landWrite s x1).net = s.net := by
  unfold State.landWrite
  repeat' first | with_reducible rfl | with_reducible assumption | intro _ | simp only [State.addToken_net, State.bump_net, State.failInstance_net, State.putWalk_net, net_mk, net_eta, Iter.state_done, Iter.state_fmt, Iter.state_trap, Whole.state_ran, Whole.state_stopped, Whole.state_denied] | split | with_reducible refine (foldl_net _ ?_ _ _).trans ?_

@[simp] theorem State.landFetch_net (s : State) (x1 : _) : (State.landFetch s x1).net = s.net := by
  unfold State.landFetch
  repeat' first | with_reducible rfl | with_reducible assumption | intro _ | simp only [State.fetchPlace_net, net_mk, net_eta, Iter.state_done, Iter.state_fmt, Iter.state_trap, Whole.state_ran, Whole.state_stopped, Whole.state_denied] | split | with_reducible refine (foldl_net _ ?_ _ _).trans ?_ | with_reducible refine (foldlB_net _ ?_ _ _).trans ?_ | with_reducible refine (foldl1_net _ ?_ _ _).trans ?_ | with_reducible refine (foldl2_net _ ?_ _ _).trans ?_

theorem execWriteMessageReceive_net {s t : State} {x0 : Sys2Proof.WriteMsg} (h : execWriteMessageReceive x0 s = .next t) : t.net = s.net := by
  simp only [execWriteMessageReceive, Host.Outcome.next.injEq] at h
  subst h
  repeat' first | with_reducible rfl | with_reducible assumption | intro _ | simp only [State.bump_net, State.landFetch_net, State.landWrite_net, State.openFor_net, State.progress_net, State.takeInbox_net, net_mk, net_eta, Iter.state_done, Iter.state_fmt, Iter.state_trap, Whole.state_ran, Whole.state_stopped, Whole.state_denied] | split | with_reducible refine (foldl_net _ ?_ _ _).trans ?_

theorem execQueueContextStart_net {s t : State} (h : execQueueContextStart s = .next t) : t.net = s.net := by
  simp only [execQueueContextStart, Host.Outcome.next.injEq] at h
  subst h
  repeat' first | with_reducible rfl | with_reducible assumption | intro _ | simp only [State.landFetch_net, State.landWrite_net, State.progress_net, net_mk, net_eta, Iter.state_done, Iter.state_fmt, Iter.state_trap, Whole.state_ran, Whole.state_stopped, Whole.state_denied] | split | with_reducible refine (foldl_net _ ?_ _ _).trans ?_ | with_reducible refine (foldlB_net _ ?_ _ _).trans ?_ | with_reducible refine (foldl1_net _ ?_ _ _).trans ?_ | with_reducible refine (foldl2_net _ ?_ _ _).trans ?_

theorem execOpIssue_net {s t : State} {x0 : BitVec 20} {x1 : Nat} (h : execOpIssue x0 x1 s = .next t) : t.net = s.net := by
  simp only [execOpIssue, Host.Outcome.next.injEq] at h
  subst h
  repeat' first | with_reducible rfl | with_reducible assumption | intro _ | simp only [State.bump_net, State.modQ_net, net_mk, net_eta, Iter.state_done, Iter.state_fmt, Iter.state_trap, Whole.state_ran, Whole.state_stopped, Whole.state_denied] | split | with_reducible refine (foldl_net _ ?_ _ _).trans ?_

@[simp] theorem State.opFetch_net (s : State) (x1 : _) (x2 : _) : (State.opFetch s x1 x2).net = s.net := by
  unfold State.opFetch
  repeat' first | with_reducible rfl | with_reducible assumption | intro _ | simp only [State.fetchPlace_net, State.withBank_net, net_mk, net_eta, Iter.state_done, Iter.state_fmt, Iter.state_trap, Whole.state_ran, Whole.state_stopped, Whole.state_denied] | split | with_reducible refine (foldl_net _ ?_ _ _).trans ?_ | with_reducible refine (foldlB_net _ ?_ _ _).trans ?_ | with_reducible refine (foldl1_net _ ?_ _ _).trans ?_ | with_reducible refine (foldl2_net _ ?_ _ _).trans ?_

theorem execOpIterationDone_net {s t : State} {hd : BitVec 20} {qid : Nat} (h : execOpIterationDone hd qid s = .next t) : t.net = s.net := by
  simp only [execOpIterationDone, Host.Outcome.next.injEq] at h
  subst h
  split
  · rfl
  · rename_i q o run _
    split
    · rfl
    · have hw : (if run.skipped = true then s else s.opFetch o run).net = s.net := by
        split
        · rfl
        · rw [State.opFetch_net]
      generalize (if run.skipped = true then s else s.opFetch o run) = w at hw ⊢
      split
      · rw [State.settle_net, hw]
      · have hu : ((if run.waited = true then w else w.modQ hd qid fun q => q.take o.wait).withBank run.bankB).net = s.net := by
          rw [State.withBank_net]
          split
          · exact hw
          · rw [State.modQ_net, hw]
        generalize (if run.waited = true then w else w.modQ hd qid fun q => q.take o.wait).withBank run.bankB = u at hu ⊢
        split
        · exact hw
        · have hi : ((if run.skipped = true then u.skipIter hd o run else u.runIter hd qid o run).restore s.led.srcB).state.net = s.net := by
            rw [Iter.restore_net]
            split
            · rw [State.skipIter_net, hu]
            · rw [State.runIter_net, hu]
          generalize (if run.skipped = true then u.skipIter hd o run else u.runIter hd qid o run).restore s.led.srcB = i at hi ⊢
          cases i with
          | done v r => simp only [State.progress_net, State.iterated_net]; exact hi
          | formatError v => simp only [State.settle_net, State.failInstance_net]; exact hi
          | trap v => simp only [State.settle_net, State.failInstance_net]; exact hi

theorem execWaitCycle_net {s t : State} {x0 : BitVec 20} (h : execWaitCycle x0 s = .next t) : t.net = s.net := by
  simp only [execWaitCycle, Host.Outcome.next.injEq] at h
  subst h
  repeat' first | with_reducible rfl | with_reducible assumption | intro _ | simp only [State.bump_net, State.failInstance_net, State.raise_net, State.settle_net, net_mk, net_eta, Iter.state_done, Iter.state_fmt, Iter.state_trap, Whole.state_ran, Whole.state_stopped, Whole.state_denied] | split | with_reducible refine (foldl_net _ ?_ _ _).trans ?_

@[simp] theorem State.busWrite_net (s : State) (x1 : _) (x2 : _) : (State.busWrite s x1 x2).net = s.net := by
  unfold State.busWrite
  repeat' first | with_reducible rfl | with_reducible assumption | intro _ | simp only [State.emit_net, net_mk, net_eta, Iter.state_done, Iter.state_fmt, Iter.state_trap, Whole.state_ran, Whole.state_stopped, Whole.state_denied] | split | with_reducible refine (foldl_net _ ?_ _ _).trans ?_

@[simp] theorem State.setRing_net (s : State) (x1 : _) (x2 : _) : (State.setRing s x1 x2).net = s.net := by
  unfold State.setRing
  repeat' first | with_reducible rfl | with_reducible assumption | intro _ | simp only [net_mk, net_eta, Iter.state_done, Iter.state_fmt, Iter.state_trap, Whole.state_ran, Whole.state_stopped, Whole.state_denied] | split | with_reducible refine (foldl_net _ ?_ _ _).trans ?_

@[simp] theorem State.ringError_net (s : State) (x1 : _) : (State.ringError s x1).net = s.net := by
  unfold State.ringError
  repeat' first | with_reducible rfl | with_reducible assumption | intro _ | simp only [State.raise_net, State.setRing_net, net_mk, net_eta, Iter.state_done, Iter.state_fmt, Iter.state_trap, Whole.state_ran, Whole.state_stopped, Whole.state_denied] | split | with_reducible refine (foldl_net _ ?_ _ _).trans ?_

@[simp] theorem State.interrupt_net (s : State) (x1 : _) : (State.interrupt s x1).net = s.net := by
  unfold State.interrupt
  repeat' first | with_reducible rfl | with_reducible assumption | intro _ | simp only [State.emit_net, State.wr_net, net_mk, net_eta, Iter.state_done, Iter.state_fmt, Iter.state_trap, Whole.state_ran, Whole.state_stopped, Whole.state_denied] | split | with_reducible refine (foldl_net _ ?_ _ _).trans ?_

@[simp] theorem State.msiWrite_net (s : State) (x1 : _) (x2 : _) : (State.msiWrite s x1 x2).net = s.net := by
  unfold State.msiWrite
  repeat' first | with_reducible rfl | with_reducible assumption | intro _ | simp only [State.interrupt_net, State.wr_net, net_mk, net_eta, Iter.state_done, Iter.state_fmt, Iter.state_trap, Whole.state_ran, Whole.state_stopped, Whole.state_denied] | split | with_reducible refine (foldl_net _ ?_ _ _).trans ?_

@[simp] theorem State.writeHeld_net (s : State) (x1 : _) : (State.writeHeld s x1).1.net = s.net := by
  unfold State.writeHeld
  repeat' first | with_reducible rfl | with_reducible assumption | intro _ | simp only [State.emit_net, State.setRing_net, net_mk, net_eta, Iter.state_done, Iter.state_fmt, Iter.state_trap, Whole.state_ran, Whole.state_stopped, Whole.state_denied] | split | with_reducible refine (foldl_net _ ?_ _ _).trans ?_

@[simp] theorem flushAux_net (cq n : Nat) (r : State × Bool) : (State.flushAux cq n r).1.net = r.1.net := by
  induction n generalizing r with
  | zero => rfl
  | succ n ih =>
    obtain ⟨s, any⟩ := r
    have e := State.writeHeld_net s cq
    cases hw : s.writeHeld cq with
    | mk t did =>
      rw [hw] at e
      simp only [State.flushAux, hw]
      split
      · rw [ih]; exact e
      · rfl

@[simp] theorem State.flushCq_net (s : State) (cq : Nat) : (s.flushCq cq).net = s.net := by
  simp only [State.flushCq]
  split <;> simp only [State.interrupt_net, flushAux_net]

@[simp] theorem State.trace_net (s : State) (x1 : _) (x2 : _) (x3 : _) (x4 : _) : (State.trace s x1 x2 x3 x4).net = s.net := by
  unfold State.trace
  repeat' first | with_reducible rfl | with_reducible assumption | intro _ | simp only [State.bump_net, State.draw_net, State.emit_net, net_mk, net_eta, Iter.state_done, Iter.state_fmt, Iter.state_trap, Whole.state_ran, Whole.state_stopped, Whole.state_denied] | split | with_reducible refine (foldl_net _ ?_ _ _).trans ?_

@[simp] theorem State.complete_net (s : State) (x1 : _) (x2 : _) (x3 : _) (x4 : _) (x5 : _) : (State.complete s x1 x2 x3 x4 x5).net = s.net := by
  unfold State.complete
  repeat' first | with_reducible rfl | with_reducible assumption | intro _ | simp only [State.flushCq_net, State.setRing_net, State.trace_net, net_mk, net_eta, Iter.state_done, Iter.state_fmt, Iter.state_trap, Whole.state_ran, Whole.state_stopped, Whole.state_denied] | split | with_reducible refine (foldl_net _ ?_ _ _).trans ?_

@[simp] theorem State.fail_net (s : State) (x1 : _) (x2 : _) (x3 : _) : (State.fail s x1 x2 x3).net = s.net := by
  unfold State.fail
  repeat' first | with_reducible rfl | with_reducible assumption | intro _ | simp only [State.complete_net, net_mk, net_eta, Iter.state_done, Iter.state_fmt, Iter.state_trap, Whole.state_ran, Whole.state_stopped, Whole.state_denied] | split | with_reducible refine (foldl_net _ ?_ _ _).trans ?_

@[simp] theorem State.ok_net (s : State) (x1 : _) (x2 : _) (x3 : _) : (State.ok s x1 x2 x3).net = s.net := by
  unfold State.ok
  repeat' first | with_reducible rfl | with_reducible assumption | intro _ | simp only [State.complete_net, net_mk, net_eta, Iter.state_done, Iter.state_fmt, Iter.state_trap, Whole.state_ran, Whole.state_stopped, Whole.state_denied] | split | with_reducible refine (foldl_net _ ?_ _ _).trans ?_

@[simp] theorem State.sqBell_net (s : State) (x1 : _) (x2 : _) : (State.sqBell s x1 x2).net = s.net := by
  unfold State.sqBell
  repeat' first | with_reducible rfl | with_reducible assumption | intro _ | simp only [State.ringError_net, State.setRing_net, net_mk, net_eta, Iter.state_done, Iter.state_fmt, Iter.state_trap, Whole.state_ran, Whole.state_stopped, Whole.state_denied] | split | with_reducible refine (foldl_net _ ?_ _ _).trans ?_

@[simp] theorem State.cqBell_net (s : State) (x1 : _) (x2 : _) : (State.cqBell s x1 x2).net = s.net := by
  unfold State.cqBell
  repeat' first | with_reducible rfl | with_reducible assumption | intro _ | simp only [State.flushCq_net, State.ringError_net, State.setRing_net, net_mk, net_eta, Iter.state_done, Iter.state_fmt, Iter.state_trap, Whole.state_ran, Whole.state_stopped, Whole.state_denied] | split | with_reducible refine (foldl_net _ ?_ _ _).trans ?_

@[simp] theorem State.ringWrite_net (s : State) (x1 : _) (x2 : _) : (State.ringWrite s x1 x2).net = s.net := by
  unfold State.ringWrite
  repeat' first | with_reducible rfl | with_reducible assumption | intro _ | simp only [State.flushCq_net, State.raise_net, State.setRing_net, net_mk, net_eta, Iter.state_done, Iter.state_fmt, Iter.state_trap, Whole.state_ran, Whole.state_stopped, Whole.state_denied] | split | with_reducible refine (foldl_net _ ?_ _ _).trans ?_

theorem execSqDoorbell_net {s t : State} {x0 : Nat} {x1 : Sys2Proof.Word} (h : execSqDoorbell x0 x1 s = .next t) : t.net = s.net := by
  simp only [execSqDoorbell, Host.Outcome.next.injEq] at h
  subst h
  repeat' first | with_reducible rfl | with_reducible assumption | intro _ | simp only [State.sqBell_net, net_mk, net_eta, Iter.state_done, Iter.state_fmt, Iter.state_trap, Whole.state_ran, Whole.state_stopped, Whole.state_denied] | split | with_reducible refine (foldl_net _ ?_ _ _).trans ?_

theorem execCqDoorbell_net {s t : State} {x0 : Nat} {x1 : Sys2Proof.Word} (h : execCqDoorbell x0 x1 s = .next t) : t.net = s.net := by
  simp only [execCqDoorbell, Host.Outcome.next.injEq] at h
  subst h
  repeat' first | with_reducible rfl | with_reducible assumption | intro _ | simp only [State.cqBell_net, net_mk, net_eta, Iter.state_done, Iter.state_fmt, Iter.state_trap, Whole.state_ran, Whole.state_stopped, Whole.state_denied] | split | with_reducible refine (foldl_net _ ?_ _ _).trans ?_

theorem execRingConfigWrite_net {s t : State} {x0 : Nat} {x1 : Sys2Proof.Word} (h : execRingConfigWrite x0 x1 s = .next t) : t.net = s.net := by
  simp only [execRingConfigWrite, Host.Outcome.next.injEq] at h
  subst h
  repeat' first | with_reducible rfl | with_reducible assumption | intro _ | simp only [State.ringWrite_net, net_mk, net_eta, Iter.state_done, Iter.state_fmt, Iter.state_trap, Whole.state_ran, Whole.state_stopped, Whole.state_denied] | split | with_reducible refine (foldl_net _ ?_ _ _).trans ?_

theorem execMsiUnmask_net {s t : State} {x0 : Nat} {x1 : Sys2Proof.Word} (h : execMsiUnmask x0 x1 s = .next t) : t.net = s.net := by
  simp only [execMsiUnmask, Host.Outcome.next.injEq] at h
  subst h
  repeat' first | with_reducible rfl | with_reducible assumption | intro _ | simp only [State.msiWrite_net, net_mk, net_eta, Iter.state_done, Iter.state_fmt, Iter.state_trap, Whole.state_ran, Whole.state_stopped, Whole.state_denied] | split | with_reducible refine (foldl_net _ ?_ _ _).trans ?_

theorem execSqEntryFetch_net {s t : State} {x0 : Nat} {x1 : List Sys2Proof.Byte} (h : execSqEntryFetch x0 x1 s = .next t) : t.net = s.net := by
  simp only [execSqEntryFetch, Host.Outcome.next.injEq] at h
  subst h
  repeat' first | with_reducible rfl | with_reducible assumption | intro _ | simp only [State.fail_net, State.setRing_net, State.trace_net, net_mk, net_eta, Iter.state_done, Iter.state_fmt, Iter.state_trap, Whole.state_ran, Whole.state_stopped, Whole.state_denied] | split | with_reducible refine (foldl_net _ ?_ _ _).trans ?_

@[simp] theorem State.refuseAt_net (s : State) (x1 : _) (x2 : _) (x3 : _) : (State.refuseAt s x1 x2 x3).net = s.net := by
  unfold State.refuseAt
  repeat' first | with_reducible rfl | with_reducible assumption | intro _ | simp only [State.fail_net, net_mk, net_eta, Iter.state_done, Iter.state_fmt, Iter.state_trap, Whole.state_ran, Whole.state_stopped, Whole.state_denied] | split | with_reducible refine (foldl_net _ ?_ _ _).trans ?_ | with_reducible refine (foldlB_net _ ?_ _ _).trans ?_ | with_reducible refine (foldl1_net _ ?_ _ _).trans ?_ | with_reducible refine (foldl2_net _ ?_ _ _).trans ?_

@[simp] theorem State.answer_net (s : State) (x1 : _) (x2 : _) (x3 : _) : (State.answer s x1 x2 x3).net = s.net := by
  unfold State.answer
  repeat' first | with_reducible rfl | with_reducible assumption | intro _ | simp only [State.emit_net, State.fail_net, State.ok_net, net_mk, net_eta, Iter.state_done, Iter.state_fmt, Iter.state_trap, Whole.state_ran, Whole.state_stopped, Whole.state_denied] | split | with_reducible refine (foldl_net _ ?_ _ _).trans ?_

@[simp] theorem State.sparseForget_net (s : State) (x1 : _) (x2 : _) (x3 : _) : (State.sparseForget s x1 x2 x3).net = s.net := by
  unfold State.sparseForget
  repeat' first | with_reducible rfl | with_reducible assumption | intro _ | simp only [State.pass1_net, State.setSparse_net, net_mk, net_eta, Iter.state_done, Iter.state_fmt, Iter.state_trap, Whole.state_ran, Whole.state_stopped, Whole.state_denied] | split | with_reducible refine (foldl_net _ ?_ _ _).trans ?_ | with_reducible refine (foldlB_net _ ?_ _ _).trans ?_ | with_reducible refine (foldl1_net _ ?_ _ _).trans ?_ | with_reducible refine (foldl2_net _ ?_ _ _).trans ?_

@[simp] theorem State.memberLost_net (s : State) (x1 : _) (x2 : _) : (State.memberLost s x1 x2).net = s.net := by
  unfold State.memberLost
  repeat' first | with_reducible rfl | with_reducible assumption | intro _ | simp only [State.absentDown_net, State.failInstance_net, State.setSlot_net, State.sparseForget_net, net_mk, net_eta, Iter.state_done, Iter.state_fmt, Iter.state_trap, Whole.state_ran, Whole.state_stopped, Whole.state_denied] | split | with_reducible refine (foldl_net _ ?_ _ _).trans ?_

@[simp] theorem State.treeLost_net (s : State) (x1 : _) (x2 : _) : (State.treeLost s x1 x2).net = s.net := by
  unfold State.treeLost
  repeat' first | with_reducible rfl | with_reducible assumption | intro _ | simp only [State.failInstance_net, net_mk, net_eta, Iter.state_done, Iter.state_fmt, Iter.state_trap, Whole.state_ran, Whole.state_stopped, Whole.state_denied] | split | with_reducible refine (foldl_net _ ?_ _ _).trans ?_

@[simp] theorem State.sweepStreams_net (s : State) (x1 : _) : (State.sweepStreams s x1).net = s.net := by
  unfold State.sweepStreams
  repeat' first | with_reducible rfl | with_reducible assumption | intro _ | simp only [State.dropTx_net, State.release_net, net_mk, net_eta, Iter.state_done, Iter.state_fmt, Iter.state_trap, Whole.state_ran, Whole.state_stopped, Whole.state_denied] | split | with_reducible refine (foldl_net _ ?_ _ _).trans ?_ | with_reducible refine (foldlB_net _ ?_ _ _).trans ?_ | with_reducible refine (foldl1_net _ ?_ _ _).trans ?_ | with_reducible refine (foldl2_net _ ?_ _ _).trans ?_

@[simp] theorem State.healFails_net (s : State) (x1 : _) : (State.healFails s x1).net = s.net := by
  unfold State.healFails
  repeat' first | with_reducible rfl | with_reducible assumption | intro _ | simp only [State.bump_net, State.putTables_net, State.raise_net, State.zeroRetire_net, net_mk, net_eta, Iter.state_done, Iter.state_fmt, Iter.state_trap, Whole.state_ran, Whole.state_stopped, Whole.state_denied] | split | with_reducible refine (foldl_net _ ?_ _ _).trans ?_

@[simp] theorem State.setFenced_net (s : State) (x1 : _) (x2 : _) (x3 : _) (x4 : _) : (State.setFenced s x1 x2 x3 x4).net = s.net := by
  unfold State.setFenced
  repeat' first | with_reducible rfl | with_reducible assumption | intro _ | simp only [State.modParty_net, net_mk, net_eta, Iter.state_done, Iter.state_fmt, Iter.state_trap, Whole.state_ran, Whole.state_stopped, Whole.state_denied] | split | with_reducible refine (foldl_net _ ?_ _ _).trans ?_

@[simp] theorem State.notify_net (s : State) (x1 : _) (x2 : _) : (State.notify s x1 x2).net = s.net := by
  unfold State.notify
  repeat' first | with_reducible rfl | with_reducible assumption | intro _ | simp only [State.sendCtrl_net, net_mk, net_eta, Iter.state_done, Iter.state_fmt, Iter.state_trap, Whole.state_ran, Whole.state_stopped, Whole.state_denied] | split | with_reducible refine (foldl_net _ ?_ _ _).trans ?_ | with_reducible refine (foldlB_net _ ?_ _ _).trans ?_ | with_reducible refine (foldl1_net _ ?_ _ _).trans ?_ | with_reducible refine (foldl2_net _ ?_ _ _).trans ?_

theorem execFenceBumpDeferred_net {s t : State} {x0 : Sys2Proof.FA} (h : execFenceBumpDeferred x0 s = .next t) : t.net = s.net := by
  simp only [execFenceBumpDeferred, Host.Outcome.next.injEq] at h
  subst h
  repeat' first | with_reducible rfl | with_reducible assumption | intro _ | simp only [State.notify_net, State.setFenced_net, net_mk, net_eta, Iter.state_done, Iter.state_fmt, Iter.state_trap, Whole.state_ran, Whole.state_stopped, Whole.state_denied] | split | with_reducible refine (foldl_net _ ?_ _ _).trans ?_

@[simp] theorem State.reportSilence_net (s : State) : (State.reportSilence s).net = s.net := by
  unfold State.reportSilence
  repeat' first | with_reducible rfl | with_reducible assumption | intro _ | simp only [State.sendCtrl_net, net_mk, net_eta, Iter.state_done, Iter.state_fmt, Iter.state_trap, Whole.state_ran, Whole.state_stopped, Whole.state_denied] | split | with_reducible refine (foldl_net _ ?_ _ _).trans ?_

@[simp] theorem State.linkChanged_net (s : State) (x1 : _) (x2 : _) (x3 : _) (x4 : _) : (State.linkChanged s x1 x2 x3 x4).net = s.net := by
  unfold State.linkChanged
  repeat' first | with_reducible rfl | with_reducible assumption | intro _ | simp only [State.rebuildRoutes_net, net_mk, net_eta, Iter.state_done, Iter.state_fmt, Iter.state_trap, Whole.state_ran, Whole.state_stopped, Whole.state_denied] | split | with_reducible refine (foldl_net _ ?_ _ _).trans ?_

theorem execLinkNotice_net {s t : State} {x0 : Sys2Proof.FA} {x1 : Sys2Proof.FA} {x2 : Nat} {x3 : Bool} {x4 : Bool} {x5 : Nat} (h : execLinkNotice x0 x1 x2 x3 x4 x5 s = .next t) : t.net = s.net := by
  simp only [execLinkNotice, Host.Outcome.next.injEq] at h
  subst h
  repeat' first | with_reducible rfl | with_reducible assumption | intro _ | simp only [State.linkChanged_net, State.takeCtrl_net, net_mk, net_eta, Iter.state_done, Iter.state_fmt, Iter.state_trap, Whole.state_ran, Whole.state_stopped, Whole.state_denied] | split | with_reducible refine (foldl_net _ ?_ _ _).trans ?_

@[simp] theorem State.resilverOver_net (s : State) : (State.resilverOver s).net = s.net := by
  unfold State.resilverOver
  repeat' first | with_reducible rfl | with_reducible assumption | intro _ | simp only [State.complete_net, State.resilverFails_net, net_mk, net_eta, Iter.state_done, Iter.state_fmt, Iter.state_trap, Whole.state_ran, Whole.state_stopped, Whole.state_denied] | split | with_reducible refine (foldl_net _ ?_ _ _).trans ?_

@[simp] theorem State.sendHeal_net (s : State) (x1 : _) : (State.sendHeal s x1).net = s.net := by
  unfold State.sendHeal
  repeat' first | with_reducible rfl | with_reducible assumption | intro _ | simp only [State.sendCtrl_net, net_mk, net_eta, Iter.state_done, Iter.state_fmt, Iter.state_trap, Whole.state_ran, Whole.state_stopped, Whole.state_denied] | split | with_reducible refine (foldl_net _ ?_ _ _).trans ?_

@[simp] theorem State.setHeal_net (s : State) (x1 : _) : (State.setHeal s x1).net = s.net := by
  unfold State.setHeal
  repeat' first | with_reducible rfl | with_reducible assumption | intro _ | simp only [net_mk, net_eta, Iter.state_done, Iter.state_fmt, Iter.state_trap, Whole.state_ran, Whole.state_stopped, Whole.state_denied] | split | with_reducible refine (foldl_net _ ?_ _ _).trans ?_

theorem execHealStart_net {s t : State} (h : execHealStart s = .next t) : t.net = s.net := by
  simp only [execHealStart, Host.Outcome.next.injEq] at h
  subst h
  repeat' first | with_reducible rfl | with_reducible assumption | intro _ | simp only [State.healFails_net, State.sendHeal_net, State.setHeal_net, net_mk, net_eta, Iter.state_done, Iter.state_fmt, Iter.state_trap, Whole.state_ran, Whole.state_stopped, Whole.state_denied] | split | with_reducible refine (foldl_net _ ?_ _ _).trans ?_

theorem execHealRequestTimeout_net {s t : State} (h : execHealRequestTimeout s = .next t) : t.net = s.net := by
  simp only [execHealRequestTimeout, Host.Outcome.next.injEq] at h
  subst h
  repeat' first | with_reducible rfl | with_reducible assumption | intro _ | simp only [State.sendHeal_net, net_mk, net_eta, Iter.state_done, Iter.state_fmt, Iter.state_trap, Whole.state_ran, Whole.state_stopped, Whole.state_denied] | split | with_reducible refine (foldl_net _ ?_ _ _).trans ?_

theorem execHealFail_net {s t : State} {x0 : Sys2Proof.GranuleRef} {x1 : Sys2Proof.Byte} (h : execHealFail x0 x1 s = .next t) : t.net = s.net := by
  simp only [execHealFail, Host.Outcome.next.injEq] at h
  subst h
  repeat' first | with_reducible rfl | with_reducible assumption | intro _ | simp only [State.healFails_net, State.takeCtrl_net, net_mk, net_eta, Iter.state_done, Iter.state_fmt, Iter.state_trap, Whole.state_ran, Whole.state_stopped, Whole.state_denied] | split | with_reducible refine (foldl_net _ ?_ _ _).trans ?_

@[simp] theorem State.takeTransfer_net (s : State) (x1 : _) : (State.takeTransfer s x1).net = s.net := by
  unfold State.takeTransfer
  repeat' first | with_reducible rfl | with_reducible assumption | intro _ | simp only [State.takeInbox_net, net_mk, net_eta, Iter.state_done, Iter.state_fmt, Iter.state_trap, Whole.state_ran, Whole.state_stopped, Whole.state_denied] | split | with_reducible refine (foldl_net _ ?_ _ _).trans ?_

theorem execHealData_net {s t : State} {x0 : Sys2Proof.GranuleRef} {x1 : List Sys2Proof.Byte} (h : execHealData x0 x1 s = .next t) : t.net = s.net := by
  simp only [execHealData, Host.Outcome.next.injEq] at h
  subst h
  repeat' first | with_reducible rfl | with_reducible assumption | intro _ | simp only [State.bump_net, State.healFails_net, State.memWrite_net, State.putTables_net, State.retire_net, State.stateWrite_net, State.takeTransfer_net, net_mk, net_eta, Iter.state_done, Iter.state_fmt, Iter.state_trap, Whole.state_ran, Whole.state_stopped, Whole.state_denied] | split | with_reducible refine (foldl_net _ ?_ _ _).trans ?_

@[simp] theorem State.refuseHeal_net (s : State) (x1 : _) (x2 : _) (x3 : _) : (State.refuseHeal s x1 x2 x3).net = s.net := by
  unfold State.refuseHeal
  repeat' first | with_reducible rfl | with_reducible assumption | intro _ | simp only [State.sendCtrl_net, net_mk, net_eta, Iter.state_done, Iter.state_fmt, Iter.state_trap, Whole.state_ran, Whole.state_stopped, Whole.state_denied] | split | with_reducible refine (foldl_net _ ?_ _ _).trans ?_

theorem execHealRequest_net {s t : State} {x0 : Sys2Proof.FA} {x1 : Nat} {x2 : Sys2Proof.GranuleRef} (h : execHealRequest x0 x1 x2 s = .next t) : t.net = s.net := by
  simp only [execHealRequest, Host.Outcome.next.injEq] at h
  subst h
  repeat' first | with_reducible rfl | with_reducible assumption | intro _ | simp only [State.fetchRange_net, State.freshTx_net, State.refuseHeal_net, State.sendMessage_net, State.takeInbox_net, net_mk, net_eta, Iter.state_done, Iter.state_fmt, Iter.state_trap, Whole.state_ran, Whole.state_stopped, Whole.state_denied] | split | with_reducible refine (foldl_net _ ?_ _ _).trans ?_

theorem execResilver_net {s t : State} {x0 : Sys2Proof.Req} {x1 : Bool} (h : execResilver x0 x1 s = .next t) : t.net = s.net := by
  simp only [execResilver, Host.Outcome.next.injEq] at h
  subst h
  repeat' first | with_reducible rfl | with_reducible assumption | intro _ | simp only [State.fail_net, State.freshTx_net, State.sendMessage_net, net_mk, net_eta, Iter.state_done, Iter.state_fmt, Iter.state_trap, Whole.state_ran, Whole.state_stopped, Whole.state_denied] | split | with_reducible refine (foldl_net _ ?_ _ _).trans ?_

theorem execResilverCopyDone_net {s t : State} (h : execResilverCopyDone s = .next t) : t.net = s.net := by
  simp only [execResilverCopyDone, Host.Outcome.next.injEq] at h
  subst h
  repeat' first | with_reducible rfl | with_reducible assumption | intro _ | simp only [State.fetchAll_net, State.sendGranule_net, net_mk, net_eta, Iter.state_done, Iter.state_fmt, Iter.state_trap, Whole.state_ran, Whole.state_stopped, Whole.state_denied] | split | with_reducible refine (foldl_net _ ?_ _ _).trans ?_ | with_reducible refine (foldlB_net _ ?_ _ _).trans ?_ | with_reducible refine (foldl1_net _ ?_ _ _).trans ?_ | with_reducible refine (foldl2_net _ ?_ _ _).trans ?_

@[simp] theorem State.transferBad_net (s : State) : (State.transferBad s).net = s.net := by
  unfold State.transferBad
  repeat' first | with_reducible rfl | with_reducible assumption | intro _ | simp only [State.bump_net, State.resilverOver_net, net_mk, net_eta, Iter.state_done, Iter.state_fmt, Iter.state_trap, Whole.state_ran, Whole.state_stopped, Whole.state_denied] | split | with_reducible refine (foldl_net _ ?_ _ _).trans ?_

theorem execControlRecordReceive_net {s t : State} {x0 : Nat} {x1 : List Sys2Proof.Byte} (h : execControlRecordReceive x0 x1 s = .next t) : t.net = s.net := by
  simp only [execControlRecordReceive, Host.Outcome.next.injEq] at h
  subst h
  repeat' first | with_reducible rfl | with_reducible assumption | intro _ | simp only [State.takeTransfer_net, State.transferBad_net, net_mk, net_eta, Iter.state_done, Iter.state_fmt, Iter.state_trap, Whole.state_ran, Whole.state_stopped, Whole.state_denied] | split | with_reducible refine (foldl_net _ ?_ _ _).trans ?_

theorem execGranuleReceive_net {s t : State} {x0 : Sys2Proof.GranuleRef} {x1 : List Sys2Proof.Byte} (h : execGranuleReceive x0 x1 s = .next t) : t.net = s.net := by
  simp only [execGranuleReceive, Host.Outcome.next.injEq] at h
  subst h
  repeat' first | with_reducible rfl | with_reducible assumption | intro _ | simp only [State.stateWrite_net, State.takeTransfer_net, State.transferBad_net, net_mk, net_eta, Iter.state_done, Iter.state_fmt, Iter.state_trap, Whole.state_ran, Whole.state_stopped, Whole.state_denied] | split | with_reducible refine (foldl_net _ ?_ _ _).trans ?_

@[simp] theorem State.reserveKv_net (s : State) (x1 : _) : (State.reserveKv s x1).net = s.net := by
  unfold State.reserveKv
  repeat' first | with_reducible rfl | with_reducible assumption | intro _ | simp only [State.modCtx_net, net_mk, net_eta, Iter.state_done, Iter.state_fmt, Iter.state_trap, Whole.state_ran, Whole.state_stopped, Whole.state_denied] | split | with_reducible refine (foldl_net _ ?_ _ _).trans ?_

@[simp] theorem State.install_net (s : State) (x1 : _) (x2 : _) : (State.install s x1 x2).net = s.net := by
  unfold State.install
  repeat' first | with_reducible rfl | with_reducible assumption | intro _ | simp only [State.rebuildGroups_net, State.removePlan_net, State.reserveKv_net, net_mk, net_eta, Iter.state_done, Iter.state_fmt, Iter.state_trap, Whole.state_ran, Whole.state_stopped, Whole.state_denied] | split | with_reducible refine (foldl_net _ ?_ _ _).trans ?_

theorem execPlanInstall_net {s t : State} {x0 : Sys2Proof.Req} {x1 : List Sys2Proof.Byte} (h : execPlanInstall x0 x1 s = .next t) : t.net = s.net := by
  simp only [execPlanInstall, Host.Outcome.next.injEq] at h
  subst h
  repeat' first | with_reducible rfl | with_reducible assumption | intro _ | simp only [State.fail_net, State.install_net, State.ok_net, State.refuseAt_net, net_mk, net_eta, Iter.state_done, Iter.state_fmt, Iter.state_trap, Whole.state_ran, Whole.state_stopped, Whole.state_denied] | split | with_reducible refine (foldl_net _ ?_ _ _).trans ?_

theorem execPlanRemove_net {s t : State} {x0 : Sys2Proof.Req} (h : execPlanRemove x0 s = .next t) : t.net = s.net := by
  simp only [execPlanRemove, Host.Outcome.next.injEq] at h
  subst h
  repeat' first | with_reducible rfl | with_reducible assumption | intro _ | simp only [State.fail_net, State.ok_net, State.removePlan_net, State.settle_net, net_mk, net_eta, Iter.state_done, Iter.state_fmt, Iter.state_trap, Whole.state_ran, Whole.state_stopped, Whole.state_denied] | split | with_reducible refine (foldl_net _ ?_ _ _).trans ?_

@[simp] theorem State.placeWrite_net (s : State) (x1 : _) (x2 : _) : (State.placeWrite s x1 x2).net = s.net := by
  unfold State.placeWrite
  repeat' first | with_reducible rfl | with_reducible assumption | intro _ | simp only [State.raise_net, State.wr_net, net_mk, net_eta, Iter.state_done, Iter.state_fmt, Iter.state_trap, Whole.state_ran, Whole.state_stopped, Whole.state_denied] | split | with_reducible refine (foldl_net _ ?_ _ _).trans ?_

@[simp] theorem State.relayout_net (s : State) (x1 : _) : (State.relayout s x1).net = s.net := by
  unfold State.relayout
  repeat' first | with_reducible rfl | with_reducible assumption | intro _ | simp only [State.memClear_net, State.stateWrite_net, net_mk, net_eta, Iter.state_done, Iter.state_fmt, Iter.state_trap, Whole.state_ran, Whole.state_stopped, Whole.state_denied] | split | with_reducible refine (foldl_net _ ?_ _ _).trans ?_ | with_reducible refine (foldlB_net _ ?_ _ _).trans ?_ | with_reducible refine (foldl1_net _ ?_ _ _).trans ?_ | with_reducible refine (foldl2_net _ ?_ _ _).trans ?_

@[simp] theorem State.defineShard_net (s : State) (x1 : _) : (State.defineShard s x1).net = s.net := by
  unfold State.defineShard
  repeat' first | with_reducible rfl | with_reducible assumption | intro _ | simp only [State.relayout_net, State.setHeader_net, net_mk, net_eta, Iter.state_done, Iter.state_fmt, Iter.state_trap, Whole.state_ran, Whole.state_stopped, Whole.state_denied] | split | with_reducible refine (foldl_net _ ?_ _ _).trans ?_

@[simp] theorem State.defineSeeds_net (s : State) (x1 : _) (x2 : _) : (State.defineSeeds s x1 x2).net = s.net := by
  unfold State.defineSeeds
  repeat' first | with_reducible rfl | with_reducible assumption | intro _ | simp only [State.fail_net, State.ok_net, net_mk, net_eta, Iter.state_done, Iter.state_fmt, Iter.state_trap, Whole.state_ran, Whole.state_stopped, Whole.state_denied] | split | with_reducible refine (foldl_net _ ?_ _ _).trans ?_

@[simp] theorem State.removeShard_net (s : State) (x1 : _) (x2 : _) : (State.removeShard s x1 x2).net = s.net := by
  unfold State.removeShard
  repeat' first | with_reducible rfl | with_reducible assumption | intro _ | simp only [State.fail_net, State.fetchAll_net, State.ok_net, State.relayout_net, net_mk, net_eta, Iter.state_done, Iter.state_fmt, Iter.state_trap, Whole.state_ran, Whole.state_stopped, Whole.state_denied] | split | with_reducible refine (foldl_net _ ?_ _ _).trans ?_

theorem execStateDefine_net {s t : State} {x0 : Sys2Proof.Req} {x1 : List Sys2Proof.Byte} (h : execStateDefine x0 x1 s = .next t) : t.net = s.net := by
  simp only [execStateDefine, Host.Outcome.next.injEq] at h
  subst h
  repeat' first | with_reducible rfl | with_reducible assumption | intro _ | simp only [State.defineSeeds_net, State.defineShard_net, State.fail_net, State.fetchAll_net, State.ok_net, State.refuseAt_net, State.removeShard_net, net_mk, net_eta, Iter.state_done, Iter.state_fmt, Iter.state_trap, Whole.state_ran, Whole.state_stopped, Whole.state_denied] | split | with_reducible refine (foldl_net _ ?_ _ _).trans ?_

theorem State.rangeRefuse_net {s t : State} {rq : Req} {b : Bool} (h : s.rangeRefuse rq b = some t) : t.net = s.net := by
  have g : ∀ (c : Prop) [Decidable c] (x y : Option State), (∀ u, x = some u → u.net = s.net) → (∀ u, y = some u → u.net = s.net) →
      ∀ u, (if c then x else y) = some u → u.net = s.net := by
    intro c _ x y hx hy u hu
    split at hu
    · exact hx u hu
    · exact hy u hu
  have f : ∀ x u : State, x.net = s.net → some x = some u → u.net = s.net := by
    intro x u hx hu
    cases hu
    exact hx
  revert h
  unfold State.rangeRefuse
  refine g _ _ _ (fun u => f _ u ?_) (fun u => ?_) t
  · simp only [State.refuseAt_net]
  · split
    · exact f _ u (by simp only [State.fail_net])
    · exact g _ _ _ (fun u => f _ u (by simp only [State.fail_net])) (fun u hu => by cases hu) u

theorem execStateImport_net {s t : State} {x0 : Sys2Proof.Req} {x1 : List Sys2Proof.Byte} (h : execStateImport x0 x1 s = .next t) : t.net = s.net := by
  simp only [execStateImport, Host.Outcome.next.injEq] at h
  subst h
  repeat' first | with_reducible rfl | with_reducible assumption | intro _ | simp only [State.fail_net, net_mk, net_eta, Iter.state_done, Iter.state_fmt, Iter.state_trap, Whole.state_ran, Whole.state_stopped, Whole.state_denied] | with_reducible refine (State.rangeRefuse_net (by assumption)).trans ?_ | split | with_reducible refine (foldl_net _ ?_ _ _).trans ?_

@[simp] theorem State.putRange_net (s : State) (a : Nat) (l : List (Nat × Nat)) (b : List Byte) : (s.putRange a l b).net = s.net := by
  induction l generalizing s b with
  | nil => rfl
  | cons e t ih =>
    obtain ⟨o, n⟩ := e
    rw [State.putRange, ih, State.stateWrite_net]

theorem execStateImportDone_net {s t : State} {x0 : BitVec 32} (h : execStateImportDone x0 s = .next t) : t.net = s.net := by
  simp only [execStateImportDone, Host.Outcome.next.injEq] at h
  subst h
  repeat' first | with_reducible rfl | with_reducible assumption | intro _ | simp only [State.fail_net, State.fetchAll_net, State.ok_net, State.putRange_net, net_mk, net_eta, Iter.state_done, Iter.state_fmt, Iter.state_trap, Whole.state_ran, Whole.state_stopped, Whole.state_denied] | split | with_reducible refine (foldl_net _ ?_ _ _).trans ?_

theorem execStateExport_net {s t : State} {x0 : Sys2Proof.Req} (h : execStateExport x0 s = .next t) : t.net = s.net := by
  simp only [execStateExport, Host.Outcome.next.injEq] at h
  subst h
  repeat' first | with_reducible rfl | with_reducible assumption | intro _ | simp only [State.fail_net, net_mk, net_eta, Iter.state_done, Iter.state_fmt, Iter.state_trap, Whole.state_ran, Whole.state_stopped, Whole.state_denied] | with_reducible refine (State.rangeRefuse_net (by assumption)).trans ?_ | split | with_reducible refine (foldl_net _ ?_ _ _).trans ?_

theorem execStateExportDone_net {s t : State} {x0 : BitVec 32} (h : execStateExportDone x0 s = .next t) : t.net = s.net := by
  simp only [execStateExportDone, Host.Outcome.next.injEq] at h
  subst h
  repeat' first | with_reducible rfl | with_reducible assumption | intro _ | simp only [State.answer_net, State.fail_net, State.fetchAll_net, net_mk, net_eta, Iter.state_done, Iter.state_fmt, Iter.state_trap, Whole.state_ran, Whole.state_stopped, Whole.state_denied] | split | with_reducible refine (foldl_net _ ?_ _ _).trans ?_

theorem execLedgerQuery_net {s t : State} {x0 : Sys2Proof.Req} (h : execLedgerQuery x0 s = .next t) : t.net = s.net := by
  simp only [execLedgerQuery, Host.Outcome.next.injEq] at h
  subst h
  repeat' first | with_reducible rfl | with_reducible assumption | intro _ | simp only [State.answer_net, State.fail_net, net_mk, net_eta, Iter.state_done, Iter.state_fmt, Iter.state_trap, Whole.state_ran, Whole.state_stopped, Whole.state_denied] | split | with_reducible refine (foldl_net _ ?_ _ _).trans ?_

@[simp] theorem State.releaseStored_net (s : State) : (State.releaseStored s).net = s.net := by
  unfold State.releaseStored
  repeat' first | with_reducible rfl | with_reducible assumption | intro _ | simp only [net_mk, net_eta, Iter.state_done, Iter.state_fmt, Iter.state_trap, Whole.state_ran, Whole.state_stopped, Whole.state_denied] | split | with_reducible refine (foldl_net _ ?_ _ _).trans ?_

@[simp] theorem State.rollBack_net (s : State) : (State.rollBack s).net = s.net := by
  unfold State.rollBack
  repeat' first | with_reducible rfl | with_reducible assumption | intro _ | simp only [State.abortAll_net, State.bump_net, State.clearSlots_net, State.discardStep_net, State.releaseStored_net, net_mk, net_eta, Iter.state_done, Iter.state_fmt, Iter.state_trap, Whole.state_ran, Whole.state_stopped, Whole.state_denied] | split | with_reducible refine (foldl_net _ ?_ _ _).trans ?_

theorem execRollback_net {s t : State} {x0 : Sys2Proof.Req} (h : execRollback x0 s = .next t) : t.net = s.net := by
  simp only [execRollback, Host.Outcome.next.injEq] at h
  subst h
  repeat' first | with_reducible rfl | with_reducible assumption | intro _ | simp only [State.commit_net, State.fail_net, State.ok_net, State.releaseStored_net, State.rollBack_net, State.settle_net, net_mk, net_eta, Iter.state_done, Iter.state_fmt, Iter.state_trap, Whole.state_ran, Whole.state_stopped, Whole.state_denied] | split | with_reducible refine (foldl_net _ ?_ _ _).trans ?_

theorem execAbort_net {s t : State} {x0 : Sys2Proof.Req} (h : execAbort x0 s = .next t) : t.net = s.net := by
  simp only [execAbort, Host.Outcome.next.injEq] at h
  subst h
  repeat' first | with_reducible rfl | with_reducible assumption | intro _ | simp only [State.fail_net, State.failInstance_net, State.ok_net, State.settle_net, net_mk, net_eta, Iter.state_done, Iter.state_fmt, Iter.state_trap, Whole.state_ran, Whole.state_stopped, Whole.state_denied] | split | with_reducible refine (foldl_net _ ?_ _ _).trans ?_

theorem execGateConfig_net {s t : State} {x0 : Sys2Proof.Req} {x1 : List Sys2Proof.Byte} (h : execGateConfig x0 x1 s = .next t) : t.net = s.net := by
  simp only [execGateConfig, Host.Outcome.next.injEq] at h
  subst h
  repeat' first | with_reducible rfl | with_reducible assumption | intro _ | simp only [State.modSched_net, State.ok_net, State.refuseAt_net, net_mk, net_eta, Iter.state_done, Iter.state_fmt, Iter.state_trap, Whole.state_ran, Whole.state_stopped, Whole.state_denied] | split | with_reducible refine (foldl_net _ ?_ _ _).trans ?_

@[simp] theorem State.setMeter_net (s : State) (x1 : _) (x2 : _) (x3 : _) (x4 : _) : (State.setMeter s x1 x2 x3 x4).net = s.net := by
  unfold State.setMeter
  repeat' first | with_reducible rfl | with_reducible assumption | intro _ | simp only [State.modSched_net, State.wr_net, net_mk, net_eta, Iter.state_done, Iter.state_fmt, Iter.state_trap, Whole.state_ran, Whole.state_stopped, Whole.state_denied] | split | with_reducible refine (foldl_net _ ?_ _ _).trans ?_

theorem execMeterConfig_net {s t : State} {x0 : Sys2Proof.Req} (h : execMeterConfig x0 s = .next t) : t.net = s.net := by
  simp only [execMeterConfig, Host.Outcome.next.injEq] at h
  subst h
  repeat' first | with_reducible rfl | with_reducible assumption | intro _ | simp only [State.ok_net, State.refuseAt_net, State.setMeter_net, net_mk, net_eta, Iter.state_done, Iter.state_fmt, Iter.state_trap, Whole.state_ran, Whole.state_stopped, Whole.state_denied] | split | with_reducible refine (foldl_net _ ?_ _ _).trans ?_

theorem execLogConfig_net {s t : State} {x0 : Sys2Proof.Req} {x1 : List Sys2Proof.Byte} (h : execLogConfig x0 x1 s = .next t) : t.net = s.net := by
  simp only [execLogConfig, Host.Outcome.next.injEq] at h
  subst h
  repeat' first | with_reducible rfl | with_reducible assumption | intro _ | simp only [State.fail_net, State.ok_net, State.raise_net, State.refuseAt_net, net_mk, net_eta, Iter.state_done, Iter.state_fmt, Iter.state_trap, Whole.state_ran, Whole.state_stopped, Whole.state_denied] | split | with_reducible refine (foldl_net _ ?_ _ _).trans ?_

@[simp] theorem State.startWipe_net (s : State) (x1 : _) : (State.startWipe s x1).net = s.net := by
  unfold State.startWipe
  repeat' first | with_reducible rfl | with_reducible assumption | intro _ | simp only [net_mk, net_eta, Iter.state_done, Iter.state_fmt, Iter.state_trap, Whole.state_ran, Whole.state_stopped, Whole.state_denied] | split | with_reducible refine (foldl_net _ ?_ _ _).trans ?_

@[simp] theorem State.wiped_net (s : State) : (State.wiped s).net = s.net := by
  unfold State.wiped
  repeat' first | with_reducible rfl | with_reducible assumption | intro _ | simp only [State.removePlan_net, net_mk, net_eta, Iter.state_done, Iter.state_fmt, Iter.state_trap, Whole.state_ran, Whole.state_stopped, Whole.state_denied] | split | with_reducible refine (foldl_net _ ?_ _ _).trans ?_ | with_reducible refine (foldlB_net _ ?_ _ _).trans ?_ | with_reducible refine (foldl1_net _ ?_ _ _).trans ?_ | with_reducible refine (foldl2_net _ ?_ _ _).trans ?_

theorem execWipe_net {s t : State} {x0 : Sys2Proof.Req} (h : execWipe x0 s = .next t) : t.net = s.net := by
  simp only [execWipe, Host.Outcome.next.injEq] at h
  subst h
  repeat' first | with_reducible rfl | with_reducible assumption | intro _ | simp only [State.fail_net, State.startWipe_net, net_mk, net_eta, Iter.state_done, Iter.state_fmt, Iter.state_trap, Whole.state_ran, Whole.state_stopped, Whole.state_denied] | split | with_reducible refine (foldl_net _ ?_ _ _).trans ?_

theorem execWipeDone_net {s t : State} (h : execWipeDone s = .next t) : t.net = s.net := by
  simp only [execWipeDone, Host.Outcome.next.injEq] at h
  subst h
  repeat' first | with_reducible rfl | with_reducible assumption | intro _ | simp only [State.ok_net, State.wiped_net, net_mk, net_eta, Iter.state_done, Iter.state_fmt, Iter.state_trap, Whole.state_ran, Whole.state_stopped, Whole.state_denied] | split | with_reducible refine (foldl_net _ ?_ _ _).trans ?_

@[simp] theorem State.reportLinks_net (s : State) : (State.reportLinks s).net = s.net := by
  unfold State.reportLinks
  repeat' first | with_reducible rfl | with_reducible assumption | intro _ | simp only [State.linkChanged_net, State.notify_net, State.rebuildRoutes_net, net_mk, net_eta, Iter.state_done, Iter.state_fmt, Iter.state_trap, Whole.state_ran, Whole.state_stopped, Whole.state_denied] | split | with_reducible refine (foldl_net _ ?_ _ _).trans ?_ | with_reducible refine (foldlB_net _ ?_ _ _).trans ?_ | with_reducible refine (foldl1_net _ ?_ _ _).trans ?_ | with_reducible refine (foldl2_net _ ?_ _ _).trans ?_

@[simp] theorem State.endCharges_net (s : State) (x1 : _) : (State.endCharges s x1).net = s.net := by
  unfold State.endCharges
  repeat' first | with_reducible rfl | with_reducible assumption | intro _ | simp only [net_mk, net_eta, Iter.state_done, Iter.state_fmt, Iter.state_trap, Whole.state_ran, Whole.state_stopped, Whole.state_denied] | split | with_reducible refine (foldl_net _ ?_ _ _).trans ?_

@[simp] theorem State.sendControl_net (s : State) (x1 : _) (x2 : _) : (State.sendControl s x1 x2).net = s.net := by
  unfold State.sendControl
  repeat' first | with_reducible rfl | with_reducible assumption | intro _ | simp only [State.emit_net, net_mk, net_eta, Iter.state_done, Iter.state_fmt, Iter.state_trap, Whole.state_ran, Whole.state_stopped, Whole.state_denied] | split | with_reducible refine (foldl_net _ ?_ _ _).trans ?_

@[simp] theorem State.endsLate_net (s : State) (x1 : _) (x2 : _) (x3 : _) : (State.endsLate s x1 x2 x3).net = s.net := by
  unfold State.endsLate
  repeat' first | with_reducible rfl | with_reducible assumption | intro _ | simp only [State.bump_net, State.modSched_net, net_mk, net_eta, Iter.state_done, Iter.state_fmt, Iter.state_trap, Whole.state_ran, Whole.state_stopped, Whole.state_denied] | split | with_reducible refine (foldl_net _ ?_ _ _).trans ?_

theorem execLinkTrainFail_net {s t : State} {x0 : Nat} (h : execLinkTrainFail x0 s = .next t) : t.net = s.net := by
  simp only [execLinkTrainFail, Host.Outcome.next.injEq] at h
  subst h
  repeat' first | with_reducible rfl | with_reducible assumption | intro _ | simp only [State.raise_net, net_mk, net_eta, Iter.state_done, Iter.state_fmt, Iter.state_trap, Whole.state_ran, Whole.state_stopped, Whole.state_denied] | split | with_reducible refine (foldl_net _ ?_ _ _).trans ?_

@[simp] theorem State.meterCell_net (s : State) (x1 : _) (x2 : _) : (State.meterCell s x1 x2).2.net = s.net := by
  unfold State.meterCell
  repeat' first | with_reducible rfl | with_reducible assumption | intro _ | simp only [State.bump_net, State.modSched_net, net_mk, net_eta, Iter.state_done, Iter.state_fmt, Iter.state_trap, Whole.state_ran, Whole.state_stopped, Whole.state_denied] | split | with_reducible refine (foldl_net _ ?_ _ _).trans ?_

theorem State.colourFate_net {s t : State} {p : Nat} {c : Cell} (h : s.colourFate p c = some t) : t.net = s.net := by
  simp only [State.colourFate] at h
  split at h
  · cases h; simp only [State.bump_net]
  · split at h
    · cases h; simp only [State.bump_net]
    · cases h

@[simp] theorem State.streamStep_net (s : State) (x1 : _) : (State.streamStep s x1).2.net = s.net := by
  unfold State.streamStep
  repeat' first | with_reducible rfl | with_reducible assumption | intro _ | simp only [State.draw_net, net_mk, net_eta, Iter.state_done, Iter.state_fmt, Iter.state_trap, Whole.state_ran, Whole.state_stopped, Whole.state_denied] | split | with_reducible refine (foldl_net _ ?_ _ _).trans ?_

@[simp] theorem State.ackStream_net (s : State) (x1 : _) : (State.ackStream s x1).net = s.net := by
  unfold State.ackStream
  repeat' first | with_reducible rfl | with_reducible assumption | intro _ | simp only [State.sendAck_net, State.streamStep_net, net_mk, net_eta, Iter.state_done, Iter.state_fmt, Iter.state_trap, Whole.state_ran, Whole.state_stopped, Whole.state_denied] | split | with_reducible refine (foldl_net _ ?_ _ _).trans ?_

@[simp] theorem State.transferDrop_net (s : State) (x1 : _) : (State.transferDrop s x1).net = s.net := by
  unfold State.transferDrop
  repeat' first | with_reducible rfl | with_reducible assumption | intro _ | simp only [State.bump_net, State.healFails_net, State.resilverFails_net, net_mk, net_eta, Iter.state_done, Iter.state_fmt, Iter.state_trap, Whole.state_ran, Whole.state_stopped, Whole.state_denied] | split | with_reducible refine (foldl_net _ ?_ _ _).trans ?_

@[simp] theorem State.messageIn_net (s : State) (x1 : _) (x2 : _) : (State.messageIn s x1 x2).net = s.net := by
  unfold State.messageIn
  repeat' first | with_reducible rfl | with_reducible assumption | intro _ | simp only [State.bump_net, State.mismatch_net, State.transferDrop_net, net_mk, net_eta, Iter.state_done, Iter.state_fmt, Iter.state_trap, Whole.state_ran, Whole.state_stopped, Whole.state_denied] | split | with_reducible refine (foldl_net _ ?_ _ _).trans ?_

@[simp] theorem State.joinStream_net (s : State) (x1 : _) : (State.joinStream s x1).net = s.net := by
  unfold State.joinStream
  repeat' first | with_reducible rfl | with_reducible assumption | intro _ | simp only [State.ackStream_net, State.bump_net, State.messageIn_net, net_mk, net_eta, Iter.state_done, Iter.state_fmt, Iter.state_trap, Whole.state_ran, Whole.state_stopped, Whole.state_denied] | split | with_reducible refine (foldl_net _ ?_ _ _).trans ?_ | with_reducible refine (foldlB_net _ ?_ _ _).trans ?_ | with_reducible refine (foldl1_net _ ?_ _ _).trans ?_ | with_reducible refine (foldl2_net _ ?_ _ _).trans ?_

@[simp] theorem State.replayCell_net (s : State) (x1 : _) (x2 : _) : (State.replayCell s x1 x2).net = s.net := by
  unfold State.replayCell
  repeat' first | with_reducible rfl | with_reducible assumption | intro _ | simp only [State.bump_net, State.output_net, State.spill_net, net_mk, net_eta, Iter.state_done, Iter.state_fmt, Iter.state_trap, Whole.state_ran, Whole.state_stopped, Whole.state_denied] | split | with_reducible refine (foldl_net _ ?_ _ _).trans ?_

@[simp] theorem State.fetchSpilled_net (s : State) (x1 : _) (x2 : _) : (State.fetchSpilled s x1 x2).net = s.net := by
  unfold State.fetchSpilled
  repeat' first | with_reducible rfl | with_reducible assumption | intro _ | simp only [State.fetchObject_net, net_mk, net_eta, Iter.state_done, Iter.state_fmt, Iter.state_trap, Whole.state_ran, Whole.state_stopped, Whole.state_denied] | split | with_reducible refine (foldl_net _ ?_ _ _).trans ?_

theorem execAckReceive_net {s t : State} {x0 : Sys2Proof.FA} {x1 : BitVec 20} {x2 : BitVec 24} {x3 : Nat} {x4 : Nat} (h : execAckReceive x0 x1 x2 x3 x4 s = .next t) : t.net = s.net := by
  simp only [execAckReceive, Host.Outcome.next.injEq] at h
  subst h
  repeat' first | with_reducible rfl | with_reducible assumption | intro _ | simp only [State.admitBlocked_net, State.creditBack_net, State.progress_net, State.pump_net, State.release_net, State.setTx_net, State.takeCtrl_net, net_mk, net_eta, Iter.state_done, Iter.state_fmt, Iter.state_trap, Whole.state_ran, Whole.state_stopped, Whole.state_denied] | split | with_reducible refine (foldl_net _ ?_ _ _).trans ?_

theorem execNakReceive_net {s t : State} {x0 : Sys2Proof.FA} {x1 : BitVec 20} {x2 : Nat} {x3 : List (Nat × Nat)} (h : execNakReceive x0 x1 x2 x3 s = .next t) : t.net = s.net := by
  simp only [execNakReceive, Host.Outcome.next.injEq] at h
  subst h
  repeat' first | with_reducible rfl | with_reducible assumption | intro _ | simp only [State.fetchSpilled_net, State.replayCell_net, State.takeCtrl_net, net_mk, net_eta, Iter.state_done, Iter.state_fmt, Iter.state_trap, Whole.state_ran, Whole.state_stopped, Whole.state_denied] | split | with_reducible refine (foldl_net _ ?_ _ _).trans ?_ | with_reducible refine (foldlB_net _ ?_ _ _).trans ?_ | with_reducible refine (foldl1_net _ ?_ _ _).trans ?_ | with_reducible refine (foldl2_net _ ?_ _ _).trans ?_

@[simp] theorem State.gateCtl_net (s : State) (x1 : _) (x2 : _) : (State.gateCtl s x1 x2).net = s.net := by
  unfold State.gateCtl
  repeat' first | with_reducible rfl | with_reducible assumption | intro _ | simp only [State.modSched_net, State.raise_net, State.wr_net, net_mk, net_eta, Iter.state_done, Iter.state_fmt, Iter.state_trap, Whole.state_ran, Whole.state_stopped, Whole.state_denied] | split | with_reducible refine (foldl_net _ ?_ _ _).trans ?_

theorem execGateCtlWrite_net {s t : State} {x0 : Nat} {x1 : Sys2Proof.Word} (h : execGateCtlWrite x0 x1 s = .next t) : t.net = s.net := by
  simp only [execGateCtlWrite, Host.Outcome.next.injEq] at h
  subst h
  repeat' first | with_reducible rfl | with_reducible assumption | intro _ | simp only [State.gateCtl_net, net_mk, net_eta, Iter.state_done, Iter.state_fmt, Iter.state_trap, Whole.state_ran, Whole.state_stopped, Whole.state_denied] | split | with_reducible refine (foldl_net _ ?_ _ _).trans ?_

theorem execGateListActivate_net {s t : State} {x0 : Nat} (h : execGateListActivate x0 s = .next t) : t.net = s.net := by
  simp only [execGateListActivate, Host.Outcome.next.injEq] at h
  subst h
  repeat' first | with_reducible rfl | with_reducible assumption | intro _ | simp only [State.modSched_net, State.wr_net, net_mk, net_eta, Iter.state_done, Iter.state_fmt, Iter.state_trap, Whole.state_ran, Whole.state_stopped, Whole.state_denied] | split | with_reducible refine (foldl_net _ ?_ _ _).trans ?_

theorem execGateEntryBoundary_net {s t : State} {x0 : Nat} (h : execGateEntryBoundary x0 s = .next t) : t.net = s.net := by
  simp only [execGateEntryBoundary, Host.Outcome.next.injEq] at h
  subst h
  repeat' first | with_reducible rfl | with_reducible assumption | intro _ | simp only [State.modSched_net, net_mk, net_eta, Iter.state_done, Iter.state_fmt, Iter.state_trap, Whole.state_ran, Whole.state_stopped, Whole.state_denied] | split | with_reducible refine (foldl_net _ ?_ _ _).trans ?_

@[simp] theorem State.chargeSelect_net (s : State) (x1 : _) (x2 : _) (x3 : _) : (State.chargeSelect s x1 x2 x3).net = s.net := by
  unfold State.chargeSelect
  repeat' first | with_reducible rfl | with_reducible assumption | intro _ | simp only [State.modSched_net, net_mk, net_eta, Iter.state_done, Iter.state_fmt, Iter.state_trap, Whole.state_ran, Whole.state_stopped, Whole.state_denied] | split | with_reducible refine (foldl_net _ ?_ _ _).trans ?_

@[simp] theorem State.holdMisfits_net (s : State) (x1 : _) : (State.holdMisfits s x1).net = s.net := by
  unfold State.holdMisfits
  repeat' first | with_reducible rfl | with_reducible assumption | intro _ | simp only [State.modSched_net, net_mk, net_eta, Iter.state_done, Iter.state_fmt, Iter.state_trap, Whole.state_ran, Whole.state_stopped, Whole.state_denied] | split | with_reducible refine (foldl_net _ ?_ _ _).trans ?_

theorem execRateWheelWake_net {s t : State} {x0 : Nat} {x1 : Nat} (h : execRateWheelWake x0 x1 s = .next t) : t.net = s.net := by
  simp only [execRateWheelWake, Host.Outcome.next.injEq] at h
  subst h
  repeat' first | with_reducible rfl | with_reducible assumption | intro _ | simp only [State.modSched_net, net_mk, net_eta, Iter.state_done, Iter.state_fmt, Iter.state_trap, Whole.state_ran, Whole.state_stopped, Whole.state_denied] | split | with_reducible refine (foldl_net _ ?_ _ _).trans ?_

@[simp] theorem State.emptyStreams_net (s : State) : (State.emptyStreams s).net = s.net := by
  unfold State.emptyStreams
  repeat' first | with_reducible rfl | with_reducible assumption | intro _ | simp only [net_mk, net_eta, Iter.state_done, Iter.state_fmt, Iter.state_trap, Whole.state_ran, Whole.state_stopped, Whole.state_denied] | split | with_reducible refine (foldl_net _ ?_ _ _).trans ?_

@[simp] theorem State.authFail_net (s : State) (x1 : _) (x2 : _) : (State.authFail s x1 x2).net = s.net := by
  unfold State.authFail
  repeat' first | with_reducible rfl | with_reducible assumption | intro _ | simp only [State.bump_net, State.fail_net, State.raise_net, net_mk, net_eta, Iter.state_done, Iter.state_fmt, Iter.state_trap, Whole.state_ran, Whole.state_stopped, Whole.state_denied] | split | with_reducible refine (foldl_net _ ?_ _ _).trans ?_

@[simp] theorem State.burnConfig_net (s : State) (x1 : _) (x2 : _) : (State.burnConfig s x1 x2).1.net = s.net := by
  unfold State.burnConfig
  repeat' first | with_reducible rfl | with_reducible assumption | intro _ | simp only [net_mk, net_eta, Iter.state_done, Iter.state_fmt, Iter.state_trap, Whole.state_ran, Whole.state_stopped, Whole.state_denied] | split | with_reducible refine (foldl_net _ ?_ _ _).trans ?_

@[simp] theorem State.burnFail_net (s : State) (x1 : _) (x2 : _) : (State.burnFail s x1 x2).net = s.net := by
  unfold State.burnFail
  repeat' first | with_reducible rfl | with_reducible assumption | intro _ | simp only [State.fail_net, State.raise_net, net_mk, net_eta, Iter.state_done, Iter.state_fmt, Iter.state_trap, Whole.state_ran, Whole.state_stopped, Whole.state_denied] | split | with_reducible refine (foldl_net _ ?_ _ _).trans ?_

@[simp] theorem State.beforeBurn_net (s : State) (x1 : _) (x2 : _) (x3 : _) : (State.beforeBurn s x1 x2 x3).1.net = s.net := by
  unfold State.beforeBurn
  repeat' first | with_reducible rfl | with_reducible assumption | intro _ | simp only [State.burnConfig_net, State.draw_net, net_mk, net_eta, Iter.state_done, Iter.state_fmt, Iter.state_trap, Whole.state_ran, Whole.state_stopped, Whole.state_denied] | split | with_reducible refine (foldl_net _ ?_ _ _).trans ?_

@[simp] theorem State.afterBurn_net (s : State) (x1 : _) : (State.afterBurn s x1).net = s.net := by
  unfold State.afterBurn
  repeat' first | with_reducible rfl | with_reducible assumption | intro _ | simp only [net_mk, net_eta, Iter.state_done, Iter.state_fmt, Iter.state_trap, Whole.state_ran, Whole.state_stopped, Whole.state_denied] | split | with_reducible refine (foldl_net _ ?_ _ _).trans ?_

theorem execAttest_net {s t : State} {x0 : Sys2Proof.Req} (h : execAttest x0 s = .next t) : t.net = s.net := by
  simp only [execAttest, Host.Outcome.next.injEq] at h
  subst h
  repeat' first | with_reducible rfl | with_reducible assumption | intro _ | simp only [State.answer_net, State.draw_net, State.fail_net, net_mk, net_eta, Iter.state_done, Iter.state_fmt, Iter.state_trap, Whole.state_ran, Whole.state_stopped, Whole.state_denied] | split | with_reducible refine (foldl_net _ ?_ _ _).trans ?_

@[simp] theorem State.fwRestart_net (s : State) (x1 : _) : (State.fwRestart s x1).net = s.net := by
  unfold State.fwRestart
  repeat' first | with_reducible rfl | with_reducible assumption | intro _ | simp only [State.bump_net, net_mk, net_eta, Iter.state_done, Iter.state_fmt, Iter.state_trap, Whole.state_ran, Whole.state_stopped, Whole.state_denied] | split | with_reducible refine (foldl_net _ ?_ _ _).trans ?_

theorem execWatchdogExpire_net {s t : State} {x0 : Sys2Proof.Byte} (h : execWatchdogExpire x0 s = .next t) : t.net = s.net := by
  simp only [execWatchdogExpire, Host.Outcome.next.injEq] at h
  subst h
  repeat' first | with_reducible rfl | with_reducible assumption | intro _ | simp only [State.fwRestart_net, State.raise_net, State.trace_net, net_mk, net_eta, Iter.state_done, Iter.state_fmt, Iter.state_trap, Whole.state_ran, Whole.state_stopped, Whole.state_denied] | split | with_reducible refine (foldl_net _ ?_ _ _).trans ?_

@[simp] theorem State.fwCtl_net (s : State) (x1 : _) : (State.fwCtl s x1).net = s.net := by
  unfold State.fwCtl
  repeat' first | with_reducible rfl | with_reducible assumption | intro _ | simp only [State.fwRestart_net, net_mk, net_eta, Iter.state_done, Iter.state_fmt, Iter.state_trap, Whole.state_ran, Whole.state_stopped, Whole.state_denied] | split | with_reducible refine (foldl_net _ ?_ _ _).trans ?_

theorem execFwCtlRestart_net {s t : State} {x0 : Sys2Proof.Word} (h : execFwCtlRestart x0 s = .next t) : t.net = s.net := by
  simp only [execFwCtlRestart, Host.Outcome.next.injEq] at h
  subst h
  repeat' first | with_reducible rfl | with_reducible assumption | intro _ | simp only [State.fwCtl_net, net_mk, net_eta, Iter.state_done, Iter.state_fmt, Iter.state_trap, Whole.state_ran, Whole.state_stopped, Whole.state_denied] | split | with_reducible refine (foldl_net _ ?_ _ _).trans ?_

@[simp] theorem State.traceStart_net (s : State) (x1 : _) (x2 : _) : (State.traceStart s x1 x2).net = s.net := by
  unfold State.traceStart
  repeat' first | with_reducible rfl | with_reducible assumption | intro _ | simp only [State.trace_net, net_mk, net_eta, Iter.state_done, Iter.state_fmt, Iter.state_trap, Whole.state_ran, Whole.state_stopped, Whole.state_denied] | split | with_reducible refine (foldl_net _ ?_ _ _).trans ?_

@[simp] theorem State.dropImport_net (s : State) (x1 : _) : (State.dropImport s x1).net = s.net := by
  unfold State.dropImport
  repeat' first | with_reducible rfl | with_reducible assumption | intro _ | simp only [State.draw_net, State.putRange_net, net_mk, net_eta, Iter.state_done, Iter.state_fmt, Iter.state_trap, Whole.state_ran, Whole.state_stopped, Whole.state_denied] | split | with_reducible refine (foldl_net _ ?_ _ _).trans ?_

@[simp] theorem State.dropWipe_net (s : State) : (State.dropWipe s).net = s.net := by
  unfold State.dropWipe
  repeat' first | with_reducible rfl | with_reducible assumption | intro _ | simp only [State.draw_net, State.memClear_net, net_mk, net_eta, Iter.state_done, Iter.state_fmt, Iter.state_trap, Whole.state_ran, Whole.state_stopped, Whole.state_denied] | split | with_reducible refine (foldl_net _ ?_ _ _).trans ?_

@[simp] theorem State.abortRequest_net (s : State) (x1 : _) : (State.abortRequest s x1).net = s.net := by
  unfold State.abortRequest
  repeat' first | with_reducible rfl | with_reducible assumption | intro _ | simp only [State.dropImport_net, State.dropWipe_net, State.fail_net, State.resilverOver_net, net_mk, net_eta, Iter.state_done, Iter.state_fmt, Iter.state_trap, Whole.state_ran, Whole.state_stopped, Whole.state_denied] | split | with_reducible refine (foldl_net _ ?_ _ _).trans ?_ | with_reducible refine (foldlB_net _ ?_ _ _).trans ?_ | with_reducible refine (foldl1_net _ ?_ _ _).trans ?_ | with_reducible refine (foldl2_net _ ?_ _ _).trans ?_

@[simp] theorem State.stagePassed_net (s : State) (x1 : _) : (State.stagePassed s x1).net = s.net := by
  unfold State.stagePassed
  repeat' first | with_reducible rfl | with_reducible assumption | intro _ | simp only [State.trace_net, net_mk, net_eta, Iter.state_done, Iter.state_fmt, Iter.state_trap, Whole.state_ran, Whole.state_stopped, Whole.state_denied] | split | with_reducible refine (foldl_net _ ?_ _ _).trans ?_

@[simp] theorem State.stageFailed_net (s : State) (x1 : _) : (State.stageFailed s x1).net = s.net := by
  unfold State.stageFailed
  repeat' first | with_reducible rfl | with_reducible assumption | intro _ | simp only [State.draw_net, State.trace_net, net_mk, net_eta, Iter.state_done, Iter.state_fmt, Iter.state_trap, Whole.state_ran, Whole.state_stopped, Whole.state_denied] | split | with_reducible refine (foldl_net _ ?_ _ _).trans ?_

@[simp] theorem State.beginWrite_net (s : State) (x1 : _) : (State.beginWrite s x1).net = s.net := by
  unfold State.beginWrite
  repeat' first | with_reducible rfl | with_reducible assumption | intro _ | simp only [State.stagePassed_net, net_mk, net_eta, Iter.state_done, Iter.state_fmt, Iter.state_trap, Whole.state_ran, Whole.state_stopped, Whole.state_denied] | split | with_reducible refine (foldl_net _ ?_ _ _).trans ?_

theorem execFwUpdate_net {s t : State} {x0 : Sys2Proof.Req} {x1 : List Sys2Proof.Byte} {x2 : Sys2Proof.SigAnswer} (h : execFwUpdate x0 x1 x2 s = .next t) : t.net = s.net := by
  simp only [execFwUpdate, Host.Outcome.next.injEq] at h
  subst h
  repeat' first | with_reducible rfl | with_reducible assumption | intro _ | simp only [State.authFail_net, State.beginWrite_net, State.fail_net, State.stageFailed_net, State.stagePassed_net, net_mk, net_eta, Iter.state_done, Iter.state_fmt, Iter.state_trap, Whole.state_ran, Whole.state_stopped, Whole.state_denied] | split | with_reducible refine (foldl_net _ ?_ _ _).trans ?_

theorem execFwImageWritten_net {s t : State} (h : execFwImageWritten s = .next t) : t.net = s.net := by
  simp only [execFwImageWritten, Host.Outcome.next.injEq] at h
  subst h
  repeat' first | with_reducible rfl | with_reducible assumption | intro _ | simp only [State.beginWrite_net, State.stagePassed_net, net_mk, net_eta, Iter.state_done, Iter.state_fmt, Iter.state_trap, Whole.state_ran, Whole.state_stopped, Whole.state_denied] | split | with_reducible refine (foldl_net _ ?_ _ _).trans ?_

theorem execUpdateWaitTimeout_net {s t : State} (h : execUpdateWaitTimeout s = .next t) : t.net = s.net := by
  simp only [execUpdateWaitTimeout, Host.Outcome.next.injEq] at h
  subst h
  repeat' first | with_reducible rfl | with_reducible assumption | intro _ | simp only [State.fail_net, State.stageFailed_net, net_mk, net_eta, Iter.state_done, Iter.state_fmt, Iter.state_trap, Whole.state_ran, Whole.state_stopped, Whole.state_denied] | split | with_reducible refine (foldl_net _ ?_ _ _).trans ?_

@[simp] theorem State.takeOver_net (s : State) (x1 : _) : (State.takeOver s x1).net = s.net := by
  unfold State.takeOver
  repeat' first | with_reducible rfl | with_reducible assumption | intro _ | simp only [State.ok_net, State.stagePassed_net, State.traceStart_net, net_mk, net_eta, Iter.state_done, Iter.state_fmt, Iter.state_trap, Whole.state_ran, Whole.state_stopped, Whole.state_denied] | split | with_reducible refine (foldl_net _ ?_ _ _).trans ?_

@[simp] theorem State.writeHandoff_net (s : State) : (State.writeHandoff s).net = s.net := by
  unfold State.writeHandoff
  repeat' first | with_reducible rfl | with_reducible assumption | intro _ | simp only [State.memWrite_net, net_mk, net_eta, Iter.state_done, Iter.state_fmt, Iter.state_trap, Whole.state_ran, Whole.state_stopped, Whole.state_denied] | split | with_reducible refine (foldl_net _ ?_ _ _).trans ?_

theorem execFwHandoff_net {s t : State} {x0 : Bool} (h : execFwHandoff x0 s = .next t) : t.net = s.net := by
  simp only [execFwHandoff, Host.Outcome.next.injEq] at h
  subst h
  repeat' first | with_reducible rfl | with_reducible assumption | intro _ | simp only [State.fail_net, State.stageFailed_net, State.stagePassed_net, State.takeOver_net, State.writeHandoff_net, net_mk, net_eta, Iter.state_done, Iter.state_fmt, Iter.state_trap, Whole.state_ran, Whole.state_stopped, Whole.state_denied] | split | with_reducible refine (foldl_net _ ?_ _ _).trans ?_

@[simp] theorem State.leaveLockstep_net (s : State) (x1 : _) : (State.leaveLockstep s x1).net = s.net := by
  unfold State.leaveLockstep
  repeat' first | with_reducible rfl | with_reducible assumption | intro _ | simp only [State.bump_net, State.raise_net, net_mk, net_eta, Iter.state_done, Iter.state_fmt, Iter.state_trap, Whole.state_ran, Whole.state_stopped, Whole.state_denied] | split | with_reducible refine (foldl_net _ ?_ _ _).trans ?_

@[simp] theorem State.modeWrite_net (s : State) (x1 : _) : (State.modeWrite s x1).net = s.net := by
  unfold State.modeWrite
  repeat' first | with_reducible rfl | with_reducible assumption | intro _ | simp only [State.leaveLockstep_net, net_mk, net_eta, Iter.state_done, Iter.state_fmt, Iter.state_trap, Whole.state_ran, Whole.state_stopped, Whole.state_denied] | split | with_reducible refine (foldl_net _ ?_ _ _).trans ?_

theorem execLockstepRequest_net {s t : State} {x0 : Sys2Proof.Word} (h : execLockstepRequest x0 s = .next t) : t.net = s.net := by
  simp only [execLockstepRequest, Host.Outcome.next.injEq] at h
  subst h
  repeat' first | with_reducible rfl | with_reducible assumption | intro _ | simp only [State.modeWrite_net, net_mk, net_eta, Iter.state_done, Iter.state_fmt, Iter.state_trap, Whole.state_ran, Whole.state_stopped, Whole.state_denied] | split | with_reducible refine (foldl_net _ ?_ _ _).trans ?_

theorem execLockstepEnter_net {s t : State} (h : execLockstepEnter s = .next t) : t.net = s.net := by
  simp only [execLockstepEnter, Host.Outcome.next.injEq] at h
  subst h
  repeat' first | with_reducible rfl | with_reducible assumption | intro _ | simp only [State.raise_net, net_mk, net_eta, Iter.state_done, Iter.state_fmt, Iter.state_trap, Whole.state_ran, Whole.state_stopped, Whole.state_denied] | split | with_reducible refine (foldl_net _ ?_ _ _).trans ?_

theorem execClkLockLost_net {s t : State} {x0 : BitVec 3} (h : execClkLockLost x0 s = .next t) : t.net = s.net := by
  simp only [execClkLockLost, Host.Outcome.next.injEq] at h
  subst h
  repeat' first | with_reducible rfl | with_reducible assumption | intro _ | simp only [State.leaveLockstep_net, State.raise_net, net_mk, net_eta, Iter.state_done, Iter.state_fmt, Iter.state_trap, Whole.state_ran, Whole.state_stopped, Whole.state_denied] | split | with_reducible refine (foldl_net _ ?_ _ _).trans ?_

theorem execXtalLost_net {s t : State} (h : execXtalLost s = .next t) : t.net = s.net := by
  simp only [execXtalLost, Host.Outcome.next.injEq] at h
  subst h
  repeat' first | with_reducible rfl | with_reducible assumption | intro _ | simp only [State.raise_net, net_mk, net_eta, Iter.state_done, Iter.state_fmt, Iter.state_trap, Whole.state_ran, Whole.state_stopped, Whole.state_denied] | split | with_reducible refine (foldl_net _ ?_ _ _).trans ?_

@[simp] theorem State.dropUci_net (s : State) : (State.dropUci s).net = s.net := by
  unfold State.dropUci
  repeat' first | with_reducible rfl | with_reducible assumption | intro _ | simp only [net_mk, net_eta, Iter.state_done, Iter.state_fmt, Iter.state_trap, Whole.state_ran, Whole.state_stopped, Whole.state_denied] | split | with_reducible refine (foldl_net _ ?_ _ _).trans ?_

@[simp] theorem State.setUci_net (s : State) (x1 : _) (x2 : _) : (State.setUci s x1 x2).net = s.net := by
  unfold State.setUci
  repeat' first | with_reducible rfl | with_reducible assumption | intro _ | simp only [State.raise_net, net_mk, net_eta, Iter.state_done, Iter.state_fmt, Iter.state_trap, Whole.state_ran, Whole.state_stopped, Whole.state_denied] | split | with_reducible refine (foldl_net _ ?_ _ _).trans ?_

theorem execUciDegraded_net {s t : State} {x0 : Bool} (h : execUciDegraded x0 s = .next t) : t.net = s.net := by
  simp only [execUciDegraded, Host.Outcome.next.injEq] at h
  subst h
  repeat' first | with_reducible rfl | with_reducible assumption | intro _ | simp only [State.setUci_net, net_mk, net_eta, Iter.state_done, Iter.state_fmt, Iter.state_trap, Whole.state_ran, Whole.state_stopped, Whole.state_denied] | split | with_reducible refine (foldl_net _ ?_ _ _).trans ?_

theorem execThermWarn_net {s t : State} {x0 : Sys2Proof.Byte} (h : execThermWarn x0 s = .next t) : t.net = s.net := by
  simp only [execThermWarn, Host.Outcome.next.injEq] at h
  subst h
  repeat' first | with_reducible rfl | with_reducible assumption | intro _ | simp only [State.raise_net, net_mk, net_eta, Iter.state_done, Iter.state_fmt, Iter.state_trap, Whole.state_ran, Whole.state_stopped, Whole.state_denied] | split | with_reducible refine (foldl_net _ ?_ _ _).trans ?_

theorem execThermWarnClear_net {s t : State} {x0 : Sys2Proof.Byte} (h : execThermWarnClear x0 s = .next t) : t.net = s.net := by
  simp only [execThermWarnClear, Host.Outcome.next.injEq] at h
  subst h
  repeat' first | with_reducible rfl | with_reducible assumption | intro _ | simp only [net_mk, net_eta, Iter.state_done, Iter.state_fmt, Iter.state_trap, Whole.state_ran, Whole.state_stopped, Whole.state_denied] | split | with_reducible refine (foldl_net _ ?_ _ _).trans ?_

theorem execVinHigh_net {s t : State} {x0 : BitVec 16} (h : execVinHigh x0 s = .next t) : t.net = s.net := by
  simp only [execVinHigh, Host.Outcome.next.injEq] at h
  subst h
  repeat' first | with_reducible rfl | with_reducible assumption | intro _ | simp only [State.raise_net, net_mk, net_eta, Iter.state_done, Iter.state_fmt, Iter.state_trap, Whole.state_ran, Whole.state_stopped, Whole.state_denied] | split | with_reducible refine (foldl_net _ ?_ _ _).trans ?_

@[simp] theorem State.tearSave_net (s : State) : (State.tearSave s).net = s.net := by
  unfold State.tearSave
  repeat' first | with_reducible rfl | with_reducible assumption | intro _ | simp only [State.draw_net, net_mk, net_eta, Iter.state_done, Iter.state_fmt, Iter.state_trap, Whole.state_ran, Whole.state_stopped, Whole.state_denied] | split | with_reducible refine (foldl_net _ ?_ _ _).trans ?_

@[simp] theorem State.readSaves_net (s : State) : (State.readSaves s).net = s.net := by
  unfold State.readSaves
  repeat' first | with_reducible rfl | with_reducible assumption | intro _ | simp only [State.raise_net, net_mk, net_eta, Iter.state_done, Iter.state_fmt, Iter.state_trap, Whole.state_ran, Whole.state_stopped, Whole.state_denied] | split | with_reducible refine (foldl_net _ ?_ _ _).trans ?_

@[simp] theorem State.trip_net (s : State) : (State.trip s).net = s.net := by
  unfold State.trip
  repeat' first | with_reducible rfl | with_reducible assumption | intro _ | simp only [State.dropUci_net, net_mk, net_eta, Iter.state_done, Iter.state_fmt, Iter.state_trap, Whole.state_ran, Whole.state_stopped, Whole.state_denied] | split | with_reducible refine (foldl_net _ ?_ _ _).trans ?_

@[simp] theorem State.tripOff_net (s : State) : (State.tripOff s).net = s.net := by
  unfold State.tripOff
  repeat' first | with_reducible rfl | with_reducible assumption | intro _ | simp only [State.bump_net, net_mk, net_eta, Iter.state_done, Iter.state_fmt, Iter.state_trap, Whole.state_ran, Whole.state_stopped, Whole.state_denied] | split | with_reducible refine (foldl_net _ ?_ _ _).trans ?_

theorem execSupplyTrip_net {s t : State} (h : execSupplyTrip s = .next t) : t.net = s.net := by
  simp only [execSupplyTrip, Host.Outcome.next.injEq] at h
  subst h
  repeat' first | with_reducible rfl | with_reducible assumption | intro _ | simp only [State.trip_net, State.tripOff_net, net_mk, net_eta, Iter.state_done, Iter.state_fmt, Iter.state_trap, Whole.state_ran, Whole.state_stopped, Whole.state_denied] | split | with_reducible refine (foldl_net _ ?_ _ _).trans ?_

theorem execThermalTrip_net {s t : State} {x0 : Bool} (h : execThermalTrip x0 s = .next t) : t.net = s.net := by
  simp only [execThermalTrip, Host.Outcome.next.injEq] at h
  subst h
  repeat' first | with_reducible rfl | with_reducible assumption | intro _ | simp only [State.bump_net, State.raise_net, State.trip_net, State.tripOff_net, net_mk, net_eta, Iter.state_done, Iter.state_fmt, Iter.state_trap, Whole.state_ran, Whole.state_stopped, Whole.state_denied] | split | with_reducible refine (foldl_net _ ?_ _ _).trans ?_

theorem execMoonstoneSaveDone_net {s t : State} (h : execMoonstoneSaveDone s = .next t) : t.net = s.net := by
  simp only [execMoonstoneSaveDone, Host.Outcome.next.injEq] at h
  subst h
  repeat' first | with_reducible rfl | with_reducible assumption | intro _ | simp only [State.bump_net, net_mk, net_eta, Iter.state_done, Iter.state_fmt, Iter.state_trap, Whole.state_ran, Whole.state_stopped, Whole.state_denied] | split | with_reducible refine (foldl_net _ ?_ _ _).trans ?_

theorem execPwrEnLow_net {s t : State} (h : execPwrEnLow s = .next t) : t.net = s.net := by
  simp only [execPwrEnLow, Host.Outcome.next.injEq] at h
  subst h
  repeat' first | with_reducible rfl | with_reducible assumption | intro _ | simp only [State.dropUci_net, net_mk, net_eta, Iter.state_done, Iter.state_fmt, Iter.state_trap, Whole.state_ran, Whole.state_stopped, Whole.state_denied] | split | with_reducible refine (foldl_net _ ?_ _ _).trans ?_

theorem execInputFuseOpen_net {s t : State} (h : execInputFuseOpen s = .next t) : t.net = s.net := by
  simp only [execInputFuseOpen, Host.Outcome.next.injEq] at h
  subst h
  repeat' first | with_reducible rfl | with_reducible assumption | intro _ | simp only [State.dropUci_net, State.tearSave_net, net_mk, net_eta, Iter.state_done, Iter.state_fmt, Iter.state_trap, Whole.state_ran, Whole.state_stopped, Whole.state_denied] | split | with_reducible refine (foldl_net _ ?_ _ _).trans ?_

@[simp] theorem State.stageTo_net (s : State) (x1 : _) : (State.stageTo s x1).net = s.net := by
  unfold State.stageTo
  repeat' first | with_reducible rfl | with_reducible assumption | intro _ | simp only [net_mk, net_eta, Iter.state_done, Iter.state_fmt, Iter.state_trap, Whole.state_ran, Whole.state_stopped, Whole.state_denied] | split | with_reducible refine (foldl_net _ ?_ _ _).trans ?_

@[simp] theorem State.bringUpFails_net (s : State) (x1 : _) : (State.bringUpFails s x1).net = s.net := by
  unfold State.bringUpFails
  repeat' first | with_reducible rfl | with_reducible assumption | intro _ | simp only [State.setUci_net, net_mk, net_eta, Iter.state_done, Iter.state_fmt, Iter.state_trap, Whole.state_ran, Whole.state_stopped, Whole.state_denied] | split | with_reducible refine (foldl_net _ ?_ _ _).trans ?_

@[simp] theorem State.stageAon_net (s : State) (x1 : _) : (State.stageAon s x1).net = s.net := by
  unfold State.stageAon
  repeat' first | with_reducible rfl | with_reducible assumption | intro _ | simp only [State.bringUpFails_net, State.raise_net, State.stageTo_net, net_mk, net_eta, Iter.state_done, Iter.state_fmt, Iter.state_trap, Whole.state_ran, Whole.state_stopped, Whole.state_denied] | split | with_reducible refine (foldl_net _ ?_ _ _).trans ?_

@[simp] theorem State.stageAlign_net (s : State) (x1 : _) : (State.stageAlign s x1).net = s.net := by
  unfold State.stageAlign
  repeat' first | with_reducible rfl | with_reducible assumption | intro _ | simp only [State.stageTo_net, net_mk, net_eta, Iter.state_done, Iter.state_fmt, Iter.state_trap, Whole.state_ran, Whole.state_stopped, Whole.state_denied] | split | with_reducible refine (foldl_net _ ?_ _ _).trans ?_

@[simp] theorem State.startFw_net (s : State) (x1 : _) : (State.startFw s x1).net = s.net := by
  unfold State.startFw
  repeat' first | with_reducible rfl | with_reducible assumption | intro _ | simp only [State.stageTo_net, State.traceStart_net, net_mk, net_eta, Iter.state_done, Iter.state_fmt, Iter.state_trap, Whole.state_ran, Whole.state_stopped, Whole.state_denied] | split | with_reducible refine (foldl_net _ ?_ _ _).trans ?_

@[simp] theorem State.bootKeys_net (s : State) (x1 : _) : (State.bootKeys s x1).net = s.net := by
  unfold State.bootKeys
  repeat' first | with_reducible rfl | with_reducible assumption | intro _ | simp only [State.afterBurn_net, State.raise_net, net_mk, net_eta, Iter.state_done, Iter.state_fmt, Iter.state_trap, Whole.state_ran, Whole.state_stopped, Whole.state_denied] | split | with_reducible refine (foldl_net _ ?_ _ _).trans ?_

@[simp] theorem State.stageBoot_net (s : State) (x1 : _) : (State.stageBoot s x1).net = s.net := by
  unfold State.stageBoot
  repeat' first | with_reducible rfl | with_reducible assumption | intro _ | simp only [State.bootKeys_net, State.bringUpFails_net, State.bump_net, State.raise_net, State.startFw_net, net_mk, net_eta, Iter.state_done, Iter.state_fmt, Iter.state_trap, Whole.state_ran, Whole.state_stopped, Whole.state_denied] | split | with_reducible refine (foldl_net _ ?_ _ _).trans ?_

@[simp] theorem State.stageTrain_net (s : State) (x1 : _) : (State.stageTrain s x1).net = s.net := by
  unfold State.stageTrain
  repeat' first | with_reducible rfl | with_reducible assumption | intro _ | simp only [State.bringUpFails_net, State.raise_net, State.readSaves_net, State.stageTo_net, net_mk, net_eta, Iter.state_done, Iter.state_fmt, Iter.state_trap, Whole.state_ran, Whole.state_stopped, Whole.state_denied] | split | with_reducible refine (foldl_net _ ?_ _ _).trans ?_

@[simp] theorem State.stageUcie_net (s : State) (x1 : _) : (State.stageUcie s x1).net = s.net := by
  unfold State.stageUcie
  repeat' first | with_reducible rfl | with_reducible assumption | intro _ | simp only [State.setUci_net, State.stageTo_net, State.startWipe_net, net_mk, net_eta, Iter.state_done, Iter.state_fmt, Iter.state_trap, Whole.state_ran, Whole.state_stopped, Whole.state_denied] | split | with_reducible refine (foldl_net _ ?_ _ _).trans ?_

@[simp] theorem State.stageReady_net (s : State) : (State.stageReady s).net = s.net := by
  unfold State.stageReady
  repeat' first | with_reducible rfl | with_reducible assumption | intro _ | simp only [State.raise_net, State.wiped_net, net_mk, net_eta, Iter.state_done, Iter.state_fmt, Iter.state_trap, Whole.state_ran, Whole.state_stopped, Whole.state_denied] | split | with_reducible refine (foldl_net _ ?_ _ _).trans ?_

theorem execBringUpStageDone_net {s t : State} {x0 : Sys2Proof.StageReport} (h : execBringUpStageDone x0 s = .next t) : t.net = s.net := by
  simp only [execBringUpStageDone, Host.Outcome.next.injEq] at h
  subst h
  repeat' first | with_reducible rfl | with_reducible assumption | intro _ | simp only [State.stageAlign_net, State.stageAon_net, State.stageBoot_net, State.stageReady_net, State.stageTo_net, State.stageTrain_net, State.stageUcie_net, net_mk, net_eta, Iter.state_done, Iter.state_fmt, Iter.state_trap, Whole.state_ran, Whole.state_stopped, Whole.state_denied] | split | with_reducible refine (foldl_net _ ?_ _ _).trans ?_

@[simp] theorem State.ovfWrite_net (s : State) (x1 : _) (x2 : _) : (State.ovfWrite s x1 x2).net = s.net := by
  unfold State.ovfWrite
  repeat' first | with_reducible rfl | with_reducible assumption | intro _ | simp only [State.clearCtr_net, net_mk, net_eta, Iter.state_done, Iter.state_fmt, Iter.state_trap, Whole.state_ran, Whole.state_stopped, Whole.state_denied] | split | with_reducible refine (foldl_net _ ?_ _ _).trans ?_ | with_reducible refine (foldlB_net _ ?_ _ _).trans ?_ | with_reducible refine (foldl1_net _ ?_ _ _).trans ?_ | with_reducible refine (foldl2_net _ ?_ _ _).trans ?_

theorem State.lockOr_net (s : State) (r : Reg) (a : Nat) (f : State → State) (h : ∀ t, (f t).net = t.net) : (s.lockOr r a f).net = s.net := by
  unfold State.lockOr
  split
  · simp only [State.raise_net]
  · rw [h]; rfl

@[simp] theorem State.regionWrite_net (s : State) (v : Word) : (s.regionWrite v).net = s.net := by
  unfold State.regionWrite
  refine State.lockOr_net _ _ _ _ fun t => ?_
  repeat' first | with_reducible rfl | simp only [State.raise_net, State.wr_net, net_mk, net_eta] | split

@[simp] theorem State.pwrCfgWrite_net (s : State) (x1 : _) : (State.pwrCfgWrite s x1).net = s.net := by
  unfold State.pwrCfgWrite
  repeat' first | with_reducible rfl | with_reducible assumption | intro _ | simp only [State.raise_net, State.wr_net, net_mk, net_eta, Iter.state_done, Iter.state_fmt, Iter.state_trap, Whole.state_ran, Whole.state_stopped, Whole.state_denied] | split | with_reducible refine (foldl_net _ ?_ _ _).trans ?_

@[simp] theorem State.cmWrite_net (s : State) (x1 : _) (x2 : _) : (State.cmWrite s x1 x2).net = s.net := by
  unfold State.cmWrite
  repeat' first | with_reducible rfl | with_reducible assumption | intro _ | simp only [State.raise_net, State.wr_net, net_mk, net_eta, Iter.state_done, Iter.state_fmt, Iter.state_trap, Whole.state_ran, Whole.state_stopped, Whole.state_denied] | split | with_reducible refine (foldl_net _ ?_ _ _).trans ?_

@[simp] theorem State.evtRingReg_net (s : State) (x1 : _) : (State.evtRingReg s x1).net = s.net := by
  unfold State.evtRingReg
  repeat' first | with_reducible rfl | with_reducible assumption | intro _ | simp only [State.raise_net, State.wr_net, net_mk, net_eta, Iter.state_done, Iter.state_fmt, Iter.state_trap, Whole.state_ran, Whole.state_stopped, Whole.state_denied] | split | with_reducible refine (foldl_net _ ?_ _ _).trans ?_

@[simp] theorem State.trapWrite_net (s : State) (x1 : _) : (State.trapWrite s x1).net = s.net := by
  unfold State.trapWrite
  repeat' first | with_reducible rfl | with_reducible assumption | intro _ | simp only [State.wr_net, net_mk, net_eta, Iter.state_done, Iter.state_fmt, Iter.state_trap, Whole.state_ran, Whole.state_stopped, Whole.state_denied] | split | with_reducible refine (foldl_net _ ?_ _ _).trans ?_

@[simp] theorem State.ueLogWrite_net (s : State) (x1 : _) : (State.ueLogWrite s x1).net = s.net := by
  unfold State.ueLogWrite
  repeat' first | with_reducible rfl | with_reducible assumption | intro _ | simp only [net_mk, net_eta, Iter.state_done, Iter.state_fmt, Iter.state_trap, Whole.state_ran, Whole.state_stopped, Whole.state_denied] | split | with_reducible refine (foldl_net _ ?_ _ _).trans ?_

@[simp] theorem State.alertWrite_net (s : State) (x1 : _) : (State.alertWrite s x1).net = s.net := by
  unfold State.alertWrite
  repeat' first | with_reducible rfl | with_reducible assumption | intro _ | simp only [net_mk, net_eta, Iter.state_done, Iter.state_fmt, Iter.state_trap, Whole.state_ran, Whole.state_stopped, Whole.state_denied] | split | with_reducible refine (foldl_net _ ?_ _ _).trans ?_

@[simp] theorem State.rateLifted_net (s : State) (x1 : _) : (State.rateLifted s x1).net = s.net := by
  unfold State.rateLifted
  repeat' first | with_reducible rfl | with_reducible assumption | intro _ | simp only [State.modSched_net, net_mk, net_eta, Iter.state_done, Iter.state_fmt, Iter.state_trap, Whole.state_ran, Whole.state_stopped, Whole.state_denied] | split | with_reducible refine (foldl_net _ ?_ _ _).trans ?_

theorem execStewardRd_net {s t : State} {x0 : List Sys2Proof.Byte} (h : execStewardRd x0 s = .next t) : t.net = s.net := by
  simp only [execStewardRd, Host.Outcome.next.injEq] at h
  subst h
  repeat' first | with_reducible rfl | with_reducible assumption | intro _ | simp only [State.bump_net, State.emit_net, net_mk, net_eta, Iter.state_done, Iter.state_fmt, Iter.state_trap, Whole.state_ran, Whole.state_stopped, Whole.state_denied] | split | with_reducible refine (foldl_net _ ?_ _ _).trans ?_

theorem execFabricPosWrite_net {s t : State} {x0 : Bool} {x1 : Sys2Proof.Word} (h : execFabricPosWrite x0 x1 s = .next t) : t.net = s.net := by
  simp only [execFabricPosWrite, Host.Outcome.next.injEq] at h
  subst h
  repeat' first | with_reducible rfl | with_reducible assumption | intro _ | simp only [State.placeWrite_net, net_mk, net_eta, Iter.state_done, Iter.state_fmt, Iter.state_trap, Whole.state_ran, Whole.state_stopped, Whole.state_denied] | split | with_reducible refine (foldl_net _ ?_ _ _).trans ?_

theorem execMemRegionSizeWrite_net {s t : State} {x0 : Sys2Proof.Word} (h : execMemRegionSizeWrite x0 s = .next t) : t.net = s.net := by
  simp only [execMemRegionSizeWrite, Host.Outcome.next.injEq] at h
  subst h
  repeat' first | with_reducible rfl | with_reducible assumption | intro _ | simp only [State.regionWrite_net, net_mk, net_eta, Iter.state_done, Iter.state_fmt, Iter.state_trap, Whole.state_ran, Whole.state_stopped, Whole.state_denied] | split | with_reducible refine (foldl_net _ ?_ _ _).trans ?_

theorem execCounterOvfClear_net {s t : State} {x0 : Nat} {x1 : Sys2Proof.Word} (h : execCounterOvfClear x0 x1 s = .next t) : t.net = s.net := by
  simp only [execCounterOvfClear, Host.Outcome.next.injEq] at h
  subst h
  repeat' first | with_reducible rfl | with_reducible assumption | intro _ | simp only [State.ovfWrite_net, net_mk, net_eta, Iter.state_done, Iter.state_fmt, Iter.state_trap, Whole.state_ran, Whole.state_stopped, Whole.state_denied] | split | with_reducible refine (foldl_net _ ?_ _ _).trans ?_

theorem execVeTrapClear_net {s t : State} {x0 : Sys2Proof.Word} (h : execVeTrapClear x0 s = .next t) : t.net = s.net := by
  simp only [execVeTrapClear, Host.Outcome.next.injEq] at h
  subst h
  repeat' first | with_reducible rfl | with_reducible assumption | intro _ | simp only [State.trapWrite_net, net_mk, net_eta, Iter.state_done, Iter.state_fmt, Iter.state_trap, Whole.state_ran, Whole.state_stopped, Whole.state_denied] | split | with_reducible refine (foldl_net _ ?_ _ _).trans ?_

theorem execMemUeLogClear_net {s t : State} {x0 : Sys2Proof.Word} (h : execMemUeLogClear x0 s = .next t) : t.net = s.net := by
  simp only [execMemUeLogClear, Host.Outcome.next.injEq] at h
  subst h
  repeat' first | with_reducible rfl | with_reducible assumption | intro _ | simp only [State.ueLogWrite_net, net_mk, net_eta, Iter.state_done, Iter.state_fmt, Iter.state_trap, Whole.state_ran, Whole.state_stopped, Whole.state_denied] | split | with_reducible refine (foldl_net _ ?_ _ _).trans ?_

theorem execAlertClear_net {s t : State} {x0 : Sys2Proof.Word} (h : execAlertClear x0 s = .next t) : t.net = s.net := by
  simp only [execAlertClear, Host.Outcome.next.injEq] at h
  subst h
  repeat' first | with_reducible rfl | with_reducible assumption | intro _ | simp only [State.alertWrite_net, net_mk, net_eta, Iter.state_done, Iter.state_fmt, Iter.state_trap, Whole.state_ran, Whole.state_stopped, Whole.state_denied] | split | with_reducible refine (foldl_net _ ?_ _ _).trans ?_

theorem execCmConfigWrite_net {s t : State} {x0 : Option Nat} {x1 : Sys2Proof.Word} (h : execCmConfigWrite x0 x1 s = .next t) : t.net = s.net := by
  simp only [execCmConfigWrite, Host.Outcome.next.injEq] at h
  subst h
  repeat' first | with_reducible rfl | with_reducible assumption | intro _ | simp only [State.cmWrite_net, net_mk, net_eta, Iter.state_done, Iter.state_fmt, Iter.state_trap, Whole.state_ran, Whole.state_stopped, Whole.state_denied] | split | with_reducible refine (foldl_net _ ?_ _ _).trans ?_

theorem execEvtRingWrite_net {s t : State} {x0 : Sys2Proof.Word} (h : execEvtRingWrite x0 s = .next t) : t.net = s.net := by
  simp only [execEvtRingWrite, Host.Outcome.next.injEq] at h
  subst h
  repeat' first | with_reducible rfl | with_reducible assumption | intro _ | simp only [State.evtRingReg_net, net_mk, net_eta, Iter.state_done, Iter.state_fmt, Iter.state_trap, Whole.state_ran, Whole.state_stopped, Whole.state_denied] | split | with_reducible refine (foldl_net _ ?_ _ _).trans ?_

theorem execBmcRead_net {s t : State} {x0 : Nat} {x1 : Nat} (h : execBmcRead x0 x1 s = .next t) : t.net = s.net := by
  simp only [execBmcRead, Host.Outcome.next.injEq] at h
  subst h
  repeat' first | with_reducible rfl | with_reducible assumption | intro _ | simp only [State.emit_net, net_mk, net_eta, Iter.state_done, Iter.state_fmt, Iter.state_trap, Whole.state_ran, Whole.state_stopped, Whole.state_denied] | split | with_reducible refine (foldl_net _ ?_ _ _).trans ?_

theorem execTelemetrySnapshot_net {s t : State} {x0 : Sys2Proof.Req} (h : execTelemetrySnapshot x0 s = .next t) : t.net = s.net := by
  simp only [execTelemetrySnapshot, Host.Outcome.next.injEq] at h
  subst h
  repeat' first | with_reducible rfl | with_reducible assumption | intro _ | simp only [State.answer_net, State.fail_net, State.fetchObject_net, net_mk, net_eta, Iter.state_done, Iter.state_fmt, Iter.state_trap, Whole.state_ran, Whole.state_stopped, Whole.state_denied] | split | with_reducible refine (foldl_net _ ?_ _ _).trans ?_

theorem execRefresh_net {s t : State} {x0 : Nat} (h : execRefresh x0 s = .next t) : t.net = s.net := by
  simp only [execRefresh, Host.Outcome.next.injEq] at h
  subst h
  repeat' first | with_reducible rfl | with_reducible assumption | intro _ | simp only [State.bump_net, net_mk, net_eta, Iter.state_done, Iter.state_fmt, Iter.state_trap, Whole.state_ran, Whole.state_stopped, Whole.state_denied] | split | with_reducible refine (foldl_net _ ?_ _ _).trans ?_

theorem execRefreshStatusRead_net {s t : State} {x0 : Nat} {x1 : Bool} (h : execRefreshStatusRead x0 x1 s = .next t) : t.net = s.net := by
  simp only [execRefreshStatusRead, Host.Outcome.next.injEq] at h
  subst h
  repeat' first | with_reducible rfl | with_reducible assumption | intro _ | simp only [State.leaveLockstep_net, State.raise_net, net_mk, net_eta, Iter.state_done, Iter.state_fmt, Iter.state_trap, Whole.state_ran, Whole.state_stopped, Whole.state_denied] | split | with_reducible refine (foldl_net _ ?_ _ _).trans ?_

theorem execMemHotClear_net {s t : State} (h : execMemHotClear s = .next t) : t.net = s.net := by
  simp only [execMemHotClear, Host.Outcome.next.injEq] at h
  subst h
  repeat' first | with_reducible rfl | with_reducible assumption | intro _ | simp only [State.raise_net, net_mk, net_eta, Iter.state_done, Iter.state_fmt, Iter.state_trap, Whole.state_ran, Whole.state_stopped, Whole.state_denied] | split | with_reducible refine (foldl_net _ ?_ _ _).trans ?_

@[simp] theorem State.scrubBlock_net (s : State) (x1 : _) : (State.scrubBlock s x1).net = s.net := by
  unfold State.scrubBlock
  repeat' first | with_reducible rfl | with_reducible assumption | intro _ | simp only [State.fwRestart_net, State.readBlock_net, net_mk, net_eta, Iter.state_done, Iter.state_fmt, Iter.state_trap, Whole.state_ran, Whole.state_stopped, Whole.state_denied] | split | with_reducible refine (foldl_net _ ?_ _ _).trans ?_

@[simp] theorem State.scrubUnit_net (s : State) (x1 : _) (x2 : _) (x3 : _) : (State.scrubUnit s x1 x2 x3).net = s.net := by
  unfold State.scrubUnit
  repeat' first | with_reducible rfl | with_reducible assumption | intro _ | simp only [State.scrubBlock_net, State.upset_net, net_mk, net_eta, Iter.state_done, Iter.state_fmt, Iter.state_trap, Whole.state_ran, Whole.state_stopped, Whole.state_denied] | split | with_reducible refine (foldl_net _ ?_ _ _).trans ?_ | with_reducible refine (foldlB_net _ ?_ _ _).trans ?_ | with_reducible refine (foldl1_net _ ?_ _ _).trans ?_ | with_reducible refine (foldl2_net _ ?_ _ _).trans ?_

theorem execPatrolScrub_net {s t : State} {x0 : Nat} {x1 : List (Nat × BitVec 16)} (h : execPatrolScrub x0 x1 s = .next t) : t.net = s.net := by
  simp only [execPatrolScrub, Host.Outcome.next.injEq] at h
  subst h
  repeat' first | with_reducible rfl | with_reducible assumption | intro _ | simp only [State.bump_net, State.scrubUnit_net, net_mk, net_eta, Iter.state_done, Iter.state_fmt, Iter.state_trap, Whole.state_ran, Whole.state_stopped, Whole.state_denied] | split | with_reducible refine (foldl_net _ ?_ _ _).trans ?_

theorem execEventRingEntryWrite_net {s t : State} (h : execEventRingEntryWrite s = .next t) : t.net = s.net := by
  simp only [execEventRingEntryWrite, Host.Outcome.next.injEq] at h
  subst h
  repeat' first | with_reducible rfl | with_reducible assumption | intro _ | simp only [State.busWrite_net, State.interrupt_net, net_mk, net_eta, Iter.state_done, Iter.state_fmt, Iter.state_trap, Whole.state_ran, Whole.state_stopped, Whole.state_denied] | split | with_reducible refine (foldl_net _ ?_ _ _).trans ?_

theorem execHealthSample_net {s t : State} {x0 : Nat} {x1 : Sys2Proof.Measure} (h : execHealthSample x0 x1 s = .next t) : t.net = s.net := by
  simp only [execHealthSample, Host.Outcome.next.injEq] at h
  subst h
  repeat' first | with_reducible rfl | with_reducible assumption | intro _ | simp only [State.raise_net, net_mk, net_eta, Iter.state_done, Iter.state_fmt, Iter.state_trap, Whole.state_ran, Whole.state_stopped, Whole.state_denied] | split | with_reducible refine (foldl_net _ ?_ _ _).trans ?_

/-! ### The ports where a function changes another of them -/

theorem net_ports (s : State) : s.ports = s.net.1 := (rfl)

theorem foldl_ports {α : Type} (f : State → α → State) (h : ∀ t a, (f t a).net.1 = t.net.1) (l : List α) (b : State) :
    (l.foldl f b).net.1 = b.net.1 := by
  induction l generalizing b with
  | nil => rfl
  | cons a l ih => rw [List.foldl_cons, ih, h]

theorem foldlB_ports {α : Type} (f : Body → α → Body) (h : ∀ t a, (f t a).s.net.1 = t.s.net.1) (l : List α) (b : Body) :
    (l.foldl f b).s.net.1 = b.s.net.1 := by
  induction l generalizing b with
  | nil => rfl
  | cons a l ih => rw [List.foldl_cons, ih, h]

theorem foldl1_ports {α β : Type} (f : State × β → α → State × β) (h : ∀ t a, (f t a).1.net.1 = t.1.net.1) (l : List α) (b : State × β) :
    (l.foldl f b).1.net.1 = b.1.net.1 := by
  induction l generalizing b with
  | nil => rfl
  | cons a l ih => rw [List.foldl_cons, ih, h]

theorem foldl2_ports {α β : Type} (f : β × State → α → β × State) (h : ∀ t a, (f t a).2.net.1 = t.2.net.1) (l : List α) (b : β × State) :
    (l.foldl f b).2.net.1 = b.2.net.1 := by
  induction l generalizing b with
  | nil => rfl
  | cons a l ih => rw [List.foldl_cons, ih, h]

@[simp] theorem State.twinFenced_ports (s : State) : (State.twinFenced s).net.1 = s.net.1 := by
  unfold State.twinFenced
  repeat' first | with_reducible rfl | with_reducible assumption | intro _ | simp only [State.exchange_net, State.healFails_net, net_mk, net_eta, net_ports, Iter.state_done, Iter.state_fmt, Iter.state_trap, Whole.state_ran, Whole.state_stopped, Whole.state_denied] | split | with_reducible refine (foldl_ports _ ?_ _ _).trans ?_ | with_reducible refine (foldlB_ports _ ?_ _ _).trans ?_ | with_reducible refine (foldl1_ports _ ?_ _ _).trans ?_ | with_reducible refine (foldl2_ports _ ?_ _ _).trans ?_

@[simp] theorem State.stopTwinB_ports (s : State) : (State.stopTwinB s).net.1 = s.net.1 := by
  unfold State.stopTwinB
  repeat' first | with_reducible rfl | with_reducible assumption | intro _ | simp only [State.abortAll_net, State.raise_net, net_mk, net_eta, net_ports, Iter.state_done, Iter.state_fmt, Iter.state_trap, Whole.state_ran, Whole.state_stopped, Whole.state_denied] | split | with_reducible refine (foldl_ports _ ?_ _ _).trans ?_

@[simp] theorem State.nameTwin_ports (s : State) (x1 : _) : (State.nameTwin s x1).net.1 = s.net.1 := by
  unfold State.nameTwin
  repeat' first | with_reducible rfl | with_reducible assumption | intro _ | simp only [State.modParty_net, net_mk, net_eta, net_ports, Iter.state_done, Iter.state_fmt, Iter.state_trap, Whole.state_ran, Whole.state_stopped, Whole.state_denied] | split | with_reducible refine (foldl_ports _ ?_ _ _).trans ?_

theorem State.lockOr_ports (s : State) (r : Reg) (a : Nat) (f : State → State) (h : ∀ t, (f t).net.1 = t.net.1) : (s.lockOr r a f).net.1 = s.net.1 := by
  unfold State.lockOr
  split
  · simp only [State.raise_net]
  · rw [h]; rfl

/-! ### The twin where a function changes another of them -/

theorem net_twin (s : State) : s.twin = s.net.2 := (rfl)

theorem foldl_twin {α : Type} (f : State → α → State) (h : ∀ t a, (f t a).net.2 = t.net.2) (l : List α) (b : State) :
    (l.foldl f b).net.2 = b.net.2 := by
  induction l generalizing b with
  | nil => rfl
  | cons a l ih => rw [List.foldl_cons, ih, h]

theorem foldlB_twin {α : Type} (f : Body → α → Body) (h : ∀ t a, (f t a).s.net.2 = t.s.net.2) (l : List α) (b : Body) :
    (l.foldl f b).s.net.2 = b.s.net.2 := by
  induction l generalizing b with
  | nil => rfl
  | cons a l ih => rw [List.foldl_cons, ih, h]

theorem foldl1_twin {α β : Type} (f : State × β → α → State × β) (h : ∀ t a, (f t a).1.net.2 = t.1.net.2) (l : List α) (b : State × β) :
    (l.foldl f b).1.net.2 = b.1.net.2 := by
  induction l generalizing b with
  | nil => rfl
  | cons a l ih => rw [List.foldl_cons, ih, h]

theorem foldl2_twin {α β : Type} (f : β × State → α → β × State) (h : ∀ t a, (f t a).2.net.2 = t.2.net.2) (l : List α) (b : β × State) :
    (l.foldl f b).2.net.2 = b.2.net.2 := by
  induction l generalizing b with
  | nil => rfl
  | cons a l ih => rw [List.foldl_cons, ih, h]

@[simp] theorem State.setPort_twin (s : State) (x1 : _) (x2 : _) : (State.setPort s x1 x2).net.2 = s.net.2 := by
  unfold State.setPort
  repeat' first | with_reducible rfl | with_reducible assumption | intro _ | simp only [net_mk, net_eta, net_twin, Iter.state_done, Iter.state_fmt, Iter.state_trap, Whole.state_ran, Whole.state_stopped, Whole.state_denied] | split | with_reducible refine (foldl_twin _ ?_ _ _).trans ?_

@[simp] theorem State.modPort_twin (s : State) (x1 : _) (x2 : _) : (State.modPort s x1 x2).net.2 = s.net.2 := by
  unfold State.modPort
  repeat' first | with_reducible rfl | with_reducible assumption | intro _ | simp only [State.setPort_twin, net_mk, net_eta, net_twin, Iter.state_done, Iter.state_fmt, Iter.state_trap, Whole.state_ran, Whole.state_stopped, Whole.state_denied] | split | with_reducible refine (foldl_twin _ ?_ _ _).trans ?_

@[simp] theorem State.returnCredit_twin (s : State) (x1 : _) (x2 : _) : (State.returnCredit s x1 x2).net.2 = s.net.2 := by
  unfold State.returnCredit
  repeat' first | with_reducible rfl | with_reducible assumption | intro _ | simp only [State.modPort_twin, net_mk, net_eta, net_twin, Iter.state_done, Iter.state_fmt, Iter.state_trap, Whole.state_ran, Whole.state_stopped, Whole.state_denied] | split | with_reducible refine (foldl_twin _ ?_ _ _).trans ?_

@[simp] theorem State.dropRef_twin (s : State) (x1 : _) : (State.dropRef s x1).net.2 = s.net.2 := by
  unfold State.dropRef
  repeat' first | with_reducible rfl | with_reducible assumption | intro _ | simp only [State.freeIfDone_net, State.modCellSlot_net, State.returnCredit_twin, net_mk, net_eta, net_twin, Iter.state_done, Iter.state_fmt, Iter.state_trap, Whole.state_ran, Whole.state_stopped, Whole.state_denied] | split | with_reducible refine (foldl_twin _ ?_ _ _).trans ?_

@[simp] theorem State.dequeue_twin (s : State) (x1 : _) (x2 : _) : (State.dequeue s x1 x2).net.2 = s.net.2 := by
  unfold State.dequeue
  repeat' first | with_reducible rfl | with_reducible assumption | intro _ | simp only [State.dropRef_twin, State.setQueue_net, net_mk, net_eta, net_twin, Iter.state_done, Iter.state_fmt, Iter.state_trap, Whole.state_ran, Whole.state_stopped, Whole.state_denied] | split | with_reducible refine (foldl_twin _ ?_ _ _).trans ?_

@[simp] theorem State.sweepQueues_twin (s : State) (x1 : _) : (State.sweepQueues s x1).net.2 = s.net.2 := by
  unfold State.sweepQueues
  repeat' first | with_reducible rfl | with_reducible assumption | intro _ | simp only [State.dequeue_twin, State.dropRef_twin, net_mk, net_eta, net_twin, Iter.state_done, Iter.state_fmt, Iter.state_trap, Whole.state_ran, Whole.state_stopped, Whole.state_denied] | split | with_reducible refine (foldl_twin _ ?_ _ _).trans ?_ | with_reducible refine (foldlB_twin _ ?_ _ _).trans ?_ | with_reducible refine (foldl1_twin _ ?_ _ _).trans ?_ | with_reducible refine (foldl2_twin _ ?_ _ _).trans ?_

theorem execHeartbeatSend_twin {s t : State} {x0 : Nat} (h : execHeartbeatSend x0 s = .next t) : t.net.2 = s.net.2 := by
  simp only [execHeartbeatSend, Host.Outcome.next.injEq] at h
  subst h
  repeat' first | with_reducible rfl | with_reducible assumption | intro _ | simp only [State.modPort_twin, State.sendOnPort_net, net_mk, net_eta, net_twin, Iter.state_done, Iter.state_fmt, Iter.state_trap, Whole.state_ran, Whole.state_stopped, Whole.state_denied] | split | with_reducible refine (foldl_twin _ ?_ _ _).trans ?_

theorem execHeartbeat_twin {s t : State} {x0 : Nat} {x1 : Nat} {x2 : Nat} {x3 : Sys2Proof.Byte} (h : execHeartbeat x0 x1 x2 x3 s = .next t) : t.net.2 = s.net.2 := by
  simp only [execHeartbeat, Host.Outcome.next.injEq] at h
  subst h
  repeat' first | with_reducible rfl | with_reducible assumption | intro _ | simp only [State.modPort_twin, State.reportSilence_net, State.takeCtrl_net, net_mk, net_eta, net_twin, Iter.state_done, Iter.state_fmt, Iter.state_trap, Whole.state_ran, Whole.state_stopped, Whole.state_denied] | split | with_reducible refine (foldl_twin _ ?_ _ _).trans ?_

theorem execStepEnd_twin {s t : State} {x0 : Nat} {x1 : Nat} {x2 : Sys2Proof.Byte} (h : execStepEnd x0 x1 x2 s = .next t) : t.net.2 = s.net.2 := by
  simp only [execStepEnd, Host.Outcome.next.injEq] at h
  subst h
  repeat' first | with_reducible rfl | with_reducible assumption | intro _ | simp only [State.modPort_twin, State.takeCtrl_net, net_mk, net_eta, net_twin, Iter.state_done, Iter.state_fmt, Iter.state_trap, Whole.state_ran, Whole.state_stopped, Whole.state_denied] | split | with_reducible refine (foldl_twin _ ?_ _ _).trans ?_

theorem execTwinHbSend_twin {s t : State} {x0 : Nat} (h : execTwinHbSend x0 s = .next t) : t.net.2 = s.net.2 := by
  simp only [execTwinHbSend, Host.Outcome.next.injEq] at h
  subst h
  repeat' first | with_reducible rfl | with_reducible assumption | intro _ | simp only [State.modPort_twin, State.sendOnPort_net, net_mk, net_eta, net_twin, Iter.state_done, Iter.state_fmt, Iter.state_trap, Whole.state_ran, Whole.state_stopped, Whole.state_denied] | split | with_reducible refine (foldl_twin _ ?_ _ _).trans ?_

@[simp] theorem State.train_twin (s : State) (x1 : _) : (State.train s x1).net.2 = s.net.2 := by
  unfold State.train
  repeat' first | with_reducible rfl | with_reducible assumption | intro _ | simp only [State.emit_net, State.modPort_twin, State.sendControl_net, net_mk, net_eta, net_twin, Iter.state_done, Iter.state_fmt, Iter.state_trap, Whole.state_ran, Whole.state_stopped, Whole.state_denied] | split | with_reducible refine (foldl_twin _ ?_ _ _).trans ?_

@[simp] theorem State.retrain_twin (s : State) (x1 : _) : (State.retrain s x1).net.2 = s.net.2 := by
  unfold State.retrain
  repeat' first | with_reducible rfl | with_reducible assumption | intro _ | simp only [State.modPort_twin, State.train_twin, net_mk, net_eta, net_twin, Iter.state_done, Iter.state_fmt, Iter.state_trap, Whole.state_ran, Whole.state_stopped, Whole.state_denied] | split | with_reducible refine (foldl_twin _ ?_ _ _).trans ?_

theorem execDataFrameReceive_twin {s t : State} {x0 : Nat} {x1 : List Sys2Proof.Byte} (h : execDataFrameReceive x0 x1 s = .next t) : t.net.2 = s.net.2 := by
  simp only [execDataFrameReceive, Host.Outcome.next.injEq] at h
  subst h
  repeat' first | with_reducible rfl | with_reducible assumption | intro _ | simp only [State.bump_net, State.modPort_twin, State.sendControl_net, net_mk, net_eta, net_twin, Iter.state_done, Iter.state_fmt, Iter.state_trap, Whole.state_ran, Whole.state_stopped, Whole.state_denied] | split | with_reducible refine (foldl_twin _ ?_ _ _).trans ?_

@[simp] theorem State.sendData_twin (s : State) (x1 : _) (x2 : _) (x3 : _) : (State.sendData s x1 x2 x3).net.2 = s.net.2 := by
  unfold State.sendData
  repeat' first | with_reducible rfl | with_reducible assumption | intro _ | simp only [State.emit_net, State.modPort_twin, net_mk, net_eta, net_twin, Iter.state_done, Iter.state_fmt, Iter.state_trap, Whole.state_ran, Whole.state_stopped, Whole.state_denied] | split | with_reducible refine (foldl_twin _ ?_ _ _).trans ?_

@[simp] theorem State.resendFrame_twin (s : State) (x1 : _) (x2 : _) : (State.resendFrame s x1 x2).net.2 = s.net.2 := by
  unfold State.resendFrame
  repeat' first | with_reducible rfl | with_reducible assumption | intro _ | simp only [State.endsLate_net, State.sendData_twin, net_mk, net_eta, net_twin, Iter.state_done, Iter.state_fmt, Iter.state_trap, Whole.state_ran, Whole.state_stopped, Whole.state_denied] | split | with_reducible refine (foldl_twin _ ?_ _ _).trans ?_

@[simp] theorem State.startDegrade_twin (s : State) (x1 : _) : (State.startDegrade s x1).net.2 = s.net.2 := by
  unfold State.startDegrade
  repeat' first | with_reducible rfl | with_reducible assumption | intro _ | simp only [State.modPort_twin, State.sendControl_net, net_mk, net_eta, net_twin, Iter.state_done, Iter.state_fmt, Iter.state_trap, Whole.state_ran, Whole.state_stopped, Whole.state_denied] | split | with_reducible refine (foldl_twin _ ?_ _ _).trans ?_

theorem execPortUp_twin {s t : State} {x0 : Nat} {x1 : Sys2Proof.PeerReport} (h : execPortUp x0 x1 s = .next t) : t.net.2 = s.net.2 := by
  simp only [execPortUp, Host.Outcome.next.injEq] at h
  subst h
  repeat' first | with_reducible rfl | with_reducible assumption | intro _ | simp only [State.bump_net, State.modPort_twin, State.raise_net, State.reportLinks_net, net_mk, net_eta, net_twin, Iter.state_done, Iter.state_fmt, Iter.state_trap, Whole.state_ran, Whole.state_stopped, Whole.state_denied] | split | with_reducible refine (foldl_twin _ ?_ _ _).trans ?_

theorem execPortRetrainTimer_twin {s t : State} {x0 : Nat} (h : execPortRetrainTimer x0 s = .next t) : t.net.2 = s.net.2 := by
  simp only [execPortRetrainTimer, Host.Outcome.next.injEq] at h
  subst h
  repeat' first | with_reducible rfl | with_reducible assumption | intro _ | simp only [State.retrain_twin, net_mk, net_eta, net_twin, Iter.state_done, Iter.state_fmt, Iter.state_trap, Whole.state_ran, Whole.state_stopped, Whole.state_denied] | split | with_reducible refine (foldl_twin _ ?_ _ _).trans ?_

theorem State.admitCell_twin {s t : State} {p : Nat} {c : Cell} (h : s.admitCell p c = some t) : t.net.2 = s.net.2 := by
  have hr : (if s.inPassing c = true then s.exchPassing c else (s, true)).1.net.2 = s.net.2 := by
    split
    · rw [State.exchPassing_net]
    · rfl
  simp only [State.admitCell] at h
  generalize (if s.inPassing c = true then s.exchPassing c else (s, true)) = r at h hr
  repeat' split at h
  all_goals first
    | (cases h; done)
    | (cases h; simp only [State.returnCredit_twin, State.countWay_net, State.spill_net, State.store_net, hr]; done)

theorem State.ingress_twin {s t : State} {p : Nat} {b : List Byte} (h : s.ingress p b = some t) : t.net.2 = s.net.2 := by
  simp only [State.ingress] at h
  repeat' split at h
  all_goals first
    | (cases h; simp only [State.returnCredit_twin, State.bump_net, State.raise_net]; done)
    | (cases h; rw [State.returnCredit_twin, State.colourFate_net (by assumption), State.meterCell_net]; done)
    | (rw [State.admitCell_twin h, State.meterCell_net]; done)

theorem execCellReceive_twin {s t : State} {x0 : Nat} {x1 : List Sys2Proof.Byte} (h : execCellReceive x0 x1 s = .next t) : t.net.2 = s.net.2 := by
  simp only [execCellReceive, Host.Outcome.next.injEq] at h
  subst h
  repeat' first | with_reducible rfl | with_reducible assumption | intro _ | simp only [State.modPort_twin, net_mk, net_eta, net_twin, Iter.state_done, Iter.state_fmt, Iter.state_trap, Whole.state_ran, Whole.state_stopped, Whole.state_denied] | with_reducible refine (State.ingress_twin (by assumption)).trans ?_ | split | with_reducible refine (foldl_twin _ ?_ _ _).trans ?_

theorem execAdaptiveEgressChoice_twin {s t : State} {x0 : Nat} (h : execAdaptiveEgressChoice x0 s = .next t) : t.net.2 = s.net.2 := by
  simp only [execAdaptiveEgressChoice, Host.Outcome.next.injEq] at h
  subst h
  repeat' first | with_reducible rfl | with_reducible assumption | intro _ | simp only [State.bump_net, State.countEgress_net, State.dropRef_twin, State.enqueue_net, State.spill_net, net_mk, net_eta, net_twin, Iter.state_done, Iter.state_fmt, Iter.state_trap, Whole.state_ran, Whole.state_stopped, Whole.state_denied] | split | with_reducible refine (foldl_twin _ ?_ _ _).trans ?_

theorem execLocalCellDeliver_twin {s t : State} {x0 : Nat} {x1 : Nat} (h : execLocalCellDeliver x0 x1 s = .next t) : t.net.2 = s.net.2 := by
  simp only [execLocalCellDeliver, Host.Outcome.next.injEq] at h
  subst h
  repeat' first | with_reducible rfl | with_reducible assumption | intro _ | simp only [State.admitBlocked_net, State.bump_net, State.dropRef_twin, State.fillWindow_net, State.joinStream_net, State.setQueue_net, State.setWindow_net, net_mk, net_eta, net_twin, Iter.state_done, Iter.state_fmt, Iter.state_trap, Whole.state_ran, Whole.state_stopped, Whole.state_denied] | split | with_reducible refine (foldl_twin _ ?_ _ _).trans ?_

@[simp] theorem State.selectAux_twin (s : State) (x0 : _) (x1 : _) : (State.selectAux x0 x1 s).net.2 = s.net.2 := by
  induction x1 generalizing s with
  | zero => unfold State.selectAux; repeat' first | with_reducible rfl | with_reducible assumption | intro _ | simp only [State.bump_net, State.chargeSelect_net, State.dropRef_twin, State.modPort_twin, State.select_net, State.setQueue_net, State.tookCopy_net, net_mk, net_eta, net_twin, Iter.state_done, Iter.state_fmt, Iter.state_trap, Whole.state_ran, Whole.state_stopped, Whole.state_denied] | split | with_reducible refine (foldl_twin _ ?_ _ _).trans ?_
  | succ n ih =>
    unfold State.selectAux
    repeat' first | with_reducible rfl | with_reducible assumption | intro _ | simp only [ih, State.bump_net, State.chargeSelect_net, State.dropRef_twin, State.modPort_twin, State.select_net, State.setQueue_net, State.tookCopy_net, net_mk, net_eta, net_twin, Iter.state_done, Iter.state_fmt, Iter.state_trap, Whole.state_ran, Whole.state_stopped, Whole.state_denied] | split | with_reducible refine (foldl_twin _ ?_ _ _).trans ?_

theorem execSchedulerSelect_twin {s t : State} {x0 : Nat} (h : execSchedulerSelect x0 s = .next t) : t.net.2 = s.net.2 := by
  simp only [execSchedulerSelect, Host.Outcome.next.injEq] at h
  subst h
  repeat' first | with_reducible rfl | with_reducible assumption | intro _ | simp only [State.admitBlocked_net, State.holdMisfits_net, State.selectAux_twin, net_mk, net_eta, net_twin, Iter.state_done, Iter.state_fmt, Iter.state_trap, Whole.state_ran, Whole.state_stopped, Whole.state_denied] | split | with_reducible refine (foldl_twin _ ?_ _ _).trans ?_

theorem execCellTransmit_twin {s t : State} {x0 : Nat} {x1 : Nat} (h : execCellTransmit x0 x1 s = .next t) : t.net.2 = s.net.2 := by
  simp only [execCellTransmit, Host.Outcome.next.injEq] at h
  subst h
  repeat' first | with_reducible rfl | with_reducible assumption | intro _ | simp only [State.admitBlocked_net, State.dropRef_twin, State.endsLate_net, State.modPort_twin, State.modSched_net, State.sendData_twin, State.setWindow_net, net_mk, net_eta, net_twin, Iter.state_done, Iter.state_fmt, Iter.state_trap, Whole.state_ran, Whole.state_stopped, Whole.state_denied] | split | with_reducible refine (foldl_twin _ ?_ _ _).trans ?_

@[simp] theorem State.wipeCells_twin (s : State) : (State.wipeCells s).net.2 = s.net.2 := by
  unfold State.wipeCells
  repeat' first | with_reducible rfl | with_reducible assumption | intro _ | simp only [State.returnCredit_twin, net_mk, net_eta, net_twin, Iter.state_done, Iter.state_fmt, Iter.state_trap, Whole.state_ran, Whole.state_stopped, Whole.state_denied] | split | with_reducible refine (foldl_twin _ ?_ _ _).trans ?_ | with_reducible refine (foldlB_twin _ ?_ _ _).trans ?_ | with_reducible refine (foldl1_twin _ ?_ _ _).trans ?_ | with_reducible refine (foldl2_twin _ ?_ _ _).trans ?_

@[simp] theorem State.engineReset_twin (s : State) : (State.engineReset s).net.2 = s.net.2 := by
  unfold State.engineReset
  repeat' first | with_reducible rfl | with_reducible assumption | intro _ | simp only [State.clearCtrs_net, State.emptyStreams_net, State.endNow_net, State.wipeCells_twin, State.wr_net, net_mk, net_eta, net_twin, Iter.state_done, Iter.state_fmt, Iter.state_trap, Whole.state_ran, Whole.state_stopped, Whole.state_denied] | split | with_reducible refine (foldl_twin _ ?_ _ _).trans ?_ | with_reducible refine (foldlB_twin _ ?_ _ _).trans ?_ | with_reducible refine (foldl1_twin _ ?_ _ _).trans ?_ | with_reducible refine (foldl2_twin _ ?_ _ _).trans ?_

@[simp] theorem State.lapisWipe_twin (s : State) : (State.lapisWipe s).net.2 = s.net.2 := by
  unfold State.lapisWipe
  repeat' first | with_reducible rfl | with_reducible assumption | intro _ | simp only [State.emptyStreams_net, State.wipeCells_twin, State.wiped_net, net_mk, net_eta, net_twin, Iter.state_done, Iter.state_fmt, Iter.state_trap, Whole.state_ran, Whole.state_stopped, Whole.state_denied] | split | with_reducible refine (foldl_twin _ ?_ _ _).trans ?_

@[simp] theorem State.transition_twin (s : State) (rq : Req) (a b : Nat) (r : Record) : (s.transition rq a b r).net.2 = s.net.2 := by
  have hb := State.beforeBurn_net s a b r
  unfold State.transition
  split
  · rename_i t off h
    rw [h] at hb
    simp only [State.burnFail_net]
    dsimp only at hb
    rw [hb]
  · rename_i t h
    rw [h] at hb
    dsimp only at hb
    split
    · simp only [State.burnFail_net]
      show t.net.2 = s.net.2
      rw [hb]
    · simp only [State.raise_net, State.answer_net, State.lapisWipe_twin, State.afterBurn_net]
      show t.net.2 = s.net.2
      rw [hb]

@[simp] theorem State.maintain_twin (s : State) (rq : Req) (r : Record) : (s.maintain rq r).net.2 = s.net.2 := by
  unfold State.maintain
  repeat' first | with_reducible rfl | simp only [State.fail_net, State.burnFail_net, State.ok_net, State.lapisWipe_twin, net_mk, net_twin] | split
  all_goals
    rename_i h
    have e := congrArg (fun p => p.1.net.2) h
    simp only [State.burnConfig_net, net_mk] at e
    exact e.symm

@[simp] theorem State.signedRequest_twin (s : State) (x1 : _) (x2 : _) (x3 : _) (x4 : _) : (State.signedRequest s x1 x2 x3 x4).net.2 = s.net.2 := by
  unfold State.signedRequest
  repeat' first | with_reducible rfl | with_reducible assumption | intro _ | simp only [State.fail_net, State.maintain_twin, State.transition_twin, net_mk, net_eta, net_twin, Iter.state_done, Iter.state_fmt, Iter.state_trap, Whole.state_ran, Whole.state_stopped, Whole.state_denied] | split | with_reducible refine (foldl_twin _ ?_ _ _).trans ?_

theorem execLifecycle_twin {s t : State} {x0 : Sys2Proof.Req} {x1 : List Sys2Proof.Byte} {x2 : Sys2Proof.SigAnswer} (h : execLifecycle x0 x1 x2 s = .next t) : t.net.2 = s.net.2 := by
  simp only [execLifecycle, Host.Outcome.next.injEq] at h
  subst h
  repeat' first | with_reducible rfl | with_reducible assumption | intro _ | simp only [State.authFail_net, State.fail_net, State.signedRequest_twin, State.transition_twin, net_mk, net_eta, net_twin, Iter.state_done, Iter.state_fmt, Iter.state_trap, Whole.state_ran, Whole.state_stopped, Whole.state_denied] | split | with_reducible refine (foldl_twin _ ?_ _ _).trans ?_

@[simp] theorem State.refclkBack_twin (s : State) (x1 : _) : (State.refclkBack s x1).net.2 = s.net.2 := by
  unfold State.refclkBack
  repeat' first | with_reducible rfl | with_reducible assumption | intro _ | simp only [State.modPort_twin, State.retrain_twin, net_mk, net_eta, net_twin, Iter.state_done, Iter.state_fmt, Iter.state_trap, Whole.state_ran, Whole.state_stopped, Whole.state_denied] | split | with_reducible refine (foldl_twin _ ?_ _ _).trans ?_

theorem execLinkRefclkRestored_twin {s t : State} {x0 : Nat} (h : execLinkRefclkRestored x0 s = .next t) : t.net.2 = s.net.2 := by
  simp only [execLinkRefclkRestored, Host.Outcome.next.injEq] at h
  subst h
  repeat' first | with_reducible rfl | with_reducible assumption | intro _ | simp only [State.refclkBack_twin, net_mk, net_eta, net_twin, Iter.state_done, Iter.state_fmt, Iter.state_trap, Whole.state_ran, Whole.state_stopped, Whole.state_denied] | split | with_reducible refine (foldl_twin _ ?_ _ _).trans ?_ | with_reducible refine (foldlB_twin _ ?_ _ _).trans ?_ | with_reducible refine (foldl1_twin _ ?_ _ _).trans ?_ | with_reducible refine (foldl2_twin _ ?_ _ _).trans ?_

theorem State.lockOr_twin (s : State) (r : Reg) (a : Nat) (f : State → State) (h : ∀ t, (f t).net.2 = t.net.2) : (s.lockOr r a f).net.2 = s.net.2 := by
  unfold State.lockOr
  split
  · simp only [State.raise_net]
  · rw [h]; rfl

end Sys2Proof.Machine
end

