-- ==== Sys2Proof/Laws/Ram.lean ====
section
/-!
SUPPORT. Laws/Ram.lean: an addressed memory reads what was written, leaves every other byte alone, and keeps its canonical form.
-/
namespace Sys2Proof.Machine

open Sys2Proof

theorem Ram.wfAbove_mono {a b : Nat} (h : a ≤ b) (m : List Host.Cell) (w : Ram.wfAbove (some b) m = true) :
    Ram.wfAbove (some a) m = true := by
  cases m with
  | nil => rfl
  | cons e t =>
    obtain ⟨c, v⟩ := e
    simp only [Ram.wfAbove, Bool.and_eq_true, decide_eq_true_eq] at w ⊢
    exact ⟨⟨by omega, w.1.2⟩, w.2⟩

theorem Ram.wf_of_above {b : Nat} {m : List Host.Cell} (w : Ram.wfAbove (some b) m = true) : Ram.wf m = true := by
  cases m with
  | nil => rfl
  | cons e t =>
    obtain ⟨c, v⟩ := e
    simp only [Ram.wf, Ram.wfAbove, Bool.and_eq_true] at w ⊢
    exact ⟨⟨trivial, w.1.2⟩, w.2⟩

/-- Every address listed above a bound lies above it, so one at or below it reads 0. -/
theorem Ram.read_above {b a : Nat} {m : List Host.Cell} (w : Ram.wfAbove (some b) m = true) (h : a ≤ b) : Ram.read a m = 0 := by
  cases m with
  | nil => rfl
  | cons e t =>
    obtain ⟨c, v⟩ := e
    simp only [Ram.wfAbove, Bool.and_eq_true, decide_eq_true_eq] at w
    have h1 : c ≠ a := by omega
    have h2 : a < c := by omega
    simp [Ram.read, h1, h2]

theorem Ram.write_wfAbove (lo : Option Nat) (a : Nat) (v : Byte) (m : List Host.Cell) (h : ∀ b, lo = some b → b < a)
    (w : Ram.wfAbove lo m = true) : Ram.wfAbove lo (Ram.write a v m) = true := by
  induction m generalizing lo with
  | nil =>
    unfold Ram.write
    split
    · rfl
    · cases lo with
      | none => simp_all [Ram.wfAbove]
      | some b => simp_all [Ram.wfAbove]
  | cons e t ih =>
    obtain ⟨c, x⟩ := e
    have w' := w
    simp only [Ram.wfAbove, Bool.and_eq_true, decide_eq_true_eq] at w'
    unfold Ram.write
    split
    · rename_i hac
      split
      · exact w
      · rename_i hv
        simp only [Ram.wfAbove, Bool.and_eq_true, decide_eq_true_eq]
        refine ⟨⟨?_, hv⟩, ⟨hac, w'.1.2⟩, w'.2⟩
        cases lo with
        | none => rfl
        | some b => simpa using h b rfl
    · split
      · rename_i hac
        subst hac
        split
        · cases lo with
          | none => exact Ram.wf_of_above w'.2
          | some b => exact Ram.wfAbove_mono (Nat.le_of_lt (h b rfl)) _ w'.2
        · rename_i hv
          simp only [Ram.wfAbove, Bool.and_eq_true, decide_eq_true_eq]
          exact ⟨⟨w'.1.1, hv⟩, w'.2⟩
      · rename_i h1 h2
        simp only [Ram.wfAbove, Bool.and_eq_true, decide_eq_true_eq]
        refine ⟨w'.1, ih (some c) ?_ w'.2⟩
        intro b e
        cases e
        omega

theorem Ram.write_wf (a : Nat) (v : Byte) (m : List Host.Cell) (w : Ram.wf m = true) : Ram.wf (Ram.write a v m) = true :=
  Ram.write_wfAbove none a v m (by simp) w

theorem Ram.writeN_wf (a : Nat) (l : List Byte) (m : List Host.Cell) (w : Ram.wf m = true) : Ram.wf (Ram.writeN a l m) = true := by
  induction l generalizing a m with
  | nil => exact w
  | cons v t ih => exact ih _ _ (Ram.write_wf _ _ _ w)

theorem Ram.filter_wfAbove (p : Host.Cell → Bool) (lo : Option Nat) (m : List Host.Cell) (w : Ram.wfAbove lo m = true) :
    Ram.wfAbove lo (m.filter p) = true := by
  induction m generalizing lo with
  | nil => exact w
  | cons e t ih =>
    obtain ⟨c, x⟩ := e
    have w' := w
    simp only [Ram.wfAbove, Bool.and_eq_true, decide_eq_true_eq] at w'
    rw [List.filter_cons]
    split
    · simp only [Ram.wfAbove, Bool.and_eq_true, decide_eq_true_eq]
      exact ⟨w'.1, ih _ w'.2⟩
    · refine ih _ ?_
      cases lo with
      | none => exact Ram.wf_of_above w'.2
      | some b => exact Ram.wfAbove_mono (by simpa using Nat.le_of_lt (by simpa using w'.1.1)) _ w'.2

theorem Ram.clear_wf (lo hi : Nat) (m : List Host.Cell) (w : Ram.wf m = true) : Ram.wf (Ram.clear lo hi m) = true :=
  Ram.filter_wfAbove _ none m w

/-- A byte reads as it was written. -/
theorem Ram.read_write_self (a : Nat) (v : Byte) (m : List Host.Cell) (w : Ram.wf m = true) : Ram.read a (Ram.write a v m) = v := by
  have key : ∀ lo, Ram.wfAbove lo m = true → Ram.read a (Ram.write a v m) = v := by
    clear w
    induction m with
    | nil =>
      intro lo _
      unfold Ram.write
      split
      · simp_all [Ram.read]
      · simp [Ram.read]
    | cons e t ih =>
      obtain ⟨c, x⟩ := e
      intro lo w
      simp only [Ram.wfAbove, Bool.and_eq_true, decide_eq_true_eq] at w
      unfold Ram.write
      split
      · rename_i h
        split
        · rename_i hv
          have h1 : c ≠ a := by omega
          simp [Ram.read, h1, h, hv]
        · simp [Ram.read]
      · split
        · rename_i h
          subst h
          split
          · rename_i hv
            rw [hv]
            exact Ram.read_above w.2 (Nat.le_refl _)
          · simp [Ram.read]
        · rename_i h1 h2
          have h3 : c ≠ a := fun e => h2 e.symm
          simp only [Ram.read, h3, h1, ↓reduceIte]
          exact ih _ w.2
  exact key none w

/-- Every other byte reads as before. -/
theorem Ram.read_write_ne {a b : Nat} (h : b ≠ a) (v : Byte) (m : List Host.Cell) (w : Ram.wf m = true) :
    Ram.read b (Ram.write a v m) = Ram.read b m := by
  have key : ∀ lo, Ram.wfAbove lo m = true → Ram.read b (Ram.write a v m) = Ram.read b m := by
    clear w
    induction m with
    | nil =>
      intro lo _
      unfold Ram.write
      split
      · rfl
      · simp [Ram.read, h.symm]
    | cons e t ih =>
      obtain ⟨c, x⟩ := e
      intro lo w
      simp only [Ram.wfAbove, Bool.and_eq_true, decide_eq_true_eq] at w
      unfold Ram.write
      split
      · rename_i hac
        split
        · rfl
        · by_cases hb : b < a
          · have h1 : c ≠ b := by omega
            have h2 : b < c := by omega
            simp [Ram.read, h.symm, hb, h1, h2]
          · simp [Ram.read, h.symm, hb]
      · split
        · rename_i h1
          subst h1
          split
          · by_cases hb : b < a
            · simp [Ram.read, h.symm, hb, Ram.read_above w.2 (Nat.le_of_lt hb)]
            · simp [Ram.read, h.symm, hb]
          · simp [Ram.read, h.symm]
        · by_cases hb : c = b
          · simp [Ram.read, hb]
          · by_cases hl : b < c
            · simp [Ram.read, hb, hl]
            · simp only [Ram.read, hb, hl, ↓reduceIte]
              exact ih _ w.2
  exact key none w

theorem Memory.wf_parts {m : Mem} : Memory.wf m = true ↔ Ram.wf m.ram = true ∧ Ram.wf m.work = true ∧ Ram.wf m.cells = true := by
  simp only [Memory.wf, Bool.and_eq_true, and_assoc]

theorem Mem.write_wf (m : Mem) (a : Nat) (l : List Byte) (h : Memory.wf m = true) : Memory.wf (m.write a l) = true := by
  rw [Memory.wf_parts] at h ⊢
  refine ⟨?_, h.2⟩
  show Ram.wf (List.foldl _ m.ram l.zipIdx) = true
  have key : ∀ (es : List (Byte × Nat)) (r : List Host.Cell), Ram.wf r = true →
      Ram.wf (es.foldl (fun r e => Ram.write (m.phys (a + e.2)) e.1 r) r) = true := by
    intro es
    induction es with
    | nil => exact fun _ w => w
    | cons e t ih => exact fun r w => ih _ (Ram.write_wf _ _ _ w)
  exact key _ _ h.1

theorem Mem.clear_wf (m : Mem) (lo hi : Nat) (h : Memory.wf m = true) : Memory.wf (m.clear lo hi) = true := by
  rw [Memory.wf_parts] at h ⊢
  refine ⟨?_, h.2⟩
  show Ram.wf (List.foldl _ (Ram.clear lo hi m.ram) m.remap) = true
  have key : ∀ (es : List (Nat × Nat)) (r : List Host.Cell), Ram.wf r = true →
      Ram.wf (es.foldl (fun r e => if lo ≤ e.1 * granuleBytes ∧ e.1 * granuleBytes < hi then
        Ram.clear (e.2 * granuleBytes) ((e.2 + 1) * granuleBytes) r else r) r) = true := by
    intro es
    induction es with
    | nil => exact fun _ w => w
    | cons e t ih =>
      intro r w
      refine ih _ ?_
      dsimp only
      split
      · exact Ram.clear_wf _ _ _ w
      · exact w
  exact key _ _ (Ram.clear_wf _ _ _ h.1)

end Sys2Proof.Machine
end

