-- ==== Sys2Proof/Laws/FrameMemory.lean ====
section
/-!
SUPPORT. Laws/FrameMemory.lean: what leaves every byte of the three memories alone, and that what writes them keeps their canonical form.
-/
set_option linter.unusedSimpArgs false

namespace Sys2Proof.Machine

open Sys2Proof

/-- The bytes of module memory, working memory and cell memory. -/
def State.bytes (s : State) : List Host.Cell × List Host.Cell × List Host.Cell := (s.mem.ram, s.mem.work, s.mem.cells)

@[simp] theorem bytes_eta (s : State) : (s.mem.ram, s.mem.work, s.mem.cells) = s.bytes := (rfl)

@[simp] theorem bytes_mk (a b c d e f g h i j k l m n o p q r t u v w) :
    (State.mk a b c d e f g h i j k l m n o p q r t u v w).bytes = (u.ram, u.work, u.cells) := (rfl)

theorem foldl_bytes {α : Type} (f : State → α → State) (h : ∀ t a, (f t a).bytes = t.bytes) (l : List α) (b : State) :
    (l.foldl f b).bytes = b.bytes := by
  induction l generalizing b with
  | nil => rfl
  | cons a l ih => rw [List.foldl_cons, ih, h]

theorem foldlB_bytes {α : Type} (f : Body → α → Body) (h : ∀ t a, (f t a).s.bytes = t.s.bytes) (l : List α) (b : Body) :
    (l.foldl f b).s.bytes = b.s.bytes := by
  induction l generalizing b with
  | nil => rfl
  | cons a l ih => rw [List.foldl_cons, ih, h]

theorem foldl1_bytes {α β : Type} (f : State × β → α → State × β) (h : ∀ t a, (f t a).1.bytes = t.1.bytes) (l : List α) (b : State × β) :
    (l.foldl f b).1.bytes = b.1.bytes := by
  induction l generalizing b with
  | nil => rfl
  | cons a l ih => rw [List.foldl_cons, ih, h]

theorem foldl2_bytes {α β : Type} (f : β × State → α → β × State) (h : ∀ t a, (f t a).2.bytes = t.2.bytes) (l : List α) (b : β × State) :
    (l.foldl f b).2.bytes = b.2.bytes := by
  induction l generalizing b with
  | nil => rfl
  | cons a l ih => rw [List.foldl_cons, ih, h]

@[simp] theorem State.wr_bytes (s : State) (x1 : _) (x2 : _) : (State.wr s x1 x2).bytes = s.bytes := by
  unfold State.wr
  repeat' first | with_reducible rfl | with_reducible assumption | intro _ | simp only [bytes_mk, bytes_eta, Iter.state_done, Iter.state_fmt, Iter.state_trap, Whole.state_ran, Whole.state_stopped, Whole.state_denied] | split | with_reducible refine (foldl_bytes _ ?_ _ _).trans ?_

@[simp] theorem State.tick_bytes (s : State) : (State.tick s).bytes = s.bytes := by
  unfold State.tick
  repeat' first | with_reducible rfl | with_reducible assumption | intro _ | simp only [bytes_mk, bytes_eta, Iter.state_done, Iter.state_fmt, Iter.state_trap, Whole.state_ran, Whole.state_stopped, Whole.state_denied] | split | with_reducible refine (foldl_bytes _ ?_ _ _).trans ?_

@[simp] theorem State.emit_bytes (s : State) (x1 : _) : (State.emit s x1).bytes = s.bytes := by
  unfold State.emit
  repeat' first | with_reducible rfl | with_reducible assumption | intro _ | simp only [bytes_mk, bytes_eta, Iter.state_done, Iter.state_fmt, Iter.state_trap, Whole.state_ran, Whole.state_stopped, Whole.state_denied] | split | with_reducible refine (foldl_bytes _ ?_ _ _).trans ?_

@[simp] theorem State.draw_bytes (s : State) : (State.draw s).2.bytes = s.bytes := by
  unfold State.draw
  repeat' first | with_reducible rfl | with_reducible assumption | intro _ | simp only [bytes_mk, bytes_eta, Iter.state_done, Iter.state_fmt, Iter.state_trap, Whole.state_ran, Whole.state_stopped, Whole.state_denied] | split | with_reducible refine (foldl_bytes _ ?_ _ _).trans ?_

@[simp] theorem State.setCtr_bytes (s : State) (x1 : _) (x2 : _) : (State.setCtr s x1 x2).bytes = s.bytes := by
  unfold State.setCtr
  repeat' first | with_reducible rfl | with_reducible assumption | intro _ | simp only [bytes_mk, bytes_eta, Iter.state_done, Iter.state_fmt, Iter.state_trap, Whole.state_ran, Whole.state_stopped, Whole.state_denied] | split | with_reducible refine (foldl_bytes _ ?_ _ _).trans ?_

@[simp] theorem State.count_bytes (s : State) (x1 : _) (x2 : _) : (State.count s x1 x2).bytes = s.bytes := by
  unfold State.count
  repeat' first | with_reducible rfl | with_reducible assumption | intro _ | simp only [State.setCtr_bytes, bytes_mk, bytes_eta, Iter.state_done, Iter.state_fmt, Iter.state_trap, Whole.state_ran, Whole.state_stopped, Whole.state_denied] | split | with_reducible refine (foldl_bytes _ ?_ _ _).trans ?_

@[simp] theorem State.clearCtr_bytes (s : State) (x1 : _) : (State.clearCtr s x1).bytes = s.bytes := by
  unfold State.clearCtr
  repeat' first | with_reducible rfl | with_reducible assumption | intro _ | simp only [State.setCtr_bytes, bytes_mk, bytes_eta, Iter.state_done, Iter.state_fmt, Iter.state_trap, Whole.state_ran, Whole.state_stopped, Whole.state_denied] | split | with_reducible refine (foldl_bytes _ ?_ _ _).trans ?_

@[simp] theorem State.clearCtrs_bytes (s : State) (x1 : _) : (State.clearCtrs s x1).bytes = s.bytes := by
  unfold State.clearCtrs
  repeat' first | with_reducible rfl | with_reducible assumption | intro _ | simp only [bytes_mk, bytes_eta, Iter.state_done, Iter.state_fmt, Iter.state_trap, Whole.state_ran, Whole.state_stopped, Whole.state_denied] | split | with_reducible refine (foldl_bytes _ ?_ _ _).trans ?_

@[simp] theorem State.push_bytes (s : State) (x1 : _) (x2 : _) (x3 : _) (x4 : _) (x5 : _) : (State.push s x1 x2 x3 x4 x5).bytes = s.bytes := by
  unfold State.push
  repeat' first | with_reducible rfl | with_reducible assumption | intro _ | simp only [bytes_mk, bytes_eta, Iter.state_done, Iter.state_fmt, Iter.state_trap, Whole.state_ran, Whole.state_stopped, Whole.state_denied] | split | with_reducible refine (foldl_bytes _ ?_ _ _).trans ?_

@[simp] theorem State.dropLost_bytes (s : State) : (State.dropLost s).bytes = s.bytes := by
  unfold State.dropLost
  repeat' first | with_reducible rfl | with_reducible assumption | intro _ | simp only [State.count_bytes, bytes_mk, bytes_eta, Iter.state_done, Iter.state_fmt, Iter.state_trap, Whole.state_ran, Whole.state_stopped, Whole.state_denied] | split | with_reducible refine (foldl_bytes _ ?_ _ _).trans ?_

@[simp] theorem State.pushSat_bytes (s : State) (x1 : _) : (State.pushSat s x1).bytes = s.bytes := by
  unfold State.pushSat
  repeat' first | with_reducible rfl | with_reducible assumption | intro _ | simp only [State.push_bytes, bytes_mk, bytes_eta, Iter.state_done, Iter.state_fmt, Iter.state_trap, Whole.state_ran, Whole.state_stopped, Whole.state_denied] | split | with_reducible refine (foldl_bytes _ ?_ _ _).trans ?_

@[simp] theorem State.bump_bytes (s : State) (x1 : _) (x2 : _) : (State.bump s x1 x2).bytes = s.bytes := by
  unfold State.bump
  repeat' first | with_reducible rfl | with_reducible assumption | intro _ | simp only [State.count_bytes, State.dropLost_bytes, State.pushSat_bytes, bytes_mk, bytes_eta, Iter.state_done, Iter.state_fmt, Iter.state_trap, Whole.state_ran, Whole.state_stopped, Whole.state_denied] | split | with_reducible refine (foldl_bytes _ ?_ _ _).trans ?_

@[simp] theorem State.raise_bytes (s : State) (x1 : _) (x2 : _) (x3 : _) : (State.raise s x1 x2 x3).bytes = s.bytes := by
  unfold State.raise
  repeat' first | with_reducible rfl | with_reducible assumption | intro _ | simp only [State.dropLost_bytes, State.push_bytes, State.pushSat_bytes, bytes_mk, bytes_eta, Iter.state_done, Iter.state_fmt, Iter.state_trap, Whole.state_ran, Whole.state_stopped, Whole.state_denied] | split | with_reducible refine (foldl_bytes _ ?_ _ _).trans ?_

@[simp] theorem State.setPort_bytes (s : State) (x1 : _) (x2 : _) : (State.setPort s x1 x2).bytes = s.bytes := by
  unfold State.setPort
  repeat' first | with_reducible rfl | with_reducible assumption | intro _ | simp only [bytes_mk, bytes_eta, Iter.state_done, Iter.state_fmt, Iter.state_trap, Whole.state_ran, Whole.state_stopped, Whole.state_denied] | split | with_reducible refine (foldl_bytes _ ?_ _ _).trans ?_

@[simp] theorem State.modPort_bytes (s : State) (x1 : _) (x2 : _) : (State.modPort s x1 x2).bytes = s.bytes := by
  unfold State.modPort
  repeat' first | with_reducible rfl | with_reducible assumption | intro _ | simp only [State.setPort_bytes, bytes_mk, bytes_eta, Iter.state_done, Iter.state_fmt, Iter.state_trap, Whole.state_ran, Whole.state_stopped, Whole.state_denied] | split | with_reducible refine (foldl_bytes _ ?_ _ _).trans ?_

@[simp] theorem State.modSched_bytes (s : State) (x1 : _) (x2 : _) : (State.modSched s x1 x2).bytes = s.bytes := by
  unfold State.modSched
  repeat' first | with_reducible rfl | with_reducible assumption | intro _ | simp only [bytes_mk, bytes_eta, Iter.state_done, Iter.state_fmt, Iter.state_trap, Whole.state_ran, Whole.state_stopped, Whole.state_denied] | split | with_reducible refine (foldl_bytes _ ?_ _ _).trans ?_

@[simp] theorem State.modParty_bytes (s : State) (x1 : _) (x2 : _) : (State.modParty s x1 x2).bytes = s.bytes := by
  unfold State.modParty
  repeat' first | with_reducible rfl | with_reducible assumption | intro _ | simp only [bytes_mk, bytes_eta, Iter.state_done, Iter.state_fmt, Iter.state_trap, Whole.state_ran, Whole.state_stopped, Whole.state_denied] | split | with_reducible refine (foldl_bytes _ ?_ _ _).trans ?_

@[simp] theorem State.setSlot_bytes (s : State) (x1 : _) (x2 : _) : (State.setSlot s x1 x2).bytes = s.bytes := by
  unfold State.setSlot
  repeat' first | with_reducible rfl | with_reducible assumption | intro _ | simp only [bytes_mk, bytes_eta, Iter.state_done, Iter.state_fmt, Iter.state_trap, Whole.state_ran, Whole.state_stopped, Whole.state_denied] | split | with_reducible refine (foldl_bytes _ ?_ _ _).trans ?_

@[simp] theorem State.modSlot_bytes (s : State) (x1 : _) (x2 : _) : (State.modSlot s x1 x2).bytes = s.bytes := by
  unfold State.modSlot
  repeat' first | with_reducible rfl | with_reducible assumption | intro _ | simp only [State.setSlot_bytes, bytes_mk, bytes_eta, Iter.state_done, Iter.state_fmt, Iter.state_trap, Whole.state_ran, Whole.state_stopped, Whole.state_denied] | split | with_reducible refine (foldl_bytes _ ?_ _ _).trans ?_

@[simp] theorem State.rebuildRoutes_bytes (s : State) : (State.rebuildRoutes s).bytes = s.bytes := by
  unfold State.rebuildRoutes
  repeat' first | with_reducible rfl | with_reducible assumption | intro _ | simp only [State.raise_bytes, bytes_mk, bytes_eta, Iter.state_done, Iter.state_fmt, Iter.state_trap, Whole.state_ran, Whole.state_stopped, Whole.state_denied] | split | with_reducible refine (foldl_bytes _ ?_ _ _).trans ?_

@[simp] theorem State.rebuildGroups_bytes (s : State) : (State.rebuildGroups s).bytes = s.bytes := by
  unfold State.rebuildGroups
  repeat' first | with_reducible rfl | with_reducible assumption | intro _ | simp only [bytes_mk, bytes_eta, Iter.state_done, Iter.state_fmt, Iter.state_trap, Whole.state_ran, Whole.state_stopped, Whole.state_denied] | split | with_reducible refine (foldl_bytes _ ?_ _ _).trans ?_

@[simp] theorem State.bookRead_bytes (s : State) (x1 : _) (x2 : _) : (State.bookRead s x1 x2).2.bytes = s.bytes := by
  unfold State.bookRead
  repeat' first | with_reducible rfl | with_reducible assumption | intro _ | simp only [bytes_mk, bytes_eta, Iter.state_done, Iter.state_fmt, Iter.state_trap, Whole.state_ran, Whole.state_stopped, Whole.state_denied] | split | with_reducible refine (foldl_bytes _ ?_ _ _).trans ?_

@[simp] theorem State.setQueue_bytes (s : State) (x1 : _) (x2 : _) : (State.setQueue s x1 x2).bytes = s.bytes := by
  unfold State.setQueue
  repeat' first | with_reducible rfl | with_reducible assumption | intro _ | simp only [bytes_mk, bytes_eta, Iter.state_done, Iter.state_fmt, Iter.state_trap, Whole.state_ran, Whole.state_stopped, Whole.state_denied] | split | with_reducible refine (foldl_bytes _ ?_ _ _).trans ?_

@[simp] theorem State.setWindow_bytes (s : State) (x1 : _) (x2 : _) : (State.setWindow s x1 x2).bytes = s.bytes := by
  unfold State.setWindow
  repeat' first | with_reducible rfl | with_reducible assumption | intro _ | simp only [bytes_mk, bytes_eta, Iter.state_done, Iter.state_fmt, Iter.state_trap, Whole.state_ran, Whole.state_stopped, Whole.state_denied] | split | with_reducible refine (foldl_bytes _ ?_ _ _).trans ?_

@[simp] theorem State.modCellSlot_bytes (s : State) (x1 : _) (x2 : _) : (State.modCellSlot s x1 x2).bytes = s.bytes := by
  unfold State.modCellSlot
  repeat' first | with_reducible rfl | with_reducible assumption | intro _ | simp only [bytes_mk, bytes_eta, Iter.state_done, Iter.state_fmt, Iter.state_trap, Whole.state_ran, Whole.state_stopped, Whole.state_denied] | split | with_reducible refine (foldl_bytes _ ?_ _ _).trans ?_

@[simp] theorem State.tookCopy_bytes (s : State) (x1 : _) (x2 : _) : (State.tookCopy s x1 x2).bytes = s.bytes := by
  unfold State.tookCopy
  repeat' first | with_reducible rfl | with_reducible assumption | intro _ | simp only [State.modCellSlot_bytes, bytes_mk, bytes_eta, Iter.state_done, Iter.state_fmt, Iter.state_trap, Whole.state_ran, Whole.state_stopped, Whole.state_denied] | split | with_reducible refine (foldl_bytes _ ?_ _ _).trans ?_

@[simp] theorem State.select_bytes (s : State) (x1 : _) (x2 : _) (x3 : _) (x4 : _) : (State.select s x1 x2 x3 x4).bytes = s.bytes := by
  unfold State.select
  repeat' first | with_reducible rfl | with_reducible assumption | intro _ | simp only [State.bookRead_bytes, State.setWindow_bytes, bytes_mk, bytes_eta, Iter.state_done, Iter.state_fmt, Iter.state_trap, Whole.state_ran, Whole.state_stopped, Whole.state_denied] | split | with_reducible refine (foldl_bytes _ ?_ _ _).trans ?_

@[simp] theorem State.fillWindow_bytes (s : State) (x1 : _) : (State.fillWindow s x1).bytes = s.bytes := by
  unfold State.fillWindow
  repeat' first | with_reducible rfl | with_reducible assumption | intro _ | simp only [State.select_bytes, State.tookCopy_bytes, bytes_mk, bytes_eta, Iter.state_done, Iter.state_fmt, Iter.state_trap, Whole.state_ran, Whole.state_stopped, Whole.state_denied] | split | with_reducible refine (foldl_bytes _ ?_ _ _).trans ?_ | with_reducible refine (foldlB_bytes _ ?_ _ _).trans ?_ | with_reducible refine (foldl1_bytes _ ?_ _ _).trans ?_ | with_reducible refine (foldl2_bytes _ ?_ _ _).trans ?_

@[simp] theorem State.enqueue_bytes (s : State) (x1 : _) (x2 : _) : (State.enqueue s x1 x2).bytes = s.bytes := by
  unfold State.enqueue
  repeat' first | with_reducible rfl | with_reducible assumption | intro _ | simp only [State.fillWindow_bytes, State.modSched_bytes, State.setQueue_bytes, bytes_mk, bytes_eta, Iter.state_done, Iter.state_fmt, Iter.state_trap, Whole.state_ran, Whole.state_stopped, Whole.state_denied] | split | with_reducible refine (foldl_bytes _ ?_ _ _).trans ?_

@[simp] theorem State.returnCredit_bytes (s : State) (x1 : _) (x2 : _) : (State.returnCredit s x1 x2).bytes = s.bytes := by
  unfold State.returnCredit
  repeat' first | with_reducible rfl | with_reducible assumption | intro _ | simp only [State.modPort_bytes, bytes_mk, bytes_eta, Iter.state_done, Iter.state_fmt, Iter.state_trap, Whole.state_ran, Whole.state_stopped, Whole.state_denied] | split | with_reducible refine (foldl_bytes _ ?_ _ _).trans ?_

@[simp] theorem State.freeIfDone_bytes (s : State) (x1 : _) : (State.freeIfDone s x1).bytes = s.bytes := by
  unfold State.freeIfDone
  repeat' first | with_reducible rfl | with_reducible assumption | intro _ | simp only [bytes_mk, bytes_eta, Iter.state_done, Iter.state_fmt, Iter.state_trap, Whole.state_ran, Whole.state_stopped, Whole.state_denied] | split | with_reducible refine (foldl_bytes _ ?_ _ _).trans ?_

@[simp] theorem State.dropRef_bytes (s : State) (x1 : _) : (State.dropRef s x1).bytes = s.bytes := by
  unfold State.dropRef
  repeat' first | with_reducible rfl | with_reducible assumption | intro _ | simp only [State.freeIfDone_bytes, State.modCellSlot_bytes, State.returnCredit_bytes, bytes_mk, bytes_eta, Iter.state_done, Iter.state_fmt, Iter.state_trap, Whole.state_ran, Whole.state_stopped, Whole.state_denied] | split | with_reducible refine (foldl_bytes _ ?_ _ _).trans ?_

@[simp] theorem State.dropRetention_bytes (s : State) (x1 : _) : (State.dropRetention s x1).bytes = s.bytes := by
  unfold State.dropRetention
  repeat' first | with_reducible rfl | with_reducible assumption | intro _ | simp only [State.freeIfDone_bytes, State.modCellSlot_bytes, bytes_mk, bytes_eta, Iter.state_done, Iter.state_fmt, Iter.state_trap, Whole.state_ran, Whole.state_stopped, Whole.state_denied] | split | with_reducible refine (foldl_bytes _ ?_ _ _).trans ?_

@[simp] theorem State.spillOne_bytes (s : State) (x1 : _) : (State.spillOne s x1).bytes = s.bytes := by
  unfold State.spillOne
  repeat' first | with_reducible rfl | with_reducible assumption | intro _ | simp only [State.bump_bytes, bytes_mk, bytes_eta, Iter.state_done, Iter.state_fmt, Iter.state_trap, Whole.state_ran, Whole.state_stopped, Whole.state_denied] | split | with_reducible refine (foldl_bytes _ ?_ _ _).trans ?_

@[simp] theorem State.spillAll_bytes (s : State) (x0 : _) : (State.spillAll x0 s).bytes = s.bytes := by
  induction x0 generalizing s with
  | zero => unfold State.spillAll; repeat' first | with_reducible rfl | with_reducible assumption | intro _ | simp only [State.spillOne_bytes, bytes_mk, bytes_eta, Iter.state_done, Iter.state_fmt, Iter.state_trap, Whole.state_ran, Whole.state_stopped, Whole.state_denied] | split | with_reducible refine (foldl_bytes _ ?_ _ _).trans ?_
  | succ n ih =>
    unfold State.spillAll
    repeat' first | with_reducible rfl | with_reducible assumption | intro _ | simp only [ih, State.spillOne_bytes, bytes_mk, bytes_eta, Iter.state_done, Iter.state_fmt, Iter.state_trap, Whole.state_ran, Whole.state_stopped, Whole.state_denied] | split | with_reducible refine (foldl_bytes _ ?_ _ _).trans ?_

@[simp] theorem State.spill_bytes (s : State) : (State.spill s).bytes = s.bytes := by
  unfold State.spill
  repeat' first | with_reducible rfl | with_reducible assumption | intro _ | simp only [State.spillAll_bytes, bytes_mk, bytes_eta, Iter.state_done, Iter.state_fmt, Iter.state_trap, Whole.state_ran, Whole.state_stopped, Whole.state_denied] | split | with_reducible refine (foldl_bytes _ ?_ _ _).trans ?_

@[simp] theorem State.countEgress_bytes (s : State) (x1 : _) (x2 : _) (x3 : _) : (State.countEgress s x1 x2 x3).bytes = s.bytes := by
  unfold State.countEgress
  repeat' first | with_reducible rfl | with_reducible assumption | intro _ | simp only [State.bump_bytes, bytes_mk, bytes_eta, Iter.state_done, Iter.state_fmt, Iter.state_trap, Whole.state_ran, Whole.state_stopped, Whole.state_denied] | split | with_reducible refine (foldl_bytes _ ?_ _ _).trans ?_

@[simp] theorem State.store_bytes (s : State) (x1 : _) (x2 : _) (x3 : _) (x4 : _) (x5 : _) (x6 : _) (x7 : _) : (State.store s x1 x2 x3 x4 x5 x6 x7).2.bytes = s.bytes := by
  unfold State.store
  repeat' first | with_reducible rfl | with_reducible assumption | intro _ | simp only [State.enqueue_bytes, bytes_mk, bytes_eta, Iter.state_done, Iter.state_fmt, Iter.state_trap, Whole.state_ran, Whole.state_stopped, Whole.state_denied] | split | with_reducible refine (foldl_bytes _ ?_ _ _).trans ?_ | with_reducible refine (foldlB_bytes _ ?_ _ _).trans ?_ | with_reducible refine (foldl1_bytes _ ?_ _ _).trans ?_ | with_reducible refine (foldl2_bytes _ ?_ _ _).trans ?_

@[simp] theorem State.countWay_bytes (s : State) (x1 : _) (x2 : _) (x3 : _) : (State.countWay s x1 x2 x3).bytes = s.bytes := by
  unfold State.countWay
  repeat' first | with_reducible rfl | with_reducible assumption | intro _ | simp only [State.bump_bytes, State.countEgress_bytes, bytes_mk, bytes_eta, Iter.state_done, Iter.state_fmt, Iter.state_trap, Whole.state_ran, Whole.state_stopped, Whole.state_denied] | split | with_reducible refine (foldl_bytes _ ?_ _ _).trans ?_

@[simp] theorem State.block_bytes (s : State) (x1 : _) (x2 : _) : (State.block s x1 x2).bytes = s.bytes := by
  unfold State.block
  repeat' first | with_reducible rfl | with_reducible assumption | intro _ | simp only [bytes_mk, bytes_eta, Iter.state_done, Iter.state_fmt, Iter.state_trap, Whole.state_ran, Whole.state_stopped, Whole.state_denied] | split | with_reducible refine (foldl_bytes _ ?_ _ _).trans ?_

@[simp] theorem State.storeOutput_bytes (s : State) (x1 : _) (x2 : _) (x3 : _) (x4 : _) (x5 : _) : (State.storeOutput s x1 x2 x3 x4 x5).2.bytes = s.bytes := by
  unfold State.storeOutput
  repeat' first | with_reducible rfl | with_reducible assumption | intro _ | simp only [State.block_bytes, State.bump_bytes, State.store_bytes, bytes_mk, bytes_eta, Iter.state_done, Iter.state_fmt, Iter.state_trap, Whole.state_ran, Whole.state_stopped, Whole.state_denied] | split | with_reducible refine (foldl_bytes _ ?_ _ _).trans ?_

@[simp] theorem State.output_bytes (s : State) (x1 : _) (x2 : _) : (State.output s x1 x2).2.bytes = s.bytes := by
  unfold State.output
  repeat' first | with_reducible rfl | with_reducible assumption | intro _ | simp only [State.block_bytes, State.bump_bytes, State.countWay_bytes, State.storeOutput_bytes, bytes_mk, bytes_eta, Iter.state_done, Iter.state_fmt, Iter.state_trap, Whole.state_ran, Whole.state_stopped, Whole.state_denied] | split | with_reducible refine (foldl_bytes _ ?_ _ _).trans ?_

@[simp] theorem State.sendCtrl_bytes (s : State) (x1 : _) (x2 : _) (x3 : _) (x4 : _) (x5 : _) : (State.sendCtrl s x1 x2 x3 x4 x5).bytes = s.bytes := by
  unfold State.sendCtrl
  repeat' first | with_reducible rfl | with_reducible assumption | intro _ | simp only [State.output_bytes, State.spill_bytes, bytes_mk, bytes_eta, Iter.state_done, Iter.state_fmt, Iter.state_trap, Whole.state_ran, Whole.state_stopped, Whole.state_denied] | split | with_reducible refine (foldl_bytes _ ?_ _ _).trans ?_

@[simp] theorem State.sendOnPort_bytes (s : State) (x1 : _) (x2 : _) (x3 : _) : (State.sendOnPort s x1 x2 x3).bytes = s.bytes := by
  unfold State.sendOnPort
  repeat' first | with_reducible rfl | with_reducible assumption | intro _ | simp only [State.block_bytes, State.spill_bytes, State.storeOutput_bytes, bytes_mk, bytes_eta, Iter.state_done, Iter.state_fmt, Iter.state_trap, Whole.state_ran, Whole.state_stopped, Whole.state_denied] | split | with_reducible refine (foldl_bytes _ ?_ _ _).trans ?_

@[simp] theorem State.relayCell_bytes (s : State) (x1 : _) (x2 : _) : (State.relayCell s x1 x2).bytes = s.bytes := by
  unfold State.relayCell
  repeat' first | with_reducible rfl | with_reducible assumption | intro _ | simp only [State.block_bytes, State.countWay_bytes, State.enqueue_bytes, State.modCellSlot_bytes, State.output_bytes, State.spill_bytes, State.storeOutput_bytes, bytes_mk, bytes_eta, Iter.state_done, Iter.state_fmt, Iter.state_trap, Whole.state_ran, Whole.state_stopped, Whole.state_denied] | split | with_reducible refine (foldl_bytes _ ?_ _ _).trans ?_ | with_reducible refine (foldlB_bytes _ ?_ _ _).trans ?_ | with_reducible refine (foldl1_bytes _ ?_ _ _).trans ?_ | with_reducible refine (foldl2_bytes _ ?_ _ _).trans ?_

@[simp] theorem State.relayMessage_bytes (s : State) (x1 : _) (x2 : _) (x3 : _) (x4 : _) (x5 : _) (x6 : _) (x7 : _) : (State.relayMessage s x1 x2 x3 x4 x5 x6 x7).bytes = s.bytes := by
  unfold State.relayMessage
  repeat' first | with_reducible rfl | with_reducible assumption | intro _ | simp only [State.relayCell_bytes, State.setSlot_bytes, bytes_mk, bytes_eta, Iter.state_done, Iter.state_fmt, Iter.state_trap, Whole.state_ran, Whole.state_stopped, Whole.state_denied] | split | with_reducible refine (foldl_bytes _ ?_ _ _).trans ?_ | with_reducible refine (foldlB_bytes _ ?_ _ _).trans ?_ | with_reducible refine (foldl1_bytes _ ?_ _ _).trans ?_ | with_reducible refine (foldl2_bytes _ ?_ _ _).trans ?_

@[simp] theorem State.setTx_bytes (s : State) (x1 : _) (x2 : _) : (State.setTx s x1 x2).bytes = s.bytes := by
  unfold State.setTx
  repeat' first | with_reducible rfl | with_reducible assumption | intro _ | simp only [bytes_mk, bytes_eta, Iter.state_done, Iter.state_fmt, Iter.state_trap, Whole.state_ran, Whole.state_stopped, Whole.state_denied] | split | with_reducible refine (foldl_bytes _ ?_ _ _).trans ?_

@[simp] theorem State.transmit_bytes (s : State) (x1 : _) (x2 : _) (x3 : _) : (State.transmit s x1 x2 x3).bytes = s.bytes := by
  unfold State.transmit
  repeat' first | with_reducible rfl | with_reducible assumption | intro _ | simp only [State.output_bytes, State.setTx_bytes, State.spill_bytes, bytes_mk, bytes_eta, Iter.state_done, Iter.state_fmt, Iter.state_trap, Whole.state_ran, Whole.state_stopped, Whole.state_denied] | split | with_reducible refine (foldl_bytes _ ?_ _ _).trans ?_

@[simp] theorem State.pumpAux_bytes (s : State) (x0 : _) (x1 : _) : (State.pumpAux x0 x1 s).bytes = s.bytes := by
  induction x1 generalizing s with
  | zero => unfold State.pumpAux; repeat' first | with_reducible rfl | with_reducible assumption | intro _ | simp only [State.setTx_bytes, State.transmit_bytes, bytes_mk, bytes_eta, Iter.state_done, Iter.state_fmt, Iter.state_trap, Whole.state_ran, Whole.state_stopped, Whole.state_denied] | split | with_reducible refine (foldl_bytes _ ?_ _ _).trans ?_
  | succ n ih =>
    unfold State.pumpAux
    repeat' first | with_reducible rfl | with_reducible assumption | intro _ | simp only [ih, State.setTx_bytes, State.transmit_bytes, bytes_mk, bytes_eta, Iter.state_done, Iter.state_fmt, Iter.state_trap, Whole.state_ran, Whole.state_stopped, Whole.state_denied] | split | with_reducible refine (foldl_bytes _ ?_ _ _).trans ?_

@[simp] theorem State.pump_bytes (s : State) (x1 : _) : (State.pump s x1).bytes = s.bytes := by
  unfold State.pump
  repeat' first | with_reducible rfl | with_reducible assumption | intro _ | simp only [State.pumpAux_bytes, bytes_mk, bytes_eta, Iter.state_done, Iter.state_fmt, Iter.state_trap, Whole.state_ran, Whole.state_stopped, Whole.state_denied] | split | with_reducible refine (foldl_bytes _ ?_ _ _).trans ?_

@[simp] theorem State.sendMessage_bytes (s : State) (x1 : _) (x2 : _) (x3 : _) (x4 : _) (x5 : _) (x6 : _) (x7 : _) (x8 : _) : (State.sendMessage s x1 x2 x3 x4 x5 x6 x7 x8).bytes = s.bytes := by
  unfold State.sendMessage
  repeat' first | with_reducible rfl | with_reducible assumption | intro _ | simp only [State.pump_bytes, State.setTx_bytes, bytes_mk, bytes_eta, Iter.state_done, Iter.state_fmt, Iter.state_trap, Whole.state_ran, Whole.state_stopped, Whole.state_denied] | split | with_reducible refine (foldl_bytes _ ?_ _ _).trans ?_

@[simp] theorem State.release_bytes (s : State) (x1 : _) (x2 : _) : (State.release s x1 x2).bytes = s.bytes := by
  unfold State.release
  repeat' first | with_reducible rfl | with_reducible assumption | intro _ | simp only [State.dropRetention_bytes, State.setTx_bytes, bytes_mk, bytes_eta, Iter.state_done, Iter.state_fmt, Iter.state_trap, Whole.state_ran, Whole.state_stopped, Whole.state_denied] | split | with_reducible refine (foldl_bytes _ ?_ _ _).trans ?_ | with_reducible refine (foldlB_bytes _ ?_ _ _).trans ?_ | with_reducible refine (foldl1_bytes _ ?_ _ _).trans ?_ | with_reducible refine (foldl2_bytes _ ?_ _ _).trans ?_

@[simp] theorem State.unretain_bytes (s : State) (x1 : _) : (State.unretain s x1).bytes = s.bytes := by
  unfold State.unretain
  repeat' first | with_reducible rfl | with_reducible assumption | intro _ | simp only [bytes_mk, bytes_eta, Iter.state_done, Iter.state_fmt, Iter.state_trap, Whole.state_ran, Whole.state_stopped, Whole.state_denied] | split | with_reducible refine (foldl_bytes _ ?_ _ _).trans ?_

@[simp] theorem State.releaseTx_bytes (s : State) (x1 : _) : (State.releaseTx s x1).bytes = s.bytes := by
  unfold State.releaseTx
  repeat' first | with_reducible rfl | with_reducible assumption | intro _ | simp only [State.release_bytes, State.unretain_bytes, bytes_mk, bytes_eta, Iter.state_done, Iter.state_fmt, Iter.state_trap, Whole.state_ran, Whole.state_stopped, Whole.state_denied] | split | with_reducible refine (foldl_bytes _ ?_ _ _).trans ?_

@[simp] theorem State.freshTx_bytes (s : State) (x1 : _) : (State.freshTx s x1).bytes = s.bytes := by
  unfold State.freshTx
  repeat' first | with_reducible rfl | with_reducible assumption | intro _ | simp only [bytes_mk, bytes_eta, Iter.state_done, Iter.state_fmt, Iter.state_trap, Whole.state_ran, Whole.state_stopped, Whole.state_denied] | split | with_reducible refine (foldl_bytes _ ?_ _ _).trans ?_

@[simp] theorem State.dropTx_bytes (s : State) (x1 : _) : (State.dropTx s x1).bytes = s.bytes := by
  unfold State.dropTx
  repeat' first | with_reducible rfl | with_reducible assumption | intro _ | simp only [State.releaseTx_bytes, bytes_mk, bytes_eta, Iter.state_done, Iter.state_fmt, Iter.state_trap, Whole.state_ran, Whole.state_stopped, Whole.state_denied] | split | with_reducible refine (foldl_bytes _ ?_ _ _).trans ?_

@[simp] theorem State.releaseStreams_bytes (s : State) (x1 : _) : (State.releaseStreams s x1).bytes = s.bytes := by
  unfold State.releaseStreams
  repeat' first | with_reducible rfl | with_reducible assumption | intro _ | simp only [State.pump_bytes, State.releaseTx_bytes, bytes_mk, bytes_eta, Iter.state_done, Iter.state_fmt, Iter.state_trap, Whole.state_ran, Whole.state_stopped, Whole.state_denied] | split | with_reducible refine (foldl_bytes _ ?_ _ _).trans ?_ | with_reducible refine (foldlB_bytes _ ?_ _ _).trans ?_ | with_reducible refine (foldl1_bytes _ ?_ _ _).trans ?_ | with_reducible refine (foldl2_bytes _ ?_ _ _).trans ?_

@[simp] theorem State.dropStreams_bytes (s : State) (x1 : _) : (State.dropStreams s x1).bytes = s.bytes := by
  unfold State.dropStreams
  repeat' first | with_reducible rfl | with_reducible assumption | intro _ | simp only [State.dropTx_bytes, bytes_mk, bytes_eta, Iter.state_done, Iter.state_fmt, Iter.state_trap, Whole.state_ran, Whole.state_stopped, Whole.state_denied] | split | with_reducible refine (foldl_bytes _ ?_ _ _).trans ?_ | with_reducible refine (foldlB_bytes _ ?_ _ _).trans ?_ | with_reducible refine (foldl1_bytes _ ?_ _ _).trans ?_ | with_reducible refine (foldl2_bytes _ ?_ _ _).trans ?_

@[simp] theorem State.closeStreams_bytes (s : State) (x1 : _) (x2 : _) : (State.closeStreams s x1 x2).bytes = s.bytes := by
  unfold State.closeStreams
  repeat' first | with_reducible rfl | with_reducible assumption | intro _ | simp only [State.dropStreams_bytes, State.output_bytes, bytes_mk, bytes_eta, Iter.state_done, Iter.state_fmt, Iter.state_trap, Whole.state_ran, Whole.state_stopped, Whole.state_denied] | split | with_reducible refine (foldl_bytes _ ?_ _ _).trans ?_ | with_reducible refine (foldlB_bytes _ ?_ _ _).trans ?_ | with_reducible refine (foldl1_bytes _ ?_ _ _).trans ?_ | with_reducible refine (foldl2_bytes _ ?_ _ _).trans ?_

@[simp] theorem State.admitAux_bytes (s : State) (x0 : _) : (State.admitAux x0 s).bytes = s.bytes := by
  induction x0 generalizing s with
  | zero => unfold State.admitAux; repeat' first | with_reducible rfl | with_reducible assumption | intro _ | simp only [State.output_bytes, State.setTx_bytes, bytes_mk, bytes_eta, Iter.state_done, Iter.state_fmt, Iter.state_trap, Whole.state_ran, Whole.state_stopped, Whole.state_denied] | split | with_reducible refine (foldl_bytes _ ?_ _ _).trans ?_
  | succ n ih =>
    unfold State.admitAux
    repeat' first | with_reducible rfl | with_reducible assumption | intro _ | simp only [ih, State.output_bytes, State.setTx_bytes, bytes_mk, bytes_eta, Iter.state_done, Iter.state_fmt, Iter.state_trap, Whole.state_ran, Whole.state_stopped, Whole.state_denied] | split | with_reducible refine (foldl_bytes _ ?_ _ _).trans ?_

@[simp] theorem State.admitBlocked_bytes (s : State) : (State.admitBlocked s).bytes = s.bytes := by
  unfold State.admitBlocked
  repeat' first | with_reducible rfl | with_reducible assumption | intro _ | simp only [State.admitAux_bytes, State.spill_bytes, bytes_mk, bytes_eta, Iter.state_done, Iter.state_fmt, Iter.state_trap, Whole.state_ran, Whole.state_stopped, Whole.state_denied] | split | with_reducible refine (foldl_bytes _ ?_ _ _).trans ?_

@[simp] theorem State.startQueues_bytes (s : State) (x1 : _) (x2 : _) : (State.startQueues s x1 x2).bytes = s.bytes := by
  unfold State.startQueues
  repeat' first | with_reducible rfl | with_reducible assumption | intro _ | simp only [bytes_mk, bytes_eta, Iter.state_done, Iter.state_fmt, Iter.state_trap, Whole.state_ran, Whole.state_stopped, Whole.state_denied] | split | with_reducible refine (foldl_bytes _ ?_ _ _).trans ?_

@[simp] theorem State.openSlot_bytes (s : State) (x1 : _) (x2 : _) (x3 : _) (x4 : _) (x5 : _) : (State.openSlot s x1 x2 x3 x4 x5).bytes = s.bytes := by
  unfold State.openSlot
  repeat' first | with_reducible rfl | with_reducible assumption | intro _ | simp only [State.setSlot_bytes, State.startQueues_bytes, bytes_mk, bytes_eta, Iter.state_done, Iter.state_fmt, Iter.state_trap, Whole.state_ran, Whole.state_stopped, Whole.state_denied] | split | with_reducible refine (foldl_bytes _ ?_ _ _).trans ?_

@[simp] theorem State.sendMsg_bytes (s : State) (x1 : _) (x2 : _) (x3 : _) (x4 : _) (x5 : _) (x6 : _) : (State.sendMsg s x1 x2 x3 x4 x5 x6).bytes = s.bytes := by
  unfold State.sendMsg
  repeat' first | with_reducible rfl | with_reducible assumption | intro _ | simp only [State.sendMessage_bytes, bytes_mk, bytes_eta, Iter.state_done, Iter.state_fmt, Iter.state_trap, Whole.state_ran, Whole.state_stopped, Whole.state_denied] | split | with_reducible refine (foldl_bytes _ ?_ _ _).trans ?_

@[simp] theorem State.sendFirst_bytes (s : State) (x1 : _) (x2 : _) (x3 : _) (x4 : _) (x5 : _) : (State.sendFirst s x1 x2 x3 x4 x5).bytes = s.bytes := by
  unfold State.sendFirst
  repeat' first | with_reducible rfl | with_reducible assumption | intro _ | simp only [State.sendMsg_bytes, State.setSlot_bytes, bytes_mk, bytes_eta, Iter.state_done, Iter.state_fmt, Iter.state_trap, Whole.state_ran, Whole.state_stopped, Whole.state_denied] | split | with_reducible refine (foldl_bytes _ ?_ _ _).trans ?_

@[simp] theorem State.creditBackAux_bytes (s : State) (x0 : _) (x1 : _) (x2 : _) (x3 : _) : (State.creditBackAux x0 x1 x2 x3 s).bytes = s.bytes := by
  induction x3 generalizing s with
  | zero => unfold State.creditBackAux; repeat' first | with_reducible rfl | with_reducible assumption | intro _ | simp only [State.sendMsg_bytes, State.setSlot_bytes, bytes_mk, bytes_eta, Iter.state_done, Iter.state_fmt, Iter.state_trap, Whole.state_ran, Whole.state_stopped, Whole.state_denied] | split | with_reducible refine (foldl_bytes _ ?_ _ _).trans ?_
  | succ n ih =>
    unfold State.creditBackAux
    repeat' first | with_reducible rfl | with_reducible assumption | intro _ | simp only [ih, State.sendMsg_bytes, State.setSlot_bytes, bytes_mk, bytes_eta, Iter.state_done, Iter.state_fmt, Iter.state_trap, Whole.state_ran, Whole.state_stopped, Whole.state_denied] | split | with_reducible refine (foldl_bytes _ ?_ _ _).trans ?_

@[simp] theorem State.creditBack_bytes (s : State) (x1 : _) (x2 : _) (x3 : _) (x4 : _) : (State.creditBack s x1 x2 x3 x4).bytes = s.bytes := by
  unfold State.creditBack
  repeat' first | with_reducible rfl | with_reducible assumption | intro _ | simp only [State.creditBackAux_bytes, State.setSlot_bytes, bytes_mk, bytes_eta, Iter.state_done, Iter.state_fmt, Iter.state_trap, Whole.state_ran, Whole.state_stopped, Whole.state_denied] | split | with_reducible refine (foldl_bytes _ ?_ _ _).trans ?_

@[simp] theorem State.sendAck_bytes (s : State) (x1 : _) (x2 : _) (x3 : _) (x4 : _) : (State.sendAck s x1 x2 x3 x4).bytes = s.bytes := by
  unfold State.sendAck
  repeat' first | with_reducible rfl | with_reducible assumption | intro _ | simp only [State.sendCtrl_bytes, bytes_mk, bytes_eta, Iter.state_done, Iter.state_fmt, Iter.state_trap, Whole.state_ran, Whole.state_stopped, Whole.state_denied] | split | with_reducible refine (foldl_bytes _ ?_ _ _).trans ?_

@[simp] theorem State.returnStaging_bytes (s : State) (x1 : _) (x2 : _) (x3 : _) : (State.returnStaging s x1 x2 x3).bytes = s.bytes := by
  unfold State.returnStaging
  repeat' first | with_reducible rfl | with_reducible assumption | intro _ | simp only [State.sendAck_bytes, State.setSlot_bytes, bytes_mk, bytes_eta, Iter.state_done, Iter.state_fmt, Iter.state_trap, Whole.state_ran, Whole.state_stopped, Whole.state_denied] | split | with_reducible refine (foldl_bytes _ ?_ _ _).trans ?_

@[simp] theorem State.endDown_bytes (s : State) (x1 : _) (x2 : _) (x3 : _) (x4 : _) : (State.endDown s x1 x2 x3 x4).bytes = s.bytes := by
  unfold State.endDown
  repeat' first | with_reducible rfl | with_reducible assumption | intro _ | simp only [State.sendMsg_bytes, bytes_mk, bytes_eta, Iter.state_done, Iter.state_fmt, Iter.state_trap, Whole.state_ran, Whole.state_stopped, Whole.state_denied] | split | with_reducible refine (foldl_bytes _ ?_ _ _).trans ?_ | with_reducible refine (foldlB_bytes _ ?_ _ _).trans ?_ | with_reducible refine (foldl1_bytes _ ?_ _ _).trans ?_ | with_reducible refine (foldl2_bytes _ ?_ _ _).trans ?_

@[simp] theorem State.noteStatus_bytes (s : State) (x1 : _) (x2 : _) : (State.noteStatus s x1 x2).bytes = s.bytes := by
  unfold State.noteStatus
  repeat' first | with_reducible rfl | with_reducible assumption | intro _ | simp only [bytes_mk, bytes_eta, Iter.state_done, Iter.state_fmt, Iter.state_trap, Whole.state_ran, Whole.state_stopped, Whole.state_denied] | split | with_reducible refine (foldl_bytes _ ?_ _ _).trans ?_

@[simp] theorem State.modCtx_bytes (s : State) (x1 : _) (x2 : _) : (State.modCtx s x1 x2).bytes = s.bytes := by
  unfold State.modCtx
  repeat' first | with_reducible rfl | with_reducible assumption | intro _ | simp only [bytes_mk, bytes_eta, Iter.state_done, Iter.state_fmt, Iter.state_trap, Whole.state_ran, Whole.state_stopped, Whole.state_denied] | split | with_reducible refine (foldl_bytes _ ?_ _ _).trans ?_

@[simp] theorem State.freeAfter_bytes (s : State) (x1 : _) (x2 : _) : (State.freeAfter s x1 x2).bytes = s.bytes := by
  unfold State.freeAfter
  repeat' first | with_reducible rfl | with_reducible assumption | intro _ | simp only [State.modCtx_bytes, bytes_mk, bytes_eta, Iter.state_done, Iter.state_fmt, Iter.state_trap, Whole.state_ran, Whole.state_stopped, Whole.state_denied] | split | with_reducible refine (foldl_bytes _ ?_ _ _).trans ?_

@[simp] theorem State.closeSlot_bytes (s : State) (x1 : _) (x2 : _) : (State.closeSlot s x1 x2).bytes = s.bytes := by
  unfold State.closeSlot
  repeat' first | with_reducible rfl | with_reducible assumption | intro _ | simp only [State.bump_bytes, State.closeStreams_bytes, State.freeAfter_bytes, State.noteStatus_bytes, State.sendMsg_bytes, State.setSlot_bytes, bytes_mk, bytes_eta, Iter.state_done, Iter.state_fmt, Iter.state_trap, Whole.state_ran, Whole.state_stopped, Whole.state_denied] | split | with_reducible refine (foldl_bytes _ ?_ _ _).trans ?_ | with_reducible refine (foldlB_bytes _ ?_ _ _).trans ?_ | with_reducible refine (foldl1_bytes _ ?_ _ _).trans ?_ | with_reducible refine (foldl2_bytes _ ?_ _ _).trans ?_

@[simp] theorem State.sendEnds_bytes (s : State) (x1 : _) (x2 : _) (x3 : _) : (State.sendEnds s x1 x2 x3).bytes = s.bytes := by
  unfold State.sendEnds
  repeat' first | with_reducible rfl | with_reducible assumption | intro _ | simp only [State.endDown_bytes, State.sendMsg_bytes, bytes_mk, bytes_eta, Iter.state_done, Iter.state_fmt, Iter.state_trap, Whole.state_ran, Whole.state_stopped, Whole.state_denied] | split | with_reducible refine (foldl_bytes _ ?_ _ _).trans ?_ | with_reducible refine (foldlB_bytes _ ?_ _ _).trans ?_ | with_reducible refine (foldl1_bytes _ ?_ _ _).trans ?_ | with_reducible refine (foldl2_bytes _ ?_ _ _).trans ?_

@[simp] theorem State.stopQueues_bytes (s : State) (x1 : _) : (State.stopQueues s x1).bytes = s.bytes := by
  unfold State.stopQueues
  repeat' first | with_reducible rfl | with_reducible assumption | intro _ | simp only [bytes_mk, bytes_eta, Iter.state_done, Iter.state_fmt, Iter.state_trap, Whole.state_ran, Whole.state_stopped, Whole.state_denied] | split | with_reducible refine (foldl_bytes _ ?_ _ _).trans ?_

@[simp] theorem State.failInstance_bytes (s : State) (x1 : _) (x2 : _) (x3 : _) : (State.failInstance s x1 x2 x3).bytes = s.bytes := by
  unfold State.failInstance
  repeat' first | with_reducible rfl | with_reducible assumption | intro _ | simp only [State.closeSlot_bytes, State.sendEnds_bytes, State.setSlot_bytes, State.stopQueues_bytes, bytes_mk, bytes_eta, Iter.state_done, Iter.state_fmt, Iter.state_trap, Whole.state_ran, Whole.state_stopped, Whole.state_denied] | split | with_reducible refine (foldl_bytes _ ?_ _ _).trans ?_

@[simp] theorem State.endNow_bytes (s : State) (x1 : _) (x2 : _) (x3 : _) : (State.endNow s x1 x2 x3).bytes = s.bytes := by
  unfold State.endNow
  repeat' first | with_reducible rfl | with_reducible assumption | intro _ | simp only [State.closeSlot_bytes, State.failInstance_bytes, bytes_mk, bytes_eta, Iter.state_done, Iter.state_fmt, Iter.state_trap, Whole.state_ran, Whole.state_stopped, Whole.state_denied] | split | with_reducible refine (foldl_bytes _ ?_ _ _).trans ?_

@[simp] theorem State.maybeClose_bytes (s : State) (x1 : _) : (State.maybeClose s x1).bytes = s.bytes := by
  unfold State.maybeClose
  repeat' first | with_reducible rfl | with_reducible assumption | intro _ | simp only [State.closeSlot_bytes, State.releaseStreams_bytes, bytes_mk, bytes_eta, Iter.state_done, Iter.state_fmt, Iter.state_trap, Whole.state_ran, Whole.state_stopped, Whole.state_denied] | split | with_reducible refine (foldl_bytes _ ?_ _ _).trans ?_

@[simp] theorem State.rootEnd_bytes (s : State) (x1 : _) (x2 : _) : (State.rootEnd s x1 x2).bytes = s.bytes := by
  unfold State.rootEnd
  repeat' first | with_reducible rfl | with_reducible assumption | intro _ | simp only [State.endDown_bytes, State.maybeClose_bytes, State.setSlot_bytes, bytes_mk, bytes_eta, Iter.state_done, Iter.state_fmt, Iter.state_trap, Whole.state_ran, Whole.state_stopped, Whole.state_denied] | split | with_reducible refine (foldl_bytes _ ?_ _ _).trans ?_

@[simp] theorem State.mismatch_bytes (s : State) (x1 : _) (x2 : _) : (State.mismatch s x1 x2).bytes = s.bytes := by
  unfold State.mismatch
  repeat' first | with_reducible rfl | with_reducible assumption | intro _ | simp only [State.bump_bytes, State.failInstance_bytes, State.raise_bytes, State.setSlot_bytes, bytes_mk, bytes_eta, Iter.state_done, Iter.state_fmt, Iter.state_trap, Whole.state_ran, Whole.state_stopped, Whole.state_denied] | split | with_reducible refine (foldl_bytes _ ?_ _ _).trans ?_

@[simp] theorem State.retire_bytes (s : State) (x1 : _) : (State.retire s x1).bytes = s.bytes := by
  unfold State.retire
  repeat' first | with_reducible rfl | with_reducible assumption | intro _ | simp only [State.bump_bytes, bytes_mk, bytes_eta, Iter.state_done, Iter.state_fmt, Iter.state_trap, Whole.state_ran, Whole.state_stopped, Whole.state_denied] | split | with_reducible refine (foldl_bytes _ ?_ _ _).trans ?_

@[simp] theorem State.noteTerm_bytes (s : State) (x1 : _) : (State.noteTerm s x1).bytes = s.bytes := by
  unfold State.noteTerm
  repeat' first | with_reducible rfl | with_reducible assumption | intro _ | simp only [bytes_mk, bytes_eta, Iter.state_done, Iter.state_fmt, Iter.state_trap, Whole.state_ran, Whole.state_stopped, Whole.state_denied] | split | with_reducible refine (foldl_bytes _ ?_ _ _).trans ?_

@[simp] theorem State.sendGranule_bytes (s : State) (x1 : _) (x2 : _) (x3 : _) : (State.sendGranule s x1 x2 x3).bytes = s.bytes := by
  unfold State.sendGranule
  repeat' first | with_reducible rfl | with_reducible assumption | intro _ | simp only [State.sendMessage_bytes, bytes_mk, bytes_eta, Iter.state_done, Iter.state_fmt, Iter.state_trap, Whole.state_ran, Whole.state_stopped, Whole.state_denied] | split | with_reducible refine (foldl_bytes _ ?_ _ _).trans ?_

@[simp] theorem State.resend_bytes (s : State) (x1 : _) : (State.resend s x1).bytes = s.bytes := by
  unfold State.resend
  repeat' first | with_reducible rfl | with_reducible assumption | intro _ | simp only [State.sendGranule_bytes, bytes_mk, bytes_eta, Iter.state_done, Iter.state_fmt, Iter.state_trap, Whole.state_ran, Whole.state_stopped, Whole.state_denied] | split | with_reducible refine (foldl_bytes _ ?_ _ _).trans ?_

@[simp] theorem State.freeContexts_bytes (s : State) : (State.freeContexts s).bytes = s.bytes := by
  unfold State.freeContexts
  repeat' first | with_reducible rfl | with_reducible assumption | intro _ | simp only [bytes_mk, bytes_eta, Iter.state_done, Iter.state_fmt, Iter.state_trap, Whole.state_ran, Whole.state_stopped, Whole.state_denied] | split | with_reducible refine (foldl_bytes _ ?_ _ _).trans ?_

@[simp] theorem State.removePlan_bytes (s : State) (x1 : _) : (State.removePlan s x1).bytes = s.bytes := by
  unfold State.removePlan
  repeat' first | with_reducible rfl | with_reducible assumption | intro _ | simp only [State.endNow_bytes, State.freeContexts_bytes, State.rebuildGroups_bytes, bytes_mk, bytes_eta, Iter.state_done, Iter.state_fmt, Iter.state_trap, Whole.state_ran, Whole.state_stopped, Whole.state_denied] | split | with_reducible refine (foldl_bytes _ ?_ _ _).trans ?_ | with_reducible refine (foldlB_bytes _ ?_ _ _).trans ?_ | with_reducible refine (foldl1_bytes _ ?_ _ _).trans ?_ | with_reducible refine (foldl2_bytes _ ?_ _ _).trans ?_

@[simp] theorem State.putTables_bytes (s : State) (x1 : _) (x2 : _) : (State.putTables s x1 x2).bytes = s.bytes := by
  unfold State.putTables
  repeat' first | with_reducible rfl | with_reducible assumption | intro _ | simp only [bytes_mk, bytes_eta, Iter.state_done, Iter.state_fmt, Iter.state_trap, Whole.state_ran, Whole.state_stopped, Whole.state_denied] | split | with_reducible refine (foldl_bytes _ ?_ _ _).trans ?_

@[simp] theorem State.queueHeal_bytes (s : State) (x1 : _) (x2 : _) : (State.queueHeal s x1 x2).bytes = s.bytes := by
  unfold State.queueHeal
  repeat' first | with_reducible rfl | with_reducible assumption | intro _ | simp only [bytes_mk, bytes_eta, Iter.state_done, Iter.state_fmt, Iter.state_trap, Whole.state_ran, Whole.state_stopped, Whole.state_denied] | split | with_reducible refine (foldl_bytes _ ?_ _ _).trans ?_

@[simp] theorem State.logUe_bytes (s : State) (x1 : _) : (State.logUe s x1).bytes = s.bytes := by
  unfold State.logUe
  repeat' first | with_reducible rfl | with_reducible assumption | intro _ | simp only [State.bump_bytes, State.raise_bytes, bytes_mk, bytes_eta, Iter.state_done, Iter.state_fmt, Iter.state_trap, Whole.state_ran, Whole.state_stopped, Whole.state_denied] | split | with_reducible refine (foldl_bytes _ ?_ _ _).trans ?_

@[simp] theorem State.chargeChannel_bytes (s : State) (x1 : _) (x2 : _) : (State.chargeChannel s x1 x2).bytes = s.bytes := by
  unfold State.chargeChannel
  repeat' first | with_reducible rfl | with_reducible assumption | intro _ | simp only [bytes_mk, bytes_eta, Iter.state_done, Iter.state_fmt, Iter.state_trap, Whole.state_ran, Whole.state_stopped, Whole.state_denied] | split | with_reducible refine (foldl_bytes _ ?_ _ _).trans ?_

@[simp] theorem State.upset_bytes (s : State) (x1 : _) (x2 : _) : (State.upset s x1 x2).bytes = s.bytes := by
  unfold State.upset
  repeat' first | with_reducible rfl | with_reducible assumption | intro _ | simp only [bytes_mk, bytes_eta, Iter.state_done, Iter.state_fmt, Iter.state_trap, Whole.state_ran, Whole.state_stopped, Whole.state_denied] | split | with_reducible refine (foldl_bytes _ ?_ _ _).trans ?_

@[simp] theorem State.rewrite_bytes (s : State) (x1 : _) : (State.rewrite s x1).bytes = s.bytes := by
  unfold State.rewrite
  repeat' first | with_reducible rfl | with_reducible assumption | intro _ | simp only [bytes_mk, bytes_eta, Iter.state_done, Iter.state_fmt, Iter.state_trap, Whole.state_ran, Whole.state_stopped, Whole.state_denied] | split | with_reducible refine (foldl_bytes _ ?_ _ _).trans ?_

@[simp] theorem State.markSegments_bytes (s : State) (x1 : _) (x2 : _) (x3 : _) : (State.markSegments s x1 x2 x3).bytes = s.bytes := by
  unfold State.markSegments
  repeat' first | with_reducible rfl | with_reducible assumption | intro _ | simp only [bytes_mk, bytes_eta, Iter.state_done, Iter.state_fmt, Iter.state_trap, Whole.state_ran, Whole.state_stopped, Whole.state_denied] | split | with_reducible refine (foldl_bytes _ ?_ _ _).trans ?_

@[simp] theorem State.exchange_bytes (s : State) (x1 : _) : (State.exchange s x1).bytes = s.bytes := by
  unfold State.exchange
  repeat' first | with_reducible rfl | with_reducible assumption | intro _ | simp only [State.bump_bytes, State.raise_bytes, bytes_mk, bytes_eta, Iter.state_done, Iter.state_fmt, Iter.state_trap, Whole.state_ran, Whole.state_stopped, Whole.state_denied] | split | with_reducible refine (foldl_bytes _ ?_ _ _).trans ?_

@[simp] theorem State.commit_bytes (s : State) (x1 : _) : (State.commit s x1).bytes = s.bytes := by
  unfold State.commit
  repeat' first | with_reducible rfl | with_reducible assumption | intro _ | simp only [State.bump_bytes, State.sendCtrl_bytes, bytes_mk, bytes_eta, Iter.state_done, Iter.state_fmt, Iter.state_trap, Whole.state_ran, Whole.state_stopped, Whole.state_denied] | split | with_reducible refine (foldl_bytes _ ?_ _ _).trans ?_

@[simp] theorem State.abortAll_bytes (s : State) (x1 : _) : (State.abortAll s x1).bytes = s.bytes := by
  unfold State.abortAll
  repeat' first | with_reducible rfl | with_reducible assumption | intro _ | simp only [State.endNow_bytes, bytes_mk, bytes_eta, Iter.state_done, Iter.state_fmt, Iter.state_trap, Whole.state_ran, Whole.state_stopped, Whole.state_denied] | split | with_reducible refine (foldl_bytes _ ?_ _ _).trans ?_ | with_reducible refine (foldlB_bytes _ ?_ _ _).trans ?_ | with_reducible refine (foldl1_bytes _ ?_ _ _).trans ?_ | with_reducible refine (foldl2_bytes _ ?_ _ _).trans ?_

@[simp] theorem State.clearSlots_bytes (s : State) (x1 : _) : (State.clearSlots s x1).bytes = s.bytes := by
  unfold State.clearSlots
  repeat' first | with_reducible rfl | with_reducible assumption | intro _ | simp only [State.dropStreams_bytes, bytes_mk, bytes_eta, Iter.state_done, Iter.state_fmt, Iter.state_trap, Whole.state_ran, Whole.state_stopped, Whole.state_denied] | split | with_reducible refine (foldl_bytes _ ?_ _ _).trans ?_ | with_reducible refine (foldlB_bytes _ ?_ _ _).trans ?_ | with_reducible refine (foldl1_bytes _ ?_ _ _).trans ?_ | with_reducible refine (foldl2_bytes _ ?_ _ _).trans ?_

@[simp] theorem State.discardStep_bytes (s : State) : (State.discardStep s).bytes = s.bytes := by
  unfold State.discardStep
  repeat' first | with_reducible rfl | with_reducible assumption | intro _ | simp only [bytes_mk, bytes_eta, Iter.state_done, Iter.state_fmt, Iter.state_trap, Whole.state_ran, Whole.state_stopped, Whole.state_denied] | split | with_reducible refine (foldl_bytes _ ?_ _ _).trans ?_

@[simp] theorem State.refuse_bytes (s : State) (x1 : _) : (State.refuse s x1).bytes = s.bytes := by
  unfold State.refuse
  repeat' first | with_reducible rfl | with_reducible assumption | intro _ | simp only [State.abortAll_bytes, State.bump_bytes, State.clearSlots_bytes, State.discardStep_bytes, State.raise_bytes, bytes_mk, bytes_eta, Iter.state_done, Iter.state_fmt, Iter.state_trap, Whole.state_ran, Whole.state_stopped, Whole.state_denied] | split | with_reducible refine (foldl_bytes _ ?_ _ _).trans ?_

@[simp] theorem State.barrierResult_bytes (s : State) (x1 : _) (x2 : _) : (State.barrierResult s x1 x2).bytes = s.bytes := by
  unfold State.barrierResult
  repeat' first | with_reducible rfl | with_reducible assumption | intro _ | simp only [State.commit_bytes, State.refuse_bytes, bytes_mk, bytes_eta, Iter.state_done, Iter.state_fmt, Iter.state_trap, Whole.state_ran, Whole.state_stopped, Whole.state_denied] | split | with_reducible refine (foldl_bytes _ ?_ _ _).trans ?_

@[simp] theorem State.acceptRug_bytes (s : State) (x1 : _) (x2 : _) : (State.acceptRug s x1 x2).bytes = s.bytes := by
  unfold State.acceptRug
  repeat' first | with_reducible rfl | with_reducible assumption | intro _ | simp only [State.failInstance_bytes, State.raise_bytes, bytes_mk, bytes_eta, Iter.state_done, Iter.state_fmt, Iter.state_trap, Whole.state_ran, Whole.state_stopped, Whole.state_denied] | split | with_reducible refine (foldl_bytes _ ?_ _ _).trans ?_

@[simp] theorem State.gatherBytes_bytes (s : State) (x1 : _) (x2 : _) (x3 : _) : (State.gatherBytes s x1 x2 x3).2.bytes = s.bytes := by
  unfold State.gatherBytes
  repeat' first | with_reducible rfl | with_reducible assumption | intro _ | simp only [State.bump_bytes, bytes_mk, bytes_eta, Iter.state_done, Iter.state_fmt, Iter.state_trap, Whole.state_ran, Whole.state_stopped, Whole.state_denied] | split | with_reducible refine (foldl_bytes _ ?_ _ _).trans ?_

@[simp] theorem State.replaceLayer_bytes (s : State) (x1 : _) (x2 : _) (x3 : _) : (State.replaceLayer s x1 x2 x3).bytes = s.bytes := by
  unfold State.replaceLayer
  repeat' first | with_reducible rfl | with_reducible assumption | intro _ | simp only [State.modCtx_bytes, bytes_mk, bytes_eta, Iter.state_done, Iter.state_fmt, Iter.state_trap, Whole.state_ran, Whole.state_stopped, Whole.state_denied] | split | with_reducible refine (foldl_bytes _ ?_ _ _).trans ?_

@[simp] theorem State.seqOpen_bytes (s : State) (x1 : _) (x2 : _) : (State.seqOpen s x1 x2).bytes = s.bytes := by
  unfold State.seqOpen
  repeat' first | with_reducible rfl | with_reducible assumption | intro _ | simp only [State.modCtx_bytes, State.replaceLayer_bytes, bytes_mk, bytes_eta, Iter.state_done, Iter.state_fmt, Iter.state_trap, Whole.state_ran, Whole.state_stopped, Whole.state_denied] | split | with_reducible refine (foldl_bytes _ ?_ _ _).trans ?_

@[simp] theorem State.storeChunk_bytes (s : State) (x1 : _) (x2 : _) (x3 : _) (x4 : _) (x5 : _) : (State.storeChunk s x1 x2 x3 x4 x5).bytes = s.bytes := by
  unfold State.storeChunk
  repeat' first | with_reducible rfl | with_reducible assumption | intro _ | simp only [State.bump_bytes, State.modCtx_bytes, bytes_mk, bytes_eta, Iter.state_done, Iter.state_fmt, Iter.state_trap, Whole.state_ran, Whole.state_stopped, Whole.state_denied] | split | with_reducible refine (foldl_bytes _ ?_ _ _).trans ?_

@[simp] theorem State.seqDown_bytes (s : State) (x1 : _) (x2 : _) (x3 : _) (x4 : _) (x5 : _) (x6 : _) : (State.seqDown s x1 x2 x3 x4 x5 x6).bytes = s.bytes := by
  unfold State.seqDown
  repeat' first | with_reducible rfl | with_reducible assumption | intro _ | simp only [State.relayMessage_bytes, State.sendMsg_bytes, bytes_mk, bytes_eta, Iter.state_done, Iter.state_fmt, Iter.state_trap, Whole.state_ran, Whole.state_stopped, Whole.state_denied] | split | with_reducible refine (foldl_bytes _ ?_ _ _).trans ?_ | with_reducible refine (foldlB_bytes _ ?_ _ _).trans ?_ | with_reducible refine (foldl1_bytes _ ?_ _ _).trans ?_ | with_reducible refine (foldl2_bytes _ ?_ _ _).trans ?_

@[simp] theorem State.sendBlock_bytes (s : State) (x1 : _) (x2 : _) (x3 : _) (x4 : _) (x5 : _) (x6 : _) : (State.sendBlock s x1 x2 x3 x4 x5 x6).bytes = s.bytes := by
  unfold State.sendBlock
  repeat' first | with_reducible rfl | with_reducible assumption | intro _ | simp only [State.modSlot_bytes, State.seqDown_bytes, bytes_mk, bytes_eta, Iter.state_done, Iter.state_fmt, Iter.state_trap, Whole.state_ran, Whole.state_stopped, Whole.state_denied] | split | with_reducible refine (foldl_bytes _ ?_ _ _).trans ?_ | with_reducible refine (foldlB_bytes _ ?_ _ _).trans ?_ | with_reducible refine (foldl1_bytes _ ?_ _ _).trans ?_ | with_reducible refine (foldl2_bytes _ ?_ _ _).trans ?_

@[simp] theorem State.blockMissing_bytes (s : State) (x1 : _) (x2 : _) (x3 : _) (x4 : _) (x5 : _) : (State.blockMissing s x1 x2 x3 x4 x5).bytes = s.bytes := by
  unfold State.blockMissing
  repeat' first | with_reducible rfl | with_reducible assumption | intro _ | simp only [State.bump_bytes, State.modSlot_bytes, State.raise_bytes, State.sendBlock_bytes, bytes_mk, bytes_eta, Iter.state_done, Iter.state_fmt, Iter.state_trap, Whole.state_ran, Whole.state_stopped, Whole.state_denied] | split | with_reducible refine (foldl_bytes _ ?_ _ _).trans ?_

@[simp] theorem State.storeStaged_bytes (s : State) (x1 : _) (x2 : _) (x3 : _) : (State.storeStaged s x1 x2 x3).bytes = s.bytes := by
  unfold State.storeStaged
  repeat' first | with_reducible rfl | with_reducible assumption | intro _ | simp only [State.replaceLayer_bytes, State.returnStaging_bytes, State.setSlot_bytes, State.storeChunk_bytes, bytes_mk, bytes_eta, Iter.state_done, Iter.state_fmt, Iter.state_trap, Whole.state_ran, Whole.state_stopped, Whole.state_denied] | split | with_reducible refine (foldl_bytes _ ?_ _ _).trans ?_ | with_reducible refine (foldlB_bytes _ ?_ _ _).trans ?_ | with_reducible refine (foldl1_bytes _ ?_ _ _).trans ?_ | with_reducible refine (foldl2_bytes _ ?_ _ _).trans ?_

@[simp] theorem State.mirrorBad_bytes (s : State) (x1 : _) : (State.mirrorBad s x1).bytes = s.bytes := by
  unfold State.mirrorBad
  repeat' first | with_reducible rfl | with_reducible assumption | intro _ | simp only [State.bump_bytes, State.failInstance_bytes, bytes_mk, bytes_eta, Iter.state_done, Iter.state_fmt, Iter.state_trap, Whole.state_ran, Whole.state_stopped, Whole.state_denied] | split | with_reducible refine (foldl_bytes _ ?_ _ _).trans ?_

@[simp] theorem State.mirrorAccept_bytes (s : State) (x1 : _) : (State.mirrorAccept s x1).bytes = s.bytes := by
  unfold State.mirrorAccept
  repeat' first | with_reducible rfl | with_reducible assumption | intro _ | simp only [State.mirrorBad_bytes, State.setSlot_bytes, bytes_mk, bytes_eta, Iter.state_done, Iter.state_fmt, Iter.state_trap, Whole.state_ran, Whole.state_stopped, Whole.state_denied] | split | with_reducible refine (foldl_bytes _ ?_ _ _).trans ?_

@[simp] theorem State.releaseMirrors_bytes (s : State) (x1 : _) : (State.releaseMirrors s x1).bytes = s.bytes := by
  unfold State.releaseMirrors
  repeat' first | with_reducible rfl | with_reducible assumption | intro _ | simp only [State.mirrorAccept_bytes, bytes_mk, bytes_eta, Iter.state_done, Iter.state_fmt, Iter.state_trap, Whole.state_ran, Whole.state_stopped, Whole.state_denied] | split | with_reducible refine (foldl_bytes _ ?_ _ _).trans ?_ | with_reducible refine (foldlB_bytes _ ?_ _ _).trans ?_ | with_reducible refine (foldl1_bytes _ ?_ _ _).trans ?_ | with_reducible refine (foldl2_bytes _ ?_ _ _).trans ?_

@[simp] theorem State.takeInbox_bytes (s : State) (x1 : _) (x2 : _) : (State.takeInbox s x1 x2).bytes = s.bytes := by
  unfold State.takeInbox
  repeat' first | with_reducible rfl | with_reducible assumption | intro _ | simp only [bytes_mk, bytes_eta, Iter.state_done, Iter.state_fmt, Iter.state_trap, Whole.state_ran, Whole.state_stopped, Whole.state_denied] | split | with_reducible refine (foldl_bytes _ ?_ _ _).trans ?_

@[simp] theorem State.takeCtrl_bytes (s : State) (x1 : _) (x2 : _) : (State.takeCtrl s x1 x2).bytes = s.bytes := by
  unfold State.takeCtrl
  repeat' first | with_reducible rfl | with_reducible assumption | intro _ | simp only [bytes_mk, bytes_eta, Iter.state_done, Iter.state_fmt, Iter.state_trap, Whole.state_ran, Whole.state_stopped, Whole.state_denied] | split | with_reducible refine (foldl_bytes _ ?_ _ _).trans ?_

theorem State.takeCredit_bytes {s t : State} {h : BitVec 20} {k : Coll} {a : FA} {c : Nat} (e : s.takeCredit h k a c = some t) :
    t.bytes = s.bytes := by
  simp only [State.takeCredit] at e
  split at e
  · cases e; rfl
  · cases e

@[simp] theorem State.freeChunk_bytes (s : State) (x1 : _) (x2 : _) : (State.freeChunk s x1 x2).bytes = s.bytes := by
  unfold State.freeChunk
  repeat' first | with_reducible rfl | with_reducible assumption | intro _ | simp only [State.returnStaging_bytes, bytes_mk, bytes_eta, Iter.state_done, Iter.state_fmt, Iter.state_trap, Whole.state_ran, Whole.state_stopped, Whole.state_denied] | split | with_reducible refine (foldl_bytes _ ?_ _ _).trans ?_ | with_reducible refine (foldlB_bytes _ ?_ _ _).trans ?_ | with_reducible refine (foldl1_bytes _ ?_ _ _).trans ?_ | with_reducible refine (foldl2_bytes _ ?_ _ _).trans ?_

@[simp] theorem State.sendDown_bytes (s : State) (x1 : _) (x2 : _) (x3 : _) (x4 : _) (x5 : _) (x6 : _) : (State.sendDown s x1 x2 x3 x4 x5 x6).bytes = s.bytes := by
  unfold State.sendDown
  repeat' first | with_reducible rfl | with_reducible assumption | intro _ | simp only [State.sendMsg_bytes, bytes_mk, bytes_eta, Iter.state_done, Iter.state_fmt, Iter.state_trap, Whole.state_ran, Whole.state_stopped, Whole.state_denied] | split | with_reducible refine (foldl_bytes _ ?_ _ _).trans ?_ | with_reducible refine (foldlB_bytes _ ?_ _ _).trans ?_ | with_reducible refine (foldl1_bytes _ ?_ _ _).trans ?_ | with_reducible refine (foldl2_bytes _ ?_ _ _).trans ?_

@[simp] theorem State.markDown_bytes (s : State) (x1 : _) (x2 : _) : (State.markDown s x1 x2).bytes = s.bytes := by
  unfold State.markDown
  repeat' first | with_reducible rfl | with_reducible assumption | intro _ | simp only [State.modSlot_bytes, bytes_mk, bytes_eta, Iter.state_done, Iter.state_fmt, Iter.state_trap, Whole.state_ran, Whole.state_stopped, Whole.state_denied] | split | with_reducible refine (foldl_bytes _ ?_ _ _).trans ?_

@[simp] theorem State.advance_bytes (s : State) (x1 : _) : (State.advance s x1).bytes = s.bytes := by
  unfold State.advance
  repeat' first | with_reducible rfl | with_reducible assumption | intro _ | simp only [State.failInstance_bytes, State.maybeClose_bytes, State.rootEnd_bytes, bytes_mk, bytes_eta, Iter.state_done, Iter.state_fmt, Iter.state_trap, Whole.state_ran, Whole.state_stopped, Whole.state_denied] | split | with_reducible refine (foldl_bytes _ ?_ _ _).trans ?_ | with_reducible refine (foldlB_bytes _ ?_ _ _).trans ?_ | with_reducible refine (foldl1_bytes _ ?_ _ _).trans ?_ | with_reducible refine (foldl2_bytes _ ?_ _ _).trans ?_

@[simp] theorem State.settleNorm_bytes (s : State) : (State.settleNorm s).bytes = s.bytes := by
  unfold State.settleNorm
  repeat' first | with_reducible rfl | with_reducible assumption | intro _ | simp only [State.failInstance_bytes, bytes_mk, bytes_eta, Iter.state_done, Iter.state_fmt, Iter.state_trap, Whole.state_ran, Whole.state_stopped, Whole.state_denied] | split | with_reducible refine (foldl_bytes _ ?_ _ _).trans ?_ | with_reducible refine (foldlB_bytes _ ?_ _ _).trans ?_ | with_reducible refine (foldl1_bytes _ ?_ _ _).trans ?_ | with_reducible refine (foldl2_bytes _ ?_ _ _).trans ?_

@[simp] theorem State.absentDown_bytes (s : State) (x1 : _) : (State.absentDown s x1).bytes = s.bytes := by
  unfold State.absentDown
  repeat' first | with_reducible rfl | with_reducible assumption | intro _ | simp only [State.markDown_bytes, State.modSlot_bytes, State.sendDown_bytes, bytes_mk, bytes_eta, Iter.state_done, Iter.state_fmt, Iter.state_trap, Whole.state_ran, Whole.state_stopped, Whole.state_denied] | split | with_reducible refine (foldl_bytes _ ?_ _ _).trans ?_ | with_reducible refine (foldlB_bytes _ ?_ _ _).trans ?_ | with_reducible refine (foldl1_bytes _ ?_ _ _).trans ?_ | with_reducible refine (foldl2_bytes _ ?_ _ _).trans ?_

@[simp] theorem State.addToken_bytes (s : State) (x1 : _) (x2 : _) (x3 : _) : (State.addToken s x1 x2 x3).bytes = s.bytes := by
  unfold State.addToken
  repeat' first | with_reducible rfl | with_reducible assumption | intro _ | simp only [State.bump_bytes, bytes_mk, bytes_eta, Iter.state_done, Iter.state_fmt, Iter.state_trap, Whole.state_ran, Whole.state_stopped, Whole.state_denied] | split | with_reducible refine (foldl_bytes _ ?_ _ _).trans ?_

@[simp] theorem State.modNorm_bytes (s : State) (x1 : _) (x2 : _) (x3 : _) : (State.modNorm s x1 x2 x3).bytes = s.bytes := by
  unfold State.modNorm
  repeat' first | with_reducible rfl | with_reducible assumption | intro _ | simp only [bytes_mk, bytes_eta, Iter.state_done, Iter.state_fmt, Iter.state_trap, Whole.state_ran, Whole.state_stopped, Whole.state_denied] | split | with_reducible refine (foldl_bytes _ ?_ _ _).trans ?_

@[simp] theorem State.normKnown_bytes (s : State) (x1 : _) (x2 : _) (x3 : _) : (State.normKnown s x1 x2 x3).bytes = s.bytes := by
  unfold State.normKnown
  repeat' first | with_reducible rfl | with_reducible assumption | intro _ | simp only [State.bump_bytes, State.modNorm_bytes, State.raise_bytes, bytes_mk, bytes_eta, Iter.state_done, Iter.state_fmt, Iter.state_trap, Whole.state_ran, Whole.state_stopped, Whole.state_denied] | split | with_reducible refine (foldl_bytes _ ?_ _ _).trans ?_

@[simp] theorem State.normForward_bytes (s : State) (x1 : _) (x2 : _) (x3 : _) : (State.normForward s x1 x2 x3).bytes = s.bytes := by
  unfold State.normForward
  repeat' first | with_reducible rfl | with_reducible assumption | intro _ | simp only [State.sendCtrl_bytes, bytes_mk, bytes_eta, Iter.state_done, Iter.state_fmt, Iter.state_trap, Whole.state_ran, Whole.state_stopped, Whole.state_denied] | split | with_reducible refine (foldl_bytes _ ?_ _ _).trans ?_

@[simp] theorem State.resultEffect_bytes (s : State) (x1 : _) (x2 : _) (x3 : _) (x4 : _) : (State.resultEffect s x1 x2 x3 x4).bytes = s.bytes := by
  unfold State.resultEffect
  repeat' first | with_reducible rfl | with_reducible assumption | intro _ | simp only [State.barrierResult_bytes, State.normForward_bytes, State.normKnown_bytes, bytes_mk, bytes_eta, Iter.state_done, Iter.state_fmt, Iter.state_trap, Whole.state_ran, Whole.state_stopped, Whole.state_denied] | split | with_reducible refine (foldl_bytes _ ?_ _ _).trans ?_

@[simp] theorem State.gatherFrom_bytes (s : State) (x1 : _) (x2 : _) (x3 : _) (x4 : _) : (State.gatherFrom s x1 x2 x3 x4).bytes = s.bytes := by
  unfold State.gatherFrom
  repeat' first | with_reducible rfl | with_reducible assumption | intro _ | simp only [State.markDown_bytes, State.modSlot_bytes, State.returnStaging_bytes, State.sendDown_bytes, bytes_mk, bytes_eta, Iter.state_done, Iter.state_fmt, Iter.state_trap, Whole.state_ran, Whole.state_stopped, Whole.state_denied] | split | with_reducible refine (foldl_bytes _ ?_ _ _).trans ?_

@[simp] theorem State.orderedUp_bytes (s : State) (x1 : _) (x2 : _) (x3 : _) (x4 : _) (x5 : _) (x6 : _) : (State.orderedUp s x1 x2 x3 x4 x5 x6).bytes = s.bytes := by
  unfold State.orderedUp
  repeat' first | with_reducible rfl | with_reducible assumption | intro _ | simp only [State.returnStaging_bytes, State.sendFirst_bytes, bytes_mk, bytes_eta, Iter.state_done, Iter.state_fmt, Iter.state_trap, Whole.state_ran, Whole.state_stopped, Whole.state_denied] | split | with_reducible refine (foldl_bytes _ ?_ _ _).trans ?_

theorem execPsumSend_bytes {s t : State} {x0 : BitVec 20} {x1 : Nat} (h : execPsumSend x0 x1 s = .next t) : t.bytes = s.bytes := by
  simp only [execPsumSend, Host.Outcome.next.injEq] at h
  subst h
  repeat' first | with_reducible rfl | with_reducible assumption | intro _ | simp only [State.bump_bytes, State.freeChunk_bytes, State.modSlot_bytes, State.sendFirst_bytes, State.sendMsg_bytes, bytes_mk, bytes_eta, Iter.state_done, Iter.state_fmt, Iter.state_trap, Whole.state_ran, Whole.state_stopped, Whole.state_denied] | split | with_reducible refine (foldl_bytes _ ?_ _ _).trans ?_

@[simp] theorem State.endOn_bytes (s : State) (x1 : _) (x2 : _) (x3 : _) (x4 : _) (x5 : _) : (State.endOn s x1 x2 x3 x4 x5).bytes = s.bytes := by
  unfold State.endOn
  repeat' first | with_reducible rfl | with_reducible assumption | intro _ | simp only [State.endDown_bytes, bytes_mk, bytes_eta, Iter.state_done, Iter.state_fmt, Iter.state_trap, Whole.state_ran, Whole.state_stopped, Whole.state_denied] | split | with_reducible refine (foldl_bytes _ ?_ _ _).trans ?_

@[simp] theorem State.endFail_bytes (s : State) (x1 : _) (x2 : _) (x3 : _) (x4 : _) (x5 : _) : (State.endFail s x1 x2 x3 x4 x5).bytes = s.bytes := by
  unfold State.endFail
  repeat' first | with_reducible rfl | with_reducible assumption | intro _ | simp only [State.closeSlot_bytes, State.endDown_bytes, State.endOn_bytes, bytes_mk, bytes_eta, Iter.state_done, Iter.state_fmt, Iter.state_trap, Whole.state_ran, Whole.state_stopped, Whole.state_denied] | split | with_reducible refine (foldl_bytes _ ?_ _ _).trans ?_ | with_reducible refine (foldlB_bytes _ ?_ _ _).trans ?_ | with_reducible refine (foldl1_bytes _ ?_ _ _).trans ?_ | with_reducible refine (foldl2_bytes _ ?_ _ _).trans ?_

@[simp] theorem State.endOpen_bytes (s : State) (x1 : _) (x2 : _) (x3 : _) (x4 : _) : (State.endOpen s x1 x2 x3 x4).bytes = s.bytes := by
  unfold State.endOpen
  repeat' first | with_reducible rfl | with_reducible assumption | intro _ | simp only [State.endFail_bytes, State.endOn_bytes, State.maybeClose_bytes, State.modSlot_bytes, bytes_mk, bytes_eta, Iter.state_done, Iter.state_fmt, Iter.state_trap, Whole.state_ran, Whole.state_stopped, Whole.state_denied] | split | with_reducible refine (foldl_bytes _ ?_ _ _).trans ?_

@[simp] theorem State.endFresh_bytes (s : State) (x1 : _) (x2 : _) (x3 : _) (x4 : _) : (State.endFresh s x1 x2 x3 x4).bytes = s.bytes := by
  unfold State.endFresh
  repeat' first | with_reducible rfl | with_reducible assumption | intro _ | simp only [State.endFail_bytes, State.modSlot_bytes, State.openSlot_bytes, bytes_mk, bytes_eta, Iter.state_done, Iter.state_fmt, Iter.state_trap, Whole.state_ran, Whole.state_stopped, Whole.state_denied] | split | with_reducible refine (foldl_bytes _ ?_ _ _).trans ?_

@[simp] theorem State.endNoted_bytes (s : State) (x1 : _) (x2 : _) (x3 : _) (x4 : _) : (State.endNoted s x1 x2 x3 x4).bytes = s.bytes := by
  unfold State.endNoted
  repeat' first | with_reducible rfl | with_reducible assumption | intro _ | simp only [State.modSlot_bytes, State.noteStatus_bytes, bytes_mk, bytes_eta, Iter.state_done, Iter.state_fmt, Iter.state_trap, Whole.state_ran, Whole.state_stopped, Whole.state_denied] | split | with_reducible refine (foldl_bytes _ ?_ _ _).trans ?_

@[simp] theorem State.endMatched_bytes (s : State) (x1 : _) (x2 : _) (x3 : _) (x4 : _) : (State.endMatched s x1 x2 x3 x4).bytes = s.bytes := by
  unfold State.endMatched
  repeat' first | with_reducible rfl | with_reducible assumption | intro _ | simp only [State.endNoted_bytes, State.endOpen_bytes, State.failInstance_bytes, bytes_mk, bytes_eta, Iter.state_done, Iter.state_fmt, Iter.state_trap, Whole.state_ran, Whole.state_stopped, Whole.state_denied] | split | with_reducible refine (foldl_bytes _ ?_ _ _).trans ?_

@[simp] theorem State.sendParts_bytes (s : State) (x1 : _) (x2 : _) (x3 : _) (x4 : _) (x5 : _) (x6 : _) : (State.sendParts s x1 x2 x3 x4 x5 x6).bytes = s.bytes := by
  unfold State.sendParts
  repeat' first | with_reducible rfl | with_reducible assumption | intro _ | simp only [State.sendMsg_bytes, bytes_mk, bytes_eta, Iter.state_done, Iter.state_fmt, Iter.state_trap, Whole.state_ran, Whole.state_stopped, Whole.state_denied] | split | with_reducible refine (foldl_bytes _ ?_ _ _).trans ?_ | with_reducible refine (foldlB_bytes _ ?_ _ _).trans ?_ | with_reducible refine (foldl1_bytes _ ?_ _ _).trans ?_ | with_reducible refine (foldl2_bytes _ ?_ _ _).trans ?_

@[simp] theorem State.setDisp_bytes (s : State) (x1 : _) (x2 : _) : (State.setDisp s x1 x2).bytes = s.bytes := by
  unfold State.setDisp
  repeat' first | with_reducible rfl | with_reducible assumption | intro _ | simp only [bytes_mk, bytes_eta, Iter.state_done, Iter.state_fmt, Iter.state_trap, Whole.state_ran, Whole.state_stopped, Whole.state_denied] | split | with_reducible refine (foldl_bytes _ ?_ _ _).trans ?_

@[simp] theorem State.dispLoads_bytes (s : State) (x1 : _) (x2 : _) (x3 : _) : (State.dispLoads s x1 x2 x3).2.bytes = s.bytes := by
  unfold State.dispLoads
  repeat' first | with_reducible rfl | with_reducible assumption | intro _ | simp only [State.bump_bytes, bytes_mk, bytes_eta, Iter.state_done, Iter.state_fmt, Iter.state_trap, Whole.state_ran, Whole.state_stopped, Whole.state_denied] | split | with_reducible refine (foldl_bytes _ ?_ _ _).trans ?_ | with_reducible refine (foldlB_bytes _ ?_ _ _).trans ?_ | with_reducible refine (foldl1_bytes _ ?_ _ _).trans ?_ | with_reducible refine (foldl2_bytes _ ?_ _ _).trans ?_

@[simp] theorem State.dispGrants_bytes (s : State) (x1 : _) (x2 : _) (x3 : _) (x4 : _) : (State.dispGrants s x1 x2 x3 x4).bytes = s.bytes := by
  unfold State.dispGrants
  repeat' first | with_reducible rfl | with_reducible assumption | intro _ | simp only [State.dispLoads_bytes, State.sendParts_bytes, State.setDisp_bytes, bytes_mk, bytes_eta, Iter.state_done, Iter.state_fmt, Iter.state_trap, Whole.state_ran, Whole.state_stopped, Whole.state_denied] | split | with_reducible refine (foldl_bytes _ ?_ _ _).trans ?_ | with_reducible refine (foldlB_bytes _ ?_ _ _).trans ?_ | with_reducible refine (foldl1_bytes _ ?_ _ _).trans ?_ | with_reducible refine (foldl2_bytes _ ?_ _ _).trans ?_

@[simp] theorem State.dispRowsTo_bytes (s : State) (x1 : _) (x2 : _) (x3 : _) (x4 : _) (x5 : _) (x6 : _) : (State.dispRowsTo s x1 x2 x3 x4 x5 x6).bytes = s.bytes := by
  unfold State.dispRowsTo
  repeat' first | with_reducible rfl | with_reducible assumption | intro _ | simp only [State.sendParts_bytes, State.setDisp_bytes, bytes_mk, bytes_eta, Iter.state_done, Iter.state_fmt, Iter.state_trap, Whole.state_ran, Whole.state_stopped, Whole.state_denied] | split | with_reducible refine (foldl_bytes _ ?_ _ _).trans ?_

@[simp] theorem State.dispRows_bytes (s : State) (x1 : _) (x2 : _) (x3 : _) (x4 : _) : (State.dispRows s x1 x2 x3 x4).bytes = s.bytes := by
  unfold State.dispRows
  repeat' first | with_reducible rfl | with_reducible assumption | intro _ | simp only [State.bump_bytes, State.dispRowsTo_bytes, State.setDisp_bytes, bytes_mk, bytes_eta, Iter.state_done, Iter.state_fmt, Iter.state_trap, Whole.state_ran, Whole.state_stopped, Whole.state_denied] | split | with_reducible refine (foldl_bytes _ ?_ _ _).trans ?_ | with_reducible refine (foldlB_bytes _ ?_ _ _).trans ?_ | with_reducible refine (foldl1_bytes _ ?_ _ _).trans ?_ | with_reducible refine (foldl2_bytes _ ?_ _ _).trans ?_

@[simp] theorem State.dispDeliver_bytes (s : State) (x1 : _) (x2 : _) (x3 : _) (x4 : _) (x5 : _) (x6 : _) (x7 : _) : (State.dispDeliver s x1 x2 x3 x4 x5 x6 x7).bytes = s.bytes := by
  unfold State.dispDeliver
  repeat' first | with_reducible rfl | with_reducible assumption | intro _ | simp only [State.sendParts_bytes, State.setDisp_bytes, bytes_mk, bytes_eta, Iter.state_done, Iter.state_fmt, Iter.state_trap, Whole.state_ran, Whole.state_stopped, Whole.state_denied] | split | with_reducible refine (foldl_bytes _ ?_ _ _).trans ?_

@[simp] theorem State.bwdRows_bytes (s : State) (x1 : _) (x2 : _) (x3 : _) (x4 : _) : (State.bwdRows s x1 x2 x3 x4).bytes = s.bytes := by
  unfold State.bwdRows
  repeat' first | with_reducible rfl | with_reducible assumption | intro _ | simp only [State.bump_bytes, State.dispRowsTo_bytes, State.setDisp_bytes, bytes_mk, bytes_eta, Iter.state_done, Iter.state_fmt, Iter.state_trap, Whole.state_ran, Whole.state_stopped, Whole.state_denied] | split | with_reducible refine (foldl_bytes _ ?_ _ _).trans ?_ | with_reducible refine (foldlB_bytes _ ?_ _ _).trans ?_ | with_reducible refine (foldl1_bytes _ ?_ _ _).trans ?_ | with_reducible refine (foldl2_bytes _ ?_ _ _).trans ?_

@[simp] theorem State.returnRows_bytes (s : State) (x1 : _) (x2 : _) (x3 : _) (x4 : _) : (State.returnRows s x1 x2 x3 x4).bytes = s.bytes := by
  unfold State.returnRows
  repeat' first | with_reducible rfl | with_reducible assumption | intro _ | simp only [State.sendParts_bytes, State.setDisp_bytes, bytes_mk, bytes_eta, Iter.state_done, Iter.state_fmt, Iter.state_trap, Whole.state_ran, Whole.state_stopped, Whole.state_denied] | split | with_reducible refine (foldl_bytes _ ?_ _ _).trans ?_ | with_reducible refine (foldlB_bytes _ ?_ _ _).trans ?_ | with_reducible refine (foldl1_bytes _ ?_ _ _).trans ?_ | with_reducible refine (foldl2_bytes _ ?_ _ _).trans ?_

@[simp] theorem State.combine_bytes (s : State) (x1 : _) (x2 : _) (x3 : _) (x4 : _) : (State.combine s x1 x2 x3 x4).bytes = s.bytes := by
  unfold State.combine
  repeat' first | with_reducible rfl | with_reducible assumption | intro _ | simp only [State.bump_bytes, State.sendParts_bytes, State.setDisp_bytes, bytes_mk, bytes_eta, Iter.state_done, Iter.state_fmt, Iter.state_trap, Whole.state_ran, Whole.state_stopped, Whole.state_denied] | split | with_reducible refine (foldl_bytes _ ?_ _ _).trans ?_

@[simp] theorem State.dispHostLost_bytes (s : State) (x1 : _) (x2 : _) (x3 : _) (x4 : _) : (State.dispHostLost s x1 x2 x3 x4).bytes = s.bytes := by
  unfold State.dispHostLost
  repeat' first | with_reducible rfl | with_reducible assumption | intro _ | simp only [State.bump_bytes, State.setDisp_bytes, bytes_mk, bytes_eta, Iter.state_done, Iter.state_fmt, Iter.state_trap, Whole.state_ran, Whole.state_stopped, Whole.state_denied] | split | with_reducible refine (foldl_bytes _ ?_ _ _).trans ?_

@[simp] theorem State.setSparse_bytes (s : State) (x1 : _) (x2 : _) : (State.setSparse s x1 x2).bytes = s.bytes := by
  unfold State.setSparse
  repeat' first | with_reducible rfl | with_reducible assumption | intro _ | simp only [bytes_mk, bytes_eta, Iter.state_done, Iter.state_fmt, Iter.state_trap, Whole.state_ran, Whole.state_stopped, Whole.state_denied] | split | with_reducible refine (foldl_bytes _ ?_ _ _).trans ?_

@[simp] theorem State.pass1_bytes (s : State) (x1 : _) (x2 : _) (x3 : _) (x4 : _) (x5 : _) : (State.pass1 s x1 x2 x3 x4 x5).bytes = s.bytes := by
  unfold State.pass1
  repeat' first | with_reducible rfl | with_reducible assumption | intro _ | simp only [State.bump_bytes, State.failInstance_bytes, State.setSparse_bytes, bytes_mk, bytes_eta, Iter.state_done, Iter.state_fmt, Iter.state_trap, Whole.state_ran, Whole.state_stopped, Whole.state_denied] | split | with_reducible refine (foldl_bytes _ ?_ _ _).trans ?_

@[simp] theorem State.pass1All_bytes (s : State) (x1 : _) (x2 : _) (x3 : _) (x4 : _) : (State.pass1All s x1 x2 x3 x4).bytes = s.bytes := by
  unfold State.pass1All
  repeat' first | with_reducible rfl | with_reducible assumption | intro _ | simp only [State.pass1_bytes, bytes_mk, bytes_eta, Iter.state_done, Iter.state_fmt, Iter.state_trap, Whole.state_ran, Whole.state_stopped, Whole.state_denied] | split | with_reducible refine (foldl_bytes _ ?_ _ _).trans ?_ | with_reducible refine (foldlB_bytes _ ?_ _ _).trans ?_ | with_reducible refine (foldl1_bytes _ ?_ _ _).trans ?_ | with_reducible refine (foldl2_bytes _ ?_ _ _).trans ?_

@[simp] theorem State.storeReceive_bytes (s : State) (x1 : _) (x2 : _) (x3 : _) (x4 : _) : (State.storeReceive s x1 x2 x3 x4).bytes = s.bytes := by
  unfold State.storeReceive
  repeat' first | with_reducible rfl | with_reducible assumption | intro _ | simp only [State.bump_bytes, State.mismatch_bytes, State.modSlot_bytes, State.returnStaging_bytes, State.storeChunk_bytes, bytes_mk, bytes_eta, Iter.state_done, Iter.state_fmt, Iter.state_trap, Whole.state_ran, Whole.state_stopped, Whole.state_denied] | with_reducible refine (State.takeCredit_bytes (by assumption)).trans ?_ | split | with_reducible refine (foldl_bytes _ ?_ _ _).trans ?_

@[simp] theorem State.launchReply_bytes (s : State) (x1 : _) (x2 : _) (x3 : _) (x4 : _) (x5 : _) (x6 : _) : (State.launchReply s x1 x2 x3 x4 x5 x6).bytes = s.bytes := by
  unfold State.launchReply
  repeat' first | with_reducible rfl | with_reducible assumption | intro _ | simp only [State.sendCtrl_bytes, bytes_mk, bytes_eta, Iter.state_done, Iter.state_fmt, Iter.state_trap, Whole.state_ran, Whole.state_stopped, Whole.state_denied] | split | with_reducible refine (foldl_bytes _ ?_ _ _).trans ?_

@[simp] theorem State.scalarToQueues_bytes (s : State) (x1 : _) (x2 : _) : (State.scalarToQueues s x1 x2).bytes = s.bytes := by
  unfold State.scalarToQueues
  repeat' first | with_reducible rfl | with_reducible assumption | intro _ | simp only [bytes_mk, bytes_eta, Iter.state_done, Iter.state_fmt, Iter.state_trap, Whole.state_ran, Whole.state_stopped, Whole.state_denied] | split | with_reducible refine (foldl_bytes _ ?_ _ _).trans ?_

@[simp] theorem State.join_bytes (s : State) (x1 : _) (x2 : _) (x3 : _) (x4 : _) : (State.join s x1 x2 x3 x4).bytes = s.bytes := by
  unfold State.join
  repeat' first | with_reducible rfl | with_reducible assumption | intro _ | simp only [State.scalarToQueues_bytes, State.setDisp_bytes, State.setSlot_bytes, bytes_mk, bytes_eta, Iter.state_done, Iter.state_fmt, Iter.state_trap, Whole.state_ran, Whole.state_stopped, Whole.state_denied] | split | with_reducible refine (foldl_bytes _ ?_ _ _).trans ?_

@[simp] theorem State.rugDone_bytes (s : State) (x1 : _) (x2 : _) (x3 : _) (x4 : _) (x5 : _) : (State.rugDone s x1 x2 x3 x4 x5).bytes = s.bytes := by
  unfold State.rugDone
  repeat' first | with_reducible rfl | with_reducible assumption | intro _ | simp only [State.gatherBytes_bytes, State.markDown_bytes, State.modSlot_bytes, State.sendDown_bytes, bytes_mk, bytes_eta, Iter.state_done, Iter.state_fmt, Iter.state_trap, Whole.state_ran, Whole.state_stopped, Whole.state_denied] | split | with_reducible refine (foldl_bytes _ ?_ _ _).trans ?_

@[simp] theorem State.overlap_bytes (s : State) (x1 : _) (x2 : _) : (State.overlap s x1 x2).bytes = s.bytes := by
  unfold State.overlap
  repeat' first | with_reducible rfl | with_reducible assumption | intro _ | simp only [State.failInstance_bytes, State.raise_bytes, bytes_mk, bytes_eta, Iter.state_done, Iter.state_fmt, Iter.state_trap, Whole.state_ran, Whole.state_stopped, Whole.state_denied] | split | with_reducible refine (foldl_bytes _ ?_ _ _).trans ?_

@[simp] theorem State.meetUpsets_bytes (s : State) (x1 : _) : (State.meetUpsets s x1).bytes = s.bytes := by
  unfold State.meetUpsets
  repeat' first | with_reducible rfl | with_reducible assumption | intro _ | simp only [State.upset_bytes, bytes_mk, bytes_eta, Iter.state_done, Iter.state_fmt, Iter.state_trap, Whole.state_ran, Whole.state_stopped, Whole.state_denied] | split | with_reducible refine (foldl_bytes _ ?_ _ _).trans ?_ | with_reducible refine (foldlB_bytes _ ?_ _ _).trans ?_ | with_reducible refine (foldl1_bytes _ ?_ _ _).trans ?_ | with_reducible refine (foldl2_bytes _ ?_ _ _).trans ?_

theorem execNormResult_bytes {s t : State} {x0 : BitVec 20} {x1 : BitVec 32} {x2 : Nat} (h : execNormResult x0 x1 x2 s = .next t) : t.bytes = s.bytes := by
  simp only [execNormResult, Host.Outcome.next.injEq] at h
  subst h
  repeat' first | with_reducible rfl | with_reducible assumption | intro _ | simp only [State.normKnown_bytes, State.takeCtrl_bytes, bytes_mk, bytes_eta, Iter.state_done, Iter.state_fmt, Iter.state_trap, Whole.state_ran, Whole.state_stopped, Whole.state_denied] | split | with_reducible refine (foldl_bytes _ ?_ _ _).trans ?_

theorem execDigestSend_bytes {s t : State} {x0 : Nat} (h : execDigestSend x0 s = .next t) : t.bytes = s.bytes := by
  simp only [execDigestSend, Host.Outcome.next.injEq] at h
  subst h
  repeat' first | with_reducible rfl | with_reducible assumption | intro _ | simp only [State.exchange_bytes, State.sendCtrl_bytes, bytes_mk, bytes_eta, Iter.state_done, Iter.state_fmt, Iter.state_trap, Whole.state_ran, Whole.state_stopped, Whole.state_denied] | split | with_reducible refine (foldl_bytes _ ?_ _ _).trans ?_

@[simp] theorem State.keptNotice_bytes (s : State) : (State.keptNotice s).bytes = s.bytes := by
  unfold State.keptNotice
  repeat' first | with_reducible rfl | with_reducible assumption | intro _ | simp only [State.commit_bytes, bytes_mk, bytes_eta, Iter.state_done, Iter.state_fmt, Iter.state_trap, Whole.state_ran, Whole.state_stopped, Whole.state_denied] | split | with_reducible refine (foldl_bytes _ ?_ _ _).trans ?_

@[simp] theorem State.resilverFails_bytes (s : State) : (State.resilverFails s).bytes = s.bytes := by
  unfold State.resilverFails
  repeat' first | with_reducible rfl | with_reducible assumption | intro _ | simp only [State.raise_bytes, bytes_mk, bytes_eta, Iter.state_done, Iter.state_fmt, Iter.state_trap, Whole.state_ran, Whole.state_stopped, Whole.state_denied] | split | with_reducible refine (foldl_bytes _ ?_ _ _).trans ?_

@[simp] theorem State.resilverNotice_bytes (s : State) (x1 : _) (x2 : _) (x3 : _) : (State.resilverNotice s x1 x2 x3).bytes = s.bytes := by
  unfold State.resilverNotice
  repeat' first | with_reducible rfl | with_reducible assumption | intro _ | simp only [State.raise_bytes, State.resilverFails_bytes, State.sendCtrl_bytes, bytes_mk, bytes_eta, Iter.state_done, Iter.state_fmt, Iter.state_trap, Whole.state_ran, Whole.state_stopped, Whole.state_denied] | split | with_reducible refine (foldl_bytes _ ?_ _ _).trans ?_

theorem execCommitNotice_bytes {s t : State} {x0 : Nat} {x1 : List Sys2Proof.Byte} (h : execCommitNotice x0 x1 s = .next t) : t.bytes = s.bytes := by
  simp only [execCommitNotice, Host.Outcome.next.injEq] at h
  subst h
  repeat' first | with_reducible rfl | with_reducible assumption | intro _ | simp only [State.commit_bytes, State.resilverNotice_bytes, State.takeCtrl_bytes, bytes_mk, bytes_eta, Iter.state_done, Iter.state_fmt, Iter.state_trap, Whole.state_ran, Whole.state_stopped, Whole.state_denied] | split | with_reducible refine (foldl_bytes _ ?_ _ _).trans ?_

theorem execCommitOnReady_bytes {s t : State} (h : execCommitOnReady s = .next t) : t.bytes = s.bytes := by
  simp only [execCommitOnReady, Host.Outcome.next.injEq] at h
  subst h
  repeat' first | with_reducible rfl | with_reducible assumption | intro _ | simp only [State.keptNotice_bytes, bytes_mk, bytes_eta, Iter.state_done, Iter.state_fmt, Iter.state_trap, Whole.state_ran, Whole.state_stopped, Whole.state_denied] | split | with_reducible refine (foldl_bytes _ ?_ _ _).trans ?_

@[simp] theorem Body.land_bytes (b : Body) (x1 : _) : (Body.land b x1).s.bytes = b.s.bytes := by
  unfold Body.land
  repeat' first | with_reducible rfl | with_reducible assumption | intro _ | simp only [bytes_mk, bytes_eta, Iter.state_done, Iter.state_fmt, Iter.state_trap, Whole.state_ran, Whole.state_stopped, Whole.state_denied] | split | with_reducible refine (foldl_bytes _ ?_ _ _).trans ?_ | with_reducible refine (foldlB_bytes _ ?_ _ _).trans ?_ | with_reducible refine (foldl1_bytes _ ?_ _ _).trans ?_ | with_reducible refine (foldl2_bytes _ ?_ _ _).trans ?_

@[simp] theorem Body.sources_bytes (b : Body) (x1 : _) (x2 : _) (x3 : _) (x4 : _) : (Body.sources b x1 x2 x3 x4).s.bytes = b.s.bytes := by
  unfold Body.sources
  repeat' first | with_reducible rfl | with_reducible assumption | intro _ | simp only [bytes_mk, bytes_eta, Iter.state_done, Iter.state_fmt, Iter.state_trap, Whole.state_ran, Whole.state_stopped, Whole.state_denied] | split | with_reducible refine (foldl_bytes _ ?_ _ _).trans ?_

@[simp] theorem Body.load_bytes (b : Body) (x1 : _) (x2 : _) : (Body.load b x1 x2).1.s.bytes = b.s.bytes := by
  unfold Body.load
  repeat' first | with_reducible rfl | with_reducible assumption | intro _ | simp only [bytes_mk, bytes_eta, Iter.state_done, Iter.state_fmt, Iter.state_trap, Whole.state_ran, Whole.state_stopped, Whole.state_denied] | split | with_reducible refine (foldl_bytes _ ?_ _ _).trans ?_

@[simp] theorem Body.slotA_bytes (b : Body) (x1 : _) (x2 : _) (x3 : _) (x4 : _) : (Body.slotA b x1 x2 x3 x4).1.s.bytes = b.s.bytes := by
  unfold Body.slotA
  repeat' first | with_reducible rfl | with_reducible assumption | intro _ | simp only [Body.sources_bytes, bytes_mk, bytes_eta, Iter.state_done, Iter.state_fmt, Iter.state_trap, Whole.state_ran, Whole.state_stopped, Whole.state_denied] | split | with_reducible refine (foldl_bytes _ ?_ _ _).trans ?_

@[simp] theorem State.mxStop_bytes (s : State) : (State.mxStop s).state.bytes = s.bytes := by
  unfold State.mxStop
  repeat' first | with_reducible rfl | with_reducible assumption | intro _ | simp only [State.bump_bytes, bytes_mk, bytes_eta, Iter.state_done, Iter.state_fmt, Iter.state_trap, Whole.state_ran, Whole.state_stopped, Whole.state_denied] | split | with_reducible refine (foldl_bytes _ ?_ _ _).trans ?_

@[simp] theorem State.modQ_bytes (s : State) (x1 : _) (x2 : _) (x3 : _) : (State.modQ s x1 x2 x3).bytes = s.bytes := by
  unfold State.modQ
  repeat' first | with_reducible rfl | with_reducible assumption | intro _ | simp only [bytes_mk, bytes_eta, Iter.state_done, Iter.state_fmt, Iter.state_trap, Whole.state_ran, Whole.state_stopped, Whole.state_denied] | split | with_reducible refine (foldl_bytes _ ?_ _ _).trans ?_

theorem State.reading_bytes {s : State} {d : Descr} {l : List (List Nat)} {f : List Nat → Whole}
    (h : ∀ cs, ((f cs).state s).bytes = s.bytes) : ((s.reading d l f).state s).bytes = s.bytes := by
  unfold State.reading
  split
  · exact h _
  · rfl

theorem Whole.andThen_bytes {s : State} {w : Whole} {f : State → Whole} (hw : (w.state s).bytes = s.bytes)
    (h : ∀ t, ((f t).state t).bytes = t.bytes) : ((w.andThen f).state s).bytes = s.bytes := by
  cases w with
  | ran t =>
    refine Eq.trans ?_ hw
    have e := h t
    show ((f t).state s).bytes = t.bytes
    cases hf : f t with
    | denied => exact hw.symm
    | ran u => rw [hf] at e; exact e
    | stopped u => rw [hf] at e; exact e
  | stopped t => exact hw
  | denied => rfl

theorem Whole.goodIf_bytes {s : State} {w : Whole} {b : Bool} (hw : (w.state s).bytes = s.bytes) : ((w.goodIf b).state s).bytes = s.bytes := by
  rw [Whole.goodIf_state, hw]

@[simp] theorem State.sendWrite_bytes (s : State) (x1 : _) (x2 : _) (x3 : _) (x4 : _) (x5 : _) : (State.sendWrite s x1 x2 x3 x4 x5).bytes = s.bytes := by
  unfold State.sendWrite
  repeat' first | with_reducible rfl | with_reducible assumption | intro _ | simp only [State.sendMessage_bytes, bytes_mk, bytes_eta, Iter.state_done, Iter.state_fmt, Iter.state_trap, Whole.state_ran, Whole.state_stopped, Whole.state_denied] | split | with_reducible refine (foldl_bytes _ ?_ _ _).trans ?_

@[simp] theorem State.controlOp_bytes (s : State) (x1 : _) (x2 : _) (x3 : _) (x4 : _) : (State.controlOp s x1 x2 x3 x4).state.bytes = s.bytes := by
  unfold State.controlOp
  repeat' first | with_reducible rfl | with_reducible assumption | intro _ | simp only [State.bump_bytes, State.modQ_bytes, bytes_mk, bytes_eta, Iter.state_done, Iter.state_fmt, Iter.state_trap, Whole.state_ran, Whole.state_stopped, Whole.state_denied] | split | with_reducible refine (foldl_bytes _ ?_ _ _).trans ?_

@[simp] theorem State.unsound_bytes (s : State) (x1 : _) : (State.unsound s x1).state.bytes = s.bytes := by
  unfold State.unsound
  repeat' first | with_reducible rfl | with_reducible assumption | intro _ | simp only [State.mxStop_bytes, bytes_mk, bytes_eta, Iter.state_done, Iter.state_fmt, Iter.state_trap, Whole.state_ran, Whole.state_stopped, Whole.state_denied] | split | with_reducible refine (foldl_bytes _ ?_ _ _).trans ?_

@[simp] theorem State.skipIter_bytes (s : State) (x1 : _) (x2 : _) (x3 : _) : (State.skipIter s x1 x2 x3).state.bytes = s.bytes := by
  unfold State.skipIter
  repeat' first | with_reducible rfl | with_reducible assumption | intro _ | simp only [State.sendWrite_bytes, bytes_mk, bytes_eta, Iter.state_done, Iter.state_fmt, Iter.state_trap, Whole.state_ran, Whole.state_stopped, Whole.state_denied] | split | with_reducible refine (foldl_bytes _ ?_ _ _).trans ?_

@[simp] theorem State.withBank_bytes (s : State) (x1 : _) : (State.withBank s x1).bytes = s.bytes := by
  unfold State.withBank
  repeat' first | with_reducible rfl | with_reducible assumption | intro _ | simp only [bytes_mk, bytes_eta, Iter.state_done, Iter.state_fmt, Iter.state_trap, Whole.state_ran, Whole.state_stopped, Whole.state_denied] | split | with_reducible refine (foldl_bytes _ ?_ _ _).trans ?_

@[simp] theorem Iter.restore_bytes (b : Bool) (i : Iter) : (i.restore b).state.bytes = i.state.bytes := by
  cases i <;> rfl

@[simp] theorem State.iterated_bytes (s : State) (x1 : _) (x2 : _) (x3 : _) (x4 : _) : (State.iterated s x1 x2 x3 x4).bytes = s.bytes := by
  unfold State.iterated
  repeat' first | with_reducible rfl | with_reducible assumption | intro _ | simp only [State.addToken_bytes, State.modQ_bytes, bytes_mk, bytes_eta, Iter.state_done, Iter.state_fmt, Iter.state_trap, Whole.state_ran, Whole.state_stopped, Whole.state_denied] | split | with_reducible refine (foldl_bytes _ ?_ _ _).trans ?_ | with_reducible refine (foldlB_bytes _ ?_ _ _).trans ?_ | with_reducible refine (foldl1_bytes _ ?_ _ _).trans ?_ | with_reducible refine (foldl2_bytes _ ?_ _ _).trans ?_

theorem execOpIssue_bytes {s t : State} {x0 : BitVec 20} {x1 : Nat} (h : execOpIssue x0 x1 s = .next t) : t.bytes = s.bytes := by
  simp only [execOpIssue, Host.Outcome.next.injEq] at h
  subst h
  repeat' first | with_reducible rfl | with_reducible assumption | intro _ | simp only [State.bump_bytes, State.modQ_bytes, bytes_mk, bytes_eta, Iter.state_done, Iter.state_fmt, Iter.state_trap, Whole.state_ran, Whole.state_stopped, Whole.state_denied] | split | with_reducible refine (foldl_bytes _ ?_ _ _).trans ?_

@[simp] theorem State.busWrite_bytes (s : State) (x1 : _) (x2 : _) : (State.busWrite s x1 x2).bytes = s.bytes := by
  unfold State.busWrite
  repeat' first | with_reducible rfl | with_reducible assumption | intro _ | simp only [State.emit_bytes, bytes_mk, bytes_eta, Iter.state_done, Iter.state_fmt, Iter.state_trap, Whole.state_ran, Whole.state_stopped, Whole.state_denied] | split | with_reducible refine (foldl_bytes _ ?_ _ _).trans ?_

@[simp] theorem State.setRing_bytes (s : State) (x1 : _) (x2 : _) : (State.setRing s x1 x2).bytes = s.bytes := by
  unfold State.setRing
  repeat' first | with_reducible rfl | with_reducible assumption | intro _ | simp only [bytes_mk, bytes_eta, Iter.state_done, Iter.state_fmt, Iter.state_trap, Whole.state_ran, Whole.state_stopped, Whole.state_denied] | split | with_reducible refine (foldl_bytes _ ?_ _ _).trans ?_

@[simp] theorem State.ringError_bytes (s : State) (x1 : _) : (State.ringError s x1).bytes = s.bytes := by
  unfold State.ringError
  repeat' first | with_reducible rfl | with_reducible assumption | intro _ | simp only [State.raise_bytes, State.setRing_bytes, bytes_mk, bytes_eta, Iter.state_done, Iter.state_fmt, Iter.state_trap, Whole.state_ran, Whole.state_stopped, Whole.state_denied] | split | with_reducible refine (foldl_bytes _ ?_ _ _).trans ?_

@[simp] theorem State.interrupt_bytes (s : State) (x1 : _) : (State.interrupt s x1).bytes = s.bytes := by
  unfold State.interrupt
  repeat' first | with_reducible rfl | with_reducible assumption | intro _ | simp only [State.emit_bytes, State.wr_bytes, bytes_mk, bytes_eta, Iter.state_done, Iter.state_fmt, Iter.state_trap, Whole.state_ran, Whole.state_stopped, Whole.state_denied] | split | with_reducible refine (foldl_bytes _ ?_ _ _).trans ?_

@[simp] theorem State.msiWrite_bytes (s : State) (x1 : _) (x2 : _) : (State.msiWrite s x1 x2).bytes = s.bytes := by
  unfold State.msiWrite
  repeat' first | with_reducible rfl | with_reducible assumption | intro _ | simp only [State.interrupt_bytes, State.wr_bytes, bytes_mk, bytes_eta, Iter.state_done, Iter.state_fmt, Iter.state_trap, Whole.state_ran, Whole.state_stopped, Whole.state_denied] | split | with_reducible refine (foldl_bytes _ ?_ _ _).trans ?_

@[simp] theorem State.writeHeld_bytes (s : State) (x1 : _) : (State.writeHeld s x1).1.bytes = s.bytes := by
  unfold State.writeHeld
  repeat' first | with_reducible rfl | with_reducible assumption | intro _ | simp only [State.emit_bytes, State.setRing_bytes, bytes_mk, bytes_eta, Iter.state_done, Iter.state_fmt, Iter.state_trap, Whole.state_ran, Whole.state_stopped, Whole.state_denied] | split | with_reducible refine (foldl_bytes _ ?_ _ _).trans ?_

@[simp] theorem flushAux_bytes (cq n : Nat) (r : State × Bool) : (State.flushAux cq n r).1.bytes = r.1.bytes := by
  induction n generalizing r with
  | zero => rfl
  | succ n ih =>
    obtain ⟨s, any⟩ := r
    have e := State.writeHeld_bytes s cq
    cases hw : s.writeHeld cq with
    | mk t did =>
      rw [hw] at e
      simp only [State.flushAux, hw]
      split
      · rw [ih]; exact e
      · rfl

@[simp] theorem State.flushCq_bytes (s : State) (cq : Nat) : (s.flushCq cq).bytes = s.bytes := by
  simp only [State.flushCq]
  split <;> simp only [State.interrupt_bytes, flushAux_bytes]

@[simp] theorem State.trace_bytes (s : State) (x1 : _) (x2 : _) (x3 : _) (x4 : _) : (State.trace s x1 x2 x3 x4).bytes = s.bytes := by
  unfold State.trace
  repeat' first | with_reducible rfl | with_reducible assumption | intro _ | simp only [State.bump_bytes, State.draw_bytes, State.emit_bytes, bytes_mk, bytes_eta, Iter.state_done, Iter.state_fmt, Iter.state_trap, Whole.state_ran, Whole.state_stopped, Whole.state_denied] | split | with_reducible refine (foldl_bytes _ ?_ _ _).trans ?_

@[simp] theorem State.complete_bytes (s : State) (x1 : _) (x2 : _) (x3 : _) (x4 : _) (x5 : _) : (State.complete s x1 x2 x3 x4 x5).bytes = s.bytes := by
  unfold State.complete
  repeat' first | with_reducible rfl | with_reducible assumption | intro _ | simp only [State.flushCq_bytes, State.setRing_bytes, State.trace_bytes, bytes_mk, bytes_eta, Iter.state_done, Iter.state_fmt, Iter.state_trap, Whole.state_ran, Whole.state_stopped, Whole.state_denied] | split | with_reducible refine (foldl_bytes _ ?_ _ _).trans ?_

@[simp] theorem State.fail_bytes (s : State) (x1 : _) (x2 : _) (x3 : _) : (State.fail s x1 x2 x3).bytes = s.bytes := by
  unfold State.fail
  repeat' first | with_reducible rfl | with_reducible assumption | intro _ | simp only [State.complete_bytes, bytes_mk, bytes_eta, Iter.state_done, Iter.state_fmt, Iter.state_trap, Whole.state_ran, Whole.state_stopped, Whole.state_denied] | split | with_reducible refine (foldl_bytes _ ?_ _ _).trans ?_

@[simp] theorem State.ok_bytes (s : State) (x1 : _) (x2 : _) (x3 : _) : (State.ok s x1 x2 x3).bytes = s.bytes := by
  unfold State.ok
  repeat' first | with_reducible rfl | with_reducible assumption | intro _ | simp only [State.complete_bytes, bytes_mk, bytes_eta, Iter.state_done, Iter.state_fmt, Iter.state_trap, Whole.state_ran, Whole.state_stopped, Whole.state_denied] | split | with_reducible refine (foldl_bytes _ ?_ _ _).trans ?_

@[simp] theorem State.sqBell_bytes (s : State) (x1 : _) (x2 : _) : (State.sqBell s x1 x2).bytes = s.bytes := by
  unfold State.sqBell
  repeat' first | with_reducible rfl | with_reducible assumption | intro _ | simp only [State.ringError_bytes, State.setRing_bytes, bytes_mk, bytes_eta, Iter.state_done, Iter.state_fmt, Iter.state_trap, Whole.state_ran, Whole.state_stopped, Whole.state_denied] | split | with_reducible refine (foldl_bytes _ ?_ _ _).trans ?_

@[simp] theorem State.cqBell_bytes (s : State) (x1 : _) (x2 : _) : (State.cqBell s x1 x2).bytes = s.bytes := by
  unfold State.cqBell
  repeat' first | with_reducible rfl | with_reducible assumption | intro _ | simp only [State.flushCq_bytes, State.ringError_bytes, State.setRing_bytes, bytes_mk, bytes_eta, Iter.state_done, Iter.state_fmt, Iter.state_trap, Whole.state_ran, Whole.state_stopped, Whole.state_denied] | split | with_reducible refine (foldl_bytes _ ?_ _ _).trans ?_

@[simp] theorem State.ringWrite_bytes (s : State) (x1 : _) (x2 : _) : (State.ringWrite s x1 x2).bytes = s.bytes := by
  unfold State.ringWrite
  repeat' first | with_reducible rfl | with_reducible assumption | intro _ | simp only [State.flushCq_bytes, State.raise_bytes, State.setRing_bytes, bytes_mk, bytes_eta, Iter.state_done, Iter.state_fmt, Iter.state_trap, Whole.state_ran, Whole.state_stopped, Whole.state_denied] | split | with_reducible refine (foldl_bytes _ ?_ _ _).trans ?_

theorem execSqDoorbell_bytes {s t : State} {x0 : Nat} {x1 : Sys2Proof.Word} (h : execSqDoorbell x0 x1 s = .next t) : t.bytes = s.bytes := by
  simp only [execSqDoorbell, Host.Outcome.next.injEq] at h
  subst h
  repeat' first | with_reducible rfl | with_reducible assumption | intro _ | simp only [State.sqBell_bytes, bytes_mk, bytes_eta, Iter.state_done, Iter.state_fmt, Iter.state_trap, Whole.state_ran, Whole.state_stopped, Whole.state_denied] | split | with_reducible refine (foldl_bytes _ ?_ _ _).trans ?_

theorem execCqDoorbell_bytes {s t : State} {x0 : Nat} {x1 : Sys2Proof.Word} (h : execCqDoorbell x0 x1 s = .next t) : t.bytes = s.bytes := by
  simp only [execCqDoorbell, Host.Outcome.next.injEq] at h
  subst h
  repeat' first | with_reducible rfl | with_reducible assumption | intro _ | simp only [State.cqBell_bytes, bytes_mk, bytes_eta, Iter.state_done, Iter.state_fmt, Iter.state_trap, Whole.state_ran, Whole.state_stopped, Whole.state_denied] | split | with_reducible refine (foldl_bytes _ ?_ _ _).trans ?_

theorem execRingConfigWrite_bytes {s t : State} {x0 : Nat} {x1 : Sys2Proof.Word} (h : execRingConfigWrite x0 x1 s = .next t) : t.bytes = s.bytes := by
  simp only [execRingConfigWrite, Host.Outcome.next.injEq] at h
  subst h
  repeat' first | with_reducible rfl | with_reducible assumption | intro _ | simp only [State.ringWrite_bytes, bytes_mk, bytes_eta, Iter.state_done, Iter.state_fmt, Iter.state_trap, Whole.state_ran, Whole.state_stopped, Whole.state_denied] | split | with_reducible refine (foldl_bytes _ ?_ _ _).trans ?_

theorem execMsiUnmask_bytes {s t : State} {x0 : Nat} {x1 : Sys2Proof.Word} (h : execMsiUnmask x0 x1 s = .next t) : t.bytes = s.bytes := by
  simp only [execMsiUnmask, Host.Outcome.next.injEq] at h
  subst h
  repeat' first | with_reducible rfl | with_reducible assumption | intro _ | simp only [State.msiWrite_bytes, bytes_mk, bytes_eta, Iter.state_done, Iter.state_fmt, Iter.state_trap, Whole.state_ran, Whole.state_stopped, Whole.state_denied] | split | with_reducible refine (foldl_bytes _ ?_ _ _).trans ?_

theorem execSqEntryFetch_bytes {s t : State} {x0 : Nat} {x1 : List Sys2Proof.Byte} (h : execSqEntryFetch x0 x1 s = .next t) : t.bytes = s.bytes := by
  simp only [execSqEntryFetch, Host.Outcome.next.injEq] at h
  subst h
  repeat' first | with_reducible rfl | with_reducible assumption | intro _ | simp only [State.fail_bytes, State.setRing_bytes, State.trace_bytes, bytes_mk, bytes_eta, Iter.state_done, Iter.state_fmt, Iter.state_trap, Whole.state_ran, Whole.state_stopped, Whole.state_denied] | split | with_reducible refine (foldl_bytes _ ?_ _ _).trans ?_

@[simp] theorem State.refuseAt_bytes (s : State) (x1 : _) (x2 : _) (x3 : _) : (State.refuseAt s x1 x2 x3).bytes = s.bytes := by
  unfold State.refuseAt
  repeat' first | with_reducible rfl | with_reducible assumption | intro _ | simp only [State.fail_bytes, bytes_mk, bytes_eta, Iter.state_done, Iter.state_fmt, Iter.state_trap, Whole.state_ran, Whole.state_stopped, Whole.state_denied] | split | with_reducible refine (foldl_bytes _ ?_ _ _).trans ?_ | with_reducible refine (foldlB_bytes _ ?_ _ _).trans ?_ | with_reducible refine (foldl1_bytes _ ?_ _ _).trans ?_ | with_reducible refine (foldl2_bytes _ ?_ _ _).trans ?_

@[simp] theorem State.answer_bytes (s : State) (x1 : _) (x2 : _) (x3 : _) : (State.answer s x1 x2 x3).bytes = s.bytes := by
  unfold State.answer
  repeat' first | with_reducible rfl | with_reducible assumption | intro _ | simp only [State.emit_bytes, State.fail_bytes, State.ok_bytes, bytes_mk, bytes_eta, Iter.state_done, Iter.state_fmt, Iter.state_trap, Whole.state_ran, Whole.state_stopped, Whole.state_denied] | split | with_reducible refine (foldl_bytes _ ?_ _ _).trans ?_

@[simp] theorem State.sparseForget_bytes (s : State) (x1 : _) (x2 : _) (x3 : _) : (State.sparseForget s x1 x2 x3).bytes = s.bytes := by
  unfold State.sparseForget
  repeat' first | with_reducible rfl | with_reducible assumption | intro _ | simp only [State.pass1_bytes, State.setSparse_bytes, bytes_mk, bytes_eta, Iter.state_done, Iter.state_fmt, Iter.state_trap, Whole.state_ran, Whole.state_stopped, Whole.state_denied] | split | with_reducible refine (foldl_bytes _ ?_ _ _).trans ?_ | with_reducible refine (foldlB_bytes _ ?_ _ _).trans ?_ | with_reducible refine (foldl1_bytes _ ?_ _ _).trans ?_ | with_reducible refine (foldl2_bytes _ ?_ _ _).trans ?_

@[simp] theorem State.memberLost_bytes (s : State) (x1 : _) (x2 : _) : (State.memberLost s x1 x2).bytes = s.bytes := by
  unfold State.memberLost
  repeat' first | with_reducible rfl | with_reducible assumption | intro _ | simp only [State.absentDown_bytes, State.failInstance_bytes, State.setSlot_bytes, State.sparseForget_bytes, bytes_mk, bytes_eta, Iter.state_done, Iter.state_fmt, Iter.state_trap, Whole.state_ran, Whole.state_stopped, Whole.state_denied] | split | with_reducible refine (foldl_bytes _ ?_ _ _).trans ?_

@[simp] theorem State.treeLost_bytes (s : State) (x1 : _) (x2 : _) : (State.treeLost s x1 x2).bytes = s.bytes := by
  unfold State.treeLost
  repeat' first | with_reducible rfl | with_reducible assumption | intro _ | simp only [State.failInstance_bytes, bytes_mk, bytes_eta, Iter.state_done, Iter.state_fmt, Iter.state_trap, Whole.state_ran, Whole.state_stopped, Whole.state_denied] | split | with_reducible refine (foldl_bytes _ ?_ _ _).trans ?_

@[simp] theorem State.dequeue_bytes (s : State) (x1 : _) (x2 : _) : (State.dequeue s x1 x2).bytes = s.bytes := by
  unfold State.dequeue
  repeat' first | with_reducible rfl | with_reducible assumption | intro _ | simp only [State.dropRef_bytes, State.setQueue_bytes, bytes_mk, bytes_eta, Iter.state_done, Iter.state_fmt, Iter.state_trap, Whole.state_ran, Whole.state_stopped, Whole.state_denied] | split | with_reducible refine (foldl_bytes _ ?_ _ _).trans ?_

@[simp] theorem State.sweepQueues_bytes (s : State) (x1 : _) : (State.sweepQueues s x1).bytes = s.bytes := by
  unfold State.sweepQueues
  repeat' first | with_reducible rfl | with_reducible assumption | intro _ | simp only [State.dequeue_bytes, State.dropRef_bytes, bytes_mk, bytes_eta, Iter.state_done, Iter.state_fmt, Iter.state_trap, Whole.state_ran, Whole.state_stopped, Whole.state_denied] | split | with_reducible refine (foldl_bytes _ ?_ _ _).trans ?_ | with_reducible refine (foldlB_bytes _ ?_ _ _).trans ?_ | with_reducible refine (foldl1_bytes _ ?_ _ _).trans ?_ | with_reducible refine (foldl2_bytes _ ?_ _ _).trans ?_

@[simp] theorem State.sweepStreams_bytes (s : State) (x1 : _) : (State.sweepStreams s x1).bytes = s.bytes := by
  unfold State.sweepStreams
  repeat' first | with_reducible rfl | with_reducible assumption | intro _ | simp only [State.dropTx_bytes, State.release_bytes, bytes_mk, bytes_eta, Iter.state_done, Iter.state_fmt, Iter.state_trap, Whole.state_ran, Whole.state_stopped, Whole.state_denied] | split | with_reducible refine (foldl_bytes _ ?_ _ _).trans ?_ | with_reducible refine (foldlB_bytes _ ?_ _ _).trans ?_ | with_reducible refine (foldl1_bytes _ ?_ _ _).trans ?_ | with_reducible refine (foldl2_bytes _ ?_ _ _).trans ?_

@[simp] theorem State.setFenced_bytes (s : State) (x1 : _) (x2 : _) (x3 : _) (x4 : _) : (State.setFenced s x1 x2 x3 x4).bytes = s.bytes := by
  unfold State.setFenced
  repeat' first | with_reducible rfl | with_reducible assumption | intro _ | simp only [State.modParty_bytes, bytes_mk, bytes_eta, Iter.state_done, Iter.state_fmt, Iter.state_trap, Whole.state_ran, Whole.state_stopped, Whole.state_denied] | split | with_reducible refine (foldl_bytes _ ?_ _ _).trans ?_

@[simp] theorem State.notify_bytes (s : State) (x1 : _) (x2 : _) : (State.notify s x1 x2).bytes = s.bytes := by
  unfold State.notify
  repeat' first | with_reducible rfl | with_reducible assumption | intro _ | simp only [State.sendCtrl_bytes, bytes_mk, bytes_eta, Iter.state_done, Iter.state_fmt, Iter.state_trap, Whole.state_ran, Whole.state_stopped, Whole.state_denied] | split | with_reducible refine (foldl_bytes _ ?_ _ _).trans ?_ | with_reducible refine (foldlB_bytes _ ?_ _ _).trans ?_ | with_reducible refine (foldl1_bytes _ ?_ _ _).trans ?_ | with_reducible refine (foldl2_bytes _ ?_ _ _).trans ?_

theorem execFenceBumpDeferred_bytes {s t : State} {x0 : Sys2Proof.FA} (h : execFenceBumpDeferred x0 s = .next t) : t.bytes = s.bytes := by
  simp only [execFenceBumpDeferred, Host.Outcome.next.injEq] at h
  subst h
  repeat' first | with_reducible rfl | with_reducible assumption | intro _ | simp only [State.notify_bytes, State.setFenced_bytes, bytes_mk, bytes_eta, Iter.state_done, Iter.state_fmt, Iter.state_trap, Whole.state_ran, Whole.state_stopped, Whole.state_denied] | split | with_reducible refine (foldl_bytes _ ?_ _ _).trans ?_

@[simp] theorem State.reportSilence_bytes (s : State) : (State.reportSilence s).bytes = s.bytes := by
  unfold State.reportSilence
  repeat' first | with_reducible rfl | with_reducible assumption | intro _ | simp only [State.sendCtrl_bytes, bytes_mk, bytes_eta, Iter.state_done, Iter.state_fmt, Iter.state_trap, Whole.state_ran, Whole.state_stopped, Whole.state_denied] | split | with_reducible refine (foldl_bytes _ ?_ _ _).trans ?_

theorem execHeartbeatSend_bytes {s t : State} {x0 : Nat} (h : execHeartbeatSend x0 s = .next t) : t.bytes = s.bytes := by
  simp only [execHeartbeatSend, Host.Outcome.next.injEq] at h
  subst h
  repeat' first | with_reducible rfl | with_reducible assumption | intro _ | simp only [State.modPort_bytes, State.sendOnPort_bytes, bytes_mk, bytes_eta, Iter.state_done, Iter.state_fmt, Iter.state_trap, Whole.state_ran, Whole.state_stopped, Whole.state_denied] | split | with_reducible refine (foldl_bytes _ ?_ _ _).trans ?_

theorem execHeartbeat_bytes {s t : State} {x0 : Nat} {x1 : Nat} {x2 : Nat} {x3 : Sys2Proof.Byte} (h : execHeartbeat x0 x1 x2 x3 s = .next t) : t.bytes = s.bytes := by
  simp only [execHeartbeat, Host.Outcome.next.injEq] at h
  subst h
  repeat' first | with_reducible rfl | with_reducible assumption | intro _ | simp only [State.modPort_bytes, State.reportSilence_bytes, State.takeCtrl_bytes, bytes_mk, bytes_eta, Iter.state_done, Iter.state_fmt, Iter.state_trap, Whole.state_ran, Whole.state_stopped, Whole.state_denied] | split | with_reducible refine (foldl_bytes _ ?_ _ _).trans ?_

theorem execStepEnd_bytes {s t : State} {x0 : Nat} {x1 : Nat} {x2 : Sys2Proof.Byte} (h : execStepEnd x0 x1 x2 s = .next t) : t.bytes = s.bytes := by
  simp only [execStepEnd, Host.Outcome.next.injEq] at h
  subst h
  repeat' first | with_reducible rfl | with_reducible assumption | intro _ | simp only [State.modPort_bytes, State.takeCtrl_bytes, bytes_mk, bytes_eta, Iter.state_done, Iter.state_fmt, Iter.state_trap, Whole.state_ran, Whole.state_stopped, Whole.state_denied] | split | with_reducible refine (foldl_bytes _ ?_ _ _).trans ?_

theorem execTwinHbSend_bytes {s t : State} {x0 : Nat} (h : execTwinHbSend x0 s = .next t) : t.bytes = s.bytes := by
  simp only [execTwinHbSend, Host.Outcome.next.injEq] at h
  subst h
  repeat' first | with_reducible rfl | with_reducible assumption | intro _ | simp only [State.modPort_bytes, State.sendOnPort_bytes, bytes_mk, bytes_eta, Iter.state_done, Iter.state_fmt, Iter.state_trap, Whole.state_ran, Whole.state_stopped, Whole.state_denied] | split | with_reducible refine (foldl_bytes _ ?_ _ _).trans ?_

@[simp] theorem State.stopTwinB_bytes (s : State) : (State.stopTwinB s).bytes = s.bytes := by
  unfold State.stopTwinB
  repeat' first | with_reducible rfl | with_reducible assumption | intro _ | simp only [State.abortAll_bytes, State.raise_bytes, bytes_mk, bytes_eta, Iter.state_done, Iter.state_fmt, Iter.state_trap, Whole.state_ran, Whole.state_stopped, Whole.state_denied] | split | with_reducible refine (foldl_bytes _ ?_ _ _).trans ?_

@[simp] theorem State.admits_bytes (s : State) (x1 : _) (x2 : _) (x3 : _) : (State.admits s x1 x2 x3).bytes = s.bytes := by
  unfold State.admits
  repeat' first | with_reducible rfl | with_reducible assumption | intro _ | simp only [State.modParty_bytes, State.modPort_bytes, State.rebuildRoutes_bytes, State.reportSilence_bytes, bytes_mk, bytes_eta, Iter.state_done, Iter.state_fmt, Iter.state_trap, Whole.state_ran, Whole.state_stopped, Whole.state_denied] | split | with_reducible refine (foldl_bytes _ ?_ _ _).trans ?_

theorem execAdmitNotice_bytes {s t : State} {x0 : Sys2Proof.FA} {x1 : Sys2Proof.FA} {x2 : BitVec 4} {x3 : Nat} (h : execAdmitNotice x0 x1 x2 x3 s = .next t) : t.bytes = s.bytes := by
  simp only [execAdmitNotice, Host.Outcome.next.injEq] at h
  subst h
  repeat' first | with_reducible rfl | with_reducible assumption | intro _ | simp only [State.admits_bytes, State.takeCtrl_bytes, bytes_mk, bytes_eta, Iter.state_done, Iter.state_fmt, Iter.state_trap, Whole.state_ran, Whole.state_stopped, Whole.state_denied] | split | with_reducible refine (foldl_bytes _ ?_ _ _).trans ?_

@[simp] theorem State.admitParty_bytes (s : State) (x1 : _) (x2 : _) : (State.admitParty s x1 x2).bytes = s.bytes := by
  unfold State.admitParty
  repeat' first | with_reducible rfl | with_reducible assumption | intro _ | simp only [State.admits_bytes, State.notify_bytes, bytes_mk, bytes_eta, Iter.state_done, Iter.state_fmt, Iter.state_trap, Whole.state_ran, Whole.state_stopped, Whole.state_denied] | split | with_reducible refine (foldl_bytes _ ?_ _ _).trans ?_

@[simp] theorem State.linkChanged_bytes (s : State) (x1 : _) (x2 : _) (x3 : _) (x4 : _) : (State.linkChanged s x1 x2 x3 x4).bytes = s.bytes := by
  unfold State.linkChanged
  repeat' first | with_reducible rfl | with_reducible assumption | intro _ | simp only [State.rebuildRoutes_bytes, bytes_mk, bytes_eta, Iter.state_done, Iter.state_fmt, Iter.state_trap, Whole.state_ran, Whole.state_stopped, Whole.state_denied] | split | with_reducible refine (foldl_bytes _ ?_ _ _).trans ?_

theorem execLinkNotice_bytes {s t : State} {x0 : Sys2Proof.FA} {x1 : Sys2Proof.FA} {x2 : Nat} {x3 : Bool} {x4 : Bool} {x5 : Nat} (h : execLinkNotice x0 x1 x2 x3 x4 x5 s = .next t) : t.bytes = s.bytes := by
  simp only [execLinkNotice, Host.Outcome.next.injEq] at h
  subst h
  repeat' first | with_reducible rfl | with_reducible assumption | intro _ | simp only [State.linkChanged_bytes, State.takeCtrl_bytes, bytes_mk, bytes_eta, Iter.state_done, Iter.state_fmt, Iter.state_trap, Whole.state_ran, Whole.state_stopped, Whole.state_denied] | split | with_reducible refine (foldl_bytes _ ?_ _ _).trans ?_

@[simp] theorem State.resilverOver_bytes (s : State) : (State.resilverOver s).bytes = s.bytes := by
  unfold State.resilverOver
  repeat' first | with_reducible rfl | with_reducible assumption | intro _ | simp only [State.complete_bytes, State.resilverFails_bytes, bytes_mk, bytes_eta, Iter.state_done, Iter.state_fmt, Iter.state_trap, Whole.state_ran, Whole.state_stopped, Whole.state_denied] | split | with_reducible refine (foldl_bytes _ ?_ _ _).trans ?_

@[simp] theorem State.resilverAnswer_bytes (s : State) (x1 : _) (x2 : _) (x3 : _) : (State.resilverAnswer s x1 x2 x3).bytes = s.bytes := by
  unfold State.resilverAnswer
  repeat' first | with_reducible rfl | with_reducible assumption | intro _ | simp only [State.admitParty_bytes, State.ok_bytes, State.raise_bytes, State.resilverOver_bytes, bytes_mk, bytes_eta, Iter.state_done, Iter.state_fmt, Iter.state_trap, Whole.state_ran, Whole.state_stopped, Whole.state_denied] | split | with_reducible refine (foldl_bytes _ ?_ _ _).trans ?_

theorem execDigest_bytes {s t : State} {x0 : Nat} {x1 : Sys2Proof.Word} {x2 : BitVec 32} (h : execDigest x0 x1 x2 s = .next t) : t.bytes = s.bytes := by
  simp only [execDigest, Host.Outcome.next.injEq] at h
  subst h
  repeat' first | with_reducible rfl | with_reducible assumption | intro _ | simp only [State.exchange_bytes, State.resilverAnswer_bytes, State.takeCtrl_bytes, bytes_mk, bytes_eta, Iter.state_done, Iter.state_fmt, Iter.state_trap, Whole.state_ran, Whole.state_stopped, Whole.state_denied] | split | with_reducible refine (foldl_bytes _ ?_ _ _).trans ?_

@[simp] theorem State.sendHeal_bytes (s : State) (x1 : _) : (State.sendHeal s x1).bytes = s.bytes := by
  unfold State.sendHeal
  repeat' first | with_reducible rfl | with_reducible assumption | intro _ | simp only [State.sendCtrl_bytes, bytes_mk, bytes_eta, Iter.state_done, Iter.state_fmt, Iter.state_trap, Whole.state_ran, Whole.state_stopped, Whole.state_denied] | split | with_reducible refine (foldl_bytes _ ?_ _ _).trans ?_

@[simp] theorem State.setHeal_bytes (s : State) (x1 : _) : (State.setHeal s x1).bytes = s.bytes := by
  unfold State.setHeal
  repeat' first | with_reducible rfl | with_reducible assumption | intro _ | simp only [bytes_mk, bytes_eta, Iter.state_done, Iter.state_fmt, Iter.state_trap, Whole.state_ran, Whole.state_stopped, Whole.state_denied] | split | with_reducible refine (foldl_bytes _ ?_ _ _).trans ?_

theorem execHealRequestTimeout_bytes {s t : State} (h : execHealRequestTimeout s = .next t) : t.bytes = s.bytes := by
  simp only [execHealRequestTimeout, Host.Outcome.next.injEq] at h
  subst h
  repeat' first | with_reducible rfl | with_reducible assumption | intro _ | simp only [State.sendHeal_bytes, bytes_mk, bytes_eta, Iter.state_done, Iter.state_fmt, Iter.state_trap, Whole.state_ran, Whole.state_stopped, Whole.state_denied] | split | with_reducible refine (foldl_bytes _ ?_ _ _).trans ?_

@[simp] theorem State.takeTransfer_bytes (s : State) (x1 : _) : (State.takeTransfer s x1).bytes = s.bytes := by
  unfold State.takeTransfer
  repeat' first | with_reducible rfl | with_reducible assumption | intro _ | simp only [State.takeInbox_bytes, bytes_mk, bytes_eta, Iter.state_done, Iter.state_fmt, Iter.state_trap, Whole.state_ran, Whole.state_stopped, Whole.state_denied] | split | with_reducible refine (foldl_bytes _ ?_ _ _).trans ?_

@[simp] theorem State.refuseHeal_bytes (s : State) (x1 : _) (x2 : _) (x3 : _) : (State.refuseHeal s x1 x2 x3).bytes = s.bytes := by
  unfold State.refuseHeal
  repeat' first | with_reducible rfl | with_reducible assumption | intro _ | simp only [State.sendCtrl_bytes, bytes_mk, bytes_eta, Iter.state_done, Iter.state_fmt, Iter.state_trap, Whole.state_ran, Whole.state_stopped, Whole.state_denied] | split | with_reducible refine (foldl_bytes _ ?_ _ _).trans ?_

theorem execResilver_bytes {s t : State} {x0 : Sys2Proof.Req} {x1 : Bool} (h : execResilver x0 x1 s = .next t) : t.bytes = s.bytes := by
  simp only [execResilver, Host.Outcome.next.injEq] at h
  subst h
  repeat' first | with_reducible rfl | with_reducible assumption | intro _ | simp only [State.fail_bytes, State.freshTx_bytes, State.sendMessage_bytes, bytes_mk, bytes_eta, Iter.state_done, Iter.state_fmt, Iter.state_trap, Whole.state_ran, Whole.state_stopped, Whole.state_denied] | split | with_reducible refine (foldl_bytes _ ?_ _ _).trans ?_

@[simp] theorem State.transferBad_bytes (s : State) : (State.transferBad s).bytes = s.bytes := by
  unfold State.transferBad
  repeat' first | with_reducible rfl | with_reducible assumption | intro _ | simp only [State.bump_bytes, State.resilverOver_bytes, bytes_mk, bytes_eta, Iter.state_done, Iter.state_fmt, Iter.state_trap, Whole.state_ran, Whole.state_stopped, Whole.state_denied] | split | with_reducible refine (foldl_bytes _ ?_ _ _).trans ?_

theorem execControlRecordReceive_bytes {s t : State} {x0 : Nat} {x1 : List Sys2Proof.Byte} (h : execControlRecordReceive x0 x1 s = .next t) : t.bytes = s.bytes := by
  simp only [execControlRecordReceive, Host.Outcome.next.injEq] at h
  subst h
  repeat' first | with_reducible rfl | with_reducible assumption | intro _ | simp only [State.takeTransfer_bytes, State.transferBad_bytes, bytes_mk, bytes_eta, Iter.state_done, Iter.state_fmt, Iter.state_trap, Whole.state_ran, Whole.state_stopped, Whole.state_denied] | split | with_reducible refine (foldl_bytes _ ?_ _ _).trans ?_

@[simp] theorem State.reserveKv_bytes (s : State) (x1 : _) : (State.reserveKv s x1).bytes = s.bytes := by
  unfold State.reserveKv
  repeat' first | with_reducible rfl | with_reducible assumption | intro _ | simp only [State.modCtx_bytes, bytes_mk, bytes_eta, Iter.state_done, Iter.state_fmt, Iter.state_trap, Whole.state_ran, Whole.state_stopped, Whole.state_denied] | split | with_reducible refine (foldl_bytes _ ?_ _ _).trans ?_

@[simp] theorem State.install_bytes (s : State) (x1 : _) (x2 : _) : (State.install s x1 x2).bytes = s.bytes := by
  unfold State.install
  repeat' first | with_reducible rfl | with_reducible assumption | intro _ | simp only [State.rebuildGroups_bytes, State.removePlan_bytes, State.reserveKv_bytes, bytes_mk, bytes_eta, Iter.state_done, Iter.state_fmt, Iter.state_trap, Whole.state_ran, Whole.state_stopped, Whole.state_denied] | split | with_reducible refine (foldl_bytes _ ?_ _ _).trans ?_

theorem execPlanInstall_bytes {s t : State} {x0 : Sys2Proof.Req} {x1 : List Sys2Proof.Byte} (h : execPlanInstall x0 x1 s = .next t) : t.bytes = s.bytes := by
  simp only [execPlanInstall, Host.Outcome.next.injEq] at h
  subst h
  repeat' first | with_reducible rfl | with_reducible assumption | intro _ | simp only [State.fail_bytes, State.install_bytes, State.ok_bytes, State.refuseAt_bytes, bytes_mk, bytes_eta, Iter.state_done, Iter.state_fmt, Iter.state_trap, Whole.state_ran, Whole.state_stopped, Whole.state_denied] | split | with_reducible refine (foldl_bytes _ ?_ _ _).trans ?_

@[simp] theorem State.placeWrite_bytes (s : State) (x1 : _) (x2 : _) : (State.placeWrite s x1 x2).bytes = s.bytes := by
  unfold State.placeWrite
  repeat' first | with_reducible rfl | with_reducible assumption | intro _ | simp only [State.raise_bytes, State.wr_bytes, bytes_mk, bytes_eta, Iter.state_done, Iter.state_fmt, Iter.state_trap, Whole.state_ran, Whole.state_stopped, Whole.state_denied] | split | with_reducible refine (foldl_bytes _ ?_ _ _).trans ?_

@[simp] theorem State.nameTwin_bytes (s : State) (x1 : _) : (State.nameTwin s x1).bytes = s.bytes := by
  unfold State.nameTwin
  repeat' first | with_reducible rfl | with_reducible assumption | intro _ | simp only [State.modParty_bytes, bytes_mk, bytes_eta, Iter.state_done, Iter.state_fmt, Iter.state_trap, Whole.state_ran, Whole.state_stopped, Whole.state_denied] | split | with_reducible refine (foldl_bytes _ ?_ _ _).trans ?_

@[simp] theorem State.takeMembership_bytes (s : State) (x1 : _) : (State.takeMembership s x1).bytes = s.bytes := by
  unfold State.takeMembership
  repeat' first | with_reducible rfl | with_reducible assumption | intro _ | simp only [State.admitParty_bytes, State.nameTwin_bytes, State.placeWrite_bytes, State.rebuildGroups_bytes, State.rebuildRoutes_bytes, bytes_mk, bytes_eta, Iter.state_done, Iter.state_fmt, Iter.state_trap, Whole.state_ran, Whole.state_stopped, Whole.state_denied] | split | with_reducible refine (foldl_bytes _ ?_ _ _).trans ?_ | with_reducible refine (foldlB_bytes _ ?_ _ _).trans ?_ | with_reducible refine (foldl1_bytes _ ?_ _ _).trans ?_ | with_reducible refine (foldl2_bytes _ ?_ _ _).trans ?_

@[simp] theorem State.defineSeeds_bytes (s : State) (x1 : _) (x2 : _) : (State.defineSeeds s x1 x2).bytes = s.bytes := by
  unfold State.defineSeeds
  repeat' first | with_reducible rfl | with_reducible assumption | intro _ | simp only [State.fail_bytes, State.ok_bytes, bytes_mk, bytes_eta, Iter.state_done, Iter.state_fmt, Iter.state_trap, Whole.state_ran, Whole.state_stopped, Whole.state_denied] | split | with_reducible refine (foldl_bytes _ ?_ _ _).trans ?_

theorem State.rangeRefuse_bytes {s t : State} {rq : Req} {b : Bool} (h : s.rangeRefuse rq b = some t) : t.bytes = s.bytes := by
  have g : ∀ (c : Prop) [Decidable c] (x y : Option State), (∀ u, x = some u → u.bytes = s.bytes) → (∀ u, y = some u → u.bytes = s.bytes) →
      ∀ u, (if c then x else y) = some u → u.bytes = s.bytes := by
    intro c _ x y hx hy u hu
    split at hu
    · exact hx u hu
    · exact hy u hu
  have f : ∀ x u : State, x.bytes = s.bytes → some x = some u → u.bytes = s.bytes := by
    intro x u hx hu
    cases hu
    exact hx
  revert h
  unfold State.rangeRefuse
  refine g _ _ _ (fun u => f _ u ?_) (fun u => ?_) t
  · simp only [State.refuseAt_bytes]
  · split
    · exact f _ u (by simp only [State.fail_bytes])
    · exact g _ _ _ (fun u => f _ u (by simp only [State.fail_bytes])) (fun u hu => by cases hu) u

theorem execStateImport_bytes {s t : State} {x0 : Sys2Proof.Req} {x1 : List Sys2Proof.Byte} (h : execStateImport x0 x1 s = .next t) : t.bytes = s.bytes := by
  simp only [execStateImport, Host.Outcome.next.injEq] at h
  subst h
  repeat' first | with_reducible rfl | with_reducible assumption | intro _ | simp only [State.fail_bytes, bytes_mk, bytes_eta, Iter.state_done, Iter.state_fmt, Iter.state_trap, Whole.state_ran, Whole.state_stopped, Whole.state_denied] | with_reducible refine (State.rangeRefuse_bytes (by assumption)).trans ?_ | split | with_reducible refine (foldl_bytes _ ?_ _ _).trans ?_

theorem execStateExport_bytes {s t : State} {x0 : Sys2Proof.Req} (h : execStateExport x0 s = .next t) : t.bytes = s.bytes := by
  simp only [execStateExport, Host.Outcome.next.injEq] at h
  subst h
  repeat' first | with_reducible rfl | with_reducible assumption | intro _ | simp only [State.fail_bytes, bytes_mk, bytes_eta, Iter.state_done, Iter.state_fmt, Iter.state_trap, Whole.state_ran, Whole.state_stopped, Whole.state_denied] | with_reducible refine (State.rangeRefuse_bytes (by assumption)).trans ?_ | split | with_reducible refine (foldl_bytes _ ?_ _ _).trans ?_

theorem execLedgerQuery_bytes {s t : State} {x0 : Sys2Proof.Req} (h : execLedgerQuery x0 s = .next t) : t.bytes = s.bytes := by
  simp only [execLedgerQuery, Host.Outcome.next.injEq] at h
  subst h
  repeat' first | with_reducible rfl | with_reducible assumption | intro _ | simp only [State.answer_bytes, State.fail_bytes, bytes_mk, bytes_eta, Iter.state_done, Iter.state_fmt, Iter.state_trap, Whole.state_ran, Whole.state_stopped, Whole.state_denied] | split | with_reducible refine (foldl_bytes _ ?_ _ _).trans ?_

@[simp] theorem State.releaseStored_bytes (s : State) : (State.releaseStored s).bytes = s.bytes := by
  unfold State.releaseStored
  repeat' first | with_reducible rfl | with_reducible assumption | intro _ | simp only [bytes_mk, bytes_eta, Iter.state_done, Iter.state_fmt, Iter.state_trap, Whole.state_ran, Whole.state_stopped, Whole.state_denied] | split | with_reducible refine (foldl_bytes _ ?_ _ _).trans ?_

@[simp] theorem State.rollBack_bytes (s : State) : (State.rollBack s).bytes = s.bytes := by
  unfold State.rollBack
  repeat' first | with_reducible rfl | with_reducible assumption | intro _ | simp only [State.abortAll_bytes, State.bump_bytes, State.clearSlots_bytes, State.discardStep_bytes, State.releaseStored_bytes, bytes_mk, bytes_eta, Iter.state_done, Iter.state_fmt, Iter.state_trap, Whole.state_ran, Whole.state_stopped, Whole.state_denied] | split | with_reducible refine (foldl_bytes _ ?_ _ _).trans ?_

theorem execGateConfig_bytes {s t : State} {x0 : Sys2Proof.Req} {x1 : List Sys2Proof.Byte} (h : execGateConfig x0 x1 s = .next t) : t.bytes = s.bytes := by
  simp only [execGateConfig, Host.Outcome.next.injEq] at h
  subst h
  repeat' first | with_reducible rfl | with_reducible assumption | intro _ | simp only [State.modSched_bytes, State.ok_bytes, State.refuseAt_bytes, bytes_mk, bytes_eta, Iter.state_done, Iter.state_fmt, Iter.state_trap, Whole.state_ran, Whole.state_stopped, Whole.state_denied] | split | with_reducible refine (foldl_bytes _ ?_ _ _).trans ?_

@[simp] theorem State.setMeter_bytes (s : State) (x1 : _) (x2 : _) (x3 : _) (x4 : _) : (State.setMeter s x1 x2 x3 x4).bytes = s.bytes := by
  unfold State.setMeter
  repeat' first | with_reducible rfl | with_reducible assumption | intro _ | simp only [State.modSched_bytes, State.wr_bytes, bytes_mk, bytes_eta, Iter.state_done, Iter.state_fmt, Iter.state_trap, Whole.state_ran, Whole.state_stopped, Whole.state_denied] | split | with_reducible refine (foldl_bytes _ ?_ _ _).trans ?_

theorem execMeterConfig_bytes {s t : State} {x0 : Sys2Proof.Req} (h : execMeterConfig x0 s = .next t) : t.bytes = s.bytes := by
  simp only [execMeterConfig, Host.Outcome.next.injEq] at h
  subst h
  repeat' first | with_reducible rfl | with_reducible assumption | intro _ | simp only [State.ok_bytes, State.refuseAt_bytes, State.setMeter_bytes, bytes_mk, bytes_eta, Iter.state_done, Iter.state_fmt, Iter.state_trap, Whole.state_ran, Whole.state_stopped, Whole.state_denied] | split | with_reducible refine (foldl_bytes _ ?_ _ _).trans ?_

theorem execLogConfig_bytes {s t : State} {x0 : Sys2Proof.Req} {x1 : List Sys2Proof.Byte} (h : execLogConfig x0 x1 s = .next t) : t.bytes = s.bytes := by
  simp only [execLogConfig, Host.Outcome.next.injEq] at h
  subst h
  repeat' first | with_reducible rfl | with_reducible assumption | intro _ | simp only [State.fail_bytes, State.ok_bytes, State.raise_bytes, State.refuseAt_bytes, bytes_mk, bytes_eta, Iter.state_done, Iter.state_fmt, Iter.state_trap, Whole.state_ran, Whole.state_stopped, Whole.state_denied] | split | with_reducible refine (foldl_bytes _ ?_ _ _).trans ?_

@[simp] theorem State.startWipe_bytes (s : State) (x1 : _) : (State.startWipe s x1).bytes = s.bytes := by
  unfold State.startWipe
  repeat' first | with_reducible rfl | with_reducible assumption | intro _ | simp only [bytes_mk, bytes_eta, Iter.state_done, Iter.state_fmt, Iter.state_trap, Whole.state_ran, Whole.state_stopped, Whole.state_denied] | split | with_reducible refine (foldl_bytes _ ?_ _ _).trans ?_

theorem execWipe_bytes {s t : State} {x0 : Sys2Proof.Req} (h : execWipe x0 s = .next t) : t.bytes = s.bytes := by
  simp only [execWipe, Host.Outcome.next.injEq] at h
  subst h
  repeat' first | with_reducible rfl | with_reducible assumption | intro _ | simp only [State.fail_bytes, State.startWipe_bytes, bytes_mk, bytes_eta, Iter.state_done, Iter.state_fmt, Iter.state_trap, Whole.state_ran, Whole.state_stopped, Whole.state_denied] | split | with_reducible refine (foldl_bytes _ ?_ _ _).trans ?_

@[simp] theorem State.reportLinks_bytes (s : State) : (State.reportLinks s).bytes = s.bytes := by
  unfold State.reportLinks
  repeat' first | with_reducible rfl | with_reducible assumption | intro _ | simp only [State.linkChanged_bytes, State.notify_bytes, State.rebuildRoutes_bytes, bytes_mk, bytes_eta, Iter.state_done, Iter.state_fmt, Iter.state_trap, Whole.state_ran, Whole.state_stopped, Whole.state_denied] | split | with_reducible refine (foldl_bytes _ ?_ _ _).trans ?_ | with_reducible refine (foldlB_bytes _ ?_ _ _).trans ?_ | with_reducible refine (foldl1_bytes _ ?_ _ _).trans ?_ | with_reducible refine (foldl2_bytes _ ?_ _ _).trans ?_

@[simp] theorem State.endCharges_bytes (s : State) (x1 : _) : (State.endCharges s x1).bytes = s.bytes := by
  unfold State.endCharges
  repeat' first | with_reducible rfl | with_reducible assumption | intro _ | simp only [bytes_mk, bytes_eta, Iter.state_done, Iter.state_fmt, Iter.state_trap, Whole.state_ran, Whole.state_stopped, Whole.state_denied] | split | with_reducible refine (foldl_bytes _ ?_ _ _).trans ?_

@[simp] theorem State.sendControl_bytes (s : State) (x1 : _) (x2 : _) : (State.sendControl s x1 x2).bytes = s.bytes := by
  unfold State.sendControl
  repeat' first | with_reducible rfl | with_reducible assumption | intro _ | simp only [State.emit_bytes, bytes_mk, bytes_eta, Iter.state_done, Iter.state_fmt, Iter.state_trap, Whole.state_ran, Whole.state_stopped, Whole.state_denied] | split | with_reducible refine (foldl_bytes _ ?_ _ _).trans ?_

@[simp] theorem State.train_bytes (s : State) (x1 : _) : (State.train s x1).bytes = s.bytes := by
  unfold State.train
  repeat' first | with_reducible rfl | with_reducible assumption | intro _ | simp only [State.emit_bytes, State.modPort_bytes, State.sendControl_bytes, bytes_mk, bytes_eta, Iter.state_done, Iter.state_fmt, Iter.state_trap, Whole.state_ran, Whole.state_stopped, Whole.state_denied] | split | with_reducible refine (foldl_bytes _ ?_ _ _).trans ?_

@[simp] theorem State.retrain_bytes (s : State) (x1 : _) : (State.retrain s x1).bytes = s.bytes := by
  unfold State.retrain
  repeat' first | with_reducible rfl | with_reducible assumption | intro _ | simp only [State.modPort_bytes, State.train_bytes, bytes_mk, bytes_eta, Iter.state_done, Iter.state_fmt, Iter.state_trap, Whole.state_ran, Whole.state_stopped, Whole.state_denied] | split | with_reducible refine (foldl_bytes _ ?_ _ _).trans ?_

theorem execDataFrameReceive_bytes {s t : State} {x0 : Nat} {x1 : List Sys2Proof.Byte} (h : execDataFrameReceive x0 x1 s = .next t) : t.bytes = s.bytes := by
  simp only [execDataFrameReceive, Host.Outcome.next.injEq] at h
  subst h
  repeat' first | with_reducible rfl | with_reducible assumption | intro _ | simp only [State.bump_bytes, State.modPort_bytes, State.sendControl_bytes, bytes_mk, bytes_eta, Iter.state_done, Iter.state_fmt, Iter.state_trap, Whole.state_ran, Whole.state_stopped, Whole.state_denied] | split | with_reducible refine (foldl_bytes _ ?_ _ _).trans ?_

@[simp] theorem State.sendData_bytes (s : State) (x1 : _) (x2 : _) (x3 : _) : (State.sendData s x1 x2 x3).bytes = s.bytes := by
  unfold State.sendData
  repeat' first | with_reducible rfl | with_reducible assumption | intro _ | simp only [State.emit_bytes, State.modPort_bytes, bytes_mk, bytes_eta, Iter.state_done, Iter.state_fmt, Iter.state_trap, Whole.state_ran, Whole.state_stopped, Whole.state_denied] | split | with_reducible refine (foldl_bytes _ ?_ _ _).trans ?_

@[simp] theorem State.endsLate_bytes (s : State) (x1 : _) (x2 : _) (x3 : _) : (State.endsLate s x1 x2 x3).bytes = s.bytes := by
  unfold State.endsLate
  repeat' first | with_reducible rfl | with_reducible assumption | intro _ | simp only [State.bump_bytes, State.modSched_bytes, bytes_mk, bytes_eta, Iter.state_done, Iter.state_fmt, Iter.state_trap, Whole.state_ran, Whole.state_stopped, Whole.state_denied] | split | with_reducible refine (foldl_bytes _ ?_ _ _).trans ?_

@[simp] theorem State.resendFrame_bytes (s : State) (x1 : _) (x2 : _) : (State.resendFrame s x1 x2).bytes = s.bytes := by
  unfold State.resendFrame
  repeat' first | with_reducible rfl | with_reducible assumption | intro _ | simp only [State.endsLate_bytes, State.sendData_bytes, bytes_mk, bytes_eta, Iter.state_done, Iter.state_fmt, Iter.state_trap, Whole.state_ran, Whole.state_stopped, Whole.state_denied] | split | with_reducible refine (foldl_bytes _ ?_ _ _).trans ?_

@[simp] theorem State.startDegrade_bytes (s : State) (x1 : _) : (State.startDegrade s x1).bytes = s.bytes := by
  unfold State.startDegrade
  repeat' first | with_reducible rfl | with_reducible assumption | intro _ | simp only [State.modPort_bytes, State.sendControl_bytes, bytes_mk, bytes_eta, Iter.state_done, Iter.state_fmt, Iter.state_trap, Whole.state_ran, Whole.state_stopped, Whole.state_denied] | split | with_reducible refine (foldl_bytes _ ?_ _ _).trans ?_

theorem execPortUp_bytes {s t : State} {x0 : Nat} {x1 : Sys2Proof.PeerReport} (h : execPortUp x0 x1 s = .next t) : t.bytes = s.bytes := by
  simp only [execPortUp, Host.Outcome.next.injEq] at h
  subst h
  repeat' first | with_reducible rfl | with_reducible assumption | intro _ | simp only [State.bump_bytes, State.modPort_bytes, State.raise_bytes, State.reportLinks_bytes, bytes_mk, bytes_eta, Iter.state_done, Iter.state_fmt, Iter.state_trap, Whole.state_ran, Whole.state_stopped, Whole.state_denied] | split | with_reducible refine (foldl_bytes _ ?_ _ _).trans ?_

theorem execLinkTrainFail_bytes {s t : State} {x0 : Nat} (h : execLinkTrainFail x0 s = .next t) : t.bytes = s.bytes := by
  simp only [execLinkTrainFail, Host.Outcome.next.injEq] at h
  subst h
  repeat' first | with_reducible rfl | with_reducible assumption | intro _ | simp only [State.raise_bytes, bytes_mk, bytes_eta, Iter.state_done, Iter.state_fmt, Iter.state_trap, Whole.state_ran, Whole.state_stopped, Whole.state_denied] | split | with_reducible refine (foldl_bytes _ ?_ _ _).trans ?_

theorem execPortRetrainTimer_bytes {s t : State} {x0 : Nat} (h : execPortRetrainTimer x0 s = .next t) : t.bytes = s.bytes := by
  simp only [execPortRetrainTimer, Host.Outcome.next.injEq] at h
  subst h
  repeat' first | with_reducible rfl | with_reducible assumption | intro _ | simp only [State.retrain_bytes, bytes_mk, bytes_eta, Iter.state_done, Iter.state_fmt, Iter.state_trap, Whole.state_ran, Whole.state_stopped, Whole.state_denied] | split | with_reducible refine (foldl_bytes _ ?_ _ _).trans ?_

@[simp] theorem State.meterCell_bytes (s : State) (x1 : _) (x2 : _) : (State.meterCell s x1 x2).2.bytes = s.bytes := by
  unfold State.meterCell
  repeat' first | with_reducible rfl | with_reducible assumption | intro _ | simp only [State.bump_bytes, State.modSched_bytes, bytes_mk, bytes_eta, Iter.state_done, Iter.state_fmt, Iter.state_trap, Whole.state_ran, Whole.state_stopped, Whole.state_denied] | split | with_reducible refine (foldl_bytes _ ?_ _ _).trans ?_

theorem State.colourFate_bytes {s t : State} {p : Nat} {c : Cell} (h : s.colourFate p c = some t) : t.bytes = s.bytes := by
  simp only [State.colourFate] at h
  split at h
  · cases h; simp only [State.bump_bytes]
  · split at h
    · cases h; simp only [State.bump_bytes]
    · cases h

theorem execAdaptiveEgressChoice_bytes {s t : State} {x0 : Nat} (h : execAdaptiveEgressChoice x0 s = .next t) : t.bytes = s.bytes := by
  simp only [execAdaptiveEgressChoice, Host.Outcome.next.injEq] at h
  subst h
  repeat' first | with_reducible rfl | with_reducible assumption | intro _ | simp only [State.bump_bytes, State.countEgress_bytes, State.dropRef_bytes, State.enqueue_bytes, State.spill_bytes, bytes_mk, bytes_eta, Iter.state_done, Iter.state_fmt, Iter.state_trap, Whole.state_ran, Whole.state_stopped, Whole.state_denied] | split | with_reducible refine (foldl_bytes _ ?_ _ _).trans ?_

@[simp] theorem State.streamStep_bytes (s : State) (x1 : _) : (State.streamStep s x1).2.bytes = s.bytes := by
  unfold State.streamStep
  repeat' first | with_reducible rfl | with_reducible assumption | intro _ | simp only [State.draw_bytes, bytes_mk, bytes_eta, Iter.state_done, Iter.state_fmt, Iter.state_trap, Whole.state_ran, Whole.state_stopped, Whole.state_denied] | split | with_reducible refine (foldl_bytes _ ?_ _ _).trans ?_

@[simp] theorem State.ackStream_bytes (s : State) (x1 : _) : (State.ackStream s x1).bytes = s.bytes := by
  unfold State.ackStream
  repeat' first | with_reducible rfl | with_reducible assumption | intro _ | simp only [State.sendAck_bytes, State.streamStep_bytes, bytes_mk, bytes_eta, Iter.state_done, Iter.state_fmt, Iter.state_trap, Whole.state_ran, Whole.state_stopped, Whole.state_denied] | split | with_reducible refine (foldl_bytes _ ?_ _ _).trans ?_

@[simp] theorem State.replayCell_bytes (s : State) (x1 : _) (x2 : _) : (State.replayCell s x1 x2).bytes = s.bytes := by
  unfold State.replayCell
  repeat' first | with_reducible rfl | with_reducible assumption | intro _ | simp only [State.bump_bytes, State.output_bytes, State.spill_bytes, bytes_mk, bytes_eta, Iter.state_done, Iter.state_fmt, Iter.state_trap, Whole.state_ran, Whole.state_stopped, Whole.state_denied] | split | with_reducible refine (foldl_bytes _ ?_ _ _).trans ?_

@[simp] theorem State.gateCtl_bytes (s : State) (x1 : _) (x2 : _) : (State.gateCtl s x1 x2).bytes = s.bytes := by
  unfold State.gateCtl
  repeat' first | with_reducible rfl | with_reducible assumption | intro _ | simp only [State.modSched_bytes, State.raise_bytes, State.wr_bytes, bytes_mk, bytes_eta, Iter.state_done, Iter.state_fmt, Iter.state_trap, Whole.state_ran, Whole.state_stopped, Whole.state_denied] | split | with_reducible refine (foldl_bytes _ ?_ _ _).trans ?_

theorem execGateCtlWrite_bytes {s t : State} {x0 : Nat} {x1 : Sys2Proof.Word} (h : execGateCtlWrite x0 x1 s = .next t) : t.bytes = s.bytes := by
  simp only [execGateCtlWrite, Host.Outcome.next.injEq] at h
  subst h
  repeat' first | with_reducible rfl | with_reducible assumption | intro _ | simp only [State.gateCtl_bytes, bytes_mk, bytes_eta, Iter.state_done, Iter.state_fmt, Iter.state_trap, Whole.state_ran, Whole.state_stopped, Whole.state_denied] | split | with_reducible refine (foldl_bytes _ ?_ _ _).trans ?_

theorem execGateListActivate_bytes {s t : State} {x0 : Nat} (h : execGateListActivate x0 s = .next t) : t.bytes = s.bytes := by
  simp only [execGateListActivate, Host.Outcome.next.injEq] at h
  subst h
  repeat' first | with_reducible rfl | with_reducible assumption | intro _ | simp only [State.modSched_bytes, State.wr_bytes, bytes_mk, bytes_eta, Iter.state_done, Iter.state_fmt, Iter.state_trap, Whole.state_ran, Whole.state_stopped, Whole.state_denied] | split | with_reducible refine (foldl_bytes _ ?_ _ _).trans ?_

theorem execGateEntryBoundary_bytes {s t : State} {x0 : Nat} (h : execGateEntryBoundary x0 s = .next t) : t.bytes = s.bytes := by
  simp only [execGateEntryBoundary, Host.Outcome.next.injEq] at h
  subst h
  repeat' first | with_reducible rfl | with_reducible assumption | intro _ | simp only [State.modSched_bytes, bytes_mk, bytes_eta, Iter.state_done, Iter.state_fmt, Iter.state_trap, Whole.state_ran, Whole.state_stopped, Whole.state_denied] | split | with_reducible refine (foldl_bytes _ ?_ _ _).trans ?_

@[simp] theorem State.chargeSelect_bytes (s : State) (x1 : _) (x2 : _) (x3 : _) : (State.chargeSelect s x1 x2 x3).bytes = s.bytes := by
  unfold State.chargeSelect
  repeat' first | with_reducible rfl | with_reducible assumption | intro _ | simp only [State.modSched_bytes, bytes_mk, bytes_eta, Iter.state_done, Iter.state_fmt, Iter.state_trap, Whole.state_ran, Whole.state_stopped, Whole.state_denied] | split | with_reducible refine (foldl_bytes _ ?_ _ _).trans ?_

@[simp] theorem State.selectAux_bytes (s : State) (x0 : _) (x1 : _) : (State.selectAux x0 x1 s).bytes = s.bytes := by
  induction x1 generalizing s with
  | zero => unfold State.selectAux; repeat' first | with_reducible rfl | with_reducible assumption | intro _ | simp only [State.bump_bytes, State.chargeSelect_bytes, State.dropRef_bytes, State.modPort_bytes, State.select_bytes, State.setQueue_bytes, State.tookCopy_bytes, bytes_mk, bytes_eta, Iter.state_done, Iter.state_fmt, Iter.state_trap, Whole.state_ran, Whole.state_stopped, Whole.state_denied] | split | with_reducible refine (foldl_bytes _ ?_ _ _).trans ?_
  | succ n ih =>
    unfold State.selectAux
    repeat' first | with_reducible rfl | with_reducible assumption | intro _ | simp only [ih, State.bump_bytes, State.chargeSelect_bytes, State.dropRef_bytes, State.modPort_bytes, State.select_bytes, State.setQueue_bytes, State.tookCopy_bytes, bytes_mk, bytes_eta, Iter.state_done, Iter.state_fmt, Iter.state_trap, Whole.state_ran, Whole.state_stopped, Whole.state_denied] | split | with_reducible refine (foldl_bytes _ ?_ _ _).trans ?_

@[simp] theorem State.holdMisfits_bytes (s : State) (x1 : _) : (State.holdMisfits s x1).bytes = s.bytes := by
  unfold State.holdMisfits
  repeat' first | with_reducible rfl | with_reducible assumption | intro _ | simp only [State.modSched_bytes, bytes_mk, bytes_eta, Iter.state_done, Iter.state_fmt, Iter.state_trap, Whole.state_ran, Whole.state_stopped, Whole.state_denied] | split | with_reducible refine (foldl_bytes _ ?_ _ _).trans ?_

theorem execSchedulerSelect_bytes {s t : State} {x0 : Nat} (h : execSchedulerSelect x0 s = .next t) : t.bytes = s.bytes := by
  simp only [execSchedulerSelect, Host.Outcome.next.injEq] at h
  subst h
  repeat' first | with_reducible rfl | with_reducible assumption | intro _ | simp only [State.admitBlocked_bytes, State.holdMisfits_bytes, State.selectAux_bytes, bytes_mk, bytes_eta, Iter.state_done, Iter.state_fmt, Iter.state_trap, Whole.state_ran, Whole.state_stopped, Whole.state_denied] | split | with_reducible refine (foldl_bytes _ ?_ _ _).trans ?_

theorem execRateWheelWake_bytes {s t : State} {x0 : Nat} {x1 : Nat} (h : execRateWheelWake x0 x1 s = .next t) : t.bytes = s.bytes := by
  simp only [execRateWheelWake, Host.Outcome.next.injEq] at h
  subst h
  repeat' first | with_reducible rfl | with_reducible assumption | intro _ | simp only [State.modSched_bytes, bytes_mk, bytes_eta, Iter.state_done, Iter.state_fmt, Iter.state_trap, Whole.state_ran, Whole.state_stopped, Whole.state_denied] | split | with_reducible refine (foldl_bytes _ ?_ _ _).trans ?_

theorem execCellTransmit_bytes {s t : State} {x0 : Nat} {x1 : Nat} (h : execCellTransmit x0 x1 s = .next t) : t.bytes = s.bytes := by
  simp only [execCellTransmit, Host.Outcome.next.injEq] at h
  subst h
  repeat' first | with_reducible rfl | with_reducible assumption | intro _ | simp only [State.admitBlocked_bytes, State.dropRef_bytes, State.endsLate_bytes, State.modPort_bytes, State.modSched_bytes, State.sendData_bytes, State.setWindow_bytes, bytes_mk, bytes_eta, Iter.state_done, Iter.state_fmt, Iter.state_trap, Whole.state_ran, Whole.state_stopped, Whole.state_denied] | split | with_reducible refine (foldl_bytes _ ?_ _ _).trans ?_

@[simp] theorem State.wipeCells_bytes (s : State) : (State.wipeCells s).bytes = s.bytes := by
  unfold State.wipeCells
  repeat' first | with_reducible rfl | with_reducible assumption | intro _ | simp only [State.returnCredit_bytes, bytes_mk, bytes_eta, Iter.state_done, Iter.state_fmt, Iter.state_trap, Whole.state_ran, Whole.state_stopped, Whole.state_denied] | split | with_reducible refine (foldl_bytes _ ?_ _ _).trans ?_ | with_reducible refine (foldlB_bytes _ ?_ _ _).trans ?_ | with_reducible refine (foldl1_bytes _ ?_ _ _).trans ?_ | with_reducible refine (foldl2_bytes _ ?_ _ _).trans ?_

@[simp] theorem State.emptyStreams_bytes (s : State) : (State.emptyStreams s).bytes = s.bytes := by
  unfold State.emptyStreams
  repeat' first | with_reducible rfl | with_reducible assumption | intro _ | simp only [bytes_mk, bytes_eta, Iter.state_done, Iter.state_fmt, Iter.state_trap, Whole.state_ran, Whole.state_stopped, Whole.state_denied] | split | with_reducible refine (foldl_bytes _ ?_ _ _).trans ?_

@[simp] theorem State.authFail_bytes (s : State) (x1 : _) (x2 : _) : (State.authFail s x1 x2).bytes = s.bytes := by
  unfold State.authFail
  repeat' first | with_reducible rfl | with_reducible assumption | intro _ | simp only [State.bump_bytes, State.fail_bytes, State.raise_bytes, bytes_mk, bytes_eta, Iter.state_done, Iter.state_fmt, Iter.state_trap, Whole.state_ran, Whole.state_stopped, Whole.state_denied] | split | with_reducible refine (foldl_bytes _ ?_ _ _).trans ?_

@[simp] theorem State.burnConfig_bytes (s : State) (x1 : _) (x2 : _) : (State.burnConfig s x1 x2).1.bytes = s.bytes := by
  unfold State.burnConfig
  repeat' first | with_reducible rfl | with_reducible assumption | intro _ | simp only [bytes_mk, bytes_eta, Iter.state_done, Iter.state_fmt, Iter.state_trap, Whole.state_ran, Whole.state_stopped, Whole.state_denied] | split | with_reducible refine (foldl_bytes _ ?_ _ _).trans ?_

@[simp] theorem State.burnFail_bytes (s : State) (x1 : _) (x2 : _) : (State.burnFail s x1 x2).bytes = s.bytes := by
  unfold State.burnFail
  repeat' first | with_reducible rfl | with_reducible assumption | intro _ | simp only [State.fail_bytes, State.raise_bytes, bytes_mk, bytes_eta, Iter.state_done, Iter.state_fmt, Iter.state_trap, Whole.state_ran, Whole.state_stopped, Whole.state_denied] | split | with_reducible refine (foldl_bytes _ ?_ _ _).trans ?_

@[simp] theorem State.beforeBurn_bytes (s : State) (x1 : _) (x2 : _) (x3 : _) : (State.beforeBurn s x1 x2 x3).1.bytes = s.bytes := by
  unfold State.beforeBurn
  repeat' first | with_reducible rfl | with_reducible assumption | intro _ | simp only [State.burnConfig_bytes, State.draw_bytes, bytes_mk, bytes_eta, Iter.state_done, Iter.state_fmt, Iter.state_trap, Whole.state_ran, Whole.state_stopped, Whole.state_denied] | split | with_reducible refine (foldl_bytes _ ?_ _ _).trans ?_

@[simp] theorem State.afterBurn_bytes (s : State) (x1 : _) : (State.afterBurn s x1).bytes = s.bytes := by
  unfold State.afterBurn
  repeat' first | with_reducible rfl | with_reducible assumption | intro _ | simp only [bytes_mk, bytes_eta, Iter.state_done, Iter.state_fmt, Iter.state_trap, Whole.state_ran, Whole.state_stopped, Whole.state_denied] | split | with_reducible refine (foldl_bytes _ ?_ _ _).trans ?_

theorem execAttest_bytes {s t : State} {x0 : Sys2Proof.Req} (h : execAttest x0 s = .next t) : t.bytes = s.bytes := by
  simp only [execAttest, Host.Outcome.next.injEq] at h
  subst h
  repeat' first | with_reducible rfl | with_reducible assumption | intro _ | simp only [State.answer_bytes, State.draw_bytes, State.fail_bytes, bytes_mk, bytes_eta, Iter.state_done, Iter.state_fmt, Iter.state_trap, Whole.state_ran, Whole.state_stopped, Whole.state_denied] | split | with_reducible refine (foldl_bytes _ ?_ _ _).trans ?_

@[simp] theorem State.fwRestart_bytes (s : State) (x1 : _) : (State.fwRestart s x1).bytes = s.bytes := by
  unfold State.fwRestart
  repeat' first | with_reducible rfl | with_reducible assumption | intro _ | simp only [State.bump_bytes, bytes_mk, bytes_eta, Iter.state_done, Iter.state_fmt, Iter.state_trap, Whole.state_ran, Whole.state_stopped, Whole.state_denied] | split | with_reducible refine (foldl_bytes _ ?_ _ _).trans ?_

theorem execWatchdogExpire_bytes {s t : State} {x0 : Sys2Proof.Byte} (h : execWatchdogExpire x0 s = .next t) : t.bytes = s.bytes := by
  simp only [execWatchdogExpire, Host.Outcome.next.injEq] at h
  subst h
  repeat' first | with_reducible rfl | with_reducible assumption | intro _ | simp only [State.fwRestart_bytes, State.raise_bytes, State.trace_bytes, bytes_mk, bytes_eta, Iter.state_done, Iter.state_fmt, Iter.state_trap, Whole.state_ran, Whole.state_stopped, Whole.state_denied] | split | with_reducible refine (foldl_bytes _ ?_ _ _).trans ?_

@[simp] theorem State.fwCtl_bytes (s : State) (x1 : _) : (State.fwCtl s x1).bytes = s.bytes := by
  unfold State.fwCtl
  repeat' first | with_reducible rfl | with_reducible assumption | intro _ | simp only [State.fwRestart_bytes, bytes_mk, bytes_eta, Iter.state_done, Iter.state_fmt, Iter.state_trap, Whole.state_ran, Whole.state_stopped, Whole.state_denied] | split | with_reducible refine (foldl_bytes _ ?_ _ _).trans ?_

theorem execFwCtlRestart_bytes {s t : State} {x0 : Sys2Proof.Word} (h : execFwCtlRestart x0 s = .next t) : t.bytes = s.bytes := by
  simp only [execFwCtlRestart, Host.Outcome.next.injEq] at h
  subst h
  repeat' first | with_reducible rfl | with_reducible assumption | intro _ | simp only [State.fwCtl_bytes, bytes_mk, bytes_eta, Iter.state_done, Iter.state_fmt, Iter.state_trap, Whole.state_ran, Whole.state_stopped, Whole.state_denied] | split | with_reducible refine (foldl_bytes _ ?_ _ _).trans ?_

@[simp] theorem State.traceStart_bytes (s : State) (x1 : _) (x2 : _) : (State.traceStart s x1 x2).bytes = s.bytes := by
  unfold State.traceStart
  repeat' first | with_reducible rfl | with_reducible assumption | intro _ | simp only [State.trace_bytes, bytes_mk, bytes_eta, Iter.state_done, Iter.state_fmt, Iter.state_trap, Whole.state_ran, Whole.state_stopped, Whole.state_denied] | split | with_reducible refine (foldl_bytes _ ?_ _ _).trans ?_

@[simp] theorem State.stagePassed_bytes (s : State) (x1 : _) : (State.stagePassed s x1).bytes = s.bytes := by
  unfold State.stagePassed
  repeat' first | with_reducible rfl | with_reducible assumption | intro _ | simp only [State.trace_bytes, bytes_mk, bytes_eta, Iter.state_done, Iter.state_fmt, Iter.state_trap, Whole.state_ran, Whole.state_stopped, Whole.state_denied] | split | with_reducible refine (foldl_bytes _ ?_ _ _).trans ?_

@[simp] theorem State.stageFailed_bytes (s : State) (x1 : _) : (State.stageFailed s x1).bytes = s.bytes := by
  unfold State.stageFailed
  repeat' first | with_reducible rfl | with_reducible assumption | intro _ | simp only [State.draw_bytes, State.trace_bytes, bytes_mk, bytes_eta, Iter.state_done, Iter.state_fmt, Iter.state_trap, Whole.state_ran, Whole.state_stopped, Whole.state_denied] | split | with_reducible refine (foldl_bytes _ ?_ _ _).trans ?_

@[simp] theorem State.beginWrite_bytes (s : State) (x1 : _) : (State.beginWrite s x1).bytes = s.bytes := by
  unfold State.beginWrite
  repeat' first | with_reducible rfl | with_reducible assumption | intro _ | simp only [State.stagePassed_bytes, bytes_mk, bytes_eta, Iter.state_done, Iter.state_fmt, Iter.state_trap, Whole.state_ran, Whole.state_stopped, Whole.state_denied] | split | with_reducible refine (foldl_bytes _ ?_ _ _).trans ?_

theorem execFwUpdate_bytes {s t : State} {x0 : Sys2Proof.Req} {x1 : List Sys2Proof.Byte} {x2 : Sys2Proof.SigAnswer} (h : execFwUpdate x0 x1 x2 s = .next t) : t.bytes = s.bytes := by
  simp only [execFwUpdate, Host.Outcome.next.injEq] at h
  subst h
  repeat' first | with_reducible rfl | with_reducible assumption | intro _ | simp only [State.authFail_bytes, State.beginWrite_bytes, State.fail_bytes, State.stageFailed_bytes, State.stagePassed_bytes, bytes_mk, bytes_eta, Iter.state_done, Iter.state_fmt, Iter.state_trap, Whole.state_ran, Whole.state_stopped, Whole.state_denied] | split | with_reducible refine (foldl_bytes _ ?_ _ _).trans ?_

theorem execFwImageWritten_bytes {s t : State} (h : execFwImageWritten s = .next t) : t.bytes = s.bytes := by
  simp only [execFwImageWritten, Host.Outcome.next.injEq] at h
  subst h
  repeat' first | with_reducible rfl | with_reducible assumption | intro _ | simp only [State.beginWrite_bytes, State.stagePassed_bytes, bytes_mk, bytes_eta, Iter.state_done, Iter.state_fmt, Iter.state_trap, Whole.state_ran, Whole.state_stopped, Whole.state_denied] | split | with_reducible refine (foldl_bytes _ ?_ _ _).trans ?_

theorem execUpdateWaitTimeout_bytes {s t : State} (h : execUpdateWaitTimeout s = .next t) : t.bytes = s.bytes := by
  simp only [execUpdateWaitTimeout, Host.Outcome.next.injEq] at h
  subst h
  repeat' first | with_reducible rfl | with_reducible assumption | intro _ | simp only [State.fail_bytes, State.stageFailed_bytes, bytes_mk, bytes_eta, Iter.state_done, Iter.state_fmt, Iter.state_trap, Whole.state_ran, Whole.state_stopped, Whole.state_denied] | split | with_reducible refine (foldl_bytes _ ?_ _ _).trans ?_

@[simp] theorem State.takeOver_bytes (s : State) (x1 : _) : (State.takeOver s x1).bytes = s.bytes := by
  unfold State.takeOver
  repeat' first | with_reducible rfl | with_reducible assumption | intro _ | simp only [State.ok_bytes, State.stagePassed_bytes, State.traceStart_bytes, bytes_mk, bytes_eta, Iter.state_done, Iter.state_fmt, Iter.state_trap, Whole.state_ran, Whole.state_stopped, Whole.state_denied] | split | with_reducible refine (foldl_bytes _ ?_ _ _).trans ?_

@[simp] theorem State.leaveLockstep_bytes (s : State) (x1 : _) : (State.leaveLockstep s x1).bytes = s.bytes := by
  unfold State.leaveLockstep
  repeat' first | with_reducible rfl | with_reducible assumption | intro _ | simp only [State.bump_bytes, State.raise_bytes, bytes_mk, bytes_eta, Iter.state_done, Iter.state_fmt, Iter.state_trap, Whole.state_ran, Whole.state_stopped, Whole.state_denied] | split | with_reducible refine (foldl_bytes _ ?_ _ _).trans ?_

@[simp] theorem State.modeWrite_bytes (s : State) (x1 : _) : (State.modeWrite s x1).bytes = s.bytes := by
  unfold State.modeWrite
  repeat' first | with_reducible rfl | with_reducible assumption | intro _ | simp only [State.leaveLockstep_bytes, bytes_mk, bytes_eta, Iter.state_done, Iter.state_fmt, Iter.state_trap, Whole.state_ran, Whole.state_stopped, Whole.state_denied] | split | with_reducible refine (foldl_bytes _ ?_ _ _).trans ?_

theorem execLockstepRequest_bytes {s t : State} {x0 : Sys2Proof.Word} (h : execLockstepRequest x0 s = .next t) : t.bytes = s.bytes := by
  simp only [execLockstepRequest, Host.Outcome.next.injEq] at h
  subst h
  repeat' first | with_reducible rfl | with_reducible assumption | intro _ | simp only [State.modeWrite_bytes, bytes_mk, bytes_eta, Iter.state_done, Iter.state_fmt, Iter.state_trap, Whole.state_ran, Whole.state_stopped, Whole.state_denied] | split | with_reducible refine (foldl_bytes _ ?_ _ _).trans ?_

theorem execLockstepEnter_bytes {s t : State} (h : execLockstepEnter s = .next t) : t.bytes = s.bytes := by
  simp only [execLockstepEnter, Host.Outcome.next.injEq] at h
  subst h
  repeat' first | with_reducible rfl | with_reducible assumption | intro _ | simp only [State.raise_bytes, bytes_mk, bytes_eta, Iter.state_done, Iter.state_fmt, Iter.state_trap, Whole.state_ran, Whole.state_stopped, Whole.state_denied] | split | with_reducible refine (foldl_bytes _ ?_ _ _).trans ?_

theorem execClkLockLost_bytes {s t : State} {x0 : BitVec 3} (h : execClkLockLost x0 s = .next t) : t.bytes = s.bytes := by
  simp only [execClkLockLost, Host.Outcome.next.injEq] at h
  subst h
  repeat' first | with_reducible rfl | with_reducible assumption | intro _ | simp only [State.leaveLockstep_bytes, State.raise_bytes, bytes_mk, bytes_eta, Iter.state_done, Iter.state_fmt, Iter.state_trap, Whole.state_ran, Whole.state_stopped, Whole.state_denied] | split | with_reducible refine (foldl_bytes _ ?_ _ _).trans ?_

@[simp] theorem State.refclkBack_bytes (s : State) (x1 : _) : (State.refclkBack s x1).bytes = s.bytes := by
  unfold State.refclkBack
  repeat' first | with_reducible rfl | with_reducible assumption | intro _ | simp only [State.modPort_bytes, State.retrain_bytes, bytes_mk, bytes_eta, Iter.state_done, Iter.state_fmt, Iter.state_trap, Whole.state_ran, Whole.state_stopped, Whole.state_denied] | split | with_reducible refine (foldl_bytes _ ?_ _ _).trans ?_

theorem execLinkRefclkRestored_bytes {s t : State} {x0 : Nat} (h : execLinkRefclkRestored x0 s = .next t) : t.bytes = s.bytes := by
  simp only [execLinkRefclkRestored, Host.Outcome.next.injEq] at h
  subst h
  repeat' first | with_reducible rfl | with_reducible assumption | intro _ | simp only [State.refclkBack_bytes, bytes_mk, bytes_eta, Iter.state_done, Iter.state_fmt, Iter.state_trap, Whole.state_ran, Whole.state_stopped, Whole.state_denied] | split | with_reducible refine (foldl_bytes _ ?_ _ _).trans ?_ | with_reducible refine (foldlB_bytes _ ?_ _ _).trans ?_ | with_reducible refine (foldl1_bytes _ ?_ _ _).trans ?_ | with_reducible refine (foldl2_bytes _ ?_ _ _).trans ?_

theorem execXtalLost_bytes {s t : State} (h : execXtalLost s = .next t) : t.bytes = s.bytes := by
  simp only [execXtalLost, Host.Outcome.next.injEq] at h
  subst h
  repeat' first | with_reducible rfl | with_reducible assumption | intro _ | simp only [State.raise_bytes, bytes_mk, bytes_eta, Iter.state_done, Iter.state_fmt, Iter.state_trap, Whole.state_ran, Whole.state_stopped, Whole.state_denied] | split | with_reducible refine (foldl_bytes _ ?_ _ _).trans ?_

@[simp] theorem State.dropUci_bytes (s : State) : (State.dropUci s).bytes = s.bytes := by
  unfold State.dropUci
  repeat' first | with_reducible rfl | with_reducible assumption | intro _ | simp only [bytes_mk, bytes_eta, Iter.state_done, Iter.state_fmt, Iter.state_trap, Whole.state_ran, Whole.state_stopped, Whole.state_denied] | split | with_reducible refine (foldl_bytes _ ?_ _ _).trans ?_

@[simp] theorem State.setUci_bytes (s : State) (x1 : _) (x2 : _) : (State.setUci s x1 x2).bytes = s.bytes := by
  unfold State.setUci
  repeat' first | with_reducible rfl | with_reducible assumption | intro _ | simp only [State.raise_bytes, bytes_mk, bytes_eta, Iter.state_done, Iter.state_fmt, Iter.state_trap, Whole.state_ran, Whole.state_stopped, Whole.state_denied] | split | with_reducible refine (foldl_bytes _ ?_ _ _).trans ?_

theorem execUciDegraded_bytes {s t : State} {x0 : Bool} (h : execUciDegraded x0 s = .next t) : t.bytes = s.bytes := by
  simp only [execUciDegraded, Host.Outcome.next.injEq] at h
  subst h
  repeat' first | with_reducible rfl | with_reducible assumption | intro _ | simp only [State.setUci_bytes, bytes_mk, bytes_eta, Iter.state_done, Iter.state_fmt, Iter.state_trap, Whole.state_ran, Whole.state_stopped, Whole.state_denied] | split | with_reducible refine (foldl_bytes _ ?_ _ _).trans ?_

theorem execThermWarn_bytes {s t : State} {x0 : Sys2Proof.Byte} (h : execThermWarn x0 s = .next t) : t.bytes = s.bytes := by
  simp only [execThermWarn, Host.Outcome.next.injEq] at h
  subst h
  repeat' first | with_reducible rfl | with_reducible assumption | intro _ | simp only [State.raise_bytes, bytes_mk, bytes_eta, Iter.state_done, Iter.state_fmt, Iter.state_trap, Whole.state_ran, Whole.state_stopped, Whole.state_denied] | split | with_reducible refine (foldl_bytes _ ?_ _ _).trans ?_

theorem execThermWarnClear_bytes {s t : State} {x0 : Sys2Proof.Byte} (h : execThermWarnClear x0 s = .next t) : t.bytes = s.bytes := by
  simp only [execThermWarnClear, Host.Outcome.next.injEq] at h
  subst h
  repeat' first | with_reducible rfl | with_reducible assumption | intro _ | simp only [bytes_mk, bytes_eta, Iter.state_done, Iter.state_fmt, Iter.state_trap, Whole.state_ran, Whole.state_stopped, Whole.state_denied] | split | with_reducible refine (foldl_bytes _ ?_ _ _).trans ?_

theorem execVinHigh_bytes {s t : State} {x0 : BitVec 16} (h : execVinHigh x0 s = .next t) : t.bytes = s.bytes := by
  simp only [execVinHigh, Host.Outcome.next.injEq] at h
  subst h
  repeat' first | with_reducible rfl | with_reducible assumption | intro _ | simp only [State.raise_bytes, bytes_mk, bytes_eta, Iter.state_done, Iter.state_fmt, Iter.state_trap, Whole.state_ran, Whole.state_stopped, Whole.state_denied] | split | with_reducible refine (foldl_bytes _ ?_ _ _).trans ?_

@[simp] theorem State.tearSave_bytes (s : State) : (State.tearSave s).bytes = s.bytes := by
  unfold State.tearSave
  repeat' first | with_reducible rfl | with_reducible assumption | intro _ | simp only [State.draw_bytes, bytes_mk, bytes_eta, Iter.state_done, Iter.state_fmt, Iter.state_trap, Whole.state_ran, Whole.state_stopped, Whole.state_denied] | split | with_reducible refine (foldl_bytes _ ?_ _ _).trans ?_

@[simp] theorem State.readSaves_bytes (s : State) : (State.readSaves s).bytes = s.bytes := by
  unfold State.readSaves
  repeat' first | with_reducible rfl | with_reducible assumption | intro _ | simp only [State.raise_bytes, bytes_mk, bytes_eta, Iter.state_done, Iter.state_fmt, Iter.state_trap, Whole.state_ran, Whole.state_stopped, Whole.state_denied] | split | with_reducible refine (foldl_bytes _ ?_ _ _).trans ?_

@[simp] theorem State.trip_bytes (s : State) : (State.trip s).bytes = s.bytes := by
  unfold State.trip
  repeat' first | with_reducible rfl | with_reducible assumption | intro _ | simp only [State.dropUci_bytes, bytes_mk, bytes_eta, Iter.state_done, Iter.state_fmt, Iter.state_trap, Whole.state_ran, Whole.state_stopped, Whole.state_denied] | split | with_reducible refine (foldl_bytes _ ?_ _ _).trans ?_

@[simp] theorem State.tripOff_bytes (s : State) : (State.tripOff s).bytes = s.bytes := by
  unfold State.tripOff
  repeat' first | with_reducible rfl | with_reducible assumption | intro _ | simp only [State.bump_bytes, bytes_mk, bytes_eta, Iter.state_done, Iter.state_fmt, Iter.state_trap, Whole.state_ran, Whole.state_stopped, Whole.state_denied] | split | with_reducible refine (foldl_bytes _ ?_ _ _).trans ?_

theorem execSupplyTrip_bytes {s t : State} (h : execSupplyTrip s = .next t) : t.bytes = s.bytes := by
  simp only [execSupplyTrip, Host.Outcome.next.injEq] at h
  subst h
  repeat' first | with_reducible rfl | with_reducible assumption | intro _ | simp only [State.trip_bytes, State.tripOff_bytes, bytes_mk, bytes_eta, Iter.state_done, Iter.state_fmt, Iter.state_trap, Whole.state_ran, Whole.state_stopped, Whole.state_denied] | split | with_reducible refine (foldl_bytes _ ?_ _ _).trans ?_

theorem execThermalTrip_bytes {s t : State} {x0 : Bool} (h : execThermalTrip x0 s = .next t) : t.bytes = s.bytes := by
  simp only [execThermalTrip, Host.Outcome.next.injEq] at h
  subst h
  repeat' first | with_reducible rfl | with_reducible assumption | intro _ | simp only [State.bump_bytes, State.raise_bytes, State.trip_bytes, State.tripOff_bytes, bytes_mk, bytes_eta, Iter.state_done, Iter.state_fmt, Iter.state_trap, Whole.state_ran, Whole.state_stopped, Whole.state_denied] | split | with_reducible refine (foldl_bytes _ ?_ _ _).trans ?_

theorem execMoonstoneSaveDone_bytes {s t : State} (h : execMoonstoneSaveDone s = .next t) : t.bytes = s.bytes := by
  simp only [execMoonstoneSaveDone, Host.Outcome.next.injEq] at h
  subst h
  repeat' first | with_reducible rfl | with_reducible assumption | intro _ | simp only [State.bump_bytes, bytes_mk, bytes_eta, Iter.state_done, Iter.state_fmt, Iter.state_trap, Whole.state_ran, Whole.state_stopped, Whole.state_denied] | split | with_reducible refine (foldl_bytes _ ?_ _ _).trans ?_

theorem execPwrEnLow_bytes {s t : State} (h : execPwrEnLow s = .next t) : t.bytes = s.bytes := by
  simp only [execPwrEnLow, Host.Outcome.next.injEq] at h
  subst h
  repeat' first | with_reducible rfl | with_reducible assumption | intro _ | simp only [State.dropUci_bytes, bytes_mk, bytes_eta, Iter.state_done, Iter.state_fmt, Iter.state_trap, Whole.state_ran, Whole.state_stopped, Whole.state_denied] | split | with_reducible refine (foldl_bytes _ ?_ _ _).trans ?_

theorem execInputFuseOpen_bytes {s t : State} (h : execInputFuseOpen s = .next t) : t.bytes = s.bytes := by
  simp only [execInputFuseOpen, Host.Outcome.next.injEq] at h
  subst h
  repeat' first | with_reducible rfl | with_reducible assumption | intro _ | simp only [State.dropUci_bytes, State.tearSave_bytes, bytes_mk, bytes_eta, Iter.state_done, Iter.state_fmt, Iter.state_trap, Whole.state_ran, Whole.state_stopped, Whole.state_denied] | split | with_reducible refine (foldl_bytes _ ?_ _ _).trans ?_

@[simp] theorem State.stageTo_bytes (s : State) (x1 : _) : (State.stageTo s x1).bytes = s.bytes := by
  unfold State.stageTo
  repeat' first | with_reducible rfl | with_reducible assumption | intro _ | simp only [bytes_mk, bytes_eta, Iter.state_done, Iter.state_fmt, Iter.state_trap, Whole.state_ran, Whole.state_stopped, Whole.state_denied] | split | with_reducible refine (foldl_bytes _ ?_ _ _).trans ?_

@[simp] theorem State.bringUpFails_bytes (s : State) (x1 : _) : (State.bringUpFails s x1).bytes = s.bytes := by
  unfold State.bringUpFails
  repeat' first | with_reducible rfl | with_reducible assumption | intro _ | simp only [State.setUci_bytes, bytes_mk, bytes_eta, Iter.state_done, Iter.state_fmt, Iter.state_trap, Whole.state_ran, Whole.state_stopped, Whole.state_denied] | split | with_reducible refine (foldl_bytes _ ?_ _ _).trans ?_

@[simp] theorem State.stageAon_bytes (s : State) (x1 : _) : (State.stageAon s x1).bytes = s.bytes := by
  unfold State.stageAon
  repeat' first | with_reducible rfl | with_reducible assumption | intro _ | simp only [State.bringUpFails_bytes, State.raise_bytes, State.stageTo_bytes, bytes_mk, bytes_eta, Iter.state_done, Iter.state_fmt, Iter.state_trap, Whole.state_ran, Whole.state_stopped, Whole.state_denied] | split | with_reducible refine (foldl_bytes _ ?_ _ _).trans ?_

@[simp] theorem State.stageAlign_bytes (s : State) (x1 : _) : (State.stageAlign s x1).bytes = s.bytes := by
  unfold State.stageAlign
  repeat' first | with_reducible rfl | with_reducible assumption | intro _ | simp only [State.stageTo_bytes, bytes_mk, bytes_eta, Iter.state_done, Iter.state_fmt, Iter.state_trap, Whole.state_ran, Whole.state_stopped, Whole.state_denied] | split | with_reducible refine (foldl_bytes _ ?_ _ _).trans ?_

@[simp] theorem State.startFw_bytes (s : State) (x1 : _) : (State.startFw s x1).bytes = s.bytes := by
  unfold State.startFw
  repeat' first | with_reducible rfl | with_reducible assumption | intro _ | simp only [State.stageTo_bytes, State.traceStart_bytes, bytes_mk, bytes_eta, Iter.state_done, Iter.state_fmt, Iter.state_trap, Whole.state_ran, Whole.state_stopped, Whole.state_denied] | split | with_reducible refine (foldl_bytes _ ?_ _ _).trans ?_

@[simp] theorem State.bootKeys_bytes (s : State) (x1 : _) : (State.bootKeys s x1).bytes = s.bytes := by
  unfold State.bootKeys
  repeat' first | with_reducible rfl | with_reducible assumption | intro _ | simp only [State.afterBurn_bytes, State.raise_bytes, bytes_mk, bytes_eta, Iter.state_done, Iter.state_fmt, Iter.state_trap, Whole.state_ran, Whole.state_stopped, Whole.state_denied] | split | with_reducible refine (foldl_bytes _ ?_ _ _).trans ?_

@[simp] theorem State.stageBoot_bytes (s : State) (x1 : _) : (State.stageBoot s x1).bytes = s.bytes := by
  unfold State.stageBoot
  repeat' first | with_reducible rfl | with_reducible assumption | intro _ | simp only [State.bootKeys_bytes, State.bringUpFails_bytes, State.bump_bytes, State.raise_bytes, State.startFw_bytes, bytes_mk, bytes_eta, Iter.state_done, Iter.state_fmt, Iter.state_trap, Whole.state_ran, Whole.state_stopped, Whole.state_denied] | split | with_reducible refine (foldl_bytes _ ?_ _ _).trans ?_

@[simp] theorem State.stageTrain_bytes (s : State) (x1 : _) : (State.stageTrain s x1).bytes = s.bytes := by
  unfold State.stageTrain
  repeat' first | with_reducible rfl | with_reducible assumption | intro _ | simp only [State.bringUpFails_bytes, State.raise_bytes, State.readSaves_bytes, State.stageTo_bytes, bytes_mk, bytes_eta, Iter.state_done, Iter.state_fmt, Iter.state_trap, Whole.state_ran, Whole.state_stopped, Whole.state_denied] | split | with_reducible refine (foldl_bytes _ ?_ _ _).trans ?_

@[simp] theorem State.stageUcie_bytes (s : State) (x1 : _) : (State.stageUcie s x1).bytes = s.bytes := by
  unfold State.stageUcie
  repeat' first | with_reducible rfl | with_reducible assumption | intro _ | simp only [State.setUci_bytes, State.stageTo_bytes, State.startWipe_bytes, bytes_mk, bytes_eta, Iter.state_done, Iter.state_fmt, Iter.state_trap, Whole.state_ran, Whole.state_stopped, Whole.state_denied] | split | with_reducible refine (foldl_bytes _ ?_ _ _).trans ?_

@[simp] theorem State.ovfWrite_bytes (s : State) (x1 : _) (x2 : _) : (State.ovfWrite s x1 x2).bytes = s.bytes := by
  unfold State.ovfWrite
  repeat' first | with_reducible rfl | with_reducible assumption | intro _ | simp only [State.clearCtr_bytes, bytes_mk, bytes_eta, Iter.state_done, Iter.state_fmt, Iter.state_trap, Whole.state_ran, Whole.state_stopped, Whole.state_denied] | split | with_reducible refine (foldl_bytes _ ?_ _ _).trans ?_ | with_reducible refine (foldlB_bytes _ ?_ _ _).trans ?_ | with_reducible refine (foldl1_bytes _ ?_ _ _).trans ?_ | with_reducible refine (foldl2_bytes _ ?_ _ _).trans ?_

theorem State.lockOr_bytes (s : State) (r : Reg) (a : Nat) (f : State → State) (h : ∀ t, (f t).bytes = t.bytes) : (s.lockOr r a f).bytes = s.bytes := by
  unfold State.lockOr
  split
  · simp only [State.raise_bytes]
  · rw [h]; rfl

@[simp] theorem State.regionWrite_bytes (s : State) (v : Word) : (s.regionWrite v).bytes = s.bytes := by
  unfold State.regionWrite
  refine State.lockOr_bytes _ _ _ _ fun t => ?_
  repeat' first | with_reducible rfl | simp only [State.raise_bytes, State.wr_bytes, bytes_mk, bytes_eta] | split

@[simp] theorem State.pwrCfgWrite_bytes (s : State) (x1 : _) : (State.pwrCfgWrite s x1).bytes = s.bytes := by
  unfold State.pwrCfgWrite
  repeat' first | with_reducible rfl | with_reducible assumption | intro _ | simp only [State.raise_bytes, State.wr_bytes, bytes_mk, bytes_eta, Iter.state_done, Iter.state_fmt, Iter.state_trap, Whole.state_ran, Whole.state_stopped, Whole.state_denied] | split | with_reducible refine (foldl_bytes _ ?_ _ _).trans ?_

@[simp] theorem State.cmWrite_bytes (s : State) (x1 : _) (x2 : _) : (State.cmWrite s x1 x2).bytes = s.bytes := by
  unfold State.cmWrite
  repeat' first | with_reducible rfl | with_reducible assumption | intro _ | simp only [State.raise_bytes, State.wr_bytes, bytes_mk, bytes_eta, Iter.state_done, Iter.state_fmt, Iter.state_trap, Whole.state_ran, Whole.state_stopped, Whole.state_denied] | split | with_reducible refine (foldl_bytes _ ?_ _ _).trans ?_

@[simp] theorem State.evtRingReg_bytes (s : State) (x1 : _) : (State.evtRingReg s x1).bytes = s.bytes := by
  unfold State.evtRingReg
  repeat' first | with_reducible rfl | with_reducible assumption | intro _ | simp only [State.raise_bytes, State.wr_bytes, bytes_mk, bytes_eta, Iter.state_done, Iter.state_fmt, Iter.state_trap, Whole.state_ran, Whole.state_stopped, Whole.state_denied] | split | with_reducible refine (foldl_bytes _ ?_ _ _).trans ?_

@[simp] theorem State.trapWrite_bytes (s : State) (x1 : _) : (State.trapWrite s x1).bytes = s.bytes := by
  unfold State.trapWrite
  repeat' first | with_reducible rfl | with_reducible assumption | intro _ | simp only [State.wr_bytes, bytes_mk, bytes_eta, Iter.state_done, Iter.state_fmt, Iter.state_trap, Whole.state_ran, Whole.state_stopped, Whole.state_denied] | split | with_reducible refine (foldl_bytes _ ?_ _ _).trans ?_

@[simp] theorem State.ueLogWrite_bytes (s : State) (x1 : _) : (State.ueLogWrite s x1).bytes = s.bytes := by
  unfold State.ueLogWrite
  repeat' first | with_reducible rfl | with_reducible assumption | intro _ | simp only [bytes_mk, bytes_eta, Iter.state_done, Iter.state_fmt, Iter.state_trap, Whole.state_ran, Whole.state_stopped, Whole.state_denied] | split | with_reducible refine (foldl_bytes _ ?_ _ _).trans ?_

@[simp] theorem State.alertWrite_bytes (s : State) (x1 : _) : (State.alertWrite s x1).bytes = s.bytes := by
  unfold State.alertWrite
  repeat' first | with_reducible rfl | with_reducible assumption | intro _ | simp only [bytes_mk, bytes_eta, Iter.state_done, Iter.state_fmt, Iter.state_trap, Whole.state_ran, Whole.state_stopped, Whole.state_denied] | split | with_reducible refine (foldl_bytes _ ?_ _ _).trans ?_

@[simp] theorem State.rateLifted_bytes (s : State) (x1 : _) : (State.rateLifted s x1).bytes = s.bytes := by
  unfold State.rateLifted
  repeat' first | with_reducible rfl | with_reducible assumption | intro _ | simp only [State.modSched_bytes, bytes_mk, bytes_eta, Iter.state_done, Iter.state_fmt, Iter.state_trap, Whole.state_ran, Whole.state_stopped, Whole.state_denied] | split | with_reducible refine (foldl_bytes _ ?_ _ _).trans ?_

theorem execStewardRd_bytes {s t : State} {x0 : List Sys2Proof.Byte} (h : execStewardRd x0 s = .next t) : t.bytes = s.bytes := by
  simp only [execStewardRd, Host.Outcome.next.injEq] at h
  subst h
  repeat' first | with_reducible rfl | with_reducible assumption | intro _ | simp only [State.bump_bytes, State.emit_bytes, bytes_mk, bytes_eta, Iter.state_done, Iter.state_fmt, Iter.state_trap, Whole.state_ran, Whole.state_stopped, Whole.state_denied] | split | with_reducible refine (foldl_bytes _ ?_ _ _).trans ?_

theorem execFabricPosWrite_bytes {s t : State} {x0 : Bool} {x1 : Sys2Proof.Word} (h : execFabricPosWrite x0 x1 s = .next t) : t.bytes = s.bytes := by
  simp only [execFabricPosWrite, Host.Outcome.next.injEq] at h
  subst h
  repeat' first | with_reducible rfl | with_reducible assumption | intro _ | simp only [State.placeWrite_bytes, bytes_mk, bytes_eta, Iter.state_done, Iter.state_fmt, Iter.state_trap, Whole.state_ran, Whole.state_stopped, Whole.state_denied] | split | with_reducible refine (foldl_bytes _ ?_ _ _).trans ?_

theorem execMemRegionSizeWrite_bytes {s t : State} {x0 : Sys2Proof.Word} (h : execMemRegionSizeWrite x0 s = .next t) : t.bytes = s.bytes := by
  simp only [execMemRegionSizeWrite, Host.Outcome.next.injEq] at h
  subst h
  repeat' first | with_reducible rfl | with_reducible assumption | intro _ | simp only [State.regionWrite_bytes, bytes_mk, bytes_eta, Iter.state_done, Iter.state_fmt, Iter.state_trap, Whole.state_ran, Whole.state_stopped, Whole.state_denied] | split | with_reducible refine (foldl_bytes _ ?_ _ _).trans ?_

theorem execCounterOvfClear_bytes {s t : State} {x0 : Nat} {x1 : Sys2Proof.Word} (h : execCounterOvfClear x0 x1 s = .next t) : t.bytes = s.bytes := by
  simp only [execCounterOvfClear, Host.Outcome.next.injEq] at h
  subst h
  repeat' first | with_reducible rfl | with_reducible assumption | intro _ | simp only [State.ovfWrite_bytes, bytes_mk, bytes_eta, Iter.state_done, Iter.state_fmt, Iter.state_trap, Whole.state_ran, Whole.state_stopped, Whole.state_denied] | split | with_reducible refine (foldl_bytes _ ?_ _ _).trans ?_

theorem execVeTrapClear_bytes {s t : State} {x0 : Sys2Proof.Word} (h : execVeTrapClear x0 s = .next t) : t.bytes = s.bytes := by
  simp only [execVeTrapClear, Host.Outcome.next.injEq] at h
  subst h
  repeat' first | with_reducible rfl | with_reducible assumption | intro _ | simp only [State.trapWrite_bytes, bytes_mk, bytes_eta, Iter.state_done, Iter.state_fmt, Iter.state_trap, Whole.state_ran, Whole.state_stopped, Whole.state_denied] | split | with_reducible refine (foldl_bytes _ ?_ _ _).trans ?_

theorem execMemUeLogClear_bytes {s t : State} {x0 : Sys2Proof.Word} (h : execMemUeLogClear x0 s = .next t) : t.bytes = s.bytes := by
  simp only [execMemUeLogClear, Host.Outcome.next.injEq] at h
  subst h
  repeat' first | with_reducible rfl | with_reducible assumption | intro _ | simp only [State.ueLogWrite_bytes, bytes_mk, bytes_eta, Iter.state_done, Iter.state_fmt, Iter.state_trap, Whole.state_ran, Whole.state_stopped, Whole.state_denied] | split | with_reducible refine (foldl_bytes _ ?_ _ _).trans ?_

theorem execAlertClear_bytes {s t : State} {x0 : Sys2Proof.Word} (h : execAlertClear x0 s = .next t) : t.bytes = s.bytes := by
  simp only [execAlertClear, Host.Outcome.next.injEq] at h
  subst h
  repeat' first | with_reducible rfl | with_reducible assumption | intro _ | simp only [State.alertWrite_bytes, bytes_mk, bytes_eta, Iter.state_done, Iter.state_fmt, Iter.state_trap, Whole.state_ran, Whole.state_stopped, Whole.state_denied] | split | with_reducible refine (foldl_bytes _ ?_ _ _).trans ?_

theorem execCmConfigWrite_bytes {s t : State} {x0 : Option Nat} {x1 : Sys2Proof.Word} (h : execCmConfigWrite x0 x1 s = .next t) : t.bytes = s.bytes := by
  simp only [execCmConfigWrite, Host.Outcome.next.injEq] at h
  subst h
  repeat' first | with_reducible rfl | with_reducible assumption | intro _ | simp only [State.cmWrite_bytes, bytes_mk, bytes_eta, Iter.state_done, Iter.state_fmt, Iter.state_trap, Whole.state_ran, Whole.state_stopped, Whole.state_denied] | split | with_reducible refine (foldl_bytes _ ?_ _ _).trans ?_

theorem execEvtRingWrite_bytes {s t : State} {x0 : Sys2Proof.Word} (h : execEvtRingWrite x0 s = .next t) : t.bytes = s.bytes := by
  simp only [execEvtRingWrite, Host.Outcome.next.injEq] at h
  subst h
  repeat' first | with_reducible rfl | with_reducible assumption | intro _ | simp only [State.evtRingReg_bytes, bytes_mk, bytes_eta, Iter.state_done, Iter.state_fmt, Iter.state_trap, Whole.state_ran, Whole.state_stopped, Whole.state_denied] | split | with_reducible refine (foldl_bytes _ ?_ _ _).trans ?_

theorem execBmcRead_bytes {s t : State} {x0 : Nat} {x1 : Nat} (h : execBmcRead x0 x1 s = .next t) : t.bytes = s.bytes := by
  simp only [execBmcRead, Host.Outcome.next.injEq] at h
  subst h
  repeat' first | with_reducible rfl | with_reducible assumption | intro _ | simp only [State.emit_bytes, bytes_mk, bytes_eta, Iter.state_done, Iter.state_fmt, Iter.state_trap, Whole.state_ran, Whole.state_stopped, Whole.state_denied] | split | with_reducible refine (foldl_bytes _ ?_ _ _).trans ?_

theorem execRefresh_bytes {s t : State} {x0 : Nat} (h : execRefresh x0 s = .next t) : t.bytes = s.bytes := by
  simp only [execRefresh, Host.Outcome.next.injEq] at h
  subst h
  repeat' first | with_reducible rfl | with_reducible assumption | intro _ | simp only [State.bump_bytes, bytes_mk, bytes_eta, Iter.state_done, Iter.state_fmt, Iter.state_trap, Whole.state_ran, Whole.state_stopped, Whole.state_denied] | split | with_reducible refine (foldl_bytes _ ?_ _ _).trans ?_

theorem execRefreshStatusRead_bytes {s t : State} {x0 : Nat} {x1 : Bool} (h : execRefreshStatusRead x0 x1 s = .next t) : t.bytes = s.bytes := by
  simp only [execRefreshStatusRead, Host.Outcome.next.injEq] at h
  subst h
  repeat' first | with_reducible rfl | with_reducible assumption | intro _ | simp only [State.leaveLockstep_bytes, State.raise_bytes, bytes_mk, bytes_eta, Iter.state_done, Iter.state_fmt, Iter.state_trap, Whole.state_ran, Whole.state_stopped, Whole.state_denied] | split | with_reducible refine (foldl_bytes _ ?_ _ _).trans ?_

theorem execMemHotClear_bytes {s t : State} (h : execMemHotClear s = .next t) : t.bytes = s.bytes := by
  simp only [execMemHotClear, Host.Outcome.next.injEq] at h
  subst h
  repeat' first | with_reducible rfl | with_reducible assumption | intro _ | simp only [State.raise_bytes, bytes_mk, bytes_eta, Iter.state_done, Iter.state_fmt, Iter.state_trap, Whole.state_ran, Whole.state_stopped, Whole.state_denied] | split | with_reducible refine (foldl_bytes _ ?_ _ _).trans ?_

theorem execEventRingEntryWrite_bytes {s t : State} (h : execEventRingEntryWrite s = .next t) : t.bytes = s.bytes := by
  simp only [execEventRingEntryWrite, Host.Outcome.next.injEq] at h
  subst h
  repeat' first | with_reducible rfl | with_reducible assumption | intro _ | simp only [State.busWrite_bytes, State.interrupt_bytes, bytes_mk, bytes_eta, Iter.state_done, Iter.state_fmt, Iter.state_trap, Whole.state_ran, Whole.state_stopped, Whole.state_denied] | split | with_reducible refine (foldl_bytes _ ?_ _ _).trans ?_

theorem execHealthSample_bytes {s t : State} {x0 : Nat} {x1 : Sys2Proof.Measure} (h : execHealthSample x0 x1 s = .next t) : t.bytes = s.bytes := by
  simp only [execHealthSample, Host.Outcome.next.injEq] at h
  subst h
  repeat' first | with_reducible rfl | with_reducible assumption | intro _ | simp only [State.raise_bytes, bytes_mk, bytes_eta, Iter.state_done, Iter.state_fmt, Iter.state_trap, Whole.state_ran, Whole.state_stopped, Whole.state_denied] | split | with_reducible refine (foldl_bytes _ ?_ _ _).trans ?_

/-! ### Functions that write a memory -/

/-- The canonical form, on the bytes of the three memories. -/
def Sound (b : List Host.Cell × List Host.Cell × List Host.Cell) : Prop :=
  Ram.wf b.1 = true ∧ Ram.wf b.2.1 = true ∧ Ram.wf b.2.2 = true

theorem sound_iff (s : State) : Sound s.bytes ↔ Memory.wf s.mem = true := Memory.wf_parts.symm

theorem Sound.of {a b c : List Host.Cell} (h1 : Ram.wf a = true) (h2 : Ram.wf b = true) (h3 : Ram.wf c = true) : Sound (a, b, c) :=
  ⟨h1, h2, h3⟩

theorem Sound.ram {s : State} (h : Sound s.bytes) : Ram.wf s.mem.ram = true := h.1

theorem Sound.work {s : State} (h : Sound s.bytes) : Ram.wf s.mem.work = true := h.2.1

theorem Sound.cells {s : State} (h : Sound s.bytes) : Ram.wf s.mem.cells = true := h.2.2

theorem foldl_sound {α : Type} (f : State → α → State) (h : ∀ t a, Sound t.bytes → Sound (f t a).bytes) (l : List α) (b : State)
    (hb : Sound b.bytes) : Sound (l.foldl f b).bytes := by
  induction l generalizing b with
  | nil => exact hb
  | cons a l ih => exact ih _ (h _ _ hb)

theorem foldlB_sound {α : Type} (f : Body → α → Body) (h : ∀ t a, Sound t.s.bytes → Sound (f t a).s.bytes) (l : List α) (b : Body)
    (hb : Sound b.s.bytes) : Sound (l.foldl f b).s.bytes := by
  induction l generalizing b with
  | nil => exact hb
  | cons a l ih => exact ih _ (h _ _ hb)

theorem foldl1_sound {α β : Type} (f : State × β → α → State × β) (h : ∀ t a, Sound t.1.bytes → Sound (f t a).1.bytes) (l : List α) (b : State × β)
    (hb : Sound b.1.bytes) : Sound (l.foldl f b).1.bytes := by
  induction l generalizing b with
  | nil => exact hb
  | cons a l ih => exact ih _ (h _ _ hb)

theorem foldl2_sound {α β : Type} (f : β × State → α → β × State) (h : ∀ t a, Sound t.2.bytes → Sound (f t a).2.bytes) (l : List α) (b : β × State)
    (hb : Sound b.2.bytes) : Sound (l.foldl f b).2.bytes := by
  induction l generalizing b with
  | nil => exact hb
  | cons a l ih => exact ih _ (h _ _ hb)

theorem Whole.andThen_sound {s : State} {w : Whole} {f : State → Whole} (hw : Sound (w.state s).bytes)
    (h : ∀ t, Sound t.bytes → Sound ((f t).state t).bytes) (hs : Sound s.bytes) : Sound ((w.andThen f).state s).bytes := by
  cases w with
  | ran t =>
    have e := h t hw
    show Sound ((f t).state s).bytes
    cases hf : f t with
    | denied => exact hs
    | ran u => rw [hf] at e; exact e
    | stopped u => rw [hf] at e; exact e
  | stopped t => exact hw
  | denied => exact hs

theorem State.reading_sound {s : State} {d : Descr} {l : List (List Nat)} {f : List Nat → Whole}
    (h : ∀ cs, Sound ((f cs).state s).bytes) (hs : Sound s.bytes) : Sound ((s.reading d l f).state s).bytes := by
  unfold State.reading
  split
  · exact h _
  · exact hs

theorem State.memWrite_sound (s : State) (a : Nat) (l : List Byte) (hs : Sound s.bytes) : Sound (s.memWrite a l).bytes :=
  Memory.wf_parts.mp (Mem.write_wf s.mem a l (Memory.wf_parts.mpr hs))

theorem State.memClear_sound (s : State) (lo hi : Nat) (hs : Sound s.bytes) : Sound (s.memClear lo hi).bytes :=
  Memory.wf_parts.mp (Mem.clear_wf s.mem lo hi (Memory.wf_parts.mpr hs))

theorem State.stateWrite_sound (s : State) (x1 : _) (x2 : _) (hs : Sound s.bytes) : Sound (State.stateWrite s x1 x2).bytes := by
  unfold State.stateWrite
  repeat' first | with_reducible assumption | with_reducible intro _ | with_reducible refine State.memWrite_sound _ _ _ ?_ | simp only [State.noteTerm_bytes, State.resend_bytes, bytes_mk, bytes_eta, Iter.state_done, Iter.state_fmt, Iter.state_trap, Whole.state_ran, Whole.state_stopped, Whole.state_denied, Whole.goodIf_state] | with_reducible refine foldl_sound _ ?_ _ _ ?_ | with_reducible refine foldlB_sound _ ?_ _ _ ?_ | with_reducible refine foldl1_sound _ ?_ _ _ ?_ | with_reducible refine foldl2_sound _ ?_ _ _ ?_ | split

theorem State.zeroRetire_sound (s : State) (x1 : _) (hs : Sound s.bytes) : Sound (State.zeroRetire s x1).bytes := by
  unfold State.zeroRetire
  repeat' first | with_reducible assumption | with_reducible intro _ | with_reducible refine State.memClear_sound _ _ _ ?_ | simp only [State.retire_bytes, bytes_mk, bytes_eta, Iter.state_done, Iter.state_fmt, Iter.state_trap, Whole.state_ran, Whole.state_stopped, Whole.state_denied, Whole.goodIf_state] | split

theorem State.planGranuleBad_sound (s : State) (x1 : _) (hs : Sound s.bytes) : Sound (State.planGranuleBad s x1).bytes := by
  unfold State.planGranuleBad
  repeat' first | with_reducible assumption | with_reducible intro _ | with_reducible refine State.zeroRetire_sound _ _ ?_ | simp only [State.queueHeal_bytes, State.removePlan_bytes, bytes_mk, bytes_eta, Iter.state_done, Iter.state_fmt, Iter.state_trap, Whole.state_ran, Whole.state_stopped, Whole.state_denied, Whole.goodIf_state] | with_reducible refine foldl_sound _ ?_ _ _ ?_ | with_reducible refine foldlB_sound _ ?_ _ _ ?_ | with_reducible refine foldl1_sound _ ?_ _ _ ?_ | with_reducible refine foldl2_sound _ ?_ _ _ ?_ | split

theorem State.kvGranuleBad_sound (s : State) (x1 : _) (hs : Sound s.bytes) : Sound (State.kvGranuleBad s x1).bytes := by
  unfold State.kvGranuleBad
  repeat' first | with_reducible assumption | with_reducible intro _ | with_reducible refine State.zeroRetire_sound _ _ ?_ | simp only [bytes_mk, bytes_eta, Iter.state_done, Iter.state_fmt, Iter.state_trap, Whole.state_ran, Whole.state_stopped, Whole.state_denied, Whole.goodIf_state] | split

theorem State.spillGranuleBad_sound (s : State) (x1 : _) (hs : Sound s.bytes) : Sound (State.spillGranuleBad s x1).bytes := by
  unfold State.spillGranuleBad
  repeat' first | with_reducible assumption | with_reducible intro _ | with_reducible refine State.zeroRetire_sound _ _ ?_ | simp only [State.failInstance_bytes, bytes_mk, bytes_eta, Iter.state_done, Iter.state_fmt, Iter.state_trap, Whole.state_ran, Whole.state_stopped, Whole.state_denied, Whole.goodIf_state] | with_reducible refine foldl_sound _ ?_ _ _ ?_ | with_reducible refine foldlB_sound _ ?_ _ _ ?_ | with_reducible refine foldl1_sound _ ?_ _ _ ?_ | with_reducible refine foldl2_sound _ ?_ _ _ ?_ | split

theorem State.xorBlock_sound (s : State) (x1 : _) (x2 : _) (hs : Sound s.bytes) : Sound (State.xorBlock s x1 x2).bytes := by
  unfold State.xorBlock
  repeat' first | with_reducible assumption | with_reducible intro _ | with_reducible refine State.memWrite_sound _ _ _ ?_ | simp only [bytes_mk, bytes_eta, Iter.state_done, Iter.state_fmt, Iter.state_trap, Whole.state_ran, Whole.state_stopped, Whole.state_denied, Whole.goodIf_state] | with_reducible refine foldl_sound _ ?_ _ _ ?_ | with_reducible refine foldlB_sound _ ?_ _ _ ?_ | with_reducible refine foldl1_sound _ ?_ _ _ ?_ | with_reducible refine foldl2_sound _ ?_ _ _ ?_ | split

theorem State.badGranule_sound (s : State) (x1 : _) (hs : Sound s.bytes) : Sound (State.badGranule s x1).bytes := by
  unfold State.badGranule
  repeat' first | with_reducible assumption | with_reducible intro _ | with_reducible refine State.kvGranuleBad_sound _ _ ?_ | with_reducible refine State.planGranuleBad_sound _ _ ?_ | with_reducible refine State.spillGranuleBad_sound _ _ ?_ | with_reducible refine State.zeroRetire_sound _ _ ?_ | simp only [State.queueHeal_bytes, bytes_mk, bytes_eta, Iter.state_done, Iter.state_fmt, Iter.state_trap, Whole.state_ran, Whole.state_stopped, Whole.state_denied, Whole.goodIf_state] | split

theorem State.readBlock_sound (s : State) (x1 : _) (hs : Sound s.bytes) : Sound (State.readBlock s x1).bytes := by
  unfold State.readBlock
  repeat' first | with_reducible assumption | with_reducible intro _ | with_reducible refine State.badGranule_sound _ _ ?_ | with_reducible refine State.xorBlock_sound _ _ _ ?_ | simp only [State.bump_bytes, State.chargeChannel_bytes, State.logUe_bytes, State.rewrite_bytes, bytes_mk, bytes_eta, Iter.state_done, Iter.state_fmt, Iter.state_trap, Whole.state_ran, Whole.state_stopped, Whole.state_denied, Whole.goodIf_state] | split

theorem State.fetchRange_sound (s : State) (x1 : _) (x2 : _) (hs : Sound s.bytes) : Sound (State.fetchRange s x1 x2).bytes := by
  unfold State.fetchRange
  repeat' first | with_reducible assumption | with_reducible intro _ | with_reducible refine State.readBlock_sound _ _ ?_ | simp only [bytes_mk, bytes_eta, Iter.state_done, Iter.state_fmt, Iter.state_trap, Whole.state_ran, Whole.state_stopped, Whole.state_denied, Whole.goodIf_state] | with_reducible refine foldl_sound _ ?_ _ _ ?_ | with_reducible refine foldlB_sound _ ?_ _ _ ?_ | with_reducible refine foldl1_sound _ ?_ _ _ ?_ | with_reducible refine foldl2_sound _ ?_ _ _ ?_ | split

theorem State.fetchEdges_sound (s : State) (x1 : _) (x2 : _) (hs : Sound s.bytes) : Sound (State.fetchEdges s x1 x2).bytes := by
  unfold State.fetchEdges
  repeat' first | with_reducible assumption | with_reducible intro _ | with_reducible refine State.readBlock_sound _ _ ?_ | simp only [bytes_mk, bytes_eta, Iter.state_done, Iter.state_fmt, Iter.state_trap, Whole.state_ran, Whole.state_stopped, Whole.state_denied, Whole.goodIf_state] | with_reducible refine foldl_sound _ ?_ _ _ ?_ | with_reducible refine foldlB_sound _ ?_ _ _ ?_ | with_reducible refine foldl1_sound _ ?_ _ _ ?_ | with_reducible refine foldl2_sound _ ?_ _ _ ?_ | split

theorem State.fetchObject_sound (s : State) (x1 : _) (x2 : _) (hs : Sound s.bytes) : Sound (State.fetchObject s x1 x2).bytes := by
  unfold State.fetchObject
  repeat' first | with_reducible assumption | with_reducible intro _ | with_reducible refine State.readBlock_sound _ _ ?_ | simp only [bytes_mk, bytes_eta, Iter.state_done, Iter.state_fmt, Iter.state_trap, Whole.state_ran, Whole.state_stopped, Whole.state_denied, Whole.goodIf_state] | with_reducible refine foldl_sound _ ?_ _ _ ?_ | with_reducible refine foldlB_sound _ ?_ _ _ ?_ | with_reducible refine foldl1_sound _ ?_ _ _ ?_ | with_reducible refine foldl2_sound _ ?_ _ _ ?_ | split

theorem State.fetchAll_sound (s : State) (x1 : _) (x2 : _) (hs : Sound s.bytes) : Sound (State.fetchAll s x1 x2).bytes := by
  unfold State.fetchAll
  repeat' first | with_reducible assumption | with_reducible intro _ | with_reducible refine State.fetchEdges_sound _ _ _ ?_ | with_reducible refine State.fetchRange_sound _ _ _ ?_ | simp only [bytes_mk, bytes_eta, Iter.state_done, Iter.state_fmt, Iter.state_trap, Whole.state_ran, Whole.state_stopped, Whole.state_denied, Whole.goodIf_state] | with_reducible refine foldl_sound _ ?_ _ _ ?_ | with_reducible refine foldlB_sound _ ?_ _ _ ?_ | with_reducible refine foldl1_sound _ ?_ _ _ ?_ | with_reducible refine foldl2_sound _ ?_ _ _ ?_ | split

theorem State.setHeader_sound (s : State) (x1 : _) (x2 : _) (x3 : _) (x4 : _) (x5 : _) (x6 : _) (hs : Sound s.bytes) : Sound (State.setHeader s x1 x2 x3 x4 x5 x6).bytes := by
  unfold State.setHeader
  repeat' first | with_reducible assumption | with_reducible intro _ | with_reducible refine State.stateWrite_sound _ _ _ ?_ | simp only [bytes_mk, bytes_eta, Iter.state_done, Iter.state_fmt, Iter.state_trap, Whole.state_ran, Whole.state_stopped, Whole.state_denied, Whole.goodIf_state] | split

theorem State.firstUpdate_sound (s : State) (x1 : _) (x2 : _) (hs : Sound s.bytes) : Sound (State.firstUpdate s x1 x2).bytes := by
  unfold State.firstUpdate
  repeat' first | with_reducible assumption | with_reducible intro _ | with_reducible refine State.setHeader_sound _ _ _ _ _ _ _ ?_ | simp only [bytes_mk, bytes_eta, Iter.state_done, Iter.state_fmt, Iter.state_trap, Whole.state_ran, Whole.state_stopped, Whole.state_denied, Whole.goodIf_state] | split

theorem State.applyElems_sound (s : State) (x1 : _) (x2 : _) (x3 : _) (x4 : _) (x5 : _) (x6 : _) (hs : Sound s.bytes) : Sound (State.applyElems s x1 x2 x3 x4 x5 x6).2.bytes := by
  unfold State.applyElems
  repeat' first | with_reducible assumption | with_reducible intro _ | with_reducible refine State.firstUpdate_sound _ _ _ ?_ | with_reducible refine State.stateWrite_sound _ _ _ ?_ | simp only [State.markSegments_bytes, bytes_mk, bytes_eta, Iter.state_done, Iter.state_fmt, Iter.state_trap, Whole.state_ran, Whole.state_stopped, Whole.state_denied, Whole.goodIf_state] | split

theorem State.applyWhole_sound (s : State) (x1 : _) (x2 : _) (x3 : _) (x4 : _) (x5 : _) (hs : Sound s.bytes) : Sound (State.applyWhole s x1 x2 x3 x4 x5).bytes := by
  unfold State.applyWhole
  repeat' first | with_reducible assumption | with_reducible intro _ | with_reducible refine State.firstUpdate_sound _ _ _ ?_ | with_reducible refine State.stateWrite_sound _ _ _ ?_ | simp only [State.markSegments_bytes, bytes_mk, bytes_eta, Iter.state_done, Iter.state_fmt, Iter.state_trap, Whole.state_ran, Whole.state_stopped, Whole.state_denied, Whole.goodIf_state] | split

theorem State.copyBank_sound (s : State) (x1 : _) (x2 : _) (hs : Sound s.bytes) : Sound (State.copyBank s x1 x2).bytes := by
  unfold State.copyBank
  repeat' first | with_reducible assumption | with_reducible intro _ | with_reducible refine State.stateWrite_sound _ _ _ ?_ | simp only [bytes_mk, bytes_eta, Iter.state_done, Iter.state_fmt, Iter.state_trap, Whole.state_ran, Whole.state_stopped, Whole.state_denied, Whole.goodIf_state] | split

theorem State.carryShard_sound (s : State) (x1 : _) (x2 : _) (hs : Sound s.bytes) : Sound (State.carryShard s x1 x2).bytes := by
  unfold State.carryShard
  repeat' first | with_reducible assumption | with_reducible intro _ | with_reducible refine State.copyBank_sound _ _ _ ?_ | simp only [State.bump_bytes, bytes_mk, bytes_eta, Iter.state_done, Iter.state_fmt, Iter.state_trap, Whole.state_ran, Whole.state_stopped, Whole.state_denied, Whole.goodIf_state] | with_reducible refine foldl_sound _ ?_ _ _ ?_ | with_reducible refine foldlB_sound _ ?_ _ _ ?_ | with_reducible refine foldl1_sound _ ?_ _ _ ?_ | with_reducible refine foldl2_sound _ ?_ _ _ ?_ | split

theorem State.carryAll_sound (s : State) (hs : Sound s.bytes) : Sound (State.carryAll s).bytes := by
  unfold State.carryAll
  repeat' first | with_reducible assumption | with_reducible intro _ | with_reducible refine State.carryShard_sound _ _ _ ?_ | simp only [bytes_mk, bytes_eta, Iter.state_done, Iter.state_fmt, Iter.state_trap, Whole.state_ran, Whole.state_stopped, Whole.state_denied, Whole.goodIf_state] | with_reducible refine foldl_sound _ ?_ _ _ ?_ | with_reducible refine foldlB_sound _ ?_ _ _ ?_ | with_reducible refine foldl1_sound _ ?_ _ _ ?_ | with_reducible refine foldl2_sound _ ?_ _ _ ?_ | split

theorem State.spaceWrite_sound (s : State) (p a : Nat) (l : List Byte) (hs : Sound s.bytes) : Sound (s.spaceWrite p a l).bytes := by
  unfold State.spaceWrite
  split
  · exact ⟨hs.1, hs.2.1, Ram.writeN_wf _ _ _ hs.2.2⟩
  · split
    · exact ⟨hs.1, Ram.writeN_wf _ _ _ hs.2.1, hs.2.2⟩
    · exact State.stateWrite_sound _ _ _ hs

theorem State.putCode_sound (s : State) (x1 : _) (x2 : _) (hs : Sound s.bytes) : Sound (State.putCode s x1 x2).bytes := by
  unfold State.putCode
  repeat' first | with_reducible assumption | with_reducible intro _ | with_reducible refine State.spaceWrite_sound _ _ _ _ ?_ | simp only [bytes_mk, bytes_eta, Iter.state_done, Iter.state_fmt, Iter.state_trap, Whole.state_ran, Whole.state_stopped, Whole.state_denied, Whole.goodIf_state] | split

theorem State.fetchPlace_sound (s : State) (x1 : _) (hs : Sound s.bytes) : Sound (State.fetchPlace s x1).bytes := by
  unfold State.fetchPlace
  repeat' first | with_reducible assumption | with_reducible intro _ | with_reducible refine State.fetchRange_sound _ _ _ ?_ | simp only [bytes_mk, bytes_eta, Iter.state_done, Iter.state_fmt, Iter.state_trap, Whole.state_ran, Whole.state_stopped, Whole.state_denied, Whole.goodIf_state] | split

theorem State.putAt_sound {s t : State} {d : Descr} {ix : List Nat} {c : Nat} (h : s.putAt d ix c = some t) (hs : Sound s.bytes) :
    Sound t.bytes := by
  unfold State.putAt at h
  obtain ⟨p, _, rfl⟩ := Option.map_eq_some_iff.mp h
  exact State.putCode_sound s p c hs

theorem State.putAt_getD_sound (s : State) (d : Descr) (ix : List Nat) (c : Nat) (hs : Sound s.bytes) : Sound ((s.putAt d ix c).getD s).bytes := by
  cases h : s.putAt d ix c with
  | none => exact hs
  | some t => exact State.putAt_sound h hs

theorem State.putWalk_sound (s : State) (d : Descr) (n : Nat) (l : List Nat) (hs : Sound s.bytes) : Sound (s.putWalk d n l).bytes := by
  unfold State.putWalk
  exact foldl_sound _ (fun t a h => State.putAt_getD_sound t d _ _ h) _ _ hs

theorem State.putCodes_sound (s : State) (d : Descr) (l : List (List Nat)) (cs : List Nat) (hs : Sound s.bytes) :
    Sound (s.putCodes d l cs).1.bytes := by
  induction cs generalizing s l with
  | nil => simpa only [State.putCodes] using hs
  | cons c cs ih =>
    cases l with
    | nil => simpa only [State.putCodes] using hs
    | cons ix t =>
      rw [State.putCodes]
      split
      · rename_i u hu
        exact ih u t (State.putAt_sound hu hs)
      · exact hs

theorem State.blocksFrom_sound (x0 : _) (x1 : _) (x2 : _) (x3 : _) (x4 : _) (x5 : _) (s : State) (hs : Sound s.bytes) : Sound (State.blocksFrom x0 x1 x2 x3 x4 x5 s).bytes := by
  induction x4 generalizing x5 s with
  | zero => unfold State.blocksFrom; repeat' first | with_reducible assumption | with_reducible intro _ | with_reducible refine State.fetchObject_sound _ _ _ ?_ | simp only [State.blockMissing_bytes, State.sendBlock_bytes, bytes_mk, bytes_eta, Iter.state_done, Iter.state_fmt, Iter.state_trap, Whole.state_ran, Whole.state_stopped, Whole.state_denied, Whole.goodIf_state] | split
  | succ n ih =>
    unfold State.blocksFrom
    repeat' first | with_reducible refine ih _ _ ?_ | with_reducible assumption | with_reducible intro _ | with_reducible refine State.fetchObject_sound _ _ _ ?_ | simp only [State.blockMissing_bytes, State.sendBlock_bytes, bytes_mk, bytes_eta, Iter.state_done, Iter.state_fmt, Iter.state_trap, Whole.state_ran, Whole.state_stopped, Whole.state_denied, Whole.goodIf_state] | split

theorem State.seqAdvance_sound (s : State) (x1 : _) (hs : Sound s.bytes) : Sound (State.seqAdvance s x1).bytes := by
  unfold State.seqAdvance
  repeat' first | with_reducible assumption | with_reducible intro _ | with_reducible refine State.blocksFrom_sound _ _ _ _ _ _ _ ?_ | simp only [State.failInstance_bytes, State.freeAfter_bytes, State.rootEnd_bytes, State.storeStaged_bytes, bytes_mk, bytes_eta, Iter.state_done, Iter.state_fmt, Iter.state_trap, Whole.state_ran, Whole.state_stopped, Whole.state_denied, Whole.goodIf_state] | with_reducible refine foldl_sound _ ?_ _ _ ?_ | with_reducible refine foldlB_sound _ ?_ _ _ ?_ | with_reducible refine foldl1_sound _ ?_ _ _ ?_ | with_reducible refine foldl2_sound _ ?_ _ _ ?_ | split

theorem State.dispOpen_sound (s : State) (x1 : _) (x2 : _) (x3 : _) (hs : Sound s.bytes) : Sound (State.dispOpen s x1 x2 x3).bytes := by
  unfold State.dispOpen
  repeat' first | with_reducible assumption | with_reducible intro _ | with_reducible refine State.fetchObject_sound _ _ _ ?_ | simp only [State.failInstance_bytes, State.raise_bytes, bytes_mk, bytes_eta, Iter.state_done, Iter.state_fmt, Iter.state_trap, Whole.state_ran, Whole.state_stopped, Whole.state_denied, Whole.goodIf_state] | split

theorem State.openInstance_sound (s : State) (x1 : _) (x2 : _) (x3 : _) (x4 : _) (x5 : _) (hs : Sound s.bytes) : Sound (State.openInstance s x1 x2 x3 x4 x5).bytes := by
  unfold State.openInstance
  repeat' first | with_reducible assumption | with_reducible intro _ | with_reducible refine State.dispOpen_sound _ _ _ _ ?_ | simp only [State.acceptRug_bytes, State.failInstance_bytes, State.openSlot_bytes, State.releaseMirrors_bytes, State.seqOpen_bytes, bytes_mk, bytes_eta, Iter.state_done, Iter.state_fmt, Iter.state_trap, Whole.state_ran, Whole.state_stopped, Whole.state_denied, Whole.goodIf_state] | split

theorem State.straggle_sound (s : State) (x1 : _) (x2 : _) (hs : Sound s.bytes) : Sound (State.straggle s x1 x2).bytes := by
  unfold State.straggle
  repeat' first | with_reducible assumption | with_reducible intro _ | with_reducible refine State.fetchObject_sound _ _ _ ?_ | simp only [bytes_mk, bytes_eta, Iter.state_done, Iter.state_fmt, Iter.state_trap, Whole.state_ran, Whole.state_stopped, Whole.state_denied, Whole.goodIf_state] | split

theorem State.settle_sound (s : State) (hs : Sound s.bytes) : Sound (State.settle s).bytes := by
  unfold State.settle
  repeat' first | with_reducible assumption | with_reducible intro _ | with_reducible refine State.seqAdvance_sound _ _ ?_ | simp only [State.settleNorm_bytes, bytes_mk, bytes_eta, Iter.state_done, Iter.state_fmt, Iter.state_trap, Whole.state_ran, Whole.state_stopped, Whole.state_denied, Whole.goodIf_state] | with_reducible refine foldl_sound _ ?_ _ _ ?_ | with_reducible refine foldlB_sound _ ?_ _ _ ?_ | with_reducible refine foldl1_sound _ ?_ _ _ ?_ | with_reducible refine foldl2_sound _ ?_ _ _ ?_ | split

theorem State.after_sound (s : State) (x1 : _) (hs : Sound s.bytes) : Sound (State.after s x1).bytes := by
  unfold State.after
  repeat' first | with_reducible assumption | with_reducible intro _ | with_reducible refine State.settle_sound _ ?_ | simp only [State.advance_bytes, bytes_mk, bytes_eta, Iter.state_done, Iter.state_fmt, Iter.state_trap, Whole.state_ran, Whole.state_stopped, Whole.state_denied, Whole.goodIf_state] | split

theorem State.resFetch_sound (s : State) (x1 : _) (x2 : _) (x3 : _) (x4 : _) (hs : Sound s.bytes) : Sound (State.resFetch s x1 x2 x3 x4).bytes := by
  unfold State.resFetch
  repeat' first | with_reducible assumption | with_reducible intro _ | with_reducible refine State.fetchPlace_sound _ _ ?_ | simp only [bytes_mk, bytes_eta, Iter.state_done, Iter.state_fmt, Iter.state_trap, Whole.state_ran, Whole.state_stopped, Whole.state_denied, Whole.goodIf_state] | with_reducible refine foldl_sound _ ?_ _ _ ?_ | with_reducible refine foldlB_sound _ ?_ _ _ ?_ | with_reducible refine foldl1_sound _ ?_ _ _ ?_ | with_reducible refine foldl2_sound _ ?_ _ _ ?_ | split

theorem State.writeResH_sound (s : State) (x1 : _) (x2 : _) (x3 : _) (x4 : _) (x5 : _) (x6 : _) (x7 : _) (hs : Sound s.bytes) : Sound (State.writeResH s x1 x2 x3 x4 x5 x6 x7).bytes := by
  unfold State.writeResH
  repeat' first | with_reducible assumption | with_reducible intro _ | with_reducible refine State.putWalk_sound _ _ _ _ ?_ | simp only [State.addToken_bytes, bytes_mk, bytes_eta, Iter.state_done, Iter.state_fmt, Iter.state_trap, Whole.state_ran, Whole.state_stopped, Whole.state_denied, Whole.goodIf_state] | with_reducible refine foldl_sound _ ?_ _ _ ?_ | with_reducible refine foldlB_sound _ ?_ _ _ ?_ | with_reducible refine foldl1_sound _ ?_ _ _ ?_ | with_reducible refine foldl2_sound _ ?_ _ _ ?_ | split

theorem State.openFor_sound (s : State) (x1 : _) (x2 : _) (x3 : _) (x4 : _) (x5 : _) (hs : Sound s.bytes) : Sound (State.openFor s x1 x2 x3 x4 x5).bytes := by
  unfold State.openFor
  repeat' first | with_reducible assumption | with_reducible intro _ | with_reducible refine State.openInstance_sound _ _ _ _ _ _ ?_ | simp only [State.absentDown_bytes, bytes_mk, bytes_eta, Iter.state_done, Iter.state_fmt, Iter.state_trap, Whole.state_ran, Whole.state_stopped, Whole.state_denied, Whole.goodIf_state] | split

theorem enter_sound (s : State) (m : Msg) (k : Plan → Slot → State → State) (h : ∀ p v t, Sound t.bytes → Sound (k p v t).bytes)
    (hs : Sound s.bytes) : Sound (s.enter m k).bytes := by
  unfold State.enter
  repeat' first | with_reducible assumption | with_reducible refine h _ _ _ ?_ | with_reducible refine State.openFor_sound _ _ _ _ _ _ ?_ | simp only [State.takeInbox_bytes, State.bump_bytes, State.mismatch_bytes, State.failInstance_bytes, bytes_mk, bytes_eta] | split

theorem State.stageContrib_sound (s : State) (x1 : _) (x2 : _) (x3 : _) (x4 : _) (x5 : _) (hs : Sound s.bytes) : Sound (State.stageContrib s x1 x2 x3 x4 x5).bytes := by
  unfold State.stageContrib
  repeat' first | with_reducible assumption | with_reducible intro _ | with_reducible refine State.after_sound _ _ ?_ | simp only [State.bump_bytes, State.gatherFrom_bytes, State.modSlot_bytes, State.orderedUp_bytes, bytes_mk, bytes_eta, Iter.state_done, Iter.state_fmt, Iter.state_trap, Whole.state_ran, Whole.state_stopped, Whole.state_denied, Whole.goodIf_state] | rw [State.takeCredit_bytes (by assumption)] | split

theorem execContribReceive_sound {s t : State} {x0 : Sys2Proof.Msg} (h : execContribReceive x0 s = .next t) (hs : Sound s.bytes) : Sound t.bytes := by
  simp only [execContribReceive, Host.Outcome.next.injEq] at h
  subst h
  repeat' first | with_reducible assumption | with_reducible intro _ | with_reducible refine State.stageContrib_sound _ _ _ _ _ _ ?_ | simp only [State.mismatch_bytes, bytes_mk, bytes_eta, Iter.state_done, Iter.state_fmt, Iter.state_trap, Whole.state_ran, Whole.state_stopped, Whole.state_denied, Whole.goodIf_state] | with_reducible refine enter_sound _ _ _ ?_ ?_ | split

theorem execExpsReceive_sound {s t : State} {x0 : Sys2Proof.Msg} (h : execExpsReceive x0 s = .next t) (hs : Sound s.bytes) : Sound t.bytes := by
  simp only [execExpsReceive, Host.Outcome.next.injEq] at h
  subst h
  repeat' first | with_reducible assumption | with_reducible intro _ | simp only [State.bump_bytes, State.mismatch_bytes, State.modSlot_bytes, State.setSlot_bytes, bytes_mk, bytes_eta, Iter.state_done, Iter.state_fmt, Iter.state_trap, Whole.state_ran, Whole.state_stopped, Whole.state_denied, Whole.goodIf_state] | with_reducible refine enter_sound _ _ _ ?_ ?_ | rw [State.takeCredit_bytes (by assumption)] | split

theorem State.expsRound_sound (s : State) (x1 : _) (x2 : _) (x3 : _) (x4 : _) (x5 : _) (hs : Sound s.bytes) : Sound (State.expsRound s x1 x2 x3 x4 x5).bytes := by
  unfold State.expsRound
  repeat' first | with_reducible assumption | with_reducible intro _ | with_reducible refine State.straggle_sound _ _ _ ?_ | simp only [State.modSlot_bytes, State.sendFirst_bytes, State.sendMsg_bytes, bytes_mk, bytes_eta, Iter.state_done, Iter.state_fmt, Iter.state_trap, Whole.state_ran, Whole.state_stopped, Whole.state_denied, Whole.goodIf_state] | with_reducible refine foldl_sound _ ?_ _ _ ?_ | with_reducible refine foldlB_sound _ ?_ _ _ ?_ | with_reducible refine foldl1_sound _ ?_ _ _ ?_ | with_reducible refine foldl2_sound _ ?_ _ _ ?_ | split

theorem execExpsSend_sound {s t : State} {x0 : BitVec 20} {x1 : Nat} (h : execExpsSend x0 x1 s = .next t) (hs : Sound s.bytes) : Sound t.bytes := by
  simp only [execExpsSend, Host.Outcome.next.injEq] at h
  subst h
  repeat' first | with_reducible assumption | with_reducible intro _ | with_reducible refine State.expsRound_sound _ _ _ _ _ _ ?_ | simp only [bytes_mk, bytes_eta, Iter.state_done, Iter.state_fmt, Iter.state_trap, Whole.state_ran, Whole.state_stopped, Whole.state_denied, Whole.goodIf_state] | split

theorem execMaxeReceive_sound {s t : State} {x0 : Sys2Proof.Msg} (h : execMaxeReceive x0 s = .next t) (hs : Sound s.bytes) : Sound t.bytes := by
  simp only [execMaxeReceive, Host.Outcome.next.injEq] at h
  subst h
  repeat' first | with_reducible assumption | with_reducible intro _ | simp only [State.mismatch_bytes, State.modSlot_bytes, State.sendMsg_bytes, bytes_mk, bytes_eta, Iter.state_done, Iter.state_fmt, Iter.state_trap, Whole.state_ran, Whole.state_stopped, Whole.state_denied, Whole.goodIf_state] | with_reducible refine foldl_sound _ ?_ _ _ ?_ | with_reducible refine foldlB_sound _ ?_ _ _ ?_ | with_reducible refine foldl1_sound _ ?_ _ _ ?_ | with_reducible refine foldl2_sound _ ?_ _ _ ?_ | with_reducible refine enter_sound _ _ _ ?_ ?_ | split

theorem execPsumReceive_sound {s t : State} {x0 : Sys2Proof.Msg} (h : execPsumReceive x0 s = .next t) (hs : Sound s.bytes) : Sound t.bytes := by
  simp only [execPsumReceive, Host.Outcome.next.injEq] at h
  subst h
  repeat' first | with_reducible assumption | with_reducible intro _ | simp only [State.bump_bytes, State.mismatch_bytes, State.modSlot_bytes, bytes_mk, bytes_eta, Iter.state_done, Iter.state_fmt, Iter.state_trap, Whole.state_ran, Whole.state_stopped, Whole.state_denied, Whole.goodIf_state] | with_reducible refine enter_sound _ _ _ ?_ ?_ | rw [State.takeCredit_bytes (by assumption)] | split

theorem State.park_sound (s : State) (x1 : _) (x2 : _) (x3 : _) (x4 : _) (hs : Sound s.bytes) : Sound (State.park s x1 x2 x3 x4).bytes := by
  unfold State.park
  repeat' first | with_reducible assumption | with_reducible intro _ | with_reducible refine State.fetchEdges_sound _ _ _ ?_ | with_reducible refine State.stateWrite_sound _ _ _ ?_ | simp only [State.modSlot_bytes, bytes_mk, bytes_eta, Iter.state_done, Iter.state_fmt, Iter.state_trap, Whole.state_ran, Whole.state_stopped, Whole.state_denied, Whole.goodIf_state] | split

theorem State.rugFormed_sound (s : State) (x1 : _) (x2 : _) (x3 : _) (x4 : _) (x5 : _) (hs : Sound s.bytes) : Sound (State.rugFormed s x1 x2 x3 x4 x5).bytes := by
  unfold State.rugFormed
  repeat' first | with_reducible assumption | with_reducible intro _ | with_reducible refine State.park_sound _ _ _ _ _ ?_ | simp only [State.failInstance_bytes, State.sendMessage_bytes, State.setSlot_bytes, bytes_mk, bytes_eta, Iter.state_done, Iter.state_fmt, Iter.state_trap, Whole.state_ran, Whole.state_stopped, Whole.state_denied, Whole.goodIf_state] | split

theorem State.formFetch_sound (s : State) (x1 : _) (x2 : _) (hs : Sound s.bytes) : Sound (State.formFetch s x1 x2).bytes := by
  unfold State.formFetch
  repeat' first | with_reducible assumption | with_reducible intro _ | with_reducible refine State.fetchAll_sound _ _ _ ?_ | with_reducible refine State.resFetch_sound _ _ _ _ _ ?_ | simp only [bytes_mk, bytes_eta, Iter.state_done, Iter.state_fmt, Iter.state_trap, Whole.state_ran, Whole.state_stopped, Whole.state_denied, Whole.goodIf_state] | split

theorem execFoldResultForm_sound {s t : State} {x0 : BitVec 20} {x1 : Nat} (h : execFoldResultForm x0 x1 s = .next t) (hs : Sound s.bytes) : Sound t.bytes := by
  simp only [execFoldResultForm, Host.Outcome.next.injEq] at h
  subst h
  repeat' first | with_reducible assumption | with_reducible intro _ | with_reducible refine State.after_sound _ _ ?_ | with_reducible refine State.formFetch_sound _ _ _ ?_ | with_reducible refine State.rugFormed_sound _ _ _ _ _ _ ?_ | with_reducible refine State.settle_sound _ ?_ | with_reducible refine State.straggle_sound _ _ _ ?_ | with_reducible refine State.writeResH_sound _ _ _ _ _ _ _ _ ?_ | simp only [State.bump_bytes, State.freeChunk_bytes, State.markDown_bytes, State.modSlot_bytes, State.resultEffect_bytes, State.sendDown_bytes, bytes_mk, bytes_eta, Iter.state_done, Iter.state_fmt, Iter.state_trap, Whole.state_ran, Whole.state_stopped, Whole.state_denied, Whole.goodIf_state] | split

theorem execResultReceive_sound {s t : State} {x0 : Sys2Proof.Msg} (h : execResultReceive x0 s = .next t) (hs : Sound s.bytes) : Sound t.bytes := by
  simp only [execResultReceive, Host.Outcome.next.injEq] at h
  subst h
  repeat' first | with_reducible assumption | with_reducible intro _ | with_reducible refine State.after_sound _ _ ?_ | simp only [State.markDown_bytes, State.mismatch_bytes, State.resultEffect_bytes, State.sendDown_bytes, bytes_mk, bytes_eta, Iter.state_done, Iter.state_fmt, Iter.state_trap, Whole.state_ran, Whole.state_stopped, Whole.state_denied, Whole.goodIf_state] | with_reducible refine enter_sound _ _ _ ?_ ?_ | split

theorem execEndReceive_sound {s t : State} {x0 : Sys2Proof.Msg} (h : execEndReceive x0 s = .next t) (hs : Sound s.bytes) : Sound t.bytes := by
  simp only [execEndReceive, Host.Outcome.next.injEq] at h
  subst h
  repeat' first | with_reducible assumption | with_reducible intro _ | with_reducible refine State.settle_sound _ ?_ | simp only [State.bump_bytes, State.endFresh_bytes, State.endMatched_bytes, State.endNoted_bytes, State.mismatch_bytes, State.takeInbox_bytes, bytes_mk, bytes_eta, Iter.state_done, Iter.state_fmt, Iter.state_trap, Whole.state_ran, Whole.state_stopped, Whole.state_denied, Whole.goodIf_state] | split

theorem State.routerFetch_sound (s : State) (x1 : _) (hs : Sound s.bytes) : Sound (State.routerFetch s x1).bytes := by
  unfold State.routerFetch
  repeat' first | with_reducible assumption | with_reducible intro _ | with_reducible refine State.fetchPlace_sound _ _ ?_ | simp only [bytes_mk, bytes_eta, Iter.state_done, Iter.state_fmt, Iter.state_trap, Whole.state_ran, Whole.state_stopped, Whole.state_denied, Whole.goodIf_state] | with_reducible refine foldl_sound _ ?_ _ _ ?_ | with_reducible refine foldlB_sound _ ?_ _ _ ?_ | with_reducible refine foldl1_sound _ ?_ _ _ ?_ | with_reducible refine foldl2_sound _ ?_ _ _ ?_ | split

theorem State.dispCounts_sound (s : State) (x1 : _) (x2 : _) (x3 : _) (x4 : _) (hs : Sound s.bytes) : Sound (State.dispCounts s x1 x2 x3 x4).bytes := by
  unfold State.dispCounts
  repeat' first | with_reducible assumption | with_reducible intro _ | with_reducible refine State.routerFetch_sound _ _ ?_ | simp only [State.bump_bytes, State.failInstance_bytes, State.sendParts_bytes, State.setDisp_bytes, bytes_mk, bytes_eta, Iter.state_done, Iter.state_fmt, Iter.state_trap, Whole.state_ran, Whole.state_stopped, Whole.state_denied, Whole.goodIf_state] | with_reducible refine foldl_sound _ ?_ _ _ ?_ | with_reducible refine foldlB_sound _ ?_ _ _ ?_ | with_reducible refine foldl1_sound _ ?_ _ _ ?_ | with_reducible refine foldl2_sound _ ?_ _ _ ?_ | split

theorem State.dispAdvance_sound (s : State) (x1 : _) (x2 : _) (x3 : _) (hs : Sound s.bytes) : Sound (State.dispAdvance s x1 x2 x3).bytes := by
  unfold State.dispAdvance
  repeat' first | with_reducible assumption | with_reducible intro _ | with_reducible refine State.dispCounts_sound _ _ _ _ _ ?_ | simp only [State.bwdRows_bytes, State.combine_bytes, State.dispDeliver_bytes, State.dispGrants_bytes, State.dispHostLost_bytes, State.dispRows_bytes, State.returnRows_bytes, bytes_mk, bytes_eta, Iter.state_done, Iter.state_fmt, Iter.state_trap, Whole.state_ran, Whole.state_stopped, Whole.state_denied, Whole.goodIf_state] | with_reducible refine foldl_sound _ ?_ _ _ ?_ | with_reducible refine foldlB_sound _ ?_ _ _ ?_ | with_reducible refine foldl1_sound _ ?_ _ _ ?_ | with_reducible refine foldl2_sound _ ?_ _ _ ?_ | split

theorem State.pass2_sound (s : State) (x1 : _) (x2 : _) (x3 : _) (x4 : _) (hs : Sound s.bytes) : Sound (State.pass2 s x1 x2 x3 x4).bytes := by
  unfold State.pass2
  repeat' first | with_reducible assumption | with_reducible intro _ | with_reducible refine State.putWalk_sound _ _ _ _ ?_ | simp only [State.bump_bytes, State.sendParts_bytes, State.setSparse_bytes, bytes_mk, bytes_eta, Iter.state_done, Iter.state_fmt, Iter.state_trap, Whole.state_ran, Whole.state_stopped, Whole.state_denied, Whole.goodIf_state] | with_reducible refine foldl_sound _ ?_ _ _ ?_ | with_reducible refine foldlB_sound _ ?_ _ _ ?_ | with_reducible refine foldl1_sound _ ?_ _ _ ?_ | with_reducible refine foldl2_sound _ ?_ _ _ ?_ | split

theorem execSpaccPass2_sound {s t : State} {x0 : BitVec 20} (h : execSpaccPass2 x0 s = .next t) (hs : Sound s.bytes) : Sound t.bytes := by
  simp only [execSpaccPass2, Host.Outcome.next.injEq] at h
  subst h
  repeat' first | with_reducible assumption | with_reducible intro _ | with_reducible refine State.fetchObject_sound _ _ _ ?_ | with_reducible refine State.pass2_sound _ _ _ _ _ ?_ | with_reducible refine State.settle_sound _ ?_ | simp only [State.closeSlot_bytes, State.pass1All_bytes, bytes_mk, bytes_eta, Iter.state_done, Iter.state_fmt, Iter.state_trap, Whole.state_ran, Whole.state_stopped, Whole.state_denied, Whole.goodIf_state] | split

theorem State.exchAdvance_sound (s : State) (x1 : _) (hs : Sound s.bytes) : Sound (State.exchAdvance s x1).bytes := by
  unfold State.exchAdvance
  repeat' first | with_reducible assumption | with_reducible intro _ | with_reducible refine State.dispAdvance_sound _ _ _ _ ?_ | simp only [State.closeSlot_bytes, bytes_mk, bytes_eta, Iter.state_done, Iter.state_fmt, Iter.state_trap, Whole.state_ran, Whole.state_stopped, Whole.state_denied, Whole.goodIf_state] | split

theorem State.progress_sound (s : State) (x1 : _) (hs : Sound s.bytes) : Sound (State.progress s x1).bytes := by
  unfold State.progress
  repeat' first | with_reducible assumption | with_reducible intro _ | with_reducible refine State.exchAdvance_sound _ _ ?_ | with_reducible refine State.settle_sound _ ?_ | simp only [State.advance_bytes, bytes_mk, bytes_eta, Iter.state_done, Iter.state_fmt, Iter.state_trap, Whole.state_ran, Whole.state_stopped, Whole.state_denied, Whole.goodIf_state] | split

theorem State.feedReceive_sound (s : State) (x1 : _) (x2 : _) (x3 : _) (x4 : _) (hs : Sound s.bytes) : Sound (State.feedReceive s x1 x2 x3 x4).bytes := by
  unfold State.feedReceive
  repeat' first | with_reducible assumption | with_reducible intro _ | with_reducible refine State.progress_sound _ _ ?_ | simp only [State.mismatch_bytes, State.setDisp_bytes, bytes_mk, bytes_eta, Iter.state_done, Iter.state_fmt, Iter.state_trap, Whole.state_ran, Whole.state_stopped, Whole.state_denied, Whole.goodIf_state] | split

theorem State.sieveReceive_sound (s : State) (x1 : _) (x2 : _) (x3 : _) (x4 : _) (x5 : _) (x6 : _) (hs : Sound s.bytes) : Sound (State.sieveReceive s x1 x2 x3 x4 x5 x6).bytes := by
  unfold State.sieveReceive
  repeat' first | with_reducible assumption | with_reducible intro _ | with_reducible refine State.progress_sound _ _ ?_ | simp only [State.mismatch_bytes, State.setDisp_bytes, bytes_mk, bytes_eta, Iter.state_done, Iter.state_fmt, Iter.state_trap, Whole.state_ran, Whole.state_stopped, Whole.state_denied, Whole.goodIf_state] | split

theorem State.rlzReceive_sound (s : State) (x1 : _) (x2 : _) (x3 : _) (x4 : _) (x5 : _) (x6 : _) (hs : Sound s.bytes) : Sound (State.rlzReceive s x1 x2 x3 x4 x5 x6).bytes := by
  unfold State.rlzReceive
  repeat' first | with_reducible assumption | with_reducible intro _ | with_reducible refine State.settle_sound _ ?_ | simp only [State.mismatch_bytes, State.pass1All_bytes, State.setSparse_bytes, bytes_mk, bytes_eta, Iter.state_done, Iter.state_fmt, Iter.state_trap, Whole.state_ran, Whole.state_stopped, Whole.state_denied, Whole.goodIf_state] | split

theorem State.plainReceive_sound (s : State) (x1 : _) (x2 : _) (x3 : _) (x4 : _) (hs : Sound s.bytes) : Sound (State.plainReceive s x1 x2 x3 x4).bytes := by
  unfold State.plainReceive
  repeat' first | with_reducible assumption | with_reducible intro _ | with_reducible refine State.progress_sound _ _ ?_ | simp only [State.mismatch_bytes, State.modSlot_bytes, State.relayMessage_bytes, bytes_mk, bytes_eta, Iter.state_done, Iter.state_fmt, Iter.state_trap, Whole.state_ran, Whole.state_stopped, Whole.state_denied, Whole.goodIf_state] | split

theorem State.exchPassing_sound (s : State) (x1 : _) (hs : Sound s.bytes) : Sound (State.exchPassing s x1).1.bytes := by
  unfold State.exchPassing
  repeat' first | with_reducible assumption | with_reducible intro _ | with_reducible refine State.progress_sound _ _ ?_ | simp only [State.bump_bytes, State.failInstance_bytes, State.mismatch_bytes, State.modSlot_bytes, bytes_mk, bytes_eta, Iter.state_done, Iter.state_fmt, Iter.state_trap, Whole.state_ran, Whole.state_stopped, Whole.state_denied, Whole.goodIf_state] | split

theorem execExchReceive_sound {s t : State} {x0 : Sys2Proof.Msg} {x1 : Nat} {x2 : Nat} (h : execExchReceive x0 x1 x2 s = .next t) (hs : Sound s.bytes) : Sound t.bytes := by
  simp only [execExchReceive, Host.Outcome.next.injEq] at h
  subst h
  repeat' first | with_reducible assumption | with_reducible intro _ | with_reducible refine State.feedReceive_sound _ _ _ _ _ ?_ | with_reducible refine State.plainReceive_sound _ _ _ _ _ ?_ | with_reducible refine State.rlzReceive_sound _ _ _ _ _ _ _ ?_ | with_reducible refine State.settle_sound _ ?_ | with_reducible refine State.sieveReceive_sound _ _ _ _ _ _ _ ?_ | simp only [State.mismatch_bytes, State.storeReceive_bytes, bytes_mk, bytes_eta, Iter.state_done, Iter.state_fmt, Iter.state_trap, Whole.state_ran, Whole.state_stopped, Whole.state_denied, Whole.goodIf_state] | with_reducible refine enter_sound _ _ _ ?_ ?_ | split

theorem execGatherReceive_sound {s t : State} {x0 : Sys2Proof.Msg} (h : execGatherReceive x0 s = .next t) (hs : Sound s.bytes) : Sound t.bytes := by
  simp only [execGatherReceive, Host.Outcome.next.injEq] at h
  subst h
  repeat' first | with_reducible assumption | with_reducible intro _ | with_reducible refine State.after_sound _ _ ?_ | simp only [State.markDown_bytes, State.mismatch_bytes, State.modSlot_bytes, State.sendDown_bytes, State.seqDown_bytes, bytes_mk, bytes_eta, Iter.state_done, Iter.state_fmt, Iter.state_trap, Whole.state_ran, Whole.state_stopped, Whole.state_denied, Whole.goodIf_state] | with_reducible refine enter_sound _ _ _ ?_ ?_ | split

theorem execLaunch_sound {s t : State} {x0 : Sys2Proof.FA} {x1 : BitVec 20} {x2 : Nat} {x3 : Sys2Proof.Word} {x4 : BitVec 32} (h : execLaunch x0 x1 x2 x3 x4 s = .next t) (hs : Sound s.bytes) : Sound t.bytes := by
  simp only [execLaunch, Host.Outcome.next.injEq] at h
  subst h
  repeat' first | with_reducible assumption | with_reducible intro _ | with_reducible refine State.openInstance_sound _ _ _ _ _ _ ?_ | with_reducible refine State.progress_sound _ _ ?_ | simp only [State.absentDown_bytes, State.join_bytes, State.launchReply_bytes, State.modSlot_bytes, bytes_mk, bytes_eta, Iter.state_done, Iter.state_fmt, Iter.state_trap, Whole.state_ran, Whole.state_stopped, Whole.state_denied, Whole.goodIf_state] | split

theorem execMirrorReceive_sound {s t : State} {x0 : Sys2Proof.MirrorMsg} (h : execMirrorReceive x0 s = .next t) (hs : Sound s.bytes) : Sound t.bytes := by
  simp only [execMirrorReceive, Host.Outcome.next.injEq] at h
  subst h
  repeat' first | with_reducible assumption | with_reducible intro _ | with_reducible refine State.park_sound _ _ _ _ _ ?_ | with_reducible refine State.settle_sound _ ?_ | simp only [State.bump_bytes, State.mirrorAccept_bytes, State.takeInbox_bytes, bytes_mk, bytes_eta, Iter.state_done, Iter.state_fmt, Iter.state_trap, Whole.state_ran, Whole.state_stopped, Whole.state_denied, Whole.goodIf_state] | split

theorem State.rugWhole_sound (s : State) (x1 : _) (x2 : _) (x3 : _) (x4 : _) (x5 : _) (hs : Sound s.bytes) : Sound (State.rugWhole s x1 x2 x3 x4 x5).bytes := by
  unfold State.rugWhole
  repeat' first | with_reducible assumption | with_reducible intro _ | with_reducible refine State.after_sound _ _ ?_ | with_reducible refine State.applyWhole_sound _ _ _ _ _ _ ?_ | simp only [State.overlap_bytes, State.rugDone_bytes, bytes_mk, bytes_eta, Iter.state_done, Iter.state_fmt, Iter.state_trap, Whole.state_ran, Whole.state_stopped, Whole.state_denied, Whole.goodIf_state] | with_reducible refine foldl_sound _ ?_ _ _ ?_ | with_reducible refine foldlB_sound _ ?_ _ _ ?_ | with_reducible refine foldl1_sound _ ?_ _ _ ?_ | with_reducible refine foldl2_sound _ ?_ _ _ ?_ | split

theorem State.fetchShard_sound (s : State) (x1 : _) (x2 : _) (x3 : _) (x4 : _) (hs : Sound s.bytes) : Sound (State.fetchShard s x1 x2 x3 x4).bytes := by
  unfold State.fetchShard
  repeat' first | with_reducible assumption | with_reducible intro _ | with_reducible refine State.fetchAll_sound _ _ _ ?_ | simp only [bytes_mk, bytes_eta, Iter.state_done, Iter.state_fmt, Iter.state_trap, Whole.state_ran, Whole.state_stopped, Whole.state_denied, Whole.goodIf_state] | split

theorem State.rugApply_sound (s : State) (x1 : _) (x2 : _) (x3 : _) (x4 : _) (x5 : _) (x6 : _) (x7 : _) (x8 : _) (hs : Sound s.bytes) : Sound (State.rugApply s x1 x2 x3 x4 x5 x6 x7 x8).bytes := by
  unfold State.rugApply
  repeat' first | with_reducible assumption | with_reducible intro _ | with_reducible refine State.after_sound _ _ ?_ | with_reducible refine State.applyElems_sound _ _ _ _ _ _ _ ?_ | with_reducible refine State.rugWhole_sound _ _ _ _ _ _ ?_ | simp only [State.overlap_bytes, State.rugDone_bytes, bytes_mk, bytes_eta, Iter.state_done, Iter.state_fmt, Iter.state_trap, Whole.state_ran, Whole.state_stopped, Whole.state_denied, Whole.goodIf_state] | split

theorem execRugUpdate_sound {s t : State} {x0 : BitVec 20} {x1 : Nat} {x2 : List Sys2Proof.Upset} (h : execRugUpdate x0 x1 x2 s = .next t) (hs : Sound s.bytes) : Sound t.bytes := by
  simp only [execRugUpdate, Host.Outcome.next.injEq] at h
  subst h
  repeat' first | with_reducible assumption | with_reducible intro _ | with_reducible refine State.fetchShard_sound _ _ _ _ _ ?_ | with_reducible refine State.rugApply_sound _ _ _ _ _ _ _ _ _ ?_ | with_reducible refine State.settle_sound _ ?_ | simp only [State.meetUpsets_bytes, bytes_mk, bytes_eta, Iter.state_done, Iter.state_fmt, Iter.state_trap, Whole.state_ran, Whole.state_stopped, Whole.state_denied, Whole.goodIf_state] | split

theorem State.openNorm_sound (s : State) (x1 : _) (x2 : _) (x3 : _) (hs : Sound s.bytes) : Sound (State.openNorm s x1 x2 x3).bytes := by
  unfold State.openNorm
  repeat' first | with_reducible assumption | with_reducible intro _ | with_reducible refine State.openInstance_sound _ _ _ _ _ _ ?_ | simp only [bytes_mk, bytes_eta, Iter.state_done, Iter.state_fmt, Iter.state_trap, Whole.state_ran, Whole.state_stopped, Whole.state_denied, Whole.goodIf_state] | split

theorem execNormPassStart_sound {s t : State} {x0 : Nat} {x1 : Nat} (h : execNormPassStart x0 x1 s = .next t) (hs : Sound s.bytes) : Sound t.bytes := by
  simp only [execNormPassStart, Host.Outcome.next.injEq] at h
  subst h
  repeat' first | with_reducible assumption | with_reducible intro _ | with_reducible refine State.openNorm_sound _ _ _ _ ?_ | with_reducible refine State.park_sound _ _ _ _ _ ?_ | with_reducible refine State.settle_sound _ ?_ | simp only [State.modNorm_bytes, bytes_mk, bytes_eta, Iter.state_done, Iter.state_fmt, Iter.state_trap, Whole.state_ran, Whole.state_stopped, Whole.state_denied, Whole.goodIf_state] | with_reducible refine foldl_sound _ ?_ _ _ ?_ | with_reducible refine foldlB_sound _ ?_ _ _ ?_ | with_reducible refine foldl1_sound _ ?_ _ _ ?_ | with_reducible refine foldl2_sound _ ?_ _ _ ?_ | split

theorem execCarry_sound {s t : State} (h : execCarry s = .next t) (hs : Sound s.bytes) : Sound t.bytes := by
  simp only [execCarry, Host.Outcome.next.injEq] at h
  subst h
  repeat' first | with_reducible assumption | with_reducible intro _ | with_reducible refine State.carryAll_sound _ ?_ | with_reducible refine State.fetchAll_sound _ _ _ ?_ | simp only [bytes_mk, bytes_eta, Iter.state_done, Iter.state_fmt, Iter.state_trap, Whole.state_ran, Whole.state_stopped, Whole.state_denied, Whole.goodIf_state] | split

theorem Body.stored_sound (b : Body) (x1 : _) (x2 : _) (x3 : _) (hs : Sound b.s.bytes) : Sound (Body.stored b x1 x2 x3).s.bytes := by
  unfold Body.stored
  repeat' first | with_reducible assumption | with_reducible intro _ | with_reducible refine State.putCode_sound _ _ _ ?_ | simp only [bytes_mk, bytes_eta, Iter.state_done, Iter.state_fmt, Iter.state_trap, Whole.state_ran, Whole.state_stopped, Whole.state_denied, Whole.goodIf_state] | with_reducible refine foldl_sound _ ?_ _ _ ?_ | with_reducible refine foldlB_sound _ ?_ _ _ ?_ | with_reducible refine foldl1_sound _ ?_ _ _ ?_ | with_reducible refine foldl2_sound _ ?_ _ _ ?_ | split

theorem Body.slotM_sound (b : Body) (x1 : _) (x2 : _) (x3 : _) (x4 : _) (hs : Sound b.s.bytes) : Sound (Body.slotM b x1 x2 x3 x4).1.s.bytes := by
  unfold Body.slotM
  repeat' first | with_reducible assumption | with_reducible intro _ | with_reducible refine Body.stored_sound _ _ _ _ ?_ | simp only [Body.load_bytes, Body.sources_bytes, bytes_mk, bytes_eta, Iter.state_done, Iter.state_fmt, Iter.state_trap, Whole.state_ran, Whole.state_stopped, Whole.state_denied, Whole.goodIf_state] | split

theorem Body.bundle_sound (b : Body) (x1 : _) (x2 : _) (x3 : _) (hs : Sound b.s.bytes) : Sound (Body.bundle b x1 x2 x3).s.bytes := by
  unfold Body.bundle
  repeat' first | with_reducible assumption | with_reducible intro _ | with_reducible refine Body.slotM_sound _ _ _ _ _ ?_ | simp only [Body.land_bytes, Body.slotA_bytes, bytes_mk, bytes_eta, Iter.state_done, Iter.state_fmt, Iter.state_trap, Whole.state_ran, Whole.state_stopped, Whole.state_denied, Whole.goodIf_state] | split

theorem runBody_sound (x0 : _) (x1 : _) (s : State) (x3 : _) (x4 : _) (hs : Sound s.bytes) : Sound (runBody x0 x1 s x3 x4).s.bytes := by
  unfold runBody
  repeat' first | with_reducible assumption | with_reducible intro _ | with_reducible refine Body.bundle_sound _ _ _ _ ?_ | simp only [bytes_mk, bytes_eta, Iter.state_done, Iter.state_fmt, Iter.state_trap, Whole.state_ran, Whole.state_stopped, Whole.state_denied, Whole.goodIf_state] | with_reducible refine foldl_sound _ ?_ _ _ ?_ | with_reducible refine foldlB_sound _ ?_ _ _ ?_ | with_reducible refine foldl1_sound _ ?_ _ _ ?_ | with_reducible refine foldl2_sound _ ?_ _ _ ?_ | split

theorem State.kernelIter_sound (s : State) (h : BitVec 20) (o : Op) (r : OpRun) (hs : Sound s.bytes) : Sound (s.kernelIter h o r).state.bytes := by
  unfold State.kernelIter
  split
  · exact hs
  · extract_lets n x fresh regs fly b0 b e last nb left t
    have hb : Sound b.s.bytes := by
      unfold b b0
      repeat' first | with_reducible refine runBody_sound _ _ _ _ _ ?_ | with_reducible assumption | split
    have ht : Sound t.bytes := by simpa only [t, State.bump_bytes] using hb
    clear_value t
    split
    · simp only [Iter.state_trap, State.raise_bytes]
      split
      · exact ht
      · simpa only [State.wr_bytes] using ht
    · split <;> exact ht

theorem State.convertScaled_sound (s : State) (x1 : _) (x2 : _) (x3 : _) (x4 : _) (x5 : _) (x6 : _) (x7 : _) (hs : Sound s.bytes) : Sound (State.convertScaled s x1 x2 x3 x4 x5 x6 x7).state.bytes := by
  unfold State.convertScaled
  repeat' first | with_reducible assumption | with_reducible intro _ | with_reducible refine State.putCode_sound _ _ _ ?_ | simp only [State.bump_bytes, bytes_mk, bytes_eta, Iter.state_done, Iter.state_fmt, Iter.state_trap, Whole.state_ran, Whole.state_stopped, Whole.state_denied, Whole.goodIf_state] | split

theorem State.convertIter_sound (s : State) (x1 : _) (x2 : _) (x3 : _) (hs : Sound s.bytes) : Sound (State.convertIter s x1 x2 x3).state.bytes := by
  unfold State.convertIter
  repeat' first | with_reducible assumption | with_reducible intro _ | with_reducible refine State.convertScaled_sound _ _ _ _ _ _ _ _ ?_ | with_reducible refine State.putCode_sound _ _ _ ?_ | simp only [State.bump_bytes, bytes_mk, bytes_eta, Iter.state_done, Iter.state_fmt, Iter.state_trap, Whole.state_ran, Whole.state_stopped, Whole.state_denied, Whole.goodIf_state] | split

theorem State.mxProduct_sound {s t : State} {x : Product} (h : s.mxProduct x = some t) (hs : Sound s.bytes) : Sound t.bytes := by
  simp only [State.mxProduct] at h
  split at h
  · cases h
    simp only [State.bump_bytes]
    exact foldl_sound _ (fun t e w => State.putCode_sound t _ _ w) _ _ hs
  · cases h

theorem State.mmulIter_sound (s : State) (x1 : _) (x2 : _) (hs : Sound s.bytes) : Sound (State.mmulIter s x1 x2).state.bytes := by
  unfold State.mmulIter
  repeat' first | with_reducible assumption | with_reducible intro _ | simp only [State.mxStop_bytes, bytes_mk, bytes_eta, Iter.state_done, Iter.state_fmt, Iter.state_trap, Whole.state_ran, Whole.state_stopped, Whole.state_denied, Whole.goodIf_state] | with_reducible refine State.mxProduct_sound (by assumption) ?_ | split

theorem State.mxEntry_sound {s t : State} {o : Op} {i : Nat} {e : GEntry} {d1 : Option Descr} {fa : Nat} {b : Nat → Nat → Option Val}
    {d2 d0 : Descr} (h : s.mxEntry o i e d1 fa b d2 d0 = some t) (hs : Sound s.bytes) : Sound t.bytes := by
  simp only [State.mxEntry] at h
  split at h
  · cases h
    simpa only [State.bump_bytes] using hs
  · split at h
    · cases h
    · exact State.mxProduct_sound h hs

theorem State.walkTable_sound (o : Op) (i : Nat) (d1 : Option Descr) (fa : Nat) (b : Nat → Nat → Option Val) (d2 d0 : Descr)
    (en : State → Nat → Option GEntry) (n g : Nat) (s : State) (hs : Sound s.bytes) :
    Sound (State.walkTable o i d1 fa b d2 d0 en n g s).1.bytes := by
  induction n generalizing g s with
  | zero => exact hs
  | succ n ih =>
    rw [State.walkTable]
    split
    · rename_i t ht
      obtain ⟨e, _, h⟩ := Option.bind_eq_some_iff.mp ht
      exact ih _ _ (State.mxEntry_sound h hs)
    · exact hs

theorem State.mgroupIter_sound (s : State) (h : BitVec 20) (o : Op) (r : OpRun) (hs : Sound s.bytes) : Sound (s.mgroupIter h o r).state.bytes := by
  unfold State.mgroupIter
  repeat' first | with_reducible assumption | with_reducible refine State.walkTable_sound _ _ _ _ _ _ _ _ _ _ _ ?_ | intro _ | simp only [State.mxStop_bytes, State.raise_bytes, Iter.state_done, Iter.state_trap] | split

theorem State.writeOut_sound (s : State) (x1 : _) (x2 : _) (x3 : _) (hs : Sound s.bytes) : Sound ((State.writeOut s x1 x2 x3).state s).bytes := by
  unfold State.writeOut
  repeat' first | with_reducible assumption | with_reducible intro _ | with_reducible refine State.putCodes_sound _ _ _ _ ?_ | simp only [bytes_mk, bytes_eta, Iter.state_done, Iter.state_fmt, Iter.state_trap, Whole.state_ran, Whole.state_stopped, Whole.state_denied, Whole.goodIf_state] | split

theorem State.sortOp_sound (s : State) (x1 : _) (x2 : _) (x3 : _) (x4 : _) (x5 : _) (hs : Sound s.bytes) : Sound ((State.sortOp s x1 x2 x3 x4 x5).state s).bytes := by
  unfold State.sortOp
  repeat' first | with_reducible assumption | with_reducible intro _ | with_reducible refine State.writeOut_sound _ _ _ _ ?_ | simp only [bytes_mk, bytes_eta, Iter.state_done, Iter.state_fmt, Iter.state_trap, Whole.state_ran, Whole.state_stopped, Whole.state_denied, Whole.goodIf_state] | with_reducible refine Whole.andThen_sound ?_ ?_ ?_ | with_reducible refine State.reading_sound ?_ ?_ | split

theorem State.topkOp_sound (s : State) (x1 : _) (x2 : _) (x3 : _) (x4 : _) (x5 : _) (hs : Sound s.bytes) : Sound ((State.topkOp s x1 x2 x3 x4 x5).state s).bytes := by
  unfold State.topkOp
  repeat' first | with_reducible assumption | with_reducible intro _ | with_reducible refine State.writeOut_sound _ _ _ _ ?_ | simp only [bytes_mk, bytes_eta, Iter.state_done, Iter.state_fmt, Iter.state_trap, Whole.state_ran, Whole.state_stopped, Whole.state_denied, Whole.goodIf_state] | with_reducible refine Whole.andThen_sound ?_ ?_ ?_ | with_reducible refine State.reading_sound ?_ ?_ | split

theorem State.filterOp_sound (s : State) (x1 : _) (x2 : _) (x3 : _) (x4 : _) (x5 : _) (hs : Sound s.bytes) : Sound ((State.filterOp s x1 x2 x3 x4 x5).state s).bytes := by
  unfold State.filterOp
  repeat' first | with_reducible assumption | with_reducible intro _ | with_reducible refine State.writeOut_sound _ _ _ _ ?_ | simp only [bytes_mk, bytes_eta, Iter.state_done, Iter.state_fmt, Iter.state_trap, Whole.state_ran, Whole.state_stopped, Whole.state_denied, Whole.goodIf_state] | with_reducible refine Whole.andThen_sound ?_ ?_ ?_ | with_reducible refine State.reading_sound ?_ ?_ | split

theorem State.compactOp_sound (s : State) (x1 : _) (x2 : _) (x3 : _) (x4 : _) (x5 : _) (hs : Sound s.bytes) : Sound ((State.compactOp s x1 x2 x3 x4 x5).state s).bytes := by
  unfold State.compactOp
  repeat' first | with_reducible assumption | with_reducible intro _ | with_reducible refine State.writeOut_sound _ _ _ _ ?_ | simp only [bytes_mk, bytes_eta, Iter.state_done, Iter.state_fmt, Iter.state_trap, Whole.state_ran, Whole.state_stopped, Whole.state_denied, Whole.goodIf_state] | with_reducible refine State.reading_sound ?_ ?_ | split

theorem State.scanOp_sound (s : State) (x1 : _) (x2 : _) (x3 : _) (x4 : _) (hs : Sound s.bytes) : Sound ((State.scanOp s x1 x2 x3 x4).state s).bytes := by
  unfold State.scanOp
  repeat' first | with_reducible assumption | with_reducible intro _ | with_reducible refine State.writeOut_sound _ _ _ _ ?_ | simp only [State.bump_bytes, bytes_mk, bytes_eta, Iter.state_done, Iter.state_fmt, Iter.state_trap, Whole.state_ran, Whole.state_stopped, Whole.state_denied, Whole.goodIf_state] | with_reducible refine Whole.andThen_sound ?_ ?_ ?_ | with_reducible refine State.reading_sound ?_ ?_ | split

theorem State.histOp_sound (s : State) (x1 : _) (x2 : _) (x3 : _) (x4 : _) (hs : Sound s.bytes) : Sound ((State.histOp s x1 x2 x3 x4).state s).bytes := by
  unfold State.histOp
  repeat' first | with_reducible assumption | with_reducible intro _ | with_reducible refine State.writeOut_sound _ _ _ _ ?_ | simp only [bytes_mk, bytes_eta, Iter.state_done, Iter.state_fmt, Iter.state_trap, Whole.state_ran, Whole.state_stopped, Whole.state_denied, Whole.goodIf_state] | with_reducible refine State.reading_sound ?_ ?_ | split

theorem State.rlzEncOp_sound (s : State) (x1 : _) (x2 : _) (x3 : _) (x4 : _) (hs : Sound s.bytes) : Sound ((State.rlzEncOp s x1 x2 x3 x4).state s).bytes := by
  unfold State.rlzEncOp
  repeat' first | with_reducible assumption | with_reducible intro _ | with_reducible refine State.writeOut_sound _ _ _ _ ?_ | simp only [bytes_mk, bytes_eta, Iter.state_done, Iter.state_fmt, Iter.state_trap, Whole.state_ran, Whole.state_stopped, Whole.state_denied, Whole.goodIf_state] | with_reducible refine State.reading_sound ?_ ?_ | split

theorem State.rlzDecOp_sound (s : State) (x1 : _) (x2 : _) (x3 : _) (x4 : _) (hs : Sound s.bytes) : Sound ((State.rlzDecOp s x1 x2 x3 x4).state s).bytes := by
  unfold State.rlzDecOp
  repeat' first | with_reducible assumption | with_reducible intro _ | with_reducible refine State.writeOut_sound _ _ _ _ ?_ | simp only [bytes_mk, bytes_eta, Iter.state_done, Iter.state_fmt, Iter.state_trap, Whole.state_ran, Whole.state_stopped, Whole.state_denied, Whole.goodIf_state] | with_reducible refine State.reading_sound ?_ ?_ | split

theorem State.pack28Op_sound (s : State) (x1 : _) (x2 : _) (x3 : _) (x4 : _) (x5 : _) (hs : Sound s.bytes) : Sound ((State.pack28Op s x1 x2 x3 x4 x5).state s).bytes := by
  unfold State.pack28Op
  repeat' first | with_reducible assumption | with_reducible intro _ | with_reducible refine State.writeOut_sound _ _ _ _ ?_ | simp only [bytes_mk, bytes_eta, Iter.state_done, Iter.state_fmt, Iter.state_trap, Whole.state_ran, Whole.state_stopped, Whole.state_denied, Whole.goodIf_state] | with_reducible refine Whole.andThen_sound ?_ ?_ ?_ | with_reducible refine State.reading_sound ?_ ?_ | split

theorem State.sieveOp_sound (s : State) (x1 : _) (x2 : _) (hs : Sound s.bytes) : Sound ((State.sieveOp s x1 x2).state s).bytes := by
  unfold State.sieveOp
  repeat' first | with_reducible assumption | with_reducible intro _ | with_reducible refine State.compactOp_sound _ _ _ _ _ _ ?_ | with_reducible refine State.filterOp_sound _ _ _ _ _ _ ?_ | with_reducible refine State.histOp_sound _ _ _ _ _ ?_ | with_reducible refine State.pack28Op_sound _ _ _ _ _ _ ?_ | with_reducible refine State.rlzDecOp_sound _ _ _ _ _ ?_ | with_reducible refine State.rlzEncOp_sound _ _ _ _ _ ?_ | with_reducible refine State.scanOp_sound _ _ _ _ _ ?_ | with_reducible refine State.sortOp_sound _ _ _ _ _ _ ?_ | with_reducible refine State.topkOp_sound _ _ _ _ _ _ ?_ | simp only [bytes_mk, bytes_eta, Iter.state_done, Iter.state_fmt, Iter.state_trap, Whole.state_ran, Whole.state_stopped, Whole.state_denied, Whole.goodIf_state] | split

theorem State.sieveIter_sound (s : State) (o : Op) (r : OpRun) (hs : Sound s.bytes) : Sound (s.sieveIter o r).state.bytes := by
  have h := State.sieveOp_sound s o r.iter hs
  unfold State.sieveIter
  split
  · rename_i t ht; rw [ht] at h; exact h
  · rename_i t ht; rw [ht] at h; simp only [Iter.state_fmt, State.bump_bytes]; exact h
  · exact hs

theorem State.foldIter_sound (s : State) (x1 : _) (x2 : _) (hs : Sound s.bytes) : Sound (State.foldIter s x1 x2).state.bytes := by
  unfold State.foldIter
  repeat' first | with_reducible assumption | with_reducible intro _ | with_reducible refine State.putCode_sound _ _ _ ?_ | simp only [State.bump_bytes, bytes_mk, bytes_eta, Iter.state_done, Iter.state_fmt, Iter.state_trap, Whole.state_ran, Whole.state_stopped, Whole.state_denied, Whole.goodIf_state] | split

theorem State.blkexpIter_sound (s : State) (x1 : _) (x2 : _) (hs : Sound s.bytes) : Sound (State.blkexpIter s x1 x2).state.bytes := by
  unfold State.blkexpIter
  repeat' first | with_reducible assumption | with_reducible intro _ | with_reducible refine State.putCode_sound _ _ _ ?_ | simp only [bytes_mk, bytes_eta, Iter.state_done, Iter.state_fmt, Iter.state_trap, Whole.state_ran, Whole.state_stopped, Whole.state_denied, Whole.goodIf_state] | split

theorem State.copyIter_sound (s : State) (x1 : _) (x2 : _) (x3 : _) (hs : Sound s.bytes) : Sound (State.copyIter s x1 x2 x3).state.bytes := by
  unfold State.copyIter
  repeat' first | with_reducible assumption | with_reducible intro _ | with_reducible refine State.putCode_sound _ _ _ ?_ | simp only [State.sendWrite_bytes, bytes_mk, bytes_eta, Iter.state_done, Iter.state_fmt, Iter.state_trap, Whole.state_ran, Whole.state_stopped, Whole.state_denied, Whole.goodIf_state] | split

theorem State.fillIter_sound (s : State) (x1 : _) (x2 : _) (hs : Sound s.bytes) : Sound (State.fillIter s x1 x2).state.bytes := by
  unfold State.fillIter
  repeat' first | with_reducible assumption | with_reducible intro _ | with_reducible refine State.putCode_sound _ _ _ ?_ | simp only [bytes_mk, bytes_eta, Iter.state_done, Iter.state_fmt, Iter.state_trap, Whole.state_ran, Whole.state_stopped, Whole.state_denied, Whole.goodIf_state] | split

theorem State.soundIter_sound (s : State) (x1 : _) (x2 : _) (x3 : _) (x4 : _) (hs : Sound s.bytes) : Sound (State.soundIter s x1 x2 x3 x4).state.bytes := by
  unfold State.soundIter
  repeat' first | with_reducible assumption | with_reducible intro _ | with_reducible refine State.blkexpIter_sound _ _ _ ?_ | with_reducible refine State.convertIter_sound _ _ _ _ ?_ | with_reducible refine State.copyIter_sound _ _ _ _ ?_ | with_reducible refine State.fillIter_sound _ _ _ ?_ | with_reducible refine State.foldIter_sound _ _ _ ?_ | with_reducible refine State.kernelIter_sound _ _ _ _ ?_ | with_reducible refine State.mgroupIter_sound _ _ _ _ ?_ | with_reducible refine State.mmulIter_sound _ _ _ ?_ | with_reducible refine State.sieveIter_sound _ _ _ ?_ | simp only [State.controlOp_bytes, bytes_mk, bytes_eta, Iter.state_done, Iter.state_fmt, Iter.state_trap, Whole.state_ran, Whole.state_stopped, Whole.state_denied, Whole.goodIf_state] | split

theorem State.runIter_sound (s : State) (x1 : _) (x2 : _) (x3 : _) (x4 : _) (hs : Sound s.bytes) : Sound (State.runIter s x1 x2 x3 x4).state.bytes := by
  unfold State.runIter
  repeat' first | with_reducible assumption | with_reducible intro _ | with_reducible refine State.soundIter_sound _ _ _ _ _ ?_ | simp only [State.unsound_bytes, bytes_mk, bytes_eta, Iter.state_done, Iter.state_fmt, Iter.state_trap, Whole.state_ran, Whole.state_stopped, Whole.state_denied, Whole.goodIf_state] | split

theorem State.landWrite_sound (s : State) (x1 : _) (hs : Sound s.bytes) : Sound (State.landWrite s x1).bytes := by
  unfold State.landWrite
  repeat' first | with_reducible assumption | with_reducible intro _ | with_reducible refine State.putWalk_sound _ _ _ _ ?_ | simp only [State.addToken_bytes, State.bump_bytes, State.failInstance_bytes, bytes_mk, bytes_eta, Iter.state_done, Iter.state_fmt, Iter.state_trap, Whole.state_ran, Whole.state_stopped, Whole.state_denied, Whole.goodIf_state] | split

theorem State.landFetch_sound (s : State) (x1 : _) (hs : Sound s.bytes) : Sound (State.landFetch s x1).bytes := by
  unfold State.landFetch
  repeat' first | with_reducible assumption | with_reducible intro _ | with_reducible refine State.fetchPlace_sound _ _ ?_ | simp only [bytes_mk, bytes_eta, Iter.state_done, Iter.state_fmt, Iter.state_trap, Whole.state_ran, Whole.state_stopped, Whole.state_denied, Whole.goodIf_state] | with_reducible refine foldl_sound _ ?_ _ _ ?_ | with_reducible refine foldlB_sound _ ?_ _ _ ?_ | with_reducible refine foldl1_sound _ ?_ _ _ ?_ | with_reducible refine foldl2_sound _ ?_ _ _ ?_ | split

theorem execWriteMessageReceive_sound {s t : State} {x0 : Sys2Proof.WriteMsg} (h : execWriteMessageReceive x0 s = .next t) (hs : Sound s.bytes) : Sound t.bytes := by
  simp only [execWriteMessageReceive, Host.Outcome.next.injEq] at h
  subst h
  repeat' first | with_reducible assumption | with_reducible intro _ | with_reducible refine State.landFetch_sound _ _ ?_ | with_reducible refine State.landWrite_sound _ _ ?_ | with_reducible refine State.openFor_sound _ _ _ _ _ _ ?_ | with_reducible refine State.progress_sound _ _ ?_ | simp only [State.bump_bytes, State.takeInbox_bytes, bytes_mk, bytes_eta, Iter.state_done, Iter.state_fmt, Iter.state_trap, Whole.state_ran, Whole.state_stopped, Whole.state_denied, Whole.goodIf_state] | split

theorem execQueueContextStart_sound {s t : State} (h : execQueueContextStart s = .next t) (hs : Sound s.bytes) : Sound t.bytes := by
  simp only [execQueueContextStart, Host.Outcome.next.injEq] at h
  subst h
  repeat' first | with_reducible assumption | with_reducible intro _ | with_reducible refine State.landFetch_sound _ _ ?_ | with_reducible refine State.landWrite_sound _ _ ?_ | with_reducible refine State.progress_sound _ _ ?_ | simp only [bytes_mk, bytes_eta, Iter.state_done, Iter.state_fmt, Iter.state_trap, Whole.state_ran, Whole.state_stopped, Whole.state_denied, Whole.goodIf_state] | with_reducible refine foldl_sound _ ?_ _ _ ?_ | with_reducible refine foldlB_sound _ ?_ _ _ ?_ | with_reducible refine foldl1_sound _ ?_ _ _ ?_ | with_reducible refine foldl2_sound _ ?_ _ _ ?_ | split

theorem State.opFetch_sound (s : State) (x1 : _) (x2 : _) (hs : Sound s.bytes) : Sound (State.opFetch s x1 x2).bytes := by
  unfold State.opFetch
  repeat' first | with_reducible assumption | with_reducible intro _ | with_reducible refine State.fetchPlace_sound _ _ ?_ | simp only [State.withBank_bytes, bytes_mk, bytes_eta, Iter.state_done, Iter.state_fmt, Iter.state_trap, Whole.state_ran, Whole.state_stopped, Whole.state_denied, Whole.goodIf_state] | with_reducible refine foldl_sound _ ?_ _ _ ?_ | with_reducible refine foldlB_sound _ ?_ _ _ ?_ | with_reducible refine foldl1_sound _ ?_ _ _ ?_ | with_reducible refine foldl2_sound _ ?_ _ _ ?_ | split

theorem execOpIterationDone_sound {s t : State} {hd : BitVec 20} {qid : Nat} (h : execOpIterationDone hd qid s = .next t)
    (hs : Sound s.bytes) : Sound t.bytes := by
  simp only [execOpIterationDone, Host.Outcome.next.injEq] at h
  subst h
  split
  · exact hs
  · rename_i q o run _
    split
    · exact hs
    · have hw : Sound (if run.skipped = true then s else s.opFetch o run).bytes := by
        split
        · exact hs
        · first | exact State.opFetch_sound s o run hs | (rw [State.opFetch_bytes]; exact hs)
      generalize (if run.skipped = true then s else s.opFetch o run) = w at hw ⊢
      split
      · exact State.settle_sound _ hw
      · have hu : Sound ((if run.waited = true then w else w.modQ hd qid fun q => q.take o.wait).withBank run.bankB).bytes := by
          rw [State.withBank_bytes]
          split
          · exact hw
          · rw [State.modQ_bytes]
            exact hw
        generalize (if run.waited = true then w else w.modQ hd qid fun q => q.take o.wait).withBank run.bankB = u at hu ⊢
        split
        · exact hw
        · have hi : Sound ((if run.skipped = true then u.skipIter hd o run else u.runIter hd qid o run).restore s.led.srcB).state.bytes := by
            rw [Iter.restore_bytes]
            split
            · rw [State.skipIter_bytes]
              exact hu
            · exact State.runIter_sound u hd qid o run hu
          generalize (if run.skipped = true then u.skipIter hd o run else u.runIter hd qid o run).restore s.led.srcB = i at hi ⊢
          cases i with
          | done v r => exact State.progress_sound _ _ (by rw [State.iterated_bytes]; exact hi)
          | formatError v => exact State.settle_sound _ (by rw [State.failInstance_bytes]; exact hi)
          | trap v => exact State.settle_sound _ (by rw [State.failInstance_bytes]; exact hi)

theorem execWaitCycle_sound {s t : State} {x0 : BitVec 20} (h : execWaitCycle x0 s = .next t) (hs : Sound s.bytes) : Sound t.bytes := by
  simp only [execWaitCycle, Host.Outcome.next.injEq] at h
  subst h
  repeat' first | with_reducible assumption | with_reducible intro _ | with_reducible refine State.settle_sound _ ?_ | simp only [State.bump_bytes, State.failInstance_bytes, State.raise_bytes, bytes_mk, bytes_eta, Iter.state_done, Iter.state_fmt, Iter.state_trap, Whole.state_ran, Whole.state_stopped, Whole.state_denied, Whole.goodIf_state] | split

theorem State.healFails_sound (s : State) (x1 : _) (hs : Sound s.bytes) : Sound (State.healFails s x1).bytes := by
  unfold State.healFails
  repeat' first | with_reducible assumption | with_reducible intro _ | with_reducible refine State.zeroRetire_sound _ _ ?_ | simp only [State.bump_bytes, State.putTables_bytes, State.raise_bytes, bytes_mk, bytes_eta, Iter.state_done, Iter.state_fmt, Iter.state_trap, Whole.state_ran, Whole.state_stopped, Whole.state_denied, Whole.goodIf_state] | split | with_reducible refine Sound.of ?_ ?_ ?_ | with_reducible refine Sound.ram ?_ | with_reducible refine Sound.work ?_ | with_reducible refine Sound.cells ?_

theorem State.twinFenced_sound (s : State) (hs : Sound s.bytes) : Sound (State.twinFenced s).bytes := by
  unfold State.twinFenced
  repeat' first | with_reducible assumption | with_reducible intro _ | with_reducible refine State.healFails_sound _ _ ?_ | simp only [State.exchange_bytes, bytes_mk, bytes_eta, Iter.state_done, Iter.state_fmt, Iter.state_trap, Whole.state_ran, Whole.state_stopped, Whole.state_denied, Whole.goodIf_state] | with_reducible refine foldl_sound _ ?_ _ _ ?_ | with_reducible refine foldlB_sound _ ?_ _ _ ?_ | with_reducible refine foldl1_sound _ ?_ _ _ ?_ | with_reducible refine foldl2_sound _ ?_ _ _ ?_ | split

theorem State.sweep_sound (s : State) (x1 : _) (hs : Sound s.bytes) : Sound (State.sweep s x1).bytes := by
  unfold State.sweep
  repeat' first | with_reducible assumption | with_reducible intro _ | with_reducible refine State.progress_sound _ _ ?_ | with_reducible refine State.settle_sound _ ?_ | with_reducible refine State.twinFenced_sound _ ?_ | simp only [State.memberLost_bytes, State.rebuildRoutes_bytes, State.sweepQueues_bytes, State.sweepStreams_bytes, State.treeLost_bytes, bytes_mk, bytes_eta, Iter.state_done, Iter.state_fmt, Iter.state_trap, Whole.state_ran, Whole.state_stopped, Whole.state_denied, Whole.goodIf_state] | with_reducible refine foldl_sound _ ?_ _ _ ?_ | with_reducible refine foldlB_sound _ ?_ _ _ ?_ | with_reducible refine foldl1_sound _ ?_ _ _ ?_ | with_reducible refine foldl2_sound _ ?_ _ _ ?_ | split

theorem State.fenceParty_sound (s : State) (x1 : _) (hs : Sound s.bytes) : Sound (State.fenceParty s x1).bytes := by
  unfold State.fenceParty
  repeat' first | with_reducible assumption | with_reducible intro _ | with_reducible refine State.sweep_sound _ _ ?_ | simp only [State.notify_bytes, State.raise_bytes, State.setFenced_bytes, bytes_mk, bytes_eta, Iter.state_done, Iter.state_fmt, Iter.state_trap, Whole.state_ran, Whole.state_stopped, Whole.state_denied, Whole.goodIf_state] | split

theorem execFenceNotice_sound {s t : State} {x0 : Sys2Proof.FA} {x1 : Sys2Proof.FA} {x2 : BitVec 4} {x3 : Bool} {x4 : Nat} (h : execFenceNotice x0 x1 x2 x3 x4 s = .next t) (hs : Sound s.bytes) : Sound t.bytes := by
  simp only [execFenceNotice, Host.Outcome.next.injEq] at h
  subst h
  repeat' first | with_reducible assumption | with_reducible intro _ | with_reducible refine State.sweep_sound _ _ ?_ | simp only [State.setFenced_bytes, State.takeCtrl_bytes, bytes_mk, bytes_eta, Iter.state_done, Iter.state_fmt, Iter.state_trap, Whole.state_ran, Whole.state_stopped, Whole.state_denied, Whole.goodIf_state] | split

theorem State.decideDead_sound (s : State) (hs : Sound s.bytes) : Sound (State.decideDead s).bytes := by
  unfold State.decideDead
  repeat' first | with_reducible assumption | with_reducible intro _ | with_reducible refine State.fenceParty_sound _ _ ?_ | simp only [State.raise_bytes, bytes_mk, bytes_eta, Iter.state_done, Iter.state_fmt, Iter.state_trap, Whole.state_ran, Whole.state_stopped, Whole.state_denied, Whole.goodIf_state] | with_reducible refine foldl_sound _ ?_ _ _ ?_ | with_reducible refine foldlB_sound _ ?_ _ _ ?_ | with_reducible refine foldl1_sound _ ?_ _ _ ?_ | with_reducible refine foldl2_sound _ ?_ _ _ ?_ | split

theorem State.carryNode_sound (s : State) (hs : Sound s.bytes) : Sound (State.carryNode s).bytes := by
  unfold State.carryNode
  repeat' first | with_reducible assumption | with_reducible intro _ | with_reducible refine State.decideDead_sound _ ?_ | with_reducible refine State.fenceParty_sound _ _ ?_ | simp only [State.raise_bytes, bytes_mk, bytes_eta, Iter.state_done, Iter.state_fmt, Iter.state_trap, Whole.state_ran, Whole.state_stopped, Whole.state_denied, Whole.goodIf_state] | split

theorem State.goSilent_sound (s : State) (x1 : _) (hs : Sound s.bytes) : Sound (State.goSilent s x1).bytes := by
  unfold State.goSilent
  repeat' first | with_reducible assumption | with_reducible intro _ | with_reducible refine State.decideDead_sound _ ?_ | simp only [State.modPort_bytes, State.raise_bytes, State.reportSilence_bytes, bytes_mk, bytes_eta, Iter.state_done, Iter.state_fmt, Iter.state_trap, Whole.state_ran, Whole.state_stopped, Whole.state_denied, Whole.goodIf_state] | split

theorem execHeartbeatMiss_sound {s t : State} {x0 : Nat} (h : execHeartbeatMiss x0 s = .next t) (hs : Sound s.bytes) : Sound t.bytes := by
  simp only [execHeartbeatMiss, Host.Outcome.next.injEq] at h
  subst h
  repeat' first | with_reducible assumption | with_reducible intro _ | with_reducible refine State.goSilent_sound _ _ ?_ | simp only [State.modPort_bytes, bytes_mk, bytes_eta, Iter.state_done, Iter.state_fmt, Iter.state_trap, Whole.state_ran, Whole.state_stopped, Whole.state_denied, Whole.goodIf_state] | split

theorem execTwinHb_sound {s t : State} {x0 : Nat} {x1 : Nat} {x2 : Nat} {x3 : BitVec 48} (h : execTwinHb x0 x1 x2 x3 s = .next t) (hs : Sound s.bytes) : Sound t.bytes := by
  simp only [execTwinHb, Host.Outcome.next.injEq] at h
  subst h
  repeat' first | with_reducible assumption | with_reducible intro _ | with_reducible refine State.decideDead_sound _ ?_ | simp only [State.takeCtrl_bytes, bytes_mk, bytes_eta, Iter.state_done, Iter.state_fmt, Iter.state_trap, Whole.state_ran, Whole.state_stopped, Whole.state_denied, Whole.goodIf_state] | split

theorem execTwinSilent_sound {s t : State} (h : execTwinSilent s = .next t) (hs : Sound s.bytes) : Sound t.bytes := by
  simp only [execTwinSilent, Host.Outcome.next.injEq] at h
  subst h
  repeat' first | with_reducible assumption | with_reducible intro _ | with_reducible refine State.carryNode_sound _ ?_ | simp only [State.modPort_bytes, bytes_mk, bytes_eta, Iter.state_done, Iter.state_fmt, Iter.state_trap, Whole.state_ran, Whole.state_stopped, Whole.state_denied, Whole.goodIf_state] | with_reducible refine foldl_sound _ ?_ _ _ ?_ | with_reducible refine foldlB_sound _ ?_ _ _ ?_ | with_reducible refine foldl1_sound _ ?_ _ _ ?_ | with_reducible refine foldl2_sound _ ?_ _ _ ?_ | split

theorem execTwinBWaitEnd_sound {s t : State} (h : execTwinBWaitEnd s = .next t) (hs : Sound s.bytes) : Sound t.bytes := by
  simp only [execTwinBWaitEnd, Host.Outcome.next.injEq] at h
  subst h
  repeat' first | with_reducible assumption | with_reducible intro _ | with_reducible refine State.carryNode_sound _ ?_ | simp only [State.stopTwinB_bytes, bytes_mk, bytes_eta, Iter.state_done, Iter.state_fmt, Iter.state_trap, Whole.state_ran, Whole.state_stopped, Whole.state_denied, Whole.goodIf_state] | split

theorem execSilence_sound {s t : State} {x0 : Nat} {x1 : BitVec 48} (h : execSilence x0 x1 s = .next t) (hs : Sound s.bytes) : Sound t.bytes := by
  simp only [execSilence, Host.Outcome.next.injEq] at h
  subst h
  repeat' first | with_reducible assumption | with_reducible intro _ | with_reducible refine State.decideDead_sound _ ?_ | simp only [State.takeCtrl_bytes, bytes_mk, bytes_eta, Iter.state_done, Iter.state_fmt, Iter.state_trap, Whole.state_ran, Whole.state_stopped, Whole.state_denied, Whole.goodIf_state] | split

theorem execHealStart_sound {s t : State} (h : execHealStart s = .next t) (hs : Sound s.bytes) : Sound t.bytes := by
  simp only [execHealStart, Host.Outcome.next.injEq] at h
  subst h
  repeat' first | with_reducible assumption | with_reducible intro _ | with_reducible refine State.healFails_sound _ _ ?_ | simp only [State.sendHeal_bytes, State.setHeal_bytes, bytes_mk, bytes_eta, Iter.state_done, Iter.state_fmt, Iter.state_trap, Whole.state_ran, Whole.state_stopped, Whole.state_denied, Whole.goodIf_state] | split

theorem execHealFail_sound {s t : State} {x0 : Sys2Proof.GranuleRef} {x1 : Sys2Proof.Byte} (h : execHealFail x0 x1 s = .next t) (hs : Sound s.bytes) : Sound t.bytes := by
  simp only [execHealFail, Host.Outcome.next.injEq] at h
  subst h
  repeat' first | with_reducible assumption | with_reducible intro _ | with_reducible refine State.healFails_sound _ _ ?_ | simp only [State.takeCtrl_bytes, bytes_mk, bytes_eta, Iter.state_done, Iter.state_fmt, Iter.state_trap, Whole.state_ran, Whole.state_stopped, Whole.state_denied, Whole.goodIf_state] | split

theorem execHealData_sound {s t : State} {x0 : Sys2Proof.GranuleRef} {x1 : List Sys2Proof.Byte} (h : execHealData x0 x1 s = .next t) (hs : Sound s.bytes) : Sound t.bytes := by
  simp only [execHealData, Host.Outcome.next.injEq] at h
  subst h
  repeat' first | with_reducible assumption | with_reducible intro _ | with_reducible refine State.healFails_sound _ _ ?_ | with_reducible refine State.memWrite_sound _ _ _ ?_ | with_reducible refine State.stateWrite_sound _ _ _ ?_ | simp only [State.bump_bytes, State.putTables_bytes, State.retire_bytes, State.takeTransfer_bytes, bytes_mk, bytes_eta, Iter.state_done, Iter.state_fmt, Iter.state_trap, Whole.state_ran, Whole.state_stopped, Whole.state_denied, Whole.goodIf_state] | split | with_reducible refine Sound.of ?_ ?_ ?_ | with_reducible refine Sound.ram ?_ | with_reducible refine Sound.work ?_ | with_reducible refine Sound.cells ?_

theorem execHealRequest_sound {s t : State} {x0 : Sys2Proof.FA} {x1 : Nat} {x2 : Sys2Proof.GranuleRef} (h : execHealRequest x0 x1 x2 s = .next t) (hs : Sound s.bytes) : Sound t.bytes := by
  simp only [execHealRequest, Host.Outcome.next.injEq] at h
  subst h
  repeat' first | with_reducible assumption | with_reducible intro _ | with_reducible refine State.fetchRange_sound _ _ _ ?_ | simp only [State.freshTx_bytes, State.refuseHeal_bytes, State.sendMessage_bytes, State.takeInbox_bytes, bytes_mk, bytes_eta, Iter.state_done, Iter.state_fmt, Iter.state_trap, Whole.state_ran, Whole.state_stopped, Whole.state_denied, Whole.goodIf_state] | split

theorem execResilverCopyDone_sound {s t : State} (h : execResilverCopyDone s = .next t) (hs : Sound s.bytes) : Sound t.bytes := by
  simp only [execResilverCopyDone, Host.Outcome.next.injEq] at h
  subst h
  repeat' first | with_reducible assumption | with_reducible intro _ | with_reducible refine State.fetchAll_sound _ _ _ ?_ | simp only [State.sendGranule_bytes, bytes_mk, bytes_eta, Iter.state_done, Iter.state_fmt, Iter.state_trap, Whole.state_ran, Whole.state_stopped, Whole.state_denied, Whole.goodIf_state] | with_reducible refine foldl_sound _ ?_ _ _ ?_ | with_reducible refine foldlB_sound _ ?_ _ _ ?_ | with_reducible refine foldl1_sound _ ?_ _ _ ?_ | with_reducible refine foldl2_sound _ ?_ _ _ ?_ | split | with_reducible refine Sound.of ?_ ?_ ?_ | with_reducible refine Sound.ram ?_ | with_reducible refine Sound.work ?_ | with_reducible refine Sound.cells ?_

theorem execGranuleReceive_sound {s t : State} {x0 : Sys2Proof.GranuleRef} {x1 : List Sys2Proof.Byte} (h : execGranuleReceive x0 x1 s = .next t) (hs : Sound s.bytes) : Sound t.bytes := by
  simp only [execGranuleReceive, Host.Outcome.next.injEq] at h
  subst h
  repeat' first | with_reducible assumption | with_reducible intro _ | with_reducible refine State.stateWrite_sound _ _ _ ?_ | simp only [State.takeTransfer_bytes, State.transferBad_bytes, bytes_mk, bytes_eta, Iter.state_done, Iter.state_fmt, Iter.state_trap, Whole.state_ran, Whole.state_stopped, Whole.state_denied, Whole.goodIf_state] | split | with_reducible refine Sound.of ?_ ?_ ?_ | with_reducible refine Sound.ram ?_ | with_reducible refine Sound.work ?_ | with_reducible refine Sound.cells ?_

theorem execPlanRemove_sound {s t : State} {x0 : Sys2Proof.Req} (h : execPlanRemove x0 s = .next t) (hs : Sound s.bytes) : Sound t.bytes := by
  simp only [execPlanRemove, Host.Outcome.next.injEq] at h
  subst h
  repeat' first | with_reducible assumption | with_reducible intro _ | with_reducible refine State.settle_sound _ ?_ | simp only [State.fail_bytes, State.ok_bytes, State.removePlan_bytes, bytes_mk, bytes_eta, Iter.state_done, Iter.state_fmt, Iter.state_trap, Whole.state_ran, Whole.state_stopped, Whole.state_denied, Whole.goodIf_state] | split

theorem execMembershipSet_sound {s t : State} {x0 : Sys2Proof.Req} {x1 : List Sys2Proof.Byte} (h : execMembershipSet x0 x1 s = .next t) (hs : Sound s.bytes) : Sound t.bytes := by
  simp only [execMembershipSet, Host.Outcome.next.injEq] at h
  subst h
  repeat' first | with_reducible assumption | with_reducible intro _ | with_reducible refine State.settle_sound _ ?_ | simp only [State.ok_bytes, State.refuseAt_bytes, State.takeMembership_bytes, bytes_mk, bytes_eta, Iter.state_done, Iter.state_fmt, Iter.state_trap, Whole.state_ran, Whole.state_stopped, Whole.state_denied, Whole.goodIf_state] | split

theorem State.relayout_sound (s : State) (l : List Shard) (hs : Sound s.bytes) : Sound (s.relayout l).bytes := by
  unfold State.relayout
  refine foldl_sound _ (fun t a w => State.stateWrite_sound t _ _ w) _ _ ?_
  have h := State.memClear_sound _ (s.bankAddr true) (s.bankAddr true + s.regionSize .stateA * granuleBytes)
    (State.memClear_sound { s with led := { s.led with shards := l } } (s.bankAddr false)
      (s.bankAddr false + s.regionSize .stateA * granuleBytes) hs)
  exact h

theorem State.defineShard_sound (s : State) (x1 : _) (hs : Sound s.bytes) : Sound (State.defineShard s x1).bytes := by
  unfold State.defineShard
  repeat' first | with_reducible assumption | with_reducible intro _ | with_reducible refine State.relayout_sound _ _ ?_ | with_reducible refine State.setHeader_sound _ _ _ _ _ _ _ ?_ | simp only [bytes_mk, bytes_eta, Iter.state_done, Iter.state_fmt, Iter.state_trap, Whole.state_ran, Whole.state_stopped, Whole.state_denied, Whole.goodIf_state] | split

theorem State.removeShard_sound (s : State) (x1 : _) (x2 : _) (hs : Sound s.bytes) : Sound (State.removeShard s x1 x2).bytes := by
  unfold State.removeShard
  repeat' first | with_reducible assumption | with_reducible intro _ | with_reducible refine State.fetchAll_sound _ _ _ ?_ | with_reducible refine State.relayout_sound _ _ ?_ | simp only [State.fail_bytes, State.ok_bytes, bytes_mk, bytes_eta, Iter.state_done, Iter.state_fmt, Iter.state_trap, Whole.state_ran, Whole.state_stopped, Whole.state_denied, Whole.goodIf_state] | split

theorem execStateDefine_sound {s t : State} {x0 : Sys2Proof.Req} {x1 : List Sys2Proof.Byte} (h : execStateDefine x0 x1 s = .next t) (hs : Sound s.bytes) : Sound t.bytes := by
  simp only [execStateDefine, Host.Outcome.next.injEq] at h
  subst h
  repeat' first | with_reducible assumption | with_reducible intro _ | with_reducible refine State.defineShard_sound _ _ ?_ | with_reducible refine State.fetchAll_sound _ _ _ ?_ | with_reducible refine State.removeShard_sound _ _ _ ?_ | simp only [State.defineSeeds_bytes, State.fail_bytes, State.ok_bytes, State.refuseAt_bytes, bytes_mk, bytes_eta, Iter.state_done, Iter.state_fmt, Iter.state_trap, Whole.state_ran, Whole.state_stopped, Whole.state_denied, Whole.goodIf_state] | split

theorem State.putRange_sound (s : State) (a : Nat) (l : List (Nat × Nat)) (b : List Byte) (hs : Sound s.bytes) : Sound (s.putRange a l b).bytes := by
  induction l generalizing s b with
  | nil => exact hs
  | cons e t ih => exact ih _ _ (State.stateWrite_sound _ _ _ hs)

theorem execStateImportDone_sound {s t : State} {x0 : BitVec 32} (h : execStateImportDone x0 s = .next t) (hs : Sound s.bytes) : Sound t.bytes := by
  simp only [execStateImportDone, Host.Outcome.next.injEq] at h
  subst h
  repeat' first | with_reducible assumption | with_reducible intro _ | with_reducible refine State.fetchAll_sound _ _ _ ?_ | with_reducible refine State.putRange_sound _ _ _ _ ?_ | simp only [State.fail_bytes, State.ok_bytes, bytes_mk, bytes_eta, Iter.state_done, Iter.state_fmt, Iter.state_trap, Whole.state_ran, Whole.state_stopped, Whole.state_denied, Whole.goodIf_state] | split | with_reducible refine Sound.of ?_ ?_ ?_ | with_reducible refine Sound.ram ?_ | with_reducible refine Sound.work ?_ | with_reducible refine Sound.cells ?_

theorem execStateExportDone_sound {s t : State} {x0 : BitVec 32} (h : execStateExportDone x0 s = .next t) (hs : Sound s.bytes) : Sound t.bytes := by
  simp only [execStateExportDone, Host.Outcome.next.injEq] at h
  subst h
  repeat' first | with_reducible assumption | with_reducible intro _ | with_reducible refine State.fetchAll_sound _ _ _ ?_ | simp only [State.answer_bytes, State.fail_bytes, bytes_mk, bytes_eta, Iter.state_done, Iter.state_fmt, Iter.state_trap, Whole.state_ran, Whole.state_stopped, Whole.state_denied, Whole.goodIf_state] | split

theorem execRollback_sound {s t : State} {x0 : Sys2Proof.Req} (h : execRollback x0 s = .next t) (hs : Sound s.bytes) : Sound t.bytes := by
  simp only [execRollback, Host.Outcome.next.injEq] at h
  subst h
  repeat' first | with_reducible assumption | with_reducible intro _ | with_reducible refine State.settle_sound _ ?_ | simp only [State.commit_bytes, State.fail_bytes, State.ok_bytes, State.releaseStored_bytes, State.rollBack_bytes, bytes_mk, bytes_eta, Iter.state_done, Iter.state_fmt, Iter.state_trap, Whole.state_ran, Whole.state_stopped, Whole.state_denied, Whole.goodIf_state] | split

theorem execFence_sound {s t : State} {x0 : Sys2Proof.Req} (h : execFence x0 s = .next t) (hs : Sound s.bytes) : Sound t.bytes := by
  simp only [execFence, Host.Outcome.next.injEq] at h
  subst h
  repeat' first | with_reducible assumption | with_reducible intro _ | with_reducible refine State.fenceParty_sound _ _ ?_ | simp only [State.fail_bytes, State.ok_bytes, bytes_mk, bytes_eta, Iter.state_done, Iter.state_fmt, Iter.state_trap, Whole.state_ran, Whole.state_stopped, Whole.state_denied, Whole.goodIf_state] | split

theorem execAbort_sound {s t : State} {x0 : Sys2Proof.Req} (h : execAbort x0 s = .next t) (hs : Sound s.bytes) : Sound t.bytes := by
  simp only [execAbort, Host.Outcome.next.injEq] at h
  subst h
  repeat' first | with_reducible assumption | with_reducible intro _ | with_reducible refine State.settle_sound _ ?_ | simp only [State.fail_bytes, State.failInstance_bytes, State.ok_bytes, bytes_mk, bytes_eta, Iter.state_done, Iter.state_fmt, Iter.state_trap, Whole.state_ran, Whole.state_stopped, Whole.state_denied, Whole.goodIf_state] | split

theorem State.wiped_sound (s : State) (hs : Sound s.bytes) : Sound s.wiped.bytes := by
  have h : (List.foldl State.removePlan s (s.pl.plans.map (·.1))).bytes = s.bytes :=
    foldl_bytes _ (fun t n => State.removePlan_bytes t n) _ _
  rw [← h] at hs
  exact ⟨rfl, hs.2⟩

theorem execWipeDone_sound {s t : State} (h : execWipeDone s = .next t) (hs : Sound s.bytes) : Sound t.bytes := by
  simp only [execWipeDone, Host.Outcome.next.injEq] at h
  subst h
  repeat' first | with_reducible assumption | with_reducible intro _ | with_reducible refine State.wiped_sound _ ?_ | simp only [State.ok_bytes, bytes_mk, bytes_eta, Iter.state_done, Iter.state_fmt, Iter.state_trap, Whole.state_ran, Whole.state_stopped, Whole.state_denied, Whole.goodIf_state] | split

theorem State.leaveUp_sound (s : State) (x1 : _) (x2 : _) (hs : Sound s.bytes) : Sound (State.leaveUp s x1 x2).bytes := by
  unfold State.leaveUp
  repeat' first | with_reducible assumption | with_reducible intro _ | with_reducible refine State.goSilent_sound _ _ ?_ | simp only [State.endCharges_bytes, State.modPort_bytes, State.resilverOver_bytes, bytes_mk, bytes_eta, Iter.state_done, Iter.state_fmt, Iter.state_trap, Whole.state_ran, Whole.state_stopped, Whole.state_denied, Whole.goodIf_state] | split

theorem State.portFails_sound (s : State) (x1 : _) (x2 : _) (hs : Sound s.bytes) : Sound (State.portFails s x1 x2).bytes := by
  unfold State.portFails
  repeat' first | with_reducible assumption | with_reducible intro _ | with_reducible refine State.leaveUp_sound _ _ _ ?_ | simp only [State.modPort_bytes, State.raise_bytes, State.reportLinks_bytes, bytes_mk, bytes_eta, Iter.state_done, Iter.state_fmt, Iter.state_trap, Whole.state_ran, Whole.state_stopped, Whole.state_denied, Whole.goodIf_state] | split

theorem State.failAndTrain_sound (s : State) (x1 : _) (hs : Sound s.bytes) : Sound (State.failAndTrain s x1).bytes := by
  unfold State.failAndTrain
  repeat' first | with_reducible assumption | with_reducible intro _ | with_reducible refine State.portFails_sound _ _ _ ?_ | simp only [State.retrain_bytes, bytes_mk, bytes_eta, Iter.state_done, Iter.state_fmt, Iter.state_trap, Whole.state_ran, Whole.state_stopped, Whole.state_denied, Whole.goodIf_state] | split

theorem State.resendFrom_sound (s : State) (x1 : _) (x2 : _) (hs : Sound s.bytes) : Sound (State.resendFrom s x1 x2).bytes := by
  unfold State.resendFrom
  repeat' first | with_reducible assumption | with_reducible intro _ | with_reducible refine State.failAndTrain_sound _ _ ?_ | simp only [State.bump_bytes, State.modPort_bytes, State.resendFrame_bytes, bytes_mk, bytes_eta, Iter.state_done, Iter.state_fmt, Iter.state_trap, Whole.state_ran, Whole.state_stopped, Whole.state_denied, Whole.goodIf_state] | with_reducible refine foldl_sound _ ?_ _ _ ?_ | with_reducible refine foldlB_sound _ ?_ _ _ ?_ | with_reducible refine foldl1_sound _ ?_ _ _ ?_ | with_reducible refine foldl2_sound _ ?_ _ _ ?_ | split

theorem State.linkNak_sound (s : State) (x1 : _) (x2 : _) (hs : Sound s.bytes) : Sound (State.linkNak s x1 x2).bytes := by
  unfold State.linkNak
  repeat' first | with_reducible assumption | with_reducible intro _ | with_reducible refine State.resendFrom_sound _ _ _ ?_ | simp only [State.modPort_bytes, bytes_mk, bytes_eta, Iter.state_done, Iter.state_fmt, Iter.state_trap, Whole.state_ran, Whole.state_stopped, Whole.state_denied, Whole.goodIf_state] | split

theorem State.finishDegrade_sound (s : State) (x1 : _) (x2 : _) (hs : Sound s.bytes) : Sound (State.finishDegrade s x1 x2).bytes := by
  unfold State.finishDegrade
  repeat' first | with_reducible assumption | with_reducible intro _ | with_reducible refine State.portFails_sound _ _ _ ?_ | simp only [State.bump_bytes, State.modPort_bytes, bytes_mk, bytes_eta, Iter.state_done, Iter.state_fmt, Iter.state_trap, Whole.state_ran, Whole.state_stopped, Whole.state_denied, Whole.goodIf_state] | split

theorem State.degradeFrame_sound (s : State) (x1 : _) (x2 : _) (hs : Sound s.bytes) : Sound (State.degradeFrame s x1 x2).bytes := by
  unfold State.degradeFrame
  repeat' first | with_reducible assumption | with_reducible intro _ | with_reducible refine State.finishDegrade_sound _ _ _ ?_ | simp only [State.startDegrade_bytes, bytes_mk, bytes_eta, Iter.state_done, Iter.state_fmt, Iter.state_trap, Whole.state_ran, Whole.state_stopped, Whole.state_denied, Whole.goodIf_state] | split

theorem execControlFrameReceive_sound {s t : State} {x0 : Nat} {x1 : List Sys2Proof.Byte} (h : execControlFrameReceive x0 x1 s = .next t) (hs : Sound s.bytes) : Sound t.bytes := by
  simp only [execControlFrameReceive, Host.Outcome.next.injEq] at h
  subst h
  repeat' first | with_reducible assumption | with_reducible intro _ | with_reducible refine State.degradeFrame_sound _ _ _ ?_ | with_reducible refine State.linkNak_sound _ _ _ ?_ | with_reducible refine State.portFails_sound _ _ _ ?_ | simp only [State.bump_bytes, State.modPort_bytes, State.raise_bytes, bytes_mk, bytes_eta, Iter.state_done, Iter.state_fmt, Iter.state_trap, Whole.state_ran, Whole.state_stopped, Whole.state_denied, Whole.goodIf_state] | split

theorem execLinkAckTimeout_sound {s t : State} {x0 : Nat} (h : execLinkAckTimeout x0 s = .next t) (hs : Sound s.bytes) : Sound t.bytes := by
  simp only [execLinkAckTimeout, Host.Outcome.next.injEq] at h
  subst h
  repeat' first | with_reducible assumption | with_reducible intro _ | with_reducible refine State.resendFrom_sound _ _ _ ?_ | simp only [bytes_mk, bytes_eta, Iter.state_done, Iter.state_fmt, Iter.state_trap, Whole.state_ran, Whole.state_stopped, Whole.state_denied, Whole.goodIf_state] | split

theorem execControlSlotLoss_sound {s t : State} {x0 : Nat} (h : execControlSlotLoss x0 s = .next t) (hs : Sound s.bytes) : Sound t.bytes := by
  simp only [execControlSlotLoss, Host.Outcome.next.injEq] at h
  subst h
  repeat' first | with_reducible assumption | with_reducible intro _ | with_reducible refine State.failAndTrain_sound _ _ ?_ | simp only [State.startDegrade_bytes, bytes_mk, bytes_eta, Iter.state_done, Iter.state_fmt, Iter.state_trap, Whole.state_ran, Whole.state_stopped, Whole.state_denied, Whole.goodIf_state] | split

theorem execLaneFail_sound {s t : State} {x0 : Nat} {x1 : Nat} (h : execLaneFail x0 x1 s = .next t) (hs : Sound s.bytes) : Sound t.bytes := by
  simp only [execLaneFail, Host.Outcome.next.injEq] at h
  subst h
  repeat' first | with_reducible assumption | with_reducible intro _ | with_reducible refine State.portFails_sound _ _ _ ?_ | simp only [State.modPort_bytes, State.startDegrade_bytes, bytes_mk, bytes_eta, Iter.state_done, Iter.state_fmt, Iter.state_trap, Whole.state_ran, Whole.state_stopped, Whole.state_denied, Whole.goodIf_state] | split

theorem execPortDown_sound {s t : State} {x0 : Nat} (h : execPortDown x0 s = .next t) (hs : Sound s.bytes) : Sound t.bytes := by
  simp only [execPortDown, Host.Outcome.next.injEq] at h
  subst h
  repeat' first | with_reducible assumption | with_reducible intro _ | with_reducible refine State.portFails_sound _ _ _ ?_ | simp only [bytes_mk, bytes_eta, Iter.state_done, Iter.state_fmt, Iter.state_trap, Whole.state_ran, Whole.state_stopped, Whole.state_denied, Whole.goodIf_state] | split

theorem State.configPort_sound (s : State) (x1 : _) (x2 : _) (x3 : _) (x4 : _) (hs : Sound s.bytes) : Sound (State.configPort s x1 x2 x3 x4).bytes := by
  unfold State.configPort
  repeat' first | with_reducible assumption | with_reducible intro _ | with_reducible refine State.leaveUp_sound _ _ _ ?_ | simp only [State.reportSilence_bytes, State.setPort_bytes, State.train_bytes, State.wr_bytes, bytes_mk, bytes_eta, Iter.state_done, Iter.state_fmt, Iter.state_trap, Whole.state_ran, Whole.state_stopped, Whole.state_denied, Whole.goodIf_state] | split

theorem execPortConfig_sound {s t : State} {x0 : Sys2Proof.Req} (h : execPortConfig x0 s = .next t) (hs : Sound s.bytes) : Sound t.bytes := by
  simp only [execPortConfig, Host.Outcome.next.injEq] at h
  subst h
  repeat' first | with_reducible assumption | with_reducible intro _ | with_reducible refine State.configPort_sound _ _ _ _ _ ?_ | with_reducible refine State.leaveUp_sound _ _ _ ?_ | simp only [State.ok_bytes, State.refuseAt_bytes, State.reportLinks_bytes, State.setPort_bytes, bytes_mk, bytes_eta, Iter.state_done, Iter.state_fmt, Iter.state_trap, Whole.state_ran, Whole.state_stopped, Whole.state_denied, Whole.goodIf_state] | split

theorem State.admitCell_sound {s t : State} {p : Nat} {c : Cell} (h : s.admitCell p c = some t) (hs : Sound s.bytes) : Sound t.bytes := by
  have hr : Sound (if s.inPassing c = true then s.exchPassing c else (s, true)).1.bytes := by
    split
    · exact State.exchPassing_sound s c hs
    · exact hs
  simp only [State.admitCell] at h
  generalize (if s.inPassing c = true then s.exchPassing c else (s, true)) = r at h hr
  repeat' split at h
  all_goals first
    | (cases h; done)
    | (cases h; simp only [State.returnCredit_bytes, State.countWay_bytes, State.spill_bytes, State.store_bytes]; exact hr)

theorem State.ingress_sound {s t : State} {p : Nat} {b : List Byte} (h : s.ingress p b = some t) (hs : Sound s.bytes) : Sound t.bytes := by
  simp only [State.ingress] at h
  repeat' split at h
  all_goals first
    | (cases h; simp only [State.returnCredit_bytes, State.bump_bytes, State.raise_bytes]; exact hs)
    | (cases h; rw [State.returnCredit_bytes, State.colourFate_bytes (by assumption), State.meterCell_bytes]; exact hs)
    | (refine State.admitCell_sound h ?_; rw [State.meterCell_bytes]; exact hs)

theorem execCellReceive_sound {s t : State} {p : Nat} {b : List Byte} (h : execCellReceive p b s = .next t) (hs : Sound s.bytes) :
    Sound t.bytes := by
  simp only [execCellReceive, Host.Outcome.next.injEq] at h
  subst h
  split
  · exact hs
  · split
    · rename_i t ht
      exact State.ingress_sound ht (by rw [State.modPort_bytes]; exact hs)
    · exact hs

theorem State.transferDrop_sound (s : State) (x1 : _) (hs : Sound s.bytes) : Sound (State.transferDrop s x1).bytes := by
  unfold State.transferDrop
  repeat' first | with_reducible assumption | with_reducible intro _ | with_reducible refine State.healFails_sound _ _ ?_ | simp only [State.bump_bytes, State.resilverFails_bytes, bytes_mk, bytes_eta, Iter.state_done, Iter.state_fmt, Iter.state_trap, Whole.state_ran, Whole.state_stopped, Whole.state_denied, Whole.goodIf_state] | split

theorem State.messageIn_sound (s : State) (x1 : _) (x2 : _) (hs : Sound s.bytes) : Sound (State.messageIn s x1 x2).bytes := by
  unfold State.messageIn
  repeat' first | with_reducible assumption | with_reducible intro _ | with_reducible refine State.transferDrop_sound _ _ ?_ | simp only [State.bump_bytes, State.mismatch_bytes, bytes_mk, bytes_eta, Iter.state_done, Iter.state_fmt, Iter.state_trap, Whole.state_ran, Whole.state_stopped, Whole.state_denied, Whole.goodIf_state] | split

theorem State.joinStream_sound (s : State) (x1 : _) (hs : Sound s.bytes) : Sound (State.joinStream s x1).bytes := by
  unfold State.joinStream
  repeat' first | with_reducible assumption | with_reducible intro _ | with_reducible refine State.messageIn_sound _ _ _ ?_ | simp only [State.ackStream_bytes, State.bump_bytes, bytes_mk, bytes_eta, Iter.state_done, Iter.state_fmt, Iter.state_trap, Whole.state_ran, Whole.state_stopped, Whole.state_denied, Whole.goodIf_state] | with_reducible refine foldl_sound _ ?_ _ _ ?_ | with_reducible refine foldlB_sound _ ?_ _ _ ?_ | with_reducible refine foldl1_sound _ ?_ _ _ ?_ | with_reducible refine foldl2_sound _ ?_ _ _ ?_ | split

theorem execLocalCellDeliver_sound {s t : State} {x0 : Nat} {x1 : Nat} (h : execLocalCellDeliver x0 x1 s = .next t) (hs : Sound s.bytes) : Sound t.bytes := by
  simp only [execLocalCellDeliver, Host.Outcome.next.injEq] at h
  subst h
  repeat' first | with_reducible assumption | with_reducible intro _ | with_reducible refine State.joinStream_sound _ _ ?_ | simp only [State.admitBlocked_bytes, State.bump_bytes, State.dropRef_bytes, State.fillWindow_bytes, State.setQueue_bytes, State.setWindow_bytes, bytes_mk, bytes_eta, Iter.state_done, Iter.state_fmt, Iter.state_trap, Whole.state_ran, Whole.state_stopped, Whole.state_denied, Whole.goodIf_state] | split

theorem State.partyFailed_sound (s : State) (x1 : _) (hs : Sound s.bytes) : Sound (State.partyFailed s x1).bytes := by
  unfold State.partyFailed
  repeat' first | with_reducible assumption | with_reducible intro _ | with_reducible refine State.fenceParty_sound _ _ ?_ | simp only [State.treeLost_bytes, bytes_mk, bytes_eta, Iter.state_done, Iter.state_fmt, Iter.state_trap, Whole.state_ran, Whole.state_stopped, Whole.state_denied, Whole.goodIf_state] | with_reducible refine foldl_sound _ ?_ _ _ ?_ | with_reducible refine foldlB_sound _ ?_ _ _ ?_ | with_reducible refine foldl1_sound _ ?_ _ _ ?_ | with_reducible refine foldl2_sound _ ?_ _ _ ?_ | split

theorem State.streamLost_sound (s : State) (x1 : _) (x2 : _) (hs : Sound s.bytes) : Sound (State.streamLost s x1 x2).bytes := by
  unfold State.streamLost
  repeat' first | with_reducible assumption | with_reducible intro _ | with_reducible refine State.partyFailed_sound _ _ ?_ | simp only [State.bump_bytes, State.raise_bytes, bytes_mk, bytes_eta, Iter.state_done, Iter.state_fmt, Iter.state_trap, Whole.state_ran, Whole.state_stopped, Whole.state_denied, Whole.goodIf_state] | split

theorem execNakTimer_sound {s t : State} {x0 : Sys2Proof.FA} {x1 : BitVec 20} (h : execNakTimer x0 x1 s = .next t) (hs : Sound s.bytes) : Sound t.bytes := by
  simp only [execNakTimer, Host.Outcome.next.injEq] at h
  subst h
  repeat' first | with_reducible assumption | with_reducible intro _ | with_reducible refine State.streamLost_sound _ _ _ ?_ | simp only [State.bump_bytes, State.sendCtrl_bytes, State.streamStep_bytes, bytes_mk, bytes_eta, Iter.state_done, Iter.state_fmt, Iter.state_trap, Whole.state_ran, Whole.state_stopped, Whole.state_denied, Whole.goodIf_state] | split

theorem State.fetchSpilled_sound (s : State) (x1 : _) (x2 : _) (hs : Sound s.bytes) : Sound (State.fetchSpilled s x1 x2).bytes := by
  unfold State.fetchSpilled
  repeat' first | with_reducible assumption | with_reducible intro _ | with_reducible refine State.fetchObject_sound _ _ _ ?_ | simp only [bytes_mk, bytes_eta, Iter.state_done, Iter.state_fmt, Iter.state_trap, Whole.state_ran, Whole.state_stopped, Whole.state_denied, Whole.goodIf_state] | split

theorem execProbeTimer_sound {s t : State} {x0 : Sys2Proof.FA} {x1 : BitVec 20} (h : execProbeTimer x0 x1 s = .next t) (hs : Sound s.bytes) : Sound t.bytes := by
  simp only [execProbeTimer, Host.Outcome.next.injEq] at h
  subst h
  repeat' first | with_reducible assumption | with_reducible intro _ | with_reducible refine State.fetchSpilled_sound _ _ _ ?_ | with_reducible refine State.streamLost_sound _ _ _ ?_ | simp only [State.replayCell_bytes, State.setTx_bytes, bytes_mk, bytes_eta, Iter.state_done, Iter.state_fmt, Iter.state_trap, Whole.state_ran, Whole.state_stopped, Whole.state_denied, Whole.goodIf_state] | split

theorem execAckReceive_sound {s t : State} {x0 : Sys2Proof.FA} {x1 : BitVec 20} {x2 : BitVec 24} {x3 : Nat} {x4 : Nat} (h : execAckReceive x0 x1 x2 x3 x4 s = .next t) (hs : Sound s.bytes) : Sound t.bytes := by
  simp only [execAckReceive, Host.Outcome.next.injEq] at h
  subst h
  repeat' first | with_reducible assumption | with_reducible intro _ | with_reducible refine State.progress_sound _ _ ?_ | simp only [State.admitBlocked_bytes, State.creditBack_bytes, State.pump_bytes, State.release_bytes, State.setTx_bytes, State.takeCtrl_bytes, bytes_mk, bytes_eta, Iter.state_done, Iter.state_fmt, Iter.state_trap, Whole.state_ran, Whole.state_stopped, Whole.state_denied, Whole.goodIf_state] | split

theorem execNakReceive_sound {s t : State} {x0 : Sys2Proof.FA} {x1 : BitVec 20} {x2 : Nat} {x3 : List (Nat × Nat)} (h : execNakReceive x0 x1 x2 x3 s = .next t) (hs : Sound s.bytes) : Sound t.bytes := by
  simp only [execNakReceive, Host.Outcome.next.injEq] at h
  subst h
  repeat' first | with_reducible assumption | with_reducible intro _ | with_reducible refine State.fetchSpilled_sound _ _ _ ?_ | simp only [State.replayCell_bytes, State.takeCtrl_bytes, bytes_mk, bytes_eta, Iter.state_done, Iter.state_fmt, Iter.state_trap, Whole.state_ran, Whole.state_stopped, Whole.state_denied, Whole.goodIf_state] | with_reducible refine foldl_sound _ ?_ _ _ ?_ | with_reducible refine foldlB_sound _ ?_ _ _ ?_ | with_reducible refine foldl1_sound _ ?_ _ _ ?_ | with_reducible refine foldl2_sound _ ?_ _ _ ?_ | split

theorem State.engineReset_sound (s : State) (hs : Sound s.bytes) : Sound s.engineReset.bytes := by
  refine ⟨?_, rfl, rfl⟩
  suffices h : Sound s.engineReset.bytes ∨ Ram.wf s.engineReset.mem.ram = true from h.elim (·.1) id
  right
  unfold State.engineReset
  dsimp only
  refine Sound.ram ?_
  simp only [State.wr_bytes, State.clearCtrs_bytes]
  rw [foldl_bytes]
  · simp only [State.emptyStreams_bytes, State.wipeCells_bytes]
    exact hs
  · intro t h
    exact State.endNow_bytes t h _ _

theorem State.moduleReset_sound (s : State) (n : Nat) (_ : Sound s.bytes) : Sound (s.moduleReset n).bytes := ⟨rfl, rfl, rfl⟩

theorem State.coldReset_sound (s : State) (n : Nat) (b : Bool) (_ : Sound s.bytes) : Sound (s.coldReset n b).bytes := ⟨rfl, rfl, rfl⟩

theorem State.resetCtl_sound (s : State) (x1 : _) (hs : Sound s.bytes) : Sound (State.resetCtl s x1).bytes := by
  unfold State.resetCtl
  repeat' first | with_reducible assumption | with_reducible intro _ | with_reducible refine State.engineReset_sound _ ?_ | with_reducible refine State.moduleReset_sound _ _ ?_ | simp only [State.raise_bytes, bytes_mk, bytes_eta, Iter.state_done, Iter.state_fmt, Iter.state_trap, Whole.state_ran, Whole.state_stopped, Whole.state_denied, Whole.goodIf_state] | split

theorem execEngineReset_sound {s t : State} {x0 : Sys2Proof.Word} (h : execEngineReset x0 s = .next t) (hs : Sound s.bytes) : Sound t.bytes := by
  simp only [execEngineReset, Host.Outcome.next.injEq] at h
  subst h
  repeat' first | with_reducible assumption | with_reducible intro _ | with_reducible refine State.resetCtl_sound _ _ ?_ | simp only [bytes_mk, bytes_eta, Iter.state_done, Iter.state_fmt, Iter.state_trap, Whole.state_ran, Whole.state_stopped, Whole.state_denied, Whole.goodIf_state] | split

theorem execModuleReset_sound {s t : State} {x0 : Sys2Proof.ResetCause} (h : execModuleReset x0 s = .next t) (hs : Sound s.bytes) : Sound t.bytes := by
  simp only [execModuleReset, Host.Outcome.next.injEq] at h
  subst h
  repeat' first | with_reducible assumption | with_reducible intro _ | with_reducible refine State.moduleReset_sound _ _ ?_ | with_reducible refine State.resetCtl_sound _ _ ?_ | simp only [bytes_mk, bytes_eta, Iter.state_done, Iter.state_fmt, Iter.state_trap, Whole.state_ran, Whole.state_stopped, Whole.state_denied, Whole.goodIf_state] | split

theorem State.lapisWipe_sound (s : State) (hs : Sound s.bytes) : Sound s.lapisWipe.bytes := by
  refine ⟨?_, rfl, rfl⟩
  exact (State.wiped_sound s.wipeCells.emptyStreams (by simpa only [State.emptyStreams_bytes, State.wipeCells_bytes] using hs)).1

theorem State.transition_sound (s : State) (rq : Req) (a b : Nat) (r : Record) (hs : Sound s.bytes) : Sound (s.transition rq a b r).bytes := by
  have hb := State.beforeBurn_bytes s a b r
  unfold State.transition
  split
  · rename_i t off h
    rw [h] at hb
    rw [State.burnFail_bytes]
    exact hb ▸ hs
  · rename_i t h
    rw [h] at hb
    split
    · rw [State.burnFail_bytes]
      exact hb ▸ hs
    · simp only [State.raise_bytes, State.answer_bytes]
      refine State.lapisWipe_sound _ ?_
      rw [State.afterBurn_bytes]
      exact hb ▸ hs

theorem State.maintain_sound (s : State) (rq : Req) (r : Record) (hs : Sound s.bytes) : Sound (s.maintain rq r).bytes := by
  unfold State.maintain
  repeat' first | with_reducible assumption | simp only [State.fail_bytes, State.burnFail_bytes, State.ok_bytes, bytes_mk, bytes_eta] | with_reducible refine State.lapisWipe_sound _ ?_ | split
  all_goals
    rename_i h
    have e := congrArg (fun p => p.1.bytes) h
    simp only [State.burnConfig_bytes, bytes_mk, bytes_eta] at e
    exact e ▸ hs

theorem State.signedRequest_sound (s : State) (x1 : _) (x2 : _) (x3 : _) (x4 : _) (hs : Sound s.bytes) : Sound (State.signedRequest s x1 x2 x3 x4).bytes := by
  unfold State.signedRequest
  repeat' first | with_reducible assumption | with_reducible intro _ | with_reducible refine State.maintain_sound _ _ _ ?_ | with_reducible refine State.transition_sound _ _ _ _ _ ?_ | simp only [State.fail_bytes, bytes_mk, bytes_eta, Iter.state_done, Iter.state_fmt, Iter.state_trap, Whole.state_ran, Whole.state_stopped, Whole.state_denied, Whole.goodIf_state] | split

theorem execLifecycle_sound {s t : State} {x0 : Sys2Proof.Req} {x1 : List Sys2Proof.Byte} {x2 : Sys2Proof.SigAnswer} (h : execLifecycle x0 x1 x2 s = .next t) (hs : Sound s.bytes) : Sound t.bytes := by
  simp only [execLifecycle, Host.Outcome.next.injEq] at h
  subst h
  repeat' first | with_reducible assumption | with_reducible intro _ | with_reducible refine State.signedRequest_sound _ _ _ _ _ ?_ | with_reducible refine State.transition_sound _ _ _ _ _ ?_ | simp only [State.authFail_bytes, State.fail_bytes, bytes_mk, bytes_eta, Iter.state_done, Iter.state_fmt, Iter.state_trap, Whole.state_ran, Whole.state_stopped, Whole.state_denied, Whole.goodIf_state] | split

theorem State.dropImport_sound (s : State) (x1 : _) (hs : Sound s.bytes) : Sound (State.dropImport s x1).bytes := by
  unfold State.dropImport
  repeat' first | with_reducible assumption | with_reducible intro _ | with_reducible refine State.putRange_sound _ _ _ _ ?_ | simp only [State.draw_bytes, bytes_mk, bytes_eta, Iter.state_done, Iter.state_fmt, Iter.state_trap, Whole.state_ran, Whole.state_stopped, Whole.state_denied, Whole.goodIf_state] | split

theorem State.dropWipe_sound (s : State) (hs : Sound s.bytes) : Sound (State.dropWipe s).bytes := by
  unfold State.dropWipe
  repeat' first | with_reducible assumption | with_reducible intro _ | with_reducible refine State.memClear_sound _ _ _ ?_ | simp only [State.draw_bytes, bytes_mk, bytes_eta, Iter.state_done, Iter.state_fmt, Iter.state_trap, Whole.state_ran, Whole.state_stopped, Whole.state_denied, Whole.goodIf_state] | split | with_reducible refine Sound.of ?_ ?_ ?_ | with_reducible refine Sound.ram ?_ | with_reducible refine Sound.work ?_ | with_reducible refine Sound.cells ?_

theorem State.abortRequest_sound (s : State) (x1 : _) (hs : Sound s.bytes) : Sound (State.abortRequest s x1).bytes := by
  unfold State.abortRequest
  repeat' first | with_reducible assumption | with_reducible intro _ | with_reducible refine State.dropImport_sound _ _ ?_ | with_reducible refine State.dropWipe_sound _ ?_ | simp only [State.fail_bytes, State.resilverOver_bytes, bytes_mk, bytes_eta, Iter.state_done, Iter.state_fmt, Iter.state_trap, Whole.state_ran, Whole.state_stopped, Whole.state_denied, Whole.goodIf_state] | with_reducible refine foldl_sound _ ?_ _ _ ?_ | with_reducible refine foldlB_sound _ ?_ _ _ ?_ | with_reducible refine foldl1_sound _ ?_ _ _ ?_ | with_reducible refine foldl2_sound _ ?_ _ _ ?_ | split

theorem State.catchUp_sound (s : State) (hs : Sound s.bytes) : Sound (State.catchUp s).bytes := by
  unfold State.catchUp
  repeat' first | with_reducible assumption | with_reducible intro _ | with_reducible refine State.decideDead_sound _ ?_ | with_reducible refine State.partyFailed_sound _ _ ?_ | simp only [State.reportLinks_bytes, bytes_mk, bytes_eta, Iter.state_done, Iter.state_fmt, Iter.state_trap, Whole.state_ran, Whole.state_stopped, Whole.state_denied, Whole.goodIf_state] | with_reducible refine foldl_sound _ ?_ _ _ ?_ | with_reducible refine foldlB_sound _ ?_ _ _ ?_ | with_reducible refine foldl1_sound _ ?_ _ _ ?_ | with_reducible refine foldl2_sound _ ?_ _ _ ?_ | split

theorem execFwRestartDone_sound {s t : State} (h : execFwRestartDone s = .next t) (hs : Sound s.bytes) : Sound t.bytes := by
  simp only [execFwRestartDone, Host.Outcome.next.injEq] at h
  subst h
  repeat' first | with_reducible assumption | with_reducible intro _ | with_reducible refine State.abortRequest_sound _ _ ?_ | with_reducible refine State.catchUp_sound _ ?_ | simp only [State.raise_bytes, State.traceStart_bytes, bytes_mk, bytes_eta, Iter.state_done, Iter.state_fmt, Iter.state_trap, Whole.state_ran, Whole.state_stopped, Whole.state_denied, Whole.goodIf_state] | with_reducible refine foldl_sound _ ?_ _ _ ?_ | with_reducible refine foldlB_sound _ ?_ _ _ ?_ | with_reducible refine foldl1_sound _ ?_ _ _ ?_ | with_reducible refine foldl2_sound _ ?_ _ _ ?_ | split

theorem State.writeHandoff_sound (s : State) (hs : Sound s.bytes) : Sound (State.writeHandoff s).bytes := by
  unfold State.writeHandoff
  repeat' first | with_reducible assumption | with_reducible intro _ | with_reducible refine State.memWrite_sound _ _ _ ?_ | simp only [bytes_mk, bytes_eta, Iter.state_done, Iter.state_fmt, Iter.state_trap, Whole.state_ran, Whole.state_stopped, Whole.state_denied, Whole.goodIf_state] | split

theorem execFwHandoff_sound {s t : State} {x0 : Bool} (h : execFwHandoff x0 s = .next t) (hs : Sound s.bytes) : Sound t.bytes := by
  simp only [execFwHandoff, Host.Outcome.next.injEq] at h
  subst h
  repeat' first | with_reducible assumption | with_reducible intro _ | with_reducible refine State.writeHandoff_sound _ ?_ | simp only [State.fail_bytes, State.stageFailed_bytes, State.stagePassed_bytes, State.takeOver_bytes, bytes_mk, bytes_eta, Iter.state_done, Iter.state_fmt, Iter.state_trap, Whole.state_ran, Whole.state_stopped, Whole.state_denied, Whole.goodIf_state] | split

theorem State.refclkGone_sound (s : State) (x1 : _) (hs : Sound s.bytes) : Sound (State.refclkGone s x1).bytes := by
  unfold State.refclkGone
  repeat' first | with_reducible assumption | with_reducible intro _ | with_reducible refine State.portFails_sound _ _ _ ?_ | simp only [State.modPort_bytes, bytes_mk, bytes_eta, Iter.state_done, Iter.state_fmt, Iter.state_trap, Whole.state_ran, Whole.state_stopped, Whole.state_denied, Whole.goodIf_state] | split

theorem execLinkRefclkLost_sound {s t : State} {x0 : Nat} (h : execLinkRefclkLost x0 s = .next t) (hs : Sound s.bytes) : Sound t.bytes := by
  simp only [execLinkRefclkLost, Host.Outcome.next.injEq] at h
  subst h
  repeat' first | with_reducible assumption | with_reducible intro _ | with_reducible refine State.refclkGone_sound _ _ ?_ | simp only [bytes_mk, bytes_eta, Iter.state_done, Iter.state_fmt, Iter.state_trap, Whole.state_ran, Whole.state_stopped, Whole.state_denied, Whole.goodIf_state] | with_reducible refine foldl_sound _ ?_ _ _ ?_ | with_reducible refine foldlB_sound _ ?_ _ _ ?_ | with_reducible refine foldl1_sound _ ?_ _ _ ?_ | with_reducible refine foldl2_sound _ ?_ _ _ ?_ | split

theorem execSupplyRestored_sound {s t : State} (h : execSupplyRestored s = .next t) (hs : Sound s.bytes) : Sound t.bytes := by
  simp only [execSupplyRestored, Host.Outcome.next.injEq] at h
  subst h
  repeat' first | with_reducible assumption | with_reducible intro _ | with_reducible refine State.moduleReset_sound _ _ ?_ | simp only [bytes_mk, bytes_eta, Iter.state_done, Iter.state_fmt, Iter.state_trap, Whole.state_ran, Whole.state_stopped, Whole.state_denied, Whole.goodIf_state] | split

theorem execColdReset_sound {s t : State} {x0 : Sys2Proof.ColdCause} (h : execColdReset x0 s = .next t) (hs : Sound s.bytes) : Sound t.bytes := by
  simp only [execColdReset, Host.Outcome.next.injEq] at h
  subst h
  repeat' first | with_reducible assumption | with_reducible intro _ | with_reducible refine State.coldReset_sound _ _ _ ?_ | simp only [State.tearSave_bytes, bytes_mk, bytes_eta, Iter.state_done, Iter.state_fmt, Iter.state_trap, Whole.state_ran, Whole.state_stopped, Whole.state_denied, Whole.goodIf_state] | split

theorem State.stageReady_sound (s : State) (hs : Sound s.bytes) : Sound (State.stageReady s).bytes := by
  unfold State.stageReady
  repeat' first | with_reducible assumption | with_reducible intro _ | with_reducible refine State.wiped_sound _ ?_ | simp only [State.raise_bytes, bytes_mk, bytes_eta, Iter.state_done, Iter.state_fmt, Iter.state_trap, Whole.state_ran, Whole.state_stopped, Whole.state_denied, Whole.goodIf_state] | split

theorem execBringUpStageDone_sound {s t : State} {x0 : Sys2Proof.StageReport} (h : execBringUpStageDone x0 s = .next t) (hs : Sound s.bytes) : Sound t.bytes := by
  simp only [execBringUpStageDone, Host.Outcome.next.injEq] at h
  subst h
  repeat' first | with_reducible assumption | with_reducible intro _ | with_reducible refine State.stageReady_sound _ ?_ | simp only [State.stageAlign_bytes, State.stageAon_bytes, State.stageBoot_bytes, State.stageTo_bytes, State.stageTrain_bytes, State.stageUcie_bytes, bytes_mk, bytes_eta, Iter.state_done, Iter.state_fmt, Iter.state_trap, Whole.state_ran, Whole.state_stopped, Whole.state_denied, Whole.goodIf_state] | split

theorem State.writeReg_sound (s : State) (x1 : _) (x2 : _) (hs : Sound s.bytes) : Sound (State.writeReg s x1 x2).bytes := by
  unfold State.writeReg
  repeat' first | with_reducible assumption | with_reducible intro _ | with_reducible refine State.resetCtl_sound _ _ ?_ | simp only [State.alertWrite_bytes, State.cmWrite_bytes, State.cqBell_bytes, State.evtRingReg_bytes, State.fwCtl_bytes, State.gateCtl_bytes, State.modeWrite_bytes, State.msiWrite_bytes, State.ovfWrite_bytes, State.placeWrite_bytes, State.pwrCfgWrite_bytes, State.rateLifted_bytes, State.regionWrite_bytes, State.ringWrite_bytes, State.sqBell_bytes, State.trapWrite_bytes, State.ueLogWrite_bytes, State.wr_bytes, bytes_mk, bytes_eta, Iter.state_done, Iter.state_fmt, Iter.state_trap, Whole.state_ran, Whole.state_stopped, Whole.state_denied, Whole.goodIf_state] | split

theorem execRegisterWrite_sound {s t : State} {x0 : List Sys2Proof.Byte} {x1 : List Sys2Proof.Byte} (h : execRegisterWrite x0 x1 s = .next t) (hs : Sound s.bytes) : Sound t.bytes := by
  simp only [execRegisterWrite, Host.Outcome.next.injEq] at h
  subst h
  repeat' first | with_reducible assumption | with_reducible intro _ | with_reducible refine State.writeReg_sound _ _ _ ?_ | simp only [State.bump_bytes, bytes_mk, bytes_eta, Iter.state_done, Iter.state_fmt, Iter.state_trap, Whole.state_ran, Whole.state_stopped, Whole.state_denied, Whole.goodIf_state] | split

theorem execTelemetrySnapshot_sound {s t : State} {x0 : Sys2Proof.Req} (h : execTelemetrySnapshot x0 s = .next t) (hs : Sound s.bytes) : Sound t.bytes := by
  simp only [execTelemetrySnapshot, Host.Outcome.next.injEq] at h
  subst h
  repeat' first | with_reducible assumption | with_reducible intro _ | with_reducible refine State.fetchObject_sound _ _ _ ?_ | simp only [State.answer_bytes, State.fail_bytes, bytes_mk, bytes_eta, Iter.state_done, Iter.state_fmt, Iter.state_trap, Whole.state_ran, Whole.state_stopped, Whole.state_denied, Whole.goodIf_state] | split

theorem State.scrubBlock_sound (s : State) (x1 : _) (hs : Sound s.bytes) : Sound (State.scrubBlock s x1).bytes := by
  unfold State.scrubBlock
  repeat' first | with_reducible assumption | with_reducible intro _ | with_reducible refine State.readBlock_sound _ _ ?_ | simp only [State.fwRestart_bytes, bytes_mk, bytes_eta, Iter.state_done, Iter.state_fmt, Iter.state_trap, Whole.state_ran, Whole.state_stopped, Whole.state_denied, Whole.goodIf_state] | split

theorem State.scrubUnit_sound (s : State) (x1 : _) (x2 : _) (x3 : _) (hs : Sound s.bytes) : Sound (State.scrubUnit s x1 x2 x3).bytes := by
  unfold State.scrubUnit
  repeat' first | with_reducible assumption | with_reducible intro _ | with_reducible refine State.scrubBlock_sound _ _ ?_ | simp only [State.upset_bytes, bytes_mk, bytes_eta, Iter.state_done, Iter.state_fmt, Iter.state_trap, Whole.state_ran, Whole.state_stopped, Whole.state_denied, Whole.goodIf_state] | with_reducible refine foldl_sound _ ?_ _ _ ?_ | with_reducible refine foldlB_sound _ ?_ _ _ ?_ | with_reducible refine foldl1_sound _ ?_ _ _ ?_ | with_reducible refine foldl2_sound _ ?_ _ _ ?_ | split

theorem execPatrolScrub_sound {s t : State} {x0 : Nat} {x1 : List (Nat × BitVec 16)} (h : execPatrolScrub x0 x1 s = .next t) (hs : Sound s.bytes) : Sound t.bytes := by
  simp only [execPatrolScrub, Host.Outcome.next.injEq] at h
  subst h
  repeat' first | with_reducible assumption | with_reducible intro _ | with_reducible refine State.scrubUnit_sound _ _ _ _ ?_ | simp only [State.bump_bytes, bytes_mk, bytes_eta, Iter.state_done, Iter.state_fmt, Iter.state_trap, Whole.state_ran, Whole.state_stopped, Whole.state_denied, Whole.goodIf_state] | split | with_reducible refine Sound.of ?_ ?_ ?_ | with_reducible refine Sound.ram ?_ | with_reducible refine Sound.work ?_ | with_reducible refine Sound.cells ?_

end Sys2Proof.Machine
end

