-- ==== Sys2Proof/Laws/FramePlans.lean ====
section
/-!
SUPPORT. Laws/FramePlans.lean: what leaves plans, instances and programs alone.
-/
set_option linter.unusedSimpArgs false

namespace Sys2Proof.Machine

open Sys2Proof

/-- Plans, instances and their programs. -/
def State.plansOf (s : State) : Plans := s.pl

@[simp] theorem plansOf_eta (s : State) : s.pl = s.plansOf := (rfl)

@[simp] theorem plansOf_mk (a b c d e f g h i j k l m n o p q r t u v w) :
    (State.mk a b c d e f g h i j k l m n o p q r t u v w).plansOf = r := (rfl)

theorem foldl_plansOf {α : Type} (f : State → α → State) (h : ∀ t a, (f t a).plansOf = t.plansOf) (l : List α) (b : State) :
    (l.foldl f b).plansOf = b.plansOf := by
  induction l generalizing b with
  | nil => rfl
  | cons a l ih => rw [List.foldl_cons, ih, h]

theorem foldlB_plansOf {α : Type} (f : Body → α → Body) (h : ∀ t a, (f t a).s.plansOf = t.s.plansOf) (l : List α) (b : Body) :
    (l.foldl f b).s.plansOf = b.s.plansOf := by
  induction l generalizing b with
  | nil => rfl
  | cons a l ih => rw [List.foldl_cons, ih, h]

theorem foldl1_plansOf {α β : Type} (f : State × β → α → State × β) (h : ∀ t a, (f t a).1.plansOf = t.1.plansOf) (l : List α) (b : State × β) :
    (l.foldl f b).1.plansOf = b.1.plansOf := by
  induction l generalizing b with
  | nil => rfl
  | cons a l ih => rw [List.foldl_cons, ih, h]

theorem foldl2_plansOf {α β : Type} (f : β × State → α → β × State) (h : ∀ t a, (f t a).2.plansOf = t.2.plansOf) (l : List α) (b : β × State) :
    (l.foldl f b).2.plansOf = b.2.plansOf := by
  induction l generalizing b with
  | nil => rfl
  | cons a l ih => rw [List.foldl_cons, ih, h]

@[simp] theorem State.wr_plansOf (s : State) (x1 : _) (x2 : _) : (State.wr s x1 x2).plansOf = s.plansOf := by
  unfold State.wr
  repeat' first | with_reducible rfl | with_reducible assumption | intro _ | simp only [plansOf_mk, plansOf_eta, Iter.state_done, Iter.state_fmt, Iter.state_trap, Whole.state_ran, Whole.state_stopped, Whole.state_denied] | split | with_reducible refine (foldl_plansOf _ ?_ _ _).trans ?_

@[simp] theorem State.tick_plansOf (s : State) : (State.tick s).plansOf = s.plansOf := by
  unfold State.tick
  repeat' first | with_reducible rfl | with_reducible assumption | intro _ | simp only [plansOf_mk, plansOf_eta, Iter.state_done, Iter.state_fmt, Iter.state_trap, Whole.state_ran, Whole.state_stopped, Whole.state_denied] | split | with_reducible refine (foldl_plansOf _ ?_ _ _).trans ?_

@[simp] theorem State.emit_plansOf (s : State) (x1 : _) : (State.emit s x1).plansOf = s.plansOf := by
  unfold State.emit
  repeat' first | with_reducible rfl | with_reducible assumption | intro _ | simp only [plansOf_mk, plansOf_eta, Iter.state_done, Iter.state_fmt, Iter.state_trap, Whole.state_ran, Whole.state_stopped, Whole.state_denied] | split | with_reducible refine (foldl_plansOf _ ?_ _ _).trans ?_

@[simp] theorem State.draw_plansOf (s : State) : (State.draw s).2.plansOf = s.plansOf := by
  unfold State.draw
  repeat' first | with_reducible rfl | with_reducible assumption | intro _ | simp only [plansOf_mk, plansOf_eta, Iter.state_done, Iter.state_fmt, Iter.state_trap, Whole.state_ran, Whole.state_stopped, Whole.state_denied] | split | with_reducible refine (foldl_plansOf _ ?_ _ _).trans ?_

@[simp] theorem State.setCtr_plansOf (s : State) (x1 : _) (x2 : _) : (State.setCtr s x1 x2).plansOf = s.plansOf := by
  unfold State.setCtr
  repeat' first | with_reducible rfl | with_reducible assumption | intro _ | simp only [plansOf_mk, plansOf_eta, Iter.state_done, Iter.state_fmt, Iter.state_trap, Whole.state_ran, Whole.state_stopped, Whole.state_denied] | split | with_reducible refine (foldl_plansOf _ ?_ _ _).trans ?_

@[simp] theorem State.count_plansOf (s : State) (x1 : _) (x2 : _) : (State.count s x1 x2).plansOf = s.plansOf := by
  unfold State.count
  repeat' first | with_reducible rfl | with_reducible assumption | intro _ | simp only [State.setCtr_plansOf, plansOf_mk, plansOf_eta, Iter.state_done, Iter.state_fmt, Iter.state_trap, Whole.state_ran, Whole.state_stopped, Whole.state_denied] | split | with_reducible refine (foldl_plansOf _ ?_ _ _).trans ?_

@[simp] theorem State.clearCtr_plansOf (s : State) (x1 : _) : (State.clearCtr s x1).plansOf = s.plansOf := by
  unfold State.clearCtr
  repeat' first | with_reducible rfl | with_reducible assumption | intro _ | simp only [State.setCtr_plansOf, plansOf_mk, plansOf_eta, Iter.state_done, Iter.state_fmt, Iter.state_trap, Whole.state_ran, Whole.state_stopped, Whole.state_denied] | split | with_reducible refine (foldl_plansOf _ ?_ _ _).trans ?_

@[simp] theorem State.clearCtrs_plansOf (s : State) (x1 : _) : (State.clearCtrs s x1).plansOf = s.plansOf := by
  unfold State.clearCtrs
  repeat' first | with_reducible rfl | with_reducible assumption | intro _ | simp only [plansOf_mk, plansOf_eta, Iter.state_done, Iter.state_fmt, Iter.state_trap, Whole.state_ran, Whole.state_stopped, Whole.state_denied] | split | with_reducible refine (foldl_plansOf _ ?_ _ _).trans ?_

@[simp] theorem State.push_plansOf (s : State) (x1 : _) (x2 : _) (x3 : _) (x4 : _) (x5 : _) : (State.push s x1 x2 x3 x4 x5).plansOf = s.plansOf := by
  unfold State.push
  repeat' first | with_reducible rfl | with_reducible assumption | intro _ | simp only [plansOf_mk, plansOf_eta, Iter.state_done, Iter.state_fmt, Iter.state_trap, Whole.state_ran, Whole.state_stopped, Whole.state_denied] | split | with_reducible refine (foldl_plansOf _ ?_ _ _).trans ?_

@[simp] theorem State.dropLost_plansOf (s : State) : (State.dropLost s).plansOf = s.plansOf := by
  unfold State.dropLost
  repeat' first | with_reducible rfl | with_reducible assumption | intro _ | simp only [State.count_plansOf, plansOf_mk, plansOf_eta, Iter.state_done, Iter.state_fmt, Iter.state_trap, Whole.state_ran, Whole.state_stopped, Whole.state_denied] | split | with_reducible refine (foldl_plansOf _ ?_ _ _).trans ?_

@[simp] theorem State.pushSat_plansOf (s : State) (x1 : _) : (State.pushSat s x1).plansOf = s.plansOf := by
  unfold State.pushSat
  repeat' first | with_reducible rfl | with_reducible assumption | intro _ | simp only [State.push_plansOf, plansOf_mk, plansOf_eta, Iter.state_done, Iter.state_fmt, Iter.state_trap, Whole.state_ran, Whole.state_stopped, Whole.state_denied] | split | with_reducible refine (foldl_plansOf _ ?_ _ _).trans ?_

@[simp] theorem State.bump_plansOf (s : State) (x1 : _) (x2 : _) : (State.bump s x1 x2).plansOf = s.plansOf := by
  unfold State.bump
  repeat' first | with_reducible rfl | with_reducible assumption | intro _ | simp only [State.count_plansOf, State.dropLost_plansOf, State.pushSat_plansOf, plansOf_mk, plansOf_eta, Iter.state_done, Iter.state_fmt, Iter.state_trap, Whole.state_ran, Whole.state_stopped, Whole.state_denied] | split | with_reducible refine (foldl_plansOf _ ?_ _ _).trans ?_

@[simp] theorem State.raise_plansOf (s : State) (x1 : _) (x2 : _) (x3 : _) : (State.raise s x1 x2 x3).plansOf = s.plansOf := by
  unfold State.raise
  repeat' first | with_reducible rfl | with_reducible assumption | intro _ | simp only [State.dropLost_plansOf, State.push_plansOf, State.pushSat_plansOf, plansOf_mk, plansOf_eta, Iter.state_done, Iter.state_fmt, Iter.state_trap, Whole.state_ran, Whole.state_stopped, Whole.state_denied] | split | with_reducible refine (foldl_plansOf _ ?_ _ _).trans ?_

@[simp] theorem State.setPort_plansOf (s : State) (x1 : _) (x2 : _) : (State.setPort s x1 x2).plansOf = s.plansOf := by
  unfold State.setPort
  repeat' first | with_reducible rfl | with_reducible assumption | intro _ | simp only [plansOf_mk, plansOf_eta, Iter.state_done, Iter.state_fmt, Iter.state_trap, Whole.state_ran, Whole.state_stopped, Whole.state_denied] | split | with_reducible refine (foldl_plansOf _ ?_ _ _).trans ?_

@[simp] theorem State.modPort_plansOf (s : State) (x1 : _) (x2 : _) : (State.modPort s x1 x2).plansOf = s.plansOf := by
  unfold State.modPort
  repeat' first | with_reducible rfl | with_reducible assumption | intro _ | simp only [State.setPort_plansOf, plansOf_mk, plansOf_eta, Iter.state_done, Iter.state_fmt, Iter.state_trap, Whole.state_ran, Whole.state_stopped, Whole.state_denied] | split | with_reducible refine (foldl_plansOf _ ?_ _ _).trans ?_

@[simp] theorem State.modSched_plansOf (s : State) (x1 : _) (x2 : _) : (State.modSched s x1 x2).plansOf = s.plansOf := by
  unfold State.modSched
  repeat' first | with_reducible rfl | with_reducible assumption | intro _ | simp only [plansOf_mk, plansOf_eta, Iter.state_done, Iter.state_fmt, Iter.state_trap, Whole.state_ran, Whole.state_stopped, Whole.state_denied] | split | with_reducible refine (foldl_plansOf _ ?_ _ _).trans ?_

@[simp] theorem State.modParty_plansOf (s : State) (x1 : _) (x2 : _) : (State.modParty s x1 x2).plansOf = s.plansOf := by
  unfold State.modParty
  repeat' first | with_reducible rfl | with_reducible assumption | intro _ | simp only [plansOf_mk, plansOf_eta, Iter.state_done, Iter.state_fmt, Iter.state_trap, Whole.state_ran, Whole.state_stopped, Whole.state_denied] | split | with_reducible refine (foldl_plansOf _ ?_ _ _).trans ?_

@[simp] theorem State.rebuildRoutes_plansOf (s : State) : (State.rebuildRoutes s).plansOf = s.plansOf := by
  unfold State.rebuildRoutes
  repeat' first | with_reducible rfl | with_reducible assumption | intro _ | simp only [State.raise_plansOf, plansOf_mk, plansOf_eta, Iter.state_done, Iter.state_fmt, Iter.state_trap, Whole.state_ran, Whole.state_stopped, Whole.state_denied] | split | with_reducible refine (foldl_plansOf _ ?_ _ _).trans ?_

@[simp] theorem State.rebuildGroups_plansOf (s : State) : (State.rebuildGroups s).plansOf = s.plansOf := by
  unfold State.rebuildGroups
  repeat' first | with_reducible rfl | with_reducible assumption | intro _ | simp only [plansOf_mk, plansOf_eta, Iter.state_done, Iter.state_fmt, Iter.state_trap, Whole.state_ran, Whole.state_stopped, Whole.state_denied] | split | with_reducible refine (foldl_plansOf _ ?_ _ _).trans ?_

@[simp] theorem State.bookRead_plansOf (s : State) (x1 : _) (x2 : _) : (State.bookRead s x1 x2).2.plansOf = s.plansOf := by
  unfold State.bookRead
  repeat' first | with_reducible rfl | with_reducible assumption | intro _ | simp only [plansOf_mk, plansOf_eta, Iter.state_done, Iter.state_fmt, Iter.state_trap, Whole.state_ran, Whole.state_stopped, Whole.state_denied] | split | with_reducible refine (foldl_plansOf _ ?_ _ _).trans ?_

@[simp] theorem State.setQueue_plansOf (s : State) (x1 : _) (x2 : _) : (State.setQueue s x1 x2).plansOf = s.plansOf := by
  unfold State.setQueue
  repeat' first | with_reducible rfl | with_reducible assumption | intro _ | simp only [plansOf_mk, plansOf_eta, Iter.state_done, Iter.state_fmt, Iter.state_trap, Whole.state_ran, Whole.state_stopped, Whole.state_denied] | split | with_reducible refine (foldl_plansOf _ ?_ _ _).trans ?_

@[simp] theorem State.setWindow_plansOf (s : State) (x1 : _) (x2 : _) : (State.setWindow s x1 x2).plansOf = s.plansOf := by
  unfold State.setWindow
  repeat' first | with_reducible rfl | with_reducible assumption | intro _ | simp only [plansOf_mk, plansOf_eta, Iter.state_done, Iter.state_fmt, Iter.state_trap, Whole.state_ran, Whole.state_stopped, Whole.state_denied] | split | with_reducible refine (foldl_plansOf _ ?_ _ _).trans ?_

@[simp] theorem State.modCellSlot_plansOf (s : State) (x1 : _) (x2 : _) : (State.modCellSlot s x1 x2).plansOf = s.plansOf := by
  unfold State.modCellSlot
  repeat' first | with_reducible rfl | with_reducible assumption | intro _ | simp only [plansOf_mk, plansOf_eta, Iter.state_done, Iter.state_fmt, Iter.state_trap, Whole.state_ran, Whole.state_stopped, Whole.state_denied] | split | with_reducible refine (foldl_plansOf _ ?_ _ _).trans ?_

@[simp] theorem State.tookCopy_plansOf (s : State) (x1 : _) (x2 : _) : (State.tookCopy s x1 x2).plansOf = s.plansOf := by
  unfold State.tookCopy
  repeat' first | with_reducible rfl | with_reducible assumption | intro _ | simp only [State.modCellSlot_plansOf, plansOf_mk, plansOf_eta, Iter.state_done, Iter.state_fmt, Iter.state_trap, Whole.state_ran, Whole.state_stopped, Whole.state_denied] | split | with_reducible refine (foldl_plansOf _ ?_ _ _).trans ?_

@[simp] theorem State.select_plansOf (s : State) (x1 : _) (x2 : _) (x3 : _) (x4 : _) : (State.select s x1 x2 x3 x4).plansOf = s.plansOf := by
  unfold State.select
  repeat' first | with_reducible rfl | with_reducible assumption | intro _ | simp only [State.bookRead_plansOf, State.setWindow_plansOf, plansOf_mk, plansOf_eta, Iter.state_done, Iter.state_fmt, Iter.state_trap, Whole.state_ran, Whole.state_stopped, Whole.state_denied] | split | with_reducible refine (foldl_plansOf _ ?_ _ _).trans ?_

@[simp] theorem State.fillWindow_plansOf (s : State) (x1 : _) : (State.fillWindow s x1).plansOf = s.plansOf := by
  unfold State.fillWindow
  repeat' first | with_reducible rfl | with_reducible assumption | intro _ | simp only [State.select_plansOf, State.tookCopy_plansOf, plansOf_mk, plansOf_eta, Iter.state_done, Iter.state_fmt, Iter.state_trap, Whole.state_ran, Whole.state_stopped, Whole.state_denied] | split | with_reducible refine (foldl_plansOf _ ?_ _ _).trans ?_ | with_reducible refine (foldlB_plansOf _ ?_ _ _).trans ?_ | with_reducible refine (foldl1_plansOf _ ?_ _ _).trans ?_ | with_reducible refine (foldl2_plansOf _ ?_ _ _).trans ?_

@[simp] theorem State.enqueue_plansOf (s : State) (x1 : _) (x2 : _) : (State.enqueue s x1 x2).plansOf = s.plansOf := by
  unfold State.enqueue
  repeat' first | with_reducible rfl | with_reducible assumption | intro _ | simp only [State.fillWindow_plansOf, State.modSched_plansOf, State.setQueue_plansOf, plansOf_mk, plansOf_eta, Iter.state_done, Iter.state_fmt, Iter.state_trap, Whole.state_ran, Whole.state_stopped, Whole.state_denied] | split | with_reducible refine (foldl_plansOf _ ?_ _ _).trans ?_

@[simp] theorem State.returnCredit_plansOf (s : State) (x1 : _) (x2 : _) : (State.returnCredit s x1 x2).plansOf = s.plansOf := by
  unfold State.returnCredit
  repeat' first | with_reducible rfl | with_reducible assumption | intro _ | simp only [State.modPort_plansOf, plansOf_mk, plansOf_eta, Iter.state_done, Iter.state_fmt, Iter.state_trap, Whole.state_ran, Whole.state_stopped, Whole.state_denied] | split | with_reducible refine (foldl_plansOf _ ?_ _ _).trans ?_

@[simp] theorem State.freeIfDone_plansOf (s : State) (x1 : _) : (State.freeIfDone s x1).plansOf = s.plansOf := by
  unfold State.freeIfDone
  repeat' first | with_reducible rfl | with_reducible assumption | intro _ | simp only [plansOf_mk, plansOf_eta, Iter.state_done, Iter.state_fmt, Iter.state_trap, Whole.state_ran, Whole.state_stopped, Whole.state_denied] | split | with_reducible refine (foldl_plansOf _ ?_ _ _).trans ?_

@[simp] theorem State.dropRef_plansOf (s : State) (x1 : _) : (State.dropRef s x1).plansOf = s.plansOf := by
  unfold State.dropRef
  repeat' first | with_reducible rfl | with_reducible assumption | intro _ | simp only [State.freeIfDone_plansOf, State.modCellSlot_plansOf, State.returnCredit_plansOf, plansOf_mk, plansOf_eta, Iter.state_done, Iter.state_fmt, Iter.state_trap, Whole.state_ran, Whole.state_stopped, Whole.state_denied] | split | with_reducible refine (foldl_plansOf _ ?_ _ _).trans ?_

@[simp] theorem State.dropRetention_plansOf (s : State) (x1 : _) : (State.dropRetention s x1).plansOf = s.plansOf := by
  unfold State.dropRetention
  repeat' first | with_reducible rfl | with_reducible assumption | intro _ | simp only [State.freeIfDone_plansOf, State.modCellSlot_plansOf, plansOf_mk, plansOf_eta, Iter.state_done, Iter.state_fmt, Iter.state_trap, Whole.state_ran, Whole.state_stopped, Whole.state_denied] | split | with_reducible refine (foldl_plansOf _ ?_ _ _).trans ?_

@[simp] theorem State.spillOne_plansOf (s : State) (x1 : _) : (State.spillOne s x1).plansOf = s.plansOf := by
  unfold State.spillOne
  repeat' first | with_reducible rfl | with_reducible assumption | intro _ | simp only [State.bump_plansOf, plansOf_mk, plansOf_eta, Iter.state_done, Iter.state_fmt, Iter.state_trap, Whole.state_ran, Whole.state_stopped, Whole.state_denied] | split | with_reducible refine (foldl_plansOf _ ?_ _ _).trans ?_

@[simp] theorem State.spillAll_plansOf (s : State) (x0 : _) : (State.spillAll x0 s).plansOf = s.plansOf := by
  induction x0 generalizing s with
  | zero => unfold State.spillAll; repeat' first | with_reducible rfl | with_reducible assumption | intro _ | simp only [State.spillOne_plansOf, plansOf_mk, plansOf_eta, Iter.state_done, Iter.state_fmt, Iter.state_trap, Whole.state_ran, Whole.state_stopped, Whole.state_denied] | split | with_reducible refine (foldl_plansOf _ ?_ _ _).trans ?_
  | succ n ih =>
    unfold State.spillAll
    repeat' first | with_reducible rfl | with_reducible assumption | intro _ | simp only [ih, State.spillOne_plansOf, plansOf_mk, plansOf_eta, Iter.state_done, Iter.state_fmt, Iter.state_trap, Whole.state_ran, Whole.state_stopped, Whole.state_denied] | split | with_reducible refine (foldl_plansOf _ ?_ _ _).trans ?_

@[simp] theorem State.spill_plansOf (s : State) : (State.spill s).plansOf = s.plansOf := by
  unfold State.spill
  repeat' first | with_reducible rfl | with_reducible assumption | intro _ | simp only [State.spillAll_plansOf, plansOf_mk, plansOf_eta, Iter.state_done, Iter.state_fmt, Iter.state_trap, Whole.state_ran, Whole.state_stopped, Whole.state_denied] | split | with_reducible refine (foldl_plansOf _ ?_ _ _).trans ?_

@[simp] theorem State.countEgress_plansOf (s : State) (x1 : _) (x2 : _) (x3 : _) : (State.countEgress s x1 x2 x3).plansOf = s.plansOf := by
  unfold State.countEgress
  repeat' first | with_reducible rfl | with_reducible assumption | intro _ | simp only [State.bump_plansOf, plansOf_mk, plansOf_eta, Iter.state_done, Iter.state_fmt, Iter.state_trap, Whole.state_ran, Whole.state_stopped, Whole.state_denied] | split | with_reducible refine (foldl_plansOf _ ?_ _ _).trans ?_

@[simp] theorem State.store_plansOf (s : State) (x1 : _) (x2 : _) (x3 : _) (x4 : _) (x5 : _) (x6 : _) (x7 : _) : (State.store s x1 x2 x3 x4 x5 x6 x7).2.plansOf = s.plansOf := by
  unfold State.store
  repeat' first | with_reducible rfl | with_reducible assumption | intro _ | simp only [State.enqueue_plansOf, plansOf_mk, plansOf_eta, Iter.state_done, Iter.state_fmt, Iter.state_trap, Whole.state_ran, Whole.state_stopped, Whole.state_denied] | split | with_reducible refine (foldl_plansOf _ ?_ _ _).trans ?_ | with_reducible refine (foldlB_plansOf _ ?_ _ _).trans ?_ | with_reducible refine (foldl1_plansOf _ ?_ _ _).trans ?_ | with_reducible refine (foldl2_plansOf _ ?_ _ _).trans ?_

@[simp] theorem State.countWay_plansOf (s : State) (x1 : _) (x2 : _) (x3 : _) : (State.countWay s x1 x2 x3).plansOf = s.plansOf := by
  unfold State.countWay
  repeat' first | with_reducible rfl | with_reducible assumption | intro _ | simp only [State.bump_plansOf, State.countEgress_plansOf, plansOf_mk, plansOf_eta, Iter.state_done, Iter.state_fmt, Iter.state_trap, Whole.state_ran, Whole.state_stopped, Whole.state_denied] | split | with_reducible refine (foldl_plansOf _ ?_ _ _).trans ?_

@[simp] theorem State.block_plansOf (s : State) (x1 : _) (x2 : _) : (State.block s x1 x2).plansOf = s.plansOf := by
  unfold State.block
  repeat' first | with_reducible rfl | with_reducible assumption | intro _ | simp only [plansOf_mk, plansOf_eta, Iter.state_done, Iter.state_fmt, Iter.state_trap, Whole.state_ran, Whole.state_stopped, Whole.state_denied] | split | with_reducible refine (foldl_plansOf _ ?_ _ _).trans ?_

@[simp] theorem State.storeOutput_plansOf (s : State) (x1 : _) (x2 : _) (x3 : _) (x4 : _) (x5 : _) : (State.storeOutput s x1 x2 x3 x4 x5).2.plansOf = s.plansOf := by
  unfold State.storeOutput
  repeat' first | with_reducible rfl | with_reducible assumption | intro _ | simp only [State.block_plansOf, State.bump_plansOf, State.store_plansOf, plansOf_mk, plansOf_eta, Iter.state_done, Iter.state_fmt, Iter.state_trap, Whole.state_ran, Whole.state_stopped, Whole.state_denied] | split | with_reducible refine (foldl_plansOf _ ?_ _ _).trans ?_

@[simp] theorem State.output_plansOf (s : State) (x1 : _) (x2 : _) : (State.output s x1 x2).2.plansOf = s.plansOf := by
  unfold State.output
  repeat' first | with_reducible rfl | with_reducible assumption | intro _ | simp only [State.block_plansOf, State.bump_plansOf, State.countWay_plansOf, State.storeOutput_plansOf, plansOf_mk, plansOf_eta, Iter.state_done, Iter.state_fmt, Iter.state_trap, Whole.state_ran, Whole.state_stopped, Whole.state_denied] | split | with_reducible refine (foldl_plansOf _ ?_ _ _).trans ?_

@[simp] theorem State.sendCtrl_plansOf (s : State) (x1 : _) (x2 : _) (x3 : _) (x4 : _) (x5 : _) : (State.sendCtrl s x1 x2 x3 x4 x5).plansOf = s.plansOf := by
  unfold State.sendCtrl
  repeat' first | with_reducible rfl | with_reducible assumption | intro _ | simp only [State.output_plansOf, State.spill_plansOf, plansOf_mk, plansOf_eta, Iter.state_done, Iter.state_fmt, Iter.state_trap, Whole.state_ran, Whole.state_stopped, Whole.state_denied] | split | with_reducible refine (foldl_plansOf _ ?_ _ _).trans ?_

@[simp] theorem State.sendOnPort_plansOf (s : State) (x1 : _) (x2 : _) (x3 : _) : (State.sendOnPort s x1 x2 x3).plansOf = s.plansOf := by
  unfold State.sendOnPort
  repeat' first | with_reducible rfl | with_reducible assumption | intro _ | simp only [State.block_plansOf, State.spill_plansOf, State.storeOutput_plansOf, plansOf_mk, plansOf_eta, Iter.state_done, Iter.state_fmt, Iter.state_trap, Whole.state_ran, Whole.state_stopped, Whole.state_denied] | split | with_reducible refine (foldl_plansOf _ ?_ _ _).trans ?_

@[simp] theorem State.relayCell_plansOf (s : State) (x1 : _) (x2 : _) : (State.relayCell s x1 x2).plansOf = s.plansOf := by
  unfold State.relayCell
  repeat' first | with_reducible rfl | with_reducible assumption | intro _ | simp only [State.block_plansOf, State.countWay_plansOf, State.enqueue_plansOf, State.modCellSlot_plansOf, State.output_plansOf, State.spill_plansOf, State.storeOutput_plansOf, plansOf_mk, plansOf_eta, Iter.state_done, Iter.state_fmt, Iter.state_trap, Whole.state_ran, Whole.state_stopped, Whole.state_denied] | split | with_reducible refine (foldl_plansOf _ ?_ _ _).trans ?_ | with_reducible refine (foldlB_plansOf _ ?_ _ _).trans ?_ | with_reducible refine (foldl1_plansOf _ ?_ _ _).trans ?_ | with_reducible refine (foldl2_plansOf _ ?_ _ _).trans ?_

@[simp] theorem State.setTx_plansOf (s : State) (x1 : _) (x2 : _) : (State.setTx s x1 x2).plansOf = s.plansOf := by
  unfold State.setTx
  repeat' first | with_reducible rfl | with_reducible assumption | intro _ | simp only [plansOf_mk, plansOf_eta, Iter.state_done, Iter.state_fmt, Iter.state_trap, Whole.state_ran, Whole.state_stopped, Whole.state_denied] | split | with_reducible refine (foldl_plansOf _ ?_ _ _).trans ?_

@[simp] theorem State.transmit_plansOf (s : State) (x1 : _) (x2 : _) (x3 : _) : (State.transmit s x1 x2 x3).plansOf = s.plansOf := by
  unfold State.transmit
  repeat' first | with_reducible rfl | with_reducible assumption | intro _ | simp only [State.output_plansOf, State.setTx_plansOf, State.spill_plansOf, plansOf_mk, plansOf_eta, Iter.state_done, Iter.state_fmt, Iter.state_trap, Whole.state_ran, Whole.state_stopped, Whole.state_denied] | split | with_reducible refine (foldl_plansOf _ ?_ _ _).trans ?_

@[simp] theorem State.pumpAux_plansOf (s : State) (x0 : _) (x1 : _) : (State.pumpAux x0 x1 s).plansOf = s.plansOf := by
  induction x1 generalizing s with
  | zero => unfold State.pumpAux; repeat' first | with_reducible rfl | with_reducible assumption | intro _ | simp only [State.setTx_plansOf, State.transmit_plansOf, plansOf_mk, plansOf_eta, Iter.state_done, Iter.state_fmt, Iter.state_trap, Whole.state_ran, Whole.state_stopped, Whole.state_denied] | split | with_reducible refine (foldl_plansOf _ ?_ _ _).trans ?_
  | succ n ih =>
    unfold State.pumpAux
    repeat' first | with_reducible rfl | with_reducible assumption | intro _ | simp only [ih, State.setTx_plansOf, State.transmit_plansOf, plansOf_mk, plansOf_eta, Iter.state_done, Iter.state_fmt, Iter.state_trap, Whole.state_ran, Whole.state_stopped, Whole.state_denied] | split | with_reducible refine (foldl_plansOf _ ?_ _ _).trans ?_

@[simp] theorem State.pump_plansOf (s : State) (x1 : _) : (State.pump s x1).plansOf = s.plansOf := by
  unfold State.pump
  repeat' first | with_reducible rfl | with_reducible assumption | intro _ | simp only [State.pumpAux_plansOf, plansOf_mk, plansOf_eta, Iter.state_done, Iter.state_fmt, Iter.state_trap, Whole.state_ran, Whole.state_stopped, Whole.state_denied] | split | with_reducible refine (foldl_plansOf _ ?_ _ _).trans ?_

@[simp] theorem State.sendMessage_plansOf (s : State) (x1 : _) (x2 : _) (x3 : _) (x4 : _) (x5 : _) (x6 : _) (x7 : _) (x8 : _) : (State.sendMessage s x1 x2 x3 x4 x5 x6 x7 x8).plansOf = s.plansOf := by
  unfold State.sendMessage
  repeat' first | with_reducible rfl | with_reducible assumption | intro _ | simp only [State.pump_plansOf, State.setTx_plansOf, plansOf_mk, plansOf_eta, Iter.state_done, Iter.state_fmt, Iter.state_trap, Whole.state_ran, Whole.state_stopped, Whole.state_denied] | split | with_reducible refine (foldl_plansOf _ ?_ _ _).trans ?_

@[simp] theorem State.release_plansOf (s : State) (x1 : _) (x2 : _) : (State.release s x1 x2).plansOf = s.plansOf := by
  unfold State.release
  repeat' first | with_reducible rfl | with_reducible assumption | intro _ | simp only [State.dropRetention_plansOf, State.setTx_plansOf, plansOf_mk, plansOf_eta, Iter.state_done, Iter.state_fmt, Iter.state_trap, Whole.state_ran, Whole.state_stopped, Whole.state_denied] | split | with_reducible refine (foldl_plansOf _ ?_ _ _).trans ?_ | with_reducible refine (foldlB_plansOf _ ?_ _ _).trans ?_ | with_reducible refine (foldl1_plansOf _ ?_ _ _).trans ?_ | with_reducible refine (foldl2_plansOf _ ?_ _ _).trans ?_

@[simp] theorem State.unretain_plansOf (s : State) (x1 : _) : (State.unretain s x1).plansOf = s.plansOf := by
  unfold State.unretain
  repeat' first | with_reducible rfl | with_reducible assumption | intro _ | simp only [plansOf_mk, plansOf_eta, Iter.state_done, Iter.state_fmt, Iter.state_trap, Whole.state_ran, Whole.state_stopped, Whole.state_denied] | split | with_reducible refine (foldl_plansOf _ ?_ _ _).trans ?_

@[simp] theorem State.releaseTx_plansOf (s : State) (x1 : _) : (State.releaseTx s x1).plansOf = s.plansOf := by
  unfold State.releaseTx
  repeat' first | with_reducible rfl | with_reducible assumption | intro _ | simp only [State.release_plansOf, State.unretain_plansOf, plansOf_mk, plansOf_eta, Iter.state_done, Iter.state_fmt, Iter.state_trap, Whole.state_ran, Whole.state_stopped, Whole.state_denied] | split | with_reducible refine (foldl_plansOf _ ?_ _ _).trans ?_

@[simp] theorem State.freshTx_plansOf (s : State) (x1 : _) : (State.freshTx s x1).plansOf = s.plansOf := by
  unfold State.freshTx
  repeat' first | with_reducible rfl | with_reducible assumption | intro _ | simp only [plansOf_mk, plansOf_eta, Iter.state_done, Iter.state_fmt, Iter.state_trap, Whole.state_ran, Whole.state_stopped, Whole.state_denied] | split | with_reducible refine (foldl_plansOf _ ?_ _ _).trans ?_

@[simp] theorem State.dropTx_plansOf (s : State) (x1 : _) : (State.dropTx s x1).plansOf = s.plansOf := by
  unfold State.dropTx
  repeat' first | with_reducible rfl | with_reducible assumption | intro _ | simp only [State.releaseTx_plansOf, plansOf_mk, plansOf_eta, Iter.state_done, Iter.state_fmt, Iter.state_trap, Whole.state_ran, Whole.state_stopped, Whole.state_denied] | split | with_reducible refine (foldl_plansOf _ ?_ _ _).trans ?_

@[simp] theorem State.releaseStreams_plansOf (s : State) (x1 : _) : (State.releaseStreams s x1).plansOf = s.plansOf := by
  unfold State.releaseStreams
  repeat' first | with_reducible rfl | with_reducible assumption | intro _ | simp only [State.pump_plansOf, State.releaseTx_plansOf, plansOf_mk, plansOf_eta, Iter.state_done, Iter.state_fmt, Iter.state_trap, Whole.state_ran, Whole.state_stopped, Whole.state_denied] | split | with_reducible refine (foldl_plansOf _ ?_ _ _).trans ?_ | with_reducible refine (foldlB_plansOf _ ?_ _ _).trans ?_ | with_reducible refine (foldl1_plansOf _ ?_ _ _).trans ?_ | with_reducible refine (foldl2_plansOf _ ?_ _ _).trans ?_

@[simp] theorem State.dropStreams_plansOf (s : State) (x1 : _) : (State.dropStreams s x1).plansOf = s.plansOf := by
  unfold State.dropStreams
  repeat' first | with_reducible rfl | with_reducible assumption | intro _ | simp only [State.dropTx_plansOf, plansOf_mk, plansOf_eta, Iter.state_done, Iter.state_fmt, Iter.state_trap, Whole.state_ran, Whole.state_stopped, Whole.state_denied] | split | with_reducible refine (foldl_plansOf _ ?_ _ _).trans ?_ | with_reducible refine (foldlB_plansOf _ ?_ _ _).trans ?_ | with_reducible refine (foldl1_plansOf _ ?_ _ _).trans ?_ | with_reducible refine (foldl2_plansOf _ ?_ _ _).trans ?_

@[simp] theorem State.closeStreams_plansOf (s : State) (x1 : _) (x2 : _) : (State.closeStreams s x1 x2).plansOf = s.plansOf := by
  unfold State.closeStreams
  repeat' first | with_reducible rfl | with_reducible assumption | intro _ | simp only [State.dropStreams_plansOf, State.output_plansOf, plansOf_mk, plansOf_eta, Iter.state_done, Iter.state_fmt, Iter.state_trap, Whole.state_ran, Whole.state_stopped, Whole.state_denied] | split | with_reducible refine (foldl_plansOf _ ?_ _ _).trans ?_ | with_reducible refine (foldlB_plansOf _ ?_ _ _).trans ?_ | with_reducible refine (foldl1_plansOf _ ?_ _ _).trans ?_ | with_reducible refine (foldl2_plansOf _ ?_ _ _).trans ?_

@[simp] theorem State.admitAux_plansOf (s : State) (x0 : _) : (State.admitAux x0 s).plansOf = s.plansOf := by
  induction x0 generalizing s with
  | zero => unfold State.admitAux; repeat' first | with_reducible rfl | with_reducible assumption | intro _ | simp only [State.output_plansOf, State.setTx_plansOf, plansOf_mk, plansOf_eta, Iter.state_done, Iter.state_fmt, Iter.state_trap, Whole.state_ran, Whole.state_stopped, Whole.state_denied] | split | with_reducible refine (foldl_plansOf _ ?_ _ _).trans ?_
  | succ n ih =>
    unfold State.admitAux
    repeat' first | with_reducible rfl | with_reducible assumption | intro _ | simp only [ih, State.output_plansOf, State.setTx_plansOf, plansOf_mk, plansOf_eta, Iter.state_done, Iter.state_fmt, Iter.state_trap, Whole.state_ran, Whole.state_stopped, Whole.state_denied] | split | with_reducible refine (foldl_plansOf _ ?_ _ _).trans ?_

@[simp] theorem State.admitBlocked_plansOf (s : State) : (State.admitBlocked s).plansOf = s.plansOf := by
  unfold State.admitBlocked
  repeat' first | with_reducible rfl | with_reducible assumption | intro _ | simp only [State.admitAux_plansOf, State.spill_plansOf, plansOf_mk, plansOf_eta, Iter.state_done, Iter.state_fmt, Iter.state_trap, Whole.state_ran, Whole.state_stopped, Whole.state_denied] | split | with_reducible refine (foldl_plansOf _ ?_ _ _).trans ?_

@[simp] theorem State.sendMsg_plansOf (s : State) (x1 : _) (x2 : _) (x3 : _) (x4 : _) (x5 : _) (x6 : _) : (State.sendMsg s x1 x2 x3 x4 x5 x6).plansOf = s.plansOf := by
  unfold State.sendMsg
  repeat' first | with_reducible rfl | with_reducible assumption | intro _ | simp only [State.sendMessage_plansOf, plansOf_mk, plansOf_eta, Iter.state_done, Iter.state_fmt, Iter.state_trap, Whole.state_ran, Whole.state_stopped, Whole.state_denied] | split | with_reducible refine (foldl_plansOf _ ?_ _ _).trans ?_

@[simp] theorem State.sendAck_plansOf (s : State) (x1 : _) (x2 : _) (x3 : _) (x4 : _) : (State.sendAck s x1 x2 x3 x4).plansOf = s.plansOf := by
  unfold State.sendAck
  repeat' first | with_reducible rfl | with_reducible assumption | intro _ | simp only [State.sendCtrl_plansOf, plansOf_mk, plansOf_eta, Iter.state_done, Iter.state_fmt, Iter.state_trap, Whole.state_ran, Whole.state_stopped, Whole.state_denied] | split | with_reducible refine (foldl_plansOf _ ?_ _ _).trans ?_

@[simp] theorem State.endDown_plansOf (s : State) (x1 : _) (x2 : _) (x3 : _) (x4 : _) : (State.endDown s x1 x2 x3 x4).plansOf = s.plansOf := by
  unfold State.endDown
  repeat' first | with_reducible rfl | with_reducible assumption | intro _ | simp only [State.sendMsg_plansOf, plansOf_mk, plansOf_eta, Iter.state_done, Iter.state_fmt, Iter.state_trap, Whole.state_ran, Whole.state_stopped, Whole.state_denied] | split | with_reducible refine (foldl_plansOf _ ?_ _ _).trans ?_ | with_reducible refine (foldlB_plansOf _ ?_ _ _).trans ?_ | with_reducible refine (foldl1_plansOf _ ?_ _ _).trans ?_ | with_reducible refine (foldl2_plansOf _ ?_ _ _).trans ?_

@[simp] theorem State.noteStatus_plansOf (s : State) (x1 : _) (x2 : _) : (State.noteStatus s x1 x2).plansOf = s.plansOf := by
  unfold State.noteStatus
  repeat' first | with_reducible rfl | with_reducible assumption | intro _ | simp only [plansOf_mk, plansOf_eta, Iter.state_done, Iter.state_fmt, Iter.state_trap, Whole.state_ran, Whole.state_stopped, Whole.state_denied] | split | with_reducible refine (foldl_plansOf _ ?_ _ _).trans ?_

@[simp] theorem State.sendEnds_plansOf (s : State) (x1 : _) (x2 : _) (x3 : _) : (State.sendEnds s x1 x2 x3).plansOf = s.plansOf := by
  unfold State.sendEnds
  repeat' first | with_reducible rfl | with_reducible assumption | intro _ | simp only [State.endDown_plansOf, State.sendMsg_plansOf, plansOf_mk, plansOf_eta, Iter.state_done, Iter.state_fmt, Iter.state_trap, Whole.state_ran, Whole.state_stopped, Whole.state_denied] | split | with_reducible refine (foldl_plansOf _ ?_ _ _).trans ?_ | with_reducible refine (foldlB_plansOf _ ?_ _ _).trans ?_ | with_reducible refine (foldl1_plansOf _ ?_ _ _).trans ?_ | with_reducible refine (foldl2_plansOf _ ?_ _ _).trans ?_

@[simp] theorem State.retire_plansOf (s : State) (x1 : _) : (State.retire s x1).plansOf = s.plansOf := by
  unfold State.retire
  repeat' first | with_reducible rfl | with_reducible assumption | intro _ | simp only [State.bump_plansOf, plansOf_mk, plansOf_eta, Iter.state_done, Iter.state_fmt, Iter.state_trap, Whole.state_ran, Whole.state_stopped, Whole.state_denied] | split | with_reducible refine (foldl_plansOf _ ?_ _ _).trans ?_

@[simp] theorem State.memWrite_plansOf (s : State) (x1 : _) (x2 : _) : (State.memWrite s x1 x2).plansOf = s.plansOf := by
  unfold State.memWrite
  repeat' first | with_reducible rfl | with_reducible assumption | intro _ | simp only [plansOf_mk, plansOf_eta, Iter.state_done, Iter.state_fmt, Iter.state_trap, Whole.state_ran, Whole.state_stopped, Whole.state_denied] | split | with_reducible refine (foldl_plansOf _ ?_ _ _).trans ?_

@[simp] theorem State.memClear_plansOf (s : State) (x1 : _) (x2 : _) : (State.memClear s x1 x2).plansOf = s.plansOf := by
  unfold State.memClear
  repeat' first | with_reducible rfl | with_reducible assumption | intro _ | simp only [plansOf_mk, plansOf_eta, Iter.state_done, Iter.state_fmt, Iter.state_trap, Whole.state_ran, Whole.state_stopped, Whole.state_denied] | split | with_reducible refine (foldl_plansOf _ ?_ _ _).trans ?_

@[simp] theorem State.noteTerm_plansOf (s : State) (x1 : _) : (State.noteTerm s x1).plansOf = s.plansOf := by
  unfold State.noteTerm
  repeat' first | with_reducible rfl | with_reducible assumption | intro _ | simp only [plansOf_mk, plansOf_eta, Iter.state_done, Iter.state_fmt, Iter.state_trap, Whole.state_ran, Whole.state_stopped, Whole.state_denied] | split | with_reducible refine (foldl_plansOf _ ?_ _ _).trans ?_

@[simp] theorem State.sendGranule_plansOf (s : State) (x1 : _) (x2 : _) (x3 : _) : (State.sendGranule s x1 x2 x3).plansOf = s.plansOf := by
  unfold State.sendGranule
  repeat' first | with_reducible rfl | with_reducible assumption | intro _ | simp only [State.sendMessage_plansOf, plansOf_mk, plansOf_eta, Iter.state_done, Iter.state_fmt, Iter.state_trap, Whole.state_ran, Whole.state_stopped, Whole.state_denied] | split | with_reducible refine (foldl_plansOf _ ?_ _ _).trans ?_

@[simp] theorem State.resend_plansOf (s : State) (x1 : _) : (State.resend s x1).plansOf = s.plansOf := by
  unfold State.resend
  repeat' first | with_reducible rfl | with_reducible assumption | intro _ | simp only [State.sendGranule_plansOf, plansOf_mk, plansOf_eta, Iter.state_done, Iter.state_fmt, Iter.state_trap, Whole.state_ran, Whole.state_stopped, Whole.state_denied] | split | with_reducible refine (foldl_plansOf _ ?_ _ _).trans ?_

@[simp] theorem State.stateWrite_plansOf (s : State) (x1 : _) (x2 : _) : (State.stateWrite s x1 x2).plansOf = s.plansOf := by
  unfold State.stateWrite
  repeat' first | with_reducible rfl | with_reducible assumption | intro _ | simp only [State.memWrite_plansOf, State.noteTerm_plansOf, State.resend_plansOf, plansOf_mk, plansOf_eta, Iter.state_done, Iter.state_fmt, Iter.state_trap, Whole.state_ran, Whole.state_stopped, Whole.state_denied] | split | with_reducible refine (foldl_plansOf _ ?_ _ _).trans ?_ | with_reducible refine (foldlB_plansOf _ ?_ _ _).trans ?_ | with_reducible refine (foldl1_plansOf _ ?_ _ _).trans ?_ | with_reducible refine (foldl2_plansOf _ ?_ _ _).trans ?_

@[simp] theorem State.zeroRetire_plansOf (s : State) (x1 : _) : (State.zeroRetire s x1).plansOf = s.plansOf := by
  unfold State.zeroRetire
  repeat' first | with_reducible rfl | with_reducible assumption | intro _ | simp only [State.memClear_plansOf, State.retire_plansOf, plansOf_mk, plansOf_eta, Iter.state_done, Iter.state_fmt, Iter.state_trap, Whole.state_ran, Whole.state_stopped, Whole.state_denied] | split | with_reducible refine (foldl_plansOf _ ?_ _ _).trans ?_

@[simp] theorem State.putTables_plansOf (s : State) (x1 : _) (x2 : _) : (State.putTables s x1 x2).plansOf = s.plansOf := by
  unfold State.putTables
  repeat' first | with_reducible rfl | with_reducible assumption | intro _ | simp only [plansOf_mk, plansOf_eta, Iter.state_done, Iter.state_fmt, Iter.state_trap, Whole.state_ran, Whole.state_stopped, Whole.state_denied] | split | with_reducible refine (foldl_plansOf _ ?_ _ _).trans ?_

@[simp] theorem State.queueHeal_plansOf (s : State) (x1 : _) (x2 : _) : (State.queueHeal s x1 x2).plansOf = s.plansOf := by
  unfold State.queueHeal
  repeat' first | with_reducible rfl | with_reducible assumption | intro _ | simp only [plansOf_mk, plansOf_eta, Iter.state_done, Iter.state_fmt, Iter.state_trap, Whole.state_ran, Whole.state_stopped, Whole.state_denied] | split | with_reducible refine (foldl_plansOf _ ?_ _ _).trans ?_

@[simp] theorem State.logUe_plansOf (s : State) (x1 : _) : (State.logUe s x1).plansOf = s.plansOf := by
  unfold State.logUe
  repeat' first | with_reducible rfl | with_reducible assumption | intro _ | simp only [State.bump_plansOf, State.raise_plansOf, plansOf_mk, plansOf_eta, Iter.state_done, Iter.state_fmt, Iter.state_trap, Whole.state_ran, Whole.state_stopped, Whole.state_denied] | split | with_reducible refine (foldl_plansOf _ ?_ _ _).trans ?_

@[simp] theorem State.xorBlock_plansOf (s : State) (x1 : _) (x2 : _) : (State.xorBlock s x1 x2).plansOf = s.plansOf := by
  unfold State.xorBlock
  repeat' first | with_reducible rfl | with_reducible assumption | intro _ | simp only [State.memWrite_plansOf, plansOf_mk, plansOf_eta, Iter.state_done, Iter.state_fmt, Iter.state_trap, Whole.state_ran, Whole.state_stopped, Whole.state_denied] | split | with_reducible refine (foldl_plansOf _ ?_ _ _).trans ?_ | with_reducible refine (foldlB_plansOf _ ?_ _ _).trans ?_ | with_reducible refine (foldl1_plansOf _ ?_ _ _).trans ?_ | with_reducible refine (foldl2_plansOf _ ?_ _ _).trans ?_

@[simp] theorem State.chargeChannel_plansOf (s : State) (x1 : _) (x2 : _) : (State.chargeChannel s x1 x2).plansOf = s.plansOf := by
  unfold State.chargeChannel
  repeat' first | with_reducible rfl | with_reducible assumption | intro _ | simp only [plansOf_mk, plansOf_eta, Iter.state_done, Iter.state_fmt, Iter.state_trap, Whole.state_ran, Whole.state_stopped, Whole.state_denied] | split | with_reducible refine (foldl_plansOf _ ?_ _ _).trans ?_

@[simp] theorem State.upset_plansOf (s : State) (x1 : _) (x2 : _) : (State.upset s x1 x2).plansOf = s.plansOf := by
  unfold State.upset
  repeat' first | with_reducible rfl | with_reducible assumption | intro _ | simp only [plansOf_mk, plansOf_eta, Iter.state_done, Iter.state_fmt, Iter.state_trap, Whole.state_ran, Whole.state_stopped, Whole.state_denied] | split | with_reducible refine (foldl_plansOf _ ?_ _ _).trans ?_

@[simp] theorem State.rewrite_plansOf (s : State) (x1 : _) : (State.rewrite s x1).plansOf = s.plansOf := by
  unfold State.rewrite
  repeat' first | with_reducible rfl | with_reducible assumption | intro _ | simp only [plansOf_mk, plansOf_eta, Iter.state_done, Iter.state_fmt, Iter.state_trap, Whole.state_ran, Whole.state_stopped, Whole.state_denied] | split | with_reducible refine (foldl_plansOf _ ?_ _ _).trans ?_

@[simp] theorem State.setHeader_plansOf (s : State) (x1 : _) (x2 : _) (x3 : _) (x4 : _) (x5 : _) (x6 : _) : (State.setHeader s x1 x2 x3 x4 x5 x6).plansOf = s.plansOf := by
  unfold State.setHeader
  repeat' first | with_reducible rfl | with_reducible assumption | intro _ | simp only [State.stateWrite_plansOf, plansOf_mk, plansOf_eta, Iter.state_done, Iter.state_fmt, Iter.state_trap, Whole.state_ran, Whole.state_stopped, Whole.state_denied] | split | with_reducible refine (foldl_plansOf _ ?_ _ _).trans ?_

@[simp] theorem State.firstUpdate_plansOf (s : State) (x1 : _) (x2 : _) : (State.firstUpdate s x1 x2).plansOf = s.plansOf := by
  unfold State.firstUpdate
  repeat' first | with_reducible rfl | with_reducible assumption | intro _ | simp only [State.setHeader_plansOf, plansOf_mk, plansOf_eta, Iter.state_done, Iter.state_fmt, Iter.state_trap, Whole.state_ran, Whole.state_stopped, Whole.state_denied] | split | with_reducible refine (foldl_plansOf _ ?_ _ _).trans ?_

@[simp] theorem State.markSegments_plansOf (s : State) (x1 : _) (x2 : _) (x3 : _) : (State.markSegments s x1 x2 x3).plansOf = s.plansOf := by
  unfold State.markSegments
  repeat' first | with_reducible rfl | with_reducible assumption | intro _ | simp only [plansOf_mk, plansOf_eta, Iter.state_done, Iter.state_fmt, Iter.state_trap, Whole.state_ran, Whole.state_stopped, Whole.state_denied] | split | with_reducible refine (foldl_plansOf _ ?_ _ _).trans ?_

@[simp] theorem State.applyElems_plansOf (s : State) (x1 : _) (x2 : _) (x3 : _) (x4 : _) (x5 : _) (x6 : _) : (State.applyElems s x1 x2 x3 x4 x5 x6).2.plansOf = s.plansOf := by
  unfold State.applyElems
  repeat' first | with_reducible rfl | with_reducible assumption | intro _ | simp only [State.firstUpdate_plansOf, State.markSegments_plansOf, State.stateWrite_plansOf, plansOf_mk, plansOf_eta, Iter.state_done, Iter.state_fmt, Iter.state_trap, Whole.state_ran, Whole.state_stopped, Whole.state_denied] | split | with_reducible refine (foldl_plansOf _ ?_ _ _).trans ?_

@[simp] theorem State.applyWhole_plansOf (s : State) (x1 : _) (x2 : _) (x3 : _) (x4 : _) (x5 : _) : (State.applyWhole s x1 x2 x3 x4 x5).plansOf = s.plansOf := by
  unfold State.applyWhole
  repeat' first | with_reducible rfl | with_reducible assumption | intro _ | simp only [State.firstUpdate_plansOf, State.markSegments_plansOf, State.stateWrite_plansOf, plansOf_mk, plansOf_eta, Iter.state_done, Iter.state_fmt, Iter.state_trap, Whole.state_ran, Whole.state_stopped, Whole.state_denied] | split | with_reducible refine (foldl_plansOf _ ?_ _ _).trans ?_

@[simp] theorem State.copyBank_plansOf (s : State) (x1 : _) (x2 : _) : (State.copyBank s x1 x2).plansOf = s.plansOf := by
  unfold State.copyBank
  repeat' first | with_reducible rfl | with_reducible assumption | intro _ | simp only [State.stateWrite_plansOf, plansOf_mk, plansOf_eta, Iter.state_done, Iter.state_fmt, Iter.state_trap, Whole.state_ran, Whole.state_stopped, Whole.state_denied] | split | with_reducible refine (foldl_plansOf _ ?_ _ _).trans ?_

@[simp] theorem State.carryShard_plansOf (s : State) (x1 : _) (x2 : _) : (State.carryShard s x1 x2).plansOf = s.plansOf := by
  unfold State.carryShard
  repeat' first | with_reducible rfl | with_reducible assumption | intro _ | simp only [State.bump_plansOf, State.copyBank_plansOf, plansOf_mk, plansOf_eta, Iter.state_done, Iter.state_fmt, Iter.state_trap, Whole.state_ran, Whole.state_stopped, Whole.state_denied] | split | with_reducible refine (foldl_plansOf _ ?_ _ _).trans ?_ | with_reducible refine (foldlB_plansOf _ ?_ _ _).trans ?_ | with_reducible refine (foldl1_plansOf _ ?_ _ _).trans ?_ | with_reducible refine (foldl2_plansOf _ ?_ _ _).trans ?_

@[simp] theorem State.carryAll_plansOf (s : State) : (State.carryAll s).plansOf = s.plansOf := by
  unfold State.carryAll
  repeat' first | with_reducible rfl | with_reducible assumption | intro _ | simp only [State.carryShard_plansOf, plansOf_mk, plansOf_eta, Iter.state_done, Iter.state_fmt, Iter.state_trap, Whole.state_ran, Whole.state_stopped, Whole.state_denied] | split | with_reducible refine (foldl_plansOf _ ?_ _ _).trans ?_ | with_reducible refine (foldlB_plansOf _ ?_ _ _).trans ?_ | with_reducible refine (foldl1_plansOf _ ?_ _ _).trans ?_ | with_reducible refine (foldl2_plansOf _ ?_ _ _).trans ?_

@[simp] theorem State.exchange_plansOf (s : State) (x1 : _) : (State.exchange s x1).plansOf = s.plansOf := by
  unfold State.exchange
  repeat' first | with_reducible rfl | with_reducible assumption | intro _ | simp only [State.bump_plansOf, State.raise_plansOf, plansOf_mk, plansOf_eta, Iter.state_done, Iter.state_fmt, Iter.state_trap, Whole.state_ran, Whole.state_stopped, Whole.state_denied] | split | with_reducible refine (foldl_plansOf _ ?_ _ _).trans ?_

@[simp] theorem State.commit_plansOf (s : State) (x1 : _) : (State.commit s x1).plansOf = s.plansOf := by
  unfold State.commit
  repeat' first | with_reducible rfl | with_reducible assumption | intro _ | simp only [State.bump_plansOf, State.sendCtrl_plansOf, plansOf_mk, plansOf_eta, Iter.state_done, Iter.state_fmt, Iter.state_trap, Whole.state_ran, Whole.state_stopped, Whole.state_denied] | split | with_reducible refine (foldl_plansOf _ ?_ _ _).trans ?_

@[simp] theorem State.discardStep_plansOf (s : State) : (State.discardStep s).plansOf = s.plansOf := by
  unfold State.discardStep
  repeat' first | with_reducible rfl | with_reducible assumption | intro _ | simp only [plansOf_mk, plansOf_eta, Iter.state_done, Iter.state_fmt, Iter.state_trap, Whole.state_ran, Whole.state_stopped, Whole.state_denied] | split | with_reducible refine (foldl_plansOf _ ?_ _ _).trans ?_

@[simp] theorem State.gatherBytes_plansOf (s : State) (x1 : _) (x2 : _) (x3 : _) : (State.gatherBytes s x1 x2 x3).2.plansOf = s.plansOf := by
  unfold State.gatherBytes
  repeat' first | with_reducible rfl | with_reducible assumption | intro _ | simp only [State.bump_plansOf, plansOf_mk, plansOf_eta, Iter.state_done, Iter.state_fmt, Iter.state_trap, Whole.state_ran, Whole.state_stopped, Whole.state_denied] | split | with_reducible refine (foldl_plansOf _ ?_ _ _).trans ?_

@[simp] theorem State.spaceWrite_plansOf (s : State) (x1 : _) (x2 : _) (x3 : _) : (State.spaceWrite s x1 x2 x3).plansOf = s.plansOf := by
  unfold State.spaceWrite
  repeat' first | with_reducible rfl | with_reducible assumption | intro _ | simp only [State.stateWrite_plansOf, plansOf_mk, plansOf_eta, Iter.state_done, Iter.state_fmt, Iter.state_trap, Whole.state_ran, Whole.state_stopped, Whole.state_denied] | split | with_reducible refine (foldl_plansOf _ ?_ _ _).trans ?_

@[simp] theorem State.putCode_plansOf (s : State) (x1 : _) (x2 : _) : (State.putCode s x1 x2).plansOf = s.plansOf := by
  unfold State.putCode
  repeat' first | with_reducible rfl | with_reducible assumption | intro _ | simp only [State.spaceWrite_plansOf, plansOf_mk, plansOf_eta, Iter.state_done, Iter.state_fmt, Iter.state_trap, Whole.state_ran, Whole.state_stopped, Whole.state_denied] | split | with_reducible refine (foldl_plansOf _ ?_ _ _).trans ?_

theorem State.putAt_plansOf {s t : State} {d : Descr} {ix : List Nat} {c : Nat} (h : s.putAt d ix c = some t) : t.plansOf = s.plansOf := by
  unfold State.putAt at h
  obtain ⟨p, _, rfl⟩ := Option.map_eq_some_iff.mp h
  exact State.putCode_plansOf s p c

theorem State.putAt_getD_plansOf (s : State) (d : Descr) (ix : List Nat) (c : Nat) : ((s.putAt d ix c).getD s).plansOf = s.plansOf := by
  cases h : s.putAt d ix c with
  | none => rfl
  | some t => exact State.putAt_plansOf h

@[simp] theorem State.putWalk_plansOf (s : State) (d : Descr) (n : Nat) (l : List Nat) : (s.putWalk d n l).plansOf = s.plansOf := by
  unfold State.putWalk
  refine foldl_plansOf _ ?_ _ _
  intro t a
  rw [State.putAt_getD_plansOf]

@[simp] theorem State.putCodes_plansOf (s : State) (d : Descr) (l : List (List Nat)) (cs : List Nat) : (s.putCodes d l cs).1.plansOf = s.plansOf := by
  induction cs generalizing s l with
  | nil => simp only [State.putCodes]
  | cons c cs ih =>
    cases l with
    | nil => simp only [State.putCodes]
    | cons ix t =>
      rw [State.putCodes]
      split
      · rename_i u hu
        rw [ih, State.putAt_plansOf hu]
      · rfl

@[simp] theorem State.takeInbox_plansOf (s : State) (x1 : _) (x2 : _) : (State.takeInbox s x1 x2).plansOf = s.plansOf := by
  unfold State.takeInbox
  repeat' first | with_reducible rfl | with_reducible assumption | intro _ | simp only [plansOf_mk, plansOf_eta, Iter.state_done, Iter.state_fmt, Iter.state_trap, Whole.state_ran, Whole.state_stopped, Whole.state_denied] | split | with_reducible refine (foldl_plansOf _ ?_ _ _).trans ?_

@[simp] theorem State.takeCtrl_plansOf (s : State) (x1 : _) (x2 : _) : (State.takeCtrl s x1 x2).plansOf = s.plansOf := by
  unfold State.takeCtrl
  repeat' first | with_reducible rfl | with_reducible assumption | intro _ | simp only [plansOf_mk, plansOf_eta, Iter.state_done, Iter.state_fmt, Iter.state_trap, Whole.state_ran, Whole.state_stopped, Whole.state_denied] | split | with_reducible refine (foldl_plansOf _ ?_ _ _).trans ?_

@[simp] theorem State.sendDown_plansOf (s : State) (x1 : _) (x2 : _) (x3 : _) (x4 : _) (x5 : _) (x6 : _) : (State.sendDown s x1 x2 x3 x4 x5 x6).plansOf = s.plansOf := by
  unfold State.sendDown
  repeat' first | with_reducible rfl | with_reducible assumption | intro _ | simp only [State.sendMsg_plansOf, plansOf_mk, plansOf_eta, Iter.state_done, Iter.state_fmt, Iter.state_trap, Whole.state_ran, Whole.state_stopped, Whole.state_denied] | split | with_reducible refine (foldl_plansOf _ ?_ _ _).trans ?_ | with_reducible refine (foldlB_plansOf _ ?_ _ _).trans ?_ | with_reducible refine (foldl1_plansOf _ ?_ _ _).trans ?_ | with_reducible refine (foldl2_plansOf _ ?_ _ _).trans ?_

@[simp] theorem State.modNorm_plansOf (s : State) (x1 : _) (x2 : _) (x3 : _) : (State.modNorm s x1 x2 x3).plansOf = s.plansOf := by
  unfold State.modNorm
  repeat' first | with_reducible rfl | with_reducible assumption | intro _ | simp only [plansOf_mk, plansOf_eta, Iter.state_done, Iter.state_fmt, Iter.state_trap, Whole.state_ran, Whole.state_stopped, Whole.state_denied] | split | with_reducible refine (foldl_plansOf _ ?_ _ _).trans ?_

@[simp] theorem State.normKnown_plansOf (s : State) (x1 : _) (x2 : _) (x3 : _) : (State.normKnown s x1 x2 x3).plansOf = s.plansOf := by
  unfold State.normKnown
  repeat' first | with_reducible rfl | with_reducible assumption | intro _ | simp only [State.bump_plansOf, State.modNorm_plansOf, State.raise_plansOf, plansOf_mk, plansOf_eta, Iter.state_done, Iter.state_fmt, Iter.state_trap, Whole.state_ran, Whole.state_stopped, Whole.state_denied] | split | with_reducible refine (foldl_plansOf _ ?_ _ _).trans ?_

@[simp] theorem State.normForward_plansOf (s : State) (x1 : _) (x2 : _) (x3 : _) : (State.normForward s x1 x2 x3).plansOf = s.plansOf := by
  unfold State.normForward
  repeat' first | with_reducible rfl | with_reducible assumption | intro _ | simp only [State.sendCtrl_plansOf, plansOf_mk, plansOf_eta, Iter.state_done, Iter.state_fmt, Iter.state_trap, Whole.state_ran, Whole.state_stopped, Whole.state_denied] | split | with_reducible refine (foldl_plansOf _ ?_ _ _).trans ?_

@[simp] theorem State.endOn_plansOf (s : State) (x1 : _) (x2 : _) (x3 : _) (x4 : _) (x5 : _) : (State.endOn s x1 x2 x3 x4 x5).plansOf = s.plansOf := by
  unfold State.endOn
  repeat' first | with_reducible rfl | with_reducible assumption | intro _ | simp only [State.endDown_plansOf, plansOf_mk, plansOf_eta, Iter.state_done, Iter.state_fmt, Iter.state_trap, Whole.state_ran, Whole.state_stopped, Whole.state_denied] | split | with_reducible refine (foldl_plansOf _ ?_ _ _).trans ?_

@[simp] theorem State.sendParts_plansOf (s : State) (x1 : _) (x2 : _) (x3 : _) (x4 : _) (x5 : _) (x6 : _) : (State.sendParts s x1 x2 x3 x4 x5 x6).plansOf = s.plansOf := by
  unfold State.sendParts
  repeat' first | with_reducible rfl | with_reducible assumption | intro _ | simp only [State.sendMsg_plansOf, plansOf_mk, plansOf_eta, Iter.state_done, Iter.state_fmt, Iter.state_trap, Whole.state_ran, Whole.state_stopped, Whole.state_denied] | split | with_reducible refine (foldl_plansOf _ ?_ _ _).trans ?_ | with_reducible refine (foldlB_plansOf _ ?_ _ _).trans ?_ | with_reducible refine (foldl1_plansOf _ ?_ _ _).trans ?_ | with_reducible refine (foldl2_plansOf _ ?_ _ _).trans ?_

@[simp] theorem State.launchReply_plansOf (s : State) (x1 : _) (x2 : _) (x3 : _) (x4 : _) (x5 : _) (x6 : _) : (State.launchReply s x1 x2 x3 x4 x5 x6).plansOf = s.plansOf := by
  unfold State.launchReply
  repeat' first | with_reducible rfl | with_reducible assumption | intro _ | simp only [State.sendCtrl_plansOf, plansOf_mk, plansOf_eta, Iter.state_done, Iter.state_fmt, Iter.state_trap, Whole.state_ran, Whole.state_stopped, Whole.state_denied] | split | with_reducible refine (foldl_plansOf _ ?_ _ _).trans ?_

@[simp] theorem State.meetUpsets_plansOf (s : State) (x1 : _) : (State.meetUpsets s x1).plansOf = s.plansOf := by
  unfold State.meetUpsets
  repeat' first | with_reducible rfl | with_reducible assumption | intro _ | simp only [State.upset_plansOf, plansOf_mk, plansOf_eta, Iter.state_done, Iter.state_fmt, Iter.state_trap, Whole.state_ran, Whole.state_stopped, Whole.state_denied] | split | with_reducible refine (foldl_plansOf _ ?_ _ _).trans ?_ | with_reducible refine (foldlB_plansOf _ ?_ _ _).trans ?_ | with_reducible refine (foldl1_plansOf _ ?_ _ _).trans ?_ | with_reducible refine (foldl2_plansOf _ ?_ _ _).trans ?_

theorem execNormResult_plansOf {s t : State} {x0 : BitVec 20} {x1 : BitVec 32} {x2 : Nat} (h : execNormResult x0 x1 x2 s = .next t) : t.plansOf = s.plansOf := by
  simp only [execNormResult, Host.Outcome.next.injEq] at h
  subst h
  repeat' first | with_reducible rfl | with_reducible assumption | intro _ | simp only [State.normKnown_plansOf, State.takeCtrl_plansOf, plansOf_mk, plansOf_eta, Iter.state_done, Iter.state_fmt, Iter.state_trap, Whole.state_ran, Whole.state_stopped, Whole.state_denied] | split | with_reducible refine (foldl_plansOf _ ?_ _ _).trans ?_

theorem execDigestSend_plansOf {s t : State} {x0 : Nat} (h : execDigestSend x0 s = .next t) : t.plansOf = s.plansOf := by
  simp only [execDigestSend, Host.Outcome.next.injEq] at h
  subst h
  repeat' first | with_reducible rfl | with_reducible assumption | intro _ | simp only [State.exchange_plansOf, State.sendCtrl_plansOf, plansOf_mk, plansOf_eta, Iter.state_done, Iter.state_fmt, Iter.state_trap, Whole.state_ran, Whole.state_stopped, Whole.state_denied] | split | with_reducible refine (foldl_plansOf _ ?_ _ _).trans ?_

@[simp] theorem State.keptNotice_plansOf (s : State) : (State.keptNotice s).plansOf = s.plansOf := by
  unfold State.keptNotice
  repeat' first | with_reducible rfl | with_reducible assumption | intro _ | simp only [State.commit_plansOf, plansOf_mk, plansOf_eta, Iter.state_done, Iter.state_fmt, Iter.state_trap, Whole.state_ran, Whole.state_stopped, Whole.state_denied] | split | with_reducible refine (foldl_plansOf _ ?_ _ _).trans ?_

@[simp] theorem State.resilverFails_plansOf (s : State) : (State.resilverFails s).plansOf = s.plansOf := by
  unfold State.resilverFails
  repeat' first | with_reducible rfl | with_reducible assumption | intro _ | simp only [State.raise_plansOf, plansOf_mk, plansOf_eta, Iter.state_done, Iter.state_fmt, Iter.state_trap, Whole.state_ran, Whole.state_stopped, Whole.state_denied] | split | with_reducible refine (foldl_plansOf _ ?_ _ _).trans ?_

@[simp] theorem State.resilverNotice_plansOf (s : State) (x1 : _) (x2 : _) (x3 : _) : (State.resilverNotice s x1 x2 x3).plansOf = s.plansOf := by
  unfold State.resilverNotice
  repeat' first | with_reducible rfl | with_reducible assumption | intro _ | simp only [State.raise_plansOf, State.resilverFails_plansOf, State.sendCtrl_plansOf, plansOf_mk, plansOf_eta, Iter.state_done, Iter.state_fmt, Iter.state_trap, Whole.state_ran, Whole.state_stopped, Whole.state_denied] | split | with_reducible refine (foldl_plansOf _ ?_ _ _).trans ?_

theorem execCommitNotice_plansOf {s t : State} {x0 : Nat} {x1 : List Sys2Proof.Byte} (h : execCommitNotice x0 x1 s = .next t) : t.plansOf = s.plansOf := by
  simp only [execCommitNotice, Host.Outcome.next.injEq] at h
  subst h
  repeat' first | with_reducible rfl | with_reducible assumption | intro _ | simp only [State.commit_plansOf, State.resilverNotice_plansOf, State.takeCtrl_plansOf, plansOf_mk, plansOf_eta, Iter.state_done, Iter.state_fmt, Iter.state_trap, Whole.state_ran, Whole.state_stopped, Whole.state_denied] | split | with_reducible refine (foldl_plansOf _ ?_ _ _).trans ?_

theorem execCommitOnReady_plansOf {s t : State} (h : execCommitOnReady s = .next t) : t.plansOf = s.plansOf := by
  simp only [execCommitOnReady, Host.Outcome.next.injEq] at h
  subst h
  repeat' first | with_reducible rfl | with_reducible assumption | intro _ | simp only [State.keptNotice_plansOf, plansOf_mk, plansOf_eta, Iter.state_done, Iter.state_fmt, Iter.state_trap, Whole.state_ran, Whole.state_stopped, Whole.state_denied] | split | with_reducible refine (foldl_plansOf _ ?_ _ _).trans ?_

@[simp] theorem Body.land_plansOf (b : Body) (x1 : _) : (Body.land b x1).s.plansOf = b.s.plansOf := by
  unfold Body.land
  repeat' first | with_reducible rfl | with_reducible assumption | intro _ | simp only [plansOf_mk, plansOf_eta, Iter.state_done, Iter.state_fmt, Iter.state_trap, Whole.state_ran, Whole.state_stopped, Whole.state_denied] | split | with_reducible refine (foldl_plansOf _ ?_ _ _).trans ?_ | with_reducible refine (foldlB_plansOf _ ?_ _ _).trans ?_ | with_reducible refine (foldl1_plansOf _ ?_ _ _).trans ?_ | with_reducible refine (foldl2_plansOf _ ?_ _ _).trans ?_

@[simp] theorem Body.sources_plansOf (b : Body) (x1 : _) (x2 : _) (x3 : _) (x4 : _) : (Body.sources b x1 x2 x3 x4).s.plansOf = b.s.plansOf := by
  unfold Body.sources
  repeat' first | with_reducible rfl | with_reducible assumption | intro _ | simp only [plansOf_mk, plansOf_eta, Iter.state_done, Iter.state_fmt, Iter.state_trap, Whole.state_ran, Whole.state_stopped, Whole.state_denied] | split | with_reducible refine (foldl_plansOf _ ?_ _ _).trans ?_

@[simp] theorem Body.load_plansOf (b : Body) (x1 : _) (x2 : _) : (Body.load b x1 x2).1.s.plansOf = b.s.plansOf := by
  unfold Body.load
  repeat' first | with_reducible rfl | with_reducible assumption | intro _ | simp only [plansOf_mk, plansOf_eta, Iter.state_done, Iter.state_fmt, Iter.state_trap, Whole.state_ran, Whole.state_stopped, Whole.state_denied] | split | with_reducible refine (foldl_plansOf _ ?_ _ _).trans ?_

@[simp] theorem Body.stored_plansOf (b : Body) (x1 : _) (x2 : _) (x3 : _) : (Body.stored b x1 x2 x3).s.plansOf = b.s.plansOf := by
  unfold Body.stored
  repeat' first | with_reducible rfl | with_reducible assumption | intro _ | simp only [State.putCode_plansOf, plansOf_mk, plansOf_eta, Iter.state_done, Iter.state_fmt, Iter.state_trap, Whole.state_ran, Whole.state_stopped, Whole.state_denied] | split | with_reducible refine (foldl_plansOf _ ?_ _ _).trans ?_ | with_reducible refine (foldlB_plansOf _ ?_ _ _).trans ?_ | with_reducible refine (foldl1_plansOf _ ?_ _ _).trans ?_ | with_reducible refine (foldl2_plansOf _ ?_ _ _).trans ?_

@[simp] theorem Body.slotA_plansOf (b : Body) (x1 : _) (x2 : _) (x3 : _) (x4 : _) : (Body.slotA b x1 x2 x3 x4).1.s.plansOf = b.s.plansOf := by
  unfold Body.slotA
  repeat' first | with_reducible rfl | with_reducible assumption | intro _ | simp only [Body.sources_plansOf, plansOf_mk, plansOf_eta, Iter.state_done, Iter.state_fmt, Iter.state_trap, Whole.state_ran, Whole.state_stopped, Whole.state_denied] | split | with_reducible refine (foldl_plansOf _ ?_ _ _).trans ?_

@[simp] theorem Body.slotM_plansOf (b : Body) (x1 : _) (x2 : _) (x3 : _) (x4 : _) : (Body.slotM b x1 x2 x3 x4).1.s.plansOf = b.s.plansOf := by
  unfold Body.slotM
  repeat' first | with_reducible rfl | with_reducible assumption | intro _ | simp only [Body.load_plansOf, Body.sources_plansOf, Body.stored_plansOf, plansOf_mk, plansOf_eta, Iter.state_done, Iter.state_fmt, Iter.state_trap, Whole.state_ran, Whole.state_stopped, Whole.state_denied] | split | with_reducible refine (foldl_plansOf _ ?_ _ _).trans ?_

@[simp] theorem Body.bundle_plansOf (b : Body) (x1 : _) (x2 : _) (x3 : _) : (Body.bundle b x1 x2 x3).s.plansOf = b.s.plansOf := by
  unfold Body.bundle
  repeat' first | with_reducible rfl | with_reducible assumption | intro _ | simp only [Body.land_plansOf, Body.slotA_plansOf, Body.slotM_plansOf, plansOf_mk, plansOf_eta, Iter.state_done, Iter.state_fmt, Iter.state_trap, Whole.state_ran, Whole.state_stopped, Whole.state_denied] | split | with_reducible refine (foldl_plansOf _ ?_ _ _).trans ?_

@[simp] theorem runBody_plansOf (s : State) (x0 : _) (x1 : _) (x3 : _) (x4 : _) : (runBody x0 x1 s x3 x4).s.plansOf = s.plansOf := by
  unfold runBody
  repeat' first | with_reducible rfl | with_reducible assumption | intro _ | simp only [Body.bundle_plansOf, plansOf_mk, plansOf_eta, Iter.state_done, Iter.state_fmt, Iter.state_trap, Whole.state_ran, Whole.state_stopped, Whole.state_denied] | split | with_reducible refine (foldl_plansOf _ ?_ _ _).trans ?_ | with_reducible refine (foldlB_plansOf _ ?_ _ _).trans ?_ | with_reducible refine (foldl1_plansOf _ ?_ _ _).trans ?_ | with_reducible refine (foldl2_plansOf _ ?_ _ _).trans ?_

@[simp] theorem State.kernelIter_plansOf (s : State) (h : BitVec 20) (o : Op) (r : OpRun) : (s.kernelIter h o r).state.plansOf = s.plansOf := by
  unfold State.kernelIter
  split
  · rfl
  · extract_lets n x fresh regs fly b0 b e last nb left t
    have hb : b.s.plansOf = s.plansOf := by
      unfold b b0
      split <;> simp only [runBody_plansOf]
    have ht : t.plansOf = s.plansOf := by simp only [t, State.bump_plansOf, hb]
    clear_value t
    split
    · simp only [Iter.state_trap, State.raise_plansOf]
      split
      · exact ht
      · simp only [State.wr_plansOf, ht]
    · split <;> exact ht

@[simp] theorem State.convertScaled_plansOf (s : State) (x1 : _) (x2 : _) (x3 : _) (x4 : _) (x5 : _) (x6 : _) (x7 : _) : (State.convertScaled s x1 x2 x3 x4 x5 x6 x7).state.plansOf = s.plansOf := by
  unfold State.convertScaled
  repeat' first | with_reducible rfl | with_reducible assumption | intro _ | simp only [State.bump_plansOf, State.putCode_plansOf, plansOf_mk, plansOf_eta, Iter.state_done, Iter.state_fmt, Iter.state_trap, Whole.state_ran, Whole.state_stopped, Whole.state_denied] | split | with_reducible refine (foldl_plansOf _ ?_ _ _).trans ?_

@[simp] theorem State.convertIter_plansOf (s : State) (x1 : _) (x2 : _) (x3 : _) : (State.convertIter s x1 x2 x3).state.plansOf = s.plansOf := by
  unfold State.convertIter
  repeat' first | with_reducible rfl | with_reducible assumption | intro _ | simp only [State.bump_plansOf, State.convertScaled_plansOf, State.putCode_plansOf, plansOf_mk, plansOf_eta, Iter.state_done, Iter.state_fmt, Iter.state_trap, Whole.state_ran, Whole.state_stopped, Whole.state_denied] | split | with_reducible refine (foldl_plansOf _ ?_ _ _).trans ?_

theorem State.mxProduct_plansOf {s t : State} {x : Product} (h : s.mxProduct x = some t) : t.plansOf = s.plansOf := by
  simp only [State.mxProduct] at h
  split at h
  · cases h
    simp only [State.bump_plansOf]
    refine foldl_plansOf _ ?_ _ _
    intro t e
    rw [State.putCode_plansOf]
  · cases h

@[simp] theorem State.mxStop_plansOf (s : State) : (State.mxStop s).state.plansOf = s.plansOf := by
  unfold State.mxStop
  repeat' first | with_reducible rfl | with_reducible assumption | intro _ | simp only [State.bump_plansOf, plansOf_mk, plansOf_eta, Iter.state_done, Iter.state_fmt, Iter.state_trap, Whole.state_ran, Whole.state_stopped, Whole.state_denied] | split | with_reducible refine (foldl_plansOf _ ?_ _ _).trans ?_

@[simp] theorem State.mmulIter_plansOf (s : State) (x1 : _) (x2 : _) : (State.mmulIter s x1 x2).state.plansOf = s.plansOf := by
  unfold State.mmulIter
  repeat' first | with_reducible rfl | with_reducible assumption | intro _ | simp only [State.mxStop_plansOf, plansOf_mk, plansOf_eta, Iter.state_done, Iter.state_fmt, Iter.state_trap, Whole.state_ran, Whole.state_stopped, Whole.state_denied] | with_reducible refine (State.mxProduct_plansOf (by assumption)).trans ?_ | split | with_reducible refine (foldl_plansOf _ ?_ _ _).trans ?_

theorem State.mxEntry_plansOf {s t : State} {o : Op} {i : Nat} {e : GEntry} {d1 : Option Descr} {fa : Nat} {b : Nat → Nat → Option Val}
    {d2 d0 : Descr} (h : s.mxEntry o i e d1 fa b d2 d0 = some t) : t.plansOf = s.plansOf := by
  simp only [State.mxEntry] at h
  split at h
  · cases h; simp only [State.bump_plansOf]
  · split at h
    · cases h
    · exact State.mxProduct_plansOf h

@[simp] theorem walkTable_plansOf (o : Op) (i : Nat) (d1 : Option Descr) (fa : Nat) (b : Nat → Nat → Option Val) (d2 d0 : Descr)
    (en : State → Nat → Option GEntry) (n g : Nat) (s : State) : (State.walkTable o i d1 fa b d2 d0 en n g s).1.plansOf = s.plansOf := by
  induction n generalizing g s with
  | zero => rfl
  | succ n ih =>
    rw [State.walkTable]
    split
    · rename_i t ht
      obtain ⟨e, _, h⟩ := Option.bind_eq_some_iff.mp ht
      rw [ih, State.mxEntry_plansOf h]
    · rfl

@[simp] theorem State.mgroupIter_plansOf (s : State) (h : BitVec 20) (o : Op) (r : OpRun) : (s.mgroupIter h o r).state.plansOf = s.plansOf := by
  unfold State.mgroupIter
  repeat' first | with_reducible rfl | intro _ | simp only [walkTable_plansOf, State.mxStop_plansOf, State.raise_plansOf, Iter.state_done, Iter.state_trap] | split

@[simp] theorem State.writeOut_plansOf (s : State) (x1 : _) (x2 : _) (x3 : _) : ((State.writeOut s x1 x2 x3).state s).plansOf = s.plansOf := by
  unfold State.writeOut
  repeat' first | with_reducible rfl | with_reducible assumption | intro _ | simp only [State.putCodes_plansOf, plansOf_mk, plansOf_eta, Iter.state_done, Iter.state_fmt, Iter.state_trap, Whole.state_ran, Whole.state_stopped, Whole.state_denied] | split | with_reducible refine (foldl_plansOf _ ?_ _ _).trans ?_

theorem State.reading_plansOf {s : State} {d : Descr} {l : List (List Nat)} {f : List Nat → Whole}
    (h : ∀ cs, ((f cs).state s).plansOf = s.plansOf) : ((s.reading d l f).state s).plansOf = s.plansOf := by
  unfold State.reading
  split
  · exact h _
  · rfl

theorem Whole.andThen_plansOf {s : State} {w : Whole} {f : State → Whole} (hw : (w.state s).plansOf = s.plansOf)
    (h : ∀ t, ((f t).state t).plansOf = t.plansOf) : ((w.andThen f).state s).plansOf = s.plansOf := by
  cases w with
  | ran t =>
    refine Eq.trans ?_ hw
    have e := h t
    show ((f t).state s).plansOf = t.plansOf
    cases hf : f t with
    | denied => exact hw.symm
    | ran u => rw [hf] at e; exact e
    | stopped u => rw [hf] at e; exact e
  | stopped t => exact hw
  | denied => rfl

theorem Whole.goodIf_plansOf {s : State} {w : Whole} {b : Bool} (hw : (w.state s).plansOf = s.plansOf) : ((w.goodIf b).state s).plansOf = s.plansOf := by
  rw [Whole.goodIf_state, hw]

@[simp] theorem State.sortOp_plansOf (s : State) (x1 : _) (x2 : _) (x3 : _) (x4 : _) (x5 : _) : ((State.sortOp s x1 x2 x3 x4 x5).state s).plansOf = s.plansOf := by
  unfold State.sortOp
  repeat' first | with_reducible rfl | with_reducible assumption | intro _ | simp only [State.writeOut_plansOf, plansOf_mk, plansOf_eta, Iter.state_done, Iter.state_fmt, Iter.state_trap, Whole.state_ran, Whole.state_stopped, Whole.state_denied] | split | with_reducible refine (foldl_plansOf _ ?_ _ _).trans ?_ | with_reducible refine Whole.andThen_plansOf ?_ fun _ => ?_ | with_reducible refine State.reading_plansOf fun _ => ?_

@[simp] theorem State.topkOp_plansOf (s : State) (x1 : _) (x2 : _) (x3 : _) (x4 : _) (x5 : _) : ((State.topkOp s x1 x2 x3 x4 x5).state s).plansOf = s.plansOf := by
  unfold State.topkOp
  repeat' first | with_reducible rfl | with_reducible assumption | intro _ | simp only [State.writeOut_plansOf, plansOf_mk, plansOf_eta, Iter.state_done, Iter.state_fmt, Iter.state_trap, Whole.state_ran, Whole.state_stopped, Whole.state_denied] | split | with_reducible refine (foldl_plansOf _ ?_ _ _).trans ?_ | with_reducible refine Whole.andThen_plansOf ?_ fun _ => ?_ | with_reducible refine State.reading_plansOf fun _ => ?_

@[simp] theorem State.filterOp_plansOf (s : State) (x1 : _) (x2 : _) (x3 : _) (x4 : _) (x5 : _) : ((State.filterOp s x1 x2 x3 x4 x5).state s).plansOf = s.plansOf := by
  unfold State.filterOp
  repeat' first | with_reducible rfl | with_reducible assumption | intro _ | simp only [State.writeOut_plansOf, plansOf_mk, plansOf_eta, Iter.state_done, Iter.state_fmt, Iter.state_trap, Whole.state_ran, Whole.state_stopped, Whole.state_denied] | split | with_reducible refine (foldl_plansOf _ ?_ _ _).trans ?_ | with_reducible refine Whole.andThen_plansOf ?_ fun _ => ?_ | with_reducible refine State.reading_plansOf fun _ => ?_

@[simp] theorem State.compactOp_plansOf (s : State) (x1 : _) (x2 : _) (x3 : _) (x4 : _) (x5 : _) : ((State.compactOp s x1 x2 x3 x4 x5).state s).plansOf = s.plansOf := by
  unfold State.compactOp
  repeat' first | with_reducible rfl | with_reducible assumption | intro _ | simp only [State.writeOut_plansOf, plansOf_mk, plansOf_eta, Iter.state_done, Iter.state_fmt, Iter.state_trap, Whole.state_ran, Whole.state_stopped, Whole.state_denied] | split | with_reducible refine (foldl_plansOf _ ?_ _ _).trans ?_ | with_reducible refine Whole.goodIf_plansOf ?_ | with_reducible refine State.reading_plansOf fun _ => ?_

@[simp] theorem State.scanOp_plansOf (s : State) (x1 : _) (x2 : _) (x3 : _) (x4 : _) : ((State.scanOp s x1 x2 x3 x4).state s).plansOf = s.plansOf := by
  unfold State.scanOp
  repeat' first | with_reducible rfl | with_reducible assumption | intro _ | simp only [State.bump_plansOf, State.writeOut_plansOf, plansOf_mk, plansOf_eta, Iter.state_done, Iter.state_fmt, Iter.state_trap, Whole.state_ran, Whole.state_stopped, Whole.state_denied] | split | with_reducible refine (foldl_plansOf _ ?_ _ _).trans ?_ | with_reducible refine Whole.andThen_plansOf ?_ fun _ => ?_ | with_reducible refine State.reading_plansOf fun _ => ?_

@[simp] theorem State.histOp_plansOf (s : State) (x1 : _) (x2 : _) (x3 : _) (x4 : _) : ((State.histOp s x1 x2 x3 x4).state s).plansOf = s.plansOf := by
  unfold State.histOp
  repeat' first | with_reducible rfl | with_reducible assumption | intro _ | simp only [State.writeOut_plansOf, plansOf_mk, plansOf_eta, Iter.state_done, Iter.state_fmt, Iter.state_trap, Whole.state_ran, Whole.state_stopped, Whole.state_denied] | split | with_reducible refine (foldl_plansOf _ ?_ _ _).trans ?_ | with_reducible refine State.reading_plansOf fun _ => ?_

@[simp] theorem State.rlzEncOp_plansOf (s : State) (x1 : _) (x2 : _) (x3 : _) (x4 : _) : ((State.rlzEncOp s x1 x2 x3 x4).state s).plansOf = s.plansOf := by
  unfold State.rlzEncOp
  repeat' first | with_reducible rfl | with_reducible assumption | intro _ | simp only [State.writeOut_plansOf, plansOf_mk, plansOf_eta, Iter.state_done, Iter.state_fmt, Iter.state_trap, Whole.state_ran, Whole.state_stopped, Whole.state_denied] | split | with_reducible refine (foldl_plansOf _ ?_ _ _).trans ?_ | with_reducible refine State.reading_plansOf fun _ => ?_

@[simp] theorem State.rlzDecOp_plansOf (s : State) (x1 : _) (x2 : _) (x3 : _) (x4 : _) : ((State.rlzDecOp s x1 x2 x3 x4).state s).plansOf = s.plansOf := by
  unfold State.rlzDecOp
  repeat' first | with_reducible rfl | with_reducible assumption | intro _ | simp only [State.writeOut_plansOf, plansOf_mk, plansOf_eta, Iter.state_done, Iter.state_fmt, Iter.state_trap, Whole.state_ran, Whole.state_stopped, Whole.state_denied] | split | with_reducible refine (foldl_plansOf _ ?_ _ _).trans ?_ | with_reducible refine Whole.goodIf_plansOf ?_ | with_reducible refine State.reading_plansOf fun _ => ?_

@[simp] theorem State.pack28Op_plansOf (s : State) (x1 : _) (x2 : _) (x3 : _) (x4 : _) (x5 : _) : ((State.pack28Op s x1 x2 x3 x4 x5).state s).plansOf = s.plansOf := by
  unfold State.pack28Op
  repeat' first | with_reducible rfl | with_reducible assumption | intro _ | simp only [State.writeOut_plansOf, plansOf_mk, plansOf_eta, Iter.state_done, Iter.state_fmt, Iter.state_trap, Whole.state_ran, Whole.state_stopped, Whole.state_denied] | split | with_reducible refine (foldl_plansOf _ ?_ _ _).trans ?_ | with_reducible refine Whole.andThen_plansOf ?_ fun _ => ?_ | with_reducible refine Whole.goodIf_plansOf ?_ | with_reducible refine State.reading_plansOf fun _ => ?_

@[simp] theorem State.sieveOp_plansOf (s : State) (x1 : _) (x2 : _) : ((State.sieveOp s x1 x2).state s).plansOf = s.plansOf := by
  unfold State.sieveOp
  repeat' first | with_reducible rfl | with_reducible assumption | intro _ | simp only [State.compactOp_plansOf, State.filterOp_plansOf, State.histOp_plansOf, State.pack28Op_plansOf, State.rlzDecOp_plansOf, State.rlzEncOp_plansOf, State.scanOp_plansOf, State.sortOp_plansOf, State.topkOp_plansOf, plansOf_mk, plansOf_eta, Iter.state_done, Iter.state_fmt, Iter.state_trap, Whole.state_ran, Whole.state_stopped, Whole.state_denied] | split | with_reducible refine (foldl_plansOf _ ?_ _ _).trans ?_

@[simp] theorem State.sieveIter_plansOf (s : State) (o : Op) (r : OpRun) : (s.sieveIter o r).state.plansOf = s.plansOf := by
  have h := State.sieveOp_plansOf s o r.iter
  unfold State.sieveIter
  split
  · rename_i t ht; rw [ht] at h; exact h
  · rename_i t ht; rw [ht] at h; simp only [Iter.state_fmt, State.bump_plansOf]; exact h
  · rfl

@[simp] theorem State.foldIter_plansOf (s : State) (x1 : _) (x2 : _) : (State.foldIter s x1 x2).state.plansOf = s.plansOf := by
  unfold State.foldIter
  repeat' first | with_reducible rfl | with_reducible assumption | intro _ | simp only [State.bump_plansOf, State.putCode_plansOf, plansOf_mk, plansOf_eta, Iter.state_done, Iter.state_fmt, Iter.state_trap, Whole.state_ran, Whole.state_stopped, Whole.state_denied] | split | with_reducible refine (foldl_plansOf _ ?_ _ _).trans ?_

@[simp] theorem State.blkexpIter_plansOf (s : State) (x1 : _) (x2 : _) : (State.blkexpIter s x1 x2).state.plansOf = s.plansOf := by
  unfold State.blkexpIter
  repeat' first | with_reducible rfl | with_reducible assumption | intro _ | simp only [State.putCode_plansOf, plansOf_mk, plansOf_eta, Iter.state_done, Iter.state_fmt, Iter.state_trap, Whole.state_ran, Whole.state_stopped, Whole.state_denied] | split | with_reducible refine (foldl_plansOf _ ?_ _ _).trans ?_

@[simp] theorem State.sendWrite_plansOf (s : State) (x1 : _) (x2 : _) (x3 : _) (x4 : _) (x5 : _) : (State.sendWrite s x1 x2 x3 x4 x5).plansOf = s.plansOf := by
  unfold State.sendWrite
  repeat' first | with_reducible rfl | with_reducible assumption | intro _ | simp only [State.sendMessage_plansOf, plansOf_mk, plansOf_eta, Iter.state_done, Iter.state_fmt, Iter.state_trap, Whole.state_ran, Whole.state_stopped, Whole.state_denied] | split | with_reducible refine (foldl_plansOf _ ?_ _ _).trans ?_

@[simp] theorem State.copyIter_plansOf (s : State) (x1 : _) (x2 : _) (x3 : _) : (State.copyIter s x1 x2 x3).state.plansOf = s.plansOf := by
  unfold State.copyIter
  repeat' first | with_reducible rfl | with_reducible assumption | intro _ | simp only [State.putCode_plansOf, State.sendWrite_plansOf, plansOf_mk, plansOf_eta, Iter.state_done, Iter.state_fmt, Iter.state_trap, Whole.state_ran, Whole.state_stopped, Whole.state_denied] | split | with_reducible refine (foldl_plansOf _ ?_ _ _).trans ?_

@[simp] theorem State.fillIter_plansOf (s : State) (x1 : _) (x2 : _) : (State.fillIter s x1 x2).state.plansOf = s.plansOf := by
  unfold State.fillIter
  repeat' first | with_reducible rfl | with_reducible assumption | intro _ | simp only [State.putCode_plansOf, plansOf_mk, plansOf_eta, Iter.state_done, Iter.state_fmt, Iter.state_trap, Whole.state_ran, Whole.state_stopped, Whole.state_denied] | split | with_reducible refine (foldl_plansOf _ ?_ _ _).trans ?_

@[simp] theorem State.unsound_plansOf (s : State) (x1 : _) : (State.unsound s x1).state.plansOf = s.plansOf := by
  unfold State.unsound
  repeat' first | with_reducible rfl | with_reducible assumption | intro _ | simp only [State.mxStop_plansOf, plansOf_mk, plansOf_eta, Iter.state_done, Iter.state_fmt, Iter.state_trap, Whole.state_ran, Whole.state_stopped, Whole.state_denied] | split | with_reducible refine (foldl_plansOf _ ?_ _ _).trans ?_

@[simp] theorem State.skipIter_plansOf (s : State) (x1 : _) (x2 : _) (x3 : _) : (State.skipIter s x1 x2 x3).state.plansOf = s.plansOf := by
  unfold State.skipIter
  repeat' first | with_reducible rfl | with_reducible assumption | intro _ | simp only [State.sendWrite_plansOf, plansOf_mk, plansOf_eta, Iter.state_done, Iter.state_fmt, Iter.state_trap, Whole.state_ran, Whole.state_stopped, Whole.state_denied] | split | with_reducible refine (foldl_plansOf _ ?_ _ _).trans ?_

@[simp] theorem State.withBank_plansOf (s : State) (x1 : _) : (State.withBank s x1).plansOf = s.plansOf := by
  unfold State.withBank
  repeat' first | with_reducible rfl | with_reducible assumption | intro _ | simp only [plansOf_mk, plansOf_eta, Iter.state_done, Iter.state_fmt, Iter.state_trap, Whole.state_ran, Whole.state_stopped, Whole.state_denied] | split | with_reducible refine (foldl_plansOf _ ?_ _ _).trans ?_

@[simp] theorem Iter.restore_plansOf (b : Bool) (i : Iter) : (i.restore b).state.plansOf = i.state.plansOf := by
  cases i <;> rfl

@[simp] theorem State.busWrite_plansOf (s : State) (x1 : _) (x2 : _) : (State.busWrite s x1 x2).plansOf = s.plansOf := by
  unfold State.busWrite
  repeat' first | with_reducible rfl | with_reducible assumption | intro _ | simp only [State.emit_plansOf, plansOf_mk, plansOf_eta, Iter.state_done, Iter.state_fmt, Iter.state_trap, Whole.state_ran, Whole.state_stopped, Whole.state_denied] | split | with_reducible refine (foldl_plansOf _ ?_ _ _).trans ?_

@[simp] theorem State.setRing_plansOf (s : State) (x1 : _) (x2 : _) : (State.setRing s x1 x2).plansOf = s.plansOf := by
  unfold State.setRing
  repeat' first | with_reducible rfl | with_reducible assumption | intro _ | simp only [plansOf_mk, plansOf_eta, Iter.state_done, Iter.state_fmt, Iter.state_trap, Whole.state_ran, Whole.state_stopped, Whole.state_denied] | split | with_reducible refine (foldl_plansOf _ ?_ _ _).trans ?_

@[simp] theorem State.ringError_plansOf (s : State) (x1 : _) : (State.ringError s x1).plansOf = s.plansOf := by
  unfold State.ringError
  repeat' first | with_reducible rfl | with_reducible assumption | intro _ | simp only [State.raise_plansOf, State.setRing_plansOf, plansOf_mk, plansOf_eta, Iter.state_done, Iter.state_fmt, Iter.state_trap, Whole.state_ran, Whole.state_stopped, Whole.state_denied] | split | with_reducible refine (foldl_plansOf _ ?_ _ _).trans ?_

@[simp] theorem State.interrupt_plansOf (s : State) (x1 : _) : (State.interrupt s x1).plansOf = s.plansOf := by
  unfold State.interrupt
  repeat' first | with_reducible rfl | with_reducible assumption | intro _ | simp only [State.emit_plansOf, State.wr_plansOf, plansOf_mk, plansOf_eta, Iter.state_done, Iter.state_fmt, Iter.state_trap, Whole.state_ran, Whole.state_stopped, Whole.state_denied] | split | with_reducible refine (foldl_plansOf _ ?_ _ _).trans ?_

@[simp] theorem State.msiWrite_plansOf (s : State) (x1 : _) (x2 : _) : (State.msiWrite s x1 x2).plansOf = s.plansOf := by
  unfold State.msiWrite
  repeat' first | with_reducible rfl | with_reducible assumption | intro _ | simp only [State.interrupt_plansOf, State.wr_plansOf, plansOf_mk, plansOf_eta, Iter.state_done, Iter.state_fmt, Iter.state_trap, Whole.state_ran, Whole.state_stopped, Whole.state_denied] | split | with_reducible refine (foldl_plansOf _ ?_ _ _).trans ?_

@[simp] theorem State.writeHeld_plansOf (s : State) (x1 : _) : (State.writeHeld s x1).1.plansOf = s.plansOf := by
  unfold State.writeHeld
  repeat' first | with_reducible rfl | with_reducible assumption | intro _ | simp only [State.emit_plansOf, State.setRing_plansOf, plansOf_mk, plansOf_eta, Iter.state_done, Iter.state_fmt, Iter.state_trap, Whole.state_ran, Whole.state_stopped, Whole.state_denied] | split | with_reducible refine (foldl_plansOf _ ?_ _ _).trans ?_

@[simp] theorem flushAux_plansOf (cq n : Nat) (r : State × Bool) : (State.flushAux cq n r).1.plansOf = r.1.plansOf := by
  induction n generalizing r with
  | zero => rfl
  | succ n ih =>
    obtain ⟨s, any⟩ := r
    have e := State.writeHeld_plansOf s cq
    cases hw : s.writeHeld cq with
    | mk t did =>
      rw [hw] at e
      simp only [State.flushAux, hw]
      split
      · rw [ih]; exact e
      · rfl

@[simp] theorem State.flushCq_plansOf (s : State) (cq : Nat) : (s.flushCq cq).plansOf = s.plansOf := by
  simp only [State.flushCq]
  split <;> simp only [State.interrupt_plansOf, flushAux_plansOf]

@[simp] theorem State.trace_plansOf (s : State) (x1 : _) (x2 : _) (x3 : _) (x4 : _) : (State.trace s x1 x2 x3 x4).plansOf = s.plansOf := by
  unfold State.trace
  repeat' first | with_reducible rfl | with_reducible assumption | intro _ | simp only [State.bump_plansOf, State.draw_plansOf, State.emit_plansOf, plansOf_mk, plansOf_eta, Iter.state_done, Iter.state_fmt, Iter.state_trap, Whole.state_ran, Whole.state_stopped, Whole.state_denied] | split | with_reducible refine (foldl_plansOf _ ?_ _ _).trans ?_

@[simp] theorem State.complete_plansOf (s : State) (x1 : _) (x2 : _) (x3 : _) (x4 : _) (x5 : _) : (State.complete s x1 x2 x3 x4 x5).plansOf = s.plansOf := by
  unfold State.complete
  repeat' first | with_reducible rfl | with_reducible assumption | intro _ | simp only [State.flushCq_plansOf, State.setRing_plansOf, State.trace_plansOf, plansOf_mk, plansOf_eta, Iter.state_done, Iter.state_fmt, Iter.state_trap, Whole.state_ran, Whole.state_stopped, Whole.state_denied] | split | with_reducible refine (foldl_plansOf _ ?_ _ _).trans ?_

@[simp] theorem State.fail_plansOf (s : State) (x1 : _) (x2 : _) (x3 : _) : (State.fail s x1 x2 x3).plansOf = s.plansOf := by
  unfold State.fail
  repeat' first | with_reducible rfl | with_reducible assumption | intro _ | simp only [State.complete_plansOf, plansOf_mk, plansOf_eta, Iter.state_done, Iter.state_fmt, Iter.state_trap, Whole.state_ran, Whole.state_stopped, Whole.state_denied] | split | with_reducible refine (foldl_plansOf _ ?_ _ _).trans ?_

@[simp] theorem State.ok_plansOf (s : State) (x1 : _) (x2 : _) (x3 : _) : (State.ok s x1 x2 x3).plansOf = s.plansOf := by
  unfold State.ok
  repeat' first | with_reducible rfl | with_reducible assumption | intro _ | simp only [State.complete_plansOf, plansOf_mk, plansOf_eta, Iter.state_done, Iter.state_fmt, Iter.state_trap, Whole.state_ran, Whole.state_stopped, Whole.state_denied] | split | with_reducible refine (foldl_plansOf _ ?_ _ _).trans ?_

@[simp] theorem State.sqBell_plansOf (s : State) (x1 : _) (x2 : _) : (State.sqBell s x1 x2).plansOf = s.plansOf := by
  unfold State.sqBell
  repeat' first | with_reducible rfl | with_reducible assumption | intro _ | simp only [State.ringError_plansOf, State.setRing_plansOf, plansOf_mk, plansOf_eta, Iter.state_done, Iter.state_fmt, Iter.state_trap, Whole.state_ran, Whole.state_stopped, Whole.state_denied] | split | with_reducible refine (foldl_plansOf _ ?_ _ _).trans ?_

@[simp] theorem State.cqBell_plansOf (s : State) (x1 : _) (x2 : _) : (State.cqBell s x1 x2).plansOf = s.plansOf := by
  unfold State.cqBell
  repeat' first | with_reducible rfl | with_reducible assumption | intro _ | simp only [State.flushCq_plansOf, State.ringError_plansOf, State.setRing_plansOf, plansOf_mk, plansOf_eta, Iter.state_done, Iter.state_fmt, Iter.state_trap, Whole.state_ran, Whole.state_stopped, Whole.state_denied] | split | with_reducible refine (foldl_plansOf _ ?_ _ _).trans ?_

@[simp] theorem State.ringWrite_plansOf (s : State) (x1 : _) (x2 : _) : (State.ringWrite s x1 x2).plansOf = s.plansOf := by
  unfold State.ringWrite
  repeat' first | with_reducible rfl | with_reducible assumption | intro _ | simp only [State.flushCq_plansOf, State.raise_plansOf, State.setRing_plansOf, plansOf_mk, plansOf_eta, Iter.state_done, Iter.state_fmt, Iter.state_trap, Whole.state_ran, Whole.state_stopped, Whole.state_denied] | split | with_reducible refine (foldl_plansOf _ ?_ _ _).trans ?_

theorem execSqDoorbell_plansOf {s t : State} {x0 : Nat} {x1 : Sys2Proof.Word} (h : execSqDoorbell x0 x1 s = .next t) : t.plansOf = s.plansOf := by
  simp only [execSqDoorbell, Host.Outcome.next.injEq] at h
  subst h
  repeat' first | with_reducible rfl | with_reducible assumption | intro _ | simp only [State.sqBell_plansOf, plansOf_mk, plansOf_eta, Iter.state_done, Iter.state_fmt, Iter.state_trap, Whole.state_ran, Whole.state_stopped, Whole.state_denied] | split | with_reducible refine (foldl_plansOf _ ?_ _ _).trans ?_

theorem execCqDoorbell_plansOf {s t : State} {x0 : Nat} {x1 : Sys2Proof.Word} (h : execCqDoorbell x0 x1 s = .next t) : t.plansOf = s.plansOf := by
  simp only [execCqDoorbell, Host.Outcome.next.injEq] at h
  subst h
  repeat' first | with_reducible rfl | with_reducible assumption | intro _ | simp only [State.cqBell_plansOf, plansOf_mk, plansOf_eta, Iter.state_done, Iter.state_fmt, Iter.state_trap, Whole.state_ran, Whole.state_stopped, Whole.state_denied] | split | with_reducible refine (foldl_plansOf _ ?_ _ _).trans ?_

theorem execRingConfigWrite_plansOf {s t : State} {x0 : Nat} {x1 : Sys2Proof.Word} (h : execRingConfigWrite x0 x1 s = .next t) : t.plansOf = s.plansOf := by
  simp only [execRingConfigWrite, Host.Outcome.next.injEq] at h
  subst h
  repeat' first | with_reducible rfl | with_reducible assumption | intro _ | simp only [State.ringWrite_plansOf, plansOf_mk, plansOf_eta, Iter.state_done, Iter.state_fmt, Iter.state_trap, Whole.state_ran, Whole.state_stopped, Whole.state_denied] | split | with_reducible refine (foldl_plansOf _ ?_ _ _).trans ?_

theorem execMsiUnmask_plansOf {s t : State} {x0 : Nat} {x1 : Sys2Proof.Word} (h : execMsiUnmask x0 x1 s = .next t) : t.plansOf = s.plansOf := by
  simp only [execMsiUnmask, Host.Outcome.next.injEq] at h
  subst h
  repeat' first | with_reducible rfl | with_reducible assumption | intro _ | simp only [State.msiWrite_plansOf, plansOf_mk, plansOf_eta, Iter.state_done, Iter.state_fmt, Iter.state_trap, Whole.state_ran, Whole.state_stopped, Whole.state_denied] | split | with_reducible refine (foldl_plansOf _ ?_ _ _).trans ?_

theorem execSqEntryFetch_plansOf {s t : State} {x0 : Nat} {x1 : List Sys2Proof.Byte} (h : execSqEntryFetch x0 x1 s = .next t) : t.plansOf = s.plansOf := by
  simp only [execSqEntryFetch, Host.Outcome.next.injEq] at h
  subst h
  repeat' first | with_reducible rfl | with_reducible assumption | intro _ | simp only [State.fail_plansOf, State.setRing_plansOf, State.trace_plansOf, plansOf_mk, plansOf_eta, Iter.state_done, Iter.state_fmt, Iter.state_trap, Whole.state_ran, Whole.state_stopped, Whole.state_denied] | split | with_reducible refine (foldl_plansOf _ ?_ _ _).trans ?_

@[simp] theorem State.refuseAt_plansOf (s : State) (x1 : _) (x2 : _) (x3 : _) : (State.refuseAt s x1 x2 x3).plansOf = s.plansOf := by
  unfold State.refuseAt
  repeat' first | with_reducible rfl | with_reducible assumption | intro _ | simp only [State.fail_plansOf, plansOf_mk, plansOf_eta, Iter.state_done, Iter.state_fmt, Iter.state_trap, Whole.state_ran, Whole.state_stopped, Whole.state_denied] | split | with_reducible refine (foldl_plansOf _ ?_ _ _).trans ?_ | with_reducible refine (foldlB_plansOf _ ?_ _ _).trans ?_ | with_reducible refine (foldl1_plansOf _ ?_ _ _).trans ?_ | with_reducible refine (foldl2_plansOf _ ?_ _ _).trans ?_

@[simp] theorem State.answer_plansOf (s : State) (x1 : _) (x2 : _) (x3 : _) : (State.answer s x1 x2 x3).plansOf = s.plansOf := by
  unfold State.answer
  repeat' first | with_reducible rfl | with_reducible assumption | intro _ | simp only [State.emit_plansOf, State.fail_plansOf, State.ok_plansOf, plansOf_mk, plansOf_eta, Iter.state_done, Iter.state_fmt, Iter.state_trap, Whole.state_ran, Whole.state_stopped, Whole.state_denied] | split | with_reducible refine (foldl_plansOf _ ?_ _ _).trans ?_

@[simp] theorem State.dequeue_plansOf (s : State) (x1 : _) (x2 : _) : (State.dequeue s x1 x2).plansOf = s.plansOf := by
  unfold State.dequeue
  repeat' first | with_reducible rfl | with_reducible assumption | intro _ | simp only [State.dropRef_plansOf, State.setQueue_plansOf, plansOf_mk, plansOf_eta, Iter.state_done, Iter.state_fmt, Iter.state_trap, Whole.state_ran, Whole.state_stopped, Whole.state_denied] | split | with_reducible refine (foldl_plansOf _ ?_ _ _).trans ?_

@[simp] theorem State.sweepQueues_plansOf (s : State) (x1 : _) : (State.sweepQueues s x1).plansOf = s.plansOf := by
  unfold State.sweepQueues
  repeat' first | with_reducible rfl | with_reducible assumption | intro _ | simp only [State.dequeue_plansOf, State.dropRef_plansOf, plansOf_mk, plansOf_eta, Iter.state_done, Iter.state_fmt, Iter.state_trap, Whole.state_ran, Whole.state_stopped, Whole.state_denied] | split | with_reducible refine (foldl_plansOf _ ?_ _ _).trans ?_ | with_reducible refine (foldlB_plansOf _ ?_ _ _).trans ?_ | with_reducible refine (foldl1_plansOf _ ?_ _ _).trans ?_ | with_reducible refine (foldl2_plansOf _ ?_ _ _).trans ?_

@[simp] theorem State.healFails_plansOf (s : State) (x1 : _) : (State.healFails s x1).plansOf = s.plansOf := by
  unfold State.healFails
  repeat' first | with_reducible rfl | with_reducible assumption | intro _ | simp only [State.bump_plansOf, State.putTables_plansOf, State.raise_plansOf, State.zeroRetire_plansOf, plansOf_mk, plansOf_eta, Iter.state_done, Iter.state_fmt, Iter.state_trap, Whole.state_ran, Whole.state_stopped, Whole.state_denied] | split | with_reducible refine (foldl_plansOf _ ?_ _ _).trans ?_

@[simp] theorem State.twinFenced_plansOf (s : State) : (State.twinFenced s).plansOf = s.plansOf := by
  unfold State.twinFenced
  repeat' first | with_reducible rfl | with_reducible assumption | intro _ | simp only [State.exchange_plansOf, State.healFails_plansOf, plansOf_mk, plansOf_eta, Iter.state_done, Iter.state_fmt, Iter.state_trap, Whole.state_ran, Whole.state_stopped, Whole.state_denied] | split | with_reducible refine (foldl_plansOf _ ?_ _ _).trans ?_ | with_reducible refine (foldlB_plansOf _ ?_ _ _).trans ?_ | with_reducible refine (foldl1_plansOf _ ?_ _ _).trans ?_ | with_reducible refine (foldl2_plansOf _ ?_ _ _).trans ?_

@[simp] theorem State.setFenced_plansOf (s : State) (x1 : _) (x2 : _) (x3 : _) (x4 : _) : (State.setFenced s x1 x2 x3 x4).plansOf = s.plansOf := by
  unfold State.setFenced
  repeat' first | with_reducible rfl | with_reducible assumption | intro _ | simp only [State.modParty_plansOf, plansOf_mk, plansOf_eta, Iter.state_done, Iter.state_fmt, Iter.state_trap, Whole.state_ran, Whole.state_stopped, Whole.state_denied] | split | with_reducible refine (foldl_plansOf _ ?_ _ _).trans ?_

@[simp] theorem State.notify_plansOf (s : State) (x1 : _) (x2 : _) : (State.notify s x1 x2).plansOf = s.plansOf := by
  unfold State.notify
  repeat' first | with_reducible rfl | with_reducible assumption | intro _ | simp only [State.sendCtrl_plansOf, plansOf_mk, plansOf_eta, Iter.state_done, Iter.state_fmt, Iter.state_trap, Whole.state_ran, Whole.state_stopped, Whole.state_denied] | split | with_reducible refine (foldl_plansOf _ ?_ _ _).trans ?_ | with_reducible refine (foldlB_plansOf _ ?_ _ _).trans ?_ | with_reducible refine (foldl1_plansOf _ ?_ _ _).trans ?_ | with_reducible refine (foldl2_plansOf _ ?_ _ _).trans ?_

theorem execFenceBumpDeferred_plansOf {s t : State} {x0 : Sys2Proof.FA} (h : execFenceBumpDeferred x0 s = .next t) : t.plansOf = s.plansOf := by
  simp only [execFenceBumpDeferred, Host.Outcome.next.injEq] at h
  subst h
  repeat' first | with_reducible rfl | with_reducible assumption | intro _ | simp only [State.notify_plansOf, State.setFenced_plansOf, plansOf_mk, plansOf_eta, Iter.state_done, Iter.state_fmt, Iter.state_trap, Whole.state_ran, Whole.state_stopped, Whole.state_denied] | split | with_reducible refine (foldl_plansOf _ ?_ _ _).trans ?_

@[simp] theorem State.reportSilence_plansOf (s : State) : (State.reportSilence s).plansOf = s.plansOf := by
  unfold State.reportSilence
  repeat' first | with_reducible rfl | with_reducible assumption | intro _ | simp only [State.sendCtrl_plansOf, plansOf_mk, plansOf_eta, Iter.state_done, Iter.state_fmt, Iter.state_trap, Whole.state_ran, Whole.state_stopped, Whole.state_denied] | split | with_reducible refine (foldl_plansOf _ ?_ _ _).trans ?_

theorem execHeartbeatSend_plansOf {s t : State} {x0 : Nat} (h : execHeartbeatSend x0 s = .next t) : t.plansOf = s.plansOf := by
  simp only [execHeartbeatSend, Host.Outcome.next.injEq] at h
  subst h
  repeat' first | with_reducible rfl | with_reducible assumption | intro _ | simp only [State.modPort_plansOf, State.sendOnPort_plansOf, plansOf_mk, plansOf_eta, Iter.state_done, Iter.state_fmt, Iter.state_trap, Whole.state_ran, Whole.state_stopped, Whole.state_denied] | split | with_reducible refine (foldl_plansOf _ ?_ _ _).trans ?_

theorem execHeartbeat_plansOf {s t : State} {x0 : Nat} {x1 : Nat} {x2 : Nat} {x3 : Sys2Proof.Byte} (h : execHeartbeat x0 x1 x2 x3 s = .next t) : t.plansOf = s.plansOf := by
  simp only [execHeartbeat, Host.Outcome.next.injEq] at h
  subst h
  repeat' first | with_reducible rfl | with_reducible assumption | intro _ | simp only [State.modPort_plansOf, State.reportSilence_plansOf, State.takeCtrl_plansOf, plansOf_mk, plansOf_eta, Iter.state_done, Iter.state_fmt, Iter.state_trap, Whole.state_ran, Whole.state_stopped, Whole.state_denied] | split | with_reducible refine (foldl_plansOf _ ?_ _ _).trans ?_

theorem execStepEnd_plansOf {s t : State} {x0 : Nat} {x1 : Nat} {x2 : Sys2Proof.Byte} (h : execStepEnd x0 x1 x2 s = .next t) : t.plansOf = s.plansOf := by
  simp only [execStepEnd, Host.Outcome.next.injEq] at h
  subst h
  repeat' first | with_reducible rfl | with_reducible assumption | intro _ | simp only [State.modPort_plansOf, State.takeCtrl_plansOf, plansOf_mk, plansOf_eta, Iter.state_done, Iter.state_fmt, Iter.state_trap, Whole.state_ran, Whole.state_stopped, Whole.state_denied] | split | with_reducible refine (foldl_plansOf _ ?_ _ _).trans ?_

theorem execTwinHbSend_plansOf {s t : State} {x0 : Nat} (h : execTwinHbSend x0 s = .next t) : t.plansOf = s.plansOf := by
  simp only [execTwinHbSend, Host.Outcome.next.injEq] at h
  subst h
  repeat' first | with_reducible rfl | with_reducible assumption | intro _ | simp only [State.modPort_plansOf, State.sendOnPort_plansOf, plansOf_mk, plansOf_eta, Iter.state_done, Iter.state_fmt, Iter.state_trap, Whole.state_ran, Whole.state_stopped, Whole.state_denied] | split | with_reducible refine (foldl_plansOf _ ?_ _ _).trans ?_

@[simp] theorem State.admits_plansOf (s : State) (x1 : _) (x2 : _) (x3 : _) : (State.admits s x1 x2 x3).plansOf = s.plansOf := by
  unfold State.admits
  repeat' first | with_reducible rfl | with_reducible assumption | intro _ | simp only [State.modParty_plansOf, State.modPort_plansOf, State.rebuildRoutes_plansOf, State.reportSilence_plansOf, plansOf_mk, plansOf_eta, Iter.state_done, Iter.state_fmt, Iter.state_trap, Whole.state_ran, Whole.state_stopped, Whole.state_denied] | split | with_reducible refine (foldl_plansOf _ ?_ _ _).trans ?_

theorem execAdmitNotice_plansOf {s t : State} {x0 : Sys2Proof.FA} {x1 : Sys2Proof.FA} {x2 : BitVec 4} {x3 : Nat} (h : execAdmitNotice x0 x1 x2 x3 s = .next t) : t.plansOf = s.plansOf := by
  simp only [execAdmitNotice, Host.Outcome.next.injEq] at h
  subst h
  repeat' first | with_reducible rfl | with_reducible assumption | intro _ | simp only [State.admits_plansOf, State.takeCtrl_plansOf, plansOf_mk, plansOf_eta, Iter.state_done, Iter.state_fmt, Iter.state_trap, Whole.state_ran, Whole.state_stopped, Whole.state_denied] | split | with_reducible refine (foldl_plansOf _ ?_ _ _).trans ?_

@[simp] theorem State.admitParty_plansOf (s : State) (x1 : _) (x2 : _) : (State.admitParty s x1 x2).plansOf = s.plansOf := by
  unfold State.admitParty
  repeat' first | with_reducible rfl | with_reducible assumption | intro _ | simp only [State.admits_plansOf, State.notify_plansOf, plansOf_mk, plansOf_eta, Iter.state_done, Iter.state_fmt, Iter.state_trap, Whole.state_ran, Whole.state_stopped, Whole.state_denied] | split | with_reducible refine (foldl_plansOf _ ?_ _ _).trans ?_

@[simp] theorem State.linkChanged_plansOf (s : State) (x1 : _) (x2 : _) (x3 : _) (x4 : _) : (State.linkChanged s x1 x2 x3 x4).plansOf = s.plansOf := by
  unfold State.linkChanged
  repeat' first | with_reducible rfl | with_reducible assumption | intro _ | simp only [State.rebuildRoutes_plansOf, plansOf_mk, plansOf_eta, Iter.state_done, Iter.state_fmt, Iter.state_trap, Whole.state_ran, Whole.state_stopped, Whole.state_denied] | split | with_reducible refine (foldl_plansOf _ ?_ _ _).trans ?_

theorem execLinkNotice_plansOf {s t : State} {x0 : Sys2Proof.FA} {x1 : Sys2Proof.FA} {x2 : Nat} {x3 : Bool} {x4 : Bool} {x5 : Nat} (h : execLinkNotice x0 x1 x2 x3 x4 x5 s = .next t) : t.plansOf = s.plansOf := by
  simp only [execLinkNotice, Host.Outcome.next.injEq] at h
  subst h
  repeat' first | with_reducible rfl | with_reducible assumption | intro _ | simp only [State.linkChanged_plansOf, State.takeCtrl_plansOf, plansOf_mk, plansOf_eta, Iter.state_done, Iter.state_fmt, Iter.state_trap, Whole.state_ran, Whole.state_stopped, Whole.state_denied] | split | with_reducible refine (foldl_plansOf _ ?_ _ _).trans ?_

@[simp] theorem State.resilverOver_plansOf (s : State) : (State.resilverOver s).plansOf = s.plansOf := by
  unfold State.resilverOver
  repeat' first | with_reducible rfl | with_reducible assumption | intro _ | simp only [State.complete_plansOf, State.resilverFails_plansOf, plansOf_mk, plansOf_eta, Iter.state_done, Iter.state_fmt, Iter.state_trap, Whole.state_ran, Whole.state_stopped, Whole.state_denied] | split | with_reducible refine (foldl_plansOf _ ?_ _ _).trans ?_

@[simp] theorem State.resilverAnswer_plansOf (s : State) (x1 : _) (x2 : _) (x3 : _) : (State.resilverAnswer s x1 x2 x3).plansOf = s.plansOf := by
  unfold State.resilverAnswer
  repeat' first | with_reducible rfl | with_reducible assumption | intro _ | simp only [State.admitParty_plansOf, State.ok_plansOf, State.raise_plansOf, State.resilverOver_plansOf, plansOf_mk, plansOf_eta, Iter.state_done, Iter.state_fmt, Iter.state_trap, Whole.state_ran, Whole.state_stopped, Whole.state_denied] | split | with_reducible refine (foldl_plansOf _ ?_ _ _).trans ?_

theorem execDigest_plansOf {s t : State} {x0 : Nat} {x1 : Sys2Proof.Word} {x2 : BitVec 32} (h : execDigest x0 x1 x2 s = .next t) : t.plansOf = s.plansOf := by
  simp only [execDigest, Host.Outcome.next.injEq] at h
  subst h
  repeat' first | with_reducible rfl | with_reducible assumption | intro _ | simp only [State.exchange_plansOf, State.resilverAnswer_plansOf, State.takeCtrl_plansOf, plansOf_mk, plansOf_eta, Iter.state_done, Iter.state_fmt, Iter.state_trap, Whole.state_ran, Whole.state_stopped, Whole.state_denied] | split | with_reducible refine (foldl_plansOf _ ?_ _ _).trans ?_

@[simp] theorem State.sendHeal_plansOf (s : State) (x1 : _) : (State.sendHeal s x1).plansOf = s.plansOf := by
  unfold State.sendHeal
  repeat' first | with_reducible rfl | with_reducible assumption | intro _ | simp only [State.sendCtrl_plansOf, plansOf_mk, plansOf_eta, Iter.state_done, Iter.state_fmt, Iter.state_trap, Whole.state_ran, Whole.state_stopped, Whole.state_denied] | split | with_reducible refine (foldl_plansOf _ ?_ _ _).trans ?_

@[simp] theorem State.setHeal_plansOf (s : State) (x1 : _) : (State.setHeal s x1).plansOf = s.plansOf := by
  unfold State.setHeal
  repeat' first | with_reducible rfl | with_reducible assumption | intro _ | simp only [plansOf_mk, plansOf_eta, Iter.state_done, Iter.state_fmt, Iter.state_trap, Whole.state_ran, Whole.state_stopped, Whole.state_denied] | split | with_reducible refine (foldl_plansOf _ ?_ _ _).trans ?_

theorem execHealStart_plansOf {s t : State} (h : execHealStart s = .next t) : t.plansOf = s.plansOf := by
  simp only [execHealStart, Host.Outcome.next.injEq] at h
  subst h
  repeat' first | with_reducible rfl | with_reducible assumption | intro _ | simp only [State.healFails_plansOf, State.sendHeal_plansOf, State.setHeal_plansOf, plansOf_mk, plansOf_eta, Iter.state_done, Iter.state_fmt, Iter.state_trap, Whole.state_ran, Whole.state_stopped, Whole.state_denied] | split | with_reducible refine (foldl_plansOf _ ?_ _ _).trans ?_

theorem execHealRequestTimeout_plansOf {s t : State} (h : execHealRequestTimeout s = .next t) : t.plansOf = s.plansOf := by
  simp only [execHealRequestTimeout, Host.Outcome.next.injEq] at h
  subst h
  repeat' first | with_reducible rfl | with_reducible assumption | intro _ | simp only [State.sendHeal_plansOf, plansOf_mk, plansOf_eta, Iter.state_done, Iter.state_fmt, Iter.state_trap, Whole.state_ran, Whole.state_stopped, Whole.state_denied] | split | with_reducible refine (foldl_plansOf _ ?_ _ _).trans ?_

theorem execHealFail_plansOf {s t : State} {x0 : Sys2Proof.GranuleRef} {x1 : Sys2Proof.Byte} (h : execHealFail x0 x1 s = .next t) : t.plansOf = s.plansOf := by
  simp only [execHealFail, Host.Outcome.next.injEq] at h
  subst h
  repeat' first | with_reducible rfl | with_reducible assumption | intro _ | simp only [State.healFails_plansOf, State.takeCtrl_plansOf, plansOf_mk, plansOf_eta, Iter.state_done, Iter.state_fmt, Iter.state_trap, Whole.state_ran, Whole.state_stopped, Whole.state_denied] | split | with_reducible refine (foldl_plansOf _ ?_ _ _).trans ?_

@[simp] theorem State.takeTransfer_plansOf (s : State) (x1 : _) : (State.takeTransfer s x1).plansOf = s.plansOf := by
  unfold State.takeTransfer
  repeat' first | with_reducible rfl | with_reducible assumption | intro _ | simp only [State.takeInbox_plansOf, plansOf_mk, plansOf_eta, Iter.state_done, Iter.state_fmt, Iter.state_trap, Whole.state_ran, Whole.state_stopped, Whole.state_denied] | split | with_reducible refine (foldl_plansOf _ ?_ _ _).trans ?_

theorem execHealData_plansOf {s t : State} {x0 : Sys2Proof.GranuleRef} {x1 : List Sys2Proof.Byte} (h : execHealData x0 x1 s = .next t) : t.plansOf = s.plansOf := by
  simp only [execHealData, Host.Outcome.next.injEq] at h
  subst h
  repeat' first | with_reducible rfl | with_reducible assumption | intro _ | simp only [State.bump_plansOf, State.healFails_plansOf, State.memWrite_plansOf, State.putTables_plansOf, State.retire_plansOf, State.stateWrite_plansOf, State.takeTransfer_plansOf, plansOf_mk, plansOf_eta, Iter.state_done, Iter.state_fmt, Iter.state_trap, Whole.state_ran, Whole.state_stopped, Whole.state_denied] | split | with_reducible refine (foldl_plansOf _ ?_ _ _).trans ?_

@[simp] theorem State.refuseHeal_plansOf (s : State) (x1 : _) (x2 : _) (x3 : _) : (State.refuseHeal s x1 x2 x3).plansOf = s.plansOf := by
  unfold State.refuseHeal
  repeat' first | with_reducible rfl | with_reducible assumption | intro _ | simp only [State.sendCtrl_plansOf, plansOf_mk, plansOf_eta, Iter.state_done, Iter.state_fmt, Iter.state_trap, Whole.state_ran, Whole.state_stopped, Whole.state_denied] | split | with_reducible refine (foldl_plansOf _ ?_ _ _).trans ?_

theorem execResilver_plansOf {s t : State} {x0 : Sys2Proof.Req} {x1 : Bool} (h : execResilver x0 x1 s = .next t) : t.plansOf = s.plansOf := by
  simp only [execResilver, Host.Outcome.next.injEq] at h
  subst h
  repeat' first | with_reducible rfl | with_reducible assumption | intro _ | simp only [State.fail_plansOf, State.freshTx_plansOf, State.sendMessage_plansOf, plansOf_mk, plansOf_eta, Iter.state_done, Iter.state_fmt, Iter.state_trap, Whole.state_ran, Whole.state_stopped, Whole.state_denied] | split | with_reducible refine (foldl_plansOf _ ?_ _ _).trans ?_

@[simp] theorem State.transferBad_plansOf (s : State) : (State.transferBad s).plansOf = s.plansOf := by
  unfold State.transferBad
  repeat' first | with_reducible rfl | with_reducible assumption | intro _ | simp only [State.bump_plansOf, State.resilverOver_plansOf, plansOf_mk, plansOf_eta, Iter.state_done, Iter.state_fmt, Iter.state_trap, Whole.state_ran, Whole.state_stopped, Whole.state_denied] | split | with_reducible refine (foldl_plansOf _ ?_ _ _).trans ?_

theorem execControlRecordReceive_plansOf {s t : State} {x0 : Nat} {x1 : List Sys2Proof.Byte} (h : execControlRecordReceive x0 x1 s = .next t) : t.plansOf = s.plansOf := by
  simp only [execControlRecordReceive, Host.Outcome.next.injEq] at h
  subst h
  repeat' first | with_reducible rfl | with_reducible assumption | intro _ | simp only [State.takeTransfer_plansOf, State.transferBad_plansOf, plansOf_mk, plansOf_eta, Iter.state_done, Iter.state_fmt, Iter.state_trap, Whole.state_ran, Whole.state_stopped, Whole.state_denied] | split | with_reducible refine (foldl_plansOf _ ?_ _ _).trans ?_

theorem execGranuleReceive_plansOf {s t : State} {x0 : Sys2Proof.GranuleRef} {x1 : List Sys2Proof.Byte} (h : execGranuleReceive x0 x1 s = .next t) : t.plansOf = s.plansOf := by
  simp only [execGranuleReceive, Host.Outcome.next.injEq] at h
  subst h
  repeat' first | with_reducible rfl | with_reducible assumption | intro _ | simp only [State.stateWrite_plansOf, State.takeTransfer_plansOf, State.transferBad_plansOf, plansOf_mk, plansOf_eta, Iter.state_done, Iter.state_fmt, Iter.state_trap, Whole.state_ran, Whole.state_stopped, Whole.state_denied] | split | with_reducible refine (foldl_plansOf _ ?_ _ _).trans ?_

@[simp] theorem State.placeWrite_plansOf (s : State) (x1 : _) (x2 : _) : (State.placeWrite s x1 x2).plansOf = s.plansOf := by
  unfold State.placeWrite
  repeat' first | with_reducible rfl | with_reducible assumption | intro _ | simp only [State.raise_plansOf, State.wr_plansOf, plansOf_mk, plansOf_eta, Iter.state_done, Iter.state_fmt, Iter.state_trap, Whole.state_ran, Whole.state_stopped, Whole.state_denied] | split | with_reducible refine (foldl_plansOf _ ?_ _ _).trans ?_

@[simp] theorem State.nameTwin_plansOf (s : State) (x1 : _) : (State.nameTwin s x1).plansOf = s.plansOf := by
  unfold State.nameTwin
  repeat' first | with_reducible rfl | with_reducible assumption | intro _ | simp only [State.modParty_plansOf, plansOf_mk, plansOf_eta, Iter.state_done, Iter.state_fmt, Iter.state_trap, Whole.state_ran, Whole.state_stopped, Whole.state_denied] | split | with_reducible refine (foldl_plansOf _ ?_ _ _).trans ?_

@[simp] theorem State.takeMembership_plansOf (s : State) (x1 : _) : (State.takeMembership s x1).plansOf = s.plansOf := by
  unfold State.takeMembership
  repeat' first | with_reducible rfl | with_reducible assumption | intro _ | simp only [State.admitParty_plansOf, State.nameTwin_plansOf, State.placeWrite_plansOf, State.rebuildGroups_plansOf, State.rebuildRoutes_plansOf, plansOf_mk, plansOf_eta, Iter.state_done, Iter.state_fmt, Iter.state_trap, Whole.state_ran, Whole.state_stopped, Whole.state_denied] | split | with_reducible refine (foldl_plansOf _ ?_ _ _).trans ?_ | with_reducible refine (foldlB_plansOf _ ?_ _ _).trans ?_ | with_reducible refine (foldl1_plansOf _ ?_ _ _).trans ?_ | with_reducible refine (foldl2_plansOf _ ?_ _ _).trans ?_

@[simp] theorem State.relayout_plansOf (s : State) (x1 : _) : (State.relayout s x1).plansOf = s.plansOf := by
  unfold State.relayout
  repeat' first | with_reducible rfl | with_reducible assumption | intro _ | simp only [State.memClear_plansOf, State.stateWrite_plansOf, plansOf_mk, plansOf_eta, Iter.state_done, Iter.state_fmt, Iter.state_trap, Whole.state_ran, Whole.state_stopped, Whole.state_denied] | split | with_reducible refine (foldl_plansOf _ ?_ _ _).trans ?_ | with_reducible refine (foldlB_plansOf _ ?_ _ _).trans ?_ | with_reducible refine (foldl1_plansOf _ ?_ _ _).trans ?_ | with_reducible refine (foldl2_plansOf _ ?_ _ _).trans ?_

@[simp] theorem State.defineShard_plansOf (s : State) (x1 : _) : (State.defineShard s x1).plansOf = s.plansOf := by
  unfold State.defineShard
  repeat' first | with_reducible rfl | with_reducible assumption | intro _ | simp only [State.relayout_plansOf, State.setHeader_plansOf, plansOf_mk, plansOf_eta, Iter.state_done, Iter.state_fmt, Iter.state_trap, Whole.state_ran, Whole.state_stopped, Whole.state_denied] | split | with_reducible refine (foldl_plansOf _ ?_ _ _).trans ?_

@[simp] theorem State.defineSeeds_plansOf (s : State) (x1 : _) (x2 : _) : (State.defineSeeds s x1 x2).plansOf = s.plansOf := by
  unfold State.defineSeeds
  repeat' first | with_reducible rfl | with_reducible assumption | intro _ | simp only [State.fail_plansOf, State.ok_plansOf, plansOf_mk, plansOf_eta, Iter.state_done, Iter.state_fmt, Iter.state_trap, Whole.state_ran, Whole.state_stopped, Whole.state_denied] | split | with_reducible refine (foldl_plansOf _ ?_ _ _).trans ?_

theorem State.rangeRefuse_plansOf {s t : State} {rq : Req} {b : Bool} (h : s.rangeRefuse rq b = some t) : t.plansOf = s.plansOf := by
  have g : ∀ (c : Prop) [Decidable c] (x y : Option State), (∀ u, x = some u → u.plansOf = s.plansOf) → (∀ u, y = some u → u.plansOf = s.plansOf) →
      ∀ u, (if c then x else y) = some u → u.plansOf = s.plansOf := by
    intro c _ x y hx hy u hu
    split at hu
    · exact hx u hu
    · exact hy u hu
  have f : ∀ x u : State, x.plansOf = s.plansOf → some x = some u → u.plansOf = s.plansOf := by
    intro x u hx hu
    cases hu
    exact hx
  revert h
  unfold State.rangeRefuse
  refine g _ _ _ (fun u => f _ u ?_) (fun u => ?_) t
  · simp only [State.refuseAt_plansOf]
  · split
    · exact f _ u (by simp only [State.fail_plansOf])
    · exact g _ _ _ (fun u => f _ u (by simp only [State.fail_plansOf])) (fun u hu => by cases hu) u

theorem execStateImport_plansOf {s t : State} {x0 : Sys2Proof.Req} {x1 : List Sys2Proof.Byte} (h : execStateImport x0 x1 s = .next t) : t.plansOf = s.plansOf := by
  simp only [execStateImport, Host.Outcome.next.injEq] at h
  subst h
  repeat' first | with_reducible rfl | with_reducible assumption | intro _ | simp only [State.fail_plansOf, plansOf_mk, plansOf_eta, Iter.state_done, Iter.state_fmt, Iter.state_trap, Whole.state_ran, Whole.state_stopped, Whole.state_denied] | with_reducible refine (State.rangeRefuse_plansOf (by assumption)).trans ?_ | split | with_reducible refine (foldl_plansOf _ ?_ _ _).trans ?_

@[simp] theorem State.putRange_plansOf (s : State) (a : Nat) (l : List (Nat × Nat)) (b : List Byte) : (s.putRange a l b).plansOf = s.plansOf := by
  induction l generalizing s b with
  | nil => rfl
  | cons e t ih =>
    obtain ⟨o, n⟩ := e
    rw [State.putRange, ih, State.stateWrite_plansOf]

theorem execStateExport_plansOf {s t : State} {x0 : Sys2Proof.Req} (h : execStateExport x0 s = .next t) : t.plansOf = s.plansOf := by
  simp only [execStateExport, Host.Outcome.next.injEq] at h
  subst h
  repeat' first | with_reducible rfl | with_reducible assumption | intro _ | simp only [State.fail_plansOf, plansOf_mk, plansOf_eta, Iter.state_done, Iter.state_fmt, Iter.state_trap, Whole.state_ran, Whole.state_stopped, Whole.state_denied] | with_reducible refine (State.rangeRefuse_plansOf (by assumption)).trans ?_ | split | with_reducible refine (foldl_plansOf _ ?_ _ _).trans ?_

theorem execLedgerQuery_plansOf {s t : State} {x0 : Sys2Proof.Req} (h : execLedgerQuery x0 s = .next t) : t.plansOf = s.plansOf := by
  simp only [execLedgerQuery, Host.Outcome.next.injEq] at h
  subst h
  repeat' first | with_reducible rfl | with_reducible assumption | intro _ | simp only [State.answer_plansOf, State.fail_plansOf, plansOf_mk, plansOf_eta, Iter.state_done, Iter.state_fmt, Iter.state_trap, Whole.state_ran, Whole.state_stopped, Whole.state_denied] | split | with_reducible refine (foldl_plansOf _ ?_ _ _).trans ?_

theorem execGateConfig_plansOf {s t : State} {x0 : Sys2Proof.Req} {x1 : List Sys2Proof.Byte} (h : execGateConfig x0 x1 s = .next t) : t.plansOf = s.plansOf := by
  simp only [execGateConfig, Host.Outcome.next.injEq] at h
  subst h
  repeat' first | with_reducible rfl | with_reducible assumption | intro _ | simp only [State.modSched_plansOf, State.ok_plansOf, State.refuseAt_plansOf, plansOf_mk, plansOf_eta, Iter.state_done, Iter.state_fmt, Iter.state_trap, Whole.state_ran, Whole.state_stopped, Whole.state_denied] | split | with_reducible refine (foldl_plansOf _ ?_ _ _).trans ?_

@[simp] theorem State.setMeter_plansOf (s : State) (x1 : _) (x2 : _) (x3 : _) (x4 : _) : (State.setMeter s x1 x2 x3 x4).plansOf = s.plansOf := by
  unfold State.setMeter
  repeat' first | with_reducible rfl | with_reducible assumption | intro _ | simp only [State.modSched_plansOf, State.wr_plansOf, plansOf_mk, plansOf_eta, Iter.state_done, Iter.state_fmt, Iter.state_trap, Whole.state_ran, Whole.state_stopped, Whole.state_denied] | split | with_reducible refine (foldl_plansOf _ ?_ _ _).trans ?_

theorem execMeterConfig_plansOf {s t : State} {x0 : Sys2Proof.Req} (h : execMeterConfig x0 s = .next t) : t.plansOf = s.plansOf := by
  simp only [execMeterConfig, Host.Outcome.next.injEq] at h
  subst h
  repeat' first | with_reducible rfl | with_reducible assumption | intro _ | simp only [State.ok_plansOf, State.refuseAt_plansOf, State.setMeter_plansOf, plansOf_mk, plansOf_eta, Iter.state_done, Iter.state_fmt, Iter.state_trap, Whole.state_ran, Whole.state_stopped, Whole.state_denied] | split | with_reducible refine (foldl_plansOf _ ?_ _ _).trans ?_

theorem execLogConfig_plansOf {s t : State} {x0 : Sys2Proof.Req} {x1 : List Sys2Proof.Byte} (h : execLogConfig x0 x1 s = .next t) : t.plansOf = s.plansOf := by
  simp only [execLogConfig, Host.Outcome.next.injEq] at h
  subst h
  repeat' first | with_reducible rfl | with_reducible assumption | intro _ | simp only [State.fail_plansOf, State.ok_plansOf, State.raise_plansOf, State.refuseAt_plansOf, plansOf_mk, plansOf_eta, Iter.state_done, Iter.state_fmt, Iter.state_trap, Whole.state_ran, Whole.state_stopped, Whole.state_denied] | split | with_reducible refine (foldl_plansOf _ ?_ _ _).trans ?_

@[simp] theorem State.startWipe_plansOf (s : State) (x1 : _) : (State.startWipe s x1).plansOf = s.plansOf := by
  unfold State.startWipe
  repeat' first | with_reducible rfl | with_reducible assumption | intro _ | simp only [plansOf_mk, plansOf_eta, Iter.state_done, Iter.state_fmt, Iter.state_trap, Whole.state_ran, Whole.state_stopped, Whole.state_denied] | split | with_reducible refine (foldl_plansOf _ ?_ _ _).trans ?_

theorem execWipe_plansOf {s t : State} {x0 : Sys2Proof.Req} (h : execWipe x0 s = .next t) : t.plansOf = s.plansOf := by
  simp only [execWipe, Host.Outcome.next.injEq] at h
  subst h
  repeat' first | with_reducible rfl | with_reducible assumption | intro _ | simp only [State.fail_plansOf, State.startWipe_plansOf, plansOf_mk, plansOf_eta, Iter.state_done, Iter.state_fmt, Iter.state_trap, Whole.state_ran, Whole.state_stopped, Whole.state_denied] | split | with_reducible refine (foldl_plansOf _ ?_ _ _).trans ?_

@[simp] theorem State.reportLinks_plansOf (s : State) : (State.reportLinks s).plansOf = s.plansOf := by
  unfold State.reportLinks
  repeat' first | with_reducible rfl | with_reducible assumption | intro _ | simp only [State.linkChanged_plansOf, State.notify_plansOf, State.rebuildRoutes_plansOf, plansOf_mk, plansOf_eta, Iter.state_done, Iter.state_fmt, Iter.state_trap, Whole.state_ran, Whole.state_stopped, Whole.state_denied] | split | with_reducible refine (foldl_plansOf _ ?_ _ _).trans ?_ | with_reducible refine (foldlB_plansOf _ ?_ _ _).trans ?_ | with_reducible refine (foldl1_plansOf _ ?_ _ _).trans ?_ | with_reducible refine (foldl2_plansOf _ ?_ _ _).trans ?_

@[simp] theorem State.endCharges_plansOf (s : State) (x1 : _) : (State.endCharges s x1).plansOf = s.plansOf := by
  unfold State.endCharges
  repeat' first | with_reducible rfl | with_reducible assumption | intro _ | simp only [plansOf_mk, plansOf_eta, Iter.state_done, Iter.state_fmt, Iter.state_trap, Whole.state_ran, Whole.state_stopped, Whole.state_denied] | split | with_reducible refine (foldl_plansOf _ ?_ _ _).trans ?_

@[simp] theorem State.sendControl_plansOf (s : State) (x1 : _) (x2 : _) : (State.sendControl s x1 x2).plansOf = s.plansOf := by
  unfold State.sendControl
  repeat' first | with_reducible rfl | with_reducible assumption | intro _ | simp only [State.emit_plansOf, plansOf_mk, plansOf_eta, Iter.state_done, Iter.state_fmt, Iter.state_trap, Whole.state_ran, Whole.state_stopped, Whole.state_denied] | split | with_reducible refine (foldl_plansOf _ ?_ _ _).trans ?_

@[simp] theorem State.train_plansOf (s : State) (x1 : _) : (State.train s x1).plansOf = s.plansOf := by
  unfold State.train
  repeat' first | with_reducible rfl | with_reducible assumption | intro _ | simp only [State.emit_plansOf, State.modPort_plansOf, State.sendControl_plansOf, plansOf_mk, plansOf_eta, Iter.state_done, Iter.state_fmt, Iter.state_trap, Whole.state_ran, Whole.state_stopped, Whole.state_denied] | split | with_reducible refine (foldl_plansOf _ ?_ _ _).trans ?_

@[simp] theorem State.retrain_plansOf (s : State) (x1 : _) : (State.retrain s x1).plansOf = s.plansOf := by
  unfold State.retrain
  repeat' first | with_reducible rfl | with_reducible assumption | intro _ | simp only [State.modPort_plansOf, State.train_plansOf, plansOf_mk, plansOf_eta, Iter.state_done, Iter.state_fmt, Iter.state_trap, Whole.state_ran, Whole.state_stopped, Whole.state_denied] | split | with_reducible refine (foldl_plansOf _ ?_ _ _).trans ?_

theorem execDataFrameReceive_plansOf {s t : State} {x0 : Nat} {x1 : List Sys2Proof.Byte} (h : execDataFrameReceive x0 x1 s = .next t) : t.plansOf = s.plansOf := by
  simp only [execDataFrameReceive, Host.Outcome.next.injEq] at h
  subst h
  repeat' first | with_reducible rfl | with_reducible assumption | intro _ | simp only [State.bump_plansOf, State.modPort_plansOf, State.sendControl_plansOf, plansOf_mk, plansOf_eta, Iter.state_done, Iter.state_fmt, Iter.state_trap, Whole.state_ran, Whole.state_stopped, Whole.state_denied] | split | with_reducible refine (foldl_plansOf _ ?_ _ _).trans ?_

@[simp] theorem State.sendData_plansOf (s : State) (x1 : _) (x2 : _) (x3 : _) : (State.sendData s x1 x2 x3).plansOf = s.plansOf := by
  unfold State.sendData
  repeat' first | with_reducible rfl | with_reducible assumption | intro _ | simp only [State.emit_plansOf, State.modPort_plansOf, plansOf_mk, plansOf_eta, Iter.state_done, Iter.state_fmt, Iter.state_trap, Whole.state_ran, Whole.state_stopped, Whole.state_denied] | split | with_reducible refine (foldl_plansOf _ ?_ _ _).trans ?_

@[simp] theorem State.endsLate_plansOf (s : State) (x1 : _) (x2 : _) (x3 : _) : (State.endsLate s x1 x2 x3).plansOf = s.plansOf := by
  unfold State.endsLate
  repeat' first | with_reducible rfl | with_reducible assumption | intro _ | simp only [State.bump_plansOf, State.modSched_plansOf, plansOf_mk, plansOf_eta, Iter.state_done, Iter.state_fmt, Iter.state_trap, Whole.state_ran, Whole.state_stopped, Whole.state_denied] | split | with_reducible refine (foldl_plansOf _ ?_ _ _).trans ?_

@[simp] theorem State.resendFrame_plansOf (s : State) (x1 : _) (x2 : _) : (State.resendFrame s x1 x2).plansOf = s.plansOf := by
  unfold State.resendFrame
  repeat' first | with_reducible rfl | with_reducible assumption | intro _ | simp only [State.endsLate_plansOf, State.sendData_plansOf, plansOf_mk, plansOf_eta, Iter.state_done, Iter.state_fmt, Iter.state_trap, Whole.state_ran, Whole.state_stopped, Whole.state_denied] | split | with_reducible refine (foldl_plansOf _ ?_ _ _).trans ?_

@[simp] theorem State.startDegrade_plansOf (s : State) (x1 : _) : (State.startDegrade s x1).plansOf = s.plansOf := by
  unfold State.startDegrade
  repeat' first | with_reducible rfl | with_reducible assumption | intro _ | simp only [State.modPort_plansOf, State.sendControl_plansOf, plansOf_mk, plansOf_eta, Iter.state_done, Iter.state_fmt, Iter.state_trap, Whole.state_ran, Whole.state_stopped, Whole.state_denied] | split | with_reducible refine (foldl_plansOf _ ?_ _ _).trans ?_

theorem execPortUp_plansOf {s t : State} {x0 : Nat} {x1 : Sys2Proof.PeerReport} (h : execPortUp x0 x1 s = .next t) : t.plansOf = s.plansOf := by
  simp only [execPortUp, Host.Outcome.next.injEq] at h
  subst h
  repeat' first | with_reducible rfl | with_reducible assumption | intro _ | simp only [State.bump_plansOf, State.modPort_plansOf, State.raise_plansOf, State.reportLinks_plansOf, plansOf_mk, plansOf_eta, Iter.state_done, Iter.state_fmt, Iter.state_trap, Whole.state_ran, Whole.state_stopped, Whole.state_denied] | split | with_reducible refine (foldl_plansOf _ ?_ _ _).trans ?_

theorem execLinkTrainFail_plansOf {s t : State} {x0 : Nat} (h : execLinkTrainFail x0 s = .next t) : t.plansOf = s.plansOf := by
  simp only [execLinkTrainFail, Host.Outcome.next.injEq] at h
  subst h
  repeat' first | with_reducible rfl | with_reducible assumption | intro _ | simp only [State.raise_plansOf, plansOf_mk, plansOf_eta, Iter.state_done, Iter.state_fmt, Iter.state_trap, Whole.state_ran, Whole.state_stopped, Whole.state_denied] | split | with_reducible refine (foldl_plansOf _ ?_ _ _).trans ?_

theorem execPortRetrainTimer_plansOf {s t : State} {x0 : Nat} (h : execPortRetrainTimer x0 s = .next t) : t.plansOf = s.plansOf := by
  simp only [execPortRetrainTimer, Host.Outcome.next.injEq] at h
  subst h
  repeat' first | with_reducible rfl | with_reducible assumption | intro _ | simp only [State.retrain_plansOf, plansOf_mk, plansOf_eta, Iter.state_done, Iter.state_fmt, Iter.state_trap, Whole.state_ran, Whole.state_stopped, Whole.state_denied] | split | with_reducible refine (foldl_plansOf _ ?_ _ _).trans ?_

@[simp] theorem State.meterCell_plansOf (s : State) (x1 : _) (x2 : _) : (State.meterCell s x1 x2).2.plansOf = s.plansOf := by
  unfold State.meterCell
  repeat' first | with_reducible rfl | with_reducible assumption | intro _ | simp only [State.bump_plansOf, State.modSched_plansOf, plansOf_mk, plansOf_eta, Iter.state_done, Iter.state_fmt, Iter.state_trap, Whole.state_ran, Whole.state_stopped, Whole.state_denied] | split | with_reducible refine (foldl_plansOf _ ?_ _ _).trans ?_

theorem State.colourFate_plansOf {s t : State} {p : Nat} {c : Cell} (h : s.colourFate p c = some t) : t.plansOf = s.plansOf := by
  simp only [State.colourFate] at h
  split at h
  · cases h; simp only [State.bump_plansOf]
  · split at h
    · cases h; simp only [State.bump_plansOf]
    · cases h

theorem execAdaptiveEgressChoice_plansOf {s t : State} {x0 : Nat} (h : execAdaptiveEgressChoice x0 s = .next t) : t.plansOf = s.plansOf := by
  simp only [execAdaptiveEgressChoice, Host.Outcome.next.injEq] at h
  subst h
  repeat' first | with_reducible rfl | with_reducible assumption | intro _ | simp only [State.bump_plansOf, State.countEgress_plansOf, State.dropRef_plansOf, State.enqueue_plansOf, State.spill_plansOf, plansOf_mk, plansOf_eta, Iter.state_done, Iter.state_fmt, Iter.state_trap, Whole.state_ran, Whole.state_stopped, Whole.state_denied] | split | with_reducible refine (foldl_plansOf _ ?_ _ _).trans ?_

@[simp] theorem State.streamStep_plansOf (s : State) (x1 : _) : (State.streamStep s x1).2.plansOf = s.plansOf := by
  unfold State.streamStep
  repeat' first | with_reducible rfl | with_reducible assumption | intro _ | simp only [State.draw_plansOf, plansOf_mk, plansOf_eta, Iter.state_done, Iter.state_fmt, Iter.state_trap, Whole.state_ran, Whole.state_stopped, Whole.state_denied] | split | with_reducible refine (foldl_plansOf _ ?_ _ _).trans ?_

@[simp] theorem State.ackStream_plansOf (s : State) (x1 : _) : (State.ackStream s x1).plansOf = s.plansOf := by
  unfold State.ackStream
  repeat' first | with_reducible rfl | with_reducible assumption | intro _ | simp only [State.sendAck_plansOf, State.streamStep_plansOf, plansOf_mk, plansOf_eta, Iter.state_done, Iter.state_fmt, Iter.state_trap, Whole.state_ran, Whole.state_stopped, Whole.state_denied] | split | with_reducible refine (foldl_plansOf _ ?_ _ _).trans ?_

@[simp] theorem State.transferDrop_plansOf (s : State) (x1 : _) : (State.transferDrop s x1).plansOf = s.plansOf := by
  unfold State.transferDrop
  repeat' first | with_reducible rfl | with_reducible assumption | intro _ | simp only [State.bump_plansOf, State.healFails_plansOf, State.resilverFails_plansOf, plansOf_mk, plansOf_eta, Iter.state_done, Iter.state_fmt, Iter.state_trap, Whole.state_ran, Whole.state_stopped, Whole.state_denied] | split | with_reducible refine (foldl_plansOf _ ?_ _ _).trans ?_

@[simp] theorem State.replayCell_plansOf (s : State) (x1 : _) (x2 : _) : (State.replayCell s x1 x2).plansOf = s.plansOf := by
  unfold State.replayCell
  repeat' first | with_reducible rfl | with_reducible assumption | intro _ | simp only [State.bump_plansOf, State.output_plansOf, State.spill_plansOf, plansOf_mk, plansOf_eta, Iter.state_done, Iter.state_fmt, Iter.state_trap, Whole.state_ran, Whole.state_stopped, Whole.state_denied] | split | with_reducible refine (foldl_plansOf _ ?_ _ _).trans ?_

@[simp] theorem State.gateCtl_plansOf (s : State) (x1 : _) (x2 : _) : (State.gateCtl s x1 x2).plansOf = s.plansOf := by
  unfold State.gateCtl
  repeat' first | with_reducible rfl | with_reducible assumption | intro _ | simp only [State.modSched_plansOf, State.raise_plansOf, State.wr_plansOf, plansOf_mk, plansOf_eta, Iter.state_done, Iter.state_fmt, Iter.state_trap, Whole.state_ran, Whole.state_stopped, Whole.state_denied] | split | with_reducible refine (foldl_plansOf _ ?_ _ _).trans ?_

theorem execGateCtlWrite_plansOf {s t : State} {x0 : Nat} {x1 : Sys2Proof.Word} (h : execGateCtlWrite x0 x1 s = .next t) : t.plansOf = s.plansOf := by
  simp only [execGateCtlWrite, Host.Outcome.next.injEq] at h
  subst h
  repeat' first | with_reducible rfl | with_reducible assumption | intro _ | simp only [State.gateCtl_plansOf, plansOf_mk, plansOf_eta, Iter.state_done, Iter.state_fmt, Iter.state_trap, Whole.state_ran, Whole.state_stopped, Whole.state_denied] | split | with_reducible refine (foldl_plansOf _ ?_ _ _).trans ?_

theorem execGateListActivate_plansOf {s t : State} {x0 : Nat} (h : execGateListActivate x0 s = .next t) : t.plansOf = s.plansOf := by
  simp only [execGateListActivate, Host.Outcome.next.injEq] at h
  subst h
  repeat' first | with_reducible rfl | with_reducible assumption | intro _ | simp only [State.modSched_plansOf, State.wr_plansOf, plansOf_mk, plansOf_eta, Iter.state_done, Iter.state_fmt, Iter.state_trap, Whole.state_ran, Whole.state_stopped, Whole.state_denied] | split | with_reducible refine (foldl_plansOf _ ?_ _ _).trans ?_

theorem execGateEntryBoundary_plansOf {s t : State} {x0 : Nat} (h : execGateEntryBoundary x0 s = .next t) : t.plansOf = s.plansOf := by
  simp only [execGateEntryBoundary, Host.Outcome.next.injEq] at h
  subst h
  repeat' first | with_reducible rfl | with_reducible assumption | intro _ | simp only [State.modSched_plansOf, plansOf_mk, plansOf_eta, Iter.state_done, Iter.state_fmt, Iter.state_trap, Whole.state_ran, Whole.state_stopped, Whole.state_denied] | split | with_reducible refine (foldl_plansOf _ ?_ _ _).trans ?_

@[simp] theorem State.chargeSelect_plansOf (s : State) (x1 : _) (x2 : _) (x3 : _) : (State.chargeSelect s x1 x2 x3).plansOf = s.plansOf := by
  unfold State.chargeSelect
  repeat' first | with_reducible rfl | with_reducible assumption | intro _ | simp only [State.modSched_plansOf, plansOf_mk, plansOf_eta, Iter.state_done, Iter.state_fmt, Iter.state_trap, Whole.state_ran, Whole.state_stopped, Whole.state_denied] | split | with_reducible refine (foldl_plansOf _ ?_ _ _).trans ?_

@[simp] theorem State.selectAux_plansOf (s : State) (x0 : _) (x1 : _) : (State.selectAux x0 x1 s).plansOf = s.plansOf := by
  induction x1 generalizing s with
  | zero => unfold State.selectAux; repeat' first | with_reducible rfl | with_reducible assumption | intro _ | simp only [State.bump_plansOf, State.chargeSelect_plansOf, State.dropRef_plansOf, State.modPort_plansOf, State.select_plansOf, State.setQueue_plansOf, State.tookCopy_plansOf, plansOf_mk, plansOf_eta, Iter.state_done, Iter.state_fmt, Iter.state_trap, Whole.state_ran, Whole.state_stopped, Whole.state_denied] | split | with_reducible refine (foldl_plansOf _ ?_ _ _).trans ?_
  | succ n ih =>
    unfold State.selectAux
    repeat' first | with_reducible rfl | with_reducible assumption | intro _ | simp only [ih, State.bump_plansOf, State.chargeSelect_plansOf, State.dropRef_plansOf, State.modPort_plansOf, State.select_plansOf, State.setQueue_plansOf, State.tookCopy_plansOf, plansOf_mk, plansOf_eta, Iter.state_done, Iter.state_fmt, Iter.state_trap, Whole.state_ran, Whole.state_stopped, Whole.state_denied] | split | with_reducible refine (foldl_plansOf _ ?_ _ _).trans ?_

@[simp] theorem State.holdMisfits_plansOf (s : State) (x1 : _) : (State.holdMisfits s x1).plansOf = s.plansOf := by
  unfold State.holdMisfits
  repeat' first | with_reducible rfl | with_reducible assumption | intro _ | simp only [State.modSched_plansOf, plansOf_mk, plansOf_eta, Iter.state_done, Iter.state_fmt, Iter.state_trap, Whole.state_ran, Whole.state_stopped, Whole.state_denied] | split | with_reducible refine (foldl_plansOf _ ?_ _ _).trans ?_

theorem execSchedulerSelect_plansOf {s t : State} {x0 : Nat} (h : execSchedulerSelect x0 s = .next t) : t.plansOf = s.plansOf := by
  simp only [execSchedulerSelect, Host.Outcome.next.injEq] at h
  subst h
  repeat' first | with_reducible rfl | with_reducible assumption | intro _ | simp only [State.admitBlocked_plansOf, State.holdMisfits_plansOf, State.selectAux_plansOf, plansOf_mk, plansOf_eta, Iter.state_done, Iter.state_fmt, Iter.state_trap, Whole.state_ran, Whole.state_stopped, Whole.state_denied] | split | with_reducible refine (foldl_plansOf _ ?_ _ _).trans ?_

theorem execRateWheelWake_plansOf {s t : State} {x0 : Nat} {x1 : Nat} (h : execRateWheelWake x0 x1 s = .next t) : t.plansOf = s.plansOf := by
  simp only [execRateWheelWake, Host.Outcome.next.injEq] at h
  subst h
  repeat' first | with_reducible rfl | with_reducible assumption | intro _ | simp only [State.modSched_plansOf, plansOf_mk, plansOf_eta, Iter.state_done, Iter.state_fmt, Iter.state_trap, Whole.state_ran, Whole.state_stopped, Whole.state_denied] | split | with_reducible refine (foldl_plansOf _ ?_ _ _).trans ?_

theorem execCellTransmit_plansOf {s t : State} {x0 : Nat} {x1 : Nat} (h : execCellTransmit x0 x1 s = .next t) : t.plansOf = s.plansOf := by
  simp only [execCellTransmit, Host.Outcome.next.injEq] at h
  subst h
  repeat' first | with_reducible rfl | with_reducible assumption | intro _ | simp only [State.admitBlocked_plansOf, State.dropRef_plansOf, State.endsLate_plansOf, State.modPort_plansOf, State.modSched_plansOf, State.sendData_plansOf, State.setWindow_plansOf, plansOf_mk, plansOf_eta, Iter.state_done, Iter.state_fmt, Iter.state_trap, Whole.state_ran, Whole.state_stopped, Whole.state_denied] | split | with_reducible refine (foldl_plansOf _ ?_ _ _).trans ?_

@[simp] theorem State.wipeCells_plansOf (s : State) : (State.wipeCells s).plansOf = s.plansOf := by
  unfold State.wipeCells
  repeat' first | with_reducible rfl | with_reducible assumption | intro _ | simp only [State.returnCredit_plansOf, plansOf_mk, plansOf_eta, Iter.state_done, Iter.state_fmt, Iter.state_trap, Whole.state_ran, Whole.state_stopped, Whole.state_denied] | split | with_reducible refine (foldl_plansOf _ ?_ _ _).trans ?_ | with_reducible refine (foldlB_plansOf _ ?_ _ _).trans ?_ | with_reducible refine (foldl1_plansOf _ ?_ _ _).trans ?_ | with_reducible refine (foldl2_plansOf _ ?_ _ _).trans ?_

@[simp] theorem State.emptyStreams_plansOf (s : State) : (State.emptyStreams s).plansOf = s.plansOf := by
  unfold State.emptyStreams
  repeat' first | with_reducible rfl | with_reducible assumption | intro _ | simp only [plansOf_mk, plansOf_eta, Iter.state_done, Iter.state_fmt, Iter.state_trap, Whole.state_ran, Whole.state_stopped, Whole.state_denied] | split | with_reducible refine (foldl_plansOf _ ?_ _ _).trans ?_

@[simp] theorem State.authFail_plansOf (s : State) (x1 : _) (x2 : _) : (State.authFail s x1 x2).plansOf = s.plansOf := by
  unfold State.authFail
  repeat' first | with_reducible rfl | with_reducible assumption | intro _ | simp only [State.bump_plansOf, State.fail_plansOf, State.raise_plansOf, plansOf_mk, plansOf_eta, Iter.state_done, Iter.state_fmt, Iter.state_trap, Whole.state_ran, Whole.state_stopped, Whole.state_denied] | split | with_reducible refine (foldl_plansOf _ ?_ _ _).trans ?_

@[simp] theorem State.burnConfig_plansOf (s : State) (x1 : _) (x2 : _) : (State.burnConfig s x1 x2).1.plansOf = s.plansOf := by
  unfold State.burnConfig
  repeat' first | with_reducible rfl | with_reducible assumption | intro _ | simp only [plansOf_mk, plansOf_eta, Iter.state_done, Iter.state_fmt, Iter.state_trap, Whole.state_ran, Whole.state_stopped, Whole.state_denied] | split | with_reducible refine (foldl_plansOf _ ?_ _ _).trans ?_

@[simp] theorem State.burnFail_plansOf (s : State) (x1 : _) (x2 : _) : (State.burnFail s x1 x2).plansOf = s.plansOf := by
  unfold State.burnFail
  repeat' first | with_reducible rfl | with_reducible assumption | intro _ | simp only [State.fail_plansOf, State.raise_plansOf, plansOf_mk, plansOf_eta, Iter.state_done, Iter.state_fmt, Iter.state_trap, Whole.state_ran, Whole.state_stopped, Whole.state_denied] | split | with_reducible refine (foldl_plansOf _ ?_ _ _).trans ?_

@[simp] theorem State.beforeBurn_plansOf (s : State) (x1 : _) (x2 : _) (x3 : _) : (State.beforeBurn s x1 x2 x3).1.plansOf = s.plansOf := by
  unfold State.beforeBurn
  repeat' first | with_reducible rfl | with_reducible assumption | intro _ | simp only [State.burnConfig_plansOf, State.draw_plansOf, plansOf_mk, plansOf_eta, Iter.state_done, Iter.state_fmt, Iter.state_trap, Whole.state_ran, Whole.state_stopped, Whole.state_denied] | split | with_reducible refine (foldl_plansOf _ ?_ _ _).trans ?_

@[simp] theorem State.afterBurn_plansOf (s : State) (x1 : _) : (State.afterBurn s x1).plansOf = s.plansOf := by
  unfold State.afterBurn
  repeat' first | with_reducible rfl | with_reducible assumption | intro _ | simp only [plansOf_mk, plansOf_eta, Iter.state_done, Iter.state_fmt, Iter.state_trap, Whole.state_ran, Whole.state_stopped, Whole.state_denied] | split | with_reducible refine (foldl_plansOf _ ?_ _ _).trans ?_

theorem execAttest_plansOf {s t : State} {x0 : Sys2Proof.Req} (h : execAttest x0 s = .next t) : t.plansOf = s.plansOf := by
  simp only [execAttest, Host.Outcome.next.injEq] at h
  subst h
  repeat' first | with_reducible rfl | with_reducible assumption | intro _ | simp only [State.answer_plansOf, State.draw_plansOf, State.fail_plansOf, plansOf_mk, plansOf_eta, Iter.state_done, Iter.state_fmt, Iter.state_trap, Whole.state_ran, Whole.state_stopped, Whole.state_denied] | split | with_reducible refine (foldl_plansOf _ ?_ _ _).trans ?_

@[simp] theorem State.fwRestart_plansOf (s : State) (x1 : _) : (State.fwRestart s x1).plansOf = s.plansOf := by
  unfold State.fwRestart
  repeat' first | with_reducible rfl | with_reducible assumption | intro _ | simp only [State.bump_plansOf, plansOf_mk, plansOf_eta, Iter.state_done, Iter.state_fmt, Iter.state_trap, Whole.state_ran, Whole.state_stopped, Whole.state_denied] | split | with_reducible refine (foldl_plansOf _ ?_ _ _).trans ?_

theorem execWatchdogExpire_plansOf {s t : State} {x0 : Sys2Proof.Byte} (h : execWatchdogExpire x0 s = .next t) : t.plansOf = s.plansOf := by
  simp only [execWatchdogExpire, Host.Outcome.next.injEq] at h
  subst h
  repeat' first | with_reducible rfl | with_reducible assumption | intro _ | simp only [State.fwRestart_plansOf, State.raise_plansOf, State.trace_plansOf, plansOf_mk, plansOf_eta, Iter.state_done, Iter.state_fmt, Iter.state_trap, Whole.state_ran, Whole.state_stopped, Whole.state_denied] | split | with_reducible refine (foldl_plansOf _ ?_ _ _).trans ?_

@[simp] theorem State.fwCtl_plansOf (s : State) (x1 : _) : (State.fwCtl s x1).plansOf = s.plansOf := by
  unfold State.fwCtl
  repeat' first | with_reducible rfl | with_reducible assumption | intro _ | simp only [State.fwRestart_plansOf, plansOf_mk, plansOf_eta, Iter.state_done, Iter.state_fmt, Iter.state_trap, Whole.state_ran, Whole.state_stopped, Whole.state_denied] | split | with_reducible refine (foldl_plansOf _ ?_ _ _).trans ?_

theorem execFwCtlRestart_plansOf {s t : State} {x0 : Sys2Proof.Word} (h : execFwCtlRestart x0 s = .next t) : t.plansOf = s.plansOf := by
  simp only [execFwCtlRestart, Host.Outcome.next.injEq] at h
  subst h
  repeat' first | with_reducible rfl | with_reducible assumption | intro _ | simp only [State.fwCtl_plansOf, plansOf_mk, plansOf_eta, Iter.state_done, Iter.state_fmt, Iter.state_trap, Whole.state_ran, Whole.state_stopped, Whole.state_denied] | split | with_reducible refine (foldl_plansOf _ ?_ _ _).trans ?_

@[simp] theorem State.traceStart_plansOf (s : State) (x1 : _) (x2 : _) : (State.traceStart s x1 x2).plansOf = s.plansOf := by
  unfold State.traceStart
  repeat' first | with_reducible rfl | with_reducible assumption | intro _ | simp only [State.trace_plansOf, plansOf_mk, plansOf_eta, Iter.state_done, Iter.state_fmt, Iter.state_trap, Whole.state_ran, Whole.state_stopped, Whole.state_denied] | split | with_reducible refine (foldl_plansOf _ ?_ _ _).trans ?_

@[simp] theorem State.dropImport_plansOf (s : State) (x1 : _) : (State.dropImport s x1).plansOf = s.plansOf := by
  unfold State.dropImport
  repeat' first | with_reducible rfl | with_reducible assumption | intro _ | simp only [State.draw_plansOf, State.putRange_plansOf, plansOf_mk, plansOf_eta, Iter.state_done, Iter.state_fmt, Iter.state_trap, Whole.state_ran, Whole.state_stopped, Whole.state_denied] | split | with_reducible refine (foldl_plansOf _ ?_ _ _).trans ?_

@[simp] theorem State.dropWipe_plansOf (s : State) : (State.dropWipe s).plansOf = s.plansOf := by
  unfold State.dropWipe
  repeat' first | with_reducible rfl | with_reducible assumption | intro _ | simp only [State.draw_plansOf, State.memClear_plansOf, plansOf_mk, plansOf_eta, Iter.state_done, Iter.state_fmt, Iter.state_trap, Whole.state_ran, Whole.state_stopped, Whole.state_denied] | split | with_reducible refine (foldl_plansOf _ ?_ _ _).trans ?_

@[simp] theorem State.abortRequest_plansOf (s : State) (x1 : _) : (State.abortRequest s x1).plansOf = s.plansOf := by
  unfold State.abortRequest
  repeat' first | with_reducible rfl | with_reducible assumption | intro _ | simp only [State.dropImport_plansOf, State.dropWipe_plansOf, State.fail_plansOf, State.resilverOver_plansOf, plansOf_mk, plansOf_eta, Iter.state_done, Iter.state_fmt, Iter.state_trap, Whole.state_ran, Whole.state_stopped, Whole.state_denied] | split | with_reducible refine (foldl_plansOf _ ?_ _ _).trans ?_ | with_reducible refine (foldlB_plansOf _ ?_ _ _).trans ?_ | with_reducible refine (foldl1_plansOf _ ?_ _ _).trans ?_ | with_reducible refine (foldl2_plansOf _ ?_ _ _).trans ?_

@[simp] theorem State.stagePassed_plansOf (s : State) (x1 : _) : (State.stagePassed s x1).plansOf = s.plansOf := by
  unfold State.stagePassed
  repeat' first | with_reducible rfl | with_reducible assumption | intro _ | simp only [State.trace_plansOf, plansOf_mk, plansOf_eta, Iter.state_done, Iter.state_fmt, Iter.state_trap, Whole.state_ran, Whole.state_stopped, Whole.state_denied] | split | with_reducible refine (foldl_plansOf _ ?_ _ _).trans ?_

@[simp] theorem State.stageFailed_plansOf (s : State) (x1 : _) : (State.stageFailed s x1).plansOf = s.plansOf := by
  unfold State.stageFailed
  repeat' first | with_reducible rfl | with_reducible assumption | intro _ | simp only [State.draw_plansOf, State.trace_plansOf, plansOf_mk, plansOf_eta, Iter.state_done, Iter.state_fmt, Iter.state_trap, Whole.state_ran, Whole.state_stopped, Whole.state_denied] | split | with_reducible refine (foldl_plansOf _ ?_ _ _).trans ?_

@[simp] theorem State.beginWrite_plansOf (s : State) (x1 : _) : (State.beginWrite s x1).plansOf = s.plansOf := by
  unfold State.beginWrite
  repeat' first | with_reducible rfl | with_reducible assumption | intro _ | simp only [State.stagePassed_plansOf, plansOf_mk, plansOf_eta, Iter.state_done, Iter.state_fmt, Iter.state_trap, Whole.state_ran, Whole.state_stopped, Whole.state_denied] | split | with_reducible refine (foldl_plansOf _ ?_ _ _).trans ?_

theorem execFwUpdate_plansOf {s t : State} {x0 : Sys2Proof.Req} {x1 : List Sys2Proof.Byte} {x2 : Sys2Proof.SigAnswer} (h : execFwUpdate x0 x1 x2 s = .next t) : t.plansOf = s.plansOf := by
  simp only [execFwUpdate, Host.Outcome.next.injEq] at h
  subst h
  repeat' first | with_reducible rfl | with_reducible assumption | intro _ | simp only [State.authFail_plansOf, State.beginWrite_plansOf, State.fail_plansOf, State.stageFailed_plansOf, State.stagePassed_plansOf, plansOf_mk, plansOf_eta, Iter.state_done, Iter.state_fmt, Iter.state_trap, Whole.state_ran, Whole.state_stopped, Whole.state_denied] | split | with_reducible refine (foldl_plansOf _ ?_ _ _).trans ?_

theorem execFwImageWritten_plansOf {s t : State} (h : execFwImageWritten s = .next t) : t.plansOf = s.plansOf := by
  simp only [execFwImageWritten, Host.Outcome.next.injEq] at h
  subst h
  repeat' first | with_reducible rfl | with_reducible assumption | intro _ | simp only [State.beginWrite_plansOf, State.stagePassed_plansOf, plansOf_mk, plansOf_eta, Iter.state_done, Iter.state_fmt, Iter.state_trap, Whole.state_ran, Whole.state_stopped, Whole.state_denied] | split | with_reducible refine (foldl_plansOf _ ?_ _ _).trans ?_

theorem execUpdateWaitTimeout_plansOf {s t : State} (h : execUpdateWaitTimeout s = .next t) : t.plansOf = s.plansOf := by
  simp only [execUpdateWaitTimeout, Host.Outcome.next.injEq] at h
  subst h
  repeat' first | with_reducible rfl | with_reducible assumption | intro _ | simp only [State.fail_plansOf, State.stageFailed_plansOf, plansOf_mk, plansOf_eta, Iter.state_done, Iter.state_fmt, Iter.state_trap, Whole.state_ran, Whole.state_stopped, Whole.state_denied] | split | with_reducible refine (foldl_plansOf _ ?_ _ _).trans ?_

@[simp] theorem State.takeOver_plansOf (s : State) (x1 : _) : (State.takeOver s x1).plansOf = s.plansOf := by
  unfold State.takeOver
  repeat' first | with_reducible rfl | with_reducible assumption | intro _ | simp only [State.ok_plansOf, State.stagePassed_plansOf, State.traceStart_plansOf, plansOf_mk, plansOf_eta, Iter.state_done, Iter.state_fmt, Iter.state_trap, Whole.state_ran, Whole.state_stopped, Whole.state_denied] | split | with_reducible refine (foldl_plansOf _ ?_ _ _).trans ?_

@[simp] theorem State.writeHandoff_plansOf (s : State) : (State.writeHandoff s).plansOf = s.plansOf := by
  unfold State.writeHandoff
  repeat' first | with_reducible rfl | with_reducible assumption | intro _ | simp only [State.memWrite_plansOf, plansOf_mk, plansOf_eta, Iter.state_done, Iter.state_fmt, Iter.state_trap, Whole.state_ran, Whole.state_stopped, Whole.state_denied] | split | with_reducible refine (foldl_plansOf _ ?_ _ _).trans ?_

theorem execFwHandoff_plansOf {s t : State} {x0 : Bool} (h : execFwHandoff x0 s = .next t) : t.plansOf = s.plansOf := by
  simp only [execFwHandoff, Host.Outcome.next.injEq] at h
  subst h
  repeat' first | with_reducible rfl | with_reducible assumption | intro _ | simp only [State.fail_plansOf, State.stageFailed_plansOf, State.stagePassed_plansOf, State.takeOver_plansOf, State.writeHandoff_plansOf, plansOf_mk, plansOf_eta, Iter.state_done, Iter.state_fmt, Iter.state_trap, Whole.state_ran, Whole.state_stopped, Whole.state_denied] | split | with_reducible refine (foldl_plansOf _ ?_ _ _).trans ?_

@[simp] theorem State.leaveLockstep_plansOf (s : State) (x1 : _) : (State.leaveLockstep s x1).plansOf = s.plansOf := by
  unfold State.leaveLockstep
  repeat' first | with_reducible rfl | with_reducible assumption | intro _ | simp only [State.bump_plansOf, State.raise_plansOf, plansOf_mk, plansOf_eta, Iter.state_done, Iter.state_fmt, Iter.state_trap, Whole.state_ran, Whole.state_stopped, Whole.state_denied] | split | with_reducible refine (foldl_plansOf _ ?_ _ _).trans ?_

@[simp] theorem State.modeWrite_plansOf (s : State) (x1 : _) : (State.modeWrite s x1).plansOf = s.plansOf := by
  unfold State.modeWrite
  repeat' first | with_reducible rfl | with_reducible assumption | intro _ | simp only [State.leaveLockstep_plansOf, plansOf_mk, plansOf_eta, Iter.state_done, Iter.state_fmt, Iter.state_trap, Whole.state_ran, Whole.state_stopped, Whole.state_denied] | split | with_reducible refine (foldl_plansOf _ ?_ _ _).trans ?_

theorem execLockstepRequest_plansOf {s t : State} {x0 : Sys2Proof.Word} (h : execLockstepRequest x0 s = .next t) : t.plansOf = s.plansOf := by
  simp only [execLockstepRequest, Host.Outcome.next.injEq] at h
  subst h
  repeat' first | with_reducible rfl | with_reducible assumption | intro _ | simp only [State.modeWrite_plansOf, plansOf_mk, plansOf_eta, Iter.state_done, Iter.state_fmt, Iter.state_trap, Whole.state_ran, Whole.state_stopped, Whole.state_denied] | split | with_reducible refine (foldl_plansOf _ ?_ _ _).trans ?_

theorem execLockstepEnter_plansOf {s t : State} (h : execLockstepEnter s = .next t) : t.plansOf = s.plansOf := by
  simp only [execLockstepEnter, Host.Outcome.next.injEq] at h
  subst h
  repeat' first | with_reducible rfl | with_reducible assumption | intro _ | simp only [State.raise_plansOf, plansOf_mk, plansOf_eta, Iter.state_done, Iter.state_fmt, Iter.state_trap, Whole.state_ran, Whole.state_stopped, Whole.state_denied] | split | with_reducible refine (foldl_plansOf _ ?_ _ _).trans ?_

theorem execClkLockLost_plansOf {s t : State} {x0 : BitVec 3} (h : execClkLockLost x0 s = .next t) : t.plansOf = s.plansOf := by
  simp only [execClkLockLost, Host.Outcome.next.injEq] at h
  subst h
  repeat' first | with_reducible rfl | with_reducible assumption | intro _ | simp only [State.leaveLockstep_plansOf, State.raise_plansOf, plansOf_mk, plansOf_eta, Iter.state_done, Iter.state_fmt, Iter.state_trap, Whole.state_ran, Whole.state_stopped, Whole.state_denied] | split | with_reducible refine (foldl_plansOf _ ?_ _ _).trans ?_

@[simp] theorem State.refclkBack_plansOf (s : State) (x1 : _) : (State.refclkBack s x1).plansOf = s.plansOf := by
  unfold State.refclkBack
  repeat' first | with_reducible rfl | with_reducible assumption | intro _ | simp only [State.modPort_plansOf, State.retrain_plansOf, plansOf_mk, plansOf_eta, Iter.state_done, Iter.state_fmt, Iter.state_trap, Whole.state_ran, Whole.state_stopped, Whole.state_denied] | split | with_reducible refine (foldl_plansOf _ ?_ _ _).trans ?_

theorem execLinkRefclkRestored_plansOf {s t : State} {x0 : Nat} (h : execLinkRefclkRestored x0 s = .next t) : t.plansOf = s.plansOf := by
  simp only [execLinkRefclkRestored, Host.Outcome.next.injEq] at h
  subst h
  repeat' first | with_reducible rfl | with_reducible assumption | intro _ | simp only [State.refclkBack_plansOf, plansOf_mk, plansOf_eta, Iter.state_done, Iter.state_fmt, Iter.state_trap, Whole.state_ran, Whole.state_stopped, Whole.state_denied] | split | with_reducible refine (foldl_plansOf _ ?_ _ _).trans ?_ | with_reducible refine (foldlB_plansOf _ ?_ _ _).trans ?_ | with_reducible refine (foldl1_plansOf _ ?_ _ _).trans ?_ | with_reducible refine (foldl2_plansOf _ ?_ _ _).trans ?_

theorem execXtalLost_plansOf {s t : State} (h : execXtalLost s = .next t) : t.plansOf = s.plansOf := by
  simp only [execXtalLost, Host.Outcome.next.injEq] at h
  subst h
  repeat' first | with_reducible rfl | with_reducible assumption | intro _ | simp only [State.raise_plansOf, plansOf_mk, plansOf_eta, Iter.state_done, Iter.state_fmt, Iter.state_trap, Whole.state_ran, Whole.state_stopped, Whole.state_denied] | split | with_reducible refine (foldl_plansOf _ ?_ _ _).trans ?_

@[simp] theorem State.dropUci_plansOf (s : State) : (State.dropUci s).plansOf = s.plansOf := by
  unfold State.dropUci
  repeat' first | with_reducible rfl | with_reducible assumption | intro _ | simp only [plansOf_mk, plansOf_eta, Iter.state_done, Iter.state_fmt, Iter.state_trap, Whole.state_ran, Whole.state_stopped, Whole.state_denied] | split | with_reducible refine (foldl_plansOf _ ?_ _ _).trans ?_

@[simp] theorem State.setUci_plansOf (s : State) (x1 : _) (x2 : _) : (State.setUci s x1 x2).plansOf = s.plansOf := by
  unfold State.setUci
  repeat' first | with_reducible rfl | with_reducible assumption | intro _ | simp only [State.raise_plansOf, plansOf_mk, plansOf_eta, Iter.state_done, Iter.state_fmt, Iter.state_trap, Whole.state_ran, Whole.state_stopped, Whole.state_denied] | split | with_reducible refine (foldl_plansOf _ ?_ _ _).trans ?_

theorem execUciDegraded_plansOf {s t : State} {x0 : Bool} (h : execUciDegraded x0 s = .next t) : t.plansOf = s.plansOf := by
  simp only [execUciDegraded, Host.Outcome.next.injEq] at h
  subst h
  repeat' first | with_reducible rfl | with_reducible assumption | intro _ | simp only [State.setUci_plansOf, plansOf_mk, plansOf_eta, Iter.state_done, Iter.state_fmt, Iter.state_trap, Whole.state_ran, Whole.state_stopped, Whole.state_denied] | split | with_reducible refine (foldl_plansOf _ ?_ _ _).trans ?_

theorem execThermWarn_plansOf {s t : State} {x0 : Sys2Proof.Byte} (h : execThermWarn x0 s = .next t) : t.plansOf = s.plansOf := by
  simp only [execThermWarn, Host.Outcome.next.injEq] at h
  subst h
  repeat' first | with_reducible rfl | with_reducible assumption | intro _ | simp only [State.raise_plansOf, plansOf_mk, plansOf_eta, Iter.state_done, Iter.state_fmt, Iter.state_trap, Whole.state_ran, Whole.state_stopped, Whole.state_denied] | split | with_reducible refine (foldl_plansOf _ ?_ _ _).trans ?_

theorem execThermWarnClear_plansOf {s t : State} {x0 : Sys2Proof.Byte} (h : execThermWarnClear x0 s = .next t) : t.plansOf = s.plansOf := by
  simp only [execThermWarnClear, Host.Outcome.next.injEq] at h
  subst h
  repeat' first | with_reducible rfl | with_reducible assumption | intro _ | simp only [plansOf_mk, plansOf_eta, Iter.state_done, Iter.state_fmt, Iter.state_trap, Whole.state_ran, Whole.state_stopped, Whole.state_denied] | split | with_reducible refine (foldl_plansOf _ ?_ _ _).trans ?_

theorem execVinHigh_plansOf {s t : State} {x0 : BitVec 16} (h : execVinHigh x0 s = .next t) : t.plansOf = s.plansOf := by
  simp only [execVinHigh, Host.Outcome.next.injEq] at h
  subst h
  repeat' first | with_reducible rfl | with_reducible assumption | intro _ | simp only [State.raise_plansOf, plansOf_mk, plansOf_eta, Iter.state_done, Iter.state_fmt, Iter.state_trap, Whole.state_ran, Whole.state_stopped, Whole.state_denied] | split | with_reducible refine (foldl_plansOf _ ?_ _ _).trans ?_

@[simp] theorem State.tearSave_plansOf (s : State) : (State.tearSave s).plansOf = s.plansOf := by
  unfold State.tearSave
  repeat' first | with_reducible rfl | with_reducible assumption | intro _ | simp only [State.draw_plansOf, plansOf_mk, plansOf_eta, Iter.state_done, Iter.state_fmt, Iter.state_trap, Whole.state_ran, Whole.state_stopped, Whole.state_denied] | split | with_reducible refine (foldl_plansOf _ ?_ _ _).trans ?_

@[simp] theorem State.readSaves_plansOf (s : State) : (State.readSaves s).plansOf = s.plansOf := by
  unfold State.readSaves
  repeat' first | with_reducible rfl | with_reducible assumption | intro _ | simp only [State.raise_plansOf, plansOf_mk, plansOf_eta, Iter.state_done, Iter.state_fmt, Iter.state_trap, Whole.state_ran, Whole.state_stopped, Whole.state_denied] | split | with_reducible refine (foldl_plansOf _ ?_ _ _).trans ?_

@[simp] theorem State.trip_plansOf (s : State) : (State.trip s).plansOf = s.plansOf := by
  unfold State.trip
  repeat' first | with_reducible rfl | with_reducible assumption | intro _ | simp only [State.dropUci_plansOf, plansOf_mk, plansOf_eta, Iter.state_done, Iter.state_fmt, Iter.state_trap, Whole.state_ran, Whole.state_stopped, Whole.state_denied] | split | with_reducible refine (foldl_plansOf _ ?_ _ _).trans ?_

@[simp] theorem State.tripOff_plansOf (s : State) : (State.tripOff s).plansOf = s.plansOf := by
  unfold State.tripOff
  repeat' first | with_reducible rfl | with_reducible assumption | intro _ | simp only [State.bump_plansOf, plansOf_mk, plansOf_eta, Iter.state_done, Iter.state_fmt, Iter.state_trap, Whole.state_ran, Whole.state_stopped, Whole.state_denied] | split | with_reducible refine (foldl_plansOf _ ?_ _ _).trans ?_

theorem execSupplyTrip_plansOf {s t : State} (h : execSupplyTrip s = .next t) : t.plansOf = s.plansOf := by
  simp only [execSupplyTrip, Host.Outcome.next.injEq] at h
  subst h
  repeat' first | with_reducible rfl | with_reducible assumption | intro _ | simp only [State.trip_plansOf, State.tripOff_plansOf, plansOf_mk, plansOf_eta, Iter.state_done, Iter.state_fmt, Iter.state_trap, Whole.state_ran, Whole.state_stopped, Whole.state_denied] | split | with_reducible refine (foldl_plansOf _ ?_ _ _).trans ?_

theorem execThermalTrip_plansOf {s t : State} {x0 : Bool} (h : execThermalTrip x0 s = .next t) : t.plansOf = s.plansOf := by
  simp only [execThermalTrip, Host.Outcome.next.injEq] at h
  subst h
  repeat' first | with_reducible rfl | with_reducible assumption | intro _ | simp only [State.bump_plansOf, State.raise_plansOf, State.trip_plansOf, State.tripOff_plansOf, plansOf_mk, plansOf_eta, Iter.state_done, Iter.state_fmt, Iter.state_trap, Whole.state_ran, Whole.state_stopped, Whole.state_denied] | split | with_reducible refine (foldl_plansOf _ ?_ _ _).trans ?_

theorem execMoonstoneSaveDone_plansOf {s t : State} (h : execMoonstoneSaveDone s = .next t) : t.plansOf = s.plansOf := by
  simp only [execMoonstoneSaveDone, Host.Outcome.next.injEq] at h
  subst h
  repeat' first | with_reducible rfl | with_reducible assumption | intro _ | simp only [State.bump_plansOf, plansOf_mk, plansOf_eta, Iter.state_done, Iter.state_fmt, Iter.state_trap, Whole.state_ran, Whole.state_stopped, Whole.state_denied] | split | with_reducible refine (foldl_plansOf _ ?_ _ _).trans ?_

theorem execPwrEnLow_plansOf {s t : State} (h : execPwrEnLow s = .next t) : t.plansOf = s.plansOf := by
  simp only [execPwrEnLow, Host.Outcome.next.injEq] at h
  subst h
  repeat' first | with_reducible rfl | with_reducible assumption | intro _ | simp only [State.dropUci_plansOf, plansOf_mk, plansOf_eta, Iter.state_done, Iter.state_fmt, Iter.state_trap, Whole.state_ran, Whole.state_stopped, Whole.state_denied] | split | with_reducible refine (foldl_plansOf _ ?_ _ _).trans ?_

theorem execInputFuseOpen_plansOf {s t : State} (h : execInputFuseOpen s = .next t) : t.plansOf = s.plansOf := by
  simp only [execInputFuseOpen, Host.Outcome.next.injEq] at h
  subst h
  repeat' first | with_reducible rfl | with_reducible assumption | intro _ | simp only [State.dropUci_plansOf, State.tearSave_plansOf, plansOf_mk, plansOf_eta, Iter.state_done, Iter.state_fmt, Iter.state_trap, Whole.state_ran, Whole.state_stopped, Whole.state_denied] | split | with_reducible refine (foldl_plansOf _ ?_ _ _).trans ?_

@[simp] theorem State.stageTo_plansOf (s : State) (x1 : _) : (State.stageTo s x1).plansOf = s.plansOf := by
  unfold State.stageTo
  repeat' first | with_reducible rfl | with_reducible assumption | intro _ | simp only [plansOf_mk, plansOf_eta, Iter.state_done, Iter.state_fmt, Iter.state_trap, Whole.state_ran, Whole.state_stopped, Whole.state_denied] | split | with_reducible refine (foldl_plansOf _ ?_ _ _).trans ?_

@[simp] theorem State.bringUpFails_plansOf (s : State) (x1 : _) : (State.bringUpFails s x1).plansOf = s.plansOf := by
  unfold State.bringUpFails
  repeat' first | with_reducible rfl | with_reducible assumption | intro _ | simp only [State.setUci_plansOf, plansOf_mk, plansOf_eta, Iter.state_done, Iter.state_fmt, Iter.state_trap, Whole.state_ran, Whole.state_stopped, Whole.state_denied] | split | with_reducible refine (foldl_plansOf _ ?_ _ _).trans ?_

@[simp] theorem State.stageAon_plansOf (s : State) (x1 : _) : (State.stageAon s x1).plansOf = s.plansOf := by
  unfold State.stageAon
  repeat' first | with_reducible rfl | with_reducible assumption | intro _ | simp only [State.bringUpFails_plansOf, State.raise_plansOf, State.stageTo_plansOf, plansOf_mk, plansOf_eta, Iter.state_done, Iter.state_fmt, Iter.state_trap, Whole.state_ran, Whole.state_stopped, Whole.state_denied] | split | with_reducible refine (foldl_plansOf _ ?_ _ _).trans ?_

@[simp] theorem State.stageAlign_plansOf (s : State) (x1 : _) : (State.stageAlign s x1).plansOf = s.plansOf := by
  unfold State.stageAlign
  repeat' first | with_reducible rfl | with_reducible assumption | intro _ | simp only [State.stageTo_plansOf, plansOf_mk, plansOf_eta, Iter.state_done, Iter.state_fmt, Iter.state_trap, Whole.state_ran, Whole.state_stopped, Whole.state_denied] | split | with_reducible refine (foldl_plansOf _ ?_ _ _).trans ?_

@[simp] theorem State.startFw_plansOf (s : State) (x1 : _) : (State.startFw s x1).plansOf = s.plansOf := by
  unfold State.startFw
  repeat' first | with_reducible rfl | with_reducible assumption | intro _ | simp only [State.stageTo_plansOf, State.traceStart_plansOf, plansOf_mk, plansOf_eta, Iter.state_done, Iter.state_fmt, Iter.state_trap, Whole.state_ran, Whole.state_stopped, Whole.state_denied] | split | with_reducible refine (foldl_plansOf _ ?_ _ _).trans ?_

@[simp] theorem State.bootKeys_plansOf (s : State) (x1 : _) : (State.bootKeys s x1).plansOf = s.plansOf := by
  unfold State.bootKeys
  repeat' first | with_reducible rfl | with_reducible assumption | intro _ | simp only [State.afterBurn_plansOf, State.raise_plansOf, plansOf_mk, plansOf_eta, Iter.state_done, Iter.state_fmt, Iter.state_trap, Whole.state_ran, Whole.state_stopped, Whole.state_denied] | split | with_reducible refine (foldl_plansOf _ ?_ _ _).trans ?_

@[simp] theorem State.stageBoot_plansOf (s : State) (x1 : _) : (State.stageBoot s x1).plansOf = s.plansOf := by
  unfold State.stageBoot
  repeat' first | with_reducible rfl | with_reducible assumption | intro _ | simp only [State.bootKeys_plansOf, State.bringUpFails_plansOf, State.bump_plansOf, State.raise_plansOf, State.startFw_plansOf, plansOf_mk, plansOf_eta, Iter.state_done, Iter.state_fmt, Iter.state_trap, Whole.state_ran, Whole.state_stopped, Whole.state_denied] | split | with_reducible refine (foldl_plansOf _ ?_ _ _).trans ?_

@[simp] theorem State.stageTrain_plansOf (s : State) (x1 : _) : (State.stageTrain s x1).plansOf = s.plansOf := by
  unfold State.stageTrain
  repeat' first | with_reducible rfl | with_reducible assumption | intro _ | simp only [State.bringUpFails_plansOf, State.raise_plansOf, State.readSaves_plansOf, State.stageTo_plansOf, plansOf_mk, plansOf_eta, Iter.state_done, Iter.state_fmt, Iter.state_trap, Whole.state_ran, Whole.state_stopped, Whole.state_denied] | split | with_reducible refine (foldl_plansOf _ ?_ _ _).trans ?_

@[simp] theorem State.stageUcie_plansOf (s : State) (x1 : _) : (State.stageUcie s x1).plansOf = s.plansOf := by
  unfold State.stageUcie
  repeat' first | with_reducible rfl | with_reducible assumption | intro _ | simp only [State.setUci_plansOf, State.stageTo_plansOf, State.startWipe_plansOf, plansOf_mk, plansOf_eta, Iter.state_done, Iter.state_fmt, Iter.state_trap, Whole.state_ran, Whole.state_stopped, Whole.state_denied] | split | with_reducible refine (foldl_plansOf _ ?_ _ _).trans ?_

@[simp] theorem State.ovfWrite_plansOf (s : State) (x1 : _) (x2 : _) : (State.ovfWrite s x1 x2).plansOf = s.plansOf := by
  unfold State.ovfWrite
  repeat' first | with_reducible rfl | with_reducible assumption | intro _ | simp only [State.clearCtr_plansOf, plansOf_mk, plansOf_eta, Iter.state_done, Iter.state_fmt, Iter.state_trap, Whole.state_ran, Whole.state_stopped, Whole.state_denied] | split | with_reducible refine (foldl_plansOf _ ?_ _ _).trans ?_ | with_reducible refine (foldlB_plansOf _ ?_ _ _).trans ?_ | with_reducible refine (foldl1_plansOf _ ?_ _ _).trans ?_ | with_reducible refine (foldl2_plansOf _ ?_ _ _).trans ?_

theorem State.lockOr_plansOf (s : State) (r : Reg) (a : Nat) (f : State → State) (h : ∀ t, (f t).plansOf = t.plansOf) : (s.lockOr r a f).plansOf = s.plansOf := by
  unfold State.lockOr
  split
  · simp only [State.raise_plansOf]
  · rw [h]; rfl

@[simp] theorem State.regionWrite_plansOf (s : State) (v : Word) : (s.regionWrite v).plansOf = s.plansOf := by
  unfold State.regionWrite
  refine State.lockOr_plansOf _ _ _ _ fun t => ?_
  repeat' first | with_reducible rfl | simp only [State.raise_plansOf, State.wr_plansOf, plansOf_mk, plansOf_eta] | split

@[simp] theorem State.pwrCfgWrite_plansOf (s : State) (x1 : _) : (State.pwrCfgWrite s x1).plansOf = s.plansOf := by
  unfold State.pwrCfgWrite
  repeat' first | with_reducible rfl | with_reducible assumption | intro _ | simp only [State.raise_plansOf, State.wr_plansOf, plansOf_mk, plansOf_eta, Iter.state_done, Iter.state_fmt, Iter.state_trap, Whole.state_ran, Whole.state_stopped, Whole.state_denied] | split | with_reducible refine (foldl_plansOf _ ?_ _ _).trans ?_

@[simp] theorem State.cmWrite_plansOf (s : State) (x1 : _) (x2 : _) : (State.cmWrite s x1 x2).plansOf = s.plansOf := by
  unfold State.cmWrite
  repeat' first | with_reducible rfl | with_reducible assumption | intro _ | simp only [State.raise_plansOf, State.wr_plansOf, plansOf_mk, plansOf_eta, Iter.state_done, Iter.state_fmt, Iter.state_trap, Whole.state_ran, Whole.state_stopped, Whole.state_denied] | split | with_reducible refine (foldl_plansOf _ ?_ _ _).trans ?_

@[simp] theorem State.evtRingReg_plansOf (s : State) (x1 : _) : (State.evtRingReg s x1).plansOf = s.plansOf := by
  unfold State.evtRingReg
  repeat' first | with_reducible rfl | with_reducible assumption | intro _ | simp only [State.raise_plansOf, State.wr_plansOf, plansOf_mk, plansOf_eta, Iter.state_done, Iter.state_fmt, Iter.state_trap, Whole.state_ran, Whole.state_stopped, Whole.state_denied] | split | with_reducible refine (foldl_plansOf _ ?_ _ _).trans ?_

@[simp] theorem State.trapWrite_plansOf (s : State) (x1 : _) : (State.trapWrite s x1).plansOf = s.plansOf := by
  unfold State.trapWrite
  repeat' first | with_reducible rfl | with_reducible assumption | intro _ | simp only [State.wr_plansOf, plansOf_mk, plansOf_eta, Iter.state_done, Iter.state_fmt, Iter.state_trap, Whole.state_ran, Whole.state_stopped, Whole.state_denied] | split | with_reducible refine (foldl_plansOf _ ?_ _ _).trans ?_

@[simp] theorem State.ueLogWrite_plansOf (s : State) (x1 : _) : (State.ueLogWrite s x1).plansOf = s.plansOf := by
  unfold State.ueLogWrite
  repeat' first | with_reducible rfl | with_reducible assumption | intro _ | simp only [plansOf_mk, plansOf_eta, Iter.state_done, Iter.state_fmt, Iter.state_trap, Whole.state_ran, Whole.state_stopped, Whole.state_denied] | split | with_reducible refine (foldl_plansOf _ ?_ _ _).trans ?_

@[simp] theorem State.alertWrite_plansOf (s : State) (x1 : _) : (State.alertWrite s x1).plansOf = s.plansOf := by
  unfold State.alertWrite
  repeat' first | with_reducible rfl | with_reducible assumption | intro _ | simp only [plansOf_mk, plansOf_eta, Iter.state_done, Iter.state_fmt, Iter.state_trap, Whole.state_ran, Whole.state_stopped, Whole.state_denied] | split | with_reducible refine (foldl_plansOf _ ?_ _ _).trans ?_

@[simp] theorem State.rateLifted_plansOf (s : State) (x1 : _) : (State.rateLifted s x1).plansOf = s.plansOf := by
  unfold State.rateLifted
  repeat' first | with_reducible rfl | with_reducible assumption | intro _ | simp only [State.modSched_plansOf, plansOf_mk, plansOf_eta, Iter.state_done, Iter.state_fmt, Iter.state_trap, Whole.state_ran, Whole.state_stopped, Whole.state_denied] | split | with_reducible refine (foldl_plansOf _ ?_ _ _).trans ?_

theorem execStewardRd_plansOf {s t : State} {x0 : List Sys2Proof.Byte} (h : execStewardRd x0 s = .next t) : t.plansOf = s.plansOf := by
  simp only [execStewardRd, Host.Outcome.next.injEq] at h
  subst h
  repeat' first | with_reducible rfl | with_reducible assumption | intro _ | simp only [State.bump_plansOf, State.emit_plansOf, plansOf_mk, plansOf_eta, Iter.state_done, Iter.state_fmt, Iter.state_trap, Whole.state_ran, Whole.state_stopped, Whole.state_denied] | split | with_reducible refine (foldl_plansOf _ ?_ _ _).trans ?_

theorem execFabricPosWrite_plansOf {s t : State} {x0 : Bool} {x1 : Sys2Proof.Word} (h : execFabricPosWrite x0 x1 s = .next t) : t.plansOf = s.plansOf := by
  simp only [execFabricPosWrite, Host.Outcome.next.injEq] at h
  subst h
  repeat' first | with_reducible rfl | with_reducible assumption | intro _ | simp only [State.placeWrite_plansOf, plansOf_mk, plansOf_eta, Iter.state_done, Iter.state_fmt, Iter.state_trap, Whole.state_ran, Whole.state_stopped, Whole.state_denied] | split | with_reducible refine (foldl_plansOf _ ?_ _ _).trans ?_

theorem execMemRegionSizeWrite_plansOf {s t : State} {x0 : Sys2Proof.Word} (h : execMemRegionSizeWrite x0 s = .next t) : t.plansOf = s.plansOf := by
  simp only [execMemRegionSizeWrite, Host.Outcome.next.injEq] at h
  subst h
  repeat' first | with_reducible rfl | with_reducible assumption | intro _ | simp only [State.regionWrite_plansOf, plansOf_mk, plansOf_eta, Iter.state_done, Iter.state_fmt, Iter.state_trap, Whole.state_ran, Whole.state_stopped, Whole.state_denied] | split | with_reducible refine (foldl_plansOf _ ?_ _ _).trans ?_

theorem execCounterOvfClear_plansOf {s t : State} {x0 : Nat} {x1 : Sys2Proof.Word} (h : execCounterOvfClear x0 x1 s = .next t) : t.plansOf = s.plansOf := by
  simp only [execCounterOvfClear, Host.Outcome.next.injEq] at h
  subst h
  repeat' first | with_reducible rfl | with_reducible assumption | intro _ | simp only [State.ovfWrite_plansOf, plansOf_mk, plansOf_eta, Iter.state_done, Iter.state_fmt, Iter.state_trap, Whole.state_ran, Whole.state_stopped, Whole.state_denied] | split | with_reducible refine (foldl_plansOf _ ?_ _ _).trans ?_

theorem execVeTrapClear_plansOf {s t : State} {x0 : Sys2Proof.Word} (h : execVeTrapClear x0 s = .next t) : t.plansOf = s.plansOf := by
  simp only [execVeTrapClear, Host.Outcome.next.injEq] at h
  subst h
  repeat' first | with_reducible rfl | with_reducible assumption | intro _ | simp only [State.trapWrite_plansOf, plansOf_mk, plansOf_eta, Iter.state_done, Iter.state_fmt, Iter.state_trap, Whole.state_ran, Whole.state_stopped, Whole.state_denied] | split | with_reducible refine (foldl_plansOf _ ?_ _ _).trans ?_

theorem execMemUeLogClear_plansOf {s t : State} {x0 : Sys2Proof.Word} (h : execMemUeLogClear x0 s = .next t) : t.plansOf = s.plansOf := by
  simp only [execMemUeLogClear, Host.Outcome.next.injEq] at h
  subst h
  repeat' first | with_reducible rfl | with_reducible assumption | intro _ | simp only [State.ueLogWrite_plansOf, plansOf_mk, plansOf_eta, Iter.state_done, Iter.state_fmt, Iter.state_trap, Whole.state_ran, Whole.state_stopped, Whole.state_denied] | split | with_reducible refine (foldl_plansOf _ ?_ _ _).trans ?_

theorem execAlertClear_plansOf {s t : State} {x0 : Sys2Proof.Word} (h : execAlertClear x0 s = .next t) : t.plansOf = s.plansOf := by
  simp only [execAlertClear, Host.Outcome.next.injEq] at h
  subst h
  repeat' first | with_reducible rfl | with_reducible assumption | intro _ | simp only [State.alertWrite_plansOf, plansOf_mk, plansOf_eta, Iter.state_done, Iter.state_fmt, Iter.state_trap, Whole.state_ran, Whole.state_stopped, Whole.state_denied] | split | with_reducible refine (foldl_plansOf _ ?_ _ _).trans ?_

theorem execCmConfigWrite_plansOf {s t : State} {x0 : Option Nat} {x1 : Sys2Proof.Word} (h : execCmConfigWrite x0 x1 s = .next t) : t.plansOf = s.plansOf := by
  simp only [execCmConfigWrite, Host.Outcome.next.injEq] at h
  subst h
  repeat' first | with_reducible rfl | with_reducible assumption | intro _ | simp only [State.cmWrite_plansOf, plansOf_mk, plansOf_eta, Iter.state_done, Iter.state_fmt, Iter.state_trap, Whole.state_ran, Whole.state_stopped, Whole.state_denied] | split | with_reducible refine (foldl_plansOf _ ?_ _ _).trans ?_

theorem execEvtRingWrite_plansOf {s t : State} {x0 : Sys2Proof.Word} (h : execEvtRingWrite x0 s = .next t) : t.plansOf = s.plansOf := by
  simp only [execEvtRingWrite, Host.Outcome.next.injEq] at h
  subst h
  repeat' first | with_reducible rfl | with_reducible assumption | intro _ | simp only [State.evtRingReg_plansOf, plansOf_mk, plansOf_eta, Iter.state_done, Iter.state_fmt, Iter.state_trap, Whole.state_ran, Whole.state_stopped, Whole.state_denied] | split | with_reducible refine (foldl_plansOf _ ?_ _ _).trans ?_

theorem execBmcRead_plansOf {s t : State} {x0 : Nat} {x1 : Nat} (h : execBmcRead x0 x1 s = .next t) : t.plansOf = s.plansOf := by
  simp only [execBmcRead, Host.Outcome.next.injEq] at h
  subst h
  repeat' first | with_reducible rfl | with_reducible assumption | intro _ | simp only [State.emit_plansOf, plansOf_mk, plansOf_eta, Iter.state_done, Iter.state_fmt, Iter.state_trap, Whole.state_ran, Whole.state_stopped, Whole.state_denied] | split | with_reducible refine (foldl_plansOf _ ?_ _ _).trans ?_

theorem execRefresh_plansOf {s t : State} {x0 : Nat} (h : execRefresh x0 s = .next t) : t.plansOf = s.plansOf := by
  simp only [execRefresh, Host.Outcome.next.injEq] at h
  subst h
  repeat' first | with_reducible rfl | with_reducible assumption | intro _ | simp only [State.bump_plansOf, plansOf_mk, plansOf_eta, Iter.state_done, Iter.state_fmt, Iter.state_trap, Whole.state_ran, Whole.state_stopped, Whole.state_denied] | split | with_reducible refine (foldl_plansOf _ ?_ _ _).trans ?_

theorem execRefreshStatusRead_plansOf {s t : State} {x0 : Nat} {x1 : Bool} (h : execRefreshStatusRead x0 x1 s = .next t) : t.plansOf = s.plansOf := by
  simp only [execRefreshStatusRead, Host.Outcome.next.injEq] at h
  subst h
  repeat' first | with_reducible rfl | with_reducible assumption | intro _ | simp only [State.leaveLockstep_plansOf, State.raise_plansOf, plansOf_mk, plansOf_eta, Iter.state_done, Iter.state_fmt, Iter.state_trap, Whole.state_ran, Whole.state_stopped, Whole.state_denied] | split | with_reducible refine (foldl_plansOf _ ?_ _ _).trans ?_

theorem execMemHotClear_plansOf {s t : State} (h : execMemHotClear s = .next t) : t.plansOf = s.plansOf := by
  simp only [execMemHotClear, Host.Outcome.next.injEq] at h
  subst h
  repeat' first | with_reducible rfl | with_reducible assumption | intro _ | simp only [State.raise_plansOf, plansOf_mk, plansOf_eta, Iter.state_done, Iter.state_fmt, Iter.state_trap, Whole.state_ran, Whole.state_stopped, Whole.state_denied] | split | with_reducible refine (foldl_plansOf _ ?_ _ _).trans ?_

theorem execEventRingEntryWrite_plansOf {s t : State} (h : execEventRingEntryWrite s = .next t) : t.plansOf = s.plansOf := by
  simp only [execEventRingEntryWrite, Host.Outcome.next.injEq] at h
  subst h
  repeat' first | with_reducible rfl | with_reducible assumption | intro _ | simp only [State.busWrite_plansOf, State.interrupt_plansOf, plansOf_mk, plansOf_eta, Iter.state_done, Iter.state_fmt, Iter.state_trap, Whole.state_ran, Whole.state_stopped, Whole.state_denied] | split | with_reducible refine (foldl_plansOf _ ?_ _ _).trans ?_

theorem execHealthSample_plansOf {s t : State} {x0 : Nat} {x1 : Sys2Proof.Measure} (h : execHealthSample x0 x1 s = .next t) : t.plansOf = s.plansOf := by
  simp only [execHealthSample, Host.Outcome.next.injEq] at h
  subst h
  repeat' first | with_reducible rfl | with_reducible assumption | intro _ | simp only [State.raise_plansOf, plansOf_mk, plansOf_eta, Iter.state_done, Iter.state_fmt, Iter.state_trap, Whole.state_ran, Whole.state_stopped, Whole.state_denied] | split | with_reducible refine (foldl_plansOf _ ?_ _ _).trans ?_

end Sys2Proof.Machine
end

