-- ==== Sys2Proof/Laws/Handoff.lean ====
section
/-!
SUPPORT. Laws/Handoff.lean: what the running image writes as its handoff record, an image of a fitting version accepts (19 R397 to R399).
-/
namespace Sys2Proof.Machine

open Sys2Proof

theorem leBytes_length (n v : Nat) : (leBytes n v).length = n := by
  induction n generalizing v with
  | zero => rfl
  | succ n ih => rw [leBytes, List.length_cons, ih]

theorem leNat_leBytes (n v : Nat) : leNat (leBytes n v) = v % 256 ^ n := by
  induction n generalizing v with
  | zero => simp [leBytes, leNat, Nat.mod_one]
  | succ n ih =>
    have hb : (BitVec.ofNat 8 v).toNat = v % 256 := by simp
    rw [leBytes, leNat, ih, hb, Nat.pow_succ', Nat.mod_mul (x := v)]

/-- A field between a head of its offset and anything else. -/
theorem leAt_append (a b : List Byte) (n v : Nat) : leAt (a ++ (leBytes n v ++ b)) a.length n = v % 256 ^ n := by
  unfold leAt slice
  rw [List.drop_left, List.take_left' (leBytes_length n v), leNat_leBytes]

theorem State.handoffBody_length (s : State) : s.handoffBody.length % 64 = 0 ∧ 64 + s.handoffBody.length ≤ 2 ^ 22 := by
  have h : ∀ b : List Byte, b.length ≤ 2 ^ 22 - 64 → (padTo (64 * ceilDiv b.length 64) b).length % 64 = 0 ∧
      64 + (padTo (64 * ceilDiv b.length 64) b).length ≤ 2 ^ 22 := by
    intro b hb
    simp only [padTo, zeros, List.length_append, List.length_replicate, ceilDiv]
    omega
  exact h _ (by rw [List.length_take]; omega)

theorem bits_lt (v lo n : Nat) : bits v lo n < 2 ^ n := Nat.mod_lt _ (Nat.two_pow_pos n)

/-- An image accepts the record that the running image writes where the running version's handoff number is its own or one of the two
before it. -/
theorem handoffOk_record (s : State) (image : List Byte) (h1 : hverOf s.fw.version.toNat ≤ hverOf (imageVersion image))
    (h2 : hverOf (imageVersion image) ≤ hverOf s.fw.version.toNat + 2) : handoffOk image s.handoffRecord = true := by
  obtain ⟨b1, b2⟩ := s.handoffBody_length
  have hv : hverOf s.fw.version.toNat < 2 ^ 16 := bits_lt _ _ _
  generalize hb : s.handoffBody = body at b1 b2
  unfold handoffOk State.handoffRecord
  rw [hb]
  dsimp only
  generalize hk : hverOf s.fw.version.toNat = k at h1 h2 hv
  generalize he : leBytes 4 (Config.handoffSections s.fw.version.toNat s.freeCount) ++ leBytes 8 s.fw.version.toNat ++ leBytes 8 s.beat
    ++ leBytes 8 s.fw.logSeq ++ leBytes 8 s.led.step ++ zeros 8 = e
  have le : e.length = 44 := by
    rw [← he]
    simp only [List.length_append, leBytes_length, zeros, List.length_replicate]
  have hh : [0x48, 0x4F, 0x46, 0x46] ++ leBytes 2 k ++ zeros 2 ++ leBytes 4 (64 + body.length)
      ++ leBytes 4 (Config.handoffSections s.fw.version.toNat s.freeCount) ++ leBytes 8 s.fw.version.toNat ++ leBytes 8 s.beat
      ++ leBytes 8 s.fw.logSeq ++ leBytes 8 s.led.step ++ zeros 8
      = [0x48, 0x4F, 0x46, 0x46] ++ leBytes 2 k ++ zeros 2 ++ leBytes 4 (64 + body.length) ++ e := by
    rw [← he]; simp only [List.append_assoc]
  rw [hh]
  clear hh he
  generalize hr : [0x48, 0x4F, 0x46, 0x46] ++ leBytes 2 k ++ zeros 2 ++ leBytes 4 (64 + body.length) ++ e = h
  have lh : h.length = 56 := by
    rw [← hr]
    simp only [List.length_append, leBytes_length, zeros, List.length_replicate, le, List.length_cons, List.length_nil]
  generalize hc : (crc64 (h ++ zeros 8 ++ body)).toNat = c
  have hc' : c < 2 ^ 64 := by rw [← hc]; exact BitVec.isLt _
  have a1 : (h ++ leBytes 8 c ++ body).take 4 = [0x48, 0x4F, 0x46, 0x46] := by
    rw [← hr]; simp
  have a2 : leAt (h ++ leBytes 8 c ++ body) 4 2 = k := by
    have := leAt_append [0x48, 0x4F, 0x46, 0x46] (zeros 2 ++ leBytes 4 (64 + body.length) ++ e ++ leBytes 8 c ++ body) 2 k
    rw [← hr]
    simp only [List.append_assoc] at this ⊢
    exact this.trans (Nat.mod_eq_of_lt hv)
  have a3 : leAt (h ++ leBytes 8 c ++ body) 8 4 = 64 + body.length := by
    have := leAt_append ([0x48, 0x4F, 0x46, 0x46] ++ leBytes 2 k ++ zeros 2) (e ++ leBytes 8 c ++ body) 4 (64 + body.length)
    rw [← hr]
    simp only [List.append_assoc] at this ⊢
    exact this.trans (Nat.mod_eq_of_lt (by omega))
  have a4 : leAt (h ++ leBytes 8 c ++ body) 56 8 = c := by
    have := leAt_append h body 8 c
    rw [lh] at this
    rw [List.append_assoc]
    exact this.trans (Nat.mod_eq_of_lt hc')
  have a5 : (h ++ leBytes 8 c ++ body).length = 64 + body.length := by
    simp only [List.length_append, lh, leBytes_length]
  have a6 : (h ++ leBytes 8 c ++ body).take 56 = h := by
    rw [List.append_assoc, List.take_left' lh]
  have a7 : (h ++ leBytes 8 c ++ body).drop 64 = body := by
    rw [List.drop_left' (by simp only [List.length_append, lh, leBytes_length])]
  simp only [a1, a2, a3, a4, a5, a6, a7, hc, Bool.and_eq_true, beq_iff_eq, decide_eq_true_eq]
  exact ⟨⟨⟨⟨⟨trivial, trivial⟩, by omega⟩, trivial⟩, h1⟩, h2⟩

end Sys2Proof.Machine
end

