-- ==== Sys2Proof/Laws/Messages.lean ====
section
/-!
SUPPORT. Laws/Messages.lean: a message that passes the shared checks reaches the meaning of its own type.
-/
namespace Sys2Proof.Machine

open Sys2Proof

/-- Past the checks that all messages but END share, `enter` hands the plan, the slot and the state to what follows. -/
theorem State.enter_of_accepted (s : State) (m : Msg) (p : Plan) (t : State) (k : Plan → Slot → State → State) (h : accepted s m p t) :
    s.enter m k = k p (t.slot m.hdl) t := by
  obtain ⟨h1, h2, h3, h4, rfl, h5, hw, h6, h7, h8, h9, h10, h11⟩ := h
  simp only [State.enter, h1, h2, h3, h4, h5, hw, h6, ← h7, ← h8, ← h10, h11]
  simp
  intro a b
  exact absurd (h9 a) b

end Sys2Proof.Machine
end

