-- ==== Sys2Proof/Laws/Otp.lean ====
section
/-!
SUPPORT. Laws/Otp.lean: what each function that writes the security state may do to OTP (20 R400).
-/
namespace Sys2Proof.Machine

open Sys2Proof

theorem bitsKept_refl (a : List Byte) : bitsKept a a := fun _ _ h => h

theorem bitsKept_trans {a b c : List Byte} (h : bitsKept a b) (k : bitsKept b c) : bitsKept a c := fun i j e => k i j (h i j e)

theorem bitsKept_set (l : List Byte) (n : Nat) : bitsKept l (l.set n 0xFF) := by
  intro i k h
  rw [List.getD_eq_getElem?_getD, List.getElem?_set] 
  by_cases e : n = i
  · subst e
    by_cases hl : n < l.length
    · simp only [↓reduceIte, hl, Option.getD_some]
      have hk : k < 8 := by
        by_contra hk
        rw [BitVec.getLsbD_of_ge _ _ (by omega)] at h
        cases h
      have : ∀ k < 8, (0xFF : Byte).getLsbD k = true := by decide
      exact this k hk
    · rw [List.getD_eq_default _ _ (by omega)] at h
      simp at h
  · simp only [e, ↓reduceIte]
    rwa [← List.getD_eq_getElem?_getD]

theorem bitsKept_burnBytes (st : List Nat) (b : Nat) (ix : List Nat) (l : List Byte) : bitsKept l (burnBytes st b ix l).1 := by
  unfold burnBytes
  have key : ∀ (ix : List Nat) (r : List Byte × Option Nat), bitsKept l r.1 →
      bitsKept l (ix.foldl (fun (r : List Byte × Option Nat) i =>
        match r.2 with
        | some _ => r
        | none => if st.contains (b + i) then (r.1, some (b + i)) else (r.1.set i 0xFF, none)) r).1 := by
    intro ix
    induction ix with
    | nil => exact fun _ h => h
    | cons i t ih =>
      intro r h
      refine ih _ ?_
      dsimp only
      split
      · exact h
      · split
        · exact h
        · exact bitsKept_trans h (bitsKept_set _ _)
  exact key ix (l, none) (bitsKept_refl l)

theorem burnOver_length (a b : List Byte) : (burnOver a b).length = b.length := by simp [burnOver]

theorem bitsKept_burnOver {a b : List Byte} (h : a.length ≤ b.length) : bitsKept a (burnOver a b) := by
  intro i k e
  by_cases hi : i < a.length
  · have hb : i < b.length := by omega
    rw [List.getD_eq_getElem _ _ (by rw [burnOver_length]; exact hb)]
    rw [List.getD_eq_getElem _ _ hi] at e
    simp [burnOver, hi, e]
  · rw [List.getD_eq_default _ _ (by omega)] at e
    simp at e

theorem bitsKept_ones (a : List Byte) : bitsKept a (List.replicate a.length 0xFF) := by
  intro i k e
  by_cases hi : i < a.length
  · rw [List.getD_eq_getElem _ _ (by simpa using hi), List.getElem_replicate]
    have hk : k < 8 := by
      by_contra hk
      rw [BitVec.getLsbD_of_ge _ _ (by omega)] at e
      cases e
    have : ∀ k < 8, (0xFF : Byte).getLsbD k = true := by decide
    exact this k hk
  · rw [List.getD_eq_default _ _ (by omega)] at e
    simp at e

theorem svnRaise_kept (f n : Nat) (v : BitVec 256) (k : Nat) (h : v.getLsbD k = true) : (svnRaise f n v).getLsbD k = true := by
  induction f generalizing v with
  | zero => exact h
  | succ f ih =>
    unfold svnRaise
    split
    · split
      · apply ih
        simp [h]
      · exact h
    · exact h

theorem otpKept_refl (x : Security) : otpKept x x :=
  ⟨rfl, rfl, bitsKept_refl _, bitsKept_refl _, bitsKept_refl _, fun _ => bitsKept_refl _, bitsKept_refl _, bitsKept_refl _, fun _ h => h⟩

theorem otpKept_trans {x y z : Security} (h : otpKept x y) (k : otpKept y z) : otpKept x z :=
  ⟨k.1.trans h.1, k.2.1.trans h.2.1, bitsKept_trans h.2.2.1 k.2.2.1, bitsKept_trans h.2.2.2.1 k.2.2.2.1,
    bitsKept_trans h.2.2.2.2.1 k.2.2.2.2.1, fun g => bitsKept_trans (h.2.2.2.2.2.1 g) (k.2.2.2.2.2.1 g),
    bitsKept_trans h.2.2.2.2.2.2.1 k.2.2.2.2.2.2.1, bitsKept_trans h.2.2.2.2.2.2.2.1 k.2.2.2.2.2.2.2.1,
    fun i e => k.2.2.2.2.2.2.2.2 i (h.2.2.2.2.2.2.2.2 i e)⟩

/-- What one function may do to OTP. -/
def otpStep (x y : Security) : Prop := otpSized x → otpSized y ∧ otpKept x y

theorem otpStep_refl (x : Security) : otpStep x x := fun h => ⟨h, otpKept_refl x⟩

theorem otpStep_trans {x y z : Security} (h : otpStep x y) (k : otpStep y z) : otpStep x z := fun a =>
  ⟨(k (h a).1).1, otpKept_trans (h a).2 (k (h a).1).2⟩

theorem otpStep_of_eq {x y : Security} (h : y = x) : otpStep x y := h ▸ otpStep_refl x

/-- Fields outside OTP change freely. -/
theorem otpStep_same {x y : Security} (h1 : y.serial = x.serial) (h2 : y.keySlots = x.keySlots) (h3 : y.lc = x.lc)
    (h4 : y.cfgUsed = x.cfgUsed) (h5 : y.revoke = x.revoke) (h6 : y.cfg = x.cfg) (h7 : y.devSeed = x.devSeed)
    (h8 : y.wrapKey = x.wrapKey) (h9 : y.svn = x.svn) : otpStep x y := by
  intro h
  obtain ⟨a, b, c, d⟩ := h
  refine ⟨⟨by rw [h6]; exact a, by rw [h6]; exact b, by rw [h7]; exact c, by rw [h8]; exact d⟩, h1, h2, ?_, ?_, ?_, ?_, ?_, ?_, ?_⟩
  · rw [h3]; exact bitsKept_refl _
  · rw [h4]; exact bitsKept_refl _
  · rw [h5]; exact bitsKept_refl _
  · intro g; rw [h6]; exact bitsKept_refl _
  · rw [h7]; exact bitsKept_refl _
  · rw [h8]; exact bitsKept_refl _
  · intro k; rw [h9]; exact id

/-- The security state of a state that keeps it. -/
theorem sec_kept {s t : State} (h : t.kept = s.kept) : t.sec = s.sec := congrArg (·.2.1) h

theorem otp_kept {s t : State} (h : t.kept = s.kept) : otpStep s.sec t.sec := otpStep_of_eq (sec_kept h)

theorem State.burnConfig_otp (s : State) (g : Nat) (b : List Byte) (hb : b.length = 128) : otpStep s.sec (s.burnConfig g b).1.sec := by
  intro h
  obtain ⟨h1, h2, h3, h4⟩ := h
  have hg : (s.sec.cfg.getD g []).length ≤ b.length := by
    by_cases e : g < s.sec.cfg.length
    · rw [List.getD_eq_getElem _ _ e, h2 _ (List.getElem_mem e)]
      omega
    · rw [List.getD_eq_default _ _ (by omega)]
      simp
  refine ⟨⟨by simpa [State.burnConfig] using h1, ?_, h3, h4⟩, rfl, rfl, bitsKept_refl _, bitsKept_burnBytes _ _ _ _, bitsKept_refl _, ?_,
    bitsKept_refl _, bitsKept_refl _, fun _ e => e⟩
  · intro c hc
    simp only [State.burnConfig] at hc
    rcases List.mem_or_eq_of_mem_set hc with m | m
    · exact h2 c m
    · rw [m, burnOver_length, hb]
  · intro n
    simp only [State.burnConfig]
    by_cases e : g = n
    · subst e
      by_cases hl : g < s.sec.cfg.length
      · have : (s.sec.cfg.set g (burnOver (s.sec.cfg.getD g []) b)).getD g [] = burnOver (s.sec.cfg.getD g []) b := by
          rw [List.getD_eq_getElem?_getD, List.getElem?_set]
          simp [hl]
        rw [this]
        exact bitsKept_burnOver hg
      · rw [List.getD_eq_default _ _ (by omega : s.sec.cfg.length ≤ g)]
        intro i k x
        simp at x
    · have : (s.sec.cfg.set g (burnOver (s.sec.cfg.getD g []) b)).getD n [] = s.sec.cfg.getD n [] := by
        rw [List.getD_eq_getElem?_getD, List.getElem?_set]
        simp [e]
      rw [this]
      exact bitsKept_refl _

theorem noiseBytes_length (d n : Nat) : (noiseBytes d n).length = n := by simp [noiseBytes]

theorem State.beforeBurn_otp (s : State) (a b : Nat) (r : Record) (hb : a = 0 ∧ b = 1 → r.block.length = 128) :
    otpStep s.sec (s.beforeBurn a b r).1.sec := by
  unfold State.beforeBurn
  split
  · rename_i e
    dsimp only
    refine otpStep_trans ?_ (State.burnConfig_otp _ 0 r.block (hb e))
    intro h
    obtain ⟨h1, h2, h3, h4⟩ := h
    refine ⟨⟨h1, h2, ?_, ?_⟩, rfl, rfl, bitsKept_refl _, bitsKept_refl _, bitsKept_refl _, fun _ => bitsKept_refl _, ?_, ?_, fun _ e => e⟩
    · simp [burnOver_length, noiseBytes_length]
    · simp [burnOver_length, noiseBytes_length]
    · exact bitsKept_burnOver (by simp only [noiseBytes_length]; exact h3.le)
    · exact bitsKept_burnOver (by rw [List.length_drop, noiseBytes_length]; exact h4.le)
  · split
    · exact otpStep_same rfl rfl rfl rfl rfl rfl rfl rfl rfl
    · exact otpStep_refl _

theorem State.afterBurn_otp (s : State) (b : Nat) : otpStep s.sec (s.afterBurn b).sec := by
  unfold State.afterBurn
  split
  · intro h
    obtain ⟨h1, h2, h3, h4⟩ := h
    refine ⟨⟨h1, h2, by simp, by simp⟩, rfl, rfl, bitsKept_refl _, bitsKept_refl _, bitsKept_refl _, fun _ => bitsKept_refl _, ?_, ?_, fun _ e => e⟩
    · have := bitsKept_ones s.sec.devSeed
      rwa [h3] at this
    · have := bitsKept_ones s.sec.wrapKey
      rwa [h4] at this
  · exact otpStep_refl _

theorem otp_lc (x : Security) (st : List Nat) (b : Nat) (ix : List Nat) : otpStep x { x with lc := (burnBytes st b ix x.lc).1 } := fun h =>
  ⟨h, rfl, rfl, bitsKept_burnBytes _ _ _ _, bitsKept_refl _, bitsKept_refl _, fun _ => bitsKept_refl _, bitsKept_refl _, bitsKept_refl _,
    fun _ e => e⟩

theorem otp_revoke (x : Security) (st : List Nat) (b : Nat) (ix : List Nat) :
    otpStep x { x with revoke := (burnBytes st b ix x.revoke).1 } := fun h =>
  ⟨h, rfl, rfl, bitsKept_refl _, bitsKept_refl _, bitsKept_burnBytes _ _ _ _, fun _ => bitsKept_refl _, bitsKept_refl _, bitsKept_refl _,
    fun _ e => e⟩

theorem ite_otp {x : Security} {c : Prop} [Decidable c] {a b : State} (h : c → otpStep x a.sec) (k : ¬c → otpStep x b.sec) :
    otpStep x (if c then a else b).sec := by
  split
  · exact h ‹_›
  · exact k ‹_›

theorem State.transition_otp (s : State) (rq : Req) (a b : Nat) (r : Record) (hb : a = 0 ∧ b = 1 → r.block.length = 128) :
    otpStep s.sec (s.transition rq a b r).sec := by
  have h1 := State.beforeBurn_otp s a b r hb
  unfold State.transition
  split
  · rename_i t off e
    rw [e] at h1
    exact otpStep_trans h1 (otp_kept (State.burnFail_kept t rq off))
  · rename_i t e
    rw [e] at h1
    dsimp only at h1
    have h2 := otp_lc t.sec t.sec.stuck 0x10 ((List.range (b - a)).map (a + ·))
    split
    · rename_i lc off e2
      rw [e2] at h2
      exact otpStep_trans h1 (otpStep_trans h2 (otp_kept (State.burnFail_kept { t with sec := { t.sec with lc := lc } } rq off)))
    · rename_i lc e2
      rw [e2] at h2
      refine otpStep_trans h1 (otpStep_trans h2 ?_)
      have h3 := State.afterBurn_otp ({ t with sec := { t.sec with lc := lc } } : State) b
      generalize ({ t with sec := { t.sec with lc := lc } } : State).afterBurn b = u at h3
      refine otpStep_trans h3 (otp_kept ?_)
      rw [State.raise_kept, State.answer_kept, State.lapisWipe_kept]

theorem State.maintain_otp (s : State) (rq : Req) (r : Record) (hb : r.config = true → r.block.length = 128) :
    otpStep s.sec (s.maintain rq r).sec := by
  unfold State.maintain
  have hr := otp_revoke s.sec s.sec.stuck 0x3C0 (if r.revoke then (List.range 4).filter (bitOf r.slots) else [])
  refine ite_otp (fun _ => otp_kept (State.fail_kept _ _ _ _)) fun _ => ?_
  refine ite_otp (fun _ => otp_kept (State.fail_kept _ _ _ _)) fun _ => ?_
  refine ite_otp (fun _ => otp_kept (State.fail_kept _ _ _ _)) fun _ => ?_
  refine ite_otp (fun _ => otp_kept (State.fail_kept _ _ _ _)) fun _ => ?_
  split
  · rename_i rv off e
    rw [e] at hr
    exact otpStep_trans hr (otp_kept (State.burnFail_kept { s with sec := { s.sec with revoke := rv } } rq off))
  · rename_i rv e
    rw [e] at hr
    refine otpStep_trans hr ?_
    split
    · rename_i g hc _
      have h2 := State.burnConfig_otp ({ s with sec := { s.sec with revoke := rv } } : State) g r.block (hb hc)
      dsimp only at h2 ⊢
      split
      · rename_i u off e2
        rw [e2] at h2
        exact otpStep_trans h2 (otp_kept (State.burnFail_kept u rq off))
      · rename_i u e2
        rw [e2] at h2
        exact otpStep_trans h2 (otp_kept ((State.ok_kept u.lapisWipe rq _ _).trans (State.lapisWipe_kept u)))
    · exact otp_kept (State.ok_kept { s with sec := { s.sec with revoke := rv } } rq _ _)

theorem State.signedRequest_otp (s : State) (rq : Req) (a b : Nat) (r : Record) (hb : r.config = true → r.block.length = 128) :
    otpStep s.sec (s.signedRequest rq a b r).sec := by
  unfold State.signedRequest
  split
  · exact State.maintain_otp s rq r hb
  split
  · exact otp_kept (State.fail_kept _ _ _ _)
  split
  · split
    · exact otp_kept (State.fail_kept _ _ _ _)
    rename_i hc
    split
    · exact otp_kept (State.fail_kept _ _ _ _)
    split
    · exact otp_kept (State.fail_kept _ _ _ _)
    split
    · exact otp_kept (State.fail_kept _ _ _ _)
    · exact State.transition_otp s rq a b r fun _ => hb (by simpa using hc)
  · rename_i h01
    split
    · exact otp_kept (State.fail_kept _ _ _ _)
    · exact State.transition_otp s rq a b r fun e => absurd e h01

theorem slice_length {l : List Byte} {o n : Nat} (h : o + n ≤ l.length) : (slice l o n).length = n := by
  simp only [slice, List.length_take, List.length_drop]
  omega

theorem State.signedCheck_form {s : State} {b : List Byte} {k : Nat} {f : Bool} {sig : SigAnswer} (h : s.signedCheck b k f sig = none) :
    f = true := by
  cases f
  · simp [State.signedCheck] at h
  · rfl

/-- A record that passes its checks and carries a configuration block carries all of it. -/
theorem State.recordCheck_block {s : State} {b : List Byte} {sig : SigAnswer} (h : s.recordCheck b sig = none)
    (hc : (recordOf b).config = true) : (recordOf b).block.length = 128 := by
  refine slice_length ?_
  simp only [State.recordCheck] at h
  split at h
  · cases h
  · rename_i e
    have f := State.signedCheck_form e
    simp only [Bool.and_eq_true, decide_eq_true_eq, hc, ↓reduceIte] at f
    exact f.2

theorem execLifecycle_otp {s t : State} {rq : Req} {rec : List Byte} {sig : SigAnswer} (h : execLifecycle rq rec sig s = .next t) :
    otpStep s.sec t.sec := by
  simp only [execLifecycle, Host.Outcome.next.injEq] at h
  subst h
  refine ite_otp (fun _ => otpStep_refl _) fun _ => ?_
  refine ite_otp (fun _ => otp_kept (State.fail_kept _ _ _ _)) fun _ => ?_
  refine ite_otp (fun _ => otp_kept (State.fail_kept _ _ _ _)) fun _ => ?_
  refine ite_otp (fun e => ?_) fun _ => ?_
  · refine ite_otp (fun _ => otp_kept (State.fail_kept _ _ _ _)) fun _ => ?_
    refine ite_otp (fun _ => otp_kept (State.fail_kept _ _ _ _)) fun _ => ?_
    refine ite_otp (fun _ => otp_kept (State.fail_kept _ _ _ _)) fun _ => ?_
    refine State.transition_otp _ _ _ _ _ fun x => ?_
    omega
  · split
    · exact otp_kept (State.authFail_kept _ _ _)
    · rename_i e
      refine ite_otp (fun _ => otp_kept (State.fail_kept _ _ _ _)) fun _ => ?_
      exact State.signedRequest_otp _ _ _ _ _ fun hc => State.recordCheck_block e hc

theorem Security.remember_otp (x : Security) : otpStep x x.remember := otpStep_same rfl rfl rfl rfl rfl rfl rfl rfl rfl

theorem Security.afterReset_otp (x : Security) : otpStep x x.afterReset := otpStep_same rfl rfl rfl rfl rfl rfl rfl rfl rfl

theorem State.takeOver_otp (s : State) (u : Update) : otpStep s.sec (s.takeOver u).sec := by
  refine otpStep_trans (y := ({ s.sec with m1 := sha384 (u.image.take 576), svn := svnRaise 256 (leAt u.image 16 2) s.sec.svn } : Security).remember) ?_ ?_
  · intro h
    exact ⟨h, rfl, rfl, bitsKept_refl _, bitsKept_refl _, bitsKept_refl _, fun _ => bitsKept_refl _, bitsKept_refl _, bitsKept_refl _,
      fun k e => svnRaise_kept _ _ _ k e⟩
  · refine otpStep_of_eq ?_
    unfold State.takeOver
    have h := fun (a : State) => sec_kept (State.ok_kept a u.rq (leBytes 8 (imageVersion u.image)) 0)
    rw [h]
    exact sec_kept ((State.stagePassed_kept _ _).trans (State.traceStart_kept _ _ _))

theorem execFwHandoff_otp {s t : State} {b : Bool} (h : execFwHandoff b s = .next t) : otpStep s.sec t.sec := by
  simp only [execFwHandoff, Host.Outcome.next.injEq] at h
  subst h
  split
  · exact otpStep_refl _
  · rename_i u _
    refine ite_otp (fun _ => otpStep_refl _) fun _ => ?_
    refine ite_otp (fun _ => ?_) fun _ => ?_
    · have e : ((s.stagePassed 5).writeHandoff.stagePassed 6).sec = s.sec :=
        sec_kept ((State.stagePassed_kept _ _).trans ((State.writeHandoff_kept _).trans (State.stagePassed_kept _ _)))
      rw [← e]
      exact State.takeOver_otp _ u
    · refine otpStep_of_eq ?_
      rw [sec_kept (State.fail_kept _ _ _ _)]
      exact sec_kept ((State.stageFailed_kept _ _).trans ((State.writeHandoff_kept _).trans (State.stagePassed_kept _ _)))

theorem State.moduleReset_otp (s : State) (n : Nat) : otpStep s.sec (s.moduleReset n).sec := Security.afterReset_otp s.sec

theorem State.coldReset_otp (s : State) (n : Nat) (b : Bool) : otpStep s.sec (s.coldReset n b).sec := Security.afterReset_otp s.sec

theorem State.resetCtl_otp (s : State) (v : Word) : otpStep s.sec (s.resetCtl v).sec := by
  unfold State.resetCtl
  refine ite_otp (fun _ => otp_kept (State.raise_kept _ _ _ _)) fun _ => ?_
  refine ite_otp (fun _ => State.moduleReset_otp _ _) fun _ => ?_
  exact ite_otp (fun _ => otp_kept (State.engineReset_kept _)) fun _ => otpStep_refl _

theorem execEngineReset_otp {s t : State} {v : Word} (h : execEngineReset v s = .next t) : otpStep s.sec t.sec := by
  simp only [execEngineReset, Host.Outcome.next.injEq] at h
  subst h
  exact ite_otp (fun _ => State.resetCtl_otp _ _) fun _ => otpStep_refl _

theorem execModuleReset_otp {s t : State} {c : ResetCause} (h : execModuleReset c s = .next t) : otpStep s.sec t.sec := by
  simp only [execModuleReset, Host.Outcome.next.injEq] at h
  subst h
  cases c
  · exact ite_otp (fun _ => otpStep_refl _) fun _ => State.moduleReset_otp _ _
  · exact ite_otp (fun _ => State.resetCtl_otp _ _) fun _ => otpStep_refl _
  · exact ite_otp (fun _ => otpStep_refl _) fun _ => State.moduleReset_otp _ _

theorem execSupplyRestored_otp {s t : State} (h : execSupplyRestored s = .next t) : otpStep s.sec t.sec := by
  simp only [execSupplyRestored, Host.Outcome.next.injEq] at h
  subst h
  exact ite_otp (fun _ => otpStep_refl _) fun _ => State.moduleReset_otp _ _

theorem execColdReset_otp {s t : State} {c : ColdCause} (h : execColdReset c s = .next t) : otpStep s.sec t.sec := by
  simp only [execColdReset, Host.Outcome.next.injEq] at h
  subst h
  have e := sec_kept (State.tearSave_kept s)
  cases c
  · rw [← e]
    exact State.coldReset_otp _ _ _
  · refine ite_otp (fun _ => otpStep_refl _) fun _ => ?_
    rw [← e]
    exact State.coldReset_otp _ _ _

theorem otp_sec {s t : State} (h : t.kept.2.1 = s.kept.2.1) : otpStep s.sec t.sec := otpStep_of_eq h

theorem State.writeReg_otp (s : State) (a : Nat) (v : Word) : otpStep s.sec (s.writeReg a v).sec := by
  unfold State.writeReg
  split
  · exact otp_kept ((State.rateLifted_kept _ _).trans (State.wr_kept _ _ _))
  · split
    · exact otp_kept (State.gateCtl_kept _ _ _)
    · exact otp_kept (State.cmWrite_kept _ _ _)
    · exact otp_kept (State.ringWrite_kept _ _ _)
    · exact ite_otp (fun _ => otp_kept (State.sqBell_kept _ _ _)) fun _ => otp_kept (State.cqBell_kept _ _ _)
    · exact otp_kept (State.msiWrite_kept _ _ _)
    · split
      · exact otp_sec (State.placeWrite_sec _ _ _)
      · exact otp_sec (State.placeWrite_sec _ _ _)
      · exact otp_kept (State.cmWrite_kept _ _ _)
      · exact otp_kept (State.trapWrite_kept _ _)
      · exact otp_sec (State.regionWrite_sec _ _)
      · exact otp_kept (State.ueLogWrite_kept _ _)
      · exact otp_kept (State.fwCtl_kept _ _)
      · exact otp_sec (State.pwrCfgWrite_sec _ _)
      · exact otp_kept (State.alertWrite_kept _ _)
      · exact State.resetCtl_otp _ _
      · exact otp_sec (State.modeWrite_sec _ _)
      · exact otp_kept (State.evtRingReg_kept _ _)
      · exact otp_kept (State.ovfWrite_kept _ _ _)

theorem execRegisterWrite_otp {s t : State} {a d : List Byte} (h : execRegisterWrite a d s = .next t) : otpStep s.sec t.sec := by
  simp only [execRegisterWrite, Host.Outcome.next.injEq] at h
  subst h
  refine ite_otp (fun _ => otpStep_refl _) fun _ => ?_
  refine ite_otp (fun _ => ?_) fun _ => otp_kept (State.bump_kept _ _ _)
  exact State.writeReg_otp _ _ _

theorem execFwRestartDone_otp {s t : State} (h : execFwRestartDone s = .next t) : otpStep s.sec t.sec := by
  simp only [execFwRestartDone, Host.Outcome.next.injEq] at h
  subst h
  refine ite_otp (fun _ => otpStep_refl _) fun _ => ?_
  refine ite_otp (fun _ => otp_kept (State.raise_kept _ _ _ _)) fun _ => ?_
  refine otpStep_trans (Security.remember_otp s.sec) (otpStep_of_eq ?_)
  rw [sec_kept (State.catchUp_kept _)]
  refine (sec_kept (foldl_kept _ (fun t r => State.abortRequest_kept t r) _ _)).trans ?_
  exact sec_kept (State.traceStart_kept _ _ _)

theorem State.bringUpFails_otp (s : State) (r : StageReport) : otpStep s.sec (s.bringUpFails r).sec := otp_kept (State.bringUpFails_kept _ _)

theorem State.stageAon_otp (s : State) (r : StageReport) : otpStep s.sec (s.stageAon r).sec := by
  refine otpStep_trans (y := { s.sec with loaded := true, cfgGen := s.sec.active }) (otpStep_same rfl rfl rfl rfl rfl rfl rfl rfl rfl) ?_
  unfold State.stageAon
  refine ite_otp (fun _ => otpStep_of_eq ?_) fun _ => otpStep_of_eq ?_
  · rw [sec_kept (State.bringUpFails_kept _ _), sec_kept (State.raise_kept _ _ _ _)]
    split
    · rw [sec_kept (State.raise_kept _ _ _ _)]
    · rfl
  · rw [sec_kept (State.stageTo_kept _ _)]
    split
    · rw [sec_kept (State.raise_kept _ _ _ _)]
    · rfl

theorem State.startFw_otp (s : State) (b : List Byte) : otpStep s.sec (s.startFw b).sec := by
  refine otpStep_trans (y := ({ s.sec with m1 := sha384 (b.take 576), bootSlot := s.fw.active } : Security).remember)
    (otpStep_same rfl rfl rfl rfl rfl rfl rfl rfl rfl) (otpStep_of_eq ?_)
  unfold State.startFw
  rw [sec_kept (State.stageTo_kept _ _)]
  exact sec_kept (State.traceStart_kept _ _ _)

theorem State.bootKeys_otp (s : State) (r : StageReport) : otpStep s.sec (s.bootKeys r).sec := by
  refine otpStep_trans (State.afterBurn_otp s s.lifeCycle) ?_
  unfold State.bootKeys
  generalize s.afterBurn s.lifeCycle = t
  refine otpStep_trans (y := { t.sec with devkeyOk := r.unwrapOk && !t.sec.wrapped.isEmpty }) (otpStep_same rfl rfl rfl rfl rfl rfl rfl rfl rfl) ?_
  exact ite_otp (fun _ => otpStep_of_eq (sec_kept (State.raise_kept _ _ _ _))) fun _ => otpStep_refl _

theorem State.stageBoot_otp (s : State) (r : StageReport) : otpStep s.sec (s.stageBoot r).sec := by
  refine otpStep_trans (State.bootKeys_otp s r) ?_
  unfold State.stageBoot
  generalize s.bootKeys r = t
  dsimp only
  split
  · exact State.startFw_otp _ _
  · rename_i d _
    have e := sec_kept (State.bump_kept t .secAuthFail 1)
    refine ite_otp (fun _ => otp_kept ?_) fun _ => ?_
    · rw [State.bringUpFails_kept, State.raise_kept, State.bump_kept]
    · split
      · refine otp_kept ?_
        rw [State.bringUpFails_kept, State.raise_kept, State.bump_kept, State.bump_kept]
      · refine otpStep_trans ?_ (State.startFw_otp _ _)
        refine otpStep_trans (y := { (t.bump .secAuthFail).sec with fallback := true }) ?_ (otpStep_of_eq (sec_kept (State.raise_kept _ _ _ _)))
        rw [e]
        exact otpStep_same rfl rfl rfl rfl rfl rfl rfl rfl rfl

theorem execBringUpStageDone_otp {s t : State} {r : StageReport} (h : execBringUpStageDone r s = .next t) : otpStep s.sec t.sec := by
  simp only [execBringUpStageDone, Host.Outcome.next.injEq] at h
  subst h
  refine ite_otp (fun _ => otpStep_refl _) fun _ => ?_
  split
  · exact State.stageAon_otp _ _
  · exact ite_otp (fun _ => otp_kept (State.stageTo_kept _ _)) fun _ => otpStep_refl _
  · exact ite_otp (fun _ => otp_sec (State.stageAlign_sec _ _)) fun _ => otpStep_refl _
  · exact State.stageBoot_otp _ _
  · exact otp_kept (State.stageTrain_kept _ _)
  · exact otp_kept (State.stageTo_kept _ _)
  · exact otp_kept (State.stageUcie_kept _ _)
  · exact otp_kept (State.stageReady_kept _)
  · exact otpStep_refl _

end Sys2Proof.Machine
end

