-- ==== Sys2Proof/WellFormed.lean ====
section
/-!
DEFINITION. WellFormed.lean: the ranges that the spec gives a command's operands. exec is total on all commands; a command
that is not well-formed is one that no sender of the spec can send.
-/
namespace Sys2Proof

/-- A logical port (12 R268). -/
def portOk (p : Nat) : Bool := decide (p < 48)

/-- A fetched entry: one of the 16 submission rings, 28 argument bytes, 32-bit lengths (18 R384). -/
def Req.wf (r : Req) : Bool :=
  decide (r.sq < 16) && r.args.length == 28 && decide (r.pbytes < 2 ^ 32) && decide (r.rbytes < 2 ^ 32)

/-- A head holds a 64-bit STEP, 32-bit CHUNK, ELEMS, LATE and LAYER (04 R82). -/
def Head.wf (h : Head) : Bool :=
  decide (h.step < 2 ^ 64) && decide (h.chunk < 2 ^ 32) && decide (h.elems < 2 ^ 32) && decide (h.late < 2 ^ 32)
  && decide (h.layer < 2 ^ 32)

def Msg.wf (m : Msg) : Bool := m.head.wf

def MirrorMsg.wf (m : MirrorMsg) : Bool :=
  decide (m.step < 2 ^ 64) && decide (m.chunk < 2 ^ 32) && decide (m.elems < 2 ^ 32) && decide (m.offset < 2 ^ 64)

def WriteMsg.wf (m : WriteMsg) : Bool :=
  decide (m.handle < 65536) && decide (m.elems < 2 ^ 32) && decide (m.step < 2 ^ 64) && decide (m.start < 2 ^ 64)

/-- A granule reference: a 64-bit generation and offset (12 R283). -/
def GranuleRef.wf (r : GranuleRef) : Bool := decide (r.gen < 2 ^ 64) && decide (r.offset < 2 ^ 64)

/-- A symbol of a stored unit: 132 symbols of 16 bits (11 R255). -/
def symbolsOk (l : List (Nat × BitVec 16)) : Bool := l.all fun e => decide (e.1 < 132)

def stepOk (n : Nat) : Bool := decide (n < 2 ^ 64)

/-- Operands in their ranges. -/
def Instr.wf : Instr → Bool
  | .sqDoorbell ring _ => decide (ring < 16)
  | .cqDoorbell ring _ => decide (16 ≤ ring) && decide (ring < 32)
  | .ringConfigWrite ring _ => decide (ring < 32)
  | .msiUnmask vec _ => decide (vec < 64)
  | .sqEntryFetch ring entry => decide (ring < 16) && entry.length == 64
  | .planInstall rq _ | .planRemove rq | .membershipSet rq _ | .stateDefine rq _ | .stateImport rq _ | .stateExport rq
  | .ledgerQuery rq | .rollback rq | .fence rq | .resilver rq _ | .fwUpdate rq _ _ | .attest rq | .telemetrySnapshot rq
  | .portConfig rq | .gateConfig rq _ | .meterConfig rq | .logConfig rq _ | .wipe rq | .lifecycle rq _ _ | .abort rq => rq.wf
  | .stateExportDone _ | .stateImportDone _ | .resilverCopyDone | .fwImageWritten | .fwHandoff _ | .wipeDone => true
  | .stewardRd header => header.length == 16
  | .bmcRead offset _ => decide (offset < 2 ^ 24)
  | .registerWrite header _ => header.length == 16
  | .fabricPosWrite _ _ | .memRegionSizeWrite _ | .veTrapClear _ | .memUeLogClear _ | .alertClear _ | .lockstepRequest _
  | .lockstepEnter | .evtRingWrite _ | .fwCtlRestart _ => true
  | .counterOvfClear addr _ => decide (addr < 2 ^ 24) && addr % 8 == 0
  | .gateCtlWrite port _ | .gateListActivate port | .gateEntryBoundary port => portOk port
  | .cmConfigWrite cls _ => decide (cls.getD 0 < 7)
  | .engineReset _ | .moduleReset _ | .coldReset _ | .bringUpStageDone _ | .supplyTrip | .moonstoneSaveDone
  | .supplyRestored | .vinHigh _ | .thermalTrip _ | .thermWarn _ | .clkLockLost _ | .xtalLost | .uciDegraded _ => true
  | .linkRefclkLost quadrant | .linkRefclkRestored quadrant => decide (quadrant < 4)
  | .dataFrameReceive port frame => portOk port && frame.length == 260
  | .controlFrameReceive port frame => portOk port && frame.length == 260
  | .linkAckTimeout port | .controlSlotLoss port | .linkTrainFail port | .portDown port | .portRetrainTimer port => portOk port
  | .laneFail phys lane => decide (phys < 24) && decide (lane < 8)
  | .portUp port _ => portOk port
  | .cellReceive port bytes => portOk port && bytes.length == 256
  | .adaptiveEgressChoice ptr => decide (ptr < 524288)
  | .schedulerSelect port | .cellTransmit port _ => portOk port
  | .rateWheelWake port cls => portOk port && decide (1 ≤ cls) && decide (cls ≤ 5)
  | .localCellDeliver ep cls => decide (ep < 16) && decide (cls < 7)
  | .nakTimer _ _ | .probeTimer _ _ => true
  | .ackReceive _ _ _ credits step => decide (credits ≤ 16) && stepOk step
  | .nakReceive _ _ step ranges => stepOk step && decide (1 ≤ ranges.length) && decide (ranges.length ≤ 8)
      && ranges.all fun r => decide (r.1 < 2 ^ 24) && decide (1 ≤ r.2) && decide (r.2 ≤ 2 ^ 23)
  | .launch _ _ step _ _ => stepOk step
  | .heartbeatSend port | .heartbeatMiss port | .twinHbSend port => portOk port
  | .heartbeat port step count _ => portOk port && stepOk step && decide (count < 2 ^ 32)
  | .stepEnd port step _ => portOk port && stepOk step
  | .twinHb port step count _ => portOk port && stepOk step && decide (count < 2 ^ 32)
  | .twinSilent | .twinBWaitEnd => true
  | .silence step _ => stepOk step
  | .fenceNotice _ _ _ _ beat => stepOk beat
  | .fenceBumpDeferred _ => true
  | .admitNotice _ _ _ gen => decide (gen < 2 ^ 32)
  | .linkNotice _ _ dim _ _ beat => decide (dim < 3) && stepOk beat
  | .digest step _ _ | .digestSend step => stepOk step
  | .commitNotice step record => stepOk step && record.length == 64
  | .normResult _ _ step => stepOk step
  | .healRequest _ tag ref => decide (1 ≤ tag) && decide (tag < 256) && ref.wf
  | .healRequestTimeout => true
  | .healFail ref _ | .healData ref _ | .granuleReceive ref _ => ref.wf
  | .controlRecordReceive gen _ => stepOk gen
  | .contribReceive m | .expsReceive m | .maxeReceive m | .psumReceive m | .resultReceive m | .gatherReceive m | .endReceive m =>
      m.wf
  | .exchReceive m src dst => m.wf && decide (src < 16384) && decide (dst < 16384)
  | .expsSend _ chunk | .psumSend _ chunk | .foldResultForm _ chunk => decide (chunk < 2 ^ 32)
  | .mirrorReceive m => m.wf
  | .rugUpdate _ chunk upsets => decide (chunk < 2 ^ 32) && upsets.all fun u => symbolsOk u.symbols
  | .normPassStart normPlan step => decide (normPlan < 4096) && stepOk step
  | .carry | .commitOnReady => true
  | .writeMessageReceive m => m.wf
  | .queueContextStart | .healStart | .memHotClear | .fwRestartDone | .eventRingEntryWrite | .pwrEnLow | .inputFuseOpen
  | .updateWaitTimeout => true
  | .opIssue _ qid | .opIterationDone _ qid => decide (qid < 16)
  | .waitCycle _ | .spaccPass2 _ => true
  | .refresh channel => decide (channel < 192)
  | .refreshStatusRead package _ => decide (package < 24)
  | .patrolScrub channel symbols => decide (channel < 192) && symbolsOk symbols
  | .watchdogExpire cores => cores != 0
  | .healthSample component _ => decide (component < 256)
  | .thermWarnClear _ => true

end Sys2Proof
end

