-- ==== Sys2Proof/Tests/Slice0.lean ====
section
/-!
SUPPORT. Tests/Slice0.lean: ill-formed operands are refused, the spec's worked examples, and for every clause of an obligation
that has hypotheses a state and operands that meet them all.
-/
set_option linter.unusedVariables false
set_option maxRecDepth 100000
set_option Elab.async false

namespace Sys2Proof.Tests

open Sys2Proof Sys2Proof.Machine

/-! ### Small states -/

/-- A module of FIELD that has come up: OV-PD24M-A, 0x0010 of plane A at (0, 0, 0) of a 2 × 1 × 1 torus, memory of 1 GiB PLAN,
16 GiB SPILL, 1 GiB KV and 1 GiB banks, window 0 over every steward address. -/
def ready : State := { State.reset with
  regs := [(.rtFabricPos, 0x10#64), (.rtTorusDim, BitVec.ofNat 64 (2 + 2 ^ 16 + 2 ^ 32)),
    (.memRegionSize, BitVec.ofNat 64 (1 + 16 * 2 ^ 12 + 2 ^ 24 + 2 ^ 36)), (.uciWindow 0, BitVec.ofNat 64 (0x1FFFFFF * 2 ^ 36))]
  locked := [.rtFabricPos, .rtTorusDim, .memRegionSize]
  clk := { Clock.reset with aligned := true, sysPresent := true, links := 15, locks := 7, xtal := true }
  pwr := { Power.reset with stage := 9, ready := true, good := true }
  sec := { Security.reset with loaded := true, cfgGen := some 0, devkeyOk := true }
  fw := { Firmware.reset with state := .running, cores := 0xFF, version := BitVec.ofNat 64 (imageVersion specimenImage) }
  uci := ⟨true, true, true, [], []⟩
  mem := { Mem.reset with layoutOk := true, trained := true } }

/-- A started request of submission ring 0 with its argument bytes. -/
def req (opc : Nat) (args : List Byte) (pbytes : Nat := 0) (rbytes : Nat := 0) (flags : Nat := 0) : Req :=
  ⟨0, BitVec.ofNat 8 opc, BitVec.ofNat 8 flags, 1, 0, pbytes, 0x10000, rbytes, padTo 28 args⟩

/-- The module with one request started. -/
def serving (rq : Req) (s : State := ready) : State := { s with uci := { s.uci with started := [(rq, 16)] } }

/-- A ring's configuration: EN, LOG2N 6, base page 1, CQ 16. -/
def ringCfg : Word := BitVec.ofNat 64 (2 ^ 40 + 6 * 2 ^ 36 + 1)

/-- The module with submission ring 0 and completion ring 16, some entries waiting in each. -/
def ringed (tail used : Nat) : State := { ready with
  uci := { ready.uci with rings := [(0, { Ring.reset with cfg := ringCfg, tail := tail }), (16, { Ring.reset with cfg := ringCfg, used := used, tail := used })] } }

/-- A shard of 1,024 elements, number 1, OPT 0. -/
def shard1 : Shard := shardOf ([1, 0, 0, 0, 0, 4] ++ zeros 58) []

/-- A module with that shard and generation 5. -/
def sharded : State := { ready with led := { Ledger.reset with step := 5, shards := [shard1] } }

/-- An OPEN instance of plan 1, slot 0, at a step. -/
def opened (g : Nat) : Slot := { Slot.fresh with state := .opened, step := g, pmask := 1 }

/-- The twin 0x0011 of plane B is present. -/
def twinned : State := { ready with twin := { Twin.reset with fa := 0x11, present := true } }

/-- A port in state UP with room for 64 cells of each class. -/
def upPort (r : Role) (peer : FA) : Port :=
  { Port.reset with role := r, state := .up, width := 3, peerFa := peer, grant := List.replicate 7 64, limit := List.replicate 7 64 }

/-- Two nodes, each of two modules with one endpoint at port 0; this module's port 0 (endpoint), 16 (+X) and 40 (twin) are UP. -/
def fabric : State := { twinned with
  ports := [(0, upPort .endpoint 0x100), (16, upPort (.torus 0 false) 0x20), (40, upPort .twin 0x11)]
  rt := { Routing.reset with members := [⟨0x10, true, true, false, 0, 0x10, 0, 0, 0⟩, ⟨0x11, true, true, true, 0, 0x10, 0, 0, 0⟩,
    ⟨0x100, false, true, false, 0, 0x10, 0, 0, 0⟩, ⟨0x20, true, true, false, 0, 0x20, 1, 0, 0⟩,
    ⟨0x21, true, true, true, 0, 0x20, 1, 0, 0⟩, ⟨0x120, false, true, false, 0, 0x20, 1, 0, 0⟩] } }

/-- A port of that module, changed. -/
def withPort (n : Nat) (f : Port → Port) : State := { fabric with ports := fabric.ports.map fun e => if e.1 = n then (n, f e.2) else e }

/-- An ACK cell from the endpoint. -/
def ackCell : Cell := ⟨0x10, 0x100, 6, 4, false, false, 0, 24, 0, 0, 0, 0, [5] ++ zeros 23⟩

/-- A barrier plan of the two endpoints. -/
def plan1 : Plan := ⟨1, 7, 0, some ⟨7, 0x1F, 0x1F, 1, 0, 0, false, false, 0, 0, 0, 0, 0xFFFF⟩, [0x100, 0x120], [], none, none, none, [], [], [], 0, 0⟩

/-- The module of `fabric` with a plan, and an instance of it. -/
def planned (p : Plan) (v : Slot) : State := { fabric with pl := { Plans.reset with plans := [(1, p)], slots := [((1, 0), v)] } }

/-- REDUCE with SUM of 32 FP32 elements to the member of a rank. -/
def fold (root : Nat) : Coll := ⟨2, 0, 0, 1, 0, 1, false, false, 32, root, 0, 0, 0xFFFF⟩

def foldPlan (root : Nat) : Plan := { plan1 with coll := some (fold root) }

/-- An instance of a plan of the two endpoints that ours has joined. -/
def joinedSlot : Slot := { opened 5 with joined := [0x100], treesA := [(0x10, 0, 0, 0), (0x20, 1, 0, 0)], locals := [0x100] }

/-- That instance with what chunk 0 holds. -/
def chunkSlot (c : Chunk) : Slot := { joinedSlot with chunks := [(0, c)] }

/-- A message of that instance. -/
def mess (src : FA) (msg : Byte) (elems : Nat) (data : List Byte) : Msg := ⟨src, 0x100, ⟨7, 5, 0, elems, msg, 2, 0, 0, 0, 0, 0⟩, data⟩

/-- A clipped update of shard 1 by this node, and its instance at step 6 with a folded gradient. -/
def rugPlan : Plan := { plan1 with coll := some ⟨8, 0, 0, 1, 0, 1, false, false, 32, 0, 9, 0, 0xFFFF⟩, owners := [⟨0x10, 0x11, 1, 0⟩] }
def rugSlot : Slot := { joinedSlot with step := 6, rug := [(0, ⟨zeros 128, 0, false, false, false, false⟩)] }
def rugged : State := { planned rugPlan rugSlot with led := sharded.led }

/-- A plan whose queue 0 holds one op (SET_QC) that waits on token counter 0, and an instance of it with some tokens. -/
def op1 : Op := ⟨0x01, 0, false, false, 0, [0xFFFF, 0xFFFF, 0xFFFF, 0xFFFF], 1, [], [⟨1, []⟩], zeros 16⟩
def progPlan : Plan := { plan1 with queues := [⟨0, 0, none, [], [op1]⟩] }
def running (tokens : Nat) (run : Option OpRun) : State := { planned progPlan joinedSlot with
  clk := { ready.clk with cycle := 2000000 }
  pl := { (planned progPlan joinedSlot).pl with progs := [(0x100, ⟨[⟨0, 0, [tokens], [0], [], 0, run⟩], 0⟩)] } }

/-- A sparse exchange of two members, one block each, and an instance whose streams for our member have come. -/
def sparseSec : SparseSec := ⟨1, 1, 0, false, false, 0, 0xFFFF, 1⟩
def sparsePlan : Plan := { plan1 with coll := some ⟨6, 0x1F, 0x1F, 1, 0, 0, false, false, 0, 0, 0, 0, 0xFFFF⟩, sparse := some sparseSec }

/-- A binary of a barrier plan (number 1) of the endpoints 0x0100 and 0x0120: COLLECTIVE at 128, MEMBERS at 192. -/
def barrierBytes (sig crc : Nat) : List Byte :=
  [0x44, 0x58, 0x50, 0x4C, 1, 0, 1, 0] ++ leBytes 8 sig ++ leBytes 4 0 ++ leBytes 4 256 ++ leBytes 2 2 ++ zeros 30 ++ leBytes 8 crc
  ++ ([1, 0, 0, 0] ++ leBytes 4 1 ++ leBytes 4 128 ++ leBytes 4 32) ++ ([2, 0, 0, 0] ++ leBytes 4 2 ++ leBytes 4 192 ++ leBytes 4 64)
  ++ zeros 32 ++ ([7, 0x1F, 0x1F, 1] ++ zeros 24 ++ [0xFF, 0xFF, 0, 0]) ++ zeros 32 ++ ([0, 1, 0x20, 1] ++ zeros 60)
def barrier : List Byte := barrierBytes 18113873600960443543 14655265692060231150

/-! ### Operands out of range are refused -/

def badMsg (h : Head) : Msg := ⟨0x20, 0x100, h, []⟩
def okHead : Head := (mess 0x20 0 32 []).head

theorem test_wf_rings : [Instr.sqDoorbell 16 0, .cqDoorbell 15 0, .cqDoorbell 32 0, .ringConfigWrite 32 0, .msiUnmask 64 0,
    .sqEntryFetch 16 (zeros 64), .sqEntryFetch 0 (zeros 63)].all (fun i => !i.wf) = true := by decide
theorem test_wf_requests : [Instr.fence { req 9 [] with sq := 16 }, .fence { req 9 [] with args := [] }, .fence (req 9 [] (2 ^ 32)),
    .fence (req 9 [] 0 (2 ^ 32))].all (fun i => !i.wf) = true := by decide
theorem test_wf_accesses : [Instr.stewardRd (zeros 15), .bmcRead (2 ^ 24) 1, .registerWrite (zeros 17) [], .counterOvfClear (2 ^ 24) 0,
    .counterOvfClear 4 0, .cmConfigWrite (some 7) 0].all (fun i => !i.wf) = true := by decide
theorem test_wf_ports : [Instr.gateCtlWrite 48 0, .gateListActivate 48, .gateEntryBoundary 48, .linkAckTimeout 48, .controlSlotLoss 48,
    .linkTrainFail 48, .portDown 48, .portRetrainTimer 48, .portUp 48 ⟨0, 0, 0, false⟩, .schedulerSelect 48, .cellTransmit 48 0,
    .heartbeatSend 48, .heartbeatMiss 48, .twinHbSend 48].all (fun i => !i.wf) = true := by decide
theorem test_wf_frames : [Instr.dataFrameReceive 48 (zeros 260), .dataFrameReceive 0 (zeros 259), .controlFrameReceive 48 (zeros 260),
    .controlFrameReceive 0 (zeros 261), .cellReceive 48 (zeros 256), .cellReceive 0 (zeros 255), .laneFail 24 0, .laneFail 0 8,
    .linkRefclkLost 4, .linkRefclkRestored 4].all (fun i => !i.wf) = true := by decide +kernel
theorem test_wf_cells : [Instr.adaptiveEgressChoice 524288, .rateWheelWake 48 1, .rateWheelWake 0 0, .rateWheelWake 0 6, .localCellDeliver 16 0,
    .localCellDeliver 0 7, .ackReceive 0 0 0 17 0, .ackReceive 0 0 0 0 (2 ^ 64), .nakReceive 0 0 (2 ^ 64) [(0, 1)], .nakReceive 0 0 0 [],
    .nakReceive 0 0 0 (List.replicate 9 (0, 1)), .nakReceive 0 0 0 [(2 ^ 24, 1)], .nakReceive 0 0 0 [(0, 0)],
    .nakReceive 0 0 0 [(0, 2 ^ 23 + 1)]].all (fun i => !i.wf) = true := by decide
theorem test_wf_protocol : [Instr.launch 0 0 (2 ^ 64) 0 0, .heartbeat 48 0 0 0, .heartbeat 0 (2 ^ 64) 0 0, .heartbeat 0 0 (2 ^ 32) 0, .stepEnd 48 0 0,
    .stepEnd 0 (2 ^ 64) 0, .twinHb 48 0 0 0, .twinHb 0 (2 ^ 64) 0 0, .twinHb 0 0 (2 ^ 32) 0, .silence (2 ^ 64) 0,
    .fenceNotice 0 0 0 false (2 ^ 64), .admitNotice 0 0 0 (2 ^ 32), .linkNotice 0 0 3 false false 0,
    .linkNotice 0 0 0 false false (2 ^ 64)].all (fun i => !i.wf) = true := by decide
theorem test_wf_steps : [Instr.digest (2 ^ 64) 0 0, .digestSend (2 ^ 64), .commitNotice (2 ^ 64) (zeros 64), .commitNotice 0 (zeros 63),
    .normResult 0 0 (2 ^ 64), .healRequest 0 0 ⟨0, 0, 0⟩, .healRequest 0 256 ⟨0, 0, 0⟩, .healRequest 0 1 ⟨2 ^ 64, 0, 0⟩,
    .healFail ⟨0, 0, 2 ^ 64⟩ 1, .healData ⟨2 ^ 64, 0, 0⟩ [], .granuleReceive ⟨0, 0, 2 ^ 64⟩ [], .controlRecordReceive (2 ^ 64) [],
    .normPassStart 4096 0, .normPassStart 0 (2 ^ 64)].all (fun i => !i.wf) = true := by decide
theorem test_wf_messages : [Instr.contribReceive (badMsg { okHead with step := 2 ^ 64 }), .expsReceive (badMsg { okHead with chunk := 2 ^ 32 }),
    .maxeReceive (badMsg { okHead with elems := 2 ^ 32 }), .psumReceive (badMsg { okHead with late := 2 ^ 32 }),
    .resultReceive (badMsg { okHead with layer := 2 ^ 32 }), .gatherReceive (badMsg { okHead with step := 2 ^ 64 }),
    .endReceive (badMsg { okHead with step := 2 ^ 64 }), .exchReceive (badMsg { okHead with step := 2 ^ 64 }) 0 0,
    .exchReceive (badMsg okHead) 16384 0, .exchReceive (badMsg okHead) 0 16384, .expsSend 0 (2 ^ 32), .psumSend 0 (2 ^ 32),
    .foldResultForm 0 (2 ^ 32)].all (fun i => !i.wf) = true := by decide
theorem test_wf_training : [Instr.mirrorReceive ⟨0, 0, 0, 2 ^ 64, 0, 0, 0, 0, []⟩, .mirrorReceive ⟨0, 0, 0, 0, 2 ^ 32, 0, 0, 0, []⟩,
    .mirrorReceive ⟨0, 0, 0, 0, 0, 2 ^ 32, 0, 0, []⟩, .mirrorReceive ⟨0, 0, 0, 0, 0, 0, 0, 2 ^ 64, []⟩, .rugUpdate 0 (2 ^ 32) [],
    .rugUpdate 0 0 [⟨0, [(132, 1)]⟩], .writeMessageReceive ⟨0, 0, 65536, 0, 0, 0, []⟩, .writeMessageReceive ⟨0, 0, 0, 2 ^ 32, 0, 0, []⟩,
    .writeMessageReceive ⟨0, 0, 0, 0, 2 ^ 64, 0, []⟩, .writeMessageReceive ⟨0, 0, 0, 0, 0, 2 ^ 64, []⟩, .opIssue 0 16,
    .opIterationDone 0 16].all (fun i => !i.wf) = true := by decide
theorem test_wf_upkeep : [Instr.refresh 192, .refreshStatusRead 24 false, .patrolScrub 192 [], .patrolScrub 0 [(132, 1)], .watchdogExpire 0,
    .healthSample 256 .errors].all (fun i => !i.wf) = true := by decide

/-! ### The spec's worked examples -/

/-- 02, conversion to E4M3: 310.0, 464.0, 500.0 and −0.001 with RNE or RTZ, saturating or not. -/
theorem test_convert_e4m3 :
    [(0x439B0000, true, 0), (0x439B0000, true, 1), (0x43E80000, true, 0), (0x43FA0000, true, 0), (0x43FA0000, false, 0),
      (0xBA83126F, true, 0), (0xBA83126F, true, 1)].map (fun e => writeElem 3 e.2.1 e.2.2 0 (readElem 0 e.1))
    = [(0x7A, false), (0x79, false), (0x7E, false), (0x7E, true), (0x7F, true), (0x81, false), (0x80, false)] := by decide +kernel

/-- 02, a block of E2M1 with SCALE = FLOOR, and with CEIL. -/
theorem test_convert_e2m1 : (List.map (fun ceil => convBlock 7 true ceil 0 [] ([0x41400000, 0x40A00000, 0xBF333333, 0x3E4CCCCD].map (readElem 0)))
    [false, true]) = [(0x80, [7, 4, 9, 0], 0), (0x80, [7, 4, 9, 0], 0)] := by decide +kernel

/-- 02, stochastic rounding of 1.0 + 2⁻⁹ to BF16 with the two Facet outputs. -/
theorem test_convert_sr : (writeElem 1 false 2 0x2A17C3 (readElem 0 0x3F804000)).1 = 0x3F81 ∧
    (writeElem 1 false 2 0x9E0041 (readElem 0 0x3F804000)).1 = 0x3F80 := by decide +kernel

/-- 02 R47: the BF16 dot product whose dropped bits decide the rounding. -/
theorem test_dot_product : dotAcc 0#32 [(readElem 1 0x3F80).mul (readElem 1 0x3F80), (readElem 1 0x3980).mul (readElem 1 0x3980),
    (readElem 1 0x3960).mul (readElem 1 0x3880)] = 0x3F800000#32 := by decide +kernel

/-- 10: INT8 × T2 with one reserved code gives 8.5. -/
theorem test_dot_int8_t2 : dotAcc 0#32 ([(0x64, 1), (0xE5, 1), (0x05, 3), (0x07, 2)].map fun e =>
    (readElem 10 e.1).mul ((readElem 12 e.2).scale 0x7C)) = 0x41080000#32 := by decide +kernel

/-- The three members of 03's first example: element 0 and element 1 of block 0. -/
def foldA : List Val := [0x4380, 0].map (readElem 1)
def foldB : List Val := [0x3F80, 0x2B80].map (readElem 1)
def foldC : List Val := [0xC37F, 0].map (readElem 1)

/-- 03, SUM: exponent bytes, aligned lanes, one lost element at B, and the result 2.0 by either tree. -/
theorem test_fold_sum : [foldA, foldB, foldC].map blockBytes = [[0x87], [0x7F], [0x86]] ∧
    alignVals 46 [0x87] foldA = ([2 ^ 46, 0], 0) ∧ alignVals 46 [0x87] foldB = ([2 ^ 38, 0], 1) ∧
    alignVals 46 [0x87] foldC = ([-255 * 2 ^ 38, 0], 0) ∧
    (writeVals 1 false (sumResults 46 [0x87] [2 ^ 39, 0]).1).1 = [0x4000, 0] := by decide +kernel

/-- 03, SUM32 of three members: h = 2, and the same result. -/
theorem test_fold_sum32 : topOf 1 3 = 28 ∧ ([foldA, foldB, foldC].map fun v => (alignVals (topOf 1 3) [0x87] v).1.headD 0)
    = [0x10000000, 0x00100000, -0x0FF00000] ∧ (writeVals 1 false (sumResults (topOf 1 3) [0x87] [0x200000]).1).1 = [0x4000] := by decide +kernel

/-- 03, a special block: summaries 0b010 and 0b100 give NaN; +Inf alone gives +Inf, and 0x7E in saturating E4M3. -/
theorem test_fold_special : summary [.inf false, .fin false 1 0] = 2 ∧ summary [.fin false 1 0, .inf true] = 4 ∧
    (writeVals 1 false (sumResults 46 [0xFF] [6, 0]).1).1 = [0x7FC0, 0x7FC0] ∧
    (writeVals 1 false (sumResults 46 [0xFF] [2, 0]).1).1 = [0x7F80, 0x7F80] ∧
    writeVals 3 true (sumResults 46 [0xFF] [2, 0]).1 = ([0x7E, 0x7E], 2) := by decide +kernel

/-- 03 R70: one row with m = 3.0, L = 4.0, O = 2.0; and the exponential of −1.0 that scales the second member. -/
theorem test_lse_row : lseRow true 0x40400000#32 0x40800000#32 [0x40000000#32, 0#32] false
      = (0x40A00000#32, 0x40800000#32, [0x3F000000#32, 0#32], false) ∧ F32.exp2 0xBF800000#32 = 0x3F000000#32 := by decide +kernel

/-- 06, gating with GATE = SOFTMAX_K on the tie 1.0, 1.0. -/
theorem test_gate_tie : topIx 2 (List.map F32.val [0xC0000000#32, 0xC0000000#32, 0x3F800000#32, 0x3F800000#32]) = [2, 3] ∧
    gateWeights 0 0x3F800000#32 [0xC0000000#32, 0xC0000000#32, 0x3F800000#32, 0x3F800000#32] [2, 3] = [0x3F000000#32, 0x3F000000#32] := by
  decide +kernel

/-- 06: a stream of six blocks of which block 2 holds data and is predicted. -/
theorem test_stream : rlzDecode 1 6 true ([1, 1, 0, 0, 6, 0, 0, 0, 4, 0, 0, 0, 2, 0, 0, 1] ++ List.replicate 64 1 ++ [3, 0, 0, 0])
    = ⟨[false, false, true, false, false, false], [none, none, some (List.replicate 64 1), none, none, none], true⟩ := by decide +kernel

/-- 09: the lane of the kernel example, 1.5 × 2.0 + 0.25, and its conversion to BF16. -/
theorem test_kernel_lane : aluLane 0x04 0 0x3FC00000#32 0x40000000#32 0x3E800000#32 = 0x40500000#32 ∧
    (writeElem 1 false 0 0 (readElem 0 0x40500000)).1 = 0x4050 := by decide +kernel

/-- 11: byte 5,000,000,000 of a full module: MP19, MC159, raw offset 0x0199_BC00, check bytes at 0x0199_CA90. -/
theorem test_address_map : ready.locate 5000000000 = (19, 159, 104892, 0) ∧ 256 * 104892 = 0x0199BC00 ∧ rawPlace 0x0199BC00 = (0x400, 7, 0x333) ∧
    ready.checkPlace 5000000000 = (104906, 144) ∧ 256 * 104906 + 144 = 0x0199CA90 ∧ 5000000000 / granuleBytes = 1220703 ∧
    (ready.wr .memRegionSize (BitVec.ofNat 64 (8 + 16 * 2 ^ 12 + 64 * 2 ^ 24 + 700 * 2 ^ 36))).regionOf 1220703 = .plan := by decide +kernel

/-- 11 R255: a block and its check bytes form a codeword, and R256: two wrong symbols are found again, three are not taken for two. -/
theorem test_codeword : (let d := (List.range 256).map (BitVec.ofNat 8)
      (List.range 4).map (rsSyndrome ((symbolsOf (d ++ rsCheck d)).zipIdx.map fun e => (e.2, e.1)))) = [0, 0, 0, 0] ∧
    rsDecode [] = .clean ∧ rsDecode [(131, 7)] = .corrected [(131, 7)] ∧ rsDecode [(0, 1), (5, 1), (77, 1)] = .bad := by decide +kernel

/-- 12 R267: a word of the link code (two symbols, the rest before them zeros) has the 30 roots. -/
theorem test_fec : (let w : List Symbol := [5, 700] ++ [5, 700].foldl fecDivide (List.replicate 30 0)
      (List.range 30).all fun i => w.foldl (fun (a : Symbol) c => fecMul a (fecPow i) ^^^ c) 0 == 0) = true := by decide +kernel

/-- 12: the LAUNCH cell of the endpoint at 0x00BE. -/
theorem test_launch_cell : (Cell.bytes ⟨0xFFFF, 0xBE, 0, 4, false, false, 0, 32, 0, 0x02A11, 0, 3, payLaunch 1207 0x5C1E0A9733D241B8 0⟩).take 48
    = [0xFF, 0xFF, 0xBE, 0, 0x20, 0x80, 0, 0, 0x11, 0x2A, 0, 0, 0, 0x30, 0x15, 0x42, 1, 1, 0, 0, 0, 0, 0, 0, 0xB7, 4, 0, 0, 0, 0, 0, 0,
      0xB8, 0x41, 0xD2, 0x33, 0x97, 0x0A, 0x1E, 0x5C, 0, 0, 0, 0, 0, 0, 0, 0] := by decide +kernel

/-- 13: the NAK for SEQ 2, one cell, at step 1,207. -/
theorem test_nak : payNak 1207 [(2, 1)] = [6, 1, 0, 0, 0, 0, 0, 0, 0xB7, 4, 0, 0, 0, 0, 0, 0, 1, 0, 0, 0, 0, 0, 0, 0, 2, 0, 0, 1, 0, 0, 0, 0] := by
  decide +kernel

/-- 15: a full UP cell and a full BULK cell at the default weights. -/
theorem test_finish_tags : ready.finishTag 16 tcUp { ackCell with len := 240 } = 286720 ∧
    ready.finishTag 16 tcBulk { ackCell with len := 240 } = 1146880 := by decide +kernel

/-- 16: core cycle 1,000,000 lies in beat 83,333 and slot 7,812, and MC013 is on the refresh calendar. -/
theorem test_beat : State.beat { ready with clk := { ready.clk with cycle := 1000000 } } = 83333 ∧
    State.slotNow { ready with clk := { ready.clk with cycle := 1000000 } } = 7812 ∧
    State.onCalendar { ready with clk := { ready.clk with cycle := 1000000 } } 13 = true := by decide +kernel

/-- 17: the scores of a worn torus port from 1,000 with samples of 400 and SHIFT = 3. -/
theorem test_scores : (List.range 9).map (fun n => (List.range (n + 1)).foldl (fun x _ => nextScore x 400 3) 1000)
    = [925, 859, 801, 750, 706, 667, 633, 603, 577] := by decide +kernel

/-- 20: LC FF F7 10 00 is FIELD. -/
theorem test_life_cycle : State.lifeCycle { ready with sec := { ready.sec with lc := [0xFF, 0xF7, 0x10, 0] } } = 2 := by decide +kernel

/-- 22: the health score of MC159 before its first sample. -/
theorem test_health_register : ready.readReg 0x1606B8 = 0x7D03E8 := by decide +kernel

/-- 23: the entry of EP_DEAD for the endpoint at 0x00BE on port 10. -/
theorem test_event_entry : eventEntry { ready with
      evt := ⟨[], [], 57⟩
      led := { Ledger.reset with step := 1206 }
      clk := { ready.clk with cycle := 60000000000 } } evEpDead.1 evEpDead.2 0xBE 10 0
    = [0x39, 0, 0, 0, 0, 0, 0, 0, 0, 0xF2, 5, 0x2A, 1, 0, 0, 0, 6, 2, 2, 0, 0xBE, 0, 0, 0, 0xB6, 4, 0, 0, 0, 0, 0, 0, 0x0A] ++ zeros 31 := by
  decide +kernel

/-- 19: the FW_START entry. -/
theorem test_log_entry : logEntry { ready with
      fw := { ready.fw with logSeq := 1000, active := true }
      led := { Ledger.reset with step := 813 }
      clk := { ready.clk with cycle := 120000000000 } } 0 tpFwStart 1 0 [0x0107000500020401, 1, 1]
    = [0xE8, 3, 0, 0, 0, 0, 0, 0, 0, 0xE4, 0x0B, 0x54, 2, 0, 0, 0, 0, 0, 0, 1, 0, 0, 0, 0, 0x2D, 3, 0, 0, 0, 0, 0, 0, 1, 4, 2, 0, 5, 0, 7, 1,
      1, 0, 0, 0, 0, 0, 0, 0, 1, 0, 0, 0, 0, 0, 0, 0] ++ zeros 8 := by decide +kernel

/-- 08: the 64 bytes of the VCONVERT of plan 0x105. -/
theorem test_op : opOf ([0x41, 0, 1, 0, 2, 1, 1, 1, 0xFF, 0xFF, 0xFF, 0xFF, 1, 0, 0, 0, 0x41, 8, 0, 0, 0, 0, 0, 0, 0xFF, 0x3B, 0, 0xFC, 1, 0, 0x90, 0xFC,
      3, 0, 0xA0, 0xFF, 0, 0, 0xF0, 0xFF, 0, 0, 0xF0, 0xFF, 0, 0, 0xF0, 0xFF] ++ zeros 16)
    = ⟨0x41, 0, false, false, 1, [0x102, 0x101, 0xFFFF, 0xFFFF], 1, [⟨0, 1, 1⟩],
        [⟨15360, [0, 0, 7, 7]⟩, ⟨2, [1, 1, 7, 7]⟩, ⟨4, [2, 7, 7, 7]⟩, ⟨1, [7, 7, 7, 7]⟩, ⟨1, [7, 7, 7, 7]⟩, ⟨1, [7, 7, 7, 7]⟩], zeros 16⟩ := by
  decide +kernel

/-! ### Hypotheses that can be met -/

theorem meets_StepTakesTheFrontCommand : ∃ (c : Instr) (rest : List Instr) (s : State), s.pending = c :: rest :=
  ⟨.memHotClear, [.healStart], { ready with pending := [.memHotClear, .healStart] }, rfl⟩
theorem meets_EmptyQueueLetsACyclePass_1 : ∃ s : State, s.pending = [] ∧ s.pwr.unpowered = true :=
  ⟨{ State.reset with pwr := { Power.reset with unpowered := true } }, rfl, rfl⟩
theorem meets_EmptyQueueLetsACyclePass_2 : ∃ s : State, s.pending = [] ∧ s.pwr.unpowered = false ∧ s.clk.aligned = true :=
  ⟨ready, rfl, rfl, rfl⟩
theorem meets_EmptyQueueLetsACyclePass_3 : ∃ s : State, s.pending = [] ∧ s.pwr.unpowered = false ∧ s.clk.aligned = false :=
  ⟨State.reset, rfl, rfl, rfl⟩
theorem meets_CommandsLeaveTheQueue : ∃ (c : Instr) (s t : State), exec c s = .next t :=
  ⟨.sqDoorbell 0 63, { ringed 0 0 with pending := [.healStart] }, _, rfl⟩

/-- A step that stores: the update of a shard is at the front of the queue. -/
theorem meets_MemoryStaysCanonical : ∃ s t : State, Memory.wf s.mem = true ∧ step s = .next t :=
  ⟨{ rugged with pending := [.rugUpdate 0x100 0 []] }, _, by decide +kernel, rfl⟩
/-- A step that burns: RETIRED is asked of a FIELD part. -/
theorem meets_BurnedOtpBitsStay : ∃ s t : State, otpSized s.sec ∧ step s = .next t :=
  ⟨{ serving (req 19 [3] 200) with pending := [.lifecycle (req 19 [3] 200) ([0x4F, 0x56, 0x4C, 0x43, 3, 0, 0, 0, 1] ++ zeros 191) ⟨false, false⟩] },
    _, by unfold otpSized; decide +kernel, rfl⟩
theorem meets_LockLossLastsUntilAReset : ∃ (c : Instr) (s t : State), exec c s = .next t ∧ s.clk.unaligned = true ∧ resetsModule c = false :=
  ⟨.bringUpStageDone ⟨0, true, 15, [], [], none, true, true, true, ⟨true, true⟩, ⟨true, true⟩⟩,
    { ready with clk := { ready.clk with unaligned := true } }, _, rfl, rfl, rfl⟩
theorem meets_HealthScoresStayInRange : ∃ s t : State, (∀ n : Nat, (s.healthOf n).score ≤ 1000 ∧ (s.healthOf n).last ≤ 1000) ∧ step s = .next t :=
  ⟨{ fabric with pending := [.healthSample 8 (.eye 15 102)] }, _, fun _ => ⟨Nat.le_refl 1000, Nat.le_refl 1000⟩, rfl⟩
theorem meets_OnlyTheseWriteKeysClocksLocksAndHealth : ∃ (c : Instr) (s t : State), exec c s = .next t ∧ writesSecurity c = false ∧
    writesClocks c = false ∧ locksRegisters c = false ∧ writesHealth c = false :=
  ⟨.rugUpdate 0x100 0 [], rugged, _, rfl, rfl, rfl, rfl, rfl⟩
theorem meets_OnlyTheseWriteRegistersFirmwareAndRings : ∃ (c : Instr) (s t : State), exec c s = .next t ∧ writesRegisters c = false ∧
    writesFirmware c = false ∧ writesAttachment c = false :=
  ⟨.rugUpdate 0x100 0 [], rugged, _, rfl, rfl, rfl, rfl⟩
theorem meets_OnlyTheseWritePortsAndTheTwin : ∃ (c : Instr) (s t : State), exec c s = .next t ∧ writesPorts c = false ∧ writesTwin c = false :=
  ⟨.rugUpdate 0x100 0 [], rugged, _, rfl, rfl, rfl⟩
theorem meets_OnlyTheseWritePlansAndTheLedger : ∃ (c : Instr) (s t : State), exec c s = .next t ∧ writesPlans c = false ∧ writesLedger c = false :=
  ⟨.granuleReceive ⟨5, 0, 0⟩ (zeros 4096), twinned, _, rfl, rfl, rfl⟩
theorem meets_OnlyTheseStoreIntoMemory : ∃ (c : Instr) (s t : State), exec c s = .next t ∧ writesMemory c = false :=
  ⟨.heartbeat 0 5 1 0, fabric, _, rfl, rfl⟩

/-- A granule that is stored: the last one of STATE_A, whose neighbour's first byte is not part of it. -/
theorem meets_ATransferredGranuleIsTheOnlyStore : ∃ (ref : GranuleRef) (data : List Byte) (s t : State) (a : Nat),
    Memory.wf s.mem = true ∧ exec (.granuleReceive ref data) s = .next t ∧ s.mem.resilver.isSome = true ∧ data.length = granuleBytes ∧
    ∀ i < granuleBytes, s.mem.phys ((s.regionBase (bankRegion (ref.role.getLsbD 2)) + ref.offset / granuleBytes) * granuleBytes + i) ≠ a :=
  ⟨⟨5, 0, 262143 * 4096⟩, zeros 4096,
    { twinned with mem := { twinned.mem with resilver := some ⟨false, 0x11, none, true, 0, false⟩ } }, _,
    (ready.regionBase .stateA + 262144) * 4096, by decide +kernel, rfl, by decide +kernel, by decide +kernel, by decide +kernel⟩
theorem meets_IntegerFormatsAreTwosComplement : ∃ (f : Nat) (i : Int), (f = 0x09 ∨ f = 0x0A ∨ f = 0x0B) ∧
    -2 ^ (fmtBits f - 1) ≤ i ∧ i ≤ 2 ^ (fmtBits f - 1) - 1 ∧ readElem f 8 = .fin true 8 0 :=
  ⟨0x0B, -8, by decide +kernel⟩
theorem meets_PartialSumsAddInAnyOrder_1 : ∃ (n : Nat) (z : List Int) (l k : List (List Int)), z.length = n ∧ (∀ x ∈ l, x.length = n) ∧ l.Perm k ∧ l ≠ k :=
  ⟨2, [0, 0], [[1, 2], [3, 4]], [[3, 4], [1, 2]], rfl, by decide, List.Perm.swap _ _ _, by decide⟩
theorem meets_PartialSumsAddInAnyOrder_2 : ∃ l k : List (List Byte), l.Perm k ∧ l ≠ k :=
  ⟨[[1], [2, 3]], [[2, 3], [1]], List.Perm.swap _ _ _, by decide⟩
theorem meets_CountersSaturateAndStick_1 : ∃ (s : State) (c : Ctr) (n : Nat), 0 < n ∧ s.ctr c + n < 2 ^ 64 - 1 :=
  ⟨{ ready with ctrs := [(.memCe, 5)] }, .memCe, 2 ^ 64 - 7, by decide +kernel⟩
theorem meets_CountersSaturateAndStick_2 : ∃ (s : State) (c d : Ctr) (n : Nat), 0 < n ∧ 2 ^ 64 - 1 ≤ s.ctr c + n ∧ d ≠ c ∧ d ∈ s.ovf :=
  ⟨{ ready with ctrs := [(.memCe, 5)], ovf := [.memUe] }, .memCe, .memUe, 2 ^ 64 - 6, by decide +kernel⟩
theorem meets_ARefusedRequestTakesNoEffect_1 : ∃ (s t : State) (rq : Req) (st d : Nat), t = s.fail rq st d ∧ s.uci.started ≠ [] :=
  ⟨serving (req 2 [1]), _, req 2 [1], csNotFound, 0, rfl, by decide +kernel⟩
theorem meets_ARefusedRequestTakesNoEffect_2 : ∃ (s t : State) (rq : Req) (st : Nat) (l : List Nat), t = s.refuseAt rq st l ∧ s.uci.started ≠ [] :=
  ⟨serving (req 2 [1]), _, req 2 [1], csMalformed, [40, 16], rfl, by decide +kernel⟩
theorem meets_RoundingGoesToTheGridAsItsModeSays_1 : ∃ e u : Int, u ≤ e := ⟨0, 0, by decide⟩
/-- A tie, and a number on the grid. -/
theorem meets_RoundingGoesToTheGridAsItsModeSays_2 : ∃ (m : Nat) (e u : Int) (d : Nat), e < u ∧ d = 2 ^ (u - e).toNat ∧ 2 * (m % d) = d :=
  ⟨6, 0, 2, 4, by decide, by decide, by decide⟩
theorem meets_RoundingGoesToTheGridAsItsModeSays_3 : ∃ (m : Nat) (e u : Int) (d : Nat), e < u ∧ d = 2 ^ (u - e).toNat ∧ m % d = 0 :=
  ⟨8, 0, 2, 4, by decide, by decide, by decide⟩
theorem meets_TernaryCodeTwoIsNeverWritten : ∃ (us : List Nat) (vs : List Val) (c : Nat), c ∈ (convBlock 0x0C false false 0 us vs).2.1 :=
  ⟨[0], [.fin true 1 0], 3, by decide +kernel⟩

/-- No memory is short where an installed plan asks for none. -/
theorem shortage_zero (s : State) (p : Plan) (o : s.otherPlans p = []) (c : s.pl.ctxs = []) (h1 : p.seqn = none)
    (h2 : p.kernels = []) (h3 : p.workKib = 0) (h4 : p.spill ≤ s.regionSize .spill * granuleBytes) : s.shortage p = 0 := by
  unfold State.shortage
  simp only [State.kvNeed, State.seqCtx, o, c, h1, h3]
  simp [h2, Assoc.get, Assoc.find]
  omega
theorem bare_reserve (b : List Byte) (h : bareBarrier b = true) : (planOfBinary b).workKib = 0 ∧
    (planOfBinary b).spill ≤ barrierSpill (planOfBinary b).members.length := by
  simp only [planOfBinary, h, if_true]
  exact ⟨trivial, Nat.min_le_right _ _⟩
theorem barrier_is_bare : bareBarrier barrier = true := by decide +kernel
theorem barrier_room (rq : Req) : (serving rq fabric).shortage (planOfBinary barrier) = 0 :=
  shortage_zero _ _ rfl rfl (by decide +kernel) (by decide +kernel) (bare_reserve barrier barrier_is_bare).1
    (Nat.le_trans (bare_reserve barrier barrier_is_bare).2
      (show barrierSpill (planOfBinary barrier).members.length ≤ fabric.regionSize .spill * granuleBytes by decide +kernel))

/-- Clause 1 of PlansInstallAndAreRemoved: a BARRIER of two members, for which room is left whatever SPILL bytes it reserves (log 9). -/
theorem meets_PlansInstallAndAreRemoved_1 : ∃ (rq : Req) (b : List Byte) (s : State),
    s.mayServe rq 0x01 = true ∧ s.malformed b rq.pbytes = [] ∧ s.unitMissing (planOfBinary b) = false ∧
    s.planConfig b (planOfBinary b) = [] ∧ s.openOf (planOfBinary b).num = [] ∧ s.shortage (planOfBinary b) = 0 :=
  ⟨req 1 [] 256, barrier, serving (req 1 [] 256) fabric, by decide +kernel, by decide +kernel, by decide +kernel, by decide +kernel,
    by decide +kernel, barrier_room _⟩

/-- Clause 1 of DoorbellsMoveTailAndHead (sqDoorbell). -/
theorem meets_DoorbellsMoveTailAndHead_1 : ∃ (n : Nat) (v : Word) (s : State) ,
    s.attached = true ∧ n < 16 ∧ (s.ring n).runs = true ∧
    fld v 0 12 < (s.ring n).size :=
  ⟨0, 63, ringed 0 0, by decide +kernel⟩

/-- Clause 2 of DoorbellsMoveTailAndHead (cqDoorbell). -/
theorem meets_DoorbellsMoveTailAndHead_2 : ∃ (n : Nat) (v : Word) (s : State) ,
    s.attached = true ∧ 16 ≤ n ∧ n < 32 ∧
    (s.ring n).runs = true ∧ fld v 0 12 < (s.ring n).size ∧ (fld v 0 12 + (s.ring n).size - (s.ring n).head) % (s.ring n).size ≤ (s.ring n).used :=
  ⟨16, 63, ringed 0 63, by decide +kernel⟩

/-- Clause 1 of RingAndVectorWritesTakeEffect (ringConfigWrite). -/
theorem meets_RingAndVectorWritesTakeEffect_1 : ∃ (n : Nat) (v : Word) (s : State) ,
    s.attached = true ∧ n < 16 ∧ v.getLsbD 40 = false :=
  ⟨15, 0, ready, by decide +kernel⟩

/-- Clause 2 of RingAndVectorWritesTakeEffect (ringConfigWrite). -/
theorem meets_RingAndVectorWritesTakeEffect_2 : ∃ (n : Nat) (v : Word) (s : State) ,
    s.attached = true ∧ 16 ≤ n ∧ n < 32 ∧
    (v &&& ringBits &&& ~~~(0xF#64 <<< 41)).getLsbD 40 = true ∧ (s.ring n).en = false ∧ fld (v &&& ringBits &&& ~~~(0xF#64 <<< 41)) 36 4 ≠ 0 ∧
    fld (v &&& ringBits &&& ~~~(0xF#64 <<< 41)) 36 4 ≤ 12 ∧ s.inWindows (fld (v &&& ringBits &&& ~~~(0xF#64 <<< 41)) 0 36 * 4096) (64 * 2 ^ fld (v &&& ringBits &&& ~~~(0xF#64 <<< 41)) 36 4) = true :=
  ⟨31, ringCfg, ready, by decide +kernel⟩

/-- Clause 3 of RingAndVectorWritesTakeEffect (msiUnmask). -/
theorem meets_RingAndVectorWritesTakeEffect_3 : ∃ (n : Nat) (v : Word) (s : State) ,
    s.attached = true ∧ n < 64 ∧ (s.rd (.uciMsi n)).getLsbD 1 = true ∧
    v.getLsbD 0 = false :=
  ⟨63, 0, ready.wr (.uciMsi 63) 3, by decide +kernel⟩

/-- Clause 1 of FetchReservesAnEntryAndStarts (sqEntryFetch). -/
theorem meets_FetchReservesAnEntryAndStarts_1 : ∃ (n : Nat) (e : List Byte) (s : State) ,
    s.attached = true ∧ s.firmware = true ∧ n < 16 ∧
    e.length = 64 ∧ (s.ring n).runs = true ∧ (s.ring n).head ≠ (s.ring n).tail ∧
    ((s.fw.update.any fun u => decide (5 ≤ u.stage)) = false) ∧ (s.ring (s.ring n).cq).runs = true ∧ (s.ring (s.ring n).cq).used + (s.ring (s.ring n).cq).reserved < (s.ring (s.ring n).cq).size ∧
    entryOk e = true ∧ lcRefuses s.lifeCycle (reqOf n e).opc.toNat = false ∧ s.buffersOk (reqOf n e) = true ∧
    (reqOf n e).pbytes ≤ 2 ^ 30 :=
  ⟨0, padTo 64 [0x0D], ringed 1 63, by decide +kernel⟩

/-- Clause 2 of PlansInstallAndAreRemoved (planRemove). -/
theorem meets_PlansInstallAndAreRemoved_2 : ∃ (rq : Req) (s : State) ,
    s.mayServe rq 0x02 = true ∧ (s.plan (argOf rq 36 2)).isSome = true ∧ s.openOf (argOf rq 36 2) = [] :=
  ⟨req 2 [1], serving (req 2 [1]) { ready with pl := { Plans.reset with plans := [(1, planOfBinary [])] } }, by decide +kernel⟩

/-- Clause 1 of MembershipAndShardsAreDefined (membershipSet). -/
theorem meets_MembershipAndShardsAreDefined_1 : ∃ (rq : Req) (r : List Byte) (s : State) ,
    s.mayServe rq 0x03 = true ∧ membershipBad r rq.pbytes = [] ∧ s.rt.placed = false :=
  ⟨req 3 [] 48, zeros 20 ++ [1] ++ zeros 11 ++ [1] ++ zeros 15, serving (req 3 [] 48), by decide +kernel⟩

/-- Clause 2 of MembershipAndShardsAreDefined (stateDefine). -/
theorem meets_MembershipAndShardsAreDefined_2 : ∃ (rq : Req) (b : List Byte) (s : State) (d : Shard) (u : State),
    d = shardOf b (f32s (slice b 64 (4 * leAt b 40 4))) ∧ u = s.fetchAll s.bankRanges [] ∧ s.mayServe rq 0x04 = true ∧
    rq.flags.getLsbD 2 = false ∧ 64 ≤ rq.pbytes ∧ leAt b 4 8 ≠ 0 ∧
    shardBad b rq.pbytes = [] ∧ ((d.opt = 4 → s.hasMatrix = true)) ∧ ((∀ e ∈ s.led.shards, e.num ≠ d.num ∧ e.start = d.start)) ∧
    s.openRug none = [] ∧ s.mem.layoutOk = true ∧ bankBytes (d :: s.led.shards) ≤ s.regionSize .stateA * granuleBytes ∧
    u.allReady u.bankRanges = true :=
  ⟨req 4 [] 64, [1, 0, 0, 0, 0, 4] ++ zeros 58, serving (req 4 [] 64), _, _, rfl, rfl, by decide +kernel⟩

/-- Clause 3 of MembershipAndShardsAreDefined (stateDefine). -/
theorem meets_MembershipAndShardsAreDefined_3 : ∃ (rq : Req) (b : List Byte) (s : State) ,
    s.mayServe rq 0x04 = true ∧ rq.flags.getLsbD 2 = true ∧ rq.pbytes = 256 ∧
    s.mem.layoutOk = true ∧ s.openHdls = [] :=
  ⟨req 4 [] 256 0 4, zeros 256, serving (req 4 [] 256 0 4), by decide +kernel⟩

/-- Clause 4 of MembershipAndShardsAreDefined (stateDefine). -/
theorem meets_MembershipAndShardsAreDefined_4 : ∃ (rq : Req) (b : List Byte) (s : State) (u : State),
    u = s.fetchAll s.bankRanges [] ∧ s.mayServe rq 0x04 = true ∧ rq.flags.getLsbD 2 = false ∧
    64 ≤ rq.pbytes ∧ leAt b 4 8 = 0 ∧ 1 ≤ leAt b 0 2 ∧
    leAt b 0 2 ≤ 4095 ∧ ((∃ d ∈ s.led.shards, d.num = leAt b 0 2)) ∧ s.mem.layoutOk = true ∧
    s.openRug none = [] ∧ u.allReady u.bankRanges = true :=
  ⟨req 4 [] 64, [1] ++ zeros 63, serving (req 4 [] 64) sharded, _, rfl, by decide +kernel⟩

/-- Clause 1 of StateTransfersRun (stateImport). -/
theorem meets_StateTransfersRun_1 : ∃ (rq : Req) (b : List Byte) (s : State) ,
    s.mayServe rq 0x05 = true ∧ s.rangeRefuse rq true = none ∧ s.openRug (some (argOf rq 36 2)) = [] :=
  ⟨req 5 [1, 0, 0, 0, 0, 0, 0, 0, 0, 0, 0, 0, 0, 4] 8208, [], serving (req 5 [1, 0, 0, 0, 0, 0, 0, 0, 0, 0, 0, 0, 0, 4] 8208) sharded, by decide +kernel⟩

/-- Clause 2 of StateTransfersRun (stateImportDone). -/
theorem meets_StateTransfersRun_2 : ∃ (rid : BitVec 32) (x : Transfer) (d : Shard) (a : Nat) (s : State) (w : List (Nat × Nat)) (u : State),
    (w = (d.rangeParts x.first x.elems).map (fun e => (s.bankAddr s.led.srcB + a + e.1, e.2))) ∧ u = s.fetchAll [] w ∧ ((s.led.imports.find? fun x => x.rq.rid == rid) = some x) ∧
    s.shardAt x.shard = some (d, a) ∧ s.firmware = true ∧ u.allReady w = true :=
  ⟨1, ⟨req 6 [1, 0, 0, 0] 0 8192, 1, 0, 1024, false, []⟩, shard1, 0, { sharded with led := { sharded.led with imports := [⟨req 6 [1, 0, 0, 0] 0 8192, 1, 0, 1024, false, []⟩] } }, _, _, rfl, rfl, by decide +kernel⟩

/-- Clause 3 of StateTransfersRun (stateExport). -/
theorem meets_StateTransfersRun_3 : ∃ (rq : Req) (d : Shard) (a : Nat) (s : State) ,
    s.mayServe rq 0x06 = true ∧ s.rangeRefuse rq false = none ∧ s.shardAt (argOf rq 36 2) = some (d, a) ∧
    d.rangeBytes (argOf rq 40 8) (argOf rq 48 8) ≤ rq.rbytes :=
  ⟨req 6 [1, 0, 0, 0] 0 8192, shard1, 0, serving (req 6 [1, 0, 0, 0] 0 8192) sharded, by decide +kernel⟩

/-- Clause 4 of StateTransfersRun (stateExportDone). -/
theorem meets_StateTransfersRun_4 : ∃ (rid : BitVec 32) (x : Transfer) (d : Shard) (a : Nat) (s : State) (w : List (Nat × Nat)) (u : State),
    (w = (d.rangeParts x.first x.elems).map (fun e => (s.bankAddr x.bankB + a + e.1, e.2))) ∧ u = s.fetchAll w [] ∧ ((s.led.exports.find? fun x => x.rq.rid == rid) = some x) ∧
    s.firmware = true ∧ s.shardAt x.shard = some (d, a) ∧ u.shardAt x.shard = some (d, a) ∧
    u.allReady w = true :=
  ⟨1, ⟨req 6 [1, 0, 0, 0] 0 8192, 1, 0, 1024, false, []⟩, shard1, 0, { sharded with led := { sharded.led with exports := [⟨req 6 [1, 0, 0, 0] 0 8192, 1, 0, 1024, false, []⟩] } }, _, _, rfl, rfl, by decide +kernel⟩

/-- Clause 1 of LedgerFenceAndAbortRequestsComplete (ledgerQuery). -/
theorem meets_LedgerFenceAndAbortRequestsComplete_1 : ∃ (rq : Req) (s : State) (l : List (List Byte)),
    (l = (sortBy (fun (a b : List Byte) => decide (leAt a 0 8 < leAt b 0 8)) (s.led.ring.filter fun r => decide (argOf rq 40 8 ≤ leAt r 0 8))).take (argOf rq 48 4)) ∧ s.mayServe rq 0x07 = true ∧ 1 ≤ argOf rq 48 4 ∧
    argOf rq 48 4 ≤ 256 ∧ l ≠ [] :=
  ⟨req 7 [0, 0, 0, 0, 0, 0, 0, 0, 0, 0, 0, 0, 1], serving (req 7 [0, 0, 0, 0, 0, 0, 0, 0, 0, 0, 0, 0, 1]) { ready with led := { Ledger.reset with ring := [zeros 64] } }, _, rfl, by decide +kernel⟩

/-- Clause 2 of LedgerFenceAndAbortRequestsComplete (rollback). -/
theorem meets_LedgerFenceAndAbortRequestsComplete_2 : ∃ (rq : Req) (s : State) ,
    s.mayServe rq 0x08 = true ∧ s.led.step = argOf rq 40 8 :=
  ⟨req 8 [0, 0, 0, 0, 5], serving (req 8 [0, 0, 0, 0, 5]) { ready with led := { Ledger.reset with step := 5 } }, by decide +kernel⟩

/-- Clause 3 of LedgerFenceAndAbortRequestsComplete (rollback). -/
theorem meets_LedgerFenceAndAbortRequestsComplete_3 : ∃ (rq : Req) (s : State) ,
    s.mayServe rq 0x08 = true ∧ s.led.step + 1 = argOf rq 40 8 ∧ (s.readyWord (argOf rq 40 8)).isSome = true :=
  ⟨req 8 [0, 0, 0, 0, 5], serving (req 8 [0, 0, 0, 0, 5]) { ready with led := { Ledger.reset with step := 4, final := some (5, 0) } }, by decide +kernel⟩

/-- Clause 4 of LedgerFenceAndAbortRequestsComplete (fence). -/
theorem meets_LedgerFenceAndAbortRequestsComplete_4 : ∃ (rq : Req) (s : State) ,
    s.mayServe rq 0x09 = true ∧ BitVec.ofNat 16 (argOf rq 36 2) ≠ s.selfFa ∧ BitVec.ofNat 16 (argOf rq 36 2) ≠ 0 ∧
    (BitVec.ofNat 16 (argOf rq 36 2)).toNat < 0xF000 :=
  ⟨req 9 [0xFF, 0xEF], serving (req 9 [0xFF, 0xEF]), by decide +kernel⟩

/-- Clause 5 of LedgerFenceAndAbortRequestsComplete (abort). -/
theorem meets_LedgerFenceAndAbortRequestsComplete_5 : ∃ (rq : Req) (s : State) ,
    s.mayServe rq 0x14 = true ∧ (s.slot (BitVec.ofNat 20 (argOf rq 36 4))).state = .opened ∧ (s.slot (BitVec.ofNat 20 (argOf rq 36 4))).step = argOf rq 40 8 :=
  ⟨req 0x14 [0, 1, 0, 0, 5], serving (req 0x14 [0, 1, 0, 0, 5]) { ready with pl := { Plans.reset with slots := [((1, 0), opened 5)] } }, by decide +kernel⟩

/-- Clause 1 of ResilverCopiesTheNode (resilver). -/
theorem meets_ResilverCopiesTheNode_1 : ∃ (rq : Req) (m : Member) (s : State) ,
    s.mayServe rq 0x0A = true ∧ s.led.solo = true ∧ s.moduleOf s.nodeA (!s.planeB) = some m ∧
    m.fa = BitVec.ofNat 16 (argOf rq 36 2) ∧ s.mem.resilver = none ∧ s.tagFree (m.fa, 1#20) = true :=
  ⟨req 10 [0x11], ⟨0x11, true, true, true, 0, 0x10, 0, 0, 0⟩, serving (req 10 [0x11]) { ready with led := { Ledger.reset with solo := true, step := 5 }, rt := { Routing.reset with members := [⟨0x10, true, true, false, 0, 0x10, 0, 0, 0⟩, ⟨0x11, true, true, true, 0, 0x10, 0, 0, 0⟩] } }, by decide +kernel⟩

/-- Clause 2 of ResilverCopiesTheNode (resilverCopyDone). -/
theorem meets_ResilverCopiesTheNode_2 : ∃ (r : Resilver) (s : State) (w : List (Nat × Nat)) (u : State),
    w = [(s.bankAddr false, s.regionSize .stateA * granuleBytes), (s.bankAddr true, s.regionSize .stateA * granuleBytes)] ∧ u = s.fetchAll w [] ∧ s.mem.resilver = some r ∧
    s.engines = true ∧ r.carrying = true ∧ r.copyDone = false ∧
    u.mem.resilver = some r ∧ u.allReady w = true :=
  ⟨⟨true, 0x11, none, false, 0, false⟩, { twinned with mem := { twinned.mem with resilver := some ⟨true, 0x11, none, false, 0, false⟩ } }, _, _, rfl, rfl, by decide +kernel⟩

/-- Clause 3 of ResilverCopiesTheNode (controlRecordReceive). -/
theorem meets_ResilverCopiesTheNode_3 : ∃ (g : Nat) (b : List Byte) (s : State) (u : State),
    u = s.takeTransfer 1 ∧ s.mem.wiping = none ∧ u.engines = true ∧
    u.pwr.ready = true ∧ u.led.shards = [] ∧ u.twin.present = true ∧
    u.mem.resilver = none ∧ (b.length = 24 + 64 * leAt b 16 4 + tableBytes ((List.range (leAt b 16 4)).map fun i => slice b (24 + 64 * i) 64) + 256 + 256 * 64) :=
  ⟨5, zeros (24 + 256 + 256 * 64), twinned, _, rfl, by decide +kernel⟩

/-- Clause 4 of ResilverCopiesTheNode (granuleReceive). -/
theorem meets_ResilverCopiesTheNode_4 : ∃ (ref : GranuleRef) (b : List Byte) (r : Resilver) (s : State) (u : State),
    u = s.takeTransfer 1 ∧ s.mem.wiping = none ∧ u.mem.resilver = some r ∧
    u.engines = true ∧ r.carrying = false ∧ b.length = granuleBytes ∧
    ref.offset / granuleBytes < u.regionSize (bankRegion (ref.role.getLsbD 2)) ∧ ref.offset % granuleBytes = 0 :=
  ⟨⟨5, 0, 262143 * 4096⟩, zeros 4096, ⟨false, 0x11, none, true, 0, false⟩, { twinned with mem := { twinned.mem with resilver := some ⟨false, 0x11, none, true, 0, false⟩ } }, _, rfl, by decide +kernel⟩

/-- Clause 1 of LiveUpdateRunsItsStages (fwUpdate). -/
theorem meets_LiveUpdateRunsItsStages_1 : ∃ (rq : Req) (b : List Byte) (g : SigAnswer) (s : State) ,
    s.mayServe rq 0x0B = true ∧ s.lapisTurn rq = true ∧ s.imageCheck (b.take rq.pbytes) g = none ∧
    hverOf s.fw.version.toNat ≤ hverOf (imageVersion (b.take rq.pbytes)) ∧ hverOf (imageVersion (b.take rq.pbytes)) ≤ hverOf s.fw.version.toNat + 2 ∧ s.quiet = true :=
  ⟨req 11 [] 9344, specimenImage, ⟨true, true⟩, serving (req 11 [] 9344), by decide +kernel⟩

/-- Clause 2 of LiveUpdateRunsItsStages (fwImageWritten). -/
theorem meets_LiveUpdateRunsItsStages_2 : ∃ (u : Update) (s : State) ,
    s.fw.update = some u ∧ s.firmware = true ∧ u.stage = 4 :=
  ⟨⟨req 11 [] 9344, [], 4⟩, { serving (req 11 [] 9344) with fw := { ready.fw with update := some ⟨req 11 [] 9344, [], 4⟩ } }, by decide +kernel⟩

/-- Clause 3 of LiveUpdateRunsItsStages (fwHandoff). -/
theorem meets_LiveUpdateRunsItsStages_3 : ∃ (u : Update) (s : State) ,
    s.fw.update = some u ∧ s.firmware = true ∧ u.stage = 5 ∧
    ((s.uci.started.all fun e => s.waitsForUpdate u e.1) = true) ∧ handoffOk u.image (s.stagePassed 5).handoffRecord = true :=
  ⟨⟨req 11 [] 9344, specimenImage, 5⟩, { serving (req 11 [] 9344) with fw := { ready.fw with update := some ⟨req 11 [] 9344, specimenImage, 5⟩ } }, rfl, by decide +kernel, rfl, by decide +kernel, handoffOk_record _ _ (by decide +kernel) (by decide +kernel)⟩

/-- Clause 4 of LiveUpdateRunsItsStages (fwHandoff). -/
theorem meets_LiveUpdateRunsItsStages_4 : ∃ (u : Update) (s : State) ,
    s.fw.update = some u ∧ s.firmware = true ∧ u.stage = 5 ∧
    ((s.uci.started.all fun e => s.waitsForUpdate u e.1) = true) :=
  ⟨⟨req 11 [] 9344, [], 5⟩, { serving (req 11 [] 9344) with fw := { ready.fw with update := some ⟨req 11 [] 9344, [], 5⟩ } }, by decide +kernel⟩

/-- Clause 5 of LiveUpdateRunsItsStages (updateWaitTimeout). -/
theorem meets_LiveUpdateRunsItsStages_5 : ∃ (u : Update) (s : State) ,
    s.fw.update = some u ∧ s.firmware = true ∧ u.stage = 3 ∧
    s.quiet = false :=
  ⟨⟨req 11 [] 9344, [], 3⟩, { serving (req 11 [] 9344) with fw := { ready.fw with update := some ⟨req 11 [] 9344, [], 3⟩ }, mem := { ready.mem with wiping := some none } }, by decide +kernel⟩

/-- Clause 1 of ReportsAnswerAndSettingsApply (attest). -/
theorem meets_ReportsAnswerAndSettingsApply_1 : ∃ (rq : Req) (n : Nat) (t : State) (s : State) ,
    s.mayServe rq 0x0C = true ∧ s.lapisTurn rq = true ∧ s.sec.devkeyOk = true ∧
    s.draw = (n, t) :=
  ⟨req 12 [], Config.free 0, (serving (req 12 [])).draw.2, serving (req 12 []), by decide +kernel, by decide +kernel, by decide +kernel, rfl⟩

/-- Clause 2 of ReportsAnswerAndSettingsApply (telemetrySnapshot). -/
theorem meets_ReportsAnswerAndSettingsApply_2 : ∃ (rq : Req) (b : List Byte) (k : Nat) (s : State) ,
    s.mayServe rq 0x0D = true ∧ (argOf rq 36 1 = 0 ∨ (4 ≤ argOf rq 36 1 ∧ argOf rq 36 1 ≤ 8)) ∧ argOf rq 38 2 = 0 ∧
    s.globalBody (argOf rq 36 1) = some (b, k) :=
  ⟨req 13 [8], [], 0, serving (req 13 [8]), by decide +kernel⟩

/-- Clause 3 of ReportsAnswerAndSettingsApply (portConfig). -/
theorem meets_ReportsAnswerAndSettingsApply_3 : ∃ (rq : Req) (s : State) ,
    s.mayServe rq 0x0E = true ∧ argOf rq 36 1 < 24 ∧ argOf rq 37 1 < 64 ∧
    ((argOf rq 37 1 % 4 ≠ 2 ∨ argOf rq 37 1 / 4 % 4 ≠ 3)) ∧ bitOf (argOf rq 37 1) 5 = true :=
  ⟨req 14 [23, 0x21], serving (req 14 [23, 0x21]), by decide +kernel⟩

/-- Clause 4 of ReportsAnswerAndSettingsApply (meterConfig). -/
theorem meets_ReportsAnswerAndSettingsApply_4 : ∃ (rq : Req) (s : State) ,
    s.mayServe rq 0x10 = true ∧ argOf rq 36 1 < 48 ∧ 1 ≤ argOf rq 37 1 ∧
    argOf rq 37 1 ≤ 4 ∧ (BitVec.ofNat 64 (argOf rq 40 8) : Word).getLsbD 40 = false :=
  ⟨req 16 [47, 4], serving (req 16 [47, 4]), by decide +kernel⟩

/-- Clause 5 of ReportsAnswerAndSettingsApply (logConfig). -/
theorem meets_ReportsAnswerAndSettingsApply_5 : ∃ (rq : Req) (m : List Byte) (s : State) ,
    s.mayServe rq 0x11 = true ∧ argOf rq 40 8 % 4096 = 0 ∧ argOf rq 48 1 = 0 ∧
    rq.pbytes = 128 :=
  ⟨req 17 [] 128, zeros 128, serving (req 17 [] 128), by decide +kernel⟩

/-- Clause 6 of ReportsAnswerAndSettingsApply (gateConfig). -/
theorem meets_ReportsAnswerAndSettingsApply_6 : ∃ (rq : Req) (e : List Byte) (s : State) ,
    s.mayServe rq 0x0F = true ∧ argOf rq 36 1 < 48 ∧ argOf rq 37 1 < 64 ∧
    argOf rq 38 1 < 2 ∧ argOf rq 40 8 < 2 ^ 48 ∧ rq.pbytes = 4 * (argOf rq 37 1 + 1) ∧
    ((∀ i, i < argOf rq 37 1 + 1 → leAt e (4 * i) 2 ≠ 0 ∧ byteAt e (4 * i + 2) < 32 ∧ byteAt e (4 * i + 3) = 0)) ∧ ((gateEntries e (argOf rq 37 1 + 1)).map (·.dur)).sum ≤ 65536 ∧ (((List.range 5).all fun i => (gateEntries e (argOf rq 37 1 + 1)).any fun g => g.opens.getLsbD i) = true) :=
  ⟨req 15 [47, 0, 1] 4, [1, 0, 0x1F, 0], serving (req 15 [47, 0, 1] 4), by decide +kernel⟩

/-- Clause 1 of WipeAndLifeCycleRun (wipe). -/
theorem meets_WipeAndLifeCycleRun_1 : ∃ (rq : Req) (s : State) ,
    s.mayServe rq 0x12 = true ∧ s.openHdls = [] :=
  ⟨req 18 [], serving (req 18 []), by decide +kernel⟩

/-- Clause 2 of WipeAndLifeCycleRun (wipeDone). -/
theorem meets_WipeAndLifeCycleRun_2 : ∃ (rq : Req) (s : State) ,
    s.mem.wiping = some (some rq) :=
  ⟨req 18 [], { ready with mem := { ready.mem with wiping := some (some (req 18 [])) } }, by decide +kernel⟩

/-- Clause 3 of WipeAndLifeCycleRun (lifecycle). -/
theorem meets_WipeAndLifeCycleRun_3 : ∃ (rq : Req) (b : List Byte) (g : SigAnswer) (s : State) ,
    s.mayServe rq 0x13 = true ∧ s.lapisTurn rq = true ∧ s.openHdls = [] ∧
    s.lifeCycle = 2 ∧ argOf rq 36 1 = 3 ∧ recordForm (b.take rq.pbytes) = true ∧
    zeroAt (b.take rq.pbytes) 72 128 = true ∧ 128 ≤ (b.take rq.pbytes).length ∧ (recordOf (b.take rq.pbytes)).target = 3 ∧
    (recordOf (b.take rq.pbytes)).serial = s.sec.serial :=
  ⟨req 19 [3] 200, [0x4F, 0x56, 0x4C, 0x43, 3, 0, 0, 0, 1] ++ zeros 191, ⟨false, false⟩, serving (req 19 [3] 200), by decide +kernel⟩

/-- Clause 4 of WipeAndLifeCycleRun (lifecycle). -/
theorem meets_WipeAndLifeCycleRun_4 : ∃ (rq : Req) (b : List Byte) (g : SigAnswer) (s : State) ,
    s.mayServe rq 0x13 = true ∧ s.lapisTurn rq = true ∧ s.openHdls = [] ∧
    ((s.lifeCycle = argOf rq 36 1 ∨ transitionOk s.lifeCycle (argOf rq 36 1) = true)) ∧ ((s.lifeCycle ≠ 2 ∨ argOf rq 36 1 ≠ 3)) ∧ s.recordCheck (b.take rq.pbytes) g = none ∧
    (recordOf (b.take rq.pbytes)).target = argOf rq 36 1 :=
  ⟨req 19 [2] 8832, [0x4F, 0x56, 0x4C, 0x43, 2] ++ zeros 8827, ⟨true, true⟩, serving (req 19 [2] 8832), by decide +kernel⟩

/-- Clause 1 of TransactionsReadAndWriteRegisters (stewardRd). -/
theorem meets_TransactionsReadAndWriteRegisters_1 : ∃ (h : List Byte) (s : State) ,
    s.attached = true ∧ h.length = 16 ∧ byteAt h 0 = 0 ∧
    headerOk h = true ∧ accessOk h = true :=
  ⟨[0, 0, 0, 0, 8, 0, 0, 0] ++ leBytes 8 0xFFFFF8, ready, by decide +kernel⟩

/-- Clause 2 of TransactionsReadAndWriteRegisters (registerWrite). -/
theorem meets_TransactionsReadAndWriteRegisters_2 : ∃ (h : List Byte) (b : List Byte) (s : State) ,
    s.attached = true ∧ h.length = 16 ∧ byteAt h 0 = 1 ∧
    headerOk h = true ∧ accessOk h = true ∧ 8 ≤ b.length :=
  ⟨[1, 0, 0, 0, 8, 0, 0, 0] ++ leBytes 8 0xFFFFF8, zeros 8, ready, by decide +kernel⟩

/-- Clause 3 of TransactionsReadAndWriteRegisters (bmcRead). -/
theorem meets_TransactionsReadAndWriteRegisters_3 : ∃ (a : Nat) (n : Nat) (s : State) ,
    s.powered = true ∧ a < 2 ^ 24 :=
  ⟨2 ^ 24 - 1, 8, State.reset, by decide +kernel⟩

/-- Clause 1 of ConfigurationRegistersTakeTheirValues (memRegionSizeWrite). -/
theorem meets_ConfigurationRegistersTakeTheirValues_1 : ∃ (v : Word) (s : State) ,
    s.attached = true ∧ s.locked.contains Reg.memRegionSize = false ∧ (State.wr { s with locked := s.locked ++ [Reg.memRegionSize] } .memRegionSize (v &&& 0x0000FFFFFFFFFFFF#64)).layoutFits (v &&& 0x0000FFFFFFFFFFFF#64) = true :=
  ⟨BitVec.ofNat 64 (1 + 16 * 2 ^ 12), { ready with locked := [] }, by decide +kernel⟩

/-- Clause 2 of ConfigurationRegistersTakeTheirValues (fabricPosWrite). -/
theorem meets_ConfigurationRegistersTakeTheirValues_2 : ∃ (v : Word) (s : State) ,
    s.attached = true ∧ s.locked.contains Reg.rtFabricPos = false ∧ s.locked.contains Reg.rtTorusDim = false :=
  ⟨0x10, { ready with locked := [] }, by decide +kernel⟩

/-- Clause 3 of ConfigurationRegistersTakeTheirValues (cmConfigWrite). -/
theorem meets_ConfigurationRegistersTakeTheirValues_3 : ∃ (k : Nat) (v : Word) (s : State) ,
    s.attached = true ∧ k < 7 ∧ (s.wr (.cmClassCfg k) (v &&& 0x3FFFFFFF#64)).poolOk = true :=
  ⟨6, 16, ready, by decide +kernel⟩

/-- Clause 4 of ConfigurationRegistersTakeTheirValues (evtRingWrite). -/
theorem meets_ConfigurationRegistersTakeTheirValues_4 : ∃ (v : Word) (s : State) ,
    s.attached = true ∧ (v &&& 0x000FFFFFFFFFFFFF#64).getLsbD 41 = false :=
  ⟨0x40, ready, by decide +kernel⟩

/-- Clause 1 of WriteOneClearsWhatItNames (counterOvfClear). -/
theorem meets_WriteOneClearsWhatItNames_1 : ∃ (a : Nat) (k : Ctr) (v : Word) (s : State) ,
    s.attached = true ∧ ovfAt a = [k] ∧ s.ctrAbsent k = false ∧
    v.getLsbD 0 = true :=
  ⟨0x111008, .uciBadAccess, 1, ready, by decide +kernel⟩

/-- Clause 2 of WriteOneClearsWhatItNames (veTrapClear). -/
theorem meets_WriteOneClearsWhatItNames_2 : ∃ (v : Word) (s : State) ,
    s.attached = true ∧ v.getLsbD 63 = true :=
  ⟨BitVec.ofNat 64 (2 ^ 63), ready, by decide +kernel⟩

/-- Clause 3 of WriteOneClearsWhatItNames (memUeLogClear). -/
theorem meets_WriteOneClearsWhatItNames_3 : ∃ (v : Word) (s : State) ,
    s.attached = true ∧ v.getLsbD 63 = true :=
  ⟨BitVec.ofNat 64 (2 ^ 63), ready, by decide +kernel⟩

/-- Clause 4 of WriteOneClearsWhatItNames (alertClear). -/
theorem meets_WriteOneClearsWhatItNames_4 : ∃ (v : Word) (s : State) ,
    s.attached = true ∧ v.getLsbD 8 = true :=
  ⟨0x100, ready, by decide +kernel⟩

/-- Clause 1 of ClocksAndLockstepChange (lockstepRequest). -/
theorem meets_ClocksAndLockstepChange_1 : ∃ (v : Word) (s : State) ,
    s.attached = true ∧ v.getLsbD 0 = true :=
  ⟨1, ready, by decide +kernel⟩

/-- Clause 2 of ClocksAndLockstepChange (lockstepEnter). -/
theorem meets_ClocksAndLockstepChange_2 : ∃  (s : State) ,
    s.engines = true ∧ s.clk.req = true ∧ s.clk.active = false ∧
    s.anyHold = false ∧ s.clk.cycle % (12 * 16384) = 0 :=
  ⟨{ ready with clk := { ready.clk with req := true, cycle := 196608 } }, by decide +kernel⟩

/-- Clause 3 of ClocksAndLockstepChange (clkLockLost). -/
theorem meets_ClocksAndLockstepChange_3 : ∃ (l : BitVec 3) (s : State) ,
    s.powered = true ∧ s.clk.aligned = true ∧ l &&& s.clk.locks ≠ 0 ∧
    s.clk.unaligned = false :=
  ⟨4, ready, by decide +kernel⟩

/-- Clause 4 of ClocksAndLockstepChange (linkRefclkLost). -/
theorem meets_ClocksAndLockstepChange_4 : ∃ (q : Nat) (s : State) ,
    s.powered = true ∧ q < 4 ∧ s.clk.links.getLsbD q = true :=
  ⟨3, ready, by decide +kernel⟩

/-- Clause 5 of ClocksAndLockstepChange (linkRefclkRestored). -/
theorem meets_ClocksAndLockstepChange_5 : ∃ (q : Nat) (s : State) ,
    s.powered = true ∧ q < 4 ∧ s.clk.links.getLsbD q = false :=
  ⟨3, { ready with clk := { ready.clk with links := 7 } }, by decide +kernel⟩

/-- Clause 6 of ClocksAndLockstepChange (xtalLost). -/
theorem meets_ClocksAndLockstepChange_6 : ∃  (s : State) ,
    s.powered = true ∧ s.clk.xtalLost = false :=
  ⟨State.reset, by decide +kernel⟩

/-- Clause 1 of GatesAndRateWheelsMove (gateCtlWrite). -/
theorem meets_GatesAndRateWheelsMove_1 : ∃ (n : Nat) (v : Word) (s : State) ,
    s.pwr.unpowered = false ∧ n < 48 ∧ (v &&& 0xFFFFFFFFFFFF007F#64).getLsbD 0 = false ∧
    s.gateOn n = true :=
  ⟨47, 0, ready.wr (.schGateCtl 47) 1, by decide +kernel⟩

/-- Clause 2 of GatesAndRateWheelsMove (gateListActivate). -/
theorem meets_GatesAndRateWheelsMove_2 : ∃ (n : Nat) (g : GateLoad) (s : State) ,
    (s.sched n).load = some g ∧ s.engines = true ∧ g.en = true ∧
    g.starts s.slotNow = true :=
  ⟨47, ⟨[⟨1, 0x1F⟩], 0, true, 7⟩, { ready with clk := { ready.clk with cycle := 896 }, scheds := [(47, { Sched.reset with load := some ⟨[⟨1, 0x1F⟩], 0, true, 7⟩ })] }, by decide +kernel⟩

/-- Clause 3 of GatesAndRateWheelsMove (gateEntryBoundary). -/
theorem meets_GatesAndRateWheelsMove_3 : ∃ (n : Nat) (i : Nat) (s : State) ,
    s.engines = true ∧ s.gateOn n = true ∧ (s.sched n).entry = some i ∧
    (s.sched n).gTill ≤ s.slotNow :=
  ⟨47, 63, { (ready.wr (.schGateCtl 47) 1) with scheds := [(47, { Sched.reset with entry := some 63 })] }, by decide +kernel⟩

/-- Clause 4 of GatesAndRateWheelsMove (rateWheelWake). -/
theorem meets_GatesAndRateWheelsMove_4 : ∃ (n : Nat) (k : Nat) (s : State) ,
    s.engines = true ∧ (s.sched n).parked.contains k = true ∧ natAt (s.sched n).tr (k - 1) / 65536 ≤ s.slotNow :=
  ⟨47, 5, { ready with scheds := [(47, { Sched.reset with parked := [5] })] }, by decide +kernel⟩

/-- Clause 1 of FirmwareRestarts (fwCtlRestart). -/
theorem meets_FirmwareRestarts_1 : ∃ (v : Word) (s : State) ,
    s.attached = true ∧ v.getLsbD 0 = true :=
  ⟨1, ready, by decide +kernel⟩

/-- Clause 2 of FirmwareRestarts (watchdogExpire). -/
theorem meets_FirmwareRestarts_2 : ∃ (k : Byte) (s : State) ,
    s.firmware = true ∧ k ≠ 0 :=
  ⟨0xFF, ready, by decide +kernel⟩

/-- Clause 3 of FirmwareRestarts (fwRestartDone). -/
theorem meets_FirmwareRestarts_3 : ∃  (s : State) ,
    s.engines = true ∧ s.fw.state = .restarting ∧ ((s.fw.cause = 1 ∨ s.fw.cause = 2)) ∧
    3 ≤ s.fw.window :=
  ⟨{ ready with fw := { ready.fw with state := .restarting, cause := 1, restarts := [0, 0, 0] } }, by decide +kernel⟩

/-- Clause 4 of FirmwareRestarts (fwRestartDone). -/
theorem meets_FirmwareRestarts_4 : ∃  (s : State) ,
    s.engines = true ∧ s.fw.state = .restarting ∧ s.fw.window < 3 :=
  ⟨{ ready with fw := { ready.fw with state := .restarting, cause := 1 } }, by decide +kernel⟩

/-- Clause 1 of ResetsAndBringUpRun (engineReset). -/
theorem meets_ResetsAndBringUpRun_1 : ∃ (v : Word) (s : State) ,
    s.attached = true ∧ fld v 8 8 = 0xA5 ∧ v.getLsbD 1 = false ∧
    v.getLsbD 0 = true :=
  ⟨0xA501, ready, by decide +kernel⟩

/-- Clause 2 of ResetsAndBringUpRun (moduleReset). -/
theorem meets_ResetsAndBringUpRun_2 : ∃  (s : State) ,
    s.pwr.unpowered = false ∧ s.pwr.tripped = false :=
  ⟨State.reset, by decide +kernel⟩

/-- Clause 3 of ResetsAndBringUpRun (coldReset). -/
theorem meets_ResetsAndBringUpRun_3 : ∃ (b : Bool) (s : State) ,
    True :=
  ⟨true, ready, trivial⟩

/-- Clause 4 of ResetsAndBringUpRun (supplyRestored). -/
theorem meets_ResetsAndBringUpRun_4 : ∃  (s : State) ,
    s.powered = true ∧ s.pwr.tripped = true ∧ s.pwr.saving = false ∧
    s.pwr.thermTrip = false :=
  ⟨{ ready with pwr := { ready.pwr with tripped := true } }, by decide +kernel⟩

/-- Clause 5 of ResetsAndBringUpRun (bringUpStageDone). -/
theorem meets_ResetsAndBringUpRun_5 : ∃ (r : StageReport) (s : State) ,
    s.powered = true ∧ s.pwr.failed = false ∧ s.pwr.tripped = false ∧
    s.clk.unaligned = false ∧ s.pwr.stage = 1 :=
  ⟨⟨0, true, 15, [], [], none, true, true, true, ⟨true, true⟩, ⟨true, true⟩⟩, State.reset, by decide +kernel⟩

/-- Clause 6 of ResetsAndBringUpRun (bringUpStageDone). -/
theorem meets_ResetsAndBringUpRun_6 : ∃ (r : StageReport) (s : State) ,
    s.powered = true ∧ s.pwr.failed = false ∧ s.pwr.tripped = false ∧
    s.clk.unaligned = false ∧ s.pwr.good = true ∧ s.pwr.stage = 3 ∧
    r.sysClock = true :=
  ⟨⟨0, true, 15, [], [], none, true, true, true, ⟨true, true⟩, ⟨true, true⟩⟩, { State.reset with pwr := { Power.reset with stage := 3, good := true } }, by decide +kernel⟩

/-- Clause 7 of ResetsAndBringUpRun (bringUpStageDone). -/
theorem meets_ResetsAndBringUpRun_7 : ∃ (r : StageReport) (s : State) ,
    s.powered = true ∧ s.pwr.failed = false ∧ s.pwr.tripped = false ∧
    s.clk.unaligned = false ∧ s.pwr.good = true ∧ s.pwr.stage = 8 ∧
    s.mem.wiping = some none :=
  ⟨⟨0, true, 15, [], [], none, true, true, true, ⟨true, true⟩, ⟨true, true⟩⟩, { State.reset with pwr := { Power.reset with stage := 8, good := true }, mem := { Mem.reset with wiping := some none } }, by decide +kernel⟩

/-- Clause 1 of TripsAndSavesRun (supplyTrip). -/
theorem meets_TripsAndSavesRun_1 : ∃  (s : State) ,
    s.powered = true ∧ s.pwr.tripped = false ∧ s.pwr.good = true :=
  ⟨{ State.reset with pwr := { Power.reset with good := true } }, by decide +kernel⟩

/-- Clause 2 of TripsAndSavesRun (thermalTrip). -/
theorem meets_TripsAndSavesRun_2 : ∃ (l : Bool) (s : State) ,
    s.powered = true ∧ s.pwr.thermTrip = false ∧ s.pwr.tripped = false :=
  ⟨true, State.reset, by decide +kernel⟩

/-- Clause 3 of TripsAndSavesRun (moonstoneSaveDone). -/
theorem meets_TripsAndSavesRun_3 : ∃  (s : State) ,
    s.powered = true ∧ s.pwr.saving = true ∧ s.pwr.supply = true :=
  ⟨{ ready with pwr := { ready.pwr with saving := true, supply := true } }, by decide +kernel⟩

/-- Clause 4 of TripsAndSavesRun (pwrEnLow). -/
theorem meets_TripsAndSavesRun_4 : ∃  (s : State) ,
    s.powered = true ∧ s.pwr.pwrEn = true :=
  ⟨State.reset, by decide +kernel⟩

/-- Clause 5 of TripsAndSavesRun (inputFuseOpen). -/
theorem meets_TripsAndSavesRun_5 : ∃  (s : State) ,
    s.powered = true :=
  ⟨State.reset, by decide +kernel⟩

/-- Clause 1 of WarningsAndDegradesAreReported (vinHigh). -/
theorem meets_WarningsAndDegradesAreReported_1 : ∃ (v : BitVec 16) (s : State) ,
    s.powered = true ∧ 5600 < v.toNat :=
  ⟨5601, State.reset, by decide +kernel⟩

/-- Clause 2 of WarningsAndDegradesAreReported (thermWarn). -/
theorem meets_WarningsAndDegradesAreReported_2 : ∃ (x : Byte) (s : State) ,
    s.powered = true ∧ s.warnC < x.toNat ∧ s.pwr.thermWarn = false :=
  ⟨101, State.reset, by decide +kernel⟩

/-- Clause 3 of WarningsAndDegradesAreReported (thermWarnClear). -/
theorem meets_WarningsAndDegradesAreReported_3 : ∃ (x : Byte) (s : State) ,
    s.powered = true ∧ x.toNat ≤ s.warnC :=
  ⟨100, State.reset, by decide +kernel⟩

/-- Clause 4 of WarningsAndDegradesAreReported (uciDegraded). -/
theorem meets_WarningsAndDegradesAreReported_4 : ∃  (s : State) ,
    s.powered = true ∧ s.uci.m1 = true :=
  ⟨ready, by decide +kernel⟩

/-- Clause 5 of WarningsAndDegradesAreReported (uciDegraded). -/
theorem meets_WarningsAndDegradesAreReported_5 : ∃  (s : State) ,
    s.powered = true ∧ s.uci.m0 = true :=
  ⟨ready, by decide +kernel⟩

/-- Clause 1 of FramesAndLanesAct (dataFrameReceive). -/
theorem meets_FramesAndLanesAct_1 : ∃ (n : Nat) (f : List Byte) (s : State) ,
    s.linkUp n = true ∧ f.length = 260 ∧ zeroAt f 0 2 = false ∧
    frameCrcOk (leBytes 2 (s.port n).rxFseq) f = true :=
  ⟨47, [1] ++ zeros 255 ++ leBytes 4 1616563793, { fabric with ports := [(47, upPort .endpoint 0x100)] }, by decide +kernel⟩

/-- Clause 2 of FramesAndLanesAct (controlFrameReceive). -/
theorem meets_FramesAndLanesAct_2 : ∃ (n : Nat) (f : List Byte) (s : State) ,
    s.engines = true ∧ (s.port n).state = .up ∧ frameCrcOk [] f = true ∧
    controlOk f = true ∧ roleMeets s.planeB (s.port n).role (BitVec.ofNat 8 (byteAt f 52)).toNat = true ∧ bitOf (byteAt f 3) 0 = false ∧
    byteAt f 2 ≠ 1 :=
  ⟨0, zeros 52 ++ [1] ++ zeros 203 ++ leBytes 4 1605094812, fabric, by decide +kernel⟩

/-- Clause 3 of FramesAndLanesAct (linkAckTimeout). -/
theorem meets_FramesAndLanesAct_3 : ∃ (n : Nat) (e : Nat × Cell) (l : List (Nat × Cell)) (s : State) ,
    s.linkUp n = true ∧ (s.port n).replay = e :: l :=
  ⟨0, (5, ackCell), [], withPort 0 fun p => { p with replay := [(5, ackCell)] }, by decide +kernel⟩

/-- Clause 4 of FramesAndLanesAct (controlSlotLoss). -/
theorem meets_FramesAndLanesAct_4 : ∃ (n : Nat) (s : State) ,
    s.engines = true ∧ (s.port n).state = .up ∧ (s.port n).width = 3 ∧
    (s.port n).degrading = false :=
  ⟨0, fabric, by decide +kernel⟩

/-- Clause 5 of FramesAndLanesAct (controlSlotLoss). -/
theorem meets_FramesAndLanesAct_5 : ∃ (n : Nat) (s : State) ,
    s.engines = true ∧ (s.port n).state = .up ∧ (((s.port n).width ≠ 3 ∨ (s.port n).degrading = true)) :=
  ⟨0, withPort 0 fun p => { p with width := 2 }, by decide +kernel⟩

/-- Clause 6 of FramesAndLanesAct (laneFail). -/
theorem meets_FramesAndLanesAct_6 : ∃ (n : Nat) (l : Nat) (s : State) ,
    s.engines = true ∧ n < 24 ∧ l < 8 ∧
    (s.port (2 * n)).split = false ∧ (((s.modPort (2 * n) fun p => { p with laneBad := p.laneBad ||| (1#8 <<< l) }).port (2 * n)).state ≠ .up) :=
  ⟨23, 7, fabric, by decide +kernel⟩

/-- Clause 7 of FramesAndLanesAct (laneFail). -/
theorem meets_FramesAndLanesAct_7 : ∃ (n : Nat) (l : Nat) (s : State) (q : Port),
    (q = (s.modPort (2 * n) fun p => { p with laneBad := p.laneBad ||| (1#8 <<< l) }).port (2 * n)) ∧ s.engines = true ∧ n < 24 ∧
    l < 8 ∧ (s.port (2 * n)).split = false ∧ q.state = .up ∧
    q.split = false ∧ q.width = 3 :=
  ⟨0, 7, fabric, _, rfl, by decide +kernel⟩

/-- Clause 1 of PortsGoUpAndDown (portUp). -/
theorem meets_PortsGoUpAndDown_1 : ∃ (n : Nat) (r : PeerReport) (s : State) (t : State),
    (t = (if (s.port n).trainedHalf r.width = true then ((s.modPort n fun p => p.setPeer r.fa r.role).modPort n fun p => { p with half := r.width }).bump (.lpDegrade n) else s.modPort n fun p => p.setPeer r.fa r.role)) ∧ s.engines = true ∧ (s.port n).state = .training ∧
    (s.port n).role ≠ .unused ∧ (s.port n).widthOk n r.width = true ∧ roleMeets s.planeB (s.port n).role r.role.toNat = true :=
  ⟨0, ⟨0x100, 1, 3, false⟩, withPort 0 fun p => { p with state := .training }, _, rfl, by decide +kernel⟩

/-- Clause 2 of PortsGoUpAndDown (linkTrainFail). -/
theorem meets_PortsGoUpAndDown_2 : ∃ (n : Nat) (s : State) ,
    s.engines = true ∧ (s.port n).state = .training :=
  ⟨0, withPort 0 fun p => { p with state := .training }, by decide +kernel⟩

/-- Clause 3 of PortsGoUpAndDown (portDown). -/
theorem meets_PortsGoUpAndDown_3 : ∃ (n : Nat) (s : State) ,
    s.engines = true ∧ (s.port n).state = .up :=
  ⟨0, fabric, by decide +kernel⟩

/-- Clause 4 of PortsGoUpAndDown (portRetrainTimer). -/
theorem meets_PortsGoUpAndDown_4 : ∃ (n : Nat) (s : State) ,
    s.firmware = true ∧ (s.port n).role ≠ .unused ∧ (s.port n).refclkLost = false ∧
    (s.port n).state = .down :=
  ⟨0, withPort 0 fun p => { p with state := .down }, by decide +kernel⟩

/-- Clause 1 of CellsMoveThroughTheModule (cellReceive). -/
theorem meets_CellsMoveThroughTheModule_1 : ∃ (n : Nat) (b : List Byte) (t : State) (s : State) ,
    s.linkUp n = true ∧ b.length = 256 ∧ ((s.modPort n fun p => { p with rxCells := p.rxCells.erase b }).ingress n b = some t) :=
  ⟨0, ackCell.bytes, ((fabric.modPort 0 fun p => { p with rxCells := p.rxCells.erase ackCell.bytes }).ingress 0 ackCell.bytes).getD fabric, fabric, by decide +kernel, by decide +kernel, by decide +kernel⟩

/-- Clause 2 of CellsMoveThroughTheModule (localCellDeliver). -/
theorem meets_CellsMoveThroughTheModule_2 : ∃ (e : Nat) (k : Nat) (w : Nat × Nat × Cell × Nat) (s : State) (u : State),
    u = s.setWindow (engineClient e) ((s.readWindow (engineClient e)).erase w) ∧ s.engines = true ∧ ((s.readWindow (engineClient e)).find? (fun e => e.1 == k) = some w) ∧
    w.2.2.2 ≤ s.clk.cycle ∧ ((w.2.2.1.kind = kCtrl ∨ w.2.2.1.kind = kRead)) :=
  ⟨15, 6, (6, 7, ackCell, 0), { fabric with cm := { CellMem.reset with slots := [⟨7, ackCell, 1, 0, .shared, 0, false, some 0, []⟩], queues := [(.toEngine 15 6, [7])], windows := [(engineClient 15, [(6, 7, ackCell, 0)])] } }, _, rfl, by decide +kernel⟩

/-- Clause 3 of CellsMoveThroughTheModule (localCellDeliver). -/
theorem meets_CellsMoveThroughTheModule_3 : ∃ (e : Nat) (k : Nat) (w : Nat × Nat × Cell × Nat) (s : State) (u : State) (t : State),
    u = s.setWindow (engineClient e) ((s.readWindow (engineClient e)).erase w) ∧ t = (((u.setQueue (.toEngine e k) ((u.queue (.toEngine e k)).drop 1)).dropRef w.2.1).fillWindow e).admitBlocked ∧ s.engines = true ∧
    ((s.readWindow (engineClient e)).find? (fun e => e.1 == k) = some w) ∧ w.2.2.2 ≤ s.clk.cycle ∧ w.2.2.1.kind ≠ kCtrl ∧
    w.2.2.1.kind ≠ kRead ∧ t.cellFate w.2.2.1 = .stream :=
  ⟨15, 6, (6, 7, { ackCell with kind := 6, payload := [] }, 0), { fabric with cm := { CellMem.reset with slots := [⟨7, { ackCell with kind := 6, payload := [] }, 1, 0, .shared, 0, false, some 0, []⟩], queues := [(.toEngine 15 6, [7])], windows := [(engineClient 15, [(6, 7, { ackCell with kind := 6, payload := [] }, 0)])] } }, _, _, rfl, rfl, by decide +kernel⟩

/-- Clause 4 of CellsMoveThroughTheModule (adaptiveEgressChoice). -/
theorem meets_CellsMoveThroughTheModule_4 : ∃ (q : Nat) (e : Nat × List Nat) (x : CellSlot) (n : Nat) (s : State) ,
    ((s.cm.waiting.find? fun w => w.1 == q) = some e) ∧ s.cellSlot q = some x ∧ (((e.2.filter fun p => (s.port p).state == .up).find? fun p => s.grantOk x.port p x.cell.tc) = some n) :=
  ⟨7, (7, [16]), ⟨7, { ackCell with kind := 6, payload := [] }, 1, 0, .shared, 0, false, some 0, []⟩, 16, { fabric with cm := { CellMem.reset with slots := [⟨7, { ackCell with kind := 6, payload := [] }, 1, 0, .shared, 0, false, some 0, []⟩], waiting := [(7, [16])] } }, by decide +kernel⟩

/-- Clause 5 of CellsMoveThroughTheModule (schedulerSelect). -/
theorem meets_CellsMoveThroughTheModule_5 : ∃ (n : Nat) (s : State) ,
    s.linkUp n = true ∧ (s.readWindow (egressClient n)).length < windowRoom :=
  ⟨16, fabric, by decide +kernel⟩

/-- Clause 6 of CellsMoveThroughTheModule (cellTransmit). -/
theorem meets_CellsMoveThroughTheModule_6 : ∃ (n : Nat) (o : Nat) (e : Nat × Nat × Cell × Nat) (s : State) (t : State) (u : State),
    t = s.setWindow (egressClient n) ((s.readWindow (egressClient n)).erase e) ∧ u = { t with cm := { t.cm with ends := Assoc.del (n, e.2.1) t.cm.ends } } ∧ ((s.readWindow (egressClient n)).find? (fun e => e.1 == n) = some e) ∧
    s.linkUp n = true ∧ (s.port n).replay.length < replayFrames ∧ e.2.2.2 ≤ s.clk.cycle :=
  ⟨16, 0, (16, 7, ackCell, 0), { fabric with cm := { CellMem.reset with windows := [(32, [(16, 7, ackCell, 0)])] } }, _, _, rfl, rfl, by decide +kernel⟩

/-- Clause 1 of StreamsRepairThemselves (nakTimer). -/
theorem meets_StreamsRepairThemselves_1 : ∃ (a : FA) (h : BitVec 20) (r : RxStream) (g : Nat) (t : State) (s : State) ,
    Assoc.find (a, h) s.rt.rx = some r ∧ s.engines = true ∧ r.held ≠ [] ∧
    r.naks + 1 < giveUp ∧ s.streamStep (a, h) = (g, t) :=
  ⟨0x20, 0x100, ⟨none, 3, [], 0, [], [4], 0, 0⟩, 5, { planned plan1 (opened 5) with rt := { fabric.rt with rx := [((0x20, 0x100), ⟨none, 3, [], 0, [], [4], 0, 0⟩)] } }, { planned plan1 (opened 5) with rt := { fabric.rt with rx := [((0x20, 0x100), ⟨none, 3, [], 0, [], [4], 0, 0⟩)] } }, by decide +kernel⟩

/-- Clause 2 of StreamsRepairThemselves (probeTimer). -/
theorem meets_StreamsRepairThemselves_2 : ∃ (a : FA) (h : BitVec 20) (v : TxStream) (r : Retained) (s : State) (u : State),
    u = s.fetchSpilled v h ∧ s.tx (a, h) = some v ∧ ((v.top fun r => r.cell.fl) = some r ∨ ((v.top fun r => r.cell.fl) = none ∧ (v.top fun _ => true) = some r)) ∧
    s.engines = true ∧ v.probes + 1 < giveUp ∧ u.tx (a, h) = some v :=
  ⟨0x20, 0x100, ⟨5, 1, [], [⟨{ ackCell with dst := 0x20, src := 0x10, hdl := 0x100, fl := true }, false, [], none⟩], 14⟩, ⟨{ ackCell with dst := 0x20, src := 0x10, hdl := 0x100, fl := true }, false, [], none⟩, { fabric with rt := { fabric.rt with tx := [((0x20, 0x100), ⟨5, 1, [], [⟨{ ackCell with dst := 0x20, src := 0x10, hdl := 0x100, fl := true }, false, [], none⟩], 14⟩)] } }, _, rfl, by decide +kernel⟩

/-- Clause 3 of StreamsRepairThemselves (ackReceive). -/
theorem meets_StreamsRepairThemselves_3 : ∃ (a : FA) (h : BitVec 20) (q : BitVec 24) (k : Nat) (g : Nat) (s : State) (u : State),
    u = s.takeCtrl a 0x05 ∧ s.engines = true ∧ u.streamTo a h = none ∧
    u.plan (planOf h) = none :=
  ⟨0x20, 0x100, 0, 1, 5, fabric, _, rfl, by decide +kernel⟩

/-- Clause 4 of StreamsRepairThemselves (ackReceive). -/
theorem meets_StreamsRepairThemselves_4 : ∃ (a : FA) (h : BitVec 20) (q : BitVec 24) (k : Nat) (g : Nat) (x : StreamKey) (v : TxStream) (s : State) (u : State) (t : State),
    u = s.takeCtrl a 0x05 ∧ (t = ((((u.setTx x { v with retained := v.retained.map (fun (r : Retained) => if 2 ^ 23 ≤ seqAhead r.cell.seq q.toNat ∧ !(r.acked.contains a) then { r with acked := r.acked ++ [a] } else r), probes := 0 }).release x fun r => u.allAcked x.1 r.acked).pump x).admitBlocked)) ∧ s.engines = true ∧
    u.streamTo a h = some x ∧ u.tx x = some v ∧ v.names h g = true ∧
    t.plan (planOf h) = none :=
  ⟨0x20, 0x100, 0, 1, 5, (0x20, 0x100), ⟨5, 1, [], [⟨{ ackCell with dst := 0x20, src := 0x10, hdl := 0x100, fl := true }, false, [], none⟩], 14⟩, { fabric with rt := { fabric.rt with tx := [((0x20, 0x100), ⟨5, 1, [], [⟨{ ackCell with dst := 0x20, src := 0x10, hdl := 0x100, fl := true }, false, [], none⟩], 14⟩)] } }, _, _, rfl, rfl, by decide +kernel⟩

/-- Clause 5 of StreamsRepairThemselves (nakReceive). -/
theorem meets_StreamsRepairThemselves_5 : ∃ (a : FA) (h : BitVec 20) (g : Nat) (l : List (Nat × Nat)) (x : StreamKey) (v : TxStream) (s : State) (u : State) (y : TxStream) (w : State),
    u = s.takeCtrl a 0x06 ∧ y = (w.tx x).getD { v with retained := [] } ∧ w = u.fetchSpilled v h ∧
    s.engines = true ∧ u.streamTo a h = some x ∧ u.tx x = some v ∧
    v.names h g = true :=
  ⟨0x20, 0x100, 5, [(0, 1)], (0x20, 0x100), ⟨5, 1, [], [⟨{ ackCell with dst := 0x20, src := 0x10, hdl := 0x100, fl := true }, false, [], none⟩], 14⟩, { fabric with rt := { fabric.rt with tx := [((0x20, 0x100), ⟨5, 1, [], [⟨{ ackCell with dst := 0x20, src := 0x10, hdl := 0x100, fl := true }, false, [], none⟩], 14⟩)] } }, _, _, _, rfl, rfl, rfl, by decide +kernel⟩

/-- Clause 1 of LaunchesAndHeartbeatsAct (launch). -/
theorem meets_LaunchesAndHeartbeatsAct_1 : ∃ (a : FA) (h : BitVec 20) (g : Nat) (w : Word) (x : BitVec 32) (p : Plan) (k : Coll) (s : State) (t : State),
    t = s.openInstance h p g (s.pmaskFor p.members) (some x) ∧ s.engines = true ∧ s.plan (planOf h) = some p ∧
    p.coll = some k ∧ w = p.sig ∧ p.members.contains a = true ∧
    s.scalarOk p h g a x.toNat = true ∧ scalarAgrees p (s.slot h) g x = true ∧ (s.slot h).state = .free ∧
    s.pmaskFor p.members ≠ 0 ∧ (t.slot h).state = .opened :=
  ⟨0x100, 0x100, 5, 7, 0, plan1, ⟨7, 0x1F, 0x1F, 1, 0, 0, false, false, 0, 0, 0, 0, 0xFFFF⟩, planned plan1 Slot.fresh, _, rfl, by decide +kernel⟩

/-- Clause 2 of LaunchesAndHeartbeatsAct (launch). -/
theorem meets_LaunchesAndHeartbeatsAct_2 : ∃ (a : FA) (h : BitVec 20) (g : Nat) (w : Word) (x : BitVec 32) (s : State) ,
    s.engines = true ∧ s.plan (planOf h) = none :=
  ⟨0x100, 0x100, 5, 7, 0, fabric, by decide +kernel⟩

/-- Clause 3 of LaunchesAndHeartbeatsAct (heartbeatSend). -/
theorem meets_LaunchesAndHeartbeatsAct_3 : ∃ (n : Nat) (s : State) ,
    s.engines = true ∧ s.unplaced = false ∧ (s.port n).role = .endpoint ∧
    (s.port n).state = .up ∧ s.isFenced (s.peerOn n) = false :=
  ⟨0, fabric, by decide +kernel⟩

/-- Clause 4 of LaunchesAndHeartbeatsAct (heartbeat). -/
theorem meets_LaunchesAndHeartbeatsAct_4 : ∃ (n : Nat) (g : Nat) (k : Nat) (f : Byte) (s : State) (u : State),
    u = s.takeCtrl (s.peerOn n) 0x03 ∧ u.engines = true ∧ (u.port n).role = .endpoint ∧
    (u.port n).state = .up ∧ u.isFenced (s.peerOn n) = false ∧ (u.port n).silent = false :=
  ⟨0, 5, 1, 0, fabric, _, rfl, by decide +kernel⟩

/-- Clause 5 of LaunchesAndHeartbeatsAct (heartbeatMiss). -/
theorem meets_LaunchesAndHeartbeatsAct_5 : ∃ (n : Nat) (s : State) ,
    s.engines = true ∧ (s.port n).role = .endpoint ∧ (s.port n).state = .up ∧
    (s.port n).silent = false ∧ (s.port n).misses + 1 < s.missLimit :=
  ⟨0, withPort 0 fun p => { p with misses := 8 }, by decide +kernel⟩

/-- Clause 6 of LaunchesAndHeartbeatsAct (heartbeatMiss). -/
theorem meets_LaunchesAndHeartbeatsAct_6 : ∃ (n : Nat) (s : State) ,
    s.engines = true ∧ (s.port n).role = .endpoint ∧ (s.port n).state = .up ∧
    (s.port n).silent = false ∧ s.missLimit ≤ (s.port n).misses + 1 :=
  ⟨0, withPort 0 fun p => { p with misses := 9 }, by decide +kernel⟩

/-- Clause 7 of LaunchesAndHeartbeatsAct (stepEnd). -/
theorem meets_LaunchesAndHeartbeatsAct_7 : ∃ (n : Nat) (g : Nat) (v : Byte) (s : State) (u : State),
    u = s.takeCtrl (s.peerOn n) 0x04 ∧ u.engines = true ∧ (u.port n).role = .endpoint :=
  ⟨0, 5, 0, fabric, _, rfl, by decide +kernel⟩

/-- Clause 1 of TwinsWatchEachOther (twinHbSend). -/
theorem meets_TwinsWatchEachOther_1 : ∃ (n : Nat) (s : State) ,
    s.engines = true ∧ s.unplaced = false ∧ s.twin.hbStopped = false ∧
    (s.port n).role = .twin ∧ (s.port n).state = .up ∧ s.twin.present = true :=
  ⟨40, fabric, by decide +kernel⟩

/-- Clause 2 of TwinsWatchEachOther (twinHb). -/
theorem meets_TwinsWatchEachOther_2 : ∃ (n : Nat) (g : Nat) (k : Nat) (b : BitVec 48) (s : State) (u : State),
    u = s.takeCtrl s.twin.fa 0x80 ∧ u.engines = true ∧ (u.port n).role = .twin ∧
    u.twinServes = true :=
  ⟨40, 5, 1, 0, fabric, _, rfl, by decide +kernel⟩

/-- Clause 3 of TwinsWatchEachOther (twinSilent). -/
theorem meets_TwinsWatchEachOther_3 : ∃  (s : State) ,
    s.firmware = true ∧ s.twinServes = true ∧ (State.planeB { s with twin := { s.twin with silent := true } }) = false :=
  ⟨fabric, by decide +kernel⟩

/-- Clause 4 of TwinsWatchEachOther (twinBWaitEnd). -/
theorem meets_TwinsWatchEachOther_4 : ∃  (s : State) ,
    s.firmware = true ∧ s.twin.bWait = true ∧ ((s.endpointsUp.any fun p => (s.port p).hbHeard && (s.port p).otherUp) = true) :=
  ⟨{ (withPort 0 fun p => { p with hbHeard := true, otherUp := true }) with twin := { fabric.twin with bWait := true } }, by decide +kernel⟩

/-- Clause 5 of TwinsWatchEachOther (twinBWaitEnd). -/
theorem meets_TwinsWatchEachOther_5 : ∃  (s : State) ,
    s.firmware = true ∧ s.twin.bWait = true ∧ ((s.endpointsUp.any fun p => (s.port p).hbHeard && (s.port p).otherUp) = false) :=
  ⟨{ fabric with twin := { fabric.twin with bWait := true } }, by decide +kernel⟩

/-- Clause 6 of TwinsWatchEachOther (silence). -/
theorem meets_TwinsWatchEachOther_6 : ∃ (g : Nat) (b : BitVec 48) (s : State) ,
    s.firmware = true ∧ s.paired = true :=
  ⟨5, 0, fabric, by decide +kernel⟩

/-- Clause 1 of NoticesChangeTheEpochTable (fenceNotice). -/
theorem meets_NoticesChangeTheEpochTable_1 : ∃ (a : FA) (f : FA) (e : BitVec 4) (d : Bool) (b : Nat) (s : State) (u : State),
    u = s.takeCtrl a 0x82 ∧ s.firmware = true ∧ (u.party f).fenced = false :=
  ⟨0x20, 0x120, 1, false, 0, fabric, _, rfl, by decide +kernel⟩

/-- Clause 2 of NoticesChangeTheEpochTable (fenceBumpDeferred). -/
theorem meets_NoticesChangeTheEpochTable_2 : ∃ (f : FA) (s : State) ,
    s.firmware = true ∧ (s.party f).deferred = true ∧ (s.party f).fenced = true ∧
    (s.party f).applied = [] ∧ s.bumpWaits f = false :=
  ⟨0x120, { fabric with rt := { fabric.rt with parties := [(0x120, ⟨0, true, none, true, []⟩)] } }, by decide +kernel⟩

/-- Clause 3 of NoticesChangeTheEpochTable (admitNotice). -/
theorem meets_NoticesChangeTheEpochTable_3 : ∃ (a : FA) (f : FA) (e : BitVec 4) (g : Nat) (s : State) (u : State),
    u = s.takeCtrl a 0x83 ∧ s.firmware = true ∧ (u.party f).fenced = true :=
  ⟨0x20, 0x120, 1, 5, { fabric with rt := { fabric.rt with parties := [(0x120, ⟨0, true, none, true, []⟩)] } }, _, rfl, by decide +kernel⟩

/-- Clause 4 of NoticesChangeTheEpochTable (linkNotice). -/
theorem meets_NoticesChangeTheEpochTable_4 : ∃ (a : FA) (r : FA) (d : Nat) (m : Bool) (x : Bool) (b : Nat) (s : State) ,
    s.firmware = true :=
  ⟨0x20, 0x20, 0, false, false, 0, fabric, by decide +kernel⟩

/-- Clause 1 of StepsAreExchangedAndCommitted (digestSend). -/
theorem meets_StepsAreExchangedAndCommitted_1 : ∃ (g : Nat) (d : Word) (w : BitVec 32) (s : State) ,
    s.engines = true ∧ s.stepDone g = false ∧ s.led.sentDig = none ∧
    s.commitBegun g = true ∧ s.preReady g = true ∧ d = s.digest ∧
    w = s.ownWord g ∧ (State.paired { s with led := { s.led with sentDig := some (g, d, w) } }) = true :=
  ⟨6, 0, 0, { twinned with led := { Ledger.reset with step := 5, notice := some (6, []) } }, by decide +kernel⟩

/-- Clause 2 of StepsAreExchangedAndCommitted (digest). -/
theorem meets_StepsAreExchangedAndCommitted_2 : ∃ (g : Nat) (d : Word) (w : BitVec 32) (s : State) (u : State),
    u = s.takeCtrl s.twin.fa 0x85 ∧ u.engines = true ∧ u.mem.resilver = none ∧
    u.stepDone g = false ∧ u.paired = true :=
  ⟨6, 0, 0, twinned, _, rfl, by decide +kernel⟩

/-- Clause 3 of StepsAreExchangedAndCommitted (normResult). -/
theorem meets_StepsAreExchangedAndCommitted_3 : ∃ (h : BitVec 20) (x : BitVec 32) (g : Nat) (s : State) (u : State),
    u = s.takeCtrl s.twin.fa 0x87 ∧ u.engines = true ∧ u.isNormPlan (planOf h) = true ∧
    u.stepDone g = false :=
  ⟨0x900, 0, 6, planned ({ plan1 with coll := some ⟨8, 0, 0, 1, 0, 1, false, false, 32, 0, 9, 0, 0xFFFF⟩ }) Slot.fresh, _, rfl, by decide +kernel⟩

/-- Clause 4 of StepsAreExchangedAndCommitted (carry). -/
theorem meets_StepsAreExchangedAndCommitted_4 : ∃  (s : State) (u : State),
    u = s.fetchAll (s.carryRanges s.led.srcB) (s.carryRanges s.tgtB) ∧ s.engines = true ∧ (s.carrySteps.any s.carryDue) = true ∧
    u.allReady (u.carryRanges u.led.srcB ++ u.carryRanges u.tgtB) = true :=
  ⟨{ sharded with led := { sharded.led with notice := some (6, []) } }, _, rfl, by decide +kernel⟩

/-- Clause 5 of StepsAreExchangedAndCommitted (commitNotice). -/
theorem meets_StepsAreExchangedAndCommitted_5 : ∃ (g : Nat) (r : List Byte) (s : State) (u : State),
    u = s.takeCtrl s.twin.fa 0x86 ∧ u.engines = true ∧ u.stepDone g = false ∧
    u.mem.resilver = none ∧ (u.readyWord g).isSome = true :=
  ⟨6, zeros 64, { twinned with led := { Ledger.reset with step := 5, final := some (6, 0) } }, _, rfl, by decide +kernel⟩

/-- Clause 6 of StepsAreExchangedAndCommitted (commitNotice). -/
theorem meets_StepsAreExchangedAndCommitted_6 : ∃ (g : Nat) (r : List Byte) (s : State) (u : State),
    u = s.takeCtrl s.twin.fa 0x86 ∧ u.engines = true ∧ u.stepDone g = false ∧
    u.mem.resilver = none ∧ u.readyWord g = none :=
  ⟨6, zeros 64, { twinned with led := { Ledger.reset with step := 5 } }, _, rfl, by decide +kernel⟩

/-- Clause 7 of StepsAreExchangedAndCommitted (commitOnReady). -/
theorem meets_StepsAreExchangedAndCommitted_7 : ∃ (g : Nat) (r : List Byte) (s : State) ,
    s.engines = true ∧ s.led.notice = some (g, r) ∧ s.stepDone g = false ∧
    (s.readyWord g).isSome = true :=
  ⟨6, [], { twinned with led := { Ledger.reset with step := 5, final := some (6, 0), notice := some (6, []) } }, by decide +kernel⟩

/-- Clause 1 of GranulesHeal (healStart). -/
theorem meets_GranulesHeal_1 : ∃ (h : Heal) (l : List Heal) (s : State) (t : State),
    t = s.setHeal { h with tag := s.nextTag, sent := true } ∧ s.mem.heals = h :: l ∧ s.engines = true ∧
    h.sent = false ∧ s.paired = true :=
  ⟨⟨(twinned.regionBase .stateA), ⟨5, 0, 0⟩, 0, false⟩, [], { twinned with mem := { twinned.mem with heals := [⟨(twinned.regionBase .stateA), ⟨5, 0, 0⟩, 0, false⟩], bad := [twinned.regionBase .stateA] } }, _, rfl, by decide +kernel⟩

/-- Clause 2 of GranulesHeal (healRequest). -/
theorem meets_GranulesHeal_2 : ∃ (a : FA) (x : Nat) (r : GranuleRef) (g : Nat) (s : State) (u : State) (w : State),
    u = s.takeInbox a 0 ∧ w = u.fetchRange (g * granuleBytes) granuleBytes ∧ s.mem.wiping = none ∧
    u.engines = true ∧ a = u.twin.fa ∧ r.gen = u.led.step ∧
    u.granuleAt r = some g ∧ ((r.role.getLsbD 0 = false ∨ r.role.getLsbD 1 = true ∨ u.targetWritten r.offset = true)) ∧ u.tagFree (a, BitVec.ofNat 20 x) = true ∧
    w.mem.bad.contains g = false :=
  ⟨0x11, 255, ⟨5, 0, 0⟩, (twinned.regionBase .stateA), { twinned with led := { Ledger.reset with step := 5 } }, _, _, rfl, rfl, by decide +kernel⟩

/-- Clause 3 of GranulesHeal (healRequestTimeout). -/
theorem meets_GranulesHeal_3 : ∃ (h : Heal) (l : List Heal) (s : State) ,
    s.mem.heals = h :: l ∧ s.engines = true ∧ h.sent = true ∧
    s.paired = true :=
  ⟨⟨(twinned.regionBase .stateA), ⟨5, 0, 0⟩, 2, true⟩, [], { twinned with mem := { twinned.mem with heals := [⟨(twinned.regionBase .stateA), ⟨5, 0, 0⟩, 2, true⟩], bad := [twinned.regionBase .stateA] } }, by decide +kernel⟩

/-- Clause 4 of GranulesHeal (healFail). -/
theorem meets_GranulesHeal_4 : ∃ (r : GranuleRef) (x : Byte) (h : Heal) (l : List Heal) (s : State) (u : State),
    u = s.takeCtrl s.twin.fa 0x88 ∧ u.mem.heals = h :: l ∧ u.engines = true ∧
    h.sent = true ∧ h.ref = r :=
  ⟨⟨5, 0, 0⟩, 1, ⟨(twinned.regionBase .stateA), ⟨5, 0, 0⟩, 2, true⟩, [], { twinned with mem := { twinned.mem with heals := [⟨(twinned.regionBase .stateA), ⟨5, 0, 0⟩, 2, true⟩], bad := [twinned.regionBase .stateA] } }, _, rfl, by decide +kernel⟩

/-- Clause 5 of GranulesHeal (healData). -/
theorem meets_GranulesHeal_5 : ∃ (r : GranuleRef) (b : List Byte) (h : Heal) (l : List Heal) (s : State) (u : State) (t : State),
    u = s.takeTransfer h.tag ∧ (t = State.retire { u with mem := { u.mem with heals := u.mem.heals.drop 1, bad := u.mem.bad.filter fun g => g != h.granule } } h.granule) ∧ s.mem.heals = h :: l ∧
    s.mem.wiping = none ∧ u.engines = true ∧ h.sent = true ∧
    b.length = granuleBytes ∧ h.ref = r ∧ u.healAgrees h.granule b = true :=
  ⟨⟨5, 0, 0⟩, zeros 4096, ⟨(twinned.regionBase .stateA), ⟨5, 0, 0⟩, 2, true⟩, [], { twinned with mem := { twinned.mem with heals := [⟨(twinned.regionBase .stateA), ⟨5, 0, 0⟩, 2, true⟩], bad := [twinned.regionBase .stateA] } }, _, _, rfl, rfl, by decide +kernel⟩

/-- Clause 1 of FoldInputsAreStaged (contribReceive). -/
theorem meets_FoldInputsAreStaged_1 : ∃ (m : Msg) (p : Plan) (t : State) (k : Coll) (pl : Place4) (s : State) (v : Slot),
    v = t.slot m.hdl ∧ accepted s m p t ∧ p.coll = some k ∧
    t.chunkPlace p v k m.head.chunk m.src = some pl ∧ m.head.msg.toNat = msgContrib ∧ k.folds = true ∧
    k.kind ≠ kAllGather ∧ k.kind ≠ kBroadcast ∧ p.seqn = none ∧
    t.isModule m.src = false ∧ (t.localInputs p v).contains m.src = true ∧ (v.chunk m.head.chunk).sentDown = false ∧
    (((v.chunk m.head.chunk).contribs.any fun e => e.1 == m.src) = false) ∧ t.treeOk pl m.head = true ∧ geometryOk p v m.head = true ∧
    lenOk m.head m.data (k.contribBytes v.lseD m.head.elems) = true :=
  ⟨mess 0x100 0 32 (zeros 128), foldPlan 0, planned (foldPlan 0) joinedSlot, fold 0, ⟨0, 0x10, none, [0x20]⟩, planned (foldPlan 0) joinedSlot, _, rfl,
    by unfold accepted; decide +kernel, by decide +kernel⟩

/-- Clause 2 of FoldInputsAreStaged (expsReceive). -/
theorem meets_FoldInputsAreStaged_2 : ∃ (m : Msg) (p : Plan) (t : State) (k : Coll) (pl : Place4) (u : State) (s : State) (v : Slot),
    v = t.slot m.hdl ∧ accepted s m p t ∧ p.coll = some k ∧
    t.chunkPlace p v k m.head.chunk 0 = some pl ∧ m.head.msg.toNat = msgExps ∧ (((v.chunk m.head.chunk).exps.any fun e => e.1 == m.src) = false) ∧
    (((v.chunk m.head.chunk).exps2.any fun e => e.1 == m.src) = false) ∧ 0 < k.rounds ∧ pl.children.contains m.src = true ∧
    t.treeOk pl m.head = true ∧ geometryOk p v m.head = true ∧ m.data.length = k.expsBytes v.lseD m.head.elems 0 ∧
    t.takeCredit m.hdl k m.src m.head.chunk = some u :=
  ⟨mess 0x20 1 32 [0], foldPlan 0, planned (foldPlan 0) joinedSlot, fold 0, ⟨0, 0x10, none, [0x20]⟩, ((planned (foldPlan 0) joinedSlot).takeCredit 0x100 (fold 0) 0x20 0).getD ready, planned (foldPlan 0) joinedSlot, _, rfl,
    by unfold accepted; decide +kernel, by decide +kernel⟩

/-- Clause 3 of FoldInputsAreStaged (expsReceive). -/
theorem meets_FoldInputsAreStaged_3 : ∃ (m : Msg) (p : Plan) (t : State) (k : Coll) (pl : Place4) (s : State) (v : Slot),
    v = t.slot m.hdl ∧ accepted s m p t ∧ p.coll = some k ∧
    t.chunkPlace p v k m.head.chunk 0 = some pl ∧ m.head.msg.toNat = msgExps ∧ (((v.chunk m.head.chunk).exps.any fun e => e.1 == m.src) = true) ∧
    (((v.chunk m.head.chunk).exps2.any fun e => e.1 == m.src) = false) ∧ 1 < k.rounds ∧ (v.chunk m.head.chunk).maxe.isSome = true ∧
    pl.children.contains m.src = true ∧ t.treeOk pl m.head = true ∧ geometryOk p v m.head = true ∧
    m.data.length = k.expsBytes v.lseD m.head.elems 1 :=
  ⟨mess 0x20 1 32 (zeros (({ fold 0 with foldctl := 8 }).blocks 32 32)), { plan1 with coll := some ({ fold 0 with foldctl := 8 }) }, planned ({ plan1 with coll := some ({ fold 0 with foldctl := 8 }) }) (let v := chunkSlot { Chunk.new with expsSent := 1, maxe := some [0], exps := [(0x20, zeros 128)] }; { v with lseD := 32 }), { fold 0 with foldctl := 8 }, ⟨0, 0x10, none, [0x20]⟩, planned ({ plan1 with coll := some ({ fold 0 with foldctl := 8 }) }) (let v := chunkSlot { Chunk.new with expsSent := 1, maxe := some [0], exps := [(0x20, zeros 128)] }; { v with lseD := 32 }), _, rfl,
    by unfold accepted; decide +kernel, by decide +kernel⟩

/-- Clause 4 of FoldInputsAreStaged (maxeReceive). -/
theorem meets_FoldInputsAreStaged_4 : ∃ (m : Msg) (p : Plan) (t : State) (k : Coll) (pl : Place4) (s : State) (v : Slot),
    v = t.slot m.hdl ∧ accepted s m p t ∧ p.coll = some k ∧
    t.chunkPlace p v k m.head.chunk 0 = some pl ∧ m.head.msg.toNat = msgMaxe ∧ k.kind ≠ kBarrier ∧
    (v.chunk m.head.chunk).maxe = none ∧ (v.chunk m.head.chunk).maxe2 = none ∧ 0 < k.rounds ∧
    0 < (v.chunk m.head.chunk).expsSent ∧ pl.parent = some m.src ∧ t.treeOk pl m.head = true ∧
    geometryOk p v m.head = true ∧ m.data.length = k.expsBytes v.lseD m.head.elems 0 :=
  ⟨mess 0x20 2 32 [0], foldPlan 1, planned (foldPlan 1) (chunkSlot { Chunk.new with expsSent := 1 }), fold 1, ⟨0, 0x20, some 0x20, []⟩, planned (foldPlan 1) (chunkSlot { Chunk.new with expsSent := 1 }), _, rfl,
    by unfold accepted; decide +kernel, by decide +kernel⟩

/-- Clause 5 of FoldInputsAreStaged (psumReceive). -/
theorem meets_FoldInputsAreStaged_5 : ∃ (m : Msg) (p : Plan) (t : State) (k : Coll) (pl : Place4) (s : State) (v : Slot),
    v = t.slot m.hdl ∧ accepted s m p t ∧ p.coll = some k ∧
    t.chunkPlace p v k m.head.chunk 0 = some pl ∧ m.head.msg.toNat = msgPsum ∧ k.folds = true ∧
    k.fop ≠ fopOrdered ∧ pl.children.contains m.src = true ∧ (((v.chunk m.head.chunk).psums.all fun e => e.1 != m.src) = true) ∧
    k.rounds ≠ 0 ∧ (((v.chunk m.head.chunk).exps.any fun e => e.1 == m.src) = true) ∧ t.treeOk pl m.head = true ∧
    geometryOk p v m.head = true ∧ m.data.length = k.psumBytes v.lseD m.head.elems :=
  ⟨mess 0x20 3 32 (zeros ((fold 0).psumBytes 0 32)), foldPlan 0, planned (foldPlan 0) (chunkSlot { Chunk.new with exps := [(0x20, [0])] }), fold 0, ⟨0, 0x10, none, [0x20]⟩, planned (foldPlan 0) (chunkSlot { Chunk.new with exps := [(0x20, [0])] }), _, rfl,
    by unfold accepted; decide +kernel, by decide +kernel⟩

/-- Clause 6 of FoldInputsAreStaged (psumReceive). -/
theorem meets_FoldInputsAreStaged_6 : ∃ (m : Msg) (p : Plan) (t : State) (k : Coll) (pl : Place4) (u : State) (s : State) (v : Slot),
    v = t.slot m.hdl ∧ accepted s m p t ∧ p.coll = some k ∧
    t.chunkPlace p v k m.head.chunk 0 = some pl ∧ m.head.msg.toNat = msgPsum ∧ k.folds = true ∧
    k.fop ≠ fopOrdered ∧ pl.children.contains m.src = true ∧ (((v.chunk m.head.chunk).psums.all fun e => e.1 != m.src) = true) ∧
    k.rounds = 0 ∧ t.treeOk pl m.head = true ∧ geometryOk p v m.head = true ∧
    m.data.length = k.psumBytes v.lseD m.head.elems ∧ t.takeCredit m.hdl k m.src m.head.chunk = some u :=
  ⟨mess 0x20 3 32 (zeros 128), { plan1 with coll := some ({ fold 0 with foldctl := 3 }) }, planned ({ plan1 with coll := some ({ fold 0 with foldctl := 3 }) }) joinedSlot, { fold 0 with foldctl := 3 }, ⟨0, 0x10, none, [0x20]⟩, ((planned ({ plan1 with coll := some ({ fold 0 with foldctl := 3 }) }) joinedSlot).takeCredit 0x100 ({ fold 0 with foldctl := 3 }) 0x20 0).getD ready, planned ({ plan1 with coll := some ({ fold 0 with foldctl := 3 }) }) joinedSlot, _, rfl,
    by unfold accepted; decide +kernel, by decide +kernel⟩

/-- Clause 1 of ResultsAndExchangesAreDelivered (resultReceive). -/
theorem meets_ResultsAndExchangesAreDelivered_1 : ∃ (m : Msg) (p : Plan) (t : State) (k : Coll) (pl : Place4) (s : State) (v : Slot),
    v = t.slot m.hdl ∧ accepted s m p t ∧ p.coll = some k ∧
    t.chunkPlace p v k m.head.chunk 0 = some pl ∧ m.head.msg.toNat = msgResult ∧ ((k.folds = true ∨ k.kind = kBarrier)) ∧
    k.kind ≠ kRug ∧ pl.parent = some m.src ∧ (v.chunk m.head.chunk).sentDown = false ∧
    t.treeOk pl m.head = true ∧ geometryOk p v m.head = true ∧ m.data.length = k.resultBytes v.lseD m.head.elems :=
  ⟨mess 0x20 4 32 (zeros 128), foldPlan 1, planned (foldPlan 1) joinedSlot, fold 1, ⟨0, 0x20, some 0x20, []⟩, planned (foldPlan 1) joinedSlot, _, rfl,
    by unfold accepted; decide +kernel, by decide +kernel⟩

/-- Clause 2 of ResultsAndExchangesAreDelivered (gatherReceive). -/
theorem meets_ResultsAndExchangesAreDelivered_2 : ∃ (m : Msg) (p : Plan) (t : State) (k : Coll) (s : State) (v : Slot) (near : List FA),
    v = t.slot m.hdl ∧ near = treeNear (t.links v k.trees t.planeB m.head.treeIx) t.selfFa ∧ accepted s m p t ∧
    p.coll = some k ∧ p.seqn = none ∧ k.kind = kAllGather ∧
    m.head.msg.toNat = msgGather ∧ m.head.chunk < p.nChunks 0 ∧ m.head.elems = p.chunkElems 0 m.head.chunk ∧
    m.head.planeB = t.planeB ∧ t.planeOfChunk p v m.head.chunk = t.planeB ∧ m.head.treeIx = t.treeOfChunk p v m.head.chunk ∧
    near.contains m.src = true ∧ (v.sentDown.filter (· == (m.head.chunk, m.src))).length < t.leavesBehind p (t.links v k.trees t.planeB m.head.treeIx) m.src ∧ lenOk m.head m.data (k.resultBytes 0 m.head.elems) = true :=
  ⟨mess 0x20 5 32 (zeros 128), { plan1 with coll := some ⟨3, 0x1F, 0, 1, 0, 0, false, false, 32, 0, 0, 0, 0xFFFF⟩ }, planned ({ plan1 with coll := some ⟨3, 0x1F, 0, 1, 0, 0, false, false, 32, 0, 0, 0, 0xFFFF⟩ }) joinedSlot, ⟨3, 0x1F, 0, 1, 0, 0, false, false, 32, 0, 0, 0, 0xFFFF⟩, planned ({ plan1 with coll := some ⟨3, 0x1F, 0, 1, 0, 0, false, false, 32, 0, 0, 0, 0xFFFF⟩ }) joinedSlot, _, _, rfl, rfl,
    by unfold accepted; decide +kernel, by decide +kernel⟩

/-- Clause 3 of ResultsAndExchangesAreDelivered (gatherReceive). -/
theorem meets_ResultsAndExchangesAreDelivered_3 : ∃ (m : Msg) (p : Plan) (t : State) (k : Coll) (q : SeqSec) (s : State) (v : Slot) (w : FA),
    v = t.slot m.hdl ∧ w = p.members.getD m.head.lastFa.toNat 0 ∧ accepted s m p t ∧
    p.coll = some k ∧ p.seqn = some q ∧ m.head.msg.toNat = msgGather ∧
    m.head.chunk < p.nChunks 0 ∧ m.head.elems = p.chunkElems 0 m.head.chunk ∧ m.head.planeB = t.planeB ∧
    t.planeOfChunk p v m.head.chunk = t.planeB ∧ m.head.treeIx = t.treeOfChunk p v m.head.chunk ∧ t.leafOf w t.planeB = some m.src ∧
    m.src ≠ t.selfFa ∧ q.role ≠ 2 ∧ m.head.lastFa.toNat < p.members.length ∧
    v.sentDown.contains (m.head.chunk, w) = false ∧ lenOk m.head m.data m.head.elems = true ∧ m.head.chunk / q.cpb < q.bpr p.members.length :=
  ⟨⟨0x20, 0x100, { (mess 0x20 5 64 []).head with lastFa := 1 }, zeros 64⟩, { plan1 with coll := some ⟨3, 0x1F, 0x1F, 1, 0, 0, false, false, 0, 0, 0, 0, 0xFFFF⟩, seqn := some ⟨1, 0, 0, 0, 32, 4, 16, 1, false⟩ }, planned ({ plan1 with coll := some ⟨3, 0x1F, 0x1F, 1, 0, 0, false, false, 0, 0, 0, 0, 0xFFFF⟩, seqn := some ⟨1, 0, 0, 0, 32, 4, 16, 1, false⟩ }) ({ joinedSlot with scalar := some 0 }), ⟨3, 0x1F, 0x1F, 1, 0, 0, false, false, 0, 0, 0, 0, 0xFFFF⟩, ⟨1, 0, 0, 0, 32, 4, 16, 1, false⟩, planned ({ plan1 with coll := some ⟨3, 0x1F, 0x1F, 1, 0, 0, false, false, 0, 0, 0, 0, 0xFFFF⟩, seqn := some ⟨1, 0, 0, 0, 32, 4, 16, 1, false⟩ }) ({ joinedSlot with scalar := some 0 }), _, _, rfl, rfl,
    by unfold accepted; decide +kernel, by decide +kernel⟩

/-- Clause 4 of ResultsAndExchangesAreDelivered (gatherReceive). -/
theorem meets_ResultsAndExchangesAreDelivered_4 : ∃ (m : Msg) (p : Plan) (t : State) (k : Coll) (pl : Place4) (s : State) (v : Slot),
    v = t.slot m.hdl ∧ accepted s m p t ∧ p.coll = some k ∧
    p.seqn = none ∧ ((k.kind = kBroadcast ∨ (k.kind = kRug ∧ m.head.presence = false))) ∧ m.head.msg.toNat = msgGather ∧
    m.head.chunk < p.nChunks 0 ∧ m.head.elems = p.chunkElems 0 m.head.chunk ∧ m.head.planeB = t.planeB ∧
    t.planeOfChunk p v m.head.chunk = t.planeB ∧ m.head.treeIx = t.treeOfChunk p v m.head.chunk ∧ t.chunkPlace p v k m.head.chunk 0 = some pl ∧
    pl.parent = some m.src ∧ (v.chunk m.head.chunk).sentDown = false ∧ lenOk m.head m.data (k.resultBytes 0 m.head.elems) = true :=
  ⟨mess 0x20 5 32 (zeros 128), { plan1 with coll := some ⟨4, 0x1F, 0, 1, 0, 0, false, false, 32, 1, 0, 0, 0xFFFF⟩ }, planned ({ plan1 with coll := some ⟨4, 0x1F, 0, 1, 0, 0, false, false, 32, 1, 0, 0, 0xFFFF⟩ }) joinedSlot, ⟨4, 0x1F, 0, 1, 0, 0, false, false, 32, 1, 0, 0, 0xFFFF⟩, ⟨0, 0x20, some 0x20, []⟩, planned ({ plan1 with coll := some ⟨4, 0x1F, 0, 1, 0, 0, false, false, 32, 1, 0, 0, 0xFFFF⟩ }) joinedSlot, _, rfl,
    by unfold accepted; decide +kernel, by decide +kernel⟩

/-- Clause 5 of ResultsAndExchangesAreDelivered (exchReceive). -/
theorem meets_ResultsAndExchangesAreDelivered_5 : ∃ (m : Msg) (p : Plan) (t : State) (k : Coll) (a : Nat) (b : Nat) (s : State) ,
    accepted s m p t ∧ p.coll = some k ∧ m.head.msg.toNat = msgExch ∧
    p.seqn = none ∧ p.dispatch = none ∧ p.sparse = none ∧
    p.isPlain = true ∧ p.members.getD a 0 = m.src ∧ b < p.members.length :=
  ⟨mess 0x100 6 32 (zeros 128), { plan1 with coll := some ⟨5, 0x1F, 0x1F, 1, 0, 0, false, false, 0, 0, 0, 0, 0xFFFF⟩ }, planned ({ plan1 with coll := some ⟨5, 0x1F, 0x1F, 1, 0, 0, false, false, 0, 0, 0, 0, 0xFFFF⟩ }) joinedSlot, ⟨5, 0x1F, 0x1F, 1, 0, 0, false, false, 0, 0, 0, 0, 0xFFFF⟩, 0, 1, planned ({ plan1 with coll := some ⟨5, 0x1F, 0x1F, 1, 0, 0, false, false, 0, 0, 0, 0, 0xFFFF⟩ }) joinedSlot,
    by unfold accepted; decide +kernel, by decide +kernel⟩

/-- Clause 6 of ResultsAndExchangesAreDelivered (exchReceive). -/
theorem meets_ResultsAndExchangesAreDelivered_6 : ∃ (m : Msg) (p : Plan) (t : State) (k : Coll) (a : Nat) (b : Nat) (q : SeqSec) (s : State) ,
    accepted s m p t ∧ p.coll = some k ∧ m.head.msg.toNat = msgExch ∧
    p.seqn = some q :=
  ⟨mess 0x20 6 64 (zeros 64), { plan1 with coll := some ⟨3, 0x1F, 0x1F, 1, 0, 0, false, false, 0, 0, 0, 0, 0xFFFF⟩, seqn := some ⟨1, 0, 0, 0, 32, 4, 16, 1, false⟩ }, planned ({ plan1 with coll := some ⟨3, 0x1F, 0x1F, 1, 0, 0, false, false, 0, 0, 0, 0, 0xFFFF⟩, seqn := some ⟨1, 0, 0, 0, 32, 4, 16, 1, false⟩ }) ({ joinedSlot with scalar := some 0 }), ⟨3, 0x1F, 0x1F, 1, 0, 0, false, false, 0, 0, 0, 0, 0xFFFF⟩, 1, 0, ⟨1, 0, 0, 0, 32, 4, 16, 1, false⟩, planned ({ plan1 with coll := some ⟨3, 0x1F, 0x1F, 1, 0, 0, false, false, 0, 0, 0, 0, 0xFFFF⟩, seqn := some ⟨1, 0, 0, 0, 32, 4, 16, 1, false⟩ }) ({ joinedSlot with scalar := some 0 }),
    by unfold accepted; decide +kernel, by decide +kernel⟩

/-- Clause 7 of ResultsAndExchangesAreDelivered (exchReceive). -/
theorem meets_ResultsAndExchangesAreDelivered_7 : ∃ (m : Msg) (p : Plan) (t : State) (k : Coll) (a : Nat) (b : Nat) (x : SparseSec) (s : State) ,
    accepted s m p t ∧ p.coll = some k ∧ m.head.msg.toNat = msgExch ∧
    p.seqn = none ∧ p.dispatch = none ∧ p.sparse = some x :=
  ⟨mess 0x20 6 0 [], sparsePlan, planned sparsePlan joinedSlot, ⟨6, 0x1F, 0x1F, 1, 0, 0, false, false, 0, 0, 0, 0, 0xFFFF⟩, 1, 0, sparseSec, planned sparsePlan joinedSlot,
    by unfold accepted; decide +kernel, by decide +kernel⟩

/-- Clause 8 of ResultsAndExchangesAreDelivered (exchReceive). -/
theorem meets_ResultsAndExchangesAreDelivered_8 : ∃ (m : Msg) (p : Plan) (t : State) (k : Coll) (a : Nat) (b : Nat) (x : DispatchSec) (s : State) ,
    accepted s m p t ∧ p.coll = some k ∧ m.head.msg.toNat = msgExch ∧
    p.seqn = none ∧ p.dispatch = some x ∧ t.isModule m.src = true :=
  ⟨mess 0x20 6 0 [], { plan1 with coll := some ⟨6, 0x1F, 0x1F, 1, 0, 0, false, false, 0, 0, 0, 0, 0xFFFF⟩, dispatch := some ⟨2, 1, 0, 1, 0, 0, 2, 1, 32, 1, 1, 1, 0, 0xFFFF, 0⟩ }, planned ({ plan1 with coll := some ⟨6, 0x1F, 0x1F, 1, 0, 0, false, false, 0, 0, 0, 0, 0xFFFF⟩, dispatch := some ⟨2, 1, 0, 1, 0, 0, 2, 1, 32, 1, 1, 1, 0, 0xFFFF, 0⟩ }) joinedSlot, ⟨6, 0x1F, 0x1F, 1, 0, 0, false, false, 0, 0, 0, 0, 0xFFFF⟩, 1, 0, ⟨2, 1, 0, 1, 0, 0, 2, 1, 32, 1, 1, 1, 0, 0xFFFF, 0⟩, planned ({ plan1 with coll := some ⟨6, 0x1F, 0x1F, 1, 0, 0, false, false, 0, 0, 0, 0, 0xFFFF⟩, dispatch := some ⟨2, 1, 0, 1, 0, 0, 2, 1, 32, 1, 1, 1, 0, 0xFFFF, 0⟩ }) joinedSlot,
    by unfold accepted; decide +kernel, by decide +kernel⟩

/-- Clause 9 of ResultsAndExchangesAreDelivered (exchReceive). -/
theorem meets_ResultsAndExchangesAreDelivered_9 : ∃ (m : Msg) (p : Plan) (t : State) (k : Coll) (a : Nat) (b : Nat) (r : Nat) (x : DispatchSec) (s : State) ,
    accepted s m p t ∧ p.coll = some k ∧ m.head.msg.toNat = msgExch ∧
    p.seqn = none ∧ p.dispatch = some x ∧ t.isModule m.src = false ∧
    ((p.members.findIdx? fun z => z == m.src) = some r) ∧ (t.slot m.hdl).locals.contains m.src = true :=
  ⟨mess 0x100 6 0 [], { plan1 with coll := some ⟨6, 0x1F, 0x1F, 1, 0, 0, false, false, 0, 0, 0, 0, 0xFFFF⟩, dispatch := some ⟨2, 1, 0, 1, 0, 0, 2, 1, 32, 1, 1, 1, 0, 0xFFFF, 0⟩ }, planned ({ plan1 with coll := some ⟨6, 0x1F, 0x1F, 1, 0, 0, false, false, 0, 0, 0, 0, 0xFFFF⟩, dispatch := some ⟨2, 1, 0, 1, 0, 0, 2, 1, 32, 1, 1, 1, 0, 0xFFFF, 0⟩ }) joinedSlot, ⟨6, 0x1F, 0x1F, 1, 0, 0, false, false, 0, 0, 0, 0, 0xFFFF⟩, 0, 0, 0, ⟨2, 1, 0, 1, 0, 0, 2, 1, 32, 1, 1, 1, 0, 0xFFFF, 0⟩, planned ({ plan1 with coll := some ⟨6, 0x1F, 0x1F, 1, 0, 0, false, false, 0, 0, 0, 0, 0xFFFF⟩, dispatch := some ⟨2, 1, 0, 1, 0, 0, 2, 1, 32, 1, 1, 1, 0, 0xFFFF, 0⟩ }) joinedSlot,
    by unfold accepted; decide +kernel, by decide +kernel⟩

/-- Clause 10 of ResultsAndExchangesAreDelivered (endReceive). -/
theorem meets_ResultsAndExchangesAreDelivered_10 : ∃ (m : Msg) (p : Plan) (s : State) (u : State),
    u = s.takeInbox m.src m.hdl ∧ u.engines = true ∧ u.plan (planOf m.hdl) = some p ∧
    (u.slot m.hdl).unlaunched (!(u.isLeafOf m.src)) m.src m.head.step = false ∧ m.head.ok = true ∧ (u.slot m.hdl).state = .opened ∧
    (u.slot m.hdl).refused.contains m.src = false ∧ m.head.step = (u.slot m.hdl).step ∧ m.head.sig = p.sig ∧
    m.data.length = 2 * m.head.elems ∧ u.isModule m.src = true ∧ ((p.seqn.isSome = true → m.head.layer = ((u.slot m.hdl).scalar.getD 0).toNat)) :=
  ⟨mess 0x20 7 1 [0, 1], foldPlan 0, planned (foldPlan 0) joinedSlot, _, rfl, by decide +kernel⟩

/-- Clause 1 of FoldsAreFormedAndSent (expsSend). -/
theorem meets_FoldsAreFormedAndSent_1 : ∃ (h : BitVec 20) (c : Nat) (w : ChunkView) (own : List (List Byte)) (s : State) ,
    s.chunkView h c = some w ∧ s.moduleData w.plan w.slot = some own ∧ w.ch.expsSent < w.coll.rounds ∧
    ((w.coll.kind ≠ kBarrier ∨ w.place.parent.isSome = true)) ∧ s.localsIn w = true ∧ w.kidsIn w.ch.expsSent = true ∧
    ((w.ch.expsSent = 0 ∨ w.ch.maxe.isSome = true)) ∧ ((s.inTurn w c fun x => decide (w.ch.expsSent < x.expsSent)) = true) :=
  ⟨0x100, 0, ⟨foldPlan 0, fold 0, (chunkSlot { Chunk.new with contribs := [(0x100, some (zeros 128))], exps := [(0x20, [0])] }), ⟨0, 0x10, none, [0x20]⟩, ((chunkSlot { Chunk.new with contribs := [(0x100, some (zeros 128))], exps := [(0x20, [0])] })).chunk 0, 32⟩, [], planned (foldPlan 0) (chunkSlot { Chunk.new with contribs := [(0x100, some (zeros 128))], exps := [(0x20, [0])] }), rfl, by decide +kernel⟩

/-- Clause 2 of FoldsAreFormedAndSent (psumSend). -/
theorem meets_FoldsAreFormedAndSent_2 : ∃ (h : BitVec 20) (c : Nat) (w : ChunkView) (q : FA) (given : List (List Byte)) (s : State) (t : State) (z : FA × Nat),
    (t = ((s.bump .feAlignLoss (w.coll.psumOf w.plan.members.length w.slot.lseD w.elems w.ch given).2).modSlot h fun v => v.modChunk c fun ch => { ch with psumSent := true })) ∧ z = (if w.coll.rounds = 0 then lastOf w.ch.arrived else (0, 0)) ∧ s.chunkView h c = some w ∧
    w.place.parent = some q ∧ s.allIn w = some given ∧ w.coll.kind ≠ kBarrier ∧
    w.coll.fop ≠ fopOrdered ∧ w.ch.psumSent = false ∧ ((s.inTurn w c fun x => x.psumSent) = true) :=
  ⟨0x100, 0, ⟨foldPlan 1, fold 1, (chunkSlot { Chunk.new with contribs := [(0x100, some (zeros 128))], psums := [], maxe := some [0], expsSent := 1 }), ⟨0, 0x20, some 0x20, []⟩, ((chunkSlot { Chunk.new with contribs := [(0x100, some (zeros 128))], psums := [], maxe := some [0], expsSent := 1 })).chunk 0, 32⟩, 0x20, [zeros 128], planned (foldPlan 1) (chunkSlot { Chunk.new with contribs := [(0x100, some (zeros 128))], psums := [], maxe := some [0], expsSent := 1 }), _, _, rfl, rfl, rfl, by decide +kernel⟩

/-- Clause 3 of FoldsAreFormedAndSent (foldResultForm). -/
theorem meets_FoldsAreFormedAndSent_3 : ∃ (h : BitVec 20) (c : Nat) (w : ChunkView) (given : List (List Byte)) (s : State) (r : FoldOut) (u : State) (t : State) (x : State),
    r = w.coll.resultOf w.plan.members.length w.slot.lseD w.elems w.ch given w.ordered ∧ u = s.formFetch w c ∧ (t = ((((u.bump .feAlignLoss r.lost).bump .feSpecialBlock r.special).bump .feFoldRange r.range).bump .feLseEmpty r.empty).modSlot h fun v => v.modChunk c fun ch => { ch with formed := true }) ∧
    x = (if w.coll.rounds = 0 ∨ w.coll.kind = kBarrier then t.straggle w.plan w.ch.arrived else t) ∧ s.chunkView h c = some w ∧ w.place.parent = none ∧
    s.allIn w = some given ∧ w.ch.formed = false ∧ ((s.inTurn w c fun x => x.formed) = true) ∧
    (u.slot h).state = .opened ∧ u.formReady w c = true :=
  ⟨0x100, 0, ⟨foldPlan 0, fold 0, (chunkSlot { Chunk.new with contribs := [(0x100, some (zeros 128))], exps := [(0x20, [0])], maxe := some [0], expsSent := 1, psums := [(0x20, zeros 256)] }), ⟨0, 0x10, none, [0x20]⟩, ((chunkSlot { Chunk.new with contribs := [(0x100, some (zeros 128))], exps := [(0x20, [0])], maxe := some [0], expsSent := 1, psums := [(0x20, zeros 256)] })).chunk 0, 32⟩, [zeros 128], planned (foldPlan 0) (chunkSlot { Chunk.new with contribs := [(0x100, some (zeros 128))], exps := [(0x20, [0])], maxe := some [0], expsSent := 1, psums := [(0x20, zeros 256)] }), _, _, _, _, rfl, rfl, rfl, rfl, rfl, by decide +kernel⟩

/-- Clause 1 of UpdatesAndNormsRun (mirrorReceive). -/
theorem meets_UpdatesAndNormsRun_1 : ∃ (m : MirrorMsg) (p : Plan) (k : Coll) (s : State) (u : State),
    u = s.takeInbox m.src m.hdl ∧ u.engines = true ∧ u.plan (planOf m.hdl) = some p ∧
    p.coll = some k ∧ (u.slot m.hdl).state = .opened :=
  ⟨⟨0x11, 0x100, 7, 6, 0, 32, 0, 0, zeros 128⟩, rugPlan, ⟨8, 0, 0, 1, 0, 1, false, false, 32, 0, 9, 0, 0xFFFF⟩, rugged, _, rfl, by decide +kernel⟩

/-- Clause 2 of UpdatesAndNormsRun (mirrorReceive). -/
theorem meets_UpdatesAndNormsRun_2 : ∃ (m : MirrorMsg) (p : Plan) (s : State) (u : State),
    u = s.takeInbox m.src m.hdl ∧ u.engines = true ∧ u.plan (planOf m.hdl) = some p ∧
    (u.slot m.hdl).state = .free :=
  ⟨⟨0x11, 0x100, 7, 6, 0, 32, 0, 0, zeros 128⟩, rugPlan, planned rugPlan Slot.fresh, _, rfl, by decide +kernel⟩

/-- Clause 3 of UpdatesAndNormsRun (rugUpdate). -/
theorem meets_UpdatesAndNormsRun_3 : ∃ (h : BitVec 20) (c : Nat) (l : List Upset) (p : Plan) (k : Coll) (o : Owner) (r : RugChunk) (d : Shard) (a : Nat) (s : State) (u : State),
    u = (s.meetUpsets l).fetchShard d a o.offset (p.chunkElems 0 c) ∧ s.plan (planOf h) = some p ∧ p.coll = some k ∧
    p.owners[c]? = some o ∧ (s.slot h).rugOf c = some r ∧ s.shardAt o.shard = some (d, a) ∧
    s.engines = true ∧ (s.slot h).state = .opened ∧ k.kind = kRug ∧
    r.applied = false ∧ s.owns o = true ∧ s.updatesRun (s.slot h).step = true ∧
    u.shardReady d a o.offset (p.chunkElems 0 c) = true :=
  ⟨0x100, 0, [], rugPlan, ⟨8, 0, 0, 1, 0, 1, false, false, 32, 0, 9, 0, 0xFFFF⟩, ⟨0x10, 0x11, 1, 0⟩, ⟨zeros 128, 0, false, false, false, false⟩, shard1, 0, rugged, _, rfl, by decide +kernel⟩

/-- Clause 4 of UpdatesAndNormsRun (normPassStart). -/
theorem meets_UpdatesAndNormsRun_4 : ∃ (n : Nat) (g : Nat) (s : State) (t : State),
    (t = (s.group n).foldl (fun (t : State) p => match t.instanceAt p.num g, p.coll with | some h, some k => (t.ownedChunks p).foldl (fun (t : State) e => t.park h p k e.1) t | _, _ => t) s) ∧ s.engines = true ∧ s.normReady n g = true ∧
    ((s.norm n g).bind (·.partialSum)) = none :=
  ⟨9, 6, rugged, _, rfl, by decide +kernel⟩

/-- Clause 1 of ProgramsRun (writeMessageReceive). -/
theorem meets_ProgramsRun_1 : ∃ (m : WriteMsg) (p : Plan) (s : State) (t : State),
    t = (s.takeInbox m.src m.hdl).openFor p m.hdl (!(s.isLeafOf m.src)) m.step 0 ∧ s.engines = true ∧ s.plan (planOf m.hdl) = some p ∧
    (s.slot m.hdl).unlaunched (!(s.isLeafOf m.src)) m.src m.step = false ∧ (t.slot m.hdl).state = .opened ∧ t.pl.waiting.contains m.hdl = false ∧
    (t.landFetch m).landReady p (t.slot m.hdl) m = true ∧ ((t.landFetch m).slot m.hdl).state = .opened :=
  ⟨⟨0x20, 0x100, 0, 0, 5, 0, []⟩, plan1, planned plan1 joinedSlot, _, rfl, by decide +kernel⟩

/-- Clause 2 of ProgramsRun (writeMessageReceive). -/
theorem meets_ProgramsRun_2 : ∃ (m : WriteMsg) (p : Plan) (s : State) (t : State),
    t = (s.takeInbox m.src m.hdl).openFor p m.hdl (!(s.isLeafOf m.src)) m.step 0 ∧ s.engines = true ∧ s.plan (planOf m.hdl) = some p ∧
    (s.slot m.hdl).unlaunched (!(s.isLeafOf m.src)) m.src m.step = false ∧ (t.slot m.hdl).state = .opened ∧ t.pl.waiting.contains m.hdl = true :=
  ⟨⟨0x20, 0x100, 0, 0, 5, 0, []⟩, plan1, { planned plan1 joinedSlot with pl := { (planned plan1 joinedSlot).pl with waiting := [0x100] } }, _, rfl, by decide +kernel⟩

/-- Clause 3 of ProgramsRun (queueContextStart). -/
theorem meets_ProgramsRun_3 : ∃ (h : BitVec 20) (l : List (BitVec 20)) (p : Plan) (s : State) (w : List StagedWrite) (u : State),
    (w = s.pl.staged.filter (fun w => w.msg.hdl == h)) ∧ (u = w.foldl (fun t w => t.landFetch w.msg) s) ∧ s.pl.waiting = h :: l ∧
    s.plan (planOf h) = some p ∧ s.engines = true ∧ s.contextsUsed + p.queues.length ≤ 1024 ∧
    u.pl.waiting.contains h = true ∧ ((w.all fun w => u.landReady p (s.slot h) w.msg) = true) :=
  ⟨0x100, [], progPlan, { running 1 none with pl := { (running 1 none).pl with progs := [], waiting := [0x100] } }, _, _, rfl, rfl, by decide +kernel⟩

/-- Clause 4 of ProgramsRun (opIssue). -/
theorem meets_ProgramsRun_4 : ∃ (h : BitVec 20) (n : Nat) (q : QCtx) (o : Op) (s : State) ,
    s.nextOp h n = some (q, o) ∧ s.engines = true ∧ (s.slot h).state = .opened ∧
    q.met o.wait = true :=
  ⟨0x100, 0, ⟨0, 0, [1], [0], [], 0, none⟩, op1, running 1 none, by decide +kernel⟩

/-- Clause 5 of ProgramsRun (opIterationDone). -/
theorem meets_ProgramsRun_5 : ∃ (h : BitVec 20) (n : Nat) (q : QCtx) (o : Op) (r : OpRun) (x : OpRun) (u : State) (s : State) (t : State),
    (t = (if r.waited = true then s else s.modQ h n fun q => q.take o.wait)) ∧ s.curOp h n = some (q, o, r) ∧ s.engines = true ∧
    (s.slot h).state = .opened ∧ ((r.waited = true ∨ q.met o.wait = true)) ∧ r.skipped = true ∧
    (((t.withBank r.bankB).skipIter h o r).restore s.led.srcB) = .done u x :=
  ⟨0x100, 0, ⟨0, 0, [1], [0], [], 0, (some ⟨0, true, true, false, [], [], [], false, []⟩)⟩, op1, ⟨0, true, true, false, [], [], [], false, []⟩, _, _, running 1 (some ⟨0, true, true, false, [], [], [], false, []⟩), _, rfl, by decide +kernel, by decide +kernel, by decide +kernel, by decide +kernel, by decide +kernel, rfl⟩

/-- Clause 6 of ProgramsRun (opIterationDone). -/
theorem meets_ProgramsRun_6 : ∃ (h : BitVec 20) (n : Nat) (q : QCtx) (o : Op) (r : OpRun) (x : OpRun) (u : State) (s : State) (w : State) (t : State),
    w = s.opFetch o r ∧ (t = (if r.waited = true then w else w.modQ h n fun q => q.take o.wait)) ∧ s.curOp h n = some (q, o, r) ∧
    s.engines = true ∧ (s.slot h).state = .opened ∧ ((r.waited = true ∨ q.met o.wait = true)) ∧
    r.skipped = false ∧ (w.slot h).state = .opened ∧ (t.withBank r.bankB).iterReady o r = true ∧
    (((t.withBank r.bankB).runIter h n o r).restore s.led.srcB) = .done u x :=
  ⟨0x100, 0, ⟨0, 0, [1], [0], [], 0, (some ⟨0, true, false, false, [], [], [], false, []⟩)⟩, op1, ⟨0, true, false, false, [], [], [], false, []⟩, _, _, running 1 (some ⟨0, true, false, false, [], [], [], false, []⟩), _, _, rfl, rfl, by decide +kernel, by decide +kernel, by decide +kernel, by decide +kernel, by decide +kernel, by decide +kernel, by decide +kernel, rfl⟩

/-- Clause 7 of ProgramsRun (waitCycle). -/
theorem meets_ProgramsRun_7 : ∃ (h : BitVec 20) (p : Plan) (g : Prog) (s : State) ,
    s.plan (planOf h) = some p ∧ Assoc.find h s.pl.progs = some g ∧ s.engines = true ∧
    s.rdf .tokWaitLimit 0 24 ≠ 0 ∧ s.allWait h p g = true ∧ g.quiet + s.rdf .tokWaitLimit 0 24 * 2000 ≤ s.clk.cycle :=
  ⟨0x100, progPlan, ⟨[⟨0, 0, [0], [0], [], 0, none⟩], 0⟩, running 0 none, by decide +kernel⟩

/-- Clause 8 of ProgramsRun (spaccPass2). -/
theorem meets_ProgramsRun_8 : ∃ (h : BitVec 20) (p : Plan) (c : SparseSec) (x : Sparse) (y : Sparse) (s : State) (t : State) (u : State),
    t = (s.fetchObject 6 [h.toNat]).pass1All h p c true ∧ u = t.pass2 h p c y ∧ s.plan (planOf h) = some p ∧
    p.sparse = some c ∧ s.sparseOf h = some x ∧ s.engines = true ∧
    (s.slot h).state = .opened ∧ x.started = false ∧ s.sparseTurn h = true ∧
    ((p.localRanks (s.slot h)).all (x.ownerIn p (s.slot h))) = true ∧ t.sparseOf h = some y ∧ (t.slot h).state = .opened :=
  ⟨0x100, sparsePlan, sparseSec, ⟨5, [], [(0, 0), (0, 1)], [], false, []⟩, { (⟨5, [], [(0, 0), (0, 1)], [], false, []⟩ : Sparse) with folded := [(0, 0), (0, 1)] }, { planned sparsePlan joinedSlot with pl := { (planned sparsePlan joinedSlot).pl with sparse := [((1, 0), ⟨5, [], [(0, 0), (0, 1)], [], false, []⟩)] } }, _, _, rfl, rfl, by decide +kernel⟩

/-- Clause 1 of MemoryIsKeptUp (refresh). -/
theorem meets_MemoryIsKeptUp_1 : ∃ (c : Nat) (s : State) ,
    s.memRuns = true ∧ s.hasChannel c = true ∧ s.onCalendar c = true :=
  ⟨0, ready, by decide +kernel⟩

/-- Clause 2 of MemoryIsKeptUp (refresh). -/
theorem meets_MemoryIsKeptUp_2 : ∃ (c : Nat) (s : State) ,
    s.memRuns = true ∧ s.hasChannel c = true ∧ s.clk.active = false ∧
    s.onCalendar c = false :=
  ⟨1, ready, by decide +kernel⟩

/-- Clause 3 of MemoryIsKeptUp (refreshStatusRead). -/
theorem meets_MemoryIsKeptUp_3 : ∃ (n : Nat) (s : State) ,
    s.memRuns = true ∧ s.packages.contains n = true ∧ ((s.clk.active = false ∨ s.turnIn (8 * n) 16384 = true)) ∧
    s.mem.hotPkgs.contains n = false :=
  ⟨23, ready, by decide +kernel⟩

/-- Clause 4 of MemoryIsKeptUp (refreshStatusRead). -/
theorem meets_MemoryIsKeptUp_4 : ∃ (n : Nat) (s : State) ,
    s.memRuns = true ∧ s.packages.contains n = true ∧ ((s.clk.active = false ∨ s.turnIn (8 * n) 16384 = true)) :=
  ⟨23, ready, by decide +kernel⟩

/-- Clause 5 of MemoryIsKeptUp (memHotClear). -/
theorem meets_MemoryIsKeptUp_5 : ∃  (s : State) ,
    s.memRuns = true ∧ s.mem.hot = true ∧ s.mem.hotPkgs = [] :=
  ⟨{ ready with mem := { ready.mem with hot := true } }, by decide +kernel⟩

/-- Clause 6 of MemoryIsKeptUp (patrolScrub). -/
theorem meets_MemoryIsKeptUp_6 : ∃ (c : Nat) (b : Nat) (l : List (Nat × BitVec 16)) (s : State) (n : Nat) (u : State) (t : State),
    n = Assoc.get 0 c s.mem.scrub ∧ u = { s with mem := { s.mem with scrub := Assoc.set c (n + 1) s.mem.scrub } } ∧ t = (if (n + 1) % rawUnits = 0 ∧ s.allPasses < u.allPasses then u.bump .memScrubPass else u) ∧
    s.memRuns = true ∧ s.hasChannel c = true ∧ s.rdf .memCtl 0 8 ≠ 0 ∧
    s.mem.wiping = none ∧ ((s.clk.active = false ∨ s.turnIn c s.scrubBeats = true)) ∧ n % rawUnits % 33 ≠ 32 ∧
    t.blockAt c (n % rawUnits) = some b :=
  ⟨191, 6112, [], ready, _, _, _, rfl, rfl, rfl, by decide +kernel⟩

/-- Clause 7 of MemoryIsKeptUp (patrolScrub). -/
theorem meets_MemoryIsKeptUp_7 : ∃ (c : Nat) (l : List (Nat × BitVec 16)) (s : State) (n : Nat) (u : State) (t : State),
    n = Assoc.get 0 c s.mem.scrub ∧ u = { s with mem := { s.mem with scrub := Assoc.set c (n + 1) s.mem.scrub } } ∧ t = (if (n + 1) % rawUnits = 0 ∧ s.allPasses < u.allPasses then u.bump .memScrubPass else u) ∧
    s.memRuns = true ∧ s.hasChannel c = true ∧ s.rdf .memCtl 0 8 ≠ 0 ∧
    s.mem.wiping = none ∧ ((s.clk.active = false ∨ s.turnIn c s.scrubBeats = true)) ∧ n % rawUnits % 33 = 32 :=
  ⟨191, [], { ready with mem := { ready.mem with scrub := [(191, 32)] } }, _, _, _, rfl, rfl, rfl, by decide +kernel⟩

/-- Clause 1 of EventsAndHealthAreWritten (eventRingEntryWrite). -/
theorem meets_EventsAndHealthAreWritten_1 : ∃ (e : List Byte) (l : List (List Byte)) (s : State) (a : Nat) (t : State),
    a = fld (s.rd .evtRing) 0 36 * 4096 + 64 * (leAt e 0 8 % 2 ^ fld (s.rd .evtRing) 36 5) ∧ t = (State.busWrite { s with evt := { s.evt with toRing := l } } (a + 8) (e.drop 8)).busWrite a (e.take 8) ∧ s.evt.toRing = e :: l ∧
    s.attached = true ∧ (s.rd .evtRing).getLsbD 41 = true :=
  ⟨leBytes 8 57 ++ zeros 56, [], { (ready.wr .evtRing (BitVec.ofNat 64 (2 ^ 41 + 6 * 2 ^ 36))) with evt := ⟨[], [leBytes 8 57 ++ zeros 56], 58⟩ }, _, _, rfl, rfl, by decide +kernel⟩

/-- Clause 2 of EventsAndHealthAreWritten (healthSample). -/
theorem meets_EventsAndHealthAreWritten_2 : ∃ (n : Nat) (x : Nat) (b : Nat) (m : Measure) (y : Health) (s : State) (w : Bool) (f : Bool) (t : State),
    w = (if (s.healthOf n).warn = true then decide (y.score < s.rdf .telHealthCfg 14 10 + s.rdf .telHealthCfg 34 10) else decide (y.score < s.rdf .telHealthCfg 14 10)) ∧ f = (if (s.healthOf n).fault = true then decide (y.score < s.rdf .telHealthCfg 24 10 + s.rdf .telHealthCfg 34 10) else decide (y.score < s.rdf .telHealthCfg 24 10)) ∧ t = (if w = true ∧ (s.healthOf n).warn = false then State.raise { s with health := Assoc.set n y s.health } evWearWarn 0 n else { s with health := Assoc.set n y s.health }) ∧
    s.firmware = true ∧ n < 256 ∧ s.rdf .telHealthCfg 0 10 ≠ 0 ∧
    s.healthAbsent n = false ∧ s.healthUnused n = false ∧ s.sample n m = some (x, b) ∧
    y.score = (((s.healthOf n).score : Int) + ((x : Int) - (s.healthOf n).score) / 2 ^ s.rdf .telHealthCfg 10 4).toNat ∧ y.warn = w ∧ y.fault = f ∧
    y.last = x ∧ y.base = b ∧ y.present = true :=
  ⟨8, 1000, 0, .eye 30 204, ⟨1000, false, false, 1000, 0, true⟩, fabric, _, _, _, rfl, rfl, rfl, by decide +kernel⟩

end Sys2Proof.Tests
end

section
/-!
PROOFS. Counters: what counting and clearing do to the counts and to the OVF bits (00_scope.md R13,
23_counters_events.md R444).
-/
namespace Sys2Proof.Machine

@[simp] theorem State.ovf_setCtr (s : State) (c : Ctr) (v : Nat) : (s.setCtr c v).ovf = s.ovf := (rfl)

@[simp] theorem State.ctr_with_ovf (s : State) (l : List Ctr) (c : Ctr) :
    State.ctr { s with ovf := l } c = s.ctr c := (rfl)

/-- Below the largest value counting writes the sum and touches nothing else. -/
theorem State.count_of_lt {s : State} {c : Ctr} {n : Nat} (hn : 0 < n) (h : s.ctr c + n < maxWord) :
    s.count c n = s.setCtr c (s.ctr c + n) := by
  simp only [State.count, hn.ne', h, ↓reduceIte]

/-- From the largest value on counting holds it, and lists the counter among the OVF bits once. -/
theorem State.count_of_ge {s : State} {c : Ctr} {n : Nat} (hn : 0 < n) (h : maxWord ≤ s.ctr c + n) :
    s.count c n = { s.setCtr c maxWord with ovf := if c ∈ s.ovf then s.ovf else s.ovf ++ [c] } := by
  simp only [State.count, hn.ne', h.not_gt, ↓reduceIte]
  split <;> rfl

theorem State.mem_ovf_count_of_ge {s : State} {c : Ctr} {n : Nat} (hn : 0 < n) (h : maxWord ≤ s.ctr c + n) :
    c ∈ (s.count c n).ovf := by
  rw [State.count_of_ge hn h]
  by_cases hc : c ∈ s.ovf <;> simp [hc]

/-- OVF bits stick: counting clears none. -/
theorem State.ovf_subset_ovf_count (s : State) (c : Ctr) {n : Nat} (hn : 0 < n) : s.ovf ⊆ (s.count c n).ovf := by
  rcases lt_or_ge (s.ctr c + n) maxWord with h | h
  · rw [State.count_of_lt hn h, State.ovf_setCtr]
    exact List.Subset.refl _
  · rw [State.count_of_ge hn h]
    by_cases hc : c ∈ s.ovf <;> simp [hc]

@[simp] theorem State.ctr_clearCtr_self (s : State) (c : Ctr) : (s.clearCtr c).ctr c = 0 :=
  s.ctr_setCtr_self c 0

@[simp] theorem State.not_mem_ovf_clearCtr (s : State) (c : Ctr) : c ∉ (s.clearCtr c).ovf := by
  simp [State.clearCtr]

/-- Settles O21: the two cases of `State.count` at 2^64 − 1, its frame, and the two facts about clearing. -/
theorem countersSaturateAndStick : Obligations.CountersSaturateAndStick := by
  intro s c n hn
  refine ⟨fun below => ?_, fun reached => ⟨?_, State.mem_ovf_count_of_ge hn reached⟩,
    fun d => ⟨fun other => State.ctr_count_ne s other n, fun stuck => State.ovf_subset_ovf_count s c hn stuck⟩,
    State.ctr_clearCtr_self s c, State.not_mem_ovf_clearCtr s c⟩
  · rw [State.count_of_lt hn below]
    exact ⟨State.ctr_setCtr_self s c _, State.ovf_setCtr s c _⟩
  · rw [State.count_of_ge hn reached, State.ctr_with_ovf, State.ctr_setCtr_self]
    rfl

end Sys2Proof.Machine
end

section
/-!
PROOFS. Ports: how a logical port comes into service, stays in training, fails and retrains (01_fabric.md R19,
12_links_cells.md R268, 17_faults_recovery.md R352, R359).
-/
namespace Sys2Proof.Machine

/-- An UP port fails: `failed` is set and PORT_DOWN raised before the port leaves service and links are reported
(17 R352). -/
theorem State.portFails_of_up {s : State} {n : Nat} (up : (s.port n).state = .up) (dest : PortState) :
    s.portFails n dest = (((s.modPort n fun p => { p with failed := true }).raise evPortDown (s.port n).peerFa.toNat n).leaveUp
      n dest).reportLinks :=
  if_neg (not_not_intro up)

/-- PORT_UP whose peer meets the port's role: after the peer, and a half that training left, are recorded, the port enters
service (01 R19, 12 R269). -/
theorem execPortUp_of_meets {s : State} {n : Nat} {r : PeerReport} (engines : s.engines = true)
    (training : (s.port n).state = .training) (used : (s.port n).role ≠ .unused) (width : (s.port n).widthOk n r.width = true)
    (meets : roleMeets s.planeB (s.port n).role r.role.toNat = true) :
    execPortUp n r s =
      let u := s.modPort n fun p => p.setPeer r.fa r.role
      let t := if (s.port n).trainedHalf r.width = true then
          (u.modPort n fun p => { p with half := r.width }).bump (.lpDegrade n) else u
      .next ((t.modPort n fun p => p.enter r ((List.range 7).map s.portGrant) (t.selected n)).reportLinks) := by
  have judged : ¬((!s.engines) = true ∨ (s.port n).state ≠ .training ∨ (s.port n).role = .unused ∨
      (!(s.port n).widthOk n r.width) = true) := by
    simp [engines, training, used, width]
  simp only [execPortUp, if_neg judged, if_pos meets]

theorem execLinkTrainFail_of_training {s : State} {n : Nat} (engines : s.engines = true) (training : (s.port n).state = .training) :
    execLinkTrainFail n s = .next (s.raise evLinkTrainFail 0 n) := by
  simp only [execLinkTrainFail, engines, training, and_self, ↓reduceIte]

theorem execPortDown_of_engines {s : State} (n : Nat) (engines : s.engines = true) :
    execPortDown n s = .next (s.portFails n .down) := by
  simp only [execPortDown, engines, ↓reduceIte]

theorem execPortRetrainTimer_of_down {s : State} {n : Nat} (firmware : s.firmware = true) (used : (s.port n).role ≠ .unused)
    (clocked : (s.port n).refclkLost = false) (down : (s.port n).state = .down) :
    execPortRetrainTimer n s = .next (s.retrain n) := by
  have retrains : ¬((!s.firmware) = true ∨ (s.port n).role = .unused ∨ (s.port n).refclkLost = true ∨
      (!((s.port n).state == .down || (s.port n).state == .training)) = true) := by
    simp [firmware, used, clocked, down]
  simp only [execPortRetrainTimer, if_neg retrains]

/-- Settles O43: each command runs its own function, whose guard its conditions decide. -/
theorem portsGoUpAndDown : Obligations.PortsGoUpAndDown := by
  refine ⟨fun n r t s engines training used width meets ht => ?portUp, fun n s engines training => ?linkTrainFail,
    fun n s engines up => ?portDown, fun n s firmware used clocked down => ?portRetrainTimer⟩
  case portUp =>
    subst ht
    exact execPortUp_of_meets engines training used width meets
  case linkTrainFail => exact execLinkTrainFail_of_training engines training
  case portDown =>
    rw [← State.portFails_of_up up]
    exact execPortDown_of_engines n engines
  case portRetrainTimer => exact execPortRetrainTimer_of_down firmware used clocked down

end Sys2Proof.Machine
end

section
/-!
PROOFS. Number formats: what the readers of S1 and of the integer formats give, the grid point that each rounding mode takes,
and the codes that a block conversion writes (02_number_formats.md R37 to R39, R42, R45).
-/
namespace Sys2Proof.Machine

/-! ### Reading S1 and integer codes -/

theorem readElem_s1 (c : Nat) : readElem 0x0D c = .fin (c % 2 == 1) 1 0 := (rfl)

/-- Settles O18: every S1 code reads with magnitude 1, and the code's bit is the sign. -/
theorem signCodesReadAsPlusAndMinusOne : Obligations.SignCodesReadAsPlusAndMinusOne := by
  refine ⟨readElem_s1 0, readElem_s1 1, fun c n e zero => ?_⟩
  rw [readElem_s1] at zero
  injection zero with _ magnitude
  exact Nat.one_ne_zero magnitude

/-- The model's reader of two's complement is the library's `BitVec.toInt`. -/
theorem sgnOf_eq_toInt (w c : Nat) : sgnOf w c = (BitVec.ofNat w c).toInt := by
  rw [sgnOf, BitVec.toInt_eq_toNat_cond, BitVec.toNat_ofNat]
  cases w with
  | zero => simp [Nat.mod_one]
  | succ v =>
    have half : c % 2 ^ (v + 1) < 2 ^ v ↔ 2 * (c % 2 ^ (v + 1)) < 2 ^ (v + 1) := by omega
    simp only [Nat.add_sub_cancel, half, Nat.cast_pow, Nat.cast_ofNat]

theorem sgnOf_emod (w c : Nat) : sgnOf w c % 2 ^ w = (c : Int) % 2 ^ w := by
  rw [sgnOf_eq_toInt, BitVec.toInt_ofNat']
  exact_mod_cast Int.bmod_emod

/-- Each integer of the range is the reading of the code that the library's `BitVec.ofInt` gives it. -/
theorem sgnOf_toNat_ofInt {w : Nat} (pos : 0 < w) {i : Int} (low : -2 ^ (w - 1) ≤ i) (high : i < 2 ^ (w - 1)) :
    sgnOf w (BitVec.ofInt w i).toNat = i := by
  rw [sgnOf_eq_toInt, BitVec.ofNat_toNat, BitVec.setWidth_eq, BitVec.toInt_ofInt_eq_self pos low high]

theorem Val.ofInt_ne_nan (i : Int) : Val.ofInt i ≠ .nan := Val.noConfusion

theorem Val.ofInt_ne_inf (i : Int) (n : Bool) : Val.ofInt i ≠ .inf n := Val.noConfusion

/-- An integer value has no negative zero (02 R39). -/
theorem Val.sign_of_ofInt_zero {i : Int} {n : Bool} {e : Int} (zero : Val.ofInt i = .fin n 0 e) : n = false := by
  injection zero with sign magnitude
  rw [← sign, Int.natAbs_eq_zero.mp magnitude]
  rfl

theorem readElem_int {f : Nat} (int : f = 0x09 ∨ f = 0x0A ∨ f = 0x0B) (c : Nat) :
    readElem f c = Val.ofInt (sgnOf (fmtBits f) c) := by
  rcases int with rfl | rfl | rfl <;> rfl

theorem fmtBits_pos_of_int {f : Nat} (int : f = 0x09 ∨ f = 0x0A ∨ f = 0x0B) : 0 < fmtBits f := by
  rcases int with rfl | rfl | rfl <;> decide

/-- Settles O19: an integer code reads as the two's complement of its width, whose range and residues the library gives. -/
theorem integerFormatsAreTwosComplement : Obligations.IntegerFormatsAreTwosComplement := by
  refine ⟨⟨rfl, rfl, rfl⟩, fun f int => ?_⟩
  simp only [readElem_int int]
  refine ⟨fun c => ⟨_, rfl, ?low, ?high, sgnOf_emod _ c⟩, fun i low high => ?onto,
    fun c n m e value zero => Val.sign_of_ofInt_zero (zero ▸ value),
    fun c n => ⟨Val.ofInt_ne_nan _, Val.ofInt_ne_inf _ n⟩⟩
  case low => exact sgnOf_eq_toInt _ c ▸ BitVec.le_toInt _
  case high => exact Int.le_sub_one_of_lt (sgnOf_eq_toInt _ c ▸ BitVec.toInt_lt)
  case onto =>
    exact ⟨_, BitVec.isLt _, congrArg Val.ofInt (sgnOf_toNat_ofInt (fmtBits_pos_of_int int) low (Int.lt_of_le_sub_one high))⟩

/-! ### Rounding onto the grid -/

theorem roundAt_of_le {e u : Int} (onGrid : u ≤ e) (m rnd k : Nat) : roundAt m e u rnd k = m * 2 ^ (e - u).toNat :=
  if_pos onGrid

section
variable {e u : Int} {d : Nat} (coarse : e < u) (unit : d = 2 ^ (u - e).toNat) (m k : Nat)
include coarse unit

theorem roundAt_rne : roundAt m e u 0 k = if d < 2 * (m % d) ∨ d = 2 * (m % d) ∧ m / d % 2 = 1 then m / d + 1 else m / d := by
  subst unit
  simp [roundAt, not_le.mpr coarse]

theorem roundAt_rtz : roundAt m e u 1 k = m / d := by
  subst unit
  simp [roundAt, not_le.mpr coarse]

theorem roundAt_sr : roundAt m e u 2 k = if k < m % d * 2 ^ 24 / d then m / d + 1 else m / d := by
  subst unit
  simp [roundAt, not_le.mpr coarse]

/-- RNE takes a grid point at most half a unit away. -/
theorem roundAt_rne_near :
    2 * m ≤ 2 * (roundAt m e u 0 k * d) + d ∧ 2 * (roundAt m e u 0 k * d) ≤ 2 * m + d := by
  have euclid : m / d * d + m % d = m := Nat.div_add_mod' m d
  have below : m % d < d := Nat.mod_lt m (unit ▸ Nat.two_pow_pos _)
  rw [roundAt_rne coarse unit]
  split
  case isTrue => rw [Nat.add_one_mul (m / d)]; omega
  case isFalse => omega

/-- At a tie RNE takes the even one of the two grid points. -/
theorem roundAt_rne_even (tie : 2 * (m % d) = d) : roundAt m e u 0 k % 2 = 0 := by
  rw [roundAt_rne coarse unit]
  split <;> omega

/-- RTZ takes the grid point below. -/
theorem roundAt_rtz_below : roundAt m e u 1 k * d ≤ m ∧ m < (roundAt m e u 1 k + 1) * d := by
  rw [roundAt_rtz coarse unit]
  exact ⟨Nat.div_mul_le_self m d, Nat.lt_mul_of_div_lt (Nat.lt_succ_self _) (unit ▸ Nat.two_pow_pos _)⟩

/-- SR takes one of the two neighbouring grid points. -/
theorem roundAt_sr_neighbour : roundAt m e u 2 k = m / d ∨ roundAt m e u 2 k = m / d + 1 := by
  rw [roundAt_sr coarse unit]
  split
  · exact .inr rfl
  · exact .inl rfl

/-- A value on the grid has no remainder, so that no random bits are below it and SR keeps the value. -/
theorem roundAt_sr_of_dvd (onGrid : m % d = 0) : roundAt m e u 2 k = m / d := by
  rw [roundAt_sr coarse unit, onGrid, Nat.zero_mul, Nat.zero_div, if_neg (Nat.not_lt_zero k)]

end

/-- Settles O59: each mode's grid point is `m / d` or the next one, and the remainder `m % d` says which. -/
theorem roundingGoesToTheGridAsItsModeSays : Obligations.RoundingGoesToTheGridAsItsModeSays :=
  fun m _ _ rnd k => ⟨fun onGrid => roundAt_of_le onGrid m rnd k, fun coarse _ unit =>
    ⟨roundAt_rne_near coarse unit m k, roundAt_rne_even coarse unit m k, roundAt_rtz_below coarse unit m k,
      roundAt_sr_neighbour coarse unit m k, roundAt_sr_of_dvd coarse unit m k⟩⟩

/-! ### Conversion to a block format -/

/-- An element code of a converted block is 0, as in a block that reads as NaN, or the code of one source element. -/
theorem mem_convBlock {f : Nat} {sat ceil : Bool} {rnd : Nat} {us : List Nat} {vs : List Val} {c : Nat}
    (written : c ∈ (convBlock f sat ceil rnd us vs).2.1) :
    c = 0 ∨ ∃ (u : Nat) (x : Int), ∃ v ∈ vs, c = (blockElem f rnd u x v).1 := by
  simp only [convBlock] at written
  split at written
  case isTrue =>
    obtain ⟨_, _, rfl⟩ := List.mem_map.mp written
    exact .inl rfl
  case isFalse =>
    simp only [List.mem_map] at written
    obtain ⟨_, ⟨⟨v, i⟩, source, rfl⟩, rfl⟩ := written
    exact .inr ⟨_, _, v, List.fst_mem_of_mem_zipIdx source, rfl⟩

/-- The code of a T2 element: 0 for NaN and for a magnitude that rounds to 0, else the value's sign at magnitude 1. -/
theorem blockElem_t2 (rnd u : Nat) (x : Int) (v : Val) :
    (blockElem 0x0C rnd u x v).1 = 0 ∨ (blockElem 0x0C rnd u x v).1 = 1 ∨ (blockElem 0x0C rnd u x v).1 = 3 := by
  cases v with
  | nan => exact .inl rfl
  | inf neg => cases neg <;> simp [blockElem]
  | fin neg m e =>
    by_cases zero : roundAt m (e - x) 0 rnd u = 0
    · simp [blockElem, zero]
    · cases neg <;> simp [blockElem, zero]

/-- Settles O60: every element code of the block is a T2 element code, and none of these is 2. -/
theorem ternaryCodeTwoIsNeverWritten : Obligations.TernaryCodeTwoIsNeverWritten := by
  intro sat ceil rnd us vs c written
  rcases mem_convBlock written with rfl | ⟨u, x, v, _, rfl⟩
  · exact .inl rfl
  · exact blockElem_t2 rnd u x v

end Sys2Proof.Machine
end

section
/-!
PROOFS. Folds: partial sums and merged exponents do not depend on the order of the contributions, and what EXPS_SEND, PSUM_SEND
and FOLD_RESULT_FORM do once their inputs are there (03_fold_arithmetic.md R57, R61, R62, 04_collective_plans.md R89, R99).
-/
namespace Sys2Proof.Machine

/-! ### Merging exponent bytes (03 R61, R62) -/

/-- The larger of two exponent bytes. -/
def maxByte (x y : Byte) : Byte := if x.toNat < y.toNat then y else x

@[simp] theorem toNat_maxByte (x y : Byte) : (maxByte x y).toNat = max x.toNat y.toNat := by
  unfold maxByte
  split <;> omega

theorem maxByte_comm : Std.Commutative maxByte :=
  ⟨fun x y => BitVec.eq_of_toNat_eq (by simp [Nat.max_comm])⟩

theorem maxByte_assoc : Std.Associative maxByte :=
  ⟨fun x y z => BitVec.eq_of_toNat_eq (by simp [Nat.max_assoc])⟩

theorem maxByte_zero (x : Byte) : maxByte x 0#8 = x := (rfl)

theorem zero_maxByte (x : Byte) : maxByte 0#8 x = x :=
  (maxByte_comm.comm 0 x).trans (maxByte_zero x)

theorem padTo_of_le {n : Nat} {l : List Byte} (long : n ≤ l.length) : padTo n l = l := by
  simp [padTo, zeros, Nat.sub_eq_zero_of_le long]

/-- Padding to another list's length gives a zero where only that list has a byte. -/
theorem getElem?_padTo_length (a b : List Byte) (i : Nat) :
    (padTo b.length a)[i]? = a[i]?.or (b[i]?.map fun _ => 0) := by
  unfold padTo zeros
  rcases lt_or_ge i a.length with inside | past
  · simp [List.getElem?_append_left, inside]
  · have room : i - a.length < b.length - a.length ↔ i < b.length := by omega
    rcases lt_or_ge i b.length with padded | beyond
    · simp [List.getElem?_append_right, past, room, padded]
    · simp [past, beyond]
      omega

/-- Both lists padded to the longer one's length. -/
theorem maxBytes_eq_zipWith (a b : List Byte) :
    maxBytes a b = List.zipWith maxByte (padTo b.length a) (padTo a.length b) := by
  unfold maxBytes
  split
  case isTrue shorter => rw [padTo_of_le shorter.le]; rfl
  case isFalse longer => rw [padTo_of_le (not_lt.mp longer)]; rfl

/-- A position that only one list has keeps that list's byte. -/
theorem getElem?_maxBytes (a b : List Byte) (i : Nat) : (maxBytes a b)[i]? = Option.merge maxByte a[i]? b[i]? := by
  simp only [maxBytes_eq_zipWith, List.getElem?_zipWith, getElem?_padTo_length]
  cases a[i]? <;> cases b[i]? <;> simp [maxByte_zero, zero_maxByte]

theorem maxBytes_rightCommutative : RightCommutative maxBytes := by
  have := maxByte_comm
  have := maxByte_assoc
  refine ⟨fun z x y => List.ext_getElem? fun i => ?_⟩
  simp only [getElem?_maxBytes]
  exact RightCommutative.right_comm _ _ _

/-! ### Adding lanes (03 R57, R61) -/

theorem length_drop_cons_le {α : Type} {n : Nat} (pos : 0 < n) (x : α) (l : List α) : ((x :: l).drop n).length ≤ l.length := by
  rw [List.length_drop, List.length_cons]
  omega

/-- Fuel of the list's length is enough: more gives the same pieces. -/
theorem piecesAux_of_le {α : Type} {n : Nat} (pos : 0 < n) {f g : Nat} {l : List α} (hf : l.length ≤ f) (hg : l.length ≤ g) :
    piecesAux n f l = piecesAux n g l := by
  induction f generalizing g l with
  | zero =>
    obtain rfl := List.length_eq_zero_iff.mp (Nat.le_zero.mp hf)
    cases g <;> rfl
  | succ f ih =>
    cases l with
    | nil => cases g <;> rfl
    | cons x l =>
      obtain ⟨g, rfl⟩ := Nat.exists_eq_succ_of_ne_zero (Nat.ne_zero_of_lt hg)
      have shorter := length_drop_cons_le pos x l
      exact congrArg (List.cons _) (ih (shorter.trans (Nat.le_of_succ_le_succ hf)) (shorter.trans (Nat.le_of_succ_le_succ hg)))

@[simp] theorem pieces_nil {α : Type} (n : Nat) : pieces n ([] : List α) = [] := (rfl)

theorem pieces_of_ne_nil {α : Type} {n : Nat} (pos : 0 < n) {l : List α} (nonempty : l ≠ []) :
    pieces n l = l.take n :: pieces n (l.drop n) := by
  cases l with
  | nil => contradiction
  | cons x l => exact congrArg (List.cons _) (piecesAux_of_le pos (length_drop_cons_le pos x l) le_rfl)

/-- The sum of one lane under its block's merged byte, or the merged summary of a special block. -/
def addLane (m : Byte) (x y : Int) : Int := if m = 0xFF then ((x.toNat ||| y.toNat : Nat) : Int) else x + y

theorem addLane_right_comm (m : Byte) (x y z : Int) : addLane m (addLane m x y) z = addLane m (addLane m x z) y := by
  unfold addLane
  split
  case isTrue => simp only [Int.toNat_natCast, Nat.or_right_comm]
  case isFalse => exact Int.add_right_comm x y z

theorem zipWith_replicate_append {α β γ : Type} (f : α → β → γ) (n : Nat) (x : α) (r : List α) (l : List β) :
    List.zipWith f (List.replicate n x ++ r) l = (l.take n).map (f x) ++ List.zipWith f r (l.drop n) := by
  induction n generalizing l with
  | zero => rfl
  | succ n ih => cases l <;> simp [List.replicate_succ, ih]

/-- A sum of lanes is the sum of its first block and that of the others. -/
theorem addLanes_cons (m : Byte) (ms : List Byte) {a b : List Int} (ha : a ≠ []) (hb : b ≠ []) :
    addLanes (m :: ms) a b =
      List.zipWith (addLane m) (a.take 32) (b.take 32) ++ addLanes ms (a.drop 32) (b.drop 32) := by
  have lanes : addLane m = if m = 0xFF then fun x y => ((x.toNat ||| y.toNat : Nat) : Int) else (· + ·) := by
    funext x y
    unfold addLane
    split <;> rfl
  rw [lanes, addLanes, pieces_of_ne_nil (by decide) ha, pieces_of_ne_nil (by decide) hb, List.zip_cons_cons,
    List.zipWith_cons_cons, List.flatten_cons, addLanes]
  split <;> rfl

/-- Each merged byte is repeated for the 32 lanes of its block, so that sums need no blocks. -/
theorem addLanes_eq_zipWith (merged : List Byte) (a b : List Int) :
    addLanes merged a b =
      List.zipWith (fun m p => addLane m p.1 p.2) (merged.flatMap (List.replicate 32)) (a.zip b) := by
  induction merged generalizing a b with
  | nil => rfl
  | cons m ms ih =>
    by_cases ha : a = []
    · simp [addLanes, ha]
    by_cases hb : b = []
    · simp [addLanes, hb]
    rw [addLanes_cons m ms ha hb, ih, List.flatMap_cons, zipWith_replicate_append]
    simp only [List.zip, List.take_zipWith, List.drop_zipWith, List.map_zipWith]

/-- Lane i of a sum is that of the two lanes i, under the byte of their block. -/
theorem getElem?_addLanes (merged : List Byte) (a b : List Int) (i : Nat) :
    (addLanes merged a b)[i]? =
      (merged.flatMap (List.replicate 32))[i]?.bind fun m => Option.map₂ (addLane m) a[i]? b[i]? := by
  simp only [addLanes_eq_zipWith, List.zip, List.getElem?_zipWith]
  cases (merged.flatMap (List.replicate 32))[i]? <;> cases a[i]? <;> cases b[i]? <;> rfl

theorem addLanes_rightCommutative (merged : List Byte) : RightCommutative (addLanes merged) := by
  refine ⟨fun z x y => List.ext_getElem? fun i => ?_⟩
  simp only [getElem?_addLanes]
  cases (merged.flatMap (List.replicate 32))[i]? with
  | none => rfl
  | some m => exact Option.map₂_right_comm (addLane_right_comm m)

/-- Settles O20: both merges are right-commutative at every position, so that a fold over them does not see the order. -/
theorem partialSumsAddInAnyOrder : Obligations.PartialSumsAddInAnyOrder := by
  refine ⟨fun merged _ z _ _ _ _ perm => ?lanes, fun z _ _ perm => ?bytes⟩
  case lanes =>
    have := addLanes_rightCommutative merged
    exact perm.foldl_eq z
  case bytes =>
    have := maxBytes_rightCommutative
    exact perm.foldl_eq z

/-! ### Messages of a fold (04 R89) -/

/-- Settles O53: the conditions decide each command's guards, and what is left is its meaning. -/
theorem foldsAreFormedAndSent : Obligations.FoldsAreFormedAndSent := by
  refine ⟨fun h c w own s view data below sends locals kids known turn => ?expsSend,
    fun h c w q given t z s view parent inputs notBarrier unordered unsent turn hz ht => ?psumSend,
    fun h c w given r u t x s view root inputs unformed turn hu opened ready hr ht hx => ?foldResultForm⟩
  case expsSend =>
    change execExpsSend h c s = _
    have notRoot : (!(w.coll.kind == kBarrier && w.place.parent.isNone)) = true := by
      simpa [imp_iff_not_or] using sends
    have ready : _ ∧ _ ∧ _ ∧ _ ∧ _ ∧ _ := ⟨below, notRoot, locals, kids, known, turn⟩
    simp only [execExpsSend, view, data, if_pos ready]
  case psumSend =>
    change execPsumSend h c s = _
    subst hz ht
    have sends : ¬(w.coll.kind = kBarrier ∨ w.coll.fop = fopOrdered ∨ w.ch.psumSent = true ∨
        (!s.inTurn w c fun x => x.psumSent) = true) := by
      simp [notBarrier, unordered, unsent, turn]
    simp only [execPsumSend, view, parent, inputs, if_neg sends]
  case foldResultForm =>
    change execFoldResultForm h c s = _
    subst hr hu ht hx
    have first : ¬(w.ch.formed = true ∨ (!s.inTurn w c fun x => x.formed) = true) := by
      simp [unformed, turn]
    have fetched : ¬(((s.formFetch w c).slot h).state ≠ .opened ∨ (!(s.formFetch w c).formReady w c) = true) := by
      simp [opened, ready]
    simp only [execFoldResultForm, view, root, inputs, if_neg first, if_neg fetched]

end Sys2Proof.Machine
end

section
/-!
PROOFS. Collective plans: what leaves the plan tables and the ledger alone, how LAUNCH and the heartbeats of endpoints act, and
what each collective message does (04_collective_plans.md R78, R79, R89, R90, R92, R93, R102, R451).
-/
namespace Sys2Proof.Machine

open Sys2Proof

/-! ### What writes the plan tables and the ledger (04 R79, 05 R109, 08 R189) -/

/-- Each command outside `writesPlans`, with the law of Laws/FramePlans.lean on its function. -/
theorem exec_plansOf {c : Instr} {s t : State} (unlisted : writesPlans c = false) (ran : exec c s = .next t) :
    t.plansOf = s.plansOf := by
  cases c with
  | sqDoorbell => exact execSqDoorbell_plansOf ran
  | cqDoorbell => exact execCqDoorbell_plansOf ran
  | ringConfigWrite => exact execRingConfigWrite_plansOf ran
  | msiUnmask => exact execMsiUnmask_plansOf ran
  | sqEntryFetch => exact execSqEntryFetch_plansOf ran
  | stateImport => exact execStateImport_plansOf ran
  | stateExport => exact execStateExport_plansOf ran
  | ledgerQuery => exact execLedgerQuery_plansOf ran
  | resilver => exact execResilver_plansOf ran
  | fwUpdate => exact execFwUpdate_plansOf ran
  | fwImageWritten => exact execFwImageWritten_plansOf ran
  | fwHandoff => exact execFwHandoff_plansOf ran
  | attest => exact execAttest_plansOf ran
  | gateConfig => exact execGateConfig_plansOf ran
  | meterConfig => exact execMeterConfig_plansOf ran
  | logConfig => exact execLogConfig_plansOf ran
  | wipe => exact execWipe_plansOf ran
  | stewardRd => exact execStewardRd_plansOf ran
  | bmcRead => exact execBmcRead_plansOf ran
  | fabricPosWrite => exact execFabricPosWrite_plansOf ran
  | memRegionSizeWrite => exact execMemRegionSizeWrite_plansOf ran
  | counterOvfClear => exact execCounterOvfClear_plansOf ran
  | veTrapClear => exact execVeTrapClear_plansOf ran
  | memUeLogClear => exact execMemUeLogClear_plansOf ran
  | alertClear => exact execAlertClear_plansOf ran
  | lockstepRequest => exact execLockstepRequest_plansOf ran
  | lockstepEnter => exact execLockstepEnter_plansOf ran
  | gateCtlWrite => exact execGateCtlWrite_plansOf ran
  | gateListActivate => exact execGateListActivate_plansOf ran
  | gateEntryBoundary => exact execGateEntryBoundary_plansOf ran
  | cmConfigWrite => exact execCmConfigWrite_plansOf ran
  | evtRingWrite => exact execEvtRingWrite_plansOf ran
  | fwCtlRestart => exact execFwCtlRestart_plansOf ran
  | supplyTrip => exact execSupplyTrip_plansOf ran
  | moonstoneSaveDone => exact execMoonstoneSaveDone_plansOf ran
  | vinHigh => exact execVinHigh_plansOf ran
  | thermalTrip => exact execThermalTrip_plansOf ran
  | thermWarn => exact execThermWarn_plansOf ran
  | clkLockLost => exact execClkLockLost_plansOf ran
  | xtalLost => exact execXtalLost_plansOf ran
  | uciDegraded => exact execUciDegraded_plansOf ran
  | dataFrameReceive => exact execDataFrameReceive_plansOf ran
  | portUp => exact execPortUp_plansOf ran
  | linkTrainFail => exact execLinkTrainFail_plansOf ran
  | portRetrainTimer => exact execPortRetrainTimer_plansOf ran
  | adaptiveEgressChoice => exact execAdaptiveEgressChoice_plansOf ran
  | schedulerSelect => exact execSchedulerSelect_plansOf ran
  | rateWheelWake => exact execRateWheelWake_plansOf ran
  | cellTransmit => exact execCellTransmit_plansOf ran
  | heartbeatSend => exact execHeartbeatSend_plansOf ran
  | heartbeat port step count => exact execHeartbeat_plansOf (x1 := step) (x2 := count) ran
  | stepEnd => exact execStepEnd_plansOf ran
  | twinHbSend => exact execTwinHbSend_plansOf ran
  | fenceBumpDeferred => exact execFenceBumpDeferred_plansOf ran
  | admitNotice src party epoch gen => exact execAdmitNotice_plansOf (x3 := gen) ran
  | linkNotice src reporter dim minus restored beat => exact execLinkNotice_plansOf (x5 := beat) ran
  | digest => exact execDigest_plansOf ran
  | digestSend => exact execDigestSend_plansOf ran
  | commitNotice => exact execCommitNotice_plansOf ran
  | normResult => exact execNormResult_plansOf ran
  | healRequestTimeout => exact execHealRequestTimeout_plansOf ran
  | healFail ref reason => exact execHealFail_plansOf (x1 := reason) ran
  | healData => exact execHealData_plansOf ran
  | granuleReceive => exact execGranuleReceive_plansOf ran
  | controlRecordReceive gen record => exact execControlRecordReceive_plansOf (x0 := gen) ran
  | commitOnReady => exact execCommitOnReady_plansOf ran
  | healStart => exact execHealStart_plansOf ran
  | refresh => exact execRefresh_plansOf ran
  | refreshStatusRead => exact execRefreshStatusRead_plansOf ran
  | memHotClear => exact execMemHotClear_plansOf ran
  | watchdogExpire => exact execWatchdogExpire_plansOf ran
  | eventRingEntryWrite => exact execEventRingEntryWrite_plansOf ran
  | healthSample => exact execHealthSample_plansOf ran
  | pwrEnLow => exact execPwrEnLow_plansOf ran
  | linkRefclkRestored => exact execLinkRefclkRestored_plansOf ran
  | inputFuseOpen => exact execInputFuseOpen_plansOf ran
  | thermWarnClear => exact execThermWarnClear_plansOf ran
  | updateWaitTimeout => exact execUpdateWaitTimeout_plansOf ran
  | _ => exact Bool.noConfusion unlisted

/-- Each command outside `writesLedger`, with the law of Laws/FrameLedger.lean on its function. -/
theorem exec_books {c : Instr} {s t : State} (unlisted : writesLedger c = false) (ran : exec c s = .next t) :
    t.books = s.books := by
  cases c with
  | sqDoorbell => exact execSqDoorbell_books ran
  | cqDoorbell => exact execCqDoorbell_books ran
  | ringConfigWrite => exact execRingConfigWrite_books ran
  | msiUnmask => exact execMsiUnmask_books ran
  | sqEntryFetch => exact execSqEntryFetch_books ran
  | ledgerQuery => exact execLedgerQuery_books ran
  | resilver => exact execResilver_books ran
  | fwUpdate => exact execFwUpdate_books ran
  | fwImageWritten => exact execFwImageWritten_books ran
  | fwHandoff => exact execFwHandoff_books ran
  | attest => exact execAttest_books ran
  | gateConfig => exact execGateConfig_books ran
  | meterConfig => exact execMeterConfig_books ran
  | logConfig => exact execLogConfig_books ran
  | wipe => exact execWipe_books ran
  | stewardRd => exact execStewardRd_books ran
  | bmcRead => exact execBmcRead_books ran
  | fabricPosWrite => exact execFabricPosWrite_books ran
  | memRegionSizeWrite => exact execMemRegionSizeWrite_books ran
  | counterOvfClear => exact execCounterOvfClear_books ran
  | veTrapClear => exact execVeTrapClear_books ran
  | memUeLogClear => exact execMemUeLogClear_books ran
  | alertClear => exact execAlertClear_books ran
  | lockstepRequest => exact execLockstepRequest_books ran
  | lockstepEnter => exact execLockstepEnter_books ran
  | gateCtlWrite => exact execGateCtlWrite_books ran
  | gateListActivate => exact execGateListActivate_books ran
  | gateEntryBoundary => exact execGateEntryBoundary_books ran
  | cmConfigWrite => exact execCmConfigWrite_books ran
  | evtRingWrite => exact execEvtRingWrite_books ran
  | fwCtlRestart => exact execFwCtlRestart_books ran
  | supplyTrip => exact execSupplyTrip_books ran
  | moonstoneSaveDone => exact execMoonstoneSaveDone_books ran
  | vinHigh => exact execVinHigh_books ran
  | thermalTrip => exact execThermalTrip_books ran
  | thermWarn => exact execThermWarn_books ran
  | clkLockLost => exact execClkLockLost_books ran
  | xtalLost => exact execXtalLost_books ran
  | uciDegraded => exact execUciDegraded_books ran
  | dataFrameReceive => exact execDataFrameReceive_books ran
  | portUp => exact execPortUp_books ran
  | linkTrainFail => exact execLinkTrainFail_books ran
  | portRetrainTimer => exact execPortRetrainTimer_books ran
  | adaptiveEgressChoice => exact execAdaptiveEgressChoice_books ran
  | schedulerSelect => exact execSchedulerSelect_books ran
  | rateWheelWake => exact execRateWheelWake_books ran
  | cellTransmit => exact execCellTransmit_books ran
  | heartbeatSend => exact execHeartbeatSend_books ran
  | heartbeat port step count => exact execHeartbeat_books (x1 := step) (x2 := count) ran
  | stepEnd => exact execStepEnd_books ran
  | twinHbSend => exact execTwinHbSend_books ran
  | fenceBumpDeferred => exact execFenceBumpDeferred_books ran
  | linkNotice src reporter dim minus restored beat => exact execLinkNotice_books (x5 := beat) ran
  | healRequestTimeout => exact execHealRequestTimeout_books ran
  | granuleReceive => exact execGranuleReceive_books ran
  | psumSend => exact execPsumSend_books ran
  | opIssue => exact execOpIssue_books ran
  | refresh => exact execRefresh_books ran
  | refreshStatusRead => exact execRefreshStatusRead_books ran
  | memHotClear => exact execMemHotClear_books ran
  | watchdogExpire => exact execWatchdogExpire_books ran
  | eventRingEntryWrite => exact execEventRingEntryWrite_books ran
  | healthSample => exact execHealthSample_books ran
  | pwrEnLow => exact execPwrEnLow_books ran
  | linkRefclkRestored => exact execLinkRefclkRestored_books ran
  | inputFuseOpen => exact execInputFuseOpen_books ran
  | thermWarnClear => exact execThermWarnClear_books ran
  | updateWaitTimeout => exact execUpdateWaitTimeout_books ran
  | _ => exact Bool.noConfusion unlisted

/-- Settles O15: a command outside a list runs a function that leaves the list's part of the state alone. -/
theorem onlyTheseWritePlansAndTheLedger : Obligations.OnlyTheseWritePlansAndTheLedger :=
  fun _ _ _ ran => ⟨fun unlisted => exec_plansOf unlisted ran, fun unlisted => exec_books unlisted ran⟩

/-! ### LAUNCH, the heartbeats of endpoints and STEP_END (04 R78, 12 R279, R280, 17 R349) -/

/-- An UP ENDPOINT port that is not silent counts a missed heartbeat, and falls silent at the limit (17 R349). -/
theorem execHeartbeatMiss_of_heard {n : Nat} {s : State} (engines : s.engines = true) (role : (s.port n).role = .endpoint)
    (up : (s.port n).state = .up) (heard : (s.port n).silent = false) :
    execHeartbeatMiss n s =
      let t := s.modPort n fun p => { p with misses := p.misses + 1 }
      .next (if s.missLimit ≤ (s.port n).misses + 1 then t.goSilent n else t) := by
  have watched : ¬((!s.engines) = true ∨ (s.port n).role ≠ .endpoint ∨ (s.port n).state ≠ .up ∨
      (s.port n).silent = true) := by
    simp [engines, role, up, heard]
  simp only [execHeartbeatMiss, if_neg watched]

/-- Settles O46: each command runs its own function, whose guards its conditions decide. -/
theorem launchesAndHeartbeatsAct : Obligations.LaunchesAndHeartbeatsAct := by
  refine ⟨fun a h g w x p k t s engines installed coll sig member scalar agrees free serves ht opened => ?launch,
    fun a h g w x s engines missing => ?notInstalled,
    fun n s engines placed role up known => ?heartbeatSend,
    fun n g k f u s hu engines role up known heard => ?heartbeat,
    fun n s engines role up heard below => ?missBelow,
    fun n s engines role up heard reached => ?missAtLimit,
    fun n g v u s hu engines role => ?stepEnd⟩
  case launch =>
    change execLaunch a h g w x s = _
    subst sig ht
    have matched : ¬(p.sig ≠ p.sig ∨ (!p.members.contains a) = true ∨ (!s.scalarOk p h g a x.toNat) = true ∨
        (!scalarAgrees p (s.slot h) g x) = true) := by
      rw [member, scalar, agrees]
      simp
    simp only [execLaunch, engines, installed, coll, if_neg matched, free, if_neg serves, opened, Bool.not_true, Bool.false_eq_true,
      reduceCtorEq, false_and, ↓reduceIte]
  case notInstalled =>
    change execLaunch a h g w x s = _
    simp only [execLaunch, engines, missing, Bool.not_true, Bool.false_eq_true, ↓reduceIte]
  case heartbeatSend =>
    change execHeartbeatSend n s = _
    have sends : ¬((!s.engines) = true ∨ s.unplaced = true ∨ (s.port n).role ≠ .endpoint ∨ (s.port n).state ≠ .up ∨
        s.isFenced (s.peerOn n) = true) := by
      simp [engines, placed, role, up, known]
    simp only [execHeartbeatSend, if_neg sends]
  case heartbeat =>
    change execHeartbeat n g k f s = _
    have answers : ¬((!u.engines) = true ∨ (u.port n).role ≠ .endpoint ∨ (u.port n).state ≠ .up ∨
        u.isFenced (s.peerOn n) = true) := by
      simp [engines, role, up, known]
    simp only [execHeartbeat, ← hu, if_neg answers, heard, Bool.false_eq_true, ↓reduceIte]
  case missBelow =>
    change execHeartbeatMiss n s = _
    simp only [execHeartbeatMiss_of_heard engines role up heard, if_neg (Nat.not_le.mpr below)]
  case missAtLimit =>
    change execHeartbeatMiss n s = _
    simp only [execHeartbeatMiss_of_heard engines role up heard, if_pos reached]
  case stepEnd =>
    change execStepEnd n g v s = _
    have endpoint : ¬((!u.engines) = true ∨ (u.port n).role ≠ .endpoint) := by
      simp [engines, role]
    simp only [execStepEnd, ← hu, if_neg endpoint]

/-! ### Messages that pass the shared checks (04 R79, R83, R99) -/

/-- A message that passes the shared checks answers what the meaning of its type makes of the open slot. -/
theorem next_enter_of_accepted {s t u : State} {m : Msg} {p : Plan} {meaning : Plan → Slot → State → State}
    (acc : accepted s m p t) (acts : meaning p (t.slot m.hdl) t = u) :
    (.next (s.enter m meaning) : Host.Outcome State Fault Refusal) = .next u := by
  rw [State.enter_of_accepted s m p t meaning acc, acts]

/-! ### CONTRIB, EXPS, MAXE and PSUM (04 R89, R90, R102) -/

/-- The plane is a register's bit, which no slot holds. -/
@[simp] theorem State.planeB_modSlot (s : State) (h : BitVec 20) (f : Slot → Slot) : (s.modSlot h f).planeB = s.planeB := (rfl)

/-- Settles O51: past the shared checks the conditions decide the guard of each type, and what is left is its effect. -/
theorem foldInputsAreStaged : Obligations.FoldInputsAreStaged := by
  refine ⟨fun m p t k pl v s acc coll hv place type folds notGather notBroadcast unsequenced foreign input unsent first tree
      shape len => ?contrib,
    fun m p t k pl v u s acc coll hv place type first once round child tree shape len credit => ?exps,
    fun m p t k pl v s acc coll hv place type again once round merged child tree shape len => ?expsAgain,
    fun m p t k pl v s acc coll hv place type notBarrier first once round sent parent tree shape len => ?maxe,
    fun m p t k pl v s acc coll hv place type folds unordered child first rounds sent tree shape len => ?psum,
    fun m p t k pl v u s acc coll hv place type folds unordered child first rounds tree shape len credit => ?psumOnePhase⟩ <;>
    subst hv <;> refine next_enter_of_accepted acc ?_
  case contrib =>
    have gathers : (k.kind == kAllGather || k.kind == kBroadcast) = false := by simp [notGather, notBroadcast]
    simp only [coll, place, gathers, foreign, Bool.and_false, Bool.false_eq_true, if_neg notGather, unsent, first, ↓reduceIte]
    exact if_pos ⟨type, by simp [folds], by simp [unsequenced], input, by decide, tree, shape, len⟩
  case exps =>
    simp only [coll, place, first, once, credit, Bool.false_eq_true, ↓reduceIte]
    exact if_pos ⟨type, round, by decide, .inl trivial, child, tree, shape, len⟩
  case expsAgain =>
    simp only [coll, place, again, once, ↓reduceIte]
    exact if_pos ⟨type, round, by decide, .inr merged, child, tree, shape, len⟩
  case maxe =>
    simp only [coll, place, first, once, State.planeB_modSlot, Option.isSome_none, Bool.false_eq_true, ↓reduceIte]
    exact if_pos ⟨type, notBarrier, round, sent, rfl, parent, tree, shape, len⟩
  case psum =>
    simp only [coll, place, if_neg rounds]
    exact if_pos ⟨type, folds, unordered, child, first, .inr sent, tree, shape, len⟩
  case psumOnePhase =>
    simp only [coll, place, credit, if_pos rounds]
    exact if_pos ⟨type, folds, unordered, child, first, .inl rounds, tree, shape, len⟩

/-! ### RESULT, GATHER, EXCH and END (04 R89, R92, R93, R451) -/

/-- Settles O52: past the shared checks the conditions decide the guard of each type and plan, and what is left is its effect. -/
theorem resultsAndExchangesAreDelivered : Obligations.ResultsAndExchangesAreDelivered := by
  refine ⟨fun m p t k pl v s acc coll hv place type kind notRug parent unsent tree shape len => ?result,
    fun m p t k v near s acc coll hv hnear unsequenced kind type chunk elems plane chunkPlane tree neighbour behind
      len => ?allGather,
    fun m p t k v q w s acc coll hv sequenced hw type chunk elems plane chunkPlane tree home foreign role member unsent len block =>
      ?sequence,
    fun m p t k v pl s acc coll hv unsequenced kind type chunk elems plane chunkPlane tree place parent unsent len => ?broadcast,
    fun m p t k a b s acc coll type unsequenced undispatched dense plain source member => ?plain,
    fun m p t k a b q s acc coll type sequenced => ?store,
    fun m p t k a b x s acc coll type unsequenced undispatched sparse => ?sparse,
    fun m p t k a b x s acc coll type unsequenced dispatch fromModule => ?dispatch,
    fun m p t k a b r x s acc coll type unsequenced dispatch foreign member given => ?feed,
    fun m p u s hu engines plan launched sound opened unrefused step sig len fromModule layer => ?finish⟩
  case result =>
    subst hv
    refine next_enter_of_accepted acc ?_
    simp only [coll, place]
    exact if_pos ⟨type, kind, notRug, parent, by rw [unsent, Bool.not_false], tree, shape, len⟩
  case allGather =>
    subst hv hnear
    refine next_enter_of_accepted acc ?_
    simp only [coll, unsequenced, if_pos kind]
    exact if_pos ⟨by simp [type, chunk, ← elems, plane, chunkPlane, ← tree], neighbour, behind, len⟩
  case sequence =>
    subst hv hw
    refine next_enter_of_accepted acc ?_
    simp only [coll, sequenced]
    exact if_pos ⟨by simp [type, chunk, ← elems, plane, chunkPlane, ← tree], home, foreign, role, member,
      by rw [unsent, Bool.not_false], len, block⟩
  case broadcast =>
    subst hv
    refine next_enter_of_accepted acc ?_
    have notGather : k.kind ≠ kAllGather := by
      rcases kind with kind | ⟨kind, _⟩ <;> rw [kind] <;> decide
    simp only [coll, unsequenced, place, if_neg notGather]
    exact if_pos ⟨by simp [type, chunk, ← elems, plane, chunkPlane, ← tree], by simp [kind], parent,
      by rw [unsent, Bool.not_false], len⟩
  case plain =>
    refine next_enter_of_accepted acc ?_
    simp only [coll, unsequenced, undispatched, dense, if_neg (not_not_intro type)]
    exact if_pos ⟨plain, source, member⟩
  case store =>
    refine next_enter_of_accepted acc ?_
    simp only [coll, sequenced, if_neg (not_not_intro type)]
  case sparse =>
    refine next_enter_of_accepted acc ?_
    simp only [coll, unsequenced, undispatched, sparse, if_neg (not_not_intro type)]
  case dispatch =>
    refine next_enter_of_accepted acc ?_
    simp only [coll, unsequenced, dispatch, if_pos fromModule, if_neg (not_not_intro type)]
  case feed =>
    refine next_enter_of_accepted acc ?_
    simp only [coll, unsequenced, dispatch, foreign, member, if_pos given, if_neg (not_not_intro type),
      Bool.false_eq_true, ↓reduceIte]
  case finish =>
    change execEndReceive m s = _
    have matched : ¬(m.head.sig ≠ p.sig ∨ m.data.length ≠ 2 * m.head.elems ∨ (!u.isModule m.src) = true ∨
        (p.seqn.isSome = true ∧ m.head.layer ≠ ((u.slot m.hdl).scalar.getD 0).toNat)) := by
      simpa [sig, len, fromModule] using layer
    simp only [execEndReceive, ← hu, engines, plan, launched, sound, unrefused, matched, opened, ← step, Bool.not_true,
      Bool.false_eq_true, and_false, ↓reduceIte]

end Sys2Proof.Machine
end

section
/-!
PROOFS. Training state: how ranges of a shard are imported and exported, what the ledger's requests, FENCE and ABORT do, and how
a step is updated, normed, exchanged, carried and committed (05_training_state.md R114, R115, R117 to R119, R127, R130, R131,
R134, R135, R137, 17_faults_recovery.md R355, R364, 18_steward_interface.md R386).
-/
namespace Sys2Proof.Machine

/-! ### STATE_IMPORT and STATE_EXPORT (05 R137) -/

/-- Settles O27: the conditions pass each command's checks, and what is left is its effect. -/
theorem stateTransfersRun : Obligations.StateTransfersRun := by
  refine ⟨fun rq b s serves passes idle => ?importStart,
    fun rid x d a w u s running shard firmware hw hu whole => ?importEnd,
    fun rq d a s serves passes shard room => ?exportStart,
    fun rid x d a w u s running firmware shard hw hu still whole => ?exportEnd⟩
  case importStart =>
    change execStateImport rq b s = _
    simp only [execStateImport, serves, passes, idle, List.isEmpty_nil, Bool.not_true, Bool.false_eq_true, ↓reduceIte]
  case importEnd =>
    change execStateImportDone rid s = _
    subst hw hu
    simp only [execStateImportDone, running, shard, firmware, whole, Bool.not_true, Bool.false_eq_true, ↓reduceIte]
  case exportStart =>
    change execStateExport rq s = _
    simp only [execStateExport, serves, passes, shard, Option.map_some, Option.getD_some, if_neg (Nat.not_lt.mpr room),
      Bool.not_true, Bool.false_eq_true, ↓reduceIte]
  case exportEnd =>
    change execStateExportDone rid s = _
    subst hw hu
    simp only [execStateExportDone, running, firmware, shard, whole, still, Bool.not_true, Bool.false_eq_true, ↓reduceIte]

/-! ### LEDGER_QUERY, ROLLBACK, FENCE and ABORT (05 R134, R135, 17 R355) -/

/-- ROLLBACK goes by where its step stands to LED_STEP (05 R135). -/
theorem execRollback_of_mayServe {rq : Req} {s : State} (serves : s.mayServe rq 0x08 = true) :
    execRollback rq s = .next (
      if s.led.step = argOf rq 40 8 then s.rollBack.ok rq
      else if s.led.step + 1 = argOf rq 40 8 ∧ (s.readyWord (argOf rq 40 8)).isSome then
        (s.releaseStored.commit (argOf rq 40 8)).settle.ok rq
      else s.fail rq csConfig 40) := by
  simp only [execRollback, serves, Bool.not_true, Bool.false_eq_true, ↓reduceIte]

/-- Settles O28: the conditions pass each request's checks, and what is left is its effect. -/
theorem ledgerFenceAndAbortRequestsComplete : Obligations.LedgerFenceAndAbortRequestsComplete := by
  refine ⟨fun rq l s serves low high hl found => ?ledgerQuery, fun rq s serves current => ?rollBack,
    fun rq s serves following ready => ?rollForward, fun rq s serves other named party => ?fence,
    fun rq s serves opened step => ?abort⟩
  case ledgerQuery =>
    change execLedgerQuery rq s = _
    subst hl
    have counted : ¬(argOf rq 48 4 < 1 ∨ 256 < argOf rq 48 4) := by omega
    simp only [execLedgerQuery, serves, if_neg counted, List.isEmpty_eq_false_iff.mpr found, Bool.not_true, Bool.false_eq_true,
      ↓reduceIte]
  case rollBack =>
    exact (execRollback_of_mayServe serves).trans (congrArg _ (if_pos current))
  case rollForward =>
    have passed : s.led.step ≠ argOf rq 40 8 := by omega
    refine (execRollback_of_mayServe serves).trans (congrArg _ ?_)
    rw [if_neg passed, if_pos ⟨following, ready⟩]
  case fence =>
    change execFence rq s = _
    have fenceable : ¬(BitVec.ofNat 16 (argOf rq 36 2) = s.selfFa ∨ BitVec.ofNat 16 (argOf rq 36 2) = 0 ∨
        0xF000 ≤ (BitVec.ofNat 16 (argOf rq 36 2)).toNat) := by
      simp only [other, named, Nat.not_le.mpr party, or_self, not_false_eq_true]
    simp only [execFence, serves, if_neg fenceable, Bool.not_true, Bool.false_eq_true, ↓reduceIte]
  case abort =>
    change execAbort rq s = _
    have runs : ¬((s.slot (BitVec.ofNat 20 (argOf rq 36 4))).state ≠ .opened ∨
        (s.slot (BitVec.ofNat 20 (argOf rq 36 4))).step ≠ argOf rq 40 8) := by
      simp [opened, step]
    simp only [execAbort, serves, if_neg runs, Bool.not_true, Bool.false_eq_true, ↓reduceIte]

/-! ### Exchange, carry and commit of a step (05 R110, R127, R130, R131) -/

/-- DIGEST_SEND the first time for a step whose commit has begun and whose conditions hold (05 R127). -/
theorem execDigestSend_of_preReady {g : Nat} {s : State} (engines : s.engines = true) (due : s.stepDone g = false)
    (unsent : s.led.sentDig = none) (begun : s.commitBegun g = true) (ready : s.preReady g = true) :
    execDigestSend g s = .next (
      let t : State := { s with led := { s.led with sentDig := some (g, s.digest, s.ownWord g) } }
      (if t.paired then t.sendCtrl t.twin.fa kCtrl tcMgmt 0 (payDigest g s.digest (s.ownWord g)) else t).exchange g) := by
  simp only [execDigestSend, engines, due, unsent, begun, ready, Bool.not_true, Bool.false_eq_true, or_self, ↓reduceIte]

/-- A notice of the twin for a step not done, where no resilver runs, commits a READY module and waits otherwise (05 R131). -/
theorem execCommitNotice_of_resilver_none {g : Nat} {r : List Byte} {s u : State} (taken : u = s.takeCtrl s.twin.fa 0x86)
    (engines : u.engines = true) (due : u.stepDone g = false) (single : u.mem.resilver = none) :
    execCommitNotice g r s = .next (
      if (u.readyWord g).isSome then u.commit g else { u with led := { u.led with notice := some (g, r) } }) := by
  subst taken
  simp only [execCommitNotice, engines, due, single, Option.any_none, Bool.not_true, Bool.false_eq_true, or_self, ↓reduceIte]

/-- A kept notice of a step that is not done commits once the module is READY (05 R131). -/
theorem State.keptNotice_of_ready {g : Nat} {r : List Byte} {s : State} (kept : s.led.notice = some (g, r))
    (due : s.stepDone g = false) (ready : (s.readyWord g).isSome = true) : s.keptNotice = s.commit g := by
  simp only [State.keptNotice, kept, due, ready, Bool.false_eq_true, ↓reduceIte]

/-- Settles O49: the conditions decide each command's guards, and what is left is its effect. -/
theorem stepsAreExchangedAndCommitted : Obligations.StepsAreExchangedAndCommitted := by
  refine ⟨fun g d w s engines due unsent begun ready hd hw paired => ?digestSend,
    fun g d w u s hu engines single due paired => ?digest,
    fun h x g u s hu engines norm due => ?normResult,
    fun u s engines due hu whole => ?carry,
    fun g r u s hu engines due single ready => ?notice,
    fun g r u s hu engines due single unready => ?noticeKept,
    fun g r s engines kept due ready => ?commitOnReady⟩
  case digestSend =>
    subst hd hw
    refine (execDigestSend_of_preReady engines due unsent begun ready).trans (congrArg _ ?_)
    exact congrArg (State.exchange · g) (if_pos paired)
  case digest =>
    change execDigest g d w s = _
    have answers : ¬(u.stepDone g = true ∨ (!u.paired) = true) := by simp [due, paired]
    simp only [execDigest, ← hu, engines, single, if_neg answers, Bool.not_true, Bool.false_eq_true, ↓reduceIte]
  case normResult =>
    change execNormResult h x g s = _
    simp only [execNormResult, ← hu, engines, norm, due, Bool.not_false, Bool.and_self, ↓reduceIte]
  case carry =>
    change execCarry s = _
    simp only [execCarry, ← hu, engines, due, whole, Bool.and_self, Bool.not_true, Bool.false_eq_true, ↓reduceIte]
  case notice =>
    exact (execCommitNotice_of_resilver_none hu engines due single).trans (congrArg _ (if_pos ready))
  case noticeKept =>
    refine (execCommitNotice_of_resilver_none hu engines due single).trans (congrArg _ (if_neg ?_))
    rw [unready]
    exact Bool.false_ne_true
  case commitOnReady =>
    exact congrArg _ ((if_pos engines).trans (State.keptNotice_of_ready kept due ready))

/-! ### Mirrors, updates and the norm pass (05 R114, R115, R117 to R119) -/

/-- Settles O54: the conditions decide each command's guards, and what is left is its effect. -/
theorem updatesAndNormsRun : Obligations.UpdatesAndNormsRun := by
  refine ⟨fun m p k u s hu engines plan coll opened => ?mirror,
    fun m p u s hu engines plan free => ?mirrorHeld,
    fun h c l p k o r d a u s plan coll owner rug shard engines opened kind unapplied owns runs hu ready => ?update,
    fun n g t s engines ready unsummed ht => ?normPass⟩
  case mirror =>
    change execMirrorReceive m s = _
    simp only [execMirrorReceive, ← hu, engines, plan, opened, coll, Bool.not_true, Bool.false_eq_true, ↓reduceIte]
  case mirrorHeld =>
    change execMirrorReceive m s = _
    simp only [execMirrorReceive, ← hu, engines, plan, free, Bool.not_true, Bool.false_eq_true, ↓reduceIte]
  case update =>
    change execRugUpdate h c l s = _
    have updates : ¬((!s.engines) = true ∨ (s.slot h).state ≠ .opened ∨ k.kind ≠ kRug ∨ r.applied = true ∨
        (!s.owns o) = true ∨ (!s.updatesRun (s.slot h).step) = true) := by
      simp [engines, opened, kind, unapplied, owns, runs]
    simp only [execRugUpdate, plan, coll, owner, rug, shard, Option.bind_some, Option.map_some, if_neg updates, ← hu,
      if_pos ready]
  case normPass =>
    subst ht
    have starts : ¬((!s.engines) = true ∨ (!s.normReady n g) = true ∨
        ((s.norm n g).bind (·.partialSum)).isSome = true) := by
      simp [engines, ready, unsummed]
    exact congrArg _ (if_neg starts)

end Sys2Proof.Machine
end

section
/-!
PROOFS. Plan programs: how write messages land, queue contexts start, ops issue and run, an all-wait ends, and a sparse fold
makes its second pass (06_experts_sparse.md R161, 08_plan_programs.md R189, R199 to R201, R207).
-/
namespace Sys2Proof.Machine

/-! ### Write messages (08 R189, R201) -/

/-- A write message into an OPEN instance is staged while the instance waits for queue contexts, and else goes by its place
(08 R189, R201). -/
theorem execWriteMessageReceive_of_opened {m : WriteMsg} {p : Plan} {s t : State} (engines : s.engines = true)
    (plan : s.plan (planOf m.hdl) = some p)
    (launched : (s.slot m.hdl).unlaunched (!(s.isLeafOf m.src)) m.src m.step = false)
    (ht : t = (s.takeInbox m.src m.hdl).openFor p m.hdl (!(s.isLeafOf m.src)) m.step 0)
    (opened : (t.slot m.hdl).state = .opened) :
    execWriteMessageReceive m s = .next (
      if t.pl.waiting.contains m.hdl = true then { t with pl := { t.pl with staged := t.pl.staged ++ [⟨m⟩] } }
      else if (t.landFetch m).landReady p (t.slot m.hdl) m = true then
        (if ((t.landFetch m).slot m.hdl).state = .opened then (t.landFetch m).landWrite m else t.landFetch m).progress m.hdl
      else s.landFetch m) := by
  simp only [execWriteMessageReceive, engines, plan, launched, ← ht, opened, Bool.not_true, Bool.false_eq_true, ne_eq,
    not_true_eq_false, ↓reduceIte]

/-! ### Iterations of ops (08 R195, R198, R199) -/

/-- An iteration whose instance is OPEN and whose wait is over, after the accesses `w` of an op that is not skipped, whose
operands are ready and that ends well: its signals are applied and the instance progresses (08 R199). -/
theorem execOpIterationDone_of_done {h : BitVec 20} {n : Nat} {q : QCtx} {o : Op} {r x : OpRun} {s t u w : State}
    (current : s.curOp h n = some (q, o, r)) (engines : s.engines = true) (opened : (s.slot h).state = .opened)
    (waited : r.waited = true ∨ q.met o.wait = true) (hw : w = if r.skipped = true then s else s.opFetch o r)
    (running : (w.slot h).state = .opened) (ht : t = if r.waited = true then w else w.modQ h n fun q => q.take o.wait)
    (ready : r.skipped = true ∨ (t.withBank r.bankB).iterReady o r = true)
    (ends : (if r.skipped = true then (t.withBank r.bankB).skipIter h o r
      else (t.withBank r.bankB).runIter h n o r).restore s.led.srcB = .done u x) :
    execOpIterationDone h n s = .next ((u.iterated h n o x).progress h) := by
  have runs : ¬((!s.engines) = true ∨ (s.slot h).state ≠ .opened ∨ (!r.waited && !(q.met o.wait)) = true) := by
    rcases waited with waited | met
    · simp [engines, opened, waited]
    · simp [engines, opened, met]
  have goes : ¬((!r.skipped) = true ∧ (!(t.withBank r.bankB).iterReady o r) = true) := by
    rcases ready with skipped | ready
    · simp [skipped]
    · simp [ready]
  simp only [execOpIterationDone, current, if_neg runs, ← hw, running, ← ht, if_neg goes, ends, ne_eq, not_true_eq_false,
    ↓reduceIte]

/-- Settles O55: the conditions decide each command's guards, and what is left is its effect. -/
theorem programsRun : Obligations.ProgramsRun := by
  refine ⟨fun m p t s engines plan launched ht opened started ready still => ?land,
    fun m p t s engines plan launched ht opened waits => ?stage,
    fun h l p w u s head plan engines room hw hu waits ready => ?start,
    fun h n q o s next engines opened met => ?issue,
    fun h n q o r x t u s current engines opened waited skipped ht ends => ?skippedIteration,
    fun h n q o r x w t u s current engines opened waited runs hw running ht ready ends => ?iteration,
    fun h p g s plan prog engines limited stands lasted => ?allWait,
    fun h p c x y t u s plan sec sparse engines opened unstarted turn owners ht found still hu => ?pass2⟩
  case land =>
    refine (execWriteMessageReceive_of_opened engines plan launched ht opened).trans (congrArg _ ?_)
    rw [started, if_neg Bool.false_ne_true, if_pos ready, if_pos still]
  case stage =>
    exact (execWriteMessageReceive_of_opened engines plan launched ht opened).trans (congrArg _ (if_pos waits))
  case start =>
    change execQueueContextStart s = _
    subst hw
    have fits : ¬((!s.engines) = true ∨ 1024 < s.contextsUsed + p.queues.length) := by
      simp [engines, Nat.not_lt.mpr room]
    have lands : ¬((!(u.pl.waiting.contains h)) = true ∨
        (!((s.pl.staged.filter fun w => w.msg.hdl == h).all fun w => u.landReady p (s.slot h) w.msg)) = true) := by
      rw [waits, ready]
      simp
    simp only [execQueueContextStart, head, plan, if_neg fits, ← hu, if_neg lands]
  case issue =>
    change execOpIssue h n s = _
    simp only [execOpIssue, next, engines, opened, met, Bool.not_true, Bool.false_eq_true, ne_eq, not_true_eq_false, or_self,
      ↓reduceIte]
  case skippedIteration =>
    refine execOpIterationDone_of_done current engines opened waited (if_pos skipped).symm opened ht (.inl skipped) ?_
    rw [if_pos skipped, ends]
  case iteration =>
    have unskipped : ¬r.skipped = true := by simp [runs]
    refine execOpIterationDone_of_done current engines opened waited (hw.trans (if_neg unskipped).symm) running ht (.inr ready) ?_
    rw [if_neg unskipped, ends]
  case allWait =>
    change execWaitCycle h s = _
    have cycles : ¬((!s.engines) = true ∨ s.rdf .tokWaitLimit 0 24 = 0 ∨ (!(s.allWait h p g)) = true ∨
        s.clk.cycle < g.quiet + s.rdf .tokWaitLimit 0 24 * 2000) := by
      simp [engines, limited, stands, Nat.not_lt.mpr lasted]
    simp only [execWaitCycle, plan, prog, if_neg cycles]
  case pass2 =>
    change execSpaccPass2 h s = _
    have due : ¬((!s.engines) = true ∨ (s.slot h).state ≠ .opened ∨ x.started = true ∨ (!(s.sparseTurn h)) = true ∨
        (!((p.localRanks (s.slot h)).all (x.ownerIn p (s.slot h)))) = true) := by
      rw [owners]
      simp [engines, opened, unstarted, turn]
    simp only [execSpaccPass2, plan, sec, Option.bind_some, Option.map_some, sparse, if_neg due, ← ht, found, still, ← hu,
      ↓reduceIte]

end Sys2Proof.Machine
end

section
/-!
PROOFS. Memory: what stores into the three memories and that every step keeps their canonical form, how granules heal and
are kept up, and how WIPE and LIFECYCLE run (08_plan_programs.md R191, 11_module_memory.md R250, R256, R258 to R264,
12_links_cells.md R283, R284, 17_faults_recovery.md R366, 20_security.md R411, R412, R414, R416).
-/
namespace Sys2Proof.Machine

open Sys2Proof

/-! ### The canonical form of the memories (11 R250, 08 R191) -/

/-- Each command outside `writesMemory`, with the law of Laws/FrameMemory.lean on its function. -/
theorem exec_bytes {c : Instr} {s t : State} (unlisted : writesMemory c = false) (ran : exec c s = .next t) :
    t.bytes = s.bytes := by
  cases c with
  | sqDoorbell => exact execSqDoorbell_bytes ran
  | cqDoorbell => exact execCqDoorbell_bytes ran
  | ringConfigWrite => exact execRingConfigWrite_bytes ran
  | msiUnmask => exact execMsiUnmask_bytes ran
  | sqEntryFetch => exact execSqEntryFetch_bytes ran
  | planInstall => exact execPlanInstall_bytes ran
  | stateImport => exact execStateImport_bytes ran
  | stateExport => exact execStateExport_bytes ran
  | ledgerQuery => exact execLedgerQuery_bytes ran
  | resilver => exact execResilver_bytes ran
  | fwUpdate => exact execFwUpdate_bytes ran
  | fwImageWritten => exact execFwImageWritten_bytes ran
  | attest => exact execAttest_bytes ran
  | gateConfig => exact execGateConfig_bytes ran
  | meterConfig => exact execMeterConfig_bytes ran
  | logConfig => exact execLogConfig_bytes ran
  | wipe => exact execWipe_bytes ran
  | stewardRd => exact execStewardRd_bytes ran
  | bmcRead => exact execBmcRead_bytes ran
  | fabricPosWrite => exact execFabricPosWrite_bytes ran
  | memRegionSizeWrite => exact execMemRegionSizeWrite_bytes ran
  | counterOvfClear => exact execCounterOvfClear_bytes ran
  | veTrapClear => exact execVeTrapClear_bytes ran
  | memUeLogClear => exact execMemUeLogClear_bytes ran
  | alertClear => exact execAlertClear_bytes ran
  | lockstepRequest => exact execLockstepRequest_bytes ran
  | lockstepEnter => exact execLockstepEnter_bytes ran
  | gateCtlWrite => exact execGateCtlWrite_bytes ran
  | gateListActivate => exact execGateListActivate_bytes ran
  | gateEntryBoundary => exact execGateEntryBoundary_bytes ran
  | cmConfigWrite => exact execCmConfigWrite_bytes ran
  | evtRingWrite => exact execEvtRingWrite_bytes ran
  | fwCtlRestart => exact execFwCtlRestart_bytes ran
  | supplyTrip => exact execSupplyTrip_bytes ran
  | moonstoneSaveDone => exact execMoonstoneSaveDone_bytes ran
  | vinHigh => exact execVinHigh_bytes ran
  | thermalTrip => exact execThermalTrip_bytes ran
  | thermWarn => exact execThermWarn_bytes ran
  | clkLockLost => exact execClkLockLost_bytes ran
  | xtalLost => exact execXtalLost_bytes ran
  | uciDegraded => exact execUciDegraded_bytes ran
  | dataFrameReceive => exact execDataFrameReceive_bytes ran
  | portUp => exact execPortUp_bytes ran
  | linkTrainFail => exact execLinkTrainFail_bytes ran
  | portRetrainTimer => exact execPortRetrainTimer_bytes ran
  | adaptiveEgressChoice => exact execAdaptiveEgressChoice_bytes ran
  | schedulerSelect => exact execSchedulerSelect_bytes ran
  | rateWheelWake => exact execRateWheelWake_bytes ran
  | cellTransmit => exact execCellTransmit_bytes ran
  | heartbeatSend => exact execHeartbeatSend_bytes ran
  | heartbeat port step count => exact execHeartbeat_bytes (x1 := step) (x2 := count) ran
  | stepEnd => exact execStepEnd_bytes ran
  | twinHbSend => exact execTwinHbSend_bytes ran
  | fenceBumpDeferred => exact execFenceBumpDeferred_bytes ran
  | admitNotice src party epoch gen => exact execAdmitNotice_bytes (x3 := gen) ran
  | linkNotice src reporter dim minus restored beat => exact execLinkNotice_bytes (x5 := beat) ran
  | digest => exact execDigest_bytes ran
  | digestSend => exact execDigestSend_bytes ran
  | commitNotice => exact execCommitNotice_bytes ran
  | normResult => exact execNormResult_bytes ran
  | healRequestTimeout => exact execHealRequestTimeout_bytes ran
  | controlRecordReceive gen record => exact execControlRecordReceive_bytes (x0 := gen) ran
  | psumSend => exact execPsumSend_bytes ran
  | commitOnReady => exact execCommitOnReady_bytes ran
  | opIssue => exact execOpIssue_bytes ran
  | refresh => exact execRefresh_bytes ran
  | refreshStatusRead => exact execRefreshStatusRead_bytes ran
  | memHotClear => exact execMemHotClear_bytes ran
  | watchdogExpire => exact execWatchdogExpire_bytes ran
  | eventRingEntryWrite => exact execEventRingEntryWrite_bytes ran
  | healthSample => exact execHealthSample_bytes ran
  | pwrEnLow => exact execPwrEnLow_bytes ran
  | linkRefclkRestored => exact execLinkRefclkRestored_bytes ran
  | inputFuseOpen => exact execInputFuseOpen_bytes ran
  | thermWarnClear => exact execThermWarnClear_bytes ran
  | updateWaitTimeout => exact execUpdateWaitTimeout_bytes ran
  | _ => exact Bool.noConfusion unlisted

/-- A command of `writesMemory` by the law of Laws/FrameMemory.lean on its function; every other one keeps the bytes. -/
theorem exec_sound {c : Instr} {s t : State} (ran : exec c s = .next t) (sound : Sound s.bytes) : Sound t.bytes := by
  by_cases listed : writesMemory c = true
  case neg => exact exec_bytes (Bool.not_eq_true _ ▸ listed) ran ▸ sound
  cases c with
  | planRemove => exact execPlanRemove_sound ran sound
  | membershipSet => exact execMembershipSet_sound ran sound
  | stateDefine => exact execStateDefine_sound ran sound
  | stateExportDone => exact execStateExportDone_sound ran sound
  | rollback => exact execRollback_sound ran sound
  | fence => exact execFence_sound ran sound
  | resilverCopyDone => exact execResilverCopyDone_sound ran sound
  | fwHandoff => exact execFwHandoff_sound ran sound
  | telemetrySnapshot => exact execTelemetrySnapshot_sound ran sound
  | portConfig => exact execPortConfig_sound ran sound
  | wipeDone => exact execWipeDone_sound ran sound
  | lifecycle => exact execLifecycle_sound ran sound
  | abort => exact execAbort_sound ran sound
  | registerWrite => exact execRegisterWrite_sound ran sound
  | engineReset => exact execEngineReset_sound ran sound
  | moduleReset => exact execModuleReset_sound ran sound
  | coldReset => exact execColdReset_sound ran sound
  | bringUpStageDone => exact execBringUpStageDone_sound ran sound
  | supplyRestored => exact execSupplyRestored_sound ran sound
  | linkRefclkLost => exact execLinkRefclkLost_sound ran sound
  | controlFrameReceive => exact execControlFrameReceive_sound ran sound
  | linkAckTimeout => exact execLinkAckTimeout_sound ran sound
  | controlSlotLoss => exact execControlSlotLoss_sound ran sound
  | laneFail => exact execLaneFail_sound ran sound
  | portDown => exact execPortDown_sound ran sound
  | cellReceive => exact execCellReceive_sound ran sound
  | localCellDeliver => exact execLocalCellDeliver_sound ran sound
  | nakTimer => exact execNakTimer_sound ran sound
  | probeTimer => exact execProbeTimer_sound ran sound
  | ackReceive => exact execAckReceive_sound ran sound
  | nakReceive => exact execNakReceive_sound ran sound
  | launch => exact execLaunch_sound ran sound
  | heartbeatMiss => exact execHeartbeatMiss_sound ran sound
  | twinHb port step count => exact execTwinHb_sound (x1 := step) (x2 := count) ran sound
  | twinSilent => exact execTwinSilent_sound ran sound
  | twinBWaitEnd => exact execTwinBWaitEnd_sound ran sound
  | silence step => exact execSilence_sound (x0 := step) ran sound
  | fenceNotice src party epoch deferred beat => exact execFenceNotice_sound (x4 := beat) ran sound
  | healRequest => exact execHealRequest_sound ran sound
  | healFail ref reason => exact execHealFail_sound (x1 := reason) ran sound
  | healData => exact execHealData_sound ran sound
  | granuleReceive => exact execGranuleReceive_sound ran sound
  | contribReceive => exact execContribReceive_sound ran sound
  | expsReceive => exact execExpsReceive_sound ran sound
  | expsSend => exact execExpsSend_sound ran sound
  | maxeReceive => exact execMaxeReceive_sound ran sound
  | psumReceive => exact execPsumReceive_sound ran sound
  | foldResultForm => exact execFoldResultForm_sound ran sound
  | resultReceive => exact execResultReceive_sound ran sound
  | gatherReceive => exact execGatherReceive_sound ran sound
  | exchReceive => exact execExchReceive_sound ran sound
  | endReceive => exact execEndReceive_sound ran sound
  | mirrorReceive => exact execMirrorReceive_sound ran sound
  | rugUpdate => exact execRugUpdate_sound ran sound
  | normPassStart => exact execNormPassStart_sound ran sound
  | carry => exact execCarry_sound ran sound
  | writeMessageReceive => exact execWriteMessageReceive_sound ran sound
  | queueContextStart => exact execQueueContextStart_sound ran sound
  | opIterationDone => exact execOpIterationDone_sound ran sound
  | waitCycle => exact execWaitCycle_sound ran sound
  | spaccPass2 => exact execSpaccPass2_sound ran sound
  | healStart => exact execHealStart_sound ran sound
  | patrolScrub => exact execPatrolScrub_sound ran sound
  | fwRestartDone => exact execFwRestartDone_sound ran sound
  | stateImportDone => exact execStateImportDone_sound ran sound
  | _ => exact Bool.noConfusion listed

/-- On an empty queue only the clock moves; else the front command runs. -/
theorem step_sound {s t : State} (ran : step s = .next t) (sound : Sound s.bytes) : Sound t.bytes := by
  unfold step at ran
  split at ran
  · injection ran with ticked
    rw [← ticked, State.tick_bytes]
    exact sound
  · exact exec_sound ran sound

/-- Settles O7: `Sound` of the bytes is the canonical form, and each command's law keeps it. -/
theorem memoryStaysCanonical : Obligations.MemoryStaysCanonical := fun s t canonical ran =>
  (sound_iff t).mp (step_sound ran ((sound_iff s).mpr canonical))

/-- Settles O6: no memory lists a byte at reset. -/
theorem memoryIsCanonicalAtReset : Obligations.MemoryIsCanonicalAtReset :=
  ⟨Memory.wf_parts.mpr ⟨rfl, rfl, rfl⟩, fun _ => ⟨rfl, rfl, rfl⟩⟩

/-! ### What stores into the memories (11 R250, R260, 17 R366) -/

/-- Memories that list the same bytes read alike at every address. -/
theorem State.reads_of_bytes {s t : State} (same : t.bytes = s.bytes) (a : Nat) :
    Ram.read a t.mem.ram = Ram.read a s.mem.ram ∧ Ram.read a t.mem.work = Ram.read a s.mem.work ∧
      Ram.read a t.mem.cells = Ram.read a s.mem.cells := by
  simp only [State.bytes, Prod.mk.injEq] at same
  obtain ⟨ram, work, cells⟩ := same
  exact ⟨congrArg _ ram, congrArg _ work, congrArg _ cells⟩

/-- Settles O16: outside `writesMemory` the bytes stay as they are, so each reads as before. -/
theorem onlyTheseStoreIntoMemory : Obligations.OnlyTheseStoreIntoMemory := fun _ _ _ ran unlisted =>
  State.reads_of_bytes (exec_bytes unlisted ran)

/-- A byte at none of the addresses that a list of writes goes to reads as before them. -/
theorem Ram.read_foldl_write_ne {α : Type} (place : α → Nat) (value : α → Byte) {b : Nat} (l : List α)
    (m : List Host.Cell) (canonical : Ram.wf m = true) (apart : ∀ e ∈ l, place e ≠ b) :
    Ram.read b (l.foldl (fun r e => Ram.write (place e) (value e) r) m) = Ram.read b m := by
  induction l generalizing m with
  | nil => rfl
  | cons e l ih =>
    rw [List.forall_mem_cons] at apart
    rw [List.foldl_cons, ih _ (Ram.write_wf _ _ _ canonical) apart.2, Ram.read_write_ne apart.1.symm _ _ canonical]

/-- Writing module memory leaves every byte where none of the written addresses lies (11 R260). -/
theorem Mem.read_write_ne {m : Mem} {a b : Nat} {l : List Byte} (canonical : Ram.wf m.ram = true)
    (apart : ∀ i < l.length, m.phys (a + i) ≠ b) : Ram.read b (m.write a l).ram = Ram.read b m.ram :=
  Ram.read_foldl_write_ne (fun e => m.phys (a + e.2)) Prod.fst l.zipIdx m.ram canonical
    fun e inside => apart e.2 (by simpa using List.snd_lt_of_mem_zipIdx inside)

/-- A state write is a memory write: the terms and what a resilver sends again are no bytes (05 R126, 17 R367). -/
theorem State.stateWrite_bytes (s : State) (a : Nat) (l : List Byte) :
    (s.stateWrite a l).bytes = ((s.mem.write a l).ram, s.mem.work, s.mem.cells) :=
  foldl_bytes _ (fun _ _ => by rw [State.resend_bytes, State.noteTerm_bytes]) _ _

/-- Either nothing is stored, or a whole granule at the place that the head names (17 R366). -/
theorem execGranuleReceive_stores {ref : GranuleRef} {data : List Byte} {s t : State}
    (ran : execGranuleReceive ref data s = .next t) :
    t.bytes = s.bytes ∨ data.length = granuleBytes ∧ t.bytes = ((s.mem.write
      ((s.regionBase (bankRegion (ref.role.getLsbD 2)) + ref.offset / granuleBytes) * granuleBytes) data).ram, s.mem.work,
      s.mem.cells) := by
  simp only [execGranuleReceive, Host.Outcome.next.injEq] at ran
  subst ran
  split
  · exact .inl rfl
  split
  · exact .inl (State.takeTransfer_bytes s 1)
  split
  · exact .inl (State.takeTransfer_bytes s 1)
  split
  · exact .inl ((State.transferBad_bytes _).trans (State.takeTransfer_bytes s 1))
  next whole =>
    simp only [not_or, not_not] at whole
    exact .inr ⟨whole.1, State.stateWrite_bytes (s.takeTransfer 1) _ data⟩

/-- Settles O17: what `execGranuleReceive_stores` leaves, read at an address outside the granule. -/
theorem aTransferredGranuleIsTheOnlyStore : Obligations.ATransferredGranuleIsTheOnlyStore := by
  intro ref data s t a canonical ran
  obtain ⟨canonicalRam, _, _⟩ := Memory.wf_parts.mp canonical
  rcases execGranuleReceive_stores ran with same | ⟨whole, stored⟩
  · exact ⟨fun _ => (State.reads_of_bytes same a).1, (State.reads_of_bytes same a).2⟩
  · simp only [State.bytes, Prod.mk.injEq] at stored
    obtain ⟨ram, work, cells⟩ := stored
    refine ⟨fun apart => ?_, congrArg _ work, congrArg _ cells⟩
    rw [ram]
    exact Mem.read_write_ne canonicalRam (whole ▸ apart)

/-! ### Granules that heal (11 R259, R260, 12 R283, R284) -/

/-- HEAL_START of a heal not yet sent, at a module whose twin serves (11 R259). -/
theorem execHealStart_of_paired {h : Heal} {l : List Heal} {s : State} (first : s.mem.heals = h :: l)
    (engines : s.engines = true) (unsent : h.sent = false) (paired : s.paired = true) :
    execHealStart s = .next (
      let t := s.setHeal { h with tag := s.nextTag, sent := true }
      State.sendHeal { t with rt := { t.rt with rx := Assoc.del (s.twin.fa, BitVec.ofNat 20 s.nextTag) t.rt.rx } }
        { h with tag := s.nextTag, sent := true }) := by
  simp only [execHealStart, first, engines, unsent, paired, Bool.not_true, Bool.false_eq_true, or_self, ↓reduceIte]

/-- HEAL_REQUEST of a granule that reads without loss, under a free tag (12 R283, R284). -/
theorem execHealRequest_of_readable {a : FA} {x g : Nat} {r : GranuleRef} {s u w : State} (still : s.mem.wiping = none)
    (hu : u = s.takeInbox a 0) (engines : u.engines = true) (twin : a = u.twin.fa) (current : r.gen = u.led.step)
    (lies : u.granuleAt r = some g)
    (written : r.role.getLsbD 0 = false ∨ r.role.getLsbD 1 = true ∨ u.targetWritten r.offset = true)
    (free : u.tagFree (a, BitVec.ofNat 20 x) = true) (hw : w = u.fetchRange (g * granuleBytes) granuleBytes)
    (good : w.mem.bad.contains g = false) :
    execHealRequest a x r s = .next ((w.freshTx (a, BitVec.ofNat 20 x)).sendMessage a (BitVec.ofNat 20 x) kResp tcMgmt 0 false
      (transferHead 1 r granuleBytes) (w.granuleData g)) := by
  have answers : ¬((!u.engines) = true ∨ a ≠ u.twin.fa) := by simp [engines, ← twin]
  have ready : (r.role.getLsbD 0 && !r.role.getLsbD 1 && !u.targetWritten r.offset && !u.mem.bad.contains g) = false := by
    rcases written with source | plan | written
    · simp only [source, Bool.false_and]
    · simp only [plan, Bool.not_true, Bool.and_false, Bool.false_and]
    · simp only [written, Bool.not_true, Bool.and_false, Bool.false_and]
  simp only [execHealRequest, still, Option.isSome_none, ← hu, if_neg answers, current, lies, ready, free, ← hw, good,
    ne_eq, not_true_eq_false, Bool.not_true, Bool.false_eq_true, ↓reduceIte]

/-- HEAL_DATA of the granule asked, whole and as its term says (11 R259). -/
theorem execHealData_of_agrees {r : GranuleRef} {b : List Byte} {h : Heal} {l : List Heal} {s u : State}
    (first : s.mem.heals = h :: l) (still : s.mem.wiping = none) (hu : u = s.takeTransfer h.tag) (engines : u.engines = true)
    (sent : h.sent = true) (whole : b.length = granuleBytes) (asked : h.ref = r) (agrees : u.healAgrees h.granule b = true) :
    execHealData r b s = .next (
      let t := State.retire { u with mem := { u.mem with
        heals := u.mem.heals.drop 1, bad := u.mem.bad.filter fun g => g != h.granule } } h.granule
      (if (t.bankOf h.granule).isSome = true then t.stateWrite (h.granule * granuleBytes) b
        else (t.memWrite (h.granule * granuleBytes) b).putTables h.granule b).bump .memHeal) := by
  simp only [execHealData, first, still, Option.isSome_none, ← hu, engines, sent, whole, asked, agrees, ne_eq,
    not_true_eq_false, Bool.not_true, Bool.false_eq_true, or_self, ↓reduceIte]

/-- Settles O50: the conditions decide each command's guards, and what is left is its effect. -/
theorem granulesHeal : Obligations.GranulesHeal := by
  refine ⟨fun h l t s first engines unsent paired ht => ?start,
    fun a x r g u w s still hu engines twin current lies written free hw good => ?request,
    fun h l s first engines sent paired => ?timeout,
    fun r x h l u s hu first engines sent asked => ?fail,
    fun r b h l u t s first still hu engines sent whole asked agrees ht => ?data⟩
  case start =>
    subst ht
    exact execHealStart_of_paired first engines unsent paired
  case request => exact execHealRequest_of_readable still hu engines twin current lies written free hw good
  case timeout =>
    change execHealRequestTimeout s = _
    simp only [execHealRequestTimeout, first, engines, sent, paired, and_self, ↓reduceIte]
  case fail =>
    change execHealFail r x s = _
    simp only [execHealFail, ← hu, first, engines, sent, asked, and_self, ↓reduceIte]
  case data =>
    subst ht
    exact execHealData_of_agrees first still hu engines sent whole asked agrees

/-! ### WIPE and LIFECYCLE (11 R264, 20 R411, R412, R414) -/

/-- Settles O32: the conditions pass each command's checks, and what is left is its effect. -/
theorem wipeAndLifeCycleRun : Obligations.WipeAndLifeCycleRun := by
  refine ⟨fun rq s serves idle => ?wipe, fun rq s wiping => ?wipeDone,
    fun rq b g s serves turn idle field returned form zero sized target serial => ?returned,
    fun rq b g s serves turn idle allowed other signed target => ?signed⟩
  case wipe =>
    change execWipe rq s = _
    simp only [execWipe, serves, idle, List.isEmpty_nil, Bool.not_true, Bool.false_eq_true, ↓reduceIte, State.startWipe]
  case wipeDone =>
    change execWipeDone s = _
    simp only [execWipeDone, wiping]
  case returned =>
    change execLifecycle rq b g s = _
    have allowed : transitionOk 2 3 = true := rfl
    simp only [execLifecycle, serves, turn, idle, field, returned, allowed, form, zero, sized, target, serial,
      List.isEmpty_nil, decide_true, Bool.and_self, Bool.not_true, Bool.false_eq_true, ne_eq, not_true_eq_false, or_self,
      and_self, and_false, ↓reduceIte]
  case signed =>
    change execLifecycle rq b g s = _
    have passes : ¬(s.lifeCycle ≠ argOf rq 36 1 ∧ (!transitionOk s.lifeCycle (argOf rq 36 1)) = true) := by
      rcases allowed with same | allowed
      · simp [same]
      · simp [allowed]
    have signedWay : ¬(s.lifeCycle = 2 ∧ argOf rq 36 1 = 3) := by rwa [not_and_or]
    simp only [execLifecycle, serves, turn, idle, List.isEmpty_nil, if_neg passes, if_neg signedWay, signed, target,
      Bool.not_true, Bool.false_eq_true, ne_eq, not_true_eq_false, or_self, ↓reduceIte]

/-! ### Refresh, temperature bands and patrol scrub (11 R256, R261, R262) -/

/-- A command that LOCKSTEP holds to its turn runs in RELAXED and at its turn (11 R261). -/
theorem State.not_active_off_turn {s : State} {turn : Bool} (due : s.clk.active = false ∨ turn = true) :
    ¬(s.clk.active = true ∧ (!turn) = true) := by
  rcases due with relaxed | rfl
  · simp [relaxed]
  · simp

/-- REFRESH of a populated channel, on its calendar or in RELAXED (11 R261). -/
theorem execRefresh_of_due {c : Nat} {s : State} (runs : s.memRuns = true) (channel : s.hasChannel c = true)
    (due : s.clk.active = false ∨ s.onCalendar c = true) :
    execRefresh c s = .next (
      let t : State := { s with mem := { s.mem with banks := Assoc.set c ((Assoc.get 0 c s.mem.banks + 1) % 16) s.mem.banks } }
      if s.onCalendar c = true then t else t.bump .ndRefreshSlip) := by
  simp only [execRefresh, runs, channel, if_neg (State.not_active_off_turn due), Bool.not_true, Bool.false_eq_true, false_or]

/-- PATROL_SCRUB of a populated channel at its turn, with a rate set and no wipe: the next raw unit is read (11 R261). -/
theorem execPatrolScrub_of_due {c : Nat} {l : List (Nat × BitVec 16)} {s : State} (runs : s.memRuns = true)
    (channel : s.hasChannel c = true) (rated : s.rdf .memCtl 0 8 ≠ 0) (still : s.mem.wiping = none)
    (due : s.clk.active = false ∨ s.turnIn c s.scrubBeats = true) :
    execPatrolScrub c l s = .next (
      let n := Assoc.get 0 c s.mem.scrub
      let u : State := { s with mem := { s.mem with scrub := Assoc.set c (n + 1) s.mem.scrub } }
      let t := if (n + 1) % rawUnits = 0 ∧ s.allPasses < u.allPasses then u.bump .memScrubPass else u
      t.scrubUnit c (n % rawUnits) l) := by
  simp only [execPatrolScrub, runs, channel, rated, still, State.not_active_off_turn due, Option.isSome_none, Bool.not_true,
    Bool.false_eq_true, or_self, ↓reduceIte]

/-- The scrub read of a data unit (11 R261). -/
theorem State.scrubUnit_of_data {c unit b : Nat} {s : State} (data : unit % 33 ≠ 32) (block : s.blockAt c unit = some b)
    (l : List (Nat × BitVec 16)) : s.scrubUnit c unit l = (s.upset b l).scrubBlock b := by
  simp only [State.scrubUnit, if_neg data, block]

/-- Settles O56: the conditions decide each command's guards, and what is left is its effect. -/
theorem memoryIsKeptUp : Obligations.MemoryIsKeptUp := by
  refine ⟨fun c s runs channel on => ?refresh, fun c s runs channel relaxed off => ?refreshSlip,
    fun n s runs package due cool => ?hot, fun n s runs package due => ?cool, fun s runs hot cooled => ?hotClear,
    fun c b n l u t s runs channel rated still due hn data hu ht block => ?scrubData,
    fun c n l u t s runs channel rated still due hn check hu ht => ?scrubCheck⟩
  case refresh => exact (execRefresh_of_due runs channel (.inr on)).trans (congrArg _ (if_pos on))
  case refreshSlip =>
    exact (execRefresh_of_due runs channel (.inl relaxed)).trans (congrArg _ (if_neg (ne_true_of_eq_false off)))
  case hot =>
    change execRefreshStatusRead n true s = _
    simp only [execRefreshStatusRead, runs, package, State.not_active_off_turn due, cool, Bool.not_true, Bool.false_eq_true,
      or_self, ↓reduceIte]
  case cool =>
    change execRefreshStatusRead n false s = _
    simp only [execRefreshStatusRead, runs, package, State.not_active_off_turn due, Bool.not_true, Bool.not_false,
      Bool.false_eq_true, or_self, ↓reduceIte]
  case hotClear =>
    change execMemHotClear s = _
    simp only [execMemHotClear, runs, hot, cooled, List.isEmpty_nil, Bool.not_true, Bool.false_eq_true, or_self, ↓reduceIte]
  case scrubData =>
    subst hn hu ht
    exact (execPatrolScrub_of_due runs channel rated still due).trans (congrArg _ (State.scrubUnit_of_data data block l))
  case scrubCheck =>
    subst hn hu ht
    exact (execPatrolScrub_of_due runs channel rated still due).trans (congrArg _ (if_pos check))

end Sys2Proof.Machine
end

section
/-!
PROOFS. Links and cells: what writes the ports and the twin, how frames and failed lanes act on a port, how cells move from
ingress to transmission, and how twins watch each other (12_links_cells.md R267 to R275, R282, 13_routing_ordering.md R289,
R294, 14_cell_memory.md R308, 15_egress_scheduling.md R322, 17_faults_recovery.md R350, R351).
-/
namespace Sys2Proof.Machine

open Sys2Proof

/-! ### What writes the ports and the twin (12 R268, 17 R351) -/

/-- Each command outside `writesPorts`, with the law of Laws/FrameLinks.lean on its function: it leaves the ports
alone, and the twin. -/
theorem exec_net {c : Instr} {s t : State} (unlisted : writesPorts c = false) (ran : exec c s = .next t) :
    t.net = s.net := by
  cases c with
  | sqDoorbell => exact execSqDoorbell_net ran
  | cqDoorbell => exact execCqDoorbell_net ran
  | ringConfigWrite => exact execRingConfigWrite_net ran
  | msiUnmask => exact execMsiUnmask_net ran
  | sqEntryFetch => exact execSqEntryFetch_net ran
  | planInstall => exact execPlanInstall_net ran
  | planRemove => exact execPlanRemove_net ran
  | stateDefine => exact execStateDefine_net ran
  | stateImport => exact execStateImport_net ran
  | stateExport => exact execStateExport_net ran
  | stateExportDone => exact execStateExportDone_net ran
  | ledgerQuery => exact execLedgerQuery_net ran
  | rollback => exact execRollback_net ran
  | resilver => exact execResilver_net ran
  | resilverCopyDone => exact execResilverCopyDone_net ran
  | fwUpdate => exact execFwUpdate_net ran
  | fwImageWritten => exact execFwImageWritten_net ran
  | fwHandoff => exact execFwHandoff_net ran
  | attest => exact execAttest_net ran
  | telemetrySnapshot => exact execTelemetrySnapshot_net ran
  | gateConfig => exact execGateConfig_net ran
  | meterConfig => exact execMeterConfig_net ran
  | logConfig => exact execLogConfig_net ran
  | wipe => exact execWipe_net ran
  | wipeDone => exact execWipeDone_net ran
  | abort => exact execAbort_net ran
  | stewardRd => exact execStewardRd_net ran
  | bmcRead => exact execBmcRead_net ran
  | fabricPosWrite => exact execFabricPosWrite_net ran
  | memRegionSizeWrite => exact execMemRegionSizeWrite_net ran
  | counterOvfClear => exact execCounterOvfClear_net ran
  | veTrapClear => exact execVeTrapClear_net ran
  | memUeLogClear => exact execMemUeLogClear_net ran
  | alertClear => exact execAlertClear_net ran
  | lockstepRequest => exact execLockstepRequest_net ran
  | lockstepEnter => exact execLockstepEnter_net ran
  | gateCtlWrite => exact execGateCtlWrite_net ran
  | gateListActivate => exact execGateListActivate_net ran
  | gateEntryBoundary => exact execGateEntryBoundary_net ran
  | cmConfigWrite => exact execCmConfigWrite_net ran
  | evtRingWrite => exact execEvtRingWrite_net ran
  | fwCtlRestart => exact execFwCtlRestart_net ran
  | bringUpStageDone => exact execBringUpStageDone_net ran
  | supplyTrip => exact execSupplyTrip_net ran
  | moonstoneSaveDone => exact execMoonstoneSaveDone_net ran
  | vinHigh => exact execVinHigh_net ran
  | thermalTrip => exact execThermalTrip_net ran
  | thermWarn => exact execThermWarn_net ran
  | clkLockLost => exact execClkLockLost_net ran
  | xtalLost => exact execXtalLost_net ran
  | uciDegraded => exact execUciDegraded_net ran
  | linkTrainFail => exact execLinkTrainFail_net ran
  | rateWheelWake => exact execRateWheelWake_net ran
  | ackReceive => exact execAckReceive_net ran
  | nakReceive => exact execNakReceive_net ran
  | launch => exact execLaunch_net ran
  | fenceBumpDeferred => exact execFenceBumpDeferred_net ran
  | linkNotice src reporter dim minus restored beat => exact execLinkNotice_net (x5 := beat) ran
  | digestSend => exact execDigestSend_net ran
  | commitNotice => exact execCommitNotice_net ran
  | normResult => exact execNormResult_net ran
  | healRequest => exact execHealRequest_net ran
  | healRequestTimeout => exact execHealRequestTimeout_net ran
  | healFail ref reason => exact execHealFail_net (x1 := reason) ran
  | healData => exact execHealData_net ran
  | granuleReceive => exact execGranuleReceive_net ran
  | controlRecordReceive gen record => exact execControlRecordReceive_net (x0 := gen) ran
  | contribReceive => exact execContribReceive_net ran
  | expsReceive => exact execExpsReceive_net ran
  | expsSend => exact execExpsSend_net ran
  | maxeReceive => exact execMaxeReceive_net ran
  | psumReceive => exact execPsumReceive_net ran
  | psumSend => exact execPsumSend_net ran
  | foldResultForm => exact execFoldResultForm_net ran
  | resultReceive => exact execResultReceive_net ran
  | gatherReceive => exact execGatherReceive_net ran
  | exchReceive => exact execExchReceive_net ran
  | endReceive => exact execEndReceive_net ran
  | mirrorReceive => exact execMirrorReceive_net ran
  | rugUpdate => exact execRugUpdate_net ran
  | normPassStart => exact execNormPassStart_net ran
  | carry => exact execCarry_net ran
  | commitOnReady => exact execCommitOnReady_net ran
  | writeMessageReceive => exact execWriteMessageReceive_net ran
  | queueContextStart => exact execQueueContextStart_net ran
  | opIssue => exact execOpIssue_net ran
  | opIterationDone => exact execOpIterationDone_net ran
  | waitCycle => exact execWaitCycle_net ran
  | spaccPass2 => exact execSpaccPass2_net ran
  | healStart => exact execHealStart_net ran
  | refresh => exact execRefresh_net ran
  | refreshStatusRead => exact execRefreshStatusRead_net ran
  | memHotClear => exact execMemHotClear_net ran
  | patrolScrub => exact execPatrolScrub_net ran
  | watchdogExpire => exact execWatchdogExpire_net ran
  | eventRingEntryWrite => exact execEventRingEntryWrite_net ran
  | healthSample => exact execHealthSample_net ran
  | stateImportDone => exact execStateImportDone_net ran
  | pwrEnLow => exact execPwrEnLow_net ran
  | inputFuseOpen => exact execInputFuseOpen_net ran
  | thermWarnClear => exact execThermWarnClear_net ran
  | updateWaitTimeout => exact execUpdateWaitTimeout_net ran
  | _ => exact Bool.noConfusion unlisted

/-- The commands of `writesPorts` that are not in `writesTwin`, with the laws of Laws/FrameLinks.lean on their functions. -/
theorem exec_twin {c : Instr} {s t : State} (unlisted : writesTwin c = false) (ran : exec c s = .next t) :
    t.twin = s.twin := by
  by_cases listed : writesPorts c = true
  case neg => exact congrArg Prod.snd (exec_net (Bool.not_eq_true _ ▸ listed) ran)
  cases c with
  | lifecycle => exact execLifecycle_twin ran
  | dataFrameReceive => exact execDataFrameReceive_twin ran
  | portUp => exact execPortUp_twin ran
  | portRetrainTimer => exact execPortRetrainTimer_twin ran
  | cellReceive => exact execCellReceive_twin ran
  | adaptiveEgressChoice => exact execAdaptiveEgressChoice_twin ran
  | schedulerSelect => exact execSchedulerSelect_twin ran
  | cellTransmit => exact execCellTransmit_twin ran
  | localCellDeliver => exact execLocalCellDeliver_twin ran
  | heartbeatSend => exact execHeartbeatSend_twin ran
  | heartbeat port step count => exact execHeartbeat_twin (x1 := step) (x2 := count) ran
  | stepEnd => exact execStepEnd_twin ran
  | twinHbSend => exact execTwinHbSend_twin ran
  | linkRefclkRestored => exact execLinkRefclkRestored_twin ran
  | _ => exact Bool.noConfusion (listed.symm.trans unlisted)

/-- Settles O14: a command outside a list runs a function that leaves the list's part of the state alone. -/
theorem onlyTheseWritePortsAndTheTwin : Obligations.OnlyTheseWritePortsAndTheTwin :=
  fun _ _ _ ran => ⟨fun unlisted => congrArg Prod.fst (exec_net unlisted ran), fun unlisted => exec_twin unlisted ran⟩

/-! ### Frames, ACK timeouts, lost slots and failed lanes (12 R267, R269, R271, R273) -/

/-- Only the value at the port as it stands matters to a change of it. -/
theorem State.modPort_congr {s : State} {n : Nat} {f g : Port → Port} (same : f (s.port n) = g (s.port n)) :
    s.modPort n f = s.modPort n g :=
  congrArg (s.setPort n) same

/-- CONTROL_FRAME_RECEIVE on an UP port with a good CRC and reserved values, from a peer that fits: what it carries is
taken, then a NAK and a degrade are answered (12 R269, R271). -/
theorem execControlFrameReceive_of_meets {n : Nat} {f : List Byte} {s : State} (engines : s.engines = true)
    (up : (s.port n).state = .up) (crc : frameCrcOk [] f = true) (reserved : controlOk f = true)
    (meets : roleMeets s.planeB (s.port n).role (BitVec.ofNat 8 (byteAt f 52)).toNat = true) :
    execControlFrameReceive n f s =
      let t := s.modPort n fun p =>
        (p.acked (leAt f 4 2)).setPeer (BitVec.ofNat 16 (leAt f 50 2)) (BitVec.ofNat 8 (byteAt f 52))
      let u := t.modPort n fun p => { p with
        cred := (List.range 7).map fun i => leAt f (8 + 4 * i) 4, limit := (List.range 7).map fun i => leAt f (36 + 2 * i) 2 }
      let v := if bitOf (byteAt f 3) 0 = true then u.linkNak n (leAt f 4 2) else u
      .next (if byteAt f 2 = 1 then v.degradeFrame n (BitVec.ofNat 8 (byteAt f 54)) else v) := by
  simp only [execControlFrameReceive, engines, up, crc, reserved, meets, BEq.rfl, Bool.true_or, Bool.not_true,
    Bool.false_eq_true, or_self, and_false, and_true, ↓reduceIte]

/-- CONTROL_SLOT_LOSS of an UP port: an x8 port that does not degrade yet starts to, any other port retrains (12 R267, R269). -/
theorem execControlSlotLoss_of_up {n : Nat} {s : State} (engines : s.engines = true) (up : (s.port n).state = .up) :
    execControlSlotLoss n s = .next (
      if (s.port n).width = 3 ∧ (s.port n).degrading = false then s.startDegrade n
      else (s.portFails n .training).retrain n) := by
  simp only [execControlSlotLoss, State.failAndTrain, engines, up, Bool.not_true, Bool.false_eq_true, ne_eq,
    not_true_eq_false, or_self, ↓reduceIte, Bool.not_eq_true']

/-- LANE_FAIL of a lane of an unsplit port: the lane is marked bad, and an UP port degrades or fails with it (12 R269). -/
theorem execLaneFail_of_unsplit {n l : Nat} {s : State} (engines : s.engines = true) (port : n < 24) (lane : l < 8)
    (whole : (s.port (2 * n)).split = false) :
    execLaneFail n l s =
      let t := s.modPort (2 * n) fun p => { p with laneBad := p.laneBad ||| (1#8 <<< l) }
      let p := t.port (2 * n)
      .next (
        if p.state ≠ .up then t
        else if p.split = true then t.portFails (2 * n) .down
        else if p.width = 3 then t.startDegrade (2 * n)
        else if (p.width = 1) = (l < 4) then t.portFails (2 * n) .down
        else t) := by
  simp only [execLaneFail, engines, whole, Nat.not_le.mpr port, Nat.not_le.mpr lane, Bool.false_and, Bool.not_true,
    Bool.false_eq_true, or_self, ↓reduceIte]

/-- Settles O42: each command runs its own function, whose guards its conditions decide. -/
theorem framesAndLanesAct : Obligations.FramesAndLanesAct := by
  refine ⟨fun n f s up whole present crc => ?dataFrame, fun n f s engines up crc reserved meets noNak steady => ?controlFrame,
    fun n e l s up held => ?ackTimeout, fun n s engines up wide full => ?slotLossDegrades,
    fun n s engines up other => ?slotLossFails, fun n l s engines port lane whole off => ?laneOff,
    fun n l q s engines port lane whole hq up unsplit wide => ?laneUp⟩
  case dataFrame =>
    change execDataFrameReceive n f s = _
    simp only [execDataFrameReceive, up, whole, present, crc, Bool.not_true, Bool.false_eq_true, ne_eq, not_true_eq_false,
      or_self, ↓reduceIte]
    exact congrArg _ (State.modPort_congr rfl)
  case controlFrame =>
    refine (execControlFrameReceive_of_meets engines up crc reserved meets).trans ?_
    simp only [noNak, steady, Bool.false_eq_true, ↓reduceIte]
  case ackTimeout =>
    change execLinkAckTimeout n s = _
    simp only [execLinkAckTimeout, up, held, Bool.not_true, Bool.false_eq_true, ↓reduceIte]
  case slotLossDegrades => exact (execControlSlotLoss_of_up engines up).trans (congrArg _ (if_pos ⟨wide, full⟩))
  case slotLossFails =>
    have fails : ¬((s.port n).width = 3 ∧ (s.port n).degrading = false) := by
      rwa [not_and_or, Bool.not_eq_false]
    exact (execControlSlotLoss_of_up engines up).trans (congrArg _ (if_neg fails))
  case laneOff => exact (execLaneFail_of_unsplit engines port lane whole).trans (congrArg _ (if_pos off))
  case laneUp =>
    subst hq
    refine (execLaneFail_of_unsplit engines port lane whole).trans ?_
    simp only [up, unsplit, wide, ne_eq, not_true_eq_false, Bool.false_eq_true, ↓reduceIte]

/-! ### Cells from ingress to transmission (12 R275, 13 R289, R294, 14 R308, 15 R322) -/

/-- CELL_TRANSMIT of the oldest selected cell of an UP port, read to its last slice, with room in the replay buffer: the
port's own frame number stands through the removal of the cell from window and ends (12 R273, 14 R308). -/
theorem execCellTransmit_of_read {n : Nat} {e : Nat × Nat × Cell × Nat} {s t u : State} (o : Nat)
    (found : (s.readWindow (egressClient n)).find? (fun e => e.1 == n) = some e) (up : s.linkUp n = true)
    (room : (s.port n).replay.length < replayFrames) (due : e.2.2.2 ≤ s.clk.cycle)
    (ht : t = s.setWindow (egressClient n) ((s.readWindow (egressClient n)).erase e))
    (hu : u = { t with cm := { t.cm with ends := Assoc.del (n, e.2.1) t.cm.ends } }) :
    execCellTransmit n o s =
      let v := (u.modPort n fun p => { p with
        replay := p.replay ++ [((s.port n).txFseq, e.2.2.1)], txFseq := ((s.port n).txFseq + 1) % 2 ^ 16 }).sendData
          n (s.port n).txFseq e.2.2.1
      let x := v.modSched n fun x => { x with frames := (x.frames.drop (x.frames.length + 1 - replayFrames))
        ++ [((s.port n).txFseq, Assoc.get 0 (n, e.2.1) s.cm.ends)] }
      .next (((x.dropRef e.2.1).admitBlocked).endsLate n (Assoc.get 0 (n, e.2.1) s.cm.ends) o) := by
  have port : u.port n = s.port n := by
    rw [hu, ht]
    rfl
  have numbered : (u.modPort n fun p => { p with
        replay := p.replay ++ [(p.txFseq, e.2.2.1)], txFseq := (p.txFseq + 1) % 2 ^ 16 }) =
      u.modPort n fun p => { p with
        replay := p.replay ++ [((s.port n).txFseq, e.2.2.1)], txFseq := ((s.port n).txFseq + 1) % 2 ^ 16 } :=
    State.modPort_congr (by rw [port])
  simp only [execCellTransmit, found, up, Nat.not_le.mpr room, Nat.not_lt.mpr due, ← ht, ← hu, numbered, Bool.not_true,
    Bool.false_eq_true, or_self, ↓reduceIte]

/-- Settles O44: the conditions decide each command's guards, and what is left is its effect. -/
theorem cellsMoveThroughTheModule : Obligations.CellsMoveThroughTheModule := by
  refine ⟨fun n b t s up whole entered => ?receive, fun e k w u s engines found due hu control => ?deliverAlone,
    fun e k w u t s engines found due data reads hu ht fate => ?deliverJoins, fun q e x n s waits slot grant => ?egress,
    fun n s up room => ?select, fun n o e t u s found up room due ht hu => ?transmit⟩
  case receive =>
    change execCellReceive n b s = _
    simp only [execCellReceive, up, whole, entered, Bool.not_true, Bool.false_eq_true, ne_eq, not_true_eq_false, or_self,
      ↓reduceIte]
  case deliverAlone =>
    change execLocalCellDeliver e k s = _
    simp only [execLocalCellDeliver, engines, found, Nat.not_lt.mpr due, ← hu, if_pos control, Bool.not_true,
      Bool.false_eq_true, ↓reduceIte]
  case deliverJoins =>
    change execLocalCellDeliver e k s = _
    simp only [execLocalCellDeliver, engines, found, Nat.not_lt.mpr due, ← hu, if_neg (not_or_intro data reads), ← ht, fate,
      Bool.not_true, Bool.false_eq_true, ↓reduceIte]
  case egress =>
    change execAdaptiveEgressChoice q s = _
    obtain ⟨p, l, service⟩ := List.exists_cons_of_ne_nil (List.ne_nil_of_mem (List.mem_of_find?_eq_some grant))
    rw [service] at grant
    simp only [execAdaptiveEgressChoice, waits, slot, service, grant]
  case select =>
    change execSchedulerSelect n s = _
    simp only [execSchedulerSelect, up, Nat.not_le.mpr room, Bool.not_true, Bool.false_eq_true, or_self, ↓reduceIte]
  case transmit => exact execCellTransmit_of_read o found up room due ht hu

/-! ### Twins that watch each other (12 R282, 17 R350, R351) -/

/-- TWIN_B_WAIT_END of a twin B that waits: what its endpoints have heard decides who carries the node (17 R351). -/
theorem execTwinBWaitEnd_of_waiting {s : State} (firmware : s.firmware = true) (waits : s.twin.bWait = true) :
    execTwinBWaitEnd s = .next (
      let t := { s with twin := { s.twin with bWait := false } }
      if (s.endpointsUp.any fun p => (s.port p).hbHeard && (s.port p).otherUp) = true then t.stopTwinB else t.carryNode) := by
  simp only [execTwinBWaitEnd, firmware, waits, Bool.not_true, Bool.false_eq_true, or_self, ↓reduceIte]

/-- Settles O47: the conditions decide each command's guards, and what is left is its effect. -/
theorem twinsWatchEachOther : Obligations.TwinsWatchEachOther := by
  refine ⟨fun n s engines placed beats role up present => ?heartbeatSend,
    fun n g k b u s hu engines role serves => ?heartbeat,
    fun s firmware serves planeA => ?twinSilent, fun s firmware waits alive => ?otherServes,
    fun s firmware waits alone => ?carries, fun g b s firmware paired => ?silence⟩
  case heartbeatSend =>
    change execTwinHbSend n s = _
    simp only [execTwinHbSend, engines, placed, beats, role, up, present, Bool.not_true, Bool.false_eq_true, ne_eq,
      not_true_eq_false, or_self, ↓reduceIte]
  case heartbeat =>
    change execTwinHb n g k b s = _
    simp only [execTwinHb, ← hu, engines, role, serves, Bool.not_true, Bool.false_eq_true, ne_eq, not_true_eq_false, or_self,
      ↓reduceIte]
  case twinSilent =>
    change execTwinSilent s = _
    simp only [execTwinSilent, firmware, serves, planeA, Bool.not_true, Bool.not_false, Bool.false_eq_true, or_self, true_or,
      ↓reduceIte]
  case otherServes => exact (execTwinBWaitEnd_of_waiting firmware waits).trans (congrArg _ (if_pos alive))
  case carries =>
    exact (execTwinBWaitEnd_of_waiting firmware waits).trans (congrArg _ (if_neg (ne_true_of_eq_false alone)))
  case silence =>
    change execSilence g b s = _
    have kept : (s.takeCtrl s.twin.fa 0x81).twin = s.twin := congrArg Prod.snd (State.takeCtrl_net s s.twin.fa 0x81)
    simp only [execSilence, firmware, paired, kept, Bool.not_true, Bool.false_eq_true, or_self, ↓reduceIte]

end Sys2Proof.Machine
end

section
/-!
PROOFS. Routing and ordering: how NAK, probe, ACK and replay repair and release streams (13_routing_ordering.md R297 to R300).
-/
namespace Sys2Proof.Machine

open Sys2Proof

/-- NAK_TIMER of a stream that holds a flagged cell: a NAK leaves, and only the sixteenth in a row ends the stream (13 R299). -/
theorem execNakTimer_of_held {a : FA} {h : BitVec 20} {r : RxStream} {s : State}
    (found : Assoc.find (a, h) s.rt.rx = some r) (engines : s.engines = true) (held : r.held ≠ []) :
    execNakTimer a h s = .next (
      let t := (s.streamStep (a, h)).2
      let t : State := { t with rt := { t.rt with rx := Assoc.set (a, h) { r with naks := r.naks + 1 } t.rt.rx } }
      let t := (t.sendCtrl a kCtrl tcMgmt h (payNak (s.streamStep (a, h)).1 r.missing)).bump .rtNak
      if r.naks + 1 = giveUp then t.streamLost a h else t) := by
  simp only [execNakTimer, found, engines, List.isEmpty_eq_false_iff.mpr held, Bool.not_true, Bool.false_eq_true, or_self,
    ↓reduceIte]

/-- PROBE_TIMER of a stream that keeps its record while spilled cells are read: its newest retained flagged cell, else its
newest retained cell, goes again, and only the sixteenth probe in a row ends the stream (13 R299). -/
theorem execProbeTimer_of_top {a : FA} {h : BitVec 20} {v : TxStream} {r : Retained} {s : State}
    (sent : s.tx (a, h) = some v) (newest : (v.top fun r => r.cell.fl).or (v.top fun _ => true) = some r)
    (engines : s.engines = true) (whole : (s.fetchSpilled v h).tx (a, h) = some v) :
    execProbeTimer a h s = .next (
      let t := ((s.fetchSpilled v h).setTx (a, h) { v with probes := v.probes + 1 }).replayCell a r.cell
      if v.probes + 1 = giveUp then t.streamLost a h else t) := by
  obtain flagged | ⟨unflagged, last⟩ := Option.or_eq_some_iff.mp newest
  · simp only [execProbeTimer, sent, flagged, engines, whole, Bool.not_true, Bool.false_eq_true, ne_eq, not_true_eq_false,
      ↓reduceIte]
  · simp only [execProbeTimer, sent, unflagged, last, engines, whole, Bool.not_true, Bool.false_eq_true, ne_eq,
      not_true_eq_false, ↓reduceIte]

/-- Settles O45: each condition decides a guard of its command, and what is left is its effect. -/
theorem streamsRepairThemselves : Obligations.StreamsRepairThemselves := by
  refine ⟨fun a h r g t s found engines held below ht => ?nakTimer,
    fun a h v r u s sent newest engines below hu whole => ?probeTimer,
    fun a h q k g u s engines hu unsent unplanned => ?ackOfNoStream,
    fun a h q k g u x v t s engines hu stream sent named ht unplanned => ?ackOfStream,
    fun a h g l u x v y w s engines hu stream sent named hw hy => ?nakReceive⟩
  case nakTimer =>
    refine (execNakTimer_of_held found engines held).trans (congrArg _ ?_)
    simp only [ht, if_neg (Nat.ne_of_lt below)]
  case probeTimer =>
    subst hu
    exact (execProbeTimer_of_top sent (Option.or_eq_some_iff.mpr newest) engines whole).trans
      (congrArg _ (if_neg (Nat.ne_of_lt below)))
  case ackOfNoStream =>
    change execAckReceive a h q k g s = _
    simp only [execAckReceive, engines, ← hu, unsent, unplanned, Bool.not_true, Bool.false_eq_true, ↓reduceIte]
  case ackOfStream =>
    change execAckReceive a h q k g s = _
    simp only [execAckReceive, engines, ← hu, stream, sent, named, ← ht, unplanned, Bool.not_true, Bool.false_eq_true,
      ↓reduceIte]
  case nakReceive =>
    change execNakReceive a h g l s = _
    simp only [execNakReceive, engines, ← hu, stream, sent, named, ← hw, ← hy, Bool.not_true, Bool.false_eq_true, ↓reduceIte]

end Sys2Proof.Machine
end

section
/-!
PROOFS. Egress scheduling: how gate lists and rate wheels of a port move (15_egress_scheduling.md R327 to R331).
-/
namespace Sys2Proof.Machine

open Sys2Proof

/-- Only the value at the scheduler as it stands matters to a change of it. -/
theorem State.modSched_congr {s : State} {n : Nat} {f g : Sched → Sched} (same : f (s.sched n) = g (s.sched n)) :
    s.modSched n f = s.modSched n g :=
  congrArg (fun x => { s with scheds := Assoc.set n x s.scheds }) same

/-- A write with EN 0 meets no condition on the entries and, where the gates run, changes EN: every class opens and the
delay ends (15 R329, R331). -/
theorem State.gateCtl_of_stop {n : Nat} {v : Word} {s : State} (stops : (v &&& 0xFFFFFFFFFFFF007F#64).getLsbD 0 = false)
    (runs : s.gateOn n = true) :
    s.gateCtl n v =
      (s.wr (.schGateCtl n) (v &&& 0xFFFFFFFFFFFF007F#64)).modSched n fun x => { x.open with delay := 0, late := none } := by
  simp only [State.gateCtl, stops, runs, Bool.true_eq_false, Bool.false_eq_true, Bool.and_false, Bool.false_and, false_and,
    ↓reduceIte]

/-- GATE_LIST_ACTIVATE of a list with EN 1 at a slot where a cycle of it begins: its entries replace those it covers and it
starts on its grid (15 R328). -/
theorem execGateListActivate_of_start {n : Nat} {g : GateLoad} {s : State} (loaded : (s.sched n).load = some g)
    (engines : s.engines = true) (enables : g.en = true) (starts : g.starts s.slotNow = true) :
    execGateListActivate n s =
      .next ((s.wr (.schGateCtl n) (BitVec.ofNat 64 (1 + 2 * g.last + 2 ^ 16 * g.start))).modSched n fun x =>
        { Sched.onGrid { x with gates := g.entries ++ x.gates.drop (g.last + 1), load := none } g.last g.start s.slotNow with
          delay := 0, late := none }) := by
  simp only [execGateListActivate, loaded, engines, enables, starts, b2n, Bool.not_true, Bool.false_eq_true, and_false,
    or_self, ↓reduceIte]

/-- GATE_ENTRY_BOUNDARY at the end of the entry that runs: the next entry begins where this one ends, later by what the
delay takes of it (15 R330, R331). -/
theorem execGateEntryBoundary_of_end {n i : Nat} {s : State} (engines : s.engines = true) (runs : s.gateOn n = true)
    (entry : (s.sched n).entry = some i) (ended : (s.sched n).gTill ≤ s.slotNow) :
    execGateEntryBoundary n s = .next (
      let x := s.sched n
      let j := if i < s.rdf (.schGateCtl n) 1 6 then i + 1 else 0
      let dur := (x.gates.getD j ⟨1, 0x1F#5⟩).dur
      s.modSched n fun y => y.begin j (x.gTill + min x.delay (dur / 2)) (x.gTill + dur) (x.delay - min x.delay (dur / 2))) := by
  simp only [execGateEntryBoundary, engines, runs, entry, Nat.not_lt.mpr ended, Bool.not_true, Bool.false_eq_true, or_self,
    ↓reduceIte]
  exact congrArg _ (State.modSched_congr rfl)

/-- Settles O37: the conditions decide each command's guards, and what is left is its effect. -/
theorem gatesAndRateWheelsMove : Obligations.GatesAndRateWheelsMove := by
  refine ⟨fun n v s powered port stops runs => ?gateCtl, fun n g s loaded engines enables starts => ?listActivate,
    fun n i s engines runs entry ended => ?entryBoundary, fun n k s engines parked due => ?wheelWake⟩
  case gateCtl =>
    change execGateCtlWrite n v s = _
    simp only [execGateCtlWrite, powered, Nat.not_le.mpr port, State.gateCtl_of_stop stops runs, Bool.false_eq_true, or_self,
      ↓reduceIte]
  case listActivate => exact execGateListActivate_of_start loaded engines enables starts
  case entryBoundary => exact execGateEntryBoundary_of_end engines runs entry ended
  case wheelWake => exact congrArg _ (if_pos ⟨engines, parked, due⟩)

end Sys2Proof.Machine
end

section
/-!
PROOFS. Steps: what a step serves, and what the commands leave alone of the queue, OTP, clocks, locks, health scores, register
file, firmware and rings (16_determinism.md R340, R341, 17_faults_recovery.md R370 to R372, 18_steward_interface.md R385,
19_firmware.md R395, 20_security.md R400, R401, 22_registers.md R435, R436).
-/
namespace Sys2Proof.Machine

open Sys2Proof

/-! ### Steps and their queue (log 1) -/

/-- Settles O1: the equation of `step` at a queue with a front. -/
theorem stepTakesTheFrontCommand : Obligations.StepTakesTheFrontCommand := by
  intro c rest s front
  simp only [step, front]

/-- An empty queue stands for time (log 1). -/
theorem step_of_empty {s : State} (empty : s.pending = []) : step s = .next s.tick := by
  simp only [step, empty]

/-- Settles O2: the three cases of `State.tick`, by power and by whether beat 0 has begun (16 R340). -/
theorem emptyQueueLetsACyclePass : Obligations.EmptyQueueLetsACyclePass := by
  intro s empty
  rw [step_of_empty empty]
  refine ⟨fun unpowered => ?unpowered, fun powered begun => ?begun, fun powered before => ?before⟩
  case unpowered => simp only [State.tick, unpowered, ↓reduceIte]
  case begun => simp only [State.tick, powered, begun, Bool.false_eq_true, ↓reduceIte]
  case before => simp only [State.tick, powered, before, Bool.false_eq_true, ↓reduceIte]

/-- A step lets a cycle pass or runs a command. -/
theorem eq_or_exists_exec_of_step {s t : State} (ran : step s = .next t) :
    t = s.tick ∨ ∃ (c : Instr) (rest : List Instr), exec c { s with pending := rest } = .next t := by
  unfold step at ran
  split at ran
  · injection ran with ticked
    exact .inl ticked.symm
  · exact .inr ⟨_, _, ran⟩

/-- Settles O3: each arm of `exec` is a function whose answer is a next state. -/
theorem everyCommandAnswersANextState : Obligations.EveryCommandAnswersANextState := by
  intro c s
  cases c <;> exact ⟨_, rfl⟩

/-! ### The queue, OTP, clocks, locks and health scores (16 R341, 17 R372, 20 R400, 22 R436) -/

/-- The commands that write OTP and keys, the clock unit, the register locks or the health scores. -/
def writesKept (c : Instr) : Bool := writesSecurity c || writesClocks c || locksRegisters c || writesHealth c

/-! What `State.kept` equal on two states says of its parts; `sec_kept` stands in Laws/Otp.lean. -/

theorem pending_kept {s t : State} (same : t.kept = s.kept) : t.pending = s.pending := congrArg (·.1) same

theorem clk_kept {s t : State} (same : t.kept = s.kept) : t.clk = s.clk := congrArg (·.2.2.1) same

theorem locked_kept {s t : State} (same : t.kept = s.kept) : t.locked = s.locked := congrArg (·.2.2.2.1) same

theorem health_kept {s t : State} (same : t.kept = s.kept) : t.health = s.health := congrArg (·.2.2.2.2) same

/-- Each command that writes none of them, with the law of Laws/FrameKept.lean on its function. -/
theorem exec_kept {c : Instr} {s t : State} (unlisted : writesKept c = false) (ran : exec c s = .next t) : t.kept = s.kept := by
  cases c with
  | sqDoorbell => exact execSqDoorbell_kept ran
  | cqDoorbell => exact execCqDoorbell_kept ran
  | ringConfigWrite => exact execRingConfigWrite_kept ran
  | msiUnmask => exact execMsiUnmask_kept ran
  | sqEntryFetch => exact execSqEntryFetch_kept ran
  | planInstall => exact execPlanInstall_kept ran
  | planRemove => exact execPlanRemove_kept ran
  | stateDefine => exact execStateDefine_kept ran
  | stateImport => exact execStateImport_kept ran
  | stateExport => exact execStateExport_kept ran
  | stateExportDone => exact execStateExportDone_kept ran
  | ledgerQuery => exact execLedgerQuery_kept ran
  | rollback => exact execRollback_kept ran
  | fence => exact execFence_kept ran
  | resilver => exact execResilver_kept ran
  | resilverCopyDone => exact execResilverCopyDone_kept ran
  | fwUpdate => exact execFwUpdate_kept ran
  | fwImageWritten => exact execFwImageWritten_kept ran
  | attest => exact execAttest_kept ran
  | telemetrySnapshot => exact execTelemetrySnapshot_kept ran
  | portConfig => exact execPortConfig_kept ran
  | gateConfig => exact execGateConfig_kept ran
  | meterConfig => exact execMeterConfig_kept ran
  | logConfig => exact execLogConfig_kept ran
  | wipe => exact execWipe_kept ran
  | wipeDone => exact execWipeDone_kept ran
  | abort => exact execAbort_kept ran
  | stewardRd => exact execStewardRd_kept ran
  | bmcRead => exact execBmcRead_kept ran
  | counterOvfClear => exact execCounterOvfClear_kept ran
  | veTrapClear => exact execVeTrapClear_kept ran
  | memUeLogClear => exact execMemUeLogClear_kept ran
  | alertClear => exact execAlertClear_kept ran
  | gateCtlWrite => exact execGateCtlWrite_kept ran
  | gateListActivate => exact execGateListActivate_kept ran
  | gateEntryBoundary => exact execGateEntryBoundary_kept ran
  | cmConfigWrite => exact execCmConfigWrite_kept ran
  | evtRingWrite => exact execEvtRingWrite_kept ran
  | fwCtlRestart => exact execFwCtlRestart_kept ran
  | supplyTrip => exact execSupplyTrip_kept ran
  | moonstoneSaveDone => exact execMoonstoneSaveDone_kept ran
  | vinHigh => exact execVinHigh_kept ran
  | thermalTrip => exact execThermalTrip_kept ran
  | thermWarn => exact execThermWarn_kept ran
  | uciDegraded => exact execUciDegraded_kept ran
  | dataFrameReceive => exact execDataFrameReceive_kept ran
  | controlFrameReceive => exact execControlFrameReceive_kept ran
  | linkAckTimeout => exact execLinkAckTimeout_kept ran
  | controlSlotLoss => exact execControlSlotLoss_kept ran
  | laneFail => exact execLaneFail_kept ran
  | portUp => exact execPortUp_kept ran
  | linkTrainFail => exact execLinkTrainFail_kept ran
  | portDown => exact execPortDown_kept ran
  | portRetrainTimer => exact execPortRetrainTimer_kept ran
  | cellReceive => exact execCellReceive_kept ran
  | adaptiveEgressChoice => exact execAdaptiveEgressChoice_kept ran
  | schedulerSelect => exact execSchedulerSelect_kept ran
  | rateWheelWake => exact execRateWheelWake_kept ran
  | cellTransmit => exact execCellTransmit_kept ran
  | localCellDeliver => exact execLocalCellDeliver_kept ran
  | nakTimer => exact execNakTimer_kept ran
  | probeTimer => exact execProbeTimer_kept ran
  | ackReceive => exact execAckReceive_kept ran
  | nakReceive => exact execNakReceive_kept ran
  | launch => exact execLaunch_kept ran
  | heartbeatSend => exact execHeartbeatSend_kept ran
  | heartbeat port step count => exact execHeartbeat_kept (x1 := step) (x2 := count) ran
  | heartbeatMiss => exact execHeartbeatMiss_kept ran
  | stepEnd => exact execStepEnd_kept ran
  | twinHbSend => exact execTwinHbSend_kept ran
  | twinHb port step count => exact execTwinHb_kept (x1 := step) (x2 := count) ran
  | twinSilent => exact execTwinSilent_kept ran
  | twinBWaitEnd => exact execTwinBWaitEnd_kept ran
  | silence step => exact execSilence_kept (x0 := step) ran
  | fenceNotice src party epoch deferred beat => exact execFenceNotice_kept (x4 := beat) ran
  | fenceBumpDeferred => exact execFenceBumpDeferred_kept ran
  | admitNotice src party epoch gen => exact execAdmitNotice_kept (x3 := gen) ran
  | linkNotice src reporter dim minus restored beat => exact execLinkNotice_kept (x5 := beat) ran
  | digest => exact execDigest_kept ran
  | digestSend => exact execDigestSend_kept ran
  | commitNotice => exact execCommitNotice_kept ran
  | normResult => exact execNormResult_kept ran
  | healRequest => exact execHealRequest_kept ran
  | healRequestTimeout => exact execHealRequestTimeout_kept ran
  | healFail ref reason => exact execHealFail_kept (x1 := reason) ran
  | healData => exact execHealData_kept ran
  | granuleReceive => exact execGranuleReceive_kept ran
  | controlRecordReceive gen record => exact execControlRecordReceive_kept (x0 := gen) ran
  | contribReceive => exact execContribReceive_kept ran
  | expsReceive => exact execExpsReceive_kept ran
  | expsSend => exact execExpsSend_kept ran
  | maxeReceive => exact execMaxeReceive_kept ran
  | psumReceive => exact execPsumReceive_kept ran
  | psumSend => exact execPsumSend_kept ran
  | foldResultForm => exact execFoldResultForm_kept ran
  | resultReceive => exact execResultReceive_kept ran
  | gatherReceive => exact execGatherReceive_kept ran
  | exchReceive => exact execExchReceive_kept ran
  | endReceive => exact execEndReceive_kept ran
  | mirrorReceive => exact execMirrorReceive_kept ran
  | rugUpdate => exact execRugUpdate_kept ran
  | normPassStart => exact execNormPassStart_kept ran
  | carry => exact execCarry_kept ran
  | commitOnReady => exact execCommitOnReady_kept ran
  | writeMessageReceive => exact execWriteMessageReceive_kept ran
  | queueContextStart => exact execQueueContextStart_kept ran
  | opIssue => exact execOpIssue_kept ran
  | opIterationDone => exact execOpIterationDone_kept ran
  | waitCycle => exact execWaitCycle_kept ran
  | spaccPass2 => exact execSpaccPass2_kept ran
  | healStart => exact execHealStart_kept ran
  | refresh => exact execRefresh_kept ran
  | memHotClear => exact execMemHotClear_kept ran
  | patrolScrub => exact execPatrolScrub_kept ran
  | watchdogExpire => exact execWatchdogExpire_kept ran
  | eventRingEntryWrite => exact execEventRingEntryWrite_kept ran
  | stateImportDone => exact execStateImportDone_kept ran
  | pwrEnLow => exact execPwrEnLow_kept ran
  | inputFuseOpen => exact execInputFuseOpen_kept ran
  | thermWarnClear => exact execThermWarnClear_kept ran
  | updateWaitTimeout => exact execUpdateWaitTimeout_kept ran
  | _ => exact Bool.noConfusion unlisted

/-- The commands of `writesKept`, too, leave the queue as it is. -/
theorem exec_pending {c : Instr} {s t : State} (ran : exec c s = .next t) : t.pending = s.pending := by
  by_cases listed : writesKept c = true
  case neg => exact pending_kept (exec_kept (Bool.not_eq_true _ ▸ listed) ran)
  cases c with
  | membershipSet => exact execMembershipSet_pending ran
  | fwHandoff => exact execFwHandoff_pending ran
  | lifecycle => exact execLifecycle_pending ran
  | registerWrite => exact execRegisterWrite_pending ran
  | fabricPosWrite => exact execFabricPosWrite_pending ran
  | memRegionSizeWrite => exact execMemRegionSizeWrite_pending ran
  | lockstepRequest => exact execLockstepRequest_pending ran
  | lockstepEnter => exact execLockstepEnter_pending ran
  | engineReset => exact execEngineReset_pending ran
  | moduleReset => exact execModuleReset_pending ran
  | coldReset => exact execColdReset_pending ran
  | bringUpStageDone => exact execBringUpStageDone_pending ran
  | supplyRestored => exact execSupplyRestored_pending ran
  | clkLockLost => exact execClkLockLost_pending ran
  | linkRefclkLost => exact execLinkRefclkLost_pending ran
  | xtalLost => exact execXtalLost_pending ran
  | refreshStatusRead => exact execRefreshStatusRead_pending ran
  | fwRestartDone => exact execFwRestartDone_pending ran
  | healthSample => exact execHealthSample_pending ran
  | linkRefclkRestored => exact execLinkRefclkRestored_pending ran
  | _ => exact Bool.noConfusion listed

/-- Settles O4: `exec_pending`. -/
theorem commandsLeaveTheQueue : Obligations.CommandsLeaveTheQueue := fun _ _ _ ran => exec_pending ran

theorem exec_sec {c : Instr} {s t : State} (unlisted : writesSecurity c = false) (ran : exec c s = .next t) : t.sec = s.sec := by
  by_cases listed : writesKept c = true
  case neg => exact sec_kept (exec_kept (Bool.not_eq_true _ ▸ listed) ran)
  have otherwise : (writesKept c && !writesSecurity c) = true := by rw [listed, unlisted]; rfl
  cases c with
  | membershipSet => exact execMembershipSet_sec ran
  | fabricPosWrite => exact execFabricPosWrite_sec ran
  | memRegionSizeWrite => exact execMemRegionSizeWrite_sec ran
  | lockstepRequest => exact execLockstepRequest_sec ran
  | lockstepEnter => exact execLockstepEnter_sec ran
  | clkLockLost => exact execClkLockLost_sec ran
  | linkRefclkLost => exact execLinkRefclkLost_sec ran
  | xtalLost => exact execXtalLost_sec ran
  | refreshStatusRead => exact execRefreshStatusRead_sec ran
  | healthSample => exact execHealthSample_sec ran
  | linkRefclkRestored => exact execLinkRefclkRestored_sec ran
  | _ => exact Bool.noConfusion otherwise

theorem exec_clk {c : Instr} {s t : State} (unlisted : writesClocks c = false) (ran : exec c s = .next t) : t.clk = s.clk := by
  by_cases listed : writesKept c = true
  case neg => exact clk_kept (exec_kept (Bool.not_eq_true _ ▸ listed) ran)
  have otherwise : (writesKept c && !writesClocks c) = true := by rw [listed, unlisted]; rfl
  cases c with
  | membershipSet => exact execMembershipSet_clk ran
  | fwHandoff => exact execFwHandoff_clk ran
  | lifecycle => exact execLifecycle_clk ran
  | fabricPosWrite => exact execFabricPosWrite_clk ran
  | memRegionSizeWrite => exact execMemRegionSizeWrite_clk ran
  | fwRestartDone => exact execFwRestartDone_clk ran
  | healthSample => exact execHealthSample_clk ran
  | _ => exact Bool.noConfusion otherwise

theorem exec_locked {c : Instr} {s t : State} (unlisted : locksRegisters c = false) (ran : exec c s = .next t) : t.locked = s.locked := by
  by_cases listed : writesKept c = true
  case neg => exact locked_kept (exec_kept (Bool.not_eq_true _ ▸ listed) ran)
  have otherwise : (writesKept c && !locksRegisters c) = true := by rw [listed, unlisted]; rfl
  cases c with
  | fwHandoff => exact execFwHandoff_locked ran
  | lifecycle => exact execLifecycle_locked ran
  | lockstepRequest => exact execLockstepRequest_locked ran
  | lockstepEnter => exact execLockstepEnter_locked ran
  | bringUpStageDone => exact execBringUpStageDone_locked ran
  | clkLockLost => exact execClkLockLost_locked ran
  | linkRefclkLost => exact execLinkRefclkLost_locked ran
  | xtalLost => exact execXtalLost_locked ran
  | refreshStatusRead => exact execRefreshStatusRead_locked ran
  | fwRestartDone => exact execFwRestartDone_locked ran
  | healthSample => exact execHealthSample_locked ran
  | linkRefclkRestored => exact execLinkRefclkRestored_locked ran
  | _ => exact Bool.noConfusion otherwise

theorem exec_health {c : Instr} {s t : State} (unlisted : writesHealth c = false) (ran : exec c s = .next t) : t.health = s.health := by
  by_cases listed : writesKept c = true
  case neg => exact health_kept (exec_kept (Bool.not_eq_true _ ▸ listed) ran)
  have otherwise : (writesKept c && !writesHealth c) = true := by rw [listed, unlisted]; rfl
  cases c with
  | membershipSet => exact execMembershipSet_health ran
  | fwHandoff => exact execFwHandoff_health ran
  | lifecycle => exact execLifecycle_health ran
  | fabricPosWrite => exact execFabricPosWrite_health ran
  | memRegionSizeWrite => exact execMemRegionSizeWrite_health ran
  | lockstepRequest => exact execLockstepRequest_health ran
  | lockstepEnter => exact execLockstepEnter_health ran
  | bringUpStageDone => exact execBringUpStageDone_health ran
  | clkLockLost => exact execClkLockLost_health ran
  | linkRefclkLost => exact execLinkRefclkLost_health ran
  | xtalLost => exact execXtalLost_health ran
  | refreshStatusRead => exact execRefreshStatusRead_health ran
  | fwRestartDone => exact execFwRestartDone_health ran
  | linkRefclkRestored => exact execLinkRefclkRestored_health ran
  | _ => exact Bool.noConfusion otherwise

/-- Settles O12: a command outside a list runs a function that leaves the list's part of the state alone. -/
theorem onlyTheseWriteKeysClocksLocksAndHealth : Obligations.OnlyTheseWriteKeysClocksLocksAndHealth := fun _ _ _ ran =>
  ⟨fun unlisted => exec_sec unlisted ran, fun unlisted => exec_clk unlisted ran, fun unlisted => exec_locked unlisted ran,
    fun unlisted => exec_health unlisted ran⟩

/-! ### The register file, the firmware and the rings (18 R385, 19 R395, 22 R435) -/

/-- The commands that write the register file, what firmware holds, or the rings. -/
def writesDesk (c : Instr) : Bool := writesRegisters c || writesFirmware c || writesAttachment c

/-- Each command that writes none of them, with the law of Laws/FrameDesk.lean on its function. -/
theorem exec_desk {c : Instr} {s t : State} (unlisted : writesDesk c = false) (ran : exec c s = .next t) : t.desk = s.desk := by
  cases c with
  | resilverCopyDone => exact execResilverCopyDone_desk ran
  | stewardRd => exact execStewardRd_desk ran
  | bmcRead => exact execBmcRead_desk ran
  | counterOvfClear => exact execCounterOvfClear_desk ran
  | memUeLogClear => exact execMemUeLogClear_desk ran
  | alertClear => exact execAlertClear_desk ran
  | lockstepRequest => exact execLockstepRequest_desk ran
  | lockstepEnter => exact execLockstepEnter_desk ran
  | gateEntryBoundary => exact execGateEntryBoundary_desk ran
  | moonstoneSaveDone => exact execMoonstoneSaveDone_desk ran
  | vinHigh => exact execVinHigh_desk ran
  | thermWarn => exact execThermWarn_desk ran
  | clkLockLost => exact execClkLockLost_desk ran
  | xtalLost => exact execXtalLost_desk ran
  | dataFrameReceive => exact execDataFrameReceive_desk ran
  | portUp => exact execPortUp_desk ran
  | linkTrainFail => exact execLinkTrainFail_desk ran
  | portRetrainTimer => exact execPortRetrainTimer_desk ran
  | cellReceive => exact execCellReceive_desk ran
  | adaptiveEgressChoice => exact execAdaptiveEgressChoice_desk ran
  | schedulerSelect => exact execSchedulerSelect_desk ran
  | rateWheelWake => exact execRateWheelWake_desk ran
  | cellTransmit => exact execCellTransmit_desk ran
  | localCellDeliver => exact execLocalCellDeliver_desk ran
  | nakTimer => exact execNakTimer_desk ran
  | probeTimer => exact execProbeTimer_desk ran
  | ackReceive => exact execAckReceive_desk ran
  | nakReceive => exact execNakReceive_desk ran
  | launch => exact execLaunch_desk ran
  | heartbeatSend => exact execHeartbeatSend_desk ran
  | heartbeat port step count => exact execHeartbeat_desk (x1 := step) (x2 := count) ran
  | heartbeatMiss => exact execHeartbeatMiss_desk ran
  | stepEnd => exact execStepEnd_desk ran
  | twinHbSend => exact execTwinHbSend_desk ran
  | twinHb port step count => exact execTwinHb_desk (x1 := step) (x2 := count) ran
  | twinSilent => exact execTwinSilent_desk ran
  | twinBWaitEnd => exact execTwinBWaitEnd_desk ran
  | silence step => exact execSilence_desk (x0 := step) ran
  | fenceNotice src party epoch deferred beat => exact execFenceNotice_desk (x4 := beat) ran
  | fenceBumpDeferred => exact execFenceBumpDeferred_desk ran
  | admitNotice src party epoch gen => exact execAdmitNotice_desk (x3 := gen) ran
  | linkNotice src reporter dim minus restored beat => exact execLinkNotice_desk (x5 := beat) ran
  | digestSend => exact execDigestSend_desk ran
  | commitNotice => exact execCommitNotice_desk ran
  | normResult => exact execNormResult_desk ran
  | healRequest => exact execHealRequest_desk ran
  | healRequestTimeout => exact execHealRequestTimeout_desk ran
  | healFail ref reason => exact execHealFail_desk (x1 := reason) ran
  | healData => exact execHealData_desk ran
  | contribReceive => exact execContribReceive_desk ran
  | expsReceive => exact execExpsReceive_desk ran
  | expsSend => exact execExpsSend_desk ran
  | maxeReceive => exact execMaxeReceive_desk ran
  | psumReceive => exact execPsumReceive_desk ran
  | psumSend => exact execPsumSend_desk ran
  | foldResultForm => exact execFoldResultForm_desk ran
  | resultReceive => exact execResultReceive_desk ran
  | gatherReceive => exact execGatherReceive_desk ran
  | exchReceive => exact execExchReceive_desk ran
  | endReceive => exact execEndReceive_desk ran
  | mirrorReceive => exact execMirrorReceive_desk ran
  | rugUpdate => exact execRugUpdate_desk ran
  | normPassStart => exact execNormPassStart_desk ran
  | carry => exact execCarry_desk ran
  | commitOnReady => exact execCommitOnReady_desk ran
  | writeMessageReceive => exact execWriteMessageReceive_desk ran
  | queueContextStart => exact execQueueContextStart_desk ran
  | opIssue => exact execOpIssue_desk ran
  | waitCycle => exact execWaitCycle_desk ran
  | spaccPass2 => exact execSpaccPass2_desk ran
  | healStart => exact execHealStart_desk ran
  | refresh => exact execRefresh_desk ran
  | refreshStatusRead => exact execRefreshStatusRead_desk ran
  | memHotClear => exact execMemHotClear_desk ran
  | healthSample => exact execHealthSample_desk ran
  | linkRefclkRestored => exact execLinkRefclkRestored_desk ran
  | thermWarnClear => exact execThermWarnClear_desk ran
  | _ => exact Bool.noConfusion unlisted

theorem exec_regs {c : Instr} {s t : State} (unlisted : writesRegisters c = false) (ran : exec c s = .next t) : t.regs = s.regs := by
  by_cases listed : writesDesk c = true
  case neg => exact congrArg (·.1) (exec_desk (Bool.not_eq_true _ ▸ listed) ran)
  have otherwise : (writesDesk c && !writesRegisters c) = true := by rw [listed, unlisted]; rfl
  cases c with
  | sqDoorbell => exact execSqDoorbell_regs ran
  | fwImageWritten => exact execFwImageWritten_regs ran
  | fwCtlRestart => exact execFwCtlRestart_regs ran
  | bringUpStageDone => exact execBringUpStageDone_regs ran
  | supplyTrip => exact execSupplyTrip_regs ran
  | thermalTrip => exact execThermalTrip_regs ran
  | uciDegraded => exact execUciDegraded_regs ran
  | patrolScrub => exact execPatrolScrub_regs ran
  | watchdogExpire => exact execWatchdogExpire_regs ran
  | pwrEnLow => exact execPwrEnLow_regs ran
  | inputFuseOpen => exact execInputFuseOpen_regs ran
  | _ => exact Bool.noConfusion otherwise

theorem exec_fw {c : Instr} {s t : State} (unlisted : writesFirmware c = false) (ran : exec c s = .next t) : t.fw = s.fw := by
  by_cases listed : writesDesk c = true
  case neg => exact congrArg (·.2.1) (exec_desk (Bool.not_eq_true _ ▸ listed) ran)
  have otherwise : (writesDesk c && !writesFirmware c) = true := by rw [listed, unlisted]; rfl
  cases c with
  | sqDoorbell => exact execSqDoorbell_fw ran
  | cqDoorbell => exact execCqDoorbell_fw ran
  | ringConfigWrite => exact execRingConfigWrite_fw ran
  | msiUnmask => exact execMsiUnmask_fw ran
  | fabricPosWrite => exact execFabricPosWrite_fw ran
  | memRegionSizeWrite => exact execMemRegionSizeWrite_fw ran
  | veTrapClear => exact execVeTrapClear_fw ran
  | gateCtlWrite => exact execGateCtlWrite_fw ran
  | gateListActivate => exact execGateListActivate_fw ran
  | cmConfigWrite => exact execCmConfigWrite_fw ran
  | evtRingWrite => exact execEvtRingWrite_fw ran
  | supplyTrip => exact execSupplyTrip_fw ran
  | thermalTrip => exact execThermalTrip_fw ran
  | uciDegraded => exact execUciDegraded_fw ran
  | opIterationDone => exact execOpIterationDone_fw ran
  | eventRingEntryWrite => exact execEventRingEntryWrite_fw ran
  | pwrEnLow => exact execPwrEnLow_fw ran
  | inputFuseOpen => exact execInputFuseOpen_fw ran
  | _ => exact Bool.noConfusion otherwise

theorem exec_uci {c : Instr} {s t : State} (unlisted : writesAttachment c = false) (ran : exec c s = .next t) : t.uci = s.uci := by
  by_cases listed : writesDesk c = true
  case neg => exact congrArg (·.2.2) (exec_desk (Bool.not_eq_true _ ▸ listed) ran)
  have otherwise : (writesDesk c && !writesAttachment c) = true := by rw [listed, unlisted]; rfl
  cases c with
  | msiUnmask => exact execMsiUnmask_uci ran
  | fwImageWritten => exact execFwImageWritten_uci ran
  | fabricPosWrite => exact execFabricPosWrite_uci ran
  | memRegionSizeWrite => exact execMemRegionSizeWrite_uci ran
  | veTrapClear => exact execVeTrapClear_uci ran
  | gateCtlWrite => exact execGateCtlWrite_uci ran
  | gateListActivate => exact execGateListActivate_uci ran
  | cmConfigWrite => exact execCmConfigWrite_uci ran
  | evtRingWrite => exact execEvtRingWrite_uci ran
  | fwCtlRestart => exact execFwCtlRestart_uci ran
  | opIterationDone => exact execOpIterationDone_uci ran
  | patrolScrub => exact execPatrolScrub_uci ran
  | watchdogExpire => exact execWatchdogExpire_uci ran
  | eventRingEntryWrite => exact execEventRingEntryWrite_uci ran
  | _ => exact Bool.noConfusion otherwise

/-- Settles O13: a command outside a list runs a function that leaves the list's part of the state alone. -/
theorem onlyTheseWriteRegistersFirmwareAndRings : Obligations.OnlyTheseWriteRegistersFirmwareAndRings := fun _ _ _ ran =>
  ⟨fun unlisted => exec_regs unlisted ran, fun unlisted => exec_fw unlisted ran, fun unlisted => exec_uci unlisted ran⟩

/-! ### What reset leaves (05 R137, 12 R280, 16 R343, 17 R370, 20 R400, 21 R431) -/

/-- Settles O5: no register is written at reset, so each reads its reset value, and no table has an entry. -/
theorem resetHoldsTheStatedValues : Obligations.ResetHoldsTheStatedValues :=
  ⟨rfl, rfl, rfl, rfl, rfl, rfl, rfl, rfl, fun _ => rfl, rfl, rfl, fun _ => rfl, rfl, rfl, rfl, rfl, rfl, rfl, fun _ => rfl,
    rfl, rfl, rfl, rfl, fun _ => rfl, rfl, fun _ => rfl⟩

/-- Every configuration generation of the specimen part is a whole block. -/
theorem length_of_mem_resetCfg {block : List Byte} (burned : block ∈ Security.reset.cfg) : block.length = 128 := by
  simp only [Security.reset, List.mem_cons, List.mem_replicate] at burned
  rcases burned with specimen | ⟨_, blank⟩
  · rw [specimen]
    rfl
  · rw [blank]
    rfl

/-- Settles O9: the specimen part's OTP has the layout's sizes (log 4). -/
theorem otpLayoutHoldsAtReset : Obligations.OtpLayoutHoldsAtReset :=
  ⟨rfl, fun _ burned => length_of_mem_resetCfg burned, rfl, rfl⟩

/-! ### Burned OTP bits (20 R400, R401) -/

/-- A command of `writesSecurity` by the law of Laws/Otp.lean on its function; every other one keeps the security state. -/
theorem exec_otp {c : Instr} {s t : State} (ran : exec c s = .next t) : otpStep s.sec t.sec := by
  by_cases listed : writesSecurity c = true
  case neg => exact otpStep_of_eq (exec_sec (Bool.not_eq_true _ ▸ listed) ran)
  cases c with
  | bringUpStageDone => exact execBringUpStageDone_otp ran
  | fwHandoff => exact execFwHandoff_otp ran
  | fwRestartDone => exact execFwRestartDone_otp ran
  | lifecycle => exact execLifecycle_otp ran
  | moduleReset => exact execModuleReset_otp ran
  | engineReset => exact execEngineReset_otp ran
  | registerWrite => exact execRegisterWrite_otp ran
  | coldReset => exact execColdReset_otp ran
  | supplyRestored => exact execSupplyRestored_otp ran
  | _ => exact Bool.noConfusion listed

/-- Settles O8: a step lets a cycle pass, which leaves OTP, or runs the front command. -/
theorem burnedOtpBitsStay : Obligations.BurnedOtpBitsStay := by
  intro s t sized ran
  have burned : otpStep s.sec t.sec := by
    rcases eq_or_exists_exec_of_step ran with ticked | ⟨c, rest, ran⟩
    · rw [ticked]
      exact otpStep_of_eq (State.tick_sec s)
    · exact exec_otp (s := { s with pending := rest }) ran
  exact burned sized

/-! ### UNALIGNED (16 R341) -/

theorem State.leaveLockstep_unaligned (s : State) (hold : Bool) : (s.leaveLockstep hold).clk.unaligned = s.clk.unaligned := by
  unfold State.leaveLockstep
  split
  · rfl
  · rw [clk_kept (State.raise_kept _ _ _ _), clk_kept (State.bump_kept _ _ _)]

theorem execLockstepRequest_unaligned {s t : State} {v : Word} (ran : execLockstepRequest v s = .next t) :
    t.clk.unaligned = s.clk.unaligned := by
  simp only [execLockstepRequest, State.modeWrite, Host.Outcome.next.injEq] at ran
  subst ran
  split
  · split
    · rfl
    · exact State.leaveLockstep_unaligned _ false
  · rfl

theorem execLockstepEnter_unaligned {s t : State} (ran : execLockstepEnter s = .next t) : t.clk.unaligned = s.clk.unaligned := by
  simp only [execLockstepEnter, Host.Outcome.next.injEq] at ran
  subst ran
  split
  · rfl
  · rw [clk_kept (State.raise_kept _ _ _ _)]

/-- CLK_LOCK_LOST is the only one of them that writes UNALIGNED, and it sets it. -/
theorem execClkLockLost_unaligned {s t : State} {plls : BitVec 3} (ran : execClkLockLost plls s = .next t)
    (lost : s.clk.unaligned = true) : t.clk.unaligned = true := by
  simp only [execClkLockLost, Host.Outcome.next.injEq] at ran
  subst ran
  split
  · exact lost
  split
  · rw [State.leaveLockstep_unaligned, clk_kept (State.raise_kept _ _ _ _)]
  · rfl

theorem execLinkRefclkLost_unaligned {s t : State} {q : Nat} (ran : execLinkRefclkLost q s = .next t) :
    t.clk.unaligned = s.clk.unaligned := by
  simp only [execLinkRefclkLost, Host.Outcome.next.injEq] at ran
  subst ran
  split
  · rfl
  · rw [clk_kept (foldl_kept _ State.refclkGone_kept _ _)]

theorem execLinkRefclkRestored_unaligned {s t : State} {q : Nat} (ran : execLinkRefclkRestored q s = .next t) :
    t.clk.unaligned = s.clk.unaligned := by
  simp only [execLinkRefclkRestored, Host.Outcome.next.injEq] at ran
  subst ran
  split
  · rfl
  · rw [clk_kept (foldl_kept _ State.refclkBack_kept _ _)]

theorem execXtalLost_unaligned {s t : State} (ran : execXtalLost s = .next t) : t.clk.unaligned = s.clk.unaligned := by
  simp only [execXtalLost, Host.Outcome.next.injEq] at ran
  subst ran
  split
  · rfl
  · rw [clk_kept (State.raise_kept _ _ _ _)]

theorem execRefreshStatusRead_unaligned {s t : State} {k : Nat} {hot : Bool} (ran : execRefreshStatusRead k hot s = .next t) :
    t.clk.unaligned = s.clk.unaligned := by
  simp only [execRefreshStatusRead, Host.Outcome.next.injEq] at ran
  subst ran
  split
  · rfl
  split
  · rfl
  split
  · rfl
  · rw [State.leaveLockstep_unaligned, clk_kept (State.raise_kept _ _ _ _)]

/-- No bring-up stage ends in a module that has lost alignment (21 R431). -/
theorem execBringUpStageDone_of_unaligned {s : State} (r : StageReport) (lost : s.clk.unaligned = true) :
    execBringUpStageDone r s = .next s := by
  simp only [execBringUpStageDone, lost, true_or, or_true, ↓reduceIte]

/-- Settles O10: outside `writesClocks` the clocks stay; of the clock commands only CLK_LOCK_LOST writes UNALIGNED, and it sets
it, while bring-up waits. -/
theorem lockLossLastsUntilAReset : Obligations.LockLossLastsUntilAReset := by
  intro c s t ran lost noReset
  by_cases listed : writesClocks c = true
  case neg => rwa [exec_clk (Bool.not_eq_true _ ▸ listed) ran]
  have otherwise : (writesClocks c && !resetsModule c) = true := by rw [listed, noReset]; rfl
  cases c with
  | bringUpStageDone r =>
    injection (execBringUpStageDone_of_unaligned r lost).symm.trans ran with same
    rwa [← same]
  | clkLockLost => exact execClkLockLost_unaligned ran lost
  | linkRefclkLost => exact (execLinkRefclkLost_unaligned ran).trans lost
  | linkRefclkRestored => exact (execLinkRefclkRestored_unaligned ran).trans lost
  | lockstepEnter => exact (execLockstepEnter_unaligned ran).trans lost
  | lockstepRequest => exact (execLockstepRequest_unaligned ran).trans lost
  | refreshStatusRead => exact (execRefreshStatusRead_unaligned ran).trans lost
  | xtalLost => exact (execXtalLost_unaligned ran).trans lost
  | _ => exact Bool.noConfusion otherwise

/-! ### Health scores (17 R370 to R372) -/

/-- SCORE and LAST_SAMPLE of every component are at most 1,000. -/
def healthInRange (l : List (Nat × Health)) : Prop :=
  ∀ n : Nat, (Assoc.get Health.reset n l).score ≤ 1000 ∧ (Assoc.get Health.reset n l).last ≤ 1000

theorem healthInRange_nil : healthInRange [] := fun _ => ⟨Nat.le_refl _, Nat.le_refl _⟩

theorem healthInRange_set {l : List (Nat × Health)} (sane : healthInRange l) (n : Nat) {h : Health} (score : h.score ≤ 1000)
    (last : h.last ≤ 1000) : healthInRange (Assoc.set n h l) := by
  intro k
  by_cases same : k = n
  · subst same
    rw [Assoc.get_set_self]
    exact ⟨score, last⟩
  · rw [Assoc.get_set_ne _ same]
    exact sane k

theorem clampScore_le (x : Int) : clampScore x ≤ 1000 := Nat.min_le_left _ _

/-- Every sample is clamped (17 R371). -/
theorem State.sample_le {s : State} {n : Nat} {m : Measure} {x base : Nat} (sampled : s.sample n m = some (x, base)) : x ≤ 1000 := by
  have clamped : ∀ {y : Int} {b : Nat}, some (clampScore y, b) = some (x, base) → x ≤ 1000 := by
    intro y b same
    simp only [Option.some.injEq, Prod.mk.injEq] at same
    exact same.1 ▸ clampScore_le y
  unfold State.sample at sampled
  dsimp only at sampled
  split at sampled
  · split at sampled
    · split at sampled
      · exact clamped sampled
      · cases sampled
    · split at sampled
      · exact clamped sampled
      · cases sampled
    · cases sampled
  split at sampled
  · split at sampled
    · exact clamped sampled
    · cases sampled
  split at sampled
  · split at sampled
    · exact clamped sampled
    · cases sampled
  · split at sampled
    · exact clamped sampled
    · cases sampled

/-- The score moves toward the sample and not past it (17 R372). -/
theorem nextScore_le {score x : Nat} (shift : Nat) (scoreLe : score ≤ 1000) (sampleLe : x ≤ 1000) : nextScore score x shift ≤ 1000 := by
  have moved : ((x : Int) - score) / 2 ^ shift ≤ 1000 - score := by
    refine Int.ediv_le_of_le_mul (by positivity) ?_
    have one : (1 : Int) ≤ 2 ^ shift := one_le_pow₀ (by decide)
    nlinarith
  simp only [nextScore]
  omega

/-- A component after a sample x that leaves `base` as its error base (17 R372). -/
def State.healthAfter (s : State) (n x base : Nat) : Health :=
  let h := s.healthOf n
  let score := nextScore h.score x (s.rdf .telHealthCfg 10 4)
  { score := score
    warn := flagAfter h.warn score (s.rdf .telHealthCfg 14 10) (s.rdf .telHealthCfg 34 10)
    fault := flagAfter h.fault score (s.rdf .telHealthCfg 24 10) (s.rdf .telHealthCfg 34 10)
    last := x, base := base, present := true }

/-- HEALTH_SAMPLE leaves the scores, or writes one component by its sample. -/
theorem execHealthSample_writes {s t : State} {n : Nat} {m : Measure} (ran : execHealthSample n m s = .next t) :
    t.health = s.health ∨ ∃ x base : Nat, s.sample n m = some (x, base) ∧
      t.health = Assoc.set n (s.healthAfter n x base) s.health := by
  simp only [execHealthSample, Host.Outcome.next.injEq] at ran
  subst ran
  split
  · exact .inl rfl
  split
  · exact .inl rfl
  next x base sampled =>
    refine .inr ⟨x, base, sampled, ?_⟩
    split
    · rw [health_kept (State.raise_kept _ _ _ _)]
      split
      · rw [health_kept (State.raise_kept _ _ _ _)]
        rfl
      · rfl
    · split
      · rw [health_kept (State.raise_kept _ _ _ _)]
        rfl
      · rfl

theorem execHealthSample_inRange {s t : State} {n : Nat} {m : Measure} (ran : execHealthSample n m s = .next t)
    (sane : healthInRange s.health) : healthInRange t.health := by
  rcases execHealthSample_writes ran with same | ⟨x, base, sampled, written⟩
  · exact same ▸ sane
  · have sampleLe := State.sample_le sampled
    rw [written]
    exact healthInRange_set sane n (nextScore_le _ (sane n).1 sampleLe) sampleLe

theorem healthInRange_of_kept {s t : State} (kept : t.kept = s.kept) (sane : healthInRange s.health) : healthInRange t.health :=
  health_kept kept ▸ sane

theorem healthInRange_of_health {s t : State} (same : t.kept.2.2.2.2 = s.kept.2.2.2.2) (sane : healthInRange s.health) :
    healthInRange t.health := by
  rw [show t.health = s.health from same]
  exact sane

/-- A module reset leaves every component at 1,000 (17 R370). -/
theorem State.moduleReset_inRange (s : State) (code : Nat) : healthInRange (s.moduleReset code).health := healthInRange_nil

theorem State.coldReset_inRange (s : State) (code : Nat) (below34 : Bool) : healthInRange (s.coldReset code below34).health :=
  healthInRange_nil

theorem State.resetCtl_inRange {s : State} (v : Word) (sane : healthInRange s.health) : healthInRange (s.resetCtl v).health := by
  unfold State.resetCtl
  split
  · exact healthInRange_of_kept (State.raise_kept _ _ _ _) sane
  split
  · exact State.moduleReset_inRange s 3
  split
  · exact healthInRange_of_kept (State.engineReset_kept _) sane
  · exact sane

theorem execEngineReset_inRange {s t : State} {v : Word} (ran : execEngineReset v s = .next t) (sane : healthInRange s.health) :
    healthInRange t.health := by
  simp only [execEngineReset, Host.Outcome.next.injEq] at ran
  subst ran
  split
  · exact State.resetCtl_inRange v sane
  · exact sane

theorem execModuleReset_inRange {s t : State} {cause : ResetCause} (ran : execModuleReset cause s = .next t)
    (sane : healthInRange s.health) : healthInRange t.health := by
  simp only [execModuleReset, Host.Outcome.next.injEq] at ran
  subst ran
  cases cause with
  | pin =>
    dsimp only
    split
    · exact sane
    · exact State.moduleReset_inRange s 2
  | ctl v =>
    dsimp only
    split
    · exact State.resetCtl_inRange v sane
    · exact sane
  | recovery =>
    dsimp only
    split
    · exact sane
    · exact State.moduleReset_inRange s 4

theorem execColdReset_inRange {s t : State} {cause : ColdCause} (ran : execColdReset cause s = .next t)
    (sane : healthInRange s.health) : healthInRange t.health := by
  simp only [execColdReset, Host.Outcome.next.injEq] at ran
  subst ran
  cases cause with
  | input below34 => exact State.coldReset_inRange _ 0 below34
  | pwrEn =>
    dsimp only
    split
    · exact sane
    · exact State.coldReset_inRange _ 1 false

theorem execSupplyRestored_inRange {s t : State} (ran : execSupplyRestored s = .next t) (sane : healthInRange s.health) :
    healthInRange t.health := by
  simp only [execSupplyRestored, Host.Outcome.next.injEq] at ran
  subst ran
  split
  · exact sane
  · exact State.moduleReset_inRange s 4

/-- Of the registers only PWR_RESET_CTL reaches the health scores. -/
theorem State.writeReg_inRange {s : State} (addr : Nat) (v : Word) (sane : healthInRange s.health) :
    healthInRange (s.writeReg addr v).health := by
  unfold State.writeReg
  split
  · exact healthInRange_of_kept ((State.rateLifted_kept _ _).trans (State.wr_kept _ _ _)) sane
  split
  · exact healthInRange_of_kept (State.gateCtl_kept _ _ _) sane
  · exact healthInRange_of_kept (State.cmWrite_kept _ _ _) sane
  · exact healthInRange_of_kept (State.ringWrite_kept _ _ _) sane
  · split
    · exact healthInRange_of_kept (State.sqBell_kept _ _ _) sane
    · exact healthInRange_of_kept (State.cqBell_kept _ _ _) sane
  · exact healthInRange_of_kept (State.msiWrite_kept _ _ _) sane
  split
  · exact healthInRange_of_health (State.placeWrite_health _ _ _) sane
  · exact healthInRange_of_health (State.placeWrite_health _ _ _) sane
  · exact healthInRange_of_kept (State.cmWrite_kept _ _ _) sane
  · exact healthInRange_of_kept (State.trapWrite_kept _ _) sane
  · exact healthInRange_of_health (State.regionWrite_health _ _) sane
  · exact healthInRange_of_kept (State.ueLogWrite_kept _ _) sane
  · exact healthInRange_of_kept (State.fwCtl_kept _ _) sane
  · exact healthInRange_of_health (State.pwrCfgWrite_health _ _) sane
  · exact healthInRange_of_kept (State.alertWrite_kept _ _) sane
  · exact State.resetCtl_inRange v sane
  · exact healthInRange_of_health (State.modeWrite_health _ _) sane
  · exact healthInRange_of_kept (State.evtRingReg_kept _ _) sane
  · exact healthInRange_of_kept (State.ovfWrite_kept _ _ _) sane

theorem execRegisterWrite_inRange {s t : State} {h d : List Byte} (ran : execRegisterWrite h d s = .next t)
    (sane : healthInRange s.health) : healthInRange t.health := by
  simp only [execRegisterWrite, Host.Outcome.next.injEq] at ran
  subst ran
  split
  · exact sane
  split
  · exact State.writeReg_inRange _ _ sane
  · exact healthInRange_of_kept (State.bump_kept _ _ _) sane

/-- A sample stays in range, a reset leaves 1,000, and every other command leaves the scores. -/
theorem exec_inRange {c : Instr} {s t : State} (ran : exec c s = .next t) (sane : healthInRange s.health) :
    healthInRange t.health := by
  by_cases listed : writesHealth c = true
  case neg => exact exec_health (Bool.not_eq_true _ ▸ listed) ran ▸ sane
  cases c with
  | healthSample => exact execHealthSample_inRange ran sane
  | moduleReset => exact execModuleReset_inRange ran sane
  | engineReset => exact execEngineReset_inRange ran sane
  | registerWrite => exact execRegisterWrite_inRange ran sane
  | coldReset => exact execColdReset_inRange ran sane
  | supplyRestored => exact execSupplyRestored_inRange ran sane
  | _ => exact Bool.noConfusion listed

/-- Settles O11: a step lets a cycle pass, which leaves the scores, or runs the front command. -/
theorem healthScoresStayInRange : Obligations.HealthScoresStayInRange := by
  intro s t sane ran
  rcases eq_or_exists_exec_of_step ran with ticked | ⟨c, rest, ran⟩
  · rw [ticked]
    exact healthInRange_of_health (State.tick_health s) sane
  · exact exec_inRange (s := { s with pending := rest }) ran sane

/-! ### Refused requests (18 R385) -/

/-- A completion takes its entry and traces: it leaves plans, ledger, memory, ports, twin, and what `State.kept` lists. -/
theorem State.complete_frame (s : State) (rq : Req) (st d w : Nat) (o : List Byte) :
    let t := s.complete rq st d w o
    t.pl = s.pl ∧ t.led = s.led ∧ t.bytes = s.bytes ∧ t.net = s.net ∧ t.kept = s.kept :=
  ⟨State.complete_plansOf s rq st d w o, State.complete_books s rq st d w o, State.complete_bytes s rq st d w o,
    State.complete_net s rq st d w o, State.complete_kept s rq st d w o⟩

/-- Settles O58: both ways of refusing are completions, which `State.complete_frame` bounds. -/
theorem aRefusedRequestTakesNoEffect : Obligations.ARefusedRequestTakesNoEffect := by
  intro s t rq st d l refused
  obtain ⟨e, completed⟩ : ∃ e, t = s.complete rq st e 0 [] := by
    rcases refused with failed | listed
    · exact ⟨d, failed⟩
    · exact ⟨_, listed⟩
  obtain ⟨plans, ledger, bytes, net, kept⟩ := completed ▸ State.complete_frame s rq st e 0 []
  simp only [State.bytes, State.net, State.kept, Prod.mk.injEq] at bytes net kept
  obtain ⟨ports, twin⟩ := net
  obtain ⟨pending, sec, clk, locked, health⟩ := kept
  exact ⟨plans, ledger, bytes, ports, twin, clk, sec, locked, health, pending⟩

end Sys2Proof.Machine
end

section
/-!
PROOFS. The steward interface: rings, doorbells, vectors and requests that a submission ring starts, and what register
transactions read and write (18_steward_interface.md R376 to R387, 22_registers.md R435, R436, R443).
-/
namespace Sys2Proof.Machine

open Sys2Proof

/-! ### Rings, doorbells and vectors (18 R380, R381, R383) -/

theorem State.sqBell_of_runs {s : State} {n : Nat} {v : Word} (runs : (s.ring n).runs = true)
    (inside : fld v 0 12 < (s.ring n).size) : s.sqBell n v = s.setRing n { s.ring n with tail := fld v 0 12 } := by
  simp only [State.sqBell, runs, Nat.not_le.mpr inside, Bool.not_true, Bool.false_eq_true, ↓reduceIte]

/-- An index that passes at most the written entries frees those it passes. -/
theorem State.cqBell_of_runs {s : State} {n : Nat} {v : Word} (runs : (s.ring n).runs = true)
    (inside : fld v 0 12 < (s.ring n).size)
    (written : (fld v 0 12 + (s.ring n).size - (s.ring n).head) % (s.ring n).size ≤ (s.ring n).used) :
    s.cqBell n v = (s.setRing n { s.ring n with
      head := fld v 0 12
      used := (s.ring n).used - (fld v 0 12 + (s.ring n).size - (s.ring n).head) % (s.ring n).size }).flushCq n := by
  simp only [State.cqBell, runs, Nat.not_le.mpr inside, Nat.not_lt.mpr written, Bool.not_true, Bool.false_eq_true, ↓reduceIte]

/-- Settles O22: each doorbell's guard, and the bell of a ring that runs. -/
theorem doorbellsMoveTailAndHead : Obligations.DoorbellsMoveTailAndHead := by
  refine ⟨fun n v s attached ring runs inside => ?submission, fun n v s attached low high runs inside written => ?completion⟩
  case submission =>
    exact (congrArg _ (if_pos ⟨attached, ring⟩)).trans (congrArg _ (State.sqBell_of_runs runs inside))
  case completion =>
    exact (congrArg _ (if_pos ⟨attached, low, high⟩)).trans (congrArg _ (State.cqBell_of_runs runs inside written))

/-- A write with EN 0 to a submission ring takes its fields, without the CQ number's reserved bits, and clears ERROR. -/
theorem State.ringWrite_of_stop {s : State} {n : Nat} {v : Word} (sq : n < 16) (stops : v.getLsbD 40 = false) :
    s.ringWrite n v = s.setRing n { s.ring n with cfg := v &&& ringBits &&& 0x00001FFFFFFFFFFF#64, error := false } := by
  simp only [State.ringWrite, sq, BitVec.getLsbD_and, stops, Bool.false_and, Bool.not_false, ↓reduceIte]

/-- A write with EN 1 to a stopped CQ whose size and window are in order starts it empty, with PHASE 1. -/
theorem State.ringWrite_of_start {s : State} {n : Nat} {v w : Word} (cq : 16 ≤ n) (hw : w = v &&& ringBits &&& ~~~(0xF#64 <<< 41))
    (starts : w.getLsbD 40 = true) (stopped : (s.ring n).en = false) (low : fld w 36 4 ≠ 0) (high : fld w 36 4 ≤ 12)
    (window : s.inWindows (fld w 0 36 * 4096) (64 * 2 ^ fld w 36 4) = true) :
    s.ringWrite n v =
      (s.setRing n { s.ring n with cfg := w, head := 0, tail := 0, used := 0, phase := true }).flushCq n := by
  have sized : ¬(fld w 36 4 = 0 ∨ 12 < fld w 36 4 ∨ (!s.inWindows (fld w 0 36 * 4096) (64 * 2 ^ fld w 36 4)) = true) := by
    simp [low, Nat.not_lt.mpr high, window]
  simp only [State.ringWrite, if_neg (Nat.not_lt.mpr cq), ← hw, starts, stopped, if_neg sized, cq, decide_true, Bool.not_true,
    Bool.false_eq_true, ↓reduceIte]

/-- An unmasked vector with PEND set keeps PEND through the write and sends its message. -/
theorem State.msiWrite_of_pending {s : State} {n : Nat} {v : Word} (pending : (s.rd (.uciMsi n)).getLsbD 1 = true)
    (unmasks : v.getLsbD 0 = false) :
    s.msiWrite n v = (s.wr (.uciMsi n) ((v &&& ~~~2#64) ||| 2#64)).interrupt n := by
  simp only [State.msiWrite, pending, unmasks, Bool.not_false, Bool.and_self, ↓reduceIte]

/-- Settles O23: each write's guard, and what the register makes of the value. -/
theorem ringAndVectorWritesTakeEffect : Obligations.RingAndVectorWritesTakeEffect := by
  refine ⟨fun n v s attached ring stops => ?stop, fun n v s attached low high starts stopped empty fits window => ?start,
    fun n v s attached vector pending unmasks => ?unmask⟩
  case stop =>
    have guarded : s.attached = true ∧ n < 32 := ⟨attached, by omega⟩
    exact (congrArg _ (if_pos guarded)).trans (congrArg _ (State.ringWrite_of_stop ring stops))
  case start =>
    exact (congrArg _ (if_pos ⟨attached, high⟩)).trans
      (congrArg _ (State.ringWrite_of_start low rfl starts stopped empty fits window))
  case unmask =>
    exact (congrArg _ (if_pos ⟨attached, vector⟩)).trans (congrArg _ (State.msiWrite_of_pending pending unmasks))

/-! ### Fetching an entry (18 R381, R382, R385) -/

/-- Settles O24: the first conditions let the fetch go on, and the others pass what no request may pass. -/
theorem fetchReservesAnEntryAndStarts : Obligations.FetchReservesAnEntryAndStarts := by
  intro n e s attached firmware ring whole runs waits steady cqRuns room wellFormed lifeCycle buffers sized
  change execSqEntryFetch n e s = _
  simp only [execSqEntryFetch, attached, firmware, Nat.not_le.mpr ring, whole, runs, waits, steady, cqRuns, Nat.not_le.mpr room,
    wellFormed, lifeCycle, buffers, Nat.not_lt.mpr sized, Bool.not_true, Bool.false_eq_true, ne_eq, not_true_eq_false, or_self,
    ↓reduceIte]

/-! ### Plans, membership and shards (05 R106, R107, R136, 18 R386, R387) -/

@[simp] theorem need_true (at' : Nat) : need true at' = [] := (rfl)

/-- Settles O25: the conditions pass each request's checks, and what is left is its effect. -/
theorem plansInstallAndAreRemoved : Obligations.PlansInstallAndAreRemoved := by
  refine ⟨fun rq b s serves wellFormed units config idle room => ?install, fun rq s serves installed idle => ?remove⟩
  case install =>
    change execPlanInstall rq b s = _
    simp only [execPlanInstall, serves, wellFormed, units, config, idle, room, List.isEmpty_nil, Bool.not_true,
      Bool.false_eq_true, Nat.lt_irrefl, ↓reduceIte]
  case remove =>
    change execPlanRemove rq s = _
    have known : (s.plan (argOf rq 36 2)).isNone = false := by
      rw [Option.isNone_eq_false_iff]
      exact installed
    simp only [execPlanRemove, serves, known, idle, List.isEmpty_nil, Bool.not_true, Bool.false_eq_true, false_and, ↓reduceIte]

/-- A shard that is listed is found by its number. -/
theorem all_num_ne_eq_false {l : List Shard} {n : Nat} (defined : ∃ d ∈ l, d.num = n) : (l.all fun d => d.num != n) = false := by
  obtain ⟨d, mem, num⟩ := defined
  exact List.all_eq_false.mpr ⟨d, mem, by simp [num]⟩

/-- STATE_DEFINE with SEEDS of the right length while nothing is OPEN (05 R136). -/
theorem State.defineSeeds_of_idle {s : State} {rq : Req} {b : List Byte} (sized : rq.pbytes = 256) (layout : s.mem.layoutOk = true)
    (idle : s.openHdls = []) :
    s.defineSeeds rq b = State.ok { s with led := { s.led with seeds := padTo 256 (b.take 256) } } rq := by
  simp only [State.defineSeeds, sized, layout, idle, List.isEmpty_nil, Bool.not_true, Bool.false_eq_true, ne_eq,
    not_true_eq_false, ↓reduceIte]

/-- STATE_DEFINE with COUNT 0 of a defined shard, whose banks read without loss (05 R107). -/
theorem State.removeShard_of_defined {s u : State} {rq : Req} {n : Nat} (low : 1 ≤ n) (high : n ≤ 4095)
    (defined : ∃ d ∈ s.led.shards, d.num = n) (layout : s.mem.layoutOk = true) (idle : s.openRug none = [])
    (hu : u = s.fetchAll s.bankRanges []) (whole : u.allReady u.bankRanges = true) :
    s.removeShard rq n = (u.relayout (u.led.shards.filter fun d => d.num != n)).ok rq := by
  have numbered : ¬(n < 1 ∨ 4095 < n) := by omega
  simp only [State.removeShard, if_neg numbered, layout, all_num_ne_eq_false defined, idle, ← hu, whole, List.isEmpty_nil,
    Bool.not_true, Bool.false_eq_true, ↓reduceIte]

/-- STATE_DEFINE of a shard that passes every check, whose banks read without loss (05 R106, R107). -/
theorem execStateDefine_of_shard {rq : Req} {b : List Byte} {d : Shard} {s u : State}
    (hd : d = shardOf b (f32s (slice b 64 (4 * leAt b 40 4)))) (serves : s.mayServe rq 0x04 = true)
    (noSeeds : rq.flags.getLsbD 2 = false) (sized : 64 ≤ rq.pbytes) (counted : leAt b 4 8 ≠ 0)
    (wellFormed : shardBad b rq.pbytes = []) (unit : d.opt = 4 → s.hasMatrix = true)
    (agrees : ∀ e ∈ s.led.shards, e.num ≠ d.num ∧ e.start = d.start) (idle : s.openRug none = [])
    (layout : s.mem.layoutOk = true) (room : bankBytes (d :: s.led.shards) ≤ s.regionSize .stateA * granuleBytes)
    (hu : u = s.fetchAll s.bankRanges []) (whole : u.allReady u.bankRanges = true) :
    execStateDefine rq b s = .next ((u.defineShard d).ok rq) := by
  have equipped : ¬(d.opt = 4 ∧ (!s.hasMatrix) = true) := by
    rintro ⟨facet, missing⟩
    simp [unit facet] at missing
  have fresh : (s.led.shards.all fun e => e.num != d.num) = true :=
    List.all_eq_true.mpr fun e mem => by simpa using (agrees e mem).1
  have together : (s.led.shards.all fun e => e.start == d.start) = true :=
    List.all_eq_true.mpr fun e mem => by simpa using (agrees e mem).2
  simp only [execStateDefine, serves, noSeeds, Nat.not_lt.mpr sized, counted, ← hd, wellFormed, if_neg equipped, layout, fresh,
    together, idle, Nat.sub_eq_zero_of_le room, ← hu, whole, need_true, List.append_nil, List.isEmpty_nil, Nat.lt_irrefl,
    Bool.not_true, Bool.false_eq_true, ↓reduceIte]

/-- Settles O26: the conditions pass each request's checks, and what is left is its effect. -/
theorem membershipAndShardsAreDefined : Obligations.MembershipAndShardsAreDefined := by
  refine ⟨fun rq r s serves wellFormed first => ?membership,
    fun rq b d u s hd serves noSeeds sized counted wellFormed unit agrees idle layout room hu whole => ?shard,
    fun rq b s serves seeds sized layout idle => ?seeds,
    fun rq b u s serves noSeeds sized none low high defined layout idle hu whole => ?removal⟩
  case membership =>
    change execMembershipSet rq r s = _
    simp only [execMembershipSet, serves, wellFormed, first, List.isEmpty_nil, Bool.not_true, Bool.false_eq_true, false_and,
      ↓reduceIte]
  case shard =>
    exact execStateDefine_of_shard hd serves noSeeds sized counted wellFormed unit agrees idle layout room hu whole
  case seeds =>
    change execStateDefine rq b s = _
    simp only [execStateDefine, serves, seeds, State.defineSeeds_of_idle sized layout idle, Bool.not_true, Bool.false_eq_true,
      ↓reduceIte]
  case removal =>
    change execStateDefine rq b s = _
    simp only [execStateDefine, serves, noSeeds, Nat.not_lt.mpr sized, none,
      State.removeShard_of_defined low high defined layout idle hu whole, Bool.not_true, Bool.false_eq_true, ↓reduceIte]

/-! ### Register transactions (18 R376, R378, 22 R435, R443) -/

/-- Settles O33: each transaction passes its checks, and what is left is its answer or its write. -/
theorem transactionsReadAndWriteRegisters : Obligations.TransactionsReadAndWriteRegisters := by
  refine ⟨fun h s attached whole read header access => ?stewardRd, fun h b s attached whole write header access data => ?write,
    fun a n s powered inside => ?bmcRead⟩
  case stewardRd =>
    change execStewardRd h s = _
    simp [execStewardRd, attached, whole, read, header, access]
  case write =>
    change execRegisterWrite h b s = _
    simp [execRegisterWrite, attached, whole, write, header, access, data]
  case bmcRead =>
    change execBmcRead a n s = _
    simp only [execBmcRead, powered, Nat.not_le.mpr inside, Bool.not_true, Bool.false_eq_true, or_self, ↓reduceIte]

/-! ### Registers with a behaviour of their own (00 R13, 01 R25, 11 R253, 14 R318, 22 R436) -/

/-- The first write of a write-once register locks it and takes effect (00 R11). -/
theorem State.lockOr_of_unlocked {s : State} {r : Reg} (a : Nat) (first : State → State) (unlocked : s.locked.contains r = false) :
    s.lockOr r a first = first { s with locked := s.locked ++ [r] } := by
  simp only [State.lockOr, unlocked, Bool.false_eq_true, ↓reduceIte]

/-- The first write of RT_FABRIC_POS before RT_TORUS_DIM: no place is judged until both are locked (01 R25). -/
theorem State.placeWrite_of_first {s : State} (v : Word) (unlocked : s.locked.contains Reg.rtFabricPos = false)
    (undimmed : s.locked.contains Reg.rtTorusDim = false) :
    s.placeWrite false v = { s.wr .rtFabricPos (v &&& posBits) with locked := s.locked ++ [Reg.rtFabricPos] } := by
  have alone : (s.locked ++ [Reg.rtFabricPos]).contains Reg.rtTorusDim = false := by
    simpa using undimmed
  simp only [State.placeWrite, unlocked, alone, Bool.false_eq_true, false_and, and_false, ↓reduceIte]

/-- Settles O34: each write's guard, and what the register makes of the value. -/
theorem configurationRegistersTakeTheirValues : Obligations.ConfigurationRegistersTakeTheirValues := by
  refine ⟨fun v s attached unlocked fits => ?regionSize, fun v s attached unlocked undimmed => ?fabricPos,
    fun k v s attached cls fits => ?cmClass, fun v s attached stops => ?evtRing⟩
  case regionSize =>
    refine (congrArg _ (if_pos attached)).trans (congrArg _ ?_)
    simp only [State.regionWrite, State.lockOr_of_unlocked _ _ unlocked, fits, ↓reduceIte]
  case fabricPos =>
    exact (congrArg _ (if_pos attached)).trans (congrArg _ (State.placeWrite_of_first v unlocked undimmed))
  case cmClass =>
    refine (congrArg _ (if_pos ⟨attached, cls⟩)).trans (congrArg _ ?_)
    simp only [State.cmWrite, fits, ↓reduceIte]
  case evtRing =>
    refine (congrArg _ (if_pos attached)).trans (congrArg _ ?_)
    simp only [State.evtRingReg, stops, Bool.not_false, ↓reduceIte]

/-- Settles O35: each write's guard, and the bit that names what it clears. -/
theorem writeOneClearsWhatItNames : Obligations.WriteOneClearsWhatItNames := by
  refine ⟨fun a k v s attached alone unit names => ?counter, fun v s attached names => ?trap, fun v s attached names => ?ueLog,
    fun v s attached names => ?alert⟩
  case counter =>
    refine (congrArg _ (if_pos attached)).trans (congrArg _ ?_)
    simp only [State.ovfWrite, alone, List.zipIdx_cons, List.zipIdx_nil, List.foldl_cons, List.foldl_nil, names, unit,
      Bool.not_false, and_self, ↓reduceIte]
  case trap => exact (congrArg _ (if_pos attached)).trans (congrArg _ (if_pos names))
  case ueLog => exact (congrArg _ (if_pos attached)).trans (congrArg _ (if_pos names))
  case alert => exact (congrArg _ (if_pos attached)).trans (congrArg _ (if_pos names))

end Sys2Proof.Machine
end

section
/-!
PROOFS. Clocks, resets, bring-up, trips and warnings (16_determinism.md R341, R343, 18_steward_interface.md R375,
21_module_power_clocks.md R419, R422, R423, R427 to R431).
-/
namespace Sys2Proof.Machine

open Sys2Proof

/-! ### Clocks and lockstep (16 R341, R343, 21 R427) -/

/-- Settles O36: the conditions decide each command's guards, and what is left is its effect. -/
theorem clocksAndLockstepChange : Obligations.ClocksAndLockstepChange := by
  refine ⟨fun v s attached asks => ?request, fun s engines asked relaxed free begins => ?enter,
    fun l s powered aligned locked first => ?lockLost, fun q s powered quadrant present => ?refclkLost,
    fun q s powered quadrant absent => ?refclkRestored, fun s powered first => ?xtalLost⟩
  case request =>
    refine (congrArg _ (if_pos attached)).trans (congrArg _ ?_)
    simp only [State.modeWrite, asks, ↓reduceIte]
  case enter =>
    change execLockstepEnter s = _
    simp only [execLockstepEnter, engines, asked, relaxed, free, begins, Bool.not_true, Bool.false_eq_true, ne_eq,
      not_true_eq_false, or_self, ↓reduceIte]
  case lockLost =>
    change execClkLockLost l s = _
    simp only [execClkLockLost, powered, aligned, locked, first, Bool.not_true, Bool.not_false, Bool.false_eq_true, or_self,
      ↓reduceIte]
  case refclkLost =>
    change execLinkRefclkLost q s = _
    simp only [execLinkRefclkLost, powered, Nat.not_le.mpr quadrant, present, Bool.not_true, Bool.false_eq_true, or_self,
      ↓reduceIte]
  case refclkRestored =>
    change execLinkRefclkRestored q s = _
    simp only [execLinkRefclkRestored, powered, Nat.not_le.mpr quadrant, absent, Bool.not_true, Bool.false_eq_true, or_self,
      ↓reduceIte]
  case xtalLost =>
    change execXtalLost s = _
    simp only [execXtalLost, powered, first, Bool.not_true, Bool.false_eq_true, or_self, ↓reduceIte]

/-! ### Resets and bring-up (21 R429 to R431) -/

/-- A write of PWR_RESET_CTL with its key, ENGINE 1 and MODULE 0 (21 R430). -/
theorem State.resetCtl_of_engine {s : State} {v : Word} (key : fld v 8 8 = 0xA5) (stays : v.getLsbD 1 = false)
    (engine : v.getLsbD 0 = true) : s.resetCtl v = s.engineReset := by
  simp only [State.resetCtl, key, stays, engine, ne_eq, not_true_eq_false, Bool.false_eq_true, ↓reduceIte]

/-- A stage ends in a powered module that neither failed, tripped nor lost alignment, with the rails good from stage 3 on
(21 R431). -/
theorem bringUpRuns {s : State} (powered : s.powered = true) (sound : s.pwr.failed = false) (serves : s.pwr.tripped = false)
    (aligned : s.clk.unaligned = false) (rails : 3 ≤ s.pwr.stage → s.pwr.good = true) :
    ¬((!s.powered) = true ∨ s.pwr.failed = true ∨ s.pwr.tripped = true ∨ s.clk.unaligned = true ∨
      (3 ≤ s.pwr.stage ∧ (!s.pwr.good) = true)) := by
  have good : ¬(3 ≤ s.pwr.stage ∧ (!s.pwr.good) = true) := by
    rintro ⟨late, off⟩
    simp [rails late] at off
  simp only [powered, sound, serves, aligned, good, Bool.not_true, Bool.false_eq_true, or_self, not_false_eq_true]

/-- Settles O39: the conditions decide each command's guards, and what is left is its effect. -/
theorem resetsAndBringUpRun : Obligations.ResetsAndBringUpRun := by
  refine ⟨fun v s attached key stays engine => ?engine, fun s powered serves => ?pin, fun b s => ?cold,
    fun s powered tripped saved cool => ?restored, fun r s powered sound serves aligned stage => ?otp,
    fun r s powered sound serves aligned good stage clock => ?clocks,
    fun r s powered sound serves aligned good stage wiping => ?ready⟩
  case engine =>
    exact (congrArg _ (if_pos attached)).trans (congrArg _ (State.resetCtl_of_engine key stays engine))
  case pin =>
    change execModuleReset .pin s = _
    simp only [execModuleReset, powered, serves, Bool.false_eq_true, or_self, ↓reduceIte]
  case cold => rfl
  case restored =>
    change execSupplyRestored s = _
    simp only [execSupplyRestored, powered, tripped, saved, cool, Bool.not_true, Bool.false_eq_true, or_self, ↓reduceIte]
  case otp =>
    refine (congrArg _ (if_neg (bringUpRuns powered sound serves aligned (by omega)))).trans (congrArg _ ?_)
    simp only [stage]
  case clocks =>
    refine (congrArg _ (if_neg (bringUpRuns powered sound serves aligned fun _ => good))).trans (congrArg _ ?_)
    simp only [stage, clock, State.stageAlign, ↓reduceIte]
  case ready =>
    refine (congrArg _ (if_neg (bringUpRuns powered sound serves aligned fun _ => good))).trans (congrArg _ ?_)
    simp only [stage, State.stageReady, wiping, ↓reduceIte]

/-! ### Trips and saves (21 R422, R423, R429) -/

/-- Settles O40: the conditions decide each command's guards, and what is left is its effect. -/
theorem tripsAndSavesRun : Obligations.TripsAndSavesRun := by
  refine ⟨fun s powered serves good => ?supplyTrip, fun l s powered first serves => ?thermalTrip,
    fun s powered saving supply => ?saveDone, fun s powered enabled => ?pwrEnLow, fun s powered => ?fuseOpen⟩
  case supplyTrip =>
    change execSupplyTrip s = _
    simp only [execSupplyTrip, powered, serves, good, Bool.not_true, Bool.false_eq_true, or_self, ↓reduceIte]
  case thermalTrip =>
    change execThermalTrip l s = _
    simp only [execThermalTrip, powered, first, serves, Bool.not_true, Bool.false_eq_true, or_self, ↓reduceIte]
  case saveDone =>
    change execMoonstoneSaveDone s = _
    simp only [execMoonstoneSaveDone, powered, saving, supply, Bool.not_true, Bool.false_eq_true, or_self, ↓reduceIte]
  case pwrEnLow =>
    change execPwrEnLow s = _
    simp only [execPwrEnLow, powered, enabled, State.dropUci, Bool.not_true, Bool.false_eq_true, or_self, ↓reduceIte]
  case fuseOpen =>
    change execInputFuseOpen s = _
    simp only [execInputFuseOpen, powered, Bool.not_true, Bool.false_eq_true, ↓reduceIte]

/-! ### Warnings and the attachment (18 R375, 21 R419, R428) -/

/-- Settles O41: the conditions decide each command's guards, and what is left is its effect. -/
theorem warningsAndDegradesAreReported : Obligations.WarningsAndDegradesAreReported := by
  refine ⟨fun v s powered high => ?vinHigh, fun x s powered hot newly => ?warn, fun x s powered cool => ?clear,
    fun s powered served => ?second, fun s powered served => ?first⟩
  case vinHigh =>
    change execVinHigh v s = _
    simp only [execVinHigh, powered, Nat.not_le.mpr high, Bool.not_true, Bool.false_eq_true, or_self, ↓reduceIte]
  case warn =>
    change execThermWarn x s = _
    simp only [execThermWarn, powered, Nat.not_le.mpr hot, newly, Bool.not_true, Bool.false_eq_true, or_self, ↓reduceIte]
  case clear =>
    change execThermWarnClear x s = _
    simp only [execThermWarnClear, powered, Nat.not_lt.mpr cool, Bool.not_true, Bool.false_eq_true, or_self, ↓reduceIte]
  case second =>
    change execUciDegraded true s = _
    simp only [execUciDegraded, powered, served, Bool.not_true, Bool.false_eq_true, or_self, ↓reduceIte]
  case first =>
    change execUciDegraded false s = _
    simp only [execUciDegraded, powered, served, Bool.not_true, Bool.false_eq_true, or_self, ↓reduceIte]

end Sys2Proof.Machine
end

section
/-!
PROOFS. Faults, firmware and reports: resilvering, notices, event entries and health samples, firmware restarts and live
updates, and what reports and settings requests do (12_links_cells.md R282, R283, 15_egress_scheduling.md R328, R334,
17_faults_recovery.md R355 to R357, R366, R367, R371, R372, 18_steward_interface.md R386, 19_firmware.md R392, R395 to R398,
20_security.md R410, 23_counters_events.md R448, R449).
-/
namespace Sys2Proof.Machine

open Sys2Proof

/-! ### Resilvering (12 R283, 17 R366, R367) -/

/-- RESILVER whose conditions hold, with a free transfer: the control record goes first (17 R366). -/
theorem execResilver_of_place {rq : Req} {m : Member} {s : State} (serves : s.mayServe rq 0x0A = true) (solo : s.led.solo = true)
    (place : s.moduleOf s.nodeA (!s.planeB) = some m) (named : m.fa = BitVec.ofNat 16 (argOf rq 36 2))
    (idle : s.mem.resilver = none) (free : s.tagFree (m.fa, 1#20) = true) :
    execResilver rq true s = .next (
      let t : State := { s with mem := { s.mem with
        resilver := some { carrying := true, twin := m.fa, rq := some rq, control := true, copied := 0, copyDone := false } } }
      (t.freshTx (m.fa, 1#20)).sendMessage m.fa 1#20 kResp tcMgmt 0 false
        (transferHead 2 { gen := t.led.step, role := 0, offset := 0 } t.controlRecord.length) t.controlRecord) := by
  simp only [execResilver, serves, solo, place, ← named, idle, free, beq_self_eq_true, Option.isSome_none, Bool.not_true,
    Bool.false_eq_true, or_self, ↓reduceIte]

/-- RESILVER_COPY_DONE of a copy that has read both banks without loss (17 R367). -/
theorem execResilverCopyDone_of_ready {r : Resilver} {w : List (Nat × Nat)} {s u : State} (runs : s.mem.resilver = some r)
    (engines : s.engines = true) (carries : r.carrying = true) (first : r.copyDone = false)
    (hw : w = [(s.bankAddr false, s.regionSize .stateA * granuleBytes), (s.bankAddr true, s.regionSize .stateA * granuleBytes)])
    (hu : u = s.fetchAll w []) (still : u.mem.resilver = some r) (whole : u.allReady w = true) :
    execResilverCopyDone s = .next (
      let t := [false, true].foldl (fun t b => (List.range (s.regionSize .stateA)).foldl
        (fun t i => t.sendGranule r.twin b (i * granuleBytes)) t) u
      { t with mem := { t.mem with resilver := some { r with copied := 2 * s.regionSize .stateA, copyDone := true } } }) := by
  simp only [execResilverCopyDone, runs, engines, carries, first, ← hw, ← hu, still, whole, Bool.not_true, Bool.false_eq_true,
    ne_eq, not_true_eq_false, or_self, ↓reduceIte]

/-- Settles O29: the conditions pass each command's checks, and what is left is its effect. -/
theorem resilverCopiesTheNode : Obligations.ResilverCopiesTheNode := by
  refine ⟨fun rq m s serves solo place named idle free => ?resilver,
    fun r w u s runs engines carries first hw hu still whole => ?copyDone,
    fun g b u s still hu engines ready empty twin idle whole => ?controlRecord,
    fun ref b u r s still hu runs engines receives whole inside aligned => ?granule⟩
  case resilver =>
    rw [← named]
    exact execResilver_of_place serves solo place named idle free
  case copyDone => exact execResilverCopyDone_of_ready runs engines carries first hw hu still whole
  case controlRecord =>
    change execControlRecordReceive g b s = _
    simp only [execControlRecordReceive, still, ← hu, engines, ready, empty, twin, idle, whole, Option.isSome_none,
      List.isEmpty_nil, Bool.not_true, Bool.false_eq_true, ne_eq, not_true_eq_false, or_self, ↓reduceIte]
  case granule =>
    change execGranuleReceive ref b s = _
    simp only [execGranuleReceive, still, ← hu, runs, engines, receives, whole, Nat.not_le.mpr inside, aligned,
      Option.isSome_none, Bool.not_true, Bool.false_eq_true, ne_eq, not_true_eq_false, or_self, ↓reduceIte]

/-! ### Notices (12 R282, 13 R303, 17 R355 to R357) -/

/-- Settles O48: the conditions decide each notice's guards, and what is left is its effect. -/
theorem noticesChangeTheEpochTable : Obligations.NoticesChangeTheEpochTable := by
  refine ⟨fun a f e d b u s firmware hu served => ?fence, fun f s firmware deferred fenced unapplied waited => ?bump,
    fun a f e g u s firmware hu fenced => ?admission, fun a r d m x b s firmware => ?link⟩
  case fence =>
    change execFenceNotice a f e d b s = _
    simp only [execFenceNotice, firmware, ← hu, served, Bool.not_true, Bool.not_false, Bool.false_eq_true, ↓reduceIte]
  case bump =>
    change execFenceBumpDeferred f s = _
    simp only [execFenceBumpDeferred, firmware, deferred, fenced, unapplied, waited, List.isEmpty_nil, Bool.not_true,
      Bool.false_eq_true, or_self, ↓reduceIte]
  case admission =>
    change execAdmitNotice a f e g s = _
    simp only [execAdmitNotice, firmware, ← hu, fenced, Bool.not_true, Bool.false_eq_true, and_false, ↓reduceIte]
  case link =>
    change execLinkNotice a r d m x b s = _
    simp only [execLinkNotice, firmware, Bool.not_true, Bool.false_eq_true, ↓reduceIte]

/-! ### Event entries and health samples (17 R371, R372, 23 R448) -/

/-- HEALTH_SAMPLE of a component in use: it is written, then what is newly low is raised (17 R372). -/
theorem execHealthSample_of_sample {s : State} {n x base : Nat} {m : Measure} (firmware : s.firmware = true) (component : n < 256)
    (samples : s.rdf .telHealthCfg 0 10 ≠ 0) (present : s.healthAbsent n = false) (used : s.healthUnused n = false)
    (sampled : s.sample n m = some (x, base)) :
    execHealthSample n m s = .next (
      let h := s.healthAfter n x base
      let t := { s with health := Assoc.set n h s.health }
      let t := if h.warn && !(s.healthOf n).warn then t.raise evWearWarn 0 n else t
      if h.fault && !(s.healthOf n).fault then t.raise evWearFault 0 n else t) := by
  simp only [execHealthSample, firmware, Nat.not_le.mpr component, samples, present, used, sampled, Bool.not_true,
    Bool.false_eq_true, or_self, ↓reduceIte]
  rfl

/-- `State.healthAfter` is the component whose fields are those of the rule (17 R372). -/
theorem State.healthAfter_eq_of_fields {s : State} {n x base : Nat} {y : Health}
    (score : y.score = nextScore (s.healthOf n).score x (s.rdf .telHealthCfg 10 4))
    (warn : y.warn = flagAfter (s.healthOf n).warn y.score (s.rdf .telHealthCfg 14 10) (s.rdf .telHealthCfg 34 10))
    (fault : y.fault = flagAfter (s.healthOf n).fault y.score (s.rdf .telHealthCfg 24 10) (s.rdf .telHealthCfg 34 10))
    (last : y.last = x) (errors : y.base = base) (present : y.present = true) : s.healthAfter n x base = y := by
  obtain ⟨yScore, yWarn, yFault, yLast, yBase, yPresent⟩ := y
  dsimp only at score warn fault last errors present
  subst score warn fault last errors present
  rfl

/-- Settles O57: the entry's guard, and the component that `State.healthAfter` writes. -/
theorem eventsAndHealthAreWritten : Obligations.EventsAndHealthAreWritten := by
  refine ⟨fun e l a t s waits attached enabled ha ht => ?entry,
    fun n x b m y w f t s firmware component samples present used sampled score hw hf warn fault last base isPresent ht => ?sample⟩
  case entry =>
    change execEventRingEntryWrite s = _
    subst ha
    simp only [execEventRingEntryWrite, waits, attached, enabled, ← ht, Bool.not_true, Bool.false_eq_true, or_self, ↓reduceIte]
  case sample =>
    have written : s.healthAfter n x b = y :=
      State.healthAfter_eq_of_fields score (warn.trans hw) (fault.trans hf) last base isPresent
    refine (execHealthSample_of_sample firmware component samples present used sampled).trans ?_
    simp only [written, warn, fault, ht, Bool.and_eq_true, Bool.not_eq_true']

/-! ### Live updates (19 R397, R398) -/

/-- Settles O30: the conditions decide each stage's guards, and what is left is its effect. -/
theorem liveUpdateRunsItsStages : Obligations.LiveUpdateRunsItsStages := by
  refine ⟨fun rq b g s serves turn accepted notOlder near quiet => ?start, fun u s updating firmware stage => ?written,
    fun u s updating firmware stage waits reads => ?takeOver, fun u s updating firmware stage waits => ?goesOn,
    fun u s updating firmware stage busy => ?timeout⟩
  case start =>
    change execFwUpdate rq b g s = _
    simp only [execFwUpdate, serves, turn, accepted, Nat.not_lt.mpr notOlder, Nat.not_lt.mpr near, quiet, Bool.not_true,
      Bool.false_eq_true, or_self, ↓reduceIte]
  case written =>
    change execFwImageWritten s = _
    simp [execFwImageWritten, updating, firmware, stage]
  case takeOver =>
    change execFwHandoff true s = _
    simp only [execFwHandoff, updating, firmware, stage, waits, reads, Bool.and_self, Bool.not_true, Bool.false_eq_true, ne_eq,
      not_true_eq_false, or_self, ↓reduceIte]
  case goesOn =>
    change execFwHandoff false s = _
    simp only [execFwHandoff, updating, firmware, stage, waits, Bool.false_and, Bool.not_true, Bool.false_eq_true, ne_eq,
      not_true_eq_false, or_self, ↓reduceIte]
  case timeout =>
    change execUpdateWaitTimeout s = _
    simp only [execUpdateWaitTimeout, updating, firmware, stage, busy, Bool.not_true, Bool.false_eq_true, ne_eq,
      not_true_eq_false, or_self, ↓reduceIte]

/-! ### Restarts (17 R363, 19 R395, R396) -/

/-- Settles O38: the conditions decide each command's guards, and what is left is its effect. -/
theorem firmwareRestarts : Obligations.FirmwareRestarts := by
  refine ⟨fun v s attached asks => ?asked, fun k s firmware cores => ?watchdog, fun s engines restarting cause often => ?halts,
    fun s engines restarting rare => ?runs⟩
  case asked => exact (congrArg _ (if_pos attached)).trans (congrArg _ (if_pos asks))
  case watchdog =>
    change execWatchdogExpire k s = _
    simp only [execWatchdogExpire, firmware, cores, Bool.not_true, Bool.false_eq_true, or_self, ↓reduceIte]
  case halts =>
    change execFwRestartDone s = _
    simp only [execFwRestartDone, engines, restarting, if_pos (And.intro cause often), Bool.not_true, Bool.false_eq_true, ne_eq,
      not_true_eq_false, or_self, ↓reduceIte]
  case runs =>
    change execFwRestartDone s = _
    simp only [execFwRestartDone, engines, restarting, Nat.not_le.mpr rare, and_false, Bool.not_true, Bool.false_eq_true, ne_eq,
      not_true_eq_false, or_self, ↓reduceIte]

/-! ### Reports and settings (15 R328, R334, 18 R386, 19 R392, 20 R410, 23 R449) -/

/-- A gate list whose entries are in order has no offending offset (15 R328). -/
theorem gateEntriesBad_of_ok {e : List Byte} {n : Nat}
    (ok : ∀ i, i < n → leAt e (4 * i) 2 ≠ 0 ∧ byteAt e (4 * i + 2) < 32 ∧ byteAt e (4 * i + 3) = 0) :
    ((List.range n).flatMap fun i => need (decide (leAt e (4 * i) 2 ≠ 0)) (4 * i)
      ++ need (decide (byteAt e (4 * i + 2) < 32) && byteAt e (4 * i + 3) == 0) (4 * i + 2)) = [] := by
  rw [List.flatMap_eq_nil_iff]
  intro i mem
  obtain ⟨duration, classes, reserved⟩ := ok i (List.mem_range.mp mem)
  simp [duration, classes, reserved, need]

/-- Settles O31: the conditions pass each request's checks, and what is left is its effect. -/
theorem reportsAnswerAndSettingsApply : Obligations.ReportsAnswerAndSettingsApply := by
  refine ⟨fun rq n t s serves turn key drawn => ?attest, fun rq b k s serves global planless body => ?snapshot,
    fun rq s serves port fields role split => ?port, fun rq s serves port low high off => ?meter,
    fun rq m s serves aligned off sized => ?log,
    fun rq e s serves port last en start sized entries sum opens => ?gate⟩
  case attest =>
    change execAttest rq s = _
    simp only [execAttest, serves, turn, key, drawn, Bool.not_true, Bool.false_eq_true, or_self, ↓reduceIte]
  case snapshot =>
    change execTelemetrySnapshot rq s = _
    have plain : (argOf rq 36 1 == 1 || argOf rq 36 1 == 2 || argOf rq 36 1 == 3) = false := by
      simp only [Bool.or_eq_false_iff, beq_eq_false_iff_ne]
      omega
    have known : ¬8 < argOf rq 36 1 := by omega
    have first : argOf rq 36 1 ≠ 1 := by omega
    have third : argOf rq 36 1 ≠ 3 := by omega
    simp only [execTelemetrySnapshot, serves, plain, known, planless, first, third, body, ne_eq, not_true_eq_false, and_false,
      Bool.not_true, Bool.false_eq_true, or_self, ↓reduceIte]
  case port =>
    change execPortConfig rq s = _
    have modelled : (argOf rq 37 1 % 4 != 2 || argOf rq 37 1 / 4 % 4 != 3) = true := by simpa using role
    simp only [execPortConfig, serves, port, fields, modelled, split, decide_true, Bool.and_self, need_true, List.append_nil,
      List.isEmpty_nil, Bool.not_true, Bool.false_eq_true, ↓reduceIte]
  case meter =>
    change execMeterConfig rq s = _
    simp only [execMeterConfig, serves, port, low, high, off, decide_true, Bool.and_self, need_true, List.append_nil,
      List.isEmpty_nil, Bool.not_true, Bool.false_eq_true, ↓reduceIte]
  case log =>
    change execLogConfig rq m s = _
    simp only [execLogConfig, serves, aligned, off, sized, beq_self_eq_true, Bool.true_or, need_true, List.append_nil,
      List.isEmpty_nil, ne_eq, not_true_eq_false, false_and, and_false, Bool.not_true, Bool.false_eq_true, ↓reduceIte]
  case gate =>
    change execGateConfig rq e s = _
    simp only [execGateConfig, serves, port, last, en, start, sized, gateEntriesBad_of_ok entries, sum, opens, decide_true,
      beq_self_eq_true, need_true, List.append_nil, List.isEmpty_nil, Bool.not_true, Bool.false_eq_true, ↓reduceIte]

end Sys2Proof.Machine
end
